-- ==== Sys2Proof/Word.lean ====
section
/-! DEFINITION. The word types of the model: bytes, register words and the fixed-width fields of wire formats. -/

namespace Sys2Proof

/-- One byte of a value, a message or the Plinth flash. -/
abbrev Byte := BitVec 8

/-- One register of a register page (R9, R404). -/
abbrev Word := BitVec 32

/-- A byte string, byte 0 first (R6). -/
abbrev Bytes := List Byte

end Sys2Proof
end

