-- ==== Sys2Proof/Types.lean ====
section
/-! DEFINITION. The names and records that commands and state share: parts of the brick, Relief and Mortar messages,
results of tiles. -/

namespace Sys2Proof

/-- The two wythes of the brick (R1). -/
inductive Wy where
  | w0
  | w1
  deriving DecidableEq, Repr

/-- The number of a wythe. -/
def Wy.num : Wy → Nat
  | .w0 => 0
  | .w1 => 1

/-- The other wythe. -/
def Wy.peer : Wy → Wy
  | .w0 => .w1
  | .w1 => .w0

/-- The wythe that holds a home partition: p mod 2 (R54). -/
def wyOfPart (p : Nat) : Wy := if p % 2 = 0 then .w0 else .w1

/-- The two halves of the rear connector and of the label's status: half A feeds wythe 0, half B wythe 1. -/
inductive Half where
  | a
  | b
  deriving DecidableEq, Repr

/-- The register pages of the brick (R403). Level-4 pages, PWR, HLT and FWU are one per wythe; CHN pages and the
Plinth pages are one per brick. -/
inductive Page where
  | glb (w : Wy)
  | pwr (w : Wy)
  | clk (w : Wy)
  | rst (w : Wy)
  | tie (w : Wy)
  | hlt (w : Wy)
  | tst (w : Wy)
  | fwu (w : Wy)
  | cip (w : Wy)
  | bpm (w : Wy)
  | med (w : Wy)
  | mtr (w : Wy)
  | rlf (w : Wy)
  | rdm (w : Wy)
  | ptp (w : Wy)
  | mac (w : Wy) (port : Fin 4)
  | pnl (w : Wy) (panel : Fin 4)
  | crs (w : Wy) (course : Fin 16)
  | til (w : Wy) (tile : Fin 128)
  | chn (channel : Fin 64)
  | plt
  | pfl
  | evr
  | fpn
  | svc
  deriving DecidableEq, Repr

/-- The kinds of tile (R13). -/
inductive TileKind where
  | protocol
  | codec
  | crypt
  | control
  | media
  deriving DecidableEq, Repr

/-- A Relief opcode (R59). -/
inductive Opcode where
  | hello | mapGet | put | putOpen | putPart | putClose | patch | punch | delete
  | get | stat | list | batch | cast | castDrop | outcome | flush | subscribe
  deriving DecidableEq, Repr

/-- A Relief status (R83). -/
inductive Status where
  | ok | notFound | exists | versionMismatch | shortBuffer | tainted | redirect | busyRetry | epochStale
  | full | unavailable | lost | tooLarge | badFormat | notPermitted | castExpired | keyspaceLocked | internal
  deriving DecidableEq, Repr

/-- A detail code (R84). -/
inductive Detail where
  | none | lengthMismatch | keyRequired | immNotAllowed | flagConflict | tagInUse | requestIdZero | range
  | crossPartition | dupKey | partMissing | uploadUnknown | unknownOpcode | protoVersion | reservedNonzero
  | partSize | unknownKind | keyspaceRequired | drain | admission | notClosed | uploadLimit | moving
  | noRight | noHello | unknownKeyspace | wallFull | castLimit | done | neverStarted | unknown
  deriving DecidableEq, Repr

/-- A command capsule (R43) without KIND and OPCODE, which the command's row gives. -/
structure Capsule where
  qepoch    : BitVec 16
  tagByte   : BitVec 8
  byte5     : BitVec 8
  flags     : BitVec 16
  requestId : BitVec 64
  keyspace  : BitVec 32
  keyLen    : BitVec 16
  immLen    : BitVec 16
  version   : BitVec 64
  offset    : BitVec 64
  length    : BitVec 64
  bufAddr   : BitVec 64
  bufRkey   : BitVec 32
  aux       : BitVec 32
  deriving DecidableEq, Repr

/-- A capsule with every field zero. -/
def Capsule.zero : Capsule :=
  { qepoch := 0, tagByte := 0, byte5 := 0, flags := 0, requestId := 0, keyspace := 0, keyLen := 0, immLen := 0,
    version := 0, offset := 0, length := 0, bufAddr := 0, bufRkey := 0, aux := 0 }

/-- A command message: the capsule and the bytes that follow it (R40). -/
structure Msg where
  cap     : Capsule
  trailer : Bytes
  deriving DecidableEq, Repr

/-- What a message in a submission ring is (R413): a listed command, a control capsule with its code (0x100 for an unknown KIND), or an unlisted
opcode. -/
structure SqMsg where
  control : Option Nat
  op      : Option Opcode
  msg     : Msg
  deriving DecidableEq, Repr

/-- The transport of a Relief queue (R39): a RoCEv2 connection with its path MTU and source address, or a PCI Express
queue page. -/
inductive Transport where
  | roce (mtu : Nat) (src : BitVec 128)
  | pcie (page : Fin 64)
  deriving DecidableEq, Repr

/-- A place of a stored chunk record, as a lead acknowledges it (R150, R151). -/
structure Place where
  fragId     : Nat
  offset     : Nat
  length     : Nat
  keyVersion : Nat
  deriving DecidableEq, Repr

/-- The result of a lead's acknowledgement (R150). -/
inductive AckResult where
  | new
  | duplicate
  | full
  | notLead
  deriving DecidableEq, Repr

/-- The codec of a chunk record (R145). -/
inductive Codec where
  | stored
  | zstd
  | deflate
  deriving DecidableEq, Repr

/-- One chunk of a recipe (R156). -/
structure RecipeEntry where
  fp     : Bytes
  place  : Place
  start  : Nat
  plain  : Nat
  codec  : Codec
  deriving DecidableEq, Repr

/-- What a tile's job works for (R134, R166): the pull or the cutting of an operation of a write, a chunk or an inline value
of a write, the inline value that a PATCH is built on, a chunk or an inline value of a read; or work of no client command: the check of a rebuilt record, a record
decrypted for the other wall, or one encrypted that came from it (R275). -/
inductive JobRef where
  | pull (cmd entry : Nat)
  | cut (cmd entry : Nat)
  | writeChunk (cmd chunk : Nat)
  | writeInline (cmd entry : Nat)
  | oldInline (cmd entry : Nat)
  | readChunk (cmd chunk : Nat)
  | readInline (cmd : Nat)
  | background (n : Nat)
  | ship (n : Nat)
  | land (n : Nat)
  deriving DecidableEq, Repr

/-- The result of a crypt job (R170). -/
inductive CryptResult where
  | done
  | tagFail
  | keyAbsent
  | ctrExhausted
  | lengthRange
  | resvFail
  | tileFault
  | ended
  deriving DecidableEq, Repr

/-- The fault of a tile (R32). -/
inductive TileFault where
  | parity
  | ecc
  | watchdog
  deriving DecidableEq, Repr

/-- Where a fault of R32 stands: in the tile; in a word of its course's SRAM, corrected or not (R16); in the course's SRAM or
scheduler; in the panel's grout slice; in the wythe's hub or DRAM. -/
inductive FaultSite where
  | tile
  | sramCorrected
  | sramWord
  | course
  | slice
  | hub
  deriving DecidableEq, Repr

/-- The word of DRAM whose read met an uncorrectable error (R19, R21): one that no job of the model was reading, the buffer of a job, or in the
own half of the protected window the copy at an offset of a pending stripe, or a key-index record of a partition. -/
inductive DramWord where
  | other
  | buffer (job : JobRef)
  | copy (stripe offset : Nat)
  | index (p version : Nat)
  deriving DecidableEq, Repr

/-- The units of a codec tile (R14). -/
inductive CodecUnit where
  | hash
  | compress
  | decompress
  | galois
  deriving DecidableEq, Repr

/-! ### Mortar (07) -/

/-- What a receiver reads in the header of a Mortar message (R207): the sender, its compatibility level, its
membership epoch and its hybrid time. -/
structure MHead where
  src    : Nat
  srcW   : Wy
  compat : Nat
  epoch  : Nat
  hlc    : Nat
  addr   : BitVec 128
  deriving DecidableEq, Repr

/-- A key-version count entry of a HEARTBEAT (R181, R214): keyspace, key version, records. -/
structure KeyCount where
  keyspace : BitVec 32
  ver      : Nat
  count    : Nat
  deriving DecidableEq, Repr

/-- The body of a HEARTBEAT (R214). -/
structure HbBody where
  seq         : Nat
  bondVersion : Nat
  mapVersion  : Nat
  closed0     : Nat
  closed1     : Nat
  running0    : Bool
  running1    : Bool
  cover       : Nat
  inSync0     : Bool
  inSync1     : Bool
  ready       : Bool
  full        : Bool
  replace     : Bool
  removeReady : Bool
  stopping    : Bool
  freeGiB     : Nat
  usableGiB   : Nat
  passEnd     : Bool
  counts      : List KeyCount
  ports       : Nat
  addrs       : List (BitVec 128)
  deriving DecidableEq, Repr

/-- The body of a HEARTBEAT_REPLY (R214). -/
structure HbReply where
  seq         : Nat
  term        : Nat
  leader      : Bool
  notMember   : Bool
  epoch       : Nat
  bondVersion : Nat
  mapVersion  : Nat
  castVersion : Nat
  wallClosed  : Nat
  deriving DecidableEq, Repr

/-- A JOIN_REQUEST (R193, R214), with the result of the check of its certificate, which the spec leaves to X.509. -/
structure JoinReq where
  wallId    : Nat
  prevId    : Nat
  ivDomain  : BitVec 16
  hasResv   : Bool
  enclosure : Nat
  rack      : Nat
  serial    : Bytes
  ephemeral : Bytes
  cert      : Bytes
  certOk    : Bool
  deriving DecidableEq, Repr

/-- The result of a JOIN_GRANT (R214). -/
inductive JoinResult where
  | granted
  | notAdmitted
  | compat
  | wallFull
  | domainsFull
  | wrongWall
  deriving DecidableEq, Repr

/-- A JOIN_GRANT (R194, R214). -/
structure JoinGrant where
  result     : JoinResult
  substitute : Bool
  id         : Nat
  epoch      : Nat
  ivDomain   : BitVec 16
  ephemeral  : Bytes
  wrappedKey : Bytes
  signature  : Bytes
  cert       : Bytes
  deriving DecidableEq, Repr

/-- The kinds of REMOVE_NOTICE (R205, R214). -/
inductive RemoveKind where
  | remove
  | removeReturn (seconds : Nat)
  | cancel
  deriving DecidableEq, Repr

/-- The objects of the wall's state that STATE_GET names (R214). -/
inductive StateObj where
  | map
  | bond
  | casts
  | settings
  deriving DecidableEq, Repr

/-- The state of a brick in the wall (R201). -/
inductive BState where
  | joining
  | member
  | suspect
  | leaving
  | lost
  deriving DecidableEq, Repr

/-- A row of the bond table: positions 0 to k + m - 1 and the two spill columns (R215). -/
structure BondRow where
  pos   : List Nat
  spill : List Nat
  deriving DecidableEq, Repr

/-- The three rights of a keyspace (R53). -/
structure Rights where
  read  : Bool
  write : Bool
  cast  : Bool
  deriving DecidableEq, Repr

/-- A source that a policy grants rights to: an range of addresses, or the PCI Express function of a wythe (R53). -/
inductive Source where
  | subnet (addr : BitVec 128) (bits : Nat)
  | function (w : Wy)
  deriving DecidableEq, Repr

/-- A keyspace's compression (R142). -/
inductive Compression where
  | none
  | zstd
  | deflate
  deriving DecidableEq, Repr

/-- The replication role of a keyspace (R272). -/
inductive ReplRole where
  | none
  | primary
  | secondary
  deriving DecidableEq, Repr

/-- A keyspace policy (R53, R133, R139, R142, R164, R272). -/
structure Keyspace where
  id           : BitVec 32
  grants       : List (Source × Rights)
  compression  : Compression
  verify       : Bool
  locked       : Bool
  historyS     : Nat
  castLifeS    : Nat
  salt         : Bytes
  role         : ReplRole
  linkWall     : Nat
  linkContact  : BitVec 128
  shipS        : Nat
  keyVers      : Nat
  rotate       : Nat
  deriving DecidableEq, Repr

/-- The wall settings (R190, R133, R101, R137, R231, R249, R266). `gear = none` is the default table of R137;
`codeRows` holds the parity matrix of a loadable code table. -/
structure WallSettings where
  wallId     : Nat
  udpPort    : Nat
  mtu        : Nat
  k          : Nat
  m          : Nat
  fragBytes  : Nat
  groups     : Nat
  codeTable  : Nat
  armSize    : Nat
  lossDelayS : Nat
  admitList  : Bool
  admitted   : List Bytes
  ptpInternal : Bool
  ptpDomain  : Nat
  ppsIn      : Bool
  epsUs      : Nat
  closedLagMs : Nat
  retainS    : Nat
  gear       : Option (List Nat)
  thinPct    : Nat
  codeRows   : List (List Nat)
  tierMbs : List Nat
  tierPct : List Nat
  deriving DecidableEq, Repr

/-- A retained key version of a keyspace, its key wrapped under the wall key as the armature sends it (R180). -/
structure KeyVer where
  keyspace : BitVec 32
  ver      : Nat
  wrapped  : Bytes
  deriving DecidableEq, Repr

/-- One change of the armature's replicated state (R197). -/
inductive ArmChange where
  | noop
  | brick (id : Nat) (st : BState) (enclosure rack : Nat) (serial : Bytes)
  | removed (id : Nat)
  | ivDomain (id : Nat) (domain : BitVec 16)
  | bondRows (rows : List (Nat × BondRow))
  | partition (p home s1 s2 : Nat) (moving : Bool)
  | cover (id : Nat) (cover : Nat)
  | addresses (id ports : Nat) (addrs : List (BitVec 128))
  | castNew (id : Nat) (keyspace : BitVec 32) (time asker : Nat) (requestId : BitVec 64)
  | castReady (id : Nat)
  | castGone (id : Nat)
  | castApplied (id : Nat) (keyspace : BitVec 32) (time sourceCast : Nat)
  | castOutcome (keyspace : BitVec 32) (requestId : BitVec 64) (status : Status) (version result : Nat) (detail : Detail)
  | settings (ws : WallSettings)
  | policy (k : Keyspace)
  | policyGone (keyspace : BitVec 32)
  | armMembers (ids : List Nat)
  | keyVersion (keyspace : BitVec 32) (ver : Nat) (wrapped : Bytes)
  | keyRetired (keyspace : BitVec 32) (ver : Nat)
  | linkKey (keyspace : BitVec 32) (wrapped : Bytes)
  | opened
  deriving DecidableEq, Repr

/-- An entry of the armature's log (R197). -/
structure LogEntry where
  index  : Nat
  term   : Nat
  change : ArmChange
  deriving DecidableEq, Repr

/-- A version of a key: a value or a deletion (R64, R69), with its recipe (R156) or its inline bytes (R147). -/
structure ValueVer where
  time      : Nat
  live      : Bool
  length    : Nat
  inlined   : Option Bytes
  inlineKey : Nat
  inlineIv  : Bytes
  inlineTag : Bytes
  chunks    : List RecipeEntry
  holes     : List (Nat × Nat)
  first     : Nat
  deriving DecidableEq, Repr

/-- What marks a key-index record as staged at the remote wall of a link, not visible (R275): its source cast and offer, whether the offer was the
last, and the source home that is told. -/
structure StagedTag where
  sourceCast : Nat
  offer      : Nat
  last       : Bool
  src        : Nat
  deriving DecidableEq, Repr

/-- A key-index record as INDEX_PUT and PART_RECORDS carry it (R100, R155, R214): the outcome and the versions of its keys, or one of the
segments in which long recipes are held (R156); `counts` are the chunk entries that the whole recipe of each key has. The
spec gives the record's recipe its bytes (R156) and leaves the rest of its format open (log 18). -/
structure IdxRec where
  staged    : Option StagedTag
  version   : Nat
  keyspace  : BitVec 32
  requestId : BitVec 64
  status    : Status
  detail    : Detail
  result    : Nat
  adds      : List (Bytes × ValueVer)
  segment   : Nat
  segments  : Nat
  counts    : List Nat
  deriving DecidableEq, Repr

/-- A partition's entry of the partition map (R56). -/
structure PartEntry where
  home     : Nat
  standby1 : Nat
  standby2 : Nat
  moving   : Bool
  epoch    : Nat
  deriving DecidableEq, Repr

/-- The state of a brick in the brick table of the map (R57). -/
structure MapBrick where
  id     : Nat
  state  : Nat
  ports  : Nat
  cover  : Nat
  addrs0 : List (BitVec 128)
  addrs1 : List (BitVec 128)
  deriving DecidableEq, Repr

/-- The partition map held (R55). -/
structure PartMap where
  version : Nat
  epoch   : Nat
  parts   : List (Nat × PartEntry)
  bricks  : List MapBrick
  deriving DecidableEq, Repr

/-- The bond table held (R215): the version, the epoch it was built for, its caps and its rows by group. -/
structure BondTable where
  version : Nat
  epoch   : Nat
  encCap  : Nat
  rackCap : Nat
  rows    : List (Nat × BondRow)
  deriving DecidableEq, Repr

/-- An entry of the cast registry as the armature hands it out (R123). -/
structure CastEntry where
  id        : Nat
  keyspace  : BitVec 32
  time      : Nat
  ready     : Bool
  expiry    : Option Nat
  requestId : BitVec 64
  deriving DecidableEq, Repr

/-- A recorded outcome of a CAST or CAST_DROP, which the armature hands out with the cast registry (R80, R124). -/
structure CastOutcome where
  keyspace  : BitVec 32
  requestId : BitVec 64
  status    : Status
  version   : Nat
  result    : Nat
  detail    : Detail
  deriving DecidableEq, Repr

/-- A state object whole, as STATE_DATA ends it (R213, R214): a map or bond table as its bytes spell it (R55, R215), the cast
registry and the wall settings with the keyspace policies (R506) as records, since the spec gives no bytes for them. -/
inductive StatePayload where
  | map (m : PartMap)
  | bond (b : BondTable)
  | casts (version : Nat) (l : List CastEntry) (outcomes : List CastOutcome)
  | settings (version : Nat) (ws : WallSettings) (policies : List Keyspace) (keys : List KeyVer)
      (armature : List Nat) (links : List (BitVec 32 × Bytes))
  deriving DecidableEq, Repr

/-! ### Stripe messages (08) -/

/-- The answers of JOURNAL_ACK (R252). -/
inductive JAck where
  | placed
  | notJournal
  | sealHeld
  | digestMismatch
  deriving DecidableEq, Repr

/-- The answers of FRAG_ACK (R252). -/
inductive FAck where
  | done
  | full
  | staleGen
  | notTarget
  deriving DecidableEq, Repr

/-- The answers of RANGE_DATA (R252). -/
inductive RStatus where
  | ok
  | notHeld
  | uncorrectable
  deriving DecidableEq, Repr

/-- The kinds of FRAG_PUT (R252). -/
inductive FKind where
  | seal
  | rebuild
  | move
  deriving DecidableEq, Repr

/-- The states of a stripe (R232). -/
inductive StripeSt where
  | opened
  | sealing
  | sealed
  deriving DecidableEq, Repr

/-- The purposes of RANGE_READ (R252). -/
inductive Purpose where
  | client
  | repair
  | rebuild
  | verify
  deriving DecidableEq, Repr

/-- An entry of a STRIPE_LIST (R252). -/
structure ListEntry where
  stripe   : Nat
  gen      : Nat
  holder   : Nat
  exposure : Nat
  held     : Bool
  missing  : Bool
  deriving DecidableEq, Repr

/-- The body of a FRAG_PUT (R252) without its bytes. -/
structure FragHead where
  fragId  : Nat
  gen     : Nat
  fill    : Nat
  digest  : Bytes
  targets : List Nat
  lead    : Nat
  kind    : FKind
  crc     : BitVec 32
  deriving DecidableEq, Repr

/-- The body of a JOURNAL_STATE (R252). -/
structure JState where
  stripe  : Nat
  fill    : Nat
  digest  : Bytes
  lead    : Nat
  journal : List Nat
  st      : StripeSt
  gen     : Nat
  recs    : List (Nat × Nat)
  deriving DecidableEq, Repr

/-! ### References and replication (09) -/

/-- The kinds of delta entries (R257). -/
inductive DeltaKind where
  | confirm
  | add
  | sub
  | cancel
  | probe
  deriving DecidableEq, Repr

/-- An entry of a REF_DELTA (R257, R278). -/
structure DeltaEntry where
  fp        : Bytes
  kind      : DeltaKind
  chunk     : Nat
  requestId : BitVec 64
  fragId    : Nat
  deriving DecidableEq, Repr

/-- The answers of REF_ACK (R278). -/
inductive RefRes where
  | applied
  | notLead
  | notReady
  deriving DecidableEq, Repr

/-- The answers of THIN_ACK (R278). -/
inductive ThinRes where
  | ready
  | aborted
  | committed
  deriving DecidableEq, Repr

/-- An entry of a fingerprint index (R255). -/
structure FpEntry where
  fp     : Bytes
  place  : Place
  pinned : Bool
  count  : Nat
  deriving DecidableEq, Repr

/-- A pending reference (R256, R278). -/
structure PendRef where
  home      : Nat
  p         : Nat
  requestId : BitVec 64
  chunk     : Nat
  created   : Nat
  fp        : Bytes
  deriving DecidableEq, Repr

/-- The dead bytes of a stripe and its thinning mark (R254, R266, R278). -/
structure DeadEntry where
  stripe   : Nat
  dead     : Nat
  thinning : Bool
  deriving DecidableEq, Repr

/-- The reference-state image of a group (R254, R278). -/
structure GroupImage where
  index  : List FpEntry
  pend   : List PendRef
  log    : List (Nat × Nat)
  lwm    : List (Nat × Nat)
  dead   : List DeadEntry
  deriving DecidableEq, Repr

/-- The kinds of REPL_LINK (R278). -/
inductive LinkKind where
  | linkOffer
  | linkAccept
  | castBegin
  | castApplied
  | linkRefused
  deriving DecidableEq, Repr

/-- A REPL_LINK body (R278). -/
structure ReplLink where
  kind       : LinkKind
  keyspace   : BitVec 32
  sourceWall : Nat
  remoteWall : Nat
  sourceCast : Nat
  remoteCast : Nat
  castTime   : Nat
  ephemeral  : Bytes
  signature  : Bytes
  cert       : Bytes
  deriving DecidableEq, Repr

/-- A key entry of a REPL_OFFER (R278). -/
structure OfferKey where
  key      : Bytes
  deletion : Bool
  sealed   : Bytes
  version  : Nat
  length   : Nat
  recipe   : List RecipeEntry
  holes    : List (Nat × Nat)
  deriving DecidableEq, Repr

/-! ### Media (10-12) -/

/-- A code word without its LDPC parity (R280): 4,096 data bytes and the 64-byte tag. -/
structure Cw where
  data : Bytes
  tag  : Bytes
  deriving DecidableEq, Repr

/-- A source entry of a CH_FOLD (R345). -/
structure FoldSrc where
  block  : Nat
  page   : Nat
  plane  : Nat
  parity : Bool
  deriving DecidableEq, Repr

/-- A chisel request (R344) without its routine, which the command's row gives; `slots` are the code words its buffer holds for a
program, `sources` the source entries of a fold (R345). -/
structure ChReq where
  flags    : Nat
  cls      : Nat
  die      : Nat
  channel  : Nat
  planes   : Nat
  cw       : Nat
  retry    : Nat
  blocks   : List Nat
  page     : Nat
  erases   : Nat
  offsets  : Bytes
  res35    : Nat
  buffer   : Nat
  bufOff   : Nat
  cookie   : Nat
  seq      : Nat
  time     : Nat
  slots    : List Cw
  sources  : List FoldSrc
  deriving DecidableEq, Repr

/-- The chisel routines (R345). -/
inductive Routine where
  | read
  | readRetry
  | progSlc
  | progQlc
  | fold
  | erase
  | eraseVerify
  | readParam
  | calibrate
  | dieReset
  | status
  deriving DecidableEq, Repr

/-- The chisel results (R345). -/
inductive ChResult where
  | done
  | programNotErased
  | programFail
  | eraseFail
  | uncorrectable
  | erased
  | sourceUncorrectable
  | badRequest
  | notOwner
  | intentMissing
  | dieTimeout
  | dieBusy
  | abandoned
  deriving DecidableEq, Repr

/-- How a die operation ends, as the die and the decoder report it (R345): the result, DETAIL, the code words read correctly,
those whose LDPC succeeded and whose CRC failed, the retry step, the attempts made, the die temperature in 0.1 °C, and the most
bits corrected. -/
structure DieEnd where
  result    : ChResult
  detail    : Nat
  good      : Nat
  crcBad    : Nat
  step      : Nat
  attempts  : Nat
  temp      : Int
  corrected : Nat
  deriving DecidableEq, Repr

/-- An allocation request (R362): the requester's grout source number, the size, WAIT, RESERVE and the cookie. -/
structure BufReq where
  requester : Nat
  size      : Nat
  wait      : Bool
  reserve   : Bool
  cookie    : Nat
  deriving DecidableEq, Repr

/-! ### Ethernet frames (14) -/

/-- What a frame is addressed to (R375). -/
inductive FrameDst where
  | own
  | broadcast
  | group
  | other
  deriving DecidableEq, Repr

/-- What a RoCEv2 packet of a connection carries beside its data (R387): nothing else, an ACK, a NAK with the packets it makes the
engine resend, or an RNR NAK. -/
inductive RoceKind where
  | data
  | ack
  | nak (resent : Nat)
  | rnr
  deriving DecidableEq, Repr

/-- What a received frame holds for its transport (R375, R383, R387, R207, R223): of a Mortar packet the sender's address, whether the IP
header carried CE, and the bytes that follow the UDP header. A PTP frame gives what the wythe's servo makes of it:
whether its port's master is the best one, the offset and its uncertainty, in ns. -/
inductive FramePay where
  | roce (q : Nat) (icrcOk ce : Bool) (k : RoceKind)
  | mortar (addr : BitVec 128) (ce : Bool) (bytes : Bytes)
  | ptp (best : Bool) (offsetNs uncertNs : Nat)
  | pause
  | other
  deriving DecidableEq, Repr

/-- A received Ethernet frame (R374, R375, R384): its length, whether its FCS is right, its destination, EtherType, VLAN id and priority,
whether the receive buffer was full when it arrived, the bytes its priority then holds there, and what it carries. -/
structure Frame where
  len   : Nat
  fcsOk : Bool
  dst   : FrameDst
  ether : Nat
  vid   : Option Nat
  prio  : Nat
  full  : Bool
  held  : Nat
  pay   : FramePay
  deriving DecidableEq, Repr

/-- What a frame to send carries (R384, R386): a RoCEv2 packet of Relief, a CNP, a Mortar packet, or anything else. -/
inductive TxKind where
  | relief
  | cnp
  | mortar
  | other
  deriving DecidableEq, Repr

/-- A frame to send (R376, R377, R391): its length, whether it is multicast or broadcast, its priority where RDM_MARK gives none, what it carries,
the bytes of it in the FIFO, whether a timestamp is asked for, and the issuer's cookie. -/
structure TxFrame where
  len    : Nat
  mcast  : Bool
  prio   : Nat
  kind   : TxKind
  inFifo : Nat
  stamp  : Bool
  cookie : Nat
  deriving DecidableEq, Repr

/-! ### Register access, service, images and settings (15-20) -/

/-- The source of a register access (R407, R443): BAR0 of a wythe, a wythe's own control tiles, or the Plinth with its service port. -/
inductive AccSrc where
  | bar0 (w : Wy)
  | tile (w : Wy)
  | plinth
  deriving DecidableEq, Repr

/-- An image header (R494) as its checks and the choice of image read it. `formOk` is check 1 of R496 and `sigOk` check 2; the
digest, keys and signature are for the Plinth ROM key services alone. -/
structure ImgHeader where
  component : Nat
  formOk    : Bool
  sigOk     : Bool
  target    : Nat
  steppings : BitVec 32
  func      : Nat
  compat    : Nat
  security  : Nat
  len       : Nat
  setFormat : Nat
  readMin   : Nat
  convFrom  : Nat
  convTo    : Nat
  deriving DecidableEq, Repr

/-- A setting of the settings store (R505, R506): a brick setting, a media setting, the committed value of a shadowed register, the address
of a brick port (R372), the wall settings, or a keyspace policy. The spec gives the keys of areas 1-3 no numbers (log 39). -/
inductive Setting where
  | portMode (mode : Nat)
  | poolCounts (counts : List Nat)
  | media (lowMark target refreshAt patrolDays : Nat)
  | reg (page : Page) (off : Nat) (value : Word)
  | portAddr (port : Nat) (addr : BitVec 128)
  | wall (ws : WallSettings)
  | policy (k : Keyspace)
  deriving DecidableEq, Repr

/-- What a DRAM channel did at DRAM_TRAIN (R488, R514): trained or not at 7,200, 4,800 and 3,600 MT/s, and the pattern test of a marked
channel. -/
structure DramResult where
  channel : Nat
  rates   : List Bool
  patternOk : Bool
  deriving DecidableEq, Repr

/-- Who asks for an activation (R502): a service session, or a write of FWU_ACTIVATE on a wythe's page. -/
inductive FwAsk where
  | session (n : Nat)
  | page (src : AccSrc) (w : Wy)
  deriving DecidableEq, Repr

/-- A change of a keyspace policy (R507): a policy to create or change, or a keyspace to delete. -/
inductive KsChange where
  | put (k : Keyspace)
  | delete (keyspace : BitVec 32)
  deriving DecidableEq, Repr

end Sys2Proof
end

