-- ==== Sys2Proof/Syntax.lean ====
section
/-! DEFINITION. The commands of the brick: one constructor for each row of spec/opcode_table.json, in its order, with the
row's operands. `w` is the wythe concerned, `q` a Relief queue index (0-1,023, PCI Express queues from 960), `id` the
number of a command in flight. -/

namespace Sys2Proof

/-- The commands and events of the table of operations. -/
inductive Instr where
  /-- Relief HELLO command writes the 256-byte reply and opens the queue for further commands. (R61) -/
  | hello (w : Wy) (q : Nat) (m : Msg)
  /-- Relief MAP_GET command checks the expected map version, then writes the partition map from OFFSET into the client buffer. (R62) -/
  | mapGet (w : Wy) (q : Nat) (m : Msg)
  /-- Relief PUT command stores a value of 0 B to 1 GiB as a new version of the key. (R64) -/
  | put (w : Wy) (q : Nat) (m : Msg)
  /-- Relief PUT_OPEN command opens a part upload and returns its upload id. (R65) -/
  | putOpen (w : Wy) (q : Nat) (m : Msg)
  /-- Relief PUT_PART command records one numbered part of an open upload, replacing any earlier part with that number. (R65) -/
  | putPart (w : Wy) (q : Nat) (m : Msg)
  /-- Relief PUT_CLOSE command checks the parts and the condition, then commits parts 1 to N as one version, or aborts the upload. (R65) -/
  | putClose (w : Wy) (q : Nat) (m : Msg)
  /-- Relief PATCH command writes a byte range into the live value and commits the result as a new version. (R67) -/
  | patch (w : Wy) (q : Nat) (m : Msg)
  /-- Relief PUNCH command records a hole over a byte range and commits a new version. (R68) -/
  | punch (w : Wy) (q : Nat) (m : Msg)
  /-- Relief DELETE command commits a deletion as the key's new version. (R69) -/
  | delete (w : Wy) (q : Nat) (m : Msg)
  /-- Relief GET command resolves the version and recipe and delivers the value from OFFSET into the client buffer. (R70) -/
  | get (w : Wy) (q : Nat) (m : Msg)
  /-- Relief STAT command returns the version and length of a key and optionally writes the 64-byte record. (R73) -/
  | stat (w : Wy) (q : Nat) (m : Msg)
  /-- Relief LIST command returns the live keys of one partition in key order. (R74) -/
  | list (w : Wy) (q : Nat) (m : Msg)
  /-- Relief BATCH command checks its descriptor and commits 1–32 write entries at one version. (R76) -/
  | batch (w : Wy) (q : Nat) (m : Msg)
  /-- Relief CAST command sets the cast time and passes the request to the armature. (R124) -/
  | cast (w : Wy) (q : Nat) (m : Msg)
  /-- Relief CAST_DROP command removes the named cast. (R78) -/
  | castDrop (w : Wy) (q : Nat) (m : Msg)
  /-- Relief OUTCOME command reports the recorded fate of a queried request id. (R80) -/
  | outcome (w : Wy) (q : Nat) (m : Msg)
  /-- Relief FLUSH command takes a tag and bars later commands on the queue until earlier ones have reached their outcome and been sealed. (R103) -/
  | flush (w : Wy) (q : Nat) (m : Msg)
  /-- The FLUSH completes once every earlier command has an outcome and every stripe holding their chunks has sealed. (R103) -/
  | flushComplete (w : Wy) (id : Nat) (sealed : List Nat)
  /-- Relief SUBSCRIBE command sets the queue's event mask. (R82) -/
  | subscribe (w : Wy) (q : Nat) (m : Msg)
  /-- Control capsule that raises the epoch, drops commands not yet started, ends reads, suppresses started commands and acknowledges. (R91) -/
  | queueReset (w : Wy) (q : Nat) (m : Msg)
  /-- Control capsule that acts as QUEUE_RESET and then closes the queue. (R95) -/
  | queueClose (w : Wy) (q : Nat) (m : Msg)
  /-- Control capsule that keeps an idle RoCEv2 queue open and is answered with a CONTROL_ACK. (R50) -/
  | keepalive (w : Wy) (q : Nat) (m : Msg)
  /-- A message whose KIND is neither COMMAND nor CONTROL is refused with BAD_FORMAT and detail UNKNOWN_KIND. (R43) -/
  | unknownKindMessage (w : Wy) (q : Nat) (bytes : Bytes)
  /-- A command capsule with an unlisted OPCODE is refused with BAD_FORMAT and detail UNKNOWN_OPCODE. (R59) -/
  | unknownOpcode (w : Wy) (q : Nat) (control : Bool) (m : Msg)
  /-- A SEND shorter than 64 bytes or longer than 5,184 bytes is answered with the invalid-request NAK and closes the connection. (R40) -/
  | sendLengthNak (w : Wy) (q len : Nat)
  /-- An RDMA atomic, or an RDMA READ or WRITE aimed at brick memory, is answered with the invalid-request NAK and closes the connection. (R39) -/
  | rdmaInvalidRequest (w : Wy) (q : Nat)
  /-- A RoCEv2 queue with no capsule for 60 s is closed, which acts as an implied reset. (R51) -/
  | idleClose (w : Wy) (q : Nat)
  /-- Close of a RoCEv2 connection by the client or the network acts as an implied reset of its queue. (R96) -/
  | connectionClose (w : Wy) (q : Nat)
  /-- An admission cycle grants windows from the budgets to waiting commands, by class and round robin over queues. (R106) -/
  | admissionCycle (w : Wy)
  /-- A command that has waited longer than WAIT_LIMIT is refused with BUSY_RETRY and detail ADMISSION. (R107) -/
  | admissionTimeout (w : Wy) (id : Nat)
  /-- DRAIN_AT is reached: the draining wythe refuses new commands, or the removed brick starts moving its partitions. (R98) -/
  | drainAt (w : Wy)
  /-- An upload not closed within 24 hours of its PUT_OPEN is discarded. (R65) -/
  | uploadDiscard (w : Wy) (upload : Nat)
  /-- An outcome record older than the retention is discarded, and its request id alone is kept for one further period. (R101) -/
  | outcomeRecordDiscard (keyspace : BitVec 32) (requestId : BitVec 64)
  /-- The idle time passes the next timer and the brick moves one power state deeper, down to DEEPEST. (R480) -/
  | powerStateEntry
  /-- The brick completes its return to PS0 after a command arrives, within the exit latency of the state it left. (R110) -/
  | powerStateExit
  /-- Every 1 ms each home wythe computes and publishes its closed time. (R120) -/
  | closedTimePublish (w : Wy)
  /-- The servo offset plus uncertainty exceeds ε ÷ 2; the wythe becomes OUT_OF_SYNC and starts moving its partitions. (R114) -/
  | outOfSync (w : Wy)
  /-- After the sum has stayed at or below ε ÷ 4 for 10 s, the wythe returns to IN_SYNC. (R114) -/
  | inSyncReturn (w : Wy)
  /-- The home lease runs out 400 ms after the last acknowledged heartbeat, and the home stops serving its partitions. (R127) -/
  | leaseLapse (w : Wy)
  /-- A held READ_AT read proceeds once the home's closed time reaches its requested time. (R121) -/
  | readAtRelease (w : Wy) (id : Nat)
  /-- Every home has confirmed and the wall closed time has reached T; the armature marks the cast READY. (R124) -/
  | castReady (castId : Nat)
  /-- A cast reaches its cast time plus the cast lifetime and is dropped. (R126) -/
  | castExpiry (castId : Nat)
  /-- A planned move of a partition's home completes, and the old home answers REDIRECT from then on. (R130) -/
  | plannedMoveEnd (p : Nat)
  /-- An RDMA READ or DMA of payload bytes into the ingest window completes. (R153) -/
  | payloadPullDone (w : Wy) (id entry : Nat) (data : Bytes)
  /-- The chunk-and-hash unit ends a job that cuts a chunk and computes its fingerprint. (R136) -/
  | chunkCut (w : Wy) (id entry : Nat)
  /-- The compression unit ends a job; the compressed form is kept only under the 15/16 rule. (R143) -/
  | compressJobEnd (w : Wy) (id chunk : Nat) (out : Bytes)
  /-- A crypt job takes a context slot; an encryption takes the next counter value as its IV. (R173) -/
  | cryptJobStart (w : Wy) (ref : JobRef) (tile : Fin 128)
  /-- A crypt job returns DONE, TAG_FAIL or another result, and the issuer maps it to its pipeline. (R170) -/
  | cryptJobEnd (w : Wy) (ref : JobRef) (fault : Option Bytes)
  /-- A reservation record becomes durable in the anchor, and the block it covers may be handed out. (R174) -/
  | ivReservationDurable (w : Wy) (keyspace : BitVec 32) (ver : Nat)
  /-- A reservation is still not durable 100 ms after its request; the waiting jobs end RESV_FAIL. (R174) -/
  | ivReservationTimeout (w : Wy) (keyspace : BitVec 32) (ver : Nat)
  /-- The CIP finishes unwrapping a key version into its key cache, and the waiting job proceeds. (R182) -/
  | keyUnwrapDone (w : Wy) (keyspace : BitVec 32) (ver : Nat)
  /-- A new key version from the armature is installed and made CURRENT, and the previous version becomes DECRYPT_ONLY. (R180) -/
  | keyRotation (w : Wy) (keyspace : BitVec 32) (ver : Nat) (wrapped : Bytes)
  /-- Mortar CHUNK_ACK from a lead: NEW, DUPLICATE, FULL or NOT_LEAD, handled by the home. (R152) -/
  | chunkAck (w : Wy) (h : MHead) (group p : Nat) (res : AckResult) (requestId : BitVec 64) (chunk : Nat) (place : Place)
  /-- A chunk message unacknowledged after 20 ms is sent again to the acting lead. (R152) -/
  | chunkResend (w : Wy) (id chunk : Nat)
  /-- A chunk still unacknowledged 2 s after it was first sent makes the write complete UNAVAILABLE. (R152) -/
  | chunkAckTimeout (w : Wy) (id chunk : Nat)
  /-- Mortar INDEX_PUT places a key-index record at a replica-set member, or is refused for a stale partition epoch. (R128) -/
  | indexPut (w : Wy) (h : MHead) (p epoch closed : Nat) (r : IdxRec)
  /-- Mortar INDEX_ACK reports that a record was placed, or that it was refused for its epoch. (R116) -/
  | indexAck (w : Wy) (h : MHead) (p epoch version : Nat) (placed : Bool)
  /-- Mortar RANGE_DATA returns a record range, NOT_HELD or UNCORRECTABLE to the reader. (R159) -/
  | rangeData (w : Wy) (h : MHead) (fragId offset length : Nat) (st : RStatus) (holder cookie : Nat) (bytes : Bytes)
  /-- A data member has not answered within 20 ms, so the home reads the range degraded from k other fragments. (R160) -/
  | fetchTimeout (w : Wy) (id chunk : Nat)
  /-- The decompression unit ends a job, or reports a decode failure that is handled as a tag failure. (R144) -/
  | decompressJobEnd (w : Wy) (id chunk : Nat)
  /-- Fingerprint re-verification of a delivered chunk matches, or fails. (R164) -/
  | reverifyJobEnd (w : Wy) (id chunk : Nat)
  /-- A job fails on a tile through parity, ECC or watchdog and is retried on another tile of its kind. (R32) -/
  | tileFault (w : Wy) (tile : Fin 128) (fault : TileFault) (job : Option JobRef) (done : Nat) (site : FaultSite)
  /-- A COMMIT with MTR_JOIN_CTRL.FORM set forms a wall with this brick as brick 0 and sole armature member. (R191) -/
  | form (w : Wy)
  /-- A COMMIT with MTR_JOIN_CTRL.JOIN set makes the brick send JOIN_REQUEST to the contact. (R192) -/
  | join (w : Wy)
  /-- Mortar JOIN_REQUEST is checked by the armature leader, which commits the brick as JOINING or refuses it. (R193) -/
  | joinRequest (w : Wy) (h : MHead) (r : JoinReq)
  /-- Mortar JOIN_GRANT is verified by the joining brick, which unwraps and stores the wall key. (R194) -/
  | joinGrant (w : Wy) (h : MHead) (g : JoinGrant) (certKey : Option Bytes)
  /-- A JOINING brick not READY within 600 s of its grant is removed. (R195) -/
  | joinReadyTimeout (brick : Nat)
  /-- Every 100 ms each running wythe sends HEARTBEAT to every armature member. (R202) -/
  | heartbeatSend (w : Wy)
  /-- An armature member receives a HEARTBEAT, records it and replies. (R202) -/
  | heartbeat (w : Wy) (h : MHead) (b : HbBody)
  /-- A brick receives HEARTBEAT_REPLY; once a quorum has replied, its lease and the wall closed time are updated. (R534) -/
  | heartbeatReply (w : Wy) (h : MHead) (r : HbReply)
  /-- Mortar ARM_APPEND carries log entries from the leader to a follower. (R197) -/
  | armAppend (w : Wy) (h : MHead) (term leader prevIndex prevTerm commit : Nat) (entries : List LogEntry)
  /-- The leader sends an append, empty if it has nothing new, at least every 100 ms. (R197) -/
  | armAppendTimer (w : Wy)
  /-- Mortar ARM_APPEND_ACK reports a follower's log match and the bricks it has not heard from. (R203) -/
  | armAppendAck (w : Wy) (h : MHead) (term : Nat) (ok : Bool) (matched : Nat) (silent : List Nat)
  /-- Mortar ARM_VOTE_REQ asks a member for its vote in a new term. (R198) -/
  | armVoteReq (w : Wy) (h : MHead) (term candidate lastIndex lastTerm : Nat)
  /-- Mortar ARM_VOTE grants or refuses a vote; a quorum of votes makes the candidate leader. (R198) -/
  | armVote (w : Wy) (h : MHead) (term : Nat) (granted : Bool)
  /-- No append from a leader for 1,000 ms plus a random 0–500 ms makes the member raise the term and seek votes. (R198) -/
  | electionTimeout (w : Wy)
  /-- The loss delay has elapsed since SUSPECT; the brick becomes LOST and new bond-table versions replace it. (R204) -/
  | lossDelayExpiry (brick : Nat)
  /-- Mortar REMOVE_NOTICE makes the brick LEAVING, or returns it to MEMBER on CANCEL. (R205) -/
  | removeNotice (w : Wy) (h : MHead) (k : RemoveKind)
  /-- Mortar STATE_GET asks for a range of a state object. (R213) -/
  | stateGet (w : Wy) (h : MHead) (obj : StateObj) (version offset length : Nat)
  /-- Mortar STATE_DATA delivers state-object bytes, and the receiver applies the newer state. (R213) -/
  | stateData (w : Wy) (h : MHead) (obj : StateObj) (status version offset len total : Nat) (payload : Option StatePayload)
  /-- Mortar EPOCH_NOTICE tells a sender that its epoch is stale, so it fetches the newer state and resends. (R213) -/
  | epochNotice (w : Wy) (h : MHead) (epoch map bond : Nat)
  /-- A Mortar acknowledgement advances the flow, triggers fast retransmission and adjusts the congestion window. (R210) -/
  | mortarAck (w : Wy) (peer : Nat) (peerW : Wy) (flow ack sack credit : Nat) (ce resync : Bool)
  /-- The retransmission timeout expires, the packet is resent and the timeout doubles. (R210) -/
  | retransmissionTimeout (w : Wy) (peer : Nat) (peerW : Wy) (flow seq : Nat)
  /-- A Mortar packet of unknown TYPE is acknowledged, counted and discarded. (R208) -/
  | unknownTypeMessage (w : Wy) (h : MHead) (flow : Nat)
  /-- Mortar PART_COLLECT asks a member for its records of a partition under the new partition epoch. (R129) -/
  | partCollect (w : Wy) (h : MHead) (p epoch : Nat)
  /-- Mortar PART_RECORDS delivers a member's records to the new home, which adopts their union. (R129) -/
  | partRecords (w : Wy) (h : MHead) (p epoch closed : Nat) (recs : List IdxRec)
  /-- Mortar PART_HANDOVER passes the hybrid clock and closed time to the new home in a planned move. (R130) -/
  | partHandover (w : Wy) (h : MHead) (p epoch hlc closed : Nat)
  /-- Mortar CLOSED_TIME carries a home's closed time to a standby. (R120) -/
  | closedTime (w : Wy) (h : MHead) (p epoch closed : Nat)
  /-- Mortar CAST_REQUEST reaches the armature, which registers the cast as PENDING or refuses it with CAST_LIMIT. (R124) -/
  | castRequest (w : Wy) (h : MHead) (keyspace : BitVec 32) (t : Nat) (requestId : BitVec 64)
  /-- Mortar CAST_ANNOUNCE asks a home to hold its horizon at T. (R124) -/
  | castAnnounce (w : Wy) (h : MHead) (id : Nat) (keyspace : BitVec 32) (t : Nat)
  /-- Mortar CAST_CONFIRM reports HELD or HORIZON_PASSED to the armature. (R124) -/
  | castConfirm (w : Wy) (h : MHead) (id : Nat) (held : Bool)
  /-- Mortar CAST_DONE tells the receiving brick the cast's outcome, so it completes the CAST. (R124) -/
  | castDone (w : Wy) (h : MHead) (id : Nat) (status : Status) (t : Nat) (requestId : BitVec 64)
  /-- Mortar CAST_DROP_REQ asks the armature to drop a cast. (R78) -/
  | castDropReq (w : Wy) (h : MHead) (id : Nat) (keyspace : BitVec 32) (requestId : BitVec 64)
  /-- The wythe loses its PTP master and holds over, its uncertainty growing by 2 µs per second. (R225) -/
  | ptpMasterLoss (w : Wy)
  /-- A 1PPS input edge is measured against the PTP second and the offset recorded. (R392) -/
  | ppsEdge (w : Wy)
  /-- At each whole PTP second the wythe drives a 1PPS output edge. (R392) -/
  | ppsOutSecond (w : Wy)
  /-- Mortar CHUNK_PUT at the lead adds a pending reference to a duplicate, or places the record and its journal copies. (R150) -/
  | chunkPut (w : Wy) (h : MHead) (group p : Nat) (requestId : BitVec 64) (chunk : Nat) (record : Bytes)
  /-- Mortar JOURNAL_COPY places a pending record copy into a journal member's image. (R233) -/
  | journalCopy (w : Wy) (h : MHead) (stripe offset lead : Nat) (journal : List Nat) (record : Bytes)
  /-- Mortar JOURNAL_ACK reports PLACED, NOT_JOURNAL, SEAL_HELD or DIGEST_MISMATCH. (R235) -/
  | journalAck (w : Wy) (h : MHead) (stripe offset : Nat) (a : JAck)
  /-- Mortar STRIPE_SEAL makes a journal member check DATA_DIGEST and compute its parity fragment. (R235) -/
  | stripeSeal (w : Wy) (h : MHead) (stripe fill count gen : Nat) (digest : Bytes) (lead : Nat) (targets : List (Option Nat))
  /-- Mortar FRAG_PUT makes a member store a fragment for SEAL, REBUILD or MOVE. (R236) -/
  | fragPut (w : Wy) (h : MHead) (f : FragHead) (bytes : Bytes)
  /-- Mortar FRAG_ACK reports DONE, FULL, STALE_GEN or NOT_TARGET; when all are DONE the stripe is SEALED. (R236) -/
  | fragAck (w : Wy) (h : MHead) (fragId gen : Nat) (a : FAck)
  /-- Mortar SEAL_COMMIT makes a journal member drop its copies of a sealed stripe. (R235) -/
  | sealCommit (w : Wy) (h : MHead) (stripe gen : Nat)
  /-- Mortar RANGE_READ asks for a byte range of a fragment or pending record. (R237) -/
  | rangeRead (w : Wy) (h : MHead) (fragId offset length : Nat) (pend : Bool) (purpose : Purpose) (cookie : Nat)
  /-- Mortar STRIPE_LIST_REQ asks a row member for the stripes of a group and position. (R244) -/
  | stripeListReq (w : Wy) (h : MHead) (group pos first max : Nat)
  /-- Mortar STRIPE_LIST delivers stripe entries used in catch-up and for the rebuild queue. (R244) -/
  | stripeList (w : Wy) (h : MHead) (group pos : Nat) (more : Bool) (entries : List ListEntry)
  /-- Mortar JOURNAL_STATE_REQ asks a journal member for its image state. (R239) -/
  | journalStateReq (w : Wy) (h : MHead) (group stripe : Nat)
  /-- Mortar JOURNAL_STATE returns an image's records, which the stripe lead compares and restores. (R241) -/
  | journalState (w : Wy) (h : MHead) (j : JState)
  /-- Mortar LOST_REPORT records lost records at the lead, or queues a self-rebuild of a range. (R250) -/
  | lostReport (w : Wy) (h : MHead) (stripe offset length : Nat) (fps : List Bytes) (rangeOnly : Bool)
  /-- Mortar FRAG_RELEASE frees a fragment at its old holder. (R243) -/
  | fragRelease (w : Wy) (h : MHead) (fragId holder : Nat)
  /-- 50 ms after a stripe's first record was placed, the stripe lead seals it. (R234) -/
  | sealTimer (stripe : Nat)
  /-- A rebuild queue entry takes tier budget and decodes one 64 KiB range of a fragment. (R246) -/
  | rebuildRange (w : Wy)
  /-- Fragment bytes exceed usable capacity less the reserve, and the brick moves fragments to spill columns. (R251) -/
  | evacuation (w : Wy)
  /-- Mortar REF_DELTA applies a batch of reference changes at the acting lead. (R257) -/
  | refDelta (w : Wy) (h : MHead) (p home group : Nat) (recount ended : Bool) (seq lwm : Nat) (entries : List DeltaEntry)
  /-- Mortar REF_ACK reports that a delta batch was applied, or NOT_LEAD or NOT_READY. (R259) -/
  | refAck (w : Wy) (h : MHead) (p group : Nat) (r : RefRes) (seq missing : Nat) (found : List Nat)
  /-- Mortar REF_QUERY asks the home whether it claims an old pending reference. (R262) -/
  | refQuery (w : Wy) (h : MHead) (p group : Nat) (requestId : BitVec 64) (chunk : Nat)
  /-- Mortar REF_ANSWER CLAIM keeps the pending reference; NO_CLAIM lets it lapse. (R262) -/
  | refAnswer (w : Wy) (h : MHead) (p group : Nat) (requestId : BitVec 64) (chunk : Nat) (claim : Bool)
  /-- Mortar INDEX_SYNC_REQ asks a holder for a group's reference-state image. (R254) -/
  | indexSyncReq (w : Wy) (h : MHead) (group offset length : Nat)
  /-- Mortar INDEX_SYNC delivers reference-state bytes to a new holder. (R254) -/
  | indexSync (w : Wy) (h : MHead) (group : Nat) (holder : Bool) (offset total : Nat) (img : Option GroupImage)
  /-- Mortar STRIPE_THIN gives each holder the dead-unit bitmaps of a thinning. (R266) -/
  | stripeThin (w : Wy) (h : MHead) (stripe old new lead : Nat) (dead : List (Nat × List Nat))
  /-- Mortar THIN_DATA gives a parity holder the dead units it needs to recompute parity. (R266) -/
  | thinData (w : Wy) (h : MHead) (fragId gen : Nat) (units : List (Nat × Bytes))
  /-- Mortar THIN_ACK reports READY, ABORTED or COMMITTED for a new generation. (R266) -/
  | thinAck (w : Wy) (h : MHead) (fragId gen : Nat) (r : ThinRes)
  /-- Mortar THIN_COMMIT switches holders to the new generation, or discards it on ABORT. (R266) -/
  | thinCommit (w : Wy) (h : MHead) (stripe gen : Nat) (commit : Bool)
  /-- With no holder of a group's reference state available, the armature orders the group's references recounted. (R255) -/
  | recount (group : Nat)
  /-- A delta batch closes at 256 entries or 10 ms after its first entry and is sent. (R258) -/
  | deltaBatchClose (p group : Nat)
  /-- A pending reference older than 60 s makes the lead send REF_QUERY. (R262) -/
  | pendingRefAge (group p : Nat) (requestId : BitVec 64) (chunk : Nat)
  /-- At least every 3,600 s the home sweeps a partition and sends SUB entries for its garbage versions. (R264) -/
  | garbageSweep (p : Nat)
  /-- Mortar REPL_LINK offers, accepts or refuses a link, or begins or applies the shipping of a cast. (R273) -/
  | replLink (w : Wy) (h : MHead) (r : ReplLink) (certKey : Option Bytes)
  /-- At each ship interval the source armature takes a replication cast. (R274) -/
  | shipInterval (keyspace : BitVec 32)
  /-- Mortar REPL_OFFER gives the remote home the changed keys and their recipes. (R275) -/
  | replOffer (w : Wy) (h : MHead) (p : Nat) (last : Bool) (keyspace : BitVec 32) (sourceCast seq : Nat) (keys : List OfferKey)
  /-- Mortar REPL_NEED names the fingerprints that the remote wall lacks. (R275) -/
  | replNeed (w : Wy) (h : MHead) (p sourceCast seq : Nat) (fps : List Bytes)
  /-- Mortar REPL_CHUNK delivers a needed chunk sealed under the link key, and the remote re-encrypts and dispatches it. (R275) -/
  | replChunk (w : Wy) (h : MHead) (p sourceCast plain : Nat) (codec : Codec) (fp iv sealed : Bytes)
  /-- Mortar REPL_STAGED reports staging progress; once all partitions are staged the remote commits the cast. (R276) -/
  | replStaged (w : Wy) (h : MHead) (p sourceCast seq : Nat) (all : Bool)
  /-- A round closes when it is full or ROUND_CLOSE ms after its first unit; it is padded and its parity computed. (R288) -/
  | roundClose (i : Fin 2) (sb : Nat)
  /-- A die operation ends; its tokens return to the panel and its result goes back to the issuer. (R303) -/
  | dieOpEnd (job : Nat) (e : DieEnd)
  /-- With fold tokens free, the set folds 16 SLC stripes into a QLC round. (R298) -/
  | foldRound (i : Fin 2)
  /-- Erased SLC capacity has stayed below GROW_MARK for GROW_HOLD, so the SLC share rises by 5 per mille. (R295) -/
  | slcShareGrow (i : Fin 2)
  /-- Used SLC capacity has stayed below SHRINK_MARK for SHRINK_HOLD, so the SLC share falls by 5 per mille. (R295) -/
  | slcShareShrink (i : Fin 2)
  /-- Unflushed map-journal records reach 64 MiB or age 2 s and are written as a segment. (R314) -/
  | mapFlush (i : Fin 2)
  /-- Delta segments since the last checkpoint exceed 32 GiB, so a new checkpoint of the whole map is written. (R315) -/
  | checkpoint (i : Fin 2)
  /-- With a die below target, the set chooses a victim superblock, copies its live units and erases it. (R324) -/
  | collection (i : Fin 2)
  /-- Within the patrol period the set reads each closed superblock in full and queues refresh where needed. (R335) -/
  | patrol (i : Fin 2) (sb attempts : Nat) (parity lost : List Nat)
  /-- Every 24 h, or after a temperature move above 15 °C, a die runs CH_CALIBRATE. (R333) -/
  | calibrationTimer (die : Fin 2048)
  /-- Every minute each die's equivalent-age counter gains the time scaled by the temperature factor. (R330) -/
  | equivAgeTick
  /-- At least hourly the set writes every die's counter in an EQUIV_AGE anchor record. (R330) -/
  | equivAgeRecord (i : Fin 2)
  /-- After a die retirement or a DEGRADED channel, the set collects every superblock holding the lost dies. (R328) -/
  | dieRebuild (i : Fin 2) (lost : List (Nat × Nat × Nat))
  /-- Within 60 s of losing an anchor channel, the set rebuilds the lost copy on another channel. (R308) -/
  | anchorRebuild (i : Fin 2)
  /-- Chisel routine that reads the named code words of one page with LDPC and CRC. (R345) -/
  | chRead (w : Wy) (r : ChReq)
  /-- Chisel routine that runs the read retry ladder over up to 16 threshold sets. (R352) -/
  | chReadRetry (w : Wy) (r : ChReq)
  /-- Chisel routine that programs one SLC page per plane after the program-once checks. (R347) -/
  | chProgSlc (w : Wy) (r : ChReq)
  /-- Chisel routine that programs one QLC word line per plane. (R347) -/
  | chProgQlc (w : Wy) (r : ChReq)
  /-- Chisel routine that copies 16 SLC source pages into one QLC word line with rewritten tags. (R299) -/
  | chFold (w : Wy) (r : ChReq)
  /-- Chisel routine that erases blocks that have an armed erase intent. (R348) -/
  | chErase (w : Wy) (r : ChReq)
  /-- Chisel routine that erases, then checks every word line at erase-verify level. (R348) -/
  | chEraseVerify (w : Wy) (r : ChReq)
  /-- Chisel routine that returns the die's 256-byte parameter page. (R345) -/
  | chReadParam (w : Wy) (r : ChReq)
  /-- Chisel routine that runs a calibration read and returns the SLC and QLC corrections. (R333) -/
  | chCalibrate (w : Wy) (r : ChReq)
  /-- Chisel routine that resets a die, clearing HUNG and marking its blocks UNKNOWN. (R351) -/
  | chDieReset (w : Wy) (r : ChReq)
  /-- Chisel routine that returns the die's status and activity. (R345) -/
  | chStatus (w : Wy) (r : ChReq)
  /-- No eligible read waits, or the suspension's reads have run 400 µs, so the operation resumes. (R350) -/
  | suspensionEnd (die : Fin 2048)
  /-- A started operation exceeds its time limit; it ends DIE_TIMEOUT and the die becomes HUNG. (R351) -/
  | dieTimeout (job : Nat)
  /-- CHN_OWN_CTRL.TAKE asks the arbiter for ownership of a channel. (R26) -/
  | channelTake (w : Wy) (c : Fin 64)
  /-- CHN_OWN_CTRL.RELEASE requests release of a channel once no operation is started or suspended on it. (R343) -/
  | channelRelease (w : Wy) (c : Fin 64)
  /-- CHN_OWN_CTRL.LEND hands a channel to the peer as LENT. (R341) -/
  | channelLend (w : Wy) (c : Fin 64)
  /-- A pending release completes; requests still queued for the channel end NOT_OWNER. (R343) -/
  | releaseComplete (c : Fin 64)
  /-- BPM ALLOC serves, queues or refuses a buffer request, with fallback and reserve rules. (R363) -/
  | alloc (w : Wy) (reqs : List BufReq)
  /-- BPM FREE by the owner lowers the count and frees the buffer at zero. (R363) -/
  | free (w : Wy) (requester handle cookie : Nat)
  /-- BPM SHARE raises a buffer's reference count. (R363) -/
  | share (w : Wy) (requester handle cookie : Nat)
  /-- BPM RELEASE lowers the reference count of a shared buffer. (R363) -/
  | release (w : Wy) (requester handle cookie : Nat)
  /-- BPM TRANSFER makes another requester the owner of a buffer. (R363) -/
  | transfer (w : Wy) (requester handle owner cookie : Nat)
  /-- A pool's cache refill from its free ring completes and releases the waiting allocation. (R360) -/
  | freeRingRefill (w : Wy) (n : Fin 6)
  /-- A port receives an Ethernet frame and drops, truncates or accepts it by its length, FCS and filter. (R374) -/
  | frameReceive (w : Wy) (p : Fin 4) (f : Frame)
  /-- A port starts sending a frame once its threshold of bytes is in the FIFO, with a timestamp if asked. (R377) -/
  | frameTransmit (w : Wy) (p : Fin 4) (f : TxFrame) (taken : Nat)
  /-- The FIFO empties mid-frame; the frame ends with an inverted FCS and STEP rises. (R378) -/
  | transmitUnderrun (w : Wy) (p : Fin 4)
  /-- The transmit queue has been idle for IDLE_US under an agreement, so the port asserts LPI. (R380) -/
  | lpiEntry (w : Wy) (p : Fin 4)
  /-- Every 30 s, or at once on a change, a port sends LLDP with the EEE TLV. (R381) -/
  | lldpSend (w : Wy) (p : Fin 4)
  /-- A partner's EEE TLV is resolved into a Clause 79 wake-time agreement, or none. (R381) -/
  | lldpReceive (w : Wy) (p : Fin 4) (r tx : Nat)
  /-- A received PFC frame pauses the named priorities for its quanta. (R384) -/
  | pfcReceive (w : Wy) (p : Fin 4) (quanta : List (Nat × Nat))
  /-- The pause quanta expire and the priority resumes sending. (R384) -/
  | pfcQuantaExpiry (w : Wy) (p : Fin 4) (prio : Fin 8)
  /-- A priority paused without a break for 100 ms makes the port ignore PFC for that priority for 1 s. (R385) -/
  | pfcStorm (w : Wy) (p : Fin 4) (prio : Fin 8)
  /-- The 1 s during which PFC was ignored for a priority ends. (R385) -/
  | pfcIgnoreEnd (w : Wy) (p : Fin 4) (prio : Fin 8)
  /-- A port's link goes down, and its Mortar flows move to other ports within 1 ms. (R373) -/
  | linkDown (w : Wy) (p : Fin 4)
  /-- A port's link comes up after auto-negotiation and training. (R371) -/
  | linkUp (w : Wy) (p : Fin 4)
  /-- A port down for more than 1 s is reported to the armature, which zeroes its address in the map. (R373) -/
  | portDownReport (w : Wy) (p : Fin 4)
  /-- A port that has held its link for 10 s has its address written back into the map. (R373) -/
  | portAddressRestore (w : Wy) (p : Fin 4)
  /-- An InfiniBand connection-management request to QP 1 sets up a queue pair, or is rejected. (R387) -/
  | cmRequest (w : Wy) (p : Fin 4) (src : BitVec 128) (mtu : Nat) (otherTransport : Bool)
  /-- The local ACK timeout expires; the packet is retried, or the connection closes at the retry limit. (R387) -/
  | roceAckTimeout (w : Wy) (q : Nat)
  /-- A received CNP lowers the queue pair's pacing rate and updates α. (R388) -/
  | cnpReceive (w : Wy) (q : Nat)
  /-- Each 55 µs without a CNP raises the pacing rate by RAI and moves α towards 0. (R388) -/
  | rateIncrease (w : Wy) (q : Nat)
  /-- A PAGE_CTRL.ENABLE write moves a unit between OFFLINE and ONLINE. (R406) -/
  | pageEnable (src : AccSrc) (p : Page) (v : Word)
  /-- A PAGE_CTRL.QUIESCE write makes a unit take no new job, or return to ONLINE. (R406) -/
  | pageQuiesce (src : AccSrc) (p : Page) (v : Word)
  /-- A PAGE_CTRL.BYPASS write bypasses a unit after its current job, or returns it to service. (R33) -/
  | pageBypass (src : AccSrc) (p : Page) (v : Word)
  /-- A quiescing, bypassing or disabling unit finishes its current job and reaches its new state. (R406) -/
  | unitJobDrained (p : Page)
  /-- A PAGE_CTRL.TEST_START write starts the unit's self-test, or is refused. (R510) -/
  | testStart (src : AccSrc) (p : Page) (v : Word)
  /-- A unit test passes, fails or is aborted, and the page state follows. (R510) -/
  | testEnd (p : Page) (code info us_ : Nat)
  /-- A PAGE_CTRL.COMMIT write checks all shadowed registers and applies them together, or refuses them. (R410) -/
  | commit (src : AccSrc) (p : Page) (v : Word)
  /-- A write of ones to EVT_STATUS clears those event bits. (R9) -/
  | evtStatusClear (src : AccSrc) (p : Page) (v : Word)
  /-- An EVT_FORCE write sets EVT_STATUS bits as their events would. (R404) -/
  | evtForce (src : AccSrc) (p : Page) (v : Word)
  /-- A read of ERR_COUNT returns the count and clears it. (R11) -/
  | errCountRead (src : AccSrc) (p : Page)
  /-- A read of BPM_Pn_LOW returns the lowest free count and clears it. (R369) -/
  | bpmPoolLowRead (src : AccSrc) (w : Wy) (n : Fin 6)
  /-- Setting PAGE_LOCK.LOCK makes the page ignore BAR0 writes until its level resets. (R408) -/
  | pageLock (src : AccSrc) (p : Page) (v : Word)
  /-- A BAR0 or control-tile write to a register without a row of its own sets it according to its access code. (R9) -/
  | registerWrite (src : AccSrc) (off size : Nat) (full : Bool) (v : Word)
  /-- QP_CTRL.CREATE checks a queue page's settings and opens it at epoch 1. (R412) -/
  | qpCreate (w : Wy) (n : Fin 64)
  /-- QP_CTRL.DESTROY closes a PCI Express queue without a CONTROL_ACK. (R412) -/
  | qpDestroy (w : Wy) (n : Fin 64)
  /-- A write of QP_SQ_TAIL makes the brick fetch the new submission slots. (R413) -/
  | sqDoorbell (w : Wy) (n : Fin 64) (tail : Nat) (msgs : List Bytes)
  /-- A write of QP_CQ_HEAD frees completion ring entries for the brick. (R414) -/
  | cqDoorbell (w : Wy) (n : Fin 64) (head : Nat)
  /-- RST_REQ.UNIT resets the tile, course or panel named in RST_TARGET. (R420) -/
  | unitReset (src : AccSrc) (w : Wy) (v : Word)
  /-- RST_REQ.RESTART_SELF drains this wythe and restarts it under the peer's cover. (R420) -/
  | restartSelf (src : AccSrc) (w : Wy) (v : Word)
  /-- RST_REQ.RESTART_PEER asks the Plinth to restart the covered peer. (R420) -/
  | restartPeer (src : AccSrc) (w : Wy) (v : Word)
  /-- A read of GLB_HLC_LO returns the hybrid time and latches GLB_HLC_HI. (R417) -/
  | hlcRead (src : AccSrc) (w : Wy)
  /-- A read of PTP_TIME_NS latches the seconds registers. (R394) -/
  | ptpTimeRead (src : AccSrc) (w : Wy)
  /-- A control-tile write of PTP_ADJ steps the PTP clock once. (R389) -/
  | ptpAdj (src : AccSrc) (w : Wy) (v : Word)
  /-- A read of PLT_TIME_LO latches PLT_TIME_HI. (R445) -/
  | pltTimeRead (src : AccSrc)
  /-- A read of SVC_EXPIRY_LO latches SVC_EXPIRY_HI. (R464) -/
  | svcExpiryRead (src : AccSrc)
  /-- A read of HLT_FRAG_GIB_LO or HLT_MEDIA_GIB_LO latches the high half. (R474) -/
  | hltGibRead (src : AccSrc) (w : Wy) (media : Bool)
  /-- A function-level reset stops DMA and frees every queue page within 100 ms. (R397) -/
  | functionLevelReset (w : Wy)
  /-- A PCI Express hot reset acts as a function-level reset. (R397) -/
  | hotReset (w : Wy)
  /-- An assertion of PERST# acts as a function-level reset and also clears the sticky AER bits. (R397) -/
  | perstAssert (w : Wy)
  /-- A loss of the PCI Express link acts as a function-level reset. (R397) -/
  | pcieLinkLoss (w : Wy)
  /-- Clearing Bus Master Enable stops DMA and sets every OPEN queue STOPPED. (R397) -/
  | busMasterClear (w : Wy)
  /-- Entry into D3hot stops DMA and sets every OPEN queue STOPPED. (R397) -/
  | d3hotEntry (w : Wy)
  /-- With Bus Master Enable set and the function back in D0, fetching of STOPPED queues resumes. (R416) -/
  | d0Return (w : Wy) (speed width : Nat) (fetched : List (Fin 64 × List Bytes))
  /-- Unmasking an MSI-X vector sends the message held in its pending bit. (R416) -/
  | msixUnmask (w : Wy) (v : Fin 64)
  /-- Every 10 ms the Plinth sends a housekeeping heartbeat to each wythe. (R421) -/
  | housekeepingHeartbeat
  /-- No housekeeping heartbeat for 100 ms clears GLB_WYTHE.PLINTH_OK. (R423) -/
  | housekeepingLoss (w : Wy)
  /-- The heartbeat has not returned 10 s later; the brick sets REPLACE and refuses restarts and activations. (R423) -/
  | plinthFailed
  /-- The 1 s Plinth watchdog expires and resets the Plinth alone. (R423) -/
  | plinthWatchdog (cal ksA ksB : Bool)
  /-- Every second the Plinth sets its time from a running wythe's hybrid time. (R424) -/
  | plinthTimeSet (w : Wy)
  /-- The Plinth moves between auxiliary and USB supplies, entering or leaving the Service state. (R422) -/
  | powerSourceChange (auxA auxB vbus advert : Nat) (pd usb : Bool)
  /-- Plinth ROM routine that reads code words with read-retry. (R429) -/
  | pfRead (addr : Nat) (outcomes : List (Nat × Nat))
  /-- Plinth ROM routine that programs one code word, refusing one already programmed. (R426) -/
  | pfProgram (addr : Nat) (data : Bytes) (ok : Bool)
  /-- Plinth ROM routine that starts erasing one sector. (R428) -/
  | pfErase (addr : Nat)
  /-- A sector erase completes, or fails verification within 40 ms. (R428) -/
  | pfEraseDone (ok : Bool)
  /-- Plinth ROM routine that returns a monotonic counter value. (R434) -/
  | pfCounterRead (n : Nat)
  /-- Plinth ROM routine that raises a monotonic counter to a stated value. (R434) -/
  | pfCounterRaise (n v : Nat)
  /-- PFL_REQ READ reads a code word into PFL_DATA0–7 for the source's bank. (R446) -/
  | pflRead (src : AccSrc) (step corrected : Nat)
  /-- PFL_REQ PROGRAM programs PFL_DATA0–7 at PFL_ADDR. (R446) -/
  | pflProgram (src : AccSrc) (ok : Bool)
  /-- PFL_REQ ERASE erases the sector holding PFL_ADDR. (R446) -/
  | pflErase (src : AccSrc)
  /-- An event entry arrives at the Plinth, takes the next SEQ and is placed, replaces a victim, or is dropped. (R440) -/
  | eventEntry
  /-- A read of EVR_WINDOW0 latches the entry with the lowest SEQ at or above the cursor. (R443) -/
  | evrWindowLatch (src : AccSrc)
  /-- A read of EVR_WINDOW15 moves the cursor past the latched entry and may acknowledge a CRITICAL entry. (R443) -/
  | evrWindowAdvance (src : AccSrc)
  /-- A write of EVR_CURSOR_LO sets the bank's cursor together with the held high half. (R443) -/
  | evrCursorSet (src : AccSrc) (lo : Word)
  /-- A ticketed clear removes entries at or below a severity ceiling, below a boundary SEQ. (R444) -/
  | recorderClear (session : Nat)
  /-- A ticketed rekey raises the key-store generation and rewraps every key-slot record. (R437) -/
  | rekey (session : Nat)
  /-- A REQUEST press released before 3 s acknowledges locate, shows the state page, or is only counted. (R448) -/
  | requestPress (heldMs : Nat)
  /-- REQUEST held to 3 s requests removal, cancels it, or shows SAFE TO REMOVE. (R448) -/
  | requestHold
  /-- FPN_REMOVE.REQUEST asks for removal as a 3 s hold does. (R453) -/
  | removeRequest (src : AccSrc) (v : Word)
  /-- FPN_REMOVE.CANCEL returns a LEAVING brick to MEMBER. (R455) -/
  | removeCancel (src : AccSrc) (v : Word)
  /-- The armature's answer to a removal request allows the removal, which starts the drain, or refuses it. (R453) -/
  | removalAllowance (reason stripe margin : Nat)
  /-- A touch advances the label one page, or is kept until a refresh ends. (R449) -/
  | touch
  /-- A write of FPN_LABEL_PAGE shows a page as a touch does, or is refused for values 5–7. (R449) -/
  | labelPageWrite (src : AccSrc) (v : Word)
  /-- No touch for LABEL_RETURN seconds returns the label to its return page. (R449) -/
  | labelReturn
  /-- A label refresh ends and any kept touch turns the page. (R450) -/
  | labelRefreshDone
  /-- LOCATE# held low for 10 ms starts locate. (R452) -/
  | locateAssert (h : Half)
  /-- A write of FPN_LOCATE.LOCATE starts or ends locate. (R452) -/
  | locateWrite (src : AccSrc) (v : Word)
  /-- Locate ends LOCATE_MIN minutes after it started. (R452) -/
  | locateTimeout
  /-- The handle latch opens and the brick stops cleanly, stops uncleanly or begins a surprise removal, by its state. (R457) -/
  | latchOpen
  /-- The latch closes again before power is lost; the brick cancels its removal and resumes. (R458) -/
  | latchClose
  /-- EW# breaks while the latch reads closed and is treated as a latch opening. (R456) -/
  | earlyWarningBreak
  /-- The presence contacts make, which counts one mating cycle and reads SLOT_ID. (R459) -/
  | presenceMake (slotA slotB : Nat)
  /-- The first message of a service session is a ticket, which is verified and grants its rights. (R462) -/
  | serviceTicket (ticket : Bytes)
  /-- A service session's ticket expires and the session closes. (R461) -/
  | serviceSessionExpiry (session : Nat)
  /-- A STAGE command streams a checked image into the component's inactive slot. (R496) -/
  | stage (session comp mask : Nat) (header payload : Bytes)
  /-- A SETTINGS session writes brick or media settings as a new settings-store generation. (R506) -/
  | settingsWrite (session : Nat) (recs : List Setting)
  /-- A SETTINGS command creates, changes or deletes a keyspace policy through the armature. (R507) -/
  | keyspacePolicy (session : Nat) (change : KsChange)
  /-- A ticketed brick reset removes the brick with return and then resets both wythes and the Plinth. (R485) -/
  | brickReset (session : Nat) (cal ksA ksB : Bool)
  /-- A FIRMWARE command, or a third failed start in a row, puts the brick in ROM recovery mode. (R490) -/
  | romRecoveryEnter (session : Nat)
  /-- A FIRMWARE session commands a start, which leaves ROM recovery mode. (R490) -/
  | recoveryStart (session : Nat)
  /-- An SMBus block read of command 0x00 returns the 32-byte status block. (R527) -/
  | smbusStatusRead (h : Half)
  /-- A read of the Alert Response Address returns 0x4C and releases SMBALERT#. (R527) -/
  | smbusAlertResponse (h : Half)
  /-- PWRDIS held high for 1 ms opens the half's 12 V switch. (R526) -/
  | pwrdisAssert (h : Half)
  /-- PWRDIS held low for 100 ms reconnects the half's 12 V switch. (R526) -/
  | pwrdisRelease (h : Half)
  /-- Every 1 s each temperature sensor is sampled and corrected by its offset. (R465) -/
  | tempSample (temps : List (Fin 32 × Int))
  /-- Once a day each ageing sensor's delay shift is measured. (R466) -/
  | ageingMeasure (freqs : List (Fin 16 × Nat))
  /-- At the interval, once conditions allow, one hold-up bank is isolated and tested. (R467) -/
  | capTest
  /-- A write of HLT_CAP_REQ starts a bank test, or is refused with CAP_DEFERRED. (R467) -/
  | capTestRequest (src : AccSrc) (w : Wy) (v : Word)
  /-- A bank test ends with capacitance and ESR, and a weak bank raises HOLDUP_LOW. (R468) -/
  | capTestEnd (cap esr : Nat)
  /-- Once a day and at every start, the end-of-life day and limiting factor are projected. (R470) -/
  | eolPrediction
  /-- At least hourly the health-log sections are rewritten in the anchor key area. (R472) -/
  | healthLogRewrite
  /-- A write of HLT_LOG_SECTION latches a copy of a section and sets the offset to 0. (R472) -/
  | hltLogSelect (src : AccSrc) (w : Wy) (v : Word)
  /-- A read of HLT_LOG_DATA returns 4 bytes of the latched section and advances the offset. (R472) -/
  | hltLogRead (src : AccSrc) (w : Wy)
  /-- Once a day and at every mating cycle the Plinth records a HEALTH_SNAPSHOT entry. (R473) -/
  | healthSnapshot
  /-- A 12 V input leaves 10.8–13.2 V and its switch disconnects it within 10 µs. (R475) -/
  | inputOutOfRange (h : Half) (mv : Nat)
  /-- A disconnected input in range for 100 ms is reconnected. (R475) -/
  | inputReconnect (h : Half) (mv : Nat)
  /-- Both 12 V inputs have been disconnected for 50 µs; the Plinth declares input loss and hold-up begins. (R476) -/
  | inputLoss
  /-- A wythe's dumps and started operations end, and it tells the Plinth it is done. (R477) -/
  | wytheDumpDone (w : Wy)
  /-- Both wythes done, or 100 ms elapsed: the Plinth switches off the wythes, NAND groups and bus and records INPUT_LOSS. (R478) -/
  | holdUpEnd
  /-- A 12 V and a 3.3 V input have been in range for 100 ms, and a start begins. (R487) -/
  | powerGood (slotA slotB : Nat)
  /-- Start step in which the Plinth ROM chooses a slot and loads the calibration row and key store. (R487) -/
  | plinthRom (cal ksA ksB : Bool)
  /-- Start step in which the option area is applied, with defaults where needed. (R431) -/
  | optionsLoad
  /-- Start step in which the Plinth loads each CIP and releases the wythes into their ROM. (R487) -/
  | wytheRelease (w : Wy) (ok : Bool)
  /-- Start step in which DRAM channels are trained, with rate fallback, marked-channel tests and retirement. (R488) -/
  | dramTrain (w : Wy) (saved : Bool) (results : List DramResult)
  /-- Start step in which the tie and data ports train. (R487) -/
  | linkTrain (w : Wy) (lanes : Nat) (ports : List Nat) (pcie : Option (Nat × Nat))
  /-- Start step in which the ROM chooses and authenticates the wythe image. (R499) -/
  | imageVerify (w : Wy) (okA okB : Bool)
  /-- Start step in which the image reads and commits the settings store. (R489) -/
  | settingsLoad (w : Wy) (ok : Bool) (scale : Option (Nat × Nat)) (conv : List Setting) (ports : List Nat)
  /-- Start step in which the set loads its anchors and map. (R318) -/
  | anchorLoad (w : Wy) (aOk bOk : Bool)
  /-- Start step in which the set tag-scans, resynchronises open rounds, completes erase intents and restores its window. (R318) -/
  | tagScan (w : Wy) (failed : List (Fin 32)) (lostRecs : List (Nat × Nat)) (lostStripes : List Nat)
  /-- Start step in which both wythes exchange start state and equalise their mirrors. (R484) -/
  | tieSync (w : Wy)
  /-- The peer has not reached TIE_SYNC 60 s after this wythe; if it is held, this wythe goes on alone and covers. (R484) -/
  | tieSyncTimeout (w : Wy)
  /-- Start step in which the brick becomes MEMBER or JOINING, or has no join to make. (R487) -/
  | wallJoin (w : Wy)
  /-- WALL_JOIN is retried every 1 s until it succeeds. (R487) -/
  | wallJoinRetry (w : Wy)
  /-- Start step in which the wythe opens its queues to clients. (R487) -/
  | serviceOpen (w : Wy)
  /-- 600 s after POWER_GOOD with no wythe at TIE_SYNC, the start fails. (R490) -/
  | startTimeout
  /-- Every 10 s the root clock is measured against the Plinth clock, and a wythe beyond LIMIT fails. (R483) -/
  | clockMonitor (w : Wy) (ppm : Int)
  /-- The root PLL loses lock; the wythe becomes FAILED and stops. (R483) -/
  | pllUnlock (w : Wy)
  /-- A tie lane fails and the tie retrains on 8 lanes, or fails with fewer than 8 good lanes. (R484) -/
  | tieLaneFail (lanes : Nat)
  /-- Every 100 µs each wythe sends a tie heartbeat. (R24) -/
  | tieHeartbeatSend (w : Wy)
  /-- No tie heartbeat for 1 ms makes the wythe start cover and, for wythe 0, assert cross-reset. (R24) -/
  | tieHeartbeatLoss (w : Wy)
  /-- The peer's FAILED notice arrives; the wythe starts cover and asserts cross-reset at once. (R24) -/
  | failedNotice (w : Wy)
  /-- Wythe 1 asserts cross-reset after a further 2 ms without a tie heartbeat. (R28) -/
  | crossResetDelay
  /-- 2 s after cover began, the Plinth clears the cross-reset and restarts the covered wythe. (R486) -/
  | crossResetClear
  /-- A restarted wythe has not reached TIE_SYNC within 600 s, so the restart fails. (R486) -/
  | restartTimeout (w : Wy)
  /-- Once the restarted wythe reaches TIE_SYNC, the covering wythe mirrors its window and passes back channels and partitions. (R30) -/
  | handBack
  /-- The 250 ms hub watchdog expires; the wythe sends its FAILED notice and resets. (R485) -/
  | wytheWatchdog (w : Wy)
  /-- Activation of a staged Plinth image: TRIAL stamp and Plinth reset into the trial slot. (R502) -/
  | activatePlinth (by_ : FwAsk) (cal ksA ksB : Bool)
  /-- Activation of staged media tables loaded by both wythes. (R502) -/
  | activateMediaTables (by_ : FwAsk)
  /-- Activation of SerDes microcode, reloaded port by port. (R502) -/
  | activateSerdes (by_ : FwAsk)
  /-- A port without link 5 s after its reload reverts to the old microcode and the activation ends FALLBACK. (R502) -/
  | serdesLinkTimeout
  /-- Activation of a wythe image: drain, hand over, reset into the trial image and hand back. (R503) -/
  | activateWythe (by_ : FwAsk) (w : Wy) (conv : Bool)
  /-- A trial not at SERVICE_OPEN 600 s after its reset resets the wythe into the previous image. (R503) -/
  | trialTimeout
  /-- TST_CTRL DIE_TEST checks one die's status, calibration and an erased page. (R510) -/
  | dieTest (src : AccSrc) (w : Wy) (result ms_ : Nat)
  /-- TST_CTRL DIE_RETIRE retires a die at once with cause REQUEST. (R516) -/
  | dieRetireRequest (src : AccSrc) (w : Wy)
  /-- TST_CTRL DRAM_MARK marks a DRAM channel for a pattern test at the next start. (R514) -/
  | dramMark (src : Option AccSrc) (w : Wy) (channel : Nat) (word : DramWord)
  /-- TST_CTRL DRAM_UNMARK removes a DRAM channel's mark. (R514) -/
  | dramUnmark (src : AccSrc) (w : Wy)
  /-- A request id kept alone for one further retention period after its outcome record was discarded is forgotten, so OUTCOME answers NEVER_STARTED for it from then on. (R101) -/
  | requestIdDiscard (keyspace : BitVec 32) (requestId : BitVec 64)
  /-- An RDMA WRITE or DMA of result bytes into the client buffer is acknowledged, which lets a pending QUEUE_RESET hand its CONTROL_ACK to the transport. (R91) -/
  | rdmaWriteDone (w : Wy) (q : Nat)
  /-- A message held for up to 100 ms while the receiver fetches newer state is dropped unacknowledged when the fetch has not succeeded in that time. (R213) -/
  | epochHoldTimeout (w : Wy)
  /-- The partner's LLDP information ages out and the Clause 79 wake-time agreement on the port ends. (R381) -/
  | lldpAgeOut (w : Wy) (p : Fin 4)
  /-- Every half quantum time the port repeats its PFC with quanta 0xFFFF for a priority whose frames still hold more than XOFF_KIB. (R384) -/
  | pfcXoffRepeat (w : Wy) (p : Fin 4) (prio : Fin 8) (held : Nat)
  /-- With IN_EN set, a whole second passes with no 1PPS input edge, and the brick counts it in PTP_CNT_PPS_MISS and sets PPS_MISS. (R392) -/
  | ppsEdgeMissing (w : Wy)
  /-- The Plinth powers up from an auxiliary input or USB after having had no power; it resumes its time, resolves recorder sectors, resumes a clear or rekey and counts a mating cycle. (R422) -/
  | plinthPowerUp (auxA auxB vbus advert : Nat) (pd usb cal ksA ksB presentA presentB : Bool) (slotA slotB : Nat)
  /-- 50 ms after every source has been lost the Plinth stops, losing the saved DRAM training, DRAM marks and CRITICAL acknowledgements. (R422) -/
  | lossOfEverySupply
  /-- An asserted locate contact is released, which re-arms it so that a later assertion starts locate again. (R452) -/
  | locateRelease (h : Half)
  /-- The presence contacts open while the Plinth runs, which starts the 1 s after which a new make counts a mating cycle. (R459) -/
  | presenceBreak
  /-- The 10 s minimum interval ends and the Plinth refreshes the shown page whose content changed meanwhile. (R450) -/
  | labelRefreshInterval
  /-- A service session is closed by its peer before its ticket expires; its rights end, and an unfinished STAGE leaves its slot unusable. (R461) -/
  | serviceSessionClose (session : Nat)
  /-- A service-session command with the REMOVE_RETURN right asks for removal with a return period of 60–86,400 s. (R205) -/
  | removeReturnTicket (session seconds : Nat)
  /-- A service-session command with the AUTHORITY right installs an owner authority key that later tickets may verify to. (R462) -/
  | authorityKeyInstall (session : Nat) (key : Bytes)
  /-- A change to a changeable wall setting is committed through the armature, or refused under R5. (R190) -/
  | wallSettingsChange (session : Nat) (ws : WallSettings)
  /-- A trial Plinth image running in Service commits after it has run 10 s. (R502) -/
  | plinthTrialCommit
  /-- A BAR0 read of an unmapped offset, of the wrong size or alignment, or of an unreachable peer or Plinth page is counted and recorded in GLB_ACCESS_ERR. (R401) -/
  | refusedBar0Read (w : Wy) (off size : Nat)
  deriving DecidableEq, Repr

end Sys2Proof
end

