-- ==== Sys2Proof/Machine/Bits.lean ====
section
/-! DEFINITION. Bit fields of registers and of wire words, byte order, and the numbers of fixed width (R6, R7). -/

namespace Sys2Proof.Machine

/-- Bits [hi:lo] of a number, bit 0 the least significant (R6). -/
def bits (x : Nat) (hi lo : Nat) : Nat := x / 2 ^ lo % 2 ^ (hi + 1 - lo)

/-- Bits [hi:lo] of a register word. -/
def fld (x : Word) (hi lo : Nat) : Nat := bits x.toNat hi lo

/-- Bit n of a register word. -/
def bitOf (x : Word) (n : Nat) : Bool := x.getLsbD n

/-- A register word from a number, modulo 2^32. -/
def word (n : Nat) : Word := BitVec.ofNat 32 n

/-- A number saturated to a field of `w` bits. -/
def satBits (w n : Nat) : Nat := min n (2 ^ w - 1)

/-- Set bits [hi:lo] of a register word. -/
def setFld (x : Word) (hi lo : Nat) (v : Nat) : Word :=
  let w := hi + 1 - lo
  word (x.toNat - fld x hi lo * 2 ^ lo + v % 2 ^ w * 2 ^ lo)

/-- Set or clear bit n of a register word. -/
def setBit (x : Word) (n : Nat) (b : Bool) : Word := setFld x n n (if b then 1 else 0)

/-- A Bool as a bit. -/
def b2n (b : Bool) : Nat := if b then 1 else 0

/-- A signed value of `w` bits in two's complement. -/
def toSigned (w n : Nat) : Int :=
  let m := n % 2 ^ w
  if m < 2 ^ (w - 1) then (m : Int) else (m : Int) - (2 ^ w : Nat)

/-- An integer as a field of `w` bits in two's complement. -/
def ofSigned (w : Nat) (i : Int) : Nat := (i % ((2 ^ w : Nat) : Int)).toNat

/-- `n` bytes of a number, big-endian (Relief and Mortar fields, R7). -/
def beBytes (n x : Nat) : Bytes :=
  match n with
  | 0 => []
  | k + 1 => BitVec.ofNat 8 (x / 256 ^ k) :: beBytes k x

/-- `n` bytes of a number, little-endian (registers and stored structures, R7). -/
def leBytes (n x : Nat) : Bytes :=
  match n with
  | 0 => []
  | k + 1 => BitVec.ofNat 8 x :: leBytes k (x / 256)

/-- The number that bytes hold, big-endian. -/
def ofBe (b : Bytes) : Nat := b.foldl (fun a x => a * 256 + x.toNat) 0

/-- The number that bytes hold, little-endian. -/
def ofLe (b : Bytes) : Nat := b.foldr (fun x a => x.toNat + 256 * a) 0

/-- `n` zero bytes. -/
def zeroBytes (n : Nat) : Bytes := List.replicate n 0

/-- A byte string padded with zeros, or cut, to `n` bytes. -/
def padTo (n : Nat) (b : Bytes) : Bytes := (b ++ zeroBytes (n - b.length)).take n

/-- Bytes `off` to `off + len - 1`. -/
def sliceBytes (b : Bytes) (off len : Nat) : Bytes := (b.drop off).take len

/-- Exclusive-or of two byte strings, as long as the shorter. -/
def xorBytes (a b : Bytes) : Bytes := a.zipWith (· ^^^ ·) b

/-- Round up to a multiple. -/
def roundUp (n m : Nat) : Nat := (n + m - 1) / m * m

/-- Unsigned bytewise order of keys: a key sorts before every longer key that starts with it (R52). -/
def keyLt : Bytes → Bytes → Bool
  | [], [] => false
  | [], _ :: _ => true
  | _ :: _, [] => false
  | a :: as, b :: bs => if a.toNat < b.toNat then true else if b.toNat < a.toNat then false else keyLt as bs

end Sys2Proof.Machine
end

