-- ==== Sys2Proof/Machine/Hash.lean ====
section
/-! DEFINITION. The hash functions the spec names and does not print: SHA-256 (R54, R137, R139), HMAC-SHA-256 with the key
derivations built on it (R178, R194), and CRC-32C (R55). PRESUMED, log 6: their algorithms are the published standards
(FIPS 180-4; RFC 2104; SP 800-108r1; RFC 5869; Castagnoli polynomial, reflected). -/

namespace Sys2Proof.Machine

/-! ### SHA-256 -/

/-- The 64 round constants in one number, the first uppermost: the first 32 fractional bits of the cube roots of the first 64 primes. -/
def cubeRoots : Nat :=
  0x428A2F9871374491B5C0FBCFE9B5DBA53956C25B59F111F1923F82A4AB1C5ED5D807AA9812835B01243185BE550C7DC372BE5D7480DEB1FE9BDC06A7C19BF174E49B69C1EFBE47860FC19DC6240CA1CC2DE92C6F4A7484AA5CB0A9DC76F988DA983E5152A831C66DB00327C8BF597FC7C6E00BF3D5A7914706CA63511429296727B70A852E1B21384D2C6DFC53380D13650A7354766A0ABB81C2C92E92722C85A2BFE8A1A81A664BC24B8B70C76C51A3D192E819D6990624F40E3585106AA07019A4C1161E376C082748774C34B0BCB5391C0CB34ED8AA4A5B9CCA4F682E6FF3748F82EE78A5636F84C878148CC7020890BEFFFAA4506CEBBEF9A3F7C67178F2

/-- The eight words that hashing starts from, the first uppermost: the first 32 fractional bits of the square roots of the first 8 primes. -/
def squareRoots : Nat := 0x6A09E667BB67AE853C6EF372A54FF53A510E527F9B05688C1F83D9AB5BE0CD19

/-- Word i of a number that holds n words of 32 bits, the first uppermost. -/
def packedWord (x n i : Nat) : BitVec 32 := BitVec.ofNat 32 (x >>> (32 * (n - 1 - i)))

/-- The exclusive-or of a word rotated right by two amounts and moved by a third, rotated too or shifted. -/
def sigma (x : BitVec 32) (a b c : Nat) (rotate : Bool) : BitVec 32 :=
  x.rotateRight a ^^^ x.rotateRight b ^^^ (if rotate then x.rotateRight c else x >>> c)

/-- The message words of a block in order: the sixteen of the block, then n computed ones. -/
def messageWords (blk : Bytes) : Nat → List (BitVec 32)
  | 0 => (List.range 16).map (fun i => BitVec.ofNat 32 (ofBe (sliceBytes blk (4 * i) 4)))
  | n + 1 =>
    let l := messageWords blk n
    let at_ := fun back => l.getD (16 + n - back) 0
    l ++ [at_ 16 + sigma (at_ 15) 7 18 3 false + at_ 7 + sigma (at_ 2) 17 19 10 false]

/-- One round on the working words, by the sum of the round constant and the message word. -/
def hashRound : List (BitVec 32) → BitVec 32 → List (BitVec 32)
  | [a, b, c, d, e, f, g, h], kw =>
    let x := h + sigma e 6 11 25 true + (if_ e f g) + kw
    [x + sigma a 2 13 22 true + most a b c, a, b, c, d + x, e, f, g]
  | l, _ => l
where
  /-- Bits of the second where the first is set, of the third elsewhere. -/
  if_ (e f g : BitVec 32) : BitVec 32 := g ^^^ (e &&& (f ^^^ g))
  /-- Each bit as two of the three have it. -/
  most (a b c : BitVec 32) : BitVec 32 := (a &&& (b ||| c)) ||| (b &&& c)

/-- The words after a block of 64 bytes. -/
def hashBlock (v : List (BitVec 32)) (blk : Bytes) : List (BitVec 32) :=
  let kw := (messageWords blk 48).mapIdx (fun i w => w + packedWord cubeRoots 64 i)
  v.zipWith (· + ·) (kw.foldl hashRound v)

/-- The words after the first n blocks of a message. -/
def hashBlocks : Nat → Bytes → List (BitVec 32) → List (BitVec 32)
  | 0, _, v => v
  | n + 1, m, v => hashBlocks n (m.drop 64) (hashBlock v (m.take 64))

/-- SHA-256 over a byte string, 32 bytes. -/
def sha256 (m : Bytes) : Bytes :=
  let blocks := m.length / 64 + (if m.length % 64 < 56 then 1 else 2)
  let tail := 0x80 :: zeroBytes (64 * blocks - m.length - 9) ++ beBytes 8 (8 * m.length)
  (hashBlocks blocks (m ++ tail) ((List.range 8).map (packedWord squareRoots 8))).flatMap (fun x => beBytes 4 x.toNat)

/-! ### Message authentication and key derivation (R178, R194) -/

/-- HMAC-SHA-256 of a message under a key. -/
def hmac (key msg : Bytes) : Bytes :=
  let k := padTo 64 (if key.length ≤ 64 then key else sha256 key)
  let pad := fun b : Byte => k.map (fun x => x ^^^ b)
  sha256 (pad 0x5C ++ sha256 (pad 0x36 ++ msg))

/-- The ASCII bytes of a name. -/
def ascii (s : String) : Bytes := s.toList.map (fun c => BitVec.ofNat 8 c.toNat)

/-- The counter-mode derivation of SP 800-108r1 with HMAC-SHA-256 and one block of output, 256 bits. -/
def kdfCounter (key label context : Bytes) : Bytes :=
  hmac key (beBytes 4 1 ++ label ++ [0] ++ context ++ beBytes 4 256)

/-- HKDF (RFC 5869) with SHA-256 and one block of output, 256 bits. -/
def hkdf (salt ikm info : Bytes) : Bytes := hmac (hmac salt ikm) (info ++ [1])

/-! ### CRC-32C -/

/-- One bit of a reflected CRC. -/
def crcBit (poly x : BitVec 32) : BitVec 32 :=
  if x.getLsbD 0 then (x >>> 1) ^^^ poly else x >>> 1

/-- `n` bits of a reflected CRC. -/
def crcBits : Nat → BitVec 32 → BitVec 32 → BitVec 32
  | 0, _, x => x
  | n + 1, poly, x => crcBits n poly (crcBit poly x)

/-- CRC-32C: reflected polynomial 0x82F6_3B78, initial value and final exclusive-or all ones. -/
def crc32c (m : Bytes) : BitVec 32 :=
  ~~~ (m.foldl (fun c b => crcBits 8 0x82F63B78 (c ^^^ b.setWidth 32)) 0xFFFFFFFF)

/-- Entry i of the default gear table: bytes 0-7 of SHA-256 over the byte i, little-endian (R137). -/
def gearDefault (i : Nat) : Nat := ofLe ((sha256 [BitVec.ofNat 8 i]).take 8)

end Sys2Proof.Machine
end

