-- ==== Sys2Proof/Machine/Aes.lean ====
section
/-! DEFINITION. The ciphers the spec names and does not print: AES-256 (FIPS 197), its Galois/Counter Mode (SP 800-38D; R167-R169)
and the AES Key Wrap with its default initial value (SP 800-38F, RFC 3394; R179). PRESUMED, log 192: their algorithms are the published
standards. -/

namespace Sys2Proof.Machine

/-! ### AES-256 -/

/-- The 256 bytes of the substitution box in one number, that of 0 uppermost. -/
def substitution : Nat :=
  0x637C777BF26B6FC53001672BFED7AB76CA82C97DFA5947F0ADD4A2AF9CA472C0B7FD9326363FF7CC34A5E5F171D8311504C723C31896059A071280E2EB27B27509832C1A1B6E5AA0523BD6B329E32F8453D100ED20FCB15B6ACBBE394A4C58CFD0EFAAFB434D338545F9027F503C9FA851A3408F929D38F5BCB6DA2110FFF3D2CD0C13EC5F974417C4A77E3D645D197360814FDC222A908846EEB814DE5E0BDBE0323A0A4906245CC2D3AC629195E479E7C8376D8DD54EA96C56F4EA657AAE08BA78252E1CA6B4C6E8DD741F4BBD8B8A703EB5664803F60E613557B986C11D9EE1F8981169D98E949B1E87E9CE5528DF8CA1890DBFE6426841992D0FB054BB16

/-- The 256 bytes of the inverse box in one number, that of 0 uppermost. -/
def substitutionBack : Nat :=
  0x52096AD53036A538BF40A39E81F3D7FB7CE339829B2FFF87348E4344C4DEE9CB547B9432A6C2233DEE4C950B42FAC34E082EA16628D924B2765BA2496D8BD12572F8F66486689816D4A45CCC5D65B6926C704850FDEDB9DA5E154657A78D9D8490D8AB008CBCD30AF7E45805B8B34506D02C1E8FCA3F0F02C1AFBD0301138A6B3A9111414F67DCEA97F2CFCEF0B4E67396AC7422E7AD3585E2F937E81C75DF6E47F11A711D29C5896FB7620EAA18BE1BFC563E4BC6D279209ADBC0FE78CD5AF41FDDA8338807C731B11210592780EC5F60517FA919B54A0D2DE57A9F93C99CEFA0E03B4DAE2AF5B0C8EBBB3C83539961172B047EBA77D626E169146355210C7D

/-- The byte that a box gives for a byte. -/
def boxed (box : Nat) (x : Byte) : Byte := BitVec.ofNat 8 (box >>> (8 * (255 - x.toNat)))

/-- The product of a byte with x, modulo x^8 + x^4 + x^3 + x + 1. -/
def timesX (a : Byte) : Byte := (a <<< 1) ^^^ (if a.getLsbD 7 then 0x1B else 0)

/-- The product of a byte with a number below 16. -/
def timesSmall (n : Nat) (a : Byte) : Byte :=
  let b := timesX a
  let c := timesX b
  let part := fun (k : Nat) (x : Byte) => if n.testBit k then x else 0
  part 0 a ^^^ part 1 b ^^^ part 2 c ^^^ part 3 (timesX c)

/-- Each byte of a block from the place of its row after a rotation of row r by r times `step` columns. -/
def moveRows (step : Nat) (b : Bytes) : Bytes := (List.range 16).map (fun i => b.getD ((i + 4 * step * (i % 4)) % 16) 0)

/-- Each column of a block times the circulant matrix of four small numbers. -/
def mixColumns (m : List Nat) (b : Bytes) : Bytes :=
  (List.range 16).map (fun i => (List.range 4).foldl (fun a j =>
    a ^^^ timesSmall (m.getD ((j + 4 - i % 4) % 4) 0) (b.getD (i / 4 * 4 + j) 0)) 0)

/-- The words of the key schedule, newest first: the eight of the key, then n computed ones. -/
def scheduleWords (key : Bytes) : Nat → List Bytes
  | 0 => ((List.range 8).map (fun i => sliceBytes key (4 * i) 4)).reverse
  | n + 1 =>
    let l := scheduleWords key n
    let last := l.headD []
    let sub := fun w : Bytes => w.map (boxed substitution)
    let t := if n % 8 = 0 then xorBytes (sub (last.drop 1 ++ last.take 1)) [BitVec.ofNat 8 (2 ^ (n / 8)), 0, 0, 0]
      else if n % 8 = 4 then sub last
      else last
    xorBytes (l.getD 7 []) t :: l

/-- The fifteen round keys of a key. -/
def roundKeys (key : Bytes) : List Bytes :=
  let w := (scheduleWords key 52).reverse
  (List.range 15).map (fun r => ((w.drop (4 * r)).take 4).flatten)

/-- AES-256 of one block under the round keys. -/
def aesWith (ks : List Bytes) (b : Bytes) : Bytes :=
  let one := fun (mix : Bool) (b k : Bytes) =>
    let c := moveRows 1 (b.map (boxed substitution))
    xorBytes (if mix then mixColumns [2, 3, 1, 1] c else c) k
  let mid := ((ks.drop 1).take 13).foldl (one true) (xorBytes b (ks.headD []))
  one false mid (ks.getD 14 [])

/-- The inverse of AES-256 on one block under the round keys. -/
def aesBackWith (ks : List Bytes) (b : Bytes) : Bytes :=
  let back := fun b : Bytes => (moveRows 3 b).map (boxed substitutionBack)
  let mid := ((ks.drop 1).take 13).reverse.foldl (fun b k => mixColumns [14, 11, 13, 9] (xorBytes (back b) k))
    (xorBytes b (ks.getD 14 []))
  xorBytes (back mid) (ks.headD [])

/-! ### Galois/Counter Mode (R167-R169) -/

/-- A block as 128 bits, its first bit uppermost. -/
def blockBits (b : Bytes) : BitVec 128 := BitVec.ofNat 128 (ofBe (padTo 16 b))

/-- The first n steps of the product of two blocks in the field of GHASH: the sum so far and the shifted factor. -/
def ghashSteps (x y : BitVec 128) : Nat → BitVec 128 × BitVec 128
  | 0 => (0, y)
  | n + 1 =>
    let (z, v) := ghashSteps x y n
    (if x.getMsbD n then z ^^^ v else z, (v >>> 1) ^^^ (if v.getLsbD 0 then 0xE1#128 <<< 120 else 0))

/-- The product of two blocks in the field of GHASH. -/
def ghashTimes (x y : BitVec 128) : BitVec 128 := (ghashSteps x y 128).1

/-- The 16-byte blocks of a byte string, the last one cut short. -/
def blocksOf (b : Bytes) : List Bytes := (List.range ((b.length + 15) / 16)).map (fun i => sliceBytes b (16 * i) 16)

/-- GHASH over whole blocks so far. -/
def ghashSum (h : BitVec 128) (l : List Bytes) : BitVec 128 := l.foldl (fun y b => ghashTimes (y ^^^ blockBits b) h) 0

/-- GHASH over the additional data, then the ciphertext, then the lengths block (R168). -/
def ghash (h : BitVec 128) (aad text : Bytes) : BitVec 128 :=
  ghashSum h (blocksOf aad ++ blocksOf text ++ [beBytes 8 (8 * aad.length) ++ beBytes 8 (8 * text.length)])

/-- The counter block of an IV: 1 is kept for the tag, and the payload begins at 2. -/
def counterBlock (iv : Bytes) (n : Nat) : Bytes := padTo 12 iv ++ beBytes 4 n

/-- The GHASH key of a key. -/
def hashKey (ks : List Bytes) : BitVec 128 := blockBits (aesWith ks (zeroBytes 16))

/-- The payload in counter mode: each way the same. -/
def counterMode (ks : List Bytes) (iv text : Bytes) : Bytes :=
  ((blocksOf text).mapIdx (fun i b => xorBytes b (aesWith ks (counterBlock iv (i + 2))))).flatten

/-- The tag over additional data and ciphertext. -/
def gcmTag (ks : List Bytes) (iv aad text : Bytes) : Bytes :=
  xorBytes (beBytes 16 (ghash (hashKey ks) aad text).toNat) (aesWith ks (counterBlock iv 1))

/-- Encryption: the ciphertext and its tag. -/
def gcmSeal (key iv aad text : Bytes) : Bytes × Bytes :=
  let ks := roundKeys key
  let c := counterMode ks iv text
  (c, gcmTag ks iv aad c)

/-- Decryption: the plaintext that leaves the tile block by block, and whether the tag matches (R169). -/
def gcmOpen (key iv aad text tag : Bytes) : Bytes × Bool :=
  let ks := roundKeys key
  (counterMode ks iv text, decide (gcmTag ks iv aad text = tag))

/-! ### Key Wrap (R179) -/

/-- The check value of an unwrap. -/
def wrapCheck : Bytes := List.replicate 8 0xA6

/-- Step t of a wrap: register t modulo n is run through the cipher with the check value. -/
def wrapStep (ks : List Bytes) (n : Nat) (x : Bytes × List Bytes) (t : Nat) : Bytes × List Bytes :=
  let b := aesWith ks (x.1 ++ x.2.getD (t % n) [])
  (xorBytes (b.take 8) (beBytes 8 (t + 1)), x.2.set (t % n) (b.drop 8))

/-- Step t of an unwrap. -/
def unwrapStep (ks : List Bytes) (n : Nat) (x : Bytes × List Bytes) (t : Nat) : Bytes × List Bytes :=
  let b := aesBackWith ks (xorBytes x.1 (beBytes 8 (t + 1)) ++ x.2.getD (t % n) [])
  (b.take 8, x.2.set (t % n) (b.drop 8))

/-- The 8-byte registers of a byte string. -/
def registersOf (b : Bytes) : List Bytes := (List.range (b.length / 8)).map (fun i => sliceBytes b (8 * i) 8)

/-- A key wrapped under another: 8 bytes longer. -/
def keyWrap (kek key : Bytes) : Bytes :=
  let n := key.length / 8
  let (a, r) := (List.range (6 * n)).foldl (wrapStep (roundKeys kek) n) (wrapCheck, registersOf key)
  a ++ r.flatten

/-- A wrapped key opened; none when its integrity check fails. -/
def keyUnwrap (kek wrapped : Bytes) : Option Bytes :=
  let n := wrapped.length / 8 - 1
  let (a, r) := (List.range (6 * n)).reverse.foldl (unwrapStep (roundKeys kek) n) (wrapped.take 8, registersOf (wrapped.drop 8))
  if a = wrapCheck then some r.flatten else none

end Sys2Proof.Machine
end

