-- ==== Sys2Proof/Machine/Curve.lean ====
section
/-! DEFINITION. What two walls and a joining brick agree a key with (R194, R273): SHA-384 and HKDF over it, and the curve P-384 with
its key agreement and signatures. PRESUMED, log 218: their algorithms are the published standards (FIPS 180-4; RFC 5869; SP 800-186;
FIPS 186-5). -/

namespace Sys2Proof.Machine

/-! ### SHA-384 -/

/-- The 80 round constants in one number, the first uppermost: the first 64 fractional bits of the cube roots of the first 80 primes. -/
def wideCubes : Nat :=
  0x428A2F98D728AE227137449123EF65CDB5C0FBCFEC4D3B2FE9B5DBA58189DBBC3956C25BF348B53859F111F1B605D019923F82A4AF194F9BAB1C5ED5DA6D8118D807AA98A303024212835B0145706FBE243185BE4EE4B28C550C7DC3D5FFB4E272BE5D74F27B896F80DEB1FE3B1696B19BDC06A725C71235C19BF174CF692694E49B69C19EF14AD2EFBE4786384F25E30FC19DC68B8CD5B5240CA1CC77AC9C652DE92C6F592B02754A7484AA6EA6E4835CB0A9DCBD41FBD476F988DA831153B5983E5152EE66DFABA831C66D2DB43210B00327C898FB213FBF597FC7BEEF0EE4C6E00BF33DA88FC2D5A79147930AA72506CA6351E003826F142929670A0E6E7027B70A8546D22FFC2E1B21385C26C9264D2C6DFC5AC42AED53380D139D95B3DF650A73548BAF63DE766A0ABB3C77B2A881C2C92E47EDAEE692722C851482353BA2BFE8A14CF10364A81A664BBC423001C24B8B70D0F89791C76C51A30654BE30D192E819D6EF5218D69906245565A910F40E35855771202A106AA07032BBD1B819A4C116B8D2D0C81E376C085141AB532748774CDF8EEB9934B0BCB5E19B48A8391C0CB3C5C95A634ED8AA4AE3418ACB5B9CCA4F7763E373682E6FF3D6B2B8A3748F82EE5DEFB2FC78A5636F43172F6084C87814A1F0AB728CC702081A6439EC90BEFFFA23631E28A4506CEBDE82BDE9BEF9A3F7B2C67915C67178F2E372532BCA273ECEEA26619CD186B8C721C0C207EADA7DD6CDE0EB1EF57D4F7FEE6ED17806F067AA72176FBA0A637DC5A2C898A6113F9804BEF90DAE1B710B35131C471B28DB77F523047D8432CAAB7B40C724933C9EBE0A15C9BEBC431D67C49C100D4C4CC5D4BECB3E42B6597F299CFC657E2A5FCB6FAB3AD6FAEC6C44198C4A475817

/-- The eight words that hashing starts from, the first uppermost: the first 64 fractional bits of the square roots of the 9th to 16th
primes. -/
def wideSquares : Nat :=
  0xCBBB9D5DC1059ED8629A292A367CD5079159015A3070DD17152FECD8F70E593967332667FFC00B318EB44A8768581511DB0C2E0D64F98FA747B5481DBEFA4FA4

/-- The exclusive-or of a 64-bit word rotated right by two amounts and moved by a third, rotated too or shifted. -/
def wideSigma (x : BitVec 64) (a b c : Nat) (rotate : Bool) : BitVec 64 :=
  x.rotateRight a ^^^ x.rotateRight b ^^^ (if rotate then x.rotateRight c else x >>> c)

/-- The words after a block of 128 bytes: the sixteen message words pass through a window that makes the next word from four of them. -/
def wideRounds : Nat → List (BitVec 64) → List (BitVec 64) → List (BitVec 64)
  | 0, _, v => v
  | n + 1, win, v =>
    let at_ := fun i => win.getD i 0
    let k := BitVec.ofNat 64 (wideCubes >>> (64 * n))
    let next := wideSigma (at_ 14) 19 61 6 false + at_ 9 + wideSigma (at_ 1) 1 8 7 false + at_ 0
    let w := fun i => v.getD i 0
    let x := w 7 + wideSigma (w 4) 14 18 41 true + (w 6 ^^^ (w 4 &&& (w 5 ^^^ w 6))) + (k + at_ 0)
    let y := wideSigma (w 0) 28 34 39 true + ((w 0 &&& (w 1 ||| w 2)) ||| (w 1 &&& w 2))
    wideRounds n (win.drop 1 ++ [next]) ([x + y] ++ v.take 3 ++ [w 3 + x] ++ (v.drop 4).take 3)

/-- The words after the first n blocks of a message. -/
def wideBlocks : Nat → Bytes → List (BitVec 64) → List (BitVec 64)
  | 0, _, v => v
  | n + 1, m, v =>
    let win := (List.range 16).map (fun i => BitVec.ofNat 64 (ofBe (sliceBytes m (8 * i) 8)))
    wideBlocks n (m.drop 128) (v.zipWith (· + ·) (wideRounds 80 win v))

/-- SHA-384 over a byte string, 48 bytes. -/
def sha384 (m : Bytes) : Bytes :=
  let blocks := (m.length + 17 + 127) / 128
  let full := m ++ 0x80 :: zeroBytes (128 * blocks - m.length - 17) ++ beBytes 16 (8 * m.length)
  let start := (List.range 8).map (fun i => BitVec.ofNat 64 (wideSquares >>> (64 * (7 - i))))
  ((wideBlocks blocks full start).take 6).flatMap (fun x => beBytes 8 x.toNat)

/-- HMAC-SHA-384 of a message under a key of at most 128 bytes. -/
def wideMac (key msg : Bytes) : Bytes :=
  let pad := fun b : Byte => (padTo 128 key).map (fun x => x ^^^ b)
  sha384 (pad 0x5C ++ sha384 (pad 0x36 ++ msg))

/-- The first 32 bytes of HKDF-SHA-384 (R194, R273). -/
def wideHkdf (salt ikm info : Bytes) : Bytes := (wideMac (wideMac salt ikm) (info ++ [1])).take 32

/-! ### P-384 -/

/-- The prime of the field. -/
def curveP : Nat := 2 ^ 384 - 2 ^ 128 - 2 ^ 96 + 2 ^ 32 - 1

/-- The order of the base point. -/
def curveN : Nat :=
  0xFFFFFFFFFFFFFFFFFFFFFFFFFFFFFFFFFFFFFFFFFFFFFFFFC7634D81F4372DDF581A0DB248B0A77AECEC196ACCC52973

/-- The constant term of the curve y² = x³ - 3x + b. -/
def curveB : Nat :=
  0xB3312FA7E23EE7E4988E056BE3F82D19181D9C6EFE8141120314088F5013875AC656398D8A2ED19D2A85C8EDD3EC2AEF

/-- A point of the curve; none is the point at infinity. -/
abbrev Point := Option (Nat × Nat)

/-- The base point. -/
def curveG : Nat × Nat :=
  (0xAA87CA22BE8B05378EB1C71EF320AD746E1D3B628BA79B9859F741E082542A385502F25DBF55296C3A545E3872760AB7,
    0x3617DE4A96262C6F5D9E98BF9292DC29F8F41DBD289A147CE9DA3113B5F0B8C00A60B1CE1D7E819D7A431D7C90EA0E5F)

/-- x to the power of the low n bits of e, modulo m: square and multiply, from the top bit down. -/
def powMod (m x e : Nat) : Nat → Nat
  | 0 => 1
  | n + 1 => let y := powMod m x (e / 2) n
             if e % 2 = 1 then y * y % m * x % m else y * y % m

/-- The inverse modulo a prime of 384 bits. -/
def invMod (m x : Nat) : Nat := powMod m (x % m) (m - 2) 384

/-- a - b modulo m. -/
def subMod (m a b : Nat) : Nat := (a % m + m - b % m) % m

/-- The sum of two points. -/
def pointAdd : Point → Point → Point
  | none, q => q
  | p, none => p
  | some (x1, y1), some (x2, y2) =>
    if x1 = x2 && (y1 + y2) % curveP = 0 then none
    else
      let slope :=
        if x1 = x2 then subMod curveP (3 * x1 * x1) 3 * invMod curveP (2 * y1) % curveP
        else subMod curveP y2 y1 * invMod curveP (subMod curveP x2 x1) % curveP
      let x := subMod curveP (slope * slope) (x1 + x2)
      some (x, subMod curveP (slope * subMod curveP x1 x) y1)

/-- Twice a point held as a fraction: (x, y, z) stands for (x / z², y / z³), and z = 0 for the point at infinity. -/
def fracDouble (t : Nat × Nat × Nat) : Nat × Nat × Nat :=
  let zz := t.2.2 * t.2.2 % curveP
  let yy := t.2.1 * t.2.1 % curveP
  let m := 3 * subMod curveP t.1 zz * (t.1 + zz) % curveP
  let c := 4 * t.1 * yy % curveP
  let x := subMod curveP (m * m) (2 * c)
  (x, subMod curveP (m * subMod curveP c x) (8 * yy * yy), 2 * t.2.1 * t.2.2 % curveP)

/-- A point held as a fraction plus one that is not. -/
def fracAdd (t : Nat × Nat × Nat) (p : Nat × Nat) : Nat × Nat × Nat :=
  let zz := t.2.2 * t.2.2 % curveP
  let h := subMod curveP (p.1 * zz) t.1
  let r := subMod curveP (p.2 * zz % curveP * t.2.2) t.2.1
  if t.2.2 = 0 then (p.1, p.2, 1)
  else if h = 0 then (if r = 0 then fracDouble t else (1, 1, 0))
  else
    let hh := h * h % curveP
    let c := t.1 * hh % curveP
    let x := subMod curveP (r * r) (h * hh + 2 * c)
    (x, subMod curveP (r * subMod curveP c x) (t.2.1 * (h * hh % curveP)), t.2.2 * h % curveP)

/-- A point taken k times as a fraction, k of at most n bits. -/
def fracTimes (p : Nat × Nat) (k : Nat) : Nat → Nat × Nat × Nat
  | 0 => (1, 1, 0)
  | n + 1 =>
    let d := fracDouble (fracTimes p (k / 2) n)
    if k % 2 = 1 then fracAdd d p else d

/-- A point taken k times, k of at most 384 bits. -/
def pointTimes (p : Nat × Nat) (k : Nat) : Point :=
  let t := fracTimes p k 384
  if t.2.2 = 0 then none
  else
    let i := invMod curveP t.2.2
    some (t.1 * (i * i % curveP) % curveP, t.2.1 * (i * i % curveP * i % curveP) % curveP)

/-- An uncompressed public key, 97 bytes. -/
def pointBytes : Point → Bytes
  | some (x, y) => 0x04 :: beBytes 48 x ++ beBytes 48 y
  | none => zeroBytes 97

/-- A point from an uncompressed public key; none when it is not on the curve. -/
def pointOf (b : Bytes) : Point :=
  let x := ofBe (sliceBytes b 1 48)
  let y := ofBe (sliceBytes b 49 48)
  if b.length = 97 && b.take 1 = [0x04] && x < curveP && y < curveP && y * y % curveP = subMod curveP (x * x * x + curveB) (3 * x)
  then some (x, y) else none

/-- A private key from random bytes, in 1 to n - 1. -/
def scalarOf (b : Bytes) : Nat := ofBe b % (curveN - 1) + 1

/-- The public key of a private key. -/
def publicKey (k : Nat) : Bytes := pointBytes (pointTimes curveG k)

/-- The shared secret of key agreement: the x coordinate, 48 bytes; none when the other key is no point. -/
def sharedSecret (k : Nat) (other : Bytes) : Option Bytes :=
  (pointOf other).bind (fun p => (pointTimes p k).map (fun q => beBytes 48 q.1))

/-- A signature over a message, r then s, by a private key and a nonce of its own. -/
def ecSign (d k : Nat) (msg : Bytes) : Bytes :=
  let r := ((pointTimes curveG k).map (fun p => p.1 % curveN)).getD 0
  beBytes 48 r ++ beBytes 48 (invMod curveN k * (ofBe (sha384 msg) + r * d) % curveN)

/-- A signature over a message holds under a public key. -/
def ecVerify (pub msg sig : Bytes) : Bool :=
  let r := ofBe (sig.take 48)
  let s := ofBe ((sig.drop 48).take 48)
  if r = 0 || curveN ≤ r || s = 0 || curveN ≤ s then false
  else match pointOf pub with
    | none => false
    | some q =>
      let i := invMod curveN s
      let p := pointAdd (pointTimes curveG (ofBe (sha384 msg) * i % curveN)) (pointTimes q (r * i % curveN))
      p.any (fun p => p.1 % curveN = r)

end Sys2Proof.Machine
end

