-- ==== Sys2Proof/Config.lean ====
section
/-! DEFINITION. What one brick fixes and the spec leaves open: the free values. None has a body, so no proof can rest on
a number. -/

namespace Sys2Proof

/-- A value that the spec leaves open, fresh at each use: applied to the counter `State.fresh` that the step advances
(log 3). -/
opaque Config.freeValue : Nat → BitVec 64

/-- A byte string that the spec leaves open, of the length asked for, fresh at each use (log 3). -/
opaque Config.freeByte : Nat → BitVec 8

/-- The choice of the dump reserve's dies and blocks, by the number of the choice: the boot pointer's list (R307, R309), which the spec leaves to
the brick (log 22). -/
opaque Config.dumpPick : Nat → Nat

/-- The choices that the armature's rules leave open (R196, R216, R220), by the number of the choice (log 28). -/
opaque Config.armPick : Nat → Nat

/-- The minimum Transmit Tw_sys_tx of a port mode's PHY, in µs, which the standard gives and the spec does not (R381, log 38). -/
opaque Config.phyMinTw : Nat → Nat

/-- The type byte of an armature log entry (R214), which the spec does not number (log 252). -/
opaque Config.changeType : ArmChange → BitVec 8

/-- The address of a home brick of another wall before a message from it has arrived (R275, log 31). -/
opaque Config.farAddress : Nat → BitVec 128

/-- The bytes of the read-threshold table in the factory image of MEDIA_TABLES (R332, R533): none is given. -/
opaque Config.factoryTable : Nat → BitVec 8

/-- The bytes of the calibration row, written at manufacture (R433): no brick's are given. -/
opaque Config.calByte : Nat → BitVec 8

/-- The bytes of the device root key, drawn at manufacture (R178): no brick's are given, and no reader sees them (log 208). -/
opaque Config.rootByte : Nat → BitVec 8

/-- The bytes of the device's private key, written at manufacture (R194): no brick's are given, and no reader sees them (log
253). -/
opaque Config.deviceByte : Nat → BitVec 8

/-- The bytes of the device certificate (R214), and its length as a number that counts modulo 2,048: none is given (log 253). -/
opaque Config.certByte : Nat → BitVec 8

@[inherit_doc Config.certByte] opaque Config.certSize : Nat

/-- The bytes of the Shovora service root's public key in the Plinth ROM (R462, log 250): none is given. -/
opaque Config.rootKeyByte : Nat → BitVec 8

/-- The bytes of the public key of a Shovora firmware signing key in the Plinth ROM, by its id (R494, R496): none is given. -/
opaque Config.signerByte : Nat → Nat → BitVec 8

/-- The bytes of an image key that the Plinth ROM key services hold, by its id (R494): none is given, and no reader sees them. -/
opaque Config.imageKeyByte : Nat → Nat → BitVec 8

end Sys2Proof
end

