-- ==== Sys2Proof/Machine/Codes.lean ====
section
/-! DEFINITION. The numbers of opcodes, statuses and details on the wire (R59, R83, R84). -/

namespace Sys2Proof.Machine

/-- The opcode byte (R59). -/
def opcodeNum : Opcode → Nat
  | .hello => 0x01 | .mapGet => 0x02 | .put => 0x10 | .putOpen => 0x11 | .putPart => 0x12 | .putClose => 0x13
  | .patch => 0x14 | .punch => 0x15 | .delete => 0x16 | .get => 0x20 | .stat => 0x21 | .list => 0x22
  | .batch => 0x30 | .cast => 0x40 | .castDrop => 0x41 | .outcome => 0x50 | .flush => 0x51 | .subscribe => 0x52

/-- The status byte (R83). -/
def statusNum : Status → Nat
  | .ok => 0x00 | .notFound => 0x01 | .exists => 0x02 | .versionMismatch => 0x03 | .shortBuffer => 0x04
  | .tainted => 0x05 | .redirect => 0x10 | .busyRetry => 0x11 | .epochStale => 0x12 | .full => 0x20
  | .unavailable => 0x21 | .lost => 0x22 | .tooLarge => 0x30 | .badFormat => 0x31 | .notPermitted => 0x32
  | .castExpired => 0x33 | .keyspaceLocked => 0x34 | .internal => 0x3F

/-- The detail code (R84). -/
def detailNum : Detail → Nat
  | .none => 0 | .lengthMismatch => 0x0001 | .keyRequired => 0x0002 | .immNotAllowed => 0x0003
  | .flagConflict => 0x0004 | .tagInUse => 0x0005 | .requestIdZero => 0x0006 | .range => 0x0007
  | .crossPartition => 0x0008 | .dupKey => 0x0009 | .partMissing => 0x000A | .uploadUnknown => 0x000B
  | .unknownOpcode => 0x000C | .protoVersion => 0x000D | .reservedNonzero => 0x000E | .partSize => 0x000F
  | .unknownKind => 0x0010 | .keyspaceRequired => 0x0011 | .drain => 0x0101 | .admission => 0x0102
  | .notClosed => 0x0103 | .uploadLimit => 0x0104 | .moving => 0x0105 | .noRight => 0x0201 | .noHello => 0x0202
  | .unknownKeyspace => 0x0203 | .wallFull => 0x0301 | .castLimit => 0x0302 | .done => 0x0401
  | .neverStarted => 0x0402 | .unknown => 0x0403

/-- The opcodes of the WRITE right (R53). -/
def isWrite : Opcode → Bool
  | .put | .putOpen | .putPart | .putClose | .patch | .punch | .delete | .batch => true
  | _ => false

/-- The opcodes of the CAST right (R53). -/
def isCast : Opcode → Bool
  | .cast | .castDrop => true
  | _ => false

/-- The opcodes of the READ right (R53). -/
def isRead : Opcode → Bool
  | .get | .stat | .list => true
  | _ => false

/-- The opcodes that name no keyspace (R59). -/
def noKeyspace : Opcode → Bool
  | .hello | .mapGet | .flush | .subscribe => true
  | _ => false

/-- The opcodes whose key is required (R59): LIST takes a key of any length, OUTCOME a key or none. -/
def needsKey : Opcode → Bool
  | .put | .putOpen | .putPart | .putClose | .patch | .punch | .delete | .get | .stat => true
  | _ => false

/-- The opcodes whose key field is reserved (R59). -/
def keyReserved : Opcode → Bool
  | .hello | .mapGet | .batch | .cast | .castDrop | .flush | .subscribe => true
  | _ => false

/-- The FLAGS bits listed for an opcode (R44). -/
def flagsAllowed : Opcode → Nat
  | .put => 0x03
  | .putClose => 0x83
  | .patch | .punch | .delete => 0x01
  | .get => 0x7C
  | .stat | .list => 0x1C
  | .mapGet => 0x40
  | .cast => 0x10
  | _ => 0

/-- The admission classes (R105). -/
inductive AdmClass where
  | metadata
  | read
  | write
  deriving DecidableEq, Repr

/-- The admission class of an opcode (R105). -/
def admClass : Opcode → AdmClass
  | .get | .mapGet | .list => .read
  | .put | .putPart | .patch | .batch => .write
  | _ => .metadata

end Sys2Proof.Machine
end

