-- ==== Sys2Proof/Machine/Outputs.lean ====
section
/-! DEFINITION. What the brick puts out: messages to clients, transport actions, writes into host memory, interrupts,
Mortar messages, frames and contacts. The outbox of the state keeps them in the order in which they are handed out. -/

namespace Sys2Proof.Machine

/-- A message from the brick on a Relief queue: a completion (R46), a CONTROL_ACK (R50), an EVENT (R48) or a DRAIN
notice (R49). -/
inductive BusMsg where
  | completion (epoch : BitVec 16) (tag : Nat) (status : Status) (cflags : Nat) (detail : Detail)
      (requestId : BitVec 64) (version result : Nat)
  | controlAck (epoch : BitVec 16) (requestId : BitVec 64) (code : Nat)
  | event (epoch : BitVec 16) (code seq time detail : Nat)
  | drain (epoch : BitVec 16) (wythe reason drainAt : Nat)
  deriving DecidableEq, Repr

/-- The bodies of the Mortar messages the brick sends (R214, R236, R254). -/
inductive MortarBody where
  | heartbeat (b : HbBody)
  | heartbeatReply (b : HbReply)
  | joinRequest (r : JoinReq)
  | joinForward (h : MHead) (r : JoinReq)
  | joinGrant (g : JoinGrant)
  | removeNotice (k : RemoveKind)
  | stateGet (obj : StateObj) (version offset length : Nat)
  | stateData (obj : StateObj) (status version offset total : Nat) (bytes : Bytes)
  | epochNotice (epoch map bond : Nat)
  | armAppend (term leader prevIndex prevTerm commit : Nat) (entries : List LogEntry)
  | armAppendAck (term : Nat) (ok : Bool) (matched : Nat) (silent : List Nat)
  | armVoteReq (term candidate lastIndex lastTerm : Nat)
  | armVote (term : Nat) (granted : Bool)
  | indexPut (p epoch closed : Nat) (r : IdxRec)
  | indexAck (p epoch version : Nat) (placed : Bool)
  | partCollect (p epoch : Nat)
  | partRecords (p epoch closed : Nat) (recs : List IdxRec)
  | partHandover (p epoch hlc closed : Nat)
  | closedTime (p epoch closed : Nat)
  | castRequest (keyspace : BitVec 32) (t : Nat) (requestId : BitVec 64)
  | castAnnounce (id : Nat) (keyspace : BitVec 32) (t : Nat)
  | castConfirm (id : Nat) (held : Bool)
  | castDone (id : Nat) (status : Status) (t : Nat) (requestId : BitVec 64)
  | castDropReq (id : Nat) (keyspace : BitVec 32) (requestId : BitVec 64)
  | chunkPut (group p : Nat) (requestId : BitVec 64) (chunk : Nat) (record : Bytes)
  | chunkAck (group p : Nat) (res : AckResult) (requestId : BitVec 64) (chunk : Nat) (place : Place)
  | journalCopy (stripe offset lead : Nat) (journal : List Nat) (record : Bytes)
  | journalAck (stripe offset : Nat) (a : JAck)
  | stripeSeal (stripe fill count gen : Nat) (digest : Bytes) (lead : Nat) (targets : List Nat)
  | fragPut (h : FragHead) (bytes : Bytes)
  | fragAck (fragId gen : Nat) (a : FAck)
  | sealCommit (stripe gen : Nat)
  | rangeRead (fragId offset length : Nat) (pend : Bool) (purpose : Purpose) (cookie : Nat)
  | rangeData (fragId offset length : Nat) (st : RStatus) (holder cookie : Nat) (bytes : Bytes)
  | stripeListReq (group pos first max : Nat)
  | stripeList (group pos : Nat) (more : Bool) (entries : List ListEntry)
  | journalStateReq (group stripe : Nat)
  | journalState (j : JState)
  | lostReport (stripe offset length : Nat) (fps : List Bytes) (rangeOnly : Bool)
  | fragRelease (fragId holder : Nat)
  | refDelta (p home group : Nat) (recount ended : Bool) (seq lwm : Nat) (entries : List DeltaEntry)
  | refAck (p group : Nat) (r : RefRes) (seq missing : Nat) (found : List Nat)
  | refQuery (p group : Nat) (requestId : BitVec 64) (chunk : Nat)
  | refAnswer (p group : Nat) (requestId : BitVec 64) (chunk : Nat) (claim : Bool)
  | indexSyncReq (group offset length : Nat)
  | indexSync (group : Nat) (holder : Bool) (offset total : Nat) (img : Option GroupImage) (bytes : Bytes)
  | stripeThin (stripe old new lead : Nat) (dead : List (Nat × List Nat))
  | thinData (fragId gen : Nat) (units : List (Nat × Bytes))
  | thinAck (fragId gen : Nat) (r : ThinRes)
  | thinCommit (stripe gen : Nat) (commit : Bool)
  | replLink (r : ReplLink)
  | linkForward (h : MHead) (r : ReplLink)
  | replOffer (p : Nat) (last : Bool) (keyspace : BitVec 32) (sourceCast seq : Nat) (keys : List OfferKey)
  | replNeed (p sourceCast seq : Nat) (fps : List Bytes)
  | replChunk (p sourceCast plain : Nat) (codec : Codec) (fp iv sealed : Bytes)
  | replStaged (p sourceCast seq : Nat) (all : Bool)
  deriving DecidableEq, Repr

/-- The HEARTBEAT, JOIN, STATE and ARM types (R206). -/
def onFlow0 : MortarBody → Bool
  | .heartbeat _ | .heartbeatReply _ | .joinRequest _ | .joinForward .. | .joinGrant _ | .removeNotice _ | .stateGet .. | .stateData ..
  | .epochNotice .. | .armAppend .. | .armAppendAck .. | .armVoteReq .. | .armVote .. => true
  | _ => false

/-- A chisel result (R345) with the code words that a read left in the buffer. -/
structure ChOut where
  result    : ChResult
  routine   : Routine
  good      : Nat
  crcBad    : Nat
  step      : Nat
  channel   : Nat
  die       : Nat
  suspends  : Nat
  cookie    : Nat
  detail    : Nat
  temp      : Int
  us        : Nat
  corrected : Nat
  data      : List (Option Cw)
  deriving DecidableEq, Repr

/-- A UDP datagram that carries a Mortar packet (R206, R207): over IPv4 or IPv6, the peer's address, the ports, the ECN field of the IP
header, its DSCP, and the packet. -/
structure Datagram where
  v4      : Bool
  addr    : BitVec 128
  srcPort : Nat
  dstPort : Nat
  ecn     : Nat
  dscp    : Nat
  bytes   : Bytes
  deriving DecidableEq, Repr

/-- One thing the brick has put out. -/
inductive Output where
  /-- A message handed to the transport of a Relief queue (R85, R93). -/
  | toClient (w : Wy) (q : Nat) (m : BusMsg)
  /-- The transport's invalid-request NAK (R39, R40). -/
  | nak (w : Wy) (q : Nat)
  /-- A RoCEv2 connection closed by the brick (R51, R95). -/
  | disconnect (w : Wy) (q : Nat)
  /-- An RDMA READ or DMA read that pulls payload bytes (R41). -/
  | pull (w : Wy) (q : Nat) (cmd entry addr rkey len : Nat)
  /-- An RDMA WRITE or DMA write of result bytes into the client buffer (R41). -/
  | place (w : Wy) (q : Nat) (addr rkey : Nat) (data : Bytes)
  /-- A DMA write of a completion ring entry or of a status record (R414, R415). -/
  | hostWrite (w : Wy) (addr : Nat) (data : Bytes)
  /-- An MSI-X message (R408, R414). -/
  | msix (w : Wy) (vector : Nat)
  /-- The value a register read returns to its source (R401). -/
  | readData (src : AccSrc) (value : Nat)
  /-- A Mortar message to a wythe of a brick, handed to the transport (R206). -/
  | mortar (w : Wy) (dst : Nat) (dstW : Wy) (b : MortarBody)
  /-- A Mortar acknowledgement (R210): ACK, SACK, CE_ECHO and RESYNC. -/
  | mortarAck (w : Wy) (dst : Nat) (dstW : Wy) (flow ack sack : Nat) (ce resync : Bool)
  /-- A Mortar packet on the wire (R206, R207). -/
  | datagram (w : Wy) (d : Datagram)
  /-- A chisel result returned to its issuer (R344, R345). -/
  | chisel (w : Wy) (r : ChOut)
  /-- A response of the buffer pool manager (R362). -/
  | bpm (w : Wy) (requester result handle cookie : Nat)
  /-- A frame's transmit completion (R378, R391): its cookie, TS_LOST and UNDERRUN. -/
  | txDone (w : Wy) (port cookie : Nat) (tsLost underrun : Bool)
  /-- A frame starts on the wire (R384, R386): the PCP of its priority tag under PFC, and the DSCP and ECN field of an IP packet. -/
  | frame (w : Wy) (port cookie : Nat) (tag : Option Nat) (mark : Option (Nat × Nat))
  /-- A PFC frame for one priority (R384). -/
  | pfc (w : Wy) (port prio quanta : Nat)
  /-- An LLDP frame's Clause 79 TLV (R381): Receive Tw_sys_rx asked for and Transmit Tw_sys_tx answered, in µs. -/
  | lldp (w : Wy) (port rx tx : Nat)
  /-- A CNP to the source of a packet that carried CE (R388). -/
  | cnp (w : Wy) (q : Nat)
  /-- A connection request answered (R387): the queue opened with its path MTU, or a rejection. -/
  | cmReply (w : Wy) (port : Nat) (queue : Option (Nat × Nat))
  /-- A packet of a connection is sent again (R387). -/
  | resend (w : Wy) (q : Nat)
  /-- A rising 1PPS edge, high for some milliseconds (R392). -/
  | pps (w : Wy) (width : Nat)
  /-- The answer of a Plinth ROM routine (R427): result, retry step, bits corrected, data. -/
  | plinthFlash (result step corrected : Nat) (data : Bytes)
  /-- The answer to a command of a service session: accepted, or refused (R5, R462). -/
  | service (session : Nat) (ok : Bool)
  /-- A service session is refused or closed by the brick (R461, R462). -/
  | sessionEnd (session : Nat)
  /-- An SMBus answer of a connector half (R527). -/
  | smbus (h : Half) (data : Bytes)
  /-- A change that this brick hands to the armature leader for a service session (R507); the spec gives its message no bytes. -/
  | armForward (change : ArmChange)
  deriving DecidableEq, Repr

end Sys2Proof.Machine
end

