-- ==== Sys2Proof/Machine/Table.lean ====
section
/-! DEFINITION. Sparse tables: lists of pairs (key, value), strictly rising in a `Nat` key. The register file, the Plinth
flash and every store addressed by a number use them, so that equal contents are equal data. -/

namespace Sys2Proof.Machine

/-- A sparse table keyed by a number. -/
abbrev Table (α : Type) := List (Nat × α)

/-- The value stored under a key, if any. -/
def tableGet? {α : Type} (t : Table α) (k : Nat) : Option α :=
  match t with
  | [] => none
  | (j, a) :: rest => if j = k then some a else tableGet? rest k

/-- Store a value under a key, keeping the keys strictly rising. -/
def tablePut {α : Type} (t : Table α) (k : Nat) (a : α) : Table α :=
  match t with
  | [] => [(k, a)]
  | (j, b) :: rest =>
    if k < j then (k, a) :: (j, b) :: rest
    else if k = j then (k, a) :: rest
    else (j, b) :: tablePut rest k a

/-- Remove the entry of a key. -/
def tableDel {α : Type} (t : Table α) (k : Nat) : Table α :=
  t.filter (fun e => e.1 ≠ k)

/-- The canonical form: keys strictly rising. -/
def tableWf {α : Type} (t : Table α) : Bool :=
  match t with
  | [] => true
  | [_] => true
  | (j, _) :: (k, b) :: rest => decide (j < k) && tableWf ((k, b) :: rest)

/-- Replace the first element that satisfies `p`. -/
def updFirst {α : Type} (p : α → Bool) (f : α → α) : List α → List α
  | [] => []
  | a :: rest => if p a then f a :: rest else a :: updFirst p f rest

/-- Apply `f` to every element that satisfies `p`. -/
def updAll {α : Type} (p : α → Bool) (f : α → α) (l : List α) : List α :=
  l.map (fun a => if p a then f a else a)

/-- Replace the element that satisfies `p`, or append a new one. -/
def upsert {α : Type} (p : α → Bool) (f : α → α) (new : α) (l : List α) : List α :=
  if l.any p then updFirst p f l else l ++ [new]

/-- Set element `i` of a list, extending nothing. -/
def setAt {α : Type} (l : List α) (i : Nat) (a : α) : List α :=
  l.set i a

end Sys2Proof.Machine
end

