-- ==== Sys2Proof/Machine/Bodies.lean ====
section
/-! DEFINITION. The bytes of what Mortar carries: the state objects that the spec lays out (R55-R57, R215), recipes (R156), the state image of
a group (R255, R278), the bodies of the messages (R214, R252, R278) and the packet header (R207). -/

namespace Sys2Proof.Machine

/-! ### The partition map (R55-R57) -/

/-- TOTAL_LEN of the map (R55). -/
def mapLen (m : PartMap) : Nat := 786496 + 144 * m.bricks.length

/-- An entry of the partition table (R56). -/
def mapEntry (e : PartEntry) : Bytes :=
  beBytes 2 e.home ++ beBytes 2 e.standby1 ++ beBytes 2 e.standby2 ++ beBytes 2 (b2n e.moving) ++ beBytes 4 e.epoch

/-- The entry of a partition; an unlisted partition stands as zeros. -/
def partBytes (m : PartMap) (p : Nat) : Bytes := ((tableGet? m.parts p).map mapEntry).getD (zeroBytes 12)

/-- Four addresses of 16 bytes. -/
def addrBytes (l : List (BitVec 128)) : Bytes := padTo 64 (l.flatMap (fun a => beBytes 16 a.toNat))

/-- An entry of the brick table (R57). -/
def brickBytes (b : MapBrick) : Bytes :=
  beBytes 2 b.id ++ beBytes 1 b.state ++ beBytes 1 b.ports ++ beBytes 1 b.cover ++ zeroBytes 11 ++ addrBytes b.addrs0
    ++ addrBytes b.addrs1

/-- The map header with a given CRC field (R55). -/
def mapHeader (m : PartMap) (crc : Nat) : Bytes :=
  beBytes 4 0x474C504D ++ beBytes 2 1 ++ zeroBytes 2 ++ beBytes 4 m.version ++ beBytes 4 m.epoch ++ beBytes 4 65536
    ++ beBytes 4 m.bricks.length ++ beBytes 4 64 ++ beBytes 4 786496 ++ beBytes 4 (mapLen m) ++ beBytes 4 crc
    ++ zeroBytes 24

/-- The map after its header. -/
def mapBody (m : PartMap) : Bytes :=
  (List.range 65536).flatMap (partBytes m) ++ m.bricks.flatMap brickBytes

/-- The whole map, its CRC-32C computed with the CRC field taken as zero (R55). -/
def mapBytes (m : PartMap) : Bytes :=
  let body := mapBody m
  mapHeader m (crc32c (mapHeader m 0 ++ body)).toNat ++ body

/-! ### The bond table (R215) -/

/-- A 16-bit brick id of a list, 0xFFFF for none. -/
def idAt (l : List Nat) (i : Nat) : Nat := (l[i]?).getD 0xFFFF

/-- Brick ids of 16 bits each, `n` of them. -/
def idList (n : Nat) (l : List Nat) : Bytes := (List.range n).flatMap (fun i => beBytes 2 (idAt l i))

/-- A row of the bond table in bytes (R215). -/
def rowBytes (r : BondRow) : Bytes := idList 36 r.pos ++ idList 2 r.spill ++ zeroBytes 4

/-- The header of the bond table with a given CRC field (R215, R217). -/
def bondHeader (ws : WallSettings) (b : BondTable) (crc : Nat) : Bytes :=
  beBytes 4 0x474C4254 ++ beBytes 2 1 ++ zeroBytes 2 ++ beBytes 4 b.version ++ beBytes 4 b.epoch ++ beBytes 4 ws.groups
    ++ beBytes 1 ws.k ++ beBytes 1 ws.m ++ beBytes 1 2 ++ zeroBytes 1 ++ beBytes 4 ws.fragBytes ++ beBytes 4 ws.codeTable
    ++ beBytes 2 b.encCap ++ beBytes 2 b.rackCap
    ++ beBytes 1 (b2n (decide (b.encCap ≤ ws.m)) + 2 * b2n (decide (b.rackCap ≤ ws.m))) ++ zeroBytes 3
    ++ beBytes 4 (64 + 80 * ws.groups) ++ beBytes 4 crc ++ zeroBytes 16

/-- The bond table in bytes, with its CRC-32C (R215); a row not held stands as no brick. -/
def bondBytes (ws : WallSettings) (b : BondTable) : Bytes :=
  let rows := (List.range ws.groups).flatMap (fun g => rowBytes ((tableGet? b.rows g).getD { pos := [], spill := [] }))
  bondHeader ws b (crc32c (bondHeader ws b 0 ++ rows)).toNat ++ rows

/-! ### Recipes and key-index records (R156) -/

/-- The codec byte (R145, R156, R278). -/
def codecNum : Codec → Nat
  | .stored => 0 | .zstd => 1 | .deflate => 2

/-- A chunk entry of a recipe (R156). -/
def chunkEntry (e : RecipeEntry) : Bytes :=
  padTo 32 e.fp ++ leBytes 8 e.place.fragId ++ leBytes 4 e.place.offset ++ leBytes 4 e.place.length ++ leBytes 8 e.start
    ++ leBytes 4 e.plain ++ leBytes 1 (codecNum e.codec) ++ zeroBytes 1 ++ leBytes 2 e.place.keyVersion

/-- A hole entry of a recipe (R156). -/
def holeEntry (h : Nat × Nat) : Bytes := leBytes 8 h.1 ++ leBytes 8 h.2

/-- The header of a recipe (R156). -/
def recipeHeader (len chunks holes segments : Nat) : Bytes :=
  leBytes 8 len ++ leBytes 4 chunks ++ leBytes 4 holes ++ leBytes 4 segments ++ zeroBytes 12

/-- A recipe whole: its header, the chunk entries in value order and the hole entries (R156). -/
def recipeBytes (len : Nat) (chunks : List RecipeEntry) (holes : List (Nat × Nat)) (segments : Nat) : Bytes :=
  recipeHeader len chunks.length holes.length segments ++ chunks.flatMap chunkEntry ++ holes.flatMap holeEntry

/-- What a key-index record holds of one version: the recipe, of which the first segment carries the header (log 229), or the inline value as
an IV, the ciphertext and a tag (R147, R156). -/
def verBytes (r : IdxRec) (total : Nat) (v : ValueVer) : Bytes :=
  match v.inlined with
  | some b => padTo 12 v.inlineIv ++ b ++ padTo 16 v.inlineTag
  | none =>
    (if r.segment = 0 then recipeHeader v.length total v.holes.length r.segments else [])
      ++ v.chunks.flatMap chunkEntry ++ v.holes.flatMap holeEntry

/-- The bytes of a key-index record that the spec gives: its keys with their recipes or inline values; it gives the rest of the record no
form (log 18). -/
def recordBytes (r : IdxRec) : Bytes :=
  (match r.staged with | some t => beBytes 4 t.sourceCast ++ beBytes 4 t.offer | none => [])
    ++ r.adds.zipIdx.flatMap (fun x => x.1.1 ++ verBytes r (r.counts.getD x.2 0) x.1.2)

/-- The length of those bytes. -/
def recLen (r : IdxRec) : Nat :=
  r.adds.foldl (fun a x => a + x.1.length + (match x.2.inlined with
    | some b => 28 + b.length
    | none => (if r.segment = 0 then 32 else 0) + 64 * x.2.chunks.length + 16 * x.2.holes.length)) (if r.staged.isSome then 8 else 0)

/-- A key-index record as INDEX_PUT bytes 8 onwards and PART_RECORDS carry it (R214). -/
def placedRecord (closed : Nat) (r : IdxRec) : Bytes :=
  beBytes 8 r.version ++ beBytes 8 closed ++ beBytes 4 (recLen r) ++ recordBytes r

/-! ### The state image of a group (R255, R278) -/

/-- An entry of the fingerprint index (R255), with its pending references counted. -/
def indexEntry (i : GroupImage) (e : FpEntry) : Bytes :=
  let b := padTo 32 e.fp ++ leBytes 8 e.place.fragId ++ leBytes 4 e.place.offset ++ leBytes 4 e.place.length ++ leBytes 2 e.place.keyVersion
    ++ leBytes 2 (b2n e.pinned) ++ leBytes 4 e.count ++ leBytes 4 (i.pend.filter (fun p => p.fp = e.fp)).length
  b ++ leBytes 4 (crc32c b).toNat

/-- A pending reference (R278). -/
def pendEntry (p : PendRef) : Bytes :=
  leBytes 2 p.home ++ zeroBytes 2 ++ leBytes 2 p.p ++ zeroBytes 2 ++ leBytes 8 p.requestId.toNat ++ leBytes 4 p.chunk ++ zeroBytes 4
    ++ leBytes 8 p.created ++ padTo 32 p.fp

/-- An entry of the applied-delta log or of the low-water marks (R278). -/
def logEntry (e : Nat × Nat) : Bytes := leBytes 2 e.1 ++ zeroBytes 6 ++ leBytes 8 e.2

/-- A stripe entry (R278). -/
def deadEntry (d : DeadEntry) : Bytes := leBytes 8 d.stripe ++ leBytes 4 d.dead ++ leBytes 1 (b2n d.thinning) ++ zeroBytes 3

/-- The state image of a group, little-endian (R278). -/
def imageBytes (i : GroupImage) : Bytes :=
  leBytes 4 i.index.length ++ leBytes 4 i.pend.length ++ leBytes 4 i.log.length ++ leBytes 4 i.lwm.length ++ leBytes 4 i.dead.length
    ++ zeroBytes 12 ++ i.index.flatMap (indexEntry i) ++ i.pend.flatMap pendEntry ++ i.log.flatMap logEntry ++ i.lwm.flatMap logEntry
    ++ i.dead.flatMap deadEntry

/-- The length of a state image in bytes (R278). -/
def imageLen (i : GroupImage) : Nat :=
  32 + 64 * i.index.length + 64 * i.pend.length + 16 * i.log.length + 16 * i.lwm.length + 16 * i.dead.length

/-! ### Bodies of the wall's messages (R214) -/

/-- A number of flags as bits, the first lowest. -/
def flagBits : List Bool → Nat
  | [] => 0
  | b :: l => b2n b + 2 * flagBits l

/-- The HEARTBEAT body (R214). -/
def hbBytes (b : HbBody) : Bytes :=
  beBytes 8 b.seq ++ beBytes 4 b.bondVersion ++ beBytes 4 b.mapVersion ++ beBytes 8 b.closed0 ++ beBytes 8 b.closed1
    ++ beBytes 1 (flagBits [b.running0, b.running1] + 4 * b.cover) ++ beBytes 1 (flagBits [b.inSync0, b.inSync1])
    ++ beBytes 1 (flagBits [b.ready, b.full, b.replace, b.removeReady, b.stopping]) ++ zeroBytes 1 ++ beBytes 4 b.freeGiB
    ++ beBytes 1 (b2n b.passEnd) ++ zeroBytes 3 ++ beBytes 4 b.counts.length
    ++ b.counts.flatMap (fun c => beBytes 4 c.keyspace.toNat ++ beBytes 2 c.ver ++ zeroBytes 2 ++ beBytes 8 c.count)

/-- The HEARTBEAT_REPLY body (R214). -/
def hbReplyBytes (b : HbReply) : Bytes :=
  beBytes 8 b.seq ++ beBytes 4 b.term ++ beBytes 1 (if b.leader then 1 else 2) ++ beBytes 1 (b2n b.notMember) ++ zeroBytes 2
    ++ beBytes 4 b.epoch ++ beBytes 4 b.bondVersion ++ beBytes 4 b.mapVersion ++ beBytes 4 b.castVersion ++ beBytes 8 b.wallClosed
    ++ zeroBytes 8

/-- The bytes of a JOIN_REQUEST (R214). -/
def joinReqBytes (r : JoinReq) : Bytes :=
  beBytes 8 r.wallId ++ beBytes 2 r.prevId ++ beBytes 2 r.ivDomain.toNat ++ beBytes 1 (b2n r.hasResv) ++ zeroBytes 3
    ++ beBytes 2 r.enclosure ++ beBytes 2 r.rack ++ padTo 16 r.serial ++ padTo 97 r.ephemeral ++ zeroBytes 3 ++ beBytes 2 r.cert.length
    ++ r.cert

/-- The result byte of a JOIN_GRANT (R214). -/
def joinResultNum : JoinResult → Nat
  | .granted => 0 | .notAdmitted => 1 | .compat => 2 | .wallFull => 3 | .domainsFull => 4 | .wrongWall => 5

/-- Bytes 0-155 of a JOIN_GRANT, which its signature covers with the request (R214). -/
def grantBody (g : JoinGrant) : Bytes :=
  beBytes 1 (joinResultNum g.result) ++ beBytes 1 (b2n g.substitute) ++ beBytes 2 g.id ++ beBytes 4 g.epoch ++ beBytes 2 g.ivDomain.toNat
    ++ zeroBytes 6 ++ padTo 97 g.ephemeral ++ padTo 40 g.wrappedKey ++ zeroBytes 3

/-- The JOIN_GRANT body; a refused one carries only its result (R214). -/
def grantBytes (g : JoinGrant) : Bytes :=
  if g.result = .granted then grantBody g ++ padTo 96 g.signature ++ beBytes 2 g.cert.length ++ g.cert else beBytes 1 (joinResultNum g.result)

/-- The REMOVE_NOTICE body (R214). -/
def removeBytes : RemoveKind → Bytes
  | .remove => beBytes 1 1 ++ zeroBytes 7
  | .removeReturn n => beBytes 1 2 ++ zeroBytes 3 ++ beBytes 4 n
  | .cancel => beBytes 1 3 ++ zeroBytes 7

/-- The number of a state object (R214). -/
def objNum : StateObj → Nat
  | .map => 1 | .bond => 2 | .casts => 3 | .settings => 4

/-- The new bytes of the state object that an armature entry changes (R197, R214): rows of the bond table; of the other objects and changes
the spec gives no bytes (log 19). -/
def changeBytes : ArmChange → Bytes
  | .bondRows rows => rows.flatMap (fun r => rowBytes r.2)
  | _ => []

/-- An entry of ARM_APPEND (R214); the spec numbers no types. -/
def armEntry (e : LogEntry) : Bytes :=
  beBytes 8 e.index ++ beBytes 4 e.term ++ [Config.changeType e.change] ++ zeroBytes 3 ++ beBytes 4 (changeBytes e.change).length
    ++ changeBytes e.change

/-- A partition and the partition epoch, which begin the messages of the replica sets (R214). -/
def partHead (p epoch : Nat) : Bytes := beBytes 2 p ++ zeroBytes 2 ++ beBytes 4 epoch

/-! ### Bodies of the stripe messages (R252) -/

/-- The bytes of a codeless enumeration (R252). -/
def ackNum : AckResult → Nat
  | .new => 0 | .duplicate => 1 | .full => 2 | .notLead => 3

@[inherit_doc ackNum] def jackNum : JAck → Nat
  | .placed => 0 | .notJournal => 1 | .sealHeld => 2 | .digestMismatch => 3

@[inherit_doc ackNum] def fackNum : FAck → Nat
  | .done => 0 | .full => 1 | .staleGen => 2 | .notTarget => 3

@[inherit_doc ackNum] def fkindNum : FKind → Nat
  | .seal => 0 | .rebuild => 1 | .move => 2

@[inherit_doc ackNum] def rstatusNum : RStatus → Nat
  | .ok => 0 | .notHeld => 1 | .uncorrectable => 2

@[inherit_doc ackNum] def purposeNum : Purpose → Nat
  | .client => 0 | .repair => 1 | .rebuild => 2 | .verify => 3

@[inherit_doc ackNum] def stripeStNum : StripeSt → Nat
  | .opened => 0 | .sealing => 1 | .sealed => 2

/-- The FRAG_PUT body (R252). -/
def fragPutBytes (h : FragHead) (b : Bytes) : Bytes :=
  beBytes 8 h.fragId ++ beBytes 4 h.gen ++ beBytes 4 h.fill ++ padTo 32 h.digest ++ idList 36 h.targets ++ beBytes 2 h.lead
    ++ beBytes 1 (fkindNum h.kind) ++ zeroBytes 1 ++ beBytes 4 h.crc.toNat ++ b

/-- An entry of a STRIPE_LIST (R252). -/
def listEntryBytes (e : ListEntry) : Bytes :=
  beBytes 8 e.stripe ++ beBytes 4 e.gen ++ beBytes 2 e.holder ++ beBytes 1 e.exposure ++ beBytes 1 (flagBits [e.held, e.missing])

/-- The JOURNAL_STATE body (R252). -/
def journalStateBytes (j : JState) : Bytes :=
  beBytes 8 j.stripe ++ beBytes 4 j.fill ++ beBytes 4 j.recs.length ++ padTo 32 j.digest ++ beBytes 2 j.lead ++ idList 2 j.journal
    ++ beBytes 1 (stripeStNum j.st) ++ zeroBytes 1 ++ beBytes 4 j.gen ++ zeroBytes 4
    ++ j.recs.flatMap (fun e => beBytes 4 e.1 ++ beBytes 4 e.2)

/-! ### Bodies of the reference and replication messages (R278) -/

/-- The kind of a delta entry (R257). -/
def deltaNum : DeltaKind → Nat
  | .confirm => 1 | .add => 2 | .sub => 3 | .cancel => 4 | .probe => 5

/-- An entry of a REF_DELTA (R278). -/
def deltaBytes (e : DeltaEntry) : Bytes :=
  padTo 32 e.fp ++ beBytes 1 (deltaNum e.kind) ++ zeroBytes 3 ++ beBytes 4 e.chunk ++ beBytes 8 e.requestId.toNat ++ beBytes 8 e.fragId

/-- A bitmap of `n` bytes with bit `u` set for each number listed. As a big-endian field (R7) its bit 0 is the lowest bit of its last byte
(DEDUCED, log 232). -/
def bitmap (n : Nat) (l : List Nat) : Bytes :=
  (List.range n).map (fun i => BitVec.ofNat 8 (flagBits ((List.range 8).map (fun j => l.contains (8 * (n - 1 - i) + j)))))

@[inherit_doc ackNum] def refNum : RefRes → Nat
  | .applied => 0 | .notLead => 1 | .notReady => 2

@[inherit_doc ackNum] def thinNum : ThinRes → Nat
  | .ready => 0 | .aborted => 1 | .committed => 2

/-- The kind of a REPL_LINK (R278). -/
def linkNum : LinkKind → Nat
  | .linkOffer => 1 | .linkAccept => 2 | .castBegin => 3 | .castApplied => 4 | .linkRefused => 5

/-- Bytes 0-39 of a REPL_LINK (R278). -/
def linkHead (r : ReplLink) : Bytes :=
  beBytes 1 (linkNum r.kind) ++ zeroBytes 3 ++ beBytes 4 r.keyspace.toNat ++ beBytes 8 r.sourceWall ++ beBytes 8 r.remoteWall
    ++ beBytes 4 r.sourceCast ++ beBytes 4 r.remoteCast ++ beBytes 8 r.castTime

/-- Bytes 0-139 of a LINK_OFFER or LINK_ACCEPT, which its signature covers (R278). -/
def linkSigned (r : ReplLink) : Bytes := linkHead r ++ padTo 97 r.ephemeral ++ zeroBytes 3

/-- A LINK_OFFER or a LINK_ACCEPT. -/
def isHello (k : LinkKind) : Bool := k = .linkOffer || k = .linkAccept

/-- The REPL_LINK body (R278). -/
def linkBytes (r : ReplLink) : Bytes :=
  if isHello r.kind then linkSigned r ++ padTo 96 r.signature ++ beBytes 2 r.cert.length ++ r.cert else linkHead r

/-- Bytes padded with zeros to a multiple of 8. -/
def pad8 (b : Bytes) : Bytes := b ++ zeroBytes (roundUp b.length 8 - b.length)

/-- A key entry of a REPL_OFFER (R278). -/
def offerBytes (k : OfferKey) : Bytes :=
  beBytes 2 k.key.length ++ beBytes 1 (b2n k.deletion) ++ zeroBytes 1 ++ beBytes 4 k.sealed.length ++ beBytes 8 k.version ++ beBytes 8 k.length
    ++ pad8 k.key ++ pad8 k.sealed ++ recipeBytes k.length k.recipe k.holes 1

/-- Bytes 0-19 of a REPL_CHUNK with `stored` bytes under the seal (R278). -/
def shipHead (p sourceCast plain stored : Nat) (codec : Codec) : Bytes :=
  beBytes 2 p ++ zeroBytes 2 ++ beBytes 4 sourceCast ++ beBytes 4 plain ++ beBytes 4 stored ++ beBytes 1 (codecNum codec) ++ zeroBytes 3

/-! ### Every message -/

/-- The TYPE of a message (R214, R252, R278). -/
def typeOf : MortarBody → Nat
  | .heartbeat _ => 0x01 | .heartbeatReply _ => 0x02 | .joinRequest _ => 0x03 | .joinForward .. => 0x03 | .joinGrant _ => 0x04
  | .removeNotice _ => 0x05 | .stateGet .. => 0x06 | .stateData .. => 0x07 | .epochNotice .. => 0x08
  | .armAppend .. => 0x09 | .armAppendAck .. => 0x0A | .armVoteReq .. => 0x0B | .armVote .. => 0x0C
  | .indexPut .. => 0x10 | .indexAck .. => 0x11 | .partCollect .. => 0x12 | .partRecords .. => 0x13 | .partHandover .. => 0x14
  | .closedTime .. => 0x15
  | .castRequest .. => 0x20 | .castAnnounce .. => 0x21 | .castConfirm .. => 0x22 | .castDone .. => 0x23 | .castDropReq .. => 0x24
  | .chunkPut .. => 0x30 | .chunkAck .. => 0x31 | .journalCopy .. => 0x32 | .journalAck .. => 0x33 | .stripeSeal .. => 0x34
  | .fragPut .. => 0x35 | .fragAck .. => 0x36 | .sealCommit .. => 0x37 | .rangeRead .. => 0x38 | .rangeData .. => 0x39
  | .stripeListReq .. => 0x3A | .stripeList .. => 0x3B | .journalStateReq .. => 0x3C | .journalState _ => 0x3D
  | .lostReport .. => 0x3E | .fragRelease .. => 0x3F
  | .refDelta .. => 0x40 | .refAck .. => 0x41 | .refQuery .. => 0x42 | .refAnswer .. => 0x43 | .indexSyncReq .. => 0x44
  | .indexSync .. => 0x45 | .stripeThin .. => 0x46 | .thinData .. => 0x47 | .thinAck .. => 0x48 | .thinCommit .. => 0x49
  | .replLink _ => 0x4A | .linkForward .. => 0x4A | .replOffer .. => 0x4B | .replNeed .. => 0x4C | .replChunk .. => 0x4D
  | .replStaged .. => 0x4E

/-- The bytes of a message body, of a brick with the id `me` (R214, R252, R278). -/
def bodyBytes (me : Nat) : MortarBody → Bytes
  | .heartbeat b => hbBytes b
  | .heartbeatReply b => hbReplyBytes b
  | .joinRequest r | .joinForward _ r => joinReqBytes r
  | .joinGrant g => grantBytes g
  | .removeNotice k => removeBytes k
  | .stateGet o v off n => beBytes 1 (objNum o) ++ zeroBytes 3 ++ beBytes 4 v ++ beBytes 4 off ++ beBytes 4 n
  | .stateData o st v off total b =>
    beBytes 1 (objNum o) ++ beBytes 1 st ++ zeroBytes 2 ++ beBytes 4 v ++ beBytes 4 off ++ beBytes 4 total ++ b
  | .epochNotice e m b => beBytes 4 e ++ beBytes 4 m ++ beBytes 4 b
  | .armAppend t l pi pt c es =>
    beBytes 4 t ++ beBytes 2 l ++ zeroBytes 2 ++ beBytes 8 pi ++ beBytes 4 pt ++ beBytes 4 es.length ++ beBytes 8 c ++ es.flatMap armEntry
  | .armAppendAck t ok m l =>
    beBytes 4 t ++ beBytes 1 (b2n ok) ++ zeroBytes 3 ++ beBytes 8 m ++ beBytes 2 l.length ++ l.flatMap (beBytes 2)
  | .armVoteReq t c li lt => beBytes 4 t ++ beBytes 2 c ++ zeroBytes 2 ++ beBytes 8 li ++ beBytes 4 lt
  | .armVote t g => beBytes 4 t ++ beBytes 1 (b2n g)
  | .indexPut p e c r => partHead p e ++ placedRecord c r
  | .indexAck p e v ok => partHead p e ++ beBytes 8 v ++ beBytes 1 (b2n (!ok))
  | .partCollect p e => partHead p e
  | .partRecords p e c l => partHead p e ++ beBytes 8 c ++ beBytes 4 l.length ++ l.flatMap (placedRecord c)
  | .partHandover p e h c => partHead p e ++ beBytes 8 h ++ beBytes 8 c
  | .closedTime p e c => partHead p e ++ beBytes 8 c
  | .castRequest ks t rid => beBytes 4 ks.toNat ++ zeroBytes 4 ++ beBytes 8 t ++ beBytes 8 rid.toNat
  | .castAnnounce i ks t => beBytes 4 i ++ beBytes 4 ks.toNat ++ beBytes 8 t
  | .castConfirm i h => beBytes 4 i ++ beBytes 1 (b2n (!h)) ++ zeroBytes 3
  | .castDone i st t rid => beBytes 4 i ++ beBytes 1 (statusNum st) ++ zeroBytes 3 ++ beBytes 8 t ++ beBytes 8 rid.toNat
  | .castDropReq i ks rid => beBytes 4 i ++ beBytes 4 ks.toNat ++ beBytes 8 rid.toNat
  | .chunkPut g p rid n r =>
    beBytes 2 g ++ beBytes 2 me ++ beBytes 2 p ++ zeroBytes 2 ++ beBytes 8 rid.toNat ++ beBytes 4 n ++ beBytes 4 r.length ++ r
  | .chunkAck g p a rid n x =>
    beBytes 2 g ++ zeroBytes 2 ++ beBytes 2 p ++ beBytes 1 (ackNum a) ++ zeroBytes 1 ++ beBytes 8 rid.toNat ++ beBytes 4 n
      ++ beBytes 8 x.fragId ++ beBytes 4 x.offset ++ beBytes 4 x.length ++ beBytes 2 x.keyVersion ++ zeroBytes 2
  | .journalCopy st off lead j r =>
    beBytes 8 st ++ beBytes 4 off ++ beBytes 4 r.length ++ beBytes 2 lead ++ idList 2 j ++ zeroBytes 2 ++ r
  | .journalAck st off a => beBytes 8 st ++ beBytes 4 off ++ beBytes 1 (jackNum a) ++ zeroBytes 3
  | .stripeSeal st fill n gen d lead t =>
    beBytes 8 st ++ beBytes 4 fill ++ beBytes 4 n ++ beBytes 4 gen ++ padTo 32 d ++ beBytes 2 lead ++ zeroBytes 2 ++ idList 36 t
  | .fragPut h b => fragPutBytes h b
  | .fragAck f gen a => beBytes 8 f ++ beBytes 4 gen ++ beBytes 1 (fackNum a) ++ zeroBytes 3
  | .sealCommit st gen => beBytes 8 st ++ beBytes 4 gen ++ zeroBytes 4
  | .rangeRead f off n pend pu ck =>
    beBytes 8 f ++ beBytes 4 off ++ beBytes 4 n ++ beBytes 1 (b2n pend) ++ beBytes 1 (purposeNum pu) ++ zeroBytes 6 ++ beBytes 8 ck
  | .rangeData f off n st hd ck b =>
    beBytes 8 f ++ beBytes 4 off ++ beBytes 4 n ++ beBytes 1 (rstatusNum st) ++ zeroBytes 1 ++ beBytes 2 hd ++ zeroBytes 4 ++ beBytes 8 ck ++ b
  | .stripeListReq g pos first mx => beBytes 2 g ++ beBytes 1 pos ++ zeroBytes 1 ++ beBytes 8 first ++ beBytes 4 mx
  | .stripeList g pos more l => beBytes 2 g ++ beBytes 1 pos ++ beBytes 1 (b2n more) ++ beBytes 4 l.length ++ l.flatMap listEntryBytes
  | .journalStateReq g st => beBytes 2 g ++ zeroBytes 6 ++ beBytes 8 st
  | .journalState j => journalStateBytes j
  | .lostReport st off n fps ro =>
    beBytes 8 st ++ beBytes 4 off ++ beBytes 4 n ++ beBytes 2 fps.length ++ beBytes 1 (b2n ro) ++ zeroBytes 5 ++ fps.flatMap (padTo 32)
  | .fragRelease f hd => beBytes 8 f ++ beBytes 2 hd ++ zeroBytes 6
  | .refDelta p hm g rc en sq lwm l =>
    beBytes 2 p ++ beBytes 2 hm ++ beBytes 2 g ++ beBytes 1 (flagBits [rc, en]) ++ zeroBytes 1 ++ beBytes 8 sq ++ beBytes 8 lwm
      ++ beBytes 4 l.length ++ zeroBytes 4 ++ l.flatMap deltaBytes
  | .refAck p g r sq miss found =>
    beBytes 2 p ++ zeroBytes 2 ++ beBytes 2 g ++ beBytes 1 (refNum r) ++ zeroBytes 1 ++ beBytes 8 sq ++ beBytes 2 miss ++ zeroBytes 2
      ++ bitmap 32 found
  | .refQuery p g rid n => beBytes 2 p ++ beBytes 2 g ++ zeroBytes 4 ++ beBytes 8 rid.toNat ++ beBytes 4 n
  | .refAnswer p g rid n c =>
    beBytes 2 p ++ beBytes 2 g ++ zeroBytes 4 ++ beBytes 8 rid.toNat ++ beBytes 4 n ++ beBytes 1 (b2n c) ++ zeroBytes 3
  | .indexSyncReq g off n => beBytes 2 g ++ zeroBytes 6 ++ beBytes 8 off ++ beBytes 4 n
  | .indexSync g hd off total _ b => beBytes 2 g ++ beBytes 1 (b2n (!hd)) ++ zeroBytes 5 ++ beBytes 8 off ++ beBytes 8 total ++ b
  | .stripeThin st old new lead l =>
    beBytes 8 st ++ beBytes 4 old ++ beBytes 4 new ++ beBytes 2 lead ++ zeroBytes 2 ++ beBytes 4 l.length
      ++ l.flatMap (fun e => beBytes 1 e.1 ++ zeroBytes 3 ++ bitmap 128 e.2)
  | .thinData f gen u =>
    beBytes 8 f ++ beBytes 4 gen ++ zeroBytes 4 ++ bitmap 128 (u.map (fun e => e.1)) ++ u.flatMap (fun e => padTo 4096 e.2)
  | .thinAck f gen r => beBytes 8 f ++ beBytes 4 gen ++ beBytes 1 (thinNum r) ++ zeroBytes 3
  | .thinCommit st gen c => beBytes 8 st ++ beBytes 4 gen ++ beBytes 1 (b2n (!c)) ++ zeroBytes 3
  | .replLink r | .linkForward _ r => linkBytes r
  | .replOffer p last ks sc sq l =>
    beBytes 2 p ++ beBytes 1 (b2n last) ++ zeroBytes 1 ++ beBytes 4 ks.toNat ++ beBytes 4 sc ++ beBytes 4 sq ++ beBytes 4 l.length
      ++ zeroBytes 4 ++ l.flatMap offerBytes
  | .replNeed p sc sq l => beBytes 2 p ++ zeroBytes 2 ++ beBytes 4 sc ++ beBytes 4 sq ++ beBytes 4 l.length ++ l.flatMap (padTo 32)
  | .replChunk p sc plain codec fp iv b => shipHead p sc plain (b.length - 16) codec ++ padTo 12 iv ++ padTo 32 fp ++ b
  | .replStaged p sc sq all =>
    beBytes 2 p ++ zeroBytes 2 ++ beBytes 4 sc ++ beBytes 4 sq ++ beBytes 1 (b2n all) ++ zeroBytes 3

/-- The length of a message body (R214, R252, R278): that of its bytes. -/
def bodyLen : MortarBody → Nat
  | .heartbeat b => 48 + 16 * b.counts.length
  | .heartbeatReply _ => 48
  | .joinRequest r | .joinForward _ r => 138 + r.cert.length
  | .joinGrant g => if g.result = .granted then 254 + g.cert.length else 1
  | .removeNotice _ => 8
  | .stateGet .. => 16
  | .stateData _ _ _ _ _ b => 16 + b.length
  | .epochNotice .. => 12
  | .armAppend _ _ _ _ _ e => 32 + (e.map (fun x => 20 + (changeBytes x.change).length)).sum
  | .armAppendAck _ _ _ l => 18 + 2 * l.length
  | .armVoteReq .. => 20
  | .armVote .. => 5
  | .indexPut _ _ _ r => 28 + recLen r
  | .indexAck .. => 17
  | .partCollect .. => 8
  | .partRecords _ _ _ l => 20 + l.foldl (fun a r => a + 20 + recLen r) 0
  | .partHandover .. => 24
  | .closedTime .. => 16
  | .castRequest .. => 24
  | .castAnnounce .. => 16
  | .castConfirm .. => 8
  | .castDone .. => 24
  | .castDropReq .. => 16
  | .chunkPut _ _ _ _ r => 24 + r.length
  | .chunkAck .. => 40
  | .journalCopy _ _ _ _ r => 24 + r.length
  | .journalAck .. => 16
  | .stripeSeal .. => 128
  | .fragPut _ b => 128 + b.length
  | .fragAck .. => 16
  | .sealCommit .. => 16
  | .rangeRead .. => 32
  | .rangeData _ _ _ _ _ _ b => 32 + b.length
  | .stripeListReq .. => 16
  | .stripeList _ _ _ e => 8 + 16 * e.length
  | .journalStateReq .. => 16
  | .journalState j => 64 + 8 * j.recs.length
  | .lostReport _ _ _ f _ => 24 + 32 * f.length
  | .fragRelease .. => 16
  | .refDelta _ _ _ _ _ _ _ e => 32 + 56 * e.length
  | .refAck .. => 52
  | .refQuery .. => 20
  | .refAnswer .. => 24
  | .indexSyncReq .. => 20
  | .indexSync _ _ _ _ _ b => 24 + b.length
  | .stripeThin _ _ _ _ d => 24 + 132 * d.length
  | .thinData _ _ u => 144 + 4096 * u.length
  | .thinAck .. => 16
  | .thinCommit .. => 16
  | .replLink r | .linkForward _ r => if isHello r.kind then 238 + r.cert.length else 40
  | .replOffer _ _ _ _ _ k => 24 + k.foldl (fun a e => a + 24 + roundUp e.key.length 8 + roundUp e.sealed.length 8
      + 32 + 64 * e.recipe.length + 16 * e.holes.length) 0
  | .replNeed _ _ _ f => 16 + 32 * f.length
  | .replChunk _ _ _ _ _ _ b => 64 + b.length
  | .replStaged .. => 16

/-! ### Packets (R207) -/

/-- A Mortar header with the fields of R207 but MAGIC and VERSION, which are constant, and CRC. -/
structure PktHead where
  typ    : Nat
  flags  : Nat
  compat : Nat
  src    : Nat
  dst    : Nat
  srcW   : Nat
  dstW   : Nat
  flow   : Nat
  epoch  : Nat
  seq    : Nat
  ack    : Nat
  sack   : Nat
  hlc    : Nat
  msgId  : Nat
  msgLen : Nat
  inc    : Nat
  off    : Nat
  segLen : Nat
  credit : Nat
  deriving DecidableEq, Repr

/-- The 64 bytes of a header with a given CRC field (R207). -/
def headBytes (h : PktHead) (crc : Nat) : Bytes :=
  beBytes 2 0x4D52 ++ beBytes 1 1 ++ beBytes 1 h.typ ++ beBytes 2 h.flags ++ beBytes 2 h.compat ++ beBytes 2 h.src ++ beBytes 2 h.dst
    ++ beBytes 1 h.srcW ++ beBytes 1 h.dstW ++ beBytes 2 h.flow ++ beBytes 4 h.epoch ++ beBytes 4 h.seq ++ beBytes 4 h.ack
    ++ beBytes 4 h.sack ++ beBytes 8 h.hlc ++ beBytes 4 h.msgId ++ beBytes 4 h.msgLen ++ beBytes 4 h.inc ++ beBytes 4 h.off
    ++ beBytes 2 h.segLen ++ beBytes 2 h.credit ++ beBytes 4 crc

/-- A packet: its header, with the CRC-32C over header and segment, this field taken as zero, and the segment (R207). -/
def packetBytes (h : PktHead) (seg : Bytes) : Bytes := headBytes h (crc32c (headBytes h 0 ++ seg)).toNat ++ seg

/-- The number that `n` bytes from an offset hold, big-endian. -/
def beAt (b : Bytes) (off n : Nat) : Nat := ofBe (sliceBytes b off n)

/-- The header that a packet's bytes hold (R207). -/
def headOf (b : Bytes) : PktHead :=
  { typ := beAt b 3 1, flags := beAt b 4 2, compat := beAt b 6 2, src := beAt b 8 2, dst := beAt b 10 2, srcW := beAt b 12 1,
    dstW := beAt b 13 1, flow := beAt b 14 2, epoch := beAt b 16 4, seq := beAt b 20 4, ack := beAt b 24 4, sack := beAt b 28 4,
    hlc := beAt b 32 8, msgId := beAt b 40 4, msgLen := beAt b 44 4, inc := beAt b 48 4, off := beAt b 52 4, segLen := beAt b 56 2,
    credit := beAt b 58 2 }

/-- A packet has a wrong MAGIC or VERSION, or a SEG_LEN beyond it (R208). -/
def badForm (b : Bytes) : Bool :=
  decide (b.length < 64) || decide (beAt b 0 2 ≠ 0x4D52) || decide (beAt b 2 1 ≠ 1) || decide (b.length < 64 + (headOf b).segLen)

/-- A packet's CRC is wrong (R207, R208). -/
def badSum (b : Bytes) : Bool :=
  decide ((crc32c (sliceBytes b 0 60 ++ zeroBytes 4 ++ sliceBytes b 64 (headOf b).segLen)).toNat ≠ beAt b 60 4)

end Sys2Proof.Machine
end

