-- ==== Sys2Proof/Machine/RegNames.lean ====
section
/-! DEFINITION. The names of the registers (offsets within their pages) and of the event bits of EVT_STATUS, as the page maps
of the spec give them. -/

namespace Sys2Proof.Machine

/-! ### BPM registers -/
/-- BPM_STATUS (13 R369). -/
abbrev BPM_STATUS : Nat := 0x100
/-- BPM_CTRL (13 R369). -/
abbrev BPM_CTRL : Nat := 0x104
/-- BPM_RR_PTR (13 R369). -/
abbrev BPM_RR_PTR : Nat := 0x108
/-- BPM_WAITING (13 R369). -/
abbrev BPM_WAITING : Nat := 0x10C
/-- BPM_BUF_SEL (13 R369). -/
abbrev BPM_BUF_SEL : Nat := 0x110
/-- BPM_BUF_IDX (13 R369). -/
abbrev BPM_BUF_IDX : Nat := 0x114
/-- BPM_BUF_INFO (13 R369). -/
abbrev BPM_BUF_INFO : Nat := 0x118
/-- BPM_CNT_ALLOC (13 R369). -/
abbrev BPM_CNT_ALLOC : Nat := 0x1A0
/-- BPM_CNT_NO_BUFFER (13 R369). -/
abbrev BPM_CNT_NO_BUFFER : Nat := 0x1A4
/-- BPM_CNT_FALLBACK (13 R369). -/
abbrev BPM_CNT_FALLBACK : Nat := 0x1A8
/-- BPM_CNT_WAIT (13 R369). -/
abbrev BPM_CNT_WAIT : Nat := 0x1AC
/-- BPM_CNT_RESERVE_USE (13 R369). -/
abbrev BPM_CNT_RESERVE_USE : Nat := 0x1B0
/-- BPM_CNT_DOUBLE_FREE (13 R369). -/
abbrev BPM_CNT_DOUBLE_FREE : Nat := 0x1B4
/-- BPM_CNT_NOT_OWNER (13 R369). -/
abbrev BPM_CNT_NOT_OWNER : Nat := 0x1B8
/-- BPM_CNT_STALE (13 R369). -/
abbrev BPM_CNT_STALE : Nat := 0x1BC
/-- BPM_CNT_CONTEND (13 R369). -/
abbrev BPM_CNT_CONTEND : Nat := 0x1C0

/-! ### CHN registers -/
/-- CHN_OWNER (12 R356). -/
abbrev CHN_OWNER : Nat := 0x100
/-- CHN_OWN_CTRL (12 R356). -/
abbrev CHN_OWN_CTRL : Nat := 0x104
/-- CHN_STATE (12 R356). -/
abbrev CHN_STATE : Nat := 0x108
/-- CHN_SUSPEND_CTRL (12 R356). -/
abbrev CHN_SUSPEND_CTRL : Nat := 0x10C
/-- CHN_DIE_SEL (12 R356). -/
abbrev CHN_DIE_SEL : Nat := 0x110
/-- CHN_DIE_STATUS (12 R356). -/
abbrev CHN_DIE_STATUS : Nat := 0x114
/-- CHN_QUEUE (12 R356). -/
abbrev CHN_QUEUE : Nat := 0x118
/-- CHN_CNT_READ (12 R356). -/
abbrev CHN_CNT_READ : Nat := 0x120
/-- CHN_CNT_PROG (12 R356). -/
abbrev CHN_CNT_PROG : Nat := 0x124
/-- CHN_CNT_ERASE (12 R356). -/
abbrev CHN_CNT_ERASE : Nat := 0x128
/-- CHN_CNT_RETRY (12 R356). -/
abbrev CHN_CNT_RETRY : Nat := 0x12C
/-- CHN_CNT_UNCORR (12 R356). -/
abbrev CHN_CNT_UNCORR : Nat := 0x130
/-- CHN_CNT_PNE (12 R356). -/
abbrev CHN_CNT_PNE : Nat := 0x134
/-- CHN_CNT_PROG_FAIL (12 R356). -/
abbrev CHN_CNT_PROG_FAIL : Nat := 0x138
/-- CHN_CNT_ERASE_FAIL (12 R356). -/
abbrev CHN_CNT_ERASE_FAIL : Nat := 0x13C
/-- CHN_CNT_SUSPEND (12 R356). -/
abbrev CHN_CNT_SUSPEND : Nat := 0x140
/-- CHN_CNT_TIMEOUT (12 R356). -/
abbrev CHN_CNT_TIMEOUT : Nat := 0x144
/-- CHN_CNT_BLANK_CHECK (12 R356). -/
abbrev CHN_CNT_BLANK_CHECK : Nat := 0x148
/-- CHN_CNT_INTENT_REFUSED (12 R356). -/
abbrev CHN_CNT_INTENT_REFUSED : Nat := 0x14C
/-- CHN_CNT_OWNER_CHANGE (12 R356). -/
abbrev CHN_CNT_OWNER_CHANGE : Nat := 0x150

/-! ### CIP registers -/
/-- CIP_STATUS (06 R189). -/
abbrev CIP_STATUS : Nat := 0x100
/-- CIP_IV_DOMAIN (06 R189). -/
abbrev CIP_IV_DOMAIN : Nat := 0x104
/-- CIP_SCHED_CTRL (06 R189). -/
abbrev CIP_SCHED_CTRL : Nat := 0x108
/-- CIP_KEY_CACHE (06 R189). -/
abbrev CIP_KEY_CACHE : Nat := 0x10C
/-- CIP_SLOT_SEL_KS (06 R189). -/
abbrev CIP_SLOT_SEL_KS : Nat := 0x110
/-- CIP_SLOT_SEL_VER (06 R189). -/
abbrev CIP_SLOT_SEL_VER : Nat := 0x114
/-- CIP_SLOT_INFO (06 R189). -/
abbrev CIP_SLOT_INFO : Nat := 0x118
/-- CIP_CTR_NEXT_LO (06 R189). -/
abbrev CIP_CTR_NEXT_LO : Nat := 0x11C
/-- CIP_CTR_NEXT_HI (06 R189). -/
abbrev CIP_CTR_NEXT_HI : Nat := 0x120
/-- CIP_RESV_THRU_LO (06 R189). -/
abbrev CIP_RESV_THRU_LO : Nat := 0x124
/-- CIP_RESV_THRU_HI (06 R189). -/
abbrev CIP_RESV_THRU_HI : Nat := 0x128
/-- CIP_SLOTS_CURRENT (06 R189). -/
abbrev CIP_SLOTS_CURRENT : Nat := 0x12C
/-- CIP_SLOTS_TOTAL (06 R189). -/
abbrev CIP_SLOTS_TOTAL : Nat := 0x130
/-- CIP_CTX_BUSY (06 R189). -/
abbrev CIP_CTX_BUSY : Nat := 0x134
/-- CIP_CNT_ENCRYPT (06 R189). -/
abbrev CIP_CNT_ENCRYPT : Nat := 0x140
/-- CIP_CNT_DECRYPT (06 R189). -/
abbrev CIP_CNT_DECRYPT : Nat := 0x144
/-- CIP_CNT_TAG_FAIL (06 R189). -/
abbrev CIP_CNT_TAG_FAIL : Nat := 0x148
/-- CIP_CNT_SUSPEND (06 R189). -/
abbrev CIP_CNT_SUSPEND : Nat := 0x14C
/-- CIP_CNT_RESERVE (06 R189). -/
abbrev CIP_CNT_RESERVE : Nat := 0x150
/-- CIP_CNT_RESV_WAIT (06 R189). -/
abbrev CIP_CNT_RESV_WAIT : Nat := 0x154
/-- CIP_CNT_REFUSED (06 R189). -/
abbrev CIP_CNT_REFUSED : Nat := 0x158
/-- CIP_CNT_KEY_MISS (06 R189). -/
abbrev CIP_CNT_KEY_MISS : Nat := 0x15C
/-- CIP_CNT_UNWRAP_FAIL (06 R189). -/
abbrev CIP_CNT_UNWRAP_FAIL : Nat := 0x160

/-! ### CLK registers -/
/-- CLK_STATUS (19 R491). -/
abbrev CLK_STATUS : Nat := 0x100
/-- CLK_ROOT (19 R491). -/
abbrev CLK_ROOT : Nat := 0x104
/-- CLK_DIV (19 R491). -/
abbrev CLK_DIV : Nat := 0x108
/-- CLK_DRAM_RATE (19 R491). -/
abbrev CLK_DRAM_RATE : Nat := 0x10C
/-- CLK_MON_PPM (19 R491). -/
abbrev CLK_MON_PPM : Nat := 0x110
/-- CLK_MON_CTRL (19 R491). -/
abbrev CLK_MON_CTRL : Nat := 0x114
/-- CLK_GATED (19 R491). -/
abbrev CLK_GATED : Nat := 0x118
/-- CLK_CNT_UNLOCK (19 R491). -/
abbrev CLK_CNT_UNLOCK : Nat := 0x120
/-- CLK_CNT_MON_FAIL (19 R491). -/
abbrev CLK_CNT_MON_FAIL : Nat := 0x124
/-- CLK_CNT_THROTTLE (19 R491). -/
abbrev CLK_CNT_THROTTLE : Nat := 0x128

/-! ### CRSC registers -/
/-- CRS_C_TILES (21 R517). -/
abbrev CRS_C_TILES : Nat := 0x140
/-- CRS_C_QUEUE (21 R517). -/
abbrev CRS_C_QUEUE : Nat := 0x144
/-- CRS_CNT_JOBS (21 R517). -/
abbrev CRS_CNT_JOBS : Nat := 0x148
/-- CRS_CNT_PASSED (21 R517). -/
abbrev CRS_CNT_PASSED : Nat := 0x14C
/-- CRS_CNT_SRAM_UNCORR (21 R517). -/
abbrev CRS_CNT_SRAM_UNCORR : Nat := 0x150
/-- CRS_TEST_TIME (21 R517). -/
abbrev CRS_TEST_TIME : Nat := 0x154

/-! ### CRSM registers -/
/-- CRS_KIND (12 R357). -/
abbrev CRS_KIND : Nat := 0x100
/-- CRS_TILES (12 R357). -/
abbrev CRS_TILES : Nat := 0x104
/-- CRS_MEDIA_MAP (12 R357). -/
abbrev CRS_MEDIA_MAP : Nat := 0x108
/-- CRS_CHISEL_CTRL (12 R357). -/
abbrev CRS_CHISEL_CTRL : Nat := 0x10C
/-- CRS_CHISEL_OUT (12 R357). -/
abbrev CRS_CHISEL_OUT : Nat := 0x110
/-- CRS_RETRY_VER (12 R357). -/
abbrev CRS_RETRY_VER : Nat := 0x114
/-- CRS_CNT_ACCEPTED (12 R357). -/
abbrev CRS_CNT_ACCEPTED : Nat := 0x120
/-- CRS_CNT_HELD (12 R357). -/
abbrev CRS_CNT_HELD : Nat := 0x124
/-- CRS_CNT_FORWARDED (12 R357). -/
abbrev CRS_CNT_FORWARDED : Nat := 0x128
/-- CRS_CNT_ABANDONED (12 R357). -/
abbrev CRS_CNT_ABANDONED : Nat := 0x12C
/-- CRS_CNT_REFUSED (12 R357). -/
abbrev CRS_CNT_REFUSED : Nat := 0x130
/-- CRS_CNT_LDPC_CORR (12 R357). -/
abbrev CRS_CNT_LDPC_CORR : Nat := 0x134
/-- CRS_CNT_CRC_FAIL (12 R357). -/
abbrev CRS_CNT_CRC_FAIL : Nat := 0x138

/-! ### EVR registers -/
/-- EVR_STATUS (16 R447). -/
abbrev EVR_STATUS : Nat := 0x100
/-- EVR_COUNT (16 R447). -/
abbrev EVR_COUNT : Nat := 0x104
/-- EVR_CAPACITY (16 R447). -/
abbrev EVR_CAPACITY : Nat := 0x108
/-- EVR_CURSOR_LO (16 R447). -/
abbrev EVR_CURSOR_LO : Nat := 0x10C
/-- EVR_CURSOR_HI (16 R447). -/
abbrev EVR_CURSOR_HI : Nat := 0x110
/-- EVR_FIRST_LO (16 R447). -/
abbrev EVR_FIRST_LO : Nat := 0x114
/-- EVR_FIRST_HI (16 R447). -/
abbrev EVR_FIRST_HI : Nat := 0x118
/-- EVR_NEXT_LO (16 R447). -/
abbrev EVR_NEXT_LO : Nat := 0x11C
/-- EVR_NEXT_HI (16 R447). -/
abbrev EVR_NEXT_HI : Nat := 0x120
/-- EVR_HELD0 (16 R447). -/
abbrev EVR_HELD0 : Nat := 0x124
/-- EVR_HELD1 (16 R447). -/
abbrev EVR_HELD1 : Nat := 0x128
/-- EVR_HELD2 (16 R447). -/
abbrev EVR_HELD2 : Nat := 0x12C
/-- EVR_HELD3 (16 R447). -/
abbrev EVR_HELD3 : Nat := 0x130
/-- EVR_WINDOW0 (16 R447). -/
abbrev EVR_WINDOW0 : Nat := 0x140
/-- EVR_WINDOW1 (16 R447). -/
abbrev EVR_WINDOW1 : Nat := 0x144
/-- EVR_WINDOW2 (16 R447). -/
abbrev EVR_WINDOW2 : Nat := 0x148
/-- EVR_WINDOW3 (16 R447). -/
abbrev EVR_WINDOW3 : Nat := 0x14C
/-- EVR_WINDOW4 (16 R447). -/
abbrev EVR_WINDOW4 : Nat := 0x150
/-- EVR_WINDOW5 (16 R447). -/
abbrev EVR_WINDOW5 : Nat := 0x154
/-- EVR_WINDOW6 (16 R447). -/
abbrev EVR_WINDOW6 : Nat := 0x158
/-- EVR_WINDOW7 (16 R447). -/
abbrev EVR_WINDOW7 : Nat := 0x15C
/-- EVR_WINDOW8 (16 R447). -/
abbrev EVR_WINDOW8 : Nat := 0x160
/-- EVR_WINDOW9 (16 R447). -/
abbrev EVR_WINDOW9 : Nat := 0x164
/-- EVR_WINDOW10 (16 R447). -/
abbrev EVR_WINDOW10 : Nat := 0x168
/-- EVR_WINDOW11 (16 R447). -/
abbrev EVR_WINDOW11 : Nat := 0x16C
/-- EVR_WINDOW12 (16 R447). -/
abbrev EVR_WINDOW12 : Nat := 0x170
/-- EVR_WINDOW13 (16 R447). -/
abbrev EVR_WINDOW13 : Nat := 0x174
/-- EVR_WINDOW14 (16 R447). -/
abbrev EVR_WINDOW14 : Nat := 0x178
/-- EVR_WINDOW15 (16 R447). -/
abbrev EVR_WINDOW15 : Nat := 0x17C
/-- EVR_CNT_DROP0 (16 R447). -/
abbrev EVR_CNT_DROP0 : Nat := 0x180
/-- EVR_CNT_DROP1 (16 R447). -/
abbrev EVR_CNT_DROP1 : Nat := 0x184
/-- EVR_CNT_DROP2 (16 R447). -/
abbrev EVR_CNT_DROP2 : Nat := 0x188
/-- EVR_CNT_DROP3 (16 R447). -/
abbrev EVR_CNT_DROP3 : Nat := 0x18C
/-- EVR_CNT_WRITTEN (16 R447). -/
abbrev EVR_CNT_WRITTEN : Nat := 0x190
/-- EVR_CNT_REPLACED (16 R447). -/
abbrev EVR_CNT_REPLACED : Nat := 0x194

/-! ### FPN registers -/
/-- FPN_STATUS (17 R463). -/
abbrev FPN_STATUS : Nat := 0x100
/-- FPN_SLOT (17 R463). -/
abbrev FPN_SLOT : Nat := 0x104
/-- FPN_CTRL (17 R463). -/
abbrev FPN_CTRL : Nat := 0x108
/-- FPN_LOCATE (17 R463). -/
abbrev FPN_LOCATE : Nat := 0x10C
/-- FPN_REMOVE (17 R463). -/
abbrev FPN_REMOVE : Nat := 0x110
/-- FPN_LABEL_PAGE (17 R463). -/
abbrev FPN_LABEL_PAGE : Nat := 0x114
/-- FPN_MATING (17 R463). -/
abbrev FPN_MATING : Nat := 0x118
/-- FPN_CNT_PRESS (17 R463). -/
abbrev FPN_CNT_PRESS : Nat := 0x120
/-- FPN_CNT_HOLD (17 R463). -/
abbrev FPN_CNT_HOLD : Nat := 0x124
/-- FPN_CNT_TOUCH (17 R463). -/
abbrev FPN_CNT_TOUCH : Nat := 0x128
/-- FPN_CNT_LATCH_OPEN (17 R463). -/
abbrev FPN_CNT_LATCH_OPEN : Nat := 0x12C
/-- FPN_CNT_SURPRISE (17 R463). -/
abbrev FPN_CNT_SURPRISE : Nat := 0x130
/-- FPN_CNT_LABEL_REFRESH (17 R463). -/
abbrev FPN_CNT_LABEL_REFRESH : Nat := 0x134

/-! ### FWU registers -/
/-- FWU_STATUS (20 R509). -/
abbrev FWU_STATUS : Nat := 0x100
/-- FWU_SLOT_SEL (20 R509). -/
abbrev FWU_SLOT_SEL : Nat := 0x104
/-- FWU_SLOT_INFO (20 R509). -/
abbrev FWU_SLOT_INFO : Nat := 0x108
/-- FWU_SLOT_VERSION (20 R509). -/
abbrev FWU_SLOT_VERSION : Nat := 0x10C
/-- FWU_SLOT_LEVEL (20 R509). -/
abbrev FWU_SLOT_LEVEL : Nat := 0x110
/-- FWU_COUNTER (20 R509). -/
abbrev FWU_COUNTER : Nat := 0x114
/-- FWU_CTRL (20 R509). -/
abbrev FWU_CTRL : Nat := 0x118
/-- FWU_ACTIVATE (20 R509). -/
abbrev FWU_ACTIVATE : Nat := 0x11C
/-- FWU_RESULT (20 R509). -/
abbrev FWU_RESULT : Nat := 0x120
/-- FWU_SETTINGS (20 R509). -/
abbrev FWU_SETTINGS : Nat := 0x124
/-- FWU_WALL_LEVELS (20 R509). -/
abbrev FWU_WALL_LEVELS : Nat := 0x128
/-- FWU_CNT_STAGED (20 R509). -/
abbrev FWU_CNT_STAGED : Nat := 0x130
/-- FWU_CNT_COMMITTED (20 R509). -/
abbrev FWU_CNT_COMMITTED : Nat := 0x134
/-- FWU_CNT_FALLBACK (20 R509). -/
abbrev FWU_CNT_FALLBACK : Nat := 0x138
/-- FWU_CNT_REFUSED (20 R509). -/
abbrev FWU_CNT_REFUSED : Nat := 0x13C

/-! ### GLB registers -/
/-- GLB_PART (15 R417). -/
abbrev GLB_PART : Nat := 0x100
/-- GLB_WYTHE (15 R417). -/
abbrev GLB_WYTHE : Nat := 0x104
/-- GLB_SERIAL0 (15 R417). -/
abbrev GLB_SERIAL0 : Nat := 0x108
/-- GLB_SERIAL1 (15 R417). -/
abbrev GLB_SERIAL1 : Nat := 0x10C
/-- GLB_SERIAL2 (15 R417). -/
abbrev GLB_SERIAL2 : Nat := 0x110
/-- GLB_SERIAL3 (15 R417). -/
abbrev GLB_SERIAL3 : Nat := 0x114
/-- GLB_FW_VERSION (15 R417). -/
abbrev GLB_FW_VERSION : Nat := 0x118
/-- GLB_FW_LEVEL (15 R417). -/
abbrev GLB_FW_LEVEL : Nat := 0x11C
/-- GLB_START (15 R417). -/
abbrev GLB_START : Nat := 0x120
/-- GLB_HLC_LO (15 R417). -/
abbrev GLB_HLC_LO : Nat := 0x124
/-- GLB_HLC_HI (15 R417). -/
abbrev GLB_HLC_HI : Nat := 0x128
/-- GLB_EXIT_PS1 (15 R417). -/
abbrev GLB_EXIT_PS1 : Nat := 0x12C
/-- GLB_EXIT_PS2 (15 R417). -/
abbrev GLB_EXIT_PS2 : Nat := 0x130
/-- GLB_EXIT_PS3 (15 R417). -/
abbrev GLB_EXIT_PS3 : Nat := 0x134
/-- GLB_EVT_SUMMARY (15 R417). -/
abbrev GLB_EVT_SUMMARY : Nat := 0x138
/-- GLB_EVT_FIRST (15 R417). -/
abbrev GLB_EVT_FIRST : Nat := 0x13C
/-- GLB_EVT_VECTOR (15 R417). -/
abbrev GLB_EVT_VECTOR : Nat := 0x140
/-- GLB_PCIE_STATUS (15 R417). -/
abbrev GLB_PCIE_STATUS : Nat := 0x144
/-- GLB_ACCESS_ERR (15 R417). -/
abbrev GLB_ACCESS_ERR : Nat := 0x148
/-- GLB_SCRATCH (15 R417). -/
abbrev GLB_SCRATCH : Nat := 0x14C
/-- GLB_CNT_UNMAPPED (15 R417). -/
abbrev GLB_CNT_UNMAPPED : Nat := 0x150
/-- GLB_CNT_PEER_WRITE (15 R417). -/
abbrev GLB_CNT_PEER_WRITE : Nat := 0x154
/-- GLB_CNT_PEER_UNREACH (15 R417). -/
abbrev GLB_CNT_PEER_UNREACH : Nat := 0x158
/-- GLB_CNT_FLR (15 R417). -/
abbrev GLB_CNT_FLR : Nat := 0x15C
/-- GLB_CNT_ACCESS_SIZE (15 R417). -/
abbrev GLB_CNT_ACCESS_SIZE : Nat := 0x160

/-! ### HLT registers -/
/-- HLT_STATUS (18 R474). -/
abbrev HLT_STATUS : Nat := 0x100
/-- HLT_WEAR (18 R474). -/
abbrev HLT_WEAR : Nat := 0x104
/-- HLT_SPARE (18 R474). -/
abbrev HLT_SPARE : Nat := 0x108
/-- HLT_EOL (18 R474). -/
abbrev HLT_EOL : Nat := 0x10C
/-- HLT_TEMP_SEL (18 R474). -/
abbrev HLT_TEMP_SEL : Nat := 0x110
/-- HLT_TEMP (18 R474). -/
abbrev HLT_TEMP : Nat := 0x114
/-- HLT_TEMP_CTRL (18 R474). -/
abbrev HLT_TEMP_CTRL : Nat := 0x118
/-- HLT_CAP0 (18 R474). -/
abbrev HLT_CAP0 : Nat := 0x11C
/-- HLT_CAP1 (18 R474). -/
abbrev HLT_CAP1 : Nat := 0x120
/-- HLT_CAP_CTRL (18 R474). -/
abbrev HLT_CAP_CTRL : Nat := 0x124
/-- HLT_CAP_REQ (18 R474). -/
abbrev HLT_CAP_REQ : Nat := 0x128
/-- HLT_AGE_SEL (18 R474). -/
abbrev HLT_AGE_SEL : Nat := 0x12C
/-- HLT_AGE (18 R474). -/
abbrev HLT_AGE : Nat := 0x130
/-- HLT_FRAG_GIB_LO (18 R474). -/
abbrev HLT_FRAG_GIB_LO : Nat := 0x134
/-- HLT_FRAG_GIB_HI (18 R474). -/
abbrev HLT_FRAG_GIB_HI : Nat := 0x138
/-- HLT_MEDIA_GIB_LO (18 R474). -/
abbrev HLT_MEDIA_GIB_LO : Nat := 0x13C
/-- HLT_MEDIA_GIB_HI (18 R474). -/
abbrev HLT_MEDIA_GIB_HI : Nat := 0x140
/-- HLT_LOG_SECTION (18 R474). -/
abbrev HLT_LOG_SECTION : Nat := 0x144
/-- HLT_LOG_OFFSET (18 R474). -/
abbrev HLT_LOG_OFFSET : Nat := 0x148
/-- HLT_LOG_DATA (18 R474). -/
abbrev HLT_LOG_DATA : Nat := 0x14C
/-- HLT_LOG_LEN (18 R474). -/
abbrev HLT_LOG_LEN : Nat := 0x150
/-- HLT_CNT_CAP_TEST (18 R474). -/
abbrev HLT_CNT_CAP_TEST : Nat := 0x154
/-- HLT_CNT_EARLY_WARN (18 R474). -/
abbrev HLT_CNT_EARLY_WARN : Nat := 0x158
/-- HLT_CNT_TEMP_HIGH (18 R474). -/
abbrev HLT_CNT_TEMP_HIGH : Nat := 0x15C

/-! ### MAC registers -/
/-- MAC_STATUS (14 R393). -/
abbrev MAC_STATUS : Nat := 0x100
/-- MAC_MODE (14 R393). -/
abbrev MAC_MODE : Nat := 0x104
/-- MAC_ADDR_LO (14 R393). -/
abbrev MAC_ADDR_LO : Nat := 0x108
/-- MAC_ADDR_HI (14 R393). -/
abbrev MAC_ADDR_HI : Nat := 0x10C
/-- MAC_MAX_FRAME (14 R393). -/
abbrev MAC_MAX_FRAME : Nat := 0x110
/-- MAC_TX_THRESH (14 R393). -/
abbrev MAC_TX_THRESH : Nat := 0x114
/-- MAC_LPI_CTRL (14 R393). -/
abbrev MAC_LPI_CTRL : Nat := 0x118
/-- MAC_LPI_TW (14 R393). -/
abbrev MAC_LPI_TW : Nat := 0x11C
/-- MAC_LPI_STATE (14 R393). -/
abbrev MAC_LPI_STATE : Nat := 0x120
/-- MAC_PFC_CTRL (14 R393). -/
abbrev MAC_PFC_CTRL : Nat := 0x124
/-- MAC_LOOPBACK (14 R393). -/
abbrev MAC_LOOPBACK : Nat := 0x128
/-- MAC_CNT_RX_SIZE0 (14 R393). -/
abbrev MAC_CNT_RX_SIZE0 : Nat := 0x200
/-- MAC_CNT_RX_SIZE1 (14 R393). -/
abbrev MAC_CNT_RX_SIZE1 : Nat := 0x204
/-- MAC_CNT_RX_SIZE2 (14 R393). -/
abbrev MAC_CNT_RX_SIZE2 : Nat := 0x208
/-- MAC_CNT_RX_SIZE3 (14 R393). -/
abbrev MAC_CNT_RX_SIZE3 : Nat := 0x20C
/-- MAC_CNT_RX_SIZE4 (14 R393). -/
abbrev MAC_CNT_RX_SIZE4 : Nat := 0x210
/-- MAC_CNT_RX_SIZE5 (14 R393). -/
abbrev MAC_CNT_RX_SIZE5 : Nat := 0x214
/-- MAC_CNT_RX_SIZE6 (14 R393). -/
abbrev MAC_CNT_RX_SIZE6 : Nat := 0x218
/-- MAC_CNT_RX_SIZE7 (14 R393). -/
abbrev MAC_CNT_RX_SIZE7 : Nat := 0x21C
/-- MAC_CNT_RX_SIZE8 (14 R393). -/
abbrev MAC_CNT_RX_SIZE8 : Nat := 0x220
/-- MAC_CNT_RX_SIZE9 (14 R393). -/
abbrev MAC_CNT_RX_SIZE9 : Nat := 0x224
/-- MAC_CNT_RX_UCAST (14 R393). -/
abbrev MAC_CNT_RX_UCAST : Nat := 0x228
/-- MAC_CNT_RX_MCAST (14 R393). -/
abbrev MAC_CNT_RX_MCAST : Nat := 0x22C
/-- MAC_CNT_RX_BCAST (14 R393). -/
abbrev MAC_CNT_RX_BCAST : Nat := 0x230
/-- MAC_CNT_RX_PFC (14 R393). -/
abbrev MAC_CNT_RX_PFC : Nat := 0x234
/-- MAC_CNT_RX_PAUSE (14 R393). -/
abbrev MAC_CNT_RX_PAUSE : Nat := 0x238
/-- MAC_CNT_RX_RUNT (14 R393). -/
abbrev MAC_CNT_RX_RUNT : Nat := 0x23C
/-- MAC_CNT_RX_OVERSIZE (14 R393). -/
abbrev MAC_CNT_RX_OVERSIZE : Nat := 0x240
/-- MAC_CNT_RX_FCS (14 R393). -/
abbrev MAC_CNT_RX_FCS : Nat := 0x244
/-- MAC_CNT_RX_OVERFLOW (14 R393). -/
abbrev MAC_CNT_RX_OVERFLOW : Nat := 0x248
/-- MAC_CNT_RX_FILTERED (14 R393). -/
abbrev MAC_CNT_RX_FILTERED : Nat := 0x24C
/-- MAC_CNT_FEC_CORR (14 R393). -/
abbrev MAC_CNT_FEC_CORR : Nat := 0x250
/-- MAC_CNT_FEC_UNCORR (14 R393). -/
abbrev MAC_CNT_FEC_UNCORR : Nat := 0x254
/-- MAC_CNT_LINK_DOWN (14 R393). -/
abbrev MAC_CNT_LINK_DOWN : Nat := 0x258
/-- MAC_CNT_TX_SIZE0 (14 R393). -/
abbrev MAC_CNT_TX_SIZE0 : Nat := 0x260
/-- MAC_CNT_TX_SIZE1 (14 R393). -/
abbrev MAC_CNT_TX_SIZE1 : Nat := 0x264
/-- MAC_CNT_TX_SIZE2 (14 R393). -/
abbrev MAC_CNT_TX_SIZE2 : Nat := 0x268
/-- MAC_CNT_TX_SIZE3 (14 R393). -/
abbrev MAC_CNT_TX_SIZE3 : Nat := 0x26C
/-- MAC_CNT_TX_SIZE4 (14 R393). -/
abbrev MAC_CNT_TX_SIZE4 : Nat := 0x270
/-- MAC_CNT_TX_SIZE5 (14 R393). -/
abbrev MAC_CNT_TX_SIZE5 : Nat := 0x274
/-- MAC_CNT_TX_SIZE6 (14 R393). -/
abbrev MAC_CNT_TX_SIZE6 : Nat := 0x278
/-- MAC_CNT_TX_SIZE7 (14 R393). -/
abbrev MAC_CNT_TX_SIZE7 : Nat := 0x27C
/-- MAC_CNT_TX_SIZE8 (14 R393). -/
abbrev MAC_CNT_TX_SIZE8 : Nat := 0x280
/-- MAC_CNT_TX_SIZE9 (14 R393). -/
abbrev MAC_CNT_TX_SIZE9 : Nat := 0x284
/-- MAC_CNT_TX_UCAST (14 R393). -/
abbrev MAC_CNT_TX_UCAST : Nat := 0x288
/-- MAC_CNT_TX_MCAST (14 R393). -/
abbrev MAC_CNT_TX_MCAST : Nat := 0x28C
/-- MAC_CNT_TX_PFC (14 R393). -/
abbrev MAC_CNT_TX_PFC : Nat := 0x290
/-- MAC_CNT_TX_UNDERRUN (14 R393). -/
abbrev MAC_CNT_TX_UNDERRUN : Nat := 0x294
/-- MAC_CNT_TX_OVERSIZE (14 R393). -/
abbrev MAC_CNT_TX_OVERSIZE : Nat := 0x298
/-- MAC_CNT_LPI_ENTRY (14 R393). -/
abbrev MAC_CNT_LPI_ENTRY : Nat := 0x29C
/-- MAC_CNT_LPI_TIME (14 R393). -/
abbrev MAC_CNT_LPI_TIME : Nat := 0x2A0

/-! ### MED registers -/
/-- MED_STATUS (10 R310). -/
abbrev MED_STATUS : Nat := 0x100
/-- MED_GEOMETRY (10 R310). -/
abbrev MED_GEOMETRY : Nat := 0x104
/-- MED_NAND_BUDGET (10 R310). -/
abbrev MED_NAND_BUDGET : Nat := 0x108
/-- MED_WYTHE_TOKENS (10 R310). -/
abbrev MED_WYTHE_TOKENS : Nat := 0x10C
/-- MED_PANEL_FREE01 (10 R310). -/
abbrev MED_PANEL_FREE01 : Nat := 0x110
/-- MED_PANEL_FREE23 (10 R310). -/
abbrev MED_PANEL_FREE23 : Nat := 0x114
/-- MED_CLASS_SHARE (10 R310). -/
abbrev MED_CLASS_SHARE : Nat := 0x118
/-- MED_SLC_CTRL (10 R310). -/
abbrev MED_SLC_CTRL : Nat := 0x11C
/-- MED_SLC_TIMERS (10 R310). -/
abbrev MED_SLC_TIMERS : Nat := 0x120
/-- MED_SLC_SHARE (10 R310). -/
abbrev MED_SLC_SHARE : Nat := 0x124
/-- MED_SLC_FILL (10 R310). -/
abbrev MED_SLC_FILL : Nat := 0x128
/-- MED_WRITE_CTRL (10 R310). -/
abbrev MED_WRITE_CTRL : Nat := 0x12C
/-- MED_SEQ0_LO (10 R310). -/
abbrev MED_SEQ0_LO : Nat := 0x130
/-- MED_SEQ0_HI (10 R310). -/
abbrev MED_SEQ0_HI : Nat := 0x134
/-- MED_SEQ1_LO (10 R310). -/
abbrev MED_SEQ1_LO : Nat := 0x138
/-- MED_SEQ1_HI (10 R310). -/
abbrev MED_SEQ1_HI : Nat := 0x13C
/-- MED_OPEN (10 R310). -/
abbrev MED_OPEN : Nat := 0x140
/-- MED_ANCHOR_STATUS (10 R310). -/
abbrev MED_ANCHOR_STATUS : Nat := 0x144
/-- MED_DUMP_STATUS (10 R310). -/
abbrev MED_DUMP_STATUS : Nat := 0x148
/-- MED_CNT_SLC_ROUNDS (10 R310). -/
abbrev MED_CNT_SLC_ROUNDS : Nat := 0x150
/-- MED_CNT_QLC_ROUNDS (10 R310). -/
abbrev MED_CNT_QLC_ROUNDS : Nat := 0x154
/-- MED_CNT_FOLD_ROUNDS (10 R310). -/
abbrev MED_CNT_FOLD_ROUNDS : Nat := 0x158
/-- MED_CNT_PAD_PAGES (10 R310). -/
abbrev MED_CNT_PAD_PAGES : Nat := 0x15C
/-- MED_CNT_TOKEN_WAIT (10 R310). -/
abbrev MED_CNT_TOKEN_WAIT : Nat := 0x160
/-- MED_CNT_DIRECT_DIVERT (10 R310). -/
abbrev MED_CNT_DIRECT_DIVERT : Nat := 0x164
/-- MED_CNT_SLC_GROW (10 R310). -/
abbrev MED_CNT_SLC_GROW : Nat := 0x168
/-- MED_CNT_SLC_SHRINK (10 R310). -/
abbrev MED_CNT_SLC_SHRINK : Nat := 0x16C
/-- MED_CNT_ANCHOR_WRITES (10 R310). -/
abbrev MED_CNT_ANCHOR_WRITES : Nat := 0x170
/-- MED_CNT_TAG_CRC (10 R310). -/
abbrev MED_CNT_TAG_CRC : Nat := 0x174
/-- MED_CNT_ROUND_FAIL (10 R310). -/
abbrev MED_CNT_ROUND_FAIL : Nat := 0x178

/-! ### MTR registers -/
/-- MTR_STATUS (07 R226). -/
abbrev MTR_STATUS : Nat := 0x100
/-- MTR_BRICK_ID (07 R226). -/
abbrev MTR_BRICK_ID : Nat := 0x104
/-- MTR_MEMB_EPOCH (07 R226). -/
abbrev MTR_MEMB_EPOCH : Nat := 0x108
/-- MTR_MAP_VERSION (07 R226). -/
abbrev MTR_MAP_VERSION : Nat := 0x10C
/-- MTR_BOND_VERSION (07 R226). -/
abbrev MTR_BOND_VERSION : Nat := 0x110
/-- MTR_CAST_REG_VERSION (07 R226). -/
abbrev MTR_CAST_REG_VERSION : Nat := 0x114
/-- MTR_WALL_ID_LO (07 R226). -/
abbrev MTR_WALL_ID_LO : Nat := 0x118
/-- MTR_WALL_ID_HI (07 R226). -/
abbrev MTR_WALL_ID_HI : Nat := 0x11C
/-- MTR_UDP_PORT (07 R226). -/
abbrev MTR_UDP_PORT : Nat := 0x120
/-- MTR_LOSS_DELAY (07 R226). -/
abbrev MTR_LOSS_DELAY : Nat := 0x124
/-- MTR_ARM_TERM (07 R226). -/
abbrev MTR_ARM_TERM : Nat := 0x128
/-- MTR_ARM_LEADER (07 R226). -/
abbrev MTR_ARM_LEADER : Nat := 0x12C
/-- MTR_LEASE_LEFT (07 R226). -/
abbrev MTR_LEASE_LEFT : Nat := 0x130
/-- MTR_WALL_CLOSED_LO (07 R226). -/
abbrev MTR_WALL_CLOSED_LO : Nat := 0x134
/-- MTR_WALL_CLOSED_HI (07 R226). -/
abbrev MTR_WALL_CLOSED_HI : Nat := 0x138
/-- MTR_JOIN_CTRL (07 R226). -/
abbrev MTR_JOIN_CTRL : Nat := 0x140
/-- MTR_JOIN_PORT (07 R226). -/
abbrev MTR_JOIN_PORT : Nat := 0x144
/-- MTR_JOIN_WALL_LO (07 R226). -/
abbrev MTR_JOIN_WALL_LO : Nat := 0x148
/-- MTR_JOIN_WALL_HI (07 R226). -/
abbrev MTR_JOIN_WALL_HI : Nat := 0x14C
/-- MTR_JOIN_ADDR0 (07 R226). -/
abbrev MTR_JOIN_ADDR0 : Nat := 0x150
/-- MTR_JOIN_ADDR1 (07 R226). -/
abbrev MTR_JOIN_ADDR1 : Nat := 0x154
/-- MTR_JOIN_ADDR2 (07 R226). -/
abbrev MTR_JOIN_ADDR2 : Nat := 0x158
/-- MTR_JOIN_ADDR3 (07 R226). -/
abbrev MTR_JOIN_ADDR3 : Nat := 0x15C
/-- MTR_DOMAIN (07 R226). -/
abbrev MTR_DOMAIN : Nat := 0x160
/-- MTR_CC_CTRL (07 R226). -/
abbrev MTR_CC_CTRL : Nat := 0x164
/-- MTR_RTO_CTRL (07 R226). -/
abbrev MTR_RTO_CTRL : Nat := 0x168
/-- MTR_FLOWS (07 R226). -/
abbrev MTR_FLOWS : Nat := 0x16C
/-- MTR_PTP_STATE (07 R226). -/
abbrev MTR_PTP_STATE : Nat := 0x170
/-- MTR_CNT_TX_PKT (07 R226). -/
abbrev MTR_CNT_TX_PKT : Nat := 0x180
/-- MTR_CNT_RX_PKT (07 R226). -/
abbrev MTR_CNT_RX_PKT : Nat := 0x184
/-- MTR_CNT_RETX (07 R226). -/
abbrev MTR_CNT_RETX : Nat := 0x188
/-- MTR_CNT_RTO (07 R226). -/
abbrev MTR_CNT_RTO : Nat := 0x18C
/-- MTR_CNT_DROP_CRC (07 R226). -/
abbrev MTR_CNT_DROP_CRC : Nat := 0x190
/-- MTR_CNT_DROP_FORMAT (07 R226). -/
abbrev MTR_CNT_DROP_FORMAT : Nat := 0x194
/-- MTR_CNT_EPOCH_STALE (07 R226). -/
abbrev MTR_CNT_EPOCH_STALE : Nat := 0x198
/-- MTR_CNT_CE_ECHO (07 R226). -/
abbrev MTR_CNT_CE_ECHO : Nat := 0x19C
/-- MTR_CNT_FLOW_BROKEN (07 R226). -/
abbrev MTR_CNT_FLOW_BROKEN : Nat := 0x1A0
/-- MTR_CNT_HB_SENT (07 R226). -/
abbrev MTR_CNT_HB_SENT : Nat := 0x1A4
/-- MTR_CNT_HB_UNACKED (07 R226). -/
abbrev MTR_CNT_HB_UNACKED : Nat := 0x1A8
/-- MTR_CNT_UNKNOWN_TYPE (07 R226). -/
abbrev MTR_CNT_UNKNOWN_TYPE : Nat := 0x1AC

/-! ### PFL registers -/
/-- PFL_STATUS (16 R446). -/
abbrev PFL_STATUS : Nat := 0x100
/-- PFL_ADDR (16 R446). -/
abbrev PFL_ADDR : Nat := 0x104
/-- PFL_REQ (16 R446). -/
abbrev PFL_REQ : Nat := 0x108
/-- PFL_RESULT (16 R446). -/
abbrev PFL_RESULT : Nat := 0x10C
/-- PFL_DATA0 (16 R446). -/
abbrev PFL_DATA0 : Nat := 0x110
/-- PFL_DATA1 (16 R446). -/
abbrev PFL_DATA1 : Nat := 0x114
/-- PFL_DATA2 (16 R446). -/
abbrev PFL_DATA2 : Nat := 0x118
/-- PFL_DATA3 (16 R446). -/
abbrev PFL_DATA3 : Nat := 0x11C
/-- PFL_DATA4 (16 R446). -/
abbrev PFL_DATA4 : Nat := 0x120
/-- PFL_DATA5 (16 R446). -/
abbrev PFL_DATA5 : Nat := 0x124
/-- PFL_DATA6 (16 R446). -/
abbrev PFL_DATA6 : Nat := 0x128
/-- PFL_DATA7 (16 R446). -/
abbrev PFL_DATA7 : Nat := 0x12C
/-- PFL_COUNTER_SEL (16 R446). -/
abbrev PFL_COUNTER_SEL : Nat := 0x130
/-- PFL_COUNTER (16 R446). -/
abbrev PFL_COUNTER : Nat := 0x134
/-- PFL_SECTORS_BAD (16 R446). -/
abbrev PFL_SECTORS_BAD : Nat := 0x138
/-- PFL_CNT_READ (16 R446). -/
abbrev PFL_CNT_READ : Nat := 0x140
/-- PFL_CNT_PROGRAM (16 R446). -/
abbrev PFL_CNT_PROGRAM : Nat := 0x144
/-- PFL_CNT_ERASE (16 R446). -/
abbrev PFL_CNT_ERASE : Nat := 0x148
/-- PFL_CNT_SUSPEND (16 R446). -/
abbrev PFL_CNT_SUSPEND : Nat := 0x14C
/-- PFL_CNT_RETRY (16 R446). -/
abbrev PFL_CNT_RETRY : Nat := 0x150
/-- PFL_CNT_UNCORR (16 R446). -/
abbrev PFL_CNT_UNCORR : Nat := 0x154
/-- PFL_CNT_REFUSED (16 R446). -/
abbrev PFL_CNT_REFUSED : Nat := 0x158
/-- PFL_CNT_ERASE_FAIL (16 R446). -/
abbrev PFL_CNT_ERASE_FAIL : Nat := 0x15C

/-! ### PLT registers -/
/-- PLT_STATUS (16 R445). -/
abbrev PLT_STATUS : Nat := 0x100
/-- PLT_FW_VERSION (16 R445). -/
abbrev PLT_FW_VERSION : Nat := 0x104
/-- PLT_FW_LEVEL (16 R445). -/
abbrev PLT_FW_LEVEL : Nat := 0x108
/-- PLT_SLOT (16 R445). -/
abbrev PLT_SLOT : Nat := 0x10C
/-- PLT_UPTIME (16 R445). -/
abbrev PLT_UPTIME : Nat := 0x110
/-- PLT_TIME_LO (16 R445). -/
abbrev PLT_TIME_LO : Nat := 0x114
/-- PLT_TIME_HI (16 R445). -/
abbrev PLT_TIME_HI : Nat := 0x118
/-- PLT_AUX (16 R445). -/
abbrev PLT_AUX : Nat := 0x11C
/-- PLT_USB (16 R445). -/
abbrev PLT_USB : Nat := 0x120
/-- PLT_KS_GEN (16 R445). -/
abbrev PLT_KS_GEN : Nat := 0x124
/-- PLT_TEMP (16 R445). -/
abbrev PLT_TEMP : Nat := 0x128
/-- PLT_LINK (16 R445). -/
abbrev PLT_LINK : Nat := 0x12C
/-- PLT_CNT_SELF_RESET (16 R445). -/
abbrev PLT_CNT_SELF_RESET : Nat := 0x130
/-- PLT_CNT_SOURCE (16 R445). -/
abbrev PLT_CNT_SOURCE : Nat := 0x134
/-- PLT_CNT_TICKET_OK (16 R445). -/
abbrev PLT_CNT_TICKET_OK : Nat := 0x138
/-- PLT_CNT_TICKET_REFUSED (16 R445). -/
abbrev PLT_CNT_TICKET_REFUSED : Nat := 0x13C

/-! ### PNL registers -/
/-- PNL_STATUS (21 R517). -/
abbrev PNL_STATUS : Nat := 0x100
/-- PNL_TOKENS (21 R517). -/
abbrev PNL_TOKENS : Nat := 0x104
/-- PNL_CNT_LINK_ERR (21 R517). -/
abbrev PNL_CNT_LINK_ERR : Nat := 0x108
/-- PNL_CNT_TEST (21 R517). -/
abbrev PNL_CNT_TEST : Nat := 0x10C

/-! ### PTP registers -/
/-- PTP_TIME_NS (14 R394). -/
abbrev PTP_TIME_NS : Nat := 0x100
/-- PTP_TIME_SEC_LO (14 R394). -/
abbrev PTP_TIME_SEC_LO : Nat := 0x104
/-- PTP_TIME_SEC_HI (14 R394). -/
abbrev PTP_TIME_SEC_HI : Nat := 0x108
/-- PTP_INCR (14 R394). -/
abbrev PTP_INCR : Nat := 0x10C
/-- PTP_ADJ (14 R394). -/
abbrev PTP_ADJ : Nat := 0x110
/-- PTP_PPS_CTRL (14 R394). -/
abbrev PTP_PPS_CTRL : Nat := 0x114
/-- PTP_PPS_IN_NS (14 R394). -/
abbrev PTP_PPS_IN_NS : Nat := 0x118
/-- PTP_TSQ_LEVEL (14 R394). -/
abbrev PTP_TSQ_LEVEL : Nat := 0x11C
/-- PTP_TSQ_OVF (14 R394). -/
abbrev PTP_TSQ_OVF : Nat := 0x120
/-- PTP_PORT0_LAT (14 R394). -/
abbrev PTP_PORT0_LAT : Nat := 0x128
/-- PTP_PORT1_LAT (14 R394). -/
abbrev PTP_PORT1_LAT : Nat := 0x12C
/-- PTP_PORT2_LAT (14 R394). -/
abbrev PTP_PORT2_LAT : Nat := 0x130
/-- PTP_PORT3_LAT (14 R394). -/
abbrev PTP_PORT3_LAT : Nat := 0x134
/-- PTP_CNT_TS_LOST0 (14 R394). -/
abbrev PTP_CNT_TS_LOST0 : Nat := 0x140
/-- PTP_CNT_TS_LOST1 (14 R394). -/
abbrev PTP_CNT_TS_LOST1 : Nat := 0x144
/-- PTP_CNT_TS_LOST2 (14 R394). -/
abbrev PTP_CNT_TS_LOST2 : Nat := 0x148
/-- PTP_CNT_TS_LOST3 (14 R394). -/
abbrev PTP_CNT_TS_LOST3 : Nat := 0x14C
/-- PTP_CNT_TX_TS0 (14 R394). -/
abbrev PTP_CNT_TX_TS0 : Nat := 0x150
/-- PTP_CNT_TX_TS1 (14 R394). -/
abbrev PTP_CNT_TX_TS1 : Nat := 0x154
/-- PTP_CNT_TX_TS2 (14 R394). -/
abbrev PTP_CNT_TX_TS2 : Nat := 0x158
/-- PTP_CNT_TX_TS3 (14 R394). -/
abbrev PTP_CNT_TX_TS3 : Nat := 0x15C
/-- PTP_CNT_PPS_MISS (14 R394). -/
abbrev PTP_CNT_PPS_MISS : Nat := 0x160

/-! ### PWR registers -/
/-- PWR_STATE (15 R418). -/
abbrev PWR_STATE : Nat := 0x100
/-- PWR_CTRL (15 R418). -/
abbrev PWR_CTRL : Nat := 0x104
/-- PWR_IDLE_PS1 (15 R418). -/
abbrev PWR_IDLE_PS1 : Nat := 0x108
/-- PWR_IDLE_PS2 (15 R418). -/
abbrev PWR_IDLE_PS2 : Nat := 0x10C
/-- PWR_IDLE_PS3 (15 R418). -/
abbrev PWR_IDLE_PS3 : Nat := 0x110
/-- PWR_IDLE_NOW (15 R418). -/
abbrev PWR_IDLE_NOW : Nat := 0x114
/-- PWR_DOMAINS (15 R418). -/
abbrev PWR_DOMAINS : Nat := 0x118
/-- PWR_BRICK_DOMAINS (15 R418). -/
abbrev PWR_BRICK_DOMAINS : Nat := 0x11C
/-- PWR_INPUT (15 R418). -/
abbrev PWR_INPUT : Nat := 0x120
/-- PWR_BRICK_POWER (15 R418). -/
abbrev PWR_BRICK_POWER : Nat := 0x124
/-- PWR_HOLDUP (15 R418). -/
abbrev PWR_HOLDUP : Nat := 0x128
/-- PWR_CNT_PS1 (15 R418). -/
abbrev PWR_CNT_PS1 : Nat := 0x12C
/-- PWR_CNT_PS2 (15 R418). -/
abbrev PWR_CNT_PS2 : Nat := 0x130
/-- PWR_CNT_PS3 (15 R418). -/
abbrev PWR_CNT_PS3 : Nat := 0x134
/-- PWR_CNT_INPUT_LOSS (15 R418). -/
abbrev PWR_CNT_INPUT_LOSS : Nat := 0x138

/-! ### RDM registers -/
/-- RDM_STATUS (14 R395). -/
abbrev RDM_STATUS : Nat := 0x100
/-- RDM_CTRL (14 R395). -/
abbrev RDM_CTRL : Nat := 0x104
/-- RDM_CNP_CTRL (14 R395). -/
abbrev RDM_CNP_CTRL : Nat := 0x108
/-- RDM_MARK (14 R395). -/
abbrev RDM_MARK : Nat := 0x10C
/-- RDM_CNT_RX_PKT (14 R395). -/
abbrev RDM_CNT_RX_PKT : Nat := 0x140
/-- RDM_CNT_TX_PKT (14 R395). -/
abbrev RDM_CNT_TX_PKT : Nat := 0x144
/-- RDM_CNT_ICRC (14 R395). -/
abbrev RDM_CNT_ICRC : Nat := 0x148
/-- RDM_CNT_TRUNC (14 R395). -/
abbrev RDM_CNT_TRUNC : Nat := 0x14C
/-- RDM_CNT_NAK_SENT (14 R395). -/
abbrev RDM_CNT_NAK_SENT : Nat := 0x150
/-- RDM_CNT_NAK_RCVD (14 R395). -/
abbrev RDM_CNT_NAK_RCVD : Nat := 0x154
/-- RDM_CNT_RETX (14 R395). -/
abbrev RDM_CNT_RETX : Nat := 0x158
/-- RDM_CNT_ACK_TIMEOUT (14 R395). -/
abbrev RDM_CNT_ACK_TIMEOUT : Nat := 0x15C
/-- RDM_CNT_RNR_RCVD (14 R395). -/
abbrev RDM_CNT_RNR_RCVD : Nat := 0x160
/-- RDM_CNT_CE_RCVD (14 R395). -/
abbrev RDM_CNT_CE_RCVD : Nat := 0x164
/-- RDM_CNT_CNP_SENT (14 R395). -/
abbrev RDM_CNT_CNP_SENT : Nat := 0x168
/-- RDM_CNT_CNP_RCVD (14 R395). -/
abbrev RDM_CNT_CNP_RCVD : Nat := 0x16C
/-- RDM_CNT_CM_REJECT (14 R395). -/
abbrev RDM_CNT_CM_REJECT : Nat := 0x170
/-- RDM_CNT_RETRY_EXCEEDED (14 R395). -/
abbrev RDM_CNT_RETRY_EXCEEDED : Nat := 0x174

/-! ### RLF registers -/
/-- RLF_QUEUES (03 R111). -/
abbrev RLF_QUEUES : Nat := 0x100
/-- RLF_TAGS_BUSY (03 R111). -/
abbrev RLF_TAGS_BUSY : Nat := 0x104
/-- RLF_ADMIT_WAITING (03 R111). -/
abbrev RLF_ADMIT_WAITING : Nat := 0x108
/-- RLF_ADMIT_CTRL (03 R111). -/
abbrev RLF_ADMIT_CTRL : Nat := 0x10C
/-- RLF_INGEST_BUDGET (03 R111). -/
abbrev RLF_INGEST_BUDGET : Nat := 0x110
/-- RLF_EGRESS_BUDGET (03 R111). -/
abbrev RLF_EGRESS_BUDGET : Nat := 0x114
/-- RLF_INGEST_FREE (03 R111). -/
abbrev RLF_INGEST_FREE : Nat := 0x118
/-- RLF_EGRESS_FREE (03 R111). -/
abbrev RLF_EGRESS_FREE : Nat := 0x11C
/-- RLF_OUTCOME_RETAIN (03 R111). -/
abbrev RLF_OUTCOME_RETAIN : Nat := 0x120
/-- RLF_QUEUE_SEL (03 R111). -/
abbrev RLF_QUEUE_SEL : Nat := 0x124
/-- RLF_QUEUE_INFO (03 R111). -/
abbrev RLF_QUEUE_INFO : Nat := 0x128
/-- RLF_QUEUE_TAGS (03 R111). -/
abbrev RLF_QUEUE_TAGS : Nat := 0x12C
/-- RLF_CNT_RESET (03 R111). -/
abbrev RLF_CNT_RESET : Nat := 0x130
/-- RLF_CNT_SUPPRESSED (03 R111). -/
abbrev RLF_CNT_SUPPRESSED : Nat := 0x134
/-- RLF_CNT_EPOCH_STALE (03 R111). -/
abbrev RLF_CNT_EPOCH_STALE : Nat := 0x138
/-- RLF_CNT_TAG_IN_USE (03 R111). -/
abbrev RLF_CNT_TAG_IN_USE : Nat := 0x13C
/-- RLF_CNT_ADMISSION (03 R111). -/
abbrev RLF_CNT_ADMISSION : Nat := 0x140
/-- RLF_CNT_DRAIN (03 R111). -/
abbrev RLF_CNT_DRAIN : Nat := 0x144
/-- RLF_CNT_QUEUE_REFUSED (03 R111). -/
abbrev RLF_CNT_QUEUE_REFUSED : Nat := 0x148
/-- RLF_CNT_IDLE_CLOSE (03 R111). -/
abbrev RLF_CNT_IDLE_CLOSE : Nat := 0x14C

/-! ### RST registers -/
/-- RST_CAUSE (15 R419). -/
abbrev RST_CAUSE : Nat := 0x100
/-- RST_CROSS (15 R419). -/
abbrev RST_CROSS : Nat := 0x104
/-- RST_TARGET (15 R419). -/
abbrev RST_TARGET : Nat := 0x108
/-- RST_REQ (15 R419). -/
abbrev RST_REQ : Nat := 0x10C
/-- RST_STATUS (15 R419). -/
abbrev RST_STATUS : Nat := 0x110
/-- RST_CNT_UNIT (15 R419). -/
abbrev RST_CNT_UNIT : Nat := 0x114
/-- RST_CNT_WYTHE (15 R419). -/
abbrev RST_CNT_WYTHE : Nat := 0x118
/-- RST_CNT_WATCHDOG (15 R419). -/
abbrev RST_CNT_WATCHDOG : Nat := 0x11C

/-! ### SVC registers -/
/-- SVC_STATUS (17 R464). -/
abbrev SVC_STATUS : Nat := 0x100
/-- SVC_RIGHTS (17 R464). -/
abbrev SVC_RIGHTS : Nat := 0x104
/-- SVC_EXPIRY_LO (17 R464). -/
abbrev SVC_EXPIRY_LO : Nat := 0x108
/-- SVC_EXPIRY_HI (17 R464). -/
abbrev SVC_EXPIRY_HI : Nat := 0x10C
/-- SVC_AUTHORITIES (17 R464). -/
abbrev SVC_AUTHORITIES : Nat := 0x110
/-- SVC_CNT_SESSIONS (17 R464). -/
abbrev SVC_CNT_SESSIONS : Nat := 0x120
/-- SVC_CNT_EXPIRED (17 R464). -/
abbrev SVC_CNT_EXPIRED : Nat := 0x124
/-- SVC_CNT_BAD_SIG (17 R464). -/
abbrev SVC_CNT_BAD_SIG : Nat := 0x128
/-- SVC_CNT_REPLAY (17 R464). -/
abbrev SVC_CNT_REPLAY : Nat := 0x12C
/-- SVC_CNT_WRONG_BRICK (17 R464). -/
abbrev SVC_CNT_WRONG_BRICK : Nat := 0x130

/-! ### TIE registers -/
/-- TIE_STATUS (19 R492). -/
abbrev TIE_STATUS : Nat := 0x100
/-- TIE_HB_AGE (19 R492). -/
abbrev TIE_HB_AGE : Nat := 0x104
/-- TIE_MIRROR_LAG (19 R492). -/
abbrev TIE_MIRROR_LAG : Nat := 0x108
/-- TIE_SYNC_STATE (19 R492). -/
abbrev TIE_SYNC_STATE : Nat := 0x10C
/-- TIE_CNT_HB_MISS (19 R492). -/
abbrev TIE_CNT_HB_MISS : Nat := 0x120
/-- TIE_CNT_RETRY (19 R492). -/
abbrev TIE_CNT_RETRY : Nat := 0x124
/-- TIE_CNT_LANE_DOWN (19 R492). -/
abbrev TIE_CNT_LANE_DOWN : Nat := 0x128
/-- TIE_CNT_MIRROR (19 R492). -/
abbrev TIE_CNT_MIRROR : Nat := 0x12C
/-- TIE_CNT_PEER_READ (19 R492). -/
abbrev TIE_CNT_PEER_READ : Nat := 0x130

/-! ### TIL registers -/
/-- TIL_KIND (21 R517). -/
abbrev TIL_KIND : Nat := 0x100
/-- TIL_LAST_FAULT (21 R517). -/
abbrev TIL_LAST_FAULT : Nat := 0x104
/-- TIL_TEST_TIME (21 R517). -/
abbrev TIL_TEST_TIME : Nat := 0x108
/-- TIL_CNT_JOBS (21 R517). -/
abbrev TIL_CNT_JOBS : Nat := 0x10C
/-- TIL_CNT_FAULT (21 R517). -/
abbrev TIL_CNT_FAULT : Nat := 0x110
/-- TIL_CNT_RETRIED (21 R517). -/
abbrev TIL_CNT_RETRIED : Nat := 0x114

/-! ### TST registers -/
/-- TST_STATUS (21 R518). -/
abbrev TST_STATUS : Nat := 0x100
/-- TST_CTRL (21 R518). -/
abbrev TST_CTRL : Nat := 0x104
/-- TST_TARGET (21 R518). -/
abbrev TST_TARGET : Nat := 0x108
/-- TST_RESULT (21 R518). -/
abbrev TST_RESULT : Nat := 0x10C
/-- TST_DRAM_MARKED (21 R518). -/
abbrev TST_DRAM_MARKED : Nat := 0x110
/-- TST_DRAM_RETIRED (21 R518). -/
abbrev TST_DRAM_RETIRED : Nat := 0x114
/-- TST_ACTIVE (21 R518). -/
abbrev TST_ACTIVE : Nat := 0x118
/-- TST_CNT_RUN (21 R518). -/
abbrev TST_CNT_RUN : Nat := 0x11C
/-- TST_CNT_FAIL (21 R518). -/
abbrev TST_CNT_FAIL : Nat := 0x120
/-- TST_CNT_REFUSED (21 R518). -/
abbrev TST_CNT_REFUSED : Nat := 0x124

/-- PAGE_ID of the common page header (R404). -/
abbrev PAGE_ID : Nat := 0x000
/-- PAGE_REV of the common page header (R404). -/
abbrev PAGE_REV : Nat := 0x004
/-- PAGE_CTRL of the common page header (R404). -/
abbrev PAGE_CTRL : Nat := 0x008
/-- PAGE_STATE of the common page header (R404). -/
abbrev PAGE_STATE : Nat := 0x00C
/-- EVT_STATUS of the common page header (R404). -/
abbrev EVT_STATUS : Nat := 0x010
/-- EVT_ENABLE of the common page header (R404). -/
abbrev EVT_ENABLE : Nat := 0x014
/-- EVT_FORCE of the common page header (R404). -/
abbrev EVT_FORCE : Nat := 0x018
/-- ERR_CODE of the common page header (R404). -/
abbrev ERR_CODE : Nat := 0x01C
/-- ERR_INFO0 of the common page header (R404). -/
abbrev ERR_INFO0 : Nat := 0x020
/-- ERR_INFO1 of the common page header (R404). -/
abbrev ERR_INFO1 : Nat := 0x024
/-- ERR_COUNT of the common page header (R404). -/
abbrev ERR_COUNT : Nat := 0x028
/-- PAGE_LOCK of the common page header (R404). -/
abbrev PAGE_LOCK : Nat := 0x02C

/-! ### Event bits -/

/-- RLF EVT_STATUS.ADMIT_TIMEOUT. -/
abbrev RLF_EVT_ADMIT_TIMEOUT : Nat := 1
/-- RLF EVT_STATUS.QUEUE_LIMIT. -/
abbrev RLF_EVT_QUEUE_LIMIT : Nat := 2
/-- CIP EVT_STATUS.CTR_HIGH. -/
abbrev CIP_EVT_CTR_HIGH : Nat := 1
/-- CIP EVT_STATUS.CTR_EXHAUSTED. -/
abbrev CIP_EVT_CTR_EXHAUSTED : Nat := 2
/-- CIP EVT_STATUS.TAG_FAIL. -/
abbrev CIP_EVT_TAG_FAIL : Nat := 3
/-- CIP EVT_STATUS.UNWRAP_FAIL. -/
abbrev CIP_EVT_UNWRAP_FAIL : Nat := 4
/-- CIP EVT_STATUS.RESV_FAIL. -/
abbrev CIP_EVT_RESV_FAIL : Nat := 5
/-- CIP EVT_STATUS.DOMAIN_CHANGED. -/
abbrev CIP_EVT_DOMAIN_CHANGED : Nat := 6
/-- MTR EVT_STATUS.EPOCH_CHANGED. -/
abbrev MTR_EVT_EPOCH_CHANGED : Nat := 1
/-- MTR EVT_STATUS.LEASE_LOST. -/
abbrev MTR_EVT_LEASE_LOST : Nat := 2
/-- MTR EVT_STATUS.JOIN_DONE. -/
abbrev MTR_EVT_JOIN_DONE : Nat := 3
/-- MTR EVT_STATUS.JOIN_REFUSED. -/
abbrev MTR_EVT_JOIN_REFUSED : Nat := 4
/-- MTR EVT_STATUS.FLOW_BROKEN. -/
abbrev MTR_EVT_FLOW_BROKEN : Nat := 5
/-- MTR EVT_STATUS.SYNC_LOST. -/
abbrev MTR_EVT_SYNC_LOST : Nat := 6
/-- MTR EVT_STATUS.ARM_NO_QUORUM. -/
abbrev MTR_EVT_ARM_NO_QUORUM : Nat := 7
/-- MED EVT_STATUS.SLC_LOW. -/
abbrev MED_EVT_SLC_LOW : Nat := 1
/-- MED EVT_STATUS.SLC_AT_MAX. -/
abbrev MED_EVT_SLC_AT_MAX : Nat := 2
/-- MED EVT_STATUS.ANCHOR_SINGLE. -/
abbrev MED_EVT_ANCHOR_SINGLE : Nat := 3
/-- MED EVT_STATUS.DUMP_LOW. -/
abbrev MED_EVT_DUMP_LOW : Nat := 4
/-- MED EVT_STATUS.TAG_CRC. -/
abbrev MED_EVT_TAG_CRC : Nat := 5
/-- MED EVT_STATUS.ROUND_FAIL. -/
abbrev MED_EVT_ROUND_FAIL : Nat := 6
/-- CHN EVT_STATUS.PNE. -/
abbrev CHN_EVT_PNE : Nat := 1
/-- CHN EVT_STATUS.PROG_FAIL. -/
abbrev CHN_EVT_PROG_FAIL : Nat := 2
/-- CHN EVT_STATUS.ERASE_FAIL. -/
abbrev CHN_EVT_ERASE_FAIL : Nat := 3
/-- CHN EVT_STATUS.TIMEOUT. -/
abbrev CHN_EVT_TIMEOUT : Nat := 4
/-- CHN EVT_STATUS.OWNER_CHANGED. -/
abbrev CHN_EVT_OWNER_CHANGED : Nat := 5
/-- CHN EVT_STATUS.INTENT_REFUSED. -/
abbrev CHN_EVT_INTENT_REFUSED : Nat := 6
/-- CRS EVT_STATUS.SRAM_UNCORR. -/
abbrev CRS_EVT_SRAM_UNCORR : Nat := 1
/-- CRS EVT_STATUS.LIMIT_HELD. -/
abbrev CRS_EVT_LIMIT_HELD : Nat := 2
/-- CRS EVT_STATUS.RETRY_TABLE. -/
abbrev CRS_EVT_RETRY_TABLE : Nat := 3
/-- BPM EVT_STATUS.POOL_EMPTY. -/
abbrev BPM_EVT_POOL_EMPTY : Nat := 1
/-- BPM EVT_STATUS.RESERVE_USED. -/
abbrev BPM_EVT_RESERVE_USED : Nat := 2
/-- BPM EVT_STATUS.FREE_REFUSED. -/
abbrev BPM_EVT_FREE_REFUSED : Nat := 3
/-- BPM EVT_STATUS.WAIT_FULL. -/
abbrev BPM_EVT_WAIT_FULL : Nat := 4
/-- MAC EVT_STATUS.LINK_CHANGE. -/
abbrev MAC_EVT_LINK_CHANGE : Nat := 1
/-- MAC EVT_STATUS.UNDERRUN. -/
abbrev MAC_EVT_UNDERRUN : Nat := 2
/-- MAC EVT_STATUS.PFC_STORM. -/
abbrev MAC_EVT_PFC_STORM : Nat := 3
/-- MAC EVT_STATUS.LPI_CHANGE. -/
abbrev MAC_EVT_LPI_CHANGE : Nat := 4
/-- PTP EVT_STATUS.TS_LOST. -/
abbrev PTP_EVT_TS_LOST : Nat := 1
/-- PTP EVT_STATUS.PPS_MISS. -/
abbrev PTP_EVT_PPS_MISS : Nat := 2
/-- RDM EVT_STATUS.RETRY_EXCEEDED. -/
abbrev RDM_EVT_RETRY_EXCEEDED : Nat := 1
/-- RDM EVT_STATUS.CM_REJECT. -/
abbrev RDM_EVT_CM_REJECT : Nat := 2
/-- RDM EVT_STATUS.ICRC. -/
abbrev RDM_EVT_ICRC : Nat := 3
/-- GLB EVT_STATUS.ACCESS_ERR. -/
abbrev GLB_EVT_ACCESS_ERR : Nat := 1
/-- GLB EVT_STATUS.PEER_CHANGE. -/
abbrev GLB_EVT_PEER_CHANGE : Nat := 2
/-- GLB EVT_STATUS.PLINTH_LOST. -/
abbrev GLB_EVT_PLINTH_LOST : Nat := 3
/-- GLB EVT_STATUS.FLR. -/
abbrev GLB_EVT_FLR : Nat := 4
/-- PWR EVT_STATUS.STATE_CHANGE. -/
abbrev PWR_EVT_STATE_CHANGE : Nat := 1
/-- PWR EVT_STATUS.INPUT_LOST. -/
abbrev PWR_EVT_INPUT_LOST : Nat := 2
/-- PWR EVT_STATUS.HOLDUP_LOW. -/
abbrev PWR_EVT_HOLDUP_LOW : Nat := 3
/-- RST EVT_STATUS.REQ_DONE. -/
abbrev RST_EVT_REQ_DONE : Nat := 1
/-- RST EVT_STATUS.REQ_REFUSED. -/
abbrev RST_EVT_REQ_REFUSED : Nat := 2
/-- RST EVT_STATUS.PEER_HELD. -/
abbrev RST_EVT_PEER_HELD : Nat := 3
/-- PLT EVT_STATUS.SOURCE_CHANGE. -/
abbrev PLT_EVT_SOURCE_CHANGE : Nat := 1
/-- PLT EVT_STATUS.AUX_LOST. -/
abbrev PLT_EVT_AUX_LOST : Nat := 2
/-- PLT EVT_STATUS.KEYSTORE_FAULT. -/
abbrev PLT_EVT_KEYSTORE_FAULT : Nat := 3
/-- PLT EVT_STATUS.OPTIONS_DEFAULTED. -/
abbrev PLT_EVT_OPTIONS_DEFAULTED : Nat := 4
/-- PLT EVT_STATUS.SELF_RESET. -/
abbrev PLT_EVT_SELF_RESET : Nat := 5
/-- PFL EVT_STATUS.REQ_DONE. -/
abbrev PFL_EVT_REQ_DONE : Nat := 1
/-- PFL EVT_STATUS.REFUSED. -/
abbrev PFL_EVT_REFUSED : Nat := 2
/-- PFL EVT_STATUS.UNCORR. -/
abbrev PFL_EVT_UNCORR : Nat := 3
/-- PFL EVT_STATUS.SECTOR_RETIRED. -/
abbrev PFL_EVT_SECTOR_RETIRED : Nat := 4
/-- EVR EVT_STATUS.FULL. -/
abbrev EVR_EVT_FULL : Nat := 1
/-- EVR EVT_STATUS.DROPPED. -/
abbrev EVR_EVT_DROPPED : Nat := 2
/-- EVR EVT_STATUS.CRITICAL. -/
abbrev EVR_EVT_CRITICAL : Nat := 3
/-- EVR EVT_STATUS.CLEARED. -/
abbrev EVR_EVT_CLEARED : Nat := 4
/-- FPN EVT_STATUS.BUTTON. -/
abbrev FPN_EVT_BUTTON : Nat := 1
/-- FPN EVT_STATUS.LATCH_CHANGE. -/
abbrev FPN_EVT_LATCH_CHANGE : Nat := 2
/-- FPN EVT_STATUS.LOCATE_ACK. -/
abbrev FPN_EVT_LOCATE_ACK : Nat := 3
/-- FPN EVT_STATUS.REMOVE_CHANGE. -/
abbrev FPN_EVT_REMOVE_CHANGE : Nat := 4
/-- FPN EVT_STATUS.SURPRISE. -/
abbrev FPN_EVT_SURPRISE : Nat := 5
/-- FPN EVT_STATUS.MATING_HIGH. -/
abbrev FPN_EVT_MATING_HIGH : Nat := 6
/-- SVC EVT_STATUS.SESSION_OPEN. -/
abbrev SVC_EVT_SESSION_OPEN : Nat := 1
/-- SVC EVT_STATUS.SESSION_END. -/
abbrev SVC_EVT_SESSION_END : Nat := 2
/-- SVC EVT_STATUS.TICKET_REFUSED. -/
abbrev SVC_EVT_TICKET_REFUSED : Nat := 3
/-- HLT EVT_STATUS.EARLY_WARN. -/
abbrev HLT_EVT_EARLY_WARN : Nat := 1
/-- HLT EVT_STATUS.CAP_TEST_DONE. -/
abbrev HLT_EVT_CAP_TEST_DONE : Nat := 2
/-- HLT EVT_STATUS.CAP_LOW. -/
abbrev HLT_EVT_CAP_LOW : Nat := 3
/-- HLT EVT_STATUS.TEMP_HIGH. -/
abbrev HLT_EVT_TEMP_HIGH : Nat := 4
/-- HLT EVT_STATUS.EOL_CHANGED. -/
abbrev HLT_EVT_EOL_CHANGED : Nat := 5
/-- CLK EVT_STATUS.UNLOCK. -/
abbrev CLK_EVT_UNLOCK : Nat := 1
/-- CLK EVT_STATUS.MON_FAIL. -/
abbrev CLK_EVT_MON_FAIL : Nat := 2
/-- CLK EVT_STATUS.THROTTLE. -/
abbrev CLK_EVT_THROTTLE : Nat := 3
/-- TIE EVT_STATUS.HB_LOST. -/
abbrev TIE_EVT_HB_LOST : Nat := 1
/-- TIE EVT_STATUS.NARROW. -/
abbrev TIE_EVT_NARROW : Nat := 2
/-- TIE EVT_STATUS.LINK_DOWN. -/
abbrev TIE_EVT_LINK_DOWN : Nat := 3
/-- TIE EVT_STATUS.SYNC_DONE. -/
abbrev TIE_EVT_SYNC_DONE : Nat := 4
/-- FWU EVT_STATUS.STAGED. -/
abbrev FWU_EVT_STAGED : Nat := 1
/-- FWU EVT_STATUS.COMMITTED. -/
abbrev FWU_EVT_COMMITTED : Nat := 2
/-- FWU EVT_STATUS.FALLBACK. -/
abbrev FWU_EVT_FALLBACK : Nat := 3
/-- FWU EVT_STATUS.REFUSED. -/
abbrev FWU_EVT_REFUSED : Nat := 4
/-- FWU EVT_STATUS.ABANDONED. -/
abbrev FWU_EVT_ABANDONED : Nat := 5
/-- UNIT EVT_STATUS.FAULT. -/
abbrev UNIT_EVT_FAULT : Nat := 1
/-- UNIT EVT_STATUS.TEST_DONE. -/
abbrev UNIT_EVT_TEST_DONE : Nat := 2
/-- TST EVT_STATUS.DONE. -/
abbrev TST_EVT_DONE : Nat := 1
/-- TST EVT_STATUS.FAIL. -/
abbrev TST_EVT_FAIL : Nat := 2
/-- TST EVT_STATUS.DRAM_MARKED. -/
abbrev TST_EVT_DRAM_MARKED : Nat := 3

end Sys2Proof.Machine
end

