-- ==== Sys2Proof/Machine/RegTable.lean ====
section
/-! DEFINITION. The register maps of every page (the page-map tables of 03, 06, 07, 10, 12 to 21), transcribed row by row:
offset within the page, access code (R9), reset value, and for a register that takes writes the fields that are not
reserved with their ranges. Each row carries the register's name in a comment. A reset value that the spec gives as
"from calibration", "per wythe" or "per start" stands as zero here (DESIGN CHOICE, log 4). -/

namespace Sys2Proof.Machine

/-- An access code of R9; `rws` is a shadowed RW register (R410). -/
inductive Acc where
  | ro | rw | rws | rc | rw1c | wo | ws
  deriving DecidableEq, Repr

/-- One register of a page map: offset, access, reset value, and its writable fields as (high, low, least, greatest). -/
structure RegRow where
  off    : Nat
  acc    : Acc
  reset  : Nat
  fields : List (Nat × Nat × Nat × Nat)
  deriving DecidableEq, Repr

/-- The BPM page map (13, R369). -/
def rowsBpm : List RegRow :=
  [⟨0x100, .ro, 0x0, []⟩,  -- BPM_STATUS
   ⟨0x104, .rws, 0xF, [(4, 0, 0, 31)]⟩,  -- BPM_CTRL
   ⟨0x108, .ro, 0x0, []⟩,  -- BPM_RR_PTR
   ⟨0x10C, .ro, 0x0, []⟩,  -- BPM_WAITING
   ⟨0x110, .rw, 0x0, [(2, 0, 0, 7)]⟩,  -- BPM_BUF_SEL
   ⟨0x114, .rw, 0x0, [(23, 0, 0, 16777215)]⟩,  -- BPM_BUF_IDX
   ⟨0x118, .ro, 0x0, []⟩,  -- BPM_BUF_INFO
   ⟨0x140, .ro, 0x400000, []⟩,  -- BPM_P0_COUNT
   ⟨0x144, .ro, 0x0, []⟩,  -- BPM_P0_FREE
   ⟨0x148, .rws, 0x10000, [(24, 0, 0, 33554431)]⟩,  -- BPM_P0_RESERVE
   ⟨0x14C, .rc, 0x0, []⟩,  -- BPM_P0_LOW
   ⟨0x150, .ro, 0x100000, []⟩,  -- BPM_P1_COUNT
   ⟨0x154, .ro, 0x0, []⟩,  -- BPM_P1_FREE
   ⟨0x158, .rws, 0x4000, [(24, 0, 0, 33554431)]⟩,  -- BPM_P1_RESERVE
   ⟨0x15C, .rc, 0x0, []⟩,  -- BPM_P1_LOW
   ⟨0x160, .ro, 0x40000, []⟩,  -- BPM_P2_COUNT
   ⟨0x164, .ro, 0x0, []⟩,  -- BPM_P2_FREE
   ⟨0x168, .rws, 0x1000, [(24, 0, 0, 33554431)]⟩,  -- BPM_P2_RESERVE
   ⟨0x16C, .rc, 0x0, []⟩,  -- BPM_P2_LOW
   ⟨0x170, .ro, 0x20000, []⟩,  -- BPM_P3_COUNT
   ⟨0x174, .ro, 0x0, []⟩,  -- BPM_P3_FREE
   ⟨0x178, .rws, 0x800, [(24, 0, 0, 33554431)]⟩,  -- BPM_P3_RESERVE
   ⟨0x17C, .rc, 0x0, []⟩,  -- BPM_P3_LOW
   ⟨0x180, .ro, 0x8000, []⟩,  -- BPM_P4_COUNT
   ⟨0x184, .ro, 0x0, []⟩,  -- BPM_P4_FREE
   ⟨0x188, .rws, 0x200, [(24, 0, 0, 33554431)]⟩,  -- BPM_P4_RESERVE
   ⟨0x18C, .rc, 0x0, []⟩,  -- BPM_P4_LOW
   ⟨0x190, .ro, 0x2000, []⟩,  -- BPM_P5_COUNT
   ⟨0x194, .ro, 0x0, []⟩,  -- BPM_P5_FREE
   ⟨0x198, .rws, 0x100, [(24, 0, 0, 33554431)]⟩,  -- BPM_P5_RESERVE
   ⟨0x19C, .rc, 0x0, []⟩,  -- BPM_P5_LOW
   ⟨0x1A0, .ro, 0x0, []⟩,  -- BPM_CNT_ALLOC
   ⟨0x1A4, .ro, 0x0, []⟩,  -- BPM_CNT_NO_BUFFER
   ⟨0x1A8, .ro, 0x0, []⟩,  -- BPM_CNT_FALLBACK
   ⟨0x1AC, .ro, 0x0, []⟩,  -- BPM_CNT_WAIT
   ⟨0x1B0, .ro, 0x0, []⟩,  -- BPM_CNT_RESERVE_USE
   ⟨0x1B4, .ro, 0x0, []⟩,  -- BPM_CNT_DOUBLE_FREE
   ⟨0x1B8, .ro, 0x0, []⟩,  -- BPM_CNT_NOT_OWNER
   ⟨0x1BC, .ro, 0x0, []⟩,  -- BPM_CNT_STALE
   ⟨0x1C0, .ro, 0x0, []⟩]  -- BPM_CNT_CONTEND

/-- The CHN page map (12, R356). -/
def rowsChn : List RegRow :=
  [⟨0x100, .ro, 0x0, []⟩,  -- CHN_OWNER
   ⟨0x104, .wo, 0x0, []⟩,  -- CHN_OWN_CTRL
   ⟨0x108, .ro, 0x0, []⟩,  -- CHN_STATE
   ⟨0x10C, .rws, 0x1902001, [(0, 0, 0, 1), (13, 8, 1, 32), (27, 16, 400, 2000)]⟩,  -- CHN_SUSPEND_CTRL
   ⟨0x110, .rw, 0x0, [(4, 0, 0, 31)]⟩,  -- CHN_DIE_SEL
   ⟨0x114, .ro, 0x0, []⟩,  -- CHN_DIE_STATUS
   ⟨0x118, .ro, 0x0, []⟩,  -- CHN_QUEUE
   ⟨0x120, .ro, 0x0, []⟩,  -- CHN_CNT_READ
   ⟨0x124, .ro, 0x0, []⟩,  -- CHN_CNT_PROG
   ⟨0x128, .ro, 0x0, []⟩,  -- CHN_CNT_ERASE
   ⟨0x12C, .ro, 0x0, []⟩,  -- CHN_CNT_RETRY
   ⟨0x130, .ro, 0x0, []⟩,  -- CHN_CNT_UNCORR
   ⟨0x134, .ro, 0x0, []⟩,  -- CHN_CNT_PNE
   ⟨0x138, .ro, 0x0, []⟩,  -- CHN_CNT_PROG_FAIL
   ⟨0x13C, .ro, 0x0, []⟩,  -- CHN_CNT_ERASE_FAIL
   ⟨0x140, .ro, 0x0, []⟩,  -- CHN_CNT_SUSPEND
   ⟨0x144, .ro, 0x0, []⟩,  -- CHN_CNT_TIMEOUT
   ⟨0x148, .ro, 0x0, []⟩,  -- CHN_CNT_BLANK_CHECK
   ⟨0x14C, .ro, 0x0, []⟩,  -- CHN_CNT_INTENT_REFUSED
   ⟨0x150, .ro, 0x0, []⟩]  -- CHN_CNT_OWNER_CHANGE

/-- The CIP page map (06, R189). -/
def rowsCip : List RegRow :=
  [⟨0x100, .ro, 0x0, []⟩,  -- CIP_STATUS
   ⟨0x104, .ro, 0x0, []⟩,  -- CIP_IV_DOMAIN
   ⟨0x108, .rws, 0x501, [(0, 0, 0, 1), (14, 8, 1, 100)]⟩,  -- CIP_SCHED_CTRL
   ⟨0x10C, .ro, 0x0, []⟩,  -- CIP_KEY_CACHE
   ⟨0x110, .rw, 0x0, [(31, 0, 0, 4294967295)]⟩,  -- CIP_SLOT_SEL_KS
   ⟨0x114, .rw, 0x0, [(15, 0, 0, 65535)]⟩,  -- CIP_SLOT_SEL_VER
   ⟨0x118, .ro, 0x0, []⟩,  -- CIP_SLOT_INFO
   ⟨0x11C, .ro, 0x0, []⟩,  -- CIP_CTR_NEXT_LO
   ⟨0x120, .ro, 0x0, []⟩,  -- CIP_CTR_NEXT_HI
   ⟨0x124, .ro, 0x0, []⟩,  -- CIP_RESV_THRU_LO
   ⟨0x128, .ro, 0x0, []⟩,  -- CIP_RESV_THRU_HI
   ⟨0x12C, .ro, 0x0, []⟩,  -- CIP_SLOTS_CURRENT
   ⟨0x130, .ro, 0x0, []⟩,  -- CIP_SLOTS_TOTAL
   ⟨0x134, .ro, 0x0, []⟩,  -- CIP_CTX_BUSY
   ⟨0x140, .ro, 0x0, []⟩,  -- CIP_CNT_ENCRYPT
   ⟨0x144, .ro, 0x0, []⟩,  -- CIP_CNT_DECRYPT
   ⟨0x148, .ro, 0x0, []⟩,  -- CIP_CNT_TAG_FAIL
   ⟨0x14C, .ro, 0x0, []⟩,  -- CIP_CNT_SUSPEND
   ⟨0x150, .ro, 0x0, []⟩,  -- CIP_CNT_RESERVE
   ⟨0x154, .ro, 0x0, []⟩,  -- CIP_CNT_RESV_WAIT
   ⟨0x158, .ro, 0x0, []⟩,  -- CIP_CNT_REFUSED
   ⟨0x15C, .ro, 0x0, []⟩,  -- CIP_CNT_KEY_MISS
   ⟨0x160, .ro, 0x0, []⟩]  -- CIP_CNT_UNWRAP_FAIL

/-- The CLK page map (19, R491). -/
def rowsClk : List RegRow :=
  [⟨0x100, .ro, 0x0, []⟩,  -- CLK_STATUS
   ⟨0x104, .ro, 0x1C20, []⟩,  -- CLK_ROOT
   ⟨0x108, .ro, 0x486542, []⟩,  -- CLK_DIV
   ⟨0x10C, .ro, 0x1C20, []⟩,  -- CLK_DRAM_RATE
   ⟨0x110, .ro, 0x0, []⟩,  -- CLK_MON_PPM
   ⟨0x114, .rws, 0x1F4, [(11, 0, 100, 2000)]⟩,  -- CLK_MON_CTRL
   ⟨0x118, .ro, 0x0, []⟩,  -- CLK_GATED
   ⟨0x120, .ro, 0x0, []⟩,  -- CLK_CNT_UNLOCK
   ⟨0x124, .ro, 0x0, []⟩,  -- CLK_CNT_MON_FAIL
   ⟨0x128, .ro, 0x0, []⟩]  -- CLK_CNT_THROTTLE

/-- The CRSC page map (21, R517). -/
def rowsCrsc : List RegRow :=
  [⟨0x140, .ro, 0xFF, []⟩,  -- CRS_C_TILES
   ⟨0x144, .ro, 0x0, []⟩,  -- CRS_C_QUEUE
   ⟨0x148, .ro, 0x0, []⟩,  -- CRS_CNT_JOBS
   ⟨0x14C, .ro, 0x0, []⟩,  -- CRS_CNT_PASSED
   ⟨0x150, .ro, 0x0, []⟩,  -- CRS_CNT_SRAM_UNCORR
   ⟨0x154, .ro, 0x0, []⟩]  -- CRS_TEST_TIME

/-- The CRSM page map (12, R357). -/
def rowsCrsm : List RegRow :=
  [⟨0x100, .ro, 0x1, []⟩,  -- CRS_KIND
   ⟨0x104, .ro, 0xFF, []⟩,  -- CRS_TILES
   ⟨0x108, .ro, 0x0, []⟩,  -- CRS_MEDIA_MAP
   ⟨0x10C, .rws, 0x400, [(10, 0, 64, 1024)]⟩,  -- CRS_CHISEL_CTRL
   ⟨0x110, .ro, 0x0, []⟩,  -- CRS_CHISEL_OUT
   ⟨0x114, .ro, 0x0, []⟩,  -- CRS_RETRY_VER
   ⟨0x120, .ro, 0x0, []⟩,  -- CRS_CNT_ACCEPTED
   ⟨0x124, .ro, 0x0, []⟩,  -- CRS_CNT_HELD
   ⟨0x128, .ro, 0x0, []⟩,  -- CRS_CNT_FORWARDED
   ⟨0x12C, .ro, 0x0, []⟩,  -- CRS_CNT_ABANDONED
   ⟨0x130, .ro, 0x0, []⟩,  -- CRS_CNT_REFUSED
   ⟨0x134, .ro, 0x0, []⟩,  -- CRS_CNT_LDPC_CORR
   ⟨0x138, .ro, 0x0, []⟩]  -- CRS_CNT_CRC_FAIL

/-- The EVR page map (16, R447). -/
def rowsEvr : List RegRow :=
  [⟨0x100, .ro, 0x0, []⟩,  -- EVR_STATUS
   ⟨0x104, .ro, 0x0, []⟩,  -- EVR_COUNT
   ⟨0x108, .ro, 0x20000, []⟩,  -- EVR_CAPACITY
   ⟨0x10C, .rw, 0x0, [(31, 0, 0, 4294967295)]⟩,  -- EVR_CURSOR_LO
   ⟨0x110, .rw, 0x0, [(31, 0, 0, 4294967295)]⟩,  -- EVR_CURSOR_HI
   ⟨0x114, .ro, 0x0, []⟩,  -- EVR_FIRST_LO
   ⟨0x118, .ro, 0x0, []⟩,  -- EVR_FIRST_HI
   ⟨0x11C, .ro, 0x0, []⟩,  -- EVR_NEXT_LO
   ⟨0x120, .ro, 0x0, []⟩,  -- EVR_NEXT_HI
   ⟨0x124, .ro, 0x0, []⟩,  -- EVR_HELD0
   ⟨0x128, .ro, 0x0, []⟩,  -- EVR_HELD1
   ⟨0x12C, .ro, 0x0, []⟩,  -- EVR_HELD2
   ⟨0x130, .ro, 0x0, []⟩,  -- EVR_HELD3
   ⟨0x140, .ro, 0x0, []⟩,  -- EVR_WINDOW0
   ⟨0x144, .ro, 0x0, []⟩,  -- EVR_WINDOW1
   ⟨0x148, .ro, 0x0, []⟩,  -- EVR_WINDOW2
   ⟨0x14C, .ro, 0x0, []⟩,  -- EVR_WINDOW3
   ⟨0x150, .ro, 0x0, []⟩,  -- EVR_WINDOW4
   ⟨0x154, .ro, 0x0, []⟩,  -- EVR_WINDOW5
   ⟨0x158, .ro, 0x0, []⟩,  -- EVR_WINDOW6
   ⟨0x15C, .ro, 0x0, []⟩,  -- EVR_WINDOW7
   ⟨0x160, .ro, 0x0, []⟩,  -- EVR_WINDOW8
   ⟨0x164, .ro, 0x0, []⟩,  -- EVR_WINDOW9
   ⟨0x168, .ro, 0x0, []⟩,  -- EVR_WINDOW10
   ⟨0x16C, .ro, 0x0, []⟩,  -- EVR_WINDOW11
   ⟨0x170, .ro, 0x0, []⟩,  -- EVR_WINDOW12
   ⟨0x174, .ro, 0x0, []⟩,  -- EVR_WINDOW13
   ⟨0x178, .ro, 0x0, []⟩,  -- EVR_WINDOW14
   ⟨0x17C, .ro, 0x0, []⟩,  -- EVR_WINDOW15
   ⟨0x180, .ro, 0x0, []⟩,  -- EVR_CNT_DROP0
   ⟨0x184, .ro, 0x0, []⟩,  -- EVR_CNT_DROP1
   ⟨0x188, .ro, 0x0, []⟩,  -- EVR_CNT_DROP2
   ⟨0x18C, .ro, 0x0, []⟩,  -- EVR_CNT_DROP3
   ⟨0x190, .ro, 0x0, []⟩,  -- EVR_CNT_WRITTEN
   ⟨0x194, .ro, 0x0, []⟩]  -- EVR_CNT_REPLACED

/-- The FPN page map (17, R463). -/
def rowsFpn : List RegRow :=
  [⟨0x100, .ro, 0x0, []⟩,  -- FPN_STATUS
   ⟨0x104, .ro, 0x0, []⟩,  -- FPN_SLOT
   ⟨0x108, .rws, 0x3C0A03, [(0, 0, 0, 1), (1, 1, 0, 1), (15, 8, 1, 255), (23, 16, 10, 255)]⟩,  -- FPN_CTRL
   ⟨0x10C, .rw, 0x0, [(0, 0, 0, 1)]⟩,  -- FPN_LOCATE
   ⟨0x110, .wo, 0x0, []⟩,  -- FPN_REMOVE
   ⟨0x114, .rw, 0x0, [(2, 0, 0, 7)]⟩,  -- FPN_LABEL_PAGE
   ⟨0x118, .ro, 0x0, []⟩,  -- FPN_MATING
   ⟨0x120, .ro, 0x0, []⟩,  -- FPN_CNT_PRESS
   ⟨0x124, .ro, 0x0, []⟩,  -- FPN_CNT_HOLD
   ⟨0x128, .ro, 0x0, []⟩,  -- FPN_CNT_TOUCH
   ⟨0x12C, .ro, 0x0, []⟩,  -- FPN_CNT_LATCH_OPEN
   ⟨0x130, .ro, 0x0, []⟩,  -- FPN_CNT_SURPRISE
   ⟨0x134, .ro, 0x0, []⟩]  -- FPN_CNT_LABEL_REFRESH

/-- The FWU page map (20, R509). -/
def rowsFwu : List RegRow :=
  [⟨0x100, .ro, 0x0, []⟩,  -- FWU_STATUS
   ⟨0x104, .rw, 0x1, [(3, 0, 0, 15), (9, 8, 0, 3)]⟩,  -- FWU_SLOT_SEL
   ⟨0x108, .ro, 0x0, []⟩,  -- FWU_SLOT_INFO
   ⟨0x10C, .ro, 0x0, []⟩,  -- FWU_SLOT_VERSION
   ⟨0x110, .ro, 0x0, []⟩,  -- FWU_SLOT_LEVEL
   ⟨0x114, .ro, 0x0, []⟩,  -- FWU_COUNTER
   ⟨0x118, .rws, 0x3E8, [(15, 0, 1000, 60000)]⟩,  -- FWU_CTRL
   ⟨0x11C, .wo, 0x0, []⟩,  -- FWU_ACTIVATE
   ⟨0x120, .ro, 0x0, []⟩,  -- FWU_RESULT
   ⟨0x124, .ro, 0x0, []⟩,  -- FWU_SETTINGS
   ⟨0x128, .ro, 0x0, []⟩,  -- FWU_WALL_LEVELS
   ⟨0x130, .ro, 0x0, []⟩,  -- FWU_CNT_STAGED
   ⟨0x134, .ro, 0x0, []⟩,  -- FWU_CNT_COMMITTED
   ⟨0x138, .ro, 0x0, []⟩,  -- FWU_CNT_FALLBACK
   ⟨0x13C, .ro, 0x0, []⟩]  -- FWU_CNT_REFUSED

/-- The GLB page map (15, R417). -/
def rowsGlb : List RegRow :=
  [⟨0x100, .ro, 0x10410, []⟩,  -- GLB_PART
   ⟨0x104, .ro, 0x0, []⟩,  -- GLB_WYTHE
   ⟨0x108, .ro, 0x0, []⟩,  -- GLB_SERIAL0
   ⟨0x10C, .ro, 0x0, []⟩,  -- GLB_SERIAL1
   ⟨0x110, .ro, 0x0, []⟩,  -- GLB_SERIAL2
   ⟨0x114, .ro, 0x0, []⟩,  -- GLB_SERIAL3
   ⟨0x118, .ro, 0x0, []⟩,  -- GLB_FW_VERSION
   ⟨0x11C, .ro, 0x0, []⟩,  -- GLB_FW_LEVEL
   ⟨0x120, .ro, 0x0, []⟩,  -- GLB_START
   ⟨0x124, .ro, 0x0, []⟩,  -- GLB_HLC_LO
   ⟨0x128, .ro, 0x0, []⟩,  -- GLB_HLC_HI
   ⟨0x12C, .ro, 0x32, []⟩,  -- GLB_EXIT_PS1
   ⟨0x130, .ro, 0x7D0, []⟩,  -- GLB_EXIT_PS2
   ⟨0x134, .ro, 0x9C40, []⟩,  -- GLB_EXIT_PS3
   ⟨0x138, .ro, 0x0, []⟩,  -- GLB_EVT_SUMMARY
   ⟨0x13C, .ro, 0x0, []⟩,  -- GLB_EVT_FIRST
   ⟨0x140, .rw, 0x0, [(5, 0, 0, 63), (8, 8, 0, 1)]⟩,  -- GLB_EVT_VECTOR
   ⟨0x144, .ro, 0x0, []⟩,  -- GLB_PCIE_STATUS
   ⟨0x148, .ro, 0x0, []⟩,  -- GLB_ACCESS_ERR
   ⟨0x14C, .rw, 0x0, [(31, 0, 0, 4294967295)]⟩,  -- GLB_SCRATCH
   ⟨0x150, .ro, 0x0, []⟩,  -- GLB_CNT_UNMAPPED
   ⟨0x154, .ro, 0x0, []⟩,  -- GLB_CNT_PEER_WRITE
   ⟨0x158, .ro, 0x0, []⟩,  -- GLB_CNT_PEER_UNREACH
   ⟨0x15C, .ro, 0x0, []⟩,  -- GLB_CNT_FLR
   ⟨0x160, .ro, 0x0, []⟩]  -- GLB_CNT_ACCESS_SIZE

/-- The HLT page map (18, R474). -/
def rowsHlt : List RegRow :=
  [⟨0x100, .ro, 0x0, []⟩,  -- HLT_STATUS
   ⟨0x104, .ro, 0x0, []⟩,  -- HLT_WEAR
   ⟨0x108, .ro, 0x100, []⟩,  -- HLT_SPARE
   ⟨0x10C, .ro, 0xFFFF, []⟩,  -- HLT_EOL
   ⟨0x110, .rw, 0x0, [(4, 0, 0, 31)]⟩,  -- HLT_TEMP_SEL
   ⟨0x114, .ro, 0x0, []⟩,  -- HLT_TEMP
   ⟨0x118, .rws, 0x5, [(4, 0, 0, 20)]⟩,  -- HLT_TEMP_CTRL
   ⟨0x11C, .ro, 0x0, []⟩,  -- HLT_CAP0
   ⟨0x120, .ro, 0x0, []⟩,  -- HLT_CAP1
   ⟨0x124, .rws, 0x107, [(6, 0, 1, 90), (8, 8, 0, 1)]⟩,  -- HLT_CAP_CTRL
   ⟨0x128, .wo, 0x0, []⟩,  -- HLT_CAP_REQ
   ⟨0x12C, .rw, 0x0, [(3, 0, 0, 15)]⟩,  -- HLT_AGE_SEL
   ⟨0x130, .ro, 0x0, []⟩,  -- HLT_AGE
   ⟨0x134, .ro, 0x0, []⟩,  -- HLT_FRAG_GIB_LO
   ⟨0x138, .ro, 0x0, []⟩,  -- HLT_FRAG_GIB_HI
   ⟨0x13C, .ro, 0x0, []⟩,  -- HLT_MEDIA_GIB_LO
   ⟨0x140, .ro, 0x0, []⟩,  -- HLT_MEDIA_GIB_HI
   ⟨0x144, .rw, 0x0, [(2, 0, 0, 7)]⟩,  -- HLT_LOG_SECTION
   ⟨0x148, .rw, 0x0, [(19, 0, 0, 1048575)]⟩,  -- HLT_LOG_OFFSET
   ⟨0x14C, .ro, 0x0, []⟩,  -- HLT_LOG_DATA
   ⟨0x150, .ro, 0x0, []⟩,  -- HLT_LOG_LEN
   ⟨0x154, .ro, 0x0, []⟩,  -- HLT_CNT_CAP_TEST
   ⟨0x158, .ro, 0x0, []⟩,  -- HLT_CNT_EARLY_WARN
   ⟨0x15C, .ro, 0x0, []⟩]  -- HLT_CNT_TEMP_HIGH

/-- The MAC page map (14, R393). -/
def rowsMac : List RegRow :=
  [⟨0x100, .ro, 0x0, []⟩,  -- MAC_STATUS
   ⟨0x104, .ro, 0x0, []⟩,  -- MAC_MODE
   ⟨0x108, .ro, 0x0, []⟩,  -- MAC_ADDR_LO
   ⟨0x10C, .ro, 0x0, []⟩,  -- MAC_ADDR_HI
   ⟨0x110, .rws, 0x2400, [(14, 0, 1518, 16384)]⟩,  -- MAC_MAX_FRAME
   ⟨0x114, .rw, 0x2, [(2, 0, 0, 5)]⟩,  -- MAC_TX_THRESH
   ⟨0x118, .rws, 0x64001, [(0, 0, 0, 1), (19, 8, 1, 4000)]⟩,  -- MAC_LPI_CTRL
   ⟨0x11C, .rws, 0x3E8000A, [(15, 0, 1, 1000), (31, 16, 1, 1000)]⟩,  -- MAC_LPI_TW
   ⟨0x120, .ro, 0x0, []⟩,  -- MAC_LPI_STATE
   ⟨0x124, .rws, 0x600000, [(0, 0, 0, 1), (15, 8, 0, 255), (24, 16, 16, 384)]⟩,  -- MAC_PFC_CTRL
   ⟨0x128, .rw, 0x0, [(1, 0, 0, 2)]⟩,  -- MAC_LOOPBACK
   ⟨0x200, .ro, 0x0, []⟩,  -- MAC_CNT_RX_SIZE0
   ⟨0x204, .ro, 0x0, []⟩,  -- MAC_CNT_RX_SIZE1
   ⟨0x208, .ro, 0x0, []⟩,  -- MAC_CNT_RX_SIZE2
   ⟨0x20C, .ro, 0x0, []⟩,  -- MAC_CNT_RX_SIZE3
   ⟨0x210, .ro, 0x0, []⟩,  -- MAC_CNT_RX_SIZE4
   ⟨0x214, .ro, 0x0, []⟩,  -- MAC_CNT_RX_SIZE5
   ⟨0x218, .ro, 0x0, []⟩,  -- MAC_CNT_RX_SIZE6
   ⟨0x21C, .ro, 0x0, []⟩,  -- MAC_CNT_RX_SIZE7
   ⟨0x220, .ro, 0x0, []⟩,  -- MAC_CNT_RX_SIZE8
   ⟨0x224, .ro, 0x0, []⟩,  -- MAC_CNT_RX_SIZE9
   ⟨0x228, .ro, 0x0, []⟩,  -- MAC_CNT_RX_UCAST
   ⟨0x22C, .ro, 0x0, []⟩,  -- MAC_CNT_RX_MCAST
   ⟨0x230, .ro, 0x0, []⟩,  -- MAC_CNT_RX_BCAST
   ⟨0x234, .ro, 0x0, []⟩,  -- MAC_CNT_RX_PFC
   ⟨0x238, .ro, 0x0, []⟩,  -- MAC_CNT_RX_PAUSE
   ⟨0x23C, .ro, 0x0, []⟩,  -- MAC_CNT_RX_RUNT
   ⟨0x240, .ro, 0x0, []⟩,  -- MAC_CNT_RX_OVERSIZE
   ⟨0x244, .ro, 0x0, []⟩,  -- MAC_CNT_RX_FCS
   ⟨0x248, .ro, 0x0, []⟩,  -- MAC_CNT_RX_OVERFLOW
   ⟨0x24C, .ro, 0x0, []⟩,  -- MAC_CNT_RX_FILTERED
   ⟨0x250, .ro, 0x0, []⟩,  -- MAC_CNT_FEC_CORR
   ⟨0x254, .ro, 0x0, []⟩,  -- MAC_CNT_FEC_UNCORR
   ⟨0x258, .ro, 0x0, []⟩,  -- MAC_CNT_LINK_DOWN
   ⟨0x260, .ro, 0x0, []⟩,  -- MAC_CNT_TX_SIZE0
   ⟨0x264, .ro, 0x0, []⟩,  -- MAC_CNT_TX_SIZE1
   ⟨0x268, .ro, 0x0, []⟩,  -- MAC_CNT_TX_SIZE2
   ⟨0x26C, .ro, 0x0, []⟩,  -- MAC_CNT_TX_SIZE3
   ⟨0x270, .ro, 0x0, []⟩,  -- MAC_CNT_TX_SIZE4
   ⟨0x274, .ro, 0x0, []⟩,  -- MAC_CNT_TX_SIZE5
   ⟨0x278, .ro, 0x0, []⟩,  -- MAC_CNT_TX_SIZE6
   ⟨0x27C, .ro, 0x0, []⟩,  -- MAC_CNT_TX_SIZE7
   ⟨0x280, .ro, 0x0, []⟩,  -- MAC_CNT_TX_SIZE8
   ⟨0x284, .ro, 0x0, []⟩,  -- MAC_CNT_TX_SIZE9
   ⟨0x288, .ro, 0x0, []⟩,  -- MAC_CNT_TX_UCAST
   ⟨0x28C, .ro, 0x0, []⟩,  -- MAC_CNT_TX_MCAST
   ⟨0x290, .ro, 0x0, []⟩,  -- MAC_CNT_TX_PFC
   ⟨0x294, .ro, 0x0, []⟩,  -- MAC_CNT_TX_UNDERRUN
   ⟨0x298, .ro, 0x0, []⟩,  -- MAC_CNT_TX_OVERSIZE
   ⟨0x29C, .ro, 0x0, []⟩,  -- MAC_CNT_LPI_ENTRY
   ⟨0x2A0, .ro, 0x0, []⟩]  -- MAC_CNT_LPI_TIME

/-- The MED page map (10, R310). -/
def rowsMed : List RegRow :=
  [⟨0x100, .ro, 0x0, []⟩,  -- MED_STATUS
   ⟨0x104, .ro, 0x8004420, []⟩,  -- MED_GEOMETRY
   ⟨0x108, .rws, 0x780, [(11, 0, 640, 2560)]⟩,  -- MED_NAND_BUDGET
   ⟨0x10C, .ro, 0x3C0, []⟩,  -- MED_WYTHE_TOKENS
   ⟨0x110, .ro, 0xF000F0, []⟩,  -- MED_PANEL_FREE01
   ⟨0x114, .ro, 0xF000F0, []⟩,  -- MED_PANEL_FREE23
   ⟨0x118, .rws, 0xA141E28, [(7, 0, 0, 255), (15, 8, 0, 255), (23, 16, 0, 255), (31, 24, 0, 255)]⟩,  -- MED_CLASS_SHARE
   ⟨0x11C, .rws, 0xA193C14, [(7, 0, 20, 60), (15, 8, 20, 60), (23, 16, 5, 50), (31, 24, 1, 50)]⟩,  -- MED_SLC_CTRL
   ⟨0x120, .rws, 0x258000A, [(15, 0, 1, 600), (31, 16, 60, 65535)]⟩,  -- MED_SLC_TIMERS
   ⟨0x124, .ro, 0xA30014, []⟩,  -- MED_SLC_SHARE
   ⟨0x128, .ro, 0x0, []⟩,  -- MED_SLC_FILL
   ⟨0x12C, .rws, 0x4020203, [(0, 0, 0, 1), (1, 1, 0, 1), (12, 8, 1, 20), (19, 16, 1, 8), (27, 24, 1, 8)]⟩,  -- MED_WRITE_CTRL
   ⟨0x130, .ro, 0x0, []⟩,  -- MED_SEQ0_LO
   ⟨0x134, .ro, 0x0, []⟩,  -- MED_SEQ0_HI
   ⟨0x138, .ro, 0x0, []⟩,  -- MED_SEQ1_LO
   ⟨0x13C, .ro, 0x0, []⟩,  -- MED_SEQ1_HI
   ⟨0x140, .ro, 0x0, []⟩,  -- MED_OPEN
   ⟨0x144, .ro, 0x0, []⟩,  -- MED_ANCHOR_STATUS
   ⟨0x148, .ro, 0x0, []⟩,  -- MED_DUMP_STATUS
   ⟨0x150, .ro, 0x0, []⟩,  -- MED_CNT_SLC_ROUNDS
   ⟨0x154, .ro, 0x0, []⟩,  -- MED_CNT_QLC_ROUNDS
   ⟨0x158, .ro, 0x0, []⟩,  -- MED_CNT_FOLD_ROUNDS
   ⟨0x15C, .ro, 0x0, []⟩,  -- MED_CNT_PAD_PAGES
   ⟨0x160, .ro, 0x0, []⟩,  -- MED_CNT_TOKEN_WAIT
   ⟨0x164, .ro, 0x0, []⟩,  -- MED_CNT_DIRECT_DIVERT
   ⟨0x168, .ro, 0x0, []⟩,  -- MED_CNT_SLC_GROW
   ⟨0x16C, .ro, 0x0, []⟩,  -- MED_CNT_SLC_SHRINK
   ⟨0x170, .ro, 0x0, []⟩,  -- MED_CNT_ANCHOR_WRITES
   ⟨0x174, .ro, 0x0, []⟩,  -- MED_CNT_TAG_CRC
   ⟨0x178, .ro, 0x0, []⟩]  -- MED_CNT_ROUND_FAIL

/-- The MTR page map (07, R226). -/
def rowsMtr : List RegRow :=
  [⟨0x100, .ro, 0x0, []⟩,  -- MTR_STATUS
   ⟨0x104, .ro, 0x8000, []⟩,  -- MTR_BRICK_ID
   ⟨0x108, .ro, 0x0, []⟩,  -- MTR_MEMB_EPOCH
   ⟨0x10C, .ro, 0x0, []⟩,  -- MTR_MAP_VERSION
   ⟨0x110, .ro, 0x0, []⟩,  -- MTR_BOND_VERSION
   ⟨0x114, .ro, 0x0, []⟩,  -- MTR_CAST_REG_VERSION
   ⟨0x118, .ro, 0x0, []⟩,  -- MTR_WALL_ID_LO
   ⟨0x11C, .ro, 0x0, []⟩,  -- MTR_WALL_ID_HI
   ⟨0x120, .ro, 0x0, []⟩,  -- MTR_UDP_PORT
   ⟨0x124, .ro, 0x258, []⟩,  -- MTR_LOSS_DELAY
   ⟨0x128, .ro, 0x0, []⟩,  -- MTR_ARM_TERM
   ⟨0x12C, .ro, 0x8000, []⟩,  -- MTR_ARM_LEADER
   ⟨0x130, .ro, 0x0, []⟩,  -- MTR_LEASE_LEFT
   ⟨0x134, .ro, 0x0, []⟩,  -- MTR_WALL_CLOSED_LO
   ⟨0x138, .ro, 0x0, []⟩,  -- MTR_WALL_CLOSED_HI
   ⟨0x140, .rws, 0x0, [(1, 0, 0, 3)]⟩,  -- MTR_JOIN_CTRL
   ⟨0x144, .rws, 0x0, [(15, 0, 0, 65535)]⟩,  -- MTR_JOIN_PORT
   ⟨0x148, .rws, 0x0, [(31, 0, 0, 4294967295)]⟩,  -- MTR_JOIN_WALL_LO
   ⟨0x14C, .rws, 0x0, [(31, 0, 0, 4294967295)]⟩,  -- MTR_JOIN_WALL_HI
   ⟨0x150, .rws, 0x0, [(31, 0, 0, 4294967295)]⟩,  -- MTR_JOIN_ADDR0
   ⟨0x154, .rws, 0x0, [(31, 0, 0, 4294967295)]⟩,  -- MTR_JOIN_ADDR1
   ⟨0x158, .rws, 0x0, [(31, 0, 0, 4294967295)]⟩,  -- MTR_JOIN_ADDR2
   ⟨0x15C, .rws, 0x0, [(31, 0, 0, 4294967295)]⟩,  -- MTR_JOIN_ADDR3
   ⟨0x160, .rws, 0x0, [(31, 0, 0, 4294967295)]⟩,  -- MTR_DOMAIN
   ⟨0x164, .rws, 0x4020010, [(7, 0, 2, 256), (20, 8, 16, 4096), (27, 24, 1, 8)]⟩,  -- MTR_CC_CTRL
   ⟨0x168, .rws, 0x40140C8, [(11, 0, 50, 4000), (21, 12, 1, 1000), (26, 22, 4, 31)]⟩,  -- MTR_RTO_CTRL
   ⟨0x16C, .ro, 0x0, []⟩,  -- MTR_FLOWS
   ⟨0x170, .ro, 0x0, []⟩,  -- MTR_PTP_STATE
   ⟨0x180, .ro, 0x0, []⟩,  -- MTR_CNT_TX_PKT
   ⟨0x184, .ro, 0x0, []⟩,  -- MTR_CNT_RX_PKT
   ⟨0x188, .ro, 0x0, []⟩,  -- MTR_CNT_RETX
   ⟨0x18C, .ro, 0x0, []⟩,  -- MTR_CNT_RTO
   ⟨0x190, .ro, 0x0, []⟩,  -- MTR_CNT_DROP_CRC
   ⟨0x194, .ro, 0x0, []⟩,  -- MTR_CNT_DROP_FORMAT
   ⟨0x198, .ro, 0x0, []⟩,  -- MTR_CNT_EPOCH_STALE
   ⟨0x19C, .ro, 0x0, []⟩,  -- MTR_CNT_CE_ECHO
   ⟨0x1A0, .ro, 0x0, []⟩,  -- MTR_CNT_FLOW_BROKEN
   ⟨0x1A4, .ro, 0x0, []⟩,  -- MTR_CNT_HB_SENT
   ⟨0x1A8, .ro, 0x0, []⟩,  -- MTR_CNT_HB_UNACKED
   ⟨0x1AC, .ro, 0x0, []⟩]  -- MTR_CNT_UNKNOWN_TYPE

/-- The PFL page map (16, R446). -/
def rowsPfl : List RegRow :=
  [⟨0x100, .ro, 0x0, []⟩,  -- PFL_STATUS
   ⟨0x104, .rw, 0x0, [(23, 0, 0, 16777215)]⟩,  -- PFL_ADDR
   ⟨0x108, .wo, 0x0, []⟩,  -- PFL_REQ
   ⟨0x10C, .ro, 0x0, []⟩,  -- PFL_RESULT
   ⟨0x110, .rw, 0xFFFFFFFF, [(31, 0, 0, 4294967295)]⟩,  -- PFL_DATA0
   ⟨0x114, .rw, 0xFFFFFFFF, [(31, 0, 0, 4294967295)]⟩,  -- PFL_DATA1
   ⟨0x118, .rw, 0xFFFFFFFF, [(31, 0, 0, 4294967295)]⟩,  -- PFL_DATA2
   ⟨0x11C, .rw, 0xFFFFFFFF, [(31, 0, 0, 4294967295)]⟩,  -- PFL_DATA3
   ⟨0x120, .rw, 0xFFFFFFFF, [(31, 0, 0, 4294967295)]⟩,  -- PFL_DATA4
   ⟨0x124, .rw, 0xFFFFFFFF, [(31, 0, 0, 4294967295)]⟩,  -- PFL_DATA5
   ⟨0x128, .rw, 0xFFFFFFFF, [(31, 0, 0, 4294967295)]⟩,  -- PFL_DATA6
   ⟨0x12C, .rw, 0xFFFFFFFF, [(31, 0, 0, 4294967295)]⟩,  -- PFL_DATA7
   ⟨0x130, .rw, 0x0, [(2, 0, 0, 7)]⟩,  -- PFL_COUNTER_SEL
   ⟨0x134, .ro, 0x0, []⟩,  -- PFL_COUNTER
   ⟨0x138, .ro, 0x0, []⟩,  -- PFL_SECTORS_BAD
   ⟨0x140, .ro, 0x0, []⟩,  -- PFL_CNT_READ
   ⟨0x144, .ro, 0x0, []⟩,  -- PFL_CNT_PROGRAM
   ⟨0x148, .ro, 0x0, []⟩,  -- PFL_CNT_ERASE
   ⟨0x14C, .ro, 0x0, []⟩,  -- PFL_CNT_SUSPEND
   ⟨0x150, .ro, 0x0, []⟩,  -- PFL_CNT_RETRY
   ⟨0x154, .ro, 0x0, []⟩,  -- PFL_CNT_UNCORR
   ⟨0x158, .ro, 0x0, []⟩,  -- PFL_CNT_REFUSED
   ⟨0x15C, .ro, 0x0, []⟩]  -- PFL_CNT_ERASE_FAIL

/-- The PLT page map (16, R445). -/
def rowsPlt : List RegRow :=
  [⟨0x100, .ro, 0x0, []⟩,  -- PLT_STATUS
   ⟨0x104, .ro, 0x0, []⟩,  -- PLT_FW_VERSION
   ⟨0x108, .ro, 0x0, []⟩,  -- PLT_FW_LEVEL
   ⟨0x10C, .ro, 0x0, []⟩,  -- PLT_SLOT
   ⟨0x110, .ro, 0x0, []⟩,  -- PLT_UPTIME
   ⟨0x114, .ro, 0x0, []⟩,  -- PLT_TIME_LO
   ⟨0x118, .ro, 0x0, []⟩,  -- PLT_TIME_HI
   ⟨0x11C, .ro, 0x0, []⟩,  -- PLT_AUX
   ⟨0x120, .ro, 0x0, []⟩,  -- PLT_USB
   ⟨0x124, .ro, 0x0, []⟩,  -- PLT_KS_GEN
   ⟨0x128, .ro, 0x0, []⟩,  -- PLT_TEMP
   ⟨0x12C, .ro, 0x0, []⟩,  -- PLT_LINK
   ⟨0x130, .ro, 0x0, []⟩,  -- PLT_CNT_SELF_RESET
   ⟨0x134, .ro, 0x0, []⟩,  -- PLT_CNT_SOURCE
   ⟨0x138, .ro, 0x0, []⟩,  -- PLT_CNT_TICKET_OK
   ⟨0x13C, .ro, 0x0, []⟩]  -- PLT_CNT_TICKET_REFUSED

/-- The PNL page map (21, R517). -/
def rowsPnl : List RegRow :=
  [⟨0x100, .ro, 0x0, []⟩,  -- PNL_STATUS
   ⟨0x104, .ro, 0xF0, []⟩,  -- PNL_TOKENS
   ⟨0x108, .ro, 0x0, []⟩,  -- PNL_CNT_LINK_ERR
   ⟨0x10C, .ro, 0x0, []⟩]  -- PNL_CNT_TEST

/-- The PTP page map (14, R394). -/
def rowsPtp : List RegRow :=
  [⟨0x100, .ro, 0x0, []⟩,  -- PTP_TIME_NS
   ⟨0x104, .ro, 0x0, []⟩,  -- PTP_TIME_SEC_LO
   ⟨0x108, .ro, 0x0, []⟩,  -- PTP_TIME_SEC_HI
   ⟨0x10C, .rw, 0xD555555, [(31, 0, 0, 4294967295)]⟩,  -- PTP_INCR
   ⟨0x110, .wo, 0x0, []⟩,  -- PTP_ADJ
   ⟨0x114, .rws, 0x6401, [(0, 0, 0, 1), (1, 1, 0, 1), (15, 8, 1, 200)]⟩,  -- PTP_PPS_CTRL
   ⟨0x118, .ro, 0x0, []⟩,  -- PTP_PPS_IN_NS
   ⟨0x11C, .ro, 0x0, []⟩,  -- PTP_TSQ_LEVEL
   ⟨0x120, .rw1c, 0x0, []⟩,  -- PTP_TSQ_OVF
   ⟨0x128, .ro, 0x0, []⟩,  -- PTP_PORT0_LAT
   ⟨0x12C, .ro, 0x0, []⟩,  -- PTP_PORT1_LAT
   ⟨0x130, .ro, 0x0, []⟩,  -- PTP_PORT2_LAT
   ⟨0x134, .ro, 0x0, []⟩,  -- PTP_PORT3_LAT
   ⟨0x140, .ro, 0x0, []⟩,  -- PTP_CNT_TS_LOST0
   ⟨0x144, .ro, 0x0, []⟩,  -- PTP_CNT_TS_LOST1
   ⟨0x148, .ro, 0x0, []⟩,  -- PTP_CNT_TS_LOST2
   ⟨0x14C, .ro, 0x0, []⟩,  -- PTP_CNT_TS_LOST3
   ⟨0x150, .ro, 0x0, []⟩,  -- PTP_CNT_TX_TS0
   ⟨0x154, .ro, 0x0, []⟩,  -- PTP_CNT_TX_TS1
   ⟨0x158, .ro, 0x0, []⟩,  -- PTP_CNT_TX_TS2
   ⟨0x15C, .ro, 0x0, []⟩,  -- PTP_CNT_TX_TS3
   ⟨0x160, .ro, 0x0, []⟩]  -- PTP_CNT_PPS_MISS

/-- The PWR page map (15, R418). -/
def rowsPwr : List RegRow :=
  [⟨0x100, .ro, 0x0, []⟩,  -- PWR_STATE
   ⟨0x104, .rws, 0x3, [(1, 0, 0, 3)]⟩,  -- PWR_CTRL
   ⟨0x108, .rws, 0x3E8, [(19, 0, 100, 100000)]⟩,  -- PWR_IDLE_PS1
   ⟨0x10C, .rws, 0xC8, [(19, 0, 10, 600000)]⟩,  -- PWR_IDLE_PS2
   ⟨0x110, .rws, 0x1E, [(16, 0, 1, 86400)]⟩,  -- PWR_IDLE_PS3
   ⟨0x114, .ro, 0x0, []⟩,  -- PWR_IDLE_NOW
   ⟨0x118, .ro, 0x0, []⟩,  -- PWR_DOMAINS
   ⟨0x11C, .ro, 0x0, []⟩,  -- PWR_BRICK_DOMAINS
   ⟨0x120, .ro, 0x0, []⟩,  -- PWR_INPUT
   ⟨0x124, .ro, 0x0, []⟩,  -- PWR_BRICK_POWER
   ⟨0x128, .ro, 0x0, []⟩,  -- PWR_HOLDUP
   ⟨0x12C, .ro, 0x0, []⟩,  -- PWR_CNT_PS1
   ⟨0x130, .ro, 0x0, []⟩,  -- PWR_CNT_PS2
   ⟨0x134, .ro, 0x0, []⟩,  -- PWR_CNT_PS3
   ⟨0x138, .ro, 0x0, []⟩]  -- PWR_CNT_INPUT_LOSS

/-- The RDM page map (14, R395). -/
def rowsRdm : List RegRow :=
  [⟨0x100, .ro, 0x0, []⟩,  -- RDM_STATUS
   ⟨0x104, .rws, 0x670E03, [(0, 0, 0, 1), (1, 1, 0, 1), (12, 8, 1, 31), (18, 16, 1, 7), (22, 20, 0, 6)]⟩,  -- RDM_CTRL
   ⟨0x108, .rws, 0x280032, [(15, 0, 1, 1000), (25, 16, 5, 1000)]⟩,  -- RDM_CNP_CTRL
   ⟨0x10C, .rws, 0x331A301A, [(5, 0, 0, 63), (13, 8, 0, 63), (21, 16, 0, 63), (26, 24, 0, 7), (30, 28, 0, 7)]⟩,  -- RDM_MARK
   ⟨0x140, .ro, 0x0, []⟩,  -- RDM_CNT_RX_PKT
   ⟨0x144, .ro, 0x0, []⟩,  -- RDM_CNT_TX_PKT
   ⟨0x148, .ro, 0x0, []⟩,  -- RDM_CNT_ICRC
   ⟨0x14C, .ro, 0x0, []⟩,  -- RDM_CNT_TRUNC
   ⟨0x150, .ro, 0x0, []⟩,  -- RDM_CNT_NAK_SENT
   ⟨0x154, .ro, 0x0, []⟩,  -- RDM_CNT_NAK_RCVD
   ⟨0x158, .ro, 0x0, []⟩,  -- RDM_CNT_RETX
   ⟨0x15C, .ro, 0x0, []⟩,  -- RDM_CNT_ACK_TIMEOUT
   ⟨0x160, .ro, 0x0, []⟩,  -- RDM_CNT_RNR_RCVD
   ⟨0x164, .ro, 0x0, []⟩,  -- RDM_CNT_CE_RCVD
   ⟨0x168, .ro, 0x0, []⟩,  -- RDM_CNT_CNP_SENT
   ⟨0x16C, .ro, 0x0, []⟩,  -- RDM_CNT_CNP_RCVD
   ⟨0x170, .ro, 0x0, []⟩,  -- RDM_CNT_CM_REJECT
   ⟨0x174, .ro, 0x0, []⟩]  -- RDM_CNT_RETRY_EXCEEDED

/-- The RLF page map (03, R111). -/
def rowsRlf : List RegRow :=
  [⟨0x100, .ro, 0x0, []⟩,  -- RLF_QUEUES
   ⟨0x104, .ro, 0x0, []⟩,  -- RLF_TAGS_BUSY
   ⟨0x108, .ro, 0x0, []⟩,  -- RLF_ADMIT_WAITING
   ⟨0x10C, .rws, 0x32, [(9, 0, 1, 1000)]⟩,  -- RLF_ADMIT_CTRL
   ⟨0x110, .rws, 0x4000, [(31, 0, 1024, 32768)]⟩,  -- RLF_INGEST_BUDGET
   ⟨0x114, .rws, 0x4000, [(31, 0, 1024, 32768)]⟩,  -- RLF_EGRESS_BUDGET
   ⟨0x118, .ro, 0x4000, []⟩,  -- RLF_INGEST_FREE
   ⟨0x11C, .ro, 0x4000, []⟩,  -- RLF_EGRESS_FREE
   ⟨0x120, .ro, 0x258, []⟩,  -- RLF_OUTCOME_RETAIN
   ⟨0x124, .rw, 0x0, [(10, 0, 0, 2047)]⟩,  -- RLF_QUEUE_SEL
   ⟨0x128, .ro, 0x0, []⟩,  -- RLF_QUEUE_INFO
   ⟨0x12C, .ro, 0x0, []⟩,  -- RLF_QUEUE_TAGS
   ⟨0x130, .ro, 0x0, []⟩,  -- RLF_CNT_RESET
   ⟨0x134, .ro, 0x0, []⟩,  -- RLF_CNT_SUPPRESSED
   ⟨0x138, .ro, 0x0, []⟩,  -- RLF_CNT_EPOCH_STALE
   ⟨0x13C, .ro, 0x0, []⟩,  -- RLF_CNT_TAG_IN_USE
   ⟨0x140, .ro, 0x0, []⟩,  -- RLF_CNT_ADMISSION
   ⟨0x144, .ro, 0x0, []⟩,  -- RLF_CNT_DRAIN
   ⟨0x148, .ro, 0x0, []⟩,  -- RLF_CNT_QUEUE_REFUSED
   ⟨0x14C, .ro, 0x0, []⟩]  -- RLF_CNT_IDLE_CLOSE

/-- The RST page map (15, R419). -/
def rowsRst : List RegRow :=
  [⟨0x100, .ro, 0x0, []⟩,  -- RST_CAUSE
   ⟨0x104, .ro, 0x0, []⟩,  -- RST_CROSS
   ⟨0x108, .rw, 0x0, [(1, 0, 0, 3), (14, 8, 0, 127)]⟩,  -- RST_TARGET
   ⟨0x10C, .wo, 0x0, []⟩,  -- RST_REQ
   ⟨0x110, .ro, 0x0, []⟩,  -- RST_STATUS
   ⟨0x114, .ro, 0x0, []⟩,  -- RST_CNT_UNIT
   ⟨0x118, .ro, 0x0, []⟩,  -- RST_CNT_WYTHE
   ⟨0x11C, .ro, 0x0, []⟩]  -- RST_CNT_WATCHDOG

/-- The SVC page map (17, R464). -/
def rowsSvc : List RegRow :=
  [⟨0x100, .ro, 0x0, []⟩,  -- SVC_STATUS
   ⟨0x104, .ro, 0x0, []⟩,  -- SVC_RIGHTS
   ⟨0x108, .ro, 0x0, []⟩,  -- SVC_EXPIRY_LO
   ⟨0x10C, .ro, 0x0, []⟩,  -- SVC_EXPIRY_HI
   ⟨0x110, .ro, 0x0, []⟩,  -- SVC_AUTHORITIES
   ⟨0x120, .ro, 0x0, []⟩,  -- SVC_CNT_SESSIONS
   ⟨0x124, .ro, 0x0, []⟩,  -- SVC_CNT_EXPIRED
   ⟨0x128, .ro, 0x0, []⟩,  -- SVC_CNT_BAD_SIG
   ⟨0x12C, .ro, 0x0, []⟩,  -- SVC_CNT_REPLAY
   ⟨0x130, .ro, 0x0, []⟩]  -- SVC_CNT_WRONG_BRICK

/-- The TIE page map (19, R492). -/
def rowsTie : List RegRow :=
  [⟨0x100, .ro, 0x0, []⟩,  -- TIE_STATUS
   ⟨0x104, .ro, 0x0, []⟩,  -- TIE_HB_AGE
   ⟨0x108, .ro, 0x0, []⟩,  -- TIE_MIRROR_LAG
   ⟨0x10C, .ro, 0x0, []⟩,  -- TIE_SYNC_STATE
   ⟨0x120, .ro, 0x0, []⟩,  -- TIE_CNT_HB_MISS
   ⟨0x124, .ro, 0x0, []⟩,  -- TIE_CNT_RETRY
   ⟨0x128, .ro, 0x0, []⟩,  -- TIE_CNT_LANE_DOWN
   ⟨0x12C, .ro, 0x0, []⟩,  -- TIE_CNT_MIRROR
   ⟨0x130, .ro, 0x0, []⟩]  -- TIE_CNT_PEER_READ

/-- The TIL page map (21, R517). -/
def rowsTil : List RegRow :=
  [⟨0x100, .ro, 0x0, []⟩,  -- TIL_KIND
   ⟨0x104, .ro, 0x0, []⟩,  -- TIL_LAST_FAULT
   ⟨0x108, .ro, 0x0, []⟩,  -- TIL_TEST_TIME
   ⟨0x10C, .ro, 0x0, []⟩,  -- TIL_CNT_JOBS
   ⟨0x110, .ro, 0x0, []⟩,  -- TIL_CNT_FAULT
   ⟨0x114, .ro, 0x0, []⟩]  -- TIL_CNT_RETRIED

/-- The TST page map (21, R518). -/
def rowsTst : List RegRow :=
  [⟨0x100, .ro, 0x0, []⟩,  -- TST_STATUS
   ⟨0x104, .wo, 0x0, []⟩,  -- TST_CTRL
   ⟨0x108, .rw, 0x0, [(5, 0, 0, 63), (12, 8, 0, 31), (19, 16, 0, 15)]⟩,  -- TST_TARGET
   ⟨0x10C, .ro, 0x0, []⟩,  -- TST_RESULT
   ⟨0x110, .ro, 0x0, []⟩,  -- TST_DRAM_MARKED
   ⟨0x114, .ro, 0x0, []⟩,  -- TST_DRAM_RETIRED
   ⟨0x118, .ro, 0x0, []⟩,  -- TST_ACTIVE
   ⟨0x11C, .ro, 0x0, []⟩,  -- TST_CNT_RUN
   ⟨0x120, .ro, 0x0, []⟩,  -- TST_CNT_FAIL
   ⟨0x124, .ro, 0x0, []⟩]  -- TST_CNT_REFUSED

end Sys2Proof.Machine
end

