-- ==== Sys2Proof/Machine/Parts.lean ====
section
/-! DEFINITION. The parts of the machine's state, chapter by chapter: plain data, composed in Machine/State.lean. -/

namespace Sys2Proof.Machine

/-! ### Keys, versions and recipes (02, 04, 05) -/

/-- The history of one key, newest version first. -/
structure KeyHist where
  keyspace : BitVec 32
  key      : Bytes
  versions : List ValueVer
  deriving DecidableEq, Repr

/-- The outcome kept under a request id (R100, R101). -/
inductive OutcomeSt where
  | done (status : Status) (version : Nat) (result : Nat) (detail : Detail)
  | neverStarted
  | idOnly
  deriving DecidableEq, Repr

/-- An outcome record of the home (R100) or of the armature (CAST and CAST_DROP). -/
structure OutcomeRec where
  keyspace  : BitVec 32
  requestId : BitVec 64
  st        : OutcomeSt
  since     : Nat
  deriving DecidableEq, Repr

/-- One received part of an upload (R65). -/
structure UploadPart where
  num    : Nat
  length : Nat
  val    : ValueVer
  deriving DecidableEq, Repr

/-- An open part upload (R65, R66). -/
structure Upload where
  id       : Nat
  keyspace : BitVec 32
  key      : Bytes
  openedAt : Nat
  parts    : List UploadPart
  deriving DecidableEq, Repr

/-! ### Relief queues and commands (02, 03) -/

/-- The state of a Relief queue (R111). -/
inductive QState where
  | opened
  | resetting
  | closing
  | stopped
  deriving DecidableEq, Repr

/-- A CONTROL_ACK that waits for issued RDMA WRITEs or DMA writes to be acknowledged (R91). -/
structure PendingAck where
  requestId : BitVec 64
  code      : Nat
  epoch     : BitVec 16
  deriving DecidableEq, Repr

/-- A Relief queue (R39, R87, R111). -/
structure Queue where
  idx         : Nat
  transport   : Transport
  epoch       : BitVec 16
  st          : QState
  helloDone   : Bool
  mask        : BitVec 9
  evtSeq      : Nat
  lastCapsule : Nat
  acks        : List PendingAck
  dma         : Nat
  deriving DecidableEq, Repr

/-- Where a command in flight stands. -/
inductive Phase where
  | heldFlush
  | heldTime
  | heldMove
  | waiting
  | attached
  | pulling
  | running
  | committing
  | armature
  | asking
  | flushing
  deriving DecidableEq, Repr

/-- The stages of a chunk of a write (R134, R153): cut; its credit taken; its buffer taken; compressed into it; encrypted;
sent; acknowledged. -/
inductive WStage where
  | cut
  | credited
  | compressing
  | compressed
  | encrypted
  | sent
  | acked
  deriving DecidableEq, Repr

/-- A chunk of a write on its way to its lead (R134-R155). Its place in the command's list is its chunk index, which a re-cut does not
use again (R152): a chunk that a re-cut has replaced is `dropped`. `codec` is the codec its policy asked for when it was cut, then the
one that was used (R142, R143); `buf` is the handle of its buffer, and `credit` the units held at its lead (R153, R212). -/
structure WChunk where
  entry     : Nat
  start     : Nat
  data      : Bytes
  fp        : Bytes
  codec     : Codec
  body      : Bytes
  keyVer    : Nat
  iv        : Bytes
  stage     : WStage
  lead      : Nat
  credit    : Nat
  buf       : Option Nat
  cutAt     : Nat
  firstSent : Nat
  lastSent  : Nat
  place     : Option Place
  dropped   : Bool
  deriving DecidableEq, Repr

/-- The stages of a chunk of a read (R134, R160, R161): not yet fetched; fetched from the data member; read degraded; waiting for
a repair's rebuilt form; decrypted; decoded; re-verified; ended. -/
inductive RStage where
  | planned
  | fetching
  | degraded
  | repairing
  | decrypting
  | decoding
  | verifying
  | delivered
  | untrusted
  | lost
  deriving DecidableEq, Repr

/-- A range asked of a brick and not yet answered (R159, R160): the segment of the record, the fragment index, the brick, whether
pending copies are meant, and when. -/
structure RangeAsk where
  seg     : Nat
  idx     : Nat
  brick   : Nat
  pending : Bool
  at_     : Nat
  deriving DecidableEq, Repr

/-- A chunk on its way to the client of a GET, or to the re-cut of an operation of a write, its entry (R67, R159-R164): the ranges still asked for, the parts that have come (segment, fragment
index, bytes), the fragments found unreadable, whether pending copies have been looked for, and whether the record was rebuilt. -/
structure RChunk where
  entry   : Nat
  ent     : RecipeEntry
  stage   : RStage
  asked   : List RangeAsk
  parts   : List (Nat × Nat × Bytes)
  bad     : List Nat
  looked  : Bool
  rebuilt : Bool
  body    : Bytes
  data    : Bytes
  deriving DecidableEq, Repr

/-- An entry of a BATCH descriptor (R75). -/
structure BatchEntry where
  op        : Nat
  byte1     : Byte
  flags     : BitVec 16
  keyLen    : Nat
  keyOff    : Nat
  version   : Nat
  offset    : Nat
  length    : Nat
  bufAddr   : Nat
  bufRkey   : Nat
  reserved  : Bytes
  deriving DecidableEq, Repr

/-- One write operation of a command: the command itself, or an entry of a BATCH. `asked` and `released` count the payload bytes
pulled into the window's ring and released from it (R153); `base` is the version a PATCH is built on, `old` that version's inline bytes
once they are decrypted (R67). -/
structure WriteOp where
  op      : Opcode
  key     : Bytes
  flags   : BitVec 16
  cond    : Nat
  offset  : Nat
  length  : Nat
  data    : Bytes
  asked   : Nat
  released : Nat
  bufAddr : Nat
  bufRkey : Nat
  pulled  : Bool
  base    : Option ValueVer
  old     : Option Bytes
  inlined : Option Bytes
  inlineKey : Nat
  inlineIv : Bytes
  inlineTag : Bytes
  cutPos  : Nat
  restart : Nat
  newLen  : Nat
  cutDone : Bool
  deriving DecidableEq, Repr

/-- A command in flight on a queue (R85, R89). -/
structure Cmd where
  id         : Nat
  q          : Nat
  op         : Opcode
  cap        : Capsule
  key        : Bytes
  imm        : Bytes
  epoch      : BitVec 16
  arrived    : Nat
  waitFrom   : Nat
  phase      : Phase
  suppressed : Bool
  window     : Nat
  ops        : List WriteOp
  wchunks    : List WChunk
  rchunks    : List RChunk
  readVer    : Option ValueVer
  castTime   : Nat
  castId     : Nat
  deriving DecidableEq, Repr

/-- A commit begun on a wythe and not yet visible (R116, R120). `keys` are the keys whose current versions it has looked at. -/
structure Commit where
  cmdId     : Nat
  part      : Nat
  keys      : List Bytes
  version   : Nat
  adds      : List (BitVec 32 × Bytes × ValueVer)
  keyspace  : BitVec 32
  requestId : BitVec 64
  status    : Status
  detail    : Detail
  result    : Nat
  segments  : Nat
  acks      : List (Nat × Nat)
  deltas    : List DeltaEntry
  deriving DecidableEq, Repr

/-- A message held while the brick wakes (R110): the opcode or control code and the message, in arrival order. -/
structure HeldMsg where
  q       : Nat
  control : Option Nat
  op      : Option Opcode
  msg     : Msg
  deriving DecidableEq, Repr

/-- A drain that has been announced (R49): when it takes effect, and whether it is a firmware activation. -/
structure Drain where
  at_        : Nat
  activation : Bool
  reached    : Bool
  deriving DecidableEq, Repr

/-- The Relief state of one wythe. `unsealed` holds the stripes of committed writes with their queue (R103), `pulls` the RDMA READs and DMA
reads issued and not yet ended: command, operation and queue (R91). -/
structure Relief where
  queues    : List Queue
  cmds      : List Cmd
  commits   : List Commit
  nextCmd   : Nat
  lastMeta  : Nat
  lastRead  : Nat
  lastWrite : Nat
  uploads   : List Upload
  held      : List HeldMsg
  drain     : Option Drain
  unsealed  : List (Nat × Nat)
  pulls     : List (Nat × Nat × Nat)
  deriving DecidableEq, Repr

/-! ### Hybrid time, leases, partitions and casts (04) -/

/-- The clock state of one wythe (R112-R120, R127, R534). -/
structure Clocks where
  hlc        : Nat
  inSync     : Bool
  quietSince : Option Nat
  closed     : Nat
  deriving DecidableEq, Repr

/-- What this brick holds of a partition it homes or is taking over (R120, R127-R131). -/
structure PartSt where
  p        : Nat
  opened   : Bool
  fenced   : Bool
  moving   : Bool
  moveTo   : Option Nat
  movedAt  : Nat
  closed   : Nat
  epoch    : Nat
  collect  : List Nat
  collected : List IdxRec
  toPlace  : List (Nat × Nat)
  needCasts : Bool
  deriving DecidableEq, Repr

/-- A key-index record in this brick's protected window, as home or as a member of a partition's replica set (R116, R128). -/
structure ReplRec where
  p       : Nat
  epoch   : Nat
  home    : Nat
  content : IdxRec
  deriving DecidableEq, Repr

/-- A record written to the own half of a protected window (R20), and the message that says so to the brick it came from, none for this
brick's own: a key-index record of a partition, or the copy at an offset of a pending stripe. -/
inductive Placing where
  | index (p epoch : Nat) (content : IdxRec) (ackTo : Option (Nat × Wy))
  | copy (stripe off : Nat) (ackTo : Option (Nat × Wy))
  deriving DecidableEq, Repr

/-- A cast of the registry (R123, R124). -/
structure Cast where
  id       : Nat
  keyspace : BitVec 32
  time     : Nat
  ready    : Bool
  expiry   : Option Nat
  held     : Bool
  confirms : List Nat
  asker    : Nat
  requestId : BitVec 64
  deriving DecidableEq, Repr

/-! ### Crypt tiles and keys (06) -/

/-- The state of a key slot (R179). -/
inductive SlotSt where
  | current
  | decryptOnly
  | retired
  deriving DecidableEq, Repr

/-- A key-slot record with its counter (R173-R179). -/
structure KeySlot where
  keyspace  : BitVec 32
  ver       : Nat
  st        : SlotSt
  wrapped   : Bytes
  installed : Nat
  kekGen    : Nat
  next      : Nat
  thru      : Nat
  resvAt    : Option Nat
  locked    : Bool
  deriving DecidableEq, Repr

/-- Where a crypt job stands (R173, R182, R184). -/
inductive CryptSt where
  | queued
  | waitKey
  | waitResv
  | running (tile : Fin 128)
  | suspended (tile : Fin 128)
  deriving DecidableEq, Repr

/-- What a context slot holds of a job beside its key, IV and priority (R184): the counter block, the GHASH accumulator, and the
bytes done of the additional data and of the payload. -/
structure CryptCtx where
  counter : Bytes
  ghash   : Nat
  aadDone : Nat
  done    : Nat
  deriving DecidableEq, Repr

/-- A crypt job (R166-R185): the course in whose queue it stands, its two inputs, the tag a decryption compares, and in its context
slot the key, the IV and the effective priority it runs at. -/
structure CryptJob where
  ref      : JobRef
  encrypt  : Bool
  keyspace : BitVec 32
  ver      : Nat
  prio     : Nat
  since    : Nat
  order    : Nat
  course   : Fin 16
  st       : CryptSt
  iv       : Option Bytes
  input    : Bytes
  aad      : Bytes
  tag      : Bytes
  key      : Bytes
  eff      : Nat
  ctx      : CryptCtx
  deriving DecidableEq, Repr

/-- An entry of the key cache (R182): the key in plaintext, which nothing reads but the tiles. -/
structure CachedKey where
  keyspace : BitVec 32
  ver      : Nat
  key      : Bytes
  deriving DecidableEq, Repr

/-- The cipher block of one wythe (R172-R189): the domain in force and one that waits for the next reservation (R175), the KEK in its
key register with the generation it was derived at, the wall key as the Plinth loads it (R436), slots, cache and jobs. -/
structure Cip where
  domain      : BitVec 16
  substitute  : Bool
  domainValid : Bool
  nextDomain  : Option (BitVec 16)
  kekLoaded   : Bool
  kekGen      : Nat
  kek         : Bytes
  wallKey     : Bytes
  slots       : List KeySlot
  cache       : List CachedKey
  jobs        : List CryptJob
  nextOrder   : Nat
  resvSeq     : Nat
  resvLost    : Bool
  deriving DecidableEq, Repr

/-- A job of a unit of a codec tile (R14, R17): the course in whose queue it stands, and the tile once it has been dispatched. -/
structure CodecJob where
  unit   : CodecUnit
  ref    : JobRef
  course : Fin 16
  tile   : Option (Fin 128)
  deriving DecidableEq, Repr

/-! ### The wall, Mortar and the armature (07) -/

/-- The wall state of the brick (R226). -/
inductive WallSt where
  | unjoined
  | forming
  | joining
  | member
  | suspect
  | leaving
  | lost
  deriving DecidableEq, Repr

/-- A key-version count pass of a brick, as the armature takes it (R181). -/
structure CountPass where
  counts : List KeyCount
  epoch  : Nat
  bond   : Nat
  deriving DecidableEq, Repr

/-- A brick of the membership, as an armature member holds it (R201-R205, R214). -/
structure BrickRec where
  id          : Nat
  st          : BState
  enclosure   : Nat
  rack        : Nat
  serial      : Bytes
  ivDomain    : BitVec 16
  compat      : Nat
  grantedAt   : Nat
  suspectAt   : Nat
  removal     : Option RemoveKind
  lastHb      : Nat
  closed0     : Nat
  closed1     : Nat
  ready       : Bool
  full        : Bool
  replace     : Bool
  removeReady : Bool
  stopping    : Bool
  freeGiB     : Nat
  usableGiB   : Nat
  cover       : Nat
  inSync      : Bool
  partial_    : Option CountPass
  passes      : List CountPass
  deriving DecidableEq, Repr

/-- The roles of the armature (R198). -/
inductive ArmRole where
  | none
  | follower
  | candidate
  | leader
  deriving DecidableEq, Repr

/-- This brick's part of the armature (R196-R200). -/
structure Armature where
  role       : ArmRole
  term       : Nat
  votedFor   : Option Nat
  leader     : Option Nat
  log        : List LogEntry
  commit     : Nat
  votes      : List Nat
  matched    : List (Nat × Nat)
  silent     : List (Nat × List Nat)
  lastAppend : Nat
  members    : List Nat
  deriving DecidableEq, Repr

/-- A heartbeat sent and not yet acknowledged by a quorum (R202). -/
structure HbSent where
  w       : Wy
  seq     : Nat
  sentAt  : Nat
  replies : List Nat
  deriving DecidableEq, Repr

/-- The roles of PTP of a wythe (R223, R226). -/
inductive PtpRole where
  | noMaster
  | slave
  | master
  | holdover
  deriving DecidableEq, Repr

/-- A CAST_REQUEST or CAST_DROP_REQ that an armature member has taken and whose outcome is not committed (R124): who asked, the cast time,
or the cast to drop. -/
structure CastAsk where
  keyspace  : BitVec 32
  requestId : BitVec 64
  brick     : Nat
  wythe     : Wy
  time      : Nat
  drop      : Option Nat
  deriving DecidableEq, Repr

/-- A JOIN_REQUEST that the leader has let in, until its grant is committed (R193, R194): the id given, the requester's header, whether its
IV domain is a substitute, and the request. -/
structure JoinPend where
  id         : Nat
  head       : MHead
  substitute : Bool
  req        : JoinReq
  deriving DecidableEq, Repr

/-- The wall state of the brick (R191-R226). -/
structure Wall where
  st          : WallSt
  settings    : WallSettings
  settingsVer : Nat
  identity    : Bool
  brickId     : Option Nat
  opened      : Bool
  epoch       : Nat
  castVersion : Nat
  wallClosed  : Nat
  bricks      : List BrickRec
  domains     : List (BitVec 16)
  bond        : BondTable
  arm         : Armature
  hb          : List HbSent
  leaseUntil  : Nat
  ready       : Bool
  removeReady : Bool
  stopping    : Bool
  fullFlag    : Bool
  evacuating  : Bool
  unmovable   : List Nat
  lowSpace    : Nat
  joinAt      : Nat
  countRest   : List KeyCount
  keys        : List KeyVer
  nextCast    : Nat
  joins       : List JoinPend
  joinKey     : Option (Nat × JoinReq)
  links       : List (BitVec 32 × Bytes)
  armAddrs    : List (Nat × BitVec 128)
  asks        : List CastAsk
  fetched     : List StateObj
  compat      : Nat
  deriving DecidableEq, Repr

/-- A packet of a flow not yet acknowledged (R209, R210): the address and UDP port it goes to, its TYPE, where its segment lies in the body of
its message, the length of that body, whether it is the last segment, and the segment (R207). -/
structure Packet where
  seq     : Nat
  msgId   : Nat
  sent    : Bool
  acked   : Bool
  sentAt  : Nat
  expiries : Nat
  passed  : Nat
  addr    : BitVec 128
  port    : Nat
  typ     : Nat
  off     : Nat
  total   : Nat
  last    : Bool
  seg     : Bytes
  deriving DecidableEq, Repr

/-- One Mortar flow of a wythe to a peer wythe (R206-R212). `alphaNum` is the DCTCP estimate in units of 2^-16; `ceInWin` of
the `sinceWin` acknowledgements of this window carried CE_ECHO. -/
structure Flow where
  peer     : Nat
  peerW    : Wy
  num      : Nat
  nextSeq  : Nat
  nextMsg  : Nat
  unacked  : List Packet
  win      : Nat
  alphaNum : Nat
  ceInWin  : Nat
  sinceWin : Nat
  credit   : Nat
  rxSeq    : Nat
  rxInc    : Option Nat
  rxGot    : List Nat
  broken   : Bool
  deriving DecidableEq, Repr

/-- The Mortar state of one wythe. -/
structure MortarW where
  flows   : List Flow
  hbSeq   : Nat
  inc     : Nat
  ptpRole : PtpRole
  ptpPort : Nat
  uncertNs : Nat
  offsetNs : Nat
  lostAt  : Option Nat
  deriving DecidableEq, Repr

/-! ### Stripes, fragments and rebuild (08) -/

/-- A record of an open stripe that waits for its journal copies before the lead acknowledges it (R150). -/
structure StripeWait where
  offset    : Nat
  acks      : List Nat
  home      : Nat
  p         : Nat
  requestId : BitVec 64
  chunk     : Nat
  place     : Place
  deriving DecidableEq, Repr

/-- A stripe state record with the pending copies (R227, R232, R233): at the stripe lead and at each journal member. -/
structure StripeRec where
  id       : Nat
  st       : StripeSt
  closed   : Bool
  fill     : Nat
  gen      : Nat
  lead     : Nat
  leadEpoch : Nat
  journal  : List Nat
  targets  : List (Option Nat)
  openedAt : Nat
  digest   : Bytes
  recs     : List (Nat × Bytes)
  waits    : List StripeWait
  placed   : List (Nat × Nat)
  held     : List Nat
  done     : List Nat
  refused  : List Nat
  sealedWait : List Nat
  deriving DecidableEq, Repr

/-- A fragment in the catalogue (R236, R243, R266). -/
structure FragRec where
  fragId  : Nat
  gen     : Nat
  fill    : Nat
  digest  : Bytes
  targets : List (Option Nat)
  lead    : Nat
  bytes   : Bytes
  durable : Bool
  ackTo   : Option (Nat × Wy)
  newGen  : Option (Nat × Bytes × List Nat)
  holes   : List Nat
  bad     : List (Nat × Nat)
  evacTo  : Option Nat
  thinWait : Option (List Nat)
  thinGot : List Nat
  thinTo  : Option (Nat × Wy)
  deriving DecidableEq, Repr

/-- An entry of the rebuild queue (R246, R247): a fragment or, with `upto`, a range of it. `next` is where the range being worked begins;
`asked` are the fragments of its stripe asked for that range with the brick of each, `got` what came, `out` those found unreadable there. An
entry with a detour is a move (R243). -/
structure RebuildEnt where
  fragId  : Nat
  gen     : Nat
  fill    : Nat
  digest  : Bytes
  targets : List (Option Nat)
  lead    : Nat
  margin  : Nat
  next    : Nat
  upto    : Nat
  bytes   : Bytes
  asked   : List (Nat × Nat)
  got     : List (Nat × Bytes)
  out     : List Nat
  deriving DecidableEq, Repr

/-- Where a repair stands (R161, R162): its ranges are read, its record's tag is checked, the rebuilt form stands, or it has failed. -/
inductive RepairSt where
  | reading
  | checking
  | rebuilt
  | failed
  deriving DecidableEq, Repr

/-- Where the stored bytes of a record go that is read for replication (R275): the partition, the source cast and the remote home. -/
structure ShipTo where
  p          : Nat
  sourceCast : Nat
  dst        : Nat
  dstW       : Wy
  deriving DecidableEq, Repr

/-- A repair of a chunk whose record failed (R161, R162): the fragments that the failing record was read from, whether the data member
is asked first, the ranges asked for and gathered, the fragments found unreadable and the rebuilt record. A record read for replication is
gathered in the same way. -/
structure RepairRec where
  n        : Nat
  ship     : Option ShipTo
  w        : Wy
  keyspace : BitVec 32
  ent      : RecipeEntry
  used     : List Nat
  viaData  : Bool
  asked    : List RangeAsk
  parts    : List (Nat × Nat × Bytes)
  bad      : List Nat
  body     : Bytes
  st       : RepairSt
  deriving DecidableEq, Repr

/-- The stripe state of the brick. `catchUp` holds the groups whose STRIPE_LIST it waits for, each with the brick asked (R244); `budgetAt`
when each rebuild tier may receive again (R249). -/
structure Stripes where
  recs    : List StripeRec
  frags   : List FragRec
  detours : List (Nat × Nat)
  catchUp : List (Nat × Nat)
  rebuild : List RebuildEnt
  budgetAt : List Nat
  repairs : List RepairRec
  exposure : List (Nat × Nat)
  deriving DecidableEq, Repr

/-! ### References and replication (09) -/

/-- The first answer that a lead gave to a chunk message (R152). -/
structure ChunkSeen where
  home      : Nat
  p         : Nat
  requestId : BitVec 64
  chunk     : Nat
  res       : AckResult
  place     : Place
  deriving DecidableEq, Repr

/-- A thinning under way at the acting lead (R266): the fragments whose holders have not answered READY or, once `commit` says so, THIN_COMMIT
COMMIT or ABORT. -/
structure ThinRec where
  stripe : Nat
  gen    : Nat
  wait   : List Nat
  commit : Option Bool
  deriving DecidableEq, Repr

/-- The reference state of a group that this brick holds (R254). -/
structure GroupRec where
  group    : Nat
  held     : Bool
  leading  : Bool
  image    : GroupImage
  seen     : List ChunkSeen
  nextSeq  : Nat
  recount  : Bool
  ended    : List Nat
  thins    : List ThinRec
  queries  : List (PendRef × Nat)
  parts    : List (Nat × Bytes)
  owners   : List (Bytes × BitVec 32)
  syncing  : List Nat
  deriving DecidableEq, Repr

/-- A delta batch of a home (R258). -/
structure DeltaBatch where
  p       : Nat
  group   : Nat
  seq     : Nat
  firstAt : Nat
  sent    : Bool
  recount : Bool
  ended   : Bool
  entries : List DeltaEntry
  deriving DecidableEq, Repr

/-- The state of a replication link (R272, R273). -/
structure LinkRec where
  keyspace   : BitVec 32
  sourceWall : Nat
  remoteWall : Nat
  accepted   : Bool
  lastShip   : Nat
  applied    : Nat
  peer       : Nat
  peerW      : Wy
  secret     : Option Nat
  deriving DecidableEq, Repr

/-- A cast on its way to the remote wall, or arriving there (R274-R276). -/
structure ShipRec where
  keyspace   : BitVec 32
  sourceCast : Nat
  time       : Nat
  begun      : Bool
  applied    : Bool
  staged     : List Nat
  deriving DecidableEq, Repr

/-- A staged record at the remote wall (R275); `inlines` holds its inline values as this wall has sealed them: key number, key version, IV,
ciphertext and tag; `record` is what its replica set places, of which `wait` have not answered. -/
structure StagedRec where
  p          : Nat
  keyspace   : BitVec 32
  sourceCast : Nat
  offer      : Nat
  last       : Bool
  keys       : List OfferKey
  asked      : List Bytes
  unprobed   : List Nat
  need       : List Nat
  places     : List (Nat × Place)
  src        : Nat
  inlines    : List (Nat × Nat × Bytes × Bytes × Bytes)
  record     : Option IdxRec
  wait       : List Nat
  staged     : Bool
  deriving DecidableEq, Repr

/-- Bytes of another wall's record that this home seals under its own keyspace key (R275): the chunk of a recipe entry of a staged record,
or with `key` the inline value of its key of that number; `body` is the record once it is sealed, sent to its lead at `sentAt`. -/
structure LandRec where
  n         : Nat
  w         : Wy
  p         : Nat
  keyspace  : BitVec 32
  requestId : BitVec 64
  chunk     : Nat
  key       : Option Nat
  fp        : Bytes
  plain     : Nat
  codec     : Codec
  body      : Bytes
  sentAt    : Nat
  deriving DecidableEq, Repr

/-- A garbage version of a key (R263, R264): its SUB entries go out once R260 allows, and its record goes when they are
acknowledged. -/
structure GarbageRec where
  p        : Nat
  keyspace : BitVec 32
  key      : Bytes
  time     : Nat
  sent     : Bool
  deriving DecidableEq, Repr

/-- A REF_QUERY whose answer the home holds while the named command is queued or running (R262). -/
structure HeldQuery where
  src       : Nat
  srcW      : Wy
  w         : Wy
  p         : Nat
  group     : Nat
  requestId : BitVec 64
  chunk     : Nat
  deriving DecidableEq, Repr

/-- The reference and replication state of the brick. -/
structure Refs where
  groups   : List GroupRec
  deltas   : List DeltaBatch
  deltaSeq : List (Nat × Nat)
  garbage  : List GarbageRec
  swept    : List (Nat × Nat)
  links    : List LinkRec
  ships    : List ShipRec
  staged   : List StagedRec
  lands    : List LandRec
  linkKeys : List (BitVec 32 × Bytes)
  far      : List (Nat × BitVec 128)
  held     : List HeldQuery
  deriving DecidableEq, Repr

/-! ### PCI Express (15) -/

/-- The state of a queue page (R411). -/
inductive QpSt where
  | free
  | opened
  | resetting
  | closing
  | stopped
  deriving DecidableEq, Repr

/-- A queue page with its rings (R411-R416). -/
structure QPage where
  n      : Nat
  sqBase : Nat
  cqBase : Nat
  stat   : Nat
  sqLog  : Nat
  cqLog  : Nat
  vector : Nat
  intEn  : Bool
  st     : QpSt
  error  : Nat
  epoch  : BitVec 16
  sqHead : Nat
  sqTail : Nat
  cqHead : Nat
  cqTail : Nat
  held   : List BusMsg
  writes : Nat
  deriving DecidableEq, Repr

/-- An entry of the MSI-X table (R400, R416). -/
structure MsixEntry where
  n       : Nat
  addr    : Nat
  data    : Nat
  masked  : Bool
  pending : Bool
  deriving DecidableEq, Repr

/-- The PCI Express endpoint of a wythe (R396, R397, R416). -/
structure Pcie where
  bme    : Bool
  d3hot  : Bool
  linkUp : Bool
  speed  : Nat
  width  : Nat
  aer    : Nat
  pages  : List QPage
  msix   : List MsixEntry
  deriving DecidableEq, Repr

/-- The unit states of PAGE_STATE (R404). -/
inductive UnitSt where
  | offline | online | quiescing | quiesced | testing | bypassed | failed
  deriving DecidableEq, Repr

/-- A unit's page beyond its registers: the state it drains towards (R33, R406), whether it left FAILED with no test passed since, and a
running test: the state before it and when it started (R510). -/
structure UnitJob where
  page     : Page
  goal     : Option UnitSt
  needTest : Bool
  test     : Option (UnitSt × Nat)
  deriving DecidableEq, Repr

/-! ### Event entries (16) -/

/-- An event entry on its way to the recorder, or in it (R439). -/
structure EvtRec where
  seq       : Nat
  time      : Nat
  severity  : Nat
  uncertain : Bool
  source    : Nat
  code      : Nat
  page      : Nat
  start     : Nat
  detail    : Bytes
  deriving DecidableEq, Repr

end Sys2Proof.Machine
end

