-- ==== Sys2Proof/Machine/BrickParts.lean ====
section
/-! DEFINITION. The state of the parts around the data path (15-20): the Plinth, its flash and recorder, the front panel, health,
power, start and firmware. -/

namespace Sys2Proof.Machine

/-! ### The Plinth flash and the event recorder (16) -/

/-- A request to the Plinth ROM (R427): READ of code words with the retry step (0-4, 5 when none decodes) and the bits corrected of each,
PROGRAM with its outcome, or ERASE. -/
inductive FlashOp where
  | read (addr : Nat) (outcomes : List (Nat × Nat))
  | program (addr : Nat) (data : Bytes) (ok : Bool)
  | erase (sector : Nat)
  deriving DecidableEq, Repr

/-- Who asked for a flash operation: the Plinth firmware, the recorder's replacement, or a PFL bank (R427, R441, R446). -/
inductive FlashBy where
  | firmware
  | recorder
  | bank (n : Nat)
  deriving DecidableEq, Repr

/-- A flash request that waits (R428). -/
structure FlashWait where
  by_ : FlashBy
  op  : FlashOp
  deriving DecidableEq, Repr

/-- The running erase (R428): its sector, who asked, the running time before it last resumed, when it last resumed or started, and its
suspensions. -/
structure FlashErase where
  sector   : Nat
  by_      : FlashBy
  resumed  : Nat
  suspends : Nat
  deriving DecidableEq, Repr

/-- The Plinth flash (R425-R434): the programmed code words by number, the running erase, the requests that wait, retired sectors, the
sectors that replace them, and the values of the monotonic counters. -/
structure Flash where
  words    : Table Bytes
  erase    : Option FlashErase
  waiting  : List FlashWait
  bad      : List Nat
  moved    : List (Nat × Nat)
  counters : List Nat
  deriving DecidableEq, Repr

/-- A bank of the EVR and PFL pages (R443, R446); `seen` are the words of the latched entry that have been read. -/
structure Bank where
  cursor  : Nat
  hiHeld  : Option Nat
  latch   : Option Bytes
  seen    : List Nat
  atEnd   : Bool
  addr    : Nat
  data    : Bytes
  result  : Word
  deriving DecidableEq, Repr

/-- The event recorder (R440-R444, R451): the next SEQ, the entries that wait to be placed, the sector kept erased, the clear that runs with its ceiling and
boundary, the CRITICAL entries acknowledged, the banks, the sectors that a read has marked for refresh and those being refreshed since the
Plinth's start (R429, R442). -/
structure Recorder where
  nextSeq  : Nat
  queue    : List EvtRec
  erased   : Nat
  clearing : Option (Nat × Nat)
  acked    : List Nat
  banks    : List Bank
  full     : Bool
  worn     : List Nat
  renew    : List Nat
  deriving DecidableEq, Repr

/-! ### The Plinth (16, 17) -/

/-- A key-store image (R435): its sequence, generations, wall id and key, IV domain, SUBSTITUTE and the sector map (R430). The secrets that no routine returns are not
modelled as bytes. -/
structure KsImage where
  seq     : Nat
  gen     : Nat
  pendGen : Nat
  wallId  : Nat
  wallKey : Option Bytes
  domain  : BitVec 16
  subst   : Bool
  spares  : List (Nat × Nat)
  deriving DecidableEq, Repr

/-- The options in force (R431). -/
structure Options where
  portMode  : Nat
  deepest   : Nat
  maxFrame  : Nat
  budget    : Nat
  ptpDomain : Nat
  ptpMode   : Nat
  enclosure : Nat
  rack      : Nat
  joinAuto  : Bool
  joinPort  : Nat
  joinWall  : Nat
  joinAddr  : Nat
  assetTag  : Bytes
  deriving DecidableEq, Repr

/-- A service session (R461): its rights, when its ticket expires, and the ticket's severity ceiling. -/
structure Session where
  n       : Nat
  rights  : BitVec 16
  until_  : Nat
  ceiling : Nat
  deriving DecidableEq, Repr

/-- The Plinth (R421-R424, R435-R438, R461, R462, R486, R488, R490): its supplies and time; when each wythe last heard its heartbeat and
since when it has missed it; the key store, calibration and options as loaded; the running start with its number and place in the ring; the
saved DRAM training and marks; restarts under way and failed, and wythes left held; service sessions, accepted tickets, owner authority keys; a brick reset that
waits, with the checks of the Plinth's next start; the PORT_MODE that the wythes read; and the count of each wythe's restarts. -/
structure Plinth where
  up        : Bool
  auxA      : Nat
  auxB      : Nat
  auxAt     : Nat
  vbus      : Nat
  advert    : Nat
  pd        : Bool
  usbData   : Bool
  source    : Nat
  lostAt    : Option Nat
  time      : Nat
  timeAt    : Nat
  uncertain : Bool
  resetAt   : Nat
  slotB     : Bool
  fallback  : Bool
  hb0       : Nat
  hb1       : Nat
  lost0     : Option Nat
  lost1     : Option Nat
  failed    : Bool
  recovery  : Bool
  ksA       : Option KsImage
  ksB       : Option KsImage
  ksOk      : Bool
  calOk     : Bool
  optsOk    : Bool
  opts      : Options
  startOn   : Bool
  startNo   : Nat
  failStarts : Nat
  goodAt    : Nat
  ringPos   : Nat
  heldOff   : Bool
  training  : List (Wy × Nat)
  marks     : List (Wy × Nat)
  thermal   : List Wy
  restarts  : List (Wy × Nat)
  failures  : List (Wy × Nat)
  leftHeld  : List Wy
  replace   : Bool
  sessions  : List Session
  nextSession : Nat
  tickets   : List (Nat × Nat)
  authorities : List Bytes
  brickReset : Option (Bool × Bool × Bool)
  storeMode : Nat
  cnt0      : Nat
  cnt1      : Nat
  deriving DecidableEq, Repr

/-! ### The front panel (17, 22) -/

/-- The front panel and the sideband contacts of the two halves (R448-R459, R526, R527): the latch, presence and early-warning contacts, the
since when locate is active and which locate contacts are asserted; the label's page, when it was last touched, its refresh, a touch kept
(the page asked for, or the next) and what its last refresh drew; the state of removal, its refusal, the request being judged with its source and return period, the return
deadline; SLOT_ID, mating cycles, and the SMBus alert. -/
structure Front where
  latchClosed : Bool
  presentA  : Bool
  presentB  : Bool
  absentAt  : Option Nat
  early     : Bool
  locateAt  : Option Nat
  contactA  : Bool
  contactB  : Bool
  page      : Nat
  touchedAt : Option Nat
  refreshing : Bool
  refreshAt : Nat
  kept      : Option (Option Nat)
  shown     : List Nat
  removeSt  : Nat
  refusedAt : Option Nat
  reason    : Nat
  asking    : Option (Nat × Option Nat)
  deadline  : Option Nat
  unclean   : Bool
  slotA     : Nat
  slotB     : Nat
  mating    : Nat
  alertHeld : Bytes
  alert     : Bool
  deriving DecidableEq, Repr

/-! ### Health (18) -/

/-- The record of a temperature sensor (R465, R471, R472, R481), in 0.1 °C: the seconds spent in each band, since when it has stayed 5 °C below its warning point, and below it,
when it last raised TEMP_HIGH, and the actions in force. -/
structure TempRec where
  cur     : Int
  high    : Int
  low     : Int
  highAt  : Nat
  lowAt   : Nat
  seen    : Bool
  secs    : List Nat
  cool5   : Option Nat
  cool    : Option Nat
  warned  : Option Nat
  armed   : Bool
  limited : Bool
  over10  : Bool
  deriving DecidableEq, Repr

/-- An ageing sensor (R466): the delay shift in ppm, its slope in 0.001 ppm a day, and the day it was measured. -/
structure AgeRec where
  shift : Int
  slope : Int
  day   : Nat
  deriving DecidableEq, Repr

/-- A test of a hold-up bank (R472): the day, the capacitance in 0.01% of rated, ESR in mΩ and usable energy in 0.1 J. -/
structure CapTest where
  day    : Nat
  cap    : Nat
  esr    : Nat
  energy : Nat
  deriving DecidableEq, Repr

/-- A hold-up bank (R467, R468): charged, its last tests, newest last, and how many steps of CAP_AGEING it has passed. -/
structure CapBank where
  charged : Bool
  tests   : List CapTest
  warned  : Nat
  deriving DecidableEq, Repr

/-- A lost-chunk entry of the health log (R250, R472). -/
structure LostChunk where
  fp     : Bytes
  stripe : Nat
  time   : Nat
  deriving DecidableEq, Repr

/-- The health of the brick (R465-R474): daily values of the factors WEAR, SPARES, HOLDUP and AGEING, and of ageing sensor n under 16 + n, as
(factor, day, value); the health-log sections as last rewritten, and the copies that the two HLT pages have latched. -/
structure Health where
  temps     : List TempRec
  ages      : List AgeRec
  caps      : List CapBank
  testing   : Option Nat
  testAt    : Nat
  wait      : List Nat
  daily     : List (Nat × Nat × Int)
  eolDay    : Nat
  eolFactor : Nat
  warn180   : Bool
  warn30    : Bool
  wearWarn  : Nat
  holdupLow : Option Nat
  matingDay : Option Nat
  fragBytes : Nat
  mediaBytes : Nat
  lost      : List LostChunk
  logAt     : Nat
  logValid  : Bool
  log       : List Bytes
  latch0    : Option Bytes
  latch1    : Option Bytes
  cutAt     : Option Nat
  cut       : Nat
  deriving DecidableEq, Repr

/-! ### Power and start (19) -/

/-- A 12 V input (R475, R526): its voltage in mV, its switch and when that last changed, and PWRDIS. -/
structure Input where
  mv     : Nat
  on     : Bool
  at_    : Nat
  pwrdis : Bool
  deriving DecidableEq, Repr

/-- Hold-up (R476-R478): when it began, the wythes that have not reported done, the dumps begun (wythe, set, generation) and those that have
ended. -/
structure HoldUp where
  at_   : Nat
  wait  : List Wy
  begun : List (Wy × Nat × Nat)
  ended : List Nat
  deriving DecidableEq, Repr

/-- Where a wythe stands in its start (R487): the last step completed, whether a step has FAILED, whether IMAGE_VERIFY or SETTINGS_LOAD ended
ALTERNATE, the cause of its reset and when it was reset, its image slot and whether that is a trial, when it arrived at TIE_SYNC, and the
steps ended with result and variant (R438). -/
structure StartSt where
  step     : Nat
  failed   : Bool
  alternate : Bool
  cause    : Nat
  resetAt  : Nat
  slotB    : Bool
  trial    : Bool
  arriveAt : Option Nat
  ended    : List (Nat × Nat × Nat)
  deriving DecidableEq, Repr

/-! ### Firmware (20) -/

/-- A component slot (R493, R497, R498): component, set (0 for PLINTH), slot A or B, its header, whether its payload is authentic and whether that
has been found, the read-threshold or conversion table it holds, and its stamps (kind, activation sequence, time), newest last. -/
structure FwSlot where
  comp   : Nat
  set    : Nat
  slotB  : Bool
  hdr    : Option ImgHeader
  good   : Bool
  auth   : Bool
  table  : Bytes
  stamps : List (Nat × Nat × Nat)
  deriving DecidableEq, Repr

/-- The running activation (R502, R503): component, wythe, WITH_CONVERSION, its stage (FWU_STATUS.STAGE), its slot and activation sequence, when it was
asked for, when its trial was reset, the next brick port of SERDES, and when that port's lanes were reloaded. -/
structure Activation where
  comp    : Nat
  w       : Wy
  slotB   : Bool
  conv    : Bool
  stage   : Nat
  seq     : Nat
  at_     : Nat
  trialAt : Option Nat
  port    : Nat
  portAt  : Option Nat
  deriving DecidableEq, Repr

/-- A generation of the settings store (R505). -/
structure SetGen where
  gen    : Nat
  format : Nat
  recs   : List Setting
  deriving DecidableEq, Repr

/-- Firmware and settings (R493-R508): the slots, the running activation, the wythe that RESTART_SELF restarts, the settings-store
generations of the two sets, newest last, and the version of the wall's settings and policies that they hold (R506). -/
structure Fw where
  slots   : List FwSlot
  act     : Option Activation
  restart : Option Wy
  store0  : List SetGen
  store1  : List SetGen
  stored  : Nat
  deriving DecidableEq, Repr

end Sys2Proof.Machine
end

