-- ==== Sys2Proof/Machine/MediaParts.lean ====
section
/-! DEFINITION. The state of the media (10-12): channels, dies, blocks, chisel requests, superblocks, rounds, the fragment map, its
journal, and the anchor. -/

namespace Sys2Proof.Machine

/-- The states of a block in the chisel state table (R346). -/
inductive BlkSt where
  | unknown
  | erased
  | opened
  | full
  | failed
  deriving DecidableEq, Repr

/-- What a block is used for by its set (R292, R307, R309, R325-R327). -/
inductive BlkUse where
  | free
  | taken
  | intent
  | retired (cause : Nat)
  deriving DecidableEq, Repr

/-- A block: its entry of the chisel state table (R346-R348) and its set's record of it (R291, R326). -/
structure Blk where
  st      : BlkSt
  qlc     : Bool
  wp      : Nat
  intent  : Nat
  doneSeq : Nat
  use     : BlkUse
  wear    : Nat
  lastQlc : Bool
  erases  : Nat
  weak    : List Nat
  deriving DecidableEq, Repr

/-- An erase record seen in a code word (R348): ERASE_INTENT or ERASE_DONE, its WRITE_SEQ and CRC, and the channel. -/
structure SeenErase where
  intent  : Bool
  seq     : Nat
  crc     : Nat
  channel : Nat
  deriving DecidableEq, Repr

/-- A die (R327, R330, R333, R351): `age` is its equivalent-age counter in units of 2^-32 hours, `goneAt` when it was
retired (R451). -/
structure DieSt where
  hung     : Bool
  fails    : Nat
  retired  : Bool
  goneAt   : Option Nat
  spares   : Nat
  uncorr   : List Nat
  temp     : Int
  age      : Nat
  corrSlc  : Int
  corrQlc  : Int
  calTemp  : Int
  parityReads : Nat
  uncReads : Nat
  calAt    : Nat
  deriving DecidableEq, Repr

/-- The ownership modes of a channel (R341). -/
inductive ChanMode where
  | none
  | home
  | lent
  | cover
  deriving DecidableEq, Repr

/-- A channel's arbiter and state (R26, R341-R343, R326). -/
structure ChanSt where
  owner     : Option Wy
  mode      : ChanMode
  releasing : Bool
  lending   : Bool
  degraded  : Bool
  trained   : Bool
  answering : Nat
  deriving DecidableEq, Repr

/-- What a chisel request was issued for: the firmware that sent a command, a share of a write round, an erase of a
superblock or of blocks of none (a dump reserve, an intent found at start), a calibration, or the read of a page that holds units asked
for, or of another member of its stripe. -/
inductive ChFor where
  | firmware
  | round (set sb seq : Nat)
  | erase (set sb : Nat) (cause : Nat)
  | eraseOnly (set : Nat)
  | calibration
  | unitRead (read page member : Nat)
  deriving DecidableEq, Repr

/-- Where a chisel request stands (R349-R351). -/
inductive ChSt where
  | held
  | queued
  | running
  | suspended
  | inSuspension
  deriving DecidableEq, Repr

/-- An accepted chisel request (R344). -/
structure ChJob where
  id       : Nat
  w        : Wy
  routine  : Routine
  req      : ChReq
  what     : ChFor
  st       : ChSt
  waited   : Bool
  started  : Nat
  resumed  : Nat
  ran      : Nat
  suspends : Nat
  deriving DecidableEq, Repr

/-- A unit of an owner (R281, R311). -/
structure UnitRef where
  typ   : Nat
  owner : Nat
  gen   : Nat
  unit  : Nat
  last  : Bool
  deriving DecidableEq, Repr

/-- The streams of open superblocks (R293). -/
inductive Stream where
  | qlcFrag
  | qlcFold
  | slcFrag
  | slcIndex
  | slcJournal
  deriving DecidableEq, Repr

/-- The states of a write round (R288, R289). -/
inductive RoundSt where
  | filling
  | programming
  | durable
  | failed
  deriving DecidableEq, Repr

/-- A write round (R286-R289): its units in fill order, the member dies still to answer DONE, and the copies it moves
(fold, collection) with the superblock they leave. -/
structure Round where
  wl      : Nat
  seq     : Nat
  time    : Nat
  msns    : List Nat
  cls     : Nat
  firstAt : Nat
  units   : List UnitRef
  st      : RoundSt
  wait    : List Nat
  folded  : Bool
  srcs    : List (Nat × Nat)
  deriving DecidableEq, Repr

/-- A history entry of a superblock (R331), of its 64 word lines from 64 × `line`: the earliest WRITE_TIME of its rounds, the counters of the member dies at that round, the TEMP of its
rounds as a sum over so many programs, in 0.1 °C, and the block wear at OPEN. -/
structure HistEntry where
  line    : Nat
  time    : Nat
  ages    : List Nat
  tempSum : Int
  temps   : Nat
  wear    : Nat
  deriving DecidableEq, Repr

/-- A superblock (R284, R293, R301, R331). `blocks` lists the four planes' blocks of each member die. -/
structure SuperBlk where
  id       : Nat
  row      : Nat
  stream   : Stream
  qlc      : Bool
  dies     : List Nat
  blocks   : List (Nat × List Nat)
  msn0     : Nat
  nextWl   : Nat
  rounds   : List Round
  closed   : Bool
  short    : Bool
  closedAt : Nat
  closeSeq : Nat
  openWear : Nat
  refresh  : Bool
  failed   : List Nat
  emptied  : List (Nat × Nat)
  erasing  : List Nat
  copying  : Bool
  patrolAt : Nat
  history  : List HistEntry
  deriving DecidableEq, Repr

/-- An extent of the fragment map (R311): consecutive units of one owner generation at consecutive places, or a hole. -/
structure Extent where
  typ   : Nat
  owner : Nat
  gen   : Nat
  unit  : Nat
  count : Nat
  hole  : Bool
  row   : Nat
  msn   : Nat
  pos   : Nat
  cw    : Nat
  sb    : Nat
  seq   : Nat
  deriving DecidableEq, Repr

/-- A map-journal record (R312) and when it was appended. -/
structure JRec where
  owner : Nat
  gen   : Nat
  unit  : Nat
  count : Nat
  op    : Nat
  typ   : Nat
  row   : Nat
  pos   : Nat
  cw    : Nat
  msn   : Nat
  at_   : Nat
  deriving DecidableEq, Repr

/-- A journal segment (R313). -/
structure Seg where
  num     : Nat
  recs    : List JRec
  units   : Nat
  cover   : Nat
  ckpt    : Bool
  last    : Bool
  start   : Nat
  durable : Bool
  deriving DecidableEq, Repr

/-- An anchor journal record (R317), by KIND with the parts a restart uses. -/
inductive AnchorRec where
  | open_ (sb : Nat) (row : Nat) (qlc : Bool) (dies : List Nat) (blocks : List (Nat × List Nat)) (msn : Nat)
  | close (sb : Nat) (short : Bool) (lastWl : Nat) (history : List HistEntry)
  | eraseIntent (die mask : Nat) (blocks : List Nat) (cause : Nat)
  | eraseDone (die mask : Nat) (blocks : List Nat) (wear : List Nat)
  | retireBlock (die plane block cause : Nat)
  | retireDie (die cause : Nat) (done : Bool)
  | channelState (channel : Nat) (degraded : Bool) (done : Bool)
  | checkpoint (first start cover : Nat)
  | blockTable (slice : Nat) (rows : List (Nat × BlkUse × Nat))
  | equivAge (ages : List (Nat × Nat))
  | seqReserve (thru : Nat)
  | cleanStop (cover : Nat)
  deriving DecidableEq, Repr

/-- A page that holds units asked for (R334): its superblock, word line, stripe and member, the code words asked for and those of them that
have failed, and, once its retries have failed, the members of its stripe whose code words have arrived. -/
structure PageRead where
  sb     : Nat
  wl     : Nat
  stripe : Nat
  member : Nat
  words  : Nat
  failed : Nat
  parity : Bool
  got    : List Nat
  done   : Bool
  deriving DecidableEq, Repr

/-- A RANGE_READ that is being read from the media (R333, R334): who asked, the range, and its pages. -/
structure UnitRead where
  id     : Nat
  w      : Wy
  set    : Nat
  dst    : Nat
  dstW   : Wy
  fragId : Nat
  offset : Nat
  length : Nat
  cookie : Nat
  cls    : Nat
  pages  : List PageRead
  deriving DecidableEq, Repr

/-- One channel set (R284-R337). `dumpGen` counts its dump generations, `dumpKept` is the newest complete one in the reserve, `image` that of the
window image, `reserveErase` the dies whose part of the reserve is being erased, and `reserveMoved` the blocks that stand for retired ones of it
(R309, R322). `keySlots` and `keyResvs` are its anchor's key area: the key-slot and the newest IV reservation record of each
keyspace and key version (R174, R179, R307). -/
structure SetSt where
  seqNext   : Nat
  seqThru   : Nat
  nextSb    : Nat
  sbs       : List SuperBlk
  msn       : Table Nat
  share     : Nat
  lowSince  : Option Nat
  idleSince : Option Nat
  slcLow    : Bool
  foldFirst : Bool
  map       : List Extent
  unflushed : List JRec
  nextSeg   : Nat
  segs      : List Seg
  ckptStart : Nat
  deltaBytes : Nat
  anchor    : List (Nat × AnchorRec)
  keySlots  : List (BitVec 32 × Nat × Bytes)
  keyResvs  : List (BitVec 32 × Nat × Bytes)
  copyA     : Bool
  copyB     : Bool
  lostAt    : Option Nat
  rebuildCh : List Nat
  spareAnchor : Nat
  ageAt     : Nat
  dieRebuild : List Nat
  dumpGen   : Nat
  dumpMiB   : Nat
  dumpWhole : Bool
  dumpKept  : Option Nat
  image     : Option Nat
  reserveErase : List Nat
  reserveMoved : List (Nat × Nat)
  restored  : Bool
  loaded    : Bool
  scanned   : Bool
  rebuildRanges : List (Nat × Nat)
  waiting   : List (Stream × Nat × List UnitRef)
  deriving DecidableEq, Repr

/-- The read-threshold table that is loaded (R332). -/
structure RdTable where
  version : Nat
  bytes   : Bytes
  deriving DecidableEq, Repr

/-- The media settings of the settings store (R323, R335). -/
structure MediaSettings where
  lowMark   : Nat
  target    : Nat
  refreshAt : Nat
  patrolDays : Nat
  deriving DecidableEq, Repr

/-- The media of the brick; `stepHist` and `bitHist` are the error histograms of the health log (R472). `cells` holds the code words that chisel programs of the firmware wrote; the code words of the sets'
own rounds are those of their rounds' units. -/
structure Media where
  chans   : Table ChanSt
  dies    : Table DieSt
  blocks  : Table Blk
  cells   : Table Cw
  seen    : List SeenErase
  jobs    : List ChJob
  nextJob : Nat
  set0    : SetSt
  set1    : SetSt
  table   : Option RdTable
  cfg     : MediaSettings
  dumping : Bool
  worn    : Bool
  stepHist : Table Nat
  bitHist : Table Nat
  reads   : List UnitRead
  nextRead : Nat
  deriving DecidableEq, Repr

end Sys2Proof.Machine
end

