-- ==== Sys2Proof/Machine/State.lean ====
section
/-! DEFINITION. The machine's state: plain data holding every piece of state the spec gives the brick, the queue of waiting
commands and the outbox; the machine after reset; its faults and refusals. -/

namespace Sys2Proof.Machine

/-- Why the machine stops. No command of the brick stops it: a request the brick cannot carry out is refused without
changing state and reported in a status, result or error code (R5). -/
inductive Fault where
  /-- Raised by no command; a term that the WellFormed check refuses is no command of the brick. Safe. -/
  | illFormed
  deriving DecidableEq, Repr

/-- Why the machine gives a command no meaning. -/
inductive Refusal where
  /-- A command without a meaning in this model, rejected by name in the dispatch. Safe: nothing is claimed of it. -/
  | notModelled (mnemonic : String)
  deriving DecidableEq, Repr

/-- The key index, outcomes, keyspaces, partition map and casts the brick holds (02, 04, 09). `unplaced` are the records of a wythe's own
window half that its peer has not confirmed in the mirror (R20). -/
structure Store where
  index     : List KeyHist
  outcomes  : List OutcomeRec
  keyspaces : List Keyspace
  map       : PartMap
  parts     : List PartSt
  replRecs  : List ReplRec
  unplaced  : List (Wy × Placing)
  standbyClosed : List (Nat × Nat)
  standbyEpoch : List (Nat × Nat)
  casts     : List Cast
  holds     : List (Nat × BitVec 32 × Nat)
  armOutcomes : List OutcomeRec
  deriving DecidableEq, Repr

/-- A buffer of a pool (R361, R363): its generation, 0 FREE, 1 OWNED or 2 SHARED, its owner and its count. -/
structure Buf where
  gen   : Nat
  st    : Nat
  owner : Nat
  count : Nat
  deriving DecidableEq, Repr

/-- A queued allocation (R366), numbered as it arrived. -/
structure BufWait where
  order : Nat
  req   : BufReq
  deriving DecidableEq, Repr

/-- A buffer pool (R358-R367): its count, its buffers but those never allocated, the free count, the lowest since last read (none where a read has cleared it and
no count has changed since), the handles in
the on-chip cache, allocations queued with WAIT, and answers that wait for a refill (R360): requester, handle, cookie. -/
structure Pool where
  count   : Nat
  bufs    : Table Buf
  free    : Nat
  low     : Option Nat
  cache   : Nat
  waiting : List BufWait
  stalled : List (Nat × Nat × Nat)
  deriving DecidableEq, Repr

/-- The buffer pool manager of a wythe (13). -/
structure Bpm where
  pools : List Pool
  next  : Nat
  ready : Bool
  deriving DecidableEq, Repr

/-- The PTP clock of a wythe (R389): its reading, in units of 2^-28 ns, at the time `at_`; from there it runs at PTP_INCR
per grout cycle, and by how much the last 1PPS edge disagreed (R223). -/
structure PtpClock where
  value : Nat
  at_   : Nat
  ppsNs : Nat
  deriving DecidableEq, Repr

/-- A timestamp queue entry (R391): the issuer's cookie and the time in units of 2^-28 ns. -/
structure TsEntry where
  cookie : Nat
  raw    : Nat
  deriving DecidableEq, Repr

/-- A frame on the wire: when it started, and its timestamp. -/
structure Sending where
  frame : TxFrame
  from_ : Nat
  raw   : Nat
  deriving DecidableEq, Repr

/-- A data port of a wythe (14): its link, its address in the map and whether it is reported down, the Clause 79 agreement, LPI, the
priorities paused (until, since), ignored (until) or for which XOFF has been sent, the frame being sent and the timestamp queue. -/
structure Port where
  linkUp   : Bool
  trained  : Bool
  changed  : Nat
  reported : Bool
  addr     : BitVec 128
  twTx     : Nat
  twRx     : Nat
  agreed   : Bool
  lpiTx    : Bool
  lpiRx    : Bool
  lpiAt    : Nat
  idleAt   : Nat
  paused   : List (Nat × Nat × Nat)
  ignored  : List (Nat × Nat)
  xoff     : List Nat
  sending  : Option Sending
  stamps   : List TsEntry
  deriving DecidableEq, Repr

/-- A RoCEv2 queue pair (R387, R388): its queue and port, its retries, its rate RC in Mb/s and α, and when a CNP was last sent and the rate
last changed. -/
structure RocePair where
  q       : Nat
  port    : Nat
  retries : Nat
  rnr     : Nat
  rate    : Rat
  alpha   : Rat
  cnpAt   : Option Nat
  rateAt  : Nat
  deriving DecidableEq, Repr

/-- The power state of the brick (R109, R110, R418, R479, R480) and what runs of its two wythes (R24-R30). -/
structure PowerState where
  ps        : Nat
  waking    : Bool
  lastCmd   : Nat
  deriving DecidableEq, Repr

/-- What runs of the two wythes: running flags, the wythe that covers the other, since when, whether by a hand-over of an activation, and
whether the tie failed first, the tie and its lanes, the cross-reset lines, and the wythes released from reset (R24-R30, R419, R445). -/
structure Cover where
  run0      : Bool
  run1      : Bool
  coverer   : Option Wy
  tieUp     : Bool
  lastHb0   : Nat
  lastHb1   : Nat
  failNote0 : Bool
  failNote1 : Bool
  held0     : Bool
  held1     : Bool
  holdEarned : Bool
  handingBack : Bool
  planned   : Bool
  since     : Nat
  tieFailed : Bool
  lanes     : Nat
  rel0      : Bool
  rel1      : Bool
  deriving DecidableEq, Repr

/-- One wythe: a controller die with its queues, clocks, keys, flows and endpoint. -/
structure Wythe where
  relief : Relief
  clk    : Clocks
  cip    : Cip
  codec  : List CodecJob
  mortar : MortarW
  pcie   : Pcie
  bpm    : Bpm
  ptp    : PtpClock
  portMode : Nat
  ports  : List Port
  pairs  : List RocePair
  serving : Bool
  start  : StartSt
  deriving DecidableEq, Repr

/-- The brick. `now` is the time since reset in nanoseconds and `fresh` the counter of free values (both the model's own,
logs 2 and 3); `pending` holds the commands that wait, first in first out; `out` what the brick has put out. -/
structure State where
  now     : Nat
  fresh   : Nat
  pending : List Instr
  out     : List Output
  regs    : Table Word
  active  : Table Word
  w0      : Wythe
  w1      : Wythe
  wall    : Wall
  store   : Store
  tileFaults : List (Wy × Nat × Nat)
  stripes : Stripes
  refs    : Refs
  heldMortar : List (Nat × Wy × Instr)
  syncQueue : List (Nat × Instr)
  media   : Media
  units   : List UnitJob
  jobRuns : List (Wy × JobRef × TileKind × List (Fin 128))
  arriving : List EvtRec
  flash   : Flash
  recorder : Recorder
  plinth  : Plinth
  front   : Front
  health  : Health
  inA     : Input
  inB     : Input
  holdup  : Option HoldUp
  fw      : Fw
  pwr     : PowerState
  cover   : Cover
  deriving DecidableEq, Repr

/-! ### Reset -/

/-- The Relief state at reset: no queue (R87, R104). -/
def Relief.reset : Relief :=
  { queues := [], cmds := [], commits := [], nextCmd := 0, lastMeta := 0, lastRead := 0, lastWrite := 0,
    uploads := [], held := [], drain := none, unsealed := [], pulls := [] }

/-- The clocks at reset: no version assigned, not yet disciplined. -/
def Clocks.reset : Clocks :=
  { hlc := 0, inSync := false, quietSince := none, closed := 0 }

/-- The cipher block at reset (R189): no domain, no key-encryption key, no slot. -/
def Cip.reset : Cip :=
  { domain := 0, substitute := false, domainValid := false, nextDomain := none, kekLoaded := false, kekGen := 0, kek := [],
    wallKey := [], slots := [], cache := [], jobs := [], nextOrder := 0, resvSeq := 0, resvLost := false }

/-- The Mortar state of a wythe at reset. -/
def MortarW.reset : MortarW :=
  { flows := [], hbSeq := 0, inc := 0, ptpRole := .noMaster, ptpPort := 0, uncertNs := 0, offsetNs := 0, lostAt := none }

/-- The endpoint at reset (R397): the link is down until LINK_TRAIN (R398), every queue page FREE. -/
def Pcie.reset : Pcie :=
  { bme := false, d3hot := false, linkUp := false, speed := 0, width := 0, aer := 0, pages := [],
    msix := [] }

/-- The wall settings' defaults (R190, R133, R101). The wall id has none: it stands as zero, which names no wall. -/
def wallDefaults : WallSettings :=
  { wallId := 0, udpPort := 7410, mtu := 9000, k := 16, m := 4, fragBytes := 1048576, groups := 65536, codeTable := 1,
    armSize := 5, lossDelayS := 600, admitList := false, admitted := [], ptpInternal := false, ptpDomain := 0,
    ppsIn := false, epsUs := 200, closedLagMs := 10, retainS := 600, gear := none, thinPct := 50, codeRows := [], tierMbs := [], tierPct := [] }

/-- The armature at reset: this brick holds no part of it. -/
def Armature.reset : Armature :=
  { role := .none, term := 0, votedFor := none, leader := none, log := [], commit := 0, votes := [], matched := [],
    silent := [], lastAppend := 0, members := [] }

/-- The wall state at reset: UNJOINED (R226). -/
def Wall.reset : Wall :=
  { st := .unjoined, settings := wallDefaults, settingsVer := 0, identity := false, brickId := none,
    opened := false, epoch := 0, castVersion := 0, wallClosed := 0, bricks := [], domains := [],
    bond := { version := 0, epoch := 0, encCap := 0, rackCap := 0, rows := [] }, arm := .reset, hb := [],
    leaseUntil := 0, ready := false, removeReady := false, stopping := false, fullFlag := false, evacuating := false, unmovable := [], lowSpace := 0, joinAt := 0,
    countRest := [], keys := [], nextCast := 1, joins := [], joinKey := none, links := [], armAddrs := [], asks := [],
    fetched := [], compat := 0 }

/-- The store at reset: no map, no keyspace, no key. -/
def Store.reset : Store :=
  { index := [], outcomes := [], keyspaces := [], map := { version := 0, epoch := 0, parts := [], bricks := [] },
    parts := [], replRecs := [], unplaced := [], standbyClosed := [], standbyEpoch := [], casts := [], holds := [], armOutcomes := [] }

/-- No stripe, fragment or rebuild entry at reset. -/
def Stripes.reset : Stripes :=
  { recs := [], frags := [], detours := [], catchUp := [], rebuild := [], budgetAt := [0, 0, 0], repairs := [], exposure := [] }

/-- No reference state at reset. -/
def Refs.reset : Refs :=
  { groups := [], deltas := [], deltaSeq := [], garbage := [], swept := [], links := [], ships := [], staged := [],
    lands := [], linkKeys := [], far := [], held := [] }

/-- A channel set at reset: nothing written, the share at its reset value (R310). Both anchor copies stand; the spec gives no
contents of a new brick's anchor (log 21). -/
def SetSt.reset : SetSt :=
  { seqNext := 0, seqThru := 0, nextSb := 0, sbs := [], msn := [], share := 20, lowSince := none, idleSince := none,
    slcLow := false, foldFirst := false, map := [], unflushed := [], nextSeg := 0, segs := [], ckptStart := 0, deltaBytes := 0,
    anchor := [], keySlots := [], keyResvs := [], copyA := true, copyB := true, lostAt := none, rebuildCh := [], spareAnchor := 4, ageAt := 0,
    dieRebuild := [], dumpGen := 0, dumpMiB := 8192, dumpWhole := true, dumpKept := none, image := none, reserveErase := [],
    reserveMoved := [], restored := false, loaded := false, scanned := false,
    rebuildRanges := [], waiting := [] }

/-- The media at reset: no channel owned (R341), every block UNKNOWN (R346), no threshold table loaded (R352), the media
settings at their defaults (R323, R335). -/
def Media.reset : Media :=
  { chans := [], dies := [], blocks := [], cells := [], seen := [], jobs := [], nextJob := 0, set0 := .reset, set1 := .reset,
    table := none, cfg := { lowMark := 48, target := 96, refreshAt := 4, patrolDays := 30 }, dumping := false, worn := false, stepHist := [], bitHist := [], reads := [], nextRead := 0 }

/-- A pool before its ring has been filled: no free buffer (R368, R369). -/
def Pool.reset (count : Nat) : Pool :=
  { count := count, bufs := [], free := 0, low := some 0, cache := 0, waiting := [], stalled := [] }

/-- The buffer pool manager at reset: the default counts (R358), no ring filled. -/
def Bpm.reset : Bpm :=
  { pools := [4194304, 1048576, 262144, 131072, 32768, 8192].map Pool.reset, next := 0, ready := false }

/-- A port before LINK_TRAIN: no link. -/
def Port.reset : Port :=
  { linkUp := false, trained := false, changed := 0, reported := false, addr := 0, twTx := 0, twRx := 0, agreed := false, lpiTx := false,
    lpiRx := false, lpiAt := 0, idleAt := 0, paused := [], ignored := [], xoff := [], sending := none, stamps := [] }

/-- The flash as delivered: nothing of it is modelled as programmed, no counter raised (R425-R434). The calibration row reads as
`Config.calByte` gives it. -/
def Flash.reset : Flash :=
  { words := [], erase := none, waiting := [], bad := [], moved := [], counters := List.replicate 8 0 }

/-- A bank of the EVR and PFL pages at reset (R446, R447). -/
def Bank.reset : Bank :=
  { cursor := 0, hiHeld := none, latch := none, seen := [], atEnd := false, addr := 0, data := List.replicate 32 0xFF, result := 0 }

/-- The recorder as delivered: empty, with sector 58 kept erased. -/
def Recorder.reset : Recorder :=
  { nextSeq := 0, queue := [], erased := 58, clearing := none, acked := [], banks := List.replicate 5 .reset, full := false, worn := [],
    renew := [] }

/-- The defaults of the options (R431). -/
def Options.defaults : Options :=
  { portMode := 2, deepest := 3, maxFrame := 9216, budget := 1920, ptpDomain := 0, ptpMode := 0, enclosure := 0, rack := 0,
    joinAuto := false, joinPort := 7410, joinWall := 0, joinAddr := 0, assetTag := List.replicate 64 0 }

/-- The key-store image of a brick as delivered (R435): the first image, no wall. -/
def KsImage.delivered : KsImage :=
  { seq := 1, gen := 0, pendGen := 0, wallId := 0, wallKey := none, domain := Config.calByte 25 ++ Config.calByte 24, subst := false,
    spares := [] }

/-- The Plinth before any supply reaches it (R422). -/
def Plinth.reset : Plinth :=
  { up := false, auxA := 0, auxB := 0, auxAt := 0, vbus := 0, advert := 0, pd := false, usbData := false, source := 0, lostAt := none,
    time := 0, timeAt := 0, uncertain := true, resetAt := 0, slotB := false, fallback := false, hb0 := 0, hb1 := 0, lost0 := none,
    lost1 := none, failed := false, recovery := false, ksA := some .delivered, ksB := none, ksOk := false, calOk := false, optsOk := false,
    opts := .defaults, startOn := false, startNo := 0, failStarts := 0, goodAt := 0, ringPos := 63, heldOff := false,
    training := [], marks := [], thermal := [], restarts := [], failures := [], leftHeld := [], replace := false, sessions := [],
    nextSession := 1, tickets := [], authorities := [], brickReset := none, storeMode := 0, cnt0 := 0, cnt1 := 0 }

/-- The front panel as delivered (R533): out of its enclosure with the latch closed, the label on page 0. -/
def Front.reset : Front :=
  { latchClosed := true, presentA := false, presentB := false, absentAt := none, early := false, locateAt := none,
    contactA := false, contactB := false, page := 0, touchedAt := none, refreshing := false, refreshAt := 0, kept := none, shown := [],
    removeSt := 0, refusedAt := none, reason := 0, asking := none, deadline := none, unclean := false, slotA := 0, slotB := 0, mating := 0,
    alertHeld := [], alert := false }

/-- The record of a temperature sensor never sampled. -/
def TempRec.reset : TempRec :=
  { cur := 0, high := 0, low := 0, highAt := 0, lowAt := 0, seen := false, secs := List.replicate 16 0, cool5 := none,
    cool := none, warned := none, armed := true, limited := false, over10 := false }

/-- The health record as delivered. -/
def Health.reset : Health :=
  { temps := List.replicate 32 .reset, ages := List.replicate 16 { shift := 0, slope := 0, day := 0 },
    caps := List.replicate 2 { charged := false, tests := [], warned := 0 }, testing := none, testAt := 0, wait := [],
    daily := [], eolDay := 65535, eolFactor := 0, warn180 := false, warn30 := false, wearWarn := 0, holdupLow := none,
    matingDay := none, fragBytes := 0, mediaBytes := 0, lost := [], logAt := 0, logValid := false, log := [], latch0 := none, latch1 := none,
    cutAt := none, cut := 0 }

/-- A 12 V input with no supply (R475). -/
def Input.reset : Input := { mv := 0, on := false, at_ := 0, pwrdis := false }

/-- A wythe's start: no step done. -/
def StartSt.reset : StartSt :=
  { step := 0, failed := false, alternate := false, cause := 0, resetAt := 0, slotB := false, trial := false, arriveAt := none, ended := [] }

/-- The header of a factory image (R533); the spec gives none of its values but the target and what R496 asks. -/
def factoryHdr (c : Nat) : ImgHeader :=
  { component := c, formOk := true, sigOk := true, target := 0x0410, steppings := 2, func := 0x01000000, compat := 0, security := 0, len := 1,
    setFormat := 1, readMin := 1, convFrom := 0, convTo := 0 }

/-- Slot A of a component holds the factory image, COMMITTED; slot B is empty (R533). -/
def FwSlot.delivered (c set : Nat) : List FwSlot :=
  [{ comp := c, set := set, slotB := false, hdr := some (factoryHdr c), good := true, auth := true, table := [], stamps := [(4, 1, 0)] },
   { comp := c, set := set, slotB := true, hdr := none, good := false, auth := false, table := [], stamps := [] }]

/-- The firmware and settings as delivered (R533). -/
def Fw.reset : Fw :=
  { slots := FwSlot.delivered 1 0 ++ FwSlot.delivered 2 0 ++ FwSlot.delivered 2 1 ++ FwSlot.delivered 3 0 ++ FwSlot.delivered 3 1
      ++ FwSlot.delivered 4 0 ++ FwSlot.delivered 4 1
      ++ [{ comp := 5, set := 0, slotB := false, hdr := none, good := false, auth := false, table := [], stamps := [] },
          { comp := 5, set := 1, slotB := false, hdr := none, good := false, auth := false, table := [], stamps := [] }]
    act := none
    restart := none
    store0 := []
    store1 := []
    stored := 0 }

/-- The power state at reset: PS0 (R418). -/
def PowerState.reset : PowerState := { ps := 0, waking := false, lastCmd := 0 }

/-- No wythe runs at reset; no cross-reset is held. -/
def Cover.reset : Cover :=
  { run0 := false, run1 := false, coverer := none, tieUp := false, lastHb0 := 0, lastHb1 := 0, failNote0 := false,
    failNote1 := false, held0 := false, held1 := false, holdEarned := false, handingBack := false, planned := false,
    since := 0, tieFailed := false, lanes := 0, rel0 := false, rel1 := false }

/-- A wythe at reset. -/
def Wythe.reset (_w : Wy) : Wythe :=
  { relief := .reset, clk := .reset, cip := .reset, codec := [], mortar := .reset, pcie := .reset
    , bpm := .reset
    , ptp := { value := 0, at_ := 0, ppsNs := 0 }, portMode := 0, ports := List.replicate 4 .reset, pairs := [], serving := false
    , start := .reset
  }

/-- The machine right after reset: the brick has just been powered, every register at its reset value (R404-R409),
nothing started, nothing waiting. -/
def State.reset : State :=
  { now := 0, fresh := 0, pending := [], out := [], regs := [], active := [], w0 := .reset .w0, w1 := .reset .w1,
    wall := .reset, store := .reset
    , tileFaults := []
    , stripes := .reset, refs := .reset, heldMortar := [], syncQueue := []
    , media := .reset
    , units := [], jobRuns := []
    , arriving := []
    , flash := .reset, recorder := .reset, plinth := .reset, front := .reset
    , health := .reset, inA := .reset, inB := .reset, holdup := none, fw := .reset
    , pwr := .reset, cover := .reset
  }

end Sys2Proof.Machine
end

