-- ==== Sys2Proof/Machine/Regs.lean ====
section
/-! DEFINITION. The register pages: where each page lies, its header, its map, and the reset value of every register
(R400, R403, R404, R409). -/

namespace Sys2Proof.Machine

/-- The block code of a page (R403). -/
def pageBlock : Page → Nat
  | .glb _ => 0x01 | .pwr _ => 0x02 | .clk _ => 0x03 | .rst _ => 0x04 | .tie _ => 0x05 | .hlt _ => 0x06
  | .tst _ => 0x07 | .fwu _ => 0x08 | .cip _ => 0x09 | .bpm _ => 0x0A | .med _ => 0x0B | .mtr _ => 0x0C
  | .rlf _ => 0x0D | .rdm _ => 0x0E | .ptp _ => 0x0F | .mac _ _ => 0x10 | .pnl _ _ => 0x11 | .crs _ _ => 0x12
  | .til _ _ => 0x13 | .chn _ => 0x14 | .plt => 0x20 | .pfl => 0x21 | .evr => 0x22 | .fpn => 0x23 | .svc => 0x24

/-- The level of a page (R403). -/
def pageLevel : Page → Nat
  | .pwr _ | .hlt _ | .fwu _ | .chn _ | .plt | .pfl | .evr | .fpn | .svc => 5
  | .pnl _ _ => 3
  | .crs _ _ => 2
  | .til _ _ => 1
  | _ => 4

/-- The wythe of a page, if it belongs to one. -/
def pageWy : Page → Option Wy
  | .glb w | .pwr w | .clk w | .rst w | .tie w | .hlt w | .tst w | .fwu w | .cip w | .bpm w | .med w | .mtr w
  | .rlf w | .rdm w | .ptp w | .mac w _ | .pnl w _ | .crs w _ | .til w _ => some w
  | _ => none

/-- PAGE_ID.INSTANCE (R403). The brick port number of port p of wythe w is taken as 4 × w + p. -/
def pageInstance : Page → Nat
  | .mac w p => w.num * 4 + p.val
  | .pnl w n => w.num * 0x100 + n.val
  | .crs w n => w.num * 0x100 + n.val
  | .til w n => w.num * 0x100 + n.val
  | .chn c => c.val
  | p => match pageWy p with
    | some w => w.num
    | none => 0

/-- The BAR0 offset of a page in its wythe's own range, or in the Plinth range (R400, R403). -/
def pageBase : Page → Nat
  | .glb _ => 0x0 | .pwr _ => 0x2000 | .clk _ => 0x3000 | .rst _ => 0x4000 | .tie _ => 0x5000 | .hlt _ => 0x6000
  | .tst _ => 0x7000 | .fwu _ => 0x8000 | .cip _ => 0x9000 | .bpm _ => 0xA000 | .med _ => 0xB000 | .mtr _ => 0xC000
  | .rlf _ => 0xD000 | .rdm _ => 0xE000 | .ptp _ => 0xF000 | .mac _ p => 0x10000 + p.val * 0x1000
  | .pnl _ n => 0x100000 + n.val * 0x1000 | .crs _ n => 0x200000 + n.val * 0x1000
  | .til _ n => 0x400000 + n.val * 0x1000 | .chn c => 0x600000 + c.val * 0x1000
  | .plt => 0x2000000 | .pfl => 0x2001000 | .evr => 0x2002000 | .fpn => 0x2003000 | .svc => 0x2004000

/-- The page that lies at a BAR0 offset of a wythe's own range or of the Plinth range (R400, R403); the page at
0x0000_1000 and every other offset are unmapped. -/
def pageAt (w : Wy) (off : Nat) : Option Page :=
  let n := off / 0x1000
  if n = 0 then some (.glb w) else if n = 2 then some (.pwr w) else if n = 3 then some (.clk w)
  else if n = 4 then some (.rst w) else if n = 5 then some (.tie w) else if n = 6 then some (.hlt w)
  else if n = 7 then some (.tst w) else if n = 8 then some (.fwu w) else if n = 9 then some (.cip w)
  else if n = 0xA then some (.bpm w) else if n = 0xB then some (.med w) else if n = 0xC then some (.mtr w)
  else if n = 0xD then some (.rlf w) else if n = 0xE then some (.rdm w) else if n = 0xF then some (.ptp w)
  else if 0x10 ≤ n ∧ n < 0x14 then some (.mac w (Fin.ofNat 4 (n - 0x10)))
  else if 0x100 ≤ n ∧ n < 0x104 then some (.pnl w (Fin.ofNat 4 (n - 0x100)))
  else if 0x200 ≤ n ∧ n < 0x210 then some (.crs w (Fin.ofNat 16 (n - 0x200)))
  else if 0x400 ≤ n ∧ n < 0x480 then some (.til w (Fin.ofNat 128 (n - 0x400)))
  else if 0x600 ≤ n ∧ n < 0x640 then some (.chn (Fin.ofNat 64 (n - 0x600)))
  else if n = 0x2000 then some .plt else if n = 0x2001 then some .pfl else if n = 0x2002 then some .evr
  else if n = 0x2003 then some .fpn else if n = 0x2004 then some .svc
  else none

/-- The key of a page in the register file: one stretch of numbers for each wythe, CHN and Plinth pages once. -/
def pageKey (p : Page) : Nat :=
  pageBase p + (match pageWy p with | some .w1 => 0x8000000 | _ => 0)

/-- The position of a course within its panel is 3 for a media course (R1, R2). -/
def isMediaCourse (c : Nat) : Bool := c % 4 = 3

/-- The kind of a tile (R2). -/
def tileKind (t : Nat) : TileKind :=
  let slot := t % 8
  if isMediaCourse (t / 8) then .media
  else if slot ≤ 1 then .protocol else if slot ≤ 4 then .codec else if slot ≤ 6 then .crypt else .control

/-- TIL_KIND [2:0] of a kind (R517). -/
def tileKindNum : TileKind → Nat
  | .protocol => 0
  | .codec => 1
  | .crypt => 2
  | .control => 3
  | .media => 4

/-- The tile of media tile i (R3). -/
def mediaTile (i : Nat) : Nat := (i / 8 * 4 + 3) * 8 + i % 8

/-- The media tile index of a channel: its home tile in its home wythe and its cover tile in the other (R3). -/
def chanIndex (c : Fin 64) : Nat := c.val % 32

/-- The home wythe of a channel (R3). -/
def chanHome (c : Fin 64) : Wy := if c.val < 32 then .w0 else .w1

/-- The map of a page. -/
def pageRows : Page → List RegRow
  | .glb _ => rowsGlb | .pwr _ => rowsPwr | .clk _ => rowsClk | .rst _ => rowsRst | .tie _ => rowsTie
  | .hlt _ => rowsHlt | .tst _ => rowsTst | .fwu _ => rowsFwu | .cip _ => rowsCip | .bpm _ => rowsBpm
  | .med _ => rowsMed | .mtr _ => rowsMtr | .rlf _ => rowsRlf | .rdm _ => rowsRdm | .ptp _ => rowsPtp
  | .mac _ _ => rowsMac | .pnl _ _ => rowsPnl
  | .crs _ n => if isMediaCourse n.val then rowsCrsm else rowsCrsc
  | .til _ _ => rowsTil | .chn _ => rowsChn | .plt => rowsPlt | .pfl => rowsPfl | .evr => rowsEvr
  | .fpn => rowsFpn | .svc => rowsSvc

/-- The common page header (R404). PAGE_REV [7:0] is the silicon revision, taken as the stepping of GLB_PART. -/
def headerRows : List RegRow :=
  [⟨PAGE_ID, .ro, 0, []⟩, ⟨PAGE_REV, .ro, 0x0101, []⟩, ⟨PAGE_CTRL, .rw, 0, [(2, 0, 0, 7)]⟩, ⟨PAGE_STATE, .ro, 0, []⟩,
   ⟨EVT_STATUS, .rw1c, 0, []⟩, ⟨EVT_ENABLE, .rw, 0, [(31, 0, 0, 0xFFFFFFFF)]⟩, ⟨EVT_FORCE, .wo, 0, []⟩,
   ⟨ERR_CODE, .ro, 0, []⟩, ⟨ERR_INFO0, .ro, 0, []⟩, ⟨ERR_INFO1, .ro, 0, []⟩, ⟨ERR_COUNT, .rc, 0, []⟩,
   ⟨PAGE_LOCK, .ws, 0, []⟩]

/-- The row of a register in its page's map. -/
def regRow (p : Page) (off : Nat) : Option RegRow :=
  (headerRows ++ pageRows p).find? (fun r => r.off = off)

/-- PAGE_ID of a page: block code, level and instance (R404). -/
def pageIdOf (p : Page) : Word := word (pageBlock p * 2 ^ 24 + pageLevel p * 2 ^ 20 + pageInstance p)

/-- The reset value of a register (R404 and the page maps). -/
def regReset (p : Page) (off : Nat) : Word :=
  if off = PAGE_ID then pageIdOf p
  else match p with
    | .glb w => if off = GLB_WYTHE then word w.num else ((regRow p off).map (fun r => word r.reset)).getD 0
    | .til _ t =>
      if off = TIL_KIND then word (tileKindNum (tileKind t.val) + t.val % 8 * 256)
      else ((regRow p off).map (fun r => word r.reset)).getD 0
    | _ => ((regRow p off).map (fun r => word r.reset)).getD 0

/-- The number of event bits a page defines in EVT_STATUS (the EVT_STATUS tables). -/
def evtBits : Page → Nat
  | .rlf _ => 3 | .cip _ => 7 | .mtr _ => 8 | .med _ => 7 | .chn _ => 7 | .bpm _ => 5 | .mac _ _ => 5 | .ptp _ => 3
  | .rdm _ => 4 | .glb _ => 5 | .pwr _ => 4 | .rst _ => 4 | .plt => 6 | .pfl => 5 | .evr => 5 | .fpn => 7 | .svc => 4
  | .hlt _ => 6 | .clk _ => 4 | .tie _ => 5 | .fwu _ => 6 | .tst _ => 4
  | .crs _ n => if isMediaCourse n.val then 4 else 3
  | .til _ _ | .pnl _ _ => 3

end Sys2Proof.Machine
end

