-- ==== Sys2Proof/Machine/Ops.lean ====
section
/-! DEFINITION. The named operations that every meaning shares: access to wythes, registers, counters, events, the outbox,
time and free values. -/

namespace Sys2Proof.Machine

/-! ### Wythes -/

/-- The record of a wythe. -/
def State.wy (s : State) (w : Wy) : Wythe :=
  match w with
  | .w0 => s.w0
  | .w1 => s.w1

/-- Change the record of a wythe. -/
def State.modWy (s : State) (w : Wy) (f : Wythe → Wythe) : State :=
  match w with
  | .w0 => { s with w0 := f s.w0 }
  | .w1 => { s with w1 := f s.w1 }

/-- Change the Relief state of a wythe. -/
def State.modRelief (s : State) (w : Wy) (f : Relief → Relief) : State :=
  s.modWy w (fun y => { y with relief := f y.relief })

/-- Change the clocks of a wythe. -/
def State.modClk (s : State) (w : Wy) (f : Clocks → Clocks) : State :=
  s.modWy w (fun y => { y with clk := f y.clk })

/-- Change the cipher block of a wythe. -/
def State.modCip (s : State) (w : Wy) (f : Cip → Cip) : State :=
  s.modWy w (fun y => { y with cip := f y.cip })

/-- Change the Mortar state of a wythe. -/
def State.modMortar (s : State) (w : Wy) (f : MortarW → MortarW) : State :=
  s.modWy w (fun y => { y with mortar := f y.mortar })

/-- Change the endpoint of a wythe. -/
def State.modPcie (s : State) (w : Wy) (f : Pcie → Pcie) : State :=
  s.modWy w (fun y => { y with pcie := f y.pcie })

/-- Change the wall state of the brick. -/
def State.modWall (s : State) (f : Wall → Wall) : State := { s with wall := f s.wall }

/-- Change the store. -/
def State.modStore (s : State) (f : Store → Store) : State := { s with store := f s.store }

/-- A wythe is running. -/
def State.running (s : State) (w : Wy) : Bool :=
  match w with
  | .w0 => s.cover.run0
  | .w1 => s.cover.run1

/-! ### The outbox and free values -/

/-- Put something out. -/
def State.emit (s : State) (o : Output) : State := { s with out := s.out ++ [o] }

/-- Put several things out, in order. -/
def State.emitAll (s : State) (l : List Output) : State := { s with out := s.out ++ l }

/-- A free value: what the spec leaves open (log 3). -/
def State.free (s : State) : Nat := (Config.freeValue s.fresh).toNat

/-- The state after a free value has been used. -/
def State.used (s : State) : State := { s with fresh := s.fresh + 1 }

/-- n free values have been used. -/
def State.drawn (s : State) (n : Nat) : State := { s with fresh := s.fresh + n }

/-- Free bytes, `n` of them, from the counter on. -/
def freeBytes (from_ n : Nat) : Bytes := (List.range n).map (fun i => Config.freeByte (from_ + i))

/-- The serial number, ASCII: bytes 8-23 of the calibration row (R433). -/
def serialBytes : Bytes := (List.range 16).map (fun i => Config.calByte (8 + i))

/-! ### Time -/

/-- Nanoseconds of a count of microseconds. -/
def us (n : Nat) : Nat := n * 1000

/-- Nanoseconds of a count of milliseconds. -/
def ms (n : Nat) : Nat := n * 1000000

/-- Nanoseconds of a count of seconds. -/
def sec (n : Nat) : Nat := n * 1000000000

/-- A duration has passed since a time: `now` stands for the disciplined clock by which R8 measures (log 219). -/
def State.since (s : State) (t d : Nat) : Bool := t + d ≤ s.now

/-! ### Registers -/

/-- The word a register holds: the last one stored, or its reset value. -/
def State.reg (s : State) (p : Page) (off : Nat) : Word :=
  (tableGet? s.regs (pageKey p + off)).getD (regReset p off)

/-- Store a word in a register. -/
def State.setReg (s : State) (p : Page) (off : Nat) (v : Word) : State :=
  { s with regs := tablePut s.regs (pageKey p + off) v }

/-- The active value of a shadowed register (R410). -/
def State.act (s : State) (p : Page) (off : Nat) : Word :=
  (tableGet? s.active (pageKey p + off)).getD (regReset p off)

/-- Set the active value of a shadowed register. -/
def State.setAct (s : State) (p : Page) (off : Nat) (v : Word) : State :=
  { s with active := tablePut s.active (pageKey p + off) v }

/-- A field of a register. -/
def State.rfld (s : State) (p : Page) (off hi lo : Nat) : Nat := fld (s.reg p off) hi lo

/-- A field of the active value of a shadowed register. -/
def State.afld (s : State) (p : Page) (off hi lo : Nat) : Nat := fld (s.act p off) hi lo

/-- Set a field of a register. -/
def State.setRfld (s : State) (p : Page) (off hi lo v : Nat) : State :=
  s.setReg p off (setFld (s.reg p off) hi lo v)

/-- A page is pending while EVT_STATUS AND EVT_ENABLE is not zero (R408). -/
def State.pagePending (s : State) (p : Page) : Bool :=
  decide (s.reg p EVT_STATUS &&& s.reg p EVT_ENABLE ≠ 0)

/-- The entry of an MSI-X vector; an entry never written is unmasked with address and data zero (log 7). -/
def msixEntry (e : Pcie) (v : Nat) : MsixEntry :=
  (e.msix.find? (fun m => m.n = v)).getD { n := v, addr := 0, data := 0, masked := false, pending := false }

/-- Send an MSI-X message: never while Bus Master Enable is clear or in D3hot (R397); a masked vector sets its pending
bit instead (R416). -/
def State.sendMsix (s : State) (w : Wy) (v : Nat) : State :=
  let e := (s.wy w).pcie
  if e.bme && !e.d3hot then
    let m := msixEntry e v
    if m.masked then
      let hold := fun l => upsert (fun x => x.n = v) (fun x => { x with pending := true }) { m with pending := true } l
      s.modPcie w (fun e => { e with msix := hold e.msix })
    else s.emit (.msix w v)
  else s

/-- The MSI-X message of a page that has become pending, on the wythe's GLB_EVT_VECTOR (R408). -/
def State.pendMsix (s : State) (w : Wy) : State :=
  if s.rfld (.glb w) GLB_EVT_VECTOR 8 8 = 1 then s.sendMsix w (s.rfld (.glb w) GLB_EVT_VECTOR 5 0) else s

/-- What follows when a page has become pending: one message on the page's wythe, on both for a page of the brick. -/
def State.becamePending (s : State) (p : Page) (before : Bool) : State :=
  if s.pagePending p && !before then
    match pageWy p with
    | some w => s.pendMsix w
    | none => (s.pendMsix .w0).pendMsix .w1
  else s

/-- Set bits of EVT_STATUS as their events do (R404, R408). -/
def State.setEvt (s : State) (p : Page) (bitsSet : Word) : State :=
  let before := s.pagePending p
  (s.setReg p EVT_STATUS (s.reg p EVT_STATUS ||| bitsSet)).becamePending p before

/-- Raise one event of a page. -/
def State.event (s : State) (p : Page) (n : Nat) : State := s.setEvt p (word (2 ^ n))

/-- Add to a counter that wraps at 2^32 and sets EVT_STATUS.CNT_HALF when its bit 31 becomes 1 (R111, R417). -/
def State.bumpBy (s : State) (p : Page) (off n : Nat) : State :=
  let old := s.reg p off
  let new := old + word n
  let s1 := s.setReg p off new
  if bitOf new 31 && !bitOf old 31 then s1.event p 0 else s1

/-- Count one event in a counter. -/
def State.bump (s : State) (p : Page) (off : Nat) : State := s.bumpBy p off 1

/-- Count an error in a page's ERR_COUNT, which saturates (R16, R404). -/
def State.countError (s : State) (p : Page) : State := s.setReg p ERR_COUNT (word (min (s.rfld p ERR_COUNT 15 0 + 1) 0xFFFF))

/-- Record an error in a page's header: the code, its details and the count (R404, R407). -/
def State.pageError (s : State) (p : Page) (code info0 info1 : Nat) : State :=
  (((s.setReg p ERR_CODE (word code)).setReg p ERR_INFO0 (word info0)).setReg p ERR_INFO1 (word info1)).countError p

/-- PAGE_STATE.STATE of a unit state (R404). -/
def unitNum : UnitSt → Nat
  | .offline => 0 | .online => 1 | .quiescing => 2 | .quiesced => 3 | .testing => 4 | .bypassed => 5 | .failed => 6

/-- The unit state of a PAGE_STATE.STATE value. -/
def unitOf (n : Nat) : UnitSt :=
  if n = 1 then .online else if n = 2 then .quiescing else if n = 3 then .quiesced else if n = 4 then .testing
  else if n = 5 then .bypassed else if n = 6 then .failed else .offline

/-- The state of a unit. -/
def State.unit (s : State) (p : Page) : UnitSt := unitOf (s.rfld p PAGE_STATE 3 0)

/-- Set the state of a unit. -/
def State.setUnit (s : State) (p : Page) (u : UnitSt) : State := s.setRfld p PAGE_STATE 3 0 (unitNum u)

/-- What a unit holds beyond its page (R33, R406, R510). -/
def State.ujob (s : State) (p : Page) : UnitJob :=
  (s.units.find? (fun u => u.page = p)).getD { page := p, goal := none, needTest := false, test := none }

/-- Change what a unit holds beyond its page. -/
def State.modUjob (s : State) (p : Page) (f : UnitJob → UnitJob) : State :=
  { s with units := upsert (fun u => u.page = p) f (f { page := p, goal := none, needTest := false, test := none }) s.units }

/-- A unit takes new jobs: ONLINE, and not on its way out (R33, R406). -/
def State.unitServes (s : State) (p : Page) : Bool := s.unit p = .online && (s.ujob p).goal.isNone

/-- A tile takes new jobs: it serves, and so do its course and its panel (R17, R33). -/
def State.tileServes (s : State) (w : Wy) (t : Fin 128) : Bool :=
  s.unitServes (.til w t) && s.unitServes (.crs w (Fin.ofNat 16 (t.val / 8))) && s.unitServes (.pnl w (Fin.ofNat 4 (t.val / 32)))

/-- A unit is in use or coming back to use, so that its media tiles may drive channels (R33, R341). -/
def State.unitUsable (s : State) (p : Page) : Bool :=
  match (s.ujob p).goal with
  | some .online | some .quiesced => true
  | some _ => false
  | none => s.unit p = .online || s.unit p = .quiescing || s.unit p = .quiesced

/-- The media tile of a channel's index in a wythe can drive the channel (R3, R341). -/
def State.wantsChan (s : State) (w : Wy) (c : Nat) : Bool :=
  let t := mediaTile (c % 32)
  s.unitUsable (.til w (Fin.ofNat 128 t)) && s.unitUsable (.crs w (Fin.ofNat 16 (t / 8))) && s.unitUsable (.pnl w (Fin.ofNat 4 (t / 32)))

/-! ### Jobs of tiles (R17, R32, R517) -/

/-- The course of a tile (R2). -/
def courseOf (t : Fin 128) : Fin 16 := Fin.ofNat 16 (t.val / 8)

/-- The panel of a tile (R1). -/
def panelOf (t : Fin 128) : Fin 4 := Fin.ofNat 4 (t.val / 32)

/-- A compute job is dispatched to a tile. -/
def State.jobSent (s : State) (w : Wy) (t : Fin 128) : State := s.bump (.crs w (courseOf t)) CRS_CNT_JOBS

/-- A job of a tile has ended. -/
def State.jobGone (s : State) (w : Wy) (t : Fin 128) : State := s.bump (.til w t) TIL_CNT_JOBS

/-- The runs of a job that failed are forgotten: the job has ended (R32). -/
def State.forgetRuns (s : State) (w : Wy) (ref : JobRef) (k : TileKind) : State :=
  { s with jobRuns := s.jobRuns.filter (fun e => ¬ (e.1 = w ∧ e.2.1 = ref ∧ e.2.2.1 = k)) }

/-! ### Hybrid time (R8, R112, R389) -/

/-- The reading of a wythe's PTP clock in units of 2^-28 ns: it advances by PTP_INCR on each cycle of the 1.2 GHz grout
clock (R389). -/
def State.ptpRaw (s : State) (w : Wy) : Nat :=
  let c := (s.wy w).ptp
  c.value + (s.now - c.at_) * 6 / 5 * (s.reg (.ptp w) PTP_INCR).toNat

/-- The PTP time of a wythe in whole nanoseconds of the PTP timescale. -/
def State.ptpNs (s : State) (w : Wy) : Nat := s.ptpRaw w / 2 ^ 28

/-- `ptp_time_us()`: microseconds since the epoch of R224 (R389). -/
def State.ptpUs (s : State) (w : Wy) : Nat := (s.ptpNs w - 1577836837 * 1000000000) / 1000

/-- The hybrid time of a wythe: the greater of its clock and its PTP time (R112). -/
def State.hybrid (s : State) (w : Wy) : Nat := max (s.wy w).clk.hlc (s.ptpUs w * 4096)

/-- A received hybrid timestamp raises the clock (R112, R208). -/
def State.seeHlc (s : State) (w : Wy) (r : Nat) : State :=
  s.modClk w (fun c => { c with hlc := max c.hlc r })

/-! ### Event entries and early warnings -/

/-- The number of an event's source (R439). -/
def srcOf (w : Wy) : Nat := w.num + 1

/-- The Plinth's time, in the hybrid format with logical counter zero (R424). -/
def State.plinthTime (s : State) : Nat := s.plinth.time + (s.now - s.plinth.timeAt) / 1000 * 4096

/-- While the Plinth does not answer a wythe, the wythe holds its 4,096 newest entries (R423). -/
def State.holdEntries (s : State) (source : Nat) (l : List EvtRec) : List EvtRec :=
  let w : Wy := if source = 2 then .w1 else .w0
  let mine := (l.filter (fun e => e.source = source)).length
  if source = 0 || s.rfld (.glb w) GLB_WYTHE 4 4 = 1 || mine ≤ 4096 then l
  else
    match l.findIdx? (fun e => e.source = source) with
    | some i => l.eraseIdx i
    | none => l

/-- An event entry sets out for the recorder: severity 0 INFO, 1 NOTICE, 2 FAULT, 3 CRITICAL; source 0 the Plinth, 1 and 2
the wythes (R439). The entry's detail is padded to 32 bytes. -/
def State.record (s : State) (source severity code page : Nat) (detail : Bytes) : State :=
  let t := if source = 0 then s.plinthTime else s.hybrid (if source = 2 then .w1 else .w0)
  let e : EvtRec :=
    { seq := 0, time := t, severity := severity, uncertain := false, source := source, code := code, page := page,
      start := 0, detail := padTo 32 detail }
  { s with arriving := s.holdEntries source (s.arriving ++ [e]) }

/-- The event code of a block's event that R535 does not list: the reporting block's code in [15:8] (R439) and a low byte
that the spec leaves open: a free value (log 8). -/
def State.recordOpen (s : State) (source severity : Nat) (p : Page) (detail : Bytes) : State :=
  (s.record source severity (pageBlock p * 256 + s.free % 256) (pageIdOf p).toNat detail).used

/-! ### Messages on Relief queues -/

/-- The 32 bytes of a message from the brick (R46, R48, R49, R50), big-endian (R7). -/
def busBytes : BusMsg → Bytes
  | .completion e tag st cf d rid v r =>
    beBytes 1 0x81 ++ beBytes 1 (statusNum st) ++ beBytes 2 e.toNat ++ beBytes 1 tag ++ beBytes 1 cf
      ++ beBytes 2 (detailNum d) ++ beBytes 8 rid.toNat ++ beBytes 8 v ++ beBytes 8 r
  | .controlAck e rid code =>
    beBytes 1 0x82 ++ beBytes 1 0 ++ beBytes 2 e.toNat ++ beBytes 4 0 ++ beBytes 8 rid.toNat ++ beBytes 8 0
      ++ beBytes 8 code
  | .event e code seq time d =>
    beBytes 1 0x83 ++ beBytes 1 0 ++ beBytes 2 e.toNat ++ beBytes 2 0 ++ beBytes 2 code ++ beBytes 8 seq
      ++ beBytes 8 time ++ beBytes 8 d
  | .drain e w reason t =>
    beBytes 1 0x84 ++ beBytes 1 0 ++ beBytes 2 e.toNat ++ beBytes 1 w ++ beBytes 1 reason ++ beBytes 2 0
      ++ beBytes 8 t ++ zeroBytes 16

/-- The 32-bit immediate of a message (R42): QEPOCH, KIND and, for a completion or a CONTROL_ACK, TAG. -/
def busImm (m : BusMsg) : Nat :=
  let b := busBytes m
  let tag := match m with
    | .completion .. | .controlAck .. => ofBe (sliceBytes b 4 1)
    | _ => 0
  ofBe (sliceBytes b 2 2) * 65536 + ofBe (sliceBytes b 0 1) * 256 + tag

/-- Find a queue. -/
def Relief.queue (r : Relief) (q : Nat) : Option Queue := r.queues.find? (fun x => x.idx = q)

/-- Change a queue. -/
def State.modQueue (s : State) (w : Wy) (q : Nat) (f : Queue → Queue) : State :=
  s.modRelief w (fun r => { r with queues := updFirst (fun x => x.idx = q) f r.queues })

/-- A queue page never written: FREE with its reset registers (R411). -/
def QPage.reset (n : Nat) : QPage :=
  { n := n, sqBase := 0, cqBase := 0, stat := 0, sqLog := 10, cqLog := 6, vector := 0, intEn := false, st := .free,
    error := 0, epoch := 0, sqHead := 0, sqTail := 0, cqHead := 0, cqTail := 0, held := [], writes := 0 }

/-- The record of a queue page. -/
def qpage (e : Pcie) (n : Nat) : QPage := (e.pages.find? (fun p => p.n = n)).getD (QPage.reset n)

/-- Change a queue page. -/
def State.modPage (s : State) (w : Wy) (n : Nat) (f : QPage → QPage) : State :=
  s.modPcie w (fun e => { e with pages := upsert (fun p => p.n = n) f (f (QPage.reset n)) e.pages })

/-- QP_STATE.STATE (R411). -/
def qpNum : QpSt → Nat
  | .free => 0 | .opened => 1 | .resetting => 2 | .closing => 3 | .stopped => 4

/-- The status record (R415), 16 bytes little-endian. -/
def statusRecord (p : QPage) : Bytes :=
  leBytes 4 p.sqHead ++ leBytes 4 p.cqTail ++ leBytes 2 p.epoch.toNat ++ leBytes 1 (qpNum p.st) ++ leBytes 1 0
    ++ leBytes 4 p.writes

/-- Write the status record of a queue page, then its MSI-X message when INT_EN is 1 (R414, R415). -/
def State.writeStatus (s : State) (w : Wy) (n : Nat) : State :=
  let s1 := s.modPage w n (fun p => { p with writes := (p.writes + 1) % 2 ^ 32 })
  let p := qpage (s1.wy w).pcie n
  let s2 := s1.emit (.hostWrite w p.stat (statusRecord p))
  if p.intEn then s2.sendMsix w p.vector else s2

/-- The completion ring of a page is full: (tail + 1) mod size equals the head (R414). -/
def ringFull (p : QPage) : Bool := (p.cqTail + 1) % 2 ^ p.cqLog = p.cqHead

/-- A tag has been freed: the idle time of R109 counts from here. -/
def State.tagFreed (s : State) : State := { s with pwr := { s.pwr with lastCmd := s.now } }

/-- The tag that a completion frees when it is handed to the transport (R85). -/
def tagOf : BusMsg → Option (BitVec 16 × Nat)
  | .completion e tag .. => some (e, tag)
  | _ => none

/-- Write held messages into the completion ring while it has room, `n` of them at most; a completion frees its tag as it is written
(R85). -/
def State.drainRing (s : State) (w : Wy) (page : Nat) : Nat → State
  | 0 => s
  | n + 1 =>
    let p := qpage (s.wy w).pcie page
    match p.held with
    | [] => s
    | m :: rest =>
      if ringFull p then s
      else
        let s1 := s.emit (.hostWrite w (p.cqBase + p.cqTail * 32) (busBytes m))
        let s2 := s1.modPage w page (fun p => { p with held := rest, cqTail := (p.cqTail + 1) % 2 ^ p.cqLog })
        (if (tagOf m).isSome then s2.tagFreed else s2).drainRing w page n

/-- The endpoint may reach host memory: Bus Master Enable set and the function in D0 (R397). -/
def State.dmaOk (s : State) (w : Wy) : Bool := (s.wy w).pcie.bme && !(s.wy w).pcie.d3hot

/-- Hand a message to the transport of a queue (R85, R414): on RoCEv2 it is posted; on PCI Express it is written into the
completion ring in order, and held while the ring is full. A stopped page is not written (R416). No message is sent in hold-up
(R477). -/
def State.handOut (s : State) (w : Wy) (q : Nat) (m : BusMsg) : State :=
  match (if s.holdup.isSome then none else (s.wy w).relief.queue q) with
  | none => s
  | some x =>
    match x.transport with
    | .roce _ _ => if (tagOf m).isSome then (s.emit (.toClient w q m)).tagFreed else s.emit (.toClient w q m)
    | .pcie n =>
      let s1 := s.modPage w n.val (fun p => { p with held := p.held ++ [m] })
      let p := qpage (s1.wy w).pcie n.val
      if p.st = .free || p.st = .stopped || !s1.dmaOk w then s1
      else
        let s2 := s1.drainRing w n.val p.held.length
        if (qpage (s2.wy w).pcie n.val).cqTail = p.cqTail then s2 else s2.writeStatus w n.val

/-- Send an early-warning event to every subscribed queue of a wythe (R48, R82). -/
def State.warnWy (s : State) (w : Wy) (code detail : Nat) : State :=
  ((s.wy w).relief.queues.filter (fun x => x.mask.getLsbD (code - 1))).foldl
    (fun s x =>
      let s1 := s.modQueue w x.idx (fun y => { y with evtSeq := y.evtSeq + 1 })
      s1.handOut w x.idx (.event x.epoch code (x.evtSeq + 1) (s.hybrid w) detail)) s

/-- Raise an early-warning event (R471): every running wythe sends it to its subscribed queues and counts it; it is recorded. -/
def State.earlyWarn (s : State) (code severity detail : Nat) (bytes : Bytes) : State :=
  let one := fun (s : State) (w : Wy) =>
    if s.running w then ((s.warnWy w code detail).bump (.hlt w) HLT_CNT_EARLY_WARN).event (.hlt w) HLT_EVT_EARLY_WARN else s
  let by_ : Wy := if s.running .w1 && !s.running .w0 then .w1 else .w0
  (one (one s .w0) .w1).recordOpen (srcOf by_) severity (.hlt by_) bytes

/-- Both wythes. -/
def wythes : List Wy := [.w0, .w1]

/-! ### Mortar sending (R206-R212) -/

/-- The flow of a wythe to a peer wythe. -/
def flowOf (m : MortarW) (b : Nat) (bw : Wy) (n : Nat) : Option Flow :=
  m.flows.find? (fun f => f.peer = b && f.peerW = bw && f.num = n)

/-- Change a flow. -/
def State.modFlow (s : State) (w : Wy) (b : Nat) (bw : Wy) (n : Nat) (f : Flow → Flow) : State :=
  s.modMortar w (fun m => { m with flows := updFirst (fun x => x.peer = b && x.peerW = bw && x.num = n) f m.flows })

/-- The brick id this brick sends under: 0x8000 while it has none (R207). -/
def State.myId (s : State) : Nat := s.wall.brickId.getD 0x8000

/-- A flow just opened: SEQ and MSG_ID 0, the initial window and the first timeout (R209-R211). -/
def State.newFlow (s : State) (w : Wy) (b : Nat) (bw : Wy) (n : Nat) : Flow :=
  { peer := b, peerW := bw, num := n, nextSeq := 0, nextMsg := 0, unacked := [],
    win := s.afld (.mtr w) MTR_CC_CTRL 7 0, alphaNum := 65536, ceInWin := 0,
    sinceWin := 0, credit := 0, rxSeq := 0, rxInc := none, rxGot := [], broken := false }

/-- The flow to send on: flows 0-7 are opened to a peer wythe that this one begins to talk to (R206), and a broken flow is reopened under a
new SEQ run (R210). -/
def State.openFlow (s : State) (w : Wy) (b : Nat) (bw : Wy) (n : Nat) : State :=
  match flowOf (s.wy w).mortar b bw n with
  | none =>
    s.modMortar w (fun m => { m with
      flows := m.flows ++ ((List.range 8).filter (fun i => (flowOf m b bw i).isNone)).map (s.newFlow w b bw) })
  | some f =>
    if f.broken then
      s.modFlow w b bw n (fun _ => { s.newFlow w b bw n with credit := f.credit, rxSeq := f.rxSeq, rxInc := f.rxInc, rxGot := f.rxGot })
    else s

/-- An IPv4 address, as the map writes it (R57). -/
def isV4 (a : BitVec 128) : Bool := bits a.toNat 127 32 = 0xFFFF

/-- The number by which a wythe knows a brick of another wall, whose brick ids are those of its own wall (R273). -/
def farPeer (b : Nat) : Nat := 0x10000 + b

/-- The contact address at MTR_JOIN_ADDR0-3: byte 4n stands in bits [7:0] of register n (R226). -/
def State.joinAddr (s : State) (w : Wy) : BitVec 128 :=
  let at_ := fun off => leBytes 4 (s.act (.mtr w) off).toNat
  BitVec.ofNat 128 (ofBe (at_ MTR_JOIN_ADDR0 ++ at_ MTR_JOIN_ADDR1 ++ at_ MTR_JOIN_ADDR2 ++ at_ MTR_JOIN_ADDR3))

/-- The addresses of a wythe of a brick (R57, R192, R206): its port addresses in the map held; of an armature member that no map names,
the one last held; of a brick of another wall, the one it last sent from; of the contact, the address at MTR_JOIN_ADDR0-3. -/
def State.addrsOf (s : State) (w : Wy) (b : Nat) (bw : Wy) : List (BitVec 128) :=
  let mapped := ((s.store.map.bricks.find? (fun x => x.id = b)).map (fun x =>
    (match bw with | .w0 => x.addrs0 | .w1 => x.addrs1).filter (fun a => a ≠ 0))).getD []
  if 0x10000 ≤ b then [(tableGet? s.refs.far b).getD (Config.farAddress b)]
  else if b = 0x8000 then [s.joinAddr w]
  else if mapped = [] then [(tableGet? s.wall.armAddrs b).getD 0]
  else mapped

/-- The address that a message to a wythe of a brick goes to: which of its ports' is free (log 231). -/
def State.addrOf (s : State) (w : Wy) (b : Nat) (bw : Wy) : BitVec 128 :=
  let l := s.addrsOf w b bw
  l.getD (if l.length ≤ 1 then 0 else s.free % l.length) 0

/-- The UDP port that packets go to (R192, R206): the wall's, or the contact's while the brick is of no wall. -/
def State.mortarPort (s : State) (w : Wy) : Nat :=
  if s.wall.identity || s.wall.st = .forming then s.wall.settings.udpPort else s.afld (.mtr w) MTR_JOIN_PORT 15 0

/-- Body bytes of one packet: the path MTU less the IP, UDP and Mortar headers (R206, R207). -/
def segBytes (mtu : Nat) (addr : BitVec 128) : Nat := mtu - (if isV4 addr then 92 else 112)

/-- The lowest sequence number not received, from a list of those received beyond it. -/
def advance : Nat → Nat → List Nat → Nat
  | 0, a, _ => a
  | fuel + 1, a, l => if l.contains a then advance fuel (a + 1) l else a

/-- The SACK field (R207). -/
def sackOf (ack : Nat) (l : List Nat) : Nat :=
  (List.range 32).foldl (fun a n => if l.contains (ack + 1 + n) then a + 2 ^ n else a) 0

/-- The bytes that the own half of a wythe's window holds in pending chunk copies (R20, R212). -/
def State.windowBytes (s : State) (w : Wy) : Nat :=
  ((s.stripes.recs.filter (fun r => wyOfPart (r.id / 2 ^ 48) = w)).map (fun r => (r.recs.map (fun e => e.2.length)).sum)).sum

/-- The CREDIT field: an amount that the spec leaves to the receiver, free, and not above what its own half of the window has room for
(R212, log 230). -/
def State.creditField (s : State) (w : Wy) : Nat := s.free % (min 65535 ((2 ^ 30 - s.windowBytes w) / 65536) + 1)

/-- The datagram of a packet of a flow, sent now (R206, R207): ACK and SACK tell what the flow has received, ACK_REQ stands on every 16th
packet and on the last segment (R210), and every packet carries ECT(0). -/
def State.datagramOf (s : State) (w : Wy) (f : Flow) (p : Packet) (retx : Bool) : Output :=
  let h : PktHead :=
    { typ := p.typ, flags := flagBits [p.last || p.seq % 16 = 15, retx, false, p.off = 0, p.last], compat := s.wall.compat, src := s.myId,
      dst := f.peer % 65536, srcW := w.num, dstW := f.peerW.num, flow := f.num, epoch := s.wall.epoch, seq := p.seq, ack := f.rxSeq,
      sack := sackOf f.rxSeq f.rxGot, hlc := s.hybrid w, msgId := p.msgId, msgLen := p.total, inc := (s.wy w).mortar.inc, off := p.off,
      segLen := p.seg.length, credit := s.creditField w }
  .datagram w { v4 := isV4 p.addr, addr := p.addr, srcPort := 49152 + f.num, dstPort := p.port, ecn := 2,
                  dscp := s.afld (.rdm w) RDM_MARK 21 16, bytes := packetBytes h p.seg }

/-- Send a TYPE 0x00 packet on a flow: an acknowledgement by ACK and SACK, with CE_ECHO or RESYNC (R207, R210). It takes no SEQ of the flow
and carries the one that the next packet takes (log 231). -/
def State.sendAck (s : State) (w : Wy) (b : Nat) (bw : Wy) (flow ack sack : Nat) (ce resync : Bool) (addr : BitVec 128) : State :=
  let next := ((flowOf (s.wy w).mortar b bw flow).map (fun f => f.nextSeq)).getD 0
  let h : PktHead :=
    { typ := 0, flags := flagBits [false, false, ce, false, false, resync], compat := s.wall.compat, src := s.myId, dst := b % 65536,
      srcW := w.num, dstW := bw.num, flow := flow, epoch := s.wall.epoch, seq := next, ack := ack, sack := sack, hlc := s.hybrid w,
      msgId := 0, msgLen := 0, inc := (s.wy w).mortar.inc, off := 0, segLen := 0, credit := s.creditField w }
  let d : Datagram :=
    { v4 := isV4 addr, addr := addr, srcPort := 49152 + flow, dstPort := s.mortarPort w, ecn := 2, dscp := s.afld (.rdm w) RDM_MARK 21 16,
      bytes := packetBytes h [] }
  (((s.emit (.mortarAck w b bw flow ack sack ce resync)).emit (.datagram w d)).bump (.mtr w) MTR_CNT_TX_PKT).used

/-- Send what the congestion window allows: the packets of a flow not yet sent, oldest first (R211). -/
def State.pushFlow (s : State) (w : Wy) (b : Nat) (bw : Wy) (n : Nat) : State :=
  match flowOf (s.wy w).mortar b bw n with
  | none => s
  | some f =>
    let out := (f.unacked.filter (fun p => p.sent && !p.acked)).length
    let go := (f.unacked.filter (fun p => !p.sent)).take (f.win - out)
    let seqs := go.map (fun p => p.seq)
    (((s.modFlow w b bw n (fun f =>
      { f with unacked := f.unacked.map (fun p => if seqs.contains p.seq then { p with sent := true, sentAt := s.now } else p) })).bumpBy
      (.mtr w) MTR_CNT_TX_PKT go.length).emitAll (go.map (fun p => s.datagramOf w f p false))).used

/-- The packets of a message on a flow (R207, R209): its body in segments that share a MSG_ID. -/
def packetsOf (f : Flow) (addr : BitVec 128) (port typ len seg : Nat) (body : Bytes) : List Packet :=
  let k := max 1 ((len + seg - 1) / seg)
  (List.range k).map (fun i =>
    { seq := f.nextSeq + i, msgId := f.nextMsg, sent := false, acked := false, sentAt := 0, expiries := 0, passed := 0, addr := addr,
      port := port, typ := typ, off := i * seg, total := len, last := decide (i + 1 = k), seg := sliceBytes body (i * seg) seg })

/-- Number a message's packets and send what the window allows (R207, R209, R211). -/
def State.flowSend (s : State) (w : Wy) (b : Nat) (bw : Wy) (n : Nat) (addr : BitVec 128) (m : MortarBody) : State :=
  let s1 := s.openFlow w b bw n
  let new := fun f => packetsOf f addr (s.mortarPort w) (typeOf m) (bodyLen m) (segBytes s.wall.settings.mtu addr) (bodyBytes s.myId m)
  let s2 := s1.modFlow w b bw n (fun f =>
    { f with unacked := f.unacked ++ new f, nextSeq := f.nextSeq + (new f).length, nextMsg := f.nextMsg + 1 })
  s2.pushFlow w b bw n

/-- Put a Mortar message on its way to an address (R206): the HEARTBEAT, JOIN, STATE and ARM types on flow 0, every other type on a flow
of 1-7 that the spec leaves to the sender: a free value (log 17). None is sent in hold-up (R477). -/
def State.mortarTo (s : State) (w : Wy) (dst : Nat) (dstW : Wy) (addr : BitVec 128) (b : MortarBody) : State :=
  let s1 := s.emit (.mortar w dst dstW b)
  if s.holdup.isSome then s
  else if onFlow0 b then s1.flowSend w dst dstW 0 addr b
  else s1.used.flowSend w dst dstW (1 + s.free % 7) addr b

/-- Put a Mortar message on its way to a wythe of a brick. -/
def State.mortarOut (s : State) (w : Wy) (dst : Nat) (dstW : Wy) (b : MortarBody) : State :=
  s.used.mortarTo w dst dstW (s.addrOf w dst dstW) b

/-- The wythe of another brick that a message for a partition goes to: the one that holds it (R54). -/
def State.toPart (s : State) (w : Wy) (dst p : Nat) (b : MortarBody) : State := s.mortarOut w dst (wyOfPart p) b

/-- Send a message to every armature member (R202). The spec names the member brick alone: DESIGN CHOICE, wythe 0 of it receives HEARTBEAT,
REMOVE_NOTICE and the ARM messages (log 233). -/
def State.toArmature (s : State) (w : Wy) (b : MortarBody) : State :=
  s.wall.arm.members.foldl (fun s m => s.mortarOut w m .w0 b) s

/-! ### The protected window (R20-R22) -/

/-- A record written to the own half of a wythe's window is placed at once: the wythe covers (R22), or the peer runs and confirms the mirror
write over the tie (R20). -/
def State.canPlace (s : State) (w : Wy) : Bool :=
  s.cover.coverer = some w || (s.running w && s.running w.peer && s.cover.tieUp)

/-- The peer has confirmed a write of its mirror (R20, R492). -/
def State.mirrored (s : State) (w : Wy) : State := if s.cover.coverer.isNone then s.bump (.tie w) TIE_CNT_MIRROR else s

/-- A placed record is acknowledged to the brick that it came from. -/
def State.ackPlaced (s : State) (w : Wy) (x : Placing) : State :=
  match x with
  | .index p e r (some (b, bw)) => s.mortarOut w b bw (.indexAck p e r.version true)
  | .copy id off (some (b, bw)) => s.mortarOut w b bw (.journalAck id off .placed)
  | _ => s

/-- A record has been written to the own half of a wythe's window: it counts as placed at once, or once the peer confirms its mirror
(R20). -/
def State.place (s : State) (w : Wy) (x : Placing) : State :=
  if s.canPlace w then (s.mirrored w).ackPlaced w x
  else if s.store.unplaced.contains (w, x) then s
  else s.modStore (fun t => { t with unplaced := t.unplaced ++ [(w, x)] })

/-- This brick's own copy at an offset of a pending stripe waits for its mirror. -/
def State.copyWaits (s : State) (id off : Nat) : Bool := s.store.unplaced.any (fun e => e.2 = .copy id off none)

/-- This brick's own key-index record of a partition waits for its mirror. -/
def State.indexWaits (s : State) (p : Nat) (r : IdxRec) : Bool :=
  s.store.unplaced.any (fun e => match e.2 with
    | .index q _ x none => q = p && x = r
    | _ => false)

/-! ### REPLACE (R338, R423, R468, R481, R486) -/

/-- A capacitor bank's last test found it below 25 J usable, which it still holds at 73.5% of its rated capacitance (R467, R468). -/
def weakBank (c : CapBank) : Bool := (c.tests.getLast?).any (fun t => t.cap < 7350)

/-- Some of a wythe's die sensors stands 10 °C above its limit (R465, R481). -/
def State.dieHot (s : State) (w : Wy) : Bool := ((s.health.temps.drop (8 * w.num)).take 8).any (fun t => t.over10)

/-- The REPLACE flag of the brick. -/
def State.replaceSet (s : State) : Bool :=
  s.media.worn || s.plinth.failed || s.plinth.replace || s.health.caps.any weakBank
    || ((s.health.temps.drop 24).take 2).any (fun t => t.over10) || s.cover.coverer.any (fun w => s.dieHot w)

/-! ### The key store (R435, R436) -/

/-- The key-store image in force: the one with the higher sequence. -/
def State.keys (s : State) : Option KsImage :=
  match s.plinth.ksA, s.plinth.ksB with
  | some a, some b => if a.seq < b.seq then some b else some a
  | some a, none => some a
  | none, b => b

/-- The Plinth writes a new image into the other half and then erases the old one; every image holds the sector map of the key store and the
start record (R430, R435). -/
def State.writeKeys (s : State) (f : KsImage → KsImage) : State :=
  match s.keys with
  | none => s
  | some k =>
    let n := some { f k with seq := k.seq + 1, spares := s.flash.moved.filter (fun m => m.1 < 18 || (50 ≤ m.1 && m.1 < 58)) }
    let inA := s.plinth.ksA = some k
    { s with plinth := { s.plinth with ksA := if inA then none else n, ksB := if inA then n else none } }

end Sys2Proof.Machine
end

