-- ==== Sys2Proof/Machine/Flash.lean ====
section
/-! DEFINITION. The Plinth flash (R425-R434), its ROM routines, the start record ring (R438) and the event recorder (R439-R444). What the
array does with a request (retry steps, verification) is an operand. -/

namespace Sys2Proof.Machine

/-- Change the Plinth. -/
def State.modPlinth (s : State) (f : Plinth → Plinth) : State := { s with plinth := f s.plinth }

/-- Change the Plinth flash. -/
def State.modFlash (s : State) (f : Flash → Flash) : State := { s with flash := f s.flash }

/-- Change the recorder. -/
def State.modRec (s : State) (f : Recorder → Recorder) : State := { s with recorder := f s.recorder }

/-- The bank of a source (R443, R446). -/
def bankOf : AccSrc → Nat
  | .bar0 .w0 => 0
  | .bar0 .w1 => 1
  | .tile .w0 => 2
  | .tile .w1 => 3
  | .plinth => 4

/-- A bank of the EVR and PFL pages. -/
def State.bank (s : State) (n : Nat) : Bank := s.recorder.banks.getD n .reset

/-- Change a bank. -/
def State.modBank (s : State) (n : Nat) (f : Bank → Bank) : State :=
  s.modRec (fun r => { r with banks := r.banks.set n (f (r.banks.getD n .reset)) })

/-! ### Areas and code words (R425-R427) -/

/-- The areas of the Plinth flash (R425). -/
inductive FlashArea where
  | option
  | calibration
  | keyStore
  | counters
  | ring
  | recorder
  | spare
  | slots
  deriving DecidableEq, Repr

/-- The area of a sector (R425). -/
def areaOf (sector : Nat) : FlashArea :=
  if sector = 0 then .option else if sector = 1 then .calibration else if sector < 18 then .keyStore
  else if sector < 50 then .counters else if sector < 58 then .ring else if sector = 58 then .recorder
  else if sector < 1024 then .spare else if sector < 2048 then .slots else .recorder

/-- A code word has been programmed since its sector's last erase; the calibration row was programmed at manufacture (R426, R433). -/
def State.programmed (s : State) (n : Nat) : Bool := (tableGet? s.flash.words n).isSome || (128 ≤ n && n < 144)

/-- The data of a code word: 0xFF where erased (R426). -/
def State.codeWord (s : State) (n : Nat) : Bytes :=
  if 128 ≤ n && n < 144 then (List.range 32).map (fun k => Config.calByte ((n - 128) * 32 + k))
  else (tableGet? s.flash.words n).getD (List.replicate 32 0xFF)

/-- Bytes of the flash from an address on a code word. -/
def State.flashBytes (s : State) (word len : Nat) : Bytes :=
  ((List.range ((len + 31) / 32)).flatMap (fun k => s.codeWord (word + k))).take len

/-- Who may do what (R427): 0 read, 1 program, 2 erase. -/
def flashAllowed (by_ : FlashBy) (kind sector : Nat) : Bool :=
  let own := by_ = .firmware || by_ = .recorder
  let host := by_ = .bank 0 || by_ = .bank 1
  match areaOf sector with
  | .option => kind = 0 || own || host
  | .calibration => kind = 0
  | .keyStore | .counters => false
  | .ring => own || (host && kind = 0)
  | _ => own

/-- Program one code word as the Plinth firmware does, when it is erased (R426). -/
def State.putWord (s : State) (n : Nat) (b : Bytes) : State :=
  if s.programmed n then s
  else (s.modFlash (fun f => { f with words := tablePut f.words n (padTo 32 b) })).bump .pfl PFL_CNT_PROGRAM

/-- The code words of a sector are erased. -/
def State.wipeSector (s : State) (sector : Nat) : State :=
  s.modFlash (fun f => { f with words := f.words.filter (fun e => e.1 / 128 ≠ sector) })

/-- The lowest free spare sector (R430). -/
def State.freeSpare (s : State) : Option Nat :=
  ((List.range 965).map (fun k => 59 + k)).find? (fun n => !s.flash.bad.contains n && !s.flash.moved.any (fun m => m.2 = n))

/-- A sector is retired (R430): a spare takes the place of one of the slots, the key store and the ring; the contents of any other are
left open. -/
def State.retireSector (s : State) (sector : Nat) (erased : Bool) : State :=
  let moves := areaOf sector = .keyStore || areaOf sector = .ring || areaOf sector = .slots
  let s1 := (s.modFlash (fun f => { f with bad := f.bad ++ [sector] })).event .pfl PFL_EVT_SECTOR_RETIRED
  let s2 := s1.recordOpen 0 2 .pfl (leBytes 4 sector)
  let s3 := match moves, s2.freeSpare with
    | true, some n => s2.modFlash (fun f => { f with moved := f.moved ++ [(sector, n)] })
    | _, _ => s2
  if areaOf sector = .recorder || areaOf sector = .slots then (if erased then s3.wipeSector sector else s3)
  else if moves then (if erased then s3.wipeSector sector else s3).writeKeys id
  else if erased then
    (s3.modFlash (fun f => { f with
      words := f.words.map (fun e => if e.1 / 128 = sector then (e.1, freeBytes (s.fresh * 4096 + e.1 % 128 * 32) 32) else e) })).used
  else s3

/-! ### ROM routines (R427-R430) -/

/-- A request ends: its answer goes to who asked for it (R427, R446). -/
def State.flashEnd (s : State) (by_ : FlashBy) (result step bits_ : Nat) (data : Option Bytes) : State :=
  match by_ with
  | .firmware => s.emit (.plinthFlash result step bits_ (data.getD []))
  | .recorder => s
  | .bank n =>
    (s.modBank n (fun b => { b with
      result := word (result + step * 16 + bits_ * 256)
      data := data.getD b.data })).event .pfl PFL_EVT_REQ_DONE

/-- A refused request (R426, R427). -/
def State.flashRefuse (s : State) (by_ : FlashBy) (result : Nat) : State :=
  ((s.bump .pfl PFL_CNT_REFUSED).event .pfl PFL_EVT_REFUSED).flashEnd by_ result 0 0 none

/-- The Plinth firmware rewrites the contents of a worn sector (R429): a recorder sector is marked and rewritten at the next Plinth start
(R442), any other is erased and programmed with what it held (log 249). -/
def State.freshen (s : State) (sector : Nat) : State :=
  match areaOf sector with
  | .recorder => s.modRec (fun r => { r with worn := if r.worn.contains sector then r.worn else r.worn ++ [sector] })
  | .option | .ring | .spare | .slots =>
    (s.bump .pfl PFL_CNT_ERASE).bumpBy .pfl PFL_CNT_PROGRAM (s.flash.words.filter (fun e => e.1 / 128 = sector)).length
  | _ => s

/-- The sectors with a code word that needed step 2 or higher and was read (R429). -/
def wornSectors (n : Nat) (outcomes : List (Nat × Nat)) : List Nat :=
  ((outcomes.zipIdx.filter (fun o => 2 ≤ o.1.1 && o.1.1 ≤ 4)).map (fun o => (n + o.2) / 128)).eraseDups

/-- PF_READ runs: retry steps and corrected bits of each code word are the array's (R429). -/
def State.runRead (s : State) (by_ : FlashBy) (addr : Nat) (outcomes : List (Nat × Nat)) : State :=
  let n := addr / 32
  let retries := outcomes.foldl (fun a o => a + min o.1 4) 0
  let failed := outcomes.any (fun o => 5 ≤ o.1)
  let step := outcomes.foldl (fun a o => max a (min o.1 4)) 0
  let bits_ := outcomes.foldl (fun a o => max a o.2) 0
  let s1 := (s.bumpBy .pfl PFL_CNT_READ outcomes.length).bumpBy .pfl PFL_CNT_RETRY retries
  let worn := outcomes.zipIdx.any (fun o => 4 ≤ o.1.1 && areaOf ((n + o.2) / 128) = .calibration)
  let s2 := (wornSectors n outcomes).foldl State.freshen (if worn then s1.recordOpen 0 2 .pfl (leBytes 4 addr) else s1)
  if failed then ((s2.bump .pfl PFL_CNT_UNCORR).event .pfl PFL_EVT_UNCORR).flashEnd by_ 3 step bits_ none
  else s2.flashEnd by_ 0 step bits_ (some ((List.range outcomes.length).flatMap (fun k => s.codeWord (n + k))))

/-- PF_PROGRAM runs (R426, R430). A code word whose program did not verify holds bytes that the spec leaves open. -/
def State.runProgram (s : State) (by_ : FlashBy) (addr : Nat) (data : Bytes) (ok : Bool) : State :=
  let n := addr / 32
  if s.programmed n then (s.recordOpen 0 2 .pfl (leBytes 4 addr)).flashRefuse by_ 1
  else if ok then (s.putWord n data).flashEnd by_ 0 0 0 none
  else
    let s1 := (s.modFlash (fun f => { f with words := tablePut f.words n (freeBytes (s.fresh * 4096) 32) })).used
    ((s1.bump .pfl PFL_CNT_ERASE_FAIL).retireSector (n / 128) false).flashEnd by_ 4 0 0 none

/-- A request runs, with no erase running: an erase starts (R428). -/
def State.runFlash (s : State) (x : FlashWait) : State :=
  match x.op with
  | .read addr outcomes => s.runRead x.by_ addr outcomes
  | .program addr data ok => s.runProgram x.by_ addr data ok
  | .erase sector => s.modFlash (fun f => { f with erase := some { sector := sector, by_ := x.by_, resumed := s.now, suspends := 0 } })

/-- A request is a read. -/
def isFlashRead (x : FlashWait) : Bool :=
  match x.op with
  | .read _ _ => true
  | _ => false

/-- A waiting read may suspend the running erase: 1 ms of progress and fewer than 8 suspensions (R428). -/
def State.maySuspend (s : State) (e : FlashErase) : Bool := e.suspends < 8 && s.since e.resumed (ms 1)

/-- The running erase is suspended for the waiting reads where it may be, and resumes (R428). -/
def State.flashDue (s : State) : State :=
  match s.flash.erase with
  | none => s
  | some e =>
    let reads := s.flash.waiting.filter isFlashRead
    if reads = [] || !s.maySuspend e then s
    else
      let s1 := s.modFlash (fun f => { f with
        waiting := f.waiting.filter (fun x => !isFlashRead x)
        erase := some { e with suspends := e.suspends + 1, resumed := s.now } })
      reads.foldl (fun s x => s.runFlash x) (s1.bump .pfl PFL_CNT_SUSPEND)

/-- Requests that waited run in order until one starts an erase. -/
def State.runWaiting (s : State) : List FlashWait → State
  | [] => s.modFlash (fun f => { f with waiting := [] })
  | x :: rest =>
    if s.flash.erase.isSome then s.modFlash (fun f => { f with waiting := x :: rest }) else (s.runFlash x).runWaiting rest

/-- The sector, kind and code words of a request; none when it is not a request of R427. -/
def flashShape : FlashOp → Option (Nat × Nat)
  | .read addr outcomes =>
    let n := outcomes.length
    if addr % 32 ≠ 0 || n = 0 || 128 < n || 2 ^ 24 < addr + 32 * n then none else some (addr / 4096, 0)
  | .program addr _ _ => if addr % 32 ≠ 0 || 2 ^ 24 ≤ addr then none else some (addr / 4096, 1)
  | .erase sector => if 4096 ≤ sector then none else some (sector, 2)

/-- Every sector of a request is allowed to its source. -/
def flashMay (by_ : FlashBy) (op : FlashOp) (sector kind : Nat) : Bool :=
  match op with
  | .read addr outcomes => flashAllowed by_ kind sector && flashAllowed by_ kind ((addr + 32 * outcomes.length - 32) / 4096)
  | _ => flashAllowed by_ kind sector

/-- A request to the Plinth ROM (R427, R428): checked, then run, or kept while an erase runs; BUSY answers the firmware's own requests too
(log 249). -/
def State.flashAsk (s : State) (by_ : FlashBy) (op : FlashOp) : State :=
  match flashShape op with
  | none => s.flashEnd by_ 6 0 0 none
  | some (sector, kind) =>
    if !flashMay by_ op sector kind then s.flashRefuse by_ 2
    else if by_ ≠ .recorder && (s.flash.waiting.any (fun x => x.by_ = by_) || s.flash.erase.any (fun e => e.by_ = by_)) then
      s.flashEnd by_ 8 0 0 none
    else
      let x : FlashWait := { by_ := by_, op := op }
      if s.flash.erase.isNone then s.runFlash x
      else (s.modFlash (fun f => { f with waiting := f.waiting ++ [x] })).flashDue

/-! ### Counters (R434) -/

/-- The value of a counter. -/
def State.counter (s : State) (n : Nat) : Nat := s.flash.counters.getD n 0

/-- Raise a counter: a value at or below the current one does nothing, one above 512 is refused. -/
def State.raiseCounter (s : State) (n v : Nat) : State :=
  if 512 < v || 8 ≤ n then s
  else (s.modFlash (fun f => { f with counters := f.counters.set n (max v (f.counters.getD n 0)) })).bumpBy .pfl PFL_CNT_PROGRAM
    (v - s.counter n)

/-! ### The start record ring (R438) -/

/-- The first code word of a ring entry. -/
def ringWord (k : Nat) : Nat := 50 * 128 + k * 16

/-- A ring entry is erased. -/
def State.ringFree (s : State) (k : Nat) : Bool := (List.range 16).all (fun j => !s.programmed (ringWord k + j))

/-- Close a 28-byte record with its CRC-32C. -/
def withCrc (b : Bytes) : Bytes := padTo 28 b ++ leBytes 4 (crc32c (padTo 28 b)).toNat

/-- Code word s of the running start: step, result, wythe mask, variant, ms since POWER_GOOD, detail (R438). -/
def State.startStep (s : State) (step result mask variant : Nat) (detail : Bytes) : State :=
  let at_ := (s.now - s.plinth.goodAt) / 1000000
  s.putWord (ringWord s.plinth.ringPos + step)
    (withCrc (leBytes 1 step ++ leBytes 1 result ++ leBytes 1 mask ++ leBytes 1 variant ++ leBytes 4 at_ ++ detail))

/-- The sector with the oldest 8 entries: the one that follows the newest entry's sector. -/
def State.oldestRing (s : State) : Nat := 50 + (s.plinth.ringPos / 8 + 1) % 8

/-- The Plinth firmware erases a sector of the ring. -/
def State.eraseRing (s : State) : State := (s.wipeSector s.oldestRing).bump .pfl PFL_CNT_ERASE

/-- A start begins: its number, cause and the consecutive failed starts (R438); a full ring gives up its oldest sector. -/
def State.startRecord (s : State) (cause : Nat) : State :=
  let k := (s.plinth.ringPos + 1) % 64
  let s1 := if s.ringFree k then s else s.eraseRing
  let s2 := s1.modPlinth (fun p => { p with ringPos := k, startNo := (p.startNo + 1) % 2 ^ 32, goodAt := s.now })
  s2.putWord (ringWord k) (withCrc (leBytes 4 0x474C5352 ++ leBytes 4 s2.plinth.startNo ++ leBytes 8 s2.plinthTime
    ++ leBytes 1 cause ++ leBytes 1 s2.plinth.failStarts))

/-! ### The recorder (R439-R444) -/

/-- The 64 bytes of an entry (R439). -/
def entryBytes (e : EvtRec) : Bytes :=
  let b := leBytes 8 e.seq ++ leBytes 8 e.time ++ leBytes 1 (e.severity % 4 + 4 * b2n e.uncertain) ++ leBytes 1 e.source ++ leBytes 2 e.code
    ++ leBytes 4 e.page ++ leBytes 4 e.start ++ padTo 32 e.detail
  b ++ leBytes 4 (crc32c b).toNat

/-- The entry that 64 bytes hold. -/
def entryOf (b : Bytes) : EvtRec :=
  let f := fun off n => ofLe (sliceBytes b off n)
  { seq := f 0 8, time := f 8 8, severity := f 16 1 % 4, uncertain := f 16 1 / 4 % 2 = 1, source := f 17 1, code := f 18 2, page := f 20 4,
    start := f 24 4, detail := sliceBytes b 28 32 }

/-- The recorder sectors in use (R425, R430). -/
def State.recSectors (s : State) : List Nat :=
  (58 :: (List.range 2048).map (fun k => 2048 + k)).filter (fun n => !s.flash.bad.contains n)

/-- The entries that a sector holds, with their first code words. -/
def State.sectorEntries (s : State) (sector : Nat) : List (Nat × EvtRec) :=
  (s.flash.words.filter (fun e => e.1 / 128 = sector && e.1 % 2 = 0)).map (fun e => (e.1, entryOf (e.2 ++ s.codeWord (e.1 + 1))))

/-- The entries held, the sector kept erased left out (R441). -/
def State.held_ (s : State) : List (Nat × EvtRec) :=
  (s.flash.words.filter (fun e => areaOf (e.1 / 128) = .recorder && e.1 % 2 = 0 && e.1 / 128 ≠ s.recorder.erased)).map (fun e =>
    (e.1, entryOf (e.2 ++ s.codeWord (e.1 + 1))))

/-- The first code word of a free slot (R441). -/
def State.freeSlot (s : State) : Option Nat :=
  (s.recSectors.filter (· ≠ s.recorder.erased)).findSome? (fun n =>
    ((List.range 64).map (fun j => n * 128 + 2 * j)).find? (fun k => !s.programmed k && !s.programmed (k + 1)))

/-- Write an entry into a slot. -/
def State.writeEntry (s : State) (k : Nat) (e : EvtRec) : State :=
  (s.putWord k ((entryBytes e).take 32)).putWord (k + 1) ((entryBytes e).drop 32)

/-- Copy some entries of a sector into the erased one, and start erasing the old sector, which becomes the erased sector (R441). -/
def State.rewrite (s : State) (sector : Nat) (keep : List EvtRec) : State :=
  let e := s.recorder.erased
  let s1 := keep.zipIdx.foldl (fun s x => s.writeEntry (e * 128 + 2 * x.2) x.1) s
  (s1.modRec (fun r => { r with erased := sector })).runFlash { by_ := .recorder, op := .erase sector }

/-- The older of two entries. -/
def older (a : Option (Nat × EvtRec)) (e : Nat × EvtRec) : Option (Nat × EvtRec) :=
  match a with
  | none => some e
  | some x => if e.2.seq < x.2.seq then some e else some x

/-- Place an entry (R440): in a free slot, in place of the oldest entry of its severity or lower, or not at all. -/
def State.placeEntry (s : State) (e : EvtRec) : State :=
  let placed := fun s : State =>
    let s1 := s.bump .evr EVR_CNT_WRITTEN
    let s2 := if e.severity = 3 then s1.event .evr EVR_EVT_CRITICAL else s1
    let full := s2.freeSlot.isNone
    let s3 := if full && !s2.recorder.full then s2.event .evr EVR_EVT_FULL else s2
    s3.modRec (fun r => { r with full := full })
  match s.freeSlot with
  | some k => placed (s.writeEntry k e)
  | none =>
    match (s.held_.filter (fun x => x.2.severity ≤ e.severity)).foldl older none with
    | none => (s.bump .evr (EVR_CNT_DROP0 + 4 * e.severity)).event .evr EVR_EVT_DROPPED
    | some v =>
      let sector := v.1 / 128
      let keep := ((s.sectorEntries sector).filter (fun x => x.1 ≠ v.1)).map (fun x => x.2)
      (placed (s.rewrite sector (keep ++ [e]))).bump .evr EVR_CNT_REPLACED

/-- Entries that wait are placed in SEQ order while no erase runs (R440, R441). -/
def State.placeQueue (s : State) : Nat → State
  | 0 => s
  | n + 1 =>
    match s.recorder.queue with
    | [] => s
    | e :: rest => if s.flash.erase.isSome then s else ((s.modRec (fun r => { r with queue := rest })).placeEntry e).placeQueue n

/-- An entry arrives: it takes the next SEQ, and waits in the queue of 256 or is dropped (R424, R440). -/
def State.takeEntry (s : State) (e : EvtRec) : State :=
  let x := { e with seq := s.recorder.nextSeq, start := s.plinth.startNo, uncertain := s.plinth.uncertain }
  let s1 := s.modRec (fun r => { r with nextSeq := r.nextSeq + 1 })
  if 256 ≤ s1.recorder.queue.length then (s1.bump .evr (EVR_CNT_DROP0 + 4 * e.severity)).event .evr EVR_EVT_DROPPED
  else
    let s2 := s1.modRec (fun r => { r with queue := r.queue ++ [x] })
    s2.placeQueue s2.recorder.queue.length

/-- An entry that the Plinth itself writes. -/
def State.plinthEntry (s : State) (severity code page : Nat) (detail : Bytes) : State :=
  s.takeEntry { seq := 0, time := s.plinthTime, severity := severity, uncertain := false, source := 0, code := code, page := page,
                start := 0, detail := padTo 32 detail }

/-- The next sector of a running clear is rewritten without its entries of severity at or below c below B; with none left the clear ends
(R444). -/
def State.clearStep (s : State) : State :=
  match s.recorder.clearing with
  | none => s
  | some (c, b) =>
    if s.flash.erase.isSome then s
    else
      let hit := fun e : EvtRec => e.severity ≤ c && e.seq < b
      match s.held_.find? (fun x => hit x.2) with
      | some x =>
        let sector := x.1 / 128
        let gone := ((s.sectorEntries sector).filter (fun y => hit y.2)).map (fun y => y.2.seq)
        (s.rewrite sector (((s.sectorEntries sector).filter (fun y => !hit y.2)).map (fun y => y.2))).modRec (fun r =>
          { r with acked := r.acked.filter (fun q => !gone.contains q), full := false })
      | none =>
        ((s.modRec (fun r => { r with clearing := none })).plinthEntry 1 0x2202 (pageIdOf .evr).toNat []).event .evr EVR_EVT_CLEARED

/-- The next recorder sector marked for refresh is rewritten with every entry it holds (R442). -/
def State.renewStep (s : State) : State :=
  match s.recorder.renew with
  | [] => s
  | n :: rest =>
    if s.flash.erase.isSome then s
    else
      let s1 := s.modRec (fun r => { r with renew := rest })
      if n = s1.recorder.erased then s1 else s1.rewrite n ((s1.sectorEntries n).map (fun y => y.2))

/-- The flash is free again: what waited runs, entries are placed, a refresh and a clear go on. -/
def State.flashFree (s : State) : State :=
  let s1 := s.runWaiting s.flash.waiting
  let s2 := s1.placeQueue s1.recorder.queue.length
  s2.renewStep.clearStep

/-- A clear begins (R444): CLEAR_BEGIN with the ceiling and the boundary, the SEQ that CLEAR_BEGIN takes. -/
def State.beginClear (s : State) (c : Nat) : State :=
  let b := s.recorder.nextSeq
  let s1 := s.plinthEntry 1 0x2201 (pageIdOf .evr).toNat (leBytes 8 c ++ leBytes 8 b)
  (s1.modRec (fun r => { r with clearing := some (c, b) })).clearStep

/-- The SEQs of entries. -/
def seqsOf (l : List (Nat × EvtRec)) : List Nat := l.map (fun x => x.2.seq)

/-- The newest SEQ of one sector that the other does not hold. -/
def newestOnly (a b : List Nat) : Nat := (a.filter (fun q => !b.contains q)).foldl max 0

/-- Of two sectors that hold entries of equal SEQ, the one to erase (R442). -/
def toErase (s : State) (a b : Nat) : Option Nat :=
  let x := seqsOf (s.sectorEntries a)
  let y := seqsOf (s.sectorEntries b)
  if !x.any (fun q => y.contains q) then none
  else if x.all (fun q => y.contains q) then some a
  else if y.all (fun q => x.contains q) then some b
  else if newestOnly x y < newestOnly y x then some a else some b

/-- At a Plinth start (R442, R444): doubled sectors are resolved, the erased sector found anew, marked sectors are rewritten, and a clear
without its end resumes. -/
def State.recorderStart (s : State) : State :=
  let used := (s.recSectors.filter (fun n => s.flash.words.any (fun e => e.1 / 128 = n)))
  let s0 := (s.modFlash (fun f => { f with erase := none, waiting := [] })).modRec (fun r => { r with renew := r.worn, worn := [] })
  let bad := used.findSome? (fun a => used.findSome? (fun b => if a < b then toErase s0 a b else none))
  let s1 := match bad with
    | some n => (s0.modRec (fun r => { r with erased := n })).runFlash { by_ := .recorder, op := .erase n }
    | none => s0.modRec (fun r => { r with erased := (s.recSectors.find? (fun n => !used.contains n)).getD r.erased })
  let s1 := s1.renewStep
  let all := s1.held_.map (fun x => x.2)
  let begins := all.filter (fun e => e.code = 0x2201)
  let last := begins.foldl (fun a e => max a e.seq) 0
  let ended := all.any (fun e => e.code = 0x2202 && last < e.seq)
  match begins.find? (fun e => e.seq = last) with
  | some e =>
    if ended then s1.modRec (fun r => { r with clearing := none })
    else (s1.modRec (fun r => { r with clearing := some (ofLe (sliceBytes e.detail 0 8), ofLe (sliceBytes e.detail 8 8)) })).clearStep
  | none => s1.modRec (fun r => { r with clearing := none })

/-! ### The rows of the ROM routines (R427-R430, R434) -/

/-- PF_READ by the Plinth firmware. -/
def execPfRead (addr : Nat) (outcomes : List (Nat × Nat)) (s : State) : Host.Outcome State Fault Refusal :=
  .next (if s.plinth.up then s.flashAsk .firmware (.read addr outcomes) else s)

/-- PF_PROGRAM by the Plinth firmware. -/
def execPfProgram (addr : Nat) (data : Bytes) (ok : Bool) (s : State) : Host.Outcome State Fault Refusal :=
  .next (if s.plinth.up then s.flashAsk .firmware (.program addr data ok) else s)

/-- PF_ERASE by the Plinth firmware. -/
def execPfErase (addr : Nat) (s : State) : Host.Outcome State Fault Refusal :=
  .next (if !s.plinth.up then s
    else if addr % 32 ≠ 0 then s.flashEnd .firmware 6 0 0 none else s.flashAsk .firmware (.erase (addr / 4096)))

/-- PF_ERASE_DONE: the running erase completes, or does not verify within 40 ms (R427, R428, R430). -/
def execPfEraseDone (ok : Bool) (s : State) : Host.Outcome State Fault Refusal :=
  match s.flash.erase with
  | none => .next s
  | some e =>
    let s1 := s.modFlash (fun f => { f with erase := none })
    let s2 :=
      if ok then ((s1.wipeSector e.sector).bump .pfl PFL_CNT_ERASE).flashEnd e.by_ 0 0 0 none
      else ((s1.bump .pfl PFL_CNT_ERASE_FAIL).retireSector e.sector true).flashEnd e.by_ 5 0 0 none
    let s3 := if ok || e.by_ ≠ .recorder then s2
      else s2.modRec (fun r => { r with
        erased := (s2.recSectors.find? (fun n => !s2.flash.words.any (fun x => x.1 / 128 = n))).getD r.erased })
    .next s3.flashFree

/-- PF_COUNTER_READ. -/
def execPfCounterRead (n : Nat) (s : State) : Host.Outcome State Fault Refusal :=
  .next (if !s.plinth.up then s else if 8 ≤ n then s.flashEnd .firmware 6 0 0 none
    else s.flashEnd .firmware 0 0 0 (some (leBytes 4 (s.counter n))))

/-- PF_COUNTER_RAISE: beyond 512 it is refused with COUNTER_FULL. -/
def execPfCounterRaise (n v : Nat) (s : State) : Host.Outcome State Fault Refusal :=
  .next (if !s.plinth.up then s else if 8 ≤ n then s.flashEnd .firmware 6 0 0 none
    else if 512 < v then s.flashEnd .firmware 7 0 0 none else (s.raiseCounter n v).flashEnd .firmware 0 0 0 none)

end Sys2Proof.Machine
end

