-- ==== Sys2Proof/Machine/Slots.lean ====
section
/-! DEFINITION. Image slots and their stamps (R493, R497, R498), the FWU result registers (R509) and the ends of an activation (R500, R502-R504). -/

namespace Sys2Proof.Machine

/-- Change the firmware and settings state. -/
def State.modFw (s : State) (f : Fw → Fw) : State := { s with fw := f s.fw }

/-- A slot of a component: PLINTH has one set, 0; CONVERSION one slot, A (R493). -/
def State.fwSlot (s : State) (comp set : Nat) (b : Bool) : Option FwSlot :=
  s.fw.slots.find? (fun x => x.comp = comp && x.set = set && x.slotB = b)

/-- Change a slot. -/
def State.modFwSlot (s : State) (comp set : Nat) (b : Bool) (f : FwSlot → FwSlot) : State :=
  s.modFw (fun y => { y with slots := updFirst (fun x => x.comp = comp && x.set = set && x.slotB = b) f y.slots })

/-- The state of a slot, its latest stamp: 0 EMPTY, 1 STAGED, 2 TRIAL, 3 TRIED, 4 COMMITTED, 5 ABANDONED, 6 FAILED (R498, R509). -/
def slotSt (x : FwSlot) : Nat := (x.stamps.getLast?.map (fun t => t.1)).getD 0

/-- The activation sequence of a slot's latest stamp. -/
def slotSeq (x : FwSlot) : Nat := (x.stamps.getLast?.map (fun t => t.2.1)).getD 0

/-- The state of a slot by its name. -/
def State.slotState (s : State) (comp set : Nat) (b : Bool) : Nat := ((s.fwSlot comp set b).map slotSt).getD 0

/-- The next activation sequence: one above the highest in either slot of the component (R498). -/
def State.nextActSeq (s : State) (comp : Nat) : Nat :=
  (s.fw.slots.filter (fun x => x.comp = comp)).foldl (fun a x => max a (x.stamps.foldl (fun m t => max m t.2.1) 0)) 0 + 1

/-- Write a stamp (R498). -/
def State.stamp (s : State) (comp set : Nat) (b : Bool) (kind seq : Nat) : State :=
  s.modFwSlot comp set b (fun x => { x with stamps := x.stamps ++ [(kind, seq, s.plinthTime)] })

/-- The sets whose slots hold a component (R493): the wythe's home set for WYTHE, both for the other anchor components. -/
def compSets (comp : Nat) (w : Wy) : List Nat := if comp = 1 then [0] else if comp = 4 then [w.num] else [0, 1]

/-- Stamp the slots of a component alike. -/
def State.stampAll (s : State) (comp : Nat) (w : Wy) (b : Bool) (kind seq : Nat) : State :=
  (compSets comp w).foldl (fun s i => s.stamp comp i b kind seq) s

/-- The committed slot with the higher sequence is B. -/
def State.committedB (s : State) (comp set : Nat) : Bool :=
  let q := fun b => if s.slotState comp set b = 4 then ((s.fwSlot comp set b).map slotSeq).getD 0 else 0
  decide (q false < q true)

/-- The slot that a component runs from: as its ROM started it for PLINTH and WYTHE, else the newer committed slot. -/
def State.runsB (s : State) (comp set : Nat) : Bool :=
  if comp = 1 then s.plinth.slotB
  else if comp = 4 then (s.wy (if set = 0 then .w0 else .w1)).start.slotB
  else s.committedB comp set

/-- The inactive slot of a component: the one whose latest stamp is not COMMITTED for a running image (R497); CONVERSION has slot A alone. -/
def State.idleB (s : State) (comp set : Nat) : Bool := if comp = 5 then false else !s.runsB comp set

/-- The header of the image that runs. -/
def State.runningHdr (s : State) (comp set : Nat) : Option ImgHeader := (s.fwSlot comp set (s.runsB comp set)).bind (fun x => x.hdr)

/-- The compatibility level of a wythe's running image (R501). -/
def State.wyLevel (s : State) (w : Wy) : Nat := ((s.runningHdr 4 w.num).map (fun h => h.compat)).getD 0

/-- The silicon stepping, GLB_PART [23:16]. -/
def State.stepping (s : State) : Nat := s.rfld (.glb .w0) GLB_PART 23 16

/-- The security counter of a component (R493). -/
def counterOf (comp : Nat) : Nat := if comp = 4 || comp = 5 then 3 else comp - 1

/-- The most bytes of a component's payload (R493). -/
def maxPayload (comp : Nat) : Nat := if comp = 1 then 2088960 else if comp = 4 then 67108864 else 4194304

/-- The header checks 1-4 of R496 in order, as the FWU_RESULT code of the first that fails. -/
def State.hdrFault (s : State) (h : ImgHeader) : Option Nat :=
  if !h.formOk || h.component = 0 || 5 < h.component || h.len = 0 || maxPayload h.component < h.len then some 1
  else if !h.sigOk then some 2
  else if h.target ≠ 0x0410 || !h.steppings.getLsbD s.stepping then some 3
  else if 512 < h.security || h.security < s.counter (counterOf h.component) then some 4
  else none

/-- The slot's header passes R496 checks 1-4 and its state lets it start (R499). -/
def State.usableSlot (s : State) (x : FwSlot) : Bool :=
  x.hdr.any (fun h => (s.hdrFault h).isNone) && (slotSt x = 1 || slotSt x = 2 || slotSt x = 4)

/-! ### The FWU pages (R509) -/

/-- Both wythes' FWU pages. -/
def State.bothFwu (s : State) (f : State → Page → State) : State := f (f s (.fwu .w0)) (.fwu .w1)

/-- FWU_RESULT of the last STAGE or activation, with a counter and an event. -/
def State.fwuNote (s : State) (code : Nat) (cnt : Option Nat) (evt : Option Nat) : State :=
  s.bothFwu (fun s p =>
    let s1 := s.setReg p FWU_RESULT (word code)
    let s2 := match cnt with
      | some c => s1.bump p c
      | none => s1
    match evt with
    | some e => s2.event p e
    | none => s2)

/-- A STAGE or activation is refused. -/
def State.fwuRefuse (s : State) (code : Nat) : State := s.fwuNote code (some FWU_CNT_REFUSED) (some FWU_EVT_REFUSED)

/-! ### The end of an activation (R500, R502-R504) -/

/-- A wythe stops draining. -/
def State.endDrain (s : State) (w : Wy) : State :=
  s.modRelief w (fun r => { r with drain := if r.drain.any (fun d => d.activation) then none else r.drain })

/-- Raise a component's counter at its commit (R500): for WYTHE to the lower SECURITY_VERSION of the two committed running images. -/
def State.raiseSecurity (s : State) (comp : Nat) : State :=
  let sec_ := fun c i => ((s.runningHdr c i).map (fun h => h.security)).getD 0
  let both := s.slotState 4 0 (s.runsB 4 0) = 4 && s.slotState 4 1 (s.runsB 4 1) = 4
  if comp = 4 then (if both then s.raiseCounter 3 (min (sec_ 4 0) (sec_ 4 1)) else s)
  else s.raiseCounter (counterOf comp) (sec_ comp 0)

/-- An activation commits: COMMITTED on the slot that runs, the counter raised. -/
def State.fwCommit (s : State) (a : Activation) : State :=
  let s1 := (s.stampAll a.comp a.w a.slotB 4 a.seq).modFw (fun y => { y with act := none })
  (s1.raiseSecurity a.comp).fwuNote 0 (some FWU_CNT_COMMITTED) (some FWU_EVT_COMMITTED)

/-- A trial ends without commitment. -/
def State.fwFallback (s : State) : State :=
  (s.modFw (fun y => { y with act := none })).fwuNote 0x0F (some FWU_CNT_FALLBACK) (some FWU_EVT_FALLBACK)

/-- An activation is abandoned (R503, R504). -/
def State.fwAbandon (s : State) : State :=
  (s.modFw (fun y => { y with act := none })).fwuNote 0x0E none (some FWU_EVT_ABANDONED)

/-! ### RST_STATUS (R419, R420) -/

/-- A request of the RST page ends DONE (1), REFUSED (2) or FAILED (3); a refusal leaves BUSY as it stands. -/
def State.rstEnd (s : State) (w : Wy) (last reason : Nat) : State :=
  let p := Page.rst w
  let busy := if last = 2 then s.rfld p RST_STATUS 0 0 else 0
  let s1 := s.setReg p RST_STATUS (word (busy + last * 2 + reason * 256))
  s1.event p (if last = 2 then RST_EVT_REQ_REFUSED else RST_EVT_REQ_DONE)

end Sys2Proof.Machine
end

