-- ==== Sys2Proof/Machine/Image.lean ====
section
/-! DEFINITION. The bytes of an image: its header, its signature, and the authentication of its payload by the Plinth ROM key services
(R494-R496). -/

namespace Sys2Proof.Machine

/-- A field of an image header, little-endian (R494). -/
def imgFld (b : Bytes) (off n : Nat) : Nat := ofLe (sliceBytes b off n)

/-- The reserved bytes of an image header (R494). -/
def imgReserved : List (Nat × Nat) := [(6, 2), (11, 1), (81, 3), (168, 3832)]

/-- Check 1 of R496 but for the payload's length, which the component bounds: MAGIC, FORMAT, a component, reserved fields zero. -/
def imgForm (b : Bytes) : Bool :=
  b.length = 4096 && imgFld b 0 4 = 0x474C4648 && imgFld b 4 2 = 1 && 1 ≤ imgFld b 10 1 && imgFld b 10 1 ≤ 5
    && imgReserved.all (fun r => sliceBytes b r.1 r.2 = zeroBytes r.2)

/-- Check 2 of R496: the signature over bytes 0-3,999 verifies under the key of the Plinth ROM that SIGNER_KEY_ID names. -/
def imgSigned (b : Bytes) : Bool :=
  ecVerify ((List.range 97).map (Config.signerByte (imgFld b 164 4))) (sliceBytes b 0 4000) (sliceBytes b 4000 96)

/-- The header that 4,096 bytes hold (R494). -/
def imgHeader (b : Bytes) : ImgHeader :=
  { component := imgFld b 10 1, formOk := imgForm b, sigOk := imgSigned b, target := imgFld b 8 2, steppings := BitVec.ofNat 32 (imgFld b 12 4),
    func := imgFld b 16 4, compat := imgFld b 20 2, security := imgFld b 22 2, len := imgFld b 24 8, setFormat := imgFld b 156 2,
    readMin := imgFld b 158 2, convFrom := imgFld b 160 2, convTo := imgFld b 162 2 }

/-- The content key, which the Plinth ROM key services unwrap under the image key that WRAP_KEY_ID names (R494, R495); none of a wrap of another
kind (log 251). -/
def contentKey (b : Bytes) : Option Bytes :=
  if imgFld b 80 1 = 1 then keyUnwrap ((List.range 32).map (Config.imageKeyByte (imgFld b 84 4))) (sliceBytes b 88 40) else none

/-- The plaintext of an authentic payload: its tag verifies with header bytes 0-79 as additional data, and its SHA-384 equals DIGEST (R495). -/
def imgPlain (b payload : Bytes) : Option Bytes :=
  (contentKey b).bind (fun key =>
    let x := gcmOpen key (sliceBytes b 128 12) (b.take 80) payload (sliceBytes b 140 16)
    if x.2 && sha384 x.1 = sliceBytes b 32 48 then some x.1 else none)

end Sys2Proof.Machine
end

