-- ==== Sys2Proof/Machine/Jobs.lean ====
section
/-! DEFINITION. The jobs of compute tiles: the course a queue is bound to (R165), the course scheduler (R17), where a failed job runs
again (R32), the units of codec tiles (R14, R36), and the context slots and priorities of crypt tiles (R184, R185). -/

namespace Sys2Proof.Machine

/-- Change the codec jobs of a wythe. -/
def State.modCodec (s : State) (w : Wy) (f : List CodecJob → List CodecJob) : State :=
  s.modWy w (fun y => { y with codec := f y.codec })

/-! ### Courses (R17, R165) -/

/-- The compute course that queue q of a wythe is bound to (R165). -/
def courseOfQueue (q : Nat) : Fin 16 :=
  let c := q % 12
  Fin.ofNat 16 (c / 3 * 4 + c % 3)

/-- The tiles of a kind in a course that take new jobs (R17, R33). -/
def State.courseTiles (s : State) (w : Wy) (k : TileKind) (c : Fin 16) : List (Fin 128) :=
  ((List.range 8).map (fun i => Fin.ofNat 128 (c.val * 8 + i))).filter (fun t => tileKind t.val = k && s.tileServes w t)

/-- The jobs in the queue and on the tiles of a course: its load. -/
def State.courseLoad (s : State) (w : Wy) (c : Fin 16) : Nat :=
  ((s.wy w).codec.filter (fun j => j.course = c)).length + ((s.wy w).cip.jobs.filter (fun j => j.course = c)).length

/-- The jobs in the queue of a course, dispatched to no tile. -/
def State.courseQueue (s : State) (w : Wy) (c : Fin 16) : Nat :=
  ((s.wy w).codec.filter (fun j => j.course = c && j.tile.isNone)).length
    + ((s.wy w).cip.jobs.filter (fun j => j.course = c && (j.st = .queued || j.st = .waitKey || j.st = .waitResv))).length

/-- The least loaded of some courses of a wythe that has a serving tile of a kind; of equally loaded ones the lowest (log 194). -/
def State.leastLoaded (s : State) (w : Wy) (k : TileKind) (l : List (Fin 16)) : Option (Fin 16) :=
  (l.filter (fun c => s.courseTiles w k c ≠ [])).foldl (fun a c => match a with
    | none => some c
    | some b => if s.courseLoad w c < s.courseLoad w b then some c else some b) none

/-- Every course of a wythe. -/
def courses : List (Fin 16) := (List.range 16).map (fun n => Fin.ofNat 16 n)

/-- The course a job in a course's queue runs in: that one while it has a serving tile of the kind, else the least loaded one of the
wythe that has (R17). Where none has, the job stays. -/
def State.courseFor (s : State) (w : Wy) (k : TileKind) (c : Fin 16) : Fin 16 :=
  if s.courseTiles w k c ≠ [] then c else (s.leastLoaded w k courses).getD c

/-- A job passes from one course's queue to another (R17). -/
def State.notePass (s : State) (w : Wy) (c d : Fin 16) : State := if c = d then s else s.bump (.crs w c) CRS_CNT_PASSED

/-! ### Runs (R32) -/

/-- The tiles on which a job has failed. -/
def State.failedOn (s : State) (w : Wy) (ref : JobRef) (k : TileKind) : List (Fin 128) :=
  ((s.jobRuns.find? (fun e => e.1 = w && e.2.1 = ref && e.2.2.1 = k)).map (fun e => e.2.2.2)).getD []

/-- A job has failed on a tile once more. -/
def State.noteRun (s : State) (w : Wy) (ref : JobRef) (k : TileKind) (t : Fin 128) : State :=
  let l := upsert (fun e => e.1 = w && e.2.1 = ref && e.2.2.1 = k) (fun e => (e.1, e.2.1, e.2.2.1, e.2.2.2 ++ [t])) (w, ref, k, [t]) s.jobRuns
  { s with jobRuns := l }

/-- The tiles of a course that a job may go to: those on which it has not failed, where the course has such (R32). -/
def State.jobTiles (s : State) (w : Wy) (k : TileKind) (c : Fin 16) (ref : JobRef) : List (Fin 128) :=
  let all := s.courseTiles w k c
  let other := all.filter (fun t => !(s.failedOn w ref k).contains t)
  if other = [] then all else other

/-- The course that a failed job runs in again: after the first failure the same course, after the second another, the least loaded one
that has a serving tile of the kind (R32). -/
def State.retryCourse (s : State) (w : Wy) (k : TileKind) (ref : JobRef) (t : Fin 128) : Fin 16 :=
  let c := courseOf t
  if (s.failedOn w ref k).length ≤ 1 then c
  else (s.leastLoaded w k (courses.filter (fun d => d ≠ c))).getD c

/-! ### Codec jobs (R14, R17, R36) -/

/-- A codec job of a reference on a unit. -/
def isCodec (u : CodecUnit) (ref : JobRef) (j : CodecJob) : Bool := j.unit = u && j.ref = ref

/-- A unit of a codec tile has no job: each unit runs one at a time, so it ends them in the order it started them (R14, R36). -/
def State.unitIdle (s : State) (w : Wy) (u : CodecUnit) (t : Fin 128) : Bool :=
  !(s.wy w).codec.any (fun j => j.unit = u && j.tile = some t)

/-- The course scheduler gives a waiting codec job to an idle unit of a tile of its course, or passes it on (R17). Which of several idle
tiles it takes the spec leaves open: a free value (log 194). -/
def State.startCodec (s : State) (w : Wy) (j : CodecJob) : State :=
  let c := s.courseFor w .codec j.course
  let s1 := (s.notePass w j.course c).modCodec w (updFirst (isCodec j.unit j.ref) (fun x => { x with course := c }))
  let idle := (s1.jobTiles w .codec c j.ref).filter (s1.unitIdle w j.unit)
  match idle[s1.free % idle.length]? with
  | none => s1
  | some t => (s1.used.modCodec w (updFirst (isCodec j.unit j.ref) (fun x => { x with tile := some t }))).jobSent w t

/-- Dispatch the codec jobs that wait in the course queues of a wythe, oldest first. -/
def State.dispatchCodec (s : State) (w : Wy) : State :=
  ((s.wy w).codec.filter (fun j => j.tile.isNone)).foldl (fun s j => s.startCodec w j) s

/-- A codec job joins the queue of a course. -/
def State.queueCodec (s : State) (w : Wy) (u : CodecUnit) (ref : JobRef) (c : Fin 16) : State :=
  (s.modCodec w (fun l => l ++ [{ unit := u, ref := ref, course := c, tile := none }])).dispatchCodec w

/-- The tile on which a unit runs a job. -/
def State.codecTile (s : State) (w : Wy) (u : CodecUnit) (ref : JobRef) : Option (Fin 128) :=
  ((s.wy w).codec.find? (isCodec u ref)).bind (fun j => j.tile)

/-- A codec job has run to its end on its tile, whose unit takes another. -/
def State.endCodec (s : State) (w : Wy) (u : CodecUnit) (ref : JobRef) (t : Fin 128) : State :=
  (((s.modCodec w (fun l => l.filter (fun j => !isCodec u ref j))).jobGone w t).forgetRuns w ref .codec).dispatchCodec w

/-- A job of a Galois-field unit: its row runs it whole, on an idle unit of the course (R14, R160, log 195). -/
def State.galois (s : State) (w : Wy) (c : Fin 16) : State :=
  let d := s.courseFor w .codec c
  let s1 := s.notePass w c d
  let idle := (s1.courseTiles w .codec d).filter (s1.unitIdle w .galois)
  match idle[s1.free % idle.length]? with
  | none => s1
  | some t => (s1.used.jobSent w t).jobGone w t

/-! ### Crypt jobs: contexts and priorities (R184, R185) -/

/-- A job occupies a context slot of a tile. -/
def onTile (t : Fin 128) (j : CryptJob) : Bool := j.st = .running t || j.st = .suspended t

/-- A job runs on a tile. -/
def isRunning (j : CryptJob) : Bool :=
  match j.st with
  | .running _ => true
  | _ => false

/-- A job holds a context slot. -/
def inContext (j : CryptJob) : Bool :=
  match j.st with
  | .running _ | .suspended _ => true
  | _ => false

/-- The effective priority of a job: one step lower for every AGE_STEP milliseconds that it has waited since it was last queued or
suspended; a running job keeps the one it started with (R185). -/
def effPrio (now step : Nat) (j : CryptJob) : Nat :=
  match j.st with
  | .running _ => j.eff
  | _ => j.prio - (now - j.since) / ms (max 1 step)

/-- The active AGE_STEP of a wythe (R185, R189). -/
def State.ageStep (s : State) (w : Wy) : Nat := s.afld (.cip w) CIP_SCHED_CTRL 14 8

/-- Change the job of a reference. -/
def State.modJob (s : State) (w : Wy) (ref : JobRef) (f : CryptJob → CryptJob) : State :=
  s.modCip w (fun k => { k with jobs := updFirst (fun j => j.ref = ref) f k.jobs })

/-- The more urgent of two jobs; a tie goes to the one that entered its wait earlier (R185). -/
def moreUrgent (now step : Nat) (a b : CryptJob) : Bool :=
  effPrio now step a < effPrio now step b
    || (effPrio now step a = effPrio now step b && (a.since < b.since || (a.since = b.since && a.order < b.order)))

/-- The most urgent of some jobs. -/
def mostUrgent (now step : Nat) (l : List CryptJob) : Option CryptJob :=
  l.foldl (fun a j => match a with
    | none => some j
    | some b => if moreUrgent now step j b then some j else some b) none

/-- The queued jobs that a crypt tile could start: those in its course's queue, and those that R17 or R32 sends there. -/
def State.queuedFor (s : State) (w : Wy) (t : Fin 128) : List CryptJob :=
  (s.wy w).cip.jobs.filter (fun j => j.st = .queued
    && (s.jobTiles w .crypt (s.courseFor w .crypt j.course) j.ref).contains t)

/-- A tile has a free context slot of its 8 (R184). -/
def State.slotFree (s : State) (w : Wy) (t : Fin 128) : Bool := decide (((s.wy w).cip.jobs.filter (onTile t)).length < 8)

/-- The job that an idle tile takes next (R185): the most urgent of its suspended jobs and, while a slot is free and the tile serves, of
the queued ones. -/
def State.nextJob (s : State) (w : Wy) (t : Fin 128) : Option CryptJob :=
  mostUrgent s.now (s.ageStep w) ((s.wy w).cip.jobs.filter (fun j => j.st = .suspended t)
    ++ (if s.slotFree w t then s.queuedFor w t else []))

/-- A tile whose running job has ended resumes the most urgent of its suspended jobs, unless a queued job is more urgent, which it then
starts (R185). -/
def State.resumeTile (s : State) (w : Wy) (t : Fin 128) : State :=
  if (s.wy w).cip.jobs.any (fun j => j.st = .running t) then s
  else match s.nextJob w t with
    | some j =>
      if j.st = .suspended t then s.modJob w j.ref (fun j => { j with st := .running t, eff := effPrio s.now (s.ageStep w) j }) else s
    | none => s

/-- A queued job may take a context slot of a tile now (R184, R185): a slot is free, the tile takes jobs of its course or of those that are
sent there, and the job is the next one of an idle tile, or the most urgent queued one and more urgent than the running job, which
PREEMPT_EN lets it suspend. -/
def State.tileTakes (s : State) (w : Wy) (t : Fin 128) (j : CryptJob) : Bool :=
  s.slotFree w t && (s.queuedFor w t).any (fun x => x.ref = j.ref)
    && (match (s.wy w).cip.jobs.find? (fun x => x.st = .running t) with
      | none => (s.nextJob w t).any (fun x => x.ref = j.ref)
      | some r => s.afld (.cip w) CIP_SCHED_CTRL 0 0 = 1
        && effPrio s.now (s.ageStep w) j < effPrio s.now (s.ageStep w) r
        && (mostUrgent s.now (s.ageStep w) (s.queuedFor w t)).any (fun x => x.ref = j.ref))

/-- The context of a job that has done nothing yet. -/
def CryptCtx.fresh : CryptCtx := { counter := [], ghash := 0, aadDone := 0, done := 0 }

/-- Put a crypt job in a course queue (R166, R184): the inputs are its payload and its additional data, and for a decryption the tag and
the IV of its record. -/
def State.queueCrypt (s : State) (w : Wy) (ref : JobRef) (c : Fin 16) (encrypt : Bool) (ks : BitVec 32) (ver prio : Nat)
    (input aad iv tag : Bytes) : State :=
  let now := s.now
  s.modCip w (fun k =>
    { k with
      jobs := k.jobs ++ [{ ref := ref, encrypt := encrypt, keyspace := ks, ver := ver, prio := prio, since := now,
                           order := k.nextOrder, course := c, st := .queued, iv := if encrypt then none else some iv,
                           input := input, aad := aad, tag := tag, key := [], eff := prio, ctx := .fresh }]
      nextOrder := k.nextOrder + 1 })

/-- The CURRENT key version of a keyspace on a wythe; 0, which is never used, when no slot is CURRENT (R180). -/
def curKey (k : Cip) (ks : BitVec 32) : Nat :=
  ((k.slots.find? (fun x => x.keyspace = ks && x.st = .current)).map (fun x => x.ver)).getD 0

/-! ### The end of jobs by their issuer (R186) -/

/-- The command a job works for. -/
def jobCmd : JobRef → Option Nat
  | .pull c _ | .cut c _ | .writeChunk c _ | .writeInline c _ | .oldInline c _ | .readChunk c _ | .readInline c => some c
  | .background _ | .ship _ | .land _ => none

/-- The issuer ends a crypt job (R186): it leaves its slot with ENDED, an IV taken is never used again, and its tile goes on with another
job. -/
def State.endOne (s : State) (w : Wy) (j : CryptJob) : State :=
  let s1 := (s.modCip w (fun k => { k with jobs := k.jobs.filter (fun x => x.ref ≠ j.ref) })).forgetRuns w j.ref .crypt
  match j.st with
  | .running t | .suspended t => (s1.resumeTile w t).jobGone w t
  | _ => s1

/-- A codec job ends before its end: its unit is free. -/
def State.dropCodec (s : State) (w : Wy) (j : CodecJob) : State :=
  match j.tile with
  | some t => s.endCodec w j.unit j.ref t
  | none => (s.modCodec w (fun l => l.filter (fun x => !isCodec j.unit j.ref x))).forgetRuns w j.ref .codec

/-- End the crypt and codec jobs of a reference (R186). -/
def State.endRef (s : State) (w : Wy) (ref : JobRef) : State :=
  let s1 := ((s.wy w).cip.jobs.filter (fun j => j.ref = ref)).foldl (fun s j => s.endOne w j) s
  ((s1.wy w).codec.filter (fun j => j.ref = ref)).foldl (fun s j => s.dropCodec w j) s1

/-- End the crypt and codec jobs of a command (R186). -/
def State.endJobs (s : State) (w : Wy) (cmd : Nat) : State :=
  let s1 := ((s.wy w).cip.jobs.filter (fun j => jobCmd j.ref = some cmd)).foldl (fun s j => s.endOne w j) s
  let mine := (s1.wy w).codec.filter (fun j => jobCmd j.ref = some cmd)
  let s2 := mine.foldl (fun s j => s.dropCodec w j) s1
  { s2 with jobRuns := s2.jobRuns.filter (fun e => ¬ (e.1 = w ∧ jobCmd e.2.1 = some cmd)) }

end Sys2Proof.Machine
end

