-- ==== Sys2Proof/Machine/Walk.lean ====
section
/-! DEFINITION. Placement: groups and fragment ids (R149, R151, R227-R229), the bond walk (R219), and erasure arithmetic over
GF(2^8) (R230, R231). -/

namespace Sys2Proof.Machine

/-! ### Groups, stripes and fragments -/

/-- The placement group of a chunk: bytes 0-3 of its fingerprint, big-endian, modulo G (R149). -/
def groupOf (g : Nat) (fp : Bytes) : Nat := ofBe (fp.take 4) % g

/-- The wythe of a lead that receives the messages of a group: the spec leaves it open; taken as group mod 2 (log 10). -/
def wyOfGroup (g : Nat) : Wy := wyOfPart g

/-- A fragment id: [63:48] group, [47:6] stripe sequence, [5:0] fragment index (R151). -/
def fragId (group seq index : Nat) : Nat := group * 2 ^ 48 + seq * 2 ^ 6 + index

/-- The group of a fragment id. -/
def fragGroup (f : Nat) : Nat := f / 2 ^ 48

/-- The stripe sequence of a fragment id. -/
def fragSeq (f : Nat) : Nat := f / 2 ^ 6 % 2 ^ 42

/-- The fragment index of a fragment id. -/
def fragIndex (f : Nat) : Nat := f % 2 ^ 6

/-- The stripe id of a fragment: the fragment id of index 0 (R229). -/
def stripeOf (f : Nat) : Nat := f / 2 ^ 6 * 2 ^ 6

/-- The stored length of a fragment of a stripe (R228): data fragment i holds what FILL leaves for it, rounded up to
4 KiB; a parity fragment holds what data fragment 0 holds. -/
def storedLen (k f fill i : Nat) : Nat :=
  let j := if i < k then i else 0
  roundUp (min f (fill - j * f)) 4096

/-! ### Availability and the walk (R219) -/

/-- A brick of the map is MEMBER (R57, R219). -/
def State.isMember (s : State) (b : Nat) : Bool :=
  (s.store.map.bricks.find? (fun x => x.id = b)).any (fun x => x.state = 1)

/-- The acting roles of a group (R219). -/
structure WalkResult where
  lead    : Option Nat
  journal : List Nat
  targets : List (Option Nat)
  deriving DecidableEq, Repr

/-- Targets in position order: an available position keeps its brick, others take the remaining spills in order. -/
def walkTargets (avail : Nat → Bool) : List Nat → List Nat → List (Option Nat)
  | [], _ => []
  | b :: rest, spills =>
    if avail b then some b :: walkTargets avail rest spills
    else match spills with
      | [] => none :: walkTargets avail rest []
      | x :: more => some x :: walkTargets avail rest more

/-- `walk(row, k, m)` over a set of available bricks (R219). -/
def walk (avail : Nat → Bool) (row : BondRow) (k m : Nat) : WalkResult :=
  let pos := row.pos.take (k + m)
  let spills := row.spill.filter avail
  let parity := pos.drop k
  let lead :=
    match pos with
    | [] => none
    | b :: _ => if avail b then some b else (parity ++ (pos.take k).drop 1).find? avail
  let j := ((parity.filter avail).filter (fun b => some b ≠ lead)).take 2
  let need := 2 - j.length
  { lead := lead, journal := j ++ spills.take need, targets := walkTargets avail pos (spills.drop need) }

/-- The bond-table row of a group. -/
def State.row (s : State) (group : Nat) : Option BondRow := tableGet? s.wall.bond.rows group

/-- The walk of a group at the versions this brick holds, some bricks counted as unavailable (R219, R236). -/
def State.walkFor (s : State) (group : Nat) (but : List Nat) : Option WalkResult :=
  (s.row group).map (fun r => walk (fun b => s.isMember b && !but.contains b) r s.wall.settings.k s.wall.settings.m)

/-- The acting lead of a group, if the walk yields a lead and two journal members. -/
def State.leadOf (s : State) (group : Nat) : Option Nat :=
  match s.walkFor group [] with
  | some r => if r.journal.length = 2 then r.lead else none
  | none => none

/-! ### GF(2^8) (R230, R231) -/


/-- Multiplication by x modulo 0x11D. -/
def gfDouble (a : Nat) : Nat := if a < 128 then 2 * a else (2 * a) ^^^ 0x11D

/-- Multiplication in GF(2^8): `n` bits of the first factor. -/
def gfMulBits : Nat → Nat → Nat → Nat
  | 0, _, _ => 0
  | n + 1, a, b => (if a % 2 = 1 then b else 0) ^^^ gfMulBits n (a / 2) (gfDouble b)

/-- Multiplication in GF(2^8). -/
def gfMul (a b : Nat) : Nat := gfMulBits 8 a b

/-- Powers in GF(2^8). -/
def gfPow (a : Nat) : Nat → Nat
  | 0 => 1
  | n + 1 => gfMul a (gfPow a n)

/-- The inverse in GF(2^8): a^254. -/
def gfInv (a : Nat) : Nat := gfPow a 254

/-- A coefficient of the built-in code table (R231). -/
def gfCoef (m j i : Nat) : Nat :=
  let c := fun j => gfInv (j ^^^ (m + i))
  gfMul (c j) (gfInv (c 0))

/-- A coefficient of the wall's code table: the built-in one, or a loaded matrix (R231). -/
def coefOf (ws : WallSettings) (j i : Nat) : Nat :=
  if ws.codeTable = 1 then gfCoef ws.m j i else ((ws.codeRows[j]?).bind (fun r => r[i]?)).getD 0

/-- A byte of a parity fragment: the sum over the data fragments (R230). -/
def parityByte (ws : WallSettings) (j x : Nat) : Nat → List Bytes → Nat
  | _, [] => 0
  | i, d :: rest => gfMul (coefOf ws j i) ((d.getD x 0).toNat) ^^^ parityByte ws j x (i + 1) rest

/-- Parity fragment j over `len` bytes (R230). -/
def parity (ws : WallSettings) (j len : Nat) (data : List Bytes) : Bytes :=
  (List.range len).map (fun x => BitVec.ofNat 8 (parityByte ws j x 0 data))

/-- A row of the generator matrix: a unit row for a data fragment, the code table's row for a parity fragment. -/
def genRow (ws : WallSettings) (idx : Nat) : List Nat :=
  (List.range ws.k).map (fun i => if idx < ws.k then (if i = idx then 1 else 0) else coefOf ws (idx - ws.k) i)

/-- Scale an equation of the erasure system. -/
def gfScale (c : Nat) (r : List Nat × Bytes) : List Nat × Bytes :=
  (r.1.map (gfMul c), r.2.map (fun b => BitVec.ofNat 8 (gfMul c b.toNat)))

/-- Add two equations of the erasure system. -/
def gfAdd (a b : List Nat × Bytes) : List Nat × Bytes :=
  (List.zipWith (· ^^^ ·) a.1 b.1, List.zipWith (· ^^^ ·) a.2 b.2)

/-- Gauss-Jordan elimination over GF(2^8): the columns from `c` on, `n` of them; none when the system is singular. -/
def gfSolve : Nat → Nat → List (List Nat × Bytes) → List (List Nat × Bytes) → Option (List (List Nat × Bytes))
  | 0, _, done, _ => some done
  | n + 1, c, done, todo =>
    match todo.find? (fun r => r.1.getD c 0 ≠ 0) with
    | none => none
    | some p =>
      let u := gfScale (gfInv (p.1.getD c 0)) p
      let clear := fun r : List Nat × Bytes => gfAdd r (gfScale (r.1.getD c 0) u)
      gfSolve n (c + 1) (done.map clear ++ [u]) (((todo.erase p).map clear))

/-- Decode a fragment's bytes from k others (R230): the data are solved for and the wanted fragment computed from them. -/
def rsDecode (ws : WallSettings) (have_ : List (Nat × Bytes)) (want : Nat) : Option Bytes :=
  let eqs := (have_.take ws.k).map (fun x => (genRow ws x.1, x.2))
  if have_.length < ws.k then none
  else (gfSolve ws.k 0 [] eqs).map (fun rows =>
    ((genRow ws want).zip rows).foldl (fun acc x => (gfAdd ([], acc) (gfScale x.1 ([], x.2.2))).2)
      (zeroBytes ((rows.head?.map (fun r => r.2.length)).getD 0)))

/-- Sublists of a given length. -/
def choose : Nat → List Nat → List (List Nat)
  | 0, _ => [[]]
  | _ + 1, [] => []
  | n + 1, a :: l => (choose n l).map (fun x => a :: x) ++ choose (n + 1) l

/-- A code table recovers every set of m erased positions (R231). -/
def codeTableOk (ws : WallSettings) : Bool :=
  (choose ws.k (List.range (ws.k + ws.m))).all (fun l => (gfSolve ws.k 0 [] (l.map (fun i => (genRow ws i, [])))).isSome)

/-- The data fragments of a data area of k × F bytes. -/
def dataFragments (k f : Nat) (area : Bytes) : List Bytes :=
  (List.range k).map (fun i => sliceBytes area (i * f) f)

end Sys2Proof.Machine
end

