-- ==== Sys2Proof/Machine/Chisel.lean ====
section
/-! DEFINITION. Media tiles (12) and power tokens (R34, R303-R305): channels, dies and blocks, the checks of a chisel request, its
queue, its start, its suspension and its end. -/

namespace Sys2Proof.Machine

/-! ### Channels, dies, blocks -/

/-- Change the media. -/
def State.modMedia (s : State) (f : Media → Media) : State := { s with media := f s.media }

/-- A channel not yet owned (R341). -/
def ChanSt.reset : ChanSt :=
  { owner := none, mode := .none, releasing := false, lending := false, degraded := false, trained := false, answering := 0 }

/-- A channel. -/
def State.chan (s : State) (c : Nat) : ChanSt := (tableGet? s.media.chans c).getD .reset

/-- Change a channel. -/
def State.modChan (s : State) (c : Nat) (f : ChanSt → ChanSt) : State :=
  s.modMedia (fun m => { m with chans := tablePut m.chans c (f ((tableGet? m.chans c).getD .reset)) })

/-- A die not yet used. -/
def DieSt.reset : DieSt :=
  { hung := false, fails := 0, retired := false, goneAt := none, spares := 256, uncorr := [], temp := 0, age := 0, corrSlc := 0, corrQlc := 0,
    calTemp := 0, calAt := 0,
    parityReads := 0, uncReads := 0 }

/-- A die, by its number channel × 32 + die index (R279). -/
def State.die (s : State) (d : Nat) : DieSt := (tableGet? s.media.dies d).getD .reset

/-- Change a die. -/
def State.modDie (s : State) (d : Nat) (f : DieSt → DieSt) : State :=
  s.modMedia (fun m => { m with dies := tablePut m.dies d (f ((tableGet? m.dies d).getD .reset)) })

/-- A block that nothing has touched: UNKNOWN in the chisel table (R346), never worn. -/
def Blk.reset : Blk :=
  { st := .unknown, qlc := false, wp := 0, intent := 0, doneSeq := 0, use := .free, wear := 0, lastQlc := false, erases := 0,
    weak := [] }

/-- The key of a block. -/
def blkKey (die plane block : Nat) : Nat := (die * 4 + plane) * 2048 + block

/-- A block. -/
def State.blk (s : State) (k : Nat) : Blk := (tableGet? s.media.blocks k).getD .reset

/-- Change a block. -/
def State.modBlk (s : State) (k : Nat) (f : Blk → Blk) : State :=
  s.modMedia (fun m => { m with blocks := tablePut m.blocks k (f ((tableGet? m.blocks k).getD .reset)) })

/-- Every block of a die becomes UNKNOWN (R342, R343, R351). A block never touched is UNKNOWN already. -/
def State.dieUnknown (s : State) (d : Nat) : State :=
  s.modMedia (fun m => { m with
    blocks := m.blocks.map (fun e => if e.1 / 8192 = d then (e.1, { e.2 with st := .unknown }) else e) })

/-- Every block of a channel becomes UNKNOWN (R342, R343). -/
def State.chanUnknown (s : State) (c : Nat) : State :=
  s.modMedia (fun m => { m with
    blocks := m.blocks.map (fun e => if e.1 / 8192 / 32 = c then (e.1, { e.2 with st := .unknown }) else e) })

/-- The media course that drives a channel for a wythe: the media tile of the channel's index (R3). -/
def mediaCourse (c : Nat) : Fin 16 := Fin.ofNat 16 (c % 32 / 8 * 4 + 3)

/-- The panel of a channel's media tile (R3, R354). -/
def chanPanel (c : Nat) : Nat := c % 32 / 8

/-- The home wythe of a channel (R3). -/
def homeOf (c : Nat) : Wy := if c < 32 then .w0 else .w1

/-- The set of a channel (R279). -/
def setOf (c : Nat) : Nat := c / 32

/-- Requests of a wythe for a channel run, in the modes of R341. -/
def State.drivenFor (s : State) (w : Wy) (c : Nat) : Bool :=
  match (s.chan c).mode with
  | .none => false
  | .home | .lent => w = homeOf c
  | .cover => w = (homeOf c).peer

/-- The page of a channel. -/
def chnPage (c : Nat) : Page := .chn (Fin.ofNat 64 c)

/-- The page of the media course that drives a channel. -/
def State.crsPage (s : State) (c : Nat) : Page := .crs ((s.chan c).owner.getD (homeOf c)) (mediaCourse c)

/-- A wythe is held in reset by the cross-reset line (R28). -/
def State.heldWy (s : State) (w : Wy) : Bool := match w with | .w0 => s.cover.held0 | .w1 => s.cover.held1

/-- CHN_OWNER as a wythe reads it (R356). -/
def State.chnOwner (s : State) (w : Wy) (c : Nat) : Nat :=
  let x := s.chan c
  let own := match x.owner with | none => 0 | some .w0 => 1 | some .w1 => 2
  let mode := match x.mode with | .none => 0 | .home => 1 | .lent => 2 | .cover => 3
  own + mode * 4 + b2n (x.owner = some w) * 16 + b2n (s.heldWy w.peer) * 32 + b2n x.releasing * 64

/-! ### Requests -/

/-- The planes that a request names. -/
def planesOf (r : ChReq) : List Nat := (List.range 4).filter (fun p => bits r.planes p p = 1)

/-- The block keys that a request names: its planes' blocks, and a fold's sources too (R350). -/
def blksOf (rt : Routine) (r : ChReq) : List Nat :=
  let d := r.channel * 32 + r.die
  let own := (planesOf r).map (fun p => blkKey d p (r.blocks.getD p 0))
  if rt = .fold then own ++ r.sources.map (fun x => blkKey d x.plane x.block) else own

/-- The mode bit of a request: QLC. -/
def reqQlc (rt : Routine) (r : ChReq) : Bool :=
  match rt with
  | .progSlc => false
  | .progQlc | .fold => true
  | _ => bits r.planes 4 4 = 1

/-- The die of a request (R279). -/
def reqDie (r : ChReq) : Nat := r.channel * 32 + r.die

/-- The byte offset of the first bad field of a request, if one is out of range (R344, R346). -/
def badField (rt : Routine) (r : ChReq) : Option Nat :=
  let n := (planesOf r).length
  let isRead := rt = .read || rt = .readRetry
  let isProg := rt = .progSlc || rt = .progQlc
  let isErase := rt = .erase || rt = .eraseVerify
  if 4 ≤ r.flags then some 1
  else if 4 < r.cls then some 2
  else if 31 < r.die then some 3
  else if 63 < r.channel then some 4
  else if 32 ≤ r.planes then some 5
  else if isRead && n ≠ 1 then some 5
  else if rt = .fold && n ≠ 4 then some 5
  else if (isProg || isErase) && n = 0 then some 5
  else if isRead && bits r.cw 3 0 = 0 then some 6
  else if rt = .readRetry && (bits r.retry 4 0 < 1 || 16 < bits r.retry 4 0) then some 7
  else if 32 ≤ r.retry then some 7
  else match (planesOf r).find? (fun p => 2048 ≤ r.blocks.getD p 0) with
    | some p => some (8 + 2 * p)
    | none =>
      if isRead && (if reqQlc rt r then 4096 else 1024) ≤ r.page then some 16
      else if (isProg || rt = .fold) && 1024 ≤ r.page then some 16
      else if r.res35 ≠ 0 then some 35
      else none

/-- Why a program is refused before it reaches the die (R347). -/
def progReason (b : Blk) (qlc : Bool) (wl : Nat) : Option Nat :=
  match b.st with
  | .failed => some 4
  | .unknown => if wl = 0 then none else some 5
  | .erased => if wl = 0 then none else some 2
  | .opened | .full => if wl < b.wp then some 1 else if b.wp < wl then some 2 else if b.qlc ≠ qlc then some 3 else none

/-- A routine that programs. -/
def isProgram : Routine → Bool
  | .progSlc | .progQlc | .fold => true
  | _ => false

/-- A block as an accepted operation will leave it when it ends DONE. -/
def afterJob (k : Nat) (b : Blk) (j : ChJob) : Blk :=
  let own := (planesOf j.req).map (fun p => blkKey (reqDie j.req) p (j.req.blocks.getD p 0))
  if j.st = .held || !own.contains k || b.st = .failed then b
  else if isProgram j.routine then
    { b with st := if 1024 ≤ b.wp + 1 then .full else .opened, wp := b.wp + 1, qlc := reqQlc j.routine j.req }
  else if j.routine = .erase || j.routine = .eraseVerify then { b with st := .erased, wp := 0 }
  else b

/-- A block as the requests already accepted for it will leave it: requests that name one block keep their order (R349), so a
program is checked against that (log 32). -/
def State.blkSoon (s : State) (k : Nat) : Blk := s.media.jobs.foldl (afterJob k) (s.blk k)

/-- The planes whose program is refused, with their reasons. -/
def State.progRefused (s : State) (rt : Routine) (r : ChReq) : List (Nat × Nat) :=
  (planesOf r).filterMap (fun p =>
    (progReason (s.blkSoon (blkKey (reqDie r) p (r.blocks.getD p 0))) (reqQlc rt r) r.page).map (fun x => (p, x)))

/-- The planes that lack an armed intent for an erase (R348). -/
def State.noIntent (s : State) (r : ChReq) : List Nat :=
  (planesOf r).filter (fun p =>
    let b := s.blk (blkKey (reqDie r) p (r.blocks.getD p 0))
    !(b.doneSeq < b.intent && b.intent = r.seq))

/-- A plane mask. -/
def maskOf (l : List Nat) : Nat := l.foldl (fun a p => a + 2 ^ p) 0

/-- The refusal of a request before it reaches its die, with DETAIL (R346, R351). -/
def State.refuseReq (s : State) (w : Wy) (rt : Routine) (r : ChReq) : Option (ChResult × Nat) :=
  match badField rt r with
  | some n => some (.badRequest, n)
  | none =>
    if rt = .readRetry && s.media.table.isNone then some (.badRequest, 7)
    else if !s.drivenFor w r.channel then some (.notOwner, s.chnOwner w r.channel)
    else
      let refused := if rt = .progSlc || rt = .progQlc || rt = .fold then s.progRefused rt r else []
      match refused with
      | (p, x) :: _ =>
        some (.programNotErased, x + maskOf (refused.map (fun e => e.1)) * 256
          + (s.blkSoon (blkKey (reqDie r) p (r.blocks.getD p 0))).wp * 65536)
      | [] =>
        if (rt = .erase || rt = .eraseVerify) && s.noIntent r ≠ [] then some (.intentMissing, maskOf (s.noIntent r))
        else if (s.die (reqDie r)).hung && rt ≠ .status && rt ≠ .dieReset then some (.dieTimeout, 0)
        else if rt = .dieReset && !(s.die (reqDie r)).hung
            && s.media.jobs.any (fun j => reqDie j.req = reqDie r && (j.st = .running || j.st = .suspended || j.st = .inSuspension))
          then some (.dieBusy, 0)
        else none

/-- Return a result to its issuer: the firmware's as an output, with the counters and events of its code (R344-R348, R356,
R357). -/
def State.chResult (s : State) (j : ChJob) (e : DieEnd) (data : List (Option Cw)) : State :=
  let c := j.req.channel
  let o : ChOut :=
    { result := e.result, routine := j.routine, good := e.good, crcBad := e.crcBad, step := e.step, channel := c,
      die := j.req.die, suspends := j.suspends, cookie := j.req.cookie, detail := e.detail, temp := e.temp,
      us := (s.now - j.started) / 1000, corrected := e.corrected, data := data }
  let s1 := if j.what = .firmware then s.emit (.chisel j.w o) else s
  match e.result with
  | .programNotErased =>
    ((s1.bump (chnPage c) CHN_CNT_PNE).event (chnPage c) CHN_EVT_PNE).recordOpen (srcOf j.w) 2 (chnPage c) (leBytes 4 e.detail)
  | .programFail => (s1.bump (chnPage c) CHN_CNT_PROG_FAIL).event (chnPage c) CHN_EVT_PROG_FAIL
  | .eraseFail => (s1.bump (chnPage c) CHN_CNT_ERASE_FAIL).event (chnPage c) CHN_EVT_ERASE_FAIL
  | .uncorrectable | .sourceUncorrectable => s1.bump (chnPage c) CHN_CNT_UNCORR
  | .badRequest | .notOwner => s1.bump (s1.crsPage c) CRS_CNT_REFUSED
  | .intentMissing => (s1.bump (chnPage c) CHN_CNT_INTENT_REFUSED).event (chnPage c) CHN_EVT_INTENT_REFUSED
  | .dieTimeout => s1.bump (chnPage c) CHN_CNT_TIMEOUT
  | .abandoned => s1.bump (s1.crsPage c) CRS_CNT_ABANDONED
  | _ => s1

/-- A die end with nothing but its result and DETAIL. -/
def plainEnd (r : ChResult) (detail : Nat) : DieEnd :=
  { result := r, detail := detail, good := 0, crcBad := 0, step := 0xFF, attempts := 0, temp := 0, corrected := 0 }

/-! ### Tokens (R34, R303-R305) -/

/-- The tokens of a routine (R303). -/
def tokenCost : Routine → Nat
  | .read | .readRetry | .calibrate => 4
  | .progSlc => 12
  | .progQlc | .fold => 16
  | .erase | .eraseVerify => 10
  | .readParam | .status | .dieReset => 1

/-- Channels that another wythe's panel drives as LENT, of a home wythe and panel (R34). -/
def State.lentFrom (s : State) (w : Wy) (panel : Nat) : Nat :=
  (s.media.chans.filter (fun e => e.2.mode = .lent && homeOf e.1 = w && chanPanel e.1 = panel)).length

/-- The brick's token budget: the set value, less 25% of it for every 10 s that a sensor has stood at its limit, and never below 640 (R481). -/
def State.nandBudget (s : State) (w : Wy) : Nat :=
  let b := s.afld (.med w) MED_NAND_BUDGET 11 0
  max (min b 640) (b - b * 25 * s.health.cut / 100)

/-- A sensor of the channel's NAND power group or of a connector half stands 10 °C above its limit: no program or erase starts (R481). -/
def State.hotChan (s : State) (c : Nat) : Bool :=
  let isOver := fun n => (s.health.temps.getD n .reset).over10
  isOver (16 + c / 8) || isOver 29 || isOver 30 || isOver 27 || isOver 28

/-- The tokens of a panel: an eighth of the brick's budget, a covered share besides, and an eighth of a panel's share for each
channel lent (R34, R305). -/
def State.panelShare (s : State) (w : Wy) (panel : Nat) : Nat :=
  let one := s.nandBudget w / 8
  let base := if s.cover.coverer = some w then 2 * one else one
  base - s.lentFrom w panel * (one / 8) + s.lentFrom w.peer panel * (one / 8)

/-- The wythe whose panel pays for a job: the one that drives its channel. -/
def State.payer (s : State) (j : ChJob) : Wy := (s.chan j.req.channel).owner.getD j.w

/-- A job holds tokens: started and not a read inside a suspension, nor a dump on loss of input power (R303, R355). -/
def State.holdsTokens (s : State) (j : ChJob) : Bool :=
  (j.st = .running || j.st = .suspended) && !(s.media.dumping && bits j.req.flags 0 0 = 1)

/-- The tokens in use in a panel by the classes of a list. -/
def State.inUse (s : State) (w : Wy) (panel : Nat) (cls : Nat → Bool) : Nat :=
  (s.media.jobs.filter (fun j => s.holdsTokens j && s.payer j = w && chanPanel j.req.channel = panel && cls j.req.cls)).foldl
    (fun a j => a + tokenCost j.routine) 0

/-- The free tokens of a panel. -/
def State.panelFree (s : State) (w : Wy) (panel : Nat) : Nat := s.panelShare w panel - s.inUse w panel (fun _ => true)

/-- The rebuild share of the most urgent tier that has work, in percent: 15, 40 or 75 unless the wall settings say otherwise
(R249, R304). A die rebuild counts at the high tier (R328). -/
def State.rebuildPct (s : State) : Nat :=
  let pct := fun i d => s.wall.settings.tierPct.getD i d
  if s.stripes.rebuild.any (fun e => e.margin = 0) then pct 2 75
  else if s.stripes.rebuild.any (fun e => e.margin = 1) || s.media.set0.dieRebuild ≠ [] || s.media.set1.dieRebuild ≠ [] then pct 1 40
  else if s.stripes.rebuild ≠ [] then pct 0 15
  else 0

/-- The minimum of a class in a panel (R304). -/
def State.classMin (s : State) (w : Wy) (panel cls : Nat) : Nat :=
  let share := s.panelShare w panel
  let reb := share * s.rebuildPct / 100
  let pct := fun hi lo => (share - reb) * s.afld (.med w) MED_CLASS_SHARE hi lo / 100
  if cls = 0 then pct 7 0 else if cls = 1 then reb else if cls = 2 then pct 15 8 else if cls = 3 then pct 23 16 else pct 31 24

/-- The priority order of the classes: upkeep second while the set is below its low mark (R304), fold beside write while erased
SLC capacity is short (R297). -/
def State.classOrder (s : State) (w : Wy) : List (List Nat) :=
  let up := s.rfld (.med w) MED_STATUS 6 6 = 1
  let ff := (if w = .w0 then s.media.set0 else s.media.set1).foldFirst
  let tail := if ff then [[2, 3]] else [[2], [3]]
  if up then [[0], [4], [1]] ++ tail else [[0], [1]] ++ tail ++ [[4]]

/-- A die has an operation started or suspended on it. -/
def State.dieBusy (s : State) (d : Nat) : Bool :=
  s.media.jobs.any (fun j => reqDie j.req = d && j.st ≠ .queued && j.st ≠ .held)

/-- An earlier accepted request for the die names one of a request's blocks (R349). -/
def State.behind (s : State) (j : ChJob) : Bool :=
  s.media.jobs.any (fun x => x.id < j.id && x.st ≠ .held && reqDie x.req = reqDie j.req
    && (blksOf x.routine x.req).any (fun b => (blksOf j.routine j.req).contains b))

/-- The oldest waiting operation of some classes on an idle die of a panel. -/
def State.oldestOp (s : State) (w : Wy) (panel : Nat) (cls : List Nat) : Option ChJob :=
  (s.media.jobs.filter (fun j => j.st = .queued && cls.contains j.req.cls && s.payer j = w && chanPanel j.req.channel = panel
    && !s.dieBusy (reqDie j.req) && !s.behind j && !(s.chan j.req.channel).releasing
    && !(s.hotChan j.req.channel && (isProgram j.routine || j.routine = .erase || j.routine = .eraseVerify)))).foldl
    (fun a j => match a with
      | none => some j
      | some b => if j.id < b.id then some j else some b) none

/-- Change a chisel job. -/
def State.modCh (s : State) (id : Nat) (f : ChJob → ChJob) : State :=
  s.modMedia (fun m => { m with jobs := updFirst (fun j => j.id = id) f m.jobs })

/-- An operation starts on its die (R303); an UNKNOWN block is blank-checked before its first program (R347). A program of a block
that has become FAILED since it was accepted ends PROGRAM_NOT_ERASED in place of starting. -/
def State.startOp (s : State) (j : ChJob) : State :=
  let failed := if isProgram j.routine then
      (planesOf j.req).filter (fun p => (s.blk (blkKey (reqDie j.req) p (j.req.blocks.getD p 0))).st = .failed) else []
  if failed ≠ [] then
    (s.modMedia (fun m => { m with jobs := m.jobs.filter (fun x => x.id ≠ j.id) })).chResult { j with started := s.now }
      (plainEnd .programNotErased (4 + maskOf failed * 256)) []
  else
  let s1 := s.modCh j.id (fun j => { j with st := .running, started := s.now, resumed := s.now, ran := 0 })
  let s2 := if j.waited then s1.bump (.med (s.payer j)) MED_CNT_TOKEN_WAIT else s1
  let isProg := j.routine = .progSlc || j.routine = .progQlc || j.routine = .fold
  let unknown := (planesOf j.req).filter (fun p => (s.blk (blkKey (reqDie j.req) p (j.req.blocks.getD p 0))).st = .unknown)
  if isProg then s2.bumpBy (chnPage j.req.channel) CHN_CNT_BLANK_CHECK unknown.length else s2

/-- The first pass of a grant: a class below its minimum (R304). -/
def State.grantMin (s : State) (w : Wy) (panel : Nat) (cls : List Nat) : State :=
  match s.oldestOp w panel cls with
  | some j =>
    if s.inUse w panel (fun c => c = j.req.cls) < s.classMin w panel j.req.cls && tokenCost j.routine ≤ s.panelFree w panel
    then s.startOp j else s
  | none => s

/-- The second pass of a grant: the classes in order, ending at the first that does not fit (R304). -/
def State.grantRest (s : State) (w : Wy) (panel : Nat) : List (List Nat) → State
  | [] => s
  | cls :: rest =>
    match s.oldestOp w panel cls with
    | none => s.grantRest w panel rest
    | some j => if tokenCost j.routine ≤ s.panelFree w panel then (s.startOp j).grantRest w panel rest else s

/-- On loss of input power DUMP requests run without tokens, at most 4 dies of a channel at once (R355). -/
def State.grantDump (s : State) (panel : Nat) : State :=
  let l := s.media.jobs.filter (fun j => j.st = .queued && bits j.req.flags 0 0 = 1 && chanPanel j.req.channel = panel)
  l.foldl (fun s j =>
    let busy := (s.media.jobs.filter (fun x => x.st = .running && x.req.channel = j.req.channel)).length
    if busy < 4 && !s.dieBusy (reqDie j.req) && !s.behind j then s.startOp j else s) s

/-- A panel grants tokens (R304). -/
def State.grant (s : State) (w : Wy) (panel : Nat) : State :=
  if s.media.dumping then s.grantDump panel
  else ((s.classOrder w).foldl (fun s c => s.grantMin w panel c) s).grantRest w panel (s.classOrder w)

/-! ### Suspension (R350) -/

/-- A read that may run in a suspension of an operation: class read or rebuild, MAY_SUSPEND, of a block that the operation does
not touch. -/
def eligible (op j : ChJob) : Bool :=
  j.st = .queued && (j.routine = .read || j.routine = .readRetry) && j.req.cls ≤ 1 && bits j.req.flags 1 1 = 1
    && reqDie j.req = reqDie op.req && (blksOf j.routine j.req).all (fun b => !(blksOf op.routine op.req).contains b)

/-- A routine that can be suspended (R345). -/
def suspendable : Routine → Bool
  | .progQlc | .fold | .erase | .eraseVerify => true
  | _ => false

/-- The next read of a suspension starts. -/
def State.nextRead (s : State) (op : ChJob) : State :=
  match s.media.jobs.find? (eligible op) with
  | some j => s.modCh j.id (fun j => { j with st := .inSuspension, started := s.now, resumed := s.now })
  | none => s

/-- Suspend a running operation for a waiting read when R350 allows it. -/
def State.trySuspend (s : State) (op : ChJob) : State :=
  let p := chnPage op.req.channel
  if op.st = .running && suspendable op.routine && s.media.jobs.any (eligible op)
      && s.afld p CHN_SUSPEND_CTRL 0 0 = 1 && us (s.afld p CHN_SUSPEND_CTRL 27 16) ≤ s.now - op.resumed
      && op.suspends < s.afld p CHN_SUSPEND_CTRL 13 8 && !s.media.dumping then
    let s1 := (s.modCh op.id (fun j =>
      { j with st := .suspended, ran := j.ran + (s.now - j.resumed), resumed := s.now, suspends := j.suspends + 1 })).bump
        p CHN_CNT_SUSPEND
    s1.nextRead op
  else s

/-- Suspensions that have become due (R350). -/
def State.suspendDue (s : State) : State := s.media.jobs.foldl (fun s j => s.trySuspend j) s

/-- A suspended operation resumes. -/
def State.resumeOp (s : State) (op : ChJob) : State :=
  s.modCh op.id (fun j => { j with st := .running, resumed := s.now })

/-! ### Acceptance (R344) -/

/-- A course or channel limit is reached. -/
def State.chFull (s : State) (c : Nat) : Bool :=
  let acc := s.media.jobs.filter (fun j => j.st ≠ .held)
  decide (2048 ≤ (acc.filter (fun j => mediaCourse j.req.channel = mediaCourse c && s.payer j = (s.chan c).owner.getD (homeOf c))).length)
    || decide (s.afld (s.crsPage c) CRS_CHISEL_CTRL 10 0 ≤ (acc.filter (fun j => j.req.channel = c)).length)

/-- A course takes a request: it is checked, refused or queued, and its panel grants what it can (R344, R346). -/
def State.chTake (s : State) (j : ChJob) : State :=
  let c := j.req.channel
  match s.refuseReq j.w j.routine j.req with
  | some (r, d) =>
    (s.modMedia (fun m => { m with jobs := m.jobs.filter (fun x => x.id ≠ j.id) })).chResult { j with started := s.now } (plainEnd r d) []
  | none =>
    let s1 := s.bump (s.crsPage c) CRS_CNT_ACCEPTED
    let s2 := if (s.chan c).mode = .lent then s1.bump (s.crsPage c) CRS_CNT_FORWARDED else s1
    let s3 := (s2.modCh j.id (fun x => { x with st := .queued })).grant (s.payer j) (chanPanel c)
    let s4 := s3.modCh j.id (fun x => if x.st = .queued then { x with waited := true } else x)
    s4.suspendDue

/-- Submit a chisel request; at a limit it is held at its sender (R344). -/
def State.submit (s : State) (w : Wy) (rt : Routine) (r : ChReq) (what : ChFor) : State :=
  let j : ChJob :=
    { id := s.media.nextJob, w := w, routine := rt, req := r, what := what, st := .held, waited := false, started := 0, resumed := 0,
      ran := 0, suspends := 0 }
  let s1 := s.modMedia (fun m => { m with jobs := m.jobs ++ [j], nextJob := m.nextJob + 1 })
  if s.chFull r.channel then (s1.bump (s1.crsPage r.channel) CRS_CNT_HELD).event (s1.crsPage r.channel) CRS_EVT_LIMIT_HELD
  else s1.chTake j

/-- Requests held at a limit are taken when room appears. -/
def State.takeHeld (s : State) (c : Nat) : State :=
  match s.media.jobs.find? (fun j => j.st = .held && mediaCourse j.req.channel = mediaCourse c && !s.chFull j.req.channel) with
  | some j => s.chTake j
  | none => s

/-! ### Erase records seen in code words (R348) -/

/-- What an erase record's code word says: intent, WRITE_SEQ, CRC, die, planes and blocks. -/
structure EraseNote where
  intent : Bool
  seq    : Nat
  crc    : Nat
  die    : Nat
  mask   : Nat
  blocks : List Nat
  deriving DecidableEq, Repr

/-- The erase record that stands in a code word of tag TYPE 0x06, if one does and its CRC is right. -/
def eraseNote (x : Cw) : Option EraseNote :=
  let f := fun off n => ofLe (sliceBytes x.data off n)
  let kind := f 0 2
  if ofLe (sliceBytes x.tag 12 1) ≠ 0x06 then none
  else if (kind ≠ 3 && kind ≠ 4) || f 4 4 ≠ 64 then none
  else if (crc32c (sliceBytes x.data 0 60)).toNat ≠ f 60 4 then none
  else some { intent := kind = 3, seq := f 8 8, crc := f 60 4, die := f 16 1 * 32 + f 17 1, mask := f 18 1 % 16,
              blocks := [f 20 2, f 22 2, f 24 2, f 26 2] }

/-- Take an erase record into the blocks it names. -/
def State.armErase (s : State) (e : EraseNote) : State :=
  ((List.range 4).filter (fun p => bits e.mask p p = 1)).foldl (fun s p =>
    s.modBlk (blkKey e.die p (e.blocks.getD p 0)) (fun b =>
      if e.intent then { b with intent := max b.intent e.seq } else { b with doneSeq := max b.doneSeq e.seq })) s

/-- A code word has been programmed with DONE or read correctly on a channel: an erase record counts once it has been met on two
different channels. -/
def State.learn (s : State) (c : Nat) (x : Cw) : State :=
  match eraseNote x with
  | none => s
  | some e =>
    let same := fun k : SeenErase => k.intent = e.intent && k.seq = e.seq && k.crc = e.crc
    if s.media.seen.any (fun k => same k && k.channel ≠ c) then s.armErase e
    else if s.media.seen.any same then s
    else s.modMedia (fun m => { m with seen := m.seen ++ [{ intent := e.intent, seq := e.seq, crc := e.crc, channel := c }] })

/-! ### The end of an operation -/

/-- The key of a code word on the media. -/
def cellKey (die plane block page cw : Nat) : Nat := (blkKey die plane block * 4096 + page) * 4 + cw

/-- The pages of a plane that a program writes: SLC page w, or QLC pages 4w to 4w + 3 (R279). -/
def progPages (rt : Routine) (r : ChReq) : List Nat :=
  if rt = .progSlc then [r.page] else (List.range 4).map (fun i => 4 * r.page + i)

/-- The tag a media tile leaves of a slot: TEMP from the die sensor and the CRC computed (R345). -/
def finishTag (temp : Int) (x : Cw) : Cw :=
  let t := padTo 64 x.tag
  let d := padTo 4096 x.data
  let body := sliceBytes t 0 14 ++ leBytes 2 (ofSigned 16 temp) ++ sliceBytes t 16 44
  { data := d, tag := body ++ leBytes 4 (crc32c (d ++ body)).toNat }

/-- The slots of a program in plane, page and code word order, with their places (R345). -/
def slotCells (rt : Routine) (r : ChReq) (temp : Int) : List (Nat × Cw) :=
  let places := (planesOf r).flatMap (fun p => (progPages rt r).flatMap (fun g => (List.range 4).map (fun k =>
    cellKey (reqDie r) p (r.blocks.getD p 0) g k)))
  places.zip (r.slots.map (finishTag temp))

/-- The tag that a fold leaves of a copied data code word (R299): a new WRITE_SEQ, WRITE_TIME, TEMP and ERASES, FOLDED set and
SLC_MODE cleared, with its CRC (R281). -/
def foldTag (r : ChReq) (temp : Int) (x : Cw) : Cw :=
  let f := ofLe (sliceBytes x.tag 13 1)
  let t := sliceBytes x.tag 0 13 ++ leBytes 1 (f / 4 * 4 + 2) ++ leBytes 2 0 ++ leBytes 8 r.seq ++ leBytes 8 r.time
    ++ sliceBytes x.tag 32 12 ++ leBytes 2 r.erases ++ sliceBytes x.tag 46 18
  finishTag temp { x with tag := t }

/-- The code words that a fold programs (R299, R345): those of source entry j on the page of its stripe j; a PARITY page keeps its
data bytes and takes the tag bytes that the buffer holds for it, here the tags of the slots in entry order. -/
def State.foldCells (s : State) (r : ChReq) (temp : Int) : List (Nat × Cw) :=
  r.sources.zipIdx.flatMap (fun e =>
    let n := ((r.sources.take e.2).filter (fun x => x.parity)).length
    (List.range 4).filterMap (fun k =>
      (tableGet? s.media.cells (cellKey (reqDie r) e.1.plane e.1.block e.1.page k)).map (fun x =>
        let y := if e.1.parity then { x with tag := padTo 64 ((r.slots.getD (4 * n + k) x).tag) } else foldTag r temp x
        (cellKey (reqDie r) (e.2 % 4) (r.blocks.getD (e.2 % 4) 0) (4 * r.page + e.2 / 4) k, y))))

/-- A program has ended on its planes: write pointers, states and code words (R347). -/
def State.progDone (s : State) (j : ChJob) (failed : List Nat) (temp : Int) : State :=
  let r := j.req
  let s1 := (planesOf r).foldl (fun s p =>
    s.modBlk (blkKey (reqDie r) p (r.blocks.getD p 0)) (fun b =>
      if failed.contains p then { b with st := .failed }
      else { b with
        st := if 1024 ≤ r.page + 1 then .full else .opened, qlc := reqQlc j.routine r, lastQlc := reqQlc j.routine r,
        wp := r.page + 1 })) s
  let written := if j.routine = .fold then s.foldCells r temp else slotCells j.routine r temp
  let cells := written.filter (fun e => !failed.contains (e.1 / (4 * 4096 * 2048) % 4))
  let s2 := s1.modMedia (fun m => { m with cells := cells.foldl (fun t e => tablePut t e.1 e.2) m.cells })
  let s3 := { s2 with health := { s2.health with mediaBytes := s2.health.mediaBytes + 4096 * cells.length } }
  cells.foldl (fun s e => s.learn r.channel e.2) s3

/-- An erase has ended on its planes: the intent is disarmed, the wear rises by the mode last programmed (R291, R348). -/
def State.eraseDone (s : State) (j : ChJob) (failed : List Nat) : State :=
  let r := j.req
  let s1 := (planesOf r).foldl (fun s p =>
    s.modBlk (blkKey (reqDie r) p (r.blocks.getD p 0)) (fun b => { b with
      st := if failed.contains p then .failed else .erased, wp := 0, doneSeq := max b.doneSeq b.intent,
      wear := b.wear + (if b.lastQlc then 80 else 3), erases := b.erases + 1 })) s
  let gone := (planesOf r).map (fun p => blkKey (reqDie r) p (r.blocks.getD p 0))
  s1.modMedia (fun m => { m with cells := m.cells.filter (fun e => !gone.contains (e.1 / (4 * 4096))) })

/-- The code words that a read leaves in its buffer: those named and read correctly (R345). -/
def State.readCells (s : State) (j : ChJob) (e : DieEnd) : List (Option Cw) :=
  let r := j.req
  let p := ((planesOf r).head?).getD 0
  ((List.range 4).filter (fun k => bits r.cw k k = 1)).map (fun k =>
    if bits e.good k k = 1 then tableGet? s.media.cells (cellKey (reqDie r) p (r.blocks.getD p 0) r.page k) else none)

/-- The planes that a failure names in DETAIL [3:0]. -/
def failedPlanes (d : Nat) : List Nat := (List.range 4).filter (fun p => bits d p p = 1)

/-- The effect of an ended operation on its die, its blocks and the counters (R283, R347, R348, R351, R356, R357). -/
def State.opEffect (s : State) (j : ChJob) (e : DieEnd) : State :=
  let c := j.req.channel
  let d := reqDie j.req
  let s1 := s.modDie d (fun x => { x with temp := e.temp })
  let isProg := j.routine = .progSlc || j.routine = .progQlc || j.routine = .fold
  let isErase := j.routine = .erase || j.routine = .eraseVerify
  let isRead := j.routine = .read || j.routine = .readRetry
  let ones := fun n => (failedPlanes n).length
  let s2 :=
    if isRead then
      let a := s1.bump (chnPage c) CHN_CNT_READ
      let b := if j.routine = .readRetry then a.bumpBy (chnPage c) CHN_CNT_RETRY e.attempts else a
      let n := ones e.crcBad
      let b := if n = 0 then b
        else ((b.bumpBy (b.crsPage c) CRS_CNT_CRC_FAIL n).bumpBy (.med j.w) MED_CNT_TAG_CRC n).event (.med j.w) MED_EVT_TAG_CRC
      let b := b.modMedia (fun m => { m with
        stepHist := if j.routine = .readRetry && e.step < 16 then tablePut m.stepHist e.step ((tableGet? m.stepHist e.step).getD 0 + 1)
          else m.stepHist
        bitHist := tablePut m.bitHist (min e.corrected 63) ((tableGet? m.bitHist (min e.corrected 63)).getD 0 + 1) })
      let b := if e.corrected = 0 then b else b.bumpBy (b.crsPage c) CRS_CNT_LDPC_CORR (ones e.good)
      (b.readCells j e).foldl (fun s x => match x with | some x => s.learn c x | none => s) b
    else if isProg then
      match e.result with
      | .done => (s1.bump (chnPage c) CHN_CNT_PROG).progDone j [] e.temp
      | .programFail => s1.progDone j (failedPlanes e.detail) e.temp
      | _ => s1
    else if isErase then
      match e.result with
      | .done => (s1.bump (chnPage c) CHN_CNT_ERASE).eraseDone j []
      | .eraseFail => s1.eraseDone j (failedPlanes e.detail)
      | _ => s1
    else if j.routine = .dieReset then
      (if e.result = .done then (s1.modDie d (fun x => { x with hung := false, fails := 0 })).dieUnknown d
       else s1.modDie d (fun x => { x with hung := true, fails := x.fails + 1 }))
    else if j.routine = .calibrate && e.result = .done then
      let lim := fun n => max (-16) (min 16 (toSigned 8 n))
      s1.modDie d (fun x => { x with
        corrSlc := lim (bits e.detail 7 0), corrQlc := lim (bits e.detail 15 8), calTemp := e.temp, calAt := s.now })
    else s1
  s2

/-- An operation leaves its die: the tokens return, a suspension goes on or the panel grants again, and held requests are taken
(R303, R304, R344, R350). -/
def State.opGone (s : State) (j : ChJob) : State :=
  let s1 := s.modMedia (fun m => { m with jobs := m.jobs.filter (fun x => x.id ≠ j.id) })
  let s2 :=
    if j.st = .inSuspension then
      match s1.media.jobs.find? (fun x => x.st = .suspended && reqDie x.req = reqDie j.req) with
      | some op => if s.now - op.resumed < us 400 then s1.nextRead op else s1
      | none => s1
    else s1
  (s2.grant (s.payer j) (chanPanel j.req.channel)).takeHeld j.req.channel

end Sys2Proof.Machine
end

