-- ==== Sys2Proof/Machine/Media.lean ====
section
/-! DEFINITION. Channel sets (10, 11): the write sequence, the anchor journal, superblocks and write rounds, the fragment map with its
journal, erases, and the capacity of the brick. -/

namespace Sys2Proof.Machine

/-! ### Sets -/

/-- A channel set. -/
def State.set_ (s : State) (i : Nat) : SetSt := if i = 0 then s.media.set0 else s.media.set1

/-- Change a channel set. -/
def State.modSet (s : State) (i : Nat) (f : SetSt → SetSt) : State :=
  s.modMedia (fun m => if i = 0 then { m with set0 := f m.set0 } else { m with set1 := f m.set1 })

/-- The wythe that runs a set: its home wythe, or the covering one (10). -/
def State.setWy (s : State) (i : Nat) : Wy := s.cover.coverer.getD (if i = 0 then .w0 else .w1)

/-- Change a superblock. -/
def State.modSb (s : State) (i sb : Nat) (f : SuperBlk → SuperBlk) : State :=
  s.modSet i (fun x => { x with sbs := updFirst (fun b => b.id = sb) f x.sbs })

/-- A superblock. -/
def State.sb (s : State) (i sb : Nat) : Option SuperBlk := (s.set_ i).sbs.find? (fun b => b.id = sb)

/-- Change a round of a superblock, by its word line. -/
def State.modRound (s : State) (i sb wl : Nat) (f : Round → Round) : State :=
  s.modSb i sb (fun b => { b with rounds := updFirst (fun r => r.wl = wl) f b.rounds })

/-! ### The write sequence and the anchor (R290, R307, R308, R317) -/

/-- Append an anchor journal record under the next write sequence value (R290, R317). -/
def State.anchorRaw (s : State) (i : Nat) (r : AnchorRec) : State :=
  (s.modSet i (fun x => { x with anchor := x.anchor ++ [(x.seqNext, r)], seqNext := x.seqNext + 1 })).bump (.med (s.setWy i))
    MED_CNT_ANCHOR_WRITES

/-- Reserve sequence values in blocks of 2^24, durable before use (R290). -/
def State.reserveSeq (s : State) (i : Nat) : State :=
  let x := s.set_ i
  if x.seqThru ≤ x.seqNext + 1 then
    (s.modSet i (fun x => { x with seqThru := x.seqThru + 2 ^ 24 })).anchorRaw i (.seqReserve (x.seqThru + 2 ^ 24))
  else s

/-- Take the next write sequence value; the value taken is the one before the counter afterwards (R290). -/
def State.takeSeq (s : State) (i : Nat) : State := (s.reserveSeq i).modSet i (fun x => { x with seqNext := x.seqNext + 1 })

/-- A record is a slice of the block table (R317). -/
def isSlice : AnchorRec → Bool
  | .blockTable .. => true
  | _ => false

/-- The states and wear counts of the blocks of a slice of the block table (R317): one of 64 equal runs of the set's blocks (log 247). Blocks
that nothing has touched are free and never worn. -/
def State.tableRows (s : State) (i slice : Nat) : List (Nat × BlkUse × Nat) :=
  (s.media.blocks.filter (fun e => e.1 / 131072 = i * 64 + slice)).map (fun e => (e.1, e.2.use, e.2.wear))

/-- Each 64th record is a slice of the block table, the slices in turn, so that the whole table is renewed every 4,096 records (R317). -/
def State.tableSlice (s : State) (i : Nat) : State :=
  let l := (s.set_ i).anchor.reverse.map (fun e => e.2)
  if (l.takeWhile (fun r => !isSlice r)).length < 63 then s
  else
    let n := (l.filter isSlice).length % 64
    (s.reserveSeq i).anchorRaw i (.blockTable n (s.tableRows i n))

/-- Append an anchor journal record, durable on both copies (R308); an erase record arms or disarms the blocks it names in the
media tiles (R348). The step takes the programs of the anchor as done (log 23). -/
def State.anchorRec (s : State) (i : Nat) (r : AnchorRec) : State :=
  let s0 := (s.tableSlice i).reserveSeq i
  let seq := (s0.set_ i).seqNext
  let s1 := s0.anchorRaw i r
  match r with
  | .eraseIntent die mask blocks _ => s1.armErase { intent := true, seq := seq, crc := 0, die := die, mask := mask, blocks := blocks }
  | .eraseDone die mask blocks _ => s1.armErase { intent := false, seq := seq, crc := 0, die := die, mask := mask, blocks := blocks }
  | _ => s1

/-! ### Blocks and members (R284, R292) -/

/-- The member dies of a die row: neither retired nor on a degraded channel (R284). -/
def State.rowDies (s : State) (i row : Nat) : List Nat :=
  ((List.range 32).map (fun c => (i * 32 + c) * 32 + row)).filter (fun d => !(s.die d).retired && !(s.chan (d / 32)).degraded)

/-- The channels that hold an anchor copy of a set (R307, R308). -/
def State.anchorChans (s : State) (i : Nat) : List Nat :=
  (if (s.set_ i).copyA then [32 * i] else []) ++ (if (s.set_ i).copyB then [32 * i + 16] else []) ++ (s.set_ i).rebuildCh

/-- A block of an anchor: blocks 0 to 15 of each plane of die 0 of an anchor channel (R307). -/
def State.isAnchor (s : State) (die block : Nat) : Bool :=
  die % 32 = 0 && block < 16 && (s.anchorChans (setOf (die / 32))).contains (die / 32)

/-- The dies of a channel, 4 of its 32, that hold its part of the dump reserve: picked one after another from those left (R309, log 22). -/
def reserveDies (c : Nat) : List Nat :=
  ((List.range 4).foldl (fun (a : List Nat × List Nat) k =>
    let d := a.2.getD (Config.dumpPick (c * 4 + k) % a.2.length) 0
    (a.1 ++ [d], a.2.erase d)) ([], List.range 32)).1.map (fun d => c * 32 + d)

/-- The dies of a set's dump reserve. -/
def dumpDies (i : Nat) : List Nat := (List.range 32).flatMap (fun c => reserveDies (i * 32 + c))

/-- The block of the dump reserve on a plane of one of its dies as the boot pointer first lists it, none of them an anchor's (R309, log 22). -/
def reserveBase (die plane : Nat) : Nat := blkKey die plane (16 + Config.dumpPick (256 + die * 4 + plane) % 2032)

/-- The block of the dump reserve on a plane of one of its dies; one that has been retired has another in its place (log 247). -/
def State.reserveBlk (s : State) (die plane : Nat) : Nat :=
  let k := reserveBase die plane
  (((s.set_ (setOf (die / 32))).reserveMoved.filter (fun e => e.1 = k)).getLast?.map (fun e => e.2)).getD k

/-- A block belongs to the dump reserve of its set. -/
def State.isReserve (s : State) (k : Nat) : Bool :=
  (reserveDies (k / 8192 / 32)).contains (k / 8192) && s.reserveBlk (k / 8192) (k / 2048 % 4) = k

/-- A block may join a superblock (R292). -/
def State.openable (s : State) (die plane block : Nat) : Bool :=
  let k := blkKey die plane block
  (s.blk k).use = .free && !s.isAnchor die block && !s.isReserve k

/-- The block with the lowest wear count of a plane, the lower number first (R292). -/
def State.chooseBlock (s : State) (die plane : Nat) : Option Nat :=
  ((List.range 2048).filter (s.openable die plane)).foldl (fun a b => match a with
    | none => some b
    | some x => if (s.blk (blkKey die plane b)).wear < (s.blk (blkKey die plane x)).wear then some b else some x) none

/-- The erased blocks of a die that superblocks may take (R323). -/
def State.freeBlocks (s : State) (die : Nat) : Nat :=
  (List.range 4).foldl (fun a p => a + ((List.range 2048).filter (s.openable die p)).length) 0

/-- The blocks of the four planes of a die for a new superblock. -/
def State.chooseFour (s : State) (die : Nat) : Option (List Nat) :=
  (List.range 4).foldr (fun p a => match a, s.chooseBlock die p with
    | some l, some b => some (b :: l)
    | _, _ => none) (some [])

/-- The blocks of every member die of a row. -/
def State.chooseRow (s : State) : List Nat → Option (List (Nat × List Nat))
  | [] => some []
  | d :: rest =>
    match s.chooseFour d, s.chooseRow rest with
    | some b, some l => some ((d, b) :: l)
    | _, _ => none

/-- A stream writes in SLC mode. -/
def isSlc : Stream → Bool
  | .qlcFrag | .qlcFold => false
  | _ => true

/-- SLC-mode blocks of a set, in all its dies together. -/
def slcUsed (x : SetSt) : Nat := (x.sbs.filter (fun b => !b.qlc)).foldl (fun a b => a + 4 * b.dies.length) 0

/-- The SLC region of a set in blocks: the share of each of its dies (R294). -/
def State.slcLimit (s : State) (i : Nat) : Nat :=
  (s.set_ i).share * 8192 / 1000 * ((List.range 32).foldl (fun a r => a + (s.rowDies i r).length) 0)

/-- Open a superblock on a row: the open record first (R301); none when a member die lacks blocks, the row has fewer than 16
members (R284), or the SLC share is used up (R294, R297). -/
def State.openSb (s : State) (i row : Nat) (st : Stream) : Option State :=
  let dies := s.rowDies i row
  let room := !isSlc st || slcUsed (s.set_ i) + 4 * dies.length ≤ s.slcLimit i
  if dies.length < 16 || !room then none
  else (s.chooseRow dies).map (fun blocks =>
    let x := s.set_ i
    let msn := (tableGet? x.msn row).getD 0
    let wear := blocks.foldl (fun a e => (List.range 4).foldl (fun a p => max a (s.blk (blkKey e.1 p (e.2.getD p 0))).wear) a) 0
    let b : SuperBlk :=
      { id := x.nextSb, row := row, stream := st, qlc := !isSlc st, dies := dies, blocks := blocks, msn0 := msn, nextWl := 0,
        rounds := [], closed := false, short := false, closedAt := 0, closeSeq := 0, openWear := wear, refresh := false,
        failed := [], emptied := [], erasing := [], copying := false, patrolAt := s.now, history := [] }
    let s1 := s.anchorRec i (.open_ x.nextSb row (!isSlc st) dies blocks msn)
    let s2 := s1.modSet i (fun x => { x with sbs := x.sbs ++ [b], nextSb := x.nextSb + 1 })
    blocks.foldl (fun s e => (List.range 4).foldl (fun s p =>
      s.modBlk (blkKey e.1 p (e.2.getD p 0)) (fun k => { k with use := .taken })) s) s2)

/-- The rows a superblock could be opened on: which of them is the set's choice, a free value (log 24). -/
def State.openSome (s : State) (i : Nat) (st : Stream) : Option State :=
  let rows := (List.range 32).filter (fun r => (s.openSb i r st).isSome)
  match rows[s.free % rows.length]? with
  | some r => s.used.openSb i r st
  | none => none

/-! ### Rounds (R285-R289) -/

/-- The stripes of a round (R286). -/
def stripesOf (b : SuperBlk) : Nat := if b.qlc then 16 else 4

/-- The unit positions of one stripe. -/
def stripeUnits (b : SuperBlk) : Nat := (b.dies.length - 1) * 4

/-- The unit positions of a round (R287). -/
def roundUnits (b : SuperBlk) : Nat := stripesOf b * stripeUnits b

/-- The class of a stream's rounds (R304). -/
def streamClass : Stream → Nat
  | .qlcFold => 3
  | _ => 2

/-- Begin the next round of a superblock: its stripes take the next MSNs of the row (R285, R286). -/
def State.beginRound (s : State) (i : Nat) (b : SuperBlk) (cls : Nat) : State :=
  let n := stripesOf b
  let msn := (tableGet? (s.set_ i).msn b.row).getD 0
  let r : Round :=
    { wl := b.nextWl, seq := 0, time := 0, msns := (List.range n).map (fun j => msn + j), cls := cls, firstAt := s.now, units := [],
      st := .filling, wait := [], folded := false, srcs := [] }
  (s.modSet i (fun x => { x with msn := tablePut x.msn b.row (msn + n) })).modSb i b.id (fun b =>
    { b with rounds := b.rounds ++ [r], nextWl := b.nextWl + 1 })

/-- The data of a unit: of the fragment, at the generation named, or of a journal segment; other owners' bytes, and pads, stand
as zeros here. -/
def State.unitData (s : State) (i : Nat) (u : UnitRef) : Bytes :=
  let cut := fun b : Bytes => padTo 4096 (sliceBytes b (u.unit * 4096) 4096)
  if u.typ = 1 then
    match s.stripes.frags.find? (fun f => f.fragId = u.owner) with
    | some f =>
      match f.newGen with
      | some (g, b, _) => if g = u.gen then cut b else cut f.bytes
      | none => cut f.bytes
    | none => zeroBytes 4096
  else if u.typ = 3 then
    match (s.set_ i).segs.find? (fun g => g.num = u.owner) with
    | some g =>
      let recBytes := fun r : JRec => leBytes 8 r.owner ++ leBytes 4 r.gen ++ leBytes 4 r.unit ++ leBytes 4 r.count
        ++ leBytes 1 r.op ++ leBytes 1 r.typ ++ leBytes 1 r.row ++ leBytes 1 (r.pos + r.cw * 64) ++ leBytes 8 r.msn
      let recs := g.recs.flatMap recBytes
      let head := leBytes 4 0x474C4D4A ++ leBytes 2 1 ++ leBytes 1 (b2n g.ckpt + 2 * b2n g.last) ++ leBytes 1 0 ++ leBytes 8 g.num
        ++ leBytes 8 g.cover ++ leBytes 4 g.recs.length ++ leBytes 4 g.units ++ leBytes 8 (if g.ckpt then g.start else 0)
        ++ zeroBytes 20
      cut (head ++ leBytes 4 (crc32c (head ++ recs)).toNat ++ recs)
    | none => zeroBytes 4096
  else zeroBytes 4096

/-- The tag of a unit (R281); its TEMP and CRC are the media tile's (R345). -/
def unitTag (b : SuperBlk) (r : Round) (j : Nat) (erases : Nat) (u : UnitRef) : Bytes :=
  leBytes 8 u.owner ++ leBytes 4 u.unit ++ leBytes 1 u.typ
    ++ leBytes 1 (b2n (!b.qlc) + 2 * b2n r.folded + 4 * b2n u.last) ++ leBytes 2 0 ++ leBytes 8 r.seq ++ leBytes 8 r.time
    ++ leBytes 8 (r.msns.getD j 0) ++ leBytes 4 u.gen ++ leBytes 2 (min erases 0xFFFF) ++ zeroBytes 14 ++ zeroBytes 4

/-- A PAD unit (R282). -/
def padUnit : UnitRef := { typ := 5, owner := 0, gen := 0, unit := 0, last := false }

/-- The code word at a data position of a round (R287). -/
def State.dataCw (s : State) (i : Nat) (b : SuperBlk) (r : Round) (j d k : Nat) : Cw :=
  let u := r.units.getD ((j * (b.dies.length - 1) + d) * 4 + k) padUnit
  let par := r.msns.getD j 0 % b.dies.length
  let die := b.dies.getD (if d < par then d else d + 1) 0
  let blocks := ((b.blocks.find? (fun e => e.1 = die)).map (fun e => e.2)).getD []
  { data := s.unitData i u, tag := unitTag b r j (s.blk (blkKey die (j % 4) (blocks.getD (j % 4) 0))).erases u }

/-- The code word of a member die in a stripe: its data, or the XOR of the data pages at the parity position (R285). -/
def State.memberCw (s : State) (i : Nat) (b : SuperBlk) (r : Round) (j p k : Nat) : Cw :=
  let par := r.msns.getD j 0 % b.dies.length
  if p = par then
    (List.range (b.dies.length - 1)).foldl (fun a d =>
      let x := s.dataCw i b r j d k
      { data := xorBytes a.data x.data, tag := xorBytes a.tag x.tag }) { data := zeroBytes 4096, tag := zeroBytes 64 }
  else s.dataCw i b r j (if p < par then p else p - 1) k

/-- The slots of a member die's program: planes, then pages, then code words (R286, R345). -/
def State.memberSlots (s : State) (i : Nat) (b : SuperBlk) (r : Round) (p : Nat) : List Cw :=
  (List.range 4).flatMap (fun pl =>
    (if b.qlc then List.range 4 else [0]).flatMap (fun g =>
      (List.range 4).map (fun k => s.memberCw i b r (pl + 4 * g) p k)))

/-- The program of a member die for a round. -/
def roundReq (b : SuperBlk) (r : Round) (die : Nat) (slots : List Cw) (sources : List FoldSrc) : ChReq :=
  { flags := 0, cls := r.cls, die := die % 32, channel := die / 32, planes := if b.qlc then 0x1F else 0x0F, cw := 0, retry := 0,
    blocks := ((b.blocks.find? (fun e => e.1 = die)).map (fun e => e.2)).getD [], page := r.wl, erases := 0, offsets := [], res35 := 0,
    buffer := 0, bufOff := 0, cookie := 0, seq := r.seq, time := r.time, slots := slots, sources := sources }

/-- Close a round: it is padded, takes its WRITE_SEQ and WRITE_TIME, and every member die's program is submitted (R288,
R289). -/
def State.closeRound (s : State) (i sb : Nat) : State :=
  match s.sb i sb with
  | none => s
  | some b =>
    match b.rounds.find? (fun r => r.st = .filling) with
    | none => s
    | some r0 =>
      let w := s.setWy i
      let s1 := (s.takeSeq i).bumpBy (.med w) MED_CNT_PAD_PAGES ((roundUnits b - r0.units.length) / 4)
      let r := { r0 with seq := (s1.set_ i).seqNext - 1, time := s.hybrid w, st := RoundSt.programming, wait := b.dies }
      let s2 := s1.modRound i sb r.wl (fun _ => r)
      let rt := if b.qlc then Routine.progQlc else .progSlc
      b.dies.zipIdx.foldl (fun s e =>
        s.submit w rt (roundReq b r e.1 (s.memberSlots i b r e.2) []) (.round i sb r.seq)) s2

/-- The superblocks of a stream that take units: open, with a round filling or a word line left, and no failed block. -/
def openFor (x : SetSt) (st : Stream) : List SuperBlk :=
  x.sbs.filter (fun b => b.stream = st && !b.closed && b.failed = [] && (b.rounds.any (fun r => r.st = .filling) || b.nextWl < 1024))

/-- The superblocks that a set may keep open for a stream: OPEN_QLC for fragments in QLC mode, one otherwise (R293). -/
def State.openMax (s : State) (i : Nat) (st : Stream) : Nat :=
  if st = .qlcFrag then s.afld (.med (s.setWy i)) MED_WRITE_CTRL 27 24 else 1

/-- The superblock that the next unit of a stream goes to: the one with a round filling; else, while fewer are open than R293 allows and one can
be opened, a new one; else one of those open, the set's choice (log 246). -/
def State.takesUnit (s : State) (i : Nat) (st : Stream) : Option (State × SuperBlk) :=
  let l := openFor (s.set_ i) st
  match l.find? (fun b => b.rounds.any (fun r => r.st = .filling)) with
  | some b => some (s, b)
  | none =>
    match if l.length < s.openMax i st then s.openSome i st else none with
    | some s1 => ((openFor (s1.set_ i) st).getLast?).map (fun b => (s1, b))
    | none => (l[s.free % l.length]?).map (fun b => (if l.length < 2 then s else s.used, b))

/-- Put a unit at the next free position of a superblock; with the last one the round closes (R287, R288). -/
def State.fillUnit (s : State) (i cls : Nat) (b : SuperBlk) (u : UnitRef) : State :=
  let s1 := if b.rounds.any (fun r => r.st = .filling) then s else s.beginRound i b cls
  let s2 := s1.modSb i b.id (fun b => { b with
    rounds := updFirst (fun r => r.st = .filling) (fun r => { r with units := r.units ++ [u] }) b.rounds })
  let full := ((s2.sb i b.id).map (fun b => b.rounds.any (fun r => r.st = .filling && roundUnits b ≤ r.units.length))).getD false
  if full then s2.closeRound i b.id else s2

/-- Place one unit at the next free position of a stream (R287); none when no superblock can be opened. -/
def State.placeUnit (s : State) (i : Nat) (st : Stream) (cls : Nat) (u : UnitRef) : Option State :=
  (s.takesUnit i st).map (fun e => e.1.fillUnit i cls e.2 u)

/-- The sets that a wythe drives. -/
def State.setsOf (s : State) (w : Wy) : List Nat := [0, 1].filter (fun i => s.setWy i = w)

/-- An anchor runs on one copy (R308). -/
def anchorSingle (x : SetSt) : Bool :=
  x.lostAt.isSome

/-- MED_STATUS [5:2] follow the sets that the wythe drives (R297, R308, R309). -/
def State.medBits (s : State) (w : Wy) : State :=
  let l := (s.setsOf w).map s.set_
  let p := Page.med w
  let s1 := s.setRfld p MED_STATUS 2 2 (b2n (l ≠ [] && l.all (fun x => x.loaded && x.scanned)))
  let s2 := s1.setRfld p MED_STATUS 3 3 (b2n (l.any (fun x => x.slcLow)))
  let s3 := s2.setRfld p MED_STATUS 4 4 (b2n (l.any anchorSingle))
  s3.setRfld p MED_STATUS 5 5 (b2n (l ≠ [] && l.all (fun x => x.dumpMiB = 8192)))

/-- The SLC region's marks (R295, R297): erased capacity below GROW_MARK and used capacity below SHRINK_MARK, each since when;
below 5% sets EVT_STATUS.SLC_LOW, and fold runs beside write until erased capacity is above 10% again. Erased capacity is the
region less the blocks in SLC mode. -/
def State.slcMarks (s : State) (i : Nat) : State :=
  let x := s.set_ i
  let w := s.setWy i
  let lim := s.slcLimit i
  let used := slcUsed x
  let erased := lim - used
  let since := fun (b : Bool) (o : Option Nat) => if b then some (o.getD s.now) else none
  let low := decide (erased * 100 < 5 * lim)
  let s1 := s.modSet i (fun x => { x with
    lowSince := since (erased * 100 < s.afld (.med w) MED_SLC_CTRL 23 16 * lim) x.lowSince
    idleSince := since (used * 100 < s.afld (.med w) MED_SLC_CTRL 31 24 * lim) x.idleSince
    slcLow := low
    foldFirst := low || (x.foldFirst && erased * 100 ≤ 10 * lim) })
  let s2 := if low && !x.slcLow then s1.event (.med w) MED_EVT_SLC_LOW else s1
  s2.medBits w

/-- Place units in order; what cannot be placed waits for erased blocks (R297). -/
def State.placeUnits (s : State) (i : Nat) (st : Stream) (cls : Nat) : List UnitRef → State
  | [] => s.slcMarks i
  | u :: rest =>
    match s.placeUnit i st cls u with
    | some s1 => s1.placeUnits i st cls rest
    | none => (s.modSet i (fun x => { x with waiting := x.waiting ++ [(st, cls, u :: rest)] })).slcMarks i

/-- The units of an owner's write, the last marked LAST_UNIT (R281). -/
def unitsOf (typ owner gen n : Nat) : List UnitRef :=
  (List.range n).map (fun k => { typ := typ, owner := owner, gen := gen, unit := k, last := k + 1 = n })

/-- Closed QLC rounds still waiting for tokens (R296). -/
def State.qlcWaiting (s : State) (i : Nat) : Nat :=
  ((s.set_ i).sbs.filter (fun b => b.qlc)).foldl (fun a b =>
    a + (b.rounds.filter (fun r => r.st = .programming && s.media.jobs.any (fun j =>
      j.what = .round i b.id r.seq && (j.st = .queued || j.st = .held)))).length) 0

/-- A fragment goes direct to QLC (R296). With no QLC superblock open the spec gives no limit: DESIGN CHOICE, it counts as for one (log
237). -/
def State.directQlc (s : State) (i : Nat) : Bool :=
  let w := s.setWy i
  let open_ := max 1 ((s.set_ i).sbs.filter (fun b => b.stream = .qlcFrag && !b.closed)).length
  s.afld (.med w) MED_WRITE_CTRL 0 0 = 1 && s.qlcWaiting i < s.afld (.med w) MED_WRITE_CTRL 19 16 * open_

/-- Write a fragment generation: its path is chosen on arrival (R296). `holes` are units not written. -/
def State.writeFrag (s : State) (i fragId gen len cls : Nat) (holes : List Nat) : State :=
  let l := (unitsOf 1 fragId gen ((len + 4095) / 4096)).filter (fun u => !holes.contains u.unit)
  if s.directQlc i then s.placeUnits i .qlcFrag cls l
  else (s.bump (.med (s.setWy i)) MED_CNT_DIRECT_DIVERT).placeUnits i .slcFrag cls l

/-! ### The map and its journal (R311-R316) -/

/-- A unit's place in a round. -/
def placeOf (b : SuperBlk) (r : Round) (n : Nat) : Nat × Nat × Nat :=
  let j := n / stripeUnits b
  let d := n % stripeUnits b / 4
  let msn := r.msns.getD j 0
  let par := msn % b.dies.length
  (msn, (if d < par then d else d + 1), n % 4)

/-- An extent follows another without a break. -/
def extends_ (b : SuperBlk) (e : Extent) (u : UnitRef) (msn pos cw : Nat) : Bool :=
  e.typ = u.typ && e.owner = u.owner && e.gen = u.gen && e.unit + e.count = u.unit && e.sb = b.id && !e.hole && e.msn = msn
    && (e.pos = pos && e.cw + e.count = cw)

/-- The extents of a round's units, in order. -/
def roundExtents (b : SuperBlk) (r : Round) : List Extent :=
  ((r.units.zipIdx.filter (fun x => x.1.typ ≠ 5)).foldl (fun acc x =>
    let pl := placeOf b r x.2
    let e : Extent :=
      { typ := x.1.typ, owner := x.1.owner, gen := x.1.gen, unit := x.1.unit, count := 1, hole := false, row := b.row, msn := pl.1,
        pos := pl.2.1, cw := pl.2.2, sb := b.id, seq := r.seq }
    match acc with
    | a :: rest => if extends_ b a x.1 pl.1 pl.2.1 pl.2.2 then { a with count := a.count + 1 } :: rest else e :: acc
    | [] => [e]) []).reverse

/-- Take a range of units of an owner generation out of an extent. -/
def cutExtent (typ owner gen unit count : Nat) (e : Extent) : List Extent :=
  if e.typ ≠ typ || e.owner ≠ owner || e.gen ≠ gen || e.unit + e.count ≤ unit || unit + count ≤ e.unit then [e]
  else
    let left := if e.unit < unit then [{ e with count := unit - e.unit }] else []
    let k := unit + count - e.unit
    let right := if unit + count < e.unit + e.count then
        [{ e with unit := unit + count, count := e.count - k, cw := (e.cw + k) % 4 }] else []
    left ++ right

/-- Put an extent in the map, replacing what it covers (R312). -/
def mapPut (m : List Extent) (e : Extent) : List Extent := m.flatMap (cutExtent e.typ e.owner e.gen e.unit e.count) ++ [e]

/-- The journal record of an extent. -/
def placeRec (now : Nat) (e : Extent) : JRec :=
  { owner := e.owner, gen := e.gen, unit := e.unit, count := e.count, op := if e.hole then 2 else 1, typ := e.typ, row := e.row,
    pos := e.pos, cw := e.cw, msn := e.msn, at_ := now }

/-- Change the map and append the records (R312). -/
def State.mapPlace (s : State) (i : Nat) (l : List Extent) : State :=
  s.modSet i (fun x => { x with map := l.foldl mapPut x.map, unflushed := x.unflushed ++ l.map (placeRec s.now) })

/-- Holes of an owner generation. -/
def State.mapHoles (s : State) (i typ owner gen : Nat) (units : List Nat) : State :=
  s.mapPlace i (units.map (fun u =>
    { typ := typ, owner := owner, gen := gen, unit := u, count := 1, hole := true, row := 0, msn := 0, pos := 0, cw := 0, sb := 0,
      seq := 0 }))

/-- Drop a whole owner generation (R312). -/
def State.mapDrop (s : State) (i typ owner gen : Nat) : State :=
  s.modSet i (fun x => { x with
    map := x.map.filter (fun e => ¬ (e.typ = typ ∧ e.owner = owner ∧ e.gen = gen))
    unflushed := x.unflushed ++ [{ owner := owner, gen := gen, unit := 0, count := 0, op := 3, typ := typ, row := 0, pos := 0, cw := 0,
                                   msn := 0, at_ := s.now }] })

/-- The units of an owner generation that the map names, holes included. -/
def mappedUnits (x : SetSt) (typ owner gen : Nat) : Nat :=
  (x.map.filter (fun e => e.typ = typ && e.owner = owner && e.gen = gen)).foldl (fun a e => a + e.count) 0

/-- The live units of a superblock (R311). -/
def liveUnits (x : SetSt) (sb : Nat) : Nat := (x.map.filter (fun e => !e.hole && e.sb = sb)).foldl (fun a e => a + e.count) 0

/-- COVER_SEQ (R313): below every round whose units are not yet durable. -/
def coverSeq (x : SetSt) : Nat :=
  x.sbs.foldl (fun a b => (b.rounds.filter (fun r => r.st = .programming)).foldl (fun a r => min a (r.seq - 1)) a) (x.seqNext - 1)

/-- Flush the unflushed records as a segment on the map-journal stream (R313, R314). -/
def State.flushMap (s : State) (i : Nat) : State :=
  let x := s.set_ i
  if x.unflushed = [] then s
  else
    let recs := x.unflushed.take 2097152
    let g : Seg :=
      { num := x.nextSeg, recs := recs, units := (64 + 32 * recs.length + 4095) / 4096, cover := coverSeq x, ckpt := false, last := false,
        start := 0, durable := false }
    (s.modSet i (fun x => { x with
      unflushed := x.unflushed.drop 2097152, nextSeg := x.nextSeg + 1, segs := x.segs ++ [g],
      deltaBytes := x.deltaBytes + 4096 * g.units })).placeUnits i .slcJournal 2 (unitsOf 3 g.num 0 g.units)

/-- The set's last record is CLEAN_STOP, with the COVER_SEQ of its final segment (R317, R318). -/
def cleanSet (x : SetSt) : Bool :=
  match x.anchor.getLast? with
  | some (_, .cleanStop c) => c = ((x.segs.getLast?).map (fun g => g.cover)).getD 0
  | _ => false

/-- Segments whose last round is durable (R314), and a checkpoint that they complete (R315). -/
def State.segsDurable (s : State) (i : Nat) : State :=
  let x := s.set_ i
  let done := fun g : Seg => !g.durable && g.units ≤ mappedUnits x 3 g.num 0
  let s1 := s.modSet i (fun x => { x with segs := updAll done (fun g => { g with durable := true }) x.segs })
  let x1 := s1.set_ i
  match x1.segs.find? (fun g => g.ckpt && g.last && g.start ≠ x.ckptStart
      && (x1.segs.filter (fun h => h.ckpt && h.start = g.start)).all (fun h => h.durable)) with
  | none => s1
  | some g =>
    let first := (x.segs.filter (fun h => h.ckpt && h.start = g.start)).foldl (fun a h => min a h.num) g.num
    let s2 := s1.anchorRec i (.checkpoint first g.start g.cover)
    let gone := (x.segs.filter (fun h => h.num < g.start && h.num < first)).map (fun h => h.num)
    (gone.foldl (fun s n => s.mapDrop i 3 n 0) s2).modSet i (fun x => { x with
      segs := x.segs.filter (fun h => !gone.contains h.num), ckptStart := g.start, deltaBytes := 0 })

/-- The owner generation of an extent is still held, so that a copy of its units is mapped (R312, R324). -/
def State.held (s : State) (i : Nat) (e : Extent) : Bool :=
  if e.typ = 1 then s.stripes.frags.any (fun f => f.fragId = e.owner &&
    (f.gen = e.gen || (match f.newGen with | some (g, _, _) => g = e.gen | none => false)))
  else if e.typ = 3 then (s.set_ i).segs.any (fun g => g.num = e.owner)
  else true

/-- The history of a superblock with one more durable round (R331): the entry of each 64 word lines begins with the first of its rounds. -/
def State.history (s : State) (b : SuperBlk) (r : Round) : List HistEntry :=
  let temp := b.dies.foldl (fun a d => a + (s.die d).temp) 0
  let n := r.wl / 64
  if b.history.any (fun e => e.line = n) then
    updAll (fun e => e.line = n) (fun e => { e with
      time := min e.time r.time
      tempSum := e.tempSum + temp
      temps := e.temps + b.dies.length }) b.history
  else b.history ++ [{ line := n, time := r.time, ages := b.dies.map (fun d => (s.die d).age), tempSum := temp, temps := b.dies.length,
                       wear := b.openWear }]

/-- A round is durable: its units are mapped (R289, R300, R311) and its counters rise; a fold empties its source stripes. -/
def State.roundDurable (s : State) (i : Nat) (b : SuperBlk) (r : Round) : State :=
  let w := s.setWy i
  let c := if r.folded then MED_CNT_FOLD_ROUNDS else if b.qlc then MED_CNT_QLC_ROUNDS else MED_CNT_SLC_ROUNDS
  let s1 := (s.modRound i b.id r.wl (fun r => { r with st := .durable, wait := [] })).bump (.med w) c
  let live := roundExtents b r
  let s2 := if r.folded then
      s1.mapPlace i (live.filter (fun e => (s1.set_ i).map.any (fun m => m.typ = e.typ && m.owner = e.owner && m.gen = e.gen
        && m.unit ≤ e.unit && e.unit < m.unit + m.count && !m.hole && m.seq < e.seq)))
    else s1.mapPlace i (live.filter (s1.held i))
  let s3 := r.srcs.foldl (fun s x => s.modSb i x.1 (fun b => { b with emptied := b.emptied ++ [(x.2 / 16, x.2 % 16)] })) s2
  (s3.modSb i b.id (fun b => { b with history := s.history b r })).segsDurable i

/-- Close a superblock whose last round is durable, or SHORT (R293, R301). -/
def State.closeSb (s : State) (i sb : Nat) (short : Bool) : State :=
  let s1 := s.anchorRec i (.close sb short (((s.sb i sb).map (fun b => b.nextWl)).getD 0) (((s.sb i sb).map (fun b => b.history)).getD []))
  s1.modSb i sb (fun b => { b with closed := true, short := short, closedAt := s.now, closeSeq := (s1.set_ i).seqNext })

/-- Superblocks whose 1,024 word lines are all durable close FULL. -/
def State.closeFull (s : State) (i : Nat) : State :=
  ((s.set_ i).sbs.filter (fun b => !b.closed && 1024 ≤ b.nextWl && b.rounds.all (fun r => r.st = .durable))).foldl
    (fun s b => s.closeSb i b.id false) s

/-! ### Erases and retirement (R301, R325-R327) -/

/-- Retire a block (R325-R327): every cause but WORN uses up a spare of its die, and SPARE_LOW is raised at 32, 16
and 8 left (R471). -/
def State.retireBlock (s : State) (die plane block cause : Nat) : State :=
  let s1 := s.anchorRec (setOf (die / 32)) (.retireBlock die plane block cause)
  let s2 := s1.modBlk (blkKey die plane block) (fun b => { b with use := .retired cause })
  if cause = 4 then s2
  else
    let s3 := s2.modDie die (fun d => { d with spares := d.spares - 1 })
    let n := (s3.die die).spares
    if n = 32 || n = 16 || n = 8 then
      let few := s3.media.dies.foldl (fun a e => if e.2.spares < (s3.die a).spares then e.1 else a) die
      s3.earlyWarn 1 1 few (leBytes 4 few)
    else s3

/-- Two channels can take the erase records of a set (R308). -/
def State.twoAnchors (s : State) (i : Nat) : Bool := decide (2 ≤ (s.anchorChans i).length)

/-- An erase request. -/
def eraseReq (rt_verify : Bool) (die : Nat) (mask : Nat) (blocks : List Nat) (seq : Nat) : Routine × ChReq :=
  (if rt_verify then .eraseVerify else .erase,
   { flags := 0, cls := 4, die := die % 32, channel := die / 32, planes := mask, cw := 0, retry := 0, blocks := blocks, page := 0,
     erases := 0, offsets := [], res35 := 0, buffer := 0, bufOff := 0, cookie := 0, seq := seq, time := 0, slots := [], sources := [] })

/-- The cause with which a block is retired in place of being erased: PROGRAM_FAIL, WORN, or READ_WEAK after two die-parity repairs
within 30 days (R325-R327). -/
def retireCause (now : Nat) (b : Blk) : Option Nat :=
  if b.st = .failed then some 2
  else if 120000 ≤ b.wear then some 4
  else if 2 ≤ (b.weak.filter (fun t => now < t + sec 2592000)).length then some 3
  else none

/-- Erase one member die of an emptied superblock: ERASE_INTENT durable, then CH_ERASE; blocks to be retired are left out. -/
def State.eraseDie (s : State) (i : Nat) (b : SuperBlk) (cause die : Nat) : State :=
  let blocks := ((b.blocks.find? (fun e => e.1 = die)).map (fun e => e.2)).getD []
  let bad := (List.range 4).filterMap (fun p => (retireCause s.now (s.blk (blkKey die p (blocks.getD p 0)))).map (fun c => (p, c)))
  let s1 := bad.foldl (fun s e => s.retireBlock die e.1 (blocks.getD e.1 0) e.2) s
  let mask := maskOf ((List.range 4).filter (fun p => !bad.any (fun e => e.1 = p)))
  if mask = 0 then s1.modSb i b.id (fun b => { b with erasing := b.erasing.filter (· ≠ die) })
  else
    let s2 := s1.anchorRec i (.eraseIntent die mask blocks cause)
    let s3 := (List.range 4).foldl (fun s p => if bits mask p p = 1 then
      s.modBlk (blkKey die p (blocks.getD p 0)) (fun k => { k with use := .intent }) else s) s2
    let q := eraseReq false die mask blocks ((s2.set_ i).seqNext - 1)
    s3.submit (s.setWy i) q.1 q.2 (.erase i b.id cause)

/-- Erase a superblock that holds no live unit (R324); on one anchor copy without a second channel no erase starts (R308). -/
def State.eraseSb (s : State) (i : Nat) (b : SuperBlk) (cause : Nat) : State :=
  if !s.twoAnchors i then s.recordOpen (srcOf (s.setWy i)) 2 (.med (s.setWy i)) (leBytes 4 i)
  else
    let s1 := s.modSb i b.id (fun b => { b with erasing := b.dies })
    (b.dies.foldl (fun s d => s.eraseDie i b cause d) s1).modSet i (fun x => { x with
      sbs := x.sbs.filter (fun y => y.id ≠ b.id || y.erasing ≠ []) })

/-! ### Capacity (R268, R336) -/

/-- The blocks of a die that count: neither retired, nor anchor, nor dump reserve. -/
def State.goodBlocks (s : State) (die : Nat) : List Nat :=
  ((List.range 8192).map (fun n => die * 8192 + n)).filter (fun k =>
    !(match (s.blk k).use with | .retired _ => true | _ => false) && !s.isAnchor die (k % 2048) && !s.isReserve k)

/-- The usable capacity of the brick in bytes (R336). -/
def State.usable (s : State) : Nat :=
  let slc := fun i => s.afld (.med (s.setWy i)) MED_SLC_CTRL 7 0 * 8192 / 1000
  let row := fun i r =>
    let d := s.rowDies i r
    d.foldl (fun a x => a + ((s.goodBlocks x).length - slc i)) 0 * 67108864 * (d.length - 1) / d.length
  ((List.range 32).foldl (fun a r => a + row 0 r + row 1 r) 0) * 93 / 100

/-- The fragment bytes: stored lengths of every generation held, holes excluded (R268). -/
def State.fragBytesHeld (s : State) : Nat :=
  s.stripes.frags.foldl (fun a f => a + roundUp f.bytes.length 4096 - 4096 * f.holes.length
    + (match f.newGen with | some (_, b, h) => roundUp b.length 4096 - 4096 * h.length | none => 0)) 0

/-- The delete reserve: 0.5% of usable capacity (R268). -/
def State.deleteReserve (s : State) : Nat := s.usable / 200

/-- The free capacity (R268). -/
def State.freeCapacity (s : State) : Nat := s.usable - s.fragBytesHeld - s.deleteReserve

/-! ### Equivalent age (R330) -/

/-- The greatest number of at most `n` bits over `a` whose 100th power is at most `x`. -/
def root100 (x : Nat) : Nat → Nat → Nat
  | 0, a => a
  | n + 1, a => if (a + 2 ^ n) ^ 100 ≤ x then root100 x n (a + 2 ^ n) else root100 x n a

/-- The factor f of R330 times an amount, rounded down: f = 1 to 40 °C, 2^((T - 40) / 10) above. Temperatures are in 0.1 °C. -/
def ageGain (temp : Int) (n : Nat) : Nat :=
  if temp ≤ 400 then n
  else
    let k := (temp - 400).toNat
    root100 (n ^ 100 * 2 ^ k) (n.log2 + k / 100 + 2) 0

/-- One minute of a die: (1 / 60) f hours, in units of 2^-32 hours. -/
def ageMinute (temp : Int) : Nat := ageGain temp (2 ^ 32) / 60

/-! ### Wear (R338, R469, R471) -/

/-- The blocks counted in R336 over both sets: those of present row members. -/
def State.countedBlocks (s : State) : List Nat :=
  (List.range 32).flatMap (fun r => (s.rowDies 0 r ++ s.rowDies 1 r).flatMap (fun d => s.goodBlocks d))

/-- Wear used in units of 0.01%: the mean block wear over 120,000 units (R469). -/
def State.wearUsed (s : State) : Nat :=
  let l := s.countedBlocks
  l.foldl (fun a k => a + (s.blk k).wear) 0 * 10000 / (l.length * 120000)

/-- After an erase: a brick at 95% of rated wear is worn for good (R338), and WEAR_HIGH is raised at 80% and each further 5% (R471). -/
def State.wornNow (s : State) (j : ChJob) : State :=
  if j.routine ≠ .erase && j.routine ≠ .eraseVerify then s
  else
    let u := s.wearUsed
    let steps := if u < 8000 then 0 else (u - 8000) / 500 + 1
    let s1 := if 9500 ≤ u then s.modMedia (fun m => { m with worn := true }) else s
    if steps ≤ s.health.wearWarn then s1
    else { s1 with health := { s1.health with wearWarn := steps } }.earlyWarn 2 1 u (leBytes 2 u)

end Sys2Proof.Machine
end

