-- ==== Sys2Proof/Machine/Keys.lean ====
section
/-! DEFINITION. The key hierarchy, key-slot records and IV reservation records (06, R171-R183): the KEK's derivation, the wraps, the
records' bytes, and the anchor's key area that keeps them (R307). -/

namespace Sys2Proof.Machine

/-! ### Slots -/

/-- The key slot of a keyspace and version. -/
def slotOf (k : Cip) (ks : BitVec 32) (ver : Nat) : Option KeySlot :=
  k.slots.find? (fun x => x.keyspace = ks && x.ver = ver)

/-- Change a key slot. -/
def State.modSlot (s : State) (w : Wy) (ks : BitVec 32) (ver : Nat) (f : KeySlot → KeySlot) : State :=
  s.modCip w (fun k => { k with slots := updFirst (fun x => x.keyspace = ks && x.ver = ver) f k.slots })

/-- The entry of the key cache for a version. -/
def cachedKey (k : Cip) (ks : BitVec 32) (ver : Nat) : Option CachedKey := k.cache.find? (fun e => e.keyspace = ks && e.ver = ver)

/-! ### Keys (R178, R179) -/

/-- The device root key, 256 bits (R178). -/
def rootKey : Bytes := (List.range 32).map Config.rootByte

/-- The wythe KEK: derived from the device root key by the label, and by the wythe number and key-store generation, whose encoding the spec
leaves open: 4 bytes each, big-endian (R178, log 208). -/
def kekOf (w : Wy) (gen : Nat) : Bytes := kdfCounter rootKey (ascii "GL410 wythe KEK") (beBytes 4 w.num ++ beBytes 4 gen)

/-- The KEK that a slot's record is wrapped under: the one in the key register, or during a rekey the other (R437). -/
def kekFor (w : Wy) (k : Cip) (x : KeySlot) : Bytes := if x.kekGen = k.kekGen then k.kek else kekOf w x.kekGen

/-- The wall key in a key-store image, wrapped there under the device root key (R178). -/
def wallKeyOf (k : KsImage) : Option Bytes := k.wallKey.bind (keyUnwrap rootKey)

/-- The number of a slot's state in its record (R179). -/
def slotNum : SlotSt → Nat
  | .current => 1
  | .decryptOnly => 2
  | .retired => 3

/-- A record with its CRC-32C over what stands before it. -/
def closeCrc (b : Bytes) : Bytes := b ++ leBytes 4 (crc32c b).toNat

/-- A key-slot record, 64 bytes (R179). -/
def slotRecord (x : KeySlot) : Bytes :=
  closeCrc (leBytes 4 x.keyspace.toNat ++ leBytes 2 x.ver ++ leBytes 1 (slotNum x.st) ++ leBytes 1 1 ++ padTo 40 x.wrapped
    ++ leBytes 8 x.installed ++ leBytes 4 x.kekGen)

/-- An IV reservation record, 32 bytes (R174). -/
def resvRecord (w : Wy) (x : KeySlot) (domain : BitVec 16) (seq : Nat) : Bytes :=
  closeCrc (leBytes 4 x.keyspace.toNat ++ leBytes 2 x.ver ++ leBytes 1 w.num ++ leBytes 1 0 ++ leBytes 8 x.thru ++ leBytes 2 domain.toNat
    ++ leBytes 2 0 ++ leBytes 8 seq)

/-- The slot that a key-slot record and its newest reservation record give at a start: its counter goes on from RESERVED_THRU
(R175). A record whose CRC does not hold gives none. -/
def slotOfRecord (resv : Option Bytes) (b : Bytes) : Option KeySlot :=
  if closeCrc (b.take 60) ≠ b then none
  else
    let thru := match resv with
      | some r => if closeCrc (r.take 28) = r then ofLe (sliceBytes r 8 8) else 0
      | none => 0
    let n := ofLe (sliceBytes b 6 1)
    some
      { keyspace := BitVec.ofNat 32 (ofLe (sliceBytes b 0 4)), ver := ofLe (sliceBytes b 4 2),
        st := if n = 1 then .current else if n = 2 then .decryptOnly else .retired, wrapped := if n = 3 then [] else sliceBytes b 8 40,
        installed := ofLe (sliceBytes b 48 8), kekGen := ofLe (sliceBytes b 56 4), next := thru, thru := thru, resvAt := none,
        locked := false }

/-! ### The anchor's key area (R174, R179, R290, R307) -/

/-- Put a record of a keyspace and version into a part of the key area in place of the last one. -/
def putKeyRec (l : List (BitVec 32 × Nat × Bytes)) (ks : BitVec 32) (ver : Nat) (b : Bytes) : List (BitVec 32 × Nat × Bytes) :=
  l.filter (fun e => ¬ (e.1 = ks ∧ e.2.1 = ver)) ++ [(ks, ver, b)]

/-- The record of a keyspace and version in a part of the key area. -/
def keyRec (l : List (BitVec 32 × Nat × Bytes)) (ks : BitVec 32) (ver : Nat) : Option Bytes :=
  (l.find? (fun e => e.1 = ks && e.2.1 = ver)).map (fun e => e.2.2)

/-- One write of the key area of a wythe's home set, by chisel requests, takes a write sequence value (R290). -/
def State.keyWrite (s : State) (w : Wy) (f : SetSt → SetSt) : State :=
  ((s.takeSeq w.num).modSet w.num f).bump (.med (s.setWy w.num)) MED_CNT_ANCHOR_WRITES

/-- Write the key-slot records of some slots, in one anchor write; they are durable at once (R180, log 23). -/
def State.keepSlots (s : State) (w : Wy) (l : List KeySlot) : State :=
  s.keyWrite w (fun x => { x with keySlots := l.foldl (fun t y => putKeyRec t y.keyspace y.ver (slotRecord y)) x.keySlots })

/-- The slots of a wythe that its anchor's key area gives at a start. -/
def State.slotsKept (s : State) (w : Wy) : List KeySlot :=
  let x := s.set_ w.num
  x.keySlots.filterMap (fun e => slotOfRecord (keyRec x.keyResvs e.1 e.2.1) e.2.2)

/-! ### Reservations (R174, R175, R177) -/

/-- 2^20: the values of one reservation block (R174). -/
def resvBlock : Nat := 2 ^ 20

/-- 2^64 - 2^20: the first value never handed out (R177). -/
def counterEnd : Nat := 2 ^ 64 - 2 ^ 20

/-- The reservation engine asks for the next block of a slot once half of the current one is handed out (R174); the block at the counter's
end is never reserved (R177). -/
def State.requestResv (s : State) (w : Wy) (ks : BitVec 32) (ver : Nat) : State :=
  s.modSlot w ks ver (fun x =>
    if x.resvAt.isNone && x.thru ≤ x.next + resvBlock / 2 && x.thru < counterEnd then { x with resvAt := some s.now } else x)

/-- After a restart the engine asks for the block that begins at RESERVED_THRU of every CURRENT slot (R173, R175). -/
def State.requestAll (s : State) (w : Wy) : State :=
  ((s.wy w).cip.slots.filter (fun x => x.st = .current)).foldl (fun s x => s.requestResv w x.keyspace x.ver) s

/-- A slot whose next value would be 2^64 - 2^20 is LOCKED, with its event (R177). -/
def State.lockSlot (s : State) (w : Wy) (x : KeySlot) : State :=
  if x.next < counterEnd || x.locked then s
  else
    let s1 := s.modSlot w x.keyspace x.ver (fun y => { y with locked := true })
    (s1.event (.cip w) CIP_EVT_CTR_EXHAUSTED).recordOpen (srcOf w) 2 (.cip w)
      (leBytes 4 x.keyspace.toNat ++ leBytes 2 x.ver)

/-- The IV of a counter value (R171). -/
def ivOf (domain : BitVec 16) (w : Wy) (tile n : Nat) : Bytes :=
  beBytes 2 domain.toNat ++ beBytes 2 (w.num * 32768 + tile * 256) ++ beBytes 8 n

/-- An unwrap whose integrity check fails gives no key (R179). -/
def State.unwrapFails (s : State) (w : Wy) : State := (s.bump (.cip w) CIP_CNT_UNWRAP_FAIL).event (.cip w) CIP_EVT_UNWRAP_FAIL

/-- The key of a version in plaintext, for work that its row runs whole (log 207): from the cache, or unwrapped from its slot record. -/
def State.keyOf (s : State) (w : Wy) (ks : BitVec 32) (ver : Nat) : Option Bytes :=
  let k := (s.wy w).cip
  match cachedKey k ks ver with
  | some e => some e.key
  | none => (slotOf k ks ver).bind (fun x => if x.st = .retired then none else keyUnwrap (kekFor w k x) x.wrapped)

end Sys2Proof.Machine
end

