-- ==== Sys2Proof/Machine/Grant.lean ====
section
/-! DEFINITION. The bytes of JOIN_REQUEST and JOIN_GRANT, and how the wall key is wrapped, signed and opened between the leader and a
joining brick (R194, R214). -/

namespace Sys2Proof.Machine

/-- The device's private key (R194). -/
def deviceKey : Nat := scalarOf ((List.range 48).map Config.deviceByte)

/-- The device certificate, 1 to 2,048 bytes (R214). -/
def deviceCert : Bytes := (List.range (1 + Config.certSize % 2048)).map Config.certByte

/-- The wrap key that the shared secret of two ephemeral keys gives (R194). -/
def joinWrapKey (wallId : Nat) (secret : Bytes) : Bytes := wideHkdf (beBytes 8 wallId) secret (ascii "GL410 wall key wrap")

/-- A signed grant: the wall key wrapped for the joining brick, with the leader's ephemeral key `e` and the nonce `k` of its signature
(R194). -/
def signedGrant (wallId : Nat) (wallKey secret : Bytes) (e d k : Nat) (cert : Bytes) (r : JoinReq) (g : JoinGrant) : JoinGrant :=
  let g1 := { g with ephemeral := publicKey e, wrappedKey := keyWrap (joinWrapKey wallId secret) wallKey, cert := cert }
  { g1 with signature := ecSign d k (grantBody g1 ++ joinReqBytes r) }

/-- The wall key that a grant carries for this brick: the grant's signature holds under the key of the leader's certificate, and the key it
wraps opens (R194). -/
def openGrant (e : Nat) (r : JoinReq) (certKey : Bytes) (g : JoinGrant) : Option Bytes :=
  if ecVerify certKey (grantBody g ++ joinReqBytes r) g.signature then
    (sharedSecret e g.ephemeral).bind (fun x => keyUnwrap (joinWrapKey r.wallId x) g.wrappedKey)
  else none

end Sys2Proof.Machine
end

