-- ==== Sys2Proof/Machine/Inflate.lean ====
section
/-! DEFINITION. The raw DEFLATE stream of R142, as the decompression unit reads it (R144). PRESUMED, log 193: RFC 1951. -/

namespace Sys2Proof.Machine

/-- The bits of bytes in the order in which they are read forwards: each byte from its least significant bit. -/
def forwardBits (b : Bytes) : List Bool := b.flatMap (fun x => (List.range 8).map (fun i => x.getLsbD i))

/-- The next n bits as a number, the first the least significant, and the bits that follow; none where fewer are left. -/
def readLow : Nat → List Bool → Option (Nat × List Bool)
  | 0, l => some (0, l)
  | _ + 1, [] => none
  | n + 1, b :: rest => (readLow n rest).map (fun x => (b2n b + 2 * x.1, x.2))

/-- A prefix code: how many symbols have each length from 1 on, and the symbols by length and then by number. -/
structure PrefixCode where
  counts  : List Nat
  symbols : List Nat
  deriving DecidableEq, Repr

/-- The canonical code of a list of lengths, 0 for a symbol without one; none where the lengths ask for more codes than there are. -/
def prefixCode (lens : List Nat) : Option PrefixCode :=
  let count := fun n => (lens.filter (fun l => l = n)).length
  let room := (List.range 15).foldl (fun a i => a + count (i + 1) * 2 ^ (14 - i)) 0
  if 2 ^ 15 < room then none
  else some
    { counts := (List.range 15).map (fun i => count (i + 1))
      symbols := (List.range 15).flatMap (fun i => (lens.zipIdx.filter (fun e => e.1 = i + 1)).map (fun e => e.2)) }

/-- The symbol whose code comes next: `code` the bits so far, `first` the first code of this length and `at_` its place in the list. -/
def nextSymbol : List Nat → List Nat → Nat → Nat → Nat → List Bool → Option (Nat × List Bool)
  | [], _, _, _, _, _ => none
  | _ :: _, _, _, _, _, [] => none
  | n :: counts, symbols, code, first, at_, b :: rest =>
    let code := 2 * code + b2n b
    if code < first + n then (symbols[at_ + (code - first)]?).map (fun s => (s, rest))
    else nextSymbol counts symbols code (2 * (first + n)) (at_ + n) rest

/-- The next symbol of a code. -/
def readSymbol (c : PrefixCode) (l : List Bool) : Option (Nat × List Bool) := nextSymbol c.counts c.symbols 0 0 0 l

/-- The bytes produced so far, newest first, after n more have been copied from a distance. -/
def copyBack : Nat → Nat → Bytes → Bytes
  | 0, _, out => out
  | n + 1, d, out => copyBack n d (out.getD (d - 1) 0 :: out)

/-- The copy length of a symbol from 257 on: its base and the extra bits. -/
def copyLength (s : Nat) : Nat × Nat :=
  let i := s - 257
  if i < 8 then (3 + i, 0) else if i = 28 then (258, 0) else (3 + (4 + i % 4) * 2 ^ ((i - 4) / 4), (i - 4) / 4)

/-- The copy distance of a symbol: its base and the extra bits. -/
def copyDistance (s : Nat) : Nat × Nat := if s < 4 then (s + 1, 0) else (1 + (2 + s % 2) * 2 ^ ((s - 2) / 2), (s - 2) / 2)

/-- The symbols of a block up to its end, with the two codes; at most as many as the first argument. -/
def inflateSymbols : Nat → PrefixCode → PrefixCode → List Bool → Bytes → Option (List Bool × Bytes)
  | 0, _, _, _, _ => none
  | n + 1, lit, dist, l, out => do
    let (s, l) ← readSymbol lit l
    if s < 256 then inflateSymbols n lit dist l (BitVec.ofNat 8 s :: out)
    else if s = 256 then some (l, out)
    else if 285 < s then none
    else
      let (x, l) ← readLow (copyLength s).2 l
      let (d, l) ← readSymbol dist l
      let (y, l) ← readLow (copyDistance d).2 l
      let far := (copyDistance d).1 + y
      if 29 < d || out.length < far then none
      else inflateSymbols n lit dist l (copyBack ((copyLength s).1 + x) far out)

/-- The codes of a block of fixed codes. -/
def fixedLengths : List Nat := List.replicate 144 8 ++ List.replicate 112 9 ++ List.replicate 24 7 ++ List.replicate 8 8

/-- The order in which the lengths of the code for lengths stand. -/
def lengthOrder : List Nat := [16, 17, 18] ++ [0, 8, 7, 9, 6, 10, 5, 11, 4] ++ [12, 3, 13, 2, 14, 1, 15]

/-- The code lengths that a block describes, until there are `want`; oldest last. -/
def readLengths : Nat → PrefixCode → Nat → List Bool → List Nat → Option (List Nat × List Bool)
  | 0, _, _, _, _ => none
  | n + 1, c, want, l, got =>
    if want ≤ got.length then (if got.length = want then some (got, l) else none)
    else do
      let (s, l) ← readSymbol c l
      let again := fun (x extra base : Nat) => do
        let (k, l) ← readLow extra l
        readLengths n c want l (List.replicate (base + k) x ++ got)
      if s < 16 then readLengths n c want l (s :: got)
      else if s = 16 then (do let x ← got.head?; again x 2 3)
      else if s = 17 then again 0 3 3
      else again 0 7 11

/-- The codes that a block describes (BTYPE 2). -/
def describedCodes (l : List Bool) : Option (PrefixCode × PrefixCode × List Bool) := do
  let (a, l) ← readLow 5 l
  let (b, l) ← readLow 5 l
  let (c, l) ← readLow 4 l
  let (lens, l) ← (List.range (c + 4)).foldlM (fun (x : List Nat × List Bool) _ => (readLow 3 x.2).map (fun y => (x.1 ++ [y.1], y.2))) ([], l)
  let code ← prefixCode ((List.range 19).map (fun s => lens.getD (lengthOrder.idxOf s) 0))
  let (got, l) ← readLengths (a + b + 259) code (a + b + 258) l []
  let all := got.reverse
  let lit ← prefixCode (all.take (a + 257))
  let dist ← prefixCode (all.drop (a + 257))
  some (lit, dist, l)

/-- A stored block: to the next byte, its length and the complement, then the bytes. -/
def storedBlock (l : List Bool) (out : Bytes) : Option (List Bool × Bytes) := do
  let l := l.drop (l.length % 8)
  let (n, l) ← readLow 16 l
  let (c, l) ← readLow 16 l
  if n + c ≠ 65535 then none
  else
    (List.range n).foldlM (fun (x : List Bool × Bytes) _ => (readLow 8 x.1).map (fun y => (y.2, BitVec.ofNat 8 y.1 :: x.2))) (l, out)

/-- The blocks of a stream up to the last, at most as many as the first argument. -/
def inflateBlocks : Nat → List Bool → Bytes → Option (List Bool × Bytes)
  | 0, _, _ => none
  | n + 1, l, out => do
    let (last, l) ← readLow 1 l
    let (kind, l) ← readLow 2 l
    let (l, out) ←
      if kind = 0 then storedBlock l out
      else if kind = 1 then do
        let lit ← prefixCode fixedLengths
        let dist ← prefixCode (List.replicate 32 5)
        inflateSymbols l.length lit dist l out
      else if kind = 2 then do
        let (lit, dist, l) ← describedCodes l
        inflateSymbols l.length lit dist l out
      else none
    if last = 1 then some (l, out) else inflateBlocks n l out

/-- The plaintext of a raw DEFLATE stream; none where it does not decode or does not end with its bytes. -/
def inflate (b : Bytes) : Option Bytes := do
  let l := forwardBits b
  let (rest, out) ← inflateBlocks (l.length + 1) l []
  if rest.length < 8 then some out.reverse else none

end Sys2Proof.Machine
end

