-- ==== Sys2Proof/Machine/Gate.lean ====
section
/-! DEFINITION. Which register accesses arrive: BAR0, the control tiles and the service port (R399-R402, R407, R408). -/

namespace Sys2Proof.Machine

/-- The pages of the Plinth (R400). -/
def isPlinthPage : Page → Bool
  | .plt | .pfl | .evr | .fpn | .svc => true
  | _ => false

/-- The source of an access as ERR_INFO1 gives it (R407). -/
def srcNum : AccSrc → Nat
  | .bar0 _ => 0
  | .tile _ => 1
  | .plinth => 2

/-- GLB_WYTHE.PLINTH_OK. -/
def State.plinthOk (s : State) (w : Wy) : Bool := s.rfld (.glb w) GLB_WYTHE 4 4 = 1

/-- Record a refused access: offset, kind, event and the kind's counter (R401, R417). -/
def State.accessErr (s : State) (w : Wy) (kind off : Nat) (cnt : Option Nat) : State :=
  let s1 := (s.setReg (.glb w) GLB_ACCESS_ERR (word (off % 2 ^ 27 + kind * 2 ^ 28))).event (.glb w) GLB_EVT_ACCESS_ERR
  match cnt with
  | some c => s1.bump (.glb w) c
  | none => s1

/-- The BAR0 offset at which a wythe's endpoint shows a page (R400). -/
def barOffset (w : Wy) (p : Page) (off : Nat) : Nat := pageBase p + off + (if pageWy p = some w.peer then 0x1000000 else 0)

/-- A write to a register of a page, where it arrives (R401, R402, R408): none over a link that is down; the peer's pages are read only;
the Plinth's need PLINTH_OK; PAGE_LOCK leaves BAR0 only EVT_STATUS. Control tiles write the pages of their own wythe and the brick's. -/
def State.gated (s : State) (src : AccSrc) (p : Page) (off : Nat) (f : State → State) : State :=
  match src with
  | .bar0 w =>
    if !(s.wy w).pcie.linkUp then s
    else if pageWy p = some w.peer then s.accessErr w 2 (barOffset w p off) (some GLB_CNT_PEER_WRITE)
    else if isPlinthPage p && !s.plinthOk w then s.accessErr w 5 (barOffset w p off) none
    else if s.rfld p PAGE_LOCK 0 0 = 1 && off ≠ EVT_STATUS then s.pageError p 0x83 off 0
    else f s
  | .tile w =>
    if !s.running w || pageWy p = some w.peer || (isPlinthPage p && !s.plinthOk w) then s else f s
  | .plinth => if s.plinth.up then f s else s

/-- A read of a register with value `v` and an effect (R401): the peer's registers are read without it, and read all ones while the peer
cannot be reached, as the Plinth's do without PLINTH_OK. -/
def State.readGate (s : State) (src : AccSrc) (p : Page) (off v : Nat) (f : State → State) : State :=
  match src with
  | .bar0 w =>
    let lost := State.emit (o := .readData src 0xFFFFFFFF)
    if !(s.wy w).pcie.linkUp then s
    else if pageWy p = some w.peer then
      if s.running w.peer && s.cover.tieUp then (s.bump (.tie w.peer) TIE_CNT_PEER_READ).emit (.readData src v)
      else lost (s.accessErr w 3 (barOffset w p off) (some GLB_CNT_PEER_UNREACH))
    else if isPlinthPage p && !s.plinthOk w then lost (s.accessErr w 5 (barOffset w p off) none)
    else (f s).emit (.readData src v)
  | .tile w =>
    if !s.running w || pageWy p = some w.peer || (isPlinthPage p && !s.plinthOk w) then s else (f s).emit (.readData src v)
  | .plinth => if s.plinth.up then (f s).emit (.readData src v) else s

end Sys2Proof.Machine
end

