-- ==== Sys2Proof/Machine/Buffers.lean ====
section
/-! DEFINITION. The buffer pool manager (13): allocations in port order with fallback, reserve and waiting; freeing, sharing, releasing
and transferring handles. -/

namespace Sys2Proof.Machine

/-- Change the buffer pool manager of a wythe. -/
def State.modBpm (s : State) (w : Wy) (f : Bpm → Bpm) : State := s.modWy w (fun y => { y with bpm := f y.bpm })

/-- A pool. -/
def State.pool (s : State) (w : Wy) (n : Nat) : Pool := (s.wy w).bpm.pools.getD n (.reset 0)

/-- Change a pool. -/
def State.modPool (s : State) (w : Wy) (n : Nat) (f : Pool → Pool) : State :=
  s.modBpm w (fun b => { b with pools := b.pools.modify n f })

/-- A buffer never allocated: FREE at generation 1 (R361). -/
def Buf.reset : Buf := { gen := 1, st := 0, owner := 0, count := 0 }

/-- A buffer of a pool. -/
def bufOf (p : Pool) (i : Nat) : Buf := (tableGet? p.bufs i).getD .reset

/-- Change a buffer. -/
def State.modBuf (s : State) (w : Wy) (n i : Nat) (f : Buf → Buf) : State :=
  s.modPool w n (fun p => { p with bufs := tablePut p.bufs i (f (bufOf p i)) })

/-- The handle of a buffer (R361). -/
def handleOf (n gen i : Nat) : Nat := n * 2 ^ 29 + gen * 2 ^ 24 + i

/-- The buffer size of a pool (R358). -/
def bufSize (n : Nat) : Nat := [256, 2048, 16384, 65536, 262144, 1048576].getD n 1048576

/-- The smallest pool that holds a size, if the size is allowed (R359). -/
def poolFor (size : Nat) : Option Nat :=
  if size = 0 || 1048576 < size then none else (List.range 6).find? (fun n => decide (size ≤ bufSize n))

/-- The reserve of a pool in force (R367). -/
def State.reserveOf (s : State) (w : Wy) (n : Nat) : Nat := s.afld (.bpm w) (0x148 + 16 * n) 24 0

/-- A pool may fall back to the next larger (R359). -/
def State.fallsBack (s : State) (w : Wy) (n : Nat) : Bool := n < 5 && s.afld (.bpm w) BPM_CTRL n n = 1

/-- A pool reaches another by fallback. -/
def State.reaches (s : State) (w : Wy) (a b : Nat) : Bool :=
  decide (a ≤ b) && (List.range 6).all (fun n => !(decide (a ≤ n) && decide (n < b)) || s.fallsBack w n)

/-- A buffer of a pool is available to a request (R367). -/
def State.availTo (s : State) (w : Wy) (n : Nat) (r : BufReq) : Bool :=
  let p := s.pool w n
  if r.reserve then decide (0 < p.free) else decide (s.reserveOf w n < p.free)

/-- The first FREE buffer from an index on, around the pool. -/
def freeFrom (p : Pool) : Nat → Nat → Nat
  | 0, i => i
  | fuel + 1, i => if (bufOf p i).st = 0 then i else freeFrom p fuel (if i + 1 < p.count then i + 1 else 0)

/-- Answer a request. -/
def State.bpmAnswer (s : State) (w : Wy) (requester result handle cookie : Nat) : State :=
  s.emit (.bpm w requester result handle cookie)

/-- Serve a request from a pool with one of its free buffers. An empty cache holds the answer until the refill (R360). -/
def State.takeAt (s : State) (w : Wy) (n i : Nat) (r : BufReq) : State :=
  let p := s.pool w n
  let gen := (bufOf p i).gen
  let rsv := s.reserveOf w n
  let s1 := (s.modBuf w n i (fun b => { b with st := 1, owner := r.requester, count := 1 })).modPool w n (fun p =>
    { p with free := p.free - 1, low := some (min (p.low.getD p.free) (p.free - 1)), cache := p.cache - 1 })
  let s2 := s1.bump (.bpm w) BPM_CNT_ALLOC
  let s3 := if rsv < p.free && p.free - 1 ≤ rsv then s2.event (.bpm w) BPM_EVT_POOL_EMPTY else s2
  let s4 := if r.reserve && p.free ≤ rsv then (s3.bump (.bpm w) BPM_CNT_RESERVE_USE).event (.bpm w) BPM_EVT_RESERVE_USED else s3
  let s5 := if poolFor r.size = some n then s4 else s4.bump (.bpm w) BPM_CNT_FALLBACK
  if p.cache = 0 then s5.modPool w n (fun p => { p with stalled := p.stalled ++ [(r.requester, handleOf n gen i, r.cookie)] })
  else s5.bpmAnswer w r.requester 0 (handleOf n gen i) r.cookie

/-- Serve a request from a pool: which free buffer it takes is not fixed by the spec, a free value (log 35). -/
def State.takeBuf (s : State) (w : Wy) (n : Nat) (r : BufReq) : State :=
  let p := s.pool w n
  s.used.takeAt w n (freeFrom p p.count (s.free % p.count)) r

/-- The arbitration port of a requester (R366): courses 0-15 by tile number, hub units 16-19. -/
def portOf (requester : Nat) : Nat := if requester < 128 then requester / 8 else 16 + (requester - 0x80)

/-- BPM_RR_PTR: it advances by one every grout cycle of 1.2 GHz (R366). -/
def State.rrPtr (s : State) : Nat := s.now * 6 / 5 % 20

/-- Requests in port order, starting at a port and wrapping from 19 to 0 (R366). -/
def inPortOrder (from_ : Nat) (l : List BufReq) : List BufReq :=
  (List.range 20).flatMap (fun k => l.filter (fun r => portOf r.requester = (from_ + k) % 20))

/-- A queued request could take a buffer of a pool, so a new one must not (R366). -/
def State.queueAhead (s : State) (w : Wy) (n : Nat) : Bool :=
  (List.range 6).any (fun m => s.reaches w m n && (s.pool w m).waiting.any (fun x => s.availTo w n x.req))

/-- Allocations queued in a wythe. -/
def State.queuedBufs (s : State) (w : Wy) : Nat := (s.wy w).bpm.pools.foldl (fun a p => a + p.waiting.length) 0

/-- A request that no pool serves: queued with WAIT, refused otherwise or when the queues are full (R366). -/
def State.unserved (s : State) (w : Wy) (r : BufReq) : State :=
  let no := fun s : State => (s.bump (.bpm w) BPM_CNT_NO_BUFFER).bpmAnswer w r.requester 1 0 r.cookie
  if !r.wait then no s
  else if 8192 ≤ s.queuedBufs w then no (s.event (.bpm w) BPM_EVT_WAIT_FULL)
  else
    let k := (s.wy w).bpm.next
    ((s.modPool w ((poolFor r.size).getD 0) (fun p => { p with waiting := p.waiting ++ [{ order := k, req := r }] })).modBpm w
      (fun b => { b with next := k + 1 })).bump (.bpm w) BPM_CNT_WAIT

/-- One pool's turn in a cycle: its requests in port order; those it cannot serve fall back or stay unserved. The second part is what
falls back. -/
def State.servePool (s : State) (w : Wy) (n : Nat) : List BufReq → State × List BufReq
  | [] => (s, [])
  | r :: rest =>
    if s.availTo w n r && !s.queueAhead w n then (s.takeBuf w n r).servePool w n rest
    else if s.fallsBack w n then
      let x := s.servePool w n rest
      (x.1, r :: x.2)
    else (s.unserved w r).servePool w n rest

/-- The requests of one cycle, pool by pool (R359, R366); a cycle counts in BPM_CNT_CONTEND once. -/
def State.servePools (s : State) (w : Wy) (from_ : Nat) (c0 : Word) (all : List BufReq) : List Nat → List BufReq → State
  | [], _ => s
  | n :: rest, fallen =>
    let mine := inPortOrder from_ (all.filter (fun r => poolFor r.size = some n) ++ fallen)
    let short := decide ((mine.filter (fun r => s.availTo w n r)).length < mine.length)
      || decide ((s.pool w n).free - s.reserveOf w n < (mine.filter (fun r => !r.reserve)).length)
    let s1 := if mine ≠ [] && short && s.reg (.bpm w) BPM_CNT_CONTEND = c0 then s.bump (.bpm w) BPM_CNT_CONTEND else s
    let x := s1.servePool w n mine
    x.1.servePools w from_ c0 all rest x.2

/-- The requests presented in the first cycle: of each port the first for each pool (R366). -/
def firstCycle : List BufReq → List BufReq
  | [] => []
  | r :: rest => r :: (firstCycle rest).filter (fun x => ¬ (portOf x.requester = portOf r.requester ∧ poolFor x.size = poolFor r.size))

/-- Allocations cycle by cycle: a port's second one for a pool waits for the next cycle, in which BPM_RR_PTR is one further (R366). -/
def State.allocCycles (s : State) (w : Wy) (ptr : Nat) (l : List BufReq) : Nat → State
  | 0 => s
  | n + 1 =>
    let now := firstCycle l
    if now = [] then s
    else (s.servePools w ptr (s.reg (.bpm w) BPM_CNT_CONTEND) now (List.range 6) []).allocCycles w ((ptr + 1) % 20)
      (now.foldl (fun l r => l.erase r) l) n

/-- ALLOC: allocations that reach the BPM in one cycle (R359, R363, R366, R367). -/
def execAlloc (w : Wy) (reqs : List BufReq) (s : State) : Host.Outcome State Fault Refusal :=
  let bad := reqs.filter (fun r => poolFor r.size = none)
  let s1 := bad.foldl (fun s r => s.bpmAnswer w r.requester 6 0 r.cookie) s
  .next (s1.allocCycles w s.rrPtr (reqs.filter (fun r => poolFor r.size ≠ none)) reqs.length)

/-- The oldest queued request that a freed buffer of a pool can serve (R366). -/
def State.oldestWait (s : State) (w : Wy) (n : Nat) : Option BufWait :=
  ((List.range 6).flatMap (fun m => if s.reaches w m n then (s.pool w m).waiting.filter (fun x => s.availTo w n x.req) else [])).foldl
    (fun a x => match a with
      | none => some x
      | some y => if x.order < y.order then some x else some y) none

/-- The oldest queued request that a pool's freed buffer can serve takes it (R363, R366). -/
def State.serveWait (s : State) (w : Wy) (n i : Nat) : State :=
  match s.oldestWait w n with
  | none => s
  | some x =>
    (s.modBpm w (fun b => { b with
      pools := b.pools.map (fun p => { p with waiting := p.waiting.filter (fun y => y.order ≠ x.order) }) })).takeAt w n i x.req

/-- The count of a buffer falls by one; at zero it is freed: the generation advances, and the handle goes to the oldest waiter or back to
the pool (R361, R363, R366). -/
def State.dropCount (s : State) (w : Wy) (n i : Nat) : State :=
  let b := bufOf (s.pool w n) i
  if 1 < b.count then s.modBuf w n i (fun b => { b with count := b.count - 1 })
  else
    let s1 := s.modBuf w n i (fun b => { b with st := 0, count := 0, owner := 0, gen := if b.gen = 31 then 1 else b.gen + 1 })
    (s1.modPool w n (fun p => { p with free := p.free + 1, low := some (p.low.getD p.free), cache := min 256 (p.cache + 1) })).serveWait w n i

/-- The operations on a handle (R362). -/
inductive BufOp where
  | free
  | share
  | release
  | transfer (owner : Nat)
  deriving DecidableEq, Repr

/-- Operation codes (R362). -/
def bufOpNum : BufOp → Nat
  | .free => 2 | .share => 3 | .release => 4 | .transfer _ => 5

/-- The owner of buffers of a FAILED tile (R368). -/
def orphan : Nat := 0xFE

/-- The result of an operation on a handle, 0 when it is accepted, by the checks in their order (R363, R364). A current handle of a buffer
that is FREE is refused: SHARE as stale, the others by ownership. -/
def State.bufCheck (s : State) (w : Wy) (op : BufOp) (requester handle : Nat) : Nat :=
  let n := bits handle 31 29
  let g := bits handle 28 24
  let i := bits handle 23 0
  if g = 0 || 6 ≤ n || (s.pool w n).count ≤ i then 4
  else
    let b := bufOf (s.pool w n) i
    let before := if b.gen = 1 then 31 else b.gen - 1
    let freeing := match op with | .free | .release => true | _ => false
    let owns := b.st ≠ 0 && (b.owner = requester || b.owner = orphan)
    if freeing && b.st = 0 && g = before then 2
    else if g ≠ b.gen then 4
    else match op with
      | .free | .transfer _ => if owns then 0 else 3
      | .release => if b.st = 2 || (b.st = 1 && b.owner = requester) then 0 else 3
      | .share => if b.st = 0 then 4 else if 65535 ≤ b.count then 5 else 0

/-- An operation on a handle (R363, R364). -/
def State.bufOp (s : State) (w : Wy) (op : BufOp) (requester handle cookie : Nat) : State :=
  let n := bits handle 31 29
  let i := bits handle 23 0
  match s.bufCheck w op requester handle with
  | 0 =>
    let s1 := match op with
      | .free | .release => s.dropCount w n i
      | .share => s.modBuf w n i (fun b => { b with st := 2, count := b.count + 1 })
      | .transfer o => s.modBuf w n i (fun b => { b with owner := o })
    s1.bpmAnswer w requester 0 handle cookie
  | r =>
    let p := Page.bpm w
    let s1 := (s.event p BPM_EVT_FREE_REFUSED).pageError p r handle (requester + bufOpNum op * 256)
    let s2 := if r = 2 then s1.bump p BPM_CNT_DOUBLE_FREE else if r = 3 then s1.bump p BPM_CNT_NOT_OWNER
      else if r = 4 then s1.bump p BPM_CNT_STALE else s1
    (s2.recordOpen (srcOf w) 2 p (leBytes 4 handle)).bpmAnswer w requester r handle cookie

/-- FREE (R363). -/
def execFree (w : Wy) (requester handle cookie : Nat) (s : State) : Host.Outcome State Fault Refusal :=
  .next (s.bufOp w .free requester handle cookie)

/-- SHARE (R363). -/
def execShare (w : Wy) (requester handle cookie : Nat) (s : State) : Host.Outcome State Fault Refusal :=
  .next (s.bufOp w .share requester handle cookie)

/-- RELEASE (R363). -/
def execRelease (w : Wy) (requester handle cookie : Nat) (s : State) : Host.Outcome State Fault Refusal :=
  .next (s.bufOp w .release requester handle cookie)

/-- TRANSFER (R363). -/
def execTransfer (w : Wy) (requester handle owner cookie : Nat) (s : State) : Host.Outcome State Fault Refusal :=
  .next (s.bufOp w (.transfer owner) requester handle cookie)

/-- FREE_RING_REFILL (R360): 64 handles move from the ring to a cache below 64, or back from one above 192; answers that waited go
out. -/
def execFreeRingRefill (w : Wy) (n : Fin 6) (s : State) : Host.Outcome State Fault Refusal :=
  let p := s.pool w n.val
  let held := p.stalled.length
  let batch := min 64 (p.free + held - p.cache)
  let s1 := p.stalled.foldl (fun s e => s.bpmAnswer w e.1 0 e.2.1 e.2.2) s
  .next (if p.cache < 64 then
      s1.modPool w n.val (fun p => { p with cache := p.cache + (batch - held), stalled := [] })
    else if 192 < p.cache then s.modPool w n.val (fun p => { p with cache := p.cache - 64 })
    else s)

/-- BPM_Pn_LOW of a pool: a read has cleared it to zero until the pool's free count changes again (R9, R369, log 99). -/
def lowOf (p : Pool) : Nat := p.low.getD 0

/-- A read clears BPM_Pn_LOW (R9). -/
def State.clearLow (s : State) (w : Wy) (n : Nat) : State := s.modPool w n (fun p => { p with low := none })

/-- BPM_POOL_LOW_READ: the lowest free count since the last read; the read starts it anew (R369). -/
def execBpmPoolLowRead (src : AccSrc) (w : Wy) (n : Fin 6) (s : State) : Host.Outcome State Fault Refusal :=
  .next (s.readGate src (.bpm w) (0x14C + 0x10 * n.val) (lowOf (s.pool w n.val)) (fun s => s.clearLow w n.val))

/-- Fill every ring: every buffer FREE at generation 1 (R368). -/
def State.fillPools (s : State) (w : Wy) (counts : List Nat) : State :=
  s.modBpm w (fun _ => { pools := counts.map (fun c => { Pool.reset c with free := c, low := some c }), next := 0, ready := true })

/-- A tile becomes FAILED: its buffers become orphans (R368). -/
def State.orphanBufs (s : State) (w : Wy) (tile : Nat) : State :=
  s.modBpm w (fun b => { b with
    pools := b.pools.map (fun p => { p with
      bufs := p.bufs.map (fun e => if e.2.st ≠ 0 && e.2.owner = tile then (e.1, { e.2 with owner := orphan }) else e) }) })

end Sys2Proof.Machine
end

