-- ==== Sys2Proof/Machine/Deltas.lean ====
section
/-! DEFINITION. Reference deltas of a home (R256-R258, R260): its batches, their sequence and their sending. -/

namespace Sys2Proof.Machine

/-- The wythe that holds a home partition now: the one of R54, or the covering wythe (R29). -/
def State.holder (s : State) (p : Nat) : Wy := s.cover.coverer.getD (wyOfPart p)

/-- Change the reference state. -/
def State.modRefs (s : State) (f : Refs → Refs) : State := { s with refs := f s.refs }

/-- The partition's low-water mark: the lowest sequence still unacknowledged (R258). -/
def lwmOf (r : Refs) (p : Nat) : Nat :=
  (r.deltas.filter (fun b => b.p = p)).foldl (fun a b => min a b.seq) ((tableGet? r.deltaSeq p).getD 0)

/-- Send a batch to the acting lead of its group; without one it stays to be sent again (R258). -/
def State.sendBatch (s : State) (b : DeltaBatch) : State :=
  let s1 := s.modRefs (fun r => { r with deltas := updAll (fun x => x.p = b.p && x.seq = b.seq) (fun x => { x with sent := true }) r.deltas })
  match s1.leadOf b.group with
  | none => s1
  | some l => s1.mortarOut (s1.holder b.p) l (wyOfGroup b.group)
      (.refDelta b.p s1.myId b.group b.recount b.ended b.seq (lwmOf s1.refs b.p) b.entries)

/-- Put an entry in the open batch of its partition and group; a batch of 256 entries closes (R258). -/
def State.addDeltaTo (s : State) (p g : Nat) (recount : Bool) (e : DeltaEntry) : State :=
  let isOpen := fun b : DeltaBatch => b.p = p && b.group = g && !b.sent && b.recount = recount
  let seq := (tableGet? s.refs.deltaSeq p).getD 0
  let fresh : DeltaBatch :=
    { p := p, group := g, seq := seq, firstAt := s.now, sent := false, recount := recount, ended := false, entries := [e] }
  let s1 :=
    if s.refs.deltas.any isOpen then
      s.modRefs (fun r => { r with deltas := updFirst isOpen (fun b => { b with entries := b.entries ++ [e] }) r.deltas })
    else s.modRefs (fun r => { r with deltas := r.deltas ++ [fresh], deltaSeq := tablePut r.deltaSeq p (seq + 1) })
  match s1.refs.deltas.find? isOpen with
  | some b => if 256 ≤ b.entries.length then s1.sendBatch b else s1
  | none => s1

/-- Put an entry in the batch of its fingerprint's group (R149, R257). -/
def State.addDelta (s : State) (p : Nat) (e : DeltaEntry) : State :=
  s.addDeltaTo p (groupOf s.wall.settings.groups e.fp) false e

/-- Put entries in their batches, in order. -/
def State.addDeltas (s : State) (p : Nat) (l : List DeltaEntry) : State := l.foldl (fun s e => s.addDelta p e) s

end Sys2Proof.Machine
end

