-- ==== Sys2Proof/Machine/Client.lean ====
section
/-! DEFINITION. Shared operations on Relief queues and commands: looking up commands, rights and partitions, completing a
command, recording outcomes, dropping and suppressing at a reset (R46, R53, R54, R79, R85-R102). -/

namespace Sys2Proof.Machine

/-! ### Commands -/

/-- Find a command in flight. -/
def Relief.cmd (r : Relief) (id : Nat) : Option Cmd := r.cmds.find? (fun c => c.id = id)

/-- Change a command in flight. -/
def State.modCmd (s : State) (w : Wy) (id : Nat) (f : Cmd → Cmd) : State :=
  s.modRelief w (fun r => { r with cmds := updFirst (fun c => c.id = id) f r.cmds })

/-- Remove a command. -/
def State.dropCmd (s : State) (w : Wy) (id : Nat) : State :=
  s.modRelief w (fun r => { r with cmds := r.cmds.filter (fun c => c.id ≠ id) })

/-- The tag of a capsule: byte 4 bits [4:0] (R43). -/
def capTag (c : Capsule) : Nat := c.tagByte.toNat % 32

/-- The FLAGS bits (R44). -/
def capFlag (c : Capsule) (n : Nat) : Bool := c.flags.getLsbD n

/-- A command holds its tag unless a reset has suppressed it: all tags are free in the new epoch (R85, R94). -/
def Cmd.holdsTag (c : Cmd) : Bool := !c.suppressed

/-- The tags of completions that a full completion ring holds back: they are freed only when their completion is written (R85). -/
def heldTags (e : Pcie) (x : Queue) : List Nat :=
  match x.transport with
  | .pcie n => (qpage e n.val).held.filterMap (fun m => (tagOf m).bind (fun t => if t.1 = x.epoch then some t.2 else none))
  | .roce _ _ => []

/-- The partition of a key (R54). -/
def partOf (keyspace : BitVec 32) (key : Bytes) : Nat :=
  ofBe ((sha256 (beBytes 4 keyspace.toNat ++ key)).take 2)

/-- The map's entry of a partition. -/
def State.partEntry (s : State) (p : Nat) : Option PartEntry := tableGet? s.store.map.parts p

/-- This brick's own record of a partition. -/
def State.partSt (s : State) (p : Nat) : Option PartSt := s.store.parts.find? (fun x => x.p = p)

/-- Change this brick's record of a partition. -/
def State.modPart (s : State) (p : Nat) (f : PartSt → PartSt) : State :=
  s.modStore (fun t => { t with parts := updFirst (fun x => x.p = p) f t.parts })

/-- The brick is the home of a partition by the map it holds (R58). -/
def State.isHome (s : State) (p : Nat) : Bool :=
  match s.partEntry p, s.wall.brickId with
  | some e, some b => e.home = b
  | _, _ => false

/-- The lease of R127 is held. -/
def State.leaseOk (s : State) : Bool := s.now < s.wall.leaseUntil

/-- The clock offset bound in hybrid units (R114). -/
def State.epsHyb (s : State) : Nat := s.wall.settings.epsUs * 4096

/-! ### Keyspaces and rights (R53) -/

/-- The policy of a keyspace. -/
def State.keyspace (s : State) (ks : BitVec 32) : Option Keyspace := s.store.keyspaces.find? (fun k => k.id = ks)

/-- A grant's source covers a queue of a wythe. -/
def grantCovers (w : Wy) (t : Transport) : Source → Bool
  | .subnet a n => match t with
    | .roce _ src => decide (src.toNat / 2 ^ (128 - n) = a.toNat / 2 ^ (128 - n))
    | .pcie _ => false
  | .function f => match t with
    | .roce _ _ => false
    | .pcie _ => decide (f = w)

/-- The rights that a policy gives a queue: the union of the grants that cover it. -/
def rightsOf (k : Keyspace) (w : Wy) (t : Transport) : Rights :=
  let g := k.grants.filter (fun g => grantCovers w t g.1)
  { read := g.any (fun g => g.2.read), write := g.any (fun g => g.2.write), cast := g.any (fun g => g.2.cast) }

/-- The right an opcode needs, held or not: OUTCOME needs WRITE with a key and CAST without (R53, R80). -/
def holdsRight (op : Opcode) (hasKey : Bool) (r : Rights) : Bool :=
  if isWrite op then r.write
  else if isCast op then r.cast
  else if isRead op then r.read
  else if op = .outcome then (if hasKey then r.write else r.cast)
  else true

/-- The queue holds at least one right on at least one keyspace of the wall (R53). -/
def State.anyRight (s : State) (w : Wy) (t : Transport) : Bool :=
  s.store.keyspaces.any (fun k => let r := rightsOf k w t; r.read || r.write || r.cast)

/-! ### Versions of a key -/

/-- The history of a key. -/
def State.hist (s : State) (ks : BitVec 32) (key : Bytes) : List ValueVer :=
  ((s.store.index.find? (fun h => h.keyspace = ks && h.key = key)).map (fun h => h.versions)).getD []

/-- The latest version of a key, a deletion included. -/
def State.latest (s : State) (ks : BitVec 32) (key : Bytes) : Option ValueVer := (s.hist ks key).head?

/-- The live version of a key: none where the latest version is a deletion (R63). -/
def State.live (s : State) (ks : BitVec 32) (key : Bytes) : Option ValueVer :=
  match s.latest ks key with
  | some v => if v.live then some v else none
  | none => none

/-- The latest version committed at or before a time (R72), a deletion giving none. -/
def State.liveAt (s : State) (ks : BitVec 32) (key : Bytes) (t : Nat) : Option ValueVer :=
  match (s.hist ks key).find? (fun v => v.time ≤ t) with
  | some v => if v.live then some v else none
  | none => none

/-- The history horizon of a keyspace at a partition: the closed time less the history retention, held back by the
PENDING casts (R122, R124). -/
def State.horizon (s : State) (k : Keyspace) (closed : Nat) : Nat :=
  let base := closed - k.historyS * 1000000 * 4096
  (s.store.holds.filter (fun h => h.2.1 = k.id)).foldl (fun a h => min a h.2.2) base

/-! ### Outcomes (R100-R102) -/

/-- The outcome kept under a request id. -/
def State.outcome (s : State) (ks : BitVec 32) (rid : BitVec 64) : Option OutcomeRec :=
  s.store.outcomes.find? (fun o => o.keyspace = ks && o.requestId = rid)

/-- Record an outcome under a request id, replacing what is kept there. -/
def State.recordOutcome (s : State) (ks : BitVec 32) (rid : BitVec 64) (st : OutcomeSt) : State :=
  let rec_ : OutcomeRec := { keyspace := ks, requestId := rid, st := st, since := s.now }
  let keep := fun l => l.filter (fun o : OutcomeRec => ¬ (o.keyspace = ks ∧ o.requestId = rid))
  s.modStore (fun t => { t with outcomes := keep t.outcomes ++ [rec_] })

/-- Record NEVER_STARTED for a dropped command of the WRITE right (R91), where no outcome is kept yet. -/
def State.recordNever (s : State) (ks : BitVec 32) (rid : BitVec 64) : State :=
  match s.outcome ks rid with
  | some { st := .done _ _ _ _, .. } => s
  | _ => s.recordOutcome ks rid .neverStarted

/-- A command of the WRITE or CAST right with this request id is queued or running on the brick, other than the command `but`, or its
commit, which a covering wythe may have taken over without it, is not yet visible (R79, R99, R101). -/
def State.ridRunning (s : State) (ks : BitVec 32) (rid : BitVec 64) (but : Nat) (bw : Wy) : Bool :=
  [Wy.w0, Wy.w1].any (fun w =>
    (s.wy w).relief.cmds.any (fun c =>
      (isWrite c.op || isCast c.op) && c.cap.keyspace = ks && c.cap.requestId = rid && c.phase ≠ .attached
        && !(w = bw && c.id = but))
      || (s.wy w).relief.commits.any (fun k => k.keyspace = ks && k.requestId = rid && !(w = bw && k.cmdId = but)))

/-- The capsule of a completion for a command. -/
def completionOf (c : Cmd) (st : Status) (d : Detail) (cflags version result : Nat) : BusMsg :=
  .completion c.epoch (capTag c.cap) st cflags d c.cap.requestId version result

/-- The partition of a write command: of its key, or of the first key of a BATCH. -/
def cmdPart (c : Cmd) : Nat :=
  match c.op with
  | .batch => (c.ops.head?.map (fun o => partOf c.cap.keyspace o.key)).getD 0
  | _ => partOf c.cap.keyspace c.key

/-- The CANCEL entries of a write's chunks that it sent and that no version will hold, its re-cut ones aside, which were cancelled when
they were replaced (R90, R257). -/
def cancels (c : Cmd) : List DeltaEntry :=
  (c.wchunks.zipIdx.filter (fun x => !x.1.dropped && (x.1.stage = .sent || x.1.stage = .acked))).map (fun x =>
    { fp := x.1.fp, kind := .cancel, chunk := x.2, requestId := c.cap.requestId, fragId := 0 })

/-! ### Buffers and credit of a write (R153) -/

/-- The tile that requests the buffers of a command's chunks: the first protocol tile of the course its queue is bound to (log 196). -/
def bufOwner (c : Cmd) : Nat := (courseOfQueue c.q).val * 8

/-- The credit a flow to a wythe of a brick holds, in 64 KiB units (R212). -/
def creditTo (m : MortarW) (b : Nat) (bw : Wy) : Nat :=
  (m.flows.filter (fun f => f.peer = b && f.peerW = bw)).foldl (fun a f => max a f.credit) 0

/-- Spend credit towards a wythe of a brick. -/
def spendCredit (m : MortarW) (b : Nat) (bw : Wy) (n : Nat) : MortarW :=
  { m with flows := updAll (fun f => f.peer = b && f.peerW = bw) (fun f => { f with credit := f.credit - n }) m.flows }

/-- Give credit back that was taken and not used. -/
def returnCredit (m : MortarW) (b : Nat) (bw : Wy) (n : Nat) : MortarW :=
  { m with flows := updAll (fun f => f.peer = b && f.peerW = bw) (fun f => { f with credit := f.credit + n }) m.flows }

/-- Free the buffer of a chunk, and give back credit that it held without having sent its record (R153, R212). -/
def State.freeChunk (s : State) (w : Wy) (c : Cmd) (x : WChunk) : State :=
  let s1 := match x.buf with
    | some h => s.bufOp w .free (bufOwner c) h c.id
    | none => s
  s1.modMortar w (fun m => returnCredit m x.lead (wyOfGroup (groupOf s.wall.settings.groups x.fp)) x.credit)

/-- Free what the chunks of a command hold. -/
def State.freeChunks (s : State) (w : Wy) (id : Nat) : State :=
  match (s.wy w).relief.cmd id with
  | none => s
  | some c => (c.wchunks.foldl (fun s x => s.freeChunk w c x) s).modCmd w id (fun c =>
      { c with wchunks := c.wchunks.map (fun x => { x with buf := none, credit := 0 }) })

/-- Let the pending references of a write before its start point lapse (R90, R257). -/
def State.cancelRefs (s : State) (w : Wy) (id : Nat) : State :=
  match (s.wy w).relief.cmd id with
  | some c => if c.phase = .committing then s else s.addDeltas (cmdPart c) (cancels c)
  | none => s

/-- End a command: its window returns to the budget with it; its completion is handed to the transport unless a reset
has suppressed it (R85, R91). -/
def State.endCmd (s : State) (w : Wy) (c : Cmd) (st : Status) (d : Detail) (cflags version result : Nat) : State :=
  let s1 := ((s.cancelRefs w c.id).freeChunks w c.id).dropCmd w c.id
  if c.suppressed then s1.bump (.rlf w) RLF_CNT_SUPPRESSED
  else
    let s2 := s1.handOut w c.q (completionOf c st d cflags version result)
    if c.op = .hello && st = .ok then s2.modQueue w c.q (fun x => { x with helloDone := true }) else s2

/-- The answer to an OUTCOME: DONE with the recorded status in CFLAGS [7:2], NEVER_STARTED or UNKNOWN (R80, R101). -/
def State.answerOutcome (s : State) (w : Wy) (c : Cmd) (kept : Option OutcomeRec) : State :=
  match kept with
  | some { st := .done st v r _, .. } => s.endCmd w c .ok .done (statusNum st * 4) v r
  | some { st := .idOnly, .. } => s.endCmd w c .ok .unknown 0 0 0
  | _ => s.endCmd w c .ok .neverStarted 0 0 0

/-- The record an OUTCOME reads: the home's with a key, the armature's without (R80). -/
def State.outcomeFor (s : State) (c : Cmd) : Option OutcomeRec :=
  let l := if c.key = [] then s.store.armOutcomes else s.store.outcomes
  l.find? (fun o => o.keyspace = c.cap.keyspace && o.requestId = c.cap.version)

/-- OUTCOMEs that were waiting for a request id which now runs no more (R101). -/
def State.wakeOutcomes (s : State) (w : Wy) : State :=
  ((s.wy w).relief.cmds.filter (fun c => c.op = .outcome && c.phase = .running
      && !s.ridRunning c.cap.keyspace c.cap.version c.id w)).foldl
    (fun s c => s.answerOutcome w c (s.outcomeFor c)) s

/-- End the commands that were attached to a running request id with the same outcome (R79). -/
def State.endAttached (s : State) (w : Wy) (c : Cmd) (st : Status) (d : Detail) (version result : Nat) : State :=
  ((s.wy w).relief.cmds.filter (fun x => x.phase = .attached && x.cap.keyspace = c.cap.keyspace
      && x.cap.requestId = c.cap.requestId)).foldl
    (fun s x => s.endCmd w x st d 0 version result) s

/-- The home claims a pending reference: it holds an unacknowledged CONFIRM or ADD for it (R262). -/
def claims (r : Refs) (p group : Nat) (rid : BitVec 64) (chunk : Nat) : Bool :=
  r.deltas.any (fun b => b.p = p && b.group = group && b.entries.any (fun e =>
    (e.kind = .confirm || e.kind = .add) && e.requestId = rid && e.chunk = chunk))

/-- The request id under which a remote home stages a shipped record; the spec leaves it open (log 25). -/
def stagedRid (x : StagedRec) : BitVec 64 := BitVec.ofNat 64 (x.offer * 2 ^ 32 + x.sourceCast)

/-- Answers to REF_QUERY that were held while their command was queued or running (R262). -/
def State.answerQueries (s : State) : State :=
  let busy := fun q : HeldQuery => [Wy.w0, Wy.w1].any (fun w => (s.wy w).relief.cmds.any (fun c =>
    isWrite c.op && c.cap.requestId = q.requestId && cmdPart c = q.p)
      || (s.wy w).relief.commits.any (fun k => k.part = q.p && k.requestId = q.requestId))
    || s.refs.staged.any (fun x => x.p = q.p && stagedRid x = q.requestId && !x.staged)
  (s.refs.held.filter (fun q => !busy q)).foldl (fun s q =>
    s.mortarOut q.w q.src q.srcW (.refAnswer q.p q.group q.requestId q.chunk (claims s.refs q.p q.group q.requestId q.chunk)))
    (s.modRefs (fun r => { r with held := r.held.filter busy }))

/-- Complete a command and everything that waits for it. -/
def State.finish (s : State) (w : Wy) (c : Cmd) (st : Status) (d : Detail) (cflags version result : Nat) : State :=
  let s1 := s.endCmd w c st d cflags version result
  let s2 := if isWrite c.op || isCast c.op then
      (s1.endAttached .w0 c st d version result).endAttached .w1 c st d version result
    else s1
  ((s2.wakeOutcomes .w0).wakeOutcomes .w1).answerQueries

/-! ### Resets (R87, R91, R96) -/

/-- The next epoch: after 0xFFFF it wraps to 0x0001 (R87). -/
def nextEpoch (e : BitVec 16) : BitVec 16 := if e = 0xFFFF then 1 else e + 1

/-- A command has passed its start point (R89). -/
def pastStart (c : Cmd) : Bool := c.phase = .committing || c.phase = .armature

/-- Drop one command that has not reached its start point (R91): NEVER_STARTED for the WRITE right; its jobs end and its buffers and
credit go back. -/
def State.dropOne (s : State) (w : Wy) (c : Cmd) : State :=
  let s1 := (((s.cancelRefs w c.id).endJobs w c.id).freeChunks w c.id).dropCmd w c.id
  if isWrite c.op && c.phase ≠ .attached then s1.recordNever c.cap.keyspace c.cap.requestId else s1

/-- The effect of a reset on a queue's commands (R91 steps 1, 2 and 4, R96): the epoch rises, commands before their start point are
dropped, those that waited for the brick to wake (R110) among them, and reads end; commands past it are suppressed. All tags are free,
from which the idle time counts where one was held (R94, R109). -/
def State.resetQueue (s : State) (w : Wy) (q : Nat) : State :=
  let s1 := s.modQueue w q (fun x => { x with epoch := nextEpoch x.epoch })
  let mine := (s1.wy w).relief.cmds.filter (fun c => c.q = q)
  let asleep := (s1.wy w).relief.held.filter (fun h => h.q = q)
  let s2 := (mine.filter (fun c => !pastStart c)).foldl (fun s c => s.dropOne w c) s1
  let s3 := s2.modRelief w (fun r => { r with
    cmds := updAll (fun c => c.q = q && pastStart c) (fun c => { c with suppressed := true }) r.cmds
    held := r.held.filter (fun h => h.q ≠ q) })
  let s4 := (asleep.filter (fun h => h.op.any isWrite)).foldl (fun s h => s.recordNever h.msg.cap.keyspace h.msg.cap.requestId) s3
  let s5 := if mine.any Cmd.holdsTag || asleep.any (fun h => h.op.isSome) then s4.tagFreed else s4
  (((s5.bump (.rlf w) RLF_CNT_RESET).wakeOutcomes .w0).wakeOutcomes .w1).answerQueries

/-- Free a PCI Express queue page once no DMA for it remains (R412). -/
def State.freePage (s : State) (w : Wy) (n : Nat) : State :=
  s.modPage w n (fun p =>
    { QPage.reset n with
      sqBase := p.sqBase, cqBase := p.cqBase, stat := p.stat, sqLog := p.sqLog, cqLog := p.cqLog,
      vector := p.vector, intEn := p.intEn })

/-- The index of no queue: commands that outlive their queue carry it (R96). -/
def goneQueue : Nat := 2 ^ 32

/-- Remove a queue: a RoCEv2 connection is disconnected, a queue page becomes FREE (R95). Nothing of it stays for a later queue of its
index: its suppressed commands run on without a queue. -/
def State.removeQueue (s : State) (w : Wy) (q : Nat) (disconnect : Bool) : State :=
  match (s.wy w).relief.queue q with
  | none => s
  | some x =>
    let s1 := (s.modRelief w (fun r => { r with
      queues := r.queues.filter (fun y => y.idx ≠ q)
      cmds := updAll (fun c => c.q = q) (fun c => { c with q := goneQueue }) r.cmds
      unsealed := r.unsealed.filter (fun u => u.1 ≠ q)
      pulls := r.pulls.filter (fun p => p.2.2 ≠ q) })).modWy w (fun y =>
      { y with pairs := y.pairs.filter (fun z => z.q ≠ q) })
    match x.transport with
    | .roce _ _ => if disconnect then s1.emit (.disconnect w q) else s1
    | .pcie n => s1.freePage w n.val

/-- The code under which a DESTROY waits for a queue's DMA to end (R412). -/
def destroyCode : Nat := 0x101

/-- The code under which a closing queue waits until its CONTROL_ACK is written to a full completion ring (R95). -/
def closeCode : Nat := 0x102

/-- A code that no CONTROL_ACK carries. -/
def silentCode (n : Nat) : Bool := n = destroyCode || n = closeCode

/-- The completion ring of a queue's page holds messages back. -/
def State.ringHolds (s : State) (w : Wy) (x : Queue) : Bool :=
  match x.transport with
  | .pcie n => (qpage (s.wy w).pcie n.val).held ≠ []
  | .roce _ _ => false

/-- Hand out the CONTROL_ACKs of a queue, oldest first, once no RDMA READ, RDMA WRITE or DMA of it is unacknowledged (R91 steps 3 and 5,
R92, R95); a QUEUE_CLOSE then closes the queue, once its CONTROL_ACK is in the ring, and a STOPPED queue returns to OPEN (R416).
QP_CTRL.DESTROY closes it without one. -/
def State.sendAcks (s : State) (w : Wy) (q : Nat) : State :=
  match (s.wy w).relief.queue q with
  | none => s
  | some x =>
    if x.dma ≠ 0 || x.acks = [] then s
    else
      let s0 := s.modQueue w q (fun x => { x with st := .opened, acks := [] })
      let s1 := match x.transport with
        | .pcie n => s0.modPage w n.val (fun p => { p with st := .opened, epoch := x.epoch })
        | .roce _ _ => s0
      let s2 := (x.acks.filter (fun a => !silentCode a.code)).foldl (fun s a => s.handOut w q (.controlAck a.epoch a.requestId a.code)) s1
      let closes := x.acks.any (fun a => a.code = 2 || a.code = closeCode)
      if x.acks.any (fun a => a.code = destroyCode) then s2.removeQueue w q true
      else if closes && s2.ringHolds w x then
        let wait : PendingAck := { requestId := 0, code := closeCode, epoch := x.epoch }
        let s3 := s2.modQueue w q (fun x => { x with st := .closing, acks := [wait] })
        match x.transport with
        | .pcie n => s3.modPage w n.val (fun p => { p with st := .closing })
        | .roce _ _ => s3
      else if closes then s2.removeQueue w q true
      else s2

/-- An implied reset that ends a queue: no CONTROL_ACK, no completion, the queue gone (R96). -/
def State.loseQueue (s : State) (w : Wy) (q : Nat) (disconnect : Bool) : State :=
  (s.resetQueue w q).removeQueue w q disconnect

end Sys2Proof.Machine
end

