-- ==== Sys2Proof/Machine/Home.lean ====
section
/-! DEFINITION. A command against the map and the state of its partition: REDIRECT, MOVING, UNAVAILABLE (R58, R98, R115, R127, R128,
R130). -/

namespace Sys2Proof.Machine

/-- An answer at arrival: status, detail, CFLAGS, VERSION and RESULT. -/
structure Ans where
  st      : Status
  detail  : Detail
  cflags  : Nat
  version : Nat
  result  : Nat
  deriving DecidableEq, Repr

/-- A refusal with nothing but its status and detail. -/
def refusal (st : Status) (d : Detail) : Ans := { st := st, detail := d, cflags := 0, version := 0, result := 0 }

/-- A standby of the partition may be IN_SYNC: the brick holds no heartbeat that says otherwise (log 14). -/
def State.standbyInSync (s : State) (e : PartEntry) : Bool :=
  [e.standby1, e.standby2].any (fun b => s.isMember b && !s.wall.bricks.any (fun r => r.id = b && !r.inSync))

/-- REDIRECT with the map version held and a home (R58). -/
def State.redirect (s : State) (home cflags : Nat) : Ans :=
  { st := .redirect, detail := .none, cflags := cflags, version := 0, result := s.store.map.version * 2 ^ 32 + home % 4096 }

/-- BUSY_RETRY whose wait the spec leaves to the brick's estimate: a free value (log 15). -/
def State.busy (s : State) (d : Detail) (cflags : Nat) : Ans :=
  { st := .busyRetry, detail := d, cflags := cflags, version := 0, result := s.free }

/-- The home brick is pausing its partitions between its wythes (R29, R30, R98). -/
def State.pausing (s : State) : Bool := s.cover.coverer.isSome || s.cover.handingBack

/-- The checks of a keyed command against the map and the partition's state (R58, R115, R127, R128, R130): the pause of a move lasts 300 ms
at most. -/
def State.checkHome (s : State) (w : Wy) (op : Opcode) (c : Capsule) (p : Nat) : Option Ans :=
  match s.partEntry p with
  | none => some (refusal .unavailable .none)
  | some e =>
    if some e.home ≠ s.wall.brickId then some (s.redirect e.home 0)
    else if !s.leaseOk then some (refusal .unavailable .none)
    else match s.partSt p with
      | none => some (refusal .unavailable .none)
      | some x =>
        let timed := isRead op && (capFlag c 2 || capFlag c 3)
        let sync := (s.wy w).clk.inSync
        if x.fenced || (x.moving && s.since x.movedAt (ms 300)) then some (s.redirect (x.moveTo.getD e.home) 0)
        else if s.holder p ≠ w && !(s.cover.handingBack && !x.opened) then some (s.redirect s.myId 2)
        else if !x.opened && !s.pausing then some (refusal .unavailable .none)
        else if !sync && !s.standbyInSync e then
          if isWrite op || (isRead op && capFlag c 2) then some (refusal .unavailable .none) else none
        else if !sync then (if isWrite op then some (s.busy .moving 0) else none)
        else if x.moving && !timed then some (s.busy .moving 0)
        else none

end Sys2Proof.Machine
end

