-- ==== Sys2Proof/Machine/Commit.lean ====
section
/-! DEFINITION. The commit step: conditions (R63), versions from the hybrid clock (R112, R113), the new version of a key for
each opcode (R64-R69, R138), the key-index record and its placement at the replica set (R116, R155, R156). -/

namespace Sys2Proof.Machine

/-! ### Limits -/

/-- 1 GiB: the longest value of a PUT, a part or a PATCH (R64, R65). -/
def gib : Nat := 1073741824

/-- 64 GiB: the longest value (R65, R67). -/
def maxValue : Nat := 68719476736

/-- The most chunk entries of a recipe (R156). -/
def maxRecipe : Nat := 4198400

/-! ### Holes (R138) -/

/-- Add a hole; overlapping or adjacent holes merge into one. -/
def addHole (holes : List (Nat × Nat)) (off len : Nat) : List (Nat × Nat) :=
  if len = 0 then holes
  else
    let touch := fun h : Nat × Nat => decide (h.1 ≤ off + len ∧ off ≤ h.1 + h.2)
    let t := holes.filter touch
    let lo := t.foldl (fun a h => min a h.1) off
    let hi := t.foldl (fun a h => max a (h.1 + h.2)) (off + len)
    let rest := holes.filter (fun h => !touch h)
    rest.filter (fun h => h.1 < lo) ++ [(lo, hi - lo)] ++ rest.filter (fun h => lo ≤ h.1)

/-- Take a written range out of the holes. -/
def cutHole (holes : List (Nat × Nat)) (off len : Nat) : List (Nat × Nat) :=
  holes.flatMap (fun h =>
    let a := min (h.1 + h.2) off
    let b := max h.1 (off + len)
    (if h.1 < a then [(h.1, a - h.1)] else []) ++ (if b < h.1 + h.2 then [(b, h.1 + h.2 - b)] else []))

/-- A chunk lies wholly inside a hole. -/
def inHole (holes : List (Nat × Nat)) (e : RecipeEntry) : Bool :=
  holes.any (fun h => h.1 ≤ e.start && e.start + e.plain ≤ h.1 + h.2)

/-- Bytes of a value masked by its holes: the bytes read as zeros (R68, R138). -/
def maskHoles (holes : List (Nat × Nat)) (start : Nat) (data : Bytes) : Bytes :=
  (List.range data.length).map (fun i =>
    if holes.any (fun h => h.1 ≤ start + i && start + i < h.1 + h.2) then 0 else data.getD i 0)

/-! ### New versions -/

/-- The recipe entries of an operation's acknowledged chunks, in value order. -/
def entriesOf (chunks : List WChunk) (entry : Nat) : List RecipeEntry :=
  (chunks.filter (fun c => c.entry = entry && !c.dropped)).filterMap (fun c => c.place.map (fun p =>
    { fp := c.fp, place := p, start := c.start, plain := c.data.length, codec := c.codec }))

/-- The first chunk that overlaps a patched range, or the old final chunk when the range begins at the old end; the
value offset where a re-cut starts (R138). -/
def recutStart (v : ValueVer) (off len : Nat) : Nat :=
  if v.chunks = [] then 0
  else if off = v.length then (v.chunks.getLast?.map (fun e => e.start)).getD off
  else ((v.chunks.find? (fun e => off < e.start + e.plain && e.start < off + len)).map (fun e => e.start)).getD off

/-- The old chunk boundaries of a value. -/
def boundaries (v : ValueVer) : List Nat :=
  v.chunks.flatMap (fun e => [e.start, e.start + e.plain])

/-- The parts' recipes joined in part order (R138). -/
def joinParts (parts : List UploadPart) : Nat × List RecipeEntry :=
  parts.foldl (fun a p =>
    (a.1 + p.length, a.2 ++ p.val.chunks.map (fun e => { e with start := a.1 + e.start }))) (0, [])

/-- A value version with everything but its recipe fixed. -/
def newVer (t len : Nat) (live : Option ValueVer) (chunks : List RecipeEntry) (holes : List (Nat × Nat)) : ValueVer :=
  { time := t, live := true, length := len, inlined := none, inlineKey := 0, inlineIv := [], inlineTag := [], chunks := chunks, holes := holes,
    first := (live.map (fun v => v.first)).getD t }

/-- The inline value of an operation, with the key version, IV and tag that it was sealed under (R147). -/
def withInline (o : WriteOp) (v : ValueVer) : ValueVer :=
  { v with inlined := o.inlined, inlineKey := o.inlineKey, inlineIv := o.inlineIv, inlineTag := o.inlineTag }

/-- The new version that an operation gives a key at time t, over its live version. -/
def verOf (o : WriteOp) (entry t : Nat) (live : Option ValueVer) (chunks : List WChunk) : ValueVer :=
  let mine := entriesOf chunks entry
  match o.op with
  | .delete => { newVer t 0 none [] [] with live := false }
  | .punch =>
    match live with
    | none => newVer t 0 none [] []
    | some v =>
      let hi := min (o.offset + o.length) v.length
      let holes := addHole v.holes o.offset (hi - o.offset)
      { v with time := t, holes := holes, chunks := v.chunks.filter (fun e => !inHole holes e) }
  | .patch =>
    match live with
    | none => newVer t o.newLen none mine []
    | some v =>
      let holes := if v.length < o.offset then addHole v.holes v.length (o.offset - v.length) else cutHole v.holes o.offset o.length
      if o.inlined.isSome then withInline o (newVer t o.newLen live [] holes)
      else if v.length < o.offset then newVer t o.newLen live (v.chunks ++ mine) holes
      else
        newVer t o.newLen live
          (v.chunks.filter (fun e => e.start + e.plain ≤ o.restart) ++ mine ++ v.chunks.filter (fun e => o.cutPos ≤ e.start)) holes
  | _ => withInline o (newVer t o.length live mine [])

/-! ### Conditions (R63) -/

/-- The versions of a key that commits begun on the brick and not yet visible give it. -/
def State.pending_ (s : State) (ks : BitVec 32) (key : Bytes) : List ValueVer :=
  [Wy.w0, Wy.w1].flatMap (fun w => (s.wy w).relief.commits.flatMap (fun k =>
    (k.adds.filter (fun a => a.1 = ks && a.2.1 = key)).map (fun a => a.2.2)))

/-- The current live version of a key in the commit step, commits on their way included: of two conditional writes that race, the one
whose commit step comes second sees the first (R63, R67). -/
def State.current (s : State) (ks : BitVec 32) (key : Bytes) : Option ValueVer :=
  ((s.pending_ ks key).foldl (fun a v => match a with
    | none => some v
    | some b => if b.time < v.time then some v else some b) (s.latest ks key)).bind (fun v => if v.live then some v else none)

/-- The refusal of an operation by its condition, with the current version: none when it applies. A PATCH, a PUNCH or a
DELETE of a key with no live version is NOT_FOUND (R67, R69; PUNCH: DEDUCED, log 9). -/
def condFails (o : WriteOp) (live : Option ValueVer) : Option (Status × Nat) :=
  match live with
  | none => if o.flags.getLsbD 0 || o.op = .patch || o.op = .punch || o.op = .delete then some (.notFound, 0) else none
  | some v =>
    if o.flags.getLsbD 0 && v.time ≠ o.cond then some (.versionMismatch, v.time)
    else if o.flags.getLsbD 1 then some (.exists, v.time)
    else none

/-- The first operation whose condition fails: its index, the status and the current version (R76). -/
def firstFailure (s : State) (ks : BitVec 32) : Nat → List WriteOp → Option (Nat × Status × Nat)
  | _, [] => none
  | i, o :: rest =>
    match condFails o (s.current ks o.key) with
    | some (st, v) => some (i, st, v)
    | none => firstFailure s ks (i + 1) rest

/-! ### The hybrid clock (R112) -/

/-- Wait until the wythe's PTP time reads at least `t` microseconds: time passes inside the commit step (R112). -/
def State.waitClock (s : State) (w : Wy) (t : Nat) : State :=
  if s.ptpUs w < t then
    let n := s.now + (t - s.ptpUs w) * 1000
    ({ s with now := n }).modWy w (fun y =>
      { y with ptp := { y.ptp with value := (t * 1000 + 1577836837 * 1000000000) * 2 ^ 28, at_ := n } })
  else s

/-- The highest closed time that a wythe has published, or adopted for a partition that it homes (R120, R129, R130). -/
def State.closedTop (s : State) (w : Wy) : Nat :=
  (s.store.parts.filter (fun x => s.holder x.p = w)).foldl (fun a x => max a x.closed) (s.wy w).clk.closed

/-- The version of a commit step (R112): t = max(h + 1, p << 12), after waiting for its microsecond; h counts as no lower than the closed
times published, at or below which nothing commits (R120). -/
def State.nextVersion (s : State) (w : Wy) : Nat :=
  max (max (s.wy w).clk.hlc (s.closedTop w) + 1) (s.ptpUs w * 4096)

/-- The hybrid clock after a version has been assigned. -/
def State.assign (s : State) (w : Wy) : State :=
  let t := s.nextVersion w
  (s.waitClock w (t / 4096)).modClk w (fun c => { c with hlc := t })

/-! ### Records at the replica set (R116, R155, R156) -/

/-- The segments of a recipe with `n` chunk entries (R156). -/
def segmentsOf (n : Nat) : Nat := if n ≤ 1023 then 1 else (n + 1023) / 1024

/-- The closed time a wythe may publish: its PTP time less the closed lag with counter 0xFFF, and one less than the lowest
version of a commit begun and not yet visible (R120). -/
def State.closedNow (s : State) (w : Wy) : Nat :=
  let base := (s.ptpUs w - s.wall.settings.closedLagMs * 1000) * 4096 + 0xFFF
  let lo := (s.wy w).relief.commits.foldl (fun a c => if c.adds = [] then a else min a (c.version - 1)) base
  max lo (s.wy w).clk.closed

/-- The two standbys of a partition. -/
def State.standbys (s : State) (p : Nat) : List Nat :=
  match s.partEntry p with
  | some e => [e.standby1, e.standby2]
  | none => []

/-- Segment i of a version's recipe (R156): its chunk entries in value order; the hole entries stand in the first segment. -/
def segVer (n i : Nat) (v : ValueVer) : ValueVer :=
  if n ≤ 1 then v else { v with chunks := (v.chunks.drop (1024 * i)).take 1024, holes := if i = 0 then v.holes else [] }

/-- The key-index records of a commit as INDEX_PUT carries them, one for each segment (R156). -/
def idxSegs (c : Commit) : List IdxRec :=
  (List.range c.segments).map (fun i =>
    { staged := none, version := c.version, keyspace := c.keyspace, requestId := c.requestId, status := c.status, detail := c.detail,
      result := c.result, adds := c.adds.map (fun a => (a.2.1, segVer c.segments i a.2.2)), segment := i, segments := c.segments,
      counts := c.adds.map (fun a => a.2.2.chunks.length) })

/-- Write a record to the brick's own protected window (R20, R116), for the brick that sent it or for this one's own commit. A record that is
placed there already, of an earlier partition epoch, stays placed. -/
def State.storeRec (s : State) (p epoch home : Nat) (r : IdxRec) (ackTo : Option (Nat × Wy)) : State :=
  let rec_ : ReplRec := { p := p, epoch := epoch, home := home, content := r }
  let held := s.store.replRecs.any (fun x => x.p = p && x.content = r) && !s.indexWaits p r
  let s1 := s.modStore (fun t => { t with replRecs := t.replRecs.filter (fun x => ¬ (x.p = p ∧ x.content = r)) ++ [rec_] })
  let x := Placing.index p epoch r ackTo
  if held then s1.ackPlaced (s.holder p) x else s1.place (s.holder p) x

/-- Send a commit's record to both standbys, segment by segment (R116, R156). -/
def State.sendIndex (s : State) (w : Wy) (c : Commit) : State :=
  let e := ((s.partEntry c.part).map (fun x => x.epoch)).getD 0
  (s.standbys c.part).foldl (fun s b =>
    (idxSegs c).foldl (fun s r => s.toPart w b c.part (.indexPut c.part e (s.wy w).clk.closed r)) s) s

/-- Write a commit's record to the own window, each segment as a record of its own (R116, R156). -/
def State.storeCommit (s : State) (e : Nat) (c : Commit) : State :=
  (idxSegs c).foldl (fun s r => s.storeRec c.part e s.myId r none) s

/-- Begin the commit of a command: its record sets out, and the command has passed its start point (R89). -/
def State.beginCommit (s : State) (w : Wy) (id : Nat) (c : Commit) : State :=
  let s1 := s.modCmd w id (fun x => { x with phase := .committing })
  let e := ((s.partEntry c.part).map (fun x => x.epoch)).getD 0
  ((s1.modRelief w (fun r => { r with commits := r.commits ++ [c] })).storeCommit e c).sendIndex w c

/-- The RESULT of an OK completion of a write (R536). -/
def writeResult (c : Cmd) (len : Nat) : Nat :=
  match c.op with
  | .delete => 0
  | .batch => c.ops.length
  | _ => len

/-- The keys whose current versions a record without a version rests on: none for a step of an upload. -/
def seenKeys (c : Cmd) (st : Status) : List Bytes :=
  if st = .ok && (c.op = .putOpen || c.op = .putPart || c.op = .putClose) then []
  else if c.ops = [] then [c.key] else c.ops.map (fun o => o.key)

/-- A commit without a version: a refusal, or a step of an upload, recorded at the replica set (R100). -/
def bareCommit (c : Cmd) (st : Status) (d : Detail) (version result : Nat) : Commit :=
  { cmdId := c.id, part := cmdPart c, keys := seenKeys c st, version := version, adds := [], keyspace := c.cap.keyspace,
    requestId := c.cap.requestId, status := st, detail := d, result := result, segments := 1, acks := [], deltas := [] }

/-- The reference entries of one new version, chunk by chunk (R256, R257): CONFIRM for a chunk that this command sent, ADD for
an entry that needed no CHUNK_PUT. -/
def refsOf (c : Cmd) (v : ValueVer) : List DeltaEntry :=
  v.chunks.map (fun e =>
    match c.wchunks.zipIdx.find? (fun x => x.1.fp = e.fp && x.1.start = e.start && x.1.place = some e.place) with
    | some x => { fp := e.fp, kind := .confirm, chunk := x.2, requestId := c.cap.requestId, fragId := 0 }
    | none => { fp := e.fp, kind := .add, chunk := 0, requestId := c.cap.requestId, fragId := e.place.fragId })

/-- A PATCH with LENGTH zero, or a PUNCH whose clipped range is empty, changes nothing (R67, R68). -/
def emptyOp (o : WriteOp) (live : Option ValueVer) : Bool :=
  (o.op = .patch && o.length = 0) || (o.op = .punch && live.any (fun v => min (o.offset + o.length) v.length ≤ o.offset))

/-- The additions of a command's operations at version t, each over its key's current version; one that changes nothing adds none. -/
def addsOf (s : State) (c : Cmd) (t : Nat) : Nat → List WriteOp → List (BitVec 32 × Bytes × ValueVer)
  | _, [] => []
  | i, o :: rest =>
    let live := s.current c.cap.keyspace o.key
    if emptyOp o live then addsOf s c t (i + 1) rest
    else (c.cap.keyspace, o.key, verOf o i t live c.wchunks) :: addsOf s c t (i + 1) rest

/-- The commit of a command at the version that the hybrid clock gives (R155). -/
def State.commitAt (s : State) (w : Wy) (c : Cmd) (adds : Nat → List (BitVec 32 × Bytes × ValueVer)) : State :=
  let t := s.nextVersion w
  let a := adds t
  let n := a.foldl (fun m x => max m x.2.2.chunks.length) 0
  let len := (a.head?.map (fun x => x.2.2.length)).getD 0
  if maxRecipe < n then (s.endJobs w c.id).finish w c .tooLarge .none 0 0 0
  else
    let refs := a.flatMap (fun x => refsOf c x.2.2)
    let k : Commit :=
      { cmdId := c.id, part := cmdPart c, keys := a.map (fun x => x.2.1), version := t, adds := a, keyspace := c.cap.keyspace,
        requestId := c.cap.requestId, status := .ok, detail := .none, result := writeResult c len,
        segments := segmentsOf n, acks := [], deltas := refs }
    (s.assign w).beginCommit w c.id k

/-- A write that changes nothing commits no version and completes OK with the current version of its key, a BATCH with that of its first
key (log 201); the outcome is kept like any other (R67, R68). -/
def State.emptyWrite (s : State) (w : Wy) (c : Cmd) : State :=
  match (c.ops.head?).bind (fun o => s.current c.cap.keyspace o.key) with
  | some v => s.beginCommit w c.id (bareCommit c .ok .none v.time (if c.op = .batch then c.ops.length else v.length))
  | none => s

/-- Whether the wythe may assign a version for a partition: IN_SYNC, the lease held, not moving, not fenced (R115, R127,
R128, R130). -/
def State.mayCommit (s : State) (w : Wy) (p : Nat) : Bool :=
  (s.wy w).clk.inSync && s.leaseOk && !s.wall.stopping && (s.partSt p).any (fun x => x.opened && !x.fenced && !x.moving)

/-- The answer to a command that cannot start on its partition now: held while the brick's wythes pass the partition on (R98), and else what
the partition's state says: MOVING, REDIRECT or UNAVAILABLE (R115, R127, R130). -/
def State.notNow (s : State) (w : Wy) (c : Cmd) : State :=
  match s.checkHome w c.op c.cap (cmdPart c) with
  | some a =>
    let s1 := (s.endJobs w c.id).finish w c a.st a.detail a.cflags a.version a.result
    if a.st = .busyRetry then s1.used else s1
  | none =>
    if (s.partSt (cmdPart c)).any (fun x => !x.opened) && s.pausing then s.modCmd w c.id (fun x => { x with phase := .heldMove })
    else (s.endJobs w c.id).finish w c .unavailable .none 0 0 0

/-- The commit step of PUT, PATCH, PUNCH, DELETE and BATCH: every condition is evaluated, and either the refusal is
recorded or every operation commits at one version (R63, R76, R155). -/
def State.commitStep (s : State) (w : Wy) (c : Cmd) : State :=
  if !s.mayCommit w (cmdPart c) then s.notNow w c
  else
    match firstFailure s c.cap.keyspace 0 c.ops with
    | some (i, st, v) => s.beginCommit w c.id (bareCommit c st .none v (if c.op = .batch then i else 0))
    | none =>
      if addsOf s c 0 0 c.ops = [] then s.emptyWrite w c else s.commitAt w c (fun t => addsOf s c t 0 c.ops)

/-! ### Visibility (R116) -/

/-- Put a version into a history, which stands newest first; a version of the same time is replaced. -/
def insertVersion (v : ValueVer) : List ValueVer → List ValueVer
  | [] => [v]
  | x :: rest => if x.time < v.time then v :: x :: rest else if x.time = v.time then v :: rest else x :: insertVersion v rest

/-- Put a version into a key's history, in the order of versions (R117). -/
def addVersion (l : List KeyHist) (ks : BitVec 32) (key : Bytes) (v : ValueVer) : List KeyHist :=
  upsert (fun h => h.keyspace = ks && h.key = key) (fun h => { h with versions := insertVersion v h.versions })
    { keyspace := ks, key := key, versions := [v] } l

/-- The stripes that a completed write's chunks stand in: a FLUSH of its queue waits for them (R81, R103). -/
def State.noteStripes (s : State) (w : Wy) (c : Cmd) : State :=
  if c.q = goneQueue then s
  else s.modRelief w (fun r => { r with unsealed := r.unsealed ++ (c.wchunks.filter (fun x => !x.dropped)).filterMap (fun x =>
    x.place.map (fun p => (c.q, stripeOf p.fragId))) })

/-- A commit becomes visible: its versions enter the index, its outcome is kept, and its command completes (R116). -/
def State.makeVisible (s : State) (w : Wy) (k : Commit) : State :=
  let s1 := s.modRelief w (fun r => { r with commits := r.commits.filter (fun c => c ≠ k) })
  let s2 := s1.modStore (fun t => { t with index := k.adds.foldl (fun l a => addVersion l a.1 a.2.1 a.2.2) t.index })
  let s3 := s2.recordOutcome k.keyspace k.requestId (.done k.status k.version k.result k.detail)
  match (s3.wy w).relief.cmd k.cmdId with
  | some c => (s3.noteStripes w c).finish w c k.status k.detail 0 k.version k.result
  | none => ((s3.wakeOutcomes .w0).wakeOutcomes .w1).answerQueries

end Sys2Proof.Machine
end

