-- ==== Sys2Proof/Machine/ReadPath.lean ====
section
/-! DEFINITION. Reading the chunks of a value (05, R159-R164): the ranges asked of data members, of pending copies and, degraded, of k
other fragments; the decryption of a record; untrusted and lost chunks; repairs. GETs use it, and PATCHes for the old chunks that a
re-cut needs (R67). The rows are in Machine/Ingest.lean. -/

namespace Sys2Proof.Machine

/-! ### Chunks and delivery -/

/-- Change one chunk of a read. -/
def State.modRChunk (s : State) (w : Wy) (id n : Nat) (f : RChunk → RChunk) : State :=
  s.modCmd w id (fun c => { c with rchunks := c.rchunks.mapIdx (fun i x => if i = n then f x else x) })

/-- The end of the range that a GET delivers: the value's end, or what the buffer takes with PARTIAL_OK (R70). -/
def getEnd (c : Cmd) (v : ValueVer) : Nat := min v.length (c.cap.offset.toNat + c.cap.length.toNat)

/-- Place bytes of a value into the client buffer: only those of the requested range (R41, R159). One RDMA WRITE or DMA is
then unacknowledged. -/
def State.deliver (s : State) (w : Wy) (c : Cmd) (v : ValueVer) (start : Nat) (data : Bytes) : State :=
  let lo := max start c.cap.offset.toNat
  let hi := min (start + data.length) (getEnd c v)
  if hi ≤ lo then s
  else
    let bytes := sliceBytes (maskHoles v.holes start data) (lo - start) (hi - lo)
    let s1 := s.emit (.place w c.q (c.cap.bufAddr.toNat + (lo - c.cap.offset.toNat)) c.cap.bufRkey.toNat bytes)
    s1.modQueue w c.q (fun x => { x with dma := x.dma + 1 })

/-- Write result bytes of a command into its buffer. -/
def State.placeAll (s : State) (w : Wy) (c : Cmd) (data : Bytes) : State :=
  if data = [] then s
  else (s.emit (.place w c.q c.cap.bufAddr.toNat c.cap.bufRkey.toNat data)).modQueue w c.q
    (fun x => { x with dma := x.dma + 1 })

/-- The lowest value offset, not below the command's OFFSET, of the chunks in a stage. -/
def firstIn (c : Cmd) (st : RStage) : Option Nat :=
  (c.rchunks.filter (fun x => x.stage = st)).foldl (fun a x =>
    let p := max x.ent.start c.cap.offset.toNat
    match a with | none => some p | some q => some (min p q)) none

/-- The lowest offset a GET must not trust, over its untrusted chunks: the greater of the chunk's value offset and OFFSET
(R161). -/
def untrustedAt (c : Cmd) : Option Nat := firstIn c .untrusted

/-- The first lost offset of a GET (R162). -/
def lostAt (c : Cmd) : Option Nat := firstIn c .lost

/-- A chunk of a read is finished. -/
def rDone (x : RChunk) : Bool := x.stage = .delivered || x.stage = .untrusted || x.stage = .lost

/-- End a GET when it can: OK when every chunk is delivered; LOST when a chunk is lost; TAINTED once every chunk below the
first failing byte is delivered and verified (R70, R71, R161, R162). DESIGN CHOICE (log 197): the spec orders neither a lost chunk
against an untrusted one nor several lost ones; LOST wins over TAINTED, and the GET ends at once with the lowest lost offset known
then. -/
def State.endGet (s : State) (w : Wy) (id : Nat) : State :=
  match (s.wy w).relief.cmd id with
  | none => s
  | some c =>
    if c.op ≠ .get || c.phase ≠ .running then s
    else
      let v := (c.readVer.map (fun v => v.time)).getD 0
      let len := (c.readVer.map (fun v => v.length)).getD 0
      match lostAt c, untrustedAt c with
      | some p, _ => (s.endJobs w id).finish w c .lost .none 0 v p
      | none, some p =>
        if (c.rchunks.filter (fun x => x.ent.start < p)).all (fun x => x.stage = .delivered || p ≤ x.ent.start
            || x.stage = .untrusted)
        then (s.endJobs w id).finish w c .tainted .none 0 v p else s
      | none, none => if c.rchunks.all rDone then s.finish w c .ok .none 0 v len else s

/-- A chunk that a read cannot have is lost (R162): a GET ends LOST; a PATCH whose re-cut needs it ends LOST before its start point, with
the offset of the first lost byte (R67). -/
def State.endLost (s : State) (w : Wy) (id : Nat) : State :=
  match (s.wy w).relief.cmd id with
  | none => s
  | some c =>
    if c.op = .get then s.endGet w id
    else match c.rchunks.find? (fun x => x.stage = .lost) with
      | some _ =>
        let p := (c.rchunks.filter (fun x => x.stage = .lost)).foldl (fun a x => min a x.ent.start) (2 ^ 36)
        (s.endJobs w id).finish w c .lost .none 0 0 p
      | none => s

/-! ### Ranges (R151, R159, R160, R237, R243) -/

/-- The holder of a fragment by the bond table held: the brick at its position of its group's row (R243). -/
def State.holderOf (s : State) (f : Nat) : Option Nat :=
  (s.row (fragGroup f)).bind (fun r => r.pos[fragIndex f]?)

/-- The stretches of data fragments that hold a record (R151): fragment id, offset and length of each. -/
def segsOf (f : Nat) (p : Place) : List (Nat × Nat × Nat) :=
  let lo := fragIndex p.fragId * f + p.offset
  let hi := lo + p.length
  (List.range ((hi - 1) / f + 1 - lo / f)).map (fun j =>
    let i := lo / f + j
    let a := max lo (i * f)
    (stripeOf p.fragId + i, a - i * f, min hi ((i + 1) * f) - a))

/-- The cookie of a read: the command and the chunk, whose number stays below the 4,198,400 entries of a recipe (R156). -/
def readCookie (id n : Nat) : Nat := id % 2 ^ 33 * 2 ^ 23 + n

/-- The cookie of a repair. -/
def repairCookie : Nat := 2 * 2 ^ 56

/-- Send a RANGE_READ. -/
def State.sendRange (s : State) (w : Wy) (segs : List (Nat × Nat × Nat)) (purpose : Purpose) (cookie : Nat) (a : RangeAsk) : State :=
  match segs[a.seg]? with
  | none => s
  | some g => s.mortarOut w a.brick (wyOfGroup (fragGroup g.1))
      (.rangeRead (stripeOf g.1 + a.idx) g.2.1 g.2.2 a.pending purpose cookie)

/-- The ranges of a record asked of the data members at its fragments' indexes (R159). A position without a holder is asked of none, and
its time runs out. -/
def State.dataAsks (s : State) (segs : List (Nat × Nat × Nat)) : List RangeAsk :=
  segs.zipIdx.map (fun g =>
    { seg := g.2, idx := fragIndex g.1.1, brick := (s.holderOf g.1.1).getD 0xFFFF, pending := false, at_ := s.now })

/-- What is still to ask for a segment that its own fragment did not give: the same range of other fragments, until k are there or under
way (R160); none when too few can be read. `first` orders the fragments that can be asked. -/
def State.segAsks (s : State) (asked : List RangeAsk) (parts : List (Nat × Nat × Bytes)) (bad : List Nat) (first : List Nat → List Nat)
    (g : (Nat × Nat × Nat) × Nat) : Option (List RangeAsk) :=
  let ws := s.wall.settings
  let own := fragIndex g.1.1
  let here := (parts.filter (fun p => p.1 = g.2)).map (fun p => p.2.1)
  let out := (asked.filter (fun a => a.seg = g.2)).map (fun a => a.idx)
  if here.contains own || out.contains own then some []
  else
    let free := (List.range (ws.k + ws.m)).filter (fun i => i ≠ own && !bad.contains i && !here.contains i && !out.contains i)
    let asks := (first free).filterMap (fun i => (s.holderOf (stripeOf g.1.1 + i)).bind (fun b =>
      if s.isMember b then some ({ seg := g.2, idx := i, brick := b, pending := false, at_ := s.now } : RangeAsk) else none))
    let need := ws.k - here.length - out.length
    if asks.length < need then none else some (asks.take need)

/-- The further ranges of every segment; none when one of them cannot be had. -/
def State.moreAsks (s : State) (segs : List (Nat × Nat × Nat)) (asked : List RangeAsk) (parts : List (Nat × Nat × Bytes))
    (bad : List Nat) (first : List Nat → List Nat) : Option (List RangeAsk) :=
  segs.zipIdx.foldl (fun acc g => match acc, s.segAsks asked parts bad first g with
    | some a, some b => some (a ++ b)
    | _, _ => none) (some [])

/-- A segment's bytes, from its own fragment or decoded from k others (R160). -/
def segBytesOf (ws : WallSettings) (parts : List (Nat × Nat × Bytes)) (g idx : Nat) : Option Bytes :=
  let mine := (parts.filter (fun x => x.1 = g)).map (fun x => x.2)
  match mine.find? (fun x => x.1 = idx) with
  | some x => some x.2
  | none => rsDecode ws mine idx

/-- The whole record, once every segment is there. -/
def assemble (ws : WallSettings) (parts : List (Nat × Nat × Bytes)) (segs : List (Nat × Nat × Nat)) : Option Bytes :=
  segs.zipIdx.foldl (fun acc x => match acc, segBytesOf ws parts x.2 (fragIndex x.1.1) with
    | some a, some b => some (a ++ b)
    | _, _ => none) (some [])

/-! ### Records (R145, R146, R166) -/

/-- The additional data of a chunk record: bytes 4-15 and 32-63 of its header (R146). -/
def recordAad (rec_ : Bytes) : Bytes := sliceBytes rec_ 4 12 ++ sliceBytes rec_ 32 32

/-- MAGIC and the reserved byte, which no tag covers (R146), and room for a header and a tag. -/
def recordSane (rec_ : Bytes) : Bool :=
  decide (80 ≤ rec_.length) && ofLe (sliceBytes rec_ 0 4) = 0x47434B31 && ofLe (sliceBytes rec_ 17 1) = 0

/-- A record's decryption joins a course queue: its ciphertext, IV and tag, under the key version its header names (R145, R146). -/
def State.queueOpen (s : State) (w : Wy) (ref : JobRef) (c : Fin 16) (ks : BitVec 32) (prio : Nat) (rec_ : Bytes) : State :=
  let n := rec_.length - 80
  s.queueCrypt w ref c false ks (ofLe (sliceBytes rec_ 18 2)) prio (sliceBytes rec_ 64 n) (recordAad rec_) (sliceBytes rec_ 20 12)
    (sliceBytes rec_ (64 + n) 16)

/-- The priority of a chunk's decryption: 0 for a GET, 2 for the check of a degraded read (R166); 1 for an old chunk that a PATCH cuts
again, which R166 does not list (log 198). -/
def readPrio (c : Cmd) (x : RChunk) : Nat := if x.rebuilt then 2 else if c.op = .get then 0 else 1

/-! ### Repairs (R161, R162) -/

/-- Change a repair. -/
def State.modRepair (s : State) (n : Nat) (f : RepairRec → RepairRec) : State :=
  { s with stripes := { s.stripes with repairs := updFirst (fun r => r.n = n) f s.stripes.repairs } }

/-- The repair of a chunk. -/
def State.repairOf (s : State) (ent : RecipeEntry) : Option RepairRec := s.stripes.repairs.find? (fun r => r.ent = ent && r.ship.isNone)

/-- A lost chunk is reported to the lead of its group and to the armature, with a CRITICAL event (R162, R250). -/
def State.reportLost (s : State) (w : Wy) (place : Place) (fps : List Bytes) : State :=
  let x := fragIndex place.fragId * s.wall.settings.fragBytes + place.offset
  let b := MortarBody.lostReport (stripeOf place.fragId) x place.length fps false
  let g := fragGroup place.fragId
  let s1 := match s.leadOf g with
    | some l => s.mortarOut w l (wyOfGroup g) b
    | none => s
  (s1.toArmature w b).recordOpen (srcOf w) 3 (.med w) (leBytes 8 (stripeOf place.fragId))

/-- A chunk of a read is lost (R160, R162). -/
def State.loseChunk (s : State) (w : Wy) (c : Cmd) (n : Nat) (x : RChunk) : State :=
  ((s.modRChunk w c.id n (fun x => { x with stage := .lost, asked := [] })).reportLost w x.ent.place [x.ent.fp]).endLost w c.id

/-- The chunks of both wythes' commands that wait for the repair of a chunk. -/
def State.repairWaiters (s : State) (ent : RecipeEntry) : List (Wy × Cmd × Nat × RChunk) :=
  [Wy.w0, Wy.w1].flatMap (fun w => (s.wy w).relief.cmds.flatMap (fun c =>
    (c.rchunks.zipIdx.filter (fun x => x.1.stage = .repairing && x.1.ent = ent)).map (fun x => (w, c, x.2, x.1))))

/-- A repair has failed: the chunk is lost, and so are the reads that waited for it (R162). A record read for replication that cannot be
had is reported too. -/
def State.failRepair (s : State) (r : RepairRec) : State :=
  if r.ship.isSome then
    { s with stripes := { s.stripes with repairs := s.stripes.repairs.filter (fun x => x.n ≠ r.n) } }.reportLost r.w r.ent.place [r.ent.fp]
  else
  let s1 := (s.modRepair r.n (fun x => { x with st := .failed, asked := [], body := [] })).reportLost r.w r.ent.place [r.ent.fp]
  (s1.repairWaiters r.ent).foldl (fun s e => s.loseChunk e.1 e.2.1 e.2.2.1 e.2.2.2) s1

/-- Ask for what a repair still needs (R161, R162): other fragments than those the failing record was read from come first. -/
def State.pumpRepair (s : State) (n : Nat) : State :=
  match s.stripes.repairs.find? (fun r => r.n = n) with
  | none => s
  | some r =>
    let segs := segsOf s.wall.settings.fragBytes r.ent.place
    let first := fun l : List Nat => l.filter (fun i => !r.used.contains i) ++ l.filter (fun i => r.used.contains i)
    match s.moreAsks segs r.asked r.parts r.bad first with
    | none => s.failRepair r
    | some l => l.foldl (fun s a => s.sendRange r.w segs .repair (repairCookie + n) a)
        (s.modRepair n (fun r => { r with asked := r.asked ++ l }))

/-- Begin to gather a record outside a read (R161, R275): first the given ranges, then others of them in the stead of those that do not
come. -/
def State.gather (s : State) (r : RepairRec) : State :=
  let segs := segsOf s.wall.settings.fragBytes r.ent.place
  let s1 := { s with stripes := { s.stripes with repairs := s.stripes.repairs ++ [r] } }
  (r.asked.foldl (fun s a => s.sendRange r.w segs .repair (repairCookie + r.n) a) s1).pumpRepair r.n

/-- The number of the next record gathered outside a read. -/
def State.nextRepair (s : State) : Nat := s.stripes.repairs.foldl (fun a r => max a (r.n + 1)) 0

/-- Start the repair of a chunk (R161, R162). A record read from its data members is rebuilt from k others; one that was rebuilt for a
degraded read is rebuilt again from a set that includes the data member when that answers, and otherwise from another set. -/
def State.startRepair (s : State) (w : Wy) (ks : BitVec 32) (x : RChunk) : State :=
  if (s.repairOf x.ent).isSome then s
  else
    s.gather
      { n := s.nextRepair, ship := none, w := w, keyspace := ks, ent := x.ent,
        used := if x.rebuilt then (x.parts.map (fun p => p.2.1)).eraseDups else [], viaData := x.rebuilt,
        asked := if x.rebuilt then s.dataAsks (segsOf s.wall.settings.fragBytes x.ent.place) else [], parts := [], bad := [], body := [],
        st := .reading }

/-- Read a record for replication (R275). -/
def State.startShip (s : State) (w : Wy) (ks : BitVec 32) (ent : RecipeEntry) (dest : ShipTo) : State :=
  s.gather
    { n := s.nextRepair, ship := some dest, w := w, keyspace := ks, ent := ent, used := [], viaData := true,
      asked := s.dataAsks (segsOf s.wall.settings.fragBytes ent.place), parts := [], bad := [], body := [], st := .reading }

/-- A chunk of a read fails its tag, its decoding or its re-verification: its bytes are not trusted, and the repair starts (R161). A
PATCH waits for the rebuilt record (R67). Where a repair of it has already failed it is lost (R162). -/
def State.taint (s : State) (w : Wy) (c : Cmd) (n : Nat) (x : RChunk) : State :=
  if (s.repairOf x.ent).any (fun r => r.st = .failed) then s.loseChunk w c n x
  else
    let st := if c.op = .get then RStage.untrusted else .repairing
    ((s.modRChunk w c.id n (fun x => { x with stage := st, asked := [] })).startRepair w c.cap.keyspace x).endGet w c.id

/-- A record has arrived: MAGIC and byte 17 are checked, then it is decrypted (R146, R159). -/
def State.recordIn (s : State) (w : Wy) (c : Cmd) (n : Nat) (x : RChunk) (rec_ : Bytes) : State :=
  if !recordSane rec_ then s.taint w c n x
  else (s.modRChunk w c.id n (fun x => { x with stage := .decrypting, asked := [], body := rec_ })).queueOpen w (.readChunk c.id n)
    (courseOfQueue c.q) c.cap.keyspace (readPrio c x) rec_

/-! ### Fetching (R159, R160, R237) -/

/-- Fetch a chunk: from its rebuilt form while a repair of it is not complete (R161), else the record's byte range alone from the data
member of each fragment that it runs across (R151, R159). -/
def State.fetchChunk (s : State) (w : Wy) (c : Cmd) (n : Nat) (x : RChunk) : State :=
  match s.repairOf x.ent with
  | some r =>
    match r.st with
    | .rebuilt => s.recordIn w c n x r.body
    | .failed => s.loseChunk w c n x
    | _ => s.modRChunk w c.id n (fun x => { x with stage := .repairing })
  | none =>
    let segs := segsOf s.wall.settings.fragBytes x.ent.place
    let asks := s.dataAsks segs
    (asks.filter (fun a => a.brick ≠ 0xFFFF)).foldl (fun s a => s.sendRange w segs .client (readCookie c.id n) a)
      (s.modRChunk w c.id n (fun x => { x with stage := .fetching, asked := asks }))

/-- The planned chunks that a GET fetches next: in value order, while the plaintext under way fits its egress window, and always one
(R105, R159). -/
def nextFetches (window : Nat) : Nat → List (RChunk × Nat) → List (Nat × RChunk)
  | _, [] => []
  | busy, x :: rest =>
    if x.1.stage ≠ .planned then nextFetches window busy rest
    else if busy = 0 || busy + x.1.ent.plain ≤ window then (x.2, x.1) :: nextFetches window (busy + x.1.ent.plain) rest
    else []

/-- Start the fetches that a GET's egress window has room for. -/
def State.fetchMore (s : State) (w : Wy) (id : Nat) : State :=
  match (s.wy w).relief.cmd id with
  | none => s
  | some c =>
    if c.op ≠ .get || c.phase ≠ .running then s
    else
      let busy := (c.rchunks.filter (fun x => x.stage ≠ .planned && !rDone x)).foldl (fun a x => a + x.ent.plain) 0
      (nextFetches c.window busy c.rchunks.zipIdx).foldl (fun s e => s.fetchChunk w c e.1 e.2) s

/-- The bricks that may hold a pending copy: the acting lead, then the available bricks of positions k to k + m - 1 (R237). -/
def State.pendingBricks (s : State) (group : Nat) : List Nat :=
  let ws := s.wall.settings
  let par := ((s.row group).map (fun r => ((r.pos.take (ws.k + ws.m)).drop ws.k).filter (fun b => s.isMember b))).getD []
  ((s.leadOf group).toList ++ par).eraseDups

/-- The next brick to ask for a pending copy: the first, or the one after a brick that has been asked (R159, R237). -/
def State.pendingNext (s : State) (group : Nat) (after : Option Nat) : Option Nat :=
  let all := s.pendingBricks group
  match after with
  | none => all.head?
  | some b => if all.contains b then (all.drop (all.idxOf b + 1)).head? else none

/-- A chunk of a read turns to a degraded read. When fewer than k other fragments can be read, pending copies are looked for once (R159),
and then it is lost (R160). -/
def State.degrade (s : State) (w : Wy) (c : Cmd) (n : Nat) (x : RChunk) : State :=
  let segs := segsOf s.wall.settings.fragBytes x.ent.place
  match s.moreAsks segs x.asked x.parts x.bad id with
  | some l =>
    l.foldl (fun s a => s.sendRange w segs .client (readCookie c.id n) a)
      (s.modRChunk w c.id n (fun _ => { x with stage := .degraded, rebuilt := true, asked := x.asked ++ l }))
  | none =>
    match (if x.looked then none else s.pendingNext (fragGroup x.ent.place.fragId) none) with
    | none => s.loseChunk w c n x
    | some b =>
      let asks := segs.zipIdx.map (fun g =>
        ({ seg := g.2, idx := fragIndex g.1.1, brick := b, pending := true, at_ := s.now } : RangeAsk))
      asks.foldl (fun s a => s.sendRange w segs .client (readCookie c.id n) a)
        (s.modRChunk w c.id n (fun _ => { x with stage := .fetching, asked := asks, parts := [], looked := true }))

/-- A range asked for has not come: refused, unreadable or unanswered (R159, R160, R237). A holder named by NOT_HELD is asked; without one
the pending copies are, brick by brick; in the end, and where a data member is silent or cannot read, the chunk is read degraded. -/
def State.missRange (s : State) (w : Wy) (c : Cmd) (n : Nat) (x0 : RChunk) (a : RangeAsk) (notHeld : Bool) (holder : Nat) : State :=
  let x := { x0 with asked := x0.asked.filter (fun b => b ≠ a) }
  let segs := segsOf s.wall.settings.fragBytes x.ent.place
  let again := fun (b : RangeAsk) (looked : Bool) =>
    (s.modRChunk w c.id n (fun _ => { x with asked := x.asked ++ [b], looked := looked })).sendRange w segs .client (readCookie c.id n) b
  let bad := { x with bad := if a.pending then x.bad ++ [fragIndex x.ent.place.fragId] else x.bad ++ [a.idx] }
  if x.stage ≠ .fetching then s.degrade w c n bad
  else if notHeld && !a.pending && holder ≠ 0xFFFF then again { a with brick := holder, at_ := s.now } x.looked
  else if a.pending || notHeld then
    match s.pendingNext (fragGroup x.ent.place.fragId) (if a.pending then some a.brick else none) with
    | some b => again { a with brick := b, pending := true, at_ := s.now } true
    | none => s.degrade w c n { bad with looked := true }
  else s.degrade w c n bad

/-- A range has come: the record is whole once every segment is there, each from its own fragment or decoded from k others by a
Galois-field unit (R160). -/
def State.gotRange (s : State) (w : Wy) (c : Cmd) (n : Nat) (x0 : RChunk) (a : RangeAsk) (bytes : Bytes) : State :=
  let ws := s.wall.settings
  let segs := segsOf ws.fragBytes x0.ent.place
  let x := { x0 with
    asked := x0.asked.filter (fun b => b ≠ a)
    parts := x0.parts.filter (fun p => ¬ (p.1 = a.seg ∧ p.2.1 = a.idx)) ++ [(a.seg, a.idx, bytes)] }
  let s1 := s.modRChunk w c.id n (fun _ => x)
  match assemble ws x.parts segs with
  | none => s1
  | some r => (if x.rebuilt then s1.galois w (courseOfQueue c.q) else s1).recordIn w c n x r

/-- The range asked for that an answer of a brick belongs to. -/
def askFor (ws : WallSettings) (p : Place) (asked : List RangeAsk) (src f off : Nat) : Option RangeAsk :=
  let segs := segsOf ws.fragBytes p
  asked.find? (fun a => a.brick = src && a.idx = fragIndex f
    && segs[a.seg]?.any (fun g => stripeOf g.1 = stripeOf f && g.2.1 = off))

/-- A chunk entry that a GET, or an operation of a write, is to read. -/
def newRead (entry : Nat) (e : RecipeEntry) : RChunk :=
  { entry := entry, ent := e, stage := .planned, asked := [], parts := [], bad := [], looked := false, rebuilt := false, body := [], data := [] }

/-- Start the fetches of a GET: one for each chunk entry that overlaps the requested range, as far as the egress window reaches; bytes
under holes are written as zeros without a fetch (R159). -/
def State.startFetch (s : State) (w : Wy) (c : Cmd) (v : ValueVer) : State :=
  let lo := c.cap.offset.toNat
  let hi := getEnd c v
  let want := v.chunks.filter (fun e => e.start < hi && lo < e.start + e.plain)
  let s1 := s.modCmd w c.id (fun x => { x with rchunks := want.map (newRead 0), readVer := some v, phase := .running })
  let s2 := v.holes.foldl (fun s h => s.deliver w c v h.1 (zeroBytes h.2)) s1
  (s2.fetchMore w c.id).endGet w c.id

end Sys2Proof.Machine
end

