-- ==== Sys2Proof/Machine/WritePath.lean ====
section
/-! DEFINITION. The write pipeline of a home (05): the payload's ring in the window, the old bytes of a PATCH, cutting and
fingerprinting, credit, buffers, compression, encryption and dispatch to the leads, in the rank order of R108 and R153; and the commit
step that follows the last acknowledgement (R67, R89, R155). -/

namespace Sys2Proof.Machine

/-- Change one chunk of a write. -/
def State.modWChunk (s : State) (w : Wy) (id n : Nat) (f : WChunk → WChunk) : State :=
  s.modCmd w id (fun c => { c with wchunks := c.wchunks.mapIdx (fun i x => if i = n then f x else x) })

/-- Change one operation of a write. -/
def State.modOp (s : State) (w : Wy) (id n : Nat) (f : WriteOp → WriteOp) : State :=
  s.modCmd w id (fun c => { c with ops := c.ops.mapIdx (fun i x => if i = n then f x else x) })

/-! ### The payload's ring (R105, R153) -/

/-- The bytes of payload that a command's ring holds: its window; for a BATCH, whose window is taken before its payload is known (R76),
at least one chunk of the longest length (log 199). -/
def ringSize (c : Cmd) : Nat := if c.op = .batch then max c.window 262144 else c.window

/-- Ring bytes taken: pulled, or being pulled, and not yet released. -/
def ringUsed (c : Cmd) : Nat := c.ops.foldl (fun a o => a + (o.asked - o.released)) 0

/-- The operation whose payload is pulled next: the first one with payload still to ask for, once what it has asked for has come. -/
def nextPull (c : Cmd) : Option (WriteOp × Nat) :=
  match c.ops.zipIdx.find? (fun x => !x.1.pulled && x.1.data.length < x.1.length) with
  | some x => if x.1.asked = x.1.data.length then some x else none
  | none => none

/-- An RDMA READ or DMA read of payload sets out (R91, R153). -/
def State.issuePull (s : State) (w : Wy) (c : Cmd) (n addr rkey len : Nat) : State :=
  ((s.emit (.pull w c.q c.id n addr rkey len)).modRelief w (fun r => { r with pulls := r.pulls ++ [(c.id, n, c.q)] })).modQueue w c.q
    (fun x => { x with dma := x.dma + 1 })

/-- Pull as much payload as the ring has room for. -/
def State.pullMore (s : State) (w : Wy) (id : Nat) : State :=
  match (s.wy w).relief.cmd id with
  | none => s
  | some c =>
    match (if c.phase = .running then nextPull c else none) with
    | none => s
    | some (o, n) =>
      let k := min (o.length - o.asked) (ringSize c - ringUsed c)
      if k = 0 then s
      else (s.modOp w id n (fun o => { o with asked := o.asked + k })).issuePull w c n (o.bufAddr + o.asked) o.bufRkey k

/-- Payload bytes of a stretch of an operation's value: all of it, or a PATCH's overlap with its range. -/
def payloadIn (o : WriteOp) (start len : Nat) : Nat :=
  if o.op = .patch then min (start + len) (o.offset + o.length) - max start o.offset else len

/-- Window bytes of a stretch are released, and the pull goes on (R153). -/
def State.releaseRing (s : State) (w : Wy) (id n start len : Nat) : State :=
  (s.modOp w id n (fun o => { o with released := min o.asked (o.released + payloadIn o start len) })).pullMore w id

/-! ### The base of a PATCH (R67, R138) -/

/-- A PATCH built on a version: where its re-cut starts and what the new length is. An inline value that a PATCH beyond its end extends
is cut from byte 0, as a chunk of its own before the gap (log 200). -/
def based (o : WriteOp) (v : ValueVer) : WriteOp :=
  let st := if v.length < o.offset then (if v.inlined.isSome && v.length ≠ 0 then 0 else o.offset) else recutStart v o.offset o.length
  { o with
    base := some v, old := if v.inlined.isSome && v.length ≠ 0 then none else some [], restart := st, cutPos := st,
    newLen := max v.length (o.offset + o.length), cutDone := false, inlined := none }

/-- The end of the stretch that is being cut: the value's end, or the old end before a gap. -/
def stretchEnd (o : WriteOp) : Nat :=
  if o.op ≠ .patch then o.length
  else match o.base with
    | some v => if v.length < o.offset && o.cutPos < v.length then v.length else o.newLen
    | none => o.newLen

/-- The end of the bytes that decide the next cut: the longest chunk or the stretch's end (R136). -/
def cutHi (o : WriteOp) : Nat := min (stretchEnd o) (o.cutPos + 262144)

/-- A recipe entry overlaps a range. -/
def overlaps (e : RecipeEntry) (a b : Nat) : Bool := decide (a < b) && decide (e.start < b) && decide (a < e.start + e.plain)

/-- The old chunks that the next cut of a PATCH reads: those with bytes outside the patched range before the cut's end. -/
def oldWanted (o : WriteOp) : List RecipeEntry :=
  if o.op ≠ .patch then []
  else match o.base with
    | some v => v.chunks.filter (fun e => overlaps e o.cutPos (min (cutHi o) o.offset)
        || overlaps e (max o.cutPos (o.offset + o.length)) (cutHi o))
    | none => []

/-- The read of an old chunk for an operation. -/
def oldChunk (c : Cmd) (n : Nat) (e : RecipeEntry) : Option RChunk := c.rchunks.find? (fun x => x.entry = n && x.ent = e)

/-- A byte of the version that a PATCH is built on: zero under its holes (R138). -/
def oldAt (c : Cmd) (n : Nat) (o : WriteOp) (pos : Nat) : Byte :=
  match o.base with
  | none => 0
  | some v =>
    if v.holes.any (fun h => h.1 ≤ pos && pos < h.1 + h.2) then 0
    else match v.chunks.find? (fun e => e.start ≤ pos && pos < e.start + e.plain) with
      | some e => ((oldChunk c n e).map (fun x => x.data.getD (pos - e.start) 0)).getD 0
      | none => (o.old.getD []).getD pos 0

/-- The bytes of an operation's new value in a range: a PATCH lays its data over the old bytes. -/
def newBytes (c : Cmd) (n : Nat) (o : WriteOp) (lo hi : Nat) : Bytes :=
  if o.op ≠ .patch then sliceBytes o.data lo (hi - lo)
  else (List.range (hi - lo)).map (fun i =>
    let pos := lo + i
    if o.offset ≤ pos && pos < o.offset + o.length then o.data.getD (pos - o.offset) 0 else oldAt c n o pos)

/-- The value of an operation is stored inline (R135): a PUT of at most 4,096 bytes, or a PATCH to such a length of a value with no
chunks. -/
def inlineOp (o : WriteOp) : Bool :=
  (o.op = .put && decide (o.length ≤ 4096))
    || (o.op = .patch && decide (o.newLen ≤ 4096) && o.base.any (fun v => v.chunks = []))

/-- Everything that the next cut depends on is there. -/
def cutReady (c : Cmd) (n : Nat) (o : WriteOp) : Bool :=
  if o.op ≠ .patch then decide (cutHi o ≤ o.data.length)
  else o.old.isSome && (o.data.length = o.length || decide (cutHi o ≤ o.offset + o.data.length))
    && (oldWanted o).all (fun e => (oldChunk c n e).any (fun x => x.stage = .delivered))

/-- Read the old chunks that the next cut of a PATCH needs and that are not being read yet. -/
def State.wantOld (s : State) (w : Wy) (c : Cmd) (n : Nat) (o : WriteOp) : State :=
  let l := (oldWanted o).filter (fun e => (oldChunk c n e).isNone)
  let s1 := s.modCmd w c.id (fun c => { c with rchunks := c.rchunks ++ l.map (newRead n) })
  l.zipIdx.foldl (fun s e => s.fetchChunk w c (c.rchunks.length + e.2) (newRead n e.1)) s1

/-- The additional data of an inline value: keyspace id and value length, little-endian, and the key (R147). -/
def inlineAad (ks : BitVec 32) (len : Nat) (key : Bytes) : Bytes := leBytes 4 ks.toNat ++ leBytes 4 len ++ key

/-- Decrypt the inline value that a PATCH is built on; it reads as a write's own job, of priority 1 (log 198). -/
def State.openOld (s : State) (w : Wy) (c : Cmd) (n : Nat) (o : WriteOp) : State :=
  match o.base with
  | some v =>
    if o.old.isSome then s
    else s.queueCrypt w (.oldInline c.id n) (courseOfQueue c.q) false c.cap.keyspace v.inlineKey 1 (v.inlined.getD [])
      (inlineAad c.cap.keyspace v.length o.key) v.inlineIv v.inlineTag
  | none => s

/-! ### Cutting (R134-R136) -/

/-- The next stage that an operation can take: encryption into the record of a value that is stored inline, or the next cut on a
chunk-and-hash unit; a PATCH first reads the old chunks that the cut needs. -/
def State.advanceOp (s : State) (w : Wy) (id n : Nat) : State :=
  match (s.wy w).relief.cmd id with
  | none => s
  | some c =>
    match c.ops[n]? with
    | none => s
    | some o =>
      if c.phase ≠ .running || o.cutDone || o.inlined.isSome then s
      else if inlineOp o then
        let len := if o.op = .patch then o.newLen else o.length
        if !o.pulled || (o.op = .patch && o.old.isNone) || (s.wy w).cip.jobs.any (fun j => j.ref = .writeInline id n) then s
        else s.queueCrypt w (.writeInline id n) (courseOfQueue c.q) true c.cap.keyspace (curKey (s.wy w).cip c.cap.keyspace) 1
          (newBytes c n o 0 len) (inlineAad c.cap.keyspace len o.key) [] []
      else if (s.wy w).codec.any (isCodec .hash (.cut id n)) then s
      else if cutReady c n o then s.queueCodec w .hash (.cut id n) (courseOfQueue c.q)
      else s.wantOld w c n o

/-! ### Credit, buffers and dispatch (R108, R149-R153, R212) -/

/-- The 64-byte header of a chunk record (R145). -/
def recordHeader (ks : BitVec 32) (stored plain : Nat) (codec : Codec) (ver : Nat) (iv fp : Bytes) : Bytes :=
  leBytes 4 0x47434B31 ++ leBytes 4 ks.toNat ++ leBytes 4 stored ++ leBytes 4 plain ++ leBytes 1 (codecNum codec) ++ leBytes 1 0
    ++ leBytes 2 ver ++ padTo 12 iv ++ padTo 32 fp

/-- 64 KiB units of a body (R212). -/
def creditUnits (len : Nat) : Nat := (len + 65535) / 65536

/-- A chunk that has been cut obtains credit at its acting lead for the record, which is at most P + 80 bytes; the brick's own lead role
needs none (R153, R212). -/
def State.creditChunk (s : State) (w : Wy) (id n : Nat) : State :=
  match ((s.wy w).relief.cmd id).bind (fun c => c.wchunks[n]?) with
  | none => s
  | some x =>
    let g := groupOf s.wall.settings.groups x.fp
    match (if x.stage = .cut && !x.dropped then s.leadOf g else none) with
    | none => s
    | some b =>
      let u := if b = s.myId then 0 else creditUnits (x.data.length + 80)
      if creditTo (s.wy w).mortar b (wyOfGroup g) < u then s
      else (s.modMortar w (fun m => spendCredit m b (wyOfGroup g) u)).modWChunk w id n
        (fun x => { x with stage := .credited, lead := b, credit := u })

/-- The pool that serves a request now: the smallest that holds it, or one it falls back to, with a buffer available to it (R359,
R366). -/
def State.poolNow (s : State) (w : Wy) (r : BufReq) : Option Nat :=
  (poolFor r.size).bind (fun m => (List.range 6).find? (fun n => s.reaches w m n && s.availTo w n r && !s.queueAhead w n))

/-- The handle that a pool gives next. -/
def State.nextHandle (s : State) (w : Wy) (n : Nat) : Nat :=
  let p := s.pool w n
  let i := freeFrom p p.count (s.free % p.count)
  handleOf n (bufOf p i).gen i

/-- The additional data of a chunk's encryption: header bytes 4-15 and 32-63 (R146). -/
def chunkAad (ks : BitVec 32) (stored plain : Nat) (fp : Bytes) : Bytes :=
  recordAad (recordHeader ks stored plain .stored 0 [] fp)

/-- The stored bytes of a chunk are in its buffer: its window bytes are released, and it takes a crypt job of priority 1 (R153, R166). -/
def State.packed (s : State) (w : Wy) (c : Cmd) (n : Nat) (x : WChunk) (codec : Codec) (body : Bytes) : State :=
  let s1 := s.modWChunk w c.id n (fun x => { x with stage := .compressed, body := body, codec := codec })
  (s1.releaseRing w c.id x.entry x.start x.data.length).queueCrypt w (.writeChunk c.id n) (courseOfQueue c.q) true c.cap.keyspace
    (curKey (s.wy w).cip c.cap.keyspace) 1 body (chunkAad c.cap.keyspace body.length x.data.length x.fp) [] []

/-- A chunk with credit takes a buffer for the compressed output, large enough for either form of its record, once one is available, and
then its compression job; a chunk that is not compressed goes into the buffer as it is (R143, R153, log 199). -/
def State.bufferChunk (s : State) (w : Wy) (id n : Nat) : State :=
  match (s.wy w).relief.cmd id with
  | none => s
  | some c =>
    match c.wchunks[n]? with
    | none => s
    | some x =>
      let r : BufReq := { requester := bufOwner c, size := x.data.length + 80, wait := false, reserve := false, cookie := id }
      match (if x.stage = .credited && !x.dropped then s.poolNow w r else none) with
      | none => s
      | some p =>
        let h := s.nextHandle w p
        let s1 := (s.takeBuf w p r).modWChunk w id n (fun x => { x with stage := .compressing, buf := some h })
        if x.codec = .stored then s1.packed w c n x .stored x.data
        else s1.queueCodec w .compress (.writeChunk id n) (courseOfQueue c.q)

/-- Send a chunk record to the acting lead of its group within credit (R150, R212, R219): credit above what the record needs goes back;
a lead that has changed since needs credit of its own (log 199). Without a lead or without credit the record waits. -/
def State.sendChunk (s : State) (w : Wy) (c : Cmd) (n : Nat) (x : WChunk) : State :=
  let g := groupOf s.wall.settings.groups x.fp
  let s0 := s.modMortar w (fun m => returnCredit m x.lead (wyOfGroup g) x.credit)
  match s.leadOf g with
  | none => s
  | some b =>
    let u := if b = s.myId then 0 else creditUnits x.body.length
    if creditTo (s0.wy w).mortar b (wyOfGroup g) < u then s0.modWChunk w c.id n (fun x => { x with credit := 0 })
    else
      let first := if x.stage = .sent then x.firstSent else s.now
      ((s0.modMortar w (fun m => spendCredit m b (wyOfGroup g) u)).mortarOut w b (wyOfGroup g)
        (.chunkPut g (cmdPart c) c.cap.requestId n x.body)).modWChunk w c.id n
        (fun x => { x with stage := .sent, lead := b, credit := 0, firstSent := first, lastSent := s.now })

/-- A record that waits for credit or for a lead is sent once it can be. -/
def State.shipChunk (s : State) (w : Wy) (id n : Nat) : State :=
  match (s.wy w).relief.cmd id with
  | none => s
  | some c =>
    match c.wchunks[n]? with
    | none => s
    | some x => if x.stage = .encrypted && !x.dropped then s.sendChunk w c n x else s

/-- A chunk takes the resources that it waits for, in their rank order (R108, R153). -/
def State.pumpChunk (s : State) (w : Wy) (id n : Nat) : State :=
  ((s.creditChunk w id n).bufferChunk w id n).shipChunk w id n

/-- Every chunk of a wythe that waits for credit, a buffer or a lead looks again, oldest first. -/
def State.pumpWrites (s : State) (w : Wy) : State :=
  ((s.wy w).relief.cmds.filter (fun c => c.phase = .running)).foldl (fun s c =>
    (List.range c.wchunks.length).foldl (fun s n => s.pumpChunk w c.id n) s) s

/-! ### Towards the commit step (R67, R89, R155) -/

/-- Every stage before the commit step of a write is done (R89, R155). -/
def readyToCommit (c : Cmd) : Bool :=
  c.phase = .running && c.ops ≠ [] && c.ops.all (fun o => o.pulled && o.cutDone)
    && c.wchunks.all (fun x => x.dropped || x.stage = .acked)

/-- Record a part in its upload and commit the step (R65, R89): a second part of a number replaces the first. The upload's total is held
to 64 GiB again, over the parts received meanwhile; an upload closed, aborted or discarded meanwhile is unknown (R66). -/
def State.commitPart (s : State) (w : Wy) (c : Cmd) (o : WriteOp) : State :=
  let mine := fun u : Upload => u.id = c.cap.offset.toNat && u.keyspace = c.cap.keyspace && u.key = c.key
  let num := c.cap.aux.toNat
  match (s.wy w).relief.uploads.find? mine with
  | none => s.finish w c .badFormat .uploadUnknown 0 0 0
  | some u =>
    let others := (u.parts.filter (fun p => p.num ≠ num)).foldl (fun a p => a + p.length) 0
    if maxValue < others + o.length then s.finish w c .tooLarge .none 0 0 0
    else if !s.mayCommit w (cmdPart c) then s.notNow w c
    else
      let v := { verOf o 0 0 none c.wchunks with length := o.length }
      let part : UploadPart := { num := num, length := o.length, val := v }
      let put := fun l : List UploadPart => tablePut ((l.map (fun p => (p.num, p)))) num part
      let s1 := s.modRelief w (fun r => { r with
        uploads := updFirst mine (fun u => { u with parts := (put u.parts).map (fun e => e.2) }) r.uploads })
      s1.beginCommit w c.id (bareCommit c .ok .none 0 o.length)

/-- The operations of a write whose base has been overtaken by a newer live version (R67). -/
def State.staleOps (s : State) (c : Cmd) : List (Nat × ValueVer) :=
  c.ops.zipIdx.filterMap (fun x =>
    if x.1.op ≠ .patch || x.1.base.isNone then none
    else (s.current c.cap.keyspace x.1.key).bind (fun v =>
      if x.1.base.map (fun b => b.time) = some v.time then none else some (x.2, v)))

/-- A PATCH whose base has been overtaken takes the new live version as its base and is cut again: its chunks fall away with their
pending references (R67, R90). -/
def State.rebase (s : State) (w : Wy) (id n : Nat) (v : ValueVer) : State :=
  match (s.wy w).relief.cmd id with
  | none => s
  | some c =>
    match c.ops[n]? with
    | none => s
    | some o =>
      let o2 := based o v
      if maxValue < o2.newLen then (s.endJobs w id).finish w c .tooLarge .none 0 0 0
      else
        let mine := c.wchunks.zipIdx.filter (fun x => x.1.entry = n && !x.1.dropped)
        let lapse := mine.map (fun x =>
          ({ fp := x.1.fp, kind := .cancel, chunk := x.2, requestId := c.cap.requestId, fragId := 0 } : DeltaEntry))
        let s0 := mine.foldl (fun s x => (s.endRef w (.writeChunk id x.2)).freeChunk w c x.1) (s.endRef w (.cut id n))
        let s1 := s0.modCmd w id (fun c => { c with
          wchunks := updAll (fun x => x.entry = n) (fun x => { x with dropped := true, buf := none, credit := 0 }) c.wchunks })
        (((s1.addDeltas (cmdPart c) lapse).modOp w id n (fun _ => o2)).openOld w c n o2).advanceOp w id n

/-- What a write does when its last stage ends: the commit step of its opcode, after any PATCH that is not built on the current version
has been cut again. -/
def State.stepOn (s : State) (w : Wy) (id : Nat) : State :=
  match (s.wy w).relief.cmd id with
  | none => s
  | some c =>
    if !readyToCommit c then s
    else match c.op, c.ops with
      | .putPart, [o] => s.commitPart w c o
      | _, _ =>
        match s.staleOps c with
        | [] => s.commitStep w c
        | l => l.foldl (fun s x => s.rebase w id x.1 x.2) s

/-- Begin an operation: PUNCH and DELETE have no payload; immediate bytes are there at once; other payload is pulled (R41, R64, R67). A
PATCH with LENGTH zero changes nothing. -/
def State.beginOp (s : State) (w : Wy) (c : Cmd) (n : Nat) (o : WriteOp) (imm : Bytes) (addr rkey : Nat) : State :=
  if o.op = .punch || o.op = .delete || (o.op = .patch && o.length = 0) then
    s.modOp w c.id n (fun o => { o with pulled := true, cutDone := true })
  else if o.op = .put && o.length = 0 then
    s.modOp w c.id n (fun o => { o with pulled := true, cutDone := true, inlined := some [] })
  else if imm ≠ [] then
    ((s.modOp w c.id n (fun o => { o with data := imm, pulled := true })).openOld w c n o).advanceOp w c.id n
  else
    (((s.modOp w c.id n (fun o => { o with bufAddr := addr, bufRkey := rkey })).openOld w c n o).pullMore w c.id).advanceOp w c.id n

/-- Start the operations of a write, each with its immediate bytes and its buffer. A write with a condition that fails pulls nothing and
goes at once to the commit step (R155). -/
def State.startOps (s : State) (w : Wy) (c : Cmd) (l : List (WriteOp × Bytes × Nat × Nat)) : State :=
  let ops := l.map (fun x => match x.1.op, s.live c.cap.keyspace x.1.key with
    | .patch, some v => based x.1 v
    | _, _ => x.1)
  let c1 := { c with ops := ops, phase := .running }
  let s1 := s.modCmd w c.id (fun x => { x with ops := ops, phase := .running })
  if (firstFailure s c.cap.keyspace 0 ops).isSome && c.op ≠ .putPart then s1.commitStep w c1
  else if ops.any (fun o => o.op = .patch && maxValue < o.newLen) then s.finish w c .tooLarge .none 0 0 0
  else
    ((l.zip ops).zipIdx.foldl (fun s x => s.beginOp w c1 x.2 x.1.2 x.1.1.2.1 x.1.1.2.2.1 x.1.1.2.2.2) s1).stepOn w c.id

end Sys2Proof.Machine
end

