-- ==== Sys2Proof/Machine/Pipeline.lean ====
section
/-! DEFINITION. The start of each command when it is dispatched (R106): writes, uploads, reads, the partition map, casts and
outcomes. The pipelines themselves are in Machine/WritePath.lean and Machine/ReadPath.lean. -/

namespace Sys2Proof.Machine

/-! ### Starting a write -/

/-- An operation with nothing done yet. -/
def opOf (op : Opcode) (key : Bytes) (flags : BitVec 16) (cond off len : Nat) : WriteOp :=
  { op := op, key := key, flags := flags, cond := cond, offset := off, length := len, data := [], asked := 0, released := 0,
    bufAddr := 0, bufRkey := 0, pulled := false, base := none, old := none, inlined := none, inlineKey := 0, inlineIv := [],
    inlineTag := [], cutPos := 0, restart := 0, newLen := len, cutDone := false }

/-- The operation of a single write command. -/
def cmdOp (c : Cmd) : WriteOp :=
  opOf c.op c.key c.cap.flags c.cap.version.toNat c.cap.offset.toNat c.cap.length.toNat

/-- Start a write of one operation: PUT, PUT_PART or PATCH, its payload in the client buffer or immediate (R41, R64, R67). -/
def State.startOne (s : State) (w : Wy) (c : Cmd) : State :=
  s.startOps w c [(cmdOp c, c.imm, c.cap.bufAddr.toNat, c.cap.bufRkey.toNat)]

/-- The upload a PUT_PART or PUT_CLOSE names: keyspace, key and id together (R66). -/
def State.uploadOf (s : State) (w : Wy) (c : Cmd) : Option Upload :=
  (s.wy w).relief.uploads.find? (fun u => u.id = c.cap.offset.toNat && u.keyspace = c.cap.keyspace && u.key = c.key)

/-- Start a PUT_PART (R65, R66). -/
def State.startPart (s : State) (w : Wy) (c : Cmd) : State :=
  match s.uploadOf w c with
  | none => s.finish w c .badFormat .uploadUnknown 0 0 0
  | some u =>
    let others := (u.parts.filter (fun p => p.num ≠ c.cap.aux.toNat)).foldl (fun a p => a + p.length) 0
    if maxValue < others + c.cap.length.toNat then s.finish w c .tooLarge .none 0 0 0 else s.startOne w c

/-- The refusal of a PUT_CLOSE by its parts (R65): a part between 1 and N missing or one above N received, or the lowest
part below N that is shorter than 1 MiB. -/
def closeFails (u : Upload) (n : Nat) : Option (Detail × Nat) :=
  let have_ := fun i => u.parts.any (fun p => p.num = i)
  if !((List.range n).all (fun i => have_ (i + 1))) || u.parts.any (fun p => n < p.num) then some (.partMissing, 0)
  else match u.parts.find? (fun p => p.num < n && p.length < 1048576) with
    | some p => some (.partSize, p.num)
    | none => none

/-- A PUT_PART of the same upload is still running (R66). -/
def State.partRunning (s : State) (w : Wy) (c : Cmd) : Bool :=
  (s.wy w).relief.cmds.any (fun x => x.op = .putPart && x.id < c.id && x.cap.offset = c.cap.offset
    && x.cap.keyspace = c.cap.keyspace && x.key = c.key && (x.phase = .running || x.phase = .committing))

/-- Discard an upload. -/
def State.dropUpload (s : State) (w : Wy) (id : Nat) : State :=
  s.modRelief w (fun r => { r with uploads := r.uploads.filter (fun u => u.id ≠ id) })

/-- Run a PUT_CLOSE (R65, R66): it waits while a part of the upload runs; ABORT discards; a refused condition leaves the
upload open; otherwise parts 1 to N commit, joined in number order, as one version. -/
def State.startClose (s : State) (w : Wy) (c : Cmd) : State :=
  match s.uploadOf w c with
  | none => s.finish w c .badFormat .uploadUnknown 0 0 0
  | some u =>
    if s.partRunning w c then s.modCmd w c.id (fun x => { x with phase := .running })
    else if !s.mayCommit w (cmdPart c) then s.notNow w c
    else if capFlag c.cap 7 then
      (s.dropUpload w u.id).beginCommit w c.id (bareCommit c .ok .none 0 0)
    else
      match closeFails u c.cap.aux.toNat with
      | some (d, r) => s.finish w c .badFormat d 0 0 r
      | none =>
        match condFails (cmdOp c) (s.current c.cap.keyspace c.key) with
          | some (st, v) => s.beginCommit w c.id (bareCommit c st .none v 0)
          | none =>
            let j := joinParts u.parts
            let live := s.current c.cap.keyspace c.key
            (s.dropUpload w u.id).commitAt w c (fun t => [(c.cap.keyspace, c.key, newVer t j.1 live j.2 [])])

/-- An upload id not in use: the spec leaves the ids to the brick, so a free value, moved past the ids in use if it is
one of them (log 11). -/
def freshUpload (v : Nat) (l : List Upload) : Nat :=
  if l.any (fun u => u.id = v) then l.foldl (fun a u => max a u.id) v + 1 else v

/-- Run a PUT_OPEN (R65). -/
def State.startOpen (s : State) (w : Wy) (c : Cmd) : State :=
  let l := (s.wy w).relief.uploads
  if 4096 ≤ l.length then (s.finish w c .busyRetry .uploadLimit 0 0 s.free).used
  else if !s.mayCommit w (cmdPart c) then s.notNow w c
  else
    let id := freshUpload s.free l
    let u : Upload := { id := id, keyspace := c.cap.keyspace, key := c.key, openedAt := s.now, parts := [] }
    let s1 := s.used.modRelief w (fun r => { r with uploads := r.uploads ++ [u] })
    s1.beginCommit w c.id (bareCommit c .ok .none 0 id)

/-- Run a PUNCH or a DELETE (R68, R69). -/
def State.startPlain (s : State) (w : Wy) (c : Cmd) : State :=
  let ops := [{ cmdOp c with pulled := true, cutDone := true }]
  (s.modCmd w c.id (fun c => { c with ops := ops })).commitStep w { c with ops := ops }

/-! ### The read pipeline -/

/-- The version a GET, STAT or LIST reads of a key: live, at a time, or at a cast (R70, R72). -/
def State.readAt (s : State) (c : Cmd) (key : Bytes) : Option ValueVer :=
  if capFlag c.cap 2 || capFlag c.cap 3 then s.liveAt c.cap.keyspace key c.castTime
  else s.live c.cap.keyspace key

/-- Run a GET (R70, R158, R159). -/
def State.startGet (s : State) (w : Wy) (c : Cmd) : State :=
  match s.readAt c c.key with
  | none => s.finish w c .notFound .none 0 0 0
  | some v =>
    let off := c.cap.offset.toNat
    let len := c.cap.length.toNat
    if v.length < off then s.finish w c .badFormat .range 0 0 0
    else if off = v.length then s.finish w c .ok .none 0 v.time v.length
    else if off + len < v.length && !capFlag c.cap 6 then s.finish w c .shortBuffer .none 0 0 (v.length - off)
    else match v.inlined with
      | some body =>
        if v.length = 0 then s.finish w c .ok .none 0 v.time 0
        else (s.modCmd w c.id (fun x => { x with readVer := some v, phase := .running })).queueCrypt w
          (.readInline c.id) (courseOfQueue c.q) false c.cap.keyspace v.inlineKey 0 body (inlineAad c.cap.keyspace v.length c.key)
          v.inlineIv v.inlineTag
      | none => s.startFetch w c v

/-- The 64-byte STAT record (R73). -/
def statRecord (v : ValueVer) : Bytes :=
  let stored := if v.inlined.isSome then v.length else v.chunks.foldl (fun a e => a + (e.place.length - 80)) 0
  beBytes 8 v.time ++ beBytes 8 v.length ++ beBytes 8 stored ++ beBytes 4 v.chunks.length
    ++ beBytes 1 (b2n v.inlined.isSome + 2 * b2n (v.holes ≠ [])) ++ zeroBytes 3 ++ beBytes 8 v.first ++ zeroBytes 24

/-- Run a STAT (R73). -/
def State.startStat (s : State) (w : Wy) (c : Cmd) : State :=
  match s.readAt c c.key with
  | none => s.finish w c .notFound .none 0 0 0
  | some v =>
    let len := c.cap.length.toNat
    if len = 0 then s.finish w c .ok .none 0 v.time v.length
    else if len < 64 then s.finish w c .shortBuffer .none 0 0 64
    else (s.placeAll w c (statRecord v)).finish w c .ok .none 0 v.time v.length

/-- A LIST entry (R74). -/
def listEntry (key : Bytes) (v : ValueVer) : Bytes :=
  beBytes 2 key.length ++ zeroBytes 6 ++ beBytes 8 v.time ++ beBytes 8 v.length ++ padTo (roundUp key.length 8) key

/-- Insert into a list of keys in key order (R52). -/
def insertKey (e : Bytes × ValueVer) : List (Bytes × ValueVer) → List (Bytes × ValueVer)
  | [] => [e]
  | x :: rest => if keyLt e.1 x.1 then e :: x :: rest else x :: insertKey e rest

/-- Take entries while they fit the buffer and the count. -/
def takeEntries : Nat → Nat → List (Bytes × ValueVer) → List Bytes
  | 0, _, _ => []
  | _, _, [] => []
  | n + 1, room, e :: rest =>
    let b := listEntry e.1 e.2
    if b.length ≤ room then b :: takeEntries n (room - b.length) rest else []

/-- Run a LIST (R74). -/
def State.startList (s : State) (w : Wy) (c : Cmd) : State :=
  let p := bits c.cap.aux.toNat 15 0
  let m := bits c.cap.aux.toNat 31 16
  let most := if m = 0 then 1024 else m
  let all := s.store.index.filterMap (fun h =>
    if h.keyspace = c.cap.keyspace && partOf h.keyspace h.key = p && (c.key = [] || keyLt c.key h.key)
    then (s.readAt c h.key).map (fun v => (h.key, v)) else none)
  let sorted := all.foldl (fun l e => insertKey e l) []
  let got := takeEntries most c.cap.length.toNat sorted
  match sorted with
  | [] => s.finish w c .ok .none 0 0 0
  | e :: _ =>
    if got = [] then s.finish w c .shortBuffer .none 0 0 (listEntry e.1 e.2).length
    else
      let bytes := got.flatten
      (s.placeAll w c bytes).finish w c .ok .none (b2n (got.length < sorted.length)) 0
        (got.length * 2 ^ 32 + bytes.length)

/-! ### The partition map (R55-R57, R61, R62) -/

/-- Run a MAP_GET (R62). -/
def State.startMapGet (s : State) (w : Wy) (c : Cmd) : State :=
  let m := s.store.map
  let total := mapLen m
  let off := c.cap.offset.toNat
  let len := c.cap.length.toNat
  let v := c.cap.version.toNat
  if v ≠ 0 && v ≠ m.version then s.finish w c .versionMismatch .none 0 m.version (total * 2 ^ 32)
  else if total < off then s.finish w c .badFormat .range 0 0 0
  else if off = total then s.finish w c .ok .none 0 m.version (total * 2 ^ 32)
  else if off + len < total && !capFlag c.cap 6 then s.finish w c .shortBuffer .none 0 0 total
  else
    let n := min len (total - off)
    (s.placeAll w c (sliceBytes (mapBytes m) off n)).finish w c .ok .none 0 m.version (total * 2 ^ 32 + n)

/-- The port addresses of a wythe of this brick, as the map lists them. -/
def State.myAddrs (s : State) (w : Wy) : List (BitVec 128) :=
  (s.wy w).ports.map (fun p => if p.reported then 0 else p.addr)

/-- Ports per wythe, 2 or 4: the port mode, which applies to both wythes (R370, R371). -/
def State.myPorts (s : State) : Nat := if (s.wy .w0).portMode = 2 || (s.wy .w1).portMode = 2 then 2 else 4

/-- The 256-byte HELLO reply (R61). -/
def State.helloReply (s : State) (w : Wy) (x : Queue) : Bytes :=
  let mtu := match x.transport with | .roce m _ => m | .pcie _ => 0
  beBytes 2 1 ++ beBytes 2 (s.rfld (.glb w) GLB_FW_LEVEL 15 0) ++ beBytes 2 s.myId ++ beBytes 1 w.num
    ++ beBytes 1 s.myPorts ++ beBytes 4 s.wall.epoch ++ beBytes 4 s.store.map.version ++ beBytes 2 x.epoch.toNat
    ++ beBytes 2 32 ++ beBytes 2 1024 ++ beBytes 2 4096 ++ beBytes 4 mtu ++ beBytes 4 s.wall.settings.retainS
    ++ beBytes 4 50 ++ beBytes 4 2000 ++ beBytes 4 40000 ++ beBytes 4 s.wall.settings.epsUs
    ++ beBytes 8 (s.hybrid w) ++ zeroBytes 8 ++ addrBytes (s.myAddrs w) ++ addrBytes (s.myAddrs w.peer) ++ zeroBytes 64

/-- Run a HELLO (R61). -/
def State.startHello (s : State) (w : Wy) (c : Cmd) : State :=
  if c.cap.length.toNat < 256 then s.finish w c .shortBuffer .none 0 0 256
  else match (s.wy w).relief.queue c.q with
    | none => s
    | some x => (s.placeAll w c (s.helloReply w x)).finish w c .ok .none 0 0 256

/-! ### Casts and outcomes -/

/-- Pass a CAST to the armature: its start point (R89, R124). -/
def State.startCast (s : State) (w : Wy) (c : Cmd) : State :=
  (s.modCmd w c.id (fun x => { x with phase := .armature })).toArmature w
    (.castRequest c.cap.keyspace c.castTime c.cap.requestId)

/-- Pass a CAST_DROP to the armature (R78, R89). -/
def State.startCastDrop (s : State) (w : Wy) (c : Cmd) : State :=
  (s.modCmd w c.id (fun x => { x with phase := .armature })).toArmature w
    (.castDropReq c.cap.aux.toNat c.cap.keyspace c.cap.requestId)

/-- Where a brick that does not lead the armature asks for the cast registry: the leader, or a member. -/
def State.registryAt (s : State) : Option Nat := s.wall.arm.leader <|> s.wall.arm.members.head?

/-- A CAST or CAST_DROP of a request id is on its way through the armature (R101). -/
def State.castRunning (s : State) (ks : BitVec 32) (rid : BitVec 64) : Bool :=
  s.store.casts.any (fun c => c.keyspace = ks && c.requestId = rid && !c.ready)
    || (s.wall.arm.role = .leader && s.wall.asks.any (fun a => a.keyspace = ks && a.requestId = rid))

/-- The OUTCOMEs with no key whose answer the cast registry now gives (R80, R101). -/
def State.answerAsked (s : State) (w : Wy) : State :=
  ((s.wy w).relief.cmds.filter (fun c => c.phase = .asking && !s.castRunning c.cap.keyspace c.cap.version)).foldl
    (fun s c => s.answerOutcome w c (s.outcomeFor c)) s

/-- Run an OUTCOME: it waits while the queried command is queued or running (R101). One with no key asks for the armature's outcomes, which
the brick has from the cast registry; a brick that does not lead the armature fetches that first (R80, log 226). -/
def State.startOutcome (s : State) (w : Wy) (c : Cmd) : State :=
  if s.ridRunning c.cap.keyspace c.cap.version c.id w then s.modCmd w c.id (fun x => { x with phase := .running })
  else if c.key ≠ [] then s.answerOutcome w c (s.outcomeFor c)
  else
    let s1 := s.modCmd w c.id (fun x => { x with phase := .asking })
    if s.wall.arm.role = .leader then s1.answerAsked w
    else match s.registryAt with
      | some b => s1.mortarOut w b w (.stateGet .casts 0 0 1048576)
      | none => s.answerOutcome w c (s.outcomeFor c)

/-! ### Dispatch (R106) -/

/-- Start an admitted command. -/
def State.dispatch (s : State) (w : Wy) (c : Cmd) : State :=
  match c.op with
  | .hello => s.startHello w c
  | .mapGet => s.startMapGet w c
  | .put | .patch => s.startOne w c
  | .putOpen => s.startOpen w c
  | .putPart => s.startPart w c
  | .putClose => s.startClose w c
  | .punch => s.startPlain w c
  | .delete => s.startPlain w c
  | .get => s.startGet w c
  | .stat => s.startStat w c
  | .list => s.startList w c
  | .batch => (s.modCmd w c.id (fun x => { x with phase := .pulling })).issuePull w c 0 c.cap.bufAddr.toNat c.cap.bufRkey.toNat
      c.cap.length.toNat
  | .cast => s.startCast w c
  | .castDrop => s.startCastDrop w c
  | .outcome => s.startOutcome w c
  | .flush => s
  | .subscribe =>
    (s.modQueue w c.q (fun x => { x with mask := BitVec.ofNat 9 c.cap.aux.toNat })).finish w c .ok .none 0 0 0

end Sys2Proof.Machine
end

