-- ==== Sys2Proof/Machine/Arrival.lean ====
section
/-! DEFINITION. The arrival of a command: the checks made before it is accepted, in one order (R40, R43-R45, R47, R52, R53, R58-R60,
R79, R88, R98, R127, R130; the order among refusals is DEDUCED, log 13), holding (R103, R110, R121), the early condition check
(R155), and admission (R105-R107). -/

namespace Sys2Proof.Machine

/-! ### Answers to a command that is not accepted -/

/-- BAD_FORMAT with a detail. -/
def bad (d : Detail) : Option Ans := some (refusal .badFormat d)

/-- Answer a capsule on a queue at once: the completion carries the queue's current epoch (R88). -/
def State.answer (s : State) (w : Wy) (q : Nat) (tag : Nat) (rid : BitVec 64) (a : Ans) : State :=
  match (s.wy w).relief.queue q with
  | none => s
  | some x =>
    let s1 := if a.st = .epochStale then s.bump (.rlf w) RLF_CNT_EPOCH_STALE else s
    let s2 := if a.detail = .tagInUse then s1.bump (.rlf w) RLF_CNT_TAG_IN_USE else s1
    let s3 := if a.detail = .drain then s2.bump (.rlf w) RLF_CNT_DRAIN else s2
    s3.handOut w q (.completion x.epoch tag a.st a.cflags a.detail rid a.version a.result)

/-! ### Checks on the capsule alone -/

/-- The message has the length that its capsule names (R40). -/
def checkLength (m : Msg) : Option Ans :=
  if m.trailer.length ≠ m.cap.keyLen.toNat + m.cap.immLen.toNat then bad .lengthMismatch else none

/-- The capsule carries the queue's epoch, and the queue is not one that waits for a QUEUE_RESET (R88, R416). -/
def checkEpoch (x : Queue) (m : Msg) : Option Ans :=
  if m.cap.qepoch ≠ x.epoch || x.st = .stopped then
    some { refusal .epochStale .none with result := x.epoch.toNat }
  else none

/-- The tag is free (R47, R85). -/
def checkTag (r : Relief) (held : List Nat) (q : Nat) (m : Msg) : Option Ans :=
  if r.cmds.any (fun c => c.q = q && c.holdsTag && capTag c.cap = capTag m.cap) || held.contains (capTag m.cap) then bad .tagInUse
  else none

/-- The opcodes that take VERSION (R59). -/
def usesVersion : Opcode → Bool
  | .mapGet | .put | .putClose | .patch | .punch | .delete | .get | .stat | .list | .cast | .outcome => true
  | _ => false

/-- The opcodes that take OFFSET (R59). -/
def usesOffset : Opcode → Bool
  | .mapGet | .putPart | .putClose | .patch | .punch | .get => true
  | _ => false

/-- The opcodes that take LENGTH (R59). -/
def usesLength : Opcode → Bool
  | .hello | .mapGet | .put | .putPart | .patch | .punch | .get | .stat | .list | .batch => true
  | _ => false

/-- The opcodes that take BUF_ADDR and BUF_RKEY (R59): PUNCH names a length and no buffer. -/
def usesBuffer : Opcode → Bool
  | .punch => false
  | op => usesLength op

/-- The opcodes that take AUX (R59). -/
def usesAux : Opcode → Bool
  | .hello | .putPart | .putClose | .list | .batch | .castDrop | .subscribe => true
  | _ => false

/-- A reserved field is not zero (R10, R41, R43, R44, R59, R72, R82). -/
def reservedSet (op : Opcode) (t : Transport) (c : Capsule) : Bool :=
  decide (32 ≤ c.tagByte.toNat) || c.byte5 ≠ 0
    || c.flags.toNat &&& (0xFFFF - flagsAllowed op) ≠ 0
    || (keyReserved op && c.keyLen ≠ 0)
    || (!usesVersion op && c.version ≠ 0) || (!usesOffset op && c.offset ≠ 0)
    || (!usesLength op && c.length ≠ 0) || (!usesBuffer op && (c.bufAddr ≠ 0 || c.bufRkey ≠ 0))
    || (!usesAux op && c.aux ≠ 0)
    || (noKeyspace op && c.keyspace ≠ 0)
    || (match t with | .pcie _ => c.bufRkey ≠ 0 | .roce _ _ => false)
    || (isRead op && capFlag c 3 && bits c.version.toNat 63 32 ≠ 0)
    || (op = .subscribe && bits c.aux.toNat 31 9 ≠ 0)

/-- Reserved fields (R10). -/
def checkReserved (op : Opcode) (t : Transport) (c : Capsule) : Option Ans :=
  if reservedSet op t c then bad .reservedNonzero else none

/-- Conflicting flags (R45). -/
def checkFlags (c : Capsule) : Option Ans :=
  if (capFlag c 0 && capFlag c 1) || (capFlag c 2 && capFlag c 3) then bad .flagConflict else none

/-- Immediate bytes and key lengths (R52, R59). -/
def checkKey (op : Opcode) (c : Capsule) : Option Ans :=
  if op ≠ .put && op ≠ .patch && c.immLen ≠ 0 then bad .immNotAllowed
  else if 4096 < c.immLen.toNat then some (refusal .tooLarge .none)
  else if 1024 < c.keyLen.toNat then some (refusal .tooLarge .none)
  else if needsKey op && c.keyLen = 0 then bad .keyRequired
  else if !noKeyspace op && c.keyspace = 0 then bad .keyspaceRequired
  else none

/-- HELLO first (R60). -/
def checkHello (op : Opcode) (x : Queue) : Option Ans :=
  if op ≠ .hello && !x.helloDone then some (refusal .notPermitted .noHello) else none

/-- A command whose outcome is recorded has a request id (R79). -/
def checkRid (op : Opcode) (c : Capsule) : Option Ans :=
  if (isWrite op || isCast op) && c.requestId = 0 then bad .requestIdZero else none

/-- Limits that the capsule alone shows (R61, R64, R65, R67, R73, R76). -/
def checkRange (op : Opcode) (c : Capsule) : Option Ans :=
  let len := c.length.toNat
  let aux := c.aux.toNat
  match op with
  | .hello =>
    if aux ≠ 1 then bad .protoVersion
    else if len < 256 then some { refusal .shortBuffer .none with result := 256 } else none
  | .put | .patch =>
    if c.immLen ≠ 0 && len ≠ c.immLen.toNat then bad .lengthMismatch
    else if gib < len then some (refusal .tooLarge .none) else none
  | .putPart =>
    if aux < 1 || 4096 < aux then bad .range
    else if len = 0 then bad .range
    else if gib < len then some (refusal .tooLarge .none) else none
  | .putClose => if !capFlag c 7 && (aux < 1 || 4096 < aux) then bad .range else none
  | .stat => if 1 ≤ len && len < 64 then some { refusal .shortBuffer .none with result := 64 } else none
  | .batch =>
    if aux < 1 || 32 < aux then bad .range
    else if len < 64 * aux then bad .lengthMismatch
    else if 64 * aux + 32768 < len then some (refusal .tooLarge .none) else none
  | _ => none

/-- Everything the capsule and the queue's own state show. -/
def checkCapsule (r : Relief) (held : List Nat) (x : Queue) (op : Opcode) (m : Msg) : Option Ans :=
  checkLength m <|> checkEpoch x m <|> checkTag r held x.idx m <|> checkReserved op x.transport m.cap <|> checkFlags m.cap
    <|> checkKey op m.cap <|> checkHello op x <|> checkRid op m.cap <|> checkRange op m.cap

/-! ### Checks against the brick's state -/

/-- Whether the brick holds a partition map (R191). -/
def State.hasMap (s : State) : Bool := decide (0 < s.store.map.version)

/-- Rights on the keyspace (R53). -/
def State.checkRight (s : State) (w : Wy) (op : Opcode) (x : Queue) (c : Capsule) : Option Ans :=
  if noKeyspace op then none
  else match s.keyspace c.keyspace with
    | none => some (refusal .notPermitted (if s.anyRight w x.transport then .unknownKeyspace else .noRight))
    | some k => if holdsRight op (c.keyLen ≠ 0) (rightsOf k w x.transport) then none else some (refusal .notPermitted .noRight)

/-- Rights on the keyspace (R53), and keyspaces that refuse writes (R272, R83). -/
def State.checkRights (s : State) (w : Wy) (op : Opcode) (x : Queue) (c : Capsule) : Option Ans :=
  s.checkRight w op x c <|>
    (if isWrite op && (s.keyspace c.keyspace).any (fun k => k.locked || k.role = .secondary) then some (refusal .keyspaceLocked .none)
     else none)

/-- The partition that a command is for: of its key, or the one that LIST names (R54, R74). A BATCH names its keys in its
descriptor only (R58). -/
def keyedPart (op : Opcode) (c : Capsule) (key : Bytes) : Option Nat :=
  if op = .list then some (bits c.aux.toNat 15 0)
  else if op = .batch || key = [] || noKeyspace op then none
  else some (partOf c.keyspace key)

/-- The cast that a READ_AT_CAST names, when the keyspace may read it: READY and of that keyspace (R72, R123). -/
def State.readyCast (s : State) (ks : BitVec 32) (id : Nat) : Option Cast :=
  s.store.casts.find? (fun x => x.id = id && x.keyspace = ks && x.ready)

/-- The closed time of a partition at its home (R120). -/
def State.closedOf (s : State) (p : Nat) : Nat := ((s.partSt p).map (fun x => x.closed)).getD 0

/-- The horizon of a keyspace at a partition (R122). -/
def State.horizonAt (s : State) (ks : BitVec 32) (p : Nat) : Nat :=
  ((s.keyspace ks).map (fun k => s.horizon k (s.closedOf p))).getD 0

/-- The time a CAST asks for (R124). -/
def State.castT (s : State) (w : Wy) (c : Capsule) : Nat :=
  if c.version = 0 then s.hybrid w else c.version.toNat

/-- The wythe is OUT_OF_SYNC and homes a partition of which no member is IN_SYNC: it takes no CAST (R115). -/
def State.castBlocked (s : State) (w : Wy) : Bool :=
  !(s.wy w).clk.inSync && s.store.parts.any (fun x => s.holder x.p = w && (s.partEntry x.p).any (fun e => !s.standbyInSync e))

/-- The checks of a time or a cast (R72, R121, R122, R124). -/
def State.checkTime (s : State) (w : Wy) (op : Opcode) (c : Capsule) (p : Nat) : Option Ans :=
  let ahead := fun t => s.ptpUs w + s.wall.settings.epsUs < t / 4096
  if op = .cast then
    let t := s.castT w c
    if ahead t then bad .range
    else if s.castBlocked w then some (refusal .unavailable .none)
    else if capFlag c 4 && s.wall.wallClosed < t then some (s.busy .notClosed 0)
    else none
  else if isRead op && capFlag c 3 then
    if (s.readyCast c.keyspace (bits c.version.toNat 31 0)).isNone then some (refusal .castExpired .none) else none
  else if isRead op && capFlag c 2 then
    let t := c.version.toNat
    let closed := s.closedOf p
    if ahead t then bad .range
    else if t < s.horizonAt c.keyspace p then some (refusal .castExpired .none)
    else if capFlag c 4 && closed < t then
      some { refusal .busyRetry .notClosed with result := t / 4096 - closed / 4096 + 1000 }
    else none
  else none

/-- DRAIN during a firmware activation (R49, R98). -/
def State.checkDrain (s : State) (w : Wy) : Option Ans :=
  match (s.wy w).relief.drain with
  | some d => if d.reached && d.activation then some (s.busy .drain 2) else none
  | none => none

/-- The brick takes commands: it holds a map, or the command is HELLO, and it is not stopping with its latch open (R191, R457). -/
def State.checkServing (s : State) (op : Opcode) : Option Ans :=
  if (op ≠ .hello && !s.hasMap) || (s.wall.stopping && s.front.removeSt = 4) then some (refusal .unavailable .none) else none

/-- The home of a keyed command. -/
def State.checkKeyed (s : State) (w : Wy) (op : Opcode) (c : Capsule) (key : Bytes) : Option Ans :=
  (keyedPart op c key).bind (fun p => s.checkHome w op c p)

/-- Everything that the brick's state shows. -/
def State.checkBrick (s : State) (w : Wy) (op : Opcode) (x : Queue) (c : Capsule) (key : Bytes) : Option Ans :=
  s.checkServing op <|> s.checkRights w op x c <|> s.checkDrain w <|> s.checkKeyed w op c key
    <|> s.checkTime w op c ((keyedPart op c key).getD 0)

/-- The outcome kept under the request id of a recorded command (R79): at the home for the WRITE right, at the armature
for the CAST right. -/
def State.keptOutcome (s : State) (op : Opcode) (ks : BitVec 32) (rid : BitVec 64) : Option OutcomeRec :=
  (if isCast op then s.store.armOutcomes else s.store.outcomes).find? (fun o => o.keyspace = ks && o.requestId = rid)

/-- A command whose request id is recorded already, or still running (R79). -/
def State.seenBefore (s : State) (w : Wy) (op : Opcode) (c : Capsule) : Bool :=
  (isWrite op || isCast op) && c.requestId ≠ 0
    && ((s.keptOutcome op c.keyspace c.requestId).any (fun o => match o.st with | .done .. => true | _ => false)
      || s.ridRunning c.keyspace c.requestId (s.wy w).relief.nextCmd w)

/-- The checks of a command whose request id is known: it answers as the first one did, whatever its other fields hold (R79). -/
def State.screenAgain (s : State) (w : Wy) (x : Queue) (op : Opcode) (m : Msg) : Option Ans :=
  checkLength m <|> checkEpoch x m <|> checkTag (s.wy w).relief (heldTags (s.wy w).pcie x) x.idx m <|> checkHello op x
    <|> s.checkServing op <|> s.checkRight w op x m.cap <|> s.checkDrain w
    <|> s.checkKeyed w op m.cap (m.trailer.take m.cap.keyLen.toNat)

/-- The answer that refuses a command at arrival, if one does. -/
def State.screen (s : State) (w : Wy) (x : Queue) (op : Opcode) (m : Msg) : Option Ans :=
  if s.seenBefore w op m.cap then s.screenAgain w x op m
  else checkCapsule (s.wy w).relief (heldTags (s.wy w).pcie x) x op m
    <|> s.checkBrick w op x m.cap (m.trailer.take m.cap.keyLen.toNat)

/-! ### Acceptance -/

/-- The window of a command (R105, R537). -/
def windowOf (op : Opcode) (len : Nat) : Nat :=
  match admClass op with
  | .metadata => 0
  | .read => min (roundUp len 65536) 4194304
  | .write => min (max (roundUp len 65536) 65536) 4194304

/-- The time a read or a CAST is for. -/
def State.timeFor (s : State) (w : Wy) (op : Opcode) (c : Capsule) : Nat :=
  if op = .cast then s.castT w c
  else if isRead op && capFlag c 3 then
    ((s.readyCast c.keyspace (bits c.version.toNat 31 0)).map (fun x => x.time)).getD 0
  else if isRead op && capFlag c 2 then c.version.toNat
  else 0

/-- The record of an accepted command. -/
def State.newCmd (s : State) (w : Wy) (x : Queue) (op : Opcode) (m : Msg) : Cmd :=
  { id := (s.wy w).relief.nextCmd, q := x.idx, op := op, cap := m.cap, key := m.trailer.take m.cap.keyLen.toNat,
    imm := m.trailer.drop m.cap.keyLen.toNat, epoch := x.epoch, arrived := s.now, waitFrom := s.now,
    phase := .heldFlush, suppressed := false, window := windowOf op m.cap.length.toNat, ops := [], wchunks := [],
    rchunks := [], readVer := none, castTime := s.timeFor w op m.cap, castId := 0 }

/-- Set the phase of a command. -/
def State.setPhase (s : State) (w : Wy) (id : Nat) (p : Phase) : State := s.modCmd w id (fun c => { c with phase := p })

/-- A command starts waiting for admission (R106, R107). -/
def State.enqueue (s : State) (w : Wy) (id : Nat) : State :=
  s.modCmd w id (fun c => { c with phase := .waiting, waitFrom := s.now })

/-- The condition of a PUT or PATCH fails on arrival (R155). -/
def State.earlyFails (s : State) (c : Cmd) : Bool :=
  (c.op = .put || c.op = .patch) && (condFails (cmdOp c) (s.current c.cap.keyspace c.key)).isSome

/-- Nothing earlier on the queue keeps a FLUSH: no command accepted before it, those of earlier epochs included, and no
stripe of its commands unsealed (R103). -/
def State.flushReady (s : State) (w : Wy) (c : Cmd) : Bool :=
  let r := (s.wy w).relief
  r.cmds.all (fun x => x.q ≠ c.q || c.id ≤ x.id) && r.unsealed.all (fun u => u.1 ≠ c.q)

/-- A READ_AT read waits for its partition: the closed time has not reached T, a planned move is under way, or the wythe is OUT_OF_SYNC
(R115, R121, R130). -/
def State.holdsTime (s : State) (w : Wy) (p t : Nat) : Bool :=
  decide (s.closedOf p < t) || (s.partSt p).any (fun x => x.moving) || !(s.wy w).clk.inSync

/-- What an accepted command does once no FLUSH stands before it: a recorded request id answers at once (R79), a time not
yet closed holds it (R121), a pause of its partition holds it (R98), a condition that fails goes at once to the commit step
(R155), SUBSCRIBE applies at once (R89), and every other command waits for admission. -/
def State.begin_ (s : State) (w : Wy) (c : Cmd) : State :=
  let recorded := isWrite c.op || isCast c.op
  match (if recorded then s.keptOutcome c.op c.cap.keyspace c.cap.requestId else none) with
  | some { st := .done st v r d, .. } => s.finish w c st d 0 v r
  | _ =>
    if recorded && s.ridRunning c.cap.keyspace c.cap.requestId c.id w then s.setPhase w c.id .attached
    else if c.op = .flush then
      if s.flushReady w c then s.finish w c .ok .none 0 0 0 else s.setPhase w c.id .flushing
    else if c.op = .subscribe then s.dispatch w c
    else
      let p := keyedPart c.op c.cap c.key
      if isRead c.op && capFlag c.cap 2 && p.any (fun p => s.holdsTime w p c.castTime) then s.setPhase w c.id .heldTime
      else if p.any (fun p => (s.partSt p).any (fun x => !x.opened)) && s.pausing then s.setPhase w c.id .heldMove
      else if s.earlyFails c then s.commitStep w { c with ops := [cmdOp c] }
      else s.enqueue w c.id

/-- A FLUSH of the queue that has not completed stands before a command (R103). -/
def State.behindFlush (s : State) (w : Wy) (c : Cmd) : Bool :=
  (s.wy w).relief.cmds.any (fun x => x.q = c.q && x.op = .flush && x.id < c.id && !x.suppressed)

/-- Begin a command unless a FLUSH holds it. -/
def State.tryBegin (s : State) (w : Wy) (id : Nat) : State :=
  match (s.wy w).relief.cmd id with
  | none => s
  | some c => if c.phase ≠ .heldFlush || s.behindFlush w c then s else s.begin_ w c

/-- Begin, in order, the commands that a completed FLUSH held. -/
def State.releaseFlush (s : State) (w : Wy) : State :=
  (((s.wy w).relief.cmds.filter (fun c => c.phase = .heldFlush)).map (fun c => c.id)).foldl
    (fun s id => s.tryBegin w id) s

/-- Take a command message on a queue: refuse it or accept it. -/
def State.takeCommand (s : State) (w : Wy) (q : Nat) (op : Opcode) (m : Msg) : State :=
  match (s.wy w).relief.queue q with
  | none => s
  | some x =>
    match s.screen w x op m with
    | some a =>
      let s1 := s.answer w q (capTag m.cap) m.cap.requestId a
      if a.st = .busyRetry then s1.used else s1
    | none =>
      let c := s.newCmd w x op m
      let s1 := s.modRelief w (fun r => { r with cmds := r.cmds ++ [c], nextCmd := r.nextCmd + 1 })
      s1.tryBegin w c.id

/-- The queue takes messages: it exists, is not closing, and a PCI Express queue is fetched only while the endpoint may
reach host memory (R397, R416; a closing queue takes nothing more, log 16). -/
def State.takesMessages (s : State) (w : Wy) (q : Nat) : Bool :=
  match (s.wy w).relief.queue q with
  | none => false
  | some x => s.holdup.isNone && x.st ≠ .closing && (match x.transport with | .pcie _ => s.dmaOk w | .roce _ _ => true)

/-- Note that a capsule has arrived (R51); a command restarts the idle timers of the power states (R109). -/
def State.noteCapsule (s : State) (w : Wy) (q : Nat) (command : Bool) : State :=
  let s1 := s.modQueue w q (fun x => { x with lastCapsule := s.now })
  if command then { s1 with pwr := { s1.pwr with lastCmd := s.now } } else s1

/-- A command arrives: in PS1-PS3 it wakes the brick and waits for PS0 (R110). -/
def State.arrive (s : State) (w : Wy) (q : Nat) (op : Opcode) (m : Msg) : State :=
  if !s.takesMessages w q then s
  else
    let s1 := s.noteCapsule w q true
    if s1.pwr.ps ≠ 0 then
      { s1.modRelief w (fun r => { r with held := r.held ++ [{ q := q, control := none, op := some op, msg := m }] }) with
        pwr := { s1.pwr with waking := true } }
    else s1.takeCommand w q op m

/-! ### Admission (R105-R107) -/

/-- The admission windows that admitted commands of a class hold. -/
def windowsHeld (r : Relief) (k : AdmClass) : Nat :=
  (r.cmds.filter (fun c => admClass c.op = k
    && (c.phase = .pulling || c.phase = .running || c.phase = .committing))).foldl (fun a c => a + c.window) 0

/-- The budget of a class in bytes: the active budget registers (R105). -/
def State.budget (s : State) (w : Wy) : AdmClass → Nat
  | .metadata => 0
  | .read => s.afld (.rlf w) RLF_EGRESS_BUDGET 31 0 * 1048576
  | .write => s.afld (.rlf w) RLF_INGEST_BUDGET 31 0 * 1048576

/-- A window fits what is free of its class's budget; metadata commands need none. -/
def State.fits (s : State) (w : Wy) (k : AdmClass) (win : Nat) : Bool :=
  match k with
  | .metadata => true
  | k => win ≤ s.budget w k - windowsHeld (s.wy w).relief k

/-- The oldest waiting command of a class on a queue. -/
def oldestWaiting (r : Relief) (k : AdmClass) (q : Nat) : Option Cmd :=
  r.cmds.find? (fun c => c.q = q && c.phase = .waiting && admClass c.op = k)

/-- Put a number into a rising list without repeats. -/
def insertNat (n : Nat) : List Nat → List Nat
  | [] => [n]
  | x :: rest => if n < x then n :: x :: rest else if n = x then x :: rest else x :: insertNat n rest

/-- The queues with a waiting command of a class, in the order that starts after the last one served. -/
def waitingQueues (r : Relief) (k : AdmClass) (last : Nat) : List Nat :=
  let l := (r.cmds.filter (fun c => c.phase = .waiting && admClass c.op = k)).foldl (fun l c => insertNat c.q l) []
  l.filter (fun q => last < q) ++ l.filter (fun q => q ≤ last)

/-- Note the queue served last in a class. -/
def setServed (r : Relief) (k : AdmClass) (q : Nat) : Relief :=
  match k with
  | .metadata => { r with lastMeta := q }
  | .read => { r with lastRead := q }
  | .write => { r with lastWrite := q }

/-- The queue served last in a class. -/
def servedLast (r : Relief) : AdmClass → Nat
  | .metadata => r.lastMeta
  | .read => r.lastRead
  | .write => r.lastWrite

/-- Admit a command: it takes its window and starts, unless its partition can no longer be served (R58, R127, R130), or the time or cast it
reads at has expired since its arrival (R122, R126). -/
def State.letIn (s : State) (w : Wy) (c : Cmd) : State :=
  let s1 := s.setPhase w c.id .running
  let p := (keyedPart c.op c.cap c.key).getD 0
  match s.checkKeyed w c.op c.cap c.key <|> (if isRead c.op then s.checkTime w c.op c.cap p else none) with
  | some a =>
    let s2 := s1.finish w c a.st a.detail a.cflags a.version a.result
    if a.st = .busyRetry then s2.used else s2
  | none => s1.dispatch w { c with phase := .running }

/-- One class of an admission cycle: a queue whose command does not fit ends the class (R106). -/
def State.admitClass (s : State) (w : Wy) (k : AdmClass) : List Nat → State
  | [] => s
  | q :: rest =>
    match oldestWaiting (s.wy w).relief k q with
    | none => s.admitClass w k rest
    | some c =>
      if s.fits w k c.window then
        ((s.modRelief w (fun r => setServed r k q)).letIn w c).admitClass w k rest
      else s

/-- The queues of a class that a cycle looks at. -/
def State.admitOf (s : State) (w : Wy) (k : AdmClass) : State :=
  s.admitClass w k (waitingQueues (s.wy w).relief k (servedLast (s.wy w).relief k))

/-- One admission cycle: metadata, read, write (R106). -/
def State.admitAll (s : State) (w : Wy) : State := ((s.admitOf w .metadata).admitOf w .read).admitOf w .write

/-- Admission cycles back to back, until one admits nothing, which leaves as many commands waiting as before (R106); `n` at most. -/
def State.admitCycles (s : State) (w : Wy) : Nat → State
  | 0 => s
  | n + 1 =>
    let waits := fun s : State => ((s.wy w).relief.cmds.filter (fun c => c.phase = .waiting)).length
    let t := s.admitAll w
    if waits t < waits s then t.admitCycles w n else t

/-- PUT_CLOSEs that waited for a part of their upload (R66). -/
def State.wakeClose (s : State) (w : Wy) : State :=
  ((s.wy w).relief.cmds.filter (fun c => c.op = .putClose && c.phase = .running)).foldl
    (fun s c => s.startClose w c) s

end Sys2Proof.Machine
end

