-- ==== Sys2Proof/Machine/Wire.lean ====
section
/-! DEFINITION. The capsule layout of Relief (R40, R43): 64 bytes, every multi-byte field big-endian, and the message that bytes spell. -/

namespace Sys2Proof.Machine

/-- A big-endian field of a capsule. -/
def capField (b : Bytes) (off n : Nat) : BitVec (8 * n) := BitVec.ofNat _ (ofBe (sliceBytes b off n))

/-- The capsule that 64 bytes spell, KIND and OPCODE apart (R43). -/
def capsuleOf (b : Bytes) : Capsule :=
  { qepoch := capField b 2 2, tagByte := capField b 4 1, byte5 := capField b 5 1, flags := capField b 6 2, requestId := capField b 8 8,
    keyspace := capField b 16 4, keyLen := capField b 20 2, immLen := capField b 22 2, version := capField b 24 8, offset := capField b 32 8,
    length := capField b 40 8, bufAddr := capField b 48 8, bufRkey := capField b 56 4, aux := capField b 60 4 }

/-- The 64 bytes of a capsule of a KIND and an OPCODE (R43). -/
def capsuleBytes (kind opcode : Nat) (c : Capsule) : Bytes :=
  beBytes 1 kind ++ beBytes 1 opcode ++ beBytes 2 c.qepoch.toNat ++ beBytes 1 c.tagByte.toNat ++ beBytes 1 c.byte5.toNat
    ++ beBytes 2 c.flags.toNat ++ beBytes 8 c.requestId.toNat ++ beBytes 4 c.keyspace.toNat ++ beBytes 2 c.keyLen.toNat
    ++ beBytes 2 c.immLen.toNat ++ beBytes 8 c.version.toNat ++ beBytes 8 c.offset.toNat ++ beBytes 8 c.length.toNat
    ++ beBytes 8 c.bufAddr.toNat ++ beBytes 4 c.bufRkey.toNat ++ beBytes 4 c.aux.toNat

/-- KIND, the first byte of a message (R43). -/
def kindOf (b : Bytes) : Nat := ofBe (b.take 1)

/-- OPCODE, or the control code, the second byte of a message. -/
def codeOf (b : Bytes) : Nat := ofBe (sliceBytes b 1 1)

/-- The command message that bytes spell: the capsule and what follows it (R40). -/
def msgOf (b : Bytes) : Msg := { cap := capsuleOf b, trailer := b.drop 64 }

/-- The listed opcodes (R59). -/
def opcodes : List Opcode :=
  [.hello, .mapGet, .put, .putOpen, .putPart, .putClose, .patch, .punch, .delete, .get, .stat, .list, .batch, .cast, .castDrop, .outcome,
   .flush, .subscribe]

/-- The opcode of a code; none when it is not listed (R59). -/
def opcodeOf (n : Nat) : Option Opcode := opcodes.find? (fun o => opcodeNum o = n)

/-- The code under which a message of unknown KIND is held. -/
def unknownKindCode : Nat := 0x100

/-- What a message in a submission ring is (R43, R413): the slots hold zeros or older bytes past its key and immediate bytes. -/
def sqMsgOf (b : Bytes) : SqMsg :=
  let c := capsuleOf b
  let m : Msg := { cap := c, trailer := sliceBytes b 64 (c.keyLen.toNat + c.immLen.toNat) }
  if kindOf b = 1 then { control := none, op := opcodeOf (codeOf b), msg := m }
  else { control := some (if kindOf b = 2 then codeOf b else unknownKindCode), op := none, msg := m }

end Sys2Proof.Machine
end

