-- ==== Sys2Proof/Machine/Relief.lean ====
section
/-! DEFINITION. The rows of the Relief protocol and of the queues (02, 03): command and control messages as they arrive, and the
events of queues, admission, uploads and outcome records. -/

namespace Sys2Proof.Machine

/-! ### Messages -/

/-- The fault of a control capsule, if it has one (R50): a trailer, then a field that must be zero, then an unknown code. -/
def controlFault (code : Nat) (m : Msg) : Option Detail :=
  let c := m.cap
  if c.keyLen ≠ 0 || c.immLen ≠ 0 || m.trailer ≠ [] then some .lengthMismatch
  else if c.tagByte ≠ 0 || c.byte5 ≠ 0 || c.flags ≠ 0 || c.keyspace ≠ 0 || c.version ≠ 0 || c.offset ≠ 0 || c.length ≠ 0
      || c.bufAddr ≠ 0 || c.bufRkey ≠ 0 || c.aux ≠ 0 then some .reservedNonzero
  else if code < 1 || 3 < code then some .unknownOpcode
  else none

/-- A QUEUE_RESET or a QUEUE_CLOSE (R91, R95): the reset, then the CONTROL_ACK once issued writes are acknowledged. -/
def State.controlReset (s : State) (w : Wy) (q code : Nat) (rid : BitVec 64) : State :=
  let s1 := s.resetQueue w q
  match (s1.wy w).relief.queue q with
  | none => s1
  | some x =>
    let close := decide (code = 2)
    let s2 := s1.modQueue w q (fun y =>
      { y with st := if close then .closing else .resetting,
               acks := y.acks ++ [{ requestId := rid, code := code, epoch := y.epoch }] })
    let s3 := match x.transport with
      | .pcie n => s2.modPage w n.val (fun p => { p with st := if close then .closing else .resetting, epoch := x.epoch })
      | .roce _ _ => s2
    s3.sendAcks w q

/-- A KEEPALIVE (R50): acknowledged at once, or after the acknowledgements that wait. -/
def State.keepalive (s : State) (w : Wy) (q : Nat) (rid : BitVec 64) : State :=
  match (s.wy w).relief.queue q with
  | none => s
  | some x =>
    if x.acks = [] then s.handOut w q (.controlAck x.epoch rid 3)
    else s.modQueue w q (fun y => { y with acks := y.acks ++ [{ requestId := rid, code := 3, epoch := y.epoch }] })

/-- Take a control capsule (R50): accepted whatever its epoch (R88). -/
def State.takeControl (s : State) (w : Wy) (q code : Nat) (m : Msg) : State :=
  match controlFault code m with
  | some d => s.answer w q 0 m.cap.requestId (refusal .badFormat d)
  | none =>
    if code = 3 then s.keepalive w q m.cap.requestId else s.controlReset w q code m.cap.requestId

/-- Take a command capsule with an unlisted opcode (R59). -/
def State.takeUnknown (s : State) (w : Wy) (q : Nat) (m : Msg) : State :=
  match (s.wy w).relief.queue q with
  | none => s
  | some x =>
    match checkLength m <|> checkEpoch x m <|> checkTag (s.wy w).relief (heldTags (s.wy w).pcie x) q m <|> bad .unknownOpcode with
    | some a => s.answer w q (capTag m.cap) m.cap.requestId a
    | none => s

/-- Take a message that is due. -/
def State.takeMsg (s : State) (w : Wy) (h : HeldMsg) : State :=
  match h.control, h.op with
  | some code, _ =>
    if code = unknownKindCode then
      s.answer w h.q (capTag h.msg.cap) h.msg.cap.requestId (refusal .badFormat .unknownKind)
    else s.takeControl w h.q code h.msg
  | none, some op => s.takeCommand w h.q op h.msg
  | none, none => s.takeUnknown w h.q h.msg

/-- A message other than a listed command arrives: behind a waking command it waits for PS0 in arrival order (R110). -/
def State.arriveOther (s : State) (w : Wy) (h : HeldMsg) : State :=
  if !s.takesMessages w h.q then s
  else
    let s1 := s.noteCapsule w h.q h.control.isNone
    if s1.pwr.ps ≠ 0 && (h.control.isNone || (s1.wy w).relief.held.any (fun x => x.q = h.q)) then
      let s2 := s1.modRelief w (fun r => { r with held := r.held ++ [h] })
      if h.control.isNone then { s2 with pwr := { s2.pwr with waking := true } } else s2
    else s1.takeMsg w h

/-- The messages held while the brick woke are taken in arrival order (R110). -/
def State.replayHeld (s : State) (w : Wy) : State :=
  let l := (s.wy w).relief.held
  l.foldl (fun s h => s.takeMsg w h) (s.modRelief w (fun r => { r with held := [] }))

/-! ### Commands -/

/-- HELLO (R61). -/
def execHello (w : Wy) (q : Nat) (m : Msg) (s : State) : Host.Outcome State Fault Refusal := .next (s.arrive w q .hello m)

/-- MAP_GET (R62). -/
def execMapGet (w : Wy) (q : Nat) (m : Msg) (s : State) : Host.Outcome State Fault Refusal := .next (s.arrive w q .mapGet m)

/-- PUT (R64). -/
def execPut (w : Wy) (q : Nat) (m : Msg) (s : State) : Host.Outcome State Fault Refusal := .next (s.arrive w q .put m)

/-- PUT_OPEN (R65). -/
def execPutOpen (w : Wy) (q : Nat) (m : Msg) (s : State) : Host.Outcome State Fault Refusal := .next (s.arrive w q .putOpen m)

/-- PUT_PART (R65). -/
def execPutPart (w : Wy) (q : Nat) (m : Msg) (s : State) : Host.Outcome State Fault Refusal := .next (s.arrive w q .putPart m)

/-- PUT_CLOSE (R65). -/
def execPutClose (w : Wy) (q : Nat) (m : Msg) (s : State) : Host.Outcome State Fault Refusal :=
  .next (s.arrive w q .putClose m)

/-- PATCH (R67). -/
def execPatch (w : Wy) (q : Nat) (m : Msg) (s : State) : Host.Outcome State Fault Refusal := .next (s.arrive w q .patch m)

/-- PUNCH (R68). -/
def execPunch (w : Wy) (q : Nat) (m : Msg) (s : State) : Host.Outcome State Fault Refusal := .next (s.arrive w q .punch m)

/-- DELETE (R69). -/
def execDelete (w : Wy) (q : Nat) (m : Msg) (s : State) : Host.Outcome State Fault Refusal := .next (s.arrive w q .delete m)

/-- GET (R70). -/
def execGet (w : Wy) (q : Nat) (m : Msg) (s : State) : Host.Outcome State Fault Refusal := .next (s.arrive w q .get m)

/-- STAT (R73). -/
def execStat (w : Wy) (q : Nat) (m : Msg) (s : State) : Host.Outcome State Fault Refusal := .next (s.arrive w q .stat m)

/-- LIST (R74). -/
def execList (w : Wy) (q : Nat) (m : Msg) (s : State) : Host.Outcome State Fault Refusal := .next (s.arrive w q .list m)

/-- BATCH (R75, R76). -/
def execBatch (w : Wy) (q : Nat) (m : Msg) (s : State) : Host.Outcome State Fault Refusal := .next (s.arrive w q .batch m)

/-- CAST (R77, R124). -/
def execCast (w : Wy) (q : Nat) (m : Msg) (s : State) : Host.Outcome State Fault Refusal := .next (s.arrive w q .cast m)

/-- CAST_DROP (R78). -/
def execCastDrop (w : Wy) (q : Nat) (m : Msg) (s : State) : Host.Outcome State Fault Refusal :=
  .next (s.arrive w q .castDrop m)

/-- OUTCOME (R80). -/
def execOutcome (w : Wy) (q : Nat) (m : Msg) (s : State) : Host.Outcome State Fault Refusal := .next (s.arrive w q .outcome m)

/-- FLUSH (R81, R103). -/
def execFlush (w : Wy) (q : Nat) (m : Msg) (s : State) : Host.Outcome State Fault Refusal := .next (s.arrive w q .flush m)

/-- SUBSCRIBE (R82). -/
def execSubscribe (w : Wy) (q : Nat) (m : Msg) (s : State) : Host.Outcome State Fault Refusal :=
  .next (s.arrive w q .subscribe m)

/-- FLUSH_COMPLETE (R103): the stripes named have sealed; the FLUSH completes if nothing before it is left, and the
commands behind it begin. -/
def execFlushComplete (w : Wy) (id : Nat) (sealed : List Nat) (s : State) : Host.Outcome State Fault Refusal :=
  match (s.wy w).relief.cmd id with
  | none => .next s
  | some c =>
    if c.op ≠ .flush || c.phase ≠ .flushing then .next s
    else
      let s1 := s.modRelief w (fun r => { r with unsealed := r.unsealed.filter (fun u => !sealed.contains u.2) })
      if s1.flushReady w c then .next ((s1.finish w c .ok .none 0 0 0).releaseFlush w) else .next s1

/-! ### Control capsules and other messages -/

/-- QUEUE_RESET (R91). -/
def execQueueReset (w : Wy) (q : Nat) (m : Msg) (s : State) : Host.Outcome State Fault Refusal :=
  .next (s.arriveOther w { q := q, control := some 1, op := none, msg := m })

/-- QUEUE_CLOSE (R95). -/
def execQueueClose (w : Wy) (q : Nat) (m : Msg) (s : State) : Host.Outcome State Fault Refusal :=
  .next (s.arriveOther w { q := q, control := some 2, op := none, msg := m })

/-- KEEPALIVE (R50). -/
def execKeepalive (w : Wy) (q : Nat) (m : Msg) (s : State) : Host.Outcome State Fault Refusal :=
  .next (s.arriveOther w { q := q, control := some 3, op := none, msg := m })

/-- A message of unknown KIND: the bytes that arrived (R43). -/
def execUnknownKindMessage (w : Wy) (q : Nat) (bytes : Bytes) (s : State) : Host.Outcome State Fault Refusal :=
  .next (if kindOf bytes = 1 || kindOf bytes = 2 then s
    else s.arriveOther w { q := q, control := some unknownKindCode, op := none, msg := msgOf bytes })

/-- An unlisted OPCODE (R59) or an unknown control code (R50). -/
def execUnknownOpcode (w : Wy) (q : Nat) (control : Bool) (m : Msg) (s : State) : Host.Outcome State Fault Refusal :=
  .next (s.arriveOther w { q := q, control := if control then some 0 else none, op := none, msg := m })

/-- A RoCEv2 queue. -/
def State.isRoce (s : State) (w : Wy) (q : Nat) : Bool :=
  match (s.wy w).relief.queue q with
  | some x => match x.transport with | .roce _ _ => true | .pcie _ => false
  | none => false

/-- The transport's invalid-request NAK, which closes the connection as an implied reset (R39, R40, R96). -/
def State.nakClose (s : State) (w : Wy) (q : Nat) : State := ((s.emit (.nak w q)).bump (.rdm w) RDM_CNT_NAK_SENT).loseQueue w q true

/-- A SEND below 64 or above 5,184 bytes (R40). -/
def execSendLengthNak (w : Wy) (q len : Nat) (s : State) : Host.Outcome State Fault Refusal :=
  .next (if s.isRoce w q && (len < 64 || 5184 < len) then s.nakClose w q else s)

/-- An RDMA atomic, or an RDMA READ or WRITE aimed at brick memory (R39). -/
def execRdmaInvalidRequest (w : Wy) (q : Nat) (s : State) : Host.Outcome State Fault Refusal :=
  .next (if s.isRoce w q then s.nakClose w q else s)

/-- Idle closure: no capsule for 60 s on a RoCEv2 queue (R51). -/
def execIdleClose (w : Wy) (q : Nat) (s : State) : Host.Outcome State Fault Refusal :=
  match (s.wy w).relief.queue q with
  | none => .next s
  | some x =>
    if s.isRoce w q && s.since x.lastCapsule (sec 60) then
      .next ((s.bump (.rlf w) RLF_CNT_IDLE_CLOSE).loseQueue w q true)
    else .next s

/-- A RoCEv2 connection closed by the client or the network (R96). -/
def execConnectionClose (w : Wy) (q : Nat) (s : State) : Host.Outcome State Fault Refusal :=
  .next (if s.isRoce w q then s.loseQueue w q false else s)

/-- An RDMA WRITE or DMA write is acknowledged (R91). -/
def execRdmaWriteDone (w : Wy) (q : Nat) (s : State) : Host.Outcome State Fault Refusal :=
  .next ((s.modQueue w q (fun x => { x with dma := x.dma - 1 })).sendAcks w q)

/-! ### Admission, uploads and outcome records -/

/-- ADMISSION_CYCLE: cycles run back to back until a cycle admits nothing (R106). -/
def execAdmissionCycle (w : Wy) (s : State) : Host.Outcome State Fault Refusal :=
  .next ((s.admitCycles w ((s.wy w).relief.cmds.length + 1)).wakeClose w)

/-- A command has waited longer than WAIT_LIMIT (R107). -/
def execAdmissionTimeout (w : Wy) (id : Nat) (s : State) : Host.Outcome State Fault Refusal :=
  match (s.wy w).relief.cmd id with
  | none => .next s
  | some c =>
    if c.phase = .waiting && c.waitFrom + ms (s.afld (.rlf w) RLF_ADMIT_CTRL 9 0) < s.now then
      let s1 := (s.bump (.rlf w) RLF_CNT_ADMISSION).event (.rlf w) RLF_EVT_ADMIT_TIMEOUT
      .next (s1.finish w c .busyRetry .admission 0 0 s1.free).used
    else .next s

/-- A held READ_AT read proceeds: its admission wait counts from now (R121). A time that has fallen below the horizon meanwhile is
refused (R122). -/
def execReadAtRelease (w : Wy) (id : Nat) (s : State) : Host.Outcome State Fault Refusal :=
  match (s.wy w).relief.cmd id with
  | none => .next s
  | some c =>
    match keyedPart c.op c.cap c.key with
    | none => .next s
    | some p =>
      if c.phase ≠ .heldTime || s.holdsTime w p c.castTime then .next s
      else match s.checkTime w c.op c.cap p with
        | some a => .next (s.finish w c a.st a.detail a.cflags a.version a.result)
        | none => .next (s.enqueue w id)

/-- An upload not closed within 24 hours is discarded (R65). -/
def execUploadDiscard (w : Wy) (upload : Nat) (s : State) : Host.Outcome State Fault Refusal :=
  match (s.wy w).relief.uploads.find? (fun u => u.id = upload) with
  | some u => .next (if s.since u.openedAt (sec 86400) then s.dropUpload w upload else s)
  | none => .next s

/-- Age the records of one request id in a list. -/
def ageOutcome (now keep : Nat) (ks : BitVec 32) (rid : BitVec 64) (l : List OutcomeRec) : List OutcomeRec :=
  l.map (fun o => if o.keyspace = ks && o.requestId = rid && o.st ≠ .idOnly && o.since + keep ≤ now then
    { o with st := .idOnly, since := now } else o)

/-- An outcome record older than the retention is discarded; its request id alone is kept (R101). -/
def execOutcomeRecordDiscard (keyspace : BitVec 32) (requestId : BitVec 64) (s : State) :
    Host.Outcome State Fault Refusal :=
  let keep := sec s.wall.settings.retainS
  .next (s.modStore (fun t =>
    { t with
      outcomes := ageOutcome s.now keep keyspace requestId t.outcomes
      armOutcomes := ageOutcome s.now keep keyspace requestId t.armOutcomes }))

/-- Forget a request id kept alone for one retention period. -/
def forgetId (now keep : Nat) (ks : BitVec 32) (rid : BitVec 64) (l : List OutcomeRec) : List OutcomeRec :=
  l.filter (fun o => ¬ (o.keyspace = ks ∧ o.requestId = rid ∧ o.st = .idOnly ∧ o.since + keep ≤ now))

/-- A request id kept alone for one further retention period is forgotten (R101). -/
def execRequestIdDiscard (keyspace : BitVec 32) (requestId : BitVec 64) (s : State) : Host.Outcome State Fault Refusal :=
  let keep := sec s.wall.settings.retainS
  .next (s.modStore (fun t =>
    { t with
      outcomes := forgetId s.now keep keyspace requestId t.outcomes
      armOutcomes := forgetId s.now keep keyspace requestId t.armOutcomes }))

end Sys2Proof.Machine
end

