-- ==== Sys2Proof/Machine/Mortar.lean ====
section
/-! DEFINITION. Mortar as a transport (R206-R213): receipt of a message by its epoch, acknowledgements, retransmission and
congestion, and the state objects that bricks fetch from one another (R213-R215). -/

namespace Sys2Proof.Machine

/-! ### Receipt (R208, R213) -/

/-- Ask a brick for a whole state object, its first range (R213, R214). -/
def State.askState (s : State) (w : Wy) (dst : Nat) (obj : StateObj) : State :=
  s.mortarOut w dst w (.stateGet obj 0 0 1048576)

/-- Ask a brick for the newer map and bond table (R213). -/
def State.fetchState (s : State) (w : Wy) (dst : Nat) : State := (s.askState w dst .map).askState w dst .bond

/-- A wythe receives Mortar messages: it runs, and not in hold-up (R477). -/
def State.hears (s : State) (w : Wy) : Bool := s.running w && s.holdup.isNone

/-- A message of types 0x00-0x0C, handled whatever its epoch (R213). -/
def State.mortarAny (s : State) (w : Wy) (h : MHead) (handle : State → State) : State :=
  if s.hears w then handle (s.seeHlc w h.hlc) else s

/-- A message of the other types (R213): at an equal epoch it is handled; at a lower one it is refused with EPOCH_NOTICE; at
a higher one it is held while the newer state is fetched. -/
def State.mortarIn (s : State) (w : Wy) (h : MHead) (i : Instr) (handle : State → State) : State :=
  let s1 := s.seeHlc w h.hlc
  if !s.hears w then s
  else if h.epoch = s1.wall.epoch then handle s1
  else if h.epoch < s1.wall.epoch then
    (s1.bump (.mtr w) MTR_CNT_EPOCH_STALE).mortarOut w h.src h.srcW
      (.epochNotice s1.wall.epoch s1.store.map.version s1.wall.bond.version)
  else { s1 with heldMortar := s1.heldMortar ++ [(s1.now, w, i)] }.fetchState w h.src

/-- Messages held longer than 100 ms are dropped unacknowledged (R213). -/
def execEpochHoldTimeout (w : Wy) (s : State) : Host.Outcome State Fault Refusal :=
  .next { s with heldMortar := s.heldMortar.filter (fun x => x.2.1 ≠ w || !s.since x.1 (ms 100)) }

/-- A message of unknown TYPE is acknowledged, counted and discarded (R208). -/
def execUnknownTypeMessage (w : Wy) (h : MHead) (flow : Nat) (s : State) : Host.Outcome State Fault Refusal :=
  .next (s.mortarAny w h (fun s =>
    let s1 := s.bump (.mtr w) MTR_CNT_UNKNOWN_TYPE
    let rx := ((flowOf (s1.wy w).mortar h.src h.srcW flow).map (fun f => f.rxSeq)).getD 0
    s1.sendAck w h.src h.srcW flow rx 0 false false h.addr))

/-! ### Acknowledgements (R210-R212) -/

/-- A packet is acknowledged by ACK and SACK (R207): below ACK, or with its SACK bit set. -/
def ackedBy (ack sack seq : Nat) : Bool := seq < ack || (ack < seq && seq ≤ ack + 32 && bits sack (seq - ack - 1) (seq - ack - 1) = 1)

/-- Forget the messages whose packets are all acknowledged: a message partly acknowledged keeps them, since RESYNC resends it
whole (R209). -/
def dropDone (l : List Packet) : List Packet := l.filter (fun p => l.any (fun x => x.msgId = p.msgId && !x.acked))

/-- The window at the end of a round of acknowledgements (R211): DCTCP with gain 1/2^G_SHIFT (RFC 8257). -/
def endWindow (f : Flow) (g maxWin : Nat) : Flow :=
  if f.sinceWin < f.win then f
  else
    let frac := f.ceInWin * 65536 / f.sinceWin
    let a := f.alphaNum - f.alphaNum / 2 ^ g + frac / 2 ^ g
    let win := if f.ceInWin = 0 then min (f.win + 1) maxWin else max 1 (f.win - f.win * a / 131072)
    { f with alphaNum := a, win := win, ceInWin := 0, sinceWin := 0 }

/-- The flow after an acknowledgement: packets acknowledged, and those with three later packets received while they are
missing marked for resending at once (R210). -/
def ackFlow (f : Flow) (ack sack : Nat) (ce : Bool) : Flow :=
  let marked := f.unacked.map (fun p => if p.sent && ackedBy ack sack p.seq then { p with acked := true } else p)
  let later := fun p : Packet => (marked.filter (fun x => x.acked && p.seq < x.seq)).length
  let un := marked.map (fun p => if p.sent && !p.acked && p.passed = 0 && 3 ≤ later p then { p with passed := 1 } else p)
  { f with unacked := un, sinceWin := f.sinceWin + 1, ceInWin := f.ceInWin + b2n ce }

/-- Packets of a flow go out again, in the order held (R210). -/
def State.resend (s : State) (w : Wy) (f : Flow) (l : List Packet) : State :=
  ((s.bumpBy (.mtr w) MTR_CNT_RETX l.length).emitAll (l.map (fun p => s.datagramOf w f p true))).used

/-- Packets that an acknowledgement marked for resending, now resent. -/
def State.fastResend (s : State) (w : Wy) (b : Nat) (bw : Wy) (n : Nat) : State :=
  match flowOf (s.wy w).mortar b bw n with
  | none => s
  | some f =>
    (s.modFlow w b bw n (fun f => { f with
      unacked := dropDone (f.unacked.map (fun p =>
        if p.passed = 1 && !p.acked then { p with passed := 2, sentAt := s.now } else p)) })).resend w f
      (f.unacked.filter (fun p => p.passed = 1 && !p.acked))

/-- RESYNC: the flow restarts at SEQ 0 and MSG_ID 0 and resends every message not wholly acknowledged (R209). -/
def resyncFlow (f : Flow) : Flow :=
  let ids := (f.unacked.map (fun p => p.msgId)).eraseDups
  { f with
    unacked := f.unacked.mapIdx (fun i p =>
      { p with seq := i, msgId := ids.idxOf p.msgId, sent := false, acked := false, expiries := 0, passed := 0 })
    nextSeq := f.unacked.length
    nextMsg := ids.length }

/-- A stripe lead drops its copies once both journal members have acknowledged SEAL_COMMIT (R235 step 7): the flows to them
hold nothing unacknowledged. -/
def State.dropSealed (s : State) (w : Wy) (b : Nat) : State :=
  if ((s.wy w).mortar.flows.filter (fun f => f.peer = b)).all (fun f => f.unacked = []) then
    let l := s.stripes.recs.map (fun r => if r.st = .sealed then { r with sealedWait := r.sealedWait.filter (· ≠ b) } else r)
    { s with stripes := { s.stripes with recs := l.filter (fun r => ¬ (r.st = .sealed ∧ r.sealedWait = [])) } }
  else s

/-- What the ACK, SACK and CREDIT fields of a packet do at the wythe that it reaches (R210-R212). -/
def State.takeAck (s : State) (w : Wy) (peer : Nat) (peerW : Wy) (flow ack sack credit : Nat) (ce resync : Bool) : State :=
  let s1 := if ce then s.bump (.mtr w) MTR_CNT_CE_ECHO else s
  let s2 := s1.modMortar w (fun m =>
    { m with flows := updAll (fun f => f.peer = peer && f.peerW = peerW) (fun f => { f with credit := credit }) m.flows })
  let g := s2.afld (.mtr w) MTR_CC_CTRL 27 24
  let mw := s2.afld (.mtr w) MTR_CC_CTRL 20 8
  let s3 :=
    if resync then s2.modFlow w peer peerW flow resyncFlow
    else (s2.modFlow w peer peerW flow (fun f => endWindow (ackFlow f ack sack ce) g mw)).fastResend w peer peerW flow
  ((s3.pushFlow w peer peerW flow).pumpWrites w).dropSealed w peer

/-- A Mortar acknowledgement arrives (R210-R212). -/
def execMortarAck (w : Wy) (peer : Nat) (peerW : Wy) (flow ack sack credit : Nat) (ce resync : Bool) (s : State) :
    Host.Outcome State Fault Refusal :=
  .next (if s.hears w then s.takeAck w peer peerW flow ack sack credit ce resync else s)

/-- The retransmission timeout of a packet, in ns: RTO_MIN doubled at each expiry, at most RTO_MAX (R210). -/
def State.rto (s : State) (w : Wy) (p : Packet) : Nat :=
  min (us (s.afld (.mtr w) MTR_RTO_CTRL 11 0) * 2 ^ p.expiries) (ms (s.afld (.mtr w) MTR_RTO_CTRL 21 12))

/-- A flow breaks: its undelivered messages fail as UNREACHABLE, and the next send reopens it (R210). -/
def State.breakFlow (s : State) (w : Wy) (peer : Nat) (peerW : Wy) (flow : Nat) : State :=
  ((s.modFlow w peer peerW flow (fun f => { f with broken := true, unacked := [] })).bump
    (.mtr w) MTR_CNT_FLOW_BROKEN).event (.mtr w) MTR_EVT_FLOW_BROKEN

/-- The retransmission timeout of a packet expires (R210, R211). -/
def execRetransmissionTimeout (w : Wy) (peer : Nat) (peerW : Wy) (flow seq : Nat) (s : State) :
    Host.Outcome State Fault Refusal :=
  match (flowOf (s.wy w).mortar peer peerW flow).bind (fun f => f.unacked.find? (fun p => p.seq = seq)) with
  | none => .next s
  | some p =>
    if !s.hears w || !p.sent || p.acked || !s.since p.sentAt (s.rto w p) then .next s
    else
      let s1 := s.bump (.mtr w) MTR_CNT_RTO
      if s1.afld (.mtr w) MTR_RTO_CTRL 26 22 ≤ p.expiries + 1 then .next (s1.breakFlow w peer peerW flow)
      else
        let s2 := s1.modFlow w peer peerW flow (fun f => { f with
          win := 2
          unacked := f.unacked.map (fun x =>
            if x.seq = seq then { x with sentAt := s.now, expiries := x.expiries + 1, passed := 0 } else x) })
        .next (match flowOf (s2.wy w).mortar peer peerW flow with
          | some f => s2.resend w f [p]
          | none => s2)

/-! ### State objects (R213-R215) -/

/-- An EPOCH_NOTICE: the sender of the stale message fetches the newer map and bond table (R213). -/
def execEpochNotice (w : Wy) (h : MHead) (epoch map bond : Nat) (s : State) : Host.Outcome State Fault Refusal :=
  .next (s.mortarAny w h (fun s =>
    if s.wall.epoch < epoch || s.store.map.version < map || s.wall.bond.version < bond then s.fetchState w h.src else s))

/-- The current version of a state object. -/
def State.objVersion (s : State) : StateObj → Nat
  | .map => s.store.map.version
  | .bond => s.wall.bond.version
  | .casts => s.wall.castVersion
  | .settings => s.wall.settingsVer

/-- The length of a state object; the spec gives no bytes for the cast registry and the wall settings: free (log 19). -/
def State.objLen (s : State) : StateObj → Nat
  | .map => mapLen s.store.map
  | .bond => 64 + 80 * s.wall.settings.groups
  | .casts | .settings => s.free

/-- Bytes of a state object. -/
def State.objBytes (s : State) (obj : StateObj) (off len : Nat) : Bytes :=
  match obj with
  | .map => sliceBytes (mapBytes s.store.map) off len
  | .bond => sliceBytes (bondBytes s.wall.settings s.wall.bond) off len
  | .casts | .settings => freeBytes s.fresh len

/-- A STATE_GET: a range of a state object, VERSION_GONE for a version not current, RANGE beyond its end (R214). -/
def execStateGet (w : Wy) (h : MHead) (obj : StateObj) (version offset length : Nat) (s : State) :
    Host.Outcome State Fault Refusal :=
  .next (s.mortarAny w h (fun s =>
    let v := s.objVersion obj
    let total := s.objLen obj
    let n := min length (total - offset)
    let b := if version ≠ 0 && version ≠ v then MortarBody.stateData obj 1 v offset total []
      else if total < offset || length < 1 || 1048576 < length then MortarBody.stateData obj 2 v offset total []
      else MortarBody.stateData obj 0 v offset total (s.objBytes obj offset n)
    (s.mortarOut w h.src h.srcW b).used))

end Sys2Proof.Machine
end

