-- ==== Sys2Proof/Machine/Offers.lean ====
section
/-! DEFINITION. What the source home of a partition offers to the remote wall for a replication cast (09, R275, R277). -/

namespace Sys2Proof.Machine

/-- The link key of a keyspace (R273). -/
def State.linkKey (s : State) (ks : BitVec 32) : Option Bytes := (s.refs.linkKeys.find? (fun k => k.1 = ks)).map (fun k => k.2)

/-- The version of a history at a time. -/
def verAt (h : List ValueVer) (t : Nat) : Option ValueVer := h.find? (fun v => v.time ≤ t)

/-- An inline value opened under its keyspace key, and sealed again under the link key with no additional data: a 12-byte IV, which the spec
leaves to the sender (log 210), ciphertext and tag (R275, R278). None when its own tag fails. -/
def State.resealInline (s : State) (w : Wy) (ks : BitVec 32) (key : Bytes) (v : ValueVer) (link : Bytes) (n : Nat) : Option Bytes :=
  match v.inlined with
  | none => some []
  | some b =>
    match s.keyOf w ks v.inlineKey with
    | none => none
    | some k =>
      let r := gcmOpen k v.inlineIv (inlineAad ks v.length key) b v.inlineTag
      if !r.2 then none
      else
        let iv := freeBytes (s.fresh + 12 * n) 12
        let x := gcmSeal link iv [] r.1
        some (iv ++ x.1 ++ x.2)

/-- The key entries of an offer: keys whose version at the cast differs from that at the previously applied one (R275). A key whose inline
value cannot be opened has no entry (log 207). -/
def State.offerKeys (s : State) (ks : BitVec 32) (p t prev : Nat) (link : Bytes) : List OfferKey :=
  let mine := s.store.index.filter (fun h => h.keyspace = ks && partOf ks h.key = p)
  mine.zipIdx.filterMap (fun e =>
    let h := e.1
    match verAt h.versions t with
    | none => none
    | some v =>
      if verAt h.versions prev = some v && prev ≠ 0 then none
      else (s.resealInline (s.holder p) ks h.key v link e.2).map (fun sealed =>
        { key := h.key, deletion := !v.live, version := v.time, length := v.length, recipe := v.chunks, holes := v.holes,
          sealed := sealed }))

/-- The bytes that a key entry takes in an offer (R278). -/
def offerLen (k : OfferKey) : Nat :=
  24 + roundUp k.key.length 8 + roundUp k.sealed.length 8 + 32 + 64 * k.recipe.length + 16 * k.holes.length

/-- The keys of a partition in offers that each fit in a message of 4,198,400 bytes (R207); a key that alone does not stands alone (log 244). -/
def offerGroups : Nat → List OfferKey → List OfferKey → List (List OfferKey)
  | _, cur, [] => [cur]
  | n, cur, k :: rest =>
    if cur ≠ [] && 4198400 < n + offerLen k then cur :: offerGroups (24 + offerLen k) [k] rest
    else offerGroups (n + offerLen k) (cur ++ [k]) rest

/-- The time of the cast of a keyspace that the remote wall applied last. -/
def State.lastApplied (s : State) (ks : BitVec 32) : Nat :=
  (s.refs.ships.filter (fun x => x.keyspace = ks && x.applied)).foldl (fun a x => max a x.time) 0

/-- Send an offer of a home partition for a cast that ships, from sequence 1 on, LAST set in the last (R275). Which brick of the remote wall is
the home of the partition the spec does not say how to learn: a free value (log 31). -/
def State.offerPart (s : State) (x : ShipRec) (p seq : Nat) : State :=
  match s.linkKey x.keyspace with
  | none => s
  | some link =>
    let l := offerGroups 24 [] (s.offerKeys x.keyspace p x.time (s.lastApplied x.keyspace) link)
    match l[seq - 1]? with
    | none => s
    | some keys =>
      let s1 := s.drawn (12 * s.store.index.length)
      s1.used.mortarOut (s.holder p) (farPeer (s1.free % 4096)) (wyOfPart p)
        (.replOffer p (decide (l.length ≤ seq)) x.keyspace x.sourceCast seq keys)

/-- The cast of a keyspace that ships from this wall. -/
def State.shipsNow (s : State) : List ShipRec :=
  s.refs.ships.filter (fun x => x.begun && !x.applied && (s.keyspace x.keyspace).any (fun k => k.role = .primary))

/-- A partition offers what it has for the casts that ship: when a cast begins, and when a new home opens, which the remote home answers with
what it has staged (R277). -/
def State.offerOpen (s : State) (p : Nat) : State := s.shipsNow.foldl (fun s x => s.offerPart x p 1) s

/-- Offer every opened home partition of this brick to the remote homes (R275). -/
def State.offerAll (s : State) (x : ShipRec) : State :=
  (s.store.parts.filter (fun y => y.opened && !y.fenced)).foldl (fun s y => s.offerPart x y.p 1) s

end Sys2Proof.Machine
end

