-- ==== Sys2Proof/Machine/Partitions.lean ====
section
/-! DEFINITION. Home partitions (04): closed time, leases, replica sets, promotion, planned moves and garbage versions, with the
Mortar messages INDEX_PUT to CLOSED_TIME. -/

namespace Sys2Proof.Machine

/-! ### Garbage versions (R263, R264, R260) -/

/-- A running read uses a version (R158), or a PATCH is built on it (R67). -/
def State.beingRead (s : State) (key : Bytes) (v : ValueVer) : Bool :=
  [Wy.w0, Wy.w1].any (fun w => (s.wy w).relief.cmds.any (fun c => (c.op = .get && c.key = key && c.readVer = some v) || c.ops.any (fun o => o.key = key && o.base = some v)))

/-- A cast of the keyspace sees a version whose next version has time `next`: V ≤ T < W (R263); casts held for shipping
count (R277). -/
def State.castSees (s : State) (ks : BitVec 32) (v : Nat) (next : Option Nat) : Bool :=
  let sees := fun t => decide (v ≤ t) && next.all (fun n => t < n)
  s.store.casts.any (fun c => c.keyspace = ks && sees c.time) || s.refs.ships.any (fun x => x.keyspace = ks && sees x.time)

/-- The versions of a history that are retained (R263): newest first, each with the time of the next newer one. A deletion is
retained while it lies above the horizon or an earlier version of its key is retained. -/
def State.retained (s : State) (ks : BitVec 32) (key : Bytes) (hz : Nat) : Option Nat → List ValueVer → List ValueVer
  | _, [] => []
  | next, v :: rest =>
    let older := s.retained ks key hz (some v.time) rest
    let keep := if v.live then next.all (fun n => hz < n) || s.castSees ks v.time next || s.beingRead key v
      else hz < v.time || older ≠ []
    if keep then v :: older else older

/-- The SUB entries of a garbage version's recipe (R257, R264). -/
def subsOf (v : ValueVer) : List DeltaEntry :=
  v.chunks.map (fun e => { fp := e.fp, kind := .sub, chunk := 0, requestId := 0, fragId := e.place.fragId })

/-- A version of a key by its time. -/
def State.versionAt (s : State) (ks : BitVec 32) (key : Bytes) (t : Nat) : Option ValueVer :=
  (s.hist ks key).find? (fun v => v.time = t)

/-- Remove a version's record from the index. -/
def State.dropVersion (s : State) (ks : BitVec 32) (key : Bytes) (t : Nat) : State :=
  s.modStore (fun x => { x with
    index := (x.index.map (fun h =>
      if h.keyspace = ks && h.key = key then { h with versions := h.versions.filter (fun v => v.time ≠ t) } else h)).filter
        (fun h => h.versions ≠ []) })

/-- Send the SUB entries that R260 lets go: every CONFIRM and ADD of the partition acknowledged, no running read. -/
def State.trySubs (s : State) (p : Nat) : State :=
  let busy := s.refs.deltas.any (fun b => b.p = p && b.entries.any (fun e => e.kind = .confirm || e.kind = .add))
  if busy then s
  else
    (s.refs.garbage.filter (fun g => g.p = p && !g.sent)).foldl (fun s g =>
      match s.versionAt g.keyspace g.key g.time with
      | none => s.modRefs (fun r => { r with garbage := r.garbage.filter (fun x => x ≠ g) })
      | some v =>
        if s.beingRead g.key v then s
        else (s.addDeltas p (subsOf v)).modRefs (fun r =>
          { r with garbage := updFirst (fun x => x = g) (fun x => { x with sent := true }) r.garbage })) s

/-- Remove the records whose SUB entries are all acknowledged (R264). -/
def State.dropSubbed (s : State) (p : Nat) : State :=
  if s.refs.deltas.any (fun b => b.p = p && b.entries.any (fun e => e.kind = .sub)) then s
  else
    (s.refs.garbage.filter (fun g => g.p = p && g.sent)).foldl (fun s g =>
      (s.dropVersion g.keyspace g.key g.time).modRefs (fun r => { r with garbage := r.garbage.filter (fun x => x ≠ g) })) s

/-- Check a key for garbage (R264): each garbage version is noted, its SUB entries follow under R260. In a deleted keyspace only what a
running read uses stays (R507). -/
def State.gcKey (s : State) (p : Nat) (ks : BitVec 32) (key : Bytes) : State :=
  let h := s.hist ks key
  let keep := if (s.keyspace ks).isNone then h.filter (s.beingRead key) else s.retained ks key (s.horizonAt ks p) none h
  let new := (h.filter (fun v => !keep.contains v
      && !s.refs.garbage.any (fun g => g.keyspace = ks && g.key = key && g.time = v.time))).map (fun v =>
    ({ p := p, keyspace := ks, key := key, time := v.time, sent := false } : GarbageRec))
  ((s.modRefs (fun r => { r with garbage := r.garbage ++ new })).trySubs p).dropSubbed p

/-- Check every key of a partition (R264). -/
def State.gcPart (s : State) (p : Nat) : State :=
  (s.store.index.filter (fun h => partOf h.keyspace h.key = p)).foldl (fun s h => s.gcKey p h.keyspace h.key) s

/-- Check every key of a keyspace, when a cast of it is dropped or expires (R264). -/
def State.gcKeyspace (s : State) (ks : BitVec 32) : State :=
  (s.store.index.filter (fun h => h.keyspace = ks)).foldl (fun s h => s.gcKey (partOf ks h.key) ks h.key) s

/-- The sweep of a partition (R264). -/
def execGarbageSweep (p : Nat) (s : State) : Host.Outcome State Fault Refusal :=
  .next (if s.isHome p then
    (s.gcPart p).modRefs (fun r => { r with swept := tablePut r.swept p s.now }) else s)

/-! ### Visibility (R116, R128) -/

/-- A commit becomes visible: its references set out, which claims them at the queries that waited for it (R262), its keys are checked for
garbage, and PUT_CLOSEs that waited for a part go on. -/
def State.becomeVisible (s : State) (w : Wy) (k : Commit) : State :=
  let s1 := (s.addDeltas k.part k.deltas).makeVisible w k
  (k.adds.foldl (fun s a => s.gcKey k.part a.1 a.2.1) s1).wakeClose w

/-- A standby has placed a commit's record: one segment more (R156). -/
def bumpAck (l : List (Nat × Nat)) (b : Nat) : List (Nat × Nat) :=
  upsert (fun x => x.1 = b) (fun x => (x.1, x.2 + 1)) (b, 1) l

/-- The window of the home and both standbys hold every segment of a commit's record (R20, R116, R156). -/
def State.placedAll (s : State) (k : Commit) : Bool :=
  !(idxSegs k).any (s.indexWaits k.part) && (s.standbys k.part).all (fun b => k.acks.any (fun a => a.1 = b && k.segments ≤ a.2))

/-- A commit begun earlier on the wythe and not yet visible concerns a key of a commit: the versions of a key become visible in their order,
and a refusal not before the versions that it saw (R116, R117). -/
def heldBack (l : List Commit) (k : Commit) : Bool :=
  (l.takeWhile (fun e => e ≠ k)).any (fun e => e.keyspace = k.keyspace && e.keys.any (fun x => k.keys.contains x))

/-- The first commit of a wythe whose record is placed everywhere and that no earlier one holds back becomes visible. -/
def State.settleCommit (s : State) (w : Wy) : State :=
  let l := (s.wy w).relief.commits
  match l.find? (fun k => s.placedAll k && !heldBack l k) with
  | some k => s.becomeVisible w k
  | none => s

/-- Every commit of a wythe that can becomes visible. -/
def State.settleCommits (s : State) (w : Wy) : State :=
  (List.range (s.wy w).relief.commits.length).foldl (fun s _ => s.settleCommit w) s

/-- A home whose record write is refused for its epoch is fenced: commands past their start point complete INTERNAL (R128). -/
def State.fence (s : State) (w : Wy) (p : Nat) : State :=
  let s1 := s.modPart p (fun x => { x with fenced := true })
  let gone := (s1.wy w).relief.commits.filter (fun k => k.part = p)
  let s2 := s1.modRelief w (fun r => { r with commits := r.commits.filter (fun k => k.part ≠ p) })
  gone.foldl (fun s k => match (s.wy w).relief.cmd k.cmdId with
    | some c => s.finish w c .internal .none 0 0 0
    | none => s) s2

/-- A command that a pause of its partition held: its own partition, or that of the first key of its entries (R98). -/
def heldFor (p : Nat) (c : Cmd) : Bool := c.phase = .heldMove && (if c.ops = [] then keyedPart c.op c.cap c.key = some p else cmdPart c = p)

/-- A command that a pause held goes on: one that has its payload with its commit step, another from the start. -/
def State.goOn (s : State) (w : Wy) (c : Cmd) : State :=
  if c.ops = [] then s.begin_ w c
  else match c.op with
    | .punch | .delete => (s.modCmd w c.id (fun x => { x with phase := .running })).commitStep w { c with phase := .running }
    | _ => (s.modCmd w c.id (fun x => { x with phase := .running })).stepOn w c.id

/-- Commands of a partition that wait for it are answered REDIRECT: they have not started (R58, R98, R130). -/
def State.sendAway (s : State) (w : Wy) (p home cflags : Nat) : State :=
  let waits := fun c : Cmd => heldFor p c || (c.phase = .heldTime && keyedPart c.op c.cap c.key = some p)
  ((s.wy w).relief.cmds.filter waits).foldl (fun s c =>
    let a := s.redirect home cflags
    (s.endJobs w c.id).finish w c a.st a.detail a.cflags a.version a.result) s

/-- Open a partition whose records are placed (R129): hold the horizons of PENDING casts first (R124), then the commands that
waited for it begin; one at the other wythe is answered REDIRECT with PEER_PORTS (R98). Casts that ship are offered (R277). -/
def State.openPart (s : State) (p : Nat) : State :=
  let pend := (s.store.casts.filter (fun c => !c.ready)).map (fun c => (c.id, c.keyspace, c.time))
  let new := pend.filter (fun x => !s.store.holds.any (fun h => h.1 = x.1))
  let s1 := (s.modStore (fun t => { t with holds := t.holds ++ new })).modPart p (fun x => { x with opened := true })
  let w := s1.holder p
  let s2 := ((s1.wy w).relief.cmds.filter (heldFor p)).foldl (fun s c => s.goOn w c) s1
  (s2.sendAway w.peer p s.myId 2).offerOpen p

/-- A partition whose take-over has nothing left to wait for: members to answer, records to place, the cast registry (R124, R129). -/
def PartSt.ready (x : PartSt) : Bool := !x.opened && !x.fenced && x.collect = [] && x.toPlace = [] && !x.needCasts

/-- Open a partition when it is ready. -/
def State.openReady (s : State) (p : Nat) : State := if (s.partSt p).any (fun x => x.ready) then s.openPart p else s

/-- The cast registry has come: the partitions that waited for it alone open (R124). -/
def State.openAfterCasts (s : State) : State :=
  (s.store.parts.filter (fun x => x.needCasts)).foldl (fun s x => (s.modPart x.p (fun y => { y with needCasts := false })).openReady x.p) s

/-- A member has placed an adopted record; the partition opens once all are placed (R129 step 3). -/
def State.adoptedAck (s : State) (p b version : Nat) : State :=
  match s.partSt p with
  | none => s
  | some x =>
    if x.opened || !x.toPlace.contains (b, version) then s
    else
      let left := x.toPlace.erase (b, version)
      let s1 := s.modPart p (fun x => { x with toPlace := left })
      s1.openReady p

/-- A staged record stands at every member of its replica set: its references are confirmed, and its source and the armature are told (R275,
R276). -/
def State.stagedWhole (s : State) (x : StagedRec) : State :=
  let w := s.holder x.p
  let b := MortarBody.replStaged x.p x.sourceCast x.offer x.last
  let conf := x.asked.zipIdx.map (fun e =>
    ({ fp := e.1, kind := .confirm, chunk := e.2, requestId := stagedRid x, fragId := 0 } : DeltaEntry))
  let s1 := s.modRefs (fun r => { r with staged := updFirst (fun y => y = x) (fun y => { y with staged := true, wait := [] }) r.staged })
  (((s1.addDeltas x.p conf).mortarOut w x.src (wyOfPart x.p) b).toArmature w b).answerQueries

/-- A member of the replica set has placed a staged record (R275). -/
def State.stagedPlaced (s : State) (p b version : Nat) : State :=
  match s.refs.staged.find? (fun x => x.p = p && x.wait.contains b && x.record.any (fun r => r.version = version)) with
  | none => s
  | some x =>
    let x2 := { x with wait := x.wait.erase b }
    let s1 := s.modRefs (fun r => { r with staged := updFirst (fun y => y = x) (fun _ => x2) r.staged })
    if x2.wait = [] then s1.stagedWhole x2 else s1

/-- A member has placed a record that is no commit's of this brick: an adopted one, or a staged one. -/
def State.otherPlaced (s : State) (p b version : Nat) : State := (s.adoptedAck p b version).stagedPlaced p b version

/-- A cast of the keyspace is READY at or above every version of a staged record: it is visible (R276). -/
def State.stagedDue (s : State) (r : IdxRec) : Bool :=
  s.store.casts.any (fun c => c.keyspace = r.keyspace && c.ready && r.adds.all (fun a => a.2.time ≤ c.time))

/-- A new home adopts a staged record as it was staged: REPL_STAGED is sent again (R277). -/
def State.adoptStaged (s : State) (p : Nat) (r : IdxRec) (t : StagedTag) : State :=
  if s.refs.staged.any (fun x => x.p = p && x.sourceCast = t.sourceCast && x.offer = t.offer) then s
  else
    let x : StagedRec :=
      { p := p, keyspace := r.keyspace, sourceCast := t.sourceCast, offer := t.offer, last := t.last, keys := [], asked := [], unprobed := [],
        need := [], places := [], src := t.src, inlines := [], record := some r, wait := [], staged := true }
    let w := s.holder p
    let b := MortarBody.replStaged p t.sourceCast t.offer t.last
    ((s.modRefs (fun f => { f with staged := f.staged ++ [x] })).mortarOut w t.src (wyOfPart p) b).toArmature w b

/-- An INDEX_ACK (R116, R128). -/
def State.doIndexAck (s : State) (w : Wy) (src p epoch version : Nat) (placed : Bool) : State :=
  let cur := ((s.partEntry p).map (fun e => e.epoch)).getD 0
  if !placed then s.fence w p
  else if epoch ≠ cur then s
  else
    let wants := fun k : Commit => k.part = p && k.version = version
      && !k.acks.any (fun a => a.1 = src && k.segments ≤ a.2)
    match (s.wy w).relief.commits.find? wants with
    | none => s.otherPlaced p src version
    | some k =>
      let k2 := { k with acks := bumpAck k.acks src }
      (s.modRelief w (fun r => { r with commits := updFirst (fun x => x = k) (fun _ => k2) r.commits })).settleCommits w

/-- INDEX_ACK arrives. -/
def execIndexAck (w : Wy) (h : MHead) (p epoch version : Nat) (placed : Bool) (s : State) :
    Host.Outcome State Fault Refusal :=
  .next (s.mortarIn w h (.indexAck w h p epoch version placed) (fun s => s.doIndexAck w h.src p epoch version placed))

/-- The partition epoch that this brick goes by as a member of a replica set (R128). -/
def State.memberEpoch (s : State) (p : Nat) : Nat :=
  max (((s.partEntry p).map (fun e => e.epoch)).getD 0) ((tableGet? s.store.standbyEpoch p).getD 0)

/-- Note the closed time that a home sends (R120): it never decreases. -/
def State.noteClosed (s : State) (p closed : Nat) : State :=
  s.modStore (fun t => { t with
    standbyClosed := tablePut t.standbyClosed p (max closed ((tableGet? t.standbyClosed p).getD 0)) })

/-- An INDEX_PUT at a member of the replica set: placed, or refused for a stale partition epoch (R128). -/
def State.doIndexPut (s : State) (w : Wy) (h : MHead) (p epoch closed : Nat) (r : IdxRec) : State :=
  if epoch < s.memberEpoch p then s.mortarOut w h.src h.srcW (.indexAck p epoch r.version false)
  else (s.storeRec p epoch h.src r (some (h.src, h.srcW))).noteClosed p closed

/-- INDEX_PUT arrives. -/
def execIndexPut (w : Wy) (h : MHead) (p epoch closed : Nat) (r : IdxRec) (s : State) :
    Host.Outcome State Fault Refusal :=
  .next (s.mortarIn w h (.indexPut w h p epoch closed r) (fun s => s.doIndexPut w h p epoch closed r))

/-- A CLOSED_TIME at a standby (R120). -/
def State.doClosedTime (s : State) (p epoch closed : Nat) : State :=
  if epoch < s.memberEpoch p then s else s.noteClosed p closed

/-- CLOSED_TIME arrives. -/
def execClosedTime (w : Wy) (h : MHead) (p epoch closed : Nat) (s : State) : Host.Outcome State Fault Refusal :=
  .next (s.mortarIn w h (.closedTime w h p epoch closed) (fun s => s.doClosedTime p epoch closed))

/-! ### A new home (R129) -/

/-- Put a chunk entry into a recipe, in value order (R156). -/
def insertEntry (e : RecipeEntry) : List RecipeEntry → List RecipeEntry
  | [] => [e]
  | x :: rest => if e.start < x.start then e :: x :: rest else if e = x then x :: rest else x :: insertEntry e rest

/-- A version with what another of its segments holds. -/
def joinVer (old new : ValueVer) : ValueVer :=
  { old with chunks := new.chunks.foldl (fun l e => insertEntry e l) old.chunks, holes := if old.holes = [] then new.holes else old.holes }

/-- Every segment of a record's commit is among some records (R156). -/
def wholeIn (l : List IdxRec) (r : IdxRec) : Bool :=
  (List.range r.segments).all (fun i => l.any (fun x =>
    x.segment = i && x.version = r.version && x.keyspace = r.keyspace && x.requestId = r.requestId))

/-- Add an adopted record to the index and the outcomes; a further segment joins the version that the others gave. -/
def State.adoptWritten (s : State) (r : IdxRec) : State :=
  let s1 := r.adds.foldl (fun s a =>
    match (s.hist r.keyspace a.1).find? (fun v => v.time = a.2.time) with
    | some v => if r.segments ≤ 1 then s
        else s.modStore (fun t => { t with index := addVersion t.index r.keyspace a.1 (joinVer v a.2) })
    | none => s.modStore (fun t => { t with index := addVersion t.index r.keyspace a.1 a.2 })) s
  s1.recordOutcome r.keyspace r.requestId (.done r.status r.version r.result r.detail)

/-- Adopt a record (R129): one that is staged for a cast not yet READY stays staged (R277); one whose cast is READY has a version only. -/
def State.adoptRec (s : State) (p : Nat) (r : IdxRec) : State :=
  match r.staged with
  | none => s.adoptWritten r
  | some t =>
    if s.stagedDue r then r.adds.foldl (fun s a => s.modStore (fun x => { x with index := addVersion x.index r.keyspace a.1 a.2 })) s
    else s.adoptStaged p r t

/-- Records in rising order of version, each once. -/
def insertRec (r : IdxRec) : List IdxRec → List IdxRec
  | [] => [r]
  | x :: rest => if r = x then x :: rest else if r.version ≤ x.version then r :: x :: rest else x :: insertRec r rest

/-- The new home adopts the union of the records, those of a commit of which a segment is missing aside, places it at the new replica set, and sets its clock and closed time
(R129 steps 2-4); with nothing to place it opens at once. -/
def State.adopt (s : State) (p : Nat) : State :=
  match s.partSt p, s.partEntry p with
  | some x, some e =>
    let own := (s.store.replRecs.filter (fun r => r.p = p)).map (fun r => r.content)
    let all := (own ++ x.collected).foldl (fun l r => insertRec r l) []
    let union := all.filter (wholeIn all)
    let s1 := union.foldl (fun s r => s.adoptRec p r) s
    let w := s1.holder p
    let top := union.foldl (fun a r => max a r.version) 0
    let s2 := s1.modClk w (fun c => { c with hlc := max c.hlc top })
    let s3 := union.foldl (fun s r => s.storeRec p e.epoch s.myId r none) s2
    let to_ := [e.standby1, e.standby2].flatMap (fun b => union.map (fun r => (b, r)))
    let s4 := to_.foldl (fun s x => s.toPart w x.1 p (.indexPut p e.epoch (s.closedOf p) x.2)) s3
    let wait := to_.map (fun x => (x.1, x.2.version)) ++ (union.filter (s3.indexWaits p)).map (fun r => (s.myId, r.version))
    let s5 := s4.modPart p (fun y => { y with toPlace := wait, collected := [] })
    s5.openReady p
  | _, _ => s

/-- The partition's records as a member hands them to the new home (R129 step 1). -/
def State.doPartCollect (s : State) (w : Wy) (h : MHead) (p epoch : Nat) : State :=
  let recs := (s.store.replRecs.filter (fun r => r.p = p)).map (fun r => r.content)
  let closed := max ((tableGet? s.store.standbyClosed p).getD 0) (s.closedOf p)
  let s1 := s.modStore (fun t => { t with standbyEpoch := tablePut t.standbyEpoch p (max epoch (s.memberEpoch p)) })
  s1.mortarOut w h.src h.srcW (.partRecords p (epoch - 1) closed recs)

/-- PART_COLLECT arrives. -/
def execPartCollect (w : Wy) (h : MHead) (p epoch : Nat) (s : State) : Host.Outcome State Fault Refusal :=
  .next (s.mortarIn w h (.partCollect w h p epoch) (fun s => s.doPartCollect w h p epoch))

/-- Records of a partition that an open home does not hold in its window, lost there (R21), are written there again. -/
def State.regain (s : State) (p : Nat) (recs : List IdxRec) : State :=
  let e := ((s.partEntry p).map (fun e => e.epoch)).getD 0
  (recs.filter (fun r => !s.store.replRecs.any (fun x => x.p = p && x.content = r))).foldl (fun s r =>
    (s.adoptRec p r).storeRec p e s.myId r none) s

/-- PART_RECORDS at the new home: once every reachable member has answered, the union is adopted. -/
def State.doPartRecords (s : State) (src p closed : Nat) (recs : List IdxRec) : State :=
  match s.partSt p with
  | none => s
  | some x =>
    if x.opened then s.regain p recs
    else if !x.collect.contains src then s
    else
      let left := (x.collect.erase src).filter (fun b => s.isMember b)
      let s1 := s.modPart p (fun y =>
        { y with collect := left, collected := y.collected ++ recs, closed := max y.closed closed })
      if left = [] then s1.adopt p else s1

/-- PART_RECORDS arrives. -/
def execPartRecords (w : Wy) (h : MHead) (p epoch closed : Nat) (recs : List IdxRec) (s : State) :
    Host.Outcome State Fault Refusal :=
  .next (s.mortarIn w h (.partRecords w h p epoch closed recs) (fun s => s.doPartRecords h.src p closed recs))

/-- PART_HANDOVER: the old home's hybrid clock and closed time (R130). -/
def State.doPartHandover (s : State) (p hlc closed : Nat) : State :=
  let w := s.holder p
  ((s.modClk w (fun c => { c with hlc := max c.hlc hlc })).noteClosed p closed).modPart p
    (fun x => { x with closed := max x.closed closed })

/-- PART_HANDOVER arrives. -/
def execPartHandover (w : Wy) (h : MHead) (p epoch hlc closed : Nat) (s : State) : Host.Outcome State Fault Refusal :=
  .next (s.mortarIn w h (.partHandover w h p epoch hlc closed) (fun s => s.doPartHandover p hlc closed))

/-- Begin the take-over of a partition that the map newly homes on this brick: opened at once in the wall's first map,
which no record precedes; otherwise its records are collected first (R129), and the armature leader's cast registry is fetched for the PENDING
casts that the partition must hold its horizon for (R124). -/
def State.takeHome (s : State) (p : Nat) (e : PartEntry) (first : Bool) : State :=
  let others := [e.standby1, e.standby2].filter (fun b => s.isMember b && b ≠ s.myId)
  let x : PartSt :=
    { p := p, opened := false, fenced := false, moving := e.moving, moveTo := none, movedAt := s.now,
      closed := max (s.closedOf p) ((tableGet? s.store.standbyClosed p).getD 0), epoch := e.epoch, collect := if first then [] else others,
      collected := [], toPlace := [], needCasts := !first && s.wall.arm.role ≠ .leader && s.registryAt.isSome }
  let s1 := s.modStore (fun t => { t with parts := t.parts.filter (fun y => y.p ≠ p) ++ [x] })
  let s2 := match x.needCasts, s.registryAt with
    | true, some b => s1.askState (s.holder p) b .casts
    | _, _ => s1
  if first then s2.openPart p
  else if others = [] then s2.adopt p
  else others.foldl (fun s b => s.toPart (s.holder p) b p (.partCollect p e.epoch)) s2

/-- The brick is moving a wythe's partitions away: OUT_OF_SYNC, or leaving after a removal's DRAIN_AT (R115, R454). -/
def State.movesAway (s : State) (w : Wy) : Bool :=
  !(s.wy w).clk.inSync || s.wall.st = .leaving

/-- A removal's DRAIN_AT has not come yet: no partition moves (R49, R454). -/
def State.beforeDrain (s : State) (w : Wy) : Bool := (s.wy w).relief.drain.any (fun d => !d.activation && !d.reached)

/-- A partition that stays homed here, with its new epoch and MOVING flag: commits in flight are placed again at the new
replica set (R116, R128); a take-over that has not ended begins anew with the new epoch's members (R129). -/
def State.keepHome (s : State) (p : Nat) (e : PartEntry) (x : PartSt) : State :=
  let w := s.holder p
  let still := (e.moving && !s.beforeDrain w) || (x.moving && s.movesAway w)
  let s1 := s.modPart p (fun y =>
    { y with
      moving := still
      epoch := e.epoch
      movedAt := if still && !x.moving then s.now else y.movedAt
      moveTo := if still then some (y.moveTo.getD e.standby1) else none })
  if x.epoch = e.epoch then s1
  else if !x.opened && !x.ready then s1.takeHome p e false
  else
    let w := s1.holder p
    let mine := (s1.wy w).relief.commits.filter (fun k => k.part = p)
    let s2 := s1.modRelief w (fun r => { r with commits := updAll (fun k => k.part = p) (fun k => { k with acks := [] }) r.commits })
    mine.foldl (fun s k => (s.storeCommit e.epoch k).sendIndex w k) s2

/-- Follow a newer map in the roles of this brick's partitions. -/
def State.onMap (s : State) (first : Bool) : State :=
  s.store.map.parts.foldl (fun s pe =>
    let p := pe.1
    let e := pe.2
    match s.wall.brickId with
    | none => s
    | some b =>
      if e.home = b then
        match s.partSt p with
        | none => s.takeHome p e first
        | some x => s.keepHome p e x
      else if (s.partSt p).isSome then
        (s.modStore (fun t => { t with parts := t.parts.filter (fun y => y.p ≠ p) })).sendAway (s.holder p) p e.home 0
      else s) s

/-! ### Planned moves (R115, R130, R454) -/

/-- The first standby of a partition that may be IN_SYNC. -/
def State.moveTarget (s : State) (p : Nat) : Option Nat :=
  match s.partEntry p with
  | none => none
  | some e => [e.standby1, e.standby2].find? (fun b => s.isMember b && !s.wall.bricks.any (fun r => r.id = b && !r.inSync))

/-- Start planned moves of a wythe's home partitions, 16 of the brick at a time (R115, R222, R454). -/
def State.startMoves (s : State) (w : Wy) : State :=
  let going := (s.store.parts.filter (fun x => x.moving && !x.fenced)).length
  let want := (s.store.parts.filter (fun x => s.holder x.p = w && !x.moving && !x.fenced && (s.moveTarget x.p).isSome)).take
    (16 - going)
  want.foldl (fun s x => s.modPart x.p (fun y => { y with moving := true, moveTo := s.moveTarget x.p, movedAt := s.now })) s

/-- The end of a planned move at the old home (R130): with no commit left it passes its clock and closed time on, and answers
REDIRECT from then on, to the READ_AT reads that it held too; further moves follow. -/
def State.endMove (s : State) (p : Nat) : State :=
  let w := s.holder p
  match s.partSt p with
  | none => s
  | some x =>
    if !x.moving || x.fenced || (s.wy w).relief.commits.any (fun k => k.part = p) then s
    else
      let s1 := match x.moveTo with
        | some b => s.toPart w b p (.partHandover p x.epoch (s.wy w).clk.hlc x.closed)
        | none => s
      let s2 := (s1.modPart p (fun y => { y with fenced := true })).sendAway w p (x.moveTo.getD s.myId) 0
      if s2.movesAway w then s2.startMoves w else s2

/-! ### Closed time, synchrony and leases (R114, R120, R127) -/

/-- CLOSED_TIME_PUBLISH: the wythe's closed time, to its partitions and their standbys (R120). -/
def execClosedTimePublish (w : Wy) (s : State) : Host.Outcome State Fault Refusal :=
  let c := s.closedNow w
  let s1 := s.modClk w (fun k => { k with closed := c })
  .next ((s1.store.parts.filter (fun x => s1.holder x.p = w && x.opened && !x.fenced)).foldl (fun s x =>
    let c2 := max c x.closed
    let s2 := s.modPart x.p (fun y => { y with closed := c2 })
    (s2.standbys x.p).foldl (fun s b => s.toPart w b x.p (.closedTime x.p x.epoch c2)) s2) s1)

/-- The uncertainty of a wythe's offset: it grows by 2 µs per second of holdover (R225), and a 1PPS disagreement adds to it (R223). -/
def State.uncertainty (s : State) (w : Wy) : Nat :=
  let m := (s.wy w).mortar
  let pps := if s.wall.settings.ppsIn then (s.wy w).ptp.ppsNs else 0
  match m.lostAt with
  | some t => m.uncertNs + (s.now - t) * 2 / 1000000 + pps
  | none => m.uncertNs + pps

/-- A wythe's offset from the grandmaster plus its uncertainty, in ns, as its servo holds them (R114, R223, R225). -/
def State.clockSum (s : State) (w : Wy) : Nat := (s.wy w).mortar.offsetNs + s.uncertainty w

/-- Note since when a wythe's offset plus uncertainty has been at or below ε ÷ 4 (R114). -/
def State.servo (s : State) (w : Wy) : State :=
  let quiet := decide (4 * s.clockSum w ≤ s.wall.settings.epsUs * 1000)
  s.modClk w (fun c => { c with quietSince := if quiet then some (c.quietSince.getD s.now) else none })

/-- OUT_OF_SYNC: the sum exceeds ε ÷ 2; the wythe stops assigning versions, records the FAULT event and starts moving its
partitions (R114, R115, R535). -/
def execOutOfSync (w : Wy) (s : State) : Host.Outcome State Fault Refusal :=
  let s1 := s.servo w
  let sum := s.clockSum w
  if s.wall.settings.epsUs * 1000 < 2 * sum && (s1.wy w).clk.inSync then
    let n := (s1.store.parts.filter (fun x => s1.holder x.p = w)).length
    let detail := leBytes 1 w.num ++ zeroBytes 3 ++ leBytes 4 (satBits 32 (sum / 1000))
      ++ leBytes 4 (s.wall.settings.epsUs / 2) ++ leBytes 2 n
    let s2 := (s1.modClk w (fun c => { c with inSync := false })).event (.mtr w) MTR_EVT_SYNC_LOST
    .next ((s2.record (srcOf w) 2 0x0C01 (pageIdOf (.mtr w)).toNat detail).startMoves w)
  else .next s1

/-- IN_SYNC_RETURN: the sum has stayed at or below ε ÷ 4 for 10 s (R114). -/
def execInSyncReturn (w : Wy) (s : State) : Host.Outcome State Fault Refusal :=
  let s1 := s.servo w
  if (s1.wy w).clk.quietSince.any (fun t => s1.since t (sec 10)) then .next (s1.modClk w (fun c => { c with inSync := true }))
  else .next s1

/-- LEASE_LAPSE: the lease has run out; from then on the wythe's commands are answered UNAVAILABLE (R127). -/
def execLeaseLapse (w : Wy) (s : State) : Host.Outcome State Fault Refusal :=
  .next (if s.leaseOk then s else s.event (.mtr w) MTR_EVT_LEASE_LOST)

/-- DRAIN_AT: a draining wythe refuses new commands from now on (R98); a brick that is being removed starts moving its home
partitions (R454). -/
def execDrainAt (w : Wy) (s : State) : Host.Outcome State Fault Refusal :=
  match (s.wy w).relief.drain with
  | none => .next s
  | some d =>
    if s.hybrid w < d.at_ then .next s
    else
      let s1 := s.modRelief w (fun r => { r with drain := some { d with reached := true } })
      .next (if d.activation then s1 else s1.startMoves w)

/-! ### Casts at a home and at the receiving brick (R124) -/

/-- CAST_ANNOUNCE: the home holds its horizon at T, or refuses when its horizon has passed it (R124 step 4). -/
def State.doCastAnnounce (s : State) (w : Wy) (h : MHead) (id : Nat) (ks : BitVec 32) (t : Nat) : State :=
  let passed := s.store.parts.any (fun x => t < s.horizonAt ks x.p)
  let s1 := if passed then s else
    s.modStore (fun x => { x with holds := x.holds.filter (fun y => y.1 ≠ id) ++ [(id, ks, t)] })
  s1.mortarOut w h.src h.srcW (.castConfirm id (!passed))

/-- CAST_ANNOUNCE arrives. -/
def execCastAnnounce (w : Wy) (h : MHead) (id : Nat) (keyspace : BitVec 32) (t : Nat) (s : State) :
    Host.Outcome State Fault Refusal :=
  .next (s.mortarIn w h (.castAnnounce w h id keyspace t) (fun s => s.doCastAnnounce w h id keyspace t))

/-- A CAST or CAST_DROP ends as the armature says (R77, R78, R124); its outcome is kept for an OUTCOME with no key (R80). -/
def State.endCast (s : State) (w : Wy) (c : Cmd) (id : Nat) (status : Status) (t : Nat) : State :=
  let d : Detail := if status = .full then .castLimit else .none
  let ok := decide (status = .ok) && decide (c.op = .cast)
  let v := if ok then t else 0
  let r := if ok then id else 0
  let o : OutcomeRec := { keyspace := c.cap.keyspace, requestId := c.cap.requestId, st := .done status v r d, since := s.now }
  (s.modStore (fun x => { x with
    armOutcomes := x.armOutcomes.filter (fun y => ¬ (y.keyspace = o.keyspace ∧ y.requestId = o.requestId)) ++ [o] })).finish w c status d 0 v r

/-- CAST_DONE: the receiving brick completes its CAST or CAST_DROP. DESIGN CHOICE (log 227): the message carries no keyspace; of two waiting
commands of one request id in two keyspaces, which the spec allows, the one that has waited longer is answered. -/
def State.doCastDone (s : State) (id : Nat) (status : Status) (t : Nat) (rid : BitVec 64) : State :=
  let mine := fun c : Cmd => c.phase = .armature && c.cap.requestId = rid
  let both := wythes.flatMap (fun w => ((s.wy w).relief.cmds.filter mine).map (fun c => (w, c)))
  match both.find? (fun x => both.all (fun y => x.2.arrived ≤ y.2.arrived)) with
  | some x => s.endCast x.1 x.2 id status t
  | none => s

/-- CAST_DONE arrives. -/
def execCastDone (w : Wy) (h : MHead) (id : Nat) (status : Status) (t : Nat) (requestId : BitVec 64) (s : State) :
    Host.Outcome State Fault Refusal :=
  .next (s.mortarIn w h (.castDone w h id status t requestId) (fun s => s.doCastDone id status t requestId))

end Sys2Proof.Machine
end

