-- ==== Sys2Proof/Machine/Zstd.lean ====
section
/-! DEFINITION. The Zstandard frame of R142, as the decompression unit reads it within the limits of R144: one frame, no dictionary, a
window of at most 256 KiB. PRESUMED, log 193: RFC 8878. -/

namespace Sys2Proof.Machine

/-! ### Bits read backwards -/

/-- The bits of a stream that is read from its end: after the mark, the highest set bit of the last byte, in reading order. -/
def backwardBits (b : Bytes) : Option (List Bool) :=
  match b.getLast? with
  | none => none
  | some x =>
    if x = 0 then none
    else some (((b.reverse.flatMap (fun x => (List.range 8).map (fun i => x.getLsbD (7 - i)))).dropWhile (fun b => !b)).drop 1)

/-- The next n bits as a number, the first the most significant, and the bits that follow; none where fewer are left. -/
def readHigh : Nat → List Bool → Nat → Option (Nat × List Bool)
  | 0, l, a => some (a, l)
  | _ + 1, [], _ => none
  | n + 1, b :: rest, a => readHigh n rest (2 * a + b2n b)

/-- The next n bits as a number, zeros standing for bits past the end. -/
def peekHigh (n : Nat) (l : List Bool) : Nat := (List.range n).foldl (fun a i => 2 * a + b2n (l.getD i false)) 0

/-! ### FSE tables -/

/-- A state of an FSE table: its symbol, and what the next state is read from. -/
structure FseState where
  sym  : Nat
  bits : Nat
  base : Nat
  deriving DecidableEq, Repr

/-- An FSE table of 2^log states. -/
structure FseTable where
  log    : Nat
  states : List FseState
  deriving DecidableEq, Repr

/-- The next place of the spreading, past the places kept at the end. -/
def fsePlace (size high : Nat) : Nat → Nat → Nat
  | 0, p => p
  | n + 1, p =>
    let q := (p + size / 2 + size / 8 + 3) % size
    if q < high then q else fsePlace size high n q

/-- The table of a distribution: a symbol of probability "below one" is written as none. -/
def fseTable (log : Nat) (dist : List (Option Nat)) : FseTable :=
  let size := 2 ^ log
  let low := (dist.zipIdx.filter (fun e => e.1 = none)).map (fun e => e.2)
  let high := size - low.length
  let kept := low.zipIdx.foldl (fun (t : List Nat) e => t.set (size - 1 - e.2) e.1) (List.replicate size 0)
  let spread := dist.zipIdx.flatMap (fun e => List.replicate (e.1.getD 0) e.2)
  let syms := (spread.foldl (fun (x : List Nat × Nat) s => (x.1.set x.2 s, fsePlace size high size x.2)) (kept, 0)).1
  let step := fun (x : List FseState × List Nat) (s : Nat) =>
    let next := x.2.getD s 0
    let n := log - Nat.log2 next
    (x.1 ++ [{ sym := s, bits := n, base := next * 2 ^ n - size }], x.2.set s (next + 1))
  { log := log, states := (syms.foldl step ([], dist.map (fun p => p.getD 1))).1 }

/-- A table of one symbol. -/
def fseOne (s : Nat) : FseTable := { log := 0, states := [{ sym := s, bits := 0, base := 0 }] }

/-- Runs of zero probability: two bits each, 3 goes on. -/
def zeroRuns : Nat → List Bool → Option (Nat × List Bool)
  | 0, _ => none
  | n + 1, l => do
    let (k, l) ← readLow 2 l
    if k = 3 then (zeroRuns n l).map (fun x => (x.1 + 3, x.2)) else some (k, l)

/-- The probabilities that a description gives, while some of the table is left; oldest first. -/
def fseProbs : Nat → Nat → Nat → List Bool → List (Option Nat) → Option (List (Option Nat) × List Bool)
  | 0, _, _, _, _ => none
  | n + 1, most, left, l, got =>
    if left = 0 then some (got, l)
    else if most ≤ got.length then none
    else do
      let w := Nat.log2 (left + 1) + 1
      let half := 2 ^ (w - 1)
      let cut := 2 ^ w - 1 - (left + 1)
      let (low, l1) ← readLow (w - 1) l
      let (v, l) ← if low < cut then some (low, l1) else
        (readLow 1 l1).map (fun x => (if x.1 = 0 then low else low + half - cut, x.2))
      let used := if v = 0 then 1 else v - 1
      if left < used then none
      else if v = 0 then fseProbs n most (left - 1) l (got ++ [none])
      else if v = 1 then do
        let (z, l) ← zeroRuns l.length l
        fseProbs n most left l (got ++ List.replicate (z + 1) (some 0))
      else fseProbs n most (left - used) l (got ++ [some (v - 1)])

/-- A table from its description, and how many bytes that took. -/
def readFse (maxLog most : Nat) (b : Bytes) : Option (FseTable × Nat) := do
  let (a, l) ← readLow 4 (forwardBits b)
  let log := a + 5
  if maxLog < log then none
  else
    let (dist, rest) ← fseProbs (most + 1) most (2 ^ log) l []
    if most < dist.length then none
    else some (fseTable log dist, b.length - rest.length / 8)

/-- A state of a table. -/
def FseTable.at_ (t : FseTable) (i : Nat) : FseState := t.states.getD i { sym := 0, bits := 0, base := 0 }

/-! ### Huffman-coded literals -/

/-- A Huffman table: for each value of the next `log` bits, the symbol and the bits of its code. -/
structure HufTable where
  log     : Nat
  entries : List (Nat × Nat)
  deriving DecidableEq, Repr

/-- The table of the weights that are written; that of the last symbol follows from them. -/
def hufTable (weights : List Nat) : Option HufTable :=
  let sum := (weights.filter (fun w => w ≠ 0)).foldl (fun a w => a + 2 ^ (w - 1)) 0
  if sum = 0 then none
  else
    let log := Nat.log2 sum + 1
    let left := 2 ^ log - sum
    let last := Nat.log2 left + 1
    if 11 < log || 2 ^ (last - 1) ≠ left then none
    else
      let all := (weights ++ [last]).zipIdx
      some
        { log := log
          entries := (List.range log).flatMap (fun i =>
            (all.filter (fun e => e.1 = i + 1)).flatMap (fun e => List.replicate (2 ^ i) (e.2, log - i))) }

/-- The weights of two interleaved FSE states, until the bits run out. -/
def fseWeights : Nat → FseTable → List Bool → Nat → Nat → List Nat → Option (List Nat)
  | 0, _, _, _, _, _ => none
  | n + 1, t, l, a, b, got =>
    let got := got ++ [(t.at_ a).sym]
    match readHigh (t.at_ a).bits l 0 with
    | none => some (got ++ [(t.at_ b).sym])
    | some (x, l) => fseWeights n t l b ((t.at_ a).base + x) got

/-- A Huffman table from its description, and the bytes that follow. -/
def readHuf (b : Bytes) : Option (HufTable × Bytes) := do
  let h ← b.head?
  let b := b.drop 1
  if 128 ≤ h.toNat then
    let n := h.toNat - 127
    let k := (n + 1) / 2
    if b.length < k then none
    else do
      let t ← hufTable (((b.take k).flatMap (fun x => [x.toNat / 16, x.toNat % 16])).take n)
      some (t, b.drop k)
  else if b.length < h.toNat then none
  else do
    let mine := b.take h.toNat
    let (t, used) ← readFse 6 16 mine
    let l ← backwardBits (mine.drop used)
    let (x, l) ← readHigh t.log l 0
    let (y, l) ← readHigh t.log l 0
    let w ← fseWeights 256 t l x y []
    if 255 < w.length then none
    else
      let t ← hufTable w
      some (t, b.drop h.toNat)

/-- `n` symbols of a stream; none unless they take up all of it. -/
def hufSymbols : Nat → HufTable → List Bool → Bytes → Option Bytes
  | 0, _, l, out => if l = [] then some out.reverse else none
  | n + 1, t, l, out => do
    let (s, k) ← t.entries[peekHigh t.log l]?
    if l.length < k then none else hufSymbols n t (l.drop k) (BitVec.ofNat 8 s :: out)

/-- The literals of one stream. -/
def hufStream (t : HufTable) (n : Nat) (b : Bytes) : Option Bytes := do
  let l ← backwardBits b
  hufSymbols n t l []

/-- The literals of four streams behind their jump table. -/
def hufStreams (t : HufTable) (n : Nat) (b : Bytes) : Option Bytes := do
  let size := fun i => ofLe (sliceBytes b (2 * i) 2)
  let x := b.drop 6
  let used := size 0 + size 1 + size 2
  let each := (n + 3) / 4
  if b.length < 6 || x.length < used || n < 3 * each then none
  else do
    let s0 ← hufStream t each (x.take (size 0))
    let s1 ← hufStream t each (sliceBytes x (size 0) (size 1))
    let s2 ← hufStream t each (sliceBytes x (size 0 + size 1) (size 2))
    let s3 ← hufStream t (n - 3 * each) (x.drop used)
    some (s0 ++ s1 ++ s2 ++ s3)

/-! ### Blocks -/

/-- What a block leaves to the next: the tables in force, the last three offsets and the bytes so far, newest first. -/
structure ZState where
  huf  : Option HufTable
  ll   : Option FseTable
  off  : Option FseTable
  ml   : Option FseTable
  reps : List Nat
  out  : Bytes
  deriving DecidableEq, Repr

/-- The literals section: the literals, the state after it and the bytes that follow. -/
def literals (z : ZState) (b : Bytes) : Option (Bytes × ZState × Bytes) := do
  let h ← b.head?
  let kind := h.toNat % 4
  let form := h.toNat / 4 % 4
  if kind < 2 then
    let bytes := if form % 2 = 0 then 1 else if form = 1 then 2 else 3
    let head := ofLe (b.take bytes)
    let n := if form % 2 = 0 then head / 8 else head / 16
    let rest := b.drop bytes
    if b.length < bytes || 131072 < n then none
    else if kind = 0 then (if rest.length < n then none else some (rest.take n, z, rest.drop n))
    else do
      let x ← rest.head?
      some (List.replicate n x, z, rest.drop 1)
  else
    let bytes := if form < 2 then 3 else form + 2
    let w := if form < 2 then 10 else 4 * form + 6
    let head := ofLe (b.take bytes) / 16
    let n := head % 2 ^ w
    let size := head / 2 ^ w
    let rest := b.drop bytes
    if b.length < bytes || rest.length < size || 131072 < n then none
    else do
      let (t, x) ← if kind = 2 then readHuf (rest.take size) else z.huf.map (fun t => (t, rest.take size))
      let lit ← if form = 0 then hufStream t n x else hufStreams t n x
      some (lit, { z with huf := some t }, rest.drop size)

/-- The distributions in force where a block names none, by the runs of equal probabilities, 0 standing for "below one". -/
def runsOf (l : List (Nat × Nat)) : List (Option Nat) :=
  l.flatMap (fun e => List.replicate e.1 (if e.2 = 0 then none else some e.2))

/-- The default table of literal lengths. -/
def defaultLl : FseTable := fseTable 6 (runsOf [(1, 4), (1, 3), (11, 2), (3, 1), (9, 2), (1, 3), (1, 2), (5, 1), (4, 0)])

/-- The default table of offsets. -/
def defaultOff : FseTable := fseTable 5 (runsOf [(6, 1), (3, 2), (15, 1), (5, 0)])

/-- The default table of match lengths. -/
def defaultMl : FseTable := fseTable 6 (runsOf [(1, 1), (1, 4), (1, 3), (6, 2), (37, 1), (7, 0)])

/-- A table of the sequences section by its mode, and the bytes that follow. -/
def seqTable (mode maxLog most : Nat) (dflt : FseTable) (prev : Option FseTable) (b : Bytes) : Option (FseTable × Bytes) :=
  if mode = 0 then some (dflt, b)
  else if mode = 1 then b.head?.bind (fun x => if most < x.toNat + 1 then none else some (fseOne x.toNat, b.drop 1))
  else if mode = 2 then (readFse maxLog most b).map (fun x => (x.1, b.drop x.2))
  else prev.map (fun t => (t, b))

/-- A literal length's base and extra bits. -/
def llCode (c : Nat) : Nat × Nat :=
  if c < 16 then (c, 0) else if c < 20 then (16 + 2 * (c - 16), 1) else if c < 22 then (24 + 4 * (c - 20), 2)
  else if c < 24 then (32 + 8 * (c - 22), 3) else if c = 24 then (48, 4) else (2 ^ (c - 19), c - 19)

/-- A match length's base and extra bits. -/
def mlCode (c : Nat) : Nat × Nat :=
  if c < 32 then (c + 3, 0) else if c < 36 then (35 + 2 * (c - 32), 1) else if c < 38 then (43 + 4 * (c - 36), 2)
  else if c < 40 then (51 + 8 * (c - 38), 3) else if c < 42 then (67 + 16 * (c - 40), 4) else if c = 42 then (99, 5)
  else (3 + 2 ^ (c - 36), c - 36)

/-- The offset that a value names, and the last three offsets after it. -/
def offsetOf (reps : List Nat) (v ll : Nat) : Nat × List Nat :=
  let r := fun i => reps.getD i 1
  if 3 < v then (v - 3, [v - 3, r 0, r 1])
  else
    let i := v - 1 + b2n (ll = 0)
    let o := if i = 3 then r 0 - 1 else r i
    (o, if i = 0 then reps else if i = 1 then [o, r 0, r 2] else [o, r 0, r 1])

/-- The states of the three tables. -/
structure SeqAt where
  ll  : Nat
  off : Nat
  ml  : Nat
  deriving DecidableEq, Repr

/-- `n` sequences from the bits: each copies literals and then a match. -/
def sequences (ll off ml : FseTable) (window : Nat) : Nat → SeqAt → List Bool → Bytes → ZState → Option (Bytes × ZState)
  | 0, _, l, lit, z => if l = [] then some (lit, z) else none
  | n + 1, a, l, lit, z => do
    let o := off.at_ a.off
    let m := ml.at_ a.ml
    let k := ll.at_ a.ll
    if 31 < o.sym || 52 < m.sym || 35 < k.sym then none
    else do
      let (x, l) ← readHigh o.sym l 0
      let (y, l) ← readHigh (mlCode m.sym).2 l 0
      let (v, l) ← readHigh (llCode k.sym).2 l 0
      let nLit := (llCode k.sym).1 + v
      let (far, reps) := offsetOf z.reps (2 ^ o.sym + x) nLit
      let out := (lit.take nLit).reverse ++ z.out
      if lit.length < nLit || far = 0 || out.length < far || window < far then none
      else
        let z := { z with reps := reps, out := copyBack ((mlCode m.sym).1 + y) far out }
        if n = 0 then sequences ll off ml window n a l (lit.drop nLit) z
        else do
          let (p, l) ← readHigh k.bits l 0
          let (q, l) ← readHigh m.bits l 0
          let (r, l) ← readHigh o.bits l 0
          sequences ll off ml window n { ll := k.base + p, off := o.base + r, ml := m.base + q } l (lit.drop nLit) z

/-- A compressed block. -/
def zBlock (window : Nat) (z : ZState) (b : Bytes) : Option ZState := do
  let (lit, z, b) ← literals z b
  let h ← b.head?
  let (n, used) :=
    if h.toNat < 128 then (h.toNat, 1)
    else if h.toNat < 255 then ((h.toNat - 128) * 256 + ofLe (sliceBytes b 1 1), 2)
    else (ofLe (sliceBytes b 1 2) + 0x7F00, 3)
  if n = 0 then (if b.length = 1 then some { z with out := lit.reverse ++ z.out } else none)
  else do
    let modes ← b[used]?
    let b := b.drop (used + 1)
    if modes.toNat % 4 ≠ 0 then none
    else do
      let (ll, b) ← seqTable (modes.toNat / 64) 9 36 defaultLl z.ll b
      let (off, b) ← seqTable (modes.toNat / 16 % 4) 8 32 defaultOff z.off b
      let (ml, b) ← seqTable (modes.toNat / 4 % 4) 9 53 defaultMl z.ml b
      let l ← backwardBits b
      let (x, l) ← readHigh ll.log l 0
      let (y, l) ← readHigh off.log l 0
      let (v, l) ← readHigh ml.log l 0
      let (rest, z) ← sequences ll off ml window n { ll := x, off := y, ml := v } l lit z
      some { z with ll := some ll, off := some off, ml := some ml, out := rest.reverse ++ z.out }

/-- The blocks of a frame up to the last, at most as many as the first argument, and the bytes that follow. -/
def zBlocks (window : Nat) : Nat → Bytes → ZState → Option (Bytes × ZState)
  | 0, _, _ => none
  | n + 1, b, z => do
    let head := ofLe (b.take 3)
    let kind := head / 2 % 4
    let size := head / 8
    let rest := b.drop 3
    let most := min window 131072
    if b.length < 3 || most < size then none
    else do
      let (b, next) ←
        if kind = 0 then (if rest.length < size then none else some (rest.drop size, { z with out := (rest.take size).reverse ++ z.out }))
        else if kind = 1 then rest.head?.map (fun x => (rest.drop 1, { z with out := List.replicate size x ++ z.out }))
        else if kind = 2 then (if rest.length < size then none else (zBlock window z (rest.take size)).map (fun z => (rest.drop size, z)))
        else none
      if z.out.length + most < next.out.length then none
      else if head % 2 = 1 then some (b, next) else zBlocks window n b next

/-! ### The content checksum -/

/-- The five constants of XXH64. -/
def xxPrime (i : Nat) : BitVec 64 :=
  BitVec.ofNat 64 (bits 0x9E3779B185EBCA87C2B2AE3D27D4EB4F165667B19E3779F985EBCA77C2B2AE6327D4EB2F165667C5 (64 * (4 - i) + 63) (64 * (4 - i)))

/-- A round of XXH64. -/
def xxRound (a x : BitVec 64) : BitVec 64 := (a + x * xxPrime 1).rotateLeft 31 * xxPrime 0

/-- Eight bytes of a string as a number. -/
def xxWord (b : Bytes) (i : Nat) : BitVec 64 := BitVec.ofNat 64 (ofLe (sliceBytes b i 8))

/-- The bytes behind the stripes of 32. -/
def xxTail : Nat → BitVec 64 → Bytes → BitVec 64
  | 0, h, _ => h
  | n + 1, h, b =>
    if 8 ≤ b.length then xxTail n ((h ^^^ xxRound 0 (xxWord b 0)).rotateLeft 27 * xxPrime 0 + xxPrime 3) (b.drop 8)
    else if 4 ≤ b.length then
      xxTail n ((h ^^^ BitVec.ofNat 64 (ofLe (b.take 4)) * xxPrime 0).rotateLeft 23 * xxPrime 1 + xxPrime 2) (b.drop 4)
    else match b with
      | [] => h
      | x :: rest => xxTail n ((h ^^^ x.setWidth 64 * xxPrime 4).rotateLeft 11 * xxPrime 0) rest

/-- XXH64 with seed 0. -/
def xxh64 (b : Bytes) : BitVec 64 :=
  let lane := fun (i : Nat) (v : BitVec 64) => (List.range (b.length / 32)).foldl (fun v j => xxRound v (xxWord b (32 * j + 8 * i))) v
  let v := fun i => lane i (match i with | 0 => xxPrime 0 + xxPrime 1 | 1 => xxPrime 1 | 2 => 0 | _ => 0 - xxPrime 0)
  let merge := fun (h : BitVec 64) (i : Nat) => (h ^^^ xxRound 0 (v i)) * xxPrime 0 + xxPrime 3
  let h := if 32 ≤ b.length then
      [0, 1, 2, 3].foldl merge ((v 0).rotateLeft 1 + (v 1).rotateLeft 7 + (v 2).rotateLeft 12 + (v 3).rotateLeft 18)
    else xxPrime 4
  let h := xxTail 32 (h + BitVec.ofNat 64 b.length) (b.drop (b.length / 32 * 32))
  let h := (h ^^^ (h >>> 33)) * xxPrime 1
  let h := (h ^^^ (h >>> 29)) * xxPrime 2
  h ^^^ (h >>> 32)

/-! ### The frame -/

/-- The header of a frame: its window, its content size where present, whether a checksum follows, and the header's length. -/
structure ZHeader where
  window   : Nat
  content  : Option Nat
  checksum : Bool
  length   : Nat
  deriving DecidableEq, Repr

/-- The header of a frame that needs no dictionary. -/
def zHeader (b : Bytes) : Option ZHeader := do
  let d ← (b[4]?).map (fun x => x.toNat)
  let single := bits d 5 5 = 1
  let at1 := if single then 5 else 6
  let dict := match d % 4 with | 0 => 0 | 1 => 1 | 2 => 2 | _ => 4
  let size := match d / 64 with | 0 => b2n single | 1 => 2 | 2 => 4 | _ => 8
  let content := if size = 0 then none else some (ofLe (sliceBytes b (at1 + dict) size) + (if size = 2 then 256 else 0))
  let w := ((b[5]?).map (fun x => x.toNat)).getD 0
  let base := 2 ^ (10 + w / 8)
  let window := if single then content.getD 0 else base + base / 8 * (w % 8)
  let len := at1 + dict + size
  if ofLe (b.take 4) ≠ 0xFD2FB528 || bits d 3 3 = 1 || b.length < len || ofLe (sliceBytes b at1 dict) ≠ 0 then none
  else some { window := window, content := content, checksum := bits d 2 2 = 1, length := len }

/-- The plaintext of one Zstandard frame within the limits of R144; none where it does not decode, needs a larger window or a
dictionary, or other bytes follow it. -/
def zstdDecode (b : Bytes) : Option Bytes := do
  let h ← zHeader b
  if 262144 < h.window then none
  else do
    let (rest, z) ← zBlocks h.window (b.length + 1) (b.drop h.length)
      { huf := none, ll := none, off := none, ml := none, reps := [1, 4, 8], out := [] }
    let out := z.out.reverse
    let tail := if h.checksum then leBytes 4 (xxh64 out).toNat else []
    if rest ≠ tail || h.content.any (fun n => n ≠ out.length) then none else some out

end Sys2Proof.Machine
end

