-- ==== Sys2Proof/Machine/Ingest.lean ====
section
/-! DEFINITION. The rows of the ingest and retrieval pipeline (05): payload, cutting, compression, dispatch to leads, fetches,
degraded reads, decoding, re-verification and repair. Crypt jobs are in Machine/Crypt.lean. -/

namespace Sys2Proof.Machine

/-! ### BATCH descriptors (R75, R76) -/

/-- An entry of a BATCH descriptor from its 64 bytes (R75). -/
def batchEntryOf (b : Bytes) : BatchEntry :=
  { op := ofBe (sliceBytes b 0 1), byte1 := (b.drop 1).headD 0, flags := BitVec.ofNat 16 (ofBe (sliceBytes b 2 2)),
    keyLen := ofBe (sliceBytes b 4 2), keyOff := ofBe (sliceBytes b 6 2), version := ofBe (sliceBytes b 8 8),
    offset := ofBe (sliceBytes b 16 8), length := ofBe (sliceBytes b 24 8), bufAddr := ofBe (sliceBytes b 32 8),
    bufRkey := ofBe (sliceBytes b 40 4), reserved := sliceBytes b 44 20 }

/-- The entries of a descriptor. -/
def batchEntries (n : Nat) (d : Bytes) : List BatchEntry := (List.range n).map (fun i => batchEntryOf (sliceBytes d (64 * i) 64))

/-- The write opcode of a BATCH entry. -/
def batchOp (n : Nat) : Option Opcode :=
  if n = 0x10 then some .put else if n = 0x14 then some .patch else if n = 0x15 then some .punch
  else if n = 0x16 then some .delete else none

/-- The refusal of one entry (R76 step 3): its opcode, reserved fields, flags and key. DESIGN CHOICE (log 202): step 3 does not list a
non-zero buffer remote key of a PUT or PATCH entry on a PCI Express queue pair, which has no remote keys; it is refused as a reserved
field of the entry is. -/
def entryFails (area : Nat) (pcie : Bool) (e : BatchEntry) : Option Detail :=
  match batchOp e.op with
  | none => some .unknownOpcode
  | some op =>
    let allowed := if op = .put then 3 else 1
    let bare := op = .punch || op = .delete
    if e.byte1 ≠ 0 || e.reserved ≠ zeroBytes 20 || e.flags.toNat &&& (0xFFFF - allowed) ≠ 0
        || (bare && (e.bufAddr ≠ 0 || e.bufRkey ≠ 0)) || (op = .delete && (e.offset ≠ 0 || e.length ≠ 0))
        || (pcie && e.bufRkey ≠ 0) then some .reservedNonzero
    else if e.flags.getLsbD 0 && e.flags.getLsbD 1 then some .flagConflict
    else if e.keyLen < 1 || 1024 < e.keyLen || area < e.keyOff + e.keyLen then some .range
    else none

/-- The first entry that is refused, with its index. -/
def firstBadEntry (area : Nat) (pcie : Bool) : Nat → List BatchEntry → Option (Nat × Detail)
  | _, [] => none
  | i, e :: rest => match entryFails area pcie e with
    | some d => some (i, d)
    | none => firstBadEntry area pcie (i + 1) rest

/-- The first key that an earlier entry names too, with its index (R76 step 4). -/
def firstDup : Nat → List Bytes → List Bytes → Option Nat
  | _, _, [] => none
  | i, seen, k :: rest => if seen.contains k then some i else firstDup (i + 1) (seen ++ [k]) rest

/-- The write operations of a descriptor. -/
def batchOps (d : Bytes) (n : Nat) (l : List BatchEntry) : List WriteOp :=
  l.map (fun e =>
    opOf ((batchOp e.op).getD .put) (sliceBytes (d.drop (64 * n)) e.keyOff e.keyLen) e.flags e.version e.offset e.length)

/-- The checks of a pulled descriptor, in the order of R76, and the start of its entries. -/
def State.takeBatch (s : State) (w : Wy) (c : Cmd) (d : Bytes) : State :=
  let n := c.cap.aux.toNat
  let es := batchEntries n d
  let area := c.cap.length.toNat - 64 * n
  let refuse := fun (dt : Detail) (r : Nat) => s.finish w c .badFormat dt 0 0 r
  match firstBadEntry area (!s.isRoce w c.q) 0 es with
  | some (i, dt) => refuse dt i
  | none =>
    let ops := batchOps d n es
    let parts := ops.map (fun o => partOf c.cap.keyspace o.key)
    match firstDup 0 [] (ops.map (fun o => o.key)) with
    | some i => refuse .dupKey i
    | none =>
      match parts with
      | [] => refuse .range 0
      | p :: _ =>
        if parts.any (fun x => x ≠ p) then refuse .crossPartition (parts.findIdx (fun x => x ≠ p))
        else match s.checkHome w .batch c.cap p with
          | some a =>
            let s1 := s.finish w c a.st a.detail a.cflags a.version a.result
            if a.st = .busyRetry then s1.used else s1
          | none =>
            let data := (ops.filter (fun o => o.op = .put || o.op = .patch)).foldl (fun a o => a + o.length) 0
            if gib < data then s.finish w c .tooLarge .none 0 0 0
            else s.startOps w c ((ops.zip es).map (fun x => (x.1, [], x.2.bufAddr, x.2.bufRkey)))

/-! ### Payload and cutting (R135-R139, R153) -/

/-- The length of the read of payload that is under way for an operation: of a BATCH before its entries are known, its descriptor. -/
def pullLen (c : Cmd) (n : Nat) : Option Nat :=
  if c.phase = .pulling then some c.cap.length.toNat else (c.ops[n]?).map (fun o => o.asked - o.data.length)

/-- Payload has arrived in the window for an operation: its next stage may start, and the pull goes on. -/
def State.payloadCame (s : State) (w : Wy) (c : Cmd) (n : Nat) (data : Bytes) : State :=
  if c.phase = .pulling then s.takeBatch w c data
  else ((s.modOp w c.id n (fun o => { o with data := o.data ++ data, pulled := o.length ≤ (o.data ++ data).length })).advanceOp w c.id
    n).pullMore w c.id

/-- PAYLOAD_PULL_DONE: an RDMA READ or DMA read of payload bytes of an operation, or of the descriptor of a BATCH, ends (R153). One whose
command a reset has dropped ends too, and the CONTROL_ACK that waited for it may go out (R91). -/
def execPayloadPullDone (w : Wy) (id entry : Nat) (data : Bytes) (s : State) : Host.Outcome State Fault Refusal :=
  match (s.wy w).relief.pulls.find? (fun p => p.1 = id && p.2.1 = entry) with
  | none => .next s
  | some p =>
    let s1 := (s.modRelief w (fun r => { r with pulls := r.pulls.erase p })).modQueue w p.2.2 (fun x => { x with dma := x.dma - 1 })
    match (s.wy w).relief.cmd id with
    | none => .next (s1.sendAcks w p.2.2)
    | some c => .next (if pullLen c entry = some data.length then (s1.payloadCame w c entry data).sendAcks w p.2.2 else s)

/-- The gear table in force (R137). -/
def State.gear (s : State) (b : Byte) : Nat :=
  match s.wall.settings.gear with
  | some t => (t[b.toNat]?).getD 0
  | none => gearDefault b.toNat

/-- The length of the first chunk of a stretch of bytes (R136): `n` bytes already taken, hash `h`. -/
def cutLen (gear : Byte → Nat) : Nat → Nat → Bytes → Nat
  | _, n, [] => n
  | h, n, b :: rest =>
    let n := n + 1
    let h := (h * 2 + gear b) % 2 ^ 64
    if n < 16384 then cutLen gear h n rest
    else if n = 262144 then n
    else if n < 65536 && h / 2 ^ 47 = 0 then n
    else if 65536 ≤ n && h / 2 ^ 49 = 0 then n
    else cutLen gear h n rest

/-- The de-duplication salt of a keyspace. -/
def State.salt (s : State) (ks : BitVec 32) : Bytes := ((s.keyspace ks).map (fun k => k.salt)).getD []

/-- A cut has reached its end: the end of the value, or an old boundary at or past the patched range (R138). -/
def cutEnds (o : WriteOp) (pos : Nat) : Bool :=
  if o.op ≠ .patch then o.length ≤ pos
  else o.newLen ≤ pos || (o.offset + o.length ≤ pos && o.base.any (fun v => (boundaries v).contains pos))

/-- Where the next chunk begins: after the last one, or past the gap that a PATCH leaves (R138). -/
def nextCut (o : WriteOp) (pos : Nat) : Nat :=
  if o.op = .patch && o.base.any (fun v => v.length = pos && v.length < o.offset) then o.offset else pos

/-- The codec that the policy asks for (R142). -/
def policyCodec : Compression → Codec
  | .none => .stored
  | .zstd => .zstd
  | .deflate => .deflate

/-- The codec that a chunk cut now gets: that of its keyspace's policy, which a later change does not reach (R142). -/
def State.codecOf (s : State) (ks : BitVec 32) : Codec := ((s.keyspace ks).map (fun k => policyCodec k.compression)).getD .stored

/-- A chunk just cut and fingerprinted, its salt before its plaintext (R139). -/
def State.newChunk (s : State) (ks : BitVec 32) (n : Nat) (o : WriteOp) (data : Bytes) : WChunk :=
  { entry := n, start := o.cutPos, data := data, fp := sha256 (s.salt ks ++ data), codec := s.codecOf ks, body := [], keyVer := 0,
    iv := [], stage := .cut, lead := 0, credit := 0, buf := none, cutAt := s.now, firstSent := 0, lastSent := 0, place := none,
    dropped := false }

/-- CHUNK_CUT: the chunk-and-hash unit ends the job that cuts the next chunk of an operation (R136, R139). The chunk goes on to its
credit (R153), and the cutting of the operation goes on. -/
def execChunkCut (w : Wy) (id entry : Nat) (s : State) : Host.Outcome State Fault Refusal :=
  match s.codecTile w .hash (.cut id entry), (s.wy w).relief.cmd id with
  | some t, some c =>
    match c.ops[entry]? with
    | none => .next s
    | some o =>
      let bytes := newBytes c entry o o.cutPos (cutHi o)
      let n := cutLen s.gear 0 0 bytes
      let pos := nextCut o (o.cutPos + n)
      let k := s.newChunk c.cap.keyspace entry o (bytes.take n)
      let s1 := (s.endCodec w .hash (.cut id entry) t).modOp w id entry (fun o => { o with cutPos := pos, cutDone := cutEnds o pos })
      let s2 := s1.modCmd w id (fun x => { x with wchunks := x.wchunks ++ [k] })
      .next ((s2.pumpChunk w id c.wchunks.length).advanceOp w id entry)
  | _, _ => .next s

/-- The plaintext of stored bytes by a codec (R142, R144): one Zstandard frame without a dictionary, in a window of at most 256 KiB; a raw
DEFLATE stream. -/
def decodeBytes (codec : Nat) (b : Bytes) : Option Bytes :=
  if codec = 0 then some b else if codec = 1 then zstdDecode b else if codec = 2 then inflate b else none

/-- A compressed form that the compression unit may give for a chunk (R142): it decodes to the plaintext, and a Zstandard frame states its
content size and has no checksum. -/
def compressedForm (codec : Codec) (data out : Bytes) : Bool :=
  match codec with
  | .stored => false
  | .zstd => decodeBytes 1 out = some data && (zHeader out).any (fun h => h.content.isSome && !h.checksum)
  | .deflate => decodeBytes 2 out = some data

/-- COMPRESS_JOB_END: the compression unit's output, any that R142 allows; it is kept only when 16 × C ≤ 15 × P (R143), and the chunk is
then encrypted. Bytes that are no compressed form of the chunk are no end of its job. -/
def execCompressJobEnd (w : Wy) (id chunk : Nat) (out : Bytes) (s : State) : Host.Outcome State Fault Refusal :=
  match s.codecTile w .compress (.writeChunk id chunk), (s.wy w).relief.cmd id with
  | some t, some c =>
    match c.wchunks[chunk]? with
    | none => .next s
    | some x =>
      if !compressedForm x.codec x.data out then .next s
      else
        let s1 := s.endCodec w .compress (.writeChunk id chunk) t
        .next (if 16 * out.length ≤ 15 * x.data.length then s1.packed w c chunk x x.codec out else s1.packed w c chunk x .stored x.data)
  | _, _ => .next s

/-! ### Dispatch to leads (R149-R152) -/

/-- The write that a lead's acknowledgement is for, with its wythe. -/
def State.writeOf (s : State) (w : Wy) (p : Nat) (rid : BitVec 64) : Option Cmd :=
  (s.wy w).relief.cmds.find? (fun c => isWrite c.op && c.cap.requestId = rid && c.phase = .running && cmdPart c = p)

/-- The key-index record of a staged offer (R275): its versions, with the places of their chunks and the inline values that this wall has
sealed. -/
def stagedIdx (x : StagedRec) : IdxRec :=
  let ver := fun (i n : Nat) (k : OfferKey) =>
    let inl := (x.inlines.find? (fun y => y.1 = i)).map (fun y => y.2)
    ({ time := k.version, live := !k.deletion, length := k.length, inlined := inl.map (fun y => y.2.2.1),
       inlineKey := (inl.map (fun y => y.1)).getD 0, inlineIv := (inl.map (fun y => y.2.1)).getD [],
       inlineTag := (inl.map (fun y => y.2.2.2)).getD [], holes := k.holes, first := k.version,
       chunks := k.recipe.mapIdx (fun i e =>
         { e with place := ((x.places.find? (fun y => y.1 = n + i)).map (fun y => y.2)).getD e.place }) } : ValueVer)
  let vers := (x.keys.zipIdx.foldl (fun (acc : Nat × List (Bytes × ValueVer)) k =>
    (acc.1 + k.1.recipe.length, acc.2 ++ [(k.1.key, ver k.2 acc.1 k.1)])) (0, [])).2
  { staged := some { sourceCast := x.sourceCast, offer := x.offer, last := x.last, src := x.src }
    version := vers.foldl (fun a v => max a v.2.time) 0, keyspace := x.keyspace, requestId := stagedRid x, status := .ok, detail := .none,
    result := 0, adds := vers, segment := 0, segments := 1, counts := vers.map (fun v => v.2.chunks.length) }

/-- Every chunk that a staged record needs is acknowledged: its versions are placed in the replica set as staged records (R275); an offer of no
key is staged at once. -/
def State.stagedDone (s : State) (w : Wy) (x : StagedRec) : State :=
  let inl := (x.keys.zipIdx.filter (fun k => k.1.sealed ≠ [])).map (fun k => k.2)
  if x.record.isSome || x.unprobed ≠ [] || inl.any (fun i => !x.inlines.any (fun y => y.1 = i))
      || (List.range x.asked.length).any (fun i => !x.places.any (fun y => y.1 = i)) then s
  else
    let r := stagedIdx x
    let e := ((s.partEntry x.p).map (fun e => e.epoch)).getD 0
    let s1 := if r.adds = [] then s else s.storeRec x.p e s.myId r none
    let wait := if r.adds = [] then [] else s.standbys x.p ++ (if s1.indexWaits x.p r then [s.myId] else [])
    let x2 := { x with record := some r, wait := wait }
    let s2 := s1.modRefs (fun f => { f with staged := updFirst (fun y => y = x) (fun _ => x2) f.staged })
    let s3 := if r.adds = [] then s2 else (s.standbys x.p).foldl (fun s b => s.toPart w b x.p (.indexPut x.p e (s.closedOf x.p) r)) s2
    if wait = [] then s3.stagedWhole x2 else s3

/-- A lead's acknowledgement of a shipped chunk (R275): the chunk index names the recipe entry. -/
def State.stagedAck (s : State) (w : Wy) (p : Nat) (res : AckResult) (rid : BitVec 64) (chunk : Nat) (place : Place) : State :=
  match s.refs.staged.find? (fun x => x.p = p && stagedRid x = rid) with
  | none => s
  | some x =>
    if res = .full || res = .notLead || !x.need.contains chunk then s
    else
      let x2 := { x with need := x.need.erase chunk, places := x.places ++ [(chunk, place)] }
      (s.modRefs (fun r => { r with
        staged := updFirst (fun y => y = x) (fun _ => x2) r.staged
        lands := r.lands.filter (fun y => ¬ (y.p = p ∧ y.requestId = rid ∧ y.chunk = chunk ∧ y.key = none)) })).stagedDone w x2

/-- A lead's acknowledgement (R150, R152): the chunk's buffer is released (R153). After NOT_LEAD of a later epoch the home fetches the
newer state first; otherwise it walks again at once, and resends at once only to another brick. -/
def State.doChunkAck (s : State) (w : Wy) (h : MHead) (p : Nat) (res : AckResult) (rid : BitVec 64) (chunk : Nat)
    (place : Place) : State :=
  match s.writeOf w p rid with
  | none => s.stagedAck w p res rid chunk place
  | some c =>
    match c.wchunks[chunk]? with
    | none => s
    | some x =>
      if x.stage ≠ .sent || x.dropped then s
      else match res with
        | .new | .duplicate =>
          let s1 := (s.freeChunk w c x).modWChunk w c.id chunk (fun x => { x with stage := .acked, place := some place, buf := none })
          (s1.stepOn w c.id).pumpWrites w
        | .full => (s.endJobs w c.id).finish w c .full .wallFull 0 0 0
        | .notLead =>
          if s.wall.epoch < h.epoch then s.fetchState w h.src
          else if s.leadOf (groupOf s.wall.settings.groups x.fp) = some h.src then s
          else s.sendChunk w c chunk x

/-- CHUNK_ACK arrives. A NOT_LEAD of an earlier epoch than the home's is acted on all the same (R152), which R213 would refuse. -/
def execChunkAck (w : Wy) (h : MHead) (group p : Nat) (res : AckResult) (requestId : BitVec 64) (chunk : Nat)
    (place : Place) (s : State) : Host.Outcome State Fault Refusal :=
  let act := fun s : State => (s.doChunkAck w h p res requestId chunk place).wakeClose w
  .next (if res = .notLead && h.epoch < s.wall.epoch then s.mortarAny w h act
    else s.mortarIn w h (.chunkAck w h group p res requestId chunk place) act)

/-- CHUNK_RESEND: unacknowledged after 20 ms, to the lead that the walk names now (R152). -/
def execChunkResend (w : Wy) (id chunk : Nat) (s : State) : Host.Outcome State Fault Refusal :=
  match (s.wy w).relief.cmd id with
  | none => .next s
  | some c =>
    match c.wchunks[chunk]? with
    | none => .next s
    | some x => .next (if x.stage = .sent && !x.dropped && s.since x.lastSent (ms 20) then s.sendChunk w c chunk x else s)

/-- CHUNK_ACK_TIMEOUT: neither credit nor an acknowledgement within 2 s; the write completes UNAVAILABLE (R152, R270). -/
def execChunkAckTimeout (w : Wy) (id chunk : Nat) (s : State) : Host.Outcome State Fault Refusal :=
  match (s.wy w).relief.cmd id with
  | none => .next s
  | some c =>
    match c.wchunks[chunk]? with
    | none => .next s
    | some x =>
      if !x.dropped && (((x.stage = .sent || x.stage = .encrypted) && s.since x.firstSent (sec 2))
          || (x.stage = .cut && s.since x.cutAt (sec 2))) then
        .next (((s.endJobs w id).finish w c .unavailable .none 0 0 0).wakeClose w)
      else .next s

/-! ### Fetches (R159-R162, R237) -/

/-- The chunk of a read that a range belongs to. -/
def State.chunkOf (s : State) (w : Wy) (id n : Nat) : Option (Cmd × RChunk) :=
  ((s.wy w).relief.cmd id).bind (fun c => if c.phase = .running then (c.rchunks[n]?).map (fun x => (c, x)) else none)

/-- FETCH_TIMEOUT: what has been asked for a chunk and not answered within 20 ms is looked for elsewhere (R159, R160). -/
def execFetchTimeout (w : Wy) (id chunk : Nat) (s : State) : Host.Outcome State Fault Refusal :=
  match s.chunkOf w id chunk with
  | none => .next s
  | some (_, x) =>
    .next ((x.asked.filter (fun a => s.since a.at_ (ms 20))).foldl (fun s a =>
      match s.chunkOf w id chunk with
      | some (c, x) => if x.asked.contains a then s.missRange w c chunk x a false 0xFFFF else s
      | none => s) s)

/-- RANGE_DATA for a read: the answer to a range that it has asked of the brick. -/
def State.rangeToRead (s : State) (w : Wy) (src f off : Nat) (st : RStatus) (holder cookie : Nat) (bytes : Bytes) : State :=
  let n := cookie % 2 ^ 23
  match ((s.wy w).relief.cmds.find? (fun c => readCookie c.id n = cookie)).bind (fun c => s.chunkOf w c.id n) with
  | none => s
  | some (c, x) =>
    match askFor s.wall.settings x.ent.place x.asked src f off with
    | none => s
    | some a => if st = .ok then s.gotRange w c n x a bytes else s.missRange w c n x a (st = .notHeld) holder

/-- RANGE_DATA for a repair: a range that cannot be had is replaced by another; once the record is whole its tag is checked, in a crypt job
of priority 2 (R161, R162, R166). -/
def State.repairData (s : State) (src n f off : Nat) (st : RStatus) (holder : Nat) (bytes : Bytes) : State :=
  match s.stripes.repairs.find? (fun r => r.n = n) with
  | none => s
  | some r =>
    let ws := s.wall.settings
    let segs := segsOf ws.fragBytes r.ent.place
    match askFor ws r.ent.place r.asked src f off with
    | none => s
    | some a =>
      let s1 := s.modRepair n (fun r => { r with asked := r.asked.filter (fun b => b ≠ a) })
      if st = .notHeld && holder ≠ 0xFFFF && holder ≠ src then
        let b := { a with brick := holder, at_ := s.now }
        (s1.modRepair n (fun r => { r with asked := r.asked ++ [b] })).sendRange r.w segs .repair (repairCookie + n) b
      else if st ≠ .ok then (s1.modRepair n (fun r => { r with bad := r.bad ++ [a.idx] })).pumpRepair n
      else
        let parts := r.parts ++ [(a.seg, a.idx, bytes)]
        match assemble ws parts segs with
        | none => s1.modRepair n (fun r => { r with parts := parts })
        | some body =>
          let s2 := s1.modRepair n (fun r => { r with parts := parts, body := body, asked := [], st := .checking })
          let course := (s2.leastLoaded r.w .crypt courses).getD 0
          let s3 := if segs.zipIdx.all (fun g => parts.any (fun p => p.1 = g.2 && p.2.1 = fragIndex g.1.1)) then s2 else s2.galois r.w course
          if !recordSane body then s2.failRepair r
          else if r.ship.isSome then s3.queueOpen r.w (.ship n) course r.keyspace 3 body
          else s3.queueOpen r.w (.background n) course r.keyspace 2 body

/-- The result of the check of a rebuilt record (R161, R162): with a good tag the reads that wait for it go on with the rebuilt form, and it
is written back through the chunk's lead, in the stead of a lost range (R247); otherwise the repair has failed. -/
def State.repairChecked (s : State) (n : Nat) (ok : Bool) : State :=
  match s.stripes.repairs.find? (fun r => r.n = n) with
  | none => s
  | some r =>
    if !ok then s.failRepair r
    else
      let p := r.ent.place
      let g := fragGroup p.fragId
      let off := fragIndex p.fragId * s.wall.settings.fragBytes + p.offset
      let s1 := s.modRepair n (fun r => { r with st := .rebuilt })
      let s2 := (s1.repairWaiters r.ent).foldl (fun s e => s.recordIn e.1 e.2.1 e.2.2.1 e.2.2.2 r.body) s1
      match s2.leadOf g with
      | some l => s2.mortarOut r.w l (wyOfGroup g) (.lostReport (stripeOf p.fragId) off p.length [] true)
      | none => s2

/-- The data that a REPL_CHUNK's tag covers beside its bytes: its body's bytes 0-19 and 32-63 (R278). -/
def shipAad (p sourceCast plain stored : Nat) (codec : Codec) (fp : Bytes) : Bytes := shipHead p sourceCast plain stored codec ++ padTo 32 fp

/-- A record read for replication is decrypted: its stored bytes go to the remote home, sealed under the link key (R275). The IV of that
seal the spec leaves to the sender: free bytes (log 210). A record that fails its tag is repaired, and ships when it is asked for
again. -/
def State.shipEnd (s : State) (n : Nat) (ok : Bool) (out : Bytes) : State :=
  match s.stripes.repairs.find? (fun r => r.n = n) with
  | none => s
  | some r =>
    let s1 := { s with stripes := { s.stripes with repairs := s.stripes.repairs.filter (fun x => x.n ≠ n) } }
    match r.ship, s.linkKey r.keyspace with
    | some dest, some key =>
      if !ok then s1.startRepair r.w r.keyspace { newRead 0 r.ent with parts := r.parts }
      else
        let iv := freeBytes s.fresh 12
        let x := gcmSeal key iv (shipAad dest.p dest.sourceCast r.ent.plain out.length r.ent.codec r.ent.fp) out
        (s1.drawn 12).mortarOut r.w dest.dst dest.dstW
          (.replChunk dest.p dest.sourceCast r.ent.plain r.ent.codec r.ent.fp iv (x.1 ++ x.2))
    | _, _ => s1

/-- Change the bytes that are landing under a number. -/
def State.modLand (s : State) (n : Nat) (f : LandRec → LandRec) : State :=
  s.modRefs (fun r => { r with lands := updFirst (fun x => x.n = n) f r.lands })

/-- Send a landed chunk's record to the acting lead of its group, as a write does (R149-R152, R275): within credit, and again every
20 ms. -/
def State.sendLand (s : State) (x : LandRec) : State :=
  let g := groupOf s.wall.settings.groups x.fp
  match s.leadOf g with
  | none => s
  | some b =>
    let u := if b = s.myId then 0 else creditUnits x.body.length
    if creditTo (s.wy x.w).mortar b (wyOfGroup g) < u then s
    else (((s.modMortar x.w (fun m => spendCredit m b (wyOfGroup g) u)).mortarOut x.w b (wyOfGroup g)
      (.chunkPut g x.p x.requestId x.chunk x.body)).modLand x.n (fun x => { x with sentAt := s.now }))

/-- Bytes from the source wall are sealed under this wall's key (R183, R275): a chunk goes to its lead, an inline value stands with its staged
record. A job that ends otherwise leaves them to be asked for again. -/
def State.landEnd (s : State) (n : Nat) (ok : Bool) (ver : Nat) (iv out tag : Bytes) : State :=
  match s.refs.lands.find? (fun x => x.n = n) with
  | none => s
  | some x =>
    let gone := s.modRefs (fun r => { r with lands := r.lands.filter (fun y => y.n ≠ n) })
    if !ok then gone
    else match x.key with
      | some i =>
        let mine := fun y : StagedRec => y.p = x.p && stagedRid y = x.requestId
        let s1 := gone.modRefs (fun r => { r with
          staged := updFirst mine (fun y => { y with inlines := y.inlines ++ [(i, ver, iv, out, tag)] }) r.staged })
        match s1.refs.staged.find? mine with
        | some y => s1.stagedDone x.w y
        | none => s1
      | none =>
        let body := recordHeader x.keyspace out.length x.plain x.codec ver iv x.fp ++ out ++ padTo 16 tag
        (s.modLand n (fun x => { x with body := body, sentAt := s.now })).sendLand { x with body := body }

/-! ### Decoding, re-verification and delivery (R144, R161, R164) -/

/-- The chunks of a command are re-verified: by the flag of a GET, or by their keyspace's policy (R164). -/
def State.wantsVerify (s : State) (c : Cmd) : Bool :=
  (c.op = .get && capFlag c.cap 5) || (s.keyspace c.cap.keyspace).any (fun k => k.verify)

/-- A chunk has been read: a GET goes on to its next chunks or ends; an operation of a write goes on with its cut. -/
def State.chunkRead (s : State) (w : Wy) (c : Cmd) (n : Nat) (x : RChunk) (data : Bytes) : State :=
  let s1 := s.modRChunk w c.id n (fun x => { x with stage := .delivered, data := data, body := [], parts := [] })
  if c.op = .get then (s1.fetchMore w c.id).endGet w c.id else s1.advanceOp w c.id x.entry

/-- Plaintext of a chunk is there: a GET delivers it as it is produced (R71); it is re-verified when asked. -/
def State.plainIn (s : State) (w : Wy) (c : Cmd) (n : Nat) (x : RChunk) (data : Bytes) : State :=
  let s1 := match (if c.op = .get then c.readVer else none) with
    | some v => s.deliver w c v x.ent.start data
    | none => s
  if s.wantsVerify c then
    (s1.modRChunk w c.id n (fun x => { x with stage := .verifying, data := data })).queueCodec w .hash (.readChunk c.id n) (courseOfQueue c.q)
  else s1.chunkRead w c n x data

/-- The stored bytes of a record are decrypted: they are the plaintext, or they are decompressed (R144). A stored form whose length is not
the record's PLAIN_LEN fails as a decoded one does. -/
def State.storedIn (s : State) (w : Wy) (c : Cmd) (n : Nat) (x : RChunk) (data : Bytes) : State :=
  if ofLe (sliceBytes x.body 16 1) = 0 then
    if data.length = ofLe (sliceBytes x.body 12 4) then s.plainIn w c n x data else s.taint w c n x
  else (s.modRChunk w c.id n (fun x => { x with stage := .decoding, data := data })).queueCodec w .decompress (.readChunk c.id n)
    (courseOfQueue c.q)

/-- DECOMPRESS_JOB_END: the decompression unit ends a job (R144): a stream that does not decode in the format that the record names, or
not to its PLAIN_LEN, is handled as a tag failure. -/
def execDecompressJobEnd (w : Wy) (id chunk : Nat) (s : State) : Host.Outcome State Fault Refusal :=
  match s.codecTile w .decompress (.readChunk id chunk), s.chunkOf w id chunk with
  | some t, some (c, x) =>
    let s1 := s.endCodec w .decompress (.readChunk id chunk) t
    match decodeBytes (ofLe (sliceBytes x.body 16 1)) x.data with
    | some d => .next (if d.length = ofLe (sliceBytes x.body 12 4) then s1.plainIn w c chunk x d else s1.taint w c chunk x)
    | none => .next (s1.taint w c chunk x)
  | _, _ => .next s

/-- REVERIFY_JOB_END: the fingerprint of a chunk's plaintext against its recipe entry (R139, R164). -/
def execReverifyJobEnd (w : Wy) (id chunk : Nat) (s : State) : Host.Outcome State Fault Refusal :=
  match s.codecTile w .hash (.readChunk id chunk), s.chunkOf w id chunk with
  | some t, some (c, x) =>
    let s1 := s.endCodec w .hash (.readChunk id chunk) t
    .next (if sha256 (s.salt c.cap.keyspace ++ x.data) = x.ent.fp then s1.chunkRead w c chunk x x.data else s1.taint w c chunk x)
  | _, _ => .next s

/-! ### What time brings (R152, R161, R275) -/

/-- The write-back of a rebuilt record has reached the chunk's lead: the flows to it hold nothing unacknowledged (R161, log 212). -/
def State.writtenBack (s : State) (r : RepairRec) : Bool :=
  match s.leadOf (fragGroup r.ent.place.fragId) with
  | some b => ((s.wy r.w).mortar.flows.filter (fun f => f.peer = b)).all (fun f => f.unacked = [])
  | none => false

/-- The repair of a chunk is complete once its rebuilt form is written back and no read waits for it (R161); asks that have had no answer
for 20 ms are replaced by others. -/
def State.repairDue (s : State) (n : Nat) : State :=
  match s.stripes.repairs.find? (fun r => r.n = n) with
  | none => s
  | some r =>
    let late := r.asked.filter (fun a => s.since a.at_ (ms 20))
    if r.st = .rebuilt && s.writtenBack r && s.repairWaiters r.ent = [] then
      { s with stripes := { s.stripes with repairs := s.stripes.repairs.filter (fun x => x.n ≠ n) } }
    else if r.st = .reading && late ≠ [] then
      (s.modRepair n (fun r => { r with asked := r.asked.filter (fun a => !late.contains a), bad := r.bad ++ late.map (fun a => a.idx) })).pumpRepair n
    else s

/-- What the pipelines of both wythes do of themselves as time passes: waiting jobs and chunks look for what they wait for, repairs go on,
and landed records that are not acknowledged within 20 ms are sent again (R152, R275). -/
def State.pipelineDue (s : State) : State :=
  let s1 := (s.stripes.repairs.map (fun r => r.n)).foldl (fun s n => s.repairDue n) s
  let s2 := (s1.refs.lands.filter (fun x => x.body ≠ [] && s1.since x.sentAt (ms 20))).foldl (fun s x => s.sendLand x) s1
  (((s2.dispatchCodec .w0).dispatchCodec .w1).pumpWrites .w0).pumpWrites .w1

end Sys2Proof.Machine
end

