-- ==== Sys2Proof/Machine/Crypt.lean ====
section
/-! DEFINITION. Crypt tiles and keys (06): jobs and their contexts, IVs and their reservations, the key cache, rotation, and
what an issuer makes of a result (R148, R154, R161, R163, R170). The tiles' output is computed (Machine/Aes.lean). -/

namespace Sys2Proof.Machine

/-! ### The issuer (R148, R154, R161-R163, R170) -/

/-- A job failed for want of a key, of a reservation, by its length or by its tile: a write completes INTERNAL before its start
point, and where R170 asks for it a FAULT event is recorded. -/
def State.writeFails (s : State) (w : Wy) (id : Nat) (evt : Bool) : State :=
  match (s.wy w).relief.cmd id with
  | none => s
  | some c =>
    let s1 := if evt then s.recordOpen (srcOf w) 2 (.rlf w) (leBytes 8 c.cap.requestId.toNat) else s
    (((s1.endJobs w id).finish w c .internal .none 0 0 0).wakeClose w)

/-- The failures of an encryption. -/
def State.encryptFails (s : State) (w : Wy) (id : Nat) (res : CryptResult) : State :=
  match res, (s.wy w).relief.cmd id with
  | .ctrExhausted, some c => (((s.endJobs w id).finish w c .keyspaceLocked .none 0 0 0).wakeClose w)
  | .keyAbsent, some _ | .lengthRange, some _ => s.writeFails w id true
  | .ended, _ => s
  | _, some _ => s.writeFails w id false
  | _, none => s

/-- A chunk of a write is encrypted: its record goes to the lead (R145, R150). -/
def State.sealedChunk (s : State) (w : Wy) (j : CryptJob) (id n : Nat) (out tag : Bytes) : State :=
  match (s.wy w).relief.cmd id with
  | none => s
  | some c =>
    match c.wchunks[n]? with
    | none => s
    | some x =>
      if x.stage ≠ .compressed then s
      else
        let iv := j.iv.getD []
        let body := recordHeader c.cap.keyspace out.length x.data.length x.codec j.ver iv x.fp ++ out
          ++ padTo 16 tag
        ((s.modWChunk w id n (fun x =>
          { x with body := body, keyVer := j.ver, iv := iv, stage := .encrypted, firstSent := s.now })).shipChunk w id n).pumpWrites w

/-- An inline value is encrypted: with the key version, IV and tag that go into its key-index record its operation is done (R147). -/
def State.sealedInline (s : State) (w : Wy) (j : CryptJob) (id n : Nat) (out tag : Bytes) : State :=
  match (s.wy w).relief.cmd id with
  | none => s
  | some c =>
    if c.phase ≠ .running then s
    else
      let s1 := s.modOp w c.id n (fun o =>
        { o with inlined := some out, inlineKey := j.ver, inlineIv := j.iv.getD [], inlineTag := tag, cutDone := true })
      (s1.releaseRing w id n 0 out.length).stepOn w id

/-- The FAULT event TAG_FAIL of an issuer: fragment id and fingerprint bytes 0-23 (R188, R535); an inline value has neither (log 206). -/
def State.tagFailEvent (s : State) (w : Wy) (ent : Option RecipeEntry) : State :=
  s.record (srcOf w) 2 0x0901 (pageIdOf (.cip w)).toNat ((ent.map (fun e => leBytes 8 e.place.fragId ++ e.fp.take 24)).getD (zeroBytes 32))

/-- Bytes that a crypt job wrote out before its end are in the client buffer when no decoding follows (R71, R169). -/
def State.partDeliver (s : State) (w : Wy) (c : Cmd) (x : RChunk) (out : Bytes) : State :=
  match c.readVer with
  | some v => if ofLe (sliceBytes x.body 16 1) = 0 then s.deliver w c v x.ent.start out else s
  | none => s

/-- Some bytes of a chunk that a decryption has put out are with the client: it is a GET's, and no decoding follows (R163). -/
def givenOut (c : Cmd) (x : RChunk) (out : Bytes) : Bool := c.op = .get && out ≠ [] && ofLe (sliceBytes x.body 16 1) = 0

/-- A chunk of a read is decrypted (R159, R161-R163); the third TILE_FAULT ends a GET, and a PATCH that reads it (R154), INTERNAL. -/
def State.readChunkEnd (s : State) (w : Wy) (id n : Nat) (res : CryptResult) (out : Bytes) : State :=
  match s.chunkOf w id n with
  | none => s
  | some (c, x) =>
    if x.stage ≠ .decrypting then s
    else match res with
      | .done => s.storedIn w c n x out
      | .tagFail => ((s.tagFailEvent w (some x.ent)).partDeliver w c x out).taint w c n x
      | .ended => s
      | .tileFault =>
        if givenOut c x out then (s.partDeliver w c x out).taint w c n x
        else ((s.endJobs w id).finish w c .internal .none 0 0 0)
      | _ => s.taint w c n x

/-- An inline value is decrypted: it is delivered and the GET ends (R70, R71). -/
def State.readInlineEnd (s : State) (w : Wy) (id : Nat) (res : CryptResult) (out : Bytes) : State :=
  match (s.wy w).relief.cmd id with
  | none => s
  | some c =>
    match c.readVer with
    | none => s
    | some v =>
      let tainted := fun s : State => (s.deliver w c v 0 out).finish w c .tainted .none 0 v.time c.cap.offset.toNat
      match res with
      | .done => (s.deliver w c v 0 out).finish w c .ok .none 0 v.time v.length
      | .ended => s
      | .tileFault => if out ≠ [] then tainted s else s.finish w c .internal .none 0 0 0
      | .tagFail => tainted (s.tagFailEvent w none)
      | _ => tainted s

/-- The inline value that a PATCH is built on is decrypted, and the operation goes on; it has no other record to be repaired from, so a
failure ends the PATCH INTERNAL before its start point (log 200). -/
def State.oldInlineEnd (s : State) (w : Wy) (id n : Nat) (res : CryptResult) (out : Bytes) : State :=
  match res with
  | .done => (s.modOp w id n (fun o => { o with old := some out })).advanceOp w id n
  | .ended => s
  | .tagFail => (s.tagFailEvent w none).writeFails w id true
  | _ => s.writeFails w id false

/-- What the issuer of a job makes of its result (R170). -/
def State.issuer (s : State) (w : Wy) (j : CryptJob) (res : CryptResult) (out tag : Bytes) : State :=
  match j.ref with
  | .writeChunk id n => if res = .done then s.sealedChunk w j id n out tag else s.encryptFails w id res
  | .writeInline id n => if res = .done then s.sealedInline w j id n out tag else s.encryptFails w id res
  | .oldInline id n => s.oldInlineEnd w id n res out
  | .readChunk id n => s.readChunkEnd w id n res out
  | .readInline id => s.readInlineEnd w id res out
  | .background n =>
    let ent := (s.stripes.repairs.find? (fun r => r.n = n)).map (fun r => r.ent)
    (if res = .tagFail then s.tagFailEvent w ent else s).repairChecked n (res = .done)
  | .ship n => s.shipEnd n (res = .done) out
  | .land n => s.landEnd n (res = .done) j.ver (j.iv.getD []) out tag
  | .pull _ _ | .cut _ _ => s

/-- The counters and events of a result (R188, R189): CTR_EXHAUSTED, RESV_FAIL and LENGTH_RANGE count as refused. -/
def State.countResult (s : State) (w : Wy) (encrypt : Bool) (res : CryptResult) : State :=
  match res with
  | .done => s.bump (.cip w) (if encrypt then CIP_CNT_ENCRYPT else CIP_CNT_DECRYPT)
  | .tagFail => ((s.bump (.cip w) CIP_CNT_DECRYPT).bump (.cip w) CIP_CNT_TAG_FAIL).event (.cip w) CIP_EVT_TAG_FAIL
  | .ctrExhausted | .resvFail | .lengthRange => s.bump (.cip w) CIP_CNT_REFUSED
  | _ => s

/-- End a job: it leaves its slot, the result is counted, the issuer maps it, and its tile goes on with another (R184,
R185). -/
def State.endCrypt (s : State) (w : Wy) (j : CryptJob) (res : CryptResult) (out tag : Bytes) : State :=
  let s1 := (s.modCip w (fun k => { k with jobs := k.jobs.filter (fun x => x.ref ≠ j.ref) })).forgetRuns w j.ref .crypt
  let s2 := (s1.countResult w j.encrypt res).issuer w j res out tag
  match j.st with
  | .running t | .suspended t => (s2.resumeTile w t).jobGone w t
  | _ => s2

/-! ### Starting a job -/

/-- A key cache entry is in use: it moves to the front of the cache (R182). -/
def State.touchKey (s : State) (w : Wy) (e : CachedKey) : State :=
  s.modCip w (fun k => { k with cache := e :: k.cache.filter (fun x => ¬ (x.keyspace = e.keyspace ∧ x.ver = e.ver)) })

/-- What a context slot holds of a job after `done` payload bytes (R168, R184): the additional data has passed through GHASH, then the
ciphertext so far, which a decryption reads and an encryption has written. -/
def ctxAt (j : CryptJob) (done : Nat) : CryptCtx :=
  let ks := roundKeys j.key
  let iv := j.iv.getD []
  let text := if j.encrypt then counterMode ks iv (j.input.take done) else j.input.take done
  { counter := counterBlock iv (done / 16 + 2), ghash := (ghashSum (hashKey ks) (blocksOf j.aad ++ blocksOf text)).toNat,
    aadDone := j.aad.length, done := done }

/-- The running job of a tile is suspended at a block boundary past what it had done; how far it has come the spec leaves open, a free
value (R185, log 209). -/
def State.suspend (s : State) (w : Wy) (t : Fin 128) : State :=
  let far := fun j : CryptJob => j.ctx.done + 16 * (s.free % ((j.input.length - j.ctx.done) / 16 + 1))
  (s.used.modCip w (fun k => { k with
    jobs := updAll (fun x => x.st = .running t) (fun x => { x with st := .suspended t, since := s.now, ctx := ctxAt x (far x) })
      k.jobs })).bump (.cip w) CIP_CNT_SUSPEND

/-- A job takes a context slot of a tile with its key, and runs; the tile's running job is suspended (R184, R185). A job that runs in
another course than the one whose queue it stood in has been passed there (R17). -/
def State.takeSlot (s : State) (w : Wy) (t : Fin 128) (j : CryptJob) (e : CachedKey) : State :=
  let s1 := if (s.wy w).cip.jobs.any (fun x => x.st = .running t) then s.suspend w t else s
  let s2 := s1.modJob w j.ref (fun _ =>
    { j with st := .running t, key := e.key, eff := effPrio s.now (s.ageStep w) j, course := courseOf t, ctx := .fresh })
  (((s2.notePass w j.course (courseOf t)).touchKey w e).jobSent w t)

/-- An encryption takes the next counter value of its slot as its IV (R171, R173, R174). Without a reserved value it waits in the course
queue, without a context slot. DESIGN CHOICE (log 203): the first block of a new key version is asked for by the first encryption that
finds none. -/
def State.takeIv (s : State) (w : Wy) (t : Fin 128) (j : CryptJob) (x : KeySlot) (e : CachedKey) : State :=
  let k := (s.wy w).cip
  if counterEnd ≤ x.next then (s.lockSlot w x).endCrypt w j .ctrExhausted [] []
  else if x.thru ≤ x.next || !k.domainValid || k.resvLost then
    let s1 := if k.domainValid && !k.resvLost then s.requestResv w x.keyspace x.ver else s
    (s1.bump (.cip w) CIP_CNT_RESV_WAIT).modJob w j.ref (fun _ => { j with st := .waitResv })
  else
    let s1 := s.takeSlot w t { j with iv := some (ivOf k.domain w t.val x.next) } e
    let s2 := s1.modSlot w x.keyspace x.ver (fun y => { y with next := y.next + 1 })
    (s2.requestResv w x.keyspace x.ver).lockSlot w { x with next := x.next + 1 }

/-- CRYPT_JOB_START (R167, R173, R174, R182, R184, R185): a job that is turned down ends without a context slot or an IV. An encryption runs
under the version that is CURRENT when it takes its slot (R180). DESIGN CHOICE (log 205): a job whose key is not in the cache holds no
context slot while the CIP unwraps it, and then stands in its course's queue again. -/
def execCryptJobStart (w : Wy) (ref : JobRef) (tile : Fin 128) (s : State) : Host.Outcome State Fault Refusal :=
  let k := (s.wy w).cip
  match k.jobs.find? (fun j => j.ref = ref && j.st = .queued) with
  | none => .next s
  | some j0 =>
    let j := if j0.encrypt then { j0 with ver := curKey k j0.keyspace } else j0
    if 1048576 < j.input.length || 2048 < j.aad.length then .next (s.endCrypt w j .lengthRange [] [])
    else match slotOf k j.keyspace j.ver with
      | none => .next (s.endCrypt w j .keyAbsent [] [])
      | some x =>
        if x.st = .retired then .next (s.endCrypt w j .keyAbsent [] [])
        else if j.encrypt && x.locked then .next (s.endCrypt w j .ctrExhausted [] [])
        else if !s.tileTakes w tile j then .next s
        else match cachedKey k j.keyspace j.ver with
          | none => .next ((s.bump (.cip w) CIP_CNT_KEY_MISS).modJob w ref (fun _ => { j with st := .waitKey }))
          | some e => .next (if j.encrypt then s.takeIv w tile j x e else s.takeSlot w tile j e)

/-- What a tile puts out (R167-R169, R188): AES-256-GCM over the job's two inputs. A fault of its datapath, which it does not detect, shows
as other bytes: a decryption puts them out and ends TAG_FAIL, an encryption seals them in the payload's stead. -/
def cryptOutput (j : CryptJob) (fault : Option Bytes) : CryptResult × Bytes × Bytes :=
  let iv := j.iv.getD []
  let bad := fault.bind (fun b => if b.length = j.input.length then some b else none)
  if j.encrypt then (.done, gcmSeal j.key iv j.aad (bad.getD j.input))
  else match bad with
    | some b => (.tagFail, b, [])
    | none =>
      let r := gcmOpen j.key iv j.aad j.input j.tag
      (if r.2 then .done else .tagFail, r.1, [])

/-- CRYPT_JOB_END (R169, R170): the running job of a tile comes to its end. -/
def execCryptJobEnd (w : Wy) (ref : JobRef) (fault : Option Bytes) (s : State) : Host.Outcome State Fault Refusal :=
  match (s.wy w).cip.jobs.find? (fun j => j.ref = ref && isRunning j) with
  | none => .next s
  | some j =>
    let r := cryptOutput j fault
    .next (s.endCrypt w j r.1 r.2.1 r.2.2)

/-! ### Reservations (R174, R175, R177) -/

/-- The jobs that wait for a slot's reservation go back to the course queue. -/
def State.wakeResv (s : State) (w : Wy) (ks : BitVec 32) : State :=
  s.modCip w (fun k => { k with
    jobs := updAll (fun j => j.st = .waitResv && j.keyspace = ks) (fun j => { j with st := .queued }) k.jobs })

/-- A substitute domain takes effect at the next reservation (R175, R189). -/
def State.enterDomain (s : State) (w : Wy) : State :=
  match (s.wy w).cip.nextDomain with
  | none => s
  | some d => (s.modCip w (fun k => { k with domain := d, substitute := true, domainValid := true, nextDomain := none })).event (.cip w)
      CIP_EVT_DOMAIN_CHANGED

/-- IV_RESERVATION_DURABLE: the reservation record stands in the anchor, and the block that begins at RESERVED_THRU may now be handed out
(R174, R177). -/
def execIvReservationDurable (w : Wy) (keyspace : BitVec 32) (ver : Nat) (s : State) : Host.Outcome State Fault Refusal :=
  match slotOf (s.wy w).cip keyspace ver with
  | none => .next s
  | some x =>
    if x.resvAt.isNone then .next s
    else
      let s0 := s.enterDomain w
      let seq := (s0.wy w).cip.resvSeq + 1
      let y := { x with thru := x.thru + resvBlock, resvAt := none }
      let s1 := ((s0.modSlot w keyspace ver (fun _ => y)).modCip w (fun k => { k with resvSeq := seq })).keyWrite w (fun t =>
        { t with keyResvs := putKeyRec t.keyResvs keyspace ver (resvRecord w y (s0.wy w).cip.domain seq) })
      let s2 := s1.bump (.cip w) CIP_CNT_RESERVE
      let s3 :=
        if x.thru ≤ 2 ^ 62 && 2 ^ 62 < x.thru + resvBlock then
          (s2.event (.cip w) CIP_EVT_CTR_HIGH).recordOpen (srcOf w) 1 (.cip w) (leBytes 4 keyspace.toNat ++ leBytes 2 ver)
        else s2
      .next ((s3.requestResv w keyspace ver).wakeResv w keyspace)

/-- IV_RESERVATION_TIMEOUT: not durable 100 ms after its request; the jobs that wait for the slot end RESV_FAIL (R174). DESIGN CHOICE (log
204): the request is forgotten, so that its later durability counts for nothing and the next encryption asks anew. -/
def execIvReservationTimeout (w : Wy) (keyspace : BitVec 32) (ver : Nat) (s : State) : Host.Outcome State Fault Refusal :=
  match slotOf (s.wy w).cip keyspace ver with
  | none => .next s
  | some x =>
    match x.resvAt with
    | none => .next s
    | some t =>
      if !s.since t (ms 100) then .next s
      else
        let s1 := (s.modSlot w keyspace ver (fun y => { y with resvAt := none })).event (.cip w) CIP_EVT_RESV_FAIL
        let l := (s1.wy w).cip.jobs.filter (fun j => j.st = .waitResv && j.keyspace = keyspace && j.ver = ver)
        .next (l.foldl (fun s j => s.endCrypt w j .resvFail [] []) s1)

/-! ### Keys (R179, R180, R182) -/

/-- Room in the key cache of 512: the least recently used unpinned entry leaves (R182). -/
def evict (jobs : List CryptJob) (cache : List CachedKey) : List CachedKey :=
  if cache.length < 512 then cache
  else
    let pinned := fun e : CachedKey => jobs.any (fun j => inContext j && j.keyspace = e.keyspace && j.ver = e.ver)
    match cache.reverse.find? (fun e => !pinned e) with
    | some e => cache.filter (fun x => x ≠ e)
    | none => cache

/-- A key leaves the cache. -/
def dropKey (cache : List CachedKey) (ks : BitVec 32) (ver : Nat) : List CachedKey :=
  cache.filter (fun e => ¬ (e.keyspace = ks ∧ e.ver = ver))

/-- KEY_UNWRAP_DONE: the CIP has unwrapped the key from its slot record into the cache, and its jobs proceed; an unwrap whose check fails
leaves the slot absent (R179, R182). -/
def execKeyUnwrapDone (w : Wy) (keyspace : BitVec 32) (ver : Nat) (s : State) : Host.Outcome State Fault Refusal :=
  let k := (s.wy w).cip
  if !k.jobs.any (fun j => j.st = .waitKey && j.keyspace = keyspace && j.ver = ver) then .next s
  else
    let s1 := s.modCip w (fun k => { k with
      jobs := updAll (fun j => j.st = .waitKey && j.keyspace = keyspace && j.ver = ver) (fun j => { j with st := .queued }) k.jobs })
    match (slotOf k keyspace ver).bind (fun x => keyUnwrap (kekFor w k x) x.wrapped) with
    | none => .next ((s1.modCip w (fun k => { k with
        slots := k.slots.filter (fun x => ¬ (x.keyspace = keyspace ∧ x.ver = ver)) })).unwrapFails w)
    | some key => .next (s1.modCip w (fun k => { k with
        cache := { keyspace := keyspace, ver := ver, key := key } :: evict k.jobs (dropKey k.cache keyspace ver) }))

/-- A wythe takes a key version of a keyspace (R180): the next one; its first one; or, while the brick joins, any of the retained
ones. No version is taken twice, none above 65,535, and no 17th retained one. -/
def takesVersion (k : Cip) (joining : Bool) (ks : BitVec 32) (ver : Nat) : Bool :=
  let mine := k.slots.filter (fun x => x.keyspace = ks)
  let top := mine.foldl (fun a x => max a x.ver) 0
  decide (0 < ver) && decide (ver ≤ 65535) && (slotOf k ks ver).isNone
    && decide ((mine.filter (fun x => x.st ≠ .retired)).length < 16) && (mine = [] || ver = top + 1 || joining)

/-- Install a key version: the wythe unwraps it in its CIP with the wall key, wraps it under its KEK, and in one anchor write marks it
CURRENT and the previous one, which unlocks, DECRYPT_ONLY (R177, R180); an older retained one is DECRYPT_ONLY at once. -/
def State.installKey (s : State) (w : Wy) (ks : BitVec 32) (ver : Nat) (wrapped : Bytes) : State :=
  let k := (s.wy w).cip
  if !takesVersion k (s.wall.st ≠ .member) ks ver then s
  else match keyUnwrap k.wallKey wrapped with
    | none => s.unwrapFails w
    | some key =>
      let newest := k.slots.all (fun x => x.keyspace ≠ ks || x.ver < ver)
      let slot : KeySlot :=
        { keyspace := ks, ver := ver, st := if newest then .current else .decryptOnly, wrapped := keyWrap k.kek key,
          installed := s.hybrid w, kekGen := k.kekGen, next := 0, thru := 0, resvAt := none, locked := false }
      let old := if newest then (k.slots.filter (fun x => x.keyspace = ks && x.st = .current)).map (fun x =>
        { x with st := .decryptOnly, locked := false }) else []
      let s1 := s.modCip w (fun k => { k with
        slots := k.slots.map (fun x => if newest && x.keyspace = ks && x.st = .current then { x with st := .decryptOnly, locked := false }
          else x) ++ [slot] })
      (s1.keepSlots w (old ++ [slot])).wakeResv w ks

/-- KEY_ROTATION: a key version from the armature, wrapped under the wall key, reaches a wythe (R180). -/
def execKeyRotation (w : Wy) (keyspace : BitVec 32) (ver : Nat) (wrapped : Bytes) (s : State) : Host.Outcome State Fault Refusal :=
  .next (s.installKey w keyspace ver wrapped)

/-- Each wythe marks a retired version RETIRED and erases its wrapped key (R181). -/
def State.retireKey (s : State) (w : Wy) (ks : BitVec 32) (ver : Nat) : State :=
  match slotOf (s.wy w).cip ks ver with
  | none => s
  | some x =>
    if x.st ≠ .decryptOnly then s
    else
      let y := { x with st := SlotSt.retired, wrapped := [] }
      ((s.modSlot w ks ver (fun _ => y)).modCip w (fun k => { k with cache := dropKey k.cache ks ver })).keepSlots w [y]

end Sys2Proof.Machine
end

