-- ==== Sys2Proof/Machine/Stripe.lean ====
section
/-! DEFINITION. Stripes, the stripe journal and rebuild (08): images of open stripes, sealing, fragments and their holders, catch-up,
rebuild and evacuation, with the Mortar messages JOURNAL_COPY to FRAG_RELEASE. A brick addresses itself by messages too. -/

namespace Sys2Proof.Machine

/-! ### Stripe records and images (R227, R232, R233) -/

/-- Change the stripe state. -/
def State.modStripes (s : State) (f : Stripes → Stripes) : State := { s with stripes := f s.stripes }

/-- The record of a pending stripe. -/
def State.stripe (s : State) (id : Nat) : Option StripeRec := s.stripes.recs.find? (fun r => r.id = id)

/-- Change the record of a pending stripe. -/
def State.modStripe (s : State) (id : Nat) (f : StripeRec → StripeRec) : State :=
  s.modStripes (fun x => { x with recs := updFirst (fun r => r.id = id) f x.recs })

/-- Drop the copies and the state record of a stripe. -/
def State.dropStripe (s : State) (id : Nat) : State :=
  s.modStripes (fun x => { x with recs := x.recs.filter (fun r => r.id ≠ id) })

/-- A fragment of the catalogue. -/
def State.frag (s : State) (f : Nat) : Option FragRec := s.stripes.frags.find? (fun x => x.fragId = f)

/-- Change a fragment of the catalogue. -/
def State.modFrag (s : State) (f : Nat) (g : FragRec → FragRec) : State :=
  s.modStripes (fun x => { x with frags := updFirst (fun y => y.fragId = f) g x.frags })

/-- Bytes laid over a data area at an offset, the area growing with zeros (R233). -/
def overlay (area : Bytes) (off : Nat) (b : Bytes) : Bytes :=
  let a := area ++ zeroBytes (off + b.length - area.length)
  a.take off ++ b ++ a.drop (off + b.length)

/-- The image of a stripe: each record at its offset and zeros elsewhere, up to FILL (R233). -/
def imageOf (r : StripeRec) : Bytes := (r.recs.foldl (fun a e => overlay a e.1 e.2) (zeroBytes r.fill)).take r.fill

/-- The stored bytes of a fragment of an image (R228, R230). -/
def fragBytesOf (ws : WallSettings) (image : Bytes) (fill i : Nat) : Bytes :=
  let n := storedLen ws.k ws.fragBytes fill i
  if i < ws.k then padTo n (sliceBytes image (i * ws.fragBytes) ws.fragBytes)
  else parity ws (i - ws.k) n (dataFragments ws.k ws.fragBytes image)

/-- The place of a record at a data-area offset (R151, R227). -/
def placeAt (f stripe off : Nat) (record : Bytes) : Place :=
  { fragId := stripe + off / f, offset := off % f, length := record.length, keyVersion := ofLe (sliceBytes record 18 2) }

/-! ### Fragments (R236, R240, R242, R269) -/

/-- A generation of a fragment is durable: every unit of it is mapped, holes apart (R289). -/
def State.genMapped (s : State) (f gen len : Nat) (holes : List Nat) : Bool :=
  (len + 4095) / 4096 ≤ mappedUnits s.media.set0 1 f gen + mappedUnits s.media.set1 1 f gen + holes.length

/-- Drop a fragment generation from the maps; the removal is flushed at once, since an acknowledgement waits on it (R314,
R316). -/
def State.dropGen (s : State) (f gen : Nat) : State :=
  [0, 1].foldl (fun s i =>
    if mappedUnits (s.set_ i) 1 f gen = 0 then s else (s.mapDrop i 1 f gen).flushMap i) s

/-- Free a fragment and its catalogue entry (R243, R265). -/
def State.freeFrag (s : State) (f : Nat) : State :=
  match s.frag f with
  | none => s
  | some x =>
    let s1 := s.dropGen f x.gen
    let s2 := match x.newGen with | some (g, _, _) => s1.dropGen f g | none => s1
    s2.modStripes (fun y => { y with frags := y.frags.filter (fun z => z.fragId ≠ f) })

/-- A fragment has become durable: FRAG_ACK DONE to the brick that sent it (R236); a moved position's old holder is told to free
its copy (R243). -/
def State.fragDurable (s : State) (w : Wy) (x : FragRec) : State :=
  let s1 := s.modFrag x.fragId (fun y => { y with durable := true, ackTo := none })
  let s2 := match x.ackTo with
    | some (b, bw) => s1.mortarOut w b bw (.fragAck x.fragId x.gen .done)
    | none => s1
  match tableGet? s2.stripes.detours x.fragId with
  | some old =>
    let s3 := s2.modStripes (fun y => { y with detours := tableDel y.detours x.fragId })
    if old = s.myId then s3
    else s3.mortarOut w old (wyOfGroup (fragGroup x.fragId)) (.fragRelease x.fragId s.myId)
  | none => s2

/-- Fragments whose rounds have all become durable (R289). -/
def State.fragsDone (s : State) : State :=
  (s.stripes.frags.filter (fun x => !x.durable && s.genMapped x.fragId x.gen x.bytes.length x.holes)).foldl
    (fun s x => s.fragDurable (wyOfGroup (fragGroup x.fragId)) x) s

/-- Store a fragment: it replaces a lower generation and goes to the media of the wythe's set; one of stored length zero takes
no media (R228, R240). -/
def State.keepFrag (s : State) (w : Wy) (h : FragHead) (bytes : Bytes) (ackTo : Option (Nat × Wy)) (cls : Nat) : State :=
  let x : FragRec :=
    { fragId := h.fragId, gen := h.gen, fill := h.fill, digest := h.digest,
      targets := h.targets.map (fun t => if t = 0xFFFF then none else some t), lead := h.lead, bytes := bytes, durable := false,
      ackTo := ackTo, newGen := none, holes := [], bad := [], evacTo := none,
      thinWait := none, thinGot := [], thinTo := none }
  let s1 := match s.frag h.fragId with
    | some old => if old.gen = h.gen then s else s.dropGen h.fragId old.gen
    | none => s
  let s2 := s1.modStripes (fun y => { y with frags := y.frags.filter (fun z => z.fragId ≠ h.fragId) ++ [x] })
  if bytes = [] then s2.fragDurable w x else s2.writeFrag w.num h.fragId h.gen bytes.length cls []

/-- A fragment does not fit: SEAL and REBUILD within free capacity, MOVE with the delete reserve too; a worn brick takes no new
SEAL or REBUILD fragment (R269, R337, R338). -/
def State.noRoom (s : State) (k : FKind) (n : Nat) : Bool :=
  match k with
  | .move => s.freeCapacity + s.deleteReserve < n
  | _ => s.media.worn || s.freeCapacity < n

/-- FRAG_PUT at a member (R236, R240, R242, R253, R269). -/
def State.doFragPut (s : State) (w : Wy) (h : MHead) (f : FragHead) (bytes : Bytes) : State :=
  let ack := fun (s : State) (gen : Nat) (a : FAck) => s.mortarOut w h.src h.srcW (.fragAck f.fragId gen a)
  let cls := if f.kind = .seal then 2 else 1
  let keep := fun s : State =>
    let s1 := { s with health := { s.health with fragBytes := s.health.fragBytes + bytes.length } }
    s1.keepFrag w f bytes (some (h.src, h.srcW)) cls
  if f.kind = .seal && f.targets.getD (fragIndex f.fragId) 0xFFFF ≠ s.myId then ack s f.gen .notTarget
  else match s.frag f.fragId with
    | some x =>
      if f.gen < x.gen then ack s x.gen .staleGen
      else if f.gen = x.gen && f.digest = x.digest then
        if !x.durable then s.modFrag f.fragId (fun y => { y with ackTo := some (h.src, h.srcW) })
        else if x.bad = [] && crc32c x.bytes = f.crc then ack s x.gen .done
        else keep s
      else if s.noRoom f.kind (bytes.length - x.bytes.length) then ack s x.gen .full
      else keep s
    | none => if s.noRoom f.kind bytes.length then ack s f.gen .full else keep s

/-- FRAG_PUT (R236). -/
def execFragPut (w : Wy) (h : MHead) (f : FragHead) (bytes : Bytes) (s : State) : Host.Outcome State Fault Refusal :=
  .next (s.mortarIn w h (.fragPut w h f bytes) (fun s => s.doFragPut w h f bytes))

/-! ### Sealing (R234-R236, R240) -/

/-- Targets on the wire: 0xFFFF for none. -/
def wireTargets (l : List (Option Nat)) : List Nat := l.map (fun t => t.getD 0xFFFF)

/-- How many targets a walk names. -/
def targetCount (l : List (Option Nat)) : Nat := (l.filter (fun t => t.isSome)).length

/-- Send STRIPE_SEAL to a journal member. -/
def State.sendSeal (s : State) (w : Wy) (r : StripeRec) (b : Nat) : State :=
  s.mortarOut w b (wyOfGroup (fragGroup r.id))
    (.stripeSeal r.id r.fill r.recs.length r.gen r.digest r.lead (wireTargets r.targets))

/-- This brick has learnt that it is SUSPECT: it stops all lead, journal and seal work (R241). -/
def State.amSuspect (s : State) : Bool := s.wall.st = .suspect

/-- Start sealing a stripe, if the walk names at least k + min(m, 2) targets; until then it stays OPEN, closed to new records
(R234, R235 steps 1 and 2, R240). -/
def State.startSeal (s : State) (w : Wy) (id : Nat) : State :=
  match s.stripe id with
  | none => s
  | some r =>
    if r.st ≠ .opened || r.lead ≠ s.myId || s.amSuspect then s
    else
      let ws := s.wall.settings
      let t := ((s.walkFor (fragGroup id) []).map (fun x => x.targets)).getD []
      if targetCount t < ws.k + min ws.m 2 then s.modStripe id (fun r => { r with closed := true })
      else
        let d := sha256 (imageOf r)
        let gen := if r.digest ≠ [] && r.digest ≠ d then r.gen + 1 else r.gen
        let r2 := { r with st := StripeSt.sealing, closed := true, targets := t, digest := d, gen := gen, held := [], done := [], refused := [] }
        r2.journal.foldl (fun s b => s.sendSeal w r2 b) (s.modStripe id (fun _ => r2))

/-- A stripe is SEALED once every position with a target is DONE: SEAL_COMMIT to both journal members (R235 steps 6 and 7). -/
def State.checkSealed (s : State) (w : Wy) (id : Nat) : State :=
  match s.stripe id with
  | none => s
  | some r =>
    if r.st = .sealing && r.journal.all (fun b => r.held.contains b)
        && r.targets.zipIdx.all (fun x => x.1.isNone || r.done.contains x.2) then
      r.journal.foldl (fun s b => s.mortarOut w b (wyOfGroup (fragGroup id)) (.sealCommit id r.gen))
        (s.modStripe id (fun r => { r with st := .sealed, sealedWait := r.journal }))
    else s

/-- Send the fragment of a position to its target (R235 step 5). -/
def State.sendFrag (s : State) (w : Wy) (r : StripeRec) (image : Bytes) (i : Nat) : State :=
  match r.targets[i]? with
  | some (some b) =>
    let bytes := fragBytesOf s.wall.settings image r.fill i
    s.mortarOut w b (wyOfGroup (fragGroup r.id)) (.fragPut
      { fragId := r.id + i, gen := r.gen, fill := r.fill, digest := r.digest, targets := wireTargets r.targets, lead := r.lead,
        kind := .seal, crc := crc32c bytes } bytes)
  | _ => s

/-- Both journal members hold the image: every data fragment, and every parity fragment that no journal member computes, is sent
(R235 steps 4 and 5). -/
def State.sendFrags (s : State) (w : Wy) (r : StripeRec) : State :=
  let ws := s.wall.settings
  let image := imageOf r
  ((List.range (ws.k + ws.m)).filter (fun i => i < ws.k || !r.journal.any (fun b => r.targets.getD i none = some b))).foldl
    (fun s i => s.sendFrag w r image i) s

/-- A SEAL_HELD answer. -/
def State.sealHeld (s : State) (w : Wy) (id b : Nat) : State :=
  match s.stripe id with
  | none => s
  | some r =>
    if r.st ≠ .sealing || r.held.contains b || !r.journal.contains b then s
    else
      let r2 := { r with held := r.held ++ [b] }
      let s1 := s.modStripe id (fun _ => r2)
      if r2.journal.all (fun b => r2.held.contains b) then (s1.sendFrags w r2).checkSealed w id else s1

/-- A record whose three copies are all placed is acknowledged to its homes, the first writer NEW and later ones DUPLICATE (R20, R150,
R238). -/
def State.ackWhole (s : State) (w : Wy) (id off : Nat) : State :=
  match s.stripe id with
  | none => s
  | some r =>
    if s.copyWaits id off || !r.journal.all (fun j => r.placed.contains (off, j)) then s
    else
      let ready := r.waits.filter (fun x => x.offset = off)
      (ready.zipIdx).foldl (fun s x =>
        s.mortarOut w x.1.home (wyOfPart x.1.p) (.chunkAck (fragGroup id) x.1.p (if x.2 = 0 then .new else .duplicate) x.1.requestId
          x.1.chunk x.1.place)) (s.modStripe id (fun r => { r with waits := r.waits.filter (fun x => x.offset ≠ off) }))

/-- A brick of the group's journal list answers PLACED. A SEALING stripe restored to a member is sealed there again (R235, R238), and a
closed stripe whose copies are whole is sealed (R234, R239). -/
def State.placedCopy (s : State) (w : Wy) (id off b : Nat) : State :=
  let s1 := (s.modStripe id (fun r => { r with
    placed := if r.placed.contains (off, b) then r.placed else r.placed ++ [(off, b)] })).ackWhole w id off
  match s1.stripe id with
  | none => s1
  | some r =>
    let all := fun j => r.recs.all (fun e => r.placed.contains (e.1, j))
    if r.st = .sealing && !r.held.contains b && r.journal.contains b && all b && r.closed then s1.sendSeal w r b
    else if r.st = .opened && r.closed && r.journal.all all then s1.startSeal w id
    else s1

/-- Send a journal member copies of records (R233, R238, R241). -/
def State.copyTo (s : State) (w : Wy) (r : StripeRec) (b : Nat) (l : List (Nat × Bytes)) : State :=
  l.foldl (fun s e => s.mortarOut w b (wyOfGroup (fragGroup r.id)) (.journalCopy r.id e.1 r.lead r.journal e.2)) s

/-- JOURNAL_ACK at the stripe lead (R235, R241). -/
def State.doJournalAck (s : State) (w : Wy) (src id off : Nat) (a : JAck) : State :=
  if s.amSuspect then s
  else match a with
  | .placed => s.placedCopy w id off src
  | .sealHeld => s.sealHeld w id src
  | .digestMismatch => s.mortarOut w src (wyOfGroup (fragGroup id)) (.journalStateReq (fragGroup id) id)
  | .notJournal => s

/-- JOURNAL_ACK. -/
def execJournalAck (w : Wy) (h : MHead) (stripe offset : Nat) (a : JAck) (s : State) : Host.Outcome State Fault Refusal :=
  .next (s.mortarIn w h (.journalAck w h stripe offset a) (fun s => s.doJournalAck w h.src stripe offset a))

/-- JOURNAL_COPY at a journal member (R233, R253). -/
def State.doJournalCopy (s : State) (w : Wy) (h : MHead) (id off lead : Nat) (journal : List Nat) (record : Bytes) : State :=
  let mine := Placing.copy id off (some (h.src, h.srcW))
  if s.amSuspect then s
  else match s.stripe id with
  | none =>
    let r : StripeRec :=
      { id := id, st := .opened, closed := false, fill := off + record.length, gen := 0, lead := lead, leadEpoch := h.epoch,
        journal := journal, targets := [], openedAt := s.now, digest := [], recs := [(off, record)], waits := [], placed := [],
        held := [], done := [], refused := [], sealedWait := [] }
    (s.modStripes (fun x => { x with recs := x.recs ++ [r] })).place w mine
  | some r =>
    if h.src ≠ r.lead && h.epoch ≤ r.leadEpoch then s.mortarOut w h.src h.srcW (.journalAck id off .notJournal)
    else
      let keep := if r.recs.any (fun e => e.1 = off) then r.recs else r.recs ++ [(off, record)]
      (s.modStripe id (fun r => { r with
        recs := keep, fill := max r.fill (off + record.length), lead := lead, leadEpoch := max r.leadEpoch h.epoch,
        journal := journal })).place w mine

/-- JOURNAL_COPY. -/
def execJournalCopy (w : Wy) (h : MHead) (stripe offset lead : Nat) (journal : List Nat) (record : Bytes) (s : State) :
    Host.Outcome State Fault Refusal :=
  .next (s.mortarIn w h (.journalCopy w h stripe offset lead journal record)
    (fun s => s.doJournalCopy w h stripe offset lead journal record))

/-- STRIPE_SEAL at a journal member: DATA_DIGEST against its image; a member whose target is a parity position computes and
writes that fragment, as one that FRAG_PUT brings (R235 steps 3 and 4, R236). -/
def State.doStripeSeal (s : State) (w : Wy) (h : MHead) (id fill gen : Nat) (digest : Bytes) (lead : Nat)
    (targets : List (Option Nat)) : State :=
  let ack := fun (s : State) (a : JAck) => s.mortarOut w h.src h.srcW (.journalAck id 0 a)
  if s.amSuspect then s
  else match s.stripe id with
  | none => ack s .notJournal
  | some r =>
    if h.src ≠ r.lead && h.epoch ≤ r.leadEpoch then ack s .notJournal
    else
      let image := imageOf { r with fill := fill }
      if sha256 image ≠ digest then ack s .digestMismatch
      else
        let s1 := ack (s.modStripe id (fun r => { r with
          st := .sealing, closed := true, fill := fill, gen := gen, digest := digest, lead := lead, leadEpoch := max r.leadEpoch h.epoch,
          targets := targets })) .sealHeld
        let ws := s.wall.settings
        let mine := (List.range (ws.k + ws.m)).filter (fun i => ws.k ≤ i && targets.getD i none = some s.myId)
        mine.foldl (fun s i =>
          let b := fragBytesOf ws image fill i
          s.doFragPut w h { fragId := id + i, gen := gen, fill := fill, digest := digest, targets := wireTargets targets, lead := lead,
                            kind := .seal, crc := crc32c b } b) s1

/-- STRIPE_SEAL. -/
def execStripeSeal (w : Wy) (h : MHead) (stripe fill count gen : Nat) (digest : Bytes) (lead : Nat) (targets : List (Option Nat))
    (s : State) : Host.Outcome State Fault Refusal :=
  .next (s.mortarIn w h (.stripeSeal w h stripe fill count gen digest lead targets)
    (fun s => s.doStripeSeal w h stripe fill gen digest lead targets))

/-- The next spill of a row that may take a fragment of this brick, after those tried (R251). -/
def State.nextSpill (s : State) (f : Nat) (after : Option Nat) : Option Nat :=
  let sp := ((s.row (fragGroup f)).map (fun r => r.spill.filter (fun b => s.isMember b && b ≠ s.myId))).getD []
  match after with
  | none => sp.head?
  | some a => (sp.drop (sp.idxOf a + 1)).head?

/-- A FRAG_PUT of a fragment this brick holds, to a brick. -/
def State.sendMove (s : State) (w : Wy) (x : FragRec) (b : Nat) : State :=
  (s.modFrag x.fragId (fun y => { y with evacTo := some b })).mortarOut w b (wyOfGroup (fragGroup x.fragId)) (.fragPut
    { fragId := x.fragId, gen := x.gen, fill := x.fill, digest := x.digest, targets := wireTargets x.targets, lead := x.lead,
      kind := .move, crc := crc32c x.bytes } x.bytes)

/-- No spill accepts a fragment of an evacuation: the brick keeps it, records a FAULT event and goes on with the others (R251). -/
def State.noSpill (s : State) (w : Wy) (x : FragRec) : State :=
  (s.modWall (fun y => { y with unmovable := y.unmovable.filter (· ≠ x.fragId) ++ [x.fragId] })).recordOpen (srcOf w) 2 (.med w)
    (leBytes 8 x.fragId)

/-- FRAG_ACK for a fragment on its way out of this brick (R251). -/
def State.evacAck (s : State) (w : Wy) (src : Nat) (x : FragRec) (a : FAck) : State :=
  if x.evacTo ≠ some src then s
  else match a with
    | .done => (s.freeFrag x.fragId).modStripes (fun y => { y with detours := tablePut y.detours x.fragId src })
    | .full =>
      match s.nextSpill x.fragId (some src) with
      | some b => s.sendMove w x b
      | none => (s.modFrag x.fragId (fun y => { y with evacTo := none })).noSpill w x
    | _ => s.modFrag x.fragId (fun y => { y with evacTo := none })

/-- FRAG_ACK at the stripe lead (R235 step 6, R236, R240). -/
def State.doFragAck (s : State) (w : Wy) (src f gen : Nat) (a : FAck) : State :=
  let id := stripeOf f
  match s.stripe id with
  | none => match s.frag f with
    | some x => s.evacAck w src x a
    | none => s
  | some r =>
    let i := fragIndex f
    if r.st ≠ .sealing || r.lead ≠ s.myId || s.amSuspect then s
    else match a with
      | .done =>
        if gen = r.gen && r.targets.getD i none = some src then
          (s.modStripe id (fun r => { r with done := if r.done.contains i then r.done else r.done ++ [i] })).checkSealed w id
        else s
      | .full =>
        let r1 := { r with refused := r.refused ++ [src] }
        let t := ((s.walkFor (fragGroup id) r1.refused).bind (fun x => x.targets.getD i none))
        let used := r.targets.filter (fun x => x.isSome)
        let t := if used.contains t then none else t
        let r2 := { r1 with targets := r1.targets.set i t }
        ((s.modStripe id (fun _ => r2)).sendFrag w r2 (imageOf r2) i).checkSealed w id
      | .staleGen => if r.gen < gen then s.mortarOut w src (wyOfGroup (fragGroup id)) (.journalStateReq (fragGroup id) id) else s
      | .notTarget => s

/-- SEAL_COMMIT: a journal member drops its copies and its state record (R235 step 7). -/
def execSealCommit (w : Wy) (h : MHead) (stripe gen : Nat) (s : State) : Host.Outcome State Fault Refusal :=
  .next (s.mortarIn w h (.sealCommit w h stripe gen) (fun s =>
    match s.stripe stripe with
    | some r => if r.lead ≠ s.myId && r.gen ≤ gen then s.dropStripe stripe else s
    | none => s))

/-- SEAL_TIMER: 50 ms after the stripe's first record was placed (R234). -/
def execSealTimer (stripe : Nat) (s : State) : Host.Outcome State Fault Refusal :=
  match s.stripe stripe with
  | some r =>
    .next (if r.st = .opened && r.recs ≠ [] && s.since r.openedAt (ms 50) then s.startSeal (wyOfGroup (fragGroup stripe)) stripe else s)
  | none => .next s

/-! ### Journal members that fail, and images restored (R238, R239, R241) -/

/-- Replace the unavailable journal members of a stripe by the first available bricks in walk order, and send them every pending
record (R238). A SEALING stripe goes back to its STRIPE_SEAL. -/
def State.replaceJournal (s : State) (w : Wy) (id : Nat) : State :=
  match s.stripe id, s.row (fragGroup id) with
  | some r, some row =>
    let ws := s.wall.settings
    let kept := r.journal.filter (fun b => s.isMember b && b ≠ s.myId)
    let cand := (((row.pos.take (ws.k + ws.m)).drop ws.k) ++ row.spill).filter (fun b =>
      s.isMember b && b ≠ s.myId && !kept.contains b)
    let new := cand.take (2 - kept.length)
    if new = [] && kept = r.journal then s
    else
      let r2 := { r with journal := kept ++ new, held := [] }
      let s1 := s.modStripe id (fun _ => r2)
      let s2 := new.foldl (fun s b => s.copyTo w r2 b r2.recs) s1
      if r2.st = .sealing then kept.foldl (fun s b => s.sendSeal w r2 b) s2 else s2
  | _, _ => s

/-- The next stripe sequence of a group for a brick that takes it over (R229). Of a brick that holds no sequence of the group the spec names no
highest: DESIGN CHOICE, 0 stands for it, so that 1,024 comes next (log 238). -/
def State.seqAfter (s : State) (g : Nat) : Nat :=
  let ids := (s.stripes.recs.map (fun r => r.id) ++ s.stripes.frags.map (fun x => x.fragId)).filter (fun f => fragGroup f = g)
  ids.foldl (fun a f => max a (fragSeq f)) 0 + 1024

/-- A brick that becomes stripe lead of a stripe takes its next sequence in the group (R229). -/
def State.takeGroupSeq (s : State) (g : Nat) : State :=
  { s with refs := { s.refs with
    groups := updFirst (fun r => r.group = g) (fun r => { r with nextSeq := max r.nextSeq (s.seqAfter g) }) s.refs.groups } }

/-- The first available member of a stripe's journal list takes it over: it asks the other for its image (R239). -/
def State.takeStripe (s : State) (w : Wy) (r : StripeRec) : State :=
  let g := fragGroup r.id
  let s1 := (s.takeGroupSeq g).modStripe r.id (fun r => { r with
      lead := s.myId, leadEpoch := s.wall.epoch, closed := true, st := .opened,
      placed := [] })
  match r.journal.find? (fun b => b ≠ s.myId && s.isMember b) with
  | some b => s1.mortarOut w b (wyOfGroup g) (.journalStateReq g r.id)
  | none => s1.replaceJournal w r.id

/-- A brick's holding counts as unreadable for exposure: it is none, SUSPECT or LOST; LEAVING counts as readable (R245). -/
def State.unreadable (s : State) (b : Option Nat) : Bool :=
  match b with
  | none => true
  | some b => !(s.store.map.bricks.find? (fun x => x.id = b)).any (fun x => x.state = 1 || x.state = 3)

/-- What an epoch change does to the pending stripes of this brick (R234, R238, R239, R241). A LEAVING lead seals its own. -/
def State.stripesOnEpoch (s : State) : State :=
  if s.amSuspect then s
  else s.stripes.recs.foldl (fun s r =>
    let w := wyOfGroup (fragGroup r.id)
    if r.st = .sealed then s
    else if r.lead = s.myId then
      let s1 := if r.journal.any (fun b => !s.isMember b) then s.replaceJournal w r.id else s
      if r.st = .opened && (r.closed || s.wall.st = .leaving) then s1.startSeal w r.id else s1
    else if !s.unreadable (some r.lead) then s
    else if (r.journal.find? (fun b => s.isMember b)) = some s.myId then s.takeStripe w r
    else s) s

/-- What JOURNAL_STATE says of a pending stripe (R239, R241). -/
def journalOf (r : StripeRec) : JState :=
  { stripe := r.id, fill := r.fill, digest := sha256 (imageOf r), lead := r.lead, journal := r.journal, st := r.st, gen := r.gen,
    recs := r.recs.map (fun e => (e.1, e.2.length)) }

/-- What JOURNAL_STATE says of a stripe that is SEALED and stands in the catalogue only (log 239). -/
def sealedOf (x : FragRec) : JState :=
  { stripe := stripeOf x.fragId, fill := x.fill, digest := x.digest, lead := x.lead, journal := [0xFFFF, 0xFFFF], st := .sealed, gen := x.gen,
    recs := [] }

/-- JOURNAL_STATE_REQ: the state of one pending stripe, or of every one of the group (R239, R241). For a stripe that is no longer pending, one
in the catalogue answers as SEALED (log 239). -/
def execJournalStateReq (w : Wy) (h : MHead) (group stripe : Nat) (s : State) : Host.Outcome State Fault Refusal :=
  .next (s.mortarIn w h (.journalStateReq w h group stripe) (fun s =>
    let s := match (if stripe = 0 || (s.stripe stripe).isSome then none else s.stripes.frags.find? (fun x => stripeOf x.fragId = stripe)) with
      | some x => s.mortarOut w h.src h.srcW (.journalState (sealedOf x))
      | none => s
    (s.stripes.recs.filter (fun r => fragGroup r.id = group && (stripe = 0 || r.id = stripe))).foldl (fun s r =>
      s.mortarOut w h.src h.srcW (.journalState (journalOf r))) s))

/-- The cookie of a pull of pending records (R239). -/
def pullCookie : Nat := 4 * 2 ^ 56

/-- The entries of the rebuild queue learn of their stripe's seal what this brick's catalogue did not hold (log 239). -/
def State.learnSeal (s : State) (j : JState) : State :=
  if j.st ≠ .sealed then s
  else
    let ws := s.wall.settings
    let t := ((s.row (fragGroup j.stripe)).map (fun r => (r.pos.take (ws.k + ws.m)).map some)).getD []
    s.modStripes (fun x => { x with rebuild := x.rebuild.map (fun e =>
      if stripeOf e.fragId = j.stripe && e.digest = [] then
        { e with fill := j.fill, digest := j.digest, gen := j.gen, lead := j.lead, targets := t }
      else e) })

/-- JOURNAL_STATE at the asker (R239, R241): a brick no longer the stripe's lead drops its copies; the stripe lead resends what the
other lacks, pulls what it lacks itself, and restores two journal members. A newer seal of the stripe is adopted: the copies of the older one are
dropped, and this brick's own fragment is replaced when the newer seal's FRAG_PUT brings it (R240). -/
def State.doJournalState (s0 : State) (w : Wy) (h : MHead) (j : JState) : State :=
  let s := s0.learnSeal j
  match s.stripe j.stripe with
  | none => s
  | some r =>
    if (j.lead ≠ s.myId && j.lead ≠ r.lead) || (j.st = .sealed && r.gen < j.gen) then s.dropStripe r.id
    else if r.lead ≠ s.myId then (if j.st = .sealed || !j.journal.contains s.myId then s.dropStripe r.id else s)
    else if j.st = .sealed || s.amSuspect then s
    else
      let theirs := j.recs.map (fun e => e.1)
      let also := ((theirs.filter (fun o => r.recs.any (fun e => e.1 = o))).map (fun o => (o, h.src))).filter
        (fun x => !r.placed.contains x)
      let s1 := s.modStripe r.id (fun r => { r with placed := r.placed ++ also, fill := max r.fill j.fill })
      let s2 := s1.copyTo w r h.src (r.recs.filter (fun e => !theirs.contains e.1))
      let lacking := j.recs.filter (fun e => !r.recs.any (fun x => x.1 = e.1))
      let s3 := lacking.foldl (fun s e =>
        (segsOf s.wall.settings.fragBytes (placeAt s.wall.settings.fragBytes r.id e.1 (zeroBytes e.2))).foldl (fun s x =>
          s.mortarOut w h.src h.srcW (.rangeRead x.1 x.2.1 x.2.2 true .repair pullCookie)) s) s2
      let s4 := s3.replaceJournal w r.id
      match s4.stripe r.id with
      | some r2 =>
        let all := fun b => r2.recs.all (fun e => r2.placed.contains (e.1, b))
        if lacking = [] && r2.st = .opened && r2.closed && r2.journal.all all then s4.startSeal w r.id
        else if r2.st = .sealing && all h.src && r2.journal.contains h.src && !r2.held.contains h.src then s4.sendSeal w r2 h.src
        else s4
      | none => s4

/-- JOURNAL_STATE. -/
def execJournalState (w : Wy) (h : MHead) (j : JState) (s : State) : Host.Outcome State Fault Refusal :=
  .next (s.mortarIn w h (.journalState w h j) (fun s => s.doJournalState w h j))

/-- A pulled record arrives at the new stripe lead; once nothing is missing its journal is restored and the stripe sealed
(R239). -/
def State.pullData (s : State) (w : Wy) (src f off : Nat) (bytes : Bytes) : State :=
  let id := stripeOf f
  let at_ := fragIndex f * s.wall.settings.fragBytes + off
  match s.stripe id with
  | none => s
  | some r =>
    if r.recs.any (fun e => e.1 = at_) then s
    else
      let s1 := s.modStripe id (fun r => { r with recs := r.recs ++ [(at_, bytes)], placed := r.placed ++ [(at_, src)] })
      r.journal.foldl (fun s b => if b = src || b = s.myId then s
        else s.copyTo w r b [(at_, bytes)]) s1

/-- What a brick does with its pending stripes once it is MEMBER after a restart (R242), or on its return from SUSPECT (R241): it asks the
bricks on each stripe's journal list for their state, and a journal member asks the stripe lead too. -/
def State.stripesAfterStop (s : State) : State :=
  s.stripes.recs.foldl (fun s r =>
    let w := wyOfGroup (fragGroup r.id)
    if r.lead = s.myId then
      if r.st = .sealed then
        r.journal.foldl (fun s b => s.mortarOut w b (wyOfGroup (fragGroup r.id)) (.sealCommit r.id r.gen)) s
      else
        r.journal.foldl (fun s b => s.mortarOut w b (wyOfGroup (fragGroup r.id)) (.journalStateReq (fragGroup r.id) r.id))
          (s.modStripe r.id (fun r => { r with closed := true, st := .opened, placed := [], held := [], done := [] }))
    else ((r.lead :: r.journal).filter (fun b => b ≠ s.myId && s.isMember b)).foldl (fun s b =>
      s.mortarOut w b (wyOfGroup (fragGroup r.id)) (.journalStateReq (fragGroup r.id) r.id)) s) s

/-! ### Reads of ranges (R237) -/

/-- The bytes of a pending record's range, from a stripe's copies. -/
def State.pendingRange (s : State) (f off len : Nat) : Option Bytes :=
  match s.stripe (stripeOf f) with
  | none => none
  | some r =>
    let a := fragIndex f * s.wall.settings.fragBytes + off
    if a + len ≤ r.fill && r.recs.any (fun e => e.1 < a + len && a < e.1 + e.2.length) then some (sliceBytes (imageOf r) a len) else none

/-- The holder a brick knows of a fragment it does not hold (R237): a detour, or the target of a stripe it has sealed. -/
def State.knownHolder (s : State) (f : Nat) : Nat :=
  match tableGet? s.stripes.detours f with
  | some b => b
  | none =>
    match s.stripe (stripeOf f) with
    | some r => if r.st = .sealed then (r.targets.getD (fragIndex f) none).getD 0xFFFF else 0xFFFF
    | none =>
      match s.stripes.frags.find? (fun x => stripeOf x.fragId = stripeOf f && x.lead = s.myId) with
      | some x => let b := (x.targets.getD (fragIndex f) none).getD 0xFFFF
                  if b = s.myId then 0xFFFF else b
      | none => 0xFFFF

/-! ### Holders, catch-up and the rebuild queue (R243-R248) -/

/-- The holder of a fragment of a stripe sealed with the given targets (R243): a detour's brick; a spill that was its target; otherwise the
brick at its position in the bond table. A position sealed missing has none. -/
def State.holderNow (s : State) (f : Nat) (targets : List (Option Nat)) : Option Nat :=
  match tableGet? s.stripes.detours f, targets.getD (fragIndex f) none, s.row (fragGroup f) with
  | some b, _, _ => some b
  | none, none, _ => if targets = [] then (s.row (fragGroup f)).bind (fun r => r.pos[fragIndex f]?) else none
  | none, some t, some r => if r.spill.contains t then some t else r.pos[fragIndex f]?
  | none, some t, none => some t

/-- The exposure of a stripe by its recorded targets, this brick's detours and what it is itself to rebuild (R245). -/
def State.exposureOf (s : State) (x : FragRec) : Nat :=
  ((List.range (s.wall.settings.k + s.wall.settings.m)).filter (fun i =>
    let f := stripeOf x.fragId + i
    s.unreadable (s.holderNow f x.targets) || (i = fragIndex x.fragId && x.bad ≠ [])
      || s.stripes.rebuild.any (fun e => e.fragId = f && (s.frag f).isNone && (tableGet? s.stripes.detours f).isNone))).length

/-- The exposure of a stripe as this brick knows it: by its catalogue, or as a STRIPE_LIST reported it. -/
def State.exposureAt (s : State) (stripe : Nat) : Nat :=
  match s.stripes.frags.find? (fun x => stripeOf x.fragId = stripe) with
  | some x => s.exposureOf x
  | none => (tableGet? s.stripes.exposure stripe).getD 0

/-- The order of the rebuild queue: margin, group, sequence (R246). -/
def rebuildLe (a b : RebuildEnt) : Bool :=
  a.margin < b.margin || (a.margin = b.margin && (fragGroup a.fragId < fragGroup b.fragId
    || (fragGroup a.fragId = fragGroup b.fragId && fragSeq a.fragId ≤ fragSeq b.fragId)))

/-- Insert in the rebuild queue's order. -/
def insertRebuild (e : RebuildEnt) : List RebuildEnt → List RebuildEnt
  | [] => [e]
  | x :: rest => if rebuildLe x e then x :: insertRebuild e rest else e :: x :: rest

/-- Margins anew and the queue sorted: on each epoch change and each new unreadable range (R246). What a brick that is no longer readable
was asked for is asked no more. -/
def State.sortRebuild (s : State) : State :=
  let l := s.stripes.rebuild.map (fun e => { e with
    margin := s.wall.settings.m - s.exposureAt (stripeOf e.fragId)
    asked := e.asked.filter (fun a => !s.unreadable (some a.2)) })
  s.modStripes (fun x => { x with
    rebuild := l.foldl (fun a e => insertRebuild e a) []
    catchUp := x.catchUp.filter (fun c => !s.unreadable (some c.2)) })

/-- Queue a fragment for rebuild, or a range of it (`upto` its end). -/
def State.queueRebuild (s : State) (f gen from_ upto : Nat) : State :=
  if s.stripes.rebuild.any (fun e => e.fragId = f && e.next = from_ && e.upto = upto) then s
  else
    let known := s.stripes.frags.find? (fun x => stripeOf x.fragId = stripeOf f)
    let e : RebuildEnt :=
      { fragId := f, gen := (known.map (fun x => x.gen)).getD gen, fill := (known.map (fun x => x.fill)).getD 0,
        digest := (known.map (fun x => x.digest)).getD [], targets := (known.map (fun x => x.targets)).getD [],
        lead := (known.map (fun x => x.lead)).getD 0xFFFF, margin := 0, next := from_, upto := upto, bytes := [], asked := [], got := [],
        out := [] }
    (s.modStripes (fun x => { x with rebuild := x.rebuild ++ [e] })).sortRebuild

/-- The positions that this brick holds in a row. -/
def State.myPositions (s : State) (group : Nat) : List Nat :=
  ((s.row group).map (fun r => ((r.pos.zipIdx).filter (fun x => x.1 = s.myId)).map (fun x => x.2))).getD []

/-- Ask the available bricks of a row for the stripes of a position, spill columns included (R244, R245). -/
def State.askList (s : State) (w : Wy) (group pos : Nat) : State :=
  match s.row group with
  | none => s
  | some r =>
    let l := ((r.pos ++ r.spill).eraseDups).filter (fun b => s.isMember b && b ≠ s.myId)
    l.foldl (fun s b => (s.mortarOut w b (wyOfGroup group) (.stripeListReq group pos 0 4096)).modStripes
      (fun x => { x with catchUp := x.catchUp ++ [(group, b)] })) s

/-- A brick returned to MEMBER, or named at a position by a new bond table, finds its work (R244, R245). -/
def State.catchUpAll (s : State) : State :=
  s.wall.bond.rows.foldl (fun s r => (s.myPositions r.1).foldl (fun s p => s.askList (wyOfGroup r.1) r.1 p) s) s

/-- STRIPE_LIST_REQ: the stripes of the group in this brick's catalogue, from a sequence on (R244, R252). -/
def State.doStripeListReq (s : State) (w : Wy) (h : MHead) (group pos first max_ : Nat) : State :=
  let mine := s.stripes.frags.filter (fun x => fragGroup x.fragId = group && first ≤ fragSeq x.fragId && x.durable)
  let sorted := (mine.foldl (fun (t : Table FragRec) x => tablePut t (stripeOf x.fragId) x) []).map (fun e => e.2)
  let ent := fun x : FragRec =>
    let f := stripeOf x.fragId + pos
    let holder := (tableGet? s.stripes.detours f <|> x.targets.getD pos none)
    ({ stripe := stripeOf x.fragId, gen := x.gen, holder := holder.getD 0xFFFF, exposure := s.exposureOf x,
       held := (s.frag f).isSome, missing := (x.targets.getD pos none).isNone } : ListEntry)
  s.mortarOut w h.src h.srcW (.stripeList group pos (max_ < sorted.length) ((sorted.take max_).map ent))

/-- STRIPE_LIST_REQ. -/
def execStripeListReq (w : Wy) (h : MHead) (group pos first max : Nat) (s : State) : Host.Outcome State Fault Refusal :=
  .next (s.mortarIn w h (.stripeListReq w h group pos first max) (fun s => s.doStripeListReq w h group pos first max))

/-- Move a fragment of a position back from its holder, which stands as a detour until the copy is durable: the move waits in the rebuild
queue for the budget of its tier (R243, R244, R249). -/
def State.moveBack (s : State) (f gen holder : Nat) : State :=
  (s.modStripes (fun x => { x with detours := tablePut x.detours f holder })).queueRebuild f gen 0 0

/-- Ask a brick that has a stripe in its catalogue for what the seal fixed, where this brick's catalogue lacks it (log 239). -/
def State.askSeal (s : State) (w : Wy) (src stripe : Nat) : State :=
  if s.stripes.rebuild.any (fun e => stripeOf e.fragId = stripe && e.digest = []) then
    s.mortarOut w src (wyOfGroup (fragGroup stripe)) (.journalStateReq (fragGroup stripe) stripe)
  else s

/-- An entry of a STRIPE_LIST for a position of this brick (R244, R245). A brick that holds the fragment itself keeps its own copy and has the
detour released (R248). -/
def State.listed (s : State) (w : Wy) (pos src : Nat) (e : ListEntry) : State :=
  let f := e.stripe + pos
  let s1 := s.modStripes (fun x => { x with exposure := tablePut x.exposure e.stripe e.exposure })
  let s2 := match s1.frag f with
    | some x =>
      if x.gen < e.gen then s1.queueRebuild f e.gen 0 0
      else if e.held && x.durable && x.bad = [] && x.evacTo.isNone then s1.mortarOut w src (wyOfGroup (fragGroup f)) (.fragRelease f s.myId) else s1
    | none =>
      if s1.stripes.rebuild.any (fun r => r.fragId = f) then s1
      else if e.missing || e.holder = 0xFFFF then s1.queueRebuild f e.gen 0 0
      else if e.held then s1.moveBack f e.gen src
      else if s1.unreadable (some e.holder) || e.holder = s.myId then s1.queueRebuild f e.gen 0 0
      else s1.moveBack f e.gen e.holder
  s2.askSeal w src e.stripe

/-- STRIPE_LIST (R244, R245). -/
def execStripeList (w : Wy) (h : MHead) (group pos : Nat) (more : Bool) (entries : List ListEntry) (s : State) :
    Host.Outcome State Fault Refusal :=
  .next (s.mortarIn w h (.stripeList w h group pos more entries) (fun s =>
    let s1 := if (s.myPositions group).contains pos then entries.foldl (fun s e => s.listed w pos h.src e) s else s
    if more then
      let next := entries.foldl (fun a e => max a (fragSeq e.stripe + 1)) 0
      s1.mortarOut w h.src h.srcW (.stripeListReq group pos next 4096)
    else s1.modStripes (fun x => { x with catchUp := x.catchUp.erase (group, h.src) })))

/-- A brick whose margin is 1 or 0 through SUSPECT holders has them rebuilt at once as detours by the first available spill
(R248). -/
def State.spillRebuilds (s : State) : State :=
  s.stripes.frags.foldl (fun s x =>
    let g := fragGroup x.fragId
    let spill := (s.row g).bind (fun r => r.spill.find? (fun b => s.isMember b))
    if spill ≠ some s.myId then s
    else if s.wall.settings.m - s.exposureOf x ≤ 1 then
      (x.targets.zipIdx.filter (fun t => t.1.any (fun b =>
        (s.store.map.bricks.find? (fun y => y.id = b)).any (fun y => y.state = 2)))).foldl
        (fun s t => if (s.frag (stripeOf x.fragId + t.2)).isSome then s else s.queueRebuild (stripeOf x.fragId + t.2) x.gen 0 0) s
    else s) s

/-! ### Loss, release, evacuation (R243, R250, R251) -/

/-- LOST_REPORT of a range only: a self-rebuild entry at the failing holder (R247). -/
def State.selfRebuild (s : State) (stripe off len : Nat) : State :=
  let f := s.wall.settings.fragBytes
  let id := stripe + off / f
  match s.frag id with
  | none => s
  | some x =>
    let a := off % f
    (s.modFrag id (fun x => { x with bad := x.bad ++ [(a, len)] })).queueRebuild id x.gen a (a + len)

/-- FRAG_RELEASE: the fragment is freed; one no longer held is acknowledged and ignored (R243, R253). A holder names where it lives
now. -/
def State.doFragRelease (s : State) (f holder : Nat) : State :=
  let s1 := s.freeFrag f
  if holder = 0xFFFF then s1.modStripes (fun x => { x with
    detours := x.detours.filter (fun e => stripeOf e.1 ≠ stripeOf f), rebuild := x.rebuild.filter (fun e => e.fragId ≠ f) })
  else s1

/-- FRAG_RELEASE. -/
def execFragRelease (w : Wy) (h : MHead) (fragId holder : Nat) (s : State) : Host.Outcome State Fault Refusal :=
  .next (s.mortarIn w h (.fragRelease w h fragId holder) (fun s => s.doFragRelease fragId holder))

/-- The fragments of the catalogue in rebuild order (R246, R251): margin, group, sequence. -/
def State.evacOrder (s : State) : List FragRec :=
  let key := fun x : FragRec => (s.wall.settings.m - s.exposureOf x) * 2 ^ 64 + x.fragId
  ((s.stripes.frags.filter (fun x => x.durable)).foldl (fun (t : Table FragRec) x => tablePut t (key x) x) []).map (fun e => e.2)

/-- The brick must evacuate, or goes on evacuating until 1% of usable capacity below the threshold (R251). -/
def State.mustEvacuate (s : State) : Bool :=
  let line := s.usable - s.deleteReserve
  if s.wall.evacuating then line - s.usable / 100 < s.fragBytesHeld else line < s.fragBytesHeld

/-- A fragment that no spill accepts and that the brick can no longer hold, since its fragment bytes exceed even its usable capacity (log
234), is handled as an unreadable range (R247, R251): its whole stored length is marked and queued for a self-rebuild. -/
def State.dropUnmovable (s : State) : State :=
  if s.fragBytesHeld ≤ s.usable then s
  else match (s.wall.unmovable.filterMap s.frag).find? (fun x => x.bad = []) with
    | none => s
    | some x => (s.modFrag x.fragId (fun y => { y with bad := [(0, y.bytes.length)] })).queueRebuild x.fragId x.gen 0 x.bytes.length

/-- EVACUATION: the next fragment in rebuild order goes to the first available spill of its row (R251). -/
def execEvacuation (w : Wy) (s : State) : Host.Outcome State Fault Refusal :=
  if !s.mustEvacuate then .next (s.modWall (fun x => { x with evacuating := false, unmovable := [] }))
  else
    let s1 := s.modWall (fun x => { x with evacuating := true, fullFlag := true })
    match s1.evacOrder.find? (fun x => x.evacTo.isNone && !s.wall.unmovable.contains x.fragId) with
    | none => .next s1.dropUnmovable
    | some x =>
      match s1.nextSpill x.fragId none with
      | some b => .next (s1.sendMove w x b)
      | none => .next (s1.noSpill w x)

end Sys2Proof.Machine
end

