-- ==== Sys2Proof/Machine/MediaRead.lean ====
section
/-! DEFINITION. Reading back (R326, R327, R330-R335): read thresholds, the retry ladder, die-parity reconstruction, and RANGE_READ. -/

namespace Sys2Proof.Machine

/-! ### Dies that fail (R326, R327) -/

/-- Retire a die (R327): it joins no new superblock, and its rebuild waits. The spec gives RETIRE_DIE's causes no numbers; the
record keeps 1 for the allowance, 2 for CH_DIE_RESET and 3 for die parity (log 33); 5 is REQUEST (R516). -/
def State.retireDie (s : State) (d cause : Nat) : State :=
  if (s.die d).retired then s
  else
    let i := setOf (d / 32)
    let s1 := (s.anchorRec i (.retireDie d cause false)).modDie d (fun x => { x with retired := true, goneAt := some s.now })
    (s1.modSet i (fun x => { x with dieRebuild := x.dieRebuild ++ [d] })).earlyWarn 7 2 d (leBytes 4 d)

/-- A die gave UNCORRECTABLE from die-parity reconstruction; three times within 24 h retire it (R327). -/
def State.dieUncorr (s : State) (d : Nat) : State :=
  let s1 := s.modDie d (fun x => { x with
    uncorr := x.uncorr.filter (fun t => s.now < t + sec 86400) ++ [s.now]
    uncReads := x.uncReads + 1 })
  if 3 ≤ (s1.die d).uncorr.length then s1.retireDie d 3 else s1

/-- A code word of a block needed die parity (R326, R335). -/
def State.parityUsed (s : State) (k : Nat) : State :=
  (s.modBlk k (fun b => { b with weak := b.weak ++ [s.now] })).modDie (k / 8192) (fun x => { x with parityReads := x.parityReads + 1 })

/-! ### The read-threshold table (R332, R333) -/

/-- A little-endian field of the loaded table; one with no bytes is the factory's, whose bytes are not given (log 41). -/
def tableWord (t : RdTable) (off n : Nat) : Nat := ofLe ((List.range n).map (fun k => t.bytes.getD (off + k) (Config.factoryTable (off + k))))

/-- The refresh age of a wear bin in equivalent days: the table's, or its default (R332). -/
def State.refreshDays (s : State) (bin : Nat) : Nat :=
  match s.media.table with
  | some t => tableWord t (96 + 4 * bin) 4
  | none => [1095, 730, 548, 365, 274, 183, 120, 90].getD bin 90

/-- The table that is loaded; until one is, the factory's (log 41). -/
def State.rdTable (s : State) : RdTable := s.media.table.getD { version := 0, bytes := [] }

/-- The age bin of an equivalent age in units of 2^-32 hours: the first whose bound is at or above it, 15 past bound 14 (R333). -/
def State.ageBin (s : State) (age : Nat) : Nat :=
  ((List.range 15).find? (fun k => decide (age ≤ tableWord s.rdTable (28 + 4 * k) 4 * 2 ^ 32))).getD 15

/-- The temperature bin of a difference of `n`-fold 0.1 °C: the first whose bound is at or above it, 7 past bound 6 (R333). -/
def State.tempBin (s : State) (diff : Int) (n : Nat) : Nat :=
  ((List.range 7).find? (fun k => decide (diff ≤ toSigned 8 (tableWord s.rdTable (88 + k) 1) * 10 * n))).getD 7

/-- The number of the base entry for a member of a superblock at a word line (R333), from the history entry of the word line. -/
def State.baseEntry (s : State) (b : SuperBlk) (wl p : Nat) : Nat :=
  let d := s.die (b.dies.getD p 0)
  match b.history.find? (fun h => h.line = wl / 64) with
  | none => b2n b.qlc * 1024
  | some h => ((b2n b.qlc * 8 + min 7 (h.wear / 15000)) * 16 + s.ageBin (d.age - h.ages.getD p 0)) * 8
      + s.tempBin (d.temp * h.temps - h.tempSum) h.temps

/-- The offsets of a read: those of the base entry plus the die's correction for the mode; an SLC entry uses byte 0 only (R332, R333). A sum
past a signed byte the spec does not give: DESIGN CHOICE, it is held at the byte's end (log 248). -/
def State.readOffsets (s : State) (b : SuperBlk) (wl p : Nat) : Bytes :=
  let d := s.die (b.dies.getD p 0)
  let corr := if b.qlc then d.corrQlc else d.corrSlc
  let byte := fun k : Nat =>
    leBytes 1 (ofSigned 8 (max (-128) (min 127 (toSigned 8 (tableWord s.rdTable (128 + 16 * s.baseEntry b wl p + k) 1) + corr))))
  if b.qlc then (List.range 15).flatMap byte else byte 0 ++ zeroBytes 14

/-- The first retry step of the base entry (R332, R334). -/
def State.firstStep (s : State) (b : SuperBlk) (wl p : Nat) : Nat :=
  tableWord s.rdTable (128 + 16 * s.baseEntry b wl p + 15) 1 % 16

/-- A read of a superblock needed as many attempts of the ladder as the media settings say: it is queued for refresh (R335). -/
def State.noteTired (s : State) (r : ChReq) (attempts : Nat) : State :=
  let i := setOf r.channel
  let on := fun b : SuperBlk => b.blocks.any (fun e => e.1 = reqDie r && (planesOf r).any (fun p => e.2.getD p 0 = r.blocks.getD p 0))
  if attempts < s.media.cfg.refreshAt then s
  else s.modSet i (fun x => { x with sbs := updAll on (fun b => { b with refresh := true }) x.sbs })

/-! ### Blocks with an intent (R326) -/

/-- A routine that reads. -/
def isReading (j : ChJob) : Bool := j.routine = .read || j.routine = .readRetry

/-- A read aimed at a block with an intent and no ERASE_DONE. -/
def State.readsIntent (s : State) (j : ChJob) : Bool := isReading j && (blksOf j.routine j.req).any (fun k => (s.blk k).use = .intent)

/-- Such a read returns UNCORRECTABLE. -/
def State.asRead (s : State) (j : ChJob) (e : DieEnd) : DieEnd :=
  if s.readsIntent j then { e with result := .uncorrectable, good := 0 } else e

/-- The set records it as a FAULT event. -/
def State.intentRead (s : State) (j : ChJob) : State :=
  if s.readsIntent j then s.recordOpen (srcOf j.w) 2 (chnPage j.req.channel) (leBytes 4 (reqDie j.req)) else s

/-! ### Pages (R333, R334) -/

/-- The page of a unit of a fragment that the map names, with its code word. -/
def unitPage (x : SetSt) (f gen k : Nat) : Option PageRead :=
  (x.map.find? (fun e => e.typ = 1 && e.owner = f && e.gen = gen && !e.hole && e.unit ≤ k && k < e.unit + e.count)).bind (fun e =>
    (x.sbs.find? (fun b => b.id = e.sb)).bind (fun b =>
      (b.rounds.find? (fun r => r.st = .durable && r.msns.contains e.msn)).map (fun r =>
        { sb := b.id, wl := r.wl, stripe := r.msns.findIdx (fun m => m = e.msn), member := e.pos, words := 2 ^ (e.cw + (k - e.unit)), failed := 0,
          parity := false, got := [], done := false })))

/-- Two reads name one page. -/
def samePage (a b : PageRead) : Bool := a.sb = b.sb && a.wl = b.wl && a.stripe = b.stripe && a.member = b.member

/-- The pages that hold a range of a fragment, with the code words asked for of each. -/
def pagesOf (x : SetSt) (f gen off len : Nat) : List PageRead :=
  ((List.range ((off + len + 4095) / 4096 - off / 4096)).filterMap (fun k => unitPage x f gen (off / 4096 + k))).foldl (fun l p =>
    if l.any (samePage p) then updFirst (samePage p) (fun q => { q with words := Nat.lor q.words p.words }) l else l ++ [p]) []

/-- Submit the read of some code words of a member's page of a stripe. -/
def State.readPage (s : State) (u : UnitRead) (n : Nat) (q : PageRead) (m words : Nat) (again : Bool) : State :=
  match s.sb u.set q.sb with
  | none => s
  | some b =>
    let die := b.dies.getD m 0
    s.submit (s.setWy u.set) (if again then .readRetry else .read)
      { flags := 2, cls := u.cls, die := die % 32, channel := die / 32, planes := 2 ^ (q.stripe % 4) + 16 * b2n b.qlc,
        cw := words + 16 * s.firstStep b q.wl m, retry := if again then 16 else 0,
        blocks := ((b.blocks.find? (fun e => e.1 = die)).map (fun e => e.2)).getD [],
        page := if b.qlc then 4 * q.wl + q.stripe / 4 else q.wl, erases := 0, offsets := s.readOffsets b q.wl m, res35 := 0, buffer := 0,
        bufOff := 0, cookie := 0, seq := 0, time := 0, slots := [], sources := [] } (.unitRead u.id n m)

/-- Change a page of a read. -/
def State.modUnitPage (s : State) (id n : Nat) (f : PageRead → PageRead) : State :=
  s.modMedia (fun m => { m with reads := updFirst (fun u => u.id = id) (fun u => { u with pages := u.pages.modify n f }) m.reads })

/-- A read of the media is over. -/
def State.dropRead (s : State) (id : Nat) : State := s.modMedia (fun m => { m with reads := m.reads.filter (fun u => u.id ≠ id) })

/-! ### RANGE_READ (R228, R237, R243, R244) -/

/-- The answer from a fragment that this brick holds, once its units have been read. -/
def State.answerRange (s : State) (u : UnitRead) : State :=
  let ans := fun (st : RStatus) (holder : Nat) (b : Bytes) =>
    s.mortarOut u.w u.dst u.dstW (.rangeData u.fragId u.offset u.length st holder u.cookie b)
  match s.frag u.fragId with
  | none => ans .notHeld (s.knownHolder u.fragId) []
  | some x =>
    if x.bad.any (fun r => r.1 < u.offset + u.length && u.offset < r.1 + r.2) then ans .uncorrectable s.myId []
    else ans .ok s.myId (padTo u.length (sliceBytes x.bytes u.offset u.length))

/-- A page could not be read and not be rebuilt: the read returns UNCORRECTABLE (R334), and its die is counted (R327). -/
def State.readFails (s : State) (u : UnitRead) (q : PageRead) : State :=
  let die := ((s.sb u.set q.sb).map (fun b => b.dies.getD q.member 0)).getD 0
  ((s.dropRead u.id).dieUncorr die).mortarOut u.w u.dst u.dstW (.rangeData u.fragId u.offset u.length .uncorrectable s.myId u.cookie [])

/-- A page has been read or rebuilt; with the last one the range is answered. -/
def State.pageRead (s : State) (u : UnitRead) (n : Nat) : State :=
  let s1 := s.modUnitPage u.id n (fun q => { q with done := true })
  if u.pages.zipIdx.all (fun e => e.2 = n || e.1.done) then (s1.dropRead u.id).answerRange u else s1

/-- All 16 attempts have failed: the code words are read from the other pages of the stripe and XORed (R334); the block's code words needed die
parity, and the superblock is queued for refresh (R326, R335). -/
def State.toParity (s : State) (u : UnitRead) (n : Nat) (q : PageRead) (bad : Nat) : State :=
  match s.sb u.set q.sb with
  | none => s.readFails u q
  | some b =>
    let die := b.dies.getD q.member 0
    let blocks := ((b.blocks.find? (fun e => e.1 = die)).map (fun e => e.2)).getD []
    let s1 := (s.parityUsed (blkKey die (q.stripe % 4) (blocks.getD (q.stripe % 4) 0))).modSb u.set q.sb (fun b => { b with refresh := true })
    ((List.range b.dies.length).filter (fun m => m ≠ q.member)).foldl (fun s m => s.readPage u n q m bad false)
      (s1.modUnitPage u.id n (fun q => { q with failed := bad, parity := true }))

/-- A member of the stripe has given the code words; with all of them the rebuilt ones pass their CRC (log 248). -/
def State.memberRead (s : State) (u : UnitRead) (n : Nat) (q : PageRead) (m : Nat) : State :=
  let got := q.got ++ [m]
  let w := ((s.sb u.set q.sb).map (fun b => b.dies.length)).getD 0
  if w ≤ got.length + 1 then s.pageRead u n else s.modUnitPage u.id n (fun q => { q with got := got })

/-- A request for a page has ended with some code words unread: the page's own go through the ladder, then to die parity; another member's go
through the ladder, and a second page that fails ends the read (R334). -/
def State.wordsUnread (s : State) (u : UnitRead) (n : Nat) (q : PageRead) (m bad : Nat) (again : Bool) : State :=
  if !again then s.readPage u n q m bad true
  else if m = q.member then s.toParity u n q bad
  else s.readFails u q

/-- A request for a page has ended: `want` are the code words it named, `good` those read correctly. -/
def State.pageEnd (s : State) (u : UnitRead) (n m want good : Nat) (again : Bool) : State :=
  match u.pages[n]? with
  | none => s
  | some q =>
    let bad := want - Nat.land want good
    if bad ≠ 0 then s.wordsUnread u n q m bad again
    else if m = q.member then s.pageRead u n
    else s.memberRead u n q m

/-- A chisel request of a RANGE_READ has ended. -/
def State.unitReadEnd (s : State) (id n m : Nat) (j : ChJob) (e : DieEnd) : State :=
  match s.media.reads.find? (fun u => u.id = id) with
  | none => s
  | some u => s.pageEnd u n m (bits j.req.cw 3 0) (if e.result = .done then 15 else e.good) (j.routine = .readRetry)

/-- The members of a page's stripe whose requests are still to end. -/
def State.awaited (s : State) (u : UnitRead) (q : PageRead) : List Nat :=
  if q.done then []
  else if !q.parity then [q.member]
  else (List.range (((s.sb u.set q.sb).map (fun b => b.dies.length)).getD 0)).filter (fun m => m ≠ q.member && !q.got.contains m)

/-- The requests of reads that a media course has refused: their pages count as not read. -/
def State.refusedReads (s : State) : List (Nat × Nat × Nat) :=
  s.media.reads.flatMap (fun u => u.pages.zipIdx.flatMap (fun e => ((s.awaited u e.1).filter (fun m =>
    !s.media.jobs.any (fun j => j.what = .unitRead u.id e.2 m))).map (fun m => (u.id, e.2, m))))

/-- Reads whose requests were refused go on without them. -/
def State.sweepReads (s : State) : Nat → State
  | 0 => s
  | n + 1 =>
    (s.refusedReads.foldl (fun s e => match s.media.reads.find? (fun u => u.id = e.1) with
      | some u => s.pageEnd u e.2.1 e.2.2 15 0 true
      | none => s) s).sweepReads n

/-- The class of the reads of a purpose (R304); that of a verification the spec does not say: DESIGN CHOICE, read (log 248). -/
def readClass : Purpose → Nat
  | .rebuild => 1
  | _ => 0

/-- Read a range of a fragment from the media: CH_READ of every page that holds units of it (R334). -/
def State.readUnits (s : State) (u : UnitRead) : State :=
  let s1 := s.modMedia (fun m => { m with
    reads := m.reads ++ [u]
    nextRead := m.nextRead + 1 })
  (u.pages.zipIdx.foldl (fun s e => s.readPage u e.2 e.1 e.1.member e.1.words false) s1).sweepReads 3

/-- RANGE_READ of a durable fragment: its units are read from the set that holds them; holes, and units of which the map names none, are
answered at once. -/
def State.readFrag (s : State) (w : Wy) (h : MHead) (x : FragRec) (off len cookie cls : Nat) : State :=
  let set_ := if pagesOf s.media.set0 x.fragId x.gen off len = [] then 1 else 0
  let u : UnitRead :=
    { id := s.media.nextRead, w := w, set := set_, dst := h.src, dstW := h.srcW, fragId := x.fragId, offset := off, length := len,
      cookie := cookie, cls := cls, pages := pagesOf (s.set_ set_) x.fragId x.gen off len }
  if u.pages = [] || x.bad.any (fun r => r.1 < off + len && off < r.1 + r.2) then s.answerRange u else s.readUnits u

/-- RANGE_READ (R228, R237, R243, R244). -/
def State.doRangeRead (s : State) (w : Wy) (h : MHead) (f off len : Nat) (pend : Bool) (purpose : Purpose) (cookie : Nat) : State :=
  let ans := fun (st : RStatus) (holder : Nat) (b : Bytes) => s.mortarOut w h.src h.srcW (.rangeData f off len st holder cookie b)
  if pend then
    match s.pendingRange f off len with
    | some b => ans .ok s.myId b
    | none => ans .notHeld 0xFFFF []
  else if s.stripes.catchUp.any (fun c => c.1 = fragGroup f) then ans .notHeld 0xFFFF []
  else match s.frag f with
    | some x => if x.durable then s.readFrag w h x off len cookie (readClass purpose) else ans .notHeld (s.knownHolder f) []
    | none => ans .notHeld (s.knownHolder f) []

/-- RANGE_READ. -/
def execRangeRead (w : Wy) (h : MHead) (fragId offset length : Nat) (pend : Bool) (purpose : Purpose) (cookie : Nat) (s : State) :
    Host.Outcome State Fault Refusal :=
  .next (s.mortarIn w h (.rangeRead w h fragId offset length pend purpose cookie)
    (fun s => s.doRangeRead w h fragId offset length pend purpose cookie))

end Sys2Proof.Machine
end

