-- ==== Sys2Proof/Machine/Refs.lean ====
section
/-! DEFINITION. Reference state at the acting lead (09): chunk placement (R150), deltas, pending references, syncs, recounts, freeing
and thinning of stripes, and the home's side of each. -/

namespace Sys2Proof.Machine

/-! ### Group records (R229, R254) -/

/-- An empty state image. -/
def emptyImage : GroupImage := { index := [], pend := [], log := [], lwm := [], dead := [] }

/-- The reference state of a group on this brick. In the wall's first bond table no group has any state to copy (R254). -/
def State.groupRec (s : State) (g : Nat) : GroupRec :=
  let first := decide (s.wall.bond.version ≤ 1)
  (s.refs.groups.find? (fun r => r.group = g)).getD
    { group := g, held := first, leading := first, image := emptyImage, seen := [], nextSeq := if first then 0 else s.seqAfter g,
      recount := false, ended := [], thins := [], queries := [], parts := [], owners := [], syncing := [] }

/-- Change the reference state of a group. -/
def State.modGroup (s : State) (g : Nat) (f : GroupRec → GroupRec) : State :=
  let new := f (s.groupRec g)
  s.modRefs (fun r => { r with groups := upsert (fun x => x.group = g) (fun _ => new) new r.groups })

/-- Change the image of a group. -/
def State.modImage (s : State) (g : Nat) (f : GroupImage → GroupImage) : State :=
  s.modGroup g (fun r => { r with image := f r.image })

/-- This brick is the acting lead of a group (R219). -/
def State.leads (s : State) (g : Nat) : Bool := s.leadOf g = some s.myId && s.wall.brickId.isSome

/-- The acting lead of a group gives a change of its state to both journal members, before it acknowledges what caused the change (R254). No
message of the spec carries it: DESIGN CHOICE, the image as INDEX_SYNC, unasked (log 245). -/
def State.mirrorGroup (old s : State) (g : Nat) : State :=
  let img := (s.groupRec g).image
  if !s.leads g || (old.groupRec g).image = img then s
  else
    let b := imageBytes img
    let n := (b.length - 1) / 1048576 + 1
    (((s.walkFor g []).map (fun x => x.journal)).getD []).foldl (fun s j =>
      (List.range n).foldl (fun s i => s.mortarOut (wyOfGroup g) j (wyOfGroup g)
        (.indexSync g true (1048576 * i) b.length (if i + 1 = n then some img else none) (sliceBytes b (1048576 * i) 1048576))) s) s

/-! ### Freeing and thinning stripes (R265-R267) -/

/-- The targets a brick knows of a stripe: from its catalogue, its stripe record, or the row. -/
def State.targetsOf (s : State) (stripe : Nat) : List (Option Nat) :=
  match s.stripes.frags.find? (fun x => stripeOf x.fragId = stripe), s.stripe stripe with
  | some x, _ => x.targets
  | none, some r => r.targets
  | none, none => ((s.row (fragGroup stripe)).map (fun r => r.pos.map some)).getD []

/-- The fragments of a stripe with the brick that holds each, detours heeded (R243, R265). -/
def State.holdersOf (s : State) (stripe : Nat) : List (Nat × Nat) :=
  let ws := s.wall.settings
  (List.range (ws.k + ws.m)).filterMap (fun i =>
    (s.holderNow (stripe + i) (s.targetsOf stripe)).map (fun b => (stripe + i, b)))

/-- The FILL of a stripe as this brick knows it. -/
def State.fillOf (s : State) (stripe : Nat) : Nat :=
  match s.stripes.frags.find? (fun x => stripeOf x.fragId = stripe), s.stripe stripe with
  | some x, _ => x.fill
  | none, some r => r.fill
  | none, none => 0

/-- Every record of the stripe is freed: FRAG_RELEASE to every holder (R265). -/
def State.freeStripe (s : State) (w : Wy) (g stripe : Nat) : State :=
  let s1 := (s.holdersOf stripe).foldl (fun s x => s.mortarOut w x.2 (wyOfGroup g) (.fragRelease x.1 0xFFFF)) s
  (s1.modImage g (fun i => { i with dead := i.dead.filter (fun d => d.stripe ≠ stripe) })).modGroup g
    (fun r => { r with thins := r.thins.filter (fun t => t.stripe ≠ stripe) })

/-- The live records of a stripe: offset in the data area and length. -/
def liveRecs (f : Nat) (i : GroupImage) (stripe : Nat) : List (Nat × Nat) :=
  (i.index.filter (fun e => stripeOf e.place.fragId = stripe)).map (fun e => (fragIndex e.place.fragId * f + e.place.offset, e.place.length))

/-- The dead units of a data position: 4 KiB units below the stored length that no live record overlaps (R266). -/
def deadUnits (k f fill : Nat) (live : List (Nat × Nat)) (pos : Nat) : List Nat :=
  (List.range (storedLen k f fill pos / 4096)).filter (fun u =>
    let a := pos * f + u * 4096
    !live.any (fun r => r.1 < a + 4096 && a < r.1 + r.2))

/-- The generation of a stripe as this brick knows it. -/
def State.genOf (s : State) (stripe : Nat) : Nat :=
  ((s.stripes.frags.find? (fun x => stripeOf x.fragId = stripe)).map (fun x => x.gen)).getD
    (((s.stripe stripe).map (fun r => r.gen)).getD 0)

/-- Start thinning a stripe (R266 step 1). -/
def State.startThin (s : State) (w : Wy) (g stripe : Nat) : State :=
  let ws := s.wall.settings
  let img := (s.groupRec g).image
  let live := liveRecs ws.fragBytes img stripe
  let marks := ((List.range ws.k).map (fun i => (i, deadUnits ws.k ws.fragBytes (s.fillOf stripe) live i))).filter (fun x => x.2 ≠ [])
  let gen := s.genOf stripe
  let hs := s.holdersOf stripe
  let s1 := (s.modImage g (fun i => { i with
      dead := updFirst (fun d => d.stripe = stripe) (fun d => { d with thinning := true }) i.dead })).modGroup g
    (fun r => { r with
      thins := r.thins.filter (fun t => t.stripe ≠ stripe) ++ [{ stripe := stripe, gen := gen, wait := hs.map (fun x => x.1), commit := none }] })
  (hs.map (fun x => x.2)).eraseDups.foldl (fun s b =>
    s.mortarOut w b (wyOfGroup g) (.stripeThin stripe gen (gen + 1) s.myId marks)) s1

/-- Dead bytes have grown from `old`: a sealed stripe with no live record is freed, one that reaches the thin threshold is thinned
(R265, R266); nothing is freed during a recount (R255). A stripe's record lengths are those of the records that the index holds or has
counted dead (log 243). -/
def State.spaceCheck (s : State) (w : Wy) (g stripe old : Nat) : State :=
  let r := s.groupRec g
  let sealed := (s.stripe stripe).all (fun x => x.st = .sealed)
  match r.image.dead.find? (fun d => d.stripe = stripe) with
  | none => s
  | some d =>
    let line := s.wall.settings.thinPct * s.fillOf stripe
    if !sealed || r.recount || !s.leads g then s
    else if (liveRecs s.wall.settings.fragBytes r.image stripe) = [] then s.freeStripe w g stripe
    else if !d.thinning && old * 100 < line && line ≤ d.dead * 100 && !r.thins.any (fun t => t.stripe = stripe && t.commit ≠ some false) then
      s.startThin w g stripe
    else s

/-- FRAG_ACK; a stripe sealed with all its records freed already is freed (R265). -/
def execFragAck (w : Wy) (h : MHead) (fragId gen : Nat) (a : FAck) (s : State) : Host.Outcome State Fault Refusal :=
  .next (s.mortarIn w h (.fragAck w h fragId gen a) (fun s =>
    State.mirrorGroup s ((s.doFragAck w h.src fragId gen a).spaceCheck w (fragGroup fragId) (stripeOf fragId) 0) (fragGroup fragId)))

/-! ### Freeing chunks (R256, R261) -/

/-- The pending references of a fingerprint. -/
def pendOf (i : GroupImage) (fp : Bytes) : List PendRef := i.pend.filter (fun p => p.fp = fp)

/-- Free a chunk whose count and pending references are both zero (R261). -/
def State.freeIfDead (s : State) (w : Wy) (g : Nat) (fp : Bytes) : State :=
  let r := s.groupRec g
  match r.image.index.find? (fun e => e.fp = fp) with
  | none => s
  | some e =>
    if e.count ≠ 0 || e.pinned || pendOf r.image fp ≠ [] || r.recount then s
    else
      let st := stripeOf e.place.fragId
      let old := ((r.image.dead.find? (fun d => d.stripe = st)).map (fun d => d.dead)).getD 0
      let add := fun d : DeadEntry => { d with dead := d.dead + e.place.length }
      ((s.modImage g (fun i => { i with
        index := i.index.filter (fun x => x.fp ≠ fp)
        dead := upsert (fun d => d.stripe = st) add { stripe := st, dead := e.place.length, thinning := false } i.dead
        })).modGroup g (fun r => { r with owners := r.owners.filter (fun o => o.1 ≠ fp) })).spaceCheck w g st old

/-- A pending reference has the identity of R256. -/
def samePend (home p : Nat) (rid : BitVec 64) (chunk : Nat) (x : PendRef) : Bool :=
  x.home = home && x.p = p && x.requestId = rid && x.chunk = chunk

/-- Add a pending reference, once for each identity. -/
def State.addPend (s : State) (w : Wy) (g home p : Nat) (rid : BitVec 64) (chunk : Nat) (fp : Bytes) : State :=
  let new : PendRef := { home := home, p := p, requestId := rid, chunk := chunk, created := s.hybrid w, fp := fp }
  s.modImage g (fun i => { i with pend := if i.pend.any (samePend home p rid chunk) then i.pend else i.pend ++ [new] })

/-- Let pending references lapse, and free what nothing holds any more (R256, R262). -/
def State.lapse (s : State) (w : Wy) (g : Nat) (gone : PendRef → Bool) : State :=
  let l := (s.groupRec g).image.pend.filter gone
  l.foldl (fun s x => s.freeIfDead w g x.fp) (s.modImage g (fun i => { i with pend := i.pend.filter (fun x => !gone x) }))

/-- Add one to a count; at 2^32 - 1 it stays, PINNED, with a NOTICE event (R261). -/
def State.countUp (s : State) (w : Wy) (g : Nat) (e : FpEntry) : State :=
  if e.pinned then s
  else
    let n := e.count + 1
    let pin := decide (n = 2 ^ 32 - 1)
    let s1 := s.modImage g (fun i => { i with
      index := updFirst (fun x => x.fp = e.fp) (fun x => { x with count := n, pinned := pin }) i.index })
    if pin then s1.recordOpen (srcOf w) 1 (.mtr w) e.fp else s1

/-! ### Chunk placement at the lead (R141, R150, R152, R270) -/

/-- A brick's latest heartbeat shows FULL (R269, R270). -/
def State.brickFull (s : State) (b : Nat) : Bool :=
  (b = s.myId && s.wall.fullFlag) || s.wall.bricks.any (fun r => r.id = b && r.full)

/-- Full bricks cause the shortfall of a group (R270). -/
def State.groupFull (s : State) (g : Nat) : Bool :=
  let ws := s.wall.settings
  let n := fun but => ((s.walkFor g but).map (fun x => targetCount x.targets)).getD 0
  let full := (s.store.map.bricks.filter (fun x => s.brickFull x.id)).map (fun x => x.id)
  decide (ws.k + min ws.m 2 ≤ n []) && decide (n full < ws.k + min ws.m 2)

/-- The open stripe of a group that takes a record of a length: the one open now, or a new one, the old one being sealed when the
record does not fit (R227, R229, R234). Its id and the record's data-area offset. -/
def State.openStripe (s : State) (w : Wy) (g len : Nat) : State × Nat × Nat :=
  let ws := s.wall.settings
  let cur := s.stripes.recs.find? (fun r => fragGroup r.id = g && r.lead = s.myId && r.st = .opened && !r.closed)
  let fresh := fun s : State =>
    let seq := (s.groupRec g).nextSeq
    let id := fragId g seq 0
    let j := ((s.walkFor g []).map (fun x => x.journal)).getD []
    let r : StripeRec :=
      { id := id, st := .opened, closed := false, fill := 0, gen := 0, lead := s.myId, leadEpoch := s.wall.epoch, journal := j,
        targets := [], openedAt := s.now, digest := [], recs := [], waits := [], placed := [], held := [], done := [],
        refused := [], sealedWait := [] }
    (((s.modStripes (fun x => { x with recs := x.recs ++ [r] })).modGroup g (fun r => { r with nextSeq := seq + 1 })), id, 0)
  match cur with
  | some r =>
    let off := roundUp r.fill 16
    if off + len ≤ ws.k * ws.fragBytes then (s, r.id, off) else fresh (s.startSeal w r.id)
  | none => fresh s

/-- The first answer to a chunk message is kept for its resends (R152). -/
def State.noteSeen (s : State) (g home p : Nat) (rid : BitVec 64) (chunk : Nat) (res : AckResult) (place : Place) : State :=
  s.modGroup g (fun r => { r with
    seen := r.seen ++ [{ home := home, p := p, requestId := rid, chunk := chunk, res := res, place := place }] })

/-- The keyspace that a chunk record's header names (R145). -/
def keyspaceOf (record : Bytes) : BitVec 32 := BitVec.ofNat 32 (ofLe (sliceBytes record 4 4))

/-- Place a new record: in the open stripe, in the index, and on its way to both journal members (R150, R233). -/
def State.placeRecord (s : State) (w : Wy) (home g p : Nat) (rid : BitVec 64) (chunk : Nat) (fp record : Bytes) : State :=
  let (s1, id, off) := s.openStripe w g record.length
  let place := placeAt s.wall.settings.fragBytes id off record
  let wait : StripeWait :=
    { offset := off, acks := [], home := home, p := p, requestId := rid, chunk := chunk, place := place }
  let s2 := (s1.modStripe id (fun r => { r with
    recs := r.recs ++ [(off, record)]
    fill := off + record.length
    openedAt := if r.recs = [] then s.now else r.openedAt
    waits := r.waits ++ [wait] })).place w (.copy id off none)
  let s3 := s2.modImage g (fun i => { i with index := i.index ++ [{ fp := fp, place := place, pinned := false, count := 0 }] })
  let s4 := ((s3.addPend w g home p rid chunk fp).noteSeen g home p rid chunk .new place).modGroup g (fun r =>
    { r with owners := r.owners ++ [(fp, keyspaceOf record)] })
  let s5 := State.mirrorGroup s s4 g
  match s5.stripe id with
  | some r => r.journal.foldl (fun s b => s.copyTo w r b [(off, record)]) s5
  | none => s5

/-- CHUNK_PUT at a brick (R141, R150, R152, R254, R255, R270). DESIGN CHOICE (log 228): a brick that its own walk names lead, but with fewer
than two journal members, so that the group takes no new chunks (R219), answers NOT_LEAD. -/
def State.doChunkPut (s : State) (w : Wy) (h : MHead) (g p : Nat) (rid : BitVec 64) (chunk : Nat) (record : Bytes) : State :=
  let none_ : Place := { fragId := 0, offset := 0, length := 0, keyVersion := 0 }
  let ack := fun (s : State) (a : AckResult) (x : Place) => s.mortarOut w h.src h.srcW (.chunkAck g p a rid chunk x)
  let r := s.groupRec g
  let fp := sliceBytes record 32 32
  let waits := s.stripes.recs.flatMap (fun x => x.waits.map (fun y => (x.id, y)))
  let mine := fun y : StripeWait => y.home = h.src && y.p = p && y.requestId = rid && y.chunk = chunk
  if !s.leads g then ack s .notLead none_
  else if !r.held || r.recount then s
  else if waits.any (fun x => mine x.2) then s
  else match r.seen.find? (fun x => x.home = h.src && x.p = p && x.requestId = rid && x.chunk = chunk) with
    | some x => ack s x.res x.place
    | none =>
      match r.image.index.find? (fun e => e.fp = fp) with
      | some e =>
        let s1 := (s.addPend w g h.src p rid chunk fp).noteSeen g h.src p rid chunk .duplicate e.place
        match waits.find? (fun x => x.2.place = e.place) with
        | some x =>
          let y : StripeWait := { x.2 with acks := [], home := h.src, p := p, requestId := rid, chunk := chunk }
          s1.modStripe x.1 (fun r => { r with waits := r.waits ++ [y] })
        | none => ack (State.mirrorGroup s s1 g) .duplicate e.place
      | none => if s.groupFull g then ack (s.noteSeen g h.src p rid chunk .full none_) .full none_ else s.placeRecord w h.src g p rid chunk fp record

/-- While another brick copies the state of a group from its acting lead, what would change the group is queued (R254). -/
def State.orQueue (s : State) (g : Nat) (i : Instr) (handle : State → State) : State :=
  if s.leads g && (s.groupRec g).syncing ≠ [] then { s with syncQueue := s.syncQueue ++ [(g, i)] } else handle s

/-- CHUNK_PUT (R150). -/
def execChunkPut (w : Wy) (h : MHead) (group p : Nat) (requestId : BitVec 64) (chunk : Nat) (record : Bytes) (s : State) :
    Host.Outcome State Fault Refusal :=
  let i := Instr.chunkPut w h group p requestId chunk record
  .next (s.mortarIn w h i (fun s => s.orQueue group i (fun s => s.doChunkPut w h group p requestId chunk record)))

/-- A fingerprint joins the lost-chunk list; a full list drops its oldest entry (R250, R472). -/
def State.keepLost (s : State) (fp : Bytes) (stripe time : Nat) : State :=
  let l := s.health.lost
  if l.any (fun e => e.fp = fp) then s
  else { s with health := { s.health with lost := l.drop (l.length - 16383) ++ [{ fp := fp, stripe := stripe, time := time }] } }

/-- A range that is to be rebuilt (R161, R247): in the fragments of it that this brick holds; the lead has the holders of the others rebuild
theirs. -/
def State.rangeReport (s : State) (w : Wy) (stripe off len : Nat) : State :=
  let f := s.wall.settings.fragBytes
  let g := fragGroup stripe
  (segsOf f { fragId := stripe + off / f, offset := off % f, length := len, keyVersion := 0 }).foldl (fun s x =>
    let at_ := fragIndex x.1 * f + x.2.1
    if (s.frag x.1).isSome then s.selfRebuild stripe at_ x.2.2
    else match s.leads g, s.holderOf x.1 with
      | true, some b => if b = s.myId then s else s.mortarOut w b (wyOfGroup g) (.lostReport stripe at_ x.2.2 [] true)
      | _, _ => s) s

/-- LOST_REPORT (R161, R247, R250): a range to rebuild at its holder, or lost chunks, which leave the index: those of the fingerprints reported
and those that the index places over the range (log 241). -/
def State.doLostReport (s : State) (w : Wy) (stripe off len : Nat) (fps : List Bytes) (rangeOnly : Bool) : State :=
  let g := fragGroup stripe
  if rangeOnly then s.rangeReport w stripe off len
  else if s.leads g then
    let f := s.wall.settings.fragBytes
    let on := fun e : FpEntry => stripeOf e.place.fragId = stripe && decide (fragIndex e.place.fragId * f + e.place.offset < off + len)
      && decide (off < fragIndex e.place.fragId * f + e.place.offset + e.place.length)
    let all := (fps ++ ((s.groupRec g).image.index.filter on).map (fun e => e.fp)).eraseDups
    all.foldl (fun s f => s.keepLost f stripe (s.hybrid (wyOfGroup g)))
      (s.modImage g (fun i => { i with index := i.index.filter (fun e => !all.contains e.fp) }))
  else s

/-- LOST_REPORT. -/
def execLostReport (w : Wy) (h : MHead) (stripe offset length : Nat) (fps : List Bytes) (rangeOnly : Bool) (s : State) :
    Host.Outcome State Fault Refusal :=
  .next (s.mortarIn w h (.lostReport w h stripe offset length fps rangeOnly)
    (fun s => State.mirrorGroup s (s.doLostReport w stripe offset length fps rangeOnly) (fragGroup stripe)))

/-! ### Deltas at the lead (R257, R259, R261) -/

/-- What a delta entry did: not indexed, or a fingerprint found by PROBE. -/
structure DeltaDone where
  missing : Bool
  found   : Bool
  deriving DecidableEq, Repr

/-- Apply one delta entry (R257, R261). -/
def State.applyDelta (s : State) (w : Wy) (g home p : Nat) (e : DeltaEntry) : State × DeltaDone :=
  let i := (s.groupRec g).image
  match i.index.find? (fun x => x.fp = e.fp) with
  | none =>
    match e.kind with
    | .cancel => (s.lapse w g (samePend home p e.requestId e.chunk), ⟨false, false⟩)
    | .probe => (s, ⟨false, false⟩)
    | _ => (s, ⟨true, false⟩)
  | some x =>
    match e.kind with
    | .confirm =>
      if i.pend.any (fun y => samePend home p e.requestId e.chunk y && y.fp = e.fp) then
        ((s.modImage g (fun i => { i with pend := i.pend.filter (fun y => !samePend home p e.requestId e.chunk y) })).countUp w g x,
          ⟨false, false⟩)
      else (s, ⟨false, false⟩)
    | .add => (if x.place.fragId = e.fragId then s.countUp w g x else s, ⟨false, false⟩)
    | .sub =>
      if x.place.fragId ≠ e.fragId || x.pinned then (s, ⟨false, false⟩)
      else if x.count = 0 then (s.recordOpen (srcOf w) 2 (.mtr w) e.fp, ⟨false, false⟩)
      else
        ((s.modImage g (fun i => { i with
          index := updFirst (fun y => y.fp = e.fp) (fun y => { y with count := y.count - 1 }) i.index })).freeIfDead w g e.fp,
          ⟨false, false⟩)
    | .cancel => (s.lapse w g (samePend home p e.requestId e.chunk), ⟨false, false⟩)
    | .probe => (s.addPend w g home p e.requestId e.chunk e.fp, ⟨false, true⟩)

/-- Apply the entries of a batch in order. -/
def State.applyDeltas (s : State) (w : Wy) (g home p : Nat) : List DeltaEntry → State × List DeltaDone
  | [] => (s, [])
  | e :: rest =>
    let (s1, d) := s.applyDelta w g home p e
    let (s2, l) := s1.applyDeltas w g home p rest
    (s2, d :: l)

/-- The recount ends when every partition has ended: what no home references is freed (R255). -/
def State.endRecount (s : State) (w : Wy) (g : Nat) : State :=
  if (s.groupRec g).ended.length < 65536 then s
  else
    let s1 := s.modGroup g (fun r => { r with recount := false, ended := [] })
    ((s1.groupRec g).image.index.map (fun e => e.fp)).foldl (fun s fp => s.freeIfDead w g fp) s1

/-- REF_DELTA at a brick (R254, R255, R259). During a recount only its own batches are applied (log 26). -/
def State.doRefDelta (s : State) (w : Wy) (h : MHead) (p home g : Nat) (recount ended : Bool) (seq lwm : Nat)
    (entries : List DeltaEntry) : State :=
  let ack := fun (s : State) (a : RefRes) (l : List DeltaDone) =>
    s.mortarOut w h.src h.srcW (.refAck p g a seq (l.filter (fun d => d.missing)).length
      ((l.zipIdx.filter (fun d => d.1.found)).map (fun d => d.2)))
  let r := s.groupRec g
  let low := (tableGet? r.image.lwm p).getD 0
  if !s.leads g then ack s .notLead []
  else if !r.held || r.recount != recount then
    (if r.held && recount then ack s .applied [] else ack s .notReady [])
  else if r.image.log.contains (p, seq) || seq < low then
    ack s .applied (entries.map (fun e => ⟨false, e.kind = .probe && r.image.index.any (fun x => x.fp = e.fp)⟩))
  else
    let (s1, l) := s.applyDeltas w g home p entries
    let low2 := max low lwm
    let s2 := s1.modImage g (fun i => { i with
      lwm := tablePut i.lwm p low2
      log := (i.log ++ [(p, seq)]).filter (fun x => x.1 ≠ p || low2 ≤ x.2) })
    let s3 := if ended then
        (s2.modGroup g (fun r => { r with ended := if r.ended.contains p then r.ended else r.ended ++ [p] })).endRecount w g
      else s2
    ack (State.mirrorGroup s s3 g) .applied l

/-- REF_DELTA. -/
def execRefDelta (w : Wy) (h : MHead) (p home group : Nat) (recount ended : Bool) (seq lwm : Nat) (entries : List DeltaEntry)
    (s : State) : Host.Outcome State Fault Refusal :=
  let i := Instr.refDelta w h p home group recount ended seq lwm entries
  .next (s.mortarIn w h i (fun s => s.orQueue group i (fun s => s.doRefDelta w h p home group recount ended seq lwm entries)))

/-! ### Deltas at the home (R258, R260, R275) -/

/-- The PROBE bitmap of a batch, at the remote home that probed (R275): a found fingerprint has a place that REF_ACK does not
name (a free value, log 27); the others are asked of the source. -/
def State.probed (s : State) (w : Wy) (b : DeltaBatch) (found : List Nat) : State :=
  (b.entries.zipIdx.filter (fun e => e.1.kind = .probe)).foldl (fun s e =>
    match s.refs.staged.find? (fun x => x.p = b.p && stagedRid x = e.1.requestId && x.unprobed.contains e.1.chunk) with
    | none => s
    | some x =>
      let hit := found.contains e.2
      let pl : Place := { fragId := b.group * 2 ^ 48 + s.free % 2 ^ 48, offset := s.used.free % 2 ^ 32,
                          length := s.used.used.free % 2 ^ 32, keyVersion := s.used.used.used.free % 2 ^ 16 }
      let x2 := { x with
        unprobed := x.unprobed.erase e.1.chunk
        need := if hit then x.need else x.need ++ [e.1.chunk]
        places := if hit then x.places ++ [(e.1.chunk, pl)] else x.places }
      let s1 := s.used.used.used.used.modRefs (fun r => { r with staged := updFirst (fun y => y = x) (fun _ => x2) r.staged })
      if x2.unprobed ≠ [] then s1
      else
        let fps := (x2.need.map (fun n => x2.asked.getD n [])).eraseDups
        (s1.mortarOut w x2.src (wyOfPart x2.p) (.replNeed x2.p x2.sourceCast x2.offer fps)).stagedDone w x2) s

/-- REF_ACK at a home (R257-R260). -/
def State.doRefAck (s : State) (w : Wy) (h : MHead) (p : Nat) (a : RefRes) (seq : Nat) (found : List Nat) : State :=
  match s.refs.deltas.find? (fun b => b.p = p && b.seq = seq && b.sent) with
  | none => s
  | some b =>
    match a with
    | .applied =>
      let s1 := s.modRefs (fun r => { r with deltas := r.deltas.filter (fun x => ¬ (x.p = p ∧ x.seq = seq)) })
      (((s1.probed w b found).trySubs p).dropSubbed p)
    | .notLead =>
      if s.wall.epoch < h.epoch then s.fetchState w h.src
      else if s.leadOf b.group = some h.src then s else s.sendBatch b
    | .notReady => s

/-- REF_ACK. -/
def execRefAck (w : Wy) (h : MHead) (p group : Nat) (r : RefRes) (seq missing : Nat) (found : List Nat) (s : State) :
    Host.Outcome State Fault Refusal :=
  .next (s.mortarIn w h (.refAck w h p group r seq missing found) (fun s => s.doRefAck w h p r seq found))

/-- DELTA_BATCH_CLOSE: an open batch closes 10 ms after its first entry; a batch without its REF_ACK is sent again (R258). -/
def execDeltaBatchClose (p group : Nat) (s : State) : Host.Outcome State Fault Refusal :=
  .next ((s.refs.deltas.filter (fun b => b.p = p && b.group = group && (b.sent || s.since b.firstAt (ms 10)))).foldl
    (fun s b => s.sendBatch b) s)

/-! ### Pending references (R262) -/

/-- REF_QUERY at the current home: the answer is held while the named command is queued or running (R262). -/
def State.doRefQuery (s : State) (w : Wy) (h : MHead) (p g : Nat) (rid : BitVec 64) (chunk : Nat) : State :=
  if !s.isHome p || !(s.partSt p).any (fun x => x.opened) then s
  else
    (s.modRefs (fun r => { r with
      held := r.held ++ [{ src := h.src, srcW := h.srcW, w := w, p := p, group := g, requestId := rid, chunk := chunk }] })).answerQueries

/-- REF_QUERY. -/
def execRefQuery (w : Wy) (h : MHead) (p group : Nat) (requestId : BitVec 64) (chunk : Nat) (s : State) :
    Host.Outcome State Fault Refusal :=
  .next (s.mortarIn w h (.refQuery w h p group requestId chunk) (fun s => s.doRefQuery w h p group requestId chunk))

/-- REF_ANSWER: NO_CLAIM lets the pending reference lapse, CLAIM keeps it (R262). -/
def State.doRefAnswer (s : State) (w : Wy) (p g : Nat) (rid : BitVec 64) (chunk : Nat) (claim : Bool) : State :=
  if claim || !s.leads g || !(s.groupRec g).held then s
  else s.lapse w g (fun x => x.p = p && x.requestId = rid && x.chunk = chunk)

/-- REF_ANSWER. -/
def execRefAnswer (w : Wy) (h : MHead) (p group : Nat) (requestId : BitVec 64) (chunk : Nat) (claim : Bool) (s : State) :
    Host.Outcome State Fault Refusal :=
  .next (s.mortarIn w h (.refAnswer w h p group requestId chunk claim) (fun s =>
    State.mirrorGroup s (s.doRefAnswer w p group requestId chunk claim) group))

/-- PENDING_REF_AGE: a pending reference older than 60 s is asked about at the partition's current home, every 60 s (R262). -/
def execPendingRefAge (group p : Nat) (requestId : BitVec 64) (chunk : Nat) (s : State) : Host.Outcome State Fault Refusal :=
  let w := wyOfGroup group
  let r := s.groupRec group
  match r.image.pend.find? (fun x => x.p = p && x.requestId = requestId && x.chunk = chunk), s.partEntry p with
  | some x, some e =>
    let asked := r.queries.any (fun q => q.1 = x && !s.since q.2 (sec 60))
    if !s.leads group || !r.held || asked || s.hybrid w < x.created + 60000000 * 4096 then .next s
    else .next ((s.modGroup group (fun r => { r with queries := r.queries.filter (fun q => q.1 ≠ x) ++ [(x, s.now)] })).toPart
      w e.home p (.refQuery p group requestId chunk))
  | _, _ => .next s

/-! ### Copies of the state and recounts (R254, R255) -/

/-- INDEX_SYNC_REQ: the bytes of the state image asked for; the message that ends the image carries it whole, and until it is asked for the copy
runs (R254, R278). -/
def State.doIndexSyncReq (s : State) (w : Wy) (h : MHead) (g off len : Nat) : State :=
  let r := s.groupRec g
  if !r.held then s.mortarOut w h.src h.srcW (.indexSync g false off 0 none [])
  else
    let total := imageLen r.image
    let s1 := s.modGroup g (fun r => { r with
      syncing := r.syncing.filter (· ≠ h.src) ++ (if total ≤ off + len then [] else [h.src]) })
    s1.mortarOut w h.src h.srcW (.indexSync g true off total (if total ≤ off + len then some r.image else none)
      (sliceBytes (imageBytes r.image) off len))

/-- The bricks that may hold a group's state, this one apart (R254). -/
def State.stateHolders (s : State) (g : Nat) : List Nat :=
  match s.row g with
  | none => []
  | some r => ((r.pos.take (s.wall.settings.k + s.wall.settings.m)) ++ r.spill).eraseDups.filter (fun b => s.isMember b && b ≠ s.myId)

/-- Ask a brick for a range of a group's state. -/
def State.askSync (s : State) (w : Wy) (g b off : Nat) : State :=
  s.mortarOut w b (wyOfGroup g) (.indexSyncReq g off 1048576)

/-- End a thinning by THIN_COMMIT to every holder, which is sent until they have answered (R266, R267). -/
def State.endThin (s : State) (w : Wy) (g stripe gen : Nat) (commit : Bool) : State :=
  let hs := s.holdersOf stripe
  let s1 := (s.modImage g (fun i => { i with
      dead := updFirst (fun d => d.stripe = stripe) (fun d => { d with thinning := false }) i.dead })).modGroup g
    (fun r => { r with thins := r.thins.filter (fun t => t.stripe ≠ stripe)
      ++ [{ stripe := stripe, gen := gen, wait := hs.map (fun x => x.1), commit := some commit }] })
  (hs.map (fun x => x.2)).eraseDups.foldl (fun s b => s.mortarOut w b (wyOfGroup g) (.thinCommit stripe (gen + 1) commit)) s1

/-- Abort a thinning (R267). -/
def State.abortThin (s : State) (w : Wy) (g stripe gen : Nat) : State := s.endThin w g stripe gen false

/-- Send a THIN_COMMIT again to the holders that have not answered it (R267). -/
def State.resendThin (s : State) (w : Wy) (g : Nat) (t : ThinRec) : State :=
  match t.commit with
  | none => s
  | some c => (((s.holdersOf t.stripe).filter (fun x => t.wait.contains x.1)).map (fun x => x.2)).eraseDups.foldl (fun s b =>
      s.mortarOut w b (wyOfGroup g) (.thinCommit t.stripe (t.gen + 1) c)) s

/-- A brick that becomes acting lead takes its next sequence and aborts what it finds THINNING (R229, R267). -/
def State.becomeLead (s : State) (w : Wy) (g : Nat) : State :=
  let s1 := s.modGroup g (fun r => { r with leading := true, nextSeq := max r.nextSeq (s.seqAfter g) })
  ((s1.groupRec g).image.dead.filter (fun d => d.thinning)).foldl (fun s d => s.abortThin w g d.stripe (s.genOf d.stripe)) s1

/-- INDEX_SYNC: the image arrives, or the next holder is asked; a journal member takes what its acting lead mirrors (R254). -/
def State.doIndexSync (s : State) (w : Wy) (src g : Nat) (holder : Bool) (off : Nat) (img : Option GroupImage) : State :=
  if (s.groupRec g).held then
    match img with
    | some i => if s.leadOf g = some src && !s.leads g then s.modGroup g (fun r => { r with image := i }) else s
    | none => s
  else if !holder then
    let l := s.stateHolders g
    match (l.drop (l.idxOf src + 1)).head? with
    | some b => s.askSync w g b 0
    | none => s
  else match img with
    | none => s.askSync w g src (off + 1048576)
    | some i =>
      let s1 := s.modGroup g (fun r => { r with held := true, image := i })
      if s1.leads g then s1.becomeLead w g else s1

/-- INDEX_SYNC. -/
def execIndexSync (w : Wy) (h : MHead) (group : Nat) (holder : Bool) (offset total : Nat) (img : Option GroupImage) (s : State) :
    Host.Outcome State Fault Refusal :=
  .next (s.mortarIn w h (.indexSync w h group holder offset total img) (fun s => s.doIndexSync w h.src group holder offset img))

/-- The cookie of a recount's reads (R255). -/
def recountCookie : Nat := 5 * 2 ^ 56

/-- The chunk records of a stripe's data area, by their headers (R145), with the keyspace of each: `n` steps of 16 bytes or of a
record at most. -/
def recordsIn (f stripe : Nat) (area : Bytes) : Nat → Nat → List (FpEntry × BitVec 32)
  | 0, _ => []
  | n + 1, off =>
    if area.length < off + 64 then []
    else if ofLe (sliceBytes area off 4) = 0x47434B31 then
      let len := ofLe (sliceBytes area (off + 8) 4) + 80
      ({ fp := sliceBytes area (off + 32) 32, place := placeAt f stripe off (sliceBytes area off len), pinned := false, count := 0 },
        keyspaceOf (sliceBytes area off 64)) :: recordsIn f stripe area n (roundUp (off + len) 16)
    else recordsIn f stripe area n (off + 16)

/-- Every fragment that a recount reads has arrived: the index is built from the record headers (R255). -/
def State.recountRead (s : State) (g : Nat) : State :=
  let r := s.groupRec g
  if r.parts.any (fun x => x.2 = []) || r.held then s
  else
    let f := s.wall.settings.fragBytes
    let stripes := (r.parts.map (fun x => stripeOf x.1)).eraseDups
    let area := fun st => (List.range s.wall.settings.k).flatMap (fun i =>
      padTo f (((r.parts.find? (fun x => x.1 = st + i)).map (fun x => x.2)).getD []))
    let idx := stripes.flatMap (fun st => recordsIn f st (area st) (area st).length 0)
    s.modGroup g (fun r => { r with held := true, parts := [], image := { emptyImage with index := idx.map (fun x => x.1) }, owners := idx.map (fun x => (x.1.fp, x.2)) })

/-- A fragment that a recount read (R255); one that cannot be read gives no record. -/
def State.recountData (s : State) (f : Nat) (st : RStatus) (bytes : Bytes) : State :=
  let g := fragGroup f
  let b := if st = .ok && bytes ≠ [] then bytes else [0]
  (s.modGroup g (fun r => { r with parts := r.parts.map (fun x => if x.1 = f then (f, b) else x) })).recountRead g

/-- The acting lead's part of a recount: it reads the data fragments of the group's stripes (R255). -/
def State.recountLead (s : State) (w : Wy) (g : Nat) : State :=
  let ws := s.wall.settings
  let stripes := ((s.stripes.frags.filter (fun x => fragGroup x.fragId = g)).map (fun x => stripeOf x.fragId)).eraseDups
  let want := stripes.flatMap (fun st => (s.holdersOf st).filter (fun x => fragIndex x.1 < ws.k
    && 0 < storedLen ws.k ws.fragBytes (s.fillOf st) (fragIndex x.1)))
  let s1 := s.modGroup g (fun r => { r with
    held := false, leading := true, recount := true, ended := [], image := emptyImage, thins := [], parts := want.map (fun x => (x.1, [])) })
  (want.foldl (fun s x => s.mortarOut w x.2 (wyOfGroup g)
    (.rangeRead x.1 0 (storedLen ws.k ws.fragBytes (s.fillOf (stripeOf x.1)) (fragIndex x.1)) false .verify recountCookie)) s1).recountRead g

/-- A home's part of a recount (R255): for each of its partitions an ADD for every recipe entry of every retained version, then
RECOUNT_END. -/
def State.recountHome (s : State) (g : Nat) : State :=
  (s.store.parts.filter (fun x => x.opened && !x.fenced)).foldl (fun s x =>
    let ents := (s.store.index.filter (fun h => partOf h.keyspace h.key = x.p)).flatMap (fun h =>
      h.versions.flatMap (fun v => v.chunks.filter (fun e => groupOf s.wall.settings.groups e.fp = g)))
    let s1 := ents.foldl (fun s e =>
      s.addDeltaTo x.p g true { fp := e.fp, kind := .add, chunk := 0, requestId := 0, fragId := e.place.fragId }) s
    let s2 := (s1.refs.deltas.filter (fun b => b.p = x.p && b.group = g && b.recount && !b.sent)).foldl (fun s b => s.sendBatch b) s1
    let seq := (tableGet? s2.refs.deltaSeq x.p).getD 0
    let last : DeltaBatch :=
      { p := x.p, group := g, seq := seq, firstAt := s.now, sent := false, recount := true, ended := true, entries := [] }
    (s2.modRefs (fun r => { r with deltas := r.deltas ++ [last], deltaSeq := tablePut r.deltaSeq x.p (seq + 1) })).sendBatch last) s

/-- RECOUNT: the armature has ordered a recount of a group (R255). -/
def execRecount (group : Nat) (s : State) : Host.Outcome State Fault Refusal :=
  let s1 := if s.leads group then s.recountLead (wyOfGroup group) group else s
  .next (s1.recountHome group)

/-! ### Thinning at the holders (R266, R267) -/

/-- Answer THIN_ACK to the acting lead. -/
def State.thinAck (s : State) (w : Wy) (to_ : Nat × Wy) (f gen : Nat) (r : ThinRes) : State :=
  s.mortarOut w to_.1 to_.2 (.thinAck f gen r)

/-- Bytes with some 4 KiB units replaced. -/
def withUnits (b : Bytes) (units : List (Nat × Bytes)) (f : Bytes → Bytes → Bytes) : Bytes :=
  units.foldl (fun b u => overlay b (u.1 * 4096) (f (padTo 4096 (sliceBytes b (u.1 * 4096) 4096)) u.2)) b

/-- A generation that thinning has written is durable: THIN_ACK READY (R266 step 4). -/
def State.thinsDone (s : State) : State :=
  s.stripes.frags.foldl (fun s x =>
    let w := wyOfGroup (fragGroup x.fragId)
    match x.newGen, x.thinTo with
    | some (g, b, holes), some to_ =>
      if s.genMapped x.fragId g b.length holes then
        (s.modFrag x.fragId (fun y => { y with thinTo := none })).thinAck w to_ x.fragId g .ready
      else s
    | _, _ => s) s

/-- Write generation g + 1 of a fragment beside generation g; it may use the delete reserve (R266, R269). -/
def State.writeThin (s : State) (w : Wy) (x : FragRec) (gen : Nat) (bytes : Bytes) (holes : List Nat) (to_ : Nat × Wy) : State :=
  let s1 := s.modFrag x.fragId (fun y => { y with newGen := some (gen, bytes, holes), thinTo := some to_, thinWait := none })
  ((s1.mapHoles w.num 1 x.fragId gen holes).writeFrag w.num x.fragId gen bytes.length 1 holes).thinsDone

/-- A data holder's part: the bytes of its dead units to every parity holder, then generation g + 1 with holes (R266 step 2). -/
def State.thinDataHolder (s : State) (w : Wy) (x : FragRec) (gen : Nat) (units : List Nat) (to_ : Nat × Wy) : State :=
  let ws := s.wall.settings
  let st := stripeOf x.fragId
  let mine := units.map (fun u => (u, padTo 4096 (sliceBytes x.bytes (u * 4096) 4096)))
  let parity := ((s.holdersOf st).filter (fun p => ws.k ≤ fragIndex p.1)).map (fun p => p.2)
  let s1 := if units = [] then s else
    parity.eraseDups.foldl (fun s b => s.mortarOut w b (wyOfGroup (fragGroup st)) (.thinData x.fragId gen mine)) s
  s1.writeThin w x gen (withUnits x.bytes mine (fun _ b => zeroBytes b.length)) units to_

/-- A parity holder has THIN_DATA of every data position that has dead units: generation g + 1 is written (R266 step 3). -/
def State.thinParity (s : State) (w : Wy) (f : Nat) (to_ : Nat × Wy) : State :=
  match s.frag f with
  | none => s
  | some x =>
    match x.thinWait, x.newGen with
    | some l, some (g, b, _) => if l.all (fun i => x.thinGot.contains i) then s.writeThin w x g b [] to_ else s
    | _, _ => s

/-- STRIPE_THIN at a holder (R266). A fragment not held at the old generation, or without room, is answered ABORTED. -/
def State.doStripeThin (s : State) (w : Wy) (h : MHead) (stripe old new : Nat) (marks : List (Nat × List Nat)) : State :=
  let ws := s.wall.settings
  let to_ := (h.src, h.srcW)
  let mine := s.stripes.frags.filter (fun x => stripeOf x.fragId = stripe)
  if mine = [] then s.thinAck w to_ stripe new .aborted
  else mine.foldl (fun s x =>
    let i := fragIndex x.fragId
    if x.gen = new then s.thinAck w to_ x.fragId new .ready
    else if x.gen ≠ old || !x.durable || s.freeCapacity + s.deleteReserve < x.bytes.length then s.thinAck w to_ x.fragId new .aborted
    else if x.thinTo.isSome then s
    else if i < ws.k then
      match x.newGen with
      | some _ => s.thinAck w to_ x.fragId new .ready
      | none => s.thinDataHolder w x new (((marks.find? (fun m => m.1 = i)).map (fun m => m.2)).getD []) to_
    else
      let keep := match x.newGen with
        | some (g, b, l) => if g = new then some (g, b, l) else some (new, x.bytes, [])
        | none => some (new, x.bytes, [])
      (s.modFrag x.fragId (fun y => { y with newGen := keep, thinWait := some (marks.map (fun m => m.1)) })).thinParity w x.fragId to_) s

/-- STRIPE_THIN. -/
def execStripeThin (w : Wy) (h : MHead) (stripe old new lead : Nat) (dead : List (Nat × List Nat)) (s : State) :
    Host.Outcome State Fault Refusal :=
  .next (s.mortarIn w h (.stripeThin w h stripe old new lead dead) (fun s => s.doStripeThin w h stripe old new dead))

/-- THIN_DATA at the parity holders: P′ = P ⊕ g · D over the dead units (R230, R266 step 3). -/
def State.doThinData (s : State) (w : Wy) (f gen : Nat) (units : List (Nat × Bytes)) : State :=
  let ws := s.wall.settings
  let i := fragIndex f
  (s.stripes.frags.filter (fun x => stripeOf x.fragId = stripeOf f && ws.k ≤ fragIndex x.fragId && x.gen < gen
      && !x.thinGot.contains i)).foldl (fun s x =>
    let c := coefOf ws (fragIndex x.fragId - ws.k) i
    let base := match x.newGen with | some (g, b, _) => if g = gen then b else x.bytes | none => x.bytes
    let add := fun (p d : Bytes) => List.zipWith (fun a b => a ^^^ BitVec.ofNat 8 (gfMul c b.toNat)) p (padTo p.length d)
    let lead := (s.leadOf (fragGroup f)).getD s.myId
    (s.modFrag x.fragId (fun y => { y with
      newGen := some (gen, withUnits base units add, [])
      thinGot := y.thinGot ++ [i] })).thinParity w x.fragId (lead, wyOfGroup (fragGroup f))) s

/-- THIN_DATA. -/
def execThinData (w : Wy) (h : MHead) (fragId gen : Nat) (units : List (Nat × Bytes)) (s : State) :
    Host.Outcome State Fault Refusal :=
  .next (s.mortarIn w h (.thinData w h fragId gen units) (fun s => s.doThinData w fragId gen units))

/-- THIN_COMMIT at a holder: COMMIT serves generation g + 1 and frees g, ABORT discards g + 1 (R266, R267). -/
def State.doThinCommit (s : State) (w : Wy) (h : MHead) (stripe gen : Nat) (commit : Bool) : State :=
  let to_ := (h.src, h.srcW)
  (s.stripes.frags.filter (fun x => stripeOf x.fragId = stripe)).foldl (fun s x =>
    let clear := fun y : FragRec => { y with newGen := none, thinWait := none, thinGot := [], thinTo := none }
    match x.newGen with
    | some (g, b, holes) =>
      if g ≠ gen then s
      else if commit then
        ((s.dropGen x.fragId x.gen).modFrag x.fragId (fun y => { clear y with gen := g, bytes := b, holes := holes })).thinAck
          w to_ x.fragId gen .committed
      else ((s.dropGen x.fragId g).modFrag x.fragId clear).thinAck w to_ x.fragId gen .aborted
    | none =>
      if commit then (if x.gen = gen then s.thinAck w to_ x.fragId gen .committed else s)
      else if x.gen < gen then s.thinAck w to_ x.fragId gen .aborted else s) s

/-- THIN_COMMIT. -/
def execThinCommit (w : Wy) (h : MHead) (stripe gen : Nat) (commit : Bool) (s : State) : Host.Outcome State Fault Refusal :=
  .next (s.mortarIn w h (.thinCommit w h stripe gen commit) (fun s => s.doThinCommit w h stripe gen commit))

/-- THIN_ACK at the acting lead: all READY commits, ABORTED aborts, and the answers of all to THIN_COMMIT end the thinning (R266, R267). -/
def State.doThinAck (s : State) (w : Wy) (f gen : Nat) (a : ThinRes) : State :=
  let st := stripeOf f
  let g := fragGroup f
  match (s.groupRec g).thins.find? (fun t => t.stripe = st && t.gen + 1 = gen) with
  | none => s
  | some t =>
    let left := t.wait.erase f
    let put := s.modGroup g (fun r => { r with thins := updFirst (fun x => x = t) (fun x => { x with wait := left }) r.thins })
    let answered := if left ≠ [] then put else s.modGroup g (fun r => { r with thins := r.thins.filter (fun x => x ≠ t) })
    match t.commit, a with
    | none, .aborted => s.abortThin w g st t.gen
    | none, .ready => if left ≠ [] then put else s.endThin w g st t.gen true
    | some true, .committed => answered
    | some false, .aborted => answered
    | _, _ => s

/-- THIN_ACK. -/
def execThinAck (w : Wy) (h : MHead) (fragId gen : Nat) (r : ThinRes) (s : State) : Host.Outcome State Fault Refusal :=
  .next (s.mortarIn w h (.thinAck w h fragId gen r) (fun s => State.mirrorGroup s (s.doThinAck w fragId gen r) (fragGroup fragId)))

/-! ### A new epoch (R229, R254, R258, R267) -/

/-- A group under a new walk: a brick that becomes one of its three copies the state first (R254); a thinning whose holders change
is aborted, and a THIN_COMMIT not answered is sent again (R267). -/
def State.groupOnEpoch (s : State) (g : Nat) : State :=
  let w := wyOfGroup g
  let r := s.groupRec g
  match s.walkFor g [] with
  | none => s
  | some x =>
    let lead := s.leads g
    if !lead && !x.journal.contains s.myId then
      (if s.refs.groups.any (fun y => y.group = g) then s.modGroup g (fun r => { r with held := false, leading := false }) else s)
    else if !r.held then
      match (s.stateHolders g).head? with
      | some b => s.askSync w g b 0
      | none => s
    else if lead && !r.leading then s.becomeLead w g
    else if lead then
      r.thins.foldl (fun s t =>
        if t.commit.isSome then s.resendThin w g t
        else if (s.holdersOf t.stripe).any (fun y => !s.isMember y.2) then s.abortThin w g t.stripe t.gen else s) s
    else if r.leading then s.modGroup g (fun r => { r with leading := false }) else s

/-- What an epoch change does to the reference state of this brick: roles anew, and unacknowledged batches again to the acting leads
(R254, R258). Copies begin anew, and homes send again what was queued for them (R152, R258). -/
def State.refsOnEpoch (s : State) : State :=
  let s0 := { s with syncQueue := [] }.modRefs (fun r => { r with groups := r.groups.map (fun g : GroupRec => { g with syncing := [] }) })
  let s1 := s.wall.bond.rows.foldl (fun s r => s.groupOnEpoch r.1) s0
  (s1.refs.deltas.filter (fun b => b.sent)).foldl (fun s b => s.sendBatch b) s1

end Sys2Proof.Machine
end

