-- ==== Sys2Proof/Machine/Armature.lean ====
section
/-! DEFINITION. The wall and its armature (07): membership, the replicated log, votes, heartbeats and leases, suspicion and loss,
joining and forming, the bond table and the partition map, and the cast registry (R123, R124). -/

namespace Sys2Proof.Machine

/-! ### Names -/

/-- Change the armature state. -/
def State.modArm (s : State) (f : Armature → Armature) : State := s.modWall (fun x => { x with arm := f x.arm })

/-- The record of a brick of the membership. -/
def State.brick (s : State) (id : Nat) : Option BrickRec := s.wall.bricks.find? (fun b => b.id = id)

/-- Change the record of a brick of the membership. -/
def State.modBrick (s : State) (id : Nat) (f : BrickRec → BrickRec) : State :=
  s.modWall (fun x => { x with bricks := updFirst (fun b => b.id = id) f x.bricks })

/-- A brick just entered in the membership. -/
def State.newBrick (s : State) (id : Nat) (st : BState) (enclosure rack : Nat) (serial : Bytes) : BrickRec :=
  { id := id, st := st, enclosure := enclosure, rack := rack, serial := serial, ivDomain := 0, compat := s.wall.compat,
    grantedAt := s.now, suspectAt := s.now, removal := none, lastHb := s.now, closed0 := 0, closed1 := 0, ready := false,
    full := false, replace := false, removeReady := false, stopping := false, freeGiB := 0, usableGiB := 0, cover := 0, inSync := true,
    partial_ := none, passes := [] }

/-- The ids of the MEMBER bricks. -/
def State.members (s : State) : List Nat := (s.wall.bricks.filter (fun b => b.st = .member)).map (fun b => b.id)

/-- The enclosure of a brick. -/
def State.enclosureOf (s : State) (id : Nat) : Nat := ((s.brick id).map (fun b => b.enclosure)).getD 0

/-- The rack of a brick. -/
def State.rackOf (s : State) (id : Nat) : Nat := ((s.brick id).map (fun b => b.rack)).getD 0

/-- The enclosures with MEMBER bricks. -/
def State.enclosures (s : State) : List Nat := (s.members.map s.enclosureOf).eraseDups

/-- The racks with MEMBER bricks. -/
def State.racks (s : State) : List Nat := (s.members.map s.rackOf).eraseDups

/-- A majority (R196). -/
def quorum (n : Nat) : Nat := n / 2 + 1

/-- One of a list, where the rules leave the choice open (log 28). -/
def pick (l : List Nat) (seed : Nat) : Option Nat := l[Config.armPick seed % l.length]?

/-- The entries of a list with the least load. -/
def leastOf (load : Nat → Nat) (l : List Nat) : List Nat := l.filter (fun x => l.all (fun y => load x ≤ load y))

/-! ### Partition replica sets (R220, R221) -/

/-- How many partitions a brick is home to. -/
def homesOf (t : List (Nat × PartEntry)) (b : Nat) : Nat := (t.filter (fun e => e.2.home = b)).length

/-- How many standby places a brick holds. -/
def placesOf (t : List (Nat × PartEntry)) (b : Nat) : Nat := (t.filter (fun e => e.2.standby1 = b || e.2.standby2 = b)).length

/-- Bricks in enclosures that a list does not use, where there are three or more enclosures and such bricks exist (R220). -/
def State.apart (s : State) (cand others : List Nat) : List Nat :=
  let far := cand.filter (fun b => !(others.map s.enclosureOf).contains (s.enclosureOf b))
  if far ≠ [] && 3 ≤ s.enclosures.length then far else cand

/-- A standby for a partition besides the bricks given: a MEMBER in an enclosure of its own, with the fewest places (R220). -/
def State.newStandby (s : State) (t : List (Nat × PartEntry)) (others : List Nat) (seed : Nat) : Option Nat :=
  pick (leastOf (placesOf t) (s.apart (s.members.filter (fun b => !others.contains b)) others)) seed

/-- The first partition map (R191, R220), `n` partitions of it. -/
def State.firstParts (s : State) : Nat → List (Nat × PartEntry)
  | 0 => []
  | n + 1 =>
    let t := s.firstParts n
    let home := (pick (leastOf (homesOf t) s.members) (4 * n)).getD 0
    let s1 := (s.newStandby t [home] (4 * n + 1)).getD home
    let s2 := (s.newStandby t [home, s1] (4 * n + 2)).getD s1
    t ++ [(n, { home := home, standby1 := s1, standby2 := s2, moving := false, epoch := 1 })]

/-- The entry of a partition without a brick that has become SUSPECT, LEAVING or LOST (R221): a home that is gone is followed by
its first standby, a standby by the other and a new second standby. A LEAVING home moves by a planned move (R205). -/
def State.without (s : State) (t : List (Nat × PartEntry)) (id : Nat) (leaving : Bool) (seed : Nat) (e : PartEntry) : PartEntry :=
  let new := fun a b => (s.newStandby t [a, b] seed).getD id
  if e.home = id && !leaving then
    { e with home := e.standby1, standby1 := e.standby2, standby2 := new e.standby1 e.standby2, moving := false, epoch := e.epoch + 1 }
  else if e.standby1 = id then { e with standby1 := e.standby2, standby2 := new e.home e.standby2, epoch := e.epoch + 1 }
  else if e.standby2 = id then { e with standby2 := new e.home e.standby1, epoch := e.epoch + 1 }
  else e

/-! ### Bond tables (R215-R218) -/

/-- A whole number at or above a quotient. -/
def ceilDiv (a b : Nat) : Nat := (a + b - 1) / max 1 b

/-- The kinds of position whose counts R216 balances: lead, journal, other and spill. -/
def posKind (ws : WallSettings) (i : Nat) : Nat :=
  if i = 0 then 0 else if i = ws.k || i = ws.k + 1 then 1 else if i < ws.k + ws.m then 2 else 3

/-- The bricks of a row, spill columns last. -/
def rowList (r : BondRow) : List Nat := r.pos ++ r.spill

/-- How often a brick holds a kind of position. -/
def kindCount (ws : WallSettings) (rows : List (Nat × BondRow)) (kind b : Nat) : Nat :=
  rows.foldl (fun a r => a + ((rowList r.2).zipIdx.filter (fun x => x.1 = b && posKind ws x.2 = kind)).length) 0

/-- A brick may stand at a position of a row: not in the row yet, and within the caps of its enclosure and rack for positions
0 to k + m - 1 (R216). -/
def State.fitsRow (s : State) (row : List Nat) (i b : Nat) : Bool :=
  let ws := s.wall.settings
  let n := ws.k + ws.m
  let others := (row.zipIdx.filter (fun x => x.2 ≠ i && x.2 < n)).map (fun x => x.1)
  !((row.zipIdx.filter (fun x => x.2 ≠ i)).map (fun x => x.1)).contains b
    && (n ≤ i || (decide ((others.filter (fun x => s.enclosureOf x = s.enclosureOf b)).length < ceilDiv n s.enclosures.length)
      && decide ((others.filter (fun x => s.rackOf x = s.rackOf b)).length < ceilDiv n s.racks.length)))

/-- The most rows that a brick shares with one of the bricks of a row, whose counts R216 keeps close to their mean. -/
def pairLoad (rows : List (Nat × BondRow)) (row : List Nat) (b : Nat) : Nat :=
  (row.map (fun x => (rows.filter (fun r => (rowList r.2).contains x && (rowList r.2).contains b)).length)).foldl max 0

/-- A brick for a position of a row: one that fits, with the fewest positions of that kind, and of those one that shares the fewest rows with
the row's other bricks (R216). -/
def State.forPos (s : State) (rows : List (Nat × BondRow)) (row : List Nat) (i seed : Nat) : Option Nat :=
  pick (leastOf (pairLoad rows row)
    (leastOf (kindCount s.wall.settings rows (posKind s.wall.settings i)) (s.members.filter (s.fitsRow row i)))) seed

/-- A new row, `n` positions of it (R216). -/
def State.growRow (s : State) (rows : List (Nat × BondRow)) (seed : Nat) : Nat → Option (List Nat)
  | 0 => some []
  | n + 1 => match s.growRow rows seed n with
    | none => none
    | some l => (s.forPos rows l n (seed + n)).map (fun b => l ++ [b])

/-- A row from its list of bricks. -/
def rowOf (ws : WallSettings) (l : List Nat) : BondRow := { pos := l.take (ws.k + ws.m), spill := l.drop (ws.k + ws.m) }

/-- The first bond table's rows (R191, R216), `n` of them. -/
def State.firstRows (s : State) : Nat → List (Nat × BondRow)
  | 0 => []
  | n + 1 =>
    let t := s.firstRows n
    let ws := s.wall.settings
    match s.growRow t (2 ^ 32 + 64 * n) (ws.k + ws.m + 2) with
    | some l => t ++ [(n, rowOf ws l)]
    | none => t

/-- A row without some bricks: each of their positions goes to another brick that fits; none where no brick does (R218). -/
def State.rowWithout (s : State) (rows : List (Nat × BondRow)) (gone : List Nat) (seed : Nat) (r : BondRow) : Option BondRow :=
  let l := rowList r
  let out := (l.zipIdx.filter (fun x => gone.contains x.1)).foldl (fun (acc : Option (List Nat)) x =>
    acc.bind (fun l => (s.forPos rows l x.2 (seed + x.2)).map (fun b => l.set x.2 b))) (some l)
  out.map (rowOf s.wall.settings)

/-- Bricks whose positions must go: LOST or gone, and LEAVING without return (R218). -/
def State.goneBricks (s : State) : List Nat :=
  let stays := fun b : BrickRec => b.st = .member || b.st = .suspect
    || (b.st = .leaving && (match b.removal with | some (.removeReturn _) => true | _ => false))
  let known := (s.wall.bricks.filter stays).map (fun b => b.id)
  ((s.wall.bond.rows.flatMap (fun r => rowList r.2)).eraseDups).filter (fun b => !known.contains b)

/-- The most rows that one version changes: 1/16 of them (R218). -/
def State.rowLimit (s : State) : Nat := s.wall.settings.groups / 16

/-- The next version's rows when bricks must be replaced (R218). -/
def State.replaceRows (s : State) : List (Nat × BondRow) :=
  let gone := s.goneBricks
  let rows := s.wall.bond.rows
  if gone = [] || s.members.length < s.wall.settings.k + s.wall.settings.m then []
  else ((rows.filter (fun r => (rowList r.2).any (fun b => gone.contains b))).take s.rowLimit).filterMap (fun r =>
    (s.rowWithout rows gone (2 ^ 40 + s.wall.bond.version * 2 ^ 24 + r.1 * 64) r.2).map (fun x => (r.1, x)))

/-- Rows that give a MEMBER with too few positions of a kind a position of a brick that has more (R216, R218). -/
def State.balanceRows (s : State) : List (Nat × BondRow) :=
  let ws := s.wall.settings
  let rows := s.wall.bond.rows
  let poor := fun kind b => decide (kindCount ws rows kind b + 1 <
    (s.members.foldl (fun a x => a + kindCount ws rows kind x) 0) / max 1 s.members.length)
  let move := fun (r : Nat × BondRow) =>
    let l := rowList r.2
    (l.zipIdx.findSome? (fun x =>
      (s.members.find? (fun b => poor (posKind ws x.2) b && s.fitsRow l x.2 b
        && kindCount ws rows (posKind ws x.2) b + 1 < kindCount ws rows (posKind ws x.2) x.1)).map (fun b =>
          (r.1, rowOf ws (l.set x.2 b)))))
  if s.members.length < ws.k + ws.m then [] else (rows.filterMap move).take s.rowLimit

/-! ### What a committed entry does to the replicated state (R197) -/

/-- The state byte of the map's brick table (R57). -/
def mapState : BState → Option Nat
  | .member => some 1
  | .suspect => some 2
  | .leaving => some 3
  | _ => none

/-- The map's bricks with a brick's state changed; ascending ids (R57). A brick newly listed stands with four ports per wythe and no address
until its heartbeat brings them (log 12). -/
def setMapBrick (l : List MapBrick) (id : Nat) (st : Option Nat) : List MapBrick :=
  match st with
  | none => l.filter (fun b => b.id ≠ id)
  | some n =>
    let old := l.find? (fun b => b.id = id)
    let new : MapBrick := match old with
      | some b => { b with state := n }
      | none => { id := id, state := n, ports := 4, cover := 0, addrs0 := [], addrs1 := [] }
    (l.filter (fun b => b.id < id)) ++ [new] ++ (l.filter (fun b => id < b.id))

/-- A change of the map: its version rises once the wall is open (R191, R197). -/
def State.modMap (s : State) (f : PartMap → PartMap) : State :=
  s.modStore (fun t => { t with
    map := { f t.map with version := if s.wall.opened then t.map.version + 1 else t.map.version } })

/-- A change of the membership: the epoch rises, and MAP_VERSION with it (R197, R201). -/
def State.newEpoch (s : State) (f : PartMap → PartMap) : State :=
  let e := s.wall.epoch + 1
  (s.modWall (fun x => { x with epoch := e })).modMap (fun m => { f m with epoch := e })

/-- The partitions after a brick's new state (R203, R205, R221). -/
def State.partsAfter (s : State) (id : Nat) (st : BState) (t : List (Nat × PartEntry)) : List (Nat × PartEntry) :=
  if st = .suspect || st = .leaving || st = .lost then
    t.map (fun e => (e.1, s.without t id (st = .leaving) (2 ^ 50 + s.store.map.version * 2 ^ 20 + e.1) e.2))
  else t

/-- A brick's new state (R201). -/
def State.setBrickState (s : State) (id : Nat) (st : BState) (enclosure rack : Nat) (serial : Bytes) : State :=
  let new := { s.newBrick id st enclosure rack serial with ready := false }
  let upd := fun b : BrickRec =>
    { b with
      st := st
      enclosure := enclosure
      rack := rack
      serial := serial
      lastHb := if st = .joining then s.now else b.lastHb
      removal := if st = .member then none else b.removal
      grantedAt := if st = .joining then s.now else b.grantedAt
      suspectAt := if st = .suspect || st = .leaving then s.now else b.suspectAt }
  let s1 := s.modWall (fun x => { x with bricks := upsert (fun b => b.id = id) upd new x.bricks })
  s1.newEpoch (fun m => { m with bricks := setMapBrick m.bricks id (mapState st), parts := s1.partsAfter id st m.parts })

/-- Enter or drop a cast of the registry (R123). -/
def State.modCasts (s : State) (f : List Cast → List Cast) : State :=
  (s.modStore (fun t => { t with casts := f t.casts })).modWall (fun x => { x with castVersion := x.castVersion + 1 })

/-- The expiry of a cast: its time plus the keyspace's cast lifetime, when that is not zero (R126). -/
def State.castEnd (s : State) (ks : BitVec 32) (t : Nat) : Option Nat :=
  match s.keyspace ks with
  | some k => if k.castLifeS = 0 then none else some (t + k.castLifeS * 1000000 * 4096)
  | none => none

/-- The opening of the wall: the first bond table and partition map, each at version 1 (R191, R216, R220). -/
def State.openWall (s : State) : State :=
  let ws := s.wall.settings
  let n := ws.k + ws.m
  let bond : BondTable :=
    { version := 1, epoch := s.wall.epoch, encCap := ceilDiv n s.enclosures.length, rackCap := ceilDiv n s.racks.length,
      rows := s.firstRows ws.groups }
  (s.modWall (fun x => { x with opened := true, bond := bond })).modStore (fun t => { t with
    map := { t.map with version := 1, epoch := s.wall.epoch, parts := s.firstParts 65536 } })

/-- A committed change (R197). -/
def State.applyChange (s : State) (c : ArmChange) : State :=
  match c with
  | .noop => s
  | .brick id st enclosure rack serial => s.setBrickState id st enclosure rack serial
  | .removed id =>
    (s.modWall (fun x => { x with bricks := x.bricks.filter (fun b => b.id ≠ id) })).newEpoch
      (fun m => { m with bricks := setMapBrick m.bricks id none })
  | .ivDomain id d =>
    (s.modBrick id (fun b => { b with ivDomain := d })).modWall (fun x => { x with
      domains := if x.domains.contains d then x.domains else x.domains ++ [d] })
  | .bondRows rows =>
    let n := s.wall.settings.k + s.wall.settings.m
    let next : BondTable :=
      { version := s.wall.bond.version + 1, epoch := s.wall.epoch, encCap := ceilDiv n s.enclosures.length,
        rackCap := ceilDiv n s.racks.length, rows := rows.foldl (fun t r => tablePut t r.1 r.2) s.wall.bond.rows }
    s.modWall (fun x => { x with bond := next })
  | .partition p home s1 s2 moving =>
    let upd := fun e : PartEntry =>
      { home := home, standby1 := s1, standby2 := s2, moving := moving,
        epoch := if e.home = home && e.standby1 = s1 && e.standby2 = s2 then e.epoch else e.epoch + 1 }
    s.modMap (fun m => { m with parts := m.parts.map (fun e => if e.1 = p then (p, upd e.2) else e) })
  | .cover id n => s.modMap (fun m => { m with bricks := updFirst (fun b => b.id = id) (fun b => { b with cover := n }) m.bricks })
  | .addresses id n l =>
    let upd := fun b : MapBrick => { b with ports := n, addrs0 := l.take 4, addrs1 := (l.drop 4).take 4 }
    s.modMap (fun m => { m with bricks := updFirst (fun b => b.id = id) upd m.bricks })
  | .castNew id ks t asker rid =>
    let new : Cast :=
      { id := id, keyspace := ks, time := t, ready := false, expiry := s.castEnd ks t, held := false, confirms := [],
        asker := asker, requestId := rid }
    (s.modCasts (fun l => l ++ [new])).modWall
      (fun x => { x with nextCast := max x.nextCast (id + 1) })
  | .castReady id => s.modCasts (fun l => updFirst (fun c => c.id = id) (fun c => { c with ready := true }) l)
  | .castGone id => s.modCasts (fun l => l.filter (fun c => c.id ≠ id))
  | .castApplied id ks t _ =>
    let new : Cast :=
      { id := id, keyspace := ks, time := t, ready := true, expiry := s.castEnd ks t, held := false, confirms := [], asker := 0,
        requestId := 0 }
    (s.modCasts (fun l => l ++ [new])).modWall (fun x => { x with nextCast := max x.nextCast (id + 1) })
  | .castOutcome ks rid st v r d =>
    (s.modStore (fun t => { t with
      armOutcomes := t.armOutcomes.filter (fun o => ¬ (o.keyspace = ks ∧ o.requestId = rid))
        ++ [{ keyspace := ks, requestId := rid, st := .done st v r d, since := s.now }] })).modWall (fun x => { x with
      castVersion := x.castVersion + 1
      asks := x.asks.filter (fun y => ¬ (y.keyspace = ks ∧ y.requestId = rid)) })
  | .settings ws => s.modWall (fun x => { x with settings := ws, settingsVer := x.settingsVer + 1 })
  | .policy k =>
    if (s.keyspace k.id).isNone && 16384 ≤ s.store.keyspaces.length then s
    else (s.modStore (fun t => { t with keyspaces := upsert (fun x => x.id = k.id) (fun _ => k) k t.keyspaces })).modWall (fun x =>
      { x with settingsVer := x.settingsVer + 1 })
  | .policyGone ks =>
    ((s.modStore (fun t => { t with keyspaces := t.keyspaces.filter (fun x => x.id ≠ ks) })).modCasts (fun l =>
      l.filter (fun c => c.keyspace ≠ ks))).modWall (fun x => { x with
        settingsVer := x.settingsVer + 1
        keys := x.keys.filter (fun k => k.keyspace ≠ ks) })
  | .armMembers ids =>
    (s.modArm (fun a => { a with
      members := ids
      role := if s.wall.brickId.any (fun b => ids.contains b) then (if a.role = .none then .follower else a.role) else .none })).modWall
        (fun x => { x with settingsVer := x.settingsVer + 1 })
  | .keyVersion ks v b => s.modWall (fun x => { x with
      settingsVer := x.settingsVer + 1
      keys := x.keys.filter (fun k => ¬ (k.keyspace = ks ∧ k.ver = v)) ++ [{ keyspace := ks, ver := v, wrapped := b }] })
  | .keyRetired ks v => s.modWall (fun x => { x with
      settingsVer := x.settingsVer + 1
      keys := x.keys.filter (fun k => ¬ (k.keyspace = ks ∧ k.ver = v)) })
  | .linkKey ks b => s.modWall (fun x => { x with settingsVer := x.settingsVer + 1, links := x.links.filter (fun l => l.1 ≠ ks) ++ [(ks, b)] })
  | .opened => s.openWall

/-! ### What follows a newer state (R124, R195, R213, R226, R454) -/

/-- Both wythes show an event of the MTR page (R226). -/
def State.mtrEvent (s : State) (n : Nat) : State := (s.event (.mtr .w0) n).event (.mtr .w1) n

/-- A bit of MTR_JOIN_CTRL is cleared when the join or the formation ends (R226). -/
def State.clearJoin (s : State) (bit : Nat) : State :=
  [Wy.w0, Wy.w1].foldl (fun s w =>
    (s.setReg (.mtr w) MTR_JOIN_CTRL (setBit (s.reg (.mtr w) MTR_JOIN_CTRL) bit false)).setAct (.mtr w) MTR_JOIN_CTRL
      (setBit (s.act (.mtr w) MTR_JOIN_CTRL) bit false)) s

/-- Announce a drain on every open queue of a wythe, DRAIN_AT a number of milliseconds later (R49, R98, R454, R503). -/
def State.announceDrain (s : State) (w : Wy) (activation : Bool) (after : Nat) : State :=
  let at_ := s.hybrid w + after * 1000 * 4096
  let s1 := s.modRelief w (fun r => { r with drain := some { at_ := at_, activation := activation, reached := false } })
  ((s1.wy w).relief.queues.filter (fun q => q.st = .opened)).foldl (fun s q =>
    s.handOut w q.idx (.drain q.epoch w.num (if activation then 1 else 2) at_)) s1

/-- The wall state that the membership gives this brick (R201, R226). -/
def State.myState (s : State) : WallSt :=
  let opened := decide (0 < s.store.map.version)
  match s.store.map.bricks.find? (fun b => s.wall.brickId = some b.id) with
  | some b =>
    if s.wall.st = .forming && !opened then .forming
    else if b.state = 1 then .member else if b.state = 2 then .suspect else .leaving
  | none => match s.wall.st with
    | .member | .suspect | .leaving => .lost
    | x => x

/-- The brick's own wall state changes (R204, R205, R226, R241, R244, R454). -/
def State.ownState (s : State) : State :=
  let old := s.wall.st
  let new := s.myState
  let openedNow := decide (0 < s.store.map.version) && !(s.wall.opened && old ≠ .forming)
  let s0 := s.modWall (fun x => { x with st := new, opened := x.opened || decide (0 < s.store.map.version) })
  let s1 := if new = .member && (old = .joining || old = .forming) then ((s0.clearJoin 0).clearJoin 1).mtrEvent MTR_EVT_JOIN_DONE
    else if openedNow then s0.mtrEvent MTR_EVT_JOIN_DONE else s0
  if (old = .suspect || old = .joining) && new = .member then s1.catchUpAll.stripesAfterStop
  else if old = .member && new = .leaving && !s1.wall.stopping then
    ([Wy.w0, .w1].filter (fun w => (s1.wy w).relief.drain.isNone)).foldl (fun s w => s.announceDrain w false 1000) s1
  else s1

/-- READY casts of a replicated keyspace make the staged versions at or below them visible: at the home, and in the records of its replica set
(R276). -/
def State.applyStaged (s : State) : State :=
  let second := fun ks => (s.keyspace ks).any (fun k => k.role = .secondary)
  let due := fun x : StagedRec => x.staged && x.record.any s.stagedDue && second x.keyspace
  let s1 := (s.refs.staged.filter due).foldl (fun s x =>
    let adds := (x.record.map (fun r => r.adds)).getD []
    let top := adds.foldl (fun a v => max a v.2.time) 0
    let s1 := adds.foldl (fun s v => s.modStore (fun t => { t with index := addVersion t.index x.keyspace v.1 v.2 })) s
    let s2 := adds.foldl (fun s v => s.gcKey x.p x.keyspace v.1) s1
    (s2.modClk (s.holder x.p) (fun c => { c with hlc := max c.hlc top })).modRefs (fun r =>
      { r with staged := r.staged.filter (fun y => y ≠ x) })) s
  s1.modStore (fun t => { t with replRecs := t.replRecs.map (fun x =>
    if x.content.staged.isSome && second x.content.keyspace && s.stagedDue x.content then { x with content := { x.content with staged := none } }
    else x) })

/-- The wall key in plaintext, as the Plinth unwraps it (R178). -/
def State.wallKey (s : State) : Option Bytes := s.keys.bind wallKeyOf

/-- The link keys that the wall's state carries, wrapped under the wall key, are opened; a link that a policy no longer names ends, and what
was staged over it is discarded with its references (R179, R273, R277, log 211). -/
def State.syncLinks (s : State) : State :=
  let on := fun ks => (s.keyspace ks).any (fun k => k.role ≠ .none)
  let opened := match s.wallKey with
    | some wk => s.wall.links.filterMap (fun l : BitVec 32 × Bytes => (keyUnwrap wk l.2).map (fun k => (l.1, k)))
    | none => []
  let second := fun ks => (s.keyspace ks).any (fun k => k.role = .secondary)
  let s1 := (s.refs.staged.filter (fun x => !second x.keyspace)).foldl (fun s x =>
    let es := ((x.record.map (fun r => r.adds)).getD []).flatMap (fun a => a.2.chunks)
    s.addDeltas x.p (if x.staged then es.map (fun e => { fp := e.fp, kind := .sub, chunk := 0, requestId := 0, fragId := e.place.fragId })
      else x.asked.zipIdx.map (fun e => { fp := e.1, kind := .cancel, chunk := e.2, requestId := stagedRid x, fragId := 0 }))) s
  let s2 := s1.modStore (fun t => { t with replRecs := t.replRecs.filter (fun x => x.content.staged.isNone || second x.content.keyspace) })
  s2.modRefs (fun r => { r with
    links := r.links.filter (fun l => on l.keyspace)
    ships := r.ships.filter (fun x => on x.keyspace)
    staged := r.staged.filter (fun x => second x.keyspace)
    linkKeys := opened.filter (fun k => on k.1) })

/-- A running wythe installs the key versions of the wall's keyspaces that it lacks, and marks RETIRED the DECRYPT_ONLY ones that the
armature has retired since the state `old` (R180, R181). -/
def State.syncKeys (old s : State) (w : Wy) : State :=
  if !s.running w then s
  else
    let gone := old.wall.keys.filter (fun k => (s.keyspace k.keyspace).isSome
      && !s.wall.keys.any (fun x => x.keyspace = k.keyspace && x.ver = k.ver))
    gone.foldl (fun s k => s.retireKey w k.keyspace k.ver)
      (s.wall.keys.foldl (fun s k => s.installKey w k.keyspace k.ver k.wrapped) s)

/-- Every retained key version is installed in every running wythe (R180, R195). -/
def State.keysInstalled (s : State) : Bool :=
  wythes.all (fun w => !s.running w || s.wall.keys.all (fun k => (slotOf (s.wy w).cip k.keyspace k.ver).isSome))

/-- The address of a wythe's first port that is up, as the map gives it (R57). -/
def portAddr (b : MapBrick) (w : Wy) : Option (BitVec 128) := (match w with | .w0 => b.addrs0 | .w1 => b.addrs1).find? (fun a => a ≠ 0)

/-- Note the addresses of the armature members, which a rejoin uses (R192). -/
def State.noteArmature (s : State) : State :=
  let l := s.store.map.bricks.filterMap (fun b =>
    if s.wall.arm.members.contains b.id then (portAddr b .w0 <|> portAddr b .w1).map (fun a => (b.id, a)) else none)
  s.modWall (fun x => { x with armAddrs := l.foldl (fun t e => tablePut t e.1 e.2) (x.armAddrs.filter (fun e => x.arm.members.contains e.1)) })

/-- The bricks that home a partition. -/
def State.homeBricks (s : State) : List Nat := (s.store.map.parts.map (fun e => e.2.home)).eraseDups

/-- The leader announces the PENDING casts to every home that has not confirmed them: a partition may have changed its home, or the armature
its leader, since (R124 step 4). -/
def State.announceCasts (s : State) : State :=
  (s.store.casts.filter (fun c => !c.ready)).foldl (fun s c =>
    (s.homeBricks.filter (fun b => !c.confirms.contains b)).foldl (fun s b => s.mortarOut .w0 b .w0 (.castAnnounce c.id c.keyspace c.time))
      s) s

/-- In INTERNAL mode wythe 0 of the armature leader is the PTP master; a wythe that stops being it holds over until it follows another
(R223, R225). -/
def State.ptpRoles (s : State) : State :=
  let lead := s.wall.settings.ptpInternal && s.wall.arm.role = .leader
  if lead then s.modMortar .w0 (fun m => { m with ptpRole := .master, lostAt := none })
  else s.modMortar .w0 (fun m => if m.ptpRole = .master then { m with ptpRole := .holdover, lostAt := some s.now } else m)

/-- A new epoch is shown. -/
def State.epochStep (s : State) (new : Bool) : State := if new then s.mtrEvent MTR_EVT_EPOCH_CHANGED else s

/-- A newer map, or a new epoch: the leader announces the PENDING casts to the homes, and the brick acts on its places in the map. -/
def State.mapStep (s : State) (maps first : Bool) : State :=
  if !maps then s
  else if s.wall.arm.role = .leader then (s.announceCasts.ownState).onMap first
  else s.ownState.onMap first

/-- A newer map or bond, or a new epoch: stripes, rebuilds and references follow. -/
def State.stripeStep (s : State) (new : Bool) : State :=
  if new then ((s.stripesOnEpoch.sortRebuild).spillRebuilds).refsOnEpoch else s

/-- A newer bond: fragments whose targets it changed are caught up. -/
def State.bondStep (s : State) (new : Bool) : State := if new then s.catchUpAll else s

/-- Casts and keyspaces that are gone: their holds end and their versions are collected. -/
def State.castStep (old s : State) : State :=
  let gone := old.store.casts.filter (fun c => !s.store.casts.any (fun d => d.id = c.id))
  let ready := s.store.casts.filter (fun c => c.ready)
  let dropped := (old.store.keyspaces.map (fun k => k.id)).filter (fun ks => (s.keyspace ks).isNone)
  ((gone.map (fun c => c.keyspace) ++ dropped).eraseDups).foldl (fun s ks => s.gcKeyspace ks) (s.modStore (fun t => { t with
    holds := t.holds.filter (fun x => !gone.any (fun c => c.id = x.1) && !ready.any (fun c => c.id = x.1)) }))

/-- What a brick does when the wall's state it holds has become newer. -/
def State.afterState (old s : State) : State :=
  let epochs := decide (old.wall.epoch ≠ s.wall.epoch)
  let maps := epochs || decide (old.store.map.version ≠ s.store.map.version)
  let bonds := decide (old.wall.bond.version ≠ s.wall.bond.version)
  let s1 := (State.syncKeys old (State.syncKeys old (s.epochStep epochs) .w0) .w1).syncLinks.noteArmature
  let s2 := ((s1.mapStep maps (old.store.map.version = 0)).stripeStep (maps || bonds)).bondStep bonds
  (State.castStep old s2).applyStaged.ptpRoles

/-! ### The replicated log (R197-R200) -/

/-- The last index of the log. -/
def lastIndex (a : Armature) : Nat := ((a.log.getLast?).map (fun e => e.index)).getD 0

/-- The term of the last entry of the log. -/
def lastTerm (a : Armature) : Nat := ((a.log.getLast?).map (fun e => e.term)).getD 0

/-- The term of an entry; 0 before the first. -/
def termAt (a : Armature) (i : Nat) : Nat := ((a.log.find? (fun e => e.index = i)).map (fun e => e.term)).getD 0

/-- The changes that the leader has appended and no quorum holds yet. -/
def State.uncommitted (s : State) : List ArmChange :=
  (s.wall.arm.log.filter (fun e => s.wall.arm.commit < e.index)).map (fun e => e.change)

/-- The leader appends an entry (R197); a change that waits for its commit is not appended twice. -/
def State.propose (s : State) (c : ArmChange) : State :=
  if s.wall.arm.role ≠ .leader || s.uncommitted.contains c then s
  else s.modArm (fun a => { a with log := a.log ++ [{ index := lastIndex a + 1, term := a.term, change := c }] })

/-- A quorum of the armature holds an entry (R197). -/
def State.quorumHolds (s : State) (i : Nat) : Bool :=
  let a := s.wall.arm
  decide (quorum a.members.length ≤ (a.members.filter (fun m => m = s.myId || i ≤ (tableGet? a.matched m).getD 0)).length)

/-- The bricks from which this armature member has heard nothing: 500 ms, or 200 ms for a LEAVING brick whose last heartbeat
carried STOPPING (R203, R205). -/
def State.silentBricks (s : State) : List Nat :=
  (s.wall.bricks.filter (fun b => (b.st = .member || b.st = .suspect || b.st = .leaving)
    && s.since b.lastHb (ms (if b.st = .leaving && b.stopping then 200 else 500)))).map (fun b => b.id)

/-- The reports of silence that the leader holds, its own among them, with the reporter (R203). -/
def State.reports (s : State) : List (Nat × List Nat) :=
  (s.myId, s.silentBricks) :: s.wall.arm.silent.filter (fun x => x.1 ≠ s.myId && s.wall.arm.members.contains x.1)

/-- The brick state that silence gives a brick (R203, R205); a SUSPECT brick that a quorum hears again returns (R204). -/
def State.verdict (s : State) (b : BrickRec) : Option BState :=
  let n := quorum s.wall.arm.members.length
  let silent := (s.reports.filter (fun r => r.2.contains b.id)).length
  let heard := (s.reports.filter (fun r => !r.2.contains b.id)).length
  match b.st with
  | .member => if n ≤ silent then some .suspect else none
  | .leaving => if n ≤ silent then some (match b.removal with | some (.removeReturn _) => .suspect | _ => .lost) else none
  | .suspect => if n ≤ heard then some .member else none
  | _ => none

/-- Propose a brick's new state. -/
def State.proposeBrick (s : State) (b : BrickRec) (st : BState) : State :=
  s.propose (.brick b.id st b.enclosure b.rack b.serial)

/-- Nothing that the leader appended waits for its commit. -/
def State.quiet (s : State) : Bool := s.wall.arm.commit = lastIndex s.wall.arm

/-- The armature's own membership: one member more or less in one entry (R191, R196, R199). A member to add stands in an enclosure with the
fewest of them, one to drop in an enclosure with the most. -/
def State.armChange (s : State) : Option (List Nat) :=
  let ms_ := s.wall.arm.members
  let size := s.wall.settings.armSize
  let seed := 2 ^ 60 + lastIndex s.wall.arm
  match ms_.find? (fun m => !(s.brick m).any (fun b => b.st ≠ .lost && b.st ≠ .leaving)) with
  | some m => some (ms_.filter (fun x => x ≠ m))
  | none =>
    if ms_.length < size then
      let cand := s.members.filter (fun b => !ms_.contains b)
      let load := fun b => (ms_.filter (fun m => s.enclosureOf m = s.enclosureOf b)).length
      (pick (leastOf load cand) seed).map (fun b => ms_ ++ [b])
    else if size < ms_.length then
      let crowd := fun b => (ms_.filter (fun m => s.enclosureOf m ≠ s.enclosureOf b)).length
      (pick (leastOf crowd (ms_.filter (fun m => m ≠ s.myId))) seed).map (fun b => ms_.filter (fun x => x ≠ b))
    else none

/-- A standby of a partition that is a MEMBER and, by its heartbeats, IN_SYNC (R115). -/
def State.syncStandby (s : State) (e : PartEntry) : Option Nat :=
  [e.standby1, e.standby2].find? (fun b => (s.brick b).any (fun x => x.st = .member && x.inSync))

/-- A partition to change in the map: a home that is LEAVING, once the second of its DRAIN notice is over (R49, R454), or OUT_OF_SYNC starts
its planned move to an IN_SYNC standby, which becomes the first (R115); a home with too many gives one to a standby with fewer, and a standby
with too many places gives one to a MEMBER with fewer (R220, R222); 16 of a brick at a time. -/
def State.partChange (s : State) : Option ArmChange :=
  let t := s.store.map.parts
  let going := fun b => (t.filter (fun e => e.2.home = b && e.2.moving)).length
  let leaves := fun b => (s.brick b).any (fun x => (x.st = .leaving && s.since x.suspectAt (sec 1)) || (x.st = .member && !x.inSync))
  let turn := fun (e : PartEntry) b => (if b = e.standby1 then e.standby2 else e.standby1)
  let light := fun (e : PartEntry) =>
    [e.standby1, e.standby2].find? (fun b => decide (homesOf t b + 1 < homesOf t e.home) && s.members.contains b)
  let place := fun (e : PartEntry) => (leastOf (placesOf t)
    (s.apart (s.members.filter (fun b => b ≠ e.home && b ≠ e.standby1 && b ≠ e.standby2)) [e.home, e.standby1])).find?
      (fun b => decide (placesOf t b + 1 < placesOf t e.standby2))
  t.findSome? (fun e =>
    if e.2.moving || 16 ≤ going e.2.home then none
    else if leaves e.2.home then
      (s.syncStandby e.2).map (fun b => .partition e.1 e.2.home b (turn e.2 b) true)
    else match light e.2 with
      | some b => some (.partition e.1 e.2.home b (turn e.2 b) true)
      | none => (place e.2).map (fun b => .partition e.1 e.2.home e.2.standby1 b false))

/-- What the leader appends next of its own accord: suspicion and return, the armature's membership, the opening, new bond tables,
and the partitions' moves. -/
def State.react (s : State) : State :=
  if s.wall.arm.role ≠ .leader || !s.quiet then s
  else
    let ws := s.wall.settings
    match s.wall.bricks.findSome? (fun b => (s.verdict b).map (fun st => (b, st))) with
    | some (b, st) => s.proposeBrick b st
    | none =>
      match s.wall.bricks.find? (fun b => b.st = .joining && b.ready) with
      | some b => s.proposeBrick b .member
      | none =>
        match s.armChange with
        | some l => s.propose (.armMembers l)
        | none =>
          if !s.wall.opened then
            if s.wall.arm.members.length = ws.armSize && ws.k + ws.m + 2 ≤ s.members.length then s.propose .opened else s
          else if s.replaceRows ≠ [] then s.propose (.bondRows s.replaceRows)
          else if s.balanceRows ≠ [] then s.propose (.bondRows s.balanceRows)
          else match s.partChange with
            | some c => s.propose c
            | none => s

/-- Answer the bricks that asked for a cast or its drop (R77, R78, R124). -/
def State.castAnswer (s : State) (asks : List CastAsk) (ks : BitVec 32) (rid : BitVec 64) (st : Status) (v r : Nat) : State :=
  (asks.filter (fun x => x.keyspace = ks && x.requestId = rid)).foldl (fun s x =>
    s.mortarOut .w0 x.brick x.wythe (.castDone r st v rid)) s

/-- The grant of the leader for a request that it has let in (R194): the ephemeral key and the signature's nonce are free. None where the
request's ephemeral key is no point of the curve, or the leader holds no wall key (log 222). -/
def State.grantFor (s : State) (j : JoinPend) : Option JoinGrant :=
  let g : JoinGrant :=
    { result := .granted, substitute := j.substitute, id := j.id, epoch := s.wall.epoch,
      ivDomain := ((s.brick j.id).map (fun b => b.ivDomain)).getD 0, ephemeral := [], wrappedKey := [], signature := [], cert := [] }
  let e := scalarOf (freeBytes s.fresh 48)
  match s.wallKey, sharedSecret e j.req.ephemeral with
  | some key, some secret =>
    some (signedGrant s.wall.settings.wallId key secret e deviceKey (scalarOf (freeBytes (s.fresh + 48) 48)) deviceCert j.req g)
  | _, _ => none

/-- The newest version of a keyspace's key that the wall retains. -/
def State.topKey (s : State) (ks : BitVec 32) : Nat := (s.wall.keys.filter (fun k => k.keyspace = ks)).foldl (fun a k => max a k.ver) 0

/-- A policy that creates its keyspace, or asks for a rotation, makes the armature draw the next key version, wrapped under the wall key
(R180, R507); `old` is the policy before. No 17th version is retained, and none lies past 65,535. -/
def State.drawKey (s : State) (old : Option Keyspace) (k : Keyspace) : State :=
  let held := (s.wall.keys.filter (fun x => x.keyspace = k.id)).length
  let wanted := (s.keyspace k.id).isSome && (match old with | some o => o.rotate ≠ k.rotate | none => true)
  match s.wallKey with
  | some wk =>
    if wanted && held < 16 && s.topKey k.id < 65535 then
      (s.drawn 32).propose (.keyVersion k.id (s.topKey k.id + 1) (keyWrap wk (freeBytes s.fresh 32)))
    else s
  | none => s

/-- The leader sends the wall settings with policies and key versions, which have changed, to every brick of the wall that is no armature
member (log 220). -/
def State.pushSettings (s : State) : State :=
  let to_ := (s.wall.bricks.filter (fun b => b.st ≠ .lost && !s.wall.arm.members.contains b.id)).map (fun b => b.id)
  let total := s.objLen .settings
  to_.foldl (fun s b => (s.mortarOut .w0 b .w0
    (.stateData .settings 0 s.wall.settingsVer 0 total (s.objBytes .settings 0 (min total 1048576)))).used) s

/-- A REPL_LINK body with neither keys nor signature (R278). -/
def linkMsg (kind : LinkKind) (l : LinkRec) (sourceCast remoteCast t : Nat) : ReplLink :=
  { kind := kind, keyspace := l.keyspace, sourceWall := l.sourceWall, remoteWall := l.remoteWall, sourceCast := sourceCast,
    remoteCast := remoteCast, castTime := t, ephemeral := [], signature := [], cert := [] }

/-- Tell the bricks of this wall, which are homes or may become homes, about a replication cast; the spec gives no message for it, the model's leader sends them the
REPL_LINK it sends to the other wall (log 30). -/
def State.tellHomes (s : State) (r : ReplLink) : State :=
  ((s.store.map.bricks.filter (fun b => b.state = 1)).map (fun b => b.id)).foldl (fun s b => s.mortarOut .w0 b .w0 (.replLink r)) s

/-- The next cast of a keyspace ships: one at a time, in cast-time order, once it is READY (R274). -/
def State.nextShip (s : State) (ks : BitVec 32) : State :=
  let mine := s.refs.ships.filter (fun x => x.keyspace = ks)
  let wait := mine.filter (fun x => !x.begun)
  match s.refs.links.find? (fun l => l.keyspace = ks && l.accepted && l.sourceWall = s.wall.settings.wallId) with
  | none => s
  | some l =>
    if s.wall.arm.role ≠ .leader || mine.any (fun x => x.begun && !x.applied) || (s.linkKey ks).isNone then s
    else match wait.find? (fun x => wait.all (fun y => x.time ≤ y.time)
        && s.store.casts.any (fun c => c.id = x.sourceCast && c.ready)) with
      | none => s
      | some x =>
        let r := linkMsg .castBegin l x.sourceCast 0 x.time
        ((s.modRefs (fun f => { f with ships := updFirst (fun y => y = x) (fun y => { y with begun := true }) f.ships })).mortarOut
          .w0 l.peer l.peerW (.replLink r)).tellHomes r

/-- The remote leader reports a cast applied to the source leader (R276). -/
def State.reportApplied (s : State) (id : Nat) (ks : BitVec 32) (t sourceCast : Nat) : State :=
  let s1 := s.modRefs (fun f => { f with ships := f.ships.filter (fun x => ¬ (x.keyspace = ks ∧ x.sourceCast = sourceCast)) })
  match s.refs.links.find? (fun l => l.keyspace = ks && l.remoteWall = s.wall.settings.wallId) with
  | some l => s1.mortarOut .w0 l.peer l.peerW (.replLink (linkMsg .castApplied l sourceCast id t))
  | none => s1

/-- Send the JOIN_GRANT of an admitted brick, whose ephemeral key and nonce are drawn at random (R194). -/
def State.sendGrant (s : State) (j : JoinPend) : State :=
  match s.grantFor j with
  | some g => (s.mortarTo .w0 j.head.src j.head.srcW j.head.addr (.joinGrant g)).drawn 96
  | none => s

/-- What the leader does once an entry is committed (R124, R180, R193, R217); `old` is the state before. -/
def State.leaderDone (old s : State) (c : ArmChange) : State :=
  match c with
  | .ivDomain id _ =>
    (s.wall.joins.filter (fun j => j.id = id)).foldl (fun s j => s.sendGrant j)
      (s.modWall (fun x => { x with joins := x.joins.filter (fun j => j.id ≠ id) }))
  | .castNew id ks t _ _ => s.homeBricks.foldl (fun s b => s.mortarOut .w0 b .w0 (.castAnnounce id ks t)) s
  | .castOutcome ks rid st v r _ => ((s.castAnswer old.wall.asks ks rid st v r).answerAsked .w0).answerAsked .w1
  | .policy k => (s.drawKey (old.keyspace k.id) k).pushSettings
  | .settings _ | .policyGone _ | .keyVersion .. | .keyRetired .. | .armMembers _ => s.pushSettings
  | .linkKey ks _ => s.pushSettings.nextShip ks
  | .castReady id => (s.store.casts.filter (fun c => c.id = id)).foldl (fun s c => s.nextShip c.keyspace) s
  | .castApplied id ks t src => s.reportApplied id ks t src
  | .bondRows _ | .opened =>
    if s.wall.settings.m < s.wall.bond.encCap then s.recordOpen 1 1 (.mtr .w0) (leBytes 4 s.wall.bond.version) else s
  | _ => s

/-- Commit what a quorum holds, entry by entry, and append what follows; `n` entries at most. -/
def State.settle (s : State) : Nat → State
  | 0 => s
  | n + 1 =>
    let a := s.wall.arm
    match a.log.find? (fun e => e.index = a.commit + 1) with
    | some e =>
      if a.role = .leader && s.quorumHolds e.index then
        (State.leaderDone s ((s.applyChange e.change).modArm (fun a => { a with commit := e.index })) e.change).react.settle n
      else s
    | none => s

/-- ARM_APPEND to every other member: the entries that each lacks, or none (R197). -/
def State.sendAppends (s : State) : State :=
  let a := s.wall.arm
  (a.members.filter (fun m => m ≠ s.myId)).foldl (fun s m =>
    let prev := (tableGet? a.matched m).getD 0
    s.mortarOut .w0 m .w0 (.armAppend a.term s.myId prev (termAt a prev) a.commit (a.log.filter (fun e => prev < e.index)))) s

/-- The leader goes on: it appends, commits, and sends what is new. -/
def State.lead_ (s : State) : State :=
  if s.wall.arm.role ≠ .leader then s
  else
    let s1 := s.react.settle 4096
    let s2 := State.afterState s s1
    if s2.wall.arm.log.length = s.wall.arm.log.length && s2.wall.arm.commit = s.wall.arm.commit then s2 else s2.sendAppends

/-! ### Casts the leader takes (R77, R78, R123, R124) -/

/-- The casts of a keyspace. -/
def State.castsOf (s : State) (ks : BitVec 32) : List Cast := s.store.casts.filter (fun c => c.keyspace = ks)

/-- The cast id, keyspace and request id of a change that registers a cast. -/
def castOfChange : ArmChange → Option (Nat × BitVec 32 × BitVec 64)
  | .castNew id ks _ _ rid => some (id, ks, rid)
  | .castApplied id ks _ _ => some (id, ks, 0)
  | _ => none

/-- The casts that the leader has given an id and no quorum holds yet. -/
def State.castsToCome (s : State) : List (Nat × BitVec 32 × BitVec 64) := s.uncommitted.filterMap castOfChange

/-- The next cast id of the wall (R123): above every id given, committed or not. -/
def State.nextCastId (s : State) : Nat := s.castsToCome.foldl (fun a c => max a (c.1 + 1)) s.wall.nextCast

/-- A keyspace holds 1,024 casts, READY, PENDING and those still to be committed (R124 step 2). -/
def State.castsFull (s : State) (ks : BitVec 32) : Bool :=
  decide (1024 ≤ (s.castsOf ks).length + (s.castsToCome.filter (fun c => c.2.1 = ks)).length)

/-- The leader has a request's cast or its outcome on the way to a commit. -/
def State.askRunning (s : State) (a : CastAsk) : Bool :=
  (s.castsOf a.keyspace).any (fun c => c.requestId = a.requestId && !c.ready)
    || s.uncommitted.any (fun c => match c with
      | .castNew _ ks _ _ rid | .castOutcome ks rid _ _ _ _ => ks = a.keyspace && rid = a.requestId
      | _ => false)

/-- The leader takes a cast or a drop that was asked for (R79, R124 steps 2 and 3): a request id whose outcome is recorded is answered with
it. A drop of a cast that is not READY in its keyspace is refused (R78). -/
def State.takeAsk (s : State) (a : CastAsk) : State :=
  match s.store.armOutcomes.find? (fun o => o.keyspace = a.keyspace && o.requestId = a.requestId) with
  | some { st := .done st v r _, .. } =>
    (s.modWall (fun x => { x with asks := x.asks.filter (fun y => ¬ (y.keyspace = a.keyspace ∧ y.requestId = a.requestId)) })).mortarOut
      .w0 a.brick a.wythe (.castDone r st v a.requestId)
  | _ =>
    if s.askRunning a then s
    else match a.drop with
      | some id =>
        if s.store.casts.any (fun c => c.id = id && c.keyspace = a.keyspace && c.ready) then
          (s.propose (.castGone id)).propose (.castOutcome a.keyspace a.requestId .ok 0 0 .none)
        else s.propose (.castOutcome a.keyspace a.requestId .castExpired 0 0 .none)
      | none =>
        match (s.castsOf a.keyspace).find? (fun c => c.requestId = a.requestId) with
        | some c => s.propose (.castOutcome a.keyspace a.requestId .ok c.time c.id .none)
        | none =>
          if s.castsFull a.keyspace then s.propose (.castOutcome a.keyspace a.requestId .full 0 0 .castLimit)
          else s.propose (.castNew s.nextCastId a.keyspace a.time a.brick a.requestId)

/-- An armature member notes what was asked; the leader takes it. The other members keep it for the case that they come to lead (log 224). -/
def State.castAsked (s : State) (a : CastAsk) : State :=
  let known := s.store.armOutcomes.any (fun o => o.keyspace = a.keyspace && o.requestId = a.requestId)
  let s1 := if s.wall.arm.role = .none || (known && s.wall.arm.role ≠ .leader) then s
    else s.modWall (fun x => { x with asks := x.asks.filter (fun y => ¬ (y.keyspace = a.keyspace ∧ y.requestId = a.requestId)) ++ [a] })
  if s.wall.arm.role = .leader then (s1.takeAsk a).lead_ else s1

/-- A new leader goes on with the casts: every home confirms anew to it, and what was asked of the armature and is not answered it takes
(R124). -/
def State.resumeCasts (s : State) : State :=
  let s1 := s.modStore (fun t => { t with casts := t.casts.map (fun c => { c with confirms := [] }) })
  s1.wall.asks.foldl (fun s a => s.takeAsk a) s1.announceCasts

/-! ### Terms, votes and appended entries (R197-R199) -/

/-- ARM_APPEND_TIMER: at least every 100 ms (R197). -/
def execArmAppendTimer (w : Wy) (s : State) : Host.Outcome State Fault Refusal :=
  .next (if s.running w || s.wall.arm.role = .leader then
    (if s.wall.arm.role = .leader then s.lead_.sendAppends else s) else s)

/-- A higher term in an armature message makes its reader a follower (R198). -/
def State.seeTerm (s : State) (term : Nat) : State :=
  if s.wall.arm.term < term then (s.modArm (fun a => { a with
    term := term, role := if a.role = .none then .none else .follower, votedFor := none, leader := none, votes := [] })).ptpRoles
  else s

/-- The replicated state before the log's first entry: a new armature member takes it from the log (R199). -/
def State.armBase (s : State) : State :=
  (s.modWall (fun x => { x with
    bricks := [], domains := [], keys := [], epoch := 0, castVersion := 0, settingsVer := 0, nextCast := 1, opened := false,
    bond := { version := 0, epoch := 0, encCap := 0, rackCap := 0, rows := [] } })).modStore (fun t => { t with
    map := { version := 0, epoch := 0, parts := [], bricks := [] }, casts := [], armOutcomes := [] })

/-- Apply the committed entries of a follower's log, from `lo` + 1 to `hi`. -/
def State.applyUpTo (s : State) (lo hi : Nat) : State :=
  let l := s.wall.arm.log.filter (fun e => lo < e.index && e.index ≤ hi)
  (l.foldl (fun s e => s.applyChange e.change) (if lo = 0 && l ≠ [] then s.armBase else s)).modArm
    (fun a => { a with commit := max a.commit hi })

/-- ARM_APPEND at a follower (R197, R198, R203). -/
def State.doArmAppend (s : State) (w : Wy) (h : MHead) (term prev prevTerm commit : Nat) (entries : List LogEntry) : State :=
  let ack := fun (s : State) (ok : Bool) => s.mortarOut w h.src h.srcW
    (.armAppendAck s.wall.arm.term ok (lastIndex s.wall.arm) s.silentBricks)
  if term < s.wall.arm.term then ack s false
  else
    let s1 := (s.seeTerm term).modArm (fun a => { a with
      leader := some h.src
      role := if a.role = .none then .none else .follower
      lastAppend := s.now })
    let a := s1.wall.arm
    if prev ≠ 0 && !a.log.any (fun e => e.index = prev && e.term = prevTerm) then ack s1 false
    else
      let same := entries.all (fun e => a.log.any (fun x => x.index = e.index && x.term = e.term))
      let log := if same then a.log else a.log.filter (fun e => e.index ≤ prev) ++ entries
      let s2 := s1.modArm (fun a => { a with log := log })
      let hi := min commit (lastIndex s2.wall.arm)
      let s3 := if a.commit < hi then State.afterState s2 (s2.applyUpTo a.commit hi) else s2
      ack s3 true

/-- ARM_APPEND. -/
def execArmAppend (w : Wy) (h : MHead) (term _leader prevIndex prevTerm commit : Nat) (entries : List LogEntry) (s : State) :
    Host.Outcome State Fault Refusal :=
  .next (s.mortarAny w h (fun s => s.doArmAppend w h term prevIndex prevTerm commit entries))

/-- ARM_APPEND_ACK at the leader (R197, R203). -/
def State.doArmAppendAck (s : State) (src term : Nat) (ok : Bool) (matched : Nat) (silent : List Nat) : State :=
  let s1 := s.seeTerm term
  if s1.wall.arm.role ≠ .leader || term < s1.wall.arm.term then s1
  else
    let old := (tableGet? s1.wall.arm.matched src).getD 0
    let s2 := s1.modArm (fun a => { a with
      matched := tablePut a.matched src (if ok then matched else min old matched)
      silent := a.silent.filter (fun x => x.1 ≠ src) ++ [(src, silent)] })
    let s3 := s2.lead_
    if ok then s3 else s3.sendAppends

/-- ARM_APPEND_ACK. -/
def execArmAppendAck (w : Wy) (h : MHead) (term : Nat) (ok : Bool) (matched : Nat) (silent : List Nat) (s : State) :
    Host.Outcome State Fault Refusal :=
  .next (s.mortarAny w h (fun s => s.doArmAppendAck h.src term ok matched silent))

/-- A candidate that holds a quorum of votes becomes leader (R198). -/
def State.countVotes (s : State) : State :=
  let a := s.wall.arm
  if a.role = .candidate && quorum a.members.length ≤ (a.votes.filter (fun v => a.members.contains v)).length then
    ((((s.modArm (fun a => { a with role := .leader, leader := some s.myId, matched := [], silent := [] })).ptpRoles).resumeCasts).lead_).sendAppends
  else s

/-- ELECTION_TIMEOUT: no ARM_APPEND for 1,000 ms and the random wait; the member stands for the next term (R198). -/
def execElectionTimeout (w : Wy) (s : State) : Host.Outcome State Fault Refusal :=
  let a := s.wall.arm
  if (a.role = .follower || a.role = .candidate) && s.since a.lastAppend (ms 1000) then
    let s1 := s.modArm (fun a => { a with
      role := .candidate, term := a.term + 1, votedFor := some s.myId, votes := [s.myId], leader := none, lastAppend := s.now })
    let b := s1.wall.arm
    let s2 := (b.members.filter (fun m => m ≠ s1.myId)).foldl (fun s m =>
      s.mortarOut w m .w0 (.armVoteReq b.term s.myId (lastIndex b) (lastTerm b))) s1
    .next s2.countVotes
  else .next s

/-- ARM_VOTE_REQ (R198). -/
def State.doVoteReq (s : State) (w : Wy) (h : MHead) (term cand li lt : Nat) : State :=
  let s1 := s.seeTerm term
  let a := s1.wall.arm
  let fresh := decide (lastTerm a < lt) || (lastTerm a = lt && decide (lastIndex a ≤ li))
  let grant := a.role ≠ .none && term = a.term && fresh && (a.votedFor.isNone || a.votedFor = some cand)
  let s2 := if grant then s1.modArm (fun a => { a with votedFor := some cand }) else s1
  s2.mortarOut w h.src h.srcW (.armVote s2.wall.arm.term grant)

/-- ARM_VOTE_REQ. -/
def execArmVoteReq (w : Wy) (h : MHead) (term candidate lastIndex lastTerm : Nat) (s : State) : Host.Outcome State Fault Refusal :=
  .next (s.mortarAny w h (fun s => s.doVoteReq w h term candidate lastIndex lastTerm))

/-- ARM_VOTE (R198). -/
def execArmVote (w : Wy) (h : MHead) (term : Nat) (granted : Bool) (s : State) : Host.Outcome State Fault Refusal :=
  .next (s.mortarAny w h (fun s =>
    let s1 := s.seeTerm term
    if granted && term = s1.wall.arm.term && s1.wall.arm.role = .candidate then
      (s1.modArm (fun a => { a with votes := if a.votes.contains h.src then a.votes else a.votes ++ [h.src] })).countVotes
    else s1))

/-! ### Forming and joining (R191-R195) -/

/-- The domain register's enclosure and rack (R192). -/
def State.myDomain (s : State) (w : Wy) : Nat × Nat := (s.afld (.mtr w) MTR_DOMAIN 15 0, s.afld (.mtr w) MTR_DOMAIN 31 16)

/-- The Plinth stores the wall key under the device root key, with more of the key store, and loads it into both CIPs (R178, R194). -/
def State.storeWallKey (s : State) (key : Bytes) (f : KsImage → KsImage) : State :=
  wythes.foldl (fun s w => s.modCip w (fun k => { k with wallKey := key }))
    (s.writeKeys (fun k => { f k with wallKey := some (keyWrap rootKey key) }))

/-- FORM: the brick becomes brick 0, the sole armature member and its leader (R178, R191). The wall key is drawn at random. -/
def State.form (s : State) (w : Wy) : State :=
  if s.wall.identity || s.wall.settings.wallId = 0 || s.wall.st ≠ .unjoined then s
  else
    let d := s.myDomain w
    let s0 := (s.drawn 32).modWall (fun x => { x with
      st := .forming
      identity := true
      brickId := some 0
      ready := true
      arm := { Armature.reset with role := .leader, term := 1, members := [0], leader := some 0 } })
    let s1 := s0.storeWallKey (freeBytes s.fresh 32) (fun k => { k with wallId := s0.wall.settings.wallId })
    let serial := serialBytes
    ((((s1.propose (.settings s1.wall.settings)).propose (.brick 0 .member d.1 d.2 serial)).propose
      (.ivDomain 0 (s1.wy .w0).cip.domain)).ptpRoles).lead_

/-- FORM (R191). -/
def execForm (w : Wy) (s : State) : Host.Outcome State Fault Refusal :=
  .next (if s.running w then s.form w else s)

/-- The JOIN_REQUEST of this brick with an ephemeral key (R192, R214). Reservation records are there when neither wythe has lost its own
(R172, R175). -/
def State.joinRequest (s : State) (w : Wy) (e : Nat) : JoinReq :=
  let d := s.myDomain w
  { wallId := if s.wall.identity then s.wall.settings.wallId
      else s.afld (.mtr w) MTR_JOIN_WALL_LO 31 0 + s.afld (.mtr w) MTR_JOIN_WALL_HI 31 0 * 2 ^ 32,
    prevId := s.wall.brickId.getD 0xFFFF, ivDomain := (s.wy w).cip.domain, hasResv := wythes.all (fun w => !(s.wy w).cip.resvLost),
    enclosure := d.1, rack := d.2, serial := serialBytes, ephemeral := publicKey e, cert := deviceCert, certOk := true }

/-- The brick that a JOIN_REQUEST goes to: an armature member last held, or the contact at MTR_JOIN_ADDR0-3, which names no brick
(R192). -/
def State.contact (s : State) : Nat := if s.wall.identity then (s.wall.arm.members.head?).getD 0x8000 else 0x8000

/-- JOIN: the brick starts to join, or rejoins at WALL_JOIN when its anchor holds an identity (R192, R487), with a fresh ephemeral key that
it keeps until the grant (R194). -/
def State.join (s : State) (w : Wy) : State :=
  if s.wall.st ≠ .unjoined && s.wall.st ≠ .joining && s.wall.st ≠ .suspect && s.wall.st ≠ .member then s
  else
    let e := scalarOf (freeBytes s.fresh 48)
    let r := s.joinRequest w e
    let s1 := (s.drawn 48).modWall (fun x => { x with
      st := if x.st = WallSt.unjoined then WallSt.joining else x.st
      joinAt := s.now
      joinKey := some (e, r)
      fetched := [] })
    s1.mortarOut w s1.contact .w0 (.joinRequest r)

/-- JOIN (R192). -/
def execJoin (w : Wy) (s : State) : Host.Outcome State Fault Refusal := .next (if s.running w then s.join w else s)

/-- The lowest free brick id (R193): no brick of the wall has it but a LOST one whose rows are all replaced (R204, log 225). -/
def State.freeId (s : State) : Option Nat :=
  (List.range 4096).find? (fun i => !s.wall.bricks.any (fun b => b.id = i && b.st ≠ .lost)
    && !s.wall.bond.rows.any (fun r => (rowList r.2).contains i))

/-- An IV domain that no brick of the wall has used (R172). -/
def State.freeDomain (s : State) : Option (BitVec 16) :=
  ((List.range 65536).find? (fun d => !s.wall.domains.contains (BitVec.ofNat 16 d))).map (BitVec.ofNat 16)

/-- The same member returns under R204: its reservation records are there (R172), and the brick of its previous id, which has its serial
number, is of the wall and not LOST. The spec does not say by what the leader knows it again: log 225. -/
def State.returns (s : State) (r : JoinReq) : Bool :=
  r.hasResv && (s.brick r.prevId).any (fun b => (b.st = .suspect || b.st = .leaving || b.st = .member) && b.serial = r.serial)

/-- The refusal of a JOIN_REQUEST, checked in the order of R193. -/
def State.joinFails (s : State) (compat : Nat) (r : JoinReq) : Option JoinResult :=
  let ws := s.wall.settings
  let old := s.returns r
  let newDomain := !old && (s.wall.domains.contains r.ivDomain || !r.hasResv)
  if r.wallId ≠ ws.wallId then some .wrongWall
  else if !r.certOk then some .notAdmitted
  else if ws.admitList && !ws.admitted.contains r.serial then some .notAdmitted
  else if s.wall.bricks.any (fun b => compat + 1 < b.compat || b.compat + 1 < compat) then some .compat
  else if !old && s.freeId.isNone then some .wallFull
  else if newDomain && 65536 ≤ s.wall.domains.length then some .domainsFull
  else none

/-- A refused JOIN_GRANT carries only its result (R214). -/
def refusedGrant (r : JoinResult) : JoinGrant :=
  { result := r, substitute := false, id := 0, epoch := 0, ivDomain := 0, ephemeral := [], wrappedKey := [], signature := [], cert := [] }

/-- JOIN_REQUEST at the leader, or at another member, which forwards it with the requester's header (R192, R193, log 221). -/
def State.doJoinRequest (s : State) (w : Wy) (h : MHead) (r : JoinReq) : State :=
  if s.wall.arm.role ≠ .leader then
    match s.wall.arm.leader with
    | some l => if l = s.myId then s else s.mortarOut w l .w0 (.joinForward h r)
    | none => s
  else match s.joinFails h.compat r with
    | some x => s.mortarTo w h.src h.srcW h.addr (.joinGrant (refusedGrant x))
    | none =>
      let old := s.returns r
      let id := if old then r.prevId else s.freeId.getD 0
      let sub := !old && (s.wall.domains.contains r.ivDomain || !r.hasResv)
      let d := if old then ((s.brick id).map (fun b => b.ivDomain)).getD r.ivDomain
        else if sub then s.freeDomain.getD 0 else r.ivDomain
      let new : JoinPend := { id := id, head := h, substitute := sub, req := r }
      let s1 := s.modWall (fun x => { x with joins := x.joins.filter (fun j => j.id ≠ id) ++ [new] })
      let s2 := if old then s1 else s1.propose (.brick id .joining r.enclosure r.rack r.serial)
      (s2.propose (.ivDomain id d)).lead_

/-- JOIN_REQUEST. -/
def execJoinRequest (w : Wy) (h : MHead) (r : JoinReq) (s : State) : Host.Outcome State Fault Refusal :=
  .next (s.mortarAny w h (fun s => s.doJoinRequest w h r))

/-- A refused join (R193, R226). -/
def State.joinRefused (s : State) (r : JoinResult) : State :=
  let s1 := (s.clearJoin 0).modWall (fun x => { x with joinKey := none, st := if x.st = WallSt.joining then WallSt.unjoined else x.st })
  ((s1.setReg (.mtr .w0) ERR_INFO0 (word (joinResultNum r))).setReg (.mtr .w1) ERR_INFO0 (word (joinResultNum r))).mtrEvent
    MTR_EVT_JOIN_REFUSED

/-- The IV domain that a grant gives a CIP: a substitute comes into force at the next reservation, and ends the loss of its reservation
records (R172, R175). -/
def Cip.takeDomain (k : Cip) (g : JoinGrant) : Cip :=
  if g.substitute then { k with nextDomain := some g.ivDomain, resvLost := false } else { k with domain := g.ivDomain, domainValid := true }

/-- A brick that joins as a new member discards what it has stored for the wall as a member before it (R204). -/
def State.discardStored (s : State) : State :=
  let s1 := s.stripes.frags.foldl (fun s x => s.freeFrag x.fragId) s
  (s1.modStripes (fun y => { y with recs := [], detours := [], catchUp := [], rebuild := [], repairs := [], exposure := [] })).modRefs
    (fun r => { r with groups := [], deltas := [], garbage := [], staged := [], lands := [], held := [] }) |>.modStore
    (fun t => { t with index := [], replRecs := [], unplaced := [], parts := [] })

/-- A grant whose certificate and signature hold and whose wall key opens (R194, R195): the Plinth stores the key, the identity and the
domain, the ephemeral key is erased, and the brick fetches the wall's state. -/
def State.joinGranted (s : State) (w : Wy) (h : MHead) (r : JoinReq) (g : JoinGrant) (key : Bytes) : State :=
  let s1 := s.modWall (fun x => { x with
    identity := true
    brickId := some g.id
    joinAt := s.now
    joinKey := none
    settings := { x.settings with wallId := r.wallId }
    arm := { x.arm with members := if x.arm.members.contains h.src then x.arm.members else x.arm.members ++ [h.src] } })
  let s2 := (s1.modCip .w0 (fun k => k.takeDomain g)).modCip .w1 (fun k => k.takeDomain g)
  let s3 := s2.storeWallKey key (fun k => { k with wallId := r.wallId, domain := g.ivDomain, subst := k.subst || g.substitute })
  let s4 := if r.prevId ≠ 0xFFFF && (g.id ≠ r.prevId || g.substitute) then s3.discardStored else s3
  [StateObj.map, .bond, .casts, .settings].foldl (fun s o => s.askState w h.src o) s4

/-- JOIN_GRANT at the joining brick (R194, R195, R226). `certKey` is the public key in the leader's certificate, when that verifies to the
manufacturing root; a grant whose certificate or signature fails is not used, and an unwrap that fails counts (R179). -/
def State.doJoinGrant (s : State) (w : Wy) (h : MHead) (g : JoinGrant) (certKey : Option Bytes) : State :=
  if s.wall.st = .unjoined || s.wall.st = .forming then s
  else if g.result ≠ .granted then s.joinRefused g.result
  else match s.wall.joinKey, certKey with
    | some (e, r), some pub =>
      match openGrant e r pub g with
      | some key => s.joinGranted w h r g key
      | none => if ecVerify pub (grantBody g ++ joinReqBytes r) g.signature then s.unwrapFails w else s
    | _, _ => s

/-- JOIN_GRANT. -/
def execJoinGrant (w : Wy) (h : MHead) (g : JoinGrant) (certKey : Option Bytes) (s : State) : Host.Outcome State Fault Refusal :=
  .next (s.mortarAny w h (fun s => s.doJoinGrant w h g certKey))

/-- JOIN_READY_TIMEOUT: a JOINING brick not READY within 600 s of its grant is removed (R195). -/
def execJoinReadyTimeout (brick : Nat) (s : State) : Host.Outcome State Fault Refusal :=
  match s.brick brick with
  | some b =>
    .next (if b.st = .joining && !b.ready && s.since b.grantedAt (sec 600) then (s.propose (.removed brick)).lead_ else s)
  | none => .next s

/-- The record of an outcome that the registry brings. -/
def keptOf (now : Nat) (o : CastOutcome) : OutcomeRec :=
  { keyspace := o.keyspace, requestId := o.requestId, st := .done o.status o.version o.result o.detail, since := now }

/-- A newer state object arrives whole (R195, R213): it is applied, and what follows from it happens. -/
def State.install (s : State) (p : StatePayload) : State :=
  match p with
  | .map m =>
    if m.version < s.store.map.version || (m.version = s.store.map.version && m.epoch ≤ s.wall.epoch && s.store.map.bricks = m.bricks) then s
    else (s.modStore (fun t => { t with map := m })).modWall (fun x => { x with epoch := max x.epoch m.epoch })
  | .bond b => if b.version < s.wall.bond.version then s else s.modWall (fun x => { x with bond := b })
  | .casts v l outs =>
    if v < s.wall.castVersion then s
    else
      let mk := fun e : CastEntry =>
        ({ id := e.id, keyspace := e.keyspace, time := e.time, ready := e.ready, expiry := e.expiry, held := false, confirms := [],
           asker := 0, requestId := e.requestId } : Cast)
      (s.modStore (fun t => { t with
        casts := l.map (fun e => (t.casts.find? (fun c => c.id = e.id && c.ready = e.ready)).getD (mk e))
        armOutcomes := outs.map (fun o => (t.armOutcomes.find? (fun x => x.keyspace = o.keyspace && x.requestId = o.requestId)).getD (keptOf s.now o)) })).modWall
        (fun x => { x with castVersion := v })
  | .settings v ws ks keys arm links =>
    if v < s.wall.settingsVer then s
    else (s.modWall (fun x => { x with
      settings := ws, settingsVer := v, keys := keys, links := links, arm := { x.arm with members := arm } })).modStore (fun t => { t with keyspaces := ks })

/-- An armature member learns the outcomes of a fetched cast registry that its own log has not brought it yet (R80). -/
def State.noteOutcomes (s : State) (p : StatePayload) : State :=
  match p with
  | .casts _ _ outs =>
    (outs.filter (fun o => !s.store.armOutcomes.any (fun x => x.keyspace = o.keyspace && x.requestId = o.requestId))).foldl (fun s o =>
      s.modStore (fun t => { t with armOutcomes := t.armOutcomes ++ [keptOf s.now o] })) s
  | _ => s

/-- STATE_DATA at the brick that asked (R195, R213, R214): the whole object is applied, the next range asked for, or the object
asked for anew. A JOINING brick with all four objects sets READY. -/
def State.doStateData (s : State) (w : Wy) (h : MHead) (obj : StateObj) (status off len : Nat) (payload : Option StatePayload) : State :=
  if status = 1 then s.askState w h.src obj
  else if status ≠ 0 then s
  else match payload with
    | none => s.mortarOut w h.src w (.stateGet obj 0 (off + len) 1048576)
    | some p =>
      let s1 := State.afterState s (if s.wall.arm.role = .none then s.install p else s.noteOutcomes p)
      let got := if s1.wall.fetched.contains obj then s1.wall.fetched else s1.wall.fetched ++ [obj]
      let s2 := s1.modWall (fun x => { x with
        fetched := got
        ready := x.ready || (x.brickId.isSome && [StateObj.map, .bond, .casts, .settings].all (fun o => got.contains o)
          && s1.keysInstalled) })
      if obj = .casts then ((s2.answerAsked .w0).answerAsked .w1).openAfterCasts else s2

/-! ### Heartbeats and leases (R127, R202-R205) -/

/-- The lowest closed time over the home partitions of a wythe (R214); its own where it homes none. -/
def State.closedLow (s : State) (w : Wy) : Nat :=
  let l := (s.store.parts.filter (fun x => wyOfPart x.p = w)).map (fun x => x.closed)
  match l with
  | [] => (s.wy w).clk.closed
  | a :: rest => rest.foldl min a

/-- The counts of stored records and inline values per key version, in order (R181). -/
def State.keyCounts (s : State) : List KeyCount :=
  let leads := (s.refs.groups.filter (fun g => g.held && s.leads g.group)).flatMap (fun g =>
    g.image.index.filterMap (fun e => (g.owners.find? (fun o => o.1 = e.fp)).map (fun o => (o.2, e.place.keyVersion))))
  let inl := s.store.index.flatMap (fun h => (h.versions.filter (fun v => v.inlined.isSome)).map (fun v => (h.keyspace, v.inlineKey)))
  let all := leads ++ inl
  let key := fun x : BitVec 32 × Nat => x.1.toNat * 65536 + x.2
  let t := all.foldl (fun (t : Table Nat) x => tablePut t (key x) ((tableGet? t (key x)).getD 0 + 1)) []
  t.map (fun e => { keyspace := BitVec.ofNat 32 (e.1 / 65536), ver := e.1 % 65536, count := e.2 })

/-- The entries of the running count pass still to be sent, or those of the next one, which lists the counts as they then stand (R181). -/
def State.passRest (s : State) : List KeyCount := if s.wall.countRest = [] then s.keyCounts else s.wall.countRest

/-- The brick's cover state, coded as in the map (R57, R214). -/
def State.coverCode (s : State) : Nat :=
  match s.cover.coverer with
  | none => 0
  | some .w0 => 1
  | some .w1 => 2

/-- A LEAVING brick that holds no role left sets REMOVE_READY (R205). -/
def State.rolesGone (s : State) : Bool :=
  s.wall.st = .leaving && (s.store.parts.filter (fun x => !x.fenced)) = []
    && (s.stripes.recs.filter (fun r => r.st ≠ .sealed)) = []

/-- The FULL flag of the heartbeat: set below 0.5% of usable capacity or while evacuating, cleared above 1% (R269). -/
def State.nowFull (s : State) : Bool :=
  if s.freeCapacity * 200 < s.usable || s.mustEvacuate then true
  else if s.usable < s.freeCapacity * 100 then false
  else s.wall.fullFlag

/-- The body of the next heartbeat of a wythe (R214). -/
def State.hbBody (s : State) (seq : Nat) : HbBody :=
  let rest := s.passRest
  { seq := seq, bondVersion := s.wall.bond.version, mapVersion := s.store.map.version, closed0 := s.closedLow .w0,
    closed1 := s.closedLow .w1, running0 := s.cover.run0, running1 := s.cover.run1, cover := s.coverCode,
    inSync0 := (s.wy .w0).clk.inSync, inSync1 := (s.wy .w1).clk.inSync, ready := s.wall.ready, full := s.nowFull,
    replace := s.replaceSet, removeReady := s.wall.removeReady || s.rolesGone, stopping := s.wall.stopping,
    freeGiB := s.freeCapacity / gib, usableGiB := s.usable / gib, passEnd := decide (rest.length ≤ 1024), counts := rest.take 1024, ports := s.myPorts,
    addrs := s.myAddrs .w0 ++ s.myAddrs .w1 }

/-- The brick takes part in a wall. -/
def State.inWall (s : State) : Bool :=
  s.wall.brickId.isSome && (s.wall.st = .joining || s.wall.st = .member || s.wall.st = .suspect || s.wall.st = .leaving
    || s.wall.st = .forming)

/-- A running wythe's heartbeat to every armature member (R202). One sent 400 ms ago that no quorum has acknowledged counts as
unacknowledged (log 29). -/
def State.sendHb (s : State) (w : Wy) : State :=
  if !s.running w || !s.inWall then s
  else
    let seq := (s.wy w).mortar.hbSeq + 1
    let b := s.hbBody seq
    let late := s.wall.hb.filter (fun x => x.w = w && s.since x.sentAt (ms 400))
    let s1 := s.modMortar w (fun m => { m with hbSeq := seq })
    let s2 := s1.modWall (fun x => { x with
      hb := x.hb.filter (fun y => !(y.w = w && s.since y.sentAt (ms 400))) ++ [{ w := w, seq := seq, sentAt := s.now, replies := [] }]
      countRest := s.passRest.drop 1024
      fullFlag := b.full
      removeReady := b.removeReady })
    let s3 := (s2.bump (.mtr w) MTR_CNT_HB_SENT).bumpBy (.mtr w) MTR_CNT_HB_UNACKED late.length
    let s4 := if late ≠ [] then s3.event (.mtr w) MTR_EVT_ARM_NO_QUORUM else s3
    s4.toArmature w (.heartbeat b)

/-- HEARTBEAT_SEND: every 100 ms (R202); none once the latch has opened on a removal (R457). -/
def execHeartbeatSend (w : Wy) (s : State) : Host.Outcome State Fault Refusal :=
  .next (if s.wall.stopping && s.front.removeSt ≠ 4 then s else s.sendHb w)

/-- Note a heartbeat in the brick's record (R181, R214); a count pass stands for the epoch and bond table at its beginning. -/
def noteHb (now epoch bond : Nat) (h : MHead) (b : HbBody) (r : BrickRec) : BrickRec :=
  let begun := r.partial_.getD { counts := [], epoch := epoch, bond := bond }
  let pass := { begun with counts := begun.counts ++ b.counts }
  { r with
    lastHb := now
    compat := h.compat
    closed0 := b.closed0
    closed1 := b.closed1
    ready := b.ready
    full := b.full
    replace := b.replace
    removeReady := b.removeReady
    stopping := b.stopping
    freeGiB := b.freeGiB
    usableGiB := b.usableGiB
    cover := b.cover
    inSync := (!b.running0 || b.inSync0) && (!b.running1 || b.inSync1)
    partial_ := if b.passEnd then none else some pass
    passes := if b.passEnd then (r.passes ++ [pass]).drop (r.passes.length - 1) else r.passes }

/-- The lowest closed time that the armature holds for any home (R534). -/
def State.wallClosedNow (s : State) : Nat :=
  let l := s.store.map.parts.map (fun e =>
    ((s.brick e.2.home).map (fun b => if wyOfPart e.1 = .w0 then b.closed0 else b.closed1)).getD 0)
  match l with
  | [] => 0
  | a :: rest => rest.foldl min a

/-- A DECRYPT_ONLY key version that no brick counts any more in two complete passes, with neither epoch nor bond table changed
(R181). -/
def State.retirable (s : State) : Option (BitVec 32 × Nat) :=
  let held := s.wall.bricks.filter (fun b => b.st = .member || b.st = .suspect || b.st = .leaving)
  let steady := held.all (fun b => decide (2 ≤ b.passes.length)
    && b.passes.all (fun p => p.epoch = s.wall.epoch && p.bond = s.wall.bond.version))
  let slot := s.wall.keys.find? (fun x => x.ver ≠ s.topKey x.keyspace && held.all (fun b => b.passes.all (fun p =>
    p.counts.all (fun c => !(c.keyspace = x.keyspace && c.ver = x.ver && c.count ≠ 0)))))
  if steady && held ≠ [] then slot.map (fun x => (x.keyspace, x.ver)) else none

/-- The leader sums the free capacity reported in heartbeats against the summed usable capacity (R271): a NOTICE event when it falls below 10%
of it, a FAULT event below 3% (logs 223, 235). -/
def State.spaceSum (s : State) : State :=
  let l := s.wall.bricks.filter (fun b => b.st = .member || b.st = .suspect || b.st = .leaving)
  let free : Nat := (l.map (fun b => b.freeGiB)).sum
  let all : Nat := (l.map (fun b => b.usableGiB)).sum
  let level : Nat := if s.wall.arm.role ≠ .leader then 0 else if free * 100 < all * 3 then 2 else if free * 10 < all then 1 else 0
  let s1 := s.modWall (fun x => { x with lowSpace := level })
  if level ≤ s.wall.lowSpace then s1 else s1.recordOpen 1 level (.mtr .w0) (leBytes 4 free)

/-- What the leader appends on a heartbeat: cover state and addresses of the map (R57, R373), and keys to retire (R181). -/
def State.hbLead (s : State) (src : Nat) (b : HbBody) : State :=
  if s.wall.arm.role ≠ .leader then s
  else match s.store.map.bricks.find? (fun x => x.id = src) with
    | none => s.lead_
    | some x =>
      let s1 := if x.cover ≠ b.cover then s.propose (.cover src b.cover) else s
      let s2 := if (x.addrs0 ++ x.addrs1 ≠ b.addrs && b.addrs ≠ []) || x.ports ≠ b.ports then s1.propose (.addresses src b.ports b.addrs) else s1
      let s3 := match s2.retirable with
        | some k => if s2.quiet then s2.propose (.keyRetired k.1 k.2) else s2
        | none => s2
      s3.lead_

/-- HEARTBEAT at an armature member (R202, R214). -/
def State.doHeartbeat (s : State) (w : Wy) (h : MHead) (b : HbBody) : State :=
  if s.wall.arm.role = .none then s
  else
    let known := s.brick h.src
    let s1 := s.modBrick h.src (noteHb s.now s.wall.epoch s.wall.bond.version h b)
    let s2 := s1.mortarOut w h.src h.srcW (.heartbeatReply
      { seq := b.seq, term := s1.wall.arm.term, leader := s1.wall.arm.role = .leader, notMember := known.isNone, epoch := s1.wall.epoch,
        bondVersion := s1.wall.bond.version, mapVersion := s1.store.map.version, castVersion := s1.wall.castVersion,
        wallClosed := s1.wallClosedNow })
    s2.spaceSum.hbLead h.src b

/-- HEARTBEAT. -/
def execHeartbeat (w : Wy) (h : MHead) (b : HbBody) (s : State) : Host.Outcome State Fault Refusal :=
  .next (s.mortarAny w h (fun s => s.doHeartbeat w h b))

/-- HEARTBEAT_REPLY: with a quorum of replies the heartbeat is acknowledged, and the lease runs from its sending (R127, R202, R534);
newer state is fetched (R213). -/
def State.doHeartbeatReply (s : State) (w : Wy) (h : MHead) (r : HbReply) : State :=
  let add := fun x : HbSent => { x with replies := if x.replies.contains h.src then x.replies else x.replies ++ [h.src] }
  let s1 := s.modWall (fun x => { x with
    hb := updFirst (fun y => y.w = w && y.seq = r.seq) add x.hb
    wallClosed := r.wallClosed
    arm := { x.arm with
      leader := if r.leader && x.arm.role = .none then some h.src else x.arm.leader
      term := if x.arm.role = .none then max x.arm.term r.term else x.arm.term } })
  let n := quorum s1.wall.arm.members.length
  let s2 := match s1.wall.hb.find? (fun y => y.w = w && y.seq = r.seq) with
    | some y =>
      if n ≤ (y.replies.filter (fun b => s1.wall.arm.members.contains b)).length then
        s1.modWall (fun x => { x with
          leaseUntil := max x.leaseUntil (y.sentAt + ms 400)
          hb := x.hb.filter (fun z => !(z.w = w && z.sentAt ≤ y.sentAt)) })
      else s1
    | none => s1
  if r.notMember then
    let gone := fun y : WallSt => match y with
      | .joining => .unjoined | .member | .suspect | .leaving => .lost | y => y
    s2.modWall (fun x => { x with st := gone x.st })
  else
    let s3 := if s2.wall.epoch < r.epoch || s2.store.map.version < r.mapVersion then s2.askState w h.src .map else s2
    let s4 := if s3.wall.bond.version < r.bondVersion then s3.askState w h.src .bond else s3
    if s4.wall.castVersion < r.castVersion then s4.askState w h.src .casts else s4

/-- HEARTBEAT_REPLY. -/
def execHeartbeatReply (w : Wy) (h : MHead) (r : HbReply) (s : State) : Host.Outcome State Fault Refusal :=
  .next (s.mortarAny w h (fun s => s.doHeartbeatReply w h r))

/-- LOSS_DELAY_EXPIRY: a SUSPECT brick becomes LOST when the loss delay, or its return period, has elapsed (R204, R205). -/
def execLossDelayExpiry (brick : Nat) (s : State) : Host.Outcome State Fault Refusal :=
  match s.brick brick with
  | some b =>
    let d := match b.removal with
      | some (.removeReturn n) => n
      | _ => s.wall.settings.lossDelayS
    .next (if b.st = .suspect && s.since b.suspectAt (sec d) then (s.proposeBrick b .lost).lead_ else s)
  | none => .next s

/-- REMOVE_NOTICE at the armature (R205). -/
def State.doRemoveNotice (s : State) (src : Nat) (k : RemoveKind) : State :=
  match s.brick src with
  | none => s
  | some b =>
    match k with
    | .cancel => if b.st = .leaving then (s.proposeBrick b .member).lead_ else s
    | _ =>
      let s1 := s.modBrick src (fun b => { b with removal := some k })
      if b.st = .member then (s1.proposeBrick b .leaving).lead_ else s1

/-- REMOVE_NOTICE. -/
def execRemoveNotice (w : Wy) (h : MHead) (k : RemoveKind) (s : State) : Host.Outcome State Fault Refusal :=
  .next (s.mortarAny w h (fun s => s.doRemoveNotice h.src k))

/-- PLANNED_MOVE_END: the old home ends the move (R130); the leader commits the new home (R197, R221, R222). The brick that gives the
partition up stays a standby unless it is LEAVING. -/
def execPlannedMoveEnd (p : Nat) (s : State) : Host.Outcome State Fault Refusal :=
  let s1 := s.endMove p
  if s1.wall.arm.role ≠ .leader then .next s1
  else match s1.partEntry p with
    | none => .next s1
    | some e =>
      let new := ((s1.partSt p).bind (fun x => x.moveTo) <|> s1.syncStandby e).getD e.standby1
      let other := if new = e.standby1 then e.standby2 else e.standby1
      let stays := s1.members.contains e.home
      let third := if stays then e.home
        else (s1.newStandby s1.store.map.parts [new, other] (2 ^ 55 + s1.store.map.version * 2 ^ 20 + p)).getD e.home
      .next (if e.moving || (s1.partSt p).any (fun x => x.fenced) then (s1.propose (.partition p new other third false)).lead_ else s1)

/-! ### Casts at the armature (R77, R78, R123-R126) -/

/-- CAST_REQUEST at an armature member (R124 steps 2 and 3). -/
def State.doCastRequest (s : State) (h : MHead) (ks : BitVec 32) (t : Nat) (rid : BitVec 64) : State :=
  s.castAsked { keyspace := ks, requestId := rid, brick := h.src, wythe := h.srcW, time := t, drop := none }

/-- CAST_REQUEST. -/
def execCastRequest (w : Wy) (h : MHead) (keyspace : BitVec 32) (t : Nat) (requestId : BitVec 64) (s : State) :
    Host.Outcome State Fault Refusal :=
  .next (s.mortarIn w h (.castRequest w h keyspace t requestId) (fun s => s.doCastRequest h keyspace t requestId))

/-- CAST_CONFIRM at the leader (R124 step 4): a home whose horizon has passed T ends the cast. -/
def State.doCastConfirm (s : State) (src id : Nat) (held : Bool) : State :=
  match s.store.casts.find? (fun c => c.id = id && !c.ready) with
  | none => s
  | some c =>
    if s.wall.arm.role ≠ .leader then s
    else if !held then
      ((s.propose (.castGone id)).propose (.castOutcome c.keyspace c.requestId .castExpired 0 0 .none)).lead_
    else s.modStore (fun t => { t with casts := updFirst (fun x => x.id = id) (fun x =>
      { x with confirms := if x.confirms.contains src then x.confirms else x.confirms ++ [src] }) t.casts })

/-- CAST_CONFIRM. -/
def execCastConfirm (w : Wy) (h : MHead) (id : Nat) (held : Bool) (s : State) : Host.Outcome State Fault Refusal :=
  .next (s.mortarIn w h (.castConfirm w h id held) (fun s => s.doCastConfirm h.src id held))

/-- CAST_READY: every home has confirmed and the wall closed time has reached T (R124 step 5). -/
def execCastReady (castId : Nat) (s : State) : Host.Outcome State Fault Refusal :=
  match s.store.casts.find? (fun c => c.id = castId && !c.ready) with
  | none => .next s
  | some c =>
    if s.wall.arm.role = .leader && s.homeBricks.all (fun b => c.confirms.contains b) && c.time ≤ s.wallClosedNow then
      .next (((s.propose (.castReady castId)).propose (.castOutcome c.keyspace c.requestId .ok c.time castId .none)).lead_)
    else .next s

/-- A cast still to be shipped to a second wall is kept (R126, R274). -/
def State.shipping (s : State) (id : Nat) : Bool := s.refs.ships.any (fun x => x.sourceCast = id && !x.applied)

/-- CAST_EXPIRY: the leader drops a READY cast that has reached its expiry, unless it is held for shipping (R126). -/
def execCastExpiry (castId : Nat) (s : State) : Host.Outcome State Fault Refusal :=
  match s.store.casts.find? (fun c => c.id = castId && c.ready) with
  | none => .next s
  | some c =>
    .next (if s.wall.arm.role = .leader && c.expiry.any (fun t => t ≤ s.hybrid .w0) && !s.shipping castId then
      (s.propose (.castGone castId)).lead_ else s)

/-- CAST_DROP_REQ at an armature member (R78, R124). -/
def State.doCastDropReq (s : State) (h : MHead) (id : Nat) (ks : BitVec 32) (rid : BitVec 64) : State :=
  s.castAsked { keyspace := ks, requestId := rid, brick := h.src, wythe := h.srcW, time := 0, drop := some id }

/-- CAST_DROP_REQ. -/
def execCastDropReq (w : Wy) (h : MHead) (id : Nat) (keyspace : BitVec 32) (requestId : BitVec 64) (s : State) :
    Host.Outcome State Fault Refusal :=
  .next (s.mortarIn w h (.castDropReq w h id keyspace requestId) (fun s => s.doCastDropReq h id keyspace requestId))

/-! ### Time (R223, R225) -/

/-- PTP_MASTER_LOSS: the wythe holds over on its own crystal (R225). -/
def execPtpMasterLoss (w : Wy) (s : State) : Host.Outcome State Fault Refusal :=
  .next (if (s.wy w).mortar.ptpRole = .slave then
    s.modMortar w (fun m => { m with ptpRole := .holdover, lostAt := some s.now }) else s)

end Sys2Proof.Machine
end

