-- ==== Sys2Proof/Machine/Dump.lean ====
section
/-! DEFINITION. The dump reserves, window images and what a set takes up again at ANCHOR_LOAD (R290, R309, R321, R322, R329, R330). -/

namespace Sys2Proof.Machine

/-! ### The reserve (R309) -/

/-- A dump begins: a new generation of 1 GiB in the set's reserve. -/
def State.beginDump (s : State) (i : Nat) : State :=
  s.modSet i (fun x => { x with
    dumpGen := x.dumpGen + 1
    dumpMiB := x.dumpMiB - 1024
    dumpWhole := false })

/-- A dump is complete, its final unit with LAST_UNIT written (R322). -/
def State.dumpDone (s : State) (i : Nat) : State :=
  s.modSet i (fun x => { x with
    dumpWhole := true
    dumpKept := some x.dumpGen })

/-- Another block of the plane stands for a retired one of the reserve: the spec names none, and the model takes it as R292 takes a block (log
247). -/
def State.moveReserve (s : State) (i die plane : Nat) : State :=
  match s.chooseBlock die plane with
  | some b => s.modSet i (fun x => { x with reserveMoved := x.reserveMoved ++ [(reserveBase die plane, blkKey die plane b)] })
  | none => s

/-- Retire a block, in the reserve with another in its place. -/
def State.retireOut (s : State) (i die plane block cause : Nat) : State :=
  let k := blkKey die plane block
  if s.isReserve k then (s.retireBlock die plane block cause).moveReserve i die plane else s.retireBlock die plane block cause

/-- The blocks of an erase that has ended (R301, R326): ERASE_DONE makes them free; a failed block is retired. -/
def State.blocksErased (s : State) (i : Nat) (j : ChJob) (bad : List Nat) : State :=
  let d := reqDie j.req
  let key := fun p => blkKey d p (j.req.blocks.getD p 0)
  let ok := (planesOf j.req).filter (fun p => !bad.contains p)
  let s1 := if ok = [] then s
    else ok.foldl (fun s p => s.modBlk (key p) (fun b => { b with use := .free }))
      (s.anchorRec i (.eraseDone d (maskOf ok) j.req.blocks (ok.map (fun p => (s.blk (key p)).wear))))
  bad.foldl (fun s p => s.retireOut i d p (j.req.blocks.getD p 0) 1) s1

/-- Dies of the reserve with no erase pending leave the list; with the last the reserve is wholly erased again. -/
def State.reserveDone (s : State) (i : Nat) : State :=
  let x := s.set_ i
  let left := x.reserveErase.filter (fun d => (List.range 4).any (fun p => (s.blk (s.reserveBlk d p)).use = .intent))
  if x.reserveErase = [] || left ≠ [] then s.modSet i (fun x => { x with reserveErase := left })
  else (s.modSet i (fun x => { x with
    reserveErase := []
    dumpMiB := 8192 })).medBits (s.setWy i)

/-- An erase of blocks that no superblock holds has ended: of a dump reserve, of an intent found at start, or of a channel in service again. -/
def State.freeErased (s : State) (i : Nat) (j : ChJob) (bad : List Nat) : State := (s.blocksErased i j bad).reserveDone i

/-- Erase the reserve's blocks of a die, ERASE_INTENT with cause DUMP_RESERVE first (R309, R317); blocks to be retired are left out. -/
def State.eraseReserve (s : State) (i die : Nat) : State :=
  let bad := (List.range 4).filterMap (fun p => (retireCause s.now (s.blk (s.reserveBlk die p))).map (fun c => (p, c)))
  let blocks := (List.range 4).map (fun p => s.reserveBlk die p % 2048)
  let s1 := bad.foldl (fun s e => s.retireOut i die e.1 (blocks.getD e.1 0) e.2) s
  let planes := (List.range 4).filter (fun p => !bad.any (fun e => e.1 = p))
  if planes = [] then s1
  else
    let s2 := s1.anchorRec i (.eraseIntent die (maskOf planes) blocks 4)
    let s3 := planes.foldl (fun s p => s.modBlk (blkKey die p (blocks.getD p 0)) (fun k => { k with use := .intent })) s2
    let q := eraseReq false die (maskOf planes) blocks ((s2.set_ i).seqNext - 1)
    s3.submit (s.setWy i) q.1 q.2 (.eraseOnly i)

/-! ### Window images (R322) -/

/-- The units of a window image: the 1 GiB of a half. -/
def imageUnits : Nat := 262144

/-- The window image is durable. -/
def imageWhole (x : SetSt) : Bool := x.image.any (fun g => decide (imageUnits ≤ mappedUnits x 2 g 0xFFFFFFFF))

/-- Drop the window image. -/
def State.dropImage (s : State) (i : Nat) : State :=
  match (s.set_ i).image with
  | some g => (s.mapDrop i 2 g 0xFFFFFFFF).modSet i (fun x => { x with image := none })
  | none => s

/-- Write the restored window as an image of its dump generation, on the SLC index stream. -/
def State.writeImage (s : State) (i gen : Nat) : State :=
  ((s.dropImage i).modSet i (fun x => { x with image := some gen })).placeUnits i .slcIndex 2 (unitsOf 2 gen 0xFFFFFFFF imageUnits)

/-- The reserve's erase starts once no complete generation stands in it alone, and on two anchor channels (R308, R322). -/
def State.reserveStep (s : State) (i : Nat) : State :=
  let x := s.set_ i
  let free := x.dumpKept = none || (x.image = x.dumpKept && imageWhole x)
  if !x.scanned || x.dumpMiB = 8192 || x.reserveErase ≠ [] || s.media.dumping || !free || !s.twoAnchors i then s
  else
    let l := dumpDies i
    (l.foldl (fun s d => s.eraseReserve i d) (s.modSet i (fun x => { x with
      dumpKept := none
      reserveErase := l }))).reserveDone i

/-- Records and stripes that a lost window alone held are gone (R21, R322). -/
def State.loseWindow (s : State) (w : Wy) (lostRecs : List (Nat × Nat)) (lostStripes : List Nat) : State :=
  let gone := fun r : ReplRec => wyOfPart r.p = w && lostRecs.contains (r.p, r.content.version)
  let dead := s.store.replRecs.filter gone
  let s1 := s.modStore (fun t => { t with
    replRecs := t.replRecs.filter (fun r => !gone r)
    index := t.index.map (fun h => { h with
      versions := h.versions.filter (fun v => !dead.any (fun r => r.content.keyspace = h.keyspace && r.content.version = v.time
        && r.content.adds.any (fun a => a.1 = h.key))) }) })
  s1.modStripes (fun y => { y with recs := y.recs.filter (fun r => !(lostStripes.contains r.id)) })

/-- No complete generation exists: a FAULT event, but at the first start and after a clean stop, when no window was to be kept (log 247). -/
def State.windowFault (s : State) (w : Wy) : State :=
  let x := s.set_ w.num
  if x.dumpGen = 0 || cleanSet x then s
  else s.record 0 2 0x0203 (pageIdOf (.pwr w)).toNat (leBytes 8 w.num ++ leBytes 8 x.dumpGen ++ zeroBytes 8)

/-- EVT_STATUS.DUMP_LOW while a reserve is short (R309). -/
def State.dumpLow (s : State) (i : Nat) : State :=
  if (s.set_ i).dumpMiB = 8192 then s else s.event (.med (s.setWy i)) MED_EVT_DUMP_LOW

/-- A wythe's protected window at TAG_SCAN (R21, R322): the newest complete dump generation is restored, from the reserve or from the window
image, whichever is newer; from the reserve it is first written as a new image. What the newest dump does not hold whole is lost: the records
and stripes that the row names. -/
def State.restoreWindow (s : State) (w : Wy) (lostRecs : List (Nat × Nat)) (lostStripes : List Nat) : State :=
  let i := w.num
  let x := s.set_ i
  let image := if imageWhole x then x.image else none
  let s1 := match x.dumpKept, image with
    | some g, some h => if h < g then s.writeImage i g else s
    | some g, none => s.writeImage i g
    | none, some _ => s
    | none, none => s.windowFault w
  let s2 := if x.dumpKept = some x.dumpGen then s1 else s1.loseWindow w lostRecs lostStripes
  (s2.modSet i (fun x => { x with
    restored := x.dumpKept.isSome || image.isSome
    scanned := true })).dumpLow i

/-! ### ANCHOR_LOAD (R290, R330) -/

/-- The counter of a die in the set's last EQUIV_AGE record. -/
def lastAge (x : SetSt) (d : Nat) : Nat :=
  ((x.anchor.reverse.findSome? (fun e => match e.2 with
    | .equivAge l => some l
    | _ => none)).bind (fun l => (l.find? (fun a => a.1 = d)).map (fun a => a.2))).getD 0

/-- After a stop each die's counter is that of the last record and the time since then by the factor of its last temperature (R330). -/
def State.resumeAges (s : State) (i : Nat) : State :=
  let x := s.set_ i
  let gap := (s.now - x.ageAt) * 2 ^ 32 / 3600000000000
  s.modMedia (fun m => { m with dies := (List.range 2048).map (fun d =>
    (d, if setOf (d / 32) = i then { s.die d with age := lastAge x d + ageGain (s.die d).temp gap } else s.die d)) })

/-- Write sequences resume at the first value that no reservation holds, after a restart and when cover begins (R290; log 247). -/
def State.resumeSeq (s : State) (i : Nat) : State := s.modSet i (fun x => { x with seqNext := max x.seqNext x.seqThru })

/-- A set is loaded from its anchor: its write sequence and its dies' ages go on (R290, R330). -/
def State.loadSet (s : State) (i : Nat) : State := ((s.resumeAges i).resumeSeq i).modSet i (fun x => { x with loaded := true })

end Sys2Proof.Machine
end

