-- ==== Sys2Proof/Machine/Rebuild.lean ====
section
/-! DEFINITION. Work on the rebuild queue (08, R243-R250): moves and rebuilt ranges within the tier budgets, the ranges read from peers, and what
is found lost. -/

namespace Sys2Proof.Machine

/-! ### Budgets and sources (R246, R247, R249) -/

/-- The cookie of the copy of a moved fragment (R243). -/
def moveCookie : Nat := 3 * 2 ^ 56

/-- The cookie of a range read for a rebuild (R247). -/
def rebuildCookie : Nat := 6 * 2 ^ 56

/-- The tier of a margin: 0 normal, 1 high, 2 critical (R249). -/
def tierOf (margin : Nat) : Nat := 2 - min margin 2

/-- The inbound network budget of a tier in MB/s: 10, 30 and 60 GB/s unless the wall settings say otherwise (R249). -/
def State.tierMbs (s : State) (tier : Nat) : Nat := s.wall.settings.tierMbs.getD tier ([10000, 30000, 60000].getD tier 10000)

/-- Take inbound budget of a tier for bytes: the next work of the tier waits until they have come at its rate (R249; the spec gives the rate
no window: DESIGN CHOICE, log 240). -/
def State.takeBudget (s : State) (tier bytes : Nat) : State :=
  s.modStripes (fun x => { x with budgetAt := x.budgetAt.set tier (s.now + bytes * 1000 / s.tierMbs tier) })

/-- Change the entry of the rebuild queue for a fragment, or a range of it. -/
def State.modRebuild (s : State) (e : RebuildEnt) (g : RebuildEnt → RebuildEnt) : State :=
  s.modStripes (fun x => { x with rebuild := updFirst (fun y => y.fragId = e.fragId && y.upto = e.upto) g x.rebuild })

/-- Take an entry off the rebuild queue. -/
def State.dropRebuild (s : State) (e : RebuildEnt) : State :=
  s.modStripes (fun x => { x with rebuild := x.rebuild.filter (fun y => ¬ (y.fragId = e.fragId ∧ y.upto = e.upto)) })

/-- The stored length of the fragment of an entry, or the end of its range. -/
def State.rebuildEnd (s : State) (e : RebuildEnt) : Nat :=
  if e.upto ≠ 0 then e.upto else storedLen s.wall.settings.k s.wall.settings.fragBytes e.fill (fragIndex e.fragId)

/-- The length of the range of an entry that is being worked: up to 64 KiB (R246). -/
def State.rebuildLen (s : State) (e : RebuildEnt) : Nat := min 65536 (s.rebuildEnd e - e.next)

/-- The rebuild reads outstanding to a brick (R247). -/
def State.rebuildLoad (s : State) (b : Nat) : Nat :=
  s.stripes.rebuild.foldl (fun n e => n + (e.asked.filter (fun a => a.2 = b)).length) 0

/-- Insert a source by the load of its brick, behind those of equal load. -/
def State.insertSource (s : State) (a : Nat × Nat) : List (Nat × Nat) → List (Nat × Nat)
  | [] => [a]
  | x :: rest => if s.rebuildLoad a.2 < s.rebuildLoad x.2 then a :: x :: rest else x :: s.insertSource a rest

/-- The readable holders that a range may still be read from, those with the fewest rebuild reads outstanding first, data positions before
parity positions at equal load (R247). -/
def State.rebuildSources (s : State) (e : RebuildEnt) : List (Nat × Nat) :=
  let ws := s.wall.settings
  let free := (List.range (ws.k + ws.m)).filter (fun i => i ≠ fragIndex e.fragId && !e.out.contains i
    && !e.got.any (fun g => g.1 = i) && !e.asked.any (fun a => a.1 = i))
  let held := free.filterMap (fun i => match s.holderNow (stripeOf e.fragId + i) e.targets with
    | some b => if s.unreadable (some b) then none else some (i, b)
    | none => none)
  held.foldl (fun l a => s.insertSource a l) []

/-- A position whose fragment cannot be had at a range: no brick of the map holds it, or it was found unreadable there (R250). -/
def State.goneAt (s : State) (e : RebuildEnt) (i : Nat) : Bool :=
  i = fragIndex e.fragId || e.out.contains i
    || !(s.holderNow (stripeOf e.fragId + i) e.targets).any (fun b => s.store.map.bricks.any (fun x => x.id = b))

/-! ### What is lost (R250) -/

/-- The fingerprints that this brick knows of records that overlap a range of a data area: from the reference state of the group and from the
values of its partitions (R250; log 241). -/
def State.fpsAt (s : State) (stripe off len : Nat) : List Bytes :=
  let f := s.wall.settings.fragBytes
  let on := fun p : Place => stripeOf p.fragId = stripe && fragIndex p.fragId * f + p.offset < off + len
    && off < fragIndex p.fragId * f + p.offset + p.length
  let index := ((s.groupRec (fragGroup stripe)).image.index.filter (fun x => on x.place)).map (fun x => x.fp)
  let values := s.store.index.flatMap (fun h => h.versions.flatMap (fun v => (v.chunks.filter (fun c => on c.place)).map (fun c => c.fp)))
  (index ++ values).eraseDups

/-- A range of a stripe is lost: each of its data fragments that cannot be had there is reported, and the entry leaves the queue (R250). -/
def State.rangeLost (s : State) (w : Wy) (e : RebuildEnt) : State :=
  let ws := s.wall.settings
  let stripe := stripeOf e.fragId
  let n := s.rebuildLen e
  ((List.range ws.k).filter (s.goneAt e)).foldl (fun s i =>
    s.reportLost w { fragId := stripe + i, offset := e.next, length := n, keyVersion := 0 } (s.fpsAt stripe (i * ws.fragBytes + e.next) n))
    (s.dropRebuild e)

/-! ### Ranges (R246, R247) -/

/-- Keep a fragment that a move or a rebuild has brought whole, as FRAG_PUT to itself (R243, R246). -/
def State.keepRebuilt (s : State) (w : Wy) (e : RebuildEnt) (bytes : Bytes) : State :=
  (s.keepFrag w { fragId := e.fragId, gen := e.gen, fill := e.fill, digest := e.digest, targets := wireTargets e.targets, lead := e.lead,
                  kind := .rebuild, crc := crc32c bytes } bytes none 1).dropRebuild e

/-- A self-rebuilt range is written as new copies and the fragment is whole again there (R247, R328). -/
def State.patchRange (s : State) (w : Wy) (e : RebuildEnt) (bytes : Bytes) : State :=
  match s.frag e.fragId with
  | none => s.dropRebuild e
  | some x =>
    let from_ := e.upto - bytes.length
    let units := (unitsOf 1 e.fragId x.gen ((e.upto + 4095) / 4096)).drop (from_ / 4096)
    let s1 := s.modFrag e.fragId (fun x => { x with
      bytes := overlay x.bytes from_ (bytes.take (x.bytes.length - from_)),
      bad := x.bad.filter (fun r => !(from_ ≤ r.1 && r.1 + r.2 ≤ e.upto)) })
    ((if s1.directQlc w.num then s1.placeUnits w.num .qlcFrag 1 units else s1.placeUnits w.num .slcFrag 1 units)).dropRebuild e

/-- A range is decoded from k others by a Galois-field unit; the whole fragment, or the whole self-rebuilt range, is then written to own media
(R246, R247). -/
def State.rangeDecoded (s : State) (w : Wy) (e : RebuildEnt) : State :=
  match rsDecode s.wall.settings e.got (fragIndex e.fragId) with
  | none => s
  | some d =>
    let n := s.rebuildLen e
    let s1 := s.galois w ((s.leastLoaded w .codec courses).getD 0)
    let bytes := e.bytes ++ d.take n
    if s1.rebuildEnd e ≤ e.next + n then (if e.upto ≠ 0 then s1.patchRange w e bytes else s1.keepRebuilt w e bytes)
    else s1.modRebuild e (fun y => { y with next := e.next + n, bytes := bytes, asked := [], got := [], out := [] })

/-- Ask for what a range still needs, from the k readable holders with the fewest rebuild reads (R247); the range is lost when more than m of
the stripe's fragments cannot be had there (R250). While holders are only SUSPECT the entry waits. -/
def State.pumpRange (s : State) (w : Wy) (e : RebuildEnt) : State :=
  let ws := s.wall.settings
  let need := ws.k - e.got.length - e.asked.length
  let l := s.rebuildSources e
  if l.length < need then
    if ws.m < ((List.range (ws.k + ws.m)).filter (s.goneAt e)).length then s.rangeLost w e else s.modRebuild e (fun _ => e)
  else
    let n := s.rebuildLen e
    (l.take need).foldl (fun s a => s.mortarOut w a.2 (wyOfGroup (fragGroup e.fragId))
      (.rangeRead (stripeOf e.fragId + a.1) e.next n false .rebuild rebuildCookie))
      (s.modRebuild e (fun _ => { e with asked := e.asked ++ l.take need }))

/-- RANGE_DATA for a rebuild: once k ranges are there the position is decoded; a holder that cannot read its range is an erasure there and has
it rebuilt for itself (R247). -/
def State.rebuildData (s : State) (w : Wy) (src f off : Nat) (st : RStatus) (holder : Nat) (bytes : Bytes) : State :=
  let i := fragIndex f
  match s.stripes.rebuild.find? (fun e => stripeOf e.fragId = stripeOf f && e.next = off && e.asked.contains (i, src)) with
  | none => s
  | some e0 =>
    let e := { e0 with asked := e0.asked.filter (fun a => a ≠ (i, src)) }
    match st with
    | .ok =>
      let e1 := { e with got := e.got ++ [(i, bytes)] }
      if e1.got.length < s.wall.settings.k then s.modRebuild e (fun _ => e1) else s.rangeDecoded w e1
    | .notHeld =>
      if holder ≠ 0xFFFF && holder ≠ src && !s.unreadable (some holder) then
        (s.modRebuild e (fun _ => { e with asked := e.asked ++ [(i, holder)] })).mortarOut w holder (wyOfGroup (fragGroup f))
          (.rangeRead f off (s.rebuildLen e) false .rebuild rebuildCookie)
      else s.pumpRange w { e with out := e.out ++ [i] }
    | .uncorrectable =>
      (s.mortarOut w src (wyOfGroup (fragGroup f)) (.lostReport (stripeOf f) (i * s.wall.settings.fragBytes + off) (s.rebuildLen e) [] true)).pumpRange
        w { e with out := e.out ++ [i] }

/-! ### Moves (R243) -/

/-- Start a move: the fragment is read whole from its holder (R243). -/
def State.startMove (s : State) (w : Wy) (e : RebuildEnt) (holder : Nat) : State :=
  (s.modRebuild e (fun _ => { e with asked := [(fragIndex e.fragId, holder)] })).mortarOut w holder (wyOfGroup (fragGroup e.fragId))
    (.rangeRead e.fragId 0 (s.rebuildEnd e) false .rebuild moveCookie)

/-- The copy of a moved fragment arrives (R243). A holder that cannot give it is no detour, and the fragment is rebuilt. -/
def State.moveData (s : State) (w : Wy) (src f : Nat) (st : RStatus) (bytes : Bytes) : State :=
  match s.stripes.rebuild.find? (fun e => e.fragId = f && e.upto = 0 && e.asked.contains (fragIndex f, src)) with
  | none => s
  | some e =>
    if st = .ok then s.keepRebuilt w e (padTo (s.rebuildEnd e) bytes)
    else (s.modRebuild e (fun y => { y with asked := [] })).modStripes (fun x => { x with detours := tableDel x.detours f })

/-! ### The row -/

/-- The next entry of the rebuild queue: the first, of this wythe, that is not under way, whose stripe's seal is known, that the media have room
for, and whose tier has budget free (R246, R249). -/
def State.nextRebuild (s : State) (w : Wy) : Option RebuildEnt :=
  s.stripes.rebuild.find? (fun e => wyOfGroup (fragGroup e.fragId) = w && e.asked = [] && e.digest ≠ []
    && decide (s.stripes.budgetAt.getD (tierOf e.margin) 0 ≤ s.now)
    && (e.upto ≠ 0 || !s.noRoom (if (tableGet? s.stripes.detours e.fragId).isSome then .move else .rebuild) (s.rebuildEnd e)))

/-- REBUILD_RANGE: the next entry of the queue takes budget of its tier: a move reads its fragment from the holder, a rebuild its next range of up
to 64 KiB from k holders (R243, R246, R249). -/
def execRebuildRange (w : Wy) (s : State) : Host.Outcome State Fault Refusal :=
  match s.nextRebuild w with
  | none => .next s
  | some e =>
    let n := s.rebuildLen e
    if s.rebuildEnd e = 0 then .next (s.keepRebuilt w e [])
    else match tableGet? s.stripes.detours e.fragId with
      | some b => .next ((s.takeBudget (tierOf e.margin) (s.rebuildEnd e)).startMove w e b)
      | none => .next ((s.takeBudget (tierOf e.margin) (s.wall.settings.k * n)).pumpRange w e)

end Sys2Proof.Machine
end

