-- ==== Sys2Proof/Machine/Repl.lean ====
section
/-! DEFINITION. Replication to a second wall (R272-R278), on both sides, and the last Mortar rows: STATE_DATA, RANGE_DATA, and the
messages that waited for a newer epoch (R213). Messages between walls are exempt from R213 (R273). -/

namespace Sys2Proof.Machine

/-! ### Links (R272, R273) -/

/-- The link of a keyspace. -/
def State.link (s : State) (ks : BitVec 32) : Option LinkRec := s.refs.links.find? (fun l => l.keyspace = ks)

/-- Change or enter the link of a keyspace. -/
def State.putLink (s : State) (l : LinkRec) : State :=
  s.modRefs (fun r => { r with links := upsert (fun x => x.keyspace = l.keyspace) (fun _ => l) l r.links })

/-- The id of the wall this brick belongs to. -/
def State.wallId (s : State) : Nat := s.wall.settings.wallId

/-- The address that a brick of another wall sent from, which its next messages go to. -/
def State.noteFar (s : State) (b : Nat) (addr : BitVec 128) : State := s.modRefs (fun r => { r with far := tablePut r.far (farPeer b) addr })

/-- A LINK_OFFER or LINK_ACCEPT carries a fresh ephemeral key `e`, kept until the link is up, the device certificate and a signature with a
fresh nonce over its bytes 0-139 (R273, R278). -/
def State.linkHello (s : State) (kind : LinkKind) (l : LinkRec) (e : Nat) : State :=
  let r := { linkMsg kind l 0 0 0 with ephemeral := publicKey e, cert := deviceCert }
  let sig := ecSign deviceKey (scalarOf (freeBytes s.fresh 48)) (linkSigned r)
  ((s.drawn 48).putLink { l with secret := some e }).mortarOut .w0 l.peer l.peerW (.replLink { r with signature := sig })

/-- The link key, from the shared secret of the two ephemeral keys and the two wall ids (R273). -/
def linkKeyOf (l : LinkRec) (secret : Bytes) : Bytes :=
  wideHkdf (beBytes 8 l.sourceWall ++ beBytes 8 l.remoteWall) secret (ascii "GL410 replication link")

/-- A link is set up: its key goes to the members of this wall, wrapped under the wall key, as an entry of the armature's log (R179, R273,
log 211). -/
def State.linkUp (s : State) (l : LinkRec) (secret : Bytes) : State :=
  let s1 := s.putLink { l with accepted := true, secret := none }
  match s.wallKey with
  | some wk => (s1.propose (.linkKey l.keyspace (keyWrap wk (linkKeyOf l secret)))).lead_
  | none => s1

/-- The other wall's leader is who it says: its certificate verifies to the manufacturing root with the public key `certKey`, and its
signature holds under that key (R273). -/
def linkSound (r : ReplLink) (certKey : Option Bytes) : Bool := certKey.any (fun pub => ecVerify pub (linkSigned r) r.signature)

/-- LINK_REFUSED to the brick that a link message came from (R273). -/
def State.refuseLink (s : State) (h : MHead) (l : LinkRec) : State :=
  s.mortarOut .w0 (farPeer h.src) h.srcW (.replLink (linkMsg .linkRefused l 0 0 0))

/-- LINK_OFFER at the remote wall's leader: device certificate, signature and wall ids against the policy (R273). -/
def State.linkOffer (s : State) (h : MHead) (r : ReplLink) (certKey : Option Bytes) : State :=
  let l : LinkRec :=
    { keyspace := r.keyspace, sourceWall := r.sourceWall, remoteWall := r.remoteWall, accepted := false, lastShip := s.now,
      applied := 0, peer := farPeer h.src, peerW := h.srcW, secret := none }
  let e := scalarOf (freeBytes s.fresh 48)
  let ok := linkSound r certKey && r.remoteWall = s.wallId
    && (s.keyspace r.keyspace).any (fun k => k.role = .secondary && k.linkWall = r.sourceWall)
  match (if ok then sharedSecret e r.ephemeral else none) with
  | some x => (((s.drawn 48).linkHello .linkAccept l e).linkUp l x)
  | none => s.refuseLink h l

/-- LINK_ACCEPT at the source wall's leader (R273). -/
def State.linkAccept (s : State) (h : MHead) (r : ReplLink) (certKey : Option Bytes) : State :=
  match s.link r.keyspace with
  | none => s
  | some l =>
    let ok := linkSound r certKey && r.sourceWall = s.wallId
      && (s.keyspace r.keyspace).any (fun k => k.role = .primary && k.linkWall = r.remoteWall)
    match (if ok then l.secret.bind (fun e => sharedSecret e r.ephemeral) else none) with
    | some x => (s.linkUp { l with peer := farPeer h.src, peerW := h.srcW } x).nextShip r.keyspace
    | none => s.refuseLink h l

/-! ### Casts that ship (R274, R276) -/

/-- CAST_BEGIN: the remote leader notes the cast; a home of the source wall offers its partitions (R274, R275). -/
def State.castBegin (s : State) (r : ReplLink) : State :=
  let new : ShipRec :=
    { keyspace := r.keyspace, sourceCast := r.sourceCast, time := r.castTime, begun := true, applied := false, staged := [] }
  let has := s.refs.ships.any (fun x => x.keyspace = r.keyspace && x.sourceCast = r.sourceCast)
  let s1 := if has then s else s.modRefs (fun f => { f with ships := f.ships ++ [new] })
  if r.sourceWall = s.wallId then s1.offerAll new else s1

/-- CAST_APPLIED: the hold of the previously applied cast ends, and the next cast ships (R274, R276). -/
def State.castApplied (s : State) (r : ReplLink) : State :=
  let s1 := s.modRefs (fun f => { f with
    ships := (f.ships.filter (fun x => !(x.keyspace = r.keyspace && x.applied))).map (fun x =>
      if x.keyspace = r.keyspace && x.sourceCast = r.sourceCast then { x with applied := true } else x) })
  let s2 := if s.wall.arm.role = .leader then (s1.tellHomes r).nextShip r.keyspace else s1
  s2.gcKeyspace r.keyspace

/-- REPL_LINK (R273, R274, R276, R277): an offer or an answer reaches the leader, with the header of the brick that sent it (log 221); a cast
applied twice counts once. -/
def State.doReplLink (s : State) (h : MHead) (r : ReplLink) (certKey : Option Bytes) : State :=
  let mine := r.sourceWall = s.wallId || r.remoteWall = s.wallId
  let far := s.noteFar h.src h.addr
  if !mine then s
  else match r.kind with
    | .linkOffer => if s.wall.arm.role = .leader then far.linkOffer h r certKey
      else match s.wall.arm.leader with
        | some l => if l = s.myId then s else s.mortarOut .w0 l .w0 (.linkForward h r)
        | none => s
    | .linkAccept => if s.wall.arm.role = .leader then far.linkAccept h r certKey else s
    | .linkRefused => s.modRefs (fun f => { f with links := f.links.filter (fun l => l.keyspace ≠ r.keyspace) })
    | .castBegin => s.castBegin r
    | .castApplied =>
      if s.refs.ships.any (fun x => x.keyspace = r.keyspace && x.sourceCast = r.sourceCast && !x.applied) then s.castApplied r else s

/-- REPL_LINK. -/
def execReplLink (w : Wy) (h : MHead) (r : ReplLink) (certKey : Option Bytes) (s : State) : Host.Outcome State Fault Refusal :=
  .next (s.mortarAny w h (fun s => s.doReplLink h r certKey))

/-- Offer a link to the contact address of its policy (R272, R273). -/
def State.offerLink (s : State) (l : LinkRec) (contact : BitVec 128) (e : Nat) : State :=
  (s.noteFar 0x8000 contact).linkHello .linkOffer { l with peer := farPeer 0x8000, peerW := .w0 } e

/-- SHIP_INTERVAL: the source leader takes a replication cast, or skips it with a NOTICE when the keyspace holds 1,024 casts (R274);
without a link it offers one first (R273). -/
def execShipInterval (keyspace : BitVec 32) (s : State) : Host.Outcome State Fault Refusal :=
  match s.keyspace keyspace with
  | none => .next s
  | some k =>
    if s.wall.arm.role ≠ .leader || k.role ≠ .primary then .next s
    else match s.link keyspace with
      | none =>
        let l : LinkRec :=
          { keyspace := keyspace, sourceWall := s.wallId, remoteWall := k.linkWall, accepted := false, lastShip := s.now,
            applied := 0, peer := farPeer 0x8000, peerW := .w0, secret := none }
        .next ((s.drawn 48).offerLink l k.linkContact (scalarOf (freeBytes s.fresh 48)))
      | some l =>
        if !l.accepted then .next ((s.drawn 48).offerLink l k.linkContact (scalarOf (freeBytes s.fresh 48)))
        else if !s.since l.lastShip (sec k.shipS) then .next s
        else
          let s1 := s.putLink { l with lastShip := s.now }
          if s1.castsFull keyspace then .next (s1.recordOpen 1 1 (.mtr .w0) (leBytes 4 keyspace.toNat))
          else
            let t := s1.hybrid .w0
            let id := s1.nextCastId
            let new : ShipRec :=
              { keyspace := keyspace, sourceCast := id, time := t, begun := false, applied := false, staged := [] }
            .next (((s1.modRefs (fun f => { f with ships := f.ships ++ [new] })).propose (.castNew id keyspace t s1.myId 0)).lead_)

/-- REPL_NEED at the source home (R275): each record that it does not read already is read and decrypted, and its stored bytes go out
sealed under the link key. -/
def State.doReplNeed (s : State) (h : MHead) (p sourceCast : Nat) (fps : List Bytes) : State :=
  let ents := s.store.index.flatMap (fun x => if partOf x.keyspace x.key = p then
    x.versions.flatMap (fun v => v.chunks.map (fun e => (x.keyspace, e))) else [])
  let dest : ShipTo := { p := p, sourceCast := sourceCast, dst := farPeer h.src, dstW := h.srcW }
  fps.foldl (fun s fp =>
    match ents.find? (fun e => e.2.fp = fp) with
    | none => s
    | some e => if s.stripes.repairs.any (fun r => r.ship = some dest && r.ent = e.2) then s else s.startShip (s.holder p) e.1 e.2 dest) s

/-- REPL_NEED. -/
def execReplNeed (w : Wy) (h : MHead) (p sourceCast seq : Nat) (fps : List Bytes) (s : State) :
    Host.Outcome State Fault Refusal :=
  let _ := seq
  .next (s.mortarAny w h (fun s => (s.noteFar h.src h.addr).doReplNeed h p sourceCast fps))

/-! ### The remote home (R275-R277) -/

/-- Bytes of another wall's record, opened under the link key, take an encryption job of priority 3 under this wall's own key version
(R166, R183, R275). -/
def State.land (s : State) (w : Wy) (x : StagedRec) (chunk : Nat) (key : Option Nat) (fp : Bytes) (plain : Nat) (codec : Codec)
    (data aad : Bytes) : State :=
  let n := s.refs.lands.foldl (fun a r => max a (r.n + 1)) 0
  let s1 := s.modRefs (fun r => { r with
    lands := r.lands ++ [{ n := n, w := w, p := x.p, keyspace := x.keyspace, requestId := stagedRid x, chunk := chunk, key := key, fp := fp,
                           plain := plain, codec := codec, body := [], sentAt := s.now }] })
  s1.queueCrypt w (.land n) ((s1.leastLoaded w .crypt courses).getD 0) true x.keyspace 0 3 data aad [] []

/-- The inline value of an offered key is opened under the link key and lands; one whose tag fails never does. -/
def State.landInline (s : State) (w : Wy) (x : StagedRec) (i : Nat) (k : OfferKey) : State :=
  let n := k.sealed.length - 28
  match s.linkKey x.keyspace with
  | none => s
  | some link =>
    let r := gcmOpen link (k.sealed.take 12) [] (sliceBytes k.sealed 12 n) (k.sealed.drop (12 + n))
    if r.2 then s.land w x 0 (some i) [] k.length .stored r.1 (inlineAad x.keyspace k.length k.key) else s

/-- The answer to an offer that is staged already: the highest offer that the partition has staged without a gap (R277, R278). -/
def State.stagedThrough (s : State) (w : Wy) (h : MHead) (x : StagedRec) : State :=
  let mine := s.refs.staged.filter (fun y => y.p = x.p && y.sourceCast = x.sourceCast && y.staged)
  let top := (List.range mine.length).foldl (fun a _ => if mine.any (fun y => y.offer = a + 1) then a + 1 else a) x.offer
  s.mortarOut w (farPeer h.src) h.srcW (.replStaged x.p x.sourceCast top (mine.any (fun y => y.offer = top && y.last)))

/-- REPL_OFFER at the remote home: PROBE entries for its fingerprints, or the staged record's answer once more (R275, R277). -/
def State.doReplOffer (s : State) (w : Wy) (h : MHead) (p : Nat) (last : Bool) (ks : BitVec 32) (sourceCast seq : Nat)
    (keys : List OfferKey) : State :=
  if !s.isHome p || !(s.keyspace ks).any (fun k => k.role = .secondary) then s
  else match s.refs.staged.find? (fun x => x.p = p && x.sourceCast = sourceCast && x.offer = seq) with
    | some x => if x.staged then s.stagedThrough w h x else s
    | none =>
      let asked := keys.flatMap (fun k => k.recipe.map (fun e => e.fp))
      let x : StagedRec :=
        { p := p, keyspace := ks, sourceCast := sourceCast, offer := seq, last := last, keys := keys, asked := asked,
          unprobed := List.range asked.length, need := [], places := [], src := farPeer h.src, inlines := [],
          record := none, wait := [], staged := false }
      let s0 := s.modRefs (fun r => { r with staged := r.staged ++ [x] })
      let s1 := keys.zipIdx.foldl (fun s k => if k.1.sealed = [] then s else s.landInline w x k.2 k.1) s0
      let probes := asked.zipIdx.map (fun e =>
        ({ fp := e.1, kind := .probe, chunk := e.2, requestId := stagedRid x, fragId := 0 } : DeltaEntry))
      (s1.addDeltas p probes).stagedDone w x

/-- REPL_OFFER. -/
def execReplOffer (w : Wy) (h : MHead) (p : Nat) (last : Bool) (keyspace : BitVec 32) (sourceCast seq : Nat) (keys : List OfferKey)
    (s : State) : Host.Outcome State Fault Refusal :=
  .next (s.mortarAny w h (fun s => (s.noteFar h.src h.addr).doReplOffer w h p last keyspace sourceCast seq keys))

/-- REPL_CHUNK at the remote home (R275, R278): opened under the link key, it is re-encrypted under this wall's own key version and sent to
the lead of its group, once for each recipe entry that needs it. One whose tag fails is dropped. -/
def State.doReplChunk (s : State) (w : Wy) (p sourceCast plain : Nat) (codec : Codec) (fp iv sealed : Bytes) : State :=
  let stored := sealed.length - 16
  (s.refs.staged.filter (fun x => x.p = p && x.sourceCast = sourceCast && !x.staged)).foldl (fun s x =>
    match s.linkKey x.keyspace with
    | none => s
    | some link =>
      let r := gcmOpen link iv (shipAad p sourceCast plain stored codec fp) (sealed.take stored) (sealed.drop stored)
      if !r.2 then s
      else (x.need.filter (fun n => x.asked[n]? = some fp && !s.refs.lands.any (fun y =>
          y.p = p && y.requestId = stagedRid x && y.chunk = n && y.key.isNone))).foldl (fun s n =>
        s.land w x n none fp plain codec r.1 (chunkAad x.keyspace stored plain fp)) s) s

/-- REPL_CHUNK. -/
def execReplChunk (w : Wy) (h : MHead) (p sourceCast plain : Nat) (codec : Codec) (fp iv sealed : Bytes) (s : State) :
    Host.Outcome State Fault Refusal :=
  .next (s.mortarAny w h (fun s => s.doReplChunk w p sourceCast plain codec fp iv sealed))

/-- REPL_STAGED at the source home: the next offer of the partition follows (R275, R277). -/
def State.nextOffer (s : State) (p sourceCast seq : Nat) (all : Bool) : State :=
  match s.shipsNow.find? (fun x => x.sourceCast = sourceCast) with
  | some x => if all || !(s.partSt p).any (fun y => y.opened && !y.fenced) then s else s.offerPart x p (seq + 1)
  | none => s

/-- REPL_STAGED at the remote leader: when every partition has answered STAGED_ALL, the cast is committed in one entry (R276). -/
def State.doReplStaged (s : State) (p sourceCast : Nat) (all : Bool) : State :=
  if s.wall.arm.role ≠ .leader || !all then s
  else match s.refs.ships.find? (fun x => x.sourceCast = sourceCast && !x.applied
      && s.refs.links.any (fun l => l.keyspace = x.keyspace && l.remoteWall = s.wallId)) with
    | none => s
    | some x =>
      let staged := if x.staged.contains p then x.staged else x.staged ++ [p]
      let s1 := s.modRefs (fun f => { f with ships := updFirst (fun y => y = x) (fun y => { y with staged := staged }) f.ships })
      if staged.length < 65536 || x.staged.contains p then s1
      else (s1.propose (.castApplied s1.nextCastId x.keyspace x.time sourceCast)).lead_

/-- REPL_STAGED. -/
def execReplStaged (w : Wy) (h : MHead) (p sourceCast seq : Nat) (all : Bool) (s : State) : Host.Outcome State Fault Refusal :=
  .next (s.mortarAny w h (fun s => (s.nextOffer p sourceCast seq all).doReplStaged p sourceCast all))

/-! ### RANGE_DATA, by what asked for it (R159-R162, R239, R243, R255) -/

/-- RANGE_DATA at the brick that asked: the cookie names what for (R252). -/
def State.doRangeData (s : State) (w : Wy) (src f off : Nat) (st : RStatus) (holder cookie : Nat) (bytes : Bytes) : State :=
  let kind := cookie / 2 ^ 56
  if kind ≤ 1 then s.rangeToRead w src f off st holder cookie bytes
  else if kind = 2 then s.repairData src (cookie % 2 ^ 56) f off st holder bytes
  else if kind = 3 then s.moveData w src f st bytes
  else if kind = 4 then (if st = .ok then s.pullData w src f off bytes else s)
  else if kind = 5 then s.recountData f st bytes
  else if kind = 6 then s.rebuildData w src f off st holder bytes
  else s

/-- RANGE_DATA. -/
def execRangeData (w : Wy) (h : MHead) (fragId offset length : Nat) (st : RStatus) (holder cookie : Nat) (bytes : Bytes)
    (s : State) : Host.Outcome State Fault Refusal :=
  .next (s.mortarIn w h (.rangeData w h fragId offset length st holder cookie bytes)
    (fun s => s.doRangeData w h.src fragId offset st holder cookie bytes))

/-! ### Messages that waited for a newer epoch (R213) -/

/-- The state that an outcome leaves. -/
def nextOf (s : State) : Host.Outcome State Fault Refusal → State
  | .next t => t
  | _ => s

/-- Handle a message that was held: none but the epoch-checked types is held. -/
def State.runHeld (s : State) (i : Instr) : State :=
  match i with
  | .chunkAck w h g p r rid c pl => nextOf s (execChunkAck w h g p r rid c pl s)
  | .indexPut w h p e c r => nextOf s (execIndexPut w h p e c r s)
  | .indexAck w h p e v b => nextOf s (execIndexAck w h p e v b s)
  | .rangeData w h f o l st hd c b => nextOf s (execRangeData w h f o l st hd c b s)
  | .partCollect w h p e => nextOf s (execPartCollect w h p e s)
  | .partRecords w h p e c l => nextOf s (execPartRecords w h p e c l s)
  | .partHandover w h p e hl c => nextOf s (execPartHandover w h p e hl c s)
  | .closedTime w h p e c => nextOf s (execClosedTime w h p e c s)
  | .castRequest w h ks t rid => nextOf s (execCastRequest w h ks t rid s)
  | .castAnnounce w h id ks t => nextOf s (execCastAnnounce w h id ks t s)
  | .castConfirm w h id b => nextOf s (execCastConfirm w h id b s)
  | .castDone w h id st t rid => nextOf s (execCastDone w h id st t rid s)
  | .castDropReq w h id ks rid => nextOf s (execCastDropReq w h id ks rid s)
  | .chunkPut w h g p rid c b => nextOf s (execChunkPut w h g p rid c b s)
  | .journalCopy w h st o l j b => nextOf s (execJournalCopy w h st o l j b s)
  | .journalAck w h st o a => nextOf s (execJournalAck w h st o a s)
  | .stripeSeal w h st f c g d l t => nextOf s (execStripeSeal w h st f c g d l t s)
  | .fragPut w h f b => nextOf s (execFragPut w h f b s)
  | .fragAck w h f g a => nextOf s (execFragAck w h f g a s)
  | .sealCommit w h st g => nextOf s (execSealCommit w h st g s)
  | .rangeRead w h f o l b p c => nextOf s (execRangeRead w h f o l b p c s)
  | .stripeListReq w h g p f m => nextOf s (execStripeListReq w h g p f m s)
  | .stripeList w h g p b l => nextOf s (execStripeList w h g p b l s)
  | .journalStateReq w h g st => nextOf s (execJournalStateReq w h g st s)
  | .journalState w h j => nextOf s (execJournalState w h j s)
  | .lostReport w h st o l f b => nextOf s (execLostReport w h st o l f b s)
  | .fragRelease w h f hd => nextOf s (execFragRelease w h f hd s)
  | .refDelta w h p hm g a b q l e => nextOf s (execRefDelta w h p hm g a b q l e s)
  | .refAck w h p g r q m f => nextOf s (execRefAck w h p g r q m f s)
  | .refQuery w h p g rid c => nextOf s (execRefQuery w h p g rid c s)
  | .refAnswer w h p g rid c b => nextOf s (execRefAnswer w h p g rid c b s)
  | .indexSyncReq w h g o l => s.mortarIn w h (.indexSyncReq w h g o l) (fun s => s.doIndexSyncReq w h g o l)
  | .indexSync w h g b o t i => nextOf s (execIndexSync w h g b o t i s)
  | .stripeThin w h st a b l d => nextOf s (execStripeThin w h st a b l d s)
  | .thinData w h f g u => nextOf s (execThinData w h f g u s)
  | .thinAck w h f g r => nextOf s (execThinAck w h f g r s)
  | .thinCommit w h st g b => nextOf s (execThinCommit w h st g b s)
  | _ => s

/-- The membership epoch in the header of a held message. -/
def heldEpoch (i : Instr) : Option Nat :=
  match i with
  | .chunkAck _ h .. | .indexPut _ h .. | .indexAck _ h .. | .rangeData _ h .. | .partCollect _ h .. | .partRecords _ h ..
  | .partHandover _ h .. | .closedTime _ h .. | .castRequest _ h .. | .castAnnounce _ h .. | .castConfirm _ h .. | .castDone _ h ..
  | .castDropReq _ h .. | .chunkPut _ h .. | .journalCopy _ h .. | .journalAck _ h .. | .stripeSeal _ h .. | .fragPut _ h ..
  | .fragAck _ h .. | .sealCommit _ h .. | .rangeRead _ h .. | .stripeListReq _ h .. | .stripeList _ h .. | .journalStateReq _ h ..
  | .journalState _ h .. | .lostReport _ h .. | .fragRelease _ h .. | .refDelta _ h .. | .refAck _ h .. | .refQuery _ h ..
  | .refAnswer _ h .. | .indexSyncReq _ h .. | .indexSync _ h .. | .stripeThin _ h .. | .thinData _ h .. | .thinAck _ h ..
  | .thinCommit _ h .. => some h.epoch
  | _ => none

/-- A copy of a group's state has ended: what was queued while it ran is applied in its order (R254). -/
def State.releaseSync (s : State) (g : Nat) : State :=
  if (s.groupRec g).syncing ≠ [] then s
  else (s.syncQueue.filter (fun x => x.1 = g)).foldl (fun s x => s.runHeld x.2) { s with syncQueue := s.syncQueue.filter (fun x => x.1 ≠ g) }

/-- Handle the held messages whose epoch this brick has reached (R213); one of them may have ended the copy of a group's state. -/
def State.releaseHeld (s : State) : State :=
  let due := fun x : Nat × Wy × Instr => (heldEpoch x.2.2).any (fun e => e ≤ s.wall.epoch)
  let s1 := (s.heldMortar.filter due).foldl (fun s x => s.runHeld x.2.2) { s with heldMortar := s.heldMortar.filter (fun x => !due x) }
  ((s1.syncQueue.map (fun x => x.1)).eraseDups).foldl (fun s g => s.releaseSync g) s1

/-- INDEX_SYNC_REQ. -/
def execIndexSyncReq (w : Wy) (h : MHead) (group offset length : Nat) (s : State) : Host.Outcome State Fault Refusal :=
  .next (s.mortarIn w h (.indexSyncReq w h group offset length) (fun s => (s.doIndexSyncReq w h group offset length).releaseSync group))

/-- A home of the source wall that has just got a link key offers its partitions for the cast that ships, which it could not do before
(R275). -/
def State.offerLate (old s : State) : State :=
  let new := s.refs.linkKeys.filter (fun k => (old.linkKey k.1).isNone)
  (s.shipsNow.filter (fun x => new.any (fun k => k.1 = x.keyspace))).foldl (fun s x => s.offerAll x) s

/-- STATE_DATA (R213). -/
def execStateData (w : Wy) (h : MHead) (obj : StateObj) (status version offset len total : Nat) (payload : Option StatePayload)
    (s : State) : Host.Outcome State Fault Refusal :=
  let _ := version
  let _ := total
  .next (s.mortarAny w h (fun s => (State.offerLate s (s.doStateData w h obj status offset len payload)).releaseHeld))

end Sys2Proof.Machine
end

