-- ==== Sys2Proof/Machine/MediaRows.lean ====
section
/-! DEFINITION. What happens in the media (10-12): rounds that close, die operations that end, folding, the SLC share, the map's
flushes and checkpoints, collection, patrol, calibration, ages, rebuilds, chisel requests and channel ownership. -/

namespace Sys2Proof.Machine

/-! ### Retirement and degraded channels (R308, R326-R328) -/

/-- Dies of a set whose spare allowance is used up (R327). -/
def State.retireSpent (s : State) (i : Nat) : State :=
  (s.media.dies.filter (fun e => setOf (e.1 / 32) = i && e.2.spares = 0 && !e.2.retired)).foldl (fun s e => s.retireDie e.1 1) s

/-- The channel for a lost anchor copy: 32s + 8 or 32s + 24, whichever is available first (R308). -/
def State.spareChan (s : State) (i : Nat) : Option Nat :=
  [32 * i + 8, 32 * i + 24].find? (fun c => !(s.chan c).degraded && !(s.set_ i).rebuildCh.contains c)

/-- One anchor channel fails (R308). -/
def State.loseAnchor (s : State) (i c : Nat) : State :=
  if !(s.anchorChans i).contains c then s
  else
    let w := s.setWy i
    let s1 := s.modSet i (fun x => { x with
      copyA := x.copyA && c ≠ 32 * i
      copyB := x.copyB && c ≠ 32 * i + 16
      rebuildCh := x.rebuildCh.filter (· ≠ c)
      lostAt := some s.now })
    let s2 := ((s1.event (.med w) MED_EVT_ANCHOR_SINGLE).medBits w).recordOpen (srcOf w) 2 (.med w) (leBytes 4 c)
    match s2.spareChan i with
    | some n => s2.modSet i (fun x => { x with rebuildCh := x.rebuildCh ++ [n] })
    | none => s2.recordOpen (srcOf w) 2 (.med w) (leBytes 4 i)

/-- A channel is marked DEGRADED: treated as the retirement of its 32 dies (R328); its page becomes BYPASSED (R513). -/
def State.degradeChan (s : State) (c : Nat) : State :=
  if (s.chan c).degraded then s
  else
    let i := setOf c
    let s0 := (s.setUnit (chnPage c) .bypassed).setRfld (chnPage c) PAGE_CTRL 2 2 1
    let s1 := (s0.modChan c (fun x => { x with degraded := true })).loseAnchor i c
    let s2 := s1.anchorRec i (.channelState c true false)
    (s2.modSet i (fun x => { x with dieRebuild := x.dieRebuild ++ (List.range 32).map (fun d => c * 32 + d) })).earlyWarn 8 2 c
      (leBytes 4 c)

/-! ### Emptied superblocks (R300, R315, R323, R324) -/

/-- Every change to the map but those of journal segments themselves is durable in a segment (R300, R324). -/
def settled (x : SetSt) : Bool :=
  x.unflushed.all (fun r => r.typ = 3) && x.segs.all (fun g => g.durable || g.recs.all (fun r => r.typ = 3))

/-- The live units of one stripe of a round (R311). -/
def liveIn (x : SetSt) (b : SuperBlk) (r : Round) (j : Nat) : Nat :=
  (x.map.filter (fun e => !e.hole && e.sb = b.id && e.msn = r.msns.getD j 0)).foldl (fun a e => a + e.count) 0

/-- A stripe is the source of a fold that runs. -/
def beingFolded (x : SetSt) (sb wl j : Nat) : Bool :=
  x.sbs.any (fun c => c.rounds.any (fun q => q.st = .programming && q.srcs.contains (sb, wl * 16 + j)))

/-- Every stripe of an SLC superblock has been folded or freed (R323). -/
def slcEmpty (x : SetSt) (b : SuperBlk) : Bool :=
  b.rounds.all (fun r => r.st ≠ .filling && r.st ≠ .programming
    && (r.st = .failed || (List.range (stripesOf b)).all (fun j =>
      !beingFolded x b.id r.wl j && (b.emptied.contains (r.wl, j) || liveIn x b r j = 0))))

/-- The superblocks to erase now: SLC superblocks emptied by fold, freeing or a checkpoint, and collected QLC superblocks, once the
records are durable (R300, R315, R323, R324). -/
def emptied (x : SetSt) : List (SuperBlk × Nat) :=
  if !settled x then []
  else x.sbs.filterMap (fun b =>
    if !b.closed || b.erasing ≠ [] then none
    else if b.qlc then (if b.copying && liveUnits x b.id = 0 then some (b, 1) else none)
    else if slcEmpty x b then some (b, if b.stream = .slcJournal then 3 else 2) else none)

/-- Units that waited for erased blocks try again (R297). -/
def State.placeWaiting (s : State) (i : Nat) : State :=
  (s.set_ i).waiting.foldl (fun s e => s.placeUnits i e.1 e.2.1 e.2.2) (s.modSet i (fun x => { x with waiting := [] }))

/-- A superblock in which a program failed closes SHORT once none of its programs is left (R325). -/
def State.closeShort (s : State) (i : Nat) : State :=
  ((s.set_ i).sbs.filter (fun b => !b.closed && b.failed ≠ [] && !s.media.jobs.any (fun j =>
    match j.what with
    | .round k sb _ => k = i && sb = b.id
    | _ => false))).foldl (fun s b => s.closeSb i b.id true) s

/-- What follows a change of a set's rounds or blocks: superblocks close, emptied ones are erased, spent dies retire, and
acknowledgements that waited for durability go out (R289, R293, R316, R323-R327). -/
def State.settleSet (s : State) (i : Nat) : State :=
  let s1 := (s.closeFull i).closeShort i
  let s2 := (emptied (s1.set_ i)).foldl (fun s e => s.eraseSb i e.1 e.2) s1
  (((s2.reserveStep i).retireSpent i).fragsDone).thinsDone

/-! ### ROUND_CLOSE (R288) -/

/-- ROUND_CLOSE: ROUND_CLOSE ms after the first unit of a round was placed (R288). A round whose last position is filled has closed
at once. -/
def execRoundClose (i : Fin 2) (sb : Nat) (s : State) : Host.Outcome State Fault Refusal :=
  .next (match s.sb i.val sb with
    | none => s
    | some b =>
      match b.rounds.find? (fun r => r.st = .filling) with
      | none => s
      | some r =>
        if s.since r.firstAt (ms (s.afld (.med (s.setWy i.val)) MED_WRITE_CTRL 12 8)) then s.closeRound i.val sb else s)

/-! ### Folding (R298-R300) -/

/-- Put an element in its place of a sorted list. -/
def insertBy {α : Type} (le : α → α → Bool) (x : α) : List α → List α
  | [] => [x]
  | y :: rest => if le x y then x :: y :: rest else y :: insertBy le x rest

/-- Sort a list, equal elements in their order. -/
def sortBy {α : Type} (le : α → α → Bool) (l : List α) : List α := l.foldr (insertBy le) []

/-- A stripe of an SLC round: its superblock, its round and its number in the round. -/
abbrev FoldStripe := SuperBlk × Round × Nat

/-- The units of a stripe, pads included. -/
def stripeRefs (x : FoldStripe) : List UnitRef :=
  (List.range (stripeUnits x.1)).map (fun k => x.2.1.units.getD (x.2.2 * stripeUnits x.1 + k) padUnit)

/-- The stripes that fold may take: durable, of fragments or index runs, not all dead, not folded yet; the oldest first by
WRITE_SEQ (R298). -/
def foldable (x : SetSt) : List FoldStripe :=
  sortBy (fun a b => a.2.1.seq ≤ b.2.1.seq) ((x.sbs.filter (fun b => b.stream = .slcFrag || b.stream = .slcIndex)).flatMap (fun b =>
    (b.rounds.filter (fun r => r.st = .durable)).flatMap (fun r =>
      ((List.range 4).filter (fun j =>
        !b.emptied.contains (r.wl, j) && !beingFolded x b.id r.wl j && liveIn x b r j ≠ 0)).map (fun j => (b, r, j)))))

/-- The 16 oldest stripes of one die row, the row of the oldest stripe first (R298). -/
def foldPick (l : List FoldStripe) : Option (List FoldStripe) :=
  (l.find? (fun e => decide (16 ≤ (l.filter (fun y => y.1.row = e.1.row)).length))).map (fun e =>
    (l.filter (fun y => y.1.row = e.1.row)).take 16)

/-- The CH_FOLD source entry of a die for a stripe: an SLC stripe j lies on plane j (R286, R345). -/
def foldSrc (die : Nat) (pos : Nat) (x : FoldStripe) : FoldSrc :=
  let blocks := ((x.1.blocks.find? (fun e => e.1 = die)).map (fun e => e.2)).getD []
  { block := blocks.getD x.2.2 0, page := x.2.1.wl, plane := x.2.2,
    parity := decide (x.2.1.msns.getD x.2.2 0 % x.1.dies.length = pos) }

/-- A fold round: CH_FOLD on every member die of a QLC superblock with the stripes' members (R299). -/
def State.foldInto (s : State) (i : Nat) (dst : SuperBlk) (src : List FoldStripe) : State :=
  let w := s.setWy i
  let s1 := s.takeSeq i
  let r : Round :=
    { wl := dst.nextWl, seq := (s1.set_ i).seqNext - 1, time := s.hybrid w, msns := src.map (fun e => e.2.1.msns.getD e.2.2 0),
      cls := 3, firstAt := s.now, units := src.flatMap stripeRefs, st := .programming, wait := dst.dies, folded := true,
      srcs := src.map (fun e => (e.1.id, e.2.1.wl * 16 + e.2.2)) }
  let s2 := s1.modSb i dst.id (fun b => { b with rounds := b.rounds ++ [r], nextWl := b.nextWl + 1 })
  dst.dies.zipIdx.foldl (fun s e =>
    let entries := src.map (foldSrc e.1 e.2)
    let tags := (entries.zipIdx.filter (fun x => x.1.parity)).flatMap (fun x =>
      (List.range 4).map (fun k => s.memberCw i dst r x.2 e.2 k))
    let blocks := ((dst.blocks.find? (fun x => x.1 = e.1)).map (fun x => x.2)).getD []
    let q := roundReq dst r e.1 tags entries
    s.submit w .fold { q with erases := min (s.blk (blkKey e.1 0 (blocks.getD 0 0))).erases 0xFFFF } (.round i dst.id r.seq)) s2

/-- The open QLC superblock of a row for folds, its filling round closed first; one is opened when there is none. -/
def State.foldDst (s : State) (i row : Nat) : Option (State × SuperBlk) :=
  let ok := fun b : SuperBlk => b.stream = .qlcFold && b.row = row && !b.closed && b.failed = [] && b.nextWl < 1024
  match (s.set_ i).sbs.find? ok with
  | some b =>
    let s1 := s.closeRound i b.id
    (s1.sb i b.id).map (fun b => (s1, b))
  | none => (s.openSb i row .qlcFold).bind (fun s1 => ((s1.set_ i).sbs.find? ok).map (fun b => (s1, b)))

/-- Fold stripes of one row: those whose members are the destination's through CH_FOLD, others as new writes of their live
units (R299). -/
def State.foldSome (s : State) (i : Nat) (l : List FoldStripe) : State :=
  match l with
  | [] => s
  | e :: _ =>
    match s.foldDst i e.1.row with
    | none => s
    | some (s1, dst) =>
      let other := l.filter (fun e => e.1.dies ≠ dst.dies)
      if other = [] then s1.foldInto i dst l
      else
        let live := fun (u : UnitRef) => (s1.set_ i).map.any (fun m => m.typ = u.typ && m.owner = u.owner && m.gen = u.gen
          && m.unit ≤ u.unit && u.unit < m.unit + m.count && !m.hole)
        s1.placeUnits i .qlcFold 3 ((other.flatMap stripeRefs).filter (fun u => u.typ ≠ 5 && live u))

/-- FOLD_ROUND: with FOLD_EN set and fold tokens free, 16 stripes of one row go to QLC (R298). -/
def execFoldRound (i : Fin 2) (s : State) : Host.Outcome State Fault Refusal :=
  .next (if s.afld (.med (s.setWy i.val)) MED_WRITE_CTRL 1 1 = 0 then s
    else match foldPick (foldable (s.set_ i.val)) with
      | none => s
      | some l => (s.foldSome i.val l).settleSet i.val)

/-! ### The end of a die operation -/

/-- A member die of a round has returned DONE; with the last the round is durable (R289). -/
def State.roundMember (s : State) (i sb seq die : Nat) : State :=
  match (s.sb i sb).bind (fun b => b.rounds.find? (fun r => r.seq = seq && r.st = .programming)) with
  | none => s
  | some r =>
    let left := r.wait.filter (· ≠ die)
    let s1 := s.modRound i sb r.wl (fun r => { r with wait := left })
    if left = [] then
      match s1.sb i sb with
      | some b => s1.roundDurable i b { r with wait := [] }
      | none => s1
    else s1

/-- The stripes that a fold round was copying. -/
def srcStripes (x : SetSt) (r : Round) : List FoldStripe :=
  r.srcs.filterMap (fun e =>
    (x.sbs.find? (fun b => b.id = e.1)).bind (fun b =>
      (b.rounds.find? (fun q => q.wl = e.2 / 16)).map (fun q => (b, q, e.2 % 16))))

/-- A member die has returned PROGRAM_FAIL (R289, R325): the superblock takes no further round, and the data of the round, of any later
round not durable and of a round still filling is written again. -/
def State.roundFailed (s : State) (i sb seq die : Nat) : State :=
  match s.sb i sb with
  | none => s
  | some b =>
    match b.rounds.find? (fun r => r.seq = seq && r.st ≠ .filling) with
    | none => s
    | some r =>
      let s0 := s.modSb i sb (fun b => { b with failed := b.failed ++ [die] })
      if r.st ≠ .programming then s0
      else
        let hit := fun q : Round => q.st = .programming && r.wl ≤ q.wl
        let lost := b.rounds.filter (fun q => q.st = .filling || hit q)
        let s1 := s0.modSb i sb (fun b => { b with
          rounds := (b.rounds.filter (fun q => q.st ≠ .filling)).map (fun q => if hit q then { q with st := .failed } else q) })
        let s2 := (s1.bumpBy (.med (s.setWy i)) MED_CNT_ROUND_FAIL (b.rounds.filter hit).length).event (.med (s.setWy i))
          MED_EVT_ROUND_FAIL
        lost.foldl (fun s q =>
          if q.folded then s.foldSome i (srcStripes (s.set_ i) q)
          else s.placeUnits i b.stream q.cls (q.units.filter (fun u => u.typ ≠ 5))) s2

/-- An erase of a superblock's die has ended (R301, R326). -/
def State.eraseEnd (s : State) (i sb : Nat) (j : ChJob) (bad : List Nat) : State :=
  let d := reqDie j.req
  let s2 := s.blocksErased i j bad
  let s3 := s2.modSb i sb (fun b => { b with erasing := b.erasing.filter (· ≠ d) })
  let done := ((s2.sb i sb).map (fun b => b.erasing.contains d && (b.erasing.filter (· ≠ d)) = [])).getD false
  let s4 := if done then s3.modSet i (fun x => { x with sbs := x.sbs.filter (fun b => b.id ≠ sb) }) else s3
  s4.placeWaiting i

/-- The issuer goes on with a result (R289, R301, R326, R327). -/
def State.chDone (s : State) (j : ChJob) (e : DieEnd) : State :=
  let i := setOf j.req.channel
  let s1 := match j.what, e.result with
    | .round i sb seq, .done => s.roundMember i sb seq (reqDie j.req)
    | .round i sb seq, .programFail => s.roundFailed i sb seq (reqDie j.req)
    | .erase i sb _, .done => s.eraseEnd i sb j []
    | .erase i sb _, .eraseFail => s.eraseEnd i sb j (failedPlanes e.detail)
    | .eraseOnly i, .done => (s.freeErased i j []).placeWaiting i
    | .eraseOnly i, .eraseFail => (s.freeErased i j (failedPlanes e.detail)).placeWaiting i
    | .unitRead id n m, _ => s.unitReadEnd id n m j e
    | _, _ => s
  let s2 := if j.routine = .dieReset && 2 ≤ (s1.die (reqDie j.req)).fails then s1.retireDie (reqDie j.req) 2 else s1
  let s3 := if j.routine = .readRetry then s2.noteTired j.req e.attempts else s2
  (s3.sweepReads 3).settleSet i

/-- An operation ends with a result: its effect, its tokens, the result and what its issuer does. -/
def State.endOp (s : State) (j : ChJob) (e0 : DieEnd) : State :=
  let e := s.asRead j e0
  let s := s.intentRead j
  let data := if j.routine = .read || j.routine = .readRetry then s.readCells j e else []
  (((((s.opEffect j e).wornNow j).opGone j).chResult j e data).chDone j e).jobGone ((s.chan j.req.channel).owner.getD j.w)
    (Fin.ofNat 128 (mediaTile (j.req.channel % 32)))

/-- DIE_OP_END: an operation that runs ends (R303, R289, R291, R325, R348). -/
def execDieOpEnd (job : Nat) (e : DieEnd) (s : State) : Host.Outcome State Fault Refusal :=
  .next (match s.media.jobs.find? (fun j => j.id = job && (j.st = .running || j.st = .inSuspension)) with
    | none => s
    | some j => s.endOp j e)

/-! ### The SLC share (R294, R295) -/

/-- SLC_SHARE_GROW (R295): never while free capacity is below 1% of usable capacity; at SLC_MAX the event alone. When the next change or event
may come the spec does not say: DESIGN CHOICE, the hold time starts anew with each (log 236). -/
def execSlcShareGrow (i : Fin 2) (s : State) : Host.Outcome State Fault Refusal :=
  let x := s.set_ i.val
  let w := s.setWy i.val
  let top := s.afld (.med w) MED_SLC_CTRL 15 8
  .next (match x.lowSince with
    | none => s
    | some t =>
      if !s.since t (sec (s.afld (.med w) MED_SLC_TIMERS 15 0)) || s.freeCapacity * 100 < s.usable then s
      else if top ≤ x.share then (s.modSet i.val (fun x => { x with lowSince := some s.now })).event (.med w) MED_EVT_SLC_AT_MAX
      else
        ((s.modSet i.val (fun x => { x with share := min top (x.share + 5), lowSince := some s.now })).bump (.med w)
          MED_CNT_SLC_GROW).slcMarks i.val |>.placeWaiting i.val)

/-- SLC_SHARE_SHRINK (R295): a fall only lowers the limit, and the hold time starts anew (log 236). -/
def execSlcShareShrink (i : Fin 2) (s : State) : Host.Outcome State Fault Refusal :=
  let x := s.set_ i.val
  let w := s.setWy i.val
  let low := s.afld (.med w) MED_SLC_CTRL 7 0
  .next (match x.idleSince with
    | none => s
    | some t =>
      if !s.since t (sec (s.afld (.med w) MED_SLC_TIMERS 31 16)) || x.share ≤ low then s
      else
        ((s.modSet i.val (fun x => { x with share := max low (x.share - 5), idleSince := some s.now })).bump (.med w)
          MED_CNT_SLC_SHRINK).slcMarks i.val)

/-! ### Map flushes and checkpoints (R314, R315) -/

/-- A die of the set is below a mark of erased blocks (R323). -/
def State.belowMark (s : State) (i mark : Nat) : Bool :=
  (List.range 32).any (fun r => (s.rowDies i r).any (fun d => decide (s.freeBlocks d < mark)))

/-- MAP_FLUSH (R314): at 64 MiB of records, 2 s after the oldest, or at once while a collection or fold waits on its record and a die
is below the low mark. -/
def execMapFlush (i : Fin 2) (s : State) : Host.Outcome State Fault Refusal :=
  let x := s.set_ i.val
  let due := decide (2097152 ≤ x.unflushed.length) || x.unflushed.any (fun r => s.since r.at_ (sec 2))
  let waits := x.sbs.any (fun b => b.copying || b.emptied ≠ [])
  .next (if due || (waits && s.belowMark i.val s.media.cfg.lowMark) then (s.flushMap i.val).settleSet i.val else s)

/-- Cut a list into pieces of at most `n`. -/
def pieces {α : Type} (n : Nat) : Nat → List α → List (List α)
  | 0, _ => []
  | fuel + 1, l => match l with
    | [] => []
    | a :: rest => (a :: rest).take n :: pieces n fuel ((a :: rest).drop n)

/-- CHECKPOINT (R315): the whole map as PLACE and HOLE records in checkpoint segments. -/
def State.checkpoint (s : State) (i : Nat) : State :=
  let x := s.set_ i
  let recs := x.map.map (placeRec s.now)
  let cuts := pieces 2097152 (recs.length + 1) recs
  let start := x.nextSeg + cuts.length
  let segs := cuts.zipIdx.map (fun e =>
    ({ num := x.nextSeg + e.2, recs := e.1, units := (64 + 32 * e.1.length + 4095) / 4096, cover := coverSeq x, ckpt := true,
       last := e.2 + 1 = cuts.length, start := start, durable := false } : Seg))
  let s1 := s.modSet i (fun x => { x with nextSeg := start, segs := x.segs ++ segs, deltaBytes := 0 })
  segs.foldl (fun s g => s.placeUnits i .slcJournal 2 (unitsOf 3 g.num 0 g.units)) s1

/-- CHECKPOINT: when the delta segments since the last checkpoint exceed 32 GiB. -/
def execCheckpoint (i : Fin 2) (s : State) : Host.Outcome State Fault Refusal :=
  .next (if 34359738368 < (s.set_ i.val).deltaBytes then (s.checkpoint i.val).settleSet i.val else s)

/-! ### Collection (R323, R324) -/

/-- One victim is better than another: the score (1 - u) a / (1 + u), ties to the lower first MSN (R324). -/
def betterVictim (now : Nat) (x : SetSt) (b c : SuperBlk) : Bool :=
  let all := fun y : SuperBlk => 1024 * roundUnits y
  let live := fun y : SuperBlk => liveUnits x y.id
  let sb := (all b - live b) * (now - b.closedAt) * (all c + live c)
  let sc := (all c - live c) * (now - c.closedAt) * (all b + live b)
  decide (sc < sb) || (sb = sc && b.msn0 < c.msn0)

/-- The best of some superblocks. -/
def bestVictim (now : Nat) (x : SetSt) (l : List SuperBlk) : Option SuperBlk :=
  l.foldl (fun a b => match a with
    | none => some b
    | some y => if betterVictim now x b y then some b else some y) none

/-- Closed QLC superblocks not collected yet. -/
def victims (x : SetSt) : List SuperBlk := x.sbs.filter (fun b => b.qlc && b.closed && !b.copying && b.erasing = [])

/-- The live units of a superblock in unit order per owner, LAST_UNIT kept (R324). -/
def liveRefs (x : SetSt) (b : SuperBlk) : List UnitRef :=
  let refs := b.rounds.flatMap (fun r => r.units)
  (sortBy (fun (e f : Extent) => e.typ < f.typ || (e.typ = f.typ && (e.owner < f.owner || (e.owner = f.owner
    && (e.gen < f.gen || (e.gen = f.gen && e.unit ≤ f.unit)))))) (x.map.filter (fun e => !e.hole && e.sb = b.id))).flatMap
    (fun e => (List.range e.count).map (fun k =>
      { typ := e.typ, owner := e.owner, gen := e.gen, unit := e.unit + k,
        last := refs.any (fun u => u.typ = e.typ && u.owner = e.owner && u.gen = e.gen && u.unit = e.unit + k && u.last) }))

/-- Collect a superblock: its live units are copied; one with none is erased without copying (R324). -/
def State.collect (s : State) (i cls : Nat) (b : SuperBlk) : State :=
  let l := liveRefs (s.set_ i) b
  if l = [] then s.eraseSb i b 1
  else (s.modSb i b.id (fun b => { b with copying := true })).placeUnits i .qlcFrag cls l

/-- MED_STATUS.UPKEEP_FIRST: a die of a set the wythe drives is below the low mark (R304, R323). -/
def State.upkeepBit (s : State) (w : Wy) : State :=
  s.setRfld (.med w) MED_STATUS 6 6 (b2n ((s.setsOf w).any (fun i => s.belowMark i s.media.cfg.lowMark)))

/-- COLLECTION: superblocks queued for refresh first, then those with a failed block, then, while a die is below the target, the best
victim (R323-R325, R335). -/
def execCollection (i : Fin 2) (s : State) : Host.Outcome State Fault Refusal :=
  let s1 := s.upkeepBit (s.setWy i.val)
  let x := s1.set_ i.val
  let pick := match (victims x).find? (fun b => b.refresh) with
    | some b => some b
    | none =>
      match (victims x).find? (fun b => b.failed ≠ []) with
      | some b => some b
      | none => if s1.belowMark i.val s1.media.cfg.target then bestVictim s.now x (victims x) else none
  .next (match pick with
    | some b => ((s1.collect i.val 4 b).settleSet i.val).upkeepBit (s.setWy i.val)
    | none => (s1.settleSet i.val).upkeepBit (s.setWy i.val))

/-! ### Patrol and refresh (R327, R335) -/

/-- The equivalent age of data of a history entry, on any member die, reaches the refresh age of the entry's wear bin (R330, R335). -/
def State.aged (s : State) (b : SuperBlk) : Bool :=
  b.history.any (fun h => (b.dies.zip h.ages).any (fun e =>
    decide (s.refreshDays (min 7 (h.wear / 15000)) * 24 * 2 ^ 32 ≤ (s.die e.1).age - e.2)))

/-- Queue the aged superblocks of a set for refresh. -/
def State.refreshAged (s : State) (i : Nat) : State :=
  let old := ((s.set_ i).sbs.filter (fun b => b.qlc && b.closed && s.aged b)).map (fun b => b.id)
  s.modSet i (fun x => { x with sbs := x.sbs.map (fun b => if old.contains b.id then { b with refresh := true } else b) })

/-- PATROL of one closed superblock (R335): the most ladder attempts a read needed, the blocks whose code words needed die parity, and
the dies from which reconstruction failed. -/
def execPatrol (i : Fin 2) (sb attempts : Nat) (parity lost : List Nat) (s : State) : Host.Outcome State Fault Refusal :=
  .next (match s.sb i.val sb with
    | none => s
    | some b =>
      if !b.closed then s
      else
        let s1 := parity.foldl (fun s k => s.parityUsed k) s
        let s2 := lost.foldl (fun s d => s.dieUncorr d) s1
        let tired := decide (s.media.cfg.refreshAt ≤ attempts) || parity ≠ [] || s.aged b
        s2.modSb i.val sb (fun b => { b with patrolAt := s.now, refresh := b.refresh || tired }))

/-! ### Calibration and equivalent ages (R330, R333) -/

/-- CALIBRATION_TIMER: every 24 h, or when the die's temperature has moved by more than 15 °C (R333). -/
def execCalibrationTimer (die : Fin 2048) (s : State) : Host.Outcome State Fault Refusal :=
  let d := s.die die.val
  let moved := 150 < d.temp - d.calTemp || 150 < d.calTemp - d.temp
  .next (if s.since d.calAt (sec 86400) || moved then
      s.submit (s.setWy (setOf (die.val / 32))) .calibrate
        { flags := 0, cls := 4, die := die.val % 32, channel := die.val / 32, planes := 0, cw := 0, retry := 0, blocks := [], page := 0,
          erases := 0, offsets := [], res35 := 0, buffer := 0, bufOff := 0, cookie := 0, seq := 0, time := 0, slots := [],
          sources := [] } .calibration
    else s)

/-- EQUIV_AGE_TICK: one minute for every die (R330); superblocks that reach their refresh age are queued (R335). -/
def execEquivAgeTick (s : State) : Host.Outcome State Fault Refusal :=
  let s1 := (List.range 2048).foldl (fun s d => s.modDie d (fun x => { x with age := x.age + ageMinute x.temp })) s
  .next ((s1.refreshAged 0).refreshAged 1)

/-- EQUIV_AGE_RECORD: every die's counter in an anchor record (R330). -/
def execEquivAgeRecord (i : Fin 2) (s : State) : Host.Outcome State Fault Refusal :=
  let ages := (s.media.dies.filter (fun e => setOf (e.1 / 32) = i.val)).map (fun e => (e.1, e.2.age))
  .next ((s.anchorRec i.val (.equivAge ages)).modSet i.val (fun x => { x with ageAt := s.now }))

/-! ### Die rebuild and anchor rebuild (R308, R328) -/

/-- DIE_REBUILD (R328): every closed superblock that holds the oldest lost die is collected in the rebuild class; fragment ranges with a
second unreadable page go to wall-level reconstruction; with none left the rebuild is DONE. -/
def execDieRebuild (i : Fin 2) (lost : List (Nat × Nat × Nat)) (s : State) : Host.Outcome State Fault Refusal :=
  .next (match (s.set_ i.val).dieRebuild with
    | [] => s
    | d :: _ =>
      let on := fun b : SuperBlk => b.dies.contains d && b.stream ≠ .slcJournal
      let todo := (s.set_ i.val).sbs.filter (fun b => on b && b.closed && !b.copying && b.erasing = [])
      let s1 := todo.foldl (fun s b => s.collect i.val 1 b) s
      let f := s.wall.settings.fragBytes
      let s2 := lost.foldl (fun s e => s.selfRebuild (stripeOf e.1) (fragIndex e.1 * f + e.2.1) e.2.2) s1
      let s3 := s2.modSet i.val (fun x => { x with rebuildRanges := x.rebuildRanges ++ lost.map (fun e => (e.1, e.2.1)) })
      if (s3.set_ i.val).sbs.any on then s3.settleSet i.val
      else
        let s4 := if (s3.die d).retired then s3.anchorRec i.val (.retireDie d 0 true) else s3
        let left := (s4.set_ i.val).dieRebuild.filter (· ≠ d)
        let s5 := if (s4.chan (d / 32)).degraded && left.all (fun e => e / 32 ≠ d / 32) then s4.anchorRec i.val (.channelState (d / 32) true true)
          else s4
        s5.modSet i.val (fun x => { x with dieRebuild := left, rebuildRanges := [] }))

/-- ANCHOR_REBUILD (R308): the lost copy stands again on the channel chosen. -/
def execAnchorRebuild (i : Fin 2) (s : State) : Host.Outcome State Fault Refusal :=
  let x := s.set_ i.val
  let w := s.setWy i.val
  .next (if x.lostAt.isNone then s
    else if s.twoAnchors i.val then (s.modSet i.val (fun x => { x with lostAt := none })).medBits w
    else match s.spareChan i.val with
      | some c => (s.modSet i.val (fun x => { x with rebuildCh := x.rebuildCh ++ [c], lostAt := none })).medBits w
      | none => s.recordOpen (srcOf w) 2 (.med w) (leBytes 4 i.val))

/-! ### Chisel requests of the firmware (R344, R345) -/

/-- CH_READ. -/
def execChRead (w : Wy) (r : ChReq) (s : State) : Host.Outcome State Fault Refusal := .next (s.submit w .read r .firmware)

/-- CH_READ_RETRY (R352). -/
def execChReadRetry (w : Wy) (r : ChReq) (s : State) : Host.Outcome State Fault Refusal := .next (s.submit w .readRetry r .firmware)

/-- CH_PROG_SLC (R347). -/
def execChProgSlc (w : Wy) (r : ChReq) (s : State) : Host.Outcome State Fault Refusal := .next (s.submit w .progSlc r .firmware)

/-- CH_PROG_QLC (R347). -/
def execChProgQlc (w : Wy) (r : ChReq) (s : State) : Host.Outcome State Fault Refusal := .next (s.submit w .progQlc r .firmware)

/-- CH_FOLD (R299). -/
def execChFold (w : Wy) (r : ChReq) (s : State) : Host.Outcome State Fault Refusal := .next (s.submit w .fold r .firmware)

/-- CH_ERASE (R348). -/
def execChErase (w : Wy) (r : ChReq) (s : State) : Host.Outcome State Fault Refusal := .next (s.submit w .erase r .firmware)

/-- CH_ERASE_VERIFY (R348). -/
def execChEraseVerify (w : Wy) (r : ChReq) (s : State) : Host.Outcome State Fault Refusal :=
  .next (s.submit w .eraseVerify r .firmware)

/-- CH_READ_PARAM. -/
def execChReadParam (w : Wy) (r : ChReq) (s : State) : Host.Outcome State Fault Refusal := .next (s.submit w .readParam r .firmware)

/-- CH_CALIBRATE (R333). -/
def execChCalibrate (w : Wy) (r : ChReq) (s : State) : Host.Outcome State Fault Refusal := .next (s.submit w .calibrate r .firmware)

/-- CH_DIE_RESET (R351). -/
def execChDieReset (w : Wy) (r : ChReq) (s : State) : Host.Outcome State Fault Refusal := .next (s.submit w .dieReset r .firmware)

/-- CH_STATUS. -/
def execChStatus (w : Wy) (r : ChReq) (s : State) : Host.Outcome State Fault Refusal := .next (s.submit w .status r .firmware)

/-- SUSPENSION_END (R350): no eligible read waits, or the suspension's reads have run 400 µs; never before the read in progress has
ended. -/
def execSuspensionEnd (die : Fin 2048) (s : State) : Host.Outcome State Fault Refusal :=
  .next (match s.media.jobs.find? (fun j => j.st = .suspended && reqDie j.req = die.val) with
    | none => s
    | some op =>
      let reading := s.media.jobs.any (fun j => j.st = .inSuspension && reqDie j.req = die.val)
      if reading || (s.media.jobs.any (eligible op) && !s.since op.resumed (us 400)) then s else s.resumeOp op)

/-- The time limit of an operation (R351). -/
def opLimit (j : ChJob) : Nat :=
  match j.routine with
  | .read | .progSlc => ms 2
  | .readRetry => ms 2 * bits j.req.retry 4 0
  | .progQlc | .fold => ms 10
  | .erase | .eraseVerify => ms 30
  | _ => ms 1

/-- DIE_TIMEOUT (R351): the operation ends DIE_TIMEOUT and its die is HUNG; so end the other requests for the die but CH_STATUS and
CH_DIE_RESET. -/
def execDieTimeout (job : Nat) (s : State) : Host.Outcome State Fault Refusal :=
  .next (match s.media.jobs.find? (fun j => j.id = job && (j.st = .running || j.st = .inSuspension)) with
    | none => s
    | some j =>
      if j.ran + (s.now - j.resumed) ≤ opLimit j then s
      else
        let d := reqDie j.req
        let p := chnPage j.req.channel
        let s1 := (s.modDie d (fun x => { x with hung := true, fails := x.fails + b2n (j.routine = .dieReset) })).event p CHN_EVT_TIMEOUT
        let out := s.media.jobs.filter (fun x => x.id = j.id
          || (reqDie x.req = d && x.st ≠ .held && x.routine ≠ .status && x.routine ≠ .dieReset))
        let ids := out.map (fun x => x.id)
        let s2 := s1.modMedia (fun m => { m with jobs := m.jobs.filter (fun x => !ids.contains x.id) })
        let e := plainEnd .dieTimeout 0
        let s3 := out.foldl (fun s x => (s.chResult x e []).chDone x e) s2
        (s3.grant (s.payer j) (chanPanel j.req.channel)).takeHeld j.req.channel)

/-! ### Channel ownership (R26, R341-R343) -/

/-- The owner of a channel changes: every block of it becomes UNKNOWN (R342, R343, R346); with its first owner its page is ONLINE. -/
def State.newOwner (s : State) (c : Nat) (o : Option Wy) (m : ChanMode) : State :=
  let p := chnPage c
  let s0 := if o.isSome && s.unit p = .offline && s.rfld p PAGE_CTRL 2 0 = 0 then (s.setUnit p .online).setRfld p PAGE_CTRL 0 0 1 else s
  let s1 := (s0.modChan c (fun x => { x with owner := o, mode := m, releasing := false, lending := false })).chanUnknown c
  (s1.bump (chnPage c) CHN_CNT_OWNER_CHANGE).event (chnPage c) CHN_EVT_OWNER_CHANGED

/-- Operations that a held wythe had started complete, and requests it had not started are lost with it (R97, R342). They are taken to
end DONE (log 34). -/
def State.finishOld (s : State) (c : Nat) : State :=
  let l := s.media.jobs.filter (fun j => j.req.channel = c)
  let s1 := s.modMedia (fun m => { m with jobs := m.jobs.filter (fun j => j.req.channel ≠ c) })
  (l.filter (fun j => j.st = .running || j.st = .suspended || j.st = .inSuspension)).foldl (fun s j =>
    let e := { plainEnd .done 0 with temp := (s.die (reqDie j.req)).temp }
    (s.opEffect j e).chDone j e) s1

/-- The arbiter: ownership of a channel goes to a wythe when it has no owner or its owner is held in reset; any other request has no
effect (R26). -/
def State.takeChannel (s : State) (w : Wy) (c : Nat) : State :=
  let x := s.chan c
  let mode : ChanMode := if w = homeOf c then .home
    else if s.heldWy w.peer || s.cover.coverer = some w then .cover else .lent
  if x.owner = none then s.newOwner c (some w) mode
  else if x.owner = some w.peer && s.heldWy w.peer then (s.finishOld c).newOwner c (some w) mode
  else s

/-- CHANNEL_TAKE: a wythe's control tiles write CHN_OWN_CTRL.TAKE (R26, R342, R356). -/
def execChannelTake (w : Wy) (c : Fin 64) (s : State) : Host.Outcome State Fault Refusal := .next (s.takeChannel w c.val)

/-- CHN_OWN_CTRL.RELEASE: the release waits until no operation is started or suspended on the channel (R343). -/
def State.askRelease (s : State) (w : Wy) (c : Nat) : State :=
  if (s.chan c).owner = some w then s.modChan c (fun x => { x with releasing := true }) else s

/-- CHN_OWN_CTRL.LEND: the home wythe hands the channel to its peer as LENT, once released (R341, R343). -/
def State.askLend (s : State) (w : Wy) (c : Nat) : State :=
  if (s.chan c).owner = some w && w = homeOf c then s.modChan c (fun x => { x with releasing := true, lending := true }) else s

/-- CHANNEL_RELEASE. -/
def execChannelRelease (w : Wy) (c : Fin 64) (s : State) : Host.Outcome State Fault Refusal := .next (s.askRelease w c.val)

/-- CHANNEL_LEND. -/
def execChannelLend (w : Wy) (c : Fin 64) (s : State) : Host.Outcome State Fault Refusal := .next (s.askLend w c.val)

/-- A release completes (R343): requests still queued end NOT_OWNER; a channel handed over goes to the peer, and a LENT channel
returns to its home wythe when that wythe's media tile can drive it. -/
def State.releaseDone (s : State) (c : Nat) : State :=
  let x := s.chan c
  let busy := s.media.jobs.any (fun j => j.req.channel = c && j.st ≠ .queued && j.st ≠ .held)
  if !x.releasing || busy then s
  else
    let l := s.media.jobs.filter (fun j => j.req.channel = c)
    let p := s.crsPage c
    let s1 := s.modMedia (fun m => { m with jobs := m.jobs.filter (fun j => j.req.channel ≠ c) })
    let home := homeOf c
    let s2 := if x.lending then s1.newOwner c (some home.peer) .lent
      else if x.mode ≠ .home && s.running home && s.wantsChan home c then s1.newOwner c (some home) .home
      else s1.newOwner c none .none
    l.foldl (fun s j =>
      let e := plainEnd .notOwner (s.chnOwner j.w c)
      ((s.bump p CRS_CNT_ABANDONED).chResult { j with started := s.now } e []).chDone j e) s2

/-- RELEASE_COMPLETE. -/
def execReleaseComplete (c : Fin 64) (s : State) : Host.Outcome State Fault Refusal := .next (s.releaseDone c.val)

end Sys2Proof.Machine
end

