-- ==== Sys2Proof/Machine/Ports.lean ====
section
/-! DEFINITION. Network ports (14): frames received and sent, Low Power Idle, PFC, links, RoCEv2 connections and their rate, and the
1PPS signals. -/

namespace Sys2Proof.Machine

/-! ### Ports -/

/-- The page of a port. -/
def macPage (w : Wy) (p : Nat) : Page := .mac w (Fin.ofNat 4 p)

/-- A port. -/
def State.port (s : State) (w : Wy) (p : Nat) : Port := (s.wy w).ports.getD p .reset

/-- Change a port. -/
def State.modPort (s : State) (w : Wy) (p : Nat) (f : Port → Port) : State :=
  s.modWy w (fun y => { y with ports := y.ports.modify p f })

/-- The rate of a port in Gb/s (R370). -/
def State.portGbs (s : State) (w : Wy) : Nat := if (s.wy w).portMode = 2 then 200 else 100

/-- The size bin of a frame length (14). -/
def sizeBin (n : Nat) : Nat :=
  if n ≤ 64 then 0 else if n ≤ 127 then 1 else if n ≤ 255 then 2 else if n ≤ 511 then 3 else if n ≤ 1023 then 4
  else if n ≤ 1518 then 5 else if n ≤ 2047 then 6 else if n ≤ 4095 then 7 else if n ≤ 8191 then 8 else 9

/-- The largest frame of a port (R374, R376). -/
def State.maxFrame (s : State) (w : Wy) (p : Nat) : Nat := s.afld (macPage w p) MAC_MAX_FRAME 14 0

/-- A priority is under PFC on a port (R384). -/
def State.pfcOn (s : State) (w : Wy) (p prio : Nat) : Bool :=
  s.afld (macPage w p) MAC_PFC_CTRL 0 0 = 1 && s.afld (macPage w p) MAC_PFC_CTRL (8 + prio) (8 + prio) = 1

/-! ### Mortar packets (R207-R210) -/

/-- The peer that a packet from an address belongs to: the contact while a JOIN_REQUEST is on its way there, a brick of another wall known by
the address, or the brick that the header names (log 231). -/
def State.peerOf (s : State) (w : Wy) (src : Nat) (addr : BitVec 128) : Nat :=
  if s.refs.far.contains (farPeer src, addr) then farPeer src
  else if (s.wy w).mortar.flows.any (fun f => f.peer = 0x8000 && f.unacked.any (fun p => p.addr = addr)) then 0x8000
  else src

/-- A packet's DST_BRICK is this brick; one that knows only an address asks with none, in JOIN_REQUEST or REPL_LINK (log 231). -/
def State.isForMe (s : State) (h : PktHead) : Bool := h.dst = s.myId || (h.dst = 0x8000 && (h.typ = 0x03 || h.typ = 0x4A))

/-- A Mortar packet arrives (R207-R212): its header is checked and its timestamp taken; its ACK, SACK and CREDIT are heeded; its SEQ, unless it
is a bare acknowledgement, joins the flow's; a packet with ACK_REQ is acknowledged. What its message says, once whole, is a command of its
own. -/
def State.mortarPacket (s : State) (w : Wy) (addr : BitVec 128) (ce : Bool) (bytes : Bytes) : State :=
  let p := Page.mtr w
  let k := headOf bytes
  if badForm bytes || !s.isForMe k then s.bump p MTR_CNT_DROP_FORMAT
  else if badSum bytes then s.bump p MTR_CNT_DROP_CRC
  else
    let src := s.peerOf w k.src addr
    let srcW : Wy := if k.srcW = 1 then .w1 else .w0
    let s1 := (((s.seeHlc w k.hlc).bump p MTR_CNT_RX_PKT).openFlow w src srcW k.flow).takeAck w src srcW k.flow k.ack k.sack k.credit
      (bits k.flags 2 2 = 1) (bits k.flags 5 5 = 1)
    match flowOf (s1.wy w).mortar src srcW k.flow with
    | none => s1
    | some f =>
      if k.typ = 0 then s1
      else if f.rxInc = none && k.seq ≠ 0 then s1.sendAck w src srcW k.flow 0 0 ce true addr
      else
        let f1 := if f.rxInc = some k.inc then f else { f with rxSeq := 0, rxInc := some k.inc, rxGot := [] }
        let got := if k.seq < f1.rxSeq || f1.rxGot.contains k.seq then f1.rxGot else f1.rxGot ++ [k.seq]
        let low := advance (got.length + 1) f1.rxSeq got
        let rest := got.filter (fun x => decide (low ≤ x))
        let s3 := s1.modFlow w src srcW k.flow (fun f => { f with rxSeq := low, rxInc := f1.rxInc, rxGot := rest })
        if bits k.flags 0 0 = 1 then s3.sendAck w src srcW k.flow low (sackOf low rest) ce false addr else s3

/-! ### RoCEv2 (R387, R388) -/

/-- Change a queue pair. -/
def State.modPair (s : State) (w : Wy) (q : Nat) (f : RocePair → RocePair) : State :=
  s.modWy w (fun y => { y with pairs := updFirst (fun x => x.q = q) f y.pairs })

/-- A queue pair. -/
def State.pair (s : State) (w : Wy) (q : Nat) : Option RocePair := (s.wy w).pairs.find? (fun x => x.q = q)

/-- A packet has exhausted its retries: the connection closes as an implied reset (R387). -/
def State.retryExceeded (s : State) (w : Wy) (q : Nat) : State :=
  ((s.bump (.rdm w) RDM_CNT_RETRY_EXCEEDED).event (.rdm w) RDM_EVT_RETRY_EXCEEDED).loseQueue w q true

/-- A CNP for a packet that carried CE, at most one per queue pair in each CNP_INTERVAL (R388). -/
def State.sendCnp (s : State) (w : Wy) (q : Nat) : State :=
  match s.pair w q with
  | none => s
  | some x =>
    let due := match x.cnpAt with
      | none => true
      | some t => s.since t (us (s.afld (.rdm w) RDM_CNP_CTRL 15 0))
    if s.afld (.rdm w) RDM_CTRL 0 0 = 1 && due then
      ((s.modPair w q (fun x => { x with cnpAt := some s.now })).bump (.rdm w) RDM_CNT_CNP_SENT).emit (.cnp w q)
    else s

/-- A RoCEv2 packet of a connection (R387, R388). -/
def State.rocePacket (s : State) (w : Wy) (q : Nat) (icrcOk ce : Bool) (k : RoceKind) : State :=
  let p := Page.rdm w
  if !icrcOk then (s.bump p RDM_CNT_ICRC).event p RDM_EVT_ICRC
  else
    let s1 := s.bump p RDM_CNT_RX_PKT
    let s2 := if ce then (s1.bump p RDM_CNT_CE_RCVD).sendCnp w q else s1
    match k with
    | .data => s2
    | .ack => s2.modPair w q (fun x => { x with retries := 0, rnr := 0 })
    | .nak n => ((s2.bump p RDM_CNT_NAK_RCVD).bumpBy p RDM_CNT_RETX n).emitAll (List.replicate n (.resend w q))
    | .rnr =>
      let s3 := s2.bump p RDM_CNT_RNR_RCVD
      match s3.pair w q with
      | none => s3
      | some x =>
        if s3.afld p RDM_CTRL 22 20 ≤ x.rnr then s3.retryExceeded w q
        else ((s3.modPair w q (fun x => { x with rnr := x.rnr + 1 })).bump p RDM_CNT_RETX).emit (.resend w q)

/-- The path MTUs that a port offers (R376). -/
def State.offered (s : State) (w : Wy) (p : Nat) : List Nat :=
  [1024, 2048, 4096].filter (fun m => decide (m + 128 ≤ s.maxFrame w p))

/-- CM_REQUEST: a connection request to QP 1 (R387, R376, R104). The largest offered path MTU at or below the one asked for is granted; a
queue takes the lowest index not in use outside those of the queue pages (log 36). A wythe opens no queue before SERVICE_OPEN. -/
def execCmRequest (w : Wy) (p : Fin 4) (src : BitVec 128) (mtu : Nat) (otherTransport : Bool) (s : State) :
    Host.Outcome State Fault Refusal :=
  let no := fun s : State => ((s.bump (.rdm w) RDM_CNT_CM_REJECT).event (.rdm w) RDM_EVT_CM_REJECT).emit (.cmReply w p.val none)
  let r := (s.wy w).relief
  let fit := (s.offered w p.val).filter (fun m => decide (m ≤ mtu))
  .next (if !(s.wy w).serving || !(s.port w p.val).linkUp then s
    else if otherTransport then no s
    else match fit.getLast? with
      | none => no s
      | some m =>
        if 1024 ≤ r.queues.length then no ((s.bump (.rlf w) RLF_CNT_QUEUE_REFUSED).event (.rlf w) RLF_EVT_QUEUE_LIMIT)
        else
          let used := r.queues.map (fun x => x.idx)
          let q := (((List.range 2112).filter (fun i => !(960 ≤ i && i < 1024))).find? (fun i => !used.contains i)).getD 2112
          let x : Queue :=
            { idx := q, transport := .roce m src, epoch := 1, st := .opened, helloDone := false, mask := 0, evtSeq := 0,
              lastCapsule := s.now, acks := [], dma := 0 }
          let y : RocePair :=
            { q := q, port := p.val, retries := 0, rnr := 0, rate := (1000 * s.portGbs w : Nat), alpha := mkRat (s.free % 65537) 65536,
              cnpAt := none, rateAt := s.now }
          ((s.used.modRelief w (fun r => { r with queues := r.queues ++ [x] })).modWy w (fun z => { z with
            pairs := z.pairs ++ [y] })).emit (.cmReply w p.val (some (q, m))))

/-- ROCE_ACK_TIMEOUT: the packet is sent again, or the connection closes at RETRY_CNT (R387). -/
def execRoceAckTimeout (w : Wy) (q : Nat) (s : State) : Host.Outcome State Fault Refusal :=
  .next (match s.pair w q with
    | none => s
    | some x =>
      let s1 := s.bump (.rdm w) RDM_CNT_ACK_TIMEOUT
      if s.afld (.rdm w) RDM_CTRL 18 16 ≤ x.retries then s1.retryExceeded w q
      else ((s1.modPair w q (fun x => { x with retries := x.retries + 1 })).bump (.rdm w) RDM_CNT_RETX).emit (.resend w q))

/-- CNP_RECEIVE: RC becomes RC (1 - α / 2), then α moves towards 1 by 1/256 (R388). -/
def execCnpReceive (w : Wy) (q : Nat) (s : State) : Host.Outcome State Fault Refusal :=
  let s1 := s.bump (.rdm w) RDM_CNT_CNP_RCVD
  .next (if s.afld (.rdm w) RDM_CTRL 1 1 = 1 then
      s1.modPair w q (fun x => { x with rate := x.rate * (1 - x.alpha / 2), alpha := x.alpha + (1 - x.alpha) / 256, rateAt := s.now })
    else s1)

/-- RATE_INCREASE: after each 55 µs without a CNP, RC rises by RAI up to line rate and α moves towards 0 by 1/256 (R388). -/
def execRateIncrease (w : Wy) (q : Nat) (s : State) : Host.Outcome State Fault Refusal :=
  .next (match s.pair w q with
    | none => s
    | some x =>
      if !s.since x.rateAt (us 55) then s
      else s.modPair w q (fun x => { x with
        rate := min ((1000 * s.portGbs w : Nat) : Rat) (x.rate + (s.afld (.rdm w) RDM_CNP_CTRL 25 16 : Nat))
        alpha := x.alpha - x.alpha / 256
        rateAt := s.now }))

/-! ### Receiving (R374, R375, R383, R384) -/

/-- EtherTypes that a port accepts (R375): IPv4, IPv6, ARP, LLDP, MAC Control, PTP. -/
def acceptedEther : List Nat := [0x0800, 0x86DD, 0x0806, 0x88CC, 0x8808, 0x88F7]

/-- PFC for a priority by the bytes that its frames hold (R384). -/
def State.xoffCheck (s : State) (w : Wy) (p prio held : Nat) : State :=
  let lim := s.afld (macPage w p) MAC_PFC_CTRL 24 16 * 1024
  let on := (s.port w p).xoff.contains prio
  if !s.pfcOn w p prio then s
  else if !on && lim < held then
    ((s.modPort w p (fun x => { x with xoff := x.xoff ++ [prio] })).bump (macPage w p) MAC_CNT_TX_PFC).emit (.pfc w p prio 0xFFFF)
  else if on && held * 2 < lim then
    ((s.modPort w p (fun x => { x with xoff := x.xoff.filter (· ≠ prio) })).bump (macPage w p) MAC_CNT_TX_PFC).emit (.pfc w p prio 0)
  else s

/-- What the servo makes of a PTP frame (R223): a slave follows the best master; a master of the wall follows none. -/
def State.ptpFrame (s : State) (w : Wy) (p : Nat) (best : Bool) (offsetNs uncertNs : Nat) : State :=
  if (s.wy w).mortar.ptpRole = .master || !best then s
  else (s.modMortar w (fun m => { m with ptpRole := .slave, ptpPort := p, offsetNs := offsetNs, uncertNs := uncertNs, lostAt := none })).servo w

/-- A frame of good length and FCS, or a truncated one, reaches its transport (R375, R383). -/
def State.toTransport (s : State) (w : Wy) (p : Nat) (f : Frame) (trunc : Bool) : State :=
  match f.pay with
  | .roce q i c k => if trunc then s.bump (.rdm w) RDM_CNT_TRUNC else s.rocePacket w q i c k
  | .mortar a ce b => if trunc then s.bump (.mtr w) MTR_CNT_DROP_FORMAT else s.mortarPacket w a ce b
  | .ptp b o u => if trunc then s else s.ptpFrame w p b o u
  | .pause => if trunc then s else s.bump (macPage w p) MAC_CNT_RX_PAUSE
  | .other => s

/-- A frame is received (R374, R375, R383). -/
def State.rxFrame (s : State) (w : Wy) (p : Nat) (f : Frame) : State :=
  let g := macPage w p
  let top := s.maxFrame w p
  if f.full then s.bump g MAC_CNT_RX_OVERFLOW
  else if f.len < 64 then s.bump g MAC_CNT_RX_RUNT
  else if f.len ≤ top && !f.fcsOk then s.bump g MAC_CNT_RX_FCS
  else
    let trunc := decide (top < f.len)
    let s1 := if trunc then s.bump g MAC_CNT_RX_OVERSIZE else s
    let vidOk := match f.vid with | none => true | some v => v = 0
    if f.dst = .other || !acceptedEther.contains f.ether || !vidOk then s1.bump g MAC_CNT_RX_FILTERED
    else
      let s2 := if trunc then s1 else
        (s1.bump g (MAC_CNT_RX_SIZE0 + 4 * sizeBin f.len)).bump g
          (match f.dst with | .broadcast => MAC_CNT_RX_BCAST | .group => MAC_CNT_RX_MCAST | _ => MAC_CNT_RX_UCAST)
      (s2.toTransport w p f trunc).xoffCheck w p f.prio f.held

/-- FRAME_RECEIVE. -/
def execFrameReceive (w : Wy) (p : Fin 4) (f : Frame) (s : State) : Host.Outcome State Fault Refusal :=
  .next (if (s.port w p.val).linkUp then s.rxFrame w p.val f else s)

/-- PFC_RECEIVE: priorities pause for their quanta of 512 bit times, or resume at zero quanta (R384); off PFC, and while a storm is
ignored (R385), frames are counted alone. -/
def execPfcReceive (w : Wy) (p : Fin 4) (quanta : List (Nat × Nat)) (s : State) : Host.Outcome State Fault Refusal :=
  let s1 := s.bump (macPage w p.val) MAC_CNT_RX_PFC
  .next (quanta.foldl (fun s e =>
    let prio := e.1
    let x := s.port w p.val
    if !s.pfcOn w p.val prio || x.ignored.any (fun i => i.1 = prio && s.now < i.2) then s
    else if e.2 = 0 then s.modPort w p.val (fun x => { x with paused := x.paused.filter (fun y => y.1 ≠ prio) })
    else
      let from_ := ((x.paused.find? (fun y => y.1 = prio && s.now < y.2.1)).map (fun y => y.2.2)).getD s.now
      let until_ := s.now + (e.2 * 512 + s.portGbs w - 1) / s.portGbs w
      s.modPort w p.val (fun x => { x with paused := x.paused.filter (fun y => y.1 ≠ prio) ++ [(prio, until_, from_)] })) s1)

/-- PFC_QUANTA_EXPIRY: the priority sends again (R384). -/
def execPfcQuantaExpiry (w : Wy) (p : Fin 4) (prio : Fin 8) (s : State) : Host.Outcome State Fault Refusal :=
  .next (s.modPort w p.val (fun x => { x with paused := x.paused.filter (fun y => y.1 ≠ prio.val || s.now < y.2.1) }))

/-- PFC_STORM: a priority paused for 100 ms without a break is no longer held back for 1 s (R385). -/
def execPfcStorm (w : Wy) (p : Fin 4) (prio : Fin 8) (s : State) : Host.Outcome State Fault Refusal :=
  let g := macPage w p.val
  .next (if (s.port w p.val).paused.any (fun y => y.1 = prio.val && s.since y.2.2 (ms 100)) then
      ((s.modPort w p.val (fun x => { x with
        paused := x.paused.filter (fun y => y.1 ≠ prio.val)
        ignored := x.ignored.filter (fun y => y.1 ≠ prio.val) ++ [(prio.val, s.now + sec 1)] })).event g MAC_EVT_PFC_STORM).recordOpen
        (srcOf w) 2 g (leBytes 1 prio.val)
    else s)

/-- PFC_IGNORE_END (R385). -/
def execPfcIgnoreEnd (w : Wy) (p : Fin 4) (prio : Fin 8) (s : State) : Host.Outcome State Fault Refusal :=
  .next (s.modPort w p.val (fun x => { x with ignored := x.ignored.filter (fun y => y.1 ≠ prio.val || s.now < y.2) }))

/-- PFC_XOFF_REPEAT: the PFC is repeated while the priority's frames still hold more than XOFF_KIB (R384). -/
def execPfcXoffRepeat (w : Wy) (p : Fin 4) (prio : Fin 8) (held : Nat) (s : State) : Host.Outcome State Fault Refusal :=
  let lim := s.afld (macPage w p.val) MAC_PFC_CTRL 24 16 * 1024
  .next (if (s.port w p.val).xoff.contains prio.val && lim < held then
      (s.bump (macPage w p.val) MAC_CNT_TX_PFC).emit (.pfc w p.val prio.val 0xFFFF)
    else s.xoffCheck w p.val prio.val held)

/-! ### Sending (R376-R379, R382, R390, R391) -/

/-- The transmit start threshold (R377). -/
def stepBytes (step : Nat) : Option Nat :=
  if step = 0 then some 512 else if step = 1 then some 1024 else if step = 2 then some 2048 else if step = 3 then some 4096
  else if step = 4 then some 8192 else none

/-- A frame has left whole: it is counted, its timestamp enters the queue or is dropped at a full one, and its issuer is told (R391). -/
def State.txEnd (s : State) (w : Wy) (p : Nat) : State :=
  match (s.port w p).sending with
  | none => s
  | some x =>
    let g := macPage w p
    let s1 := s.modPort w p (fun y => { y with sending := none, idleAt := max s.now x.from_ })
    let s2 := (s1.bump g (MAC_CNT_TX_SIZE0 + 4 * sizeBin x.frame.len)).bump g (if x.frame.mcast then MAC_CNT_TX_MCAST else MAC_CNT_TX_UCAST)
    let s3 := if x.frame.kind = .relief || x.frame.kind = .cnp then s2.bump (.rdm w) RDM_CNT_TX_PKT else s2
    if !x.frame.stamp then s3.emit (.txDone w p x.frame.cookie false false)
    else if 64 ≤ (s3.port w p).stamps.length then
      let s4 := (s3.bump (.ptp w) (PTP_CNT_TS_LOST0 + 4 * p)).event (.ptp w) PTP_EVT_TS_LOST
      (s4.setReg (.ptp w) PTP_TSQ_OVF (s4.reg (.ptp w) PTP_TSQ_OVF ||| word (2 ^ p))).emit (.txDone w p x.frame.cookie true false)
    else
      ((s3.modPort w p (fun y => { y with stamps := y.stamps ++ [{ cookie := x.frame.cookie, raw := x.raw }] })).bump (.ptp w)
        (PTP_CNT_TX_TS0 + 4 * p)).emit (.txDone w p x.frame.cookie false false)

/-- Frames whose time on the wire is over have left. -/
def State.txDue (s : State) : State :=
  [Wy.w0, Wy.w1].foldl (fun s w => (List.range 4).foldl (fun s p =>
    match (s.port w p).sending with
    | some x => if x.from_ + (x.frame.len * 8 + s.portGbs w - 1) / s.portGbs w ≤ s.now then s.txEnd w p else s
    | none => s) s) s

/-- The port leaves transmit LPI: the frame that ends it waits the resolved Tw_sys_tx (R382). -/
def State.leaveLpi (s : State) (w : Wy) (p : Nat) : State :=
  let x := s.port w p
  if x.lpiTx then
    (s.modPort w p (fun x => { x with lpiTx := false })).bumpBy (macPage w p) MAC_CNT_LPI_TIME ((s.now - x.lpiAt) / 1000000)
  else s

/-- The priority of a frame: what RDM_MARK gives for what it carries, else its own (R384, R395). -/
def State.txPrio (s : State) (w : Wy) (f : TxFrame) : Nat :=
  match f.kind with
  | .relief | .cnp => s.afld (.rdm w) RDM_MARK 26 24
  | .mortar => s.afld (.rdm w) RDM_MARK 30 28
  | .other => f.prio

/-- The DSCP of an IP packet and its ECN field, ECT(0) (R386, R395). -/
def State.txMark (s : State) (w : Wy) (k : TxKind) : Option (Nat × Nat) :=
  match k with
  | .relief => some (s.afld (.rdm w) RDM_MARK 5 0, 2)
  | .cnp => some (s.afld (.rdm w) RDM_MARK 13 8, 2)
  | .mortar => some (s.afld (.rdm w) RDM_MARK 21 16, 2)
  | .other => none

/-- A frame is on the wire: with PFC on it carries a priority tag, VLAN id 0 (R384). -/
def State.frameOut (s : State) (w : Wy) (p : Nat) (f : TxFrame) : State :=
  let tag := if s.afld (macPage w p) MAC_PFC_CTRL 0 0 = 1 then some (s.txPrio w f) else none
  s.emit (.frame w p f.cookie tag (s.txMark w f.kind))

/-- FRAME_TRANSMIT: a frame starts once its threshold of bytes is in the FIFO, and never while its priority is paused (R376, R377, R382,
R384, R390). `taken` timestamp entries have been read by the issuer by then. -/
def execFrameTransmit (w : Wy) (p : Fin 4) (f : TxFrame) (taken : Nat) (s : State) : Host.Outcome State Fault Refusal :=
  let n := p.val
  let g := macPage w n
  let need := match stepBytes (s.rfld g MAC_TX_THRESH 2 0) with | some b => min b f.len | none => f.len
  let held := s.pfcOn w n (s.txPrio w f) && (s.port w n).paused.any (fun y => y.1 = s.txPrio w f && s.now < y.2.1)
  let s0 := (s.txEnd w n).modPort w n (fun x => { x with stamps := x.stamps.drop taken })
  .next (if !(s.port w n).linkUp then s
    else if s.maxFrame w n < f.len then s0.bump g MAC_CNT_TX_OVERSIZE
    else if held || f.inFifo < need then s0
    else
      let from_ := s.now + (if (s.port w n).lpiTx then us (s.port w n).twTx else 0)
      let lat := s.rfld (.ptp w) (PTP_PORT0_LAT + 4 * n) 15 0
      let raw := ({ s with now := from_ } : State).ptpRaw w + lat * 2 ^ 28 / 10
      ((s0.leaveLpi w n).frameOut w n f).modPort w n (fun x => { x with sending := some { frame := f, from_ := from_, raw := raw } }))

/-- TRANSMIT_UNDERRUN: the frame ends with the complement of its FCS, STEP rises, and no timestamp is kept (R378, R379). -/
def execTransmitUnderrun (w : Wy) (p : Fin 4) (s : State) : Host.Outcome State Fault Refusal :=
  let n := p.val
  let g := macPage w n
  .next (match (s.port w n).sending with
    | none => s
    | some x =>
      let step := s.rfld g MAC_TX_THRESH 2 0
      let s1 := ((s.modPort w n (fun y => { y with sending := none, idleAt := s.now })).bump g MAC_CNT_TX_UNDERRUN).event g MAC_EVT_UNDERRUN
      let s2 := if 5 ≤ step then s1.recordOpen (srcOf w) 2 g [] else s1.setRfld g MAC_TX_THRESH 2 0 (step + 1)
      s2.emit (.txDone w n x.frame.cookie false true))

/-! ### Low Power Idle (R380, R381) -/

/-- Send LLDP with the EEE TLV: the Receive time the brick asks for, and the Transmit time it answers (R381). -/
def State.sendLldp (s : State) (w : Wy) (p : Nat) : State :=
  s.emit (.lldp w p (s.afld (macPage w p) MAC_LPI_TW 15 0) (s.port w p).twTx)

/-- LLDP_SEND: every 30 s (R381). -/
def execLldpSend (w : Wy) (p : Fin 4) (s : State) : Host.Outcome State Fault Refusal :=
  .next (if (s.port w p.val).linkUp then s.sendLldp w p.val else s)

/-- The agreement of a port begins or ends (R381). -/
def State.agree (s : State) (w : Wy) (p : Nat) (on : Bool) (tx rx : Nat) : State :=
  let was := (s.port w p).agreed
  let s1 := s.modPort w p (fun x => { x with agreed := on, twTx := tx, twRx := rx })
  let s2 := if on then s1 else s1.leaveLpi w p
  if was = on then s2 else s2.event (macPage w p) MAC_EVT_LPI_CHANGE

/-- LLDP goes out at once when what its TLV says has changed since a state (R381). -/
def State.lldpIfNew (old s : State) (w : Wy) (p : Nat) : State :=
  let same := old.afld (macPage w p) MAC_LPI_TW 15 0 = s.afld (macPage w p) MAC_LPI_TW 15 0 && (old.port w p).agreed = (s.port w p).agreed
    && (old.port w p).twTx = (s.port w p).twTx
  if same || !(s.port w p).linkUp then s else s.sendLldp w p

/-- LLDP_RECEIVE: the partner asks for a Receive time of `r` µs and answers ours with `tx` (R381). -/
def execLldpReceive (w : Wy) (p : Fin 4) (r tx : Nat) (s : State) : Host.Outcome State Fault Refusal :=
  let n := p.val
  let top := s.afld (macPage w n) MAC_LPI_TW 31 16
  .next (State.lldpIfNew s
    (if r ≤ top then s.agree w n true (max r (Config.phyMinTw (s.wy w).portMode)) tx else s.agree w n false top 0) w n)

/-- LLDP_AGE_OUT: the agreement ends (R381). -/
def execLldpAgeOut (w : Wy) (p : Fin 4) (s : State) : Host.Outcome State Fault Refusal :=
  .next (State.lldpIfNew s (s.agree w p.val false 0 0) w p.val)

/-- LPI_ENTRY: LPI_EN, an agreement, and a transmit queue empty for IDLE_US, or 1 µs in PS2 and PS3 (R380). -/
def execLpiEntry (w : Wy) (p : Fin 4) (s : State) : Host.Outcome State Fault Refusal :=
  let n := p.val
  let g := macPage w n
  let s0 := s.txDue
  let x := s0.port w n
  let idle := if 2 ≤ s.pwr.ps then 1 else s.afld g MAC_LPI_CTRL 19 8
  .next (if s.afld g MAC_LPI_CTRL 0 0 = 1 && x.agreed && x.linkUp && !x.lpiTx && x.sending.isNone && s.since x.idleAt (us idle) then
      (s0.modPort w n (fun x => { x with lpiTx := true, lpiAt := s.now })).bump g MAC_CNT_LPI_ENTRY
    else s0)

/-! ### Links (R371, R373) -/

/-- LINK_DOWN: the link is lost and the agreement ends; queues on the port stay bound to it (R373, R381). -/
def State.linkDown (s : State) (w : Wy) (p : Nat) : State :=
  if !(s.port w p).linkUp then s
  else
    let s1 := s.agree w p false 0 0
    ((s1.modPort w p (fun x => { x with
      linkUp := false
      trained := false
      changed := s.now
      paused := []
      ignored := []
      xoff := []
      sending := none })).bump (macPage w p) MAC_CNT_LINK_DOWN).event (macPage w p) MAC_EVT_LINK_CHANGE

/-- LINK_DOWN. -/
def execLinkDown (w : Wy) (p : Fin 4) (s : State) : Host.Outcome State Fault Refusal := .next (s.linkDown w p.val)

/-- A port comes up (R371), when its mode has it (R370) and its unit is in use (R33, R406). -/
def State.portUp (s : State) (w : Wy) (n : Nat) : State :=
  let there := (s.wy w).portMode = 1 || ((s.wy w).portMode = 2 && n < 2)
  let p := macPage w n
  let out := s.unit p = .bypassed || s.unit p = .testing || s.unit p = .failed || (s.ujob p).goal = some .bypassed
  if !there || (s.port w n).linkUp || s.heldWy w || out then s
  else (s.modPort w n (fun x => { x with linkUp := true, trained := true, changed := s.now, idleAt := s.now })).event p MAC_EVT_LINK_CHANGE

/-- LINK_UP. -/
def execLinkUp (w : Wy) (p : Fin 4) (s : State) : Host.Outcome State Fault Refusal := .next (s.portUp w p.val)

/-- PORT_DOWN_REPORT: a port down for more than 1 s is reported to the armature, by the port addresses of the heartbeat (R373). -/
def execPortDownReport (w : Wy) (p : Fin 4) (s : State) : Host.Outcome State Fault Refusal :=
  let x := s.port w p.val
  .next (if !x.linkUp && x.changed + sec 1 < s.now then s.modPort w p.val (fun x => { x with reported := true }) else s)

/-- PORT_ADDRESS_RESTORE: the address is written back once the link has held for 10 s (R373). -/
def execPortAddressRestore (w : Wy) (p : Fin 4) (s : State) : Host.Outcome State Fault Refusal :=
  let x := s.port w p.val
  .next (if x.linkUp && s.since x.changed (sec 10) then s.modPort w p.val (fun x => { x with reported := false }) else s)

/-! ### 1PPS (R392, R223) -/

/-- The signed offset of now from the nearest whole second of a wythe's PTP clock. -/
def State.ppsOffset (s : State) (w : Wy) : Int :=
  let n := s.ptpNs w % 1000000000
  if n < 500000000 then n else (n : Int) - 1000000000

/-- PPS_EDGE: a 1PPS input edge (R392); with the 1PPS input of the wall settings on, the disagreement adds to the uncertainty (R223). -/
def execPpsEdge (w : Wy) (s : State) : Host.Outcome State Fault Refusal :=
  let o := s.ppsOffset w
  .next (if s.afld (.ptp w) PTP_PPS_CTRL 1 1 = 0 then s
    else
      let s1 := s.setReg (.ptp w) PTP_PPS_IN_NS (word (ofSigned 32 o))
      let s2 := if 1000 < o.natAbs then (s1.bump (.ptp w) PTP_CNT_PPS_MISS).event (.ptp w) PTP_EVT_PPS_MISS else s1
      if s.wall.settings.ppsIn then s2.modWy w (fun y => { y with ptp := { y.ptp with ppsNs := o.natAbs } }) else s2)

/-- PPS_EDGE_MISSING: a whole second passes with no input edge (R392). -/
def execPpsEdgeMissing (w : Wy) (s : State) : Host.Outcome State Fault Refusal :=
  .next (if s.afld (.ptp w) PTP_PPS_CTRL 1 1 = 0 then s
    else (s.bump (.ptp w) PTP_CNT_PPS_MISS).event (.ptp w) PTP_EVT_PPS_MISS)

/-- PPS_OUT_SECOND: a whole second of the PTP clock drives 1PPS high for OUT_WIDTH_MS (R392). -/
def execPpsOutSecond (w : Wy) (s : State) : Host.Outcome State Fault Refusal :=
  .next (if s.afld (.ptp w) PTP_PPS_CTRL 0 0 = 0 then s else s.emit (.pps w (s.afld (.ptp w) PTP_PPS_CTRL 15 8)))

/-- The seconds of the PTP time are latched (R394). -/
def State.latchPtp (s : State) (w : Wy) : State :=
  let sec_ := s.ptpNs w / 1000000000
  (s.setReg (.ptp w) PTP_TIME_SEC_LO (word (sec_ % 2 ^ 32))).setReg (.ptp w) PTP_TIME_SEC_HI (word (sec_ / 2 ^ 32 % 65536))

/-- PTP_TIME_READ: a read of PTP_TIME_NS latches the seconds registers (R394). -/
def execPtpTimeRead (src : AccSrc) (w : Wy) (s : State) : Host.Outcome State Fault Refusal :=
  .next (s.readGate src (.ptp w) PTP_TIME_NS (s.ptpNs w % 1000000000) (fun s => s.latchPtp w))

end Sys2Proof.Machine
end

