-- ==== Sys2Proof/Machine/PowerStates.lean ====
section
/-! DEFINITION. The power states PS0-PS3 of the brick (R109, R110, R418, R479, R480). -/

namespace Sys2Proof.Machine

/-- A Relief command holds a tag, its completion in a full ring included (R85), or waits for PS0, on a queue of the brick (R109). -/
def State.tagHeld (s : State) : Bool :=
  [Wy.w0, Wy.w1].any (fun w => (s.wy w).relief.cmds.any Cmd.holdsTag || (s.wy w).relief.held ≠ []
    || (s.wy w).relief.queues.any (fun x => heldTags (s.wy w).pcie x ≠ []))

/-- The time since a command last held a tag (R109, R418). -/
def State.idleNs (s : State) : Nat := if s.tagHeld then 0 else s.now - s.pwr.lastCmd

/-- The wythe whose PWR page governs the brick: both hold the same values under R410. -/
def State.leadWy (s : State) : Wy := if s.running .w1 && !s.running .w0 then .w1 else .w0

/-- The idle timers in nanoseconds (R418). -/
def State.idleTimers (s : State) : List Nat :=
  let p := Page.pwr s.leadWy
  [us (s.afld p PWR_IDLE_PS1 19 0), ms (s.afld p PWR_IDLE_PS2 19 0), sec (s.afld p PWR_IDLE_PS3 16 0)]

/-- A start up to SERVICE_OPEN, cover, hand-back, activation, hold-up or a capacitor test keeps the brick in PS0 (R480). -/
def State.keepsPs0 (s : State) : Bool :=
  s.plinth.startOn || [Wy.w0, Wy.w1].any (fun w => s.running w && (s.wy w).start.step < 13) || s.cover.coverer.isSome
    || s.cover.handingBack || s.fw.act.isSome || s.fw.restart.isSome || s.holdup.isSome || s.health.testing.isSome

/-- The TYPEs of HEARTBEAT, HEARTBEAT_REPLY, ARM_APPEND, ARM_APPEND_ACK and CLOSED_TIME, which let the brick go deeper than PS1 (R480). -/
def quietTypes : List Nat := [0x01, 0x02, 0x09, 0x0A, 0x15]

/-- Work on the media, rebuild, evacuation, and other Mortar traffic keep the brick no deeper than PS1 (R480). -/
def State.keepsPs1 (s : State) : Bool :=
  s.media.jobs ≠ [] || s.media.reads ≠ [] || s.stripes.rebuild ≠ [] || s.stripes.frags.any (fun f => f.evacTo.isSome)
    || [Wy.w0, Wy.w1].any (fun w => (s.wy w).mortar.flows.any (fun f => f.unacked.any (fun p => !quietTypes.contains p.typ)))

/-- The deepest state that the idle time, DEEPEST and what runs allow (R480). -/
def State.deepestNow (s : State) : Nat :=
  let reached := (s.idleTimers.filter (fun t => t < s.idleNs)).length
  let d := min reached (s.afld (.pwr s.leadWy) PWR_CTRL 1 0)
  if s.keepsPs0 then 0 else if s.keepsPs1 then min 1 d else d

/-- The counter of entries into a state. -/
def psCounter (n : Nat) : Nat := if n = 1 then PWR_CNT_PS1 else if n = 2 then PWR_CNT_PS2 else PWR_CNT_PS3

/-- The brick is in a power state: both wythes show it and count an entry into PS1-PS3 (R418). -/
def State.setPs (s : State) (n : Nat) : State :=
  if s.pwr.ps = n then s
  else
    let s1 := { s with pwr := { s.pwr with ps := n } }
    [Wy.w0, Wy.w1].foldl (fun s w =>
      (if n = 0 then s else s.bump (.pwr w) (psCounter n)).event (.pwr w) PWR_EVT_STATE_CHANGE) s1

/-- The brick is back in PS0: the messages held while it woke are taken (R110). -/
def State.wake (s : State) : State :=
  let s1 := { s.setPs 0 with pwr := { (s.setPs 0).pwr with waking := false } }
  (s1.replayHeld .w0).replayHeld .w1

/-- The power state that the values and the idle time now give (R480). -/
def State.powerEval (s : State) : State :=
  if s.pwr.waking then s else if s.deepestNow = 0 && s.pwr.ps ≠ 0 then s.wake else s.setPs s.deepestNow

/-- POWER_STATE_ENTRY: one state deeper (R480). -/
def execPowerStateEntry (s : State) : Host.Outcome State Fault Refusal :=
  .next (if !s.pwr.waking && s.pwr.ps < s.deepestNow then s.setPs (s.pwr.ps + 1) else s)

/-- POWER_STATE_EXIT: the brick has returned to PS0 (R110). -/
def execPowerStateExit (s : State) : Host.Outcome State Fault Refusal :=
  .next (if s.pwr.waking || (s.pwr.ps ≠ 0 && s.keepsPs0) then s.wake else s)

end Sys2Proof.Machine
end

