-- ==== Sys2Proof/Machine/Shadow.lean ====
section
/-! DEFINITION. COMMIT of shadowed registers (R405, R407, R410) with the rules that the chapters give each page's values. -/

namespace Sys2Proof.Machine

/-- The shadowed registers of a page, in rising order (R9, R410). -/
def shadowRows (p : Page) : List RegRow := (pageRows p).filter (fun r => r.acc = .rws)

/-- PAGE_STATE.SHADOW_PENDING (R404, R410). -/
def State.shadowPending (s : State) (p : Page) : Bool := (shadowRows p).any (fun r => s.reg p r.off ≠ s.act p r.off)

/-- Every field of a value lies in its range. -/
def inRange (r : RegRow) (v : Word) : Bool := r.fields.all (fun f => decide (f.2.2.1 ≤ fld v f.1 f.2.1 ∧ fld v f.1 f.2.1 ≤ f.2.2.2))

/-- The lowest shadowed register whose value lies outside its range (R407). -/
def State.commitRange (s : State) (p : Page) : Option Nat :=
  ((shadowRows p).find? (fun r => !inRange r (s.reg p r.off))).map (fun r => r.off)

/-- A buffer pool whose reserve exceeds a quarter of its count, with the lowest offset that the rule joins (R369, R407). -/
def State.reserveRule (s : State) (w : Wy) : Option (Nat × Nat) :=
  (List.range 6).findSome? (fun n =>
    let at_ := 0x140 + 0x10 * n
    if ((s.wy w).bpm.pools.map (fun q => q.count)).getD n 0 < 4 * s.rfld (.bpm w) (at_ + 8) 24 0 then some (0x10, at_) else none)

/-- The rule of a block that a COMMIT would break: the code recorded and the lowest offset joined (R226, R310, R369, R418). -/
def State.commitRule (s : State) (p : Page) : Option (Nat × Nat) :=
  match p with
  | .med _ =>
    let f := fun hi lo => s.rfld p MED_CLASS_SHARE hi lo
    if f 7 0 + f 15 8 + f 23 16 + f 31 24 ≠ 100 then some (0x81, MED_CLASS_SHARE)
    else if s.rfld p MED_SLC_CTRL 15 8 < s.rfld p MED_SLC_CTRL 7 0 then some (0x81, MED_SLC_CTRL) else none
  | .bpm w => s.reserveRule w
  | .pwr _ =>
    let t1 := s.rfld p PWR_IDLE_PS1 19 0
    let t2 := s.rfld p PWR_IDLE_PS2 19 0 * 1000
    let t3 := s.rfld p PWR_IDLE_PS3 16 0 * 1000000
    if t1 < t2 && t2 < t3 then none else some (0x81, if t1 < t2 then PWR_IDLE_PS2 else PWR_IDLE_PS1)
  | .mtr _ =>
    let j := s.reg p MTR_JOIN_CTRL
    if bitOf j 0 && (bitOf j 1 || s.wall.identity) then some (0x81, MTR_JOIN_CTRL) else none
  | _ => none

/-- Every shadow of a page takes effect (R410). -/
def State.applyShadows (s : State) (p : Page) : State := (shadowRows p).foldl (fun s r => s.setAct p r.off (s.reg p r.off)) s

/-- The registers of a page that are brick-wide (R305, R410, R418, R474), and the peer's page. -/
def brickWide : Page → Option (Page × List Nat)
  | .med w => some (.med w.peer, [MED_NAND_BUDGET])
  | .pwr w => some (.pwr w.peer, [PWR_CTRL, PWR_IDLE_PS1, PWR_IDLE_PS2, PWR_IDLE_PS3])
  | .hlt w => some (.hlt w.peer, [HLT_TEMP_CTRL, HLT_CAP_CTRL])
  | _ => none

/-- Copy brick-wide values to the peer's page (R410). -/
def State.copyWide (s : State) (p : Page) : State :=
  match brickWide p with
  | some (q, l) => l.foldl (fun s off => (s.setReg q off (s.act p off)).setAct q off (s.act p off)) s
  | none => s

/-- Commands that have waited for admission beyond a new WAIT_LIMIT are refused at once (R107). -/
def State.refuseOverdue (s : State) (w : Wy) : State :=
  let late := (s.wy w).relief.cmds.filter (fun c => c.phase = .waiting && c.waitFrom + ms (s.afld (.rlf w) RLF_ADMIT_CTRL 9 0) < s.now)
  late.foldl (fun s c =>
    let s1 := (s.bump (.rlf w) RLF_CNT_ADMISSION).event (.rlf w) RLF_EVT_ADMIT_TIMEOUT
    (s1.finish w c .busyRetry .admission 0 0 s1.free).used) s

/-- The SLC share of a set stays within MED_SLC_CTRL's limits (R294), and its marks follow new values (R295). -/
def State.clampShare (s : State) (i : Nat) : State :=
  let w := s.setWy i
  (s.modSet i (fun x => { x with
    share := max (s.afld (.med w) MED_SLC_CTRL 7 0) (min x.share (s.afld (.med w) MED_SLC_CTRL 15 8)) })).slcMarks i

/-- A port's LLDP tells a new Receive time at once (R381). -/
def State.lldpCommit (old s : State) (p : Page) : State :=
  match p with
  | .mac w n => State.lldpIfNew old s w n.val
  | _ => s

/-- What follows a COMMIT on a page: the brick forms or joins a wall (R191, R192), waits are judged anew (R107), shares and power states
follow (R294, R480). -/
def State.afterCommit (s : State) (p : Page) : State :=
  match p with
  | .mtr w =>
    if bitOf (s.act p MTR_JOIN_CTRL) 1 then (if s.running w then (s.form w).clearJoin 1 else s)
    else if bitOf (s.act p MTR_JOIN_CTRL) 0 && s.running w then s.join w else s
  | .rlf w => s.refuseOverdue w
  | .med w => (s.setsOf w).foldl (fun s i => s.clampShare i) s
  | .pwr _ => s.powerEval
  | _ => s

/-- COMMIT (R410) by a source numbered as R407: nothing pending changes nothing; a value out of range or a broken rule applies nothing and
is recorded; else every shadow takes effect, in both wythes where the setting is brick-wide. -/
def State.commitPage (s : State) (p : Page) (src : Nat) : State :=
  if !s.shadowPending p then s
  else match s.commitRange p with
    | some off => s.pageError p 0x80 off src
    | none => match s.commitRule p with
      | some (code, off) => s.pageError p code off src
      | none =>
        let s1 := s.applyShadows p
        let peerUp := (pageWy p).any (fun w => s.running w.peer)
        State.lldpCommit s ((if peerUp then s1.copyWide p else s1).afterCommit p) p

end Sys2Proof.Machine
end

