-- ==== Sys2Proof/Machine/UnitState.lean ====
section
/-! DEFINITION. The states of units and their tests (R33, R38, R404-R407, R510-R516): what a PAGE_CTRL write does, and what becomes of a
unit's channels. -/

namespace Sys2Proof.Machine

/-! ### A unit and its channels (R33, R341) -/

/-- The pages whose units take state writes (R405). -/
def isUnit : Page → Bool
  | .til _ _ | .crs _ _ | .pnl _ _ | .mac _ _ | .chn _ => true
  | _ => false

/-- The pages with the events of R517. -/
def unitEvents : Page → Bool
  | .til _ _ | .pnl _ _ => true
  | .crs _ n => !isMediaCourse n.val
  | _ => false

/-- The home channels that a unit's media tiles drive (R3). -/
def unitChans : Page → List Nat
  | .til w t => if tileKind t.val = .media then [32 * w.num + t.val / 32 * 8 + t.val % 8] else []
  | .crs w n => if isMediaCourse n.val then (List.range 8).map (fun k => 32 * w.num + n.val / 4 * 8 + k) else []
  | .pnl w n => (List.range 8).map (fun k => 32 * w.num + n.val * 8 + k)
  | _ => []

/-- A unit of wythe w stops driving a home channel: it goes to the peer as LENT when the peer's tile can drive it; a channel of the peer
that the unit drove is released (R33, R341). -/
def State.giveChan (s : State) (w : Wy) (c : Nat) : State :=
  let other := (c + 32) % 64
  let s1 := if (s.chan c).owner = some w then
      s.modChan c (fun x => { x with releasing := true, lending := s.running w.peer && s.wantsChan w.peer c })
    else s
  if (s1.chan other).owner = some w && (s1.chan other).mode = .lent then
    s1.modChan other (fun x => { x with releasing := true, lending := false })
  else s1

/-- A unit of wythe w takes a home channel back: at once when nobody drives it, else once the peer has released it (R343). -/
def State.backChan (s : State) (w : Wy) (c : Nat) : State :=
  let x := s.chan c
  if x.owner = none then s.takeChannel w c
  else if x.owner = some w.peer && x.mode = .lent then s.modChan c (fun x => { x with releasing := true, lending := false })
  else s

/-- A unit goes out of use: its channels are handed over. -/
def State.unitDown (s : State) (p : Page) : State :=
  match pageWy p with
  | some w => (unitChans p).foldl (fun s c => s.giveChan w c) s
  | none => s

/-- A unit comes back into use: its channels are taken back. -/
def State.unitUp (s : State) (p : Page) : State :=
  match pageWy p with
  | some w => (unitChans p).foldl (fun s c => s.backChan w c) s
  | none => s

/-- A unit becomes FAILED: its jobs end, its channels are handed over and a tile's buffers are orphans (R32, R368, R406). -/
def State.markFailed (s : State) (p : Page) : State :=
  let s1 := (s.setUnit p .failed).modUjob p (fun u => { u with goal := none, needTest := true, test := none })
  let s2 := match p with
    | .til w t => s1.orphanBufs w t.val
    | _ => s1
  s2.unitDown p

/-! ### Tests (R38, R510-R516) -/

/-- The tiles that a unit's test takes out (R38). -/
def testTiles : Page → List Nat
  | .til _ t => [t.val]
  | .crs _ n => (List.range 8).map (fun k => n.val * 8 + k)
  | .pnl _ n => (List.range 32).map (fun k => n.val * 32 + k)
  | _ => []

/-- Every kind of tile. -/
def tileKinds : List TileKind := [.protocol, .codec, .crypt, .control, .media]

/-- Without some tiles, every kind still has a tile that serves in the wythe (R38). -/
def State.kindsLeft (s : State) (w : Wy) (without : List Nat) : Bool :=
  tileKinds.all (fun k => (List.range 128).any (fun t =>
    tileKind t = k && !without.contains t && s.tileServes w (Fin.ofNat 128 t)))

/-- A page's unit is in TESTING. -/
def State.testing (s : State) (f : Page → Bool) : Nat := (s.units.filter (fun u => u.test.isSome && f u.page)).length

/-- The page is a tile's or course's of a wythe. -/
def tileOrCourse (w : Wy) : Page → Bool
  | .til v _ | .crs v _ => v = w
  | _ => false

/-- The page is a panel's. -/
def isPanel : Page → Bool
  | .pnl _ _ => true
  | _ => false

/-- The wythe whose TST page a unit's test writes. -/
def State.testWy (s : State) (p : Page) : Wy :=
  match p with
  | .chn c => (s.chan c.val).owner.getD (homeOf c.val)
  | _ => (pageWy p).getD .w0

/-- The conditions of R38 and R511 on a test. -/
def State.testAllowed (s : State) (p : Page) : Bool :=
  match p with
  | .til w _ | .crs w _ => s.kindsLeft w (testTiles p) && decide (s.testing (tileOrCourse w) < 4)
  | .pnl w _ => s.kindsLeft w (testTiles p) && s.running w.peer && decide (s.testing isPanel = 0)
  | _ => true

/-- The states a unit's test starts from: those of R406, and of units that drive channels or a link only those in which the unit is out of
use (R510). -/
def testFrom (p : Page) (u : UnitSt) : Bool :=
  match u with
  | .offline | .bypassed => true
  | .quiesced => unitChans p = [] && (match p with | .mac _ _ | .chn _ => false | _ => true)
  | _ => false

/-- Write TST_RESULT: result, block code, duration in ms, saturating (R516, R518). -/
def State.testResult (s : State) (w : Wy) (result block ms_ : Nat) : State :=
  s.setReg (.tst w) TST_RESULT (word (result + block * 256 + satBits 16 ms_ * 65536))

/-- TEST_START on a unit page (R38, R406, R510-R512). -/
def State.startTest (s : State) (p : Page) (src : Nat) : State :=
  let w := s.testWy p
  let u := s.unit p
  if !testFrom p u || (s.ujob p).goal.isSome then s.pageError p 0x82 PAGE_CTRL src
  else if !s.testAllowed p then
    ((s.pageError p 0x85 PAGE_CTRL src).bump (.tst w) TST_CNT_REFUSED).testResult w 6 (pageBlock p) 0
  else
    let s1 := ((s.setUnit p .testing).modUjob p (fun x => { x with test := some (u, s.now) })).bump (.tst w) TST_CNT_RUN
    match p with
    | .pnl _ _ => s1.bump p PNL_CNT_TEST
    | .mac _ _ => s1.setReg p MAC_LOOPBACK 1
    | _ => s1

/-- The register that shows the duration of a unit's last test. -/
def testTimeReg : Page → Option Nat
  | .til _ _ => some TIL_TEST_TIME
  | .crs _ n => if isMediaCourse n.val then none else some CRS_TEST_TIME
  | _ => none

/-- A unit's test ends with a result (R406, R510, R513, R515, R516): 0 passes and 5 is ABORTED, which both return the unit to its earlier
state; any other result fails the unit, but a channel, which stays BYPASSED and DEGRADED. -/
def State.endTest (s : State) (p : Page) (code info us_ : Nat) : State :=
  match (s.ujob p).test with
  | none => s
  | some (before, _) =>
    let w := s.testWy p
    let s1 := (s.modUjob p (fun u => { u with test := none })).testResult w code (pageBlock p) (us_ / 1000)
    let s2 := match testTimeReg p with
      | some off => s1.setReg p off (word us_)
      | none => s1
    let s3 := (if unitEvents p then s2.event p UNIT_EVT_TEST_DONE else s2).event (.tst w) TST_EVT_DONE
    let s4 := match p with
      | .mac _ _ => s3.setReg p MAC_LOOPBACK 0
      | _ => s3
    let s5 := s4.setRfld p PAGE_STATE 9 9 (b2n (code = 0))
    if code = 0 then
      let s6 := (s5.setUnit p before).modUjob p (fun u => { u with needTest := false })
      match p with
      | .chn c => s6.anchorRec (setOf c.val) (.channelState c.val false true)
      | _ => s6
    else if code = 5 then (s5.setUnit p before).bump (.tst w) TST_CNT_REFUSED
    else
      let s6 := ((s5.bump (.tst w) TST_CNT_FAIL).event (.tst w) TST_EVT_FAIL).pageError p code info 1
      match p with
      | .chn _ => s6.setUnit p .bypassed
      | _ => s6.markFailed p

/-- Tests whose conditions have broken, or all that `f` selects, end ABORTED (R515). -/
def State.abortTests (s : State) (f : Page → Bool) : State :=
  (s.units.filter (fun u => u.test.isSome && f u.page)).foldl (fun s u =>
    s.endTest u.page 5 0 ((s.now - (u.test.map (fun t => t.2)).getD s.now) / 1000)) s

/-! ### PAGE_CTRL (R405, R406) -/

/-- Erase one block that holds no live data, under an intent (R326, R513). -/
def State.eraseOne (s : State) (k : Nat) : State :=
  let die := k / 8192
  let plane := k / 2048 % 4
  let i := setOf (die / 32)
  let blocks := (List.replicate 4 0).set plane (k % 2048)
  let s1 := (s.anchorRec i (.eraseIntent die (2 ^ plane) blocks 1)).modBlk k (fun b => { b with use := .intent })
  let q := eraseReq true die (2 ^ plane) blocks (s1.blk k).intent
  s1.submit (s1.setWy i) q.1 q.2 (.eraseOnly i)

/-- ENABLE, QUIESCE or BYPASS changes to a value (R406): none where the unit's state does not list the write. -/
def State.ctrlBit (s : State) (p : Page) (bit : Nat) (on : Bool) : Option State :=
  let u := s.unit p
  let j := s.ujob p
  let go := fun (g : UnitSt) (s : State) => s.modUjob p (fun x => { x with goal := some g })
  match bit, on with
  | 0, true =>
    if u = .offline && !(j.needTest && s.rfld p PAGE_STATE 9 9 = 0) then
      some (((s.setUnit p .online).modUjob p (fun x => { x with needTest := false })).unitUp p)
    else none
  | 0, false => if u = .online || u = .quiesced then some (go .offline s) else none
  | 1, true => if u = .online then some ((s.setUnit p .quiescing).modUjob p (fun x => { x with goal := some (x.goal.getD .quiesced) })) else none
  | 1, false => if u = .quiesced then some (s.setUnit p .online) else none
  | 2, true =>
    if u = .online || u = .quiescing || u = .quiesced then
      let s1 := (go .bypassed s).unitDown p
      match p with
      | .mac w n => some (s1.linkDown w n.val)
      | _ => some s1
    else none
  | 2, false =>
    if u ≠ .bypassed || j.goal.isSome then none
    else
      let back : UnitSt := if s.rfld p PAGE_CTRL 1 1 = 1 then .quiesced else .online
      if unitChans p ≠ [] then some ((go back s).unitUp p)
      else
        let s1 := s.setUnit p back
        match p with
        | .chn c =>
          if s.rfld p PAGE_STATE 9 9 = 0 then some s1
          else
            let s2 := s1.modChan c.val (fun x => { x with degraded := false })
            some ((s2.media.blocks.filter (fun e => e.1 / 8192 / 32 = c.val && e.2.use = .taken)).foldl (fun s e => s.eraseOne e.1) s2)
        | _ => some s1
  | _, _ => none

/-- The bits of PAGE_CTRL [2:0] that a write changes. -/
def ctrlChange (old new : Nat) : List Nat := (List.range 3).filter (fun n => bits old n n ≠ bits new n n)

/-- A write of PAGE_CTRL (R405, R406) by a source numbered as R407: COMMIT first, judged on its own; then at most one change of ENABLE,
QUIESCE and BYPASS, or TEST_START alone; anything else is refused whole. On a page without a unit BAR0 is refused and a control tile's
write has no effect. -/
def State.writePageCtrl (s : State) (p : Page) (v : Word) (src : Nat) : State :=
  let s1 := if bitOf v 4 then s.commitPage p src else s
  let change := ctrlChange (s1.rfld p PAGE_CTRL 2 0) (fld v 2 0)
  let refuse := s1.pageError p 0x82 PAGE_CTRL src
  if change = [] && !bitOf v 3 then s1
  else if !isUnit p then (if src = 0 then refuse else s1)
  else match change with
    | [] => s1.startTest p src
    | [b] =>
      if bitOf v 3 then refuse
      else match s1.ctrlBit p b (bitOf v b) with
        | some s2 => s2.setRfld p PAGE_CTRL b b (b2n (bitOf v b))
        | none => refuse
    | _ => refuse

end Sys2Proof.Machine
end

