-- ==== Sys2Proof/Machine/Window.lean ====
section
/-! DEFINITION. The protected windows (R20-R22): records that wait for the mirror, those lost with a wythe, and the bytes that a wythe's own
half holds. -/

namespace Sys2Proof.Machine

/-- The peer has confirmed the mirror of a record (R20): it is acknowledged to the brick it came from, or this brick's own commit, adopted
record or chunk copy goes on. -/
def State.confirm (s : State) (w : Wy) (x : Placing) : State :=
  let s1 := (s.mirrored w).ackPlaced w x
  match x with
  | .index p _ r none => (s1.settleCommits w).otherPlaced p s.myId r.version
  | .copy id off none => s1.ackWhole w id off
  | _ => s1

/-- The records of a wythe that wait are confirmed once it can place records: at the tick or command that finds it so (log 213). -/
def State.confirmAll (s : State) (w : Wy) : State :=
  if s.canPlace w then
    let l := s.store.unplaced.filter (fun e => e.1 = w)
    l.foldl (fun s e => s.confirm w e.2) (s.modStore (fun t => { t with unplaced := t.unplaced.filter (fun e => e.1 ≠ w) }))
  else s

/-- A record that stands in no mirror is lost with its wythe (R20, R96): a key-index record with the commit that it belongs to, or a copy
of a chunk. -/
def State.losePlacing (s : State) (w : Wy) (x : Placing) : State :=
  match x with
  | .index p _ r _ =>
    (s.modStore (fun t => { t with replRecs := t.replRecs.filter (fun y => ¬ (y.p = p ∧ y.content = r)) })).modRelief w (fun y =>
      { y with commits := y.commits.filter (fun k => ¬ (k.part = p ∧ (idxSegs k).contains r)) })
  | .copy id off _ => s.modStripe id (fun y =>
      { y with recs := y.recs.filter (fun e => e.1 ≠ off), waits := y.waits.filter (fun e => e.offset ≠ off) })

/-- The records of a stopped wythe that its peer had not confirmed are lost. -/
def State.loseUnplaced (s : State) (w : Wy) : State :=
  let l := s.store.unplaced.filter (fun e => e.1 = w)
  l.foldl (fun s e => s.losePlacing w e.2) (s.modStore (fun t => { t with unplaced := t.unplaced.filter (fun e => e.1 ≠ w) }))

/-- A chunk copy is lost within the brick (R21): its stripe's lead pulls it again from a journal member, and a journal member tells the lead
which records it still has, as after an unclean stop (R241, R242). -/
def State.loseCopy (s : State) (w : Wy) (id off : Nat) : State :=
  let s1 := s.modStripe id (fun y => { y with recs := y.recs.filter (fun e => e.1 ≠ off) })
  match s1.stripe id with
  | none => s1
  | some r =>
    if r.lead = s.myId then
      r.journal.foldl (fun s b => s.mortarOut w b (wyOfGroup (fragGroup id)) (.journalStateReq (fragGroup id) id)) s1
    else s1.mortarOut w r.lead (wyOfGroup (fragGroup id)) (.journalState (journalOf r))

/-- A key-index record is lost within the brick (R21): the home collects it again from the standbys of its partition; a standby gets it back
when a later home does (R129, log 217). -/
def State.loseIndex (s : State) (w : Wy) (p v : Nat) : State :=
  let s1 := s.modStore (fun t => { t with replRecs := t.replRecs.filter (fun y => ¬ (y.p = p ∧ y.content.version = v)) })
  if s1.isHome p then
    match s1.partEntry p with
    | some e => (s1.standbys p).foldl (fun s b => s.toPart w b p (.partCollect p e.epoch)) s1
    | none => s1
  else s1

end Sys2Proof.Machine
end

