-- ==== Sys2Proof/Machine/Cover.lean ====
section
/-! DEFINITION. Stops of a wythe, cross-reset and cover (R24-R32, R131, R302, R485), and the faults of tiles, courses and panels with what
contains them. -/

namespace Sys2Proof.Machine

/-! ### What a wythe's reset clears (R409, R485) -/

/-- A register belongs to the pages that reset with a wythe: all of its own but none of CHN and the Plinth's (R409). -/
def keyOfWy (w : Wy) (k : Nat) : Bool :=
  match w with
  | .w0 => k < 0x2000000 && !(0x600000 ≤ k && k < 0x640000)
  | .w1 => 0x8000000 ≤ k

/-- Registers return to their reset values, shadows included (R409). -/
def State.dropRegs (s : State) (f : Nat → Bool) : State :=
  { s with
    regs := s.regs.filter (fun e => !f e.1)
    active := s.active.filter (fun e => !f e.1) }

/-- Set whether a wythe is running. -/
def State.setRun (s : State) (w : Wy) (b : Bool) : State :=
  match w with
  | .w0 => { s with cover := { s.cover with run0 := b } }
  | .w1 => { s with cover := { s.cover with run1 := b } }

/-- Set whether a wythe is held in reset. -/
def State.setHeld (s : State) (w : Wy) (b : Bool) : State :=
  match w with
  | .w0 => { s with cover := { s.cover with held0 := b } }
  | .w1 => { s with cover := { s.cover with held1 := b } }

/-- Set whether a wythe has sent its FAILED notice and the peer has not taken it. -/
def State.setNotice (s : State) (w : Wy) (b : Bool) : State :=
  match w with
  | .w0 => { s with cover := { s.cover with failNote0 := b } }
  | .w1 => { s with cover := { s.cover with failNote1 := b } }

/-- A wythe has sent its FAILED notice (R24). -/
def State.notice (s : State) (w : Wy) : Bool :=
  match w with
  | .w0 => s.cover.failNote0
  | .w1 => s.cover.failNote1

/-- When a wythe last received a tie heartbeat. -/
def State.lastHb (s : State) (w : Wy) : Nat :=
  match w with
  | .w0 => s.cover.lastHb0
  | .w1 => s.cover.lastHb1

/-- A wythe receives a tie heartbeat. -/
def State.setHb (s : State) (w : Wy) : State :=
  match w with
  | .w0 => { s with cover := { s.cover with lastHb0 := s.now } }
  | .w1 => { s with cover := { s.cover with lastHb1 := s.now } }

/-- PEER_RUNNING or COVER has changed for a wythe that runs (R417). -/
def State.peerChange (s : State) (w : Wy) : State := if s.running w then s.event (.glb w) GLB_EVT_PEER_CHANGE else s

/-- A wythe stops: its queues and commands are lost with it, and the commits it has begun and its uploads stay in the mirrored window (R29,
R99, R186). -/
def State.haltWythe (s : State) (w : Wy) : State :=
  let s1 := (s.setRun w false).modWy w (fun y => { y with
    relief := { Relief.reset with
      commits := y.relief.commits
      nextCmd := y.relief.nextCmd
      uploads := y.relief.uploads }
    cip := { y.cip with jobs := [] }
    codec := []
    pairs := []
    serving := false })
  let s2 := { s1.modMedia (fun m => { m with reads := m.reads.filter (fun u => u.w ≠ w) }) with
    jobRuns := s1.jobRuns.filter (fun e => e.1 ≠ w), heldMortar := s1.heldMortar.filter (fun e => e.2.1 ≠ w) }
  (s2.abortTests (fun p => isPanel p && pageWy p = some w.peer)).peerChange w.peer

/-- A wythe is reset, with the cause that RST_CAUSE will show (R409, R419, R485), and its link goes down (R398). Its key slots are in the
anchor until ANCHOR_LOAD (R175); that their reservation records are lost stands until a substitute domain comes (R172). -/
def State.resetWythe (s : State) (w : Wy) (cause : Nat) : State :=
  let s1 := if s.running w then s.haltWythe w else s
  let s2 := s1.modWy w (fun y => { Wythe.reset w with
    relief := y.relief
    cip := { Cip.reset with resvLost := y.cip.resvLost }
    pcie := { Pcie.reset with aer := y.pcie.aer }
    start := { StartSt.reset with cause := cause, resetAt := s.now, slotB := y.start.slotB } })
  let s3 := { s2.dropRegs (keyOfWy w) with
    units := s2.units.filter (fun u => pageWy u.page ≠ some w)
    tileFaults := s2.tileFaults.filter (fun e => e.1 ≠ w)
    health := match w with
      | .w0 => { s2.health with latch0 := none }
      | .w1 => { s2.health with latch1 := none } }
  s3.setNotice w false

/-! ### Rounds and erases left open (R302, R318, R320, R326) -/

/-- The unit with a number in a round was read or rebuilt: its die's program ran, or exactly one member is missing (R320). -/
def recovered (b : SuperBlk) (r : Round) (n : Nat) : Bool :=
  r.wait.length = 1 || !r.wait.contains (b.dies.getD (placeOf b r n).2.1 0)

/-- The units of rounds left open that can be written again, and those that are lost. -/
def openUnits (b : SuperBlk) : List UnitRef × List UnitRef :=
  b.rounds.foldl (fun a r =>
    let u := r.units.zipIdx.filter (fun x => x.1.typ ≠ 5)
    if r.st = .filling then (a.1, a.2 ++ u.map (fun x => x.1))
    else if r.st = .programming && !r.folded then
      if r.wait.length = b.dies.length then (a.1, a.2 ++ u.map (fun x => x.1))
      else
        (a.1 ++ (u.filter (fun x => recovered b r x.2)).map (fun x => x.1),
         a.2 ++ (u.filter (fun x => !recovered b r x.2)).map (fun x => x.1))
    else a) ([], [])

/-- Fragments whose units are lost were never acknowledged: their senders send them again; journal segments lose their place (R320). -/
def State.loseUnits (s : State) (i : Nat) (l : List UnitRef) : State :=
  let gone := fun (f gen : Nat) => l.any (fun u => u.typ = 1 && u.owner = f && u.gen = gen)
  let dead := s.stripes.frags.filter (fun f => !f.durable && gone f.fragId f.gen)
  let s1 := dead.foldl (fun s f => s.mapDrop i 1 f.fragId f.gen) s
  let s2 := s1.modStripes (fun y => { y with
    frags := (y.frags.filter (fun f => f.durable || !gone f.fragId f.gen)).map (fun f =>
      if f.newGen.any (fun g => gone f.fragId g.1) then { f with newGen := none } else f) })
  s2.modSet i (fun x =>
    let lost := x.segs.filter (fun g => !g.durable)
    { x with
      segs := x.segs.filter (fun g => g.durable)
      unflushed := lost.flatMap (fun g => if g.ckpt then [] else g.recs) ++ x.unflushed })

/-- Resynchronise a set (R302, R320, R321): recovered units go into new rounds, every open superblock closes SHORT, and collections begin
anew. -/
def State.resyncSet (s : State) (i : Nat) : State :=
  let opened := (s.set_ i).sbs.filter (fun b => !b.closed)
  let parts := opened.map (fun b => (b, openUnits b))
  let waiting := (s.set_ i).waiting.flatMap (fun e => e.2.2)
  let s1 := s.modSet i (fun x => { x with
    waiting := []
    sbs := x.sbs.map (fun b =>
      if b.closed then { b with copying := false }
      else { b with
        rounds := (b.rounds.filter (fun r => r.st ≠ .filling)).map (fun r => if r.st = .programming then { r with st := .failed } else r) }) })
  let s2 := opened.foldl (fun s b => s.closeSb i b.id true) s1
  let s3 := s2.loseUnits i (parts.flatMap (fun e => e.2.2) ++ waiting)
  parts.foldl (fun s e => s.placeUnits i e.1.stream (streamClass e.1.stream) e.2.1) s3

/-- Each block with an intent and no ERASE_DONE is erased again with CH_ERASE_VERIFY (R326). -/
def State.redoErases (s : State) (i : Nat) : State :=
  let keys := (s.media.blocks.filter (fun e => e.2.use = .intent && setOf (e.1 / 8192 / 32) = i)).map (fun e => e.1)
  let busy := s.media.jobs.filterMap (fun j => match j.what with
    | .erase k _ _ | .eraseOnly k => if k = i then some (reqDie j.req) else none
    | _ => none)
  let s1 := (s.set_ i).sbs.foldl (fun s b =>
    (b.erasing.filter (fun d => !busy.contains d)).foldl (fun s d =>
      let blocks := ((b.blocks.find? (fun e => e.1 = d)).map (fun e => e.2)).getD []
      let key := fun p => blkKey d p (blocks.getD p 0)
      let mask := maskOf ((List.range 4).filter (fun p => keys.contains (key p)))
      let seq := ((List.range 4).map (fun p => (s.blk (key p)).intent)).foldl max 0
      let q := eraseReq true d mask blocks seq
      if mask = 0 then s.modSb i b.id (fun b => { b with erasing := b.erasing.filter (· ≠ d) })
      else s.submit (s.setWy i) q.1 q.2 (.erase i b.id 1)) s) s
  let inSb := fun k : Nat => (s.set_ i).sbs.any (fun b => b.blocks.any (fun e =>
    e.1 = k / 8192 && e.2.getD (k / 2048 % 4) 0 = k % 2048 && b.erasing.contains e.1))
  (keys.filter (fun k => !inSb k && !busy.contains (k / 8192))).foldl (fun s k =>
    let plane := k / 2048 % 4
    let q := eraseReq true (k / 8192) (2 ^ plane) ((List.replicate 4 0).set plane (k % 2048)) (s.blk k).intent
    s.submit (s.setWy i) q.1 q.2 (.eraseOnly i)) s1

/-! ### Cover (R24-R30, R131) -/

/-- The highest version that a wythe's mirrored records hold (R131). -/
def State.mirroredTop (s : State) (w : Wy) : Nat :=
  (s.store.replRecs.filter (fun r => wyOfPart r.p = w)).foldl (fun a r => max a r.content.version) 0

/-- Commits and uploads of the mirrored window go on at the covering wythe, the commands they answered being lost (R29, R99). -/
def State.moveCommits (s : State) (w : Wy) : State :=
  let r := (s.wy w.peer).relief
  let n := (s.wy w).relief.nextCmd
  let s1 := s.modRelief w (fun x => { x with
    commits := x.commits ++ r.commits.zipIdx.map (fun e => { e.1 with cmdId := n + e.2 })
    nextCmd := n + r.commits.length
    uploads := x.uploads ++ r.uploads })
  s1.modRelief w.peer (fun x => { x with
    commits := []
    uploads := [] })

/-- A covering wythe sends the index records of the commits it has taken over once more: acknowledgements on their way were meant for the
other wythe (R96, R99, R116). -/
def State.resendCommits (s : State) (w : Wy) : State :=
  let mine := fun k : Commit => wyOfPart k.part = w.peer
  ((s.wy w).relief.commits.filter mine).foldl (fun s k => s.sendIndex w k)
    (s.modRelief w (fun r => { r with commits := updAll mine (fun k => { k with acks := [] }) r.commits }))

/-- The channels that the covering wythe takes: those of the held wythe that its media tiles can drive; it drives its own LENT ones again
(R26, R29, R342). -/
def State.coverChans (s : State) (w : Wy) : State :=
  (List.range 64).foldl (fun s c =>
    if (s.chan c).owner = some w then s
    else if s.wantsChan w c then s.takeChannel w c
    else if (s.chan c).owner = some w.peer then (s.finishOld c).newOwner c none .none else s) s

/-- Partitions that a hand-back had paused open again. -/
def State.reopenPaused (s : State) : State :=
  (s.store.parts.filter (fun x => x.ready)).foldl (fun s x => s.openPart x.p) s

/-- An activation or restart of a wythe in its drain is abandoned when its peer stops, or it stops itself (R503). -/
def State.abandonDrain (s : State) : State :=
  let s1 := match s.fw.act with
    | some a => if a.comp = 4 && a.stage = 2 then (s.endDrain a.w).fwAbandon else s
    | none => s
  match s1.fw.restart with
  | some r => if (s1.wy r).relief.drain.isSome || !s1.running r then
      ((s1.endDrain r).modFw (fun y => { y with restart := none })).rstEnd r 3 0 else s1
  | none => s1

/-- The covering wythe takes up the peer's set: its write sequence resumes (R290), its open rounds and erases are finished (R302); a set that the
peer had not recovered at its start is recovered first (R318). -/
def State.takeSet (s : State) (p : Wy) : State :=
  let i := p.num
  let s1 := if (s.set_ i).loaded then s.resumeSeq i else s.loadSet i
  let s2 := (s1.resyncSet i).redoErases i
  if (s.set_ i).scanned then s2 else s2.restoreWindow p [] []

/-- A wythe covers its peer, which it holds in reset (R24, R28, R29): it takes the peer's channels and set, then its partitions, and says
so unless the cover was planned (R471). -/
def State.beginCover (s : State) (w : Wy) (planned : Bool) (cause : Nat) : State :=
  let p := w.peer
  let s1 := if planned then s else s.abandonDrain
  let s2 := (((s1.loseUnplaced p).resetWythe p cause).setHeld p true).moveCommits w
  let s3 := { s2 with cover := { s2.cover with coverer := some w, since := s.now, planned := planned, handingBack := false } }
  let s4 := (s3.coverChans w).seeHlc w (s3.mirroredTop p)
  let i := p.num
  let s5 := ((s4.resendCommits w).takeSet p).settleSet i
  let s6 := (s5.reopenPaused.medBits w).abortTests isPanel
  let s7 := (s6.peerChange w).powerEval
  if planned then s7
  else
    let s8 := s7.event (.rst w) RST_EVT_PEER_HELD
    s8.earlyWarn 9 2 (w.num * 2 ^ 32 + p.num) (leBytes 8 (w.num * 2 ^ 32 + p.num))

/-- A wythe fails (R24, R32, R483, R485): its page is FAILED, it sends its notice and stops. -/
def State.failWythe (s : State) (w : Wy) : State :=
  if s.running w then ((s.setUnit (.glb w) .failed).setNotice w true).haltWythe w else s

/-! ### Faults of tiles, courses and panels (R16, R32, R163, R368) -/

/-- A unit of the wythe out of use for good or on its way out. -/
def State.unitOut (s : State) (p : Page) : Bool :=
  s.unit p = .bypassed || s.unit p = .failed || (s.ujob p).goal = some .bypassed

/-- A wythe with no tile of some kind left in use fails (R32). -/
def State.wytheCheck (s : State) (w : Wy) : State := if s.running w && !s.kindsLeft w [] then s.failWythe w else s

/-- A panel whose three compute courses are all bypassed or FAILED fails (R32): its media tiles serve no more, and the peer carries its 8 home
channels. The state of such a panel's page the spec leaves open: FAILED (log 215). -/
def State.panelCheck (s : State) (w : Wy) (panel : Fin 4) : State :=
  let p := Page.pnl w panel
  let lost := (List.range 3).all (fun k => s.unitOut (.crs w (Fin.ofNat 16 (panel.val * 4 + k))))
  if lost && s.unit p ≠ .failed && s.unit p ≠ .offline then s.markFailed p else s

/-- Quiesce and bypass a course (R32). -/
def State.bypassCourse (s : State) (w : Wy) (c : Fin 16) : State :=
  let p := Page.crs w c
  if s.unitOut p then s
  else match s.ctrlBit p 2 true with
    | some s1 => s1.setRfld p PAGE_CTRL 2 2 1
    | none => s

/-- The level above takes a fault that a level cannot contain (R32): a course without a tile of some kind is bypassed, a panel without its
compute courses fails. -/
def State.contain (s : State) (w : Wy) (t : Fin 128) : State :=
  let c := courseOf t
  let kind := tileKind t.val
  let gone := (List.range 8).all (fun k =>
    let x := Fin.ofNat 128 (c.val * 8 + k)
    tileKind x.val ≠ kind || s.unit (.til w x) = .failed)
  let s1 := if gone then s.bypassCourse w c else s
  (s1.panelCheck w (panelOf t)).wytheCheck w

/-- A unit that has gone out of use by PAGE_CTRL or by a test, or has come back: the level above it is held to R32, and waiting codec jobs
are dispatched anew. -/
def State.unitChecked (s : State) (w : Wy) (p : Page) : State :=
  let s1 : State := match p with
    | .til _ t => if s.unit p = UnitSt.failed then s.contain w t else s.wytheCheck w
    | .crs _ c => (s.panelCheck w (Fin.ofNat 4 (c.val / 4))).wytheCheck w
    | _ => s.wytheCheck w
  s1.dispatchCodec w

/-- TIL_LAST_FAULT of a fault. -/
def faultNum : TileFault → Nat
  | .parity => 1
  | .ecc => 2
  | .watchdog => 3

/-- What a decryption has put out before its tile failed: the plaintext of the blocks it had done (R169). -/
def putOut (j : CryptJob) (done : Nat) : Bytes :=
  if j.encrypt then [] else counterMode (roundKeys j.key) (j.iv.getD []) (j.input.take (max j.ctx.done (done / 16 * 16)))

/-- Plaintext that a failing decryption has put out is with the client (R163). -/
def State.outGiven (s : State) (w : Wy) (ref : JobRef) (out : Bytes) : Bool :=
  match ref with
  | .readChunk id n => (s.chunkOf w id n).any (fun x => givenOut x.1 x.2 out)
  | .readInline _ => out ≠ []
  | _ => false

/-- A crypt job in a slot of a failing tile (R32, R163, R173, R186): it queues for another tile of the course, after its second failure of
another course, an encryption with a new IV. Its third failure, or a read of which bytes are with the client, ends it TILE_FAULT. -/
def State.cryptFault (s : State) (w : Wy) (t : Fin 128) (done : Nat) (j : CryptJob) : State :=
  let s1 := (s.noteRun w j.ref .crypt t).jobGone w t
  let again := { j with st := CryptSt.queued, iv := if j.encrypt then none else j.iv, course := s1.retryCourse w .crypt j.ref t,
                        since := s1.now, ctx := .fresh }
  let out := putOut j (if isRunning j then done else 0)
  if 3 ≤ (s1.failedOn w j.ref .crypt).length || s1.outGiven w j.ref out then s1.endCrypt w again .tileFault out []
  else (s1.modJob w j.ref (fun _ => again)).bump (.til w t) TIL_CNT_RETRIED

/-- A chunk of a read meets the third TILE_FAULT of a codec job, or one after bytes of it have gone to the client (R163); a PATCH that reads it
ends as a write does (R154). -/
def State.readFault (s : State) (w : Wy) (id n : Nat) (given : Bool) : State :=
  match s.chunkOf w id n with
  | none => s
  | some (c, x) =>
    if given then s.taint w c n x
    else if c.op = .get then (s.endJobs w id).finish w c .internal .none 0 0 0
    else s.writeFails w id false

/-- A decompression of a GET has put out some plaintext before its tile failed: it is with the client (R71, R163). -/
def State.decodedOut (s : State) (w : Wy) (id n done : Nat) : State :=
  match s.chunkOf w id n with
  | some (c, x) =>
    match c.readVer, decodeBytes (ofLe (sliceBytes x.body 16 1)) x.data with
    | some v, some d => s.deliver w c v x.ent.start (d.take done)
    | _, _ => s
  | none => s

/-- Bytes of a chunk are with the client when a codec job of its read fails: a GET's, decoded in part or being re-verified (R163, R164). -/
def State.codecGiven (s : State) (w : Wy) (j : CodecJob) (done : Nat) : Bool :=
  match j.ref with
  | .readChunk id n => (s.chunkOf w id n).any (fun x => x.1.op = .get && (j.unit = .hash || done ≠ 0))
  | _ => false

/-- A codec job fails on its tile (R32): it runs again on another tile of the course, then of another course. The third failure goes to its
issuer: a write ends INTERNAL (R154), a read as R163 says. -/
def State.codecFault (s : State) (w : Wy) (t : Fin 128) (done : Nat) (j : CodecJob) : State :=
  let s1 := (s.noteRun w j.ref .codec t).jobGone w t
  let given := s1.codecGiven w j done
  if 3 ≤ (s1.failedOn w j.ref .codec).length || given then
    let s2 := (s1.modCodec w (fun l => l.filter (fun x => !isCodec j.unit j.ref x))).forgetRuns w j.ref .codec
    match j.ref with
    | .readChunk id n => (if given && j.unit = .decompress then s2.decodedOut w id n done else s2).readFault w id n given
    | .cut id _ | .writeChunk id _ => s2.writeFails w id false
    | _ => s2
  else
    let c := s1.retryCourse w .codec j.ref t
    ((s1.modCodec w (updFirst (isCodec j.unit j.ref) (fun x => { x with tile := none, course := c }))).bump (.til w t)
      TIL_CNT_RETRIED).dispatchCodec w

/-- A job whose DRAM buffer met an uncorrectable error fails (R19): its bytes are gone, so no tile runs it again and its issuer meets the
result TILE_FAULT (log 216). -/
def State.bufferFault (s : State) (w : Wy) (ref : JobRef) : State :=
  let s1 := ((s.wy w).cip.jobs.filter (fun j => j.ref = ref)).foldl (fun s j => s.endCrypt w j .tileFault [] []) s
  match (s1.wy w).codec.find? (fun j => j.ref = ref) with
  | none => s1
  | some j =>
    let s2 := s1.dropCodec w j
    match ref with
    | .readChunk id n => s2.readFault w id n (s1.codecGiven w j 0)
    | .cut id _ | .writeChunk id _ => s2.writeFails w id false
    | _ => s2

/-- The read of payload that a protocol tile runs for an operation is issued again (R32). -/
def State.pullAgain (s : State) (w : Wy) (c : Cmd) (n q : Nat) : State :=
  if c.phase = .pulling then s.emit (.pull w q c.id n c.cap.bufAddr.toNat c.cap.bufRkey.toNat c.cap.length.toNat)
  else match c.ops[n]? with
    | some o => s.emit (.pull w q c.id n (o.bufAddr + o.data.length) o.bufRkey (o.asked - o.data.length))
    | none => s

/-- A pull fails on its protocol tile (R32): it is issued again, and the third failure ends the write INTERNAL (R154). -/
def State.pullFault (s : State) (w : Wy) (t : Fin 128) (id n : Nat) : State :=
  match (s.wy w).relief.pulls.find? (fun p => p.1 = id && p.2.1 = n), (s.wy w).relief.cmd id with
  | some p, some c =>
    let s1 := s.noteRun w (.pull id n) .protocol t
    if 3 ≤ (s1.failedOn w (.pull id n) .protocol).length then
      (((s1.modRelief w (fun r => { r with pulls := r.pulls.erase p })).modQueue w p.2.2 (fun x => { x with dma := x.dma - 1 })).writeFails w
        id false).sendAcks w p.2.2
    else (s1.pullAgain w c n p.2.2).bump (.til w t) TIL_CNT_RETRIED
  | _, _ => s

/-- The jobs of some tiles that leave them for other tiles without having failed: the tile or the course goes out of use, and each restarts
from its DRAM buffers (R32). -/
def State.moveJobs (s : State) (w : Wy) (onTiles : Fin 128 → Bool) (away : Fin 16 → Fin 16) : State :=
  let leaves := fun j : CryptJob => match j.st with
    | .running t | .suspended t => onTiles t
    | _ => false
  let s1 := s.modCip w (fun k => { k with jobs := updAll leaves (fun j =>
    { j with st := .queued, iv := if j.encrypt then none else j.iv, course := away j.course, since := s.now, ctx := .fresh }) k.jobs })
  (s1.modCodec w (updAll (fun j => j.tile.any onTiles) (fun j => { j with tile := none, course := away j.course }))).dispatchCodec w

/-- The second fault of a tile within 60 s: FAILED and bypassed (R32), its buffers orphans (R368), its other jobs on other tiles. -/
def State.tileFails (s : State) (w : Wy) (t : Fin 128) (f : TileFault) : State :=
  let p := Page.til w t
  let s1 := ((s.markFailed p).setRfld p PAGE_CTRL 2 2 1).moveJobs w (fun x => x = t) id
  (s1.pageError p 0x86 0 (1 + faultNum f * 256)).contain w t

/-- A job fails on a tile (R32): the crypt jobs in its slots, the codec job or the pull named. Jobs of control tiles and the requests of
media tiles run again without a mark on the state (log 214). -/
def State.jobFault (s : State) (w : Wy) (t : Fin 128) (job : Option JobRef) (done : Nat) : State :=
  match tileKind t.val with
  | .crypt => ((s.wy w).cip.jobs.filter (onTile t)).foldl (fun s j => s.cryptFault w t (if job = some j.ref then done else 0) j) s
  | .codec => ((s.wy w).codec.filter (fun j => j.tile = some t && job = some j.ref)).foldl (fun s j => s.codecFault w t done j) s
  | .protocol => match job with
    | some (.pull id n) => s.pullFault w t id n
    | _ => s
  | _ => s

/-- A fault of a tile (R16, R32): its job fails, and the second within 60 s ends the tile. -/
def State.faultOn (s : State) (w : Wy) (tile : Fin 128) (fault : TileFault) (job : Option JobRef) (done : Nat) : State :=
  let p := Page.til w tile
  let s1 := ((s.setReg p TIL_LAST_FAULT (word (faultNum fault))).bump p TIL_CNT_FAULT).event p UNIT_EVT_FAULT
  let again := s.tileFaults.any (fun e => e.1 = w && e.2.1 = tile.val && s.now < e.2.2 + sec 60)
  let s2 := { s1 with tileFaults := s1.tileFaults.filter (fun e : Wy × Nat × Nat => ¬ (e.1 = w ∧ e.2.1 = tile.val)) ++ [(w, tile.val, s.now)] }
  let s3 := s2.jobFault w tile job done
  if s.unit p = .offline then s else if again then s3.tileFails w tile fault else s3

/-- An uncorrectable error of a course's SRAM is counted where the course's page has the counter (R517), and is an event (R16). -/
def State.sramFault (s : State) (w : Wy) (c : Fin 16) : State :=
  let crs := Page.crs w c
  if isMediaCourse c.val then s.event crs CRS_EVT_SRAM_UNCORR else (s.bump crs CRS_CNT_SRAM_UNCORR).event crs UNIT_EVT_FAULT

/-- A fault of a course's SRAM or scheduler (R32): its jobs restart on other courses, and it is quiesced and bypassed. -/
def State.courseFault (s : State) (w : Wy) (t : Fin 128) : State :=
  let c := courseOf t
  let s1 := s.bypassCourse w c
  let away := fun k : TileKind => (s1.leastLoaded w k (courses.filter (fun d => d ≠ c))).getD c
  let s2 := s1.modCip w (fun x => { x with
    jobs := updAll (fun j => j.course = c && !inContext j) (fun j => { j with course := away .crypt }) x.jobs })
  let s3 := s2.modCodec w (updAll (fun j => j.course = c && j.tile.isNone) (fun j => { j with course := away .codec }))
  let s4 := (s3.moveJobs w (fun x => tileKind x.val = .crypt && courseOf x = c) (fun _ => away .crypt)).moveJobs w
    (fun x => tileKind x.val = .codec && courseOf x = c) (fun _ => away .codec)
  (s4.panelCheck w (panelOf t)).wytheCheck w

/-- A fault of a panel's grout slice (R32): it isolates the panel, whose jobs restart elsewhere, and whose 8 channels the peer carries. -/
def State.sliceFault (s : State) (w : Wy) (t : Fin 128) : State :=
  let n := panelOf t
  let p := Page.pnl w n
  if s.unit p = .failed || s.unit p = .offline then s
  else
    let s1 := s.markFailed p
    let away := fun (k : TileKind) (c : Fin 16) =>
      (s1.leastLoaded w k (courses.filter (fun d => d.val / 4 ≠ n.val))).getD c
    ((s1.moveJobs w (fun x => tileKind x.val = .crypt && panelOf x = n) (away .crypt)).moveJobs w
      (fun x => tileKind x.val = .codec && panelOf x = n) (away .codec)).wytheCheck w

/-- TILE_FAULT (R16, R32): a fault and where it stands. In a tile or a word of its course's SRAM that it works on, the job fails; `done` is
how many bytes the job had put out. A corrected SRAM error counts in the CRS page's ERR_COUNT (R16); a fault of a course, a grout slice or a
hub is that level's own (R32). -/
def execTileFault (w : Wy) (tile : Fin 128) (fault : TileFault) (job : Option JobRef) (done : Nat) (site : FaultSite) (s : State) :
    Host.Outcome State Fault Refusal :=
  .next (if !s.running w then s
    else match site with
      | .tile => s.faultOn w tile fault job done
      | .sramCorrected => s.countError (.crs w (courseOf tile))
      | .sramWord => (s.sramFault w (courseOf tile)).faultOn w tile fault job done
      | .course => s.courseFault w tile
      | .slice => s.sliceFault w tile
      | .hub => s.failWythe w)

end Sys2Proof.Machine
end

