-- ==== Sys2Proof/Machine/HealthLog.lean ====
section
/-! DEFINITION. The health log's contents (R465-R472): the summary, the sections and the end-of-life factors' values. -/

namespace Sys2Proof.Machine

/-- Change the health state. -/
def State.modHealth (s : State) (f : Health → Health) : State := { s with health := f s.health }

/-- Days since 2020-01-01 by the Plinth's time (R8, R470). -/
def State.today (s : State) : Nat := s.plinthTime / 4096 / 86400000000

/-- Signed values as little-endian bytes. -/
def leInt (n : Nat) (i : Int) : Bytes := leBytes n (ofSigned (8 * n) i)

/-- The fewest spare blocks left on any die, and that die (R469). -/
def State.fewest (s : State) : Nat × Nat :=
  s.media.dies.foldl (fun a e => if e.2.spares < a.1 || (e.2.spares = a.1 && a.1 < 256 && e.1 < a.2) then (e.2.spares, e.1) else a) (256, 0)

/-- The capacitance of a bank in 0.01% of rated: its last test's; an untested bank is as rated (R467). -/
def capNow (c : CapBank) : Nat := ((c.tests.getLast?).map (fun t => t.cap)).getD 10000

/-- The usable energy of a bank in 0.1 J: 34 J at its rated capacitance (R467). -/
def capEnergy (cap : Nat) : Nat := (340 * cap + 5000) / 10000

/-- The largest delay shift of the ageing sensors in ppm (R466). -/
def State.maxShift (s : State) : Int := s.health.ages.foldl (fun a x => max a x.shift) 0

/-- Whole GiB. -/
def inGib (n : Nat) : Nat := n / 2 ^ 30

/-- The highest temperature that any sensor has shown, in 0.1 °C (R472). -/
def State.hottest (s : State) : Int :=
  (s.health.temps.filter (fun t => t.seen)).foldl (fun (a : Option Int) t => some (max (a.getD t.high) t.high)) none |>.getD 0

/-- The summary, section 0 (R472). -/
def State.summary (s : State) : Bytes :=
  let few := s.fewest
  let h := s.health
  padTo 64 (leBytes 2 s.wearUsed ++ leBytes 2 few.1 ++ leBytes 2 few.2 ++ leBytes 2 h.eolDay ++ leBytes 1 h.eolFactor
    ++ leBytes 1 (b2n s.replaceSet) ++ leBytes 2 s.front.mating ++ h.caps.flatMap (fun c => leBytes 2 (capNow c)) ++ leInt 4 s.maxShift
    ++ leBytes 8 (inGib h.fragBytes) ++ leBytes 8 (inGib h.mediaBytes) ++ leInt 2 s.hottest ++ leBytes 2 h.lost.length)

/-- HEALTH_SNAPSHOT (R473): the Plinth records bytes 0-31 of the summary. -/
def State.snapshot (s : State) : State := s.record 0 1 0x0601 (pageIdOf (.hlt .w0)).toNat (s.summary.take 32)

/-- Mean wear of a die in units, over its blocks counted in R336. -/
def State.dieWear (s : State) (d : Nat) : Nat :=
  let l := s.goodBlocks d
  l.foldl (fun a k => a + (s.blk k).wear) 0 / l.length

/-- The blocks of a die that are retired. -/
def State.dieGone (s : State) (d : Nat) : Nat :=
  (s.media.blocks.filter (fun e => e.1 / 8192 = d && (match e.2.use with | .retired _ => true | _ => false))).length

/-- A temperature record, 96 bytes (R472). -/
def tempBytes (t : TempRec) : Bytes :=
  padTo 96 (t.secs.flatMap (fun n => leBytes 4 (n / 60)) ++ leInt 2 t.low ++ leInt 2 t.high ++ leBytes 8 t.lowAt ++ leBytes 8 t.highAt)

/-- The trend of a bank: its last 64 tests (R472). -/
def trendBytes (c : CapBank) : Bytes :=
  padTo 1024 (c.tests.flatMap (fun t => padTo 16 (leBytes 4 t.day ++ leBytes 2 t.cap ++ leBytes 2 t.esr ++ leBytes 2 t.energy)))

/-! ### End of life (R470) -/

/-- Twice the area terms of the least-squares line through points (day, value): its slope is the first over the second. -/
def lineFit (l : List (Nat × Int)) : Int × Int :=
  let n : Int := l.length
  let sx := l.foldl (fun a e => a + (e.1 : Int)) 0
  let sy := l.foldl (fun a e => a + e.2) 0
  let sxx := l.foldl (fun a e => a + (e.1 : Int) * e.1) 0
  let sxy := l.foldl (fun a e => a + (e.1 : Int) * e.2) 0
  (n * sxy - sx * sy, n * sxx - sx * sx)

/-- The daily values kept under a code over the last 90 days. -/
def State.dailyOf (s : State) (code : Nat) : List (Nat × Int) :=
  (s.health.daily.filter (fun e => e.1 = code && s.today < e.2.1 + 90)).map (fun e => e.2)

/-- The value of a projected factor: WEAR in 0.01%, SPARES in bytes, HOLDUP in 0.01% of rated, AGEING in ppm. -/
def State.factorValue (s : State) (code : Nat) : Int :=
  if code = 1 then s.wearUsed
  else if code = 2 then s.usable
  else if code = 3 then ((s.health.caps.map capNow).foldl min 10000 : Nat)
  else s.maxShift

/-- The limit of a projected factor, and whether the value rises to it. SPARES stands against the usable capacity of a brick as delivered. -/
def factorLimit (code : Nat) : Int × Bool :=
  if code = 1 then (9500, true)
  else if code = 2 then ((State.reset.usable * 90 / 100 : Nat), false)
  else if code = 3 then (7350, false)
  else (30000, true)

/-- The rate of a projected factor per day as a fraction: the slope of its daily values, or its rated rate while fewer than 30 days stand. -/
def State.factorRate (s : State) (code : Nat) : Int × Int :=
  let l := s.dailyOf code
  if 30 ≤ l.length then lineFit l else if code = 1 then (9500, 7305) else (0, 1)

/-- The day of a projected factor; none reads as 0xFFFF. -/
def State.projectDay (s : State) (code : Nat) : Nat :=
  let v := s.factorValue code
  let lim := factorLimit code
  let r := s.factorRate code
  let reached := (if lim.2 then decide (lim.1 ≤ v) else decide (v ≤ lim.1)) || (code = 3 && s.health.holdupLow.isSome)
  let toward := if lim.2 then decide (0 < r.1) else decide (r.1 < 0)
  if reached then s.today
  else if !toward || r.2 ≤ 0 then 0xFFFF
  else s.today + ((lim.1 - v).natAbs * r.2.natAbs) / r.1.natAbs

/-- The manufacture day (R433). -/
def madeDay : Nat := ofLe ((List.range 4).map (fun i => Config.calByte (72 + i)))

/-- The days of the six factors, by code less 1. -/
def State.factorDays (s : State) : List Nat :=
  [1, 2, 3, 4].map (fun c => s.projectDay c)
    ++ [if 250 ≤ s.front.mating then s.health.matingDay.getD s.today else 0xFFFF, madeDay + 7305]

/-- The earliest day and its factor, ties to the lower code. A day beyond the field's reach reads as none. -/
def eolOf (days : List Nat) : Nat × Nat :=
  let e := days.zipIdx.foldl (fun (a : Nat × Nat) x => if x.1 < a.1 then (x.1, x.2 + 1) else a) (0xFFFF, 0)
  e

/-- The factors, section 6 (R472). The spec gives no unit for a rate, nor for the values of SPARES and SERVICE: free values. -/
def State.factorBytes (s : State) : Bytes :=
  s.factorDays.zipIdx.flatMap (fun e =>
    let code := e.2 + 1
    let open_ := fun k => freeBytes (s.fresh * 4096 + 8 * code + k) 4
    let value := if code = 5 then leBytes 4 s.front.mating else if code = 2 || code = 6 then open_ 0 else leInt 4 (s.factorValue code)
    leBytes 1 code ++ zeroBytes 3 ++ leBytes 4 e.1 ++ value ++ open_ 4)

/-! ### The sections (R472) -/

/-- The sections as the brick writes them. -/
def State.section_ (s : State) (n : Nat) : Bytes :=
  let hist := fun (t : Table Nat) k => (List.range k).flatMap (fun i => leBytes 8 ((tableGet? t i).getD 0))
  match n with
  | 0 => s.summary
  | 1 => (List.range 2048).flatMap (fun d =>
      let x := s.die d
      leBytes 2 x.spares ++ leBytes 2 (s.dieGone d) ++ leBytes 4 (s.dieWear d) ++ leBytes 4 x.parityReads ++ leBytes 4 x.uncReads)
  | 2 => hist s.media.stepHist 16 ++ hist s.media.bitHist 64
  | 3 => s.health.temps.flatMap tempBytes
  | 4 => s.health.caps.flatMap trendBytes
  | 5 => s.health.ages.flatMap (fun a => padTo 16 (leInt 4 a.shift ++ leInt 4 a.slope ++ leBytes 4 a.day))
  | 6 => s.factorBytes
  | _ => s.health.lost.flatMap (fun l => padTo 32 l.fp ++ leBytes 8 l.stripe ++ leBytes 8 l.time)

end Sys2Proof.Machine
end

