-- ==== Sys2Proof/Machine/Plinth.lean ====
section
/-! DEFINITION. The Plinth (R421-R447): its supplies, its start, the option area, key store and rekey, housekeeping, time, the PFL and EVR
banks, and the service sessions' rights. -/

namespace Sys2Proof.Machine

/-- Change the front panel. -/
def State.modFront (s : State) (f : Front → Front) : State := { s with front := f s.front }

/-! ### Supplies (R422, R522, R528) -/

/-- A 3.3 V auxiliary input is in range. -/
def auxOk (mv : Nat) : Bool := 3135 ≤ mv && mv ≤ 3465

/-- VBUS is in range. -/
def usbOk (mv : Nat) : Bool := 4750 ≤ mv && mv ≤ 5500

/-- A 3.3 V auxiliary input of the brick is in range. -/
def auxIn (p : Plinth) : Bool := auxOk p.auxA || auxOk p.auxB

/-- The source that the Plinth draws from: 1 and 2 auxiliary, 3 USB, 0 none; never USB while its sensor stands at its limit (R481). -/
def State.sourceNow (s : State) : Nat :=
  let p := s.plinth
  if auxOk p.auxA then 1 else if auxOk p.auxB then 2
  else if usbOk p.vbus && !(s.health.temps.getD 31 .reset).limited then 3 else 0

/-- The Plinth runs on USB power alone: the Service state. -/
def State.service (s : State) : Bool := s.plinth.up && s.plinth.source = 3

/-- New readings of the supplies. -/
def State.supplies (s : State) (auxA auxB vbus advert : Nat) (pd usb : Bool) : State :=
  let hot := (s.health.temps.getD 31 .reset).limited
  s.modPlinth (fun p => { p with
    auxAt := if auxOk auxA || auxOk auxB then (if auxIn p then p.auxAt else s.now) else p.auxAt
    auxA := auxA
    auxB := auxB
    vbus := vbus
    advert := advert
    pd := pd && !hot
    usbData := usb && !(s.health.temps.getD 31 .reset).over10 })

/-- The Plinth moves to the source that the readings give, or has none (R422). -/
def State.pickSource (s : State) : State :=
  let n := s.sourceNow
  if n = 0 then s.modPlinth (fun p => { p with lostAt := some (p.lostAt.getD s.now) })
  else
    let s1 := s.modPlinth (fun p => { p with
      lostAt := none
      source := n })
    if n = s.plinth.source then s1 else (s1.bump .plt PLT_CNT_SOURCE).event .plt PLT_EVT_SOURCE_CHANGE

/-- POWER_SOURCE_CHANGE (R422): new readings of the auxiliary inputs (mV), of VBUS (mV), of the Type-C advertisement (mA), of the PD contract
and of USB data. -/
def execPowerSourceChange (auxA auxB vbus advert : Nat) (pd usb : Bool) (s : State) : Host.Outcome State Fault Refusal :=
  let lost := (auxOk s.plinth.auxA && !auxOk auxA) || (auxOk s.plinth.auxB && !auxOk auxB)
  let s1 := s.supplies auxA auxB vbus advert pd usb
  .next (if !s.plinth.up then s else (if lost then s1.event .plt PLT_EVT_AUX_LOST else s1).pickSource)

/-! ### The choice of image (R499) -/

/-- The slot of a component that a ROM starts, and whether it is a trial: none when no slot is usable. -/
def State.chooseSlot (s : State) (comp set : Nat) : Option (Bool × Bool) :=
  let usable := fun b => (s.fwSlot comp set b).any s.usableSlot
  let seq := fun b => if usable b && s.slotState comp set b = 4 then ((s.fwSlot comp set b).map slotSeq).getD 0 + 1 else 0
  match [false, true].find? (fun b => usable b && s.slotState comp set b = 2) with
  | some b => some (b, true)
  | none => if seq false = 0 && seq true = 0 then none else some (decide (seq false < seq true), false)

/-- A slot's sequence by its name. -/
def State.seqOf (s : State) (comp set : Nat) (b : Bool) : Nat := ((s.fwSlot comp set b).map slotSeq).getD 0

/-- The Plinth ROM starts an image (R421, R499): a trial is stamped TRIED; FALLBACK shows that the slot with the higher sequence was not
started. -/
def State.choosePlinth (s : State) : State :=
  match s.chooseSlot 1 0 with
  | none => s
  | some (b, trial) =>
    let s1 := if trial then s.stamp 1 0 b 3 (s.seqOf 1 0 b) else s
    let other := s1.slotState 1 0 (!b)
    let s2 := s1.modPlinth (fun p => { p with
      slotB := b
      fallback := decide (s1.seqOf 1 0 b < s1.seqOf 1 0 (!b)) && other ≠ 1 && other ≠ 5 })
    match s2.fw.act with
    | some a => if a.comp = 1 && a.slotB ≠ b then s2.fwFallback else s2
    | none => s2

/-! ### The start of the Plinth (R424, R433, R435, R442, R473) -/

/-- The newest HEALTH_SNAPSHOT that the recorder holds. -/
def State.newestSnap (s : State) : Option EvtRec :=
  (s.held_.map (fun e => e.2)).foldl (fun a e =>
    if e.code ≠ 0x0601 then a else match a with
    | none => some e
    | some x => if x.seq < e.seq then some e else a) none

/-- The key-store halves as they read, each valid or not (R435). -/
def State.loadKeys (s : State) (ksA ksB : Bool) : State :=
  let bad := (s.plinth.ksA.isSome && !ksA) || (s.plinth.ksB.isSome && !ksB)
  let s1 := s.modPlinth (fun p => { p with
    ksA := if ksA then p.ksA else none
    ksB := if ksB then p.ksB else none })
  let s2 := s1.modPlinth (fun p => { p with ksOk := s1.keys.isSome })
  let s3 := if bad then s2.event .plt PLT_EVT_KEYSTORE_FAULT else s2
  if s2.keys.isNone then s3.recordOpen 0 3 .plt [] else s3

/-- Sessions end with the Plinth's firmware. -/
def State.dropSessions (s : State) : State :=
  if s.plinth.sessions = [] then s
  else ((s.modPlinth (fun p => { p with sessions := [] })).emitAll (s.plinth.sessions.map (fun x => .sessionEnd x.n))).event .svc
    SVC_EVT_SESSION_END

/-- The Plinth starts: its ROM chooses a slot and loads the calibration row and the key store, and the recorder is made good. -/
def State.plinthBoot (s : State) (cal ksA ksB : Bool) : State :=
  let s1 := (s.choosePlinth.dropSessions.recorderStart).loadKeys ksA ksB
  let s2 := s1.modPlinth (fun p => { p with
    resetAt := s.now
    calOk := cal
    heldOff := !cal || !p.ksOk })
  let s3 := if cal then s2 else s2.recordOpen 0 3 .plt []
  match s3.newestSnap with
  | some e => s3.modFront (fun f => { f with mating := ofLe (sliceBytes e.detail 10 2) })
  | none => s3

/-- A mating cycle (R459), with its snapshot (R473). -/
def State.mated (s : State) : State :=
  let n := s.front.mating + 1
  let s1 := s.modFront (fun f => { f with mating := n })
  let s2 := if n = 225 then (s1.recordOpen 0 1 .fpn (leBytes 2 n)).event .fpn FPN_EVT_MATING_HIGH
    else if n = 250 then (s1.modHealth (fun h => { h with matingDay := some s.today })).recordOpen 0 2 .fpn (leBytes 2 n)
    else s1
  s2.snapshot

/-- PLINTH_POWER_UP (R422, R424, R459): with the readings of POWER_SOURCE_CHANGE, the checks of the calibration row and the key-store
halves, and the presence contacts and SLOT_ID of the halves. -/
def execPlinthPowerUp (auxA auxB vbus advert : Nat) (pd usb cal ksA ksB presentA presentB : Bool) (slotA slotB : Nat) (s : State) :
    Host.Outcome State Fault Refusal :=
  let s1 := s.supplies auxA auxB vbus advert pd usb
  let n := s1.sourceNow
  if s.plinth.up || n = 0 then .next s
  else
    let newest := (s1.held_.map (fun e => e.2)).foldl (fun (a : Nat × Nat) e => if a.1 ≤ e.seq then (e.seq, e.time) else a) (0, 0)
    let s2 := s1.modPlinth (fun p => { p with
      up := true
      source := n
      lostAt := none
      time := newest.2
      timeAt := s.now
      uncertain := true })
    let both := presentA && presentB
    let s3 := (s2.plinthBoot cal ksA ksB).modFront (fun f => { f with
      presentA := presentA
      presentB := presentB
      early := both
      absentAt := if both then none else some (f.absentAt.getD s.now)
      slotA := slotA % 64
      slotB := slotB % 64 })
    .next (if n ≠ 3 && both then s3.mated else s3)

/-- LOSS_OF_EVERY_SUPPLY: 50 ms after the last source the Plinth stops (R422, R451, R488, R514). -/
def execLossOfEverySupply (s : State) : Host.Outcome State Fault Refusal :=
  match s.plinth.lostAt with
  | none => .next s
  | some t =>
    if !s.plinth.up || !s.since t (ms 50) then .next s
    else
      let s1 := (s.dropRegs (fun k => 0x2000000 ≤ k && k < 0x2005000)).modPlinth (fun p => { p with
        up := false
        source := 0
        training := []
        marks := []
        sessions := []
        tickets := []
        startOn := false
        restarts := []
        thermal := [] })
      .next ((s1.modRec (fun r => { r with
        queue := []
        acked := []
        banks := List.replicate 5 .reset })).modFront (fun f => { f with
        locateAt := none
        refreshing := false
        kept := none
        removeSt := 0
        unclean := false
        refusedAt := none
        deadline := none
        asking := none }))

/-! ### Housekeeping, watchdog and time (R421, R423, R424) -/

/-- A wythe hears the Plinth. -/
def State.hearPlinth (s : State) (w : Wy) : State :=
  let s1 := s.modPlinth (fun p => match w with
    | .w0 => { p with hb0 := s.now, lost0 := none, failed := false }
    | .w1 => { p with hb1 := s.now, lost1 := none, failed := false })
  s1.setRfld (.glb w) GLB_WYTHE 4 4 1

/-- HOUSEKEEPING_HEARTBEAT: the wythes that run hear the Plinth; a Plinth image in its trial has exchanged heartbeats with them and commits
(R502). -/
def execHousekeepingHeartbeat (s : State) : Host.Outcome State Fault Refusal :=
  let l := [Wy.w0, Wy.w1].filter s.running
  let s1 := l.foldl State.hearPlinth s
  .next (if !s.plinth.up then s
    else match s1.fw.act with
    | some a => if a.comp = 1 && l ≠ [] then s1.fwCommit a else s1
    | none => s1)

/-- HOUSEKEEPING_LOSS: 100 ms without a heartbeat clear PLINTH_OK. -/
def execHousekeepingLoss (w : Wy) (s : State) : Host.Outcome State Fault Refusal :=
  let last := match w with
    | .w0 => s.plinth.hb0
    | .w1 => s.plinth.hb1
  if !s.running w || !s.plinthOk w || !s.since last (ms 100) then .next s
  else
    let s1 := (s.setRfld (.glb w) GLB_WYTHE 4 4 0).event (.glb w) GLB_EVT_PLINTH_LOST
    .next (s1.modPlinth (fun p => match w with
      | .w0 => { p with lost0 := some s.now }
      | .w1 => { p with lost1 := some s.now }))

/-- PLINTH_FAILED: 10 s later the Plinth has failed; REPLACE follows from the flag, and so do the refusals of R420 and R502. -/
def execPlinthFailed (s : State) : Host.Outcome State Fault Refusal :=
  let gone := fun (w : Wy) (t : Option Nat) => s.running w && t.any (fun t => s.since t (sec 10))
  .next (if gone .w0 s.plinth.lost0 || gone .w1 s.plinth.lost1 then s.modPlinth (fun p => { p with failed := true }) else s)

/-- PLINTH_WATCHDOG: the Plinth alone is reset. -/
def execPlinthWatchdog (cal ksA ksB : Bool) (s : State) : Host.Outcome State Fault Refusal :=
  .next (if s.plinth.up then ((s.bump .plt PLT_CNT_SELF_RESET).event .plt PLT_EVT_SELF_RESET).plinthBoot cal ksA ksB else s)

/-- PLINTH_TIME_SET: the Plinth takes its time from a running wythe. -/
def execPlinthTimeSet (w : Wy) (s : State) : Host.Outcome State Fault Refusal :=
  .next (if s.plinth.up && s.running w then s.modPlinth (fun p => { p with
      time := s.hybrid w
      timeAt := s.now
      uncertain := false })
    else s)

/-- EVENT_ENTRY: the oldest entry on its way reaches the Plinth; a wythe holds its own until the Plinth answers (R423, R440). -/
def execEventEntry (s : State) : Host.Outcome State Fault Refusal :=
  let here := fun e : EvtRec => e.source = 0 || s.plinthOk (if e.source = 2 then .w1 else .w0)
  match s.arriving.findIdx? here with
  | none => .next s
  | some i =>
    match s.arriving[i]? with
    | none => .next s
    | some e => .next (if s.plinth.up then { s with arriving := s.arriving.eraseIdx i }.takeEntry e else s)

/-! ### The option area (R431, R432) -/

/-- A field of the option area: its value, and its offset when it holds one outside its range. -/
def optField (b : Bytes) (off n lo hi dflt : Nat) : Nat × List Nat :=
  let raw := sliceBytes b off n
  let v := ofLe raw
  if raw = List.replicate n 0xFF then (dflt, []) else if lo ≤ v && v ≤ hi then (v, []) else (dflt, [off])

/-- The options that the area holds, and the offsets of fields out of range; none when MAGIC or CRC is wrong. -/
def parseOptions (b : Bytes) : Option (Options × List Nat) :=
  let crc := (crc32c (b.take 8 ++ zeroBytes 4 ++ b.drop 12)).toNat
  if ofLe (sliceBytes b 0 4) ≠ 0x474C4F41 || ofLe (sliceBytes b 8 4) ≠ crc then none
  else
    let mode := optField b 16 1 1 2 2
    let deep := optField b 17 1 0 3 3
    let frame := optField b 18 2 1518 16384 9216
    let budget := optField b 20 2 640 2560 1920
    let dom := optField b 22 1 0 127 0
    let ptp := optField b 23 1 0 1 0
    let enc := optField b 24 2 0 65535 0
    let rack := optField b 26 2 0 65535 0
    let flags := optField b 28 1 0 255 0
    let port := optField b 30 2 1024 65535 7410
    let wall := optField b 32 8 1 (2 ^ 64 - 1) 0
    let tag := sliceBytes b 64 64
    some ({ portMode := mode.1, deepest := deep.1, maxFrame := frame.1, budget := budget.1, ptpDomain := dom.1, ptpMode := ptp.1,
            enclosure := enc.1, rack := rack.1, joinAuto := decide (flags.1 % 2 = 1), joinPort := port.1, joinWall := wall.1,
            joinAddr := (optField b 40 16 0 (2 ^ 128 - 1) 0).1,
            assetTag := if tag = List.replicate 64 0xFF then List.replicate 64 0 else tag },
          mode.2 ++ deep.2 ++ frame.2 ++ budget.2 ++ dom.2 ++ ptp.2 ++ port.2 ++ wall.2)

/-- Load the option area (R431); of a retired one the defaults apply (R430). -/
def State.loadOptions (s : State) : State :=
  match if s.flash.bad.contains 0 then none else parseOptions (s.flashBytes 0 4096) with
  | none =>
    ((s.modPlinth (fun p => { p with opts := .defaults, optsOk := false })).event .plt PLT_EVT_OPTIONS_DEFAULTED).recordOpen 0 1 .plt []
  | some (o, bad) => bad.foldl (fun s off => s.recordOpen 0 1 .plt (leBytes 2 off)) (s.modPlinth (fun p => { p with opts := o, optsOk := true }))

/-! ### Sessions' rights and the rekey (R437, R461, R462) -/

/-- An open session. -/
def State.session (s : State) (n : Nat) : Option Session := s.plinth.sessions.find? (fun x => x.n = n)

/-- A session holds a right (by its bit in RIGHTS): until its ticket expires, and in ROM recovery only READ and FIRMWARE. -/
def State.may (s : State) (n right : Nat) : Bool :=
  s.plinth.up && (s.session n).any (fun x => x.rights.getLsbD right && s.plinthTime ≤ x.until_) && (!s.plinth.recovery || right ≤ 1)

/-- A command of a session that needs a right: done, or refused without effect (R5, R462). -/
def State.command (s : State) (n right : Nat) (ok : Bool) (f : State → State) : State :=
  if s.may n right && ok then (f s).emit (.service n true) else s.emit (.service n false)

/-- A slot wrapped again under the KEK of a generation; one whose wrap does not hold gives no key (R179, R437). -/
def rewrapped (w : Wy) (g : Nat) (x : KeySlot) : KeySlot :=
  match keyUnwrap (kekOf w x.kekGen) x.wrapped with
  | some key => { x with kekGen := g, wrapped := keyWrap (kekOf w g) key }
  | none => x

/-- Every key-slot record of both wythes is wrapped again under a KEK generation and durable (R437 steps 2-3). -/
def State.rewrap (s : State) (g : Nat) : State :=
  wythes.foldl (fun s w =>
    let l := (s.wy w).cip.slots.map (rewrapped w g)
    (s.modCip w (fun k => { k with kekGen := g, kek := kekOf w g, slots := l })).keepSlots w l) s

/-- Steps 2-5 of a rekey, as far as they are still to be done (R437). -/
def State.finishRekey (s : State) : State :=
  match s.keys with
  | none => s
  | some k =>
    if k.pendGen = 0 then s
    else
      let s1 := if s.counter 4 < k.pendGen then (s.rewrap k.pendGen).raiseCounter 4 k.pendGen else s
      s1.writeKeys (fun x => { x with
        gen := k.pendGen
        pendGen := 0 })

/-- REKEY (R437): refused while a wythe is not running or an activation is in progress. -/
def execRekey (session : Nat) (s : State) : Host.Outcome State Fault Refusal :=
  let ok := s.running .w0 && s.running .w1 && s.fw.act.isNone && s.keys.isSome && decide (s.counter 4 < 512)
  .next (s.command session 4 ok (fun s => (s.writeKeys (fun k => { k with pendGen := k.gen + 1 })).finishRekey))

/-- RECORDER_CLEAR (R444), with the severity ceiling of the session's ticket. -/
def execRecorderClear (session : Nat) (s : State) : Host.Outcome State Fault Refusal :=
  let c := ((s.session session).map (fun x => x.ceiling)).getD 0
  .next (s.command session 3 s.recorder.clearing.isNone (fun s => s.beginClear c))

/-! ### The banks of PFL and EVR (R443, R446) -/

/-- A request of a bank. -/
def State.putPflReq (s : State) (src : AccSrc) (op : Nat → Bytes → FlashOp) : State :=
  let b := s.bank (bankOf src)
  if b.addr % 32 ≠ 0 then s.flashEnd (.bank (bankOf src)) 6 0 0 none else s.flashAsk (.bank (bankOf src)) (op b.addr b.data)

/-- A write of PFL_REQ. -/
def State.pflAsk (s : State) (src : AccSrc) (op : Nat → Bytes → FlashOp) : State :=
  s.gated src .pfl PFL_REQ (fun s => s.putPflReq src op)

/-- PFL_READ: one code word; the retry step that decodes it and the bits corrected are the array's. -/
def execPflRead (src : AccSrc) (step corrected : Nat) (s : State) : Host.Outcome State Fault Refusal :=
  .next (s.pflAsk src (fun a _ => .read a [(step, corrected)]))

/-- PFL_PROGRAM: `ok` says that the program verifies. -/
def execPflProgram (src : AccSrc) (ok : Bool) (s : State) : Host.Outcome State Fault Refusal :=
  .next (s.pflAsk src (fun a d => .program a d ok))

/-- PFL_ERASE. -/
def execPflErase (src : AccSrc) (s : State) : Host.Outcome State Fault Refusal := .next (s.pflAsk src (fun a _ => .erase (a / 4096)))

/-- The held entry with the lowest SEQ at or above a cursor. -/
def State.atCursor (s : State) (cursor : Nat) : Option EvtRec :=
  (s.held_.map (fun e => e.2)).foldl (fun a e =>
    if e.seq < cursor then a else match a with
    | none => some e
    | some x => if e.seq < x.seq then some e else a) none

/-- The entry at a bank's cursor. -/
def State.evrHere (s : State) (n : Nat) : Option Bytes := (s.atCursor (s.bank n).cursor).map entryBytes

/-- A bank latches the entry at its cursor, or shows AT_END. -/
def State.evrLatch (s : State) (n : Nat) : State :=
  let b := s.evrHere n
  s.modBank n (fun k => { k with
    latch := b
    seen := [0]
    atEnd := b.isNone })

/-- EVR_WINDOW_LATCH: a read of EVR_WINDOW0. -/
def execEvrWindowLatch (src : AccSrc) (s : State) : Host.Outcome State Fault Refusal :=
  let n := bankOf src
  .next (s.readGate src .evr EVR_WINDOW0 (ofLe (((s.evrHere n).getD []).take 4)) (fun s => s.evrLatch n))

/-- A word of a bank's latched entry is read (R443). -/
def State.evrSee (s : State) (n k : Nat) : State :=
  s.modBank n (fun b => { b with seen := if b.seen.contains k then b.seen else b.seen ++ [k] })

/-- A read of EVR_WINDOW15: a bank's cursor moves past its latched entry; a CRITICAL entry read in full, all of its 16 words, by BAR0 or a
service session is acknowledged (R443, R451). -/
def State.evrAdvance (s : State) (n : Nat) : State :=
  match (s.bank n).latch with
  | none => s
  | some d =>
    let e := entryOf d
    let full := (List.range 15).all (fun k => (s.bank n).seen.contains k)
    let s1 := s.modBank n (fun k => { k with cursor := e.seq + 1 })
    if full && e.severity = 3 && n ≠ 2 && n ≠ 3 && !s.recorder.acked.contains e.seq then
      s1.modRec (fun r => { r with acked := r.acked ++ [e.seq] })
    else s1

/-- EVR_WINDOW_ADVANCE: a read of EVR_WINDOW15. -/
def execEvrWindowAdvance (src : AccSrc) (s : State) : Host.Outcome State Fault Refusal :=
  let n := bankOf src
  .next (s.readGate src .evr EVR_WINDOW15 (ofLe (sliceBytes ((s.bank n).latch.getD []) 60 4)) (fun s => s.evrAdvance n))

/-- A bank's cursor takes a low half, with the high half held or its own. -/
def State.setCursor (s : State) (n : Nat) (lo : Word) : State :=
  s.modBank n (fun k => { k with
    cursor := k.hiHeld.getD (k.cursor / 2 ^ 32) * 2 ^ 32 + lo.toNat
    hiHeld := none })

/-- EVR_CURSOR_SET: a write of EVR_CURSOR_LO. -/
def execEvrCursorSet (src : AccSrc) (lo : Word) (s : State) : Host.Outcome State Fault Refusal :=
  .next (s.gated src .evr EVR_CURSOR_LO (fun s => s.setCursor (bankOf src) lo))

end Sys2Proof.Machine
end

