-- ==== Sys2Proof/Machine/Start.lean ====
section
/-! DEFINITION. The steps of a start (R487-R490, R499, R318, R484) and their record (R438). -/

namespace Sys2Proof.Machine

/-- Change a wythe's start. -/
def State.modStart (s : State) (w : Wy) (f : StartSt → StartSt) : State := s.modWy w (fun y => { y with start := f y.start })

/-- Where a wythe's start stands. -/
def State.startOf (s : State) (w : Wy) : StartSt := (s.wy w).start

/-- A wythe is released from reset. -/
def State.released (s : State) (w : Wy) : Bool :=
  match w with
  | .w0 => s.cover.rel0
  | .w1 => s.cover.rel1

/-- Set whether a wythe is released from reset. -/
def State.setRel (s : State) (w : Wy) (b : Bool) : State :=
  match w with
  | .w0 => { s with cover := { s.cover with rel0 := b } }
  | .w1 => { s with cover := { s.cover with rel1 := b } }

/-! ### The record of a step (R438, R490) -/

/-- How much a result weighs when the wythes' results of one step differ: FAILED, ALTERNATE, SKIPPED, DONE. -/
def resultRank (r : Nat) : Nat := if r = 1 then 3 else if r = 3 then 2 else if r = 2 then 1 else 0

/-- The start record's code word of a step is written when the step has ended on every wythe that takes part (log 40). -/
def State.ringStep (s : State) (step : Nat) : State :=
  let endedOn := fun w => (s.startOf w).ended.find? (fun e => e.1 = step)
  let open_ := fun w => s.released w && !s.heldWy w && !(s.startOf w).failed && (endedOn w).isNone
  let l := wythes.filterMap endedOn
  if !s.plinth.startOn || l = [] || wythes.any open_ then s
  else
    let worst := l.foldl (fun a e => if resultRank a < resultRank e.2.1 then e.2.1 else a) 0
    let mask := wythes.foldl (fun a w => a + (if (endedOn w).isSome then 2 ^ w.num else 0)) 0
    let variant := (l.head?.map (fun e => e.2.2)).getD 0
    s.startStep step worst mask variant (zeroBytes 8 ++ leBytes 1 (if step = 8 then s.plinth.storeMode else 0))

/-! ### The release of a wythe (R27, R371, R436) -/

/-- The tile, course and panel pages of a wythe. -/
def unitPages (w : Wy) : List Page :=
  (List.range 4).map (fun n => Page.pnl w (Fin.ofNat 4 n)) ++ (List.range 16).map (fun n => Page.crs w (Fin.ofNat 16 n))
    ++ (List.range 128).map (fun n => Page.til w (Fin.ofNat 128 n))

/-- The level-4 and PWR, HLT, FWU pages of a wythe. -/
def wythePages (w : Wy) : List Page :=
  [.glb w, .pwr w, .clk w, .rst w, .tie w, .hlt w, .tst w, .fwu w, .cip w, .bpm w, .med w, .mtr w, .rlf w, .rdm w, .ptp w]

/-- A unit is put into service by its wythe's ROM or firmware. -/
def State.putOnline (s : State) (p : Page) : State := (s.setReg p PAGE_STATE 1).setReg p PAGE_CTRL 1

/-- Set the value and active value of a shadowed register. -/
def State.setShadow (s : State) (p : Page) (off : Nat) (v : Word) : State := (s.setReg p off v).setAct p off v

/-- The options' values that registers hold (R431, R432), until the settings store's. -/
def State.optionRegs (s : State) (w : Wy) : State :=
  let o := s.plinth.opts
  let s1 := (s.setShadow (.pwr w) PWR_CTRL (word o.deepest)).setShadow (.med w) MED_NAND_BUDGET
    (word o.budget)
  let s2 := s1.setShadow (.mtr w) MTR_DOMAIN (word (o.enclosure + o.rack * 65536))
  let s3 := (List.range 4).foldl (fun s p => s.setShadow (macPage w p) MAC_MAX_FRAME (word o.maxFrame)) s2
  if s.wall.identity then s3
  else s3.modWall (fun x => { x with settings := { x.settings with ptpDomain := o.ptpDomain, ptpInternal := decide (o.ptpMode = 1) } })

/-- The Plinth loads a wythe's CIP and releases the wythe into its ROM (R27, R371, R419, R436): its tiles, courses and panels are in
service, and it takes its home channels that no wythe drives. -/
def State.releaseWythe (s : State) (w : Wy) : State :=
  match s.keys with
  | none => s
  | some k =>
    let s1 := (s.setRel w true).setHeld w false
    let s2 := s1.modWy w (fun y => { y with
      cip := { y.cip with kekLoaded := true, kekGen := k.gen, kek := kekOf w k.gen, wallKey := (wallKeyOf k).getD [], domain := k.domain,
                          substitute := k.subst, domainValid := true }
      mortar := { y.mortar with inc := s.free % 2 ^ 32 }
      portMode := if s.plinth.storeMode = 0 then s.plinth.opts.portMode else s.plinth.storeMode })
    let n := match w with
      | .w0 => s.plinth.cnt0
      | .w1 => s.plinth.cnt1
    let s3 := ((s2.used.setReg (.rst w) RST_CAUSE (word (s.startOf w).cause)).setReg (.rst w) RST_CNT_WYTHE (word n)).optionRegs w
    let s4 := (unitPages w).foldl State.putOnline (s3.setReg (.clk w) CLK_STATUS 7)
    ((List.range 32).map (fun k => 32 * w.num + k)).foldl (fun s c => if (s.chan c).owner = none then s.takeChannel w c else s) s4

/-- Every channel is left without an owner: the started operations end first (R97, R342). -/
def State.dropChannels (s : State) : State :=
  (List.range 64).foldl (fun s c => if (s.chan c).owner.isSome then (s.finishOld c).newOwner c none .none else s) s

/-- The wythes run their ROM alone, unless the Plinth holds them or no 12 V reaches them (R422, R490). -/
def State.romOnly (s : State) : State :=
  if s.service || s.plinth.heldOff || !(s.inA.on || s.inB.on) then s
  else wythes.foldl (fun s w => (s.releaseWythe w).modStart w (fun x => { x with step := 4 })) s

/-- ROM recovery mode (R485, R490): both wythes are reset and run their ROM alone. -/
def State.enterRecovery (s : State) : State :=
  let s1 := (s.dropChannels.resetWythe .w0 7).resetWythe .w1 7
  let s2 := { s1.modPlinth (fun p => { p with recovery := true, startOn := false, restarts := [], cnt0 := p.cnt0 + 1, cnt1 := p.cnt1 + 1 }) with
    cover := Cover.reset }
  s2.romOnly

/-- A start fails (R490): the third in a row enters ROM recovery. -/
def State.failStart (s : State) : State :=
  let n := s.plinth.failStarts + 1
  let s1 := s.modPlinth (fun p => { p with
    startOn := false
    failStarts := n })
  if n = 3 then s1.enterRecovery else s1

/-- A start in which no wythe can reach TIE_SYNC any more fails at once. -/
def State.checkStart (s : State) : State :=
  let out := fun w => (s.startOf w).failed || s.heldWy w
  if s.plinth.startOn && wythes.all out then s.failStart else s

/-- A step of a wythe ends with result and variant: 0 DONE, 1 FAILED, 2 SKIPPED, 3 ALTERNATE. -/
def State.stepEnd (s : State) (w : Wy) (step result variant : Nat) : State :=
  let s1 := s.modStart w (fun x => { x with
    step := if result = 1 then x.step else step
    failed := x.failed || result = 1
    alternate := x.alternate || result = 3
    ended := x.ended ++ [(step, result, variant)] })
  ((List.range 14).foldl State.ringStep s1).checkStart

/-- A step of the whole brick ends: both wythes show it (R487). -/
def State.brickStep (s : State) (step result variant : Nat) : State :=
  let f := fun x : StartSt => { x with step := step }
  ((s.startStep step result 0 variant (zeroBytes 20)).modStart .w0 f).modStart .w1 f

/-! ### Steps 2-4 (R421, R431, R433, R435-R437) -/

/-- PLINTH_ROM: the slot is chosen, the calibration row and key store are loaded. -/
def execPlinthRom (cal ksA ksB : Bool) (s : State) : Host.Outcome State Fault Refusal :=
  if !s.plinth.up || !s.plinth.startOn || (s.startOf .w0).step ≠ 1 then .next s
  else
    let s1 := s.plinthBoot cal ksA ksB
    let result := if s1.plinth.heldOff then 1 else if s1.plinth.fallback then 3 else 0
    if s1.plinth.heldOff then .next (s1.startStep 2 1 0 (b2n s1.plinth.slotB) (zeroBytes 20)).failStart
    else .next (s1.brickStep 2 result (b2n s1.plinth.slotB))

/-- OPTIONS_LOAD: never FAILED. -/
def execOptionsLoad (s : State) : Host.Outcome State Fault Refusal :=
  .next (if s.plinth.up && s.plinth.startOn && (s.startOf .w0).step = 2 then s.loadOptions.brickStep 3 0 0 else s)

/-- WYTHE_RELEASE: `ok` says that the CIP loads. A rekey that a power loss left resumes (R437). -/
def execWytheRelease (w : Wy) (ok : Bool) (s : State) : Host.Outcome State Fault Refusal :=
  if !s.plinth.up || s.service || s.plinth.heldOff || !s.plinth.startOn || (s.startOf w).step ≠ 3 || (s.startOf w).failed
      || s.released w then .next s
  else
    let s1 := if ok then (s.releaseWythe w).stepEnd w 4 0 0 else s.stepEnd w 4 1 0
    .next (if s1.released .w0 && s1.released .w1 then s1.finishRekey else s1)

/-! ### Steps 5-6 (R484, R488, R514) -/

/-- A wythe stands before a step of its start. -/
def State.before (s : State) (w : Wy) (step : Nat) : Bool :=
  s.released w && !s.heldWy w && !(s.startOf w).failed && (s.startOf w).step + 1 = step && (!s.plinth.recovery || step ≤ 5)

/-- The DRAM data rates in the order in which they are tried. -/
def dramRates : List Nat := [7200, 4800, 3600]

/-- A channel trains at a rate; a channel that the row does not name trains at every rate. -/
def trains (l : List DramResult) (c i : Nat) : Bool :=
  match l.find? (fun r => r.channel = c) with
  | some r => r.rates.getD i false
  | none => true

/-- The first rate at which every channel trains that trains at some, the lowest if there is none. -/
def dramRate (l : List DramResult) : Nat :=
  let alive := (List.range 16).filter (fun c => (List.range 3).any (fun i => trains l c i))
  ((List.range 3).find? (fun i => alive.all (fun c => trains l c i))).getD 2

/-- DRAM_TRAIN: from the saved training when it holds (`saved`), else afresh; marked channels are pattern-tested (R514). -/
def execDramTrain (w : Wy) (saved : Bool) (results : List DramResult) (s : State) : Host.Outcome State Fault Refusal :=
  if !s.before w 5 then .next s
  else
    let kept := if saved then s.plinth.training.find? (fun t => t.1 = w) else none
    let i := match kept with
      | some t => (dramRates.findIdx? (fun r => r = t.2)).getD 0
      | none => dramRate results
    let pattern := fun c => !s.plinth.marks.contains (w, c) || ((results.find? (fun r => r.channel = c)).map (fun r => r.patternOk)).getD true
    let good := (List.range 16).filter (fun c => (kept.isSome || trains results c i) && pattern c)
    let retired := (List.range 16).foldl (fun a c => if good.contains c then a else a + 2 ^ c) 0
    let s1 := ((s.setReg (.tst w) TST_DRAM_RETIRED (word retired)).setReg (.clk w) CLK_DRAM_RATE (word (dramRates.getD i 3600))).setRfld (.clk w)
      CLK_DIV 3 0 (i + 2)
    let s2 := s1.modPlinth (fun p => { p with marks := p.marks.filter (fun m => m.1 ≠ w || !pattern m.2) })
    .next ((s2.stepEnd w 5 (if good.length < 12 then 1 else 0) (s.free % 256)).used)

/-- The tie trains on some lanes (R484): 16, or 8, or it has failed. -/
def State.tieTrain (s : State) (lanes : Nat) : State :=
  let both := fun (s : State) (f : State → Wy → State) => f (f s .w0) .w1
  if lanes < 8 then
    both { s with cover := { s.cover with tieUp := false, lanes := lanes } } (fun s w => s.event (.tie w) TIE_EVT_LINK_DOWN)
  else
    let n := if lanes < 16 then 8 else 16
    let s1 := { s with cover := { s.cover with tieUp := true, lanes := n, lastHb0 := s.now, lastHb1 := s.now } }
    if n = 16 then s1
    else (both s1 (fun s w => s.event (.tie w) TIE_EVT_NARROW)).recordOpen 1 2 (.tie .w0) (leBytes 1 lanes)

/-- LINK_TRAIN: the tie trains once both wythes are released; the ports of the mode that link come up; PCIe comes up with speed and width,
or later. -/
def execLinkTrain (w : Wy) (lanes : Nat) (ports : List Nat) (pcie : Option (Nat × Nat)) (s : State) : Host.Outcome State Fault Refusal :=
  if !s.before w 6 then .next s
  else
    let s1 := if s.released w.peer && !s.heldWy w.peer && !s.cover.tieUp && !s.cover.tieFailed then s.tieTrain lanes else s
    let there := if (s.wy w).portMode = 2 then 2 else 4
    let s2 := (List.range there).foldl (fun s n => s.putOnline (macPage w n)) s1
    let s3 := ports.foldl (fun s n => s.portUp w n) s2
    let s4 := match pcie with
      | some (speed, width) => s3.modPcie w (fun e => { e with
          linkUp := true
          speed := speed
          width := width })
      | none => s3
    .next (s4.stepEnd w 6 0 0)

/-! ### Steps 7-8 (R489, R499, R505, R508) -/

/-- A wythe's image begins to run. -/
def State.runImage (s : State) (w : Wy) (b trial : Bool) : State :=
  let hdr := (s.fwSlot 4 w.num b).bind (fun x => x.hdr)
  let f := fun g : ImgHeader → Nat => (hdr.map g).getD 0
  let s1 := ((s.modFwSlot 4 w.num b (fun x => { x with auth := true })).modStart w (fun x => { x with
    slotB := b
    trial := trial })).setRun w true
  let s2 := (s1.setReg (.glb w) GLB_FW_VERSION (word (f (fun h => h.func)))).setReg (.glb w) GLB_FW_LEVEL
    (word (f (fun h => h.compat) % 65536 + f (fun h => h.security) * 65536))
  let s3 := (wythePages w).foldl State.putOnline s2
  let s4 := s3.modPlinth (fun p => match w with
    | .w0 => { p with hb0 := s.now, lost0 := none }
    | .w1 => { p with hb1 := s.now, lost1 := none })
  (((s4.setHb w).setHb w.peer).modWall (fun x => { x with compat := f (fun h => h.compat) })).peerChange w.peer

/-- A trial has ended without commitment: the activation of it falls back (R503). -/
def State.trialEnds (s : State) (w : Wy) : State :=
  match s.fw.act with
  | some a => if a.comp = 4 && a.w = w then s.fwFallback else s
  | none => s

/-- IMAGE_VERIFY: the ROM chooses the image (R499); `okA` and `okB` say which slots' payloads the media give as they were staged, and one is
authentic that is then (R495). -/
def execImageVerify (w : Wy) (okA okB : Bool) (s : State) : Host.Outcome State Fault Refusal :=
  if !s.before w 7 then .next s
  else
    let ok := fun b : Bool => (if b then okB else okA) && (s.fwSlot 4 w.num b).any (fun x => x.good)
    match s.chooseSlot 4 w.num with
    | none => .next (s.stepEnd w 7 1 0)
    | some (b, trial) =>
      let s1 := if trial then s.stamp 4 w.num b 3 (s.seqOf 4 w.num b) else s
      if ok b then .next ((s1.runImage w b trial).stepEnd w 7 0 (b2n b))
      else
        let s2 := (s1.stamp 4 w.num b 6 (s1.seqOf 4 w.num b)).recordOpen 0 2 (.fwu w) (leBytes 1 (b2n b))
        let s3 := if trial then s2.trialEnds w else s2
        let usable := (s3.fwSlot 4 w.num (!b)).any s3.usableSlot && s3.slotState 4 w.num (!b) = 4
        .next (if usable && ok (!b) then (s3.runImage w (!b) false).stepEnd w 7 3 (b2n (!b)) else s3.stepEnd w 7 1 (b2n b))

/-- One more reset of a wythe (R485). -/
def State.countRestart (s : State) (w : Wy) : State :=
  s.modPlinth (fun p => match w with
    | .w0 => { p with cnt0 := p.cnt0 + 1 }
    | .w1 => { p with cnt1 := p.cnt1 + 1 })

/-- The settings-store generations of a wythe's home set. -/
def State.setStore (s : State) (w : Wy) : List SetGen :=
  match w with
  | .w0 => s.fw.store0
  | .w1 => s.fw.store1

/-- Write a generation into the half that does not hold the current one (R505). -/
def State.writeGen (s : State) (w : Wy) (g : SetGen) : State :=
  let put := fun l : List SetGen => (l ++ [g]).drop (l.length - 1)
  s.modFw (fun y => match w with
    | .w0 => { y with store0 := put y.store0 }
    | .w1 => { y with store1 := put y.store1 })

/-- The newest generation that a format range reads. -/
def readable (l : List SetGen) (lo hi : Nat) : Option SetGen := (l.filter (fun g => lo ≤ g.format && g.format ≤ hi)).getLast?

/-- Apply a setting at SETTINGS_LOAD (R410, R506): the registers of the wythe's own pages and of the brick's. -/
def State.applySetting (s : State) (w : Wy) (x : Setting) : State :=
  match x with
  | .portMode _ | .poolCounts _ => s
  | .media a b c d => s.modMedia (fun m => { m with cfg := { lowMark := a, target := b, refreshAt := c, patrolDays := d } })
  | .reg p off v => if pageWy p = some w || pageWy p = none then s.setShadow p off v else s
  | .portAddr n a => if n / 4 = w.num then s.modPort w (n % 4) (fun x => { x with addr := a }) else s
  | .wall ws => s.modWall (fun x => { x with settings := ws })
  | .policy k => s.modStore (fun t => { t with keyspaces := upsert (fun y => y.id = k.id) (fun _ => k) k t.keyspaces })

/-- The defaults of the pool counts (R358). -/
def defaultCounts : List Nat := [4194304, 1048576, 262144, 131072, 32768, 8192]

/-- The pool counts lie in range and need at most 64 GiB (R358). -/
def countsOk (l : List Nat) : Bool :=
  l.length = 6 && l.all (fun c => 1024 ≤ c && c ≤ 16777216) && (l.zipIdx.foldl (fun a e => a + e.1 * bufSize e.2) 0) ≤ 64 * 2 ^ 30

/-- The BPM fills its rings from the settings (R358, R368): `scale` is the fraction that DRAM retired at this start leaves. -/
def State.startPools (s : State) (w : Wy) (recs : List Setting) (scale : Option (Nat × Nat)) : State :=
  let given := recs.findSome? (fun x => match x with
    | .poolCounts l => some l
    | _ => none)
  let bad := given.any (fun l => !countsOk l)
  let counts := if bad then defaultCounts else given.getD defaultCounts
  let s1 := if bad then s.recordOpen (srcOf w) 2 (.bpm w) [] else s
  match scale with
  | some (n, d) => (s1.fillPools w (counts.map (fun c => if d = 0 then c else c * min n d / d))).recordOpen (srcOf w) 1 (.bpm w) []
  | none => s1.fillPools w counts

/-- The store's PORT_MODE differs from the mode the ports trained in: they train again in the store's (R371). -/
def State.retrain (s : State) (w : Wy) (m : Nat) (ports : List Nat) : State :=
  let s1 := (List.range 4).foldl (fun s n => if (s.port w n).linkUp then s.linkDown w n else s) s
  let s2 := (s1.modWy w (fun y => { y with portMode := m })).recordOpen (srcOf w) 1 (.mac w 0) (leBytes 1 m)
  let s3 := (List.range 4).foldl (fun s n =>
    if n < (if m = 2 then 2 else 4) then s.putOnline (macPage w n) else s.setReg (macPage w n) PAGE_STATE 0) s2
  ports.foldl (fun s n => s.portUp w n) s3

/-- Read and commit a generation, or the defaults when the store holds none. -/
def State.takeSettings (s : State) (w : Wy) (g : Option SetGen) (scale : Option (Nat × Nat)) (ports : List Nat) : State :=
  let recs := (g.map (fun x => x.recs)).getD []
  let mode := recs.findSome? (fun x => match x with
    | .portMode m => some m
    | _ => none)
  let s1 := (recs.foldl (fun s x => s.applySetting w x) s).startPools w recs scale
  let s2 := if s.plinth.startOn then s1.modPlinth (fun p => { p with storeMode := mode.getD p.storeMode }) else s1
  let s3 := match g with
    | some x => s2.setReg (.fwu w) FWU_SETTINGS (word (x.gen % 65536 + x.format * 65536))
    | none => s2
  match mode with
  | some m => if m = (s3.wy w).portMode then s3 else s3.retrain w m ports
  | none => s3

/-- SETTINGS_LOAD: `ok` says that the store reads; `scale` as R368; `conv` are the records that the named conversion table gives (R508);
`ports` the ports that link when they must train again. A failure under a trial image resets the wythe, which starts the previous image and
reads the untouched store: ALTERNATE (R489, R503). -/
def execSettingsLoad (w : Wy) (ok : Bool) (scale : Option (Nat × Nat)) (conv : List Setting) (ports : List Nat) (s : State) :
    Host.Outcome State Fault Refusal :=
  if !s.before w 8 then .next s
  else
    let store := s.setStore w
    let range := fun b => ((s.fwSlot 4 w.num b).bind (fun x => x.hdr)).map (fun h => (h.readMin, h.setFormat))
    let b := (s.startOf w).slotB
    let (lo, hi) := (range b).getD (0, 0)
    let fits := readable store lo hi
    let asked := s.fw.act.any (fun a => a.comp = 4 && a.w = w && a.conv)
    let newer := fits.isNone && asked && store ≠ []
    let conved : Option SetGen := if newer then (store.getLast?).map (fun g => { gen := g.gen + 1, format := hi, recs := conv }) else none
    if ok && (store = [] || fits.isSome || conved.isSome) then
      let s1 := match conved with
        | some g => s.writeGen w g
        | none => s
      .next ((s1.takeSettings w (fits <|> conved) scale ports).stepEnd w 8 0 0)
    else if (s.startOf w).trial then
      let (lo2, hi2) := (range (!b)).getD (0, 0)
      let s0 := ((s.trialEnds w).countRestart w).setReg (.rst w) RST_CAUSE (word 5)
      let s1 := (s0.runImage w (!b) false).recordOpen (srcOf w) 2 (.fwu w) (leBytes 1 (b2n b))
      .next ((s1.takeSettings w (readable store lo2 hi2) scale ports).stepEnd w 8 3 0)
    else .next (s.stepEnd w 8 1 0)

/-! ### Steps 9-10 (R308, R318-R322) -/

/-- A wythe loads the media tables of the committed slot of its home set; its media courses take the retry steps (R332, R352). -/
def State.loadTables (s : State) (w : Wy) : State :=
  let b := s.committedB 2 w.num
  let bytes := ((s.fwSlot 2 w.num b).map (fun x => x.table)).getD []
  let v := tableWord { version := 0, bytes := bytes } 8 4
  (List.range 4).foldl (fun s n => s.setReg (.crs w (Fin.ofNat 16 (4 * n + 3))) CRS_RETRY_VER (word v))
    (s.modMedia (fun m => { m with table := some { version := v, bytes := bytes } }))

/-- The sequence number of the newest reservation record of a wythe's key area (R174). -/
def State.lastResv (s : State) (w : Wy) : Nat :=
  ((s.set_ w.num).keyResvs.map (fun e => ofLe (sliceBytes e.2.2 20 8))).foldl max 0

/-- A wythe reads its key-slot and reservation records, and the reservation engine asks for the blocks that begin at RESERVED_THRU (R175,
R179). -/
def State.loadSlots (s : State) (w : Wy) : State :=
  (s.modCip w (fun k => { k with slots := s.slotsKept w, resvSeq := s.lastResv w, resvLost := false })).requestAll w

/-- ANCHOR_LOAD: `aOk` and `bOk` say which anchor copies read. Under cover the peer keeps the set (R503), and the wythe reads its key records
alone. With both copies lost the wythe has no reservation record (R175). -/
def execAnchorLoad (w : Wy) (aOk bOk : Bool) (s : State) : Host.Outcome State Fault Refusal :=
  if !s.before w 9 then .next s
  else if s.cover.coverer.isSome then .next (((s.loadTables w).loadSlots w).stepEnd w 9 2 0)
  else
    let i := w.num
    let x := s.set_ i
    let a := x.copyA && aOk
    let b := x.copyB && bOk
    if !a && !b && x.rebuildCh = [] then .next ((s.modCip w (fun k => { k with slots := [], resvLost := true })).stepEnd w 9 1 0)
    else
      let s1 := if x.copyA && !aOk then s.loseAnchor i (32 * i) else s
      let s2 := if x.copyB && !bOk then s1.loseAnchor i (32 * i + 16) else s1
      .next ((((s2.loadSet i).loadTables w).loadSlots w).stepEnd w 9 0 0)

/-- TAG_SCAN: unless the set stopped cleanly it is scanned, and channels that fail to answer are DEGRADED; open rounds, erase intents and the window follow (R318). The records and
stripes that a lost window alone held are the row's. -/
def execTagScan (w : Wy) (failed : List (Fin 32)) (lostRecs : List (Nat × Nat)) (lostStripes : List Nat) (s : State) :
    Host.Outcome State Fault Refusal :=
  if !s.before w 10 then .next s
  else if s.cover.coverer.isSome then .next (s.stepEnd w 10 2 0)
  else
    let i := w.num
    let s1 := (if cleanSet (s.set_ i) then [] else failed).foldl (fun s c => s.degradeChan (32 * i + c.val)) s
    let s2 := ((s1.resyncSet i).redoErases i).restoreWindow w lostRecs lostStripes
    .next ((s2.settleSet i).stepEnd w 10 0 0)

/-! ### Step 11 (R30, R410, R484, R486) -/

/-- A wythe arrived at TIE_SYNC. -/
def State.arrived (s : State) (w : Wy) : Bool := (s.startOf w).step = 10 && (s.startOf w).arriveAt.isSome

/-- A wythe takes the brick-wide settings of the other (R410). -/
def State.takeWide (s : State) (from_ : Wy) : State := ((s.copyWide (.med from_)).copyWide (.pwr from_)).copyWide (.hlt from_)

/-- A restart has succeeded: it reached TIE_SYNC (R486). -/
def State.restartDone (s : State) (w : Wy) : State := s.modPlinth (fun p => { p with restarts := p.restarts.filter (fun r => r.1 ≠ w) })

/-- A hand-back to a wythe may start: no activation is in progress but the WYTHE activation that it ends (R30). -/
def State.mayHandBack (s : State) (w : Wy) : Bool := s.fw.act.all (fun a => a.comp = 4 && a.w = w)

/-- TIE_SYNC ends: for both wythes of a start, or for a restarted wythe with its covering peer, which then hands back. -/
def State.trySync (s : State) : State :=
  let done := fun (s : State) w => ((s.stepEnd w 11 0 0).restartDone w).event (.tie w) TIE_EVT_SYNC_DONE
  if !s.cover.tieUp then s
  else match s.cover.coverer with
    | none => if s.arrived .w0 && s.arrived .w1 then done (done s .w0) .w1 else s
    | some p =>
      let w := p.peer
      if s.arrived w && s.running p then
        let s0 := done (s.takeWide p) w
        let s1 := { s0 with cover := { s0.cover with handingBack := s0.mayHandBack w } }
        s1.modFw (fun y => { y with act := y.act.map (fun a => if a.comp = 4 && a.w = w then { a with stage := 4 } else a) })
      else s

/-- TIE_SYNC: a wythe arrives. -/
def execTieSync (w : Wy) (s : State) : Host.Outcome State Fault Refusal :=
  .next (if s.before w 11 then (s.modStart w (fun x => { x with arriveAt := some (x.arriveAt.getD s.now) })).trySync else s)

/-- TIE_SYNC_TIMEOUT: 60 s after its arrival a wythe whose peer is held or stopped goes on alone and covers it. -/
def execTieSyncTimeout (w : Wy) (s : State) : Host.Outcome State Fault Refusal :=
  let p := w.peer
  let out := !s.released p || s.heldWy p || (s.startOf p).failed || (!s.running p && 7 ≤ (s.startOf p).step)
  if s.before w 11 && s.cover.coverer.isNone && out && (s.startOf w).arriveAt.any (fun t => s.since t (sec 60)) then
    let s1 := (s.modStart w (fun x => { x with step := 11, ended := x.ended ++ [(11, 1, 0)] })).setRel p false
    .next ((List.range 14).foldl State.ringStep (s1.beginCover w false 3))
  else .next s

/-! ### Steps 12-13 (R192, R432, R309, R503) -/

/-- The brick is to join with the option area's values (R432). -/
def State.autoJoin (s : State) : Bool := s.plinth.opts.joinAuto && s.plinth.opts.joinWall ≠ 0 && !s.wall.identity

/-- The join registers take the option area's values (R432). -/
def State.autoRegs (s : State) (w : Wy) : State :=
  let o := s.plinth.opts
  let addr := fun n => word (o.joinAddr / 2 ^ (32 * n))
  let p := Page.mtr w
  ((((((s.setShadow p MTR_JOIN_WALL_LO (word o.joinWall)).setShadow p MTR_JOIN_WALL_HI (word (o.joinWall / 2 ^ 32))).setShadow p MTR_JOIN_PORT
    (word o.joinPort)).setShadow p MTR_JOIN_ADDR0 (addr 0)).setShadow p MTR_JOIN_ADDR1 (addr 1)).setShadow p MTR_JOIN_ADDR2 (addr 2)).setShadow p
    MTR_JOIN_ADDR3 (addr 3)

/-- The brick rejoins, joins by JOIN_AUTO, or has no join to make; WALL_JOIN ends when it is MEMBER or JOINING, or has none. -/
def State.wallJoin (s : State) (w : Wy) : State :=
  let s0 := s.modWall (fun x => { x with joinAt := s.now })
  let s1 := if s.wall.st = .member || s.wall.st = .joining then s0
    else if s.wall.identity then s0.join w else if s.autoJoin then (s0.autoRegs w).join w else s0
  if s1.wall.st = .member || s1.wall.st = .joining || !(s1.wall.identity || s1.autoJoin) then s1.stepEnd w 12 0 0 else s1

/-- WALL_JOIN. -/
def execWallJoin (w : Wy) (s : State) : Host.Outcome State Fault Refusal := .next (if s.before w 12 then s.wallJoin w else s)

/-- WALL_JOIN_RETRY, every 1 s. -/
def execWallJoinRetry (w : Wy) (s : State) : Host.Outcome State Fault Refusal :=
  .next (if s.before w 12 && s.since s.wall.joinAt (sec 1) then s.wallJoin w else s)

/-- A wythe's trial image commits (R503). -/
def State.commitTrial (s : State) (w : Wy) : State :=
  if !(s.startOf w).trial then s
  else
    let b := (s.startOf w).slotB
    let a : Activation := match s.fw.act with
      | some a => a
      | none => { comp := 4, w := w, slotB := b, conv := false, stage := 0, seq := s.seqOf 4 w.num b, at_ := s.now, trialAt := none, port := 0,
                  portAt := none }
    (s.fwCommit a).modStart w (fun x => { x with trial := false })

/-- A start has ended: the ring keeps an erased entry for the next (R438). -/
def State.startOver (s : State) : State :=
  let open_ := fun w => s.released w && !s.heldWy w && !(s.startOf w).failed && (s.startOf w).step < 13
  if !s.plinth.startOn || wythes.any open_ then s
  else
    let s1 := s.modPlinth (fun p => { p with startOn := false })
    if s1.ringFree ((s1.plinth.ringPos + 1) % 64) then s1 else s1.eraseRing

/-- SERVICE_OPEN: the wythe opens its queues, once its sets' dump reserves are whole (R309) and a hand-back to it has ended (R503). -/
def execServiceOpen (w : Wy) (s : State) : Host.Outcome State Fault Refusal :=
  let whole := (s.setsOf w).all (fun i => (s.set_ i).dumpMiB = 8192)
  if !s.before w 13 || !whole || (s.cover.coverer = some w.peer) then .next s
  else
    let rate := s.rfld (.clk w) CLK_DRAM_RATE 15 0
    let s1 := (s.modWy w (fun y => { y with serving := true })).modPlinth (fun p => { p with
      failStarts := 0
      training := p.training.filter (fun t => t.1 ≠ w) ++ [(w, rate)] })
    .next ((((s1.stepEnd w 13 0 0).commitTrial w).startOver).powerEval)

/-- START_TIMEOUT: 600 s after POWER_GOOD no wythe has reached TIE_SYNC. -/
def execStartTimeout (s : State) : Host.Outcome State Fault Refusal :=
  let there := fun w => (s.startOf w).arriveAt.isSome || 11 ≤ (s.startOf w).step
  .next (if s.plinth.startOn && s.since s.plinth.goodAt (sec 600) && !wythes.any there then s.failStart else s)

end Sys2Proof.Machine
end

