-- ==== Sys2Proof/Machine/Restart.lean ====
section
/-! DEFINITION. Cover begun by a lost heartbeat or a FAILED notice, restarts, hand-back, the RST page and the clocks and lanes of a running
wythe (R24-R30, R131, R419, R420, R483-R486, R503). -/

namespace Sys2Proof.Machine

/-! ### Restarts (R420, R485, R486) -/

/-- The Plinth restarts a wythe: it starts at step 5 with the cause of the reset. -/
def State.restartWythe (s : State) (w : Wy) (cause : Nat) : State :=
  (((s.resetWythe w cause).countRestart w).releaseWythe w).modStart w (fun x => { x with step := 4 })

/-- A restart begins whose success the Plinth awaits for 600 s (R486). -/
def State.awaitRestart (s : State) (w : Wy) : State :=
  s.modPlinth (fun p => { p with
    restarts := p.restarts.filter (fun r => r.1 ≠ w) ++ [(w, s.now)]
    thermal := p.thermal.filter (· ≠ w) })

/-- A wythe's die sensors all read below 95 °C (R481). -/
def State.dieCool (s : State) (w : Wy) : Bool := ((s.health.temps.drop (8 * w.num)).take 8).all (fun t => decide (t.cur < 950))

/-- CROSS_RESET_CLEAR: 2 s after cover began the Plinth restarts the covered wythe, unless the tie has failed, it left the wythe held, or a
thermal stop's condition still stands, or an activation was abandoned by the latch, which is still open (R481, R486, R504). -/
def execCrossResetClear (s : State) : Host.Outcome State Fault Refusal :=
  match s.cover.coverer with
  | none => .next s
  | some w =>
    let p := w.peer
    let may := s.plinth.up && !s.plinth.failed && !s.cover.tieFailed && s.heldWy p && !s.plinth.leftHeld.contains p
      && s.since s.cover.since (sec 2) && (!s.plinth.thermal.contains p || s.dieCool p)
      && (s.front.latchClosed || !s.cover.planned)
    .next (if may then (s.restartWythe p 2).awaitRestart p else s)

/-- RESTART_TIMEOUT: a wythe restarted 600 s ago has not reached TIE_SYNC: the restart fails and the wythe is held again; after three failed
automatic restarts within 1 h it is left held (R486). -/
def execRestartTimeout (w : Wy) (s : State) : Host.Outcome State Fault Refusal :=
  match s.plinth.restarts.find? (fun r => r.1 = w) with
  | none => .next s
  | some (_, t) =>
    if !s.since t (sec 600) then .next s
    else
      let auto := decide ((s.startOf w).cause = 2)
      let old := s.plinth.failures.filter (fun f => s.now < f.2 + sec 3600)
      let fails := if auto then old ++ [(w, s.now)] else old
      let s1 := (((s.restartDone w).resetWythe w 3).setHeld w true).setRel w false
      let s2 : State := { s1.modPlinth (fun p => { p with failures := fails }) with cover := { s1.cover with since := s.now } }
      let s3 := if s2.rfld (.rst w.peer) RST_STATUS 0 0 = 1 then s2.rstEnd w.peer 3 0 else s2
      .next (if auto && 3 ≤ (fails.filter (fun f => f.1 = w)).length && !s.plinth.leftHeld.contains w then
          (s3.modPlinth (fun p => { p with
            leftHeld := p.leftHeld ++ [w]
            replace := true })).recordOpen 0 3 (.rst w) (leBytes 1 w.num)
        else s3)

/-! ### The tie and its heartbeats (R24, R25, R28, R484) -/

/-- A wythe has reached TIE_SYNC's end in its start, and runs. -/
def State.synced (s : State) (w : Wy) : Bool := s.running w && 11 ≤ (s.startOf w).step

/-- TIE_HEARTBEAT_SEND: the peer receives it while the tie carries flits; heartbeats missed before it count there (R492). -/
def execTieHeartbeatSend (w : Wy) (s : State) : Host.Outcome State Fault Refusal :=
  let p := w.peer
  let missed := (s.now - s.lastHb p) / us 100 - 1
  .next (if s.running w && s.cover.tieUp && s.released p && !s.heldWy p then (s.bumpBy (.tie p) TIE_CNT_HB_MISS missed).setHb p else s)

/-- The tie has failed (R25, R484, R486): one CRITICAL event, and REPLACE. -/
def State.tieFailure (s : State) (w : Wy) : State :=
  let us_ := (s.now - s.lastHb w) / 1000
  let s1 := { s with cover := { s.cover with tieFailed := true } }
  (s1.modPlinth (fun p => { p with replace := true })).record 0 3 0x0501 (pageIdOf (.tie w)).toNat
    (leBytes 1 w.num ++ leBytes 1 s.cover.lanes ++ zeroBytes 2 ++ leBytes 4 us_)

/-- A wythe covers its peer after a failure (R24): its own heartbeat was lost through the tie when the tie is down. -/
def State.coverNow (s : State) (w : Wy) : State :=
  let s1 := s.beginCover w false 3
  (if s.cover.tieUp then s1 else s1.tieFailure w).setRel w.peer false

/-- The heartbeat of a synced pair has been missing for a time at a wythe. -/
def State.hbGone (s : State) (w : Wy) (ns : Nat) : Bool :=
  s.synced w && 11 ≤ (s.startOf w.peer).step && s.cover.coverer.isNone && !s.heldWy w && s.since (s.lastHb w) ns

/-- TIE_HEARTBEAT_LOSS: wythe 0 covers at once, wythe 1 waits for CROSS_RESET_DELAY (R28). -/
def execTieHeartbeatLoss (w : Wy) (s : State) : Host.Outcome State Fault Refusal :=
  let s1 := (s.bumpBy (.tie w) TIE_CNT_HB_MISS ((s.now - s.lastHb w) / us 100)).event (.tie w) TIE_EVT_HB_LOST
  .next (if !s.hbGone w (ms 1) then s else match w with
    | .w0 => s1.coverNow .w0
    | .w1 => s1)

/-- CROSS_RESET_DELAY: 3 ms after the last heartbeat wythe 1 covers, unless wythe 0 runs and has lost the heartbeat too: then it has
asserted first (R28). -/
def execCrossResetDelay (s : State) : Host.Outcome State Fault Refusal :=
  .next (if s.hbGone .w0 (ms 1) then s.coverNow .w0 else if s.hbGone .w1 (ms 3) then s.coverNow .w1 else s)

/-- FAILED_NOTICE: the peer's notice arrives over the tie; the wythe covers at once (R24, R28). -/
def execFailedNotice (w : Wy) (s : State) : Host.Outcome State Fault Refusal :=
  if s.synced w && s.notice w.peer && s.cover.tieUp && s.cover.coverer.isNone && !s.heldWy w then
    .next ((s.setRfld (.tie w) TIE_STATUS 2 2 1).coverNow w)
  else .next s

/-- TIE_LANE_FAIL: `lanes` lanes are still good (R484). -/
def execTieLaneFail (lanes : Nat) (s : State) : Host.Outcome State Fault Refusal :=
  if !s.cover.tieUp || 16 ≤ lanes then .next s
  else
    let down := s.cover.lanes - min lanes s.cover.lanes
    let s1 := (s.bumpBy (.tie .w0) TIE_CNT_LANE_DOWN (max 1 down)).bumpBy (.tie .w1) TIE_CNT_LANE_DOWN (max 1 down)
    .next (if 8 ≤ lanes && s.cover.lanes = 8 then s1 else s1.tieTrain lanes)

/-! ### Watchdog and clocks (R24, R483, R485) -/

/-- WYTHE_WATCHDOG: the wythe sends its FAILED notice and resets; it starts again by itself when no peer can cover it. -/
def execWytheWatchdog (w : Wy) (s : State) : Host.Outcome State Fault Refusal :=
  if !s.running w then .next s
  else
    let s1 := ((s.bump (.rst w) RST_CNT_WATCHDOG).failWythe w).resetWythe w 4
    if s.synced w.peer && s.cover.coverer.isNone then .next ((s1.setNotice w true).modStart w (fun x => { x with step := (s.startOf w).step }))
    else .next (s1.restartWythe w 4)

/-- CLOCK_MONITOR: the root's offset in ppm against the Plinth's clock (R483). -/
def execClockMonitor (w : Wy) (ppm : Int) (s : State) : Host.Outcome State Fault Refusal :=
  let p := Page.clk w
  let ok := decide (ppm.natAbs ≤ s.afld p CLK_MON_CTRL 11 0)
  let s1 := (s.setReg p CLK_MON_PPM (word (ofSigned 16 ppm))).setRfld p CLK_STATUS 3 3 (b2n ok)
  .next (if !s.running w || !s.plinth.up then s else if ok then s1
    else ((s1.bump p CLK_CNT_MON_FAIL).event p CLK_EVT_MON_FAIL).failWythe w)

/-- PLL_UNLOCK (R483). -/
def execPllUnlock (w : Wy) (s : State) : Host.Outcome State Fault Refusal :=
  let p := Page.clk w
  .next (if s.running w then (((s.setRfld p CLK_STATUS 0 0 0).bump p CLK_CNT_UNLOCK).event p CLK_EVT_UNLOCK).failWythe w else s)

/-! ### Hand-back (R30, R131, R343) -/

/-- The partitions that a wythe holds are paused. -/
def State.pauseParts (s : State) (w : Wy) : State :=
  s.modStore (fun t => { t with parts := t.parts.map (fun x => if wyOfPart x.p = w then { x with opened := false } else x) })

/-- Uploads of a wythe's partitions go to it. -/
def State.moveUploads (s : State) (from_ w : Wy) : State :=
  let mine := fun u : Upload => wyOfPart (partOf u.keyspace u.key) = w
  let l := (s.wy from_).relief.uploads.filter mine
  (s.modRelief from_ (fun r => { r with uploads := r.uploads.filter (fun u => !mine u) })).modRelief w (fun r =>
    { r with uploads := r.uploads ++ l })

/-- A hand-back that an activation has deferred starts once the restarted wythe stands past TIE_SYNC and none is in progress (R30). -/
def State.handBackStart (s : State) : State :=
  match s.cover.coverer with
  | some p =>
    if s.synced p.peer && s.mayHandBack p.peer then { s with cover := { s.cover with handingBack := true } } else s
  | none => s

/-- The hand-back ends once the coverer has no commit left for a paused partition: channels and partitions return (R30). -/
def State.handBackDue (s : State) : State :=
  match s.cover.coverer with
  | none => s
  | some p =>
    let w := p.peer
    let mine := s.store.parts.filter (fun x => wyOfPart x.p = w)
    let busy := (s.wy p).relief.commits.any (fun c => wyOfPart c.part = w) || mine.any (fun x => x.opened)
    if !s.cover.handingBack || !s.running w || busy then s
    else
      let s1 : State := { s with cover := { s.cover with coverer := none, handingBack := false, planned := false } }
      let s2 := ((s1.moveUploads p w).seeHlc w (s.wy p).clk.hlc).setRfld (.tie p) TIE_STATUS 2 2 0
      let s3 := (List.range 64).foldl (fun s c =>
        if (s.chan c).owner = some p && (homeOf c = w || s.wantsChan p c = false) then
          (s.modChan c (fun x => { x with
            releasing := true
            lending := decide (homeOf c ≠ w) })).releaseDone c
        else s) s2
      let s4 := mine.foldl (fun s x => s.openReady x.p) s3
      let s5 : State := ((s4.medBits p).medBits w).event (.tie p) TIE_EVT_SYNC_DONE
      let s6 := if s5.rfld (.rst p) RST_STATUS 0 0 = 1 then s5.rstEnd p 1 0 else s5
      let s7 := if (s.startOf w).cause = 6 then s6.rstEnd w 1 0 else s6
      ((s7.peerChange p).peerChange w).powerEval

/-- HAND_BACK: the coverer pauses the restarted wythe's partitions and passes them and the channels back. -/
def execHandBack (s : State) : Host.Outcome State Fault Refusal :=
  match s.cover.coverer with
  | some p => .next (if s.cover.handingBack then (s.pauseParts p.peer).handBackDue else s)
  | none => .next s

/-! ### Planned cover (R420, R502, R503) -/

/-- A wythe has ended its drain: every accepted command has completed (R98). -/
def State.drained (s : State) (w : Wy) : Bool :=
  let r := (s.wy w).relief
  r.drain.any (fun d => d.reached) && r.cmds = [] && r.held = [] && r.commits = []

/-- The end of a drain of an activation or of RESTART_SELF: the partitions are handed over, the wythe is reset and started (R503 steps 2-4). -/
def State.drainDue (s : State) : State :=
  match s.fw.act with
  | some a =>
    if a.comp ≠ 4 || a.stage ≠ 2 || !s.drained a.w then s
    else
      let s1 := ((s.stamp 4 a.w.num a.slotB 2 a.seq).beginCover a.w.peer true 5).restartWythe a.w 5
      s1.modFw (fun y => { y with act := some { a with stage := 3, trialAt := some s.now } })
  | none => match s.fw.restart with
    | some w =>
      if !s.drained w then s
      else
        let s1 := ((s.modFw (fun y => { y with restart := none })).beginCover w.peer true 6).restartWythe w 6
        s1.awaitRestart w
    | none => s

/-! ### The RST page (R409, R419, R420) -/

/-- The pages that reset with a unit (R409, R420). -/
def unitWithin : Page → List Page
  | .til w t => [.til w t]
  | .crs w n => .crs w n :: (List.range 8).map (fun k => Page.til w (Fin.ofNat 128 (n.val * 8 + k)))
  | .pnl w n => .pnl w n :: (List.range 4).map (fun k => Page.crs w (Fin.ofNat 16 (n.val * 4 + k)))
      ++ (List.range 32).map (fun k => Page.til w (Fin.ofNat 128 (n.val * 32 + k)))
  | p => [p]

/-- A unit is reset: it is OFFLINE with every register at its reset value; one that was FAILED must pass a test before it is enabled. -/
def State.resetUnit (s : State) (p : Page) : State :=
  let l := unitWithin p
  let again := l.filter (fun q => s.unit q = .failed)
  let s1 := s.unitDown p
  let s2 := s1.dropRegs (fun k => l.any (fun q => pageKey q ≤ k && k < pageKey q + 0x1000))
  let s3 := { s2 with
    units := s2.units.filter (fun u => !l.contains u.page)
    tileFaults := s2.tileFaults.filter (fun e => !l.contains (.til e.1 (Fin.ofNat 128 e.2.1))) }
  again.foldl (fun s q => s.modUjob q (fun u => { u with needTest := true })) s3

/-- The unit that RST_TARGET names. -/
def State.rstTarget (s : State) (w : Wy) : Option Page :=
  let n := s.rfld (.rst w) RST_TARGET 14 8
  let level := s.rfld (.rst w) RST_TARGET 1 0
  if level = 1 then some (.til w (Fin.ofNat 128 n))
  else if level = 2 && n < 16 then some (.crs w (Fin.ofNat 16 n))
  else if level = 3 && n < 4 then some (.pnl w (Fin.ofNat 4 n))
  else none

/-- A request of the RST page is refused with a reason. -/
def State.rstRefuse (s : State) (w : Wy) (reason : Nat) (src : AccSrc) : State :=
  (s.rstEnd w 2 reason).pageError (.rst w) 0x82 RST_REQ (srcNum src)

/-- RST_REQ.UNIT. -/
def State.rstUnit (s : State) (w : Wy) (src : AccSrc) : State :=
  match s.rstTarget w with
  | none => s.rstRefuse w 2 src
  | some p =>
    let u := s.unit p
    if u = .quiesced || u = .bypassed || u = .failed then ((s.resetUnit p).bump (.rst w) RST_CNT_UNIT).rstEnd w 1 0
    else s.rstRefuse w 1 src

/-- RST_STATUS.BUSY is set. -/
def State.rstBusy (s : State) (w : Wy) : State := s.setRfld (.rst w) RST_STATUS 0 0 1

/-- RST_REQ.RESTART_SELF. -/
def State.rstSelf (s : State) (w : Wy) (src : AccSrc) : State :=
  if !s.synced w.peer || s.cover.coverer.isSome then s.rstRefuse w 3 src
  else if !s.plinthOk w then s.rstRefuse w 4 src
  else if s.fw.act.isSome || s.fw.restart.isSome || s.cover.handingBack then s.rstRefuse w 6 src
  else ((s.rstBusy w).modFw (fun y => { y with restart := some w })).announceDrain w true (s.afld (.fwu w) FWU_CTRL 15 0)

/-- RST_REQ.RESTART_PEER. -/
def State.rstPeer (s : State) (w : Wy) (src : AccSrc) : State :=
  if s.cover.coverer ≠ some w || !s.heldWy w.peer then s.rstRefuse w 8 src
  else if !s.plinthOk w then s.rstRefuse w 4 src
  else if s.cover.tieFailed then s.rstRefuse w 9 src
  else ((s.rstBusy w).restartWythe w.peer 6).awaitRestart w.peer

/-- RST_REQ takes a value (R420). -/
def State.putRstReq (s : State) (src : AccSrc) (w : Wy) (v : Word) : State :=
  let r := fld v 2 0
  if r = 0 then s
  else if r ≠ 1 && r ≠ 2 && r ≠ 4 then s.rstRefuse w 7 src
  else if s.rfld (.rst w) RST_STATUS 0 0 = 1 then s.rstRefuse w 5 src
  else if r = 1 then s.rstUnit w src else if r = 2 then s.rstSelf w src else s.rstPeer w src

/-- A write of RST_REQ. -/
def State.writeRstReq (s : State) (src : AccSrc) (w : Wy) (v : Word) : State :=
  s.gated src (.rst w) RST_REQ (fun s => s.putRstReq src w v)

/-- UNIT_RESET: a write of RST_REQ with its whole value. -/
def execUnitReset (src : AccSrc) (w : Wy) (v : Word) (s : State) : Host.Outcome State Fault Refusal := .next (s.writeRstReq src w v)

/-- RESTART_SELF: a write of RST_REQ with its whole value. -/
def execRestartSelf (src : AccSrc) (w : Wy) (v : Word) (s : State) : Host.Outcome State Fault Refusal := .next (s.writeRstReq src w v)

/-- RESTART_PEER: a write of RST_REQ with its whole value. -/
def execRestartPeer (src : AccSrc) (w : Wy) (v : Word) (s : State) : Host.Outcome State Fault Refusal := .next (s.writeRstReq src w v)

end Sys2Proof.Machine
end

