-- ==== Sys2Proof/Machine/Power.lean ====
section
/-! DEFINITION. The 12 V inputs, hold-up, the switch-off and POWER_GOOD (R475-R478, R485, R487, R526). -/

namespace Sys2Proof.Machine

/-! ### The inputs (R475, R526) -/

/-- The 12 V input of a half. -/
def State.input (s : State) (h : Half) : Input :=
  match h with
  | .a => s.inA
  | .b => s.inB

/-- Change the 12 V input of a half. -/
def State.modInput (s : State) (h : Half) (f : Input → Input) : State :=
  match h with
  | .a => { s with inA := f s.inA }
  | .b => { s with inB := f s.inB }

/-- The wythe that a connector half serves (R519). -/
def halfWy : Half → Wy
  | .a => .w0
  | .b => .w1

/-- 10.8 V to 13.2 V inclusive. -/
def inRange12 (mv : Nat) : Bool := 10800 ≤ mv && mv ≤ 13200

/-- The switch of an input opens, with a cause: 1 below range, 2 above, 3 PWRDIS. -/
def State.openInput (s : State) (h : Half) (cause : Nat) : State :=
  let p := Page.pwr (halfWy h)
  let s1 := s.modInput h (fun x => { x with
    on := false
    at_ := s.now })
  ((s1.bump p PWR_CNT_INPUT_LOSS).event p PWR_EVT_INPUT_LOST).record 0 1 0x0202 (pageIdOf p).toNat
    (leBytes 1 (halfWy h).num ++ leBytes 1 cause ++ zeroBytes 2 ++ leBytes 2 (s.input h).mv)

/-- The switch of an input closes when the input is in range and PWRDIS is low. -/
def State.closeInput (s : State) (h : Half) : State :=
  let x := s.input h
  if !x.on && inRange12 x.mv && !x.pwrdis then
    s.modInput h (fun x => { x with
      on := true
      at_ := s.now })
  else s

/-- INPUT_OUT_OF_RANGE: the input reads `mv`. -/
def execInputOutOfRange (h : Half) (mv : Nat) (s : State) : Host.Outcome State Fault Refusal :=
  if inRange12 mv then .next s
  else
    let s1 := s.modInput h (fun x => { x with mv := mv })
    .next (if (s.input h).on then s1.openInput h (if mv < 10800 then 1 else 2) else s1)

/-- INPUT_RECONNECT: the input has read `mv` in range for 100 ms. -/
def execInputReconnect (h : Half) (mv : Nat) (s : State) : Host.Outcome State Fault Refusal :=
  .next (if inRange12 mv then (s.modInput h (fun x => { x with mv := mv })).closeInput h else s)

/-- PWRDIS_ASSERT. -/
def execPwrdisAssert (h : Half) (s : State) : Host.Outcome State Fault Refusal :=
  let s1 := s.modInput h (fun x => { x with pwrdis := true })
  .next (if (s.input h).on then s1.openInput h 3 else s1)

/-- PWRDIS_RELEASE: PWRDIS has been low for 100 ms. -/
def execPwrdisRelease (h : Half) (s : State) : Host.Outcome State Fault Refusal :=
  .next ((s.modInput h (fun x => { x with pwrdis := false })).closeInput h)

/-! ### Hold-up (R355, R476, R477) -/

/-- The media tiles on loss of input power: what has started goes on, and every request that waits without DUMP ends ABANDONED (R355). -/
def State.mediaDump (s : State) : State :=
  let reading := fun j : ChJob => s.media.jobs.any (fun x => x.st = .inSuspension && reqDie x.req = reqDie j.req)
  let s1 := (s.media.jobs.filter (fun j => j.st = .suspended && !reading j)).foldl (fun s j => s.resumeOp j) s
  let out := fun j : ChJob => (j.st = .queued || j.st = .held) && bits j.req.flags 0 0 = 0
  let gone := s1.media.jobs.filter out
  let s2 := s1.modMedia (fun m => { m with
    dumping := true
    jobs := m.jobs.filter (fun j => !out j) })
  gone.foldl (fun s j =>
    let e := plainEnd .abandoned 0
    (s.chResult { j with started := s.now } e []).chDone j e) s2

/-- The dumps of hold-up: a running wythe that has reached TIE_SYNC dumps its window to its home set, a covering one also the mirror to the
other set (R23, R477). -/
def State.dumps (s : State) : List (Wy × Nat) :=
  let there := wythes.filter (fun w => s.running w && (s.startOf w).step ≥ 11)
  there.map (fun w => (w, w.num)) ++ (there.filter (fun w => s.cover.coverer = some w)).map (fun w => (w, w.peer.num))

/-- Hold-up begins: ports off, no message more, R355 and the dumps; a start and every test end, the start not counted (R476, R477,
R490, R515). -/
def State.beginHoldUp (s : State) : State :=
  let l := wythes.filter s.running
  let s1 := ((s.abortTests (fun _ => true)).modPlinth (fun p => { p with startOn := false })).modHealth (fun h => { h with testing := none })
  let s2 := l.foldl (fun s w =>
    ((List.range 4).foldl (fun s n => s.linkDown w n) s).modWy w (fun y => { y with serving := false })) s1
  let s3 := s2.mediaDump
  let d := s3.dumps
  let s4 := d.foldl (fun s e => s.beginDump e.2) s3
  { s4 with holdup := some { at_ := s.now, wait := l, begun := d.map (fun e => (e.1, e.2, (s4.set_ e.2).dumpGen)), ended := [] } }

/-- Something of the brick runs on 12 V. -/
def State.powered (s : State) : Bool := s.cover.rel0 || s.cover.rel1 || s.plinth.startOn

/-- INPUT_LOSS: both inputs disconnected for 50 µs (R476). -/
def execInputLoss (s : State) : Host.Outcome State Fault Refusal :=
  .next (if !s.inA.on && !s.inB.on && s.since (max s.inA.at_ s.inB.at_) (us 50) && s.holdup.isNone && s.powered then s.beginHoldUp else s)

/-- WYTHE_DUMP_DONE: a wythe's dumps and started operations have ended (R477). -/
def execWytheDumpDone (w : Wy) (s : State) : Host.Outcome State Fault Refusal :=
  match s.holdup with
  | none => .next s
  | some x =>
    if !x.wait.contains w || s.media.jobs.any (fun j => s.payer j = w && j.st ≠ .held) then .next s
    else
      let mine := (x.begun.filter (fun e => e.1 = w)).map (fun e => e.2.1)
      let s1 := mine.foldl State.dumpDone s
      .next { s1 with holdup := some { x with wait := x.wait.filter (· ≠ w), ended := x.ended ++ mine } }

/-! ### Switch-off (R478) -/

/-- The wall state that outlasts a power loss: what the settings store, the key store and the map hold. -/
def wallKept (x : Wall) : Wall :=
  { Wall.reset with
    settings := x.settings
    settingsVer := x.settingsVer
    identity := x.identity
    brickId := x.brickId
    compat := x.compat
    armAddrs := x.armAddrs
    arm := { Armature.reset with members := x.arm.members } }

/-- The wythes, the NAND groups and the bus are switched off: what they hold in DRAM and registers is lost; the media, the anchor, the
store's durable records and the Plinth stay. -/
def State.powerOff (s : State) : State :=
  let s1 := (s.dropChannels.resetWythe .w0 1).resetWythe .w1 1
  let s2 : State := { (s1.dropRegs (fun k => !(0x2000000 ≤ k && k < 0x2005000))) with
    cover := .reset
    pwr := .reset
    units := []
    tileFaults := []
    jobRuns := []
    heldMortar := []
    holdup := none
    inA := { s1.inA with at_ := if s1.inA.on then s.now else s1.inA.at_ }
    inB := { s1.inB with at_ := if s1.inB.on then s.now else s1.inB.at_ } }
  let s3 := s2.modMedia (fun m => { m with
    table := none
    dumping := false
    jobs := [] })
  let s4 := [0, 1].foldl (fun s i => s.modSet i (fun x => { x with
    loaded := false
    scanned := false
    restored := false })) s3
  let s5 := (s4.modWall wallKept).modStore (fun t => { t with
    map := Store.reset.map
    parts := []
    unplaced := []
    casts := []
    standbyClosed := []
    standbyEpoch := []
    holds := [] })
  s5.modPlinth (fun p => { p with
    auxAt := s.now
    restarts := []
    thermal := []
    leftHeld := []
    lost0 := none
    lost1 := none })

/-- HOLD_UP_END: both wythes are done, or 100 ms have passed (R478). -/
def execHoldUpEnd (s : State) : Host.Outcome State Fault Refusal :=
  match s.holdup with
  | none => .next s
  | some x =>
    if x.wait ≠ [] && !s.since x.at_ (ms 100) then .next s
    else
      let gen := fun i => if x.ended.contains i then ((x.begun.find? (fun e => e.2.1 = i)).map (fun e => e.2.2)).getD 0 else 0
      let d := leBytes 8 (gen 0) ++ leBytes 8 (gen 1) ++ leBytes 4 ((s.now - x.at_) / 1000000)
      .next (s.record 0 0 0x0201 (pageIdOf (.pwr .w0)).toNat d).powerOff

/-! ### POWER_GOOD (R485, R487, R490) -/

/-- A start begins with a cause: both wythes are reset, the start record opens and step 1 ends. -/
def State.beginStart (s : State) (cause : Nat) : State :=
  let s1 := (s.dropChannels.resetWythe .w0 cause).resetWythe .w1 cause
  let s2 : State := { s1 with cover := .reset, pwr := .reset }
  let s3 := s2.modPlinth (fun p => { p with
    cnt0 := 0
    cnt1 := 0
    startOn := true
    restarts := []
    thermal := []
    leftHeld := []
    brickReset := none })
  let s3 := (if s3.front.removeSt = 0 then s3 else s3.event .fpn FPN_EVT_REMOVE_CHANGE).modFront (fun f => { f with
    removeSt := 0
    unclean := false
    refusedAt := none
    deadline := none
    asking := none })
  ((s3.modHealth (fun h => { h with caps := h.caps.map (fun c => { c with charged := true }) })).startRecord cause).brickStep 1 0 0

/-- SLOT_ID of both halves is read; halves that differ cause a NOTICE event (R526). -/
def State.readSlots (s : State) (slotA slotB : Nat) : State :=
  let s1 := s.modFront (fun f => { f with
    slotA := slotA % 64
    slotB := slotB % 64 })
  if slotA % 64 = slotB % 64 then s1 else s1.recordOpen 0 1 .fpn (leBytes 1 (slotA % 64) ++ leBytes 1 (slotB % 64))

/-- A 12 V and a 3.3 V auxiliary input have stayed in range for 100 ms. -/
def State.powerIsGood (s : State) : Bool :=
  let good := fun x : Input => x.on && !x.pwrdis && inRange12 x.mv && s.since x.at_ (ms 100)
  auxIn s.plinth && s.since s.plinth.auxAt (ms 100) && (good s.inA || good s.inB)

/-- POWER_GOOD: a start begins on a brick that is off; in ROM recovery the wythes run their ROM alone. The halves' SLOT_ID is read. -/
def execPowerGood (slotA slotB : Nat) (s : State) : Host.Outcome State Fault Refusal :=
  if !s.plinth.up || s.service || s.holdup.isSome || s.powered || !s.powerIsGood then .next s
  else
    let s1 := s.readSlots slotA slotB
    if s.plinth.recovery then .next ((s1.resetWythe .w0 7).resetWythe .w1 7).romOnly
    else .next (s1.beginStart 1)

end Sys2Proof.Machine
end

