-- ==== Sys2Proof/Machine/Firmware.lean ====
section
/-! DEFINITION. Staging, activation and its ends, the settings store, keyspace policies and wall settings (R190, R493-R508). -/

namespace Sys2Proof.Machine

/-! ### Staging (R496, R497, R501) -/

/-- The set is driven by a wythe that runs, in ROM recovery by one that runs its ROM (R490, R496). -/
def State.setDriven (s : State) (i : Nat) : Bool :=
  let w := s.setWy i
  s.running w || (s.plinth.recovery && s.released w && 5 ≤ (s.startOf w).step)

/-- The sets that a STAGE names: for WYTHE those of its mask. -/
def stageSets (comp mask : Nat) : List Nat :=
  if comp = 4 then (if mask % 4 = 0 then [0, 1] else [0, 1].filter (fun i => mask.testBit i)) else compSets comp .w0

/-- A read-threshold table: its header, length and CRC, and bounds that ascend (R332). -/
def rdTableOk (b : Bytes) : Bool :=
  let age := (List.range 15).map (fun i => ofLe (sliceBytes b (28 + 4 * i) 4))
  let temp := (List.range 7).map (fun i => toSigned 8 (ofLe (sliceBytes b (88 + i) 1)))
  b.length = 33408 && ofLe (sliceBytes b 0 4) = 0x474C5254 && ofLe (sliceBytes b 4 2) = 1 && ofLe (sliceBytes b 12 4) = 33408
    && ofLe (sliceBytes b 16 4) = (crc32c (b.take 16 ++ zeroBytes 4 ++ b.drop 20)).toNat
    && (List.range 14).all (fun i => decide (age.getD i 0 < age.getD (i + 1) 0))
    && (List.range 6).all (fun i => decide (temp.getD i 0 < temp.getD (i + 1) 0))

/-- The entries of a conversion table, each with its default values after it (R501, log 42). -/
def convOk : Nat → Bytes → Bool
  | _, [] => true
  | 0, _ => false
  | n + 1, b =>
    let action := ofLe (sliceBytes b 4 1)
    let len := ofLe (sliceBytes b 12 4)
    1 ≤ action && action ≤ 4 && 16 + len ≤ b.length && convOk n (b.drop (16 + len))

/-- CONV_TO is at or below SETTINGS_FORMAT of some staged or running WYTHE image (R501). -/
def State.convReaches (s : State) (h : ImgHeader) : Bool :=
  s.fw.slots.any (fun x => x.comp = 4 && (slotSt x = 1 || x.slotB = s.runsB 4 x.set) && x.hdr.any (fun g => h.convTo ≤ g.setFormat))

/-- The table that a payload's plaintext holds: the read-threshold table from its first byte (log 251), or the conversion table. -/
def tableIn (comp : Nat) (plain : Bytes) : Bytes := if comp = 2 then plain.take 33408 else if comp = 5 then plain else []

/-- The Plinth authenticates every payload but a WYTHE image's, and checks a table's structure (R497). -/
def State.payloadOk (s : State) (h : ImgHeader) (plain : Option Bytes) : Bool :=
  h.component = 4 || plain.any (fun b =>
    let t := tableIn h.component b
    (h.component ≠ 2 || rdTableOk t) && (h.component ≠ 5 || (convOk t.length t && s.convReaches h)))

/-- The checks of R496, in order. -/
def State.stageFault (s : State) (comp mask : Nat) (h : ImgHeader) : Option Nat :=
  if h.component ≠ comp then some 1
  else match s.hdrFault h with
    | some c => some c
    | none =>
      if s.fw.act.any (fun a => a.comp = comp) then some 7
      else if comp ≠ 1 && (stageSets comp mask).any (fun i => !s.setDriven i) then some 0xA
      else none

/-- The inactive slot of a component in a set takes an image: EMPTY until it is whole (R497). -/
def State.putImage (s : State) (comp set : Nat) (h : ImgHeader) (plain : Option Bytes) (ok : Bool) : State :=
  s.modFwSlot comp set (s.idleB comp set) (fun x => { x with
    hdr := if ok then some h else none
    good := ok && plain.isSome
    auth := ok && comp ≠ 4
    table := if ok then tableIn comp (plain.getD []) else []
    stamps := [] })

/-- STAGE: the header and the payload as they were streamed; a session that ends before PAYLOAD_LEN bytes leaves the slot unusable. -/
def execStage (session comp mask : Nat) (header payload : Bytes) (s : State) : Host.Outcome State Fault Refusal :=
  let h := imgHeader header
  if !s.may session 1 then .next (s.emit (.service session false))
  else match s.stageFault comp mask h with
    | some c => .next ((s.fwuRefuse c).emit (.service session false))
    | none =>
      let sets := stageSets comp mask
      let whole := decide (h.len ≤ payload.length)
      let plain := imgPlain header (payload.take h.len)
      let ok := whole && s.payloadOk h plain
      let seq := s.nextActSeq comp
      let s1 := sets.foldl (fun s i => s.putImage comp i h plain ok) s
      if ok then
        let s2 := sets.foldl (fun s i => s.stamp comp i (s.idleB comp i) 1 seq) s1
        .next ((s2.fwuNote 0 (some FWU_CNT_STAGED) (some FWU_EVT_STAGED)).emit (.service session true))
      else if whole then .next ((s1.fwuNote 5 (some FWU_CNT_REFUSED) (some FWU_EVT_REFUSED)).emit (.service session false))
      else .next s1

/-! ### The checks of an activation (R501, R502) -/

/-- The lowest and highest compatibility levels among MEMBER bricks, as an armature member knows them (R501). -/
def State.wallLevels (s : State) : Option (Nat × Nat) :=
  ((s.wall.bricks.filter (fun b => b.st = .member)).map (fun b => b.compat)).foldl (fun a c => match a with
    | none => some (c, c)
    | some (lo, hi) => some (min lo c, max hi c)) none

/-- Two levels differ by at most one. -/
def nearLevel (a b : Nat) : Bool := a ≤ b + 1 && b ≤ a + 1

/-- A component and wythe in the order Plinth, media tables, SerDes, wythe 1, wythe 0. -/
def actOrder (comp : Nat) (w : Wy) : Nat := if comp = 4 then (match w with | .w1 => 4 | .w0 => 5) else comp

/-- A component's inactive slots are STAGED. -/
def State.stagedFor (s : State) (comp : Nat) (w : Wy) : Bool :=
  (compSets comp w).all (fun i => s.slotState comp i (s.idleB comp i) = 1)

/-- The new image of a WYTHE activation. -/
def State.newHdr (s : State) (w : Wy) : Option ImgHeader := (s.fwSlot 4 w.num (s.idleB 4 w.num)).bind (fun x => x.hdr)

/-- The settings of the store can be read by a new image: directly, or by a staged conversion named with WITH_CONVERSION (R502, R508). -/
def State.settingsFit (s : State) (w : Wy) (conv : Bool) : Bool :=
  match s.newHdr w, (s.setStore w).getLast? with
  | some h, some g =>
    let fits := fun n => decide (h.readMin ≤ n) && decide (n ≤ h.setFormat)
    fits g.format || (conv && s.slotState 5 w.num false = 1
      && ((s.fwSlot 5 w.num false).bind (fun x => x.hdr)).any (fun c => c.convFrom = g.format && fits c.convTo))
  | _, _ => true

/-- A removal is pending or allowed (R453). -/
def State.removing (s : State) : Bool := s.front.asking.isSome || s.front.removeSt = 1 || s.front.removeSt = 2

/-- The page is a port's. -/
def isMacPage : Page → Bool
  | .mac _ _ => true
  | _ => false

/-- The first check of R502 that fails; BUSY too while a panel or port test runs (R515). -/
def State.actFault (s : State) (comp : Nat) (w : Wy) (conv : Bool) : Option Nat :=
  let earlier := [(1, Wy.w0), (2, .w0), (3, .w0), (4, .w1), (4, .w0)].any (fun e =>
    decide (actOrder e.1 e.2 < actOrder comp w) && s.stagedFor e.1 e.2)
  let level := ((s.newHdr w).map (fun h => h.compat)).getD 0
  let compat := nearLevel level (s.wyLevel w.peer) && s.wallLevels.all (fun l => nearLevel level l.1 && nearLevel level l.2)
  if comp = 0 || 4 < comp || !s.stagedFor comp w then some 6
  else if s.fw.act.isSome || s.fw.restart.isSome || s.cover.handingBack || s.testing isPanel ≠ 0 || s.testing isMacPage ≠ 0 then some 7
  else if earlier then some 8
  else if (comp = 4 && !s.running w.peer) || (comp = 3 && !wythes.all s.running) || (2 ≤ comp && s.cover.coverer.isSome && comp ≠ 2)
      || (comp = 2 && !wythes.any s.running) then some 0xA
  else if wythes.any (fun w => s.running w && !s.plinthOk w) then some 0xB
  else if !s.front.latchClosed || s.removing then some 0xC
  else if comp = 4 && !compat then some 9
  else if comp = 4 && !s.settingsFit w conv then some 0xD
  else none

/-- The activation that a request starts. -/
def State.newAct (s : State) (comp : Nat) (w : Wy) (conv : Bool) (stage : Nat) : Activation :=
  let i := (compSets comp w).headD 0
  let b := s.idleB comp i
  { comp := comp, w := w, slotB := b, conv := conv, stage := stage, seq := s.seqOf comp i b, at_ := s.now, trialAt := none, port := 0, portAt := none }

/-- Stamp a trial: TRIAL, and TRIED where no ROM starts the image. -/
def State.stampTrial (s : State) (a : Activation) : State :=
  let s1 := s.stampAll a.comp a.w a.slotB 2 a.seq
  if a.comp = 2 || a.comp = 3 then s1.stampAll a.comp a.w a.slotB 3 a.seq else s1

/-! ### SerDes, port by port (R502) -/

/-- The port of a brick port number belongs to the mode and its unit is in use. -/
def State.portThere (s : State) (n : Nat) : Bool :=
  let w : Wy := if n < 4 then .w0 else .w1
  n % 4 < (if (s.wy w).portMode = 2 then 2 else 4) && s.unit (macPage w (n % 4)) = .online

/-- The wythe of a brick port. -/
def portWy (n : Nat) : Wy := if n < 4 then .w0 else .w1

/-- The reload goes on: a port that is not there is passed over, the next one goes down, and after port 7 the activation commits. -/
def State.serdesNext (s : State) : Nat → State
  | 0 => s
  | n + 1 =>
    match s.fw.act with
    | some a =>
      if a.comp ≠ 3 then s
      else if 8 ≤ a.port then s.fwCommit a
      else match a.portAt with
        | some _ =>
          if (s.port (portWy a.port) (a.port % 4)).linkUp then
            (s.modFw (fun y => { y with act := some { a with port := a.port + 1, portAt := none } })).serdesNext n
          else s
        | none =>
          if s.portThere a.port then
            (s.linkDown (portWy a.port) (a.port % 4)).modFw (fun y => { y with act := some { a with portAt := some s.now } })
          else (s.modFw (fun y => { y with act := some { a with port := a.port + 1 } })).serdesNext n
    | none => s

/-- The next port starts once the last has link. -/
def State.serdesDue (s : State) : State := s.serdesNext 18

/-- SERDES_LINK_TIMEOUT: 5 s after its reload a port has no link: the old microcode returns. -/
def execSerdesLinkTimeout (s : State) : Host.Outcome State Fault Refusal :=
  match s.fw.act with
  | some a =>
    let late := a.comp = 3 && a.portAt.any (fun t => s.since t (sec 5)) && !(s.port (portWy a.port) (a.port % 4)).linkUp
    .next (if late then s.fwFallback else s)
  | none => .next s

/-! ### Activations (R502, R503) -/

/-- An accepted activation begins. `cal`, `ksA` and `ksB` are the checks of the Plinth's reset. -/
def State.beginAct (s : State) (comp : Nat) (w : Wy) (conv cal ksA ksB : Bool) : State :=
  let a := s.newAct comp w conv (if comp = 1 then 3 else if comp = 4 then 2 else 5)
  let s1 := s.modFw (fun y => { y with act := some { a with trialAt := if comp = 1 then some s.now else none } })
  if comp = 1 then (s1.stampTrial a).plinthBoot cal ksA ksB
  else if comp = 4 then s1.announceDrain w true (s.afld (.fwu w) FWU_CTRL 15 0)
  else if comp = 3 then (s1.stampTrial a).serdesDue
  else
    let s2 := (s1.stampTrial a).fwCommit a
    (wythes.filter s2.running).foldl State.loadTables s2

/-- An activation of a component is judged and begun. -/
def State.activate (s : State) (comp : Nat) (w : Wy) (conv cal ksA ksB : Bool) : State :=
  match s.actFault comp w conv with
  | some c => s.fwuRefuse c
  | none => s.beginAct comp w conv cal ksA ksB

/-- An activation asked for by a session with the FIRMWARE right, or by a write of FWU_ACTIVATE (R502). -/
def State.askActivate (s : State) (by_ : FwAsk) (comp : Nat) (w : Wy) (conv cal ksA ksB : Bool) : State :=
  match by_ with
  | .session n => s.command n 1 (s.actFault comp w conv).isNone (fun s => s.activate comp w conv cal ksA ksB)
  | .page src p => s.gated src (.fwu p) FWU_ACTIVATE (fun s => s.activate comp w conv cal ksA ksB)

/-- A refused ACTIVATE of a session leaves its code in FWU_RESULT. -/
def State.noteRefused (s : State) (by_ : FwAsk) (comp : Nat) (w : Wy) (conv : Bool) : State :=
  match by_ with
  | .session n => if s.may n 1 then (match s.actFault comp w conv with
      | some c => s.fwuRefuse c
      | none => s) else s
  | .page _ _ => s

/-- ACTIVATE_PLINTH: the Plinth is reset into the trial slot, with the checks of its start. -/
def execActivatePlinth (by_ : FwAsk) (cal ksA ksB : Bool) (s : State) : Host.Outcome State Fault Refusal :=
  .next ((s.noteRefused by_ 1 .w0 false).askActivate by_ 1 .w0 false cal ksA ksB)

/-- ACTIVATE_MEDIA_TABLES. -/
def execActivateMediaTables (by_ : FwAsk) (s : State) : Host.Outcome State Fault Refusal :=
  .next ((s.noteRefused by_ 2 .w0 false).askActivate by_ 2 .w0 false true true true)

/-- ACTIVATE_SERDES. -/
def execActivateSerdes (by_ : FwAsk) (s : State) : Host.Outcome State Fault Refusal :=
  .next ((s.noteRefused by_ 3 .w0 false).askActivate by_ 3 .w0 false true true true)

/-- ACTIVATE_WYTHE. -/
def execActivateWythe (by_ : FwAsk) (w : Wy) (conv : Bool) (s : State) : Host.Outcome State Fault Refusal :=
  .next ((s.noteRefused by_ 4 w conv).askActivate by_ 4 w conv true true true)

/-- TRIAL_TIMEOUT: 600 s after its reset the trial has not reached SERVICE_OPEN: the wythe is reset into the previous image (R503). -/
def execTrialTimeout (s : State) : Host.Outcome State Fault Refusal :=
  match s.fw.act with
  | some a =>
    if a.comp ≠ 4 || !a.trialAt.any (fun t => s.since t (sec 600)) || 13 ≤ (s.startOf a.w).step then .next s
    else
      let s1 := if s.slotState 4 a.w.num a.slotB = 2 then s.stamp 4 a.w.num a.slotB 3 a.seq else s
      let s2 : State := { s1 with cover := { s1.cover with handingBack := false } }
      .next (s2.fwFallback.restartWythe a.w 5)
  | none => .next s

/-- PLINTH_TRIAL_COMMIT: a trial Plinth image has run 10 s in Service (R502). -/
def execPlinthTrialCommit (s : State) : Host.Outcome State Fault Refusal :=
  match s.fw.act with
  | some a => .next (if a.comp = 1 && s.service && s.since s.plinth.resetAt (sec 10) then s.fwCommit a else s)
  | none => .next s

/-! ### The settings store (R505, R506) -/

/-- The area and key by which a record is identified (R505, log 39): brick settings, media, wall, keyspace policies. -/
def settingKey : Setting → Nat × Nat
  | .portMode _ => (1, 0)
  | .poolCounts _ => (1, 1)
  | .portAddr n _ => (1, 2 + n)
  | .reg p off _ => (1, 16 + pageKey p + off)
  | .media .. => (2, 0)
  | .wall _ => (3, 0)
  | .policy k => (4, k.id.toNat)

/-- Records with others put in place of those of equal area and key. -/
def mergeSettings (old new : List Setting) : List Setting :=
  new.foldl (fun l x => l.filter (fun y => settingKey y ≠ settingKey x) ++ [x]) old

/-- The format that a wythe's running image writes. -/
def State.writesFormat (s : State) (w : Wy) : Nat := ((s.runningHdr 4 w.num).map (fun h => h.setFormat)).getD 0

/-- A new generation in both sets' stores. -/
def State.newGen (s : State) (f : List Setting → List Setting) : State :=
  wythes.foldl (fun s w =>
    let old := (s.setStore w).getLast?
    let g : SetGen :=
      { gen := ((old.map (fun x => x.gen)).getD 0) + 1, format := s.writesFormat (s.setWy w.num), recs := f ((old.map (fun x => x.recs)).getD []) }
    s.writeGen w g) s

/-- Both sets' stores can be written: a wythe that runs its settings drives each (R505). -/
def State.storesOpen (s : State) : Bool := [0, 1].all (fun i => s.running (s.setWy i) && 8 ≤ (s.startOf (s.setWy i)).step)

/-- The ranges of the wall settings (R101, R133, R190, R231, R249, R266). -/
def wallRanges (ws : WallSettings) : Bool :=
  let tier := fun (l : List Nat) (n lo hi : Nat) => l = [] || (decide (lo ≤ l.getD n 0) && decide (l.getD n 0 ≤ hi))
  ws.wallId ≠ 0 && ws.wallId < 2 ^ 64 && 1024 ≤ ws.udpPort && ws.udpPort ≤ 65535 && 1500 ≤ ws.mtu && ws.mtu ≤ 9000
    && 2 ≤ ws.k && ws.k ≤ 32 && 1 ≤ ws.m && ws.m ≤ 6 && ws.k + ws.m ≤ 36
    && [262144, 524288, 1048576, 2097152, 4194304].contains ws.fragBytes && 256 ≤ ws.groups && ws.groups ≤ 65536
    && (ws.codeTable = 1 || (0x10000 ≤ ws.codeTable && ws.codeTable ≤ 0x1FFFF && ws.codeRows.length = ws.m
      && ws.codeRows.all (fun r => r.length = ws.k) && codeTableOk ws))
    && (ws.armSize = 5 || ws.armSize = 7) && 60 ≤ ws.lossDelayS && ws.lossDelayS ≤ 86400 && ws.ptpDomain ≤ 127
    && 50 ≤ ws.epsUs && ws.epsUs ≤ 10000 && 1 ≤ ws.closedLagMs && ws.closedLagMs ≤ 1000 && 600 ≤ ws.retainS && ws.retainS ≤ 86400
    && ws.gear.all (fun g => g.length = 256 && g.all (fun x => x < 2 ^ 64)) && 25 ≤ ws.thinPct && ws.thinPct ≤ 90
    && (ws.tierPct = [] || ws.tierPct.length = 3) && (ws.tierMbs = [] || ws.tierMbs.length = 3)
    && tier ws.tierPct 0 5 50 && tier ws.tierPct 1 10 75 && tier ws.tierPct 2 25 90
    && tier ws.tierMbs 0 1000 50000 && tier ws.tierMbs 1 5000 75000 && tier ws.tierMbs 2 10000 90000

/-- A record that a SETTINGS session may write, within its range: a brick or media setting, and before the brick has a wall identity the
wall settings for a FORM (R191, R506). -/
def State.settingOk (s : State) (x : Setting) : Bool :=
  match x with
  | .portMode m => m = 1 || m = 2
  | .poolCounts l => countsOk l
  | .media a b c d => 16 ≤ a && a ≤ 512 && 32 ≤ b && b ≤ 1024 && a ≤ b && 1 ≤ c && c ≤ 16 && 7 ≤ d && d ≤ 90
  | .reg p off v => (shadowRows p).any (fun r => r.off = off && inRange r v)
  | .portAddr n _ => n < 8
  | .wall ws => !s.wall.identity && wallRanges ws
  | .policy _ => false

/-- SETTINGS_WRITE: a new generation with the records put in; they take effect at the next SETTINGS_LOAD, the wall settings at once. -/
def execSettingsWrite (session : Nat) (recs : List Setting) (s : State) : Host.Outcome State Fault Refusal :=
  let ok := recs ≠ [] && s.storesOpen && recs.all s.settingOk
  .next (s.command session 6 ok (fun s =>
    recs.foldl (fun s x => match x with
      | .wall ws => s.modWall (fun y => { y with settings := ws })
      | _ => s) (s.newGen (fun l => mergeSettings l recs))))

/-- A MEMBER brick writes the committed wall settings and policies into both stores (R506). -/
def State.settingsDue (s : State) : State :=
  if s.fw.stored = s.wall.settingsVer || !s.wall.identity || !s.storesOpen then s
  else
    let brick := fun l : List Setting => l.filter (fun x => (settingKey x).1 < 3)
    (s.newGen (fun l => brick l ++ [.wall s.wall.settings] ++ s.store.keyspaces.map .policy)).modFw (fun y => { y with
      stored := s.wall.settingsVer })

/-! ### Changes through the armature (R133, R180, R190, R249, R507) -/

/-- A change goes to the armature: appended by the leader, or handed on to it. -/
def State.toLeader (s : State) (c : ArmChange) : State :=
  if s.wall.arm.role = .leader then (s.propose c).lead_ else s.emit (.armForward c)

/-- Key versions that a keyspace retains. -/
def State.keyVersHeld (s : State) (ks : BitVec 32) : Nat :=
  ((s.wy s.leadWy).cip.slots.filter (fun x => x.keyspace = ks && x.st ≠ .retired)).length

/-- The highest key version of a keyspace. -/
def State.topKeyVer (s : State) (ks : BitVec 32) : Nat :=
  ((s.wy s.leadWy).cip.slots.filter (fun x => x.keyspace = ks)).foldl (fun a x => max a x.ver) 0

/-- Keyspaces that the leader is about to commit (R53). -/
def State.newPolicies (s : State) : Nat :=
  (s.uncommitted.filter (fun c => match c with | .policy k => (s.keyspace k.id).isNone | _ => false)).length

/-- The values of a policy lie in range (R507); `old` is the policy that it changes. -/
def State.policyOk (s : State) (k : Keyspace) (old : Option Keyspace) : Bool :=
  let rot := match old with
    | none => true
    | some o => k.rotate = o.rotate || (k.rotate = (o.rotate + 1) % 256 && s.keyVersHeld k.id < 16 && s.topKeyVer k.id < 65535)
  k.id ≠ 0 && 1 ≤ k.keyVers && k.keyVers ≤ 16 && k.rotate < 256 && k.historyS ≤ 2592000
    && (k.castLifeS = 0 || (3600 ≤ k.castLifeS && k.castLifeS ≤ 631152000)) && k.grants.length ≤ 64
    && k.grants.all (fun g => match g.1 with
      | .subnet _ n => n ≤ 128
      | .function _ => true)
    && 60 ≤ k.shipS && k.shipS ≤ 86400 && rot && (old.isSome || s.store.keyspaces.length + s.newPolicies < 16384)

/-- KEYSPACE_POLICY (R507): at creation the salt is drawn; it never changes while the keyspace exists (R139). -/
def execKeyspacePolicy (session : Nat) (change : KsChange) (s : State) : Host.Outcome State Fault Refusal :=
  match change with
  | .put k =>
    let old := s.keyspace k.id
    let salt := match old with
      | some o => o.salt
      | none => freeBytes (s.fresh * 32) 32
    .next (s.command session 6 (s.wall.st = .member && s.policyOk k old) (fun s =>
      let s1 := s.toLeader (.policy { k with salt := salt })
      if old.isSome then s1 else s1.used))
  | .delete ks =>
    .next (s.command session 6 (s.wall.st = .member && (s.keyspace ks).isSome) (fun s => s.toLeader (.policyGone ks)))

/-- A change of the wall settings keeps the fixed ones, and a raised ε is refused while a wythe would be OUT_OF_SYNC (R133, R190). -/
def State.wallChangeOk (s : State) (ws : WallSettings) : Bool :=
  let o := s.wall.settings
  wallRanges ws && ws.wallId = o.wallId && ws.udpPort = o.udpPort && ws.k = o.k && ws.m = o.m && ws.fragBytes = o.fragBytes
    && ws.groups = o.groups && ws.codeTable = o.codeTable && ws.codeRows = o.codeRows
    && (ws.epsUs ≤ o.epsUs || (s.wall.bricks.all (fun b => b.inSync) && wythes.all (fun w => !s.running w || (s.wy w).clk.inSync)))

/-- WALL_SETTINGS_CHANGE: asked for by a SETTINGS session on a MEMBER brick. -/
def execWallSettingsChange (session : Nat) (ws : WallSettings) (s : State) : Host.Outcome State Fault Refusal :=
  .next (s.command session 6 (s.wall.st = .member && s.wallChangeOk ws) (fun s => s.toLeader (.settings ws)))

end Sys2Proof.Machine
end

