-- ==== Sys2Proof/Machine/Units.lean ====
section
/-! DEFINITION. The common page header's registers and the units behind them (R33, R404-R410, R510-R516), and the TST page's actions (R514,
R516, R518). -/

namespace Sys2Proof.Machine

/-! ### PAGE_CTRL (R405, R406, R410) -/

/-- A write of PAGE_CTRL, where it arrives. -/
def State.writeCtrl (s : State) (src : AccSrc) (p : Page) (v : Word) : State :=
  s.gated src p PAGE_CTRL (fun s => s.writePageCtrl p v (srcNum src))

/-- PAGE_ENABLE: a write of PAGE_CTRL with its whole value. -/
def execPageEnable (src : AccSrc) (p : Page) (v : Word) (s : State) : Host.Outcome State Fault Refusal := .next (s.writeCtrl src p v)

/-- PAGE_QUIESCE: a write of PAGE_CTRL with its whole value. -/
def execPageQuiesce (src : AccSrc) (p : Page) (v : Word) (s : State) : Host.Outcome State Fault Refusal := .next (s.writeCtrl src p v)

/-- PAGE_BYPASS: a write of PAGE_CTRL with its whole value. -/
def execPageBypass (src : AccSrc) (p : Page) (v : Word) (s : State) : Host.Outcome State Fault Refusal := .next (s.writeCtrl src p v)

/-- TEST_START: a write of PAGE_CTRL with its whole value. -/
def execTestStart (src : AccSrc) (p : Page) (v : Word) (s : State) : Host.Outcome State Fault Refusal := .next (s.writeCtrl src p v)

/-- COMMIT: a write of PAGE_CTRL with its whole value. -/
def execCommit (src : AccSrc) (p : Page) (v : Word) (s : State) : Host.Outcome State Fault Refusal := .next (s.writeCtrl src p v)

/-! ### The end of a unit's current job (R33, R406) -/

/-- A crypt or codec job stands on a tile. -/
def State.tileBusy (s : State) (w : Wy) (t : Nat) : Bool :=
  (s.wy w).cip.jobs.any (onTile (Fin.ofNat 128 t)) || (s.wy w).codec.any (fun j => j.tile = some (Fin.ofNat 128 t))

/-- Channels of a unit that its wythe's tiles still drive: its home channels, and the peer's LENT ones. -/
def State.unitDrives (s : State) (w : Wy) (c : Nat) : Bool :=
  (s.chan c).owner = some w || ((s.chan ((c + 32) % 64)).owner = some w && (s.chan ((c + 32) % 64)).mode = .lent)

/-- No job of a unit that goes out of use is left: no job on its tiles, no channel driven, nothing started on a channel. -/
def State.unitEmpty (s : State) (p : Page) : Bool :=
  match p with
  | .chn c => !s.media.jobs.any (fun j => j.req.channel = c.val && j.st ≠ .queued && j.st ≠ .held)
  | _ => match pageWy p with
    | some w => (testTiles p).all (fun t => !s.tileBusy w t) && (unitChans p).all (fun c => !s.unitDrives w c)
    | none => true

/-- The current job of a unit that stays in use has ended: nothing runs on its tiles, nor is started on its channels. -/
def State.jobsEnded (s : State) (p : Page) : Bool :=
  match p with
  | .chn _ => s.unitEmpty p
  | _ => match pageWy p with
    | some w => (testTiles p).all (fun t => !s.tileBusy w t) && (unitChans p).all (fun c =>
        !s.media.jobs.any (fun j => j.req.channel = c && j.st ≠ .queued && j.st ≠ .held))
    | none => true

/-- A unit that comes back has its channels again, or they have no media tile to return to (R343). -/
def State.unitBack (s : State) (p : Page) : Bool :=
  match pageWy p with
  | some w => (unitChans p).all (fun c => (s.chan c).owner ≠ some w.peer || s.cover.coverer = some w.peer)
  | none => true

/-- UNIT_JOB_DRAINED: the unit reaches the state it drains towards; a channel bypassed so is DEGRADED (R513). -/
def execUnitJobDrained (p : Page) (s : State) : Host.Outcome State Fault Refusal :=
  let s1 := (unitChans p).foldl (fun s c => (s.releaseDone c).releaseDone ((c + 32) % 64)) s
  match (s1.ujob p).goal with
  | none => .next s
  | some g =>
    let ready := if s1.unit p = .bypassed then s1.unitBack p else if g = .quiesced then s1.jobsEnded p else s1.unitEmpty p
    if !ready then .next s1
    else
      let s2 := (s1.setUnit p g).modUjob p (fun u => { u with goal := none })
      let s3 := match p with
        | .chn c => if g = .bypassed then s2.degradeChan c.val else s2
        | _ => s2
      .next (match pageWy p with
        | some w => s3.unitChecked w p
        | none => s3)

/-- TEST_END: the result's code, its detail and the test's duration in µs (R510, R516). -/
def execTestEnd (p : Page) (code info us_ : Nat) (s : State) : Host.Outcome State Fault Refusal :=
  let s1 := s.endTest p code info us_
  .next (if (s.ujob p).test.isNone then s else match pageWy p with
    | some w => s1.unitChecked w p
    | none => s1)

/-! ### EVT_STATUS, ERR_COUNT and PAGE_LOCK (R9, R11, R404, R408) -/

/-- A write of an RW1C register (R9). -/
def State.clearBits (s : State) (p : Page) (off : Nat) (v : Word) : State := s.setReg p off (s.reg p off &&& ~~~v)

/-- The bits that a page defines are set as their events set them. -/
def State.forceEvt (s : State) (p : Page) (v : Word) : State := s.setEvt p (v &&& word (2 ^ evtBits p - 1))

/-- A one sets PAGE_LOCK.LOCK; a zero changes nothing. -/
def State.lockPage (s : State) (p : Page) (v : Word) : State := if bitOf v 0 then s.setRfld p PAGE_LOCK 0 0 1 else s

/-- EVT_STATUS_CLEAR. -/
def execEvtStatusClear (src : AccSrc) (p : Page) (v : Word) (s : State) : Host.Outcome State Fault Refusal :=
  .next (s.gated src p EVT_STATUS (fun s => s.clearBits p EVT_STATUS v))

/-- EVT_FORCE. -/
def execEvtForce (src : AccSrc) (p : Page) (v : Word) (s : State) : Host.Outcome State Fault Refusal :=
  .next (s.gated src p EVT_FORCE (fun s => s.forceEvt p v))

/-- ERR_COUNT_READ. -/
def execErrCountRead (src : AccSrc) (p : Page) (s : State) : Host.Outcome State Fault Refusal :=
  .next (s.readGate src p ERR_COUNT (s.reg p ERR_COUNT).toNat (fun s => s.setReg p ERR_COUNT 0))

/-- PAGE_LOCK. -/
def execPageLock (src : AccSrc) (p : Page) (v : Word) (s : State) : Host.Outcome State Fault Refusal :=
  .next (s.gated src p PAGE_LOCK (fun s => s.lockPage p v))

/-! ### TST_CTRL (R510, R514, R516, R518) -/

/-- The die that TST_TARGET names: channel × 32 + die. -/
def State.tstDie (s : State) (w : Wy) : Nat := s.rfld (.tst w) TST_TARGET 5 0 * 32 + s.rfld (.tst w) TST_TARGET 12 8

/-- A TST action ends with a result: an action finishes within its command, so BUSY is never seen (log 43). -/
def State.tstEnd (s : State) (w : Wy) (result ms_ : Nat) : State :=
  let p := Page.tst w
  let s1 := (s.testResult w result 7 ms_).event p TST_EVT_DONE
  if result = 0 then s1 else if result = 6 then s1.bump p TST_CNT_REFUSED else (s1.bump p TST_CNT_FAIL).event p TST_EVT_FAIL

/-- The die in TST_TARGET is tested: it answers with a result (R516) after some ms; one that fails is retired (R327, R510). -/
def State.dieTest (s : State) (w : Wy) (result ms_ : Nat) : State :=
  let d := s.tstDie w
  if (s.chan (d / 32)).owner ≠ some w then s.tstEnd w 6 0
  else
    let s1 := (s.bump (.tst w) TST_CNT_RUN).tstEnd w result ms_
    if result = 0 then s1 else s1.retireDie d 4

/-- DIE_TEST. -/
def execDieTest (src : AccSrc) (w : Wy) (result ms_ : Nat) (s : State) : Host.Outcome State Fault Refusal :=
  .next (s.gated src (.tst w) TST_CTRL (fun s => s.dieTest w result ms_))

/-- The die in TST_TARGET is retired. -/
def State.dieRetire (s : State) (w : Wy) : State :=
  let d := s.tstDie w
  let no := (s.die d).retired || (s.chan (d / 32)).owner ≠ some w || (s.set_ (setOf (d / 32))).dieRebuild ≠ []
  if no then s.tstEnd w 6 0 else ((s.retireDie d 5).settleSet (setOf (d / 32))).tstEnd w 0 0

/-- DIE_RETIRE_REQUEST. -/
def execDieRetireRequest (src : AccSrc) (w : Wy) (s : State) : Host.Outcome State Fault Refusal :=
  .next (s.gated src (.tst w) TST_CTRL (fun s => s.dieRetire w))

/-- A DRAM channel is marked. -/
def State.markDram (s : State) (w : Wy) (c : Nat) : State :=
  if s.plinth.marks.contains (w, c) then s
  else (s.modPlinth (fun p => { p with marks := p.marks ++ [(w, c)] })).event (.tst w) TST_EVT_DRAM_MARKED

/-- The channel in TST_TARGET is marked. -/
def State.dramMark (s : State) (w : Wy) : State := (s.markDram w (s.rfld (.tst w) TST_TARGET 19 16)).tstEnd w 0 0

/-- The channel in TST_TARGET is unmarked. -/
def State.dramUnmark (s : State) (w : Wy) : State :=
  let c := s.rfld (.tst w) TST_TARGET 19 16
  (s.modPlinth (fun p => { p with marks := p.marks.filter (· ≠ (w, c)) })).tstEnd w 0 0

/-- A read of DRAM met an uncorrectable error: outside the window the job that read the word fails (R19); the own half of the window is
served from the peer's mirror and rewritten, and without one its record is lost within the brick (R21). -/
def State.dramError (s : State) (w : Wy) (word : DramWord) : State :=
  match word with
  | .other => s
  | .buffer ref => s.bufferFault w ref
  | .copy id off => if s.running w.peer then s else s.loseCopy w id off
  | .index p v => if s.running w.peer then s else s.loseIndex w p v

/-- DRAM_MARK: by a write of TST_CTRL, of the channel in TST_TARGET; or by the wythe itself, of a channel that reported an uncorrectable
error (R19, R21, R514), with the word that was read. -/
def execDramMark (src : Option AccSrc) (w : Wy) (channel : Nat) (word : DramWord) (s : State) : Host.Outcome State Fault Refusal :=
  .next (match src with
    | some a => s.gated a (.tst w) TST_CTRL (fun s => s.dramMark w)
    | none =>
      if s.released w then
        ((s.markDram w (channel % 16)).recordOpen (srcOf w) 2 (.tst w) (leBytes 1 (channel % 16))).dramError w word
      else s)

/-- DRAM_UNMARK. -/
def execDramUnmark (src : AccSrc) (w : Wy) (s : State) : Host.Outcome State Fault Refusal :=
  .next (s.gated src (.tst w) TST_CTRL (fun s => s.dramUnmark w))

end Sys2Proof.Machine
end

