-- ==== Sys2Proof/Machine/Endpoint.lean ====
section
/-! DEFINITION. The PCI Express endpoint and its queue pages (R96, R396-R398, R411-R416). -/

namespace Sys2Proof.Machine

/-! ### Resets of the function (R96, R397) -/

/-- The Relief queues of a wythe's queue pages. -/
def State.pcieQueues (s : State) (w : Wy) : List (Nat × Nat) :=
  (s.wy w).relief.queues.filterMap (fun x => match x.transport with
    | .pcie n => some (x.idx, n.val)
    | .roce _ _ => none)

/-- The function-level reset: every queue page is FREE, the configuration space and MSI-X table are at their defaults (R397). -/
def State.functionReset (s : State) (w : Wy) : State :=
  let s1 := (s.pcieQueues w).foldl (fun s e => s.loseQueue w e.1 false) s
  let s2 := (s1.wy w).pcie.pages.foldl (fun s p => s.freePage w p.n) s1
  (s2.modPcie w (fun e => { e with
    bme := false
    d3hot := false
    msix := [] })).bump (.glb w) GLB_CNT_FLR

/-- The link of the endpoint goes down. -/
def State.pcieDown (s : State) (w : Wy) : State :=
  s.modPcie w (fun e => { e with
    linkUp := false
    speed := 0
    width := 0 })

/-- The endpoint's link is up. -/
def State.pcieUp (s : State) (w : Wy) : Bool := (s.wy w).pcie.linkUp

/-- FUNCTION_LEVEL_RESET. -/
def execFunctionLevelReset (w : Wy) (s : State) : Host.Outcome State Fault Refusal := .next (if s.pcieUp w then s.functionReset w else s)

/-- HOT_RESET. -/
def execHotReset (w : Wy) (s : State) : Host.Outcome State Fault Refusal := .next (if s.pcieUp w then s.functionReset w else s)

/-- PERST_ASSERT: the sticky AER bits are cleared too, and the link goes down. -/
def execPerstAssert (w : Wy) (s : State) : Host.Outcome State Fault Refusal :=
  .next (if s.released w then ((s.functionReset w).pcieDown w).modPcie w (fun e => { e with aer := 0 }) else s)

/-- PCIE_LINK_LOSS. -/
def execPcieLinkLoss (w : Wy) (s : State) : Host.Outcome State Fault Refusal :=
  .next (if s.pcieUp w then (s.functionReset w).pcieDown w else s)

/-! ### Bus Master Enable and D3hot (R96, R397, R416) -/

/-- Every OPEN queue becomes STOPPED at its epoch + 1; one that closes is gone. -/
def State.stopQueues (s : State) (w : Wy) : State :=
  (s.pcieQueues w).foldl (fun s e =>
    match (s.wy w).relief.queue e.1 with
    | none => s
    | some x =>
      if x.st = .closing then s.loseQueue w e.1 false
      else if x.st = .stopped then s
      else
        let s1 := (s.resetQueue w e.1).modQueue w e.1 (fun y => { y with
          st := .stopped
          acks := []
          dma := 0 })
        s1.modPage w e.2 (fun p => { p with
          st := .stopped
          epoch := nextEpoch x.epoch
          held := [] })) s

/-- BUS_MASTER_CLEAR. -/
def execBusMasterClear (w : Wy) (s : State) : Host.Outcome State Fault Refusal :=
  .next (if s.pcieUp w then (s.modPcie w (fun e => { e with bme := false })).stopQueues w else s)

/-- D3HOT_ENTRY. -/
def execD3hotEntry (w : Wy) (s : State) : Host.Outcome State Fault Refusal :=
  .next (if s.pcieUp w then (s.modPcie w (fun e => { e with d3hot := true })).stopQueues w else s)

/-! ### The submission ring (R413) -/

/-- The slots of a message. -/
def sqSlots (m : SqMsg) : Nat :=
  if m.control.isSome then 1 else 1 + (m.msg.cap.keyLen.toNat + m.msg.cap.immLen.toNat + 63) / 64

/-- A capsule whose lengths exceed R52's or R59's limits: every slot up to the tail is consumed. -/
def sqOver (m : SqMsg) : Bool := m.control.isNone && (1024 < m.msg.cap.keyLen.toNat || 4096 < m.msg.cap.immLen.toNat)

/-- Slots from the head to the tail. -/
def sqSpan (p : QPage) : Nat := (p.sqTail + 2 ^ p.sqLog - p.sqHead) % 2 ^ p.sqLog

/-- A fetched message is taken as one that arrives. -/
def State.sqTake (s : State) (w : Wy) (q : Nat) (m : SqMsg) : State :=
  match m.control, m.op with
  | none, some op => s.arrive w q op m.msg
  | _, _ => s.arriveOther w { q := q, control := m.control, op := m.op, msg := m.msg }

/-- The brick fetches whole messages from the ring, in order. -/
def State.sqFetch (s : State) (w : Wy) (n : Nat) : List SqMsg → State
  | [] => s
  | m :: rest =>
    let p := qpage (s.wy w).pcie n
    if p.st = .free || !s.dmaOk w || s.holdup.isSome || sqSpan p = 0 || (!sqOver m && sqSpan p < sqSlots m) then s
    else
      let head := if sqOver m then p.sqTail else (p.sqHead + sqSlots m) % 2 ^ p.sqLog
      let s1 := (s.modPage w n (fun p => { p with sqHead := head })).sqTake w (960 + n) m
      if sqOver m then s1 else s1.sqFetch w n rest

/-- The messages in the ring, in bytes, are fetched and the status record is written when the head has moved (R415). -/
def State.sqRun (s : State) (w : Wy) (n : Nat) (msgs : List Bytes) : State :=
  let h := (qpage (s.wy w).pcie n).sqHead
  let s1 := s.sqFetch w n (msgs.map sqMsgOf)
  let p := qpage (s1.wy w).pcie n
  if p.sqHead = h || p.st = .free || !s1.dmaOk w then s1 else s1.writeStatus w n

/-- A write of QP_SQ_TAIL; `msgs` are the messages that stand in the ring from the head on. A tail
outside the ring is refused with QP_STATE.ERROR 3 SIZE and nothing else (R5, log 44). -/
def State.sqBell (s : State) (w : Wy) (n tail : Nat) (msgs : List Bytes) : State :=
  let p := qpage (s.wy w).pcie n
  if !s.pcieUp w || p.st = .free then s
  else if 2 ^ p.sqLog ≤ tail then s.modPage w n (fun p => { p with error := 3 })
  else (s.modPage w n (fun p => { p with sqTail := tail })).sqRun w n msgs

/-- SQ_DOORBELL. -/
def execSqDoorbell (w : Wy) (n : Fin 64) (tail : Nat) (msgs : List Bytes) (s : State) : Host.Outcome State Fault Refusal :=
  .next (s.sqBell w n.val tail msgs)

/-- A write of QP_CQ_HEAD (R414): a head outside the span from the old head to the tail is ignored. -/
def State.cqBell (s : State) (w : Wy) (n head : Nat) : State :=
  let p := qpage (s.wy w).pcie n
  let size := 2 ^ p.cqLog
  let span := fun x => (x + size - p.cqHead) % size
  if !s.pcieUp w || p.st = .free || size ≤ head || span p.cqTail < span head then s
  else
    let s1 := s.modPage w n (fun p => { p with cqHead := head })
    if p.st = .stopped || !s1.dmaOk w || p.held = [] then s1
    else
      let s2 := s1.drainRing w n p.held.length
      let s3 := if (qpage (s2.wy w).pcie n).cqTail = p.cqTail then s2 else s2.writeStatus w n
      s3.sendAcks w (960 + n)

/-- CQ_DOORBELL. -/
def execCqDoorbell (w : Wy) (n : Fin 64) (head : Nat) (s : State) : Host.Outcome State Fault Refusal := .next (s.cqBell w n.val head)

/-- D0_RETURN: Bus Master Enable is set and the function is in D0; the link comes up, with speed and width, where it was down and the start
has reached LINK_TRAIN. Fetching resumes; `fetched` gives the messages that stand in the rings of the pages (R416). -/
def execD0Return (w : Wy) (speed width : Nat) (fetched : List (Fin 64 × List Bytes)) (s : State) : Host.Outcome State Fault Refusal :=
  if !s.released w || (!s.pcieUp w && (s.startOf w).step < 6) then .next s
  else
    let s1 := s.modPcie w (fun e => { e with
      bme := true
      d3hot := false
      linkUp := true
      speed := if e.linkUp then e.speed else speed
      width := if e.linkUp then e.width else width })
    .next (fetched.foldl (fun s e => s.sqRun w e.1.val e.2) s1)

/-! ### QP_CTRL (R412) -/

/-- The first check of CREATE that fails. -/
def State.qpFault (s : State) (w : Wy) (n : Nat) : Option Nat :=
  let p := qpage (s.wy w).pcie n
  if !s.dmaOk w then some 1
  else if p.sqBase % 4096 ≠ 0 || p.cqBase % 4096 ≠ 0 || p.stat % 64 ≠ 0 then some 2
  else if p.sqLog < 10 || 16 < p.sqLog || p.cqLog < 6 || 12 < p.cqLog then some 3
  else if 1024 ≤ (s.wy w).relief.queues.length then some 4
  else if p.st ≠ .free then some 5
  else none

/-- QP_CTRL.CREATE: the queue opens at epoch 1. -/
def State.qpCreate (s : State) (w : Wy) (n : Fin 64) : State :=
  if !s.pcieUp w || !(s.wy w).serving then s
  else match s.qpFault w n.val with
    | some e =>
      let s1 := s.modPage w n.val (fun p => { p with error := e })
      if e = 4 then (s1.bump (.rlf w) RLF_CNT_QUEUE_REFUSED).event (.rlf w) RLF_EVT_QUEUE_LIMIT else s1
    | none =>
      let x : Queue :=
        { idx := 960 + n.val, transport := .pcie n, epoch := 1, st := .opened, helloDone := false, mask := 0, evtSeq := 0,
          lastCapsule := s.now, acks := [], dma := 0 }
      let s1 := s.modRelief w (fun r => { r with queues := r.queues ++ [x] })
      (s1.modPage w n.val (fun p => { p with
        st := .opened
        error := 0
        epoch := 1
        sqHead := 0
        sqTail := 0
        cqHead := 0
        cqTail := 0
        held := [] })).writeStatus w n.val

/-- QP_CTRL.DESTROY: the queue closes without a CONTROL_ACK once no DMA for it remains. -/
def State.qpDestroy (s : State) (w : Wy) (n : Fin 64) : State :=
  match (s.wy w).relief.queue (960 + n.val) with
  | none => s
  | some x =>
    if !s.pcieUp w || x.st = .closing then s
    else if x.dma = 0 then s.loseQueue w x.idx false
    else
      let s1 := (s.resetQueue w x.idx).modQueue w x.idx (fun y => { y with
        st := .closing
        acks := [{ requestId := 0, code := destroyCode, epoch := y.epoch }] })
      s1.modPage w n.val (fun p => { p with
        st := .closing
        epoch := nextEpoch x.epoch })

/-- QP_CREATE. -/
def execQpCreate (w : Wy) (n : Fin 64) (s : State) : Host.Outcome State Fault Refusal := .next (s.qpCreate w n)

/-- QP_DESTROY. -/
def execQpDestroy (w : Wy) (n : Fin 64) (s : State) : Host.Outcome State Fault Refusal := .next (s.qpDestroy w n)

/-! ### MSI-X (R416) -/

/-- A change of an MSI-X entry; a pending entry that is not masked any more sends its message. -/
def State.setMsix (s : State) (w : Wy) (v : Nat) (f : MsixEntry → MsixEntry) : State :=
  let m := f (msixEntry (s.wy w).pcie v)
  let put := fun m : MsixEntry => s.modPcie w (fun e => { e with msix := upsert (fun x => x.n = v) (fun _ => m) m e.msix })
  if m.pending && !m.masked && s.dmaOk w then (put { m with pending := false }).emit (.msix w v) else put m

/-- MSIX_UNMASK. -/
def execMsixUnmask (w : Wy) (v : Fin 64) (s : State) : Host.Outcome State Fault Refusal :=
  .next (if s.pcieUp w then s.setMsix w v.val (fun m => { m with masked := false }) else s)

end Sys2Proof.Machine
end

