-- ==== Sys2Proof/Machine/Health.lean ====
section
/-! DEFINITION. Health, wear and ageing (R465-R474, R481): the temperature sensors and what they cause, the ageing sensors, the hold-up bank
tests, the end-of-life prediction and the health log. -/

namespace Sys2Proof.Machine

/-! ### The HLT pages (R474) -/

/-- Count in an HLT counter of both running wythes. -/
def State.hltBump (s : State) (off : Nat) : State := (wythes.filter s.running).foldl (fun s w => s.bump (.hlt w) off) s

/-- An HLT event of both running wythes. -/
def State.hltEvent (s : State) (bit : Nat) : State := (wythes.filter s.running).foldl (fun s w => s.event (.hlt w) bit) s

/-- An event entry of the brick's health: from a running wythe, or else from the Plinth. -/
def State.hltRecord (s : State) (severity : Nat) (detail : Bytes) : State :=
  let w := s.leadWy
  s.recordOpen (if s.running w then srcOf w else 0) severity (.hlt w) detail

/-! ### Temperatures (R465, R471, R481) -/

/-- The limit of a sensor in 0.1 °C (R465). -/
def tempLimit (n : Nat) : Int :=
  if n < 16 then 1050 else if n < 24 then 850 else if n < 26 then 650 else if n = 26 then 1000 else if n = 27 then 400
  else if n = 28 then 750 else if n < 31 then 850 else 700

/-- The warning point of a sensor in 0.1 °C. -/
def State.warnPoint (s : State) (n : Nat) : Int := tempLimit n - 10 * (s.afld (.hlt s.leadWy) HLT_TEMP_CTRL 4 0 : Nat)

/-- The offset of a sensor in 0.01 °C, from the calibration row (R433). -/
def tempOffset (n : Nat) : Int := toSigned 16 (ofLe [Config.calByte (180 + 2 * n), Config.calByte (181 + 2 * n)])

/-- The band of a temperature in 0.1 °C (R472). -/
def tempBand (t : Int) : Nat := if t < -50 then 0 else min 15 ((t + 50).toNat / 50 + 1)

/-- A sensor's record. -/
def State.temp (s : State) (n : Nat) : TempRec := s.health.temps.getD n .reset

/-- Change a sensor's record. -/
def State.modTemp (s : State) (n : Nat) (f : TempRec → TempRec) : State :=
  s.modHealth (fun h => { h with temps := h.temps.modify n f })

/-- A new sample enters a sensor's record. -/
def State.sampled (s : State) (n : Nat) (t : Int) : State :=
  let at_ := s.plinthTime
  let keep := fun (since_ : Option Nat) (c : Bool) => if c then some (since_.getD s.now) else none
  s.modTemp n (fun x => { x with
    cur := t
    seen := true
    high := if !x.seen || x.high < t then t else x.high
    highAt := if !x.seen || x.high < t then at_ else x.highAt
    low := if !x.seen || t < x.low then t else x.low
    lowAt := if !x.seen || t < x.low then at_ else x.lowAt
    secs := x.secs.modify (tempBand t) (· + 1)
    cool5 := keep x.cool5 (decide (t ≤ s.warnPoint n - 50))
    cool := keep x.cool (decide (t < s.warnPoint n)) })

/-- TEMP_HIGH (R471): at the warning point, again after 60 s at 5 °C below it, at most once in 10 min. -/
def State.warnTemp (s : State) (n : Nat) : State :=
  let x := s.temp n
  let armed := x.armed || x.cool5.any (fun t => s.since t (sec 60))
  let s1 := s.modTemp n (fun x => { x with armed := armed })
  if x.cur < s.warnPoint n || !armed || !(x.warned.all (fun t => s.since t (sec 600))) then s1
  else
    let s2 := s1.modTemp n (fun x => { x with
      armed := false
      warned := some s.now })
    ((s2.hltBump HLT_CNT_TEMP_HIGH).hltEvent HLT_EVT_TEMP_HIGH).earlyWarn 5 1 (n * 2 ^ 32 + ofSigned 32 x.cur)
      (leBytes 4 n ++ leInt 4 x.cur)

/-- The wythe's tile clock moves between ÷5 and ÷10 (R481, R482, R491). -/
def State.throttle (s : State) (w : Wy) (on : Bool) : State :=
  let p := Page.clk w
  if s.rfld p CLK_STATUS 4 4 = b2n on then s
  else
    let s1 := ((s.setRfld p CLK_STATUS 4 4 (b2n on)).setRfld p CLK_DIV 11 8 (if on then 10 else 5)).event p CLK_EVT_THROTTLE
    if on then (s1.bump p CLK_CNT_THROTTLE).recordOpen (srcOf w) 2 p (leBytes 1 w.num) else s1

/-- The wythe on whose die a sensor sits. -/
def dieOf (n : Nat) : Option Wy := if n < 8 then some .w0 else if n < 16 then some .w1 else none

/-- An action of the limit table: a FAULT event and its count (R481). -/
def State.tempAction (s : State) (n : Nat) : State := (s.hltBump HLT_CNT_TEMP_HIGH).hltRecord 2 (leBytes 1 n ++ leInt 2 (s.temp n).cur)

/-- A sensor has reached its limit (R481). -/
def State.atLimit (s : State) (n : Nat) : State :=
  let s1 := s.modTemp n (fun x => { x with limited := true })
  match dieOf n with
  | some w => if s.released w then s1.throttle w true else s1
  | none =>
    let s2 := s1.tempAction n
    if n = 31 then (s2.modPlinth (fun p => { p with pd := false })).pickSource else s2

/-- A sensor stands 10 °C above its limit (R481): a wythe that is not covering stops. -/
def State.overLimit (s : State) (n : Nat) : State :=
  let s1 := s.modTemp n (fun x => { x with over10 := true })
  match dieOf n with
  | some w =>
    if !s.running w || s.cover.coverer = some w then s1
    else
      let s2 := ((s1.hltBump HLT_CNT_TEMP_HIGH).recordOpen (srcOf w) 2 (.clk w) (leBytes 1 n)).modPlinth (fun p => { p with thermal := p.thermal.filter (· ≠ w) ++ [w] })
      s2.failWythe w
  | none =>
    let s2 := s1.tempAction n
    if n = 31 then s2.modPlinth (fun p => { p with usbData := false }) else s2

/-- A sensor has stayed below its warning point for 60 s: its actions are undone (R481). -/
def State.undoLimit (s : State) (n : Nat) : State :=
  let s1 := s.modTemp n (fun x => { x with
    limited := false
    over10 := false })
  match dieOf n with
  | some w => if ((s1.health.temps.drop (8 * w.num)).take 8).any (fun t => t.limited) then s1 else s1.throttle w false
  | none => if n = 31 && s1.plinth.up then s1.pickSource else s1

/-- What a sensor's sample causes (R471, R481). A wythe that a reset has brought back to full speed, or that has ceased to cover, meets its
limits anew. -/
def State.tempActs (s : State) (n : Nat) : State :=
  let s1 := s.warnTemp n
  let x := s1.temp n
  let s2 := if tempLimit n ≤ x.cur && (n < 16 || !x.limited) then s1.atLimit n else s1
  let s3 := if tempLimit n + 100 ≤ x.cur && (n < 16 || !x.over10) then s2.overLimit n else s2
  if x.limited && x.cool.any (fun t => s.since t (sec 60)) then s3.undoLimit n else s3

/-- The sensors that cut the NAND budget (R481). -/
def cutSensors : List Nat := [16, 17, 18, 19, 20, 21, 22, 23, 27, 28, 29, 30]

/-- The NAND budget falls by a further 25% of the set value every 10 s that a sensor stands at its limit, and returns with the last of them
(R481). -/
def State.cutBudget (s : State) : State :=
  let at_ := cutSensors.any (fun n => decide (tempLimit n ≤ (s.temp n).cur) && (s.temp n).limited)
  if !cutSensors.any (fun n => (s.temp n).limited) then s.modHealth (fun h => { h with
    cut := 0
    cutAt := none })
  else if at_ && s.health.cut < 4 && s.health.cutAt.all (fun t => s.since t (sec 10)) then s.modHealth (fun h => { h with
    cut := h.cut + 1
    cutAt := some s.now })
  else s

/-- TEMP_SAMPLE (R465): the readings of sensors in 0.01 °C before their offsets; a sensor whose part has no power gives none. -/
def execTempSample (temps : List (Fin 32 × Int)) (s : State) : Host.Outcome State Fault Refusal :=
  if !s.plinth.up && !s.running .w0 && !s.running .w1 then .next s
  else .next (temps.foldl (fun s e =>
    (s.sampled e.1.val ((e.2 + tempOffset e.1.val) / 10)).tempActs e.1.val) s).cutBudget

/-! ### Ageing (R466) -/

/-- A daily value takes its place; values older than 90 days go (R470). -/
def State.keepDaily (s : State) (code : Nat) (v : Int) : State :=
  s.modHealth (fun h => { h with
    daily := h.daily.filter (fun e => s.today < e.2.1 + 90 && ¬ (e.1 = code ∧ e.2.1 = s.today)) ++ [(code, s.today, v)] })

/-- The baseline frequency of an ageing sensor (R433). -/
def ageBase (n : Nat) : Nat := ofLe ((List.range 4).map (fun i => Config.calByte (112 + 4 * n + i)))

/-- One ageing sensor's measured frequency, corrected to 55 °C (R466). The slope is that of its daily values in 0.001 ppm a day. -/
def State.measureAge (s : State) (n freq : Nat) : State :=
  let base := ageBase n
  let shift : Int := if base = 0 then s.free else ((base : Int) - freq) * 1000000 / base
  let s1 := (if base = 0 then s.used else s).keepDaily (16 + n) shift
  let r := lineFit (s1.dailyOf (16 + n))
  s1.modHealth (fun h => { h with ages := h.ages.modify n (fun _ => { shift := shift, slope := r.1 * 1000 / r.2, day := s.today }) })

/-- AGEING_MEASURE (R466): the measured frequencies of the sensors; one on a wythe that is not running keeps its last value. -/
def execAgeingMeasure (freqs : List (Fin 16 × Nat)) (s : State) : Host.Outcome State Fault Refusal :=
  .next (freqs.foldl (fun s e => if s.running (if e.1.val < 8 then .w0 else .w1) then s.measureAge e.1.val e.2 else s) s)

/-! ### End of life (R470, R471) -/

/-- The early warnings of the prediction: raised within a number of days, again once it has moved beyond another. -/
def State.warnEol (s : State) (day : Nat) : State :=
  let ahead := day - s.today
  let s1 := s.modHealth (fun h => { h with
    warn180 := h.warn180 && ahead ≤ 210
    warn30 := h.warn30 && ahead ≤ 45 })
  let s2 := if ahead ≤ 180 && !s1.health.warn180 then
    (s1.modHealth (fun h => { h with warn180 := true })).earlyWarn 3 1 day (leBytes 2 day) else s1
  if ahead ≤ 30 && !s2.health.warn30 then (s2.modHealth (fun h => { h with warn30 := true })).earlyWarn 4 2 day (leBytes 2 day) else s2

/-- Project the end-of-life day. -/
def State.predict (s : State) : State :=
  let s1 := [1, 2, 3, 4].foldl (fun s c => s.keepDaily c (s.factorValue c)) s
  let e := eolOf s1.factorDays
  let s2 := s1.modHealth (fun h => { h with
    eolDay := e.1
    eolFactor := e.2 })
  let s3 := if s.health.eolDay = e.1 && s.health.eolFactor = e.2 then s2 else s2.hltEvent HLT_EVT_EOL_CHANGED
  s3.warnEol e.1

/-- EOL_PREDICTION. -/
def execEolPrediction (s : State) : Host.Outcome State Fault Refusal := .next (if s.running .w0 || s.running .w1 then s.predict else s)

/-! ### Hold-up bank tests (R467, R468) -/

/-- A bank may be tested now. -/
def State.capReady (s : State) (b : Nat) : Bool :=
  (s.health.caps[1 - b]?).any (fun c => c.charged) && s.running .w0 && s.running .w1 && s.cover.coverer.isNone && s.fw.act.isNone
    && s.health.testing.isNone && s.inA.on && s.inB.on && inRange12 s.inA.mv && inRange12 s.inB.mv
    && !((s.health.temps.drop 24).take 2).any (fun t => t.limited)

/-- The next bank that waits is isolated and tested, once conditions allow. -/
def State.startCap (s : State) : State :=
  match s.health.wait with
  | [] => s
  | b :: rest => if s.capReady b then (s.modHealth (fun h => { h with
      testing := some b
      wait := rest })).powerEval else s

/-- CAP_TEST: at the interval both banks wait for their test. -/
def execCapTest (s : State) : Host.Outcome State Fault Refusal :=
  let p := Page.hlt s.leadWy
  let due := s.act p HLT_CAP_CTRL |> fun v => bitOf v 8 && decide (s.health.testAt + fld v 6 0 ≤ s.today)
  let s1 := if due && (s.running .w0 || s.running .w1) then s.modHealth (fun h => { h with
      testAt := s.today
      wait := [0, 1] }) else s
  .next s1.startCap

/-- A test of banks is requested by HLT_CAP_REQ: refused with CAP_DEFERRED when the conditions do not hold. -/
def State.askCap (s : State) (src : AccSrc) (w : Wy) (v : Word) : State :=
  let l := (List.range 2).filter (fun b => bitOf v b)
  match l with
  | [] => s
  | b :: rest => if s.capReady b then (s.modHealth (fun h => { h with wait := b :: rest ++ h.wait.filter (fun x => !l.contains x) })).startCap
    else s.pageError (.hlt w) 1 HLT_CAP_REQ (srcNum src)

/-- CAP_TEST_REQUEST: a write of HLT_CAP_REQ. -/
def execCapTestRequest (src : AccSrc) (w : Wy) (v : Word) (s : State) : Host.Outcome State Fault Refusal :=
  .next (s.gated src (.hlt w) HLT_CAP_REQ (fun s => s.askCap src w v))

/-- The rated capacitance of a bank in 0.01 F (R433). -/
def ratedCap (b : Nat) : Nat := ofLe [Config.calByte (176 + 2 * b), Config.calByte (177 + 2 * b)]

/-- The steps of CAP_AGEING that a capacitance has passed: below 80%, then each further 2% (R471). -/
def capSteps (cap : Nat) : Nat := (8199 - cap) / 200

/-- A test finds a bank's capacitance in 0.01% of rated and its ESR in mΩ. -/
def State.capResult (s : State) (b cap esr : Nat) : State :=
  let t : CapTest := { day := s.today, cap := cap, esr := esr, energy := capEnergy cap }
  let s1 := s.modHealth (fun h => { h with
    testing := none
    caps := h.caps.modify b (fun c => { c with tests := c.tests.drop (c.tests.length - 63) ++ [t] }) })
  let s2 := (s1.hltBump HLT_CNT_CAP_TEST).hltEvent HLT_EVT_CAP_TEST_DONE
  let weak := s2.health.caps.map weakBank
  let s3 := if !weak.getD b false then s2
    else
      let w : Wy := if b = 0 then .w0 else .w1
      let a := ((s2.event (.pwr w) PWR_EVT_HOLDUP_LOW).hltEvent HLT_EVT_CAP_LOW).modHealth (fun h => { h with
        holdupLow := some (h.holdupLow.getD s.today) })
      let d := leBytes 1 b ++ leBytes 2 cap
      let a2 := a.hltRecord 2 d
      (if weak.all id then a2.hltRecord 3 d else a2).predict
  let n := capSteps cap
  if ((s3.health.caps.map (fun c => c.warned)).getD b 0) < n then
    (s3.modHealth (fun h => { h with caps := h.caps.modify b (fun c => { c with warned := n }) })).earlyWarn 6 1 (b * 2 ^ 32 + cap / 100)
      (leBytes 4 b ++ leBytes 4 (cap / 100))
  else s3

/-- CAP_TEST_END: the curve of the bank under test gives its capacitance in 0.01 F and its ESR in mΩ. -/
def execCapTestEnd (cap esr : Nat) (s : State) : Host.Outcome State Fault Refusal :=
  match s.health.testing with
  | none => .next s
  | some b =>
    let r := ratedCap b
    let pct := if r = 0 then s.free % 10001 else cap * 10000 / r
    .next (((if r = 0 then s.used else s).capResult b pct esr).startCap.powerEval)

/-! ### The health log (R472-R474) -/

/-- HEALTH_LOG_REWRITE: the sections are written into the anchors' key areas. -/
def execHealthLogRewrite (s : State) : Host.Outcome State Fault Refusal :=
  .next (if s.running .w0 || s.running .w1 then (s.modHealth (fun h => { h with
      log := (List.range 8).map s.section_
      logAt := s.now
      logValid := true })).used else s)

/-- The copy of a section that a wythe's page has latched. -/
def State.logLatch (s : State) (w : Wy) : Bytes :=
  (match w with | .w0 => s.health.latch0 | .w1 => s.health.latch1).getD []

/-- HLT_LOG_SELECT: a write of HLT_LOG_SECTION. -/
def State.selectLog (s : State) (w : Wy) (v : Word) : State :=
  let n := fld v 2 0
  let b := some (s.health.log.getD n [])
  ((s.setReg (.hlt w) HLT_LOG_SECTION (word n)).setReg (.hlt w) HLT_LOG_OFFSET 0).modHealth (fun h => match w with
    | .w0 => { h with latch0 := b }
    | .w1 => { h with latch1 := b })

/-- HLT_LOG_SELECT (R472). -/
def execHltLogSelect (src : AccSrc) (w : Wy) (v : Word) (s : State) : Host.Outcome State Fault Refusal :=
  .next (s.gated src (.hlt w) HLT_LOG_SECTION (fun s => s.selectLog w v))

/-- HLT_LOG_READ: 4 bytes of the latched section; past its end they are zero (R472). -/
def execHltLogRead (src : AccSrc) (w : Wy) (s : State) : Host.Outcome State Fault Refusal :=
  let off := s.rfld (.hlt w) HLT_LOG_OFFSET 19 0
  .next (s.readGate src (.hlt w) HLT_LOG_DATA (ofLe (padTo 4 (sliceBytes (s.logLatch w) off 4))) (fun s =>
    s.setReg (.hlt w) HLT_LOG_OFFSET (word ((off + 4) % 2 ^ 20))))

/-- HLT_GIB_READ: a read of the low half of a volume latches its high half (R474). -/
def execHltGibRead (src : AccSrc) (w : Wy) (media : Bool) (s : State) : Host.Outcome State Fault Refusal :=
  let n := inGib (if media then s.health.mediaBytes else s.health.fragBytes)
  let lo := if media then HLT_MEDIA_GIB_LO else HLT_FRAG_GIB_LO
  let hi := if media then HLT_MEDIA_GIB_HI else HLT_FRAG_GIB_HI
  .next (s.readGate src (.hlt w) lo (n % 2 ^ 32) (fun s => s.setReg (.hlt w) hi (word (n / 2 ^ 32))))

/-- HEALTH_SNAPSHOT (R473). -/
def execHealthSnapshot (s : State) : Host.Outcome State Fault Refusal := .next (if s.plinth.up then s.snapshot else s)

end Sys2Proof.Machine
end

