-- ==== Sys2Proof/Machine/Panel.lean ====
section
/-! DEFINITION. The front panel (R448-R460, R463), removal and the latch, and the SMBus target (R526, R527). -/

namespace Sys2Proof.Machine

/-- MTR_STATUS.WALL_STATE of a wall state (R226). -/
def wallNum : WallSt → Nat
  | .unjoined => 0 | .forming => 1 | .joining => 2 | .member => 3 | .suspect => 4 | .leaving => 5 | .lost => 6

/-! ### The label (R449, R450) -/

/-- What the label says of removal: the state, PULLED UNCLEAN, the reason of a refusal, the return deadline. -/
def State.removalView (s : State) : List Nat :=
  [s.front.removeSt, b2n s.front.unclean, if s.front.removeSt = 3 then s.front.reason else 0, s.front.deadline.getD 0]

/-- The three newest FAULT or CRITICAL entries: code, source, time. -/
def State.newestFaults (s : State) : List Nat :=
  let l := (s.held_.map (fun e => e.2)).filter (fun e => 2 ≤ e.severity)
  let newest := fun (n : Nat) => l.filter (fun e => (l.filter (fun x => e.seq < x.seq)).length = n)
  (newest 0 ++ newest 1 ++ newest 2).flatMap (fun e => [e.code, e.source, e.time])

/-- The content of a page, with the top strip and a calibration or key-store fault (R433, R435, R450). -/
def State.labelView (s : State) (page : Nat) : List Nat :=
  let func := fun c i => ((s.runningHdr c i).map (fun h => h.func)).getD 0
  let strip := [s.wall.brickId.getD 0x8000, s.front.slotA, s.front.slotB, b2n s.plinth.calOk, b2n s.plinth.ksOk, page]
  let body := match page with
    | 0 => s.plinth.opts.assetTag.map (fun b => b.toNat) ++ [s.wall.settings.wallId, s.plinth.opts.enclosure, s.plinth.opts.rack]
    | 1 => [wallNum s.wall.st, s.pwr.ps, s.coverCode, func 1 0, func 4 0, func 4 1]
    | 2 => s.summary.map (fun b => b.toNat)
    | 3 => s.newestFaults
    | _ => []
  s.removalView ++ strip ++ body

/-- The Plinth has the current that the label takes: on USB power alone a contract, or 1.5 A advertised (R422). -/
def State.labelPower (s : State) : Bool := s.plinth.source ≠ 3 || s.plinth.pd || 1500 ≤ s.plinth.advert

/-- A refresh of the shown page begins, if the Plinth has the current for it. -/
def State.startRefresh (s : State) : State :=
  if !s.labelPower then s
  else s.modFront (fun f => { f with
    refreshing := true
    refreshAt := s.now
    shown := s.labelView f.page })

/-- Show a page; one asked for during a refresh is kept until it ends, a single one (R449). -/
def State.showPage (s : State) (n : Option Nat) : State :=
  let s1 := s.modFront (fun f => { f with touchedAt := some s.now })
  if s.front.refreshing then s1.modFront (fun f => { f with kept := some (f.kept.getD n) })
  else (s1.modFront (fun f => { f with page := n.getD ((f.page + 1) % 5) })).startRefresh

/-- The label follows what it shows: a change of removal state turns to page 4 at once, other content at most every 10 s (R450). -/
def State.labelDue (s : State) : State :=
  let old := if s.front.shown = [] then [0, 0, 0, 0] else s.front.shown.take 4
  if !s.plinth.up || s.front.refreshing then s
  else if old ≠ s.removalView then (s.modFront (fun f => { f with page := 4 })).startRefresh
  else if s.front.shown ≠ [] && s.since s.front.refreshAt (sec 10) && s.front.shown ≠ s.labelView s.front.page then s.startRefresh
  else s

/-- The page that the label returns to (R449, R450). -/
def State.returnPage (s : State) : Nat := if s.front.removeSt ≠ 0 || s.front.unclean then 4 else 0

/-- TOUCH. -/
def execTouch (s : State) : Host.Outcome State Fault Refusal :=
  if !s.plinth.up then .next s
  else
    let s1 := s.bump .fpn FPN_CNT_TOUCH
    .next (if s.afld .fpn FPN_CTRL 1 1 = 1 then s1.showPage none else s1)

/-- A write of FPN_LABEL_PAGE. -/
def State.writeLabelPage (s : State) (src : AccSrc) (v : Word) : State :=
  let n := fld v 2 0
  if 4 < n then s.pageError .fpn 1 n (srcNum src) else s.showPage (some n)

/-- LABEL_PAGE_WRITE (R449). -/
def execLabelPageWrite (src : AccSrc) (v : Word) (s : State) : Host.Outcome State Fault Refusal :=
  .next (s.gated src .fpn FPN_LABEL_PAGE (fun s => s.writeLabelPage src v))

/-- LABEL_RETURN: no touch has arrived for LABEL_RETURN seconds. -/
def execLabelReturn (s : State) : Host.Outcome State Fault Refusal :=
  let late := s.front.touchedAt.all (fun t => s.since t (sec (s.afld .fpn FPN_CTRL 23 16)))
  .next (if s.plinth.up && !s.front.refreshing && late && s.front.page ≠ s.returnPage then
      (s.modFront (fun f => { f with page := s.returnPage })).startRefresh
    else s)

/-- LABEL_REFRESH_DONE: a kept touch turns the page. -/
def execLabelRefreshDone (s : State) : Host.Outcome State Fault Refusal :=
  if !s.front.refreshing then .next s
  else
    let s1 := (s.modFront (fun f => { f with
      refreshing := false
      kept := none })).bump .fpn FPN_CNT_LABEL_REFRESH
    .next (match s.front.kept with
      | some n => (s1.modFront (fun f => { f with page := n.getD ((f.page + 1) % 5) })).startRefresh
      | none => s1)

/-- LABEL_REFRESH_INTERVAL: 10 s after the last refresh the shown page follows its content. -/
def execLabelRefreshInterval (s : State) : Host.Outcome State Fault Refusal := .next s.labelDue

/-! ### Locate (R452) -/

/-- Locate starts. -/
def State.startLocate (s : State) : State := s.modFront (fun f => { f with locateAt := some (f.locateAt.getD s.now) })

/-- Set the locate contact of a half. -/
def State.setContact (s : State) (h : Half) (b : Bool) : State :=
  s.modFront (fun f => match h with
    | .a => { f with contactA := b }
    | .b => { f with contactB := b })

/-- LOCATE_ASSERT: the contact of a half has been low for 10 ms; one that has stayed asserted starts nothing. -/
def execLocateAssert (h : Half) (s : State) : Host.Outcome State Fault Refusal :=
  let held := match h with
    | .a => s.front.contactA
    | .b => s.front.contactB
  let s1 := s.setContact h true
  .next (if s.plinth.up && !held then s1.startLocate else s1)

/-- LOCATE_RELEASE. -/
def execLocateRelease (h : Half) (s : State) : Host.Outcome State Fault Refusal := .next (s.setContact h false)

/-- A write of FPN_LOCATE. -/
def State.writeLocate (s : State) (v : Word) : State :=
  let s1 := s.setReg .fpn FPN_LOCATE (word (fld v 0 0))
  if bitOf v 0 then s1.startLocate else s1.modFront (fun f => { f with locateAt := none })

/-- LOCATE_WRITE. -/
def execLocateWrite (src : AccSrc) (v : Word) (s : State) : Host.Outcome State Fault Refusal :=
  .next (s.gated src .fpn FPN_LOCATE (fun s => s.writeLocate v))

/-- LOCATE_TIMEOUT: LOCATE_MIN minutes after it started. -/
def execLocateTimeout (s : State) : Host.Outcome State Fault Refusal :=
  let late := s.front.locateAt.any (fun t => s.since t (sec (60 * s.afld .fpn FPN_CTRL 15 8)))
  .next (if late then s.modFront (fun f => { f with locateAt := none }) else s)

/-! ### Removal on request (R453-R455) -/

/-- REMOVE_STATE changes. -/
def State.setRemove (s : State) (n : Nat) : State :=
  let s1 := s.modFront (fun f => { f with removeSt := n })
  (if s.front.removeSt = n then s1 else s1.event .fpn FPN_EVT_REMOVE_CHANGE).labelDue

/-- The brick tells the armature of a removal, from a wythe that runs. -/
def State.tellRemoval (s : State) (k : RemoveKind) : State :=
  let w := s.leadWy
  if s.running w && s.inWall then s.toArmature w (.removeNotice k) else s

/-- The drain of a removal ends on both wythes. -/
def State.endRemovalDrain (s : State) : State :=
  wythes.foldl (fun s w => s.modRelief w (fun r => { r with drain := if r.drain.any (fun d => !d.activation) then none else r.drain })) s

/-- A removal is requested (R453) by a source numbered as in R535, with a return period or none: a brick that is no member of a wall, or is in
Service, shows SAFE TO REMOVE at once; else the armature is asked. -/
def State.askRemoval (s : State) (source : Nat) (ret : Option Nat) : State :=
  if s.removing || s.wall.st = .leaving || !s.front.latchClosed then s
  else if s.service || (s.wall.st ≠ .member && s.wall.st ≠ .suspect) then s.setRemove 2
  else (s.modFront (fun f => { f with
      asking := some (source, ret)
      reason := 0
      refusedAt := none })).setRemove 1

/-- A cancel (R455): none once the latch has opened. -/
def State.cancelRemoval (s : State) : State :=
  if !s.front.latchClosed || !(s.removing || s.wall.st = .leaving) then s
  else
    let told := s.front.asking.isNone
    let s1 := s.modFront (fun f => { f with
      asking := none
      deadline := none })
    let s2 := ((if told then s1.tellRemoval .cancel else s1).endRemovalDrain).modWall (fun x => { x with removeReady := false })
    (s2.modPlinth (fun p => { p with brickReset := none })).setRemove 0

/-- A write of FPN_REMOVE (R453, R455). -/
def State.writeRemove (s : State) (src : AccSrc) (v : Word) : State :=
  if bitOf v 0 && bitOf v 1 then s.pageError .fpn 2 FPN_REMOVE (srcNum src)
  else if bitOf v 0 then s.askRemoval 2 none
  else if bitOf v 1 then s.cancelRemoval
  else s

/-- REMOVE_REQUEST: a write of FPN_REMOVE. -/
def execRemoveRequest (src : AccSrc) (v : Word) (s : State) : Host.Outcome State Fault Refusal :=
  .next (s.gated src .fpn FPN_REMOVE (fun s => s.writeRemove src v))

/-- REMOVE_CANCEL: a write of FPN_REMOVE. -/
def execRemoveCancel (src : AccSrc) (v : Word) (s : State) : Host.Outcome State Fault Refusal :=
  .next (s.gated src .fpn FPN_REMOVE (fun s => s.writeRemove src v))

/-- The removal is allowed (R205, R454): the notice, and a drain notice on each wythe with DRAIN_AT 1 s later. -/
def State.allowRemoval (s : State) (ret : Option Nat) : State :=
  let kind := match ret with
    | some n => RemoveKind.removeReturn n
    | none => .remove
  let s1 := (s.modFront (fun f => { f with
    asking := none
    deadline := ret.map (fun n => s.plinthTime + n * 1000000 * 4096) })).tellRemoval kind
  ((wythes.filter s1.running).foldl (fun s w => s.announceDrain w false 1000) s1).labelDue

/-- REMOVAL_ALLOWANCE: the armature's answer: reason 0 allows; 1 WALL DEGRADED, with a stripe of margin 1 or less and its margin; 2 NO QUORUM
(R453, R535). -/
def execRemovalAllowance (reason stripe margin : Nat) (s : State) : Host.Outcome State Fault Refusal :=
  match s.front.asking with
  | none => .next s
  | some (source, ret) =>
    if reason = 0 then .next (s.allowRemoval ret)
    else
      let s1 := s.modFront (fun f => { f with
        asking := none
        reason := reason
        refusedAt := some s.now })
      let d := leBytes 1 reason ++ leBytes 1 source ++ zeroBytes 2
        ++ (if reason = 1 then leBytes 8 stripe ++ leBytes 1 margin else zeroBytes 9)
      .next (((s1.record 0 1 0x2301 (pageIdOf .fpn).toNat d).modPlinth (fun p => { p with brickReset := none })).setRemove 3)

/-- A LEAVING brick that holds no roles any more is SAFE TO REMOVE (R205, R454). -/
def State.removeDue (s : State) : State :=
  if s.front.removeSt = 1 && s.front.asking.isNone && s.front.latchClosed && s.wall.st = .leaving && (s.wall.removeReady || s.rolesGone) then
    (s.modWall (fun x => { x with removeReady := true })).setRemove 2
  else s

/-! ### The REQUEST button (R448) -/

/-- REQUEST_PRESS: a press released after `heldMs` milliseconds, before 3 s. -/
def execRequestPress (heldMs : Nat) (s : State) : Host.Outcome State Fault Refusal :=
  if !s.plinth.up || 3000 ≤ heldMs then .next s
  else
    let s1 := (s.bump .fpn FPN_CNT_PRESS).event .fpn FPN_EVT_BUTTON
    .next (if s.afld .fpn FPN_CTRL 0 0 = 0 || 2000 ≤ heldMs then s1
      else if s.front.locateAt.isSome then (s1.modFront (fun f => { f with locateAt := none })).event .fpn FPN_EVT_LOCATE_ACK
      else s1.showPage (some 1))

/-- REQUEST_HOLD: REQUEST has been held for 3 s. -/
def execRequestHold (s : State) : Host.Outcome State Fault Refusal :=
  if !s.plinth.up then .next s
  else
    let s1 := (s.bump .fpn FPN_CNT_HOLD).event .fpn FPN_EVT_BUTTON
    .next (if s.afld .fpn FPN_CTRL 0 0 = 0 then s1
      else if s.removing || s.wall.st = .leaving then s1.cancelRemoval
      else s1.askRemoval 1 none)

/-! ### The latch (R456-R458, R504) -/

/-- An activation under way is abandoned (R457, R504): ABANDONED on its slot; a wythe in its trial is held. -/
def State.latchAbandon (s : State) : State :=
  match s.fw.act with
  | none => s
  | some a =>
    let s1 := ((s.endDrain a.w).stampAll a.comp a.w a.slotB 5 a.seq).fwAbandon
    if a.comp = 4 && a.stage = 3 then ((s1.resetWythe a.w 5).setHeld a.w true).setRel a.w false else s1

/-- The brick stops for good: no new commit step, a last heartbeat with STOPPING (R457). -/
def State.stopNow (s : State) : State := wythes.foldl (fun s w => s.sendHb w) (s.modWall (fun x => { x with stopping := true }))

/-- A set that has stopped all writing gets its CLEAN_STOP, its window image being dropped (R317, R322, R457). -/
def State.cleanStopSet (s : State) (i : Nat) : State :=
  let x := s.set_ i
  let quiet := x.waiting = [] && x.unflushed = [] && x.segs.all (fun g => g.durable)
    && !s.media.jobs.any (fun j => setOf j.req.channel = i)
  if !x.loaded || !s.running (s.setWy i) || cleanSet x then s
  else if x.image.isSome then ((s.dropImage i).flushMap i).settleSet i
  else if x.unflushed ≠ [] then (s.flushMap i).settleSet i
  else if quiet then s.anchorRec i (.cleanStop (((x.segs.getLast?).map (fun g => g.cover)).getD 0))
  else s

/-- A clean stop goes on until every set has ended (R457). -/
def State.cleanStopDue (s : State) : State :=
  if s.wall.stopping && s.front.removeSt = 2 then (s.cleanStopSet 0).cleanStopSet 1 else s

/-- A surprise removal begins (R458); `ew` says that the early-warning contacts broke with the latch reading closed. -/
def State.surprise (s : State) (ew : Bool) : State :=
  let busy := (s.w0.relief.commits ++ s.w1.relief.commits).length
  let d := leBytes 1 (wallNum s.wall.st) ++ leBytes 1 (b2n ew) ++ zeroBytes 2 ++ leBytes 4 busy
  let s1 := (s.modWall (fun x => { x with stopping := true })).tellRemoval (.removeReturn s.wall.settings.lossDelayS)
  let s2 := ((s1.bump .fpn FPN_CNT_SURPRISE).event .fpn FPN_EVT_SURPRISE).record 0 2 0x2302 (pageIdOf .fpn).toNat d
  (s2.modFront (fun f => { f with
    unclean := true
    asking := none })).setRemove 4

/-- The latch opens, or is taken to have opened (R456, R457). -/
def State.latchOpened (s : State) (ew : Bool) : State :=
  let s1 := ((s.bump .fpn FPN_CNT_LATCH_OPEN).latchAbandon).modPlinth (fun p => { p with brickReset := none })
  if s1.service then s1
  else if s1.front.removeSt = 2 then s1.stopNow.cleanStopDue
  else if s1.front.removeSt = 1 || s1.wall.st = .leaving then
    (s1.stopNow.modFront (fun f => { f with
      unclean := true
      asking := none })).labelDue
  else if s1.inWall then s1.surprise ew
  else s1

/-- LATCH_OPEN. -/
def execLatchOpen (s : State) : Host.Outcome State Fault Refusal :=
  let s1 := s.modFront (fun f => { f with latchClosed := false })
  .next (if !s.plinth.up || !s.front.latchClosed then s1 else (s1.event .fpn FPN_EVT_LATCH_CHANGE).latchOpened false)

/-- Wythes that an abandoned activation left held start their old image (R504). -/
def State.resumeHeld (s : State) : State :=
  match s.cover.coverer with
  | some p => if s.heldWy p.peer && s.cover.planned then s.restartWythe p.peer 5 else s
  | none => s

/-- LATCH_CLOSE: before power is lost the brick sends CANCEL, clears STOPPING and resumes (R458). -/
def execLatchClose (s : State) : Host.Outcome State Fault Refusal :=
  let s1 := s.modFront (fun f => { f with latchClosed := true })
  if !s.plinth.up || s.front.latchClosed then .next s1
  else
    let s2 := s1.event .fpn FPN_EVT_LATCH_CHANGE
    .next (if !s.wall.stopping || s.holdup.isSome then s2
      else
        let s3 := ((s2.tellRemoval .cancel).endRemovalDrain).modWall (fun x => { x with
          stopping := false
          removeReady := false })
        ((s3.modFront (fun f => { f with
          unclean := false
          deadline := none })).resumeHeld).setRemove 0)

/-- EARLY_WARNING_BREAK (R456): with the latch reading closed, a latch opening and a FAULT event for the sensor. -/
def execEarlyWarningBreak (s : State) : Host.Outcome State Fault Refusal :=
  let s1 := s.modFront (fun f => { f with early := false })
  .next (if s.plinth.up && s.front.early && s.front.latchClosed then (s1.recordOpen 0 2 .fpn []).latchOpened true else s1)

/-! ### Presence (R459, R526) -/

/-- PRESENCE_MAKE: the presence contacts of both halves are made; SLOT_ID is read. -/
def execPresenceMake (slotA slotB : Nat) (s : State) : Host.Outcome State Fault Refusal :=
  let long := s.front.absentAt.any (fun t => s.since t (sec 1))
  let s1 := s.modFront (fun f => { f with
    presentA := true
    presentB := true
    early := true
    absentAt := none })
  .next (if !s.plinth.up then s1
    else
      let s2 := s1.readSlots slotA slotB
      if long then s2.mated else s2)

/-- PRESENCE_BREAK: the contacts of both halves open. -/
def execPresenceBreak (s : State) : Host.Outcome State Fault Refusal :=
  .next (s.modFront (fun f => { f with
    presentA := false
    presentB := false
    absentAt := some (f.absentAt.getD s.now) }))

/-! ### SMBus (R527) -/

/-- The status block, 32 bytes. -/
def State.smbusBlock (s : State) : Bytes :=
  let id := s.wall.brickId.getD 0x8000
  let wall := if s.running .w0 || s.running .w1 then wallNum s.wall.st else 0xFF
  let hot := ((s.health.temps.filter (fun t => t.seen)).map (fun t => t.cur)).foldl (fun (a : Option Int) t => some (max (a.getD t) t)) none
  padTo 32 (serialBytes ++ leBytes 2 id ++ leBytes 1 wall ++ leBytes 1 s.front.removeSt ++ leInt 2 (hot.getD 0)
    ++ leBytes 1 (b2n s.replaceSet + 2 * b2n s.plinth.recovery + 4 * b2n s.service))

/-- SMBALERT# is asserted when any of bytes 16-22 changes. -/
def State.alertDue (s : State) : State :=
  let b := sliceBytes s.smbusBlock 16 7
  if !s.plinth.up || s.front.alertHeld = b then s
  else s.modFront (fun f => { f with
    alertHeld := b
    alert := f.alert || f.alertHeld ≠ [] })

/-- SMBUS_STATUS_READ: a block read of command 0x00 on a half, while auxiliary power is present. -/
def execSmbusStatusRead (h : Half) (s : State) : Host.Outcome State Fault Refusal :=
  .next (if s.plinth.up && auxIn s.plinth then s.alertDue.emit (.smbus h s.smbusBlock) else s)

/-- SMBUS_ALERT_RESPONSE: a read of the Alert Response Address returns the address and releases SMBALERT#. -/
def execSmbusAlertResponse (h : Half) (s : State) : Host.Outcome State Fault Refusal :=
  .next (if s.plinth.up && auxIn s.plinth then
      (s.alertDue.modFront (fun f => { f with alert := false })).emit (.smbus h [0x4C])
    else s)

end Sys2Proof.Machine
end

