-- ==== Sys2Proof/Machine/Service.lean ====
section
/-! DEFINITION. Service sessions, their tickets and the commands of theirs that no other chapter holds (R205, R461, R462, R485, R490). -/

namespace Sys2Proof.Machine

/-! ### Tickets (R461, R462) -/

/-- Eight hours and one hour in the hybrid format (R8). -/
def hours (n : Nat) : Nat := n * 3600000000 * 4096

/-- The fields of a ticket (R462). -/
def ticketFld (t : Bytes) (off n : Nat) : Nat := ofLe (sliceBytes t off n)

/-- 160 bytes with MAGIC and FORMAT. -/
def isTicket (t : Bytes) : Bool := t.length = 160 && ticketFld t 0 4 = 0x474C5354 && ticketFld t 4 2 = 1

/-- A signature, r then s, verifies to a key that the brick trusts: the service root in the Plinth ROM, or an installed owner authority key, an
uncompressed point of P-384 (R462, log 250). -/
def State.trusts (s : State) (msg sig : Bytes) : Bool :=
  (((List.range 97).map Config.rootKeyByte) :: s.plinth.authorities).any (fun k => ecVerify k msg sig)

/-- The first check of R462 that a ticket fails, as its counter. -/
def State.ticketFault (s : State) (t : Bytes) : Option Nat :=
  let now := s.plinthTime
  let from_ := ticketFld t 24 8
  let until_ := ticketFld t 32 8
  let valid := if s.plinth.uncertain then decide (now < until_)
    else decide (until_ - from_ ≤ hours 8) && decide (from_ ≤ now) && decide (now ≤ until_)
  if !s.trusts (t.take 64) (t.drop 64) then some SVC_CNT_BAD_SIG
  else if sliceBytes t 8 16 ≠ serialBytes then some SVC_CNT_WRONG_BRICK
  else if !valid then some SVC_CNT_EXPIRED
  else if s.plinth.tickets.any (fun e => e.1 = ticketFld t 40 8 && now ≤ e.2) then some SVC_CNT_REPLAY
  else none

/-- A ticket is refused: the session closes. -/
def State.refuseTicket (s : State) (cnt : Option Nat) : State :=
  let s1 := match cnt with
    | some c => s.bump .svc c
    | none => s
  ((s1.bump .plt PLT_CNT_TICKET_REFUSED).event .svc SVC_EVT_TICKET_REFUSED).emit (.sessionEnd s.plinth.nextSession)

/-- A session opens with a ticket's rights, until the ticket ends, or for 1 h at most while the time is uncertain. -/
def State.openSession (s : State) (t : Bytes) : State :=
  let until_ := ticketFld t 32 8
  let end_ := if s.plinth.uncertain then min until_ (s.plinthTime + hours 1) else until_
  let n := s.plinth.nextSession
  let x : Session := { n := n, rights := BitVec.ofNat 16 (ticketFld t 6 2), until_ := end_, ceiling := ticketFld t 48 1 }
  let s1 := s.modPlinth (fun p => { p with
    sessions := p.sessions ++ [x]
    nextSession := n + 1
    tickets := p.tickets.drop (p.tickets.length - 63) ++ [(ticketFld t 40 8, until_)] })
  (((s1.bump .svc SVC_CNT_SESSIONS).bump .plt PLT_CNT_TICKET_OK).event .svc SVC_EVT_SESSION_OPEN).emit (.service n true)

/-- SERVICE_TICKET: the first message of a connection. A fifth connection is refused (R461). -/
def execServiceTicket (ticket : Bytes) (s : State) : Host.Outcome State Fault Refusal :=
  if !s.plinth.up then .next s
  else if 4 ≤ s.plinth.sessions.length then .next (s.emit (.sessionEnd s.plinth.nextSession))
  else if !isTicket ticket then .next (s.refuseTicket none)
  else match s.ticketFault ticket with
    | some c => .next (s.refuseTicket (some c))
    | none => .next (s.openSession ticket)

/-- A session ends (R461). -/
def State.endSession (s : State) (n : Nat) : State :=
  if (s.session n).isNone then s
  else ((s.modPlinth (fun p => { p with sessions := p.sessions.filter (fun x => x.n ≠ n) })).event .svc SVC_EVT_SESSION_END).emit (.sessionEnd n)

/-- SERVICE_SESSION_EXPIRY: a session's ticket has expired. -/
def execServiceSessionExpiry (session : Nat) (s : State) : Host.Outcome State Fault Refusal :=
  .next (if (s.session session).any (fun x => x.until_ < s.plinthTime) then s.endSession session else s)

/-- SERVICE_SESSION_CLOSE. -/
def execServiceSessionClose (session : Nat) (s : State) : Host.Outcome State Fault Refusal := .next (s.endSession session)

/-! ### Commands of a session (R205, R462, R485, R490) -/

/-- REMOVE_RETURN_TICKET (R205, R455): a removal with a return period. -/
def execRemoveReturnTicket (session seconds : Nat) (s : State) : Host.Outcome State Fault Refusal :=
  let ok := decide (60 ≤ seconds) && decide (seconds ≤ 86400) && !s.removing && s.wall.st ≠ .leaving && s.front.latchClosed
  .next (s.command session 2 ok (fun s => s.askRemoval 3 (some seconds)))

/-- AUTHORITY_KEY_INSTALL (R462): SVC_AUTHORITIES holds 8 at most (R464). -/
def execAuthorityKeyInstall (session : Nat) (key : Bytes) (s : State) : Host.Outcome State Fault Refusal :=
  .next (s.command session 7 (decide (s.plinth.authorities.length < 8)) (fun s =>
    s.modPlinth (fun p => { p with authorities := p.authorities ++ [key] })))

/-- The brick reset (R485): the Plinth starts anew, and a start begins on a brick that has power. What the wythes hold is lost as with the
power. -/
def State.resetBrick (s : State) (cal ksA ksB : Bool) : State :=
  let on := s.powered
  let s1 := (s.modPlinth (fun p => { p with brickReset := none })).plinthBoot cal ksA ksB
  if !on then s1
  else
    let s2 := (s1.powerOff.modInput .a (fun _ => s.inA)).modInput .b (fun _ => s.inB)
    (s2.modPlinth (fun p => { p with auxAt := s.plinth.auxAt })).beginStart 2

/-- A brick reset that waits for its removal goes on once REMOVE_READY is set and the brick has stopped cleanly (R485). -/
def State.brickResetDue (s : State) : State :=
  match s.plinth.brickReset with
  | none => s
  | some (cal, ksA, ksB) =>
    let there := [0, 1].filter (fun i => (s.set_ i).loaded && s.running (s.setWy i))
    if s.front.removeSt ≠ 2 then s
    else if !s.wall.stopping then s.stopNow.cleanStopDue
    else if there.all (fun i => cleanSet (s.set_ i)) then s.resetBrick cal ksA ksB
    else s

/-- BRICK_RESET (R485), with the checks of the Plinth's next start: a MEMBER is first removed with return of 600 s; a brick that is no MEMBER
is reset at once, one that is leaving once its removal is done. -/
def execBrickReset (session : Nat) (cal ksA ksB : Bool) (s : State) : Host.Outcome State Fault Refusal :=
  .next (s.command session 5 s.front.latchClosed (fun s =>
    let wait := s.modPlinth (fun p => { p with brickReset := some (cal, ksA, ksB) })
    if s.service then s.resetBrick cal ksA ksB
    else if s.removing && s.inWall || s.wall.st = .leaving then wait
    else if s.wall.st = .member || s.wall.st = .suspect then wait.askRemoval 3 (some 600)
    else s.resetBrick cal ksA ksB))

/-- ROM_RECOVERY_ENTER (R490), by a session with the FIRMWARE right. -/
def execRomRecoveryEnter (session : Nat) (s : State) : Host.Outcome State Fault Refusal :=
  .next (s.command session 1 (!s.plinth.recovery) State.enterRecovery)

/-- RECOVERY_START (R490): the mode is left and the count set to zero; a brick with 12 V starts. -/
def execRecoveryStart (session : Nat) (s : State) : Host.Outcome State Fault Refusal :=
  .next (s.command session 1 s.plinth.recovery (fun s =>
    let s1 := s.modPlinth (fun p => { p with
      recovery := false
      failStarts := 0 })
    if s.service || s.holdup.isSome || !(s.inA.on || s.inB.on) then s1 else s1.beginStart 2))

end Sys2Proof.Machine
end

