-- ==== Sys2Proof/Machine/Views.lean ====
section
/-! DEFINITION. What a read of a register returns (R9, R401, R408): the registers that show the brick's state are computed from it; every
other register returns the word it holds. -/

namespace Sys2Proof.Machine

/-- Fields of a word: value and lowest bit of each. -/
def pack (l : List (Nat × Nat)) : Nat := l.foldl (fun a e => a + e.1 * 2 ^ e.2) 0

/-- The low half of a 64-bit value. -/
def lo32 (n : Nat) : Nat := n % 2 ^ 32

/-- The high half of a 64-bit value. -/
def hi32 (n : Nat) : Nat := n / 2 ^ 32 % 2 ^ 32

/-- A bit for each number below a bound that satisfies a condition. -/
def mask_ (n : Nat) (f : Nat → Bool) : Nat := pack ((List.range n).map (fun i => (b2n (f i), i)))

/-- A little-endian field of the calibration row (R433). -/
def calLe (at_ n : Nat) : Nat := ofLe ((List.range n).map (fun i => Config.calByte (at_ + i)))

/-- A free value of `w` bits: what the brick measures and the spec does not give. -/
def State.freeBits (s : State) (w : Nat) : Nat := s.free % 2 ^ w

/-! ### Relief and the ports -/

/-- RLF_QUEUE_INFO.STATE (R111): a queue of a draining wythe DRAINS from DRAIN_AT. -/
def queueNum (r : Relief) (x : Queue) : Nat :=
  match x.st with
  | .opened => if r.drain.any (fun d => d.reached) then 3 else 1
  | .resetting => 2
  | .closing => 4
  | .stopped => 5

/-- The RLF page (R111). -/
def State.viewRlf (s : State) (w : Wy) (off : Nat) : Option Nat :=
  let r := (s.wy w).relief
  let sel := s.rfld (.rlf w) RLF_QUEUE_SEL 10 0
  let tags := (r.cmds.filter (fun c => c.q = sel && c.holdsTag)).map (fun c => c.cap.tagByte.toNat)
  let isPcie := fun x : Queue => match x.transport with | .pcie _ => true | .roce _ _ => false
  if off = RLF_QUEUES then some (pack [(r.queues.length, 0), ((r.queues.filter isPcie).length, 16)])
  else if off = RLF_TAGS_BUSY then some (r.cmds.filter Cmd.holdsTag).length
  else if off = RLF_ADMIT_WAITING then some (r.cmds.filter (fun c => c.phase = .waiting)).length
  else if off = RLF_INGEST_FREE then some ((s.budget w .write - windowsHeld r .write) / 2 ^ 20)
  else if off = RLF_EGRESS_FREE then some ((s.budget w .read - windowsHeld r .read) / 2 ^ 20)
  else if off = RLF_OUTCOME_RETAIN then some s.wall.settings.retainS
  else if off = RLF_QUEUE_INFO then some (match r.queue sel with
    | none => 0
    | some x => pack [(x.epoch.toNat, 0), (tags.length, 16), (queueNum r x, 22), (b2n (isPcie x), 25), (b2n x.helloDone, 26), (b2n (x.mask ≠ 0), 27)])
  else if off = RLF_QUEUE_TAGS then some (mask_ 32 tags.contains)
  else none

/-- The MAC page of a port (R370, R372, R393). A port that is absent has no mode. -/
def State.viewMac (s : State) (w : Wy) (n : Nat) (off : Nat) : Option Nat :=
  let p := s.port w n
  let mode := (s.wy w).portMode
  let lanes := if mode = 1 then 2 else 4
  let there := (mode = 1 && n < 4) || (mode = 2 && n < 2)
  let mac := ofBe ((List.range 6).map (fun i => Config.calByte (32 + i))) + (4 * w.num + n)
  if off = MAC_STATUS then some (pack [(b2n p.linkUp, 0), (b2n p.linkUp, 1), (b2n p.trained, 2), (b2n p.linkUp, 3), (b2n p.agreed, 4), (b2n p.lpiTx, 5),
    (b2n p.lpiRx, 6), (mask_ 8 (fun k => p.paused.any (fun e => e.1 = k && s.now < e.2.1)), 7)])
  else if off = MAC_MODE then some (if there then pack [(mode, 0), (n * lanes, 8), (lanes, 12)] else 0)
  else if off = MAC_ADDR_LO then some (lo32 mac)
  else if off = MAC_ADDR_HI then some (hi32 mac)
  else if off = MAC_LPI_STATE then some (if p.agreed then pack [(p.twTx, 0), (p.twRx, 16)] else 0)
  else none

/-- The PTP page (R391, R394). -/
def State.viewPtp (s : State) (w : Wy) (off : Nat) : Option Nat :=
  if off = PTP_TIME_NS then some (s.ptpNs w % 1000000000)
  else if off = PTP_TSQ_LEVEL then some (pack ((List.range 4).map (fun n => ((s.port w n).stamps.length, 8 * n))))
  else if 0x128 ≤ off && off ≤ 0x134 then some (calLe (40 + 16 * w.num + (off - 0x128)) 4)
  else none

/-! ### Crypt, wall, buffers -/

/-- The CIP page (R189). -/
def State.viewCip (s : State) (w : Wy) (off : Nat) : Option Nat :=
  let k := (s.wy w).cip
  let ks := s.reg (.cip w) CIP_SLOT_SEL_KS
  let ver := s.rfld (.cip w) CIP_SLOT_SEL_VER 15 0
  let slot := slotOf k ks ver
  let pinned := fun (a : BitVec 32) (v : Nat) => k.jobs.any (fun j => inContext j && j.keyspace = a && j.ver = v)
  if off = CIP_STATUS then some (pack [(b2n k.domainValid, 0), (b2n k.kekLoaded, 1), (b2n (k.slots.any (fun x => x.resvAt.isSome)), 2),
    (b2n (k.slots.any (fun x => x.locked)), 3)])
  else if off = CIP_IV_DOMAIN then some (pack [(k.domain.toNat, 0), (b2n k.substitute, 16)])
  else if off = CIP_KEY_CACHE then some (pack [(k.cache.length, 0), ((k.cache.filter (fun e => pinned e.keyspace e.ver)).length, 16)])
  else if off = CIP_SLOT_INFO then some (match slot with
    | none => 0
    | some x => pack [(slotNum x.st, 0), (b2n (cachedKey k ks ver).isSome, 2), (b2n (pinned ks ver), 3), (b2n x.locked, 4), (b2n (decide (2 ^ 62 < x.next)), 5)])
  else if off = CIP_CTR_NEXT_LO then some (lo32 ((slot.map (fun x => x.next)).getD 0))
  else if off = CIP_CTR_NEXT_HI then some (hi32 ((slot.map (fun x => x.next)).getD 0))
  else if off = CIP_RESV_THRU_LO then some (lo32 ((slot.map (fun x => x.thru)).getD 0))
  else if off = CIP_RESV_THRU_HI then some (hi32 ((slot.map (fun x => x.thru)).getD 0))
  else if off = CIP_SLOTS_CURRENT then some (k.slots.filter (fun x => x.st = .current)).length
  else if off = CIP_SLOTS_TOTAL then some (k.slots.filter (fun x => x.st ≠ .retired)).length
  else if off = CIP_CTX_BUSY then some (k.jobs.filter inContext).length
  else none

/-- MTR_PTP_STATE.[1:0] (R226). -/
def ptpNum : PtpRole → Nat
  | .noMaster => 0 | .slave => 1 | .master => 2 | .holdover => 3

/-- The MTR page (R226). -/
def State.viewMtr (s : State) (w : Wy) (off : Nat) : Option Nat :=
  let y := s.wall
  let m := (s.wy w).mortar
  let id := fun o : Option Nat => o.getD 0x8000
  let offs := satBits 16 ((s.clockSum w + 999) / 1000)
  if off = MTR_STATUS then some (pack [(wallNum y.st, 0), (b2n (y.arm.role ≠ .none), 3), (b2n (y.arm.role = .leader), 4),
    (b2n (decide (s.now < y.leaseUntil)), 5), (b2n y.removeReady, 6), (b2n y.opened, 7)])
  else if off = MTR_BRICK_ID then some (id y.brickId)
  else if off = MTR_MEMB_EPOCH then some (lo32 y.epoch)
  else if off = MTR_MAP_VERSION then some (lo32 s.store.map.version)
  else if off = MTR_BOND_VERSION then some (lo32 y.bond.version)
  else if off = MTR_CAST_REG_VERSION then some (lo32 y.castVersion)
  else if off = MTR_WALL_ID_LO then some (lo32 y.settings.wallId)
  else if off = MTR_WALL_ID_HI then some (hi32 y.settings.wallId)
  else if off = MTR_UDP_PORT then some y.settings.udpPort
  else if off = MTR_LOSS_DELAY then some y.settings.lossDelayS
  else if off = MTR_ARM_TERM then some (lo32 y.arm.term)
  else if off = MTR_ARM_LEADER then some (id y.arm.leader)
  else if off = MTR_LEASE_LEFT then some (satBits 19 ((y.leaseUntil - s.now) / 1000))
  else if off = MTR_WALL_CLOSED_LO then some (lo32 y.wallClosed)
  else if off = MTR_WALL_CLOSED_HI then some (hi32 y.wallClosed)
  else if off = MTR_FLOWS then some (m.flows.filter (fun f => !f.broken)).length
  else if off = MTR_PTP_STATE then some (pack [(ptpNum m.ptpRole, 0), (b2n (s.wy w).clk.inSync, 2), (m.ptpPort, 8), (offs, 16)])
  else none

/-- The BPM page (R369). -/
def State.viewBpm (s : State) (w : Wy) (off : Nat) : Option Nat :=
  let free := fun n => (s.pool w n).free
  let b := bufOf (s.pool w (s.rfld (.bpm w) BPM_BUF_SEL 2 0)) (s.rfld (.bpm w) BPM_BUF_IDX 23 0)
  let n := (off - 0x140) / 16
  if off = BPM_STATUS then some (pack [(mask_ 6 (fun n => decide (free n ≤ s.reserveOf w n)), 0),
    (mask_ 6 (fun n => decide (free n < s.reserveOf w n)), 8), (b2n (s.wy w).bpm.ready, 16)])
  else if off = BPM_RR_PTR then some s.rrPtr
  else if off = BPM_WAITING then some (s.queuedBufs w)
  else if off = BPM_BUF_INFO then some (pack [(b.gen, 0), (b.st, 5), (b.owner, 8), (b.count, 16)])
  else if 0x140 ≤ off && off < 0x1A0 then
    (match (off - 0x140) % 16 with
    | 0 => some (s.pool w n).count
    | 4 => some (free n)
    | 12 => some (lowOf (s.pool w n))
    | _ => none)
  else none

/-! ### Media -/

/-- The bytes of an SLC-mode block: a quarter of a QLC block's 64 MiB (R279). -/
def slcBlockBytes : Nat := 16777216

/-- A closed round that waits for tokens: programmed on no die yet. -/
def State.roundWaits (s : State) (i : Nat) (b : SuperBlk) (r : Round) : Bool :=
  r.st = .programming && (s.media.jobs.filter (fun j => j.what = .round i b.id r.seq)).all (fun j => j.st = .queued || j.st = .held)

/-- The MED page (R310). The anchor journal chain's blocks are not modelled as blocks: their number is a free value. -/
def State.viewMed (s : State) (w : Wy) (off : Nat) : Option Nat :=
  let own := s.set_ w.num
  let mine := s.setsOf w
  let sbs := mine.flatMap (fun i => (s.set_ i).sbs.map (fun b => (i, b)))
  let open_ := fun q => (sbs.filter (fun e => !e.2.closed && e.2.qlc = q)).length
  let gib := fun n => satBits 16 (n * slcBlockBytes / 2 ^ 30)
  let sum := fun f : Nat → Nat => mine.foldl (fun a i => a + f i) 0
  if off = MED_STATUS then some ((s.reg (.med w) MED_STATUS).toNat / 4 * 4 + mask_ 2 mine.contains)
  else if off = MED_WYTHE_TOKENS then some (s.nandBudget w / 2 * (if s.cover.coverer = some w then 2 else 1))
  else if off = MED_PANEL_FREE01 then some (pack [(s.panelFree w 0, 0), (s.panelFree w 1, 16)])
  else if off = MED_PANEL_FREE23 then some (pack [(s.panelFree w 2, 0), (s.panelFree w 3, 16)])
  else if off = MED_SLC_SHARE then some (pack [(own.share, 0), (own.share * 8192 / 1000, 16)])
  else if off = MED_SLC_FILL then
    some (pack [(gib (sum (fun i => s.slcLimit i - slcUsed (s.set_ i))), 0), (gib (sum (fun i => slcUsed (s.set_ i))), 16)])
  else if off = MED_SEQ0_LO then some (lo32 s.media.set0.seqNext)
  else if off = MED_SEQ0_HI then some (hi32 s.media.set0.seqNext)
  else if off = MED_SEQ1_LO then some (lo32 s.media.set1.seqNext)
  else if off = MED_SEQ1_HI then some (hi32 s.media.set1.seqNext)
  else if off = MED_OPEN then
    some (pack [(open_ false, 0), (open_ true, 8), ((sbs.flatMap (fun e => e.2.rounds.filter (fun r => s.roundWaits e.1 e.2 r))).length, 16)])
  else if off = MED_ANCHOR_STATUS then some (pack [(b2n own.copyA, 0), (b2n own.copyB, 1), (own.spareAnchor, 2), (s.freeBits 24, 8)])
  else if off = MED_DUMP_STATUS then some (pack [(own.dumpMiB, 0), (b2n own.dumpWhole, 16), (b2n own.restored, 17)])
  else none

/-- CHN_DIE_STATUS.ACTIVITY (R356). -/
def State.dieActivity (s : State) (d : Nat) : Nat :=
  let on := s.media.jobs.filter (fun j => reqDie j.req = d && (j.st = .running || j.st = .inSuspension || j.st = .suspended))
  if (s.die d).hung then 5
  else match on.find? (fun j => j.st = .running || j.st = .inSuspension) with
    | some j => if isProgram j.routine then 2 else if j.routine = .erase then 3 else 1
    | none => if on = [] then 0 else 4

/-- The CHN page as a wythe reads it: the registers of a channel that it does not drive read zero, but CHN_OWNER (R356). -/
def State.viewChn (s : State) (w : Wy) (c off : Nat) : Option Nat :=
  let x := s.chan c
  let d := c * 32 + s.rfld (chnPage c) CHN_DIE_SEL 4 0
  let jobs := s.media.jobs.filter (fun j => j.req.channel = c)
  let waits := jobs.filter (fun j => j.st = .queued || j.st = .held)
  let susp := (jobs.filter (fun j => reqDie j.req = d && (j.st = .running || j.st = .suspended))).map (fun j => j.suspends)
  if off = CHN_OWNER then some (s.chnOwner w c)
  else if off < 0x100 then none
  else if x.owner ≠ some w then some 0
  else if off = CHN_STATE then some (pack [(b2n x.degraded, 0), (b2n x.trained, 1), (x.answering, 8),
    (((List.range 32).filter (fun n => (s.die (c * 32 + n)).hung)).length, 16)])
  else if off = CHN_DIE_STATUS then some (pack [(s.dieActivity d, 0), (susp.foldl max 0, 8), (ofSigned 16 (s.die d).temp, 16)])
  else if off = CHN_QUEUE then some (pack [(waits.length, 0), (jobs.length - waits.length, 16)])
  else none

/-- The tile states of a course: slots ONLINE, BYPASSED and FAILED (R357). -/
def State.tilesView (s : State) (w : Wy) (c : Nat) : Nat :=
  let is := fun (u : UnitSt) => mask_ 8 (fun k => s.unit (.til w (Fin.ofNat 128 (c * 8 + k))) = u)
  pack [(is .online, 0), (is .bypassed, 8), (is .failed, 16)]

/-- The CRS page (R357, R517). In a compute course the media registers read zero, and in a media course the compute registers. -/
def State.viewCrs (s : State) (w : Wy) (c off : Nat) : Option Nat :=
  let chan := fun k => c / 4 * 8 + k
  let homes := fun k => 32 * w.num + chan k
  let others := fun k => 32 * w.peer.num + chan k
  if off = CRS_KIND then some (b2n (isMediaCourse c))
  else if isMediaCourse c then
    (if off = CRS_TILES then some (s.tilesView w c)
    else if off = CRS_MEDIA_MAP then some (pack [(mask_ 8 (fun k => (s.chan (homes k)).owner = some w), 0),
      (mask_ 8 (fun k => (s.chan (others k)).owner = some w), 8), (mask_ 8 (fun k => (s.chan (homes k)).mode = .lent), 16)])
    else if off = CRS_CHISEL_OUT then some (s.media.jobs.filter (fun j => j.w = w && (mediaCourse j.req.channel).val = c)).length
    else if 0x140 ≤ off && off ≤ 0x154 then some 0 else none)
  else if off = CRS_C_TILES then some (s.tilesView w c)
  else if off = CRS_C_QUEUE then some (s.courseQueue w (Fin.ofNat 16 c))
  else if 0x104 ≤ off && off ≤ 0x138 then some 0
  else none

/-- The TIL page (R517). -/
def State.viewTil (s : State) (w : Wy) (t off : Nat) : Option Nat :=
  if off = TIL_LAST_FAULT then some (match s.tileFaults.find? (fun e => e.1 = w && e.2.1 = t) with
    | some e => pack [(s.rfld (.til w (Fin.ofNat 128 t)) TIL_LAST_FAULT 1 0, 0), (satBits 16 ((s.now - e.2.2) / 1000000000), 16)]
    | none => 0)
  else none

/-- The PNL page (R517): the grout slice is in order unless the panel is FAILED. -/
def State.viewPnl (s : State) (w : Wy) (n off : Nat) : Option Nat :=
  if off = PNL_STATUS then some (pack [(mask_ 4 (fun k => s.unit (.crs w (Fin.ofNat 16 (n * 4 + k))) = .online), 0),
    (b2n (s.unit (.pnl w (Fin.ofNat 4 n)) ≠ .failed), 4),
    (b2n ((List.range 8).any (fun k => (s.chan (32 * w.num + n * 8 + k)).mode = .lent)), 5)])
  else if off = PNL_TOKENS then some (s.panelShare w n)
  else none

/-! ### The endpoint, power, reset, clocks, tie, tests -/

/-- The BAR0 pages of a wythe in rising order: its own, the channels', the Plinth's. -/
def barPages (w : Wy) : List Page :=
  [.glb w, .pwr w, .clk w, .rst w, .tie w, .hlt w, .tst w, .fwu w, .cip w, .bpm w, .med w, .mtr w, .rlf w, .rdm w, .ptp w]
    ++ (List.range 4).map (fun n => Page.mac w (Fin.ofNat 4 n)) ++ (List.range 4).map (fun n => Page.pnl w (Fin.ofNat 4 n))
    ++ (List.range 16).map (fun n => Page.crs w (Fin.ofNat 16 n)) ++ (List.range 128).map (fun n => Page.til w (Fin.ofNat 128 n))
    ++ (List.range 64).map (fun n => Page.chn (Fin.ofNat 64 n)) ++ [.plt, .pfl, .evr, .fpn, .svc]

/-- GLB_EVT_SUMMARY (R408). -/
def State.evtSummary (s : State) (w : Wy) : Nat :=
  let l := (barPages w).filter s.pagePending
  mask_ 32 (fun c => l.any (fun p => if isPlinthPage p then c = 0 else pageBlock p = c))

/-- The GLB page (R408, R417). -/
def State.viewGlb (s : State) (w : Wy) (off : Nat) : Option Nat :=
  let e := (s.wy w).pcie
  if off = GLB_WYTHE then some (pack [(w.num, 0), (b2n (s.running w.peer), 1), (s.coverCode, 2), (b2n (s.plinthOk w), 4),
    (b2n (s.cover.tieUp && !s.since (s.lastHb w) (ms 1)), 5)])
  else if 0x108 ≤ off && off ≤ 0x114 then some (calLe (8 + (off - 0x108)) 4)
  else if off = GLB_START then some (s.wy w).start.step
  else if off = GLB_HLC_LO then some (lo32 (s.hybrid w))
  else if off = GLB_EVT_SUMMARY then some (s.evtSummary w)
  else if off = GLB_EVT_FIRST then some (match (barPages w).find? s.pagePending with
    | some p => pageBase p / 4096 * 4096 + 1
    | none => 0)
  else if off = GLB_PCIE_STATUS then some (pack [(e.speed, 0), (e.width, 4), (b2n e.bme, 9), (b2n e.d3hot, 10),
    ((e.pages.filter (fun p => p.st ≠ .free)).length, 16)])
  else none

/-- The course domains that a wythe keeps on (R35, R479). -/
def State.courseOn (s : State) (w : Wy) (c : Nat) : Bool :=
  let u := s.unit (.crs w (Fin.ofNat 16 c))
  let byState := if isMediaCourse c then true else if c % 4 = 0 then s.pwr.ps < 3 || c = 0 else s.pwr.ps < 2
  s.released w && byState && u ≠ .bypassed && u ≠ .failed

/-- The PWR page (R418, R467, R475, R479). Currents and the brick's draw are measured: free values. -/
def State.viewPwr (s : State) (w : Wy) (off : Nat) : Option Nat :=
  let i := match w with | .w0 => s.inA | .w1 => s.inB
  let on := b2n (s.released w)
  let cap := s.health.caps[w.num]?
  if off = PWR_STATE then some (pack [(s.pwr.ps, 0), (b2n s.pwr.waking, 2)])
  else if off = PWR_IDLE_NOW then some (satBits 32 (s.idleNs / 1000000))
  else if off = PWR_DOMAINS then some (pack [(mask_ 16 (s.courseOn w), 0), (3 * on, 16), (on, 18), (on + 2 * b2n (s.released w && s.pwr.ps < 2), 19),
    (on, 21), (15 * on, 22)])
  else if off = PWR_BRICK_DOMAINS then some (if s.released .w0 || s.released .w1 then 0xFFF else 0)
  else if off = PWR_INPUT then some (pack [(satBits 16 i.mv, 0), (s.freeBits 16, 16)])
  else if off = PWR_BRICK_POWER then some (s.freeBits 16)
  else if off = PWR_HOLDUP then some (pack [(capEnergy ((cap.map capNow).getD 0), 0), (b2n (cap.any (fun c => c.charged)), 16),
    (b2n (s.health.testing = some w.num), 17)])
  else none

/-- The RST page (R28, R419). -/
def State.viewRst (s : State) (w : Wy) (off : Nat) : Option Nat :=
  if off = RST_CROSS then some (pack [(b2n (s.heldWy w.peer), 0), (b2n (!s.running w.peer), 1)])
  else if off = RST_CNT_WYTHE then some (match w with | .w0 => s.plinth.cnt0 | .w1 => s.plinth.cnt1)
  else none

/-- The CLK page (R479, R491): which idle courses are gated is a free value among those that are on; from PS1 on the compute courses are. -/
def State.viewClk (s : State) (w : Wy) (off : Nat) : Option Nat :=
  if off = CLK_GATED then some (mask_ 16 (fun c => s.courseOn w c && ((1 ≤ s.pwr.ps && !isMediaCourse c && (s.pwr.ps < 3 || c ≠ 0))
    || (s.free / 2 ^ c) % 2 = 1)))
  else none

/-- The TIE page (R492). Mirror writes that await the peer and retried flits are free values or not counted (R20). -/
def State.viewTie (s : State) (w : Wy) (off : Nat) : Option Nat :=
  let sync := if s.cover.handingBack then 4 else if s.cover.coverer = some w then 3
    else if s.running w && s.running w.peer && s.cover.coverer.isNone then 2
    else if s.running w && (s.wy w).start.step = 10 then 1 else 0
  if off = TIE_STATUS then some (pack [(b2n s.cover.tieUp, 0), (b2n (s.cover.tieUp && !s.since (s.lastHb w) (ms 1)), 1),
    (s.rfld (.tie w) TIE_STATUS 2 2, 2), (b2n (s.cover.tieUp && s.cover.lanes = 8), 3), (if s.cover.tieUp then s.cover.lanes else 0, 16)])
  else if off = TIE_HB_AGE then some (satBits 16 ((s.now - s.lastHb w) / 1000))
  else if off = TIE_MIRROR_LAG then some (if s.running w.peer && s.cover.coverer.isNone then s.freeBits 20 else 0)
  else if off = TIE_SYNC_STATE then some sync
  else none

/-- The TST page (R518). -/
def State.viewTst (s : State) (w : Wy) (off : Nat) : Option Nat :=
  if off = TST_DRAM_MARKED then some (mask_ 16 (fun c => s.plinth.marks.contains (w, c)))
  else if off = TST_ACTIVE then some (pack [(s.testing (tileOrCourse w), 0), (b2n (decide (0 < s.testing isPanel)), 8)])
  else none

/-- The HLT page (R474). -/
def State.viewHlt (s : State) (w : Wy) (off : Nat) : Option Nat :=
  let h := s.health
  let t := s.temp (s.rfld (.hlt w) HLT_TEMP_SEL 4 0)
  let cap := fun b => pack [((h.caps[b]?.map capNow).getD 0, 0), ((h.caps[b]?.bind (fun c => c.tests.getLast?.map (fun t => t.esr))).getD 0, 16)]
  let log := s.logLatch w
  if off = HLT_STATUS then some (pack [(b2n h.logValid, 0), (b2n h.testing.isSome, 1), (b2n s.replaceSet, 2), (h.eolFactor, 3)])
  else if off = HLT_WEAR then some s.wearUsed
  else if off = HLT_SPARE then some (pack [(s.fewest.1, 0), (s.fewest.2, 16)])
  else if off = HLT_EOL then some h.eolDay
  else if off = HLT_TEMP then some (pack [(ofSigned 16 t.cur, 0), (ofSigned 16 t.high, 16)])
  else if off = HLT_CAP0 then some (cap 0)
  else if off = HLT_CAP1 then some (cap 1)
  else if off = HLT_AGE then some (ofSigned 20 ((h.ages[s.rfld (.hlt w) HLT_AGE_SEL 3 0]?.map (fun a => a.shift)).getD 0))
  else if off = HLT_FRAG_GIB_LO then some (lo32 (inGib h.fragBytes))
  else if off = HLT_MEDIA_GIB_LO then some (lo32 (inGib h.mediaBytes))
  else if off = HLT_LOG_DATA then some (ofLe (padTo 4 (sliceBytes log (s.rfld (.hlt w) HLT_LOG_OFFSET 19 0) 4)))
  else if off = HLT_LOG_LEN then some log.length
  else none

/-- The FWU page (R498, R500, R509). -/
def State.viewFwu (s : State) (w : Wy) (off : Nat) : Option Nat :=
  let comp := s.rfld (.fwu w) FWU_SLOT_SEL 3 0
  let set := if comp = 1 then 0 else w.num
  let b := decide (s.rfld (.fwu w) FWU_SLOT_SEL 9 8 % 2 = 1)
  let slot := s.fwSlot comp set b
  let hdr := slot.bind (fun x => x.hdr)
  if off = FWU_STATUS then some (match s.fw.act with
    | some a => pack [(a.stage, 0), (a.comp, 4), (a.w.num, 8)]
    | none => 0)
  else if off = FWU_SLOT_INFO then some (match slot with
    | some x => pack [(slotSt x, 0), (b2n (x.hdr.isSome && s.runsB comp set = b), 3), (b2n x.auth, 4), (slotSeq x % 2 ^ 24, 8)]
    | none => 0)
  else if off = FWU_SLOT_VERSION then some ((hdr.map (fun h => h.func)).getD 0)
  else if off = FWU_SLOT_LEVEL then some ((hdr.map (fun h => pack [(h.compat, 0), (h.security, 16)])).getD 0)
  else if off = FWU_COUNTER then some (if 1 ≤ comp && comp ≤ 5 then s.counter (counterOf comp) else 0)
  else if off = FWU_WALL_LEVELS then some ((s.wallLevels.map (fun l => pack [(l.1, 0), (l.2, 16)])).getD 0)
  else none

/-! ### The Plinth's pages -/

/-- PLT (R422, R435, R445). -/
def State.viewPlt (s : State) (off : Nat) : Option Nat :=
  let p := s.plinth
  let hdr := s.runningHdr 1 0
  let other := (s.fwSlot 1 0 (!p.slotB)).any s.usableSlot
  let keys := s.keys
  if off = PLT_STATUS then some (pack [(p.source, 0), (b2n s.service, 2), (b2n p.optsOk, 3), (b2n p.ksOk, 4), (b2n p.calOk, 5),
    (b2n (keys.any (fun k => k.pendGen ≠ 0)), 6), (b2n p.recovery, 7), (b2n (s.released .w0), 8), (b2n (s.released .w1), 9)])
  else if off = PLT_FW_VERSION then some ((hdr.map (fun h => h.func)).getD 0)
  else if off = PLT_FW_LEVEL then some ((hdr.map (fun h => pack [(h.compat, 0), (h.security, 16)])).getD 0)
  else if off = PLT_SLOT then some (pack [(b2n p.slotB, 0), (b2n other, 1), (b2n p.fallback, 2)])
  else if off = PLT_UPTIME then some (satBits 32 ((s.now - p.resetAt) / 1000000000))
  else if off = PLT_TIME_LO then some (lo32 s.plinthTime)
  else if off = PLT_AUX then some (pack [(satBits 16 p.auxA, 0), (satBits 16 p.auxB, 16)])
  else if off = PLT_USB then some (pack [(satBits 16 p.vbus, 0), (b2n p.pd, 16), (b2n p.usbData, 17)])
  else if off = PLT_KS_GEN then some ((keys.map (fun k => k.gen)).getD 0)
  else if off = PLT_TEMP then some (ofSigned 16 (s.temp 31).cur)
  else if off = PLT_LINK then some (pack [(b2n (s.running .w0 && s.plinthOk .w0), 0), (b2n (s.running .w1 && s.plinthOk .w1), 1)])
  else none

/-- PFL in a source's bank (R446). What suspends an erase runs whole within its command, so ERASE_SUSPENDED is never seen. -/
def State.viewPfl (s : State) (bank off : Nat) : Option Nat :=
  let b := s.bank bank
  let busy := s.flash.waiting.any (fun x => x.by_ = .bank bank) || s.flash.erase.any (fun e => e.by_ = .bank bank)
  let e := s.flash.erase
  if off = PFL_STATUS then some (pack [(b2n busy, 0), (b2n e.isSome, 1), ((e.map (fun e => e.suspends)).getD 0, 3)])
  else if off = PFL_ADDR then some b.addr
  else if off = PFL_RESULT then some b.result.toNat
  else if 0x110 ≤ off && off ≤ 0x12C then some (ofLe (sliceBytes b.data (off - 0x110) 4))
  else if off = PFL_COUNTER then some (s.counter (s.rfld .pfl PFL_COUNTER_SEL 2 0))
  else if off = PFL_SECTORS_BAD then some s.flash.bad.length
  else none

/-- EVR in a source's bank (R443, R447). -/
def State.viewEvr (s : State) (bank off : Nat) : Option Nat :=
  let b := s.bank bank
  let l := s.held_.map (fun e => e.2)
  let first := (l.map (fun e => e.seq)).foldl (fun (a : Option Nat) n => some (min (a.getD n) n)) none
  if off = EVR_STATUS then some (pack [(b2n b.atEnd, 0), (b2n s.recorder.full, 1), (b2n s.recorder.clearing.isSome, 2), (b2n (s.recorder.queue ≠ []), 3)])
  else if off = EVR_COUNT then some l.length
  else if off = EVR_CURSOR_LO then some (lo32 b.cursor)
  else if off = EVR_CURSOR_HI then some (hi32 b.cursor)
  else if off = EVR_FIRST_LO then some (lo32 (first.getD 0))
  else if off = EVR_FIRST_HI then some (hi32 (first.getD 0))
  else if off = EVR_NEXT_LO then some (lo32 s.recorder.nextSeq)
  else if off = EVR_NEXT_HI then some (hi32 s.recorder.nextSeq)
  else if 0x124 ≤ off && off ≤ 0x130 then some (l.filter (fun e => e.severity = (off - 0x124) / 4)).length
  else if 0x140 ≤ off && off ≤ 0x17C then some (ofLe (sliceBytes (b.latch.getD []) (off - 0x140) 4))
  else none

/-- The light bar's pattern, highest first (R451): 0 off, 1-10 in the table's order. A brick with no wall identity shows starting (R460). -/
def State.light (s : State) : Nat :=
  let f := s.front
  let p := s.plinth
  let crit := s.held_.any (fun e => e.2.severity = 3 && !s.recorder.acked.contains e.2.seq)
  let starting := [Wy.w0, Wy.w1].any (fun w => s.released w && ((s.wy w).start.step < 13 || !s.wall.identity)) || s.wall.st = .joining
    || s.wall.st = .forming
  let diesGone := s.media.dies.any (fun e => e.2.goneAt.any (fun t => !s.since t (sec 86400)))
  let degraded := s.cover.coverer.isSome || s.media.chans.any (fun e => e.2.degraded) || diesGone
    || [0, 1].any (fun i => let x := s.set_ i; x.copyA ≠ x.copyB)
  if f.removeSt = 2 then 1
  else if f.refusedAt.any (fun t => !s.since t (ms 750)) then 2
  else if f.removeSt = 1 then 3
  else if s.replaceSet || crit || (p.up && (!p.calOk || !p.ksOk)) then 4
  else if p.recovery then 5
  else if starting then 6
  else if degraded then 7
  else if s.wall.st = .member && ([Wy.w0, Wy.w1].any (fun w => (s.wy w).serving)) then 8
  else if s.service then 9
  else if p.up && p.source ≠ 3 && !s.released .w0 && !s.released .w1 then 10
  else 0

/-- FPN (R463). A press of REQUEST is one command: BUTTON_DOWN is never seen. -/
def State.viewFpn (s : State) (off : Nat) : Option Nat :=
  let f := s.front
  if off = FPN_STATUS then some (pack [(b2n f.latchClosed, 0), (b2n (f.presentA && f.presentB), 1), (b2n f.early, 2), (b2n f.locateAt.isSome, 4),
    (b2n s.service, 5), (f.removeSt, 8), (s.light, 12)])
  else if off = FPN_SLOT then some (pack [(f.slotA, 0), (f.slotB, 8)])
  else if off = FPN_LABEL_PAGE then some f.page
  else if off = FPN_MATING then some f.mating
  else none

/-- SVC (R464). The brick has no KX link partner in this model: neither link comes up. -/
def State.viewSvc (s : State) (off : Nat) : Option Nat :=
  let l := s.plinth.sessions
  if off = SVC_STATUS then some (pack [(b2n s.plinth.usbData, 0), (l.length, 3)])
  else if off = SVC_RIGHTS then some ((l.foldl (fun a x => a ||| x.rights) (0 : BitVec 16)).toNat % 256)
  else if off = SVC_EXPIRY_LO then some (lo32 (l.foldl (fun a x => max a x.until_) 0))
  else if off = SVC_AUTHORITIES then some s.plinth.authorities.length
  else none

/-! ### A register's value -/

/-- The register of a page computed from the brick's state, as a wythe reads it in a bank. -/
def State.view (s : State) (w : Wy) (bank : Nat) (p : Page) (off : Nat) : Option Nat :=
  match p with
  | .rlf v => s.viewRlf v off
  | .mac v n => s.viewMac v n.val off
  | .ptp v => s.viewPtp v off
  | .rdm v => if off = RDM_STATUS then some (s.wy v).pairs.length else none
  | .cip v => s.viewCip v off
  | .mtr v => s.viewMtr v off
  | .bpm v => s.viewBpm v off
  | .med v => s.viewMed v off
  | .chn c => s.viewChn w c.val off
  | .crs v n => s.viewCrs v n.val off
  | .til v t => s.viewTil v t.val off
  | .pnl v n => s.viewPnl v n.val off
  | .glb v => s.viewGlb v off
  | .pwr v => s.viewPwr v off
  | .rst v => s.viewRst v off
  | .clk v => s.viewClk v off
  | .tie v => s.viewTie v off
  | .tst v => s.viewTst v off
  | .hlt v => s.viewHlt v off
  | .fwu v => s.viewFwu v off
  | .plt => s.viewPlt off
  | .pfl => s.viewPfl bank off
  | .evr => s.viewEvr bank off
  | .fpn => s.viewFpn off
  | .svc => s.viewSvc off

/-- What a read returns (R9): a write-only register and a reserved offset read zero, PAGE_STATE shows SHADOW_PENDING (R404). -/
def State.readReg (s : State) (w : Wy) (bank : Nat) (p : Page) (off : Nat) : Nat :=
  match regRow p off with
  | none => 0
  | some r =>
    if r.acc = .wo then 0
    else if off = PAGE_STATE then (setFld (s.reg p PAGE_STATE) 8 8 (b2n (s.shadowPending p))).toNat
    else ((s.view w bank p off).getD (s.reg p off).toNat) % 2 ^ 32

end Sys2Proof.Machine
end

