-- ==== Sys2Proof/Machine/Access.lean ====
section
/-! DEFINITION. Reads and writes of registers through BAR0, the control tiles and the service port (R9, R389, R400-R402, R411, R417, R445,
R464): the writes that have no command of their own, and the reads that latch or are refused. -/

namespace Sys2Proof.Machine

/-! ### The word a register takes (R9, R10) -/

/-- The bits of a value that a register holds: its fields that are not reserved. -/
def maskTo (r : RegRow) (v : Word) : Word := word (pack (r.fields.map (fun f => (fld v f.1 f.2.1, f.2.1))))

/-- A write is refused without changing state, with an error code that the spec leaves open: a free value (R5). -/
def State.refuseOpen (s : State) (src : AccSrc) (p : Page) (off : Nat) : State := (s.pageError p (s.free % 256) off (srcNum src)).used

/-- A write that only the wythe's own control tiles may make is recorded as SOURCE_REFUSED (R407). -/
def State.ownTile (s : State) (src : AccSrc) (p : Page) (off : Nat) (f : Wy → State → State) : State :=
  match src with
  | .tile w => f w s
  | _ => s.pageError p 0x84 off (srcNum src)

/-- The PTP clock is set: its reading now, from which it runs on (R389). -/
def State.setPtp (s : State) (w : Wy) (raw : Nat) : State :=
  s.modWy w (fun y => { y with ptp := { y.ptp with value := raw, at_ := s.now } })

/-- PTP_ADJ: a signed step in ns, once (R389). -/
def State.stepPtp (s : State) (w : Wy) (v : Word) : State :=
  s.setPtp w ((s.ptpRaw w : Int) + toSigned 32 v.toNat * 2 ^ 28).toNat

/-- CHN_OWN_CTRL by the control tiles of a wythe: one of TAKE, RELEASE and LEND (R356). -/
def State.putOwn (s : State) (src : AccSrc) (c : Nat) (v : Word) (w : Wy) : State :=
  match fld v 2 0 with
  | 0 => s
  | 1 => s.takeChannel w c
  | 2 => s.askRelease w c
  | 4 => s.askLend w c
  | _ => s.refuseOpen src (chnPage c) CHN_OWN_CTRL

/-- FWU_ACTIVATE (R502): the checks of the Plinth's next start are the brick's, free values here. -/
def State.putActivate (s : State) (v : Word) : State :=
  let ok := fun n => (s.free / 2 ^ n) % 2 = 1
  if !bitOf v 16 then s
  else (s.used.activate (fld v 3 0) (if bitOf v 8 then .w1 else .w0) (bitOf v 17) (ok 0) (ok 1) (ok 2))

/-- TST_CTRL (R514, R516, R518): the result of a test of a die is the die's, a free value here. -/
def State.putTst (s : State) (src : AccSrc) (w : Wy) (v : Word) : State :=
  match fld v 2 0 with
  | 0 => s
  | 1 => s.used.dieTest w (s.free % 256) (s.free / 256 % 65536)
  | 2 => s.dieRetire w
  | 3 => s.dramMark w
  | 4 => s.dramUnmark w
  | _ => s.refuseOpen src (.tst w) TST_CTRL

/-- PFL_REQ (R446): what the array answers is a free value here; 0 names no routine and ends BAD_REQUEST. -/
def State.putPfl (s : State) (src : AccSrc) (v : Word) : State :=
  match fld v 1 0 with
  | 1 => s.used.putPflReq src (fun a _ => .read a [(s.free % 6, s.free / 6 % 3)])
  | 2 => s.used.putPflReq src (fun a d => .program a d (s.free % 2 = 1))
  | 3 => s.putPflReq src (fun a _ => .erase (a / 4096))
  | _ => s.flashEnd (.bank (bankOf src)) 6 0 0 none

/-- The registers of a page with a rule of their own: what a write does, or none for a register that follows its access code. -/
def State.putOwnRule (s : State) (src : AccSrc) (p : Page) (off : Nat) (v : Word) : Option State :=
  if off = PAGE_CTRL then some (s.writePageCtrl p v (srcNum src))
  else if off = EVT_ENABLE then some ((s.setReg p EVT_ENABLE v).becamePending p (s.pagePending p))
  else if off = EVT_FORCE then some (s.forceEvt p v)
  else if off = PAGE_LOCK then some (s.lockPage p v)
  else match p with
  | .rst w => if off = RST_REQ then some (s.putRstReq src w v) else none
  | .hlt w =>
    if off = HLT_CAP_REQ then some (s.askCap src w v)
    else if off = HLT_LOG_SECTION then some (s.selectLog w v)
    else if off = HLT_LOG_OFFSET && v.toNat % 4 ≠ 0 then some (s.refuseOpen src p off)
    else none
  | .fpn =>
    if off = FPN_REMOVE then some (s.writeRemove src v)
    else if off = FPN_LOCATE then some (s.writeLocate v)
    else if off = FPN_LABEL_PAGE then some (s.writeLabelPage src v)
    else none
  | .fwu _ => if off = FWU_ACTIVATE then some (s.putActivate v) else none
  | .chn c => if off = CHN_OWN_CTRL then some (s.ownTile src p off (fun w s => s.putOwn src c.val v w)) else none
  | .ptp w =>
    if off = PTP_INCR then some (s.ownTile src p off (fun _ s => (s.setPtp w (s.ptpRaw w)).setReg p PTP_INCR v))
    else if off = PTP_ADJ then some (s.ownTile src p off (fun _ s => s.stepPtp w v))
    else none
  | .mac _ _ =>
    if off = MAC_LOOPBACK && fld v 1 0 ≠ 0 && s.unit p ≠ .testing then some (s.pageError p 0x84 off (srcNum src)) else none
  | .evr =>
    if off = EVR_CURSOR_LO then some (s.setCursor (bankOf src) v)
    else if off = EVR_CURSOR_HI then some (s.modBank (bankOf src) (fun k => { k with hiHeld := some v.toNat }))
    else none
  | .pfl =>
    if off = PFL_ADDR then some (s.modBank (bankOf src) (fun k => { k with addr := fld v 23 0 }))
    else if off = PFL_REQ then some (s.putPfl src v)
    else if 0x110 ≤ off && off ≤ 0x12C then some (s.modBank (bankOf src) (fun k => { k with
      data := k.data.take (off - 0x110) ++ leBytes 4 v.toNat ++ k.data.drop (off - 0x10C) }))
    else none
  | .tst w => if off = TST_CTRL then some (s.putTst src w v) else none
  | _ => none

/-- A register takes a write by its access code (R9): an RW value outside its range is refused (R5); a shadow takes every value, which its
COMMIT judges (R410); writes of RO and RC registers and of reserved offsets are ignored. -/
def State.putReg (s : State) (src : AccSrc) (p : Page) (off : Nat) (v : Word) : State :=
  match regRow p off with
  | none => s
  | some r => match s.putOwnRule src p off v with
    | some t => t
    | none => match r.acc with
      | .rw => if inRange r v then s.setReg p off (maskTo r v) else s.refuseOpen src p off
      | .rws => s.setReg p off (maskTo r v)
      | .rw1c => s.clearBits p off v
      | .ro | .rc | .wo | .ws => s

/-! ### Queue pages and the MSI-X table (R400, R411, R416) -/

/-- A 64-bit value with one half replaced. -/
def putHalf (n : Nat) (high : Bool) (v : Word) : Nat := if high then v.toNat * 2 ^ 32 + n % 2 ^ 32 else n / 2 ^ 32 * 2 ^ 32 + v.toNat

/-- A write to queue page n (R411, R412): base, size and status-address registers take writes only while it is FREE. -/
def State.putQp (s : State) (w : Wy) (n : Fin 64) (off : Nat) (v : Word) : State :=
  let free := (qpage (s.wy w).pcie n.val).st = .free
  let put := fun f : QPage → QPage => if free then s.modPage w n.val f else s
  if off = 0x000 then put (fun p => { p with sqBase := putHalf p.sqBase false v })
  else if off = 0x004 then put (fun p => { p with sqBase := putHalf p.sqBase true v })
  else if off = 0x008 then put (fun p => { p with cqBase := putHalf p.cqBase false v })
  else if off = 0x00C then put (fun p => { p with cqBase := putHalf p.cqBase true v })
  else if off = 0x010 then put (fun p => { p with stat := putHalf p.stat false v })
  else if off = 0x014 then put (fun p => { p with stat := putHalf p.stat true v })
  else if off = 0x018 then put (fun p => { p with
    sqLog := fld v 3 0
    cqLog := fld v 11 8 })
  else if off = 0x01C then s.modPage w n.val (fun p => { p with
    vector := fld v 5 0
    intEn := bitOf v 8 })
  else if off = 0x020 then
    let s1 := if bitOf v 0 then s.qpCreate w n else s
    if bitOf v 1 then s1.qpDestroy w n else s1
  else if off = 0x028 then s.sqBell w n.val (fld v 15 0) []
  else if off = 0x02C then s.cqBell w n.val (fld v 11 0)
  else s

/-- The word that a queue page shows (R411). -/
def qpWord (p : QPage) (off : Nat) : Nat :=
  if off = 0x000 then lo32 p.sqBase else if off = 0x004 then hi32 p.sqBase
  else if off = 0x008 then lo32 p.cqBase else if off = 0x00C then hi32 p.cqBase
  else if off = 0x010 then lo32 p.stat else if off = 0x014 then hi32 p.stat
  else if off = 0x018 then pack [(p.sqLog, 0), (p.cqLog, 8)]
  else if off = 0x01C then pack [(p.vector, 0), (b2n p.intEn, 8)]
  else if off = 0x024 then pack [(qpNum p.st, 0), (p.error, 8), (p.epoch.toNat, 16)]
  else if off = 0x030 then p.sqHead
  else if off = 0x034 then p.cqTail
  else 0

/-- A write to the MSI-X table: an entry holds address, data and vector control with its mask bit (R400, R416). -/
def State.putMsix (s : State) (w : Wy) (at_ : Nat) (v : Word) : State :=
  s.setMsix w (at_ / 16) (fun m =>
    if at_ % 16 = 0 then { m with addr := putHalf m.addr false v }
    else if at_ % 16 = 4 then { m with addr := putHalf m.addr true v }
    else if at_ % 16 = 8 then { m with data := v.toNat }
    else { m with masked := bitOf v 0 })

/-- The word that the MSI-X table or its pending bits show. -/
def msixWord (e : Pcie) (at_ : Nat) : Nat :=
  let m := msixEntry e (at_ / 16)
  if 0x1000 ≤ at_ then mask_ 32 (fun n => (msixEntry e (n + 32 * ((at_ - 0x1000) / 4))).pending)
  else if at_ % 16 = 0 then lo32 m.addr else if at_ % 16 = 4 then hi32 m.addr
  else if at_ % 16 = 8 then m.data else b2n m.masked

/-! ### BAR0 (R400, R401) -/

/-- Where a BAR0 offset lies. -/
inductive BarAt where
  | peer
  | queue (n : Fin 64) (off : Nat)
  | msix (at_ : Nat)
  | page (p : Page) (off : Nat)
  | unmapped
  deriving DecidableEq, Repr

/-- The BAR0 map (R400). -/
def barAt (w : Wy) (off : Nat) : BarAt :=
  if 0x1000000 ≤ off && off < 0x2000000 then .peer
  else if 0x3000000 ≤ off && off < 0x3040000 then .queue (Fin.ofNat 64 ((off - 0x3000000) / 0x1000)) (off % 0x1000)
  else if (0x3040000 ≤ off && off < 0x3040400) || (0x3041000 ≤ off && off < 0x3041008) then .msix (off - 0x3040000)
  else match pageAt w off with
    | some p => .page p (off % 0x1000)
    | none => .unmapped

/-- A BAR0 write of `size` bytes, with every byte enable or not (R401). -/
def State.barWrite (s : State) (w : Wy) (off size : Nat) (full : Bool) (v : Word) : State :=
  if !s.pcieUp w then s
  else if size ≠ 4 || off % 4 ≠ 0 || !full then s.accessErr w 4 off (some GLB_CNT_ACCESS_SIZE)
  else match barAt w off with
    | .peer => s.accessErr w 2 off (some GLB_CNT_PEER_WRITE)
    | .queue n o => s.putQp w n o v
    | .msix a => if a < 0x1000 then s.putMsix w a v else s
    | .page p o => s.gated (.bar0 w) p o (fun s => s.putReg (.bar0 w) p o v)
    | .unmapped => s.accessErr w 1 off (some GLB_CNT_UNMAPPED)

/-- REGISTER_WRITE: a write of a register by its source. From a control tile or the service port, `off` is an offset of the same map. -/
def execRegisterWrite (src : AccSrc) (off size : Nat) (full : Bool) (v : Word) (s : State) : Host.Outcome State Fault Refusal :=
  .next (match src with
    | .bar0 w => s.barWrite w off size full v
    | .tile w => match pageAt w off with
      | some p => s.gated src p (off % 0x1000) (fun s => s.putReg src p (off % 0x1000) v)
      | none => s
    | .plinth => match pageAt .w0 off with
      | some p => if isPlinthPage p then s.gated src p (off % 0x1000) (fun s => s.putReg src p (off % 0x1000) v) else s
      | none => s)

/-! ### Reads (R9, R401) -/

/-- What a read of a register does before its value is given: EVR_WINDOW0 latches an entry (R443). -/
def State.beforeRead (s : State) (src : AccSrc) (p : Page) (off : Nat) : State :=
  if p = .evr && off = EVR_WINDOW0 then s.evrLatch (bankOf src) else s

/-- What a read of a register does after its value is given: RC registers clear, and latching registers latch. -/
def State.afterRead (s : State) (src : AccSrc) (p : Page) (off : Nat) : State :=
  if off = ERR_COUNT then s.setReg p ERR_COUNT 0
  else match p with
  | .glb w => if off = GLB_HLC_LO then s.setReg p GLB_HLC_HI (word (hi32 (s.hybrid w))) else s
  | .ptp w => if off = PTP_TIME_NS then s.latchPtp w else s
  | .bpm w =>
    if 0x140 ≤ off && off < 0x1A0 && off % 16 = 12 then s.clearLow w ((off - 0x140) / 16) else s
  | .hlt w =>
    if off = HLT_FRAG_GIB_LO then s.setReg p HLT_FRAG_GIB_HI (word (hi32 (inGib s.health.fragBytes)))
    else if off = HLT_MEDIA_GIB_LO then s.setReg p HLT_MEDIA_GIB_HI (word (hi32 (inGib s.health.mediaBytes)))
    else if off = HLT_LOG_DATA then s.setReg p HLT_LOG_OFFSET (word ((s.rfld (.hlt w) HLT_LOG_OFFSET 19 0 + 4) % 2 ^ 20))
    else s
  | .plt => if off = PLT_TIME_LO then s.setReg p PLT_TIME_HI (word (hi32 s.plinthTime)) else s
  | .svc => if off = SVC_EXPIRY_LO then s.setReg p SVC_EXPIRY_HI (word (hi32 (s.plinth.sessions.foldl (fun a x => max a x.until_) 0))) else s
  | .evr =>
    if off = EVR_WINDOW15 then s.evrAdvance (bankOf src)
    else if EVR_WINDOW0 ≤ off && off < EVR_WINDOW15 then s.evrSee (bankOf src) ((off - EVR_WINDOW0) / 4) else s
  | _ => s

/-- The bytes of a read within one register's word. -/
def partOfWord (v off size : Nat) : Nat := v / 2 ^ (8 * (off % 4)) % 2 ^ (8 * size)

/-- The registers that a read covers: one, or for 8 bytes two in rising order. -/
def readOffs (off size : Nat) : List Nat := if size = 8 then [off, off + 4] else [off / 4 * 4]

/-- Read the registers at some BAR0 offsets in order (R401): the state after, and the words. -/
def State.readWords (s : State) (w : Wy) : List Nat → State × List Nat
  | [] => (s, [])
  | o :: rest =>
    let src := AccSrc.bar0 w
    let one : State × Nat := match barAt w o with
      | .queue n q => (s, qpWord (qpage (s.wy w).pcie n.val) q)
      | .msix a => (s, msixWord (s.wy w).pcie a)
      | .page p q =>
        let s1 := s.beforeRead src p q
        ((s1.afterRead src p q).used, s1.readReg w (bankOf src) p q)
      | .peer | .unmapped => (s, 0)
    let more := one.1.readWords w rest
    (more.1, one.2 :: more.2)

/-- The words of the peer's pages, read without side effects (R401). -/
def State.peerWords (s : State) (w : Wy) (offs : List Nat) : List Nat :=
  offs.map (fun o => match pageAt w.peer (o - 0x1000000) with
    | some p => s.readReg w.peer (bankOf (.bar0 w.peer)) p (o % 0x1000)
    | none => 0)

/-- A BAR0 read of `size` bytes (R401): of the wrong size or alignment, of an unreachable peer or Plinth page, or of an unmapped offset it is
refused, counted and recorded; any other returns its registers. -/
def State.barRead (s : State) (w : Wy) (off size : Nat) : State :=
  let src := AccSrc.bar0 w
  let offs := readOffs off size
  let data := fun l : List Nat => match l with
    | [a] => partOfWord a off size
    | l => l.foldr (fun a b => a + b * 2 ^ 32) 0
  let lost := fun s : State => s.emit (.readData src (2 ^ (8 * size) - 1))
  if !s.pcieUp w then s
  else if !([1, 2, 4, 8].contains size) || off % size ≠ 0 then (s.accessErr w 4 off (some GLB_CNT_ACCESS_SIZE)).emit (.readData src 0)
  else match barAt w off with
    | .peer =>
      if !(s.running w.peer && s.cover.tieUp) then lost (s.accessErr w 3 off (some GLB_CNT_PEER_UNREACH))
      else match pageAt w.peer (off - 0x1000000) with
        | none => (s.accessErr w 1 off (some GLB_CNT_UNMAPPED)).emit (.readData src 0)
        | some _ => ((s.bump (.tie w.peer) TIE_CNT_PEER_READ).used).emit (.readData src (data (s.peerWords w offs)))
    | .unmapped => (s.accessErr w 1 off (some GLB_CNT_UNMAPPED)).emit (.readData src 0)
    | .page p _ =>
      if isPlinthPage p && !s.plinthOk w then lost (s.accessErr w 5 off none)
      else let r := s.readWords w offs; r.1.emit (.readData src (data r.2))
    | _ => let r := s.readWords w offs; r.1.emit (.readData src (data r.2))

/-- REFUSED_BAR0_READ: a BAR0 read; one that nothing refuses is answered. -/
def execRefusedBar0Read (w : Wy) (off size : Nat) (s : State) : Host.Outcome State Fault Refusal := .next (s.barRead w off size)

/-- HLC_READ: a read of GLB_HLC_LO latches GLB_HLC_HI (R417). -/
def execHlcRead (src : AccSrc) (w : Wy) (s : State) : Host.Outcome State Fault Refusal :=
  .next (s.readGate src (.glb w) GLB_HLC_LO (lo32 (s.hybrid w)) (fun s => s.afterRead src (.glb w) GLB_HLC_LO))

/-- PLT_TIME_READ (R445). -/
def execPltTimeRead (src : AccSrc) (s : State) : Host.Outcome State Fault Refusal :=
  .next (s.readGate src .plt PLT_TIME_LO (lo32 s.plinthTime) (fun s => s.afterRead src .plt PLT_TIME_LO))

/-- SVC_EXPIRY_READ (R464). -/
def execSvcExpiryRead (src : AccSrc) (s : State) : Host.Outcome State Fault Refusal :=
  .next (s.readGate src .svc SVC_EXPIRY_LO (lo32 (s.plinth.sessions.foldl (fun a x => max a x.until_) 0))
    (fun s => s.afterRead src .svc SVC_EXPIRY_LO))

/-- PTP_ADJ: a write of PTP_ADJ (R389). -/
def execPtpAdj (src : AccSrc) (w : Wy) (v : Word) (s : State) : Host.Outcome State Fault Refusal :=
  .next (s.gated src (.ptp w) PTP_ADJ (fun s => s.ownTile src (.ptp w) PTP_ADJ (fun _ s => s.stepPtp w v)))

end Sys2Proof.Machine
end

