-- ==== Sys2Proof/Machine/Dispatch.lean ====
section
/-! DEFINITION. The dispatch: one arm per command, each one direct call of its meaning. -/

namespace Sys2Proof.Machine

/-- The effect of a command on everything but the queue. -/
def exec (i : Instr) (s : State) : Host.Outcome State Fault Refusal :=
  match i with
  | .hello w q m => Sys2Proof.Machine.execHello w q m s
  | .mapGet w q m => Sys2Proof.Machine.execMapGet w q m s
  | .put w q m => Sys2Proof.Machine.execPut w q m s
  | .putOpen w q m => Sys2Proof.Machine.execPutOpen w q m s
  | .putPart w q m => Sys2Proof.Machine.execPutPart w q m s
  | .putClose w q m => Sys2Proof.Machine.execPutClose w q m s
  | .patch w q m => Sys2Proof.Machine.execPatch w q m s
  | .punch w q m => Sys2Proof.Machine.execPunch w q m s
  | .delete w q m => Sys2Proof.Machine.execDelete w q m s
  | .get w q m => Sys2Proof.Machine.execGet w q m s
  | .stat w q m => Sys2Proof.Machine.execStat w q m s
  | .list w q m => Sys2Proof.Machine.execList w q m s
  | .batch w q m => Sys2Proof.Machine.execBatch w q m s
  | .cast w q m => Sys2Proof.Machine.execCast w q m s
  | .castDrop w q m => Sys2Proof.Machine.execCastDrop w q m s
  | .outcome w q m => Sys2Proof.Machine.execOutcome w q m s
  | .flush w q m => Sys2Proof.Machine.execFlush w q m s
  | .flushComplete w id sealed => Sys2Proof.Machine.execFlushComplete w id sealed s
  | .subscribe w q m => Sys2Proof.Machine.execSubscribe w q m s
  | .queueReset w q m => Sys2Proof.Machine.execQueueReset w q m s
  | .queueClose w q m => Sys2Proof.Machine.execQueueClose w q m s
  | .keepalive w q m => Sys2Proof.Machine.execKeepalive w q m s
  | .unknownKindMessage w q bytes => Sys2Proof.Machine.execUnknownKindMessage w q bytes s
  | .unknownOpcode w q control m => Sys2Proof.Machine.execUnknownOpcode w q control m s
  | .sendLengthNak w q len => Sys2Proof.Machine.execSendLengthNak w q len s
  | .rdmaInvalidRequest w q => Sys2Proof.Machine.execRdmaInvalidRequest w q s
  | .idleClose w q => Sys2Proof.Machine.execIdleClose w q s
  | .connectionClose w q => Sys2Proof.Machine.execConnectionClose w q s
  | .admissionCycle w => Sys2Proof.Machine.execAdmissionCycle w s
  | .admissionTimeout w id => Sys2Proof.Machine.execAdmissionTimeout w id s
  | .drainAt w => Sys2Proof.Machine.execDrainAt w s
  | .uploadDiscard w upload => Sys2Proof.Machine.execUploadDiscard w upload s
  | .outcomeRecordDiscard keyspace requestId => Sys2Proof.Machine.execOutcomeRecordDiscard keyspace requestId s
  | .powerStateEntry => Sys2Proof.Machine.execPowerStateEntry s
  | .powerStateExit => Sys2Proof.Machine.execPowerStateExit s
  | .closedTimePublish w => Sys2Proof.Machine.execClosedTimePublish w s
  | .outOfSync w => Sys2Proof.Machine.execOutOfSync w s
  | .inSyncReturn w => Sys2Proof.Machine.execInSyncReturn w s
  | .leaseLapse w => Sys2Proof.Machine.execLeaseLapse w s
  | .readAtRelease w id => Sys2Proof.Machine.execReadAtRelease w id s
  | .castReady castId => Sys2Proof.Machine.execCastReady castId s
  | .castExpiry castId => Sys2Proof.Machine.execCastExpiry castId s
  | .plannedMoveEnd p => Sys2Proof.Machine.execPlannedMoveEnd p s
  | .payloadPullDone w id entry data => Sys2Proof.Machine.execPayloadPullDone w id entry data s
  | .chunkCut w id entry => Sys2Proof.Machine.execChunkCut w id entry s
  | .compressJobEnd w id chunk out => Sys2Proof.Machine.execCompressJobEnd w id chunk out s
  | .cryptJobStart w ref tile => Sys2Proof.Machine.execCryptJobStart w ref tile s
  | .cryptJobEnd w ref fault => Sys2Proof.Machine.execCryptJobEnd w ref fault s
  | .ivReservationDurable w keyspace ver => Sys2Proof.Machine.execIvReservationDurable w keyspace ver s
  | .ivReservationTimeout w keyspace ver => Sys2Proof.Machine.execIvReservationTimeout w keyspace ver s
  | .keyUnwrapDone w keyspace ver => Sys2Proof.Machine.execKeyUnwrapDone w keyspace ver s
  | .keyRotation w keyspace ver wrapped => Sys2Proof.Machine.execKeyRotation w keyspace ver wrapped s
  | .chunkAck w h group p res requestId chunk place => Sys2Proof.Machine.execChunkAck w h group p res requestId chunk place s
  | .chunkResend w id chunk => Sys2Proof.Machine.execChunkResend w id chunk s
  | .chunkAckTimeout w id chunk => Sys2Proof.Machine.execChunkAckTimeout w id chunk s
  | .indexPut w h p epoch closed r => Sys2Proof.Machine.execIndexPut w h p epoch closed r s
  | .indexAck w h p epoch version placed => Sys2Proof.Machine.execIndexAck w h p epoch version placed s
  | .rangeData w h fragId offset length st holder cookie bytes => Sys2Proof.Machine.execRangeData w h fragId offset length st holder cookie bytes s
  | .fetchTimeout w id chunk => Sys2Proof.Machine.execFetchTimeout w id chunk s
  | .decompressJobEnd w id chunk => Sys2Proof.Machine.execDecompressJobEnd w id chunk s
  | .reverifyJobEnd w id chunk => Sys2Proof.Machine.execReverifyJobEnd w id chunk s
  | .tileFault w tile fault job done site => Sys2Proof.Machine.execTileFault w tile fault job done site s
  | .form w => Sys2Proof.Machine.execForm w s
  | .join w => Sys2Proof.Machine.execJoin w s
  | .joinRequest w h r => Sys2Proof.Machine.execJoinRequest w h r s
  | .joinGrant w h g certKey => Sys2Proof.Machine.execJoinGrant w h g certKey s
  | .joinReadyTimeout brick => Sys2Proof.Machine.execJoinReadyTimeout brick s
  | .heartbeatSend w => Sys2Proof.Machine.execHeartbeatSend w s
  | .heartbeat w h b => Sys2Proof.Machine.execHeartbeat w h b s
  | .heartbeatReply w h r => Sys2Proof.Machine.execHeartbeatReply w h r s
  | .armAppend w h term leader prevIndex prevTerm commit entries => Sys2Proof.Machine.execArmAppend w h term leader prevIndex prevTerm commit entries s
  | .armAppendTimer w => Sys2Proof.Machine.execArmAppendTimer w s
  | .armAppendAck w h term ok matched silent => Sys2Proof.Machine.execArmAppendAck w h term ok matched silent s
  | .armVoteReq w h term candidate lastIndex lastTerm => Sys2Proof.Machine.execArmVoteReq w h term candidate lastIndex lastTerm s
  | .armVote w h term granted => Sys2Proof.Machine.execArmVote w h term granted s
  | .electionTimeout w => Sys2Proof.Machine.execElectionTimeout w s
  | .lossDelayExpiry brick => Sys2Proof.Machine.execLossDelayExpiry brick s
  | .removeNotice w h k => Sys2Proof.Machine.execRemoveNotice w h k s
  | .stateGet w h obj version offset length => Sys2Proof.Machine.execStateGet w h obj version offset length s
  | .stateData w h obj status version offset len total payload => Sys2Proof.Machine.execStateData w h obj status version offset len total payload s
  | .epochNotice w h epoch map bond => Sys2Proof.Machine.execEpochNotice w h epoch map bond s
  | .mortarAck w peer peerW flow ack sack credit ce resync => Sys2Proof.Machine.execMortarAck w peer peerW flow ack sack credit ce resync s
  | .retransmissionTimeout w peer peerW flow seq => Sys2Proof.Machine.execRetransmissionTimeout w peer peerW flow seq s
  | .unknownTypeMessage w h flow => Sys2Proof.Machine.execUnknownTypeMessage w h flow s
  | .partCollect w h p epoch => Sys2Proof.Machine.execPartCollect w h p epoch s
  | .partRecords w h p epoch closed recs => Sys2Proof.Machine.execPartRecords w h p epoch closed recs s
  | .partHandover w h p epoch hlc closed => Sys2Proof.Machine.execPartHandover w h p epoch hlc closed s
  | .closedTime w h p epoch closed => Sys2Proof.Machine.execClosedTime w h p epoch closed s
  | .castRequest w h keyspace t requestId => Sys2Proof.Machine.execCastRequest w h keyspace t requestId s
  | .castAnnounce w h id keyspace t => Sys2Proof.Machine.execCastAnnounce w h id keyspace t s
  | .castConfirm w h id held => Sys2Proof.Machine.execCastConfirm w h id held s
  | .castDone w h id status t requestId => Sys2Proof.Machine.execCastDone w h id status t requestId s
  | .castDropReq w h id keyspace requestId => Sys2Proof.Machine.execCastDropReq w h id keyspace requestId s
  | .ptpMasterLoss w => Sys2Proof.Machine.execPtpMasterLoss w s
  | .ppsEdge w => Sys2Proof.Machine.execPpsEdge w s
  | .ppsOutSecond w => Sys2Proof.Machine.execPpsOutSecond w s
  | .chunkPut w h group p requestId chunk record => Sys2Proof.Machine.execChunkPut w h group p requestId chunk record s
  | .journalCopy w h stripe offset lead journal record => Sys2Proof.Machine.execJournalCopy w h stripe offset lead journal record s
  | .journalAck w h stripe offset a => Sys2Proof.Machine.execJournalAck w h stripe offset a s
  | .stripeSeal w h stripe fill count gen digest lead targets => Sys2Proof.Machine.execStripeSeal w h stripe fill count gen digest lead targets s
  | .fragPut w h f bytes => Sys2Proof.Machine.execFragPut w h f bytes s
  | .fragAck w h fragId gen a => Sys2Proof.Machine.execFragAck w h fragId gen a s
  | .sealCommit w h stripe gen => Sys2Proof.Machine.execSealCommit w h stripe gen s
  | .rangeRead w h fragId offset length pend purpose cookie => Sys2Proof.Machine.execRangeRead w h fragId offset length pend purpose cookie s
  | .stripeListReq w h group pos first max => Sys2Proof.Machine.execStripeListReq w h group pos first max s
  | .stripeList w h group pos more entries => Sys2Proof.Machine.execStripeList w h group pos more entries s
  | .journalStateReq w h group stripe => Sys2Proof.Machine.execJournalStateReq w h group stripe s
  | .journalState w h j => Sys2Proof.Machine.execJournalState w h j s
  | .lostReport w h stripe offset length fps rangeOnly => Sys2Proof.Machine.execLostReport w h stripe offset length fps rangeOnly s
  | .fragRelease w h fragId holder => Sys2Proof.Machine.execFragRelease w h fragId holder s
  | .sealTimer stripe => Sys2Proof.Machine.execSealTimer stripe s
  | .rebuildRange w => Sys2Proof.Machine.execRebuildRange w s
  | .evacuation w => Sys2Proof.Machine.execEvacuation w s
  | .refDelta w h p home group recount ended seq lwm entries => Sys2Proof.Machine.execRefDelta w h p home group recount ended seq lwm entries s
  | .refAck w h p group r seq missing found => Sys2Proof.Machine.execRefAck w h p group r seq missing found s
  | .refQuery w h p group requestId chunk => Sys2Proof.Machine.execRefQuery w h p group requestId chunk s
  | .refAnswer w h p group requestId chunk claim => Sys2Proof.Machine.execRefAnswer w h p group requestId chunk claim s
  | .indexSyncReq w h group offset length => Sys2Proof.Machine.execIndexSyncReq w h group offset length s
  | .indexSync w h group holder offset total img => Sys2Proof.Machine.execIndexSync w h group holder offset total img s
  | .stripeThin w h stripe old new lead dead => Sys2Proof.Machine.execStripeThin w h stripe old new lead dead s
  | .thinData w h fragId gen units => Sys2Proof.Machine.execThinData w h fragId gen units s
  | .thinAck w h fragId gen r => Sys2Proof.Machine.execThinAck w h fragId gen r s
  | .thinCommit w h stripe gen commit => Sys2Proof.Machine.execThinCommit w h stripe gen commit s
  | .recount group => Sys2Proof.Machine.execRecount group s
  | .deltaBatchClose p group => Sys2Proof.Machine.execDeltaBatchClose p group s
  | .pendingRefAge group p requestId chunk => Sys2Proof.Machine.execPendingRefAge group p requestId chunk s
  | .garbageSweep p => Sys2Proof.Machine.execGarbageSweep p s
  | .replLink w h r certKey => Sys2Proof.Machine.execReplLink w h r certKey s
  | .shipInterval keyspace => Sys2Proof.Machine.execShipInterval keyspace s
  | .replOffer w h p last keyspace sourceCast seq keys => Sys2Proof.Machine.execReplOffer w h p last keyspace sourceCast seq keys s
  | .replNeed w h p sourceCast seq fps => Sys2Proof.Machine.execReplNeed w h p sourceCast seq fps s
  | .replChunk w h p sourceCast plain codec fp iv sealed => Sys2Proof.Machine.execReplChunk w h p sourceCast plain codec fp iv sealed s
  | .replStaged w h p sourceCast seq all => Sys2Proof.Machine.execReplStaged w h p sourceCast seq all s
  | .roundClose channelSet sb => Sys2Proof.Machine.execRoundClose channelSet sb s
  | .dieOpEnd job e => Sys2Proof.Machine.execDieOpEnd job e s
  | .foldRound channelSet => Sys2Proof.Machine.execFoldRound channelSet s
  | .slcShareGrow channelSet => Sys2Proof.Machine.execSlcShareGrow channelSet s
  | .slcShareShrink channelSet => Sys2Proof.Machine.execSlcShareShrink channelSet s
  | .mapFlush channelSet => Sys2Proof.Machine.execMapFlush channelSet s
  | .checkpoint channelSet => Sys2Proof.Machine.execCheckpoint channelSet s
  | .collection channelSet => Sys2Proof.Machine.execCollection channelSet s
  | .patrol channelSet sb attempts parity lost => Sys2Proof.Machine.execPatrol channelSet sb attempts parity lost s
  | .calibrationTimer die => Sys2Proof.Machine.execCalibrationTimer die s
  | .equivAgeTick => Sys2Proof.Machine.execEquivAgeTick s
  | .equivAgeRecord channelSet => Sys2Proof.Machine.execEquivAgeRecord channelSet s
  | .dieRebuild channelSet lost => Sys2Proof.Machine.execDieRebuild channelSet lost s
  | .anchorRebuild channelSet => Sys2Proof.Machine.execAnchorRebuild channelSet s
  | .chRead w r => Sys2Proof.Machine.execChRead w r s
  | .chReadRetry w r => Sys2Proof.Machine.execChReadRetry w r s
  | .chProgSlc w r => Sys2Proof.Machine.execChProgSlc w r s
  | .chProgQlc w r => Sys2Proof.Machine.execChProgQlc w r s
  | .chFold w r => Sys2Proof.Machine.execChFold w r s
  | .chErase w r => Sys2Proof.Machine.execChErase w r s
  | .chEraseVerify w r => Sys2Proof.Machine.execChEraseVerify w r s
  | .chReadParam w r => Sys2Proof.Machine.execChReadParam w r s
  | .chCalibrate w r => Sys2Proof.Machine.execChCalibrate w r s
  | .chDieReset w r => Sys2Proof.Machine.execChDieReset w r s
  | .chStatus w r => Sys2Proof.Machine.execChStatus w r s
  | .suspensionEnd die => Sys2Proof.Machine.execSuspensionEnd die s
  | .dieTimeout job => Sys2Proof.Machine.execDieTimeout job s
  | .channelTake w c => Sys2Proof.Machine.execChannelTake w c s
  | .channelRelease w c => Sys2Proof.Machine.execChannelRelease w c s
  | .channelLend w c => Sys2Proof.Machine.execChannelLend w c s
  | .releaseComplete c => Sys2Proof.Machine.execReleaseComplete c s
  | .alloc w reqs => Sys2Proof.Machine.execAlloc w reqs s
  | .free w requester handle cookie => Sys2Proof.Machine.execFree w requester handle cookie s
  | .share w requester handle cookie => Sys2Proof.Machine.execShare w requester handle cookie s
  | .release w requester handle cookie => Sys2Proof.Machine.execRelease w requester handle cookie s
  | .transfer w requester handle owner cookie => Sys2Proof.Machine.execTransfer w requester handle owner cookie s
  | .freeRingRefill w n => Sys2Proof.Machine.execFreeRingRefill w n s
  | .frameReceive w p f => Sys2Proof.Machine.execFrameReceive w p f s
  | .frameTransmit w p f taken => Sys2Proof.Machine.execFrameTransmit w p f taken s
  | .transmitUnderrun w p => Sys2Proof.Machine.execTransmitUnderrun w p s
  | .lpiEntry w p => Sys2Proof.Machine.execLpiEntry w p s
  | .lldpSend w p => Sys2Proof.Machine.execLldpSend w p s
  | .lldpReceive w p r tx => Sys2Proof.Machine.execLldpReceive w p r tx s
  | .pfcReceive w p quanta => Sys2Proof.Machine.execPfcReceive w p quanta s
  | .pfcQuantaExpiry w p prio => Sys2Proof.Machine.execPfcQuantaExpiry w p prio s
  | .pfcStorm w p prio => Sys2Proof.Machine.execPfcStorm w p prio s
  | .pfcIgnoreEnd w p prio => Sys2Proof.Machine.execPfcIgnoreEnd w p prio s
  | .linkDown w p => Sys2Proof.Machine.execLinkDown w p s
  | .linkUp w p => Sys2Proof.Machine.execLinkUp w p s
  | .portDownReport w p => Sys2Proof.Machine.execPortDownReport w p s
  | .portAddressRestore w p => Sys2Proof.Machine.execPortAddressRestore w p s
  | .cmRequest w p src mtu otherTransport => Sys2Proof.Machine.execCmRequest w p src mtu otherTransport s
  | .roceAckTimeout w q => Sys2Proof.Machine.execRoceAckTimeout w q s
  | .cnpReceive w q => Sys2Proof.Machine.execCnpReceive w q s
  | .rateIncrease w q => Sys2Proof.Machine.execRateIncrease w q s
  | .pageEnable src p v => Sys2Proof.Machine.execPageEnable src p v s
  | .pageQuiesce src p v => Sys2Proof.Machine.execPageQuiesce src p v s
  | .pageBypass src p v => Sys2Proof.Machine.execPageBypass src p v s
  | .unitJobDrained p => Sys2Proof.Machine.execUnitJobDrained p s
  | .testStart src p v => Sys2Proof.Machine.execTestStart src p v s
  | .testEnd p code info us_ => Sys2Proof.Machine.execTestEnd p code info us_ s
  | .commit src p v => Sys2Proof.Machine.execCommit src p v s
  | .evtStatusClear src p v => Sys2Proof.Machine.execEvtStatusClear src p v s
  | .evtForce src p v => Sys2Proof.Machine.execEvtForce src p v s
  | .errCountRead src p => Sys2Proof.Machine.execErrCountRead src p s
  | .bpmPoolLowRead src w n => Sys2Proof.Machine.execBpmPoolLowRead src w n s
  | .pageLock src p v => Sys2Proof.Machine.execPageLock src p v s
  | .registerWrite src off size full v => Sys2Proof.Machine.execRegisterWrite src off size full v s
  | .qpCreate w n => Sys2Proof.Machine.execQpCreate w n s
  | .qpDestroy w n => Sys2Proof.Machine.execQpDestroy w n s
  | .sqDoorbell w n tail msgs => Sys2Proof.Machine.execSqDoorbell w n tail msgs s
  | .cqDoorbell w n head => Sys2Proof.Machine.execCqDoorbell w n head s
  | .unitReset src w v => Sys2Proof.Machine.execUnitReset src w v s
  | .restartSelf src w v => Sys2Proof.Machine.execRestartSelf src w v s
  | .restartPeer src w v => Sys2Proof.Machine.execRestartPeer src w v s
  | .hlcRead src w => Sys2Proof.Machine.execHlcRead src w s
  | .ptpTimeRead src w => Sys2Proof.Machine.execPtpTimeRead src w s
  | .ptpAdj src w v => Sys2Proof.Machine.execPtpAdj src w v s
  | .pltTimeRead src => Sys2Proof.Machine.execPltTimeRead src s
  | .svcExpiryRead src => Sys2Proof.Machine.execSvcExpiryRead src s
  | .hltGibRead src w media => Sys2Proof.Machine.execHltGibRead src w media s
  | .functionLevelReset w => Sys2Proof.Machine.execFunctionLevelReset w s
  | .hotReset w => Sys2Proof.Machine.execHotReset w s
  | .perstAssert w => Sys2Proof.Machine.execPerstAssert w s
  | .pcieLinkLoss w => Sys2Proof.Machine.execPcieLinkLoss w s
  | .busMasterClear w => Sys2Proof.Machine.execBusMasterClear w s
  | .d3hotEntry w => Sys2Proof.Machine.execD3hotEntry w s
  | .d0Return w speed width fetched => Sys2Proof.Machine.execD0Return w speed width fetched s
  | .msixUnmask w v => Sys2Proof.Machine.execMsixUnmask w v s
  | .housekeepingHeartbeat => Sys2Proof.Machine.execHousekeepingHeartbeat s
  | .housekeepingLoss w => Sys2Proof.Machine.execHousekeepingLoss w s
  | .plinthFailed => Sys2Proof.Machine.execPlinthFailed s
  | .plinthWatchdog cal ksA ksB => Sys2Proof.Machine.execPlinthWatchdog cal ksA ksB s
  | .plinthTimeSet w => Sys2Proof.Machine.execPlinthTimeSet w s
  | .powerSourceChange auxA auxB vbus advert pd usb => Sys2Proof.Machine.execPowerSourceChange auxA auxB vbus advert pd usb s
  | .pfRead addr outcomes => Sys2Proof.Machine.execPfRead addr outcomes s
  | .pfProgram addr data ok => Sys2Proof.Machine.execPfProgram addr data ok s
  | .pfErase addr => Sys2Proof.Machine.execPfErase addr s
  | .pfEraseDone ok => Sys2Proof.Machine.execPfEraseDone ok s
  | .pfCounterRead n => Sys2Proof.Machine.execPfCounterRead n s
  | .pfCounterRaise n v => Sys2Proof.Machine.execPfCounterRaise n v s
  | .pflRead src step corrected => Sys2Proof.Machine.execPflRead src step corrected s
  | .pflProgram src ok => Sys2Proof.Machine.execPflProgram src ok s
  | .pflErase src => Sys2Proof.Machine.execPflErase src s
  | .eventEntry => Sys2Proof.Machine.execEventEntry s
  | .evrWindowLatch src => Sys2Proof.Machine.execEvrWindowLatch src s
  | .evrWindowAdvance src => Sys2Proof.Machine.execEvrWindowAdvance src s
  | .evrCursorSet src lo => Sys2Proof.Machine.execEvrCursorSet src lo s
  | .recorderClear session => Sys2Proof.Machine.execRecorderClear session s
  | .rekey session => Sys2Proof.Machine.execRekey session s
  | .requestPress heldMs => Sys2Proof.Machine.execRequestPress heldMs s
  | .requestHold => Sys2Proof.Machine.execRequestHold s
  | .removeRequest src v => Sys2Proof.Machine.execRemoveRequest src v s
  | .removeCancel src v => Sys2Proof.Machine.execRemoveCancel src v s
  | .removalAllowance reason stripe margin => Sys2Proof.Machine.execRemovalAllowance reason stripe margin s
  | .touch => Sys2Proof.Machine.execTouch s
  | .labelPageWrite src v => Sys2Proof.Machine.execLabelPageWrite src v s
  | .labelReturn => Sys2Proof.Machine.execLabelReturn s
  | .labelRefreshDone => Sys2Proof.Machine.execLabelRefreshDone s
  | .locateAssert h => Sys2Proof.Machine.execLocateAssert h s
  | .locateWrite src v => Sys2Proof.Machine.execLocateWrite src v s
  | .locateTimeout => Sys2Proof.Machine.execLocateTimeout s
  | .latchOpen => Sys2Proof.Machine.execLatchOpen s
  | .latchClose => Sys2Proof.Machine.execLatchClose s
  | .earlyWarningBreak => Sys2Proof.Machine.execEarlyWarningBreak s
  | .presenceMake slotA slotB => Sys2Proof.Machine.execPresenceMake slotA slotB s
  | .serviceTicket ticket => Sys2Proof.Machine.execServiceTicket ticket s
  | .serviceSessionExpiry session => Sys2Proof.Machine.execServiceSessionExpiry session s
  | .stage session comp mask header payload => Sys2Proof.Machine.execStage session comp mask header payload s
  | .settingsWrite session recs => Sys2Proof.Machine.execSettingsWrite session recs s
  | .keyspacePolicy session change => Sys2Proof.Machine.execKeyspacePolicy session change s
  | .brickReset session cal ksA ksB => Sys2Proof.Machine.execBrickReset session cal ksA ksB s
  | .romRecoveryEnter session => Sys2Proof.Machine.execRomRecoveryEnter session s
  | .recoveryStart session => Sys2Proof.Machine.execRecoveryStart session s
  | .smbusStatusRead h => Sys2Proof.Machine.execSmbusStatusRead h s
  | .smbusAlertResponse h => Sys2Proof.Machine.execSmbusAlertResponse h s
  | .pwrdisAssert h => Sys2Proof.Machine.execPwrdisAssert h s
  | .pwrdisRelease h => Sys2Proof.Machine.execPwrdisRelease h s
  | .tempSample temps => Sys2Proof.Machine.execTempSample temps s
  | .ageingMeasure freqs => Sys2Proof.Machine.execAgeingMeasure freqs s
  | .capTest => Sys2Proof.Machine.execCapTest s
  | .capTestRequest src w v => Sys2Proof.Machine.execCapTestRequest src w v s
  | .capTestEnd cap esr => Sys2Proof.Machine.execCapTestEnd cap esr s
  | .eolPrediction => Sys2Proof.Machine.execEolPrediction s
  | .healthLogRewrite => Sys2Proof.Machine.execHealthLogRewrite s
  | .hltLogSelect src w v => Sys2Proof.Machine.execHltLogSelect src w v s
  | .hltLogRead src w => Sys2Proof.Machine.execHltLogRead src w s
  | .healthSnapshot => Sys2Proof.Machine.execHealthSnapshot s
  | .inputOutOfRange h mv => Sys2Proof.Machine.execInputOutOfRange h mv s
  | .inputReconnect h mv => Sys2Proof.Machine.execInputReconnect h mv s
  | .inputLoss => Sys2Proof.Machine.execInputLoss s
  | .wytheDumpDone w => Sys2Proof.Machine.execWytheDumpDone w s
  | .holdUpEnd => Sys2Proof.Machine.execHoldUpEnd s
  | .powerGood slotA slotB => Sys2Proof.Machine.execPowerGood slotA slotB s
  | .plinthRom cal ksA ksB => Sys2Proof.Machine.execPlinthRom cal ksA ksB s
  | .optionsLoad => Sys2Proof.Machine.execOptionsLoad s
  | .wytheRelease w ok => Sys2Proof.Machine.execWytheRelease w ok s
  | .dramTrain w saved results => Sys2Proof.Machine.execDramTrain w saved results s
  | .linkTrain w lanes ports pcie => Sys2Proof.Machine.execLinkTrain w lanes ports pcie s
  | .imageVerify w okA okB => Sys2Proof.Machine.execImageVerify w okA okB s
  | .settingsLoad w ok scale conv ports => Sys2Proof.Machine.execSettingsLoad w ok scale conv ports s
  | .anchorLoad w aOk bOk => Sys2Proof.Machine.execAnchorLoad w aOk bOk s
  | .tagScan w failed lostRecs lostStripes => Sys2Proof.Machine.execTagScan w failed lostRecs lostStripes s
  | .tieSync w => Sys2Proof.Machine.execTieSync w s
  | .tieSyncTimeout w => Sys2Proof.Machine.execTieSyncTimeout w s
  | .wallJoin w => Sys2Proof.Machine.execWallJoin w s
  | .wallJoinRetry w => Sys2Proof.Machine.execWallJoinRetry w s
  | .serviceOpen w => Sys2Proof.Machine.execServiceOpen w s
  | .startTimeout => Sys2Proof.Machine.execStartTimeout s
  | .clockMonitor w ppm => Sys2Proof.Machine.execClockMonitor w ppm s
  | .pllUnlock w => Sys2Proof.Machine.execPllUnlock w s
  | .tieLaneFail lanes => Sys2Proof.Machine.execTieLaneFail lanes s
  | .tieHeartbeatSend w => Sys2Proof.Machine.execTieHeartbeatSend w s
  | .tieHeartbeatLoss w => Sys2Proof.Machine.execTieHeartbeatLoss w s
  | .failedNotice w => Sys2Proof.Machine.execFailedNotice w s
  | .crossResetDelay => Sys2Proof.Machine.execCrossResetDelay s
  | .crossResetClear => Sys2Proof.Machine.execCrossResetClear s
  | .restartTimeout w => Sys2Proof.Machine.execRestartTimeout w s
  | .handBack => Sys2Proof.Machine.execHandBack s
  | .wytheWatchdog w => Sys2Proof.Machine.execWytheWatchdog w s
  | .activatePlinth by_ cal ksA ksB => Sys2Proof.Machine.execActivatePlinth by_ cal ksA ksB s
  | .activateMediaTables by_ => Sys2Proof.Machine.execActivateMediaTables by_ s
  | .activateSerdes by_ => Sys2Proof.Machine.execActivateSerdes by_ s
  | .serdesLinkTimeout => Sys2Proof.Machine.execSerdesLinkTimeout s
  | .activateWythe by_ w conv => Sys2Proof.Machine.execActivateWythe by_ w conv s
  | .trialTimeout => Sys2Proof.Machine.execTrialTimeout s
  | .dieTest src w result ms_ => Sys2Proof.Machine.execDieTest src w result ms_ s
  | .dieRetireRequest src w => Sys2Proof.Machine.execDieRetireRequest src w s
  | .dramMark src w channel word => Sys2Proof.Machine.execDramMark src w channel word s
  | .dramUnmark src w => Sys2Proof.Machine.execDramUnmark src w s
  | .requestIdDiscard keyspace requestId => Sys2Proof.Machine.execRequestIdDiscard keyspace requestId s
  | .rdmaWriteDone w q => Sys2Proof.Machine.execRdmaWriteDone w q s
  | .epochHoldTimeout w => Sys2Proof.Machine.execEpochHoldTimeout w s
  | .lldpAgeOut w p => Sys2Proof.Machine.execLldpAgeOut w p s
  | .pfcXoffRepeat w p prio held => Sys2Proof.Machine.execPfcXoffRepeat w p prio held s
  | .ppsEdgeMissing w => Sys2Proof.Machine.execPpsEdgeMissing w s
  | .plinthPowerUp auxA auxB vbus advert pd usb cal ksA ksB presentA presentB slotA slotB => Sys2Proof.Machine.execPlinthPowerUp auxA auxB vbus advert pd usb cal ksA ksB presentA presentB slotA slotB s
  | .lossOfEverySupply => Sys2Proof.Machine.execLossOfEverySupply s
  | .locateRelease h => Sys2Proof.Machine.execLocateRelease h s
  | .presenceBreak => Sys2Proof.Machine.execPresenceBreak s
  | .labelRefreshInterval => Sys2Proof.Machine.execLabelRefreshInterval s
  | .serviceSessionClose session => Sys2Proof.Machine.execServiceSessionClose session s
  | .removeReturnTicket session seconds => Sys2Proof.Machine.execRemoveReturnTicket session seconds s
  | .authorityKeyInstall session key => Sys2Proof.Machine.execAuthorityKeyInstall session key s
  | .wallSettingsChange session ws => Sys2Proof.Machine.execWallSettingsChange session ws s
  | .plinthTrialCommit => Sys2Proof.Machine.execPlinthTrialCommit s
  | .refusedBar0Read w off size => Sys2Proof.Machine.execRefusedBar0Read w off size s

end Sys2Proof.Machine
end

