-- ==== Sys2Proof/Machine/Tick.lean ====
section
/-! DEFINITION. What happens on an empty queue: some time passes, and what falls due by it happens (log 2). -/

namespace Sys2Proof.Machine

/-- What the brick does of itself once its time has come: mirrors confirmed (R20), the clocks' sums judged (R114), suspensions (R349), frames (R377), the SLC marks (R295), the flash's erase (R428),
the end of a drain (R503), the hand-back (R30), the pipelines (R152, R161), SERDES reloads (R502), the settings store (R506), removal (R454, R455, R457), a brick reset
(R485), the label (R450) and the SMBus alert (R527). -/
def State.dueAll (s : State) : State :=
  let s0 := (((s.confirmAll .w0).confirmAll .w1).servo .w0).servo .w1
  let s1 := ((s0.suspendDue.txDue.slcMarks 0).slcMarks 1).flashDue
  let s2 := s1.drainDue.handBackStart.handBackDue.serdesDue.settingsDue
  s2.pipelineDue.removeDue.cleanStopDue.brickResetDue.labelDue.alertDue

/-- An empty queue: time passes by at least 1 ns and a free value more, and what is due happens. -/
def tick (s : State) : Host.Outcome State Fault Refusal :=
  let later : State := { s with now := s.now + 1 + s.free }
  .next later.used.dueAll

end Sys2Proof.Machine
end

