-- ==== Sys2Proof/Safety.lean ====
section
/-! DEFINITION. What counts as a safe run: no step stops with a fault or a refusal. The parts of the state, in the terms in which the
statements say what a command leaves alone, and the canonical form of the register file. -/

namespace Sys2Proof

/-- A step answers a next state. -/
def completes (o : Host.Outcome Machine.State Machine.Fault Machine.Refusal) : Prop := ∃ t, o = .next t

/-- Every one of the first n steps from a state answers a next state. -/
def safeFor : Nat → Machine.State → Prop
  | 0, _ => True
  | n + 1, s => ∃ t, Machine.step s = .next t ∧ safeFor n t

end Sys2Proof

namespace Sys2Proof.Machine

/-- The parts of the state: each field, and each field of the two wythes. -/
inductive Part where
  | relief | clk | cip | codec | mortar | pcie | bpm | ptp | portMode | ports | pairs | serving | start
  | regs | active | wall | store | tileFaults | stripes | refs | heldMortar | syncQueue | media | units | jobRuns | arriving
  | flash | recorder | plinth | front | health | inA | inB | holdup | fw | pwr | cover
  deriving DecidableEq, Repr

/-- A part is the same in two states, on both wythes where it is a wythe's. -/
def Part.same : Part → State → State → Prop
  | .relief, s, t => t.w0.relief = s.w0.relief ∧ t.w1.relief = s.w1.relief
  | .clk, s, t => t.w0.clk = s.w0.clk ∧ t.w1.clk = s.w1.clk
  | .cip, s, t => t.w0.cip = s.w0.cip ∧ t.w1.cip = s.w1.cip
  | .codec, s, t => t.w0.codec = s.w0.codec ∧ t.w1.codec = s.w1.codec
  | .mortar, s, t => t.w0.mortar = s.w0.mortar ∧ t.w1.mortar = s.w1.mortar
  | .pcie, s, t => t.w0.pcie = s.w0.pcie ∧ t.w1.pcie = s.w1.pcie
  | .bpm, s, t => t.w0.bpm = s.w0.bpm ∧ t.w1.bpm = s.w1.bpm
  | .ptp, s, t => t.w0.ptp = s.w0.ptp ∧ t.w1.ptp = s.w1.ptp
  | .portMode, s, t => t.w0.portMode = s.w0.portMode ∧ t.w1.portMode = s.w1.portMode
  | .ports, s, t => t.w0.ports = s.w0.ports ∧ t.w1.ports = s.w1.ports
  | .pairs, s, t => t.w0.pairs = s.w0.pairs ∧ t.w1.pairs = s.w1.pairs
  | .serving, s, t => t.w0.serving = s.w0.serving ∧ t.w1.serving = s.w1.serving
  | .start, s, t => t.w0.start = s.w0.start ∧ t.w1.start = s.w1.start
  | .regs, s, t => t.regs = s.regs
  | .active, s, t => t.active = s.active
  | .wall, s, t => t.wall = s.wall
  | .store, s, t => t.store = s.store
  | .tileFaults, s, t => t.tileFaults = s.tileFaults
  | .stripes, s, t => t.stripes = s.stripes
  | .refs, s, t => t.refs = s.refs
  | .heldMortar, s, t => t.heldMortar = s.heldMortar
  | .syncQueue, s, t => t.syncQueue = s.syncQueue
  | .media, s, t => t.media = s.media
  | .units, s, t => t.units = s.units
  | .jobRuns, s, t => t.jobRuns = s.jobRuns
  | .arriving, s, t => t.arriving = s.arriving
  | .flash, s, t => t.flash = s.flash
  | .recorder, s, t => t.recorder = s.recorder
  | .plinth, s, t => t.plinth = s.plinth
  | .front, s, t => t.front = s.front
  | .health, s, t => t.health = s.health
  | .inA, s, t => t.inA = s.inA
  | .inB, s, t => t.inB = s.inB
  | .holdup, s, t => t.holdup = s.holdup
  | .fw, s, t => t.fw = s.fw
  | .pwr, s, t => t.pwr = s.pwr
  | .cover, s, t => t.cover = s.cover

/-- The register file and the active values are in canonical form. -/
def State.canon (s : State) : Prop := tableWf s.regs = true ∧ tableWf s.active = true

/-- The parts of the state that a command of each row may change; it leaves every other part as it was. -/
def changes : Instr → List Part
  | .hello .. | .mapGet .. | .put .. | .putOpen .. | .putPart .. | .putClose .. | .patch .. | .punch .. | .delete .. | .get ..
  | .stat .. | .list .. | .batch .. | .cast .. | .castDrop .. | .outcome .. | .flush .. | .flushComplete .. | .subscribe ..
  | .admissionCycle .. | .cryptJobStart .. | .cryptJobEnd .. | .ivReservationTimeout .. =>
    [.relief, .clk, .cip, .codec, .mortar, .pcie, .bpm, .ptp, .regs, .store, .stripes, .refs, .jobRuns, .arriving, .pwr]
  | .queueReset .. | .queueClose .. | .keepalive .. | .unknownKindMessage .. | .unknownOpcode .. | .powerStateExit ..
  | .payloadPullDone .. | .sqDoorbell .. | .d0Return .. =>
    [.relief, .clk, .cip, .codec, .mortar, .pcie, .bpm, .ptp, .pairs, .regs, .store, .stripes, .refs, .jobRuns, .arriving, .pwr]
  | .sendLengthNak .. | .rdmaInvalidRequest .. | .idleClose .. | .connectionClose .. | .roceAckTimeout .. | .qpDestroy ..
  | .functionLevelReset .. | .hotReset .. | .perstAssert .. | .pcieLinkLoss .. | .busMasterClear .. | .d3hotEntry .. =>
    [.relief, .cip, .codec, .mortar, .pcie, .bpm, .pairs, .regs, .store, .refs, .jobRuns, .arriving, .pwr]
  | .admissionTimeout .. | .readAtRelease .. =>
    [.relief, .mortar, .pcie, .bpm, .regs, .refs, .arriving, .pwr]
  | .drainAt .. =>
    [.relief, .store]
  | .uploadDiscard .. =>
    [.relief]
  | .outcomeRecordDiscard .. | .requestIdDiscard .. =>
    [.store]
  | .powerStateEntry .. =>
    [.pcie, .regs, .pwr]
  | .closedTimePublish .. =>
    [.clk, .mortar, .pcie, .regs, .store]
  | .outOfSync .. =>
    [.clk, .pcie, .regs, .store, .arriving]
  | .inSyncReturn .. =>
    [.clk]
  | .leaseLapse .. | .evtStatusClear .. | .evtForce .. | .errCountRead .. | .pageLock .. | .ptpTimeRead .. | .hltGibRead ..
  | .hltLogRead .. | .ppsEdgeMissing .. =>
    [.pcie, .regs]
  | .castReady .. | .castExpiry .. | .plannedMoveEnd .. | .joinRequest .. | .joinReadyTimeout .. | .heartbeat .. | .armAppend ..
  | .armAppendTimer .. | .armAppendAck .. | .armVote .. | .electionTimeout .. | .lossDelayExpiry .. | .removeNotice .. | .replLink ..
  | .shipInterval .. | .replStaged .. | .keyspacePolicy .. | .wallSettingsChange .. =>
    [.relief, .clk, .cip, .codec, .mortar, .pcie, .bpm, .ptp, .regs, .active, .wall, .store, .stripes, .refs, .syncQueue, .media,
     .jobRuns, .arriving, .pwr]
  | .chunkCut .. | .decompressJobEnd .. | .reverifyJobEnd .. =>
    [.relief, .cip, .codec, .mortar, .pcie, .bpm, .regs, .stripes, .refs, .jobRuns, .arriving, .pwr]
  | .compressJobEnd .. =>
    [.relief, .cip, .codec, .pcie, .regs, .jobRuns]
  | .ivReservationDurable .. =>
    [.cip, .pcie, .regs, .media, .arriving]
  | .keyUnwrapDone .. =>
    [.cip, .pcie, .regs]
  | .keyRotation .. =>
    [.cip, .pcie, .regs, .media]
  | .chunkAck .. | .indexAck .. | .partRecords .. =>
    [.relief, .clk, .cip, .codec, .mortar, .pcie, .bpm, .ptp, .regs, .store, .stripes, .refs, .heldMortar, .jobRuns, .arriving, .pwr]
  | .chunkResend .. =>
    [.relief, .mortar, .pcie, .regs]
  | .chunkAckTimeout .. =>
    [.relief, .clk, .cip, .codec, .mortar, .pcie, .bpm, .ptp, .regs, .store, .refs, .jobRuns, .arriving, .pwr]
  | .indexPut .. | .partCollect .. | .partHandover .. | .closedTime .. | .castAnnounce .. =>
    [.clk, .mortar, .pcie, .regs, .store, .heldMortar]
  | .rangeData .. =>
    [.relief, .clk, .cip, .codec, .mortar, .pcie, .bpm, .regs, .stripes, .refs, .heldMortar, .media, .jobRuns, .arriving, .pwr]
  | .fetchTimeout .. =>
    [.relief, .cip, .codec, .mortar, .pcie, .bpm, .regs, .refs, .jobRuns, .arriving, .pwr]
  | .tileFault .. =>
    [.relief, .clk, .cip, .codec, .mortar, .pcie, .bpm, .ptp, .ports, .pairs, .serving, .regs, .store, .tileFaults, .stripes, .refs,
     .heldMortar, .media, .units, .jobRuns, .arriving, .health, .pwr, .cover]
  | .form .. =>
    [.relief, .clk, .cip, .codec, .mortar, .pcie, .bpm, .ptp, .regs, .active, .wall, .store, .stripes, .refs, .syncQueue, .media,
     .jobRuns, .arriving, .plinth, .pwr]
  | .join .. | .heartbeatSend .. =>
    [.mortar, .pcie, .regs, .wall]
  | .joinGrant .. =>
    [.clk, .cip, .mortar, .pcie, .regs, .active, .wall, .store, .stripes, .refs, .media, .arriving, .plinth]
  | .heartbeatReply .. | .armVoteReq .. =>
    [.clk, .mortar, .pcie, .regs, .wall]
  | .stateGet .. | .epochNotice .. =>
    [.clk, .mortar, .pcie, .regs]
  | .stateData .. | .indexSyncReq .. =>
    [.relief, .clk, .cip, .codec, .mortar, .pcie, .bpm, .ptp, .regs, .active, .wall, .store, .stripes, .refs, .heldMortar, .syncQueue,
     .media, .jobRuns, .arriving, .health, .pwr]
  | .mortarAck .. =>
    [.relief, .cip, .codec, .mortar, .pcie, .bpm, .regs, .stripes]
  | .retransmissionTimeout .. =>
    [.mortar, .pcie, .regs]
  | .unknownTypeMessage .. =>
    [.clk, .pcie, .regs]
  | .castRequest .. | .castConfirm .. | .castDropReq .. =>
    [.relief, .clk, .cip, .codec, .mortar, .pcie, .bpm, .ptp, .regs, .active, .wall, .store, .stripes, .refs, .heldMortar, .syncQueue,
     .media, .jobRuns, .arriving, .pwr]
  | .castDone .. =>
    [.relief, .clk, .mortar, .pcie, .bpm, .regs, .store, .refs, .heldMortar, .arriving, .pwr]
  | .ptpMasterLoss .. =>
    [.mortar]
  | .ppsEdge .. | .ptpAdj .. =>
    [.pcie, .ptp, .regs]
  | .ppsOutSecond .. | .lldpSend .. =>
    []
  | .chunkPut .. =>
    [.clk, .mortar, .pcie, .regs, .store, .stripes, .refs, .heldMortar, .syncQueue]
  | .journalCopy .. =>
    [.clk, .mortar, .pcie, .regs, .store, .stripes, .heldMortar]
  | .journalAck .. | .sealCommit .. | .stripeList .. | .journalState .. =>
    [.clk, .mortar, .pcie, .regs, .stripes, .heldMortar]
  | .stripeSeal .. | .fragPut .. =>
    [.clk, .mortar, .pcie, .regs, .stripes, .heldMortar, .media, .arriving, .health]
  | .fragAck .. =>
    [.clk, .mortar, .pcie, .regs, .wall, .stripes, .refs, .heldMortar, .media, .arriving]
  | .rangeRead .. =>
    [.relief, .clk, .mortar, .pcie, .regs, .heldMortar, .media, .arriving, .pwr]
  | .stripeListReq .. | .journalStateReq .. =>
    [.clk, .mortar, .pcie, .regs, .heldMortar]
  | .lostReport .. =>
    [.clk, .mortar, .pcie, .regs, .stripes, .refs, .heldMortar, .health]
  | .fragRelease .. | .stripeThin .. | .thinData .. | .thinCommit .. =>
    [.clk, .mortar, .pcie, .regs, .stripes, .heldMortar, .media, .arriving]
  | .sealTimer .. =>
    [.mortar, .pcie, .regs, .stripes]
  | .rebuildRange .. =>
    [.mortar, .pcie, .regs, .stripes, .media, .arriving]
  | .evacuation .. =>
    [.mortar, .pcie, .regs, .wall, .stripes, .arriving]
  | .refDelta .. =>
    [.clk, .mortar, .pcie, .regs, .refs, .heldMortar, .syncQueue, .arriving]
  | .refAck .. =>
    [.clk, .mortar, .pcie, .regs, .store, .refs, .heldMortar]
  | .refQuery .. | .refAnswer .. | .indexSync .. | .thinAck .. =>
    [.clk, .mortar, .pcie, .regs, .refs, .heldMortar]
  | .recount .. | .deltaBatchClose .. | .pendingRefAge .. =>
    [.mortar, .pcie, .regs, .refs]
  | .garbageSweep .. =>
    [.mortar, .pcie, .regs, .store, .refs]
  | .replOffer .. =>
    [.clk, .cip, .mortar, .pcie, .regs, .store, .refs]
  | .replNeed .. =>
    [.relief, .clk, .cip, .codec, .mortar, .pcie, .bpm, .regs, .stripes, .refs, .jobRuns, .arriving, .pwr]
  | .replChunk .. =>
    [.clk, .cip, .refs]
  | .roundClose .. | .slcShareGrow .. | .calibrationTimer .. | .chRead .. | .chReadRetry .. | .chProgSlc .. | .chProgQlc ..
  | .chFold .. | .chErase .. | .chEraseVerify .. | .chReadParam .. | .chCalibrate .. | .chDieReset .. | .chStatus .. =>
    [.pcie, .regs, .media, .arriving]
  | .dieOpEnd .. | .channelTake .. =>
    [.relief, .mortar, .pcie, .regs, .stripes, .media, .arriving, .health, .pwr]
  | .foldRound .. | .mapFlush .. | .checkpoint .. | .collection .. | .dieRebuild .. | .dieTimeout .. | .releaseComplete ..
  | .dieRetireRequest .. =>
    [.relief, .mortar, .pcie, .regs, .stripes, .media, .arriving, .pwr]
  | .slcShareShrink .. | .equivAgeRecord .. =>
    [.pcie, .regs, .media]
  | .patrol .. | .dieTest .. =>
    [.relief, .pcie, .regs, .media, .arriving, .pwr]
  | .equivAgeTick .. | .suspensionEnd .. | .channelRelease .. | .channelLend .. =>
    [.media]
  | .anchorRebuild .. =>
    [.regs, .media, .arriving]
  | .alloc .. | .bpmPoolLowRead .. =>
    [.pcie, .bpm, .regs]
  | .free .. | .share .. | .release .. | .transfer .. =>
    [.pcie, .bpm, .regs, .arriving]
  | .freeRingRefill .. =>
    [.bpm]
  | .frameReceive .. =>
    [.relief, .clk, .cip, .codec, .mortar, .pcie, .bpm, .ports, .pairs, .regs, .store, .stripes, .refs, .jobRuns, .arriving, .pwr]
  | .frameTransmit .. | .lpiEntry .. | .lldpReceive .. | .pfcReceive .. | .linkDown .. | .linkUp .. | .lldpAgeOut ..
  | .pfcXoffRepeat .. =>
    [.pcie, .ports, .regs]
  | .transmitUnderrun .. | .pfcStorm .. =>
    [.pcie, .ports, .regs, .arriving]
  | .pfcQuantaExpiry .. | .pfcIgnoreEnd .. | .portDownReport .. | .portAddressRestore .. =>
    [.ports]
  | .cmRequest .. =>
    [.relief, .pcie, .pairs, .regs]
  | .cnpReceive .. =>
    [.pcie, .pairs, .regs]
  | .rateIncrease .. =>
    [.pairs]
  | .pageEnable .. | .pageQuiesce .. | .pageBypass .. | .testStart .. | .commit .. =>
    [.relief, .clk, .cip, .codec, .mortar, .pcie, .bpm, .ptp, .ports, .pairs, .regs, .active, .wall, .store, .stripes, .refs, .syncQueue,
     .media, .units, .jobRuns, .arriving, .plinth, .health, .pwr]
  | .unitJobDrained .. | .testEnd .. =>
    [.relief, .cip, .codec, .mortar, .pcie, .bpm, .ports, .pairs, .serving, .regs, .stripes, .heldMortar, .media, .units, .jobRuns,
     .arriving, .health, .pwr, .cover]
  | .registerWrite .. =>
    [.relief, .clk, .cip, .codec, .mortar, .pcie, .bpm, .ptp, .portMode, .ports, .pairs, .serving, .start, .regs, .active, .wall, .store,
     .tileFaults, .stripes, .refs, .heldMortar, .syncQueue, .media, .units, .jobRuns, .arriving, .flash, .recorder, .plinth, .front,
     .health, .fw, .pwr, .cover]
  | .qpCreate .. =>
    [.relief, .pcie, .regs]
  | .cqDoorbell .. | .rdmaWriteDone .. =>
    [.relief, .pcie, .pairs, .pwr]
  | .unitReset .. | .restartSelf .. | .restartPeer .. | .trialTimeout .. =>
    [.relief, .clk, .cip, .codec, .mortar, .pcie, .bpm, .ptp, .portMode, .ports, .pairs, .serving, .start, .regs, .active, .wall,
     .tileFaults, .stripes, .heldMortar, .media, .units, .jobRuns, .arriving, .plinth, .health, .fw, .pwr, .cover]
  | .hlcRead .. | .pltTimeRead .. | .svcExpiryRead .. | .refusedBar0Read .. =>
    [.pcie, .bpm, .regs, .recorder]
  | .msixUnmask .. =>
    [.pcie]
  | .housekeepingHeartbeat .. =>
    [.pcie, .regs, .flash, .plinth, .fw]
  | .housekeepingLoss .. | .powerSourceChange .. | .serviceTicket .. | .serviceSessionExpiry .. | .dramUnmark ..
  | .serviceSessionClose .. =>
    [.pcie, .regs, .plinth]
  | .plinthFailed .. | .plinthTimeSet .. | .authorityKeyInstall .. =>
    [.plinth]
  | .plinthWatchdog .. =>
    [.pcie, .regs, .arriving, .flash, .recorder, .plinth, .front, .fw]
  | .pfRead .. | .pfProgram .. | .pfErase .. | .pfEraseDone .. | .pflRead .. | .pflProgram .. | .pflErase .. | .eventEntry ..
  | .recorderClear .. =>
    [.pcie, .regs, .arriving, .flash, .recorder, .plinth]
  | .pfCounterRead .. | .evrWindowLatch .. | .evrWindowAdvance .. | .evrCursorSet .. =>
    [.pcie, .regs, .recorder]
  | .pfCounterRaise .. =>
    [.pcie, .regs, .flash, .recorder]
  | .rekey .. =>
    [.cip, .pcie, .regs, .media, .flash, .plinth]
  | .requestPress .. | .touch .. | .labelPageWrite .. | .labelRefreshDone .. | .locateWrite .. | .removeReturnTicket .. =>
    [.pcie, .regs, .front]
  | .requestHold .. | .removeRequest .. | .removeCancel .. =>
    [.relief, .mortar, .pcie, .regs, .wall, .plinth, .front]
  | .removalAllowance .. =>
    [.relief, .mortar, .pcie, .regs, .arriving, .plinth, .front, .pwr]
  | .labelReturn .. | .locateAssert .. | .locateTimeout .. | .smbusStatusRead .. | .smbusAlertResponse .. | .locateRelease ..
  | .presenceBreak .. | .labelRefreshInterval .. =>
    [.front]
  | .latchOpen .. | .earlyWarningBreak .. =>
    [.relief, .clk, .cip, .codec, .mortar, .pcie, .bpm, .ptp, .portMode, .ports, .pairs, .serving, .start, .regs, .active, .wall,
     .tileFaults, .stripes, .heldMortar, .media, .units, .jobRuns, .arriving, .plinth, .front, .health, .fw, .pwr, .cover]
  | .latchClose .. =>
    [.relief, .clk, .cip, .codec, .mortar, .pcie, .bpm, .ptp, .portMode, .ports, .pairs, .serving, .start, .regs, .active, .wall,
     .tileFaults, .stripes, .heldMortar, .media, .units, .jobRuns, .arriving, .plinth, .front, .health, .pwr, .cover]
  | .presenceMake .. =>
    [.pcie, .regs, .arriving, .front, .health]
  | .stage .. | .serdesLinkTimeout .. =>
    [.pcie, .regs, .fw]
  | .settingsWrite .. =>
    [.wall, .fw]
  | .brickReset .. =>
    [.relief, .clk, .cip, .codec, .mortar, .pcie, .bpm, .ptp, .portMode, .ports, .pairs, .serving, .start, .regs, .active, .wall, .store,
     .tileFaults, .stripes, .heldMortar, .media, .units, .jobRuns, .arriving, .flash, .recorder, .plinth, .front, .health, .inA, .inB,
     .holdup, .fw, .pwr, .cover]
  | .romRecoveryEnter .. | .startTimeout .. | .crossResetClear .. | .wytheWatchdog .. =>
    [.relief, .clk, .cip, .codec, .mortar, .pcie, .bpm, .ptp, .portMode, .ports, .pairs, .serving, .start, .regs, .active, .wall,
     .tileFaults, .stripes, .heldMortar, .media, .units, .jobRuns, .arriving, .plinth, .health, .pwr, .cover]
  | .recoveryStart .. =>
    [.relief, .clk, .cip, .codec, .mortar, .pcie, .bpm, .ptp, .portMode, .ports, .pairs, .serving, .start, .regs, .active, .tileFaults,
     .stripes, .heldMortar, .media, .units, .jobRuns, .arriving, .flash, .plinth, .front, .health, .pwr, .cover]
  | .pwrdisAssert .. | .inputOutOfRange .. =>
    [.pcie, .regs, .arriving, .inA, .inB]
  | .pwrdisRelease .. | .inputReconnect .. =>
    [.inA, .inB]
  | .tempSample .. =>
    [.relief, .cip, .codec, .pcie, .bpm, .pairs, .serving, .regs, .heldMortar, .media, .units, .jobRuns, .arriving, .plinth, .health,
     .pwr, .cover]
  | .ageingMeasure .. | .healthLogRewrite .. =>
    [.health]
  | .capTest .. | .capTestRequest .. | .capTestEnd .. =>
    [.relief, .clk, .cip, .codec, .mortar, .pcie, .bpm, .ptp, .pairs, .regs, .store, .stripes, .refs, .jobRuns, .arriving, .health, .pwr]
  | .eolPrediction .. =>
    [.relief, .pcie, .regs, .arriving, .health, .pwr]
  | .hltLogSelect .. =>
    [.pcie, .regs, .health]
  | .healthSnapshot .. =>
    [.arriving]
  | .inputLoss .. =>
    [.relief, .mortar, .pcie, .bpm, .ports, .serving, .regs, .stripes, .media, .units, .arriving, .plinth, .health, .holdup, .pwr]
  | .wytheDumpDone .. =>
    [.media, .holdup]
  | .holdUpEnd .. =>
    [.relief, .clk, .cip, .codec, .mortar, .pcie, .bpm, .ptp, .portMode, .ports, .pairs, .serving, .start, .regs, .active, .wall, .store,
     .tileFaults, .stripes, .heldMortar, .media, .units, .jobRuns, .arriving, .plinth, .health, .inA, .inB, .holdup, .pwr, .cover]
  | .powerGood .. =>
    [.relief, .clk, .cip, .codec, .mortar, .pcie, .bpm, .ptp, .portMode, .ports, .pairs, .serving, .start, .regs, .active, .wall,
     .tileFaults, .stripes, .heldMortar, .media, .units, .jobRuns, .arriving, .flash, .plinth, .front, .health, .pwr, .cover]
  | .plinthRom .. =>
    [.relief, .clk, .cip, .codec, .mortar, .pcie, .bpm, .ptp, .portMode, .ports, .pairs, .serving, .start, .regs, .active, .wall,
     .tileFaults, .stripes, .heldMortar, .media, .units, .jobRuns, .arriving, .flash, .recorder, .plinth, .front, .health, .fw, .pwr,
     .cover]
  | .optionsLoad .. =>
    [.pcie, .start, .regs, .arriving, .flash, .plinth]
  | .wytheRelease .. | .dramTrain .. | .linkTrain .. | .anchorLoad .. | .wallJoin .. | .wallJoinRetry .. =>
    [.relief, .clk, .cip, .codec, .mortar, .pcie, .bpm, .ptp, .portMode, .ports, .pairs, .serving, .start, .regs, .active, .wall,
     .tileFaults, .stripes, .heldMortar, .media, .units, .jobRuns, .arriving, .flash, .plinth, .health, .pwr, .cover]
  | .imageVerify .. | .tieSync .. =>
    [.relief, .clk, .cip, .codec, .mortar, .pcie, .bpm, .ptp, .portMode, .ports, .pairs, .serving, .start, .regs, .active, .wall,
     .tileFaults, .stripes, .heldMortar, .media, .units, .jobRuns, .arriving, .flash, .plinth, .health, .fw, .pwr, .cover]
  | .settingsLoad .. =>
    [.relief, .clk, .cip, .codec, .mortar, .pcie, .bpm, .ptp, .portMode, .ports, .pairs, .serving, .start, .regs, .active, .wall, .store,
     .tileFaults, .stripes, .heldMortar, .media, .units, .jobRuns, .arriving, .flash, .plinth, .health, .fw, .pwr, .cover]
  | .tagScan .. =>
    [.relief, .clk, .cip, .codec, .mortar, .pcie, .bpm, .ptp, .portMode, .ports, .pairs, .serving, .start, .regs, .active, .wall, .store,
     .tileFaults, .stripes, .heldMortar, .media, .units, .jobRuns, .arriving, .flash, .plinth, .health, .pwr, .cover]
  | .tieSyncTimeout .. =>
    [.relief, .clk, .cip, .codec, .mortar, .pcie, .bpm, .ptp, .portMode, .ports, .pairs, .serving, .start, .regs, .active, .store,
     .tileFaults, .stripes, .refs, .heldMortar, .media, .units, .jobRuns, .arriving, .flash, .health, .fw, .pwr, .cover]
  | .serviceOpen .. =>
    [.relief, .clk, .cip, .codec, .mortar, .pcie, .bpm, .ptp, .portMode, .ports, .pairs, .serving, .start, .regs, .active, .wall, .store,
     .tileFaults, .stripes, .refs, .heldMortar, .media, .units, .jobRuns, .arriving, .flash, .plinth, .health, .fw, .pwr, .cover]
  | .clockMonitor .. | .pllUnlock .. =>
    [.relief, .cip, .codec, .pcie, .bpm, .pairs, .serving, .regs, .heldMortar, .media, .units, .jobRuns, .cover]
  | .tieLaneFail .. =>
    [.pcie, .regs, .arriving, .cover]
  | .tieHeartbeatSend .. =>
    [.pcie, .regs, .cover]
  | .tieHeartbeatLoss .. | .failedNotice .. | .crossResetDelay .. =>
    [.relief, .clk, .cip, .codec, .mortar, .pcie, .bpm, .ptp, .portMode, .ports, .pairs, .serving, .start, .regs, .active, .store,
     .tileFaults, .stripes, .refs, .heldMortar, .media, .units, .jobRuns, .arriving, .plinth, .health, .fw, .pwr, .cover]
  | .restartTimeout .. =>
    [.relief, .clk, .cip, .codec, .mortar, .pcie, .bpm, .ptp, .portMode, .ports, .pairs, .serving, .start, .regs, .active, .tileFaults,
     .heldMortar, .media, .units, .jobRuns, .arriving, .plinth, .health, .cover]
  | .handBack .. =>
    [.relief, .clk, .cip, .codec, .mortar, .pcie, .bpm, .ptp, .pairs, .regs, .store, .stripes, .refs, .media, .jobRuns, .arriving, .pwr,
     .cover]
  | .activatePlinth .. | .activateMediaTables .. | .activateSerdes .. | .activateWythe .. =>
    [.relief, .pcie, .ports, .regs, .media, .arriving, .flash, .recorder, .plinth, .front, .fw, .pwr]
  | .dramMark .. =>
    [.relief, .clk, .cip, .codec, .mortar, .pcie, .bpm, .ptp, .regs, .store, .stripes, .refs, .jobRuns, .arriving, .plinth, .pwr]
  | .epochHoldTimeout .. =>
    [.heldMortar]
  | .plinthPowerUp .. =>
    [.pcie, .regs, .arriving, .flash, .recorder, .plinth, .front, .health, .fw]
  | .lossOfEverySupply .. =>
    [.regs, .active, .recorder, .plinth, .front]
  | .plinthTrialCommit .. =>
    [.pcie, .regs, .flash, .fw]

end Sys2Proof.Machine
end

