-- ==== Sys2Proof/WellFormed.lean ====
section
/-! DEFINITION. Well-formed commands: every operand fits the width that the spec's formats and registers give it (R39, R43, R54, R207, R214,
R252, R400, R427). The meanings are total: a term that this check refuses stands for no command of the brick. -/

namespace Sys2Proof

/-- A number fits a field of `w` bits. -/
def fits (w x : Nat) : Bool := x < 2 ^ w

/-- Bytes of a fixed length. -/
def sized (n : Nat) (b : Bytes) : Bool := b.length = n

/-- The header of a Mortar message fits its fields (R207). -/
def headOk (h : MHead) : Bool := fits 16 h.src && fits 16 h.compat && fits 32 h.epoch && fits 64 h.hlc

/-- Every operand fits its field. -/
def wellFormed (i : Instr) : Bool :=
  match i with
  | .hello _ q _ => fits 10 q
  | .mapGet _ q _ => fits 10 q
  | .put _ q _ => fits 10 q
  | .putOpen _ q _ => fits 10 q
  | .putPart _ q _ => fits 10 q
  | .putClose _ q _ => fits 10 q
  | .patch _ q _ => fits 10 q
  | .punch _ q _ => fits 10 q
  | .delete _ q _ => fits 10 q
  | .get _ q _ => fits 10 q
  | .stat _ q _ => fits 10 q
  | .list _ q _ => fits 10 q
  | .batch _ q _ => fits 10 q
  | .cast _ q _ => fits 10 q
  | .castDrop _ q _ => fits 10 q
  | .outcome _ q _ => fits 10 q
  | .flush _ q _ => fits 10 q
  | .flushComplete _ id _ => fits 64 id
  | .subscribe _ q _ => fits 10 q
  | .queueReset _ q _ => fits 10 q
  | .queueClose _ q _ => fits 10 q
  | .keepalive _ q _ => fits 10 q
  | .unknownKindMessage _ q _ => fits 10 q
  | .unknownOpcode _ q _ _ => fits 10 q
  | .sendLengthNak _ q len => fits 10 q && fits 64 len
  | .rdmaInvalidRequest _ q => fits 10 q
  | .idleClose _ q => fits 10 q
  | .connectionClose _ q => fits 10 q
  | .admissionCycle _ => true
  | .admissionTimeout _ id => fits 64 id
  | .drainAt _ => true
  | .uploadDiscard _ upload => fits 64 upload
  | .outcomeRecordDiscard _ _ => true
  | .powerStateEntry => true
  | .powerStateExit => true
  | .closedTimePublish _ => true
  | .outOfSync _ => true
  | .inSyncReturn _ => true
  | .leaseLapse _ => true
  | .readAtRelease _ id => fits 64 id
  | .castReady _ => true
  | .castExpiry _ => true
  | .plannedMoveEnd p => fits 16 p
  | .payloadPullDone _ id entry _ => fits 64 id && fits 32 entry
  | .chunkCut _ id entry => fits 64 id && fits 32 entry
  | .compressJobEnd _ id chunk _ => fits 64 id && fits 32 chunk
  | .cryptJobStart _ _ _ => true
  | .cryptJobEnd _ _ _ => true
  | .ivReservationDurable _ _ ver => fits 32 ver
  | .ivReservationTimeout _ _ ver => fits 32 ver
  | .keyUnwrapDone _ _ ver => fits 32 ver
  | .keyRotation _ _ ver wrapped => fits 32 ver && sized 40 wrapped
  | .chunkAck _ h group p _ _ chunk _ => headOk h && fits 16 group && fits 16 p && fits 32 chunk
  | .chunkResend _ id chunk => fits 64 id && fits 32 chunk
  | .chunkAckTimeout _ id chunk => fits 64 id && fits 32 chunk
  | .indexPut _ h p epoch closed _ => headOk h && fits 16 p && fits 32 epoch && fits 64 closed
  | .indexAck _ h p epoch version _ => headOk h && fits 16 p && fits 32 epoch && fits 64 version
  | .rangeData _ h fragId offset length _ holder cookie _ => headOk h && fits 64 fragId && fits 64 offset && fits 64 length && fits 16 holder && fits 64 cookie
  | .fetchTimeout _ id chunk => fits 64 id && fits 32 chunk
  | .decompressJobEnd _ id chunk => fits 64 id && fits 32 chunk
  | .reverifyJobEnd _ id chunk => fits 64 id && fits 32 chunk
  | .tileFault _ _ _ _ _ _ => true
  | .form _ => true
  | .join _ => true
  | .joinRequest _ h _ => headOk h
  | .joinGrant _ h _ _ => headOk h
  | .joinReadyTimeout brick => fits 16 brick
  | .heartbeatSend _ => true
  | .heartbeat _ h _ => headOk h
  | .heartbeatReply _ h _ => headOk h
  | .armAppend _ h term leader prevIndex prevTerm commit _ => headOk h && fits 32 term && fits 16 leader && fits 64 prevIndex && fits 32 prevTerm && fits 64 commit
  | .armAppendTimer _ => true
  | .armAppendAck _ h term _ matched silent => headOk h && fits 32 term && fits 64 matched && silent.all (fits 16)
  | .armVoteReq _ h term candidate lastIndex lastTerm => headOk h && fits 32 term && fits 16 candidate && fits 64 lastIndex && fits 32 lastTerm
  | .armVote _ h term _ => headOk h && fits 32 term
  | .electionTimeout _ => true
  | .lossDelayExpiry brick => fits 16 brick
  | .removeNotice _ h _ => headOk h
  | .stateGet _ h _ version offset length => headOk h && fits 64 version && fits 64 offset && fits 64 length
  | .stateData _ h _ status version offset len total _ => headOk h && fits 32 status && fits 64 version && fits 64 offset && fits 64 len && fits 64 total
  | .epochNotice _ h epoch map bond => headOk h && fits 32 epoch && fits 64 map && fits 64 bond
  | .mortarAck _ peer _ flow ack sack _ _ _ => fits 16 peer && fits 3 flow && fits 64 ack && fits 64 sack
  | .retransmissionTimeout _ peer _ flow seq => fits 16 peer && fits 3 flow && fits 64 seq
  | .unknownTypeMessage _ h flow => headOk h && fits 3 flow
  | .partCollect _ h p epoch => headOk h && fits 16 p && fits 32 epoch
  | .partRecords _ h p epoch closed _ => headOk h && fits 16 p && fits 32 epoch && fits 64 closed
  | .partHandover _ h p epoch hlc closed => headOk h && fits 16 p && fits 32 epoch && fits 64 hlc && fits 64 closed
  | .closedTime _ h p epoch closed => headOk h && fits 16 p && fits 32 epoch && fits 64 closed
  | .castRequest _ h _ t _ => headOk h && fits 64 t
  | .castAnnounce _ h id _ t => headOk h && fits 64 id && fits 64 t
  | .castConfirm _ h id _ => headOk h && fits 64 id
  | .castDone _ h id _ t _ => headOk h && fits 64 id && fits 64 t
  | .castDropReq _ h id _ _ => headOk h && fits 64 id
  | .ptpMasterLoss _ => true
  | .ppsEdge _ => true
  | .ppsOutSecond _ => true
  | .chunkPut _ h group p _ chunk _ => headOk h && fits 16 group && fits 16 p && fits 32 chunk
  | .journalCopy _ h stripe offset lead journal _ => headOk h && fits 64 stripe && fits 64 offset && fits 16 lead && journal.all (fits 16)
  | .journalAck _ h stripe offset _ => headOk h && fits 64 stripe && fits 64 offset
  | .stripeSeal _ h stripe fill count gen digest lead _ => headOk h && fits 64 stripe && fits 32 fill && fits 32 count && fits 32 gen && sized 32 digest && fits 16 lead
  | .fragPut _ h _ _ => headOk h
  | .fragAck _ h fragId gen _ => headOk h && fits 64 fragId && fits 32 gen
  | .sealCommit _ h stripe gen => headOk h && fits 64 stripe && fits 32 gen
  | .rangeRead _ h fragId offset length _ _ cookie => headOk h && fits 64 fragId && fits 64 offset && fits 64 length && fits 64 cookie
  | .stripeListReq _ h group pos _ max => headOk h && fits 16 group && fits 6 pos && fits 16 max
  | .stripeList _ h group pos _ _ => headOk h && fits 16 group && fits 6 pos
  | .journalStateReq _ h group stripe => headOk h && fits 16 group && fits 64 stripe
  | .journalState _ h _ => headOk h
  | .lostReport _ h stripe offset length fps _ => headOk h && fits 64 stripe && fits 64 offset && fits 64 length && fps.all (sized 32)
  | .fragRelease _ h fragId holder => headOk h && fits 64 fragId && fits 16 holder
  | .sealTimer stripe => fits 64 stripe
  | .rebuildRange _ => true
  | .evacuation _ => true
  | .refDelta _ h p home group _ _ seq lwm _ => headOk h && fits 16 p && fits 16 home && fits 16 group && fits 64 seq && fits 64 lwm
  | .refAck _ h p group _ seq _ _ => headOk h && fits 16 p && fits 16 group && fits 64 seq
  | .refQuery _ h p group _ chunk => headOk h && fits 16 p && fits 16 group && fits 32 chunk
  | .refAnswer _ h p group _ chunk _ => headOk h && fits 16 p && fits 16 group && fits 32 chunk
  | .indexSyncReq _ h group offset length => headOk h && fits 16 group && fits 64 offset && fits 64 length
  | .indexSync _ h group _ offset total _ => headOk h && fits 16 group && fits 64 offset && fits 64 total
  | .stripeThin _ h stripe old new lead _ => headOk h && fits 64 stripe && fits 64 old && fits 64 new && fits 16 lead
  | .thinData _ h fragId gen _ => headOk h && fits 64 fragId && fits 32 gen
  | .thinAck _ h fragId gen _ => headOk h && fits 64 fragId && fits 32 gen
  | .thinCommit _ h stripe gen _ => headOk h && fits 64 stripe && fits 32 gen
  | .recount group => fits 16 group
  | .deltaBatchClose p group => fits 16 p && fits 16 group
  | .pendingRefAge group p _ chunk => fits 16 group && fits 16 p && fits 32 chunk
  | .garbageSweep p => fits 16 p
  | .replLink _ h _ _ => headOk h
  | .shipInterval _ => true
  | .replOffer _ h p _ _ sourceCast seq _ => headOk h && fits 16 p && fits 64 sourceCast && fits 64 seq
  | .replNeed _ h p sourceCast seq fps => headOk h && fits 16 p && fits 64 sourceCast && fits 64 seq && fps.all (sized 32)
  | .replChunk _ h p sourceCast _ _ fp iv _ => headOk h && fits 16 p && fits 64 sourceCast && sized 32 fp && sized 12 iv
  | .replStaged _ h p sourceCast seq _ => headOk h && fits 16 p && fits 64 sourceCast && fits 64 seq
  | .roundClose _ _ => true
  | .dieOpEnd _ _ => true
  | .foldRound _ => true
  | .slcShareGrow _ => true
  | .slcShareShrink _ => true
  | .mapFlush _ => true
  | .checkpoint _ => true
  | .collection _ => true
  | .patrol _ _ _ _ _ => true
  | .calibrationTimer _ => true
  | .equivAgeTick => true
  | .equivAgeRecord _ => true
  | .dieRebuild _ _ => true
  | .anchorRebuild _ => true
  | .chRead _ _ => true
  | .chReadRetry _ _ => true
  | .chProgSlc _ _ => true
  | .chProgQlc _ _ => true
  | .chFold _ _ => true
  | .chErase _ _ => true
  | .chEraseVerify _ _ => true
  | .chReadParam _ _ => true
  | .chCalibrate _ _ => true
  | .chDieReset _ _ => true
  | .chStatus _ _ => true
  | .suspensionEnd _ => true
  | .dieTimeout _ => true
  | .channelTake _ _ => true
  | .channelRelease _ _ => true
  | .channelLend _ _ => true
  | .releaseComplete _ => true
  | .alloc _ _ => true
  | .free _ requester handle cookie => fits 8 requester && fits 32 handle && fits 64 cookie
  | .share _ requester handle cookie => fits 8 requester && fits 32 handle && fits 64 cookie
  | .release _ requester handle cookie => fits 8 requester && fits 32 handle && fits 64 cookie
  | .transfer _ requester handle owner cookie => fits 8 requester && fits 32 handle && fits 8 owner && fits 64 cookie
  | .freeRingRefill _ _ => true
  | .frameReceive _ _ _ => true
  | .frameTransmit _ _ _ _ => true
  | .transmitUnderrun _ _ => true
  | .lpiEntry _ _ => true
  | .lldpSend _ _ => true
  | .lldpReceive _ _ _ _ => true
  | .pfcReceive _ _ _ => true
  | .pfcQuantaExpiry _ _ _ => true
  | .pfcStorm _ _ _ => true
  | .pfcIgnoreEnd _ _ _ => true
  | .linkDown _ _ => true
  | .linkUp _ _ => true
  | .portDownReport _ _ => true
  | .portAddressRestore _ _ => true
  | .cmRequest _ _ _ mtu _ => fits 16 mtu
  | .roceAckTimeout _ q => fits 10 q
  | .cnpReceive _ q => fits 10 q
  | .rateIncrease _ q => fits 10 q
  | .pageEnable _ _ _ => true
  | .pageQuiesce _ _ _ => true
  | .pageBypass _ _ _ => true
  | .unitJobDrained _ => true
  | .testStart _ _ _ => true
  | .testEnd _ code _ _ => fits 8 code
  | .commit _ _ _ => true
  | .evtStatusClear _ _ _ => true
  | .evtForce _ _ _ => true
  | .errCountRead _ _ => true
  | .bpmPoolLowRead _ _ _ => true
  | .pageLock _ _ _ => true
  | .registerWrite _ off size _ _ => fits 27 off && fits 16 size
  | .qpCreate _ _ => true
  | .qpDestroy _ _ => true
  | .sqDoorbell _ _ tail _ => fits 16 tail
  | .cqDoorbell _ _ head => fits 16 head
  | .unitReset _ _ _ => true
  | .restartSelf _ _ _ => true
  | .restartPeer _ _ _ => true
  | .hlcRead _ _ => true
  | .ptpTimeRead _ _ => true
  | .ptpAdj _ _ _ => true
  | .pltTimeRead _ => true
  | .svcExpiryRead _ => true
  | .hltGibRead _ _ _ => true
  | .functionLevelReset _ => true
  | .hotReset _ => true
  | .perstAssert _ => true
  | .pcieLinkLoss _ => true
  | .busMasterClear _ => true
  | .d3hotEntry _ => true
  | .d0Return _ speed width _ => fits 5 speed && fits 5 width
  | .msixUnmask _ _ => true
  | .housekeepingHeartbeat => true
  | .housekeepingLoss _ => true
  | .plinthFailed => true
  | .plinthWatchdog _ _ _ => true
  | .plinthTimeSet _ => true
  | .powerSourceChange auxA auxB vbus advert _ _ => fits 16 auxA && fits 16 auxB && fits 16 vbus && fits 16 advert
  | .pfRead addr _ => fits 24 addr
  | .pfProgram addr data _ => fits 24 addr && sized 32 data
  | .pfErase addr => fits 24 addr
  | .pfEraseDone _ => true
  | .pfCounterRead _ => true
  | .pfCounterRaise _ _ => true
  | .pflRead _ step corrected => fits 3 step && fits 2 corrected
  | .pflProgram _ _ => true
  | .pflErase _ => true
  | .eventEntry => true
  | .evrWindowLatch _ => true
  | .evrWindowAdvance _ => true
  | .evrCursorSet _ _ => true
  | .recorderClear _ => true
  | .rekey _ => true
  | .requestPress _ => true
  | .requestHold => true
  | .removeRequest _ _ => true
  | .removeCancel _ _ => true
  | .removalAllowance _ stripe _ => fits 64 stripe
  | .touch => true
  | .labelPageWrite _ _ => true
  | .labelReturn => true
  | .labelRefreshDone => true
  | .locateAssert _ => true
  | .locateWrite _ _ => true
  | .locateTimeout => true
  | .latchOpen => true
  | .latchClose => true
  | .earlyWarningBreak => true
  | .presenceMake slotA slotB => fits 6 slotA && fits 6 slotB
  | .serviceTicket _ => true
  | .serviceSessionExpiry _ => true
  | .stage _ comp mask _ _ => fits 4 comp && fits 2 mask
  | .settingsWrite _ _ => true
  | .keyspacePolicy _ _ => true
  | .brickReset _ _ _ _ => true
  | .romRecoveryEnter _ => true
  | .recoveryStart _ => true
  | .smbusStatusRead _ => true
  | .smbusAlertResponse _ => true
  | .pwrdisAssert _ => true
  | .pwrdisRelease _ => true
  | .tempSample _ => true
  | .ageingMeasure _ => true
  | .capTest => true
  | .capTestRequest _ _ _ => true
  | .capTestEnd cap esr => fits 16 cap && fits 16 esr
  | .eolPrediction => true
  | .healthLogRewrite => true
  | .hltLogSelect _ _ _ => true
  | .hltLogRead _ _ => true
  | .healthSnapshot => true
  | .inputOutOfRange _ mv => fits 16 mv
  | .inputReconnect _ mv => fits 16 mv
  | .inputLoss => true
  | .wytheDumpDone _ => true
  | .holdUpEnd => true
  | .powerGood slotA slotB => fits 6 slotA && fits 6 slotB
  | .plinthRom _ _ _ => true
  | .optionsLoad => true
  | .wytheRelease _ _ => true
  | .dramTrain _ _ _ => true
  | .linkTrain _ lanes ports _ => fits 5 lanes && ports.all (fits 3)
  | .imageVerify _ _ _ => true
  | .settingsLoad _ _ _ _ ports => ports.all (fits 3)
  | .anchorLoad _ _ _ => true
  | .tagScan _ _ _ _ => true
  | .tieSync _ => true
  | .tieSyncTimeout _ => true
  | .wallJoin _ => true
  | .wallJoinRetry _ => true
  | .serviceOpen _ => true
  | .startTimeout => true
  | .clockMonitor _ ppm => fits 15 ppm.natAbs
  | .pllUnlock _ => true
  | .tieLaneFail lanes => fits 5 lanes
  | .tieHeartbeatSend _ => true
  | .tieHeartbeatLoss _ => true
  | .failedNotice _ => true
  | .crossResetDelay => true
  | .crossResetClear => true
  | .restartTimeout _ => true
  | .handBack => true
  | .wytheWatchdog _ => true
  | .activatePlinth _ _ _ _ => true
  | .activateMediaTables _ => true
  | .activateSerdes _ => true
  | .serdesLinkTimeout => true
  | .activateWythe _ _ _ => true
  | .trialTimeout => true
  | .dieTest _ _ result _ => fits 8 result
  | .dieRetireRequest _ _ => true
  | .dramMark _ _ channel _ => fits 16 channel
  | .dramUnmark _ _ => true
  | .requestIdDiscard _ _ => true
  | .rdmaWriteDone _ q => fits 10 q
  | .epochHoldTimeout _ => true
  | .lldpAgeOut _ _ => true
  | .pfcXoffRepeat _ _ _ _ => true
  | .ppsEdgeMissing _ => true
  | .plinthPowerUp auxA auxB vbus advert _ _ _ _ _ _ _ slotA slotB => fits 16 auxA && fits 16 auxB && fits 16 vbus && fits 16 advert && fits 6 slotA && fits 6 slotB
  | .lossOfEverySupply => true
  | .locateRelease _ => true
  | .presenceBreak => true
  | .labelRefreshInterval => true
  | .serviceSessionClose _ => true
  | .removeReturnTicket _ seconds => fits 32 seconds
  | .authorityKeyInstall _ _ => true
  | .wallSettingsChange _ _ => true
  | .plinthTrialCommit => true
  | .refusedBar0Read _ off size => fits 27 off && fits 16 size

end Sys2Proof
end

