-- ==== Sys2Proof/Certificates/Slice0/Obligations.lean ====
section
/-! DEFINITION. The statements for the provers. Where a statement says that a command completes, it says of which state and what
the next state holds; a value that the spec leaves open is a free value in it. -/

namespace Sys2Proof

open Sys2Proof.Machine

/-- The command answers a next state, and the next state is as said. -/
def Runs (i : Instr) (s : State) (p : State → Prop) : Prop := ∃ t, exec i s = .next t ∧ p t

/-- The row of an opcode's message. -/
def reliefRow : Opcode → Wy → Nat → Msg → Instr
  | .hello => .hello | .mapGet => .mapGet | .put => .put | .putOpen => .putOpen | .putPart => .putPart | .putClose => .putClose
  | .patch => .patch | .punch => .punch | .delete => .delete | .get => .get | .stat => .stat | .list => .list | .batch => .batch
  | .cast => .cast | .castDrop => .castDrop | .outcome => .outcome | .flush => .flush | .subscribe => .subscribe

/-- The message of a command arrives on an awake brick, passes every check of arrival, and no FLUSH of its queue stands before it. -/
def arrives (op : Opcode) (w : Wy) (q : Nat) (m : Msg) (x : Queue) (s : State) : Prop :=
  s.takesMessages w q = true ∧ s.pwr.ps = 0 ∧ ((s.noteCapsule w q true).wy w).relief.queue q = some x
    ∧ (s.noteCapsule w q true).screen w x op m = none
    ∧ (∀ c ∈ (s.wy w).relief.cmds, c.id < (s.wy w).relief.nextCmd)
    ∧ ∀ c ∈ (s.wy w).relief.cmds, c.q = x.idx → c.op = .flush → c.suppressed = true

/-- The record of the command that a message brings. -/
def broughtBy (op : Opcode) (w : Wy) (q : Nat) (m : Msg) (x : Queue) (s : State) : Cmd := (s.noteCapsule w q true).newCmd w x op m

/-- A change stands in the log that the brick holds. -/
def logged (t : State) (c : ArmChange) : Prop := ∃ e ∈ t.wall.arm.log, e.change = c

/-- The row of a chisel routine's request. -/
def chiselRow : Routine → Wy → ChReq → Instr
  | .read => .chRead | .readRetry => .chReadRetry | .progSlc => .chProgSlc | .progQlc => .chProgQlc | .fold => .chFold
  | .erase => .chErase | .eraseVerify => .chEraseVerify | .readParam => .chReadParam | .calibrate => .chCalibrate
  | .dieReset => .chDieReset | .status => .chStatus

/-- A read of a page's register reaches it, with its effect (R401, R402). -/
def readArrives (src : AccSrc) (p : Page) (s : State) : Prop :=
  match src with
  | .bar0 w => (s.wy w).pcie.linkUp = true ∧ pageWy p ≠ some w.peer ∧ (isPlinthPage p = true → s.plinthOk w = true)
  | .tile w => s.running w = true ∧ pageWy p ≠ some w.peer ∧ (isPlinthPage p = true → s.plinthOk w = true)
  | .plinth => s.plinth.up = true

/-- A write of a page's register reaches it (R401, R402, R408). -/
def writeArrives (src : AccSrc) (p : Page) (off : Nat) (s : State) : Prop :=
  readArrives src p s ∧ ∀ w, src = .bar0 w → s.rfld p PAGE_LOCK 0 0 = 0 ∨ off = EVT_STATUS

end Sys2Proof

section Statements

open Sys2Proof Sys2Proof.Machine

/-- A step runs the command at the front of the queue on the state with the rest of the queue. -/
def Obligations.StepTakesFront : Prop :=
  ∀ (c : Instr) (rest : List Instr) (s : State), s.pending = c :: rest → step s = exec c { s with pending := rest }

/-- No command stops the brick: every command and every step answers a next state, a step's queue being the old one without its front; what
the brick has put out stays put out, and neither time nor the counter of free values runs back (R5, R9; log 5). -/
def Obligations.EveryStepCompletes : Prop :=
  (∀ (i : Instr) (s : State), Runs i s (fun t => t.pending = s.pending ∧ s.out <+: t.out ∧ s.now ≤ t.now ∧ s.fresh ≤ t.fresh))
  ∧ ∀ s : State, ∃ t, step s = .next t ∧ t.pending = s.pending.tail ∧ s.out <+: t.out ∧ s.now ≤ t.now ∧ s.fresh ≤ t.fresh

/-- Every step keeps the register file and the active values of shadowed registers in canonical form. -/
def Obligations.RegistersStayCanonical : Prop :=
  ∀ s t : State, s.canon → step s = .next t → t.canon

/-- The register file and the active values are in canonical form after reset. -/
def Obligations.ResetIsCanonical : Prop := State.reset.canon ∧ State.reset.pending = [] ∧ State.reset.out = []

/-! ### Relief -/

/-- A command whose message passes every check of arrival, of a request id that is neither recorded nor running, of a time that is
closed and of a partition that is not paused, and whose condition does not fail at once, waits for admission (R44, R85, R106). -/
def Obligations.CommandsWaitForAdmission : Prop :=
  ∀ (op : Opcode) (w : Wy) (q : Nat) (m : Msg) (x : Queue) (s : State),
    let c := broughtBy op w q m x s
    arrives op w q m x s → op ≠ .flush → op ≠ .subscribe → (isRead op = true → capFlag m.cap 2 = false) → s.pausing = false →
    ((isWrite op || isCast op) = true →
      s.keptOutcome op m.cap.keyspace m.cap.requestId = none ∧ s.ridRunning m.cap.keyspace m.cap.requestId c.id w = false) →
    s.earlyFails c = false →
    Runs (reliefRow op w q m) s (fun t =>
      (t.wy w).relief.cmds = (s.wy w).relief.cmds ++ [{ c with phase := .waiting }]
        ∧ (t.wy w).relief.nextCmd = (s.wy w).relief.nextCmd + 1 ∧ t.out = s.out ∧ t.store = s.store)

/-- On a RoCEv2 queue a FLUSH with nothing before it completes at once with OK (R103), and a SUBSCRIBE sets the queue's event mask at
once and completes with OK (R82, R89). -/
def Obligations.FlushAndSubscribeAtOnce : Prop :=
  ∀ (w : Wy) (q : Nat) (m : Msg) (x : Queue) (p : Nat) (g : BitVec 128) (s : State), x.transport = .roce p g →
    (arrives .flush w q m x s → (∀ c ∈ (s.wy w).relief.cmds, c.q ≠ x.idx) → (∀ u ∈ (s.wy w).relief.unsealed, u.1 ≠ x.idx) →
      Runs (.flush w q m) s (fun t => .toClient w q (completionOf (broughtBy .flush w q m x s) .ok .none 0 0 0) ∈ t.out))
    ∧ (arrives .subscribe w q m x s →
      Runs (.subscribe w q m) s (fun t =>
        .toClient w q (completionOf (broughtBy .subscribe w q m x s) .ok .none 0 0 0) ∈ t.out
          ∧ ∃ y, (t.wy w).relief.queue q = some y ∧ y.mask = BitVec.ofNat 9 m.cap.aux.toNat))

/-- The events of Relief queues on RoCEv2 connections: a FLUSH whose stripes have sealed completes (R103); a QUEUE_RESET raises the
epoch, leaves no unsuppressed command and is acknowledged (R87, R91); a QUEUE_CLOSE is acknowledged and closes the queue (R95); a
KEEPALIVE is acknowledged (R50); messages of unknown KIND, OPCODE or control code are refused (R43, R50, R59). -/
def Obligations.QueueMessagesAnswered : Prop :=
  ∀ (w : Wy) (q : Nat) (m : Msg) (x : Queue) (p : Nat) (g : BitVec 128) (s : State), (s.wy w).relief.queue q = some x →
    x.transport = .roce p g → s.holdup = none → s.pwr.ps = 0 →
    (∀ (id : Nat) (sealed : List Nat) (c : Cmd), (s.wy w).relief.cmd id = some c → c.q = q → c.op = .flush → c.phase = .flushing →
      c.suppressed = false →
      (s.modRelief w (fun r => { r with unsealed := r.unsealed.filter (fun u => !sealed.contains u.2) })).flushReady w c = true →
      Runs (.flushComplete w id sealed) s (fun t => .toClient w q (completionOf c .ok .none 0 0 0) ∈ t.out))
    ∧ (x.st = .opened → x.dma = 0 → x.acks = [] → controlFault 1 m = none →
      Runs (.queueReset w q m) s (fun t =>
        .toClient w q (.controlAck (nextEpoch x.epoch) m.cap.requestId 1) ∈ t.out
          ∧ (∃ y, (t.wy w).relief.queue q = some y ∧ y.epoch = nextEpoch x.epoch ∧ y.st = .opened)
          ∧ ∀ c ∈ (t.wy w).relief.cmds, c.q = q → c.suppressed = true))
    ∧ (x.st = .opened → x.dma = 0 → x.acks = [] → controlFault 2 m = none →
      Runs (.queueClose w q m) s (fun t =>
        .toClient w q (.controlAck (nextEpoch x.epoch) m.cap.requestId 2) ∈ t.out ∧ .disconnect w q ∈ t.out
          ∧ (t.wy w).relief.queue q = none))
    ∧ (x.st = .opened → x.acks = [] → controlFault 3 m = none →
      Runs (.keepalive w q m) s (fun t => t.out = s.out ++ [.toClient w q (.controlAck x.epoch m.cap.requestId 3)]))
    ∧ (∀ b : Bytes, x.st ≠ .closing → kindOf b ≠ 1 → kindOf b ≠ 2 →
      Runs (.unknownKindMessage w q b) s (fun t => t.out = s.out ++ [.toClient w q (.completion x.epoch (capTag (capsuleOf b))
        .badFormat 0 .unknownKind (capsuleOf b).requestId 0 0)]))
    ∧ (x.st ≠ .closing → checkLength m = none → checkEpoch x m = none → checkTag (s.wy w).relief [] q m = none →
      Runs (.unknownOpcode w q false m) s (fun t =>
        t.out = s.out ++ [.toClient w q (.completion x.epoch (capTag m.cap) .badFormat 0 .unknownOpcode m.cap.requestId 0 0)]))
    ∧ (x.st ≠ .closing → controlFault 0 m = some .unknownOpcode →
      Runs (.unknownOpcode w q true m) s (fun t =>
        t.out = s.out ++ [.toClient w q (.completion x.epoch 0 .badFormat 0 .unknownOpcode m.cap.requestId 0 0)]))

/-- What ends a RoCEv2 queue, and what moves its commands on: a SEND of a wrong length and a wrong RDMA request are answered with the
invalid-request NAK and close the connection (R39, R40); 60 s without a capsule and a close by the client end the queue (R51, R96); an
acknowledged RDMA WRITE is counted off (R91); a command that waits too long is refused (R107); a held read proceeds (R121). -/
def Obligations.QueueEventsAct : Prop :=
  ∀ (w : Wy) (q : Nat) (x : Queue) (p : Nat) (g : BitVec 128) (s : State), (s.wy w).relief.queue q = some x → x.transport = .roce p g →
    (∀ len : Nat, len < 64 ∨ 5184 < len →
      Runs (.sendLengthNak w q len) s (fun t => .nak w q ∈ t.out ∧ .disconnect w q ∈ t.out ∧ (t.wy w).relief.queue q = none))
    ∧ Runs (.rdmaInvalidRequest w q) s (fun t => .nak w q ∈ t.out ∧ .disconnect w q ∈ t.out ∧ (t.wy w).relief.queue q = none)
    ∧ (x.lastCapsule + 60000000000 ≤ s.now →
      Runs (.idleClose w q) s (fun t => .disconnect w q ∈ t.out ∧ (t.wy w).relief.queue q = none))
    ∧ Runs (.connectionClose w q) s (fun t => (t.wy w).relief.queue q = none)
    ∧ (x.acks = [] → Runs (.rdmaWriteDone w q) s (fun t => (t.wy w).relief.queue q = some { x with dma := x.dma - 1 }))
    ∧ (∀ (id : Nat) (c : Cmd), (s.wy w).relief.cmd id = some c → c.q = q → c.suppressed = false → s.holdup = none →
      c.phase = .waiting → c.waitFrom + s.afld (.rlf w) RLF_ADMIT_CTRL 9 0 * 1000000 < s.now →
      Runs (.admissionTimeout w id) s (fun t => .toClient w q (completionOf c .busyRetry .admission 0 0 s.free) ∈ t.out))
    ∧ (∀ (id : Nat) (c : Cmd) (n : Nat), (s.wy w).relief.cmd id = some c → c.phase = .heldTime → keyedPart c.op c.cap c.key = some n →
      s.holdsTime w n c.castTime = false → s.checkTime w c.op c.cap n = none →
      Runs (.readAtRelease w id) s (fun t => (t.wy w).relief.cmd id = some { c with phase := .waiting, waitFrom := s.now }))

/-- An admission cycle lets the oldest waiting command of a class in: with a HELLO alone waiting, the reply is placed in the client's
buffer, the queue is open to further commands and the HELLO completes with OK (R60, R61, R106). -/
def Obligations.AdmissionRunsHello : Prop :=
  ∀ (w : Wy) (c : Cmd) (x : Queue) (p : Nat) (g : BitVec 128) (s : State), (s.wy w).relief.cmds = [c] → c.op = .hello →
    c.phase = .waiting → c.suppressed = false → 256 ≤ c.cap.length.toNat → (s.wy w).relief.queue c.q = some x → x.transport = .roce p g →
    s.holdup = none →
    Runs (.admissionCycle w) s (fun t =>
      .toClient w c.q (completionOf c .ok .none 0 0 256) ∈ t.out
        ∧ (∃ b, .place w c.q c.cap.bufAddr.toNat c.cap.bufRkey.toNat b ∈ t.out ∧ b.length = 256)
        ∧ (∃ y, (t.wy w).relief.queue c.q = some y ∧ y.helloDone = true) ∧ (t.wy w).relief.cmds = [])

/-- Uploads and outcome records age: an upload open for 24 h is discarded (R65); a record older than the retention keeps its request id
alone, and that is forgotten after one further period (R101). -/
def Obligations.RecordsAge : Prop :=
  ∀ (w : Wy) (s : State),
    (∀ u ∈ (s.wy w).relief.uploads, (∀ v ∈ (s.wy w).relief.uploads, v.id = u.id → v = u) → u.openedAt + 86400000000000 ≤ s.now →
      Runs (.uploadDiscard w u.id) s (fun t => ∀ v ∈ (t.wy w).relief.uploads, v.id ≠ u.id))
    ∧ (∀ o ∈ s.store.outcomes, o.st ≠ .idOnly → o.since + s.wall.settings.retainS * 1000000000 ≤ s.now →
      Runs (.outcomeRecordDiscard o.keyspace o.requestId) s (fun t => { o with st := .idOnly, since := s.now } ∈ t.store.outcomes))
    ∧ (∀ o ∈ s.store.outcomes, o.st = .idOnly → o.since + s.wall.settings.retainS * 1000000000 ≤ s.now →
      Runs (.requestIdDiscard o.keyspace o.requestId) s (fun t => o ∉ t.store.outcomes))

/-! ### Chunks, jobs and keys -/

/-- The write path: payload bytes are gathered in the window and mark their operation pulled once it has them all (R153); a chunk is cut
by the gear hash and fingerprinted with the keyspace's salt (R136, R139); a compressed form is kept only under the 15/16 rule and the chunk
is queued for encryption (R143, R157); an acknowledged chunk is placed (R152), an unacknowledged one is sent again after 20 ms and fails the
write after 2 s (R152). -/
def Obligations.WritePathAdvances : Prop :=
  ∀ (w : Wy) (id n : Nat) (c : Cmd) (s : State), (s.wy w).relief.cmd id = some c → c.phase = .running →
    (∀ (o : WriteOp) (data : Bytes) (p : Nat × Nat × Nat), c.ops[n]? = some o → o.op ≠ .patch →
      (s.wy w).relief.pulls.find? (fun p => p.1 = id && p.2.1 = n) = some p → data.length = o.asked - o.data.length →
      Runs (.payloadPullDone w id n data) s (fun t => ∃ d o2, (t.wy w).relief.cmd id = some d ∧ d.ops[n]? = some o2
        ∧ o2.data = o.data ++ data ∧ o2.pulled = decide (o.length ≤ (o.data ++ data).length)))
    ∧ (∀ (o : WriteOp) (tile : Fin 128), s.codecTile w .hash (.cut id n) = some tile → c.ops[n]? = some o →
      (o.op ≠ .patch ∨ cutEnds o (nextCut o (o.cutPos + cutLen s.gear 0 0 (newBytes c n o o.cutPos (cutHi o)))) = true) →
      Runs (.chunkCut w id n) s (fun t => ∃ d k, (t.wy w).relief.cmd id = some d ∧ d.wchunks = c.wchunks ++ [k]
        ∧ k.start = o.cutPos
        ∧ k.data = (newBytes c n o o.cutPos (cutHi o)).take (cutLen s.gear 0 0 (newBytes c n o o.cutPos (cutHi o)))
        ∧ k.fp = sha256 (s.salt c.cap.keyspace ++ k.data)))
    ∧ (∀ (x : WChunk) (out : Bytes) (tile : Fin 128), s.codecTile w .compress (.writeChunk id n) = some tile → c.wchunks[n]? = some x →
      compressedForm x.codec x.data out = true →
      Runs (.compressJobEnd w id n out) s (fun t => ∃ d y, (t.wy w).relief.cmd id = some d ∧ d.wchunks[n]? = some y
        ∧ y.stage = .compressed ∧ y.body = (if 16 * out.length ≤ 15 * x.data.length then out else x.data)
        ∧ ∃ j ∈ (t.wy w).cip.jobs, j.ref = .writeChunk id n ∧ j.encrypt = true ∧ j.st = .queued ∧ j.input = y.body))
    ∧ (∀ (x : WChunk) (h : MHead) (g p : Nat) (place : Place), s.hears w = true → h.epoch = s.wall.epoch →
      s.writeOf w p c.cap.requestId = some c → c.wchunks[n]? = some x → x.stage = .sent → x.dropped = false →
      c.ops.all (fun o => o.cutDone) = false → (∀ d ∈ (s.wy w).relief.cmds, d.op ≠ .putClose) →
      Runs (.chunkAck w h g p .new c.cap.requestId n place) s (fun t => ∃ d y, (t.wy w).relief.cmd id = some d
        ∧ d.wchunks[n]? = some y ∧ y.stage = .acked ∧ y.place = some place))
    ∧ (∀ (x : WChunk) (b : Nat), c.wchunks[n]? = some x → x.stage = .sent → x.dropped = false → x.lastSent + 20000000 ≤ s.now →
      s.leadOf (groupOf s.wall.settings.groups x.fp) = some b → s.holdup = none →
      (b = s.myId ∨ creditUnits x.body.length ≤ creditTo (s.wy w).mortar b (wyOfGroup (groupOf s.wall.settings.groups x.fp))) →
      Runs (.chunkResend w id n) s (fun t =>
        .mortar w b (wyOfGroup (groupOf s.wall.settings.groups x.fp))
          (.chunkPut (groupOf s.wall.settings.groups x.fp) (cmdPart c) c.cap.requestId n x.body) ∈ t.out))
    ∧ (∀ (x : WChunk) (q : Queue) (p : Nat) (g : BitVec 128), c.wchunks[n]? = some x → x.stage = .sent → x.dropped = false →
      x.firstSent + 2000000000 ≤ s.now → c.suppressed = false → s.holdup = none →
      (s.wy w).relief.queue c.q = some q → q.transport = .roce p g →
      Runs (.chunkAckTimeout w id n) s (fun t => .toClient w c.q (completionOf c .unavailable .none 0 0 0) ∈ t.out))

/-- The read path: a range that a data member has not answered within 20 ms is read degraded, from other members (R160); a decompressed
chunk of the record's plain length is delivered, and re-verified where the read asks for it, else it ends the GET (R71, R144, R164); a chunk
whose fingerprint matches ends the GET with its version and length (R70, R164). -/
def Obligations.ReadPathAdvances : Prop :=
  ∀ (w : Wy) (id n : Nat) (c : Cmd) (x : RChunk) (s : State), (s.wy w).relief.cmd id = some c → c.phase = .running →
    c.rchunks[n]? = some x →
    (∀ (a : RangeAsk) (l : List RangeAsk), x.stage = .fetching → x.asked = [a] → a.pending = false → a.at_ + 20000000 ≤ s.now →
      s.holdup = none → s.moreAsks (segsOf s.wall.settings.fragBytes x.ent.place) [] x.parts (x.bad ++ [a.idx]) (fun l => l) = some l →
      Runs (.fetchTimeout w id n) s (fun t =>
        (∃ d y, (t.wy w).relief.cmd id = some d ∧ d.rchunks[n]? = some y ∧ y.stage = .degraded ∧ y.asked = l
          ∧ y.bad = x.bad ++ [a.idx])
        ∧ ∀ b ∈ l, ∀ g, (segsOf s.wall.settings.fragBytes x.ent.place)[b.seg]? = some g →
          .mortar w b.brick (wyOfGroup (fragGroup g.1))
            (.rangeRead (stripeOf g.1 + b.idx) g.2.1 g.2.2 b.pending .client (readCookie id n)) ∈ t.out))
    ∧ (∀ (d : Bytes) (tile : Fin 128), s.codecTile w .decompress (.readChunk id n) = some tile →
      decodeBytes (ofLe (sliceBytes x.body 16 1)) x.data = some d → d.length = ofLe (sliceBytes x.body 12 4) →
      (s.wantsVerify c = true →
        Runs (.decompressJobEnd w id n) s (fun t => (∃ e y, (t.wy w).relief.cmd id = some e ∧ e.rchunks[n]? = some y
          ∧ y.stage = .verifying ∧ y.data = d)
          ∧ ∀ (v : ValueVer) (lo hi : Nat), c.op = .get → c.readVer = some v → lo = max x.ent.start c.cap.offset.toNat →
            hi = min (x.ent.start + d.length) (getEnd c v) → lo < hi →
            .place w c.q (c.cap.bufAddr.toNat + (lo - c.cap.offset.toNat)) c.cap.bufRkey.toNat
              (sliceBytes (maskHoles v.holes x.ent.start d) (lo - x.ent.start) (hi - lo)) ∈ t.out))
      ∧ (∀ (v : ValueVer) (q : Queue) (p : Nat) (g : BitVec 128), s.wantsVerify c = false → c.rchunks = [x] → c.op = .get →
        c.readVer = some v → c.suppressed = false → s.holdup = none → (s.wy w).relief.queue c.q = some q → q.transport = .roce p g →
        Runs (.decompressJobEnd w id n) s (fun t => .toClient w c.q (completionOf c .ok .none 0 v.time v.length) ∈ t.out)))
    ∧ (∀ (v : ValueVer) (tile : Fin 128) (q : Queue) (p : Nat) (g : BitVec 128), s.codecTile w .hash (.readChunk id n) = some tile →
      c.rchunks = [x] → c.op = .get → c.readVer = some v → sha256 (s.salt c.cap.keyspace ++ x.data) = x.ent.fp →
      c.suppressed = false → s.holdup = none → (s.wy w).relief.queue c.q = some q → q.transport = .roce p g →
      Runs (.reverifyJobEnd w id n) s (fun t => .toClient w c.q (completionOf c .ok .none 0 v.time v.length) ∈ t.out))

/-- Crypt jobs and keys: a job whose key is in the cache takes a context slot of a tile with it, and an encryption its IV from the slot's
counter (R168, R173, R174); a sealed chunk carries its record header and the ciphertext and tag that AES-256-GCM gives (R157, R167, R169); a
durable reservation raises RESERVED_THRU, and one that is not durable after 100 ms is given up (R174); an unwrapped key enters the cache and
its jobs go on (R182); a new version becomes CURRENT and the previous one DECRYPT_ONLY (R180). Of
the codec jobs, a decompressed chunk that is to be re-verified takes the hash unit, and one that matches stands ready for its PATCH (R67,
R164).
Where the spec is silent the model's choices are of logs 203 to 205. -/
def Obligations.CryptJobsAndKeys : Prop :=
  ∀ (w : Wy) (s : State),
    (∀ (j : CryptJob) (x : KeySlot) (e : CachedKey) (tile : Fin 128),
      (s.wy w).cip.jobs.find? (fun i => i.ref = j.ref && i.st = .queued) = some j →
      j.encrypt = false → j.input.length ≤ 1048576 → j.aad.length ≤ 2048 →
      slotOf (s.wy w).cip j.keyspace j.ver = some x → x.st ≠ .retired → s.tileTakes w tile j = true →
      cachedKey (s.wy w).cip j.keyspace j.ver = some e →
      Runs (.cryptJobStart w j.ref tile) s (fun t => ∃ i ∈ (t.wy w).cip.jobs, i.ref = j.ref ∧ i.st = .running tile ∧ i.key = e.key))
    ∧ (∀ (j : CryptJob) (x : KeySlot) (e : CachedKey) (tile : Fin 128),
      (s.wy w).cip.jobs.find? (fun i => i.ref = j.ref && i.st = .queued) = some j →
      j.encrypt = true → j.input.length ≤ 1048576 → j.aad.length ≤ 2048 →
      slotOf (s.wy w).cip j.keyspace (curKey (s.wy w).cip j.keyspace) = some x → x.st = .current → x.locked = false →
      s.tileTakes w tile { j with ver := curKey (s.wy w).cip j.keyspace } = true →
      cachedKey (s.wy w).cip j.keyspace (curKey (s.wy w).cip j.keyspace) = some e →
      (s.wy w).cip.domainValid = true → (s.wy w).cip.resvLost = false → x.next < x.thru → x.next < counterEnd →
      Runs (.cryptJobStart w j.ref tile) s (fun t =>
        (∃ i ∈ (t.wy w).cip.jobs, i.ref = j.ref ∧ i.st = .running tile ∧ i.key = e.key
          ∧ i.iv = some (ivOf (s.wy w).cip.domain w tile.val x.next))
          ∧ ∃ y, slotOf (t.wy w).cip j.keyspace x.ver = some y ∧ y.next = x.next + 1))
    ∧ (∀ (j : CryptJob) (id n : Nat) (c : Cmd) (x : WChunk) (b : Nat), j.ref = .writeChunk id n → j.encrypt = true →
      (s.wy w).cip.jobs.find? (fun i => i.ref = j.ref && isRunning i) = some j →
      (s.wy w).relief.cmd id = some c → c.wchunks[n]? = some x → x.stage = .compressed → x.dropped = false →
      s.leadOf (groupOf s.wall.settings.groups x.fp) = some b → b = s.myId → s.holdup = none →
      Runs (.cryptJobEnd w j.ref none) s (fun t =>
        .mortar w b (wyOfGroup (groupOf s.wall.settings.groups x.fp)) (.chunkPut (groupOf s.wall.settings.groups x.fp) (cmdPart c)
          c.cap.requestId n (recordHeader c.cap.keyspace (gcmSeal j.key (j.iv.getD []) j.aad j.input).1.length x.data.length x.codec j.ver
            (j.iv.getD []) x.fp ++ (gcmSeal j.key (j.iv.getD []) j.aad j.input).1
            ++ padTo 16 (gcmSeal j.key (j.iv.getD []) j.aad j.input).2)) ∈ t.out))
    ∧ (∀ (ks : BitVec 32) (ver : Nat) (x : KeySlot) (at_ : Nat), slotOf (s.wy w).cip ks ver = some x → x.resvAt = some at_ →
      Runs (.ivReservationDurable w ks ver) s (fun t => ∃ y, slotOf (t.wy w).cip ks ver = some y ∧ y.thru = x.thru + resvBlock)
      ∧ (at_ + 100000000 ≤ s.now →
        Runs (.ivReservationTimeout w ks ver) s (fun t => ∃ y, slotOf (t.wy w).cip ks ver = some y ∧ y.resvAt = none)))
    ∧ (∀ (j : CryptJob) (x : KeySlot) (key : Bytes), j ∈ (s.wy w).cip.jobs → j.st = .waitKey →
      slotOf (s.wy w).cip j.keyspace j.ver = some x → keyUnwrap (kekFor w (s.wy w).cip x) x.wrapped = some key →
      Runs (.keyUnwrapDone w j.keyspace j.ver) s (fun t =>
        cachedKey (t.wy w).cip j.keyspace j.ver = some { keyspace := j.keyspace, ver := j.ver, key := key }
        ∧ ∀ i ∈ (t.wy w).cip.jobs, i.st = .waitKey → ¬(i.keyspace = j.keyspace ∧ i.ver = j.ver)))
    ∧ (∀ (ks : BitVec 32) (ver : Nat) (wrapped key : Bytes), takesVersion (s.wy w).cip (s.wall.st ≠ .member) ks ver = true →
      keyUnwrap (s.wy w).cip.wallKey wrapped = some key →
      (∀ x ∈ (s.wy w).cip.slots, x.keyspace = ks → x.ver < ver) →
      Runs (.keyRotation w ks ver wrapped) s (fun t =>
        (∃ y, slotOf (t.wy w).cip ks ver = some y ∧ y.st = .current ∧ y.wrapped = keyWrap (s.wy w).cip.kek key)
        ∧ ∀ z ∈ (t.wy w).cip.slots, z.keyspace = ks → z.ver ≠ ver → z.st ≠ .current))
    ∧ (∀ (id n : Nat) (c : Cmd) (x : RChunk) (d : Bytes) (tile : Fin 128), (s.wy w).relief.cmd id = some c → c.rchunks[n]? = some x →
      (s.codecTile w .decompress (.readChunk id n) = some tile → decodeBytes (ofLe (sliceBytes x.body 16 1)) x.data = some d →
        d.length = ofLe (sliceBytes x.body 12 4) → s.wantsVerify c = true →
        Runs (.decompressJobEnd w id n) s (fun t => ∃ j ∈ (t.wy w).codec, j.unit = .hash ∧ j.ref = .readChunk id n))
      ∧ (s.codecTile w .hash (.readChunk id n) = some tile → sha256 (s.salt c.cap.keyspace ++ x.data) = x.ent.fp → c.op ≠ .get →
        (∀ o, c.ops[x.entry]? = some o → o.cutDone = true) →
        Runs (.reverifyJobEnd w id n) s (fun t => ∃ e y, (t.wy w).relief.cmd id = some e ∧ e.rchunks[n]? = some y
          ∧ y.stage = .delivered ∧ y.data = x.data)))

/-! ### Time, leases and partitions -/

/-- The clocks of a wythe: a drain takes effect once its time is reached (R98); the closed time is published (R120); an offset plus
uncertainty above ε ÷ 2 makes the wythe OUT_OF_SYNC with its FAULT event, and 10 s at or below ε ÷ 4 bring it back (R114, R535); a lapsed
lease is reported (R127). -/
def Obligations.ClockEventsAct : Prop :=
  ∀ (w : Wy) (s : State),
    (∀ d : Drain, (s.wy w).relief.drain = some d → d.at_ ≤ s.hybrid w →
      Runs (.drainAt w) s (fun t => (t.wy w).relief.drain = some { d with reached := true } ∧ t.out = s.out))
    ∧ Runs (.closedTimePublish w) s (fun t => (t.wy w).clk.closed = s.closedNow w)
    ∧ ((s.wy w).clk.inSync = true → s.wall.settings.epsUs * 1000 < 2 * s.clockSum w →
      Runs (.outOfSync w) s (fun t => (t.wy w).clk.inSync = false ∧ ∃ e ∈ t.arriving, e.code = 0x0C01 ∧ e.severity = 2))
    ∧ (∀ at_ : Nat, 4 * s.clockSum w ≤ s.wall.settings.epsUs * 1000 → (s.wy w).clk.quietSince = some at_ → at_ + 10000000000 ≤ s.now →
      Runs (.inSyncReturn w) s (fun t => (t.wy w).clk.inSync = true))
    ∧ (s.wall.leaseUntil ≤ s.now →
      Runs (.leaseLapse w) s (fun t => bitOf (t.reg (.mtr w) EVT_STATUS) MTR_EVT_LEASE_LOST = true))

/-- The messages of partitions at the wythe that holds them (R116, R120, R128-R130): a record is stored, and acknowledged
once the mirror of its window holds it; an acknowledgement is counted towards its commit, and a refusal fences the partition; a closed time is kept; records are collected and
handed to the new home; a hand-over raises its clock and closed time. -/
def Obligations.PartitionMessagesAct : Prop :=
  ∀ (w : Wy) (h : MHead) (p epoch closed : Nat) (s : State), s.hears w = true → h.epoch = s.wall.epoch →
    (∀ r : IdxRec, s.memberEpoch p ≤ epoch →
      (s.canPlace (s.holder p) = true →
        Runs (.indexPut w h p epoch closed r) s (fun t =>
          .mortar (s.holder p) h.src h.srcW (.indexAck p epoch r.version true) ∈ t.out
            ∧ (∃ x ∈ t.store.replRecs, x.p = p ∧ x.content = r ∧ x.epoch = epoch)
            ∧ closed ≤ (tableGet? t.store.standbyClosed p).getD 0))
      ∧ (s.canPlace (s.holder p) = false → (∀ x ∈ s.store.replRecs, x.p = p → x.content ≠ r) →
        Runs (.indexPut w h p epoch closed r) s (fun t => t.out = s.out
          ∧ (s.holder p, .index p epoch r (some (h.src, h.srcW))) ∈ t.store.unplaced
          ∧ ∃ x ∈ t.store.replRecs, x.p = p ∧ x.content = r ∧ x.epoch = epoch)))
    ∧ (∀ (version : Nat) (k : Commit) (e : PartEntry), s.partEntry p = some e → e.epoch = epoch → k.acks = [] →
      (s.wy w).relief.commits = [k] → k.part = p → k.version = version → 2 ≤ k.segments →
      Runs (.indexAck w h p epoch version true) s (fun t => (t.wy w).relief.commits = [{ k with acks := [(h.src, 1)] }]))
    ∧ (∀ (version : Nat) (x : PartSt), s.partSt p = some x →
      Runs (.indexAck w h p epoch version false) s (fun t => ∃ y, t.partSt p = some y ∧ y.fenced = true))
    ∧ (s.memberEpoch p ≤ epoch →
      Runs (.closedTime w h p epoch closed) s (fun t =>
        (tableGet? t.store.standbyClosed p).getD 0 = max closed ((tableGet? s.store.standbyClosed p).getD 0)))
    ∧ Runs (.partCollect w h p epoch) s (fun t =>
        .mortar w h.src h.srcW (.partRecords p (epoch - 1) (max ((tableGet? s.store.standbyClosed p).getD 0) (s.closedOf p))
          ((s.store.replRecs.filter (fun r => r.p = p)).map (fun r => r.content))) ∈ t.out ∧ epoch ≤ t.memberEpoch p)
    ∧ (∀ (recs : List IdxRec) (x : PartSt) (b : Nat), s.partSt p = some x → x.opened = false → h.src ∈ x.collect →
      b ∈ x.collect.erase h.src → s.isMember b = true →
      Runs (.partRecords w h p epoch closed recs) s (fun t => ∃ y, t.partSt p = some y ∧ y.collected = x.collected ++ recs
        ∧ y.closed = max x.closed closed))
    ∧ (∀ (x : PartSt) (hlc : Nat), s.partSt p = some x →
      Runs (.partHandover w h p epoch hlc closed) s (fun t => hlc ≤ (t.wy (s.holder p)).clk.hlc
        ∧ ∃ y, t.partSt p = some y ∧ y.closed = max x.closed closed))

/-- Casts at a home (R124): an announced time that no horizon has passed is held and confirmed; the armature's outcome completes the CAST
that waits for it. A sweep of a home partition is noted (R264). -/
def Obligations.CastsAtHome : Prop :=
  ∀ (w : Wy) (h : MHead) (s : State), s.hears w = true → h.epoch = s.wall.epoch →
    (∀ (id : Nat) (ks : BitVec 32) (at_ : Nat), (∀ x ∈ s.store.parts, s.horizonAt ks x.p ≤ at_) →
      Runs (.castAnnounce w h id ks at_) s (fun t => (id, ks, at_) ∈ t.store.holds
        ∧ .mortar w h.src h.srcW (.castConfirm id true) ∈ t.out))
    ∧ (∀ (v : Wy) (id at_ : Nat) (c : Cmd) (q : Queue) (p : Nat) (g : BitVec 128), c ∈ (s.wy v).relief.cmds → c.phase = .armature →
      (∀ (u : Wy) (d : Cmd), d ∈ (s.wy u).relief.cmds → d.phase = .armature → d.cap.requestId = c.cap.requestId →
        c.arrived < d.arrived ∨ u = v ∧ d = c) →
      c.op = .cast → c.suppressed = false → (s.wy v).relief.queue c.q = some q → q.transport = .roce p g →
      Runs (.castDone w h id .ok at_ c.cap.requestId) s (fun t => .toClient v c.q (completionOf c .ok .none 0 at_ id) ∈ t.out))
    ∧ (∀ p : Nat, s.isHome p = true → Runs (.garbageSweep p) s (fun t => tableGet? t.refs.swept p = some s.now))

/-! ### The wall and its armature -/

/-- The replicated log (R197, R198): the leader sends ARM_APPEND to every other member; a follower takes the entries of its term's leader
and acknowledges them, and refuses those of an older term; the leader notes what a member acknowledges. -/
def Obligations.LogIsReplicated : Prop :=
  ∀ (w : Wy) (h : MHead) (s : State), s.holdup = none →
    (s.wall.arm.role = .leader →
      Runs (.armAppendTimer w) s (fun t => ∀ m ∈ t.wall.arm.members, m ≠ t.myId →
        ∃ prev prevTerm commit l, .mortar .w0 m .w0 (.armAppend t.wall.arm.term t.myId prev prevTerm commit l) ∈ t.out))
    ∧ (∀ (term leader prevTerm commit : Nat) (l : List LogEntry), s.running w = true → s.wall.arm.term ≤ term →
      Runs (.armAppend w h term leader 0 prevTerm commit l) s (fun t =>
        (∃ last silent, .mortar w h.src h.srcW (.armAppendAck term true last silent) ∈ t.out) ∧ t.wall.arm.lastAppend = s.now
          ∧ ∀ e ∈ l, ∃ x ∈ t.wall.arm.log, x.index = e.index ∧ x.term = e.term))
    ∧ (∀ (term leader prev prevTerm commit : Nat) (l : List LogEntry), s.running w = true → term < s.wall.arm.term →
      Runs (.armAppend w h term leader prev prevTerm commit l) s (fun t => t.wall = s.wall
        ∧ ∃ last silent, .mortar w h.src h.srcW (.armAppendAck s.wall.arm.term false last silent) ∈ t.out))
    ∧ (∀ (matched : Nat) (silent : List Nat), s.running w = true → s.wall.arm.role = .leader →
      Runs (.armAppendAck w h s.wall.arm.term true matched silent) s (fun t => tableGet? t.wall.arm.matched h.src = some matched))

/-- Elections (R198): a member that has heard no leader stands for the next term, votes for itself and asks the others; a member votes for a
candidate of a newer term whose log is at least as far; a candidate counts the votes of its term, and with a quorum of them leads. -/
def Obligations.ElectionsElect : Prop :=
  ∀ (w : Wy) (h : MHead) (s : State), s.holdup = none →
    (s.wall.arm.role = .follower ∨ s.wall.arm.role = .candidate → s.wall.arm.lastAppend + 1000000000 ≤ s.now →
      Runs (.electionTimeout w) s (fun t => t.wall.arm.term = s.wall.arm.term + 1 ∧ t.wall.arm.votedFor = some s.myId
        ∧ ∀ m ∈ s.wall.arm.members, m ≠ s.myId →
          .mortar w m .w0 (.armVoteReq (s.wall.arm.term + 1) s.myId (lastIndex s.wall.arm) (lastTerm s.wall.arm)) ∈ t.out))
    ∧ (∀ term candidate last lastT : Nat, s.running w = true → s.wall.arm.role ≠ .none → s.wall.arm.term < term →
      (lastTerm s.wall.arm < lastT ∨ lastTerm s.wall.arm = lastT ∧ lastIndex s.wall.arm ≤ last) →
      Runs (.armVoteReq w h term candidate last lastT) s (fun t => .mortar w h.src h.srcW (.armVote term true) ∈ t.out
        ∧ t.wall.arm.votedFor = some candidate ∧ t.wall.arm.term = term ∧ t.wall.arm.role = .follower))
    ∧ (s.running w = true → s.wall.arm.role = .candidate →
      Runs (.armVote w h s.wall.arm.term true) s (fun t => h.src ∈ t.wall.arm.votes
        ∧ (quorum s.wall.arm.members.length ≤ ((if s.wall.arm.votes.contains h.src then s.wall.arm.votes
            else s.wall.arm.votes ++ [h.src]).filter (fun v => s.wall.arm.members.contains v)).length →
          t.wall.arm.leader = some s.myId)))

/-- Forming and joining (R191-R195): a brick with no identity and a wall id forms its wall as brick 0, the leader of term 1; a joining brick
asks its contact; the leader enters a brick it admits, or answers why it does not; a grant gives the brick its id and IV domain; a brick that
is not READY in 600 s is removed. -/
def Obligations.BricksFormAndJoin : Prop :=
  ∀ (w : Wy) (h : MHead) (s : State), s.holdup = none →
    (s.running w = true → s.wall.identity = false → s.wall.settings.wallId ≠ 0 → s.wall.st = .unjoined →
      Runs (.form w) s (fun t => t.wall.identity = true ∧ t.wall.brickId = some 0 ∧ t.wall.arm.term = 1 ∧ t.wall.arm.leader = some 0))
    ∧ (s.running w = true → s.wall.st = .unjoined →
      Runs (.join w) s (fun t => t.wall.st = .joining ∧ ∃ r, .mortar w s.contact .w0 (.joinRequest r) ∈ t.out))
    ∧ (∀ r : JoinReq, s.running w = true → s.wall.arm.role = .leader → s.joinFails h.compat r = none → s.returns r = false →
      Runs (.joinRequest w h r) s (fun t => logged t (.brick (s.freeId.getD 0) .joining r.enclosure r.rack r.serial)))
    ∧ (∀ (r : JoinReq) (x : JoinResult), s.running w = true → s.wall.arm.role = .leader → s.joinFails h.compat r = some x →
      Runs (.joinRequest w h r) s (fun t => .mortar w h.src h.srcW (.joinGrant (refusedGrant x)) ∈ t.out ∧ t.wall = s.wall))
    ∧ (∀ (g : JoinGrant) (e : Nat) (r : JoinReq) (pub key : Bytes), s.running w = true → s.wall.st = .joining → g.result = .granted →
      s.wall.joinKey = some (e, r) → openGrant e r pub g = some key →
      Runs (.joinGrant w h g (some pub)) s (fun t => t.wall.brickId = some g.id ∧ t.wall.identity = true
        ∧ (∀ v, (t.wy v).cip.wallKey = key)
        ∧ (∀ v, if g.substitute then (t.wy v).cip.nextDomain = some g.ivDomain
            else (t.wy v).cip.domain = g.ivDomain ∧ (t.wy v).cip.domainValid = true)
        ∧ ∀ o : StateObj, .mortar w h.src w (.stateGet o 0 0 1048576) ∈ t.out))
    ∧ (∀ (brick : Nat) (b : BrickRec), s.brick brick = some b → b.st = .joining → b.ready = false →
      b.grantedAt + 600000000000 ≤ s.now → s.wall.arm.role = .leader →
      Runs (.joinReadyTimeout brick) s (fun t => logged t (.removed brick)))

/-- Membership (R202-R205, R127): a running wythe of the wall sends its heartbeat to every armature member; a member answers it and notes
when it came; a quorum of answers renews the lease from the time of sending; the leader enters a brick as LOST after the loss delay, and as
LEAVING on its notice; a planned move that ends is entered in the map. -/
def Obligations.MembershipIsKept : Prop :=
  ∀ (w : Wy) (h : MHead) (s : State), s.holdup = none →
    (s.running w = true → s.inWall = true → s.wall.stopping = false →
      Runs (.heartbeatSend w) s (fun t => (t.wy w).mortar.hbSeq = (s.wy w).mortar.hbSeq + 1
        ∧ ∀ m ∈ s.wall.arm.members, .mortar w m .w0 (.heartbeat (s.hbBody ((s.wy w).mortar.hbSeq + 1))) ∈ t.out))
    ∧ (∀ (b : HbBody) (x : BrickRec), s.running w = true → s.wall.arm.role = .follower → s.brick h.src = some x →
      Runs (.heartbeat w h b) s (fun t =>
        (∃ r : HbReply, .mortar w h.src h.srcW (.heartbeatReply r) ∈ t.out ∧ r.seq = b.seq ∧ r.notMember = false)
          ∧ ∃ y, t.brick h.src = some y ∧ y.lastHb = s.now))
    ∧ (∀ (r : HbReply) (y : HbSent), s.running w = true → r.notMember = false → s.wall.hb = [y] → y.w = w → y.seq = r.seq →
      s.wall.arm.members = [h.src] →
      Runs (.heartbeatReply w h r) s (fun t => y.sentAt + 400000000 ≤ t.wall.leaseUntil ∧ t.wall.wallClosed = r.wallClosed))
    ∧ (∀ (brick : Nat) (b : BrickRec), s.brick brick = some b → b.st = .suspect → b.removal = none →
      b.suspectAt + s.wall.settings.lossDelayS * 1000000000 ≤ s.now → s.wall.arm.role = .leader →
      Runs (.lossDelayExpiry brick) s (fun t => logged t (.brick b.id .lost b.enclosure b.rack b.serial)))
    ∧ (∀ (k : RemoveKind) (b : BrickRec), s.running w = true → s.wall.arm.role = .leader → s.brick h.src = some b → b.st = .member →
      k ≠ .cancel →
      Runs (.removeNotice w h k) s (fun t => logged t (.brick b.id .leaving b.enclosure b.rack b.serial)))
    ∧ (∀ (p : Nat) (e : PartEntry), s.wall.arm.role = .leader → s.partEntry p = some e → e.moving = true →
      Runs (.plannedMoveEnd p) s (fun t => ∃ a b c, logged t (.partition p a b c false)))
    ∧ (∀ (p b : Nat) (x : PartSt), s.wall.arm.role ≠ .leader → s.partSt p = some x → x.moving = true → x.fenced = false →
      x.moveTo = some b → (∀ k ∈ (s.wy (s.holder p)).relief.commits, k.part ≠ p) →
      Runs (.plannedMoveEnd p) s (fun t =>
        .mortar (s.holder p) b (wyOfPart p) (.partHandover p x.epoch (s.wy (s.holder p)).clk.hlc x.closed) ∈ t.out))
    ∧ ((s.wy w).mortar.ptpRole = .slave →
      Runs (.ptpMasterLoss w) s (fun t => (t.wy w).mortar.ptpRole = .holdover ∧ (t.wy w).mortar.lostAt = some s.now))

/-- Casts at the leader (R78, R123-R126): a request enters a cast at the next number; a confirmation is counted; a cast that every home has
confirmed and the wall's closed time has reached becomes READY; one at its expiry goes; a drop request takes a READY cast away. -/
def Obligations.CastRegistryActs : Prop :=
  ∀ (w : Wy) (h : MHead) (s : State), s.wall.arm.role = .leader →
    (∀ (ks : BitVec 32) (at_ : Nat) (rid : BitVec 64), s.hears w = true → h.epoch = s.wall.epoch →
      (∀ o ∈ s.store.armOutcomes, ¬ (o.keyspace = ks ∧ o.requestId = rid)) → (∀ c ∈ s.store.casts, c.requestId ≠ rid) →
      s.askRunning { keyspace := ks, requestId := rid, brick := h.src, wythe := h.srcW, time := at_, drop := none } = false →
      s.castsFull ks = false →
      Runs (.castRequest w h ks at_ rid) s (fun t => logged t (.castNew s.nextCastId ks at_ h.src rid)
        ∧ s.wall.nextCast ≤ s.nextCastId ∧ ∀ c ∈ s.castsToCome, c.1 < s.nextCastId))
    ∧ (∀ (id : Nat) (c : Cast), s.hears w = true → h.epoch = s.wall.epoch → c ∈ s.store.casts → c.id = id → c.ready = false →
      (∀ d ∈ s.store.casts, d.id = id → d = c) →
      Runs (.castConfirm w h id true) s (fun t => ∃ d ∈ t.store.casts, d.id = id ∧ h.src ∈ d.confirms))
    ∧ (∀ (id : Nat) (c : Cast), s.store.casts.find? (fun c => c.id = id && !c.ready) = some c →
      (∀ b ∈ s.homeBricks, b ∈ c.confirms) → c.time ≤ s.wallClosedNow →
      Runs (.castReady id) s (fun t => logged t (.castReady id)
        ∧ logged t (.castOutcome c.keyspace c.requestId .ok c.time id .none)))
    ∧ (∀ (id : Nat) (c : Cast) (end_ : Nat), s.store.casts.find? (fun c => c.id = id && c.ready) = some c → c.expiry = some end_ →
      end_ ≤ s.hybrid .w0 → s.shipping id = false → Runs (.castExpiry id) s (fun t => logged t (.castGone id)))
    ∧ (∀ (id : Nat) (ks : BitVec 32) (rid : BitVec 64), s.hears w = true → h.epoch = s.wall.epoch →
      (∀ o ∈ s.store.armOutcomes, ¬ (o.keyspace = ks ∧ o.requestId = rid)) →
      s.askRunning { keyspace := ks, requestId := rid, brick := h.src, wythe := h.srcW, time := 0, drop := some id } = false →
      (∃ c ∈ s.store.casts, c.id = id ∧ c.keyspace = ks ∧ c.ready = true) →
      Runs (.castDropReq w h id ks rid) s (fun t => logged t (.castGone id) ∧ logged t (.castOutcome ks rid .ok 0 0 .none)))

/-! ### Mortar and replication -/

/-- Mortar as a transport (R206-R214): acknowledgements free the packets they cover and carry credit; a packet that times out is sent again,
and breaks its flow at the last attempt; messages of unknown TYPE are acknowledged and counted; a message of an older epoch is answered with
EPOCH_NOTICE, one held 100 ms for a newer epoch is dropped; newer state is fetched range by range. Data of a range that a brick asked for
(R243, R252, R255): a fragment moved here leaves its rebuild entry, a record that a new lead takes over stands among its stripe's. -/
def Obligations.MortarCarriesMessages : Prop :=
  ∀ (w : Wy) (h : MHead) (s : State), s.hears w = true →
    (∀ (f : Flow) (ack sack credit : Nat) (ce : Bool), (s.wy w).mortar.flows = [f] → (∀ p ∈ f.unacked, p.sent = true ∧ p.seq < ack) →
      (∀ c ∈ (s.wy w).relief.cmds, ∀ x ∈ c.wchunks, x.stage ≠ .cut ∧ x.stage ≠ .encrypted) →
      Runs (.mortarAck w f.peer f.peerW f.num ack sack credit ce false) s (fun t =>
        ∃ g, (t.wy w).mortar.flows = [g] ∧ g.unacked = [] ∧ g.credit = credit ∧ g.nextSeq = f.nextSeq))
    ∧ (∀ (peer : Nat) (peerW : Wy) (flow seq : Nat) (f : Flow) (p : Packet), flowOf (s.wy w).mortar peer peerW flow = some f →
      f.unacked.find? (fun p => p.seq = seq) = some p → p.sent = true → p.acked = false → p.sentAt + s.rto w p ≤ s.now →
      Runs (.retransmissionTimeout w peer peerW flow seq) s (fun t => ∃ g, flowOf (t.wy w).mortar peer peerW flow = some g
        ∧ (p.expiries + 1 < s.afld (.mtr w) MTR_RTO_CTRL 26 22 →
          g.win = 2 ∧ ∃ x ∈ g.unacked, x.seq = seq ∧ x.sentAt = s.now ∧ x.expiries = p.expiries + 1)
        ∧ (s.afld (.mtr w) MTR_RTO_CTRL 26 22 ≤ p.expiries + 1 →
          g.broken = true ∧ g.unacked = [] ∧ bitOf (t.reg (.mtr w) EVT_STATUS) MTR_EVT_FLOW_BROKEN = true)))
    ∧ (∀ flow : Nat, Runs (.unknownTypeMessage w h flow) s (fun t =>
        (∃ rx, .mortarAck w h.src h.srcW flow rx 0 false false ∈ t.out)
          ∧ t.reg (.mtr w) MTR_CNT_UNKNOWN_TYPE = s.reg (.mtr w) MTR_CNT_UNKNOWN_TYPE + 1))
    ∧ (∀ epoch map bond : Nat, s.wall.epoch < epoch →
      Runs (.epochNotice w h epoch map bond) s (fun t => .mortar w h.src w (.stateGet .map 0 0 1048576) ∈ t.out
        ∧ .mortar w h.src w (.stateGet .bond 0 0 1048576) ∈ t.out))
    ∧ (∀ p epoch closed : Nat, h.epoch < s.wall.epoch →
      Runs (.closedTime w h p epoch closed) s (fun t => t.store = s.store
        ∧ .mortar w h.src h.srcW (.epochNotice s.wall.epoch s.store.map.version s.wall.bond.version) ∈ t.out))
    ∧ Runs (.epochHoldTimeout w) s (fun t => (∀ x ∈ t.heldMortar, x.2.1 = w → s.now < x.1 + 100000000)
        ∧ ∀ x ∈ s.heldMortar, (x.2.1 ≠ w ∨ s.now < x.1 + 100000000) → x ∈ t.heldMortar)
    ∧ (∀ version offset length : Nat, version = 0 ∨ version = s.store.map.version → offset ≤ mapLen s.store.map → 1 ≤ length →
      length ≤ 1048576 →
      Runs (.stateGet w h .map version offset length) s (fun t => .mortar w h.src h.srcW (.stateData .map 0 s.store.map.version offset
        (mapLen s.store.map) (sliceBytes (mapBytes s.store.map) offset (min length (mapLen s.store.map - offset)))) ∈ t.out))
    ∧ (∀ (obj : StateObj) (version offset length : Nat), version ≠ 0 → version ≠ s.objVersion obj →
      Runs (.stateGet w h obj version offset length) s (fun t => ∃ n,
        .mortar w h.src h.srcW (.stateData obj 1 (s.objVersion obj) offset n []) ∈ t.out))
    ∧ (∀ (obj : StateObj) (version offset len total : Nat), s.heldMortar = [] → s.syncQueue = [] →
      Runs (.stateData w h obj 0 version offset len total none) s (fun t =>
        .mortar w h.src w (.stateGet obj 0 (offset + len) 1048576) ∈ t.out))
    ∧ (∀ (obj : StateObj) (version offset len total : Nat) (x : StatePayload), s.heldMortar = [] → s.syncQueue = [] →
      Runs (.stateData w h obj 0 version offset len total (some x)) s (fun t => obj ∈ t.wall.fetched))
    ∧ (∀ (f off len holder cookie : Nat) (bytes : Bytes) (e : RebuildEnt), h.epoch = s.wall.epoch → cookie / 2 ^ 56 = 3 →
      e ∈ s.stripes.rebuild → e.fragId = f → e.upto = 0 → (fragIndex f, h.src) ∈ e.asked →
      Runs (.rangeData w h f off len .ok holder cookie bytes) s (fun t => ∀ y ∈ t.stripes.rebuild, y.fragId = f → y.upto ≠ 0))
    ∧ (∀ (f off len holder cookie : Nat) (bytes : Bytes) (r : StripeRec), h.epoch = s.wall.epoch → cookie / 2 ^ 56 = 4 →
      s.stripe (stripeOf f) = some r → (∀ e ∈ r.recs, e.1 ≠ fragIndex f * s.wall.settings.fragBytes + off) →
      Runs (.rangeData w h f off len .ok holder cookie bytes) s (fun t => ∃ y, t.stripe (stripeOf f) = some y
        ∧ (fragIndex f * s.wall.settings.fragBytes + off, bytes) ∈ y.recs))

/-- Replication to a second wall (R272-R277): the source leader offers a link where there is none and takes a replication cast at each
interval; an offer that is not sound is refused, a sound one is accepted where it has a shared secret, and a refused link goes; a home offers its
records, reads those that are needed, stages those it is offered, and seals those it is sent under a key of its own wall; an offer that is staged
is answered again; the remote leader counts the partitions that have staged a cast and commits it with the last of them.
Who is the other wall's home, and how link keys travel, are the model's (logs 30, 31, 210, 211). -/
def Obligations.ReplicationActs : Prop :=
  ∀ (w : Wy) (h : MHead) (s : State), s.hears w = true →
    (∀ (r : ReplLink) (key : Option Bytes), r.kind = .linkRefused → r.sourceWall = s.wallId ∨ r.remoteWall = s.wallId →
      Runs (.replLink w h r key) s (fun t => ∀ l ∈ t.refs.links, l.keyspace ≠ r.keyspace))
    ∧ (∀ (r : ReplLink) (key : Option Bytes), r.kind = .linkOffer → r.remoteWall = s.wallId → s.wall.arm.role = .leader →
      (∀ k ∈ s.store.keyspaces, k.id = r.keyspace → k.role = .secondary ∧ k.linkWall = r.sourceWall) →
      (linkSound r key = false →
        Runs (.replLink w h r key) s (fun t => ∃ x : ReplLink, .mortar .w0 (farPeer h.src) h.srcW (.replLink x) ∈ t.out ∧ x.kind = .linkRefused
          ∧ x.keyspace = r.keyspace ∧ t.refs.links = s.refs.links))
      ∧ (linkSound r key = true → (s.keyspace r.keyspace).isSome = true →
        Runs (.replLink w h r key) s (fun t => ∃ (e : Nat) (x : ReplLink), .mortar .w0 (farPeer h.src) h.srcW (.replLink x) ∈ t.out
          ∧ x.keyspace = r.keyspace ∧ match sharedSecret e r.ephemeral with
            | some _ => x.kind = .linkAccept ∧ x.ephemeral = publicKey e
            | none => x.kind = .linkRefused)))
    ∧ (∀ (ks : BitVec 32) (k : Keyspace), s.keyspace ks = some k → k.role = .primary → s.wall.arm.role = .leader → s.link ks = none →
      Runs (.shipInterval ks) s (fun t => ∃ (e : Nat) (r : ReplLink), .mortar .w0 (farPeer 0x8000) .w0 (.replLink r) ∈ t.out
        ∧ r.kind = .linkOffer ∧ r.keyspace = ks ∧ r.sourceWall = s.wallId ∧ r.remoteWall = k.linkWall ∧ r.ephemeral = publicKey e
        ∧ (t.link ks).any (fun l => l.secret = some e && !l.accepted) = true))
    ∧ (∀ (ks : BitVec 32) (k : Keyspace) (l : LinkRec), s.keyspace ks = some k → k.role = .primary → s.wall.arm.role = .leader →
      s.link ks = some l → l.accepted = true → l.lastShip + k.shipS * 1000000000 ≤ s.now → s.castsFull ks = false →
      Runs (.shipInterval ks) s (fun t => logged t (.castNew s.nextCastId ks (s.hybrid .w0) s.myId 0)))
    ∧ (∀ (p cast seq : Nat) (fp : Bytes) (fps : List Bytes) (x : KeyHist) (v : ValueVer) (e : RecipeEntry), fp ∈ fps →
      s.store.index = [x] → partOf x.keyspace x.key = p → x.versions = [v] → v.chunks = [e] → e.fp = fp →
      Runs (.replNeed w h p cast seq fps) s (fun t => (∃ r ∈ t.stripes.repairs, r.ent = e
          ∧ r.ship = some { p := p, sourceCast := cast, dst := farPeer h.src, dstW := h.srcW })
        ∧ ((∀ r ∈ s.stripes.repairs, r.ship ≠ some { p := p, sourceCast := cast, dst := farPeer h.src, dstW := h.srcW }) →
          ∀ g ∈ segsOf s.wall.settings.fragBytes e.place, .mortar (s.holder p) ((s.holderOf g.1).getD 0xFFFF) (wyOfGroup (fragGroup g.1))
            (.rangeRead (stripeOf g.1 + fragIndex g.1) g.2.1 g.2.2 false .repair (repairCookie + s.nextRepair)) ∈ t.out)))
    ∧ (∀ (p cast seq : Nat) (last : Bool) (ks : BitVec 32) (keys : List OfferKey) (k : Keyspace), s.isHome p = true →
      s.keyspace ks = some k → k.role = .secondary → (∀ x ∈ s.refs.staged, ¬ (x.p = p ∧ x.sourceCast = cast ∧ x.offer = seq)) →
      Runs (.replOffer w h p last ks cast seq keys) s (fun t => ∃ x ∈ t.refs.staged,
        x.p = p ∧ x.sourceCast = cast ∧ x.offer = seq ∧ x.keys = keys ∧ x.src = farPeer h.src))
    ∧ (∀ (p cast seq : Nat) (last : Bool) (ks : BitVec 32) (keys : List OfferKey) (k : Keyspace) (x : StagedRec), s.isHome p = true →
      s.keyspace ks = some k → k.role = .secondary →
      s.refs.staged.find? (fun x => x.p = p && x.sourceCast = cast && x.offer = seq) = some x → x.staged = true →
      Runs (.replOffer w h p last ks cast seq keys) s (fun t => ∃ top all_, seq ≤ top ∧
        .mortar w (farPeer h.src) h.srcW (.replStaged p cast top all_) ∈ t.out))
    ∧ (∀ (p cast plain n : Nat) (codec : Codec) (fp iv sealed_ link data : Bytes) (x : StagedRec), s.refs.staged = [x] → x.p = p →
      x.sourceCast = cast → x.staged = false → n ∈ x.need → x.asked[n]? = some fp → s.linkKey x.keyspace = some link →
      gcmOpen link iv (shipAad p cast plain (sealed_.length - 16) codec fp) (sealed_.take (sealed_.length - 16))
        (sealed_.drop (sealed_.length - 16)) = (data, true) →
      (∀ y ∈ s.refs.lands, ¬ (y.p = p ∧ y.requestId = stagedRid x ∧ y.chunk = n)) →
      Runs (.replChunk w h p cast plain codec fp iv sealed_) s (fun t => ∃ y ∈ t.refs.lands, y.p = p ∧ y.requestId = stagedRid x
        ∧ y.chunk = n ∧ y.fp = fp ∧ y.key = none ∧ ∃ j ∈ (t.wy w).cip.jobs, j.ref = .land y.n ∧ j.encrypt = true ∧ j.prio = 3
          ∧ j.keyspace = x.keyspace ∧ j.ver = 0 ∧ j.input = data))
    ∧ (∀ (p cast seq : Nat) (x : ShipRec) (l : LinkRec), s.wall.arm.role = .leader → s.refs.ships = [x] → x.sourceCast = cast →
      x.applied = false → l ∈ s.refs.links → l.keyspace = x.keyspace → l.remoteWall = s.wallId → p ∉ x.staged →
      Runs (.replStaged w h p cast seq true) s (fun t =>
        (x.staged.length + 1 < 65536 → t.refs.ships = [{ x with staged := x.staged ++ [p] }])
          ∧ (65536 ≤ x.staged.length + 1 → logged t (.castApplied s.nextCastId x.keyspace x.time cast))))

/-! ### Stripes and fragments -/

/-- The stripe journal (R20, R233-R241): a member keeps a copy and answers PLACED once the mirror is confirmed; with every copy placed, the first
writer of the record is answered NEW; a member whose image has the digest holds it for sealing; a position that is durable counts as done;
SEAL_COMMIT drops a member's copies; 50 ms after its first record a stripe is sealed; a state asked for is told, and copies that the other lacks
are sent. A brick that has learnt that it is SUSPECT takes no part in it.
When a mirror is confirmed, and when a member's copies are dropped, are the model's (logs 60, 213). -/
def Obligations.StripeJournalActs : Prop :=
  ∀ (w : Wy) (h : MHead) (s : State), s.hears w = true → h.epoch = s.wall.epoch →
    (∀ (id off lead fill count gen : Nat) (a : JAck) (journal : List Nat) (record digest : Bytes) (targets : List (Option Nat)),
      s.amSuspect = true →
      Runs (.journalCopy w h id off lead journal record) s (fun t => t.stripes = s.stripes ∧ t.out = s.out)
        ∧ Runs (.journalAck w h id off a) s (fun t => t.stripes = s.stripes ∧ t.out = s.out)
        ∧ Runs (.stripeSeal w h id fill count gen digest lead targets) s (fun t => t.stripes = s.stripes ∧ t.out = s.out))
    ∧ (∀ (id off lead : Nat) (journal : List Nat) (record : Bytes), s.amSuspect = false → s.stripe id = none →
      Runs (.journalCopy w h id off lead journal record) s (fun t =>
        (s.canPlace w = true → .mortar w h.src h.srcW (.journalAck id off .placed) ∈ t.out)
        ∧ (s.canPlace w = false → (w, .copy id off (some (h.src, h.srcW))) ∈ t.store.unplaced)
        ∧ ∃ r, t.stripe id = some r ∧ r.recs = [(off, record)] ∧ r.fill = off + record.length ∧ r.lead = lead ∧ r.journal = journal))
    ∧ (∀ (id off : Nat) (r : StripeRec) (x : StripeWait), s.amSuspect = false → s.stripe id = some r →
      (∀ j ∈ r.journal, j = h.src ∨ (off, j) ∈ r.placed) → s.copyWaits id off = false →
      r.waits.find? (fun x => x.offset = off) = some x →
      Runs (.journalAck w h id off .placed) s (fun t =>
        .mortar w x.home (wyOfPart x.p) (.chunkAck (fragGroup id) x.p .new x.requestId x.chunk x.place) ∈ t.out))
    ∧ (∀ (id fill count gen : Nat) (r : StripeRec) (targets : List (Option Nat)), s.amSuspect = false → s.stripe id = some r →
      r.lead = h.src →
      Runs (.stripeSeal w h id fill count gen (sha256 (imageOf { r with fill := fill })) r.lead targets) s (fun t =>
        .mortar w h.src h.srcW (.journalAck id 0 .sealHeld) ∈ t.out
          ∧ ∃ y, t.stripe id = some y ∧ y.st = .sealing ∧ y.closed = true ∧ y.gen = gen ∧ y.targets = targets))
    ∧ (∀ (f : Nat) (r : StripeRec), s.amSuspect = false → s.stripe (stripeOf f) = some r → r.st = .sealing → r.lead = s.myId →
      r.targets.getD (fragIndex f) none = some h.src →
      Runs (.fragAck w h f r.gen .done) s (fun t => ∃ y, t.stripe (stripeOf f) = some y ∧ fragIndex f ∈ y.done))
    ∧ (∀ (id gen : Nat) (r : StripeRec), s.stripe id = some r → r.lead ≠ s.myId → r.gen ≤ gen →
      Runs (.sealCommit w h id gen) s (fun t => t.stripe id = none))
    ∧ (∀ (id : Nat) (r : StripeRec) (l : List (Option Nat)), s.amSuspect = false → s.stripe id = some r → r.st = .opened → r.recs ≠ [] →
      r.openedAt + 50000000 ≤ s.now → r.lead = s.myId → l = ((s.walkFor (fragGroup id) []).map (fun x => x.targets)).getD [] →
      s.wall.settings.k + min s.wall.settings.m 2 ≤ targetCount l →
      Runs (.sealTimer id) s (fun t => ∃ y, t.stripe id = some y ∧ y.st = .sealing ∧ y.closed = true ∧ y.targets = l
        ∧ y.digest = sha256 (imageOf r) ∧ ∀ b ∈ r.journal, .mortar (wyOfGroup (fragGroup id)) b (wyOfGroup (fragGroup id))
          (.stripeSeal id r.fill r.recs.length y.gen y.digest s.myId (wireTargets l)) ∈ t.out))
    ∧ (∀ (group id : Nat) (r : StripeRec), r ∈ s.stripes.recs → fragGroup r.id = group → id = 0 ∨ id = r.id →
      Runs (.journalStateReq w h group id) s (fun t => ∃ j : JState, .mortar w h.src h.srcW (.journalState j) ∈ t.out ∧ j.stripe = r.id
        ∧ j.fill = r.fill ∧ j.digest = sha256 (imageOf r) ∧ j.st = r.st ∧ j.recs = r.recs.map (fun e => (e.1, e.2.length))))
    ∧ (∀ (j : JState) (r : StripeRec) (e : Nat × Bytes), s.amSuspect = false → s.stripe j.stripe = some r → r.lead = s.myId →
      j.lead = r.lead → j.st ≠ .sealed → e ∈ r.recs → (∀ x ∈ j.recs, x.1 ≠ e.1) →
      Runs (.journalState w h j) s (fun t =>
        .mortar w h.src (wyOfGroup (fragGroup r.id)) (.journalCopy r.id e.1 r.lead r.journal e.2) ∈ t.out))

/-- Fragments (R228, R236, R237, R242-R247, R249-R251, R253): a fragment for which there is room is kept, and one for which there is none is
answered FULL; a range is answered with its bytes, from the media once they are read, and as UNCORRECTABLE where it is known to be; the stripes of
a group are listed, and a position of this brick that nobody holds is queued for rebuild; the next entry of the queue is moved from its holder or
read from k others and decoded, and one that too few can give is lost; a release frees the fragment; a brick over its threshold sends one to a
spill, and marks one that no spill can take; a range that a member leaves out for 20 ms is asked of others (R160). -/
def Obligations.FragmentsAct : Prop :=
  ∀ (w : Wy) (h : MHead) (s : State), s.hears w = true → h.epoch = s.wall.epoch →
    (∀ (f : FragHead) (bytes : Bytes), s.frag f.fragId = none →
      (f.kind = .seal → f.targets.getD (fragIndex f.fragId) 0xFFFF = s.myId) →
      (s.noRoom f.kind bytes.length = false →
        Runs (.fragPut w h f bytes) s (fun t => ∃ x, t.frag f.fragId = some x ∧ x.bytes = bytes ∧ x.gen = f.gen ∧ x.digest = f.digest))
      ∧ (s.noRoom f.kind bytes.length = true →
        Runs (.fragPut w h f bytes) s (fun t => .mortar w h.src h.srcW (.fragAck f.fragId f.gen .full) ∈ t.out ∧ t.stripes = s.stripes)))
    ∧ (∀ (f off len cookie : Nat) (purpose : Purpose) (x : FragRec), s.frag f = some x → x.durable = true →
      (∀ c ∈ s.stripes.catchUp, c.1 ≠ fragGroup f) →
      ((∃ r ∈ x.bad, r.1 < off + len ∧ off < r.1 + r.2) →
        Runs (.rangeRead w h f off len false purpose cookie) s (fun t =>
          .mortar w h.src h.srcW (.rangeData f off len .uncorrectable s.myId cookie []) ∈ t.out))
      ∧ ((∀ r ∈ x.bad, ¬ (r.1 < off + len ∧ off < r.1 + r.2)) →
        (pagesOf s.media.set0 f x.gen off len = [] → pagesOf s.media.set1 f x.gen off len = [] →
          Runs (.rangeRead w h f off len false purpose cookie) s (fun t => .mortar w h.src h.srcW
            (.rangeData f off len .ok s.myId cookie (padTo len (sliceBytes x.bytes off len))) ∈ t.out))
        ∧ ((∀ u ∈ s.media.reads, u.id < s.media.nextRead) →
          Runs (.rangeRead w h f off len false purpose cookie) s (fun t =>
            (∃ u ∈ t.media.reads, u.id = s.media.nextRead ∧ u.fragId = f ∧ u.offset = off ∧ u.length = len ∧ u.dst = h.src
              ∧ u.cookie = cookie)
            ∨ ∃ st b, .mortar w h.src h.srcW (.rangeData f off len st s.myId cookie b) ∈ t.out))))
    ∧ (∀ (f off len cookie : Nat) (purpose : Purpose) (b : Bytes), s.pendingRange f off len = some b →
      Runs (.rangeRead w h f off len true purpose cookie) s (fun t =>
        .mortar w h.src h.srcW (.rangeData f off len .ok s.myId cookie b) ∈ t.out))
    ∧ (∀ (pos first max_ : Nat) (x : FragRec), s.stripes.frags = [x] → x.durable = true → first ≤ fragSeq x.fragId → 1 ≤ max_ →
      Runs (.stripeListReq w h (fragGroup x.fragId) pos first max_) s (fun t => ∃ e : ListEntry,
        .mortar w h.src h.srcW (.stripeList (fragGroup x.fragId) pos false [e]) ∈ t.out ∧ e.stripe = stripeOf x.fragId ∧ e.gen = x.gen))
    ∧ (∀ (group pos : Nat) (e : ListEntry), pos ∈ s.myPositions group → e.missing = true → s.frag (e.stripe + pos) = none →
      (∀ y ∈ s.stripes.rebuild, y.fragId ≠ e.stripe + pos) →
      Runs (.stripeList w h group pos false [e]) s (fun t => (∃ y ∈ t.stripes.rebuild, y.fragId = e.stripe + pos)
        ∧ t.stripes.catchUp = (s.stripes.catchUp.filter (fun c => !s.unreadable (some c.2))).erase (group, h.src)))
    ∧ (∀ e : RebuildEnt, s.nextRebuild w = some e →
      (s.rebuildEnd e = 0 → Runs (.rebuildRange w) s (fun t => (∃ x, t.frag e.fragId = some x ∧ x.bytes = [] ∧ x.gen = e.gen)
        ∧ ∀ y ∈ t.stripes.rebuild, ¬ (y.fragId = e.fragId ∧ y.upto = e.upto)))
      ∧ (∀ b : Nat, s.rebuildEnd e ≠ 0 → tableGet? s.stripes.detours e.fragId = some b →
        Runs (.rebuildRange w) s (fun t => .mortar w b (wyOfGroup (fragGroup e.fragId))
          (.rangeRead e.fragId 0 (s.rebuildEnd e) false .rebuild moveCookie) ∈ t.out))
      ∧ (s.rebuildEnd e ≠ 0 → tableGet? s.stripes.detours e.fragId = none →
        (s.wall.settings.k - e.got.length ≤ (s.rebuildSources e).length →
          Runs (.rebuildRange w) s (fun t => ∀ a ∈ (s.rebuildSources e).take (s.wall.settings.k - e.got.length),
            .mortar w a.2 (wyOfGroup (fragGroup e.fragId))
              (.rangeRead (stripeOf e.fragId + a.1) e.next (s.rebuildLen e) false .rebuild rebuildCookie) ∈ t.out))
        ∧ ((s.rebuildSources e).length < s.wall.settings.k - e.got.length →
          s.wall.settings.m < ((List.range (s.wall.settings.k + s.wall.settings.m)).filter (s.goneAt e)).length →
          Runs (.rebuildRange w) s (fun t => ∀ y ∈ t.stripes.rebuild, ¬ (y.fragId = e.fragId ∧ y.upto = e.upto)))))
    ∧ (∀ (f off len holder cookie : Nat) (bytes d : Bytes) (e : RebuildEnt), cookie / 2 ^ 56 = 6 →
      s.stripes.rebuild.find? (fun e => stripeOf e.fragId = stripeOf f && e.next = off && e.asked.contains (fragIndex f, h.src)) = some e →
      e.upto = 0 → s.wall.settings.k ≤ e.got.length + 1 →
      rsDecode s.wall.settings (e.got ++ [(fragIndex f, bytes)]) (fragIndex e.fragId) = some d →
      Runs (.rangeData w h f off len .ok holder cookie bytes) s (fun t =>
        (off + s.rebuildLen e < s.rebuildEnd e → ∃ y ∈ t.stripes.rebuild, y.fragId = e.fragId ∧ y.next = off + s.rebuildLen e
          ∧ y.bytes = e.bytes ++ d.take (s.rebuildLen e))
        ∧ (s.rebuildEnd e ≤ off + s.rebuildLen e → (∃ x, t.frag e.fragId = some x ∧ x.bytes = e.bytes ++ d.take (s.rebuildLen e))
          ∧ ∀ y ∈ t.stripes.rebuild, y.fragId = e.fragId → y.upto ≠ 0)))
    ∧ (∀ f holder : Nat, Runs (.fragRelease w h f holder) s (fun t => t.frag f = none))
    ∧ (∀ x : FragRec, s.mustEvacuate = true →
      s.evacOrder.find? (fun x => x.evacTo.isNone && !s.wall.unmovable.contains x.fragId) = some x →
      (∀ b : Nat, s.nextSpill x.fragId none = some b →
        Runs (.evacuation w) s (fun t => t.wall.evacuating = true ∧ t.wall.fullFlag = true ∧ ∃ f : FragHead,
          .mortar w b (wyOfGroup (fragGroup x.fragId)) (.fragPut f x.bytes) ∈ t.out ∧ f.fragId = x.fragId ∧ f.gen = x.gen ∧ f.kind = .move))
      ∧ (s.nextSpill x.fragId none = none → Runs (.evacuation w) s (fun t => t.wall.unmovable = s.wall.unmovable ++ [x.fragId])))
    ∧ (∀ (id n : Nat) (c : Cmd) (x : RChunk) (a : RangeAsk) (l : List RangeAsk), (s.wy w).relief.cmd id = some c →
      c.rchunks[n]? = some x → x.stage = .fetching → x.asked = [a] → a.pending = false → a.at_ + 20000000 ≤ s.now →
      s.moreAsks (segsOf s.wall.settings.fragBytes x.ent.place) [] x.parts (x.bad ++ [a.idx]) (fun l => l) = some l →
      Runs (.fetchTimeout w id n) s (fun t => ∃ d y, (t.wy w).relief.cmd id = some d ∧ d.rchunks[n]? = some y ∧ y.stage = .degraded
        ∧ y.asked = l))

/-! ### Reference state -/

/-- Chunks and reference deltas at the acting lead (R150, R250, R257-R262): a new chunk is entered with a pending reference and stored, a chunk
that the index holds is answered DUPLICATE; a lost chunk leaves the index, a lost range is rebuilt by its holder; a delta is applied and
acknowledged; a reference that nobody claims lapses, and an old one is asked about. While another brick copies the state, new chunks are queued
(R254). -/
def Obligations.LeadKeepsReferences : Prop :=
  ∀ (w : Wy) (h : MHead) (g : Nat) (s : State), s.leads g = true → (s.groupRec g).held = true → s.holdup = none →
    (∀ (p chunk : Nat) (rid : BitVec 64) (record : Bytes), s.running w = true → h.epoch = s.wall.epoch → (s.groupRec g).syncing ≠ [] →
      Runs (.chunkPut w h g p rid chunk record) s (fun t => t.syncQueue = s.syncQueue ++ [(g, .chunkPut w h g p rid chunk record)]
        ∧ t.refs = s.refs ∧ t.out = s.out))
    ∧ (∀ (p chunk : Nat) (rid : BitVec 64) (record : Bytes), s.running w = true → h.epoch = s.wall.epoch → (s.groupRec g).recount = false →
      (s.groupRec g).syncing = [] → (∀ r ∈ s.stripes.recs, r.waits = []) → (∀ x ∈ (s.groupRec g).seen, x.requestId ≠ rid) →
      ((∀ e ∈ (s.groupRec g).image.index, e.fp ≠ sliceBytes record 32 32) → s.groupFull g = false →
        Runs (.chunkPut w h g p rid chunk record) s (fun t =>
          (∃ e ∈ (t.groupRec g).image.index, e.fp = sliceBytes record 32 32 ∧ e.count = 0 ∧ e.place.length = record.length)
            ∧ ∃ x ∈ (t.groupRec g).image.pend, samePend h.src p rid chunk x = true))
      ∧ (∀ e : FpEntry, (s.groupRec g).image.index.find? (fun e => e.fp = sliceBytes record 32 32) = some e →
        Runs (.chunkPut w h g p rid chunk record) s (fun t =>
          .mortar w h.src h.srcW (.chunkAck g p .duplicate rid chunk e.place) ∈ t.out
            ∧ ∃ x ∈ (t.groupRec g).image.pend, samePend h.src p rid chunk x = true)))
    ∧ (∀ (stripe off len : Nat) (fp : Bytes), s.running w = true → h.epoch = s.wall.epoch → fragGroup stripe = g →
      Runs (.lostReport w h stripe off len [fp] false) s (fun t => (∀ e ∈ (t.groupRec g).image.index, e.fp ≠ fp)
        ∧ (s.health.lost.length + (s.groupRec g).image.index.length < 16384 → ∃ e ∈ t.health.lost, e.fp = fp)))
    ∧ (∀ (p home seq lwm : Nat) (e : DeltaEntry) (x : FpEntry), s.running w = true → h.epoch = s.wall.epoch →
      (s.groupRec g).recount = false → (s.groupRec g).syncing = [] → (p, seq) ∉ (s.groupRec g).image.log → (tableGet? (s.groupRec g).image.lwm p).getD 0 ≤ seq →
      e.kind = .add → (s.groupRec g).image.index.find? (fun x => x.fp = e.fp) = some x → x.place.fragId = e.fragId → x.pinned = false →
      Runs (.refDelta w h p home g false false seq lwm [e]) s (fun t =>
        .mortar w h.src h.srcW (.refAck p g .applied seq 0 []) ∈ t.out
          ∧ ∃ y ∈ (t.groupRec g).image.index, y.fp = e.fp ∧ y.count = x.count + 1))
    ∧ (∀ (p chunk : Nat) (rid : BitVec 64), s.running w = true → h.epoch = s.wall.epoch →
      Runs (.refAnswer w h p g rid chunk false) s (fun t =>
        ∀ x ∈ (t.groupRec g).image.pend, ¬ (x.p = p ∧ x.requestId = rid ∧ x.chunk = chunk)))
    ∧ (∀ (p chunk : Nat) (rid : BitVec 64) (x : PendRef) (e : PartEntry),
      (s.groupRec g).image.pend.find? (fun x => x.p = p && x.requestId = rid && x.chunk = chunk) = some x → s.partEntry p = some e →
      (∀ q ∈ (s.groupRec g).queries, q.1 = x → q.2 + 60000000000 ≤ s.now) → x.created + 60000000 * 4096 ≤ s.hybrid (wyOfGroup g) →
      Runs (.pendingRefAge g p rid chunk) s (fun t =>
        .mortar (wyOfGroup g) e.home (wyOfPart p) (.refQuery p g rid chunk) ∈ t.out))
    ∧ Runs (.recount g) s (fun t => (t.groupRec g).recount = true)

/-- References at homes and holders of the state (R247, R254, R255, R258, R260, R262): an applied batch is forgotten; a batch that is due is
sent to the acting lead; a query about no running command is answered; the state of a group is handed over and taken; a recount makes each
home end its count; a range reported lost at its holder is queued for rebuild. -/
def Obligations.HomesAndHoldersKeepReferences : Prop :=
  ∀ (w : Wy) (h : MHead) (s : State), s.hears w = true → h.epoch = s.wall.epoch →
    (∀ (p group seq missing : Nat) (found : List Nat) (b : DeltaBatch), b ∈ s.refs.deltas → b.p = p → b.seq = seq → b.sent = true →
      seq < (tableGet? s.refs.deltaSeq p).getD 0 →
      Runs (.refAck w h p group .applied seq missing found) s (fun t => ∀ x ∈ t.refs.deltas, ¬ (x.p = p ∧ x.seq = seq)))
    ∧ (∀ (b : DeltaBatch) (l : Nat), b ∈ s.refs.deltas → (b.sent = true ∨ b.firstAt + 10000000 ≤ s.now) → s.leadOf b.group = some l →
      Runs (.deltaBatchClose b.p b.group) s (fun t => ∃ lwm, .mortar (s.holder b.p) l (wyOfGroup b.group)
        (.refDelta b.p s.myId b.group b.recount b.ended b.seq lwm b.entries) ∈ t.out))
    ∧ (∀ (p group chunk : Nat) (rid : BitVec 64) (x : PartSt), s.isHome p = true → s.partSt p = some x → x.opened = true →
      (∀ v, (s.wy v).relief.cmds = []) → s.refs.staged = [] →
      Runs (.refQuery w h p group rid chunk) s (fun t => ∃ c, .mortar w h.src h.srcW (.refAnswer p group rid chunk c) ∈ t.out))
    ∧ (∀ group off len : Nat, (s.groupRec group).held = true → imageLen (s.groupRec group).image ≤ off + len →
      Runs (.indexSyncReq w h group off len) s (fun t => .mortar w h.src h.srcW
        (.indexSync group true off (imageLen (s.groupRec group).image) (some (s.groupRec group).image)
          (sliceBytes (imageBytes (s.groupRec group).image) off len)) ∈ t.out))
    ∧ (∀ (group off total : Nat) (i : GroupImage), (s.groupRec group).held = false →
      Runs (.indexSync w h group true off total (some i)) s (fun t => (t.groupRec group).held = true
        ∧ (t.groupRec group).image.index = i.index ∧ (t.groupRec group).image.pend = i.pend))
    ∧ (∀ (group : Nat) (x : PartSt), x ∈ s.store.parts → x.opened = true → x.fenced = false →
      Runs (.recount group) s (fun t => ∃ b ∈ t.refs.deltas, b.p = x.p ∧ b.group = group ∧ b.recount = true ∧ b.ended = true))
    ∧ (∀ (stripe off len : Nat) (fps : List Bytes) (x : FragRec), s.frag (stripe + off / s.wall.settings.fragBytes) = some x →
      stripeOf (stripe + off / s.wall.settings.fragBytes) = stripe → 0 < len →
      off % s.wall.settings.fragBytes + len ≤ s.wall.settings.fragBytes →
      Runs (.lostReport w h stripe off len fps true) s (fun t => ∃ y ∈ t.stripes.rebuild,
        y.fragId = stripe + off / s.wall.settings.fragBytes ∧ y.upto = off % s.wall.settings.fragBytes + len))

/-- Thinning (R266, R267): a data holder writes the next generation with its dead units as holes; a parity holder notes the data it has;
with every holder READY the lead commits; on COMMIT the next generation is served, on ABORT it is discarded. -/
def Obligations.ThinningActs : Prop :=
  ∀ (w : Wy) (h : MHead) (x : FragRec) (s : State), s.hears w = true → h.epoch = s.wall.epoch → s.stripes.frags = [x] →
    (∀ (new lead : Nat) (dead : List (Nat × List Nat)), new ≠ x.gen → x.durable = true →
      x.bytes.length ≤ s.freeCapacity + s.deleteReserve → x.thinTo = none → x.newGen = none →
      fragIndex x.fragId < s.wall.settings.k →
      Runs (.stripeThin w h (stripeOf x.fragId) x.gen new lead dead) s (fun t => ∃ y b, t.frag x.fragId = some y ∧ y.newGen =
        some (new, b, ((dead.find? (fun m => m.1 = fragIndex x.fragId)).map (fun m => m.2)).getD [])))
    ∧ (∀ (f gen : Nat) (units : List (Nat × Bytes)), stripeOf x.fragId = stripeOf f → s.wall.settings.k ≤ fragIndex x.fragId →
      x.gen < gen → fragIndex f ∉ x.thinGot →
      Runs (.thinData w h f gen units) s (fun t => ∃ y, t.frag x.fragId = some y ∧ fragIndex f ∈ y.thinGot))
    ∧ (∀ (gen : Nat) (b : Bytes) (holes : List Nat), x.newGen = some (gen, b, holes) →
      Runs (.thinCommit w h (stripeOf x.fragId) gen true) s (fun t =>
        .mortar w h.src h.srcW (.thinAck x.fragId gen .committed) ∈ t.out
          ∧ ∃ y, t.frag x.fragId = some y ∧ y.gen = gen ∧ y.bytes = b ∧ y.holes = holes ∧ y.newGen = none)
      ∧ Runs (.thinCommit w h (stripeOf x.fragId) gen false) s (fun t =>
        .mortar w h.src h.srcW (.thinAck x.fragId gen .aborted) ∈ t.out
          ∧ ∃ y, t.frag x.fragId = some y ∧ y.gen = x.gen ∧ y.bytes = x.bytes ∧ y.newGen = none))
    ∧ (∀ (f : Nat) (a : ThinRec) (d : DeadEntry), (s.groupRec (fragGroup f)).thins = [a] → a.stripe = stripeOf f → a.wait = [f] → a.commit = none →
      d ∈ (s.groupRec (fragGroup f)).image.dead → d.stripe = stripeOf f → d.thinning = true →
      Runs (.thinAck w h f (a.gen + 1) .ready) s (fun t => ∀ y ∈ s.holdersOf (stripeOf f),
        .mortar w y.2 (wyOfGroup (fragGroup f)) (.thinCommit (stripeOf f) (a.gen + 1) true) ∈ t.out))

/-! ### Media -/

/-- Every chisel request that passes the checks is accepted and counted (R344, R346); one that does not is answered with its result, and one
over a limit is held at its sender. -/
def Obligations.ChiselRequestsAccepted : Prop :=
  ∀ (rt : Routine) (w : Wy) (r : ChReq) (s : State), (∀ j ∈ s.media.jobs, j.id < s.media.nextJob) →
    (s.chFull r.channel = false → s.refuseReq w rt r = none →
      Runs (chiselRow rt w r) s (fun t => (∃ j ∈ t.media.jobs, j.id = s.media.nextJob ∧ j.req = r ∧ j.routine = rt ∧ j.w = w
          ∧ j.what = .firmware ∧ j.st ≠ .held)
        ∧ t.reg (s.crsPage r.channel) CRS_CNT_ACCEPTED = s.reg (s.crsPage r.channel) CRS_CNT_ACCEPTED + 1))
    ∧ (∀ (x : ChResult) (d : Nat), s.chFull r.channel = false → s.refuseReq w rt r = some (x, d) →
      Runs (chiselRow rt w r) s (fun t => t.media.jobs = s.media.jobs ∧ ∃ o : ChOut, .chisel w o ∈ t.out ∧ o.result = x ∧ o.detail = d
        ∧ o.routine = rt ∧ o.cookie = r.cookie))
    ∧ (s.chFull r.channel = true →
      Runs (chiselRow rt w r) s (fun t => (∃ j ∈ t.media.jobs, j.id = s.media.nextJob ∧ j.req = r ∧ j.st = .held) ∧ t.out = s.out))

/-- Operations on dies (R333, R350, R351): one that ends leaves its die and answers the firmware with its result, which is UNCORRECTABLE
of a read in a block whose write intent is open; a suspended one goes on when
no read waits for it; one over its time limit ends DIE_TIMEOUT and its die is HUNG; a calibration that is due is queued. -/
def Obligations.DieOperationsEnd : Prop :=
  ∀ s : State, (∀ j ∈ s.media.jobs, j.id < s.media.nextJob) →
    (∀ (id : Nat) (j : ChJob) (e : DieEnd), s.media.jobs.find? (fun j => j.id = id && (j.st = .running || j.st = .inSuspension)) = some j →
      Runs (.dieOpEnd id e) s (fun t => (∀ x ∈ t.media.jobs, x.id ≠ id) ∧ (j.what = .firmware → ∃ o : ChOut, .chisel j.w o ∈ t.out
        ∧ o.result = (s.asRead j e).result ∧ o.detail = e.detail ∧ o.routine = j.routine ∧ o.cookie = j.req.cookie)))
    ∧ (∀ (d : Fin 2048) (op : ChJob), s.media.jobs.find? (fun j => j.st = .suspended && reqDie j.req = d.val) = some op →
      (∀ j ∈ s.media.jobs, reqDie j.req = d.val → j.st ≠ .inSuspension ∧ j.st ≠ .queued) →
      Runs (.suspensionEnd d) s (fun t => ∃ x ∈ t.media.jobs, x.id = op.id ∧ x.st = .running))
    ∧ (∀ (id : Nat) (j : ChJob), s.media.jobs.find? (fun j => j.id = id && (j.st = .running || j.st = .inSuspension)) = some j →
      opLimit j < j.ran + (s.now - j.resumed) →
      Runs (.dieTimeout id) s (fun t => (t.die (reqDie j.req)).hung = true ∧ (∀ x ∈ t.media.jobs, x.id ≠ id)
        ∧ (j.what = .firmware → ∃ o : ChOut, .chisel j.w o ∈ t.out ∧ o.result = .dieTimeout ∧ o.cookie = j.req.cookie)))
    ∧ (∀ d : Fin 2048, (s.die d.val).calAt + 86400000000000 ≤ s.now →
      s.chFull (d.val / 32) = true ∨ (s.drivenFor (s.setWy (setOf (d.val / 32))) (d.val / 32) = true ∧ (s.die d.val).hung = false) →
      Runs (.calibrationTimer d) s (fun t => ∃ j ∈ t.media.jobs, j.routine = .calibrate ∧ reqDie j.req = d.val ∧ j.what = .calibration))

/-- Rounds, the map and its journal (R288, R295, R298, R314, R315): a round that waited long enough closes and is programmed; 16 stripes of a
row are folded; the SLC share grows and shrinks by its steps; old records are flushed as a segment; after 32 GiB of segments the whole map is
written as a checkpoint. -/
def Obligations.SetsWriteAndFold : Prop :=
  ∀ (i : Fin 2) (s : State),
    (∀ (sb : Nat) (b : SuperBlk) (r : Round), s.sb i.val sb = some b → b.rounds.find? (fun r => r.st = .filling) = some r →
      r.firstAt + s.afld (.med (s.setWy i.val)) MED_WRITE_CTRL 12 8 * 1000000 ≤ s.now →
      Runs (.roundClose i sb) s (fun t => ∃ y, t.sb i.val sb = some y ∧ ∃ q ∈ y.rounds, q.wl = r.wl ∧ q.units = r.units
        ∧ q.st = .programming ∧ q.wait = b.dies))
    ∧ (∀ (l : List FoldStripe) (e : FoldStripe) (s1 : State) (dst : SuperBlk), s.afld (.med (s.setWy i.val)) MED_WRITE_CTRL 1 1 = 1 →
      foldPick (foldable (s.set_ i.val)) = some l → l.head? = some e → s.foldDst i.val e.1.row = some (s1, dst) →
      (∀ x ∈ l, x.1.dies = dst.dies) → ((s.set_ i.val).sbs.map (fun b => b.id)).Nodup →
      (∀ b ∈ (s.set_ i.val).sbs, b.id < (s.set_ i.val).nextSb) →
      Runs (.foldRound i) s (fun t => ∃ b ∈ (t.set_ i.val).sbs, b.id = dst.id ∧ ∃ q ∈ b.rounds, q.folded = true
        ∧ q.srcs = l.map (fun e => (e.1.id, e.2.1.wl * 16 + e.2.2))))
    ∧ (∀ at_ : Nat, (s.set_ i.val).lowSince = some at_ → at_ + s.afld (.med (s.setWy i.val)) MED_SLC_TIMERS 15 0 * 1000000000 ≤ s.now →
      s.usable ≤ s.freeCapacity * 100 → (s.set_ i.val).share < s.afld (.med (s.setWy i.val)) MED_SLC_CTRL 15 8 →
      Runs (.slcShareGrow i) s (fun t => (t.set_ i.val).share =
        min (s.afld (.med (s.setWy i.val)) MED_SLC_CTRL 15 8) ((s.set_ i.val).share + 5)))
    ∧ (∀ at_ : Nat, (s.set_ i.val).idleSince = some at_ → at_ + s.afld (.med (s.setWy i.val)) MED_SLC_TIMERS 31 16 * 1000000000 ≤ s.now →
      s.afld (.med (s.setWy i.val)) MED_SLC_CTRL 7 0 < (s.set_ i.val).share →
      Runs (.slcShareShrink i) s (fun t => (t.set_ i.val).share =
        max (s.afld (.med (s.setWy i.val)) MED_SLC_CTRL 7 0) ((s.set_ i.val).share - 5)))
    ∧ (∀ r ∈ (s.set_ i.val).unflushed, r.at_ + 2000000000 ≤ s.now →
      Runs (.mapFlush i) s (fun t => ∃ g ∈ (t.set_ i.val).segs, g.num = (s.set_ i.val).nextSeg ∧ g.ckpt = false
        ∧ g.recs = (s.set_ i.val).unflushed.take 2097152))
    ∧ (34359738368 < (s.set_ i.val).deltaBytes → (s.set_ i.val).map ≠ [] →
      Runs (.checkpoint i) s (fun t => ∃ g ∈ (t.set_ i.val).segs, g.ckpt = true ∧ g.last = true ∧ (s.set_ i.val).nextSeg ≤ g.num))

/-- Upkeep of the media (R308, R323, R328, R330, R335): a superblock queued for refresh is collected; a patrol is noted, and what needed the
ladder is queued for refresh; every die ages by its minute; the ages are recorded; the rebuild of a die that no superblock holds is over; a
lost anchor copy gets its spare channel; a die that fails its test, or whose retirement is asked for, is retired (R327, R510). -/
def Obligations.UpkeepActs : Prop :=
  ∀ (i : Fin 2) (s : State),
    (∀ b : SuperBlk, (victims (s.set_ i.val)).find? (fun b => b.refresh) = some b → liveRefs (s.set_ i.val) b ≠ [] →
      (∀ c ∈ (s.set_ i.val).sbs, c.id = b.id → c = b) →
      Runs (.collection i) s (fun t => ∃ y, t.sb i.val b.id = some y ∧ y.copying = true))
    ∧ (∀ (sb attempts : Nat) (parity lost : List Nat) (b : SuperBlk), s.sb i.val sb = some b → b.closed = true →
      Runs (.patrol i sb attempts parity lost) s (fun t => ∃ y, t.sb i.val sb = some y ∧ y.patrolAt = s.now
        ∧ (s.media.cfg.refreshAt ≤ attempts → y.refresh = true)))
    ∧ Runs .equivAgeTick s (fun t => ∀ d < 2048, (t.die d).age = (s.die d).age + ageMinute (s.die d).temp)
    ∧ Runs (.equivAgeRecord i) s (fun t => (t.set_ i.val).ageAt = s.now ∧ ∃ e ∈ (t.set_ i.val).anchor, ∃ ages, e.2 = .equivAge ages)
    ∧ (∀ (d : Nat) (l : List Nat) (lost : List (Nat × Nat × Nat)), (s.set_ i.val).dieRebuild = d :: l →
      (∀ b ∈ (s.set_ i.val).sbs, d ∈ b.dies → b.stream = .slcJournal) →
      Runs (.dieRebuild i lost) s (fun t => d ∉ (t.set_ i.val).dieRebuild))
    ∧ (∀ (c at_ : Nat), (s.set_ i.val).lostAt = some at_ → s.twoAnchors i.val = false → s.spareChan i.val = some c →
      Runs (.anchorRebuild i) s (fun t => (t.set_ i.val).lostAt = none ∧ c ∈ (t.set_ i.val).rebuildCh))
    ∧ (∀ (src : AccSrc) (w : Wy), writeArrives src (.tst w) TST_CTRL s →
      (∀ result ms_ : Nat,
        ((s.chan (s.tstDie w / 32)).owner = some w →
          Runs (.dieTest src w result ms_) s (fun t => (t.die (s.tstDie w)).retired = ((s.die (s.tstDie w)).retired || decide (result ≠ 0))))
        ∧ ((s.chan (s.tstDie w / 32)).owner ≠ some w →
          Runs (.dieTest src w result ms_) s (fun t => t.die (s.tstDie w) = s.die (s.tstDie w)
            ∧ t.reg (.tst w) TST_CNT_REFUSED = s.reg (.tst w) TST_CNT_REFUSED + 1)))
      ∧ ((s.chan (s.tstDie w / 32)).owner = some w → (s.die (s.tstDie w)).retired = false →
        (s.set_ (setOf (s.tstDie w / 32))).dieRebuild = [] →
        Runs (.dieRetireRequest src w) s (fun t => (t.die (s.tstDie w)).retired = true)))

/-- The arbiter (R26, R341-R343): a channel with no owner goes to the wythe that takes it; its owner releases it, or its home wythe lends it;
a release that completes leaves it free, a loan leaves it to the peer. -/
def Obligations.ChannelsChangeHands : Prop :=
  ∀ (w : Wy) (c : Fin 64) (s : State),
    ((s.chan c.val).owner = none →
      Runs (.channelTake w c) s (fun t => (t.chan c.val).owner = some w ∧ (t.chan c.val).releasing = false))
    ∧ ((s.chan c.val).owner = some w → Runs (.channelRelease w c) s (fun t => (t.chan c.val).releasing = true
        ∧ (t.chan c.val).owner = some w))
    ∧ ((s.chan c.val).owner = some w → w = homeOf c.val →
      Runs (.channelLend w c) s (fun t => (t.chan c.val).releasing = true ∧ (t.chan c.val).lending = true))
    ∧ ((s.chan c.val).releasing = true → (s.chan c.val).mode = .home →
      (∀ j ∈ s.media.jobs, j.req.channel = c.val → j.st = .queued ∨ j.st = .held) →
      Runs (.releaseComplete c) s (fun t => (t.chan c.val).releasing = false
        ∧ ((s.chan c.val).lending = true → (t.chan c.val).owner = some (homeOf c.val).peer ∧ (t.chan c.val).mode = .lent)
        ∧ ((s.chan c.val).lending = false → (t.chan c.val).owner = none)))

/-! ### Register accesses -/

/-! ### Buffers and ports -/

/-- The buffer pool manager (R359-R369): an allocation that its pool can serve takes a free buffer; a last FREE or RELEASE frees the buffer
under its next generation; SHARE and TRANSFER count and move it; answers that waited for the cache go out with its refill; the lowest free
count is read and starts anew. -/
def Obligations.BuffersAct : Prop :=
  ∀ (w : Wy) (s : State), (∀ p ∈ (s.wy w).bpm.pools, p.waiting = []) →
    (∀ (r : BufReq) (n : Nat), poolFor r.size = some n → n < (s.wy w).bpm.pools.length → s.availTo w n r = true → 0 < (s.pool w n).cache →
      portOf r.requester < 20 →
      Runs (.alloc w [r]) s (fun t => (t.pool w n).free = (s.pool w n).free - 1 ∧ ∃ i, ∃ b ∈ (t.pool w n).bufs, b.1 = i ∧ b.2.st = 1
        ∧ b.2.owner = r.requester ∧ b.2.count = 1 ∧ .bpm w r.requester 0 (handleOf n b.2.gen i) r.cookie ∈ t.out))
    ∧ (∀ (requester handle cookie : Nat), s.bufCheck w .free requester handle = 0 →
      (bufOf (s.pool w (bits handle 31 29)) (bits handle 23 0)).count ≤ 1 →
      Runs (.free w requester handle cookie) s (fun t => .bpm w requester 0 handle cookie ∈ t.out
        ∧ (bufOf (t.pool w (bits handle 31 29)) (bits handle 23 0)).st = 0
        ∧ (t.pool w (bits handle 31 29)).free = (s.pool w (bits handle 31 29)).free + 1))
    ∧ (∀ (requester handle cookie : Nat), s.bufCheck w .release requester handle = 0 →
      Runs (.release w requester handle cookie) s (fun t => .bpm w requester 0 handle cookie ∈ t.out
        ∧ (bufOf (t.pool w (bits handle 31 29)) (bits handle 23 0)).count =
          (bufOf (s.pool w (bits handle 31 29)) (bits handle 23 0)).count - 1))
    ∧ (∀ (requester handle cookie : Nat), s.bufCheck w .share requester handle = 0 →
      Runs (.share w requester handle cookie) s (fun t => .bpm w requester 0 handle cookie ∈ t.out
        ∧ (bufOf (t.pool w (bits handle 31 29)) (bits handle 23 0)).st = 2
        ∧ (bufOf (t.pool w (bits handle 31 29)) (bits handle 23 0)).count =
          (bufOf (s.pool w (bits handle 31 29)) (bits handle 23 0)).count + 1))
    ∧ (∀ (requester handle owner cookie : Nat), s.bufCheck w (.transfer owner) requester handle = 0 →
      Runs (.transfer w requester handle owner cookie) s (fun t => .bpm w requester 0 handle cookie ∈ t.out
        ∧ (bufOf (t.pool w (bits handle 31 29)) (bits handle 23 0)).owner = owner))
    ∧ (∀ n : Fin 6, n.val < (s.wy w).bpm.pools.length → (s.pool w n.val).cache < 64 →
      Runs (.freeRingRefill w n) s (fun t => (t.pool w n.val).stalled = []
        ∧ ∀ e ∈ (s.pool w n.val).stalled, .bpm w e.1 0 e.2.1 e.2.2 ∈ t.out))
    ∧ (∀ (src : AccSrc) (n : Fin 6), n.val < (s.wy w).bpm.pools.length → readArrives src (.bpm w) s →
      Runs (.bpmPoolLowRead src w n) s (fun t => .readData src (lowOf (s.pool w n.val)) ∈ t.out ∧ lowOf (t.pool w n.val) = 0))

/-- Frames (R374-R379, R384, R385): a good frame is counted by its size; a frame whose bytes are there starts when its priority is not
paused; an underrun ends the frame and raises the threshold; PFC pauses a priority for its quanta, and a storm is ignored. -/
def Obligations.FramesAct : Prop :=
  ∀ (w : Wy) (p : Fin 4) (s : State), p.val < (s.wy w).ports.length →
    (∀ f : Frame, (s.port w p.val).linkUp = true → f.full = false → 64 ≤ f.len → f.len ≤ s.maxFrame w p.val → f.fcsOk = true →
      f.dst = .own → f.ether ∈ acceptedEther → f.vid = none → f.pay = .other → s.pfcOn w p.val f.prio = false →
      Runs (.frameReceive w p f) s (fun t =>
        t.reg (macPage w p.val) (MAC_CNT_RX_SIZE0 + 4 * sizeBin f.len) = s.reg (macPage w p.val) (MAC_CNT_RX_SIZE0 + 4 * sizeBin f.len) + 1
          ∧ t.reg (macPage w p.val) MAC_CNT_RX_UCAST = s.reg (macPage w p.val) MAC_CNT_RX_UCAST + 1))
    ∧ (∀ (f : TxFrame) (taken : Nat), (s.port w p.val).linkUp = true → f.len ≤ s.maxFrame w p.val → s.pfcOn w p.val (s.txPrio w f) = false →
      f.len ≤ f.inFifo →
      Runs (.frameTransmit w p f taken) s (fun t => (∃ x, (t.port w p.val).sending = some x ∧ x.frame = f ∧ s.now ≤ x.from_)
        ∧ .frame w p.val f.cookie (if s.afld (macPage w p.val) MAC_PFC_CTRL 0 0 = 1 then some (s.txPrio w f) else none) (s.txMark w f.kind)
            ∈ t.out))
    ∧ (∀ x : Sending, (s.port w p.val).sending = some x →
      Runs (.transmitUnderrun w p) s (fun t => (t.port w p.val).sending = none
        ∧ .txDone w p.val x.frame.cookie false true ∈ t.out
        ∧ bitOf (t.reg (macPage w p.val) EVT_STATUS) MAC_EVT_UNDERRUN = true
        ∧ (s.rfld (macPage w p.val) MAC_TX_THRESH 2 0 < 5 →
          t.rfld (macPage w p.val) MAC_TX_THRESH 2 0 = s.rfld (macPage w p.val) MAC_TX_THRESH 2 0 + 1)))
    ∧ (∀ (prio : Fin 8) (q : Nat), s.pfcOn w p.val prio.val = true → (∀ e ∈ (s.port w p.val).ignored, e.1 ≠ prio.val) → q ≠ 0 →
      Runs (.pfcReceive w p [(prio.val, q)]) s (fun t => ∃ e ∈ (t.port w p.val).paused, e.1 = prio.val
        ∧ e.2.1 = s.now + (q * 512 + s.portGbs w - 1) / s.portGbs w))
    ∧ (∀ prio : Fin 8, s.pfcOn w p.val prio.val = true → (∀ e ∈ (s.port w p.val).ignored, e.1 ≠ prio.val) →
      Runs (.pfcReceive w p [(prio.val, 0)]) s (fun t => ∀ e ∈ (t.port w p.val).paused, e.1 ≠ prio.val))
    ∧ (∀ prio : Fin 8, Runs (.pfcQuantaExpiry w p prio) s (fun t =>
        ∀ e ∈ (t.port w p.val).paused, e.1 = prio.val → s.now < e.2.1))
    ∧ (∀ prio : Fin 8, (∃ e ∈ (s.port w p.val).paused, e.1 = prio.val ∧ e.2.2 + 100000000 ≤ s.now) →
      Runs (.pfcStorm w p prio) s (fun t => (∀ e ∈ (t.port w p.val).paused, e.1 ≠ prio.val)
        ∧ (prio.val, s.now + 1000000000) ∈ (t.port w p.val).ignored
        ∧ bitOf (t.reg (macPage w p.val) EVT_STATUS) MAC_EVT_PFC_STORM = true))
    ∧ (∀ prio : Fin 8, Runs (.pfcIgnoreEnd w p prio) s (fun t =>
        ∀ e ∈ (t.port w p.val).ignored, e.1 = prio.val → s.now < e.2))
    ∧ (∀ (prio : Fin 8) (held : Nat), prio.val ∈ (s.port w p.val).xoff → s.afld (macPage w p.val) MAC_PFC_CTRL 24 16 * 1024 < held →
      Runs (.pfcXoffRepeat w p prio held) s (fun t => .pfc w p.val prio.val 0xFFFF ∈ t.out))

/-- Links and Low Power Idle (R371, R373, R380, R381): a link that is lost is counted and ends its agreement; one that comes up carries
frames; a port down for 1 s is reported until its link has held for 10 s; an idle port with an agreement enters LPI; LLDP asks for the port's
time and takes the partner's, and its age-out ends the agreement. -/
def Obligations.LinksAct : Prop :=
  ∀ (w : Wy) (p : Fin 4) (s : State), p.val < (s.wy w).ports.length →
    ((s.port w p.val).linkUp = true →
      Runs (.linkDown w p) s (fun t => (t.port w p.val).linkUp = false ∧ (t.port w p.val).agreed = false
        ∧ t.reg (macPage w p.val) MAC_CNT_LINK_DOWN = s.reg (macPage w p.val) MAC_CNT_LINK_DOWN + 1
        ∧ bitOf (t.reg (macPage w p.val) EVT_STATUS) MAC_EVT_LINK_CHANGE = true))
    ∧ ((s.port w p.val).linkUp = false → (s.wy w).portMode = 1 → s.heldWy w = false → s.unit (macPage w p.val) = .online →
      (s.ujob (macPage w p.val)).goal = none →
      Runs (.linkUp w p) s (fun t => (t.port w p.val).linkUp = true ∧ (t.port w p.val).changed = s.now
        ∧ bitOf (t.reg (macPage w p.val) EVT_STATUS) MAC_EVT_LINK_CHANGE = true))
    ∧ ((s.port w p.val).linkUp = false → (s.port w p.val).changed + 1000000000 < s.now →
      Runs (.portDownReport w p) s (fun t => (t.port w p.val).reported = true))
    ∧ ((s.port w p.val).linkUp = true → (s.port w p.val).changed + 10000000000 ≤ s.now →
      Runs (.portAddressRestore w p) s (fun t => (t.port w p.val).reported = false))
    ∧ ((∀ v n, (s.port v n).sending = none) → s.afld (macPage w p.val) MAC_LPI_CTRL 0 0 = 1 → (s.port w p.val).agreed = true →
      (s.port w p.val).linkUp = true → (s.port w p.val).lpiTx = false →
      (s.port w p.val).idleAt + (if 2 ≤ s.pwr.ps then 1 else s.afld (macPage w p.val) MAC_LPI_CTRL 19 8) * 1000 ≤ s.now →
      Runs (.lpiEntry w p) s (fun t => (t.port w p.val).lpiTx = true
        ∧ t.reg (macPage w p.val) MAC_CNT_LPI_ENTRY = s.reg (macPage w p.val) MAC_CNT_LPI_ENTRY + 1))
    ∧ ((s.port w p.val).linkUp = true →
      Runs (.lldpSend w p) s (fun t => .lldp w p.val (s.afld (macPage w p.val) MAC_LPI_TW 15 0) (s.port w p.val).twTx ∈ t.out))
    ∧ (∀ r tx : Nat, r ≤ s.afld (macPage w p.val) MAC_LPI_TW 31 16 →
      Runs (.lldpReceive w p r tx) s (fun t => (t.port w p.val).agreed = true ∧ (t.port w p.val).twRx = tx
        ∧ (t.port w p.val).twTx = max r (Config.phyMinTw (s.wy w).portMode)))
    ∧ Runs (.lldpAgeOut w p) s (fun t => (t.port w p.val).agreed = false)

/-- RoCEv2 connections and the PTP clock (R387, R388, R392, R394): a connection request to an open port of a serving wythe opens a queue; an
unacknowledged packet is sent again; RC falls with a CNP and rises without one; 1PPS edges are compared with the clock and driven from it, and
a read of the nanoseconds latches the seconds. -/
def Obligations.ConnectionsAndClockAct : Prop :=
  ∀ (w : Wy) (s : State),
    (∀ (p : Fin 4) (src : BitVec 128) (mtu m : Nat), (s.wy w).serving = true → (s.port w p.val).linkUp = true →
      ((s.offered w p.val).filter (fun m => decide (m ≤ mtu))).getLast? = some m → (s.wy w).relief.queues.length < 1024 →
      Runs (.cmRequest w p src mtu false) s (fun t => ∃ q, .cmReply w p.val (some (q, m)) ∈ t.out
        ∧ ∃ x ∈ (t.wy w).relief.queues, x.idx = q ∧ x.st = .opened ∧ x.transport = .roce m src))
    ∧ (∀ (q : Nat) (x : RocePair), s.pair w q = some x → x.retries < s.afld (.rdm w) RDM_CTRL 18 16 →
      Runs (.roceAckTimeout w q) s (fun t => .resend w q ∈ t.out ∧ ∃ y, t.pair w q = some y ∧ y.retries = x.retries + 1))
    ∧ (∀ (q : Nat) (x : RocePair), s.pair w q = some x → s.afld (.rdm w) RDM_CTRL 1 1 = 1 →
      Runs (.cnpReceive w q) s (fun t => ∃ y, t.pair w q = some y ∧ y.rate = x.rate * (1 - x.alpha / 2)
        ∧ y.alpha = x.alpha + (1 - x.alpha) / 256))
    ∧ (∀ (q : Nat) (x : RocePair), s.pair w q = some x → x.rateAt + 55000 ≤ s.now →
      Runs (.rateIncrease w q) s (fun t => ∃ y, t.pair w q = some y ∧ y.alpha = x.alpha - x.alpha / 256 ∧ y.rateAt = s.now
        ∧ y.rate = min ((1000 * s.portGbs w : Nat) : Rat) (x.rate + (s.afld (.rdm w) RDM_CNP_CTRL 25 16 : Nat))))
    ∧ (s.afld (.ptp w) PTP_PPS_CTRL 1 1 = 1 →
      Runs (.ppsEdge w) s (fun t => t.reg (.ptp w) PTP_PPS_IN_NS = word (ofSigned 32 (s.ppsOffset w)))
      ∧ Runs (.ppsEdgeMissing w) s (fun t => t.reg (.ptp w) PTP_CNT_PPS_MISS = s.reg (.ptp w) PTP_CNT_PPS_MISS + 1
        ∧ bitOf (t.reg (.ptp w) EVT_STATUS) PTP_EVT_PPS_MISS = true))
    ∧ (s.afld (.ptp w) PTP_PPS_CTRL 0 0 = 1 →
      Runs (.ppsOutSecond w) s (fun t => .pps w (s.afld (.ptp w) PTP_PPS_CTRL 15 8) ∈ t.out))
    ∧ (∀ src : AccSrc, readArrives src (.ptp w) s →
      Runs (.ptpTimeRead src w) s (fun t => .readData src (s.ptpNs w % 1000000000) ∈ t.out
        ∧ t.reg (.ptp w) PTP_TIME_SEC_LO = word (s.ptpNs w / 1000000000 % 2 ^ 32)
        ∧ t.reg (.ptp w) PTP_TIME_SEC_HI = word (s.ptpNs w / 1000000000 / 2 ^ 32 % 65536)))

/-! ### Power -/

/-- Power (R109, R110, R418, R475-R478, R480, R485, R526, R535): an input out of range, or with PWRDIS high, is disconnected and recorded; one
in range is connected again; with both lost for 50 µs hold-up begins; it ends when the wythes are done or after 100 ms, and the brick is off;
with good power a start begins; an idle brick goes one power state deeper, and returns to PS0. -/
def Obligations.PowerActs : Prop :=
  ∀ (h : Half) (s : State),
    (∀ mv : Nat, inRange12 mv = false → (s.input h).on = true →
      Runs (.inputOutOfRange h mv) s (fun t => (t.input h).on = false ∧ (t.input h).mv = mv
        ∧ (∃ e ∈ t.arriving, e.code = 0x0202 ∧ e.severity = 1)
        ∧ t.reg (.pwr (halfWy h)) PWR_CNT_INPUT_LOSS = s.reg (.pwr (halfWy h)) PWR_CNT_INPUT_LOSS + 1))
    ∧ (∀ mv : Nat, inRange12 mv = true → (s.input h).pwrdis = false →
      Runs (.inputReconnect h mv) s (fun t => (t.input h).on = true ∧ (t.input h).mv = mv))
    ∧ Runs (.pwrdisAssert h) s (fun t => (t.input h).pwrdis = true ∧ ((s.input h).on = true → (t.input h).on = false
        ∧ ∃ e ∈ t.arriving, e.code = 0x0202 ∧ e.severity = 1))
    ∧ (inRange12 (s.input h).mv = true →
      Runs (.pwrdisRelease h) s (fun t => (t.input h).pwrdis = false ∧ (t.input h).on = true))
    ∧ (s.inA.on = false → s.inB.on = false → max s.inA.at_ s.inB.at_ + 50000 ≤ s.now → s.holdup = none → s.powered = true →
      Runs .inputLoss s (fun t => (∃ x, t.holdup = some x ∧ x.at_ = s.now) ∧ t.media.dumping = true
        ∧ ∀ w, s.running w = true → (t.wy w).serving = false))
    ∧ (∀ (w : Wy) (x : HoldUp), s.holdup = some x → w ∈ x.wait → (∀ j ∈ s.media.jobs, s.payer j = w → j.st = .held) →
      Runs (.wytheDumpDone w) s (fun t => ∃ y, t.holdup = some y ∧ w ∉ y.wait))
    ∧ (∀ x : HoldUp, s.holdup = some x → (x.wait = [] ∨ x.at_ + 100000000 ≤ s.now) →
      Runs .holdUpEnd s (fun t => t.holdup = none ∧ t.cover.run0 = false ∧ t.cover.run1 = false
        ∧ ∃ e ∈ t.arriving, e.code = 0x0201 ∧ e.severity = 0))
    ∧ (∀ slotA slotB : Nat, s.plinth.up = true → s.service = false → s.holdup = none → s.powered = false → s.powerIsGood = true →
      s.plinth.recovery = false →
      Runs (.powerGood slotA slotB) s (fun t => t.plinth.startOn = true ∧ t.plinth.startNo = (s.plinth.startNo + 1) % 2 ^ 32
        ∧ t.front.slotA = slotA % 64 ∧ t.front.slotB = slotB % 64))
    ∧ (s.pwr.waking = false → s.pwr.ps < s.deepestNow →
      Runs .powerStateEntry s (fun t => t.pwr.ps = s.pwr.ps + 1 ∧ ∀ w : Wy,
        t.reg (.pwr w) (psCounter (s.pwr.ps + 1)) = s.reg (.pwr w) (psCounter (s.pwr.ps + 1)) + 1
          ∧ bitOf (t.reg (.pwr w) EVT_STATUS) PWR_EVT_STATE_CHANGE = true))
    ∧ (s.pwr.waking = true → Runs .powerStateExit s (fun t => t.pwr.ps = 0 ∧ t.pwr.waking = false))

/-! ### The Plinth -/

/-- The Plinth flash's routines (R426-R430, R434): a read gives its code words, a program writes one that is erased, an erase runs and leaves
its sector erased; a counter is read, and raised up to 512. -/
def Obligations.PlinthFlashActs : Prop :=
  ∀ s : State, s.plinth.up = true →
    (∀ (addr : Nat) (outcomes : List (Nat × Nat)) (sector : Nat), flashShape (.read addr outcomes) = some (sector, 0) →
      flashMay .firmware (.read addr outcomes) sector 0 = true → s.flash.erase = none → s.flash.waiting = [] →
      (∀ o ∈ outcomes, o.1 < 5) →
      Runs (.pfRead addr outcomes) s (fun t => ∃ step corrected, .plinthFlash 0 step corrected
        ((List.range outcomes.length).flatMap (fun k => s.codeWord (addr / 32 + k))) ∈ t.out))
    ∧ (∀ (addr : Nat) (data : Bytes) (sector : Nat), flashShape (.program addr data true) = some (sector, 1) →
      flashMay .firmware (.program addr data true) sector 1 = true → s.flash.erase = none → s.flash.waiting = [] →
      s.programmed (addr / 32) = false →
      Runs (.pfProgram addr data true) s (fun t => t.codeWord (addr / 32) = padTo 32 data ∧ .plinthFlash 0 0 0 [] ∈ t.out))
    ∧ (∀ addr : Nat, addr % 32 = 0 → addr / 4096 < 4096 → flashAllowed .firmware 2 (addr / 4096) = true → s.flash.erase = none → s.flash.waiting = [] →
      Runs (.pfErase addr) s (fun t => ∃ e, t.flash.erase = some e ∧ e.sector = addr / 4096 ∧ e.by_ = .firmware))
    ∧ (∀ e : FlashErase, s.flash.erase = some e → e.by_ = .firmware → s.flash.waiting = [] → s.recorder.queue = [] →
      s.recorder.clearing = none → s.recorder.renew = [] →
      Runs (.pfEraseDone true) s (fun t => t.flash.erase = none ∧ (∀ x ∈ t.flash.words, x.1 / 128 ≠ e.sector)
        ∧ .plinthFlash 0 0 0 [] ∈ t.out))
    ∧ (∀ n : Nat, n < 8 → Runs (.pfCounterRead n) s (fun t => .plinthFlash 0 0 0 (leBytes 4 (s.counter n)) ∈ t.out))
    ∧ (∀ n v : Nat, n < s.flash.counters.length → n < 8 → v ≤ 512 →
      Runs (.pfCounterRaise n v) s (fun t => t.counter n = max v (s.counter n) ∧ .plinthFlash 0 0 0 [] ∈ t.out))

/-- The banks of PFL and EVR (R443, R446, R451): a request of a bank runs and shows its result; a read of the first window word latches the
entry at the cursor, a read of the last moves past it, and acknowledges a CRITICAL entry read whole by BAR0 or the Plinth's side; a write of the low half sets the cursor. -/
def Obligations.PlinthBanksAct : Prop :=
  ∀ (src : AccSrc) (s : State), bankOf src < s.recorder.banks.length →
    (writeArrives src .pfl PFL_REQ s → (s.bank (bankOf src)).addr % 32 = 0 → (s.bank (bankOf src)).addr < 2 ^ 24 → s.flash.erase = none →
      s.flash.waiting = [] →
      (∀ step corrected : Nat, step < 5 → flashAllowed (.bank (bankOf src)) 0 ((s.bank (bankOf src)).addr / 4096) = true →
        Runs (.pflRead src step corrected) s (fun t => (t.bank (bankOf src)).data = s.codeWord ((s.bank (bankOf src)).addr / 32)
          ∧ (t.bank (bankOf src)).result = word (step * 16 + corrected * 256)
          ∧ bitOf (t.reg .pfl EVT_STATUS) PFL_EVT_REQ_DONE = true))
      ∧ (flashAllowed (.bank (bankOf src)) 1 ((s.bank (bankOf src)).addr / 4096) = true →
        s.programmed ((s.bank (bankOf src)).addr / 32) = false →
        Runs (.pflProgram src true) s (fun t => (t.bank (bankOf src)).result = 0
          ∧ t.codeWord ((s.bank (bankOf src)).addr / 32) = padTo 32 (s.bank (bankOf src)).data))
      ∧ (flashAllowed (.bank (bankOf src)) 2 ((s.bank (bankOf src)).addr / 4096) = true →
        Runs (.pflErase src) s (fun t => ∃ e, t.flash.erase = some e ∧ e.sector = (s.bank (bankOf src)).addr / 4096
          ∧ e.by_ = .bank (bankOf src))))
    ∧ (readArrives src .evr s →
      Runs (.evrWindowLatch src) s (fun t => (t.bank (bankOf src)).latch = s.evrHere (bankOf src)
        ∧ (t.bank (bankOf src)).atEnd = (s.evrHere (bankOf src)).isNone)
      ∧ ∀ d : Bytes, (s.bank (bankOf src)).latch = some d →
        Runs (.evrWindowAdvance src) s (fun t => (t.bank (bankOf src)).cursor = (entryOf d).seq + 1
          ∧ ((entryOf d).severity = 3 → (∀ k < 15, k ∈ (s.bank (bankOf src)).seen) → bankOf src ≠ 2 → bankOf src ≠ 3 →
              (entryOf d).seq ∈ t.recorder.acked)))
    ∧ (∀ lo : Word, writeArrives src .evr EVR_CURSOR_LO s →
      Runs (.evrCursorSet src lo) s (fun t => (t.bank (bankOf src)).cursor =
        (s.bank (bankOf src)).hiHeld.getD ((s.bank (bankOf src)).cursor / 2 ^ 32) * 2 ^ 32 + lo.toNat))

/-- The Plinth (R422-R424, R437, R440, R444): it starts with a supply and moves to the best one; it stops 50 ms after the last; heartbeats
keep PLINTH_OK, their loss clears it, and 10 s later the Plinth has failed; its watchdog starts it anew; it takes its time from a wythe; an
entry that arrives takes the next SEQ; a session with the right rekeys, and clears the recorder. -/
def Obligations.PlinthActs : Prop :=
  ∀ s : State,
    (∀ (auxA auxB vbus advert slotA slotB : Nat) (pd usb cal ksA ksB a b : Bool), s.plinth.up = false →
      (s.supplies auxA auxB vbus advert pd usb).sourceNow ≠ 0 →
      Runs (.plinthPowerUp auxA auxB vbus advert pd usb cal ksA ksB a b slotA slotB) s (fun t => t.plinth.up = true
        ∧ t.plinth.source = (s.supplies auxA auxB vbus advert pd usb).sourceNow ∧ t.plinth.uncertain = true ∧ t.plinth.calOk = cal
        ∧ t.front.presentA = a ∧ t.front.presentB = b))
    ∧ (∀ (auxA auxB vbus advert : Nat) (pd usb : Bool), s.plinth.up = true →
      (s.supplies auxA auxB vbus advert pd usb).sourceNow ≠ 0 →
      Runs (.powerSourceChange auxA auxB vbus advert pd usb) s (fun t => t.plinth.lostAt = none
        ∧ t.plinth.source = (s.supplies auxA auxB vbus advert pd usb).sourceNow
        ∧ (t.plinth.source ≠ s.plinth.source → bitOf (t.reg .plt EVT_STATUS) PLT_EVT_SOURCE_CHANGE = true)))
    ∧ (∀ at_ : Nat, s.plinth.up = true → s.plinth.lostAt = some at_ → at_ + 50000000 ≤ s.now →
      Runs .lossOfEverySupply s (fun t => t.plinth.up = false ∧ t.plinth.source = 0 ∧ t.plinth.sessions = [] ∧ t.recorder.queue = []))
    ∧ (∀ w : Wy, s.plinth.up = true → s.fw.act = none → s.running w = true →
      Runs .housekeepingHeartbeat s (fun t => t.plinthOk w = true ∧ t.plinth.failed = false))
    ∧ (∀ w : Wy, s.running w = true → s.plinthOk w = true →
      (match w with | .w0 => s.plinth.hb0 | .w1 => s.plinth.hb1) + 100000000 ≤ s.now →
      Runs (.housekeepingLoss w) s (fun t => t.plinthOk w = false ∧ bitOf (t.reg (.glb w) EVT_STATUS) GLB_EVT_PLINTH_LOST = true))
    ∧ (∀ at_ : Nat, s.running .w0 = true → s.plinth.lost0 = some at_ → at_ + 10000000000 ≤ s.now →
      Runs .plinthFailed s (fun t => t.plinth.failed = true))
    ∧ (∀ cal ksA ksB : Bool, s.plinth.up = true →
      Runs (.plinthWatchdog cal ksA ksB) s (fun t => t.plinth.resetAt = s.now ∧ t.plinth.calOk = cal ∧ t.plinth.sessions = []))
    ∧ (∀ w : Wy, s.plinth.up = true → s.running w = true →
      Runs (.plinthTimeSet w) s (fun t => t.plinth.time = s.hybrid w ∧ t.plinth.timeAt = s.now ∧ t.plinth.uncertain = false))
    ∧ (∀ (e : EvtRec) (l : List EvtRec), s.plinth.up = true → s.arriving = e :: l → e.source = 0 →
      Runs .eventEntry s (fun t => t.arriving = l ∧ t.recorder.nextSeq = s.recorder.nextSeq + 1))
    ∧ (∀ (session : Nat) (k : KsImage), s.may session 4 = true → s.running .w0 = true → s.running .w1 = true → s.fw.act = none →
      s.keys = some k → s.counter 4 < 512 →
      Runs (.rekey session) s (fun t => .service session true ∈ t.out ∧ ∃ y, t.keys = some y ∧ y.gen = k.gen + 1 ∧ y.pendGen = 0))
    ∧ (∀ session : Nat, s.may session 3 = true → s.recorder.clearing = none →
      Runs (.recorderClear session) s (fun t => .service session true ∈ t.out ∧ s.recorder.nextSeq < t.recorder.nextSeq))

/-- Register accesses (R9, R389, R401, R402, R417, R445, R464): a BAR0 write of an RW register with no rule of its own stores its value, in range or shadowed; a
write of the peer's pages, and a read of an unmapped offset, are refused and recorded; the reads that latch give the low half and keep the
high half; the clock of a wythe takes a step from its own control tiles. -/
def Obligations.RegisterAccessesAct : Prop :=
  ∀ (w : Wy) (s : State),
    (∀ (off : Nat) (v : Word) (p : Page) (o : Nat) (r : RegRow), s.pcieUp w = true → off % 4 = 0 → barAt w off = .page p o →
      writeArrives (.bar0 w) p o s → regRow p o = some r → (r.acc = .rw ∧ inRange r v = true) ∨ r.acc = .rws →
      s.putOwnRule (.bar0 w) p o v = none →
      Runs (.registerWrite (.bar0 w) off 4 true v) s (fun t => t.reg p o = maskTo r v))
    ∧ (∀ (off : Nat) (v : Word), s.pcieUp w = true → off % 4 = 0 → barAt w off = .peer →
      Runs (.registerWrite (.bar0 w) off 4 true v) s (fun t => t.reg (.glb w) GLB_ACCESS_ERR = word (off % 2 ^ 27 + 2 * 2 ^ 28)
        ∧ t.reg (.glb w) GLB_CNT_PEER_WRITE = s.reg (.glb w) GLB_CNT_PEER_WRITE + 1))
    ∧ (∀ off : Nat, s.pcieUp w = true → off % 4 = 0 → barAt w off = .unmapped →
      Runs (.refusedBar0Read w off 4) s (fun t => .readData (.bar0 w) 0 ∈ t.out
        ∧ t.reg (.glb w) GLB_ACCESS_ERR = word (off % 2 ^ 27 + 1 * 2 ^ 28)
        ∧ t.reg (.glb w) GLB_CNT_UNMAPPED = s.reg (.glb w) GLB_CNT_UNMAPPED + 1))
    ∧ (∀ src : AccSrc, readArrives src (.glb w) s →
      Runs (.hlcRead src w) s (fun t => .readData src (lo32 (s.hybrid w)) ∈ t.out ∧ t.reg (.glb w) GLB_HLC_HI = word (hi32 (s.hybrid w))))
    ∧ (∀ src : AccSrc, readArrives src .plt s →
      Runs (.pltTimeRead src) s (fun t => .readData src (lo32 s.plinthTime) ∈ t.out ∧ t.reg .plt PLT_TIME_HI = word (hi32 s.plinthTime)))
    ∧ (∀ src : AccSrc, readArrives src .svc s →
      Runs (.svcExpiryRead src) s (fun t => .readData src (lo32 (s.plinth.sessions.foldl (fun a x => max a x.until_) 0)) ∈ t.out
        ∧ t.reg .svc SVC_EXPIRY_HI = word (hi32 (s.plinth.sessions.foldl (fun a x => max a x.until_) 0))))
    ∧ (∀ v : Word, s.running w = true →
      Runs (.ptpAdj (.tile w) w v) s (fun t => (t.wy w).ptp.value = ((s.ptpRaw w : Int) + toSigned 32 v.toNat * 2 ^ 28).toNat
        ∧ (t.wy w).ptp.at_ = s.now))

/-! ### Starts, cover and restarts -/

/-- The steps of a start (R318, R419, R433, R436, R438, R484, R487-R490, R499, R505): each ends, and the wythe or the brick stands behind it. -/
def Obligations.StartStepsEnd : Prop :=
  ∀ (w : Wy) (s : State),
    (∀ cal ksA ksB : Bool, s.plinth.up = true → s.plinth.startOn = true → (s.startOf .w0).step = 1 →
      (s.plinthBoot cal ksA ksB).plinth.heldOff = false →
      Runs (.plinthRom cal ksA ksB) s (fun t => t.plinth.calOk = cal ∧ t.plinth.resetAt = s.now ∧ ∀ v : Wy, (t.startOf v).step = 2))
    ∧ (s.plinth.up = true → s.plinth.startOn = true → (s.startOf .w0).step = 2 →
      Runs .optionsLoad s (fun t => ∀ v : Wy, (t.startOf v).step = 3))
    ∧ (s.plinth.up = true → s.service = false → s.plinth.heldOff = false → s.plinth.startOn = true → (s.startOf w).step = 3 →
      (s.startOf w).failed = false → s.released w = false → s.keys ≠ none →
      Runs (.wytheRelease w true) s (fun t => t.released w = true ∧ t.heldWy w = false ∧ (t.startOf w).step = 4))
    ∧ (∀ (saved : Bool) (l : List DramResult), s.before w 5 = true → s.plinth.marks = [] → (∀ r ∈ l, r.rates.head? = some true) →
      Runs (.dramTrain w saved l) s (fun t => (t.startOf w).step = 5 ∧ t.reg (.tst w) TST_DRAM_RETIRED = 0
        ∧ (saved = false → t.reg (.clk w) CLK_DRAM_RATE = 7200)))
    ∧ (∀ (lanes : Nat) (ports : List Nat) (speed width : Nat), s.before w 6 = true →
      Runs (.linkTrain w lanes ports (some (speed, width))) s (fun t => (t.startOf w).step = 6 ∧ (t.wy w).pcie.linkUp = true
        ∧ (t.wy w).pcie.speed = speed ∧ (t.wy w).pcie.width = width
        ∧ (s.released w.peer = true → s.heldWy w.peer = false → s.cover.tieUp = false → s.cover.tieFailed = false →
            t.cover.tieUp = decide (8 ≤ lanes))))
    ∧ (∀ okA okB b trial : Bool, s.before w 7 = true → s.chooseSlot 4 w.num = some (b, trial) → (if b then okB else okA) = true →
      (s.fwSlot 4 w.num b).any (fun x => x.good) = true →
      Runs (.imageVerify w okA okB) s (fun t => (t.startOf w).step = 7 ∧ (t.startOf w).slotB = b ∧ (t.startOf w).trial = trial
        ∧ t.running w = true))
    ∧ (∀ (scale : Option (Nat × Nat)) (conv : List Setting) (ports : List Nat), s.before w 8 = true →
      (s.setStore w = [] → Runs (.settingsLoad w true scale conv ports) s (fun t => (t.startOf w).step = 8))
      ∧ ∀ (h : ImgHeader) (g : SetGen), (s.fwSlot 4 w.num (s.startOf w).slotB).bind (fun x => x.hdr) = some h →
        readable (s.setStore w) h.readMin h.setFormat = some g →
        Runs (.settingsLoad w true scale conv ports) s (fun t => (t.startOf w).step = 8
          ∧ t.reg (.fwu w) FWU_SETTINGS = word (g.gen % 65536 + g.format * 65536)))
    ∧ (∀ aOk bOk : Bool, s.before w 9 = true →
      (s.cover.coverer = none → ((s.set_ w.num).copyA && aOk || (s.set_ w.num).copyB && bOk) = true →
        Runs (.anchorLoad w aOk bOk) s (fun t => (t.startOf w).step = 9 ∧ (t.set_ w.num).loaded = true))
      ∧ (s.cover.coverer ≠ none → Runs (.anchorLoad w aOk bOk) s (fun t => (t.startOf w).step = 9)))
    ∧ (∀ (failed : List (Fin 32)) (lostRecs : List (Nat × Nat)) (lostStripes : List Nat), s.before w 10 = true →
      Runs (.tagScan w failed lostRecs lostStripes) s (fun t => (t.startOf w).step = 10
        ∧ (s.cover.coverer = none → (t.set_ w.num).scanned = true)))
    ∧ (s.before w 11 = true → s.cover.tieUp = true →
      (s.cover.coverer = none → s.arrived w.peer = true →
        Runs (.tieSync w) s (fun t => (t.startOf w).step = 11 ∧ (t.startOf w.peer).step = 11))
      ∧ (s.cover.coverer = some w.peer → s.running w.peer = true →
        Runs (.tieSync w) s (fun t => (t.startOf w).step = 11 ∧ t.cover.handingBack = s.mayHandBack w)))
    ∧ (∀ at_ : Nat, s.before w 11 = true → s.cover.coverer = none → s.released w.peer = false → (s.startOf w).arriveAt = some at_ →
      at_ + 60000000000 ≤ s.now →
      Runs (.tieSyncTimeout w) s (fun t => (t.startOf w).step = 11 ∧ t.cover.coverer = some w ∧ t.heldWy w.peer = true))
    ∧ (s.before w 12 = true → (s.wall.st = .member ∨ s.wall.st = .joining ∨ (s.wall.identity = false ∧ s.autoJoin = false)) →
      Runs (.wallJoin w) s (fun t => (t.startOf w).step = 12 ∧ t.wall.joinAt = s.now)
      ∧ (s.wall.joinAt + 1000000000 ≤ s.now → Runs (.wallJoinRetry w) s (fun t => (t.startOf w).step = 12 ∧ t.wall.joinAt = s.now)))
    ∧ (s.before w 13 = true → (∀ i ∈ s.setsOf w, (s.set_ i).dumpMiB = 8192) → s.cover.coverer ≠ some w.peer →
      Runs (.serviceOpen w) s (fun t => (t.startOf w).step = 13 ∧ (t.wy w).serving = true ∧ t.plinth.failStarts = 0))
    ∧ (s.plinth.startOn = true → s.plinth.goodAt + 600000000000 ≤ s.now →
      (∀ v : Wy, (s.startOf v).arriveAt = none ∧ (s.startOf v).step < 11) →
      Runs .startTimeout s (fun t => t.plinth.startOn = false ∧ t.plinth.failStarts = s.plinth.failStarts + 1
        ∧ (s.plinth.failStarts = 2 → t.plinth.recovery = true)))

/-- Failures and the cover that answers them (R16, R24, R25, R28, R32, R483, R484, R485): a tile's fault is counted, its second within 60 s
fails it; a corrected SRAM error is counted; a fault of the hub fails the wythe; the peer's lost heartbeat or FAILED notice begins cover, and of two
wythes that have both lost it wythe 0 asserts first; a wythe whose clock fails or whose watchdog expires sends its notice and
stops; a DRAM channel that met an uncorrectable error, or that is named, is marked until it is unmarked (R19, R514). -/
def Obligations.FailuresAreCovered : Prop :=
  ∀ (w : Wy) (s : State),
    (∀ (tile : Fin 128) (f : TileFault) (job : Option JobRef) (done : Nat), s.running w = true → s.unit (.til w tile) ≠ .offline →
      Runs (.tileFault w tile f job done .tile) s (fun t => t.reg (.til w tile) TIL_LAST_FAULT = word (faultNum f)
        ∧ t.reg (.til w tile) TIL_CNT_FAULT = s.reg (.til w tile) TIL_CNT_FAULT + 1
        ∧ ((∃ at_, (w, tile.val, at_) ∈ s.tileFaults ∧ s.now < at_ + 60000000000) → t.unit (.til w tile) = .failed)))
    ∧ (∀ (tile : Fin 128) (f : TileFault) (job : Option JobRef) (done : Nat), s.running w = true →
      Runs (.tileFault w tile f job done .sramCorrected) s (fun t => t.reg (.crs w (courseOf tile)) ERR_COUNT =
        word (min (s.rfld (.crs w (courseOf tile)) ERR_COUNT 15 0 + 1) 0xFFFF))
      ∧ Runs (.tileFault w tile f job done .hub) s (fun t => t.running w = false ∧ t.notice w = true))
    ∧ (∀ lanes : Nat, s.cover.tieUp = true → lanes < 16 →
      Runs (.tieLaneFail lanes) s (fun t => t.cover.tieUp = decide (8 ≤ lanes) ∧ (8 ≤ lanes → t.cover.lanes = 8)))
    ∧ (s.running w = true → s.cover.tieUp = true → s.released w.peer = true → s.heldWy w.peer = false →
      Runs (.tieHeartbeatSend w) s (fun t => t.lastHb w.peer = s.now))
    ∧ (s.hbGone w 1000000 = true → Runs (.tieHeartbeatLoss w) s (fun t =>
        (w = .w0 → t.cover.coverer = some .w0 ∧ t.heldWy .w1 = true ∧ t.running .w1 = false)
        ∧ (w = .w1 → bitOf (t.reg (.tie .w1) EVT_STATUS) TIE_EVT_HB_LOST = true ∧ t.cover.coverer = none)))
    ∧ (s.hbGone .w0 1000000 = false → s.hbGone .w1 3000000 = true →
      Runs .crossResetDelay s (fun t => t.cover.coverer = some .w1 ∧ t.heldWy .w0 = true ∧ t.running .w0 = false))
    ∧ (s.hbGone .w0 1000000 = true →
      Runs .crossResetDelay s (fun t => t.cover.coverer = some .w0 ∧ t.heldWy .w1 = true ∧ t.running .w1 = false))
    ∧ (s.synced w = true → s.notice w.peer = true → s.cover.tieUp = true → s.cover.coverer = none → s.heldWy w = false →
      Runs (.failedNotice w) s (fun t => t.cover.coverer = some w ∧ t.heldWy w.peer = true ∧ t.running w.peer = false))
    ∧ (s.running w = true →
      (s.synced w.peer = true → s.cover.coverer = none →
        Runs (.wytheWatchdog w) s (fun t => t.running w = false ∧ t.notice w = true))
      ∧ ((s.synced w.peer = false ∨ s.cover.coverer ≠ none) → s.keys ≠ none →
        Runs (.wytheWatchdog w) s (fun t => t.running w = false ∧ t.released w = true ∧ (t.startOf w).step = 4)))
    ∧ (∀ ppm : Int, s.running w = true → s.plinth.up = true →
      Runs (.clockMonitor w ppm) s (fun t => t.reg (.clk w) CLK_MON_PPM = word (ofSigned 16 ppm)
        ∧ (ppm.natAbs ≤ s.afld (.clk w) CLK_MON_CTRL 11 0 → t.rfld (.clk w) CLK_STATUS 3 3 = 1 ∧ t.running w = true)
        ∧ (s.afld (.clk w) CLK_MON_CTRL 11 0 < ppm.natAbs → t.running w = false ∧ t.notice w = true)))
    ∧ (s.running w = true → Runs (.pllUnlock w) s (fun t => t.running w = false ∧ t.notice w = true
        ∧ t.reg (.clk w) CLK_CNT_UNLOCK = s.reg (.clk w) CLK_CNT_UNLOCK + 1))
    ∧ (∀ (c : Nat) (d : DramWord), (s.released w = true → Runs (.dramMark none w c d) s (fun t => (w, c % 16) ∈ t.plinth.marks))
      ∧ ∀ src : AccSrc, writeArrives src (.tst w) TST_CTRL s →
        Runs (.dramMark (some src) w c d) s (fun t => (w, s.rfld (.tst w) TST_TARGET 19 16) ∈ t.plinth.marks)
        ∧ Runs (.dramUnmark src w) s (fun t => (w, s.rfld (.tst w) TST_TARGET 19 16) ∉ t.plinth.marks))

/-- Restarts and the hand-back (R30, R409, R420, R485, R486): 2 s after cover began the covered wythe is restarted; a restart that takes 600 s
fails; the coverer hands back; the RST page resets a unit, restarts its wythe after a drain, and its held peer at once. -/
def Obligations.RestartsAct : Prop :=
  ∀ (w : Wy) (s : State),
    (s.cover.coverer = some w → s.plinth.up = true → s.plinth.failed = false → s.cover.tieFailed = false → s.heldWy w.peer = true →
      w.peer ∉ s.plinth.leftHeld → s.cover.since + 2000000000 ≤ s.now → w.peer ∉ s.plinth.thermal → s.front.latchClosed = true →
      s.keys ≠ none →
      Runs .crossResetClear s (fun t => t.released w.peer = true ∧ t.heldWy w.peer = false ∧ (t.startOf w.peer).step = 4
        ∧ (t.startOf w.peer).cause = 2 ∧ (w.peer, s.now) ∈ t.plinth.restarts))
    ∧ (∀ at_ : Nat, s.plinth.restarts.find? (fun r => r.1 = w) = some (w, at_) → at_ + 600000000000 ≤ s.now →
      Runs (.restartTimeout w) s (fun t => t.heldWy w = true ∧ t.released w = false ∧ t.running w = false))
    ∧ (s.cover.coverer = some w → s.cover.handingBack = true → s.running w.peer = true →
      (∀ c ∈ (s.wy w).relief.commits, wyOfPart c.part = w) →
      Runs .handBack s (fun t => t.cover.coverer = none ∧ t.cover.handingBack = false))
    ∧ (∀ (src : AccSrc) (v : Word), writeArrives src (.rst w) RST_REQ s → s.rfld (.rst w) RST_STATUS 0 0 = 0 →
      (∀ p : Page, fld v 2 0 = 1 → s.rstTarget w = some p → (s.unit p = .quiesced ∨ s.unit p = .bypassed ∨ s.unit p = .failed) →
        Runs (.unitReset src w v) s (fun t => t.unit p = .offline
          ∧ t.reg (.rst w) RST_CNT_UNIT = s.reg (.rst w) RST_CNT_UNIT + 1))
      ∧ (fld v 2 0 = 2 → s.synced w.peer = true → s.cover.coverer = none → s.plinthOk w = true → s.fw.act = none → s.fw.restart = none →
        s.cover.handingBack = false →
        Runs (.restartSelf src w v) s (fun t => t.fw.restart = some w ∧ (t.wy w).relief.drain.isSome = true
          ∧ t.rfld (.rst w) RST_STATUS 0 0 = 1))
      ∧ (fld v 2 0 = 4 → s.cover.coverer = some w → s.heldWy w.peer = true → s.plinthOk w = true → s.cover.tieFailed = false →
        s.keys ≠ none →
        Runs (.restartPeer src w v) s (fun t => t.released w.peer = true ∧ (t.startOf w.peer).step = 4
          ∧ (t.startOf w.peer).cause = 6 ∧ (w.peer, s.now) ∈ t.plinth.restarts)))

/-! ### Firmware and settings -/

/-- Staging and activation (R496, R497, R501-R503): an image that passes the checks, and whose payload the Plinth
authenticates, is STAGED in every slot it goes to, one that it does not leaves them EMPTY, and one that fails a check changes no slot; the
Plinth is reset into its trial, media tables commit within the command, a port goes down for its SerDes reload, a wythe drains first; trials end by timeout
or commit. -/
def Obligations.FirmwareIsStagedAndActivated : Prop :=
  ∀ s : State,
    (∀ (session comp mask : Nat) (header payload : Bytes), s.may session 1 = true →
      Runs (.stage session comp mask header payload) s (fun t =>
        (s.stageFault comp mask (imgHeader header) = none → (imgHeader header).len ≤ payload.length →
          (s.payloadOk (imgHeader header) (imgPlain header (payload.take (imgHeader header).len)) = true → .service session true ∈ t.out
            ∧ ∀ i ∈ stageSets comp mask, (s.fwSlot comp i (s.idleB comp i)).isSome = true →
              t.slotState comp i (s.idleB comp i) = 1
                ∧ (t.fwSlot comp i (s.idleB comp i)).bind (fun x => x.hdr) = some (imgHeader header))
          ∧ (s.payloadOk (imgHeader header) (imgPlain header (payload.take (imgHeader header).len)) = false → .service session false ∈ t.out
            ∧ ∀ i ∈ stageSets comp mask, t.slotState comp i (s.idleB comp i) = 0))
        ∧ ∀ c : Nat, s.stageFault comp mask (imgHeader header) = some c → .service session false ∈ t.out ∧ t.fw = s.fw))
    ∧ (∀ session : Nat, s.may session 1 = true →
      (∀ cal ksA ksB : Bool, s.actFault 1 .w0 false = none →
        Runs (.activatePlinth (.session session) cal ksA ksB) s (fun t => .service session true ∈ t.out ∧ t.plinth.resetAt = s.now
          ∧ t.plinth.calOk = cal ∧ t.plinth.sessions = []))
      ∧ (s.actFault 2 .w0 false = none →
        Runs (.activateMediaTables (.session session)) s (fun t => .service session true ∈ t.out ∧ t.fw.act = none
          ∧ ∀ i < 2, (s.fwSlot 2 i (s.idleB 2 0)).isSome = true → t.slotState 2 i (s.idleB 2 0) = 4))
      ∧ (s.actFault 3 .w0 false = none → s.portThere 0 = true →
        Runs (.activateSerdes (.session session)) s (fun t => .service session true ∈ t.out
          ∧ ∃ a, t.fw.act = some a ∧ a.comp = 3 ∧ a.port = 0 ∧ a.portAt = some s.now))
      ∧ (∀ (w : Wy) (conv : Bool), s.actFault 4 w conv = none →
        Runs (.activateWythe (.session session) w conv) s (fun t => .service session true ∈ t.out
          ∧ (∃ a, t.fw.act = some a ∧ a.comp = 4 ∧ a.w = w ∧ a.conv = conv ∧ a.stage = 2)
          ∧ (t.wy w).relief.drain.isSome = true)))
    ∧ (∀ (a : Activation) (at_ : Nat), s.fw.act = some a →
      (a.comp = 3 → a.portAt = some at_ → at_ + 5000000000 ≤ s.now → (s.port (portWy a.port) (a.port % 4)).linkUp = false →
        Runs .serdesLinkTimeout s (fun t => t.fw.act = none))
      ∧ (a.comp = 4 → a.trialAt = some at_ → at_ + 600000000000 ≤ s.now → (s.startOf a.w).step < 13 → s.keys ≠ none →
        Runs .trialTimeout s (fun t => t.fw.act = none ∧ t.released a.w = true ∧ (t.startOf a.w).step = 4))
      ∧ (a.comp = 1 → s.service = true → s.plinth.resetAt + 10000000000 ≤ s.now →
        Runs .plinthTrialCommit s (fun t => t.fw.act = none
          ∧ ((s.fwSlot 1 0 a.slotB).isSome = true → t.slotState 1 0 a.slotB = 4))))

/-- Settings (R133, R190, R505-R507): a session's records make a new generation in both stores; a policy and a change of the wall settings go
to the armature's leader, or into its log. -/
def Obligations.SettingsAreKept : Prop :=
  ∀ (session : Nat) (s : State), s.may session 6 = true →
    (∀ recs : List Setting, recs ≠ [] → s.storesOpen = true → recs.all s.settingOk = true →
      Runs (.settingsWrite session recs) s (fun t => .service session true ∈ t.out ∧ ∀ w : Wy, ∃ g, (t.setStore w).getLast? = some g
        ∧ g.gen = (((s.setStore w).getLast?).map (fun x => x.gen)).getD 0 + 1
        ∧ g.recs = mergeSettings ((((s.setStore w).getLast?).map (fun x => x.recs)).getD []) recs))
    ∧ (s.wall.st = .member → s.wall.arm.role ≠ .leader →
      (∀ k o : Keyspace, s.keyspace k.id = some o → s.policyOk k (some o) = true →
        Runs (.keyspacePolicy session (.put k)) s (fun t => .service session true ∈ t.out
          ∧ .armForward (.policy { k with salt := o.salt }) ∈ t.out))
      ∧ (∀ ks : BitVec 32, (s.keyspace ks).isSome = true →
        Runs (.keyspacePolicy session (.delete ks)) s (fun t => .service session true ∈ t.out ∧ .armForward (.policyGone ks) ∈ t.out))
      ∧ (∀ ws : WallSettings, s.wallChangeOk ws = true →
        Runs (.wallSettingsChange session ws) s (fun t => .service session true ∈ t.out ∧ .armForward (.settings ws) ∈ t.out)))

/-! ### Units, tests and the endpoint -/

/-- The states of units (R33, R405, R406, R410, R510): ENABLE brings an OFFLINE unit ONLINE, QUIESCE and BYPASS set what it drains towards, a
drained unit gets there, a test takes it out and ends with the state before or FAILED, and COMMIT makes every shadowed register active. -/
def Obligations.UnitsChangeState : Prop :=
  ∀ (src : AccSrc) (p : Page) (s : State),
    (writeArrives src p PAGE_CTRL s → isUnit p = true → (s.ujob p).goal = none →
      (∀ v : Word, v = 1 → s.unit p = .offline → (s.ujob p).needTest = false → s.rfld p PAGE_CTRL 2 0 = 0 →
        Runs (.pageEnable src p v) s (fun t => t.unit p = .online ∧ t.rfld p PAGE_CTRL 2 0 = 1))
      ∧ (∀ v : Word, v = 3 → s.unit p = .online → s.rfld p PAGE_CTRL 2 0 = 1 →
        Runs (.pageQuiesce src p v) s (fun t => t.unit p = .quiescing ∧ (t.ujob p).goal = some .quiesced ∧ t.rfld p PAGE_CTRL 2 0 = 3))
      ∧ (∀ v : Word, v = 5 → s.unit p = .online → s.rfld p PAGE_CTRL 2 0 = 1 →
        Runs (.pageBypass src p v) s (fun t => (t.ujob p).goal = some .bypassed ∧ t.rfld p PAGE_CTRL 2 0 = 5))
      ∧ (∀ v : Word, v = word (8 + s.rfld p PAGE_CTRL 2 0) → testFrom p (s.unit p) = true → s.testAllowed p = true →
        Runs (.testStart src p v) s (fun t => t.unit p = .testing ∧ (t.ujob p).test = some (s.unit p, s.now)
          ∧ t.reg (.tst (s.testWy p)) TST_CNT_RUN = s.reg (.tst (s.testWy p)) TST_CNT_RUN + 1)))
    ∧ (∀ g : UnitSt, isUnit p = true → unitChans p = [] → (s.ujob p).goal = some g → s.unit p ≠ .bypassed →
      (g = .quiesced ∧ s.jobsEnded p = true ∨ g = .offline ∧ s.unitEmpty p = true) →
      Runs (.unitJobDrained p) s (fun t => t.unit p = g ∧ (t.ujob p).goal = none))
    ∧ (∀ (u : UnitSt) (at_ code info us_ : Nat), isUnit p = true → (s.ujob p).test = some (u, at_) →
      Runs (.testEnd p code info us_) s (fun t => (t.ujob p).test = none ∧ ((code = 0 ∨ code = 5) → t.unit p = u)
        ∧ (code ≠ 0 → code ≠ 5 → (∀ c, p ≠ .chn c) → t.unit p = .failed)))
    ∧ (∀ v : Word, writeArrives src p PAGE_CTRL s → v = word (16 + s.rfld p PAGE_CTRL 2 0) → s.commitRange p = none →
      s.commitRule p = none → (∀ w, p ≠ .mtr w) → (∀ w, p ≠ .med w) →
      Runs (.commit src p v) s (fun t => t.shadowPending p = false ∧ ∀ r ∈ shadowRows p, t.act p r.off = s.reg p r.off))

/-- The registers common to the pages (R9, R11, R404, R408) and the TST page's actions (R19, R327, R510, R514): a one clears an event bit, a
forced one sets it, the error count is read and cleared, the lock is set; a die that fails its test is retired, a die is retired on request,
DRAM channels are marked and unmarked. -/
def Obligations.PageRegistersAct : Prop :=
  ∀ (src : AccSrc) (p : Page) (w : Wy) (v : Word) (s : State),
    (writeArrives src p EVT_STATUS s → Runs (.evtStatusClear src p v) s (fun t => t.reg p EVT_STATUS = s.reg p EVT_STATUS &&& ~~~v))
    ∧ (writeArrives src p EVT_FORCE s → Runs (.evtForce src p v) s (fun t => ∀ n < evtBits p,
        bitOf (t.reg p EVT_STATUS) n = (bitOf (s.reg p EVT_STATUS) n || bitOf v n)))
    ∧ (readArrives src p s → Runs (.errCountRead src p) s (fun t => .readData src (s.reg p ERR_COUNT).toNat ∈ t.out
        ∧ t.reg p ERR_COUNT = 0))
    ∧ (writeArrives src p PAGE_LOCK s → bitOf v 0 = true → Runs (.pageLock src p v) s (fun t => t.rfld p PAGE_LOCK 0 0 = 1))
    ∧ (writeArrives src (.tst w) TST_CTRL s →
      ((s.chan (s.tstDie w / 32)).owner = some w →
        (∀ result ms_ : Nat, Runs (.dieTest src w result ms_) s (fun t =>
          t.reg (.tst w) TST_CNT_RUN = s.reg (.tst w) TST_CNT_RUN + 1
            ∧ (t.die (s.tstDie w)).retired = ((s.die (s.tstDie w)).retired || decide (result ≠ 0))))
        ∧ ((s.die (s.tstDie w)).retired = false → (s.set_ (setOf (s.tstDie w / 32))).dieRebuild = [] →
          Runs (.dieRetireRequest src w) s (fun t => (t.die (s.tstDie w)).retired = true)))
      ∧ (∀ (c : Nat) (d : DramWord), Runs (.dramMark (some src) w c d) s (fun t => (w, s.rfld (.tst w) TST_TARGET 19 16) ∈ t.plinth.marks))
      ∧ Runs (.dramUnmark src w) s (fun t => (w, s.rfld (.tst w) TST_TARGET 19 16) ∉ t.plinth.marks))
    ∧ (∀ (c : Nat) (d : DramWord), s.released w = true → Runs (.dramMark none w c d) s (fun t => (w, c % 16) ∈ t.plinth.marks))

/-- The endpoint (R96, R397, R398, R412-R416): resets of the function clear BME and D3hot; a lost link is down; queue pages are created and
destroyed; doorbells move the tail and the head; a pending entry that is unmasked sends its message. -/
def Obligations.EndpointActs : Prop :=
  ∀ (w : Wy) (s : State),
    (s.pcieUp w = true →
      Runs (.functionLevelReset w) s (fun t => (t.wy w).pcie.bme = false ∧ (t.wy w).pcie.d3hot = false
        ∧ t.reg (.glb w) GLB_CNT_FLR = s.reg (.glb w) GLB_CNT_FLR + 1)
      ∧ Runs (.hotReset w) s (fun t => (t.wy w).pcie.bme = false ∧ (t.wy w).pcie.d3hot = false
        ∧ t.reg (.glb w) GLB_CNT_FLR = s.reg (.glb w) GLB_CNT_FLR + 1))
    ∧ (s.released w = true → Runs (.perstAssert w) s (fun t => (t.wy w).pcie.linkUp = false ∧ (t.wy w).pcie.aer = 0
        ∧ (t.wy w).pcie.bme = false))
    ∧ (s.pcieUp w = true → Runs (.pcieLinkLoss w) s (fun t => (t.wy w).pcie.linkUp = false ∧ (t.wy w).pcie.bme = false))
    ∧ (s.pcieUp w = true → Runs (.busMasterClear w) s (fun t => (t.wy w).pcie.bme = false))
    ∧ (s.pcieUp w = true → Runs (.d3hotEntry w) s (fun t => (t.wy w).pcie.d3hot = true))
    ∧ (∀ speed width : Nat, s.released w = true → (s.pcieUp w = true ∨ 6 ≤ (s.startOf w).step) →
      Runs (.d0Return w speed width []) s (fun t => (t.wy w).pcie.bme = true ∧ (t.wy w).pcie.d3hot = false
        ∧ (t.wy w).pcie.linkUp = true))
    ∧ (∀ n : Fin 64, s.pcieUp w = true →
      ((s.wy w).serving = true → s.qpFault w n.val = none →
        Runs (.qpCreate w n) s (fun t => (qpage (t.wy w).pcie n.val).st = .opened ∧ (qpage (t.wy w).pcie n.val).epoch = 1
          ∧ ∃ x ∈ (t.wy w).relief.queues, x.idx = 960 + n.val ∧ x.st = .opened ∧ x.epoch = 1))
      ∧ (∀ x : Queue, (s.wy w).relief.queue (960 + n.val) = some x → x.st ≠ .closing →
        Runs (.qpDestroy w n) s (fun t =>
          (x.dma = 0 → (t.wy w).relief.queue (960 + n.val) = none)
            ∧ (x.dma ≠ 0 → (qpage (t.wy w).pcie n.val).st = .closing ∧ (qpage (t.wy w).pcie n.val).epoch = nextEpoch x.epoch)))
      ∧ (∀ tail : Nat, (qpage (s.wy w).pcie n.val).st ≠ .free → tail < 2 ^ (qpage (s.wy w).pcie n.val).sqLog →
        Runs (.sqDoorbell w n tail []) s (fun t => (qpage (t.wy w).pcie n.val).sqTail = tail))
      ∧ (∀ head : Nat, (qpage (s.wy w).pcie n.val).st ≠ .free → head < 2 ^ (qpage (s.wy w).pcie n.val).cqLog →
        (head + 2 ^ (qpage (s.wy w).pcie n.val).cqLog - (qpage (s.wy w).pcie n.val).cqHead) % 2 ^ (qpage (s.wy w).pcie n.val).cqLog
          ≤ ((qpage (s.wy w).pcie n.val).cqTail + 2 ^ (qpage (s.wy w).pcie n.val).cqLog - (qpage (s.wy w).pcie n.val).cqHead)
            % 2 ^ (qpage (s.wy w).pcie n.val).cqLog →
        (qpage (s.wy w).pcie n.val).held = [] →
        Runs (.cqDoorbell w n head) s (fun t => (qpage (t.wy w).pcie n.val).cqHead = head))
      ∧ Runs (.msixUnmask w n) s (fun t => (msixEntry (t.wy w).pcie n.val).masked = false
        ∧ ((msixEntry (s.wy w).pcie n.val).pending = true → s.dmaOk w = true → .msix w n.val ∈ t.out)))

/-! ### Health -/

/-- Health (R465-R474): samples enter the sensors' records; ageing is measured against its baseline; a bank that waits is tested and its test
ends in its trend; the end-of-life day is projected; the log is written and read by section; the Plinth records a snapshot. -/
def Obligations.HealthIsKept : Prop :=
  ∀ (src : AccSrc) (w : Wy) (s : State),
    (∀ (n : Fin 32) (r : Int), s.plinth.up = true → n.val < s.health.temps.length →
      Runs (.tempSample [(n, r)]) s (fun t => (t.temp n.val).cur = (r + tempOffset n.val) / 10 ∧ (t.temp n.val).seen = true))
    ∧ (∀ (n : Fin 16) (f : Nat), s.running (if n.val < 8 then .w0 else .w1) = true → n.val < s.health.ages.length →
      Runs (.ageingMeasure [(n, f)]) s (fun t => ∃ a, t.health.ages[n.val]? = some a ∧ a.day = s.today
        ∧ (ageBase n.val ≠ 0 → a.shift = ((ageBase n.val : Int) - f) * 1000000 / ageBase n.val)))
    ∧ (bitOf (s.act (.hlt s.leadWy) HLT_CAP_CTRL) 8 = true →
      s.health.testAt + fld (s.act (.hlt s.leadWy) HLT_CAP_CTRL) 6 0 ≤ s.today → s.capReady 0 = true →
      Runs .capTest s (fun t => t.health.testing = some 0 ∧ t.health.wait = [1] ∧ t.health.testAt = s.today))
    ∧ (∀ v : Word, writeArrives src (.hlt w) HLT_CAP_REQ s → bitOf v 0 = true → s.capReady 0 = true →
      Runs (.capTestRequest src w v) s (fun t => t.health.testing = some 0))
    ∧ (∀ b cap esr : Nat, s.health.testing = some b → b < s.health.caps.length →
      Runs (.capTestEnd cap esr) s (fun t => ∃ c x, t.health.caps[b]? = some c ∧ c.tests.getLast? = some x ∧ x.esr = esr
        ∧ x.day = s.today ∧ (ratedCap b ≠ 0 → x.cap = cap * 10000 / ratedCap b)))
    ∧ ((s.running .w0 = true ∨ s.running .w1 = true) →
      Runs .eolPrediction s (fun t => (t.health.eolDay, t.health.eolFactor) =
          eolOf ([1, 2, 3, 4].foldl (fun a c => a.keepDaily c (a.factorValue c)) s).factorDays)
      ∧ Runs .healthLogRewrite s (fun t => t.health.log = (List.range 8).map s.section_ ∧ t.health.logAt = s.now
        ∧ t.health.logValid = true))
    ∧ (∀ v : Word, writeArrives src (.hlt w) HLT_LOG_SECTION s →
      Runs (.hltLogSelect src w v) s (fun t => t.logLatch w = s.health.log.getD (fld v 2 0) []
        ∧ t.reg (.hlt w) HLT_LOG_OFFSET = 0))
    ∧ (readArrives src (.hlt w) s →
      Runs (.hltLogRead src w) s (fun t =>
        .readData src (ofLe (padTo 4 (sliceBytes (s.logLatch w) (s.rfld (.hlt w) HLT_LOG_OFFSET 19 0) 4))) ∈ t.out
          ∧ t.reg (.hlt w) HLT_LOG_OFFSET = word ((s.rfld (.hlt w) HLT_LOG_OFFSET 19 0 + 4) % 2 ^ 20))
      ∧ Runs (.hltGibRead src w true) s (fun t => .readData src (inGib s.health.mediaBytes % 2 ^ 32) ∈ t.out
        ∧ t.reg (.hlt w) HLT_MEDIA_GIB_HI = word (inGib s.health.mediaBytes / 2 ^ 32))
      ∧ Runs (.hltGibRead src w false) s (fun t => .readData src (inGib s.health.fragBytes % 2 ^ 32) ∈ t.out
        ∧ t.reg (.hlt w) HLT_FRAG_GIB_HI = word (inGib s.health.fragBytes / 2 ^ 32)))
    ∧ (s.plinth.up = true → Runs .healthSnapshot s (fun t => ∃ e ∈ t.arriving, e.code = 0x0601 ∧ e.severity = 1 ∧ e.source = 0
        ∧ e.detail = padTo 32 (s.summary.take 32)))

/-! ### The front panel and service -/

/-- The label and the REQUEST button (R448-R450): a touch turns the page, a press shows the status page or ends locate, a page written or kept
is shown, the label returns and follows what it shows. -/
def Obligations.LabelFollows : Prop :=
  ∀ (src : AccSrc) (s : State),
    (s.plinth.up = true → Runs .touch s (fun t =>
      t.reg .fpn FPN_CNT_TOUCH = s.reg .fpn FPN_CNT_TOUCH + 1
        ∧ (s.afld .fpn FPN_CTRL 1 1 = 1 → s.front.refreshing = false → s.labelPower = true →
          t.front.page = (s.front.page + 1) % 5 ∧ t.front.refreshing = true ∧ t.front.touchedAt = some s.now)
        ∧ (s.afld .fpn FPN_CTRL 1 1 = 1 → s.front.refreshing = true → s.front.kept = none → t.front.kept = some none)))
    ∧ (∀ v : Word, writeArrives src .fpn FPN_LABEL_PAGE s → fld v 2 0 ≤ 4 → s.front.refreshing = false → s.labelPower = true →
      Runs (.labelPageWrite src v) s (fun t => t.front.page = fld v 2 0 ∧ t.front.refreshing = true))
    ∧ (∀ at_ : Nat, s.plinth.up = true → s.front.refreshing = false → s.front.touchedAt = some at_ →
      at_ + s.afld .fpn FPN_CTRL 23 16 * 1000000000 ≤ s.now → s.front.page ≠ s.returnPage → s.labelPower = true →
      Runs .labelReturn s (fun t => t.front.page = s.returnPage ∧ t.front.refreshing = true))
    ∧ (s.front.refreshing = true → Runs .labelRefreshDone s (fun t =>
        t.reg .fpn FPN_CNT_LABEL_REFRESH = s.reg .fpn FPN_CNT_LABEL_REFRESH + 1
          ∧ (s.front.kept = none → t.front.refreshing = false)
          ∧ (∀ n, s.front.kept = some n → s.labelPower = true → t.front.refreshing = true ∧ t.front.page = n.getD ((s.front.page + 1) % 5))))
    ∧ (s.plinth.up = true → s.front.refreshing = false → s.front.shown ≠ [] → s.front.shown.take 4 = s.removalView →
      s.front.refreshAt + 10000000000 ≤ s.now → s.front.shown ≠ s.labelView s.front.page → s.labelPower = true →
      Runs .labelRefreshInterval s (fun t => t.front.refreshing = true ∧ t.front.shown = s.labelView s.front.page
        ∧ t.front.page = s.front.page))
    ∧ (∀ ms_ : Nat, s.plinth.up = true → ms_ < 3000 → Runs (.requestPress ms_) s (fun t =>
        t.reg .fpn FPN_CNT_PRESS = s.reg .fpn FPN_CNT_PRESS + 1 ∧ bitOf (t.reg .fpn EVT_STATUS) FPN_EVT_BUTTON = true
          ∧ (ms_ < 2000 → s.afld .fpn FPN_CTRL 0 0 ≠ 0 → s.front.locateAt ≠ none → t.front.locateAt = none)
          ∧ (ms_ < 2000 → s.afld .fpn FPN_CTRL 0 0 ≠ 0 → s.front.locateAt = none → s.front.refreshing = false → t.front.page = 1)))

/-- Removal (R205, R453-R458): a request asks the armature, or shows SAFE TO REMOVE on a brick that is in no wall; a cancel ends it; the answer
allows it with a drain on each wythe, or refuses it with its reason; an opened latch stops the brick and a closed one resumes it. The connector
(R459, R526, R527): presence is made and broken; SMBus answers its status block and the alert response. -/
def Obligations.RemovalActs : Prop :=
  ∀ (src : AccSrc) (s : State),
    (∀ v : Word, writeArrives src .fpn FPN_REMOVE s → s.front.latchClosed = true →
      (bitOf v 0 = true → bitOf v 1 = false → s.removing = false → s.wall.st ≠ .leaving →
        Runs (.removeRequest src v) s (fun t =>
          (s.service = true ∨ (s.wall.st ≠ .member ∧ s.wall.st ≠ .suspect) → t.front.removeSt = 2)
            ∧ (s.service = false → s.wall.st = .member ∨ s.wall.st = .suspect → t.front.removeSt = 1
              ∧ t.front.asking = some (2, none))))
      ∧ (bitOf v 0 = false → bitOf v 1 = true → (s.removing = true ∨ s.wall.st = .leaving) →
        Runs (.removeCancel src v) s (fun t => t.front.removeSt = 0 ∧ t.front.asking = none ∧ t.front.deadline = none)))
    ∧ (s.plinth.up = true → Runs .requestHold s (fun t => t.reg .fpn FPN_CNT_HOLD = s.reg .fpn FPN_CNT_HOLD + 1
        ∧ (s.afld .fpn FPN_CTRL 0 0 ≠ 0 → s.front.latchClosed = true →
          ((s.removing = true ∨ s.wall.st = .leaving) → t.front.removeSt = 0)
          ∧ (s.removing = false → s.service = false → s.wall.st = .member → t.front.asking = some (1, none)))))
    ∧ (∀ (source : Nat) (ret : Option Nat) (stripe margin : Nat), s.front.asking = some (source, ret) →
      Runs (.removalAllowance 0 stripe margin) s (fun t => t.front.asking = none
        ∧ ∀ w, s.running w = true → (t.wy w).relief.drain.isSome = true)
      ∧ ∀ reason : Nat, reason ≠ 0 → Runs (.removalAllowance reason stripe margin) s (fun t => t.front.removeSt = 3
        ∧ t.front.reason = reason ∧ t.front.asking = none ∧ ∃ e ∈ t.arriving, e.code = 0x2301 ∧ e.severity = 1))
    ∧ (s.plinth.up = true → s.front.latchClosed = true →
      Runs .latchOpen s (fun t => t.front.latchClosed = false
        ∧ t.reg .fpn FPN_CNT_LATCH_OPEN = s.reg .fpn FPN_CNT_LATCH_OPEN + 1
        ∧ (s.service = false → (s.front.removeSt = 2 ∨ s.front.removeSt = 1 ∨ s.wall.st = .leaving ∨ s.inWall = true) →
          t.wall.stopping = true)))
    ∧ (s.plinth.up = true → s.front.latchClosed = false →
      Runs .latchClose s (fun t => t.front.latchClosed = true
        ∧ (s.wall.stopping = true → s.holdup = none → t.wall.stopping = false ∧ t.front.removeSt = 0 ∧ t.front.unclean = false)))
    ∧ (s.plinth.up = true → s.front.latchClosed = true → s.front.early = true →
      Runs .earlyWarningBreak s (fun t => t.front.early = false
        ∧ t.reg .fpn FPN_CNT_LATCH_OPEN = s.reg .fpn FPN_CNT_LATCH_OPEN + 1))
    ∧ (∀ slotA slotB : Nat, Runs (.presenceMake slotA slotB) s (fun t => t.front.presentA = true ∧ t.front.presentB = true
      ∧ t.front.absentAt = none ∧ (s.plinth.up = true → t.front.slotA = slotA % 64 ∧ t.front.slotB = slotB % 64)))
    ∧ Runs .presenceBreak s (fun t => t.front.presentA = false ∧ t.front.presentB = false ∧ t.front.absentAt ≠ none)
    ∧ (∀ h : Half, s.plinth.up = true → auxIn s.plinth = true →
      Runs (.smbusStatusRead h) s (fun t => .smbus h s.smbusBlock ∈ t.out)
      ∧ Runs (.smbusAlertResponse h) s (fun t => .smbus h [0x4C] ∈ t.out ∧ t.front.alert = false))

/-- Service sessions (R461, R462, R485, R490): a good ticket opens one with its rights, a bad one is counted
by its fault and opens none; it ends when the ticket does, or is closed; its commands
ask for a removal with a return period, install an authority key, reset the brick, and enter and leave ROM recovery. -/
def Obligations.SessionsAct : Prop :=
  ∀ (session : Nat) (s : State),
    (∀ ticket : Bytes, s.plinth.up = true → s.plinth.sessions.length < 4 → isTicket ticket = true →
      Runs (.serviceTicket ticket) s (fun t =>
        (s.ticketFault ticket = none → .service s.plinth.nextSession true ∈ t.out
          ∧ ∃ x ∈ t.plinth.sessions, x.n = s.plinth.nextSession ∧ x.rights = BitVec.ofNat 16 (ofLe (sliceBytes ticket 6 2)))
        ∧ ∀ c : Nat, s.ticketFault ticket = some c → .sessionEnd s.plinth.nextSession ∈ t.out ∧ t.plinth.sessions = s.plinth.sessions
          ∧ t.reg .svc c = s.reg .svc c + 1 ∧ bitOf (t.reg .svc EVT_STATUS) SVC_EVT_TICKET_REFUSED = true))
    ∧ (∀ x : Session, s.session session = some x →
      (x.until_ < s.plinthTime →
        Runs (.serviceSessionExpiry session) s (fun t => t.session session = none ∧ .sessionEnd session ∈ t.out))
      ∧ Runs (.serviceSessionClose session) s (fun t => t.session session = none ∧ .sessionEnd session ∈ t.out))
    ∧ (∀ sec_ : Nat, s.may session 2 = true → 60 ≤ sec_ → sec_ ≤ 86400 → s.removing = false → s.wall.st = .member → s.service = false →
      s.front.latchClosed = true →
      Runs (.removeReturnTicket session sec_) s (fun t => .service session true ∈ t.out ∧ t.front.asking = some (3, some sec_)))
    ∧ (∀ key : Bytes, s.may session 7 = true → s.plinth.authorities.length < 8 →
      Runs (.authorityKeyInstall session key) s (fun t => .service session true ∈ t.out
        ∧ t.plinth.authorities = s.plinth.authorities ++ [key]))
    ∧ (∀ cal ksA ksB : Bool, s.may session 5 = true → s.front.latchClosed = true → s.service = false → s.removing = false →
      (s.wall.st = .member → Runs (.brickReset session cal ksA ksB) s (fun t => .service session true ∈ t.out
        ∧ t.plinth.brickReset = some (cal, ksA, ksB) ∧ t.front.asking = some (3, some 600)))
      ∧ (s.wall.st = .unjoined → s.powered = true → Runs (.brickReset session cal ksA ksB) s (fun t => .service session true ∈ t.out
        ∧ t.plinth.startOn = true ∧ t.plinth.brickReset = none ∧ t.running .w0 = false ∧ t.running .w1 = false)))
    ∧ (s.may session 1 = true → s.plinth.recovery = false →
      Runs (.romRecoveryEnter session) s (fun t => .service session true ∈ t.out ∧ t.plinth.recovery = true ∧ t.running .w0 = false
        ∧ t.running .w1 = false))
    ∧ (s.may session 1 = true → s.plinth.recovery = true → s.service = false → s.holdup = none → (s.inA.on = true ∨ s.inB.on = true) →
      Runs (.recoveryStart session) s (fun t => .service session true ∈ t.out ∧ t.plinth.recovery = false ∧ t.plinth.startOn = true
        ∧ t.plinth.failStarts = 0))

/-! ### Rules of the spec, each whole -/

/-- Locate (R452). -/
def Obligations.LocateStartsAndEnds : Prop :=
  ∀ (src : AccSrc) (h : Half) (s : State), s.plinth.up = true →
    ((match h with | .a => s.front.contactA | .b => s.front.contactB) = false →
      Runs (.locateAssert h) s (fun t => t.front.locateAt = some (s.front.locateAt.getD s.now)
        ∧ (match h with | .a => t.front.contactA | .b => t.front.contactB) = true))
    ∧ ((match h with | .a => s.front.contactA | .b => s.front.contactB) = true →
      Runs (.locateAssert h) s (fun t => t.front.locateAt = s.front.locateAt))
    ∧ Runs (.locateRelease h) s (fun t => t.front.locateAt = s.front.locateAt
        ∧ (match h with | .a => t.front.contactA | .b => t.front.contactB) = false)
    ∧ (∀ v : Word, writeArrives src .fpn FPN_LOCATE s →
      Runs (.locateWrite src v) s (fun t => t.front.locateAt = if bitOf v 0 then some (s.front.locateAt.getD s.now) else none))
    ∧ (∀ ms_ : Nat, ms_ < 2000 → s.afld .fpn FPN_CTRL 0 0 = 1 → s.front.locateAt ≠ none →
      Runs (.requestPress ms_) s (fun t => t.front.locateAt = none ∧ bitOf (t.reg .fpn EVT_STATUS) FPN_EVT_LOCATE_ACK = true
        ∧ t.front.contactA = s.front.contactA ∧ t.front.contactB = s.front.contactB))
    ∧ (∀ at_ : Nat, s.front.locateAt = some at_ →
      Runs .locateTimeout s (fun t => t.front.locateAt =
        if at_ + 60 * s.afld .fpn FPN_CTRL 15 8 * 1000000000 ≤ s.now then none else some at_))

/-- A channel's owner (R26): State gives it at most one; a wythe takes a channel that has no owner, that its owner has released, or whose owner
is held in reset; any other request changes nothing. -/
def Obligations.ArbiterGrants : Prop :=
  ∀ (w : Wy) (c : Fin 64) (s : State),
    ((s.chan c.val).owner = none → Runs (.channelTake w c) s (fun t => (t.chan c.val).owner = some w))
    ∧ ((s.chan c.val).owner = some w.peer → s.heldWy w.peer = true → Runs (.channelTake w c) s (fun t => (t.chan c.val).owner = some w))
    ∧ ((s.chan c.val).owner = some w.peer → s.heldWy w.peer = false → exec (.channelTake w c) s = .next s)
    ∧ ((s.chan c.val).owner = some w → exec (.channelTake w c) s = .next s)
    ∧ ((s.chan c.val).releasing = true → (s.chan c.val).lending = false → (s.chan c.val).mode = .home →
      (∀ j ∈ s.media.jobs, j.req.channel ≠ c.val) →
      Runs (.releaseComplete c) s (fun t => (t.chan c.val).owner = none))

/-- The compressed form of a chunk is kept only under the 15/16 rule, for a keyspace that compresses (R143): the compression unit's output
decodes to the chunk (R142), and what is kept goes on to encryption. -/
def Obligations.CompressedFormIsKeptBy1516 : Prop :=
  ∀ (w : Wy) (id n : Nat) (tile : Fin 128) (c : Cmd) (x : WChunk) (out : Bytes) (s : State),
    s.codecTile w .compress (.writeChunk id n) = some tile → (s.wy w).relief.cmd id = some c → c.wchunks[n]? = some x →
    compressedForm x.codec x.data out = true →
    (16 * out.length ≤ 15 * x.data.length →
      Runs (.compressJobEnd w id n out) s (fun t => (∃ d y, (t.wy w).relief.cmd id = some d ∧ d.wchunks[n]? = some y
        ∧ y.body = out ∧ y.codec = x.codec) ∧ ∃ j ∈ (t.wy w).cip.jobs, j.ref = .writeChunk id n ∧ j.encrypt = true ∧ j.input = out))
    ∧ (15 * x.data.length < 16 * out.length →
      Runs (.compressJobEnd w id n out) s (fun t => (∃ d y, (t.wy w).relief.cmd id = some d ∧ d.wchunks[n]? = some y
        ∧ y.body = x.data ∧ y.codec = .stored)
        ∧ ∃ j ∈ (t.wy w).cip.jobs, j.ref = .writeChunk id n ∧ j.encrypt = true ∧ j.input = x.data))
    ∧ (x.data.length = 65536 → out.length = 61440 →
      Runs (.compressJobEnd w id n out) s (fun t => ∃ d y, (t.wy w).relief.cmd id = some d ∧ d.wchunks[n]? = some y ∧ y.body = out))
    ∧ (x.data.length = 65536 → out.length = 61441 →
      Runs (.compressJobEnd w id n out) s (fun t => ∃ d y, (t.wy w).relief.cmd id = some d ∧ d.wchunks[n]? = some y ∧ y.body = x.data))

/-- The applied-delta log of a lead (R259): a batch already in the log, or below the partition's LWM, is answered APPLIED and changes
nothing but the clock and the transport; another enters the log, and what lies below the latest LWM leaves it. -/
def Obligations.AppliedDeltasAreLogged : Prop :=
  ∀ (w : Wy) (h : MHead) (p home g seq lwm : Nat) (ended : Bool) (entries : List DeltaEntry) (s : State), s.hears w = true →
    h.epoch = s.wall.epoch → s.leads g = true → (s.groupRec g).held = true → (s.groupRec g).recount = false → (s.groupRec g).syncing = [] →
    ((p, seq) ∈ (s.groupRec g).image.log ∨ seq < (tableGet? (s.groupRec g).image.lwm p).getD 0 →
      Runs (.refDelta w h p home g false ended seq lwm entries) s (fun t =>
        (∃ found, .mortar w h.src h.srcW (.refAck p g .applied seq 0 found) ∈ t.out)
          ∧ ∀ q, q ∉ [Part.clk, .mortar, .pcie, .regs] → q.same s t))
    ∧ ((p, seq) ∉ (s.groupRec g).image.log → (tableGet? (s.groupRec g).image.lwm p).getD 0 ≤ seq → lwm ≤ seq →
      Runs (.refDelta w h p home g false ended seq lwm entries) s (fun t =>
        (∃ missing found, .mortar w h.src h.srcW (.refAck p g .applied seq missing found) ∈ t.out)
          ∧ (p, seq) ∈ (t.groupRec g).image.log
          ∧ ∀ n, (p, n) ∈ (t.groupRec g).image.log → max ((tableGet? (s.groupRec g).image.lwm p).getD 0) lwm ≤ n))

/-! ### What commands leave alone -/

/-- A command leaves the queue and every part of the state that its row does not name in `changes` as it was. -/
def Obligations.CommandsLeaveTheRest : Prop :=
  ∀ (i : Instr) (s t : State), exec i s = .next t → t.pending = s.pending ∧ ∀ p : Part, p ∉ changes i → p.same s t

/-- Accesses to single registers and to the Plinth flash change what they name and nothing beside it (R9, R11, R404, R408, R426-R428, R464,
R472): every other register, every other code word of the flash, and every other part of the state stays. -/
def Obligations.AccessesChangeNothingElse : Prop :=
  ∀ (src : AccSrc) (p : Page) (w : Wy) (v : Word) (s t : State),
    (writeArrives src p EVT_STATUS s → Runs (.evtStatusClear src p v) s (fun t => t.reg p EVT_STATUS = s.reg p EVT_STATUS &&& ~~~v
      ∧ (∀ q off, pageKey q + off ≠ pageKey p + EVT_STATUS → t.reg q off = s.reg q off) ∧ (∀ x : Part, x ≠ .regs → x.same s t)
      ∧ t.out = s.out))
    ∧ (writeArrives src p EVT_FORCE s → Runs (.evtForce src p v) s (fun t => (∀ n < evtBits p,
        bitOf (t.reg p EVT_STATUS) n = (bitOf (s.reg p EVT_STATUS) n || bitOf v n))
      ∧ ∀ x : Part, x ≠ .regs → x ≠ .pcie → x.same s t))
    ∧ (writeArrives src p PAGE_LOCK s → Runs (.pageLock src p v) s (fun t =>
      t.rfld p PAGE_LOCK 0 0 = (if bitOf v 0 then 1 else s.rfld p PAGE_LOCK 0 0)
        ∧ (∀ q off, pageKey q + off ≠ pageKey p + PAGE_LOCK → t.reg q off = s.reg q off) ∧ (∀ x : Part, x ≠ .regs → x.same s t)
        ∧ t.out = s.out))
    ∧ (readArrives src p s → Runs (.errCountRead src p) s (fun t => t.reg p ERR_COUNT = 0
        ∧ (∀ q off, pageKey q + off ≠ pageKey p + ERR_COUNT → t.reg q off = s.reg q off) ∧ (∀ x : Part, x ≠ .regs → x.same s t)
        ∧ t.out = s.out ++ [.readData src (s.reg p ERR_COUNT).toNat]))
    ∧ (readArrives src (.glb w) s → exec (.hlcRead src w) s = .next t →
      ∀ q off, pageKey q + off ≠ pageKey (.glb w) + GLB_HLC_HI → t.reg q off = s.reg q off)
    ∧ (∀ (addr : Nat) (data : Bytes) (sector : Nat), s.plinth.up = true → flashShape (.program addr data true) = some (sector, 1) →
      flashMay .firmware (.program addr data true) sector 1 = true → s.flash.erase = none → s.flash.waiting = [] →
      s.programmed (addr / 32) = false →
      exec (.pfProgram addr data true) s = .next t →
      (∀ a, a ≠ addr / 32 → t.codeWord a = s.codeWord a) ∧ t.flash.counters = s.flash.counters)
    ∧ (∀ addr : Nat, s.plinth.up = true → s.flash.erase = none → exec (.pfErase addr) s = .next t → ∀ a, t.codeWord a = s.codeWord a)
    ∧ (∀ (addr : Nat) (outcomes : List (Nat × Nat)), exec (.pfRead addr outcomes) s = .next t → ∀ a, t.codeWord a = s.codeWord a)

end Statements
end

