-- ==== Sys2Proof/Laws/Keeps.lean ====
section
/-! SUPPORT. What a command leaves alone: the parts of the state, and the relation `Keeps` between a state and a later one, which
says once what every operation of the model keeps. -/

namespace Sys2Proof.Machine

/-- From s to t, only the parts listed change. The queue stays, what has been put out stays put out, time and the counter of free values do
not run back, and the registers keep their canonical form. -/
structure Keeps (l : List Part) (s t : State) : Prop where
  part : ∀ p, p ∉ l → p.same s t
  queue : t.pending = s.pending
  out : s.out <+: t.out
  time : s.now ≤ t.now
  fresh : s.fresh ≤ t.fresh
  canon : s.canon → t.canon

/-- Every part of the first list is in the second. -/
def within (a b : List Part) : Bool := a.all (fun p => b.contains p)

theorem mem_of_within {a b : List Part} (h : within a b = true) {p : Part} (hp : p ∈ a) : p ∈ b := by
  have := List.all_eq_true.mp h p hp
  simpa using this

theorem within_trans {a b c : List Part} (h : within a b = true) (k : within b c = true) : within a c = true :=
  List.all_eq_true.mpr (fun p hp => by simpa using mem_of_within k (mem_of_within h hp))

theorem within_refl {a : List Part} : within a a = true :=
  List.all_eq_true.mpr (fun p hp => by simpa using hp)

theorem Part.same_refl (p : Part) (s : State) : p.same s s := by
  cases p <;> simp [Part.same]

theorem Part.same_trans {p : Part} {s t u : State} (h : p.same s t) (k : p.same t u) : p.same s u := by
  cases p <;> simp_all [Part.same]

theorem Keeps.refl {l : List Part} {s : State} : Keeps l s s :=
  ⟨fun p _ => p.same_refl s, rfl, List.prefix_refl _, Nat.le_refl _, Nat.le_refl _, id⟩

/-- The same of a command's outcome. -/
structure KeepsO (l : List Part) (s : State) (o : Host.Outcome State Fault Refusal) : Prop where
  of : ∀ t, o = .next t → Keeps l s t

theorem KeepsO.next {l : List Part} {s t : State} (h : Keeps l s t) : KeepsO l s (.next t) := by
  refine ⟨fun u hu => ?_⟩
  cases hu
  exact h

/-- The next operation changes no part outside the list. -/
theorem Keeps.step {l m : List Part} {s t u : State} (k : Keeps m t u) (hl : within m l = true) (h : Keeps l s t) : Keeps l s u :=
  ⟨fun p hp => Part.same_trans (h.part p hp) (k.part p (fun hm => hp (mem_of_within hl hm))), k.queue.trans h.queue,
    h.out.trans k.out, Nat.le_trans h.time k.time, Nat.le_trans h.fresh k.fresh, fun c => k.canon (h.canon c)⟩

/-- An operation given as an argument. -/
theorem Keeps.app {l : List Part} {s u : State} {f : State → State} (hf : ∀ v, Keeps l v (f v)) (h : Keeps l s u) :
    Keeps l s (f u) := (hf u).step within_refl h

/-- Either of two operations. -/
theorem Keeps.ite {l : List Part} {s t u : State} {c : Prop} [Decidable c] (ht : Keeps l s t) (hu : Keeps l s u) :
    Keeps l s (if c then t else u) := by
  split
  · exact ht
  · exact hu

/-- A longer list of parts. -/
theorem Keeps.mono {l m : List Part} {s t : State} (k : Keeps m s t) (hl : within m l = true) : Keeps l s t :=
  k.step hl .refl

/-- A fold of operations. -/
theorem Keeps.foldl {α : Type} {l : List Part} {s u : State} {f : State → α → State} {xs : List α}
    (hf : ∀ v a, Keeps l v (f v a)) (h : Keeps l s u) : Keeps l s (xs.foldl f u) := by
  induction xs generalizing u with
  | nil => exact h
  | cons a xs ih => exact ih ((hf u a).step (by simp [within]) h)

/-- A record update that leaves the queue, the outbox, time, the free values and the registers alone. -/
theorem Keeps.put {l : List Part} {s t u : State} (hq : u.pending = t.pending) (ho : u.out = t.out) (ht : u.now = t.now)
    (hf : u.fresh = t.fresh) (hr : u.regs = t.regs) (ha : u.active = t.active) (hp : ∀ p, p ∉ l → p.same t u)
    (h : Keeps l s t) : Keeps l s u := by
  refine ⟨fun p hm => Part.same_trans (h.part p hm) (hp p hm), hq.trans h.queue, ho ▸ h.out, ht ▸ h.time, hf ▸ h.fresh, ?_⟩
  intro c
  have := h.canon c
  simpa [State.canon, hr, ha] using this

/-- The parts of a wythe. -/
structure WKeeps (l : List Part) (y z : Wythe) : Prop where
  relief : .relief ∉ l → z.relief = y.relief
  clk : .clk ∉ l → z.clk = y.clk
  cip : .cip ∉ l → z.cip = y.cip
  codec : .codec ∉ l → z.codec = y.codec
  mortar : .mortar ∉ l → z.mortar = y.mortar
  pcie : .pcie ∉ l → z.pcie = y.pcie
  bpm : .bpm ∉ l → z.bpm = y.bpm
  ptp : .ptp ∉ l → z.ptp = y.ptp
  portMode : .portMode ∉ l → z.portMode = y.portMode
  ports : .ports ∉ l → z.ports = y.ports
  pairs : .pairs ∉ l → z.pairs = y.pairs
  serving : .serving ∉ l → z.serving = y.serving
  start : .start ∉ l → z.start = y.start

/-- A change of the record of a wythe. -/
theorem State.modWy_keeps {l : List Part} {s : State} {w : Wy} {f : Wythe → Wythe} (hf : ∀ y, WKeeps l y (f y)) :
    Keeps l s (s.modWy w f) := by
  cases w
  · have k := hf s.w0
    refine Keeps.put (t := s) rfl rfl rfl rfl rfl rfl ?_ .refl
    intro p hp
    cases p <;> first | rfl | skip
    exacts [⟨k.relief hp, rfl⟩, ⟨k.clk hp, rfl⟩, ⟨k.cip hp, rfl⟩, ⟨k.codec hp, rfl⟩, ⟨k.mortar hp, rfl⟩, ⟨k.pcie hp, rfl⟩, ⟨k.bpm hp, rfl⟩, ⟨k.ptp hp, rfl⟩,
      ⟨k.portMode hp, rfl⟩, ⟨k.ports hp, rfl⟩, ⟨k.pairs hp, rfl⟩, ⟨k.serving hp, rfl⟩, ⟨k.start hp, rfl⟩]
  · have k := hf s.w1
    refine Keeps.put (t := s) rfl rfl rfl rfl rfl rfl ?_ .refl
    intro p hp
    cases p <;> first | rfl | skip
    exacts [⟨rfl, k.relief hp⟩, ⟨rfl, k.clk hp⟩, ⟨rfl, k.cip hp⟩, ⟨rfl, k.codec hp⟩, ⟨rfl, k.mortar hp⟩, ⟨rfl, k.pcie hp⟩, ⟨rfl, k.bpm hp⟩, ⟨rfl, k.ptp hp⟩,
      ⟨rfl, k.portMode hp⟩, ⟨rfl, k.ports hp⟩, ⟨rfl, k.pairs hp⟩, ⟨rfl, k.serving hp⟩, ⟨rfl, k.start hp⟩]

/-- The same for the record itself. -/
theorem Keeps.rec_ {l : List Part} {s t : State} {w0' w1' wall' store' tileFaults' stripes' refs' heldMortar' syncQueue' media' units' jobRuns' arriving' flash' recorder' plinth' front' health' inA' inB' holdup' fw' pwr' cover'}
    (h : Keeps l s t) (hp : ∀ p, p ∉ l → p.same t (State.mk t.now t.fresh t.pending t.out t.regs t.active w0' w1' wall' store' tileFaults' stripes' refs' heldMortar' syncQueue' media' units' jobRuns' arriving' flash' recorder' plinth' front' health' inA' inB' holdup' fw' pwr' cover')) : Keeps l s (State.mk t.now t.fresh t.pending t.out t.regs t.active w0' w1' wall' store' tileFaults' stripes' refs' heldMortar' syncQueue' media' units' jobRuns' arriving' flash' recorder' plinth' front' health' inA' inB' holdup' fw' pwr' cover') :=
  Keeps.put (t := t) rfl rfl rfl rfl rfl rfl hp h

/-- A change of the record of a wythe, after others. -/
theorem Keeps.modWy {l : List Part} {s t : State} {w : Wy} {f : Wythe → Wythe} (h : Keeps l s t)
    (hf : ∀ y, WKeeps l y (f y)) : Keeps l s (t.modWy w f) :=
  (State.modWy_keeps hf).step (List.all_eq_true.mpr (fun p hp => by simpa using hp)) h

/-! ### Canonical tables -/

/-- The keys of a table rise, and all stand above a bound. -/
theorem tableWf_cons {α : Type} {j : Nat} {a : α} {t : Table α} :
    tableWf ((j, a) :: t) = true ↔ (∀ e ∈ t, j < e.1) ∧ tableWf t = true := by
  induction t generalizing j a with
  | nil => simp [tableWf]
  | cons e t ih =>
    obtain ⟨k, b⟩ := e
    simp only [tableWf, Bool.and_eq_true, decide_eq_true_eq, List.mem_cons, forall_eq_or_imp]
    constructor
    · rintro ⟨h, w⟩
      exact ⟨⟨h, fun e he => Nat.lt_trans h ((ih.mp w).1 e he)⟩, w⟩
    · rintro ⟨⟨h, -⟩, w⟩
      exact ⟨h, w⟩

/-- What a stored table lists: what it listed, or the key stored. -/
theorem mem_tablePut {α : Type} {t : Table α} {k : Nat} {a : α} {e : Nat × α} (h : e ∈ tablePut t k a) :
    e ∈ t ∨ e = (k, a) := by
  induction t with
  | nil => simpa [tablePut] using h
  | cons x t ih =>
    obtain ⟨j, b⟩ := x
    unfold tablePut at h
    split at h
    · simpa [or_comm, or_left_comm] using h
    · split at h <;> simp only [List.mem_cons] at h ⊢ <;> tauto

/-- Storing keeps the canonical form. -/
theorem tablePut_wf {α : Type} {t : Table α} {k : Nat} {a : α} (h : tableWf t = true) : tableWf (tablePut t k a) = true := by
  induction t with
  | nil => rfl
  | cons x t ih =>
    obtain ⟨j, b⟩ := x
    obtain ⟨hj, ht⟩ := tableWf_cons.mp h
    unfold tablePut
    split
    · next hk =>
      refine tableWf_cons.mpr ⟨?_, h⟩
      rintro e he
      rcases List.mem_cons.mp he with rfl | he
      · exact hk
      · exact Nat.lt_trans hk (hj e he)
    · split
      · next hk => subst hk; exact tableWf_cons.mpr ⟨hj, ht⟩
      · next h1 h2 =>
        refine tableWf_cons.mpr ⟨fun e he => ?_, ih ht⟩
        rcases mem_tablePut he with he | rfl
        · exact hj e he
        · exact (by omega : j < k)

/-- Taking entries out keeps the canonical form. -/
theorem tableFilter_wf {α : Type} {t : Table α} {p : Nat × α → Bool} (h : tableWf t = true) : tableWf (t.filter p) = true := by
  induction t with
  | nil => rfl
  | cons x t ih =>
    obtain ⟨hj, ht⟩ := tableWf_cons.mp h
    rw [List.filter_cons]
    split
    · exact tableWf_cons.mpr ⟨fun e he => hj e (List.mem_filter.mp he).1, ih ht⟩
    · exact ih ht

/-- Deleting keeps the canonical form. -/
theorem tableDel_wf {α : Type} {t : Table α} {k : Nat} (h : tableWf t = true) : tableWf (tableDel t k) = true := tableFilter_wf h

/-- A read of the key stored gives the value stored. -/
@[simp] theorem tableGet_put {α : Type} (t : Table α) (k : Nat) (a : α) : tableGet? (tablePut t k a) k = some a := by
  induction t with
  | nil => simp [tablePut, tableGet?]
  | cons x t ih =>
    obtain ⟨j, b⟩ := x
    unfold tablePut
    split
    · simp [tableGet?]
    · split
      · simp [tableGet?]
      · next h1 h2 => simp [tableGet?, Ne.symm h2, ih]

/-- A store leaves every other key alone. -/
theorem tableGet_put_ne {α : Type} (t : Table α) {k j : Nat} (a : α) (h : j ≠ k) : tableGet? (tablePut t k a) j = tableGet? t j := by
  induction t with
  | nil => simp [tablePut, tableGet?, Ne.symm h]
  | cons x t ih =>
    obtain ⟨i, b⟩ := x
    unfold tablePut
    split
    · simp [tableGet?, Ne.symm h]
    · split
      · next h1 h2 => subst h2; simp [tableGet?, Ne.symm h]
      · simp only [tableGet?]; split <;> simp_all

/-! ### The operations that touch the outbox, the free values and the registers -/

theorem State.emit_keeps {s : State} {o : Output} : Keeps [] s (s.emit o) :=
  ⟨fun p _ => by cases p <;> simp [Part.same, State.emit], rfl, List.prefix_append _ _, Nat.le_refl _, Nat.le_refl _, id⟩

theorem State.emitAll_keeps {s : State} {o : List Output} : Keeps [] s (s.emitAll o) :=
  ⟨fun p _ => by cases p <;> simp [Part.same, State.emitAll], rfl, List.prefix_append _ _, Nat.le_refl _, Nat.le_refl _, id⟩

theorem State.used_keeps {s : State} : Keeps [] s s.used :=
  ⟨fun p _ => by cases p <;> simp [Part.same, State.used], rfl, List.prefix_refl _, Nat.le_refl _, Nat.le_succ _, id⟩

theorem Keeps.fresh_add {s : State} {n : Nat} : Keeps [] s { s with fresh := s.fresh + n } :=
  ⟨fun p _ => by cases p <;> simp [Part.same], rfl, List.prefix_refl _, Nat.le_refl _, Nat.le_add_right _ _, id⟩

theorem Keeps.fresh_add2 {s : State} {n m : Nat} : Keeps [] s { s with fresh := s.fresh + n + m } :=
  ⟨fun p _ => by cases p <;> simp [Part.same], rfl, List.prefix_refl _, Nat.le_refl _, by show s.fresh ≤ s.fresh + n + m; omega, id⟩

theorem Keeps.now_add {s : State} {n : Nat} : Keeps [] s { s with now := s.now + n } :=
  ⟨fun p _ => by cases p <;> simp [Part.same], rfl, List.prefix_refl _, Nat.le_add_right _ _, Nat.le_refl _, id⟩

theorem State.dropRegs_keeps {s : State} {f : Nat → Bool} : Keeps [.regs, .active] s (s.dropRegs f) :=
  ⟨fun q h => by cases q <;> first | exact absurd (by decide) h | simp [Part.same, State.dropRegs], rfl, List.prefix_refl _,
    Nat.le_refl _, Nat.le_refl _, fun c => ⟨tableFilter_wf c.1, tableFilter_wf c.2⟩⟩

theorem State.setReg_keeps {s : State} {p : Page} {off : Nat} {v : Word} : Keeps [.regs] s (s.setReg p off v) :=
  ⟨fun q h => by cases q <;> first | exact absurd (by decide) h | simp [Part.same, State.setReg], rfl, List.prefix_refl _,
    Nat.le_refl _, Nat.le_refl _, fun c => ⟨tablePut_wf c.1, c.2⟩⟩

theorem State.setAct_keeps {s : State} {p : Page} {off : Nat} {v : Word} : Keeps [.active] s (s.setAct p off v) :=
  ⟨fun q h => by cases q <;> first | exact absurd (by decide) h | simp [Part.same, State.setAct], rfl, List.prefix_refl _,
    Nat.le_refl _, Nat.le_refl _, fun c => ⟨c.1, tablePut_wf c.2⟩⟩

end Sys2Proof.Machine
end

