-- ==== Sys2Proof/Laws/KOps.lean ====
section
/-! SUPPORT. What each operation of Ops.lean keeps. -/

-- One lemma after the other: many side by side hold too much memory when the package is one text.
set_option Elab.async false

namespace Sys2Proof.Machine

theorem State.modRelief_keeps {s : State} {w : Wy} {f : Relief → Relief} :
    Keeps [.relief] s (State.modRelief s w f) := by
  unfold State.modRelief
  try dsimp only
  repeat' first
    | with_reducible exact Keeps.refl
    | with_reducible apply Keeps.modWy
    | (intro y; with_reducible apply WKeeps.mk <;> intro h <;> first | exact absurd (by decide) h | exact rfl)
    | decide

theorem State.modClk_keeps {s : State} {w : Wy} {f : Clocks → Clocks} :
    Keeps [.clk] s (State.modClk s w f) := by
  unfold State.modClk
  try dsimp only
  repeat' first
    | with_reducible exact Keeps.refl
    | with_reducible apply Keeps.modWy
    | (intro y; with_reducible apply WKeeps.mk <;> intro h <;> first | exact absurd (by decide) h | exact rfl)
    | decide

theorem State.modCip_keeps {s : State} {w : Wy} {f : Cip → Cip} :
    Keeps [.cip] s (State.modCip s w f) := by
  unfold State.modCip
  try dsimp only
  repeat' first
    | with_reducible exact Keeps.refl
    | with_reducible apply Keeps.modWy
    | (intro y; with_reducible apply WKeeps.mk <;> intro h <;> first | exact absurd (by decide) h | exact rfl)
    | decide

theorem State.modMortar_keeps {s : State} {w : Wy} {f : MortarW → MortarW} :
    Keeps [.mortar] s (State.modMortar s w f) := by
  unfold State.modMortar
  try dsimp only
  repeat' first
    | with_reducible exact Keeps.refl
    | with_reducible apply Keeps.modWy
    | (intro y; with_reducible apply WKeeps.mk <;> intro h <;> first | exact absurd (by decide) h | exact rfl)
    | decide

theorem State.modPcie_keeps {s : State} {w : Wy} {f : Pcie → Pcie} :
    Keeps [.pcie] s (State.modPcie s w f) := by
  unfold State.modPcie
  try dsimp only
  repeat' first
    | with_reducible exact Keeps.refl
    | with_reducible apply Keeps.modWy
    | (intro y; with_reducible apply WKeeps.mk <;> intro h <;> first | exact absurd (by decide) h | exact rfl)
    | decide

theorem State.modWall_keeps {s : State} {f : Wall → Wall} :
    Keeps [.wall] s (State.modWall s f) := by
  unfold State.modWall
  repeat' first
    | with_reducible exact Keeps.refl
    | (intro p hp; cases p <;> first | exact absurd (by decide) hp | (dsimp only [Part.same]; done) | (dsimp only [Part.same]; exact ⟨rfl, rfl⟩))
    | decide
    | with_reducible apply Keeps.rec_

theorem State.modStore_keeps {s : State} {f : Store → Store} :
    Keeps [.store] s (State.modStore s f) := by
  unfold State.modStore
  repeat' first
    | with_reducible exact Keeps.refl
    | (intro p hp; cases p <;> first | exact absurd (by decide) hp | (dsimp only [Part.same]; done) | (dsimp only [Part.same]; exact ⟨rfl, rfl⟩))
    | decide
    | with_reducible apply Keeps.rec_

theorem State.drawn_keeps {s : State} {n : Nat} :
    Keeps [] s (State.drawn s n) := by
  unfold State.drawn
  repeat' first
    | with_reducible exact Keeps.refl
    | (intro p hp; cases p <;> first | exact absurd (by decide) hp | (dsimp only [Part.same]; done) | (dsimp only [Part.same]; exact ⟨rfl, rfl⟩))
    | with_reducible apply Keeps.step Keeps.fresh_add
    | with_reducible apply Keeps.step Keeps.fresh_add2
    | decide
    | with_reducible apply Keeps.rec_

theorem State.setRfld_keeps {s : State} {p : Page} {off hi lo v : Nat} :
    Keeps [.regs] s (State.setRfld s p off hi lo v) := by
  unfold State.setRfld
  repeat' first
    | with_reducible exact Keeps.refl
    | with_reducible apply Keeps.step State.setReg_keeps
    | decide

theorem State.sendMsix_keeps {s : State} {w : Wy} {v : Nat} :
    Keeps [.pcie] s (State.sendMsix s w v) := by
  unfold State.sendMsix
  try dsimp only
  repeat' first
    | with_reducible exact Keeps.refl
    | with_reducible apply Keeps.step State.modPcie_keeps
    | with_reducible apply Keeps.step State.emit_keeps
    | decide
    | split

theorem State.pendMsix_keeps {s : State} {w : Wy} :
    Keeps [.pcie] s (State.pendMsix s w) := by
  unfold State.pendMsix
  repeat' first
    | with_reducible exact Keeps.refl
    | with_reducible apply Keeps.step State.sendMsix_keeps
    | decide
    | split

theorem State.becamePending_keeps {s : State} {p : Page} {before : Bool} :
    Keeps [.pcie] s (State.becamePending s p before) := by
  unfold State.becamePending
  repeat' first
    | with_reducible exact Keeps.refl
    | with_reducible apply Keeps.step State.pendMsix_keeps
    | decide
    | split

theorem State.setEvt_keeps {s : State} {p : Page} {bitsSet : Word} :
    Keeps [.pcie, .regs] s (State.setEvt s p bitsSet) := by
  unfold State.setEvt
  try dsimp only
  repeat' first
    | with_reducible exact Keeps.refl
    | with_reducible apply Keeps.step State.setReg_keeps
    | with_reducible apply Keeps.step State.becamePending_keeps
    | decide

theorem State.event_keeps {s : State} {p : Page} {n : Nat} :
    Keeps [.pcie, .regs] s (State.event s p n) := by
  unfold State.event
  repeat' first
    | with_reducible exact Keeps.refl
    | with_reducible apply Keeps.step State.setEvt_keeps
    | decide

theorem State.bumpBy_keeps {s : State} {p : Page} {off n : Nat} :
    Keeps [.pcie, .regs] s (State.bumpBy s p off n) := by
  unfold State.bumpBy
  try dsimp only
  repeat' first
    | with_reducible exact Keeps.refl
    | with_reducible apply Keeps.step State.setReg_keeps
    | with_reducible apply Keeps.step State.event_keeps
    | decide
    | split

theorem State.bump_keeps {s : State} {p : Page} {off : Nat} :
    Keeps [.pcie, .regs] s (State.bump s p off) := by
  unfold State.bump
  repeat' first
    | with_reducible exact Keeps.refl
    | with_reducible apply Keeps.step State.bumpBy_keeps
    | decide

theorem State.countError_keeps {s : State} {p : Page} :
    Keeps [.regs] s (State.countError s p) := by
  unfold State.countError
  repeat' first
    | with_reducible exact Keeps.refl
    | with_reducible apply Keeps.step State.setReg_keeps
    | decide

theorem State.pageError_keeps {s : State} {p : Page} {code info0 info1 : Nat} :
    Keeps [.regs] s (State.pageError s p code info0 info1) := by
  unfold State.pageError
  repeat' first
    | with_reducible exact Keeps.refl
    | with_reducible apply Keeps.step State.countError_keeps
    | with_reducible apply Keeps.step State.setReg_keeps
    | decide

theorem State.setUnit_keeps {s : State} {p : Page} {u : UnitSt} :
    Keeps [.regs] s (State.setUnit s p u) := by
  unfold State.setUnit
  repeat' first
    | with_reducible exact Keeps.refl
    | with_reducible apply Keeps.step State.setRfld_keeps
    | decide

theorem State.modUjob_keeps {s : State} {p : Page} {f : UnitJob → UnitJob} :
    Keeps [.units] s (State.modUjob s p f) := by
  unfold State.modUjob
  try dsimp only
  repeat' first
    | with_reducible exact Keeps.refl
    | (intro p hp; cases p <;> first | exact absurd (by decide) hp | (dsimp only [Part.same]; done) | (dsimp only [Part.same]; exact ⟨rfl, rfl⟩))
    | decide
    | with_reducible apply Keeps.rec_

theorem State.jobSent_keeps {s : State} {w : Wy} {t : Fin 128} :
    Keeps [.pcie, .regs] s (State.jobSent s w t) := by
  unfold State.jobSent
  repeat' first
    | with_reducible exact Keeps.refl
    | with_reducible apply Keeps.step State.bump_keeps
    | decide

theorem State.jobGone_keeps {s : State} {w : Wy} {t : Fin 128} :
    Keeps [.pcie, .regs] s (State.jobGone s w t) := by
  unfold State.jobGone
  repeat' first
    | with_reducible exact Keeps.refl
    | with_reducible apply Keeps.step State.bump_keeps
    | decide

theorem State.forgetRuns_keeps {s : State} {w : Wy} {ref : JobRef} {k : TileKind} :
    Keeps [.jobRuns] s (State.forgetRuns s w ref k) := by
  unfold State.forgetRuns
  try dsimp only
  repeat' first
    | with_reducible exact Keeps.refl
    | (intro p hp; cases p <;> first | exact absurd (by decide) hp | (dsimp only [Part.same]; done) | (dsimp only [Part.same]; exact ⟨rfl, rfl⟩))
    | decide
    | with_reducible apply Keeps.rec_

theorem State.seeHlc_keeps {s : State} {w : Wy} {r : Nat} :
    Keeps [.clk] s (State.seeHlc s w r) := by
  unfold State.seeHlc
  try dsimp only
  repeat' first
    | with_reducible exact Keeps.refl
    | with_reducible apply Keeps.step State.modClk_keeps
    | decide

theorem State.record_keeps {s : State} {source severity code page : Nat} {detail : Bytes} :
    Keeps [.arriving] s (State.record s source severity code page detail) := by
  unfold State.record
  try dsimp only
  repeat' first
    | with_reducible exact Keeps.refl
    | (intro p hp; cases p <;> first | exact absurd (by decide) hp | (dsimp only [Part.same]; done) | (dsimp only [Part.same]; exact ⟨rfl, rfl⟩))
    | decide
    | split
    | with_reducible apply Keeps.rec_

theorem State.recordOpen_keeps {s : State} {source severity : Nat} {p : Page} {detail : Bytes} :
    Keeps [.arriving] s (State.recordOpen s source severity p detail) := by
  unfold State.recordOpen
  repeat' first
    | with_reducible exact Keeps.refl
    | with_reducible apply Keeps.step State.used_keeps
    | with_reducible apply Keeps.step State.record_keeps
    | decide

theorem State.modQueue_keeps {s : State} {w : Wy} {q : Nat} {f : Queue → Queue} :
    Keeps [.relief] s (State.modQueue s w q f) := by
  unfold State.modQueue
  try dsimp only
  repeat' first
    | with_reducible exact Keeps.refl
    | with_reducible apply Keeps.step State.modRelief_keeps
    | decide

theorem State.modPage_keeps {s : State} {w : Wy} {n : Nat} {f : QPage → QPage} :
    Keeps [.pcie] s (State.modPage s w n f) := by
  unfold State.modPage
  try dsimp only
  repeat' first
    | with_reducible exact Keeps.refl
    | with_reducible apply Keeps.step State.modPcie_keeps
    | decide

theorem State.writeStatus_keeps {s : State} {w : Wy} {n : Nat} :
    Keeps [.pcie] s (State.writeStatus s w n) := by
  unfold State.writeStatus
  try dsimp only
  repeat' first
    | with_reducible exact Keeps.refl
    | with_reducible apply Keeps.step State.modPage_keeps
    | with_reducible apply Keeps.step State.sendMsix_keeps
    | with_reducible apply Keeps.step State.emit_keeps
    | decide
    | split

theorem State.tagFreed_keeps {s : State} :
    Keeps [.pwr] s (State.tagFreed s) := by
  unfold State.tagFreed
  repeat' first
    | with_reducible exact Keeps.refl
    | (intro p hp; cases p <;> first | exact absurd (by decide) hp | (dsimp only [Part.same]; done) | (dsimp only [Part.same]; exact ⟨rfl, rfl⟩))
    | decide
    | with_reducible apply Keeps.rec_

theorem State.drainRing_keeps {s : State} {w : Wy} {page n : Nat} : Keeps [.pcie, .pwr] s (State.drainRing s w page n) := by
  induction n generalizing s with
  | zero => exact .refl
  | succ n ih =>
    unfold State.drainRing
    try dsimp only
    repeat' first
      | with_reducible apply Keeps.refl
      | with_reducible assumption
      | with_reducible apply Keeps.step ih
      | with_reducible apply Keeps.step State.tagFreed_keeps
      | with_reducible apply Keeps.step State.modPage_keeps
      | with_reducible apply Keeps.step State.emit_keeps
      | decide
      | split

theorem State.handOut_keeps {s : State} {w : Wy} {q : Nat} {m : BusMsg} :
    Keeps [.pcie, .pwr] s (State.handOut s w q m) := by
  unfold State.handOut
  try dsimp only
  repeat' first
    | with_reducible exact Keeps.refl
    | with_reducible apply Keeps.step State.tagFreed_keeps
    | with_reducible apply Keeps.step State.writeStatus_keeps
    | with_reducible apply Keeps.step State.modPage_keeps
    | with_reducible apply Keeps.step State.drainRing_keeps
    | with_reducible apply Keeps.step State.emit_keeps
    | decide
    | split

theorem State.warnWy_keeps {s : State} {w : Wy} {code detail : Nat} :
    Keeps [.relief, .pcie, .pwr] s (State.warnWy s w code detail) := by
  unfold State.warnWy
  try dsimp only
  repeat' first
    | with_reducible exact Keeps.refl
    | with_reducible apply Keeps.step State.handOut_keeps
    | with_reducible apply Keeps.step State.modQueue_keeps
    | (with_reducible apply Keeps.foldl; intro _ _; try dsimp only)
    | decide

theorem State.earlyWarn_keeps {s : State} {code severity detail : Nat} {bytes : Bytes} :
    Keeps [.relief, .pcie, .regs, .arriving, .pwr] s (State.earlyWarn s code severity detail bytes) := by
  unfold State.earlyWarn
  try dsimp only
  repeat' first
    | with_reducible exact Keeps.refl
    | with_reducible apply Keeps.step State.bump_keeps
    | with_reducible apply Keeps.step State.warnWy_keeps
    | with_reducible apply Keeps.step State.recordOpen_keeps
    | with_reducible apply Keeps.step State.event_keeps
    | decide
    | split

theorem State.modFlow_keeps {s : State} {w : Wy} {b : Nat} {bw : Wy} {n : Nat} {f : Flow → Flow} :
    Keeps [.mortar] s (State.modFlow s w b bw n f) := by
  unfold State.modFlow
  try dsimp only
  repeat' first
    | with_reducible exact Keeps.refl
    | with_reducible apply Keeps.step State.modMortar_keeps
    | decide

theorem State.openFlow_keeps {s : State} {w : Wy} {b : Nat} {bw : Wy} {n : Nat} :
    Keeps [.mortar] s (State.openFlow s w b bw n) := by
  unfold State.openFlow
  try dsimp only
  repeat' first
    | with_reducible exact Keeps.refl
    | with_reducible apply Keeps.step State.modMortar_keeps
    | with_reducible apply Keeps.step State.modFlow_keeps
    | decide
    | split

theorem State.sendAck_keeps {s : State} {w : Wy} {b : Nat} {bw : Wy} {flow ack sack : Nat} {ce resync : Bool} {addr : BitVec 128} :
    Keeps [.pcie, .regs] s (State.sendAck s w b bw flow ack sack ce resync addr) := by
  unfold State.sendAck
  try dsimp only
  repeat' first
    | with_reducible exact Keeps.refl
    | with_reducible apply Keeps.step State.used_keeps
    | with_reducible apply Keeps.step State.bump_keeps
    | with_reducible apply Keeps.step State.emit_keeps
    | decide

theorem State.pushFlow_keeps {s : State} {w : Wy} {b : Nat} {bw : Wy} {n : Nat} :
    Keeps [.mortar, .pcie, .regs] s (State.pushFlow s w b bw n) := by
  unfold State.pushFlow
  try dsimp only
  repeat' first
    | with_reducible exact Keeps.refl
    | with_reducible apply Keeps.step State.used_keeps
    | with_reducible apply Keeps.step State.emitAll_keeps
    | with_reducible apply Keeps.step State.bumpBy_keeps
    | with_reducible apply Keeps.step State.modFlow_keeps
    | decide
    | split

theorem State.flowSend_keeps {s : State} {w : Wy} {b : Nat} {bw : Wy} {n : Nat} {addr : BitVec 128} {m : MortarBody} :
    Keeps [.mortar, .pcie, .regs] s (State.flowSend s w b bw n addr m) := by
  unfold State.flowSend
  try dsimp only
  repeat' first
    | with_reducible exact Keeps.refl
    | with_reducible apply Keeps.step State.pushFlow_keeps
    | with_reducible apply Keeps.step State.openFlow_keeps
    | with_reducible apply Keeps.step State.modFlow_keeps
    | decide

theorem State.mortarTo_keeps {s : State} {w : Wy} {dst : Nat} {dstW : Wy} {addr : BitVec 128} {b : MortarBody} :
    Keeps [.mortar, .pcie, .regs] s (State.mortarTo s w dst dstW addr b) := by
  unfold State.mortarTo
  try dsimp only
  repeat' first
    | with_reducible exact Keeps.refl
    | with_reducible apply Keeps.step State.emit_keeps
    | with_reducible apply Keeps.step State.flowSend_keeps
    | with_reducible apply Keeps.step State.used_keeps
    | decide
    | split

theorem State.mortarOut_keeps {s : State} {w : Wy} {dst : Nat} {dstW : Wy} {b : MortarBody} :
    Keeps [.mortar, .pcie, .regs] s (State.mortarOut s w dst dstW b) := by
  unfold State.mortarOut
  repeat' first
    | with_reducible exact Keeps.refl
    | with_reducible apply Keeps.step State.mortarTo_keeps
    | with_reducible apply Keeps.step State.used_keeps
    | decide
    | split

theorem State.toPart_keeps {s : State} {w : Wy} {dst p : Nat} {b : MortarBody} :
    Keeps [.mortar, .pcie, .regs] s (State.toPart s w dst p b) := by
  unfold State.toPart
  repeat' first
    | with_reducible exact Keeps.refl
    | with_reducible apply Keeps.step State.mortarOut_keeps
    | decide

theorem State.toArmature_keeps {s : State} {w : Wy} {b : MortarBody} :
    Keeps [.mortar, .pcie, .regs] s (State.toArmature s w b) := by
  unfold State.toArmature
  try dsimp only
  repeat' first
    | with_reducible exact Keeps.refl
    | with_reducible apply Keeps.step State.mortarOut_keeps
    | (with_reducible apply Keeps.foldl; intro _ _; try dsimp only)
    | decide

theorem State.mirrored_keeps {s : State} {w : Wy} :
    Keeps [.pcie, .regs] s (State.mirrored s w) := by
  unfold State.mirrored
  repeat' first
    | with_reducible exact Keeps.refl
    | with_reducible apply Keeps.step State.bump_keeps
    | decide
    | split

theorem State.ackPlaced_keeps {s : State} {w : Wy} {x : Placing} :
    Keeps [.mortar, .pcie, .regs] s (State.ackPlaced s w x) := by
  unfold State.ackPlaced
  repeat' first
    | with_reducible exact Keeps.refl
    | with_reducible apply Keeps.step State.mortarOut_keeps
    | decide
    | split

theorem State.place_keeps {s : State} {w : Wy} {x : Placing} :
    Keeps [.mortar, .pcie, .regs, .store] s (State.place s w x) := by
  unfold State.place
  try dsimp only
  repeat' first
    | with_reducible exact Keeps.refl
    | with_reducible apply Keeps.step State.ackPlaced_keeps
    | with_reducible apply Keeps.step State.mirrored_keeps
    | with_reducible apply Keeps.step State.modStore_keeps
    | decide
    | split

theorem State.writeKeys_keeps {s : State} {f : KsImage → KsImage} :
    Keeps [.plinth] s (State.writeKeys s f) := by
  unfold State.writeKeys
  try dsimp only
  repeat' first
    | with_reducible exact Keeps.refl
    | (intro p hp; cases p <;> first | exact absurd (by decide) hp | (dsimp only [Part.same]; done) | (dsimp only [Part.same]; exact ⟨rfl, rfl⟩))
    | decide
    | split
    | with_reducible apply Keeps.rec_

end Sys2Proof.Machine
end

