-- ==== Sys2Proof/Laws/KChisel.lean ====
section
/-! SUPPORT. What each operation of Chisel.lean keeps. -/

-- One lemma after the other: many side by side hold too much memory when the package is one text.
set_option Elab.async false

namespace Sys2Proof.Machine

theorem State.modMedia_keeps {s : State} {f : Media → Media} :
    Keeps [.media] s (State.modMedia s f) := by
  unfold State.modMedia
  repeat' first
    | with_reducible exact Keeps.refl
    | (intro p hp; cases p <;> first | exact absurd (by decide) hp | (dsimp only [Part.same]; done) | (dsimp only [Part.same]; exact ⟨rfl, rfl⟩))
    | decide
    | with_reducible apply Keeps.rec_

theorem State.modChan_keeps {s : State} {c : Nat} {f : ChanSt → ChanSt} :
    Keeps [.media] s (State.modChan s c f) := by
  unfold State.modChan
  try dsimp only
  repeat' first
    | with_reducible exact Keeps.refl
    | with_reducible apply Keeps.step State.modMedia_keeps
    | decide

theorem State.modDie_keeps {s : State} {d : Nat} {f : DieSt → DieSt} :
    Keeps [.media] s (State.modDie s d f) := by
  unfold State.modDie
  try dsimp only
  repeat' first
    | with_reducible exact Keeps.refl
    | with_reducible apply Keeps.step State.modMedia_keeps
    | decide

theorem State.modBlk_keeps {s : State} {k : Nat} {f : Blk → Blk} :
    Keeps [.media] s (State.modBlk s k f) := by
  unfold State.modBlk
  try dsimp only
  repeat' first
    | with_reducible exact Keeps.refl
    | with_reducible apply Keeps.step State.modMedia_keeps
    | decide

theorem State.dieUnknown_keeps {s : State} {d : Nat} :
    Keeps [.media] s (State.dieUnknown s d) := by
  unfold State.dieUnknown
  try dsimp only
  repeat' first
    | with_reducible exact Keeps.refl
    | with_reducible apply Keeps.step State.modMedia_keeps
    | decide
    | split

theorem State.chanUnknown_keeps {s : State} {c : Nat} :
    Keeps [.media] s (State.chanUnknown s c) := by
  unfold State.chanUnknown
  try dsimp only
  repeat' first
    | with_reducible exact Keeps.refl
    | with_reducible apply Keeps.step State.modMedia_keeps
    | decide
    | split

theorem State.chResult_keeps {s : State} {j : ChJob} {e : DieEnd} {data : List (Option Cw)} :
    Keeps [.pcie, .regs, .arriving] s (State.chResult s j e data) := by
  unfold State.chResult
  try dsimp only
  repeat' first
    | with_reducible exact Keeps.refl
    | with_reducible apply Keeps.step State.bump_keeps
    | with_reducible apply Keeps.step State.recordOpen_keeps
    | with_reducible apply Keeps.step State.emit_keeps
    | with_reducible apply Keeps.step State.event_keeps
    | decide
    | split

theorem State.modCh_keeps {s : State} {id : Nat} {f : ChJob → ChJob} :
    Keeps [.media] s (State.modCh s id f) := by
  unfold State.modCh
  try dsimp only
  repeat' first
    | with_reducible exact Keeps.refl
    | with_reducible apply Keeps.step State.modMedia_keeps
    | decide

theorem State.startOp_keeps {s : State} {j : ChJob} :
    Keeps [.pcie, .regs, .media, .arriving] s (State.startOp s j) := by
  unfold State.startOp
  try dsimp only
  repeat' first
    | with_reducible exact Keeps.refl
    | with_reducible apply Keeps.step State.bump_keeps
    | with_reducible apply Keeps.step State.modMedia_keeps
    | with_reducible apply Keeps.step State.bumpBy_keeps
    | with_reducible apply Keeps.step State.modCh_keeps
    | with_reducible apply Keeps.step State.chResult_keeps
    | decide
    | split

theorem State.grantMin_keeps {s : State} {w : Wy} {panel : Nat} {cls : List Nat} :
    Keeps [.pcie, .regs, .media, .arriving] s (State.grantMin s w panel cls) := by
  unfold State.grantMin
  try dsimp only
  repeat' first
    | with_reducible exact Keeps.refl
    | with_reducible apply Keeps.step State.startOp_keeps
    | decide
    | split

theorem State.grantRest_keeps {s : State} {w : Wy} {panel : Nat} {x1 : List (List Nat)} : Keeps [.pcie, .regs, .media, .arriving] s (State.grantRest s w panel x1) := by
  induction x1 generalizing s with
  | nil => exact .refl
  | cons a l ih =>
    unfold State.grantRest
    try dsimp only
    repeat' first
      | with_reducible apply Keeps.refl
      | with_reducible assumption
      | with_reducible apply Keeps.step ih
      | with_reducible apply Keeps.step State.startOp_keeps
      | (intro p hp; cases p <;> first | exact absurd (by decide) hp | (dsimp only [Part.same]; done) | (dsimp only [Part.same]; exact ⟨rfl, rfl⟩))
      | decide
      | split
      | with_reducible apply Keeps.rec_

theorem State.grantDump_keeps {s : State} {panel : Nat} :
    Keeps [.pcie, .regs, .media, .arriving] s (State.grantDump s panel) := by
  unfold State.grantDump
  try dsimp only
  repeat' first
    | with_reducible exact Keeps.refl
    | with_reducible apply Keeps.step State.startOp_keeps
    | (with_reducible apply Keeps.foldl; intro _ _; try dsimp only)
    | decide
    | split

theorem State.grant_keeps {s : State} {w : Wy} {panel : Nat} :
    Keeps [.pcie, .regs, .media, .arriving] s (State.grant s w panel) := by
  unfold State.grant
  try dsimp only
  repeat' first
    | with_reducible exact Keeps.refl
    | with_reducible apply Keeps.step State.grantMin_keeps
    | with_reducible apply Keeps.step State.grantRest_keeps
    | with_reducible apply Keeps.step State.grantDump_keeps
    | (with_reducible apply Keeps.foldl; intro _ _; try dsimp only)
    | decide
    | split

theorem State.nextRead_keeps {s : State} {op : ChJob} :
    Keeps [.media] s (State.nextRead s op) := by
  unfold State.nextRead
  try dsimp only
  repeat' first
    | with_reducible exact Keeps.refl
    | with_reducible apply Keeps.step State.modCh_keeps
    | decide
    | split

theorem State.trySuspend_keeps {s : State} {op : ChJob} :
    Keeps [.pcie, .regs, .media] s (State.trySuspend s op) := by
  unfold State.trySuspend
  try dsimp only
  repeat' first
    | with_reducible exact Keeps.refl
    | with_reducible apply Keeps.step State.bump_keeps
    | with_reducible apply Keeps.step State.modCh_keeps
    | with_reducible apply Keeps.step State.nextRead_keeps
    | decide
    | split

theorem State.suspendDue_keeps {s : State} :
    Keeps [.pcie, .regs, .media] s (State.suspendDue s) := by
  unfold State.suspendDue
  try dsimp only
  repeat' first
    | with_reducible exact Keeps.refl
    | with_reducible apply Keeps.step State.trySuspend_keeps
    | (with_reducible apply Keeps.foldl; intro _ _; try dsimp only)
    | decide

theorem State.resumeOp_keeps {s : State} {op : ChJob} :
    Keeps [.media] s (State.resumeOp s op) := by
  unfold State.resumeOp
  try dsimp only
  repeat' first
    | with_reducible exact Keeps.refl
    | with_reducible apply Keeps.step State.modCh_keeps
    | decide

theorem State.chTake_keeps {s : State} {j : ChJob} :
    Keeps [.pcie, .regs, .media, .arriving] s (State.chTake s j) := by
  unfold State.chTake
  try dsimp only
  repeat' first
    | with_reducible exact Keeps.refl
    | with_reducible apply Keeps.step State.bump_keeps
    | with_reducible apply Keeps.step State.modMedia_keeps
    | with_reducible apply Keeps.step State.modCh_keeps
    | with_reducible apply Keeps.step State.chResult_keeps
    | with_reducible apply Keeps.step State.grant_keeps
    | with_reducible apply Keeps.step State.suspendDue_keeps
    | decide
    | split

theorem State.submit_keeps {s : State} {w : Wy} {rt : Routine} {r : ChReq} {what : ChFor} :
    Keeps [.pcie, .regs, .media, .arriving] s (State.submit s w rt r what) := by
  unfold State.submit
  try dsimp only
  repeat' first
    | with_reducible exact Keeps.refl
    | with_reducible apply Keeps.step State.bump_keeps
    | with_reducible apply Keeps.step State.modMedia_keeps
    | with_reducible apply Keeps.step State.chTake_keeps
    | with_reducible apply Keeps.step State.event_keeps
    | decide
    | split

theorem State.takeHeld_keeps {s : State} {c : Nat} :
    Keeps [.pcie, .regs, .media, .arriving] s (State.takeHeld s c) := by
  unfold State.takeHeld
  try dsimp only
  repeat' first
    | with_reducible exact Keeps.refl
    | with_reducible apply Keeps.step State.chTake_keeps
    | decide
    | split

theorem State.armErase_keeps {s : State} {e : EraseNote} :
    Keeps [.media] s (State.armErase s e) := by
  unfold State.armErase
  try dsimp only
  repeat' first
    | with_reducible exact Keeps.refl
    | with_reducible apply Keeps.step State.modBlk_keeps
    | (with_reducible apply Keeps.foldl; intro _ _; try dsimp only)
    | decide
    | split

theorem State.learn_keeps {s : State} {c : Nat} {x : Cw} :
    Keeps [.media] s (State.learn s c x) := by
  unfold State.learn
  try dsimp only
  repeat' first
    | with_reducible exact Keeps.refl
    | with_reducible apply Keeps.step State.modMedia_keeps
    | with_reducible apply Keeps.step State.armErase_keeps
    | decide
    | split

theorem State.progDone_keeps {s : State} {j : ChJob} {failed : List Nat} {temp : Int} :
    Keeps [.media, .health] s (State.progDone s j failed temp) := by
  unfold State.progDone
  try dsimp only
  repeat' first
    | with_reducible exact Keeps.refl
    | with_reducible apply Keeps.step State.modBlk_keeps
    | with_reducible apply Keeps.step State.modMedia_keeps
    | with_reducible apply Keeps.step State.learn_keeps
    | (with_reducible apply Keeps.foldl; intro _ _; try dsimp only)
    | (intro p hp; cases p <;> first | exact absurd (by decide) hp | (dsimp only [Part.same]; done) | (dsimp only [Part.same]; exact ⟨rfl, rfl⟩))
    | decide
    | split
    | with_reducible apply Keeps.rec_

theorem State.eraseDone_keeps {s : State} {j : ChJob} {failed : List Nat} :
    Keeps [.media] s (State.eraseDone s j failed) := by
  unfold State.eraseDone
  try dsimp only
  repeat' first
    | with_reducible exact Keeps.refl
    | with_reducible apply Keeps.step State.modBlk_keeps
    | with_reducible apply Keeps.step State.modMedia_keeps
    | (with_reducible apply Keeps.foldl; intro _ _; try dsimp only)
    | decide
    | split

theorem State.opEffect_keeps {s : State} {j : ChJob} {e : DieEnd} :
    Keeps [.pcie, .regs, .media, .health] s (State.opEffect s j e) := by
  unfold State.opEffect
  try dsimp only
  repeat' first
    | with_reducible exact Keeps.refl
    | with_reducible apply Keeps.step State.bump_keeps
    | with_reducible apply Keeps.step State.modMedia_keeps
    | with_reducible apply Keeps.step State.dieUnknown_keeps
    | with_reducible apply Keeps.step State.bumpBy_keeps
    | with_reducible apply Keeps.step State.modDie_keeps
    | with_reducible apply Keeps.step State.progDone_keeps
    | with_reducible apply Keeps.step State.learn_keeps
    | with_reducible apply Keeps.step State.eraseDone_keeps
    | with_reducible apply Keeps.step State.event_keeps
    | (with_reducible apply Keeps.foldl; intro _ _; try dsimp only)
    | decide
    | split

theorem State.opGone_keeps {s : State} {j : ChJob} :
    Keeps [.pcie, .regs, .media, .arriving] s (State.opGone s j) := by
  unfold State.opGone
  try dsimp only
  repeat' first
    | with_reducible exact Keeps.refl
    | with_reducible apply Keeps.step State.modMedia_keeps
    | with_reducible apply Keeps.step State.grant_keeps
    | with_reducible apply Keeps.step State.takeHeld_keeps
    | with_reducible apply Keeps.step State.nextRead_keeps
    | decide
    | split

end Sys2Proof.Machine
end

