-- ==== Sys2Proof/Laws/KDeltas.lean ====
section
/-! SUPPORT. What each operation of Deltas.lean keeps. -/

-- One lemma after the other: many side by side hold too much memory when the package is one text.
set_option Elab.async false

namespace Sys2Proof.Machine

theorem State.modRefs_keeps {s : State} {f : Refs → Refs} :
    Keeps [.refs] s (State.modRefs s f) := by
  unfold State.modRefs
  repeat' first
    | with_reducible exact Keeps.refl
    | (intro p hp; cases p <;> first | exact absurd (by decide) hp | (dsimp only [Part.same]; done) | (dsimp only [Part.same]; exact ⟨rfl, rfl⟩))
    | decide
    | with_reducible apply Keeps.rec_

theorem State.sendBatch_keeps {s : State} {b : DeltaBatch} :
    Keeps [.mortar, .pcie, .regs, .refs] s (State.sendBatch s b) := by
  unfold State.sendBatch
  try dsimp only
  repeat' first
    | with_reducible exact Keeps.refl
    | with_reducible apply Keeps.step State.mortarOut_keeps
    | with_reducible apply Keeps.step State.modRefs_keeps
    | decide
    | split

theorem State.addDeltaTo_keeps {s : State} {p g : Nat} {recount : Bool} {e : DeltaEntry} :
    Keeps [.mortar, .pcie, .regs, .refs] s (State.addDeltaTo s p g recount e) := by
  unfold State.addDeltaTo
  try dsimp only
  repeat' first
    | with_reducible exact Keeps.refl
    | with_reducible apply Keeps.step State.sendBatch_keeps
    | with_reducible apply Keeps.step State.modRefs_keeps
    | decide
    | split

theorem State.addDelta_keeps {s : State} {p : Nat} {e : DeltaEntry} :
    Keeps [.mortar, .pcie, .regs, .refs] s (State.addDelta s p e) := by
  unfold State.addDelta
  repeat' first
    | with_reducible exact Keeps.refl
    | with_reducible apply Keeps.step State.addDeltaTo_keeps
    | decide

theorem State.addDeltas_keeps {s : State} {p : Nat} {l : List DeltaEntry} :
    Keeps [.mortar, .pcie, .regs, .refs] s (State.addDeltas s p l) := by
  unfold State.addDeltas
  try dsimp only
  repeat' first
    | with_reducible exact Keeps.refl
    | with_reducible apply Keeps.step State.addDelta_keeps
    | (with_reducible apply Keeps.foldl; intro _ _; try dsimp only)
    | decide

end Sys2Proof.Machine
end

