-- ==== Sys2Proof/Laws/KFlash.lean ====
section
/-! SUPPORT. What each operation of Flash.lean keeps. -/

-- One lemma after the other: many side by side hold too much memory when the package is one text.
set_option Elab.async false

namespace Sys2Proof.Machine

theorem State.modPlinth_keeps {s : State} {f : Plinth → Plinth} :
    Keeps [.plinth] s (State.modPlinth s f) := by
  unfold State.modPlinth
  repeat' first
    | with_reducible exact Keeps.refl
    | (intro p hp; cases p <;> first | exact absurd (by decide) hp | (dsimp only [Part.same]; done) | (dsimp only [Part.same]; exact ⟨rfl, rfl⟩))
    | decide
    | with_reducible apply Keeps.rec_

theorem State.modFlash_keeps {s : State} {f : Flash → Flash} :
    Keeps [.flash] s (State.modFlash s f) := by
  unfold State.modFlash
  repeat' first
    | with_reducible exact Keeps.refl
    | (intro p hp; cases p <;> first | exact absurd (by decide) hp | (dsimp only [Part.same]; done) | (dsimp only [Part.same]; exact ⟨rfl, rfl⟩))
    | decide
    | with_reducible apply Keeps.rec_

theorem State.modRec_keeps {s : State} {f : Recorder → Recorder} :
    Keeps [.recorder] s (State.modRec s f) := by
  unfold State.modRec
  repeat' first
    | with_reducible exact Keeps.refl
    | (intro p hp; cases p <;> first | exact absurd (by decide) hp | (dsimp only [Part.same]; done) | (dsimp only [Part.same]; exact ⟨rfl, rfl⟩))
    | decide
    | with_reducible apply Keeps.rec_

theorem State.modBank_keeps {s : State} {n : Nat} {f : Bank → Bank} :
    Keeps [.recorder] s (State.modBank s n f) := by
  unfold State.modBank
  try dsimp only
  repeat' first
    | with_reducible exact Keeps.refl
    | with_reducible apply Keeps.step State.modRec_keeps
    | decide

theorem State.putWord_keeps {s : State} {n : Nat} {b : Bytes} :
    Keeps [.pcie, .regs, .flash] s (State.putWord s n b) := by
  unfold State.putWord
  try dsimp only
  repeat' first
    | with_reducible exact Keeps.refl
    | with_reducible apply Keeps.step State.bump_keeps
    | with_reducible apply Keeps.step State.modFlash_keeps
    | decide
    | split

theorem State.wipeSector_keeps {s : State} {sector : Nat} :
    Keeps [.flash] s (State.wipeSector s sector) := by
  unfold State.wipeSector
  try dsimp only
  repeat' first
    | with_reducible exact Keeps.refl
    | with_reducible apply Keeps.step State.modFlash_keeps
    | decide

theorem State.retireSector_keeps {s : State} {sector : Nat} {erased : Bool} :
    Keeps [.pcie, .regs, .arriving, .flash, .plinth] s (State.retireSector s sector erased) := by
  unfold State.retireSector
  try dsimp only
  repeat' first
    | with_reducible exact Keeps.refl
    | with_reducible apply Keeps.step State.writeKeys_keeps
    | with_reducible apply Keeps.step State.used_keeps
    | with_reducible apply Keeps.step State.modFlash_keeps
    | with_reducible apply Keeps.step State.wipeSector_keeps
    | with_reducible apply Keeps.step State.recordOpen_keeps
    | with_reducible apply Keeps.step State.event_keeps
    | decide
    | split

theorem State.flashEnd_keeps {s : State} {by_ : FlashBy} {result step bits_ : Nat} {data : Option Bytes} :
    Keeps [.pcie, .regs, .recorder] s (State.flashEnd s by_ result step bits_ data) := by
  unfold State.flashEnd
  try dsimp only
  repeat' first
    | with_reducible exact Keeps.refl
    | with_reducible apply Keeps.step State.modBank_keeps
    | with_reducible apply Keeps.step State.emit_keeps
    | with_reducible apply Keeps.step State.event_keeps
    | decide
    | split

theorem State.flashRefuse_keeps {s : State} {by_ : FlashBy} {result : Nat} :
    Keeps [.pcie, .regs, .recorder] s (State.flashRefuse s by_ result) := by
  unfold State.flashRefuse
  repeat' first
    | with_reducible exact Keeps.refl
    | with_reducible apply Keeps.step State.bump_keeps
    | with_reducible apply Keeps.step State.flashEnd_keeps
    | with_reducible apply Keeps.step State.event_keeps
    | decide

theorem State.freshen_keeps {s : State} {sector : Nat} :
    Keeps [.pcie, .regs, .recorder] s (State.freshen s sector) := by
  unfold State.freshen
  try dsimp only
  repeat' first
    | with_reducible exact Keeps.refl
    | with_reducible apply Keeps.step State.modRec_keeps
    | with_reducible apply Keeps.step State.bumpBy_keeps
    | with_reducible apply Keeps.step State.bump_keeps
    | decide
    | split

theorem State.runRead_keeps {s : State} {by_ : FlashBy} {addr : Nat} {outcomes : List (Nat × Nat)} :
    Keeps [.pcie, .regs, .arriving, .recorder] s (State.runRead s by_ addr outcomes) := by
  unfold State.runRead
  try dsimp only
  repeat' first
    | with_reducible exact Keeps.refl
    | with_reducible apply Keeps.step State.freshen_keeps
    | with_reducible apply Keeps.step State.bump_keeps
    | with_reducible apply Keeps.step State.bumpBy_keeps
    | with_reducible apply Keeps.step State.flashEnd_keeps
    | with_reducible apply Keeps.step State.recordOpen_keeps
    | with_reducible apply Keeps.step State.event_keeps
    | (with_reducible apply Keeps.foldl; intro _ _; try dsimp only)
    | decide
    | split

theorem State.runProgram_keeps {s : State} {by_ : FlashBy} {addr : Nat} {data : Bytes} {ok : Bool} :
    Keeps [.pcie, .regs, .arriving, .flash, .recorder, .plinth] s (State.runProgram s by_ addr data ok) := by
  unfold State.runProgram
  try dsimp only
  repeat' first
    | with_reducible exact Keeps.refl
    | with_reducible apply Keeps.step State.bump_keeps
    | with_reducible apply Keeps.step State.used_keeps
    | with_reducible apply Keeps.step State.modFlash_keeps
    | with_reducible apply Keeps.step State.flashRefuse_keeps
    | with_reducible apply Keeps.step State.putWord_keeps
    | with_reducible apply Keeps.step State.retireSector_keeps
    | with_reducible apply Keeps.step State.flashEnd_keeps
    | with_reducible apply Keeps.step State.recordOpen_keeps
    | decide
    | split

theorem State.runFlash_keeps {s : State} {x : FlashWait} :
    Keeps [.pcie, .regs, .arriving, .flash, .recorder, .plinth] s (State.runFlash s x) := by
  unfold State.runFlash
  try dsimp only
  repeat' first
    | with_reducible exact Keeps.refl
    | with_reducible apply Keeps.step State.runRead_keeps
    | with_reducible apply Keeps.step State.modFlash_keeps
    | with_reducible apply Keeps.step State.runProgram_keeps
    | decide
    | split

theorem State.flashDue_keeps {s : State} :
    Keeps [.pcie, .regs, .arriving, .flash, .recorder, .plinth] s (State.flashDue s) := by
  unfold State.flashDue
  try dsimp only
  repeat' first
    | with_reducible exact Keeps.refl
    | with_reducible apply Keeps.step State.bump_keeps
    | with_reducible apply Keeps.step State.runFlash_keeps
    | with_reducible apply Keeps.step State.modFlash_keeps
    | (with_reducible apply Keeps.foldl; intro _ _; try dsimp only)
    | decide
    | split

theorem State.runWaiting_keeps {s : State} {x1 : List FlashWait} : Keeps [.pcie, .regs, .arriving, .flash, .recorder, .plinth] s (State.runWaiting s x1) := by
  induction x1 generalizing s with
  | nil => exact State.modFlash_keeps.mono (by decide)
  | cons a l ih =>
    unfold State.runWaiting
    try dsimp only
    repeat' first
      | with_reducible apply Keeps.refl
      | with_reducible assumption
      | with_reducible apply Keeps.step ih
      | with_reducible apply Keeps.step State.runFlash_keeps
      | with_reducible apply Keeps.step State.modFlash_keeps
      | decide
      | split

theorem State.flashAsk_keeps {s : State} {by_ : FlashBy} {op : FlashOp} :
    Keeps [.pcie, .regs, .arriving, .flash, .recorder, .plinth] s (State.flashAsk s by_ op) := by
  unfold State.flashAsk
  try dsimp only
  repeat' first
    | with_reducible exact Keeps.refl
    | with_reducible apply Keeps.step State.runFlash_keeps
    | with_reducible apply Keeps.step State.modFlash_keeps
    | with_reducible apply Keeps.step State.flashRefuse_keeps
    | with_reducible apply Keeps.step State.flashDue_keeps
    | with_reducible apply Keeps.step State.flashEnd_keeps
    | decide
    | split

theorem State.raiseCounter_keeps {s : State} {n v : Nat} :
    Keeps [.pcie, .regs, .flash] s (State.raiseCounter s n v) := by
  unfold State.raiseCounter
  try dsimp only
  repeat' first
    | with_reducible exact Keeps.refl
    | with_reducible apply Keeps.step State.bumpBy_keeps
    | with_reducible apply Keeps.step State.modFlash_keeps
    | decide
    | split

theorem State.startStep_keeps {s : State} {step result mask variant : Nat} {detail : Bytes} :
    Keeps [.pcie, .regs, .flash] s (State.startStep s step result mask variant detail) := by
  unfold State.startStep
  try dsimp only
  repeat' first
    | with_reducible exact Keeps.refl
    | with_reducible apply Keeps.step State.putWord_keeps
    | decide

theorem State.eraseRing_keeps {s : State} :
    Keeps [.pcie, .regs, .flash] s (State.eraseRing s) := by
  unfold State.eraseRing
  repeat' first
    | with_reducible exact Keeps.refl
    | with_reducible apply Keeps.step State.bump_keeps
    | with_reducible apply Keeps.step State.wipeSector_keeps
    | decide

theorem State.startRecord_keeps {s : State} {cause : Nat} :
    Keeps [.pcie, .regs, .flash, .plinth] s (State.startRecord s cause) := by
  unfold State.startRecord
  try dsimp only
  repeat' first
    | with_reducible exact Keeps.refl
    | with_reducible apply Keeps.step State.eraseRing_keeps
    | with_reducible apply Keeps.step State.modPlinth_keeps
    | with_reducible apply Keeps.step State.putWord_keeps
    | decide
    | split

theorem State.writeEntry_keeps {s : State} {k : Nat} {e : EvtRec} :
    Keeps [.pcie, .regs, .flash] s (State.writeEntry s k e) := by
  unfold State.writeEntry
  repeat' first
    | with_reducible exact Keeps.refl
    | with_reducible apply Keeps.step State.putWord_keeps
    | decide

theorem State.rewrite_keeps {s : State} {sector : Nat} {keep : List EvtRec} :
    Keeps [.pcie, .regs, .arriving, .flash, .recorder, .plinth] s (State.rewrite s sector keep) := by
  unfold State.rewrite
  try dsimp only
  repeat' first
    | with_reducible exact Keeps.refl
    | with_reducible apply Keeps.step State.runFlash_keeps
    | with_reducible apply Keeps.step State.writeEntry_keeps
    | with_reducible apply Keeps.step State.modRec_keeps
    | (with_reducible apply Keeps.foldl; intro _ _; try dsimp only)
    | decide

theorem State.placeEntry_keeps {s : State} {e : EvtRec} :
    Keeps [.pcie, .regs, .arriving, .flash, .recorder, .plinth] s (State.placeEntry s e) := by
  unfold State.placeEntry
  try dsimp only
  repeat' first
    | with_reducible exact Keeps.refl
    | with_reducible apply Keeps.step State.bump_keeps
    | with_reducible apply Keeps.step State.writeEntry_keeps
    | with_reducible apply Keeps.step State.rewrite_keeps
    | with_reducible apply Keeps.step State.modRec_keeps
    | with_reducible apply Keeps.step State.event_keeps
    | (with_reducible apply Keeps.foldl; intro _ _; try dsimp only)
    | decide
    | split

theorem State.placeQueue_keeps {s : State} {n : Nat} : Keeps [.pcie, .regs, .arriving, .flash, .recorder, .plinth] s (State.placeQueue s n) := by
  induction n generalizing s with
  | zero => exact .refl
  | succ n ih =>
    unfold State.placeQueue
    try dsimp only
    repeat' first
      | with_reducible apply Keeps.refl
      | with_reducible assumption
      | with_reducible apply Keeps.step ih
      | with_reducible apply Keeps.step State.placeEntry_keeps
      | with_reducible apply Keeps.step State.modRec_keeps
      | decide
      | split

theorem State.takeEntry_keeps {s : State} {e : EvtRec} :
    Keeps [.pcie, .regs, .arriving, .flash, .recorder, .plinth] s (State.takeEntry s e) := by
  unfold State.takeEntry
  try dsimp only
  repeat' first
    | with_reducible exact Keeps.refl
    | with_reducible apply Keeps.step State.bump_keeps
    | with_reducible apply Keeps.step State.placeQueue_keeps
    | with_reducible apply Keeps.step State.modRec_keeps
    | with_reducible apply Keeps.step State.event_keeps
    | decide
    | split

theorem State.plinthEntry_keeps {s : State} {severity code page : Nat} {detail : Bytes} :
    Keeps [.pcie, .regs, .arriving, .flash, .recorder, .plinth] s (State.plinthEntry s severity code page detail) := by
  unfold State.plinthEntry
  repeat' first
    | with_reducible exact Keeps.refl
    | with_reducible apply Keeps.step State.takeEntry_keeps
    | decide

theorem State.clearStep_keeps {s : State} :
    Keeps [.pcie, .regs, .arriving, .flash, .recorder, .plinth] s (State.clearStep s) := by
  unfold State.clearStep
  try dsimp only
  repeat' first
    | with_reducible exact Keeps.refl
    | with_reducible apply Keeps.step State.plinthEntry_keeps
    | with_reducible apply Keeps.step State.rewrite_keeps
    | with_reducible apply Keeps.step State.modRec_keeps
    | with_reducible apply Keeps.step State.event_keeps
    | decide
    | split

theorem State.renewStep_keeps {s : State} :
    Keeps [.pcie, .regs, .arriving, .flash, .recorder, .plinth] s (State.renewStep s) := by
  unfold State.renewStep
  try dsimp only
  repeat' first
    | with_reducible exact Keeps.refl
    | with_reducible apply Keeps.step State.modRec_keeps
    | with_reducible apply Keeps.step State.rewrite_keeps
    | decide
    | split

theorem State.flashFree_keeps {s : State} :
    Keeps [.pcie, .regs, .arriving, .flash, .recorder, .plinth] s (State.flashFree s) := by
  unfold State.flashFree
  try dsimp only
  repeat' first
    | with_reducible exact Keeps.refl
    | with_reducible apply Keeps.step State.renewStep_keeps
    | with_reducible apply Keeps.step State.runWaiting_keeps
    | with_reducible apply Keeps.step State.clearStep_keeps
    | with_reducible apply Keeps.step State.placeQueue_keeps
    | decide

theorem State.beginClear_keeps {s : State} {c : Nat} :
    Keeps [.pcie, .regs, .arriving, .flash, .recorder, .plinth] s (State.beginClear s c) := by
  unfold State.beginClear
  try dsimp only
  repeat' first
    | with_reducible exact Keeps.refl
    | with_reducible apply Keeps.step State.clearStep_keeps
    | with_reducible apply Keeps.step State.plinthEntry_keeps
    | with_reducible apply Keeps.step State.modRec_keeps
    | decide

theorem State.recorderStart_keeps {s : State} :
    Keeps [.pcie, .regs, .arriving, .flash, .recorder, .plinth] s (State.recorderStart s) := by
  unfold State.recorderStart
  try dsimp only
  repeat' first
    | with_reducible exact Keeps.refl
    | with_reducible apply Keeps.step State.renewStep_keeps
    | with_reducible apply Keeps.step State.runFlash_keeps
    | with_reducible apply Keeps.step State.clearStep_keeps
    | with_reducible apply Keeps.step State.modFlash_keeps
    | with_reducible apply Keeps.step State.modRec_keeps
    | (with_reducible apply Keeps.foldl; intro _ _; try dsimp only)
    | decide
    | split

theorem execPfRead_keeps {addr : Nat} {outcomes : List (Nat × Nat)} {s : State} :
    KeepsO [.pcie, .regs, .arriving, .flash, .recorder, .plinth] s (execPfRead addr outcomes s) := by
  unfold execPfRead
  repeat' first
    | with_reducible exact Keeps.refl
    | with_reducible apply Keeps.step State.flashAsk_keeps
    | decide
    | with_reducible apply KeepsO.next
    | split

theorem execPfProgram_keeps {addr : Nat} {data : Bytes} {ok : Bool} {s : State} :
    KeepsO [.pcie, .regs, .arriving, .flash, .recorder, .plinth] s (execPfProgram addr data ok s) := by
  unfold execPfProgram
  repeat' first
    | with_reducible exact Keeps.refl
    | with_reducible apply Keeps.step State.flashAsk_keeps
    | decide
    | with_reducible apply KeepsO.next
    | split

theorem execPfErase_keeps {addr : Nat} {s : State} :
    KeepsO [.pcie, .regs, .arriving, .flash, .recorder, .plinth] s (execPfErase addr s) := by
  unfold execPfErase
  repeat' first
    | with_reducible exact Keeps.refl
    | with_reducible apply Keeps.step State.flashAsk_keeps
    | with_reducible apply Keeps.step State.flashEnd_keeps
    | decide
    | with_reducible apply KeepsO.next
    | split

theorem execPfEraseDone_keeps {ok : Bool} {s : State} :
    KeepsO [.pcie, .regs, .arriving, .flash, .recorder, .plinth] s (execPfEraseDone ok s) := by
  unfold execPfEraseDone
  try dsimp only
  repeat' first
    | with_reducible exact Keeps.refl
    | with_reducible apply Keeps.step State.bump_keeps
    | with_reducible apply Keeps.step State.flashFree_keeps
    | with_reducible apply Keeps.step State.modFlash_keeps
    | with_reducible apply Keeps.step State.wipeSector_keeps
    | with_reducible apply Keeps.step State.modRec_keeps
    | with_reducible apply Keeps.step State.retireSector_keeps
    | with_reducible apply Keeps.step State.flashEnd_keeps
    | decide
    | with_reducible apply KeepsO.next
    | split

theorem execPfCounterRead_keeps {n : Nat} {s : State} :
    KeepsO [.pcie, .regs, .recorder] s (execPfCounterRead n s) := by
  unfold execPfCounterRead
  repeat' first
    | with_reducible exact Keeps.refl
    | with_reducible apply Keeps.step State.flashEnd_keeps
    | decide
    | with_reducible apply KeepsO.next
    | split

theorem execPfCounterRaise_keeps {n v : Nat} {s : State} :
    KeepsO [.pcie, .regs, .flash, .recorder] s (execPfCounterRaise n v s) := by
  unfold execPfCounterRaise
  repeat' first
    | with_reducible exact Keeps.refl
    | with_reducible apply Keeps.step State.flashEnd_keeps
    | with_reducible apply Keeps.step State.raiseCounter_keeps
    | decide
    | with_reducible apply KeepsO.next
    | split

end Sys2Proof.Machine
end

