-- ==== Sys2Proof/Laws/KGate.lean ====
section
/-! SUPPORT. What each operation of Gate.lean keeps. -/

-- One lemma after the other: many side by side hold too much memory when the package is one text.
set_option Elab.async false

namespace Sys2Proof.Machine

theorem State.accessErr_keeps {s : State} {w : Wy} {kind off : Nat} {cnt : Option Nat} :
    Keeps [.pcie, .regs] s (State.accessErr s w kind off cnt) := by
  unfold State.accessErr
  try dsimp only
  repeat' first
    | with_reducible exact Keeps.refl
    | with_reducible apply Keeps.step State.setReg_keeps
    | with_reducible apply Keeps.step State.bump_keeps
    | with_reducible apply Keeps.step State.event_keeps
    | decide
    | split

theorem State.gated_keeps {l : List Part} {s t : State} {src : AccSrc} {p : Page} {off : Nat} {f : State → State}
    (hl : within [.pcie, .regs] l = true) (hf : ∀ v, Keeps l v (f v)) (h : Keeps l s t) : Keeps l s (t.gated src p off f) := by
  unfold State.gated
  repeat' first
    | with_reducible apply Keeps.refl
    | with_reducible assumption
    | with_reducible apply Keeps.app hf
    | (with_reducible refine within_trans ?_ hl; decide)
    | with_reducible apply Keeps.step State.pageError_keeps
    | with_reducible apply Keeps.step State.accessErr_keeps
    | decide
    | split

theorem State.readGate_keeps {l : List Part} {s t : State} {src : AccSrc} {p : Page} {off v : Nat} {f : State → State}
    (hl : within [.pcie, .regs] l = true) (hf : ∀ v, Keeps l v (f v)) (h : Keeps l s t) :
    Keeps l s (t.readGate src p off v f) := by
  unfold State.readGate
  dsimp only
  repeat' first
    | with_reducible apply Keeps.refl
    | with_reducible assumption
    | with_reducible apply Keeps.app hf
    | (with_reducible refine within_trans ?_ hl; decide)
    | with_reducible apply Keeps.step State.bump_keeps
    | with_reducible apply Keeps.step State.accessErr_keeps
    | with_reducible apply Keeps.step State.emit_keeps
    | decide
    | split

end Sys2Proof.Machine
end

