-- ==== Sys2Proof/Laws/KBuffers.lean ====
section
/-! SUPPORT. What each operation of Buffers.lean keeps. -/

-- One lemma after the other: many side by side hold too much memory when the package is one text.
set_option Elab.async false

namespace Sys2Proof.Machine

theorem State.modBpm_keeps {s : State} {w : Wy} {f : Bpm → Bpm} :
    Keeps [.bpm] s (State.modBpm s w f) := by
  unfold State.modBpm
  try dsimp only
  repeat' first
    | with_reducible exact Keeps.refl
    | with_reducible apply Keeps.modWy
    | (intro y; with_reducible apply WKeeps.mk <;> intro h <;> first | exact absurd (by decide) h | exact rfl)
    | decide

theorem State.modPool_keeps {s : State} {w : Wy} {n : Nat} {f : Pool → Pool} :
    Keeps [.bpm] s (State.modPool s w n f) := by
  unfold State.modPool
  try dsimp only
  repeat' first
    | with_reducible exact Keeps.refl
    | with_reducible apply Keeps.step State.modBpm_keeps
    | decide

theorem State.modBuf_keeps {s : State} {w : Wy} {n i : Nat} {f : Buf → Buf} :
    Keeps [.bpm] s (State.modBuf s w n i f) := by
  unfold State.modBuf
  try dsimp only
  repeat' first
    | with_reducible exact Keeps.refl
    | with_reducible apply Keeps.step State.modPool_keeps
    | decide

theorem State.bpmAnswer_keeps {s : State} {w : Wy} {requester result handle cookie : Nat} :
    Keeps [] s (State.bpmAnswer s w requester result handle cookie) := by
  unfold State.bpmAnswer
  repeat' first
    | with_reducible exact Keeps.refl
    | with_reducible apply Keeps.step State.emit_keeps
    | decide

theorem State.takeAt_keeps {s : State} {w : Wy} {n i : Nat} {r : BufReq} :
    Keeps [.pcie, .bpm, .regs] s (State.takeAt s w n i r) := by
  unfold State.takeAt
  try dsimp only
  repeat' first
    | with_reducible exact Keeps.refl
    | with_reducible apply Keeps.step State.modPool_keeps
    | with_reducible apply Keeps.step State.modBuf_keeps
    | with_reducible apply Keeps.step State.bump_keeps
    | with_reducible apply Keeps.step State.event_keeps
    | with_reducible apply Keeps.step State.bpmAnswer_keeps
    | decide
    | split

theorem State.takeBuf_keeps {s : State} {w : Wy} {n : Nat} {r : BufReq} :
    Keeps [.pcie, .bpm, .regs] s (State.takeBuf s w n r) := by
  unfold State.takeBuf
  try dsimp only
  repeat' first
    | with_reducible exact Keeps.refl
    | with_reducible apply Keeps.step State.takeAt_keeps
    | with_reducible apply Keeps.step State.used_keeps
    | decide
    | split

theorem State.unserved_keeps {s : State} {w : Wy} {r : BufReq} :
    Keeps [.pcie, .bpm, .regs] s (State.unserved s w r) := by
  unfold State.unserved
  try dsimp only
  repeat' first
    | with_reducible exact Keeps.refl
    | with_reducible apply Keeps.step State.bump_keeps
    | with_reducible apply Keeps.step State.bpmAnswer_keeps
    | with_reducible apply Keeps.step State.modPool_keeps
    | with_reducible apply Keeps.step State.modBpm_keeps
    | with_reducible apply Keeps.step State.event_keeps
    | decide
    | split

theorem State.servePool_keeps {s : State} {w : Wy} {n : Nat} {x1 : List BufReq} : Keeps [.pcie, .bpm, .regs] s (State.servePool s w n x1).1 := by
  induction x1 generalizing s with
  | nil => exact .refl
  | cons a l ih =>
    unfold State.servePool
    try dsimp only
    repeat' first
      | with_reducible apply Keeps.refl
      | with_reducible assumption
      | with_reducible apply Keeps.step ih
      | with_reducible apply Keeps.step State.unserved_keeps
      | with_reducible apply Keeps.step State.takeBuf_keeps
      | decide
      | split

theorem State.servePools_keeps {s : State} {w : Wy} {from_ : Nat} {c0 : Word} {all x2 : List BufReq} {x1 : List Nat} :
    Keeps [.pcie, .bpm, .regs] s (State.servePools s w from_ c0 all x1 x2) := by
  induction x1 generalizing s x2 with
  | nil => exact .refl
  | cons a l ih =>
    unfold State.servePools
    try dsimp only
    repeat' first
      | with_reducible apply Keeps.refl
      | with_reducible assumption
      | with_reducible apply Keeps.step ih
      | with_reducible apply Keeps.step State.bump_keeps
      | with_reducible apply Keeps.step State.servePool_keeps
      | decide
      | split

theorem State.allocCycles_keeps {s : State} {w : Wy} {ptr n : Nat} {l : List BufReq} :
    Keeps [.pcie, .bpm, .regs] s (State.allocCycles s w ptr l n) := by
  induction n generalizing s ptr l with
  | zero => exact .refl
  | succ n ih =>
    unfold State.allocCycles
    try dsimp only
    repeat' first
      | with_reducible apply Keeps.refl
      | with_reducible assumption
      | with_reducible apply Keeps.step ih
      | with_reducible apply Keeps.step State.servePools_keeps
      | decide
      | split

theorem execAlloc_keeps {w : Wy} {reqs : List BufReq} {s : State} :
    KeepsO [.pcie, .bpm, .regs] s (execAlloc w reqs s) := by
  unfold execAlloc
  try dsimp only
  repeat' first
    | with_reducible exact Keeps.refl
    | with_reducible apply Keeps.step State.allocCycles_keeps
    | with_reducible apply Keeps.step State.bpmAnswer_keeps
    | (with_reducible apply Keeps.foldl; intro _ _; try dsimp only)
    | decide
    | with_reducible apply KeepsO.next

theorem State.serveWait_keeps {s : State} {w : Wy} {n i : Nat} :
    Keeps [.pcie, .bpm, .regs] s (State.serveWait s w n i) := by
  unfold State.serveWait
  try dsimp only
  repeat' first
    | with_reducible exact Keeps.refl
    | with_reducible apply Keeps.step State.takeAt_keeps
    | with_reducible apply Keeps.step State.modBpm_keeps
    | decide
    | split

theorem State.dropCount_keeps {s : State} {w : Wy} {n i : Nat} :
    Keeps [.pcie, .bpm, .regs] s (State.dropCount s w n i) := by
  unfold State.dropCount
  try dsimp only
  repeat' first
    | with_reducible exact Keeps.refl
    | with_reducible apply Keeps.step State.serveWait_keeps
    | with_reducible apply Keeps.step State.modPool_keeps
    | with_reducible apply Keeps.step State.modBuf_keeps
    | decide
    | split

theorem State.bufOp_keeps {s : State} {w : Wy} {op : BufOp} {requester handle cookie : Nat} :
    Keeps [.pcie, .bpm, .regs, .arriving] s (State.bufOp s w op requester handle cookie) := by
  unfold State.bufOp
  try dsimp only
  repeat' first
    | with_reducible exact Keeps.refl
    | with_reducible apply Keeps.step State.bump_keeps
    | with_reducible apply Keeps.step State.bpmAnswer_keeps
    | with_reducible apply Keeps.step State.pageError_keeps
    | with_reducible apply Keeps.step State.dropCount_keeps
    | with_reducible apply Keeps.step State.modBuf_keeps
    | with_reducible apply Keeps.step State.recordOpen_keeps
    | with_reducible apply Keeps.step State.event_keeps
    | decide
    | split

theorem execFree_keeps {w : Wy} {requester handle cookie : Nat} {s : State} :
    KeepsO [.pcie, .bpm, .regs, .arriving] s (execFree w requester handle cookie s) := by
  unfold execFree
  repeat' first
    | with_reducible exact Keeps.refl
    | with_reducible apply Keeps.step State.bufOp_keeps
    | decide
    | with_reducible apply KeepsO.next

theorem execShare_keeps {w : Wy} {requester handle cookie : Nat} {s : State} :
    KeepsO [.pcie, .bpm, .regs, .arriving] s (execShare w requester handle cookie s) := by
  unfold execShare
  repeat' first
    | with_reducible exact Keeps.refl
    | with_reducible apply Keeps.step State.bufOp_keeps
    | decide
    | with_reducible apply KeepsO.next

theorem execRelease_keeps {w : Wy} {requester handle cookie : Nat} {s : State} :
    KeepsO [.pcie, .bpm, .regs, .arriving] s (execRelease w requester handle cookie s) := by
  unfold execRelease
  repeat' first
    | with_reducible exact Keeps.refl
    | with_reducible apply Keeps.step State.bufOp_keeps
    | decide
    | with_reducible apply KeepsO.next

theorem execTransfer_keeps {w : Wy} {requester handle owner cookie : Nat} {s : State} :
    KeepsO [.pcie, .bpm, .regs, .arriving] s (execTransfer w requester handle owner cookie s) := by
  unfold execTransfer
  repeat' first
    | with_reducible exact Keeps.refl
    | with_reducible apply Keeps.step State.bufOp_keeps
    | decide
    | with_reducible apply KeepsO.next

theorem execFreeRingRefill_keeps {w : Wy} {n : Fin 6} {s : State} :
    KeepsO [.bpm] s (execFreeRingRefill w n s) := by
  unfold execFreeRingRefill
  try dsimp only
  repeat' first
    | with_reducible exact Keeps.refl
    | with_reducible apply Keeps.step State.bpmAnswer_keeps
    | with_reducible apply Keeps.step State.modPool_keeps
    | (with_reducible apply Keeps.foldl; intro _ _; try dsimp only)
    | decide
    | with_reducible apply KeepsO.next
    | split

theorem State.clearLow_keeps {s : State} {w : Wy} {n : Nat} :
    Keeps [.bpm] s (State.clearLow s w n) := by
  unfold State.clearLow
  try dsimp only
  repeat' first
    | with_reducible exact Keeps.refl
    | with_reducible apply Keeps.step State.modPool_keeps
    | decide

theorem execBpmPoolLowRead_keeps {src : AccSrc} {w : Wy} {n : Fin 6} {s : State} :
    KeepsO [.pcie, .bpm, .regs] s (execBpmPoolLowRead src w n s) := by
  unfold execBpmPoolLowRead
  try dsimp only
  repeat' first
    | with_reducible exact Keeps.refl
    | with_reducible apply Keeps.step State.clearLow_keeps
    | with_reducible apply State.readGate_keeps
    | (intro _; try dsimp only)
    | decide
    | with_reducible apply KeepsO.next

theorem State.fillPools_keeps {s : State} {w : Wy} {counts : List Nat} :
    Keeps [.bpm] s (State.fillPools s w counts) := by
  unfold State.fillPools
  try dsimp only
  repeat' first
    | with_reducible exact Keeps.refl
    | with_reducible apply Keeps.step State.modBpm_keeps
    | decide

theorem State.orphanBufs_keeps {s : State} {w : Wy} {tile : Nat} :
    Keeps [.bpm] s (State.orphanBufs s w tile) := by
  unfold State.orphanBufs
  try dsimp only
  repeat' first
    | with_reducible exact Keeps.refl
    | with_reducible apply Keeps.step State.modBpm_keeps
    | decide
    | split

end Sys2Proof.Machine
end

