-- ==== Sys2Proof/Laws/KJobs.lean ====
section
/-! SUPPORT. What each operation of Jobs.lean keeps. -/

-- One lemma after the other: many side by side hold too much memory when the package is one text.
set_option Elab.async false

namespace Sys2Proof.Machine

theorem State.modCodec_keeps {s : State} {w : Wy} {f : List CodecJob → List CodecJob} :
    Keeps [.codec] s (State.modCodec s w f) := by
  unfold State.modCodec
  try dsimp only
  repeat' first
    | with_reducible exact Keeps.refl
    | with_reducible apply Keeps.modWy
    | (intro y; with_reducible apply WKeeps.mk <;> intro h <;> first | exact absurd (by decide) h | exact rfl)
    | decide

theorem State.notePass_keeps {s : State} {w : Wy} {c d : Fin 16} :
    Keeps [.pcie, .regs] s (State.notePass s w c d) := by
  unfold State.notePass
  repeat' first
    | with_reducible exact Keeps.refl
    | with_reducible apply Keeps.step State.bump_keeps
    | decide
    | split

theorem State.noteRun_keeps {s : State} {w : Wy} {ref : JobRef} {k : TileKind} {t : Fin 128} :
    Keeps [.jobRuns] s (State.noteRun s w ref k t) := by
  unfold State.noteRun
  try dsimp only
  repeat' first
    | with_reducible exact Keeps.refl
    | (intro p hp; cases p <;> first | exact absurd (by decide) hp | (dsimp only [Part.same]; done) | (dsimp only [Part.same]; exact ⟨rfl, rfl⟩))
    | decide
    | with_reducible apply Keeps.rec_

theorem State.startCodec_keeps {s : State} {w : Wy} {j : CodecJob} :
    Keeps [.codec, .pcie, .regs] s (State.startCodec s w j) := by
  unfold State.startCodec
  try dsimp only
  repeat' first
    | with_reducible exact Keeps.refl
    | with_reducible apply Keeps.step State.modCodec_keeps
    | with_reducible apply Keeps.step State.notePass_keeps
    | with_reducible apply Keeps.step State.jobSent_keeps
    | with_reducible apply Keeps.step State.used_keeps
    | decide
    | split

theorem State.dispatchCodec_keeps {s : State} {w : Wy} :
    Keeps [.codec, .pcie, .regs] s (State.dispatchCodec s w) := by
  unfold State.dispatchCodec
  try dsimp only
  repeat' first
    | with_reducible exact Keeps.refl
    | with_reducible apply Keeps.step State.startCodec_keeps
    | (with_reducible apply Keeps.foldl; intro _ _; try dsimp only)
    | decide

theorem State.queueCodec_keeps {s : State} {w : Wy} {u : CodecUnit} {ref : JobRef} {c : Fin 16} :
    Keeps [.codec, .pcie, .regs] s (State.queueCodec s w u ref c) := by
  unfold State.queueCodec
  try dsimp only
  repeat' first
    | with_reducible exact Keeps.refl
    | with_reducible apply Keeps.step State.dispatchCodec_keeps
    | with_reducible apply Keeps.step State.modCodec_keeps
    | decide

theorem State.endCodec_keeps {s : State} {w : Wy} {u : CodecUnit} {ref : JobRef} {t : Fin 128} :
    Keeps [.codec, .pcie, .regs, .jobRuns] s (State.endCodec s w u ref t) := by
  unfold State.endCodec
  try dsimp only
  repeat' first
    | with_reducible exact Keeps.refl
    | with_reducible apply Keeps.step State.dispatchCodec_keeps
    | with_reducible apply Keeps.step State.forgetRuns_keeps
    | with_reducible apply Keeps.step State.jobGone_keeps
    | with_reducible apply Keeps.step State.modCodec_keeps
    | decide

theorem State.galois_keeps {s : State} {w : Wy} {c : Fin 16} :
    Keeps [.pcie, .regs] s (State.galois s w c) := by
  unfold State.galois
  try dsimp only
  repeat' first
    | with_reducible exact Keeps.refl
    | with_reducible apply Keeps.step State.notePass_keeps
    | with_reducible apply Keeps.step State.jobGone_keeps
    | with_reducible apply Keeps.step State.jobSent_keeps
    | with_reducible apply Keeps.step State.used_keeps
    | decide
    | split

theorem State.modJob_keeps {s : State} {w : Wy} {ref : JobRef} {f : CryptJob → CryptJob} :
    Keeps [.cip] s (State.modJob s w ref f) := by
  unfold State.modJob
  try dsimp only
  repeat' first
    | with_reducible exact Keeps.refl
    | with_reducible apply Keeps.step State.modCip_keeps
    | decide

theorem State.resumeTile_keeps {s : State} {w : Wy} {t : Fin 128} :
    Keeps [.cip] s (State.resumeTile s w t) := by
  unfold State.resumeTile
  try dsimp only
  repeat' first
    | with_reducible exact Keeps.refl
    | with_reducible apply Keeps.step State.modJob_keeps
    | decide
    | split

theorem State.queueCrypt_keeps {s : State} {w : Wy} {ref : JobRef} {c : Fin 16} {encrypt : Bool} {ks : BitVec 32} {ver prio : Nat} {input aad iv tag : Bytes} :
    Keeps [.cip] s (State.queueCrypt s w ref c encrypt ks ver prio input aad iv tag) := by
  unfold State.queueCrypt
  try dsimp only
  repeat' first
    | with_reducible exact Keeps.refl
    | with_reducible apply Keeps.step State.modCip_keeps
    | decide
    | split

theorem State.endOne_keeps {s : State} {w : Wy} {j : CryptJob} :
    Keeps [.cip, .pcie, .regs, .jobRuns] s (State.endOne s w j) := by
  unfold State.endOne
  try dsimp only
  repeat' first
    | with_reducible exact Keeps.refl
    | with_reducible apply Keeps.step State.forgetRuns_keeps
    | with_reducible apply Keeps.step State.modCip_keeps
    | with_reducible apply Keeps.step State.jobGone_keeps
    | with_reducible apply Keeps.step State.resumeTile_keeps
    | decide
    | split

theorem State.dropCodec_keeps {s : State} {w : Wy} {j : CodecJob} :
    Keeps [.codec, .pcie, .regs, .jobRuns] s (State.dropCodec s w j) := by
  unfold State.dropCodec
  try dsimp only
  repeat' first
    | with_reducible exact Keeps.refl
    | with_reducible apply Keeps.step State.endCodec_keeps
    | with_reducible apply Keeps.step State.forgetRuns_keeps
    | with_reducible apply Keeps.step State.modCodec_keeps
    | decide
    | split

theorem State.endRef_keeps {s : State} {w : Wy} {ref : JobRef} :
    Keeps [.cip, .codec, .pcie, .regs, .jobRuns] s (State.endRef s w ref) := by
  unfold State.endRef
  try dsimp only
  repeat' first
    | with_reducible exact Keeps.refl
    | with_reducible apply Keeps.step State.endOne_keeps
    | with_reducible apply Keeps.step State.dropCodec_keeps
    | (with_reducible apply Keeps.foldl; intro _ _; try dsimp only)
    | decide

theorem State.endJobs_keeps {s : State} {w : Wy} {cmd : Nat} :
    Keeps [.cip, .codec, .pcie, .regs, .jobRuns] s (State.endJobs s w cmd) := by
  unfold State.endJobs
  try dsimp only
  repeat' first
    | with_reducible exact Keeps.refl
    | with_reducible apply Keeps.step State.endOne_keeps
    | with_reducible apply Keeps.step State.dropCodec_keeps
    | (with_reducible apply Keeps.foldl; intro _ _; try dsimp only)
    | (intro p hp; cases p <;> first | exact absurd (by decide) hp | (dsimp only [Part.same]; done) | (dsimp only [Part.same]; exact ⟨rfl, rfl⟩))
    | decide
    | with_reducible apply Keeps.rec_

end Sys2Proof.Machine
end

