-- ==== Sys2Proof/Laws/KClient.lean ====
section
/-! SUPPORT. What each operation of Client.lean keeps. -/

-- One lemma after the other: many side by side hold too much memory when the package is one text.
set_option Elab.async false

namespace Sys2Proof.Machine

theorem State.modCmd_keeps {s : State} {w : Wy} {id : Nat} {f : Cmd → Cmd} :
    Keeps [.relief] s (State.modCmd s w id f) := by
  unfold State.modCmd
  try dsimp only
  repeat' first
    | with_reducible exact Keeps.refl
    | with_reducible apply Keeps.step State.modRelief_keeps
    | decide

theorem State.dropCmd_keeps {s : State} {w : Wy} {id : Nat} :
    Keeps [.relief] s (State.dropCmd s w id) := by
  unfold State.dropCmd
  try dsimp only
  repeat' first
    | with_reducible exact Keeps.refl
    | with_reducible apply Keeps.step State.modRelief_keeps
    | decide

theorem State.modPart_keeps {s : State} {p : Nat} {f : PartSt → PartSt} :
    Keeps [.store] s (State.modPart s p f) := by
  unfold State.modPart
  try dsimp only
  repeat' first
    | with_reducible exact Keeps.refl
    | with_reducible apply Keeps.step State.modStore_keeps
    | decide

theorem State.recordOutcome_keeps {s : State} {ks : BitVec 32} {rid : BitVec 64} {st : OutcomeSt} :
    Keeps [.store] s (State.recordOutcome s ks rid st) := by
  unfold State.recordOutcome
  try dsimp only
  repeat' first
    | with_reducible exact Keeps.refl
    | with_reducible apply Keeps.step State.modStore_keeps
    | decide

theorem State.recordNever_keeps {s : State} {ks : BitVec 32} {rid : BitVec 64} :
    Keeps [.store] s (State.recordNever s ks rid) := by
  unfold State.recordNever
  repeat' first
    | with_reducible exact Keeps.refl
    | with_reducible apply Keeps.step State.recordOutcome_keeps
    | decide
    | split

theorem State.freeChunk_keeps {s : State} {w : Wy} {c : Cmd} {x : WChunk} :
    Keeps [.mortar, .pcie, .bpm, .regs, .arriving] s (State.freeChunk s w c x) := by
  unfold State.freeChunk
  try dsimp only
  repeat' first
    | with_reducible exact Keeps.refl
    | with_reducible apply Keeps.step State.bufOp_keeps
    | with_reducible apply Keeps.step State.modMortar_keeps
    | decide
    | split

theorem State.freeChunks_keeps {s : State} {w : Wy} {id : Nat} :
    Keeps [.relief, .mortar, .pcie, .bpm, .regs, .arriving] s (State.freeChunks s w id) := by
  unfold State.freeChunks
  try dsimp only
  repeat' first
    | with_reducible exact Keeps.refl
    | with_reducible apply Keeps.step State.modCmd_keeps
    | with_reducible apply Keeps.step State.freeChunk_keeps
    | (with_reducible apply Keeps.foldl; intro _ _; try dsimp only)
    | decide
    | split

theorem State.cancelRefs_keeps {s : State} {w : Wy} {id : Nat} :
    Keeps [.mortar, .pcie, .regs, .refs] s (State.cancelRefs s w id) := by
  unfold State.cancelRefs
  repeat' first
    | with_reducible exact Keeps.refl
    | with_reducible apply Keeps.step State.addDeltas_keeps
    | decide
    | split

theorem State.endCmd_keeps {s : State} {w : Wy} {c : Cmd} {st : Status} {d : Detail} {cflags version result : Nat} :
    Keeps [.relief, .mortar, .pcie, .bpm, .regs, .refs, .arriving, .pwr] s (State.endCmd s w c st d cflags version result) := by
  unfold State.endCmd
  try dsimp only
  repeat' first
    | with_reducible exact Keeps.refl
    | with_reducible apply Keeps.step State.freeChunks_keeps
    | with_reducible apply Keeps.step State.bump_keeps
    | with_reducible apply Keeps.step State.cancelRefs_keeps
    | with_reducible apply Keeps.step State.dropCmd_keeps
    | with_reducible apply Keeps.step State.handOut_keeps
    | with_reducible apply Keeps.step State.modQueue_keeps
    | decide
    | split

theorem State.answerOutcome_keeps {s : State} {w : Wy} {c : Cmd} {kept : Option OutcomeRec} :
    Keeps [.relief, .mortar, .pcie, .bpm, .regs, .refs, .arriving, .pwr] s (State.answerOutcome s w c kept) := by
  unfold State.answerOutcome
  repeat' first
    | with_reducible exact Keeps.refl
    | with_reducible apply Keeps.step State.endCmd_keeps
    | decide
    | split

theorem State.wakeOutcomes_keeps {s : State} {w : Wy} :
    Keeps [.relief, .mortar, .pcie, .bpm, .regs, .refs, .arriving, .pwr] s (State.wakeOutcomes s w) := by
  unfold State.wakeOutcomes
  try dsimp only
  repeat' first
    | with_reducible exact Keeps.refl
    | with_reducible apply Keeps.step State.answerOutcome_keeps
    | (with_reducible apply Keeps.foldl; intro _ _; try dsimp only)
    | decide

theorem State.endAttached_keeps {s : State} {w : Wy} {c : Cmd} {st : Status} {d : Detail} {version result : Nat} :
    Keeps [.relief, .mortar, .pcie, .bpm, .regs, .refs, .arriving, .pwr] s (State.endAttached s w c st d version result) := by
  unfold State.endAttached
  try dsimp only
  repeat' first
    | with_reducible exact Keeps.refl
    | with_reducible apply Keeps.step State.endCmd_keeps
    | (with_reducible apply Keeps.foldl; intro _ _; try dsimp only)
    | decide

theorem State.answerQueries_keeps {s : State} :
    Keeps [.mortar, .pcie, .regs, .refs] s (State.answerQueries s) := by
  unfold State.answerQueries
  try dsimp only
  repeat' first
    | with_reducible exact Keeps.refl
    | with_reducible apply Keeps.step State.mortarOut_keeps
    | with_reducible apply Keeps.step State.modRefs_keeps
    | (with_reducible apply Keeps.foldl; intro _ _; try dsimp only)
    | decide

theorem State.finish_keeps {s : State} {w : Wy} {c : Cmd} {st : Status} {d : Detail} {cflags version result : Nat} :
    Keeps [.relief, .mortar, .pcie, .bpm, .regs, .refs, .arriving, .pwr] s (State.finish s w c st d cflags version result) := by
  unfold State.finish
  try dsimp only
  repeat' first
    | with_reducible exact Keeps.refl
    | with_reducible apply Keeps.step State.endAttached_keeps
    | with_reducible apply Keeps.step State.endCmd_keeps
    | with_reducible apply Keeps.step State.wakeOutcomes_keeps
    | with_reducible apply Keeps.step State.answerQueries_keeps
    | decide
    | split

theorem State.dropOne_keeps {s : State} {w : Wy} {c : Cmd} :
    Keeps [.relief, .cip, .codec, .mortar, .pcie, .bpm, .regs, .store, .refs, .jobRuns, .arriving] s (State.dropOne s w c) := by
  unfold State.dropOne
  try dsimp only
  repeat' first
    | with_reducible exact Keeps.refl
    | with_reducible apply Keeps.step State.freeChunks_keeps
    | with_reducible apply Keeps.step State.cancelRefs_keeps
    | with_reducible apply Keeps.step State.dropCmd_keeps
    | with_reducible apply Keeps.step State.recordNever_keeps
    | with_reducible apply Keeps.step State.endJobs_keeps
    | decide
    | split

theorem State.resetQueue_keeps {s : State} {w : Wy} {q : Nat} :
    Keeps [.relief, .cip, .codec, .mortar, .pcie, .bpm, .regs, .store, .refs, .jobRuns, .arriving, .pwr] s (State.resetQueue s w q) := by
  unfold State.resetQueue
  try dsimp only
  repeat' first
    | with_reducible exact Keeps.refl
    | with_reducible apply Keeps.step State.recordNever_keeps
    | with_reducible apply Keeps.step State.bump_keeps
    | with_reducible apply Keeps.step State.wakeOutcomes_keeps
    | with_reducible apply Keeps.step State.dropOne_keeps
    | with_reducible apply Keeps.step State.tagFreed_keeps
    | with_reducible apply Keeps.step State.modRelief_keeps
    | with_reducible apply Keeps.step State.answerQueries_keeps
    | with_reducible apply Keeps.step State.modQueue_keeps
    | (with_reducible apply Keeps.foldl; intro _ _; try dsimp only)
    | decide
    | split

theorem State.freePage_keeps {s : State} {w : Wy} {n : Nat} :
    Keeps [.pcie] s (State.freePage s w n) := by
  unfold State.freePage
  try dsimp only
  repeat' first
    | with_reducible exact Keeps.refl
    | with_reducible apply Keeps.step State.modPage_keeps
    | decide

theorem State.removeQueue_keeps {s : State} {w : Wy} {q : Nat} {disconnect : Bool} :
    Keeps [.relief, .pcie, .pairs] s (State.removeQueue s w q disconnect) := by
  unfold State.removeQueue
  try dsimp only
  repeat' first
    | with_reducible exact Keeps.refl
    | with_reducible apply Keeps.step State.modRelief_keeps
    | with_reducible apply Keeps.step State.freePage_keeps
    | with_reducible apply Keeps.modWy
    | with_reducible apply Keeps.step State.emit_keeps
    | (intro y; with_reducible apply WKeeps.mk <;> intro h <;> first | exact absurd (by decide) h | exact rfl)
    | decide
    | split

theorem State.sendAcks_keeps {s : State} {w : Wy} {q : Nat} :
    Keeps [.relief, .pcie, .pairs, .pwr] s (State.sendAcks s w q) := by
  unfold State.sendAcks
  try dsimp only
  repeat' first
    | with_reducible exact Keeps.refl
    | with_reducible apply Keeps.step State.modPage_keeps
    | with_reducible apply Keeps.step State.handOut_keeps
    | with_reducible apply Keeps.step State.removeQueue_keeps
    | with_reducible apply Keeps.step State.modQueue_keeps
    | (with_reducible apply Keeps.foldl; intro _ _; try dsimp only)
    | decide
    | split

theorem State.loseQueue_keeps {s : State} {w : Wy} {q : Nat} {disconnect : Bool} :
    Keeps [.relief, .cip, .codec, .mortar, .pcie, .bpm, .pairs, .regs, .store, .refs, .jobRuns, .arriving, .pwr] s (State.loseQueue s w q disconnect) := by
  unfold State.loseQueue
  repeat' first
    | with_reducible exact Keeps.refl
    | with_reducible apply Keeps.step State.resetQueue_keeps
    | with_reducible apply Keeps.step State.removeQueue_keeps
    | decide

end Sys2Proof.Machine
end

