-- ==== Sys2Proof/Laws/KCommit.lean ====
section
/-! SUPPORT. What each operation of Commit.lean keeps. -/

-- One lemma after the other: many side by side hold too much memory when the package is one text.
set_option Elab.async false

namespace Sys2Proof.Machine

theorem State.waitClock_keeps {s : State} {w : Wy} {t : Nat} : Keeps [.ptp] s (State.waitClock s w t) := by
  unfold State.waitClock
  dsimp only
  split
  · refine Keeps.modWy ?_ ?_
    · exact Keeps.now_add.mono (by decide)
    · intro y
      apply WKeeps.mk <;> intro h <;> first | exact absurd (by decide) h | exact rfl
  · exact .refl

theorem State.assign_keeps {s : State} {w : Wy} :
    Keeps [.clk, .ptp] s (State.assign s w) := by
  unfold State.assign
  try dsimp only
  repeat' first
    | with_reducible exact Keeps.refl
    | with_reducible apply Keeps.step State.modClk_keeps
    | with_reducible apply Keeps.step State.waitClock_keeps
    | decide

theorem State.storeRec_keeps {s : State} {p epoch home : Nat} {r : IdxRec} {ackTo : Option (Nat × Wy)} :
    Keeps [.mortar, .pcie, .regs, .store] s (State.storeRec s p epoch home r ackTo) := by
  unfold State.storeRec
  try dsimp only
  repeat' first
    | with_reducible exact Keeps.refl
    | with_reducible apply Keeps.step State.ackPlaced_keeps
    | with_reducible apply Keeps.step State.place_keeps
    | with_reducible apply Keeps.step State.modStore_keeps
    | decide
    | split

theorem State.sendIndex_keeps {s : State} {w : Wy} {c : Commit} :
    Keeps [.mortar, .pcie, .regs] s (State.sendIndex s w c) := by
  unfold State.sendIndex
  try dsimp only
  repeat' first
    | with_reducible exact Keeps.refl
    | with_reducible apply Keeps.step State.toPart_keeps
    | (with_reducible apply Keeps.foldl; intro _ _; try dsimp only)
    | decide

theorem State.storeCommit_keeps {s : State} {e : Nat} {c : Commit} :
    Keeps [.mortar, .pcie, .regs, .store] s (State.storeCommit s e c) := by
  unfold State.storeCommit
  try dsimp only
  repeat' first
    | with_reducible exact Keeps.refl
    | with_reducible apply Keeps.step State.storeRec_keeps
    | (with_reducible apply Keeps.foldl; intro _ _; try dsimp only)
    | decide

theorem State.beginCommit_keeps {s : State} {w : Wy} {id : Nat} {c : Commit} :
    Keeps [.relief, .mortar, .pcie, .regs, .store] s (State.beginCommit s w id c) := by
  unfold State.beginCommit
  try dsimp only
  repeat' first
    | with_reducible exact Keeps.refl
    | with_reducible apply Keeps.step State.storeCommit_keeps
    | with_reducible apply Keeps.step State.sendIndex_keeps
    | with_reducible apply Keeps.step State.modCmd_keeps
    | with_reducible apply Keeps.step State.modRelief_keeps
    | decide

theorem State.commitAt_keeps {s : State} {w : Wy} {c : Cmd} {adds : Nat → List (BitVec 32 × Bytes × ValueVer)} :
    Keeps [.relief, .clk, .cip, .codec, .mortar, .pcie, .bpm, .ptp, .regs, .store, .refs, .jobRuns, .arriving, .pwr] s (State.commitAt s w c adds) := by
  unfold State.commitAt
  try dsimp only
  repeat' first
    | with_reducible exact Keeps.refl
    | with_reducible apply Keeps.step State.finish_keeps
    | with_reducible apply Keeps.step State.beginCommit_keeps
    | with_reducible apply Keeps.step State.endJobs_keeps
    | with_reducible apply Keeps.step State.assign_keeps
    | (with_reducible apply Keeps.foldl; intro _ _; try dsimp only)
    | decide
    | split

theorem State.emptyWrite_keeps {s : State} {w : Wy} {c : Cmd} :
    Keeps [.relief, .mortar, .pcie, .regs, .store] s (State.emptyWrite s w c) := by
  unfold State.emptyWrite
  try dsimp only
  repeat' first
    | with_reducible exact Keeps.refl
    | with_reducible apply Keeps.step State.beginCommit_keeps
    | decide
    | split

theorem State.notNow_keeps {s : State} {w : Wy} {c : Cmd} :
    Keeps [.relief, .cip, .codec, .mortar, .pcie, .bpm, .regs, .refs, .jobRuns, .arriving, .pwr] s (State.notNow s w c) := by
  unfold State.notNow
  try dsimp only
  repeat' first
    | with_reducible exact Keeps.refl
    | with_reducible apply Keeps.step State.modCmd_keeps
    | with_reducible apply Keeps.step State.used_keeps
    | with_reducible apply Keeps.step State.finish_keeps
    | with_reducible apply Keeps.step State.endJobs_keeps
    | decide
    | split

theorem State.commitStep_keeps {s : State} {w : Wy} {c : Cmd} :
    Keeps [.relief, .clk, .cip, .codec, .mortar, .pcie, .bpm, .ptp, .regs, .store, .refs, .jobRuns, .arriving, .pwr] s (State.commitStep s w c) := by
  unfold State.commitStep
  try dsimp only
  repeat' first
    | with_reducible exact Keeps.refl
    | with_reducible apply Keeps.step State.emptyWrite_keeps
    | with_reducible apply Keeps.step State.commitAt_keeps
    | with_reducible apply Keeps.step State.notNow_keeps
    | with_reducible apply Keeps.step State.beginCommit_keeps
    | decide
    | split

theorem State.noteStripes_keeps {s : State} {w : Wy} {c : Cmd} :
    Keeps [.relief] s (State.noteStripes s w c) := by
  unfold State.noteStripes
  try dsimp only
  repeat' first
    | with_reducible exact Keeps.refl
    | with_reducible apply Keeps.step State.modRelief_keeps
    | decide
    | split

theorem State.makeVisible_keeps {s : State} {w : Wy} {k : Commit} :
    Keeps [.relief, .mortar, .pcie, .bpm, .regs, .store, .refs, .arriving, .pwr] s (State.makeVisible s w k) := by
  unfold State.makeVisible
  try dsimp only
  repeat' first
    | with_reducible exact Keeps.refl
    | with_reducible apply Keeps.step State.answerQueries_keeps
    | with_reducible apply Keeps.step State.noteStripes_keeps
    | with_reducible apply Keeps.step State.finish_keeps
    | with_reducible apply Keeps.step State.wakeOutcomes_keeps
    | with_reducible apply Keeps.step State.modStore_keeps
    | with_reducible apply Keeps.step State.modRelief_keeps
    | with_reducible apply Keeps.step State.recordOutcome_keeps
    | (with_reducible apply Keeps.foldl; intro _ _; try dsimp only)
    | decide
    | split

end Sys2Proof.Machine
end

