-- ==== Sys2Proof/Laws/KMedia.lean ====
section
/-! SUPPORT. What each operation of Media.lean keeps. -/

-- One lemma after the other: many side by side hold too much memory when the package is one text.
set_option Elab.async false

namespace Sys2Proof.Machine

theorem State.modSet_keeps {s : State} {i : Nat} {f : SetSt → SetSt} :
    Keeps [.media] s (State.modSet s i f) := by
  unfold State.modSet
  try dsimp only
  repeat' first
    | with_reducible exact Keeps.refl
    | with_reducible apply Keeps.step State.modMedia_keeps
    | decide
    | split

theorem State.modSb_keeps {s : State} {i sb : Nat} {f : SuperBlk → SuperBlk} :
    Keeps [.media] s (State.modSb s i sb f) := by
  unfold State.modSb
  try dsimp only
  repeat' first
    | with_reducible exact Keeps.refl
    | with_reducible apply Keeps.step State.modSet_keeps
    | decide

theorem State.modRound_keeps {s : State} {i sb wl : Nat} {f : Round → Round} :
    Keeps [.media] s (State.modRound s i sb wl f) := by
  unfold State.modRound
  try dsimp only
  repeat' first
    | with_reducible exact Keeps.refl
    | with_reducible apply Keeps.step State.modSb_keeps
    | decide

theorem State.anchorRaw_keeps {s : State} {i : Nat} {r : AnchorRec} :
    Keeps [.pcie, .regs, .media] s (State.anchorRaw s i r) := by
  unfold State.anchorRaw
  try dsimp only
  repeat' first
    | with_reducible exact Keeps.refl
    | with_reducible apply Keeps.step State.bump_keeps
    | with_reducible apply Keeps.step State.modSet_keeps
    | decide

theorem State.reserveSeq_keeps {s : State} {i : Nat} :
    Keeps [.pcie, .regs, .media] s (State.reserveSeq s i) := by
  unfold State.reserveSeq
  try dsimp only
  repeat' first
    | with_reducible exact Keeps.refl
    | with_reducible apply Keeps.step State.anchorRaw_keeps
    | with_reducible apply Keeps.step State.modSet_keeps
    | decide
    | split

theorem State.takeSeq_keeps {s : State} {i : Nat} :
    Keeps [.pcie, .regs, .media] s (State.takeSeq s i) := by
  unfold State.takeSeq
  try dsimp only
  repeat' first
    | with_reducible exact Keeps.refl
    | with_reducible apply Keeps.step State.modSet_keeps
    | with_reducible apply Keeps.step State.reserveSeq_keeps
    | decide

theorem State.tableSlice_keeps {s : State} {i : Nat} :
    Keeps [.pcie, .regs, .media] s (State.tableSlice s i) := by
  unfold State.tableSlice
  try dsimp only
  repeat' first
    | with_reducible exact Keeps.refl
    | with_reducible apply Keeps.step State.anchorRaw_keeps
    | with_reducible apply Keeps.step State.reserveSeq_keeps
    | decide
    | split

theorem State.anchorRec_keeps {s : State} {i : Nat} {r : AnchorRec} :
    Keeps [.pcie, .regs, .media] s (State.anchorRec s i r) := by
  unfold State.anchorRec
  try dsimp only
  repeat' first
    | with_reducible exact Keeps.refl
    | with_reducible apply Keeps.step State.tableSlice_keeps
    | with_reducible apply Keeps.step State.anchorRaw_keeps
    | with_reducible apply Keeps.step State.reserveSeq_keeps
    | with_reducible apply Keeps.step State.armErase_keeps
    | decide
    | split

theorem State.openSb_keeps {s t : State} {i row : Nat} {st : Stream} (h : State.openSb s i row st = some t) : Keeps [.pcie, .regs, .media] s t := by
  unfold State.openSb at h
  dsimp only at h
  split at h
  · cases h
  · obtain ⟨b, -, rfl⟩ := Option.map_eq_some_iff.mp h
    repeat' first
      | with_reducible apply Keeps.refl
      | with_reducible assumption
      | with_reducible apply Keeps.step State.modBlk_keeps
      | with_reducible apply Keeps.step State.modSet_keeps
      | with_reducible apply Keeps.step State.anchorRec_keeps
      | (with_reducible apply Keeps.foldl; intro _ _; try dsimp only)
      | decide
      | split
      | with_reducible apply Keeps.step Keeps.fresh_add
      | with_reducible apply Keeps.step Keeps.fresh_add2

theorem State.openSome_keeps {s t : State} {i : Nat} {st : Stream} (h : State.openSome s i st = some t) : Keeps [.pcie, .regs, .media] s t := by
  unfold State.openSome at h
  dsimp only at h
  split at h
  · exact (State.openSb_keeps h).step (by decide) (State.used_keeps.mono (by decide))
  · cases h

theorem State.beginRound_keeps {s : State} {i : Nat} {b : SuperBlk} {cls : Nat} :
    Keeps [.media] s (State.beginRound s i b cls) := by
  unfold State.beginRound
  try dsimp only
  repeat' first
    | with_reducible exact Keeps.refl
    | with_reducible apply Keeps.step State.modSet_keeps
    | with_reducible apply Keeps.step State.modSb_keeps
    | decide

theorem State.closeRound_keeps {s : State} {i sb : Nat} :
    Keeps [.pcie, .regs, .media, .arriving] s (State.closeRound s i sb) := by
  unfold State.closeRound
  try dsimp only
  repeat' first
    | with_reducible exact Keeps.refl
    | with_reducible apply Keeps.step State.bumpBy_keeps
    | with_reducible apply Keeps.step State.modRound_keeps
    | with_reducible apply Keeps.step State.takeSeq_keeps
    | with_reducible apply Keeps.step State.submit_keeps
    | (with_reducible apply Keeps.foldl; intro _ _; try dsimp only)
    | decide
    | split

theorem State.takesUnit_keeps {s t : State} {i : Nat} {st : Stream} {b : SuperBlk}
    (h : State.takesUnit s i st = some (t, b)) : Keeps [.pcie, .regs, .media] s t := by
  unfold State.takesUnit at h
  dsimp only at h
  split at h
  · cases h
    exact .refl
  · split at h
    · rename_i hv
      obtain ⟨c, -, he⟩ := Option.map_eq_some_iff.mp h
      cases he
      split at hv
      · exact State.openSome_keeps hv
      · cases hv
    · obtain ⟨c, -, he⟩ := Option.map_eq_some_iff.mp h
      cases he
      split
      · exact .refl
      · exact State.used_keeps.mono (by decide)

theorem State.fillUnit_keeps {s : State} {i cls : Nat} {b : SuperBlk} {u : UnitRef} :
    Keeps [.pcie, .regs, .media, .arriving] s (State.fillUnit s i cls b u) := by
  unfold State.fillUnit
  try dsimp only
  repeat' first
    | with_reducible exact Keeps.refl
    | with_reducible apply Keeps.step State.beginRound_keeps
    | with_reducible apply Keeps.step State.modSb_keeps
    | with_reducible apply Keeps.step State.closeRound_keeps
    | decide
    | split

theorem State.placeUnit_keeps {s t : State} {i : Nat} {st : Stream} {cls : Nat} {u : UnitRef}
    (h : State.placeUnit s i st cls u = some t) : Keeps [.pcie, .regs, .media, .arriving] s t := by
  obtain ⟨e, he, rfl⟩ := Option.map_eq_some_iff.mp h
  exact State.fillUnit_keeps.step (by decide) ((State.takesUnit_keeps (b := e.2) he).mono (by decide))

theorem State.medBits_keeps {s : State} {w : Wy} :
    Keeps [.regs] s (State.medBits s w) := by
  unfold State.medBits
  try dsimp only
  repeat' first
    | with_reducible exact Keeps.refl
    | with_reducible apply Keeps.step State.setRfld_keeps
    | decide

theorem State.slcMarks_keeps {s : State} {i : Nat} :
    Keeps [.pcie, .regs, .media] s (State.slcMarks s i) := by
  unfold State.slcMarks
  try dsimp only
  repeat' first
    | with_reducible exact Keeps.refl
    | with_reducible apply Keeps.step State.medBits_keeps
    | with_reducible apply Keeps.step State.modSet_keeps
    | with_reducible apply Keeps.step State.event_keeps
    | decide
    | split

theorem State.placeUnits_keeps {s : State} {i : Nat} {st : Stream} {cls : Nat} {x1 : List UnitRef} :
    Keeps [.pcie, .regs, .media, .arriving] s (State.placeUnits s i st cls x1) := by
  induction x1 generalizing s with
  | nil => exact State.slcMarks_keeps.mono (by decide)
  | cons a l ih =>
    unfold State.placeUnits
    try dsimp only
    repeat' first
      | with_reducible apply Keeps.refl
      | with_reducible assumption
      | with_reducible apply Keeps.step ih
      | with_reducible apply Keeps.step (State.placeUnit_keeps (by assumption))
      | with_reducible apply Keeps.step (State.placeUnit_keeps (by assumption))
      | with_reducible apply Keeps.step State.modSet_keeps
      | with_reducible apply Keeps.step State.slcMarks_keeps
      | decide
      | split

theorem State.writeFrag_keeps {s : State} {i fragId gen len cls : Nat} {holes : List Nat} :
    Keeps [.pcie, .regs, .media, .arriving] s (State.writeFrag s i fragId gen len cls holes) := by
  unfold State.writeFrag
  try dsimp only
  repeat' first
    | with_reducible exact Keeps.refl
    | with_reducible apply Keeps.step State.bump_keeps
    | with_reducible apply Keeps.step State.placeUnits_keeps
    | decide
    | split

theorem State.mapPlace_keeps {s : State} {i : Nat} {l : List Extent} :
    Keeps [.media] s (State.mapPlace s i l) := by
  unfold State.mapPlace
  try dsimp only
  repeat' first
    | with_reducible exact Keeps.refl
    | with_reducible apply Keeps.step State.modSet_keeps
    | (with_reducible apply Keeps.foldl; intro _ _; try dsimp only)
    | decide

theorem State.mapHoles_keeps {s : State} {i typ owner gen : Nat} {units : List Nat} :
    Keeps [.media] s (State.mapHoles s i typ owner gen units) := by
  unfold State.mapHoles
  try dsimp only
  repeat' first
    | with_reducible exact Keeps.refl
    | with_reducible apply Keeps.step State.mapPlace_keeps
    | decide

theorem State.mapDrop_keeps {s : State} {i typ owner gen : Nat} :
    Keeps [.media] s (State.mapDrop s i typ owner gen) := by
  unfold State.mapDrop
  try dsimp only
  repeat' first
    | with_reducible exact Keeps.refl
    | with_reducible apply Keeps.step State.modSet_keeps
    | decide

theorem State.flushMap_keeps {s : State} {i : Nat} :
    Keeps [.pcie, .regs, .media, .arriving] s (State.flushMap s i) := by
  unfold State.flushMap
  try dsimp only
  repeat' first
    | with_reducible exact Keeps.refl
    | with_reducible apply Keeps.step State.modSet_keeps
    | with_reducible apply Keeps.step State.placeUnits_keeps
    | decide
    | split

theorem State.segsDurable_keeps {s : State} {i : Nat} :
    Keeps [.pcie, .regs, .media] s (State.segsDurable s i) := by
  unfold State.segsDurable
  try dsimp only
  repeat' first
    | with_reducible exact Keeps.refl
    | with_reducible apply Keeps.step State.modSet_keeps
    | with_reducible apply Keeps.step State.anchorRec_keeps
    | with_reducible apply Keeps.step State.mapDrop_keeps
    | (with_reducible apply Keeps.foldl; intro _ _; try dsimp only)
    | decide
    | split

theorem State.roundDurable_keeps {s : State} {i : Nat} {b : SuperBlk} {r : Round} :
    Keeps [.pcie, .regs, .media] s (State.roundDurable s i b r) := by
  unfold State.roundDurable
  try dsimp only
  repeat' first
    | with_reducible exact Keeps.refl
    | with_reducible apply Keeps.step State.bump_keeps
    | with_reducible apply Keeps.step State.modRound_keeps
    | with_reducible apply Keeps.step State.segsDurable_keeps
    | with_reducible apply Keeps.step State.modSb_keeps
    | with_reducible apply Keeps.step State.mapPlace_keeps
    | (with_reducible apply Keeps.foldl; intro _ _; try dsimp only)
    | decide
    | split

theorem State.closeSb_keeps {s : State} {i sb : Nat} {short : Bool} :
    Keeps [.pcie, .regs, .media] s (State.closeSb s i sb short) := by
  unfold State.closeSb
  try dsimp only
  repeat' first
    | with_reducible exact Keeps.refl
    | with_reducible apply Keeps.step State.anchorRec_keeps
    | with_reducible apply Keeps.step State.modSb_keeps
    | decide

theorem State.closeFull_keeps {s : State} {i : Nat} :
    Keeps [.pcie, .regs, .media] s (State.closeFull s i) := by
  unfold State.closeFull
  try dsimp only
  repeat' first
    | with_reducible exact Keeps.refl
    | with_reducible apply Keeps.step State.closeSb_keeps
    | (with_reducible apply Keeps.foldl; intro _ _; try dsimp only)
    | decide

theorem State.retireBlock_keeps {s : State} {die plane block cause : Nat} :
    Keeps [.relief, .pcie, .regs, .media, .arriving, .pwr] s (State.retireBlock s die plane block cause) := by
  unfold State.retireBlock
  try dsimp only
  repeat' first
    | with_reducible exact Keeps.refl
    | with_reducible apply Keeps.step State.modBlk_keeps
    | with_reducible apply Keeps.step State.modDie_keeps
    | with_reducible apply Keeps.step State.anchorRec_keeps
    | with_reducible apply Keeps.step State.earlyWarn_keeps
    | (with_reducible apply Keeps.foldl; intro _ _; try dsimp only)
    | decide
    | split

theorem State.eraseDie_keeps {s : State} {i : Nat} {b : SuperBlk} {cause die : Nat} :
    Keeps [.relief, .pcie, .regs, .media, .arriving, .pwr] s (State.eraseDie s i b cause die) := by
  unfold State.eraseDie
  try dsimp only
  repeat' first
    | with_reducible exact Keeps.refl
    | with_reducible apply Keeps.step State.modBlk_keeps
    | with_reducible apply Keeps.step State.retireBlock_keeps
    | with_reducible apply Keeps.step State.submit_keeps
    | with_reducible apply Keeps.step State.anchorRec_keeps
    | with_reducible apply Keeps.step State.modSb_keeps
    | (with_reducible apply Keeps.foldl; intro _ _; try dsimp only)
    | decide
    | split

theorem State.eraseSb_keeps {s : State} {i : Nat} {b : SuperBlk} {cause : Nat} :
    Keeps [.relief, .pcie, .regs, .media, .arriving, .pwr] s (State.eraseSb s i b cause) := by
  unfold State.eraseSb
  try dsimp only
  repeat' first
    | with_reducible exact Keeps.refl
    | with_reducible apply Keeps.step State.modSet_keeps
    | with_reducible apply Keeps.step State.eraseDie_keeps
    | with_reducible apply Keeps.step State.modSb_keeps
    | with_reducible apply Keeps.step State.recordOpen_keeps
    | (with_reducible apply Keeps.foldl; intro _ _; try dsimp only)
    | decide
    | split

theorem State.wornNow_keeps {s : State} {j : ChJob} :
    Keeps [.relief, .pcie, .regs, .media, .arriving, .health, .pwr] s (State.wornNow s j) := by
  unfold State.wornNow
  try dsimp only
  repeat' first
    | with_reducible exact Keeps.refl
    | with_reducible apply Keeps.step State.modMedia_keeps
    | with_reducible apply Keeps.step State.earlyWarn_keeps
    | (intro p hp; cases p <;> first | exact absurd (by decide) hp | (dsimp only [Part.same]; done) | (dsimp only [Part.same]; exact ⟨rfl, rfl⟩))
    | decide
    | split
    | with_reducible apply Keeps.rec_

end Sys2Proof.Machine
end

