-- ==== Sys2Proof/Laws/KHealthLog.lean ====
section
/-! SUPPORT. What each operation of HealthLog.lean keeps. -/

-- One lemma after the other: many side by side hold too much memory when the package is one text.
set_option Elab.async false

namespace Sys2Proof.Machine

theorem State.modHealth_keeps {s : State} {f : Health → Health} :
    Keeps [.health] s (State.modHealth s f) := by
  unfold State.modHealth
  repeat' first
    | with_reducible exact Keeps.refl
    | (intro p hp; cases p <;> first | exact absurd (by decide) hp | (dsimp only [Part.same]; done) | (dsimp only [Part.same]; exact ⟨rfl, rfl⟩))
    | decide
    | with_reducible apply Keeps.rec_

theorem State.snapshot_keeps {s : State} :
    Keeps [.arriving] s (State.snapshot s) := by
  unfold State.snapshot
  repeat' first
    | with_reducible exact Keeps.refl
    | with_reducible apply Keeps.step State.record_keeps
    | decide

end Sys2Proof.Machine
end

