-- ==== Sys2Proof/Laws/KKeys.lean ====
section
/-! SUPPORT. What each operation of Keys.lean keeps. -/

-- One lemma after the other: many side by side hold too much memory when the package is one text.
set_option Elab.async false

namespace Sys2Proof.Machine

theorem State.modSlot_keeps {s : State} {w : Wy} {ks : BitVec 32} {ver : Nat} {f : KeySlot → KeySlot} :
    Keeps [.cip] s (State.modSlot s w ks ver f) := by
  unfold State.modSlot
  try dsimp only
  repeat' first
    | with_reducible exact Keeps.refl
    | with_reducible apply Keeps.step State.modCip_keeps
    | decide

theorem State.keyWrite_keeps {s : State} {w : Wy} {f : SetSt → SetSt} :
    Keeps [.pcie, .regs, .media] s (State.keyWrite s w f) := by
  unfold State.keyWrite
  repeat' first
    | with_reducible exact Keeps.refl
    | with_reducible apply Keeps.step State.bump_keeps
    | with_reducible apply Keeps.step State.modSet_keeps
    | with_reducible apply Keeps.step State.takeSeq_keeps
    | decide

theorem State.keepSlots_keeps {s : State} {w : Wy} {l : List KeySlot} :
    Keeps [.pcie, .regs, .media] s (State.keepSlots s w l) := by
  unfold State.keepSlots
  try dsimp only
  repeat' first
    | with_reducible exact Keeps.refl
    | with_reducible apply Keeps.step State.keyWrite_keeps
    | (with_reducible apply Keeps.foldl; intro _ _; try dsimp only)
    | decide

theorem State.requestResv_keeps {s : State} {w : Wy} {ks : BitVec 32} {ver : Nat} :
    Keeps [.cip] s (State.requestResv s w ks ver) := by
  unfold State.requestResv
  try dsimp only
  repeat' first
    | with_reducible exact Keeps.refl
    | with_reducible apply Keeps.step State.modSlot_keeps
    | decide
    | split

theorem State.requestAll_keeps {s : State} {w : Wy} :
    Keeps [.cip] s (State.requestAll s w) := by
  unfold State.requestAll
  try dsimp only
  repeat' first
    | with_reducible exact Keeps.refl
    | with_reducible apply Keeps.step State.requestResv_keeps
    | (with_reducible apply Keeps.foldl; intro _ _; try dsimp only)
    | decide

theorem State.lockSlot_keeps {s : State} {w : Wy} {x : KeySlot} :
    Keeps [.cip, .pcie, .regs, .arriving] s (State.lockSlot s w x) := by
  unfold State.lockSlot
  try dsimp only
  repeat' first
    | with_reducible exact Keeps.refl
    | with_reducible apply Keeps.step State.modSlot_keeps
    | with_reducible apply Keeps.step State.recordOpen_keeps
    | with_reducible apply Keeps.step State.event_keeps
    | decide
    | split

theorem State.unwrapFails_keeps {s : State} {w : Wy} :
    Keeps [.pcie, .regs] s (State.unwrapFails s w) := by
  unfold State.unwrapFails
  repeat' first
    | with_reducible exact Keeps.refl
    | with_reducible apply Keeps.step State.event_keeps
    | with_reducible apply Keeps.step State.bump_keeps
    | decide

end Sys2Proof.Machine
end

