-- ==== Sys2Proof/Laws/KReadPath.lean ====
section
/-! SUPPORT. What each operation of ReadPath.lean keeps. -/

-- One lemma after the other: many side by side hold too much memory when the package is one text.
set_option Elab.async false

namespace Sys2Proof.Machine

theorem State.modRChunk_keeps {s : State} {w : Wy} {id n : Nat} {f : RChunk → RChunk} :
    Keeps [.relief] s (State.modRChunk s w id n f) := by
  unfold State.modRChunk
  try dsimp only
  repeat' first
    | with_reducible exact Keeps.refl
    | with_reducible apply Keeps.step State.modCmd_keeps
    | decide
    | split

theorem State.deliver_keeps {s : State} {w : Wy} {c : Cmd} {v : ValueVer} {start : Nat} {data : Bytes} :
    Keeps [.relief] s (State.deliver s w c v start data) := by
  unfold State.deliver
  try dsimp only
  repeat' first
    | with_reducible exact Keeps.refl
    | with_reducible apply Keeps.step State.emit_keeps
    | with_reducible apply Keeps.step State.modQueue_keeps
    | decide
    | split

theorem State.placeAll_keeps {s : State} {w : Wy} {c : Cmd} {data : Bytes} :
    Keeps [.relief] s (State.placeAll s w c data) := by
  unfold State.placeAll
  try dsimp only
  repeat' first
    | with_reducible exact Keeps.refl
    | with_reducible apply Keeps.step State.modQueue_keeps
    | with_reducible apply Keeps.step State.emit_keeps
    | decide
    | split

theorem State.endGet_keeps {s : State} {w : Wy} {id : Nat} :
    Keeps [.relief, .cip, .codec, .mortar, .pcie, .bpm, .regs, .refs, .jobRuns, .arriving, .pwr] s (State.endGet s w id) := by
  unfold State.endGet
  try dsimp only
  repeat' first
    | with_reducible exact Keeps.refl
    | with_reducible apply Keeps.step State.finish_keeps
    | with_reducible apply Keeps.step State.endJobs_keeps
    | decide
    | split

theorem State.endLost_keeps {s : State} {w : Wy} {id : Nat} :
    Keeps [.relief, .cip, .codec, .mortar, .pcie, .bpm, .regs, .refs, .jobRuns, .arriving, .pwr] s (State.endLost s w id) := by
  unfold State.endLost
  try dsimp only
  repeat' first
    | with_reducible exact Keeps.refl
    | with_reducible apply Keeps.step State.endGet_keeps
    | with_reducible apply Keeps.step State.finish_keeps
    | with_reducible apply Keeps.step State.endJobs_keeps
    | (with_reducible apply Keeps.foldl; intro _ _; try dsimp only)
    | decide
    | split

theorem State.sendRange_keeps {s : State} {w : Wy} {segs : List (Nat × Nat × Nat)} {purpose : Purpose} {cookie : Nat} {a : RangeAsk} :
    Keeps [.mortar, .pcie, .regs] s (State.sendRange s w segs purpose cookie a) := by
  unfold State.sendRange
  repeat' first
    | with_reducible exact Keeps.refl
    | with_reducible apply Keeps.step State.mortarOut_keeps
    | decide
    | split

theorem State.queueOpen_keeps {s : State} {w : Wy} {ref : JobRef} {c : Fin 16} {ks : BitVec 32} {prio : Nat} {rec_ : Bytes} :
    Keeps [.cip] s (State.queueOpen s w ref c ks prio rec_) := by
  unfold State.queueOpen
  try dsimp only
  repeat' first
    | with_reducible exact Keeps.refl
    | with_reducible apply Keeps.step State.queueCrypt_keeps
    | decide

theorem State.modRepair_keeps {s : State} {n : Nat} {f : RepairRec → RepairRec} :
    Keeps [.stripes] s (State.modRepair s n f) := by
  unfold State.modRepair
  try dsimp only
  repeat' first
    | with_reducible exact Keeps.refl
    | (intro p hp; cases p <;> first | exact absurd (by decide) hp | (dsimp only [Part.same]; done) | (dsimp only [Part.same]; exact ⟨rfl, rfl⟩))
    | decide
    | with_reducible apply Keeps.rec_

theorem State.reportLost_keeps {s : State} {w : Wy} {place : Place} {fps : List Bytes} :
    Keeps [.mortar, .pcie, .regs, .arriving] s (State.reportLost s w place fps) := by
  unfold State.reportLost
  try dsimp only
  repeat' first
    | with_reducible exact Keeps.refl
    | with_reducible apply Keeps.step State.mortarOut_keeps
    | with_reducible apply Keeps.step State.recordOpen_keeps
    | with_reducible apply Keeps.step State.toArmature_keeps
    | decide
    | split

theorem State.loseChunk_keeps {s : State} {w : Wy} {c : Cmd} {n : Nat} {x : RChunk} :
    Keeps [.relief, .cip, .codec, .mortar, .pcie, .bpm, .regs, .refs, .jobRuns, .arriving, .pwr] s (State.loseChunk s w c n x) := by
  unfold State.loseChunk
  try dsimp only
  repeat' first
    | with_reducible exact Keeps.refl
    | with_reducible apply Keeps.step State.endLost_keeps
    | with_reducible apply Keeps.step State.reportLost_keeps
    | with_reducible apply Keeps.step State.modRChunk_keeps
    | decide

theorem State.failRepair_keeps {s : State} {r : RepairRec} :
    Keeps [.relief, .cip, .codec, .mortar, .pcie, .bpm, .regs, .stripes, .refs, .jobRuns, .arriving, .pwr] s (State.failRepair s r) := by
  unfold State.failRepair
  try dsimp only
  repeat' first
    | with_reducible exact Keeps.refl
    | with_reducible apply Keeps.step State.reportLost_keeps
    | with_reducible apply Keeps.step State.modRepair_keeps
    | with_reducible apply Keeps.step State.loseChunk_keeps
    | (with_reducible apply Keeps.foldl; intro _ _; try dsimp only)
    | (intro p hp; cases p <;> first | exact absurd (by decide) hp | (dsimp only [Part.same]; done) | (dsimp only [Part.same]; exact ⟨rfl, rfl⟩))
    | decide
    | split
    | with_reducible apply Keeps.rec_

theorem State.pumpRepair_keeps {s : State} {n : Nat} :
    Keeps [.relief, .cip, .codec, .mortar, .pcie, .bpm, .regs, .stripes, .refs, .jobRuns, .arriving, .pwr] s (State.pumpRepair s n) := by
  unfold State.pumpRepair
  try dsimp only
  repeat' first
    | with_reducible exact Keeps.refl
    | with_reducible apply Keeps.step State.failRepair_keeps
    | with_reducible apply Keeps.step State.sendRange_keeps
    | with_reducible apply Keeps.step State.modRepair_keeps
    | (with_reducible apply Keeps.foldl; intro _ _; try dsimp only)
    | decide
    | split

theorem State.gather_keeps {s : State} {r : RepairRec} :
    Keeps [.relief, .cip, .codec, .mortar, .pcie, .bpm, .regs, .stripes, .refs, .jobRuns, .arriving, .pwr] s (State.gather s r) := by
  unfold State.gather
  try dsimp only
  repeat' first
    | with_reducible exact Keeps.refl
    | with_reducible apply Keeps.step State.pumpRepair_keeps
    | with_reducible apply Keeps.step State.sendRange_keeps
    | (with_reducible apply Keeps.foldl; intro _ _; try dsimp only)
    | (intro p hp; cases p <;> first | exact absurd (by decide) hp | (dsimp only [Part.same]; done) | (dsimp only [Part.same]; exact ⟨rfl, rfl⟩))
    | decide
    | with_reducible apply Keeps.rec_

theorem State.startRepair_keeps {s : State} {w : Wy} {ks : BitVec 32} {x : RChunk} :
    Keeps [.relief, .cip, .codec, .mortar, .pcie, .bpm, .regs, .stripes, .refs, .jobRuns, .arriving, .pwr] s (State.startRepair s w ks x) := by
  unfold State.startRepair
  try dsimp only
  repeat' first
    | with_reducible exact Keeps.refl
    | with_reducible apply Keeps.step State.gather_keeps
    | decide
    | split

theorem State.startShip_keeps {s : State} {w : Wy} {ks : BitVec 32} {ent : RecipeEntry} {dest : ShipTo} :
    Keeps [.relief, .cip, .codec, .mortar, .pcie, .bpm, .regs, .stripes, .refs, .jobRuns, .arriving, .pwr] s (State.startShip s w ks ent dest) := by
  unfold State.startShip
  repeat' first
    | with_reducible exact Keeps.refl
    | with_reducible apply Keeps.step State.gather_keeps
    | decide

theorem State.taint_keeps {s : State} {w : Wy} {c : Cmd} {n : Nat} {x : RChunk} :
    Keeps [.relief, .cip, .codec, .mortar, .pcie, .bpm, .regs, .stripes, .refs, .jobRuns, .arriving, .pwr] s (State.taint s w c n x) := by
  unfold State.taint
  try dsimp only
  repeat' first
    | with_reducible exact Keeps.refl
    | with_reducible apply Keeps.step State.loseChunk_keeps
    | with_reducible apply Keeps.step State.endGet_keeps
    | with_reducible apply Keeps.step State.startRepair_keeps
    | with_reducible apply Keeps.step State.modRChunk_keeps
    | decide
    | split

theorem State.recordIn_keeps {s : State} {w : Wy} {c : Cmd} {n : Nat} {x : RChunk} {rec_ : Bytes} :
    Keeps [.relief, .cip, .codec, .mortar, .pcie, .bpm, .regs, .stripes, .refs, .jobRuns, .arriving, .pwr] s (State.recordIn s w c n x rec_) := by
  unfold State.recordIn
  try dsimp only
  repeat' first
    | with_reducible exact Keeps.refl
    | with_reducible apply Keeps.step State.taint_keeps
    | with_reducible apply Keeps.step State.queueOpen_keeps
    | with_reducible apply Keeps.step State.modRChunk_keeps
    | decide
    | split

theorem State.fetchChunk_keeps {s : State} {w : Wy} {c : Cmd} {n : Nat} {x : RChunk} :
    Keeps [.relief, .cip, .codec, .mortar, .pcie, .bpm, .regs, .stripes, .refs, .jobRuns, .arriving, .pwr] s (State.fetchChunk s w c n x) := by
  unfold State.fetchChunk
  try dsimp only
  repeat' first
    | with_reducible exact Keeps.refl
    | with_reducible apply Keeps.step State.recordIn_keeps
    | with_reducible apply Keeps.step State.loseChunk_keeps
    | with_reducible apply Keeps.step State.modRChunk_keeps
    | with_reducible apply Keeps.step State.sendRange_keeps
    | (with_reducible apply Keeps.foldl; intro _ _; try dsimp only)
    | decide
    | split

theorem State.fetchMore_keeps {s : State} {w : Wy} {id : Nat} :
    Keeps [.relief, .cip, .codec, .mortar, .pcie, .bpm, .regs, .stripes, .refs, .jobRuns, .arriving, .pwr] s (State.fetchMore s w id) := by
  unfold State.fetchMore
  try dsimp only
  repeat' first
    | with_reducible exact Keeps.refl
    | with_reducible apply Keeps.step State.fetchChunk_keeps
    | (with_reducible apply Keeps.foldl; intro _ _; try dsimp only)
    | decide
    | split

theorem State.degrade_keeps {s : State} {w : Wy} {c : Cmd} {n : Nat} {x : RChunk} :
    Keeps [.relief, .cip, .codec, .mortar, .pcie, .bpm, .regs, .refs, .jobRuns, .arriving, .pwr] s (State.degrade s w c n x) := by
  unfold State.degrade
  try dsimp only
  repeat' first
    | with_reducible exact Keeps.refl
    | with_reducible apply Keeps.step State.sendRange_keeps
    | with_reducible apply Keeps.step State.modRChunk_keeps
    | with_reducible apply Keeps.step State.loseChunk_keeps
    | (with_reducible apply Keeps.foldl; intro _ _; try dsimp only)
    | decide
    | split

theorem State.missRange_keeps {s : State} {w : Wy} {c : Cmd} {n : Nat} {x0 : RChunk} {a : RangeAsk} {notHeld : Bool} {holder : Nat} :
    Keeps [.relief, .cip, .codec, .mortar, .pcie, .bpm, .regs, .refs, .jobRuns, .arriving, .pwr] s (State.missRange s w c n x0 a notHeld holder) := by
  unfold State.missRange
  try dsimp only
  repeat' first
    | with_reducible exact Keeps.refl
    | with_reducible apply Keeps.step State.sendRange_keeps
    | with_reducible apply Keeps.step State.modRChunk_keeps
    | with_reducible apply Keeps.step State.degrade_keeps
    | decide
    | split

theorem State.gotRange_keeps {s : State} {w : Wy} {c : Cmd} {n : Nat} {x0 : RChunk} {a : RangeAsk} {bytes : Bytes} :
    Keeps [.relief, .cip, .codec, .mortar, .pcie, .bpm, .regs, .stripes, .refs, .jobRuns, .arriving, .pwr] s (State.gotRange s w c n x0 a bytes) := by
  unfold State.gotRange
  try dsimp only
  repeat' first
    | with_reducible exact Keeps.refl
    | with_reducible apply Keeps.step State.galois_keeps
    | with_reducible apply Keeps.step State.modRChunk_keeps
    | with_reducible apply Keeps.step State.recordIn_keeps
    | decide
    | split

theorem State.startFetch_keeps {s : State} {w : Wy} {c : Cmd} {v : ValueVer} :
    Keeps [.relief, .cip, .codec, .mortar, .pcie, .bpm, .regs, .stripes, .refs, .jobRuns, .arriving, .pwr] s (State.startFetch s w c v) := by
  unfold State.startFetch
  try dsimp only
  repeat' first
    | with_reducible exact Keeps.refl
    | with_reducible apply Keeps.step State.fetchMore_keeps
    | with_reducible apply Keeps.step State.modCmd_keeps
    | with_reducible apply Keeps.step State.deliver_keeps
    | with_reducible apply Keeps.step State.endGet_keeps
    | (with_reducible apply Keeps.foldl; intro _ _; try dsimp only)
    | decide

end Sys2Proof.Machine
end

