-- ==== Sys2Proof/Laws/KSlots.lean ====
section
/-! SUPPORT. What each operation of Slots.lean keeps. -/

-- One lemma after the other: many side by side hold too much memory when the package is one text.
set_option Elab.async false

namespace Sys2Proof.Machine

theorem State.modFw_keeps {s : State} {f : Fw → Fw} :
    Keeps [.fw] s (State.modFw s f) := by
  unfold State.modFw
  repeat' first
    | with_reducible exact Keeps.refl
    | (intro p hp; cases p <;> first | exact absurd (by decide) hp | (dsimp only [Part.same]; done) | (dsimp only [Part.same]; exact ⟨rfl, rfl⟩))
    | decide
    | with_reducible apply Keeps.rec_

theorem State.modFwSlot_keeps {s : State} {comp set : Nat} {b : Bool} {f : FwSlot → FwSlot} :
    Keeps [.fw] s (State.modFwSlot s comp set b f) := by
  unfold State.modFwSlot
  try dsimp only
  repeat' first
    | with_reducible exact Keeps.refl
    | with_reducible apply Keeps.step State.modFw_keeps
    | decide

theorem State.stamp_keeps {s : State} {comp set : Nat} {b : Bool} {kind seq : Nat} :
    Keeps [.fw] s (State.stamp s comp set b kind seq) := by
  unfold State.stamp
  try dsimp only
  repeat' first
    | with_reducible exact Keeps.refl
    | with_reducible apply Keeps.step State.modFwSlot_keeps
    | decide

theorem State.stampAll_keeps {s : State} {comp : Nat} {w : Wy} {b : Bool} {kind seq : Nat} :
    Keeps [.fw] s (State.stampAll s comp w b kind seq) := by
  unfold State.stampAll
  try dsimp only
  repeat' first
    | with_reducible exact Keeps.refl
    | with_reducible apply Keeps.step State.stamp_keeps
    | (with_reducible apply Keeps.foldl; intro _ _; try dsimp only)
    | decide

theorem State.bothFwu_keeps {l : List Part} {s t : State} {f : State → Page → State} (hf : ∀ p v, Keeps l v (f v p))
    (h : Keeps l s t) : Keeps l s (t.bothFwu f) :=
  Keeps.app (f := fun v => f v (.fwu .w1)) (hf _) (Keeps.app (f := fun v => f v (.fwu .w0)) (hf _) h)

theorem State.fwuNote_keeps {s : State} {code : Nat} {cnt : Option Nat} {evt : Option Nat} :
    Keeps [.pcie, .regs] s (State.fwuNote s code cnt evt) := by
  unfold State.fwuNote
  try dsimp only
  repeat' first
    | with_reducible exact Keeps.refl
    | with_reducible apply Keeps.step State.setReg_keeps
    | with_reducible apply Keeps.step State.bump_keeps
    | with_reducible apply State.bothFwu_keeps
    | with_reducible apply Keeps.step State.event_keeps
    | (intro _; try dsimp only)
    | decide
    | split

theorem State.fwuRefuse_keeps {s : State} {code : Nat} :
    Keeps [.pcie, .regs] s (State.fwuRefuse s code) := by
  unfold State.fwuRefuse
  repeat' first
    | with_reducible exact Keeps.refl
    | with_reducible apply Keeps.step State.fwuNote_keeps
    | decide

theorem State.endDrain_keeps {s : State} {w : Wy} :
    Keeps [.relief] s (State.endDrain s w) := by
  unfold State.endDrain
  try dsimp only
  repeat' first
    | with_reducible exact Keeps.refl
    | with_reducible apply Keeps.step State.modRelief_keeps
    | decide
    | split

theorem State.raiseSecurity_keeps {s : State} {comp : Nat} :
    Keeps [.pcie, .regs, .flash] s (State.raiseSecurity s comp) := by
  unfold State.raiseSecurity
  try dsimp only
  repeat' first
    | with_reducible exact Keeps.refl
    | with_reducible apply Keeps.step State.raiseCounter_keeps
    | decide
    | split

theorem State.fwCommit_keeps {s : State} {a : Activation} :
    Keeps [.pcie, .regs, .flash, .fw] s (State.fwCommit s a) := by
  unfold State.fwCommit
  try dsimp only
  repeat' first
    | with_reducible exact Keeps.refl
    | with_reducible apply Keeps.step State.stampAll_keeps
    | with_reducible apply Keeps.step State.raiseSecurity_keeps
    | with_reducible apply Keeps.step State.fwuNote_keeps
    | with_reducible apply Keeps.step State.modFw_keeps
    | decide

theorem State.fwFallback_keeps {s : State} :
    Keeps [.pcie, .regs, .fw] s (State.fwFallback s) := by
  unfold State.fwFallback
  try dsimp only
  repeat' first
    | with_reducible exact Keeps.refl
    | with_reducible apply Keeps.step State.fwuNote_keeps
    | with_reducible apply Keeps.step State.modFw_keeps
    | decide

theorem State.fwAbandon_keeps {s : State} :
    Keeps [.pcie, .regs, .fw] s (State.fwAbandon s) := by
  unfold State.fwAbandon
  try dsimp only
  repeat' first
    | with_reducible exact Keeps.refl
    | with_reducible apply Keeps.step State.fwuNote_keeps
    | with_reducible apply Keeps.step State.modFw_keeps
    | decide

theorem State.rstEnd_keeps {s : State} {w : Wy} {last reason : Nat} :
    Keeps [.pcie, .regs] s (State.rstEnd s w last reason) := by
  unfold State.rstEnd
  try dsimp only
  repeat' first
    | with_reducible exact Keeps.refl
    | with_reducible apply Keeps.step State.setReg_keeps
    | with_reducible apply Keeps.step State.event_keeps
    | decide
    | split

end Sys2Proof.Machine
end

