-- ==== Sys2Proof/Laws/KWritePath.lean ====
section
/-! SUPPORT. What each operation of WritePath.lean keeps. -/

-- One lemma after the other: many side by side hold too much memory when the package is one text.
set_option Elab.async false

namespace Sys2Proof.Machine

theorem State.modWChunk_keeps {s : State} {w : Wy} {id n : Nat} {f : WChunk → WChunk} :
    Keeps [.relief] s (State.modWChunk s w id n f) := by
  unfold State.modWChunk
  try dsimp only
  repeat' first
    | with_reducible exact Keeps.refl
    | with_reducible apply Keeps.step State.modCmd_keeps
    | decide
    | split

theorem State.modOp_keeps {s : State} {w : Wy} {id n : Nat} {f : WriteOp → WriteOp} :
    Keeps [.relief] s (State.modOp s w id n f) := by
  unfold State.modOp
  try dsimp only
  repeat' first
    | with_reducible exact Keeps.refl
    | with_reducible apply Keeps.step State.modCmd_keeps
    | decide
    | split

theorem State.issuePull_keeps {s : State} {w : Wy} {c : Cmd} {n addr rkey len : Nat} :
    Keeps [.relief] s (State.issuePull s w c n addr rkey len) := by
  unfold State.issuePull
  try dsimp only
  repeat' first
    | with_reducible exact Keeps.refl
    | with_reducible apply Keeps.step State.modQueue_keeps
    | with_reducible apply Keeps.step State.modRelief_keeps
    | with_reducible apply Keeps.step State.emit_keeps
    | decide

theorem State.pullMore_keeps {s : State} {w : Wy} {id : Nat} :
    Keeps [.relief] s (State.pullMore s w id) := by
  unfold State.pullMore
  try dsimp only
  repeat' first
    | with_reducible exact Keeps.refl
    | with_reducible apply Keeps.step State.issuePull_keeps
    | with_reducible apply Keeps.step State.modOp_keeps
    | decide
    | split

theorem State.releaseRing_keeps {s : State} {w : Wy} {id n start len : Nat} :
    Keeps [.relief] s (State.releaseRing s w id n start len) := by
  unfold State.releaseRing
  try dsimp only
  repeat' first
    | with_reducible exact Keeps.refl
    | with_reducible apply Keeps.step State.pullMore_keeps
    | with_reducible apply Keeps.step State.modOp_keeps
    | decide

theorem State.wantOld_keeps {s : State} {w : Wy} {c : Cmd} {n : Nat} {o : WriteOp} :
    Keeps [.relief, .cip, .codec, .mortar, .pcie, .bpm, .regs, .stripes, .refs, .jobRuns, .arriving, .pwr] s (State.wantOld s w c n o) := by
  unfold State.wantOld
  try dsimp only
  repeat' first
    | with_reducible exact Keeps.refl
    | with_reducible apply Keeps.step State.fetchChunk_keeps
    | with_reducible apply Keeps.step State.modCmd_keeps
    | (with_reducible apply Keeps.foldl; intro _ _; try dsimp only)
    | decide

theorem State.openOld_keeps {s : State} {w : Wy} {c : Cmd} {n : Nat} {o : WriteOp} :
    Keeps [.cip] s (State.openOld s w c n o) := by
  unfold State.openOld
  repeat' first
    | with_reducible exact Keeps.refl
    | with_reducible apply Keeps.step State.queueCrypt_keeps
    | decide
    | split

theorem State.advanceOp_keeps {s : State} {w : Wy} {id n : Nat} :
    Keeps [.relief, .cip, .codec, .mortar, .pcie, .bpm, .regs, .stripes, .refs, .jobRuns, .arriving, .pwr] s (State.advanceOp s w id n) := by
  unfold State.advanceOp
  try dsimp only
  repeat' first
    | with_reducible exact Keeps.refl
    | with_reducible apply Keeps.step State.queueCodec_keeps
    | with_reducible apply Keeps.step State.queueCrypt_keeps
    | with_reducible apply Keeps.step State.wantOld_keeps
    | decide
    | split

theorem State.creditChunk_keeps {s : State} {w : Wy} {id n : Nat} :
    Keeps [.relief, .mortar] s (State.creditChunk s w id n) := by
  unfold State.creditChunk
  try dsimp only
  repeat' first
    | with_reducible exact Keeps.refl
    | with_reducible apply Keeps.step State.modWChunk_keeps
    | with_reducible apply Keeps.step State.modMortar_keeps
    | decide
    | split

theorem State.packed_keeps {s : State} {w : Wy} {c : Cmd} {n : Nat} {x : WChunk} {codec : Codec} {body : Bytes} :
    Keeps [.relief, .cip] s (State.packed s w c n x codec body) := by
  unfold State.packed
  try dsimp only
  repeat' first
    | with_reducible exact Keeps.refl
    | with_reducible apply Keeps.step State.modWChunk_keeps
    | with_reducible apply Keeps.step State.queueCrypt_keeps
    | with_reducible apply Keeps.step State.releaseRing_keeps
    | decide

theorem State.bufferChunk_keeps {s : State} {w : Wy} {id n : Nat} :
    Keeps [.relief, .cip, .codec, .pcie, .bpm, .regs] s (State.bufferChunk s w id n) := by
  unfold State.bufferChunk
  try dsimp only
  repeat' first
    | with_reducible exact Keeps.refl
    | with_reducible apply Keeps.step State.queueCodec_keeps
    | with_reducible apply Keeps.step State.modWChunk_keeps
    | with_reducible apply Keeps.step State.takeBuf_keeps
    | with_reducible apply Keeps.step State.packed_keeps
    | decide
    | split

theorem State.sendChunk_keeps {s : State} {w : Wy} {c : Cmd} {n : Nat} {x : WChunk} :
    Keeps [.relief, .mortar, .pcie, .regs] s (State.sendChunk s w c n x) := by
  unfold State.sendChunk
  try dsimp only
  repeat' first
    | with_reducible exact Keeps.refl
    | with_reducible apply Keeps.step State.modMortar_keeps
    | with_reducible apply Keeps.step State.modWChunk_keeps
    | with_reducible apply Keeps.step State.mortarOut_keeps
    | decide
    | split

theorem State.shipChunk_keeps {s : State} {w : Wy} {id n : Nat} :
    Keeps [.relief, .mortar, .pcie, .regs] s (State.shipChunk s w id n) := by
  unfold State.shipChunk
  repeat' first
    | with_reducible exact Keeps.refl
    | with_reducible apply Keeps.step State.sendChunk_keeps
    | decide
    | split

theorem State.pumpChunk_keeps {s : State} {w : Wy} {id n : Nat} :
    Keeps [.relief, .cip, .codec, .mortar, .pcie, .bpm, .regs] s (State.pumpChunk s w id n) := by
  unfold State.pumpChunk
  repeat' first
    | with_reducible exact Keeps.refl
    | with_reducible apply Keeps.step State.shipChunk_keeps
    | with_reducible apply Keeps.step State.bufferChunk_keeps
    | with_reducible apply Keeps.step State.creditChunk_keeps
    | decide

theorem State.pumpWrites_keeps {s : State} {w : Wy} :
    Keeps [.relief, .cip, .codec, .mortar, .pcie, .bpm, .regs] s (State.pumpWrites s w) := by
  unfold State.pumpWrites
  try dsimp only
  repeat' first
    | with_reducible exact Keeps.refl
    | with_reducible apply Keeps.step State.pumpChunk_keeps
    | (with_reducible apply Keeps.foldl; intro _ _; try dsimp only)
    | decide

theorem State.commitPart_keeps {s : State} {w : Wy} {c : Cmd} {o : WriteOp} :
    Keeps [.relief, .cip, .codec, .mortar, .pcie, .bpm, .regs, .store, .refs, .jobRuns, .arriving, .pwr] s (State.commitPart s w c o) := by
  unfold State.commitPart
  try dsimp only
  repeat' first
    | with_reducible exact Keeps.refl
    | with_reducible apply Keeps.step State.finish_keeps
    | with_reducible apply Keeps.step State.notNow_keeps
    | with_reducible apply Keeps.step State.modRelief_keeps
    | with_reducible apply Keeps.step State.beginCommit_keeps
    | (with_reducible apply Keeps.foldl; intro _ _; try dsimp only)
    | decide
    | split

theorem State.rebase_keeps {s : State} {w : Wy} {id n : Nat} {v : ValueVer} :
    Keeps [.relief, .cip, .codec, .mortar, .pcie, .bpm, .regs, .stripes, .refs, .jobRuns, .arriving, .pwr] s (State.rebase s w id n v) := by
  unfold State.rebase
  try dsimp only
  repeat' first
    | with_reducible exact Keeps.refl
    | with_reducible apply Keeps.step State.endRef_keeps
    | with_reducible apply Keeps.step State.finish_keeps
    | with_reducible apply Keeps.step State.endJobs_keeps
    | with_reducible apply Keeps.step State.freeChunk_keeps
    | with_reducible apply Keeps.step State.modCmd_keeps
    | with_reducible apply Keeps.step State.advanceOp_keeps
    | with_reducible apply Keeps.step State.openOld_keeps
    | with_reducible apply Keeps.step State.modOp_keeps
    | with_reducible apply Keeps.step State.addDeltas_keeps
    | (with_reducible apply Keeps.foldl; intro _ _; try dsimp only)
    | decide
    | split

theorem State.stepOn_keeps {s : State} {w : Wy} {id : Nat} :
    Keeps [.relief, .clk, .cip, .codec, .mortar, .pcie, .bpm, .ptp, .regs, .store, .stripes, .refs, .jobRuns, .arriving, .pwr] s (State.stepOn s w id) := by
  unfold State.stepOn
  try dsimp only
  repeat' first
    | with_reducible exact Keeps.refl
    | with_reducible apply Keeps.step State.commitPart_keeps
    | with_reducible apply Keeps.step State.commitStep_keeps
    | with_reducible apply Keeps.step State.rebase_keeps
    | (with_reducible apply Keeps.foldl; intro _ _; try dsimp only)
    | decide
    | split

theorem State.beginOp_keeps {s : State} {w : Wy} {c : Cmd} {n : Nat} {o : WriteOp} {imm : Bytes} {addr rkey : Nat} :
    Keeps [.relief, .cip, .codec, .mortar, .pcie, .bpm, .regs, .stripes, .refs, .jobRuns, .arriving, .pwr] s (State.beginOp s w c n o imm addr rkey) := by
  unfold State.beginOp
  try dsimp only
  repeat' first
    | with_reducible exact Keeps.refl
    | with_reducible apply Keeps.step State.modOp_keeps
    | with_reducible apply Keeps.step State.advanceOp_keeps
    | with_reducible apply Keeps.step State.openOld_keeps
    | with_reducible apply Keeps.step State.pullMore_keeps
    | decide
    | split

theorem State.startOps_keeps {s : State} {w : Wy} {c : Cmd} {l : List (WriteOp × Bytes × Nat × Nat)} :
    Keeps [.relief, .clk, .cip, .codec, .mortar, .pcie, .bpm, .ptp, .regs, .store, .stripes, .refs, .jobRuns, .arriving, .pwr] s (State.startOps s w c l) := by
  unfold State.startOps
  try dsimp only
  repeat' first
    | with_reducible exact Keeps.refl
    | with_reducible apply Keeps.step State.modCmd_keeps
    | with_reducible apply Keeps.step State.commitStep_keeps
    | with_reducible apply Keeps.step State.finish_keeps
    | with_reducible apply Keeps.step State.stepOn_keeps
    | with_reducible apply Keeps.step State.beginOp_keeps
    | (with_reducible apply Keeps.foldl; intro _ _; try dsimp only)
    | decide
    | split

end Sys2Proof.Machine
end

