-- ==== Sys2Proof/Laws/KPipeline.lean ====
section
/-! SUPPORT. What each operation of Pipeline.lean keeps. -/

-- One lemma after the other: many side by side hold too much memory when the package is one text.
set_option Elab.async false

namespace Sys2Proof.Machine

theorem State.startOne_keeps {s : State} {w : Wy} {c : Cmd} :
    Keeps [.relief, .clk, .cip, .codec, .mortar, .pcie, .bpm, .ptp, .regs, .store, .stripes, .refs, .jobRuns, .arriving, .pwr] s (State.startOne s w c) := by
  unfold State.startOne
  repeat' first
    | with_reducible exact Keeps.refl
    | with_reducible apply Keeps.step State.startOps_keeps
    | decide

theorem State.startPart_keeps {s : State} {w : Wy} {c : Cmd} :
    Keeps [.relief, .clk, .cip, .codec, .mortar, .pcie, .bpm, .ptp, .regs, .store, .stripes, .refs, .jobRuns, .arriving, .pwr] s (State.startPart s w c) := by
  unfold State.startPart
  try dsimp only
  repeat' first
    | with_reducible exact Keeps.refl
    | with_reducible apply Keeps.step State.startOne_keeps
    | with_reducible apply Keeps.step State.finish_keeps
    | (with_reducible apply Keeps.foldl; intro _ _; try dsimp only)
    | decide
    | split

theorem State.dropUpload_keeps {s : State} {w : Wy} {id : Nat} :
    Keeps [.relief] s (State.dropUpload s w id) := by
  unfold State.dropUpload
  try dsimp only
  repeat' first
    | with_reducible exact Keeps.refl
    | with_reducible apply Keeps.step State.modRelief_keeps
    | decide

theorem State.startClose_keeps {s : State} {w : Wy} {c : Cmd} :
    Keeps [.relief, .clk, .cip, .codec, .mortar, .pcie, .bpm, .ptp, .regs, .store, .refs, .jobRuns, .arriving, .pwr] s (State.startClose s w c) := by
  unfold State.startClose
  try dsimp only
  repeat' first
    | with_reducible exact Keeps.refl
    | with_reducible apply Keeps.step State.dropUpload_keeps
    | with_reducible apply Keeps.step State.commitAt_keeps
    | with_reducible apply Keeps.step State.notNow_keeps
    | with_reducible apply Keeps.step State.finish_keeps
    | with_reducible apply Keeps.step State.modCmd_keeps
    | with_reducible apply Keeps.step State.beginCommit_keeps
    | decide
    | split

theorem State.startOpen_keeps {s : State} {w : Wy} {c : Cmd} :
    Keeps [.relief, .cip, .codec, .mortar, .pcie, .bpm, .regs, .store, .refs, .jobRuns, .arriving, .pwr] s (State.startOpen s w c) := by
  unfold State.startOpen
  try dsimp only
  repeat' first
    | with_reducible exact Keeps.refl
    | with_reducible apply Keeps.step State.notNow_keeps
    | with_reducible apply Keeps.step State.used_keeps
    | with_reducible apply Keeps.step State.finish_keeps
    | with_reducible apply Keeps.step State.beginCommit_keeps
    | with_reducible apply Keeps.step State.modRelief_keeps
    | decide
    | split

theorem State.startPlain_keeps {s : State} {w : Wy} {c : Cmd} :
    Keeps [.relief, .clk, .cip, .codec, .mortar, .pcie, .bpm, .ptp, .regs, .store, .refs, .jobRuns, .arriving, .pwr] s (State.startPlain s w c) := by
  unfold State.startPlain
  try dsimp only
  repeat' first
    | with_reducible exact Keeps.refl
    | with_reducible apply Keeps.step State.modCmd_keeps
    | with_reducible apply Keeps.step State.commitStep_keeps
    | decide
    | split

theorem State.startGet_keeps {s : State} {w : Wy} {c : Cmd} :
    Keeps [.relief, .cip, .codec, .mortar, .pcie, .bpm, .regs, .stripes, .refs, .jobRuns, .arriving, .pwr] s (State.startGet s w c) := by
  unfold State.startGet
  try dsimp only
  repeat' first
    | with_reducible exact Keeps.refl
    | with_reducible apply Keeps.step State.queueCrypt_keeps
    | with_reducible apply Keeps.step State.startFetch_keeps
    | with_reducible apply Keeps.step State.finish_keeps
    | with_reducible apply Keeps.step State.modCmd_keeps
    | decide
    | split

theorem State.startStat_keeps {s : State} {w : Wy} {c : Cmd} :
    Keeps [.relief, .mortar, .pcie, .bpm, .regs, .refs, .arriving, .pwr] s (State.startStat s w c) := by
  unfold State.startStat
  try dsimp only
  repeat' first
    | with_reducible exact Keeps.refl
    | with_reducible apply Keeps.step State.placeAll_keeps
    | with_reducible apply Keeps.step State.finish_keeps
    | decide
    | split

theorem State.startList_keeps {s : State} {w : Wy} {c : Cmd} :
    Keeps [.relief, .mortar, .pcie, .bpm, .regs, .refs, .arriving, .pwr] s (State.startList s w c) := by
  unfold State.startList
  try dsimp only
  repeat' first
    | with_reducible exact Keeps.refl
    | with_reducible apply Keeps.step State.placeAll_keeps
    | with_reducible apply Keeps.step State.finish_keeps
    | (with_reducible apply Keeps.foldl; intro _ _; try dsimp only)
    | decide
    | split

theorem State.startMapGet_keeps {s : State} {w : Wy} {c : Cmd} :
    Keeps [.relief, .mortar, .pcie, .bpm, .regs, .refs, .arriving, .pwr] s (State.startMapGet s w c) := by
  unfold State.startMapGet
  try dsimp only
  repeat' first
    | with_reducible exact Keeps.refl
    | with_reducible apply Keeps.step State.placeAll_keeps
    | with_reducible apply Keeps.step State.finish_keeps
    | decide
    | split

theorem State.startHello_keeps {s : State} {w : Wy} {c : Cmd} :
    Keeps [.relief, .mortar, .pcie, .bpm, .regs, .refs, .arriving, .pwr] s (State.startHello s w c) := by
  unfold State.startHello
  repeat' first
    | with_reducible exact Keeps.refl
    | with_reducible apply Keeps.step State.placeAll_keeps
    | with_reducible apply Keeps.step State.finish_keeps
    | decide
    | split

theorem State.startCast_keeps {s : State} {w : Wy} {c : Cmd} :
    Keeps [.relief, .mortar, .pcie, .regs] s (State.startCast s w c) := by
  unfold State.startCast
  try dsimp only
  repeat' first
    | with_reducible exact Keeps.refl
    | with_reducible apply Keeps.step State.toArmature_keeps
    | with_reducible apply Keeps.step State.modCmd_keeps
    | decide

theorem State.startCastDrop_keeps {s : State} {w : Wy} {c : Cmd} :
    Keeps [.relief, .mortar, .pcie, .regs] s (State.startCastDrop s w c) := by
  unfold State.startCastDrop
  try dsimp only
  repeat' first
    | with_reducible exact Keeps.refl
    | with_reducible apply Keeps.step State.toArmature_keeps
    | with_reducible apply Keeps.step State.modCmd_keeps
    | decide

theorem State.answerAsked_keeps {s : State} {w : Wy} :
    Keeps [.relief, .mortar, .pcie, .bpm, .regs, .refs, .arriving, .pwr] s (State.answerAsked s w) := by
  unfold State.answerAsked
  try dsimp only
  repeat' first
    | with_reducible exact Keeps.refl
    | with_reducible apply Keeps.step State.answerOutcome_keeps
    | (with_reducible apply Keeps.foldl; intro _ _; try dsimp only)
    | decide

theorem State.startOutcome_keeps {s : State} {w : Wy} {c : Cmd} :
    Keeps [.relief, .mortar, .pcie, .bpm, .regs, .refs, .arriving, .pwr] s (State.startOutcome s w c) := by
  unfold State.startOutcome
  try dsimp only
  repeat' first
    | with_reducible exact Keeps.refl
    | with_reducible apply Keeps.step State.answerAsked_keeps
    | with_reducible apply Keeps.step State.mortarOut_keeps
    | with_reducible apply Keeps.step State.modCmd_keeps
    | with_reducible apply Keeps.step State.answerOutcome_keeps
    | decide
    | split

theorem State.dispatch_keeps {s : State} {w : Wy} {c : Cmd} :
    Keeps [.relief, .clk, .cip, .codec, .mortar, .pcie, .bpm, .ptp, .regs, .store, .stripes, .refs, .jobRuns, .arriving, .pwr] s (State.dispatch s w c) := by
  unfold State.dispatch
  try dsimp only
  repeat' first
    | with_reducible exact Keeps.refl
    | with_reducible apply Keeps.step State.issuePull_keeps
    | with_reducible apply Keeps.step State.startOne_keeps
    | with_reducible apply Keeps.step State.startHello_keeps
    | with_reducible apply Keeps.step State.startList_keeps
    | with_reducible apply Keeps.step State.startGet_keeps
    | with_reducible apply Keeps.step State.startPlain_keeps
    | with_reducible apply Keeps.step State.startClose_keeps
    | with_reducible apply Keeps.step State.finish_keeps
    | with_reducible apply Keeps.step State.modCmd_keeps
    | with_reducible apply Keeps.step State.startStat_keeps
    | with_reducible apply Keeps.step State.startOpen_keeps
    | with_reducible apply Keeps.step State.startOutcome_keeps
    | with_reducible apply Keeps.step State.startCastDrop_keeps
    | with_reducible apply Keeps.step State.startMapGet_keeps
    | with_reducible apply Keeps.step State.modQueue_keeps
    | with_reducible apply Keeps.step State.startPart_keeps
    | with_reducible apply Keeps.step State.startCast_keeps
    | decide
    | split

end Sys2Proof.Machine
end

