-- ==== Sys2Proof/Laws/KArrival.lean ====
section
/-! SUPPORT. What each operation of Arrival.lean keeps. -/

-- One lemma after the other: many side by side hold too much memory when the package is one text.
set_option Elab.async false

namespace Sys2Proof.Machine

theorem State.answer_keeps {s : State} {w : Wy} {q : Nat} {tag : Nat} {rid : BitVec 64} {a : Ans} :
    Keeps [.pcie, .regs, .pwr] s (State.answer s w q tag rid a) := by
  unfold State.answer
  try dsimp only
  repeat' first
    | with_reducible exact Keeps.refl
    | with_reducible apply Keeps.step State.bump_keeps
    | with_reducible apply Keeps.step State.handOut_keeps
    | decide
    | split

theorem State.setPhase_keeps {s : State} {w : Wy} {id : Nat} {p : Phase} :
    Keeps [.relief] s (State.setPhase s w id p) := by
  unfold State.setPhase
  try dsimp only
  repeat' first
    | with_reducible exact Keeps.refl
    | with_reducible apply Keeps.step State.modCmd_keeps
    | decide

theorem State.enqueue_keeps {s : State} {w : Wy} {id : Nat} :
    Keeps [.relief] s (State.enqueue s w id) := by
  unfold State.enqueue
  try dsimp only
  repeat' first
    | with_reducible exact Keeps.refl
    | with_reducible apply Keeps.step State.modCmd_keeps
    | decide

theorem State.begin__keeps {s : State} {w : Wy} {c : Cmd} :
    Keeps [.relief, .clk, .cip, .codec, .mortar, .pcie, .bpm, .ptp, .regs, .store, .stripes, .refs, .jobRuns, .arriving, .pwr] s (State.begin_ s w c) := by
  unfold State.begin_
  try dsimp only
  repeat' first
    | with_reducible exact Keeps.refl
    | with_reducible apply Keeps.step State.enqueue_keeps
    | with_reducible apply Keeps.step State.finish_keeps
    | with_reducible apply Keeps.step State.dispatch_keeps
    | with_reducible apply Keeps.step State.setPhase_keeps
    | with_reducible apply Keeps.step State.commitStep_keeps
    | decide
    | split

theorem State.tryBegin_keeps {s : State} {w : Wy} {id : Nat} :
    Keeps [.relief, .clk, .cip, .codec, .mortar, .pcie, .bpm, .ptp, .regs, .store, .stripes, .refs, .jobRuns, .arriving, .pwr] s (State.tryBegin s w id) := by
  unfold State.tryBegin
  repeat' first
    | with_reducible exact Keeps.refl
    | with_reducible apply Keeps.step State.begin__keeps
    | decide
    | split

theorem State.releaseFlush_keeps {s : State} {w : Wy} :
    Keeps [.relief, .clk, .cip, .codec, .mortar, .pcie, .bpm, .ptp, .regs, .store, .stripes, .refs, .jobRuns, .arriving, .pwr] s (State.releaseFlush s w) := by
  unfold State.releaseFlush
  try dsimp only
  repeat' first
    | with_reducible exact Keeps.refl
    | with_reducible apply Keeps.step State.tryBegin_keeps
    | (with_reducible apply Keeps.foldl; intro _ _; try dsimp only)
    | decide

theorem State.takeCommand_keeps {s : State} {w : Wy} {q : Nat} {op : Opcode} {m : Msg} :
    Keeps [.relief, .clk, .cip, .codec, .mortar, .pcie, .bpm, .ptp, .regs, .store, .stripes, .refs, .jobRuns, .arriving, .pwr] s (State.takeCommand s w q op m) := by
  unfold State.takeCommand
  try dsimp only
  repeat' first
    | with_reducible exact Keeps.refl
    | with_reducible apply Keeps.step State.answer_keeps
    | with_reducible apply Keeps.step State.used_keeps
    | with_reducible apply Keeps.step State.modRelief_keeps
    | with_reducible apply Keeps.step State.tryBegin_keeps
    | decide
    | split

theorem State.noteCapsule_keeps {s : State} {w : Wy} {q : Nat} {command : Bool} :
    Keeps [.relief, .pwr] s (State.noteCapsule s w q command) := by
  unfold State.noteCapsule
  try dsimp only
  repeat' first
    | with_reducible exact Keeps.refl
    | with_reducible apply Keeps.step State.modQueue_keeps
    | (intro p hp; cases p <;> first | exact absurd (by decide) hp | (dsimp only [Part.same]; done) | (dsimp only [Part.same]; exact ⟨rfl, rfl⟩))
    | decide
    | split
    | with_reducible apply Keeps.rec_

theorem State.arrive_keeps {s : State} {w : Wy} {q : Nat} {op : Opcode} {m : Msg} :
    Keeps [.relief, .clk, .cip, .codec, .mortar, .pcie, .bpm, .ptp, .regs, .store, .stripes, .refs, .jobRuns, .arriving, .pwr] s (State.arrive s w q op m) := by
  unfold State.arrive
  try dsimp only
  repeat' first
    | with_reducible exact Keeps.refl
    | with_reducible apply Keeps.step State.takeCommand_keeps
    | with_reducible apply Keeps.step State.modRelief_keeps
    | with_reducible apply Keeps.step State.noteCapsule_keeps
    | (intro p hp; cases p <;> first | exact absurd (by decide) hp | (dsimp only [Part.same]; done) | (dsimp only [Part.same]; exact ⟨rfl, rfl⟩))
    | decide
    | split
    | with_reducible apply Keeps.rec_

theorem State.letIn_keeps {s : State} {w : Wy} {c : Cmd} :
    Keeps [.relief, .clk, .cip, .codec, .mortar, .pcie, .bpm, .ptp, .regs, .store, .stripes, .refs, .jobRuns, .arriving, .pwr] s (State.letIn s w c) := by
  unfold State.letIn
  try dsimp only
  repeat' first
    | with_reducible exact Keeps.refl
    | with_reducible apply Keeps.step State.used_keeps
    | with_reducible apply Keeps.step State.finish_keeps
    | with_reducible apply Keeps.step State.dispatch_keeps
    | with_reducible apply Keeps.step State.setPhase_keeps
    | decide
    | split

theorem State.admitClass_keeps {s : State} {w : Wy} {k : AdmClass} {x1 : List Nat} : Keeps [.relief, .clk, .cip, .codec, .mortar, .pcie, .bpm, .ptp, .regs, .store, .stripes, .refs, .jobRuns, .arriving, .pwr] s (State.admitClass s w k x1) := by
  induction x1 generalizing s with
  | nil => exact .refl
  | cons a l ih =>
    unfold State.admitClass
    try dsimp only
    repeat' first
      | with_reducible apply Keeps.refl
      | with_reducible assumption
      | with_reducible apply Keeps.step ih
      | with_reducible apply Keeps.step State.letIn_keeps
      | with_reducible apply Keeps.step State.modRelief_keeps
      | decide
      | split

theorem State.admitOf_keeps {s : State} {w : Wy} {k : AdmClass} :
    Keeps [.relief, .clk, .cip, .codec, .mortar, .pcie, .bpm, .ptp, .regs, .store, .stripes, .refs, .jobRuns, .arriving, .pwr] s (State.admitOf s w k) := by
  unfold State.admitOf
  repeat' first
    | with_reducible exact Keeps.refl
    | with_reducible apply Keeps.step State.admitClass_keeps
    | decide

theorem State.admitAll_keeps {s : State} {w : Wy} :
    Keeps [.relief, .clk, .cip, .codec, .mortar, .pcie, .bpm, .ptp, .regs, .store, .stripes, .refs, .jobRuns, .arriving, .pwr] s (State.admitAll s w) := by
  unfold State.admitAll
  repeat' first
    | with_reducible exact Keeps.refl
    | with_reducible apply Keeps.step State.admitOf_keeps
    | decide

theorem State.admitCycles_keeps {s : State} {w : Wy} {n : Nat} :
    Keeps [.relief, .clk, .cip, .codec, .mortar, .pcie, .bpm, .ptp, .regs, .store, .stripes, .refs, .jobRuns, .arriving, .pwr] s (State.admitCycles s w n) := by
  induction n generalizing s with
  | zero => exact .refl
  | succ n ih =>
    unfold State.admitCycles
    try dsimp only
    repeat' first
      | with_reducible apply Keeps.refl
      | with_reducible apply Keeps.step ih
      | with_reducible apply Keeps.step State.admitAll_keeps
      | decide
      | split

theorem State.wakeClose_keeps {s : State} {w : Wy} :
    Keeps [.relief, .clk, .cip, .codec, .mortar, .pcie, .bpm, .ptp, .regs, .store, .refs, .jobRuns, .arriving, .pwr] s (State.wakeClose s w) := by
  unfold State.wakeClose
  try dsimp only
  repeat' first
    | with_reducible exact Keeps.refl
    | with_reducible apply Keeps.step State.startClose_keeps
    | (with_reducible apply Keeps.foldl; intro _ _; try dsimp only)
    | decide

end Sys2Proof.Machine
end

