-- ==== Sys2Proof/Laws/KRelief.lean ====
section
/-! SUPPORT. What each operation of Relief.lean keeps. -/

-- One lemma after the other: many side by side hold too much memory when the package is one text.
set_option Elab.async false

namespace Sys2Proof.Machine

theorem State.controlReset_keeps {s : State} {w : Wy} {q code : Nat} {rid : BitVec 64} :
    Keeps [.relief, .cip, .codec, .mortar, .pcie, .bpm, .pairs, .regs, .store, .refs, .jobRuns, .arriving, .pwr] s (State.controlReset s w q code rid) := by
  unfold State.controlReset
  try dsimp only
  repeat' first
    | with_reducible exact Keeps.refl
    | with_reducible apply Keeps.step State.sendAcks_keeps
    | with_reducible apply Keeps.step State.modPage_keeps
    | with_reducible apply Keeps.step State.resetQueue_keeps
    | with_reducible apply Keeps.step State.modQueue_keeps
    | decide
    | split

theorem State.keepalive_keeps {s : State} {w : Wy} {q : Nat} {rid : BitVec 64} :
    Keeps [.relief, .pcie, .pwr] s (State.keepalive s w q rid) := by
  unfold State.keepalive
  try dsimp only
  repeat' first
    | with_reducible exact Keeps.refl
    | with_reducible apply Keeps.step State.handOut_keeps
    | with_reducible apply Keeps.step State.modQueue_keeps
    | decide
    | split

theorem State.takeControl_keeps {s : State} {w : Wy} {q code : Nat} {m : Msg} :
    Keeps [.relief, .cip, .codec, .mortar, .pcie, .bpm, .pairs, .regs, .store, .refs, .jobRuns, .arriving, .pwr] s (State.takeControl s w q code m) := by
  unfold State.takeControl
  repeat' first
    | with_reducible exact Keeps.refl
    | with_reducible apply Keeps.step State.answer_keeps
    | with_reducible apply Keeps.step State.keepalive_keeps
    | with_reducible apply Keeps.step State.controlReset_keeps
    | decide
    | split

theorem State.takeUnknown_keeps {s : State} {w : Wy} {q : Nat} {m : Msg} :
    Keeps [.pcie, .regs, .pwr] s (State.takeUnknown s w q m) := by
  unfold State.takeUnknown
  repeat' first
    | with_reducible exact Keeps.refl
    | with_reducible apply Keeps.step State.answer_keeps
    | decide
    | split

theorem State.takeMsg_keeps {s : State} {w : Wy} {h : HeldMsg} :
    Keeps [.relief, .clk, .cip, .codec, .mortar, .pcie, .bpm, .ptp, .pairs, .regs, .store, .stripes, .refs, .jobRuns, .arriving, .pwr] s (State.takeMsg s w h) := by
  unfold State.takeMsg
  repeat' first
    | with_reducible exact Keeps.refl
    | with_reducible apply Keeps.step State.answer_keeps
    | with_reducible apply Keeps.step State.takeUnknown_keeps
    | with_reducible apply Keeps.step State.takeCommand_keeps
    | with_reducible apply Keeps.step State.takeControl_keeps
    | decide
    | split

theorem State.arriveOther_keeps {s : State} {w : Wy} {h : HeldMsg} :
    Keeps [.relief, .clk, .cip, .codec, .mortar, .pcie, .bpm, .ptp, .pairs, .regs, .store, .stripes, .refs, .jobRuns, .arriving, .pwr] s (State.arriveOther s w h) := by
  unfold State.arriveOther
  try dsimp only
  repeat' first
    | with_reducible exact Keeps.refl
    | with_reducible apply Keeps.step State.takeMsg_keeps
    | with_reducible apply Keeps.step State.modRelief_keeps
    | with_reducible apply Keeps.step State.noteCapsule_keeps
    | (intro p hp; cases p <;> first | exact absurd (by decide) hp | (dsimp only [Part.same]; done) | (dsimp only [Part.same]; exact ⟨rfl, rfl⟩))
    | decide
    | split
    | with_reducible apply Keeps.rec_

theorem State.replayHeld_keeps {s : State} {w : Wy} :
    Keeps [.relief, .clk, .cip, .codec, .mortar, .pcie, .bpm, .ptp, .pairs, .regs, .store, .stripes, .refs, .jobRuns, .arriving, .pwr] s (State.replayHeld s w) := by
  unfold State.replayHeld
  try dsimp only
  repeat' first
    | with_reducible exact Keeps.refl
    | with_reducible apply Keeps.step State.takeMsg_keeps
    | with_reducible apply Keeps.step State.modRelief_keeps
    | (with_reducible apply Keeps.foldl; intro _ _; try dsimp only)
    | decide

theorem execHello_keeps {w : Wy} {q : Nat} {m : Msg} {s : State} :
    KeepsO [.relief, .clk, .cip, .codec, .mortar, .pcie, .bpm, .ptp, .regs, .store, .stripes, .refs, .jobRuns, .arriving, .pwr] s (execHello w q m s) := by
  unfold execHello
  repeat' first
    | with_reducible exact Keeps.refl
    | with_reducible apply Keeps.step State.arrive_keeps
    | decide
    | with_reducible apply KeepsO.next

theorem execMapGet_keeps {w : Wy} {q : Nat} {m : Msg} {s : State} :
    KeepsO [.relief, .clk, .cip, .codec, .mortar, .pcie, .bpm, .ptp, .regs, .store, .stripes, .refs, .jobRuns, .arriving, .pwr] s (execMapGet w q m s) := by
  unfold execMapGet
  repeat' first
    | with_reducible exact Keeps.refl
    | with_reducible apply Keeps.step State.arrive_keeps
    | decide
    | with_reducible apply KeepsO.next

theorem execPut_keeps {w : Wy} {q : Nat} {m : Msg} {s : State} :
    KeepsO [.relief, .clk, .cip, .codec, .mortar, .pcie, .bpm, .ptp, .regs, .store, .stripes, .refs, .jobRuns, .arriving, .pwr] s (execPut w q m s) := by
  unfold execPut
  repeat' first
    | with_reducible exact Keeps.refl
    | with_reducible apply Keeps.step State.arrive_keeps
    | decide
    | with_reducible apply KeepsO.next

theorem execPutOpen_keeps {w : Wy} {q : Nat} {m : Msg} {s : State} :
    KeepsO [.relief, .clk, .cip, .codec, .mortar, .pcie, .bpm, .ptp, .regs, .store, .stripes, .refs, .jobRuns, .arriving, .pwr] s (execPutOpen w q m s) := by
  unfold execPutOpen
  repeat' first
    | with_reducible exact Keeps.refl
    | with_reducible apply Keeps.step State.arrive_keeps
    | decide
    | with_reducible apply KeepsO.next

theorem execPutPart_keeps {w : Wy} {q : Nat} {m : Msg} {s : State} :
    KeepsO [.relief, .clk, .cip, .codec, .mortar, .pcie, .bpm, .ptp, .regs, .store, .stripes, .refs, .jobRuns, .arriving, .pwr] s (execPutPart w q m s) := by
  unfold execPutPart
  repeat' first
    | with_reducible exact Keeps.refl
    | with_reducible apply Keeps.step State.arrive_keeps
    | decide
    | with_reducible apply KeepsO.next

theorem execPutClose_keeps {w : Wy} {q : Nat} {m : Msg} {s : State} :
    KeepsO [.relief, .clk, .cip, .codec, .mortar, .pcie, .bpm, .ptp, .regs, .store, .stripes, .refs, .jobRuns, .arriving, .pwr] s (execPutClose w q m s) := by
  unfold execPutClose
  repeat' first
    | with_reducible exact Keeps.refl
    | with_reducible apply Keeps.step State.arrive_keeps
    | decide
    | with_reducible apply KeepsO.next

theorem execPatch_keeps {w : Wy} {q : Nat} {m : Msg} {s : State} :
    KeepsO [.relief, .clk, .cip, .codec, .mortar, .pcie, .bpm, .ptp, .regs, .store, .stripes, .refs, .jobRuns, .arriving, .pwr] s (execPatch w q m s) := by
  unfold execPatch
  repeat' first
    | with_reducible exact Keeps.refl
    | with_reducible apply Keeps.step State.arrive_keeps
    | decide
    | with_reducible apply KeepsO.next

theorem execPunch_keeps {w : Wy} {q : Nat} {m : Msg} {s : State} :
    KeepsO [.relief, .clk, .cip, .codec, .mortar, .pcie, .bpm, .ptp, .regs, .store, .stripes, .refs, .jobRuns, .arriving, .pwr] s (execPunch w q m s) := by
  unfold execPunch
  repeat' first
    | with_reducible exact Keeps.refl
    | with_reducible apply Keeps.step State.arrive_keeps
    | decide
    | with_reducible apply KeepsO.next

theorem execDelete_keeps {w : Wy} {q : Nat} {m : Msg} {s : State} :
    KeepsO [.relief, .clk, .cip, .codec, .mortar, .pcie, .bpm, .ptp, .regs, .store, .stripes, .refs, .jobRuns, .arriving, .pwr] s (execDelete w q m s) := by
  unfold execDelete
  repeat' first
    | with_reducible exact Keeps.refl
    | with_reducible apply Keeps.step State.arrive_keeps
    | decide
    | with_reducible apply KeepsO.next

theorem execGet_keeps {w : Wy} {q : Nat} {m : Msg} {s : State} :
    KeepsO [.relief, .clk, .cip, .codec, .mortar, .pcie, .bpm, .ptp, .regs, .store, .stripes, .refs, .jobRuns, .arriving, .pwr] s (execGet w q m s) := by
  unfold execGet
  repeat' first
    | with_reducible exact Keeps.refl
    | with_reducible apply Keeps.step State.arrive_keeps
    | decide
    | with_reducible apply KeepsO.next

theorem execStat_keeps {w : Wy} {q : Nat} {m : Msg} {s : State} :
    KeepsO [.relief, .clk, .cip, .codec, .mortar, .pcie, .bpm, .ptp, .regs, .store, .stripes, .refs, .jobRuns, .arriving, .pwr] s (execStat w q m s) := by
  unfold execStat
  repeat' first
    | with_reducible exact Keeps.refl
    | with_reducible apply Keeps.step State.arrive_keeps
    | decide
    | with_reducible apply KeepsO.next

theorem execList_keeps {w : Wy} {q : Nat} {m : Msg} {s : State} :
    KeepsO [.relief, .clk, .cip, .codec, .mortar, .pcie, .bpm, .ptp, .regs, .store, .stripes, .refs, .jobRuns, .arriving, .pwr] s (execList w q m s) := by
  unfold execList
  repeat' first
    | with_reducible exact Keeps.refl
    | with_reducible apply Keeps.step State.arrive_keeps
    | decide
    | with_reducible apply KeepsO.next

theorem execBatch_keeps {w : Wy} {q : Nat} {m : Msg} {s : State} :
    KeepsO [.relief, .clk, .cip, .codec, .mortar, .pcie, .bpm, .ptp, .regs, .store, .stripes, .refs, .jobRuns, .arriving, .pwr] s (execBatch w q m s) := by
  unfold execBatch
  repeat' first
    | with_reducible exact Keeps.refl
    | with_reducible apply Keeps.step State.arrive_keeps
    | decide
    | with_reducible apply KeepsO.next

theorem execCast_keeps {w : Wy} {q : Nat} {m : Msg} {s : State} :
    KeepsO [.relief, .clk, .cip, .codec, .mortar, .pcie, .bpm, .ptp, .regs, .store, .stripes, .refs, .jobRuns, .arriving, .pwr] s (execCast w q m s) := by
  unfold execCast
  repeat' first
    | with_reducible exact Keeps.refl
    | with_reducible apply Keeps.step State.arrive_keeps
    | decide
    | with_reducible apply KeepsO.next

theorem execCastDrop_keeps {w : Wy} {q : Nat} {m : Msg} {s : State} :
    KeepsO [.relief, .clk, .cip, .codec, .mortar, .pcie, .bpm, .ptp, .regs, .store, .stripes, .refs, .jobRuns, .arriving, .pwr] s (execCastDrop w q m s) := by
  unfold execCastDrop
  repeat' first
    | with_reducible exact Keeps.refl
    | with_reducible apply Keeps.step State.arrive_keeps
    | decide
    | with_reducible apply KeepsO.next

theorem execOutcome_keeps {w : Wy} {q : Nat} {m : Msg} {s : State} :
    KeepsO [.relief, .clk, .cip, .codec, .mortar, .pcie, .bpm, .ptp, .regs, .store, .stripes, .refs, .jobRuns, .arriving, .pwr] s (execOutcome w q m s) := by
  unfold execOutcome
  repeat' first
    | with_reducible exact Keeps.refl
    | with_reducible apply Keeps.step State.arrive_keeps
    | decide
    | with_reducible apply KeepsO.next

theorem execFlush_keeps {w : Wy} {q : Nat} {m : Msg} {s : State} :
    KeepsO [.relief, .clk, .cip, .codec, .mortar, .pcie, .bpm, .ptp, .regs, .store, .stripes, .refs, .jobRuns, .arriving, .pwr] s (execFlush w q m s) := by
  unfold execFlush
  repeat' first
    | with_reducible exact Keeps.refl
    | with_reducible apply Keeps.step State.arrive_keeps
    | decide
    | with_reducible apply KeepsO.next

theorem execSubscribe_keeps {w : Wy} {q : Nat} {m : Msg} {s : State} :
    KeepsO [.relief, .clk, .cip, .codec, .mortar, .pcie, .bpm, .ptp, .regs, .store, .stripes, .refs, .jobRuns, .arriving, .pwr] s (execSubscribe w q m s) := by
  unfold execSubscribe
  repeat' first
    | with_reducible exact Keeps.refl
    | with_reducible apply Keeps.step State.arrive_keeps
    | decide
    | with_reducible apply KeepsO.next

theorem execFlushComplete_keeps {w : Wy} {id : Nat} {sealed : List Nat} {s : State} :
    KeepsO [.relief, .clk, .cip, .codec, .mortar, .pcie, .bpm, .ptp, .regs, .store, .stripes, .refs, .jobRuns, .arriving, .pwr] s (execFlushComplete w id sealed s) := by
  unfold execFlushComplete
  try dsimp only
  repeat' first
    | with_reducible exact Keeps.refl
    | with_reducible apply Keeps.step State.releaseFlush_keeps
    | with_reducible apply Keeps.step State.finish_keeps
    | with_reducible apply Keeps.step State.modRelief_keeps
    | decide
    | with_reducible apply KeepsO.next
    | split

theorem execQueueReset_keeps {w : Wy} {q : Nat} {m : Msg} {s : State} :
    KeepsO [.relief, .clk, .cip, .codec, .mortar, .pcie, .bpm, .ptp, .pairs, .regs, .store, .stripes, .refs, .jobRuns, .arriving, .pwr] s (execQueueReset w q m s) := by
  unfold execQueueReset
  repeat' first
    | with_reducible exact Keeps.refl
    | with_reducible apply Keeps.step State.arriveOther_keeps
    | decide
    | with_reducible apply KeepsO.next

theorem execQueueClose_keeps {w : Wy} {q : Nat} {m : Msg} {s : State} :
    KeepsO [.relief, .clk, .cip, .codec, .mortar, .pcie, .bpm, .ptp, .pairs, .regs, .store, .stripes, .refs, .jobRuns, .arriving, .pwr] s (execQueueClose w q m s) := by
  unfold execQueueClose
  repeat' first
    | with_reducible exact Keeps.refl
    | with_reducible apply Keeps.step State.arriveOther_keeps
    | decide
    | with_reducible apply KeepsO.next

theorem execKeepalive_keeps {w : Wy} {q : Nat} {m : Msg} {s : State} :
    KeepsO [.relief, .clk, .cip, .codec, .mortar, .pcie, .bpm, .ptp, .pairs, .regs, .store, .stripes, .refs, .jobRuns, .arriving, .pwr] s (execKeepalive w q m s) := by
  unfold execKeepalive
  repeat' first
    | with_reducible exact Keeps.refl
    | with_reducible apply Keeps.step State.arriveOther_keeps
    | decide
    | with_reducible apply KeepsO.next

theorem execUnknownKindMessage_keeps {w : Wy} {q : Nat} {bytes : Bytes} {s : State} :
    KeepsO [.relief, .clk, .cip, .codec, .mortar, .pcie, .bpm, .ptp, .pairs, .regs, .store, .stripes, .refs, .jobRuns, .arriving, .pwr] s (execUnknownKindMessage w q bytes s) := by
  unfold execUnknownKindMessage
  repeat' first
    | with_reducible exact Keeps.refl
    | with_reducible apply Keeps.step State.arriveOther_keeps
    | decide
    | with_reducible apply KeepsO.next
    | split

theorem execUnknownOpcode_keeps {w : Wy} {q : Nat} {control : Bool} {m : Msg} {s : State} :
    KeepsO [.relief, .clk, .cip, .codec, .mortar, .pcie, .bpm, .ptp, .pairs, .regs, .store, .stripes, .refs, .jobRuns, .arriving, .pwr] s (execUnknownOpcode w q control m s) := by
  unfold execUnknownOpcode
  repeat' first
    | with_reducible exact Keeps.refl
    | with_reducible apply Keeps.step State.arriveOther_keeps
    | decide
    | with_reducible apply KeepsO.next
    | split

theorem State.nakClose_keeps {s : State} {w : Wy} {q : Nat} :
    Keeps [.relief, .cip, .codec, .mortar, .pcie, .bpm, .pairs, .regs, .store, .refs, .jobRuns, .arriving, .pwr] s (State.nakClose s w q) := by
  unfold State.nakClose
  repeat' first
    | with_reducible exact Keeps.refl
    | with_reducible apply Keeps.step State.bump_keeps
    | with_reducible apply Keeps.step State.emit_keeps
    | with_reducible apply Keeps.step State.loseQueue_keeps
    | decide

theorem execSendLengthNak_keeps {w : Wy} {q len : Nat} {s : State} :
    KeepsO [.relief, .cip, .codec, .mortar, .pcie, .bpm, .pairs, .regs, .store, .refs, .jobRuns, .arriving, .pwr] s (execSendLengthNak w q len s) := by
  unfold execSendLengthNak
  repeat' first
    | with_reducible exact Keeps.refl
    | with_reducible apply Keeps.step State.nakClose_keeps
    | decide
    | with_reducible apply KeepsO.next
    | split

theorem execRdmaInvalidRequest_keeps {w : Wy} {q : Nat} {s : State} :
    KeepsO [.relief, .cip, .codec, .mortar, .pcie, .bpm, .pairs, .regs, .store, .refs, .jobRuns, .arriving, .pwr] s (execRdmaInvalidRequest w q s) := by
  unfold execRdmaInvalidRequest
  repeat' first
    | with_reducible exact Keeps.refl
    | with_reducible apply Keeps.step State.nakClose_keeps
    | decide
    | with_reducible apply KeepsO.next
    | split

theorem execIdleClose_keeps {w : Wy} {q : Nat} {s : State} :
    KeepsO [.relief, .cip, .codec, .mortar, .pcie, .bpm, .pairs, .regs, .store, .refs, .jobRuns, .arriving, .pwr] s (execIdleClose w q s) := by
  unfold execIdleClose
  repeat' first
    | with_reducible exact Keeps.refl
    | with_reducible apply Keeps.step State.bump_keeps
    | with_reducible apply Keeps.step State.loseQueue_keeps
    | decide
    | with_reducible apply KeepsO.next
    | split

theorem execConnectionClose_keeps {w : Wy} {q : Nat} {s : State} :
    KeepsO [.relief, .cip, .codec, .mortar, .pcie, .bpm, .pairs, .regs, .store, .refs, .jobRuns, .arriving, .pwr] s (execConnectionClose w q s) := by
  unfold execConnectionClose
  repeat' first
    | with_reducible exact Keeps.refl
    | with_reducible apply Keeps.step State.loseQueue_keeps
    | decide
    | with_reducible apply KeepsO.next
    | split

theorem execRdmaWriteDone_keeps {w : Wy} {q : Nat} {s : State} :
    KeepsO [.relief, .pcie, .pairs, .pwr] s (execRdmaWriteDone w q s) := by
  unfold execRdmaWriteDone
  try dsimp only
  repeat' first
    | with_reducible exact Keeps.refl
    | with_reducible apply Keeps.step State.sendAcks_keeps
    | with_reducible apply Keeps.step State.modQueue_keeps
    | decide
    | with_reducible apply KeepsO.next

theorem execAdmissionCycle_keeps {w : Wy} {s : State} :
    KeepsO [.relief, .clk, .cip, .codec, .mortar, .pcie, .bpm, .ptp, .regs, .store, .stripes, .refs, .jobRuns, .arriving, .pwr] s (execAdmissionCycle w s) := by
  unfold execAdmissionCycle
  repeat' first
    | with_reducible exact Keeps.refl
    | with_reducible apply Keeps.step State.admitCycles_keeps
    | with_reducible apply Keeps.step State.wakeClose_keeps
    | decide
    | with_reducible apply KeepsO.next

theorem execAdmissionTimeout_keeps {w : Wy} {id : Nat} {s : State} :
    KeepsO [.relief, .mortar, .pcie, .bpm, .regs, .refs, .arriving, .pwr] s (execAdmissionTimeout w id s) := by
  unfold execAdmissionTimeout
  try dsimp only
  repeat' first
    | with_reducible exact Keeps.refl
    | with_reducible apply Keeps.step State.bump_keeps
    | with_reducible apply Keeps.step State.used_keeps
    | with_reducible apply Keeps.step State.finish_keeps
    | with_reducible apply Keeps.step State.event_keeps
    | decide
    | with_reducible apply KeepsO.next
    | split

theorem execReadAtRelease_keeps {w : Wy} {id : Nat} {s : State} :
    KeepsO [.relief, .mortar, .pcie, .bpm, .regs, .refs, .arriving, .pwr] s (execReadAtRelease w id s) := by
  unfold execReadAtRelease
  repeat' first
    | with_reducible exact Keeps.refl
    | with_reducible apply Keeps.step State.finish_keeps
    | with_reducible apply Keeps.step State.enqueue_keeps
    | decide
    | with_reducible apply KeepsO.next
    | split

theorem execUploadDiscard_keeps {w : Wy} {upload : Nat} {s : State} :
    KeepsO [.relief] s (execUploadDiscard w upload s) := by
  unfold execUploadDiscard
  try dsimp only
  repeat' first
    | with_reducible exact Keeps.refl
    | with_reducible apply Keeps.step State.dropUpload_keeps
    | decide
    | with_reducible apply KeepsO.next
    | split

theorem execOutcomeRecordDiscard_keeps {keyspace : BitVec 32} {requestId : BitVec 64} {s : State} :
    KeepsO [.store] s (execOutcomeRecordDiscard keyspace requestId s) := by
  unfold execOutcomeRecordDiscard
  try dsimp only
  repeat' first
    | with_reducible exact Keeps.refl
    | with_reducible apply Keeps.step State.modStore_keeps
    | decide
    | with_reducible apply KeepsO.next

theorem execRequestIdDiscard_keeps {keyspace : BitVec 32} {requestId : BitVec 64} {s : State} :
    KeepsO [.store] s (execRequestIdDiscard keyspace requestId s) := by
  unfold execRequestIdDiscard
  try dsimp only
  repeat' first
    | with_reducible exact Keeps.refl
    | with_reducible apply Keeps.step State.modStore_keeps
    | decide
    | with_reducible apply KeepsO.next

end Sys2Proof.Machine
end

