-- ==== Sys2Proof/Laws/KMortar.lean ====
section
/-! SUPPORT. What each operation of Mortar.lean keeps. -/

-- One lemma after the other: many side by side hold too much memory when the package is one text.
set_option Elab.async false

namespace Sys2Proof.Machine

theorem State.askState_keeps {s : State} {w : Wy} {dst : Nat} {obj : StateObj} :
    Keeps [.mortar, .pcie, .regs] s (State.askState s w dst obj) := by
  unfold State.askState
  repeat' first
    | with_reducible exact Keeps.refl
    | with_reducible apply Keeps.step State.mortarOut_keeps
    | decide

theorem State.fetchState_keeps {s : State} {w : Wy} {dst : Nat} :
    Keeps [.mortar, .pcie, .regs] s (State.fetchState s w dst) := by
  unfold State.fetchState
  repeat' first
    | with_reducible exact Keeps.refl
    | with_reducible apply Keeps.step State.askState_keeps
    | decide

theorem State.mortarAny_keeps {l : List Part} {s t : State} {w : Wy} {h : MHead} {f : State → State}
    (hl : within [.clk] l = true) (hf : ∀ v, Keeps l v (f v)) (k : Keeps l s t) : Keeps l s (t.mortarAny w h f) := by
  unfold State.mortarAny
  repeat' first
    | with_reducible apply Keeps.refl
    | with_reducible assumption
    | with_reducible apply Keeps.app hf
    | (with_reducible refine within_trans ?_ hl; decide)
    | with_reducible apply Keeps.step State.seeHlc_keeps
    | decide
    | split

theorem State.mortarIn_keeps {l : List Part} {s t : State} {w : Wy} {h : MHead} {i : Instr} {f : State → State}
    (hl : within [.clk, .mortar, .pcie, .regs, .heldMortar] l = true) (hf : ∀ v, Keeps l v (f v)) (k : Keeps l s t) :
    Keeps l s (t.mortarIn w h i f) := by
  have hold : ∀ (v : State) (x : List (Nat × Wy × Instr)), Keeps [.heldMortar] v { v with heldMortar := x } := by
    intro v x
    apply Keeps.rec_ .refl
    intro p hp
    cases p <;> first | exact absurd (by decide) hp | exact rfl | exact ⟨rfl, rfl⟩
  have k1 : Keeps l s (t.seeHlc w h.hlc) := State.seeHlc_keeps.step (within_trans (by decide) hl) k
  unfold State.mortarIn
  dsimp only
  split
  · exact k
  · split
    · exact Keeps.app hf k1
    · split
      · refine State.mortarOut_keeps.step (within_trans (by decide) hl) (State.bump_keeps.step (within_trans (by decide) hl) k1)
      · exact State.fetchState_keeps.step (within_trans (by decide) hl) ((hold _ _).step (within_trans (by decide) hl) k1)

theorem execEpochHoldTimeout_keeps {w : Wy} {s : State} :
    KeepsO [.heldMortar] s (execEpochHoldTimeout w s) := by
  unfold execEpochHoldTimeout
  try dsimp only
  repeat' first
    | with_reducible exact Keeps.refl
    | (intro p hp; cases p <;> first | exact absurd (by decide) hp | (dsimp only [Part.same]; done) | (dsimp only [Part.same]; exact ⟨rfl, rfl⟩))
    | decide
    | with_reducible apply KeepsO.next
    | with_reducible apply Keeps.rec_

theorem execUnknownTypeMessage_keeps {w : Wy} {h : MHead} {flow : Nat} {s : State} :
    KeepsO [.clk, .pcie, .regs] s (execUnknownTypeMessage w h flow s) := by
  unfold execUnknownTypeMessage
  try dsimp only
  repeat' first
    | with_reducible exact Keeps.refl
    | with_reducible apply Keeps.step State.sendAck_keeps
    | with_reducible apply State.mortarAny_keeps
    | with_reducible apply Keeps.step State.bump_keeps
    | (intro _; try dsimp only)
    | decide
    | with_reducible apply KeepsO.next
    | split

theorem State.resend_keeps {s : State} {w : Wy} {f : Flow} {l : List Packet} :
    Keeps [.pcie, .regs] s (State.resend s w f l) := by
  unfold State.resend
  try dsimp only
  repeat' first
    | with_reducible exact Keeps.refl
    | with_reducible apply Keeps.step State.used_keeps
    | with_reducible apply Keeps.step State.emitAll_keeps
    | with_reducible apply Keeps.step State.bumpBy_keeps
    | decide

theorem State.fastResend_keeps {s : State} {w : Wy} {b : Nat} {bw : Wy} {n : Nat} :
    Keeps [.mortar, .pcie, .regs] s (State.fastResend s w b bw n) := by
  unfold State.fastResend
  try dsimp only
  repeat' first
    | with_reducible exact Keeps.refl
    | with_reducible apply Keeps.step State.resend_keeps
    | with_reducible apply Keeps.step State.modFlow_keeps
    | decide
    | split

theorem State.dropSealed_keeps {s : State} {w : Wy} {b : Nat} :
    Keeps [.stripes] s (State.dropSealed s w b) := by
  unfold State.dropSealed
  try dsimp only
  repeat' first
    | with_reducible exact Keeps.refl
    | (intro p hp; cases p <;> first | exact absurd (by decide) hp | (dsimp only [Part.same]; done) | (dsimp only [Part.same]; exact ⟨rfl, rfl⟩))
    | decide
    | split
    | with_reducible apply Keeps.rec_

theorem State.takeAck_keeps {s : State} {w : Wy} {peer : Nat} {peerW : Wy} {flow ack sack credit : Nat} {ce resync : Bool} :
    Keeps [.relief, .cip, .codec, .mortar, .pcie, .bpm, .regs, .stripes] s (State.takeAck s w peer peerW flow ack sack credit ce resync) := by
  unfold State.takeAck
  try dsimp only
  repeat' first
    | with_reducible exact Keeps.refl
    | with_reducible apply Keeps.step State.pumpWrites_keeps
    | with_reducible apply Keeps.step State.bump_keeps
    | with_reducible apply Keeps.step State.modMortar_keeps
    | with_reducible apply Keeps.step State.modFlow_keeps
    | with_reducible apply Keeps.step State.fastResend_keeps
    | with_reducible apply Keeps.step State.dropSealed_keeps
    | with_reducible apply Keeps.step State.pushFlow_keeps
    | decide
    | split

theorem execMortarAck_keeps {w : Wy} {peer : Nat} {peerW : Wy} {flow ack sack credit : Nat} {ce resync : Bool} {s : State} :
    KeepsO [.relief, .cip, .codec, .mortar, .pcie, .bpm, .regs, .stripes] s (execMortarAck w peer peerW flow ack sack credit ce resync s) := by
  unfold execMortarAck
  repeat' first
    | with_reducible exact Keeps.refl
    | with_reducible apply Keeps.step State.takeAck_keeps
    | decide
    | with_reducible apply KeepsO.next
    | split

theorem State.breakFlow_keeps {s : State} {w : Wy} {peer : Nat} {peerW : Wy} {flow : Nat} :
    Keeps [.mortar, .pcie, .regs] s (State.breakFlow s w peer peerW flow) := by
  unfold State.breakFlow
  try dsimp only
  repeat' first
    | with_reducible exact Keeps.refl
    | with_reducible apply Keeps.step State.bump_keeps
    | with_reducible apply Keeps.step State.modFlow_keeps
    | with_reducible apply Keeps.step State.event_keeps
    | decide

theorem execRetransmissionTimeout_keeps {w : Wy} {peer : Nat} {peerW : Wy} {flow seq : Nat} {s : State} :
    KeepsO [.mortar, .pcie, .regs] s (execRetransmissionTimeout w peer peerW flow seq s) := by
  unfold execRetransmissionTimeout
  try dsimp only
  repeat' first
    | with_reducible exact Keeps.refl
    | with_reducible apply Keeps.step State.resend_keeps
    | with_reducible apply Keeps.step State.bump_keeps
    | with_reducible apply Keeps.step State.breakFlow_keeps
    | with_reducible apply Keeps.step State.modFlow_keeps
    | decide
    | with_reducible apply KeepsO.next
    | split

theorem execEpochNotice_keeps {w : Wy} {h : MHead} {epoch map bond : Nat} {s : State} :
    KeepsO [.clk, .mortar, .pcie, .regs] s (execEpochNotice w h epoch map bond s) := by
  unfold execEpochNotice
  try dsimp only
  repeat' first
    | with_reducible exact Keeps.refl
    | with_reducible apply State.mortarAny_keeps
    | with_reducible apply Keeps.step State.fetchState_keeps
    | (intro _; try dsimp only)
    | decide
    | with_reducible apply KeepsO.next
    | split

theorem execStateGet_keeps {w : Wy} {h : MHead} {obj : StateObj} {version offset length : Nat} {s : State} :
    KeepsO [.clk, .mortar, .pcie, .regs] s (execStateGet w h obj version offset length s) := by
  unfold execStateGet
  try dsimp only
  repeat' first
    | with_reducible exact Keeps.refl
    | with_reducible apply Keeps.step State.used_keeps
    | with_reducible apply State.mortarAny_keeps
    | with_reducible apply Keeps.step State.mortarOut_keeps
    | (intro _; try dsimp only)
    | decide
    | with_reducible apply KeepsO.next
    | split

end Sys2Proof.Machine
end

