-- ==== Sys2Proof/Laws/KOffers.lean ====
section
/-! SUPPORT. What each operation of Offers.lean keeps. -/

-- One lemma after the other: many side by side hold too much memory when the package is one text.
set_option Elab.async false

namespace Sys2Proof.Machine

theorem State.offerPart_keeps {s : State} {x : ShipRec} {p seq : Nat} :
    Keeps [.mortar, .pcie, .regs] s (State.offerPart s x p seq) := by
  unfold State.offerPart
  try dsimp only
  repeat' first
    | with_reducible exact Keeps.refl
    | with_reducible apply Keeps.step State.drawn_keeps
    | with_reducible apply Keeps.step State.mortarOut_keeps
    | with_reducible apply Keeps.step State.used_keeps
    | decide
    | split

theorem State.offerOpen_keeps {s : State} {p : Nat} :
    Keeps [.mortar, .pcie, .regs] s (State.offerOpen s p) := by
  unfold State.offerOpen
  try dsimp only
  repeat' first
    | with_reducible exact Keeps.refl
    | with_reducible apply Keeps.step State.offerPart_keeps
    | (with_reducible apply Keeps.foldl; intro _ _; try dsimp only)
    | decide

theorem State.offerAll_keeps {s : State} {x : ShipRec} :
    Keeps [.mortar, .pcie, .regs] s (State.offerAll s x) := by
  unfold State.offerAll
  try dsimp only
  repeat' first
    | with_reducible exact Keeps.refl
    | with_reducible apply Keeps.step State.offerPart_keeps
    | (with_reducible apply Keeps.foldl; intro _ _; try dsimp only)
    | decide

end Sys2Proof.Machine
end

