-- ==== Sys2Proof/Laws/KPartitions.lean ====
section
/-! SUPPORT. What each operation of Partitions.lean keeps. -/

-- One lemma after the other: many side by side hold too much memory when the package is one text.
set_option Elab.async false

namespace Sys2Proof.Machine

theorem State.dropVersion_keeps {s : State} {ks : BitVec 32} {key : Bytes} {t : Nat} :
    Keeps [.store] s (State.dropVersion s ks key t) := by
  unfold State.dropVersion
  try dsimp only
  repeat' first
    | with_reducible exact Keeps.refl
    | with_reducible apply Keeps.step State.modStore_keeps
    | decide
    | split

theorem State.trySubs_keeps {s : State} {p : Nat} :
    Keeps [.mortar, .pcie, .regs, .refs] s (State.trySubs s p) := by
  unfold State.trySubs
  try dsimp only
  repeat' first
    | with_reducible exact Keeps.refl
    | with_reducible apply Keeps.step State.addDeltas_keeps
    | with_reducible apply Keeps.step State.modRefs_keeps
    | (with_reducible apply Keeps.foldl; intro _ _; try dsimp only)
    | decide
    | split

theorem State.dropSubbed_keeps {s : State} {p : Nat} :
    Keeps [.store, .refs] s (State.dropSubbed s p) := by
  unfold State.dropSubbed
  try dsimp only
  repeat' first
    | with_reducible exact Keeps.refl
    | with_reducible apply Keeps.step State.modRefs_keeps
    | with_reducible apply Keeps.step State.dropVersion_keeps
    | (with_reducible apply Keeps.foldl; intro _ _; try dsimp only)
    | decide
    | split

theorem State.gcKey_keeps {s : State} {p : Nat} {ks : BitVec 32} {key : Bytes} :
    Keeps [.mortar, .pcie, .regs, .store, .refs] s (State.gcKey s p ks key) := by
  unfold State.gcKey
  try dsimp only
  repeat' first
    | with_reducible exact Keeps.refl
    | with_reducible apply Keeps.step State.dropSubbed_keeps
    | with_reducible apply Keeps.step State.trySubs_keeps
    | with_reducible apply Keeps.step State.modRefs_keeps
    | decide
    | split

theorem State.gcPart_keeps {s : State} {p : Nat} :
    Keeps [.mortar, .pcie, .regs, .store, .refs] s (State.gcPart s p) := by
  unfold State.gcPart
  try dsimp only
  repeat' first
    | with_reducible exact Keeps.refl
    | with_reducible apply Keeps.step State.gcKey_keeps
    | (with_reducible apply Keeps.foldl; intro _ _; try dsimp only)
    | decide

theorem State.gcKeyspace_keeps {s : State} {ks : BitVec 32} :
    Keeps [.mortar, .pcie, .regs, .store, .refs] s (State.gcKeyspace s ks) := by
  unfold State.gcKeyspace
  try dsimp only
  repeat' first
    | with_reducible exact Keeps.refl
    | with_reducible apply Keeps.step State.gcKey_keeps
    | (with_reducible apply Keeps.foldl; intro _ _; try dsimp only)
    | decide

theorem execGarbageSweep_keeps {p : Nat} {s : State} :
    KeepsO [.mortar, .pcie, .regs, .store, .refs] s (execGarbageSweep p s) := by
  unfold execGarbageSweep
  try dsimp only
  repeat' first
    | with_reducible exact Keeps.refl
    | with_reducible apply Keeps.step State.modRefs_keeps
    | with_reducible apply Keeps.step State.gcPart_keeps
    | decide
    | with_reducible apply KeepsO.next
    | split

theorem State.becomeVisible_keeps {s : State} {w : Wy} {k : Commit} :
    Keeps [.relief, .clk, .cip, .codec, .mortar, .pcie, .bpm, .ptp, .regs, .store, .refs, .jobRuns, .arriving, .pwr] s (State.becomeVisible s w k) := by
  unfold State.becomeVisible
  try dsimp only
  repeat' first
    | with_reducible exact Keeps.refl
    | with_reducible apply Keeps.step State.makeVisible_keeps
    | with_reducible apply Keeps.step State.addDeltas_keeps
    | with_reducible apply Keeps.step State.wakeClose_keeps
    | with_reducible apply Keeps.step State.gcKey_keeps
    | (with_reducible apply Keeps.foldl; intro _ _; try dsimp only)
    | decide

theorem State.settleCommit_keeps {s : State} {w : Wy} :
    Keeps [.relief, .clk, .cip, .codec, .mortar, .pcie, .bpm, .ptp, .regs, .store, .refs, .jobRuns, .arriving, .pwr] s (State.settleCommit s w) := by
  unfold State.settleCommit
  try dsimp only
  repeat' first
    | with_reducible exact Keeps.refl
    | with_reducible apply Keeps.step State.becomeVisible_keeps
    | decide
    | split

theorem State.settleCommits_keeps {s : State} {w : Wy} :
    Keeps [.relief, .clk, .cip, .codec, .mortar, .pcie, .bpm, .ptp, .regs, .store, .refs, .jobRuns, .arriving, .pwr] s (State.settleCommits s w) := by
  unfold State.settleCommits
  try dsimp only
  repeat' first
    | with_reducible exact Keeps.refl
    | with_reducible apply Keeps.step State.settleCommit_keeps
    | (with_reducible apply Keeps.foldl; intro _ _; try dsimp only)
    | decide

theorem State.fence_keeps {s : State} {w : Wy} {p : Nat} :
    Keeps [.relief, .mortar, .pcie, .bpm, .regs, .store, .refs, .arriving, .pwr] s (State.fence s w p) := by
  unfold State.fence
  try dsimp only
  repeat' first
    | with_reducible exact Keeps.refl
    | with_reducible apply Keeps.step State.finish_keeps
    | with_reducible apply Keeps.step State.modRelief_keeps
    | with_reducible apply Keeps.step State.modPart_keeps
    | (with_reducible apply Keeps.foldl; intro _ _; try dsimp only)
    | decide
    | split

theorem State.goOn_keeps {s : State} {w : Wy} {c : Cmd} :
    Keeps [.relief, .clk, .cip, .codec, .mortar, .pcie, .bpm, .ptp, .regs, .store, .stripes, .refs, .jobRuns, .arriving, .pwr] s (State.goOn s w c) := by
  unfold State.goOn
  try dsimp only
  repeat' first
    | with_reducible exact Keeps.refl
    | with_reducible apply Keeps.step State.begin__keeps
    | with_reducible apply Keeps.step State.commitStep_keeps
    | with_reducible apply Keeps.step State.modCmd_keeps
    | with_reducible apply Keeps.step State.stepOn_keeps
    | decide
    | split

theorem State.sendAway_keeps {s : State} {w : Wy} {p home cflags : Nat} :
    Keeps [.relief, .cip, .codec, .mortar, .pcie, .bpm, .regs, .refs, .jobRuns, .arriving, .pwr] s (State.sendAway s w p home cflags) := by
  unfold State.sendAway
  try dsimp only
  repeat' first
    | with_reducible exact Keeps.refl
    | with_reducible apply Keeps.step State.finish_keeps
    | with_reducible apply Keeps.step State.endJobs_keeps
    | (with_reducible apply Keeps.foldl; intro _ _; try dsimp only)
    | decide

theorem State.openPart_keeps {s : State} {p : Nat} :
    Keeps [.relief, .clk, .cip, .codec, .mortar, .pcie, .bpm, .ptp, .regs, .store, .stripes, .refs, .jobRuns, .arriving, .pwr] s (State.openPart s p) := by
  unfold State.openPart
  try dsimp only
  repeat' first
    | with_reducible exact Keeps.refl
    | with_reducible apply Keeps.step State.offerOpen_keeps
    | with_reducible apply Keeps.step State.goOn_keeps
    | with_reducible apply Keeps.step State.sendAway_keeps
    | with_reducible apply Keeps.step State.modStore_keeps
    | with_reducible apply Keeps.step State.modPart_keeps
    | (with_reducible apply Keeps.foldl; intro _ _; try dsimp only)
    | decide

theorem State.openReady_keeps {s : State} {p : Nat} :
    Keeps [.relief, .clk, .cip, .codec, .mortar, .pcie, .bpm, .ptp, .regs, .store, .stripes, .refs, .jobRuns, .arriving, .pwr] s (State.openReady s p) := by
  unfold State.openReady
  try dsimp only
  repeat' first
    | with_reducible exact Keeps.refl
    | with_reducible apply Keeps.step State.openPart_keeps
    | decide
    | split

theorem State.openAfterCasts_keeps {s : State} :
    Keeps [.relief, .clk, .cip, .codec, .mortar, .pcie, .bpm, .ptp, .regs, .store, .stripes, .refs, .jobRuns, .arriving, .pwr] s (State.openAfterCasts s) := by
  unfold State.openAfterCasts
  try dsimp only
  repeat' first
    | with_reducible exact Keeps.refl
    | with_reducible apply Keeps.step State.openReady_keeps
    | with_reducible apply Keeps.step State.modPart_keeps
    | (with_reducible apply Keeps.foldl; intro _ _; try dsimp only)
    | decide

theorem State.adoptedAck_keeps {s : State} {p b version : Nat} :
    Keeps [.relief, .clk, .cip, .codec, .mortar, .pcie, .bpm, .ptp, .regs, .store, .stripes, .refs, .jobRuns, .arriving, .pwr] s (State.adoptedAck s p b version) := by
  unfold State.adoptedAck
  try dsimp only
  repeat' first
    | with_reducible exact Keeps.refl
    | with_reducible apply Keeps.step State.openReady_keeps
    | with_reducible apply Keeps.step State.modPart_keeps
    | decide
    | split

theorem State.stagedWhole_keeps {s : State} {x : StagedRec} :
    Keeps [.mortar, .pcie, .regs, .refs] s (State.stagedWhole s x) := by
  unfold State.stagedWhole
  try dsimp only
  repeat' first
    | with_reducible exact Keeps.refl
    | with_reducible apply Keeps.step State.modRefs_keeps
    | with_reducible apply Keeps.step State.answerQueries_keeps
    | with_reducible apply Keeps.step State.toArmature_keeps
    | with_reducible apply Keeps.step State.mortarOut_keeps
    | with_reducible apply Keeps.step State.addDeltas_keeps
    | decide

theorem State.stagedPlaced_keeps {s : State} {p b version : Nat} :
    Keeps [.mortar, .pcie, .regs, .refs] s (State.stagedPlaced s p b version) := by
  unfold State.stagedPlaced
  try dsimp only
  repeat' first
    | with_reducible exact Keeps.refl
    | with_reducible apply Keeps.step State.modRefs_keeps
    | with_reducible apply Keeps.step State.stagedWhole_keeps
    | decide
    | split

theorem State.otherPlaced_keeps {s : State} {p b version : Nat} :
    Keeps [.relief, .clk, .cip, .codec, .mortar, .pcie, .bpm, .ptp, .regs, .store, .stripes, .refs, .jobRuns, .arriving, .pwr] s (State.otherPlaced s p b version) := by
  unfold State.otherPlaced
  repeat' first
    | with_reducible exact Keeps.refl
    | with_reducible apply Keeps.step State.stagedPlaced_keeps
    | with_reducible apply Keeps.step State.adoptedAck_keeps
    | decide

theorem State.adoptStaged_keeps {s : State} {p : Nat} {r : IdxRec} {t : StagedTag} :
    Keeps [.mortar, .pcie, .regs, .refs] s (State.adoptStaged s p r t) := by
  unfold State.adoptStaged
  try dsimp only
  repeat' first
    | with_reducible exact Keeps.refl
    | with_reducible apply Keeps.step State.toArmature_keeps
    | with_reducible apply Keeps.step State.mortarOut_keeps
    | with_reducible apply Keeps.step State.modRefs_keeps
    | decide
    | split

theorem State.doIndexAck_keeps {s : State} {w : Wy} {src p epoch version : Nat} {placed : Bool} :
    Keeps [.relief, .clk, .cip, .codec, .mortar, .pcie, .bpm, .ptp, .regs, .store, .stripes, .refs, .jobRuns, .arriving, .pwr] s (State.doIndexAck s w src p epoch version placed) := by
  unfold State.doIndexAck
  try dsimp only
  repeat' first
    | with_reducible exact Keeps.refl
    | with_reducible apply Keeps.step State.otherPlaced_keeps
    | with_reducible apply Keeps.step State.settleCommits_keeps
    | with_reducible apply Keeps.step State.fence_keeps
    | with_reducible apply Keeps.step State.modRelief_keeps
    | decide
    | split

theorem execIndexAck_keeps {w : Wy} {h : MHead} {p epoch version : Nat} {placed : Bool} {s : State} :
    KeepsO [.relief, .clk, .cip, .codec, .mortar, .pcie, .bpm, .ptp, .regs, .store, .stripes, .refs, .heldMortar, .jobRuns, .arriving, .pwr] s (execIndexAck w h p epoch version placed s) := by
  unfold execIndexAck
  try dsimp only
  repeat' first
    | with_reducible exact Keeps.refl
    | with_reducible apply Keeps.step State.doIndexAck_keeps
    | with_reducible apply State.mortarIn_keeps
    | (intro _; try dsimp only)
    | decide
    | with_reducible apply KeepsO.next

theorem State.noteClosed_keeps {s : State} {p closed : Nat} :
    Keeps [.store] s (State.noteClosed s p closed) := by
  unfold State.noteClosed
  try dsimp only
  repeat' first
    | with_reducible exact Keeps.refl
    | with_reducible apply Keeps.step State.modStore_keeps
    | decide

theorem State.doIndexPut_keeps {s : State} {w : Wy} {h : MHead} {p epoch closed : Nat} {r : IdxRec} :
    Keeps [.mortar, .pcie, .regs, .store] s (State.doIndexPut s w h p epoch closed r) := by
  unfold State.doIndexPut
  repeat' first
    | with_reducible exact Keeps.refl
    | with_reducible apply Keeps.step State.mortarOut_keeps
    | with_reducible apply Keeps.step State.storeRec_keeps
    | with_reducible apply Keeps.step State.noteClosed_keeps
    | decide
    | split

theorem execIndexPut_keeps {w : Wy} {h : MHead} {p epoch closed : Nat} {r : IdxRec} {s : State} :
    KeepsO [.clk, .mortar, .pcie, .regs, .store, .heldMortar] s (execIndexPut w h p epoch closed r s) := by
  unfold execIndexPut
  try dsimp only
  repeat' first
    | with_reducible exact Keeps.refl
    | with_reducible apply Keeps.step State.doIndexPut_keeps
    | with_reducible apply State.mortarIn_keeps
    | (intro _; try dsimp only)
    | decide
    | with_reducible apply KeepsO.next

theorem State.doClosedTime_keeps {s : State} {p epoch closed : Nat} :
    Keeps [.store] s (State.doClosedTime s p epoch closed) := by
  unfold State.doClosedTime
  repeat' first
    | with_reducible exact Keeps.refl
    | with_reducible apply Keeps.step State.noteClosed_keeps
    | decide
    | split

theorem execClosedTime_keeps {w : Wy} {h : MHead} {p epoch closed : Nat} {s : State} :
    KeepsO [.clk, .mortar, .pcie, .regs, .store, .heldMortar] s (execClosedTime w h p epoch closed s) := by
  unfold execClosedTime
  try dsimp only
  repeat' first
    | with_reducible exact Keeps.refl
    | with_reducible apply Keeps.step State.doClosedTime_keeps
    | with_reducible apply State.mortarIn_keeps
    | (intro _; try dsimp only)
    | decide
    | with_reducible apply KeepsO.next

theorem State.adoptWritten_keeps {s : State} {r : IdxRec} :
    Keeps [.store] s (State.adoptWritten s r) := by
  unfold State.adoptWritten
  try dsimp only
  repeat' first
    | with_reducible exact Keeps.refl
    | with_reducible apply Keeps.step State.modStore_keeps
    | with_reducible apply Keeps.step State.recordOutcome_keeps
    | (with_reducible apply Keeps.foldl; intro _ _; try dsimp only)
    | decide
    | split

theorem State.adoptRec_keeps {s : State} {p : Nat} {r : IdxRec} :
    Keeps [.mortar, .pcie, .regs, .store, .refs] s (State.adoptRec s p r) := by
  unfold State.adoptRec
  try dsimp only
  repeat' first
    | with_reducible exact Keeps.refl
    | with_reducible apply Keeps.step State.adoptWritten_keeps
    | with_reducible apply Keeps.step State.adoptStaged_keeps
    | with_reducible apply Keeps.step State.modStore_keeps
    | (with_reducible apply Keeps.foldl; intro _ _; try dsimp only)
    | decide
    | split

theorem State.adopt_keeps {s : State} {p : Nat} :
    Keeps [.relief, .clk, .cip, .codec, .mortar, .pcie, .bpm, .ptp, .regs, .store, .stripes, .refs, .jobRuns, .arriving, .pwr] s (State.adopt s p) := by
  unfold State.adopt
  try dsimp only
  repeat' first
    | with_reducible exact Keeps.refl
    | with_reducible apply Keeps.step State.openReady_keeps
    | with_reducible apply Keeps.step State.modClk_keeps
    | with_reducible apply Keeps.step State.toPart_keeps
    | with_reducible apply Keeps.step State.storeRec_keeps
    | with_reducible apply Keeps.step State.modPart_keeps
    | with_reducible apply Keeps.step State.adoptRec_keeps
    | (with_reducible apply Keeps.foldl; intro _ _; try dsimp only)
    | decide
    | split

theorem State.doPartCollect_keeps {s : State} {w : Wy} {h : MHead} {p epoch : Nat} :
    Keeps [.mortar, .pcie, .regs, .store] s (State.doPartCollect s w h p epoch) := by
  unfold State.doPartCollect
  try dsimp only
  repeat' first
    | with_reducible exact Keeps.refl
    | with_reducible apply Keeps.step State.mortarOut_keeps
    | with_reducible apply Keeps.step State.modStore_keeps
    | decide

theorem execPartCollect_keeps {w : Wy} {h : MHead} {p epoch : Nat} {s : State} :
    KeepsO [.clk, .mortar, .pcie, .regs, .store, .heldMortar] s (execPartCollect w h p epoch s) := by
  unfold execPartCollect
  try dsimp only
  repeat' first
    | with_reducible exact Keeps.refl
    | with_reducible apply State.mortarIn_keeps
    | with_reducible apply Keeps.step State.doPartCollect_keeps
    | (intro _; try dsimp only)
    | decide
    | with_reducible apply KeepsO.next

theorem State.regain_keeps {s : State} {p : Nat} {recs : List IdxRec} :
    Keeps [.mortar, .pcie, .regs, .store, .refs] s (State.regain s p recs) := by
  unfold State.regain
  try dsimp only
  repeat' first
    | with_reducible exact Keeps.refl
    | with_reducible apply Keeps.step State.storeRec_keeps
    | with_reducible apply Keeps.step State.adoptRec_keeps
    | (with_reducible apply Keeps.foldl; intro _ _; try dsimp only)
    | decide

theorem State.doPartRecords_keeps {s : State} {src p closed : Nat} {recs : List IdxRec} :
    Keeps [.relief, .clk, .cip, .codec, .mortar, .pcie, .bpm, .ptp, .regs, .store, .stripes, .refs, .jobRuns, .arriving, .pwr] s (State.doPartRecords s src p closed recs) := by
  unfold State.doPartRecords
  try dsimp only
  repeat' first
    | with_reducible exact Keeps.refl
    | with_reducible apply Keeps.step State.regain_keeps
    | with_reducible apply Keeps.step State.adopt_keeps
    | with_reducible apply Keeps.step State.modPart_keeps
    | decide
    | split

theorem execPartRecords_keeps {w : Wy} {h : MHead} {p epoch closed : Nat} {recs : List IdxRec} {s : State} :
    KeepsO [.relief, .clk, .cip, .codec, .mortar, .pcie, .bpm, .ptp, .regs, .store, .stripes, .refs, .heldMortar, .jobRuns, .arriving, .pwr] s (execPartRecords w h p epoch closed recs s) := by
  unfold execPartRecords
  try dsimp only
  repeat' first
    | with_reducible exact Keeps.refl
    | with_reducible apply Keeps.step State.doPartRecords_keeps
    | with_reducible apply State.mortarIn_keeps
    | (intro _; try dsimp only)
    | decide
    | with_reducible apply KeepsO.next

theorem State.doPartHandover_keeps {s : State} {p hlc closed : Nat} :
    Keeps [.clk, .store] s (State.doPartHandover s p hlc closed) := by
  unfold State.doPartHandover
  try dsimp only
  repeat' first
    | with_reducible exact Keeps.refl
    | with_reducible apply Keeps.step State.modClk_keeps
    | with_reducible apply Keeps.step State.modPart_keeps
    | with_reducible apply Keeps.step State.noteClosed_keeps
    | decide

theorem execPartHandover_keeps {w : Wy} {h : MHead} {p epoch hlc closed : Nat} {s : State} :
    KeepsO [.clk, .mortar, .pcie, .regs, .store, .heldMortar] s (execPartHandover w h p epoch hlc closed s) := by
  unfold execPartHandover
  try dsimp only
  repeat' first
    | with_reducible exact Keeps.refl
    | with_reducible apply Keeps.step State.doPartHandover_keeps
    | with_reducible apply State.mortarIn_keeps
    | (intro _; try dsimp only)
    | decide
    | with_reducible apply KeepsO.next

theorem State.takeHome_keeps {s : State} {p : Nat} {e : PartEntry} {first : Bool} :
    Keeps [.relief, .clk, .cip, .codec, .mortar, .pcie, .bpm, .ptp, .regs, .store, .stripes, .refs, .jobRuns, .arriving, .pwr] s (State.takeHome s p e first) := by
  unfold State.takeHome
  try dsimp only
  repeat' first
    | with_reducible exact Keeps.refl
    | with_reducible apply Keeps.step State.askState_keeps
    | with_reducible apply Keeps.step State.toPart_keeps
    | with_reducible apply Keeps.step State.modStore_keeps
    | with_reducible apply Keeps.step State.openPart_keeps
    | with_reducible apply Keeps.step State.adopt_keeps
    | (with_reducible apply Keeps.foldl; intro _ _; try dsimp only)
    | decide
    | split

theorem State.keepHome_keeps {s : State} {p : Nat} {e : PartEntry} {x : PartSt} :
    Keeps [.relief, .clk, .cip, .codec, .mortar, .pcie, .bpm, .ptp, .regs, .store, .stripes, .refs, .jobRuns, .arriving, .pwr] s (State.keepHome s p e x) := by
  unfold State.keepHome
  try dsimp only
  repeat' first
    | with_reducible exact Keeps.refl
    | with_reducible apply Keeps.step State.storeCommit_keeps
    | with_reducible apply Keeps.step State.takeHome_keeps
    | with_reducible apply Keeps.step State.sendIndex_keeps
    | with_reducible apply Keeps.step State.modRelief_keeps
    | with_reducible apply Keeps.step State.modPart_keeps
    | (with_reducible apply Keeps.foldl; intro _ _; try dsimp only)
    | decide
    | split

theorem State.onMap_keeps {s : State} {first : Bool} :
    Keeps [.relief, .clk, .cip, .codec, .mortar, .pcie, .bpm, .ptp, .regs, .store, .stripes, .refs, .jobRuns, .arriving, .pwr] s (State.onMap s first) := by
  unfold State.onMap
  try dsimp only
  repeat' first
    | with_reducible exact Keeps.refl
    | with_reducible apply Keeps.step State.sendAway_keeps
    | with_reducible apply Keeps.step State.keepHome_keeps
    | with_reducible apply Keeps.step State.modStore_keeps
    | with_reducible apply Keeps.step State.takeHome_keeps
    | (with_reducible apply Keeps.foldl; intro _ _; try dsimp only)
    | decide
    | split

theorem State.startMoves_keeps {s : State} {w : Wy} :
    Keeps [.store] s (State.startMoves s w) := by
  unfold State.startMoves
  try dsimp only
  repeat' first
    | with_reducible exact Keeps.refl
    | with_reducible apply Keeps.step State.modPart_keeps
    | (with_reducible apply Keeps.foldl; intro _ _; try dsimp only)
    | decide

theorem State.endMove_keeps {s : State} {p : Nat} :
    Keeps [.relief, .cip, .codec, .mortar, .pcie, .bpm, .regs, .store, .refs, .jobRuns, .arriving, .pwr] s (State.endMove s p) := by
  unfold State.endMove
  try dsimp only
  repeat' first
    | with_reducible exact Keeps.refl
    | with_reducible apply Keeps.step State.sendAway_keeps
    | with_reducible apply Keeps.step State.toPart_keeps
    | with_reducible apply Keeps.step State.startMoves_keeps
    | with_reducible apply Keeps.step State.modPart_keeps
    | decide
    | split

theorem execClosedTimePublish_keeps {w : Wy} {s : State} :
    KeepsO [.clk, .mortar, .pcie, .regs, .store] s (execClosedTimePublish w s) := by
  unfold execClosedTimePublish
  try dsimp only
  repeat' first
    | with_reducible exact Keeps.refl
    | with_reducible apply Keeps.step State.modClk_keeps
    | with_reducible apply Keeps.step State.toPart_keeps
    | with_reducible apply Keeps.step State.modPart_keeps
    | (with_reducible apply Keeps.foldl; intro _ _; try dsimp only)
    | decide
    | with_reducible apply KeepsO.next

theorem State.servo_keeps {s : State} {w : Wy} :
    Keeps [.clk] s (State.servo s w) := by
  unfold State.servo
  try dsimp only
  repeat' first
    | with_reducible exact Keeps.refl
    | with_reducible apply Keeps.step State.modClk_keeps
    | decide
    | split

theorem execOutOfSync_keeps {w : Wy} {s : State} :
    KeepsO [.clk, .pcie, .regs, .store, .arriving] s (execOutOfSync w s) := by
  unfold execOutOfSync
  try dsimp only
  repeat' first
    | with_reducible exact Keeps.refl
    | with_reducible apply Keeps.step State.modClk_keeps
    | with_reducible apply Keeps.step State.record_keeps
    | with_reducible apply Keeps.step State.servo_keeps
    | with_reducible apply Keeps.step State.startMoves_keeps
    | with_reducible apply Keeps.step State.event_keeps
    | decide
    | with_reducible apply KeepsO.next
    | split

theorem execInSyncReturn_keeps {w : Wy} {s : State} :
    KeepsO [.clk] s (execInSyncReturn w s) := by
  unfold execInSyncReturn
  try dsimp only
  repeat' first
    | with_reducible exact Keeps.refl
    | with_reducible apply Keeps.step State.modClk_keeps
    | with_reducible apply Keeps.step State.servo_keeps
    | decide
    | with_reducible apply KeepsO.next
    | split

theorem execLeaseLapse_keeps {w : Wy} {s : State} :
    KeepsO [.pcie, .regs] s (execLeaseLapse w s) := by
  unfold execLeaseLapse
  repeat' first
    | with_reducible exact Keeps.refl
    | with_reducible apply Keeps.step State.event_keeps
    | decide
    | with_reducible apply KeepsO.next
    | split

theorem execDrainAt_keeps {w : Wy} {s : State} :
    KeepsO [.relief, .store] s (execDrainAt w s) := by
  unfold execDrainAt
  try dsimp only
  repeat' first
    | with_reducible exact Keeps.refl
    | with_reducible apply Keeps.step State.startMoves_keeps
    | with_reducible apply Keeps.step State.modRelief_keeps
    | decide
    | with_reducible apply KeepsO.next
    | split

theorem State.doCastAnnounce_keeps {s : State} {w : Wy} {h : MHead} {id : Nat} {ks : BitVec 32} {t : Nat} :
    Keeps [.mortar, .pcie, .regs, .store] s (State.doCastAnnounce s w h id ks t) := by
  unfold State.doCastAnnounce
  try dsimp only
  repeat' first
    | with_reducible exact Keeps.refl
    | with_reducible apply Keeps.step State.mortarOut_keeps
    | with_reducible apply Keeps.step State.modStore_keeps
    | decide
    | split

theorem execCastAnnounce_keeps {w : Wy} {h : MHead} {id : Nat} {keyspace : BitVec 32} {t : Nat} {s : State} :
    KeepsO [.clk, .mortar, .pcie, .regs, .store, .heldMortar] s (execCastAnnounce w h id keyspace t s) := by
  unfold execCastAnnounce
  try dsimp only
  repeat' first
    | with_reducible exact Keeps.refl
    | with_reducible apply Keeps.step State.doCastAnnounce_keeps
    | with_reducible apply State.mortarIn_keeps
    | (intro _; try dsimp only)
    | decide
    | with_reducible apply KeepsO.next

theorem State.endCast_keeps {s : State} {w : Wy} {c : Cmd} {id : Nat} {status : Status} {t : Nat} :
    Keeps [.relief, .mortar, .pcie, .bpm, .regs, .store, .refs, .arriving, .pwr] s (State.endCast s w c id status t) := by
  unfold State.endCast
  try dsimp only
  repeat' first
    | with_reducible exact Keeps.refl
    | with_reducible apply Keeps.step State.finish_keeps
    | with_reducible apply Keeps.step State.modStore_keeps
    | decide
    | split

theorem State.doCastDone_keeps {s : State} {id : Nat} {status : Status} {t : Nat} {rid : BitVec 64} :
    Keeps [.relief, .mortar, .pcie, .bpm, .regs, .store, .refs, .arriving, .pwr] s (State.doCastDone s id status t rid) := by
  unfold State.doCastDone
  try dsimp only
  repeat' first
    | with_reducible exact Keeps.refl
    | with_reducible apply Keeps.step State.endCast_keeps
    | (with_reducible apply Keeps.foldl; intro _ _; try dsimp only)
    | decide
    | split

theorem execCastDone_keeps {w : Wy} {h : MHead} {id : Nat} {status : Status} {t : Nat} {requestId : BitVec 64} {s : State} :
    KeepsO [.relief, .clk, .mortar, .pcie, .bpm, .regs, .store, .refs, .heldMortar, .arriving, .pwr] s (execCastDone w h id status t requestId s) := by
  unfold execCastDone
  try dsimp only
  repeat' first
    | with_reducible exact Keeps.refl
    | with_reducible apply Keeps.step State.doCastDone_keeps
    | with_reducible apply State.mortarIn_keeps
    | (intro _; try dsimp only)
    | decide
    | with_reducible apply KeepsO.next

end Sys2Proof.Machine
end

