-- ==== Sys2Proof/Laws/KIngest.lean ====
section
/-! SUPPORT. What each operation of Ingest.lean keeps. -/

-- One lemma after the other: many side by side hold too much memory when the package is one text.
set_option Elab.async false

namespace Sys2Proof.Machine

theorem State.takeBatch_keeps {s : State} {w : Wy} {c : Cmd} {d : Bytes} :
    Keeps [.relief, .clk, .cip, .codec, .mortar, .pcie, .bpm, .ptp, .regs, .store, .stripes, .refs, .jobRuns, .arriving, .pwr] s (State.takeBatch s w c d) := by
  unfold State.takeBatch
  try dsimp only
  repeat' first
    | with_reducible exact Keeps.refl
    | with_reducible apply Keeps.step State.startOps_keeps
    | with_reducible apply Keeps.step State.used_keeps
    | with_reducible apply Keeps.step State.finish_keeps
    | (with_reducible apply Keeps.foldl; intro _ _; try dsimp only)
    | decide
    | split

theorem State.payloadCame_keeps {s : State} {w : Wy} {c : Cmd} {n : Nat} {data : Bytes} :
    Keeps [.relief, .clk, .cip, .codec, .mortar, .pcie, .bpm, .ptp, .regs, .store, .stripes, .refs, .jobRuns, .arriving, .pwr] s (State.payloadCame s w c n data) := by
  unfold State.payloadCame
  try dsimp only
  repeat' first
    | with_reducible exact Keeps.refl
    | with_reducible apply Keeps.step State.pullMore_keeps
    | with_reducible apply Keeps.step State.advanceOp_keeps
    | with_reducible apply Keeps.step State.takeBatch_keeps
    | with_reducible apply Keeps.step State.modOp_keeps
    | decide
    | split

theorem execPayloadPullDone_keeps {w : Wy} {id entry : Nat} {data : Bytes} {s : State} :
    KeepsO [.relief, .clk, .cip, .codec, .mortar, .pcie, .bpm, .ptp, .pairs, .regs, .store, .stripes, .refs, .jobRuns, .arriving, .pwr] s (execPayloadPullDone w id entry data s) := by
  unfold execPayloadPullDone
  try dsimp only
  repeat' first
    | with_reducible exact Keeps.refl
    | with_reducible apply Keeps.step State.modQueue_keeps
    | with_reducible apply Keeps.step State.modRelief_keeps
    | with_reducible apply Keeps.step State.sendAcks_keeps
    | with_reducible apply Keeps.step State.payloadCame_keeps
    | decide
    | with_reducible apply KeepsO.next
    | split

theorem execChunkCut_keeps {w : Wy} {id entry : Nat} {s : State} :
    KeepsO [.relief, .cip, .codec, .mortar, .pcie, .bpm, .regs, .stripes, .refs, .jobRuns, .arriving, .pwr] s (execChunkCut w id entry s) := by
  unfold execChunkCut
  try dsimp only
  repeat' first
    | with_reducible exact Keeps.refl
    | with_reducible apply Keeps.step State.endCodec_keeps
    | with_reducible apply Keeps.step State.advanceOp_keeps
    | with_reducible apply Keeps.step State.pumpChunk_keeps
    | with_reducible apply Keeps.step State.modOp_keeps
    | with_reducible apply Keeps.step State.modCmd_keeps
    | decide
    | with_reducible apply KeepsO.next
    | split

theorem execCompressJobEnd_keeps {w : Wy} {id chunk : Nat} {out : Bytes} {s : State} :
    KeepsO [.relief, .cip, .codec, .pcie, .regs, .jobRuns] s (execCompressJobEnd w id chunk out s) := by
  unfold execCompressJobEnd
  try dsimp only
  repeat' first
    | with_reducible exact Keeps.refl
    | with_reducible apply Keeps.step State.endCodec_keeps
    | with_reducible apply Keeps.step State.packed_keeps
    | decide
    | with_reducible apply KeepsO.next
    | split

theorem State.stagedDone_keeps {s : State} {w : Wy} {x : StagedRec} :
    Keeps [.mortar, .pcie, .regs, .store, .refs] s (State.stagedDone s w x) := by
  unfold State.stagedDone
  try dsimp only
  repeat' first
    | with_reducible exact Keeps.refl
    | with_reducible apply Keeps.step State.stagedWhole_keeps
    | with_reducible apply Keeps.step State.storeRec_keeps
    | with_reducible apply Keeps.step State.toPart_keeps
    | with_reducible apply Keeps.step State.modRefs_keeps
    | (with_reducible apply Keeps.foldl; intro _ _; try dsimp only)
    | decide
    | split

theorem State.stagedAck_keeps {s : State} {w : Wy} {p : Nat} {res : AckResult} {rid : BitVec 64} {chunk : Nat} {place : Place} :
    Keeps [.mortar, .pcie, .regs, .store, .refs] s (State.stagedAck s w p res rid chunk place) := by
  unfold State.stagedAck
  try dsimp only
  repeat' first
    | with_reducible exact Keeps.refl
    | with_reducible apply Keeps.step State.stagedDone_keeps
    | with_reducible apply Keeps.step State.modRefs_keeps
    | decide
    | split

theorem State.doChunkAck_keeps {s : State} {w : Wy} {h : MHead} {p : Nat} {res : AckResult} {rid : BitVec 64} {chunk : Nat} {place : Place} :
    Keeps [.relief, .clk, .cip, .codec, .mortar, .pcie, .bpm, .ptp, .regs, .store, .stripes, .refs, .jobRuns, .arriving, .pwr] s (State.doChunkAck s w h p res rid chunk place) := by
  unfold State.doChunkAck
  try dsimp only
  repeat' first
    | with_reducible exact Keeps.refl
    | with_reducible apply Keeps.step State.pumpWrites_keeps
    | with_reducible apply Keeps.step State.freeChunk_keeps
    | with_reducible apply Keeps.step State.finish_keeps
    | with_reducible apply Keeps.step State.fetchState_keeps
    | with_reducible apply Keeps.step State.sendChunk_keeps
    | with_reducible apply Keeps.step State.stepOn_keeps
    | with_reducible apply Keeps.step State.modWChunk_keeps
    | with_reducible apply Keeps.step State.endJobs_keeps
    | with_reducible apply Keeps.step State.stagedAck_keeps
    | decide
    | split

theorem execChunkAck_keeps {w : Wy} {h : MHead} {group p : Nat} {res : AckResult} {requestId : BitVec 64} {chunk : Nat} {place : Place} {s : State} :
    KeepsO [.relief, .clk, .cip, .codec, .mortar, .pcie, .bpm, .ptp, .regs, .store, .stripes, .refs, .heldMortar, .jobRuns, .arriving, .pwr] s (execChunkAck w h group p res requestId chunk place s) := by
  unfold execChunkAck
  try dsimp only
  repeat' first
    | with_reducible exact Keeps.refl
    | with_reducible apply Keeps.step State.wakeClose_keeps
    | with_reducible apply Keeps.step State.doChunkAck_keeps
    | with_reducible apply State.mortarAny_keeps
    | with_reducible apply State.mortarIn_keeps
    | (intro _; try dsimp only)
    | decide
    | with_reducible apply KeepsO.next
    | split

theorem execChunkResend_keeps {w : Wy} {id chunk : Nat} {s : State} :
    KeepsO [.relief, .mortar, .pcie, .regs] s (execChunkResend w id chunk s) := by
  unfold execChunkResend
  repeat' first
    | with_reducible exact Keeps.refl
    | with_reducible apply Keeps.step State.sendChunk_keeps
    | decide
    | with_reducible apply KeepsO.next
    | split

theorem execChunkAckTimeout_keeps {w : Wy} {id chunk : Nat} {s : State} :
    KeepsO [.relief, .clk, .cip, .codec, .mortar, .pcie, .bpm, .ptp, .regs, .store, .refs, .jobRuns, .arriving, .pwr] s (execChunkAckTimeout w id chunk s) := by
  unfold execChunkAckTimeout
  repeat' first
    | with_reducible exact Keeps.refl
    | with_reducible apply Keeps.step State.wakeClose_keeps
    | with_reducible apply Keeps.step State.finish_keeps
    | with_reducible apply Keeps.step State.endJobs_keeps
    | decide
    | with_reducible apply KeepsO.next
    | split

theorem execFetchTimeout_keeps {w : Wy} {id chunk : Nat} {s : State} :
    KeepsO [.relief, .cip, .codec, .mortar, .pcie, .bpm, .regs, .refs, .jobRuns, .arriving, .pwr] s (execFetchTimeout w id chunk s) := by
  unfold execFetchTimeout
  try dsimp only
  repeat' first
    | with_reducible exact Keeps.refl
    | with_reducible apply Keeps.step State.missRange_keeps
    | (with_reducible apply Keeps.foldl; intro _ _; try dsimp only)
    | decide
    | with_reducible apply KeepsO.next
    | split

theorem State.rangeToRead_keeps {s : State} {w : Wy} {src f off : Nat} {st : RStatus} {holder cookie : Nat} {bytes : Bytes} :
    Keeps [.relief, .cip, .codec, .mortar, .pcie, .bpm, .regs, .stripes, .refs, .jobRuns, .arriving, .pwr] s (State.rangeToRead s w src f off st holder cookie bytes) := by
  unfold State.rangeToRead
  try dsimp only
  repeat' first
    | with_reducible exact Keeps.refl
    | with_reducible apply Keeps.step State.gotRange_keeps
    | with_reducible apply Keeps.step State.missRange_keeps
    | decide
    | split

theorem State.repairData_keeps {s : State} {src n f off : Nat} {st : RStatus} {holder : Nat} {bytes : Bytes} :
    Keeps [.relief, .cip, .codec, .mortar, .pcie, .bpm, .regs, .stripes, .refs, .jobRuns, .arriving, .pwr] s (State.repairData s src n f off st holder bytes) := by
  unfold State.repairData
  try dsimp only
  repeat' first
    | with_reducible exact Keeps.refl
    | with_reducible apply Keeps.step State.modRepair_keeps
    | with_reducible apply Keeps.step State.sendRange_keeps
    | with_reducible apply Keeps.step State.pumpRepair_keeps
    | with_reducible apply Keeps.step State.galois_keeps
    | with_reducible apply Keeps.step State.failRepair_keeps
    | with_reducible apply Keeps.step State.queueOpen_keeps
    | decide
    | split

theorem State.repairChecked_keeps {s : State} {n : Nat} {ok : Bool} :
    Keeps [.relief, .cip, .codec, .mortar, .pcie, .bpm, .regs, .stripes, .refs, .jobRuns, .arriving, .pwr] s (State.repairChecked s n ok) := by
  unfold State.repairChecked
  try dsimp only
  repeat' first
    | with_reducible exact Keeps.refl
    | with_reducible apply Keeps.step State.failRepair_keeps
    | with_reducible apply Keeps.step State.modRepair_keeps
    | with_reducible apply Keeps.step State.recordIn_keeps
    | with_reducible apply Keeps.step State.mortarOut_keeps
    | (with_reducible apply Keeps.foldl; intro _ _; try dsimp only)
    | decide
    | split

theorem State.shipEnd_keeps {s : State} {n : Nat} {ok : Bool} {out : Bytes} :
    Keeps [.relief, .cip, .codec, .mortar, .pcie, .bpm, .regs, .stripes, .refs, .jobRuns, .arriving, .pwr] s (State.shipEnd s n ok out) := by
  unfold State.shipEnd
  try dsimp only
  repeat' first
    | with_reducible exact Keeps.refl
    | with_reducible apply Keeps.step State.drawn_keeps
    | with_reducible apply Keeps.step State.startRepair_keeps
    | with_reducible apply Keeps.step State.mortarOut_keeps
    | (intro p hp; cases p <;> first | exact absurd (by decide) hp | (dsimp only [Part.same]; done) | (dsimp only [Part.same]; exact ⟨rfl, rfl⟩))
    | decide
    | split
    | with_reducible apply Keeps.rec_

theorem State.modLand_keeps {s : State} {n : Nat} {f : LandRec → LandRec} :
    Keeps [.refs] s (State.modLand s n f) := by
  unfold State.modLand
  try dsimp only
  repeat' first
    | with_reducible exact Keeps.refl
    | with_reducible apply Keeps.step State.modRefs_keeps
    | decide

theorem State.sendLand_keeps {s : State} {x : LandRec} :
    Keeps [.mortar, .pcie, .regs, .refs] s (State.sendLand s x) := by
  unfold State.sendLand
  try dsimp only
  repeat' first
    | with_reducible exact Keeps.refl
    | with_reducible apply Keeps.step State.modLand_keeps
    | with_reducible apply Keeps.step State.mortarOut_keeps
    | with_reducible apply Keeps.step State.modMortar_keeps
    | decide
    | split

theorem State.landEnd_keeps {s : State} {n : Nat} {ok : Bool} {ver : Nat} {iv out tag : Bytes} :
    Keeps [.mortar, .pcie, .regs, .store, .refs] s (State.landEnd s n ok ver iv out tag) := by
  unfold State.landEnd
  try dsimp only
  repeat' first
    | with_reducible exact Keeps.refl
    | with_reducible apply Keeps.step State.modRefs_keeps
    | with_reducible apply Keeps.step State.stagedDone_keeps
    | with_reducible apply Keeps.step State.sendLand_keeps
    | with_reducible apply Keeps.step State.modLand_keeps
    | decide
    | split

theorem State.chunkRead_keeps {s : State} {w : Wy} {c : Cmd} {n : Nat} {x : RChunk} {data : Bytes} :
    Keeps [.relief, .cip, .codec, .mortar, .pcie, .bpm, .regs, .stripes, .refs, .jobRuns, .arriving, .pwr] s (State.chunkRead s w c n x data) := by
  unfold State.chunkRead
  try dsimp only
  repeat' first
    | with_reducible exact Keeps.refl
    | with_reducible apply Keeps.step State.fetchMore_keeps
    | with_reducible apply Keeps.step State.advanceOp_keeps
    | with_reducible apply Keeps.step State.modRChunk_keeps
    | with_reducible apply Keeps.step State.endGet_keeps
    | decide
    | split

theorem State.plainIn_keeps {s : State} {w : Wy} {c : Cmd} {n : Nat} {x : RChunk} {data : Bytes} :
    Keeps [.relief, .cip, .codec, .mortar, .pcie, .bpm, .regs, .stripes, .refs, .jobRuns, .arriving, .pwr] s (State.plainIn s w c n x data) := by
  unfold State.plainIn
  try dsimp only
  repeat' first
    | with_reducible exact Keeps.refl
    | with_reducible apply Keeps.step State.queueCodec_keeps
    | with_reducible apply Keeps.step State.chunkRead_keeps
    | with_reducible apply Keeps.step State.modRChunk_keeps
    | with_reducible apply Keeps.step State.deliver_keeps
    | decide
    | split

theorem State.storedIn_keeps {s : State} {w : Wy} {c : Cmd} {n : Nat} {x : RChunk} {data : Bytes} :
    Keeps [.relief, .cip, .codec, .mortar, .pcie, .bpm, .regs, .stripes, .refs, .jobRuns, .arriving, .pwr] s (State.storedIn s w c n x data) := by
  unfold State.storedIn
  try dsimp only
  repeat' first
    | with_reducible exact Keeps.refl
    | with_reducible apply Keeps.step State.queueCodec_keeps
    | with_reducible apply Keeps.step State.plainIn_keeps
    | with_reducible apply Keeps.step State.taint_keeps
    | with_reducible apply Keeps.step State.modRChunk_keeps
    | decide
    | split

theorem execDecompressJobEnd_keeps {w : Wy} {id chunk : Nat} {s : State} :
    KeepsO [.relief, .cip, .codec, .mortar, .pcie, .bpm, .regs, .stripes, .refs, .jobRuns, .arriving, .pwr] s (execDecompressJobEnd w id chunk s) := by
  unfold execDecompressJobEnd
  try dsimp only
  repeat' first
    | with_reducible exact Keeps.refl
    | with_reducible apply Keeps.step State.endCodec_keeps
    | with_reducible apply Keeps.step State.plainIn_keeps
    | with_reducible apply Keeps.step State.taint_keeps
    | decide
    | with_reducible apply KeepsO.next
    | split

theorem execReverifyJobEnd_keeps {w : Wy} {id chunk : Nat} {s : State} :
    KeepsO [.relief, .cip, .codec, .mortar, .pcie, .bpm, .regs, .stripes, .refs, .jobRuns, .arriving, .pwr] s (execReverifyJobEnd w id chunk s) := by
  unfold execReverifyJobEnd
  try dsimp only
  repeat' first
    | with_reducible exact Keeps.refl
    | with_reducible apply Keeps.step State.endCodec_keeps
    | with_reducible apply Keeps.step State.chunkRead_keeps
    | with_reducible apply Keeps.step State.taint_keeps
    | decide
    | with_reducible apply KeepsO.next
    | split

theorem State.repairDue_keeps {s : State} {n : Nat} :
    Keeps [.relief, .cip, .codec, .mortar, .pcie, .bpm, .regs, .stripes, .refs, .jobRuns, .arriving, .pwr] s (State.repairDue s n) := by
  unfold State.repairDue
  try dsimp only
  repeat' first
    | with_reducible exact Keeps.refl
    | with_reducible apply Keeps.step State.pumpRepair_keeps
    | with_reducible apply Keeps.step State.modRepair_keeps
    | (intro p hp; cases p <;> first | exact absurd (by decide) hp | (dsimp only [Part.same]; done) | (dsimp only [Part.same]; exact ⟨rfl, rfl⟩))
    | decide
    | split
    | with_reducible apply Keeps.rec_

theorem State.pipelineDue_keeps {s : State} :
    Keeps [.relief, .cip, .codec, .mortar, .pcie, .bpm, .regs, .stripes, .refs, .jobRuns, .arriving, .pwr] s (State.pipelineDue s) := by
  unfold State.pipelineDue
  try dsimp only
  repeat' first
    | with_reducible exact Keeps.refl
    | with_reducible apply Keeps.step State.pumpWrites_keeps
    | with_reducible apply Keeps.step State.dispatchCodec_keeps
    | with_reducible apply Keeps.step State.repairDue_keeps
    | with_reducible apply Keeps.step State.sendLand_keeps
    | (with_reducible apply Keeps.foldl; intro _ _; try dsimp only)
    | decide

end Sys2Proof.Machine
end

