-- ==== Sys2Proof/Laws/KCrypt.lean ====
section
/-! SUPPORT. What each operation of Crypt.lean keeps. -/

-- One lemma after the other: many side by side hold too much memory when the package is one text.
set_option Elab.async false

namespace Sys2Proof.Machine

theorem State.writeFails_keeps {s : State} {w : Wy} {id : Nat} {evt : Bool} :
    Keeps [.relief, .clk, .cip, .codec, .mortar, .pcie, .bpm, .ptp, .regs, .store, .refs, .jobRuns, .arriving, .pwr] s (State.writeFails s w id evt) := by
  unfold State.writeFails
  try dsimp only
  repeat' first
    | with_reducible exact Keeps.refl
    | with_reducible apply Keeps.step State.wakeClose_keeps
    | with_reducible apply Keeps.step State.finish_keeps
    | with_reducible apply Keeps.step State.recordOpen_keeps
    | with_reducible apply Keeps.step State.endJobs_keeps
    | decide
    | split

theorem State.encryptFails_keeps {s : State} {w : Wy} {id : Nat} {res : CryptResult} :
    Keeps [.relief, .clk, .cip, .codec, .mortar, .pcie, .bpm, .ptp, .regs, .store, .refs, .jobRuns, .arriving, .pwr] s (State.encryptFails s w id res) := by
  unfold State.encryptFails
  repeat' first
    | with_reducible exact Keeps.refl
    | with_reducible apply Keeps.step State.wakeClose_keeps
    | with_reducible apply Keeps.step State.finish_keeps
    | with_reducible apply Keeps.step State.writeFails_keeps
    | with_reducible apply Keeps.step State.endJobs_keeps
    | decide
    | split

theorem State.sealedChunk_keeps {s : State} {w : Wy} {j : CryptJob} {id n : Nat} {out tag : Bytes} :
    Keeps [.relief, .cip, .codec, .mortar, .pcie, .bpm, .regs] s (State.sealedChunk s w j id n out tag) := by
  unfold State.sealedChunk
  try dsimp only
  repeat' first
    | with_reducible exact Keeps.refl
    | with_reducible apply Keeps.step State.pumpWrites_keeps
    | with_reducible apply Keeps.step State.shipChunk_keeps
    | with_reducible apply Keeps.step State.modWChunk_keeps
    | decide
    | split

theorem State.sealedInline_keeps {s : State} {w : Wy} {j : CryptJob} {id n : Nat} {out tag : Bytes} :
    Keeps [.relief, .clk, .cip, .codec, .mortar, .pcie, .bpm, .ptp, .regs, .store, .stripes, .refs, .jobRuns, .arriving, .pwr] s (State.sealedInline s w j id n out tag) := by
  unfold State.sealedInline
  try dsimp only
  repeat' first
    | with_reducible exact Keeps.refl
    | with_reducible apply Keeps.step State.releaseRing_keeps
    | with_reducible apply Keeps.step State.modOp_keeps
    | with_reducible apply Keeps.step State.stepOn_keeps
    | decide
    | split

theorem State.tagFailEvent_keeps {s : State} {w : Wy} {ent : Option RecipeEntry} :
    Keeps [.arriving] s (State.tagFailEvent s w ent) := by
  unfold State.tagFailEvent
  try dsimp only
  repeat' first
    | with_reducible exact Keeps.refl
    | with_reducible apply Keeps.step State.record_keeps
    | decide

theorem State.partDeliver_keeps {s : State} {w : Wy} {c : Cmd} {x : RChunk} {out : Bytes} :
    Keeps [.relief] s (State.partDeliver s w c x out) := by
  unfold State.partDeliver
  repeat' first
    | with_reducible exact Keeps.refl
    | with_reducible apply Keeps.step State.deliver_keeps
    | decide
    | split

theorem State.readChunkEnd_keeps {s : State} {w : Wy} {id n : Nat} {res : CryptResult} {out : Bytes} :
    Keeps [.relief, .cip, .codec, .mortar, .pcie, .bpm, .regs, .stripes, .refs, .jobRuns, .arriving, .pwr] s (State.readChunkEnd s w id n res out) := by
  unfold State.readChunkEnd
  repeat' first
    | with_reducible exact Keeps.refl
    | with_reducible apply Keeps.step State.storedIn_keeps
    | with_reducible apply Keeps.step State.partDeliver_keeps
    | with_reducible apply Keeps.step State.taint_keeps
    | with_reducible apply Keeps.step State.finish_keeps
    | with_reducible apply Keeps.step State.tagFailEvent_keeps
    | with_reducible apply Keeps.step State.endJobs_keeps
    | decide
    | split

theorem State.readInlineEnd_keeps {s : State} {w : Wy} {id : Nat} {res : CryptResult} {out : Bytes} :
    Keeps [.relief, .mortar, .pcie, .bpm, .regs, .refs, .arriving, .pwr] s (State.readInlineEnd s w id res out) := by
  unfold State.readInlineEnd
  try dsimp only
  repeat' first
    | with_reducible exact Keeps.refl
    | with_reducible apply Keeps.step State.tagFailEvent_keeps
    | with_reducible apply Keeps.step State.finish_keeps
    | with_reducible apply Keeps.step State.deliver_keeps
    | decide
    | split

theorem State.oldInlineEnd_keeps {s : State} {w : Wy} {id n : Nat} {res : CryptResult} {out : Bytes} :
    Keeps [.relief, .clk, .cip, .codec, .mortar, .pcie, .bpm, .ptp, .regs, .store, .stripes, .refs, .jobRuns, .arriving, .pwr] s (State.oldInlineEnd s w id n res out) := by
  unfold State.oldInlineEnd
  try dsimp only
  repeat' first
    | with_reducible exact Keeps.refl
    | with_reducible apply Keeps.step State.advanceOp_keeps
    | with_reducible apply Keeps.step State.modOp_keeps
    | with_reducible apply Keeps.step State.writeFails_keeps
    | with_reducible apply Keeps.step State.tagFailEvent_keeps
    | decide
    | split

theorem State.issuer_keeps {s : State} {w : Wy} {j : CryptJob} {res : CryptResult} {out tag : Bytes} :
    Keeps [.relief, .clk, .cip, .codec, .mortar, .pcie, .bpm, .ptp, .regs, .store, .stripes, .refs, .jobRuns, .arriving, .pwr] s (State.issuer s w j res out tag) := by
  unfold State.issuer
  try dsimp only
  repeat' first
    | with_reducible exact Keeps.refl
    | with_reducible apply Keeps.step State.shipEnd_keeps
    | with_reducible apply Keeps.step State.landEnd_keeps
    | with_reducible apply Keeps.step State.oldInlineEnd_keeps
    | with_reducible apply Keeps.step State.tagFailEvent_keeps
    | with_reducible apply Keeps.step State.sealedChunk_keeps
    | with_reducible apply Keeps.step State.readChunkEnd_keeps
    | with_reducible apply Keeps.step State.readInlineEnd_keeps
    | with_reducible apply Keeps.step State.repairChecked_keeps
    | with_reducible apply Keeps.step State.encryptFails_keeps
    | with_reducible apply Keeps.step State.sealedInline_keeps
    | decide
    | split

theorem State.countResult_keeps {s : State} {w : Wy} {encrypt : Bool} {res : CryptResult} :
    Keeps [.pcie, .regs] s (State.countResult s w encrypt res) := by
  unfold State.countResult
  repeat' first
    | with_reducible exact Keeps.refl
    | with_reducible apply Keeps.step State.bump_keeps
    | with_reducible apply Keeps.step State.event_keeps
    | decide
    | split

theorem State.endCrypt_keeps {s : State} {w : Wy} {j : CryptJob} {res : CryptResult} {out tag : Bytes} :
    Keeps [.relief, .clk, .cip, .codec, .mortar, .pcie, .bpm, .ptp, .regs, .store, .stripes, .refs, .jobRuns, .arriving, .pwr] s (State.endCrypt s w j res out tag) := by
  unfold State.endCrypt
  try dsimp only
  repeat' first
    | with_reducible exact Keeps.refl
    | with_reducible apply Keeps.step State.resumeTile_keeps
    | with_reducible apply Keeps.step State.jobGone_keeps
    | with_reducible apply Keeps.step State.issuer_keeps
    | with_reducible apply Keeps.step State.modCip_keeps
    | with_reducible apply Keeps.step State.forgetRuns_keeps
    | with_reducible apply Keeps.step State.countResult_keeps
    | decide
    | split

theorem State.touchKey_keeps {s : State} {w : Wy} {e : CachedKey} :
    Keeps [.cip] s (State.touchKey s w e) := by
  unfold State.touchKey
  try dsimp only
  repeat' first
    | with_reducible exact Keeps.refl
    | with_reducible apply Keeps.step State.modCip_keeps
    | decide

theorem State.suspend_keeps {s : State} {w : Wy} {t : Fin 128} :
    Keeps [.cip, .pcie, .regs] s (State.suspend s w t) := by
  unfold State.suspend
  try dsimp only
  repeat' first
    | with_reducible exact Keeps.refl
    | with_reducible apply Keeps.step State.bump_keeps
    | with_reducible apply Keeps.step State.modCip_keeps
    | with_reducible apply Keeps.step State.used_keeps
    | decide

theorem State.takeSlot_keeps {s : State} {w : Wy} {t : Fin 128} {j : CryptJob} {e : CachedKey} :
    Keeps [.cip, .pcie, .regs] s (State.takeSlot s w t j e) := by
  unfold State.takeSlot
  try dsimp only
  repeat' first
    | with_reducible exact Keeps.refl
    | with_reducible apply Keeps.step State.notePass_keeps
    | with_reducible apply Keeps.step State.suspend_keeps
    | with_reducible apply Keeps.step State.jobSent_keeps
    | with_reducible apply Keeps.step State.touchKey_keeps
    | with_reducible apply Keeps.step State.modJob_keeps
    | decide
    | split

theorem State.takeIv_keeps {s : State} {w : Wy} {t : Fin 128} {j : CryptJob} {x : KeySlot} {e : CachedKey} :
    Keeps [.relief, .clk, .cip, .codec, .mortar, .pcie, .bpm, .ptp, .regs, .store, .stripes, .refs, .jobRuns, .arriving, .pwr] s (State.takeIv s w t j x e) := by
  unfold State.takeIv
  try dsimp only
  repeat' first
    | with_reducible exact Keeps.refl
    | with_reducible apply Keeps.step State.bump_keeps
    | with_reducible apply Keeps.step State.lockSlot_keeps
    | with_reducible apply Keeps.step State.modSlot_keeps
    | with_reducible apply Keeps.step State.requestResv_keeps
    | with_reducible apply Keeps.step State.takeSlot_keeps
    | with_reducible apply Keeps.step State.modJob_keeps
    | with_reducible apply Keeps.step State.endCrypt_keeps
    | decide
    | split

theorem execCryptJobStart_keeps {w : Wy} {ref : JobRef} {tile : Fin 128} {s : State} :
    KeepsO [.relief, .clk, .cip, .codec, .mortar, .pcie, .bpm, .ptp, .regs, .store, .stripes, .refs, .jobRuns, .arriving, .pwr] s (execCryptJobStart w ref tile s) := by
  unfold execCryptJobStart
  try dsimp only
  repeat' first
    | with_reducible exact Keeps.refl
    | with_reducible apply Keeps.step State.bump_keeps
    | with_reducible apply Keeps.step State.takeSlot_keeps
    | with_reducible apply Keeps.step State.modJob_keeps
    | with_reducible apply Keeps.step State.endCrypt_keeps
    | with_reducible apply Keeps.step State.takeIv_keeps
    | decide
    | with_reducible apply KeepsO.next
    | split

theorem execCryptJobEnd_keeps {w : Wy} {ref : JobRef} {fault : Option Bytes} {s : State} :
    KeepsO [.relief, .clk, .cip, .codec, .mortar, .pcie, .bpm, .ptp, .regs, .store, .stripes, .refs, .jobRuns, .arriving, .pwr] s (execCryptJobEnd w ref fault s) := by
  unfold execCryptJobEnd
  try dsimp only
  repeat' first
    | with_reducible exact Keeps.refl
    | with_reducible apply Keeps.step State.endCrypt_keeps
    | decide
    | with_reducible apply KeepsO.next
    | split

theorem State.wakeResv_keeps {s : State} {w : Wy} {ks : BitVec 32} :
    Keeps [.cip] s (State.wakeResv s w ks) := by
  unfold State.wakeResv
  try dsimp only
  repeat' first
    | with_reducible exact Keeps.refl
    | with_reducible apply Keeps.step State.modCip_keeps
    | decide

theorem State.enterDomain_keeps {s : State} {w : Wy} :
    Keeps [.cip, .pcie, .regs] s (State.enterDomain s w) := by
  unfold State.enterDomain
  try dsimp only
  repeat' first
    | with_reducible exact Keeps.refl
    | with_reducible apply Keeps.step State.event_keeps
    | with_reducible apply Keeps.step State.modCip_keeps
    | decide
    | split

theorem execIvReservationDurable_keeps {w : Wy} {keyspace : BitVec 32} {ver : Nat} {s : State} :
    KeepsO [.cip, .pcie, .regs, .media, .arriving] s (execIvReservationDurable w keyspace ver s) := by
  unfold execIvReservationDurable
  try dsimp only
  repeat' first
    | with_reducible exact Keeps.refl
    | with_reducible apply Keeps.step State.keyWrite_keeps
    | with_reducible apply Keeps.step State.enterDomain_keeps
    | with_reducible apply Keeps.step State.bump_keeps
    | with_reducible apply Keeps.step State.wakeResv_keeps
    | with_reducible apply Keeps.step State.modSlot_keeps
    | with_reducible apply Keeps.step State.requestResv_keeps
    | with_reducible apply Keeps.step State.modCip_keeps
    | with_reducible apply Keeps.step State.recordOpen_keeps
    | with_reducible apply Keeps.step State.event_keeps
    | decide
    | with_reducible apply KeepsO.next
    | split

theorem execIvReservationTimeout_keeps {w : Wy} {keyspace : BitVec 32} {ver : Nat} {s : State} :
    KeepsO [.relief, .clk, .cip, .codec, .mortar, .pcie, .bpm, .ptp, .regs, .store, .stripes, .refs, .jobRuns, .arriving, .pwr] s (execIvReservationTimeout w keyspace ver s) := by
  unfold execIvReservationTimeout
  try dsimp only
  repeat' first
    | with_reducible exact Keeps.refl
    | with_reducible apply Keeps.step State.modSlot_keeps
    | with_reducible apply Keeps.step State.endCrypt_keeps
    | with_reducible apply Keeps.step State.event_keeps
    | (with_reducible apply Keeps.foldl; intro _ _; try dsimp only)
    | decide
    | with_reducible apply KeepsO.next
    | split

theorem execKeyUnwrapDone_keeps {w : Wy} {keyspace : BitVec 32} {ver : Nat} {s : State} :
    KeepsO [.cip, .pcie, .regs] s (execKeyUnwrapDone w keyspace ver s) := by
  unfold execKeyUnwrapDone
  try dsimp only
  repeat' first
    | with_reducible exact Keeps.refl
    | with_reducible apply Keeps.step State.unwrapFails_keeps
    | with_reducible apply Keeps.step State.modCip_keeps
    | decide
    | with_reducible apply KeepsO.next
    | split

theorem State.installKey_keeps {s : State} {w : Wy} {ks : BitVec 32} {ver : Nat} {wrapped : Bytes} :
    Keeps [.cip, .pcie, .regs, .media] s (State.installKey s w ks ver wrapped) := by
  unfold State.installKey
  try dsimp only
  repeat' first
    | with_reducible exact Keeps.refl
    | with_reducible apply Keeps.step State.unwrapFails_keeps
    | with_reducible apply Keeps.step State.keepSlots_keeps
    | with_reducible apply Keeps.step State.modCip_keeps
    | with_reducible apply Keeps.step State.wakeResv_keeps
    | decide
    | split

theorem execKeyRotation_keeps {w : Wy} {keyspace : BitVec 32} {ver : Nat} {wrapped : Bytes} {s : State} :
    KeepsO [.cip, .pcie, .regs, .media] s (execKeyRotation w keyspace ver wrapped s) := by
  unfold execKeyRotation
  repeat' first
    | with_reducible exact Keeps.refl
    | with_reducible apply Keeps.step State.installKey_keeps
    | decide
    | with_reducible apply KeepsO.next
    | split

theorem State.retireKey_keeps {s : State} {w : Wy} {ks : BitVec 32} {ver : Nat} :
    Keeps [.cip, .pcie, .regs, .media] s (State.retireKey s w ks ver) := by
  unfold State.retireKey
  try dsimp only
  repeat' first
    | with_reducible exact Keeps.refl
    | with_reducible apply Keeps.step State.keepSlots_keeps
    | with_reducible apply Keeps.step State.modSlot_keeps
    | with_reducible apply Keeps.step State.modCip_keeps
    | decide
    | split

end Sys2Proof.Machine
end

