-- ==== Sys2Proof/Laws/KStripe.lean ====
section
/-! SUPPORT. What each operation of Stripe.lean keeps. -/

-- One lemma after the other: many side by side hold too much memory when the package is one text.
set_option Elab.async false

namespace Sys2Proof.Machine

theorem State.modStripes_keeps {s : State} {f : Stripes → Stripes} :
    Keeps [.stripes] s (State.modStripes s f) := by
  unfold State.modStripes
  repeat' first
    | with_reducible exact Keeps.refl
    | (intro p hp; cases p <;> first | exact absurd (by decide) hp | (dsimp only [Part.same]; done) | (dsimp only [Part.same]; exact ⟨rfl, rfl⟩))
    | decide
    | with_reducible apply Keeps.rec_

theorem State.modStripe_keeps {s : State} {id : Nat} {f : StripeRec → StripeRec} :
    Keeps [.stripes] s (State.modStripe s id f) := by
  unfold State.modStripe
  try dsimp only
  repeat' first
    | with_reducible exact Keeps.refl
    | with_reducible apply Keeps.step State.modStripes_keeps
    | decide

theorem State.dropStripe_keeps {s : State} {id : Nat} :
    Keeps [.stripes] s (State.dropStripe s id) := by
  unfold State.dropStripe
  try dsimp only
  repeat' first
    | with_reducible exact Keeps.refl
    | with_reducible apply Keeps.step State.modStripes_keeps
    | decide

theorem State.modFrag_keeps {s : State} {f : Nat} {g : FragRec → FragRec} :
    Keeps [.stripes] s (State.modFrag s f g) := by
  unfold State.modFrag
  try dsimp only
  repeat' first
    | with_reducible exact Keeps.refl
    | with_reducible apply Keeps.step State.modStripes_keeps
    | decide

theorem State.dropGen_keeps {s : State} {f gen : Nat} :
    Keeps [.pcie, .regs, .media, .arriving] s (State.dropGen s f gen) := by
  unfold State.dropGen
  try dsimp only
  repeat' first
    | with_reducible exact Keeps.refl
    | with_reducible apply Keeps.step State.flushMap_keeps
    | with_reducible apply Keeps.step State.mapDrop_keeps
    | (with_reducible apply Keeps.foldl; intro _ _; try dsimp only)
    | decide
    | split

theorem State.freeFrag_keeps {s : State} {f : Nat} :
    Keeps [.pcie, .regs, .stripes, .media, .arriving] s (State.freeFrag s f) := by
  unfold State.freeFrag
  try dsimp only
  repeat' first
    | with_reducible exact Keeps.refl
    | with_reducible apply Keeps.step State.modStripes_keeps
    | with_reducible apply Keeps.step State.dropGen_keeps
    | decide
    | split

theorem State.fragDurable_keeps {s : State} {w : Wy} {x : FragRec} :
    Keeps [.mortar, .pcie, .regs, .stripes] s (State.fragDurable s w x) := by
  unfold State.fragDurable
  try dsimp only
  repeat' first
    | with_reducible exact Keeps.refl
    | with_reducible apply Keeps.step State.modFrag_keeps
    | with_reducible apply Keeps.step State.modStripes_keeps
    | with_reducible apply Keeps.step State.mortarOut_keeps
    | decide
    | split

theorem State.fragsDone_keeps {s : State} :
    Keeps [.mortar, .pcie, .regs, .stripes] s (State.fragsDone s) := by
  unfold State.fragsDone
  try dsimp only
  repeat' first
    | with_reducible exact Keeps.refl
    | with_reducible apply Keeps.step State.fragDurable_keeps
    | (with_reducible apply Keeps.foldl; intro _ _; try dsimp only)
    | decide

theorem State.keepFrag_keeps {s : State} {w : Wy} {h : FragHead} {bytes : Bytes} {ackTo : Option (Nat × Wy)} {cls : Nat} :
    Keeps [.mortar, .pcie, .regs, .stripes, .media, .arriving] s (State.keepFrag s w h bytes ackTo cls) := by
  unfold State.keepFrag
  try dsimp only
  repeat' first
    | with_reducible exact Keeps.refl
    | with_reducible apply Keeps.step State.modStripes_keeps
    | with_reducible apply Keeps.step State.dropGen_keeps
    | with_reducible apply Keeps.step State.writeFrag_keeps
    | with_reducible apply Keeps.step State.fragDurable_keeps
    | decide
    | split

theorem State.doFragPut_keeps {s : State} {w : Wy} {h : MHead} {f : FragHead} {bytes : Bytes} :
    Keeps [.mortar, .pcie, .regs, .stripes, .media, .arriving, .health] s (State.doFragPut s w h f bytes) := by
  unfold State.doFragPut
  try dsimp only
  repeat' first
    | with_reducible exact Keeps.refl
    | with_reducible apply Keeps.step State.modFrag_keeps
    | with_reducible apply Keeps.step State.keepFrag_keeps
    | with_reducible apply Keeps.step State.mortarOut_keeps
    | (intro p hp; cases p <;> first | exact absurd (by decide) hp | (dsimp only [Part.same]; done) | (dsimp only [Part.same]; exact ⟨rfl, rfl⟩))
    | decide
    | split
    | with_reducible apply Keeps.rec_

theorem execFragPut_keeps {w : Wy} {h : MHead} {f : FragHead} {bytes : Bytes} {s : State} :
    KeepsO [.clk, .mortar, .pcie, .regs, .stripes, .heldMortar, .media, .arriving, .health] s (execFragPut w h f bytes s) := by
  unfold execFragPut
  try dsimp only
  repeat' first
    | with_reducible exact Keeps.refl
    | with_reducible apply State.mortarIn_keeps
    | with_reducible apply Keeps.step State.doFragPut_keeps
    | (intro _; try dsimp only)
    | decide
    | with_reducible apply KeepsO.next

theorem State.sendSeal_keeps {s : State} {w : Wy} {r : StripeRec} {b : Nat} :
    Keeps [.mortar, .pcie, .regs] s (State.sendSeal s w r b) := by
  unfold State.sendSeal
  repeat' first
    | with_reducible exact Keeps.refl
    | with_reducible apply Keeps.step State.mortarOut_keeps
    | decide

theorem State.startSeal_keeps {s : State} {w : Wy} {id : Nat} :
    Keeps [.mortar, .pcie, .regs, .stripes] s (State.startSeal s w id) := by
  unfold State.startSeal
  try dsimp only
  repeat' first
    | with_reducible exact Keeps.refl
    | with_reducible apply Keeps.step State.sendSeal_keeps
    | with_reducible apply Keeps.step State.modStripe_keeps
    | (with_reducible apply Keeps.foldl; intro _ _; try dsimp only)
    | decide
    | split

theorem State.checkSealed_keeps {s : State} {w : Wy} {id : Nat} :
    Keeps [.mortar, .pcie, .regs, .stripes] s (State.checkSealed s w id) := by
  unfold State.checkSealed
  try dsimp only
  repeat' first
    | with_reducible exact Keeps.refl
    | with_reducible apply Keeps.step State.modStripe_keeps
    | with_reducible apply Keeps.step State.mortarOut_keeps
    | (with_reducible apply Keeps.foldl; intro _ _; try dsimp only)
    | decide
    | split

theorem State.sendFrag_keeps {s : State} {w : Wy} {r : StripeRec} {image : Bytes} {i : Nat} :
    Keeps [.mortar, .pcie, .regs] s (State.sendFrag s w r image i) := by
  unfold State.sendFrag
  try dsimp only
  repeat' first
    | with_reducible exact Keeps.refl
    | with_reducible apply Keeps.step State.mortarOut_keeps
    | decide
    | split

theorem State.sendFrags_keeps {s : State} {w : Wy} {r : StripeRec} :
    Keeps [.mortar, .pcie, .regs] s (State.sendFrags s w r) := by
  unfold State.sendFrags
  try dsimp only
  repeat' first
    | with_reducible exact Keeps.refl
    | with_reducible apply Keeps.step State.sendFrag_keeps
    | (with_reducible apply Keeps.foldl; intro _ _; try dsimp only)
    | decide

theorem State.sealHeld_keeps {s : State} {w : Wy} {id b : Nat} :
    Keeps [.mortar, .pcie, .regs, .stripes] s (State.sealHeld s w id b) := by
  unfold State.sealHeld
  try dsimp only
  repeat' first
    | with_reducible exact Keeps.refl
    | with_reducible apply Keeps.step State.checkSealed_keeps
    | with_reducible apply Keeps.step State.modStripe_keeps
    | with_reducible apply Keeps.step State.sendFrags_keeps
    | decide
    | split

theorem State.ackWhole_keeps {s : State} {w : Wy} {id off : Nat} :
    Keeps [.mortar, .pcie, .regs, .stripes] s (State.ackWhole s w id off) := by
  unfold State.ackWhole
  try dsimp only
  repeat' first
    | with_reducible exact Keeps.refl
    | with_reducible apply Keeps.step State.mortarOut_keeps
    | with_reducible apply Keeps.step State.modStripe_keeps
    | (with_reducible apply Keeps.foldl; intro _ _; try dsimp only)
    | decide
    | split

theorem State.placedCopy_keeps {s : State} {w : Wy} {id off b : Nat} :
    Keeps [.mortar, .pcie, .regs, .stripes] s (State.placedCopy s w id off b) := by
  unfold State.placedCopy
  try dsimp only
  repeat' first
    | with_reducible exact Keeps.refl
    | with_reducible apply Keeps.step State.ackWhole_keeps
    | with_reducible apply Keeps.step State.sendSeal_keeps
    | with_reducible apply Keeps.step State.modStripe_keeps
    | with_reducible apply Keeps.step State.startSeal_keeps
    | (with_reducible apply Keeps.foldl; intro _ _; try dsimp only)
    | decide
    | split

theorem State.copyTo_keeps {s : State} {w : Wy} {r : StripeRec} {b : Nat} {l : List (Nat × Bytes)} :
    Keeps [.mortar, .pcie, .regs] s (State.copyTo s w r b l) := by
  unfold State.copyTo
  try dsimp only
  repeat' first
    | with_reducible exact Keeps.refl
    | with_reducible apply Keeps.step State.mortarOut_keeps
    | (with_reducible apply Keeps.foldl; intro _ _; try dsimp only)
    | decide

theorem State.doJournalAck_keeps {s : State} {w : Wy} {src id off : Nat} {a : JAck} :
    Keeps [.mortar, .pcie, .regs, .stripes] s (State.doJournalAck s w src id off a) := by
  unfold State.doJournalAck
  repeat' first
    | with_reducible exact Keeps.refl
    | with_reducible apply Keeps.step State.sealHeld_keeps
    | with_reducible apply Keeps.step State.placedCopy_keeps
    | with_reducible apply Keeps.step State.mortarOut_keeps
    | decide
    | split

theorem execJournalAck_keeps {w : Wy} {h : MHead} {stripe offset : Nat} {a : JAck} {s : State} :
    KeepsO [.clk, .mortar, .pcie, .regs, .stripes, .heldMortar] s (execJournalAck w h stripe offset a s) := by
  unfold execJournalAck
  try dsimp only
  repeat' first
    | with_reducible exact Keeps.refl
    | with_reducible apply State.mortarIn_keeps
    | with_reducible apply Keeps.step State.doJournalAck_keeps
    | (intro _; try dsimp only)
    | decide
    | with_reducible apply KeepsO.next

theorem State.doJournalCopy_keeps {s : State} {w : Wy} {h : MHead} {id off lead : Nat} {journal : List Nat} {record : Bytes} :
    Keeps [.mortar, .pcie, .regs, .store, .stripes] s (State.doJournalCopy s w h id off lead journal record) := by
  unfold State.doJournalCopy
  try dsimp only
  repeat' first
    | with_reducible exact Keeps.refl
    | with_reducible apply Keeps.step State.place_keeps
    | with_reducible apply Keeps.step State.modStripes_keeps
    | with_reducible apply Keeps.step State.modStripe_keeps
    | with_reducible apply Keeps.step State.mortarOut_keeps
    | decide
    | split

theorem execJournalCopy_keeps {w : Wy} {h : MHead} {stripe offset lead : Nat} {journal : List Nat} {record : Bytes} {s : State} :
    KeepsO [.clk, .mortar, .pcie, .regs, .store, .stripes, .heldMortar] s (execJournalCopy w h stripe offset lead journal record s) := by
  unfold execJournalCopy
  try dsimp only
  repeat' first
    | with_reducible exact Keeps.refl
    | with_reducible apply State.mortarIn_keeps
    | with_reducible apply Keeps.step State.doJournalCopy_keeps
    | (intro _; try dsimp only)
    | decide
    | with_reducible apply KeepsO.next

theorem State.doStripeSeal_keeps {s : State} {w : Wy} {h : MHead} {id fill gen : Nat} {digest : Bytes} {lead : Nat} {targets : List (Option Nat)} :
    Keeps [.mortar, .pcie, .regs, .stripes, .media, .arriving, .health] s (State.doStripeSeal s w h id fill gen digest lead targets) := by
  unfold State.doStripeSeal
  try dsimp only
  repeat' first
    | with_reducible exact Keeps.refl
    | with_reducible apply Keeps.step State.doFragPut_keeps
    | with_reducible apply Keeps.step State.modStripe_keeps
    | with_reducible apply Keeps.step State.mortarOut_keeps
    | (with_reducible apply Keeps.foldl; intro _ _; try dsimp only)
    | decide
    | split

theorem execStripeSeal_keeps {w : Wy} {h : MHead} {stripe fill count gen : Nat} {digest : Bytes} {lead : Nat} {targets : List (Option Nat)} {s : State} :
    KeepsO [.clk, .mortar, .pcie, .regs, .stripes, .heldMortar, .media, .arriving, .health] s (execStripeSeal w h stripe fill count gen digest lead targets s) := by
  unfold execStripeSeal
  try dsimp only
  repeat' first
    | with_reducible exact Keeps.refl
    | with_reducible apply Keeps.step State.doStripeSeal_keeps
    | with_reducible apply State.mortarIn_keeps
    | (intro _; try dsimp only)
    | decide
    | with_reducible apply KeepsO.next

theorem State.sendMove_keeps {s : State} {w : Wy} {x : FragRec} {b : Nat} :
    Keeps [.mortar, .pcie, .regs, .stripes] s (State.sendMove s w x b) := by
  unfold State.sendMove
  try dsimp only
  repeat' first
    | with_reducible exact Keeps.refl
    | with_reducible apply Keeps.step State.modFrag_keeps
    | with_reducible apply Keeps.step State.mortarOut_keeps
    | decide

theorem State.noSpill_keeps {s : State} {w : Wy} {x : FragRec} :
    Keeps [.wall, .arriving] s (State.noSpill s w x) := by
  unfold State.noSpill
  try dsimp only
  repeat' first
    | with_reducible exact Keeps.refl
    | with_reducible apply Keeps.step State.recordOpen_keeps
    | with_reducible apply Keeps.step State.modWall_keeps
    | decide

theorem State.evacAck_keeps {s : State} {w : Wy} {src : Nat} {x : FragRec} {a : FAck} :
    Keeps [.mortar, .pcie, .regs, .wall, .stripes, .media, .arriving] s (State.evacAck s w src x a) := by
  unfold State.evacAck
  try dsimp only
  repeat' first
    | with_reducible exact Keeps.refl
    | with_reducible apply Keeps.step State.noSpill_keeps
    | with_reducible apply Keeps.step State.modFrag_keeps
    | with_reducible apply Keeps.step State.modStripes_keeps
    | with_reducible apply Keeps.step State.freeFrag_keeps
    | with_reducible apply Keeps.step State.sendMove_keeps
    | decide
    | split

theorem State.doFragAck_keeps {s : State} {w : Wy} {src f gen : Nat} {a : FAck} :
    Keeps [.mortar, .pcie, .regs, .wall, .stripes, .media, .arriving] s (State.doFragAck s w src f gen a) := by
  unfold State.doFragAck
  try dsimp only
  repeat' first
    | with_reducible exact Keeps.refl
    | with_reducible apply Keeps.step State.mortarOut_keeps
    | with_reducible apply Keeps.step State.checkSealed_keeps
    | with_reducible apply Keeps.step State.evacAck_keeps
    | with_reducible apply Keeps.step State.modStripe_keeps
    | with_reducible apply Keeps.step State.sendFrag_keeps
    | decide
    | split

theorem execSealCommit_keeps {w : Wy} {h : MHead} {stripe gen : Nat} {s : State} :
    KeepsO [.clk, .mortar, .pcie, .regs, .stripes, .heldMortar] s (execSealCommit w h stripe gen s) := by
  unfold execSealCommit
  try dsimp only
  repeat' first
    | with_reducible exact Keeps.refl
    | with_reducible apply State.mortarIn_keeps
    | with_reducible apply Keeps.step State.dropStripe_keeps
    | (intro _; try dsimp only)
    | decide
    | with_reducible apply KeepsO.next
    | split

theorem execSealTimer_keeps {stripe : Nat} {s : State} :
    KeepsO [.mortar, .pcie, .regs, .stripes] s (execSealTimer stripe s) := by
  unfold execSealTimer
  repeat' first
    | with_reducible exact Keeps.refl
    | with_reducible apply Keeps.step State.startSeal_keeps
    | decide
    | with_reducible apply KeepsO.next
    | split

theorem State.replaceJournal_keeps {s : State} {w : Wy} {id : Nat} :
    Keeps [.mortar, .pcie, .regs, .stripes] s (State.replaceJournal s w id) := by
  unfold State.replaceJournal
  try dsimp only
  repeat' first
    | with_reducible exact Keeps.refl
    | with_reducible apply Keeps.step State.sendSeal_keeps
    | with_reducible apply Keeps.step State.modStripe_keeps
    | with_reducible apply Keeps.step State.copyTo_keeps
    | (with_reducible apply Keeps.foldl; intro _ _; try dsimp only)
    | decide
    | split

theorem State.takeGroupSeq_keeps {s : State} {g : Nat} :
    Keeps [.refs] s (State.takeGroupSeq s g) := by
  unfold State.takeGroupSeq
  try dsimp only
  repeat' first
    | with_reducible exact Keeps.refl
    | (intro p hp; cases p <;> first | exact absurd (by decide) hp | (dsimp only [Part.same]; done) | (dsimp only [Part.same]; exact ⟨rfl, rfl⟩))
    | decide
    | with_reducible apply Keeps.rec_

theorem State.takeStripe_keeps {s : State} {w : Wy} {r : StripeRec} :
    Keeps [.mortar, .pcie, .regs, .stripes, .refs] s (State.takeStripe s w r) := by
  unfold State.takeStripe
  try dsimp only
  repeat' first
    | with_reducible exact Keeps.refl
    | with_reducible apply Keeps.step State.takeGroupSeq_keeps
    | with_reducible apply Keeps.step State.replaceJournal_keeps
    | with_reducible apply Keeps.step State.modStripe_keeps
    | with_reducible apply Keeps.step State.mortarOut_keeps
    | decide
    | split

theorem State.stripesOnEpoch_keeps {s : State} :
    Keeps [.mortar, .pcie, .regs, .stripes, .refs] s (State.stripesOnEpoch s) := by
  unfold State.stripesOnEpoch
  try dsimp only
  repeat' first
    | with_reducible exact Keeps.refl
    | with_reducible apply Keeps.step State.takeStripe_keeps
    | with_reducible apply Keeps.step State.replaceJournal_keeps
    | with_reducible apply Keeps.step State.startSeal_keeps
    | (with_reducible apply Keeps.foldl; intro _ _; try dsimp only)
    | decide
    | split

theorem execJournalStateReq_keeps {w : Wy} {h : MHead} {group stripe : Nat} {s : State} :
    KeepsO [.clk, .mortar, .pcie, .regs, .heldMortar] s (execJournalStateReq w h group stripe s) := by
  unfold execJournalStateReq
  try dsimp only
  repeat' first
    | with_reducible exact Keeps.refl
    | with_reducible apply State.mortarIn_keeps
    | with_reducible apply Keeps.step State.mortarOut_keeps
    | (with_reducible apply Keeps.foldl; intro _ _; try dsimp only)
    | (intro _; try dsimp only)
    | decide
    | with_reducible apply KeepsO.next
    | split

theorem State.learnSeal_keeps {s : State} {j : JState} :
    Keeps [.stripes] s (State.learnSeal s j) := by
  unfold State.learnSeal
  try dsimp only
  repeat' first
    | with_reducible exact Keeps.refl
    | with_reducible apply Keeps.step State.modStripes_keeps
    | decide
    | split

theorem State.doJournalState_keeps {s0 : State} {w : Wy} {h : MHead} {j : JState} :
    Keeps [.mortar, .pcie, .regs, .stripes] s0 (State.doJournalState s0 w h j) := by
  unfold State.doJournalState
  try dsimp only
  repeat' first
    | with_reducible exact Keeps.refl
    | with_reducible apply Keeps.step State.learnSeal_keeps
    | with_reducible apply Keeps.step State.replaceJournal_keeps
    | with_reducible apply Keeps.step State.sendSeal_keeps
    | with_reducible apply Keeps.step State.modStripe_keeps
    | with_reducible apply Keeps.step State.copyTo_keeps
    | with_reducible apply Keeps.step State.mortarOut_keeps
    | with_reducible apply Keeps.step State.startSeal_keeps
    | with_reducible apply Keeps.step State.dropStripe_keeps
    | (with_reducible apply Keeps.foldl; intro _ _; try dsimp only)
    | decide
    | split

theorem execJournalState_keeps {w : Wy} {h : MHead} {j : JState} {s : State} :
    KeepsO [.clk, .mortar, .pcie, .regs, .stripes, .heldMortar] s (execJournalState w h j s) := by
  unfold execJournalState
  try dsimp only
  repeat' first
    | with_reducible exact Keeps.refl
    | with_reducible apply Keeps.step State.doJournalState_keeps
    | with_reducible apply State.mortarIn_keeps
    | (intro _; try dsimp only)
    | decide
    | with_reducible apply KeepsO.next

theorem State.pullData_keeps {s : State} {w : Wy} {src f off : Nat} {bytes : Bytes} :
    Keeps [.mortar, .pcie, .regs, .stripes] s (State.pullData s w src f off bytes) := by
  unfold State.pullData
  try dsimp only
  repeat' first
    | with_reducible exact Keeps.refl
    | with_reducible apply Keeps.step State.modStripe_keeps
    | with_reducible apply Keeps.step State.copyTo_keeps
    | (with_reducible apply Keeps.foldl; intro _ _; try dsimp only)
    | decide
    | split

theorem State.stripesAfterStop_keeps {s : State} :
    Keeps [.mortar, .pcie, .regs, .stripes] s (State.stripesAfterStop s) := by
  unfold State.stripesAfterStop
  try dsimp only
  repeat' first
    | with_reducible exact Keeps.refl
    | with_reducible apply Keeps.step State.modStripe_keeps
    | with_reducible apply Keeps.step State.mortarOut_keeps
    | (with_reducible apply Keeps.foldl; intro _ _; try dsimp only)
    | decide
    | split

theorem State.sortRebuild_keeps {s : State} :
    Keeps [.stripes] s (State.sortRebuild s) := by
  unfold State.sortRebuild
  try dsimp only
  repeat' first
    | with_reducible exact Keeps.refl
    | with_reducible apply Keeps.step State.modStripes_keeps
    | (with_reducible apply Keeps.foldl; intro _ _; try dsimp only)
    | decide

theorem State.queueRebuild_keeps {s : State} {f gen from_ upto : Nat} :
    Keeps [.stripes] s (State.queueRebuild s f gen from_ upto) := by
  unfold State.queueRebuild
  try dsimp only
  repeat' first
    | with_reducible exact Keeps.refl
    | with_reducible apply Keeps.step State.modStripes_keeps
    | with_reducible apply Keeps.step State.sortRebuild_keeps
    | decide
    | split

theorem State.askList_keeps {s : State} {w : Wy} {group pos : Nat} :
    Keeps [.mortar, .pcie, .regs, .stripes] s (State.askList s w group pos) := by
  unfold State.askList
  try dsimp only
  repeat' first
    | with_reducible exact Keeps.refl
    | with_reducible apply Keeps.step State.modStripes_keeps
    | with_reducible apply Keeps.step State.mortarOut_keeps
    | (with_reducible apply Keeps.foldl; intro _ _; try dsimp only)
    | decide
    | split

theorem State.catchUpAll_keeps {s : State} :
    Keeps [.mortar, .pcie, .regs, .stripes] s (State.catchUpAll s) := by
  unfold State.catchUpAll
  try dsimp only
  repeat' first
    | with_reducible exact Keeps.refl
    | with_reducible apply Keeps.step State.askList_keeps
    | (with_reducible apply Keeps.foldl; intro _ _; try dsimp only)
    | decide

theorem State.doStripeListReq_keeps {s : State} {w : Wy} {h : MHead} {group pos first max_ : Nat} :
    Keeps [.mortar, .pcie, .regs] s (State.doStripeListReq s w h group pos first max_) := by
  unfold State.doStripeListReq
  try dsimp only
  repeat' first
    | with_reducible exact Keeps.refl
    | with_reducible apply Keeps.step State.mortarOut_keeps
    | (with_reducible apply Keeps.foldl; intro _ _; try dsimp only)
    | decide

theorem execStripeListReq_keeps {w : Wy} {h : MHead} {group pos first max : Nat} {s : State} :
    KeepsO [.clk, .mortar, .pcie, .regs, .heldMortar] s (execStripeListReq w h group pos first max s) := by
  unfold execStripeListReq
  try dsimp only
  repeat' first
    | with_reducible exact Keeps.refl
    | with_reducible apply Keeps.step State.doStripeListReq_keeps
    | with_reducible apply State.mortarIn_keeps
    | (intro _; try dsimp only)
    | decide
    | with_reducible apply KeepsO.next

theorem State.moveBack_keeps {s : State} {f gen holder : Nat} :
    Keeps [.stripes] s (State.moveBack s f gen holder) := by
  unfold State.moveBack
  try dsimp only
  repeat' first
    | with_reducible exact Keeps.refl
    | with_reducible apply Keeps.step State.modStripes_keeps
    | with_reducible apply Keeps.step State.queueRebuild_keeps
    | decide

theorem State.askSeal_keeps {s : State} {w : Wy} {src stripe : Nat} :
    Keeps [.mortar, .pcie, .regs] s (State.askSeal s w src stripe) := by
  unfold State.askSeal
  try dsimp only
  repeat' first
    | with_reducible exact Keeps.refl
    | with_reducible apply Keeps.step State.mortarOut_keeps
    | decide
    | split

theorem State.listed_keeps {s : State} {w : Wy} {pos src : Nat} {e : ListEntry} :
    Keeps [.mortar, .pcie, .regs, .stripes] s (State.listed s w pos src e) := by
  unfold State.listed
  try dsimp only
  repeat' first
    | with_reducible exact Keeps.refl
    | with_reducible apply Keeps.step State.mortarOut_keeps
    | with_reducible apply Keeps.step State.askSeal_keeps
    | with_reducible apply Keeps.step State.modStripes_keeps
    | with_reducible apply Keeps.step State.moveBack_keeps
    | with_reducible apply Keeps.step State.queueRebuild_keeps
    | decide
    | split

theorem execStripeList_keeps {w : Wy} {h : MHead} {group pos : Nat} {more : Bool} {entries : List ListEntry} {s : State} :
    KeepsO [.clk, .mortar, .pcie, .regs, .stripes, .heldMortar] s (execStripeList w h group pos more entries s) := by
  unfold execStripeList
  try dsimp only
  repeat' first
    | with_reducible exact Keeps.refl
    | with_reducible apply Keeps.step State.modStripes_keeps
    | with_reducible apply State.mortarIn_keeps
    | with_reducible apply Keeps.step State.listed_keeps
    | with_reducible apply Keeps.step State.mortarOut_keeps
    | (with_reducible apply Keeps.foldl; intro _ _; try dsimp only)
    | (intro _; try dsimp only)
    | decide
    | with_reducible apply KeepsO.next
    | split

theorem State.spillRebuilds_keeps {s : State} :
    Keeps [.stripes] s (State.spillRebuilds s) := by
  unfold State.spillRebuilds
  try dsimp only
  repeat' first
    | with_reducible exact Keeps.refl
    | with_reducible apply Keeps.step State.queueRebuild_keeps
    | (with_reducible apply Keeps.foldl; intro _ _; try dsimp only)
    | decide
    | split

theorem State.selfRebuild_keeps {s : State} {stripe off len : Nat} :
    Keeps [.stripes] s (State.selfRebuild s stripe off len) := by
  unfold State.selfRebuild
  try dsimp only
  repeat' first
    | with_reducible exact Keeps.refl
    | with_reducible apply Keeps.step State.modFrag_keeps
    | with_reducible apply Keeps.step State.queueRebuild_keeps
    | decide
    | split

theorem State.doFragRelease_keeps {s : State} {f holder : Nat} :
    Keeps [.pcie, .regs, .stripes, .media, .arriving] s (State.doFragRelease s f holder) := by
  unfold State.doFragRelease
  try dsimp only
  repeat' first
    | with_reducible exact Keeps.refl
    | with_reducible apply Keeps.step State.modStripes_keeps
    | with_reducible apply Keeps.step State.freeFrag_keeps
    | decide
    | split

theorem execFragRelease_keeps {w : Wy} {h : MHead} {fragId holder : Nat} {s : State} :
    KeepsO [.clk, .mortar, .pcie, .regs, .stripes, .heldMortar, .media, .arriving] s (execFragRelease w h fragId holder s) := by
  unfold execFragRelease
  try dsimp only
  repeat' first
    | with_reducible exact Keeps.refl
    | with_reducible apply Keeps.step State.doFragRelease_keeps
    | with_reducible apply State.mortarIn_keeps
    | (intro _; try dsimp only)
    | decide
    | with_reducible apply KeepsO.next

theorem State.dropUnmovable_keeps {s : State} :
    Keeps [.stripes] s (State.dropUnmovable s) := by
  unfold State.dropUnmovable
  try dsimp only
  repeat' first
    | with_reducible exact Keeps.refl
    | with_reducible apply Keeps.step State.queueRebuild_keeps
    | with_reducible apply Keeps.step State.modFrag_keeps
    | decide
    | split

theorem execEvacuation_keeps {w : Wy} {s : State} :
    KeepsO [.mortar, .pcie, .regs, .wall, .stripes, .arriving] s (execEvacuation w s) := by
  unfold execEvacuation
  try dsimp only
  repeat' first
    | with_reducible exact Keeps.refl
    | with_reducible apply Keeps.step State.dropUnmovable_keeps
    | with_reducible apply Keeps.step State.noSpill_keeps
    | with_reducible apply Keeps.step State.modWall_keeps
    | with_reducible apply Keeps.step State.sendMove_keeps
    | decide
    | with_reducible apply KeepsO.next
    | split

end Sys2Proof.Machine
end

