-- ==== Sys2Proof/Laws/KMediaRead.lean ====
section
/-! SUPPORT. What each operation of MediaRead.lean keeps. -/

-- One lemma after the other: many side by side hold too much memory when the package is one text.
set_option Elab.async false

namespace Sys2Proof.Machine

theorem State.retireDie_keeps {s : State} {d cause : Nat} :
    Keeps [.relief, .pcie, .regs, .media, .arriving, .pwr] s (State.retireDie s d cause) := by
  unfold State.retireDie
  try dsimp only
  repeat' first
    | with_reducible exact Keeps.refl
    | with_reducible apply Keeps.step State.modDie_keeps
    | with_reducible apply Keeps.step State.anchorRec_keeps
    | with_reducible apply Keeps.step State.earlyWarn_keeps
    | with_reducible apply Keeps.step State.modSet_keeps
    | decide
    | split

theorem State.dieUncorr_keeps {s : State} {d : Nat} :
    Keeps [.relief, .pcie, .regs, .media, .arriving, .pwr] s (State.dieUncorr s d) := by
  unfold State.dieUncorr
  try dsimp only
  repeat' first
    | with_reducible exact Keeps.refl
    | with_reducible apply Keeps.step State.modDie_keeps
    | with_reducible apply Keeps.step State.retireDie_keeps
    | decide
    | split

theorem State.parityUsed_keeps {s : State} {k : Nat} :
    Keeps [.media] s (State.parityUsed s k) := by
  unfold State.parityUsed
  try dsimp only
  repeat' first
    | with_reducible exact Keeps.refl
    | with_reducible apply Keeps.step State.modDie_keeps
    | with_reducible apply Keeps.step State.modBlk_keeps
    | decide

theorem State.noteTired_keeps {s : State} {r : ChReq} {attempts : Nat} :
    Keeps [.media] s (State.noteTired s r attempts) := by
  unfold State.noteTired
  try dsimp only
  repeat' first
    | with_reducible exact Keeps.refl
    | with_reducible apply Keeps.step State.modSet_keeps
    | with_reducible apply Keeps.step Keeps.fresh_add
    | with_reducible apply Keeps.step Keeps.fresh_add2
    | decide
    | split

theorem State.intentRead_keeps {s : State} {j : ChJob} :
    Keeps [.arriving] s (State.intentRead s j) := by
  unfold State.intentRead
  repeat' first
    | with_reducible exact Keeps.refl
    | with_reducible apply Keeps.step State.recordOpen_keeps
    | decide
    | split

theorem State.readPage_keeps {s : State} {u : UnitRead} {n : Nat} {q : PageRead} {m words : Nat} {again : Bool} :
    Keeps [.pcie, .regs, .media, .arriving] s (State.readPage s u n q m words again) := by
  unfold State.readPage
  try dsimp only
  repeat' first
    | with_reducible exact Keeps.refl
    | with_reducible apply Keeps.step State.submit_keeps
    | decide
    | split

theorem State.modUnitPage_keeps {s : State} {id n : Nat} {f : PageRead → PageRead} :
    Keeps [.media] s (State.modUnitPage s id n f) := by
  unfold State.modUnitPage
  try dsimp only
  repeat' first
    | with_reducible exact Keeps.refl
    | with_reducible apply Keeps.step State.modMedia_keeps
    | decide

theorem State.dropRead_keeps {s : State} {id : Nat} :
    Keeps [.media] s (State.dropRead s id) := by
  unfold State.dropRead
  try dsimp only
  repeat' first
    | with_reducible exact Keeps.refl
    | with_reducible apply Keeps.step State.modMedia_keeps
    | decide

theorem State.answerRange_keeps {s : State} {u : UnitRead} :
    Keeps [.mortar, .pcie, .regs] s (State.answerRange s u) := by
  unfold State.answerRange
  try dsimp only
  repeat' first
    | with_reducible exact Keeps.refl
    | with_reducible apply Keeps.step State.mortarOut_keeps
    | decide
    | split

theorem State.readFails_keeps {s : State} {u : UnitRead} {q : PageRead} :
    Keeps [.relief, .mortar, .pcie, .regs, .media, .arriving, .pwr] s (State.readFails s u q) := by
  unfold State.readFails
  try dsimp only
  repeat' first
    | with_reducible exact Keeps.refl
    | with_reducible apply Keeps.step State.mortarOut_keeps
    | with_reducible apply Keeps.step State.dieUncorr_keeps
    | with_reducible apply Keeps.step State.dropRead_keeps
    | decide

theorem State.pageRead_keeps {s : State} {u : UnitRead} {n : Nat} :
    Keeps [.mortar, .pcie, .regs, .media] s (State.pageRead s u n) := by
  unfold State.pageRead
  try dsimp only
  repeat' first
    | with_reducible exact Keeps.refl
    | with_reducible apply Keeps.step State.modUnitPage_keeps
    | with_reducible apply Keeps.step State.answerRange_keeps
    | with_reducible apply Keeps.step State.dropRead_keeps
    | decide
    | split

theorem State.toParity_keeps {s : State} {u : UnitRead} {n : Nat} {q : PageRead} {bad : Nat} :
    Keeps [.relief, .mortar, .pcie, .regs, .media, .arriving, .pwr] s (State.toParity s u n q bad) := by
  unfold State.toParity
  try dsimp only
  repeat' first
    | with_reducible exact Keeps.refl
    | with_reducible apply Keeps.step State.readFails_keeps
    | with_reducible apply Keeps.step State.modSb_keeps
    | with_reducible apply Keeps.step State.parityUsed_keeps
    | with_reducible apply Keeps.step State.readPage_keeps
    | with_reducible apply Keeps.step State.modUnitPage_keeps
    | (with_reducible apply Keeps.foldl; intro _ _; try dsimp only)
    | with_reducible apply Keeps.step Keeps.fresh_add
    | with_reducible apply Keeps.step Keeps.fresh_add2
    | decide
    | split

theorem State.memberRead_keeps {s : State} {u : UnitRead} {n : Nat} {q : PageRead} {m : Nat} :
    Keeps [.mortar, .pcie, .regs, .media] s (State.memberRead s u n q m) := by
  unfold State.memberRead
  try dsimp only
  repeat' first
    | with_reducible exact Keeps.refl
    | with_reducible apply Keeps.step State.pageRead_keeps
    | with_reducible apply Keeps.step State.modUnitPage_keeps
    | decide
    | split

theorem State.wordsUnread_keeps {s : State} {u : UnitRead} {n : Nat} {q : PageRead} {m bad : Nat} {again : Bool} :
    Keeps [.relief, .mortar, .pcie, .regs, .media, .arriving, .pwr] s (State.wordsUnread s u n q m bad again) := by
  unfold State.wordsUnread
  repeat' first
    | with_reducible exact Keeps.refl
    | with_reducible apply Keeps.step State.readPage_keeps
    | with_reducible apply Keeps.step State.toParity_keeps
    | with_reducible apply Keeps.step State.readFails_keeps
    | decide
    | split

theorem State.pageEnd_keeps {s : State} {u : UnitRead} {n m want good : Nat} {again : Bool} :
    Keeps [.relief, .mortar, .pcie, .regs, .media, .arriving, .pwr] s (State.pageEnd s u n m want good again) := by
  unfold State.pageEnd
  try dsimp only
  repeat' first
    | with_reducible exact Keeps.refl
    | with_reducible apply Keeps.step State.wordsUnread_keeps
    | with_reducible apply Keeps.step State.pageRead_keeps
    | with_reducible apply Keeps.step State.memberRead_keeps
    | decide
    | split

theorem State.unitReadEnd_keeps {s : State} {id n m : Nat} {j : ChJob} {e : DieEnd} :
    Keeps [.relief, .mortar, .pcie, .regs, .media, .arriving, .pwr] s (State.unitReadEnd s id n m j e) := by
  unfold State.unitReadEnd
  try dsimp only
  repeat' first
    | with_reducible exact Keeps.refl
    | with_reducible apply Keeps.step State.pageEnd_keeps
    | decide
    | split

theorem State.sweepReads_keeps {s : State} {n : Nat} :
    Keeps [.relief, .mortar, .pcie, .regs, .media, .arriving, .pwr] s (State.sweepReads s n) := by
  induction n generalizing s with
  | zero => exact .refl
  | succ n ih =>
    unfold State.sweepReads
    try dsimp only
    repeat' first
      | with_reducible apply Keeps.refl
      | with_reducible apply Keeps.step ih
      | with_reducible apply Keeps.step State.pageEnd_keeps
      | (with_reducible apply Keeps.foldl; intro _ _; try dsimp only)
      | decide
      | split

theorem State.readUnits_keeps {s : State} {u : UnitRead} :
    Keeps [.relief, .mortar, .pcie, .regs, .media, .arriving, .pwr] s (State.readUnits s u) := by
  unfold State.readUnits
  try dsimp only
  repeat' first
    | with_reducible exact Keeps.refl
    | with_reducible apply Keeps.step State.modMedia_keeps
    | with_reducible apply Keeps.step State.sweepReads_keeps
    | with_reducible apply Keeps.step State.readPage_keeps
    | (with_reducible apply Keeps.foldl; intro _ _; try dsimp only)
    | decide

theorem State.readFrag_keeps {s : State} {w : Wy} {h : MHead} {x : FragRec} {off len cookie cls : Nat} :
    Keeps [.relief, .mortar, .pcie, .regs, .media, .arriving, .pwr] s (State.readFrag s w h x off len cookie cls) := by
  unfold State.readFrag
  try dsimp only
  repeat' first
    | with_reducible exact Keeps.refl
    | with_reducible apply Keeps.step State.answerRange_keeps
    | with_reducible apply Keeps.step State.readUnits_keeps
    | decide
    | split

theorem State.doRangeRead_keeps {s : State} {w : Wy} {h : MHead} {f off len : Nat} {pend : Bool} {purpose : Purpose} {cookie : Nat} :
    Keeps [.relief, .mortar, .pcie, .regs, .media, .arriving, .pwr] s (State.doRangeRead s w h f off len pend purpose cookie) := by
  unfold State.doRangeRead
  try dsimp only
  repeat' first
    | with_reducible exact Keeps.refl
    | with_reducible apply Keeps.step State.mortarOut_keeps
    | with_reducible apply Keeps.step State.readFrag_keeps
    | decide
    | split

theorem execRangeRead_keeps {w : Wy} {h : MHead} {fragId offset length : Nat} {pend : Bool} {purpose : Purpose} {cookie : Nat} {s : State} :
    KeepsO [.relief, .clk, .mortar, .pcie, .regs, .heldMortar, .media, .arriving, .pwr] s (execRangeRead w h fragId offset length pend purpose cookie s) := by
  unfold execRangeRead
  try dsimp only
  repeat' first
    | with_reducible exact Keeps.refl
    | with_reducible apply State.mortarIn_keeps
    | with_reducible apply Keeps.step State.doRangeRead_keeps
    | (intro _; try dsimp only)
    | decide
    | with_reducible apply KeepsO.next

end Sys2Proof.Machine
end

