-- ==== Sys2Proof/Laws/KRefs.lean ====
section
/-! SUPPORT. What each operation of Refs.lean keeps. -/

-- One lemma after the other: many side by side hold too much memory when the package is one text.
set_option Elab.async false

namespace Sys2Proof.Machine

theorem State.modGroup_keeps {s : State} {g : Nat} {f : GroupRec → GroupRec} :
    Keeps [.refs] s (State.modGroup s g f) := by
  unfold State.modGroup
  try dsimp only
  repeat' first
    | with_reducible exact Keeps.refl
    | with_reducible apply Keeps.step State.modRefs_keeps
    | decide

theorem State.modImage_keeps {s : State} {g : Nat} {f : GroupImage → GroupImage} :
    Keeps [.refs] s (State.modImage s g f) := by
  unfold State.modImage
  try dsimp only
  repeat' first
    | with_reducible exact Keeps.refl
    | with_reducible apply Keeps.step State.modGroup_keeps
    | decide

theorem State.mirrorGroup_keeps {old s : State} {g : Nat} :
    Keeps [.mortar, .pcie, .regs] s (State.mirrorGroup old s g) := by
  unfold State.mirrorGroup
  try dsimp only
  repeat' first
    | with_reducible exact Keeps.refl
    | with_reducible apply Keeps.step State.mortarOut_keeps
    | (with_reducible apply Keeps.foldl; intro _ _; try dsimp only)
    | decide
    | split

theorem State.freeStripe_keeps {s : State} {w : Wy} {g stripe : Nat} :
    Keeps [.mortar, .pcie, .regs, .refs] s (State.freeStripe s w g stripe) := by
  unfold State.freeStripe
  try dsimp only
  repeat' first
    | with_reducible exact Keeps.refl
    | with_reducible apply Keeps.step State.modGroup_keeps
    | with_reducible apply Keeps.step State.mortarOut_keeps
    | with_reducible apply Keeps.step State.modImage_keeps
    | (with_reducible apply Keeps.foldl; intro _ _; try dsimp only)
    | decide

theorem State.startThin_keeps {s : State} {w : Wy} {g stripe : Nat} :
    Keeps [.mortar, .pcie, .regs, .refs] s (State.startThin s w g stripe) := by
  unfold State.startThin
  try dsimp only
  repeat' first
    | with_reducible exact Keeps.refl
    | with_reducible apply Keeps.step State.modGroup_keeps
    | with_reducible apply Keeps.step State.mortarOut_keeps
    | with_reducible apply Keeps.step State.modImage_keeps
    | (with_reducible apply Keeps.foldl; intro _ _; try dsimp only)
    | decide

theorem State.spaceCheck_keeps {s : State} {w : Wy} {g stripe old : Nat} :
    Keeps [.mortar, .pcie, .regs, .refs] s (State.spaceCheck s w g stripe old) := by
  unfold State.spaceCheck
  try dsimp only
  repeat' first
    | with_reducible exact Keeps.refl
    | with_reducible apply Keeps.step State.freeStripe_keeps
    | with_reducible apply Keeps.step State.startThin_keeps
    | decide
    | split

theorem execFragAck_keeps {w : Wy} {h : MHead} {fragId gen : Nat} {a : FAck} {s : State} :
    KeepsO [.clk, .mortar, .pcie, .regs, .wall, .stripes, .refs, .heldMortar, .media, .arriving] s (execFragAck w h fragId gen a s) := by
  unfold execFragAck
  try dsimp only
  repeat' first
    | with_reducible exact Keeps.refl
    | with_reducible apply Keeps.step State.mirrorGroup_keeps
    | with_reducible apply Keeps.step State.doFragAck_keeps
    | with_reducible apply State.mortarIn_keeps
    | with_reducible apply Keeps.step State.spaceCheck_keeps
    | (intro _; try dsimp only)
    | decide
    | with_reducible apply KeepsO.next

theorem State.freeIfDead_keeps {s : State} {w : Wy} {g : Nat} {fp : Bytes} :
    Keeps [.mortar, .pcie, .regs, .refs] s (State.freeIfDead s w g fp) := by
  unfold State.freeIfDead
  try dsimp only
  repeat' first
    | with_reducible exact Keeps.refl
    | with_reducible apply Keeps.step State.modGroup_keeps
    | with_reducible apply Keeps.step State.spaceCheck_keeps
    | with_reducible apply Keeps.step State.modImage_keeps
    | decide
    | split

theorem State.addPend_keeps {s : State} {w : Wy} {g home p : Nat} {rid : BitVec 64} {chunk : Nat} {fp : Bytes} :
    Keeps [.refs] s (State.addPend s w g home p rid chunk fp) := by
  unfold State.addPend
  try dsimp only
  repeat' first
    | with_reducible exact Keeps.refl
    | with_reducible apply Keeps.step State.modImage_keeps
    | decide
    | split

theorem State.lapse_keeps {s : State} {w : Wy} {g : Nat} {gone : PendRef → Bool} :
    Keeps [.mortar, .pcie, .regs, .refs] s (State.lapse s w g gone) := by
  unfold State.lapse
  try dsimp only
  repeat' first
    | with_reducible exact Keeps.refl
    | with_reducible apply Keeps.step State.freeIfDead_keeps
    | with_reducible apply Keeps.step State.modImage_keeps
    | (with_reducible apply Keeps.foldl; intro _ _; try dsimp only)
    | decide

theorem State.countUp_keeps {s : State} {w : Wy} {g : Nat} {e : FpEntry} :
    Keeps [.refs, .arriving] s (State.countUp s w g e) := by
  unfold State.countUp
  try dsimp only
  repeat' first
    | with_reducible exact Keeps.refl
    | with_reducible apply Keeps.step State.modImage_keeps
    | with_reducible apply Keeps.step State.recordOpen_keeps
    | decide
    | split

theorem State.openStripe_keeps {s : State} {w : Wy} {g len : Nat} :
    Keeps [.mortar, .pcie, .regs, .stripes, .refs] s (State.openStripe s w g len).1 := by
  unfold State.openStripe
  try dsimp only
  repeat' first
    | with_reducible exact Keeps.refl
    | with_reducible apply Keeps.step State.modGroup_keeps
    | with_reducible apply Keeps.step State.modStripes_keeps
    | with_reducible apply Keeps.step State.startSeal_keeps
    | decide
    | split
    | with_reducible apply Keeps.step Keeps.fresh_add
    | with_reducible apply Keeps.step Keeps.fresh_add2

theorem State.noteSeen_keeps {s : State} {g home p : Nat} {rid : BitVec 64} {chunk : Nat} {res : AckResult} {place : Place} :
    Keeps [.refs] s (State.noteSeen s g home p rid chunk res place) := by
  unfold State.noteSeen
  try dsimp only
  repeat' first
    | with_reducible exact Keeps.refl
    | with_reducible apply Keeps.step State.modGroup_keeps
    | decide

theorem State.placeRecord_keeps {s : State} {w : Wy} {home g p : Nat} {rid : BitVec 64} {chunk : Nat} {fp record : Bytes} :
    Keeps [.mortar, .pcie, .regs, .store, .stripes, .refs] s (State.placeRecord s w home g p rid chunk fp record) := by
  unfold State.placeRecord
  try dsimp only
  repeat' first
    | with_reducible exact Keeps.refl
    | with_reducible apply Keeps.step State.place_keeps
    | with_reducible apply Keeps.step State.mirrorGroup_keeps
    | with_reducible apply Keeps.step State.modGroup_keeps
    | with_reducible apply Keeps.step State.modStripe_keeps
    | with_reducible apply Keeps.step State.copyTo_keeps
    | with_reducible apply Keeps.step State.modImage_keeps
    | with_reducible apply Keeps.step State.noteSeen_keeps
    | with_reducible apply Keeps.step State.addPend_keeps
    | with_reducible apply Keeps.step State.openStripe_keeps
    | (with_reducible apply Keeps.foldl; intro _ _; try dsimp only)
    | decide
    | split

theorem State.doChunkPut_keeps {s : State} {w : Wy} {h : MHead} {g p : Nat} {rid : BitVec 64} {chunk : Nat} {record : Bytes} :
    Keeps [.mortar, .pcie, .regs, .store, .stripes, .refs] s (State.doChunkPut s w h g p rid chunk record) := by
  unfold State.doChunkPut
  try dsimp only
  repeat' first
    | with_reducible exact Keeps.refl
    | with_reducible apply Keeps.step State.mirrorGroup_keeps
    | with_reducible apply Keeps.step State.placeRecord_keeps
    | with_reducible apply Keeps.step State.modStripe_keeps
    | with_reducible apply Keeps.step State.mortarOut_keeps
    | with_reducible apply Keeps.step State.noteSeen_keeps
    | with_reducible apply Keeps.step State.addPend_keeps
    | decide
    | split

theorem State.orQueue_keeps {l : List Part} {s t : State} {g : Nat} {i : Instr} {f : State → State}
    (hl : within [.syncQueue] l = true) (hf : ∀ v, Keeps l v (f v)) (k : Keeps l s t) : Keeps l s (t.orQueue g i f) := by
  have hold : ∀ (v : State) (x : List (Nat × Instr)), Keeps [.syncQueue] v { v with syncQueue := x } := by
    intro v x
    apply Keeps.rec_ .refl
    intro p hp
    cases p <;> first | exact absurd (by decide) hp | exact rfl | exact ⟨rfl, rfl⟩
  unfold State.orQueue
  split
  · exact (hold _ _).step hl k
  · exact Keeps.app hf k

theorem execChunkPut_keeps {w : Wy} {h : MHead} {group p : Nat} {requestId : BitVec 64} {chunk : Nat} {record : Bytes} {s : State} :
    KeepsO [.clk, .mortar, .pcie, .regs, .store, .stripes, .refs, .heldMortar, .syncQueue] s (execChunkPut w h group p requestId chunk record s) := by
  unfold execChunkPut
  try dsimp only
  repeat' first
    | with_reducible exact Keeps.refl
    | with_reducible apply State.orQueue_keeps
    | with_reducible apply State.mortarIn_keeps
    | with_reducible apply Keeps.step State.doChunkPut_keeps
    | (intro _; try dsimp only)
    | decide
    | with_reducible apply KeepsO.next

theorem State.keepLost_keeps {s : State} {fp : Bytes} {stripe time : Nat} :
    Keeps [.health] s (State.keepLost s fp stripe time) := by
  unfold State.keepLost
  try dsimp only
  repeat' first
    | with_reducible exact Keeps.refl
    | (intro p hp; cases p <;> first | exact absurd (by decide) hp | (dsimp only [Part.same]; done) | (dsimp only [Part.same]; exact ⟨rfl, rfl⟩))
    | decide
    | split
    | with_reducible apply Keeps.rec_

theorem State.rangeReport_keeps {s : State} {w : Wy} {stripe off len : Nat} :
    Keeps [.mortar, .pcie, .regs, .stripes] s (State.rangeReport s w stripe off len) := by
  unfold State.rangeReport
  try dsimp only
  repeat' first
    | with_reducible exact Keeps.refl
    | with_reducible apply Keeps.step State.selfRebuild_keeps
    | with_reducible apply Keeps.step State.mortarOut_keeps
    | (with_reducible apply Keeps.foldl; intro _ _; try dsimp only)
    | decide
    | split

theorem State.doLostReport_keeps {s : State} {w : Wy} {stripe off len : Nat} {fps : List Bytes} {rangeOnly : Bool} :
    Keeps [.mortar, .pcie, .regs, .stripes, .refs, .health] s (State.doLostReport s w stripe off len fps rangeOnly) := by
  unfold State.doLostReport
  try dsimp only
  repeat' first
    | with_reducible exact Keeps.refl
    | with_reducible apply Keeps.step State.rangeReport_keeps
    | with_reducible apply Keeps.step State.keepLost_keeps
    | with_reducible apply Keeps.step State.modImage_keeps
    | (with_reducible apply Keeps.foldl; intro _ _; try dsimp only)
    | decide
    | split

theorem execLostReport_keeps {w : Wy} {h : MHead} {stripe offset length : Nat} {fps : List Bytes} {rangeOnly : Bool} {s : State} :
    KeepsO [.clk, .mortar, .pcie, .regs, .stripes, .refs, .heldMortar, .health] s (execLostReport w h stripe offset length fps rangeOnly s) := by
  unfold execLostReport
  try dsimp only
  repeat' first
    | with_reducible exact Keeps.refl
    | with_reducible apply Keeps.step State.mirrorGroup_keeps
    | with_reducible apply Keeps.step State.doLostReport_keeps
    | with_reducible apply State.mortarIn_keeps
    | (intro _; try dsimp only)
    | decide
    | with_reducible apply KeepsO.next

theorem State.applyDelta_keeps {s : State} {w : Wy} {g home p : Nat} {e : DeltaEntry} :
    Keeps [.mortar, .pcie, .regs, .refs, .arriving] s (State.applyDelta s w g home p e).1 := by
  unfold State.applyDelta
  try dsimp only
  repeat' first
    | with_reducible exact Keeps.refl
    | with_reducible apply Keeps.step State.lapse_keeps
    | with_reducible apply Keeps.step State.freeIfDead_keeps
    | with_reducible apply Keeps.step State.countUp_keeps
    | with_reducible apply Keeps.step State.modImage_keeps
    | with_reducible apply Keeps.step State.recordOpen_keeps
    | with_reducible apply Keeps.step State.addPend_keeps
    | (intro p hp; cases p <;> first | exact absurd (by decide) hp | (dsimp only [Part.same]; done) | (dsimp only [Part.same]; exact ⟨rfl, rfl⟩))
    | decide
    | split
    | with_reducible apply Keeps.rec_

theorem State.applyDeltas_keeps {s : State} {w : Wy} {g home p : Nat} {x1 : List DeltaEntry} :
    Keeps [.mortar, .pcie, .regs, .refs, .arriving] s (State.applyDeltas s w g home p x1).1 := by
  induction x1 generalizing s with
  | nil => exact .refl
  | cons a l ih =>
    unfold State.applyDeltas
    try dsimp only
    repeat' first
      | with_reducible apply Keeps.refl
      | with_reducible assumption
      | with_reducible apply Keeps.step ih
      | with_reducible apply Keeps.step State.applyDelta_keeps
      | decide
      | split

theorem State.endRecount_keeps {s : State} {w : Wy} {g : Nat} :
    Keeps [.mortar, .pcie, .regs, .refs] s (State.endRecount s w g) := by
  unfold State.endRecount
  try dsimp only
  repeat' first
    | with_reducible exact Keeps.refl
    | with_reducible apply Keeps.step State.modGroup_keeps
    | with_reducible apply Keeps.step State.freeIfDead_keeps
    | (with_reducible apply Keeps.foldl; intro _ _; try dsimp only)
    | decide
    | split

theorem State.doRefDelta_keeps {s : State} {w : Wy} {h : MHead} {p home g : Nat} {recount ended : Bool} {seq lwm : Nat} {entries : List DeltaEntry} :
    Keeps [.mortar, .pcie, .regs, .refs, .arriving] s (State.doRefDelta s w h p home g recount ended seq lwm entries) := by
  unfold State.doRefDelta
  try dsimp only
  repeat' first
    | with_reducible exact Keeps.refl
    | with_reducible apply Keeps.step State.mirrorGroup_keeps
    | with_reducible apply Keeps.step State.modGroup_keeps
    | with_reducible apply Keeps.step State.endRecount_keeps
    | with_reducible apply Keeps.step State.mortarOut_keeps
    | with_reducible apply Keeps.step State.modImage_keeps
    | with_reducible apply Keeps.step State.applyDeltas_keeps
    | decide
    | split

theorem execRefDelta_keeps {w : Wy} {h : MHead} {p home group : Nat} {recount ended : Bool} {seq lwm : Nat} {entries : List DeltaEntry} {s : State} :
    KeepsO [.clk, .mortar, .pcie, .regs, .refs, .heldMortar, .syncQueue, .arriving] s (execRefDelta w h p home group recount ended seq lwm entries s) := by
  unfold execRefDelta
  try dsimp only
  repeat' first
    | with_reducible exact Keeps.refl
    | with_reducible apply State.orQueue_keeps
    | with_reducible apply Keeps.step State.doRefDelta_keeps
    | with_reducible apply State.mortarIn_keeps
    | (intro _; try dsimp only)
    | decide
    | with_reducible apply KeepsO.next

theorem State.probed_keeps {s : State} {w : Wy} {b : DeltaBatch} {found : List Nat} :
    Keeps [.mortar, .pcie, .regs, .store, .refs] s (State.probed s w b found) := by
  unfold State.probed
  try dsimp only
  repeat' first
    | with_reducible exact Keeps.refl
    | with_reducible apply Keeps.step State.used_keeps
    | with_reducible apply Keeps.step State.stagedDone_keeps
    | with_reducible apply Keeps.step State.mortarOut_keeps
    | with_reducible apply Keeps.step State.modRefs_keeps
    | (with_reducible apply Keeps.foldl; intro _ _; try dsimp only)
    | decide
    | split

theorem State.doRefAck_keeps {s : State} {w : Wy} {h : MHead} {p : Nat} {a : RefRes} {seq : Nat} {found : List Nat} :
    Keeps [.mortar, .pcie, .regs, .store, .refs] s (State.doRefAck s w h p a seq found) := by
  unfold State.doRefAck
  try dsimp only
  repeat' first
    | with_reducible exact Keeps.refl
    | with_reducible apply Keeps.step State.probed_keeps
    | with_reducible apply Keeps.step State.sendBatch_keeps
    | with_reducible apply Keeps.step State.dropSubbed_keeps
    | with_reducible apply Keeps.step State.fetchState_keeps
    | with_reducible apply Keeps.step State.trySubs_keeps
    | with_reducible apply Keeps.step State.modRefs_keeps
    | decide
    | split

theorem execRefAck_keeps {w : Wy} {h : MHead} {p group : Nat} {r : RefRes} {seq missing : Nat} {found : List Nat} {s : State} :
    KeepsO [.clk, .mortar, .pcie, .regs, .store, .refs, .heldMortar] s (execRefAck w h p group r seq missing found s) := by
  unfold execRefAck
  try dsimp only
  repeat' first
    | with_reducible exact Keeps.refl
    | with_reducible apply Keeps.step State.doRefAck_keeps
    | with_reducible apply State.mortarIn_keeps
    | (intro _; try dsimp only)
    | decide
    | with_reducible apply KeepsO.next

theorem execDeltaBatchClose_keeps {p group : Nat} {s : State} :
    KeepsO [.mortar, .pcie, .regs, .refs] s (execDeltaBatchClose p group s) := by
  unfold execDeltaBatchClose
  try dsimp only
  repeat' first
    | with_reducible exact Keeps.refl
    | with_reducible apply Keeps.step State.sendBatch_keeps
    | (with_reducible apply Keeps.foldl; intro _ _; try dsimp only)
    | decide
    | with_reducible apply KeepsO.next

theorem State.doRefQuery_keeps {s : State} {w : Wy} {h : MHead} {p g : Nat} {rid : BitVec 64} {chunk : Nat} :
    Keeps [.mortar, .pcie, .regs, .refs] s (State.doRefQuery s w h p g rid chunk) := by
  unfold State.doRefQuery
  try dsimp only
  repeat' first
    | with_reducible exact Keeps.refl
    | with_reducible apply Keeps.step State.answerQueries_keeps
    | with_reducible apply Keeps.step State.modRefs_keeps
    | decide
    | split

theorem execRefQuery_keeps {w : Wy} {h : MHead} {p group : Nat} {requestId : BitVec 64} {chunk : Nat} {s : State} :
    KeepsO [.clk, .mortar, .pcie, .regs, .refs, .heldMortar] s (execRefQuery w h p group requestId chunk s) := by
  unfold execRefQuery
  try dsimp only
  repeat' first
    | with_reducible exact Keeps.refl
    | with_reducible apply Keeps.step State.doRefQuery_keeps
    | with_reducible apply State.mortarIn_keeps
    | (intro _; try dsimp only)
    | decide
    | with_reducible apply KeepsO.next

theorem State.doRefAnswer_keeps {s : State} {w : Wy} {p g : Nat} {rid : BitVec 64} {chunk : Nat} {claim : Bool} :
    Keeps [.mortar, .pcie, .regs, .refs] s (State.doRefAnswer s w p g rid chunk claim) := by
  unfold State.doRefAnswer
  try dsimp only
  repeat' first
    | with_reducible exact Keeps.refl
    | with_reducible apply Keeps.step State.lapse_keeps
    | decide
    | split

theorem execRefAnswer_keeps {w : Wy} {h : MHead} {p group : Nat} {requestId : BitVec 64} {chunk : Nat} {claim : Bool} {s : State} :
    KeepsO [.clk, .mortar, .pcie, .regs, .refs, .heldMortar] s (execRefAnswer w h p group requestId chunk claim s) := by
  unfold execRefAnswer
  try dsimp only
  repeat' first
    | with_reducible exact Keeps.refl
    | with_reducible apply Keeps.step State.mirrorGroup_keeps
    | with_reducible apply Keeps.step State.doRefAnswer_keeps
    | with_reducible apply State.mortarIn_keeps
    | (intro _; try dsimp only)
    | decide
    | with_reducible apply KeepsO.next

theorem execPendingRefAge_keeps {group p : Nat} {requestId : BitVec 64} {chunk : Nat} {s : State} :
    KeepsO [.mortar, .pcie, .regs, .refs] s (execPendingRefAge group p requestId chunk s) := by
  unfold execPendingRefAge
  try dsimp only
  repeat' first
    | with_reducible exact Keeps.refl
    | with_reducible apply Keeps.step State.modGroup_keeps
    | with_reducible apply Keeps.step State.toPart_keeps
    | decide
    | with_reducible apply KeepsO.next
    | split

theorem State.doIndexSyncReq_keeps {s : State} {w : Wy} {h : MHead} {g off len : Nat} :
    Keeps [.mortar, .pcie, .regs, .refs] s (State.doIndexSyncReq s w h g off len) := by
  unfold State.doIndexSyncReq
  try dsimp only
  repeat' first
    | with_reducible exact Keeps.refl
    | with_reducible apply Keeps.step State.modGroup_keeps
    | with_reducible apply Keeps.step State.mortarOut_keeps
    | decide
    | split

theorem State.askSync_keeps {s : State} {w : Wy} {g b off : Nat} :
    Keeps [.mortar, .pcie, .regs] s (State.askSync s w g b off) := by
  unfold State.askSync
  repeat' first
    | with_reducible exact Keeps.refl
    | with_reducible apply Keeps.step State.mortarOut_keeps
    | decide

theorem State.endThin_keeps {s : State} {w : Wy} {g stripe gen : Nat} {commit : Bool} :
    Keeps [.mortar, .pcie, .regs, .refs] s (State.endThin s w g stripe gen commit) := by
  unfold State.endThin
  try dsimp only
  repeat' first
    | with_reducible exact Keeps.refl
    | with_reducible apply Keeps.step State.modGroup_keeps
    | with_reducible apply Keeps.step State.modImage_keeps
    | with_reducible apply Keeps.step State.mortarOut_keeps
    | (with_reducible apply Keeps.foldl; intro _ _; try dsimp only)
    | decide

theorem State.abortThin_keeps {s : State} {w : Wy} {g stripe gen : Nat} :
    Keeps [.mortar, .pcie, .regs, .refs] s (State.abortThin s w g stripe gen) := by
  unfold State.abortThin
  repeat' first
    | with_reducible exact Keeps.refl
    | with_reducible apply Keeps.step State.endThin_keeps
    | (with_reducible apply Keeps.foldl; intro _ _; try dsimp only)
    | decide

theorem State.resendThin_keeps {s : State} {w : Wy} {g : Nat} {t : ThinRec} :
    Keeps [.mortar, .pcie, .regs] s (State.resendThin s w g t) := by
  unfold State.resendThin
  try dsimp only
  repeat' first
    | with_reducible exact Keeps.refl
    | with_reducible apply Keeps.step State.mortarOut_keeps
    | (with_reducible apply Keeps.foldl; intro _ _; try dsimp only)
    | decide
    | split

theorem State.becomeLead_keeps {s : State} {w : Wy} {g : Nat} :
    Keeps [.mortar, .pcie, .regs, .refs] s (State.becomeLead s w g) := by
  unfold State.becomeLead
  try dsimp only
  repeat' first
    | with_reducible exact Keeps.refl
    | with_reducible apply Keeps.step State.modGroup_keeps
    | with_reducible apply Keeps.step State.abortThin_keeps
    | (with_reducible apply Keeps.foldl; intro _ _; try dsimp only)
    | decide

theorem State.doIndexSync_keeps {s : State} {w : Wy} {src g : Nat} {holder : Bool} {off : Nat} {img : Option GroupImage} :
    Keeps [.mortar, .pcie, .regs, .refs] s (State.doIndexSync s w src g holder off img) := by
  unfold State.doIndexSync
  try dsimp only
  repeat' first
    | with_reducible exact Keeps.refl
    | with_reducible apply Keeps.step State.modGroup_keeps
    | with_reducible apply Keeps.step State.becomeLead_keeps
    | with_reducible apply Keeps.step State.askSync_keeps
    | decide
    | split

theorem execIndexSync_keeps {w : Wy} {h : MHead} {group : Nat} {holder : Bool} {offset total : Nat} {img : Option GroupImage} {s : State} :
    KeepsO [.clk, .mortar, .pcie, .regs, .refs, .heldMortar] s (execIndexSync w h group holder offset total img s) := by
  unfold execIndexSync
  try dsimp only
  repeat' first
    | with_reducible exact Keeps.refl
    | with_reducible apply State.mortarIn_keeps
    | with_reducible apply Keeps.step State.doIndexSync_keeps
    | (intro _; try dsimp only)
    | decide
    | with_reducible apply KeepsO.next

theorem State.recountRead_keeps {s : State} {g : Nat} :
    Keeps [.refs] s (State.recountRead s g) := by
  unfold State.recountRead
  try dsimp only
  repeat' first
    | with_reducible exact Keeps.refl
    | with_reducible apply Keeps.step State.modGroup_keeps
    | decide
    | split

theorem State.recountData_keeps {s : State} {f : Nat} {st : RStatus} {bytes : Bytes} :
    Keeps [.refs] s (State.recountData s f st bytes) := by
  unfold State.recountData
  try dsimp only
  repeat' first
    | with_reducible exact Keeps.refl
    | with_reducible apply Keeps.step State.modGroup_keeps
    | with_reducible apply Keeps.step State.recountRead_keeps
    | decide
    | split

theorem State.recountLead_keeps {s : State} {w : Wy} {g : Nat} :
    Keeps [.mortar, .pcie, .regs, .refs] s (State.recountLead s w g) := by
  unfold State.recountLead
  try dsimp only
  repeat' first
    | with_reducible exact Keeps.refl
    | with_reducible apply Keeps.step State.modGroup_keeps
    | with_reducible apply Keeps.step State.recountRead_keeps
    | with_reducible apply Keeps.step State.mortarOut_keeps
    | (with_reducible apply Keeps.foldl; intro _ _; try dsimp only)
    | decide

theorem State.recountHome_keeps {s : State} {g : Nat} :
    Keeps [.mortar, .pcie, .regs, .refs] s (State.recountHome s g) := by
  unfold State.recountHome
  try dsimp only
  repeat' first
    | with_reducible exact Keeps.refl
    | with_reducible apply Keeps.step State.sendBatch_keeps
    | with_reducible apply Keeps.step State.modRefs_keeps
    | with_reducible apply Keeps.step State.addDeltaTo_keeps
    | (with_reducible apply Keeps.foldl; intro _ _; try dsimp only)
    | decide

theorem execRecount_keeps {group : Nat} {s : State} :
    KeepsO [.mortar, .pcie, .regs, .refs] s (execRecount group s) := by
  unfold execRecount
  try dsimp only
  repeat' first
    | with_reducible exact Keeps.refl
    | with_reducible apply Keeps.step State.recountLead_keeps
    | with_reducible apply Keeps.step State.recountHome_keeps
    | decide
    | with_reducible apply KeepsO.next
    | split

theorem State.thinAck_keeps {s : State} {w : Wy} {to_ : Nat × Wy} {f gen : Nat} {r : ThinRes} :
    Keeps [.mortar, .pcie, .regs] s (State.thinAck s w to_ f gen r) := by
  unfold State.thinAck
  repeat' first
    | with_reducible exact Keeps.refl
    | with_reducible apply Keeps.step State.mortarOut_keeps
    | decide

theorem State.thinsDone_keeps {s : State} :
    Keeps [.mortar, .pcie, .regs, .stripes] s (State.thinsDone s) := by
  unfold State.thinsDone
  try dsimp only
  repeat' first
    | with_reducible exact Keeps.refl
    | with_reducible apply Keeps.step State.modFrag_keeps
    | with_reducible apply Keeps.step State.thinAck_keeps
    | (with_reducible apply Keeps.foldl; intro _ _; try dsimp only)
    | decide
    | split

theorem State.writeThin_keeps {s : State} {w : Wy} {x : FragRec} {gen : Nat} {bytes : Bytes} {holes : List Nat} {to_ : Nat × Wy} :
    Keeps [.mortar, .pcie, .regs, .stripes, .media, .arriving] s (State.writeThin s w x gen bytes holes to_) := by
  unfold State.writeThin
  try dsimp only
  repeat' first
    | with_reducible exact Keeps.refl
    | with_reducible apply Keeps.step State.modFrag_keeps
    | with_reducible apply Keeps.step State.mapHoles_keeps
    | with_reducible apply Keeps.step State.thinsDone_keeps
    | with_reducible apply Keeps.step State.writeFrag_keeps
    | decide

theorem State.thinDataHolder_keeps {s : State} {w : Wy} {x : FragRec} {gen : Nat} {units : List Nat} {to_ : Nat × Wy} :
    Keeps [.mortar, .pcie, .regs, .stripes, .media, .arriving] s (State.thinDataHolder s w x gen units to_) := by
  unfold State.thinDataHolder
  try dsimp only
  repeat' first
    | with_reducible exact Keeps.refl
    | with_reducible apply Keeps.step State.writeThin_keeps
    | with_reducible apply Keeps.step State.mortarOut_keeps
    | (with_reducible apply Keeps.foldl; intro _ _; try dsimp only)
    | decide
    | split

theorem State.thinParity_keeps {s : State} {w : Wy} {f : Nat} {to_ : Nat × Wy} :
    Keeps [.mortar, .pcie, .regs, .stripes, .media, .arriving] s (State.thinParity s w f to_) := by
  unfold State.thinParity
  try dsimp only
  repeat' first
    | with_reducible exact Keeps.refl
    | with_reducible apply Keeps.step State.writeThin_keeps
    | decide
    | split

theorem State.doStripeThin_keeps {s : State} {w : Wy} {h : MHead} {stripe old new : Nat} {marks : List (Nat × List Nat)} :
    Keeps [.mortar, .pcie, .regs, .stripes, .media, .arriving] s (State.doStripeThin s w h stripe old new marks) := by
  unfold State.doStripeThin
  try dsimp only
  repeat' first
    | with_reducible exact Keeps.refl
    | with_reducible apply Keeps.step State.modFrag_keeps
    | with_reducible apply Keeps.step State.thinDataHolder_keeps
    | with_reducible apply Keeps.step State.thinAck_keeps
    | with_reducible apply Keeps.step State.thinParity_keeps
    | (with_reducible apply Keeps.foldl; intro _ _; try dsimp only)
    | decide
    | split

theorem execStripeThin_keeps {w : Wy} {h : MHead} {stripe old new lead : Nat} {dead : List (Nat × List Nat)} {s : State} :
    KeepsO [.clk, .mortar, .pcie, .regs, .stripes, .heldMortar, .media, .arriving] s (execStripeThin w h stripe old new lead dead s) := by
  unfold execStripeThin
  try dsimp only
  repeat' first
    | with_reducible exact Keeps.refl
    | with_reducible apply Keeps.step State.doStripeThin_keeps
    | with_reducible apply State.mortarIn_keeps
    | (intro _; try dsimp only)
    | decide
    | with_reducible apply KeepsO.next

theorem State.doThinData_keeps {s : State} {w : Wy} {f gen : Nat} {units : List (Nat × Bytes)} :
    Keeps [.mortar, .pcie, .regs, .stripes, .media, .arriving] s (State.doThinData s w f gen units) := by
  unfold State.doThinData
  try dsimp only
  repeat' first
    | with_reducible exact Keeps.refl
    | with_reducible apply Keeps.step State.modFrag_keeps
    | with_reducible apply Keeps.step State.thinParity_keeps
    | (with_reducible apply Keeps.foldl; intro _ _; try dsimp only)
    | decide
    | split

theorem execThinData_keeps {w : Wy} {h : MHead} {fragId gen : Nat} {units : List (Nat × Bytes)} {s : State} :
    KeepsO [.clk, .mortar, .pcie, .regs, .stripes, .heldMortar, .media, .arriving] s (execThinData w h fragId gen units s) := by
  unfold execThinData
  try dsimp only
  repeat' first
    | with_reducible exact Keeps.refl
    | with_reducible apply Keeps.step State.doThinData_keeps
    | with_reducible apply State.mortarIn_keeps
    | (intro _; try dsimp only)
    | decide
    | with_reducible apply KeepsO.next

theorem State.doThinCommit_keeps {s : State} {w : Wy} {h : MHead} {stripe gen : Nat} {commit : Bool} :
    Keeps [.mortar, .pcie, .regs, .stripes, .media, .arriving] s (State.doThinCommit s w h stripe gen commit) := by
  unfold State.doThinCommit
  try dsimp only
  repeat' first
    | with_reducible exact Keeps.refl
    | with_reducible apply Keeps.step State.modFrag_keeps
    | with_reducible apply Keeps.step State.dropGen_keeps
    | with_reducible apply Keeps.step State.thinAck_keeps
    | (with_reducible apply Keeps.foldl; intro _ _; try dsimp only)
    | decide
    | split

theorem execThinCommit_keeps {w : Wy} {h : MHead} {stripe gen : Nat} {commit : Bool} {s : State} :
    KeepsO [.clk, .mortar, .pcie, .regs, .stripes, .heldMortar, .media, .arriving] s (execThinCommit w h stripe gen commit s) := by
  unfold execThinCommit
  try dsimp only
  repeat' first
    | with_reducible exact Keeps.refl
    | with_reducible apply Keeps.step State.doThinCommit_keeps
    | with_reducible apply State.mortarIn_keeps
    | (intro _; try dsimp only)
    | decide
    | with_reducible apply KeepsO.next

theorem State.doThinAck_keeps {s : State} {w : Wy} {f gen : Nat} {a : ThinRes} :
    Keeps [.mortar, .pcie, .regs, .refs] s (State.doThinAck s w f gen a) := by
  unfold State.doThinAck
  try dsimp only
  repeat' first
    | with_reducible exact Keeps.refl
    | with_reducible apply Keeps.step State.endThin_keeps
    | with_reducible apply Keeps.step State.modGroup_keeps
    | with_reducible apply Keeps.step State.abortThin_keeps
    | (with_reducible apply Keeps.foldl; intro _ _; try dsimp only)
    | decide
    | split

theorem execThinAck_keeps {w : Wy} {h : MHead} {fragId gen : Nat} {r : ThinRes} {s : State} :
    KeepsO [.clk, .mortar, .pcie, .regs, .refs, .heldMortar] s (execThinAck w h fragId gen r s) := by
  unfold execThinAck
  try dsimp only
  repeat' first
    | with_reducible exact Keeps.refl
    | with_reducible apply Keeps.step State.mirrorGroup_keeps
    | with_reducible apply Keeps.step State.doThinAck_keeps
    | with_reducible apply State.mortarIn_keeps
    | (intro _; try dsimp only)
    | decide
    | with_reducible apply KeepsO.next

theorem State.groupOnEpoch_keeps {s : State} {g : Nat} :
    Keeps [.mortar, .pcie, .regs, .refs] s (State.groupOnEpoch s g) := by
  unfold State.groupOnEpoch
  try dsimp only
  repeat' first
    | with_reducible exact Keeps.refl
    | with_reducible apply Keeps.step State.resendThin_keeps
    | with_reducible apply Keeps.step State.modGroup_keeps
    | with_reducible apply Keeps.step State.becomeLead_keeps
    | with_reducible apply Keeps.step State.askSync_keeps
    | with_reducible apply Keeps.step State.abortThin_keeps
    | (with_reducible apply Keeps.foldl; intro _ _; try dsimp only)
    | decide
    | split

theorem State.refsOnEpoch_keeps {s : State} :
    Keeps [.mortar, .pcie, .regs, .refs, .syncQueue] s (State.refsOnEpoch s) := by
  unfold State.refsOnEpoch
  try dsimp only
  repeat' first
    | with_reducible exact Keeps.refl
    | with_reducible apply Keeps.step State.modRefs_keeps
    | with_reducible apply Keeps.step State.sendBatch_keeps
    | with_reducible apply Keeps.step State.groupOnEpoch_keeps
    | (with_reducible apply Keeps.foldl; intro _ _; try dsimp only)
    | decide
    | (intro p hp; cases p <;> first | exact absurd (by decide) hp | (dsimp only [Part.same]; done) | (dsimp only [Part.same]; exact ⟨rfl, rfl⟩))
    | with_reducible apply Keeps.rec_

end Sys2Proof.Machine
end

