-- ==== Sys2Proof/Laws/KArmature.lean ====
section
/-! SUPPORT. What each operation of Armature.lean keeps. -/

-- One lemma after the other: many side by side hold too much memory when the package is one text.
set_option Elab.async false

namespace Sys2Proof.Machine

theorem State.modArm_keeps {s : State} {f : Armature → Armature} :
    Keeps [.wall] s (State.modArm s f) := by
  unfold State.modArm
  try dsimp only
  repeat' first
    | with_reducible exact Keeps.refl
    | with_reducible apply Keeps.step State.modWall_keeps
    | decide

theorem State.modBrick_keeps {s : State} {id : Nat} {f : BrickRec → BrickRec} :
    Keeps [.wall] s (State.modBrick s id f) := by
  unfold State.modBrick
  try dsimp only
  repeat' first
    | with_reducible exact Keeps.refl
    | with_reducible apply Keeps.step State.modWall_keeps
    | decide

theorem State.modMap_keeps {s : State} {f : PartMap → PartMap} :
    Keeps [.store] s (State.modMap s f) := by
  unfold State.modMap
  try dsimp only
  repeat' first
    | with_reducible exact Keeps.refl
    | with_reducible apply Keeps.step State.modStore_keeps
    | decide
    | split

theorem State.newEpoch_keeps {s : State} {f : PartMap → PartMap} :
    Keeps [.wall, .store] s (State.newEpoch s f) := by
  unfold State.newEpoch
  try dsimp only
  repeat' first
    | with_reducible exact Keeps.refl
    | with_reducible apply Keeps.step State.modWall_keeps
    | with_reducible apply Keeps.step State.modMap_keeps
    | decide

theorem State.setBrickState_keeps {s : State} {id : Nat} {st : BState} {enclosure rack : Nat} {serial : Bytes} :
    Keeps [.wall, .store] s (State.setBrickState s id st enclosure rack serial) := by
  unfold State.setBrickState
  try dsimp only
  repeat' first
    | with_reducible exact Keeps.refl
    | with_reducible apply Keeps.step State.modWall_keeps
    | with_reducible apply Keeps.step State.newEpoch_keeps
    | decide
    | split

theorem State.modCasts_keeps {s : State} {f : List Cast → List Cast} :
    Keeps [.wall, .store] s (State.modCasts s f) := by
  unfold State.modCasts
  try dsimp only
  repeat' first
    | with_reducible exact Keeps.refl
    | with_reducible apply Keeps.step State.modWall_keeps
    | with_reducible apply Keeps.step State.modStore_keeps
    | decide

theorem State.openWall_keeps {s : State} :
    Keeps [.wall, .store] s (State.openWall s) := by
  unfold State.openWall
  try dsimp only
  repeat' first
    | with_reducible exact Keeps.refl
    | with_reducible apply Keeps.step State.modWall_keeps
    | with_reducible apply Keeps.step State.modStore_keeps
    | decide

theorem State.applyChange_keeps {s : State} {c : ArmChange} :
    Keeps [.wall, .store] s (State.applyChange s c) := by
  unfold State.applyChange
  try dsimp only
  repeat' first
    | with_reducible exact Keeps.refl
    | with_reducible apply Keeps.step State.modWall_keeps
    | with_reducible apply Keeps.step State.modMap_keeps
    | with_reducible apply Keeps.step State.modCasts_keeps
    | with_reducible apply Keeps.step State.setBrickState_keeps
    | with_reducible apply Keeps.step State.modBrick_keeps
    | with_reducible apply Keeps.step State.modStore_keeps
    | with_reducible apply Keeps.step State.newEpoch_keeps
    | with_reducible apply Keeps.step State.openWall_keeps
    | with_reducible apply Keeps.step State.modArm_keeps
    | (with_reducible apply Keeps.foldl; intro _ _; try dsimp only)
    | decide
    | split

theorem State.mtrEvent_keeps {s : State} {n : Nat} :
    Keeps [.pcie, .regs] s (State.mtrEvent s n) := by
  unfold State.mtrEvent
  repeat' first
    | with_reducible exact Keeps.refl
    | with_reducible apply Keeps.step State.event_keeps
    | decide

theorem State.clearJoin_keeps {s : State} {bit : Nat} :
    Keeps [.regs, .active] s (State.clearJoin s bit) := by
  unfold State.clearJoin
  try dsimp only
  repeat' first
    | with_reducible exact Keeps.refl
    | with_reducible apply Keeps.step State.setReg_keeps
    | with_reducible apply Keeps.step State.setAct_keeps
    | (with_reducible apply Keeps.foldl; intro _ _; try dsimp only)
    | decide

theorem State.announceDrain_keeps {s : State} {w : Wy} {activation : Bool} {after : Nat} :
    Keeps [.relief, .pcie, .pwr] s (State.announceDrain s w activation after) := by
  unfold State.announceDrain
  try dsimp only
  repeat' first
    | with_reducible exact Keeps.refl
    | with_reducible apply Keeps.step State.handOut_keeps
    | with_reducible apply Keeps.step State.modRelief_keeps
    | (with_reducible apply Keeps.foldl; intro _ _; try dsimp only)
    | decide
    | split

theorem State.ownState_keeps {s : State} :
    Keeps [.relief, .mortar, .pcie, .regs, .active, .wall, .stripes, .pwr] s (State.ownState s) := by
  unfold State.ownState
  try dsimp only
  repeat' first
    | with_reducible exact Keeps.refl
    | with_reducible apply Keeps.step State.modWall_keeps
    | with_reducible apply Keeps.step State.catchUpAll_keeps
    | with_reducible apply Keeps.step State.stripesAfterStop_keeps
    | with_reducible apply Keeps.step State.announceDrain_keeps
    | with_reducible apply Keeps.step State.mtrEvent_keeps
    | with_reducible apply Keeps.step State.clearJoin_keeps
    | (with_reducible apply Keeps.foldl; intro _ _; try dsimp only)
    | decide
    | split

theorem State.applyStaged_keeps {s : State} :
    Keeps [.clk, .mortar, .pcie, .regs, .store, .refs] s (State.applyStaged s) := by
  unfold State.applyStaged
  try dsimp only
  repeat' first
    | with_reducible exact Keeps.refl
    | with_reducible apply Keeps.step State.modClk_keeps
    | with_reducible apply Keeps.step State.gcKey_keeps
    | with_reducible apply Keeps.step State.modStore_keeps
    | with_reducible apply Keeps.step State.modRefs_keeps
    | (with_reducible apply Keeps.foldl; intro _ _; try dsimp only)
    | decide
    | split

theorem State.syncLinks_keeps {s : State} :
    Keeps [.mortar, .pcie, .regs, .store, .refs] s (State.syncLinks s) := by
  unfold State.syncLinks
  try dsimp only
  repeat' first
    | with_reducible exact Keeps.refl
    | with_reducible apply Keeps.step State.addDeltas_keeps
    | with_reducible apply Keeps.step State.modStore_keeps
    | with_reducible apply Keeps.step State.modRefs_keeps
    | (with_reducible apply Keeps.foldl; intro _ _; try dsimp only)
    | decide
    | split

theorem State.syncKeys_keeps {old s : State} {w : Wy} :
    Keeps [.cip, .pcie, .regs, .media] s (State.syncKeys old s w) := by
  unfold State.syncKeys
  try dsimp only
  repeat' first
    | with_reducible exact Keeps.refl
    | with_reducible apply Keeps.step State.retireKey_keeps
    | with_reducible apply Keeps.step State.installKey_keeps
    | (with_reducible apply Keeps.foldl; intro _ _; try dsimp only)
    | decide
    | split

theorem State.noteArmature_keeps {s : State} :
    Keeps [.wall] s (State.noteArmature s) := by
  unfold State.noteArmature
  try dsimp only
  repeat' first
    | with_reducible exact Keeps.refl
    | with_reducible apply Keeps.step State.modWall_keeps
    | (with_reducible apply Keeps.foldl; intro _ _; try dsimp only)
    | decide
    | split

theorem State.announceCasts_keeps {s : State} :
    Keeps [.mortar, .pcie, .regs] s (State.announceCasts s) := by
  unfold State.announceCasts
  try dsimp only
  repeat' first
    | with_reducible exact Keeps.refl
    | with_reducible apply Keeps.step State.mortarOut_keeps
    | (with_reducible apply Keeps.foldl; intro _ _; try dsimp only)
    | decide

theorem State.ptpRoles_keeps {s : State} :
    Keeps [.mortar] s (State.ptpRoles s) := by
  unfold State.ptpRoles
  try dsimp only
  repeat' first
    | with_reducible exact Keeps.refl
    | with_reducible apply Keeps.step State.modMortar_keeps
    | decide
    | split

theorem State.epochStep_keeps {s : State} {new : Bool} :
    Keeps [.pcie, .regs] s (State.epochStep s new) := by
  unfold State.epochStep
  repeat' first
    | with_reducible exact Keeps.refl
    | with_reducible apply Keeps.step State.mtrEvent_keeps
    | decide
    | split

theorem State.mapStep_keeps {s : State} {maps first : Bool} :
    Keeps [.relief, .clk, .cip, .codec, .mortar, .pcie, .bpm, .ptp, .regs, .active, .wall, .store, .stripes, .refs, .jobRuns, .arriving, .pwr] s (State.mapStep s maps first) := by
  unfold State.mapStep
  repeat' first
    | with_reducible exact Keeps.refl
    | with_reducible apply Keeps.step State.onMap_keeps
    | with_reducible apply Keeps.step State.ownState_keeps
    | with_reducible apply Keeps.step State.announceCasts_keeps
    | decide
    | split

theorem State.stripeStep_keeps {s : State} {new : Bool} :
    Keeps [.mortar, .pcie, .regs, .stripes, .refs, .syncQueue] s (State.stripeStep s new) := by
  unfold State.stripeStep
  repeat' first
    | with_reducible exact Keeps.refl
    | with_reducible apply Keeps.step State.refsOnEpoch_keeps
    | with_reducible apply Keeps.step State.spillRebuilds_keeps
    | with_reducible apply Keeps.step State.sortRebuild_keeps
    | with_reducible apply Keeps.step State.stripesOnEpoch_keeps
    | decide
    | split

theorem State.bondStep_keeps {s : State} {new : Bool} :
    Keeps [.mortar, .pcie, .regs, .stripes] s (State.bondStep s new) := by
  unfold State.bondStep
  repeat' first
    | with_reducible exact Keeps.refl
    | with_reducible apply Keeps.step State.catchUpAll_keeps
    | decide
    | split

theorem State.castStep_keeps {old s : State} :
    Keeps [.mortar, .pcie, .regs, .store, .refs] s (State.castStep old s) := by
  unfold State.castStep
  try dsimp only
  repeat' first
    | with_reducible exact Keeps.refl
    | with_reducible apply Keeps.step State.gcKeyspace_keeps
    | with_reducible apply Keeps.step State.modStore_keeps
    | (with_reducible apply Keeps.foldl; intro _ _; try dsimp only)
    | decide

theorem State.afterState_keeps {old s : State} :
    Keeps [.relief, .clk, .cip, .codec, .mortar, .pcie, .bpm, .ptp, .regs, .active, .wall, .store, .stripes, .refs, .syncQueue, .media, .jobRuns, .arriving, .pwr] s (State.afterState old s) := by
  unfold State.afterState
  try dsimp only
  repeat' first
    | with_reducible exact Keeps.refl
    | with_reducible apply Keeps.step State.noteArmature_keeps
    | with_reducible apply Keeps.step State.syncLinks_keeps
    | with_reducible apply Keeps.step State.syncKeys_keeps
    | with_reducible apply Keeps.step State.epochStep_keeps
    | with_reducible apply Keeps.step State.bondStep_keeps
    | with_reducible apply Keeps.step State.stripeStep_keeps
    | with_reducible apply Keeps.step State.mapStep_keeps
    | with_reducible apply Keeps.step State.ptpRoles_keeps
    | with_reducible apply Keeps.step State.applyStaged_keeps
    | with_reducible apply Keeps.step State.castStep_keeps
    | decide

theorem State.propose_keeps {s : State} {c : ArmChange} :
    Keeps [.wall] s (State.propose s c) := by
  unfold State.propose
  try dsimp only
  repeat' first
    | with_reducible exact Keeps.refl
    | with_reducible apply Keeps.step State.modArm_keeps
    | decide
    | split

theorem State.proposeBrick_keeps {s : State} {b : BrickRec} {st : BState} :
    Keeps [.wall] s (State.proposeBrick s b st) := by
  unfold State.proposeBrick
  repeat' first
    | with_reducible exact Keeps.refl
    | with_reducible apply Keeps.step State.propose_keeps
    | decide

theorem State.react_keeps {s : State} :
    Keeps [.wall] s (State.react s) := by
  unfold State.react
  try dsimp only
  repeat' first
    | with_reducible exact Keeps.refl
    | with_reducible apply Keeps.step State.propose_keeps
    | with_reducible apply Keeps.step State.proposeBrick_keeps
    | decide
    | split

theorem State.castAnswer_keeps {s : State} {asks : List CastAsk} {ks : BitVec 32} {rid : BitVec 64} {st : Status} {v r : Nat} :
    Keeps [.mortar, .pcie, .regs] s (State.castAnswer s asks ks rid st v r) := by
  unfold State.castAnswer
  try dsimp only
  repeat' first
    | with_reducible exact Keeps.refl
    | with_reducible apply Keeps.step State.mortarOut_keeps
    | (with_reducible apply Keeps.foldl; intro _ _; try dsimp only)
    | decide

theorem State.drawKey_keeps {s : State} {old : Option Keyspace} {k : Keyspace} :
    Keeps [.wall] s (State.drawKey s old k) := by
  unfold State.drawKey
  try dsimp only
  repeat' first
    | with_reducible exact Keeps.refl
    | with_reducible apply Keeps.step State.drawn_keeps
    | with_reducible apply Keeps.step State.propose_keeps
    | decide
    | split

theorem State.pushSettings_keeps {s : State} :
    Keeps [.mortar, .pcie, .regs] s (State.pushSettings s) := by
  unfold State.pushSettings
  try dsimp only
  repeat' first
    | with_reducible exact Keeps.refl
    | with_reducible apply Keeps.step State.used_keeps
    | with_reducible apply Keeps.step State.mortarOut_keeps
    | (with_reducible apply Keeps.foldl; intro _ _; try dsimp only)
    | decide

theorem State.tellHomes_keeps {s : State} {r : ReplLink} :
    Keeps [.mortar, .pcie, .regs] s (State.tellHomes s r) := by
  unfold State.tellHomes
  try dsimp only
  repeat' first
    | with_reducible exact Keeps.refl
    | with_reducible apply Keeps.step State.mortarOut_keeps
    | (with_reducible apply Keeps.foldl; intro _ _; try dsimp only)
    | decide

theorem State.nextShip_keeps {s : State} {ks : BitVec 32} :
    Keeps [.mortar, .pcie, .regs, .refs] s (State.nextShip s ks) := by
  unfold State.nextShip
  try dsimp only
  repeat' first
    | with_reducible exact Keeps.refl
    | with_reducible apply Keeps.step State.tellHomes_keeps
    | with_reducible apply Keeps.step State.mortarOut_keeps
    | with_reducible apply Keeps.step State.modRefs_keeps
    | decide
    | split

theorem State.reportApplied_keeps {s : State} {id : Nat} {ks : BitVec 32} {t sourceCast : Nat} :
    Keeps [.mortar, .pcie, .regs, .refs] s (State.reportApplied s id ks t sourceCast) := by
  unfold State.reportApplied
  try dsimp only
  repeat' first
    | with_reducible exact Keeps.refl
    | with_reducible apply Keeps.step State.mortarOut_keeps
    | with_reducible apply Keeps.step State.modRefs_keeps
    | decide
    | split

theorem State.sendGrant_keeps {s : State} {j : JoinPend} :
    Keeps [.mortar, .pcie, .regs] s (State.sendGrant s j) := by
  unfold State.sendGrant
  repeat' first
    | with_reducible exact Keeps.refl
    | with_reducible apply Keeps.step State.drawn_keeps
    | with_reducible apply Keeps.step State.mortarTo_keeps
    | decide
    | split

theorem State.leaderDone_keeps {old s : State} {c : ArmChange} :
    Keeps [.relief, .mortar, .pcie, .bpm, .regs, .wall, .refs, .arriving, .pwr] s (State.leaderDone old s c) := by
  cases c <;> dsimp only [State.leaderDone]
  all_goals repeat' first
    | with_reducible exact Keeps.refl
    | with_reducible apply Keeps.step State.sendGrant_keeps
    | with_reducible apply Keeps.step State.modWall_keeps
    | with_reducible apply Keeps.step State.mortarOut_keeps
    | with_reducible apply Keeps.step State.answerAsked_keeps
    | with_reducible apply Keeps.step State.castAnswer_keeps
    | with_reducible apply Keeps.step State.pushSettings_keeps
    | with_reducible apply Keeps.step State.drawKey_keeps
    | with_reducible apply Keeps.step State.nextShip_keeps
    | with_reducible apply Keeps.step State.reportApplied_keeps
    | with_reducible apply Keeps.step State.recordOpen_keeps
    | (with_reducible apply Keeps.foldl; intro _ _; try dsimp only)
    | decide
    | split

theorem State.settle_keeps {s : State} {n : Nat} : Keeps [.relief, .mortar, .pcie, .bpm, .regs, .wall, .store, .refs, .arriving, .pwr] s (State.settle s n) := by
  induction n generalizing s with
  | zero => exact .refl
  | succ n ih =>
    unfold State.settle
    try dsimp only
    repeat' first
      | with_reducible apply Keeps.refl
      | with_reducible assumption
      | with_reducible apply Keeps.step ih
      | with_reducible apply Keeps.step State.leaderDone_keeps
      | with_reducible apply Keeps.step State.react_keeps
      | with_reducible apply Keeps.step State.applyChange_keeps
      | with_reducible apply Keeps.step State.modArm_keeps
      | (intro p hp; cases p <;> first | exact absurd (by decide) hp | (dsimp only [Part.same]; done) | (dsimp only [Part.same]; exact ⟨rfl, rfl⟩))
      | decide
      | split
      | with_reducible apply Keeps.rec_

theorem State.sendAppends_keeps {s : State} :
    Keeps [.mortar, .pcie, .regs] s (State.sendAppends s) := by
  unfold State.sendAppends
  try dsimp only
  repeat' first
    | with_reducible exact Keeps.refl
    | with_reducible apply Keeps.step State.mortarOut_keeps
    | (with_reducible apply Keeps.foldl; intro _ _; try dsimp only)
    | decide

theorem State.lead__keeps {s : State} :
    Keeps [.relief, .clk, .cip, .codec, .mortar, .pcie, .bpm, .ptp, .regs, .active, .wall, .store, .stripes, .refs, .syncQueue, .media, .jobRuns, .arriving, .pwr] s (State.lead_ s) := by
  unfold State.lead_
  try dsimp only
  repeat' first
    | with_reducible exact Keeps.refl
    | with_reducible apply Keeps.step State.react_keeps
    | with_reducible apply Keeps.step State.settle_keeps
    | with_reducible apply Keeps.step State.sendAppends_keeps
    | with_reducible apply Keeps.step State.afterState_keeps
    | decide
    | split

theorem State.takeAsk_keeps {s : State} {a : CastAsk} :
    Keeps [.mortar, .pcie, .regs, .wall] s (State.takeAsk s a) := by
  unfold State.takeAsk
  try dsimp only
  repeat' first
    | with_reducible exact Keeps.refl
    | with_reducible apply Keeps.step State.mortarOut_keeps
    | with_reducible apply Keeps.step State.modWall_keeps
    | with_reducible apply Keeps.step State.propose_keeps
    | decide
    | split

theorem State.castAsked_keeps {s : State} {a : CastAsk} :
    Keeps [.relief, .clk, .cip, .codec, .mortar, .pcie, .bpm, .ptp, .regs, .active, .wall, .store, .stripes, .refs, .syncQueue, .media, .jobRuns, .arriving, .pwr] s (State.castAsked s a) := by
  unfold State.castAsked
  try dsimp only
  repeat' first
    | with_reducible exact Keeps.refl
    | with_reducible apply Keeps.step State.modWall_keeps
    | with_reducible apply Keeps.step State.lead__keeps
    | with_reducible apply Keeps.step State.takeAsk_keeps
    | decide
    | split

theorem State.resumeCasts_keeps {s : State} :
    Keeps [.mortar, .pcie, .regs, .wall, .store] s (State.resumeCasts s) := by
  unfold State.resumeCasts
  try dsimp only
  repeat' first
    | with_reducible exact Keeps.refl
    | with_reducible apply Keeps.step State.modStore_keeps
    | with_reducible apply Keeps.step State.takeAsk_keeps
    | with_reducible apply Keeps.step State.announceCasts_keeps
    | (with_reducible apply Keeps.foldl; intro _ _; try dsimp only)
    | decide

theorem execArmAppendTimer_keeps {w : Wy} {s : State} :
    KeepsO [.relief, .clk, .cip, .codec, .mortar, .pcie, .bpm, .ptp, .regs, .active, .wall, .store, .stripes, .refs, .syncQueue, .media, .jobRuns, .arriving, .pwr] s (execArmAppendTimer w s) := by
  unfold execArmAppendTimer
  repeat' first
    | with_reducible exact Keeps.refl
    | with_reducible apply Keeps.step State.sendAppends_keeps
    | with_reducible apply Keeps.step State.lead__keeps
    | decide
    | with_reducible apply KeepsO.next
    | split

theorem State.seeTerm_keeps {s : State} {term : Nat} :
    Keeps [.mortar, .wall] s (State.seeTerm s term) := by
  unfold State.seeTerm
  try dsimp only
  repeat' first
    | with_reducible exact Keeps.refl
    | with_reducible apply Keeps.step State.ptpRoles_keeps
    | with_reducible apply Keeps.step State.modArm_keeps
    | decide
    | split

theorem State.armBase_keeps {s : State} :
    Keeps [.wall, .store] s (State.armBase s) := by
  unfold State.armBase
  try dsimp only
  repeat' first
    | with_reducible exact Keeps.refl
    | with_reducible apply Keeps.step State.modWall_keeps
    | with_reducible apply Keeps.step State.modStore_keeps
    | decide

theorem State.applyUpTo_keeps {s : State} {lo hi : Nat} :
    Keeps [.wall, .store] s (State.applyUpTo s lo hi) := by
  unfold State.applyUpTo
  try dsimp only
  repeat' first
    | with_reducible exact Keeps.refl
    | with_reducible apply Keeps.step State.applyChange_keeps
    | with_reducible apply Keeps.step State.armBase_keeps
    | with_reducible apply Keeps.step State.modArm_keeps
    | (with_reducible apply Keeps.foldl; intro _ _; try dsimp only)
    | decide
    | split

theorem State.doArmAppend_keeps {s : State} {w : Wy} {h : MHead} {term prev prevTerm commit : Nat} {entries : List LogEntry} :
    Keeps [.relief, .clk, .cip, .codec, .mortar, .pcie, .bpm, .ptp, .regs, .active, .wall, .store, .stripes, .refs, .syncQueue, .media, .jobRuns, .arriving, .pwr] s (State.doArmAppend s w h term prev prevTerm commit entries) := by
  unfold State.doArmAppend
  try dsimp only
  repeat' first
    | with_reducible exact Keeps.refl
    | with_reducible apply Keeps.step State.seeTerm_keeps
    | with_reducible apply Keeps.step State.applyUpTo_keeps
    | with_reducible apply Keeps.step State.mortarOut_keeps
    | with_reducible apply Keeps.step State.modArm_keeps
    | with_reducible apply Keeps.step State.afterState_keeps
    | decide
    | split

theorem execArmAppend_keeps {w : Wy} {h : MHead} {term _leader prevIndex prevTerm commit : Nat} {entries : List LogEntry} {s : State} :
    KeepsO [.relief, .clk, .cip, .codec, .mortar, .pcie, .bpm, .ptp, .regs, .active, .wall, .store, .stripes, .refs, .syncQueue, .media, .jobRuns, .arriving, .pwr] s (execArmAppend w h term _leader prevIndex prevTerm commit entries s) := by
  unfold execArmAppend
  try dsimp only
  repeat' first
    | with_reducible exact Keeps.refl
    | with_reducible apply Keeps.step State.doArmAppend_keeps
    | with_reducible apply State.mortarAny_keeps
    | (intro _; try dsimp only)
    | decide
    | with_reducible apply KeepsO.next

theorem State.doArmAppendAck_keeps {s : State} {src term : Nat} {ok : Bool} {matched : Nat} {silent : List Nat} :
    Keeps [.relief, .clk, .cip, .codec, .mortar, .pcie, .bpm, .ptp, .regs, .active, .wall, .store, .stripes, .refs, .syncQueue, .media, .jobRuns, .arriving, .pwr] s (State.doArmAppendAck s src term ok matched silent) := by
  unfold State.doArmAppendAck
  try dsimp only
  repeat' first
    | with_reducible exact Keeps.refl
    | with_reducible apply Keeps.step State.seeTerm_keeps
    | with_reducible apply Keeps.step State.sendAppends_keeps
    | with_reducible apply Keeps.step State.lead__keeps
    | with_reducible apply Keeps.step State.modArm_keeps
    | decide
    | split

theorem execArmAppendAck_keeps {w : Wy} {h : MHead} {term : Nat} {ok : Bool} {matched : Nat} {silent : List Nat} {s : State} :
    KeepsO [.relief, .clk, .cip, .codec, .mortar, .pcie, .bpm, .ptp, .regs, .active, .wall, .store, .stripes, .refs, .syncQueue, .media, .jobRuns, .arriving, .pwr] s (execArmAppendAck w h term ok matched silent s) := by
  unfold execArmAppendAck
  try dsimp only
  repeat' first
    | with_reducible exact Keeps.refl
    | with_reducible apply State.mortarAny_keeps
    | with_reducible apply Keeps.step State.doArmAppendAck_keeps
    | (intro _; try dsimp only)
    | decide
    | with_reducible apply KeepsO.next

theorem State.countVotes_keeps {s : State} :
    Keeps [.relief, .clk, .cip, .codec, .mortar, .pcie, .bpm, .ptp, .regs, .active, .wall, .store, .stripes, .refs, .syncQueue, .media, .jobRuns, .arriving, .pwr] s (State.countVotes s) := by
  unfold State.countVotes
  try dsimp only
  repeat' first
    | with_reducible exact Keeps.refl
    | with_reducible apply Keeps.step State.resumeCasts_keeps
    | with_reducible apply Keeps.step State.ptpRoles_keeps
    | with_reducible apply Keeps.step State.sendAppends_keeps
    | with_reducible apply Keeps.step State.lead__keeps
    | with_reducible apply Keeps.step State.modArm_keeps
    | decide
    | split

theorem execElectionTimeout_keeps {w : Wy} {s : State} :
    KeepsO [.relief, .clk, .cip, .codec, .mortar, .pcie, .bpm, .ptp, .regs, .active, .wall, .store, .stripes, .refs, .syncQueue, .media, .jobRuns, .arriving, .pwr] s (execElectionTimeout w s) := by
  unfold execElectionTimeout
  try dsimp only
  repeat' first
    | with_reducible exact Keeps.refl
    | with_reducible apply Keeps.step State.mortarOut_keeps
    | with_reducible apply Keeps.step State.countVotes_keeps
    | with_reducible apply Keeps.step State.modArm_keeps
    | (with_reducible apply Keeps.foldl; intro _ _; try dsimp only)
    | decide
    | with_reducible apply KeepsO.next
    | split

theorem State.doVoteReq_keeps {s : State} {w : Wy} {h : MHead} {term cand li lt : Nat} :
    Keeps [.mortar, .pcie, .regs, .wall] s (State.doVoteReq s w h term cand li lt) := by
  unfold State.doVoteReq
  try dsimp only
  repeat' first
    | with_reducible exact Keeps.refl
    | with_reducible apply Keeps.step State.seeTerm_keeps
    | with_reducible apply Keeps.step State.mortarOut_keeps
    | with_reducible apply Keeps.step State.modArm_keeps
    | decide
    | split

theorem execArmVoteReq_keeps {w : Wy} {h : MHead} {term candidate lastIndex lastTerm : Nat} {s : State} :
    KeepsO [.clk, .mortar, .pcie, .regs, .wall] s (execArmVoteReq w h term candidate lastIndex lastTerm s) := by
  unfold execArmVoteReq
  try dsimp only
  repeat' first
    | with_reducible exact Keeps.refl
    | with_reducible apply Keeps.step State.doVoteReq_keeps
    | with_reducible apply State.mortarAny_keeps
    | (intro _; try dsimp only)
    | decide
    | with_reducible apply KeepsO.next

theorem execArmVote_keeps {w : Wy} {h : MHead} {term : Nat} {granted : Bool} {s : State} :
    KeepsO [.relief, .clk, .cip, .codec, .mortar, .pcie, .bpm, .ptp, .regs, .active, .wall, .store, .stripes, .refs, .syncQueue, .media, .jobRuns, .arriving, .pwr] s (execArmVote w h term granted s) := by
  unfold execArmVote
  try dsimp only
  repeat' first
    | with_reducible exact Keeps.refl
    | with_reducible apply Keeps.step State.seeTerm_keeps
    | with_reducible apply State.mortarAny_keeps
    | with_reducible apply Keeps.step State.countVotes_keeps
    | with_reducible apply Keeps.step State.modArm_keeps
    | (intro _; try dsimp only)
    | decide
    | with_reducible apply KeepsO.next
    | split

theorem State.storeWallKey_keeps {s : State} {key : Bytes} {f : KsImage → KsImage} :
    Keeps [.cip, .plinth] s (State.storeWallKey s key f) := by
  unfold State.storeWallKey
  try dsimp only
  repeat' first
    | with_reducible exact Keeps.refl
    | with_reducible apply Keeps.step State.modCip_keeps
    | with_reducible apply Keeps.step State.writeKeys_keeps
    | (with_reducible apply Keeps.foldl; intro _ _; try dsimp only)
    | decide

theorem State.form_keeps {s : State} {w : Wy} :
    Keeps [.relief, .clk, .cip, .codec, .mortar, .pcie, .bpm, .ptp, .regs, .active, .wall, .store, .stripes, .refs, .syncQueue, .media, .jobRuns, .arriving, .plinth, .pwr] s (State.form s w) := by
  unfold State.form
  try dsimp only
  repeat' first
    | with_reducible exact Keeps.refl
    | with_reducible apply Keeps.step State.drawn_keeps
    | with_reducible apply Keeps.step State.storeWallKey_keeps
    | with_reducible apply Keeps.step State.ptpRoles_keeps
    | with_reducible apply Keeps.step State.modWall_keeps
    | with_reducible apply Keeps.step State.propose_keeps
    | with_reducible apply Keeps.step State.lead__keeps
    | decide
    | split

theorem execForm_keeps {w : Wy} {s : State} :
    KeepsO [.relief, .clk, .cip, .codec, .mortar, .pcie, .bpm, .ptp, .regs, .active, .wall, .store, .stripes, .refs, .syncQueue, .media, .jobRuns, .arriving, .plinth, .pwr] s (execForm w s) := by
  unfold execForm
  repeat' first
    | with_reducible exact Keeps.refl
    | with_reducible apply Keeps.step State.form_keeps
    | decide
    | with_reducible apply KeepsO.next
    | split

theorem State.join_keeps {s : State} {w : Wy} :
    Keeps [.mortar, .pcie, .regs, .wall] s (State.join s w) := by
  unfold State.join
  try dsimp only
  repeat' first
    | with_reducible exact Keeps.refl
    | with_reducible apply Keeps.step State.drawn_keeps
    | with_reducible apply Keeps.step State.modWall_keeps
    | with_reducible apply Keeps.step State.mortarOut_keeps
    | decide
    | split

theorem execJoin_keeps {w : Wy} {s : State} :
    KeepsO [.mortar, .pcie, .regs, .wall] s (execJoin w s) := by
  unfold execJoin
  repeat' first
    | with_reducible exact Keeps.refl
    | with_reducible apply Keeps.step State.join_keeps
    | decide
    | with_reducible apply KeepsO.next
    | split

theorem State.doJoinRequest_keeps {s : State} {w : Wy} {h : MHead} {r : JoinReq} :
    Keeps [.relief, .clk, .cip, .codec, .mortar, .pcie, .bpm, .ptp, .regs, .active, .wall, .store, .stripes, .refs, .syncQueue, .media, .jobRuns, .arriving, .pwr] s (State.doJoinRequest s w h r) := by
  unfold State.doJoinRequest
  try dsimp only
  repeat' first
    | with_reducible exact Keeps.refl
    | with_reducible apply Keeps.step State.mortarTo_keeps
    | with_reducible apply Keeps.step State.modWall_keeps
    | with_reducible apply Keeps.step State.propose_keeps
    | with_reducible apply Keeps.step State.mortarOut_keeps
    | with_reducible apply Keeps.step State.lead__keeps
    | decide
    | split

theorem execJoinRequest_keeps {w : Wy} {h : MHead} {r : JoinReq} {s : State} :
    KeepsO [.relief, .clk, .cip, .codec, .mortar, .pcie, .bpm, .ptp, .regs, .active, .wall, .store, .stripes, .refs, .syncQueue, .media, .jobRuns, .arriving, .pwr] s (execJoinRequest w h r s) := by
  unfold execJoinRequest
  try dsimp only
  repeat' first
    | with_reducible exact Keeps.refl
    | with_reducible apply State.mortarAny_keeps
    | with_reducible apply Keeps.step State.doJoinRequest_keeps
    | (intro _; try dsimp only)
    | decide
    | with_reducible apply KeepsO.next

theorem State.joinRefused_keeps {s : State} {r : JoinResult} :
    Keeps [.pcie, .regs, .active, .wall] s (State.joinRefused s r) := by
  unfold State.joinRefused
  try dsimp only
  repeat' first
    | with_reducible exact Keeps.refl
    | with_reducible apply Keeps.step State.modWall_keeps
    | with_reducible apply Keeps.step State.clearJoin_keeps
    | with_reducible apply Keeps.step State.mtrEvent_keeps
    | with_reducible apply Keeps.step State.setReg_keeps
    | decide
    | split

theorem State.discardStored_keeps {s : State} :
    Keeps [.pcie, .regs, .store, .stripes, .refs, .media, .arriving] s (State.discardStored s) := by
  unfold State.discardStored
  try dsimp only
  repeat' first
    | with_reducible exact Keeps.refl
    | with_reducible apply Keeps.step State.freeFrag_keeps
    | with_reducible apply Keeps.step State.modStore_keeps
    | with_reducible apply Keeps.step State.modRefs_keeps
    | with_reducible apply Keeps.step State.modStripes_keeps
    | (with_reducible apply Keeps.foldl; intro _ _; try dsimp only)
    | decide

theorem State.joinGranted_keeps {s : State} {w : Wy} {h : MHead} {r : JoinReq} {g : JoinGrant} {key : Bytes} :
    Keeps [.cip, .mortar, .pcie, .regs, .wall, .store, .stripes, .refs, .media, .arriving, .plinth] s (State.joinGranted s w h r g key) := by
  unfold State.joinGranted
  try dsimp only
  repeat' first
    | with_reducible exact Keeps.refl
    | with_reducible apply Keeps.step State.modWall_keeps
    | with_reducible apply Keeps.step State.modCip_keeps
    | with_reducible apply Keeps.step State.storeWallKey_keeps
    | with_reducible apply Keeps.step State.discardStored_keeps
    | with_reducible apply Keeps.step State.askState_keeps
    | (with_reducible apply Keeps.foldl; intro _ _; try dsimp only)
    | decide
    | split

theorem State.doJoinGrant_keeps {s : State} {w : Wy} {h : MHead} {g : JoinGrant} {certKey : Option Bytes} :
    Keeps [.cip, .mortar, .pcie, .regs, .active, .wall, .store, .stripes, .refs, .media, .arriving, .plinth] s (State.doJoinGrant s w h g certKey) := by
  unfold State.doJoinGrant
  repeat' first
    | with_reducible exact Keeps.refl
    | with_reducible apply Keeps.step State.unwrapFails_keeps
    | with_reducible apply Keeps.step State.joinRefused_keeps
    | with_reducible apply Keeps.step State.joinGranted_keeps
    | (with_reducible apply Keeps.foldl; intro _ _; try dsimp only)
    | decide
    | split

theorem execJoinGrant_keeps {w : Wy} {h : MHead} {g : JoinGrant} {certKey : Option Bytes} {s : State} :
    KeepsO [.clk, .cip, .mortar, .pcie, .regs, .active, .wall, .store, .stripes, .refs, .media, .arriving, .plinth] s (execJoinGrant w h g certKey s) := by
  unfold execJoinGrant
  try dsimp only
  repeat' first
    | with_reducible exact Keeps.refl
    | with_reducible apply State.mortarAny_keeps
    | with_reducible apply Keeps.step State.doJoinGrant_keeps
    | (intro _; try dsimp only)
    | decide
    | with_reducible apply KeepsO.next

theorem execJoinReadyTimeout_keeps {brick : Nat} {s : State} :
    KeepsO [.relief, .clk, .cip, .codec, .mortar, .pcie, .bpm, .ptp, .regs, .active, .wall, .store, .stripes, .refs, .syncQueue, .media, .jobRuns, .arriving, .pwr] s (execJoinReadyTimeout brick s) := by
  unfold execJoinReadyTimeout
  repeat' first
    | with_reducible exact Keeps.refl
    | with_reducible apply Keeps.step State.propose_keeps
    | with_reducible apply Keeps.step State.lead__keeps
    | decide
    | with_reducible apply KeepsO.next
    | split

theorem State.install_keeps {s : State} {p : StatePayload} :
    Keeps [.wall, .store] s (State.install s p) := by
  unfold State.install
  try dsimp only
  repeat' first
    | with_reducible exact Keeps.refl
    | with_reducible apply Keeps.step State.modWall_keeps
    | with_reducible apply Keeps.step State.modStore_keeps
    | decide
    | split

theorem State.noteOutcomes_keeps {s : State} {p : StatePayload} :
    Keeps [.store] s (State.noteOutcomes s p) := by
  unfold State.noteOutcomes
  try dsimp only
  repeat' first
    | with_reducible exact Keeps.refl
    | with_reducible apply Keeps.step State.modStore_keeps
    | (with_reducible apply Keeps.foldl; intro _ _; try dsimp only)
    | decide
    | split

theorem State.doStateData_keeps {s : State} {w : Wy} {h : MHead} {obj : StateObj} {status off len : Nat} {payload : Option StatePayload} :
    Keeps [.relief, .clk, .cip, .codec, .mortar, .pcie, .bpm, .ptp, .regs, .active, .wall, .store, .stripes, .refs, .syncQueue, .media, .jobRuns, .arriving, .pwr] s (State.doStateData s w h obj status off len payload) := by
  unfold State.doStateData
  try dsimp only
  repeat' first
    | with_reducible exact Keeps.refl
    | with_reducible apply Keeps.step State.openAfterCasts_keeps
    | with_reducible apply Keeps.step State.answerAsked_keeps
    | with_reducible apply Keeps.step State.noteOutcomes_keeps
    | with_reducible apply Keeps.step State.modWall_keeps
    | with_reducible apply Keeps.step State.mortarOut_keeps
    | with_reducible apply Keeps.step State.install_keeps
    | with_reducible apply Keeps.step State.askState_keeps
    | with_reducible apply Keeps.step State.afterState_keeps
    | decide
    | split

theorem State.sendHb_keeps {s : State} {w : Wy} :
    Keeps [.mortar, .pcie, .regs, .wall] s (State.sendHb s w) := by
  unfold State.sendHb
  try dsimp only
  repeat' first
    | with_reducible exact Keeps.refl
    | with_reducible apply Keeps.step State.modWall_keeps
    | with_reducible apply Keeps.step State.bump_keeps
    | with_reducible apply Keeps.step State.toArmature_keeps
    | with_reducible apply Keeps.step State.bumpBy_keeps
    | with_reducible apply Keeps.step State.modMortar_keeps
    | with_reducible apply Keeps.step State.event_keeps
    | decide
    | split

theorem execHeartbeatSend_keeps {w : Wy} {s : State} :
    KeepsO [.mortar, .pcie, .regs, .wall] s (execHeartbeatSend w s) := by
  unfold execHeartbeatSend
  repeat' first
    | with_reducible exact Keeps.refl
    | with_reducible apply Keeps.step State.sendHb_keeps
    | decide
    | with_reducible apply KeepsO.next
    | split

theorem State.spaceSum_keeps {s : State} :
    Keeps [.wall, .arriving] s (State.spaceSum s) := by
  unfold State.spaceSum
  try dsimp only
  repeat' first
    | with_reducible exact Keeps.refl
    | with_reducible apply Keeps.step State.modWall_keeps
    | with_reducible apply Keeps.step State.recordOpen_keeps
    | decide
    | split

theorem State.hbLead_keeps {s : State} {src : Nat} {b : HbBody} :
    Keeps [.relief, .clk, .cip, .codec, .mortar, .pcie, .bpm, .ptp, .regs, .active, .wall, .store, .stripes, .refs, .syncQueue, .media, .jobRuns, .arriving, .pwr] s (State.hbLead s src b) := by
  unfold State.hbLead
  try dsimp only
  repeat' first
    | with_reducible exact Keeps.refl
    | with_reducible apply Keeps.step State.propose_keeps
    | with_reducible apply Keeps.step State.lead__keeps
    | decide
    | split

theorem State.doHeartbeat_keeps {s : State} {w : Wy} {h : MHead} {b : HbBody} :
    Keeps [.relief, .clk, .cip, .codec, .mortar, .pcie, .bpm, .ptp, .regs, .active, .wall, .store, .stripes, .refs, .syncQueue, .media, .jobRuns, .arriving, .pwr] s (State.doHeartbeat s w h b) := by
  unfold State.doHeartbeat
  try dsimp only
  repeat' first
    | with_reducible exact Keeps.refl
    | with_reducible apply Keeps.step State.spaceSum_keeps
    | with_reducible apply Keeps.step State.mortarOut_keeps
    | with_reducible apply Keeps.step State.modBrick_keeps
    | with_reducible apply Keeps.step State.hbLead_keeps
    | decide
    | split

theorem execHeartbeat_keeps {w : Wy} {h : MHead} {b : HbBody} {s : State} :
    KeepsO [.relief, .clk, .cip, .codec, .mortar, .pcie, .bpm, .ptp, .regs, .active, .wall, .store, .stripes, .refs, .syncQueue, .media, .jobRuns, .arriving, .pwr] s (execHeartbeat w h b s) := by
  unfold execHeartbeat
  try dsimp only
  repeat' first
    | with_reducible exact Keeps.refl
    | with_reducible apply State.mortarAny_keeps
    | with_reducible apply Keeps.step State.doHeartbeat_keeps
    | (intro _; try dsimp only)
    | decide
    | with_reducible apply KeepsO.next

theorem State.doHeartbeatReply_keeps {s : State} {w : Wy} {h : MHead} {r : HbReply} :
    Keeps [.mortar, .pcie, .regs, .wall] s (State.doHeartbeatReply s w h r) := by
  unfold State.doHeartbeatReply
  extract_lets add s1 n s2
  have h1 : Keeps [.mortar, .pcie, .regs, .wall] s s1 := State.modWall_keeps.mono (by decide)
  clear_value s1
  have h2 : Keeps [.mortar, .pcie, .regs, .wall] s s2 := by
    dsimp only [s2]
    repeat' first
      | with_reducible apply Keeps.refl
      | with_reducible assumption
      | with_reducible apply Keeps.step State.modWall_keeps
      | with_reducible apply Keeps.step State.askState_keeps
      | (intro p hp; cases p <;> first | exact absurd (by decide) hp | (dsimp only [Part.same]; done) | (dsimp only [Part.same]; exact ⟨rfl, rfl⟩))
      | decide
      | split
      | with_reducible apply Keeps.rec_
  clear_value s2
  split
  · exact State.modWall_keeps.step (by decide) h2
  · try dsimp only
    repeat' first
      | with_reducible apply Keeps.refl
      | with_reducible assumption
      | with_reducible apply Keeps.step State.modWall_keeps
      | with_reducible apply Keeps.step State.askState_keeps
      | (intro p hp; cases p <;> first | exact absurd (by decide) hp | (dsimp only [Part.same]; done) | (dsimp only [Part.same]; exact ⟨rfl, rfl⟩))
      | decide
      | split
      | with_reducible apply Keeps.rec_

theorem execHeartbeatReply_keeps {w : Wy} {h : MHead} {r : HbReply} {s : State} :
    KeepsO [.clk, .mortar, .pcie, .regs, .wall] s (execHeartbeatReply w h r s) := by
  unfold execHeartbeatReply
  try dsimp only
  repeat' first
    | with_reducible exact Keeps.refl
    | with_reducible apply State.mortarAny_keeps
    | with_reducible apply Keeps.step State.doHeartbeatReply_keeps
    | (intro _; try dsimp only)
    | decide
    | with_reducible apply KeepsO.next

theorem execLossDelayExpiry_keeps {brick : Nat} {s : State} :
    KeepsO [.relief, .clk, .cip, .codec, .mortar, .pcie, .bpm, .ptp, .regs, .active, .wall, .store, .stripes, .refs, .syncQueue, .media, .jobRuns, .arriving, .pwr] s (execLossDelayExpiry brick s) := by
  unfold execLossDelayExpiry
  try dsimp only
  repeat' first
    | with_reducible exact Keeps.refl
    | with_reducible apply Keeps.step State.proposeBrick_keeps
    | with_reducible apply Keeps.step State.lead__keeps
    | decide
    | with_reducible apply KeepsO.next
    | split

theorem State.doRemoveNotice_keeps {s : State} {src : Nat} {k : RemoveKind} :
    Keeps [.relief, .clk, .cip, .codec, .mortar, .pcie, .bpm, .ptp, .regs, .active, .wall, .store, .stripes, .refs, .syncQueue, .media, .jobRuns, .arriving, .pwr] s (State.doRemoveNotice s src k) := by
  unfold State.doRemoveNotice
  try dsimp only
  repeat' first
    | with_reducible exact Keeps.refl
    | with_reducible apply Keeps.step State.modBrick_keeps
    | with_reducible apply Keeps.step State.proposeBrick_keeps
    | with_reducible apply Keeps.step State.lead__keeps
    | decide
    | split

theorem execRemoveNotice_keeps {w : Wy} {h : MHead} {k : RemoveKind} {s : State} :
    KeepsO [.relief, .clk, .cip, .codec, .mortar, .pcie, .bpm, .ptp, .regs, .active, .wall, .store, .stripes, .refs, .syncQueue, .media, .jobRuns, .arriving, .pwr] s (execRemoveNotice w h k s) := by
  unfold execRemoveNotice
  try dsimp only
  repeat' first
    | with_reducible exact Keeps.refl
    | with_reducible apply Keeps.step State.doRemoveNotice_keeps
    | with_reducible apply State.mortarAny_keeps
    | (intro _; try dsimp only)
    | decide
    | with_reducible apply KeepsO.next

theorem execPlannedMoveEnd_keeps {p : Nat} {s : State} :
    KeepsO [.relief, .clk, .cip, .codec, .mortar, .pcie, .bpm, .ptp, .regs, .active, .wall, .store, .stripes, .refs, .syncQueue, .media, .jobRuns, .arriving, .pwr] s (execPlannedMoveEnd p s) := by
  unfold execPlannedMoveEnd
  try dsimp only
  repeat' first
    | with_reducible exact Keeps.refl
    | with_reducible apply Keeps.step State.propose_keeps
    | with_reducible apply Keeps.step State.lead__keeps
    | with_reducible apply Keeps.step State.endMove_keeps
    | decide
    | with_reducible apply KeepsO.next
    | split

theorem State.doCastRequest_keeps {s : State} {h : MHead} {ks : BitVec 32} {t : Nat} {rid : BitVec 64} :
    Keeps [.relief, .clk, .cip, .codec, .mortar, .pcie, .bpm, .ptp, .regs, .active, .wall, .store, .stripes, .refs, .syncQueue, .media, .jobRuns, .arriving, .pwr] s (State.doCastRequest s h ks t rid) := by
  unfold State.doCastRequest
  repeat' first
    | with_reducible exact Keeps.refl
    | with_reducible apply Keeps.step State.castAsked_keeps
    | decide
    | split

theorem execCastRequest_keeps {w : Wy} {h : MHead} {keyspace : BitVec 32} {t : Nat} {requestId : BitVec 64} {s : State} :
    KeepsO [.relief, .clk, .cip, .codec, .mortar, .pcie, .bpm, .ptp, .regs, .active, .wall, .store, .stripes, .refs, .heldMortar, .syncQueue, .media, .jobRuns, .arriving, .pwr] s (execCastRequest w h keyspace t requestId s) := by
  unfold execCastRequest
  try dsimp only
  repeat' first
    | with_reducible exact Keeps.refl
    | with_reducible apply Keeps.step State.doCastRequest_keeps
    | with_reducible apply State.mortarIn_keeps
    | (intro _; try dsimp only)
    | decide
    | with_reducible apply KeepsO.next

theorem State.doCastConfirm_keeps {s : State} {src id : Nat} {held : Bool} :
    Keeps [.relief, .clk, .cip, .codec, .mortar, .pcie, .bpm, .ptp, .regs, .active, .wall, .store, .stripes, .refs, .syncQueue, .media, .jobRuns, .arriving, .pwr] s (State.doCastConfirm s src id held) := by
  unfold State.doCastConfirm
  try dsimp only
  repeat' first
    | with_reducible exact Keeps.refl
    | with_reducible apply Keeps.step State.propose_keeps
    | with_reducible apply Keeps.step State.lead__keeps
    | with_reducible apply Keeps.step State.modStore_keeps
    | decide
    | split

theorem execCastConfirm_keeps {w : Wy} {h : MHead} {id : Nat} {held : Bool} {s : State} :
    KeepsO [.relief, .clk, .cip, .codec, .mortar, .pcie, .bpm, .ptp, .regs, .active, .wall, .store, .stripes, .refs, .heldMortar, .syncQueue, .media, .jobRuns, .arriving, .pwr] s (execCastConfirm w h id held s) := by
  unfold execCastConfirm
  try dsimp only
  repeat' first
    | with_reducible exact Keeps.refl
    | with_reducible apply Keeps.step State.doCastConfirm_keeps
    | with_reducible apply State.mortarIn_keeps
    | (intro _; try dsimp only)
    | decide
    | with_reducible apply KeepsO.next

theorem execCastReady_keeps {castId : Nat} {s : State} :
    KeepsO [.relief, .clk, .cip, .codec, .mortar, .pcie, .bpm, .ptp, .regs, .active, .wall, .store, .stripes, .refs, .syncQueue, .media, .jobRuns, .arriving, .pwr] s (execCastReady castId s) := by
  unfold execCastReady
  try dsimp only
  repeat' first
    | with_reducible exact Keeps.refl
    | with_reducible apply Keeps.step State.propose_keeps
    | with_reducible apply Keeps.step State.lead__keeps
    | decide
    | with_reducible apply KeepsO.next
    | split

theorem execCastExpiry_keeps {castId : Nat} {s : State} :
    KeepsO [.relief, .clk, .cip, .codec, .mortar, .pcie, .bpm, .ptp, .regs, .active, .wall, .store, .stripes, .refs, .syncQueue, .media, .jobRuns, .arriving, .pwr] s (execCastExpiry castId s) := by
  unfold execCastExpiry
  try dsimp only
  repeat' first
    | with_reducible exact Keeps.refl
    | with_reducible apply Keeps.step State.propose_keeps
    | with_reducible apply Keeps.step State.lead__keeps
    | decide
    | with_reducible apply KeepsO.next
    | split

theorem State.doCastDropReq_keeps {s : State} {h : MHead} {id : Nat} {ks : BitVec 32} {rid : BitVec 64} :
    Keeps [.relief, .clk, .cip, .codec, .mortar, .pcie, .bpm, .ptp, .regs, .active, .wall, .store, .stripes, .refs, .syncQueue, .media, .jobRuns, .arriving, .pwr] s (State.doCastDropReq s h id ks rid) := by
  unfold State.doCastDropReq
  repeat' first
    | with_reducible exact Keeps.refl
    | with_reducible apply Keeps.step State.castAsked_keeps
    | decide
    | split

theorem execCastDropReq_keeps {w : Wy} {h : MHead} {id : Nat} {keyspace : BitVec 32} {requestId : BitVec 64} {s : State} :
    KeepsO [.relief, .clk, .cip, .codec, .mortar, .pcie, .bpm, .ptp, .regs, .active, .wall, .store, .stripes, .refs, .heldMortar, .syncQueue, .media, .jobRuns, .arriving, .pwr] s (execCastDropReq w h id keyspace requestId s) := by
  unfold execCastDropReq
  try dsimp only
  repeat' first
    | with_reducible exact Keeps.refl
    | with_reducible apply State.mortarIn_keeps
    | with_reducible apply Keeps.step State.doCastDropReq_keeps
    | (intro _; try dsimp only)
    | decide
    | with_reducible apply KeepsO.next

theorem execPtpMasterLoss_keeps {w : Wy} {s : State} :
    KeepsO [.mortar] s (execPtpMasterLoss w s) := by
  unfold execPtpMasterLoss
  try dsimp only
  repeat' first
    | with_reducible exact Keeps.refl
    | with_reducible apply Keeps.step State.modMortar_keeps
    | decide
    | with_reducible apply KeepsO.next
    | split

end Sys2Proof.Machine
end

