-- ==== Sys2Proof/Laws/KDump.lean ====
section
/-! SUPPORT. What each operation of Dump.lean keeps. -/

-- One lemma after the other: many side by side hold too much memory when the package is one text.
set_option Elab.async false

namespace Sys2Proof.Machine

theorem State.beginDump_keeps {s : State} {i : Nat} :
    Keeps [.media] s (State.beginDump s i) := by
  unfold State.beginDump
  try dsimp only
  repeat' first
    | with_reducible exact Keeps.refl
    | with_reducible apply Keeps.step State.modSet_keeps
    | decide

theorem State.dumpDone_keeps {s : State} {i : Nat} :
    Keeps [.media] s (State.dumpDone s i) := by
  unfold State.dumpDone
  try dsimp only
  repeat' first
    | with_reducible exact Keeps.refl
    | with_reducible apply Keeps.step State.modSet_keeps
    | decide

theorem State.moveReserve_keeps {s : State} {i die plane : Nat} :
    Keeps [.media] s (State.moveReserve s i die plane) := by
  unfold State.moveReserve
  try dsimp only
  repeat' first
    | with_reducible exact Keeps.refl
    | with_reducible apply Keeps.step State.modSet_keeps
    | decide
    | split

theorem State.retireOut_keeps {s : State} {i die plane block cause : Nat} :
    Keeps [.relief, .pcie, .regs, .media, .arriving, .pwr] s (State.retireOut s i die plane block cause) := by
  unfold State.retireOut
  try dsimp only
  repeat' first
    | with_reducible exact Keeps.refl
    | with_reducible apply Keeps.step State.moveReserve_keeps
    | with_reducible apply Keeps.step State.retireBlock_keeps
    | decide
    | split

theorem State.blocksErased_keeps {s : State} {i : Nat} {j : ChJob} {bad : List Nat} :
    Keeps [.relief, .pcie, .regs, .media, .arriving, .pwr] s (State.blocksErased s i j bad) := by
  unfold State.blocksErased
  try dsimp only
  repeat' first
    | with_reducible exact Keeps.refl
    | with_reducible apply Keeps.step State.modBlk_keeps
    | with_reducible apply Keeps.step State.anchorRec_keeps
    | with_reducible apply Keeps.step State.retireOut_keeps
    | (with_reducible apply Keeps.foldl; intro _ _; try dsimp only)
    | decide
    | split

theorem State.reserveDone_keeps {s : State} {i : Nat} :
    Keeps [.regs, .media] s (State.reserveDone s i) := by
  unfold State.reserveDone
  try dsimp only
  repeat' first
    | with_reducible exact Keeps.refl
    | with_reducible apply Keeps.step State.modSet_keeps
    | with_reducible apply Keeps.step State.medBits_keeps
    | decide
    | split

theorem State.freeErased_keeps {s : State} {i : Nat} {j : ChJob} {bad : List Nat} :
    Keeps [.relief, .pcie, .regs, .media, .arriving, .pwr] s (State.freeErased s i j bad) := by
  unfold State.freeErased
  repeat' first
    | with_reducible exact Keeps.refl
    | with_reducible apply Keeps.step State.reserveDone_keeps
    | with_reducible apply Keeps.step State.blocksErased_keeps
    | decide

theorem State.eraseReserve_keeps {s : State} {i die : Nat} :
    Keeps [.relief, .pcie, .regs, .media, .arriving, .pwr] s (State.eraseReserve s i die) := by
  unfold State.eraseReserve
  try dsimp only
  repeat' first
    | with_reducible exact Keeps.refl
    | with_reducible apply Keeps.step State.retireOut_keeps
    | with_reducible apply Keeps.step State.anchorRec_keeps
    | with_reducible apply Keeps.step State.modBlk_keeps
    | with_reducible apply Keeps.step State.submit_keeps
    | (with_reducible apply Keeps.foldl; intro _ _; try dsimp only)
    | decide
    | split

theorem State.dropImage_keeps {s : State} {i : Nat} :
    Keeps [.media] s (State.dropImage s i) := by
  unfold State.dropImage
  try dsimp only
  repeat' first
    | with_reducible exact Keeps.refl
    | with_reducible apply Keeps.step State.modSet_keeps
    | with_reducible apply Keeps.step State.mapDrop_keeps
    | decide
    | split

theorem State.writeImage_keeps {s : State} {i gen : Nat} :
    Keeps [.pcie, .regs, .media, .arriving] s (State.writeImage s i gen) := by
  unfold State.writeImage
  try dsimp only
  repeat' first
    | with_reducible exact Keeps.refl
    | with_reducible apply Keeps.step State.placeUnits_keeps
    | with_reducible apply Keeps.step State.modSet_keeps
    | with_reducible apply Keeps.step State.dropImage_keeps
    | decide

theorem State.reserveStep_keeps {s : State} {i : Nat} :
    Keeps [.relief, .pcie, .regs, .media, .arriving, .pwr] s (State.reserveStep s i) := by
  unfold State.reserveStep
  try dsimp only
  repeat' first
    | with_reducible exact Keeps.refl
    | with_reducible apply Keeps.step State.reserveDone_keeps
    | with_reducible apply Keeps.step State.eraseReserve_keeps
    | with_reducible apply Keeps.step State.modSet_keeps
    | (with_reducible apply Keeps.foldl; intro _ _; try dsimp only)
    | decide
    | split

theorem State.loseWindow_keeps {s : State} {w : Wy} {lostRecs : List (Nat × Nat)} {lostStripes : List Nat} :
    Keeps [.store, .stripes] s (State.loseWindow s w lostRecs lostStripes) := by
  unfold State.loseWindow
  try dsimp only
  repeat' first
    | with_reducible exact Keeps.refl
    | with_reducible apply Keeps.step State.modStore_keeps
    | with_reducible apply Keeps.step State.modStripes_keeps
    | decide

theorem State.windowFault_keeps {s : State} {w : Wy} :
    Keeps [.arriving] s (State.windowFault s w) := by
  unfold State.windowFault
  try dsimp only
  repeat' first
    | with_reducible exact Keeps.refl
    | with_reducible apply Keeps.step State.record_keeps
    | decide
    | split

theorem State.dumpLow_keeps {s : State} {i : Nat} :
    Keeps [.pcie, .regs] s (State.dumpLow s i) := by
  unfold State.dumpLow
  repeat' first
    | with_reducible exact Keeps.refl
    | with_reducible apply Keeps.step State.event_keeps
    | decide
    | split

theorem State.restoreWindow_keeps {s : State} {w : Wy} {lostRecs : List (Nat × Nat)} {lostStripes : List Nat} :
    Keeps [.pcie, .regs, .store, .stripes, .media, .arriving] s (State.restoreWindow s w lostRecs lostStripes) := by
  unfold State.restoreWindow
  try dsimp only
  repeat' first
    | with_reducible exact Keeps.refl
    | with_reducible apply Keeps.step State.writeImage_keeps
    | with_reducible apply Keeps.step State.windowFault_keeps
    | with_reducible apply Keeps.step State.loseWindow_keeps
    | with_reducible apply Keeps.step State.dumpLow_keeps
    | with_reducible apply Keeps.step State.modSet_keeps
    | decide
    | split

theorem State.resumeAges_keeps {s : State} {i : Nat} :
    Keeps [.media] s (State.resumeAges s i) := by
  unfold State.resumeAges
  try dsimp only
  repeat' first
    | with_reducible exact Keeps.refl
    | with_reducible apply Keeps.step State.modMedia_keeps
    | decide
    | split

theorem State.resumeSeq_keeps {s : State} {i : Nat} :
    Keeps [.media] s (State.resumeSeq s i) := by
  unfold State.resumeSeq
  try dsimp only
  repeat' first
    | with_reducible exact Keeps.refl
    | with_reducible apply Keeps.step State.modSet_keeps
    | decide

theorem State.loadSet_keeps {s : State} {i : Nat} :
    Keeps [.media] s (State.loadSet s i) := by
  unfold State.loadSet
  try dsimp only
  repeat' first
    | with_reducible exact Keeps.refl
    | with_reducible apply Keeps.step State.modSet_keeps
    | with_reducible apply Keeps.step State.resumeSeq_keeps
    | with_reducible apply Keeps.step State.resumeAges_keeps
    | decide

end Sys2Proof.Machine
end

