-- ==== Sys2Proof/Laws/KRebuild.lean ====
section
/-! SUPPORT. What each operation of Rebuild.lean keeps. -/

-- One lemma after the other: many side by side hold too much memory when the package is one text.
set_option Elab.async false

namespace Sys2Proof.Machine

theorem State.takeBudget_keeps {s : State} {tier bytes : Nat} :
    Keeps [.stripes] s (State.takeBudget s tier bytes) := by
  unfold State.takeBudget
  try dsimp only
  repeat' first
    | with_reducible exact Keeps.refl
    | with_reducible apply Keeps.step State.modStripes_keeps
    | decide

theorem State.modRebuild_keeps {s : State} {e : RebuildEnt} {g : RebuildEnt → RebuildEnt} :
    Keeps [.stripes] s (State.modRebuild s e g) := by
  unfold State.modRebuild
  try dsimp only
  repeat' first
    | with_reducible exact Keeps.refl
    | with_reducible apply Keeps.step State.modStripes_keeps
    | decide

theorem State.dropRebuild_keeps {s : State} {e : RebuildEnt} :
    Keeps [.stripes] s (State.dropRebuild s e) := by
  unfold State.dropRebuild
  try dsimp only
  repeat' first
    | with_reducible exact Keeps.refl
    | with_reducible apply Keeps.step State.modStripes_keeps
    | decide

theorem State.rangeLost_keeps {s : State} {w : Wy} {e : RebuildEnt} :
    Keeps [.mortar, .pcie, .regs, .stripes, .arriving] s (State.rangeLost s w e) := by
  unfold State.rangeLost
  try dsimp only
  repeat' first
    | with_reducible exact Keeps.refl
    | with_reducible apply Keeps.step State.reportLost_keeps
    | with_reducible apply Keeps.step State.dropRebuild_keeps
    | (with_reducible apply Keeps.foldl; intro _ _; try dsimp only)
    | decide

theorem State.keepRebuilt_keeps {s : State} {w : Wy} {e : RebuildEnt} {bytes : Bytes} :
    Keeps [.mortar, .pcie, .regs, .stripes, .media, .arriving] s (State.keepRebuilt s w e bytes) := by
  unfold State.keepRebuilt
  repeat' first
    | with_reducible exact Keeps.refl
    | with_reducible apply Keeps.step State.dropRebuild_keeps
    | with_reducible apply Keeps.step State.keepFrag_keeps
    | decide

theorem State.patchRange_keeps {s : State} {w : Wy} {e : RebuildEnt} {bytes : Bytes} :
    Keeps [.pcie, .regs, .stripes, .media, .arriving] s (State.patchRange s w e bytes) := by
  unfold State.patchRange
  try dsimp only
  repeat' first
    | with_reducible exact Keeps.refl
    | with_reducible apply Keeps.step State.dropRebuild_keeps
    | with_reducible apply Keeps.step State.modFrag_keeps
    | with_reducible apply Keeps.step State.placeUnits_keeps
    | decide
    | split

theorem State.rangeDecoded_keeps {s : State} {w : Wy} {e : RebuildEnt} :
    Keeps [.mortar, .pcie, .regs, .stripes, .media, .arriving] s (State.rangeDecoded s w e) := by
  unfold State.rangeDecoded
  try dsimp only
  repeat' first
    | with_reducible exact Keeps.refl
    | with_reducible apply Keeps.step State.galois_keeps
    | with_reducible apply Keeps.step State.patchRange_keeps
    | with_reducible apply Keeps.step State.keepRebuilt_keeps
    | with_reducible apply Keeps.step State.modRebuild_keeps
    | decide
    | split

theorem State.pumpRange_keeps {s : State} {w : Wy} {e : RebuildEnt} :
    Keeps [.mortar, .pcie, .regs, .stripes, .arriving] s (State.pumpRange s w e) := by
  unfold State.pumpRange
  try dsimp only
  repeat' first
    | with_reducible exact Keeps.refl
    | with_reducible apply Keeps.step State.rangeLost_keeps
    | with_reducible apply Keeps.step State.modRebuild_keeps
    | with_reducible apply Keeps.step State.mortarOut_keeps
    | (with_reducible apply Keeps.foldl; intro _ _; try dsimp only)
    | decide
    | split

theorem State.rebuildData_keeps {s : State} {w : Wy} {src f off : Nat} {st : RStatus} {holder : Nat} {bytes : Bytes} :
    Keeps [.mortar, .pcie, .regs, .stripes, .media, .arriving] s (State.rebuildData s w src f off st holder bytes) := by
  unfold State.rebuildData
  try dsimp only
  repeat' first
    | with_reducible exact Keeps.refl
    | with_reducible apply Keeps.step State.modRebuild_keeps
    | with_reducible apply Keeps.step State.rangeDecoded_keeps
    | with_reducible apply Keeps.step State.mortarOut_keeps
    | with_reducible apply Keeps.step State.pumpRange_keeps
    | decide
    | split

theorem State.startMove_keeps {s : State} {w : Wy} {e : RebuildEnt} {holder : Nat} :
    Keeps [.mortar, .pcie, .regs, .stripes] s (State.startMove s w e holder) := by
  unfold State.startMove
  try dsimp only
  repeat' first
    | with_reducible exact Keeps.refl
    | with_reducible apply Keeps.step State.mortarOut_keeps
    | with_reducible apply Keeps.step State.modRebuild_keeps
    | decide

theorem State.moveData_keeps {s : State} {w : Wy} {src f : Nat} {st : RStatus} {bytes : Bytes} :
    Keeps [.mortar, .pcie, .regs, .stripes, .media, .arriving] s (State.moveData s w src f st bytes) := by
  unfold State.moveData
  try dsimp only
  repeat' first
    | with_reducible exact Keeps.refl
    | with_reducible apply Keeps.step State.keepRebuilt_keeps
    | with_reducible apply Keeps.step State.modStripes_keeps
    | with_reducible apply Keeps.step State.modRebuild_keeps
    | decide
    | split

theorem execRebuildRange_keeps {w : Wy} {s : State} :
    KeepsO [.mortar, .pcie, .regs, .stripes, .media, .arriving] s (execRebuildRange w s) := by
  unfold execRebuildRange
  try dsimp only
  repeat' first
    | with_reducible exact Keeps.refl
    | with_reducible apply Keeps.step State.keepRebuilt_keeps
    | with_reducible apply Keeps.step State.startMove_keeps
    | with_reducible apply Keeps.step State.takeBudget_keeps
    | with_reducible apply Keeps.step State.pumpRange_keeps
    | decide
    | with_reducible apply KeepsO.next
    | split

end Sys2Proof.Machine
end

