-- ==== Sys2Proof/Laws/KRepl.lean ====
section
/-! SUPPORT. What each operation of Repl.lean keeps. -/

-- One lemma after the other: many side by side hold too much memory when the package is one text.
set_option Elab.async false

namespace Sys2Proof.Machine

theorem State.putLink_keeps {s : State} {l : LinkRec} :
    Keeps [.refs] s (State.putLink s l) := by
  unfold State.putLink
  try dsimp only
  repeat' first
    | with_reducible exact Keeps.refl
    | with_reducible apply Keeps.step State.modRefs_keeps
    | decide

theorem State.noteFar_keeps {s : State} {b : Nat} {addr : BitVec 128} :
    Keeps [.refs] s (State.noteFar s b addr) := by
  unfold State.noteFar
  try dsimp only
  repeat' first
    | with_reducible exact Keeps.refl
    | with_reducible apply Keeps.step State.modRefs_keeps
    | decide

theorem State.linkHello_keeps {s : State} {kind : LinkKind} {l : LinkRec} {e : Nat} :
    Keeps [.mortar, .pcie, .regs, .refs] s (State.linkHello s kind l e) := by
  unfold State.linkHello
  try dsimp only
  repeat' first
    | with_reducible exact Keeps.refl
    | with_reducible apply Keeps.step State.drawn_keeps
    | with_reducible apply Keeps.step State.putLink_keeps
    | with_reducible apply Keeps.step State.mortarOut_keeps
    | decide

theorem State.linkUp_keeps {s : State} {l : LinkRec} {secret : Bytes} :
    Keeps [.relief, .clk, .cip, .codec, .mortar, .pcie, .bpm, .ptp, .regs, .active, .wall, .store, .stripes, .refs, .syncQueue, .media, .jobRuns, .arriving, .pwr] s (State.linkUp s l secret) := by
  unfold State.linkUp
  try dsimp only
  repeat' first
    | with_reducible exact Keeps.refl
    | with_reducible apply Keeps.step State.lead__keeps
    | with_reducible apply Keeps.step State.propose_keeps
    | with_reducible apply Keeps.step State.putLink_keeps
    | decide
    | split

theorem State.refuseLink_keeps {s : State} {h : MHead} {l : LinkRec} :
    Keeps [.mortar, .pcie, .regs] s (State.refuseLink s h l) := by
  unfold State.refuseLink
  repeat' first
    | with_reducible exact Keeps.refl
    | with_reducible apply Keeps.step State.mortarOut_keeps
    | decide

theorem State.linkOffer_keeps {s : State} {h : MHead} {r : ReplLink} {certKey : Option Bytes} :
    Keeps [.relief, .clk, .cip, .codec, .mortar, .pcie, .bpm, .ptp, .regs, .active, .wall, .store, .stripes, .refs, .syncQueue, .media, .jobRuns, .arriving, .pwr] s (State.linkOffer s h r certKey) := by
  unfold State.linkOffer
  try dsimp only
  repeat' first
    | with_reducible exact Keeps.refl
    | with_reducible apply Keeps.step State.drawn_keeps
    | with_reducible apply Keeps.step State.refuseLink_keeps
    | with_reducible apply Keeps.step State.linkHello_keeps
    | with_reducible apply Keeps.step State.linkUp_keeps
    | decide
    | split

theorem State.linkAccept_keeps {s : State} {h : MHead} {r : ReplLink} {certKey : Option Bytes} :
    Keeps [.relief, .clk, .cip, .codec, .mortar, .pcie, .bpm, .ptp, .regs, .active, .wall, .store, .stripes, .refs, .syncQueue, .media, .jobRuns, .arriving, .pwr] s (State.linkAccept s h r certKey) := by
  unfold State.linkAccept
  try dsimp only
  repeat' first
    | with_reducible exact Keeps.refl
    | with_reducible apply Keeps.step State.refuseLink_keeps
    | with_reducible apply Keeps.step State.linkUp_keeps
    | with_reducible apply Keeps.step State.nextShip_keeps
    | decide
    | split

theorem State.castBegin_keeps {s : State} {r : ReplLink} :
    Keeps [.mortar, .pcie, .regs, .refs] s (State.castBegin s r) := by
  unfold State.castBegin
  try dsimp only
  repeat' first
    | with_reducible exact Keeps.refl
    | with_reducible apply Keeps.step State.offerAll_keeps
    | with_reducible apply Keeps.step State.modRefs_keeps
    | (with_reducible apply Keeps.foldl; intro _ _; try dsimp only)
    | decide
    | split

theorem State.castApplied_keeps {s : State} {r : ReplLink} :
    Keeps [.mortar, .pcie, .regs, .store, .refs] s (State.castApplied s r) := by
  unfold State.castApplied
  try dsimp only
  repeat' first
    | with_reducible exact Keeps.refl
    | with_reducible apply Keeps.step State.nextShip_keeps
    | with_reducible apply Keeps.step State.tellHomes_keeps
    | with_reducible apply Keeps.step State.gcKeyspace_keeps
    | with_reducible apply Keeps.step State.modRefs_keeps
    | decide
    | split

theorem State.doReplLink_keeps {s : State} {h : MHead} {r : ReplLink} {certKey : Option Bytes} :
    Keeps [.relief, .clk, .cip, .codec, .mortar, .pcie, .bpm, .ptp, .regs, .active, .wall, .store, .stripes, .refs, .syncQueue, .media, .jobRuns, .arriving, .pwr] s (State.doReplLink s h r certKey) := by
  unfold State.doReplLink
  try dsimp only
  repeat' first
    | with_reducible exact Keeps.refl
    | with_reducible apply Keeps.step State.noteFar_keeps
    | with_reducible apply Keeps.step State.mortarOut_keeps
    | with_reducible apply Keeps.step State.linkAccept_keeps
    | with_reducible apply Keeps.step State.linkOffer_keeps
    | with_reducible apply Keeps.step State.castBegin_keeps
    | with_reducible apply Keeps.step State.modRefs_keeps
    | with_reducible apply Keeps.step State.castApplied_keeps
    | decide
    | split

theorem execReplLink_keeps {w : Wy} {h : MHead} {r : ReplLink} {certKey : Option Bytes} {s : State} :
    KeepsO [.relief, .clk, .cip, .codec, .mortar, .pcie, .bpm, .ptp, .regs, .active, .wall, .store, .stripes, .refs, .syncQueue, .media, .jobRuns, .arriving, .pwr] s (execReplLink w h r certKey s) := by
  unfold execReplLink
  try dsimp only
  repeat' first
    | with_reducible exact Keeps.refl
    | with_reducible apply State.mortarAny_keeps
    | with_reducible apply Keeps.step State.doReplLink_keeps
    | (intro _; try dsimp only)
    | decide
    | with_reducible apply KeepsO.next

theorem State.offerLink_keeps {s : State} {l : LinkRec} {contact : BitVec 128} {e : Nat} :
    Keeps [.mortar, .pcie, .regs, .refs] s (State.offerLink s l contact e) := by
  unfold State.offerLink
  repeat' first
    | with_reducible exact Keeps.refl
    | with_reducible apply Keeps.step State.linkHello_keeps
    | with_reducible apply Keeps.step State.noteFar_keeps
    | decide

theorem execShipInterval_keeps {keyspace : BitVec 32} {s : State} :
    KeepsO [.relief, .clk, .cip, .codec, .mortar, .pcie, .bpm, .ptp, .regs, .active, .wall, .store, .stripes, .refs, .syncQueue, .media, .jobRuns, .arriving, .pwr] s (execShipInterval keyspace s) := by
  unfold execShipInterval
  try dsimp only
  repeat' first
    | with_reducible exact Keeps.refl
    | with_reducible apply Keeps.step State.drawn_keeps
    | with_reducible apply Keeps.step State.offerLink_keeps
    | with_reducible apply Keeps.step State.propose_keeps
    | with_reducible apply Keeps.step State.lead__keeps
    | with_reducible apply Keeps.step State.recordOpen_keeps
    | with_reducible apply Keeps.step State.modRefs_keeps
    | with_reducible apply Keeps.step State.putLink_keeps
    | decide
    | with_reducible apply KeepsO.next
    | split

theorem State.doReplNeed_keeps {s : State} {h : MHead} {p sourceCast : Nat} {fps : List Bytes} :
    Keeps [.relief, .cip, .codec, .mortar, .pcie, .bpm, .regs, .stripes, .refs, .jobRuns, .arriving, .pwr] s (State.doReplNeed s h p sourceCast fps) := by
  unfold State.doReplNeed
  try dsimp only
  repeat' first
    | with_reducible exact Keeps.refl
    | with_reducible apply Keeps.step State.startShip_keeps
    | (with_reducible apply Keeps.foldl; intro _ _; try dsimp only)
    | decide
    | split

theorem execReplNeed_keeps {w : Wy} {h : MHead} {p sourceCast seq : Nat} {fps : List Bytes} {s : State} :
    KeepsO [.relief, .clk, .cip, .codec, .mortar, .pcie, .bpm, .regs, .stripes, .refs, .jobRuns, .arriving, .pwr] s (execReplNeed w h p sourceCast seq fps s) := by
  unfold execReplNeed
  try dsimp only
  repeat' first
    | with_reducible exact Keeps.refl
    | with_reducible apply Keeps.step State.noteFar_keeps
    | with_reducible apply Keeps.step State.doReplNeed_keeps
    | with_reducible apply State.mortarAny_keeps
    | (intro _; try dsimp only)
    | decide
    | with_reducible apply KeepsO.next

theorem State.land_keeps {s : State} {w : Wy} {x : StagedRec} {chunk : Nat} {key : Option Nat} {fp : Bytes} {plain : Nat} {codec : Codec} {data aad : Bytes} :
    Keeps [.cip, .refs] s (State.land s w x chunk key fp plain codec data aad) := by
  unfold State.land
  try dsimp only
  repeat' first
    | with_reducible exact Keeps.refl
    | with_reducible apply Keeps.step State.modRefs_keeps
    | with_reducible apply Keeps.step State.queueCrypt_keeps
    | (with_reducible apply Keeps.foldl; intro _ _; try dsimp only)
    | decide

theorem State.landInline_keeps {s : State} {w : Wy} {x : StagedRec} {i : Nat} {k : OfferKey} :
    Keeps [.cip, .refs] s (State.landInline s w x i k) := by
  unfold State.landInline
  try dsimp only
  repeat' first
    | with_reducible exact Keeps.refl
    | with_reducible apply Keeps.step State.land_keeps
    | decide
    | split

theorem State.stagedThrough_keeps {s : State} {w : Wy} {h : MHead} {x : StagedRec} :
    Keeps [.mortar, .pcie, .regs] s (State.stagedThrough s w h x) := by
  unfold State.stagedThrough
  try dsimp only
  repeat' first
    | with_reducible exact Keeps.refl
    | with_reducible apply Keeps.step State.mortarOut_keeps
    | (with_reducible apply Keeps.foldl; intro _ _; try dsimp only)
    | decide
    | split

theorem State.doReplOffer_keeps {s : State} {w : Wy} {h : MHead} {p : Nat} {last : Bool} {ks : BitVec 32} {sourceCast seq : Nat} {keys : List OfferKey} :
    Keeps [.cip, .mortar, .pcie, .regs, .store, .refs] s (State.doReplOffer s w h p last ks sourceCast seq keys) := by
  unfold State.doReplOffer
  try dsimp only
  repeat' first
    | with_reducible exact Keeps.refl
    | with_reducible apply Keeps.step State.stagedThrough_keeps
    | with_reducible apply Keeps.step State.landInline_keeps
    | with_reducible apply Keeps.step State.addDeltas_keeps
    | with_reducible apply Keeps.step State.stagedDone_keeps
    | with_reducible apply Keeps.step State.modRefs_keeps
    | (with_reducible apply Keeps.foldl; intro _ _; try dsimp only)
    | decide
    | split

theorem execReplOffer_keeps {w : Wy} {h : MHead} {p : Nat} {last : Bool} {keyspace : BitVec 32} {sourceCast seq : Nat} {keys : List OfferKey} {s : State} :
    KeepsO [.clk, .cip, .mortar, .pcie, .regs, .store, .refs] s (execReplOffer w h p last keyspace sourceCast seq keys s) := by
  unfold execReplOffer
  try dsimp only
  repeat' first
    | with_reducible exact Keeps.refl
    | with_reducible apply Keeps.step State.noteFar_keeps
    | with_reducible apply State.mortarAny_keeps
    | with_reducible apply Keeps.step State.doReplOffer_keeps
    | (intro _; try dsimp only)
    | decide
    | with_reducible apply KeepsO.next

theorem State.doReplChunk_keeps {s : State} {w : Wy} {p sourceCast plain : Nat} {codec : Codec} {fp iv sealed : Bytes} :
    Keeps [.cip, .refs] s (State.doReplChunk s w p sourceCast plain codec fp iv sealed) := by
  unfold State.doReplChunk
  try dsimp only
  repeat' first
    | with_reducible exact Keeps.refl
    | with_reducible apply Keeps.step State.land_keeps
    | (with_reducible apply Keeps.foldl; intro _ _; try dsimp only)
    | decide
    | split

theorem execReplChunk_keeps {w : Wy} {h : MHead} {p sourceCast plain : Nat} {codec : Codec} {fp iv sealed : Bytes} {s : State} :
    KeepsO [.clk, .cip, .refs] s (execReplChunk w h p sourceCast plain codec fp iv sealed s) := by
  unfold execReplChunk
  try dsimp only
  repeat' first
    | with_reducible exact Keeps.refl
    | with_reducible apply State.mortarAny_keeps
    | with_reducible apply Keeps.step State.doReplChunk_keeps
    | (intro _; try dsimp only)
    | decide
    | with_reducible apply KeepsO.next

theorem State.nextOffer_keeps {s : State} {p sourceCast seq : Nat} {all : Bool} :
    Keeps [.mortar, .pcie, .regs] s (State.nextOffer s p sourceCast seq all) := by
  unfold State.nextOffer
  try dsimp only
  repeat' first
    | with_reducible exact Keeps.refl
    | with_reducible apply Keeps.step State.offerPart_keeps
    | decide
    | split

theorem State.doReplStaged_keeps {s : State} {p sourceCast : Nat} {all : Bool} :
    Keeps [.relief, .clk, .cip, .codec, .mortar, .pcie, .bpm, .ptp, .regs, .active, .wall, .store, .stripes, .refs, .syncQueue, .media, .jobRuns, .arriving, .pwr] s (State.doReplStaged s p sourceCast all) := by
  unfold State.doReplStaged
  try dsimp only
  repeat' first
    | with_reducible exact Keeps.refl
    | with_reducible apply Keeps.step State.propose_keeps
    | with_reducible apply Keeps.step State.lead__keeps
    | with_reducible apply Keeps.step State.modRefs_keeps
    | decide
    | split

theorem execReplStaged_keeps {w : Wy} {h : MHead} {p sourceCast seq : Nat} {all : Bool} {s : State} :
    KeepsO [.relief, .clk, .cip, .codec, .mortar, .pcie, .bpm, .ptp, .regs, .active, .wall, .store, .stripes, .refs, .syncQueue, .media, .jobRuns, .arriving, .pwr] s (execReplStaged w h p sourceCast seq all s) := by
  unfold execReplStaged
  try dsimp only
  repeat' first
    | with_reducible exact Keeps.refl
    | with_reducible apply Keeps.step State.nextOffer_keeps
    | with_reducible apply Keeps.step State.doReplStaged_keeps
    | with_reducible apply State.mortarAny_keeps
    | (intro _; try dsimp only)
    | decide
    | with_reducible apply KeepsO.next

theorem State.doRangeData_keeps {s : State} {w : Wy} {src f off : Nat} {st : RStatus} {holder cookie : Nat} {bytes : Bytes} :
    Keeps [.relief, .cip, .codec, .mortar, .pcie, .bpm, .regs, .stripes, .refs, .media, .jobRuns, .arriving, .pwr] s (State.doRangeData s w src f off st holder cookie bytes) := by
  unfold State.doRangeData
  try dsimp only
  repeat' first
    | with_reducible exact Keeps.refl
    | with_reducible apply Keeps.step State.rebuildData_keeps
    | with_reducible apply Keeps.step State.repairData_keeps
    | with_reducible apply Keeps.step State.pullData_keeps
    | with_reducible apply Keeps.step State.rangeToRead_keeps
    | with_reducible apply Keeps.step State.recountData_keeps
    | with_reducible apply Keeps.step State.moveData_keeps
    | decide
    | split

theorem execRangeData_keeps {w : Wy} {h : MHead} {fragId offset length : Nat} {st : RStatus} {holder cookie : Nat} {bytes : Bytes} {s : State} :
    KeepsO [.relief, .clk, .cip, .codec, .mortar, .pcie, .bpm, .regs, .stripes, .refs, .heldMortar, .media, .jobRuns, .arriving, .pwr] s (execRangeData w h fragId offset length st holder cookie bytes s) := by
  unfold execRangeData
  try dsimp only
  repeat' first
    | with_reducible exact Keeps.refl
    | with_reducible apply Keeps.step State.doRangeData_keeps
    | with_reducible apply State.mortarIn_keeps
    | (intro _; try dsimp only)
    | decide
    | with_reducible apply KeepsO.next

theorem nextOf_keeps {l : List Part} {s : State} {o : Host.Outcome State Fault Refusal} (h : KeepsO l s o) : Keeps l s (nextOf s o) := by
  unfold nextOf
  split
  · exact h.of _ rfl
  · exact .refl

theorem State.runHeld_keeps {s : State} {i : Instr} : Keeps [.relief, .clk, .cip, .codec, .mortar, .pcie, .bpm, .ptp, .regs, .active, .wall, .store, .stripes, .refs, .heldMortar, .syncQueue, .media, .jobRuns, .arriving, .health, .pwr] s (State.runHeld s i) := by
  unfold State.runHeld
  split
  · exact (nextOf_keeps execChunkAck_keeps).mono (by decide)
  · exact (nextOf_keeps execIndexPut_keeps).mono (by decide)
  · exact (nextOf_keeps execIndexAck_keeps).mono (by decide)
  · exact (nextOf_keeps execRangeData_keeps).mono (by decide)
  · exact (nextOf_keeps execPartCollect_keeps).mono (by decide)
  · exact (nextOf_keeps execPartRecords_keeps).mono (by decide)
  · exact (nextOf_keeps execPartHandover_keeps).mono (by decide)
  · exact (nextOf_keeps execClosedTime_keeps).mono (by decide)
  · exact (nextOf_keeps execCastRequest_keeps).mono (by decide)
  · exact (nextOf_keeps execCastAnnounce_keeps).mono (by decide)
  · exact (nextOf_keeps execCastConfirm_keeps).mono (by decide)
  · exact (nextOf_keeps execCastDone_keeps).mono (by decide)
  · exact (nextOf_keeps execCastDropReq_keeps).mono (by decide)
  · exact (nextOf_keeps execChunkPut_keeps).mono (by decide)
  · exact (nextOf_keeps execJournalCopy_keeps).mono (by decide)
  · exact (nextOf_keeps execJournalAck_keeps).mono (by decide)
  · exact (nextOf_keeps execStripeSeal_keeps).mono (by decide)
  · exact (nextOf_keeps execFragPut_keeps).mono (by decide)
  · exact (nextOf_keeps execFragAck_keeps).mono (by decide)
  · exact (nextOf_keeps execSealCommit_keeps).mono (by decide)
  · exact (nextOf_keeps execRangeRead_keeps).mono (by decide)
  · exact (nextOf_keeps execStripeListReq_keeps).mono (by decide)
  · exact (nextOf_keeps execStripeList_keeps).mono (by decide)
  · exact (nextOf_keeps execJournalStateReq_keeps).mono (by decide)
  · exact (nextOf_keeps execJournalState_keeps).mono (by decide)
  · exact (nextOf_keeps execLostReport_keeps).mono (by decide)
  · exact (nextOf_keeps execFragRelease_keeps).mono (by decide)
  · exact (nextOf_keeps execRefDelta_keeps).mono (by decide)
  · exact (nextOf_keeps execRefAck_keeps).mono (by decide)
  · exact (nextOf_keeps execRefQuery_keeps).mono (by decide)
  · exact (nextOf_keeps execRefAnswer_keeps).mono (by decide)
  · exact State.mortarIn_keeps (by decide) (fun _ => State.doIndexSyncReq_keeps.mono (by decide)) .refl
  · exact (nextOf_keeps execIndexSync_keeps).mono (by decide)
  · exact (nextOf_keeps execStripeThin_keeps).mono (by decide)
  · exact (nextOf_keeps execThinData_keeps).mono (by decide)
  · exact (nextOf_keeps execThinAck_keeps).mono (by decide)
  · exact (nextOf_keeps execThinCommit_keeps).mono (by decide)
  · exact .refl

theorem State.releaseSync_keeps {s : State} {g : Nat} :
    Keeps [.relief, .clk, .cip, .codec, .mortar, .pcie, .bpm, .ptp, .regs, .active, .wall, .store, .stripes, .refs, .heldMortar, .syncQueue, .media, .jobRuns, .arriving, .health, .pwr] s (State.releaseSync s g) := by
  unfold State.releaseSync
  try dsimp only
  repeat' first
    | with_reducible exact Keeps.refl
    | with_reducible apply Keeps.step State.runHeld_keeps
    | (with_reducible apply Keeps.foldl; intro _ _; try dsimp only)
    | (intro p hp; cases p <;> first | exact absurd (by decide) hp | (dsimp only [Part.same]; done) | (dsimp only [Part.same]; exact ⟨rfl, rfl⟩))
    | decide
    | split
    | with_reducible apply Keeps.rec_

theorem State.releaseHeld_keeps {s : State} :
    Keeps [.relief, .clk, .cip, .codec, .mortar, .pcie, .bpm, .ptp, .regs, .active, .wall, .store, .stripes, .refs, .heldMortar, .syncQueue, .media, .jobRuns, .arriving, .health, .pwr] s (State.releaseHeld s) := by
  unfold State.releaseHeld
  try dsimp only
  repeat' first
    | with_reducible exact Keeps.refl
    | with_reducible apply Keeps.step State.runHeld_keeps
    | with_reducible apply Keeps.step State.releaseSync_keeps
    | (with_reducible apply Keeps.foldl; intro _ _; try dsimp only)
    | (intro p hp; cases p <;> first | exact absurd (by decide) hp | (dsimp only [Part.same]; done) | (dsimp only [Part.same]; exact ⟨rfl, rfl⟩))
    | decide
    | with_reducible apply Keeps.rec_

theorem execIndexSyncReq_keeps {w : Wy} {h : MHead} {group offset length : Nat} {s : State} :
    KeepsO [.relief, .clk, .cip, .codec, .mortar, .pcie, .bpm, .ptp, .regs, .active, .wall, .store, .stripes, .refs, .heldMortar, .syncQueue, .media, .jobRuns, .arriving, .health, .pwr] s (execIndexSyncReq w h group offset length s) := by
  unfold execIndexSyncReq
  try dsimp only
  repeat' first
    | with_reducible exact Keeps.refl
    | with_reducible apply State.mortarIn_keeps
    | with_reducible apply Keeps.step State.releaseSync_keeps
    | with_reducible apply Keeps.step State.doIndexSyncReq_keeps
    | (intro _; try dsimp only)
    | decide
    | with_reducible apply KeepsO.next

theorem State.offerLate_keeps {old s : State} :
    Keeps [.mortar, .pcie, .regs] s (State.offerLate old s) := by
  unfold State.offerLate
  try dsimp only
  repeat' first
    | with_reducible exact Keeps.refl
    | with_reducible apply Keeps.step State.offerAll_keeps
    | (with_reducible apply Keeps.foldl; intro _ _; try dsimp only)
    | decide

theorem execStateData_keeps {w : Wy} {h : MHead} {obj : StateObj} {status version offset len total : Nat} {payload : Option StatePayload} {s : State} :
    KeepsO [.relief, .clk, .cip, .codec, .mortar, .pcie, .bpm, .ptp, .regs, .active, .wall, .store, .stripes, .refs, .heldMortar, .syncQueue, .media, .jobRuns, .arriving, .health, .pwr] s (execStateData w h obj status version offset len total payload s) := by
  unfold execStateData
  try dsimp only
  repeat' first
    | with_reducible exact Keeps.refl
    | with_reducible apply Keeps.step State.offerLate_keeps
    | with_reducible apply State.mortarAny_keeps
    | with_reducible apply Keeps.step State.releaseHeld_keeps
    | with_reducible apply Keeps.step State.doStateData_keeps
    | (intro _; try dsimp only)
    | decide
    | with_reducible apply KeepsO.next

end Sys2Proof.Machine
end

