-- ==== Sys2Proof/Laws/KMediaRows.lean ====
section
/-! SUPPORT. What each operation of MediaRows.lean keeps. -/

-- One lemma after the other: many side by side hold too much memory when the package is one text.
set_option Elab.async false

namespace Sys2Proof.Machine

theorem State.retireSpent_keeps {s : State} {i : Nat} :
    Keeps [.relief, .pcie, .regs, .media, .arriving, .pwr] s (State.retireSpent s i) := by
  unfold State.retireSpent
  try dsimp only
  repeat' first
    | with_reducible exact Keeps.refl
    | with_reducible apply Keeps.step State.retireDie_keeps
    | (with_reducible apply Keeps.foldl; intro _ _; try dsimp only)
    | decide

theorem State.loseAnchor_keeps {s : State} {i c : Nat} :
    Keeps [.pcie, .regs, .media, .arriving] s (State.loseAnchor s i c) := by
  unfold State.loseAnchor
  try dsimp only
  repeat' first
    | with_reducible exact Keeps.refl
    | with_reducible apply Keeps.step State.medBits_keeps
    | with_reducible apply Keeps.step State.modSet_keeps
    | with_reducible apply Keeps.step State.recordOpen_keeps
    | with_reducible apply Keeps.step State.event_keeps
    | decide
    | split

theorem State.degradeChan_keeps {s : State} {c : Nat} :
    Keeps [.relief, .pcie, .regs, .media, .arriving, .pwr] s (State.degradeChan s c) := by
  unfold State.degradeChan
  try dsimp only
  repeat' first
    | with_reducible exact Keeps.refl
    | with_reducible apply Keeps.step State.modChan_keeps
    | with_reducible apply Keeps.step State.modSet_keeps
    | with_reducible apply Keeps.step State.setUnit_keeps
    | with_reducible apply Keeps.step State.anchorRec_keeps
    | with_reducible apply Keeps.step State.earlyWarn_keeps
    | with_reducible apply Keeps.step State.setRfld_keeps
    | with_reducible apply Keeps.step State.loseAnchor_keeps
    | decide
    | split

theorem State.placeWaiting_keeps {s : State} {i : Nat} :
    Keeps [.pcie, .regs, .media, .arriving] s (State.placeWaiting s i) := by
  unfold State.placeWaiting
  try dsimp only
  repeat' first
    | with_reducible exact Keeps.refl
    | with_reducible apply Keeps.step State.modSet_keeps
    | with_reducible apply Keeps.step State.placeUnits_keeps
    | (with_reducible apply Keeps.foldl; intro _ _; try dsimp only)
    | decide

theorem State.closeShort_keeps {s : State} {i : Nat} :
    Keeps [.pcie, .regs, .media] s (State.closeShort s i) := by
  unfold State.closeShort
  try dsimp only
  repeat' first
    | with_reducible exact Keeps.refl
    | with_reducible apply Keeps.step State.closeSb_keeps
    | (with_reducible apply Keeps.foldl; intro _ _; try dsimp only)
    | decide
    | split

theorem State.settleSet_keeps {s : State} {i : Nat} :
    Keeps [.relief, .mortar, .pcie, .regs, .stripes, .media, .arriving, .pwr] s (State.settleSet s i) := by
  unfold State.settleSet
  try dsimp only
  repeat' first
    | with_reducible exact Keeps.refl
    | with_reducible apply Keeps.step State.reserveStep_keeps
    | with_reducible apply Keeps.step State.thinsDone_keeps
    | with_reducible apply Keeps.step State.closeFull_keeps
    | with_reducible apply Keeps.step State.closeShort_keeps
    | with_reducible apply Keeps.step State.retireSpent_keeps
    | with_reducible apply Keeps.step State.eraseSb_keeps
    | with_reducible apply Keeps.step State.fragsDone_keeps
    | (with_reducible apply Keeps.foldl; intro _ _; try dsimp only)
    | decide

theorem execRoundClose_keeps {i : Fin 2} {sb : Nat} {s : State} :
    KeepsO [.pcie, .regs, .media, .arriving] s (execRoundClose i sb s) := by
  unfold execRoundClose
  try dsimp only
  repeat' first
    | with_reducible exact Keeps.refl
    | with_reducible apply Keeps.step State.closeRound_keeps
    | decide
    | with_reducible apply KeepsO.next
    | split

theorem State.foldInto_keeps {s : State} {i : Nat} {dst : SuperBlk} {src : List FoldStripe} :
    Keeps [.pcie, .regs, .media, .arriving] s (State.foldInto s i dst src) := by
  unfold State.foldInto
  try dsimp only
  repeat' first
    | with_reducible exact Keeps.refl
    | with_reducible apply Keeps.step State.takeSeq_keeps
    | with_reducible apply Keeps.step State.submit_keeps
    | with_reducible apply Keeps.step State.modSb_keeps
    | (with_reducible apply Keeps.foldl; intro _ _; try dsimp only)
    | decide

theorem State.foldDst_keeps {s t : State} {i row : Nat} {b : SuperBlk} (h : State.foldDst s i row = some (t, b)) : Keeps [.pcie, .regs, .media, .arriving] s t := by
  unfold State.foldDst at h
  dsimp only at h
  split at h
  · obtain ⟨b, -, hb⟩ := Option.map_eq_some_iff.mp h
    cases hb
    exact State.closeRound_keeps.mono (by decide)
  · obtain ⟨v, hv, h⟩ := Option.bind_eq_some_iff.mp h
    obtain ⟨b, -, hb⟩ := Option.map_eq_some_iff.mp h
    cases hb
    exact (State.openSb_keeps hv).mono (by decide)

theorem State.foldSome_keeps {s : State} {i : Nat} {l : List FoldStripe} :
    Keeps [.pcie, .regs, .media, .arriving] s (State.foldSome s i l) := by
  unfold State.foldSome
  try dsimp only
  repeat' first
    | with_reducible exact Keeps.refl
    | with_reducible apply Keeps.step State.foldInto_keeps
    | with_reducible apply Keeps.step State.placeUnits_keeps
    | with_reducible apply Keeps.step (State.foldDst_keeps (by assumption))
    | decide
    | split

theorem execFoldRound_keeps {i : Fin 2} {s : State} :
    KeepsO [.relief, .mortar, .pcie, .regs, .stripes, .media, .arriving, .pwr] s (execFoldRound i s) := by
  unfold execFoldRound
  repeat' first
    | with_reducible exact Keeps.refl
    | with_reducible apply Keeps.step State.foldSome_keeps
    | with_reducible apply Keeps.step State.settleSet_keeps
    | decide
    | with_reducible apply KeepsO.next
    | split

theorem State.roundMember_keeps {s : State} {i sb seq die : Nat} :
    Keeps [.pcie, .regs, .media] s (State.roundMember s i sb seq die) := by
  unfold State.roundMember
  try dsimp only
  repeat' first
    | with_reducible exact Keeps.refl
    | with_reducible apply Keeps.step State.modRound_keeps
    | with_reducible apply Keeps.step State.roundDurable_keeps
    | decide
    | split

theorem State.roundFailed_keeps {s : State} {i sb seq die : Nat} :
    Keeps [.pcie, .regs, .media, .arriving] s (State.roundFailed s i sb seq die) := by
  unfold State.roundFailed
  try dsimp only
  repeat' first
    | with_reducible exact Keeps.refl
    | with_reducible apply Keeps.step State.bumpBy_keeps
    | with_reducible apply Keeps.step State.foldSome_keeps
    | with_reducible apply Keeps.step State.placeUnits_keeps
    | with_reducible apply Keeps.step State.modSb_keeps
    | with_reducible apply Keeps.step State.event_keeps
    | (with_reducible apply Keeps.foldl; intro _ _; try dsimp only)
    | decide
    | split

theorem State.eraseEnd_keeps {s : State} {i sb : Nat} {j : ChJob} {bad : List Nat} :
    Keeps [.relief, .pcie, .regs, .media, .arriving, .pwr] s (State.eraseEnd s i sb j bad) := by
  unfold State.eraseEnd
  try dsimp only
  repeat' first
    | with_reducible exact Keeps.refl
    | with_reducible apply Keeps.step State.blocksErased_keeps
    | with_reducible apply Keeps.step State.modSet_keeps
    | with_reducible apply Keeps.step State.placeWaiting_keeps
    | with_reducible apply Keeps.step State.modSb_keeps
    | (with_reducible apply Keeps.foldl; intro _ _; try dsimp only)
    | decide
    | split

theorem State.chDone_keeps {s : State} {j : ChJob} {e : DieEnd} :
    Keeps [.relief, .mortar, .pcie, .regs, .stripes, .media, .arriving, .pwr] s (State.chDone s j e) := by
  unfold State.chDone
  try dsimp only
  repeat' first
    | with_reducible exact Keeps.refl
    | with_reducible apply Keeps.step State.freeErased_keeps
    | with_reducible apply Keeps.step State.unitReadEnd_keeps
    | with_reducible apply Keeps.step State.retireDie_keeps
    | with_reducible apply Keeps.step State.noteTired_keeps
    | with_reducible apply Keeps.step State.sweepReads_keeps
    | with_reducible apply Keeps.step State.placeWaiting_keeps
    | with_reducible apply Keeps.step State.eraseEnd_keeps
    | with_reducible apply Keeps.step State.roundMember_keeps
    | with_reducible apply Keeps.step State.settleSet_keeps
    | with_reducible apply Keeps.step State.roundFailed_keeps
    | decide
    | split

theorem State.endOp_keeps {s : State} {j : ChJob} {e0 : DieEnd} :
    Keeps [.relief, .mortar, .pcie, .regs, .stripes, .media, .arriving, .health, .pwr] s (State.endOp s j e0) := by
  unfold State.endOp
  try dsimp only
  repeat' first
    | with_reducible exact Keeps.refl
    | with_reducible apply Keeps.step State.intentRead_keeps
    | with_reducible apply Keeps.step State.opEffect_keeps
    | with_reducible apply Keeps.step State.chResult_keeps
    | with_reducible apply Keeps.step State.jobGone_keeps
    | with_reducible apply Keeps.step State.opGone_keeps
    | with_reducible apply Keeps.step State.wornNow_keeps
    | with_reducible apply Keeps.step State.chDone_keeps
    | decide
    | split

theorem execDieOpEnd_keeps {job : Nat} {e : DieEnd} {s : State} :
    KeepsO [.relief, .mortar, .pcie, .regs, .stripes, .media, .arriving, .health, .pwr] s (execDieOpEnd job e s) := by
  unfold execDieOpEnd
  try dsimp only
  repeat' first
    | with_reducible exact Keeps.refl
    | with_reducible apply Keeps.step State.endOp_keeps
    | decide
    | with_reducible apply KeepsO.next
    | split

theorem execSlcShareGrow_keeps {i : Fin 2} {s : State} :
    KeepsO [.pcie, .regs, .media, .arriving] s (execSlcShareGrow i s) := by
  unfold execSlcShareGrow
  try dsimp only
  repeat' first
    | with_reducible exact Keeps.refl
    | with_reducible apply Keeps.step State.bump_keeps
    | with_reducible apply Keeps.step State.modSet_keeps
    | with_reducible apply Keeps.step State.placeWaiting_keeps
    | with_reducible apply Keeps.step State.event_keeps
    | with_reducible apply Keeps.step State.slcMarks_keeps
    | decide
    | with_reducible apply KeepsO.next
    | split

theorem execSlcShareShrink_keeps {i : Fin 2} {s : State} :
    KeepsO [.pcie, .regs, .media] s (execSlcShareShrink i s) := by
  unfold execSlcShareShrink
  try dsimp only
  repeat' first
    | with_reducible exact Keeps.refl
    | with_reducible apply Keeps.step State.bump_keeps
    | with_reducible apply Keeps.step State.modSet_keeps
    | with_reducible apply Keeps.step State.slcMarks_keeps
    | decide
    | with_reducible apply KeepsO.next
    | split

theorem execMapFlush_keeps {i : Fin 2} {s : State} :
    KeepsO [.relief, .mortar, .pcie, .regs, .stripes, .media, .arriving, .pwr] s (execMapFlush i s) := by
  unfold execMapFlush
  try dsimp only
  repeat' first
    | with_reducible exact Keeps.refl
    | with_reducible apply Keeps.step State.flushMap_keeps
    | with_reducible apply Keeps.step State.settleSet_keeps
    | decide
    | with_reducible apply KeepsO.next
    | split

theorem State.checkpoint_keeps {s : State} {i : Nat} :
    Keeps [.pcie, .regs, .media, .arriving] s (State.checkpoint s i) := by
  unfold State.checkpoint
  try dsimp only
  repeat' first
    | with_reducible exact Keeps.refl
    | with_reducible apply Keeps.step State.modSet_keeps
    | with_reducible apply Keeps.step State.placeUnits_keeps
    | (with_reducible apply Keeps.foldl; intro _ _; try dsimp only)
    | decide

theorem execCheckpoint_keeps {i : Fin 2} {s : State} :
    KeepsO [.relief, .mortar, .pcie, .regs, .stripes, .media, .arriving, .pwr] s (execCheckpoint i s) := by
  unfold execCheckpoint
  repeat' first
    | with_reducible exact Keeps.refl
    | with_reducible apply Keeps.step State.checkpoint_keeps
    | with_reducible apply Keeps.step State.settleSet_keeps
    | decide
    | with_reducible apply KeepsO.next
    | split

theorem State.collect_keeps {s : State} {i cls : Nat} {b : SuperBlk} :
    Keeps [.relief, .pcie, .regs, .media, .arriving, .pwr] s (State.collect s i cls b) := by
  unfold State.collect
  try dsimp only
  repeat' first
    | with_reducible exact Keeps.refl
    | with_reducible apply Keeps.step State.placeUnits_keeps
    | with_reducible apply Keeps.step State.eraseSb_keeps
    | with_reducible apply Keeps.step State.modSb_keeps
    | decide
    | split

theorem State.upkeepBit_keeps {s : State} {w : Wy} :
    Keeps [.regs] s (State.upkeepBit s w) := by
  unfold State.upkeepBit
  try dsimp only
  repeat' first
    | with_reducible exact Keeps.refl
    | with_reducible apply Keeps.step State.setRfld_keeps
    | decide

theorem execCollection_keeps {i : Fin 2} {s : State} :
    KeepsO [.relief, .mortar, .pcie, .regs, .stripes, .media, .arriving, .pwr] s (execCollection i s) := by
  unfold execCollection
  try dsimp only
  repeat' first
    | with_reducible exact Keeps.refl
    | with_reducible apply Keeps.step State.collect_keeps
    | with_reducible apply Keeps.step State.upkeepBit_keeps
    | with_reducible apply Keeps.step State.settleSet_keeps
    | decide
    | with_reducible apply KeepsO.next
    | split

theorem State.refreshAged_keeps {s : State} {i : Nat} :
    Keeps [.media] s (State.refreshAged s i) := by
  unfold State.refreshAged
  try dsimp only
  repeat' first
    | with_reducible exact Keeps.refl
    | with_reducible apply Keeps.step State.modSet_keeps
    | decide
    | split
    | with_reducible apply Keeps.step Keeps.fresh_add
    | with_reducible apply Keeps.step Keeps.fresh_add2

theorem execPatrol_keeps {i : Fin 2} {sb attempts : Nat} {parity lost : List Nat} {s : State} :
    KeepsO [.relief, .pcie, .regs, .media, .arriving, .pwr] s (execPatrol i sb attempts parity lost s) := by
  unfold execPatrol
  try dsimp only
  repeat' first
    | with_reducible exact Keeps.refl
    | with_reducible apply Keeps.step State.parityUsed_keeps
    | with_reducible apply Keeps.step State.dieUncorr_keeps
    | with_reducible apply Keeps.step State.modSb_keeps
    | (with_reducible apply Keeps.foldl; intro _ _; try dsimp only)
    | decide
    | with_reducible apply KeepsO.next
    | split
    | with_reducible apply Keeps.step Keeps.fresh_add
    | with_reducible apply Keeps.step Keeps.fresh_add2

theorem execCalibrationTimer_keeps {die : Fin 2048} {s : State} :
    KeepsO [.pcie, .regs, .media, .arriving] s (execCalibrationTimer die s) := by
  unfold execCalibrationTimer
  try dsimp only
  repeat' first
    | with_reducible exact Keeps.refl
    | with_reducible apply Keeps.step State.submit_keeps
    | decide
    | with_reducible apply KeepsO.next
    | split

theorem execEquivAgeTick_keeps {s : State} :
    KeepsO [.media] s (execEquivAgeTick s) := by
  unfold execEquivAgeTick
  try dsimp only
  repeat' first
    | with_reducible exact Keeps.refl
    | with_reducible apply Keeps.step State.modDie_keeps
    | with_reducible apply Keeps.step State.refreshAged_keeps
    | (with_reducible apply Keeps.foldl; intro _ _; try dsimp only)
    | decide
    | with_reducible apply KeepsO.next

theorem execEquivAgeRecord_keeps {i : Fin 2} {s : State} :
    KeepsO [.pcie, .regs, .media] s (execEquivAgeRecord i s) := by
  unfold execEquivAgeRecord
  try dsimp only
  repeat' first
    | with_reducible exact Keeps.refl
    | with_reducible apply Keeps.step State.modSet_keeps
    | with_reducible apply Keeps.step State.anchorRec_keeps
    | decide
    | with_reducible apply KeepsO.next

theorem execDieRebuild_keeps {i : Fin 2} {lost : List (Nat × Nat × Nat)} {s : State} :
    KeepsO [.relief, .mortar, .pcie, .regs, .stripes, .media, .arriving, .pwr] s (execDieRebuild i lost s) := by
  unfold execDieRebuild
  try dsimp only
  repeat' first
    | with_reducible exact Keeps.refl
    | with_reducible apply Keeps.step State.modSet_keeps
    | with_reducible apply Keeps.step State.collect_keeps
    | with_reducible apply Keeps.step State.selfRebuild_keeps
    | with_reducible apply Keeps.step State.anchorRec_keeps
    | with_reducible apply Keeps.step State.settleSet_keeps
    | (with_reducible apply Keeps.foldl; intro _ _; try dsimp only)
    | decide
    | with_reducible apply KeepsO.next
    | split

theorem execAnchorRebuild_keeps {i : Fin 2} {s : State} :
    KeepsO [.regs, .media, .arriving] s (execAnchorRebuild i s) := by
  unfold execAnchorRebuild
  try dsimp only
  repeat' first
    | with_reducible exact Keeps.refl
    | with_reducible apply Keeps.step State.medBits_keeps
    | with_reducible apply Keeps.step State.modSet_keeps
    | with_reducible apply Keeps.step State.recordOpen_keeps
    | decide
    | with_reducible apply KeepsO.next
    | split

theorem execChRead_keeps {w : Wy} {r : ChReq} {s : State} :
    KeepsO [.pcie, .regs, .media, .arriving] s (execChRead w r s) := by
  unfold execChRead
  repeat' first
    | with_reducible exact Keeps.refl
    | with_reducible apply Keeps.step State.submit_keeps
    | decide
    | with_reducible apply KeepsO.next

theorem execChReadRetry_keeps {w : Wy} {r : ChReq} {s : State} :
    KeepsO [.pcie, .regs, .media, .arriving] s (execChReadRetry w r s) := by
  unfold execChReadRetry
  repeat' first
    | with_reducible exact Keeps.refl
    | with_reducible apply Keeps.step State.submit_keeps
    | decide
    | with_reducible apply KeepsO.next

theorem execChProgSlc_keeps {w : Wy} {r : ChReq} {s : State} :
    KeepsO [.pcie, .regs, .media, .arriving] s (execChProgSlc w r s) := by
  unfold execChProgSlc
  repeat' first
    | with_reducible exact Keeps.refl
    | with_reducible apply Keeps.step State.submit_keeps
    | decide
    | with_reducible apply KeepsO.next

theorem execChProgQlc_keeps {w : Wy} {r : ChReq} {s : State} :
    KeepsO [.pcie, .regs, .media, .arriving] s (execChProgQlc w r s) := by
  unfold execChProgQlc
  repeat' first
    | with_reducible exact Keeps.refl
    | with_reducible apply Keeps.step State.submit_keeps
    | decide
    | with_reducible apply KeepsO.next

theorem execChFold_keeps {w : Wy} {r : ChReq} {s : State} :
    KeepsO [.pcie, .regs, .media, .arriving] s (execChFold w r s) := by
  unfold execChFold
  repeat' first
    | with_reducible exact Keeps.refl
    | with_reducible apply Keeps.step State.submit_keeps
    | decide
    | with_reducible apply KeepsO.next

theorem execChErase_keeps {w : Wy} {r : ChReq} {s : State} :
    KeepsO [.pcie, .regs, .media, .arriving] s (execChErase w r s) := by
  unfold execChErase
  repeat' first
    | with_reducible exact Keeps.refl
    | with_reducible apply Keeps.step State.submit_keeps
    | decide
    | with_reducible apply KeepsO.next

theorem execChEraseVerify_keeps {w : Wy} {r : ChReq} {s : State} :
    KeepsO [.pcie, .regs, .media, .arriving] s (execChEraseVerify w r s) := by
  unfold execChEraseVerify
  repeat' first
    | with_reducible exact Keeps.refl
    | with_reducible apply Keeps.step State.submit_keeps
    | decide
    | with_reducible apply KeepsO.next

theorem execChReadParam_keeps {w : Wy} {r : ChReq} {s : State} :
    KeepsO [.pcie, .regs, .media, .arriving] s (execChReadParam w r s) := by
  unfold execChReadParam
  repeat' first
    | with_reducible exact Keeps.refl
    | with_reducible apply Keeps.step State.submit_keeps
    | decide
    | with_reducible apply KeepsO.next

theorem execChCalibrate_keeps {w : Wy} {r : ChReq} {s : State} :
    KeepsO [.pcie, .regs, .media, .arriving] s (execChCalibrate w r s) := by
  unfold execChCalibrate
  repeat' first
    | with_reducible exact Keeps.refl
    | with_reducible apply Keeps.step State.submit_keeps
    | decide
    | with_reducible apply KeepsO.next

theorem execChDieReset_keeps {w : Wy} {r : ChReq} {s : State} :
    KeepsO [.pcie, .regs, .media, .arriving] s (execChDieReset w r s) := by
  unfold execChDieReset
  repeat' first
    | with_reducible exact Keeps.refl
    | with_reducible apply Keeps.step State.submit_keeps
    | decide
    | with_reducible apply KeepsO.next

theorem execChStatus_keeps {w : Wy} {r : ChReq} {s : State} :
    KeepsO [.pcie, .regs, .media, .arriving] s (execChStatus w r s) := by
  unfold execChStatus
  repeat' first
    | with_reducible exact Keeps.refl
    | with_reducible apply Keeps.step State.submit_keeps
    | decide
    | with_reducible apply KeepsO.next

theorem execSuspensionEnd_keeps {die : Fin 2048} {s : State} :
    KeepsO [.media] s (execSuspensionEnd die s) := by
  unfold execSuspensionEnd
  try dsimp only
  repeat' first
    | with_reducible exact Keeps.refl
    | with_reducible apply Keeps.step State.resumeOp_keeps
    | decide
    | with_reducible apply KeepsO.next
    | split

theorem execDieTimeout_keeps {job : Nat} {s : State} :
    KeepsO [.relief, .mortar, .pcie, .regs, .stripes, .media, .arriving, .pwr] s (execDieTimeout job s) := by
  unfold execDieTimeout
  try dsimp only
  repeat' first
    | with_reducible exact Keeps.refl
    | with_reducible apply Keeps.step State.modMedia_keeps
    | with_reducible apply Keeps.step State.chResult_keeps
    | with_reducible apply Keeps.step State.grant_keeps
    | with_reducible apply Keeps.step State.modDie_keeps
    | with_reducible apply Keeps.step State.takeHeld_keeps
    | with_reducible apply Keeps.step State.chDone_keeps
    | with_reducible apply Keeps.step State.event_keeps
    | (with_reducible apply Keeps.foldl; intro _ _; try dsimp only)
    | decide
    | with_reducible apply KeepsO.next
    | split

theorem State.newOwner_keeps {s : State} {c : Nat} {o : Option Wy} {m : ChanMode} :
    Keeps [.pcie, .regs, .media] s (State.newOwner s c o m) := by
  unfold State.newOwner
  try dsimp only
  repeat' first
    | with_reducible exact Keeps.refl
    | with_reducible apply Keeps.step State.bump_keeps
    | with_reducible apply Keeps.step State.modChan_keeps
    | with_reducible apply Keeps.step State.chanUnknown_keeps
    | with_reducible apply Keeps.step State.setUnit_keeps
    | with_reducible apply Keeps.step State.setRfld_keeps
    | with_reducible apply Keeps.step State.event_keeps
    | decide
    | split

theorem State.finishOld_keeps {s : State} {c : Nat} :
    Keeps [.relief, .mortar, .pcie, .regs, .stripes, .media, .arriving, .health, .pwr] s (State.finishOld s c) := by
  unfold State.finishOld
  try dsimp only
  repeat' first
    | with_reducible exact Keeps.refl
    | with_reducible apply Keeps.step State.modMedia_keeps
    | with_reducible apply Keeps.step State.opEffect_keeps
    | with_reducible apply Keeps.step State.chDone_keeps
    | (with_reducible apply Keeps.foldl; intro _ _; try dsimp only)
    | decide

theorem State.takeChannel_keeps {s : State} {w : Wy} {c : Nat} :
    Keeps [.relief, .mortar, .pcie, .regs, .stripes, .media, .arriving, .health, .pwr] s (State.takeChannel s w c) := by
  unfold State.takeChannel
  try dsimp only
  repeat' first
    | with_reducible exact Keeps.refl
    | with_reducible apply Keeps.step State.newOwner_keeps
    | with_reducible apply Keeps.step State.finishOld_keeps
    | decide
    | split

theorem execChannelTake_keeps {w : Wy} {c : Fin 64} {s : State} :
    KeepsO [.relief, .mortar, .pcie, .regs, .stripes, .media, .arriving, .health, .pwr] s (execChannelTake w c s) := by
  unfold execChannelTake
  repeat' first
    | with_reducible exact Keeps.refl
    | with_reducible apply Keeps.step State.takeChannel_keeps
    | decide
    | with_reducible apply KeepsO.next

theorem State.askRelease_keeps {s : State} {w : Wy} {c : Nat} :
    Keeps [.media] s (State.askRelease s w c) := by
  unfold State.askRelease
  try dsimp only
  repeat' first
    | with_reducible exact Keeps.refl
    | with_reducible apply Keeps.step State.modChan_keeps
    | decide
    | split

theorem State.askLend_keeps {s : State} {w : Wy} {c : Nat} :
    Keeps [.media] s (State.askLend s w c) := by
  unfold State.askLend
  try dsimp only
  repeat' first
    | with_reducible exact Keeps.refl
    | with_reducible apply Keeps.step State.modChan_keeps
    | decide
    | split

theorem execChannelRelease_keeps {w : Wy} {c : Fin 64} {s : State} :
    KeepsO [.media] s (execChannelRelease w c s) := by
  unfold execChannelRelease
  repeat' first
    | with_reducible exact Keeps.refl
    | with_reducible apply Keeps.step State.askRelease_keeps
    | decide
    | with_reducible apply KeepsO.next

theorem execChannelLend_keeps {w : Wy} {c : Fin 64} {s : State} :
    KeepsO [.media] s (execChannelLend w c s) := by
  unfold execChannelLend
  repeat' first
    | with_reducible exact Keeps.refl
    | with_reducible apply Keeps.step State.askLend_keeps
    | decide
    | with_reducible apply KeepsO.next

theorem State.releaseDone_keeps {s : State} {c : Nat} :
    Keeps [.relief, .mortar, .pcie, .regs, .stripes, .media, .arriving, .pwr] s (State.releaseDone s c) := by
  unfold State.releaseDone
  try dsimp only
  repeat' first
    | with_reducible exact Keeps.refl
    | with_reducible apply Keeps.step State.bump_keeps
    | with_reducible apply Keeps.step State.modMedia_keeps
    | with_reducible apply Keeps.step State.chResult_keeps
    | with_reducible apply Keeps.step State.newOwner_keeps
    | with_reducible apply Keeps.step State.chDone_keeps
    | (with_reducible apply Keeps.foldl; intro _ _; try dsimp only)
    | decide
    | split

theorem execReleaseComplete_keeps {c : Fin 64} {s : State} :
    KeepsO [.relief, .mortar, .pcie, .regs, .stripes, .media, .arriving, .pwr] s (execReleaseComplete c s) := by
  unfold execReleaseComplete
  repeat' first
    | with_reducible exact Keeps.refl
    | with_reducible apply Keeps.step State.releaseDone_keeps
    | decide
    | with_reducible apply KeepsO.next

end Sys2Proof.Machine
end

