-- ==== Sys2Proof/Laws/KPorts.lean ====
section
/-! SUPPORT. What each operation of Ports.lean keeps. -/

-- One lemma after the other: many side by side hold too much memory when the package is one text.
set_option Elab.async false

namespace Sys2Proof.Machine

theorem State.modPort_keeps {s : State} {w : Wy} {p : Nat} {f : Port → Port} :
    Keeps [.ports] s (State.modPort s w p f) := by
  unfold State.modPort
  try dsimp only
  repeat' first
    | with_reducible exact Keeps.refl
    | with_reducible apply Keeps.modWy
    | (intro y; with_reducible apply WKeeps.mk <;> intro h <;> first | exact absurd (by decide) h | exact rfl)
    | decide

theorem State.mortarPacket_keeps {s : State} {w : Wy} {addr : BitVec 128} {ce : Bool} {bytes : Bytes} :
    Keeps [.relief, .clk, .cip, .codec, .mortar, .pcie, .bpm, .regs, .stripes] s (State.mortarPacket s w addr ce bytes) := by
  unfold State.mortarPacket
  try dsimp only
  repeat' first
    | with_reducible exact Keeps.refl
    | with_reducible apply Keeps.step State.takeAck_keeps
    | with_reducible apply Keeps.step State.sendAck_keeps
    | with_reducible apply Keeps.step State.bump_keeps
    | with_reducible apply Keeps.step State.seeHlc_keeps
    | with_reducible apply Keeps.step State.openFlow_keeps
    | with_reducible apply Keeps.step State.modFlow_keeps
    | decide
    | split

theorem State.modPair_keeps {s : State} {w : Wy} {q : Nat} {f : RocePair → RocePair} :
    Keeps [.pairs] s (State.modPair s w q f) := by
  unfold State.modPair
  try dsimp only
  repeat' first
    | with_reducible exact Keeps.refl
    | with_reducible apply Keeps.modWy
    | (intro y; with_reducible apply WKeeps.mk <;> intro h <;> first | exact absurd (by decide) h | exact rfl)
    | decide

theorem State.retryExceeded_keeps {s : State} {w : Wy} {q : Nat} :
    Keeps [.relief, .cip, .codec, .mortar, .pcie, .bpm, .pairs, .regs, .store, .refs, .jobRuns, .arriving, .pwr] s (State.retryExceeded s w q) := by
  unfold State.retryExceeded
  repeat' first
    | with_reducible exact Keeps.refl
    | with_reducible apply Keeps.step State.bump_keeps
    | with_reducible apply Keeps.step State.event_keeps
    | with_reducible apply Keeps.step State.loseQueue_keeps
    | decide

theorem State.sendCnp_keeps {s : State} {w : Wy} {q : Nat} :
    Keeps [.pcie, .pairs, .regs] s (State.sendCnp s w q) := by
  unfold State.sendCnp
  try dsimp only
  repeat' first
    | with_reducible exact Keeps.refl
    | with_reducible apply Keeps.step State.bump_keeps
    | with_reducible apply Keeps.step State.modPair_keeps
    | with_reducible apply Keeps.step State.emit_keeps
    | decide
    | split

theorem State.rocePacket_keeps {s : State} {w : Wy} {q : Nat} {icrcOk ce : Bool} {k : RoceKind} :
    Keeps [.relief, .cip, .codec, .mortar, .pcie, .bpm, .pairs, .regs, .store, .refs, .jobRuns, .arriving, .pwr] s (State.rocePacket s w q icrcOk ce k) := by
  unfold State.rocePacket
  try dsimp only
  repeat' first
    | with_reducible exact Keeps.refl
    | with_reducible apply Keeps.step State.bump_keeps
    | with_reducible apply Keeps.step State.bumpBy_keeps
    | with_reducible apply Keeps.step State.retryExceeded_keeps
    | with_reducible apply Keeps.step State.sendCnp_keeps
    | with_reducible apply Keeps.step State.modPair_keeps
    | with_reducible apply Keeps.step State.emitAll_keeps
    | with_reducible apply Keeps.step State.emit_keeps
    | with_reducible apply Keeps.step State.event_keeps
    | decide
    | split

theorem execCmRequest_keeps {w : Wy} {p : Fin 4} {src : BitVec 128} {mtu : Nat} {otherTransport : Bool} {s : State} :
    KeepsO [.relief, .pcie, .pairs, .regs] s (execCmRequest w p src mtu otherTransport s) := by
  unfold execCmRequest
  try dsimp only
  repeat' first
    | with_reducible exact Keeps.refl
    | with_reducible apply Keeps.step State.bump_keeps
    | with_reducible apply Keeps.step State.used_keeps
    | with_reducible apply Keeps.step State.modRelief_keeps
    | with_reducible apply Keeps.modWy
    | with_reducible apply Keeps.step State.emit_keeps
    | with_reducible apply Keeps.step State.event_keeps
    | (intro y; with_reducible apply WKeeps.mk <;> intro h <;> first | exact absurd (by decide) h | exact rfl)
    | decide
    | with_reducible apply KeepsO.next
    | split

theorem execRoceAckTimeout_keeps {w : Wy} {q : Nat} {s : State} :
    KeepsO [.relief, .cip, .codec, .mortar, .pcie, .bpm, .pairs, .regs, .store, .refs, .jobRuns, .arriving, .pwr] s (execRoceAckTimeout w q s) := by
  unfold execRoceAckTimeout
  try dsimp only
  repeat' first
    | with_reducible exact Keeps.refl
    | with_reducible apply Keeps.step State.bump_keeps
    | with_reducible apply Keeps.step State.retryExceeded_keeps
    | with_reducible apply Keeps.step State.modPair_keeps
    | with_reducible apply Keeps.step State.emit_keeps
    | decide
    | with_reducible apply KeepsO.next
    | split

theorem execCnpReceive_keeps {w : Wy} {q : Nat} {s : State} :
    KeepsO [.pcie, .pairs, .regs] s (execCnpReceive w q s) := by
  unfold execCnpReceive
  try dsimp only
  repeat' first
    | with_reducible exact Keeps.refl
    | with_reducible apply Keeps.step State.bump_keeps
    | with_reducible apply Keeps.step State.modPair_keeps
    | decide
    | with_reducible apply KeepsO.next
    | split

theorem execRateIncrease_keeps {w : Wy} {q : Nat} {s : State} :
    KeepsO [.pairs] s (execRateIncrease w q s) := by
  unfold execRateIncrease
  try dsimp only
  repeat' first
    | with_reducible exact Keeps.refl
    | with_reducible apply Keeps.step State.modPair_keeps
    | decide
    | with_reducible apply KeepsO.next
    | split

theorem State.xoffCheck_keeps {s : State} {w : Wy} {p prio held : Nat} :
    Keeps [.pcie, .ports, .regs] s (State.xoffCheck s w p prio held) := by
  unfold State.xoffCheck
  try dsimp only
  repeat' first
    | with_reducible exact Keeps.refl
    | with_reducible apply Keeps.step State.modPort_keeps
    | with_reducible apply Keeps.step State.bump_keeps
    | with_reducible apply Keeps.step State.emit_keeps
    | decide
    | split

theorem State.ptpFrame_keeps {s : State} {w : Wy} {p : Nat} {best : Bool} {offsetNs uncertNs : Nat} :
    Keeps [.clk, .mortar] s (State.ptpFrame s w p best offsetNs uncertNs) := by
  unfold State.ptpFrame
  try dsimp only
  repeat' first
    | with_reducible exact Keeps.refl
    | with_reducible apply Keeps.step State.servo_keeps
    | with_reducible apply Keeps.step State.modMortar_keeps
    | decide
    | split

theorem State.toTransport_keeps {s : State} {w : Wy} {p : Nat} {f : Frame} {trunc : Bool} :
    Keeps [.relief, .clk, .cip, .codec, .mortar, .pcie, .bpm, .pairs, .regs, .store, .stripes, .refs, .jobRuns, .arriving, .pwr] s (State.toTransport s w p f trunc) := by
  unfold State.toTransport
  repeat' first
    | with_reducible exact Keeps.refl
    | with_reducible apply Keeps.step State.bump_keeps
    | with_reducible apply Keeps.step State.mortarPacket_keeps
    | with_reducible apply Keeps.step State.ptpFrame_keeps
    | with_reducible apply Keeps.step State.rocePacket_keeps
    | decide
    | split

theorem State.rxFrame_keeps {s : State} {w : Wy} {p : Nat} {f : Frame} :
    Keeps [.relief, .clk, .cip, .codec, .mortar, .pcie, .bpm, .ports, .pairs, .regs, .store, .stripes, .refs, .jobRuns, .arriving, .pwr] s (State.rxFrame s w p f) := by
  unfold State.rxFrame
  try dsimp only
  repeat' first
    | with_reducible exact Keeps.refl
    | with_reducible apply Keeps.step State.bump_keeps
    | with_reducible apply Keeps.step State.xoffCheck_keeps
    | with_reducible apply Keeps.step State.toTransport_keeps
    | decide
    | split

theorem execFrameReceive_keeps {w : Wy} {p : Fin 4} {f : Frame} {s : State} :
    KeepsO [.relief, .clk, .cip, .codec, .mortar, .pcie, .bpm, .ports, .pairs, .regs, .store, .stripes, .refs, .jobRuns, .arriving, .pwr] s (execFrameReceive w p f s) := by
  unfold execFrameReceive
  repeat' first
    | with_reducible exact Keeps.refl
    | with_reducible apply Keeps.step State.rxFrame_keeps
    | decide
    | with_reducible apply KeepsO.next
    | split

theorem execPfcReceive_keeps {w : Wy} {p : Fin 4} {quanta : List (Nat × Nat)} {s : State} :
    KeepsO [.pcie, .ports, .regs] s (execPfcReceive w p quanta s) := by
  unfold execPfcReceive
  try dsimp only
  repeat' first
    | with_reducible exact Keeps.refl
    | with_reducible apply Keeps.step State.modPort_keeps
    | with_reducible apply Keeps.step State.bump_keeps
    | (with_reducible apply Keeps.foldl; intro _ _; try dsimp only)
    | decide
    | with_reducible apply KeepsO.next
    | split

theorem execPfcQuantaExpiry_keeps {w : Wy} {p : Fin 4} {prio : Fin 8} {s : State} :
    KeepsO [.ports] s (execPfcQuantaExpiry w p prio s) := by
  unfold execPfcQuantaExpiry
  try dsimp only
  repeat' first
    | with_reducible exact Keeps.refl
    | with_reducible apply Keeps.step State.modPort_keeps
    | decide
    | with_reducible apply KeepsO.next

theorem execPfcStorm_keeps {w : Wy} {p : Fin 4} {prio : Fin 8} {s : State} :
    KeepsO [.pcie, .ports, .regs, .arriving] s (execPfcStorm w p prio s) := by
  unfold execPfcStorm
  try dsimp only
  repeat' first
    | with_reducible exact Keeps.refl
    | with_reducible apply Keeps.step State.modPort_keeps
    | with_reducible apply Keeps.step State.recordOpen_keeps
    | with_reducible apply Keeps.step State.event_keeps
    | decide
    | with_reducible apply KeepsO.next
    | split

theorem execPfcIgnoreEnd_keeps {w : Wy} {p : Fin 4} {prio : Fin 8} {s : State} :
    KeepsO [.ports] s (execPfcIgnoreEnd w p prio s) := by
  unfold execPfcIgnoreEnd
  try dsimp only
  repeat' first
    | with_reducible exact Keeps.refl
    | with_reducible apply Keeps.step State.modPort_keeps
    | decide
    | with_reducible apply KeepsO.next

theorem execPfcXoffRepeat_keeps {w : Wy} {p : Fin 4} {prio : Fin 8} {held : Nat} {s : State} :
    KeepsO [.pcie, .ports, .regs] s (execPfcXoffRepeat w p prio held s) := by
  unfold execPfcXoffRepeat
  try dsimp only
  repeat' first
    | with_reducible exact Keeps.refl
    | with_reducible apply Keeps.step State.bump_keeps
    | with_reducible apply Keeps.step State.xoffCheck_keeps
    | with_reducible apply Keeps.step State.emit_keeps
    | decide
    | with_reducible apply KeepsO.next
    | split

theorem State.txEnd_keeps {s : State} {w : Wy} {p : Nat} :
    Keeps [.pcie, .ports, .regs] s (State.txEnd s w p) := by
  unfold State.txEnd
  try dsimp only
  repeat' first
    | with_reducible exact Keeps.refl
    | with_reducible apply Keeps.step State.modPort_keeps
    | with_reducible apply Keeps.step State.setReg_keeps
    | with_reducible apply Keeps.step State.bump_keeps
    | with_reducible apply Keeps.step State.emit_keeps
    | with_reducible apply Keeps.step State.event_keeps
    | decide
    | split

theorem State.txDue_keeps {s : State} :
    Keeps [.pcie, .ports, .regs] s (State.txDue s) := by
  unfold State.txDue
  try dsimp only
  repeat' first
    | with_reducible exact Keeps.refl
    | with_reducible apply Keeps.step State.txEnd_keeps
    | (with_reducible apply Keeps.foldl; intro _ _; try dsimp only)
    | decide
    | split

theorem State.leaveLpi_keeps {s : State} {w : Wy} {p : Nat} :
    Keeps [.pcie, .ports, .regs] s (State.leaveLpi s w p) := by
  unfold State.leaveLpi
  try dsimp only
  repeat' first
    | with_reducible exact Keeps.refl
    | with_reducible apply Keeps.step State.modPort_keeps
    | with_reducible apply Keeps.step State.bumpBy_keeps
    | decide
    | split

theorem State.frameOut_keeps {s : State} {w : Wy} {p : Nat} {f : TxFrame} :
    Keeps [] s (State.frameOut s w p f) := by
  unfold State.frameOut
  try dsimp only
  repeat' first
    | with_reducible exact Keeps.refl
    | with_reducible apply Keeps.step State.emit_keeps
    | decide
    | split

theorem execFrameTransmit_keeps {w : Wy} {p : Fin 4} {f : TxFrame} {taken : Nat} {s : State} :
    KeepsO [.pcie, .ports, .regs] s (execFrameTransmit w p f taken s) := by
  unfold execFrameTransmit
  try dsimp only
  repeat' first
    | with_reducible exact Keeps.refl
    | with_reducible apply Keeps.step State.frameOut_keeps
    | with_reducible apply Keeps.step State.modPort_keeps
    | with_reducible apply Keeps.step State.bump_keeps
    | with_reducible apply Keeps.step State.txEnd_keeps
    | with_reducible apply Keeps.step State.leaveLpi_keeps
    | (intro p hp; cases p <;> first | exact absurd (by decide) hp | (dsimp only [Part.same]; done) | (dsimp only [Part.same]; exact ⟨rfl, rfl⟩))
    | decide
    | with_reducible apply KeepsO.next
    | split
    | with_reducible apply Keeps.rec_

theorem execTransmitUnderrun_keeps {w : Wy} {p : Fin 4} {s : State} :
    KeepsO [.pcie, .ports, .regs, .arriving] s (execTransmitUnderrun w p s) := by
  unfold execTransmitUnderrun
  try dsimp only
  repeat' first
    | with_reducible exact Keeps.refl
    | with_reducible apply Keeps.step State.modPort_keeps
    | with_reducible apply Keeps.step State.bump_keeps
    | with_reducible apply Keeps.step State.setRfld_keeps
    | with_reducible apply Keeps.step State.recordOpen_keeps
    | with_reducible apply Keeps.step State.emit_keeps
    | with_reducible apply Keeps.step State.event_keeps
    | decide
    | with_reducible apply KeepsO.next
    | split

theorem State.sendLldp_keeps {s : State} {w : Wy} {p : Nat} :
    Keeps [] s (State.sendLldp s w p) := by
  unfold State.sendLldp
  repeat' first
    | with_reducible exact Keeps.refl
    | with_reducible apply Keeps.step State.emit_keeps
    | decide

theorem execLldpSend_keeps {w : Wy} {p : Fin 4} {s : State} :
    KeepsO [] s (execLldpSend w p s) := by
  unfold execLldpSend
  repeat' first
    | with_reducible exact Keeps.refl
    | with_reducible apply Keeps.step State.sendLldp_keeps
    | decide
    | with_reducible apply KeepsO.next
    | split

theorem State.agree_keeps {s : State} {w : Wy} {p : Nat} {on : Bool} {tx rx : Nat} :
    Keeps [.pcie, .ports, .regs] s (State.agree s w p on tx rx) := by
  unfold State.agree
  try dsimp only
  repeat' first
    | with_reducible exact Keeps.refl
    | with_reducible apply Keeps.step State.modPort_keeps
    | with_reducible apply Keeps.step State.leaveLpi_keeps
    | with_reducible apply Keeps.step State.event_keeps
    | decide
    | split

theorem State.lldpIfNew_keeps {old s : State} {w : Wy} {p : Nat} :
    Keeps [] s (State.lldpIfNew old s w p) := by
  unfold State.lldpIfNew
  try dsimp only
  repeat' first
    | with_reducible exact Keeps.refl
    | with_reducible apply Keeps.step State.sendLldp_keeps
    | decide
    | split

theorem execLldpReceive_keeps {w : Wy} {p : Fin 4} {r tx : Nat} {s : State} :
    KeepsO [.pcie, .ports, .regs] s (execLldpReceive w p r tx s) := by
  unfold execLldpReceive
  try dsimp only
  repeat' first
    | with_reducible exact Keeps.refl
    | with_reducible apply Keeps.step State.lldpIfNew_keeps
    | with_reducible apply Keeps.step State.agree_keeps
    | decide
    | with_reducible apply KeepsO.next
    | split

theorem execLldpAgeOut_keeps {w : Wy} {p : Fin 4} {s : State} :
    KeepsO [.pcie, .ports, .regs] s (execLldpAgeOut w p s) := by
  unfold execLldpAgeOut
  repeat' first
    | with_reducible exact Keeps.refl
    | with_reducible apply Keeps.step State.lldpIfNew_keeps
    | with_reducible apply Keeps.step State.agree_keeps
    | decide
    | with_reducible apply KeepsO.next

theorem execLpiEntry_keeps {w : Wy} {p : Fin 4} {s : State} :
    KeepsO [.pcie, .ports, .regs] s (execLpiEntry w p s) := by
  unfold execLpiEntry
  try dsimp only
  repeat' first
    | with_reducible exact Keeps.refl
    | with_reducible apply Keeps.step State.modPort_keeps
    | with_reducible apply Keeps.step State.bump_keeps
    | with_reducible apply Keeps.step State.txDue_keeps
    | decide
    | with_reducible apply KeepsO.next
    | split

theorem State.linkDown_keeps {s : State} {w : Wy} {p : Nat} :
    Keeps [.pcie, .ports, .regs] s (State.linkDown s w p) := by
  unfold State.linkDown
  try dsimp only
  repeat' first
    | with_reducible exact Keeps.refl
    | with_reducible apply Keeps.step State.modPort_keeps
    | with_reducible apply Keeps.step State.bump_keeps
    | with_reducible apply Keeps.step State.agree_keeps
    | with_reducible apply Keeps.step State.event_keeps
    | decide
    | split

theorem execLinkDown_keeps {w : Wy} {p : Fin 4} {s : State} :
    KeepsO [.pcie, .ports, .regs] s (execLinkDown w p s) := by
  unfold execLinkDown
  repeat' first
    | with_reducible exact Keeps.refl
    | with_reducible apply Keeps.step State.linkDown_keeps
    | decide
    | with_reducible apply KeepsO.next

theorem State.portUp_keeps {s : State} {w : Wy} {n : Nat} :
    Keeps [.pcie, .ports, .regs] s (State.portUp s w n) := by
  unfold State.portUp
  try dsimp only
  repeat' first
    | with_reducible exact Keeps.refl
    | with_reducible apply Keeps.step State.modPort_keeps
    | with_reducible apply Keeps.step State.event_keeps
    | decide
    | split

theorem execLinkUp_keeps {w : Wy} {p : Fin 4} {s : State} :
    KeepsO [.pcie, .ports, .regs] s (execLinkUp w p s) := by
  unfold execLinkUp
  repeat' first
    | with_reducible exact Keeps.refl
    | with_reducible apply Keeps.step State.portUp_keeps
    | decide
    | with_reducible apply KeepsO.next

theorem execPortDownReport_keeps {w : Wy} {p : Fin 4} {s : State} :
    KeepsO [.ports] s (execPortDownReport w p s) := by
  unfold execPortDownReport
  try dsimp only
  repeat' first
    | with_reducible exact Keeps.refl
    | with_reducible apply Keeps.step State.modPort_keeps
    | decide
    | with_reducible apply KeepsO.next
    | split

theorem execPortAddressRestore_keeps {w : Wy} {p : Fin 4} {s : State} :
    KeepsO [.ports] s (execPortAddressRestore w p s) := by
  unfold execPortAddressRestore
  try dsimp only
  repeat' first
    | with_reducible exact Keeps.refl
    | with_reducible apply Keeps.step State.modPort_keeps
    | decide
    | with_reducible apply KeepsO.next
    | split

theorem execPpsEdge_keeps {w : Wy} {s : State} :
    KeepsO [.pcie, .ptp, .regs] s (execPpsEdge w s) := by
  unfold execPpsEdge
  try dsimp only
  repeat' first
    | with_reducible exact Keeps.refl
    | with_reducible apply Keeps.step State.setReg_keeps
    | with_reducible apply Keeps.step State.bump_keeps
    | with_reducible apply Keeps.modWy
    | with_reducible apply Keeps.step State.event_keeps
    | (intro y; with_reducible apply WKeeps.mk <;> intro h <;> first | exact absurd (by decide) h | exact rfl)
    | decide
    | with_reducible apply KeepsO.next
    | split

theorem execPpsEdgeMissing_keeps {w : Wy} {s : State} :
    KeepsO [.pcie, .regs] s (execPpsEdgeMissing w s) := by
  unfold execPpsEdgeMissing
  repeat' first
    | with_reducible exact Keeps.refl
    | with_reducible apply Keeps.step State.bump_keeps
    | with_reducible apply Keeps.step State.event_keeps
    | decide
    | with_reducible apply KeepsO.next
    | split

theorem execPpsOutSecond_keeps {w : Wy} {s : State} :
    KeepsO [] s (execPpsOutSecond w s) := by
  unfold execPpsOutSecond
  repeat' first
    | with_reducible exact Keeps.refl
    | with_reducible apply Keeps.step State.emit_keeps
    | decide
    | with_reducible apply KeepsO.next
    | split

theorem State.latchPtp_keeps {s : State} {w : Wy} :
    Keeps [.regs] s (State.latchPtp s w) := by
  unfold State.latchPtp
  try dsimp only
  repeat' first
    | with_reducible exact Keeps.refl
    | with_reducible apply Keeps.step State.setReg_keeps
    | decide

theorem execPtpTimeRead_keeps {src : AccSrc} {w : Wy} {s : State} :
    KeepsO [.pcie, .regs] s (execPtpTimeRead src w s) := by
  unfold execPtpTimeRead
  try dsimp only
  repeat' first
    | with_reducible exact Keeps.refl
    | with_reducible apply Keeps.step State.latchPtp_keeps
    | with_reducible apply State.readGate_keeps
    | (intro _; try dsimp only)
    | decide
    | with_reducible apply KeepsO.next

end Sys2Proof.Machine
end

