-- ==== Sys2Proof/Laws/KPowerStates.lean ====
section
/-! SUPPORT. What each operation of PowerStates.lean keeps. -/

-- One lemma after the other: many side by side hold too much memory when the package is one text.
set_option Elab.async false

namespace Sys2Proof.Machine

theorem State.setPs_keeps {s : State} {n : Nat} :
    Keeps [.pcie, .regs, .pwr] s (State.setPs s n) := by
  unfold State.setPs
  try dsimp only
  repeat' first
    | with_reducible exact Keeps.refl
    | with_reducible apply Keeps.step State.bump_keeps
    | with_reducible apply Keeps.step State.event_keeps
    | (with_reducible apply Keeps.foldl; intro _ _; try dsimp only)
    | (intro p hp; cases p <;> first | exact absurd (by decide) hp | (dsimp only [Part.same]; done) | (dsimp only [Part.same]; exact ⟨rfl, rfl⟩))
    | decide
    | split
    | with_reducible apply Keeps.rec_

theorem State.wake_keeps {s : State} :
    Keeps [.relief, .clk, .cip, .codec, .mortar, .pcie, .bpm, .ptp, .pairs, .regs, .store, .stripes, .refs, .jobRuns, .arriving, .pwr] s (State.wake s) := by
  unfold State.wake
  try dsimp only
  repeat' first
    | with_reducible exact Keeps.refl
    | with_reducible apply Keeps.step State.setPs_keeps
    | with_reducible apply Keeps.step State.replayHeld_keeps
    | (intro p hp; cases p <;> first | exact absurd (by decide) hp | (dsimp only [Part.same]; done) | (dsimp only [Part.same]; exact ⟨rfl, rfl⟩))
    | decide
    | with_reducible apply Keeps.rec_

theorem State.powerEval_keeps {s : State} :
    Keeps [.relief, .clk, .cip, .codec, .mortar, .pcie, .bpm, .ptp, .pairs, .regs, .store, .stripes, .refs, .jobRuns, .arriving, .pwr] s (State.powerEval s) := by
  unfold State.powerEval
  repeat' first
    | with_reducible exact Keeps.refl
    | with_reducible apply Keeps.step State.wake_keeps
    | with_reducible apply Keeps.step State.setPs_keeps
    | decide
    | split

theorem execPowerStateEntry_keeps {s : State} :
    KeepsO [.pcie, .regs, .pwr] s (execPowerStateEntry s) := by
  unfold execPowerStateEntry
  repeat' first
    | with_reducible exact Keeps.refl
    | with_reducible apply Keeps.step State.setPs_keeps
    | decide
    | with_reducible apply KeepsO.next
    | split

theorem execPowerStateExit_keeps {s : State} :
    KeepsO [.relief, .clk, .cip, .codec, .mortar, .pcie, .bpm, .ptp, .pairs, .regs, .store, .stripes, .refs, .jobRuns, .arriving, .pwr] s (execPowerStateExit s) := by
  unfold execPowerStateExit
  repeat' first
    | with_reducible exact Keeps.refl
    | with_reducible apply Keeps.step State.wake_keeps
    | decide
    | with_reducible apply KeepsO.next
    | split

end Sys2Proof.Machine
end

