-- ==== Sys2Proof/Laws/KShadow.lean ====
section
/-! SUPPORT. What each operation of Shadow.lean keeps. -/

-- One lemma after the other: many side by side hold too much memory when the package is one text.
set_option Elab.async false

namespace Sys2Proof.Machine

theorem State.applyShadows_keeps {s : State} {p : Page} :
    Keeps [.active] s (State.applyShadows s p) := by
  unfold State.applyShadows
  try dsimp only
  repeat' first
    | with_reducible exact Keeps.refl
    | with_reducible apply Keeps.step State.setAct_keeps
    | (with_reducible apply Keeps.foldl; intro _ _; try dsimp only)
    | decide

theorem State.copyWide_keeps {s : State} {p : Page} :
    Keeps [.regs, .active] s (State.copyWide s p) := by
  unfold State.copyWide
  try dsimp only
  repeat' first
    | with_reducible exact Keeps.refl
    | with_reducible apply Keeps.step State.setReg_keeps
    | with_reducible apply Keeps.step State.setAct_keeps
    | (with_reducible apply Keeps.foldl; intro _ _; try dsimp only)
    | decide
    | split

theorem State.refuseOverdue_keeps {s : State} {w : Wy} :
    Keeps [.relief, .mortar, .pcie, .bpm, .regs, .refs, .arriving, .pwr] s (State.refuseOverdue s w) := by
  unfold State.refuseOverdue
  try dsimp only
  repeat' first
    | with_reducible exact Keeps.refl
    | with_reducible apply Keeps.step State.bump_keeps
    | with_reducible apply Keeps.step State.used_keeps
    | with_reducible apply Keeps.step State.finish_keeps
    | with_reducible apply Keeps.step State.event_keeps
    | (with_reducible apply Keeps.foldl; intro _ _; try dsimp only)
    | decide

theorem State.clampShare_keeps {s : State} {i : Nat} :
    Keeps [.pcie, .regs, .media] s (State.clampShare s i) := by
  unfold State.clampShare
  try dsimp only
  repeat' first
    | with_reducible exact Keeps.refl
    | with_reducible apply Keeps.step State.modSet_keeps
    | with_reducible apply Keeps.step State.slcMarks_keeps
    | decide

theorem State.lldpCommit_keeps {old s : State} {p : Page} :
    Keeps [] s (State.lldpCommit old s p) := by
  unfold State.lldpCommit
  repeat' first
    | with_reducible exact Keeps.refl
    | with_reducible apply Keeps.step State.lldpIfNew_keeps
    | decide
    | split

theorem State.afterCommit_keeps {s : State} {p : Page} :
    Keeps [.relief, .clk, .cip, .codec, .mortar, .pcie, .bpm, .ptp, .pairs, .regs, .active, .wall, .store, .stripes, .refs, .syncQueue, .media, .jobRuns, .arriving, .plinth, .pwr] s (State.afterCommit s p) := by
  unfold State.afterCommit
  try dsimp only
  repeat' first
    | with_reducible exact Keeps.refl
    | with_reducible apply Keeps.step State.powerEval_keeps
    | with_reducible apply Keeps.step State.refuseOverdue_keeps
    | with_reducible apply Keeps.step State.form_keeps
    | with_reducible apply Keeps.step State.join_keeps
    | with_reducible apply Keeps.step State.clearJoin_keeps
    | with_reducible apply Keeps.step State.clampShare_keeps
    | (with_reducible apply Keeps.foldl; intro _ _; try dsimp only)
    | decide
    | split

theorem State.commitPage_keeps {s : State} {p : Page} {src : Nat} :
    Keeps [.relief, .clk, .cip, .codec, .mortar, .pcie, .bpm, .ptp, .pairs, .regs, .active, .wall, .store, .stripes, .refs, .syncQueue, .media, .jobRuns, .arriving, .plinth, .pwr] s (State.commitPage s p src) := by
  unfold State.commitPage
  try dsimp only
  repeat' first
    | with_reducible exact Keeps.refl
    | with_reducible apply Keeps.step State.lldpCommit_keeps
    | with_reducible apply Keeps.step State.pageError_keeps
    | with_reducible apply Keeps.step State.applyShadows_keeps
    | with_reducible apply Keeps.step State.copyWide_keeps
    | with_reducible apply Keeps.step State.afterCommit_keeps
    | decide
    | split

end Sys2Proof.Machine
end

