-- ==== Sys2Proof/Laws/KUnitState.lean ====
section
/-! SUPPORT. What each operation of UnitState.lean keeps. -/

-- One lemma after the other: many side by side hold too much memory when the package is one text.
set_option Elab.async false

namespace Sys2Proof.Machine

theorem State.giveChan_keeps {s : State} {w : Wy} {c : Nat} :
    Keeps [.media] s (State.giveChan s w c) := by
  unfold State.giveChan
  try dsimp only
  repeat' first
    | with_reducible exact Keeps.refl
    | with_reducible apply Keeps.step State.modChan_keeps
    | decide
    | split

theorem State.backChan_keeps {s : State} {w : Wy} {c : Nat} :
    Keeps [.relief, .mortar, .pcie, .regs, .stripes, .media, .arriving, .health, .pwr] s (State.backChan s w c) := by
  unfold State.backChan
  try dsimp only
  repeat' first
    | with_reducible exact Keeps.refl
    | with_reducible apply Keeps.step State.takeChannel_keeps
    | with_reducible apply Keeps.step State.modChan_keeps
    | decide
    | split

theorem State.unitDown_keeps {s : State} {p : Page} :
    Keeps [.media] s (State.unitDown s p) := by
  unfold State.unitDown
  try dsimp only
  repeat' first
    | with_reducible exact Keeps.refl
    | with_reducible apply Keeps.step State.giveChan_keeps
    | (with_reducible apply Keeps.foldl; intro _ _; try dsimp only)
    | decide
    | split

theorem State.unitUp_keeps {s : State} {p : Page} :
    Keeps [.relief, .mortar, .pcie, .regs, .stripes, .media, .arriving, .health, .pwr] s (State.unitUp s p) := by
  unfold State.unitUp
  try dsimp only
  repeat' first
    | with_reducible exact Keeps.refl
    | with_reducible apply Keeps.step State.backChan_keeps
    | (with_reducible apply Keeps.foldl; intro _ _; try dsimp only)
    | decide
    | split

theorem State.markFailed_keeps {s : State} {p : Page} :
    Keeps [.bpm, .regs, .media, .units] s (State.markFailed s p) := by
  unfold State.markFailed
  try dsimp only
  repeat' first
    | with_reducible exact Keeps.refl
    | with_reducible apply Keeps.step State.modUjob_keeps
    | with_reducible apply Keeps.step State.orphanBufs_keeps
    | with_reducible apply Keeps.step State.unitDown_keeps
    | with_reducible apply Keeps.step State.setUnit_keeps
    | decide
    | split

theorem State.testResult_keeps {s : State} {w : Wy} {result block ms_ : Nat} :
    Keeps [.regs] s (State.testResult s w result block ms_) := by
  unfold State.testResult
  repeat' first
    | with_reducible exact Keeps.refl
    | with_reducible apply Keeps.step State.setReg_keeps
    | decide

theorem State.startTest_keeps {s : State} {p : Page} {src : Nat} :
    Keeps [.pcie, .regs, .units] s (State.startTest s p src) := by
  unfold State.startTest
  try dsimp only
  repeat' first
    | with_reducible exact Keeps.refl
    | with_reducible apply Keeps.step State.modUjob_keeps
    | with_reducible apply Keeps.step State.setReg_keeps
    | with_reducible apply Keeps.step State.bump_keeps
    | with_reducible apply Keeps.step State.testResult_keeps
    | with_reducible apply Keeps.step State.pageError_keeps
    | with_reducible apply Keeps.step State.setUnit_keeps
    | decide
    | split

theorem State.endTest_keeps {s : State} {p : Page} {code info us_ : Nat} :
    Keeps [.pcie, .bpm, .regs, .media, .units] s (State.endTest s p code info us_) := by
  unfold State.endTest
  try dsimp only
  repeat' first
    | with_reducible exact Keeps.refl
    | with_reducible apply Keeps.step State.modUjob_keeps
    | with_reducible apply Keeps.step State.setReg_keeps
    | with_reducible apply Keeps.step State.bump_keeps
    | with_reducible apply Keeps.step State.testResult_keeps
    | with_reducible apply Keeps.step State.pageError_keeps
    | with_reducible apply Keeps.step State.setUnit_keeps
    | with_reducible apply Keeps.step State.anchorRec_keeps
    | with_reducible apply Keeps.step State.setRfld_keeps
    | with_reducible apply Keeps.step State.markFailed_keeps
    | with_reducible apply Keeps.step State.event_keeps
    | decide
    | split

theorem State.abortTests_keeps {s : State} {f : Page → Bool} :
    Keeps [.pcie, .bpm, .regs, .media, .units] s (State.abortTests s f) := by
  unfold State.abortTests
  try dsimp only
  repeat' first
    | with_reducible exact Keeps.refl
    | with_reducible apply Keeps.step State.endTest_keeps
    | (with_reducible apply Keeps.foldl; intro _ _; try dsimp only)
    | decide

theorem State.eraseOne_keeps {s : State} {k : Nat} :
    Keeps [.pcie, .regs, .media, .arriving] s (State.eraseOne s k) := by
  unfold State.eraseOne
  try dsimp only
  repeat' first
    | with_reducible exact Keeps.refl
    | with_reducible apply Keeps.step State.modBlk_keeps
    | with_reducible apply Keeps.step State.submit_keeps
    | with_reducible apply Keeps.step State.anchorRec_keeps
    | decide

theorem State.ctrlBit_keeps {s t : State} {p : Page} {bit : Nat} {on : Bool} (h : State.ctrlBit s p bit on = some t) :
    Keeps [.relief, .mortar, .pcie, .ports, .regs, .stripes, .media, .units, .arriving, .health, .pwr] s t := by
  unfold State.ctrlBit at h
  dsimp only at h
  repeat' split at h
  all_goals cases h
  all_goals
    repeat' first
      | with_reducible apply Keeps.refl
      | with_reducible assumption
      | with_reducible apply Keeps.step State.modUjob_keeps
      | with_reducible apply Keeps.step State.linkDown_keeps
      | with_reducible apply Keeps.step State.modChan_keeps
      | with_reducible apply Keeps.step State.unitUp_keeps
      | with_reducible apply Keeps.step State.unitDown_keeps
      | with_reducible apply Keeps.step State.setUnit_keeps
      | with_reducible apply Keeps.step State.eraseOne_keeps
      | (with_reducible apply Keeps.foldl; intro _ _; try dsimp only)
      | decide
      | split

theorem State.writePageCtrl_keeps {s : State} {p : Page} {v : Word} {src : Nat} :
    Keeps [.relief, .clk, .cip, .codec, .mortar, .pcie, .bpm, .ptp, .ports, .pairs, .regs, .active, .wall, .store, .stripes, .refs, .syncQueue, .media, .units, .jobRuns, .arriving, .plinth, .health, .pwr] s (State.writePageCtrl s p v src) := by
  unfold State.writePageCtrl
  try dsimp only
  repeat' first
    | with_reducible exact Keeps.refl
    | with_reducible apply Keeps.step State.commitPage_keeps
    | with_reducible apply Keeps.step State.pageError_keeps
    | with_reducible apply Keeps.step State.startTest_keeps
    | with_reducible apply Keeps.step (State.ctrlBit_keeps (by assumption))
    | with_reducible apply Keeps.step State.setRfld_keeps
    | decide
    | split

end Sys2Proof.Machine
end

