-- ==== Sys2Proof/Laws/KWindow.lean ====
section
/-! SUPPORT. What each operation of Window.lean keeps. -/

-- One lemma after the other: many side by side hold too much memory when the package is one text.
set_option Elab.async false

namespace Sys2Proof.Machine

theorem State.confirm_keeps {s : State} {w : Wy} {x : Placing} :
    Keeps [.relief, .clk, .cip, .codec, .mortar, .pcie, .bpm, .ptp, .regs, .store, .stripes, .refs, .jobRuns, .arriving, .pwr] s (State.confirm s w x) := by
  unfold State.confirm
  try dsimp only
  repeat' first
    | with_reducible exact Keeps.refl
    | with_reducible apply Keeps.step State.ackPlaced_keeps
    | with_reducible apply Keeps.step State.mirrored_keeps
    | with_reducible apply Keeps.step State.otherPlaced_keeps
    | with_reducible apply Keeps.step State.settleCommits_keeps
    | with_reducible apply Keeps.step State.ackWhole_keeps
    | decide
    | split

theorem State.confirmAll_keeps {s : State} {w : Wy} :
    Keeps [.relief, .clk, .cip, .codec, .mortar, .pcie, .bpm, .ptp, .regs, .store, .stripes, .refs, .jobRuns, .arriving, .pwr] s (State.confirmAll s w) := by
  unfold State.confirmAll
  try dsimp only
  repeat' first
    | with_reducible exact Keeps.refl
    | with_reducible apply Keeps.step State.confirm_keeps
    | with_reducible apply Keeps.step State.modStore_keeps
    | (with_reducible apply Keeps.foldl; intro _ _; try dsimp only)
    | decide
    | split

theorem State.losePlacing_keeps {s : State} {w : Wy} {x : Placing} :
    Keeps [.relief, .store, .stripes] s (State.losePlacing s w x) := by
  unfold State.losePlacing
  try dsimp only
  repeat' first
    | with_reducible exact Keeps.refl
    | with_reducible apply Keeps.step State.modRelief_keeps
    | with_reducible apply Keeps.step State.modStore_keeps
    | with_reducible apply Keeps.step State.modStripe_keeps
    | decide
    | split

theorem State.loseUnplaced_keeps {s : State} {w : Wy} :
    Keeps [.relief, .store, .stripes] s (State.loseUnplaced s w) := by
  unfold State.loseUnplaced
  try dsimp only
  repeat' first
    | with_reducible exact Keeps.refl
    | with_reducible apply Keeps.step State.losePlacing_keeps
    | with_reducible apply Keeps.step State.modStore_keeps
    | (with_reducible apply Keeps.foldl; intro _ _; try dsimp only)
    | decide

theorem State.loseCopy_keeps {s : State} {w : Wy} {id off : Nat} :
    Keeps [.mortar, .pcie, .regs, .stripes] s (State.loseCopy s w id off) := by
  unfold State.loseCopy
  try dsimp only
  repeat' first
    | with_reducible exact Keeps.refl
    | with_reducible apply Keeps.step State.modStripe_keeps
    | with_reducible apply Keeps.step State.mortarOut_keeps
    | (with_reducible apply Keeps.foldl; intro _ _; try dsimp only)
    | decide
    | split

theorem State.loseIndex_keeps {s : State} {w : Wy} {p v : Nat} :
    Keeps [.mortar, .pcie, .regs, .store] s (State.loseIndex s w p v) := by
  unfold State.loseIndex
  try dsimp only
  repeat' first
    | with_reducible exact Keeps.refl
    | with_reducible apply Keeps.step State.modStore_keeps
    | with_reducible apply Keeps.step State.toPart_keeps
    | (with_reducible apply Keeps.foldl; intro _ _; try dsimp only)
    | decide
    | split

end Sys2Proof.Machine
end

