-- ==== Sys2Proof/Laws/KCover.lean ====
section
/-! SUPPORT. What each operation of Cover.lean keeps. -/

-- One lemma after the other: many side by side hold too much memory when the package is one text.
set_option Elab.async false

namespace Sys2Proof.Machine

theorem State.setRun_keeps {s : State} {w : Wy} {b : Bool} :
    Keeps [.cover] s (State.setRun s w b) := by
  unfold State.setRun
  repeat' first
    | with_reducible exact Keeps.refl
    | (intro p hp; cases p <;> first | exact absurd (by decide) hp | (dsimp only [Part.same]; done) | (dsimp only [Part.same]; exact ⟨rfl, rfl⟩))
    | decide
    | split
    | with_reducible apply Keeps.rec_

theorem State.setHeld_keeps {s : State} {w : Wy} {b : Bool} :
    Keeps [.cover] s (State.setHeld s w b) := by
  unfold State.setHeld
  repeat' first
    | with_reducible exact Keeps.refl
    | (intro p hp; cases p <;> first | exact absurd (by decide) hp | (dsimp only [Part.same]; done) | (dsimp only [Part.same]; exact ⟨rfl, rfl⟩))
    | decide
    | split
    | with_reducible apply Keeps.rec_

theorem State.setNotice_keeps {s : State} {w : Wy} {b : Bool} :
    Keeps [.cover] s (State.setNotice s w b) := by
  unfold State.setNotice
  repeat' first
    | with_reducible exact Keeps.refl
    | (intro p hp; cases p <;> first | exact absurd (by decide) hp | (dsimp only [Part.same]; done) | (dsimp only [Part.same]; exact ⟨rfl, rfl⟩))
    | decide
    | split
    | with_reducible apply Keeps.rec_

theorem State.setHb_keeps {s : State} {w : Wy} :
    Keeps [.cover] s (State.setHb s w) := by
  unfold State.setHb
  repeat' first
    | with_reducible exact Keeps.refl
    | (intro p hp; cases p <;> first | exact absurd (by decide) hp | (dsimp only [Part.same]; done) | (dsimp only [Part.same]; exact ⟨rfl, rfl⟩))
    | decide
    | split
    | with_reducible apply Keeps.rec_

theorem State.peerChange_keeps {s : State} {w : Wy} :
    Keeps [.pcie, .regs] s (State.peerChange s w) := by
  unfold State.peerChange
  repeat' first
    | with_reducible exact Keeps.refl
    | with_reducible apply Keeps.step State.event_keeps
    | decide
    | split

theorem State.haltWythe_keeps {s : State} {w : Wy} :
    Keeps [.relief, .cip, .codec, .pcie, .bpm, .pairs, .serving, .regs, .heldMortar, .media, .units, .jobRuns, .cover] s (State.haltWythe s w) := by
  unfold State.haltWythe
  try dsimp only
  repeat' first
    | with_reducible exact Keeps.refl
    | with_reducible apply Keeps.step State.modMedia_keeps
    | with_reducible apply Keeps.step State.setRun_keeps
    | with_reducible apply Keeps.modWy
    | with_reducible apply Keeps.step State.peerChange_keeps
    | with_reducible apply Keeps.step State.abortTests_keeps
    | (intro p hp; cases p <;> first | exact absurd (by decide) hp | (dsimp only [Part.same]; done) | (dsimp only [Part.same]; exact ⟨rfl, rfl⟩))
    | (intro y; with_reducible apply WKeeps.mk <;> intro h <;> first | exact absurd (by decide) h | exact rfl)
    | decide
    | with_reducible apply Keeps.rec_

theorem State.resetWythe_keeps {s : State} {w : Wy} {cause : Nat} :
    Keeps [.relief, .clk, .cip, .codec, .mortar, .pcie, .bpm, .ptp, .portMode, .ports, .pairs, .serving, .start, .regs, .active, .tileFaults, .heldMortar, .media, .units, .jobRuns, .health, .cover] s (State.resetWythe s w cause) := by
  unfold State.resetWythe
  try dsimp only
  repeat' first
    | with_reducible exact Keeps.refl
    | with_reducible apply Keeps.step State.setNotice_keeps
    | with_reducible apply Keeps.step State.haltWythe_keeps
    | with_reducible apply Keeps.step State.dropRegs_keeps
    | with_reducible apply Keeps.modWy
    | (intro p hp; cases p <;> first | exact absurd (by decide) hp | (dsimp only [Part.same]; done) | (dsimp only [Part.same]; exact ⟨rfl, rfl⟩))
    | (intro y; with_reducible apply WKeeps.mk <;> intro h <;> first | exact absurd (by decide) h | exact rfl)
    | decide
    | split
    | with_reducible apply Keeps.rec_

theorem State.loseUnits_keeps {s : State} {i : Nat} {l : List UnitRef} :
    Keeps [.stripes, .media] s (State.loseUnits s i l) := by
  unfold State.loseUnits
  try dsimp only
  repeat' first
    | with_reducible exact Keeps.refl
    | with_reducible apply Keeps.step State.modStripes_keeps
    | with_reducible apply Keeps.step State.modSet_keeps
    | with_reducible apply Keeps.step State.mapDrop_keeps
    | (with_reducible apply Keeps.foldl; intro _ _; try dsimp only)
    | decide
    | split

theorem State.resyncSet_keeps {s : State} {i : Nat} :
    Keeps [.pcie, .regs, .stripes, .media, .arriving] s (State.resyncSet s i) := by
  unfold State.resyncSet
  try dsimp only
  repeat' first
    | with_reducible exact Keeps.refl
    | with_reducible apply Keeps.step State.loseUnits_keeps
    | with_reducible apply Keeps.step State.modSet_keeps
    | with_reducible apply Keeps.step State.closeSb_keeps
    | with_reducible apply Keeps.step State.placeUnits_keeps
    | (with_reducible apply Keeps.foldl; intro _ _; try dsimp only)
    | decide
    | split

theorem State.redoErases_keeps {s : State} {i : Nat} :
    Keeps [.pcie, .regs, .media, .arriving] s (State.redoErases s i) := by
  unfold State.redoErases
  try dsimp only
  repeat' first
    | with_reducible exact Keeps.refl
    | with_reducible apply Keeps.step State.submit_keeps
    | with_reducible apply Keeps.step State.modSb_keeps
    | (with_reducible apply Keeps.foldl; intro _ _; try dsimp only)
    | decide
    | split

theorem State.moveCommits_keeps {s : State} {w : Wy} :
    Keeps [.relief] s (State.moveCommits s w) := by
  unfold State.moveCommits
  try dsimp only
  repeat' first
    | with_reducible exact Keeps.refl
    | with_reducible apply Keeps.step State.modRelief_keeps
    | decide

theorem State.resendCommits_keeps {s : State} {w : Wy} :
    Keeps [.relief, .mortar, .pcie, .regs] s (State.resendCommits s w) := by
  unfold State.resendCommits
  try dsimp only
  repeat' first
    | with_reducible exact Keeps.refl
    | with_reducible apply Keeps.step State.sendIndex_keeps
    | with_reducible apply Keeps.step State.modRelief_keeps
    | (with_reducible apply Keeps.foldl; intro _ _; try dsimp only)
    | decide

theorem State.coverChans_keeps {s : State} {w : Wy} :
    Keeps [.relief, .mortar, .pcie, .regs, .stripes, .media, .arriving, .health, .pwr] s (State.coverChans s w) := by
  unfold State.coverChans
  try dsimp only
  repeat' first
    | with_reducible exact Keeps.refl
    | with_reducible apply Keeps.step State.takeChannel_keeps
    | with_reducible apply Keeps.step State.newOwner_keeps
    | with_reducible apply Keeps.step State.finishOld_keeps
    | (with_reducible apply Keeps.foldl; intro _ _; try dsimp only)
    | decide
    | split

theorem State.reopenPaused_keeps {s : State} :
    Keeps [.relief, .clk, .cip, .codec, .mortar, .pcie, .bpm, .ptp, .regs, .store, .stripes, .refs, .jobRuns, .arriving, .pwr] s (State.reopenPaused s) := by
  unfold State.reopenPaused
  try dsimp only
  repeat' first
    | with_reducible exact Keeps.refl
    | with_reducible apply Keeps.step State.openPart_keeps
    | (with_reducible apply Keeps.foldl; intro _ _; try dsimp only)
    | decide

theorem State.abandonDrain_keeps {s : State} :
    Keeps [.relief, .pcie, .regs, .fw] s (State.abandonDrain s) := by
  unfold State.abandonDrain
  try dsimp only
  repeat' first
    | with_reducible exact Keeps.refl
    | with_reducible apply Keeps.step State.endDrain_keeps
    | with_reducible apply Keeps.step State.rstEnd_keeps
    | with_reducible apply Keeps.step State.fwAbandon_keeps
    | with_reducible apply Keeps.step State.modFw_keeps
    | decide
    | split

theorem State.takeSet_keeps {s : State} {p : Wy} :
    Keeps [.pcie, .regs, .store, .stripes, .media, .arriving] s (State.takeSet s p) := by
  unfold State.takeSet
  try dsimp only
  repeat' first
    | with_reducible exact Keeps.refl
    | with_reducible apply Keeps.step State.resumeSeq_keeps
    | with_reducible apply Keeps.step State.loadSet_keeps
    | with_reducible apply Keeps.step State.restoreWindow_keeps
    | with_reducible apply Keeps.step State.redoErases_keeps
    | with_reducible apply Keeps.step State.resyncSet_keeps
    | decide
    | split

theorem State.beginCover_keeps {s : State} {w : Wy} {planned : Bool} {cause : Nat} :
    Keeps [.relief, .clk, .cip, .codec, .mortar, .pcie, .bpm, .ptp, .portMode, .ports, .pairs, .serving, .start, .regs, .active, .store, .tileFaults, .stripes, .refs, .heldMortar, .media, .units, .jobRuns, .arriving, .health, .fw, .pwr, .cover] s (State.beginCover s w planned cause) := by
  unfold State.beginCover
  try dsimp only
  repeat' first
    | with_reducible exact Keeps.refl
    | with_reducible apply Keeps.step State.takeSet_keeps
    | with_reducible apply Keeps.step State.loseUnplaced_keeps
    | with_reducible apply Keeps.step State.resendCommits_keeps
    | with_reducible apply Keeps.step State.medBits_keeps
    | with_reducible apply Keeps.step State.resetWythe_keeps
    | with_reducible apply Keeps.step State.reopenPaused_keeps
    | with_reducible apply Keeps.step State.seeHlc_keeps
    | with_reducible apply Keeps.step State.powerEval_keeps
    | with_reducible apply Keeps.step State.moveCommits_keeps
    | with_reducible apply Keeps.step State.abandonDrain_keeps
    | with_reducible apply Keeps.step State.earlyWarn_keeps
    | with_reducible apply Keeps.step State.settleSet_keeps
    | with_reducible apply Keeps.step State.peerChange_keeps
    | with_reducible apply Keeps.step State.abortTests_keeps
    | with_reducible apply Keeps.step State.coverChans_keeps
    | with_reducible apply Keeps.step State.event_keeps
    | with_reducible apply Keeps.step State.setHeld_keeps
    | (intro p hp; cases p <;> first | exact absurd (by decide) hp | (dsimp only [Part.same]; done) | (dsimp only [Part.same]; exact ⟨rfl, rfl⟩))
    | decide
    | split
    | with_reducible apply Keeps.rec_

theorem State.failWythe_keeps {s : State} {w : Wy} :
    Keeps [.relief, .cip, .codec, .pcie, .bpm, .pairs, .serving, .regs, .heldMortar, .media, .units, .jobRuns, .cover] s (State.failWythe s w) := by
  unfold State.failWythe
  repeat' first
    | with_reducible exact Keeps.refl
    | with_reducible apply Keeps.step State.setNotice_keeps
    | with_reducible apply Keeps.step State.haltWythe_keeps
    | with_reducible apply Keeps.step State.setUnit_keeps
    | decide
    | split

theorem State.wytheCheck_keeps {s : State} {w : Wy} :
    Keeps [.relief, .cip, .codec, .pcie, .bpm, .pairs, .serving, .regs, .heldMortar, .media, .units, .jobRuns, .cover] s (State.wytheCheck s w) := by
  unfold State.wytheCheck
  repeat' first
    | with_reducible exact Keeps.refl
    | with_reducible apply Keeps.step State.failWythe_keeps
    | decide
    | split

theorem State.panelCheck_keeps {s : State} {w : Wy} {panel : Fin 4} :
    Keeps [.bpm, .regs, .media, .units] s (State.panelCheck s w panel) := by
  unfold State.panelCheck
  try dsimp only
  repeat' first
    | with_reducible exact Keeps.refl
    | with_reducible apply Keeps.step State.markFailed_keeps
    | decide
    | split

theorem State.bypassCourse_keeps {s : State} {w : Wy} {c : Fin 16} :
    Keeps [.relief, .mortar, .pcie, .ports, .regs, .stripes, .media, .units, .arriving, .health, .pwr] s (State.bypassCourse s w c) := by
  unfold State.bypassCourse
  try dsimp only
  repeat' first
    | with_reducible exact Keeps.refl
    | with_reducible apply Keeps.step (State.ctrlBit_keeps (by assumption))
    | with_reducible apply Keeps.step State.setRfld_keeps
    | decide
    | split

theorem State.contain_keeps {s : State} {w : Wy} {t : Fin 128} :
    Keeps [.relief, .cip, .codec, .mortar, .pcie, .bpm, .ports, .pairs, .serving, .regs, .stripes, .heldMortar, .media, .units, .jobRuns, .arriving, .health, .pwr, .cover] s (State.contain s w t) := by
  unfold State.contain
  try dsimp only
  repeat' first
    | with_reducible exact Keeps.refl
    | with_reducible apply Keeps.step State.bypassCourse_keeps
    | with_reducible apply Keeps.step State.panelCheck_keeps
    | with_reducible apply Keeps.step State.wytheCheck_keeps
    | decide
    | split

theorem State.unitChecked_keeps {s : State} {w : Wy} {p : Page} :
    Keeps [.relief, .cip, .codec, .mortar, .pcie, .bpm, .ports, .pairs, .serving, .regs, .stripes, .heldMortar, .media, .units, .jobRuns, .arriving, .health, .pwr, .cover] s (State.unitChecked s w p) := by
  unfold State.unitChecked
  try dsimp only
  repeat' first
    | with_reducible exact Keeps.refl
    | with_reducible apply Keeps.step State.dispatchCodec_keeps
    | with_reducible apply Keeps.step State.contain_keeps
    | with_reducible apply Keeps.step State.wytheCheck_keeps
    | with_reducible apply Keeps.step State.panelCheck_keeps
    | decide
    | split

theorem State.cryptFault_keeps {s : State} {w : Wy} {t : Fin 128} {done : Nat} {j : CryptJob} :
    Keeps [.relief, .clk, .cip, .codec, .mortar, .pcie, .bpm, .ptp, .regs, .store, .stripes, .refs, .jobRuns, .arriving, .pwr] s (State.cryptFault s w t done j) := by
  unfold State.cryptFault
  try dsimp only
  repeat' first
    | with_reducible exact Keeps.refl
    | with_reducible apply Keeps.step State.jobGone_keeps
    | with_reducible apply Keeps.step State.bump_keeps
    | with_reducible apply Keeps.step State.noteRun_keeps
    | with_reducible apply Keeps.step State.modJob_keeps
    | with_reducible apply Keeps.step State.endCrypt_keeps
    | decide
    | split

theorem State.readFault_keeps {s : State} {w : Wy} {id n : Nat} {given : Bool} :
    Keeps [.relief, .clk, .cip, .codec, .mortar, .pcie, .bpm, .ptp, .regs, .store, .stripes, .refs, .jobRuns, .arriving, .pwr] s (State.readFault s w id n given) := by
  unfold State.readFault
  repeat' first
    | with_reducible exact Keeps.refl
    | with_reducible apply Keeps.step State.taint_keeps
    | with_reducible apply Keeps.step State.finish_keeps
    | with_reducible apply Keeps.step State.endJobs_keeps
    | with_reducible apply Keeps.step State.writeFails_keeps
    | decide
    | split

theorem State.decodedOut_keeps {s : State} {w : Wy} {id n done : Nat} :
    Keeps [.relief] s (State.decodedOut s w id n done) := by
  unfold State.decodedOut
  repeat' first
    | with_reducible exact Keeps.refl
    | with_reducible apply Keeps.step State.deliver_keeps
    | decide
    | split

theorem State.codecFault_keeps {s : State} {w : Wy} {t : Fin 128} {done : Nat} {j : CodecJob} :
    Keeps [.relief, .clk, .cip, .codec, .mortar, .pcie, .bpm, .ptp, .regs, .store, .stripes, .refs, .jobRuns, .arriving, .pwr] s (State.codecFault s w t done j) := by
  unfold State.codecFault
  try dsimp only
  repeat' first
    | with_reducible exact Keeps.refl
    | with_reducible apply Keeps.step State.modCodec_keeps
    | with_reducible apply Keeps.step State.dispatchCodec_keeps
    | with_reducible apply Keeps.step State.jobGone_keeps
    | with_reducible apply Keeps.step State.readFault_keeps
    | with_reducible apply Keeps.step State.decodedOut_keeps
    | with_reducible apply Keeps.step State.bump_keeps
    | with_reducible apply Keeps.step State.noteRun_keeps
    | with_reducible apply Keeps.step State.writeFails_keeps
    | with_reducible apply Keeps.step State.forgetRuns_keeps
    | decide
    | split

theorem State.bufferFault_keeps {s : State} {w : Wy} {ref : JobRef} :
    Keeps [.relief, .clk, .cip, .codec, .mortar, .pcie, .bpm, .ptp, .regs, .store, .stripes, .refs, .jobRuns, .arriving, .pwr] s (State.bufferFault s w ref) := by
  unfold State.bufferFault
  try dsimp only
  repeat' first
    | with_reducible exact Keeps.refl
    | with_reducible apply Keeps.step State.dropCodec_keeps
    | with_reducible apply Keeps.step State.endCrypt_keeps
    | with_reducible apply Keeps.step State.readFault_keeps
    | with_reducible apply Keeps.step State.writeFails_keeps
    | (with_reducible apply Keeps.foldl; intro _ _; try dsimp only)
    | decide
    | split

theorem State.pullAgain_keeps {s : State} {w : Wy} {c : Cmd} {n q : Nat} :
    Keeps [] s (State.pullAgain s w c n q) := by
  unfold State.pullAgain
  repeat' first
    | with_reducible exact Keeps.refl
    | with_reducible apply Keeps.step State.emit_keeps
    | decide
    | split

theorem State.pullFault_keeps {s : State} {w : Wy} {t : Fin 128} {id n : Nat} :
    Keeps [.relief, .clk, .cip, .codec, .mortar, .pcie, .bpm, .ptp, .pairs, .regs, .store, .refs, .jobRuns, .arriving, .pwr] s (State.pullFault s w t id n) := by
  unfold State.pullFault
  try dsimp only
  repeat' first
    | with_reducible exact Keeps.refl
    | with_reducible apply Keeps.step State.noteRun_keeps
    | with_reducible apply Keeps.step State.sendAcks_keeps
    | with_reducible apply Keeps.step State.writeFails_keeps
    | with_reducible apply Keeps.step State.modQueue_keeps
    | with_reducible apply Keeps.step State.modRelief_keeps
    | with_reducible apply Keeps.step State.bump_keeps
    | with_reducible apply Keeps.step State.pullAgain_keeps
    | decide
    | split

theorem State.moveJobs_keeps {s : State} {w : Wy} {onTiles : Fin 128 → Bool} {away : Fin 16 → Fin 16} :
    Keeps [.cip, .codec, .pcie, .regs] s (State.moveJobs s w onTiles away) := by
  unfold State.moveJobs
  try dsimp only
  repeat' first
    | with_reducible exact Keeps.refl
    | with_reducible apply Keeps.step State.dispatchCodec_keeps
    | with_reducible apply Keeps.step State.modCodec_keeps
    | with_reducible apply Keeps.step State.modCip_keeps
    | decide
    | split

theorem State.tileFails_keeps {s : State} {w : Wy} {t : Fin 128} {f : TileFault} :
    Keeps [.relief, .cip, .codec, .mortar, .pcie, .bpm, .ports, .pairs, .serving, .regs, .stripes, .heldMortar, .media, .units, .jobRuns, .arriving, .health, .pwr, .cover] s (State.tileFails s w t f) := by
  unfold State.tileFails
  try dsimp only
  repeat' first
    | with_reducible exact Keeps.refl
    | with_reducible apply Keeps.step State.moveJobs_keeps
    | with_reducible apply Keeps.step State.contain_keeps
    | with_reducible apply Keeps.step State.pageError_keeps
    | with_reducible apply Keeps.step State.setRfld_keeps
    | with_reducible apply Keeps.step State.markFailed_keeps
    | decide

theorem State.jobFault_keeps {s : State} {w : Wy} {t : Fin 128} {job : Option JobRef} {done : Nat} :
    Keeps [.relief, .clk, .cip, .codec, .mortar, .pcie, .bpm, .ptp, .pairs, .regs, .store, .stripes, .refs, .jobRuns, .arriving, .pwr] s (State.jobFault s w t job done) := by
  unfold State.jobFault
  try dsimp only
  repeat' first
    | with_reducible exact Keeps.refl
    | with_reducible apply Keeps.step State.cryptFault_keeps
    | with_reducible apply Keeps.step State.codecFault_keeps
    | with_reducible apply Keeps.step State.pullFault_keeps
    | (with_reducible apply Keeps.foldl; intro _ _; try dsimp only)
    | decide
    | split

theorem State.faultOn_keeps {s : State} {w : Wy} {tile : Fin 128} {fault : TileFault} {job : Option JobRef} {done : Nat} :
    Keeps [.relief, .clk, .cip, .codec, .mortar, .pcie, .bpm, .ptp, .ports, .pairs, .serving, .regs, .store, .tileFaults, .stripes, .refs, .heldMortar, .media, .units, .jobRuns, .arriving, .health, .pwr, .cover] s (State.faultOn s w tile fault job done) := by
  unfold State.faultOn
  try dsimp only
  repeat' first
    | with_reducible exact Keeps.refl
    | with_reducible apply Keeps.step State.event_keeps
    | with_reducible apply Keeps.step State.bump_keeps
    | with_reducible apply Keeps.step State.setReg_keeps
    | with_reducible apply Keeps.step State.jobFault_keeps
    | with_reducible apply Keeps.step State.tileFails_keeps
    | (intro p hp; cases p <;> first | exact absurd (by decide) hp | (dsimp only [Part.same]; done) | (dsimp only [Part.same]; exact ⟨rfl, rfl⟩))
    | decide
    | split
    | with_reducible apply Keeps.rec_

theorem State.sramFault_keeps {s : State} {w : Wy} {c : Fin 16} :
    Keeps [.pcie, .regs] s (State.sramFault s w c) := by
  unfold State.sramFault
  try dsimp only
  repeat' first
    | with_reducible exact Keeps.refl
    | with_reducible apply Keeps.step State.event_keeps
    | with_reducible apply Keeps.step State.bump_keeps
    | decide
    | split

theorem State.courseFault_keeps {s : State} {w : Wy} {t : Fin 128} :
    Keeps [.relief, .cip, .codec, .mortar, .pcie, .bpm, .ports, .pairs, .serving, .regs, .stripes, .heldMortar, .media, .units, .jobRuns, .arriving, .health, .pwr, .cover] s (State.courseFault s w t) := by
  unfold State.courseFault
  try dsimp only
  repeat' first
    | with_reducible exact Keeps.refl
    | with_reducible apply Keeps.step State.modCodec_keeps
    | with_reducible apply Keeps.step State.bypassCourse_keeps
    | with_reducible apply Keeps.step State.modCip_keeps
    | with_reducible apply Keeps.step State.moveJobs_keeps
    | with_reducible apply Keeps.step State.wytheCheck_keeps
    | with_reducible apply Keeps.step State.panelCheck_keeps
    | decide

theorem State.sliceFault_keeps {s : State} {w : Wy} {t : Fin 128} :
    Keeps [.relief, .cip, .codec, .pcie, .bpm, .pairs, .serving, .regs, .heldMortar, .media, .units, .jobRuns, .cover] s (State.sliceFault s w t) := by
  unfold State.sliceFault
  try dsimp only
  repeat' first
    | with_reducible exact Keeps.refl
    | with_reducible apply Keeps.step State.markFailed_keeps
    | with_reducible apply Keeps.step State.wytheCheck_keeps
    | with_reducible apply Keeps.step State.moveJobs_keeps
    | decide
    | split

theorem execTileFault_keeps {w : Wy} {tile : Fin 128} {fault : TileFault} {job : Option JobRef} {done : Nat} {site : FaultSite} {s : State} :
    KeepsO [.relief, .clk, .cip, .codec, .mortar, .pcie, .bpm, .ptp, .ports, .pairs, .serving, .regs, .store, .tileFaults, .stripes, .refs, .heldMortar, .media, .units, .jobRuns, .arriving, .health, .pwr, .cover] s (execTileFault w tile fault job done site s) := by
  unfold execTileFault
  repeat' first
    | with_reducible exact Keeps.refl
    | with_reducible apply Keeps.step State.countError_keeps
    | with_reducible apply Keeps.step State.faultOn_keeps
    | with_reducible apply Keeps.step State.sramFault_keeps
    | with_reducible apply Keeps.step State.courseFault_keeps
    | with_reducible apply Keeps.step State.sliceFault_keeps
    | with_reducible apply Keeps.step State.failWythe_keeps
    | (with_reducible apply Keeps.foldl; intro _ _; try dsimp only)
    | decide
    | with_reducible apply KeepsO.next
    | split

end Sys2Proof.Machine
end

