-- ==== Sys2Proof/Laws/KPlinth.lean ====
section
/-! SUPPORT. What each operation of Plinth.lean keeps. -/

-- One lemma after the other: many side by side hold too much memory when the package is one text.
set_option Elab.async false

namespace Sys2Proof.Machine

theorem State.modFront_keeps {s : State} {f : Front → Front} :
    Keeps [.front] s (State.modFront s f) := by
  unfold State.modFront
  repeat' first
    | with_reducible exact Keeps.refl
    | (intro p hp; cases p <;> first | exact absurd (by decide) hp | (dsimp only [Part.same]; done) | (dsimp only [Part.same]; exact ⟨rfl, rfl⟩))
    | decide
    | with_reducible apply Keeps.rec_

theorem State.supplies_keeps {s : State} {auxA auxB vbus advert : Nat} {pd usb : Bool} :
    Keeps [.plinth] s (State.supplies s auxA auxB vbus advert pd usb) := by
  unfold State.supplies
  try dsimp only
  repeat' first
    | with_reducible exact Keeps.refl
    | with_reducible apply Keeps.step State.modPlinth_keeps
    | decide
    | split

theorem State.pickSource_keeps {s : State} :
    Keeps [.pcie, .regs, .plinth] s (State.pickSource s) := by
  unfold State.pickSource
  try dsimp only
  repeat' first
    | with_reducible exact Keeps.refl
    | with_reducible apply Keeps.step State.bump_keeps
    | with_reducible apply Keeps.step State.modPlinth_keeps
    | with_reducible apply Keeps.step State.event_keeps
    | decide
    | split

theorem execPowerSourceChange_keeps {auxA auxB vbus advert : Nat} {pd usb : Bool} {s : State} :
    KeepsO [.pcie, .regs, .plinth] s (execPowerSourceChange auxA auxB vbus advert pd usb s) := by
  unfold execPowerSourceChange
  try dsimp only
  repeat' first
    | with_reducible exact Keeps.refl
    | with_reducible apply Keeps.step State.pickSource_keeps
    | with_reducible apply Keeps.step State.supplies_keeps
    | with_reducible apply Keeps.step State.event_keeps
    | decide
    | with_reducible apply KeepsO.next
    | split

theorem State.choosePlinth_keeps {s : State} :
    Keeps [.pcie, .regs, .plinth, .fw] s (State.choosePlinth s) := by
  unfold State.choosePlinth
  try dsimp only
  repeat' first
    | with_reducible exact Keeps.refl
    | with_reducible apply Keeps.step State.stamp_keeps
    | with_reducible apply Keeps.step State.modPlinth_keeps
    | with_reducible apply Keeps.step State.fwFallback_keeps
    | decide
    | split

theorem State.loadKeys_keeps {s : State} {ksA ksB : Bool} :
    Keeps [.pcie, .regs, .arriving, .plinth] s (State.loadKeys s ksA ksB) := by
  unfold State.loadKeys
  try dsimp only
  repeat' first
    | with_reducible exact Keeps.refl
    | with_reducible apply Keeps.step State.modPlinth_keeps
    | with_reducible apply Keeps.step State.recordOpen_keeps
    | with_reducible apply Keeps.step State.event_keeps
    | decide
    | split

theorem State.dropSessions_keeps {s : State} :
    Keeps [.pcie, .regs, .plinth] s (State.dropSessions s) := by
  unfold State.dropSessions
  try dsimp only
  repeat' first
    | with_reducible exact Keeps.refl
    | with_reducible apply Keeps.step State.modPlinth_keeps
    | with_reducible apply Keeps.step State.emitAll_keeps
    | with_reducible apply Keeps.step State.event_keeps
    | decide
    | split

theorem State.plinthBoot_keeps {s : State} {cal ksA ksB : Bool} :
    Keeps [.pcie, .regs, .arriving, .flash, .recorder, .plinth, .front, .fw] s (State.plinthBoot s cal ksA ksB) := by
  unfold State.plinthBoot
  try dsimp only
  repeat' first
    | with_reducible exact Keeps.refl
    | with_reducible apply Keeps.step State.recorderStart_keeps
    | with_reducible apply Keeps.step State.modFront_keeps
    | with_reducible apply Keeps.step State.modPlinth_keeps
    | with_reducible apply Keeps.step State.dropSessions_keeps
    | with_reducible apply Keeps.step State.choosePlinth_keeps
    | with_reducible apply Keeps.step State.loadKeys_keeps
    | with_reducible apply Keeps.step State.recordOpen_keeps
    | decide
    | split

theorem State.mated_keeps {s : State} :
    Keeps [.pcie, .regs, .arriving, .front, .health] s (State.mated s) := by
  unfold State.mated
  try dsimp only
  repeat' first
    | with_reducible exact Keeps.refl
    | with_reducible apply Keeps.step State.modFront_keeps
    | with_reducible apply Keeps.step State.snapshot_keeps
    | with_reducible apply Keeps.step State.recordOpen_keeps
    | with_reducible apply Keeps.step State.modHealth_keeps
    | with_reducible apply Keeps.step State.event_keeps
    | decide
    | split

theorem execPlinthPowerUp_keeps {auxA auxB vbus advert : Nat} {pd usb cal ksA ksB presentA presentB : Bool} {slotA slotB : Nat} {s : State} :
    KeepsO [.pcie, .regs, .arriving, .flash, .recorder, .plinth, .front, .health, .fw] s (execPlinthPowerUp auxA auxB vbus advert pd usb cal ksA ksB presentA presentB slotA slotB s) := by
  unfold execPlinthPowerUp
  try dsimp only
  repeat' first
    | with_reducible exact Keeps.refl
    | with_reducible apply Keeps.step State.mated_keeps
    | with_reducible apply Keeps.step State.modFront_keeps
    | with_reducible apply Keeps.step State.modPlinth_keeps
    | with_reducible apply Keeps.step State.plinthBoot_keeps
    | with_reducible apply Keeps.step State.supplies_keeps
    | (with_reducible apply Keeps.foldl; intro _ _; try dsimp only)
    | decide
    | with_reducible apply KeepsO.next
    | split

theorem execLossOfEverySupply_keeps {s : State} :
    KeepsO [.regs, .active, .recorder, .plinth, .front] s (execLossOfEverySupply s) := by
  unfold execLossOfEverySupply
  try dsimp only
  repeat' first
    | with_reducible exact Keeps.refl
    | with_reducible apply Keeps.step State.modFront_keeps
    | with_reducible apply Keeps.step State.modPlinth_keeps
    | with_reducible apply Keeps.step State.dropRegs_keeps
    | with_reducible apply Keeps.step State.modRec_keeps
    | decide
    | with_reducible apply KeepsO.next
    | split

theorem State.hearPlinth_keeps {s : State} {w : Wy} :
    Keeps [.regs, .plinth] s (State.hearPlinth s w) := by
  unfold State.hearPlinth
  try dsimp only
  repeat' first
    | with_reducible exact Keeps.refl
    | with_reducible apply Keeps.step State.modPlinth_keeps
    | with_reducible apply Keeps.step State.setRfld_keeps
    | decide
    | split

theorem execHousekeepingHeartbeat_keeps {s : State} :
    KeepsO [.pcie, .regs, .flash, .plinth, .fw] s (execHousekeepingHeartbeat s) := by
  unfold execHousekeepingHeartbeat
  try dsimp only
  repeat' first
    | with_reducible exact Keeps.refl
    | with_reducible apply Keeps.step State.hearPlinth_keeps
    | with_reducible apply Keeps.step State.fwCommit_keeps
    | (with_reducible apply Keeps.foldl; intro _ _; try dsimp only)
    | decide
    | with_reducible apply KeepsO.next
    | split

theorem execHousekeepingLoss_keeps {w : Wy} {s : State} :
    KeepsO [.pcie, .regs, .plinth] s (execHousekeepingLoss w s) := by
  unfold execHousekeepingLoss
  try dsimp only
  repeat' first
    | with_reducible exact Keeps.refl
    | with_reducible apply Keeps.step State.modPlinth_keeps
    | with_reducible apply Keeps.step State.setRfld_keeps
    | with_reducible apply Keeps.step State.event_keeps
    | decide
    | with_reducible apply KeepsO.next
    | split

theorem execPlinthFailed_keeps {s : State} :
    KeepsO [.plinth] s (execPlinthFailed s) := by
  unfold execPlinthFailed
  try dsimp only
  repeat' first
    | with_reducible exact Keeps.refl
    | with_reducible apply Keeps.step State.modPlinth_keeps
    | decide
    | with_reducible apply KeepsO.next
    | split

theorem execPlinthWatchdog_keeps {cal ksA ksB : Bool} {s : State} :
    KeepsO [.pcie, .regs, .arriving, .flash, .recorder, .plinth, .front, .fw] s (execPlinthWatchdog cal ksA ksB s) := by
  unfold execPlinthWatchdog
  repeat' first
    | with_reducible exact Keeps.refl
    | with_reducible apply Keeps.step State.bump_keeps
    | with_reducible apply Keeps.step State.plinthBoot_keeps
    | with_reducible apply Keeps.step State.event_keeps
    | decide
    | with_reducible apply KeepsO.next
    | split

theorem execPlinthTimeSet_keeps {w : Wy} {s : State} :
    KeepsO [.plinth] s (execPlinthTimeSet w s) := by
  unfold execPlinthTimeSet
  try dsimp only
  repeat' first
    | with_reducible exact Keeps.refl
    | with_reducible apply Keeps.step State.modPlinth_keeps
    | decide
    | with_reducible apply KeepsO.next
    | split

theorem execEventEntry_keeps {s : State} :
    KeepsO [.pcie, .regs, .arriving, .flash, .recorder, .plinth] s (execEventEntry s) := by
  unfold execEventEntry
  try dsimp only
  repeat' first
    | with_reducible exact Keeps.refl
    | with_reducible apply Keeps.step State.takeEntry_keeps
    | (intro p hp; cases p <;> first | exact absurd (by decide) hp | (dsimp only [Part.same]; done) | (dsimp only [Part.same]; exact ⟨rfl, rfl⟩))
    | decide
    | with_reducible apply KeepsO.next
    | split
    | with_reducible apply Keeps.rec_

theorem State.loadOptions_keeps {s : State} :
    Keeps [.pcie, .regs, .arriving, .plinth] s (State.loadOptions s) := by
  unfold State.loadOptions
  try dsimp only
  repeat' first
    | with_reducible exact Keeps.refl
    | with_reducible apply Keeps.step State.modPlinth_keeps
    | with_reducible apply Keeps.step State.recordOpen_keeps
    | with_reducible apply Keeps.step State.event_keeps
    | (with_reducible apply Keeps.foldl; intro _ _; try dsimp only)
    | decide
    | split

theorem State.command_keeps {l : List Part} {s t : State} {n right : Nat} {ok : Bool} {f : State → State}
    (hf : ∀ v, Keeps l v (f v)) (h : Keeps l s t) : Keeps l s (t.command n right ok f) := by
  have hl : within [] l = true := rfl
  unfold State.command
  repeat' first
    | with_reducible apply Keeps.refl
    | with_reducible assumption
    | with_reducible exact hl
    | with_reducible apply Keeps.app hf
    | with_reducible apply Keeps.step State.emit_keeps
    | decide
    | split

theorem State.rewrap_keeps {s : State} {g : Nat} :
    Keeps [.cip, .pcie, .regs, .media] s (State.rewrap s g) := by
  unfold State.rewrap
  try dsimp only
  repeat' first
    | with_reducible exact Keeps.refl
    | with_reducible apply Keeps.step State.keepSlots_keeps
    | with_reducible apply Keeps.step State.modCip_keeps
    | (with_reducible apply Keeps.foldl; intro _ _; try dsimp only)
    | decide
    | split

theorem State.finishRekey_keeps {s : State} :
    Keeps [.cip, .pcie, .regs, .media, .flash, .plinth] s (State.finishRekey s) := by
  unfold State.finishRekey
  try dsimp only
  repeat' first
    | with_reducible exact Keeps.refl
    | with_reducible apply Keeps.step State.writeKeys_keeps
    | with_reducible apply Keeps.step State.rewrap_keeps
    | with_reducible apply Keeps.step State.raiseCounter_keeps
    | decide
    | split

theorem execRekey_keeps {session : Nat} {s : State} :
    KeepsO [.cip, .pcie, .regs, .media, .flash, .plinth] s (execRekey session s) := by
  unfold execRekey
  try dsimp only
  repeat' first
    | with_reducible exact Keeps.refl
    | with_reducible apply Keeps.step State.writeKeys_keeps
    | with_reducible apply State.command_keeps
    | with_reducible apply Keeps.step State.finishRekey_keeps
    | (intro _; try dsimp only)
    | decide
    | with_reducible apply KeepsO.next

theorem execRecorderClear_keeps {session : Nat} {s : State} :
    KeepsO [.pcie, .regs, .arriving, .flash, .recorder, .plinth] s (execRecorderClear session s) := by
  unfold execRecorderClear
  try dsimp only
  repeat' first
    | with_reducible exact Keeps.refl
    | with_reducible apply State.command_keeps
    | with_reducible apply Keeps.step State.beginClear_keeps
    | (intro _; try dsimp only)
    | decide
    | with_reducible apply KeepsO.next

theorem State.putPflReq_keeps {s : State} {src : AccSrc} {op : Nat → Bytes → FlashOp} :
    Keeps [.pcie, .regs, .arriving, .flash, .recorder, .plinth] s (State.putPflReq s src op) := by
  unfold State.putPflReq
  try dsimp only
  repeat' first
    | with_reducible exact Keeps.refl
    | with_reducible apply Keeps.step State.flashAsk_keeps
    | with_reducible apply Keeps.step State.flashEnd_keeps
    | decide
    | split

theorem State.pflAsk_keeps {s : State} {src : AccSrc} {op : Nat → Bytes → FlashOp} :
    Keeps [.pcie, .regs, .arriving, .flash, .recorder, .plinth] s (State.pflAsk s src op) := by
  unfold State.pflAsk
  try dsimp only
  repeat' first
    | with_reducible exact Keeps.refl
    | with_reducible apply State.gated_keeps
    | with_reducible apply Keeps.step State.putPflReq_keeps
    | (intro _; try dsimp only)
    | decide

theorem execPflRead_keeps {src : AccSrc} {step corrected : Nat} {s : State} :
    KeepsO [.pcie, .regs, .arriving, .flash, .recorder, .plinth] s (execPflRead src step corrected s) := by
  unfold execPflRead
  try dsimp only
  repeat' first
    | with_reducible exact Keeps.refl
    | with_reducible apply Keeps.step State.pflAsk_keeps
    | decide
    | with_reducible apply KeepsO.next

theorem execPflProgram_keeps {src : AccSrc} {ok : Bool} {s : State} :
    KeepsO [.pcie, .regs, .arriving, .flash, .recorder, .plinth] s (execPflProgram src ok s) := by
  unfold execPflProgram
  try dsimp only
  repeat' first
    | with_reducible exact Keeps.refl
    | with_reducible apply Keeps.step State.pflAsk_keeps
    | decide
    | with_reducible apply KeepsO.next

theorem execPflErase_keeps {src : AccSrc} {s : State} :
    KeepsO [.pcie, .regs, .arriving, .flash, .recorder, .plinth] s (execPflErase src s) := by
  unfold execPflErase
  try dsimp only
  repeat' first
    | with_reducible exact Keeps.refl
    | with_reducible apply Keeps.step State.pflAsk_keeps
    | decide
    | with_reducible apply KeepsO.next

theorem State.evrLatch_keeps {s : State} {n : Nat} :
    Keeps [.recorder] s (State.evrLatch s n) := by
  unfold State.evrLatch
  try dsimp only
  repeat' first
    | with_reducible exact Keeps.refl
    | with_reducible apply Keeps.step State.modBank_keeps
    | decide

theorem execEvrWindowLatch_keeps {src : AccSrc} {s : State} :
    KeepsO [.pcie, .regs, .recorder] s (execEvrWindowLatch src s) := by
  unfold execEvrWindowLatch
  try dsimp only
  repeat' first
    | with_reducible exact Keeps.refl
    | with_reducible apply State.readGate_keeps
    | with_reducible apply Keeps.step State.evrLatch_keeps
    | (intro _; try dsimp only)
    | decide
    | with_reducible apply KeepsO.next

theorem State.evrSee_keeps {s : State} {n k : Nat} :
    Keeps [.recorder] s (State.evrSee s n k) := by
  unfold State.evrSee
  try dsimp only
  repeat' first
    | with_reducible exact Keeps.refl
    | with_reducible apply Keeps.step State.modBank_keeps
    | decide
    | split

theorem State.evrAdvance_keeps {s : State} {n : Nat} :
    Keeps [.recorder] s (State.evrAdvance s n) := by
  unfold State.evrAdvance
  try dsimp only
  repeat' first
    | with_reducible exact Keeps.refl
    | with_reducible apply Keeps.step State.modBank_keeps
    | with_reducible apply Keeps.step State.modRec_keeps
    | decide
    | split

theorem execEvrWindowAdvance_keeps {src : AccSrc} {s : State} :
    KeepsO [.pcie, .regs, .recorder] s (execEvrWindowAdvance src s) := by
  unfold execEvrWindowAdvance
  try dsimp only
  repeat' first
    | with_reducible exact Keeps.refl
    | with_reducible apply State.readGate_keeps
    | with_reducible apply Keeps.step State.evrAdvance_keeps
    | (intro _; try dsimp only)
    | decide
    | with_reducible apply KeepsO.next

theorem State.setCursor_keeps {s : State} {n : Nat} {lo : Word} :
    Keeps [.recorder] s (State.setCursor s n lo) := by
  unfold State.setCursor
  try dsimp only
  repeat' first
    | with_reducible exact Keeps.refl
    | with_reducible apply Keeps.step State.modBank_keeps
    | decide

theorem execEvrCursorSet_keeps {src : AccSrc} {lo : Word} {s : State} :
    KeepsO [.pcie, .regs, .recorder] s (execEvrCursorSet src lo s) := by
  unfold execEvrCursorSet
  try dsimp only
  repeat' first
    | with_reducible exact Keeps.refl
    | with_reducible apply State.gated_keeps
    | with_reducible apply Keeps.step State.setCursor_keeps
    | (intro _; try dsimp only)
    | decide
    | with_reducible apply KeepsO.next

end Sys2Proof.Machine
end

