-- ==== Sys2Proof/Laws/KStart.lean ====
section
/-! SUPPORT. What each operation of Start.lean keeps. -/

-- One lemma after the other: many side by side hold too much memory when the package is one text.
set_option Elab.async false

namespace Sys2Proof.Machine

theorem State.modStart_keeps {s : State} {w : Wy} {f : StartSt → StartSt} :
    Keeps [.start] s (State.modStart s w f) := by
  unfold State.modStart
  try dsimp only
  repeat' first
    | with_reducible exact Keeps.refl
    | with_reducible apply Keeps.modWy
    | (intro y; with_reducible apply WKeeps.mk <;> intro h <;> first | exact absurd (by decide) h | exact rfl)
    | decide

theorem State.setRel_keeps {s : State} {w : Wy} {b : Bool} :
    Keeps [.cover] s (State.setRel s w b) := by
  unfold State.setRel
  repeat' first
    | with_reducible exact Keeps.refl
    | (intro p hp; cases p <;> first | exact absurd (by decide) hp | (dsimp only [Part.same]; done) | (dsimp only [Part.same]; exact ⟨rfl, rfl⟩))
    | decide
    | split
    | with_reducible apply Keeps.rec_

theorem State.ringStep_keeps {s : State} {step : Nat} :
    Keeps [.pcie, .regs, .flash] s (State.ringStep s step) := by
  unfold State.ringStep
  try dsimp only
  repeat' first
    | with_reducible exact Keeps.refl
    | with_reducible apply Keeps.step State.startStep_keeps
    | (with_reducible apply Keeps.foldl; intro _ _; try dsimp only)
    | decide
    | split

theorem State.putOnline_keeps {s : State} {p : Page} :
    Keeps [.regs] s (State.putOnline s p) := by
  unfold State.putOnline
  repeat' first
    | with_reducible exact Keeps.refl
    | with_reducible apply Keeps.step State.setReg_keeps
    | decide

theorem State.setShadow_keeps {s : State} {p : Page} {off : Nat} {v : Word} :
    Keeps [.regs, .active] s (State.setShadow s p off v) := by
  unfold State.setShadow
  repeat' first
    | with_reducible exact Keeps.refl
    | with_reducible apply Keeps.step State.setReg_keeps
    | with_reducible apply Keeps.step State.setAct_keeps
    | decide

theorem State.optionRegs_keeps {s : State} {w : Wy} :
    Keeps [.regs, .active, .wall] s (State.optionRegs s w) := by
  unfold State.optionRegs
  try dsimp only
  repeat' first
    | with_reducible exact Keeps.refl
    | with_reducible apply Keeps.step State.modWall_keeps
    | with_reducible apply Keeps.step State.setShadow_keeps
    | (with_reducible apply Keeps.foldl; intro _ _; try dsimp only)
    | decide
    | split

theorem State.releaseWythe_keeps {s : State} {w : Wy} :
    Keeps [.relief, .cip, .mortar, .pcie, .portMode, .regs, .active, .wall, .stripes, .media, .arriving, .health, .pwr, .cover] s (State.releaseWythe s w) := by
  unfold State.releaseWythe
  try dsimp only
  repeat' first
    | with_reducible exact Keeps.refl
    | with_reducible apply Keeps.step State.optionRegs_keeps
    | with_reducible apply Keeps.step State.setReg_keeps
    | with_reducible apply Keeps.step State.takeChannel_keeps
    | with_reducible apply Keeps.step State.used_keeps
    | with_reducible apply Keeps.step State.putOnline_keeps
    | with_reducible apply Keeps.modWy
    | with_reducible apply Keeps.step State.setRel_keeps
    | with_reducible apply Keeps.step State.setHeld_keeps
    | (with_reducible apply Keeps.foldl; intro _ _; try dsimp only)
    | (intro y; with_reducible apply WKeeps.mk <;> intro h <;> first | exact absurd (by decide) h | exact rfl)
    | decide
    | split

theorem State.dropChannels_keeps {s : State} :
    Keeps [.relief, .mortar, .pcie, .regs, .stripes, .media, .arriving, .health, .pwr] s (State.dropChannels s) := by
  unfold State.dropChannels
  try dsimp only
  repeat' first
    | with_reducible exact Keeps.refl
    | with_reducible apply Keeps.step State.newOwner_keeps
    | with_reducible apply Keeps.step State.finishOld_keeps
    | (with_reducible apply Keeps.foldl; intro _ _; try dsimp only)
    | decide
    | split

theorem State.romOnly_keeps {s : State} :
    Keeps [.relief, .cip, .mortar, .pcie, .portMode, .start, .regs, .active, .wall, .stripes, .media, .arriving, .health, .pwr, .cover] s (State.romOnly s) := by
  unfold State.romOnly
  try dsimp only
  repeat' first
    | with_reducible exact Keeps.refl
    | with_reducible apply Keeps.step State.modStart_keeps
    | with_reducible apply Keeps.step State.releaseWythe_keeps
    | (with_reducible apply Keeps.foldl; intro _ _; try dsimp only)
    | decide
    | split

theorem State.enterRecovery_keeps {s : State} :
    Keeps [.relief, .clk, .cip, .codec, .mortar, .pcie, .bpm, .ptp, .portMode, .ports, .pairs, .serving, .start, .regs, .active, .wall, .tileFaults, .stripes, .heldMortar, .media, .units, .jobRuns, .arriving, .plinth, .health, .pwr, .cover] s (State.enterRecovery s) := by
  unfold State.enterRecovery
  try dsimp only
  repeat' first
    | with_reducible exact Keeps.refl
    | with_reducible apply Keeps.step State.resetWythe_keeps
    | with_reducible apply Keeps.step State.dropChannels_keeps
    | with_reducible apply Keeps.step State.romOnly_keeps
    | with_reducible apply Keeps.step State.modPlinth_keeps
    | (intro p hp; cases p <;> first | exact absurd (by decide) hp | (dsimp only [Part.same]; done) | (dsimp only [Part.same]; exact ⟨rfl, rfl⟩))
    | decide
    | with_reducible apply Keeps.rec_

theorem State.failStart_keeps {s : State} :
    Keeps [.relief, .clk, .cip, .codec, .mortar, .pcie, .bpm, .ptp, .portMode, .ports, .pairs, .serving, .start, .regs, .active, .wall, .tileFaults, .stripes, .heldMortar, .media, .units, .jobRuns, .arriving, .plinth, .health, .pwr, .cover] s (State.failStart s) := by
  unfold State.failStart
  try dsimp only
  repeat' first
    | with_reducible exact Keeps.refl
    | with_reducible apply Keeps.step State.enterRecovery_keeps
    | with_reducible apply Keeps.step State.modPlinth_keeps
    | decide
    | split

theorem State.checkStart_keeps {s : State} :
    Keeps [.relief, .clk, .cip, .codec, .mortar, .pcie, .bpm, .ptp, .portMode, .ports, .pairs, .serving, .start, .regs, .active, .wall, .tileFaults, .stripes, .heldMortar, .media, .units, .jobRuns, .arriving, .plinth, .health, .pwr, .cover] s (State.checkStart s) := by
  unfold State.checkStart
  try dsimp only
  repeat' first
    | with_reducible exact Keeps.refl
    | with_reducible apply Keeps.step State.failStart_keeps
    | decide
    | split

theorem State.stepEnd_keeps {s : State} {w : Wy} {step result variant : Nat} :
    Keeps [.relief, .clk, .cip, .codec, .mortar, .pcie, .bpm, .ptp, .portMode, .ports, .pairs, .serving, .start, .regs, .active, .wall, .tileFaults, .stripes, .heldMortar, .media, .units, .jobRuns, .arriving, .flash, .plinth, .health, .pwr, .cover] s (State.stepEnd s w step result variant) := by
  unfold State.stepEnd
  try dsimp only
  repeat' first
    | with_reducible exact Keeps.refl
    | with_reducible apply Keeps.step State.checkStart_keeps
    | with_reducible apply Keeps.step State.ringStep_keeps
    | with_reducible apply Keeps.step State.modStart_keeps
    | (with_reducible apply Keeps.foldl; intro _ _; try dsimp only)
    | decide
    | split

theorem State.brickStep_keeps {s : State} {step result variant : Nat} :
    Keeps [.pcie, .start, .regs, .flash] s (State.brickStep s step result variant) := by
  unfold State.brickStep
  try dsimp only
  repeat' first
    | with_reducible exact Keeps.refl
    | with_reducible apply Keeps.step State.modStart_keeps
    | with_reducible apply Keeps.step State.startStep_keeps
    | decide

theorem execPlinthRom_keeps {cal ksA ksB : Bool} {s : State} :
    KeepsO [.relief, .clk, .cip, .codec, .mortar, .pcie, .bpm, .ptp, .portMode, .ports, .pairs, .serving, .start, .regs, .active, .wall, .tileFaults, .stripes, .heldMortar, .media, .units, .jobRuns, .arriving, .flash, .recorder, .plinth, .front, .health, .fw, .pwr, .cover] s (execPlinthRom cal ksA ksB s) := by
  unfold execPlinthRom
  try dsimp only
  repeat' first
    | with_reducible exact Keeps.refl
    | with_reducible apply Keeps.step State.failStart_keeps
    | with_reducible apply Keeps.step State.plinthBoot_keeps
    | with_reducible apply Keeps.step State.startStep_keeps
    | with_reducible apply Keeps.step State.brickStep_keeps
    | decide
    | with_reducible apply KeepsO.next
    | split

theorem execOptionsLoad_keeps {s : State} :
    KeepsO [.pcie, .start, .regs, .arriving, .flash, .plinth] s (execOptionsLoad s) := by
  unfold execOptionsLoad
  repeat' first
    | with_reducible exact Keeps.refl
    | with_reducible apply Keeps.step State.loadOptions_keeps
    | with_reducible apply Keeps.step State.brickStep_keeps
    | decide
    | with_reducible apply KeepsO.next
    | split

theorem execWytheRelease_keeps {w : Wy} {ok : Bool} {s : State} :
    KeepsO [.relief, .clk, .cip, .codec, .mortar, .pcie, .bpm, .ptp, .portMode, .ports, .pairs, .serving, .start, .regs, .active, .wall, .tileFaults, .stripes, .heldMortar, .media, .units, .jobRuns, .arriving, .flash, .plinth, .health, .pwr, .cover] s (execWytheRelease w ok s) := by
  unfold execWytheRelease
  try dsimp only
  repeat' first
    | with_reducible exact Keeps.refl
    | with_reducible apply Keeps.step State.finishRekey_keeps
    | with_reducible apply Keeps.step State.stepEnd_keeps
    | with_reducible apply Keeps.step State.releaseWythe_keeps
    | decide
    | with_reducible apply KeepsO.next
    | split

theorem execDramTrain_keeps {w : Wy} {saved : Bool} {results : List DramResult} {s : State} :
    KeepsO [.relief, .clk, .cip, .codec, .mortar, .pcie, .bpm, .ptp, .portMode, .ports, .pairs, .serving, .start, .regs, .active, .wall, .tileFaults, .stripes, .heldMortar, .media, .units, .jobRuns, .arriving, .flash, .plinth, .health, .pwr, .cover] s (execDramTrain w saved results s) := by
  unfold execDramTrain
  try dsimp only
  repeat' first
    | with_reducible exact Keeps.refl
    | with_reducible apply Keeps.step State.setReg_keeps
    | with_reducible apply Keeps.step State.used_keeps
    | with_reducible apply Keeps.step State.modPlinth_keeps
    | with_reducible apply Keeps.step State.stepEnd_keeps
    | with_reducible apply Keeps.step State.setRfld_keeps
    | (with_reducible apply Keeps.foldl; intro _ _; try dsimp only)
    | decide
    | with_reducible apply KeepsO.next
    | split

theorem State.tieTrain_keeps {s : State} {lanes : Nat} :
    Keeps [.pcie, .regs, .arriving, .cover] s (State.tieTrain s lanes) := by
  unfold State.tieTrain
  try dsimp only
  repeat' first
    | with_reducible exact Keeps.refl
    | with_reducible apply Keeps.step State.recordOpen_keeps
    | with_reducible apply Keeps.step State.event_keeps
    | (intro p hp; cases p <;> first | exact absurd (by decide) hp | (dsimp only [Part.same]; done) | (dsimp only [Part.same]; exact ⟨rfl, rfl⟩))
    | decide
    | split
    | with_reducible apply Keeps.rec_

theorem execLinkTrain_keeps {w : Wy} {lanes : Nat} {ports : List Nat} {pcie : Option (Nat × Nat)} {s : State} :
    KeepsO [.relief, .clk, .cip, .codec, .mortar, .pcie, .bpm, .ptp, .portMode, .ports, .pairs, .serving, .start, .regs, .active, .wall, .tileFaults, .stripes, .heldMortar, .media, .units, .jobRuns, .arriving, .flash, .plinth, .health, .pwr, .cover] s (execLinkTrain w lanes ports pcie s) := by
  unfold execLinkTrain
  try dsimp only
  repeat' first
    | with_reducible exact Keeps.refl
    | with_reducible apply Keeps.step State.portUp_keeps
    | with_reducible apply Keeps.step State.modPcie_keeps
    | with_reducible apply Keeps.step State.tieTrain_keeps
    | with_reducible apply Keeps.step State.putOnline_keeps
    | with_reducible apply Keeps.step State.stepEnd_keeps
    | (with_reducible apply Keeps.foldl; intro _ _; try dsimp only)
    | decide
    | with_reducible apply KeepsO.next
    | split

theorem State.runImage_keeps {s : State} {w : Wy} {b trial : Bool} :
    Keeps [.pcie, .start, .regs, .wall, .plinth, .fw, .cover] s (State.runImage s w b trial) := by
  unfold State.runImage
  try dsimp only
  repeat' first
    | with_reducible exact Keeps.refl
    | with_reducible apply Keeps.step State.modWall_keeps
    | with_reducible apply Keeps.step State.setReg_keeps
    | with_reducible apply Keeps.step State.modFwSlot_keeps
    | with_reducible apply Keeps.step State.modPlinth_keeps
    | with_reducible apply Keeps.step State.putOnline_keeps
    | with_reducible apply Keeps.step State.setRun_keeps
    | with_reducible apply Keeps.step State.modStart_keeps
    | with_reducible apply Keeps.step State.peerChange_keeps
    | with_reducible apply Keeps.step State.setHb_keeps
    | (with_reducible apply Keeps.foldl; intro _ _; try dsimp only)
    | decide
    | split

theorem State.trialEnds_keeps {s : State} {w : Wy} :
    Keeps [.pcie, .regs, .fw] s (State.trialEnds s w) := by
  unfold State.trialEnds
  repeat' first
    | with_reducible exact Keeps.refl
    | with_reducible apply Keeps.step State.fwFallback_keeps
    | decide
    | split

theorem execImageVerify_keeps {w : Wy} {okA okB : Bool} {s : State} :
    KeepsO [.relief, .clk, .cip, .codec, .mortar, .pcie, .bpm, .ptp, .portMode, .ports, .pairs, .serving, .start, .regs, .active, .wall, .tileFaults, .stripes, .heldMortar, .media, .units, .jobRuns, .arriving, .flash, .plinth, .health, .fw, .pwr, .cover] s (execImageVerify w okA okB s) := by
  unfold execImageVerify
  try dsimp only
  repeat' first
    | with_reducible exact Keeps.refl
    | with_reducible apply Keeps.step State.trialEnds_keeps
    | with_reducible apply Keeps.step State.stamp_keeps
    | with_reducible apply Keeps.step State.stepEnd_keeps
    | with_reducible apply Keeps.step State.recordOpen_keeps
    | with_reducible apply Keeps.step State.runImage_keeps
    | decide
    | with_reducible apply KeepsO.next
    | split

theorem State.countRestart_keeps {s : State} {w : Wy} :
    Keeps [.plinth] s (State.countRestart s w) := by
  unfold State.countRestart
  try dsimp only
  repeat' first
    | with_reducible exact Keeps.refl
    | with_reducible apply Keeps.step State.modPlinth_keeps
    | decide
    | split

theorem State.writeGen_keeps {s : State} {w : Wy} {g : SetGen} :
    Keeps [.fw] s (State.writeGen s w g) := by
  unfold State.writeGen
  try dsimp only
  repeat' first
    | with_reducible exact Keeps.refl
    | with_reducible apply Keeps.step State.modFw_keeps
    | decide
    | split

theorem State.applySetting_keeps {s : State} {w : Wy} {x : Setting} :
    Keeps [.ports, .regs, .active, .wall, .store, .media] s (State.applySetting s w x) := by
  unfold State.applySetting
  try dsimp only
  repeat' first
    | with_reducible exact Keeps.refl
    | with_reducible apply Keeps.step State.modPort_keeps
    | with_reducible apply Keeps.step State.modWall_keeps
    | with_reducible apply Keeps.step State.modMedia_keeps
    | with_reducible apply Keeps.step State.setShadow_keeps
    | with_reducible apply Keeps.step State.modStore_keeps
    | decide
    | split

theorem State.startPools_keeps {s : State} {w : Wy} {recs : List Setting} {scale : Option (Nat × Nat)} :
    Keeps [.bpm, .arriving] s (State.startPools s w recs scale) := by
  unfold State.startPools
  try dsimp only
  repeat' first
    | with_reducible exact Keeps.refl
    | with_reducible apply Keeps.step State.fillPools_keeps
    | with_reducible apply Keeps.step State.recordOpen_keeps
    | decide
    | split

theorem State.retrain_keeps {s : State} {w : Wy} {m : Nat} {ports : List Nat} :
    Keeps [.pcie, .portMode, .ports, .regs, .arriving] s (State.retrain s w m ports) := by
  unfold State.retrain
  try dsimp only
  repeat' first
    | with_reducible exact Keeps.refl
    | with_reducible apply Keeps.step State.portUp_keeps
    | with_reducible apply Keeps.step State.setReg_keeps
    | with_reducible apply Keeps.step State.linkDown_keeps
    | with_reducible apply Keeps.step State.putOnline_keeps
    | with_reducible apply Keeps.modWy
    | with_reducible apply Keeps.step State.recordOpen_keeps
    | (with_reducible apply Keeps.foldl; intro _ _; try dsimp only)
    | (intro y; with_reducible apply WKeeps.mk <;> intro h <;> first | exact absurd (by decide) h | exact rfl)
    | decide
    | split

theorem State.takeSettings_keeps {s : State} {w : Wy} {g : Option SetGen} {scale : Option (Nat × Nat)} {ports : List Nat} :
    Keeps [.pcie, .bpm, .portMode, .ports, .regs, .active, .wall, .store, .media, .arriving, .plinth] s (State.takeSettings s w g scale ports) := by
  unfold State.takeSettings
  try dsimp only
  repeat' first
    | with_reducible exact Keeps.refl
    | with_reducible apply Keeps.step State.setReg_keeps
    | with_reducible apply Keeps.step State.startPools_keeps
    | with_reducible apply Keeps.step State.applySetting_keeps
    | with_reducible apply Keeps.step State.modPlinth_keeps
    | with_reducible apply Keeps.step State.retrain_keeps
    | (with_reducible apply Keeps.foldl; intro _ _; try dsimp only)
    | decide
    | split

theorem execSettingsLoad_keeps {w : Wy} {ok : Bool} {scale : Option (Nat × Nat)} {conv : List Setting} {ports : List Nat} {s : State} :
    KeepsO [.relief, .clk, .cip, .codec, .mortar, .pcie, .bpm, .ptp, .portMode, .ports, .pairs, .serving, .start, .regs, .active, .wall, .store, .tileFaults, .stripes, .heldMortar, .media, .units, .jobRuns, .arriving, .flash, .plinth, .health, .fw, .pwr, .cover] s (execSettingsLoad w ok scale conv ports s) := by
  unfold execSettingsLoad
  try dsimp only
  repeat' first
    | with_reducible exact Keeps.refl
    | with_reducible apply Keeps.step State.setReg_keeps
    | with_reducible apply Keeps.step State.countRestart_keeps
    | with_reducible apply Keeps.step State.takeSettings_keeps
    | with_reducible apply Keeps.step State.trialEnds_keeps
    | with_reducible apply Keeps.step State.stepEnd_keeps
    | with_reducible apply Keeps.step State.recordOpen_keeps
    | with_reducible apply Keeps.step State.writeGen_keeps
    | with_reducible apply Keeps.step State.runImage_keeps
    | decide
    | with_reducible apply KeepsO.next
    | split

theorem State.loadTables_keeps {s : State} {w : Wy} :
    Keeps [.regs, .media] s (State.loadTables s w) := by
  unfold State.loadTables
  try dsimp only
  repeat' first
    | with_reducible exact Keeps.refl
    | with_reducible apply Keeps.step State.setReg_keeps
    | with_reducible apply Keeps.step State.modMedia_keeps
    | (with_reducible apply Keeps.foldl; intro _ _; try dsimp only)
    | decide

theorem State.loadSlots_keeps {s : State} {w : Wy} :
    Keeps [.cip] s (State.loadSlots s w) := by
  unfold State.loadSlots
  try dsimp only
  repeat' first
    | with_reducible exact Keeps.refl
    | with_reducible apply Keeps.step State.requestAll_keeps
    | with_reducible apply Keeps.step State.modCip_keeps
    | decide

theorem execAnchorLoad_keeps {w : Wy} {aOk bOk : Bool} {s : State} :
    KeepsO [.relief, .clk, .cip, .codec, .mortar, .pcie, .bpm, .ptp, .portMode, .ports, .pairs, .serving, .start, .regs, .active, .wall, .tileFaults, .stripes, .heldMortar, .media, .units, .jobRuns, .arriving, .flash, .plinth, .health, .pwr, .cover] s (execAnchorLoad w aOk bOk s) := by
  unfold execAnchorLoad
  try dsimp only
  repeat' first
    | with_reducible exact Keeps.refl
    | with_reducible apply Keeps.step State.loadSet_keeps
    | with_reducible apply Keeps.step State.loadSlots_keeps
    | with_reducible apply Keeps.step State.loadTables_keeps
    | with_reducible apply Keeps.step State.modCip_keeps
    | with_reducible apply Keeps.step State.stepEnd_keeps
    | with_reducible apply Keeps.step State.loseAnchor_keeps
    | decide
    | with_reducible apply KeepsO.next
    | split

theorem execTagScan_keeps {w : Wy} {failed : List (Fin 32)} {lostRecs : List (Nat × Nat)} {lostStripes : List Nat} {s : State} :
    KeepsO [.relief, .clk, .cip, .codec, .mortar, .pcie, .bpm, .ptp, .portMode, .ports, .pairs, .serving, .start, .regs, .active, .wall, .store, .tileFaults, .stripes, .heldMortar, .media, .units, .jobRuns, .arriving, .flash, .plinth, .health, .pwr, .cover] s (execTagScan w failed lostRecs lostStripes s) := by
  unfold execTagScan
  try dsimp only
  repeat' first
    | with_reducible exact Keeps.refl
    | with_reducible apply Keeps.step State.restoreWindow_keeps
    | with_reducible apply Keeps.step State.redoErases_keeps
    | with_reducible apply Keeps.step State.degradeChan_keeps
    | with_reducible apply Keeps.step State.resyncSet_keeps
    | with_reducible apply Keeps.step State.settleSet_keeps
    | with_reducible apply Keeps.step State.stepEnd_keeps
    | (with_reducible apply Keeps.foldl; intro _ _; try dsimp only)
    | decide
    | with_reducible apply KeepsO.next
    | split

theorem State.takeWide_keeps {s : State} {from_ : Wy} :
    Keeps [.regs, .active] s (State.takeWide s from_) := by
  unfold State.takeWide
  repeat' first
    | with_reducible exact Keeps.refl
    | with_reducible apply Keeps.step State.copyWide_keeps
    | decide

theorem State.restartDone_keeps {s : State} {w : Wy} :
    Keeps [.plinth] s (State.restartDone s w) := by
  unfold State.restartDone
  try dsimp only
  repeat' first
    | with_reducible exact Keeps.refl
    | with_reducible apply Keeps.step State.modPlinth_keeps
    | decide

theorem State.trySync_keeps {s : State} :
    Keeps [.relief, .clk, .cip, .codec, .mortar, .pcie, .bpm, .ptp, .portMode, .ports, .pairs, .serving, .start, .regs, .active, .wall, .tileFaults, .stripes, .heldMortar, .media, .units, .jobRuns, .arriving, .flash, .plinth, .health, .fw, .pwr, .cover] s (State.trySync s) := by
  unfold State.trySync
  try dsimp only
  repeat' first
    | with_reducible exact Keeps.refl
    | with_reducible apply Keeps.step State.restartDone_keeps
    | with_reducible apply Keeps.step State.stepEnd_keeps
    | with_reducible apply Keeps.step State.modFw_keeps
    | with_reducible apply Keeps.step State.takeWide_keeps
    | with_reducible apply Keeps.step State.event_keeps
    | (intro p hp; cases p <;> first | exact absurd (by decide) hp | (dsimp only [Part.same]; done) | (dsimp only [Part.same]; exact ⟨rfl, rfl⟩))
    | decide
    | split
    | with_reducible apply Keeps.rec_

theorem execTieSync_keeps {w : Wy} {s : State} :
    KeepsO [.relief, .clk, .cip, .codec, .mortar, .pcie, .bpm, .ptp, .portMode, .ports, .pairs, .serving, .start, .regs, .active, .wall, .tileFaults, .stripes, .heldMortar, .media, .units, .jobRuns, .arriving, .flash, .plinth, .health, .fw, .pwr, .cover] s (execTieSync w s) := by
  unfold execTieSync
  try dsimp only
  repeat' first
    | with_reducible exact Keeps.refl
    | with_reducible apply Keeps.step State.trySync_keeps
    | with_reducible apply Keeps.step State.modStart_keeps
    | decide
    | with_reducible apply KeepsO.next
    | split

theorem execTieSyncTimeout_keeps {w : Wy} {s : State} :
    KeepsO [.relief, .clk, .cip, .codec, .mortar, .pcie, .bpm, .ptp, .portMode, .ports, .pairs, .serving, .start, .regs, .active, .store, .tileFaults, .stripes, .refs, .heldMortar, .media, .units, .jobRuns, .arriving, .flash, .health, .fw, .pwr, .cover] s (execTieSyncTimeout w s) := by
  unfold execTieSyncTimeout
  try dsimp only
  repeat' first
    | with_reducible exact Keeps.refl
    | with_reducible apply Keeps.step State.ringStep_keeps
    | with_reducible apply Keeps.step State.beginCover_keeps
    | with_reducible apply Keeps.step State.modStart_keeps
    | with_reducible apply Keeps.step State.setRel_keeps
    | (with_reducible apply Keeps.foldl; intro _ _; try dsimp only)
    | decide
    | with_reducible apply KeepsO.next
    | split

theorem State.autoRegs_keeps {s : State} {w : Wy} :
    Keeps [.regs, .active] s (State.autoRegs s w) := by
  unfold State.autoRegs
  try dsimp only
  repeat' first
    | with_reducible exact Keeps.refl
    | with_reducible apply Keeps.step State.setShadow_keeps
    | decide

theorem State.wallJoin_keeps {s : State} {w : Wy} :
    Keeps [.relief, .clk, .cip, .codec, .mortar, .pcie, .bpm, .ptp, .portMode, .ports, .pairs, .serving, .start, .regs, .active, .wall, .tileFaults, .stripes, .heldMortar, .media, .units, .jobRuns, .arriving, .flash, .plinth, .health, .pwr, .cover] s (State.wallJoin s w) := by
  unfold State.wallJoin
  try dsimp only
  repeat' first
    | with_reducible exact Keeps.refl
    | with_reducible apply Keeps.step State.modWall_keeps
    | with_reducible apply Keeps.step State.join_keeps
    | with_reducible apply Keeps.step State.autoRegs_keeps
    | with_reducible apply Keeps.step State.stepEnd_keeps
    | decide
    | split

theorem execWallJoin_keeps {w : Wy} {s : State} :
    KeepsO [.relief, .clk, .cip, .codec, .mortar, .pcie, .bpm, .ptp, .portMode, .ports, .pairs, .serving, .start, .regs, .active, .wall, .tileFaults, .stripes, .heldMortar, .media, .units, .jobRuns, .arriving, .flash, .plinth, .health, .pwr, .cover] s (execWallJoin w s) := by
  unfold execWallJoin
  repeat' first
    | with_reducible exact Keeps.refl
    | with_reducible apply Keeps.step State.wallJoin_keeps
    | decide
    | with_reducible apply KeepsO.next
    | split

theorem execWallJoinRetry_keeps {w : Wy} {s : State} :
    KeepsO [.relief, .clk, .cip, .codec, .mortar, .pcie, .bpm, .ptp, .portMode, .ports, .pairs, .serving, .start, .regs, .active, .wall, .tileFaults, .stripes, .heldMortar, .media, .units, .jobRuns, .arriving, .flash, .plinth, .health, .pwr, .cover] s (execWallJoinRetry w s) := by
  unfold execWallJoinRetry
  repeat' first
    | with_reducible exact Keeps.refl
    | with_reducible apply Keeps.step State.wallJoin_keeps
    | decide
    | with_reducible apply KeepsO.next
    | split

theorem State.commitTrial_keeps {s : State} {w : Wy} :
    Keeps [.pcie, .start, .regs, .flash, .fw] s (State.commitTrial s w) := by
  unfold State.commitTrial
  try dsimp only
  repeat' first
    | with_reducible exact Keeps.refl
    | with_reducible apply Keeps.step State.fwCommit_keeps
    | with_reducible apply Keeps.step State.modStart_keeps
    | decide
    | split

theorem State.startOver_keeps {s : State} :
    Keeps [.pcie, .regs, .flash, .plinth] s (State.startOver s) := by
  unfold State.startOver
  try dsimp only
  repeat' first
    | with_reducible exact Keeps.refl
    | with_reducible apply Keeps.step State.eraseRing_keeps
    | with_reducible apply Keeps.step State.modPlinth_keeps
    | decide
    | split

theorem execServiceOpen_keeps {w : Wy} {s : State} :
    KeepsO [.relief, .clk, .cip, .codec, .mortar, .pcie, .bpm, .ptp, .portMode, .ports, .pairs, .serving, .start, .regs, .active, .wall, .store, .tileFaults, .stripes, .refs, .heldMortar, .media, .units, .jobRuns, .arriving, .flash, .plinth, .health, .fw, .pwr, .cover] s (execServiceOpen w s) := by
  unfold execServiceOpen
  try dsimp only
  repeat' first
    | with_reducible exact Keeps.refl
    | with_reducible apply Keeps.step State.commitTrial_keeps
    | with_reducible apply Keeps.step State.powerEval_keeps
    | with_reducible apply Keeps.step State.modPlinth_keeps
    | with_reducible apply Keeps.step State.startOver_keeps
    | with_reducible apply Keeps.step State.stepEnd_keeps
    | with_reducible apply Keeps.modWy
    | (intro y; with_reducible apply WKeeps.mk <;> intro h <;> first | exact absurd (by decide) h | exact rfl)
    | decide
    | with_reducible apply KeepsO.next
    | split

theorem execStartTimeout_keeps {s : State} :
    KeepsO [.relief, .clk, .cip, .codec, .mortar, .pcie, .bpm, .ptp, .portMode, .ports, .pairs, .serving, .start, .regs, .active, .wall, .tileFaults, .stripes, .heldMortar, .media, .units, .jobRuns, .arriving, .plinth, .health, .pwr, .cover] s (execStartTimeout s) := by
  unfold execStartTimeout
  try dsimp only
  repeat' first
    | with_reducible exact Keeps.refl
    | with_reducible apply Keeps.step State.failStart_keeps
    | decide
    | with_reducible apply KeepsO.next
    | split

end Sys2Proof.Machine
end

