-- ==== Sys2Proof/Laws/KRestart.lean ====
section
/-! SUPPORT. What each operation of Restart.lean keeps. -/

-- One lemma after the other: many side by side hold too much memory when the package is one text.
set_option Elab.async false

namespace Sys2Proof.Machine

theorem State.restartWythe_keeps {s : State} {w : Wy} {cause : Nat} :
    Keeps [.relief, .clk, .cip, .codec, .mortar, .pcie, .bpm, .ptp, .portMode, .ports, .pairs, .serving, .start, .regs, .active, .wall, .tileFaults, .stripes, .heldMortar, .media, .units, .jobRuns, .arriving, .plinth, .health, .pwr, .cover] s (State.restartWythe s w cause) := by
  unfold State.restartWythe
  try dsimp only
  repeat' first
    | with_reducible exact Keeps.refl
    | with_reducible apply Keeps.step State.countRestart_keeps
    | with_reducible apply Keeps.step State.resetWythe_keeps
    | with_reducible apply Keeps.step State.modStart_keeps
    | with_reducible apply Keeps.step State.releaseWythe_keeps
    | decide

theorem State.awaitRestart_keeps {s : State} {w : Wy} :
    Keeps [.plinth] s (State.awaitRestart s w) := by
  unfold State.awaitRestart
  try dsimp only
  repeat' first
    | with_reducible exact Keeps.refl
    | with_reducible apply Keeps.step State.modPlinth_keeps
    | decide

theorem execCrossResetClear_keeps {s : State} :
    KeepsO [.relief, .clk, .cip, .codec, .mortar, .pcie, .bpm, .ptp, .portMode, .ports, .pairs, .serving, .start, .regs, .active, .wall, .tileFaults, .stripes, .heldMortar, .media, .units, .jobRuns, .arriving, .plinth, .health, .pwr, .cover] s (execCrossResetClear s) := by
  unfold execCrossResetClear
  try dsimp only
  repeat' first
    | with_reducible exact Keeps.refl
    | with_reducible apply Keeps.step State.awaitRestart_keeps
    | with_reducible apply Keeps.step State.restartWythe_keeps
    | decide
    | with_reducible apply KeepsO.next
    | split

theorem execRestartTimeout_keeps {w : Wy} {s : State} :
    KeepsO [.relief, .clk, .cip, .codec, .mortar, .pcie, .bpm, .ptp, .portMode, .ports, .pairs, .serving, .start, .regs, .active, .tileFaults, .heldMortar, .media, .units, .jobRuns, .arriving, .plinth, .health, .cover] s (execRestartTimeout w s) := by
  unfold execRestartTimeout
  try dsimp only
  repeat' first
    | with_reducible exact Keeps.refl
    | with_reducible apply Keeps.step State.resetWythe_keeps
    | with_reducible apply Keeps.step State.rstEnd_keeps
    | with_reducible apply Keeps.step State.restartDone_keeps
    | with_reducible apply Keeps.step State.modPlinth_keeps
    | with_reducible apply Keeps.step State.recordOpen_keeps
    | with_reducible apply Keeps.step State.setRel_keeps
    | with_reducible apply Keeps.step State.setHeld_keeps
    | (intro p hp; cases p <;> first | exact absurd (by decide) hp | (dsimp only [Part.same]; done) | (dsimp only [Part.same]; exact ⟨rfl, rfl⟩))
    | decide
    | with_reducible apply KeepsO.next
    | split
    | with_reducible apply Keeps.rec_

theorem execTieHeartbeatSend_keeps {w : Wy} {s : State} :
    KeepsO [.pcie, .regs, .cover] s (execTieHeartbeatSend w s) := by
  unfold execTieHeartbeatSend
  try dsimp only
  repeat' first
    | with_reducible exact Keeps.refl
    | with_reducible apply Keeps.step State.bumpBy_keeps
    | with_reducible apply Keeps.step State.setHb_keeps
    | decide
    | with_reducible apply KeepsO.next
    | split

theorem State.tieFailure_keeps {s : State} {w : Wy} :
    Keeps [.arriving, .plinth, .cover] s (State.tieFailure s w) := by
  unfold State.tieFailure
  try dsimp only
  repeat' first
    | with_reducible exact Keeps.refl
    | with_reducible apply Keeps.step State.record_keeps
    | with_reducible apply Keeps.step State.modPlinth_keeps
    | (intro p hp; cases p <;> first | exact absurd (by decide) hp | (dsimp only [Part.same]; done) | (dsimp only [Part.same]; exact ⟨rfl, rfl⟩))
    | decide
    | with_reducible apply Keeps.rec_

theorem State.coverNow_keeps {s : State} {w : Wy} :
    Keeps [.relief, .clk, .cip, .codec, .mortar, .pcie, .bpm, .ptp, .portMode, .ports, .pairs, .serving, .start, .regs, .active, .store, .tileFaults, .stripes, .refs, .heldMortar, .media, .units, .jobRuns, .arriving, .plinth, .health, .fw, .pwr, .cover] s (State.coverNow s w) := by
  unfold State.coverNow
  try dsimp only
  repeat' first
    | with_reducible exact Keeps.refl
    | with_reducible apply Keeps.step State.beginCover_keeps
    | with_reducible apply Keeps.step State.tieFailure_keeps
    | with_reducible apply Keeps.step State.setRel_keeps
    | decide
    | split

theorem execTieHeartbeatLoss_keeps {w : Wy} {s : State} :
    KeepsO [.relief, .clk, .cip, .codec, .mortar, .pcie, .bpm, .ptp, .portMode, .ports, .pairs, .serving, .start, .regs, .active, .store, .tileFaults, .stripes, .refs, .heldMortar, .media, .units, .jobRuns, .arriving, .plinth, .health, .fw, .pwr, .cover] s (execTieHeartbeatLoss w s) := by
  unfold execTieHeartbeatLoss
  try dsimp only
  repeat' first
    | with_reducible exact Keeps.refl
    | with_reducible apply Keeps.step State.bumpBy_keeps
    | with_reducible apply Keeps.step State.coverNow_keeps
    | with_reducible apply Keeps.step State.event_keeps
    | decide
    | with_reducible apply KeepsO.next
    | split

theorem execCrossResetDelay_keeps {s : State} :
    KeepsO [.relief, .clk, .cip, .codec, .mortar, .pcie, .bpm, .ptp, .portMode, .ports, .pairs, .serving, .start, .regs, .active, .store, .tileFaults, .stripes, .refs, .heldMortar, .media, .units, .jobRuns, .arriving, .plinth, .health, .fw, .pwr, .cover] s (execCrossResetDelay s) := by
  unfold execCrossResetDelay
  repeat' first
    | with_reducible exact Keeps.refl
    | with_reducible apply Keeps.step State.coverNow_keeps
    | decide
    | with_reducible apply KeepsO.next
    | split

theorem execFailedNotice_keeps {w : Wy} {s : State} :
    KeepsO [.relief, .clk, .cip, .codec, .mortar, .pcie, .bpm, .ptp, .portMode, .ports, .pairs, .serving, .start, .regs, .active, .store, .tileFaults, .stripes, .refs, .heldMortar, .media, .units, .jobRuns, .arriving, .plinth, .health, .fw, .pwr, .cover] s (execFailedNotice w s) := by
  unfold execFailedNotice
  repeat' first
    | with_reducible exact Keeps.refl
    | with_reducible apply Keeps.step State.coverNow_keeps
    | with_reducible apply Keeps.step State.setRfld_keeps
    | decide
    | with_reducible apply KeepsO.next
    | split

theorem execTieLaneFail_keeps {lanes : Nat} {s : State} :
    KeepsO [.pcie, .regs, .arriving, .cover] s (execTieLaneFail lanes s) := by
  unfold execTieLaneFail
  try dsimp only
  repeat' first
    | with_reducible exact Keeps.refl
    | with_reducible apply Keeps.step State.bumpBy_keeps
    | with_reducible apply Keeps.step State.tieTrain_keeps
    | decide
    | with_reducible apply KeepsO.next
    | split

theorem execWytheWatchdog_keeps {w : Wy} {s : State} :
    KeepsO [.relief, .clk, .cip, .codec, .mortar, .pcie, .bpm, .ptp, .portMode, .ports, .pairs, .serving, .start, .regs, .active, .wall, .tileFaults, .stripes, .heldMortar, .media, .units, .jobRuns, .arriving, .plinth, .health, .pwr, .cover] s (execWytheWatchdog w s) := by
  unfold execWytheWatchdog
  try dsimp only
  repeat' first
    | with_reducible exact Keeps.refl
    | with_reducible apply Keeps.step State.bump_keeps
    | with_reducible apply Keeps.step State.resetWythe_keeps
    | with_reducible apply Keeps.step State.setNotice_keeps
    | with_reducible apply Keeps.step State.failWythe_keeps
    | with_reducible apply Keeps.step State.restartWythe_keeps
    | with_reducible apply Keeps.step State.modStart_keeps
    | decide
    | with_reducible apply KeepsO.next
    | split

theorem execClockMonitor_keeps {w : Wy} {ppm : Int} {s : State} :
    KeepsO [.relief, .cip, .codec, .pcie, .bpm, .pairs, .serving, .regs, .heldMortar, .media, .units, .jobRuns, .cover] s (execClockMonitor w ppm s) := by
  unfold execClockMonitor
  try dsimp only
  repeat' first
    | with_reducible exact Keeps.refl
    | with_reducible apply Keeps.step State.setReg_keeps
    | with_reducible apply Keeps.step State.bump_keeps
    | with_reducible apply Keeps.step State.failWythe_keeps
    | with_reducible apply Keeps.step State.setRfld_keeps
    | with_reducible apply Keeps.step State.event_keeps
    | decide
    | with_reducible apply KeepsO.next
    | split

theorem execPllUnlock_keeps {w : Wy} {s : State} :
    KeepsO [.relief, .cip, .codec, .pcie, .bpm, .pairs, .serving, .regs, .heldMortar, .media, .units, .jobRuns, .cover] s (execPllUnlock w s) := by
  unfold execPllUnlock
  try dsimp only
  repeat' first
    | with_reducible exact Keeps.refl
    | with_reducible apply Keeps.step State.bump_keeps
    | with_reducible apply Keeps.step State.failWythe_keeps
    | with_reducible apply Keeps.step State.setRfld_keeps
    | with_reducible apply Keeps.step State.event_keeps
    | decide
    | with_reducible apply KeepsO.next
    | split

theorem State.pauseParts_keeps {s : State} {w : Wy} :
    Keeps [.store] s (State.pauseParts s w) := by
  unfold State.pauseParts
  try dsimp only
  repeat' first
    | with_reducible exact Keeps.refl
    | with_reducible apply Keeps.step State.modStore_keeps
    | decide
    | split

theorem State.moveUploads_keeps {s : State} {from_ w : Wy} :
    Keeps [.relief] s (State.moveUploads s from_ w) := by
  unfold State.moveUploads
  try dsimp only
  repeat' first
    | with_reducible exact Keeps.refl
    | with_reducible apply Keeps.step State.modRelief_keeps
    | (with_reducible apply Keeps.foldl; intro _ _; try dsimp only)
    | decide

theorem State.handBackStart_keeps {s : State} :
    Keeps [.cover] s (State.handBackStart s) := by
  unfold State.handBackStart
  repeat' first
    | with_reducible exact Keeps.refl
    | (intro p hp; cases p <;> first | exact absurd (by decide) hp | (dsimp only [Part.same]; done) | (dsimp only [Part.same]; exact ⟨rfl, rfl⟩))
    | decide
    | split
    | with_reducible apply Keeps.rec_

theorem State.handBackDue_keeps {s : State} :
    Keeps [.relief, .clk, .cip, .codec, .mortar, .pcie, .bpm, .ptp, .pairs, .regs, .store, .stripes, .refs, .media, .jobRuns, .arriving, .pwr, .cover] s (State.handBackDue s) := by
  unfold State.handBackDue
  try dsimp only
  repeat' first
    | with_reducible exact Keeps.refl
    | with_reducible apply Keeps.step State.openReady_keeps
    | with_reducible apply Keeps.step State.medBits_keeps
    | with_reducible apply Keeps.step State.modChan_keeps
    | with_reducible apply Keeps.step State.seeHlc_keeps
    | with_reducible apply Keeps.step State.powerEval_keeps
    | with_reducible apply Keeps.step State.rstEnd_keeps
    | with_reducible apply Keeps.step State.moveUploads_keeps
    | with_reducible apply Keeps.step State.releaseDone_keeps
    | with_reducible apply Keeps.step State.setRfld_keeps
    | with_reducible apply Keeps.step State.peerChange_keeps
    | with_reducible apply Keeps.step State.event_keeps
    | (with_reducible apply Keeps.foldl; intro _ _; try dsimp only)
    | (intro p hp; cases p <;> first | exact absurd (by decide) hp | (dsimp only [Part.same]; done) | (dsimp only [Part.same]; exact ⟨rfl, rfl⟩))
    | decide
    | split
    | with_reducible apply Keeps.rec_

theorem execHandBack_keeps {s : State} :
    KeepsO [.relief, .clk, .cip, .codec, .mortar, .pcie, .bpm, .ptp, .pairs, .regs, .store, .stripes, .refs, .media, .jobRuns, .arriving, .pwr, .cover] s (execHandBack s) := by
  unfold execHandBack
  repeat' first
    | with_reducible exact Keeps.refl
    | with_reducible apply Keeps.step State.pauseParts_keeps
    | with_reducible apply Keeps.step State.handBackDue_keeps
    | decide
    | with_reducible apply KeepsO.next
    | split

theorem State.drainDue_keeps {s : State} :
    Keeps [.relief, .clk, .cip, .codec, .mortar, .pcie, .bpm, .ptp, .portMode, .ports, .pairs, .serving, .start, .regs, .active, .wall, .store, .tileFaults, .stripes, .refs, .heldMortar, .media, .units, .jobRuns, .arriving, .plinth, .health, .fw, .pwr, .cover] s (State.drainDue s) := by
  unfold State.drainDue
  try dsimp only
  repeat' first
    | with_reducible exact Keeps.refl
    | with_reducible apply Keeps.step State.beginCover_keeps
    | with_reducible apply Keeps.step State.stamp_keeps
    | with_reducible apply Keeps.step State.awaitRestart_keeps
    | with_reducible apply Keeps.step State.restartWythe_keeps
    | with_reducible apply Keeps.step State.modFw_keeps
    | decide
    | split

theorem State.resetUnit_keeps {s : State} {p : Page} :
    Keeps [.regs, .active, .tileFaults, .media, .units] s (State.resetUnit s p) := by
  unfold State.resetUnit
  try dsimp only
  repeat' first
    | with_reducible exact Keeps.refl
    | with_reducible apply Keeps.step State.modUjob_keeps
    | with_reducible apply Keeps.step State.unitDown_keeps
    | with_reducible apply Keeps.step State.dropRegs_keeps
    | (with_reducible apply Keeps.foldl; intro _ _; try dsimp only)
    | (intro p hp; cases p <;> first | exact absurd (by decide) hp | (dsimp only [Part.same]; done) | (dsimp only [Part.same]; exact ⟨rfl, rfl⟩))
    | decide
    | with_reducible apply Keeps.rec_

theorem State.rstRefuse_keeps {s : State} {w : Wy} {reason : Nat} {src : AccSrc} :
    Keeps [.pcie, .regs] s (State.rstRefuse s w reason src) := by
  unfold State.rstRefuse
  repeat' first
    | with_reducible exact Keeps.refl
    | with_reducible apply Keeps.step State.rstEnd_keeps
    | with_reducible apply Keeps.step State.pageError_keeps
    | decide

theorem State.rstUnit_keeps {s : State} {w : Wy} {src : AccSrc} :
    Keeps [.pcie, .regs, .active, .tileFaults, .media, .units] s (State.rstUnit s w src) := by
  unfold State.rstUnit
  try dsimp only
  repeat' first
    | with_reducible exact Keeps.refl
    | with_reducible apply Keeps.step State.bump_keeps
    | with_reducible apply Keeps.step State.rstRefuse_keeps
    | with_reducible apply Keeps.step State.resetUnit_keeps
    | with_reducible apply Keeps.step State.rstEnd_keeps
    | decide
    | split

theorem State.rstBusy_keeps {s : State} {w : Wy} :
    Keeps [.regs] s (State.rstBusy s w) := by
  unfold State.rstBusy
  repeat' first
    | with_reducible exact Keeps.refl
    | with_reducible apply Keeps.step State.setRfld_keeps
    | decide

theorem State.rstSelf_keeps {s : State} {w : Wy} {src : AccSrc} :
    Keeps [.relief, .pcie, .regs, .fw, .pwr] s (State.rstSelf s w src) := by
  unfold State.rstSelf
  try dsimp only
  repeat' first
    | with_reducible exact Keeps.refl
    | with_reducible apply Keeps.step State.rstRefuse_keeps
    | with_reducible apply Keeps.step State.announceDrain_keeps
    | with_reducible apply Keeps.step State.modFw_keeps
    | with_reducible apply Keeps.step State.rstBusy_keeps
    | decide
    | split

theorem State.rstPeer_keeps {s : State} {w : Wy} {src : AccSrc} :
    Keeps [.relief, .clk, .cip, .codec, .mortar, .pcie, .bpm, .ptp, .portMode, .ports, .pairs, .serving, .start, .regs, .active, .wall, .tileFaults, .stripes, .heldMortar, .media, .units, .jobRuns, .arriving, .plinth, .health, .pwr, .cover] s (State.rstPeer s w src) := by
  unfold State.rstPeer
  repeat' first
    | with_reducible exact Keeps.refl
    | with_reducible apply Keeps.step State.rstRefuse_keeps
    | with_reducible apply Keeps.step State.awaitRestart_keeps
    | with_reducible apply Keeps.step State.restartWythe_keeps
    | with_reducible apply Keeps.step State.rstBusy_keeps
    | decide
    | split

theorem State.putRstReq_keeps {s : State} {src : AccSrc} {w : Wy} {v : Word} :
    Keeps [.relief, .clk, .cip, .codec, .mortar, .pcie, .bpm, .ptp, .portMode, .ports, .pairs, .serving, .start, .regs, .active, .wall, .tileFaults, .stripes, .heldMortar, .media, .units, .jobRuns, .arriving, .plinth, .health, .fw, .pwr, .cover] s (State.putRstReq s src w v) := by
  unfold State.putRstReq
  try dsimp only
  repeat' first
    | with_reducible exact Keeps.refl
    | with_reducible apply Keeps.step State.rstSelf_keeps
    | with_reducible apply Keeps.step State.rstRefuse_keeps
    | with_reducible apply Keeps.step State.rstPeer_keeps
    | with_reducible apply Keeps.step State.rstUnit_keeps
    | decide
    | split

theorem State.writeRstReq_keeps {s : State} {src : AccSrc} {w : Wy} {v : Word} :
    Keeps [.relief, .clk, .cip, .codec, .mortar, .pcie, .bpm, .ptp, .portMode, .ports, .pairs, .serving, .start, .regs, .active, .wall, .tileFaults, .stripes, .heldMortar, .media, .units, .jobRuns, .arriving, .plinth, .health, .fw, .pwr, .cover] s (State.writeRstReq s src w v) := by
  unfold State.writeRstReq
  try dsimp only
  repeat' first
    | with_reducible exact Keeps.refl
    | with_reducible apply State.gated_keeps
    | with_reducible apply Keeps.step State.putRstReq_keeps
    | (intro _; try dsimp only)
    | decide

theorem execUnitReset_keeps {src : AccSrc} {w : Wy} {v : Word} {s : State} :
    KeepsO [.relief, .clk, .cip, .codec, .mortar, .pcie, .bpm, .ptp, .portMode, .ports, .pairs, .serving, .start, .regs, .active, .wall, .tileFaults, .stripes, .heldMortar, .media, .units, .jobRuns, .arriving, .plinth, .health, .fw, .pwr, .cover] s (execUnitReset src w v s) := by
  unfold execUnitReset
  repeat' first
    | with_reducible exact Keeps.refl
    | with_reducible apply Keeps.step State.writeRstReq_keeps
    | decide
    | with_reducible apply KeepsO.next

theorem execRestartSelf_keeps {src : AccSrc} {w : Wy} {v : Word} {s : State} :
    KeepsO [.relief, .clk, .cip, .codec, .mortar, .pcie, .bpm, .ptp, .portMode, .ports, .pairs, .serving, .start, .regs, .active, .wall, .tileFaults, .stripes, .heldMortar, .media, .units, .jobRuns, .arriving, .plinth, .health, .fw, .pwr, .cover] s (execRestartSelf src w v s) := by
  unfold execRestartSelf
  repeat' first
    | with_reducible exact Keeps.refl
    | with_reducible apply Keeps.step State.writeRstReq_keeps
    | decide
    | with_reducible apply KeepsO.next

theorem execRestartPeer_keeps {src : AccSrc} {w : Wy} {v : Word} {s : State} :
    KeepsO [.relief, .clk, .cip, .codec, .mortar, .pcie, .bpm, .ptp, .portMode, .ports, .pairs, .serving, .start, .regs, .active, .wall, .tileFaults, .stripes, .heldMortar, .media, .units, .jobRuns, .arriving, .plinth, .health, .fw, .pwr, .cover] s (execRestartPeer src w v s) := by
  unfold execRestartPeer
  repeat' first
    | with_reducible exact Keeps.refl
    | with_reducible apply Keeps.step State.writeRstReq_keeps
    | decide
    | with_reducible apply KeepsO.next

end Sys2Proof.Machine
end

