-- ==== Sys2Proof/Laws/KPower.lean ====
section
/-! SUPPORT. What each operation of Power.lean keeps. -/

-- One lemma after the other: many side by side hold too much memory when the package is one text.
set_option Elab.async false

namespace Sys2Proof.Machine

theorem State.modInput_keeps {s : State} {h : Half} {f : Input → Input} :
    Keeps [.inA, .inB] s (State.modInput s h f) := by
  unfold State.modInput
  repeat' first
    | with_reducible exact Keeps.refl
    | (intro p hp; cases p <;> first | exact absurd (by decide) hp | (dsimp only [Part.same]; done) | (dsimp only [Part.same]; exact ⟨rfl, rfl⟩))
    | decide
    | split
    | with_reducible apply Keeps.rec_

theorem State.openInput_keeps {s : State} {h : Half} {cause : Nat} :
    Keeps [.pcie, .regs, .arriving, .inA, .inB] s (State.openInput s h cause) := by
  unfold State.openInput
  try dsimp only
  repeat' first
    | with_reducible exact Keeps.refl
    | with_reducible apply Keeps.step State.bump_keeps
    | with_reducible apply Keeps.step State.record_keeps
    | with_reducible apply Keeps.step State.modInput_keeps
    | with_reducible apply Keeps.step State.event_keeps
    | decide

theorem State.closeInput_keeps {s : State} {h : Half} :
    Keeps [.inA, .inB] s (State.closeInput s h) := by
  unfold State.closeInput
  try dsimp only
  repeat' first
    | with_reducible exact Keeps.refl
    | with_reducible apply Keeps.step State.modInput_keeps
    | decide
    | split

theorem execInputOutOfRange_keeps {h : Half} {mv : Nat} {s : State} :
    KeepsO [.pcie, .regs, .arriving, .inA, .inB] s (execInputOutOfRange h mv s) := by
  unfold execInputOutOfRange
  try dsimp only
  repeat' first
    | with_reducible exact Keeps.refl
    | with_reducible apply Keeps.step State.openInput_keeps
    | with_reducible apply Keeps.step State.modInput_keeps
    | decide
    | with_reducible apply KeepsO.next
    | split

theorem execInputReconnect_keeps {h : Half} {mv : Nat} {s : State} :
    KeepsO [.inA, .inB] s (execInputReconnect h mv s) := by
  unfold execInputReconnect
  try dsimp only
  repeat' first
    | with_reducible exact Keeps.refl
    | with_reducible apply Keeps.step State.closeInput_keeps
    | with_reducible apply Keeps.step State.modInput_keeps
    | decide
    | with_reducible apply KeepsO.next
    | split

theorem execPwrdisAssert_keeps {h : Half} {s : State} :
    KeepsO [.pcie, .regs, .arriving, .inA, .inB] s (execPwrdisAssert h s) := by
  unfold execPwrdisAssert
  try dsimp only
  repeat' first
    | with_reducible exact Keeps.refl
    | with_reducible apply Keeps.step State.openInput_keeps
    | with_reducible apply Keeps.step State.modInput_keeps
    | decide
    | with_reducible apply KeepsO.next
    | split

theorem execPwrdisRelease_keeps {h : Half} {s : State} :
    KeepsO [.inA, .inB] s (execPwrdisRelease h s) := by
  unfold execPwrdisRelease
  try dsimp only
  repeat' first
    | with_reducible exact Keeps.refl
    | with_reducible apply Keeps.step State.closeInput_keeps
    | with_reducible apply Keeps.step State.modInput_keeps
    | decide
    | with_reducible apply KeepsO.next

theorem State.mediaDump_keeps {s : State} :
    Keeps [.relief, .mortar, .pcie, .regs, .stripes, .media, .arriving, .pwr] s (State.mediaDump s) := by
  unfold State.mediaDump
  try dsimp only
  repeat' first
    | with_reducible exact Keeps.refl
    | with_reducible apply Keeps.step State.modMedia_keeps
    | with_reducible apply Keeps.step State.resumeOp_keeps
    | with_reducible apply Keeps.step State.chResult_keeps
    | with_reducible apply Keeps.step State.chDone_keeps
    | (with_reducible apply Keeps.foldl; intro _ _; try dsimp only)
    | decide

theorem State.beginHoldUp_keeps {s : State} :
    Keeps [.relief, .mortar, .pcie, .bpm, .ports, .serving, .regs, .stripes, .media, .units, .arriving, .plinth, .health, .holdup, .pwr] s (State.beginHoldUp s) := by
  unfold State.beginHoldUp
  try dsimp only
  repeat' first
    | with_reducible exact Keeps.refl
    | with_reducible apply Keeps.step State.beginDump_keeps
    | with_reducible apply Keeps.step State.linkDown_keeps
    | with_reducible apply Keeps.step State.mediaDump_keeps
    | with_reducible apply Keeps.step State.modPlinth_keeps
    | with_reducible apply Keeps.modWy
    | with_reducible apply Keeps.step State.modHealth_keeps
    | with_reducible apply Keeps.step State.abortTests_keeps
    | (with_reducible apply Keeps.foldl; intro _ _; try dsimp only)
    | (intro p hp; cases p <;> first | exact absurd (by decide) hp | (dsimp only [Part.same]; done) | (dsimp only [Part.same]; exact ⟨rfl, rfl⟩))
    | (intro y; with_reducible apply WKeeps.mk <;> intro h <;> first | exact absurd (by decide) h | exact rfl)
    | decide
    | with_reducible apply Keeps.rec_

theorem execInputLoss_keeps {s : State} :
    KeepsO [.relief, .mortar, .pcie, .bpm, .ports, .serving, .regs, .stripes, .media, .units, .arriving, .plinth, .health, .holdup, .pwr] s (execInputLoss s) := by
  unfold execInputLoss
  repeat' first
    | with_reducible exact Keeps.refl
    | with_reducible apply Keeps.step State.beginHoldUp_keeps
    | decide
    | with_reducible apply KeepsO.next
    | split

theorem execWytheDumpDone_keeps {w : Wy} {s : State} :
    KeepsO [.media, .holdup] s (execWytheDumpDone w s) := by
  unfold execWytheDumpDone
  try dsimp only
  repeat' first
    | with_reducible exact Keeps.refl
    | with_reducible apply Keeps.step State.dumpDone_keeps
    | (with_reducible apply Keeps.foldl; intro _ _; try dsimp only)
    | (intro p hp; cases p <;> first | exact absurd (by decide) hp | (dsimp only [Part.same]; done) | (dsimp only [Part.same]; exact ⟨rfl, rfl⟩))
    | decide
    | with_reducible apply KeepsO.next
    | split
    | with_reducible apply Keeps.rec_

theorem State.powerOff_keeps {s : State} :
    Keeps [.relief, .clk, .cip, .codec, .mortar, .pcie, .bpm, .ptp, .portMode, .ports, .pairs, .serving, .start, .regs, .active, .wall, .store, .tileFaults, .stripes, .heldMortar, .media, .units, .jobRuns, .arriving, .plinth, .health, .inA, .inB, .holdup, .pwr, .cover] s (State.powerOff s) := by
  unfold State.powerOff
  try dsimp only
  repeat' first
    | with_reducible exact Keeps.refl
    | with_reducible apply Keeps.step State.modWall_keeps
    | with_reducible apply Keeps.step State.modMedia_keeps
    | with_reducible apply Keeps.step State.resetWythe_keeps
    | with_reducible apply Keeps.step State.dropChannels_keeps
    | with_reducible apply Keeps.step State.modSet_keeps
    | with_reducible apply Keeps.step State.modPlinth_keeps
    | with_reducible apply Keeps.step State.dropRegs_keeps
    | with_reducible apply Keeps.step State.modStore_keeps
    | (with_reducible apply Keeps.foldl; intro _ _; try dsimp only)
    | (intro p hp; cases p <;> first | exact absurd (by decide) hp | (dsimp only [Part.same]; done) | (dsimp only [Part.same]; exact ⟨rfl, rfl⟩))
    | decide
    | split
    | with_reducible apply Keeps.rec_

theorem execHoldUpEnd_keeps {s : State} :
    KeepsO [.relief, .clk, .cip, .codec, .mortar, .pcie, .bpm, .ptp, .portMode, .ports, .pairs, .serving, .start, .regs, .active, .wall, .store, .tileFaults, .stripes, .heldMortar, .media, .units, .jobRuns, .arriving, .plinth, .health, .inA, .inB, .holdup, .pwr, .cover] s (execHoldUpEnd s) := by
  unfold execHoldUpEnd
  try dsimp only
  repeat' first
    | with_reducible exact Keeps.refl
    | with_reducible apply Keeps.step State.powerOff_keeps
    | with_reducible apply Keeps.step State.record_keeps
    | decide
    | with_reducible apply KeepsO.next
    | split

theorem State.beginStart_keeps {s : State} {cause : Nat} :
    Keeps [.relief, .clk, .cip, .codec, .mortar, .pcie, .bpm, .ptp, .portMode, .ports, .pairs, .serving, .start, .regs, .active, .tileFaults, .stripes, .heldMortar, .media, .units, .jobRuns, .arriving, .flash, .plinth, .front, .health, .pwr, .cover] s (State.beginStart s cause) := by
  unfold State.beginStart
  try dsimp only
  repeat' first
    | with_reducible exact Keeps.refl
    | with_reducible apply Keeps.step State.startRecord_keeps
    | with_reducible apply Keeps.step State.resetWythe_keeps
    | with_reducible apply Keeps.step State.dropChannels_keeps
    | with_reducible apply Keeps.step State.modFront_keeps
    | with_reducible apply Keeps.step State.modPlinth_keeps
    | with_reducible apply Keeps.step State.brickStep_keeps
    | with_reducible apply Keeps.step State.modHealth_keeps
    | with_reducible apply Keeps.step State.event_keeps
    | (intro p hp; cases p <;> first | exact absurd (by decide) hp | (dsimp only [Part.same]; done) | (dsimp only [Part.same]; exact ⟨rfl, rfl⟩))
    | decide
    | split
    | with_reducible apply Keeps.rec_

theorem State.readSlots_keeps {s : State} {slotA slotB : Nat} :
    Keeps [.arriving, .front] s (State.readSlots s slotA slotB) := by
  unfold State.readSlots
  try dsimp only
  repeat' first
    | with_reducible exact Keeps.refl
    | with_reducible apply Keeps.step State.modFront_keeps
    | with_reducible apply Keeps.step State.recordOpen_keeps
    | decide
    | split

theorem execPowerGood_keeps {slotA slotB : Nat} {s : State} :
    KeepsO [.relief, .clk, .cip, .codec, .mortar, .pcie, .bpm, .ptp, .portMode, .ports, .pairs, .serving, .start, .regs, .active, .wall, .tileFaults, .stripes, .heldMortar, .media, .units, .jobRuns, .arriving, .flash, .plinth, .front, .health, .pwr, .cover] s (execPowerGood slotA slotB s) := by
  unfold execPowerGood
  try dsimp only
  repeat' first
    | with_reducible exact Keeps.refl
    | with_reducible apply Keeps.step State.resetWythe_keeps
    | with_reducible apply Keeps.step State.romOnly_keeps
    | with_reducible apply Keeps.step State.readSlots_keeps
    | with_reducible apply Keeps.step State.beginStart_keeps
    | decide
    | with_reducible apply KeepsO.next
    | split

end Sys2Proof.Machine
end

