-- ==== Sys2Proof/Laws/KFirmware.lean ====
section
/-! SUPPORT. What each operation of Firmware.lean keeps. -/

-- One lemma after the other: many side by side hold too much memory when the package is one text.
set_option Elab.async false

namespace Sys2Proof.Machine

theorem State.putImage_keeps {s : State} {comp set : Nat} {h : ImgHeader} {plain : Option Bytes} {ok : Bool} :
    Keeps [.fw] s (State.putImage s comp set h plain ok) := by
  unfold State.putImage
  try dsimp only
  repeat' first
    | with_reducible exact Keeps.refl
    | with_reducible apply Keeps.step State.modFwSlot_keeps
    | decide
    | split

theorem execStage_keeps {session comp mask : Nat} {header payload : Bytes} {s : State} :
    KeepsO [.pcie, .regs, .fw] s (execStage session comp mask header payload s) := by
  unfold execStage
  try dsimp only
  repeat' first
    | with_reducible exact Keeps.refl
    | with_reducible apply Keeps.step State.stamp_keeps
    | with_reducible apply Keeps.step State.fwuRefuse_keeps
    | with_reducible apply Keeps.step State.fwuNote_keeps
    | with_reducible apply Keeps.step State.putImage_keeps
    | with_reducible apply Keeps.step State.emit_keeps
    | (with_reducible apply Keeps.foldl; intro _ _; try dsimp only)
    | decide
    | with_reducible apply KeepsO.next
    | split

theorem State.stampTrial_keeps {s : State} {a : Activation} :
    Keeps [.fw] s (State.stampTrial s a) := by
  unfold State.stampTrial
  try dsimp only
  repeat' first
    | with_reducible exact Keeps.refl
    | with_reducible apply Keeps.step State.stampAll_keeps
    | decide
    | split

theorem State.serdesNext_keeps {s : State} {n : Nat} : Keeps [.pcie, .ports, .regs, .flash, .fw] s (State.serdesNext s n) := by
  induction n generalizing s with
  | zero => exact .refl
  | succ n ih =>
    unfold State.serdesNext
    try dsimp only
    repeat' first
      | with_reducible apply Keeps.refl
      | with_reducible assumption
      | with_reducible apply Keeps.step ih
      | with_reducible apply Keeps.step State.linkDown_keeps
      | with_reducible apply Keeps.step State.fwCommit_keeps
      | with_reducible apply Keeps.step State.modFw_keeps
      | decide
      | split

theorem State.serdesDue_keeps {s : State} :
    Keeps [.pcie, .ports, .regs, .flash, .fw] s (State.serdesDue s) := by
  unfold State.serdesDue
  repeat' first
    | with_reducible exact Keeps.refl
    | with_reducible apply Keeps.step State.serdesNext_keeps
    | decide

theorem execSerdesLinkTimeout_keeps {s : State} :
    KeepsO [.pcie, .regs, .fw] s (execSerdesLinkTimeout s) := by
  unfold execSerdesLinkTimeout
  try dsimp only
  repeat' first
    | with_reducible exact Keeps.refl
    | with_reducible apply Keeps.step State.fwFallback_keeps
    | decide
    | with_reducible apply KeepsO.next
    | split

theorem State.beginAct_keeps {s : State} {comp : Nat} {w : Wy} {conv cal ksA ksB : Bool} :
    Keeps [.relief, .pcie, .ports, .regs, .media, .arriving, .flash, .recorder, .plinth, .front, .fw, .pwr] s (State.beginAct s comp w conv cal ksA ksB) := by
  unfold State.beginAct
  try dsimp only
  repeat' first
    | with_reducible exact Keeps.refl
    | with_reducible apply Keeps.step State.stampTrial_keeps
    | with_reducible apply Keeps.step State.serdesDue_keeps
    | with_reducible apply Keeps.step State.loadTables_keeps
    | with_reducible apply Keeps.step State.fwCommit_keeps
    | with_reducible apply Keeps.step State.announceDrain_keeps
    | with_reducible apply Keeps.step State.plinthBoot_keeps
    | with_reducible apply Keeps.step State.modFw_keeps
    | (with_reducible apply Keeps.foldl; intro _ _; try dsimp only)
    | decide
    | split

theorem State.activate_keeps {s : State} {comp : Nat} {w : Wy} {conv cal ksA ksB : Bool} :
    Keeps [.relief, .pcie, .ports, .regs, .media, .arriving, .flash, .recorder, .plinth, .front, .fw, .pwr] s (State.activate s comp w conv cal ksA ksB) := by
  unfold State.activate
  repeat' first
    | with_reducible exact Keeps.refl
    | with_reducible apply Keeps.step State.fwuRefuse_keeps
    | with_reducible apply Keeps.step State.beginAct_keeps
    | decide
    | split

theorem State.askActivate_keeps {s : State} {by_ : FwAsk} {comp : Nat} {w : Wy} {conv cal ksA ksB : Bool} :
    Keeps [.relief, .pcie, .ports, .regs, .media, .arriving, .flash, .recorder, .plinth, .front, .fw, .pwr] s (State.askActivate s by_ comp w conv cal ksA ksB) := by
  unfold State.askActivate
  try dsimp only
  repeat' first
    | with_reducible exact Keeps.refl
    | with_reducible apply State.gated_keeps
    | with_reducible apply State.command_keeps
    | with_reducible apply Keeps.step State.activate_keeps
    | (intro _; try dsimp only)
    | decide
    | split

theorem State.noteRefused_keeps {s : State} {by_ : FwAsk} {comp : Nat} {w : Wy} {conv : Bool} :
    Keeps [.pcie, .regs] s (State.noteRefused s by_ comp w conv) := by
  unfold State.noteRefused
  repeat' first
    | with_reducible exact Keeps.refl
    | with_reducible apply Keeps.step State.fwuRefuse_keeps
    | decide
    | split

theorem execActivatePlinth_keeps {by_ : FwAsk} {cal ksA ksB : Bool} {s : State} :
    KeepsO [.relief, .pcie, .ports, .regs, .media, .arriving, .flash, .recorder, .plinth, .front, .fw, .pwr] s (execActivatePlinth by_ cal ksA ksB s) := by
  unfold execActivatePlinth
  repeat' first
    | with_reducible exact Keeps.refl
    | with_reducible apply Keeps.step State.noteRefused_keeps
    | with_reducible apply Keeps.step State.askActivate_keeps
    | decide
    | with_reducible apply KeepsO.next

theorem execActivateMediaTables_keeps {by_ : FwAsk} {s : State} :
    KeepsO [.relief, .pcie, .ports, .regs, .media, .arriving, .flash, .recorder, .plinth, .front, .fw, .pwr] s (execActivateMediaTables by_ s) := by
  unfold execActivateMediaTables
  repeat' first
    | with_reducible exact Keeps.refl
    | with_reducible apply Keeps.step State.noteRefused_keeps
    | with_reducible apply Keeps.step State.askActivate_keeps
    | decide
    | with_reducible apply KeepsO.next

theorem execActivateSerdes_keeps {by_ : FwAsk} {s : State} :
    KeepsO [.relief, .pcie, .ports, .regs, .media, .arriving, .flash, .recorder, .plinth, .front, .fw, .pwr] s (execActivateSerdes by_ s) := by
  unfold execActivateSerdes
  repeat' first
    | with_reducible exact Keeps.refl
    | with_reducible apply Keeps.step State.noteRefused_keeps
    | with_reducible apply Keeps.step State.askActivate_keeps
    | decide
    | with_reducible apply KeepsO.next

theorem execActivateWythe_keeps {by_ : FwAsk} {w : Wy} {conv : Bool} {s : State} :
    KeepsO [.relief, .pcie, .ports, .regs, .media, .arriving, .flash, .recorder, .plinth, .front, .fw, .pwr] s (execActivateWythe by_ w conv s) := by
  unfold execActivateWythe
  repeat' first
    | with_reducible exact Keeps.refl
    | with_reducible apply Keeps.step State.noteRefused_keeps
    | with_reducible apply Keeps.step State.askActivate_keeps
    | decide
    | with_reducible apply KeepsO.next

theorem execTrialTimeout_keeps {s : State} :
    KeepsO [.relief, .clk, .cip, .codec, .mortar, .pcie, .bpm, .ptp, .portMode, .ports, .pairs, .serving, .start, .regs, .active, .wall, .tileFaults, .stripes, .heldMortar, .media, .units, .jobRuns, .arriving, .plinth, .health, .fw, .pwr, .cover] s (execTrialTimeout s) := by
  unfold execTrialTimeout
  try dsimp only
  repeat' first
    | with_reducible exact Keeps.refl
    | with_reducible apply Keeps.step State.stamp_keeps
    | with_reducible apply Keeps.step State.fwFallback_keeps
    | with_reducible apply Keeps.step State.restartWythe_keeps
    | (intro p hp; cases p <;> first | exact absurd (by decide) hp | (dsimp only [Part.same]; done) | (dsimp only [Part.same]; exact ⟨rfl, rfl⟩))
    | decide
    | with_reducible apply KeepsO.next
    | split
    | with_reducible apply Keeps.rec_

theorem execPlinthTrialCommit_keeps {s : State} :
    KeepsO [.pcie, .regs, .flash, .fw] s (execPlinthTrialCommit s) := by
  unfold execPlinthTrialCommit
  repeat' first
    | with_reducible exact Keeps.refl
    | with_reducible apply Keeps.step State.fwCommit_keeps
    | decide
    | with_reducible apply KeepsO.next
    | split

theorem State.newGen_keeps {s : State} {f : List Setting → List Setting} :
    Keeps [.fw] s (State.newGen s f) := by
  unfold State.newGen
  try dsimp only
  repeat' first
    | with_reducible exact Keeps.refl
    | with_reducible apply Keeps.step State.writeGen_keeps
    | (with_reducible apply Keeps.foldl; intro _ _; try dsimp only)
    | decide

theorem execSettingsWrite_keeps {session : Nat} {recs : List Setting} {s : State} :
    KeepsO [.wall, .fw] s (execSettingsWrite session recs s) := by
  unfold execSettingsWrite
  try dsimp only
  repeat' first
    | with_reducible exact Keeps.refl
    | with_reducible apply Keeps.step State.modWall_keeps
    | with_reducible apply State.command_keeps
    | with_reducible apply Keeps.step State.newGen_keeps
    | (with_reducible apply Keeps.foldl; intro _ _; try dsimp only)
    | (intro _; try dsimp only)
    | decide
    | with_reducible apply KeepsO.next
    | split

theorem State.settingsDue_keeps {s : State} :
    Keeps [.fw] s (State.settingsDue s) := by
  unfold State.settingsDue
  try dsimp only
  repeat' first
    | with_reducible exact Keeps.refl
    | with_reducible apply Keeps.step State.newGen_keeps
    | with_reducible apply Keeps.step State.modFw_keeps
    | decide
    | split

theorem State.toLeader_keeps {s : State} {c : ArmChange} :
    Keeps [.relief, .clk, .cip, .codec, .mortar, .pcie, .bpm, .ptp, .regs, .active, .wall, .store, .stripes, .refs, .syncQueue, .media, .jobRuns, .arriving, .pwr] s (State.toLeader s c) := by
  unfold State.toLeader
  repeat' first
    | with_reducible exact Keeps.refl
    | with_reducible apply Keeps.step State.propose_keeps
    | with_reducible apply Keeps.step State.lead__keeps
    | with_reducible apply Keeps.step State.emit_keeps
    | decide
    | split

theorem execKeyspacePolicy_keeps {session : Nat} {change : KsChange} {s : State} :
    KeepsO [.relief, .clk, .cip, .codec, .mortar, .pcie, .bpm, .ptp, .regs, .active, .wall, .store, .stripes, .refs, .syncQueue, .media, .jobRuns, .arriving, .pwr] s (execKeyspacePolicy session change s) := by
  unfold execKeyspacePolicy
  try dsimp only
  repeat' first
    | with_reducible exact Keeps.refl
    | with_reducible apply Keeps.step State.used_keeps
    | with_reducible apply State.command_keeps
    | with_reducible apply Keeps.step State.toLeader_keeps
    | (intro _; try dsimp only)
    | decide
    | with_reducible apply KeepsO.next
    | split

theorem execWallSettingsChange_keeps {session : Nat} {ws : WallSettings} {s : State} :
    KeepsO [.relief, .clk, .cip, .codec, .mortar, .pcie, .bpm, .ptp, .regs, .active, .wall, .store, .stripes, .refs, .syncQueue, .media, .jobRuns, .arriving, .pwr] s (execWallSettingsChange session ws s) := by
  unfold execWallSettingsChange
  try dsimp only
  repeat' first
    | with_reducible exact Keeps.refl
    | with_reducible apply State.command_keeps
    | with_reducible apply Keeps.step State.toLeader_keeps
    | (intro _; try dsimp only)
    | decide
    | with_reducible apply KeepsO.next

end Sys2Proof.Machine
end

