-- ==== Sys2Proof/Laws/KUnits.lean ====
section
/-! SUPPORT. What each operation of Units.lean keeps. -/

-- One lemma after the other: many side by side hold too much memory when the package is one text.
set_option Elab.async false

namespace Sys2Proof.Machine

theorem State.writeCtrl_keeps {s : State} {src : AccSrc} {p : Page} {v : Word} :
    Keeps [.relief, .clk, .cip, .codec, .mortar, .pcie, .bpm, .ptp, .ports, .pairs, .regs, .active, .wall, .store, .stripes, .refs, .syncQueue, .media, .units, .jobRuns, .arriving, .plinth, .health, .pwr] s (State.writeCtrl s src p v) := by
  unfold State.writeCtrl
  try dsimp only
  repeat' first
    | with_reducible exact Keeps.refl
    | with_reducible apply State.gated_keeps
    | with_reducible apply Keeps.step State.writePageCtrl_keeps
    | (intro _; try dsimp only)
    | decide

theorem execPageEnable_keeps {src : AccSrc} {p : Page} {v : Word} {s : State} :
    KeepsO [.relief, .clk, .cip, .codec, .mortar, .pcie, .bpm, .ptp, .ports, .pairs, .regs, .active, .wall, .store, .stripes, .refs, .syncQueue, .media, .units, .jobRuns, .arriving, .plinth, .health, .pwr] s (execPageEnable src p v s) := by
  unfold execPageEnable
  repeat' first
    | with_reducible exact Keeps.refl
    | with_reducible apply Keeps.step State.writeCtrl_keeps
    | decide
    | with_reducible apply KeepsO.next

theorem execPageQuiesce_keeps {src : AccSrc} {p : Page} {v : Word} {s : State} :
    KeepsO [.relief, .clk, .cip, .codec, .mortar, .pcie, .bpm, .ptp, .ports, .pairs, .regs, .active, .wall, .store, .stripes, .refs, .syncQueue, .media, .units, .jobRuns, .arriving, .plinth, .health, .pwr] s (execPageQuiesce src p v s) := by
  unfold execPageQuiesce
  repeat' first
    | with_reducible exact Keeps.refl
    | with_reducible apply Keeps.step State.writeCtrl_keeps
    | decide
    | with_reducible apply KeepsO.next

theorem execPageBypass_keeps {src : AccSrc} {p : Page} {v : Word} {s : State} :
    KeepsO [.relief, .clk, .cip, .codec, .mortar, .pcie, .bpm, .ptp, .ports, .pairs, .regs, .active, .wall, .store, .stripes, .refs, .syncQueue, .media, .units, .jobRuns, .arriving, .plinth, .health, .pwr] s (execPageBypass src p v s) := by
  unfold execPageBypass
  repeat' first
    | with_reducible exact Keeps.refl
    | with_reducible apply Keeps.step State.writeCtrl_keeps
    | decide
    | with_reducible apply KeepsO.next

theorem execTestStart_keeps {src : AccSrc} {p : Page} {v : Word} {s : State} :
    KeepsO [.relief, .clk, .cip, .codec, .mortar, .pcie, .bpm, .ptp, .ports, .pairs, .regs, .active, .wall, .store, .stripes, .refs, .syncQueue, .media, .units, .jobRuns, .arriving, .plinth, .health, .pwr] s (execTestStart src p v s) := by
  unfold execTestStart
  repeat' first
    | with_reducible exact Keeps.refl
    | with_reducible apply Keeps.step State.writeCtrl_keeps
    | decide
    | with_reducible apply KeepsO.next

theorem execCommit_keeps {src : AccSrc} {p : Page} {v : Word} {s : State} :
    KeepsO [.relief, .clk, .cip, .codec, .mortar, .pcie, .bpm, .ptp, .ports, .pairs, .regs, .active, .wall, .store, .stripes, .refs, .syncQueue, .media, .units, .jobRuns, .arriving, .plinth, .health, .pwr] s (execCommit src p v s) := by
  unfold execCommit
  repeat' first
    | with_reducible exact Keeps.refl
    | with_reducible apply Keeps.step State.writeCtrl_keeps
    | decide
    | with_reducible apply KeepsO.next

theorem execUnitJobDrained_keeps {p : Page} {s : State} :
    KeepsO [.relief, .cip, .codec, .mortar, .pcie, .bpm, .ports, .pairs, .serving, .regs, .stripes, .heldMortar, .media, .units, .jobRuns, .arriving, .health, .pwr, .cover] s (execUnitJobDrained p s) := by
  unfold execUnitJobDrained
  try dsimp only
  repeat' first
    | with_reducible exact Keeps.refl
    | with_reducible apply Keeps.step State.unitChecked_keeps
    | with_reducible apply Keeps.step State.modUjob_keeps
    | with_reducible apply Keeps.step State.degradeChan_keeps
    | with_reducible apply Keeps.step State.releaseDone_keeps
    | with_reducible apply Keeps.step State.setUnit_keeps
    | (with_reducible apply Keeps.foldl; intro _ _; try dsimp only)
    | decide
    | with_reducible apply KeepsO.next
    | split

theorem execTestEnd_keeps {p : Page} {code info us_ : Nat} {s : State} :
    KeepsO [.relief, .cip, .codec, .mortar, .pcie, .bpm, .ports, .pairs, .serving, .regs, .stripes, .heldMortar, .media, .units, .jobRuns, .arriving, .health, .pwr, .cover] s (execTestEnd p code info us_ s) := by
  unfold execTestEnd
  try dsimp only
  repeat' first
    | with_reducible exact Keeps.refl
    | with_reducible apply Keeps.step State.unitChecked_keeps
    | with_reducible apply Keeps.step State.endTest_keeps
    | decide
    | with_reducible apply KeepsO.next
    | split

theorem State.clearBits_keeps {s : State} {p : Page} {off : Nat} {v : Word} :
    Keeps [.regs] s (State.clearBits s p off v) := by
  unfold State.clearBits
  repeat' first
    | with_reducible exact Keeps.refl
    | with_reducible apply Keeps.step State.setReg_keeps
    | decide

theorem State.forceEvt_keeps {s : State} {p : Page} {v : Word} :
    Keeps [.pcie, .regs] s (State.forceEvt s p v) := by
  unfold State.forceEvt
  repeat' first
    | with_reducible exact Keeps.refl
    | with_reducible apply Keeps.step State.setEvt_keeps
    | decide

theorem State.lockPage_keeps {s : State} {p : Page} {v : Word} :
    Keeps [.regs] s (State.lockPage s p v) := by
  unfold State.lockPage
  repeat' first
    | with_reducible exact Keeps.refl
    | with_reducible apply Keeps.step State.setRfld_keeps
    | decide
    | split

theorem execEvtStatusClear_keeps {src : AccSrc} {p : Page} {v : Word} {s : State} :
    KeepsO [.pcie, .regs] s (execEvtStatusClear src p v s) := by
  unfold execEvtStatusClear
  try dsimp only
  repeat' first
    | with_reducible exact Keeps.refl
    | with_reducible apply State.gated_keeps
    | with_reducible apply Keeps.step State.clearBits_keeps
    | (intro _; try dsimp only)
    | decide
    | with_reducible apply KeepsO.next

theorem execEvtForce_keeps {src : AccSrc} {p : Page} {v : Word} {s : State} :
    KeepsO [.pcie, .regs] s (execEvtForce src p v s) := by
  unfold execEvtForce
  try dsimp only
  repeat' first
    | with_reducible exact Keeps.refl
    | with_reducible apply State.gated_keeps
    | with_reducible apply Keeps.step State.forceEvt_keeps
    | (intro _; try dsimp only)
    | decide
    | with_reducible apply KeepsO.next

theorem execErrCountRead_keeps {src : AccSrc} {p : Page} {s : State} :
    KeepsO [.pcie, .regs] s (execErrCountRead src p s) := by
  unfold execErrCountRead
  try dsimp only
  repeat' first
    | with_reducible exact Keeps.refl
    | with_reducible apply Keeps.step State.setReg_keeps
    | with_reducible apply State.readGate_keeps
    | (intro _; try dsimp only)
    | decide
    | with_reducible apply KeepsO.next

theorem execPageLock_keeps {src : AccSrc} {p : Page} {v : Word} {s : State} :
    KeepsO [.pcie, .regs] s (execPageLock src p v s) := by
  unfold execPageLock
  try dsimp only
  repeat' first
    | with_reducible exact Keeps.refl
    | with_reducible apply State.gated_keeps
    | with_reducible apply Keeps.step State.lockPage_keeps
    | (intro _; try dsimp only)
    | decide
    | with_reducible apply KeepsO.next

theorem State.tstEnd_keeps {s : State} {w : Wy} {result ms_ : Nat} :
    Keeps [.pcie, .regs] s (State.tstEnd s w result ms_) := by
  unfold State.tstEnd
  try dsimp only
  repeat' first
    | with_reducible exact Keeps.refl
    | with_reducible apply Keeps.step State.bump_keeps
    | with_reducible apply Keeps.step State.testResult_keeps
    | with_reducible apply Keeps.step State.event_keeps
    | decide
    | split

theorem State.dieTest_keeps {s : State} {w : Wy} {result ms_ : Nat} :
    Keeps [.relief, .pcie, .regs, .media, .arriving, .pwr] s (State.dieTest s w result ms_) := by
  unfold State.dieTest
  try dsimp only
  repeat' first
    | with_reducible exact Keeps.refl
    | with_reducible apply Keeps.step State.retireDie_keeps
    | with_reducible apply Keeps.step State.bump_keeps
    | with_reducible apply Keeps.step State.tstEnd_keeps
    | decide
    | split

theorem execDieTest_keeps {src : AccSrc} {w : Wy} {result ms_ : Nat} {s : State} :
    KeepsO [.relief, .pcie, .regs, .media, .arriving, .pwr] s (execDieTest src w result ms_ s) := by
  unfold execDieTest
  try dsimp only
  repeat' first
    | with_reducible exact Keeps.refl
    | with_reducible apply State.gated_keeps
    | with_reducible apply Keeps.step State.dieTest_keeps
    | (intro _; try dsimp only)
    | decide
    | with_reducible apply KeepsO.next

theorem State.dieRetire_keeps {s : State} {w : Wy} :
    Keeps [.relief, .mortar, .pcie, .regs, .stripes, .media, .arriving, .pwr] s (State.dieRetire s w) := by
  unfold State.dieRetire
  try dsimp only
  repeat' first
    | with_reducible exact Keeps.refl
    | with_reducible apply Keeps.step State.retireDie_keeps
    | with_reducible apply Keeps.step State.settleSet_keeps
    | with_reducible apply Keeps.step State.tstEnd_keeps
    | decide
    | split

theorem execDieRetireRequest_keeps {src : AccSrc} {w : Wy} {s : State} :
    KeepsO [.relief, .mortar, .pcie, .regs, .stripes, .media, .arriving, .pwr] s (execDieRetireRequest src w s) := by
  unfold execDieRetireRequest
  try dsimp only
  repeat' first
    | with_reducible exact Keeps.refl
    | with_reducible apply State.gated_keeps
    | with_reducible apply Keeps.step State.dieRetire_keeps
    | (intro _; try dsimp only)
    | decide
    | with_reducible apply KeepsO.next

theorem State.markDram_keeps {s : State} {w : Wy} {c : Nat} :
    Keeps [.pcie, .regs, .plinth] s (State.markDram s w c) := by
  unfold State.markDram
  try dsimp only
  repeat' first
    | with_reducible exact Keeps.refl
    | with_reducible apply Keeps.step State.modPlinth_keeps
    | with_reducible apply Keeps.step State.event_keeps
    | decide
    | split

theorem State.dramMark_keeps {s : State} {w : Wy} :
    Keeps [.pcie, .regs, .plinth] s (State.dramMark s w) := by
  unfold State.dramMark
  repeat' first
    | with_reducible exact Keeps.refl
    | with_reducible apply Keeps.step State.markDram_keeps
    | with_reducible apply Keeps.step State.tstEnd_keeps
    | decide

theorem State.dramUnmark_keeps {s : State} {w : Wy} :
    Keeps [.pcie, .regs, .plinth] s (State.dramUnmark s w) := by
  unfold State.dramUnmark
  try dsimp only
  repeat' first
    | with_reducible exact Keeps.refl
    | with_reducible apply Keeps.step State.modPlinth_keeps
    | with_reducible apply Keeps.step State.tstEnd_keeps
    | decide

theorem State.dramError_keeps {s : State} {w : Wy} {word : DramWord} :
    Keeps [.relief, .clk, .cip, .codec, .mortar, .pcie, .bpm, .ptp, .regs, .store, .stripes, .refs, .jobRuns, .arriving, .pwr] s (State.dramError s w word) := by
  unfold State.dramError
  repeat' first
    | with_reducible exact Keeps.refl
    | with_reducible apply Keeps.step State.loseCopy_keeps
    | with_reducible apply Keeps.step State.loseIndex_keeps
    | with_reducible apply Keeps.step State.bufferFault_keeps
    | decide
    | split

theorem execDramMark_keeps {src : Option AccSrc} {w : Wy} {channel : Nat} {word : DramWord} {s : State} :
    KeepsO [.relief, .clk, .cip, .codec, .mortar, .pcie, .bpm, .ptp, .regs, .store, .stripes, .refs, .jobRuns, .arriving, .plinth, .pwr] s (execDramMark src w channel word s) := by
  unfold execDramMark
  try dsimp only
  repeat' first
    | with_reducible exact Keeps.refl
    | with_reducible apply Keeps.step State.dramError_keeps
    | with_reducible apply State.gated_keeps
    | with_reducible apply Keeps.step State.dramMark_keeps
    | with_reducible apply Keeps.step State.markDram_keeps
    | with_reducible apply Keeps.step State.recordOpen_keeps
    | (intro _; try dsimp only)
    | decide
    | with_reducible apply KeepsO.next
    | split

theorem execDramUnmark_keeps {src : AccSrc} {w : Wy} {s : State} :
    KeepsO [.pcie, .regs, .plinth] s (execDramUnmark src w s) := by
  unfold execDramUnmark
  try dsimp only
  repeat' first
    | with_reducible exact Keeps.refl
    | with_reducible apply State.gated_keeps
    | with_reducible apply Keeps.step State.dramUnmark_keeps
    | (intro _; try dsimp only)
    | decide
    | with_reducible apply KeepsO.next

end Sys2Proof.Machine
end

