-- ==== Sys2Proof/Laws/KEndpoint.lean ====
section
/-! SUPPORT. What each operation of Endpoint.lean keeps. -/

-- One lemma after the other: many side by side hold too much memory when the package is one text.
set_option Elab.async false

namespace Sys2Proof.Machine

theorem State.functionReset_keeps {s : State} {w : Wy} :
    Keeps [.relief, .cip, .codec, .mortar, .pcie, .bpm, .pairs, .regs, .store, .refs, .jobRuns, .arriving, .pwr] s (State.functionReset s w) := by
  unfold State.functionReset
  try dsimp only
  repeat' first
    | with_reducible exact Keeps.refl
    | with_reducible apply Keeps.step State.bump_keeps
    | with_reducible apply Keeps.step State.modPcie_keeps
    | with_reducible apply Keeps.step State.freePage_keeps
    | with_reducible apply Keeps.step State.loseQueue_keeps
    | (with_reducible apply Keeps.foldl; intro _ _; try dsimp only)
    | decide

theorem State.pcieDown_keeps {s : State} {w : Wy} :
    Keeps [.pcie] s (State.pcieDown s w) := by
  unfold State.pcieDown
  try dsimp only
  repeat' first
    | with_reducible exact Keeps.refl
    | with_reducible apply Keeps.step State.modPcie_keeps
    | decide

theorem execFunctionLevelReset_keeps {w : Wy} {s : State} :
    KeepsO [.relief, .cip, .codec, .mortar, .pcie, .bpm, .pairs, .regs, .store, .refs, .jobRuns, .arriving, .pwr] s (execFunctionLevelReset w s) := by
  unfold execFunctionLevelReset
  repeat' first
    | with_reducible exact Keeps.refl
    | with_reducible apply Keeps.step State.functionReset_keeps
    | decide
    | with_reducible apply KeepsO.next
    | split

theorem execHotReset_keeps {w : Wy} {s : State} :
    KeepsO [.relief, .cip, .codec, .mortar, .pcie, .bpm, .pairs, .regs, .store, .refs, .jobRuns, .arriving, .pwr] s (execHotReset w s) := by
  unfold execHotReset
  repeat' first
    | with_reducible exact Keeps.refl
    | with_reducible apply Keeps.step State.functionReset_keeps
    | decide
    | with_reducible apply KeepsO.next
    | split

theorem execPerstAssert_keeps {w : Wy} {s : State} :
    KeepsO [.relief, .cip, .codec, .mortar, .pcie, .bpm, .pairs, .regs, .store, .refs, .jobRuns, .arriving, .pwr] s (execPerstAssert w s) := by
  unfold execPerstAssert
  try dsimp only
  repeat' first
    | with_reducible exact Keeps.refl
    | with_reducible apply Keeps.step State.pcieDown_keeps
    | with_reducible apply Keeps.step State.modPcie_keeps
    | with_reducible apply Keeps.step State.functionReset_keeps
    | decide
    | with_reducible apply KeepsO.next
    | split

theorem execPcieLinkLoss_keeps {w : Wy} {s : State} :
    KeepsO [.relief, .cip, .codec, .mortar, .pcie, .bpm, .pairs, .regs, .store, .refs, .jobRuns, .arriving, .pwr] s (execPcieLinkLoss w s) := by
  unfold execPcieLinkLoss
  repeat' first
    | with_reducible exact Keeps.refl
    | with_reducible apply Keeps.step State.pcieDown_keeps
    | with_reducible apply Keeps.step State.functionReset_keeps
    | decide
    | with_reducible apply KeepsO.next
    | split

theorem State.stopQueues_keeps {s : State} {w : Wy} :
    Keeps [.relief, .cip, .codec, .mortar, .pcie, .bpm, .pairs, .regs, .store, .refs, .jobRuns, .arriving, .pwr] s (State.stopQueues s w) := by
  unfold State.stopQueues
  try dsimp only
  repeat' first
    | with_reducible exact Keeps.refl
    | with_reducible apply Keeps.step State.modPage_keeps
    | with_reducible apply Keeps.step State.resetQueue_keeps
    | with_reducible apply Keeps.step State.modQueue_keeps
    | with_reducible apply Keeps.step State.loseQueue_keeps
    | (with_reducible apply Keeps.foldl; intro _ _; try dsimp only)
    | decide
    | split

theorem execBusMasterClear_keeps {w : Wy} {s : State} :
    KeepsO [.relief, .cip, .codec, .mortar, .pcie, .bpm, .pairs, .regs, .store, .refs, .jobRuns, .arriving, .pwr] s (execBusMasterClear w s) := by
  unfold execBusMasterClear
  try dsimp only
  repeat' first
    | with_reducible exact Keeps.refl
    | with_reducible apply Keeps.step State.stopQueues_keeps
    | with_reducible apply Keeps.step State.modPcie_keeps
    | decide
    | with_reducible apply KeepsO.next
    | split

theorem execD3hotEntry_keeps {w : Wy} {s : State} :
    KeepsO [.relief, .cip, .codec, .mortar, .pcie, .bpm, .pairs, .regs, .store, .refs, .jobRuns, .arriving, .pwr] s (execD3hotEntry w s) := by
  unfold execD3hotEntry
  try dsimp only
  repeat' first
    | with_reducible exact Keeps.refl
    | with_reducible apply Keeps.step State.stopQueues_keeps
    | with_reducible apply Keeps.step State.modPcie_keeps
    | decide
    | with_reducible apply KeepsO.next
    | split

theorem State.sqTake_keeps {s : State} {w : Wy} {q : Nat} {m : SqMsg} :
    Keeps [.relief, .clk, .cip, .codec, .mortar, .pcie, .bpm, .ptp, .pairs, .regs, .store, .stripes, .refs, .jobRuns, .arriving, .pwr] s (State.sqTake s w q m) := by
  unfold State.sqTake
  repeat' first
    | with_reducible exact Keeps.refl
    | with_reducible apply Keeps.step State.arrive_keeps
    | with_reducible apply Keeps.step State.arriveOther_keeps
    | decide
    | split

theorem State.sqFetch_keeps {s : State} {w : Wy} {n : Nat} {x1 : List SqMsg} : Keeps [.relief, .clk, .cip, .codec, .mortar, .pcie, .bpm, .ptp, .pairs, .regs, .store, .stripes, .refs, .jobRuns, .arriving, .pwr] s (State.sqFetch s w n x1) := by
  induction x1 generalizing s with
  | nil => exact .refl
  | cons a l ih =>
    unfold State.sqFetch
    try dsimp only
    repeat' first
      | with_reducible apply Keeps.refl
      | with_reducible assumption
      | with_reducible apply Keeps.step ih
      | with_reducible apply Keeps.step State.modPage_keeps
      | with_reducible apply Keeps.step State.sqTake_keeps
      | decide
      | split

theorem State.sqRun_keeps {s : State} {w : Wy} {n : Nat} {msgs : List Bytes} :
    Keeps [.relief, .clk, .cip, .codec, .mortar, .pcie, .bpm, .ptp, .pairs, .regs, .store, .stripes, .refs, .jobRuns, .arriving, .pwr] s (State.sqRun s w n msgs) := by
  unfold State.sqRun
  try dsimp only
  repeat' first
    | with_reducible exact Keeps.refl
    | with_reducible apply Keeps.step State.writeStatus_keeps
    | with_reducible apply Keeps.step State.sqFetch_keeps
    | decide
    | split

theorem State.sqBell_keeps {s : State} {w : Wy} {n tail : Nat} {msgs : List Bytes} :
    Keeps [.relief, .clk, .cip, .codec, .mortar, .pcie, .bpm, .ptp, .pairs, .regs, .store, .stripes, .refs, .jobRuns, .arriving, .pwr] s (State.sqBell s w n tail msgs) := by
  unfold State.sqBell
  try dsimp only
  repeat' first
    | with_reducible exact Keeps.refl
    | with_reducible apply Keeps.step State.sqRun_keeps
    | with_reducible apply Keeps.step State.modPage_keeps
    | decide
    | split

theorem execSqDoorbell_keeps {w : Wy} {n : Fin 64} {tail : Nat} {msgs : List Bytes} {s : State} :
    KeepsO [.relief, .clk, .cip, .codec, .mortar, .pcie, .bpm, .ptp, .pairs, .regs, .store, .stripes, .refs, .jobRuns, .arriving, .pwr] s (execSqDoorbell w n tail msgs s) := by
  unfold execSqDoorbell
  repeat' first
    | with_reducible exact Keeps.refl
    | with_reducible apply Keeps.step State.sqBell_keeps
    | decide
    | with_reducible apply KeepsO.next

theorem State.cqBell_keeps {s : State} {w : Wy} {n head : Nat} :
    Keeps [.relief, .pcie, .pairs, .pwr] s (State.cqBell s w n head) := by
  unfold State.cqBell
  try dsimp only
  repeat' first
    | with_reducible exact Keeps.refl
    | with_reducible apply Keeps.step State.sendAcks_keeps
    | with_reducible apply Keeps.step State.writeStatus_keeps
    | with_reducible apply Keeps.step State.modPage_keeps
    | with_reducible apply Keeps.step State.drainRing_keeps
    | decide
    | split

theorem execCqDoorbell_keeps {w : Wy} {n : Fin 64} {head : Nat} {s : State} :
    KeepsO [.relief, .pcie, .pairs, .pwr] s (execCqDoorbell w n head s) := by
  unfold execCqDoorbell
  repeat' first
    | with_reducible exact Keeps.refl
    | with_reducible apply Keeps.step State.cqBell_keeps
    | decide
    | with_reducible apply KeepsO.next

theorem execD0Return_keeps {w : Wy} {speed width : Nat} {fetched : List (Fin 64 × List Bytes)} {s : State} :
    KeepsO [.relief, .clk, .cip, .codec, .mortar, .pcie, .bpm, .ptp, .pairs, .regs, .store, .stripes, .refs, .jobRuns, .arriving, .pwr] s (execD0Return w speed width fetched s) := by
  unfold execD0Return
  try dsimp only
  repeat' first
    | with_reducible exact Keeps.refl
    | with_reducible apply Keeps.step State.sqRun_keeps
    | with_reducible apply Keeps.step State.modPcie_keeps
    | (with_reducible apply Keeps.foldl; intro _ _; try dsimp only)
    | decide
    | with_reducible apply KeepsO.next
    | split

theorem State.qpCreate_keeps {s : State} {w : Wy} {n : Fin 64} :
    Keeps [.relief, .pcie, .regs] s (State.qpCreate s w n) := by
  unfold State.qpCreate
  try dsimp only
  repeat' first
    | with_reducible exact Keeps.refl
    | with_reducible apply Keeps.step State.bump_keeps
    | with_reducible apply Keeps.step State.writeStatus_keeps
    | with_reducible apply Keeps.step State.modPage_keeps
    | with_reducible apply Keeps.step State.modRelief_keeps
    | with_reducible apply Keeps.step State.event_keeps
    | decide
    | split

theorem State.qpDestroy_keeps {s : State} {w : Wy} {n : Fin 64} :
    Keeps [.relief, .cip, .codec, .mortar, .pcie, .bpm, .pairs, .regs, .store, .refs, .jobRuns, .arriving, .pwr] s (State.qpDestroy s w n) := by
  unfold State.qpDestroy
  try dsimp only
  repeat' first
    | with_reducible exact Keeps.refl
    | with_reducible apply Keeps.step State.modPage_keeps
    | with_reducible apply Keeps.step State.resetQueue_keeps
    | with_reducible apply Keeps.step State.modQueue_keeps
    | with_reducible apply Keeps.step State.loseQueue_keeps
    | decide
    | split

theorem execQpCreate_keeps {w : Wy} {n : Fin 64} {s : State} :
    KeepsO [.relief, .pcie, .regs] s (execQpCreate w n s) := by
  unfold execQpCreate
  repeat' first
    | with_reducible exact Keeps.refl
    | with_reducible apply Keeps.step State.qpCreate_keeps
    | decide
    | with_reducible apply KeepsO.next

theorem execQpDestroy_keeps {w : Wy} {n : Fin 64} {s : State} :
    KeepsO [.relief, .cip, .codec, .mortar, .pcie, .bpm, .pairs, .regs, .store, .refs, .jobRuns, .arriving, .pwr] s (execQpDestroy w n s) := by
  unfold execQpDestroy
  repeat' first
    | with_reducible exact Keeps.refl
    | with_reducible apply Keeps.step State.qpDestroy_keeps
    | decide
    | with_reducible apply KeepsO.next

theorem State.setMsix_keeps {s : State} {w : Wy} {v : Nat} {f : MsixEntry → MsixEntry} :
    Keeps [.pcie] s (State.setMsix s w v f) := by
  unfold State.setMsix
  try dsimp only
  repeat' first
    | with_reducible exact Keeps.refl
    | with_reducible apply Keeps.step State.modPcie_keeps
    | with_reducible apply Keeps.step State.emit_keeps
    | decide
    | split

theorem execMsixUnmask_keeps {w : Wy} {v : Fin 64} {s : State} :
    KeepsO [.pcie] s (execMsixUnmask w v s) := by
  unfold execMsixUnmask
  try dsimp only
  repeat' first
    | with_reducible exact Keeps.refl
    | with_reducible apply Keeps.step State.setMsix_keeps
    | decide
    | with_reducible apply KeepsO.next
    | split

end Sys2Proof.Machine
end

