-- ==== Sys2Proof/Laws/KHealth.lean ====
section
/-! SUPPORT. What each operation of Health.lean keeps. -/

-- One lemma after the other: many side by side hold too much memory when the package is one text.
set_option Elab.async false

namespace Sys2Proof.Machine

theorem State.hltBump_keeps {s : State} {off : Nat} :
    Keeps [.pcie, .regs] s (State.hltBump s off) := by
  unfold State.hltBump
  try dsimp only
  repeat' first
    | with_reducible exact Keeps.refl
    | with_reducible apply Keeps.step State.bump_keeps
    | (with_reducible apply Keeps.foldl; intro _ _; try dsimp only)
    | decide

theorem State.hltEvent_keeps {s : State} {bit : Nat} :
    Keeps [.pcie, .regs] s (State.hltEvent s bit) := by
  unfold State.hltEvent
  try dsimp only
  repeat' first
    | with_reducible exact Keeps.refl
    | with_reducible apply Keeps.step State.event_keeps
    | (with_reducible apply Keeps.foldl; intro _ _; try dsimp only)
    | decide

theorem State.hltRecord_keeps {s : State} {severity : Nat} {detail : Bytes} :
    Keeps [.arriving] s (State.hltRecord s severity detail) := by
  unfold State.hltRecord
  try dsimp only
  repeat' first
    | with_reducible exact Keeps.refl
    | with_reducible apply Keeps.step State.recordOpen_keeps
    | decide
    | split

theorem State.modTemp_keeps {s : State} {n : Nat} {f : TempRec → TempRec} :
    Keeps [.health] s (State.modTemp s n f) := by
  unfold State.modTemp
  try dsimp only
  repeat' first
    | with_reducible exact Keeps.refl
    | with_reducible apply Keeps.step State.modHealth_keeps
    | decide

theorem State.sampled_keeps {s : State} {n : Nat} {t : Int} :
    Keeps [.health] s (State.sampled s n t) := by
  unfold State.sampled
  try dsimp only
  repeat' first
    | with_reducible exact Keeps.refl
    | with_reducible apply Keeps.step State.modTemp_keeps
    | decide
    | split

theorem State.warnTemp_keeps {s : State} {n : Nat} :
    Keeps [.relief, .pcie, .regs, .arriving, .health, .pwr] s (State.warnTemp s n) := by
  unfold State.warnTemp
  try dsimp only
  repeat' first
    | with_reducible exact Keeps.refl
    | with_reducible apply Keeps.step State.modTemp_keeps
    | with_reducible apply Keeps.step State.hltEvent_keeps
    | with_reducible apply Keeps.step State.hltBump_keeps
    | with_reducible apply Keeps.step State.earlyWarn_keeps
    | decide
    | split

theorem State.throttle_keeps {s : State} {w : Wy} {on : Bool} :
    Keeps [.pcie, .regs, .arriving] s (State.throttle s w on) := by
  unfold State.throttle
  try dsimp only
  repeat' first
    | with_reducible exact Keeps.refl
    | with_reducible apply Keeps.step State.bump_keeps
    | with_reducible apply Keeps.step State.setRfld_keeps
    | with_reducible apply Keeps.step State.recordOpen_keeps
    | with_reducible apply Keeps.step State.event_keeps
    | decide
    | split

theorem State.tempAction_keeps {s : State} {n : Nat} :
    Keeps [.pcie, .regs, .arriving] s (State.tempAction s n) := by
  unfold State.tempAction
  repeat' first
    | with_reducible exact Keeps.refl
    | with_reducible apply Keeps.step State.hltRecord_keeps
    | with_reducible apply Keeps.step State.hltBump_keeps
    | decide

theorem State.atLimit_keeps {s : State} {n : Nat} :
    Keeps [.pcie, .regs, .arriving, .plinth, .health] s (State.atLimit s n) := by
  unfold State.atLimit
  try dsimp only
  repeat' first
    | with_reducible exact Keeps.refl
    | with_reducible apply Keeps.step State.modTemp_keeps
    | with_reducible apply Keeps.step State.pickSource_keeps
    | with_reducible apply Keeps.step State.throttle_keeps
    | with_reducible apply Keeps.step State.modPlinth_keeps
    | with_reducible apply Keeps.step State.tempAction_keeps
    | decide
    | split

theorem State.overLimit_keeps {s : State} {n : Nat} :
    Keeps [.relief, .cip, .codec, .pcie, .bpm, .pairs, .serving, .regs, .heldMortar, .media, .units, .jobRuns, .arriving, .plinth, .health, .cover] s (State.overLimit s n) := by
  unfold State.overLimit
  try dsimp only
  repeat' first
    | with_reducible exact Keeps.refl
    | with_reducible apply Keeps.step State.hltBump_keeps
    | with_reducible apply Keeps.step State.modTemp_keeps
    | with_reducible apply Keeps.step State.modPlinth_keeps
    | with_reducible apply Keeps.step State.failWythe_keeps
    | with_reducible apply Keeps.step State.tempAction_keeps
    | with_reducible apply Keeps.step State.recordOpen_keeps
    | decide
    | split

theorem State.undoLimit_keeps {s : State} {n : Nat} :
    Keeps [.pcie, .regs, .arriving, .plinth, .health] s (State.undoLimit s n) := by
  unfold State.undoLimit
  try dsimp only
  repeat' first
    | with_reducible exact Keeps.refl
    | with_reducible apply Keeps.step State.modTemp_keeps
    | with_reducible apply Keeps.step State.pickSource_keeps
    | with_reducible apply Keeps.step State.throttle_keeps
    | decide
    | split

theorem State.tempActs_keeps {s : State} {n : Nat} :
    Keeps [.relief, .cip, .codec, .pcie, .bpm, .pairs, .serving, .regs, .heldMortar, .media, .units, .jobRuns, .arriving, .plinth, .health, .pwr, .cover] s (State.tempActs s n) := by
  unfold State.tempActs
  try dsimp only
  repeat' first
    | with_reducible exact Keeps.refl
    | with_reducible apply Keeps.step State.warnTemp_keeps
    | with_reducible apply Keeps.step State.undoLimit_keeps
    | with_reducible apply Keeps.step State.overLimit_keeps
    | with_reducible apply Keeps.step State.atLimit_keeps
    | decide
    | split

theorem State.cutBudget_keeps {s : State} :
    Keeps [.health] s (State.cutBudget s) := by
  unfold State.cutBudget
  try dsimp only
  repeat' first
    | with_reducible exact Keeps.refl
    | with_reducible apply Keeps.step State.modHealth_keeps
    | decide
    | split

theorem execTempSample_keeps {temps : List (Fin 32 × Int)} {s : State} :
    KeepsO [.relief, .cip, .codec, .pcie, .bpm, .pairs, .serving, .regs, .heldMortar, .media, .units, .jobRuns, .arriving, .plinth, .health, .pwr, .cover] s (execTempSample temps s) := by
  unfold execTempSample
  try dsimp only
  repeat' first
    | with_reducible exact Keeps.refl
    | with_reducible apply Keeps.step State.tempActs_keeps
    | with_reducible apply Keeps.step State.cutBudget_keeps
    | with_reducible apply Keeps.step State.sampled_keeps
    | (with_reducible apply Keeps.foldl; intro _ _; try dsimp only)
    | decide
    | with_reducible apply KeepsO.next
    | split

theorem State.keepDaily_keeps {s : State} {code : Nat} {v : Int} :
    Keeps [.health] s (State.keepDaily s code v) := by
  unfold State.keepDaily
  try dsimp only
  repeat' first
    | with_reducible exact Keeps.refl
    | with_reducible apply Keeps.step State.modHealth_keeps
    | decide

theorem State.measureAge_keeps {s : State} {n freq : Nat} :
    Keeps [.health] s (State.measureAge s n freq) := by
  unfold State.measureAge
  try dsimp only
  repeat' first
    | with_reducible exact Keeps.refl
    | with_reducible apply Keeps.step State.used_keeps
    | with_reducible apply Keeps.step State.keepDaily_keeps
    | with_reducible apply Keeps.step State.modHealth_keeps
    | decide
    | split

theorem execAgeingMeasure_keeps {freqs : List (Fin 16 × Nat)} {s : State} :
    KeepsO [.health] s (execAgeingMeasure freqs s) := by
  unfold execAgeingMeasure
  try dsimp only
  repeat' first
    | with_reducible exact Keeps.refl
    | with_reducible apply Keeps.step State.measureAge_keeps
    | (with_reducible apply Keeps.foldl; intro _ _; try dsimp only)
    | decide
    | with_reducible apply KeepsO.next
    | split

theorem State.warnEol_keeps {s : State} {day : Nat} :
    Keeps [.relief, .pcie, .regs, .arriving, .health, .pwr] s (State.warnEol s day) := by
  unfold State.warnEol
  try dsimp only
  repeat' first
    | with_reducible exact Keeps.refl
    | with_reducible apply Keeps.step State.earlyWarn_keeps
    | with_reducible apply Keeps.step State.modHealth_keeps
    | decide
    | split

theorem State.predict_keeps {s : State} :
    Keeps [.relief, .pcie, .regs, .arriving, .health, .pwr] s (State.predict s) := by
  unfold State.predict
  try dsimp only
  repeat' first
    | with_reducible exact Keeps.refl
    | with_reducible apply Keeps.step State.hltEvent_keeps
    | with_reducible apply Keeps.step State.keepDaily_keeps
    | with_reducible apply Keeps.step State.warnEol_keeps
    | with_reducible apply Keeps.step State.modHealth_keeps
    | (with_reducible apply Keeps.foldl; intro _ _; try dsimp only)
    | decide
    | split

theorem execEolPrediction_keeps {s : State} :
    KeepsO [.relief, .pcie, .regs, .arriving, .health, .pwr] s (execEolPrediction s) := by
  unfold execEolPrediction
  repeat' first
    | with_reducible exact Keeps.refl
    | with_reducible apply Keeps.step State.predict_keeps
    | decide
    | with_reducible apply KeepsO.next
    | split

theorem State.startCap_keeps {s : State} :
    Keeps [.relief, .clk, .cip, .codec, .mortar, .pcie, .bpm, .ptp, .pairs, .regs, .store, .stripes, .refs, .jobRuns, .arriving, .health, .pwr] s (State.startCap s) := by
  unfold State.startCap
  try dsimp only
  repeat' first
    | with_reducible exact Keeps.refl
    | with_reducible apply Keeps.step State.powerEval_keeps
    | with_reducible apply Keeps.step State.modHealth_keeps
    | decide
    | split

theorem execCapTest_keeps {s : State} :
    KeepsO [.relief, .clk, .cip, .codec, .mortar, .pcie, .bpm, .ptp, .pairs, .regs, .store, .stripes, .refs, .jobRuns, .arriving, .health, .pwr] s (execCapTest s) := by
  unfold execCapTest
  try dsimp only
  repeat' first
    | with_reducible exact Keeps.refl
    | with_reducible apply Keeps.step State.modHealth_keeps
    | with_reducible apply Keeps.step State.startCap_keeps
    | decide
    | with_reducible apply KeepsO.next
    | split

theorem State.askCap_keeps {s : State} {src : AccSrc} {w : Wy} {v : Word} :
    Keeps [.relief, .clk, .cip, .codec, .mortar, .pcie, .bpm, .ptp, .pairs, .regs, .store, .stripes, .refs, .jobRuns, .arriving, .health, .pwr] s (State.askCap s src w v) := by
  unfold State.askCap
  try dsimp only
  repeat' first
    | with_reducible exact Keeps.refl
    | with_reducible apply Keeps.step State.pageError_keeps
    | with_reducible apply Keeps.step State.modHealth_keeps
    | with_reducible apply Keeps.step State.startCap_keeps
    | decide
    | split

theorem execCapTestRequest_keeps {src : AccSrc} {w : Wy} {v : Word} {s : State} :
    KeepsO [.relief, .clk, .cip, .codec, .mortar, .pcie, .bpm, .ptp, .pairs, .regs, .store, .stripes, .refs, .jobRuns, .arriving, .health, .pwr] s (execCapTestRequest src w v s) := by
  unfold execCapTestRequest
  try dsimp only
  repeat' first
    | with_reducible exact Keeps.refl
    | with_reducible apply State.gated_keeps
    | with_reducible apply Keeps.step State.askCap_keeps
    | (intro _; try dsimp only)
    | decide
    | with_reducible apply KeepsO.next

theorem State.capResult_keeps {s : State} {b cap esr : Nat} :
    Keeps [.relief, .pcie, .regs, .arriving, .health, .pwr] s (State.capResult s b cap esr) := by
  unfold State.capResult
  try dsimp only
  repeat' first
    | with_reducible exact Keeps.refl
    | with_reducible apply Keeps.step State.hltRecord_keeps
    | with_reducible apply Keeps.step State.hltEvent_keeps
    | with_reducible apply Keeps.step State.hltBump_keeps
    | with_reducible apply Keeps.step State.predict_keeps
    | with_reducible apply Keeps.step State.earlyWarn_keeps
    | with_reducible apply Keeps.step State.modHealth_keeps
    | with_reducible apply Keeps.step State.event_keeps
    | decide
    | split

theorem execCapTestEnd_keeps {cap esr : Nat} {s : State} :
    KeepsO [.relief, .clk, .cip, .codec, .mortar, .pcie, .bpm, .ptp, .pairs, .regs, .store, .stripes, .refs, .jobRuns, .arriving, .health, .pwr] s (execCapTestEnd cap esr s) := by
  unfold execCapTestEnd
  try dsimp only
  repeat' first
    | with_reducible exact Keeps.refl
    | with_reducible apply Keeps.step State.used_keeps
    | with_reducible apply Keeps.step State.powerEval_keeps
    | with_reducible apply Keeps.step State.capResult_keeps
    | with_reducible apply Keeps.step State.startCap_keeps
    | decide
    | with_reducible apply KeepsO.next
    | split

theorem execHealthLogRewrite_keeps {s : State} :
    KeepsO [.health] s (execHealthLogRewrite s) := by
  unfold execHealthLogRewrite
  try dsimp only
  repeat' first
    | with_reducible exact Keeps.refl
    | with_reducible apply Keeps.step State.used_keeps
    | with_reducible apply Keeps.step State.modHealth_keeps
    | decide
    | with_reducible apply KeepsO.next
    | split

theorem State.selectLog_keeps {s : State} {w : Wy} {v : Word} :
    Keeps [.regs, .health] s (State.selectLog s w v) := by
  unfold State.selectLog
  try dsimp only
  repeat' first
    | with_reducible exact Keeps.refl
    | with_reducible apply Keeps.step State.setReg_keeps
    | with_reducible apply Keeps.step State.modHealth_keeps
    | decide
    | split

theorem execHltLogSelect_keeps {src : AccSrc} {w : Wy} {v : Word} {s : State} :
    KeepsO [.pcie, .regs, .health] s (execHltLogSelect src w v s) := by
  unfold execHltLogSelect
  try dsimp only
  repeat' first
    | with_reducible exact Keeps.refl
    | with_reducible apply State.gated_keeps
    | with_reducible apply Keeps.step State.selectLog_keeps
    | (intro _; try dsimp only)
    | decide
    | with_reducible apply KeepsO.next

theorem execHltLogRead_keeps {src : AccSrc} {w : Wy} {s : State} :
    KeepsO [.pcie, .regs] s (execHltLogRead src w s) := by
  unfold execHltLogRead
  try dsimp only
  repeat' first
    | with_reducible exact Keeps.refl
    | with_reducible apply Keeps.step State.setReg_keeps
    | with_reducible apply State.readGate_keeps
    | (intro _; try dsimp only)
    | decide
    | with_reducible apply KeepsO.next

theorem execHltGibRead_keeps {src : AccSrc} {w : Wy} {media : Bool} {s : State} :
    KeepsO [.pcie, .regs] s (execHltGibRead src w media s) := by
  unfold execHltGibRead
  try dsimp only
  repeat' first
    | with_reducible exact Keeps.refl
    | with_reducible apply Keeps.step State.setReg_keeps
    | with_reducible apply State.readGate_keeps
    | (intro _; try dsimp only)
    | decide
    | with_reducible apply KeepsO.next
    | split

theorem execHealthSnapshot_keeps {s : State} :
    KeepsO [.arriving] s (execHealthSnapshot s) := by
  unfold execHealthSnapshot
  repeat' first
    | with_reducible exact Keeps.refl
    | with_reducible apply Keeps.step State.snapshot_keeps
    | decide
    | with_reducible apply KeepsO.next
    | split

end Sys2Proof.Machine
end

