-- ==== Sys2Proof/Laws/KPanel.lean ====
section
/-! SUPPORT. What each operation of Panel.lean keeps. -/

-- One lemma after the other: many side by side hold too much memory when the package is one text.
set_option Elab.async false

namespace Sys2Proof.Machine

theorem State.startRefresh_keeps {s : State} :
    Keeps [.front] s (State.startRefresh s) := by
  unfold State.startRefresh
  try dsimp only
  repeat' first
    | with_reducible exact Keeps.refl
    | with_reducible apply Keeps.step State.modFront_keeps
    | decide
    | split

theorem State.showPage_keeps {s : State} {n : Option Nat} :
    Keeps [.front] s (State.showPage s n) := by
  unfold State.showPage
  try dsimp only
  repeat' first
    | with_reducible exact Keeps.refl
    | with_reducible apply Keeps.step State.startRefresh_keeps
    | with_reducible apply Keeps.step State.modFront_keeps
    | decide
    | split

theorem State.labelDue_keeps {s : State} :
    Keeps [.front] s (State.labelDue s) := by
  unfold State.labelDue
  try dsimp only
  repeat' first
    | with_reducible exact Keeps.refl
    | with_reducible apply Keeps.step State.startRefresh_keeps
    | with_reducible apply Keeps.step State.modFront_keeps
    | decide
    | split

theorem execTouch_keeps {s : State} :
    KeepsO [.pcie, .regs, .front] s (execTouch s) := by
  unfold execTouch
  try dsimp only
  repeat' first
    | with_reducible exact Keeps.refl
    | with_reducible apply Keeps.step State.bump_keeps
    | with_reducible apply Keeps.step State.showPage_keeps
    | decide
    | with_reducible apply KeepsO.next
    | split

theorem State.writeLabelPage_keeps {s : State} {src : AccSrc} {v : Word} :
    Keeps [.regs, .front] s (State.writeLabelPage s src v) := by
  unfold State.writeLabelPage
  try dsimp only
  repeat' first
    | with_reducible exact Keeps.refl
    | with_reducible apply Keeps.step State.showPage_keeps
    | with_reducible apply Keeps.step State.pageError_keeps
    | decide
    | split

theorem execLabelPageWrite_keeps {src : AccSrc} {v : Word} {s : State} :
    KeepsO [.pcie, .regs, .front] s (execLabelPageWrite src v s) := by
  unfold execLabelPageWrite
  try dsimp only
  repeat' first
    | with_reducible exact Keeps.refl
    | with_reducible apply State.gated_keeps
    | with_reducible apply Keeps.step State.writeLabelPage_keeps
    | (intro _; try dsimp only)
    | decide
    | with_reducible apply KeepsO.next

theorem execLabelReturn_keeps {s : State} :
    KeepsO [.front] s (execLabelReturn s) := by
  unfold execLabelReturn
  try dsimp only
  repeat' first
    | with_reducible exact Keeps.refl
    | with_reducible apply Keeps.step State.startRefresh_keeps
    | with_reducible apply Keeps.step State.modFront_keeps
    | decide
    | with_reducible apply KeepsO.next
    | split

theorem execLabelRefreshDone_keeps {s : State} :
    KeepsO [.pcie, .regs, .front] s (execLabelRefreshDone s) := by
  unfold execLabelRefreshDone
  try dsimp only
  repeat' first
    | with_reducible exact Keeps.refl
    | with_reducible apply Keeps.step State.startRefresh_keeps
    | with_reducible apply Keeps.step State.bump_keeps
    | with_reducible apply Keeps.step State.modFront_keeps
    | decide
    | with_reducible apply KeepsO.next
    | split

theorem execLabelRefreshInterval_keeps {s : State} :
    KeepsO [.front] s (execLabelRefreshInterval s) := by
  unfold execLabelRefreshInterval
  repeat' first
    | with_reducible exact Keeps.refl
    | with_reducible apply Keeps.step State.labelDue_keeps
    | decide
    | with_reducible apply KeepsO.next

theorem State.startLocate_keeps {s : State} :
    Keeps [.front] s (State.startLocate s) := by
  unfold State.startLocate
  try dsimp only
  repeat' first
    | with_reducible exact Keeps.refl
    | with_reducible apply Keeps.step State.modFront_keeps
    | decide

theorem State.setContact_keeps {s : State} {h : Half} {b : Bool} :
    Keeps [.front] s (State.setContact s h b) := by
  unfold State.setContact
  try dsimp only
  repeat' first
    | with_reducible exact Keeps.refl
    | with_reducible apply Keeps.step State.modFront_keeps
    | decide
    | split

theorem execLocateAssert_keeps {h : Half} {s : State} :
    KeepsO [.front] s (execLocateAssert h s) := by
  unfold execLocateAssert
  try dsimp only
  repeat' first
    | with_reducible exact Keeps.refl
    | with_reducible apply Keeps.step State.startLocate_keeps
    | with_reducible apply Keeps.step State.setContact_keeps
    | decide
    | with_reducible apply KeepsO.next
    | split

theorem execLocateRelease_keeps {h : Half} {s : State} :
    KeepsO [.front] s (execLocateRelease h s) := by
  unfold execLocateRelease
  repeat' first
    | with_reducible exact Keeps.refl
    | with_reducible apply Keeps.step State.setContact_keeps
    | decide
    | with_reducible apply KeepsO.next

theorem State.writeLocate_keeps {s : State} {v : Word} :
    Keeps [.regs, .front] s (State.writeLocate s v) := by
  unfold State.writeLocate
  try dsimp only
  repeat' first
    | with_reducible exact Keeps.refl
    | with_reducible apply Keeps.step State.setReg_keeps
    | with_reducible apply Keeps.step State.startLocate_keeps
    | with_reducible apply Keeps.step State.modFront_keeps
    | decide
    | split

theorem execLocateWrite_keeps {src : AccSrc} {v : Word} {s : State} :
    KeepsO [.pcie, .regs, .front] s (execLocateWrite src v s) := by
  unfold execLocateWrite
  try dsimp only
  repeat' first
    | with_reducible exact Keeps.refl
    | with_reducible apply State.gated_keeps
    | with_reducible apply Keeps.step State.writeLocate_keeps
    | (intro _; try dsimp only)
    | decide
    | with_reducible apply KeepsO.next

theorem execLocateTimeout_keeps {s : State} :
    KeepsO [.front] s (execLocateTimeout s) := by
  unfold execLocateTimeout
  try dsimp only
  repeat' first
    | with_reducible exact Keeps.refl
    | with_reducible apply Keeps.step State.modFront_keeps
    | decide
    | with_reducible apply KeepsO.next
    | split

theorem State.setRemove_keeps {s : State} {n : Nat} :
    Keeps [.pcie, .regs, .front] s (State.setRemove s n) := by
  unfold State.setRemove
  try dsimp only
  repeat' first
    | with_reducible exact Keeps.refl
    | with_reducible apply Keeps.step State.labelDue_keeps
    | with_reducible apply Keeps.step State.modFront_keeps
    | with_reducible apply Keeps.step State.event_keeps
    | decide
    | split

theorem State.tellRemoval_keeps {s : State} {k : RemoveKind} :
    Keeps [.mortar, .pcie, .regs] s (State.tellRemoval s k) := by
  unfold State.tellRemoval
  try dsimp only
  repeat' first
    | with_reducible exact Keeps.refl
    | with_reducible apply Keeps.step State.toArmature_keeps
    | decide
    | split

theorem State.endRemovalDrain_keeps {s : State} :
    Keeps [.relief] s (State.endRemovalDrain s) := by
  unfold State.endRemovalDrain
  try dsimp only
  repeat' first
    | with_reducible exact Keeps.refl
    | with_reducible apply Keeps.step State.modRelief_keeps
    | (with_reducible apply Keeps.foldl; intro _ _; try dsimp only)
    | decide
    | split

theorem State.askRemoval_keeps {s : State} {source : Nat} {ret : Option Nat} :
    Keeps [.pcie, .regs, .front] s (State.askRemoval s source ret) := by
  unfold State.askRemoval
  try dsimp only
  repeat' first
    | with_reducible exact Keeps.refl
    | with_reducible apply Keeps.step State.modFront_keeps
    | with_reducible apply Keeps.step State.setRemove_keeps
    | decide
    | split

theorem State.cancelRemoval_keeps {s : State} :
    Keeps [.relief, .mortar, .pcie, .regs, .wall, .plinth, .front] s (State.cancelRemoval s) := by
  unfold State.cancelRemoval
  try dsimp only
  repeat' first
    | with_reducible exact Keeps.refl
    | with_reducible apply Keeps.step State.modWall_keeps
    | with_reducible apply Keeps.step State.endRemovalDrain_keeps
    | with_reducible apply Keeps.step State.modFront_keeps
    | with_reducible apply Keeps.step State.modPlinth_keeps
    | with_reducible apply Keeps.step State.tellRemoval_keeps
    | with_reducible apply Keeps.step State.setRemove_keeps
    | decide
    | split

theorem State.writeRemove_keeps {s : State} {src : AccSrc} {v : Word} :
    Keeps [.relief, .mortar, .pcie, .regs, .wall, .plinth, .front] s (State.writeRemove s src v) := by
  unfold State.writeRemove
  repeat' first
    | with_reducible exact Keeps.refl
    | with_reducible apply Keeps.step State.pageError_keeps
    | with_reducible apply Keeps.step State.cancelRemoval_keeps
    | with_reducible apply Keeps.step State.askRemoval_keeps
    | decide
    | split

theorem execRemoveRequest_keeps {src : AccSrc} {v : Word} {s : State} :
    KeepsO [.relief, .mortar, .pcie, .regs, .wall, .plinth, .front] s (execRemoveRequest src v s) := by
  unfold execRemoveRequest
  try dsimp only
  repeat' first
    | with_reducible exact Keeps.refl
    | with_reducible apply State.gated_keeps
    | with_reducible apply Keeps.step State.writeRemove_keeps
    | (intro _; try dsimp only)
    | decide
    | with_reducible apply KeepsO.next

theorem execRemoveCancel_keeps {src : AccSrc} {v : Word} {s : State} :
    KeepsO [.relief, .mortar, .pcie, .regs, .wall, .plinth, .front] s (execRemoveCancel src v s) := by
  unfold execRemoveCancel
  try dsimp only
  repeat' first
    | with_reducible exact Keeps.refl
    | with_reducible apply State.gated_keeps
    | with_reducible apply Keeps.step State.writeRemove_keeps
    | (intro _; try dsimp only)
    | decide
    | with_reducible apply KeepsO.next

theorem State.allowRemoval_keeps {s : State} {ret : Option Nat} :
    Keeps [.relief, .mortar, .pcie, .regs, .front, .pwr] s (State.allowRemoval s ret) := by
  unfold State.allowRemoval
  try dsimp only
  repeat' first
    | with_reducible exact Keeps.refl
    | with_reducible apply Keeps.step State.announceDrain_keeps
    | with_reducible apply Keeps.step State.labelDue_keeps
    | with_reducible apply Keeps.step State.modFront_keeps
    | with_reducible apply Keeps.step State.tellRemoval_keeps
    | (with_reducible apply Keeps.foldl; intro _ _; try dsimp only)
    | decide
    | split

theorem execRemovalAllowance_keeps {reason stripe margin : Nat} {s : State} :
    KeepsO [.relief, .mortar, .pcie, .regs, .arriving, .plinth, .front, .pwr] s (execRemovalAllowance reason stripe margin s) := by
  unfold execRemovalAllowance
  try dsimp only
  repeat' first
    | with_reducible exact Keeps.refl
    | with_reducible apply Keeps.step State.modFront_keeps
    | with_reducible apply Keeps.step State.record_keeps
    | with_reducible apply Keeps.step State.modPlinth_keeps
    | with_reducible apply Keeps.step State.allowRemoval_keeps
    | with_reducible apply Keeps.step State.setRemove_keeps
    | decide
    | with_reducible apply KeepsO.next
    | split

theorem State.removeDue_keeps {s : State} :
    Keeps [.pcie, .regs, .wall, .front] s (State.removeDue s) := by
  unfold State.removeDue
  try dsimp only
  repeat' first
    | with_reducible exact Keeps.refl
    | with_reducible apply Keeps.step State.modWall_keeps
    | with_reducible apply Keeps.step State.setRemove_keeps
    | decide
    | split

theorem execRequestPress_keeps {heldMs : Nat} {s : State} :
    KeepsO [.pcie, .regs, .front] s (execRequestPress heldMs s) := by
  unfold execRequestPress
  try dsimp only
  repeat' first
    | with_reducible exact Keeps.refl
    | with_reducible apply Keeps.step State.bump_keeps
    | with_reducible apply Keeps.step State.showPage_keeps
    | with_reducible apply Keeps.step State.modFront_keeps
    | with_reducible apply Keeps.step State.event_keeps
    | decide
    | with_reducible apply KeepsO.next
    | split

theorem execRequestHold_keeps {s : State} :
    KeepsO [.relief, .mortar, .pcie, .regs, .wall, .plinth, .front] s (execRequestHold s) := by
  unfold execRequestHold
  try dsimp only
  repeat' first
    | with_reducible exact Keeps.refl
    | with_reducible apply Keeps.step State.bump_keeps
    | with_reducible apply Keeps.step State.cancelRemoval_keeps
    | with_reducible apply Keeps.step State.askRemoval_keeps
    | with_reducible apply Keeps.step State.event_keeps
    | decide
    | with_reducible apply KeepsO.next
    | split

theorem State.latchAbandon_keeps {s : State} :
    Keeps [.relief, .clk, .cip, .codec, .mortar, .pcie, .bpm, .ptp, .portMode, .ports, .pairs, .serving, .start, .regs, .active, .tileFaults, .heldMortar, .media, .units, .jobRuns, .health, .fw, .cover] s (State.latchAbandon s) := by
  unfold State.latchAbandon
  try dsimp only
  repeat' first
    | with_reducible exact Keeps.refl
    | with_reducible apply Keeps.step State.stampAll_keeps
    | with_reducible apply Keeps.step State.endDrain_keeps
    | with_reducible apply Keeps.step State.resetWythe_keeps
    | with_reducible apply Keeps.step State.fwAbandon_keeps
    | with_reducible apply Keeps.step State.setRel_keeps
    | with_reducible apply Keeps.step State.setHeld_keeps
    | decide
    | split

theorem State.stopNow_keeps {s : State} :
    Keeps [.mortar, .pcie, .regs, .wall] s (State.stopNow s) := by
  unfold State.stopNow
  try dsimp only
  repeat' first
    | with_reducible exact Keeps.refl
    | with_reducible apply Keeps.step State.modWall_keeps
    | with_reducible apply Keeps.step State.sendHb_keeps
    | (with_reducible apply Keeps.foldl; intro _ _; try dsimp only)
    | decide

theorem State.cleanStopSet_keeps {s : State} {i : Nat} :
    Keeps [.relief, .mortar, .pcie, .regs, .stripes, .media, .arriving, .pwr] s (State.cleanStopSet s i) := by
  unfold State.cleanStopSet
  try dsimp only
  repeat' first
    | with_reducible exact Keeps.refl
    | with_reducible apply Keeps.step State.dropImage_keeps
    | with_reducible apply Keeps.step State.flushMap_keeps
    | with_reducible apply Keeps.step State.anchorRec_keeps
    | with_reducible apply Keeps.step State.settleSet_keeps
    | decide
    | split

theorem State.cleanStopDue_keeps {s : State} :
    Keeps [.relief, .mortar, .pcie, .regs, .stripes, .media, .arriving, .pwr] s (State.cleanStopDue s) := by
  unfold State.cleanStopDue
  repeat' first
    | with_reducible exact Keeps.refl
    | with_reducible apply Keeps.step State.cleanStopSet_keeps
    | decide
    | split

theorem State.surprise_keeps {s : State} {ew : Bool} :
    Keeps [.mortar, .pcie, .regs, .wall, .arriving, .front] s (State.surprise s ew) := by
  unfold State.surprise
  try dsimp only
  repeat' first
    | with_reducible exact Keeps.refl
    | with_reducible apply Keeps.step State.modWall_keeps
    | with_reducible apply Keeps.step State.bump_keeps
    | with_reducible apply Keeps.step State.modFront_keeps
    | with_reducible apply Keeps.step State.record_keeps
    | with_reducible apply Keeps.step State.tellRemoval_keeps
    | with_reducible apply Keeps.step State.setRemove_keeps
    | with_reducible apply Keeps.step State.event_keeps
    | decide

theorem State.latchOpened_keeps {s : State} {ew : Bool} :
    Keeps [.relief, .clk, .cip, .codec, .mortar, .pcie, .bpm, .ptp, .portMode, .ports, .pairs, .serving, .start, .regs, .active, .wall, .tileFaults, .stripes, .heldMortar, .media, .units, .jobRuns, .arriving, .plinth, .front, .health, .fw, .pwr, .cover] s (State.latchOpened s ew) := by
  unfold State.latchOpened
  try dsimp only
  repeat' first
    | with_reducible exact Keeps.refl
    | with_reducible apply Keeps.step State.bump_keeps
    | with_reducible apply Keeps.step State.labelDue_keeps
    | with_reducible apply Keeps.step State.stopNow_keeps
    | with_reducible apply Keeps.step State.modFront_keeps
    | with_reducible apply Keeps.step State.cleanStopDue_keeps
    | with_reducible apply Keeps.step State.modPlinth_keeps
    | with_reducible apply Keeps.step State.surprise_keeps
    | with_reducible apply Keeps.step State.latchAbandon_keeps
    | decide
    | split

theorem execLatchOpen_keeps {s : State} :
    KeepsO [.relief, .clk, .cip, .codec, .mortar, .pcie, .bpm, .ptp, .portMode, .ports, .pairs, .serving, .start, .regs, .active, .wall, .tileFaults, .stripes, .heldMortar, .media, .units, .jobRuns, .arriving, .plinth, .front, .health, .fw, .pwr, .cover] s (execLatchOpen s) := by
  unfold execLatchOpen
  try dsimp only
  repeat' first
    | with_reducible exact Keeps.refl
    | with_reducible apply Keeps.step State.latchOpened_keeps
    | with_reducible apply Keeps.step State.modFront_keeps
    | with_reducible apply Keeps.step State.event_keeps
    | decide
    | with_reducible apply KeepsO.next
    | split

theorem State.resumeHeld_keeps {s : State} :
    Keeps [.relief, .clk, .cip, .codec, .mortar, .pcie, .bpm, .ptp, .portMode, .ports, .pairs, .serving, .start, .regs, .active, .wall, .tileFaults, .stripes, .heldMortar, .media, .units, .jobRuns, .arriving, .plinth, .health, .pwr, .cover] s (State.resumeHeld s) := by
  unfold State.resumeHeld
  repeat' first
    | with_reducible exact Keeps.refl
    | with_reducible apply Keeps.step State.restartWythe_keeps
    | decide
    | split

theorem execLatchClose_keeps {s : State} :
    KeepsO [.relief, .clk, .cip, .codec, .mortar, .pcie, .bpm, .ptp, .portMode, .ports, .pairs, .serving, .start, .regs, .active, .wall, .tileFaults, .stripes, .heldMortar, .media, .units, .jobRuns, .arriving, .plinth, .front, .health, .pwr, .cover] s (execLatchClose s) := by
  unfold execLatchClose
  try dsimp only
  repeat' first
    | with_reducible exact Keeps.refl
    | with_reducible apply Keeps.step State.modWall_keeps
    | with_reducible apply Keeps.step State.resumeHeld_keeps
    | with_reducible apply Keeps.step State.endRemovalDrain_keeps
    | with_reducible apply Keeps.step State.modFront_keeps
    | with_reducible apply Keeps.step State.tellRemoval_keeps
    | with_reducible apply Keeps.step State.setRemove_keeps
    | with_reducible apply Keeps.step State.event_keeps
    | decide
    | with_reducible apply KeepsO.next
    | split

theorem execEarlyWarningBreak_keeps {s : State} :
    KeepsO [.relief, .clk, .cip, .codec, .mortar, .pcie, .bpm, .ptp, .portMode, .ports, .pairs, .serving, .start, .regs, .active, .wall, .tileFaults, .stripes, .heldMortar, .media, .units, .jobRuns, .arriving, .plinth, .front, .health, .fw, .pwr, .cover] s (execEarlyWarningBreak s) := by
  unfold execEarlyWarningBreak
  try dsimp only
  repeat' first
    | with_reducible exact Keeps.refl
    | with_reducible apply Keeps.step State.latchOpened_keeps
    | with_reducible apply Keeps.step State.modFront_keeps
    | with_reducible apply Keeps.step State.recordOpen_keeps
    | decide
    | with_reducible apply KeepsO.next
    | split

theorem execPresenceMake_keeps {slotA slotB : Nat} {s : State} :
    KeepsO [.pcie, .regs, .arriving, .front, .health] s (execPresenceMake slotA slotB s) := by
  unfold execPresenceMake
  try dsimp only
  repeat' first
    | with_reducible exact Keeps.refl
    | with_reducible apply Keeps.step State.mated_keeps
    | with_reducible apply Keeps.step State.readSlots_keeps
    | with_reducible apply Keeps.step State.modFront_keeps
    | decide
    | with_reducible apply KeepsO.next
    | split

theorem execPresenceBreak_keeps {s : State} :
    KeepsO [.front] s (execPresenceBreak s) := by
  unfold execPresenceBreak
  try dsimp only
  repeat' first
    | with_reducible exact Keeps.refl
    | with_reducible apply Keeps.step State.modFront_keeps
    | decide
    | with_reducible apply KeepsO.next

theorem State.alertDue_keeps {s : State} :
    Keeps [.front] s (State.alertDue s) := by
  unfold State.alertDue
  try dsimp only
  repeat' first
    | with_reducible exact Keeps.refl
    | with_reducible apply Keeps.step State.modFront_keeps
    | decide
    | split

theorem execSmbusStatusRead_keeps {h : Half} {s : State} :
    KeepsO [.front] s (execSmbusStatusRead h s) := by
  unfold execSmbusStatusRead
  repeat' first
    | with_reducible exact Keeps.refl
    | with_reducible apply Keeps.step State.alertDue_keeps
    | with_reducible apply Keeps.step State.emit_keeps
    | decide
    | with_reducible apply KeepsO.next
    | split

theorem execSmbusAlertResponse_keeps {h : Half} {s : State} :
    KeepsO [.front] s (execSmbusAlertResponse h s) := by
  unfold execSmbusAlertResponse
  try dsimp only
  repeat' first
    | with_reducible exact Keeps.refl
    | with_reducible apply Keeps.step State.modFront_keeps
    | with_reducible apply Keeps.step State.alertDue_keeps
    | with_reducible apply Keeps.step State.emit_keeps
    | decide
    | with_reducible apply KeepsO.next
    | split

end Sys2Proof.Machine
end

