-- ==== Sys2Proof/Laws/KService.lean ====
section
/-! SUPPORT. What each operation of Service.lean keeps. -/

-- One lemma after the other: many side by side hold too much memory when the package is one text.
set_option Elab.async false

namespace Sys2Proof.Machine

theorem State.refuseTicket_keeps {s : State} {cnt : Option Nat} :
    Keeps [.pcie, .regs] s (State.refuseTicket s cnt) := by
  unfold State.refuseTicket
  try dsimp only
  repeat' first
    | with_reducible exact Keeps.refl
    | with_reducible apply Keeps.step State.bump_keeps
    | with_reducible apply Keeps.step State.emit_keeps
    | with_reducible apply Keeps.step State.event_keeps
    | decide
    | split

theorem State.openSession_keeps {s : State} {t : Bytes} :
    Keeps [.pcie, .regs, .plinth] s (State.openSession s t) := by
  unfold State.openSession
  try dsimp only
  repeat' first
    | with_reducible exact Keeps.refl
    | with_reducible apply Keeps.step State.bump_keeps
    | with_reducible apply Keeps.step State.modPlinth_keeps
    | with_reducible apply Keeps.step State.emit_keeps
    | with_reducible apply Keeps.step State.event_keeps
    | decide
    | split

theorem execServiceTicket_keeps {ticket : Bytes} {s : State} :
    KeepsO [.pcie, .regs, .plinth] s (execServiceTicket ticket s) := by
  unfold execServiceTicket
  repeat' first
    | with_reducible exact Keeps.refl
    | with_reducible apply Keeps.step State.openSession_keeps
    | with_reducible apply Keeps.step State.refuseTicket_keeps
    | with_reducible apply Keeps.step State.emit_keeps
    | decide
    | with_reducible apply KeepsO.next
    | split

theorem State.endSession_keeps {s : State} {n : Nat} :
    Keeps [.pcie, .regs, .plinth] s (State.endSession s n) := by
  unfold State.endSession
  try dsimp only
  repeat' first
    | with_reducible exact Keeps.refl
    | with_reducible apply Keeps.step State.modPlinth_keeps
    | with_reducible apply Keeps.step State.emit_keeps
    | with_reducible apply Keeps.step State.event_keeps
    | decide
    | split

theorem execServiceSessionExpiry_keeps {session : Nat} {s : State} :
    KeepsO [.pcie, .regs, .plinth] s (execServiceSessionExpiry session s) := by
  unfold execServiceSessionExpiry
  try dsimp only
  repeat' first
    | with_reducible exact Keeps.refl
    | with_reducible apply Keeps.step State.endSession_keeps
    | decide
    | with_reducible apply KeepsO.next
    | split

theorem execServiceSessionClose_keeps {session : Nat} {s : State} :
    KeepsO [.pcie, .regs, .plinth] s (execServiceSessionClose session s) := by
  unfold execServiceSessionClose
  repeat' first
    | with_reducible exact Keeps.refl
    | with_reducible apply Keeps.step State.endSession_keeps
    | decide
    | with_reducible apply KeepsO.next

theorem execRemoveReturnTicket_keeps {session seconds : Nat} {s : State} :
    KeepsO [.pcie, .regs, .front] s (execRemoveReturnTicket session seconds s) := by
  unfold execRemoveReturnTicket
  try dsimp only
  repeat' first
    | with_reducible exact Keeps.refl
    | with_reducible apply State.command_keeps
    | with_reducible apply Keeps.step State.askRemoval_keeps
    | (intro _; try dsimp only)
    | decide
    | with_reducible apply KeepsO.next

theorem execAuthorityKeyInstall_keeps {session : Nat} {key : Bytes} {s : State} :
    KeepsO [.plinth] s (execAuthorityKeyInstall session key s) := by
  unfold execAuthorityKeyInstall
  try dsimp only
  repeat' first
    | with_reducible exact Keeps.refl
    | with_reducible apply State.command_keeps
    | with_reducible apply Keeps.step State.modPlinth_keeps
    | (intro _; try dsimp only)
    | decide
    | with_reducible apply KeepsO.next

theorem State.resetBrick_keeps {s : State} {cal ksA ksB : Bool} :
    Keeps [.relief, .clk, .cip, .codec, .mortar, .pcie, .bpm, .ptp, .portMode, .ports, .pairs, .serving, .start, .regs, .active, .wall, .store, .tileFaults, .stripes, .heldMortar, .media, .units, .jobRuns, .arriving, .flash, .recorder, .plinth, .front, .health, .inA, .inB, .holdup, .fw, .pwr, .cover] s (State.resetBrick s cal ksA ksB) := by
  unfold State.resetBrick
  try dsimp only
  repeat' first
    | with_reducible exact Keeps.refl
    | with_reducible apply Keeps.step State.modInput_keeps
    | with_reducible apply Keeps.step State.powerOff_keeps
    | with_reducible apply Keeps.step State.modPlinth_keeps
    | with_reducible apply Keeps.step State.plinthBoot_keeps
    | with_reducible apply Keeps.step State.beginStart_keeps
    | decide
    | split

theorem State.brickResetDue_keeps {s : State} :
    Keeps [.relief, .clk, .cip, .codec, .mortar, .pcie, .bpm, .ptp, .portMode, .ports, .pairs, .serving, .start, .regs, .active, .wall, .store, .tileFaults, .stripes, .heldMortar, .media, .units, .jobRuns, .arriving, .flash, .recorder, .plinth, .front, .health, .inA, .inB, .holdup, .fw, .pwr, .cover] s (State.brickResetDue s) := by
  unfold State.brickResetDue
  try dsimp only
  repeat' first
    | with_reducible exact Keeps.refl
    | with_reducible apply Keeps.step State.resetBrick_keeps
    | with_reducible apply Keeps.step State.stopNow_keeps
    | with_reducible apply Keeps.step State.cleanStopDue_keeps
    | decide
    | split

theorem execBrickReset_keeps {session : Nat} {cal ksA ksB : Bool} {s : State} :
    KeepsO [.relief, .clk, .cip, .codec, .mortar, .pcie, .bpm, .ptp, .portMode, .ports, .pairs, .serving, .start, .regs, .active, .wall, .store, .tileFaults, .stripes, .heldMortar, .media, .units, .jobRuns, .arriving, .flash, .recorder, .plinth, .front, .health, .inA, .inB, .holdup, .fw, .pwr, .cover] s (execBrickReset session cal ksA ksB s) := by
  unfold execBrickReset
  try dsimp only
  repeat' first
    | with_reducible exact Keeps.refl
    | with_reducible apply State.command_keeps
    | with_reducible apply Keeps.step State.resetBrick_keeps
    | with_reducible apply Keeps.step State.modPlinth_keeps
    | with_reducible apply Keeps.step State.askRemoval_keeps
    | (intro _; try dsimp only)
    | decide
    | with_reducible apply KeepsO.next
    | split

theorem execRomRecoveryEnter_keeps {session : Nat} {s : State} :
    KeepsO [.relief, .clk, .cip, .codec, .mortar, .pcie, .bpm, .ptp, .portMode, .ports, .pairs, .serving, .start, .regs, .active, .wall, .tileFaults, .stripes, .heldMortar, .media, .units, .jobRuns, .arriving, .plinth, .health, .pwr, .cover] s (execRomRecoveryEnter session s) := by
  unfold execRomRecoveryEnter
  repeat' first
    | with_reducible exact Keeps.refl
    | with_reducible apply State.command_keeps
    | with_reducible apply Keeps.step State.enterRecovery_keeps
    | (intro _; try dsimp only)
    | decide
    | with_reducible apply KeepsO.next

theorem execRecoveryStart_keeps {session : Nat} {s : State} :
    KeepsO [.relief, .clk, .cip, .codec, .mortar, .pcie, .bpm, .ptp, .portMode, .ports, .pairs, .serving, .start, .regs, .active, .tileFaults, .stripes, .heldMortar, .media, .units, .jobRuns, .arriving, .flash, .plinth, .front, .health, .pwr, .cover] s (execRecoveryStart session s) := by
  unfold execRecoveryStart
  try dsimp only
  repeat' first
    | with_reducible exact Keeps.refl
    | with_reducible apply State.command_keeps
    | with_reducible apply Keeps.step State.modPlinth_keeps
    | with_reducible apply Keeps.step State.beginStart_keeps
    | (intro _; try dsimp only)
    | decide
    | with_reducible apply KeepsO.next
    | split

end Sys2Proof.Machine
end

