-- ==== Sys2Proof/Laws/KAccess.lean ====
section
/-! SUPPORT. What each operation of Access.lean keeps. -/

-- One lemma after the other: many side by side hold too much memory when the package is one text.
set_option Elab.async false

namespace Sys2Proof.Machine

theorem State.refuseOpen_keeps {s : State} {src : AccSrc} {p : Page} {off : Nat} :
    Keeps [.regs] s (State.refuseOpen s src p off) := by
  unfold State.refuseOpen
  repeat' first
    | with_reducible exact Keeps.refl
    | with_reducible apply Keeps.step State.used_keeps
    | with_reducible apply Keeps.step State.pageError_keeps
    | decide

theorem State.ownTile_keeps {l : List Part} {s t : State} {src : AccSrc} {p : Page} {off : Nat} {f : Wy → State → State}
    (hl : within [.regs] l = true) (hf : ∀ w v, Keeps l v (f w v)) (h : Keeps l s t) : Keeps l s (t.ownTile src p off f) := by
  unfold State.ownTile
  split
  · exact Keeps.app (hf _) h
  · exact State.pageError_keeps.step hl h

theorem State.setPtp_keeps {s : State} {w : Wy} {raw : Nat} :
    Keeps [.ptp] s (State.setPtp s w raw) := by
  unfold State.setPtp
  try dsimp only
  repeat' first
    | with_reducible exact Keeps.refl
    | with_reducible apply Keeps.modWy
    | (intro y; with_reducible apply WKeeps.mk <;> intro h <;> first | exact absurd (by decide) h | exact rfl)
    | decide

theorem State.stepPtp_keeps {s : State} {w : Wy} {v : Word} :
    Keeps [.ptp] s (State.stepPtp s w v) := by
  unfold State.stepPtp
  repeat' first
    | with_reducible exact Keeps.refl
    | with_reducible apply Keeps.step State.setPtp_keeps
    | decide

theorem State.putOwn_keeps {s : State} {src : AccSrc} {c : Nat} {v : Word} {w : Wy} :
    Keeps [.relief, .mortar, .pcie, .regs, .stripes, .media, .arriving, .health, .pwr] s (State.putOwn s src c v w) := by
  unfold State.putOwn
  repeat' first
    | with_reducible exact Keeps.refl
    | with_reducible apply Keeps.step State.askLend_keeps
    | with_reducible apply Keeps.step State.takeChannel_keeps
    | with_reducible apply Keeps.step State.refuseOpen_keeps
    | with_reducible apply Keeps.step State.askRelease_keeps
    | decide
    | split

theorem State.putActivate_keeps {s : State} {v : Word} :
    Keeps [.relief, .pcie, .ports, .regs, .media, .arriving, .flash, .recorder, .plinth, .front, .fw, .pwr] s (State.putActivate s v) := by
  unfold State.putActivate
  try dsimp only
  repeat' first
    | with_reducible exact Keeps.refl
    | with_reducible apply Keeps.step State.used_keeps
    | with_reducible apply Keeps.step State.activate_keeps
    | decide
    | split

theorem State.putTst_keeps {s : State} {src : AccSrc} {w : Wy} {v : Word} :
    Keeps [.relief, .mortar, .pcie, .regs, .stripes, .media, .arriving, .plinth, .pwr] s (State.putTst s src w v) := by
  unfold State.putTst
  repeat' first
    | with_reducible exact Keeps.refl
    | with_reducible apply Keeps.step State.dieRetire_keeps
    | with_reducible apply Keeps.step State.used_keeps
    | with_reducible apply Keeps.step State.dramMark_keeps
    | with_reducible apply Keeps.step State.refuseOpen_keeps
    | with_reducible apply Keeps.step State.dieTest_keeps
    | with_reducible apply Keeps.step State.dramUnmark_keeps
    | decide
    | split

theorem State.putPfl_keeps {s : State} {src : AccSrc} {v : Word} :
    Keeps [.pcie, .regs, .arriving, .flash, .recorder, .plinth] s (State.putPfl s src v) := by
  unfold State.putPfl
  try dsimp only
  repeat' first
    | with_reducible exact Keeps.refl
    | with_reducible apply Keeps.step State.used_keeps
    | with_reducible apply Keeps.step State.putPflReq_keeps
    | with_reducible apply Keeps.step State.flashEnd_keeps
    | decide
    | split

theorem State.putOwnRule_keeps {s t : State} {src : AccSrc} {p : Page} {off : Nat} {v : Word}
    (h : State.putOwnRule s src p off v = some t) : Keeps [.relief, .clk, .cip, .codec, .mortar, .pcie, .bpm, .ptp, .portMode, .ports, .pairs, .serving, .start, .regs, .active, .wall, .store, .tileFaults, .stripes, .refs, .heldMortar, .syncQueue, .media, .units, .jobRuns, .arriving, .flash, .recorder, .plinth, .front, .health, .fw, .pwr, .cover] s t := by
  unfold State.putOwnRule at h
  repeat' split at h
  all_goals cases h
  all_goals
    repeat' first
      | with_reducible apply Keeps.refl
      | with_reducible assumption
      | with_reducible apply Keeps.step State.lockPage_keeps
      | with_reducible apply Keeps.step State.setReg_keeps
      | with_reducible apply State.ownTile_keeps
      | with_reducible apply Keeps.step State.putTst_keeps
      | with_reducible apply Keeps.step State.putRstReq_keeps
      | with_reducible apply Keeps.step State.writeLocate_keeps
      | with_reducible apply Keeps.step State.askCap_keeps
      | with_reducible apply Keeps.step State.putOwn_keeps
      | with_reducible apply Keeps.step State.putActivate_keeps
      | with_reducible apply Keeps.step State.forceEvt_keeps
      | with_reducible apply Keeps.step State.modBank_keeps
      | with_reducible apply Keeps.step State.pageError_keeps
      | with_reducible apply Keeps.step State.putPfl_keeps
      | with_reducible apply Keeps.step State.refuseOpen_keeps
      | with_reducible apply Keeps.step State.writePageCtrl_keeps
      | with_reducible apply Keeps.step State.setCursor_keeps
      | with_reducible apply Keeps.step State.stepPtp_keeps
      | with_reducible apply Keeps.step State.writeLabelPage_keeps
      | with_reducible apply Keeps.step State.writeRemove_keeps
      | with_reducible apply Keeps.step State.selectLog_keeps
      | with_reducible apply Keeps.step State.becamePending_keeps
      | with_reducible apply Keeps.step State.setPtp_keeps
      | (intro _; try dsimp only)
      | decide
      | split

theorem State.putReg_keeps {s : State} {src : AccSrc} {p : Page} {off : Nat} {v : Word} :
    Keeps [.relief, .clk, .cip, .codec, .mortar, .pcie, .bpm, .ptp, .portMode, .ports, .pairs, .serving, .start, .regs, .active, .wall, .store, .tileFaults, .stripes, .refs, .heldMortar, .syncQueue, .media, .units, .jobRuns, .arriving, .flash, .recorder, .plinth, .front, .health, .fw, .pwr, .cover] s (State.putReg s src p off v) := by
  unfold State.putReg
  repeat' first
    | with_reducible exact Keeps.refl
    | with_reducible apply Keeps.step State.setReg_keeps
    | with_reducible apply Keeps.step (State.putOwnRule_keeps (by assumption))
    | with_reducible apply Keeps.step State.refuseOpen_keeps
    | with_reducible apply Keeps.step State.clearBits_keeps
    | decide
    | split

theorem State.putQp_keeps {s : State} {w : Wy} {n : Fin 64} {off : Nat} {v : Word} : Keeps [.relief, .clk, .cip, .codec, .mortar, .pcie, .bpm, .ptp, .pairs, .regs, .store, .stripes, .refs, .jobRuns, .arriving, .pwr] s (State.putQp s w n off v) := by
  unfold State.putQp
  extract_lets free put s1
  have hp : ∀ f, Keeps [.relief, .clk, .cip, .codec, .mortar, .pcie, .bpm, .ptp, .pairs, .regs, .store, .stripes, .refs, .jobRuns, .arriving, .pwr] s (put f) := by
    intro f
    dsimp only [put]
    split
    · exact State.modPage_keeps.mono (by decide)
    · exact .refl
  have h1 : Keeps [.relief, .clk, .cip, .codec, .mortar, .pcie, .bpm, .ptp, .pairs, .regs, .store, .stripes, .refs, .jobRuns, .arriving, .pwr] s s1 := by
    dsimp only [s1]
    split
    · exact State.qpCreate_keeps.mono (by decide)
    · exact .refl
  clear_value put s1
  repeat' with_reducible apply Keeps.ite
  all_goals first
    | with_reducible exact hp _
    | with_reducible exact h1
    | with_reducible exact .refl
    | exact State.qpDestroy_keeps.step (by decide) h1
    | (with_reducible apply Keeps.step State.modPage_keeps <;> first | decide | exact .refl)
    | (with_reducible apply Keeps.step State.sqBell_keeps <;> first | decide | exact .refl)
    | (with_reducible apply Keeps.step State.cqBell_keeps <;> first | decide | exact .refl)

theorem State.putMsix_keeps {s : State} {w : Wy} {at_ : Nat} {v : Word} :
    Keeps [.pcie] s (State.putMsix s w at_ v) := by
  unfold State.putMsix
  try dsimp only
  repeat' first
    | with_reducible exact Keeps.refl
    | with_reducible apply Keeps.step State.setMsix_keeps
    | decide
    | split

theorem State.barWrite_keeps {s : State} {w : Wy} {off size : Nat} {full : Bool} {v : Word} :
    Keeps [.relief, .clk, .cip, .codec, .mortar, .pcie, .bpm, .ptp, .portMode, .ports, .pairs, .serving, .start, .regs, .active, .wall, .store, .tileFaults, .stripes, .refs, .heldMortar, .syncQueue, .media, .units, .jobRuns, .arriving, .flash, .recorder, .plinth, .front, .health, .fw, .pwr, .cover] s (State.barWrite s w off size full v) := by
  unfold State.barWrite
  try dsimp only
  repeat' first
    | with_reducible exact Keeps.refl
    | with_reducible apply Keeps.step State.putReg_keeps
    | with_reducible apply State.gated_keeps
    | with_reducible apply Keeps.step State.putQp_keeps
    | with_reducible apply Keeps.step State.putMsix_keeps
    | with_reducible apply Keeps.step State.accessErr_keeps
    | (intro _; try dsimp only)
    | decide
    | split

theorem execRegisterWrite_keeps {src : AccSrc} {off size : Nat} {full : Bool} {v : Word} {s : State} :
    KeepsO [.relief, .clk, .cip, .codec, .mortar, .pcie, .bpm, .ptp, .portMode, .ports, .pairs, .serving, .start, .regs, .active, .wall, .store, .tileFaults, .stripes, .refs, .heldMortar, .syncQueue, .media, .units, .jobRuns, .arriving, .flash, .recorder, .plinth, .front, .health, .fw, .pwr, .cover] s (execRegisterWrite src off size full v s) := by
  unfold execRegisterWrite
  try dsimp only
  repeat' first
    | with_reducible exact Keeps.refl
    | with_reducible apply Keeps.step State.putReg_keeps
    | with_reducible apply State.gated_keeps
    | with_reducible apply Keeps.step State.barWrite_keeps
    | (intro _; try dsimp only)
    | decide
    | with_reducible apply KeepsO.next
    | split

theorem State.beforeRead_keeps {s : State} {src : AccSrc} {p : Page} {off : Nat} :
    Keeps [.recorder] s (State.beforeRead s src p off) := by
  unfold State.beforeRead
  repeat' first
    | with_reducible exact Keeps.refl
    | with_reducible apply Keeps.step State.evrLatch_keeps
    | decide
    | split

theorem State.afterRead_keeps {s : State} {src : AccSrc} {p : Page} {off : Nat} :
    Keeps [.bpm, .regs, .recorder] s (State.afterRead s src p off) := by
  unfold State.afterRead
  try dsimp only
  repeat' first
    | with_reducible exact Keeps.refl
    | with_reducible apply Keeps.step State.evrSee_keeps
    | with_reducible apply Keeps.step State.clearLow_keeps
    | with_reducible apply Keeps.step State.setReg_keeps
    | with_reducible apply Keeps.step State.latchPtp_keeps
    | with_reducible apply Keeps.step State.evrAdvance_keeps
    | (with_reducible apply Keeps.foldl; intro _ _; try dsimp only)
    | decide
    | split

theorem State.readWords_keeps {s : State} {w : Wy} {x1 : List Nat} : Keeps [.bpm, .regs, .recorder] s (State.readWords s w x1).1 := by
  induction x1 generalizing s with
  | nil => exact .refl
  | cons a l ih =>
    unfold State.readWords
    try dsimp only
    repeat' first
      | with_reducible apply Keeps.refl
      | with_reducible assumption
      | with_reducible apply Keeps.step ih
      | with_reducible apply Keeps.step State.used_keeps
      | with_reducible apply Keeps.step State.beforeRead_keeps
      | with_reducible apply Keeps.step State.afterRead_keeps
      | decide
      | split

theorem State.barRead_keeps {s : State} {w : Wy} {off size : Nat} : Keeps [.pcie, .bpm, .regs, .recorder] s (State.barRead s w off size) := by
  unfold State.barRead
  extract_lets src offs data lost
  have hl : ∀ v, Keeps [.pcie, .bpm, .regs, .recorder] v (lost v) := fun v => State.emit_keeps.mono (by decide)
  have hr : Keeps [.pcie, .bpm, .regs, .recorder] s (s.readWords w offs).1 := State.readWords_keeps.mono (by decide)
  have ha : ∀ k c, Keeps [.pcie, .bpm, .regs, .recorder] s (s.accessErr w k off c) := fun k c => State.accessErr_keeps.mono (by decide)
  clear_value data lost offs
  with_reducible apply Keeps.ite
  · exact .refl
  with_reducible apply Keeps.ite
  · exact State.emit_keeps.step (by decide) (ha _ _)
  split
  · with_reducible apply Keeps.ite
    · exact Keeps.app hl (ha _ _)
    · split
      · exact State.emit_keeps.step (by decide) (ha _ _)
      · exact State.emit_keeps.step (by decide) (State.used_keeps.step (by decide) (State.bump_keeps.mono (by decide)))
  · exact State.emit_keeps.step (by decide) (ha _ _)
  · with_reducible apply Keeps.ite
    · exact Keeps.app hl (ha _ _)
    · exact State.emit_keeps.step (by decide) hr
  · exact State.emit_keeps.step (by decide) hr

theorem execRefusedBar0Read_keeps {w : Wy} {off size : Nat} {s : State} :
    KeepsO [.pcie, .bpm, .regs, .recorder] s (execRefusedBar0Read w off size s) := by
  unfold execRefusedBar0Read
  repeat' first
    | with_reducible exact Keeps.refl
    | with_reducible apply Keeps.step State.barRead_keeps
    | decide
    | with_reducible apply KeepsO.next

theorem execHlcRead_keeps {src : AccSrc} {w : Wy} {s : State} :
    KeepsO [.pcie, .bpm, .regs, .recorder] s (execHlcRead src w s) := by
  unfold execHlcRead
  try dsimp only
  repeat' first
    | with_reducible exact Keeps.refl
    | with_reducible apply State.readGate_keeps
    | with_reducible apply Keeps.step State.afterRead_keeps
    | (intro _; try dsimp only)
    | decide
    | with_reducible apply KeepsO.next

theorem execPltTimeRead_keeps {src : AccSrc} {s : State} :
    KeepsO [.pcie, .bpm, .regs, .recorder] s (execPltTimeRead src s) := by
  unfold execPltTimeRead
  try dsimp only
  repeat' first
    | with_reducible exact Keeps.refl
    | with_reducible apply State.readGate_keeps
    | with_reducible apply Keeps.step State.afterRead_keeps
    | (intro _; try dsimp only)
    | decide
    | with_reducible apply KeepsO.next

theorem execSvcExpiryRead_keeps {src : AccSrc} {s : State} :
    KeepsO [.pcie, .bpm, .regs, .recorder] s (execSvcExpiryRead src s) := by
  unfold execSvcExpiryRead
  try dsimp only
  repeat' first
    | with_reducible exact Keeps.refl
    | with_reducible apply State.readGate_keeps
    | with_reducible apply Keeps.step State.afterRead_keeps
    | (with_reducible apply Keeps.foldl; intro _ _; try dsimp only)
    | (intro _; try dsimp only)
    | decide
    | with_reducible apply KeepsO.next

theorem execPtpAdj_keeps {src : AccSrc} {w : Wy} {v : Word} {s : State} :
    KeepsO [.pcie, .ptp, .regs] s (execPtpAdj src w v s) := by
  unfold execPtpAdj
  try dsimp only
  repeat' first
    | with_reducible exact Keeps.refl
    | with_reducible apply State.gated_keeps
    | with_reducible apply State.ownTile_keeps
    | with_reducible apply Keeps.step State.stepPtp_keeps
    | (intro _; try dsimp only)
    | decide
    | with_reducible apply KeepsO.next

end Sys2Proof.Machine
end

