-- ==== Sys2Proof/Laws/KTick.lean ====
section
/-! SUPPORT. What each operation of Tick.lean keeps. -/

-- One lemma after the other: many side by side hold too much memory when the package is one text.
set_option Elab.async false

namespace Sys2Proof.Machine

theorem State.dueAll_keeps {s : State} :
    Keeps [.relief, .clk, .cip, .codec, .mortar, .pcie, .bpm, .ptp, .portMode, .ports, .pairs, .serving, .start, .regs, .active, .wall, .store, .tileFaults, .stripes, .refs, .heldMortar, .media, .units, .jobRuns, .arriving, .flash, .recorder, .plinth, .front, .health, .inA, .inB, .holdup, .fw, .pwr, .cover] s (State.dueAll s) := by
  unfold State.dueAll
  try dsimp only
  repeat' first
    | with_reducible exact Keeps.refl
    | with_reducible apply Keeps.step State.confirmAll_keeps
    | with_reducible apply Keeps.step State.servo_keeps
    | with_reducible apply Keeps.step State.flashDue_keeps
    | with_reducible apply Keeps.step State.slcMarks_keeps
    | with_reducible apply Keeps.step State.txDue_keeps
    | with_reducible apply Keeps.step State.suspendDue_keeps
    | with_reducible apply Keeps.step State.settingsDue_keeps
    | with_reducible apply Keeps.step State.serdesDue_keeps
    | with_reducible apply Keeps.step State.handBackDue_keeps
    | with_reducible apply Keeps.step State.handBackStart_keeps
    | with_reducible apply Keeps.step State.drainDue_keeps
    | with_reducible apply Keeps.step State.alertDue_keeps
    | with_reducible apply Keeps.step State.labelDue_keeps
    | with_reducible apply Keeps.step State.brickResetDue_keeps
    | with_reducible apply Keeps.step State.cleanStopDue_keeps
    | with_reducible apply Keeps.step State.removeDue_keeps
    | with_reducible apply Keeps.step State.pipelineDue_keeps
    | decide

theorem tick_keeps {s : State} :
    KeepsO [.relief, .clk, .cip, .codec, .mortar, .pcie, .bpm, .ptp, .portMode, .ports, .pairs, .serving, .start, .regs, .active, .wall, .store, .tileFaults, .stripes, .refs, .heldMortar, .media, .units, .jobRuns, .arriving, .flash, .recorder, .plinth, .front, .health, .inA, .inB, .holdup, .fw, .pwr, .cover] s (tick s) := by
  unfold tick
  have later : Keeps [] s { s with now := s.now + 1 + s.free } := by
    have := @Keeps.now_add s (1 + s.free)
    rwa [← Nat.add_assoc] at this
  exact KeepsO.next (State.dueAll_keeps.step (by decide) (State.used_keeps.step (by decide) (later.mono (by decide))))

end Sys2Proof.Machine
end

