-- ==== Sys2Proof/Laws/State.lean ====
section
/-! SUPPORT. What each update of the state leaves in each field of it, one lemma per field per update, all true by `rfl`. -/

namespace Sys2Proof.Machine

/-! ### emit -/

@[simp] theorem State.emit_now (s : State) (o : Output) : (s.emit o).now = s.now := rfl
@[simp] theorem State.emit_fresh (s : State) (o : Output) : (s.emit o).fresh = s.fresh := rfl
@[simp] theorem State.emit_pending (s : State) (o : Output) : (s.emit o).pending = s.pending := rfl
@[simp] theorem State.emit_out (s : State) (o : Output) : (s.emit o).out = s.out ++ [o] := rfl
@[simp] theorem State.emit_regs (s : State) (o : Output) : (s.emit o).regs = s.regs := rfl
@[simp] theorem State.emit_active (s : State) (o : Output) : (s.emit o).active = s.active := rfl
@[simp] theorem State.emit_w0 (s : State) (o : Output) : (s.emit o).w0 = s.w0 := rfl
@[simp] theorem State.emit_w1 (s : State) (o : Output) : (s.emit o).w1 = s.w1 := rfl
@[simp] theorem State.emit_wall (s : State) (o : Output) : (s.emit o).wall = s.wall := rfl
@[simp] theorem State.emit_store (s : State) (o : Output) : (s.emit o).store = s.store := rfl
@[simp] theorem State.emit_tileFaults (s : State) (o : Output) : (s.emit o).tileFaults = s.tileFaults := rfl
@[simp] theorem State.emit_stripes (s : State) (o : Output) : (s.emit o).stripes = s.stripes := rfl
@[simp] theorem State.emit_refs (s : State) (o : Output) : (s.emit o).refs = s.refs := rfl
@[simp] theorem State.emit_heldMortar (s : State) (o : Output) : (s.emit o).heldMortar = s.heldMortar := rfl
@[simp] theorem State.emit_syncQueue (s : State) (o : Output) : (s.emit o).syncQueue = s.syncQueue := rfl
@[simp] theorem State.emit_media (s : State) (o : Output) : (s.emit o).media = s.media := rfl
@[simp] theorem State.emit_units (s : State) (o : Output) : (s.emit o).units = s.units := rfl
@[simp] theorem State.emit_jobRuns (s : State) (o : Output) : (s.emit o).jobRuns = s.jobRuns := rfl
@[simp] theorem State.emit_arriving (s : State) (o : Output) : (s.emit o).arriving = s.arriving := rfl
@[simp] theorem State.emit_flash (s : State) (o : Output) : (s.emit o).flash = s.flash := rfl
@[simp] theorem State.emit_recorder (s : State) (o : Output) : (s.emit o).recorder = s.recorder := rfl
@[simp] theorem State.emit_plinth (s : State) (o : Output) : (s.emit o).plinth = s.plinth := rfl
@[simp] theorem State.emit_front (s : State) (o : Output) : (s.emit o).front = s.front := rfl
@[simp] theorem State.emit_health (s : State) (o : Output) : (s.emit o).health = s.health := rfl
@[simp] theorem State.emit_inA (s : State) (o : Output) : (s.emit o).inA = s.inA := rfl
@[simp] theorem State.emit_inB (s : State) (o : Output) : (s.emit o).inB = s.inB := rfl
@[simp] theorem State.emit_holdup (s : State) (o : Output) : (s.emit o).holdup = s.holdup := rfl
@[simp] theorem State.emit_fw (s : State) (o : Output) : (s.emit o).fw = s.fw := rfl
@[simp] theorem State.emit_pwr (s : State) (o : Output) : (s.emit o).pwr = s.pwr := rfl
@[simp] theorem State.emit_cover (s : State) (o : Output) : (s.emit o).cover = s.cover := rfl

/-! ### emitAll -/

@[simp] theorem State.emitAll_now (s : State) (l : List Output) : (s.emitAll l).now = s.now := rfl
@[simp] theorem State.emitAll_fresh (s : State) (l : List Output) : (s.emitAll l).fresh = s.fresh := rfl
@[simp] theorem State.emitAll_pending (s : State) (l : List Output) : (s.emitAll l).pending = s.pending := rfl
@[simp] theorem State.emitAll_out (s : State) (l : List Output) : (s.emitAll l).out = s.out ++ l := rfl
@[simp] theorem State.emitAll_regs (s : State) (l : List Output) : (s.emitAll l).regs = s.regs := rfl
@[simp] theorem State.emitAll_active (s : State) (l : List Output) : (s.emitAll l).active = s.active := rfl
@[simp] theorem State.emitAll_w0 (s : State) (l : List Output) : (s.emitAll l).w0 = s.w0 := rfl
@[simp] theorem State.emitAll_w1 (s : State) (l : List Output) : (s.emitAll l).w1 = s.w1 := rfl
@[simp] theorem State.emitAll_wall (s : State) (l : List Output) : (s.emitAll l).wall = s.wall := rfl
@[simp] theorem State.emitAll_store (s : State) (l : List Output) : (s.emitAll l).store = s.store := rfl
@[simp] theorem State.emitAll_tileFaults (s : State) (l : List Output) : (s.emitAll l).tileFaults = s.tileFaults := rfl
@[simp] theorem State.emitAll_stripes (s : State) (l : List Output) : (s.emitAll l).stripes = s.stripes := rfl
@[simp] theorem State.emitAll_refs (s : State) (l : List Output) : (s.emitAll l).refs = s.refs := rfl
@[simp] theorem State.emitAll_heldMortar (s : State) (l : List Output) : (s.emitAll l).heldMortar = s.heldMortar := rfl
@[simp] theorem State.emitAll_syncQueue (s : State) (l : List Output) : (s.emitAll l).syncQueue = s.syncQueue := rfl
@[simp] theorem State.emitAll_media (s : State) (l : List Output) : (s.emitAll l).media = s.media := rfl
@[simp] theorem State.emitAll_units (s : State) (l : List Output) : (s.emitAll l).units = s.units := rfl
@[simp] theorem State.emitAll_jobRuns (s : State) (l : List Output) : (s.emitAll l).jobRuns = s.jobRuns := rfl
@[simp] theorem State.emitAll_arriving (s : State) (l : List Output) : (s.emitAll l).arriving = s.arriving := rfl
@[simp] theorem State.emitAll_flash (s : State) (l : List Output) : (s.emitAll l).flash = s.flash := rfl
@[simp] theorem State.emitAll_recorder (s : State) (l : List Output) : (s.emitAll l).recorder = s.recorder := rfl
@[simp] theorem State.emitAll_plinth (s : State) (l : List Output) : (s.emitAll l).plinth = s.plinth := rfl
@[simp] theorem State.emitAll_front (s : State) (l : List Output) : (s.emitAll l).front = s.front := rfl
@[simp] theorem State.emitAll_health (s : State) (l : List Output) : (s.emitAll l).health = s.health := rfl
@[simp] theorem State.emitAll_inA (s : State) (l : List Output) : (s.emitAll l).inA = s.inA := rfl
@[simp] theorem State.emitAll_inB (s : State) (l : List Output) : (s.emitAll l).inB = s.inB := rfl
@[simp] theorem State.emitAll_holdup (s : State) (l : List Output) : (s.emitAll l).holdup = s.holdup := rfl
@[simp] theorem State.emitAll_fw (s : State) (l : List Output) : (s.emitAll l).fw = s.fw := rfl
@[simp] theorem State.emitAll_pwr (s : State) (l : List Output) : (s.emitAll l).pwr = s.pwr := rfl
@[simp] theorem State.emitAll_cover (s : State) (l : List Output) : (s.emitAll l).cover = s.cover := rfl

/-! ### used -/

@[simp] theorem State.used_now (s : State) : s.used.now = s.now := rfl
@[simp] theorem State.used_fresh (s : State) : s.used.fresh = s.fresh + 1 := rfl
@[simp] theorem State.used_pending (s : State) : s.used.pending = s.pending := rfl
@[simp] theorem State.used_out (s : State) : s.used.out = s.out := rfl
@[simp] theorem State.used_regs (s : State) : s.used.regs = s.regs := rfl
@[simp] theorem State.used_active (s : State) : s.used.active = s.active := rfl
@[simp] theorem State.used_w0 (s : State) : s.used.w0 = s.w0 := rfl
@[simp] theorem State.used_w1 (s : State) : s.used.w1 = s.w1 := rfl
@[simp] theorem State.used_wall (s : State) : s.used.wall = s.wall := rfl
@[simp] theorem State.used_store (s : State) : s.used.store = s.store := rfl
@[simp] theorem State.used_tileFaults (s : State) : s.used.tileFaults = s.tileFaults := rfl
@[simp] theorem State.used_stripes (s : State) : s.used.stripes = s.stripes := rfl
@[simp] theorem State.used_refs (s : State) : s.used.refs = s.refs := rfl
@[simp] theorem State.used_heldMortar (s : State) : s.used.heldMortar = s.heldMortar := rfl
@[simp] theorem State.used_syncQueue (s : State) : s.used.syncQueue = s.syncQueue := rfl
@[simp] theorem State.used_media (s : State) : s.used.media = s.media := rfl
@[simp] theorem State.used_units (s : State) : s.used.units = s.units := rfl
@[simp] theorem State.used_jobRuns (s : State) : s.used.jobRuns = s.jobRuns := rfl
@[simp] theorem State.used_arriving (s : State) : s.used.arriving = s.arriving := rfl
@[simp] theorem State.used_flash (s : State) : s.used.flash = s.flash := rfl
@[simp] theorem State.used_recorder (s : State) : s.used.recorder = s.recorder := rfl
@[simp] theorem State.used_plinth (s : State) : s.used.plinth = s.plinth := rfl
@[simp] theorem State.used_front (s : State) : s.used.front = s.front := rfl
@[simp] theorem State.used_health (s : State) : s.used.health = s.health := rfl
@[simp] theorem State.used_inA (s : State) : s.used.inA = s.inA := rfl
@[simp] theorem State.used_inB (s : State) : s.used.inB = s.inB := rfl
@[simp] theorem State.used_holdup (s : State) : s.used.holdup = s.holdup := rfl
@[simp] theorem State.used_fw (s : State) : s.used.fw = s.fw := rfl
@[simp] theorem State.used_pwr (s : State) : s.used.pwr = s.pwr := rfl
@[simp] theorem State.used_cover (s : State) : s.used.cover = s.cover := rfl

/-! ### setReg -/

@[simp] theorem State.setReg_now (s : State) (p : Page) (off : Nat) (v : Word) : (s.setReg p off v).now = s.now := rfl
@[simp] theorem State.setReg_fresh (s : State) (p : Page) (off : Nat) (v : Word) : (s.setReg p off v).fresh = s.fresh := rfl
@[simp] theorem State.setReg_pending (s : State) (p : Page) (off : Nat) (v : Word) : (s.setReg p off v).pending = s.pending := rfl
@[simp] theorem State.setReg_out (s : State) (p : Page) (off : Nat) (v : Word) : (s.setReg p off v).out = s.out := rfl
@[simp] theorem State.setReg_regs (s : State) (p : Page) (off : Nat) (v : Word) : (s.setReg p off v).regs = tablePut s.regs (pageKey p + off) v := rfl
@[simp] theorem State.setReg_active (s : State) (p : Page) (off : Nat) (v : Word) : (s.setReg p off v).active = s.active := rfl
@[simp] theorem State.setReg_w0 (s : State) (p : Page) (off : Nat) (v : Word) : (s.setReg p off v).w0 = s.w0 := rfl
@[simp] theorem State.setReg_w1 (s : State) (p : Page) (off : Nat) (v : Word) : (s.setReg p off v).w1 = s.w1 := rfl
@[simp] theorem State.setReg_wall (s : State) (p : Page) (off : Nat) (v : Word) : (s.setReg p off v).wall = s.wall := rfl
@[simp] theorem State.setReg_store (s : State) (p : Page) (off : Nat) (v : Word) : (s.setReg p off v).store = s.store := rfl
@[simp] theorem State.setReg_tileFaults (s : State) (p : Page) (off : Nat) (v : Word) : (s.setReg p off v).tileFaults = s.tileFaults := rfl
@[simp] theorem State.setReg_stripes (s : State) (p : Page) (off : Nat) (v : Word) : (s.setReg p off v).stripes = s.stripes := rfl
@[simp] theorem State.setReg_refs (s : State) (p : Page) (off : Nat) (v : Word) : (s.setReg p off v).refs = s.refs := rfl
@[simp] theorem State.setReg_heldMortar (s : State) (p : Page) (off : Nat) (v : Word) : (s.setReg p off v).heldMortar = s.heldMortar := rfl
@[simp] theorem State.setReg_syncQueue (s : State) (p : Page) (off : Nat) (v : Word) : (s.setReg p off v).syncQueue = s.syncQueue := rfl
@[simp] theorem State.setReg_media (s : State) (p : Page) (off : Nat) (v : Word) : (s.setReg p off v).media = s.media := rfl
@[simp] theorem State.setReg_units (s : State) (p : Page) (off : Nat) (v : Word) : (s.setReg p off v).units = s.units := rfl
@[simp] theorem State.setReg_jobRuns (s : State) (p : Page) (off : Nat) (v : Word) : (s.setReg p off v).jobRuns = s.jobRuns := rfl
@[simp] theorem State.setReg_arriving (s : State) (p : Page) (off : Nat) (v : Word) : (s.setReg p off v).arriving = s.arriving := rfl
@[simp] theorem State.setReg_flash (s : State) (p : Page) (off : Nat) (v : Word) : (s.setReg p off v).flash = s.flash := rfl
@[simp] theorem State.setReg_recorder (s : State) (p : Page) (off : Nat) (v : Word) : (s.setReg p off v).recorder = s.recorder := rfl
@[simp] theorem State.setReg_plinth (s : State) (p : Page) (off : Nat) (v : Word) : (s.setReg p off v).plinth = s.plinth := rfl
@[simp] theorem State.setReg_front (s : State) (p : Page) (off : Nat) (v : Word) : (s.setReg p off v).front = s.front := rfl
@[simp] theorem State.setReg_health (s : State) (p : Page) (off : Nat) (v : Word) : (s.setReg p off v).health = s.health := rfl
@[simp] theorem State.setReg_inA (s : State) (p : Page) (off : Nat) (v : Word) : (s.setReg p off v).inA = s.inA := rfl
@[simp] theorem State.setReg_inB (s : State) (p : Page) (off : Nat) (v : Word) : (s.setReg p off v).inB = s.inB := rfl
@[simp] theorem State.setReg_holdup (s : State) (p : Page) (off : Nat) (v : Word) : (s.setReg p off v).holdup = s.holdup := rfl
@[simp] theorem State.setReg_fw (s : State) (p : Page) (off : Nat) (v : Word) : (s.setReg p off v).fw = s.fw := rfl
@[simp] theorem State.setReg_pwr (s : State) (p : Page) (off : Nat) (v : Word) : (s.setReg p off v).pwr = s.pwr := rfl
@[simp] theorem State.setReg_cover (s : State) (p : Page) (off : Nat) (v : Word) : (s.setReg p off v).cover = s.cover := rfl

/-! ### setAct -/

@[simp] theorem State.setAct_now (s : State) (p : Page) (off : Nat) (v : Word) : (s.setAct p off v).now = s.now := rfl
@[simp] theorem State.setAct_fresh (s : State) (p : Page) (off : Nat) (v : Word) : (s.setAct p off v).fresh = s.fresh := rfl
@[simp] theorem State.setAct_pending (s : State) (p : Page) (off : Nat) (v : Word) : (s.setAct p off v).pending = s.pending := rfl
@[simp] theorem State.setAct_out (s : State) (p : Page) (off : Nat) (v : Word) : (s.setAct p off v).out = s.out := rfl
@[simp] theorem State.setAct_regs (s : State) (p : Page) (off : Nat) (v : Word) : (s.setAct p off v).regs = s.regs := rfl
@[simp] theorem State.setAct_active (s : State) (p : Page) (off : Nat) (v : Word) : (s.setAct p off v).active = tablePut s.active (pageKey p + off) v := rfl
@[simp] theorem State.setAct_w0 (s : State) (p : Page) (off : Nat) (v : Word) : (s.setAct p off v).w0 = s.w0 := rfl
@[simp] theorem State.setAct_w1 (s : State) (p : Page) (off : Nat) (v : Word) : (s.setAct p off v).w1 = s.w1 := rfl
@[simp] theorem State.setAct_wall (s : State) (p : Page) (off : Nat) (v : Word) : (s.setAct p off v).wall = s.wall := rfl
@[simp] theorem State.setAct_store (s : State) (p : Page) (off : Nat) (v : Word) : (s.setAct p off v).store = s.store := rfl
@[simp] theorem State.setAct_tileFaults (s : State) (p : Page) (off : Nat) (v : Word) : (s.setAct p off v).tileFaults = s.tileFaults := rfl
@[simp] theorem State.setAct_stripes (s : State) (p : Page) (off : Nat) (v : Word) : (s.setAct p off v).stripes = s.stripes := rfl
@[simp] theorem State.setAct_refs (s : State) (p : Page) (off : Nat) (v : Word) : (s.setAct p off v).refs = s.refs := rfl
@[simp] theorem State.setAct_heldMortar (s : State) (p : Page) (off : Nat) (v : Word) : (s.setAct p off v).heldMortar = s.heldMortar := rfl
@[simp] theorem State.setAct_syncQueue (s : State) (p : Page) (off : Nat) (v : Word) : (s.setAct p off v).syncQueue = s.syncQueue := rfl
@[simp] theorem State.setAct_media (s : State) (p : Page) (off : Nat) (v : Word) : (s.setAct p off v).media = s.media := rfl
@[simp] theorem State.setAct_units (s : State) (p : Page) (off : Nat) (v : Word) : (s.setAct p off v).units = s.units := rfl
@[simp] theorem State.setAct_jobRuns (s : State) (p : Page) (off : Nat) (v : Word) : (s.setAct p off v).jobRuns = s.jobRuns := rfl
@[simp] theorem State.setAct_arriving (s : State) (p : Page) (off : Nat) (v : Word) : (s.setAct p off v).arriving = s.arriving := rfl
@[simp] theorem State.setAct_flash (s : State) (p : Page) (off : Nat) (v : Word) : (s.setAct p off v).flash = s.flash := rfl
@[simp] theorem State.setAct_recorder (s : State) (p : Page) (off : Nat) (v : Word) : (s.setAct p off v).recorder = s.recorder := rfl
@[simp] theorem State.setAct_plinth (s : State) (p : Page) (off : Nat) (v : Word) : (s.setAct p off v).plinth = s.plinth := rfl
@[simp] theorem State.setAct_front (s : State) (p : Page) (off : Nat) (v : Word) : (s.setAct p off v).front = s.front := rfl
@[simp] theorem State.setAct_health (s : State) (p : Page) (off : Nat) (v : Word) : (s.setAct p off v).health = s.health := rfl
@[simp] theorem State.setAct_inA (s : State) (p : Page) (off : Nat) (v : Word) : (s.setAct p off v).inA = s.inA := rfl
@[simp] theorem State.setAct_inB (s : State) (p : Page) (off : Nat) (v : Word) : (s.setAct p off v).inB = s.inB := rfl
@[simp] theorem State.setAct_holdup (s : State) (p : Page) (off : Nat) (v : Word) : (s.setAct p off v).holdup = s.holdup := rfl
@[simp] theorem State.setAct_fw (s : State) (p : Page) (off : Nat) (v : Word) : (s.setAct p off v).fw = s.fw := rfl
@[simp] theorem State.setAct_pwr (s : State) (p : Page) (off : Nat) (v : Word) : (s.setAct p off v).pwr = s.pwr := rfl
@[simp] theorem State.setAct_cover (s : State) (p : Page) (off : Nat) (v : Word) : (s.setAct p off v).cover = s.cover := rfl

/-! ### modWall -/

@[simp] theorem State.modWall_now (s : State) (f : Wall → Wall) : (s.modWall f).now = s.now := rfl
@[simp] theorem State.modWall_fresh (s : State) (f : Wall → Wall) : (s.modWall f).fresh = s.fresh := rfl
@[simp] theorem State.modWall_pending (s : State) (f : Wall → Wall) : (s.modWall f).pending = s.pending := rfl
@[simp] theorem State.modWall_out (s : State) (f : Wall → Wall) : (s.modWall f).out = s.out := rfl
@[simp] theorem State.modWall_regs (s : State) (f : Wall → Wall) : (s.modWall f).regs = s.regs := rfl
@[simp] theorem State.modWall_active (s : State) (f : Wall → Wall) : (s.modWall f).active = s.active := rfl
@[simp] theorem State.modWall_w0 (s : State) (f : Wall → Wall) : (s.modWall f).w0 = s.w0 := rfl
@[simp] theorem State.modWall_w1 (s : State) (f : Wall → Wall) : (s.modWall f).w1 = s.w1 := rfl
@[simp] theorem State.modWall_wall (s : State) (f : Wall → Wall) : (s.modWall f).wall = f s.wall := rfl
@[simp] theorem State.modWall_store (s : State) (f : Wall → Wall) : (s.modWall f).store = s.store := rfl
@[simp] theorem State.modWall_tileFaults (s : State) (f : Wall → Wall) : (s.modWall f).tileFaults = s.tileFaults := rfl
@[simp] theorem State.modWall_stripes (s : State) (f : Wall → Wall) : (s.modWall f).stripes = s.stripes := rfl
@[simp] theorem State.modWall_refs (s : State) (f : Wall → Wall) : (s.modWall f).refs = s.refs := rfl
@[simp] theorem State.modWall_heldMortar (s : State) (f : Wall → Wall) : (s.modWall f).heldMortar = s.heldMortar := rfl
@[simp] theorem State.modWall_syncQueue (s : State) (f : Wall → Wall) : (s.modWall f).syncQueue = s.syncQueue := rfl
@[simp] theorem State.modWall_media (s : State) (f : Wall → Wall) : (s.modWall f).media = s.media := rfl
@[simp] theorem State.modWall_units (s : State) (f : Wall → Wall) : (s.modWall f).units = s.units := rfl
@[simp] theorem State.modWall_jobRuns (s : State) (f : Wall → Wall) : (s.modWall f).jobRuns = s.jobRuns := rfl
@[simp] theorem State.modWall_arriving (s : State) (f : Wall → Wall) : (s.modWall f).arriving = s.arriving := rfl
@[simp] theorem State.modWall_flash (s : State) (f : Wall → Wall) : (s.modWall f).flash = s.flash := rfl
@[simp] theorem State.modWall_recorder (s : State) (f : Wall → Wall) : (s.modWall f).recorder = s.recorder := rfl
@[simp] theorem State.modWall_plinth (s : State) (f : Wall → Wall) : (s.modWall f).plinth = s.plinth := rfl
@[simp] theorem State.modWall_front (s : State) (f : Wall → Wall) : (s.modWall f).front = s.front := rfl
@[simp] theorem State.modWall_health (s : State) (f : Wall → Wall) : (s.modWall f).health = s.health := rfl
@[simp] theorem State.modWall_inA (s : State) (f : Wall → Wall) : (s.modWall f).inA = s.inA := rfl
@[simp] theorem State.modWall_inB (s : State) (f : Wall → Wall) : (s.modWall f).inB = s.inB := rfl
@[simp] theorem State.modWall_holdup (s : State) (f : Wall → Wall) : (s.modWall f).holdup = s.holdup := rfl
@[simp] theorem State.modWall_fw (s : State) (f : Wall → Wall) : (s.modWall f).fw = s.fw := rfl
@[simp] theorem State.modWall_pwr (s : State) (f : Wall → Wall) : (s.modWall f).pwr = s.pwr := rfl
@[simp] theorem State.modWall_cover (s : State) (f : Wall → Wall) : (s.modWall f).cover = s.cover := rfl

/-! ### modStore -/

@[simp] theorem State.modStore_now (s : State) (f : Store → Store) : (s.modStore f).now = s.now := rfl
@[simp] theorem State.modStore_fresh (s : State) (f : Store → Store) : (s.modStore f).fresh = s.fresh := rfl
@[simp] theorem State.modStore_pending (s : State) (f : Store → Store) : (s.modStore f).pending = s.pending := rfl
@[simp] theorem State.modStore_out (s : State) (f : Store → Store) : (s.modStore f).out = s.out := rfl
@[simp] theorem State.modStore_regs (s : State) (f : Store → Store) : (s.modStore f).regs = s.regs := rfl
@[simp] theorem State.modStore_active (s : State) (f : Store → Store) : (s.modStore f).active = s.active := rfl
@[simp] theorem State.modStore_w0 (s : State) (f : Store → Store) : (s.modStore f).w0 = s.w0 := rfl
@[simp] theorem State.modStore_w1 (s : State) (f : Store → Store) : (s.modStore f).w1 = s.w1 := rfl
@[simp] theorem State.modStore_wall (s : State) (f : Store → Store) : (s.modStore f).wall = s.wall := rfl
@[simp] theorem State.modStore_store (s : State) (f : Store → Store) : (s.modStore f).store = f s.store := rfl
@[simp] theorem State.modStore_tileFaults (s : State) (f : Store → Store) : (s.modStore f).tileFaults = s.tileFaults := rfl
@[simp] theorem State.modStore_stripes (s : State) (f : Store → Store) : (s.modStore f).stripes = s.stripes := rfl
@[simp] theorem State.modStore_refs (s : State) (f : Store → Store) : (s.modStore f).refs = s.refs := rfl
@[simp] theorem State.modStore_heldMortar (s : State) (f : Store → Store) : (s.modStore f).heldMortar = s.heldMortar := rfl
@[simp] theorem State.modStore_syncQueue (s : State) (f : Store → Store) : (s.modStore f).syncQueue = s.syncQueue := rfl
@[simp] theorem State.modStore_media (s : State) (f : Store → Store) : (s.modStore f).media = s.media := rfl
@[simp] theorem State.modStore_units (s : State) (f : Store → Store) : (s.modStore f).units = s.units := rfl
@[simp] theorem State.modStore_jobRuns (s : State) (f : Store → Store) : (s.modStore f).jobRuns = s.jobRuns := rfl
@[simp] theorem State.modStore_arriving (s : State) (f : Store → Store) : (s.modStore f).arriving = s.arriving := rfl
@[simp] theorem State.modStore_flash (s : State) (f : Store → Store) : (s.modStore f).flash = s.flash := rfl
@[simp] theorem State.modStore_recorder (s : State) (f : Store → Store) : (s.modStore f).recorder = s.recorder := rfl
@[simp] theorem State.modStore_plinth (s : State) (f : Store → Store) : (s.modStore f).plinth = s.plinth := rfl
@[simp] theorem State.modStore_front (s : State) (f : Store → Store) : (s.modStore f).front = s.front := rfl
@[simp] theorem State.modStore_health (s : State) (f : Store → Store) : (s.modStore f).health = s.health := rfl
@[simp] theorem State.modStore_inA (s : State) (f : Store → Store) : (s.modStore f).inA = s.inA := rfl
@[simp] theorem State.modStore_inB (s : State) (f : Store → Store) : (s.modStore f).inB = s.inB := rfl
@[simp] theorem State.modStore_holdup (s : State) (f : Store → Store) : (s.modStore f).holdup = s.holdup := rfl
@[simp] theorem State.modStore_fw (s : State) (f : Store → Store) : (s.modStore f).fw = s.fw := rfl
@[simp] theorem State.modStore_pwr (s : State) (f : Store → Store) : (s.modStore f).pwr = s.pwr := rfl
@[simp] theorem State.modStore_cover (s : State) (f : Store → Store) : (s.modStore f).cover = s.cover := rfl

/-! ### modMedia -/

@[simp] theorem State.modMedia_now (s : State) (f : Media → Media) : (s.modMedia f).now = s.now := rfl
@[simp] theorem State.modMedia_fresh (s : State) (f : Media → Media) : (s.modMedia f).fresh = s.fresh := rfl
@[simp] theorem State.modMedia_pending (s : State) (f : Media → Media) : (s.modMedia f).pending = s.pending := rfl
@[simp] theorem State.modMedia_out (s : State) (f : Media → Media) : (s.modMedia f).out = s.out := rfl
@[simp] theorem State.modMedia_regs (s : State) (f : Media → Media) : (s.modMedia f).regs = s.regs := rfl
@[simp] theorem State.modMedia_active (s : State) (f : Media → Media) : (s.modMedia f).active = s.active := rfl
@[simp] theorem State.modMedia_w0 (s : State) (f : Media → Media) : (s.modMedia f).w0 = s.w0 := rfl
@[simp] theorem State.modMedia_w1 (s : State) (f : Media → Media) : (s.modMedia f).w1 = s.w1 := rfl
@[simp] theorem State.modMedia_wall (s : State) (f : Media → Media) : (s.modMedia f).wall = s.wall := rfl
@[simp] theorem State.modMedia_store (s : State) (f : Media → Media) : (s.modMedia f).store = s.store := rfl
@[simp] theorem State.modMedia_tileFaults (s : State) (f : Media → Media) : (s.modMedia f).tileFaults = s.tileFaults := rfl
@[simp] theorem State.modMedia_stripes (s : State) (f : Media → Media) : (s.modMedia f).stripes = s.stripes := rfl
@[simp] theorem State.modMedia_refs (s : State) (f : Media → Media) : (s.modMedia f).refs = s.refs := rfl
@[simp] theorem State.modMedia_heldMortar (s : State) (f : Media → Media) : (s.modMedia f).heldMortar = s.heldMortar := rfl
@[simp] theorem State.modMedia_syncQueue (s : State) (f : Media → Media) : (s.modMedia f).syncQueue = s.syncQueue := rfl
@[simp] theorem State.modMedia_media (s : State) (f : Media → Media) : (s.modMedia f).media = f s.media := rfl
@[simp] theorem State.modMedia_units (s : State) (f : Media → Media) : (s.modMedia f).units = s.units := rfl
@[simp] theorem State.modMedia_jobRuns (s : State) (f : Media → Media) : (s.modMedia f).jobRuns = s.jobRuns := rfl
@[simp] theorem State.modMedia_arriving (s : State) (f : Media → Media) : (s.modMedia f).arriving = s.arriving := rfl
@[simp] theorem State.modMedia_flash (s : State) (f : Media → Media) : (s.modMedia f).flash = s.flash := rfl
@[simp] theorem State.modMedia_recorder (s : State) (f : Media → Media) : (s.modMedia f).recorder = s.recorder := rfl
@[simp] theorem State.modMedia_plinth (s : State) (f : Media → Media) : (s.modMedia f).plinth = s.plinth := rfl
@[simp] theorem State.modMedia_front (s : State) (f : Media → Media) : (s.modMedia f).front = s.front := rfl
@[simp] theorem State.modMedia_health (s : State) (f : Media → Media) : (s.modMedia f).health = s.health := rfl
@[simp] theorem State.modMedia_inA (s : State) (f : Media → Media) : (s.modMedia f).inA = s.inA := rfl
@[simp] theorem State.modMedia_inB (s : State) (f : Media → Media) : (s.modMedia f).inB = s.inB := rfl
@[simp] theorem State.modMedia_holdup (s : State) (f : Media → Media) : (s.modMedia f).holdup = s.holdup := rfl
@[simp] theorem State.modMedia_fw (s : State) (f : Media → Media) : (s.modMedia f).fw = s.fw := rfl
@[simp] theorem State.modMedia_pwr (s : State) (f : Media → Media) : (s.modMedia f).pwr = s.pwr := rfl
@[simp] theorem State.modMedia_cover (s : State) (f : Media → Media) : (s.modMedia f).cover = s.cover := rfl

/-! ### modRefs -/

@[simp] theorem State.modRefs_now (s : State) (f : Refs → Refs) : (s.modRefs f).now = s.now := rfl
@[simp] theorem State.modRefs_fresh (s : State) (f : Refs → Refs) : (s.modRefs f).fresh = s.fresh := rfl
@[simp] theorem State.modRefs_pending (s : State) (f : Refs → Refs) : (s.modRefs f).pending = s.pending := rfl
@[simp] theorem State.modRefs_out (s : State) (f : Refs → Refs) : (s.modRefs f).out = s.out := rfl
@[simp] theorem State.modRefs_regs (s : State) (f : Refs → Refs) : (s.modRefs f).regs = s.regs := rfl
@[simp] theorem State.modRefs_active (s : State) (f : Refs → Refs) : (s.modRefs f).active = s.active := rfl
@[simp] theorem State.modRefs_w0 (s : State) (f : Refs → Refs) : (s.modRefs f).w0 = s.w0 := rfl
@[simp] theorem State.modRefs_w1 (s : State) (f : Refs → Refs) : (s.modRefs f).w1 = s.w1 := rfl
@[simp] theorem State.modRefs_wall (s : State) (f : Refs → Refs) : (s.modRefs f).wall = s.wall := rfl
@[simp] theorem State.modRefs_store (s : State) (f : Refs → Refs) : (s.modRefs f).store = s.store := rfl
@[simp] theorem State.modRefs_tileFaults (s : State) (f : Refs → Refs) : (s.modRefs f).tileFaults = s.tileFaults := rfl
@[simp] theorem State.modRefs_stripes (s : State) (f : Refs → Refs) : (s.modRefs f).stripes = s.stripes := rfl
@[simp] theorem State.modRefs_refs (s : State) (f : Refs → Refs) : (s.modRefs f).refs = f s.refs := rfl
@[simp] theorem State.modRefs_heldMortar (s : State) (f : Refs → Refs) : (s.modRefs f).heldMortar = s.heldMortar := rfl
@[simp] theorem State.modRefs_syncQueue (s : State) (f : Refs → Refs) : (s.modRefs f).syncQueue = s.syncQueue := rfl
@[simp] theorem State.modRefs_media (s : State) (f : Refs → Refs) : (s.modRefs f).media = s.media := rfl
@[simp] theorem State.modRefs_units (s : State) (f : Refs → Refs) : (s.modRefs f).units = s.units := rfl
@[simp] theorem State.modRefs_jobRuns (s : State) (f : Refs → Refs) : (s.modRefs f).jobRuns = s.jobRuns := rfl
@[simp] theorem State.modRefs_arriving (s : State) (f : Refs → Refs) : (s.modRefs f).arriving = s.arriving := rfl
@[simp] theorem State.modRefs_flash (s : State) (f : Refs → Refs) : (s.modRefs f).flash = s.flash := rfl
@[simp] theorem State.modRefs_recorder (s : State) (f : Refs → Refs) : (s.modRefs f).recorder = s.recorder := rfl
@[simp] theorem State.modRefs_plinth (s : State) (f : Refs → Refs) : (s.modRefs f).plinth = s.plinth := rfl
@[simp] theorem State.modRefs_front (s : State) (f : Refs → Refs) : (s.modRefs f).front = s.front := rfl
@[simp] theorem State.modRefs_health (s : State) (f : Refs → Refs) : (s.modRefs f).health = s.health := rfl
@[simp] theorem State.modRefs_inA (s : State) (f : Refs → Refs) : (s.modRefs f).inA = s.inA := rfl
@[simp] theorem State.modRefs_inB (s : State) (f : Refs → Refs) : (s.modRefs f).inB = s.inB := rfl
@[simp] theorem State.modRefs_holdup (s : State) (f : Refs → Refs) : (s.modRefs f).holdup = s.holdup := rfl
@[simp] theorem State.modRefs_fw (s : State) (f : Refs → Refs) : (s.modRefs f).fw = s.fw := rfl
@[simp] theorem State.modRefs_pwr (s : State) (f : Refs → Refs) : (s.modRefs f).pwr = s.pwr := rfl
@[simp] theorem State.modRefs_cover (s : State) (f : Refs → Refs) : (s.modRefs f).cover = s.cover := rfl

/-! ### modPlinth -/

@[simp] theorem State.modPlinth_now (s : State) (f : Plinth → Plinth) : (s.modPlinth f).now = s.now := rfl
@[simp] theorem State.modPlinth_fresh (s : State) (f : Plinth → Plinth) : (s.modPlinth f).fresh = s.fresh := rfl
@[simp] theorem State.modPlinth_pending (s : State) (f : Plinth → Plinth) : (s.modPlinth f).pending = s.pending := rfl
@[simp] theorem State.modPlinth_out (s : State) (f : Plinth → Plinth) : (s.modPlinth f).out = s.out := rfl
@[simp] theorem State.modPlinth_regs (s : State) (f : Plinth → Plinth) : (s.modPlinth f).regs = s.regs := rfl
@[simp] theorem State.modPlinth_active (s : State) (f : Plinth → Plinth) : (s.modPlinth f).active = s.active := rfl
@[simp] theorem State.modPlinth_w0 (s : State) (f : Plinth → Plinth) : (s.modPlinth f).w0 = s.w0 := rfl
@[simp] theorem State.modPlinth_w1 (s : State) (f : Plinth → Plinth) : (s.modPlinth f).w1 = s.w1 := rfl
@[simp] theorem State.modPlinth_wall (s : State) (f : Plinth → Plinth) : (s.modPlinth f).wall = s.wall := rfl
@[simp] theorem State.modPlinth_store (s : State) (f : Plinth → Plinth) : (s.modPlinth f).store = s.store := rfl
@[simp] theorem State.modPlinth_tileFaults (s : State) (f : Plinth → Plinth) : (s.modPlinth f).tileFaults = s.tileFaults := rfl
@[simp] theorem State.modPlinth_stripes (s : State) (f : Plinth → Plinth) : (s.modPlinth f).stripes = s.stripes := rfl
@[simp] theorem State.modPlinth_refs (s : State) (f : Plinth → Plinth) : (s.modPlinth f).refs = s.refs := rfl
@[simp] theorem State.modPlinth_heldMortar (s : State) (f : Plinth → Plinth) : (s.modPlinth f).heldMortar = s.heldMortar := rfl
@[simp] theorem State.modPlinth_syncQueue (s : State) (f : Plinth → Plinth) : (s.modPlinth f).syncQueue = s.syncQueue := rfl
@[simp] theorem State.modPlinth_media (s : State) (f : Plinth → Plinth) : (s.modPlinth f).media = s.media := rfl
@[simp] theorem State.modPlinth_units (s : State) (f : Plinth → Plinth) : (s.modPlinth f).units = s.units := rfl
@[simp] theorem State.modPlinth_jobRuns (s : State) (f : Plinth → Plinth) : (s.modPlinth f).jobRuns = s.jobRuns := rfl
@[simp] theorem State.modPlinth_arriving (s : State) (f : Plinth → Plinth) : (s.modPlinth f).arriving = s.arriving := rfl
@[simp] theorem State.modPlinth_flash (s : State) (f : Plinth → Plinth) : (s.modPlinth f).flash = s.flash := rfl
@[simp] theorem State.modPlinth_recorder (s : State) (f : Plinth → Plinth) : (s.modPlinth f).recorder = s.recorder := rfl
@[simp] theorem State.modPlinth_plinth (s : State) (f : Plinth → Plinth) : (s.modPlinth f).plinth = f s.plinth := rfl
@[simp] theorem State.modPlinth_front (s : State) (f : Plinth → Plinth) : (s.modPlinth f).front = s.front := rfl
@[simp] theorem State.modPlinth_health (s : State) (f : Plinth → Plinth) : (s.modPlinth f).health = s.health := rfl
@[simp] theorem State.modPlinth_inA (s : State) (f : Plinth → Plinth) : (s.modPlinth f).inA = s.inA := rfl
@[simp] theorem State.modPlinth_inB (s : State) (f : Plinth → Plinth) : (s.modPlinth f).inB = s.inB := rfl
@[simp] theorem State.modPlinth_holdup (s : State) (f : Plinth → Plinth) : (s.modPlinth f).holdup = s.holdup := rfl
@[simp] theorem State.modPlinth_fw (s : State) (f : Plinth → Plinth) : (s.modPlinth f).fw = s.fw := rfl
@[simp] theorem State.modPlinth_pwr (s : State) (f : Plinth → Plinth) : (s.modPlinth f).pwr = s.pwr := rfl
@[simp] theorem State.modPlinth_cover (s : State) (f : Plinth → Plinth) : (s.modPlinth f).cover = s.cover := rfl

/-! ### modFlash -/

@[simp] theorem State.modFlash_now (s : State) (f : Flash → Flash) : (s.modFlash f).now = s.now := rfl
@[simp] theorem State.modFlash_fresh (s : State) (f : Flash → Flash) : (s.modFlash f).fresh = s.fresh := rfl
@[simp] theorem State.modFlash_pending (s : State) (f : Flash → Flash) : (s.modFlash f).pending = s.pending := rfl
@[simp] theorem State.modFlash_out (s : State) (f : Flash → Flash) : (s.modFlash f).out = s.out := rfl
@[simp] theorem State.modFlash_regs (s : State) (f : Flash → Flash) : (s.modFlash f).regs = s.regs := rfl
@[simp] theorem State.modFlash_active (s : State) (f : Flash → Flash) : (s.modFlash f).active = s.active := rfl
@[simp] theorem State.modFlash_w0 (s : State) (f : Flash → Flash) : (s.modFlash f).w0 = s.w0 := rfl
@[simp] theorem State.modFlash_w1 (s : State) (f : Flash → Flash) : (s.modFlash f).w1 = s.w1 := rfl
@[simp] theorem State.modFlash_wall (s : State) (f : Flash → Flash) : (s.modFlash f).wall = s.wall := rfl
@[simp] theorem State.modFlash_store (s : State) (f : Flash → Flash) : (s.modFlash f).store = s.store := rfl
@[simp] theorem State.modFlash_tileFaults (s : State) (f : Flash → Flash) : (s.modFlash f).tileFaults = s.tileFaults := rfl
@[simp] theorem State.modFlash_stripes (s : State) (f : Flash → Flash) : (s.modFlash f).stripes = s.stripes := rfl
@[simp] theorem State.modFlash_refs (s : State) (f : Flash → Flash) : (s.modFlash f).refs = s.refs := rfl
@[simp] theorem State.modFlash_heldMortar (s : State) (f : Flash → Flash) : (s.modFlash f).heldMortar = s.heldMortar := rfl
@[simp] theorem State.modFlash_syncQueue (s : State) (f : Flash → Flash) : (s.modFlash f).syncQueue = s.syncQueue := rfl
@[simp] theorem State.modFlash_media (s : State) (f : Flash → Flash) : (s.modFlash f).media = s.media := rfl
@[simp] theorem State.modFlash_units (s : State) (f : Flash → Flash) : (s.modFlash f).units = s.units := rfl
@[simp] theorem State.modFlash_jobRuns (s : State) (f : Flash → Flash) : (s.modFlash f).jobRuns = s.jobRuns := rfl
@[simp] theorem State.modFlash_arriving (s : State) (f : Flash → Flash) : (s.modFlash f).arriving = s.arriving := rfl
@[simp] theorem State.modFlash_flash (s : State) (f : Flash → Flash) : (s.modFlash f).flash = f s.flash := rfl
@[simp] theorem State.modFlash_recorder (s : State) (f : Flash → Flash) : (s.modFlash f).recorder = s.recorder := rfl
@[simp] theorem State.modFlash_plinth (s : State) (f : Flash → Flash) : (s.modFlash f).plinth = s.plinth := rfl
@[simp] theorem State.modFlash_front (s : State) (f : Flash → Flash) : (s.modFlash f).front = s.front := rfl
@[simp] theorem State.modFlash_health (s : State) (f : Flash → Flash) : (s.modFlash f).health = s.health := rfl
@[simp] theorem State.modFlash_inA (s : State) (f : Flash → Flash) : (s.modFlash f).inA = s.inA := rfl
@[simp] theorem State.modFlash_inB (s : State) (f : Flash → Flash) : (s.modFlash f).inB = s.inB := rfl
@[simp] theorem State.modFlash_holdup (s : State) (f : Flash → Flash) : (s.modFlash f).holdup = s.holdup := rfl
@[simp] theorem State.modFlash_fw (s : State) (f : Flash → Flash) : (s.modFlash f).fw = s.fw := rfl
@[simp] theorem State.modFlash_pwr (s : State) (f : Flash → Flash) : (s.modFlash f).pwr = s.pwr := rfl
@[simp] theorem State.modFlash_cover (s : State) (f : Flash → Flash) : (s.modFlash f).cover = s.cover := rfl

/-! ### modRec -/

@[simp] theorem State.modRec_now (s : State) (f : Recorder → Recorder) : (s.modRec f).now = s.now := rfl
@[simp] theorem State.modRec_fresh (s : State) (f : Recorder → Recorder) : (s.modRec f).fresh = s.fresh := rfl
@[simp] theorem State.modRec_pending (s : State) (f : Recorder → Recorder) : (s.modRec f).pending = s.pending := rfl
@[simp] theorem State.modRec_out (s : State) (f : Recorder → Recorder) : (s.modRec f).out = s.out := rfl
@[simp] theorem State.modRec_regs (s : State) (f : Recorder → Recorder) : (s.modRec f).regs = s.regs := rfl
@[simp] theorem State.modRec_active (s : State) (f : Recorder → Recorder) : (s.modRec f).active = s.active := rfl
@[simp] theorem State.modRec_w0 (s : State) (f : Recorder → Recorder) : (s.modRec f).w0 = s.w0 := rfl
@[simp] theorem State.modRec_w1 (s : State) (f : Recorder → Recorder) : (s.modRec f).w1 = s.w1 := rfl
@[simp] theorem State.modRec_wall (s : State) (f : Recorder → Recorder) : (s.modRec f).wall = s.wall := rfl
@[simp] theorem State.modRec_store (s : State) (f : Recorder → Recorder) : (s.modRec f).store = s.store := rfl
@[simp] theorem State.modRec_tileFaults (s : State) (f : Recorder → Recorder) : (s.modRec f).tileFaults = s.tileFaults := rfl
@[simp] theorem State.modRec_stripes (s : State) (f : Recorder → Recorder) : (s.modRec f).stripes = s.stripes := rfl
@[simp] theorem State.modRec_refs (s : State) (f : Recorder → Recorder) : (s.modRec f).refs = s.refs := rfl
@[simp] theorem State.modRec_heldMortar (s : State) (f : Recorder → Recorder) : (s.modRec f).heldMortar = s.heldMortar := rfl
@[simp] theorem State.modRec_syncQueue (s : State) (f : Recorder → Recorder) : (s.modRec f).syncQueue = s.syncQueue := rfl
@[simp] theorem State.modRec_media (s : State) (f : Recorder → Recorder) : (s.modRec f).media = s.media := rfl
@[simp] theorem State.modRec_units (s : State) (f : Recorder → Recorder) : (s.modRec f).units = s.units := rfl
@[simp] theorem State.modRec_jobRuns (s : State) (f : Recorder → Recorder) : (s.modRec f).jobRuns = s.jobRuns := rfl
@[simp] theorem State.modRec_arriving (s : State) (f : Recorder → Recorder) : (s.modRec f).arriving = s.arriving := rfl
@[simp] theorem State.modRec_flash (s : State) (f : Recorder → Recorder) : (s.modRec f).flash = s.flash := rfl
@[simp] theorem State.modRec_recorder (s : State) (f : Recorder → Recorder) : (s.modRec f).recorder = f s.recorder := rfl
@[simp] theorem State.modRec_plinth (s : State) (f : Recorder → Recorder) : (s.modRec f).plinth = s.plinth := rfl
@[simp] theorem State.modRec_front (s : State) (f : Recorder → Recorder) : (s.modRec f).front = s.front := rfl
@[simp] theorem State.modRec_health (s : State) (f : Recorder → Recorder) : (s.modRec f).health = s.health := rfl
@[simp] theorem State.modRec_inA (s : State) (f : Recorder → Recorder) : (s.modRec f).inA = s.inA := rfl
@[simp] theorem State.modRec_inB (s : State) (f : Recorder → Recorder) : (s.modRec f).inB = s.inB := rfl
@[simp] theorem State.modRec_holdup (s : State) (f : Recorder → Recorder) : (s.modRec f).holdup = s.holdup := rfl
@[simp] theorem State.modRec_fw (s : State) (f : Recorder → Recorder) : (s.modRec f).fw = s.fw := rfl
@[simp] theorem State.modRec_pwr (s : State) (f : Recorder → Recorder) : (s.modRec f).pwr = s.pwr := rfl
@[simp] theorem State.modRec_cover (s : State) (f : Recorder → Recorder) : (s.modRec f).cover = s.cover := rfl

/-! ### modHealth -/

@[simp] theorem State.modHealth_now (s : State) (f : Health → Health) : (s.modHealth f).now = s.now := rfl
@[simp] theorem State.modHealth_fresh (s : State) (f : Health → Health) : (s.modHealth f).fresh = s.fresh := rfl
@[simp] theorem State.modHealth_pending (s : State) (f : Health → Health) : (s.modHealth f).pending = s.pending := rfl
@[simp] theorem State.modHealth_out (s : State) (f : Health → Health) : (s.modHealth f).out = s.out := rfl
@[simp] theorem State.modHealth_regs (s : State) (f : Health → Health) : (s.modHealth f).regs = s.regs := rfl
@[simp] theorem State.modHealth_active (s : State) (f : Health → Health) : (s.modHealth f).active = s.active := rfl
@[simp] theorem State.modHealth_w0 (s : State) (f : Health → Health) : (s.modHealth f).w0 = s.w0 := rfl
@[simp] theorem State.modHealth_w1 (s : State) (f : Health → Health) : (s.modHealth f).w1 = s.w1 := rfl
@[simp] theorem State.modHealth_wall (s : State) (f : Health → Health) : (s.modHealth f).wall = s.wall := rfl
@[simp] theorem State.modHealth_store (s : State) (f : Health → Health) : (s.modHealth f).store = s.store := rfl
@[simp] theorem State.modHealth_tileFaults (s : State) (f : Health → Health) : (s.modHealth f).tileFaults = s.tileFaults := rfl
@[simp] theorem State.modHealth_stripes (s : State) (f : Health → Health) : (s.modHealth f).stripes = s.stripes := rfl
@[simp] theorem State.modHealth_refs (s : State) (f : Health → Health) : (s.modHealth f).refs = s.refs := rfl
@[simp] theorem State.modHealth_heldMortar (s : State) (f : Health → Health) : (s.modHealth f).heldMortar = s.heldMortar := rfl
@[simp] theorem State.modHealth_syncQueue (s : State) (f : Health → Health) : (s.modHealth f).syncQueue = s.syncQueue := rfl
@[simp] theorem State.modHealth_media (s : State) (f : Health → Health) : (s.modHealth f).media = s.media := rfl
@[simp] theorem State.modHealth_units (s : State) (f : Health → Health) : (s.modHealth f).units = s.units := rfl
@[simp] theorem State.modHealth_jobRuns (s : State) (f : Health → Health) : (s.modHealth f).jobRuns = s.jobRuns := rfl
@[simp] theorem State.modHealth_arriving (s : State) (f : Health → Health) : (s.modHealth f).arriving = s.arriving := rfl
@[simp] theorem State.modHealth_flash (s : State) (f : Health → Health) : (s.modHealth f).flash = s.flash := rfl
@[simp] theorem State.modHealth_recorder (s : State) (f : Health → Health) : (s.modHealth f).recorder = s.recorder := rfl
@[simp] theorem State.modHealth_plinth (s : State) (f : Health → Health) : (s.modHealth f).plinth = s.plinth := rfl
@[simp] theorem State.modHealth_front (s : State) (f : Health → Health) : (s.modHealth f).front = s.front := rfl
@[simp] theorem State.modHealth_health (s : State) (f : Health → Health) : (s.modHealth f).health = f s.health := rfl
@[simp] theorem State.modHealth_inA (s : State) (f : Health → Health) : (s.modHealth f).inA = s.inA := rfl
@[simp] theorem State.modHealth_inB (s : State) (f : Health → Health) : (s.modHealth f).inB = s.inB := rfl
@[simp] theorem State.modHealth_holdup (s : State) (f : Health → Health) : (s.modHealth f).holdup = s.holdup := rfl
@[simp] theorem State.modHealth_fw (s : State) (f : Health → Health) : (s.modHealth f).fw = s.fw := rfl
@[simp] theorem State.modHealth_pwr (s : State) (f : Health → Health) : (s.modHealth f).pwr = s.pwr := rfl
@[simp] theorem State.modHealth_cover (s : State) (f : Health → Health) : (s.modHealth f).cover = s.cover := rfl

/-! ### modFront -/

@[simp] theorem State.modFront_now (s : State) (f : Front → Front) : (s.modFront f).now = s.now := rfl
@[simp] theorem State.modFront_fresh (s : State) (f : Front → Front) : (s.modFront f).fresh = s.fresh := rfl
@[simp] theorem State.modFront_pending (s : State) (f : Front → Front) : (s.modFront f).pending = s.pending := rfl
@[simp] theorem State.modFront_out (s : State) (f : Front → Front) : (s.modFront f).out = s.out := rfl
@[simp] theorem State.modFront_regs (s : State) (f : Front → Front) : (s.modFront f).regs = s.regs := rfl
@[simp] theorem State.modFront_active (s : State) (f : Front → Front) : (s.modFront f).active = s.active := rfl
@[simp] theorem State.modFront_w0 (s : State) (f : Front → Front) : (s.modFront f).w0 = s.w0 := rfl
@[simp] theorem State.modFront_w1 (s : State) (f : Front → Front) : (s.modFront f).w1 = s.w1 := rfl
@[simp] theorem State.modFront_wall (s : State) (f : Front → Front) : (s.modFront f).wall = s.wall := rfl
@[simp] theorem State.modFront_store (s : State) (f : Front → Front) : (s.modFront f).store = s.store := rfl
@[simp] theorem State.modFront_tileFaults (s : State) (f : Front → Front) : (s.modFront f).tileFaults = s.tileFaults := rfl
@[simp] theorem State.modFront_stripes (s : State) (f : Front → Front) : (s.modFront f).stripes = s.stripes := rfl
@[simp] theorem State.modFront_refs (s : State) (f : Front → Front) : (s.modFront f).refs = s.refs := rfl
@[simp] theorem State.modFront_heldMortar (s : State) (f : Front → Front) : (s.modFront f).heldMortar = s.heldMortar := rfl
@[simp] theorem State.modFront_syncQueue (s : State) (f : Front → Front) : (s.modFront f).syncQueue = s.syncQueue := rfl
@[simp] theorem State.modFront_media (s : State) (f : Front → Front) : (s.modFront f).media = s.media := rfl
@[simp] theorem State.modFront_units (s : State) (f : Front → Front) : (s.modFront f).units = s.units := rfl
@[simp] theorem State.modFront_jobRuns (s : State) (f : Front → Front) : (s.modFront f).jobRuns = s.jobRuns := rfl
@[simp] theorem State.modFront_arriving (s : State) (f : Front → Front) : (s.modFront f).arriving = s.arriving := rfl
@[simp] theorem State.modFront_flash (s : State) (f : Front → Front) : (s.modFront f).flash = s.flash := rfl
@[simp] theorem State.modFront_recorder (s : State) (f : Front → Front) : (s.modFront f).recorder = s.recorder := rfl
@[simp] theorem State.modFront_plinth (s : State) (f : Front → Front) : (s.modFront f).plinth = s.plinth := rfl
@[simp] theorem State.modFront_front (s : State) (f : Front → Front) : (s.modFront f).front = f s.front := rfl
@[simp] theorem State.modFront_health (s : State) (f : Front → Front) : (s.modFront f).health = s.health := rfl
@[simp] theorem State.modFront_inA (s : State) (f : Front → Front) : (s.modFront f).inA = s.inA := rfl
@[simp] theorem State.modFront_inB (s : State) (f : Front → Front) : (s.modFront f).inB = s.inB := rfl
@[simp] theorem State.modFront_holdup (s : State) (f : Front → Front) : (s.modFront f).holdup = s.holdup := rfl
@[simp] theorem State.modFront_fw (s : State) (f : Front → Front) : (s.modFront f).fw = s.fw := rfl
@[simp] theorem State.modFront_pwr (s : State) (f : Front → Front) : (s.modFront f).pwr = s.pwr := rfl
@[simp] theorem State.modFront_cover (s : State) (f : Front → Front) : (s.modFront f).cover = s.cover := rfl

/-! ### modFw -/

@[simp] theorem State.modFw_now (s : State) (f : Fw → Fw) : (s.modFw f).now = s.now := rfl
@[simp] theorem State.modFw_fresh (s : State) (f : Fw → Fw) : (s.modFw f).fresh = s.fresh := rfl
@[simp] theorem State.modFw_pending (s : State) (f : Fw → Fw) : (s.modFw f).pending = s.pending := rfl
@[simp] theorem State.modFw_out (s : State) (f : Fw → Fw) : (s.modFw f).out = s.out := rfl
@[simp] theorem State.modFw_regs (s : State) (f : Fw → Fw) : (s.modFw f).regs = s.regs := rfl
@[simp] theorem State.modFw_active (s : State) (f : Fw → Fw) : (s.modFw f).active = s.active := rfl
@[simp] theorem State.modFw_w0 (s : State) (f : Fw → Fw) : (s.modFw f).w0 = s.w0 := rfl
@[simp] theorem State.modFw_w1 (s : State) (f : Fw → Fw) : (s.modFw f).w1 = s.w1 := rfl
@[simp] theorem State.modFw_wall (s : State) (f : Fw → Fw) : (s.modFw f).wall = s.wall := rfl
@[simp] theorem State.modFw_store (s : State) (f : Fw → Fw) : (s.modFw f).store = s.store := rfl
@[simp] theorem State.modFw_tileFaults (s : State) (f : Fw → Fw) : (s.modFw f).tileFaults = s.tileFaults := rfl
@[simp] theorem State.modFw_stripes (s : State) (f : Fw → Fw) : (s.modFw f).stripes = s.stripes := rfl
@[simp] theorem State.modFw_refs (s : State) (f : Fw → Fw) : (s.modFw f).refs = s.refs := rfl
@[simp] theorem State.modFw_heldMortar (s : State) (f : Fw → Fw) : (s.modFw f).heldMortar = s.heldMortar := rfl
@[simp] theorem State.modFw_syncQueue (s : State) (f : Fw → Fw) : (s.modFw f).syncQueue = s.syncQueue := rfl
@[simp] theorem State.modFw_media (s : State) (f : Fw → Fw) : (s.modFw f).media = s.media := rfl
@[simp] theorem State.modFw_units (s : State) (f : Fw → Fw) : (s.modFw f).units = s.units := rfl
@[simp] theorem State.modFw_jobRuns (s : State) (f : Fw → Fw) : (s.modFw f).jobRuns = s.jobRuns := rfl
@[simp] theorem State.modFw_arriving (s : State) (f : Fw → Fw) : (s.modFw f).arriving = s.arriving := rfl
@[simp] theorem State.modFw_flash (s : State) (f : Fw → Fw) : (s.modFw f).flash = s.flash := rfl
@[simp] theorem State.modFw_recorder (s : State) (f : Fw → Fw) : (s.modFw f).recorder = s.recorder := rfl
@[simp] theorem State.modFw_plinth (s : State) (f : Fw → Fw) : (s.modFw f).plinth = s.plinth := rfl
@[simp] theorem State.modFw_front (s : State) (f : Fw → Fw) : (s.modFw f).front = s.front := rfl
@[simp] theorem State.modFw_health (s : State) (f : Fw → Fw) : (s.modFw f).health = s.health := rfl
@[simp] theorem State.modFw_inA (s : State) (f : Fw → Fw) : (s.modFw f).inA = s.inA := rfl
@[simp] theorem State.modFw_inB (s : State) (f : Fw → Fw) : (s.modFw f).inB = s.inB := rfl
@[simp] theorem State.modFw_holdup (s : State) (f : Fw → Fw) : (s.modFw f).holdup = s.holdup := rfl
@[simp] theorem State.modFw_fw (s : State) (f : Fw → Fw) : (s.modFw f).fw = f s.fw := rfl
@[simp] theorem State.modFw_pwr (s : State) (f : Fw → Fw) : (s.modFw f).pwr = s.pwr := rfl
@[simp] theorem State.modFw_cover (s : State) (f : Fw → Fw) : (s.modFw f).cover = s.cover := rfl

/-! ### modStripes -/

@[simp] theorem State.modStripes_now (s : State) (f : Stripes → Stripes) : (s.modStripes f).now = s.now := rfl
@[simp] theorem State.modStripes_fresh (s : State) (f : Stripes → Stripes) : (s.modStripes f).fresh = s.fresh := rfl
@[simp] theorem State.modStripes_pending (s : State) (f : Stripes → Stripes) : (s.modStripes f).pending = s.pending := rfl
@[simp] theorem State.modStripes_out (s : State) (f : Stripes → Stripes) : (s.modStripes f).out = s.out := rfl
@[simp] theorem State.modStripes_regs (s : State) (f : Stripes → Stripes) : (s.modStripes f).regs = s.regs := rfl
@[simp] theorem State.modStripes_active (s : State) (f : Stripes → Stripes) : (s.modStripes f).active = s.active := rfl
@[simp] theorem State.modStripes_w0 (s : State) (f : Stripes → Stripes) : (s.modStripes f).w0 = s.w0 := rfl
@[simp] theorem State.modStripes_w1 (s : State) (f : Stripes → Stripes) : (s.modStripes f).w1 = s.w1 := rfl
@[simp] theorem State.modStripes_wall (s : State) (f : Stripes → Stripes) : (s.modStripes f).wall = s.wall := rfl
@[simp] theorem State.modStripes_store (s : State) (f : Stripes → Stripes) : (s.modStripes f).store = s.store := rfl
@[simp] theorem State.modStripes_tileFaults (s : State) (f : Stripes → Stripes) : (s.modStripes f).tileFaults = s.tileFaults := rfl
@[simp] theorem State.modStripes_stripes (s : State) (f : Stripes → Stripes) : (s.modStripes f).stripes = f s.stripes := rfl
@[simp] theorem State.modStripes_refs (s : State) (f : Stripes → Stripes) : (s.modStripes f).refs = s.refs := rfl
@[simp] theorem State.modStripes_heldMortar (s : State) (f : Stripes → Stripes) : (s.modStripes f).heldMortar = s.heldMortar := rfl
@[simp] theorem State.modStripes_syncQueue (s : State) (f : Stripes → Stripes) : (s.modStripes f).syncQueue = s.syncQueue := rfl
@[simp] theorem State.modStripes_media (s : State) (f : Stripes → Stripes) : (s.modStripes f).media = s.media := rfl
@[simp] theorem State.modStripes_units (s : State) (f : Stripes → Stripes) : (s.modStripes f).units = s.units := rfl
@[simp] theorem State.modStripes_jobRuns (s : State) (f : Stripes → Stripes) : (s.modStripes f).jobRuns = s.jobRuns := rfl
@[simp] theorem State.modStripes_arriving (s : State) (f : Stripes → Stripes) : (s.modStripes f).arriving = s.arriving := rfl
@[simp] theorem State.modStripes_flash (s : State) (f : Stripes → Stripes) : (s.modStripes f).flash = s.flash := rfl
@[simp] theorem State.modStripes_recorder (s : State) (f : Stripes → Stripes) : (s.modStripes f).recorder = s.recorder := rfl
@[simp] theorem State.modStripes_plinth (s : State) (f : Stripes → Stripes) : (s.modStripes f).plinth = s.plinth := rfl
@[simp] theorem State.modStripes_front (s : State) (f : Stripes → Stripes) : (s.modStripes f).front = s.front := rfl
@[simp] theorem State.modStripes_health (s : State) (f : Stripes → Stripes) : (s.modStripes f).health = s.health := rfl
@[simp] theorem State.modStripes_inA (s : State) (f : Stripes → Stripes) : (s.modStripes f).inA = s.inA := rfl
@[simp] theorem State.modStripes_inB (s : State) (f : Stripes → Stripes) : (s.modStripes f).inB = s.inB := rfl
@[simp] theorem State.modStripes_holdup (s : State) (f : Stripes → Stripes) : (s.modStripes f).holdup = s.holdup := rfl
@[simp] theorem State.modStripes_fw (s : State) (f : Stripes → Stripes) : (s.modStripes f).fw = s.fw := rfl
@[simp] theorem State.modStripes_pwr (s : State) (f : Stripes → Stripes) : (s.modStripes f).pwr = s.pwr := rfl
@[simp] theorem State.modStripes_cover (s : State) (f : Stripes → Stripes) : (s.modStripes f).cover = s.cover := rfl

/-! ### Updates of a wythe -/

@[simp] theorem State.modWy_wy (s : State) (w : Wy) (f : Wythe → Wythe) : (s.modWy w f).wy w = f (s.wy w) := by cases w <;> rfl
@[simp] theorem State.modWy_peer (s : State) (w : Wy) (f : Wythe → Wythe) : (s.modWy w f).wy w.peer = s.wy w.peer := by cases w <;> rfl
@[simp] theorem State.modWy_now (s : State) (w : Wy) (f : Wythe → Wythe) : (s.modWy w f).now = s.now := by cases w <;> rfl
@[simp] theorem State.modWy_fresh (s : State) (w : Wy) (f : Wythe → Wythe) : (s.modWy w f).fresh = s.fresh := by cases w <;> rfl
@[simp] theorem State.modWy_pending (s : State) (w : Wy) (f : Wythe → Wythe) : (s.modWy w f).pending = s.pending := by cases w <;> rfl
@[simp] theorem State.modWy_out (s : State) (w : Wy) (f : Wythe → Wythe) : (s.modWy w f).out = s.out := by cases w <;> rfl
@[simp] theorem State.modWy_regs (s : State) (w : Wy) (f : Wythe → Wythe) : (s.modWy w f).regs = s.regs := by cases w <;> rfl
@[simp] theorem State.modWy_active (s : State) (w : Wy) (f : Wythe → Wythe) : (s.modWy w f).active = s.active := by cases w <;> rfl
@[simp] theorem State.modWy_wall (s : State) (w : Wy) (f : Wythe → Wythe) : (s.modWy w f).wall = s.wall := by cases w <;> rfl
@[simp] theorem State.modWy_store (s : State) (w : Wy) (f : Wythe → Wythe) : (s.modWy w f).store = s.store := by cases w <;> rfl
@[simp] theorem State.modWy_tileFaults (s : State) (w : Wy) (f : Wythe → Wythe) : (s.modWy w f).tileFaults = s.tileFaults := by cases w <;> rfl
@[simp] theorem State.modWy_stripes (s : State) (w : Wy) (f : Wythe → Wythe) : (s.modWy w f).stripes = s.stripes := by cases w <;> rfl
@[simp] theorem State.modWy_refs (s : State) (w : Wy) (f : Wythe → Wythe) : (s.modWy w f).refs = s.refs := by cases w <;> rfl
@[simp] theorem State.modWy_heldMortar (s : State) (w : Wy) (f : Wythe → Wythe) : (s.modWy w f).heldMortar = s.heldMortar := by cases w <;> rfl
@[simp] theorem State.modWy_syncQueue (s : State) (w : Wy) (f : Wythe → Wythe) : (s.modWy w f).syncQueue = s.syncQueue := by cases w <;> rfl
@[simp] theorem State.modWy_media (s : State) (w : Wy) (f : Wythe → Wythe) : (s.modWy w f).media = s.media := by cases w <;> rfl
@[simp] theorem State.modWy_units (s : State) (w : Wy) (f : Wythe → Wythe) : (s.modWy w f).units = s.units := by cases w <;> rfl
@[simp] theorem State.modWy_jobRuns (s : State) (w : Wy) (f : Wythe → Wythe) : (s.modWy w f).jobRuns = s.jobRuns := by cases w <;> rfl
@[simp] theorem State.modWy_arriving (s : State) (w : Wy) (f : Wythe → Wythe) : (s.modWy w f).arriving = s.arriving := by cases w <;> rfl
@[simp] theorem State.modWy_flash (s : State) (w : Wy) (f : Wythe → Wythe) : (s.modWy w f).flash = s.flash := by cases w <;> rfl
@[simp] theorem State.modWy_recorder (s : State) (w : Wy) (f : Wythe → Wythe) : (s.modWy w f).recorder = s.recorder := by cases w <;> rfl
@[simp] theorem State.modWy_plinth (s : State) (w : Wy) (f : Wythe → Wythe) : (s.modWy w f).plinth = s.plinth := by cases w <;> rfl
@[simp] theorem State.modWy_front (s : State) (w : Wy) (f : Wythe → Wythe) : (s.modWy w f).front = s.front := by cases w <;> rfl
@[simp] theorem State.modWy_health (s : State) (w : Wy) (f : Wythe → Wythe) : (s.modWy w f).health = s.health := by cases w <;> rfl
@[simp] theorem State.modWy_inA (s : State) (w : Wy) (f : Wythe → Wythe) : (s.modWy w f).inA = s.inA := by cases w <;> rfl
@[simp] theorem State.modWy_inB (s : State) (w : Wy) (f : Wythe → Wythe) : (s.modWy w f).inB = s.inB := by cases w <;> rfl
@[simp] theorem State.modWy_holdup (s : State) (w : Wy) (f : Wythe → Wythe) : (s.modWy w f).holdup = s.holdup := by cases w <;> rfl
@[simp] theorem State.modWy_fw (s : State) (w : Wy) (f : Wythe → Wythe) : (s.modWy w f).fw = s.fw := by cases w <;> rfl
@[simp] theorem State.modWy_pwr (s : State) (w : Wy) (f : Wythe → Wythe) : (s.modWy w f).pwr = s.pwr := by cases w <;> rfl
@[simp] theorem State.modWy_cover (s : State) (w : Wy) (f : Wythe → Wythe) : (s.modWy w f).cover = s.cover := by cases w <;> rfl

/-! ### modRelief -/

@[simp] theorem State.modRelief_wy (s : State) (w : Wy) (f : Relief → Relief) :
    (s.modRelief w f).wy w = { s.wy w with relief := f (s.wy w).relief } := by cases w <;> rfl
@[simp] theorem State.modRelief_peer (s : State) (w : Wy) (f : Relief → Relief) : (s.modRelief w f).wy w.peer = s.wy w.peer := by cases w <;> rfl
@[simp] theorem State.modRelief_now (s : State) (w : Wy) (f : Relief → Relief) : (s.modRelief w f).now = s.now := by cases w <;> rfl
@[simp] theorem State.modRelief_fresh (s : State) (w : Wy) (f : Relief → Relief) : (s.modRelief w f).fresh = s.fresh := by cases w <;> rfl
@[simp] theorem State.modRelief_pending (s : State) (w : Wy) (f : Relief → Relief) : (s.modRelief w f).pending = s.pending := by cases w <;> rfl
@[simp] theorem State.modRelief_out (s : State) (w : Wy) (f : Relief → Relief) : (s.modRelief w f).out = s.out := by cases w <;> rfl
@[simp] theorem State.modRelief_regs (s : State) (w : Wy) (f : Relief → Relief) : (s.modRelief w f).regs = s.regs := by cases w <;> rfl
@[simp] theorem State.modRelief_active (s : State) (w : Wy) (f : Relief → Relief) : (s.modRelief w f).active = s.active := by cases w <;> rfl
@[simp] theorem State.modRelief_wall (s : State) (w : Wy) (f : Relief → Relief) : (s.modRelief w f).wall = s.wall := by cases w <;> rfl
@[simp] theorem State.modRelief_store (s : State) (w : Wy) (f : Relief → Relief) : (s.modRelief w f).store = s.store := by cases w <;> rfl
@[simp] theorem State.modRelief_tileFaults (s : State) (w : Wy) (f : Relief → Relief) : (s.modRelief w f).tileFaults = s.tileFaults := by cases w <;> rfl
@[simp] theorem State.modRelief_stripes (s : State) (w : Wy) (f : Relief → Relief) : (s.modRelief w f).stripes = s.stripes := by cases w <;> rfl
@[simp] theorem State.modRelief_refs (s : State) (w : Wy) (f : Relief → Relief) : (s.modRelief w f).refs = s.refs := by cases w <;> rfl
@[simp] theorem State.modRelief_heldMortar (s : State) (w : Wy) (f : Relief → Relief) : (s.modRelief w f).heldMortar = s.heldMortar := by cases w <;> rfl
@[simp] theorem State.modRelief_syncQueue (s : State) (w : Wy) (f : Relief → Relief) : (s.modRelief w f).syncQueue = s.syncQueue := by cases w <;> rfl
@[simp] theorem State.modRelief_media (s : State) (w : Wy) (f : Relief → Relief) : (s.modRelief w f).media = s.media := by cases w <;> rfl
@[simp] theorem State.modRelief_units (s : State) (w : Wy) (f : Relief → Relief) : (s.modRelief w f).units = s.units := by cases w <;> rfl
@[simp] theorem State.modRelief_jobRuns (s : State) (w : Wy) (f : Relief → Relief) : (s.modRelief w f).jobRuns = s.jobRuns := by cases w <;> rfl
@[simp] theorem State.modRelief_arriving (s : State) (w : Wy) (f : Relief → Relief) : (s.modRelief w f).arriving = s.arriving := by cases w <;> rfl
@[simp] theorem State.modRelief_flash (s : State) (w : Wy) (f : Relief → Relief) : (s.modRelief w f).flash = s.flash := by cases w <;> rfl
@[simp] theorem State.modRelief_recorder (s : State) (w : Wy) (f : Relief → Relief) : (s.modRelief w f).recorder = s.recorder := by cases w <;> rfl
@[simp] theorem State.modRelief_plinth (s : State) (w : Wy) (f : Relief → Relief) : (s.modRelief w f).plinth = s.plinth := by cases w <;> rfl
@[simp] theorem State.modRelief_front (s : State) (w : Wy) (f : Relief → Relief) : (s.modRelief w f).front = s.front := by cases w <;> rfl
@[simp] theorem State.modRelief_health (s : State) (w : Wy) (f : Relief → Relief) : (s.modRelief w f).health = s.health := by cases w <;> rfl
@[simp] theorem State.modRelief_inA (s : State) (w : Wy) (f : Relief → Relief) : (s.modRelief w f).inA = s.inA := by cases w <;> rfl
@[simp] theorem State.modRelief_inB (s : State) (w : Wy) (f : Relief → Relief) : (s.modRelief w f).inB = s.inB := by cases w <;> rfl
@[simp] theorem State.modRelief_holdup (s : State) (w : Wy) (f : Relief → Relief) : (s.modRelief w f).holdup = s.holdup := by cases w <;> rfl
@[simp] theorem State.modRelief_fw (s : State) (w : Wy) (f : Relief → Relief) : (s.modRelief w f).fw = s.fw := by cases w <;> rfl
@[simp] theorem State.modRelief_pwr (s : State) (w : Wy) (f : Relief → Relief) : (s.modRelief w f).pwr = s.pwr := by cases w <;> rfl
@[simp] theorem State.modRelief_cover (s : State) (w : Wy) (f : Relief → Relief) : (s.modRelief w f).cover = s.cover := by cases w <;> rfl

/-! ### modClk -/

@[simp] theorem State.modClk_wy (s : State) (w : Wy) (f : Clocks → Clocks) :
    (s.modClk w f).wy w = { s.wy w with clk := f (s.wy w).clk } := by cases w <;> rfl
@[simp] theorem State.modClk_peer (s : State) (w : Wy) (f : Clocks → Clocks) : (s.modClk w f).wy w.peer = s.wy w.peer := by cases w <;> rfl
@[simp] theorem State.modClk_now (s : State) (w : Wy) (f : Clocks → Clocks) : (s.modClk w f).now = s.now := by cases w <;> rfl
@[simp] theorem State.modClk_fresh (s : State) (w : Wy) (f : Clocks → Clocks) : (s.modClk w f).fresh = s.fresh := by cases w <;> rfl
@[simp] theorem State.modClk_pending (s : State) (w : Wy) (f : Clocks → Clocks) : (s.modClk w f).pending = s.pending := by cases w <;> rfl
@[simp] theorem State.modClk_out (s : State) (w : Wy) (f : Clocks → Clocks) : (s.modClk w f).out = s.out := by cases w <;> rfl
@[simp] theorem State.modClk_regs (s : State) (w : Wy) (f : Clocks → Clocks) : (s.modClk w f).regs = s.regs := by cases w <;> rfl
@[simp] theorem State.modClk_active (s : State) (w : Wy) (f : Clocks → Clocks) : (s.modClk w f).active = s.active := by cases w <;> rfl
@[simp] theorem State.modClk_wall (s : State) (w : Wy) (f : Clocks → Clocks) : (s.modClk w f).wall = s.wall := by cases w <;> rfl
@[simp] theorem State.modClk_store (s : State) (w : Wy) (f : Clocks → Clocks) : (s.modClk w f).store = s.store := by cases w <;> rfl
@[simp] theorem State.modClk_tileFaults (s : State) (w : Wy) (f : Clocks → Clocks) : (s.modClk w f).tileFaults = s.tileFaults := by cases w <;> rfl
@[simp] theorem State.modClk_stripes (s : State) (w : Wy) (f : Clocks → Clocks) : (s.modClk w f).stripes = s.stripes := by cases w <;> rfl
@[simp] theorem State.modClk_refs (s : State) (w : Wy) (f : Clocks → Clocks) : (s.modClk w f).refs = s.refs := by cases w <;> rfl
@[simp] theorem State.modClk_heldMortar (s : State) (w : Wy) (f : Clocks → Clocks) : (s.modClk w f).heldMortar = s.heldMortar := by cases w <;> rfl
@[simp] theorem State.modClk_syncQueue (s : State) (w : Wy) (f : Clocks → Clocks) : (s.modClk w f).syncQueue = s.syncQueue := by cases w <;> rfl
@[simp] theorem State.modClk_media (s : State) (w : Wy) (f : Clocks → Clocks) : (s.modClk w f).media = s.media := by cases w <;> rfl
@[simp] theorem State.modClk_units (s : State) (w : Wy) (f : Clocks → Clocks) : (s.modClk w f).units = s.units := by cases w <;> rfl
@[simp] theorem State.modClk_jobRuns (s : State) (w : Wy) (f : Clocks → Clocks) : (s.modClk w f).jobRuns = s.jobRuns := by cases w <;> rfl
@[simp] theorem State.modClk_arriving (s : State) (w : Wy) (f : Clocks → Clocks) : (s.modClk w f).arriving = s.arriving := by cases w <;> rfl
@[simp] theorem State.modClk_flash (s : State) (w : Wy) (f : Clocks → Clocks) : (s.modClk w f).flash = s.flash := by cases w <;> rfl
@[simp] theorem State.modClk_recorder (s : State) (w : Wy) (f : Clocks → Clocks) : (s.modClk w f).recorder = s.recorder := by cases w <;> rfl
@[simp] theorem State.modClk_plinth (s : State) (w : Wy) (f : Clocks → Clocks) : (s.modClk w f).plinth = s.plinth := by cases w <;> rfl
@[simp] theorem State.modClk_front (s : State) (w : Wy) (f : Clocks → Clocks) : (s.modClk w f).front = s.front := by cases w <;> rfl
@[simp] theorem State.modClk_health (s : State) (w : Wy) (f : Clocks → Clocks) : (s.modClk w f).health = s.health := by cases w <;> rfl
@[simp] theorem State.modClk_inA (s : State) (w : Wy) (f : Clocks → Clocks) : (s.modClk w f).inA = s.inA := by cases w <;> rfl
@[simp] theorem State.modClk_inB (s : State) (w : Wy) (f : Clocks → Clocks) : (s.modClk w f).inB = s.inB := by cases w <;> rfl
@[simp] theorem State.modClk_holdup (s : State) (w : Wy) (f : Clocks → Clocks) : (s.modClk w f).holdup = s.holdup := by cases w <;> rfl
@[simp] theorem State.modClk_fw (s : State) (w : Wy) (f : Clocks → Clocks) : (s.modClk w f).fw = s.fw := by cases w <;> rfl
@[simp] theorem State.modClk_pwr (s : State) (w : Wy) (f : Clocks → Clocks) : (s.modClk w f).pwr = s.pwr := by cases w <;> rfl
@[simp] theorem State.modClk_cover (s : State) (w : Wy) (f : Clocks → Clocks) : (s.modClk w f).cover = s.cover := by cases w <;> rfl

/-! ### modCip -/

@[simp] theorem State.modCip_wy (s : State) (w : Wy) (f : Cip → Cip) :
    (s.modCip w f).wy w = { s.wy w with cip := f (s.wy w).cip } := by cases w <;> rfl
@[simp] theorem State.modCip_peer (s : State) (w : Wy) (f : Cip → Cip) : (s.modCip w f).wy w.peer = s.wy w.peer := by cases w <;> rfl
@[simp] theorem State.modCip_now (s : State) (w : Wy) (f : Cip → Cip) : (s.modCip w f).now = s.now := by cases w <;> rfl
@[simp] theorem State.modCip_fresh (s : State) (w : Wy) (f : Cip → Cip) : (s.modCip w f).fresh = s.fresh := by cases w <;> rfl
@[simp] theorem State.modCip_pending (s : State) (w : Wy) (f : Cip → Cip) : (s.modCip w f).pending = s.pending := by cases w <;> rfl
@[simp] theorem State.modCip_out (s : State) (w : Wy) (f : Cip → Cip) : (s.modCip w f).out = s.out := by cases w <;> rfl
@[simp] theorem State.modCip_regs (s : State) (w : Wy) (f : Cip → Cip) : (s.modCip w f).regs = s.regs := by cases w <;> rfl
@[simp] theorem State.modCip_active (s : State) (w : Wy) (f : Cip → Cip) : (s.modCip w f).active = s.active := by cases w <;> rfl
@[simp] theorem State.modCip_wall (s : State) (w : Wy) (f : Cip → Cip) : (s.modCip w f).wall = s.wall := by cases w <;> rfl
@[simp] theorem State.modCip_store (s : State) (w : Wy) (f : Cip → Cip) : (s.modCip w f).store = s.store := by cases w <;> rfl
@[simp] theorem State.modCip_tileFaults (s : State) (w : Wy) (f : Cip → Cip) : (s.modCip w f).tileFaults = s.tileFaults := by cases w <;> rfl
@[simp] theorem State.modCip_stripes (s : State) (w : Wy) (f : Cip → Cip) : (s.modCip w f).stripes = s.stripes := by cases w <;> rfl
@[simp] theorem State.modCip_refs (s : State) (w : Wy) (f : Cip → Cip) : (s.modCip w f).refs = s.refs := by cases w <;> rfl
@[simp] theorem State.modCip_heldMortar (s : State) (w : Wy) (f : Cip → Cip) : (s.modCip w f).heldMortar = s.heldMortar := by cases w <;> rfl
@[simp] theorem State.modCip_syncQueue (s : State) (w : Wy) (f : Cip → Cip) : (s.modCip w f).syncQueue = s.syncQueue := by cases w <;> rfl
@[simp] theorem State.modCip_media (s : State) (w : Wy) (f : Cip → Cip) : (s.modCip w f).media = s.media := by cases w <;> rfl
@[simp] theorem State.modCip_units (s : State) (w : Wy) (f : Cip → Cip) : (s.modCip w f).units = s.units := by cases w <;> rfl
@[simp] theorem State.modCip_jobRuns (s : State) (w : Wy) (f : Cip → Cip) : (s.modCip w f).jobRuns = s.jobRuns := by cases w <;> rfl
@[simp] theorem State.modCip_arriving (s : State) (w : Wy) (f : Cip → Cip) : (s.modCip w f).arriving = s.arriving := by cases w <;> rfl
@[simp] theorem State.modCip_flash (s : State) (w : Wy) (f : Cip → Cip) : (s.modCip w f).flash = s.flash := by cases w <;> rfl
@[simp] theorem State.modCip_recorder (s : State) (w : Wy) (f : Cip → Cip) : (s.modCip w f).recorder = s.recorder := by cases w <;> rfl
@[simp] theorem State.modCip_plinth (s : State) (w : Wy) (f : Cip → Cip) : (s.modCip w f).plinth = s.plinth := by cases w <;> rfl
@[simp] theorem State.modCip_front (s : State) (w : Wy) (f : Cip → Cip) : (s.modCip w f).front = s.front := by cases w <;> rfl
@[simp] theorem State.modCip_health (s : State) (w : Wy) (f : Cip → Cip) : (s.modCip w f).health = s.health := by cases w <;> rfl
@[simp] theorem State.modCip_inA (s : State) (w : Wy) (f : Cip → Cip) : (s.modCip w f).inA = s.inA := by cases w <;> rfl
@[simp] theorem State.modCip_inB (s : State) (w : Wy) (f : Cip → Cip) : (s.modCip w f).inB = s.inB := by cases w <;> rfl
@[simp] theorem State.modCip_holdup (s : State) (w : Wy) (f : Cip → Cip) : (s.modCip w f).holdup = s.holdup := by cases w <;> rfl
@[simp] theorem State.modCip_fw (s : State) (w : Wy) (f : Cip → Cip) : (s.modCip w f).fw = s.fw := by cases w <;> rfl
@[simp] theorem State.modCip_pwr (s : State) (w : Wy) (f : Cip → Cip) : (s.modCip w f).pwr = s.pwr := by cases w <;> rfl
@[simp] theorem State.modCip_cover (s : State) (w : Wy) (f : Cip → Cip) : (s.modCip w f).cover = s.cover := by cases w <;> rfl

/-! ### modCodec -/

@[simp] theorem State.modCodec_wy (s : State) (w : Wy) (f : List CodecJob → List CodecJob) :
    (s.modCodec w f).wy w = { s.wy w with codec := f (s.wy w).codec } := by cases w <;> rfl
@[simp] theorem State.modCodec_peer (s : State) (w : Wy) (f : List CodecJob → List CodecJob) : (s.modCodec w f).wy w.peer = s.wy w.peer := by cases w <;> rfl
@[simp] theorem State.modCodec_now (s : State) (w : Wy) (f : List CodecJob → List CodecJob) : (s.modCodec w f).now = s.now := by cases w <;> rfl
@[simp] theorem State.modCodec_fresh (s : State) (w : Wy) (f : List CodecJob → List CodecJob) : (s.modCodec w f).fresh = s.fresh := by cases w <;> rfl
@[simp] theorem State.modCodec_pending (s : State) (w : Wy) (f : List CodecJob → List CodecJob) : (s.modCodec w f).pending = s.pending := by cases w <;> rfl
@[simp] theorem State.modCodec_out (s : State) (w : Wy) (f : List CodecJob → List CodecJob) : (s.modCodec w f).out = s.out := by cases w <;> rfl
@[simp] theorem State.modCodec_regs (s : State) (w : Wy) (f : List CodecJob → List CodecJob) : (s.modCodec w f).regs = s.regs := by cases w <;> rfl
@[simp] theorem State.modCodec_active (s : State) (w : Wy) (f : List CodecJob → List CodecJob) : (s.modCodec w f).active = s.active := by cases w <;> rfl
@[simp] theorem State.modCodec_wall (s : State) (w : Wy) (f : List CodecJob → List CodecJob) : (s.modCodec w f).wall = s.wall := by cases w <;> rfl
@[simp] theorem State.modCodec_store (s : State) (w : Wy) (f : List CodecJob → List CodecJob) : (s.modCodec w f).store = s.store := by cases w <;> rfl
@[simp] theorem State.modCodec_tileFaults (s : State) (w : Wy) (f : List CodecJob → List CodecJob) : (s.modCodec w f).tileFaults = s.tileFaults := by cases w <;> rfl
@[simp] theorem State.modCodec_stripes (s : State) (w : Wy) (f : List CodecJob → List CodecJob) : (s.modCodec w f).stripes = s.stripes := by cases w <;> rfl
@[simp] theorem State.modCodec_refs (s : State) (w : Wy) (f : List CodecJob → List CodecJob) : (s.modCodec w f).refs = s.refs := by cases w <;> rfl
@[simp] theorem State.modCodec_heldMortar (s : State) (w : Wy) (f : List CodecJob → List CodecJob) : (s.modCodec w f).heldMortar = s.heldMortar := by cases w <;> rfl
@[simp] theorem State.modCodec_syncQueue (s : State) (w : Wy) (f : List CodecJob → List CodecJob) : (s.modCodec w f).syncQueue = s.syncQueue := by cases w <;> rfl
@[simp] theorem State.modCodec_media (s : State) (w : Wy) (f : List CodecJob → List CodecJob) : (s.modCodec w f).media = s.media := by cases w <;> rfl
@[simp] theorem State.modCodec_units (s : State) (w : Wy) (f : List CodecJob → List CodecJob) : (s.modCodec w f).units = s.units := by cases w <;> rfl
@[simp] theorem State.modCodec_jobRuns (s : State) (w : Wy) (f : List CodecJob → List CodecJob) : (s.modCodec w f).jobRuns = s.jobRuns := by cases w <;> rfl
@[simp] theorem State.modCodec_arriving (s : State) (w : Wy) (f : List CodecJob → List CodecJob) : (s.modCodec w f).arriving = s.arriving := by cases w <;> rfl
@[simp] theorem State.modCodec_flash (s : State) (w : Wy) (f : List CodecJob → List CodecJob) : (s.modCodec w f).flash = s.flash := by cases w <;> rfl
@[simp] theorem State.modCodec_recorder (s : State) (w : Wy) (f : List CodecJob → List CodecJob) : (s.modCodec w f).recorder = s.recorder := by cases w <;> rfl
@[simp] theorem State.modCodec_plinth (s : State) (w : Wy) (f : List CodecJob → List CodecJob) : (s.modCodec w f).plinth = s.plinth := by cases w <;> rfl
@[simp] theorem State.modCodec_front (s : State) (w : Wy) (f : List CodecJob → List CodecJob) : (s.modCodec w f).front = s.front := by cases w <;> rfl
@[simp] theorem State.modCodec_health (s : State) (w : Wy) (f : List CodecJob → List CodecJob) : (s.modCodec w f).health = s.health := by cases w <;> rfl
@[simp] theorem State.modCodec_inA (s : State) (w : Wy) (f : List CodecJob → List CodecJob) : (s.modCodec w f).inA = s.inA := by cases w <;> rfl
@[simp] theorem State.modCodec_inB (s : State) (w : Wy) (f : List CodecJob → List CodecJob) : (s.modCodec w f).inB = s.inB := by cases w <;> rfl
@[simp] theorem State.modCodec_holdup (s : State) (w : Wy) (f : List CodecJob → List CodecJob) : (s.modCodec w f).holdup = s.holdup := by cases w <;> rfl
@[simp] theorem State.modCodec_fw (s : State) (w : Wy) (f : List CodecJob → List CodecJob) : (s.modCodec w f).fw = s.fw := by cases w <;> rfl
@[simp] theorem State.modCodec_pwr (s : State) (w : Wy) (f : List CodecJob → List CodecJob) : (s.modCodec w f).pwr = s.pwr := by cases w <;> rfl
@[simp] theorem State.modCodec_cover (s : State) (w : Wy) (f : List CodecJob → List CodecJob) : (s.modCodec w f).cover = s.cover := by cases w <;> rfl

/-! ### modMortar -/

@[simp] theorem State.modMortar_wy (s : State) (w : Wy) (f : MortarW → MortarW) :
    (s.modMortar w f).wy w = { s.wy w with mortar := f (s.wy w).mortar } := by cases w <;> rfl
@[simp] theorem State.modMortar_peer (s : State) (w : Wy) (f : MortarW → MortarW) : (s.modMortar w f).wy w.peer = s.wy w.peer := by cases w <;> rfl
@[simp] theorem State.modMortar_now (s : State) (w : Wy) (f : MortarW → MortarW) : (s.modMortar w f).now = s.now := by cases w <;> rfl
@[simp] theorem State.modMortar_fresh (s : State) (w : Wy) (f : MortarW → MortarW) : (s.modMortar w f).fresh = s.fresh := by cases w <;> rfl
@[simp] theorem State.modMortar_pending (s : State) (w : Wy) (f : MortarW → MortarW) : (s.modMortar w f).pending = s.pending := by cases w <;> rfl
@[simp] theorem State.modMortar_out (s : State) (w : Wy) (f : MortarW → MortarW) : (s.modMortar w f).out = s.out := by cases w <;> rfl
@[simp] theorem State.modMortar_regs (s : State) (w : Wy) (f : MortarW → MortarW) : (s.modMortar w f).regs = s.regs := by cases w <;> rfl
@[simp] theorem State.modMortar_active (s : State) (w : Wy) (f : MortarW → MortarW) : (s.modMortar w f).active = s.active := by cases w <;> rfl
@[simp] theorem State.modMortar_wall (s : State) (w : Wy) (f : MortarW → MortarW) : (s.modMortar w f).wall = s.wall := by cases w <;> rfl
@[simp] theorem State.modMortar_store (s : State) (w : Wy) (f : MortarW → MortarW) : (s.modMortar w f).store = s.store := by cases w <;> rfl
@[simp] theorem State.modMortar_tileFaults (s : State) (w : Wy) (f : MortarW → MortarW) : (s.modMortar w f).tileFaults = s.tileFaults := by cases w <;> rfl
@[simp] theorem State.modMortar_stripes (s : State) (w : Wy) (f : MortarW → MortarW) : (s.modMortar w f).stripes = s.stripes := by cases w <;> rfl
@[simp] theorem State.modMortar_refs (s : State) (w : Wy) (f : MortarW → MortarW) : (s.modMortar w f).refs = s.refs := by cases w <;> rfl
@[simp] theorem State.modMortar_heldMortar (s : State) (w : Wy) (f : MortarW → MortarW) : (s.modMortar w f).heldMortar = s.heldMortar := by cases w <;> rfl
@[simp] theorem State.modMortar_syncQueue (s : State) (w : Wy) (f : MortarW → MortarW) : (s.modMortar w f).syncQueue = s.syncQueue := by cases w <;> rfl
@[simp] theorem State.modMortar_media (s : State) (w : Wy) (f : MortarW → MortarW) : (s.modMortar w f).media = s.media := by cases w <;> rfl
@[simp] theorem State.modMortar_units (s : State) (w : Wy) (f : MortarW → MortarW) : (s.modMortar w f).units = s.units := by cases w <;> rfl
@[simp] theorem State.modMortar_jobRuns (s : State) (w : Wy) (f : MortarW → MortarW) : (s.modMortar w f).jobRuns = s.jobRuns := by cases w <;> rfl
@[simp] theorem State.modMortar_arriving (s : State) (w : Wy) (f : MortarW → MortarW) : (s.modMortar w f).arriving = s.arriving := by cases w <;> rfl
@[simp] theorem State.modMortar_flash (s : State) (w : Wy) (f : MortarW → MortarW) : (s.modMortar w f).flash = s.flash := by cases w <;> rfl
@[simp] theorem State.modMortar_recorder (s : State) (w : Wy) (f : MortarW → MortarW) : (s.modMortar w f).recorder = s.recorder := by cases w <;> rfl
@[simp] theorem State.modMortar_plinth (s : State) (w : Wy) (f : MortarW → MortarW) : (s.modMortar w f).plinth = s.plinth := by cases w <;> rfl
@[simp] theorem State.modMortar_front (s : State) (w : Wy) (f : MortarW → MortarW) : (s.modMortar w f).front = s.front := by cases w <;> rfl
@[simp] theorem State.modMortar_health (s : State) (w : Wy) (f : MortarW → MortarW) : (s.modMortar w f).health = s.health := by cases w <;> rfl
@[simp] theorem State.modMortar_inA (s : State) (w : Wy) (f : MortarW → MortarW) : (s.modMortar w f).inA = s.inA := by cases w <;> rfl
@[simp] theorem State.modMortar_inB (s : State) (w : Wy) (f : MortarW → MortarW) : (s.modMortar w f).inB = s.inB := by cases w <;> rfl
@[simp] theorem State.modMortar_holdup (s : State) (w : Wy) (f : MortarW → MortarW) : (s.modMortar w f).holdup = s.holdup := by cases w <;> rfl
@[simp] theorem State.modMortar_fw (s : State) (w : Wy) (f : MortarW → MortarW) : (s.modMortar w f).fw = s.fw := by cases w <;> rfl
@[simp] theorem State.modMortar_pwr (s : State) (w : Wy) (f : MortarW → MortarW) : (s.modMortar w f).pwr = s.pwr := by cases w <;> rfl
@[simp] theorem State.modMortar_cover (s : State) (w : Wy) (f : MortarW → MortarW) : (s.modMortar w f).cover = s.cover := by cases w <;> rfl

/-! ### modPcie -/

@[simp] theorem State.modPcie_wy (s : State) (w : Wy) (f : Pcie → Pcie) :
    (s.modPcie w f).wy w = { s.wy w with pcie := f (s.wy w).pcie } := by cases w <;> rfl
@[simp] theorem State.modPcie_peer (s : State) (w : Wy) (f : Pcie → Pcie) : (s.modPcie w f).wy w.peer = s.wy w.peer := by cases w <;> rfl
@[simp] theorem State.modPcie_now (s : State) (w : Wy) (f : Pcie → Pcie) : (s.modPcie w f).now = s.now := by cases w <;> rfl
@[simp] theorem State.modPcie_fresh (s : State) (w : Wy) (f : Pcie → Pcie) : (s.modPcie w f).fresh = s.fresh := by cases w <;> rfl
@[simp] theorem State.modPcie_pending (s : State) (w : Wy) (f : Pcie → Pcie) : (s.modPcie w f).pending = s.pending := by cases w <;> rfl
@[simp] theorem State.modPcie_out (s : State) (w : Wy) (f : Pcie → Pcie) : (s.modPcie w f).out = s.out := by cases w <;> rfl
@[simp] theorem State.modPcie_regs (s : State) (w : Wy) (f : Pcie → Pcie) : (s.modPcie w f).regs = s.regs := by cases w <;> rfl
@[simp] theorem State.modPcie_active (s : State) (w : Wy) (f : Pcie → Pcie) : (s.modPcie w f).active = s.active := by cases w <;> rfl
@[simp] theorem State.modPcie_wall (s : State) (w : Wy) (f : Pcie → Pcie) : (s.modPcie w f).wall = s.wall := by cases w <;> rfl
@[simp] theorem State.modPcie_store (s : State) (w : Wy) (f : Pcie → Pcie) : (s.modPcie w f).store = s.store := by cases w <;> rfl
@[simp] theorem State.modPcie_tileFaults (s : State) (w : Wy) (f : Pcie → Pcie) : (s.modPcie w f).tileFaults = s.tileFaults := by cases w <;> rfl
@[simp] theorem State.modPcie_stripes (s : State) (w : Wy) (f : Pcie → Pcie) : (s.modPcie w f).stripes = s.stripes := by cases w <;> rfl
@[simp] theorem State.modPcie_refs (s : State) (w : Wy) (f : Pcie → Pcie) : (s.modPcie w f).refs = s.refs := by cases w <;> rfl
@[simp] theorem State.modPcie_heldMortar (s : State) (w : Wy) (f : Pcie → Pcie) : (s.modPcie w f).heldMortar = s.heldMortar := by cases w <;> rfl
@[simp] theorem State.modPcie_syncQueue (s : State) (w : Wy) (f : Pcie → Pcie) : (s.modPcie w f).syncQueue = s.syncQueue := by cases w <;> rfl
@[simp] theorem State.modPcie_media (s : State) (w : Wy) (f : Pcie → Pcie) : (s.modPcie w f).media = s.media := by cases w <;> rfl
@[simp] theorem State.modPcie_units (s : State) (w : Wy) (f : Pcie → Pcie) : (s.modPcie w f).units = s.units := by cases w <;> rfl
@[simp] theorem State.modPcie_jobRuns (s : State) (w : Wy) (f : Pcie → Pcie) : (s.modPcie w f).jobRuns = s.jobRuns := by cases w <;> rfl
@[simp] theorem State.modPcie_arriving (s : State) (w : Wy) (f : Pcie → Pcie) : (s.modPcie w f).arriving = s.arriving := by cases w <;> rfl
@[simp] theorem State.modPcie_flash (s : State) (w : Wy) (f : Pcie → Pcie) : (s.modPcie w f).flash = s.flash := by cases w <;> rfl
@[simp] theorem State.modPcie_recorder (s : State) (w : Wy) (f : Pcie → Pcie) : (s.modPcie w f).recorder = s.recorder := by cases w <;> rfl
@[simp] theorem State.modPcie_plinth (s : State) (w : Wy) (f : Pcie → Pcie) : (s.modPcie w f).plinth = s.plinth := by cases w <;> rfl
@[simp] theorem State.modPcie_front (s : State) (w : Wy) (f : Pcie → Pcie) : (s.modPcie w f).front = s.front := by cases w <;> rfl
@[simp] theorem State.modPcie_health (s : State) (w : Wy) (f : Pcie → Pcie) : (s.modPcie w f).health = s.health := by cases w <;> rfl
@[simp] theorem State.modPcie_inA (s : State) (w : Wy) (f : Pcie → Pcie) : (s.modPcie w f).inA = s.inA := by cases w <;> rfl
@[simp] theorem State.modPcie_inB (s : State) (w : Wy) (f : Pcie → Pcie) : (s.modPcie w f).inB = s.inB := by cases w <;> rfl
@[simp] theorem State.modPcie_holdup (s : State) (w : Wy) (f : Pcie → Pcie) : (s.modPcie w f).holdup = s.holdup := by cases w <;> rfl
@[simp] theorem State.modPcie_fw (s : State) (w : Wy) (f : Pcie → Pcie) : (s.modPcie w f).fw = s.fw := by cases w <;> rfl
@[simp] theorem State.modPcie_pwr (s : State) (w : Wy) (f : Pcie → Pcie) : (s.modPcie w f).pwr = s.pwr := by cases w <;> rfl
@[simp] theorem State.modPcie_cover (s : State) (w : Wy) (f : Pcie → Pcie) : (s.modPcie w f).cover = s.cover := by cases w <;> rfl

/-! ### modBpm -/

@[simp] theorem State.modBpm_wy (s : State) (w : Wy) (f : Bpm → Bpm) :
    (s.modBpm w f).wy w = { s.wy w with bpm := f (s.wy w).bpm } := by cases w <;> rfl
@[simp] theorem State.modBpm_peer (s : State) (w : Wy) (f : Bpm → Bpm) : (s.modBpm w f).wy w.peer = s.wy w.peer := by cases w <;> rfl
@[simp] theorem State.modBpm_now (s : State) (w : Wy) (f : Bpm → Bpm) : (s.modBpm w f).now = s.now := by cases w <;> rfl
@[simp] theorem State.modBpm_fresh (s : State) (w : Wy) (f : Bpm → Bpm) : (s.modBpm w f).fresh = s.fresh := by cases w <;> rfl
@[simp] theorem State.modBpm_pending (s : State) (w : Wy) (f : Bpm → Bpm) : (s.modBpm w f).pending = s.pending := by cases w <;> rfl
@[simp] theorem State.modBpm_out (s : State) (w : Wy) (f : Bpm → Bpm) : (s.modBpm w f).out = s.out := by cases w <;> rfl
@[simp] theorem State.modBpm_regs (s : State) (w : Wy) (f : Bpm → Bpm) : (s.modBpm w f).regs = s.regs := by cases w <;> rfl
@[simp] theorem State.modBpm_active (s : State) (w : Wy) (f : Bpm → Bpm) : (s.modBpm w f).active = s.active := by cases w <;> rfl
@[simp] theorem State.modBpm_wall (s : State) (w : Wy) (f : Bpm → Bpm) : (s.modBpm w f).wall = s.wall := by cases w <;> rfl
@[simp] theorem State.modBpm_store (s : State) (w : Wy) (f : Bpm → Bpm) : (s.modBpm w f).store = s.store := by cases w <;> rfl
@[simp] theorem State.modBpm_tileFaults (s : State) (w : Wy) (f : Bpm → Bpm) : (s.modBpm w f).tileFaults = s.tileFaults := by cases w <;> rfl
@[simp] theorem State.modBpm_stripes (s : State) (w : Wy) (f : Bpm → Bpm) : (s.modBpm w f).stripes = s.stripes := by cases w <;> rfl
@[simp] theorem State.modBpm_refs (s : State) (w : Wy) (f : Bpm → Bpm) : (s.modBpm w f).refs = s.refs := by cases w <;> rfl
@[simp] theorem State.modBpm_heldMortar (s : State) (w : Wy) (f : Bpm → Bpm) : (s.modBpm w f).heldMortar = s.heldMortar := by cases w <;> rfl
@[simp] theorem State.modBpm_syncQueue (s : State) (w : Wy) (f : Bpm → Bpm) : (s.modBpm w f).syncQueue = s.syncQueue := by cases w <;> rfl
@[simp] theorem State.modBpm_media (s : State) (w : Wy) (f : Bpm → Bpm) : (s.modBpm w f).media = s.media := by cases w <;> rfl
@[simp] theorem State.modBpm_units (s : State) (w : Wy) (f : Bpm → Bpm) : (s.modBpm w f).units = s.units := by cases w <;> rfl
@[simp] theorem State.modBpm_jobRuns (s : State) (w : Wy) (f : Bpm → Bpm) : (s.modBpm w f).jobRuns = s.jobRuns := by cases w <;> rfl
@[simp] theorem State.modBpm_arriving (s : State) (w : Wy) (f : Bpm → Bpm) : (s.modBpm w f).arriving = s.arriving := by cases w <;> rfl
@[simp] theorem State.modBpm_flash (s : State) (w : Wy) (f : Bpm → Bpm) : (s.modBpm w f).flash = s.flash := by cases w <;> rfl
@[simp] theorem State.modBpm_recorder (s : State) (w : Wy) (f : Bpm → Bpm) : (s.modBpm w f).recorder = s.recorder := by cases w <;> rfl
@[simp] theorem State.modBpm_plinth (s : State) (w : Wy) (f : Bpm → Bpm) : (s.modBpm w f).plinth = s.plinth := by cases w <;> rfl
@[simp] theorem State.modBpm_front (s : State) (w : Wy) (f : Bpm → Bpm) : (s.modBpm w f).front = s.front := by cases w <;> rfl
@[simp] theorem State.modBpm_health (s : State) (w : Wy) (f : Bpm → Bpm) : (s.modBpm w f).health = s.health := by cases w <;> rfl
@[simp] theorem State.modBpm_inA (s : State) (w : Wy) (f : Bpm → Bpm) : (s.modBpm w f).inA = s.inA := by cases w <;> rfl
@[simp] theorem State.modBpm_inB (s : State) (w : Wy) (f : Bpm → Bpm) : (s.modBpm w f).inB = s.inB := by cases w <;> rfl
@[simp] theorem State.modBpm_holdup (s : State) (w : Wy) (f : Bpm → Bpm) : (s.modBpm w f).holdup = s.holdup := by cases w <;> rfl
@[simp] theorem State.modBpm_fw (s : State) (w : Wy) (f : Bpm → Bpm) : (s.modBpm w f).fw = s.fw := by cases w <;> rfl
@[simp] theorem State.modBpm_pwr (s : State) (w : Wy) (f : Bpm → Bpm) : (s.modBpm w f).pwr = s.pwr := by cases w <;> rfl
@[simp] theorem State.modBpm_cover (s : State) (w : Wy) (f : Bpm → Bpm) : (s.modBpm w f).cover = s.cover := by cases w <;> rfl

/-! ### modStart -/

@[simp] theorem State.modStart_wy (s : State) (w : Wy) (f : StartSt → StartSt) :
    (s.modStart w f).wy w = { s.wy w with start := f (s.wy w).start } := by cases w <;> rfl
@[simp] theorem State.modStart_peer (s : State) (w : Wy) (f : StartSt → StartSt) : (s.modStart w f).wy w.peer = s.wy w.peer := by cases w <;> rfl
@[simp] theorem State.modStart_now (s : State) (w : Wy) (f : StartSt → StartSt) : (s.modStart w f).now = s.now := by cases w <;> rfl
@[simp] theorem State.modStart_fresh (s : State) (w : Wy) (f : StartSt → StartSt) : (s.modStart w f).fresh = s.fresh := by cases w <;> rfl
@[simp] theorem State.modStart_pending (s : State) (w : Wy) (f : StartSt → StartSt) : (s.modStart w f).pending = s.pending := by cases w <;> rfl
@[simp] theorem State.modStart_out (s : State) (w : Wy) (f : StartSt → StartSt) : (s.modStart w f).out = s.out := by cases w <;> rfl
@[simp] theorem State.modStart_regs (s : State) (w : Wy) (f : StartSt → StartSt) : (s.modStart w f).regs = s.regs := by cases w <;> rfl
@[simp] theorem State.modStart_active (s : State) (w : Wy) (f : StartSt → StartSt) : (s.modStart w f).active = s.active := by cases w <;> rfl
@[simp] theorem State.modStart_wall (s : State) (w : Wy) (f : StartSt → StartSt) : (s.modStart w f).wall = s.wall := by cases w <;> rfl
@[simp] theorem State.modStart_store (s : State) (w : Wy) (f : StartSt → StartSt) : (s.modStart w f).store = s.store := by cases w <;> rfl
@[simp] theorem State.modStart_tileFaults (s : State) (w : Wy) (f : StartSt → StartSt) : (s.modStart w f).tileFaults = s.tileFaults := by cases w <;> rfl
@[simp] theorem State.modStart_stripes (s : State) (w : Wy) (f : StartSt → StartSt) : (s.modStart w f).stripes = s.stripes := by cases w <;> rfl
@[simp] theorem State.modStart_refs (s : State) (w : Wy) (f : StartSt → StartSt) : (s.modStart w f).refs = s.refs := by cases w <;> rfl
@[simp] theorem State.modStart_heldMortar (s : State) (w : Wy) (f : StartSt → StartSt) : (s.modStart w f).heldMortar = s.heldMortar := by cases w <;> rfl
@[simp] theorem State.modStart_syncQueue (s : State) (w : Wy) (f : StartSt → StartSt) : (s.modStart w f).syncQueue = s.syncQueue := by cases w <;> rfl
@[simp] theorem State.modStart_media (s : State) (w : Wy) (f : StartSt → StartSt) : (s.modStart w f).media = s.media := by cases w <;> rfl
@[simp] theorem State.modStart_units (s : State) (w : Wy) (f : StartSt → StartSt) : (s.modStart w f).units = s.units := by cases w <;> rfl
@[simp] theorem State.modStart_jobRuns (s : State) (w : Wy) (f : StartSt → StartSt) : (s.modStart w f).jobRuns = s.jobRuns := by cases w <;> rfl
@[simp] theorem State.modStart_arriving (s : State) (w : Wy) (f : StartSt → StartSt) : (s.modStart w f).arriving = s.arriving := by cases w <;> rfl
@[simp] theorem State.modStart_flash (s : State) (w : Wy) (f : StartSt → StartSt) : (s.modStart w f).flash = s.flash := by cases w <;> rfl
@[simp] theorem State.modStart_recorder (s : State) (w : Wy) (f : StartSt → StartSt) : (s.modStart w f).recorder = s.recorder := by cases w <;> rfl
@[simp] theorem State.modStart_plinth (s : State) (w : Wy) (f : StartSt → StartSt) : (s.modStart w f).plinth = s.plinth := by cases w <;> rfl
@[simp] theorem State.modStart_front (s : State) (w : Wy) (f : StartSt → StartSt) : (s.modStart w f).front = s.front := by cases w <;> rfl
@[simp] theorem State.modStart_health (s : State) (w : Wy) (f : StartSt → StartSt) : (s.modStart w f).health = s.health := by cases w <;> rfl
@[simp] theorem State.modStart_inA (s : State) (w : Wy) (f : StartSt → StartSt) : (s.modStart w f).inA = s.inA := by cases w <;> rfl
@[simp] theorem State.modStart_inB (s : State) (w : Wy) (f : StartSt → StartSt) : (s.modStart w f).inB = s.inB := by cases w <;> rfl
@[simp] theorem State.modStart_holdup (s : State) (w : Wy) (f : StartSt → StartSt) : (s.modStart w f).holdup = s.holdup := by cases w <;> rfl
@[simp] theorem State.modStart_fw (s : State) (w : Wy) (f : StartSt → StartSt) : (s.modStart w f).fw = s.fw := by cases w <;> rfl
@[simp] theorem State.modStart_pwr (s : State) (w : Wy) (f : StartSt → StartSt) : (s.modStart w f).pwr = s.pwr := by cases w <;> rfl
@[simp] theorem State.modStart_cover (s : State) (w : Wy) (f : StartSt → StartSt) : (s.modStart w f).cover = s.cover := by cases w <;> rfl

end Sys2Proof.Machine
end

