-- ==== Sys2Proof/Tests/Slice0.lean ====
section
/-! SUPPORT. Tests: ill-formed commands that the checks refuse, single steps on small states, and for every statement that has hypotheses a
state and operands that meet the hypotheses of each of its clauses. -/

namespace Sys2Proof.Tests

/- One theorem after the other: their kernel evaluations side by side would hold too much memory at once. -/
set_option Elab.async false

/- The witnesses bind every variable of the clause they stand for, used in the rest of the witness or not. -/
set_option linter.unusedVariables false

open Sys2Proof.Machine

/-! ### States of a brick that serves its wall -/

/-- The settings of a small wall: 2 data and 2 parity fragments, one placement group. -/
def ws : WallSettings := { wallDefaults with wallId := 77, k := 2, m := 2, fragBytes := 262144, groups := 1 }

/-- A brick of the map. -/
def mb (n : Nat) : MapBrick := { id := n, state := 1, ports := 1, cover := 0, addrs0 := [], addrs1 := [] }

/-- A brick of the armature's records. -/
def br (n : Nat) (st : BState) : BrickRec :=
  { id := n, st := st, enclosure := n, rack := 0, serial := [BitVec.ofNat 8 n], ivDomain := BitVec.ofNat 16 n, compat := 0, grantedAt := 0,
    suspectAt := 0, removal := none, lastHb := 0, closed0 := 0, closed1 := 0, ready := true, full := false, replace := false,
    removeReady := false, stopping := false, freeGiB := 10, usableGiB := 20, cover := 0, inSync := true, partial_ := none, passes := [] }

/-- An online unit's PAGE_STATE. -/
def online (s : State) (l : List Page) : State := l.foldl (fun s p => s.setReg p PAGE_STATE 1) s

/-- A brick whose Plinth and wythes run: brick 3, the leader of a wall of five. -/
def s0 : State :=
  let cover : Cover := { Cover.reset with run0 := true, run1 := true, tieUp := true, lanes := 16, rel0 := true, rel1 := true }
  let plinth : Plinth := { Plinth.reset with up := true, auxA := 3300, source := 1, uncertain := false, ksOk := true, calOk := true }
  let arm : Armature := { Armature.reset with role := .leader, term := 4, leader := some 3, members := [1, 2, 3, 4, 5] }
  let bond : BondTable := { version := 1, epoch := 7, encCap := 1, rackCap := 1, rows := [(0, { pos := [3, 1, 2, 4], spill := [5] })] }
  let wall : Wall := { Wall.reset with
    st := .member, settings := ws, identity := true, brickId := some 3, opened := true, epoch := 7, bond := bond, arm := arm
    bricks := [1, 2, 3, 4, 5].map (fun n => br n .member), leaseUntil := 300000000000000 }
  let map : PartMap := { version := 1, epoch := 7, parts := [(0, { home := 3, standby1 := 1, standby2 := 2, moving := false, epoch := 5 })],
                         bricks := [1, 2, 3, 4, 5].map mb }
  let input : Input := { mv := 12000, on := true, at_ := 0, pwrdis := false }
  let s : State := { State.reset with
    now := 200000000000000, cover := cover, plinth := plinth, wall := wall, inA := input, inB := input
    store := { Store.reset with map := map }
    w0 := { Wythe.reset .w0 with serving := true, start := { StartSt.reset with step := 13 } }
    w1 := { Wythe.reset .w1 with serving := true, start := { StartSt.reset with step := 13 } } }
  ((s.setReg (.glb .w0) GLB_WYTHE 16).setReg (.glb .w1) GLB_WYTHE 17)

/-- A Mortar header from brick 1 at the brick's own epoch. -/
def h0 : MHead := { src := 1, srcW := .w0, compat := 0, epoch := 7, hlc := 0, addr := 1 }

/-- An open RoCEv2 queue that has said HELLO. -/
def q0 : Queue :=
  { idx := 5, transport := .roce 4096 0, epoch := 1, st := .opened, helloDone := true, mask := 0, evtSeq := 0, lastCapsule := 0, acks := [], dma := 0 }

/-- A capsule on that queue with a request id. -/
def cap0 : Capsule := { Capsule.zero with qepoch := 1, requestId := 9 }

/-- A command on that queue. -/
def c0 (op : Opcode) (ph : Phase) : Cmd :=
  { id := 0, q := 5, op := op, cap := cap0, key := [], imm := [], epoch := 1, arrived := 0, waitFrom := 0, phase := ph, suppressed := false,
    window := 0, ops := [], wchunks := [], rchunks := [], readVer := none, castTime := 0, castId := 0 }

/-- The brick with that queue and commands on it. -/
def sq (l : List Cmd) : State := s0.modRelief .w0 (fun r => { r with queues := [q0], cmds := l, nextCmd := 1 })

/-- A HELLO's capsule. -/
def capH : Capsule := { cap0 with length := 256, aux := 1 }

/-- A value of 16 bytes as a client writes it. -/
def op0 (pulled : Bool) : WriteOp :=
  { op := .putPart, key := [1], flags := 0, cond := 0, offset := 0, length := 16, data := if pulled then List.replicate 16 1 else [], asked := 16,
    released := 0, bufAddr := 0, bufRkey := 0, pulled := pulled, base := none, old := none, inlined := none, inlineKey := 0, inlineIv := [], inlineTag := [],
    cutPos := 0, restart := 0, newLen := 16, cutDone := false }

/-- A chunk of a write. -/
def wch (st : WStage) : WChunk :=
  { entry := 0, start := 0, data := List.replicate 16 1, fp := List.replicate 32 0, codec := .stored, body := List.replicate 16 1, keyVer := 1, iv := [],
    stage := st, lead := 3, credit := 0, buf := none, cutAt := 0, dropped := false, firstSent := 198000000000000, lastSent := 199980000000000, place := none }

/-- A place in a stripe of group 0. -/
def pl0 : Place := { fragId := 0, offset := 0, length := 96, keyVersion := 1 }

/-- A recipe entry. -/
def ent0 : RecipeEntry := { fp := List.replicate 32 0, place := pl0, start := 0, plain := 16, codec := .stored }

/-- A chunk of a read. -/
def rch (st : RStage) : RChunk :=
  { entry := 0, ent := ent0, stage := st, asked := [], parts := [], bad := [], looked := false, rebuilt := false, body := zeroBytes 12 ++ leBytes 4 2, data := [] }

/-- A version of a value. -/
def ver0 : ValueVer := { time := 8, live := true, length := 16, inlined := none, inlineKey := 0, inlineIv := [], inlineTag := [], chunks := [], holes := [], first := 8 }

/-- A keyspace without grants or limits. -/
def ks0 : Keyspace :=
  { id := 0, grants := [], compression := .zstd, verify := true, locked := false, historyS := 0, castLifeS := 0, salt := [], role := .none, linkWall := 0,
    linkContact := 0, shipS := 3600, keyVers := 4, rotate := 0 }

/-- A running write with an operation and a chunk. -/
def cw (o : WriteOp) (l : List WChunk) : Cmd := { c0 .batch .running with ops := [o], wchunks := l }

/-- A running read of a chunk. -/
def cr (x : RChunk) : Cmd := { c0 .get .running with rchunks := [x], readVer := some ver0 }

/-- The brick with a keyspace and commands. -/
def sk (l : List Cmd) : State := (sq l).modStore (fun t => { t with keyspaces := [ks0] })

/-- A crypt job of a chunk. -/
def j0 (enc : Bool) (st : CryptSt) : CryptJob :=
  { ref := .writeChunk 0 0, encrypt := enc, keyspace := 2, ver := 1, prio := 1, since := 0, order := 0, course := 0, st := st, iv := none,
    input := List.replicate 16 1, aad := zeroBytes 44, tag := [], key := zeroBytes 32, eff := 1, ctx := .fresh }

/-- A key slot. -/
def slot0 : KeySlot :=
  { keyspace := 2, ver := 1, st := .current, wrapped := [], installed := 0, kekGen := 0, next := 0, thru := resvBlock, resvAt := none,
    locked := false }

/-- The brick with a crypt job, its key in the cache and the tile's units in use. -/
def sj (j : CryptJob) : State :=
  (online s0 [.pnl .w0 0, .crs .w0 0, .til .w0 5]).modWy .w0 (fun y => { y with
    cip := { y.cip with domainValid := true, slots := [slot0], cache := [{ keyspace := 2, ver := 1, key := zeroBytes 32 }], jobs := [j] } })

/-- A partition held by this brick. -/
def ps0 : PartSt :=
  { p := 0, opened := true, fenced := false, moving := false, moveTo := none, movedAt := 0, closed := 0, epoch := 5, collect := [], collected := [],
    toPlace := [], needCasts := false }

/-- A record of a key index. -/
def ir0 : IdxRec :=
  { staged := none, version := 8, keyspace := 2, requestId := 9, status := .ok, detail := .none, result := 0, adds := [], segment := 0,
    segments := 1, counts := [] }

/-- A commit in its round of acknowledgements. -/
def cm0 : Commit :=
  { cmdId := 0, part := 0, keys := [], version := 8, adds := [], keyspace := 2, requestId := 9, status := .ok, detail := .none, result := 0, segments := 2,
    acks := [], deltas := [] }

/-- The brick with a partition. -/
def sp (x : PartSt) : State := s0.modStore (fun t => { t with parts := [x] })

/-- A stripe of group 0 led by this brick. -/
def sr0 (st : StripeSt) : StripeRec :=
  { id := 0, st := st, closed := false, fill := 96, gen := 1, lead := 3, leadEpoch := 7, journal := [2, 4], targets := [some 3, some 1, some 2, some 4],
    openedAt := 199990000000000, digest := [], recs := [(0, List.replicate 96 7)], waits := [], placed := [], held := [], done := [], refused := [],
    sealedWait := [] }


/-- The brick as a follower or candidate of the armature. -/
def arm0 (r : ArmRole) : State :=
  s0.modWall (fun y => { y with arm := { y.arm with role := r, leader := some 1, votes := [3, 2], lastAppend := 198000000000000 } })

/-- The brick outside a wall. -/
def fresh0 (st : WallSt) : State :=
  s0.modWall (fun y => { y with st := st, identity := false, brickId := none, settings := { ws with wallId := 77 }, bricks := [], arm := .reset, hb := [] })

/-- A brick that asks to join. -/
def jr0 : JoinReq :=
  { wallId := 77, prevId := 0, ivDomain := 9, hasResv := true, enclosure := 8, rack := 8, serial := [8], ephemeral := [], cert := [], certOk := true }

/-- The brick with the given other records in the armature. -/
def armBricks (l : List BrickRec) : State := s0.modWall (fun y => { y with bricks := l })

/-- A heartbeat's body. -/
def hb0 : HbBody :=
  { seq := 5, bondVersion := 1, mapVersion := 1, closed0 := 0, closed1 := 0, running0 := true, running1 := true, cover := 0, inSync0 := true, inSync1 := true,
    ready := true, full := false, replace := false, removeReady := false, stopping := false, freeGiB := 10, usableGiB := 20, passEnd := false, counts := [],
    ports := 4, addrs := [] }

/-- A cast that is not ready. -/
def ca0 : Cast :=
  { id := 4, keyspace := 2, time := 0, ready := false, expiry := some 1, held := false, confirms := [3, 1, 2], asker := 1, requestId := 9 }

/-- The brick with a cast. -/
def sca (c : Cast) : State := s0.modStore (fun t => { t with casts := [c] })

/-- A closed commit round's partition, moved from here to brick 2. -/
def psMove : PartSt := { ps0 with moving := true, moveTo := some 2 }

/-- A packet under way to brick 2. -/
def pk0 : Packet :=
  { seq := 6, msgId := 1, sent := true, acked := false, sentAt := 199900000000000, expiries := 0, passed := 0, addr := 2, port := 5185, typ := 1,
    off := 0, total := 1, last := true, seg := [0] }

/-- A flow to brick 2 with two packets under way. -/
def flow0 (expiries : Nat) : Flow :=
  { peer := 2, peerW := .w0, num := 1, nextSeq := 8, nextMsg := 3, unacked := [{ pk0 with expiries := expiries }, { pk0 with seq := 7, msgId := 2 }],
    win := 8, alphaNum := 0, ceInWin := 0, sinceWin := 0, credit := 100, rxSeq := 0, rxInc := none, rxGot := [], broken := false }

/-- The brick with that flow. -/
def sfl (expiries : Nat) : State := s0.modWy .w0 (fun y => { y with mortar := { y.mortar with flows := [flow0 expiries] } })

/-- A rebuild entry of fragment 64. -/
def re0 : RebuildEnt :=
  { fragId := 64, gen := 1, fill := 16, digest := [], targets := [some 3, some 1, some 2, some 4], lead := 1, margin := 1, next := 0, upto := 0, bytes := [], asked := [],
    got := [], out := [] }

/-- The brick with a stripe, a rebuild entry or a fragment. -/
def sst (l : List StripeRec) (e : List RebuildEnt) (f : List FragRec) : State :=
  s0.modStripes (fun y => { y with recs := l, rebuild := e, frags := f })

/-- A keyspace replicated to wall 78. -/
def ksP : Keyspace := { ks0 with id := 2, role := .primary, linkWall := 78 }

/-- Its link. -/
def lk0 : LinkRec := { keyspace := 2, sourceWall := 77, remoteWall := 78, accepted := true, lastShip := 0, applied := 0, peer := 1, peerW := .w0, secret := none }

/-- The brick as the leader of a replicated keyspace. -/
def srp (l : List LinkRec) (ships : List ShipRec) : State :=
  (s0.modStore (fun t => { t with keyspaces := [ksP] })).modRefs (fun r => { r with links := l, ships := ships })

/-- A key whose value has a chunk. -/
def kh0 : KeyHist := { keyspace := 0, key := [1], versions := [{ ver0 with chunks := [ent0] }] }

/-- An offer staged at its home. -/
def sg0 : StagedRec :=
  { p := 0, keyspace := 2, sourceCast := 6, offer := 1, last := true, keys := [], asked := [List.replicate 32 0], unprobed := [], need := [0],
    places := [], src := 1, inlines := [], record := none, wait := [], staged := false }

/-- A held fragment of group 0. -/
def fr0 (id : Nat) : FragRec :=
  { fragId := id, gen := 2, fill := 4096, digest := [], targets := [some 3, some 1, some 2, some 4], lead := 1, bytes := List.replicate 32 7,
    durable := true, ackTo := none, newGen := none, holes := [], bad := [], evacTo := none, thinWait := none, thinGot := [], thinTo := none }

/-- A fragment's head. -/
def fh0 (id : Nat) (kind : FKind) : FragHead :=
  { fragId := id, gen := 1, fill := 4096, digest := [], targets := [3, 1, 2, 4], lead := 1, kind := kind, crc := 0 }

/-- The brick with no healthy channel, a fragment and no room, low on SLC since reset. -/
def sfull : State :=
  (sst [] [] [fr0 64]).modMedia (fun y => { y with
    chans := (List.range 64).map (fun c => (c, { ChanSt.reset with degraded := true })), set0 := { y.set0 with lowSince := some 0 } })

/-- A fingerprint. -/
def fpA : Bytes := List.replicate 32 0

/-- The reference record of a group: one chunk indexed with a count. -/
def gr0 : GroupRec :=
  { group := 0, held := true, leading := true,
    image := { index := [{ fp := fpA, place := pl0, pinned := false, count := 2 }],
               pend := [{ home := 1, p := 0, requestId := 9, chunk := 0, created := 0, fp := fpA }], log := [], lwm := [], dead := [] },
    seen := [], nextSeq := 1, recount := false, ended := [], thins := [], queries := [], parts := [], owners := [], syncing := [] }

/-- The brick with that reference record. -/
def sgr (g : GroupRec) : State := s0.modRefs (fun r => { r with groups := [g] })

/-- A record of a chunk as it is sent, with the given fingerprint. -/
def rec0 (fp : Bytes) : Bytes := zeroBytes 32 ++ fp ++ [1, 2]

/-- A batch of deltas of partition 0 for group 0. -/
def db0 (sent : Bool) : DeltaBatch :=
  { p := 0, group := 0, seq := 0, firstAt := 199980000000000, sent := sent, recount := false, ended := false, entries := [] }

/-- A fragment with a new generation ready. -/
def frNew : FragRec := { fr0 64 with newGen := some (3, [5], [1]) }

/-- A channel that its home wythe owns and drives. -/
def ch0 (w : Wy) : ChanSt := { ChanSt.reset with owner := some w, mode := .home }

/-- A chisel request for die 0 of channel 0. -/
def req0 : ChReq :=
  { flags := 2, cls := 0, die := 0, channel := 0, planes := 1, cw := 1, retry := 1, blocks := [16], page := 0, erases := 0, offsets := [],
    res35 := 0, buffer := 0, bufOff := 0, cookie := 77, seq := 0, time := 0, slots := [], sources := [] }

/-- A job of the firmware on it. -/
def job0 (id : Nat) (rt : Routine) (st : ChSt) : ChJob :=
  { id := id, w := .w0, routine := rt, req := req0, what := .firmware, st := st, waited := false, started := 199980000000000,
    resumed := 199980000000000, ran := 0, suspends := 0 }

/-- The brick with channel 0 driven and the jobs. -/
def sch (l : List ChJob) : State := s0.modMedia (fun y => { y with chans := [(0, ch0 .w0)], jobs := l, nextJob := 9 })

/-- The brick with the course's limit at no request. -/
def sheld : State := (sch []).setAct (.crs .w0 3) CRS_CHISEL_CTRL 0

/-- A round of a superblock. -/
def rnd0 (wl : Nat) (st : RoundSt) : Round :=
  { wl := wl, seq := wl, time := 0, msns := [4 * wl, 4 * wl + 1, 4 * wl + 2, 4 * wl + 3], cls := 2, firstAt := 199900000000000,
    units := [{ typ := 1, owner := 64, gen := 1, unit := 0, last := true }], st := st, wait := [], folded := false, srcs := [] }

/-- A superblock of row 0. -/
def sb0 (id : Nat) (stream : Stream) (l : List Round) : SuperBlk :=
  { id := id, row := 0, stream := stream, qlc := stream matches .qlcFrag | .qlcFold, dies := [0, 32], blocks := [(0, [16]), (32, [16])], msn0 := 0, nextWl := 4,
    rounds := l, closed := false, short := false, closedAt := 0, closeSeq := 0, openWear := 0, refresh := false, failed := [], emptied := [],
    erasing := [], copying := false, patrolAt := 0, history := [] }

/-- An extent of the map in that superblock. -/
def ext0 (sb msn : Nat) : Extent :=
  { typ := 1, owner := 64, gen := 1, unit := msn, count := 1, hole := false, row := 0, msn := msn, pos := 0, cw := 0, sb := sb, seq := 0 }

/-- The brick with a channel set 0. -/
def sset (f : SetSt → SetSt) : State := (sch []).modMedia (fun y => { y with set0 := f y.set0 })

/-- Set 0 with 16 durable stripes of a row to fold. -/
def sfold : State :=
  sset (fun y => { y with nextSb := 3, map := (List.range 16).map (ext0 1),
                          sbs := [sb0 1 .slcFrag ((List.range 4).map (fun n => rnd0 n .durable)), { sb0 2 .qlcFold [] with nextWl := 0 }] })

/-- A record of the map's journal. -/
def jr : JRec := { owner := 64, gen := 1, unit := 0, count := 1, op := 1, typ := 1, row := 0, pos := 0, cw := 0, msn := 0, at_ := 0 }

/-- The brick whose wythe 0 has a pool of large buffers with some free, and a buffer of it allocated. -/
def spool (b : Buf) : State :=
  s0.modWy .w0 (fun y => { y with bpm := { y.bpm with ready := true, pools := (List.range 6).map (fun _ =>
    { Pool.reset 32768 with bufs := [(0, b)], free := 32767, low := some 32767, cache := 32, stalled := [(3, 0x21000001, 5)] }) } })

/-- A buffer owned by a tile. -/
def buf0 : Buf := { gen := 1, st := 1, owner := 3, count := 1 }

/-- The brick with a port whose link is up. -/
def sport (f : Port → Port) : State :=
  (s0.modWy .w0 (fun y => { y with portMode := 1, ports := List.replicate 4 (f { Port.reset with linkUp := true, trained := true }) })).setAct
    (.mac .w0 0) MAC_PFC_CTRL 0x4001

/-- Pause frames for priority 6 act. -/
def spfc (f : Port → Port) : State := ((sport f).setAct (.mac .w0 0) MAC_PFC_CTRL 0x00144001)

/-- A frame of 64 bytes. -/
def frame0 : Frame :=
  { len := 64, fcsOk := true, dst := .own, ether := 0x0800, vid := none, prio := 0, full := false, held := 0, pay := .other }

/-- A frame to send. -/
def txf0 : TxFrame := { len := 64, mcast := false, prio := 0, kind := .other, inFifo := 64, stamp := false, cookie := 4 }

/-- A frame being sent. -/
def snd0 : Sending := { frame := txf0, from_ := 199999999000000, raw := 0 }

/-- A queue pair. -/
def pair0 : RocePair := { q := 5, port := 0, retries := 0, rnr := 0, rate := 100000, alpha := 1, cnpAt := none, rateAt := 0 }

/-- The brick with a queue pair. -/
def spair : State := s0.modWy .w0 (fun y => { y with pairs := [pair0], portMode := 1 })

/-- A hold-up in which both wythes write. -/
def hu0 (l : List Wy) : HoldUp := { at_ := 199900000000000, wait := l, begun := [], ended := [] }

/-- The brick as it was powered, with the Plinth up and no wythe. -/
def splinth : State :=
  { s0 with cover := { Cover.reset with tieUp := true }, w0 := Wythe.reset .w0, w1 := Wythe.reset .w1 }

/-- The brick with a bank's address. -/
def sbank (addr : Nat) : State := s0.modBank 4 (fun b => { b with addr := addr })

/-- An event entry. -/
def evt0 : EvtRec :=
  { seq := 0, time := 0, severity := 2, uncertain := false, source := 0, code := 0x0801, page := 0, start := 0, detail := List.replicate 32 0 }

/-- The brick with a service session of every right. -/
def ssess : State := s0.modPlinth (fun p => { p with sessions := [{ n := 1, rights := 0xFF, until_ := 2 ^ 60, ceiling := 0 }] })

/-- The brick whose PCIe link is up. -/
def slink : State := s0.modWy .w0 (fun y => { y with pcie := { y.pcie with linkUp := true, bme := true } })

/-- The brick while it starts, wythe `w` having ended the given step. -/
def sstart (w : Wy) (n : Nat) : State :=
  (s0.modWy w (fun y => { y with serving := false, start := { StartSt.reset with step := n } })).modPlinth (fun p => { p with
    startOn := true, goodAt := 199000000000000 })

/-- A start in which nothing is released yet. -/
def searly (n : Nat) : State :=
  let s := splinth.modPlinth (fun p => { p with startOn := true })
  (s.modWy .w0 (fun y => { y with start := { StartSt.reset with step := n } })).modWy .w1 (fun y => { y with
    start := { StartSt.reset with step := n } })

/-- The brick whose wythe 0 covers the held wythe 1. -/
def scover : State :=
  { s0 with
    cover := { s0.cover with run1 := false, rel1 := false, held1 := true, coverer := some .w0, since := 190000000000000 }
    w1 := Wythe.reset .w1 }

/-- Wythe 1's heartbeats have stopped. -/
def slost : State := { s0 with cover := { s0.cover with lastHb0 := 199000000000000, lastHb1 := 199000000000000 } }

/-- An image's header for a component. -/
def hdr0 (c : Nat) : ImgHeader :=
  { component := c, formOk := true, sigOk := true, target := 0x0410, steppings := 0xFFFFFFFF, func := 0x02000000, compat := 0, security := 0, len := 1,
    setFormat := 1, readMin := 1, convFrom := 0, convTo := 0 }

/-- The other slot of a component holds a STAGED image. -/
def sstaged (c : Nat) : State :=
  { ssess with fw := { ssess.fw with slots := ssess.fw.slots.map (fun x =>
      if x.comp = c && x.slotB then { x with hdr := some (hdr0 c), auth := true, stamps := [(1, 2, 0)] } else x) } }

/-- An activation under way. -/
def act0 (c : Nat) : Activation :=
  { comp := c, w := .w0, slotB := true, conv := false, stage := 2, seq := 3, at_ := 199000000000000, trialAt := some 199000000000000, port := 7,
    portAt := some 199000000000000 }

/-- The brick as a follower with a session and a keyspace. -/
def sset0 : State :=
  ((arm0 .follower).modPlinth (fun p => { p with sessions := [{ n := 1, rights := 0xFF, until_ := 2 ^ 60, ceiling := 0 }] })).modStore (fun t => { t with
    keyspaces := [{ ks0 with id := 2 }] })

/-- The brick with both capacitor banks charged, whose test is due. -/
def scap : State :=
  (s0.modHealth (fun h => { h with caps := h.caps.map (fun c => { c with charged := true }), testAt := 0 })).setAct (.hlt s0.leadWy) HLT_CAP_CTRL 0x100

/-- The brick with its latch closed. -/
def slatch : State := s0.modFront (fun f => { f with latchClosed := true })

/-- The brick with a command and a job of it in a codec tile. -/
def sc (c : Cmd) (u : CodecUnit) (r : JobRef) : State :=
  (sk [c]).modWy .w0 (fun y => { y with codec := [{ unit := u, ref := r, course := 0, tile := some 2 }] })

/-- A chunk to compress with the given codec. -/
def wcz (x : Codec) (n : Nat) : WChunk := { wch .compressing with data := List.replicate n 1, codec := x }

/-- A chunk whose contents are to be verified. -/
def rver : RChunk := { rch .verifying with ent := { ent0 with fp := sha256 [] } }

/-- A key of 8 zero bytes (short, so that the kernel opens it soon) wrapped under a key of 32 zero bytes. -/
def wrap0 : Bytes := beBytes 16 0xAAC19A1F86E9ADECD5F50FE93B8A490D

/-- It opens. -/
theorem wrap0_opens : keyUnwrap (zeroBytes 32) wrap0 = some (zeroBytes 8) := by decide +kernel

/-- A key slot whose key is wrapped under a KEK of zeros. -/
def slotW : KeySlot := { slot0 with wrapped := wrap0 }

/-- The brick with a crypt job that waits for that key, and a wall key of zeros. -/
def skey : State :=
  s0.modWy .w0 (fun y => { y with cip := { y.cip with kek := zeroBytes 32, wallKey := zeroBytes 32, slots := [slotW], jobs := [j0 false .waitKey] } })

/-- A chunk of a read whose stored bytes decode to the two bytes 7, 8. -/
def rdec : RChunk := { rch .decoding with data := [7, 8] }

/-- A PATCH that re-cuts a chunk of the old value. -/
def cp (x : RChunk) : Cmd := { c0 .patch .running with rchunks := [x] }

/-- The request of a joining brick whose ephemeral key is 5. -/
def jrKey : JoinReq :=
  { jr0 with
    ephemeral := beBytes 97 0x0411DE24A2C251C777573CAC5EA025E467F208E51DBFF98FC54F6661CBE56583B037882F4A1CA297E60ABCDBC3836D84BC8FA696C77440F92D0F5837E90A00E7C5284B447754D5DEE88C986533B6901AEB3177686D0AE8FB33184414ABE6C1713A }

/-- The public key of a leader whose private key is 11. -/
def pub11 : Bytes :=
  beBytes 97 0x04099056E27DA7B998DA1EEEC2904816C57FE935ED5837C37456C9FD14892D3F8C4749B66E3AFB81D626356F3B55B4DDD82E4C0C234E30AB96688505544AC5E0396FC4EED8DFC363FD43FF93F41B52A3255466D51263AAFF357D5DBA8138C5E0BB

/-- Its grant for that request, which wraps a wall key of 8 zero bytes; its ephemeral key is 7 and the nonce of the signature 13. -/
def grant11 : JoinGrant :=
  { result := .granted, substitute := false, id := 6, epoch := 7, ivDomain := 3, cert := []
    ephemeral := beBytes 97 0x04283C1D7365CE4788F29F8EBF234EDFFEAD6FE997FBEA5FFA2D58CC9DFA7B1C508B05526F55B9EBB2040F05B48FB6D0E19475C99061E41B88BA52EFDB8C1690471A61D867ED799729D9C92CD01DBD225630D84EDE32A78F9E64664CDAC512EF8C
    wrappedKey := beBytes 16 0xDC300E1A9A7DA98367E7830D3EF0AD1A
    signature := beBytes 96 0xA567BA97B67AEA5BAFDAF5002FFCC6AB9632BFF9F01F873F6267BCD1F0F11C139EE5F441ABD99F1BAAF1CA1E3B5CBCE7A56CCBEEA3BC7D4A151C251E4D79BF287691D99B9FC10531884D7469C6E0BE0EC2CF5295FCA60C69435184ED62F33757 }

/-- The shared secret of the ephemeral keys 5 and 7. -/
def secret11 : Bytes := beBytes 48 0x77C12DCECA498FF99B9863D46535A5ABC3675BF4F728F3AC55A0270E5859145DC998B7FD7B3813CA29E4AE10AE1410EA

/-- The key it gives to wrap the wall key. -/
def wrapKey11 : Bytes := beBytes 32 0xEB419FFAD41AD21B44FEF6ECCCE5B72C0CB9A99A6542D5D9AFDFB233FA50FCEC

/-- The grant's signature holds. -/
theorem grant11_signed : ecVerify pub11 (grantBody grant11 ++ joinReqBytes jrKey) grant11.signature = true := by decide +kernel

/-- The two sides agree on the secret. -/
theorem grant11_shared : sharedSecret 5 grant11.ephemeral = some secret11 := by decide +kernel

/-- The secret gives the key. -/
theorem grant11_wrapKey : joinWrapKey jrKey.wallId secret11 = wrapKey11 := by decide +kernel

/-- The key opens the wrapped wall key. -/
theorem grant11_unwraps : keyUnwrap wrapKey11 grant11.wrappedKey = some (zeroBytes 8) := by decide +kernel

/-- The grant opens. -/
theorem grant11_opens : openGrant 5 jrKey pub11 grant11 = some (zeroBytes 8) := by
  simp only [openGrant, grant11_signed, if_true, grant11_shared, Option.bind_some, grant11_wrapKey, grant11_unwraps]

/-- A record of a read that was asked of brick 3 and has not come. -/
def ask0 : RangeAsk := { seg := 0, idx := 0, brick := 3, pending := false, at_ := 199980000000000 }

/-- The brick with a read that waits for a fragment, whose stripe is known from a fragment held here. -/
def sfetch : State :=
  (sk [cr { rch .fetching with asked := [ask0] }]).modStripes (fun y => { y with recs := [sr0 .sealed] })

/-- A rebuild entry that has been told its fill and digest. -/
def reD : RebuildEnt := { re0 with digest := [1] }

/-- A REPL_LINK of wall 78, whose leader's key is 11, the nonce of its signature 13. -/
def rlink (k : LinkKind) : ReplLink :=
  { kind := k, keyspace := 2, sourceWall := 78, remoteWall := 77, sourceCast := 0, remoteCast := 0, castTime := 0, ephemeral := [], cert := []
    signature := beBytes 96 0xA567BA97B67AEA5BAFDAF5002FFCC6AB9632BFF9F01F873F6267BCD1F0F11C139EE5F441ABD99F1BAAF1CA1E3B5CBCE722526E9299844884ED5958474616287013FCD50691449297F9B68A47A6DF42E484C994A4A5C2D8CD463F925CD4C19064 }

/-- The brick at the remote end of a link. -/
def sremote : State := s0.modStore (fun t => { t with keyspaces := [{ ks0 with id := 2, role := .secondary, linkWall := 78 }] })

/-- The same of a fragment without bytes. -/
def reZ : RebuildEnt := { reD with fill := 0 }

/-- The brick without room whose group has no spill column. -/
def sfull0 : State := sfull.modWall (fun y => { y with bond := { y.bond with rows := [(0, { pos := [3, 1, 2, 4], spill := [] })] } })

/-- No healthy channel leaves no usable capacity. -/
theorem sfull_usable : sfull.usable = 0 := by decide +kernel

/-- The capacity does not depend on the wall's state. -/
theorem usable_modWall (s : State) (f : Wall → Wall) : (s.modWall f).usable = s.usable := rfl

/-- The brick without room must evacuate. -/
theorem sfull_evacuates : sfull.mustEvacuate = true := by
  simp only [State.mustEvacuate, State.deleteReserve, sfull_usable]; decide

/-- The same with another bond table. -/
theorem sfull0_evacuates : sfull0.mustEvacuate = true := by
  simp only [State.mustEvacuate, State.deleteReserve, sfull0, usable_modWall, sfull_usable]; decide

/-- A fragment without bytes always has room. -/
theorem reZ_next : (sst [] [reZ] []).nextRebuild .w0 = some reZ := by
  have h : (sst [] [reZ] []).rebuildEnd reZ = 0 := by decide
  have d : (tableGet? (sst [] [reZ] []).stripes.detours reZ.fragId).isSome = false := by decide
  have r (s : State) : s.noRoom .rebuild 0 = s.media.worn := by simp [State.noRoom]
  refine List.find?_cons_of_pos ?_
  simp only [h, d, Bool.false_eq_true, if_false, r]
  decide

/-- A service ticket of every right. -/
def ticket0 : Bytes := leBytes 4 0x474C5354 ++ leBytes 2 1 ++ leBytes 2 0xFF ++ zeroBytes 152

/-! ### Ill-formed commands -/

/-- A Mortar header whose source does not fit its field. -/
def hBad : MHead := { h0 with src := 65536 }

/-- Commands with one operand too large, or of the wrong length. -/
def illFormed1 : List Instr :=
  [.hello .w0 1024 ⟨.zero, []⟩,
   .mapGet .w0 1024 ⟨.zero, []⟩,
   .put .w0 1024 ⟨.zero, []⟩,
   .putOpen .w0 1024 ⟨.zero, []⟩,
   .putPart .w0 1024 ⟨.zero, []⟩,
   .putClose .w0 1024 ⟨.zero, []⟩,
   .patch .w0 1024 ⟨.zero, []⟩,
   .punch .w0 1024 ⟨.zero, []⟩,
   .delete .w0 1024 ⟨.zero, []⟩,
   .get .w0 1024 ⟨.zero, []⟩,
   .stat .w0 1024 ⟨.zero, []⟩,
   .list .w0 1024 ⟨.zero, []⟩,
   .batch .w0 1024 ⟨.zero, []⟩,
   .cast .w0 1024 ⟨.zero, []⟩,
   .castDrop .w0 1024 ⟨.zero, []⟩,
   .outcome .w0 1024 ⟨.zero, []⟩,
   .flush .w0 1024 ⟨.zero, []⟩,
   .flushComplete .w0 18446744073709551616 [],
   .subscribe .w0 1024 ⟨.zero, []⟩,
   .queueReset .w0 1024 ⟨.zero, []⟩,
   .queueClose .w0 1024 ⟨.zero, []⟩,
   .keepalive .w0 1024 ⟨.zero, []⟩,
   .unknownKindMessage .w0 1024 [],
   .unknownOpcode .w0 1024 true ⟨.zero, []⟩]

theorem test_wf_refuses_1 : illFormed1.all (fun i => !wellFormed i) = true := by decide

/-- Commands with one operand too large, or of the wrong length. -/
def illFormed2 : List Instr :=
  [.sendLengthNak .w0 1024 0,
   .sendLengthNak .w0 0 18446744073709551616,
   .rdmaInvalidRequest .w0 1024,
   .idleClose .w0 1024,
   .connectionClose .w0 1024,
   .admissionTimeout .w0 18446744073709551616,
   .uploadDiscard .w0 18446744073709551616,
   .readAtRelease .w0 18446744073709551616,
   .plannedMoveEnd 65536,
   .payloadPullDone .w0 18446744073709551616 0 [],
   .payloadPullDone .w0 0 4294967296 [],
   .chunkCut .w0 18446744073709551616 0,
   .chunkCut .w0 0 4294967296,
   .compressJobEnd .w0 18446744073709551616 0 [],
   .compressJobEnd .w0 0 4294967296 [],
   .ivReservationDurable .w0 0 4294967296,
   .ivReservationTimeout .w0 0 4294967296,
   .keyUnwrapDone .w0 0 4294967296,
   .keyRotation .w0 0 4294967296 (zeroBytes 40),
   .keyRotation .w0 0 0 [],
   .chunkAck .w0 hBad 0 0 .new 0 0 pl0,
   .chunkAck .w0 h0 65536 0 .new 0 0 pl0,
   .chunkAck .w0 h0 0 65536 .new 0 0 pl0]

theorem test_wf_refuses_2 : illFormed2.all (fun i => !wellFormed i) = true := by decide

/-- Commands with one operand too large, or of the wrong length. -/
def illFormed3 : List Instr :=
  [.chunkAck .w0 h0 0 0 .new 0 4294967296 pl0,
   .chunkResend .w0 18446744073709551616 0,
   .chunkResend .w0 0 4294967296,
   .chunkAckTimeout .w0 18446744073709551616 0,
   .chunkAckTimeout .w0 0 4294967296,
   .indexPut .w0 hBad 0 0 0 ir0,
   .indexPut .w0 h0 65536 0 0 ir0,
   .indexPut .w0 h0 0 4294967296 0 ir0,
   .indexPut .w0 h0 0 0 18446744073709551616 ir0,
   .indexAck .w0 hBad 0 0 0 true,
   .indexAck .w0 h0 65536 0 0 true,
   .indexAck .w0 h0 0 4294967296 0 true,
   .indexAck .w0 h0 0 0 18446744073709551616 true,
   .rangeData .w0 hBad 0 0 0 .ok 0 0 [],
   .rangeData .w0 h0 18446744073709551616 0 0 .ok 0 0 [],
   .rangeData .w0 h0 0 18446744073709551616 0 .ok 0 0 [],
   .rangeData .w0 h0 0 0 18446744073709551616 .ok 0 0 [],
   .rangeData .w0 h0 0 0 0 .ok 65536 0 [],
   .rangeData .w0 h0 0 0 0 .ok 0 18446744073709551616 [],
   .fetchTimeout .w0 18446744073709551616 0,
   .fetchTimeout .w0 0 4294967296,
   .decompressJobEnd .w0 18446744073709551616 0,
   .decompressJobEnd .w0 0 4294967296,
   .reverifyJobEnd .w0 18446744073709551616 0]

theorem test_wf_refuses_3 : illFormed3.all (fun i => !wellFormed i) = true := by decide

/-- Commands with one operand too large, or of the wrong length. -/
def illFormed4 : List Instr :=
  [.reverifyJobEnd .w0 0 4294967296,
   .joinRequest .w0 hBad jr0,
   .joinGrant .w0 hBad ({ result := .granted, substitute := false, id := 0, epoch := 0, ivDomain := 0, ephemeral := [], wrappedKey := [], signature := [], cert := [] }) none,
   .joinReadyTimeout 65536,
   .heartbeat .w0 hBad hb0,
   .heartbeatReply .w0 hBad ({ seq := 0, term := 0, leader := true, notMember := false, epoch := 0, bondVersion := 0, mapVersion := 0, castVersion := 0, wallClosed := 0 }),
   .armAppend .w0 hBad 0 0 0 0 0 [],
   .armAppend .w0 h0 4294967296 0 0 0 0 [],
   .armAppend .w0 h0 0 65536 0 0 0 [],
   .armAppend .w0 h0 0 0 18446744073709551616 0 0 [],
   .armAppend .w0 h0 0 0 0 4294967296 0 [],
   .armAppend .w0 h0 0 0 0 0 18446744073709551616 [],
   .armAppendAck .w0 hBad 0 true 0 [],
   .armAppendAck .w0 h0 4294967296 true 0 [],
   .armAppendAck .w0 h0 0 true 18446744073709551616 [],
   .armAppendAck .w0 h0 0 true 0 [65536],
   .armVoteReq .w0 hBad 0 0 0 0,
   .armVoteReq .w0 h0 4294967296 0 0 0,
   .armVoteReq .w0 h0 0 65536 0 0,
   .armVoteReq .w0 h0 0 0 18446744073709551616 0,
   .armVoteReq .w0 h0 0 0 0 4294967296,
   .armVote .w0 hBad 0 true,
   .armVote .w0 h0 4294967296 true,
   .lossDelayExpiry 65536]

theorem test_wf_refuses_4 : illFormed4.all (fun i => !wellFormed i) = true := by decide

/-- Commands with one operand too large, or of the wrong length. -/
def illFormed5 : List Instr :=
  [.removeNotice .w0 hBad .remove,
   .stateGet .w0 hBad .map 0 0 0,
   .stateGet .w0 h0 .map 18446744073709551616 0 0,
   .stateGet .w0 h0 .map 0 18446744073709551616 0,
   .stateGet .w0 h0 .map 0 0 18446744073709551616,
   .stateData .w0 hBad .map 0 0 0 0 0 none,
   .stateData .w0 h0 .map 4294967296 0 0 0 0 none,
   .stateData .w0 h0 .map 0 18446744073709551616 0 0 0 none,
   .stateData .w0 h0 .map 0 0 18446744073709551616 0 0 none,
   .stateData .w0 h0 .map 0 0 0 18446744073709551616 0 none,
   .stateData .w0 h0 .map 0 0 0 0 18446744073709551616 none,
   .epochNotice .w0 hBad 0 0 0,
   .epochNotice .w0 h0 4294967296 0 0,
   .epochNotice .w0 h0 0 18446744073709551616 0,
   .epochNotice .w0 h0 0 0 18446744073709551616,
   .mortarAck .w0 65536 .w0 0 0 0 0 true true,
   .mortarAck .w0 0 .w0 8 0 0 0 true true,
   .mortarAck .w0 0 .w0 0 18446744073709551616 0 0 true true,
   .mortarAck .w0 0 .w0 0 0 18446744073709551616 0 true true,
   .retransmissionTimeout .w0 65536 .w0 0 0,
   .retransmissionTimeout .w0 0 .w0 8 0,
   .retransmissionTimeout .w0 0 .w0 0 18446744073709551616,
   .unknownTypeMessage .w0 hBad 0,
   .unknownTypeMessage .w0 h0 8]

theorem test_wf_refuses_5 : illFormed5.all (fun i => !wellFormed i) = true := by decide

/-- Commands with one operand too large, or of the wrong length. -/
def illFormed6 : List Instr :=
  [.partCollect .w0 hBad 0 0,
   .partCollect .w0 h0 65536 0,
   .partCollect .w0 h0 0 4294967296,
   .partRecords .w0 hBad 0 0 0 [],
   .partRecords .w0 h0 65536 0 0 [],
   .partRecords .w0 h0 0 4294967296 0 [],
   .partRecords .w0 h0 0 0 18446744073709551616 [],
   .partHandover .w0 hBad 0 0 0 0,
   .partHandover .w0 h0 65536 0 0 0,
   .partHandover .w0 h0 0 4294967296 0 0,
   .partHandover .w0 h0 0 0 18446744073709551616 0,
   .partHandover .w0 h0 0 0 0 18446744073709551616,
   .closedTime .w0 hBad 0 0 0,
   .closedTime .w0 h0 65536 0 0,
   .closedTime .w0 h0 0 4294967296 0,
   .closedTime .w0 h0 0 0 18446744073709551616,
   .castRequest .w0 hBad 0 0 0,
   .castRequest .w0 h0 0 18446744073709551616 0,
   .castAnnounce .w0 hBad 0 0 0,
   .castAnnounce .w0 h0 18446744073709551616 0 0,
   .castAnnounce .w0 h0 0 0 18446744073709551616,
   .castConfirm .w0 hBad 0 true,
   .castConfirm .w0 h0 18446744073709551616 true,
   .castDone .w0 hBad 0 .ok 0 0]

theorem test_wf_refuses_6 : illFormed6.all (fun i => !wellFormed i) = true := by decide

/-- Commands with one operand too large, or of the wrong length. -/
def illFormed7 : List Instr :=
  [.castDone .w0 h0 18446744073709551616 .ok 0 0,
   .castDone .w0 h0 0 .ok 18446744073709551616 0,
   .castDropReq .w0 hBad 0 0 0,
   .castDropReq .w0 h0 18446744073709551616 0 0,
   .chunkPut .w0 hBad 0 0 0 0 [],
   .chunkPut .w0 h0 65536 0 0 0 [],
   .chunkPut .w0 h0 0 65536 0 0 [],
   .chunkPut .w0 h0 0 0 0 4294967296 [],
   .journalCopy .w0 hBad 0 0 0 [] [],
   .journalCopy .w0 h0 18446744073709551616 0 0 [] [],
   .journalCopy .w0 h0 0 18446744073709551616 0 [] [],
   .journalCopy .w0 h0 0 0 65536 [] [],
   .journalCopy .w0 h0 0 0 0 [65536] [],
   .journalAck .w0 hBad 0 0 .placed,
   .journalAck .w0 h0 18446744073709551616 0 .placed,
   .journalAck .w0 h0 0 18446744073709551616 .placed,
   .stripeSeal .w0 hBad 0 0 0 0 (zeroBytes 32) 0 [],
   .stripeSeal .w0 h0 18446744073709551616 0 0 0 (zeroBytes 32) 0 [],
   .stripeSeal .w0 h0 0 4294967296 0 0 (zeroBytes 32) 0 [],
   .stripeSeal .w0 h0 0 0 4294967296 0 (zeroBytes 32) 0 [],
   .stripeSeal .w0 h0 0 0 0 4294967296 (zeroBytes 32) 0 [],
   .stripeSeal .w0 h0 0 0 0 0 [] 0 [],
   .stripeSeal .w0 h0 0 0 0 0 (zeroBytes 32) 65536 [],
   .fragPut .w0 hBad (fh0 64 .seal) []]

theorem test_wf_refuses_7 : illFormed7.all (fun i => !wellFormed i) = true := by decide

/-- Commands with one operand too large, or of the wrong length. -/
def illFormed8 : List Instr :=
  [.fragAck .w0 hBad 0 0 .done,
   .fragAck .w0 h0 18446744073709551616 0 .done,
   .fragAck .w0 h0 0 4294967296 .done,
   .sealCommit .w0 hBad 0 0,
   .sealCommit .w0 h0 18446744073709551616 0,
   .sealCommit .w0 h0 0 4294967296,
   .rangeRead .w0 hBad 0 0 0 true .client 0,
   .rangeRead .w0 h0 18446744073709551616 0 0 true .client 0,
   .rangeRead .w0 h0 0 18446744073709551616 0 true .client 0,
   .rangeRead .w0 h0 0 0 18446744073709551616 true .client 0,
   .rangeRead .w0 h0 0 0 0 true .client 18446744073709551616,
   .stripeListReq .w0 hBad 0 0 0 0,
   .stripeListReq .w0 h0 65536 0 0 0,
   .stripeListReq .w0 h0 0 64 0 0,
   .stripeListReq .w0 h0 0 0 0 65536,
   .stripeList .w0 hBad 0 0 true [],
   .stripeList .w0 h0 65536 0 true [],
   .stripeList .w0 h0 0 64 true [],
   .journalStateReq .w0 hBad 0 0,
   .journalStateReq .w0 h0 65536 0,
   .journalStateReq .w0 h0 0 18446744073709551616,
   .journalState .w0 hBad ({ stripe := 0, fill := 0, digest := [], lead := 0, journal := [], st := .opened, gen := 0, recs := [] }),
   .lostReport .w0 hBad 0 0 0 [] true,
   .lostReport .w0 h0 18446744073709551616 0 0 [] true]

theorem test_wf_refuses_8 : illFormed8.all (fun i => !wellFormed i) = true := by decide

/-- Commands with one operand too large, or of the wrong length. -/
def illFormed9 : List Instr :=
  [.lostReport .w0 h0 0 18446744073709551616 0 [] true,
   .lostReport .w0 h0 0 0 18446744073709551616 [] true,
   .lostReport .w0 h0 0 0 0 [[]] true,
   .fragRelease .w0 hBad 0 0,
   .fragRelease .w0 h0 18446744073709551616 0,
   .fragRelease .w0 h0 0 65536,
   .sealTimer 18446744073709551616,
   .refDelta .w0 hBad 0 0 0 true true 0 0 [],
   .refDelta .w0 h0 65536 0 0 true true 0 0 [],
   .refDelta .w0 h0 0 65536 0 true true 0 0 [],
   .refDelta .w0 h0 0 0 65536 true true 0 0 [],
   .refDelta .w0 h0 0 0 0 true true 18446744073709551616 0 [],
   .refDelta .w0 h0 0 0 0 true true 0 18446744073709551616 [],
   .refAck .w0 hBad 0 0 .applied 0 0 [],
   .refAck .w0 h0 65536 0 .applied 0 0 [],
   .refAck .w0 h0 0 65536 .applied 0 0 [],
   .refAck .w0 h0 0 0 .applied 18446744073709551616 0 [],
   .refQuery .w0 hBad 0 0 0 0,
   .refQuery .w0 h0 65536 0 0 0,
   .refQuery .w0 h0 0 65536 0 0,
   .refQuery .w0 h0 0 0 0 4294967296,
   .refAnswer .w0 hBad 0 0 0 0 true]

theorem test_wf_refuses_9 : illFormed9.all (fun i => !wellFormed i) = true := by decide

/-- Commands with one operand too large, or of the wrong length. -/
def illFormed10 : List Instr :=
  [.refAnswer .w0 h0 65536 0 0 0 true,
   .refAnswer .w0 h0 0 65536 0 0 true,
   .refAnswer .w0 h0 0 0 0 4294967296 true,
   .indexSyncReq .w0 hBad 0 0 0,
   .indexSyncReq .w0 h0 65536 0 0,
   .indexSyncReq .w0 h0 0 18446744073709551616 0,
   .indexSyncReq .w0 h0 0 0 18446744073709551616,
   .indexSync .w0 hBad 0 true 0 0 none,
   .indexSync .w0 h0 65536 true 0 0 none,
   .indexSync .w0 h0 0 true 18446744073709551616 0 none,
   .indexSync .w0 h0 0 true 0 18446744073709551616 none,
   .stripeThin .w0 hBad 0 0 0 0 [],
   .stripeThin .w0 h0 18446744073709551616 0 0 0 [],
   .stripeThin .w0 h0 0 18446744073709551616 0 0 [],
   .stripeThin .w0 h0 0 0 18446744073709551616 0 [],
   .stripeThin .w0 h0 0 0 0 65536 [],
   .thinData .w0 hBad 0 0 [],
   .thinData .w0 h0 18446744073709551616 0 [],
   .thinData .w0 h0 0 4294967296 [],
   .thinAck .w0 hBad 0 0 .ready,
   .thinAck .w0 h0 18446744073709551616 0 .ready,
   .thinAck .w0 h0 0 4294967296 .ready,
   .thinCommit .w0 hBad 0 0 true,
   .thinCommit .w0 h0 18446744073709551616 0 true]

theorem test_wf_refuses_10 : illFormed10.all (fun i => !wellFormed i) = true := by decide

/-- Commands with one operand too large, or of the wrong length. -/
def illFormed11 : List Instr :=
  [.thinCommit .w0 h0 0 4294967296 true,
   .recount 65536,
   .deltaBatchClose 65536 0,
   .deltaBatchClose 0 65536,
   .pendingRefAge 65536 0 0 0,
   .pendingRefAge 0 65536 0 0,
   .pendingRefAge 0 0 0 4294967296,
   .garbageSweep 65536,
   .replLink .w0 hBad ({ kind := .linkOffer, keyspace := 0, sourceWall := 0, remoteWall := 0, sourceCast := 0, remoteCast := 0, castTime := 0, ephemeral := [], signature := [], cert := [] }) none,
   .replOffer .w0 hBad 0 true 0 0 0 [],
   .replOffer .w0 h0 65536 true 0 0 0 [],
   .replOffer .w0 h0 0 true 0 18446744073709551616 0 [],
   .replOffer .w0 h0 0 true 0 0 18446744073709551616 [],
   .replNeed .w0 hBad 0 0 0 [],
   .replNeed .w0 h0 65536 0 0 [],
   .replNeed .w0 h0 0 18446744073709551616 0 [],
   .replNeed .w0 h0 0 0 18446744073709551616 [],
   .replNeed .w0 h0 0 0 0 [[]],
   .replChunk .w0 hBad 0 0 0 .stored (zeroBytes 32) (zeroBytes 12) [],
   .replChunk .w0 h0 65536 0 0 .stored (zeroBytes 32) (zeroBytes 12) [],
   .replChunk .w0 h0 0 18446744073709551616 0 .stored (zeroBytes 32) (zeroBytes 12) [],
   .replChunk .w0 h0 0 0 0 .stored [] (zeroBytes 12) [],
   .replChunk .w0 h0 0 0 0 .stored (zeroBytes 32) [] [],
   .replStaged .w0 hBad 0 0 0 true,
   .replStaged .w0 h0 65536 0 0 true]

theorem test_wf_refuses_11 : illFormed11.all (fun i => !wellFormed i) = true := by decide

/-- Commands with one operand too large, or of the wrong length. -/
def illFormed12 : List Instr :=
  [.replStaged .w0 h0 0 18446744073709551616 0 true,
   .replStaged .w0 h0 0 0 18446744073709551616 true,
   .free .w0 256 0 0,
   .free .w0 0 4294967296 0,
   .free .w0 0 0 18446744073709551616,
   .share .w0 256 0 0,
   .share .w0 0 4294967296 0,
   .share .w0 0 0 18446744073709551616,
   .release .w0 256 0 0,
   .release .w0 0 4294967296 0,
   .release .w0 0 0 18446744073709551616,
   .transfer .w0 256 0 0 0,
   .transfer .w0 0 4294967296 0 0,
   .transfer .w0 0 0 256 0,
   .transfer .w0 0 0 0 18446744073709551616,
   .cmRequest .w0 0 0 65536 true,
   .roceAckTimeout .w0 1024,
   .cnpReceive .w0 1024,
   .rateIncrease .w0 1024,
   .testEnd .fpn 256 0 0,
   .registerWrite .plinth 134217728 0 true 0,
   .registerWrite .plinth 0 65536 true 0,
   .sqDoorbell .w0 0 65536 [],
   .cqDoorbell .w0 0 65536]

theorem test_wf_refuses_12 : illFormed12.all (fun i => !wellFormed i) = true := by decide

/-- Commands with one operand too large, or of the wrong length. The list stands in the statement because Lean's code generator does not take the constructors of so high a number. -/
theorem test_wf_refuses_13 :
    List.all (α := Instr)
   [.d0Return .w0 32 0 [],
    .d0Return .w0 0 32 [],
    .powerSourceChange 65536 0 0 0 true true,
    .powerSourceChange 0 65536 0 0 true true,
    .powerSourceChange 0 0 65536 0 true true,
    .powerSourceChange 0 0 0 65536 true true,
    .pfRead 16777216 [],
    .pfProgram 16777216 (zeroBytes 32) true,
    .pfProgram 0 [] true,
    .pfErase 16777216,
    .pflRead .plinth 8 0,
    .pflRead .plinth 0 4,
    .removalAllowance 0 18446744073709551616 0,
    .presenceMake 64 0,
    .presenceMake 0 64,
    .stage 0 16 0 [] [],
    .stage 0 0 4 [] [],
    .capTestEnd 65536 0,
    .capTestEnd 0 65536,
    .inputOutOfRange .a 65536,
    .inputReconnect .a 65536,
    .powerGood 64 0,
    .powerGood 0 64,
    .linkTrain .w0 32 [] none] (fun i => !wellFormed i) = true := by decide

/-- Commands with one operand too large, or of the wrong length. The list stands in the statement because Lean's code generator does not take the constructors of so high a number. -/
theorem test_wf_refuses_14 :
    List.all (α := Instr)
   [.linkTrain .w0 0 [8] none,
    .settingsLoad .w0 true none [] [8],
    .clockMonitor .w0 32768,
    .tieLaneFail 32,
    .dieTest .plinth .w0 256 0,
    .dramMark none .w0 65536 .other,
    .rdmaWriteDone .w0 1024,
    .plinthPowerUp 65536 0 0 0 true true true true true true true 0 0,
    .plinthPowerUp 0 65536 0 0 true true true true true true true 0 0,
    .plinthPowerUp 0 0 65536 0 true true true true true true true 0 0,
    .plinthPowerUp 0 0 0 65536 true true true true true true true 0 0,
    .plinthPowerUp 0 0 0 0 true true true true true true true 64 0,
    .plinthPowerUp 0 0 0 0 true true true true true true true 0 64,
    .removeReturnTicket 0 4294967296,
    .refusedBar0Read .w0 134217728 0,
    .refusedBar0Read .w0 0 65536] (fun i => !wellFormed i) = true := by decide

/-- A queue of 10 bits is well formed at its largest. -/
theorem test_wf_takes_queue : wellFormed (.queueReset .w0 1023 ⟨.zero, []⟩) = true := by decide

/-! ### Figures of the spec's worked examples -/

/-- Tile 61 of wythe 1 drives channel 45 (00_scope). -/
theorem test_tile_61_drives_channel_45 : unitChans (.til .w1 61) = [45] := by decide

/-- The partition map of the example wall of 48 bricks has 793,408 bytes (02). -/
theorem test_map_of_48_bricks : mapLen { version := 1, epoch := 7, parts := [], bricks := (List.range 48).map mb } = 793408 := by decide

/-- The IV of chunk 0 of the example (06). -/
theorem test_iv_of_chunk_0 : ivOf 0x3A71 .w0 0x25 0x02C71A3E = [0x3A, 0x71, 0x25, 0, 0, 0, 0, 0, 0x02, 0xC7, 0x1A, 0x3E] := by decide

/-- A fingerprint that begins 0x9B41_0E27 falls in group 3,623 of 4,096 (05). -/
theorem test_group_of_chunk_0 : groupOf 4096 [0x9B, 0x41, 0x0E, 0x27] = 3623 := by decide

/-- Fragment 0x0E27_0000_0000_C685 is index 5 of stripe 794 of group 3,623 (05). -/
theorem test_fragment_id : fragId 3623 794 5 = 0x0E2700000000C685 ∧ fragIndex 0x0E2700000000C685 = 5 ∧ fragGroup 0x0E2700000000C685 = 3623 := by decide

/-- The handle of index 0x01_F3A5 of pool 3 at generation 7 (13). -/
theorem test_handle_of_the_example : handleOf 3 7 0x1F3A5 = 0x6701F3A5 := by decide

/-- Sectors 58 and 2,191 belong to the recorder; slot 59 of sector 2,191 stands at 0x0088_FEC0 (16). -/
theorem test_recorder_sectors : areaOf 58 = .recorder ∧ areaOf (0x88FEC0 / 4096) = .recorder ∧ areaOf 59 = .spare := by decide

/-! ### Single steps -/

/-- What a step leaves. -/
def after (o : Host.Outcome State Fault Refusal) : State := match o with | .next t => t | _ => State.reset

/-- FREE raises the buffer's generation from 7 to 8 (13). -/
theorem test_free_raises_generation :
    let t := after (exec (.free .w0 3 (handleOf 3 7 0) 5) (spool { buf0 with gen := 7 }))
    (bufOf (t.pool .w0 3) 0).gen = 8 ∧ (bufOf (t.pool .w0 3) 0).st = 0 := by decide

/-- A retried FREE of the handle of the generation before gives DOUBLE_FREE, 0x02 (13). -/
theorem test_free_again : .bpm .w0 3 2 (handleOf 3 7 0) 5 ∈ (after (exec (.free .w0 3 (handleOf 3 7 0) 5) (spool { buf0 with gen := 8, st := 0 }))).out := by
  decide

/-- A late FREE of a buffer allocated again gives STALE_HANDLE, 0x04 (13). -/
theorem test_free_late : .bpm .w0 3 4 (handleOf 3 7 0) 5 ∈ (after (exec (.free .w0 3 (handleOf 3 7 0) 5) (spool { buf0 with gen := 8 }))).out := by
  decide

/-- An underrun at STEP 2 makes it 3 (14). -/
theorem test_underrun_raises_step :
    let s := (sport (fun p => { p with sending := some snd0 })).setReg (macPage .w0 0) MAC_TX_THRESH 2
    (after (exec (.transmitUnderrun .w0 0) s)).rfld (macPage .w0 0) MAC_TX_THRESH 2 0 = 3 := by decide

/-- A queue reset at epoch 3 raises the epoch to 4 (03). -/
theorem test_queue_reset_raises_epoch :
    let s := s0.modRelief .w0 (fun r => { r with queues := [{ q0 with epoch := 3 }] })
    ((after (exec (.queueReset .w0 5 ⟨{ cap0 with qepoch := 3 }, []⟩) s)).wy .w0).relief.queue 5 = some { q0 with
      epoch := 4, lastCapsule := 200000000000000 } := by decide

/-- The client's tail of 42 stands in the queue page (15). -/
theorem test_sq_tail :
    let s := slink.modWy .w0 (fun y => { y with pcie := { y.pcie with pages := [{ QPage.reset 2 with st := .opened, epoch := 1, sqTail := 40, sqHead := 40 }] } })
    (qpage ((after (exec (.sqDoorbell .w0 2 42 []) s)).wy .w0).pcie 2).sqTail = 42 := by decide

/-- Writing 1 to a set bit of EVT_STATUS clears that bit alone (R404). -/
theorem test_event_bit_cleared :
    (after (exec (.evtStatusClear (.tile .w0) (.til .w0 5) 1) (s0.setReg (.til .w0 5) EVT_STATUS 3))).reg (.til .w0 5) EVT_STATUS = 2 := by decide

/-- GLB_PART reads 0x0001_0410 after reset (15). -/
theorem test_part_after_reset : State.reset.reg (.glb .w0) GLB_PART = 0x00010410 := by decide

/-- An empty queue steps to a state with an empty queue, later in time. -/
theorem test_idle_lets_time_pass : (after (step { s0 with pending := [] })).pending = [] := by decide +kernel

/-! ### A Zstandard frame of 65,536 bytes -/

/-- The header of a frame of 65,536 bytes in one segment, and what follows it. -/
def zHead (b : Bytes) : Bytes := [0x28, 0xB5, 0x2F, 0xFD, 0x60, 0x00, 0xFF] ++ b

/-- A raw block that is the last adds its bytes. -/
theorem zBlocks_last (f size window : Nat) (b : Bytes) (r : Bytes) (z : ZState) (hb : b.length = 3) (hs : ofLe b / 8 = size)
    (hk : ofLe b / 2 % 4 = 0) (hl : ofLe b % 2 = 1) (hr : r.length = size) (hw : size ≤ min window 131072) :
    zBlocks window (f + 1) (b ++ r) z = some ([], { z with out := r.reverse ++ z.out }) := by
  have h3 : (b ++ r).take 3 = b := by rw [← hb]; simp
  have h4 : (b ++ r).drop 3 = r := by rw [← hb]; simp
  have h5 : r.take size = r := by rw [← hr]; simp
  have h6 : r.drop size = [] := by rw [← hr]; simp
  have h7 : ¬((b ++ r).length < 3 ∨ min window 131072 < size) := by simp only [List.length_append]; omega
  have h8 : ¬(r.length < size) := by omega
  have h9 : ¬(z.out.length + min window 131072 < (r.reverse ++ z.out).length) := by
    simp only [List.length_append, List.length_reverse]; omega
  simp only [zBlocks, h3, h4, h5, h6, hs, hk, hl, Bool.or_eq_true, decide_eq_true_eq, h7, h8, h9, ↓reduceIte, Option.bind_eq_bind,
    Option.bind_some]

/-- A block of one repeated byte adds it so many times, and the next block follows. -/
theorem zBlocks_rle (f size window : Nat) (b : Bytes) (x : Byte) (r : Bytes) (z : ZState) (hb : b.length = 3) (hs : ofLe b / 8 = size)
    (hk : ofLe b / 2 % 4 = 1) (hl : ofLe b % 2 = 0) (hw : size ≤ min window 131072) :
    zBlocks window (f + 1) (b ++ x :: r) z = zBlocks window f r { z with out := List.replicate size x ++ z.out } := by
  have h3 : (b ++ x :: r).take 3 = b := by rw [← hb]; simp
  have h4 : (b ++ x :: r).drop 3 = x :: r := by rw [← hb]; simp
  have h7 : ¬((b ++ x :: r).length < 3 ∨ min window 131072 < size) := by simp only [List.length_append]; omega
  have h9 : ¬(z.out.length + min window 131072 < (List.replicate size x ++ z.out).length) := by
    simp only [List.length_append, List.length_replicate]; omega
  simp [zBlocks, h3, h4, hs, hk, hl]
  rw [if_neg (by omega), if_neg (by omega)]

/-- What that header says. -/
theorem zHeader_zHead (r : Bytes) : zHeader (zHead r) = some { window := 65536, content := some 65536, checksum := false, length := 7 } := by
  have h1 : ¬(zHead r).length < 7 := by simp [zHead]
  have h2 : (zHead r).take 4 = [0x28, 0xB5, 0x2F, 0xFD] := rfl
  have h3 : sliceBytes (zHead r) 5 2 = [0x00, 0xFF] := rfl
  have h4 : (zHead r)[4]? = some 0x60 := rfl
  have h5 : sliceBytes (zHead r) 5 0 = [] := rfl
  have g5 : ofLe [] = 0 := rfl
  simp [zHeader, h1, h2, h3, h4, h5, g5, bits, b2n]
  exact ⟨by decide, by decide⟩

/-- The frame of m repeated and n raw bytes is a compressed form of them. -/
theorem zstd_two_blocks (n m : Nat) (b c : Bytes) (hb : b.length = 3) (hc : c.length = 3) (hs : ofLe b / 8 = m)
    (hk : ofLe b / 2 % 4 = 1) (he : ofLe b % 2 = 0) (hs2 : ofLe c / 8 = n) (hk2 : ofLe c / 2 % 4 = 0) (hl2 : ofLe c % 2 = 1) (h : m + n = 65536) :
    compressedForm .zstd (List.replicate (m + n) 1) (zHead (b ++ 1 :: (c ++ List.replicate n 1))) = true := by
  obtain ⟨f, hf⟩ : ∃ f, (zHead (b ++ 1 :: (c ++ List.replicate n 1))).length + 1 = f + 1 + 1 :=
    ⟨(zHead (b ++ 1 :: (c ++ List.replicate n 1))).length - 1, by simp only [zHead, List.length_append, List.length_cons]; omega⟩
  have hm : m ≤ min 65536 131072 := by omega
  have hn : n ≤ min 65536 131072 := by omega
  have hd : (zHead (b ++ 1 :: (c ++ List.replicate n 1))).drop 7 = b ++ 1 :: (c ++ List.replicate n 1) := rfl
  obtain ⟨d, hdd⟩ : ∃ d, d = List.replicate (m + n) (1 : Byte) := ⟨_, rfl⟩
  have hl : d.length = 65536 := by rw [hdd, List.length_replicate, h]
  rw [← hdd]
  have e : ((List.replicate n (1 : Byte)).reverse ++ (List.replicate m 1 ++ [])).reverse = d := by
    rw [hdd, List.append_nil, List.reverse_replicate, List.replicate_append_replicate, List.reverse_replicate, Nat.add_comm]
  have w : ¬262144 < 65536 := by decide
  simp only [compressedForm, decodeBytes, zstdDecode, zHeader_zHead, Option.bind_eq_bind, Option.bind_some, hf, hd,
    zBlocks_rle _ m 65536 b 1 _ _ hb hs hk he hm, zBlocks_last _ n 65536 c _ _ hc hs2 hk2 hl2 (List.length_replicate ..) hn, e,
    hl, w, Bool.false_eq_true, ↓reduceIte]
  simp

/-! ### Known answers of the standards that the spec names -/

/-- The message abc (FIPS 180-4). -/
theorem test_sha256_abc : ofBe (sha256 (ascii "abc")) = 0xBA7816BF8F01CFEA414140DE5DAE2223B00361A396177A9CB410FF61F20015AD := by decide +kernel

/-- The message abc (FIPS 180-4). -/
theorem test_sha384_abc :
    ofBe (sha384 (ascii "abc"))
      = 0xCB00753F45A35E8BB5A03D699AC65007272C32AB0EDED1631A8B605A43FF5BED8086072BA1E7CC2358BAECA134C825A7 := by decide +kernel

/-- AES-256-GCM of 16 zero bytes under a key and an IV of zeros (the GCM specification's case 14). -/
theorem test_gcm_of_zeros :
    gcmSeal (zeroBytes 32) (zeroBytes 12) [] (zeroBytes 16)
      = (beBytes 16 0xCEA7403D4D606B6E074EC5D3BAF39D18, beBytes 16 0xD0D1C8A799996BF0265B98B5D48AB919) := by decide +kernel

/-- A stored block of DEFLATE (RFC 1951). -/
theorem test_inflate_stored : inflate [1, 2, 0, 0xFD, 0xFF, 7, 8] = some [7, 8] := by decide +kernel

/-! ### The hypotheses of every statement can be met -/

/-- Each clause of StepTakesFront has a state and operands that meet its hypotheses. -/
theorem witness_StepTakesFront :
    ∃ (c : Instr) (rest : List Instr) (s : State),
      (s.pending = c :: rest) :=
  ⟨.crossResetDelay, [.startTimeout], { s0 with pending := [.crossResetDelay, .startTimeout] }, rfl⟩

/-- Each clause of RegistersStayCanonical has a state and operands that meet its hypotheses. -/
theorem witness_RegistersStayCanonical :
    ∃ (s : State) (t : State),
      (s.canon) ∧ (step s = Host.Outcome.next t) :=
  ⟨State.reset, _, by unfold State.canon; decide +kernel, rfl⟩

/-- Each clause of CommandsWaitForAdmission has a state and operands that meet its hypotheses. -/
theorem witness_CommandsWaitForAdmission :
    ∃ (op : Opcode) (w : Wy) (q : Nat) (m : Msg) (x : Queue) (s : State),
      (arrives op w q m x s) ∧ (op ≠ Opcode.flush) ∧ (op ≠ Opcode.subscribe) ∧ (isRead op = true → capFlag m.cap 2 = false) ∧ (s.pausing = false) ∧ ((isWrite op || isCast op) = true → s.keptOutcome op m.cap.keyspace m.cap.requestId = none ∧ s.ridRunning m.cap.keyspace m.cap.requestId (broughtBy op w q m x s).id w = false) ∧ (s.earlyFails (broughtBy op w q m x s) = false) :=
  ⟨.hello, .w0, 5, ⟨capH, []⟩, { q0 with lastCapsule := 200000000000000 }, sq [], by unfold arrives; decide, by decide, by decide, by decide, by decide, by decide, by decide⟩

/-- Each clause of FlushAndSubscribeAtOnce has a state and operands that meet its hypotheses. -/
theorem witness_FlushAndSubscribeAtOnce :
    (∃ (w : Wy) (q : Nat) (m : Msg) (x : Queue) (p : Nat) (g : BitVec 128) (s : State),
      (x.transport = Transport.roce p g) ∧ (arrives Opcode.flush w q m x s) ∧ (∀ (c : Cmd), c ∈ (s.wy w).relief.cmds → c.q ≠ x.idx) ∧ (∀ (u : Nat × Nat), u ∈ (s.wy w).relief.unsealed → u.fst ≠ x.idx))
    ∧ (∃ (w : Wy) (q : Nat) (m : Msg) (x : Queue) (p : Nat) (g : BitVec 128) (s : State),
      (x.transport = Transport.roce p g) ∧ (arrives Opcode.subscribe w q m x s)) :=
  ⟨⟨.w0, 5, ⟨cap0, []⟩, { q0 with lastCapsule := 200000000000000 }, 4096, 0, sq [], by decide, by unfold arrives; decide, by decide, by decide⟩,
   ⟨.w0, 5, ⟨{ cap0 with aux := 511 }, []⟩, { q0 with lastCapsule := 200000000000000 }, 4096, 0, sq [], by decide, by unfold arrives; decide⟩⟩

/-- Each clause of QueueMessagesAnswered has a state and operands that meet its hypotheses. -/
theorem witness_QueueMessagesAnswered :
    (∃ (w : Wy) (q : Nat) (m : Msg) (x : Queue) (p : Nat) (g : BitVec 128) (s : State) (id : Nat) (sealed : List Nat) (c : Cmd),
      ((s.wy w).relief.queue q = some x) ∧ (x.transport = Transport.roce p g) ∧ (s.holdup = none) ∧ (s.pwr.ps = 0) ∧ ((s.wy w).relief.cmd id = some c) ∧ (c.q = q) ∧ (c.op = Opcode.flush) ∧ (c.phase = Phase.flushing) ∧ (c.suppressed = false) ∧ ((s.modRelief w fun r => { queues := r.queues, cmds := r.cmds, commits := r.commits, nextCmd := r.nextCmd, lastMeta := r.lastMeta, lastRead := r.lastRead, lastWrite := r.lastWrite, uploads := r.uploads, held := r.held, drain := r.drain, unsealed := List.filter (fun u => !sealed.contains u.snd) r.unsealed, pulls := r.pulls }).flushReady w c = true))
    ∧ (∃ (w : Wy) (q : Nat) (m : Msg) (x : Queue) (p : Nat) (g : BitVec 128) (s : State),
      ((s.wy w).relief.queue q = some x) ∧ (x.transport = Transport.roce p g) ∧ (s.holdup = none) ∧ (s.pwr.ps = 0) ∧ (x.st = QState.opened) ∧ (x.dma = 0) ∧ (x.acks = []) ∧ (controlFault 1 m = none))
    ∧ (∃ (w : Wy) (q : Nat) (m : Msg) (x : Queue) (p : Nat) (g : BitVec 128) (s : State),
      ((s.wy w).relief.queue q = some x) ∧ (x.transport = Transport.roce p g) ∧ (s.holdup = none) ∧ (s.pwr.ps = 0) ∧ (x.st = QState.opened) ∧ (x.dma = 0) ∧ (x.acks = []) ∧ (controlFault 2 m = none))
    ∧ (∃ (w : Wy) (q : Nat) (m : Msg) (x : Queue) (p : Nat) (g : BitVec 128) (s : State),
      ((s.wy w).relief.queue q = some x) ∧ (x.transport = Transport.roce p g) ∧ (s.holdup = none) ∧ (s.pwr.ps = 0) ∧ (x.st = QState.opened) ∧ (x.acks = []) ∧ (controlFault 3 m = none))
    ∧ (∃ (w : Wy) (q : Nat) (m : Msg) (x : Queue) (p : Nat) (g : BitVec 128) (s : State) (b : Bytes),
      ((s.wy w).relief.queue q = some x) ∧ (x.transport = Transport.roce p g) ∧ (s.holdup = none) ∧ (s.pwr.ps = 0) ∧ (x.st ≠ QState.closing) ∧ (kindOf b ≠ 1) ∧ (kindOf b ≠ 2))
    ∧ (∃ (w : Wy) (q : Nat) (m : Msg) (x : Queue) (p : Nat) (g : BitVec 128) (s : State),
      ((s.wy w).relief.queue q = some x) ∧ (x.transport = Transport.roce p g) ∧ (s.holdup = none) ∧ (s.pwr.ps = 0) ∧ (x.st ≠ QState.closing) ∧ (checkLength m = none) ∧ (checkEpoch x m = none) ∧ (checkTag (s.wy w).relief [] q m = none))
    ∧ (∃ (w : Wy) (q : Nat) (m : Msg) (x : Queue) (p : Nat) (g : BitVec 128) (s : State),
      ((s.wy w).relief.queue q = some x) ∧ (x.transport = Transport.roce p g) ∧ (s.holdup = none) ∧ (s.pwr.ps = 0) ∧ (x.st ≠ QState.closing) ∧ (controlFault 0 m = some Detail.unknownOpcode)) :=
  ⟨⟨.w0, 5, ⟨cap0, []⟩, q0, 4096, 0, (sq [c0 .flush .flushing]).modRelief .w0 (fun r => { r with unsealed := [(5, 64)] }), 0, [64], c0 .flush .flushing, by decide, by decide, by decide, by decide, by decide, by decide, by decide, by decide, by decide, by decide⟩,
   ⟨.w0, 5, ⟨cap0, []⟩, q0, 4096, 0, sq [c0 .get .waiting], by decide, by decide, by decide, by decide, by decide, by decide, by decide, by decide⟩,
   ⟨.w0, 5, ⟨cap0, []⟩, q0, 4096, 0, sq [c0 .get .waiting], by decide, by decide, by decide, by decide, by decide, by decide, by decide, by decide⟩,
   ⟨.w0, 5, ⟨cap0, []⟩, q0, 4096, 0, sq [c0 .get .waiting], by decide, by decide, by decide, by decide, by decide, by decide, by decide⟩,
   ⟨.w0, 5, ⟨cap0, []⟩, q0, 4096, 0, sq [], [], by decide, by decide, by decide, by decide, by decide, by decide, by decide⟩,
   ⟨.w0, 5, ⟨cap0, []⟩, q0, 4096, 0, sq [], by decide, by decide, by decide, by decide, by decide, by decide, by decide, by decide⟩,
   ⟨.w0, 5, ⟨cap0, []⟩, q0, 4096, 0, sq [], by decide, by decide, by decide, by decide, by decide, by decide⟩⟩

/-- Each clause of QueueEventsAct has a state and operands that meet its hypotheses. -/
theorem witness_QueueEventsAct :
    (∃ (w : Wy) (q : Nat) (x : Queue) (p : Nat) (g : BitVec 128) (s : State) (len : Nat),
      ((s.wy w).relief.queue q = some x) ∧ (x.transport = Transport.roce p g) ∧ (len < 64 ∨ 5184 < len))
    ∧ (∃ (w : Wy) (q : Nat) (x : Queue) (p : Nat) (g : BitVec 128) (s : State),
      ((s.wy w).relief.queue q = some x) ∧ (x.transport = Transport.roce p g))
    ∧ (∃ (w : Wy) (q : Nat) (x : Queue) (p : Nat) (g : BitVec 128) (s : State),
      ((s.wy w).relief.queue q = some x) ∧ (x.transport = Transport.roce p g) ∧ (x.lastCapsule + 60000000000 ≤ s.now))
    ∧ (∃ (w : Wy) (q : Nat) (x : Queue) (p : Nat) (g : BitVec 128) (s : State),
      ((s.wy w).relief.queue q = some x) ∧ (x.transport = Transport.roce p g))
    ∧ (∃ (w : Wy) (q : Nat) (x : Queue) (p : Nat) (g : BitVec 128) (s : State),
      ((s.wy w).relief.queue q = some x) ∧ (x.transport = Transport.roce p g) ∧ (x.acks = []))
    ∧ (∃ (w : Wy) (q : Nat) (x : Queue) (p : Nat) (g : BitVec 128) (s : State) (id : Nat) (c : Cmd),
      ((s.wy w).relief.queue q = some x) ∧ (x.transport = Transport.roce p g) ∧ ((s.wy w).relief.cmd id = some c) ∧ (c.q = q) ∧ (c.suppressed = false) ∧ (s.holdup = none) ∧ (c.phase = Phase.waiting) ∧ (c.waitFrom + s.afld (Page.rlf w) RLF_ADMIT_CTRL 9 0 * 1000000 < s.now))
    ∧ (∃ (w : Wy) (q : Nat) (x : Queue) (p : Nat) (g : BitVec 128) (s : State) (id : Nat) (c : Cmd) (n : Nat),
      ((s.wy w).relief.queue q = some x) ∧ (x.transport = Transport.roce p g) ∧ ((s.wy w).relief.cmd id = some c) ∧ (c.phase = Phase.heldTime) ∧ (keyedPart c.op c.cap c.key = some n) ∧ (s.holdsTime w n c.castTime = false) ∧ (s.checkTime w c.op c.cap n = none)) :=
  ⟨⟨.w0, 5, q0, 4096, 0, sq [c0 .get .waiting], 5185, by decide, by decide, by decide⟩,
   ⟨.w0, 5, q0, 4096, 0, sq [], by decide, by decide⟩,
   ⟨.w0, 5, { q0 with lastCapsule := 199940000000000 }, 4096, 0, s0.modRelief .w0 (fun r => { r with queues := [{ q0 with lastCapsule := 199940000000000 }] }), by decide, by decide, by decide⟩,
   ⟨.w0, 5, q0, 4096, 0, sq [], by decide, by decide⟩,
   ⟨.w0, 5, { q0 with dma := 2 }, 4096, 0, s0.modRelief .w0 (fun r => { r with queues := [{ q0 with dma := 2 }] }), by decide, by decide, by decide⟩,
   ⟨.w0, 5, q0, 4096, 0, sq [c0 .get .waiting], 0, c0 .get .waiting, by decide, by decide, by decide, by decide, by decide, by decide, by decide, by decide⟩,
   ⟨.w0, 5, q0, 4096, 0, (sq [c0 .list .heldTime]).modWy .w0 (fun y => { y with clk := { y.clk with inSync := true } }), 0, c0 .list .heldTime, 0, by decide, by decide, by decide, by decide, by decide, by decide, by decide⟩⟩

/-- Each clause of AdmissionRunsHello has a state and operands that meet its hypotheses. -/
theorem witness_AdmissionRunsHello :
    ∃ (w : Wy) (c : Cmd) (x : Queue) (p : Nat) (g : BitVec 128) (s : State),
      ((s.wy w).relief.cmds = [c]) ∧ (c.op = Opcode.hello) ∧ (c.phase = Phase.waiting) ∧ (c.suppressed = false) ∧ (256 ≤ c.cap.length.toNat) ∧ ((s.wy w).relief.queue c.q = some x) ∧ (x.transport = Transport.roce p g) ∧ (s.holdup = none) :=
  ⟨.w0, { c0 .hello .waiting with cap := { cap0 with length := 256, aux := 1 } }, q0, 4096, 0, sq [{ c0 .hello .waiting with cap := { cap0 with length := 256, aux := 1 } }], by decide, by decide, by decide, by decide, by decide, by decide, by decide, by decide⟩

/-- Each clause of RecordsAge has a state and operands that meet its hypotheses. -/
theorem witness_RecordsAge :
    (∃ (w : Wy) (s : State) (u : Upload),
      (u ∈ (s.wy w).relief.uploads) ∧ (∀ (v : Upload), v ∈ (s.wy w).relief.uploads → v.id = u.id → v = u) ∧ (u.openedAt + 86400000000000 ≤ s.now))
    ∧ (∃ (w : Wy) (s : State) (o : OutcomeRec),
      (o ∈ s.store.outcomes) ∧ (o.st ≠ OutcomeSt.idOnly) ∧ (o.since + s.wall.settings.retainS * 1000000000 ≤ s.now))
    ∧ (∃ (w : Wy) (s : State) (o : OutcomeRec),
      (o ∈ s.store.outcomes) ∧ (o.st = OutcomeSt.idOnly) ∧ (o.since + s.wall.settings.retainS * 1000000000 ≤ s.now)) :=
  ⟨⟨.w0, s0.modRelief .w0 (fun r => { r with uploads := [{ id := 1, keyspace := 2, key := [1], openedAt := 113600000000000, parts := [] }] }), { id := 1, keyspace := 2, key := [1], openedAt := 113600000000000, parts := [] }, by decide, by decide, by decide⟩,
   ⟨.w0, s0.modStore (fun t => { t with outcomes := [{ keyspace := 2, requestId := 4, st := .neverStarted, since := 199400000000000 }] }), { keyspace := 2, requestId := 4, st := .neverStarted, since := 199400000000000 }, by decide, by decide, by decide⟩,
   ⟨.w0, s0.modStore (fun t => { t with outcomes := [{ keyspace := 2, requestId := 4, st := .idOnly, since := 199400000000000 }] }), { keyspace := 2, requestId := 4, st := .idOnly, since := 199400000000000 }, by decide, by decide, by decide⟩⟩

/-- Each clause of WritePathAdvances has a state and operands that meet its hypotheses. -/
theorem witness_WritePathAdvances :
    (∃ (w : Wy) (id : Nat) (n : Nat) (c : Cmd) (s : State) (o : WriteOp) (data : Bytes) (p : Nat × Nat × Nat),
      ((s.wy w).relief.cmd id = some c) ∧ (c.phase = Phase.running) ∧ (c.ops[n]? = some o) ∧ (o.op ≠ Opcode.patch) ∧ (List.find? (fun p => decide (p.fst = id) && decide (p.snd.fst = n)) (s.wy w).relief.pulls = some p) ∧ (List.length data = o.asked - List.length o.data))
    ∧ (∃ (w : Wy) (id : Nat) (n : Nat) (c : Cmd) (s : State) (o : WriteOp) (tile : Fin 128),
      ((s.wy w).relief.cmd id = some c) ∧ (c.phase = Phase.running) ∧ (s.codecTile w CodecUnit.hash (JobRef.cut id n) = some tile) ∧ (c.ops[n]? = some o) ∧ (o.op ≠ Opcode.patch ∨ cutEnds o (nextCut o (o.cutPos + cutLen s.gear 0 0 (newBytes c n o o.cutPos (cutHi o)))) = true))
    ∧ (∃ (w : Wy) (id : Nat) (n : Nat) (c : Cmd) (s : State) (x : WChunk) (out : Bytes) (tile : Fin 128),
      ((s.wy w).relief.cmd id = some c) ∧ (c.phase = Phase.running) ∧ (s.codecTile w CodecUnit.compress (JobRef.writeChunk id n) = some tile) ∧ (c.wchunks[n]? = some x) ∧ (compressedForm x.codec x.data out = true))
    ∧ (∃ (w : Wy) (id : Nat) (n : Nat) (c : Cmd) (s : State) (x : WChunk) (h : MHead) (g : Nat) (p : Nat) (place : Place),
      ((s.wy w).relief.cmd id = some c) ∧ (c.phase = Phase.running) ∧ (s.hears w = true) ∧ (h.epoch = s.wall.epoch) ∧ (s.writeOf w p c.cap.requestId = some c) ∧ (c.wchunks[n]? = some x) ∧ (x.stage = WStage.sent) ∧ (x.dropped = false) ∧ ((c.ops.all fun o => o.cutDone) = false) ∧ (∀ (d : Cmd), d ∈ (s.wy w).relief.cmds → d.op ≠ Opcode.putClose))
    ∧ (∃ (w : Wy) (id : Nat) (n : Nat) (c : Cmd) (s : State) (x : WChunk) (b : Nat),
      ((s.wy w).relief.cmd id = some c) ∧ (c.phase = Phase.running) ∧ (c.wchunks[n]? = some x) ∧ (x.stage = WStage.sent) ∧ (x.dropped = false) ∧ (x.lastSent + 20000000 ≤ s.now) ∧ (s.leadOf (groupOf s.wall.settings.groups x.fp) = some b) ∧ (s.holdup = none) ∧ (b = s.myId ∨ creditUnits (List.length x.body) ≤ creditTo (s.wy w).mortar b (wyOfGroup (groupOf s.wall.settings.groups x.fp))))
    ∧ (∃ (w : Wy) (id : Nat) (n : Nat) (c : Cmd) (s : State) (x : WChunk) (q : Queue) (p : Nat) (g : BitVec 128),
      ((s.wy w).relief.cmd id = some c) ∧ (c.phase = Phase.running) ∧ (c.wchunks[n]? = some x) ∧ (x.stage = WStage.sent) ∧ (x.dropped = false) ∧ (x.firstSent + 2000000000 ≤ s.now) ∧ (c.suppressed = false) ∧ (s.holdup = none) ∧ ((s.wy w).relief.queue c.q = some q) ∧ (q.transport = Transport.roce p g)) :=
  ⟨⟨.w0, 0, 0, cw (op0 false) [], (sk [cw (op0 false) []]).modRelief .w0 (fun r => { r with pulls := [(0, 0, 5)] }), op0 false, List.replicate 16 1, (0, 0, 5), by decide, by decide, by decide, by decide, by decide, by decide⟩,
   ⟨.w0, 0, 0, cw (op0 true) [], sc (cw (op0 true) []) .hash (.cut 0 0), op0 true, 2, by decide, by decide, by decide, by decide, by decide⟩,
   ⟨.w0, 0, 0, cw (op0 true) [wcz .deflate 16], sc (cw (op0 true) [wcz .deflate 16]) .compress (.writeChunk 0 0), wcz .deflate 16, [99, 100, 68, 5, 0], 2, by decide, by decide, by decide, by decide, by decide +kernel⟩,
   ⟨.w0, 0, 0, cw (op0 true) [wch .sent], sk [cw (op0 true) [wch .sent]], wch .sent, h0, 0, cmdPart (cw (op0 true) [wch .sent]), pl0, by decide, by decide, by decide, by decide, by decide +kernel, by decide, by decide, by decide, by decide⟩,
   ⟨.w0, 0, 0, cw (op0 true) [wch .sent], sk [cw (op0 true) [wch .sent]], wch .sent, 3, by decide, by decide, by decide, by decide, by decide, by decide, by decide, by decide⟩,
   ⟨.w0, 0, 0, cw (op0 true) [wch .sent], sk [cw (op0 true) [wch .sent]], wch .sent, q0, 4096, 0, by decide, by decide, by decide, by decide, by decide, by decide, by decide, by decide, by decide⟩⟩

/-- Each clause of ReadPathAdvances has a state and operands that meet its hypotheses. -/
theorem witness_ReadPathAdvances :
    (∃ (w : Wy) (id : Nat) (n : Nat) (c : Cmd) (x : RChunk) (s : State) (a : RangeAsk) (l : List RangeAsk),
      ((s.wy w).relief.cmd id = some c) ∧ (c.phase = Phase.running) ∧ (c.rchunks[n]? = some x) ∧ (x.stage = RStage.fetching) ∧ (x.asked = [a]) ∧ (a.pending = false) ∧ (a.at_ + 20000000 ≤ s.now) ∧ (s.holdup = none) ∧ ((s.moreAsks (segsOf s.wall.settings.fragBytes x.ent.place) [] x.parts (x.bad ++ [a.idx]) fun l => l) = some l))
    ∧ (∃ (w : Wy) (id : Nat) (n : Nat) (c : Cmd) (x : RChunk) (s : State) (d : Bytes) (tile : Fin 128),
      ((s.wy w).relief.cmd id = some c) ∧ (c.phase = Phase.running) ∧ (c.rchunks[n]? = some x) ∧ (s.codecTile w CodecUnit.decompress (JobRef.readChunk id n) = some tile) ∧ (decodeBytes (ofLe (sliceBytes x.body 16 1)) x.data = some d) ∧ (List.length d = ofLe (sliceBytes x.body 12 4)) ∧ (s.wantsVerify c = true))
    ∧ (∃ (w : Wy) (id : Nat) (n : Nat) (c : Cmd) (x : RChunk) (s : State) (d : Bytes) (tile : Fin 128) (v : ValueVer) (q : Queue) (p : Nat) (g : BitVec 128),
      ((s.wy w).relief.cmd id = some c) ∧ (c.phase = Phase.running) ∧ (c.rchunks[n]? = some x) ∧ (s.codecTile w CodecUnit.decompress (JobRef.readChunk id n) = some tile) ∧ (decodeBytes (ofLe (sliceBytes x.body 16 1)) x.data = some d) ∧ (List.length d = ofLe (sliceBytes x.body 12 4)) ∧ (s.wantsVerify c = false) ∧ (c.rchunks = [x]) ∧ (c.op = Opcode.get) ∧ (c.readVer = some v) ∧ (c.suppressed = false) ∧ (s.holdup = none) ∧ ((s.wy w).relief.queue c.q = some q) ∧ (q.transport = Transport.roce p g))
    ∧ (∃ (w : Wy) (id : Nat) (n : Nat) (c : Cmd) (x : RChunk) (s : State) (v : ValueVer) (tile : Fin 128) (q : Queue) (p : Nat) (g : BitVec 128),
      ((s.wy w).relief.cmd id = some c) ∧ (c.phase = Phase.running) ∧ (c.rchunks[n]? = some x) ∧ (s.codecTile w CodecUnit.hash (JobRef.readChunk id n) = some tile) ∧ (c.rchunks = [x]) ∧ (c.op = Opcode.get) ∧ (c.readVer = some v) ∧ (sha256 (s.salt c.cap.keyspace ++ x.data) = x.ent.fp) ∧ (c.suppressed = false) ∧ (s.holdup = none) ∧ ((s.wy w).relief.queue c.q = some q) ∧ (q.transport = Transport.roce p g)) :=
  ⟨⟨.w0, 0, 0, cr { rch .fetching with asked := [ask0] }, { rch .fetching with asked := [ask0] }, sfetch, ask0, [{ seg := 0, idx := 1, brick := 1, pending := false, at_ := 200000000000000 }, { seg := 0, idx := 2, brick := 2, pending := false, at_ := 200000000000000 }], by decide, by decide, by decide, by decide, by decide, by decide, by decide, by decide, by decide⟩,
   ⟨.w0, 0, 0, cr rdec, rdec, sc (cr rdec) .decompress (.readChunk 0 0), [7, 8], 2, by decide, by decide, by decide, by decide, by decide, by decide, by decide⟩,
   ⟨.w0, 0, 0, cr rdec, rdec, (sc (cr rdec) .decompress (.readChunk 0 0)).modStore (fun t => { t with keyspaces := [{ ks0 with verify := false }] }), [7, 8], 2, ver0, q0, 4096, 0, by decide, by decide, by decide, by decide, by decide, by decide, by decide, by decide, by decide, by decide, by decide, by decide, by decide, by decide⟩,
   ⟨.w0, 0, 0, cr rver, rver, sc (cr rver) .hash (.readChunk 0 0), ver0, 2, q0, 4096, 0, rfl, by decide, rfl, by decide, rfl, by decide, by decide, congrArg sha256 (show _ = ([] : Bytes) from rfl), by decide, by decide, by decide, by decide⟩⟩

/-- Each clause of CryptJobsAndKeys has a state and operands that meet its hypotheses. -/
theorem witness_CryptJobsAndKeys :
    (∃ (w : Wy) (s : State) (j : CryptJob) (x : KeySlot) (e : CachedKey) (tile : Fin 128),
      (List.find? (fun i => decide (i.ref = j.ref) && decide (i.st = CryptSt.queued)) (s.wy w).cip.jobs = some j) ∧ (j.encrypt = false) ∧ (List.length j.input ≤ 1048576) ∧ (List.length j.aad ≤ 2048) ∧ (slotOf (s.wy w).cip j.keyspace j.ver = some x) ∧ (x.st ≠ SlotSt.retired) ∧ (s.tileTakes w tile j = true) ∧ (cachedKey (s.wy w).cip j.keyspace j.ver = some e))
    ∧ (∃ (w : Wy) (s : State) (j : CryptJob) (x : KeySlot) (e : CachedKey) (tile : Fin 128),
      (List.find? (fun i => decide (i.ref = j.ref) && decide (i.st = CryptSt.queued)) (s.wy w).cip.jobs = some j) ∧ (j.encrypt = true) ∧ (List.length j.input ≤ 1048576) ∧ (List.length j.aad ≤ 2048) ∧ (slotOf (s.wy w).cip j.keyspace (curKey (s.wy w).cip j.keyspace) = some x) ∧ (x.st = SlotSt.current) ∧ (x.locked = false) ∧ (s.tileTakes w tile { ref := j.ref, encrypt := j.encrypt, keyspace := j.keyspace, ver := curKey (s.wy w).cip j.keyspace, prio := j.prio, since := j.since, order := j.order, course := j.course, st := j.st, iv := j.iv, input := j.input, aad := j.aad, tag := j.tag, key := j.key, eff := j.eff, ctx := j.ctx } = true) ∧ (cachedKey (s.wy w).cip j.keyspace (curKey (s.wy w).cip j.keyspace) = some e) ∧ ((s.wy w).cip.domainValid = true) ∧ ((s.wy w).cip.resvLost = false) ∧ (x.next < x.thru) ∧ (x.next < counterEnd))
    ∧ (∃ (w : Wy) (s : State) (j : CryptJob) (id : Nat) (n : Nat) (c : Cmd) (x : WChunk) (b : Nat),
      (j.ref = JobRef.writeChunk id n) ∧ (j.encrypt = true) ∧ (List.find? (fun i => decide (i.ref = j.ref) && isRunning i) (s.wy w).cip.jobs = some j) ∧ ((s.wy w).relief.cmd id = some c) ∧ (c.wchunks[n]? = some x) ∧ (x.stage = WStage.compressed) ∧ (x.dropped = false) ∧ (s.leadOf (groupOf s.wall.settings.groups x.fp) = some b) ∧ (b = s.myId) ∧ (s.holdup = none))
    ∧ (∃ (w : Wy) (s : State) (ks : BitVec 32) (ver : Nat) (x : KeySlot) (at_ : Nat),
      (slotOf (s.wy w).cip ks ver = some x) ∧ (x.resvAt = some at_))
    ∧ (∃ (w : Wy) (s : State) (ks : BitVec 32) (ver : Nat) (x : KeySlot) (at_ : Nat),
      (slotOf (s.wy w).cip ks ver = some x) ∧ (x.resvAt = some at_) ∧ (at_ + 100000000 ≤ s.now))
    ∧ (∃ (w : Wy) (s : State) (j : CryptJob) (x : KeySlot) (key : Bytes),
      (j ∈ (s.wy w).cip.jobs) ∧ (j.st = CryptSt.waitKey) ∧ (slotOf (s.wy w).cip j.keyspace j.ver = some x) ∧ (keyUnwrap (kekFor w (s.wy w).cip x) x.wrapped = some key))
    ∧ (∃ (w : Wy) (s : State) (ks : BitVec 32) (ver : Nat) (wrapped : Bytes) (key : Bytes),
      (takesVersion (s.wy w).cip (decide (s.wall.st ≠ WallSt.member)) ks ver = true) ∧ (keyUnwrap (s.wy w).cip.wallKey wrapped = some key) ∧ (∀ (x : KeySlot), x ∈ (s.wy w).cip.slots → x.keyspace = ks → x.ver < ver))
    ∧ (∃ (w : Wy) (s : State) (id : Nat) (n : Nat) (c : Cmd) (x : RChunk) (d : Bytes) (tile : Fin 128),
      ((s.wy w).relief.cmd id = some c) ∧ (c.rchunks[n]? = some x) ∧ (s.codecTile w CodecUnit.decompress (JobRef.readChunk id n) = some tile) ∧ (decodeBytes (ofLe (sliceBytes x.body 16 1)) x.data = some d) ∧ (List.length d = ofLe (sliceBytes x.body 12 4)) ∧ (s.wantsVerify c = true))
    ∧ (∃ (w : Wy) (s : State) (id : Nat) (n : Nat) (c : Cmd) (x : RChunk) (d : Bytes) (tile : Fin 128),
      ((s.wy w).relief.cmd id = some c) ∧ (c.rchunks[n]? = some x) ∧ (s.codecTile w CodecUnit.hash (JobRef.readChunk id n) = some tile) ∧ (sha256 (s.salt c.cap.keyspace ++ x.data) = x.ent.fp) ∧ (c.op ≠ Opcode.get) ∧ (∀ (o : WriteOp), c.ops[x.entry]? = some o → o.cutDone = true)) :=
  ⟨⟨.w0, sj (j0 false .queued), j0 false .queued, slot0, { keyspace := 2, ver := 1, key := zeroBytes 32 }, 5, by decide, by decide, by decide, by decide, by decide, by decide, by decide, by decide⟩,
   ⟨.w0, sj (j0 true .queued), j0 true .queued, slot0, { keyspace := 2, ver := 1, key := zeroBytes 32 }, 5, by decide, by decide, by decide, by decide, by decide, by decide, by decide, by decide, by decide, by decide, by decide, by decide, by decide⟩,
   ⟨.w0, (sk [cw (op0 true) [wch .compressed]]).modWy .w0 (fun y => { y with cip := { y.cip with jobs := [j0 true (.running 5)] } }), j0 true (.running 5), 0, 0, cw (op0 true) [wch .compressed], wch .compressed, 3, by decide, by decide, by decide, by decide, by decide, by decide, by decide, by decide, by decide, by decide⟩,
   ⟨.w0, s0.modWy .w0 (fun y => { y with cip := { y.cip with slots := [{ slot0 with resvAt := some 199900000000000 }] } }), 2, 1, { slot0 with resvAt := some 199900000000000 }, 199900000000000, by decide, by decide⟩,
   ⟨.w0, s0.modWy .w0 (fun y => { y with cip := { y.cip with slots := [{ slot0 with resvAt := some 199900000000000 }] } }), 2, 1, { slot0 with resvAt := some 199900000000000 }, 199900000000000, by decide, by decide, by decide⟩,
   ⟨.w0, skey, j0 false .waitKey, slotW, zeroBytes 8, by decide, by decide, by decide, wrap0_opens⟩,
   ⟨.w0, skey, 2, 2, wrap0, zeroBytes 8, by decide, wrap0_opens, by decide⟩,
   ⟨.w0, sc (cr rdec) .decompress (.readChunk 0 0), 0, 0, cr rdec, rdec, [7, 8], 2, by decide, by decide, by decide, by decide, by decide, by decide⟩,
   ⟨.w0, sc (cp rver) .hash (.readChunk 0 0), 0, 0, cp rver, rver, [], 2, rfl, rfl, rfl, congrArg sha256 (show _ = ([] : Bytes) from rfl), by decide, fun o h => by cases h⟩⟩

/-- Each clause of ClockEventsAct has a state and operands that meet its hypotheses. -/
theorem witness_ClockEventsAct :
    (∃ (w : Wy) (s : State) (d : Drain),
      ((s.wy w).relief.drain = some d) ∧ (d.at_ ≤ s.hybrid w))
    ∧ (∃ (w : Wy) (s : State),
      ((s.wy w).clk.inSync = true) ∧ (s.wall.settings.epsUs * 1000 < 2 * s.clockSum w))
    ∧ (∃ (w : Wy) (s : State) (at_ : Nat),
      (4 * s.clockSum w ≤ s.wall.settings.epsUs * 1000) ∧ ((s.wy w).clk.quietSince = some at_) ∧ (at_ + 10000000000 ≤ s.now))
    ∧ (∃ (w : Wy) (s : State),
      (s.wall.leaseUntil ≤ s.now)) :=
  ⟨⟨.w0, s0.modRelief .w0 (fun r => { r with drain := some { at_ := 0, activation := true, reached := false } }), { at_ := 0, activation := true, reached := false }, by decide, by decide⟩,
   ⟨.w0, s0.modWy .w0 (fun y => { y with clk := { y.clk with inSync := true }, mortar := { y.mortar with offsetNs := 100001 } }), by decide, by decide⟩,
   ⟨.w0, s0.modWy .w0 (fun y => { y with clk := { y.clk with quietSince := some 199990000000000 }, mortar := { y.mortar with offsetNs := 50000 } }), 199990000000000, by decide, by decide, by decide⟩,
   ⟨.w0, s0.modWall (fun x => { x with leaseUntil := 200000000000000 }), by decide⟩⟩

/-- Each clause of PartitionMessagesAct has a state and operands that meet its hypotheses. -/
theorem witness_PartitionMessagesAct :
    (∃ (w : Wy) (h : MHead) (p : Nat) (epoch : Nat) (closed : Nat) (s : State) (r : IdxRec),
      (s.hears w = true) ∧ (h.epoch = s.wall.epoch) ∧ (s.memberEpoch p ≤ epoch) ∧ (s.canPlace (s.holder p) = true))
    ∧ (∃ (w : Wy) (h : MHead) (p : Nat) (epoch : Nat) (closed : Nat) (s : State) (r : IdxRec),
      (s.hears w = true) ∧ (h.epoch = s.wall.epoch) ∧ (s.memberEpoch p ≤ epoch) ∧ (s.canPlace (s.holder p) = false) ∧ (∀ (x : ReplRec), x ∈ s.store.replRecs → x.p = p → x.content ≠ r))
    ∧ (∃ (w : Wy) (h : MHead) (p : Nat) (epoch : Nat) (closed : Nat) (s : State) (version : Nat) (k : Commit) (e : PartEntry),
      (s.hears w = true) ∧ (h.epoch = s.wall.epoch) ∧ (s.partEntry p = some e) ∧ (e.epoch = epoch) ∧ (k.acks = []) ∧ ((s.wy w).relief.commits = [k]) ∧ (k.part = p) ∧ (k.version = version) ∧ (2 ≤ k.segments))
    ∧ (∃ (w : Wy) (h : MHead) (p : Nat) (epoch : Nat) (closed : Nat) (s : State) (version : Nat) (x : PartSt),
      (s.hears w = true) ∧ (h.epoch = s.wall.epoch) ∧ (s.partSt p = some x))
    ∧ (∃ (w : Wy) (h : MHead) (p : Nat) (epoch : Nat) (closed : Nat) (s : State),
      (s.hears w = true) ∧ (h.epoch = s.wall.epoch) ∧ (s.memberEpoch p ≤ epoch))
    ∧ (∃ (w : Wy) (h : MHead) (p : Nat) (epoch : Nat) (closed : Nat) (s : State),
      (s.hears w = true) ∧ (h.epoch = s.wall.epoch))
    ∧ (∃ (w : Wy) (h : MHead) (p : Nat) (epoch : Nat) (closed : Nat) (s : State) (recs : List IdxRec) (x : PartSt) (b : Nat),
      (s.hears w = true) ∧ (h.epoch = s.wall.epoch) ∧ (s.partSt p = some x) ∧ (x.opened = false) ∧ (h.src ∈ x.collect) ∧ (b ∈ x.collect.erase h.src) ∧ (s.isMember b = true))
    ∧ (∃ (w : Wy) (h : MHead) (p : Nat) (epoch : Nat) (closed : Nat) (s : State) (x : PartSt) (hlc : Nat),
      (s.hears w = true) ∧ (h.epoch = s.wall.epoch) ∧ (s.partSt p = some x)) :=
  ⟨⟨.w0, h0, 0, 5, 4, s0, ir0, by decide, by decide, by decide⟩,
   ⟨.w0, h0, 0, 5, 4, { s0 with cover := { s0.cover with tieUp := false } }, ir0, by decide, by decide, by decide, by decide, by decide⟩,
   ⟨.w0, h0, 0, 5, 4, (sp ps0).modRelief .w0 (fun r => { r with commits := [cm0] }), 8, cm0, { home := 3, standby1 := 1, standby2 := 2, moving := false, epoch := 5 }, by decide, by decide, by decide, by decide, by decide, by decide, by decide, by decide, by decide⟩,
   ⟨.w0, h0, 0, 5, 4, sp ps0, 8, ps0, by decide, by decide, by decide⟩,
   ⟨.w0, h0, 0, 5, 4, s0, by decide, by decide, by decide⟩,
   ⟨.w0, h0, 0, 5, 4, s0, by decide, by decide⟩,
   ⟨.w0, h0, 0, 5, 4, sp { ps0 with opened := false, collect := [1, 2] }, [ir0], { ps0 with opened := false, collect := [1, 2] }, 2, by decide, by decide, by decide, by decide, by decide, by decide, by decide⟩,
   ⟨.w0, h0, 0, 5, 4, sp { ps0 with opened := false }, { ps0 with opened := false }, 99, by decide, by decide, by decide⟩⟩

/-- Each clause of CastsAtHome has a state and operands that meet its hypotheses. -/
theorem witness_CastsAtHome :
    (∃ (w : Wy) (h : MHead) (s : State) (id : Nat) (ks : BitVec 32) (at_ : Nat),
      (s.hears w = true) ∧ (h.epoch = s.wall.epoch) ∧ (∀ (x : PartSt), x ∈ s.store.parts → s.horizonAt ks x.p ≤ at_))
    ∧ (∃ (w : Wy) (h : MHead) (s : State) (v : Wy) (id : Nat) (at_ : Nat) (c : Cmd) (q : Queue) (p : Nat) (g : BitVec 128),
      (s.hears w = true) ∧ (h.epoch = s.wall.epoch) ∧ (c ∈ (s.wy v).relief.cmds) ∧ (c.phase = Phase.armature) ∧ (∀ (u : Wy) (d : Cmd), d ∈ (s.wy u).relief.cmds → d.phase = Phase.armature → d.cap.requestId = c.cap.requestId → c.arrived < d.arrived ∨ u = v ∧ d = c) ∧ (c.op = Opcode.cast) ∧ (c.suppressed = false) ∧ ((s.wy v).relief.queue c.q = some q) ∧ (q.transport = Transport.roce p g))
    ∧ (∃ (w : Wy) (h : MHead) (s : State) (p : Nat),
      (s.hears w = true) ∧ (h.epoch = s.wall.epoch) ∧ (s.isHome p = true)) :=
  ⟨⟨.w0, h0, sp ps0, 1, 2, 0, by decide, by decide, by decide⟩,
   ⟨.w0, h0, sq [c0 .cast .armature], .w0, 6, 55, c0 .cast .armature, q0, 4096, 0, by decide, by decide, by decide, by decide, fun u d hd _ _ => by cases u; exact .inr ⟨rfl, List.mem_singleton.mp hd⟩; exact absurd hd List.not_mem_nil, by decide, by decide, by decide, by decide⟩,
   ⟨.w0, h0, sp ps0, 0, by decide, by decide, by decide⟩⟩

/-- Each clause of LogIsReplicated has a state and operands that meet its hypotheses. -/
theorem witness_LogIsReplicated :
    (∃ (w : Wy) (h : MHead) (s : State),
      (s.holdup = none) ∧ (s.wall.arm.role = ArmRole.leader))
    ∧ (∃ (w : Wy) (h : MHead) (s : State) (term : Nat) (leader : Nat) (prevTerm : Nat) (commit : Nat) (l : List LogEntry),
      (s.holdup = none) ∧ (s.running w = true) ∧ (s.wall.arm.term ≤ term))
    ∧ (∃ (w : Wy) (h : MHead) (s : State) (term : Nat) (leader : Nat) (prev : Nat) (prevTerm : Nat) (commit : Nat) (l : List LogEntry),
      (s.holdup = none) ∧ (s.running w = true) ∧ (term < s.wall.arm.term))
    ∧ (∃ (w : Wy) (h : MHead) (s : State) (matched : Nat) (silent : List Nat),
      (s.holdup = none) ∧ (s.running w = true) ∧ (s.wall.arm.role = ArmRole.leader)) :=
  ⟨⟨.w0, h0, s0, by decide, by decide⟩,
   ⟨.w0, h0, arm0 .follower, 4, 1, 0, 0, [{ index := 1, term := 4, change := .noop }], by decide, by decide, by decide⟩,
   ⟨.w0, h0, arm0 .follower, 3, 1, 0, 0, 0, [], by decide, by decide, by decide⟩,
   ⟨.w0, h0, s0, 0, [2], by decide, by decide, by decide⟩⟩

/-- Each clause of ElectionsElect has a state and operands that meet its hypotheses. -/
theorem witness_ElectionsElect :
    (∃ (w : Wy) (h : MHead) (s : State),
      (s.holdup = none) ∧ (s.wall.arm.role = ArmRole.follower ∨ s.wall.arm.role = ArmRole.candidate) ∧ (s.wall.arm.lastAppend + 1000000000 ≤ s.now))
    ∧ (∃ (w : Wy) (h : MHead) (s : State) (term : Nat) (candidate : Nat) (last : Nat) (lastT : Nat),
      (s.holdup = none) ∧ (s.running w = true) ∧ (s.wall.arm.role ≠ ArmRole.none) ∧ (s.wall.arm.term < term) ∧ (lastTerm s.wall.arm < lastT ∨ lastTerm s.wall.arm = lastT ∧ lastIndex s.wall.arm ≤ last))
    ∧ (∃ (w : Wy) (h : MHead) (s : State),
      (s.holdup = none) ∧ (s.running w = true) ∧ (s.wall.arm.role = ArmRole.candidate)) :=
  ⟨⟨.w0, h0, arm0 .follower, by decide, by decide, by decide⟩,
   ⟨.w0, h0, arm0 .follower, 5, 1, 0, 0, by decide, by decide, by decide, by decide, by decide⟩,
   ⟨.w0, h0, arm0 .candidate, by decide, by decide, by decide⟩⟩

/-- Each clause of BricksFormAndJoin has a state and operands that meet its hypotheses. -/
theorem witness_BricksFormAndJoin :
    (∃ (w : Wy) (h : MHead) (s : State),
      (s.holdup = none) ∧ (s.running w = true) ∧ (s.wall.identity = false) ∧ (s.wall.settings.wallId ≠ 0) ∧ (s.wall.st = WallSt.unjoined))
    ∧ (∃ (w : Wy) (h : MHead) (s : State),
      (s.holdup = none) ∧ (s.running w = true) ∧ (s.wall.st = WallSt.unjoined))
    ∧ (∃ (w : Wy) (h : MHead) (s : State) (r : JoinReq),
      (s.holdup = none) ∧ (s.running w = true) ∧ (s.wall.arm.role = ArmRole.leader) ∧ (s.joinFails h.compat r = none) ∧ (s.returns r = false))
    ∧ (∃ (w : Wy) (h : MHead) (s : State) (r : JoinReq) (x : JoinResult),
      (s.holdup = none) ∧ (s.running w = true) ∧ (s.wall.arm.role = ArmRole.leader) ∧ (s.joinFails h.compat r = some x))
    ∧ (∃ (w : Wy) (h : MHead) (s : State) (g : JoinGrant) (e : Nat) (r : JoinReq) (pub : Bytes) (key : Bytes),
      (s.holdup = none) ∧ (s.running w = true) ∧ (s.wall.st = WallSt.joining) ∧ (g.result = JoinResult.granted) ∧ (s.wall.joinKey = some (e, r)) ∧ (openGrant e r pub g = some key))
    ∧ (∃ (w : Wy) (h : MHead) (s : State) (brick : Nat) (b : BrickRec),
      (s.holdup = none) ∧ (s.brick brick = some b) ∧ (b.st = BState.joining) ∧ (b.ready = false) ∧ (b.grantedAt + 600000000000 ≤ s.now) ∧ (s.wall.arm.role = ArmRole.leader)) :=
  ⟨⟨.w0, h0, fresh0 .unjoined, by decide, by decide, by decide, by decide, by decide⟩,
   ⟨.w0, h0, fresh0 .unjoined, by decide, by decide, by decide⟩,
   ⟨.w0, h0, s0, jr0, by decide, by decide, by decide, by decide +kernel, by decide⟩,
   ⟨.w0, h0, s0, { jr0 with wallId := 78 }, .wrongWall, by decide, by decide, by decide, by decide⟩,
   ⟨.w0, h0, (fresh0 .joining).modWall (fun y => { y with joinKey := some (5, jrKey) }), grant11, 5, jrKey, pub11, zeroBytes 8, by decide, by decide, by decide, by decide, by decide, grant11_opens⟩,
   ⟨.w0, h0, armBricks [{ br 6 .joining with ready := false, grantedAt := 199400000000000 }], 6, { br 6 .joining with ready := false, grantedAt := 199400000000000 }, by decide, by decide, by decide, by decide, by decide, by decide⟩⟩

/-- Each clause of MembershipIsKept has a state and operands that meet its hypotheses. -/
theorem witness_MembershipIsKept :
    (∃ (w : Wy) (h : MHead) (s : State),
      (s.holdup = none) ∧ (s.running w = true) ∧ (s.inWall = true) ∧ (s.wall.stopping = false))
    ∧ (∃ (w : Wy) (h : MHead) (s : State) (b : HbBody) (x : BrickRec),
      (s.holdup = none) ∧ (s.running w = true) ∧ (s.wall.arm.role = ArmRole.follower) ∧ (s.brick h.src = some x))
    ∧ (∃ (w : Wy) (h : MHead) (s : State) (r : HbReply) (y : HbSent),
      (s.holdup = none) ∧ (s.running w = true) ∧ (r.notMember = false) ∧ (s.wall.hb = [y]) ∧ (y.w = w) ∧ (y.seq = r.seq) ∧ (s.wall.arm.members = [h.src]))
    ∧ (∃ (w : Wy) (h : MHead) (s : State) (brick : Nat) (b : BrickRec),
      (s.holdup = none) ∧ (s.brick brick = some b) ∧ (b.st = BState.suspect) ∧ (b.removal = none) ∧ (b.suspectAt + s.wall.settings.lossDelayS * 1000000000 ≤ s.now) ∧ (s.wall.arm.role = ArmRole.leader))
    ∧ (∃ (w : Wy) (h : MHead) (s : State) (k : RemoveKind) (b : BrickRec),
      (s.holdup = none) ∧ (s.running w = true) ∧ (s.wall.arm.role = ArmRole.leader) ∧ (s.brick h.src = some b) ∧ (b.st = BState.member) ∧ (k ≠ RemoveKind.cancel))
    ∧ (∃ (w : Wy) (h : MHead) (s : State) (p : Nat) (e : PartEntry),
      (s.holdup = none) ∧ (s.wall.arm.role = ArmRole.leader) ∧ (s.partEntry p = some e) ∧ (e.moving = true))
    ∧ (∃ (w : Wy) (h : MHead) (s : State) (p : Nat) (b : Nat) (x : PartSt),
      (s.holdup = none) ∧ (s.wall.arm.role ≠ ArmRole.leader) ∧ (s.partSt p = some x) ∧ (x.moving = true) ∧ (x.fenced = false) ∧ (x.moveTo = some b) ∧ (∀ (k : Commit), k ∈ (s.wy (s.holder p)).relief.commits → k.part ≠ p))
    ∧ (∃ (w : Wy) (h : MHead) (s : State),
      (s.holdup = none) ∧ ((s.wy w).mortar.ptpRole = PtpRole.slave)) :=
  ⟨⟨.w0, h0, s0, by decide, by decide, by decide, by decide⟩,
   ⟨.w0, h0, arm0 .follower, hb0, br 1 .member, by decide, by decide, by decide, by decide⟩,
   ⟨.w0, h0, s0.modWall (fun y => { y with hb := [{ w := .w0, seq := 5, sentAt := 199900000000000, replies := [] }], arm := { y.arm with members := [1] }, leaseUntil := 0 }), { seq := 5, term := 4, leader := true, notMember := false, epoch := 7, bondVersion := 1, mapVersion := 1, castVersion := 0, wallClosed := 12 }, { w := .w0, seq := 5, sentAt := 199900000000000, replies := [] }, by decide, by decide, by decide, by decide, by decide, by decide, by decide⟩,
   ⟨.w0, h0, armBricks [br 3 .member, { br 6 .suspect with suspectAt := 199400000000000 }], 6, { br 6 .suspect with suspectAt := 199400000000000 }, by decide, by decide, by decide, by decide, by decide, by decide⟩,
   ⟨.w0, h0, s0, .removeReturn 600, br 1 .member, by decide, by decide, by decide, by decide, by decide, by decide⟩,
   ⟨.w0, h0, s0.modStore (fun t => { t with map := { t.map with parts := [(0, { home := 3, standby1 := 1, standby2 := 2, moving := true, epoch := 5 })] } }), 0, { home := 3, standby1 := 1, standby2 := 2, moving := true, epoch := 5 }, by decide, by decide, by decide, by decide⟩,
   ⟨.w0, h0, (arm0 .follower).modStore (fun t => { t with parts := [psMove] }), 0, 2, psMove, by decide, by decide, by decide, by decide, by decide, by decide, by decide⟩,
   ⟨.w0, h0, s0.modWy .w0 (fun y => { y with mortar := { y.mortar with ptpRole := .slave } }), by decide, by decide⟩⟩

/-- Each clause of CastRegistryActs has a state and operands that meet its hypotheses. -/
theorem witness_CastRegistryActs :
    (∃ (w : Wy) (h : MHead) (s : State) (ks : BitVec 32) (at_ : Nat) (rid : BitVec 64),
      (s.wall.arm.role = ArmRole.leader) ∧ (s.hears w = true) ∧ (h.epoch = s.wall.epoch) ∧ (∀ (o : OutcomeRec), o ∈ s.store.armOutcomes → ¬(o.keyspace = ks ∧ o.requestId = rid)) ∧ (∀ (c : Cast), c ∈ s.store.casts → c.requestId ≠ rid) ∧ (s.askRunning { keyspace := ks, requestId := rid, brick := h.src, wythe := h.srcW, time := at_, drop := none } = false) ∧ (s.castsFull ks = false))
    ∧ (∃ (w : Wy) (h : MHead) (s : State) (id : Nat) (c : Cast),
      (s.wall.arm.role = ArmRole.leader) ∧ (s.hears w = true) ∧ (h.epoch = s.wall.epoch) ∧ (c ∈ s.store.casts) ∧ (c.id = id) ∧ (c.ready = false) ∧ (∀ (d : Cast), d ∈ s.store.casts → d.id = id → d = c))
    ∧ (∃ (w : Wy) (h : MHead) (s : State) (id : Nat) (c : Cast),
      (s.wall.arm.role = ArmRole.leader) ∧ (List.find? (fun c => decide (c.id = id) && !c.ready) s.store.casts = some c) ∧ (∀ (b : Nat), b ∈ s.homeBricks → b ∈ c.confirms) ∧ (c.time ≤ s.wallClosedNow))
    ∧ (∃ (w : Wy) (h : MHead) (s : State) (id : Nat) (c : Cast) (end_ : Nat),
      (s.wall.arm.role = ArmRole.leader) ∧ (List.find? (fun c => decide (c.id = id) && c.ready) s.store.casts = some c) ∧ (c.expiry = some end_) ∧ (end_ ≤ s.hybrid Wy.w0) ∧ (s.shipping id = false))
    ∧ (∃ (w : Wy) (h : MHead) (s : State) (id : Nat) (ks : BitVec 32) (rid : BitVec 64),
      (s.wall.arm.role = ArmRole.leader) ∧ (s.hears w = true) ∧ (h.epoch = s.wall.epoch) ∧ (∀ (o : OutcomeRec), o ∈ s.store.armOutcomes → ¬(o.keyspace = ks ∧ o.requestId = rid)) ∧ (s.askRunning { keyspace := ks, requestId := rid, brick := h.src, wythe := h.srcW, time := 0, drop := some id } = false) ∧ (∃ c, c ∈ s.store.casts ∧ c.id = id ∧ c.keyspace = ks ∧ c.ready = true)) :=
  ⟨⟨.w0, h0, s0, 2, 0, 9, by decide, by decide, by decide, by decide, by decide, by decide⟩,
   ⟨.w0, h0, sca ca0, 4, ca0, by decide, by decide, by decide, by decide, by decide, by decide, by decide⟩,
   ⟨.w0, h0, sca ca0, 4, ca0, by decide, by decide, by decide, by decide⟩,
   ⟨.w0, h0, sca { ca0 with ready := true, expiry := some 0 }, 4, { ca0 with ready := true, expiry := some 0 }, 0, by decide, by decide, by decide, by decide, by decide⟩,
   ⟨.w0, h0, sca { ca0 with ready := true }, 4, 2, 7, by decide, by decide, by decide, by decide, by decide⟩⟩

/-- Each clause of MortarCarriesMessages has a state and operands that meet its hypotheses. -/
theorem witness_MortarCarriesMessages :
    (∃ (w : Wy) (h : MHead) (s : State) (f : Flow) (ack : Nat) (sack : Nat) (credit : Nat) (ce : Bool),
      (s.hears w = true) ∧ ((s.wy w).mortar.flows = [f]) ∧ (∀ (p : Packet), p ∈ f.unacked → p.sent = true ∧ p.seq < ack) ∧ (∀ (c : Cmd), c ∈ (s.wy w).relief.cmds → ∀ (x : WChunk), x ∈ c.wchunks → x.stage ≠ WStage.cut ∧ x.stage ≠ WStage.encrypted))
    ∧ (∃ (w : Wy) (h : MHead) (s : State) (peer : Nat) (peerW : Wy) (flow : Nat) (seq : Nat) (f : Flow) (p : Packet),
      (s.hears w = true) ∧ (flowOf (s.wy w).mortar peer peerW flow = some f) ∧ (List.find? (fun p => decide (p.seq = seq)) f.unacked = some p) ∧ (p.sent = true) ∧ (p.acked = false) ∧ (p.sentAt + s.rto w p ≤ s.now))
    ∧ (∃ (w : Wy) (h : MHead) (s : State) (flow : Nat),
      (s.hears w = true))
    ∧ (∃ (w : Wy) (h : MHead) (s : State) (epoch : Nat) (map : Nat) (bond : Nat),
      (s.hears w = true) ∧ (s.wall.epoch < epoch))
    ∧ (∃ (w : Wy) (h : MHead) (s : State) (p : Nat) (epoch : Nat) (closed : Nat),
      (s.hears w = true) ∧ (h.epoch < s.wall.epoch))
    ∧ (∃ (w : Wy) (h : MHead) (s : State),
      (s.hears w = true))
    ∧ (∃ (w : Wy) (h : MHead) (s : State) (version : Nat) (offset : Nat) (length : Nat),
      (s.hears w = true) ∧ (version = 0 ∨ version = s.store.map.version) ∧ (offset ≤ mapLen s.store.map) ∧ (1 ≤ length) ∧ (length ≤ 1048576))
    ∧ (∃ (w : Wy) (h : MHead) (s : State) (obj : StateObj) (version : Nat) (offset : Nat) (length : Nat),
      (s.hears w = true) ∧ (version ≠ 0) ∧ (version ≠ s.objVersion obj))
    ∧ (∃ (w : Wy) (h : MHead) (s : State) (obj : StateObj) (version : Nat) (offset : Nat) (len : Nat) (total : Nat),
      (s.hears w = true) ∧ (s.heldMortar = []) ∧ (s.syncQueue = []))
    ∧ (∃ (w : Wy) (h : MHead) (s : State) (obj : StateObj) (version : Nat) (offset : Nat) (len : Nat) (total : Nat) (x : StatePayload),
      (s.hears w = true) ∧ (s.heldMortar = []) ∧ (s.syncQueue = []))
    ∧ (∃ (w : Wy) (h : MHead) (s : State) (f : Nat) (off : Nat) (len : Nat) (holder : Nat) (cookie : Nat) (bytes : Bytes) (e : RebuildEnt),
      (s.hears w = true) ∧ (h.epoch = s.wall.epoch) ∧ (cookie / 2 ^ 56 = 3) ∧ (e ∈ s.stripes.rebuild) ∧ (e.fragId = f) ∧ (e.upto = 0) ∧ ((fragIndex f, h.src) ∈ e.asked))
    ∧ (∃ (w : Wy) (h : MHead) (s : State) (f : Nat) (off : Nat) (len : Nat) (holder : Nat) (cookie : Nat) (bytes : Bytes) (r : StripeRec),
      (s.hears w = true) ∧ (h.epoch = s.wall.epoch) ∧ (cookie / 2 ^ 56 = 4) ∧ (s.stripe (stripeOf f) = some r) ∧ (∀ (e : Nat × Bytes), e ∈ r.recs → e.fst ≠ fragIndex f * s.wall.settings.fragBytes + off)) :=
  ⟨⟨.w0, h0, sfl 0, flow0 0, 8, 0, 50, false, by decide, by decide, by decide, by decide⟩,
   ⟨.w0, h0, sfl 0, 2, .w0, 1, 6, flow0 0, pk0, by decide, by decide, by decide, by decide, by decide, by decide⟩,
   ⟨.w0, h0, s0, 1, by decide⟩,
   ⟨.w0, h0, s0, 8, 2, 1, by decide, by decide⟩,
   ⟨.w0, { h0 with epoch := 6 }, s0, 0, 5, 3, by decide, by decide⟩,
   ⟨.w0, h0, { s0 with heldMortar := [(199900000000000, .w0, .unknownTypeMessage .w0 h0 1), (199950000000000, .w0, .unknownTypeMessage .w0 h0 1)] }, by decide⟩,
   ⟨.w0, h0, s0, 1, 0, 4, by decide, by decide, by decide, by decide, by decide⟩,
   ⟨.w0, h0, s0, .map, 9, 0, 4, by decide, by decide, by decide⟩,
   ⟨.w0, h0, s0, .bond, 9, 0, 4, 100, by decide, by decide⟩,
   ⟨.w0, h0, s0, .casts, 9, 0, 4, 4, .casts 9 [] [], by decide, by decide, by decide⟩,
   ⟨.w0, h0, sst [] [{ re0 with asked := [(0, 1)] }] [], 64, 0, 4, 1, 3 * 2 ^ 56, [1, 2, 3, 4], { re0 with asked := [(0, 1)] }, by decide, by decide, by decide, by decide, by decide, by decide, by decide⟩,
   ⟨.w0, h0, sst [sr0 .opened] [] [], 0, 96, 4, 1, 4 * 2 ^ 56, [1, 2, 3, 4], sr0 .opened, by decide, by decide, by decide, by decide, by decide⟩⟩

/-- Each clause of ReplicationActs has a state and operands that meet its hypotheses. -/
theorem witness_ReplicationActs :
    (∃ (w : Wy) (h : MHead) (s : State) (r : ReplLink) (key : Option Bytes),
      (s.hears w = true) ∧ (r.kind = LinkKind.linkRefused) ∧ (r.sourceWall = s.wallId ∨ r.remoteWall = s.wallId))
    ∧ (∃ (w : Wy) (h : MHead) (s : State) (r : ReplLink) (key : Option Bytes),
      (s.hears w = true) ∧ (r.kind = LinkKind.linkOffer) ∧ (r.remoteWall = s.wallId) ∧ (s.wall.arm.role = ArmRole.leader) ∧ (∀ (k : Keyspace), k ∈ s.store.keyspaces → k.id = r.keyspace → k.role = ReplRole.secondary ∧ k.linkWall = r.sourceWall) ∧ (linkSound r key = false))
    ∧ (∃ (w : Wy) (h : MHead) (s : State) (r : ReplLink) (key : Option Bytes),
      (s.hears w = true) ∧ (r.kind = LinkKind.linkOffer) ∧ (r.remoteWall = s.wallId) ∧ (s.wall.arm.role = ArmRole.leader) ∧ (∀ (k : Keyspace), k ∈ s.store.keyspaces → k.id = r.keyspace → k.role = ReplRole.secondary ∧ k.linkWall = r.sourceWall) ∧ (linkSound r key = true) ∧ ((s.keyspace r.keyspace).isSome = true))
    ∧ (∃ (w : Wy) (h : MHead) (s : State) (ks : BitVec 32) (k : Keyspace),
      (s.hears w = true) ∧ (s.keyspace ks = some k) ∧ (k.role = ReplRole.primary) ∧ (s.wall.arm.role = ArmRole.leader) ∧ (s.link ks = none))
    ∧ (∃ (w : Wy) (h : MHead) (s : State) (ks : BitVec 32) (k : Keyspace) (l : LinkRec),
      (s.hears w = true) ∧ (s.keyspace ks = some k) ∧ (k.role = ReplRole.primary) ∧ (s.wall.arm.role = ArmRole.leader) ∧ (s.link ks = some l) ∧ (l.accepted = true) ∧ (l.lastShip + k.shipS * 1000000000 ≤ s.now) ∧ (s.castsFull ks = false))
    ∧ (∃ (w : Wy) (h : MHead) (s : State) (p : Nat) (cast : Nat) (seq : Nat) (fp : Bytes) (fps : List Bytes) (x : KeyHist) (v : ValueVer) (e : RecipeEntry),
      (s.hears w = true) ∧ (fp ∈ fps) ∧ (s.store.index = [x]) ∧ (partOf x.keyspace x.key = p) ∧ (x.versions = [v]) ∧ (v.chunks = [e]) ∧ (e.fp = fp))
    ∧ (∃ (w : Wy) (h : MHead) (s : State) (p : Nat) (cast : Nat) (seq : Nat) (last : Bool) (ks : BitVec 32) (keys : List OfferKey) (k : Keyspace),
      (s.hears w = true) ∧ (s.isHome p = true) ∧ (s.keyspace ks = some k) ∧ (k.role = ReplRole.secondary) ∧ (∀ (x : StagedRec), x ∈ s.refs.staged → ¬(x.p = p ∧ x.sourceCast = cast ∧ x.offer = seq)))
    ∧ (∃ (w : Wy) (h : MHead) (s : State) (p : Nat) (cast : Nat) (seq : Nat) (last : Bool) (ks : BitVec 32) (keys : List OfferKey) (k : Keyspace) (x : StagedRec),
      (s.hears w = true) ∧ (s.isHome p = true) ∧ (s.keyspace ks = some k) ∧ (k.role = ReplRole.secondary) ∧ (List.find? (fun x => decide (x.p = p) && decide (x.sourceCast = cast) && decide (x.offer = seq)) s.refs.staged = some x) ∧ (x.staged = true))
    ∧ (∃ (w : Wy) (h : MHead) (s : State) (p : Nat) (cast : Nat) (plain : Nat) (n : Nat) (codec : Codec) (fp : Bytes) (iv : Bytes) (sealed_ : Bytes) (link : Bytes) (data : Bytes) (x : StagedRec),
      (s.hears w = true) ∧ (s.refs.staged = [x]) ∧ (x.p = p) ∧ (x.sourceCast = cast) ∧ (x.staged = false) ∧ (n ∈ x.need) ∧ (x.asked[n]? = some fp) ∧ (s.linkKey x.keyspace = some link) ∧ (gcmOpen link iv (shipAad p cast plain (List.length sealed_ - 16) codec fp) (List.take (List.length sealed_ - 16) sealed_) (List.drop (List.length sealed_ - 16) sealed_) = (data, true)) ∧ (∀ (y : LandRec), y ∈ s.refs.lands → ¬(y.p = p ∧ y.requestId = stagedRid x ∧ y.chunk = n)))
    ∧ (∃ (w : Wy) (h : MHead) (s : State) (p : Nat) (cast : Nat) (seq : Nat) (x : ShipRec) (l : LinkRec),
      (s.hears w = true) ∧ (s.wall.arm.role = ArmRole.leader) ∧ (s.refs.ships = [x]) ∧ (x.sourceCast = cast) ∧ (x.applied = false) ∧ (l ∈ s.refs.links) ∧ (l.keyspace = x.keyspace) ∧ (l.remoteWall = s.wallId) ∧ (¬p ∈ x.staged)) :=
  ⟨⟨.w0, h0, srp [lk0] [], rlink .linkRefused, none, by decide, by decide, by decide⟩,
   ⟨.w0, h0, sremote, rlink .linkOffer, none, by decide, by decide, by decide, by decide, by decide, by decide⟩,
   ⟨.w0, h0, sremote, rlink .linkOffer, some pub11, by decide, by decide, by decide, by decide, by decide, by decide +kernel, by decide⟩,
   ⟨.w0, h0, srp [] [], 2, ksP, by decide, by decide, by decide, by decide, by decide⟩,
   ⟨.w0, h0, srp [lk0] [], 2, ksP, lk0, by decide, by decide, by decide, by decide, by decide, by decide, by decide, by decide⟩,
   ⟨.w0, h0, s0.modStore (fun t => { t with index := [kh0] }), partOf 0 [1], 6, 1, List.replicate 32 0, [List.replicate 32 0], kh0, { ver0 with chunks := [ent0] }, ent0, by decide, by decide, by decide, rfl, by decide, by decide, by decide⟩,
   ⟨.w0, h0, s0.modStore (fun t => { t with keyspaces := [{ ks0 with id := 2, role := .secondary }] }), 0, 6, 1, true, 2, [], { ks0 with id := 2, role := .secondary }, by decide, by decide, by decide, by decide, by decide⟩,
   ⟨.w0, h0, (s0.modStore (fun t => { t with keyspaces := [{ ks0 with id := 2, role := .secondary }] })).modRefs (fun r => { r with staged := [{ sg0 with staged := true }] }), 0, 6, 1, true, 2, [], { ks0 with id := 2, role := .secondary }, { sg0 with staged := true }, by decide, by decide, by decide, by decide, by decide, by decide⟩,
   ⟨.w0, h0, s0.modRefs (fun r => { r with staged := [sg0], linkKeys := [(2, zeroBytes 32)] }), 0, 6, 1, 0, .stored, List.replicate 32 0, zeroBytes 12, beBytes 17 0xCB75875E25A60B592B475CC3256658C1C1, zeroBytes 32, [5], sg0, by decide, by decide, by decide, by decide, by decide, by decide, by decide, by decide, by decide +kernel, by decide⟩,
   ⟨.w0, h0, srp [{ lk0 with sourceWall := 78, remoteWall := 77 }] [{ keyspace := 2, sourceCast := 6, time := 9, begun := true, applied := false, staged := [] }], 0, 6, 1, { keyspace := 2, sourceCast := 6, time := 9, begun := true, applied := false, staged := [] }, { lk0 with sourceWall := 78, remoteWall := 77 }, by decide, by decide, by decide, by decide, by decide, by decide, by decide, by decide, by decide⟩⟩

/-- Each clause of StripeJournalActs has a state and operands that meet its hypotheses. -/
theorem witness_StripeJournalActs :
    (∃ (w : Wy) (h : MHead) (s : State) (id : Nat) (off : Nat) (lead : Nat) (fill : Nat) (count : Nat) (gen : Nat) (a : JAck) (journal : List Nat) (record : Bytes) (digest : Bytes) (targets : List (Option Nat)),
      (s.hears w = true) ∧ (h.epoch = s.wall.epoch) ∧ (s.amSuspect = true))
    ∧ (∃ (w : Wy) (h : MHead) (s : State) (id : Nat) (off : Nat) (lead : Nat) (fill : Nat) (count : Nat) (gen : Nat) (a : JAck) (journal : List Nat) (record : Bytes) (digest : Bytes) (targets : List (Option Nat)),
      (s.hears w = true) ∧ (h.epoch = s.wall.epoch) ∧ (s.amSuspect = true))
    ∧ (∃ (w : Wy) (h : MHead) (s : State) (id : Nat) (off : Nat) (lead : Nat) (fill : Nat) (count : Nat) (gen : Nat) (a : JAck) (journal : List Nat) (record : Bytes) (digest : Bytes) (targets : List (Option Nat)),
      (s.hears w = true) ∧ (h.epoch = s.wall.epoch) ∧ (s.amSuspect = true))
    ∧ (∃ (w : Wy) (h : MHead) (s : State) (id : Nat) (off : Nat) (lead : Nat) (journal : List Nat) (record : Bytes),
      (s.hears w = true) ∧ (h.epoch = s.wall.epoch) ∧ (s.amSuspect = false) ∧ (s.stripe id = none))
    ∧ (∃ (w : Wy) (h : MHead) (s : State) (id : Nat) (off : Nat) (r : StripeRec) (x : StripeWait),
      (s.hears w = true) ∧ (h.epoch = s.wall.epoch) ∧ (s.amSuspect = false) ∧ (s.stripe id = some r) ∧ (∀ (j : Nat), j ∈ r.journal → j = h.src ∨ (off, j) ∈ r.placed) ∧ (s.copyWaits id off = false) ∧ (List.find? (fun x => decide (x.offset = off)) r.waits = some x))
    ∧ (∃ (w : Wy) (h : MHead) (s : State) (id : Nat) (fill : Nat) (count : Nat) (gen : Nat) (r : StripeRec) (targets : List (Option Nat)),
      (s.hears w = true) ∧ (h.epoch = s.wall.epoch) ∧ (s.amSuspect = false) ∧ (s.stripe id = some r) ∧ (r.lead = h.src))
    ∧ (∃ (w : Wy) (h : MHead) (s : State) (f : Nat) (r : StripeRec),
      (s.hears w = true) ∧ (h.epoch = s.wall.epoch) ∧ (s.amSuspect = false) ∧ (s.stripe (stripeOf f) = some r) ∧ (r.st = StripeSt.sealing) ∧ (r.lead = s.myId) ∧ (r.targets.getD (fragIndex f) none = some h.src))
    ∧ (∃ (w : Wy) (h : MHead) (s : State) (id : Nat) (gen : Nat) (r : StripeRec),
      (s.hears w = true) ∧ (h.epoch = s.wall.epoch) ∧ (s.stripe id = some r) ∧ (r.lead ≠ s.myId) ∧ (r.gen ≤ gen))
    ∧ (∃ (w : Wy) (h : MHead) (s : State) (id : Nat) (r : StripeRec) (l : List (Option Nat)),
      (s.hears w = true) ∧ (h.epoch = s.wall.epoch) ∧ (s.amSuspect = false) ∧ (s.stripe id = some r) ∧ (r.st = StripeSt.opened) ∧ (r.recs ≠ []) ∧ (r.openedAt + 50000000 ≤ s.now) ∧ (r.lead = s.myId) ∧ (l = (Option.map (fun x => x.targets) (s.walkFor (fragGroup id) [])).getD []) ∧ (s.wall.settings.k + min s.wall.settings.m 2 ≤ targetCount l))
    ∧ (∃ (w : Wy) (h : MHead) (s : State) (group : Nat) (id : Nat) (r : StripeRec),
      (s.hears w = true) ∧ (h.epoch = s.wall.epoch) ∧ (r ∈ s.stripes.recs) ∧ (fragGroup r.id = group) ∧ (id = 0 ∨ id = r.id))
    ∧ (∃ (w : Wy) (h : MHead) (s : State) (j : JState) (r : StripeRec) (e : Nat × Bytes),
      (s.hears w = true) ∧ (h.epoch = s.wall.epoch) ∧ (s.amSuspect = false) ∧ (s.stripe j.stripe = some r) ∧ (r.lead = s.myId) ∧ (j.lead = r.lead) ∧ (j.st ≠ StripeSt.sealed) ∧ (e ∈ r.recs) ∧ (∀ (x : Nat × Nat), x ∈ j.recs → x.fst ≠ e.fst)) :=
  ⟨⟨.w0, h0, s0.modWall (fun y => { y with st := .suspect }), 0, 0, 1, 96, 1, 1, .placed, [2, 4], [], [], [], by decide, by decide, by decide⟩,
   ⟨.w0, h0, s0.modWall (fun y => { y with st := .suspect }), 0, 0, 1, 96, 1, 1, .placed, [2, 4], [], [], [], by decide, by decide, by decide⟩,
   ⟨.w0, h0, s0.modWall (fun y => { y with st := .suspect }), 0, 0, 1, 96, 1, 1, .placed, [2, 4], [], [], [], by decide, by decide, by decide⟩,
   ⟨.w0, h0, s0, 64, 0, 1, [3, 2], [7, 7], by decide, by decide, by decide⟩,
   ⟨.w0, { h0 with src := 2 }, sst [{ sr0 .opened with placed := [(0, 4)], waits := [{ offset := 0, acks := [2], home := 1, p := 0, requestId := 9, chunk := 0, place := pl0 }] }] [] [], 0, 0, { sr0 .opened with placed := [(0, 4)], waits := [{ offset := 0, acks := [2], home := 1, p := 0, requestId := 9, chunk := 0, place := pl0 }] }, { offset := 0, acks := [2], home := 1, p := 0, requestId := 9, chunk := 0, place := pl0 }, by decide, by decide, by decide, by decide, by decide⟩,
   ⟨.w0, h0, sst [{ sr0 .opened with lead := 1 }] [] [], 0, 96, 1, 1, { sr0 .opened with lead := 1 }, [some 3, some 1, some 2, some 4], by decide, by decide, by decide, by decide⟩,
   ⟨.w0, h0, sst [sr0 .sealing] [] [], 1, sr0 .sealing, by decide, by decide, by decide, by decide, by decide, by decide⟩,
   ⟨.w0, h0, sst [{ sr0 .sealing with lead := 1 }] [] [], 0, 1, { sr0 .sealing with lead := 1 }, by decide, by decide, by decide, by decide, by decide⟩,
   ⟨.w0, h0, sst [{ sr0 .opened with openedAt := 199950000000000 }] [] [], 0, { sr0 .opened with openedAt := 199950000000000 }, [some 3, some 1, some 2, some 4], by decide, by decide, by decide, by decide, by decide, by decide, by decide, by decide, by decide⟩,
   ⟨.w0, h0, sst [sr0 .opened] [] [], 0, 0, sr0 .opened, by decide, by decide, by decide, by decide, by decide⟩,
   ⟨.w0, h0, sst [sr0 .opened] [] [], { stripe := 0, fill := 0, digest := [], lead := 3, journal := [2, 4], st := .opened, gen := 1, recs := [] }, sr0 .opened, (0, List.replicate 96 7), by decide, by decide, by decide, by decide, by decide, by decide, by decide⟩⟩

/-- Each clause of FragmentsAct has a state and operands that meet its hypotheses. -/
theorem witness_FragmentsAct :
    (∃ (w : Wy) (h : MHead) (s : State) (f : FragHead) (bytes : Bytes),
      (s.hears w = true) ∧ (h.epoch = s.wall.epoch) ∧ (s.frag f.fragId = none) ∧ (f.kind = FKind.seal → f.targets.getD (fragIndex f.fragId) 65535 = s.myId) ∧ (s.noRoom f.kind (List.length bytes) = false))
    ∧ (∃ (w : Wy) (h : MHead) (s : State) (f : FragHead) (bytes : Bytes),
      (s.hears w = true) ∧ (h.epoch = s.wall.epoch) ∧ (s.frag f.fragId = none) ∧ (f.kind = FKind.seal → f.targets.getD (fragIndex f.fragId) 65535 = s.myId) ∧ (s.noRoom f.kind (List.length bytes) = true))
    ∧ (∃ (w : Wy) (h : MHead) (s : State) (f : Nat) (off : Nat) (len : Nat) (cookie : Nat) (purpose : Purpose) (x : FragRec),
      (s.hears w = true) ∧ (h.epoch = s.wall.epoch) ∧ (s.frag f = some x) ∧ (x.durable = true) ∧ (∀ (c : Nat × Nat), c ∈ s.stripes.catchUp → c.fst ≠ fragGroup f) ∧ (∃ r, r ∈ x.bad ∧ r.fst < off + len ∧ off < r.fst + r.snd))
    ∧ (∃ (w : Wy) (h : MHead) (s : State) (f : Nat) (off : Nat) (len : Nat) (cookie : Nat) (purpose : Purpose) (x : FragRec),
      (s.hears w = true) ∧ (h.epoch = s.wall.epoch) ∧ (s.frag f = some x) ∧ (x.durable = true) ∧ (∀ (c : Nat × Nat), c ∈ s.stripes.catchUp → c.fst ≠ fragGroup f) ∧ (∀ (r : Nat × Nat), r ∈ x.bad → ¬(r.fst < off + len ∧ off < r.fst + r.snd)) ∧ (pagesOf s.media.set0 f x.gen off len = []) ∧ (pagesOf s.media.set1 f x.gen off len = []))
    ∧ (∃ (w : Wy) (h : MHead) (s : State) (f : Nat) (off : Nat) (len : Nat) (cookie : Nat) (purpose : Purpose) (x : FragRec),
      (s.hears w = true) ∧ (h.epoch = s.wall.epoch) ∧ (s.frag f = some x) ∧ (x.durable = true) ∧ (∀ (c : Nat × Nat), c ∈ s.stripes.catchUp → c.fst ≠ fragGroup f) ∧ (∀ (r : Nat × Nat), r ∈ x.bad → ¬(r.fst < off + len ∧ off < r.fst + r.snd)) ∧ (∀ (u : UnitRead), u ∈ s.media.reads → u.id < s.media.nextRead))
    ∧ (∃ (w : Wy) (h : MHead) (s : State) (f : Nat) (off : Nat) (len : Nat) (cookie : Nat) (purpose : Purpose) (b : Bytes),
      (s.hears w = true) ∧ (h.epoch = s.wall.epoch) ∧ (s.pendingRange f off len = some b))
    ∧ (∃ (w : Wy) (h : MHead) (s : State) (pos : Nat) (first : Nat) (max_ : Nat) (x : FragRec),
      (s.hears w = true) ∧ (h.epoch = s.wall.epoch) ∧ (s.stripes.frags = [x]) ∧ (x.durable = true) ∧ (first ≤ fragSeq x.fragId) ∧ (1 ≤ max_))
    ∧ (∃ (w : Wy) (h : MHead) (s : State) (group : Nat) (pos : Nat) (e : ListEntry),
      (s.hears w = true) ∧ (h.epoch = s.wall.epoch) ∧ (pos ∈ s.myPositions group) ∧ (e.missing = true) ∧ (s.frag (e.stripe + pos) = none) ∧ (∀ (y : RebuildEnt), y ∈ s.stripes.rebuild → y.fragId ≠ e.stripe + pos))
    ∧ (∃ (w : Wy) (h : MHead) (s : State) (e : RebuildEnt),
      (s.hears w = true) ∧ (h.epoch = s.wall.epoch) ∧ (s.nextRebuild w = some e) ∧ (s.rebuildEnd e = 0))
    ∧ (∃ (w : Wy) (h : MHead) (s : State) (e : RebuildEnt) (b : Nat),
      (s.hears w = true) ∧ (h.epoch = s.wall.epoch) ∧ (s.nextRebuild w = some e) ∧ (s.rebuildEnd e ≠ 0) ∧ (tableGet? s.stripes.detours e.fragId = some b))
    ∧ (∃ (w : Wy) (h : MHead) (s : State) (e : RebuildEnt),
      (s.hears w = true) ∧ (h.epoch = s.wall.epoch) ∧ (s.nextRebuild w = some e) ∧ (s.rebuildEnd e ≠ 0) ∧ (tableGet? s.stripes.detours e.fragId = none) ∧ (s.wall.settings.k - e.got.length ≤ (s.rebuildSources e).length))
    ∧ (∃ (w : Wy) (h : MHead) (s : State) (e : RebuildEnt),
      (s.hears w = true) ∧ (h.epoch = s.wall.epoch) ∧ (s.nextRebuild w = some e) ∧ (s.rebuildEnd e ≠ 0) ∧ (tableGet? s.stripes.detours e.fragId = none) ∧ ((s.rebuildSources e).length < s.wall.settings.k - e.got.length) ∧ (s.wall.settings.m < (List.filter (s.goneAt e) (List.range (s.wall.settings.k + s.wall.settings.m))).length))
    ∧ (∃ (w : Wy) (h : MHead) (s : State) (f : Nat) (off : Nat) (len : Nat) (holder : Nat) (cookie : Nat) (bytes : Bytes) (d : Bytes) (e : RebuildEnt),
      (s.hears w = true) ∧ (h.epoch = s.wall.epoch) ∧ (cookie / 2 ^ 56 = 6) ∧ (List.find? (fun e => decide (stripeOf e.fragId = stripeOf f) && decide (e.next = off) && e.asked.contains (fragIndex f, h.src)) s.stripes.rebuild = some e) ∧ (e.upto = 0) ∧ (s.wall.settings.k ≤ e.got.length + 1) ∧ (rsDecode s.wall.settings (e.got ++ [(fragIndex f, bytes)]) (fragIndex e.fragId) = some d))
    ∧ (∃ (w : Wy) (h : MHead) (s : State) (f : Nat) (holder : Nat),
      (s.hears w = true) ∧ (h.epoch = s.wall.epoch))
    ∧ (∃ (w : Wy) (h : MHead) (s : State) (x : FragRec) (b : Nat),
      (s.hears w = true) ∧ (h.epoch = s.wall.epoch) ∧ (s.mustEvacuate = true) ∧ (List.find? (fun x => x.evacTo.isNone && !s.wall.unmovable.contains x.fragId) s.evacOrder = some x) ∧ (s.nextSpill x.fragId none = some b))
    ∧ (∃ (w : Wy) (h : MHead) (s : State) (x : FragRec),
      (s.hears w = true) ∧ (h.epoch = s.wall.epoch) ∧ (s.mustEvacuate = true) ∧ (List.find? (fun x => x.evacTo.isNone && !s.wall.unmovable.contains x.fragId) s.evacOrder = some x) ∧ (s.nextSpill x.fragId none = none))
    ∧ (∃ (w : Wy) (h : MHead) (s : State) (id : Nat) (n : Nat) (c : Cmd) (x : RChunk) (a : RangeAsk) (l : List RangeAsk),
      (s.hears w = true) ∧ (h.epoch = s.wall.epoch) ∧ ((s.wy w).relief.cmd id = some c) ∧ (c.rchunks[n]? = some x) ∧ (x.stage = RStage.fetching) ∧ (x.asked = [a]) ∧ (a.pending = false) ∧ (a.at_ + 20000000 ≤ s.now) ∧ ((s.moreAsks (segsOf s.wall.settings.fragBytes x.ent.place) [] x.parts (x.bad ++ [a.idx]) fun l => l) = some l)) :=
  ⟨⟨.w0, h0, s0, fh0 64 .seal, [], by decide, by decide, by decide, by decide, by simp [State.noRoom, fh0]; rfl⟩,
   ⟨.w0, h0, s0.modMedia (fun y => { y with worn := true }), fh0 128 .seal, [1], by decide, by decide, by decide, by decide, by decide⟩,
   ⟨.w0, h0, sst [] [] [{ fr0 64 with bad := [(7, 1)] }], 64, 0, 8, 5, .client, { fr0 64 with bad := [(7, 1)] }, by decide, by decide, by decide, by decide, by decide, ⟨(7, 1), by decide, by decide, by decide⟩⟩,
   ⟨.w0, h0, sst [] [] [fr0 64], 64, 0, 8, 5, .client, fr0 64, by decide, by decide, by decide, by decide, by decide, by decide⟩,
   ⟨.w0, h0, sst [] [] [fr0 64], 64, 0, 8, 5, .client, fr0 64, by decide, by decide, by decide, by decide, by decide, by decide⟩,
   ⟨.w0, h0, sst [sr0 .opened] [] [], 0, 0, 8, 5, .client, List.replicate 8 7, by decide, by decide, by decide⟩,
   ⟨.w0, h0, sst [] [] [fr0 64], 0, 1, 1, fr0 64, by decide, by decide, by decide, by decide, by decide, by decide⟩,
   ⟨.w0, h0, s0, 0, 0, { stripe := 64, gen := 1, holder := 1, exposure := 0, held := true, missing := true }, by decide, by decide, by decide, by decide, by decide, by decide⟩,
   ⟨.w0, h0, sst [] [reZ] [], reZ, by decide, by decide, reZ_next, by decide⟩,
   ⟨.w0, h0, (sst [] [{ reD with upto := 16 }] []).modStripes (fun y => { y with detours := [(64, 5)] }), { reD with upto := 16 }, 5, by decide, by decide, by decide, by decide, by decide⟩,
   ⟨.w0, h0, sst [] [{ reD with upto := 16 }] [], { reD with upto := 16 }, by decide, by decide, by decide, by decide, by decide, by decide⟩,
   ⟨.w0, h0, sst [] [{ reD with upto := 16, out := [1, 2] }] [], { reD with upto := 16, out := [1, 2] }, by decide, by decide, by decide, by decide, by decide, by decide, by decide⟩,
   ⟨.w0, h0, sst [] [{ reD with asked := [(1, 1)], got := [(2, [3, 4])] }] [], 65, 0, 2, 1, 6 * 2 ^ 56, [1, 2], [2, 6], { reD with asked := [(1, 1)], got := [(2, [3, 4])] }, by decide, by decide, by decide, by decide, by decide, by decide, by decide +kernel⟩,
   ⟨.w0, h0, sst [] [] [fr0 64], 64, 2, by decide, by decide⟩,
   ⟨.w0, h0, sfull, fr0 64, 5, by decide, by decide, sfull_evacuates, by decide, by decide⟩,
   ⟨.w0, h0, sfull0, fr0 64, by decide, by decide, sfull0_evacuates, by decide, by decide⟩,
   ⟨.w0, h0, sfetch, 0, 0, cr { rch .fetching with asked := [ask0] }, { rch .fetching with asked := [ask0] }, ask0, [{ seg := 0, idx := 1, brick := 1, pending := false, at_ := 200000000000000 }, { seg := 0, idx := 2, brick := 2, pending := false, at_ := 200000000000000 }], by decide, by decide, by decide, by decide, by decide, by decide, by decide, by decide, by decide⟩⟩

/-- Each clause of LeadKeepsReferences has a state and operands that meet its hypotheses. -/
theorem witness_LeadKeepsReferences :
    (∃ (w : Wy) (h : MHead) (g : Nat) (s : State) (p : Nat) (chunk : Nat) (rid : BitVec 64) (record : Bytes),
      (s.leads g = true) ∧ ((s.groupRec g).held = true) ∧ (s.holdup = none) ∧ (s.running w = true) ∧ (h.epoch = s.wall.epoch) ∧ ((s.groupRec g).syncing ≠ []))
    ∧ (∃ (w : Wy) (h : MHead) (g : Nat) (s : State) (p : Nat) (chunk : Nat) (rid : BitVec 64) (record : Bytes),
      (s.leads g = true) ∧ ((s.groupRec g).held = true) ∧ (s.holdup = none) ∧ (s.running w = true) ∧ (h.epoch = s.wall.epoch) ∧ ((s.groupRec g).recount = false) ∧ ((s.groupRec g).syncing = []) ∧ (∀ (r : StripeRec), r ∈ s.stripes.recs → r.waits = []) ∧ (∀ (x : ChunkSeen), x ∈ (s.groupRec g).seen → x.requestId ≠ rid) ∧ (∀ (e : FpEntry), e ∈ (s.groupRec g).image.index → e.fp ≠ sliceBytes record 32 32) ∧ (s.groupFull g = false))
    ∧ (∃ (w : Wy) (h : MHead) (g : Nat) (s : State) (p : Nat) (chunk : Nat) (rid : BitVec 64) (record : Bytes) (e : FpEntry),
      (s.leads g = true) ∧ ((s.groupRec g).held = true) ∧ (s.holdup = none) ∧ (s.running w = true) ∧ (h.epoch = s.wall.epoch) ∧ ((s.groupRec g).recount = false) ∧ ((s.groupRec g).syncing = []) ∧ (∀ (r : StripeRec), r ∈ s.stripes.recs → r.waits = []) ∧ (∀ (x : ChunkSeen), x ∈ (s.groupRec g).seen → x.requestId ≠ rid) ∧ (List.find? (fun e => decide (e.fp = sliceBytes record 32 32)) (s.groupRec g).image.index = some e))
    ∧ (∃ (w : Wy) (h : MHead) (g : Nat) (s : State) (stripe : Nat) (off : Nat) (len : Nat) (fp : Bytes),
      (s.leads g = true) ∧ ((s.groupRec g).held = true) ∧ (s.holdup = none) ∧ (s.running w = true) ∧ (h.epoch = s.wall.epoch) ∧ (fragGroup stripe = g))
    ∧ (∃ (w : Wy) (h : MHead) (g : Nat) (s : State) (p : Nat) (home : Nat) (seq : Nat) (lwm : Nat) (e : DeltaEntry) (x : FpEntry),
      (s.leads g = true) ∧ ((s.groupRec g).held = true) ∧ (s.holdup = none) ∧ (s.running w = true) ∧ (h.epoch = s.wall.epoch) ∧ ((s.groupRec g).recount = false) ∧ ((s.groupRec g).syncing = []) ∧ (¬(p, seq) ∈ (s.groupRec g).image.log) ∧ ((tableGet? (s.groupRec g).image.lwm p).getD 0 ≤ seq) ∧ (e.kind = DeltaKind.add) ∧ (List.find? (fun x => decide (x.fp = e.fp)) (s.groupRec g).image.index = some x) ∧ (x.place.fragId = e.fragId) ∧ (x.pinned = false))
    ∧ (∃ (w : Wy) (h : MHead) (g : Nat) (s : State) (p : Nat) (chunk : Nat) (rid : BitVec 64),
      (s.leads g = true) ∧ ((s.groupRec g).held = true) ∧ (s.holdup = none) ∧ (s.running w = true) ∧ (h.epoch = s.wall.epoch))
    ∧ (∃ (w : Wy) (h : MHead) (g : Nat) (s : State) (p : Nat) (chunk : Nat) (rid : BitVec 64) (x : PendRef) (e : PartEntry),
      (s.leads g = true) ∧ ((s.groupRec g).held = true) ∧ (s.holdup = none) ∧ (List.find? (fun x => decide (x.p = p) && decide (x.requestId = rid) && decide (x.chunk = chunk)) (s.groupRec g).image.pend = some x) ∧ (s.partEntry p = some e) ∧ (∀ (q : PendRef × Nat), q ∈ (s.groupRec g).queries → q.fst = x → q.snd + 60000000000 ≤ s.now) ∧ (x.created + 60000000 * 4096 ≤ s.hybrid (wyOfGroup g)))
    ∧ (∃ (w : Wy) (h : MHead) (g : Nat) (s : State),
      (s.leads g = true) ∧ ((s.groupRec g).held = true) ∧ (s.holdup = none)) :=
  ⟨⟨.w0, h0, 0, sgr { gr0 with syncing := [1] }, 0, 0, 9, [], by decide, by decide, by decide, by decide, by decide, by decide⟩,
   ⟨.w0, h0, 0, sgr gr0, 0, 1, 10, rec0 (List.replicate 32 1), by decide, by decide, by decide, by decide, by decide, by decide, by decide, by decide, by decide, by decide⟩,
   ⟨.w0, h0, 0, sgr gr0, 0, 1, 10, rec0 fpA, { fp := fpA, place := pl0, pinned := false, count := 2 }, by decide, by decide, by decide, by decide, by decide, by decide, by decide, by decide, by decide⟩,
   ⟨.w0, h0, 0, sgr gr0, 64, 0, 4, fpA, by decide, by decide, by decide, by decide, by decide, by decide⟩,
   ⟨.w0, h0, 0, sgr gr0, 0, 1, 0, 0, { fp := fpA, kind := .add, chunk := 0, requestId := 9, fragId := 0 }, { fp := fpA, place := pl0, pinned := false, count := 2 }, by decide, by decide, by decide, by decide, by decide, by decide, by decide, by decide, by decide, by decide, by decide, by decide⟩,
   ⟨.w0, h0, 0, sgr gr0, 0, 0, 9, by decide, by decide, by decide, by decide, by decide⟩,
   ⟨.w0, h0, 0, (sgr gr0).modWy .w0 (fun y => { y with clk := { y.clk with hlc := 60000000 * 4096 } }), 0, 0, 9, { home := 1, p := 0, requestId := 9, chunk := 0, created := 0, fp := fpA }, { home := 3, standby1 := 1, standby2 := 2, moving := false, epoch := 5 }, by decide, by decide, by decide, by decide, by decide, by decide, by decide⟩,
   ⟨.w0, h0, 0, sgr gr0, by decide, by decide, by decide⟩⟩

/-- Each clause of HomesAndHoldersKeepReferences has a state and operands that meet its hypotheses. -/
theorem witness_HomesAndHoldersKeepReferences :
    (∃ (w : Wy) (h : MHead) (s : State) (p : Nat) (group : Nat) (seq : Nat) (missing : Nat) (found : List Nat) (b : DeltaBatch),
      (s.hears w = true) ∧ (h.epoch = s.wall.epoch) ∧ (b ∈ s.refs.deltas) ∧ (b.p = p) ∧ (b.seq = seq) ∧ (b.sent = true) ∧ (seq < (tableGet? s.refs.deltaSeq p).getD 0))
    ∧ (∃ (w : Wy) (h : MHead) (s : State) (b : DeltaBatch) (l : Nat),
      (s.hears w = true) ∧ (h.epoch = s.wall.epoch) ∧ (b ∈ s.refs.deltas) ∧ (b.sent = true ∨ b.firstAt + 10000000 ≤ s.now) ∧ (s.leadOf b.group = some l))
    ∧ (∃ (w : Wy) (h : MHead) (s : State) (p : Nat) (group : Nat) (chunk : Nat) (rid : BitVec 64) (x : PartSt),
      (s.hears w = true) ∧ (h.epoch = s.wall.epoch) ∧ (s.isHome p = true) ∧ (s.partSt p = some x) ∧ (x.opened = true) ∧ (∀ (v : Wy), (s.wy v).relief.cmds = []) ∧ (s.refs.staged = []))
    ∧ (∃ (w : Wy) (h : MHead) (s : State) (group : Nat) (off : Nat) (len : Nat),
      (s.hears w = true) ∧ (h.epoch = s.wall.epoch) ∧ ((s.groupRec group).held = true) ∧ (imageLen (s.groupRec group).image ≤ off + len))
    ∧ (∃ (w : Wy) (h : MHead) (s : State) (group : Nat) (off : Nat) (total : Nat) (i : GroupImage),
      (s.hears w = true) ∧ (h.epoch = s.wall.epoch) ∧ ((s.groupRec group).held = false))
    ∧ (∃ (w : Wy) (h : MHead) (s : State) (group : Nat) (x : PartSt),
      (s.hears w = true) ∧ (h.epoch = s.wall.epoch) ∧ (x ∈ s.store.parts) ∧ (x.opened = true) ∧ (x.fenced = false))
    ∧ (∃ (w : Wy) (h : MHead) (s : State) (stripe : Nat) (off : Nat) (len : Nat) (fps : List Bytes) (x : FragRec),
      (s.hears w = true) ∧ (h.epoch = s.wall.epoch) ∧ (s.frag (stripe + off / s.wall.settings.fragBytes) = some x) ∧ (stripeOf (stripe + off / s.wall.settings.fragBytes) = stripe) ∧ (0 < len) ∧ (off % s.wall.settings.fragBytes + len ≤ s.wall.settings.fragBytes)) :=
  ⟨⟨.w0, h0, s0.modRefs (fun r => { r with deltas := [db0 true], deltaSeq := [(0, 1)] }), 0, 0, 0, 0, [], db0 true, by decide, by decide, by decide, by decide, by decide, by decide, by decide⟩,
   ⟨.w0, h0, s0.modRefs (fun r => { r with deltas := [db0 false] }), db0 false, 3, by decide, by decide, by decide, by decide, by decide⟩,
   ⟨.w0, h0, sp ps0, 0, 0, 0, 9, ps0, by decide, by decide, by decide, by decide, by decide, by intro v; cases v <;> decide, by decide⟩,
   ⟨.w0, h0, sgr gr0, 0, 0, 1048576, by decide, by decide, by decide, by decide⟩,
   ⟨.w0, h0, sgr { gr0 with held := false }, 0, 0, 10, gr0.image, by decide, by decide, by decide⟩,
   ⟨.w0, h0, sp ps0, 0, ps0, by decide, by decide, by decide, by decide, by decide⟩,
   ⟨.w0, h0, sst [] [] [fr0 64], 64, 4, 8, [fpA], fr0 64, by decide, by decide, by decide⟩⟩

/-- Each clause of ThinningActs has a state and operands that meet its hypotheses. -/
theorem witness_ThinningActs :
    (∃ (w : Wy) (h : MHead) (x : FragRec) (s : State) (new : Nat) (lead : Nat) (dead : List (Nat × List Nat)),
      (s.hears w = true) ∧ (h.epoch = s.wall.epoch) ∧ (s.stripes.frags = [x]) ∧ (new ≠ x.gen) ∧ (x.durable = true) ∧ (List.length x.bytes ≤ s.freeCapacity + s.deleteReserve) ∧ (x.thinTo = none) ∧ (x.newGen = none) ∧ (fragIndex x.fragId < s.wall.settings.k))
    ∧ (∃ (w : Wy) (h : MHead) (x : FragRec) (s : State) (f : Nat) (gen : Nat) (units : List (Nat × Bytes)),
      (s.hears w = true) ∧ (h.epoch = s.wall.epoch) ∧ (s.stripes.frags = [x]) ∧ (stripeOf x.fragId = stripeOf f) ∧ (s.wall.settings.k ≤ fragIndex x.fragId) ∧ (x.gen < gen) ∧ (¬fragIndex f ∈ x.thinGot))
    ∧ (∃ (w : Wy) (h : MHead) (x : FragRec) (s : State) (gen : Nat) (b : Bytes) (holes : List Nat),
      (s.hears w = true) ∧ (h.epoch = s.wall.epoch) ∧ (s.stripes.frags = [x]) ∧ (x.newGen = some (gen, b, holes)))
    ∧ (∃ (w : Wy) (h : MHead) (x : FragRec) (s : State) (gen : Nat) (b : Bytes) (holes : List Nat),
      (s.hears w = true) ∧ (h.epoch = s.wall.epoch) ∧ (s.stripes.frags = [x]) ∧ (x.newGen = some (gen, b, holes)))
    ∧ (∃ (w : Wy) (h : MHead) (x : FragRec) (s : State) (f : Nat) (a : ThinRec) (d : DeadEntry),
      (s.hears w = true) ∧ (h.epoch = s.wall.epoch) ∧ (s.stripes.frags = [x]) ∧ ((s.groupRec (fragGroup f)).thins = [a]) ∧ (a.stripe = stripeOf f) ∧ (a.wait = [f]) ∧ (a.commit = none) ∧ (d ∈ (s.groupRec (fragGroup f)).image.dead) ∧ (d.stripe = stripeOf f) ∧ (d.thinning = true)) :=
  ⟨⟨.w0, h0, { fr0 64 with bytes := [] }, (sfull).modStripes (fun y => { y with frags := [{ fr0 64 with bytes := [] }] }), 3, 1, [(0, [0])], by decide, by decide, by decide, by decide, by decide, Nat.zero_le _, by decide, by decide, by decide⟩,
   ⟨.w0, h0, fr0 66, sst [] [] [fr0 66], 64, 3, [], by decide, by decide, by decide, by decide, by decide, by decide, by decide⟩,
   ⟨.w0, h0, frNew, sst [] [] [frNew], 3, [5], [1], by decide, by decide, by decide, by decide⟩,
   ⟨.w0, h0, frNew, sst [] [] [frNew], 3, [5], [1], by decide, by decide, by decide, by decide⟩,
   ⟨.w0, h0, frNew, (sst [] [] [frNew]).modRefs (fun r => { r with groups := [{ gr0 with thins := [{ stripe := 64, gen := 2, wait := [64], commit := none }], image := { gr0.image with dead := [{ stripe := 64, dead := 1, thinning := true }] } }] }), 64, { stripe := 64, gen := 2, wait := [64], commit := none }, { stripe := 64, dead := 1, thinning := true }, by decide, by decide, by decide, by decide, by decide, by decide, by decide, by decide, by decide, by decide⟩⟩

/-- Each clause of ChiselRequestsAccepted has a state and operands that meet its hypotheses. -/
theorem witness_ChiselRequestsAccepted :
    (∃ (rt : Routine) (w : Wy) (r : ChReq) (s : State),
      (∀ (j : ChJob), j ∈ s.media.jobs → j.id < s.media.nextJob) ∧ (s.chFull r.channel = false) ∧ (s.refuseReq w rt r = none))
    ∧ (∃ (rt : Routine) (w : Wy) (r : ChReq) (s : State) (x : ChResult) (d : Nat),
      (∀ (j : ChJob), j ∈ s.media.jobs → j.id < s.media.nextJob) ∧ (s.chFull r.channel = false) ∧ (s.refuseReq w rt r = some (x, d)))
    ∧ (∃ (rt : Routine) (w : Wy) (r : ChReq) (s : State),
      (∀ (j : ChJob), j ∈ s.media.jobs → j.id < s.media.nextJob) ∧ (s.chFull r.channel = true)) :=
  ⟨⟨.read, .w0, req0, sch [], by decide, by decide, by decide⟩,
   ⟨.read, .w0, { req0 with channel := 64 }, sch [], .badRequest, 4, by decide, by decide, by decide⟩,
   ⟨.read, .w0, req0, sheld, by decide, by decide⟩⟩

/-- Each clause of DieOperationsEnd has a state and operands that meet its hypotheses. -/
theorem witness_DieOperationsEnd :
    (∃ (s : State) (id : Nat) (j : ChJob) (e : DieEnd),
      (∀ (j : ChJob), j ∈ s.media.jobs → j.id < s.media.nextJob) ∧ (List.find? (fun j => decide (j.id = id) && (decide (j.st = ChSt.running) || decide (j.st = ChSt.inSuspension))) s.media.jobs = some j))
    ∧ (∃ (s : State) (d : Fin 2048) (op : ChJob),
      (∀ (j : ChJob), j ∈ s.media.jobs → j.id < s.media.nextJob) ∧ (List.find? (fun j => decide (j.st = ChSt.suspended) && decide (reqDie j.req = ↑d)) s.media.jobs = some op) ∧ (∀ (j : ChJob), j ∈ s.media.jobs → reqDie j.req = ↑d → j.st ≠ ChSt.inSuspension ∧ j.st ≠ ChSt.queued))
    ∧ (∃ (s : State) (id : Nat) (j : ChJob),
      (∀ (j : ChJob), j ∈ s.media.jobs → j.id < s.media.nextJob) ∧ (List.find? (fun j => decide (j.id = id) && (decide (j.st = ChSt.running) || decide (j.st = ChSt.inSuspension))) s.media.jobs = some j) ∧ (opLimit j < j.ran + (s.now - j.resumed)))
    ∧ (∃ (s : State) (d : Fin 2048),
      (∀ (j : ChJob), j ∈ s.media.jobs → j.id < s.media.nextJob) ∧ ((s.die ↑d).calAt + 86400000000000 ≤ s.now) ∧ (s.chFull (↑d / 32) = true ∨ s.drivenFor (s.setWy (setOf (↑d / 32))) (↑d / 32) = true ∧ (s.die ↑d).hung = false)) :=
  ⟨⟨sch [job0 3 .progSlc .running, job0 4 .read .queued], 3, job0 3 .progSlc .running, { result := .done, detail := 0, good := 1, crcBad := 0, step := 255, attempts := 0, temp := 0, corrected := 0 }, by decide, by decide⟩,
   ⟨sch [job0 3 .progQlc .suspended], 0, job0 3 .progQlc .suspended, by decide, by decide, by decide⟩,
   ⟨sch [job0 3 .erase .running], 3, { job0 3 .erase .running with resumed := 199980000000000 }, by decide, by decide, by decide⟩,
   ⟨sheld, 0, by decide, by decide, by decide⟩⟩

/-- Each clause of SetsWriteAndFold has a state and operands that meet its hypotheses. -/
theorem witness_SetsWriteAndFold :
    (∃ (i : Fin 2) (s : State) (sb : Nat) (b : SuperBlk) (r : Round),
      (s.sb (↑i) sb = some b) ∧ (List.find? (fun r => decide (r.st = RoundSt.filling)) b.rounds = some r) ∧ (r.firstAt + s.afld (Page.med (s.setWy ↑i)) MED_WRITE_CTRL 12 8 * 1000000 ≤ s.now))
    ∧ (∃ (i : Fin 2) (s : State) (l : List FoldStripe) (e : FoldStripe) (s1 : State) (dst : SuperBlk),
      (s.afld (Page.med (s.setWy ↑i)) MED_WRITE_CTRL 1 1 = 1) ∧ (foldPick (foldable (s.set_ ↑i)) = some l) ∧ (l.head? = some e) ∧ (s.foldDst (↑i) e.fst.row = some (s1, dst)) ∧ (∀ (x : FoldStripe), x ∈ l → x.fst.dies = dst.dies) ∧ ((List.map (fun b => b.id) (s.set_ ↑i).sbs).Nodup) ∧ (∀ (b : SuperBlk), b ∈ (s.set_ ↑i).sbs → b.id < (s.set_ ↑i).nextSb))
    ∧ (∃ (i : Fin 2) (s : State) (at_ : Nat),
      ((s.set_ ↑i).lowSince = some at_) ∧ (at_ + s.afld (Page.med (s.setWy ↑i)) MED_SLC_TIMERS 15 0 * 1000000000 ≤ s.now) ∧ (s.usable ≤ s.freeCapacity * 100) ∧ ((s.set_ ↑i).share < s.afld (Page.med (s.setWy ↑i)) MED_SLC_CTRL 15 8))
    ∧ (∃ (i : Fin 2) (s : State) (at_ : Nat),
      ((s.set_ ↑i).idleSince = some at_) ∧ (at_ + s.afld (Page.med (s.setWy ↑i)) MED_SLC_TIMERS 31 16 * 1000000000 ≤ s.now) ∧ (s.afld (Page.med (s.setWy ↑i)) MED_SLC_CTRL 7 0 < (s.set_ ↑i).share))
    ∧ (∃ (i : Fin 2) (s : State) (r : JRec),
      (r ∈ (s.set_ ↑i).unflushed) ∧ (r.at_ + 2000000000 ≤ s.now))
    ∧ (∃ (i : Fin 2) (s : State),
      (34359738368 < (s.set_ ↑i).deltaBytes) ∧ ((s.set_ ↑i).map ≠ [])) :=
  ⟨⟨0, sset (fun y => { y with nextSb := 3, sbs := [sb0 1 .slcFrag [rnd0 3 .filling]] }), 1, sb0 1 .slcFrag [rnd0 3 .filling], rnd0 3 .filling, by decide, by decide, by decide⟩,
   ⟨0, sfold, foldable sfold.media.set0, (sb0 1 .slcFrag ((List.range 4).map (fun n => rnd0 n .durable)), rnd0 0 .durable, 0), sfold, { sb0 2 .qlcFold [] with nextWl := 0 }, by decide, by decide, by decide, rfl, by decide, by decide, by decide⟩,
   ⟨0, sfull, 0, by decide, by decide, by rw [sfull_usable]; exact Nat.zero_le _, by decide⟩,
   ⟨0, sset (fun y => { y with idleSince := some 0, share := 50 }), 0, by decide, by decide, by decide⟩,
   ⟨0, sset (fun y => { y with unflushed := [jr] }), jr, by decide, by decide⟩,
   ⟨0, sset (fun y => { y with deltaBytes := 34359738369, map := [ext0 1 0] }), by decide, by decide⟩⟩

/-- Each clause of UpkeepActs has a state and operands that meet its hypotheses. -/
theorem witness_UpkeepActs :
    (∃ (i : Fin 2) (s : State) (b : SuperBlk),
      (List.find? (fun b => b.refresh) (victims (s.set_ ↑i)) = some b) ∧ (liveRefs (s.set_ ↑i) b ≠ []) ∧ (∀ (c : SuperBlk), c ∈ (s.set_ ↑i).sbs → c.id = b.id → c = b))
    ∧ (∃ (i : Fin 2) (s : State) (sb : Nat) (attempts : Nat) (parity : List Nat) (lost : List Nat) (b : SuperBlk),
      (s.sb (↑i) sb = some b) ∧ (b.closed = true))
    ∧ (∃ (i : Fin 2) (s : State) (d : Nat) (l : List Nat) (lost : List (Nat × Nat × Nat)),
      ((s.set_ ↑i).dieRebuild = d :: l) ∧ (∀ (b : SuperBlk), b ∈ (s.set_ ↑i).sbs → d ∈ b.dies → b.stream = Stream.slcJournal))
    ∧ (∃ (i : Fin 2) (s : State) (c : Nat) (at_ : Nat),
      ((s.set_ ↑i).lostAt = some at_) ∧ (s.twoAnchors ↑i = false) ∧ (s.spareChan ↑i = some c))
    ∧ (∃ (i : Fin 2) (s : State) (src : AccSrc) (w : Wy) (result : Nat) (ms_ : Nat),
      (writeArrives src (Page.tst w) TST_CTRL s) ∧ ((s.chan (s.tstDie w / 32)).owner = some w))
    ∧ (∃ (i : Fin 2) (s : State) (src : AccSrc) (w : Wy) (result : Nat) (ms_ : Nat),
      (writeArrives src (Page.tst w) TST_CTRL s) ∧ ((s.chan (s.tstDie w / 32)).owner ≠ some w))
    ∧ (∃ (i : Fin 2) (s : State) (src : AccSrc) (w : Wy),
      (writeArrives src (Page.tst w) TST_CTRL s) ∧ ((s.chan (s.tstDie w / 32)).owner = some w) ∧ ((s.die (s.tstDie w)).retired = false) ∧ ((s.set_ (setOf (s.tstDie w / 32))).dieRebuild = [])) :=
  ⟨⟨0, sset (fun y => { y with map := [ext0 1 0], sbs := [{ sb0 1 .qlcFrag [rnd0 0 .durable] with closed := true, refresh := true }] }), { sb0 1 .qlcFrag [rnd0 0 .durable] with closed := true, refresh := true }, by decide, by decide, by decide⟩,
   ⟨0, sset (fun y => { y with map := [ext0 1 0], sbs := [{ sb0 1 .qlcFrag [rnd0 0 .durable] with closed := true }] }), 1, 4, [], [], { sb0 1 .qlcFrag [rnd0 0 .durable] with closed := true }, by decide, by decide⟩,
   ⟨0, sset (fun y => { y with dieRebuild := [32, 64] }), 32, [64], [], by decide, by decide⟩,
   ⟨0, sset (fun y => { y with lostAt := some 0, copyB := false }), 8, 0, by decide, by decide, by decide⟩,
   ⟨0, sch [], .tile .w0, .w0, 0, 0, ⟨by dsimp only [readArrives]; decide, nofun⟩, by decide⟩,
   ⟨0, s0, .tile .w0, .w0, 0, 0, ⟨by dsimp only [readArrives]; decide, nofun⟩, by decide⟩,
   ⟨0, sch [], .tile .w0, .w0, ⟨by dsimp only [readArrives]; decide, nofun⟩, by decide, by decide, by decide⟩⟩

/-- Each clause of ChannelsChangeHands has a state and operands that meet its hypotheses. -/
theorem witness_ChannelsChangeHands :
    (∃ (w : Wy) (c : Fin 64) (s : State),
      ((s.chan ↑c).owner = none))
    ∧ (∃ (w : Wy) (c : Fin 64) (s : State),
      ((s.chan ↑c).owner = some w))
    ∧ (∃ (w : Wy) (c : Fin 64) (s : State),
      ((s.chan ↑c).owner = some w) ∧ (w = homeOf ↑c))
    ∧ (∃ (w : Wy) (c : Fin 64) (s : State),
      ((s.chan ↑c).releasing = true) ∧ ((s.chan ↑c).mode = ChanMode.home) ∧ (∀ (j : ChJob), j ∈ s.media.jobs → j.req.channel = ↑c → j.st = ChSt.queued ∨ j.st = ChSt.held)) :=
  ⟨⟨.w0, 0, s0, by decide⟩,
   ⟨.w0, 0, sch [], by decide⟩,
   ⟨.w0, 0, sch [], by decide, by decide⟩,
   ⟨.w0, 0, (sch []).modChan 0 (fun x => { x with releasing := true, lending := true }), by decide, by decide, by decide⟩⟩

/-- Each clause of BuffersAct has a state and operands that meet its hypotheses. -/
theorem witness_BuffersAct :
    (∃ (w : Wy) (s : State) (r : BufReq) (n : Nat),
      (∀ (p : Pool), p ∈ (s.wy w).bpm.pools → p.waiting = []) ∧ (poolFor r.size = some n) ∧ (n < (s.wy w).bpm.pools.length) ∧ (s.availTo w n r = true) ∧ (0 < (s.pool w n).cache) ∧ (portOf r.requester < 20))
    ∧ (∃ (w : Wy) (s : State) (requester : Nat) (handle : Nat) (cookie : Nat),
      (∀ (p : Pool), p ∈ (s.wy w).bpm.pools → p.waiting = []) ∧ (s.bufCheck w BufOp.free requester handle = 0) ∧ ((bufOf (s.pool w (bits handle 31 29)) (bits handle 23 0)).count ≤ 1))
    ∧ (∃ (w : Wy) (s : State) (requester : Nat) (handle : Nat) (cookie : Nat),
      (∀ (p : Pool), p ∈ (s.wy w).bpm.pools → p.waiting = []) ∧ (s.bufCheck w BufOp.release requester handle = 0))
    ∧ (∃ (w : Wy) (s : State) (requester : Nat) (handle : Nat) (cookie : Nat),
      (∀ (p : Pool), p ∈ (s.wy w).bpm.pools → p.waiting = []) ∧ (s.bufCheck w BufOp.share requester handle = 0))
    ∧ (∃ (w : Wy) (s : State) (requester : Nat) (handle : Nat) (owner : Nat) (cookie : Nat),
      (∀ (p : Pool), p ∈ (s.wy w).bpm.pools → p.waiting = []) ∧ (s.bufCheck w (BufOp.transfer owner) requester handle = 0))
    ∧ (∃ (w : Wy) (s : State) (n : Fin 6),
      (∀ (p : Pool), p ∈ (s.wy w).bpm.pools → p.waiting = []) ∧ (↑n < (s.wy w).bpm.pools.length) ∧ ((s.pool w ↑n).cache < 64))
    ∧ (∃ (w : Wy) (s : State) (src : AccSrc) (n : Fin 6),
      (∀ (p : Pool), p ∈ (s.wy w).bpm.pools → p.waiting = []) ∧ (↑n < (s.wy w).bpm.pools.length) ∧ (readArrives src (Page.bpm w) s)) :=
  ⟨⟨.w0, spool buf0, { requester := 3, size := 1048576, wait := false, reserve := false, cookie := 8 }, 5, by decide, by decide, by decide, by decide, by decide, by decide⟩,
   ⟨.w0, spool buf0, 3, handleOf 5 1 0, 8, by decide, by decide, by decide⟩,
   ⟨.w0, spool { buf0 with st := 2, count := 2 }, 4, handleOf 5 1 0, 8, by decide, by decide⟩,
   ⟨.w0, spool buf0, 4, handleOf 5 1 0, 8, by decide, by decide⟩,
   ⟨.w0, spool buf0, 3, handleOf 5 1 0, 0x81, 8, by decide, by decide⟩,
   ⟨.w0, spool buf0, 5, by decide, by decide, by decide⟩,
   ⟨.w0, spool buf0, .tile .w0, 5, by decide, by decide, by dsimp only [readArrives]; decide⟩⟩

/-- Each clause of FramesAct has a state and operands that meet its hypotheses. -/
theorem witness_FramesAct :
    (∃ (w : Wy) (p : Fin 4) (s : State) (f : Frame),
      (↑p < (s.wy w).ports.length) ∧ ((s.port w ↑p).linkUp = true) ∧ (f.full = false) ∧ (64 ≤ f.len) ∧ (f.len ≤ s.maxFrame w ↑p) ∧ (f.fcsOk = true) ∧ (f.dst = FrameDst.own) ∧ (f.ether ∈ acceptedEther) ∧ (f.vid = none) ∧ (f.pay = FramePay.other) ∧ (s.pfcOn w (↑p) f.prio = false))
    ∧ (∃ (w : Wy) (p : Fin 4) (s : State) (f : TxFrame) (taken : Nat),
      (↑p < (s.wy w).ports.length) ∧ ((s.port w ↑p).linkUp = true) ∧ (f.len ≤ s.maxFrame w ↑p) ∧ (s.pfcOn w (↑p) (s.txPrio w f) = false) ∧ (f.len ≤ f.inFifo))
    ∧ (∃ (w : Wy) (p : Fin 4) (s : State) (x : Sending),
      (↑p < (s.wy w).ports.length) ∧ ((s.port w ↑p).sending = some x))
    ∧ (∃ (w : Wy) (p : Fin 4) (s : State) (prio : Fin 8) (q : Nat),
      (↑p < (s.wy w).ports.length) ∧ (s.pfcOn w ↑p ↑prio = true) ∧ (∀ (e : Nat × Nat), e ∈ (s.port w ↑p).ignored → e.fst ≠ ↑prio) ∧ (q ≠ 0))
    ∧ (∃ (w : Wy) (p : Fin 4) (s : State) (prio : Fin 8),
      (↑p < (s.wy w).ports.length) ∧ (s.pfcOn w ↑p ↑prio = true) ∧ (∀ (e : Nat × Nat), e ∈ (s.port w ↑p).ignored → e.fst ≠ ↑prio))
    ∧ (∃ (w : Wy) (p : Fin 4) (s : State) (prio : Fin 8),
      (↑p < (s.wy w).ports.length))
    ∧ (∃ (w : Wy) (p : Fin 4) (s : State) (prio : Fin 8),
      (↑p < (s.wy w).ports.length) ∧ (∃ e, e ∈ (s.port w ↑p).paused ∧ e.fst = ↑prio ∧ e.snd.snd + 100000000 ≤ s.now))
    ∧ (∃ (w : Wy) (p : Fin 4) (s : State) (prio : Fin 8),
      (↑p < (s.wy w).ports.length))
    ∧ (∃ (w : Wy) (p : Fin 4) (s : State) (prio : Fin 8) (held : Nat),
      (↑p < (s.wy w).ports.length) ∧ (↑prio ∈ (s.port w ↑p).xoff) ∧ (s.afld (macPage w ↑p) MAC_PFC_CTRL 24 16 * 1024 < held)) :=
  ⟨⟨.w0, 0, sport id, frame0, by decide, by decide, by decide, by decide, by decide, by decide, by decide, by decide, by decide, by decide, by decide⟩,
   ⟨.w0, 0, sport id, txf0, 0, by decide, by decide, by decide, by decide, by decide⟩,
   ⟨.w0, 0, sport (fun x => { x with sending := some snd0 }), snd0, by decide, by decide⟩,
   ⟨.w0, 0, spfc id, 6, 1, by decide, by decide, by decide, by decide⟩,
   ⟨.w0, 0, spfc (fun x => { x with paused := [(6, 200000000000500, 0)] }), 6, by decide, by decide, by decide⟩,
   ⟨.w0, 0, spfc (fun x => { x with paused := [(6, 200000000000000, 0)] }), 6, by decide⟩,
   ⟨.w0, 0, spfc (fun x => { x with paused := [(6, 200000000000500, 199900000000000)] }), 6, by decide, by decide⟩,
   ⟨.w0, 0, spfc (fun x => { x with paused := [(6, 200000000000000, 0)] }), 6, by decide⟩,
   ⟨.w0, 0, spfc (fun x => { x with xoff := [6] }), 6, 20481, by decide, by decide, by decide⟩⟩

/-- Each clause of LinksAct has a state and operands that meet its hypotheses. -/
theorem witness_LinksAct :
    (∃ (w : Wy) (p : Fin 4) (s : State),
      (↑p < (s.wy w).ports.length) ∧ ((s.port w ↑p).linkUp = true))
    ∧ (∃ (w : Wy) (p : Fin 4) (s : State),
      (↑p < (s.wy w).ports.length) ∧ ((s.port w ↑p).linkUp = false) ∧ ((s.wy w).portMode = 1) ∧ (s.heldWy w = false) ∧ (s.unit (macPage w ↑p) = UnitSt.online) ∧ ((s.ujob (macPage w ↑p)).goal = none))
    ∧ (∃ (w : Wy) (p : Fin 4) (s : State),
      (↑p < (s.wy w).ports.length) ∧ ((s.port w ↑p).linkUp = false) ∧ ((s.port w ↑p).changed + 1000000000 < s.now))
    ∧ (∃ (w : Wy) (p : Fin 4) (s : State),
      (↑p < (s.wy w).ports.length) ∧ ((s.port w ↑p).linkUp = true) ∧ ((s.port w ↑p).changed + 10000000000 ≤ s.now))
    ∧ (∃ (w : Wy) (p : Fin 4) (s : State),
      (↑p < (s.wy w).ports.length) ∧ (∀ (v : Wy) (n : Nat), (s.port v n).sending = none) ∧ (s.afld (macPage w ↑p) MAC_LPI_CTRL 0 0 = 1) ∧ ((s.port w ↑p).agreed = true) ∧ ((s.port w ↑p).linkUp = true) ∧ ((s.port w ↑p).lpiTx = false) ∧ ((s.port w ↑p).idleAt + (if 2 ≤ s.pwr.ps then 1 else s.afld (macPage w ↑p) MAC_LPI_CTRL 19 8) * 1000 ≤ s.now))
    ∧ (∃ (w : Wy) (p : Fin 4) (s : State),
      (↑p < (s.wy w).ports.length) ∧ ((s.port w ↑p).linkUp = true))
    ∧ (∃ (w : Wy) (p : Fin 4) (s : State) (r : Nat) (tx : Nat),
      (↑p < (s.wy w).ports.length) ∧ (r ≤ s.afld (macPage w ↑p) MAC_LPI_TW 31 16))
    ∧ (∃ (w : Wy) (p : Fin 4) (s : State),
      (↑p < (s.wy w).ports.length)) :=
  ⟨⟨.w0, 0, sport id, by decide, by decide⟩,
   ⟨.w0, 0, (sport (fun x => { x with linkUp := false })).setReg (.mac .w0 0) PAGE_STATE 1, by decide, by decide, by decide, by decide, by decide, by decide⟩,
   ⟨.w0, 0, sport (fun x => { x with linkUp := false }), by decide, by decide, by decide⟩,
   ⟨.w0, 0, sport (fun x => { x with reported := true }), by decide, by decide, by decide⟩,
   ⟨.w0, 0, (sport (fun x => { x with agreed := true })).setAct (.mac .w0 0) MAC_LPI_CTRL 1, by decide, by intro v; cases v <;> intro n <;> rcases n with _ | _ | _ | _ | n <;> rfl, by decide, by decide, by decide, by decide, by decide⟩,
   ⟨.w0, 0, sport id, by decide, by decide⟩,
   ⟨.w0, 0, (sport id).setAct (.mac .w0 0) MAC_LPI_TW 0x00200020, 32, 7, by decide, by decide⟩,
   ⟨.w0, 0, sport (fun x => { x with agreed := true }), by decide⟩⟩

/-- Each clause of ConnectionsAndClockAct has a state and operands that meet its hypotheses. -/
theorem witness_ConnectionsAndClockAct :
    (∃ (w : Wy) (s : State) (p : Fin 4) (src : BitVec 128) (mtu : Nat) (m : Nat),
      ((s.wy w).serving = true) ∧ ((s.port w ↑p).linkUp = true) ∧ ((List.filter (fun m => decide (m ≤ mtu)) (s.offered w ↑p)).getLast? = some m) ∧ ((s.wy w).relief.queues.length < 1024))
    ∧ (∃ (w : Wy) (s : State) (q : Nat) (x : RocePair),
      (s.pair w q = some x) ∧ (x.retries < s.afld (Page.rdm w) RDM_CTRL 18 16))
    ∧ (∃ (w : Wy) (s : State) (q : Nat) (x : RocePair),
      (s.pair w q = some x) ∧ (s.afld (Page.rdm w) RDM_CTRL 1 1 = 1))
    ∧ (∃ (w : Wy) (s : State) (q : Nat) (x : RocePair),
      (s.pair w q = some x) ∧ (x.rateAt + 55000 ≤ s.now))
    ∧ (∃ (w : Wy) (s : State),
      (s.afld (Page.ptp w) PTP_PPS_CTRL 1 1 = 1))
    ∧ (∃ (w : Wy) (s : State),
      (s.afld (Page.ptp w) PTP_PPS_CTRL 1 1 = 1))
    ∧ (∃ (w : Wy) (s : State),
      (s.afld (Page.ptp w) PTP_PPS_CTRL 0 0 = 1))
    ∧ (∃ (w : Wy) (s : State) (src : AccSrc),
      (readArrives src (Page.ptp w) s)) :=
  ⟨⟨.w0, sport id, 0, 1, 1024, 1024, by decide, by decide, by decide, by decide⟩,
   ⟨.w0, spair, 5, pair0, by decide, by decide⟩,
   ⟨.w0, spair, 5, pair0, by decide, by decide⟩,
   ⟨.w0, spair, 5, pair0, by decide, by decide⟩,
   ⟨.w0, s0.setAct (.ptp .w0) PTP_PPS_CTRL 2, by decide⟩,
   ⟨.w0, s0.setAct (.ptp .w0) PTP_PPS_CTRL 2, by decide⟩,
   ⟨.w0, s0.setAct (.ptp .w0) PTP_PPS_CTRL 0x101, by decide⟩,
   ⟨.w0, s0, .tile .w0, by dsimp only [readArrives]; decide⟩⟩

/-- Each clause of PowerActs has a state and operands that meet its hypotheses. -/
theorem witness_PowerActs :
    (∃ (h : Half) (s : State) (mv : Nat),
      (inRange12 mv = false) ∧ ((s.input h).on = true))
    ∧ (∃ (h : Half) (s : State) (mv : Nat),
      (inRange12 mv = true) ∧ ((s.input h).pwrdis = false))
    ∧ (∃ (h : Half) (s : State),
      (inRange12 (s.input h).mv = true))
    ∧ (∃ (h : Half) (s : State),
      (s.inA.on = false) ∧ (s.inB.on = false) ∧ (max s.inA.at_ s.inB.at_ + 50000 ≤ s.now) ∧ (s.holdup = none) ∧ (s.powered = true))
    ∧ (∃ (h : Half) (s : State) (w : Wy) (x : HoldUp),
      (s.holdup = some x) ∧ (w ∈ x.wait) ∧ (∀ (j : ChJob), j ∈ s.media.jobs → s.payer j = w → j.st = ChSt.held))
    ∧ (∃ (h : Half) (s : State) (x : HoldUp),
      (s.holdup = some x) ∧ (x.wait = [] ∨ x.at_ + 100000000 ≤ s.now))
    ∧ (∃ (h : Half) (s : State) (slotA : Nat) (slotB : Nat),
      (s.plinth.up = true) ∧ (s.service = false) ∧ (s.holdup = none) ∧ (s.powered = false) ∧ (s.powerIsGood = true) ∧ (s.plinth.recovery = false))
    ∧ (∃ (h : Half) (s : State),
      (s.pwr.waking = false) ∧ (s.pwr.ps < s.deepestNow))
    ∧ (∃ (h : Half) (s : State),
      (s.pwr.waking = true)) :=
  ⟨⟨.a, s0, 10799, by decide, by decide⟩,
   ⟨.b, s0, 10800, by decide, by decide⟩,
   ⟨.a, { s0 with inA := { s0.inA with pwrdis := true, on := false } }, by decide⟩,
   ⟨.a, { s0 with inA := { s0.inA with on := false }, inB := { s0.inB with on := false, at_ := 199999999950000 } }, by decide, by decide, by decide, by decide, by decide⟩,
   ⟨.a, { s0 with holdup := some (hu0 [.w0, .w1]) }, .w1, hu0 [.w0, .w1], by decide, by decide, by decide⟩,
   ⟨.a, { s0 with holdup := some (hu0 []) }, hu0 [], by decide, by decide⟩,
   ⟨.a, splinth, 3, 3, by decide, by decide, by decide, by decide, by decide, by decide⟩,
   ⟨.a, s0, by decide, by decide⟩,
   ⟨.a, { s0 with pwr := { ps := 2, waking := true, lastCmd := 0 } }, by decide⟩⟩

/-- Each clause of PlinthFlashActs has a state and operands that meet its hypotheses. -/
theorem witness_PlinthFlashActs :
    (∃ (s : State) (addr : Nat) (outcomes : List (Nat × Nat)) (sector : Nat),
      (s.plinth.up = true) ∧ (flashShape (FlashOp.read addr outcomes) = some (sector, 0)) ∧ (flashMay FlashBy.firmware (FlashOp.read addr outcomes) sector 0 = true) ∧ (s.flash.erase = none) ∧ (s.flash.waiting = []) ∧ (∀ (o : Nat × Nat), o ∈ outcomes → o.fst < 5))
    ∧ (∃ (s : State) (addr : Nat) (data : Bytes) (sector : Nat),
      (s.plinth.up = true) ∧ (flashShape (FlashOp.program addr data true) = some (sector, 1)) ∧ (flashMay FlashBy.firmware (FlashOp.program addr data true) sector 1 = true) ∧ (s.flash.erase = none) ∧ (s.flash.waiting = []) ∧ (s.programmed (addr / 32) = false))
    ∧ (∃ (s : State) (addr : Nat),
      (s.plinth.up = true) ∧ (addr % 32 = 0) ∧ (addr / 4096 < 4096) ∧ (flashAllowed FlashBy.firmware 2 (addr / 4096) = true) ∧ (s.flash.erase = none) ∧ (s.flash.waiting = []))
    ∧ (∃ (s : State) (e : FlashErase),
      (s.plinth.up = true) ∧ (s.flash.erase = some e) ∧ (e.by_ = FlashBy.firmware) ∧ (s.flash.waiting = []) ∧ (s.recorder.queue = []) ∧ (s.recorder.clearing = none) ∧ (s.recorder.renew = []))
    ∧ (∃ (s : State) (n : Nat),
      (s.plinth.up = true) ∧ (n < 8))
    ∧ (∃ (s : State) (n : Nat) (v : Nat),
      (s.plinth.up = true) ∧ (n < s.flash.counters.length) ∧ (n < 8) ∧ (v ≤ 512)) :=
  ⟨⟨s0, 0, [(0, 0), (1, 2)], 0, by decide, by decide, by decide, by decide, by decide⟩,
   ⟨s0, 0, [1, 2], 0, by decide, by decide, by decide, by decide, by decide⟩,
   ⟨s0, 0, by decide, by decide, by decide, by decide, by decide⟩,
   ⟨{ s0 with flash := { s0.flash with erase := some { sector := 0, by_ := .firmware, resumed := 0, suspends := 0 }, words := [(3, [1])] } }, { sector := 0, by_ := .firmware, resumed := 0, suspends := 0 }, by decide, by decide, by decide, by decide, by decide, by decide⟩,
   ⟨s0, 7, by decide, by decide⟩,
   ⟨s0, 7, 512, by decide, by decide, by decide, by decide⟩⟩

/-- Each clause of PlinthBanksAct has a state and operands that meet its hypotheses. -/
theorem witness_PlinthBanksAct :
    (∃ (src : AccSrc) (s : State) (step : Nat) (corrected : Nat),
      (bankOf src < s.recorder.banks.length) ∧ (writeArrives src Page.pfl PFL_REQ s) ∧ ((s.bank (bankOf src)).addr % 32 = 0) ∧ ((s.bank (bankOf src)).addr < 2 ^ 24) ∧ (s.flash.erase = none) ∧ (s.flash.waiting = []) ∧ (step < 5) ∧ (flashAllowed (FlashBy.bank (bankOf src)) 0 ((s.bank (bankOf src)).addr / 4096) = true))
    ∧ (∃ (src : AccSrc) (s : State),
      (bankOf src < s.recorder.banks.length) ∧ (writeArrives src Page.pfl PFL_REQ s) ∧ ((s.bank (bankOf src)).addr % 32 = 0) ∧ ((s.bank (bankOf src)).addr < 2 ^ 24) ∧ (s.flash.erase = none) ∧ (s.flash.waiting = []) ∧ (flashAllowed (FlashBy.bank (bankOf src)) 1 ((s.bank (bankOf src)).addr / 4096) = true) ∧ (s.programmed ((s.bank (bankOf src)).addr / 32) = false))
    ∧ (∃ (src : AccSrc) (s : State),
      (bankOf src < s.recorder.banks.length) ∧ (writeArrives src Page.pfl PFL_REQ s) ∧ ((s.bank (bankOf src)).addr % 32 = 0) ∧ ((s.bank (bankOf src)).addr < 2 ^ 24) ∧ (s.flash.erase = none) ∧ (s.flash.waiting = []) ∧ (flashAllowed (FlashBy.bank (bankOf src)) 2 ((s.bank (bankOf src)).addr / 4096) = true))
    ∧ (∃ (src : AccSrc) (s : State),
      (bankOf src < s.recorder.banks.length) ∧ (readArrives src Page.evr s))
    ∧ (∃ (src : AccSrc) (s : State) (d : Bytes),
      (bankOf src < s.recorder.banks.length) ∧ (readArrives src Page.evr s) ∧ ((s.bank (bankOf src)).latch = some d))
    ∧ (∃ (src : AccSrc) (s : State) (lo : Word),
      (bankOf src < s.recorder.banks.length) ∧ (writeArrives src Page.evr EVR_CURSOR_LO s)) :=
  ⟨⟨.plinth, sbank 0, 4, 1, by decide, ⟨by dsimp only [readArrives]; decide, nofun⟩, by decide, by decide, by decide, by decide, by decide, by decide⟩,
   ⟨.bar0 .w0, slink, by decide, ⟨by dsimp only [readArrives]; decide, fun w h => by cases h; decide⟩, by decide, by decide, by decide, by decide, by decide, by decide⟩,
   ⟨.bar0 .w0, slink, by decide, ⟨by dsimp only [readArrives]; decide, fun w h => by cases h; decide⟩, by decide, by decide, by decide, by decide, by decide⟩,
   ⟨.plinth, s0, by decide, by dsimp only [readArrives]; decide⟩,
   ⟨.plinth, s0.modBank 4 (fun b => { b with latch := some (entryBytes evt0) }), entryBytes evt0, by decide, by dsimp only [readArrives]; decide, by decide +kernel⟩,
   ⟨.plinth, s0, 9, by decide, ⟨by dsimp only [readArrives]; decide, nofun⟩⟩⟩

/-- Each clause of PlinthActs has a state and operands that meet its hypotheses. -/
theorem witness_PlinthActs :
    (∃ (s : State) (auxA : Nat) (auxB : Nat) (vbus : Nat) (advert : Nat) (slotA : Nat) (slotB : Nat) (pd : Bool) (usb : Bool) (cal : Bool) (ksA : Bool) (ksB : Bool) (a : Bool) (b : Bool),
      (s.plinth.up = false) ∧ ((s.supplies auxA auxB vbus advert pd usb).sourceNow ≠ 0))
    ∧ (∃ (s : State) (auxA : Nat) (auxB : Nat) (vbus : Nat) (advert : Nat) (pd : Bool) (usb : Bool),
      (s.plinth.up = true) ∧ ((s.supplies auxA auxB vbus advert pd usb).sourceNow ≠ 0))
    ∧ (∃ (s : State) (at_ : Nat),
      (s.plinth.up = true) ∧ (s.plinth.lostAt = some at_) ∧ (at_ + 50000000 ≤ s.now))
    ∧ (∃ (s : State) (w : Wy),
      (s.plinth.up = true) ∧ (s.fw.act = none) ∧ (s.running w = true))
    ∧ (∃ (s : State) (w : Wy),
      (s.running w = true) ∧ (s.plinthOk w = true) ∧ ((match w with | Wy.w0 => s.plinth.hb0 | Wy.w1 => s.plinth.hb1) + 100000000 ≤ s.now))
    ∧ (∃ (s : State) (at_ : Nat),
      (s.running Wy.w0 = true) ∧ (s.plinth.lost0 = some at_) ∧ (at_ + 10000000000 ≤ s.now))
    ∧ (∃ (s : State) (cal : Bool) (ksA : Bool) (ksB : Bool),
      (s.plinth.up = true))
    ∧ (∃ (s : State) (w : Wy),
      (s.plinth.up = true) ∧ (s.running w = true))
    ∧ (∃ (s : State) (e : EvtRec) (l : List EvtRec),
      (s.plinth.up = true) ∧ (s.arriving = e :: l) ∧ (e.source = 0))
    ∧ (∃ (s : State) (session : Nat) (k : KsImage),
      (s.may session 4 = true) ∧ (s.running Wy.w0 = true) ∧ (s.running Wy.w1 = true) ∧ (s.fw.act = none) ∧ (s.keys = some k) ∧ (s.counter 4 < 512))
    ∧ (∃ (s : State) (session : Nat),
      (s.may session 3 = true) ∧ (s.recorder.clearing = none)) :=
  ⟨⟨s0.modPlinth (fun p => { p with up := false }), 3300, 0, 0, 0, 1, 1, false, false, true, true, true, true, true, by decide, by decide⟩,
   ⟨s0, 0, 3465, 0, 0, false, false, by decide, by decide⟩,
   ⟨s0.modPlinth (fun p => { p with lostAt := some 199950000000000 }), 199950000000000, by decide, by decide, by decide⟩,
   ⟨s0, .w0, by decide, by decide, by decide⟩,
   ⟨s0, .w0, by decide, by decide, by decide⟩,
   ⟨s0.modPlinth (fun p => { p with lost0 := some 190000000000000 }), 190000000000000, by decide, by decide, by decide⟩,
   ⟨s0, true, true, true, by decide⟩,
   ⟨s0, .w1, by decide, by decide⟩,
   ⟨{ s0 with arriving := [evt0] }, evt0, [], by decide, by decide, by decide⟩,
   ⟨ssess, 1, .delivered, by decide, by decide, by decide, by decide, rfl, by decide⟩,
   ⟨ssess, 1, by decide, by decide⟩⟩

/-- Each clause of RegisterAccessesAct has a state and operands that meet its hypotheses. -/
theorem witness_RegisterAccessesAct :
    (∃ (w : Wy) (s : State) (off : Nat) (v : Word) (p : Page) (o : Nat) (r : RegRow),
      (s.pcieUp w = true) ∧ (off % 4 = 0) ∧ (barAt w off = BarAt.page p o) ∧ (writeArrives (AccSrc.bar0 w) p o s) ∧ (regRow p o = some r) ∧ (r.acc = Acc.rw ∧ inRange r v = true ∨ r.acc = Acc.rws) ∧ (s.putOwnRule (AccSrc.bar0 w) p o v = none))
    ∧ (∃ (w : Wy) (s : State) (off : Nat) (v : Word),
      (s.pcieUp w = true) ∧ (off % 4 = 0) ∧ (barAt w off = BarAt.peer))
    ∧ (∃ (w : Wy) (s : State) (off : Nat),
      (s.pcieUp w = true) ∧ (off % 4 = 0) ∧ (barAt w off = BarAt.unmapped))
    ∧ (∃ (w : Wy) (s : State) (src : AccSrc),
      (readArrives src (Page.glb w) s))
    ∧ (∃ (w : Wy) (s : State) (src : AccSrc),
      (readArrives src Page.plt s))
    ∧ (∃ (w : Wy) (s : State) (src : AccSrc),
      (readArrives src Page.svc s))
    ∧ (∃ (w : Wy) (s : State) (v : Word),
      (s.running w = true)) :=
  ⟨⟨.w0, slink, 0x14C, 9216, .glb .w0, GLB_SCRATCH, ⟨0x14C, .rw, 0x0, [(31, 0, 0, 4294967295)]⟩, by decide, by decide, by decide, ⟨by dsimp only [readArrives]; decide, fun w h => by cases h; decide⟩, by decide, by decide, by decide⟩,
   ⟨.w0, slink, 0x1000000, 1, by decide, by decide, by decide⟩,
   ⟨.w0, slink, 0x2FFFFFC, by decide, by decide, by decide⟩,
   ⟨.w0, slink, .bar0 .w0, by dsimp only [readArrives]; decide⟩,
   ⟨.w0, slink, .bar0 .w0, by dsimp only [readArrives]; decide⟩,
   ⟨.w0, slink, .plinth, by dsimp only [readArrives]; decide⟩,
   ⟨.w0, s0, 0xFFFFFFFF, by decide⟩⟩

/-- Each clause of StartStepsEnd has a state and operands that meet its hypotheses. -/
theorem witness_StartStepsEnd :
    (∃ (w : Wy) (s : State) (cal : Bool) (ksA : Bool) (ksB : Bool),
      (s.plinth.up = true) ∧ (s.plinth.startOn = true) ∧ ((s.startOf Wy.w0).step = 1) ∧ ((s.plinthBoot cal ksA ksB).plinth.heldOff = false))
    ∧ (∃ (w : Wy) (s : State),
      (s.plinth.up = true) ∧ (s.plinth.startOn = true) ∧ ((s.startOf Wy.w0).step = 2))
    ∧ (∃ (w : Wy) (s : State),
      (s.plinth.up = true) ∧ (s.service = false) ∧ (s.plinth.heldOff = false) ∧ (s.plinth.startOn = true) ∧ ((s.startOf w).step = 3) ∧ ((s.startOf w).failed = false) ∧ (s.released w = false) ∧ (s.keys ≠ none))
    ∧ (∃ (w : Wy) (s : State) (saved : Bool) (l : List DramResult),
      (s.before w 5 = true) ∧ (s.plinth.marks = []) ∧ (∀ (r : DramResult), r ∈ l → r.rates.head? = some true))
    ∧ (∃ (w : Wy) (s : State) (lanes : Nat) (ports : List Nat) (speed : Nat) (width : Nat),
      (s.before w 6 = true))
    ∧ (∃ (w : Wy) (s : State) (okA : Bool) (okB : Bool) (b : Bool) (trial : Bool),
      (s.before w 7 = true) ∧ (s.chooseSlot 4 w.num = some (b, trial)) ∧ ((if b = true then okB else okA) = true) ∧ (Option.any (fun x => x.good) (s.fwSlot 4 w.num b) = true))
    ∧ (∃ (w : Wy) (s : State) (scale : Option (Nat × Nat)) (conv : List Setting) (ports : List Nat),
      (s.before w 8 = true) ∧ (s.setStore w = []))
    ∧ (∃ (w : Wy) (s : State) (scale : Option (Nat × Nat)) (conv : List Setting) (ports : List Nat) (h : ImgHeader) (g : SetGen),
      (s.before w 8 = true) ∧ (((s.fwSlot 4 w.num (s.startOf w).slotB).bind fun x => x.hdr) = some h) ∧ (readable (s.setStore w) h.readMin h.setFormat = some g))
    ∧ (∃ (w : Wy) (s : State) (aOk : Bool) (bOk : Bool),
      (s.before w 9 = true) ∧ (s.cover.coverer = none) ∧ (((s.set_ w.num).copyA && aOk || (s.set_ w.num).copyB && bOk) = true))
    ∧ (∃ (w : Wy) (s : State) (aOk : Bool) (bOk : Bool),
      (s.before w 9 = true) ∧ (s.cover.coverer ≠ none))
    ∧ (∃ (w : Wy) (s : State) (failed : List (Fin 32)) (lostRecs : List (Nat × Nat)) (lostStripes : List Nat),
      (s.before w 10 = true))
    ∧ (∃ (w : Wy) (s : State),
      (s.before w 11 = true) ∧ (s.cover.tieUp = true) ∧ (s.cover.coverer = none) ∧ (s.arrived w.peer = true))
    ∧ (∃ (w : Wy) (s : State),
      (s.before w 11 = true) ∧ (s.cover.tieUp = true) ∧ (s.cover.coverer = some w.peer) ∧ (s.running w.peer = true))
    ∧ (∃ (w : Wy) (s : State) (at_ : Nat),
      (s.before w 11 = true) ∧ (s.cover.coverer = none) ∧ (s.released w.peer = false) ∧ ((s.startOf w).arriveAt = some at_) ∧ (at_ + 60000000000 ≤ s.now))
    ∧ (∃ (w : Wy) (s : State),
      (s.before w 12 = true) ∧ (s.wall.st = WallSt.member ∨ s.wall.st = WallSt.joining ∨ s.wall.identity = false ∧ s.autoJoin = false))
    ∧ (∃ (w : Wy) (s : State),
      (s.before w 12 = true) ∧ (s.wall.st = WallSt.member ∨ s.wall.st = WallSt.joining ∨ s.wall.identity = false ∧ s.autoJoin = false) ∧ (s.wall.joinAt + 1000000000 ≤ s.now))
    ∧ (∃ (w : Wy) (s : State),
      (s.before w 13 = true) ∧ (∀ (i : Nat), i ∈ s.setsOf w → (s.set_ i).dumpMiB = 8192) ∧ (s.cover.coverer ≠ some w.peer))
    ∧ (∃ (w : Wy) (s : State),
      (s.plinth.startOn = true) ∧ (s.plinth.goodAt + 600000000000 ≤ s.now) ∧ (∀ (v : Wy), (s.startOf v).arriveAt = none ∧ (s.startOf v).step < 11)) :=
  ⟨⟨.w0, searly 1, true, true, true, by decide, by decide, by decide, by decide +kernel⟩,
   ⟨.w0, searly 2, by decide, by decide, by decide⟩,
   ⟨.w0, searly 3, by decide, by decide, by decide, by decide, by decide, by decide, by decide, by decide⟩,
   ⟨.w0, sstart .w0 4, false, [{ channel := 0, rates := [true], patternOk := true }], by decide, by decide, by decide⟩,
   ⟨.w0, { sstart .w0 5 with cover := { s0.cover with tieUp := false } }, 8, [0, 1], 4, 4, by decide⟩,
   ⟨.w0, sstart .w0 6, true, false, false, false, by decide, by decide, by decide⟩,
   ⟨.w0, sstart .w0 7, none, [], [], by decide, by decide⟩,
   ⟨.w0, { sstart .w0 7 with fw := { s0.fw with store0 := [{ gen := 3, format := 1, recs := [] }] } }, none, [], [], factoryHdr 4, { gen := 3, format := 1, recs := [] }, by decide, by decide, by decide⟩,
   ⟨.w0, sstart .w0 8, false, true, by decide, by decide, by decide⟩,
   ⟨.w1, { scover with cover := { scover.cover with rel1 := true, held1 := false }, w1 := { scover.w1 with start := { StartSt.reset with step := 8 } } }, false, true, by decide, by decide⟩,
   ⟨.w0, sstart .w0 9, [], [], [], by decide⟩,
   ⟨.w0, { sstart .w0 10 with w1 := { s0.w1 with start := { StartSt.reset with step := 10, arriveAt := some 0 } } }, by decide, by decide, by decide, by decide⟩,
   ⟨.w1, { scover with cover := { scover.cover with rel1 := true, held1 := false, run1 := true }, w1 := { scover.w1 with start := { StartSt.reset with step := 10 } } }, by decide, by decide, by decide, by decide⟩,
   ⟨.w0, { (sstart .w0 10).modWy .w0 (fun y => { y with start := { y.start with arriveAt := some 199940000000000 } }) with cover := { s0.cover with rel1 := false, run1 := false } }, 199940000000000, by decide, by decide, by decide, by decide, by decide⟩,
   ⟨.w0, sstart .w0 11, by decide, by decide⟩,
   ⟨.w0, sstart .w0 11, by decide, by decide, by decide⟩,
   ⟨.w0, sstart .w0 12, by decide, by decide, by decide⟩,
   ⟨.w0, (searly 5).modPlinth (fun p => { p with failStarts := 2 }), by decide, by decide, by intro v; cases v <;> decide⟩⟩

/-- Each clause of FailuresAreCovered has a state and operands that meet its hypotheses. -/
theorem witness_FailuresAreCovered :
    (∃ (w : Wy) (s : State) (tile : Fin 128) (f : TileFault) (job : Option JobRef) (done : Nat),
      (s.running w = true) ∧ (s.unit (Page.til w tile) ≠ UnitSt.offline))
    ∧ (∃ (w : Wy) (s : State) (tile : Fin 128) (f : TileFault) (job : Option JobRef) (done : Nat),
      (s.running w = true))
    ∧ (∃ (w : Wy) (s : State) (tile : Fin 128) (f : TileFault) (job : Option JobRef) (done : Nat),
      (s.running w = true))
    ∧ (∃ (w : Wy) (s : State) (lanes : Nat),
      (s.cover.tieUp = true) ∧ (lanes < 16))
    ∧ (∃ (w : Wy) (s : State),
      (s.running w = true) ∧ (s.cover.tieUp = true) ∧ (s.released w.peer = true) ∧ (s.heldWy w.peer = false))
    ∧ (∃ (w : Wy) (s : State),
      (s.hbGone w 1000000 = true))
    ∧ (∃ (w : Wy) (s : State),
      (s.hbGone Wy.w0 1000000 = false) ∧ (s.hbGone Wy.w1 3000000 = true))
    ∧ (∃ (w : Wy) (s : State),
      (s.hbGone Wy.w0 1000000 = true))
    ∧ (∃ (w : Wy) (s : State),
      (s.synced w = true) ∧ (s.notice w.peer = true) ∧ (s.cover.tieUp = true) ∧ (s.cover.coverer = none) ∧ (s.heldWy w = false))
    ∧ (∃ (w : Wy) (s : State),
      (s.running w = true) ∧ (s.synced w.peer = true) ∧ (s.cover.coverer = none))
    ∧ (∃ (w : Wy) (s : State),
      (s.running w = true) ∧ (s.synced w.peer = false ∨ s.cover.coverer ≠ none) ∧ (s.keys ≠ none))
    ∧ (∃ (w : Wy) (s : State) (ppm : Int),
      (s.running w = true) ∧ (s.plinth.up = true))
    ∧ (∃ (w : Wy) (s : State),
      (s.running w = true))
    ∧ (∃ (w : Wy) (s : State) (c : Nat) (d : DramWord),
      (s.released w = true))
    ∧ (∃ (w : Wy) (s : State) (c : Nat) (d : DramWord) (src : AccSrc),
      (writeArrives src (Page.tst w) TST_CTRL s))
    ∧ (∃ (w : Wy) (s : State) (c : Nat) (d : DramWord) (src : AccSrc),
      (writeArrives src (Page.tst w) TST_CTRL s)) :=
  ⟨⟨.w0, { online s0 [.til .w0 5] with tileFaults := [(.w0, 5, 199950000000000)] }, 5, .ecc, none, 0, by decide, by decide⟩,
   ⟨.w0, s0, 127, .watchdog, none, 0, by decide⟩,
   ⟨.w0, s0, 127, .watchdog, none, 0, by decide⟩,
   ⟨.w0, s0, 8, by decide, by decide⟩,
   ⟨.w0, s0, by decide, by decide, by decide, by decide⟩,
   ⟨.w0, slost, by decide⟩,
   ⟨.w0, { s0 with cover := { s0.cover with lastHb0 := 199999999500000, lastHb1 := 199000000000000 } }, by decide, by decide⟩,
   ⟨.w0, slost, by decide⟩,
   ⟨.w0, { s0 with cover := { s0.cover with failNote1 := true } }, by decide, by decide, by decide, by decide, by decide⟩,
   ⟨.w0, s0, by decide, by decide, by decide⟩,
   ⟨.w0, scover, by decide, by decide, by decide⟩,
   ⟨.w0, s0, -100, by decide, by decide⟩,
   ⟨.w0, s0, by decide⟩,
   ⟨.w0, s0, 65535, .other, by decide⟩,
   ⟨.w0, s0, 15, .other, .tile .w0, ⟨by dsimp only [readArrives]; decide, nofun⟩⟩,
   ⟨.w0, s0, 15, .other, .tile .w0, ⟨by dsimp only [readArrives]; decide, nofun⟩⟩⟩

/-- Each clause of RestartsAct has a state and operands that meet its hypotheses. -/
theorem witness_RestartsAct :
    (∃ (w : Wy) (s : State),
      (s.cover.coverer = some w) ∧ (s.plinth.up = true) ∧ (s.plinth.failed = false) ∧ (s.cover.tieFailed = false) ∧ (s.heldWy w.peer = true) ∧ (¬w.peer ∈ s.plinth.leftHeld) ∧ (s.cover.since + 2000000000 ≤ s.now) ∧ (¬w.peer ∈ s.plinth.thermal) ∧ (s.front.latchClosed = true) ∧ (s.keys ≠ none))
    ∧ (∃ (w : Wy) (s : State) (at_ : Nat),
      (List.find? (fun r => decide (r.fst = w)) s.plinth.restarts = some (w, at_)) ∧ (at_ + 600000000000 ≤ s.now))
    ∧ (∃ (w : Wy) (s : State),
      (s.cover.coverer = some w) ∧ (s.cover.handingBack = true) ∧ (s.running w.peer = true) ∧ (∀ (c : Commit), c ∈ (s.wy w).relief.commits → wyOfPart c.part = w))
    ∧ (∃ (w : Wy) (s : State) (src : AccSrc) (v : Word) (p : Page),
      (writeArrives src (Page.rst w) RST_REQ s) ∧ (s.rfld (Page.rst w) RST_STATUS 0 0 = 0) ∧ (fld v 2 0 = 1) ∧ (s.rstTarget w = some p) ∧ (s.unit p = UnitSt.quiesced ∨ s.unit p = UnitSt.bypassed ∨ s.unit p = UnitSt.failed))
    ∧ (∃ (w : Wy) (s : State) (src : AccSrc) (v : Word),
      (writeArrives src (Page.rst w) RST_REQ s) ∧ (s.rfld (Page.rst w) RST_STATUS 0 0 = 0) ∧ (fld v 2 0 = 2) ∧ (s.synced w.peer = true) ∧ (s.cover.coverer = none) ∧ (s.plinthOk w = true) ∧ (s.fw.act = none) ∧ (s.fw.restart = none) ∧ (s.cover.handingBack = false))
    ∧ (∃ (w : Wy) (s : State) (src : AccSrc) (v : Word),
      (writeArrives src (Page.rst w) RST_REQ s) ∧ (s.rfld (Page.rst w) RST_STATUS 0 0 = 0) ∧ (fld v 2 0 = 4) ∧ (s.cover.coverer = some w) ∧ (s.heldWy w.peer = true) ∧ (s.plinthOk w = true) ∧ (s.cover.tieFailed = false) ∧ (s.keys ≠ none)) :=
  ⟨⟨.w0, scover, by decide, by decide, by decide, by decide, by decide, by decide, by decide, by decide, by decide, by decide⟩,
   ⟨.w1, scover.modPlinth (fun p => { p with restarts := [(.w1, 199400000000000)] }), 199400000000000, by decide, by decide⟩,
   ⟨.w0, { s0 with cover := { s0.cover with coverer := some .w0, handingBack := true } }, by decide, by decide, by decide, by decide⟩,
   ⟨.w0, (s0.setReg (.rst .w0) RST_TARGET 0x501).setReg (.til .w0 5) PAGE_STATE 3, .tile .w0, 1, .til .w0 5, ⟨by dsimp only [readArrives]; decide, nofun⟩, by decide, by decide, by decide, by decide⟩,
   ⟨.w0, s0, .tile .w0, 2, ⟨by dsimp only [readArrives]; decide, nofun⟩, by decide, by decide, by decide, by decide, by decide, by decide, by decide, by decide⟩,
   ⟨.w0, scover, .tile .w0, 4, ⟨by dsimp only [readArrives]; decide, nofun⟩, by decide, by decide, by decide, by decide, by decide, by decide, by decide⟩⟩

/-- Each clause of FirmwareIsStagedAndActivated has a state and operands that meet its hypotheses. -/
theorem witness_FirmwareIsStagedAndActivated :
    (∃ (s : State) (session : Nat) (comp : Nat) (mask : Nat) (header : Bytes) (payload : Bytes),
      (s.may session 1 = true))
    ∧ (∃ (s : State) (session : Nat) (cal : Bool) (ksA : Bool) (ksB : Bool),
      (s.may session 1 = true) ∧ (s.actFault 1 Wy.w0 false = none))
    ∧ (∃ (s : State) (session : Nat),
      (s.may session 1 = true) ∧ (s.actFault 2 Wy.w0 false = none))
    ∧ (∃ (s : State) (session : Nat),
      (s.may session 1 = true) ∧ (s.actFault 3 Wy.w0 false = none) ∧ (s.portThere 0 = true))
    ∧ (∃ (s : State) (session : Nat) (w : Wy) (conv : Bool),
      (s.may session 1 = true) ∧ (s.actFault 4 w conv = none))
    ∧ (∃ (s : State) (a : Activation) (at_ : Nat),
      (s.fw.act = some a) ∧ (a.comp = 3) ∧ (a.portAt = some at_) ∧ (at_ + 5000000000 ≤ s.now) ∧ ((s.port (portWy a.port) (a.port % 4)).linkUp = false))
    ∧ (∃ (s : State) (a : Activation) (at_ : Nat),
      (s.fw.act = some a) ∧ (a.comp = 4) ∧ (a.trialAt = some at_) ∧ (at_ + 600000000000 ≤ s.now) ∧ ((s.startOf a.w).step < 13) ∧ (s.keys ≠ none))
    ∧ (∃ (s : State) (a : Activation) (at_ : Nat),
      (s.fw.act = some a) ∧ (a.comp = 1) ∧ (s.service = true) ∧ (s.plinth.resetAt + 10000000000 ≤ s.now)) :=
  ⟨⟨ssess, 1, 15, 3, [], [], by decide⟩,
   ⟨sstaged 1, 1, true, true, true, by decide, by decide⟩,
   ⟨sstaged 2, 1, by decide, by decide⟩,
   ⟨online (sstaged 3) [.mac .w0 0], 1, by decide, by decide, by decide⟩,
   ⟨sstaged 4, 1, .w1, false, by decide, by decide⟩,
   ⟨{ s0 with fw := { s0.fw with act := some (act0 3) } }, act0 3, 199000000000000, by decide, by decide, by decide, by decide, by decide⟩,
   ⟨{ sstart .w0 9 with fw := { s0.fw with act := some (act0 4) } }, act0 4, 199000000000000, by decide, by decide, by decide, by decide, by decide, by decide⟩,
   ⟨({ s0 with fw := { s0.fw with act := some (act0 1) } }).modPlinth (fun p => { p with source := 3 }), act0 1, 0, by decide, by decide, by decide, by decide⟩⟩

/-- Each clause of SettingsAreKept has a state and operands that meet its hypotheses. -/
theorem witness_SettingsAreKept :
    (∃ (session : Nat) (s : State) (recs : List Setting),
      (s.may session 6 = true) ∧ (recs ≠ []) ∧ (s.storesOpen = true) ∧ (recs.all s.settingOk = true))
    ∧ (∃ (session : Nat) (s : State) (k : Keyspace) (o : Keyspace),
      (s.may session 6 = true) ∧ (s.wall.st = WallSt.member) ∧ (s.wall.arm.role ≠ ArmRole.leader) ∧ (s.keyspace k.id = some o) ∧ (s.policyOk k (some o) = true))
    ∧ (∃ (session : Nat) (s : State) (ks : BitVec 32),
      (s.may session 6 = true) ∧ (s.wall.st = WallSt.member) ∧ (s.wall.arm.role ≠ ArmRole.leader) ∧ ((s.keyspace ks).isSome = true))
    ∧ (∃ (session : Nat) (s : State) (ws : WallSettings),
      (s.may session 6 = true) ∧ (s.wall.st = WallSt.member) ∧ (s.wall.arm.role ≠ ArmRole.leader) ∧ (s.wallChangeOk ws = true)) :=
  ⟨⟨1, ssess, [.portMode 1], by decide, by decide, by decide, by decide⟩,
   ⟨1, sset0, { ks0 with id := 2, locked := true }, { ks0 with id := 2 }, by decide, by decide, by decide, by decide, by decide⟩,
   ⟨1, sset0, 2, by decide, by decide, by decide, by decide⟩,
   ⟨1, sset0.modWall (fun y => { y with settings := { y.settings with groups := 256 } }), { Sys2Proof.Tests.ws with groups := 256, lossDelayS := 60 }, by decide, by decide, by decide, by decide⟩⟩

/-- Each clause of UnitsChangeState has a state and operands that meet its hypotheses. -/
theorem witness_UnitsChangeState :
    (∃ (src : AccSrc) (p : Page) (s : State) (v : Word),
      (writeArrives src p PAGE_CTRL s) ∧ (isUnit p = true) ∧ ((s.ujob p).goal = none) ∧ (v = 1) ∧ (s.unit p = UnitSt.offline) ∧ ((s.ujob p).needTest = false) ∧ (s.rfld p PAGE_CTRL 2 0 = 0))
    ∧ (∃ (src : AccSrc) (p : Page) (s : State) (v : Word),
      (writeArrives src p PAGE_CTRL s) ∧ (isUnit p = true) ∧ ((s.ujob p).goal = none) ∧ (v = 3) ∧ (s.unit p = UnitSt.online) ∧ (s.rfld p PAGE_CTRL 2 0 = 1))
    ∧ (∃ (src : AccSrc) (p : Page) (s : State) (v : Word),
      (writeArrives src p PAGE_CTRL s) ∧ (isUnit p = true) ∧ ((s.ujob p).goal = none) ∧ (v = 5) ∧ (s.unit p = UnitSt.online) ∧ (s.rfld p PAGE_CTRL 2 0 = 1))
    ∧ (∃ (src : AccSrc) (p : Page) (s : State) (v : Word),
      (writeArrives src p PAGE_CTRL s) ∧ (isUnit p = true) ∧ ((s.ujob p).goal = none) ∧ (v = word (8 + s.rfld p PAGE_CTRL 2 0)) ∧ (testFrom p (s.unit p) = true) ∧ (s.testAllowed p = true))
    ∧ (∃ (src : AccSrc) (p : Page) (s : State) (g : UnitSt),
      (isUnit p = true) ∧ (unitChans p = []) ∧ ((s.ujob p).goal = some g) ∧ (s.unit p ≠ UnitSt.bypassed) ∧ (g = UnitSt.quiesced ∧ s.jobsEnded p = true ∨ g = UnitSt.offline ∧ s.unitEmpty p = true))
    ∧ (∃ (src : AccSrc) (p : Page) (s : State) (u : UnitSt) (at_ : Nat) (code : Nat) (info : Nat) (us_ : Nat),
      (isUnit p = true) ∧ ((s.ujob p).test = some (u, at_)))
    ∧ (∃ (src : AccSrc) (p : Page) (s : State) (v : Word),
      (writeArrives src p PAGE_CTRL s) ∧ (v = word (16 + s.rfld p PAGE_CTRL 2 0)) ∧ (s.commitRange p = none) ∧ (s.commitRule p = none) ∧ (∀ (w : Wy), p ≠ Page.mtr w) ∧ (∀ (w : Wy), p ≠ Page.med w)) :=
  ⟨⟨.tile .w0, .til .w0 5, s0, 1, ⟨by dsimp only [readArrives]; decide, nofun⟩, by decide, by decide, by decide, by decide, by decide, by decide⟩,
   ⟨.tile .w0, .til .w0 5, (online s0 [.til .w0 5]).setReg (.til .w0 5) PAGE_CTRL 1, 3, ⟨by dsimp only [readArrives]; decide, nofun⟩, by decide, by decide, by decide, by decide, by decide⟩,
   ⟨.tile .w0, .til .w0 5, (online s0 [.til .w0 5]).setReg (.til .w0 5) PAGE_CTRL 1, 5, ⟨by dsimp only [readArrives]; decide, nofun⟩, by decide, by decide, by decide, by decide, by decide⟩,
   ⟨.tile .w0, .chn 3, s0, word (8 + s0.rfld (.chn 3) PAGE_CTRL 2 0), ⟨by dsimp only [readArrives]; decide, nofun⟩, by decide, by decide, by decide, by decide, by decide⟩,
   ⟨.tile .w0, .til .w0 5, { online s0 [.til .w0 5] with units := [{ page := .til .w0 5, goal := some .quiesced, needTest := false, test := none }] }, .quiesced, by decide, by decide, by decide, by decide, by decide⟩,
   ⟨.tile .w0, .til .w0 5, { s0 with units := [{ page := .til .w0 5, goal := none, needTest := false, test := some (.offline, 0) }] }, .offline, 0, 1, 0, 9, by decide, by decide⟩,
   ⟨.tile .w0, .hlt .w0, s0, word (16 + s0.rfld (.hlt .w0) PAGE_CTRL 2 0), ⟨by dsimp only [readArrives]; decide, nofun⟩, by decide, by decide, by decide, nofun, nofun⟩⟩

/-- Each clause of PageRegistersAct has a state and operands that meet its hypotheses. -/
theorem witness_PageRegistersAct :
    (∃ (src : AccSrc) (p : Page) (w : Wy) (v : Word) (s : State),
      (writeArrives src p EVT_STATUS s))
    ∧ (∃ (src : AccSrc) (p : Page) (w : Wy) (v : Word) (s : State),
      (writeArrives src p EVT_FORCE s))
    ∧ (∃ (src : AccSrc) (p : Page) (w : Wy) (v : Word) (s : State),
      (readArrives src p s))
    ∧ (∃ (src : AccSrc) (p : Page) (w : Wy) (v : Word) (s : State),
      (writeArrives src p PAGE_LOCK s) ∧ (bitOf v 0 = true))
    ∧ (∃ (src : AccSrc) (p : Page) (w : Wy) (v : Word) (s : State) (result : Nat) (ms_ : Nat),
      (writeArrives src (Page.tst w) TST_CTRL s) ∧ ((s.chan (s.tstDie w / 32)).owner = some w))
    ∧ (∃ (src : AccSrc) (p : Page) (w : Wy) (v : Word) (s : State),
      (writeArrives src (Page.tst w) TST_CTRL s) ∧ ((s.chan (s.tstDie w / 32)).owner = some w) ∧ ((s.die (s.tstDie w)).retired = false) ∧ ((s.set_ (setOf (s.tstDie w / 32))).dieRebuild = []))
    ∧ (∃ (src : AccSrc) (p : Page) (w : Wy) (v : Word) (s : State) (c : Nat) (d : DramWord),
      (writeArrives src (Page.tst w) TST_CTRL s))
    ∧ (∃ (src : AccSrc) (p : Page) (w : Wy) (v : Word) (s : State),
      (writeArrives src (Page.tst w) TST_CTRL s))
    ∧ (∃ (src : AccSrc) (p : Page) (w : Wy) (v : Word) (s : State) (c : Nat) (d : DramWord),
      (s.released w = true)) :=
  ⟨⟨.tile .w0, .til .w0 5, .w0, 1, s0, ⟨by dsimp only [readArrives]; decide, nofun⟩⟩,
   ⟨.tile .w0, .til .w0 5, .w0, 1, s0, ⟨by dsimp only [readArrives]; decide, nofun⟩⟩,
   ⟨.tile .w0, .til .w0 5, .w0, 1, s0, by dsimp only [readArrives]; decide⟩,
   ⟨.tile .w0, .til .w0 5, .w0, 1, s0, ⟨by dsimp only [readArrives]; decide, nofun⟩, by decide⟩,
   ⟨.tile .w0, .til .w0 5, .w0, 1, sch [], 1, 5, ⟨by dsimp only [readArrives]; decide, nofun⟩, by decide⟩,
   ⟨.tile .w0, .til .w0 5, .w0, 1, sch [], ⟨by dsimp only [readArrives]; decide, nofun⟩, by decide, by decide, by decide⟩,
   ⟨.tile .w0, .til .w0 5, .w0, 1, s0, 3, .other, ⟨by dsimp only [readArrives]; decide, nofun⟩⟩,
   ⟨.tile .w0, .til .w0 5, .w0, 1, s0.modPlinth (fun p => { p with marks := [(.w0, 0)] }), ⟨by dsimp only [readArrives]; decide, nofun⟩⟩,
   ⟨.tile .w0, .til .w0 5, .w0, 1, s0, 15, .other, by decide⟩⟩

/-- Each clause of EndpointActs has a state and operands that meet its hypotheses. -/
theorem witness_EndpointActs :
    (∃ (w : Wy) (s : State),
      (s.pcieUp w = true))
    ∧ (∃ (w : Wy) (s : State),
      (s.pcieUp w = true))
    ∧ (∃ (w : Wy) (s : State),
      (s.released w = true))
    ∧ (∃ (w : Wy) (s : State),
      (s.pcieUp w = true))
    ∧ (∃ (w : Wy) (s : State),
      (s.pcieUp w = true))
    ∧ (∃ (w : Wy) (s : State),
      (s.pcieUp w = true))
    ∧ (∃ (w : Wy) (s : State) (speed : Nat) (width : Nat),
      (s.released w = true) ∧ (s.pcieUp w = true ∨ 6 ≤ (s.startOf w).step))
    ∧ (∃ (w : Wy) (s : State) (n : Fin 64),
      (s.pcieUp w = true) ∧ ((s.wy w).serving = true) ∧ (s.qpFault w ↑n = none))
    ∧ (∃ (w : Wy) (s : State) (n : Fin 64) (x : Queue),
      (s.pcieUp w = true) ∧ ((s.wy w).relief.queue (960 + ↑n) = some x) ∧ (x.st ≠ QState.closing))
    ∧ (∃ (w : Wy) (s : State) (n : Fin 64) (tail : Nat),
      (s.pcieUp w = true) ∧ ((qpage (s.wy w).pcie ↑n).st ≠ QpSt.free) ∧ (tail < 2 ^ (qpage (s.wy w).pcie ↑n).sqLog))
    ∧ (∃ (w : Wy) (s : State) (n : Fin 64) (head : Nat),
      (s.pcieUp w = true) ∧ ((qpage (s.wy w).pcie ↑n).st ≠ QpSt.free) ∧ (head < 2 ^ (qpage (s.wy w).pcie ↑n).cqLog) ∧ ((head + 2 ^ (qpage (s.wy w).pcie ↑n).cqLog - (qpage (s.wy w).pcie ↑n).cqHead) % 2 ^ (qpage (s.wy w).pcie ↑n).cqLog ≤ ((qpage (s.wy w).pcie ↑n).cqTail + 2 ^ (qpage (s.wy w).pcie ↑n).cqLog - (qpage (s.wy w).pcie ↑n).cqHead) % 2 ^ (qpage (s.wy w).pcie ↑n).cqLog) ∧ ((qpage (s.wy w).pcie ↑n).held = []))
    ∧ (∃ (w : Wy) (s : State) (n : Fin 64),
      (s.pcieUp w = true)) :=
  ⟨⟨.w0, slink, by decide⟩,
   ⟨.w0, slink, by decide⟩,
   ⟨.w0, slink, by decide⟩,
   ⟨.w0, slink, by decide⟩,
   ⟨.w0, slink, by decide⟩,
   ⟨.w0, slink, by decide⟩,
   ⟨.w0, slink, 5, 8, by decide, by decide⟩,
   ⟨.w0, slink, 63, by decide, by decide, by decide⟩,
   ⟨.w0, slink.modWy .w0 (fun y => { y with relief := { y.relief with queues := [{ q0 with idx := 960 }] }, pcie := { y.pcie with pages := [{ QPage.reset 0 with st := .opened, epoch := 1 }] } }), 0, { q0 with idx := 960 }, by decide, by decide, by decide⟩,
   ⟨.w0, slink.modWy .w0 (fun y => { y with pcie := { y.pcie with pages := [{ QPage.reset 0 with st := .opened, epoch := 1 }] } }), 0, 1023, by decide, by decide, by decide⟩,
   ⟨.w0, slink.modWy .w0 (fun y => { y with pcie := { y.pcie with pages := [{ QPage.reset 0 with st := .opened, epoch := 1, cqTail := 5 }] } }), 0, 5, by decide, by decide, by decide, by decide, by decide⟩,
   ⟨.w0, slink.modWy .w0 (fun y => { y with pcie := { y.pcie with msix := [{ n := 4, addr := 0, data := 0, masked := true, pending := true }] } }), 4, by decide⟩⟩

/-- Each clause of HealthIsKept has a state and operands that meet its hypotheses. -/
theorem witness_HealthIsKept :
    (∃ (src : AccSrc) (w : Wy) (s : State) (n : Fin 32) (r : Int),
      (s.plinth.up = true) ∧ (↑n < s.health.temps.length))
    ∧ (∃ (src : AccSrc) (w : Wy) (s : State) (n : Fin 16) (f : Nat),
      (s.running (if ↑n < 8 then Wy.w0 else Wy.w1) = true) ∧ (↑n < s.health.ages.length))
    ∧ (∃ (src : AccSrc) (w : Wy) (s : State),
      (bitOf (s.act (Page.hlt s.leadWy) HLT_CAP_CTRL) 8 = true) ∧ (s.health.testAt + fld (s.act (Page.hlt s.leadWy) HLT_CAP_CTRL) 6 0 ≤ s.today) ∧ (s.capReady 0 = true))
    ∧ (∃ (src : AccSrc) (w : Wy) (s : State) (v : Word),
      (writeArrives src (Page.hlt w) HLT_CAP_REQ s) ∧ (bitOf v 0 = true) ∧ (s.capReady 0 = true))
    ∧ (∃ (src : AccSrc) (w : Wy) (s : State) (b : Nat) (cap : Nat) (esr : Nat),
      (s.health.testing = some b) ∧ (b < s.health.caps.length))
    ∧ (∃ (src : AccSrc) (w : Wy) (s : State),
      (s.running Wy.w0 = true ∨ s.running Wy.w1 = true))
    ∧ (∃ (src : AccSrc) (w : Wy) (s : State),
      (s.running Wy.w0 = true ∨ s.running Wy.w1 = true))
    ∧ (∃ (src : AccSrc) (w : Wy) (s : State) (v : Word),
      (writeArrives src (Page.hlt w) HLT_LOG_SECTION s))
    ∧ (∃ (src : AccSrc) (w : Wy) (s : State),
      (readArrives src (Page.hlt w) s))
    ∧ (∃ (src : AccSrc) (w : Wy) (s : State),
      (readArrives src (Page.hlt w) s))
    ∧ (∃ (src : AccSrc) (w : Wy) (s : State),
      (readArrives src (Page.hlt w) s))
    ∧ (∃ (src : AccSrc) (w : Wy) (s : State),
      (s.plinth.up = true)) :=
  ⟨⟨.tile .w0, .w0, s0, 31, 455, by decide, by decide⟩,
   ⟨.tile .w0, .w0, s0, 15, 900000, by decide, by decide⟩,
   ⟨.tile .w0, .w0, scap, by decide, by decide, by decide⟩,
   ⟨.tile .w0, .w0, scap, 1, ⟨by dsimp only [readArrives]; decide, nofun⟩, by decide, by decide⟩,
   ⟨.tile .w0, .w0, scap.modHealth (fun h => { h with testing := some 1 }), 1, 12, 7, by decide, by decide⟩,
   ⟨.tile .w0, .w0, s0, by decide⟩,
   ⟨.tile .w0, .w0, s0, by decide⟩,
   ⟨.tile .w0, .w0, s0, 7, ⟨by dsimp only [readArrives]; decide, nofun⟩⟩,
   ⟨.tile .w0, .w0, s0.modHealth (fun h => { h with log := [[1, 2, 3, 4, 5]] }), by dsimp only [readArrives]; decide⟩,
   ⟨.tile .w0, .w0, s0.modHealth (fun h => { h with log := [[1, 2, 3, 4, 5]] }), by dsimp only [readArrives]; decide⟩,
   ⟨.tile .w0, .w0, s0.modHealth (fun h => { h with log := [[1, 2, 3, 4, 5]] }), by dsimp only [readArrives]; decide⟩,
   ⟨.tile .w0, .w0, s0, by decide⟩⟩

/-- Each clause of LabelFollows has a state and operands that meet its hypotheses. -/
theorem witness_LabelFollows :
    (∃ (src : AccSrc) (s : State),
      (s.plinth.up = true))
    ∧ (∃ (src : AccSrc) (s : State) (v : Word),
      (writeArrives src Page.fpn FPN_LABEL_PAGE s) ∧ (fld v 2 0 ≤ 4) ∧ (s.front.refreshing = false) ∧ (s.labelPower = true))
    ∧ (∃ (src : AccSrc) (s : State) (at_ : Nat),
      (s.plinth.up = true) ∧ (s.front.refreshing = false) ∧ (s.front.touchedAt = some at_) ∧ (at_ + s.afld Page.fpn FPN_CTRL 23 16 * 1000000000 ≤ s.now) ∧ (s.front.page ≠ s.returnPage) ∧ (s.labelPower = true))
    ∧ (∃ (src : AccSrc) (s : State),
      (s.front.refreshing = true))
    ∧ (∃ (src : AccSrc) (s : State),
      (s.plinth.up = true) ∧ (s.front.refreshing = false) ∧ (s.front.shown ≠ []) ∧ (List.take 4 s.front.shown = s.removalView) ∧ (s.front.refreshAt + 10000000000 ≤ s.now) ∧ (s.front.shown ≠ s.labelView s.front.page) ∧ (s.labelPower = true))
    ∧ (∃ (src : AccSrc) (s : State) (ms_ : Nat),
      (s.plinth.up = true) ∧ (ms_ < 3000)) :=
  ⟨⟨.plinth, s0, by decide⟩,
   ⟨.plinth, s0, 4, ⟨by dsimp only [readArrives]; decide, nofun⟩, by decide, by decide⟩,
   ⟨.plinth, s0.modFront (fun f => { f with page := 2, touchedAt := some 0 }), 0, by decide, by decide, by decide, by decide, by decide⟩,
   ⟨.plinth, s0.modFront (fun f => { f with refreshing := true, kept := some (some 3) }), by decide⟩,
   ⟨.plinth, (s0.modFront (fun f => { f with refreshing := false, shown := s0.labelView 1 })), by decide, by decide, by decide, by decide, by decide, by decide⟩,
   ⟨.plinth, s0, 1999, by decide, by decide⟩⟩

/-- Each clause of RemovalActs has a state and operands that meet its hypotheses. -/
theorem witness_RemovalActs :
    (∃ (src : AccSrc) (s : State) (v : Word),
      (writeArrives src Page.fpn FPN_REMOVE s) ∧ (s.front.latchClosed = true) ∧ (bitOf v 0 = true) ∧ (bitOf v 1 = false) ∧ (s.removing = false) ∧ (s.wall.st ≠ WallSt.leaving))
    ∧ (∃ (src : AccSrc) (s : State) (v : Word),
      (writeArrives src Page.fpn FPN_REMOVE s) ∧ (s.front.latchClosed = true) ∧ (bitOf v 0 = false) ∧ (bitOf v 1 = true) ∧ (s.removing = true ∨ s.wall.st = WallSt.leaving))
    ∧ (∃ (src : AccSrc) (s : State),
      (s.plinth.up = true))
    ∧ (∃ (src : AccSrc) (s : State) (source : Nat) (ret : Option Nat) (stripe : Nat) (margin : Nat),
      (s.front.asking = some (source, ret)))
    ∧ (∃ (src : AccSrc) (s : State) (source : Nat) (ret : Option Nat) (stripe : Nat) (margin : Nat) (reason : Nat),
      (s.front.asking = some (source, ret)) ∧ (reason ≠ 0))
    ∧ (∃ (src : AccSrc) (s : State),
      (s.plinth.up = true) ∧ (s.front.latchClosed = true))
    ∧ (∃ (src : AccSrc) (s : State),
      (s.plinth.up = true) ∧ (s.front.latchClosed = false))
    ∧ (∃ (src : AccSrc) (s : State),
      (s.plinth.up = true) ∧ (s.front.latchClosed = true) ∧ (s.front.early = true))
    ∧ (∃ (src : AccSrc) (s : State) (h : Half),
      (s.plinth.up = true) ∧ (auxIn s.plinth = true))
    ∧ (∃ (src : AccSrc) (s : State) (h : Half),
      (s.plinth.up = true) ∧ (auxIn s.plinth = true)) :=
  ⟨⟨.plinth, slatch, 1, ⟨by dsimp only [readArrives]; decide, nofun⟩, by decide, by decide, by decide, by decide, by decide⟩,
   ⟨.plinth, slatch.modFront (fun f => { f with removeSt := 1 }), 2, ⟨by dsimp only [readArrives]; decide, nofun⟩, by decide, by decide, by decide, by decide⟩,
   ⟨.plinth, slatch, by decide⟩,
   ⟨.plinth, slatch.modFront (fun f => { f with asking := some (1, none) }), 1, none, 0, 2, by decide⟩,
   ⟨.plinth, slatch.modFront (fun f => { f with asking := some (1, none) }), 1, none, 0, 2, 3, by decide, by decide⟩,
   ⟨.plinth, slatch, by decide, by decide⟩,
   ⟨.plinth, (slatch.modFront (fun f => { f with latchClosed := false })).modWall (fun y => { y with stopping := true }), by decide, by decide⟩,
   ⟨.plinth, slatch.modFront (fun f => { f with early := true }), by decide, by decide, by decide⟩,
   ⟨.plinth, s0, .b, by decide, by decide⟩,
   ⟨.plinth, s0, .b, by decide, by decide⟩⟩

/-- Each clause of SessionsAct has a state and operands that meet its hypotheses. -/
theorem witness_SessionsAct :
    (∃ (session : Nat) (s : State) (ticket : Bytes),
      (s.plinth.up = true) ∧ (s.plinth.sessions.length < 4) ∧ (isTicket ticket = true))
    ∧ (∃ (session : Nat) (s : State) (x : Session),
      (s.session session = some x) ∧ (x.until_ < s.plinthTime))
    ∧ (∃ (session : Nat) (s : State) (x : Session),
      (s.session session = some x))
    ∧ (∃ (session : Nat) (s : State) (sec_ : Nat),
      (s.may session 2 = true) ∧ (60 ≤ sec_) ∧ (sec_ ≤ 86400) ∧ (s.removing = false) ∧ (s.wall.st = WallSt.member) ∧ (s.service = false) ∧ (s.front.latchClosed = true))
    ∧ (∃ (session : Nat) (s : State) (key : Bytes),
      (s.may session 7 = true) ∧ (s.plinth.authorities.length < 8))
    ∧ (∃ (session : Nat) (s : State) (cal : Bool) (ksA : Bool) (ksB : Bool),
      (s.may session 5 = true) ∧ (s.front.latchClosed = true) ∧ (s.service = false) ∧ (s.removing = false) ∧ (s.wall.st = WallSt.member))
    ∧ (∃ (session : Nat) (s : State) (cal : Bool) (ksA : Bool) (ksB : Bool),
      (s.may session 5 = true) ∧ (s.front.latchClosed = true) ∧ (s.service = false) ∧ (s.removing = false) ∧ (s.wall.st = WallSt.unjoined) ∧ (s.powered = true))
    ∧ (∃ (session : Nat) (s : State),
      (s.may session 1 = true) ∧ (s.plinth.recovery = false))
    ∧ (∃ (session : Nat) (s : State),
      (s.may session 1 = true) ∧ (s.plinth.recovery = true) ∧ (s.service = false) ∧ (s.holdup = none) ∧ (s.inA.on = true ∨ s.inB.on = true)) :=
  ⟨⟨1, s0, ticket0, by decide, by decide, by decide +kernel⟩,
   ⟨1, s0.modPlinth (fun p => { p with sessions := [{ n := 1, rights := 0xFF, until_ := 0, ceiling := 0 }] }), { n := 1, rights := 0xFF, until_ := 0, ceiling := 0 }, by decide, by decide⟩,
   ⟨1, ssess, { n := 1, rights := 0xFF, until_ := 2 ^ 60, ceiling := 0 }, by decide⟩,
   ⟨1, (ssess.modFront (fun f => { f with latchClosed := true })), 86400, by decide, by decide, by decide, by decide, by decide, by decide, by decide⟩,
   ⟨1, ssess, [1], by decide, by decide⟩,
   ⟨1, (ssess.modFront (fun f => { f with latchClosed := true })), true, true, true, by decide, by decide, by decide, by decide, by decide⟩,
   ⟨1, (ssess.modFront (fun f => { f with latchClosed := true })).modWall (fun y => { y with st := .unjoined }), true, true, true, by decide, by decide, by decide, by decide, by decide, by decide⟩,
   ⟨1, ssess, by decide, by decide⟩,
   ⟨1, ssess.modPlinth (fun p => { p with recovery := true }), by decide, by decide, by decide, by decide, by decide⟩⟩

/-- Each clause of LocateStartsAndEnds has a state and operands that meet its hypotheses. -/
theorem witness_LocateStartsAndEnds :
    (∃ (src : AccSrc) (h : Half) (s : State),
      (s.plinth.up = true) ∧ ((match h with | Half.a => s.front.contactA | Half.b => s.front.contactB) = false))
    ∧ (∃ (src : AccSrc) (h : Half) (s : State),
      (s.plinth.up = true) ∧ ((match h with | Half.a => s.front.contactA | Half.b => s.front.contactB) = true))
    ∧ (∃ (src : AccSrc) (h : Half) (s : State),
      (s.plinth.up = true))
    ∧ (∃ (src : AccSrc) (h : Half) (s : State) (v : Word),
      (s.plinth.up = true) ∧ (writeArrives src Page.fpn FPN_LOCATE s))
    ∧ (∃ (src : AccSrc) (h : Half) (s : State) (ms_ : Nat),
      (s.plinth.up = true) ∧ (ms_ < 2000) ∧ (s.afld Page.fpn FPN_CTRL 0 0 = 1) ∧ (s.front.locateAt ≠ none))
    ∧ (∃ (src : AccSrc) (h : Half) (s : State) (at_ : Nat),
      (s.plinth.up = true) ∧ (s.front.locateAt = some at_)) :=
  ⟨⟨.plinth, .a, s0, by decide, by decide⟩,
   ⟨.plinth, .b, s0.modFront (fun f => { f with contactB := true }), by decide, by decide⟩,
   ⟨.plinth, .a, s0.modFront (fun f => { f with contactA := true, locateAt := some 5 }), by decide⟩,
   ⟨.plinth, .a, s0, 1, by decide, ⟨by dsimp only [readArrives]; decide, nofun⟩⟩,
   ⟨.plinth, .a, s0.modFront (fun f => { f with contactA := true, locateAt := some 5 }), 1999, by decide, by decide, by decide, by decide⟩,
   ⟨.plinth, .a, s0.modFront (fun f => { f with locateAt := some 5 }), 5, by decide, by decide⟩⟩

/-- Each clause of ArbiterGrants has a state and operands that meet its hypotheses. -/
theorem witness_ArbiterGrants :
    (∃ (w : Wy) (c : Fin 64) (s : State),
      ((s.chan ↑c).owner = none))
    ∧ (∃ (w : Wy) (c : Fin 64) (s : State),
      ((s.chan ↑c).owner = some w.peer) ∧ (s.heldWy w.peer = true))
    ∧ (∃ (w : Wy) (c : Fin 64) (s : State),
      ((s.chan ↑c).owner = some w.peer) ∧ (s.heldWy w.peer = false))
    ∧ (∃ (w : Wy) (c : Fin 64) (s : State),
      ((s.chan ↑c).owner = some w))
    ∧ (∃ (w : Wy) (c : Fin 64) (s : State),
      ((s.chan ↑c).releasing = true) ∧ ((s.chan ↑c).lending = false) ∧ ((s.chan ↑c).mode = ChanMode.home) ∧ (∀ (j : ChJob), j ∈ s.media.jobs → j.req.channel ≠ ↑c)) :=
  ⟨⟨.w0, 0, s0, by decide⟩,
   ⟨.w0, 32, { scover with media := { s0.media with chans := [(32, ch0 .w1)] } }, by decide, by decide⟩,
   ⟨.w0, 32, { s0 with media := { s0.media with chans := [(32, ch0 .w1)] } }, by decide, by decide⟩,
   ⟨.w0, 0, sch [], by decide⟩,
   ⟨.w0, 0, s0.modMedia (fun y => { y with chans := [(0, { ch0 .w0 with releasing := true })] }), by decide, by decide, by decide, by decide⟩⟩

/-- Each clause of CompressedFormIsKeptBy1516 has a state and operands that meet its hypotheses. -/
theorem witness_CompressedFormIsKeptBy1516 :
    (∃ (w : Wy) (id : Nat) (n : Nat) (tile : Fin 128) (c : Cmd) (x : WChunk) (out : Bytes) (s : State),
      (s.codecTile w CodecUnit.compress (JobRef.writeChunk id n) = some tile) ∧ ((s.wy w).relief.cmd id = some c) ∧ (c.wchunks[n]? = some x) ∧ (compressedForm x.codec x.data out = true) ∧ (16 * List.length out ≤ 15 * List.length x.data))
    ∧ (∃ (w : Wy) (id : Nat) (n : Nat) (tile : Fin 128) (c : Cmd) (x : WChunk) (out : Bytes) (s : State),
      (s.codecTile w CodecUnit.compress (JobRef.writeChunk id n) = some tile) ∧ ((s.wy w).relief.cmd id = some c) ∧ (c.wchunks[n]? = some x) ∧ (compressedForm x.codec x.data out = true) ∧ (15 * List.length x.data < 16 * List.length out))
    ∧ (∃ (w : Wy) (id : Nat) (n : Nat) (tile : Fin 128) (c : Cmd) (x : WChunk) (out : Bytes) (s : State),
      (s.codecTile w CodecUnit.compress (JobRef.writeChunk id n) = some tile) ∧ ((s.wy w).relief.cmd id = some c) ∧ (c.wchunks[n]? = some x) ∧ (compressedForm x.codec x.data out = true) ∧ (List.length x.data = 65536) ∧ (List.length out = 61440))
    ∧ (∃ (w : Wy) (id : Nat) (n : Nat) (tile : Fin 128) (c : Cmd) (x : WChunk) (out : Bytes) (s : State),
      (s.codecTile w CodecUnit.compress (JobRef.writeChunk id n) = some tile) ∧ ((s.wy w).relief.cmd id = some c) ∧ (c.wchunks[n]? = some x) ∧ (compressedForm x.codec x.data out = true) ∧ (List.length x.data = 65536) ∧ (List.length out = 61441)) :=
  ⟨⟨.w0, 0, 0, 2, cw (op0 true) [wcz .deflate 16], wcz .deflate 16, [99, 100, 68, 5, 0], sc (cw (op0 true) [wcz .deflate 16]) .compress (.writeChunk 0 0), by decide, by decide, by decide, by decide +kernel, by decide⟩,
   ⟨.w0, 0, 0, 2, cw (op0 true) [wcz .deflate 16], wcz .deflate 16, [1, 16, 0, 239, 255] ++ List.replicate 16 1, sc (cw (op0 true) [wcz .deflate 16]) .compress (.writeChunk 0 0), by decide, by decide, by decide, by decide +kernel, by decide⟩,
   ⟨.w0, 0, 0, 2, cw (op0 true) [wcz .zstd 65536], wcz .zstd 65536, zHead ([0x72, 0x80, 0] ++ 1 :: ([0x91, 0x7F, 7] ++ List.replicate 61426 1)), sc (cw (op0 true) [wcz .zstd 65536]) .compress (.writeChunk 0 0), rfl, rfl, rfl, zstd_two_blocks 61426 4110 [0x72, 0x80, 0] [0x91, 0x7F, 7] rfl rfl (by decide) (by decide) (by decide) (by decide) (by decide) (by decide) (by decide), List.length_replicate .., by simp only [zHead, List.length_append, List.length_cons, List.length_replicate, List.length_nil]⟩,
   ⟨.w0, 0, 0, 2, cw (op0 true) [wcz .zstd 65536], wcz .zstd 65536, zHead ([0x6A, 0x80, 0] ++ 1 :: ([0x99, 0x7F, 7] ++ List.replicate 61427 1)), sc (cw (op0 true) [wcz .zstd 65536]) .compress (.writeChunk 0 0), rfl, rfl, rfl, zstd_two_blocks 61427 4109 [0x6A, 0x80, 0] [0x99, 0x7F, 7] rfl rfl (by decide) (by decide) (by decide) (by decide) (by decide) (by decide) (by decide), List.length_replicate .., by simp only [zHead, List.length_append, List.length_cons, List.length_replicate, List.length_nil]⟩⟩

/-- Each clause of AppliedDeltasAreLogged has a state and operands that meet its hypotheses. -/
theorem witness_AppliedDeltasAreLogged :
    (∃ (w : Wy) (h : MHead) (p : Nat) (home : Nat) (g : Nat) (seq : Nat) (lwm : Nat) (ended : Bool) (entries : List DeltaEntry) (s : State),
      (s.hears w = true) ∧ (h.epoch = s.wall.epoch) ∧ (s.leads g = true) ∧ ((s.groupRec g).held = true) ∧ ((s.groupRec g).recount = false) ∧ ((s.groupRec g).syncing = []) ∧ ((p, seq) ∈ (s.groupRec g).image.log ∨ seq < (tableGet? (s.groupRec g).image.lwm p).getD 0))
    ∧ (∃ (w : Wy) (h : MHead) (p : Nat) (home : Nat) (g : Nat) (seq : Nat) (lwm : Nat) (ended : Bool) (entries : List DeltaEntry) (s : State),
      (s.hears w = true) ∧ (h.epoch = s.wall.epoch) ∧ (s.leads g = true) ∧ ((s.groupRec g).held = true) ∧ ((s.groupRec g).recount = false) ∧ ((s.groupRec g).syncing = []) ∧ (¬(p, seq) ∈ (s.groupRec g).image.log) ∧ ((tableGet? (s.groupRec g).image.lwm p).getD 0 ≤ seq) ∧ (lwm ≤ seq)) :=
  ⟨⟨.w0, h0, 0, 1, 0, 4, 2, false, [], sgr { gr0 with image := { gr0.image with log := [(0, 4)] } }, by decide, by decide, by decide, by decide, by decide, by decide⟩,
   ⟨.w0, h0, 0, 1, 0, 4, 4, false, [], sgr { gr0 with image := { gr0.image with log := [(0, 3)] } }, by decide, by decide, by decide, by decide, by decide, by decide, by decide, by decide⟩⟩

/-- Each clause of CommandsLeaveTheRest has a state and operands that meet its hypotheses. -/
theorem witness_CommandsLeaveTheRest :
    (∃ (i : Instr) (s : State) (t : State),
      (exec i s = Host.Outcome.next t))
    ∧ (∃ (i : Instr) (s : State) (t : State) (p : Part),
      (exec i s = Host.Outcome.next t) ∧ (¬p ∈ changes i)) :=
  ⟨⟨.touch, s0, _, rfl⟩,
   ⟨.touch, s0, _, .wall, rfl, by decide⟩⟩

/-- Each clause of AccessesChangeNothingElse has a state and operands that meet its hypotheses. -/
theorem witness_AccessesChangeNothingElse :
    (∃ (src : AccSrc) (p : Page) (w : Wy) (v : Word) (s : State) (t : State),
      (writeArrives src p EVT_STATUS s))
    ∧ (∃ (src : AccSrc) (p : Page) (w : Wy) (v : Word) (s : State) (t : State),
      (writeArrives src p EVT_FORCE s))
    ∧ (∃ (src : AccSrc) (p : Page) (w : Wy) (v : Word) (s : State) (t : State),
      (writeArrives src p PAGE_LOCK s))
    ∧ (∃ (src : AccSrc) (p : Page) (w : Wy) (v : Word) (s : State) (t : State),
      (readArrives src p s))
    ∧ (∃ (src : AccSrc) (p : Page) (w : Wy) (v : Word) (s : State) (t : State) (q : Page) (off : Nat),
      (readArrives src (Page.glb w) s) ∧ (exec (Instr.hlcRead src w) s = Host.Outcome.next t) ∧ (pageKey q + off ≠ pageKey (Page.glb w) + GLB_HLC_HI))
    ∧ (∃ (src : AccSrc) (p : Page) (w : Wy) (v : Word) (s : State) (t : State) (addr : Nat) (data : Bytes) (sector : Nat) (a : Nat),
      (s.plinth.up = true) ∧ (flashShape (FlashOp.program addr data true) = some (sector, 1)) ∧ (flashMay FlashBy.firmware (FlashOp.program addr data true) sector 1 = true) ∧ (s.flash.erase = none) ∧ (s.flash.waiting = []) ∧ (s.programmed (addr / 32) = false) ∧ (exec (Instr.pfProgram addr data true) s = Host.Outcome.next t) ∧ (a ≠ addr / 32))
    ∧ (∃ (src : AccSrc) (p : Page) (w : Wy) (v : Word) (s : State) (t : State) (addr : Nat) (data : Bytes) (sector : Nat),
      (s.plinth.up = true) ∧ (flashShape (FlashOp.program addr data true) = some (sector, 1)) ∧ (flashMay FlashBy.firmware (FlashOp.program addr data true) sector 1 = true) ∧ (s.flash.erase = none) ∧ (s.flash.waiting = []) ∧ (s.programmed (addr / 32) = false) ∧ (exec (Instr.pfProgram addr data true) s = Host.Outcome.next t))
    ∧ (∃ (src : AccSrc) (p : Page) (w : Wy) (v : Word) (s : State) (t : State) (addr : Nat) (a : Nat),
      (s.plinth.up = true) ∧ (s.flash.erase = none) ∧ (exec (Instr.pfErase addr) s = Host.Outcome.next t))
    ∧ (∃ (src : AccSrc) (p : Page) (w : Wy) (v : Word) (s : State) (t : State) (addr : Nat) (outcomes : List (Nat × Nat)) (a : Nat),
      (exec (Instr.pfRead addr outcomes) s = Host.Outcome.next t)) :=
  ⟨⟨.tile .w0, .til .w0 5, .w0, 1, s0, s0, ⟨by dsimp only [readArrives]; decide, nofun⟩⟩,
   ⟨.tile .w0, .til .w0 5, .w0, 1, s0, s0, ⟨by dsimp only [readArrives]; decide, nofun⟩⟩,
   ⟨.tile .w0, .til .w0 5, .w0, 1, s0, s0, ⟨by dsimp only [readArrives]; decide, nofun⟩⟩,
   ⟨.tile .w0, .til .w0 5, .w0, 1, s0, s0, by dsimp only [readArrives]; decide⟩,
   ⟨.tile .w0, .til .w0 5, .w0, 1, s0, _, .til .w0 5, EVT_STATUS, by dsimp only [readArrives]; decide, rfl, by decide⟩,
   ⟨.tile .w0, .til .w0 5, .w0, 1, s0, _, 0xFFFFE0, [1], 4095, 0, by decide, by decide, by decide, by decide, by decide, by decide, rfl, by decide⟩,
   ⟨.tile .w0, .til .w0 5, .w0, 1, s0, _, 0xFFFFE0, [1], 4095, by decide, by decide, by decide, by decide, by decide, by decide, rfl⟩,
   ⟨.tile .w0, .til .w0 5, .w0, 1, s0, _, 0x3F000, 0, by decide, by decide, rfl⟩,
   ⟨.tile .w0, .til .w0 5, .w0, 1, s0, _, 0x3F000, [(0, 0)], 0, rfl⟩⟩

end Sys2Proof.Tests
end

section
/-! PROOFS. The channel ownership arbiter (R26): what a channel's record holds after a change of owner, and when a request to take a
channel or a release brings one about. -/

namespace Sys2Proof

theorem Wy.peer_ne_self (w : Wy) : w.peer ≠ w := by cases w <;> decide

end Sys2Proof

namespace Sys2Proof.Machine

/-! ### A channel's record -/

/-- A key just stored is found, whether or not the table was in canonical form. -/
@[simp] theorem tableGet?_tablePut_self {α : Type} (t : Table α) (k : Nat) (a : α) :
    tableGet? (tablePut t k a) k = some a := by
  induction t with
  | nil => simp [tablePut, tableGet?]
  | cons e t ih =>
    unfold tablePut
    split
    · simp [tableGet?]
    · split
      · simp [tableGet?]
      · next hne => simp [tableGet?, Ne.symm hne, ih]

@[simp] theorem State.modChan_chan_self (s : State) (c : Nat) (f : ChanSt → ChanSt) :
    (s.modChan c f).chan c = f (s.chan c) := by
  simp [State.modChan, State.chan]

@[simp] theorem State.chanUnknown_chan (s : State) (c d : Nat) : (s.chanUnknown c).chan d = s.chan d := rfl

/-- An operation that keeps the media keeps every channel's record. -/
theorem Keeps.chan_eq {l : List Part} {s t : State} (h : Keeps l s t) (hl : .media ∉ l) (c : Nat) : t.chan c = s.chan c :=
  congrArg (fun m : Media => (tableGet? m.chans c).getD .reset) (h.part .media hl)

@[simp] theorem State.event_chan (s : State) (p : Page) (n c : Nat) : (s.event p n).chan c = s.chan c :=
  State.event_keeps.chan_eq (by decide) c

@[simp] theorem State.bump_chan (s : State) (p : Page) (off c : Nat) : (s.bump p off).chan c = s.chan c :=
  State.bump_keeps.chan_eq (by decide) c

@[simp] theorem State.setRfld_chan (s : State) (p : Page) (off hi lo v c : Nat) : (s.setRfld p off hi lo v).chan c = s.chan c :=
  State.setRfld_keeps.chan_eq (by decide) c

@[simp] theorem State.setUnit_chan (s : State) (p : Page) (u : UnitSt) (c : Nat) : (s.setUnit p u).chan c = s.chan c :=
  State.setUnit_keeps.chan_eq (by decide) c

/-- A change of owner sets owner and mode, clears a pending release, and leaves the rest of the channel's record (R341-R343). -/
theorem State.newOwner_chan_self (s : State) (c : Nat) (o : Option Wy) (m : ChanMode) :
    (s.newOwner c o m).chan c = { s.chan c with owner := o, mode := m, releasing := false, lending := false } := by
  unfold State.newOwner
  simp only [State.event_chan, State.bump_chan, State.chanUnknown_chan, State.modChan_chan_self]
  split <;> simp only [State.setRfld_chan, State.setUnit_chan]

@[simp] theorem State.newOwner_owner (s : State) (c : Nat) (o : Option Wy) (m : ChanMode) :
    ((s.newOwner c o m).chan c).owner = o := by
  rw [State.newOwner_chan_self]

/-! ### The arbiter's answer -/

theorem State.takeChannel_owner_of_unowned {s : State} {c : Nat} (w : Wy) (h : (s.chan c).owner = none) :
    ((s.takeChannel w c).chan c).owner = some w := by
  simp [State.takeChannel, h]

theorem State.takeChannel_owner_of_held {s : State} {w : Wy} {c : Nat} (h : (s.chan c).owner = some w.peer)
    (hheld : s.heldWy w.peer = true) : ((s.takeChannel w c).chan c).owner = some w := by
  simp [State.takeChannel, h, hheld]

/-- The arbiter refuses: the channel has an owner, and that is not the asking wythe's peer held in reset. -/
theorem State.takeChannel_refused {s : State} {w : Wy} {c : Nat} (howned : (s.chan c).owner ≠ none)
    (hrun : (s.chan c).owner = some w.peer → s.heldWy w.peer = false) : s.takeChannel w c = s := by
  unfold State.takeChannel
  rw [if_neg howned, if_neg]
  intro h
  obtain ⟨hpeer, hheld⟩ := by simpa using h
  simp [hrun hpeer] at hheld

/-- A home channel's release with no request left on it and no hand-over asked for ends with no owner (R343). -/
theorem State.releaseDone_owner_of_idle_home {s : State} {c : Nat} (hrel : (s.chan c).releasing = true)
    (hlend : (s.chan c).lending = false) (hhome : (s.chan c).mode = .home) (hidle : ∀ j ∈ s.media.jobs, j.req.channel ≠ c) :
    ((s.releaseDone c).chan c).owner = none := by
  have hbusy : s.media.jobs.any (fun j => j.req.channel = c && j.st ≠ .queued && j.st ≠ .held) = false :=
    List.any_eq_false.mpr fun j hj => by simp [hidle j hj]
  have hleft : s.media.jobs.filter (fun j => j.req.channel = c) = [] :=
    List.filter_eq_nil_iff.mpr fun j hj => by simp [hidle j hj]
  simp only [State.releaseDone, hbusy, hleft]
  simp [hrel, hlend, hhome]

end Sys2Proof.Machine

namespace Sys2Proof

open Sys2Proof.Machine

/-- Settles O56, from the arbiter's answer in each case: a change of owner writes the owner it is given, and a refused request returns
the state it was given. -/
theorem arbiterGrants : Obligations.ArbiterGrants := by
  unfold Obligations.ArbiterGrants
  intro w c s
  refine ⟨fun hfree => ?_, fun hpeer hheld => ?_, fun hpeer hrun => ?_, fun hown => ?_, fun hrel hlend hhome hidle => ?_⟩
  · exact ⟨_, rfl, State.takeChannel_owner_of_unowned w hfree⟩
  · exact ⟨_, rfl, State.takeChannel_owner_of_held hpeer hheld⟩
  · exact congrArg Host.Outcome.next (State.takeChannel_refused (by simp [hpeer]) fun _ => hrun)
  · refine congrArg Host.Outcome.next (State.takeChannel_refused (by simp [hown]) fun hpeer => ?_)
    exact absurd (Option.some.inj (hpeer.symm.trans hown)) w.peer_ne_self
  · exact ⟨_, rfl, State.releaseDone_owner_of_idle_home hrel hlend hhome hidle⟩

end Sys2Proof
end

section
/-! PROOFS. The end of a chunk's compression job (R143): what each operation of the write path leaves of a chunk of a write, what packing a
chunk into its buffer brings about, and the 15/16 rule. -/

namespace Sys2Proof.Machine

/-- Changing the first element found changes what is found, where the change keeps it one that is looked for. -/
theorem find?_updFirst {α : Type} {p : α → Bool} {f : α → α} (hf : ∀ a, p a = true → p (f a) = true) (l : List α) :
    (updFirst p f l).find? p = (l.find? p).map f := by
  induction l with
  | nil => rfl
  | cons a l ih =>
    by_cases ha : p a = true
    · simp [updFirst, ha, hf a ha]
    · simp [updFirst, ha, ih]

theorem Relief.cmd_id {r : Relief} {id : Nat} {c : Cmd} (h : r.cmd id = some c) : c.id = id := by
  simpa using List.find?_some h

theorem State.modCmd_cmd {s : State} {w : Wy} {id : Nat} {f : Cmd → Cmd} (hf : ∀ c, (f c).id = c.id) :
    ((s.modCmd w id f).wy w).relief.cmd id = ((s.wy w).relief.cmd id).map f := by
  simp only [State.modCmd, State.modRelief_wy, Relief.cmd]
  exact find?_updFirst (fun c hc => by simpa [hf] using hc) _

/-- An operation that keeps the Relief part keeps each wythe's Relief state. -/
theorem Keeps.relief_eq {l : List Part} {s t : State} (h : Keeps l s t) (hl : .relief ∉ l) (w : Wy) :
    (t.wy w).relief = (s.wy w).relief := by
  obtain ⟨h0, h1⟩ := h.part .relief hl
  cases w
  · exact h0
  · exact h1

/-! ### A chunk of a write -/

/-- The chunk of a chunk index of a command in flight. -/
def State.wchunkAt (s : State) (w : Wy) (id n : Nat) : Option WChunk :=
  ((s.wy w).relief.cmd id).bind (fun c => c.wchunks[n]?)

theorem State.wchunkAt_eq_some {s : State} {w : Wy} {id n : Nat} {x : WChunk} :
    s.wchunkAt w id n = some x ↔ ∃ c, (s.wy w).relief.cmd id = some c ∧ c.wchunks[n]? = some x :=
  Option.bind_eq_some_iff

theorem Keeps.wchunkAt_eq {l : List Part} {s t : State} (h : Keeps l s t) (hl : .relief ∉ l) (w : Wy) (id n : Nat) :
    t.wchunkAt w id n = s.wchunkAt w id n := by
  simp only [State.wchunkAt, h.relief_eq hl]

@[simp] theorem State.modWChunk_wchunkAt (s : State) (w : Wy) (id n : Nat) (f : WChunk → WChunk) :
    (s.modWChunk w id n f).wchunkAt w id n = (s.wchunkAt w id n).map f := by
  unfold State.wchunkAt State.modWChunk
  rw [State.modCmd_cmd]
  · cases (s.wy w).relief.cmd id <;> simp [List.getElem?_mapIdx]
  · exact fun _ => rfl

@[simp] theorem State.modOp_wchunkAt (s : State) (w : Wy) (id m n : Nat) (f : WriteOp → WriteOp) :
    (s.modOp w id m f).wchunkAt w id n = s.wchunkAt w id n := by
  unfold State.wchunkAt State.modOp
  rw [State.modCmd_cmd]
  · cases (s.wy w).relief.cmd id <;> rfl
  · exact fun _ => rfl

/-- A pull that sets out is noted beside the commands in flight, which stay as they are (R91). -/
@[simp] theorem State.issuePull_wchunkAt (s : State) (w : Wy) (c : Cmd) (m addr rkey len id n : Nat) :
    (s.issuePull w c m addr rkey len).wchunkAt w id n = s.wchunkAt w id n := by
  cases w <;> rfl

@[simp] theorem State.pullMore_wchunkAt (s : State) (w : Wy) (id n : Nat) :
    (s.pullMore w id).wchunkAt w id n = s.wchunkAt w id n := by
  unfold State.pullMore
  split
  · rfl
  · split
    · rfl
    · dsimp only
      split
      · rfl
      · rw [State.issuePull_wchunkAt, State.modOp_wchunkAt]

@[simp] theorem State.releaseRing_wchunkAt (s : State) (w : Wy) (id m start len n : Nat) :
    (s.releaseRing w id m start len).wchunkAt w id n = s.wchunkAt w id n := by
  simp only [State.releaseRing, State.pullMore_wchunkAt, State.modOp_wchunkAt]

@[simp] theorem State.queueCrypt_wchunkAt (s : State) (w : Wy) (ref : JobRef) (c : Fin 16) (encrypt : Bool) (ks : BitVec 32)
    (ver prio : Nat) (input aad iv tag : Bytes) (id n : Nat) :
    (s.queueCrypt w ref c encrypt ks ver prio input aad iv tag).wchunkAt w id n = s.wchunkAt w id n :=
  State.queueCrypt_keeps.wchunkAt_eq (by decide) w id n

@[simp] theorem State.endCodec_wchunkAt (s : State) (w : Wy) (u : CodecUnit) (ref : JobRef) (t : Fin 128) (id n : Nat) :
    (s.endCodec w u ref t).wchunkAt w id n = s.wchunkAt w id n :=
  State.endCodec_keeps.wchunkAt_eq (by decide) w id n

/-! ### Packing -/

@[simp] theorem State.packed_wchunkAt (s : State) (w : Wy) (c : Cmd) (n : Nat) (x : WChunk) (codec : Codec) (body : Bytes) :
    (s.packed w c n x codec body).wchunkAt w c.id n
      = (s.wchunkAt w c.id n).map (fun y => { y with stage := .compressed, body := body, codec := codec }) := by
  simp only [State.packed, State.queueCrypt_wchunkAt, State.releaseRing_wchunkAt, State.modWChunk_wchunkAt]

theorem State.queueCrypt_queues (s : State) (w : Wy) (ref : JobRef) (c : Fin 16) (encrypt : Bool) (ks : BitVec 32) (ver prio : Nat)
    (input aad iv tag : Bytes) :
    ∃ j ∈ ((s.queueCrypt w ref c encrypt ks ver prio input aad iv tag).wy w).cip.jobs,
      j.ref = ref ∧ j.encrypt = encrypt ∧ j.input = input := by
  simp [State.queueCrypt]

/-- A packed chunk holds the bytes and the codec it was packed with, and those bytes wait for their encryption (R143, R157). -/
theorem State.packed_holds {s : State} {w : Wy} {c : Cmd} {n : Nat} {x y : WChunk} (codec : Codec) (body : Bytes)
    (h : s.wchunkAt w c.id n = some y) :
    (∃ d z, ((s.packed w c n x codec body).wy w).relief.cmd c.id = some d ∧ d.wchunks[n]? = some z ∧ z.body = body ∧ z.codec = codec)
      ∧ ∃ j ∈ ((s.packed w c n x codec body).wy w).cip.jobs, j.ref = .writeChunk c.id n ∧ j.encrypt = true ∧ j.input = body := by
  have hat := s.packed_wchunkAt w c n x codec body
  rw [h, Option.map_some] at hat
  obtain ⟨d, hd, hz⟩ := State.wchunkAt_eq_some.mp hat
  exact ⟨⟨d, _, hd, hz, rfl, rfl⟩, State.queueCrypt_queues ..⟩

/-! ### The 15/16 rule -/

section CompressJobEnd

variable {w : Wy} {id n : Nat} {tile : Fin 128} {c : Cmd} {x : WChunk} {out : Bytes} {s : State}
  (htile : s.codecTile w .compress (.writeChunk id n) = some tile) (hcmd : (s.wy w).relief.cmd id = some c)
  (hx : c.wchunks[n]? = some x) (hform : compressedForm x.codec x.data out = true)
include hcmd hx

/-- What the end of the job leaves: the form that was packed, and its encryption queued. -/
theorem compressJobEnd_runs_of_packed {codec : Codec} {body : Bytes}
    (hpack : execCompressJobEnd w id n out s
      = .next ((s.endCodec w .compress (.writeChunk id n) tile).packed w c n x codec body)) :
    Runs (.compressJobEnd w id n out) s (fun t => (∃ d y, (t.wy w).relief.cmd id = some d ∧ d.wchunks[n]? = some y
      ∧ y.body = body ∧ y.codec = codec) ∧ ∃ j ∈ (t.wy w).cip.jobs, j.ref = .writeChunk id n ∧ j.encrypt = true ∧ j.input = body) := by
  obtain rfl := Relief.cmd_id hcmd
  have hat : (s.endCodec w .compress (.writeChunk c.id n) tile).wchunkAt w c.id n = some x := by
    rw [State.endCodec_wchunkAt]
    exact State.wchunkAt_eq_some.mpr ⟨c, hcmd, hx⟩
  exact ⟨_, hpack, State.packed_holds codec body hat⟩

include htile hform

/-- The job ends on its tile, and the chunk is packed in the form that the 15/16 rule picks. -/
theorem execCompressJobEnd_of_form :
    execCompressJobEnd w id n out s = .next (if 16 * out.length ≤ 15 * x.data.length
      then (s.endCodec w .compress (.writeChunk id n) tile).packed w c n x x.codec out
      else (s.endCodec w .compress (.writeChunk id n) tile).packed w c n x .stored x.data) := by
  simp only [execCompressJobEnd, htile, hcmd, hx, hform, Bool.not_true, Bool.false_eq_true, if_false]

end CompressJobEnd

end Sys2Proof.Machine

namespace Sys2Proof

open Sys2Proof.Machine

theorem Runs.imp {i : Instr} {s : State} {p q : State → Prop} (h : Runs i s p) (hpq : ∀ t, p t → q t) : Runs i s q := by
  obtain ⟨t, ht, hp⟩ := h
  exact ⟨t, ht, hpq t hp⟩

/-- Settles O57, from what a packed chunk holds: the compression unit's output is packed exactly when it meets the 15/16 rule, and the two
lengths of R143 stand on either side of it. -/
theorem compressedFormIsKeptBy1516 : Obligations.CompressedFormIsKeptBy1516 := by
  unfold Obligations.CompressedFormIsKeptBy1516
  intro w id n tile c x out s htile hcmd hx hform
  have hend := execCompressJobEnd_of_form htile hcmd hx hform
  have kept (hle : 16 * out.length ≤ 15 * x.data.length) :=
    compressJobEnd_runs_of_packed hcmd hx (hend.trans (by rw [if_pos hle]))
  have stored (hlt : 15 * x.data.length < 16 * out.length) :=
    compressJobEnd_runs_of_packed hcmd hx (hend.trans (by rw [if_neg (by omega)]))
  exact ⟨kept, stored,
    fun hplain hout => (kept (by omega)).imp fun _ ⟨⟨d, y, hd, hy, hbody, _⟩, _⟩ => ⟨d, y, hd, hy, hbody⟩,
    fun hplain hout => (stored (by omega)).imp fun _ ⟨⟨d, y, hd, hy, hbody, _⟩, _⟩ => ⟨d, y, hd, hy, hbody⟩⟩

end Sys2Proof
end

section
/-! PROOFS. The applied-delta log of a lead (R259): what the record of a group holds after each operation of the delta path, which of them
leave the log alone, and what the lead does with a batch that it knows and with one that it does not. -/

namespace Sys2Proof.Machine

/-! ### The record of a group -/

/-- An element put in the place of the one looked for, or added where there is none, is what is found afterwards. -/
theorem find?_upsert_const {α : Type} {q : α → Bool} {new : α} (hnew : q new = true) (l : List α) :
    (upsert q (fun _ => new) new l).find? q = some new := by
  unfold upsert
  split
  · next hany =>
    obtain ⟨a, ha⟩ := Option.isSome_iff_exists.mp (List.isSome_find?.trans hany)
    rw [find?_updFirst (fun _ _ => hnew), ha, Option.map_some]
  · next hany =>
    rw [List.find?_append, List.find?_eq_none.mpr (by simpa using hany), Option.none_or, List.find?_singleton, if_pos hnew]

@[simp] theorem State.groupRec_group (s : State) (g : Nat) : (s.groupRec g).group = g := by
  unfold State.groupRec
  cases h : s.refs.groups.find? (fun r => r.group = g) with
  | none => rfl
  | some r => simpa using List.find?_some h

theorem State.modGroup_groupRec {s : State} {g : Nat} {f : GroupRec → GroupRec} (hf : ∀ r, (f r).group = r.group) :
    (s.modGroup g f).groupRec g = f (s.groupRec g) := by
  have hfound := find?_upsert_const (q := fun x => decide (x.group = g)) (new := f (s.groupRec g)) (by simp [hf]) s.refs.groups
  simp only [State.modGroup, State.groupRec, State.modRefs_refs] at hfound ⊢
  rw [hfound, Option.getD_some]

/-- An operation that keeps the reference state, the wall and the stripes keeps every group's record. -/
theorem Keeps.groupRec_eq {l : List Part} {s t : State} (h : Keeps l s t) (hrefs : .refs ∉ l) (hwall : .wall ∉ l)
    (hstripes : .stripes ∉ l) (g : Nat) : t.groupRec g = s.groupRec g := by
  have er : t.refs = s.refs := h.part .refs hrefs
  have ew : t.wall = s.wall := h.part .wall hwall
  have es : t.stripes = s.stripes := h.part .stripes hstripes
  simp only [State.groupRec, State.seqAfter, er, ew, es]

theorem State.seeHlc_groupRec (s : State) (w : Wy) (r g : Nat) : (s.seeHlc w r).groupRec g = s.groupRec g :=
  State.seeHlc_keeps.groupRec_eq (by decide) (by decide) (by decide) g

theorem State.seeHlc_leads (s : State) (w : Wy) (r g : Nat) : (s.seeHlc w r).leads g = s.leads g := by
  cases w <;> rfl

/-! ### Operations that leave the applied-delta log alone -/

/-- The applied-delta log of a group (R259). -/
def State.deltaLog (s : State) (g : Nat) : List (Nat × Nat) := (s.groupRec g).image.log

theorem Keeps.deltaLog_eq {l : List Part} {s t : State} (h : Keeps l s t) (hrefs : .refs ∉ l) (hwall : .wall ∉ l)
    (hstripes : .stripes ∉ l) (g : Nat) : t.deltaLog g = s.deltaLog g := by
  rw [State.deltaLog, h.groupRec_eq hrefs hwall hstripes, State.deltaLog]

@[simp] theorem State.modGroup_deltaLog {s : State} {g : Nat} {f : GroupRec → GroupRec} (hf : ∀ r, (f r).group = r.group)
    (hlog : ∀ r, (f r).image.log = r.image.log) : (s.modGroup g f).deltaLog g = s.deltaLog g := by
  rw [State.deltaLog, State.modGroup_groupRec hf, hlog, State.deltaLog]

theorem State.modImage_deltaLog_apply (s : State) (g : Nat) (f : GroupImage → GroupImage) :
    (s.modImage g f).deltaLog g = (f (s.groupRec g).image).log := by
  unfold State.deltaLog State.modImage
  rw [State.modGroup_groupRec (by simp)]

@[simp] theorem State.modImage_deltaLog {s : State} {g : Nat} {f : GroupImage → GroupImage} (hlog : ∀ i, (f i).log = i.log) :
    (s.modImage g f).deltaLog g = s.deltaLog g :=
  (s.modImage_deltaLog_apply g f).trans (hlog _)

@[simp] theorem foldl_deltaLog {α : Type} {g : Nat} {f : State → α → State} (hf : ∀ s a, (f s a).deltaLog g = s.deltaLog g)
    (l : List α) (s : State) : (l.foldl f s).deltaLog g = s.deltaLog g := by
  induction l generalizing s with
  | nil => rfl
  | cons a l ih => rw [List.foldl_cons, ih, hf]

@[simp] theorem State.mortarOut_deltaLog (s : State) (w : Wy) (dst : Nat) (dstW : Wy) (b : MortarBody) (g : Nat) :
    (s.mortarOut w dst dstW b).deltaLog g = s.deltaLog g :=
  State.mortarOut_keeps.deltaLog_eq (by decide) (by decide) (by decide) g

@[simp] theorem State.mirrorGroup_deltaLog (old s : State) (k g : Nat) : (State.mirrorGroup old s k).deltaLog g = s.deltaLog g :=
  State.mirrorGroup_keeps.deltaLog_eq (by decide) (by decide) (by decide) g

@[simp] theorem State.freeStripe_deltaLog (s : State) (w : Wy) (g stripe : Nat) :
    (s.freeStripe w g stripe).deltaLog g = s.deltaLog g := by
  simp [State.freeStripe]

@[simp] theorem State.startThin_deltaLog (s : State) (w : Wy) (g stripe : Nat) :
    (s.startThin w g stripe).deltaLog g = s.deltaLog g := by
  simp [State.startThin]

@[simp] theorem State.spaceCheck_deltaLog (s : State) (w : Wy) (g stripe old : Nat) :
    (s.spaceCheck w g stripe old).deltaLog g = s.deltaLog g := by
  unfold State.spaceCheck
  dsimp only
  split
  · rfl
  · split_ifs
    · rfl
    · exact s.freeStripe_deltaLog ..
    · exact s.startThin_deltaLog ..
    · rfl

@[simp] theorem State.freeIfDead_deltaLog (s : State) (w : Wy) (g : Nat) (fp : Bytes) :
    (s.freeIfDead w g fp).deltaLog g = s.deltaLog g := by
  unfold State.freeIfDead
  dsimp only
  split
  · rfl
  · split
    · rfl
    · simp

@[simp] theorem State.endRecount_deltaLog (s : State) (w : Wy) (g : Nat) : (s.endRecount w g).deltaLog g = s.deltaLog g := by
  unfold State.endRecount
  split
  · rfl
  · simp

/-! ### What the log holds after a batch -/

/-- The log after batch `seq` of partition `p`, what lies below the mark `low` of the partition discarded. -/
def logAfter (l : List (Nat × Nat)) (p seq low : Nat) : List (Nat × Nat) :=
  (l ++ [(p, seq)]).filter (fun x => x.1 ≠ p || low ≤ x.2)

theorem mem_logAfter_self {l : List (Nat × Nat)} {p seq low : Nat} (h : low ≤ seq) : (p, seq) ∈ logAfter l p seq low := by
  simp [logAfter, h]

theorem le_of_mem_logAfter {l : List (Nat × Nat)} {p seq low n : Nat} (h : (p, n) ∈ logAfter l p seq low) : low ≤ n := by
  simpa using (List.mem_filter.mp h).2

/-! ### A message that leaves -/

theorem Keeps.holdup_eq {l : List Part} {s t : State} (h : Keeps l s t) (hl : .holdup ∉ l) : t.holdup = s.holdup :=
  h.part .holdup hl

theorem State.holdup_of_hears {s : State} {w : Wy} (h : s.hears w = true) : s.holdup = none := by
  simp only [State.hears, Bool.and_eq_true, Option.isNone_iff_eq_none] at h
  exact h.2

/-- Outside hold-up a Mortar message is put out (R477). -/
theorem State.mem_mortarOut_out {s : State} {w : Wy} {dst : Nat} {dstW : Wy} {b : MortarBody}
    (h : (s.mortarOut w dst dstW b).holdup = none) : .mortar w dst dstW b ∈ (s.mortarOut w dst dstW b).out := by
  rw [State.mortarOut_keeps.holdup_eq (by decide)] at h
  have hsend : ¬ s.used.holdup.isSome = true := by simp [h]
  have hemit : Output.mortar w dst dstW b ∈ (s.used.emit (.mortar w dst dstW b)).out := by simp [State.emit]
  unfold State.mortarOut State.mortarTo
  dsimp only
  rw [if_neg hsend]
  split
  · exact State.flowSend_keeps.out.subset hemit
  · exact State.flowSend_keeps.out.subset (State.used_keeps.out.subset hemit)

/-! ### A batch at the lead -/

section RefDelta

variable {s : State} {w : Wy} {h : MHead} {p home g seq lwm : Nat} {ended : Bool} {entries : List DeltaEntry}

/-- A batch of the wall's epoch, at a wythe that hears, of a group that no brick copies, is handled at once (R213, R254). -/
theorem execRefDelta_of_hears {recount : Bool} (hhears : s.hears w = true) (hepoch : h.epoch = s.wall.epoch)
    (hsync : (s.groupRec g).syncing = []) :
    execRefDelta w h p home g recount ended seq lwm entries s
      = .next ((s.seeHlc w h.hlc).doRefDelta w h p home g recount ended seq lwm entries) := by
  have hwall : (s.seeHlc w h.hlc).wall = s.wall := State.seeHlc_keeps.part .wall (by decide)
  simp [execRefDelta, State.mortarIn, State.orQueue, hhears, hepoch, hwall, State.seeHlc_groupRec, hsync]

variable (hleads : s.leads g = true) (hheld : (s.groupRec g).held = true) (hrecount : (s.groupRec g).recount = false)
include hleads hheld hrecount

/-- A batch that the lead knows is answered, and that is all. -/
theorem State.doRefDelta_of_known
    (hknown : (p, seq) ∈ (s.groupRec g).image.log ∨ seq < (tableGet? (s.groupRec g).image.lwm p).getD 0) :
    ∃ found, s.doRefDelta w h p home g false ended seq lwm entries
      = s.mortarOut w h.src h.srcW (.refAck p g .applied seq 0 found) := by
  unfold State.doRefDelta
  dsimp only
  rw [if_neg (by simp [hleads]), if_neg (by simp [hheld, hrecount]), if_pos (by simpa using hknown)]
  have hmissing (f : DeltaEntry → Bool) :
      ((entries.map (fun e => (⟨false, f e⟩ : DeltaDone))).filter (fun d => d.missing)).length = 0 := by simp
  rw [hmissing]
  exact ⟨_, rfl⟩

/-- Another batch enters the log before it is answered. -/
theorem State.doRefDelta_of_new (hlog : (p, seq) ∉ (s.groupRec g).image.log)
    (hlow : (tableGet? (s.groupRec g).image.lwm p).getD 0 ≤ seq) :
    ∃ (u : State) (missing : Nat) (found : List Nat),
      s.doRefDelta w h p home g false ended seq lwm entries
          = u.mortarOut w h.src h.srcW (.refAck p g .applied seq missing found)
        ∧ (s.doRefDelta w h p home g false ended seq lwm entries).deltaLog g
          = logAfter ((s.applyDeltas w g home p entries).1.deltaLog g) p seq
            (max ((tableGet? (s.groupRec g).image.lwm p).getD 0) lwm) := by
  unfold State.doRefDelta
  dsimp only
  rw [if_neg (by simp [hleads]), if_neg (by simp [hheld, hrecount]), if_neg (by simp [hlog, hlow])]
  refine ⟨_, _, _, rfl, ?_⟩
  rw [State.mortarOut_deltaLog, State.mirrorGroup_deltaLog]
  split
  · rw [State.endRecount_deltaLog, State.modGroup_deltaLog (by simp) (by simp)]
    exact State.modImage_deltaLog_apply ..
  · exact State.modImage_deltaLog_apply ..

end RefDelta

end Sys2Proof.Machine

namespace Sys2Proof

open Sys2Proof.Machine

/-- Settles O58, from what the lead does with a batch: one that it knows is only answered, and another enters the log, which nothing
that follows in the same command touches. -/
theorem appliedDeltasAreLogged : Obligations.AppliedDeltasAreLogged := by
  unfold Obligations.AppliedDeltasAreLogged
  intro w h p home g seq lwm ended entries s hhears hepoch hleads hheld hrecount hsync
  have hexec := execRefDelta_of_hears (p := p) (home := home) (seq := seq) (lwm := lwm) (ended := ended) (entries := entries)
    (recount := false) hhears hepoch hsync
  have hhold : ((s.seeHlc w h.hlc).doRefDelta w h p home g false ended seq lwm entries).holdup = none := by
    rw [State.doRefDelta_keeps.holdup_eq (by decide), State.seeHlc_keeps.holdup_eq (by decide), State.holdup_of_hears hhears]
  rw [← s.seeHlc_leads w h.hlc] at hleads
  rw [← s.seeHlc_groupRec w h.hlc g] at hheld hrecount ⊢
  refine ⟨fun hknown => ?_, fun hnew hlow hle => ?_⟩
  · obtain ⟨found, hdo⟩ := State.doRefDelta_of_known hleads hheld hrecount hknown
    rw [hdo] at hexec hhold
    exact ⟨_, hexec, ⟨found, State.mem_mortarOut_out hhold⟩,
      (State.mortarOut_keeps.step (by decide) (State.seeHlc_keeps.mono (by decide))).part⟩
  · obtain ⟨u, missing, found, hdo, hlog⟩ := State.doRefDelta_of_new hleads hheld hrecount hnew hlow
    rw [hdo] at hexec hhold hlog
    refine ⟨_, hexec, ⟨missing, found, State.mem_mortarOut_out hhold⟩, ?_⟩
    rw [← State.deltaLog, hlog]
    exact ⟨mem_logAfter_self (max_le hlow hle), fun n hn => le_of_mem_logAfter hn⟩

end Sys2Proof
end

section
/-! PROOFS. Locate (R452): what each operation of the front panel leaves of the locate timer and of the contacts, the write that arrives,
and the event bit that an acknowledgement sets. -/

namespace Sys2Proof.Machine

/-! ### The locate timer and the contacts -/

/-- The locate contact of a half is asserted. -/
def State.locateContact (s : State) : Half → Bool
  | .a => s.front.contactA
  | .b => s.front.contactB

@[simp] theorem State.setContact_now (s : State) (h : Half) (b : Bool) : (s.setContact h b).now = s.now := rfl

@[simp] theorem State.setContact_locateAt (s : State) (h : Half) (b : Bool) :
    (s.setContact h b).front.locateAt = s.front.locateAt := by
  cases h <;> rfl

@[simp] theorem State.setContact_locateContact_self (s : State) (h : Half) (b : Bool) : (s.setContact h b).locateContact h = b := by
  cases h <;> rfl

@[simp] theorem State.startLocate_locateAt (s : State) :
    s.startLocate.front.locateAt = some (s.front.locateAt.getD s.now) := rfl

@[simp] theorem State.startLocate_locateContact (s : State) (h : Half) : s.startLocate.locateContact h = s.locateContact h := by
  cases h <;> rfl

theorem State.writeLocate_locateAt (s : State) (v : Word) :
    (s.writeLocate v).front.locateAt = if bitOf v 0 then some (s.front.locateAt.getD s.now) else none := by
  unfold State.writeLocate
  dsimp only
  split
  · rfl
  · rfl

/-! ### The contacts of the connector -/

theorem execLocateAssert_of_released {h : Half} {s : State} (hup : s.plinth.up = true) (hfree : s.locateContact h = false) :
    execLocateAssert h s = .next (s.setContact h true).startLocate := by
  have hstarts : (s.plinth.up && !s.locateContact h) = true := by simp [hup, hfree]
  exact congrArg Host.Outcome.next (if_pos hstarts)

/-- A contact that has stayed asserted starts nothing. -/
theorem execLocateAssert_of_held {h : Half} {s : State} (hheld : s.locateContact h = true) :
    execLocateAssert h s = .next (s.setContact h true) := by
  have hstays : ¬(s.plinth.up && !s.locateContact h) = true := by simp [hheld]
  exact congrArg Host.Outcome.next (if_neg hstays)

/-! ### A write that arrives -/

/-- A write that arrives has its effect, whatever its source. -/
theorem State.gated_of_writeArrives {s : State} {src : AccSrc} {p : Page} {off : Nat} {f : State → State}
    (h : writeArrives src p off s) : s.gated src p off f = f s := by
  obtain ⟨hread, hlock⟩ := h
  cases src with
  | bar0 w =>
    obtain ⟨hlink, hpeer, hok⟩ := hread
    have hopen : ¬(s.rfld p PAGE_LOCK 0 0 = 1 ∧ off ≠ EVT_STATUS) := by
      rcases hlock w rfl with h0 | hoff
      · omega
      · exact fun hlocked => hlocked.2 hoff
    unfold State.gated
    dsimp only
    rw [if_neg (by simp [hlink]), if_neg hpeer, if_neg (by simpa using hok), if_neg (by simpa using hopen)]
  | tile w =>
    obtain ⟨hrun, hpeer, hok⟩ := hread
    exact if_neg (by simpa [hrun, hpeer] using hok)
  | plinth => exact if_pos hread

/-! ### The acknowledgement -/

/-- An operation that keeps the registers keeps what each register holds. -/
theorem Keeps.reg_eq {l : List Part} {s t : State} (h : Keeps l s t) (hl : .regs ∉ l) (p : Page) (off : Nat) :
    t.reg p off = s.reg p off := by
  have er : t.regs = s.regs := h.part .regs hl
  rw [State.reg, er, State.reg]

@[simp] theorem State.setReg_reg_self (s : State) (p : Page) (off : Nat) (v : Word) : (s.setReg p off v).reg p off = v := by
  simp [State.reg]

@[simp] theorem State.setEvt_evtStatus (s : State) (p : Page) (b : Word) :
    (s.setEvt p b).reg p EVT_STATUS = s.reg p EVT_STATUS ||| b := by
  unfold State.setEvt
  rw [State.becamePending_keeps.reg_eq (by decide), State.setReg_reg_self]

theorem State.event_sets_bit {n : Nat} (hn : n < 32) (s : State) (p : Page) :
    bitOf ((s.event p n).reg p EVT_STATUS) n = true := by
  have hbit : bitOf (word (2 ^ n)) n = true := by
    simp only [bitOf, word, BitVec.getLsbD_ofNat, hn, decide_true, Nat.testBit_two_pow_self, Bool.and_self]
  rw [State.event, State.setEvt_evtStatus, bitOf, BitVec.getLsbD_or, Bool.or_eq_true]
  exact Or.inr hbit

@[simp] theorem State.event_front (s : State) (p : Page) (n : Nat) : (s.event p n).front = s.front :=
  State.event_keeps.part .front (by decide)

@[simp] theorem State.bump_front (s : State) (p : Page) (off : Nat) : (s.bump p off).front = s.front :=
  State.bump_keeps.part .front (by decide)

/-- A press under 2 s while locate is active ends it and raises LOCATE_ACK (R448). -/
theorem execRequestPress_of_locate {n : Nat} {s : State} (hup : s.plinth.up = true) (hn : n < 2000)
    (hen : s.afld .fpn FPN_CTRL 0 0 = 1) (hloc : s.front.locateAt ≠ none) :
    execRequestPress n s = .next ((((s.bump .fpn FPN_CNT_PRESS).event .fpn FPN_EVT_BUTTON).modFront
      (fun f => { f with locateAt := none })).event .fpn FPN_EVT_LOCATE_ACK) := by
  have hactive : s.front.locateAt.isSome = true := Option.isSome_iff_ne_none.mpr hloc
  unfold execRequestPress
  rw [if_neg (by simp [hup]; omega)]
  dsimp only
  rw [if_neg (by simp [hen]; omega), if_pos hactive]

/-! ### The end of LOCATE_MIN -/

theorem State.since_sec (s : State) (t n : Nat) : s.since t (sec n) = true ↔ t + n * 1000000000 ≤ s.now :=
  decide_eq_true_iff

theorem execLocateTimeout_of_active {at_ : Nat} {s : State} (hat : s.front.locateAt = some at_) :
    execLocateTimeout s = .next (if s.since at_ (sec (60 * s.afld .fpn FPN_CTRL 15 8))
      then s.modFront (fun f => { f with locateAt := none }) else s) := by
  rw [execLocateTimeout, hat, Option.any_some]

end Sys2Proof.Machine

namespace Sys2Proof

open Sys2Proof.Machine

/-- Settles O55, clause by clause from what each command makes of the locate timer: a fresh assertion or a write of 1 starts it where it
does not run yet, and a press, a write of 0 or LOCATE_MIN minutes end it. -/
theorem locateStartsAndEnds : Obligations.LocateStartsAndEnds := by
  unfold Obligations.LocateStartsAndEnds
  intro src h s hup
  refine ⟨fun hfree => ?_, fun hheld => ?_, ?_, fun v harr => ?_, fun n hn hen hloc => ?_, fun at_ hat => ?_⟩
  · refine ⟨_, execLocateAssert_of_released hup hfree, by simp, ?_⟩
    exact (State.startLocate_locateContact _ h).trans (s.setContact_locateContact_self h true)
  · exact ⟨_, execLocateAssert_of_held hheld, s.setContact_locateAt h true⟩
  · exact ⟨_, rfl, s.setContact_locateAt h false, s.setContact_locateContact_self h false⟩
  · exact ⟨_, congrArg Host.Outcome.next (State.gated_of_writeArrives harr), s.writeLocate_locateAt v⟩
  · exact ⟨_, execRequestPress_of_locate hup hn hen hloc, by simp, State.event_sets_bit (by decide) .., by simp, by simp⟩
  · refine ⟨_, execLocateTimeout_of_active hat, ?_⟩
    simp only [State.since_sec]
    split
    · rfl
    · exact hat

end Sys2Proof
end

section
/-! PROOFS. Every command and every step (R5): that it answers a next state, what it leaves alone, and the canonical form of the
register file that it keeps. -/

namespace Sys2Proof.Machine

/-! ### Every command answers (log 5) -/

/-- The commands with more than one outcome answer a next state in each branch, the others have one outcome. -/
theorem exec_completes (i : Instr) (s : State) : completes (exec i s) := by
  cases i
  case flushComplete | idleClose | admissionTimeout | drainAt | uploadDiscard | outOfSync | inSyncReturn | readAtRelease | castReady
    | castExpiry | plannedMoveEnd | payloadPullDone | chunkCut | compressJobEnd | cryptJobStart | cryptJobEnd | ivReservationDurable
    | ivReservationTimeout | keyUnwrapDone | chunkResend | chunkAckTimeout | fetchTimeout | decompressJobEnd | reverifyJobEnd
    | joinReadyTimeout | electionTimeout | lossDelayExpiry | retransmissionTimeout | sealTimer | rebuildRange | evacuation
    | pendingRefAge | shipInterval | replStaged | unitJobDrained | d0Return | housekeepingLoss | pfEraseDone | eventEntry | requestPress
    | requestHold | removalAllowance | touch | labelRefreshDone | latchClose | serviceTicket | stage | keyspacePolicy | tempSample
    | capTestEnd | inputOutOfRange | wytheDumpDone | holdUpEnd | powerGood | plinthRom | wytheRelease | dramTrain | linkTrain
    | imageVerify | settingsLoad | anchorLoad | tagScan | tieSyncTimeout | serviceOpen | tieLaneFail | failedNotice | crossResetClear
    | restartTimeout | handBack | wytheWatchdog | serdesLinkTimeout | trialTimeout | plinthPowerUp | lossOfEverySupply
    | plinthTrialCommit =>
    simp only [exec, execFlushComplete, execIdleClose, execAdmissionTimeout, execDrainAt, execUploadDiscard, execOutOfSync,
      execInSyncReturn, execReadAtRelease, execCastReady, execCastExpiry, execPlannedMoveEnd, execPayloadPullDone, execChunkCut,
      execCompressJobEnd, execCryptJobStart, execCryptJobEnd, execIvReservationDurable, execIvReservationTimeout, execKeyUnwrapDone,
      execChunkResend, execChunkAckTimeout, execFetchTimeout, execDecompressJobEnd, execReverifyJobEnd, execJoinReadyTimeout,
      execElectionTimeout, execLossDelayExpiry, execRetransmissionTimeout, execSealTimer, execRebuildRange, execEvacuation,
      execPendingRefAge, execShipInterval, execReplStaged, execUnitJobDrained, execD0Return, execHousekeepingLoss, execPfEraseDone,
      execEventEntry, execRequestPress, execRequestHold, execRemovalAllowance, execTouch, execLabelRefreshDone, execLatchClose,
      execServiceTicket, execStage, execKeyspacePolicy, execTempSample, execCapTestEnd, execInputOutOfRange, execWytheDumpDone,
      execHoldUpEnd, execPowerGood, execPlinthRom, execWytheRelease, execDramTrain, execLinkTrain, execImageVerify, execSettingsLoad,
      execAnchorLoad, execTagScan, execTieSyncTimeout, execServiceOpen, execTieLaneFail, execFailedNotice, execCrossResetClear,
      execRestartTimeout, execHandBack, execWytheWatchdog, execSerdesLinkTimeout, execTrialTimeout, execPlinthPowerUp,
      execLossOfEverySupply, execPlinthTrialCommit]
    repeat' split
    all_goals exact ⟨_, rfl⟩
  all_goals exact ⟨_, rfl⟩

/-! ### What every command keeps -/

/-- Each command keeps the parts that its row does not name: the law of its meaning, arm by arm of the dispatch. -/
theorem exec_keeps : ∀ (i : Instr) (s : State), KeepsO (changes i) s (exec i s)
  | .hello .., _ => execHello_keeps
  | .mapGet .., _ => execMapGet_keeps
  | .put .., _ => execPut_keeps
  | .putOpen .., _ => execPutOpen_keeps
  | .putPart .., _ => execPutPart_keeps
  | .putClose .., _ => execPutClose_keeps
  | .patch .., _ => execPatch_keeps
  | .punch .., _ => execPunch_keeps
  | .delete .., _ => execDelete_keeps
  | .get .., _ => execGet_keeps
  | .stat .., _ => execStat_keeps
  | .list .., _ => execList_keeps
  | .batch .., _ => execBatch_keeps
  | .cast .., _ => execCast_keeps
  | .castDrop .., _ => execCastDrop_keeps
  | .outcome .., _ => execOutcome_keeps
  | .flush .., _ => execFlush_keeps
  | .flushComplete .., _ => execFlushComplete_keeps
  | .subscribe .., _ => execSubscribe_keeps
  | .queueReset .., _ => execQueueReset_keeps
  | .queueClose .., _ => execQueueClose_keeps
  | .keepalive .., _ => execKeepalive_keeps
  | .unknownKindMessage .., _ => execUnknownKindMessage_keeps
  | .unknownOpcode .., _ => execUnknownOpcode_keeps
  | .sendLengthNak .., _ => execSendLengthNak_keeps
  | .rdmaInvalidRequest .., _ => execRdmaInvalidRequest_keeps
  | .idleClose .., _ => execIdleClose_keeps
  | .connectionClose .., _ => execConnectionClose_keeps
  | .admissionCycle .., _ => execAdmissionCycle_keeps
  | .admissionTimeout .., _ => execAdmissionTimeout_keeps
  | .drainAt .., _ => execDrainAt_keeps
  | .uploadDiscard .., _ => execUploadDiscard_keeps
  | .outcomeRecordDiscard .., _ => execOutcomeRecordDiscard_keeps
  | .powerStateEntry, _ => execPowerStateEntry_keeps
  | .powerStateExit, _ => execPowerStateExit_keeps
  | .closedTimePublish .., _ => execClosedTimePublish_keeps
  | .outOfSync .., _ => execOutOfSync_keeps
  | .inSyncReturn .., _ => execInSyncReturn_keeps
  | .leaseLapse .., _ => execLeaseLapse_keeps
  | .readAtRelease .., _ => execReadAtRelease_keeps
  | .castReady .., _ => execCastReady_keeps
  | .castExpiry .., _ => execCastExpiry_keeps
  | .plannedMoveEnd .., _ => execPlannedMoveEnd_keeps
  | .payloadPullDone .., _ => execPayloadPullDone_keeps
  | .chunkCut .., _ => execChunkCut_keeps
  | .compressJobEnd .., _ => execCompressJobEnd_keeps
  | .cryptJobStart .., _ => execCryptJobStart_keeps
  | .cryptJobEnd .., _ => execCryptJobEnd_keeps
  | .ivReservationDurable .., _ => execIvReservationDurable_keeps
  | .ivReservationTimeout .., _ => execIvReservationTimeout_keeps
  | .keyUnwrapDone .., _ => execKeyUnwrapDone_keeps
  | .keyRotation .., _ => execKeyRotation_keeps
  | .chunkAck .., _ => execChunkAck_keeps
  | .chunkResend .., _ => execChunkResend_keeps
  | .chunkAckTimeout .., _ => execChunkAckTimeout_keeps
  | .indexPut .., _ => execIndexPut_keeps
  | .indexAck .., _ => execIndexAck_keeps
  | .rangeData .., _ => execRangeData_keeps
  | .fetchTimeout .., _ => execFetchTimeout_keeps
  | .decompressJobEnd .., _ => execDecompressJobEnd_keeps
  | .reverifyJobEnd .., _ => execReverifyJobEnd_keeps
  | .tileFault .., _ => execTileFault_keeps
  | .form .., _ => execForm_keeps
  | .join .., _ => execJoin_keeps
  | .joinRequest .., _ => execJoinRequest_keeps
  | .joinGrant .., _ => execJoinGrant_keeps
  | .joinReadyTimeout .., _ => execJoinReadyTimeout_keeps
  | .heartbeatSend .., _ => execHeartbeatSend_keeps
  | .heartbeat .., _ => execHeartbeat_keeps
  | .heartbeatReply .., _ => execHeartbeatReply_keeps
  | .armAppend _ _ _ l _ _ _ _, _ => execArmAppend_keeps (_leader := l)
  | .armAppendTimer .., _ => execArmAppendTimer_keeps
  | .armAppendAck .., _ => execArmAppendAck_keeps
  | .armVoteReq .., _ => execArmVoteReq_keeps
  | .armVote .., _ => execArmVote_keeps
  | .electionTimeout .., _ => execElectionTimeout_keeps
  | .lossDelayExpiry .., _ => execLossDelayExpiry_keeps
  | .removeNotice .., _ => execRemoveNotice_keeps
  | .stateGet .., _ => execStateGet_keeps
  | .stateData _ _ _ _ v _ _ t _, _ => execStateData_keeps (version := v) (total := t)
  | .epochNotice .., _ => execEpochNotice_keeps
  | .mortarAck .., _ => execMortarAck_keeps
  | .retransmissionTimeout .., _ => execRetransmissionTimeout_keeps
  | .unknownTypeMessage .., _ => execUnknownTypeMessage_keeps
  | .partCollect .., _ => execPartCollect_keeps
  | .partRecords .., _ => execPartRecords_keeps
  | .partHandover .., _ => execPartHandover_keeps
  | .closedTime .., _ => execClosedTime_keeps
  | .castRequest .., _ => execCastRequest_keeps
  | .castAnnounce .., _ => execCastAnnounce_keeps
  | .castConfirm .., _ => execCastConfirm_keeps
  | .castDone .., _ => execCastDone_keeps
  | .castDropReq .., _ => execCastDropReq_keeps
  | .ptpMasterLoss .., _ => execPtpMasterLoss_keeps
  | .ppsEdge .., _ => execPpsEdge_keeps
  | .ppsOutSecond .., _ => execPpsOutSecond_keeps
  | .chunkPut .., _ => execChunkPut_keeps
  | .journalCopy .., _ => execJournalCopy_keeps
  | .journalAck .., _ => execJournalAck_keeps
  | .stripeSeal .., _ => execStripeSeal_keeps
  | .fragPut .., _ => execFragPut_keeps
  | .fragAck .., _ => execFragAck_keeps
  | .sealCommit .., _ => execSealCommit_keeps
  | .rangeRead .., _ => execRangeRead_keeps
  | .stripeListReq .., _ => execStripeListReq_keeps
  | .stripeList .., _ => execStripeList_keeps
  | .journalStateReq .., _ => execJournalStateReq_keeps
  | .journalState .., _ => execJournalState_keeps
  | .lostReport .., _ => execLostReport_keeps
  | .fragRelease .., _ => execFragRelease_keeps
  | .sealTimer .., _ => execSealTimer_keeps
  | .rebuildRange .., _ => execRebuildRange_keeps
  | .evacuation .., _ => execEvacuation_keeps
  | .refDelta .., _ => execRefDelta_keeps
  | .refAck .., _ => execRefAck_keeps
  | .refQuery .., _ => execRefQuery_keeps
  | .refAnswer .., _ => execRefAnswer_keeps
  | .indexSyncReq .., _ => execIndexSyncReq_keeps
  | .indexSync .., _ => execIndexSync_keeps
  | .stripeThin .., _ => execStripeThin_keeps
  | .thinData .., _ => execThinData_keeps
  | .thinAck .., _ => execThinAck_keeps
  | .thinCommit .., _ => execThinCommit_keeps
  | .recount .., _ => execRecount_keeps
  | .deltaBatchClose .., _ => execDeltaBatchClose_keeps
  | .pendingRefAge .., _ => execPendingRefAge_keeps
  | .garbageSweep .., _ => execGarbageSweep_keeps
  | .replLink .., _ => execReplLink_keeps
  | .shipInterval .., _ => execShipInterval_keeps
  | .replOffer .., _ => execReplOffer_keeps
  | .replNeed _ _ _ _ n _, _ => execReplNeed_keeps (seq := n)
  | .replChunk .., _ => execReplChunk_keeps
  | .replStaged .., _ => execReplStaged_keeps
  | .roundClose .., _ => execRoundClose_keeps
  | .dieOpEnd .., _ => execDieOpEnd_keeps
  | .foldRound .., _ => execFoldRound_keeps
  | .slcShareGrow .., _ => execSlcShareGrow_keeps
  | .slcShareShrink .., _ => execSlcShareShrink_keeps
  | .mapFlush .., _ => execMapFlush_keeps
  | .checkpoint .., _ => execCheckpoint_keeps
  | .collection .., _ => execCollection_keeps
  | .patrol .., _ => execPatrol_keeps
  | .calibrationTimer .., _ => execCalibrationTimer_keeps
  | .equivAgeTick, _ => execEquivAgeTick_keeps
  | .equivAgeRecord .., _ => execEquivAgeRecord_keeps
  | .dieRebuild .., _ => execDieRebuild_keeps
  | .anchorRebuild .., _ => execAnchorRebuild_keeps
  | .chRead .., _ => execChRead_keeps
  | .chReadRetry .., _ => execChReadRetry_keeps
  | .chProgSlc .., _ => execChProgSlc_keeps
  | .chProgQlc .., _ => execChProgQlc_keeps
  | .chFold .., _ => execChFold_keeps
  | .chErase .., _ => execChErase_keeps
  | .chEraseVerify .., _ => execChEraseVerify_keeps
  | .chReadParam .., _ => execChReadParam_keeps
  | .chCalibrate .., _ => execChCalibrate_keeps
  | .chDieReset .., _ => execChDieReset_keeps
  | .chStatus .., _ => execChStatus_keeps
  | .suspensionEnd .., _ => execSuspensionEnd_keeps
  | .dieTimeout .., _ => execDieTimeout_keeps
  | .channelTake .., _ => execChannelTake_keeps
  | .channelRelease .., _ => execChannelRelease_keeps
  | .channelLend .., _ => execChannelLend_keeps
  | .releaseComplete .., _ => execReleaseComplete_keeps
  | .alloc .., _ => execAlloc_keeps
  | .free .., _ => execFree_keeps
  | .share .., _ => execShare_keeps
  | .release .., _ => execRelease_keeps
  | .transfer .., _ => execTransfer_keeps
  | .freeRingRefill .., _ => execFreeRingRefill_keeps
  | .frameReceive .., _ => execFrameReceive_keeps
  | .frameTransmit .., _ => execFrameTransmit_keeps
  | .transmitUnderrun .., _ => execTransmitUnderrun_keeps
  | .lpiEntry .., _ => execLpiEntry_keeps
  | .lldpSend .., _ => execLldpSend_keeps
  | .lldpReceive .., _ => execLldpReceive_keeps
  | .pfcReceive .., _ => execPfcReceive_keeps
  | .pfcQuantaExpiry .., _ => execPfcQuantaExpiry_keeps
  | .pfcStorm .., _ => execPfcStorm_keeps
  | .pfcIgnoreEnd .., _ => execPfcIgnoreEnd_keeps
  | .linkDown .., _ => execLinkDown_keeps
  | .linkUp .., _ => execLinkUp_keeps
  | .portDownReport .., _ => execPortDownReport_keeps
  | .portAddressRestore .., _ => execPortAddressRestore_keeps
  | .cmRequest .., _ => execCmRequest_keeps
  | .roceAckTimeout .., _ => execRoceAckTimeout_keeps
  | .cnpReceive .., _ => execCnpReceive_keeps
  | .rateIncrease .., _ => execRateIncrease_keeps
  | .pageEnable .., _ => execPageEnable_keeps
  | .pageQuiesce .., _ => execPageQuiesce_keeps
  | .pageBypass .., _ => execPageBypass_keeps
  | .unitJobDrained .., _ => execUnitJobDrained_keeps
  | .testStart .., _ => execTestStart_keeps
  | .testEnd .., _ => execTestEnd_keeps
  | .commit .., _ => execCommit_keeps
  | .evtStatusClear .., _ => execEvtStatusClear_keeps
  | .evtForce .., _ => execEvtForce_keeps
  | .errCountRead .., _ => execErrCountRead_keeps
  | .bpmPoolLowRead .., _ => execBpmPoolLowRead_keeps
  | .pageLock .., _ => execPageLock_keeps
  | .registerWrite .., _ => execRegisterWrite_keeps
  | .qpCreate .., _ => execQpCreate_keeps
  | .qpDestroy .., _ => execQpDestroy_keeps
  | .sqDoorbell .., _ => execSqDoorbell_keeps
  | .cqDoorbell .., _ => execCqDoorbell_keeps
  | .unitReset .., _ => execUnitReset_keeps
  | .restartSelf .., _ => execRestartSelf_keeps
  | .restartPeer .., _ => execRestartPeer_keeps
  | .hlcRead .., _ => execHlcRead_keeps
  | .ptpTimeRead .., _ => execPtpTimeRead_keeps
  | .ptpAdj .., _ => execPtpAdj_keeps
  | .pltTimeRead .., _ => execPltTimeRead_keeps
  | .svcExpiryRead .., _ => execSvcExpiryRead_keeps
  | .hltGibRead .., _ => execHltGibRead_keeps
  | .functionLevelReset .., _ => execFunctionLevelReset_keeps
  | .hotReset .., _ => execHotReset_keeps
  | .perstAssert .., _ => execPerstAssert_keeps
  | .pcieLinkLoss .., _ => execPcieLinkLoss_keeps
  | .busMasterClear .., _ => execBusMasterClear_keeps
  | .d3hotEntry .., _ => execD3hotEntry_keeps
  | .d0Return .., _ => execD0Return_keeps
  | .msixUnmask .., _ => execMsixUnmask_keeps
  | .housekeepingHeartbeat, _ => execHousekeepingHeartbeat_keeps
  | .housekeepingLoss .., _ => execHousekeepingLoss_keeps
  | .plinthFailed, _ => execPlinthFailed_keeps
  | .plinthWatchdog .., _ => execPlinthWatchdog_keeps
  | .plinthTimeSet .., _ => execPlinthTimeSet_keeps
  | .powerSourceChange .., _ => execPowerSourceChange_keeps
  | .pfRead .., _ => execPfRead_keeps
  | .pfProgram .., _ => execPfProgram_keeps
  | .pfErase .., _ => execPfErase_keeps
  | .pfEraseDone .., _ => execPfEraseDone_keeps
  | .pfCounterRead .., _ => execPfCounterRead_keeps
  | .pfCounterRaise .., _ => execPfCounterRaise_keeps
  | .pflRead .., _ => execPflRead_keeps
  | .pflProgram .., _ => execPflProgram_keeps
  | .pflErase .., _ => execPflErase_keeps
  | .eventEntry, _ => execEventEntry_keeps
  | .evrWindowLatch .., _ => execEvrWindowLatch_keeps
  | .evrWindowAdvance .., _ => execEvrWindowAdvance_keeps
  | .evrCursorSet .., _ => execEvrCursorSet_keeps
  | .recorderClear .., _ => execRecorderClear_keeps
  | .rekey .., _ => execRekey_keeps
  | .requestPress .., _ => execRequestPress_keeps
  | .requestHold, _ => execRequestHold_keeps
  | .removeRequest .., _ => execRemoveRequest_keeps
  | .removeCancel .., _ => execRemoveCancel_keeps
  | .removalAllowance .., _ => execRemovalAllowance_keeps
  | .touch, _ => execTouch_keeps
  | .labelPageWrite .., _ => execLabelPageWrite_keeps
  | .labelReturn, _ => execLabelReturn_keeps
  | .labelRefreshDone, _ => execLabelRefreshDone_keeps
  | .locateAssert .., _ => execLocateAssert_keeps
  | .locateWrite .., _ => execLocateWrite_keeps
  | .locateTimeout, _ => execLocateTimeout_keeps
  | .latchOpen, _ => execLatchOpen_keeps
  | .latchClose, _ => execLatchClose_keeps
  | .earlyWarningBreak, _ => execEarlyWarningBreak_keeps
  | .presenceMake .., _ => execPresenceMake_keeps
  | .serviceTicket .., _ => execServiceTicket_keeps
  | .serviceSessionExpiry .., _ => execServiceSessionExpiry_keeps
  | .stage .., _ => execStage_keeps
  | .settingsWrite .., _ => execSettingsWrite_keeps
  | .keyspacePolicy .., _ => execKeyspacePolicy_keeps
  | .brickReset .., _ => execBrickReset_keeps
  | .romRecoveryEnter .., _ => execRomRecoveryEnter_keeps
  | .recoveryStart .., _ => execRecoveryStart_keeps
  | .smbusStatusRead .., _ => execSmbusStatusRead_keeps
  | .smbusAlertResponse .., _ => execSmbusAlertResponse_keeps
  | .pwrdisAssert .., _ => execPwrdisAssert_keeps
  | .pwrdisRelease .., _ => execPwrdisRelease_keeps
  | .tempSample .., _ => execTempSample_keeps
  | .ageingMeasure .., _ => execAgeingMeasure_keeps
  | .capTest, _ => execCapTest_keeps
  | .capTestRequest .., _ => execCapTestRequest_keeps
  | .capTestEnd .., _ => execCapTestEnd_keeps
  | .eolPrediction, _ => execEolPrediction_keeps
  | .healthLogRewrite, _ => execHealthLogRewrite_keeps
  | .hltLogSelect .., _ => execHltLogSelect_keeps
  | .hltLogRead .., _ => execHltLogRead_keeps
  | .healthSnapshot, _ => execHealthSnapshot_keeps
  | .inputOutOfRange .., _ => execInputOutOfRange_keeps
  | .inputReconnect .., _ => execInputReconnect_keeps
  | .inputLoss, _ => execInputLoss_keeps
  | .wytheDumpDone .., _ => execWytheDumpDone_keeps
  | .holdUpEnd, _ => execHoldUpEnd_keeps
  | .powerGood .., _ => execPowerGood_keeps
  | .plinthRom .., _ => execPlinthRom_keeps
  | .optionsLoad, _ => execOptionsLoad_keeps
  | .wytheRelease .., _ => execWytheRelease_keeps
  | .dramTrain .., _ => execDramTrain_keeps
  | .linkTrain .., _ => execLinkTrain_keeps
  | .imageVerify .., _ => execImageVerify_keeps
  | .settingsLoad .., _ => execSettingsLoad_keeps
  | .anchorLoad .., _ => execAnchorLoad_keeps
  | .tagScan .., _ => execTagScan_keeps
  | .tieSync .., _ => execTieSync_keeps
  | .tieSyncTimeout .., _ => execTieSyncTimeout_keeps
  | .wallJoin .., _ => execWallJoin_keeps
  | .wallJoinRetry .., _ => execWallJoinRetry_keeps
  | .serviceOpen .., _ => execServiceOpen_keeps
  | .startTimeout, _ => execStartTimeout_keeps
  | .clockMonitor .., _ => execClockMonitor_keeps
  | .pllUnlock .., _ => execPllUnlock_keeps
  | .tieLaneFail .., _ => execTieLaneFail_keeps
  | .tieHeartbeatSend .., _ => execTieHeartbeatSend_keeps
  | .tieHeartbeatLoss .., _ => execTieHeartbeatLoss_keeps
  | .failedNotice .., _ => execFailedNotice_keeps
  | .crossResetDelay, _ => execCrossResetDelay_keeps
  | .crossResetClear, _ => execCrossResetClear_keeps
  | .restartTimeout .., _ => execRestartTimeout_keeps
  | .handBack, _ => execHandBack_keeps
  | .wytheWatchdog .., _ => execWytheWatchdog_keeps
  | .activatePlinth .., _ => execActivatePlinth_keeps
  | .activateMediaTables .., _ => execActivateMediaTables_keeps
  | .activateSerdes .., _ => execActivateSerdes_keeps
  | .serdesLinkTimeout, _ => execSerdesLinkTimeout_keeps
  | .activateWythe .., _ => execActivateWythe_keeps
  | .trialTimeout, _ => execTrialTimeout_keeps
  | .dieTest .., _ => execDieTest_keeps
  | .dieRetireRequest .., _ => execDieRetireRequest_keeps
  | .dramMark .., _ => execDramMark_keeps
  | .dramUnmark .., _ => execDramUnmark_keeps
  | .requestIdDiscard .., _ => execRequestIdDiscard_keeps
  | .rdmaWriteDone .., _ => execRdmaWriteDone_keeps
  | .epochHoldTimeout .., _ => execEpochHoldTimeout_keeps
  | .lldpAgeOut .., _ => execLldpAgeOut_keeps
  | .pfcXoffRepeat .., _ => execPfcXoffRepeat_keeps
  | .ppsEdgeMissing .., _ => execPpsEdgeMissing_keeps
  | .plinthPowerUp .., _ => execPlinthPowerUp_keeps
  | .lossOfEverySupply, _ => execLossOfEverySupply_keeps
  | .locateRelease .., _ => execLocateRelease_keeps
  | .presenceBreak, _ => execPresenceBreak_keeps
  | .labelRefreshInterval, _ => execLabelRefreshInterval_keeps
  | .serviceSessionClose .., _ => execServiceSessionClose_keeps
  | .removeReturnTicket .., _ => execRemoveReturnTicket_keeps
  | .authorityKeyInstall .., _ => execAuthorityKeyInstall_keeps
  | .wallSettingsChange .., _ => execWallSettingsChange_keeps
  | .plinthTrialCommit, _ => execPlinthTrialCommit_keeps
  | .refusedBar0Read .., _ => execRefusedBar0Read_keeps

/-- The state with its front command taken off the queue. -/
def State.unqueued (s : State) : State := { s with pending := s.pending.tail }

theorem step_eq_exec {c : Instr} {rest : List Instr} {s : State} (h : s.pending = c :: rest) : step s = exec c s.unqueued := by
  rw [step, h, State.unqueued, h]
  rfl

theorem step_eq_tick {s : State} (h : s.pending = []) : step s = tick s.unqueued := by
  have hs : s.unqueued = s := by rw [State.unqueued, h, List.tail_nil, ← h]
  rw [step, h, hs]

/-- What a step keeps, from the state without its front command, of some list of parts. -/
theorem step_keeps (s : State) : ∃ l, KeepsO l s.unqueued (step s) := by
  cases h : s.pending with
  | nil => exact ⟨_, step_eq_tick h ▸ tick_keeps⟩
  | cons c rest => exact ⟨_, step_eq_exec h ▸ exec_keeps c _⟩

theorem step_completes (s : State) : completes (step s) := by
  cases h : s.pending with
  | nil => exact step_eq_tick h ▸ ⟨_, rfl⟩
  | cons c rest => exact step_eq_exec h ▸ exec_completes c _

end Sys2Proof.Machine

namespace Sys2Proof

open Sys2Proof.Machine

/-- Settles O1: the front of the queue is what the step looks at. -/
theorem stepTakesFront : Obligations.StepTakesFront := by
  unfold Obligations.StepTakesFront
  intro c rest s h
  rw [step_eq_exec h, State.unqueued, h, List.tail_cons]

/-- Settles O4: no register has been written at reset. -/
theorem resetIsCanonical : Obligations.ResetIsCanonical := by
  unfold Obligations.ResetIsCanonical
  exact ⟨⟨rfl, rfl⟩, rfl, rfl⟩

/-- Settles O59, from the law of each command's meaning. -/
theorem commandsLeaveTheRest : Obligations.CommandsLeaveTheRest := by
  unfold Obligations.CommandsLeaveTheRest
  intro i s t h
  have k := (exec_keeps i s).of t h
  exact ⟨k.queue, k.part⟩

/-- Settles O3: taking a command off the queue touches no register, and each command and the tick keep both tables in canonical form. -/
theorem registersStayCanonical : Obligations.RegistersStayCanonical := by
  unfold Obligations.RegistersStayCanonical
  intro s t hcanon hstep
  obtain ⟨l, k⟩ := step_keeps s
  exact (k.of t hstep).canon hcanon

/-- Settles O2, from what every command keeps and that it answers. -/
theorem everyStepCompletes : Obligations.EveryStepCompletes := by
  unfold Obligations.EveryStepCompletes
  refine ⟨fun i s => ?_, fun s => ?_⟩
  · obtain ⟨t, ht⟩ := exec_completes i s
    have k := (exec_keeps i s).of t ht
    exact ⟨t, ht, k.queue, k.out, k.time, k.fresh⟩
  · obtain ⟨t, ht⟩ := step_completes s
    obtain ⟨l, h⟩ := step_keeps s
    have k := h.of t ht
    exact ⟨t, ht, k.queue, k.out, k.time, k.fresh⟩

end Sys2Proof
end

section
/-! PROOFS. Reading the state after an operation: each part that the operation keeps, and each register. -/

namespace Sys2Proof.Machine

/-! ### Parts that an operation keeps -/

theorem Keeps.mem_out {l : List Part} {s t : State} {o : Output} (h : Keeps l s t) (ho : o ∈ s.out) : o ∈ t.out := h.out.subset ho

section Parts

variable {l : List Part} {s t : State} (h : Keeps l s t)
include h

theorem Keeps.active_eq (hl : .active ∉ l) : t.active = s.active := h.part .active hl
theorem Keeps.wall_eq (hl : .wall ∉ l) : t.wall = s.wall := h.part .wall hl
theorem Keeps.store_eq (hl : .store ∉ l) : t.store = s.store := h.part .store hl
theorem Keeps.tileFaults_eq (hl : .tileFaults ∉ l) : t.tileFaults = s.tileFaults := h.part .tileFaults hl
theorem Keeps.stripes_eq (hl : .stripes ∉ l) : t.stripes = s.stripes := h.part .stripes hl
theorem Keeps.refs_eq (hl : .refs ∉ l) : t.refs = s.refs := h.part .refs hl
theorem Keeps.heldMortar_eq (hl : .heldMortar ∉ l) : t.heldMortar = s.heldMortar := h.part .heldMortar hl
theorem Keeps.syncQueue_eq (hl : .syncQueue ∉ l) : t.syncQueue = s.syncQueue := h.part .syncQueue hl
theorem Keeps.media_eq (hl : .media ∉ l) : t.media = s.media := h.part .media hl
theorem Keeps.units_eq (hl : .units ∉ l) : t.units = s.units := h.part .units hl
theorem Keeps.jobRuns_eq (hl : .jobRuns ∉ l) : t.jobRuns = s.jobRuns := h.part .jobRuns hl
theorem Keeps.arriving_eq (hl : .arriving ∉ l) : t.arriving = s.arriving := h.part .arriving hl
theorem Keeps.flash_eq (hl : .flash ∉ l) : t.flash = s.flash := h.part .flash hl
theorem Keeps.recorder_eq (hl : .recorder ∉ l) : t.recorder = s.recorder := h.part .recorder hl
theorem Keeps.plinth_eq (hl : .plinth ∉ l) : t.plinth = s.plinth := h.part .plinth hl
theorem Keeps.front_eq (hl : .front ∉ l) : t.front = s.front := h.part .front hl
theorem Keeps.health_eq (hl : .health ∉ l) : t.health = s.health := h.part .health hl
theorem Keeps.inA_eq (hl : .inA ∉ l) : t.inA = s.inA := h.part .inA hl
theorem Keeps.inB_eq (hl : .inB ∉ l) : t.inB = s.inB := h.part .inB hl
theorem Keeps.fw_eq (hl : .fw ∉ l) : t.fw = s.fw := h.part .fw hl
theorem Keeps.pwr_eq (hl : .pwr ∉ l) : t.pwr = s.pwr := h.part .pwr hl
theorem Keeps.cover_eq (hl : .cover ∉ l) : t.cover = s.cover := h.part .cover hl

theorem Keeps.clk_eq (hl : .clk ∉ l) (w : Wy) : (t.wy w).clk = (s.wy w).clk := by
  cases w
  exacts [(h.part .clk hl).1, (h.part .clk hl).2]

theorem Keeps.cip_eq (hl : .cip ∉ l) (w : Wy) : (t.wy w).cip = (s.wy w).cip := by
  cases w
  exacts [(h.part .cip hl).1, (h.part .cip hl).2]

theorem Keeps.codec_eq (hl : .codec ∉ l) (w : Wy) : (t.wy w).codec = (s.wy w).codec := by
  cases w
  exacts [(h.part .codec hl).1, (h.part .codec hl).2]

theorem Keeps.mortar_eq (hl : .mortar ∉ l) (w : Wy) : (t.wy w).mortar = (s.wy w).mortar := by
  cases w
  exacts [(h.part .mortar hl).1, (h.part .mortar hl).2]

theorem Keeps.pcie_eq (hl : .pcie ∉ l) (w : Wy) : (t.wy w).pcie = (s.wy w).pcie := by
  cases w
  exacts [(h.part .pcie hl).1, (h.part .pcie hl).2]

theorem Keeps.bpm_eq (hl : .bpm ∉ l) (w : Wy) : (t.wy w).bpm = (s.wy w).bpm := by
  cases w
  exacts [(h.part .bpm hl).1, (h.part .bpm hl).2]

theorem Keeps.ptp_eq (hl : .ptp ∉ l) (w : Wy) : (t.wy w).ptp = (s.wy w).ptp := by
  cases w
  exacts [(h.part .ptp hl).1, (h.part .ptp hl).2]

theorem Keeps.portMode_eq (hl : .portMode ∉ l) (w : Wy) : (t.wy w).portMode = (s.wy w).portMode := by
  cases w
  exacts [(h.part .portMode hl).1, (h.part .portMode hl).2]

theorem Keeps.ports_eq (hl : .ports ∉ l) (w : Wy) : (t.wy w).ports = (s.wy w).ports := by
  cases w
  exacts [(h.part .ports hl).1, (h.part .ports hl).2]

theorem Keeps.pairs_eq (hl : .pairs ∉ l) (w : Wy) : (t.wy w).pairs = (s.wy w).pairs := by
  cases w
  exacts [(h.part .pairs hl).1, (h.part .pairs hl).2]

theorem Keeps.serving_eq (hl : .serving ∉ l) (w : Wy) : (t.wy w).serving = (s.wy w).serving := by
  cases w
  exacts [(h.part .serving hl).1, (h.part .serving hl).2]

theorem Keeps.start_eq (hl : .start ∉ l) (w : Wy) : (t.wy w).start = (s.wy w).start := by
  cases w
  exacts [(h.part .start hl).1, (h.part .start hl).2]

theorem Keeps.regs_eq (hl : .regs ∉ l) : t.regs = s.regs := h.part .regs hl

theorem Keeps.rfld_eq (hl : .regs ∉ l) (p : Page) (off hi lo : Nat) : t.rfld p off hi lo = s.rfld p off hi lo := by
  rw [State.rfld, h.reg_eq hl, State.rfld]

theorem Keeps.act_eq (hl : .active ∉ l) (p : Page) (off : Nat) : t.act p off = s.act p off := by
  rw [State.act, h.active_eq hl, State.act]

theorem Keeps.afld_eq (hl : .active ∉ l) (p : Page) (off hi lo : Nat) : t.afld p off hi lo = s.afld p off hi lo := by
  rw [State.afld, h.act_eq hl, State.afld]

theorem Keeps.running_eq (hl : .cover ∉ l) (w : Wy) : t.running w = s.running w := by
  cases w <;> simp only [State.running, h.cover_eq hl]

end Parts

/-! ### Registers -/

theorem State.setReg_reg_of_ne {s : State} {p q : Page} {off o : Nat} {v : Word} (h : pageKey q + o ≠ pageKey p + off) :
    (s.setReg p off v).reg q o = s.reg q o := by
  simp only [State.reg, State.setReg_regs, tableGet_put_ne _ _ h]

theorem State.setReg_reg_of_off_ne {s : State} {p : Page} {off o : Nat} {v : Word} (h : o ≠ off) :
    (s.setReg p off v).reg p o = s.reg p o :=
  State.setReg_reg_of_ne (by omega)

@[simp] theorem State.becamePending_reg (s : State) (p q : Page) (b : Bool) (o : Nat) :
    (s.becamePending p b).reg q o = s.reg q o :=
  State.becamePending_keeps.reg_eq (by decide) q o

theorem State.setEvt_reg_of_ne {s : State} {p q : Page} {b : Word} {o : Nat} (h : pageKey q + o ≠ pageKey p + EVT_STATUS) :
    (s.setEvt p b).reg q o = s.reg q o := by
  rw [State.setEvt, State.becamePending_reg, State.setReg_reg_of_ne h]

theorem State.event_reg_of_ne {s : State} {p q : Page} {n o : Nat} (h : pageKey q + o ≠ pageKey p + EVT_STATUS) :
    (s.event p n).reg q o = s.reg q o :=
  State.setEvt_reg_of_ne h

/-- An event touches no register of its page but EVT_STATUS. -/
theorem State.event_reg_of_off_ne {s : State} {p : Page} {n o : Nat} (h : o ≠ EVT_STATUS) :
    (s.event p n).reg p o = s.reg p o :=
  State.event_reg_of_ne (by omega)

/-- A counter holds what it held and what was counted (R417). -/
theorem State.bumpBy_reg_self {s : State} {p : Page} {off n : Nat} (h : off ≠ EVT_STATUS) :
    (s.bumpBy p off n).reg p off = s.reg p off + word n := by
  unfold State.bumpBy
  dsimp only
  split
  · rw [State.event_reg_of_off_ne h, State.setReg_reg_self]
  · exact State.setReg_reg_self ..

theorem State.bump_reg_self {s : State} {p : Page} {off : Nat} (h : off ≠ EVT_STATUS) :
    (s.bump p off).reg p off = s.reg p off + 1 :=
  State.bumpBy_reg_self h

theorem State.bumpBy_reg_of_ne {s : State} {p q : Page} {off n o : Nat} (h : pageKey q + o ≠ pageKey p + off)
    (he : pageKey q + o ≠ pageKey p + EVT_STATUS) : (s.bumpBy p off n).reg q o = s.reg q o := by
  unfold State.bumpBy
  dsimp only
  split
  · rw [State.event_reg_of_ne he, State.setReg_reg_of_ne h]
  · exact State.setReg_reg_of_ne h

theorem State.bump_reg_of_ne {s : State} {p q : Page} {off o : Nat} (h : pageKey q + o ≠ pageKey p + off)
    (he : pageKey q + o ≠ pageKey p + EVT_STATUS) : (s.bump p off).reg q o = s.reg q o :=
  State.bumpBy_reg_of_ne h he

/-- A counter touches no register of its page but itself and EVT_STATUS. -/
theorem State.bump_reg_of_off_ne {s : State} {p : Page} {off o : Nat} (h : o ≠ off) (he : o ≠ EVT_STATUS) :
    (s.bump p off).reg p o = s.reg p o :=
  State.bump_reg_of_ne (by omega) (by omega)

/-! ### Event bits: an event, a count or another register's write clears none -/

theorem bitOf_or (a b : Word) (n : Nat) : bitOf (a ||| b) n = (bitOf a n || bitOf b n) := BitVec.getLsbD_or

theorem regReset_evtStatus (p : Page) : regReset p EVT_STATUS = 0 := by cases p <;> rfl

theorem State.evtStatus_congr {s : State} {p q : Page} (h : pageKey q = pageKey p) : s.reg q EVT_STATUS = s.reg p EVT_STATUS := by
  rw [State.reg, State.reg, h, regReset_evtStatus, regReset_evtStatus]

theorem State.setEvt_keeps_bit {s : State} {q : Page} {n : Nat} (h : bitOf (s.reg q EVT_STATUS) n = true) (p : Page) (b : Word) :
    bitOf ((s.setEvt p b).reg q EVT_STATUS) n = true := by
  by_cases hk : pageKey q = pageKey p
  · rw [State.evtStatus_congr hk] at h ⊢
    rw [State.setEvt_evtStatus, bitOf_or, h, Bool.true_or]
  · rwa [State.setEvt_reg_of_ne (by omega)]

theorem State.event_keeps_bit {s : State} {q : Page} {n : Nat} (h : bitOf (s.reg q EVT_STATUS) n = true) (p : Page) (m : Nat) :
    bitOf ((s.event p m).reg q EVT_STATUS) n = true :=
  State.setEvt_keeps_bit h p _

theorem State.bumpBy_keeps_bit {s : State} {p q : Page} {off n : Nat} (h : bitOf (s.reg q EVT_STATUS) n = true) (m : Nat)
    (hoff : pageKey q + EVT_STATUS ≠ pageKey p + off) : bitOf ((s.bumpBy p off m).reg q EVT_STATUS) n = true := by
  rw [← State.setReg_reg_of_ne hoff (v := s.reg p off + word m)] at h
  unfold State.bumpBy
  dsimp only
  split
  · exact State.event_keeps_bit h p 0
  · exact h

theorem State.bump_keeps_bit {s : State} {p q : Page} {off n : Nat} (h : bitOf (s.reg q EVT_STATUS) n = true)
    (hoff : pageKey q + EVT_STATUS ≠ pageKey p + off) : bitOf ((s.bump p off).reg q EVT_STATUS) n = true :=
  State.bumpBy_keeps_bit h 1 hoff

end Sys2Proof.Machine
end

section
/-! PROOFS. Accesses of single registers (R9, R401, R404, R408) and the routines of the Plinth flash (R426-R430, R434). -/

namespace Sys2Proof.Machine

/-! ### A read that arrives -/

/-- A read that arrives has its effect and gives its value, whatever its source. -/
theorem State.readGate_of_readArrives {s : State} {src : AccSrc} {p : Page} {off v : Nat} {f : State → State}
    (h : readArrives src p s) : s.readGate src p off v f = (f s).emit (.readData src v) := by
  cases src with
  | bar0 w =>
    obtain ⟨hlink, hpeer, hok⟩ := h
    unfold State.readGate
    dsimp only
    rw [if_neg (by simp [hlink]), if_neg hpeer, if_neg (by simpa using hok)]
  | tile w =>
    obtain ⟨hrun, hpeer, hok⟩ := h
    exact if_neg (by simpa [hrun, hpeer] using hok)
  | plinth => exact if_pos h

/-! ### Registers common to the pages -/

theorem evtBits_le (p : Page) : evtBits p ≤ 32 := by
  cases p
  case crs => simp only [evtBits]; split <;> omega
  all_goals exact Nat.le_of_ble_eq_true rfl

/-- Below the number of bits kept, a mask of ones changes no bit. -/
theorem bitOf_and_ones {v : Word} {n k : Nat} (hn : n < k) (hk : k ≤ 32) : bitOf (v &&& word (2 ^ k - 1)) n = bitOf v n := by
  have hones : bitOf (word (2 ^ k - 1)) n = true := by
    rw [bitOf, word, BitVec.getLsbD_ofNat, Nat.testBit_two_pow_sub_one]
    simp only [decide_eq_true (show n < 32 by omega), decide_eq_true hn, Bool.and_self]
  rw [bitOf, BitVec.getLsbD_and, ← bitOf, ← bitOf, hones, Bool.and_true]

theorem State.forceEvt_bit {s : State} {p : Page} {v : Word} {n : Nat} (h : n < evtBits p) :
    bitOf ((s.forceEvt p v).reg p EVT_STATUS) n = (bitOf (s.reg p EVT_STATUS) n || bitOf v n) := by
  rw [State.forceEvt, State.setEvt_evtStatus, bitOf_or, bitOf_and_ones h (evtBits_le p)]

theorem setFld_lock (x : Word) : fld (setFld x 0 0 1) 0 0 = 1 := by
  have hx : x.toNat < 4294967296 := x.isLt
  simp only [fld, setFld, bits, word, BitVec.toNat_ofNat]
  omega

theorem State.lockPage_rfld (s : State) (p : Page) (v : Word) :
    (s.lockPage p v).rfld p PAGE_LOCK 0 0 = if bitOf v 0 then 1 else s.rfld p PAGE_LOCK 0 0 := by
  unfold State.lockPage
  split
  · rw [State.rfld, State.setRfld, State.setReg_reg_self, setFld_lock]
  · rfl

theorem State.lockPage_reg_of_ne {s : State} {p q : Page} {v : Word} {o : Nat} (h : pageKey q + o ≠ pageKey p + PAGE_LOCK) :
    (s.lockPage p v).reg q o = s.reg q o := by
  unfold State.lockPage
  split
  · exact State.setReg_reg_of_ne h
  · rfl

theorem State.lockPage_out (s : State) (p : Page) (v : Word) : (s.lockPage p v).out = s.out := by
  unfold State.lockPage
  split <;> rfl

/-! ### Code words of the Plinth flash -/

theorem Keeps.codeWord_eq {l : List Part} {s t : State} (h : Keeps l s t) (hl : .flash ∉ l) (n : Nat) :
    t.codeWord n = s.codeWord n := by
  rw [State.codeWord, h.flash_eq hl, State.codeWord]

/-- A request that nothing stands before runs at once (R427). -/
theorem State.flashAsk_of_idle {s : State} {by_ : FlashBy} {op : FlashOp} {sector kind : Nat} (hshape : flashShape op = some (sector, kind))
    (hmay : flashMay by_ op sector kind = true) (herase : s.flash.erase = none) (hwait : s.flash.waiting = []) :
    s.flashAsk by_ op = s.runFlash { by_ := by_, op := op } := by
  simp [State.flashAsk, hshape, hmay, herase, hwait]

/-- A request while no erase runs is answered without running, or runs. -/
theorem State.flashAsk_of_no_erase {s : State} (by_ : FlashBy) (op : FlashOp) (herase : s.flash.erase = none) :
    (∃ l, .flash ∉ l ∧ Keeps l s (s.flashAsk by_ op)) ∨ s.flashAsk by_ op = s.runFlash { by_ := by_, op := op } := by
  unfold State.flashAsk
  split
  · exact .inl ⟨_, by decide, State.flashEnd_keeps⟩
  · split_ifs with hmay hbusy hidle
    · exact .inl ⟨_, by decide, State.flashRefuse_keeps⟩
    · exact .inl ⟨_, by decide, State.flashEnd_keeps⟩
    · exact .inr rfl
    · simp [herase] at hidle

theorem State.runRead_codeWord (s : State) (by_ : FlashBy) (addr : Nat) (o : List (Nat × Nat)) (n : Nat) :
    (s.runRead by_ addr o).codeWord n = s.codeWord n :=
  State.runRead_keeps.codeWord_eq (by decide) n

theorem foldl_codeWord {α : Type} {f : State → α → State} {n : Nat} {l : List α}
    (hf : ∀ a ∈ l, ∀ s : State, (f s a).codeWord n = s.codeWord n) (s : State) : (l.foldl f s).codeWord n = s.codeWord n := by
  induction l generalizing s with
  | nil => rfl
  | cons a l ih =>
    rw [List.foldl_cons, ih fun b hb => hf b (List.mem_cons_of_mem _ hb), hf a (List.mem_cons_self ..)]

theorem State.runFlash_codeWord_of_read {x : FlashWait} (h : isFlashRead x = true) (s : State) (n : Nat) :
    (s.runFlash x).codeWord n = s.codeWord n := by
  obtain ⟨by_, op⟩ := x
  cases op with
  | read addr o => exact s.runRead_codeWord by_ addr o n
  | program addr d ok => simp [isFlashRead] at h
  | erase sector => simp [isFlashRead] at h

/-- A suspended erase lets reads run, and these alone (R428). -/
theorem State.flashDue_codeWord (s : State) (n : Nat) : s.flashDue.codeWord n = s.codeWord n := by
  unfold State.flashDue
  split
  · rfl
  · dsimp only
    split
    · rfl
    · rw [foldl_codeWord fun x hx t => State.runFlash_codeWord_of_read (List.mem_filter.mp hx).2 t n,
        State.bump_keeps.codeWord_eq (by decide)]
      rfl

theorem State.flashAsk_read_codeWord (s : State) (by_ : FlashBy) (addr : Nat) (o : List (Nat × Nat)) (n : Nat) :
    (s.flashAsk by_ (.read addr o)).codeWord n = s.codeWord n := by
  unfold State.flashAsk
  split
  · exact State.flashEnd_keeps.codeWord_eq (by decide) n
  · split_ifs
    · exact State.flashRefuse_keeps.codeWord_eq (by decide) n
    · exact State.flashEnd_keeps.codeWord_eq (by decide) n
    · exact s.runRead_codeWord by_ addr o n
    · exact State.flashDue_codeWord _ n

/-! ### A program of an erased code word (R426) -/

theorem State.not_calibration_of_erased {s : State} {n : Nat} (h : s.programmed n = false) : ¬(128 ≤ n ∧ n < 144) := by
  simp only [State.programmed, Bool.or_eq_false_iff, Bool.and_eq_false_iff, decide_eq_false_iff_not] at h
  omega

theorem State.putWord_of_erased {s : State} {n : Nat} {b : Bytes} (h : s.programmed n = false) :
    s.putWord n b = (s.modFlash (fun f => { f with words := tablePut f.words n (padTo 32 b) })).bump .pfl PFL_CNT_PROGRAM := by
  rw [State.putWord, h]
  rfl

theorem State.putWord_codeWord_self {s : State} {n : Nat} {b : Bytes} (h : s.programmed n = false) :
    (s.putWord n b).codeWord n = padTo 32 b := by
  rw [State.putWord_of_erased h, State.bump_keeps.codeWord_eq (by decide), State.codeWord,
    if_neg (by simpa using s.not_calibration_of_erased h)]
  simp

theorem State.putWord_codeWord_of_ne {s : State} {n a : Nat} (b : Bytes) (h : a ≠ n) :
    (s.putWord n b).codeWord a = s.codeWord a := by
  unfold State.putWord
  split
  · rfl
  · rw [State.bump_keeps.codeWord_eq (by decide)]
    simp only [State.codeWord, State.modFlash_flash, tableGet_put_ne _ _ h]

theorem State.putWord_counters (s : State) (n : Nat) (b : Bytes) : (s.putWord n b).flash.counters = s.flash.counters := by
  unfold State.putWord
  split
  · rfl
  · rw [State.bump_keeps.flash_eq (by decide), State.modFlash_flash]

/-- The Plinth firmware's program of an erased code word is done at once and answered OK. -/
theorem execPfProgram_of_erased {addr sector : Nat} {data : Bytes} {s : State} (hup : s.plinth.up = true)
    (hshape : flashShape (.program addr data true) = some (sector, 1)) (hmay : flashMay .firmware (.program addr data true) sector 1 = true)
    (herase : s.flash.erase = none) (hwait : s.flash.waiting = []) (hfree : s.programmed (addr / 32) = false) :
    execPfProgram addr data true s = .next ((s.putWord (addr / 32) data).emit (.plinthFlash 0 0 0 [])) := by
  rw [execPfProgram, if_pos hup, State.flashAsk_of_idle hshape hmay herase hwait]
  simp [State.runFlash, State.runProgram, hfree, State.flashEnd]

/-! ### The other routines -/

/-- A read whose code words all answer gives their bytes (R429). -/
theorem State.runRead_of_answered {s : State} {addr : Nat} {o : List (Nat × Nat)} (h : ∀ x ∈ o, x.1 < 5) :
    ∃ step corrected, .plinthFlash 0 step corrected ((List.range o.length).flatMap (fun k => s.codeWord (addr / 32 + k)))
      ∈ (s.runRead .firmware addr o).out := by
  have hok : ¬ o.any (fun x => decide (5 ≤ x.1)) = true := by simpa using h
  unfold State.runRead
  dsimp only
  rw [if_neg hok]
  exact ⟨_, _, List.mem_append_right _ (List.mem_singleton.mpr rfl)⟩

/-- With nothing waiting and nothing to place, refresh or clear, the end of an erase only frees the array. -/
theorem State.flashFree_of_idle {s : State} (hwait : s.flash.waiting = []) (hqueue : s.recorder.queue = [])
    (hclear : s.recorder.clearing = none) (hrenew : s.recorder.renew = []) :
    s.flashFree = s.modFlash (fun f => { f with waiting := [] }) := by
  simp [State.flashFree, State.runWaiting, State.placeQueue, State.renewStep, State.clearStep, hwait, hqueue, hclear, hrenew]

/-- The end of an erase of the Plinth firmware, with nothing that waits for it. -/
theorem execPfEraseDone_of_idle {e : FlashErase} {s : State} (he : s.flash.erase = some e) (hby : e.by_ = .firmware)
    (hwait : s.flash.waiting = []) (hqueue : s.recorder.queue = []) (hclear : s.recorder.clearing = none)
    (hrenew : s.recorder.renew = []) :
    execPfEraseDone true s = .next (((((s.modFlash (fun f => { f with erase := none })).wipeSector e.sector).bump .pfl
      PFL_CNT_ERASE).emit (.plinthFlash 0 0 0 [])).modFlash (fun f => { f with waiting := [] })) := by
  rw [execPfEraseDone, he]
  simp only [hby, State.flashEnd, if_true, Bool.true_or, Option.getD_none]
  rw [State.flashFree_of_idle] <;>
    simp [State.bump_keeps.flash_eq (by decide), State.bump_keeps.recorder_eq (by decide), State.wipeSector, *]

theorem State.raiseCounter_counter {s : State} {n v : Nat} (hlen : n < s.flash.counters.length) (hn : n < 8) (hv : v ≤ 512) :
    (s.raiseCounter n v).counter n = max v (s.counter n) := by
  rw [State.raiseCounter, if_neg (by simp; omega), State.counter, State.bumpBy_keeps.flash_eq (by decide)]
  simp [State.counter, hlen]

end Sys2Proof.Machine

namespace Sys2Proof

open Sys2Proof.Machine

/-- Settles O60, access by access: each changes one register of the file or one code word of the array, and an erase or a read none. -/
theorem accessesChangeNothingElse : Obligations.AccessesChangeNothingElse := by
  unfold Obligations.AccessesChangeNothingElse
  intro src p w v s t
  refine ⟨fun h => ?_, fun h => ?_, fun h => ?_, fun h => ?_, fun h ht q off hne => ?_,
    fun addr data sector hup hshape hmay herase hwait hfree ht => ?_, fun addr hup herase ht a => ?_, fun addr outcomes ht a => ?_⟩
  · refine ⟨_, congrArg Host.Outcome.next (State.gated_of_writeArrives h), State.setReg_reg_self ..,
      fun q off hne => State.setReg_reg_of_ne hne, fun x hx => State.setReg_keeps.part x (by simpa using hx), rfl⟩
  · refine ⟨_, congrArg Host.Outcome.next (State.gated_of_writeArrives h), fun n hn => State.forceEvt_bit hn,
      fun x hr hp => State.setEvt_keeps.part x (by simp [hr, hp])⟩
  · refine ⟨_, congrArg Host.Outcome.next (State.gated_of_writeArrives h), s.lockPage_rfld p v,
      fun q off hne => State.lockPage_reg_of_ne hne, fun x hx => State.lockPage_keeps.part x (by simpa using hx), s.lockPage_out p v⟩
  · refine ⟨_, congrArg Host.Outcome.next (State.readGate_of_readArrives h), State.setReg_reg_self ..,
      fun q off hne => State.setReg_reg_of_ne hne,
      fun x hx => (State.emit_keeps.step (by decide) State.setReg_keeps).part x (by simpa using hx), rfl⟩
  · obtain rfl := Host.Outcome.next.inj ((congrArg Host.Outcome.next (State.readGate_of_readArrives h)).symm.trans ht)
    exact State.setReg_reg_of_ne hne
  · obtain rfl := Host.Outcome.next.inj ((execPfProgram_of_erased hup hshape hmay herase hwait hfree).symm.trans ht)
    exact ⟨fun a ha => State.putWord_codeWord_of_ne data ha, State.putWord_counters ..⟩
  · obtain rfl := Host.Outcome.next.inj ht
    rw [if_neg (by simp [hup])]
    split
    · exact State.flashEnd_keeps.codeWord_eq (by decide) a
    · rcases State.flashAsk_of_no_erase .firmware (.erase (addr / 4096)) herase with ⟨l, hl, k⟩ | hrun
      · exact k.codeWord_eq hl a
      · rw [hrun]
        rfl
  · obtain rfl := Host.Outcome.next.inj ht
    split
    · exact s.flashAsk_read_codeWord .firmware addr outcomes a
    · rfl

/-- Settles O39, routine by routine. -/
theorem plinthFlashActs : Obligations.PlinthFlashActs := by
  unfold Obligations.PlinthFlashActs
  intro s hup
  refine ⟨fun addr outcomes sector hshape hmay herase hwait hok => ?_, fun addr data sector hshape hmay herase hwait hfree => ?_,
    fun addr halign hsector hmay herase hwait => ?_, fun e he hby hwait hqueue hclear hrenew => ?_, fun n hn => ?_,
    fun n v hlen hn hv => ?_⟩
  · refine ⟨_, congrArg Host.Outcome.next (if_pos hup), ?_⟩
    rw [State.flashAsk_of_idle hshape hmay herase hwait]
    exact State.runRead_of_answered hok
  · exact ⟨_, execPfProgram_of_erased hup hshape hmay herase hwait hfree, State.putWord_codeWord_self hfree, by simp⟩
  · refine ⟨_, congrArg Host.Outcome.next (if_neg (by simp [hup])), ?_⟩
    rw [if_neg (by simpa using halign), State.flashAsk_of_idle (op := .erase (addr / 4096)) (if_neg (by omega)) hmay herase hwait]
    exact ⟨_, rfl, rfl, rfl⟩
  · refine ⟨_, execPfEraseDone_of_idle he hby hwait hqueue hclear hrenew, ?_, ?_, ?_⟩
    all_goals simp [State.bump_keeps.flash_eq (by decide), State.wipeSector]
  · refine ⟨_, congrArg Host.Outcome.next (if_neg (by simp [hup])), ?_⟩
    rw [if_neg (by omega)]
    simp [State.flashEnd]
  · refine ⟨_, congrArg Host.Outcome.next (if_neg (by simp [hup])), ?_⟩
    rw [if_neg (by omega), if_neg (by omega)]
    exact ⟨State.raiseCounter_counter hlen hn hv, by simp [State.flashEnd]⟩

end Sys2Proof
end

section
/-! PROOFS. BAR0 accesses and the reads that latch (R9, R389, R401, R417, R445, R464), and the banks of PFL and EVR (R443, R446, R451). -/

namespace Sys2Proof.Machine

/-! ### BAR0 -/

/-- A BAR0 access that is refused is recorded with its kind and counted (R401, R417). -/
theorem State.accessErr_reg_err {s : State} {w : Wy} {kind off c : Nat} (hc : c ≠ GLB_ACCESS_ERR) :
    (s.accessErr w kind off (some c)).reg (.glb w) GLB_ACCESS_ERR = word (off % 2 ^ 27 + kind * 2 ^ 28) := by
  rw [State.accessErr]
  rw [State.bump_reg_of_off_ne hc.symm (by decide), State.event_reg_of_off_ne (by decide), State.setReg_reg_self]

theorem State.accessErr_reg_count {s : State} {w : Wy} {kind off c : Nat} (hc : c ≠ GLB_ACCESS_ERR) (he : c ≠ EVT_STATUS) :
    (s.accessErr w kind off (some c)).reg (.glb w) c = s.reg (.glb w) c + 1 := by
  rw [State.accessErr]
  rw [State.bump_reg_self he, State.event_reg_of_off_ne he, State.setReg_reg_of_off_ne hc]

/-- An aligned BAR0 write of a whole word goes where its offset lies (R401). -/
theorem State.barWrite_of_aligned {s : State} {w : Wy} {off : Nat} {v : Word} (hup : s.pcieUp w = true) (hoff : off % 4 = 0) :
    s.barWrite w off 4 true v = match barAt w off with
      | .peer => s.accessErr w 2 off (some GLB_CNT_PEER_WRITE)
      | .queue n o => s.putQp w n o v
      | .msix a => if a < 0x1000 then s.putMsix w a v else s
      | .page p o => s.gated (.bar0 w) p o (fun s => s.putReg (.bar0 w) p o v)
      | .unmapped => s.accessErr w 1 off (some GLB_CNT_UNMAPPED) := by
  rw [State.barWrite, if_neg (by simp [hup]), if_neg (by simp [hoff])] <;> cases barAt w off <;> rfl

/-- A register with no rule of its own holds the value that its access code lets in (R9, R410). -/
theorem State.putReg_reg {s : State} {src : AccSrc} {p : Page} {o : Nat} {v : Word} {r : RegRow} (hrow : regRow p o = some r)
    (hacc : (r.acc = .rw ∧ inRange r v = true) ∨ r.acc = .rws) (hrule : s.putOwnRule src p o v = none) :
    (s.putReg src p o v).reg p o = maskTo r v := by
  rcases hacc with ⟨ha, hr⟩ | ha <;> simp only [State.putReg, *, if_true, State.setReg_reg_self]

theorem State.emit_reg (s : State) (o : Output) (p : Page) (off : Nat) : (s.emit o).reg p off = s.reg p off := rfl

theorem State.mem_emit_out (s : State) (o : Output) : o ∈ (s.emit o).out := List.mem_append_right _ (List.mem_singleton.mpr rfl)

end Sys2Proof.Machine

namespace Sys2Proof

open Sys2Proof.Machine

/-- Settles O42, access by access. -/
theorem registerAccessesAct : Obligations.RegisterAccessesAct := by
  unfold Obligations.RegisterAccessesAct
  intro w s
  refine ⟨fun off v p o r hup hoff hat harr hrow hacc hrule => ?_, fun off v hup hoff hat => ?_, fun off hup hoff hat => ?_,
    fun src h => ?_, fun src h => ?_, fun src h => ?_, fun v hrun => ?_⟩
  · refine ⟨_, rfl, ?_⟩
    dsimp only
    rw [State.barWrite_of_aligned hup hoff, hat]
    dsimp only
    rw [State.gated_of_writeArrives harr, State.putReg_reg hrow hacc hrule]
  · refine ⟨_, rfl, ?_⟩
    dsimp only
    rw [State.barWrite_of_aligned hup hoff, hat]
    exact ⟨State.accessErr_reg_err (by decide), State.accessErr_reg_count (by decide) (by decide)⟩
  · refine ⟨_, rfl, ?_⟩
    have hread : s.barRead w off 4 = (s.accessErr w 1 off (some GLB_CNT_UNMAPPED)).emit (.readData (.bar0 w) 0) := by
      simp [State.barRead, hup, hoff, hat]
    rw [hread]
    exact ⟨State.mem_emit_out .., State.accessErr_reg_err (by decide), State.accessErr_reg_count (by decide) (by decide)⟩
  · exact ⟨_, congrArg Host.Outcome.next (State.readGate_of_readArrives h), State.mem_emit_out .., State.setReg_reg_self ..⟩
  · exact ⟨_, congrArg Host.Outcome.next (State.readGate_of_readArrives h), State.mem_emit_out .., State.setReg_reg_self ..⟩
  · exact ⟨_, congrArg Host.Outcome.next (State.readGate_of_readArrives h), State.mem_emit_out .., State.setReg_reg_self ..⟩
  · have harr : writeArrives (.tile w) (.ptp w) PTP_ADJ s :=
      ⟨⟨hrun, by simpa [pageWy] using w.peer_ne_self.symm, fun h => nomatch h⟩, fun _ h => nomatch h⟩
    refine ⟨_, congrArg Host.Outcome.next (State.gated_of_writeArrives harr), ?_, ?_⟩ <;> cases w <;> rfl

end Sys2Proof

namespace Sys2Proof.Machine

/-! ### Banks -/

theorem State.modBank_bank {s : State} {n : Nat} {f : Bank → Bank} (h : n < s.recorder.banks.length) :
    (s.modBank n f).bank n = f (s.bank n) := by
  simp [State.bank, State.modBank, List.getD_eq_getElem?_getD, h]

theorem Keeps.bank_eq {l : List Part} {s t : State} (h : Keeps l s t) (hl : .recorder ∉ l) (n : Nat) : t.bank n = s.bank n := by
  rw [State.bank, h.recorder_eq hl, State.bank]

/-- The answer to a bank's request stands in the bank (R446). -/
theorem State.flashEnd_bank {s : State} {n result step bits_ : Nat} {data : Option Bytes} (h : n < s.recorder.banks.length) :
    (s.flashEnd (.bank n) result step bits_ data).bank n =
      { s.bank n with result := word (result + step * 16 + bits_ * 256), data := data.getD (s.bank n).data } := by
  rw [State.flashEnd, State.event_keeps.bank_eq (by decide), State.modBank_bank h]

theorem State.flashEnd_bit {s : State} {n result step bits_ : Nat} {data : Option Bytes} :
    bitOf ((s.flashEnd (.bank n) result step bits_ data).reg .pfl EVT_STATUS) PFL_EVT_REQ_DONE = true :=
  State.event_sets_bit (by decide) ..

theorem State.freshen_banks (s : State) (sector : Nat) : (s.freshen sector).recorder.banks = s.recorder.banks := by
  unfold State.freshen
  split
  · rfl
  iterate 4 rw [State.bumpBy_keeps.recorder_eq (by decide), State.bump_keeps.recorder_eq (by decide)]
  · rfl

theorem foldl_freshen_banks (l : List Nat) (s : State) : (l.foldl State.freshen s).recorder.banks = s.recorder.banks := by
  induction l generalizing s with
  | nil => rfl
  | cons a l ih => rw [List.foldl_cons, ih, State.freshen_banks]

/-- A bank's read of one code word that decodes shows the word, with the step and the bits of its outcome (R429, R446). -/
theorem State.runRead_bank {s : State} {n addr step corrected : Nat} (h : n < s.recorder.banks.length) (hstep : step < 5) :
    (s.runRead (.bank n) addr [(step, corrected)]).bank n = { s.bank n with
      result := word (step * 16 + corrected * 256), data := s.codeWord (addr / 32) } := by
  unfold State.runRead
  extract_lets a retries failed top bits_ s1 worn s2 old
  have hbanks : s2.recorder.banks = s.recorder.banks := by
    rw [foldl_freshen_banks]
    split
    · rw [State.recordOpen_keeps.recorder_eq (by decide), State.bumpBy_keeps.recorder_eq (by decide),
        State.bumpBy_keeps.recorder_eq (by decide)]
    · rw [State.bumpBy_keeps.recorder_eq (by decide), State.bumpBy_keeps.recorder_eq (by decide)]
  have hbank : s2.bank n = s.bank n := by rw [State.bank, hbanks, State.bank]
  have hfailed : failed = false := by simp [failed, hstep]
  have htop : top = step := by simp [top]; omega
  have hbits : bits_ = corrected := by simp [bits_]
  rw [if_neg (by simp [hfailed]), State.flashEnd_bank (by rwa [hbanks]), hbank, htop, hbits]
  simp [a, old]

theorem State.runRead_bit {s : State} {n addr : Nat} {o : List (Nat × Nat)} :
    bitOf ((s.runRead (.bank n) addr o).reg .pfl EVT_STATUS) PFL_EVT_REQ_DONE = true := by
  unfold State.runRead
  extract_lets
  split <;> exact State.flashEnd_bit

/-- A request of a bank at a code word, with no erase running, runs when its bank may (R426, R446). -/
theorem State.putPflReq_of_idle {s : State} {src : AccSrc} {op : Nat → Bytes → FlashOp} {sector kind : Nat}
    (halign : (s.bank (bankOf src)).addr % 32 = 0)
    (hshape : flashShape (op (s.bank (bankOf src)).addr (s.bank (bankOf src)).data) = some (sector, kind))
    (hmay : flashMay (.bank (bankOf src)) (op (s.bank (bankOf src)).addr (s.bank (bankOf src)).data) sector kind = true)
    (herase : s.flash.erase = none) (hwait : s.flash.waiting = []) :
    s.putPflReq src op =
      s.runFlash { by_ := .bank (bankOf src), op := op (s.bank (bankOf src)).addr (s.bank (bankOf src)).data } := by
  rw [State.putPflReq]
  rw [if_neg (by simpa using halign), State.flashAsk_of_idle hshape hmay herase hwait]

theorem State.putWord_bank (s : State) (a : Nat) (b : Bytes) (n : Nat) : (s.putWord a b).bank n = s.bank n :=
  State.putWord_keeps.bank_eq (by decide) n

theorem State.putWord_recorder (s : State) (a : Nat) (b : Bytes) : (s.putWord a b).recorder = s.recorder :=
  State.putWord_keeps.recorder_eq (by decide)

/-- The end of a read of EVR_WINDOW15 with an entry latched: the cursor moves past it, and a CRITICAL one read whole is acknowledged. -/
theorem State.evrAdvance_cursor {s : State} {n : Nat} {d : Bytes} (h : n < s.recorder.banks.length) (hd : (s.bank n).latch = some d) :
    ((s.evrAdvance n).bank n).cursor = (entryOf d).seq + 1 := by
  have hmod := State.modBank_bank (f := fun k => { k with cursor := (entryOf d).seq + 1 }) h
  rw [State.evrAdvance, hd]
  dsimp only
  split
  · exact congrArg Bank.cursor hmod
  · exact congrArg Bank.cursor hmod

theorem State.evrAdvance_acked {s : State} {n : Nat} {d : Bytes} (hd : (s.bank n).latch = some d) (hsev : (entryOf d).severity = 3)
    (hseen : ∀ k < 15, k ∈ (s.bank n).seen) (h2 : n ≠ 2) (h3 : n ≠ 3) : (entryOf d).seq ∈ (s.evrAdvance n).recorder.acked := by
  have hfull : (List.range 15).all (fun k => (s.bank n).seen.contains k) = true := by simpa using hseen
  rw [State.evrAdvance, hd]
  dsimp only
  rw [hfull, hsev]
  by_cases hc : (entryOf d).seq ∈ s.recorder.acked
  · rw [if_neg (by simp [hc])]
    exact hc
  · rw [if_pos (by simp [h2, h3, hc])]
    simp

end Sys2Proof.Machine

namespace Sys2Proof

open Sys2Proof.Machine

/-- Settles O40, request by request. -/
theorem plinthBanksAct : Obligations.PlinthBanksAct := by
  unfold Obligations.PlinthBanksAct
  intro src s hlen
  refine ⟨fun harr halign haddr herase hwait => ⟨fun step corrected hstep hmay => ?_, fun hmay hfree => ?_, fun hmay => ?_⟩,
    fun harr => ⟨?_, fun d hd => ?_⟩, fun lo harr => ?_⟩
  · refine ⟨_, congrArg Host.Outcome.next (State.gated_of_writeArrives harr), ?_⟩
    have hshape : flashShape (.read (s.bank (bankOf src)).addr [(step, corrected)]) =
        some ((s.bank (bankOf src)).addr / 4096, 0) := if_neg (by simp; omega)
    rw [State.putPflReq_of_idle halign hshape (by simpa [flashMay] using hmay) herase hwait]
    have hbank := State.runRead_bank (addr := (s.bank (bankOf src)).addr) (corrected := corrected) hlen hstep
    exact ⟨congrArg Bank.data hbank, congrArg Bank.result hbank, State.runRead_bit⟩
  · refine ⟨_, congrArg Host.Outcome.next (State.gated_of_writeArrives harr), ?_⟩
    have hshape : flashShape (.program (s.bank (bankOf src)).addr (s.bank (bankOf src)).data true) =
        some ((s.bank (bankOf src)).addr / 4096, 1) := if_neg (by simp; omega)
    rw [State.putPflReq_of_idle (op := fun a d => .program a d true) halign hshape hmay herase hwait]
    have hrun : ∀ a d, s.programmed (a / 32) = false → s.runFlash { by_ := .bank (bankOf src), op := .program a d true } =
        (s.putWord (a / 32) d).flashEnd (.bank (bankOf src)) 0 0 0 none := by
      intro a d hf
      simp [State.runFlash, State.runProgram, hf]
    rw [hrun _ _ hfree]
    refine ⟨?_, ?_⟩
    · rw [State.flashEnd_bank (by rwa [State.putWord_recorder])]
      rfl
    · rw [State.flashEnd_keeps.codeWord_eq (by decide), State.putWord_codeWord_self hfree]
  · refine ⟨_, congrArg Host.Outcome.next (State.gated_of_writeArrives harr), ?_⟩
    have hshape : flashShape (.erase ((s.bank (bankOf src)).addr / 4096)) = some ((s.bank (bankOf src)).addr / 4096, 2) :=
      if_neg (by omega)
    rw [State.putPflReq_of_idle (op := fun a _ => .erase (a / 4096)) halign hshape hmay herase hwait]
    exact ⟨_, rfl, rfl, rfl⟩
  · refine ⟨_, congrArg Host.Outcome.next (State.readGate_of_readArrives harr), ?_⟩
    have hbank := State.modBank_bank (s := s) (f := fun k => { k with
      latch := s.evrHere (bankOf src), seen := [0], atEnd := (s.evrHere (bankOf src)).isNone }) hlen
    exact ⟨congrArg Bank.latch hbank, congrArg Bank.atEnd hbank⟩
  · exact ⟨_, congrArg Host.Outcome.next (State.readGate_of_readArrives harr), State.evrAdvance_cursor hlen hd,
      State.evrAdvance_acked hd⟩
  · refine ⟨_, congrArg Host.Outcome.next (State.gated_of_writeArrives harr), ?_⟩
    exact congrArg Bank.cursor (State.modBank_bank (s := s) hlen)

end Sys2Proof
end

section
/-! PROOFS. The time of the state after events and counts, and the label with the REQUEST button (R448-R450). -/

namespace Sys2Proof.Machine

theorem runs_intro {i : Instr} {s t : State} {p : State → Prop} (h : exec i s = .next t) (hp : p t) : Runs i s p := ⟨t, h, hp⟩

/-! ### Time -/

@[simp] theorem State.sendMsix_now (s : State) (w : Wy) (v : Nat) : (s.sendMsix w v).now = s.now := by
  unfold State.sendMsix
  extract_lets
  split_ifs <;> simp

@[simp] theorem State.pendMsix_now (s : State) (w : Wy) : (s.pendMsix w).now = s.now := by
  unfold State.pendMsix
  split <;> simp

@[simp] theorem State.becamePending_now (s : State) (p : Page) (b : Bool) : (s.becamePending p b).now = s.now := by
  unfold State.becamePending
  split
  · split <;> simp
  · rfl

@[simp] theorem State.event_now (s : State) (p : Page) (n : Nat) : (s.event p n).now = s.now :=
  State.becamePending_now ..

@[simp] theorem State.bumpBy_now (s : State) (p : Page) (off n : Nat) : (s.bumpBy p off n).now = s.now := by
  unfold State.bumpBy
  extract_lets
  split
  · exact State.event_now ..
  · rfl

@[simp] theorem State.bump_now (s : State) (p : Page) (off : Nat) : (s.bump p off).now = s.now := State.bumpBy_now ..

/-! ### The label -/

theorem State.startRefresh_front {s : State} (h : s.labelPower = true) : s.startRefresh.front =
    { s.front with refreshing := true, refreshAt := s.now, shown := s.labelView s.front.page } := by
  rw [State.startRefresh, if_neg (by simp [h])]
  rfl

theorem State.startRefresh_page (s : State) : s.startRefresh.front.page = s.front.page := by
  unfold State.startRefresh
  split <;> rfl

/-- A page shown while no refresh runs turns to it and begins its refresh (R449). -/
theorem State.showPage_page {s : State} {n : Option Nat} (h : s.front.refreshing = false) :
    (s.showPage n).front.page = n.getD ((s.front.page + 1) % 5) := by
  rw [State.showPage]
  rw [if_neg (by simp [h]), State.startRefresh_page]
  rfl

theorem State.showPage_begins {s : State} {n : Option Nat} (h : s.front.refreshing = false) (hp : s.labelPower = true) :
    (s.showPage n).front.refreshing = true ∧ (s.showPage n).front.touchedAt = some s.now := by
  rw [State.showPage]
  rw [if_neg (by simp [h]), State.startRefresh_front (by exact hp)]
  exact ⟨rfl, rfl⟩

theorem State.showPage_kept {s : State} {n : Option Nat} (h : s.front.refreshing = true) :
    (s.showPage n).front.kept = some (s.front.kept.getD n) := by
  rw [State.showPage]
  rw [if_pos h]
  rfl

theorem State.showPage_regs (s : State) (n : Option Nat) (p : Page) (off : Nat) : (s.showPage n).reg p off = s.reg p off :=
  State.showPage_keeps.reg_eq (by decide) p off

theorem State.startRefresh_reg (s : State) (p : Page) (off : Nat) : s.startRefresh.reg p off = s.reg p off :=
  State.startRefresh_keeps.reg_eq (by decide) p off

theorem State.modFront_reg (s : State) (f : Front → Front) (p : Page) (off : Nat) : (s.modFront f).reg p off = s.reg p off := rfl

theorem Keeps.labelPower_eq {l : List Part} {s t : State} (h : Keeps l s t) (hl : .plinth ∉ l) : t.labelPower = s.labelPower := by
  simp only [State.labelPower, h.plinth_eq hl]

/-- A refresh that ends shows the page that was kept, if one was (R449). -/
theorem execLabelRefreshDone_of_refreshing {s : State} (h : s.front.refreshing = true) :
    execLabelRefreshDone s = .next (match s.front.kept with
      | some n => (((s.modFront (fun f => { f with refreshing := false, kept := none })).bump .fpn FPN_CNT_LABEL_REFRESH).modFront
          (fun f => { f with page := n.getD ((f.page + 1) % 5) })).startRefresh
      | none => (s.modFront (fun f => { f with refreshing := false, kept := none })).bump .fpn FPN_CNT_LABEL_REFRESH) := by
  rw [execLabelRefreshDone, if_neg (by simp [h])] <;> rfl

/-- With no touch for LABEL_RETURN seconds the label returns to its page (R449). -/
theorem execLabelReturn_of_late {s : State} {at_ : Nat} (hup : s.plinth.up = true) (hidle : s.front.refreshing = false)
    (hat : s.front.touchedAt = some at_) (hlate : at_ + s.afld .fpn FPN_CTRL 23 16 * 1000000000 ≤ s.now)
    (hpage : s.front.page ≠ s.returnPage) :
    execLabelReturn s = .next (s.modFront (fun f => { f with page := s.returnPage })).startRefresh := by
  have hsince := (s.since_sec at_ (s.afld .fpn FPN_CTRL 23 16)).mpr hlate
  rw [execLabelReturn, if_pos (by rw [hat, Option.all_some, hsince]; simp [hup, hidle, hpage])]

/-- A press of less than 2 s on an enabled button (R448). -/
theorem execRequestPress_of_up {n : Nat} {s : State} (hup : s.plinth.up = true) (hn : n < 3000) :
    execRequestPress n s = .next (
      if s.afld .fpn FPN_CTRL 0 0 = 0 ∨ 2000 ≤ n then (s.bump .fpn FPN_CNT_PRESS).event .fpn FPN_EVT_BUTTON
      else if s.front.locateAt.isSome then
        (((s.bump .fpn FPN_CNT_PRESS).event .fpn FPN_EVT_BUTTON).modFront (fun f => { f with locateAt := none })).event .fpn
          FPN_EVT_LOCATE_ACK
      else ((s.bump .fpn FPN_CNT_PRESS).event .fpn FPN_EVT_BUTTON).showPage (some 1)) := by
  rw [execRequestPress, if_neg (by simp [hup, hn])]
  simp

end Sys2Proof.Machine

namespace Sys2Proof

open Sys2Proof.Machine

/-- Settles O52, command by command. -/
theorem labelFollows : Obligations.LabelFollows := by
  unfold Obligations.LabelFollows
  intro src s
  refine ⟨fun hup => ?_, fun v harr hv hidle hpow => ?_, fun at_ hup hidle hat hlate hpage hpow => ?_, fun hbusy => ?_,
    fun hup hidle hshown hold hlate hnew hpow => ?_, fun n hup hn => ?_⟩
  · refine runs_intro (if_neg (by simp [hup])) ?_
    have hcount : (s.bump .fpn FPN_CNT_TOUCH).reg .fpn FPN_CNT_TOUCH = s.reg .fpn FPN_CNT_TOUCH + 1 := State.bump_reg_self (by decide)
    by_cases htouch : s.afld .fpn FPN_CTRL 1 1 = 1
    · rw [if_pos htouch, State.showPage_regs, hcount]
      refine ⟨rfl, fun _ hidle hpow => ⟨?_, ?_⟩, fun _ hbusy hkept => ?_⟩
      · rw [State.showPage_page (by simpa using hidle)]
        simp
      · have h := State.showPage_begins (n := none) (s := s.bump .fpn FPN_CNT_TOUCH) (by simpa using hidle)
          (by rwa [State.bump_keeps.labelPower_eq (by decide)])
        exact ⟨h.1, by simpa using h.2⟩
      · rw [State.showPage_kept (by simpa using hbusy)]
        simp [hkept]
    · rw [if_neg htouch]
      exact ⟨hcount, fun h => absurd h htouch, fun h => absurd h htouch⟩
  · refine runs_intro (congrArg Host.Outcome.next (State.gated_of_writeArrives harr)) ?_
    rw [State.writeLabelPage]
    rw [if_neg (by omega)]
    exact ⟨State.showPage_page hidle, (State.showPage_begins hidle hpow).1⟩
  · refine runs_intro (execLabelReturn_of_late hup hidle hat hlate hpage) ?_
    rw [State.startRefresh_front (by exact hpow)]
    exact ⟨rfl, rfl⟩
  · refine runs_intro (execLabelRefreshDone_of_refreshing hbusy) ?_
    have hcount : ((s.modFront (fun f => { f with refreshing := false, kept := none })).bump .fpn FPN_CNT_LABEL_REFRESH).reg .fpn
        FPN_CNT_LABEL_REFRESH = s.reg .fpn FPN_CNT_LABEL_REFRESH + 1 := State.bump_reg_self (by decide)
    cases hk : s.front.kept with
    | none => exact ⟨hcount, fun _ => by simp, fun n h => nomatch h⟩
    | some n =>
      refine ⟨?_, fun h => (nomatch h), fun m hm hpow => ?_⟩
      · rw [State.startRefresh_reg]
        exact hcount
      · obtain rfl := Option.some.inj hm
        rw [State.startRefresh_front (by
          rw [State.modFront_keeps.labelPower_eq (by decide), State.bump_keeps.labelPower_eq (by decide)]
          exact hpow)]
        simp
  · refine runs_intro rfl ?_
    have hdue : s.labelDue = s.startRefresh := by
      rw [State.labelDue]
      rw [if_neg (by simp [hup, hidle]), if_neg hshown, if_neg (by simpa using hold),
        if_pos (by simpa [hshown, hnew, State.since_sec] using hlate)]
    rw [hdue, State.startRefresh_front hpow]
    exact ⟨rfl, rfl, rfl⟩
  · refine runs_intro (execRequestPress_of_up hup hn) ?_
    have hcount : ((s.bump .fpn FPN_CNT_PRESS).event .fpn FPN_EVT_BUTTON).reg .fpn FPN_CNT_PRESS = s.reg .fpn FPN_CNT_PRESS + 1 := by
      rw [State.event_reg_of_off_ne (by decide), State.bump_reg_self (by decide)]
    have hbit : bitOf (((s.bump .fpn FPN_CNT_PRESS).event .fpn FPN_EVT_BUTTON).reg .fpn EVT_STATUS) FPN_EVT_BUTTON = true :=
      State.event_sets_bit (by decide) ..
    split
    case isTrue h =>
      exact ⟨hcount, hbit, fun hms hon => absurd h (by simp [hon, hms]), fun hms hon => absurd h (by simp [hon, hms])⟩
    case isFalse h =>
      split
      case isTrue hloc =>
        refine ⟨?_, State.event_keeps_bit (by rwa [State.modFront_reg]) _ _, fun _ _ _ => by simp, fun _ _ hnone => by simp [hnone] at hloc⟩
        rw [State.event_reg_of_off_ne (by decide), State.modFront_reg, hcount]
      case isFalse hloc =>
        refine ⟨?_, ?_, fun _ _ hsome => ?_, fun _ _ _ hidle => ?_⟩
        · rw [State.showPage_regs, hcount]
        · rwa [State.showPage_regs]
        · exact absurd (Option.isSome_iff_ne_none.mpr hsome) hloc
        · exact State.showPage_page (by simpa using hidle)

end Sys2Proof
end

section
/-! PROOFS. Service sessions and their commands (R461, R462, R485, R490). -/

namespace Sys2Proof.Machine

/-- What no element of a fold changes, the fold does not change. -/
theorem foldl_proj {α β : Type} (π : State → β) {f : State → α → State} {l : List α} (hf : ∀ s a, a ∈ l → π (f s a) = π s)
    (s : State) : π (l.foldl f s) = π s := by
  induction l generalizing s with
  | nil => rfl
  | cons a l ih => rw [List.foldl_cons, ih fun t b hb => hf t b (List.mem_cons_of_mem _ hb), hf s a (List.mem_cons_self ..)]

/-! ### Release, recovery and start: what they leave of the cover and of the Plinth -/

/-- A release changes of the cover that its wythe is released and no longer held (R419). -/
theorem State.releaseWythe_cover {s : State} {w : Wy} (h : s.keys ≠ none) :
    (s.releaseWythe w).cover = ((s.setRel w true).setHeld w false).cover := by
  obtain ⟨k, hk⟩ := Option.ne_none_iff_exists'.mp h
  unfold State.releaseWythe
  rw [hk]
  dsimp only
  rw [foldl_proj State.cover fun t c _ => by split <;> [exact State.takeChannel_keeps.cover_eq (by decide); rfl],
    foldl_proj State.cover fun t p _ => State.putOnline_keeps.cover_eq (by decide), State.setReg_cover,
    State.optionRegs_keeps.cover_eq (by decide)]
  cases w <;> rfl

theorem State.releaseWythe_of_no_keys {s : State} {w : Wy} (h : s.keys = none) : s.releaseWythe w = s := by
  unfold State.releaseWythe
  rw [h]

theorem State.emit_running (s : State) (o : Output) (v : Wy) : (s.emit o).running v = s.running v := by cases v <;> rfl

theorem State.setRel_running (s : State) (w v : Wy) (b : Bool) : (s.setRel w b).running v = s.running v := by
  cases w <;> cases v <;> rfl

theorem State.setHeld_running (s : State) (w v : Wy) (b : Bool) : (s.setHeld w b).running v = s.running v := by
  cases w <;> cases v <;> rfl

theorem State.running_congr {s t : State} (h : t.cover = s.cover) (w : Wy) : t.running w = s.running w := by
  cases w <;> simp only [State.running, h]

/-- A wythe that is released does not run yet: it runs from IMAGE_VERIFY on (log 91). -/
theorem State.releaseWythe_running (s : State) (w v : Wy) : (s.releaseWythe w).running v = s.running v := by
  by_cases h : s.keys = none
  · rw [State.releaseWythe_of_no_keys h]
  · rw [State.running_congr (State.releaseWythe_cover h), State.setHeld_running, State.setRel_running]

theorem State.modStart_running (s : State) (w v : Wy) (f : StartSt → StartSt) : (s.modStart w f).running v = s.running v :=
  State.modStart_keeps.running_eq (by decide) v

theorem State.romOnly_running (s : State) (v : Wy) : s.romOnly.running v = s.running v := by
  unfold State.romOnly
  split
  · rfl
  · exact foldl_proj (fun t => t.running v) (fun t w _ => by rw [State.modStart_running, State.releaseWythe_running]) s

/-- In ROM recovery no wythe runs its firmware (R490). -/
theorem State.enterRecovery_running (s : State) (v : Wy) : s.enterRecovery.running v = false := by
  rw [State.enterRecovery, State.romOnly_running]
  cases v <;> rfl

theorem State.enterRecovery_recovery (s : State) : s.enterRecovery.plinth.recovery = true := by
  rw [State.enterRecovery, State.romOnly_keeps.plinth_eq (by decide)]
  rfl

theorem State.brickStep_plinth (s : State) (step result variant : Nat) : (s.brickStep step result variant).plinth = s.plinth :=
  State.brickStep_keeps.plinth_eq (by decide)

/-- The start record changes of the Plinth its number, its place in the ring and the time of good power (R438). -/
theorem State.startRecord_plinth (s : State) (cause : Nat) : (s.startRecord cause).plinth =
    { s.plinth with ringPos := (s.plinth.ringPos + 1) % 64, startNo := (s.plinth.startNo + 1) % 2 ^ 32, goodAt := s.now } := by
  unfold State.startRecord
  extract_lets k s1 s2 old
  have hplinth : s1.plinth = s.plinth := by
    unfold s1
    split
    · rfl
    · exact State.eraseRing_keeps.plinth_eq (by decide)
  rw [State.putWord_keeps.plinth_eq (by decide)]
  simp only [s2, State.modPlinth_plinth, hplinth, old, k]

/-- A start begins with its record open, and no brick reset waits any more (R485, R489). -/
theorem State.beginStart_plinth (s : State) (cause : Nat) : (s.beginStart cause).plinth.startOn = true
    ∧ (s.beginStart cause).plinth.brickReset = none ∧ (s.beginStart cause).plinth.recovery = s.plinth.recovery
    ∧ (s.beginStart cause).plinth.failStarts = s.plinth.failStarts
    ∧ (s.beginStart cause).plinth.startNo = (s.plinth.startNo + 1) % 2 ^ 32 := by
  unfold State.beginStart
  extract_lets s1 s2 s3 s4
  have hs1 : s1.plinth = s.plinth := by
    rw [State.resetWythe_keeps.plinth_eq (by decide), State.resetWythe_keeps.plinth_eq (by decide),
      State.dropChannels_keeps.plinth_eq (by decide)]
  have hs4 : s4.plinth = s3.plinth := by
    unfold s4
    rw [State.modFront_plinth]
    split
    · rfl
    · exact State.event_keeps.plinth_eq (by decide)
  rw [State.brickStep_plinth, State.startRecord_plinth, State.modHealth_plinth, hs4]
  simp only [s3, s2, State.modPlinth_plinth, hs1, and_self]

/-- A start begins with no wythe running. -/
theorem State.beginStart_running (s : State) (cause : Nat) (v : Wy) : (s.beginStart cause).running v = false := by
  unfold State.beginStart
  extract_lets s1 s2 s3 s4
  have hs4 : s4.cover = .reset := by
    unfold s4
    rw [State.modFront_cover]
    split
    · rfl
    · exact State.event_keeps.cover_eq (by decide)
  have hcover := State.brickStep_keeps (s := (s4.modHealth (fun h => { h with
    caps := h.caps.map (fun c => { c with charged := true }) })).startRecord cause) (step := 1) (result := 0) (variant := 0)
    |>.cover_eq (by decide)
  rw [State.startRecord_keeps.cover_eq (by decide), State.modHealth_cover, hs4] at hcover
  cases v <;> simp only [State.running, hcover, Cover.reset]

/-- A brick reset of a brick that has power begins its start (R485). -/
theorem State.resetBrick_of_powered {s : State} {cal ksA ksB : Bool} (h : s.powered = true) :
    ∃ t : State, s.resetBrick cal ksA ksB = t.beginStart 2 := by
  unfold State.resetBrick
  extract_lets on s1 s2
  rw [if_neg (by simp [on, h])]
  exact ⟨_, rfl⟩

/-! ### Sessions -/

/-- A command of a session that has the right and may be done is done, and answered so (R462). -/
theorem State.command_done {s : State} {n right : Nat} {ok : Bool} {f : State → State} (hmay : s.may n right = true)
    (hok : ok = true) : s.command n right ok f = (f s).emit (.service n true) := if_pos (by simp [hmay, hok])

theorem pageKey_svc : pageKey .svc = 0x2004000 := rfl

theorem pageKey_plt : pageKey .plt = 0x2000000 := rfl

/-- A ticket fails one of four checks, each with a counter of its own (R462). -/
theorem State.ticketFault_mem {s : State} {t : Bytes} {c : Nat} (h : s.ticketFault t = some c) :
    c ∈ [SVC_CNT_BAD_SIG, SVC_CNT_WRONG_BRICK, SVC_CNT_EXPIRED, SVC_CNT_REPLAY] := by
  unfold State.ticketFault at h
  extract_lets at h
  split_ifs at h <;> cases h <;> decide

/-- A refused ticket is counted by its fault and opens nothing (R461). -/
theorem State.refuseTicket_counts {s : State} {c : Nat} (hc : c ∈ [SVC_CNT_BAD_SIG, SVC_CNT_WRONG_BRICK, SVC_CNT_EXPIRED, SVC_CNT_REPLAY]) :
    (s.refuseTicket (some c)).reg .svc c = s.reg .svc c + 1 := by
  have hrange : 0x100 ≤ c ∧ c < 0x1000 := by
    revert c
    decide
  have hevt : c ≠ EVT_STATUS := by
    have : EVT_STATUS < 0x100 := by decide
    omega
  have hkey : ∀ o < 0x1000, pageKey .svc + c ≠ pageKey .plt + o := by
    rw [pageKey_svc, pageKey_plt]
    omega
  unfold State.refuseTicket
  rw [State.emit_reg, State.event_reg_of_off_ne hevt, State.bump_reg_of_ne (hkey _ (by decide)) (hkey _ (by decide)),
    State.bump_reg_self hevt]

theorem State.refuseTicket_evt (s : State) (c : Option Nat) :
    bitOf ((s.refuseTicket c).reg .svc EVT_STATUS) SVC_EVT_TICKET_REFUSED = true :=
  State.event_sets_bit (by decide) ..

theorem State.refuseTicket_plinth (s : State) (c : Option Nat) : (s.refuseTicket c).plinth = s.plinth :=
  State.refuseTicket_keeps.plinth_eq (by decide)

/-- A session that opens stands among the sessions with its ticket's rights (R462). -/
theorem State.openSession_holds (s : State) (t : Bytes) : ∃ x ∈ (s.openSession t).plinth.sessions,
    x.n = s.plinth.nextSession ∧ x.rights = BitVec.ofNat 16 (ofLe (sliceBytes t 6 2)) := by
  unfold State.openSession
  extract_lets until_ end_ n x s1
  rw [State.emit_plinth, State.event_keeps.plinth_eq (by decide), State.bump_keeps.plinth_eq (by decide),
    State.bump_keeps.plinth_eq (by decide)]
  exact ⟨x, List.mem_append_right _ (List.mem_singleton.mpr rfl), rfl, rfl⟩

theorem State.endSession_of_open {s : State} {n : Nat} {x : Session} (h : s.session n = some x) :
    s.endSession n = ((s.modPlinth (fun p => { p with sessions := p.sessions.filter (fun x => x.n ≠ n) })).event .svc
      SVC_EVT_SESSION_END).emit (.sessionEnd n) := by
  rw [State.endSession, if_neg (by simp [h])]

theorem State.endSession_ends {s : State} {n : Nat} {x : Session} (h : s.session n = some x) :
    (s.endSession n).session n = none ∧ .sessionEnd n ∈ (s.endSession n).out := by
  rw [State.endSession_of_open h]
  refine ⟨?_, State.mem_emit_out ..⟩
  rw [State.session, State.emit_plinth, State.event_keeps.plinth_eq (by decide), State.modPlinth_plinth, List.find?_eq_none]
  simp

/-! ### Removal -/

/-- What the label's refresh may change of the front panel is the label's own. -/
theorem State.labelDue_view (s : State) : ∃ p r a l, s.labelDue.front =
    { s.front with page := p, refreshing := r, refreshAt := a, shown := l } := by
  have hstart : ∀ t : State, ∃ r a l, t.startRefresh.front = { t.front with refreshing := r, refreshAt := a, shown := l } := by
    intro t
    unfold State.startRefresh
    split <;> exact ⟨_, _, _, rfl⟩
  unfold State.labelDue
  extract_lets old
  clear_value old
  split_ifs
  · exact ⟨_, _, _, _, rfl⟩
  · obtain ⟨r, a, l, h⟩ := hstart (s.modFront (fun f => { f with page := 4 }))
    exact ⟨_, r, a, l, h⟩
  · obtain ⟨r, a, l, h⟩ := hstart s
    exact ⟨_, r, a, l, h⟩
  · exact ⟨_, _, _, _, rfl⟩

theorem State.labelDue_front (s : State) : s.labelDue.front.removeSt = s.front.removeSt ∧ s.labelDue.front.asking = s.front.asking
    ∧ s.labelDue.front.deadline = s.front.deadline ∧ s.labelDue.front.reason = s.front.reason
    ∧ s.labelDue.front.latchClosed = s.front.latchClosed ∧ s.labelDue.front.unclean = s.front.unclean
    ∧ s.labelDue.front.early = s.front.early := by
  obtain ⟨p, r, a, l, h⟩ := s.labelDue_view
  rw [h]
  exact ⟨rfl, rfl, rfl, rfl, rfl, rfl, rfl⟩

/-- A change of REMOVE_STATE sets it and keeps the rest of what the front panel holds of the removal. -/
theorem State.setRemove_front (s : State) (n : Nat) : (s.setRemove n).front.removeSt = n
    ∧ (s.setRemove n).front.asking = s.front.asking ∧ (s.setRemove n).front.deadline = s.front.deadline
    ∧ (s.setRemove n).front.reason = s.front.reason ∧ (s.setRemove n).front.latchClosed = s.front.latchClosed
    ∧ (s.setRemove n).front.unclean = s.front.unclean ∧ (s.setRemove n).front.early = s.front.early := by
  unfold State.setRemove
  extract_lets s1
  have hview := State.labelDue_front (if s.front.removeSt = n then s1 else s1.event .fpn FPN_EVT_REMOVE_CHANGE)
  have hfront : (if s.front.removeSt = n then s1 else s1.event .fpn FPN_EVT_REMOVE_CHANGE).front = s1.front := by
    split
    · rfl
    · exact State.event_front ..
  rw [hfront] at hview
  exact hview

/-- A removal that is requested of a member asks the armature (R453). -/
theorem State.askRemoval_of_member {s : State} {source : Nat} {ret : Option Nat} (hrem : s.removing = false)
    (hst : s.wall.st = .member ∨ s.wall.st = .suspect) (hserv : s.service = false) (hlatch : s.front.latchClosed = true) :
    (s.askRemoval source ret).front.asking = some (source, ret) ∧ (s.askRemoval source ret).front.removeSt = 1 := by
  have hleave : s.wall.st ≠ .leaving := by rcases hst with h | h <;> simp [h]
  have hmem : ¬(s.service = true ∨ s.wall.st ≠ .member ∧ s.wall.st ≠ .suspect) := by simpa [hserv] using fun h => hst.resolve_left h
  unfold State.askRemoval
  rw [if_neg (by simp [hrem, hleave, hlatch]), if_neg (by simpa using hmem)]
  obtain ⟨h1, h2, -⟩ := (s.modFront (fun f => { f with asking := some (source, ret), reason := 0, refusedAt := none })).setRemove_front 1
  exact ⟨h2, h1⟩

theorem State.askRemoval_plinth (s : State) (source : Nat) (ret : Option Nat) : (s.askRemoval source ret).plinth = s.plinth :=
  State.askRemoval_keeps.plinth_eq (by decide)

end Sys2Proof.Machine

namespace Sys2Proof

open Sys2Proof.Machine

/-- Settles O54, command by command. -/
theorem sessionsAct : Obligations.SessionsAct := by
  unfold Obligations.SessionsAct
  intro session s
  refine ⟨fun ticket hup hfew htick => ?_, fun x hx => ⟨fun hexp => ?_, ?_⟩, fun n hmay hlo hhi hrem hst hserv hlatch => ?_,
    fun key hmay hfew => ?_, fun cal ksA ksB hmay hlatch hserv hrem => ⟨fun hst => ?_, fun hst hpow => ?_⟩, fun hmay hrec => ?_,
    fun hmay hrec hserv hhold hin => ?_⟩
  · have hexec : exec (.serviceTicket ticket) s = match s.ticketFault ticket with
        | some c => .next (s.refuseTicket (some c))
        | none => .next (s.openSession ticket) := by
      show execServiceTicket ticket s = _
      rw [execServiceTicket, if_neg (by simp [hup]), if_neg (by omega), if_neg (by simp [htick])] <;> rfl
    cases hf : s.ticketFault ticket with
    | none =>
      rw [hf] at hexec
      refine runs_intro hexec ⟨fun _ => ⟨State.mem_emit_out .., ?_⟩, fun c h => nomatch h⟩
      exact s.openSession_holds ticket
    | some c =>
      rw [hf] at hexec
      refine runs_intro hexec ⟨fun h => (nomatch h), fun d hd => ?_⟩
      obtain rfl := Option.some.inj hd
      exact ⟨State.mem_emit_out .., congrArg Plinth.sessions (State.refuseTicket_plinth ..),
        State.refuseTicket_counts (State.ticketFault_mem hf), State.refuseTicket_evt ..⟩
  · refine runs_intro (congrArg Host.Outcome.next (if_pos ?_)) (State.endSession_ends hx)
    simpa [hx] using hexp
  · exact runs_intro rfl (State.endSession_ends hx)
  · refine runs_intro (congrArg Host.Outcome.next (State.command_done hmay ?_)) ⟨State.mem_emit_out .., ?_⟩
    · simp [hlo, hhi, hrem, hst, hlatch]
    · exact (State.askRemoval_of_member hrem (.inl hst) hserv hlatch).1
  · exact runs_intro (congrArg Host.Outcome.next (State.command_done hmay (by simpa using hfew))) ⟨State.mem_emit_out .., rfl⟩
  · refine runs_intro (congrArg Host.Outcome.next (State.command_done hmay hlatch)) ?_
    dsimp only
    rw [if_neg (by simp [hserv]), if_neg (by simp [hrem, hst]), if_pos (by simp [hst])]
    rw [State.emit_plinth, State.emit_front, State.askRemoval_plinth]
    have hask := State.askRemoval_of_member (s := s.modPlinth (fun p => { p with brickReset := some (cal, ksA, ksB) }))
      (source := 3) (ret := some 600) hrem (.inl hst) hserv hlatch
    exact ⟨State.mem_emit_out .., rfl, hask.1⟩
  · obtain ⟨t, ht⟩ := State.resetBrick_of_powered (cal := cal) (ksA := ksA) (ksB := ksB) hpow
    refine runs_intro (congrArg Host.Outcome.next (State.command_done hmay hlatch)) ?_
    dsimp only
    rw [if_neg (by simp [hserv]), if_neg (by simp [hrem, hst]), if_neg (by simp [hst]), ht]
    rw [State.emit_plinth, State.emit_running, State.emit_running]
    obtain ⟨hon, hreset, -⟩ := t.beginStart_plinth 2
    exact ⟨State.mem_emit_out .., hon, hreset, t.beginStart_running 2 .w0, t.beginStart_running 2 .w1⟩
  · refine runs_intro (congrArg Host.Outcome.next (State.command_done hmay (by simp [hrec]))) ?_
    rw [State.emit_plinth, State.emit_running, State.emit_running]
    exact ⟨State.mem_emit_out .., s.enterRecovery_recovery, s.enterRecovery_running .w0, s.enterRecovery_running .w1⟩
  · refine runs_intro (congrArg Host.Outcome.next (State.command_done hmay hrec)) ?_
    dsimp only
    rw [if_neg (by simpa [hserv, hhold, or_iff_not_imp_left] using hin), State.emit_plinth]
    obtain ⟨hon, -, hr, hf, -⟩ := (s.modPlinth (fun p => { p with recovery := false, failStarts := 0 })).beginStart_plinth 2
    exact ⟨State.mem_emit_out .., hr, hon, hf⟩

end Sys2Proof
end

section
/-! PROOFS. The pages lie apart (R400, R403), and which kinds of page an operation writes. -/

namespace Sys2Proof.Machine

/-! ### The pages lie apart -/

/-- The kind of a page, its wythe and number left out. -/
inductive PageKind where
  | glb | pwr | clk | rst | tie | hlt | tst | fwu | cip | bpm | med | mtr | rlf | rdm | ptp | mac | pnl | crs | til | chn
  | plt | pfl | evr | fpn | svc
  deriving DecidableEq

def pageKind : Page → PageKind
  | .glb _ => .glb | .pwr _ => .pwr | .clk _ => .clk | .rst _ => .rst | .tie _ => .tie | .hlt _ => .hlt | .tst _ => .tst
  | .fwu _ => .fwu | .cip _ => .cip | .bpm _ => .bpm | .med _ => .med | .mtr _ => .mtr | .rlf _ => .rlf | .rdm _ => .rdm
  | .ptp _ => .ptp | .mac _ _ => .mac | .pnl _ _ => .pnl | .crs _ _ => .crs | .til _ _ => .til | .chn _ => .chn
  | .plt => .plt | .pfl => .pfl | .evr => .evr | .fpn => .fpn | .svc => .svc

/-- A page's place is a whole number of pages of 4 KiB (R400). -/
theorem pageBase_dvd (p : Page) : pageBase p % 0x1000 = 0 := by
  cases p <;> simp only [pageBase] <;> omega

theorem pageBase_lt (p : Page) : pageBase p < 0x8000000 := by
  cases p
  case mac _ n => simp only [pageBase]; omega
  case pnl _ n => simp only [pageBase]; omega
  case crs _ n => simp only [pageBase]; omega
  case til _ n => simp only [pageBase]; omega
  case chn c => simp only [pageBase]; omega
  all_goals exact Nat.le_of_ble_eq_true rfl

/-- The wythe at whose map a page is looked up: its own, or any for a page of the brick. -/
def seenBy (p : Page) : Wy := (pageWy p).getD .w0

/-- The page that lies at a page's place is that page (R400, R403). -/
theorem pageAt_pageBase (p : Page) : pageAt (seenBy p) (pageBase p) = some p := by
  cases p
  case mac w n => cases w <;> revert n <;> decide
  case pnl w n => cases w <;> revert n <;> decide
  case crs w n => cases w <;> revert n <;> decide
  case til w n => cases w <;> revert n <;> decide
  case chn c => revert c; decide
  all_goals simp [seenBy, pageAt, pageBase, pageWy]

theorem pageKey_eq (p : Page) : pageKey p = pageBase p + (if pageWy p = some .w1 then 0x8000000 else 0) := by
  unfold pageKey
  cases h : pageWy p with
  | none => rfl
  | some w => cases w <;> rfl

/-- Registers of two pages never share a key. -/
theorem pageKey_inj {p q : Page} {o o' : Nat} (ho : o < 0x1000) (ho' : o' < 0x1000) (h : pageKey p + o = pageKey q + o') : p = q := by
  have hp := pageAt_pageBase p
  have hq := pageAt_pageBase q
  have dp := pageBase_dvd p
  have dq := pageBase_dvd q
  have lp := pageBase_lt p
  have lq := pageBase_lt q
  rw [pageKey_eq, pageKey_eq] at h
  have hbase : pageBase p = pageBase q := by split_ifs at h <;> omega
  have hw : (pageWy p = some .w1) ↔ (pageWy q = some .w1) := by split_ifs at h <;> first | omega | simp_all
  have hwy : seenBy p = seenBy q := by
    simp only [seenBy]
    rcases hpw : pageWy p with _ | _ | _ <;> rcases hqw : pageWy q with _ | _ | _ <;> simp_all
  rw [hbase, hwy, hq] at hp
  exact (Option.some.inj hp).symm

theorem pageKey_ne {p q : Page} {o o' : Nat} (h : p ≠ q) (ho : o < 0x1000) (ho' : o' < 0x1000) :
    pageKey p + o ≠ pageKey q + o' := fun e => h (pageKey_inj ho ho' e)

/-! ### The kinds of page that an operation writes -/

/-- From s to t, only registers of pages of the kinds listed change. -/
structure Writes (l : List PageKind) (s t : State) : Prop where
  reg : ∀ p off, off < 0x1000 → pageKind p ∉ l → t.reg p off = s.reg p off

theorem Writes.refl {l : List PageKind} {s : State} : Writes l s s := ⟨fun _ _ _ _ => rfl⟩

theorem Writes.step {l m : List PageKind} {s t u : State} (k : Writes m t u) (hl : m.all (l.contains ·) = true) (h : Writes l s t) :
    Writes l s u := by
  refine ⟨fun p off ho hp => ?_⟩
  have hm : pageKind p ∉ m := fun hm => hp (by simpa using List.all_eq_true.mp hl _ hm)
  rw [k.reg p off ho hm, h.reg p off ho hp]

/-- An operation that keeps the registers writes no page. -/
theorem Writes.keep {l : List PageKind} {m : List Part} {s t u : State} (k : Keeps m t u) (hm : m.contains .regs = false) (h : Writes l s t) :
    Writes l s u := by
  refine ⟨fun p off ho hp => ?_⟩
  rw [k.reg_eq (by simpa using hm), h.reg p off ho hp]

theorem Writes.foldl {α : Type} {l : List PageKind} {s u : State} {f : State → α → State} {xs : List α}
    (hf : ∀ v a, Writes l v (f v a)) (h : Writes l s u) : Writes l s (xs.foldl f u) := by
  induction xs generalizing u with
  | nil => exact h
  | cons a xs ih => exact ih ((hf u a).step (by simp) h)

theorem Writes.put {l : List PageKind} {s t u : State} (hr : u.regs = t.regs) (h : Writes l s t) : Writes l s u := by
  refine ⟨fun p off ho hp => ?_⟩
  rw [State.reg, hr, ← State.reg, h.reg p off ho hp]

theorem Writes.setReg {l : List PageKind} {s t : State} {p : Page} {off : Nat} {v : Word} (hp : l.contains (pageKind p) = true)
    (ho : Nat.blt off 0x1000 = true) (h : Writes l s t) : Writes l s (t.setReg p off v) := by
  refine ⟨fun q o hq hk => ?_⟩
  have hne : q ≠ p := by
    rintro rfl
    exact hk (by simpa using hp)
  rw [State.setReg_reg_of_ne (pageKey_ne hne hq (by simpa using ho)), h.reg q o hq hk]

theorem Writes.setRfld {l : List PageKind} {s t : State} {p : Page} {off hi lo v : Nat} (hp : l.contains (pageKind p) = true)
    (ho : Nat.blt off 0x1000 = true) (h : Writes l s t) : Writes l s (t.setRfld p off hi lo v) := h.setReg hp ho

theorem Writes.setUnit {l : List PageKind} {s t : State} {p : Page} {u : UnitSt} (hp : l.contains (pageKind p) = true) (h : Writes l s t) :
    Writes l s (t.setUnit p u) := h.setReg hp rfl

theorem Writes.setEvt {l : List PageKind} {s t : State} {p : Page} {b : Word} (hp : l.contains (pageKind p) = true) (h : Writes l s t) :
    Writes l s (t.setEvt p b) :=
  (h.setReg (v := t.reg p EVT_STATUS ||| b) hp rfl).keep State.becamePending_keeps rfl

theorem Writes.event {l : List PageKind} {s t : State} {p : Page} {n : Nat} (hp : l.contains (pageKind p) = true) (h : Writes l s t) :
    Writes l s (t.event p n) := h.setEvt hp

theorem Writes.bumpBy {l : List PageKind} {s t : State} {p : Page} {off n : Nat} (hp : l.contains (pageKind p) = true)
    (ho : Nat.blt off 0x1000 = true) (h : Writes l s t) : Writes l s (t.bumpBy p off n) := by
  unfold State.bumpBy
  dsimp only
  split
  · exact (h.setReg hp ho).event hp
  · exact h.setReg hp ho

theorem Writes.bump {l : List PageKind} {s t : State} {p : Page} {off : Nat} (hp : l.contains (pageKind p) = true)
    (ho : Nat.blt off 0x1000 = true) (h : Writes l s t) : Writes l s (t.bump p off) := h.bumpBy hp ho

theorem Writes.countError {l : List PageKind} {s t : State} {p : Page} (hp : l.contains (pageKind p) = true) (h : Writes l s t) :
    Writes l s (t.countError p) := h.setReg hp rfl

theorem Writes.pageError {l : List PageKind} {s t : State} {p : Page} {code a b : Nat} (hp : l.contains (pageKind p) = true)
    (h : Writes l s t) : Writes l s (t.pageError p code a b) :=
  (((h.setReg hp rfl).setReg hp rfl).setReg hp rfl).countError hp

theorem Writes.modWy {l : List PageKind} {s t : State} {w : Wy} {f : Wythe → Wythe} (h : Writes l s t) : Writes l s (t.modWy w f) :=
  h.put (by cases w <;> rfl)

theorem Writes.ite {l : List PageKind} {s t u : State} {c : Prop} [Decidable c] (ht : Writes l s t) (hu : Writes l s u) :
    Writes l s (if c then t else u) := by
  split
  · exact ht
  · exact hu

/-- A fold over pages of the kinds listed. -/
theorem Writes.foldl_mem {α : Type} {l : List PageKind} {s u : State} {f : State → α → State} {xs : List α}
    (hf : ∀ v, ∀ a ∈ xs, Writes l v (f v a)) (h : Writes l s u) : Writes l s (xs.foldl f u) := by
  induction xs generalizing u with
  | nil => exact h
  | cons a xs ih =>
    exact ih (fun v b hb => hf v b (List.mem_cons_of_mem _ hb)) ((hf u a (List.mem_cons_self ..)).step (by simp) h)

end Sys2Proof.Machine
end

section
/-! PROOFS. The kinds of page that the shared operations of media, Mortar and the clean stop write. -/

namespace Sys2Proof.Machine

theorem State.earlyWarn_writes {s : State} {code severity detail : Nat} {bytes : Bytes} :
    Writes [.hlt] s (State.earlyWarn s code severity detail bytes) := by
  unfold State.earlyWarn
  try dsimp only
  repeat' first
    | with_reducible exact Writes.refl
    | with_reducible apply Writes.bump
    | with_reducible apply Writes.keep State.warnWy_keeps
    | with_reducible apply Writes.keep State.recordOpen_keeps
    | with_reducible apply Writes.event
    | rfl
    | split

theorem State.pushFlow_writes {s : State} {w : Wy} {b : Nat} {bw : Wy} {n : Nat} :
    Writes [.mtr] s (State.pushFlow s w b bw n) := by
  unfold State.pushFlow
  try dsimp only
  repeat' first
    | with_reducible exact Writes.refl
    | with_reducible apply Writes.keep State.used_keeps
    | with_reducible apply Writes.keep State.emitAll_keeps
    | with_reducible apply Writes.bumpBy
    | with_reducible apply Writes.keep State.modFlow_keeps
    | rfl
    | split

theorem State.flowSend_writes {s : State} {w : Wy} {b : Nat} {bw : Wy} {n : Nat} {addr : BitVec 128} {m : MortarBody} :
    Writes [.mtr] s (State.flowSend s w b bw n addr m) := by
  unfold State.flowSend
  try dsimp only
  repeat' first
    | with_reducible exact Writes.refl
    | with_reducible apply Writes.step State.pushFlow_writes
    | with_reducible apply Writes.keep State.openFlow_keeps
    | with_reducible apply Writes.keep State.modFlow_keeps
    | rfl

theorem State.mortarTo_writes {s : State} {w : Wy} {dst : Nat} {dstW : Wy} {addr : BitVec 128} {b : MortarBody} :
    Writes [.mtr] s (State.mortarTo s w dst dstW addr b) := by
  unfold State.mortarTo
  try dsimp only
  repeat' first
    | with_reducible exact Writes.refl
    | with_reducible apply Writes.keep State.emit_keeps
    | with_reducible apply Writes.step State.flowSend_writes
    | with_reducible apply Writes.keep State.used_keeps
    | rfl
    | split

theorem State.mortarOut_writes {s : State} {w : Wy} {dst : Nat} {dstW : Wy} {b : MortarBody} :
    Writes [.mtr] s (State.mortarOut s w dst dstW b) := by
  unfold State.mortarOut
  repeat' first
    | with_reducible exact Writes.refl
    | with_reducible apply Writes.step State.mortarTo_writes
    | with_reducible apply Writes.keep State.used_keeps
    | rfl

theorem State.toArmature_writes {s : State} {w : Wy} {b : MortarBody} :
    Writes [.mtr] s (State.toArmature s w b) := by
  unfold State.toArmature
  try dsimp only
  repeat' first
    | with_reducible exact Writes.refl
    | with_reducible apply Writes.step State.mortarOut_writes
    | (with_reducible apply Writes.foldl; intro _ _; try dsimp only)
    | rfl

theorem State.chResult_writes {s : State} {j : ChJob} {e : DieEnd} {data : List (Option Cw)} :
    Writes [.crs, .chn] s (State.chResult s j e data) := by
  unfold State.chResult
  try dsimp only
  repeat' first
    | with_reducible exact Writes.refl
    | with_reducible apply Writes.bump
    | with_reducible apply Writes.keep State.recordOpen_keeps
    | with_reducible apply Writes.keep State.emit_keeps
    | with_reducible apply Writes.event
    | rfl
    | split

theorem State.startOp_writes {s : State} {j : ChJob} :
    Writes [.med, .crs, .chn] s (State.startOp s j) := by
  unfold State.startOp
  try dsimp only
  repeat' first
    | with_reducible exact Writes.refl
    | with_reducible apply Writes.bump
    | with_reducible apply Writes.keep State.modMedia_keeps
    | with_reducible apply Writes.bumpBy
    | with_reducible apply Writes.keep State.modCh_keeps
    | with_reducible apply Writes.step State.chResult_writes
    | rfl
    | split

theorem State.grantMin_writes {s : State} {w : Wy} {panel : Nat} {cls : List Nat} :
    Writes [.med, .crs, .chn] s (State.grantMin s w panel cls) := by
  unfold State.grantMin
  try dsimp only
  repeat' first
    | with_reducible exact Writes.refl
    | with_reducible apply Writes.step State.startOp_writes
    | rfl
    | split

theorem State.grantRest_writes {s : State} {w : Wy} {panel : Nat} {x1 : List (List Nat)} :
    Writes [.med, .crs, .chn] s (State.grantRest s w panel x1) := by
  induction x1 generalizing s with
  | nil => exact .refl
  | cons a l ih =>
    unfold State.grantRest
    try dsimp only
    repeat' first
      | with_reducible apply Writes.refl
      | with_reducible assumption
      | with_reducible apply Writes.step ih
      | with_reducible apply Writes.step State.startOp_writes
      | rfl
      | split

theorem State.grantDump_writes {s : State} {panel : Nat} :
    Writes [.med, .crs, .chn] s (State.grantDump s panel) := by
  unfold State.grantDump
  try dsimp only
  repeat' first
    | with_reducible exact Writes.refl
    | with_reducible apply Writes.step State.startOp_writes
    | (with_reducible apply Writes.foldl; intro _ _; try dsimp only)
    | rfl
    | split

theorem State.grant_writes {s : State} {w : Wy} {panel : Nat} :
    Writes [.med, .crs, .chn] s (State.grant s w panel) := by
  unfold State.grant
  try dsimp only
  repeat' first
    | with_reducible exact Writes.refl
    | with_reducible apply Writes.step State.grantMin_writes
    | with_reducible apply Writes.step State.grantRest_writes
    | with_reducible apply Writes.step State.grantDump_writes
    | (with_reducible apply Writes.foldl; intro _ _; try dsimp only)
    | rfl
    | split

theorem State.trySuspend_writes {s : State} {op : ChJob} :
    Writes [.chn] s (State.trySuspend s op) := by
  unfold State.trySuspend
  try dsimp only
  repeat' first
    | with_reducible exact Writes.refl
    | with_reducible apply Writes.bump
    | with_reducible apply Writes.keep State.modCh_keeps
    | with_reducible apply Writes.keep State.nextRead_keeps
    | rfl
    | split

theorem State.suspendDue_writes {s : State} :
    Writes [.chn] s (State.suspendDue s) := by
  unfold State.suspendDue
  try dsimp only
  repeat' first
    | with_reducible exact Writes.refl
    | with_reducible apply Writes.step State.trySuspend_writes
    | (with_reducible apply Writes.foldl; intro _ _; try dsimp only)
    | rfl

theorem State.chTake_writes {s : State} {j : ChJob} :
    Writes [.med, .crs, .chn] s (State.chTake s j) := by
  unfold State.chTake
  try dsimp only
  repeat' first
    | with_reducible exact Writes.refl
    | with_reducible apply Writes.bump
    | with_reducible apply Writes.keep State.modMedia_keeps
    | with_reducible apply Writes.keep State.modCh_keeps
    | with_reducible apply Writes.step State.chResult_writes
    | with_reducible apply Writes.step State.grant_writes
    | with_reducible apply Writes.step State.suspendDue_writes
    | rfl
    | split

theorem State.submit_writes {s : State} {w : Wy} {rt : Routine} {r : ChReq} {what : ChFor} :
    Writes [.med, .crs, .chn] s (State.submit s w rt r what) := by
  unfold State.submit
  try dsimp only
  repeat' first
    | with_reducible exact Writes.refl
    | with_reducible apply Writes.bump
    | with_reducible apply Writes.keep State.modMedia_keeps
    | with_reducible apply Writes.step State.chTake_writes
    | with_reducible apply Writes.event
    | rfl
    | split

theorem State.anchorRaw_writes {s : State} {i : Nat} {r : AnchorRec} :
    Writes [.med] s (State.anchorRaw s i r) := by
  unfold State.anchorRaw
  try dsimp only
  repeat' first
    | with_reducible exact Writes.refl
    | with_reducible apply Writes.bump
    | with_reducible apply Writes.keep State.modSet_keeps
    | rfl

theorem State.reserveSeq_writes {s : State} {i : Nat} :
    Writes [.med] s (State.reserveSeq s i) := by
  unfold State.reserveSeq
  try dsimp only
  repeat' first
    | with_reducible exact Writes.refl
    | with_reducible apply Writes.step State.anchorRaw_writes
    | with_reducible apply Writes.keep State.modSet_keeps
    | rfl
    | split

theorem State.takeSeq_writes {s : State} {i : Nat} :
    Writes [.med] s (State.takeSeq s i) := by
  unfold State.takeSeq
  try dsimp only
  repeat' first
    | with_reducible exact Writes.refl
    | with_reducible apply Writes.keep State.modSet_keeps
    | with_reducible apply Writes.step State.reserveSeq_writes
    | rfl

theorem State.tableSlice_writes {s : State} {i : Nat} :
    Writes [.med] s (State.tableSlice s i) := by
  unfold State.tableSlice
  try dsimp only
  repeat' first
    | with_reducible exact Writes.refl
    | with_reducible apply Writes.step State.anchorRaw_writes
    | with_reducible apply Writes.step State.reserveSeq_writes
    | rfl
    | split

theorem State.anchorRec_writes {s : State} {i : Nat} {r : AnchorRec} :
    Writes [.med] s (State.anchorRec s i r) := by
  unfold State.anchorRec
  try dsimp only
  repeat' first
    | with_reducible exact Writes.refl
    | with_reducible apply Writes.step State.tableSlice_writes
    | with_reducible apply Writes.step State.anchorRaw_writes
    | with_reducible apply Writes.step State.reserveSeq_writes
    | with_reducible apply Writes.keep State.armErase_keeps
    | rfl
    | split

theorem State.openSb_writes {s t : State} {i row : Nat} {st : Stream} (h : State.openSb s i row st = some t) :
    Writes [.med] s t := by
  unfold State.openSb at h
  dsimp only at h
  split at h
  · cases h
  · obtain ⟨b, -, rfl⟩ := Option.map_eq_some_iff.mp h
    repeat' first
      | with_reducible apply Writes.refl
      | with_reducible assumption
      | with_reducible apply Writes.keep State.modBlk_keeps
      | with_reducible apply Writes.keep State.modSet_keeps
      | with_reducible apply Writes.step State.anchorRec_writes
      | (with_reducible apply Writes.foldl; intro _ _; try dsimp only)
      | rfl

theorem State.openSome_writes {s t : State} {i : Nat} {st : Stream} (h : State.openSome s i st = some t) : Writes [.med] s t := by
  unfold State.openSome at h
  dsimp only at h
  split at h
  · exact .step (State.openSb_writes h) rfl (.keep State.used_keeps rfl .refl)
  · cases h

theorem State.closeRound_writes {s : State} {i sb : Nat} :
    Writes [.med, .crs, .chn] s (State.closeRound s i sb) := by
  unfold State.closeRound
  try dsimp only
  repeat' first
    | with_reducible exact Writes.refl
    | with_reducible apply Writes.bumpBy
    | with_reducible apply Writes.keep State.modRound_keeps
    | with_reducible apply Writes.step State.takeSeq_writes
    | with_reducible apply Writes.step State.submit_writes
    | (with_reducible apply Writes.foldl; intro _ _; try dsimp only)
    | rfl
    | split

theorem State.takesUnit_writes {s t : State} {i : Nat} {st : Stream} {b : SuperBlk}
    (h : State.takesUnit s i st = some (t, b)) : Writes [.med] s t := by
  unfold State.takesUnit at h
  dsimp only at h
  split at h
  · cases h
    exact .refl
  · split at h
    · rename_i hv
      obtain ⟨c, -, he⟩ := Option.map_eq_some_iff.mp h
      cases he
      split at hv
      · exact State.openSome_writes hv
      · cases hv
    · obtain ⟨c, -, he⟩ := Option.map_eq_some_iff.mp h
      cases he
      split
      · exact .refl
      · exact .keep State.used_keeps rfl .refl

theorem State.fillUnit_writes {s : State} {i cls : Nat} {b : SuperBlk} {u : UnitRef} :
    Writes [.med, .crs, .chn] s (State.fillUnit s i cls b u) := by
  unfold State.fillUnit
  try dsimp only
  repeat' first
    | with_reducible exact Writes.refl
    | with_reducible apply Writes.keep State.beginRound_keeps
    | with_reducible apply Writes.keep State.modSb_keeps
    | with_reducible apply Writes.step State.closeRound_writes
    | rfl
    | split

theorem State.placeUnit_writes {s t : State} {i : Nat} {st : Stream} {cls : Nat} {u : UnitRef}
    (h : State.placeUnit s i st cls u = some t) : Writes [.med, .crs, .chn] s t := by
  obtain ⟨e, he, rfl⟩ := Option.map_eq_some_iff.mp h
  exact .step State.fillUnit_writes rfl (.step (State.takesUnit_writes (b := e.2) he) rfl .refl)

theorem State.medBits_writes {s : State} {w : Wy} :
    Writes [.med] s (State.medBits s w) := by
  unfold State.medBits
  try dsimp only
  repeat' first
    | with_reducible exact Writes.refl
    | with_reducible apply Writes.setRfld
    | rfl

theorem State.slcMarks_writes {s : State} {i : Nat} :
    Writes [.med] s (State.slcMarks s i) := by
  unfold State.slcMarks
  try dsimp only
  repeat' first
    | with_reducible exact Writes.refl
    | with_reducible apply Writes.step State.medBits_writes
    | with_reducible apply Writes.keep State.modSet_keeps
    | with_reducible apply Writes.event
    | rfl
    | split

theorem State.placeUnits_writes {s : State} {i : Nat} {st : Stream} {cls : Nat} {x1 : List UnitRef} :
    Writes [.med, .crs, .chn] s (State.placeUnits s i st cls x1) := by
  induction x1 generalizing s with
  | nil => exact .step (State.slcMarks_writes) rfl .refl
  | cons a l ih =>
    unfold State.placeUnits
    try dsimp only
    repeat' first
      | with_reducible apply Writes.refl
      | with_reducible assumption
      | with_reducible apply Writes.step ih
      | with_reducible apply Writes.step (State.placeUnit_writes (by assumption))
      | with_reducible apply Writes.step (State.placeUnit_writes (by assumption))
      | with_reducible apply Writes.keep State.modSet_keeps
      | with_reducible apply Writes.step State.slcMarks_writes
      | rfl
      | split

theorem State.flushMap_writes {s : State} {i : Nat} :
    Writes [.med, .crs, .chn] s (State.flushMap s i) := by
  unfold State.flushMap
  try dsimp only
  repeat' first
    | with_reducible exact Writes.refl
    | with_reducible apply Writes.keep State.modSet_keeps
    | with_reducible apply Writes.step State.placeUnits_writes
    | rfl
    | split

theorem State.closeSb_writes {s : State} {i sb : Nat} {short : Bool} :
    Writes [.med] s (State.closeSb s i sb short) := by
  unfold State.closeSb
  try dsimp only
  repeat' first
    | with_reducible exact Writes.refl
    | with_reducible apply Writes.step State.anchorRec_writes
    | with_reducible apply Writes.keep State.modSb_keeps
    | rfl

theorem State.closeFull_writes {s : State} {i : Nat} :
    Writes [.med] s (State.closeFull s i) := by
  unfold State.closeFull
  try dsimp only
  repeat' first
    | with_reducible exact Writes.refl
    | with_reducible apply Writes.step State.closeSb_writes
    | (with_reducible apply Writes.foldl; intro _ _; try dsimp only)
    | rfl

theorem State.retireBlock_writes {s : State} {die plane block cause : Nat} :
    Writes [.hlt, .med] s (State.retireBlock s die plane block cause) := by
  unfold State.retireBlock
  try dsimp only
  repeat' first
    | with_reducible exact Writes.refl
    | with_reducible apply Writes.keep State.modBlk_keeps
    | with_reducible apply Writes.keep State.modDie_keeps
    | with_reducible apply Writes.step State.anchorRec_writes
    | with_reducible apply Writes.step State.earlyWarn_writes
    | rfl
    | split

theorem State.eraseDie_writes {s : State} {i : Nat} {b : SuperBlk} {cause die : Nat} :
    Writes [.hlt, .med, .crs, .chn] s (State.eraseDie s i b cause die) := by
  unfold State.eraseDie
  try dsimp only
  repeat' first
    | with_reducible exact Writes.refl
    | with_reducible apply Writes.keep State.modBlk_keeps
    | with_reducible apply Writes.step State.retireBlock_writes
    | with_reducible apply Writes.step State.submit_writes
    | with_reducible apply Writes.step State.anchorRec_writes
    | with_reducible apply Writes.keep State.modSb_keeps
    | (with_reducible apply Writes.foldl; intro _ _; try dsimp only)
    | rfl
    | split

theorem State.eraseSb_writes {s : State} {i : Nat} {b : SuperBlk} {cause : Nat} :
    Writes [.hlt, .med, .crs, .chn] s (State.eraseSb s i b cause) := by
  unfold State.eraseSb
  try dsimp only
  repeat' first
    | with_reducible exact Writes.refl
    | with_reducible apply Writes.keep State.modSet_keeps
    | with_reducible apply Writes.step State.eraseDie_writes
    | with_reducible apply Writes.keep State.modSb_keeps
    | with_reducible apply Writes.keep State.recordOpen_keeps
    | (with_reducible apply Writes.foldl; intro _ _; try dsimp only)
    | rfl
    | split

theorem State.fragDurable_writes {s : State} {w : Wy} {x : FragRec} :
    Writes [.mtr] s (State.fragDurable s w x) := by
  unfold State.fragDurable
  try dsimp only
  repeat' first
    | with_reducible exact Writes.refl
    | with_reducible apply Writes.keep State.modFrag_keeps
    | with_reducible apply Writes.keep State.modStripes_keeps
    | with_reducible apply Writes.step State.mortarOut_writes
    | rfl
    | split

theorem State.fragsDone_writes {s : State} :
    Writes [.mtr] s (State.fragsDone s) := by
  unfold State.fragsDone
  try dsimp only
  repeat' first
    | with_reducible exact Writes.refl
    | with_reducible apply Writes.step State.fragDurable_writes
    | (with_reducible apply Writes.foldl; intro _ _; try dsimp only)
    | rfl

theorem State.retireDie_writes {s : State} {d cause : Nat} :
    Writes [.hlt, .med] s (State.retireDie s d cause) := by
  unfold State.retireDie
  try dsimp only
  repeat' first
    | with_reducible exact Writes.refl
    | with_reducible apply Writes.keep State.modDie_keeps
    | with_reducible apply Writes.step State.anchorRec_writes
    | with_reducible apply Writes.step State.earlyWarn_writes
    | with_reducible apply Writes.keep State.modSet_keeps
    | rfl
    | split

theorem State.thinAck_writes {s : State} {w : Wy} {to_ : Nat × Wy} {f gen : Nat} {r : ThinRes} :
    Writes [.mtr] s (State.thinAck s w to_ f gen r) := by
  unfold State.thinAck
  repeat' first
    | with_reducible exact Writes.refl
    | with_reducible apply Writes.step State.mortarOut_writes
    | rfl

theorem State.thinsDone_writes {s : State} :
    Writes [.mtr] s (State.thinsDone s) := by
  unfold State.thinsDone
  try dsimp only
  repeat' first
    | with_reducible exact Writes.refl
    | with_reducible apply Writes.keep State.modFrag_keeps
    | with_reducible apply Writes.step State.thinAck_writes
    | (with_reducible apply Writes.foldl; intro _ _; try dsimp only)
    | rfl
    | split

theorem State.sendHb_writes {s : State} {w : Wy} :
    Writes [.mtr] s (State.sendHb s w) := by
  unfold State.sendHb
  try dsimp only
  repeat' first
    | with_reducible exact Writes.refl
    | with_reducible apply Writes.keep State.modWall_keeps
    | with_reducible apply Writes.bump
    | with_reducible apply Writes.step State.toArmature_writes
    | with_reducible apply Writes.bumpBy
    | with_reducible apply Writes.keep State.modMortar_keeps
    | with_reducible apply Writes.event
    | rfl
    | split

theorem State.retireOut_writes {s : State} {i die plane block cause : Nat} :
    Writes [.hlt, .med] s (State.retireOut s i die plane block cause) := by
  unfold State.retireOut
  try dsimp only
  repeat' first
    | with_reducible exact Writes.refl
    | with_reducible apply Writes.keep State.moveReserve_keeps
    | with_reducible apply Writes.step State.retireBlock_writes
    | rfl
    | split

theorem State.reserveDone_writes {s : State} {i : Nat} :
    Writes [.med] s (State.reserveDone s i) := by
  unfold State.reserveDone
  try dsimp only
  repeat' first
    | with_reducible exact Writes.refl
    | with_reducible apply Writes.keep State.modSet_keeps
    | with_reducible apply Writes.step State.medBits_writes
    | rfl
    | split

theorem State.eraseReserve_writes {s : State} {i die : Nat} :
    Writes [.hlt, .med, .crs, .chn] s (State.eraseReserve s i die) := by
  unfold State.eraseReserve
  try dsimp only
  repeat' first
    | with_reducible exact Writes.refl
    | with_reducible apply Writes.step State.retireOut_writes
    | with_reducible apply Writes.step State.anchorRec_writes
    | with_reducible apply Writes.keep State.modBlk_keeps
    | with_reducible apply Writes.step State.submit_writes
    | (with_reducible apply Writes.foldl; intro _ _; try dsimp only)
    | rfl
    | split

theorem State.reserveStep_writes {s : State} {i : Nat} :
    Writes [.hlt, .med, .crs, .chn] s (State.reserveStep s i) := by
  unfold State.reserveStep
  try dsimp only
  repeat' first
    | with_reducible exact Writes.refl
    | with_reducible apply Writes.step State.reserveDone_writes
    | with_reducible apply Writes.step State.eraseReserve_writes
    | with_reducible apply Writes.keep State.modSet_keeps
    | (with_reducible apply Writes.foldl; intro _ _; try dsimp only)
    | rfl
    | split

theorem State.retireSpent_writes {s : State} {i : Nat} :
    Writes [.hlt, .med] s (State.retireSpent s i) := by
  unfold State.retireSpent
  try dsimp only
  repeat' first
    | with_reducible exact Writes.refl
    | with_reducible apply Writes.step State.retireDie_writes
    | (with_reducible apply Writes.foldl; intro _ _; try dsimp only)
    | rfl

theorem State.closeShort_writes {s : State} {i : Nat} :
    Writes [.med] s (State.closeShort s i) := by
  unfold State.closeShort
  try dsimp only
  repeat' first
    | with_reducible exact Writes.refl
    | with_reducible apply Writes.step State.closeSb_writes
    | (with_reducible apply Writes.foldl; intro _ _; try dsimp only)
    | rfl

theorem State.settleSet_writes {s : State} {i : Nat} :
    Writes [.hlt, .med, .mtr, .crs, .chn] s (State.settleSet s i) := by
  unfold State.settleSet
  try dsimp only
  repeat' first
    | with_reducible exact Writes.refl
    | with_reducible apply Writes.step State.reserveStep_writes
    | with_reducible apply Writes.step State.thinsDone_writes
    | with_reducible apply Writes.step State.closeFull_writes
    | with_reducible apply Writes.step State.closeShort_writes
    | with_reducible apply Writes.step State.retireSpent_writes
    | with_reducible apply Writes.step State.eraseSb_writes
    | with_reducible apply Writes.step State.fragsDone_writes
    | (with_reducible apply Writes.foldl; intro _ _; try dsimp only)
    | rfl

theorem State.setRemove_writes {s : State} {n : Nat} :
    Writes [.fpn] s (State.setRemove s n) := by
  unfold State.setRemove
  try dsimp only
  repeat' first
    | with_reducible exact Writes.refl
    | with_reducible apply Writes.keep State.labelDue_keeps
    | with_reducible apply Writes.keep State.modFront_keeps
    | with_reducible apply Writes.event
    | rfl
    | split

theorem State.tellRemoval_writes {s : State} {k : RemoveKind} :
    Writes [.mtr] s (State.tellRemoval s k) := by
  unfold State.tellRemoval
  try dsimp only
  repeat' first
    | with_reducible exact Writes.refl
    | with_reducible apply Writes.step State.toArmature_writes
    | rfl
    | split

theorem State.stopNow_writes {s : State} :
    Writes [.mtr] s (State.stopNow s) := by
  unfold State.stopNow
  try dsimp only
  repeat' first
    | with_reducible exact Writes.refl
    | with_reducible apply Writes.keep State.modWall_keeps
    | with_reducible apply Writes.step State.sendHb_writes
    | (with_reducible apply Writes.foldl; intro _ _; try dsimp only)
    | rfl

theorem State.cleanStopSet_writes {s : State} {i : Nat} :
    Writes [.hlt, .med, .mtr, .crs, .chn] s (State.cleanStopSet s i) := by
  unfold State.cleanStopSet
  try dsimp only
  repeat' first
    | with_reducible exact Writes.refl
    | with_reducible apply Writes.keep State.dropImage_keeps
    | with_reducible apply Writes.step State.flushMap_writes
    | with_reducible apply Writes.step State.anchorRec_writes
    | with_reducible apply Writes.step State.settleSet_writes
    | rfl
    | split

theorem State.cleanStopDue_writes {s : State} :
    Writes [.hlt, .med, .mtr, .crs, .chn] s (State.cleanStopDue s) := by
  unfold State.cleanStopDue
  repeat' first
    | with_reducible exact Writes.refl
    | with_reducible apply Writes.step State.cleanStopSet_writes
    | rfl
    | split

theorem State.surprise_writes {s : State} {ew : Bool} :
    Writes [.mtr, .fpn] s (State.surprise s ew) := by
  unfold State.surprise
  try dsimp only
  repeat' first
    | with_reducible exact Writes.refl
    | with_reducible apply Writes.keep State.modWall_keeps
    | with_reducible apply Writes.bump
    | with_reducible apply Writes.keep State.modFront_keeps
    | with_reducible apply Writes.keep State.record_keeps
    | with_reducible apply Writes.step State.tellRemoval_writes
    | with_reducible apply Writes.step State.setRemove_writes
    | with_reducible apply Writes.event
    | rfl

end Sys2Proof.Machine
end

section
/-! PROOFS. Resets of a wythe on the register file, and removal, the latch and the connector (R205, R453-R459, R526, R527). -/

namespace Sys2Proof.Machine

/-! ### A wythe's reset -/

/-- The kinds of page that belong to a wythe and are cleared with it (R409). -/
def wytheKinds : List PageKind :=
  [.glb, .pwr, .clk, .rst, .tie, .hlt, .tst, .fwu, .cip, .bpm, .med, .mtr, .rlf, .rdm, .ptp, .mac, .pnl, .crs, .til]

theorem tableGet?_filter {α : Type} (t : Table α) (f : Nat → Bool) {k : Nat} (h : f k = true) :
    tableGet? (t.filter (fun e => f e.1)) k = tableGet? t k := by
  induction t with
  | nil => rfl
  | cons x t ih =>
    obtain ⟨j, b⟩ := x
    by_cases hf : f j = true
    · simp only [List.filter_cons, hf, if_true, tableGet?, ih]
    · simp only [List.filter_cons, hf]
      rw [if_neg (by simp), ih]
      have hne : j ≠ k := by
        rintro rfl
        exact hf h
      simp [tableGet?, hne]

/-- Registers that are not dropped hold what they held. -/
theorem State.dropRegs_reg {s : State} {f : Nat → Bool} {p : Page} {off : Nat} (h : f (pageKey p + off) = false) :
    (s.dropRegs f).reg p off = s.reg p off := by
  have hfilter : tableGet? (s.dropRegs f).regs (pageKey p + off) = tableGet? s.regs (pageKey p + off) :=
    tableGet?_filter s.regs (fun k => !f k) (by simp [h])
  rw [State.reg, hfilter, State.reg]

/-- CHN and Plinth pages have no key of a wythe (R409). -/
theorem keyOfWy_of_brick {p : Page} {off : Nat} (ho : off < 0x1000) (hp : pageKind p ∉ wytheKinds) (w : Wy) :
    keyOfWy w (pageKey p + off) = false := by
  cases p
  case chn c => cases w <;> simp [keyOfWy, pageKey, pageBase, pageWy] <;> omega
  case plt => cases w <;> simp [keyOfWy, pageKey, pageBase, pageWy] <;> omega
  case pfl => cases w <;> simp [keyOfWy, pageKey, pageBase, pageWy] <;> omega
  case evr => cases w <;> simp [keyOfWy, pageKey, pageBase, pageWy] <;> omega
  case fpn => cases w <;> simp [keyOfWy, pageKey, pageBase, pageWy] <;> omega
  case svc => cases w <;> simp [keyOfWy, pageKey, pageBase, pageWy] <;> omega
  all_goals exact absurd (by simp [pageKind, wytheKinds]) hp

theorem Writes.dropRegs {s t : State} {w : Wy} (h : Writes wytheKinds s t) : Writes wytheKinds s (t.dropRegs (keyOfWy w)) := by
  refine ⟨fun p off ho hp => ?_⟩
  rw [State.dropRegs_reg (keyOfWy_of_brick ho hp w), h.reg p off ho hp]

theorem Writes.markFailed {l : List PageKind} {s t : State} {p : Page} (hp : l.contains (pageKind p) = true) (h : Writes l s t) :
    Writes l s (t.markFailed p) := by
  unfold State.markFailed
  dsimp only
  refine .keep State.unitDown_keeps rfl ?_
  have hset : Writes l s (t.setUnit p .failed) := h.setUnit hp
  split
  · exact .keep State.orphanBufs_keeps rfl (.keep State.modUjob_keeps rfl hset)
  · exact .keep State.modUjob_keeps rfl hset

theorem Writes.testResult {l : List PageKind} {s t : State} {w : Wy} {r b n : Nat} (ht : l.contains .tst = true) (h : Writes l s t) :
    Writes l s (t.testResult w r b n) := h.setReg ht rfl

theorem testTimeReg_lt {p : Page} {off : Nat} (h : testTimeReg p = some off) : Nat.blt off 0x1000 = true := by
  unfold testTimeReg at h
  split at h
  · cases h
    rfl
  · split at h
    · cases h
    · cases h
      rfl
  · cases h

/-- A test that ends writes its unit's page, the TST page of its wythe and what the anchor counts. -/
theorem State.endTest_writes {l : List PageKind} {s : State} {p : Page} {code info us_ : Nat} (hp : l.contains (pageKind p) = true)
    (ht : l.contains .tst = true) (hm : l.contains .med = true) : Writes l s (s.endTest p code info us_) := by
  have hmed : [PageKind.med].all (l.contains ·) = true := by simpa using hm
  unfold State.endTest
  dsimp only
  split
  · exact .refl
  · repeat' first
      | with_reducible exact Writes.refl
      | with_reducible apply Writes.keep State.modUjob_keeps
      | with_reducible apply Writes.setReg
      | with_reducible apply Writes.bump
      | with_reducible apply Writes.pageError
      | with_reducible apply Writes.setUnit
      | with_reducible apply Writes.step State.anchorRec_writes
      | with_reducible apply Writes.setRfld
      | with_reducible apply Writes.event
      | with_reducible apply Writes.testResult
      | with_reducible apply Writes.markFailed
      | assumption
      | exact testTimeReg_lt ‹_›
      | rfl
      | split

theorem State.abortTests_writes {l : List PageKind} {s : State} {f : Page → Bool} (hf : ∀ p, f p = true → l.contains (pageKind p) = true)
    (ht : l.contains .tst = true) (hm : l.contains .med = true) : Writes l s (s.abortTests f) := by
  refine .foldl_mem (fun v a ha => State.endTest_writes (hf _ ?_) ht hm) .refl
  obtain ⟨-, h⟩ := List.mem_filter.mp ha
  exact (Bool.and_eq_true_iff.mp h).2

theorem pageKind_of_isPanel {p : Page} (h : isPanel p = true) : pageKind p = .pnl := by
  cases p
  case pnl => rfl
  all_goals exact nomatch h

theorem State.peerChange_writes {s : State} {w : Wy} : Writes [.glb] s (s.peerChange w) := by
  unfold State.peerChange
  split
  · exact .event rfl .refl
  · exact .refl

/-- A wythe that stops writes the pages of the panels' tests that end with it, and tells its peer (R515, R417). -/
theorem State.haltWythe_writes {s : State} {w : Wy} : Writes [.glb, .pnl, .tst, .med] s (s.haltWythe w) := by
  unfold State.haltWythe
  dsimp only
  refine .step State.peerChange_writes rfl (.step (State.abortTests_writes (l := [.glb, .pnl, .tst, .med]) (fun p hp => ?_) rfl rfl) rfl
    (.put (t := s) (by cases w <;> rfl) .refl))
  rw [pageKind_of_isPanel (Bool.and_eq_true_iff.mp hp).1]
  rfl

theorem State.resetWythe_writes {s : State} {w : Wy} {cause : Nat} : Writes wytheKinds s (s.resetWythe w cause) := by
  have hhalt : Writes wytheKinds s (if s.running w then s.haltWythe w else s) := by
    split
    · exact .step State.haltWythe_writes rfl .refl
    · exact .refl
  exact .put (t := (if s.running w then s.haltWythe w else s).dropRegs (keyOfWy w)) (by cases w <;> rfl) (.dropRegs hhalt)

/-- An activation that is abandoned shows on both FWU pages. -/
theorem State.fwAbandon_writes {s : State} : Writes [.fwu] s s.fwAbandon := by
  exact .event rfl (.setReg rfl rfl (.event rfl (.setReg rfl rfl (.keep State.modFw_keeps rfl .refl))))

theorem State.latchAbandon_writes {s : State} : Writes wytheKinds s s.latchAbandon := by
  unfold State.latchAbandon
  split
  · exact .refl
  · next a _ =>
    have h1 : Writes wytheKinds s (((s.endDrain a.w).stampAll a.comp a.w a.slotB 5 a.seq).fwAbandon) :=
      .step State.fwAbandon_writes rfl (.keep State.stampAll_keeps rfl (.keep State.endDrain_keeps rfl .refl))
    dsimp only
    split
    · exact .keep State.setRel_keeps rfl (.keep State.setHeld_keeps rfl (.step State.resetWythe_writes rfl h1))
    · exact h1

/-! ### Removal -/

/-- Of the registers of its page, a change of REMOVE_STATE writes EVT_STATUS alone. -/
theorem State.setRemove_reg_of_ne {s : State} {n : Nat} {p : Page} {off : Nat} (h : pageKey p + off ≠ pageKey .fpn + EVT_STATUS) :
    (s.setRemove n).reg p off = s.reg p off := by
  unfold State.setRemove
  dsimp only
  rw [State.labelDue_keeps.reg_eq (by decide)]
  split
  · rfl
  · rw [State.event_reg_of_ne h, State.modFront_reg]

theorem State.setRemove_fpn {s : State} {n off : Nat} (h : off ≠ EVT_STATUS) : (s.setRemove n).reg .fpn off = s.reg .fpn off :=
  State.setRemove_reg_of_ne (by omega)

theorem State.askRemoval_fpn {s : State} {source off : Nat} {ret : Option Nat} (h : off ≠ EVT_STATUS) :
    (s.askRemoval source ret).reg .fpn off = s.reg .fpn off := by
  unfold State.askRemoval
  split_ifs
  · rfl
  · exact State.setRemove_fpn h
  · rw [State.setRemove_fpn h, State.modFront_reg]

/-- What a cancel does before REMOVE_STATE changes. -/
def State.cancelled (s : State) : State :=
  let s1 := s.modFront (fun f => { f with asking := none, deadline := none })
  (((if s.front.asking.isNone then s1.tellRemoval .cancel else s1).endRemovalDrain).modWall (fun x => { x with removeReady := false })).modPlinth
    (fun p => { p with brickReset := none })

theorem State.cancelRemoval_of_removing {s : State} (hlatch : s.front.latchClosed = true)
    (hrem : s.removing = true ∨ s.wall.st = .leaving) : s.cancelRemoval = s.cancelled.setRemove 0 := by
  unfold State.cancelRemoval
  rw [if_neg (by simpa [hlatch, or_iff_not_imp_left] using hrem)]
  rfl

theorem State.cancelled_front (s : State) : s.cancelled.front = { s.front with asking := none, deadline := none } := by
  unfold State.cancelled
  dsimp only
  rw [State.modPlinth_front, State.modWall_front, State.endRemovalDrain_keeps.front_eq (by decide)]
  split
  · rw [State.tellRemoval_keeps.front_eq (by decide)]
    rfl
  · rfl

theorem State.cancelled_reg (s : State) {off : Nat} (h : off < 0x1000) : s.cancelled.reg .fpn off = s.reg .fpn off := by
  have hwrites : Writes [.mtr] s s.cancelled := by
    unfold State.cancelled
    dsimp only
    refine .keep State.modPlinth_keeps rfl (.keep State.modWall_keeps rfl (.keep State.endRemovalDrain_keeps rfl ?_))
    split
    · exact .step State.tellRemoval_writes rfl (.keep State.modFront_keeps rfl .refl)
    · exact .keep State.modFront_keeps rfl .refl
  exact hwrites.reg .fpn off h (by decide)

/-- A cancel ends the removal (R455). -/
theorem State.cancelRemoval_front {s : State} (hlatch : s.front.latchClosed = true) (hrem : s.removing = true ∨ s.wall.st = .leaving) :
    s.cancelRemoval.front.removeSt = 0 ∧ s.cancelRemoval.front.asking = none ∧ s.cancelRemoval.front.deadline = none := by
  rw [State.cancelRemoval_of_removing hlatch hrem]
  obtain ⟨h1, h2, h3, -⟩ := s.cancelled.setRemove_front 0
  rw [State.cancelled_front] at h2 h3
  exact ⟨h1, h2, h3⟩

theorem State.cancelRemoval_fpn {s : State} {off : Nat} (ho : off < 0x1000) (h : off ≠ EVT_STATUS) (hlatch : s.front.latchClosed = true)
    (hrem : s.removing = true ∨ s.wall.st = .leaving) : s.cancelRemoval.reg .fpn off = s.reg .fpn off := by
  rw [State.cancelRemoval_of_removing hlatch hrem, State.setRemove_fpn h, State.cancelled_reg s ho]

/-- A removal of a brick that is in no wall, or in Service, is allowed at once (R453). -/
theorem State.askRemoval_at_once {s : State} {source : Nat} {ret : Option Nat} (hrem : s.removing = false) (hleave : s.wall.st ≠ .leaving)
    (hlatch : s.front.latchClosed = true) (hout : s.service = true ∨ (s.wall.st ≠ .member ∧ s.wall.st ≠ .suspect)) :
    (s.askRemoval source ret).front.removeSt = 2 := by
  unfold State.askRemoval
  rw [if_neg (by simp [hrem, hleave, hlatch]), if_pos (by simpa using hout)]
  exact (s.setRemove_front 2).1

theorem Keeps.removing_eq {l : List Part} {s t : State} (h : Keeps l s t) (hl : .front ∉ l) : t.removing = s.removing := by
  simp only [State.removing, h.front_eq hl]

theorem Keeps.service_eq {l : List Part} {s t : State} (h : Keeps l s t) (hl : .plinth ∉ l) : t.service = s.service := by
  simp only [State.service, h.plinth_eq hl]

theorem Keeps.inWall_eq {l : List Part} {s t : State} (h : Keeps l s t) (hl : .wall ∉ l) : t.inWall = s.inWall := by
  simp only [State.inWall, h.wall_eq hl]

/-! ### A drain on each wythe -/

theorem State.announceDrain_relief (s : State) (w v : Wy) (activation : Bool) (after : Nat) :
    ((s.announceDrain w activation after).wy v).relief.drain =
      if v = w then some { at_ := s.hybrid w + after * 1000 * 4096, activation := activation, reached := false }
      else (s.wy v).relief.drain := by
  unfold State.announceDrain
  dsimp only
  rw [foldl_proj (fun t => (t.wy v).relief) fun t q _ => State.handOut_keeps.relief_eq (by decide) v]
  split
  · next h =>
    subst h
    simp
  · next h =>
    obtain rfl : v = w.peer := by
      revert h
      cases v <;> cases w <;> simp [Wy.peer]
    simp

/-- A removal that is allowed ends the question and drains every running wythe (R205, R454). -/
theorem State.allowRemoval_front (s : State) (ret : Option Nat) : (s.allowRemoval ret).front.asking = none := by
  unfold State.allowRemoval
  extract_lets kind s1
  rw [(State.labelDue_front _).2.1, foldl_proj State.front fun t w _ => State.announceDrain_keeps.front_eq (by decide),
    State.tellRemoval_keeps.front_eq (by decide)]
  rfl

theorem foldl_announceDrain (l : List Wy) (s : State) (w : Wy) (h : w ∈ l ∨ (s.wy w).relief.drain.isSome = true) :
    ((l.foldl (fun s v => s.announceDrain v false 1000) s).wy w).relief.drain.isSome = true := by
  induction l generalizing s with
  | nil => simpa using h
  | cons v l ih =>
    refine ih _ ?_
    rw [State.announceDrain_relief]
    rcases h with h | h
    · rcases List.mem_cons.mp h with rfl | h
      · exact .inr (by simp)
      · exact .inl h
    · right
      split
      · rfl
      · exact h

theorem mem_wythes (w : Wy) : w ∈ wythes := by cases w <;> decide

theorem State.allowRemoval_drains {s : State} {w : Wy} (ret : Option Nat) (hrun : s.running w = true) :
    ((s.allowRemoval ret).wy w).relief.drain.isSome = true := by
  unfold State.allowRemoval
  extract_lets kind s1
  have hrun1 : s1.running w = true := by
    rw [State.tellRemoval_keeps.running_eq (by decide), State.modFront_keeps.running_eq (by decide), hrun]
  rw [State.labelDue_keeps.relief_eq (by decide)]
  exact foldl_announceDrain _ s1 w (.inl (List.mem_filter.mpr ⟨mem_wythes w, hrun1⟩))

/-! ### The latch -/

theorem State.sendHb_stopping (s : State) (w : Wy) : (s.sendHb w).wall.stopping = s.wall.stopping := by
  unfold State.sendHb
  split
  · rfl
  · extract_lets seq b late s1 s2 s3 s4
    have h3 : s3.wall.stopping = s.wall.stopping := by
      have h1 : s1.wall = s.wall := State.modMortar_wall ..
      rw [State.bumpBy_keeps.wall_eq (by decide), State.bump_keeps.wall_eq (by decide)]
      show s1.wall.stopping = s.wall.stopping
      rw [h1]
    have h4 : s4.wall.stopping = s3.wall.stopping := by
      unfold s4
      split
      · rw [State.event_keeps.wall_eq (by decide)]
      · rfl
    rw [State.toArmature_keeps.wall_eq (by decide), h4, h3]

theorem State.stopNow_stopping (s : State) : s.stopNow.wall.stopping = true :=
  (foldl_proj (fun t => t.wall.stopping) (fun t w _ => t.sendHb_stopping w) _).trans rfl

/-- A surprise removal stops the brick (R458). -/
theorem State.surprise_stopping (s : State) (ew : Bool) : (s.surprise ew).wall.stopping = true := by
  unfold State.surprise
  dsimp only
  rw [State.setRemove_keeps.wall_eq (by decide), State.modFront_wall, State.record_keeps.wall_eq (by decide),
    State.event_keeps.wall_eq (by decide), State.bump_keeps.wall_eq (by decide), State.tellRemoval_keeps.wall_eq (by decide)]
  rfl

theorem State.surprise_latch (s : State) (ew : Bool) : (s.surprise ew).front.latchClosed = s.front.latchClosed := by
  unfold State.surprise
  dsimp only
  rw [(State.setRemove_front _ _).2.2.2.2.1]
  simp only [State.modFront_front]
  rw [State.record_keeps.front_eq (by decide), State.event_keeps.front_eq (by decide), State.bump_keeps.front_eq (by decide),
    State.tellRemoval_keeps.front_eq (by decide)]
  rfl

theorem State.surprise_count (s : State) (ew : Bool) : (s.surprise ew).reg .fpn FPN_CNT_LATCH_OPEN = s.reg .fpn FPN_CNT_LATCH_OPEN := by
  unfold State.surprise
  dsimp only
  rw [State.setRemove_fpn (by decide), State.modFront_reg, State.record_keeps.reg_eq (by decide), State.event_reg_of_off_ne (by decide),
    State.bump_reg_of_off_ne (by decide) (by decide), State.tellRemoval_writes.reg _ _ (by decide) (by decide)]
  rfl

/-- What an opened latch leaves for its cases: the count and the abandoned activation. -/
def State.latchBroken (s : State) : State :=
  ((s.bump .fpn FPN_CNT_LATCH_OPEN).latchAbandon).modPlinth (fun p => { p with brickReset := none })

theorem State.latchBroken_front (s : State) : s.latchBroken.front = s.front := by
  rw [State.latchBroken, State.modPlinth_front, State.latchAbandon_keeps.front_eq (by decide), State.bump_front]

theorem State.latchBroken_wall (s : State) : s.latchBroken.wall = s.wall := by
  rw [State.latchBroken, State.modPlinth_wall, State.latchAbandon_keeps.wall_eq (by decide), State.bump_keeps.wall_eq (by decide)]

theorem State.latchBroken_service (s : State) : s.latchBroken.service = s.service := by
  have h : ((s.bump .fpn FPN_CNT_LATCH_OPEN).latchAbandon).plinth = s.plinth := by
    rw [State.latchAbandon_keeps.plinth_eq (by decide), State.bump_keeps.plinth_eq (by decide)]
  simp only [State.service, State.latchBroken, State.modPlinth_plinth, h]

theorem State.latchBroken_inWall (s : State) : s.latchBroken.inWall = s.inWall := by
  simp only [State.inWall, State.latchBroken_wall]

theorem State.latchBroken_count (s : State) : s.latchBroken.reg .fpn FPN_CNT_LATCH_OPEN = s.reg .fpn FPN_CNT_LATCH_OPEN + 1 := by
  rw [State.latchBroken, State.modPlinth_keeps.reg_eq (by decide), State.latchAbandon_writes.reg _ _ (by decide) (by decide),
    State.bump_reg_self (by decide)]

theorem State.latchOpened_cases (s : State) (ew : Bool) : s.latchOpened ew =
    if s.service then s.latchBroken
    else if s.front.removeSt = 2 then s.latchBroken.stopNow.cleanStopDue
    else if s.front.removeSt = 1 ∨ s.wall.st = .leaving then
      (s.latchBroken.stopNow.modFront (fun f => { f with unclean := true, asking := none })).labelDue
    else if s.inWall then s.latchBroken.surprise ew
    else s.latchBroken := by
  show (if s.latchBroken.service then s.latchBroken
    else if s.latchBroken.front.removeSt = 2 then s.latchBroken.stopNow.cleanStopDue
    else if s.latchBroken.front.removeSt = 1 || s.latchBroken.wall.st = .leaving then
      (s.latchBroken.stopNow.modFront (fun f => { f with unclean := true, asking := none })).labelDue
    else if s.latchBroken.inWall then s.latchBroken.surprise ew
    else s.latchBroken) = _
  simp only [State.latchBroken_service, State.latchBroken_front, State.latchBroken_wall, State.latchBroken_inWall, Bool.or_eq_true,
    decide_eq_true_eq]

/-- A latch opening is counted once, whatever else it brings. -/
theorem State.latchOpened_count (s : State) (ew : Bool) : (s.latchOpened ew).reg .fpn FPN_CNT_LATCH_OPEN =
    s.reg .fpn FPN_CNT_LATCH_OPEN + 1 := by
  rw [State.latchOpened_cases, ← State.latchBroken_count]
  split_ifs
  · rfl
  · rw [State.cleanStopDue_writes.reg _ _ (by decide) (by decide), State.stopNow_writes.reg _ _ (by decide) (by decide)]
  · rw [State.labelDue_keeps.reg_eq (by decide), State.modFront_reg, State.stopNow_writes.reg _ _ (by decide) (by decide)]
  · rw [State.surprise_count]
  · rfl

theorem State.surprise_early (s : State) (ew : Bool) : (s.surprise ew).front.early = s.front.early := by
  unfold State.surprise
  dsimp only
  rw [(State.setRemove_front _ _).2.2.2.2.2.2]
  simp only [State.modFront_front]
  rw [State.record_keeps.front_eq (by decide), State.event_keeps.front_eq (by decide), State.bump_keeps.front_eq (by decide),
    State.tellRemoval_keeps.front_eq (by decide)]
  rfl

theorem State.latchOpened_front (s : State) (ew : Bool) : (s.latchOpened ew).front.latchClosed = s.front.latchClosed
    ∧ (s.latchOpened ew).front.early = s.front.early := by
  rw [State.latchOpened_cases, ← State.latchBroken_front s]
  split_ifs
  · exact ⟨rfl, rfl⟩
  · rw [State.cleanStopDue_keeps.front_eq (by decide), State.stopNow_keeps.front_eq (by decide)]
    exact ⟨rfl, rfl⟩
  · rw [(State.labelDue_front _).2.2.2.2.1, (State.labelDue_front _).2.2.2.2.2.2]
    simp only [State.modFront_front]
    rw [State.stopNow_keeps.front_eq (by decide)]
    exact ⟨rfl, rfl⟩
  · exact ⟨State.surprise_latch .., State.surprise_early ..⟩
  · exact ⟨rfl, rfl⟩

/-- A brick outside Service that is being removed or is in a wall stops when its latch opens (R457, R458). -/
theorem State.latchOpened_stopping {s : State} {ew : Bool} (hserv : s.service = false)
    (h : s.front.removeSt = 2 ∨ s.front.removeSt = 1 ∨ s.wall.st = .leaving ∨ s.inWall = true) :
    (s.latchOpened ew).wall.stopping = true := by
  rw [State.latchOpened_cases, if_neg (by simp [hserv])]
  split_ifs with h2 h1 hin
  · rw [State.cleanStopDue_keeps.wall_eq (by decide), State.stopNow_stopping]
  · rw [State.labelDue_keeps.wall_eq (by decide), State.modFront_wall, State.stopNow_stopping]
  · exact State.surprise_stopping ..
  · rcases h with h | h | h | h
    · exact absurd h h2
    · exact absurd (.inl h) h1
    · exact absurd (.inr h) h1
    · exact absurd h hin

/-! ### A closed latch -/

theorem State.optionRegs_stopping (s : State) (w : Wy) : (s.optionRegs w).wall.stopping = s.wall.stopping := by
  unfold State.optionRegs
  extract_lets o s1 s2 s3
  have h3 : s3.wall = s.wall := by
    unfold s3
    rw [foldl_proj State.wall fun t p _ => State.setShadow_keeps.wall_eq (by decide)]
    rfl
  split
  · rw [h3]
  · rw [State.modWall_wall, h3]

theorem State.releaseWythe_stopping (s : State) (w : Wy) : (s.releaseWythe w).wall.stopping = s.wall.stopping := by
  unfold State.releaseWythe
  split
  · rfl
  · dsimp only
    rw [foldl_proj State.wall fun t c _ => by split <;> [exact State.takeChannel_keeps.wall_eq (by decide); rfl],
      foldl_proj State.wall fun t p _ => State.putOnline_keeps.wall_eq (by decide), State.setReg_wall, State.optionRegs_stopping]
    cases w <;> rfl

theorem State.restartWythe_stopping (s : State) (w : Wy) (cause : Nat) : (s.restartWythe w cause).wall.stopping = s.wall.stopping := by
  rw [State.restartWythe, State.modStart_keeps.wall_eq (by decide), State.releaseWythe_stopping, State.countRestart_keeps.wall_eq (by decide),
    State.resetWythe_keeps.wall_eq (by decide)]

theorem State.resumeHeld_stopping (s : State) : s.resumeHeld.wall.stopping = s.wall.stopping := by
  unfold State.resumeHeld
  split
  · split
    · exact State.restartWythe_stopping ..
    · rfl
  · rfl

/-- A latch that closes before power is lost resumes the brick (R458). -/
theorem execLatchClose_of_stopping {s : State} (hup : s.plinth.up = true) (hopen : s.front.latchClosed = false)
    (hstop : s.wall.stopping = true) (hhold : s.holdup = none) : ∃ s1 : State, s1.wall.stopping = false ∧ s1.front.latchClosed = true
      ∧ s1.front.unclean = false ∧ execLatchClose s = .next (s1.setRemove 0) := by
  unfold execLatchClose
  rw [if_neg (by simp [hup, hopen])]
  dsimp only
  rw [if_neg (by simp [hstop, hhold])]
  refine ⟨_, ?_, ?_, ?_, rfl⟩
  · rw [State.resumeHeld_stopping]
    rfl
  · rw [State.resumeHeld_keeps.front_eq (by decide)]
    simp only [State.modFront_front, State.modWall_front]
    rw [State.endRemovalDrain_keeps.front_eq (by decide), State.tellRemoval_keeps.front_eq (by decide), State.event_front]
    rfl
  · rw [State.resumeHeld_keeps.front_eq (by decide)]
    rfl

/-! ### The connector -/

/-- A mating cycle counts, and changes nothing else of what the front panel holds. -/
theorem State.mated_front (s : State) : s.mated.front = { s.front with mating := s.front.mating + 1 } := by
  unfold State.mated
  extract_lets n s1 s2
  have h2 : s2.front = s1.front := by
    unfold s2
    split
    · rw [State.event_front, State.recordOpen_keeps.front_eq (by decide)]
    · split
      · rw [State.recordOpen_keeps.front_eq (by decide)]
        rfl
      · rfl
  rw [State.snapshot_keeps.front_eq (by decide), h2]
  rfl

theorem State.readSlots_front (s : State) (a b : Nat) : (s.readSlots a b).front = { s.front with slotA := a % 64, slotB := b % 64 } := by
  unfold State.readSlots
  dsimp only
  split
  · rfl
  · rw [State.recordOpen_keeps.front_eq (by decide)]
    rfl

/-- An entry of the Plinth's own stays among those that set out. -/
theorem State.record_plinth_mem (s : State) (severity code page : Nat) (detail : Bytes) :
    ∃ e ∈ (s.record 0 severity code page detail).arriving, e.code = code ∧ e.severity = severity ∧ e.source = 0
      ∧ e.detail = padTo 32 detail :=
  ⟨_, List.mem_append_right _ (List.mem_singleton.mpr rfl), rfl, rfl, rfl, rfl⟩

end Sys2Proof.Machine

namespace Sys2Proof

open Sys2Proof.Machine

/-- Settles O53, contact by contact. -/
theorem removalActs : Obligations.RemovalActs := by
  unfold Obligations.RemovalActs
  intro src s
  refine ⟨fun v harr hlatch => ⟨fun h0 h1 hrem hleave => ?_, fun h0 h1 hrem => ?_⟩, fun hup => ?_, fun source ret stripe margin hask => ⟨?_,
    fun reason hreason => ?_⟩, fun hup hlatch => ?_, fun hup hopen => ?_, fun hup hlatch hearly => ?_, fun slotA slotB => ?_, ?_,
    fun h hup haux => ⟨?_, ?_⟩⟩
  · refine runs_intro (congrArg Host.Outcome.next (State.gated_of_writeArrives harr)) ?_
    have hw : s.writeRemove src v = s.askRemoval 2 none := by simp [State.writeRemove, h0, h1]
    rw [hw]
    refine ⟨fun hout => State.askRemoval_at_once hrem hleave hlatch hout, fun hserv hst => ?_⟩
    exact (State.askRemoval_of_member hrem hst hserv hlatch).symm
  · refine runs_intro (congrArg Host.Outcome.next (State.gated_of_writeArrives harr)) ?_
    have hw : s.writeRemove src v = s.cancelRemoval := by simp [State.writeRemove, h0, h1]
    rw [hw]
    exact State.cancelRemoval_front hlatch hrem
  · refine runs_intro (if_neg (by simp [hup])) ?_
    have hcount : ((s.bump .fpn FPN_CNT_HOLD).event .fpn FPN_EVT_BUTTON).reg .fpn FPN_CNT_HOLD = s.reg .fpn FPN_CNT_HOLD + 1 := by
      rw [State.event_reg_of_off_ne (by decide), State.bump_reg_self (by decide)]
    have hkeeps : Keeps [.pcie, .regs] s ((s.bump .fpn FPN_CNT_HOLD).event .fpn FPN_EVT_BUTTON) :=
      State.event_keeps.step (by decide) State.bump_keeps
    by_cases hoff : s.afld .fpn FPN_CTRL 0 0 = 0
    · rw [if_pos hoff]
      exact ⟨hcount, fun h => absurd hoff h⟩
    · rw [if_neg hoff]
      have hrem : ((s.bump .fpn FPN_CNT_HOLD).event .fpn FPN_EVT_BUTTON).removing = s.removing := hkeeps.removing_eq (by decide)
      have hwall : ((s.bump .fpn FPN_CNT_HOLD).event .fpn FPN_EVT_BUTTON).wall = s.wall := hkeeps.wall_eq (by decide)
      have hfront : ((s.bump .fpn FPN_CNT_HOLD).event .fpn FPN_EVT_BUTTON).front = s.front := hkeeps.front_eq (by decide)
      have hserv : ((s.bump .fpn FPN_CNT_HOLD).event .fpn FPN_EVT_BUTTON).service = s.service := hkeeps.service_eq (by decide)
      by_cases hcancel : s.removing = true ∨ s.wall.st = .leaving
      · rw [if_pos (by simpa using hcancel)]
        refine ⟨?_, fun _ hlatch => ⟨fun _ => ?_, fun hno _ hst => ?_⟩⟩
        · by_cases hlatch : s.front.latchClosed = true
          · rw [State.cancelRemoval_fpn (by decide) (by decide) (by rw [hfront, hlatch]) (by rwa [hrem, hwall]), hcount]
          · rw [State.cancelRemoval, if_pos (by simp [hlatch]), hcount]
        · exact (State.cancelRemoval_front (by rw [hfront, hlatch]) (by rwa [hrem, hwall])).1
        · rcases hcancel with h | h
          · exact absurd (hno.symm.trans h) (by decide)
          · exact absurd (hst.symm.trans h) (by decide)
      · rw [if_neg (by simpa using hcancel)]
        refine ⟨?_, fun _ hlatch => ⟨fun h => absurd h hcancel, fun hno hs hst => ?_⟩⟩
        · rw [State.askRemoval_fpn (by decide), hcount]
        · exact (State.askRemoval_of_member (by rw [hrem, hno]) (.inl (by rw [hwall, hst])) (by rw [hserv, hs]) (by rw [hfront, hlatch])).1
  · have hexec : exec (.removalAllowance 0 stripe margin) s = .next (s.allowRemoval ret) := by
      show execRemovalAllowance 0 stripe margin s = _
      unfold execRemovalAllowance
      rw [hask]
      rfl
    exact runs_intro hexec ⟨s.allowRemoval_front ret, fun w hrun => State.allowRemoval_drains ret hrun⟩
  · obtain ⟨d, hexec⟩ : ∃ d, exec (.removalAllowance reason stripe margin) s = .next ((((s.modFront (fun f => { f with
        asking := none, reason := reason, refusedAt := some s.now })).record 0 1 0x2301 (pageIdOf .fpn).toNat d).modPlinth
        (fun p => { p with brickReset := none })).setRemove 3) := by
      refine ⟨leBytes 1 reason ++ leBytes 1 source ++ zeroBytes 2
        ++ (if reason = 1 then leBytes 8 stripe ++ leBytes 1 margin else zeroBytes 9), ?_⟩
      show execRemovalAllowance reason stripe margin s = _
      unfold execRemovalAllowance
      rw [hask]
      exact if_neg hreason
    refine runs_intro hexec ?_
    obtain ⟨h1, h2, -, h4, -⟩ := State.setRemove_front ((((s.modFront (fun f => { f with
      asking := none, reason := reason, refusedAt := some s.now })).record 0 1 0x2301 (pageIdOf .fpn).toNat d).modPlinth
      (fun p => { p with brickReset := none }))) 3
    rw [h1, h2, h4, State.setRemove_keeps.arriving_eq (by decide)]
    refine ⟨rfl, rfl, rfl, ?_⟩
    obtain ⟨e, he, hcode, hsev, -⟩ := (s.modFront (fun f => { f with asking := none, reason := reason, refusedAt := some s.now })).record_plinth_mem
      1 0x2301 (pageIdOf .fpn).toNat d
    exact ⟨e, he, hcode, hsev⟩
  · have hexec : exec .latchOpen s = .next (((s.modFront (fun f => { f with latchClosed := false })).event .fpn
        FPN_EVT_LATCH_CHANGE).latchOpened false) := congrArg Host.Outcome.next (if_neg (by simp [hup, hlatch]))
    refine runs_intro hexec ⟨?_, ?_, fun hserv hwhy => ?_⟩
    · rw [(State.latchOpened_front _ _).1, State.event_front]
      rfl
    · rw [State.latchOpened_count, State.event_reg_of_off_ne (by decide), State.modFront_reg]
    · refine State.latchOpened_stopping ?_ ?_
      · rw [State.event_keeps.service_eq (by decide)]
        exact hserv
      · rw [State.event_front, State.event_keeps.wall_eq (by decide), State.event_keeps.inWall_eq (by decide)]
        exact hwhy
  · by_cases hstop : s.wall.stopping = true ∧ s.holdup = none
    · obtain ⟨s1, h1, h2, h3, hexec⟩ := execLatchClose_of_stopping hup hopen hstop.1 hstop.2
      refine runs_intro hexec ?_
      obtain ⟨r1, -, -, -, r5, r6, -⟩ := s1.setRemove_front 0
      rw [r1, r5, r6, State.setRemove_keeps.wall_eq (by decide)]
      exact ⟨h2, fun _ _ => ⟨h1, rfl, h3⟩⟩
    · have hexec : exec .latchClose s = .next ((s.modFront (fun f => { f with latchClosed := true })).event .fpn FPN_EVT_LATCH_CHANGE) := by
        show execLatchClose s = _
        unfold execLatchClose
        rw [if_neg (by simp [hup, hopen])]
        dsimp only
        rw [if_pos (by cases h : s.wall.stopping <;> simp_all [Option.isSome_iff_ne_none])]
      refine runs_intro hexec ⟨?_, fun h1 h2 => absurd ⟨h1, h2⟩ hstop⟩
      rw [State.event_front]
      rfl
  · have hexec : exec .earlyWarningBreak s = .next (((s.modFront (fun f => { f with early := false })).recordOpen 0 2 .fpn []).latchOpened
        true) := congrArg Host.Outcome.next (if_pos (by simp [hup, hlatch, hearly]))
    refine runs_intro hexec ⟨?_, ?_⟩
    · rw [(State.latchOpened_front _ _).2, State.recordOpen_keeps.front_eq (by decide)]
      rfl
    · rw [State.latchOpened_count, State.recordOpen_keeps.reg_eq (by decide), State.modFront_reg]
  · by_cases hup : s.plinth.up = true
    · refine runs_intro (congrArg Host.Outcome.next (if_neg (by simp [hup]))) ?_
      dsimp only
      split
      · rw [State.mated_front, State.readSlots_front]
        exact ⟨rfl, rfl, rfl, fun _ => ⟨rfl, rfl⟩⟩
      · rw [State.readSlots_front]
        exact ⟨rfl, rfl, rfl, fun _ => ⟨rfl, rfl⟩⟩
    · refine runs_intro (congrArg Host.Outcome.next (if_pos (by simp [hup]))) ⟨rfl, rfl, rfl, fun h => absurd h hup⟩
  · exact runs_intro rfl ⟨rfl, rfl, Option.some_ne_none _⟩
  · exact runs_intro (congrArg Host.Outcome.next (if_pos (by simp [hup, haux]))) (State.mem_emit_out ..)
  · exact runs_intro (congrArg Host.Outcome.next (if_pos (by simp [hup, haux]))) ⟨State.mem_emit_out .., rfl⟩

end Sys2Proof
end

section
/-! PROOFS. Health (R465-R474): a sample stands in its sensor's record, a test in its bank's trend; what the obligation on health says. -/

namespace Sys2Proof.Machine

/-! ### Sensors -/

/-- What a sensor shows: its last sample, and that it has one. -/
def State.reading (s : State) (n : Nat) : Int × Bool := ((s.temp n).cur, (s.temp n).seen)

theorem Keeps.reading_eq {l : List Part} {s t : State} (h : Keeps l s t) (hl : .health ∉ l) (n : Nat) : t.reading n = s.reading n := by
  simp [State.reading, State.temp, h.health_eq hl]

theorem State.modTemp_temp (s : State) (n m : Nat) (f : TempRec → TempRec) :
    (s.modTemp n f).temp m = ((if n = m then f else id) <$> s.health.temps[m]?).getD .reset := by
  simp only [State.temp, State.modTemp, State.modHealth, List.getD_eq_getElem?_getD, List.getElem?_modify]
  split <;> simp

theorem State.modTemp_reading {s : State} {n : Nat} {f : TempRec → TempRec} (hf : ∀ x, ((f x).cur, (f x).seen) = (x.cur, x.seen)) (m : Nat) :
    (s.modTemp n f).reading m = s.reading m := by
  simp only [State.reading, State.modTemp_temp]
  simp only [State.temp, List.getD_eq_getElem?_getD]
  cases s.health.temps[m]? with
  | none => rfl
  | some x =>
    by_cases h : n = m
    · simpa [h] using hf x
    · simp [h]

theorem State.warnTemp_reading (s : State) (n m : Nat) : (s.warnTemp n).reading m = s.reading m := by
  unfold State.warnTemp
  extract_lets x armed s1 s2
  have h1 : s1.reading m = s.reading m := State.modTemp_reading (fun _ => by rfl) m
  have h2 : s2.reading m = s1.reading m := State.modTemp_reading (fun _ => by rfl) m
  split
  · exact h1
  · rw [State.earlyWarn_keeps.reading_eq (by decide), State.hltEvent_keeps.reading_eq (by decide),
      State.hltBump_keeps.reading_eq (by decide), h2, h1]

theorem State.atLimit_reading (s : State) (n m : Nat) : (s.atLimit n).reading m = s.reading m := by
  unfold State.atLimit
  extract_lets s1 s2
  have h1 : s1.reading m = s.reading m := State.modTemp_reading (fun _ => by rfl) m
  have h2 : s2.reading m = s.reading m := (State.tempAction_keeps.reading_eq (by decide) m).trans h1
  split
  · split
    · rw [State.throttle_keeps.reading_eq (by decide), h1]
    · exact h1
  · split
    · rw [State.pickSource_keeps.reading_eq (by decide), State.modPlinth_keeps.reading_eq (by decide), h2]
    · exact h2

theorem State.overLimit_reading (s : State) (n m : Nat) : (s.overLimit n).reading m = s.reading m := by
  unfold State.overLimit
  extract_lets s1 s2
  have h1 : s1.reading m = s.reading m := State.modTemp_reading (fun _ => by rfl) m
  have h2 : s2.reading m = s.reading m := (State.tempAction_keeps.reading_eq (by decide) m).trans h1
  split
  · split
    · exact h1
    · rw [State.failWythe_keeps.reading_eq (by decide), State.modPlinth_keeps.reading_eq (by decide),
        State.recordOpen_keeps.reading_eq (by decide), State.hltBump_keeps.reading_eq (by decide), h1]
  · split
    · rw [State.modPlinth_keeps.reading_eq (by decide), h2]
    · exact h2

theorem State.undoLimit_reading (s : State) (n m : Nat) : (s.undoLimit n).reading m = s.reading m := by
  unfold State.undoLimit
  extract_lets s1
  have h1 : s1.reading m = s.reading m := State.modTemp_reading (fun _ => by rfl) m
  split <;> split
  · exact h1
  · rw [State.throttle_keeps.reading_eq (by decide), h1]
  · rw [State.pickSource_keeps.reading_eq (by decide), h1]
  · exact h1

theorem State.tempActs_reading (s : State) (n m : Nat) : (s.tempActs n).reading m = s.reading m := by
  unfold State.tempActs
  extract_lets s1 x s2 s3
  have h1 : s1.reading m = s.reading m := s.warnTemp_reading n m
  have h2 : s2.reading m = s.reading m := by
    unfold s2
    split
    · rw [State.atLimit_reading, h1]
    · exact h1
  have h3 : s3.reading m = s.reading m := by
    unfold s3
    split
    · rw [State.overLimit_reading, h2]
    · exact h2
  split
  · rw [State.undoLimit_reading, h3]
  · exact h3

theorem State.cutBudget_reading (s : State) (m : Nat) : s.cutBudget.reading m = s.reading m := by
  unfold State.cutBudget
  extract_lets at_
  split
  · rfl
  · split <;> rfl

theorem State.sampled_reading {s : State} {n : Nat} (hn : n < s.health.temps.length) (c : Int) : (s.sampled n c).reading n = (c, true) := by
  simp [State.sampled, State.reading, State.modTemp_temp, hn]

/-! ### Ageing -/

theorem State.measureAge_ages (s : State) {n f : Nat} (hn : n < s.health.ages.length) :
    ∃ a, (s.measureAge n f).health.ages[n]? = some a ∧ a.day = s.today
      ∧ (ageBase n ≠ 0 → a.shift = ((ageBase n : Int) - f) * 1000000 / ageBase n) := by
  unfold State.measureAge
  extract_lets base shift s1 r
  have hages : s1.health.ages = s.health.ages := by
    unfold s1
    split <;> rfl
  refine ⟨{ shift := shift, slope := r.1 * 1000 / r.2, day := s.today }, ?_, rfl, fun hbase => if_neg hbase⟩
  simp [State.modHealth, hages, hn]

/-! ### Bank tests -/

theorem State.startCap_of_ready {s : State} {b : Nat} {rest : List Nat} (hw : s.health.wait = b :: rest) (hready : s.capReady b = true) :
    s.startCap.health = { s.health with testing := some b, wait := rest } := by
  unfold State.startCap
  rw [hw]
  dsimp only
  rw [if_pos hready, State.powerEval_keeps.health_eq (by decide)]
  rfl

theorem State.startCap_caps (s : State) : s.startCap.health.caps = s.health.caps := by
  unfold State.startCap
  split
  · rfl
  · split
    · rw [State.powerEval_keeps.health_eq (by decide)]
      rfl
    · rfl

theorem State.askCap_of_ready {s : State} {src : AccSrc} {w : Wy} {v : Word} (h0 : bitOf v 0 = true) (hready : s.capReady 0 = true) :
    (s.askCap src w v).health.testing = some 0 := by
  obtain ⟨rest, hl⟩ : ∃ rest, (List.range 2).filter (fun b => bitOf v b) = 0 :: rest := by
    rw [show List.range 2 = [0, 1] from rfl, List.filter_cons_of_pos h0]
    exact ⟨_, rfl⟩
  unfold State.askCap
  extract_lets l
  rw [show l = 0 :: rest from hl]
  dsimp only
  rw [if_pos hready]
  refine congrArg Health.testing (State.startCap_of_ready (b := 0) rfl ?_)
  exact hready

theorem State.keepDaily_caps (s : State) (code : Nat) (v : Int) : (s.keepDaily code v).health.caps = s.health.caps := rfl

/-- The early warnings leave every health field but their own marks. -/
theorem State.warnEol_health (s : State) (day : Nat) :
    ∃ a b : Bool, (s.warnEol day).health = { s.health with warn180 := a, warn30 := b } := by
  unfold State.warnEol
  extract_lets ahead s1 s2
  have h2 : ∃ a b : Bool, s2.health = { s.health with warn180 := a, warn30 := b } := by
    unfold s2
    split
    · rw [State.earlyWarn_keeps.health_eq (by decide)]
      exact ⟨_, _, rfl⟩
    · exact ⟨_, _, rfl⟩
  obtain ⟨a, b, h2⟩ := h2
  split
  · rw [State.earlyWarn_keeps.health_eq (by decide)]
    exact ⟨a, true, by rw [State.modHealth, h2]⟩
  · exact ⟨a, b, h2⟩

/-- A projection is noted with its factor, whether it is the one before or a new one. -/
theorem State.noteEol_health (s : State) (e : Nat × Nat) (known : Bool) :
    ∃ a b : Bool, (State.warnEol (if known then s.modHealth (fun h => { h with eolDay := e.1, eolFactor := e.2 })
      else (s.modHealth (fun h => { h with eolDay := e.1, eolFactor := e.2 })).hltEvent HLT_EVT_EOL_CHANGED) e.1).health
        = { s.health with eolDay := e.1, eolFactor := e.2, warn180 := a, warn30 := b } := by
  cases known with
  | true => exact State.warnEol_health _ _
  | false =>
    obtain ⟨a, b, h⟩ := ((s.modHealth (fun h => { h with eolDay := e.1, eolFactor := e.2 })).hltEvent HLT_EVT_EOL_CHANGED).warnEol_health e.1
    rw [State.hltEvent_keeps.health_eq (by decide)] at h
    exact ⟨a, b, h⟩

/-- The brick's daily values, then its end-of-life day. -/
theorem State.predict_health (s : State) : ∃ (e : Nat × Nat) (a b : Bool),
    e = eolOf ([1, 2, 3, 4].foldl (fun a c => a.keepDaily c (a.factorValue c)) s).factorDays
      ∧ s.predict.health = { ([1, 2, 3, 4].foldl (fun a c => a.keepDaily c (a.factorValue c)) s).health with
          eolDay := e.1, eolFactor := e.2, warn180 := a, warn30 := b } := by
  rw [State.predict]
  generalize ([1, 2, 3, 4].foldl (fun a c => a.keepDaily c (a.factorValue c)) s) = s1
  dsimp only
  generalize eolOf s1.factorDays = e
  obtain ⟨a, b, h⟩ := s1.noteEol_health e (s.health.eolDay = e.1 && s.health.eolFactor = e.2)
  exact ⟨e, a, b, rfl, h⟩

theorem State.predict_eol (s : State) : (s.predict.health.eolDay, s.predict.health.eolFactor)
    = eolOf ([1, 2, 3, 4].foldl (fun a c => a.keepDaily c (a.factorValue c)) s).factorDays := by
  obtain ⟨e, a, b, he, h⟩ := s.predict_health
  rw [h, ← he]

theorem State.predict_caps (s : State) : s.predict.health.caps = s.health.caps := by
  obtain ⟨e, a, b, -, h⟩ := s.predict_health
  rw [h]
  exact foldl_proj (fun s : State => s.health.caps) (fun _ _ _ => by rfl) s

theorem modify_warned_tests {l : List CapBank} {b n : Nat} {c : CapBank} (h : l[b]? = some c) :
    ∃ c', (l.modify b (fun c => { c with warned := n }))[b]? = some c' ∧ c'.tests = c.tests :=
  ⟨{ c with warned := n }, by simp [h], rfl⟩

/-- A bank's test ends as the last of its trend. -/
theorem State.capResult_last (s : State) {b : Nat} (hb : b < s.health.caps.length) (cap esr : Nat) :
    ∃ c, (s.capResult b cap esr).health.caps[b]? = some c
      ∧ c.tests.getLast? = some { day := s.today, cap := cap, esr := esr, energy := capEnergy cap } := by
  unfold State.capResult
  extract_lets t s1 s2 weak w a d a2 s3 n
  obtain ⟨c, hc, hlast⟩ : ∃ c, s1.health.caps[b]? = some c ∧ c.tests.getLast? = some t :=
    ⟨{ s.health.caps[b] with tests := s.health.caps[b].tests.drop (s.health.caps[b].tests.length - 63) ++ [t] },
      by simp [s1, State.modHealth, hb], by simp⟩
  have h2 : s2.health.caps = s1.health.caps := by
    rw [State.hltEvent_keeps.health_eq (by decide), State.hltBump_keeps.health_eq (by decide)]
  have h3 : s3.health.caps = s1.health.caps := by
    unfold s3
    split
    · exact h2
    · have ha : a.health.caps = s1.health.caps := by
        show (State.hltEvent (s2.event (.pwr w) PWR_EVT_HOLDUP_LOW) HLT_EVT_CAP_LOW).health.caps = _
        rw [State.hltEvent_keeps.health_eq (by decide), State.event_keeps.health_eq (by decide), h2]
      have ha2 : a2.health.caps = s1.health.caps := by
        unfold a2
        rw [State.hltRecord_keeps.health_eq (by decide), ha]
      rw [State.predict_caps]
      split
      · rw [State.hltRecord_keeps.health_eq (by decide), ha2]
      · exact ha2
  split
  · rw [State.earlyWarn_keeps.health_eq (by decide)]
    obtain ⟨c', hc', ht⟩ := modify_warned_tests (n := n) (h3 ▸ hc)
    exact ⟨c', hc', ht ▸ hlast⟩
  · exact ⟨c, h3 ▸ hc, hlast⟩

end Sys2Proof.Machine

namespace Sys2Proof

open Sys2Proof.Machine

/-- Settles O51, row by row of the health commands. -/
theorem healthIsKept : Obligations.HealthIsKept := by
  unfold Obligations.HealthIsKept
  intro src w s
  refine ⟨fun n r hup hn => ?_, fun n f hrun hn => ?_, fun hon hdue hready => ?_, fun v harr h0 hready => ?_, fun b cap esr htest hb => ?_,
    fun hrun => ⟨?_, ?_⟩, fun v harr => ?_, fun harr => ⟨?_, ?_, ?_⟩, fun hup => ?_⟩
  · refine runs_intro (if_neg (by simp [hup])) ?_
    rw [← Prod.mk.injEq]
    show (State.cutBudget _).reading n.val = _
    rw [State.cutBudget_reading]
    show (State.tempActs _ n.val).reading n.val = _
    rw [State.tempActs_reading, State.sampled_reading hn]
  · refine runs_intro (congrArg Host.Outcome.next (if_pos hrun)) (s.measureAge_ages hn)
  · have hrun : s.running .w0 = true := by
      simp only [State.capReady, Bool.and_eq_true] at hready
      simp_all only
    have hexec : exec .capTest s = .next (s.modHealth (fun h => { h with testAt := s.today, wait := [0, 1] })).startCap := by
      refine congrArg (fun x : State => Host.Outcome.next x.startCap) (if_pos ?_)
      dsimp only
      rw [hrun, hon, decide_eq_true hdue]
      rfl
    have h := State.startCap_of_ready (s := s.modHealth (fun h => { h with testAt := s.today, wait := [0, 1] })) (b := 0) (rest := [1]) rfl
      hready
    refine runs_intro hexec ?_
    rw [h]
    exact ⟨rfl, rfl, rfl⟩
  · refine runs_intro (congrArg Host.Outcome.next (State.gated_of_writeArrives harr)) (State.askCap_of_ready h0 hready)
  · have hexec : exec (.capTestEnd cap esr) s = .next (((if ratedCap b = 0 then s.used else s).capResult b
        (if ratedCap b = 0 then s.free % 10001 else cap * 10000 / ratedCap b) esr).startCap.powerEval) := by
      show execCapTestEnd cap esr s = _
      unfold execCapTestEnd
      rw [htest]
    have htoday : (if ratedCap b = 0 then s.used else s).today = s.today := by split <;> rfl
    have hlen : b < (if ratedCap b = 0 then s.used else s).health.caps.length := by split <;> exact hb
    obtain ⟨c, hc, hlast⟩ := (if ratedCap b = 0 then s.used else s).capResult_last hlen
      (if ratedCap b = 0 then s.free % 10001 else cap * 10000 / ratedCap b) esr
    refine runs_intro hexec ⟨c, _, ?_, hlast, rfl, htoday, fun hr => if_neg hr⟩
    rw [State.powerEval_keeps.health_eq (by decide), State.startCap_caps, hc]
  · exact runs_intro (congrArg Host.Outcome.next (if_pos (by simpa using hrun))) s.predict_eol
  · exact runs_intro (congrArg Host.Outcome.next (if_pos (by simpa using hrun))) ⟨rfl, rfl, rfl⟩
  · refine runs_intro (congrArg Host.Outcome.next (State.gated_of_writeArrives harr)) ⟨?_, ?_⟩
    · cases w <;> rfl
    · exact State.setReg_reg_self ..
  · exact runs_intro (congrArg Host.Outcome.next (State.readGate_of_readArrives harr))
      ⟨State.mem_emit_out .., State.setReg_reg_self ..⟩
  · exact runs_intro (congrArg Host.Outcome.next (State.readGate_of_readArrives harr))
      ⟨State.mem_emit_out .., State.setReg_reg_self ..⟩
  · exact runs_intro (congrArg Host.Outcome.next (State.readGate_of_readArrives harr))
      ⟨State.mem_emit_out .., State.setReg_reg_self ..⟩
  · refine runs_intro (congrArg Host.Outcome.next (if_pos hup)) ?_
    exact s.record_plinth_mem 1 0x0601 (pageIdOf (.hlt .w0)).toNat (s.summary.take 32)

end Sys2Proof
end

section
/-! PROOFS. What ages (R65, R101) and the clocks of a wythe (R98, R114, R120, R127). -/

namespace Sys2Proof.Machine

/-! ### Entries that set out -/

/-- However many entries a wythe holds, the newest is among them. -/
theorem State.holdEntries_last (s : State) (source : Nat) (l : List EvtRec) (e : EvtRec) : e ∈ s.holdEntries source (l ++ [e]) := by
  unfold State.holdEntries
  extract_lets w mine
  split
  · simp
  · rename_i hmany
    have hmine : 4096 < mine := by
      by_contra h
      exact hmany (by rw [decide_eq_true (show mine ≤ 4096 by omega), Bool.or_true])
    split
    · rename_i i hi
      obtain ⟨hlt, -, hfirst⟩ := List.findIdx?_eq_some_iff_getElem.mp hi
      have hil : i < l.length := by
        by_contra h
        have hnone : l.filter (fun e => decide (e.source = source)) = [] := by
          refine List.filter_eq_nil_iff.mpr fun a ha => ?_
          obtain ⟨j, hj, rfl⟩ := List.getElem_of_mem ha
          have := hfirst j (by omega)
          rwa [List.getElem_append_left hj] at this
        have hle : mine ≤ 1 := by
          show ((l ++ [e]).filter _).length ≤ 1
          rw [List.filter_append, hnone, List.nil_append]
          exact List.length_filter_le ..
        omega
      rw [List.eraseIdx_append_of_lt_length hil]
      simp
    · simp

/-- An entry that sets out is among those under way. -/
theorem State.record_mem (s : State) (source severity code page : Nat) (detail : Bytes) :
    ∃ e ∈ (s.record source severity code page detail).arriving, e.code = code ∧ e.severity = severity ∧ e.source = source
      ∧ e.detail = padTo 32 detail :=
  ⟨_, s.holdEntries_last source s.arriving _, rfl, rfl, rfl, rfl⟩

/-! ### Clocks -/

/-- The start of moves marks partitions and puts nothing out. -/
theorem State.startMoves_out (s : State) (w : Wy) : (s.startMoves w).out = s.out :=
  foldl_proj (fun t : State => t.out) (fun _ _ _ => by rfl) s

theorem State.servo_inSync (s : State) (w : Wy) : ((s.servo w).wy w).clk.inSync = (s.wy w).clk.inSync := by
  rw [State.servo, State.modClk_wy]

theorem State.servo_quietSince {s : State} {w : Wy} {at_ : Nat} (hsum : 4 * s.clockSum w ≤ s.wall.settings.epsUs * 1000)
    (hquiet : (s.wy w).clk.quietSince = some at_) : ((s.servo w).wy w).clk.quietSince = some at_ := by
  rw [State.servo, State.modClk_wy]
  simp [hsum, hquiet]

theorem State.leaseOk_of_lapsed {s : State} (h : s.wall.leaseUntil ≤ s.now) : s.leaseOk = false := by
  simpa [State.leaseOk] using h

theorem execInSyncReturn_of_quiet {s : State} {w : Wy} (h : ((s.servo w).wy w).clk.quietSince.any (fun t => (s.servo w).since t (sec 10)) = true) :
    execInSyncReturn w s = .next ((s.servo w).modClk w (fun c => { c with inSync := true })) := by
  rw [execInSyncReturn]
  exact if_pos h

/-- What stands in a list of records whose age has come, keeps its request id alone. -/
theorem mem_ageOutcome {now keep : Nat} {o : OutcomeRec} {l : List OutcomeRec} (ho : o ∈ l) (hst : o.st ≠ .idOnly)
    (hold : o.since + keep ≤ now) : { o with st := .idOnly, since := now } ∈ ageOutcome now keep o.keyspace o.requestId l :=
  List.mem_map.mpr ⟨o, ho, if_pos (by simp [hst, hold])⟩

theorem not_mem_forgetId {now keep : Nat} {o : OutcomeRec} (l : List OutcomeRec) (hst : o.st = .idOnly)
    (hold : o.since + keep ≤ now) : o ∉ forgetId now keep o.keyspace o.requestId l := by
  simp [forgetId, hst, hold]

end Sys2Proof.Machine

namespace Sys2Proof

open Sys2Proof.Machine

/-- Settles O10: each row on the record it is for. -/
theorem recordsAge : Obligations.RecordsAge := by
  unfold Obligations.RecordsAge
  intro w s
  refine ⟨fun u hu honly hold => ?_, fun o ho hst hold => ?_, fun o ho hst hold => ?_⟩
  · have hfind : (s.wy w).relief.uploads.find? (fun v => v.id = u.id) = some u := by
      cases h : (s.wy w).relief.uploads.find? (fun v => v.id = u.id) with
      | none => simpa using List.find?_eq_none.mp h u hu
      | some v => rw [honly v (List.mem_of_find?_eq_some h) (by simpa using List.find?_some h)]
    have hexec : exec (.uploadDiscard w u.id) s = .next (s.dropUpload w u.id) := by
      show execUploadDiscard w u.id s = _
      unfold execUploadDiscard
      rw [hfind]
      exact congrArg Host.Outcome.next (if_pos (decide_eq_true (by simpa [sec] using hold)))
    refine runs_intro hexec fun v hv => ?_
    rw [State.dropUpload, State.modRelief_wy] at hv
    exact of_decide_eq_true (List.mem_filter.mp hv).2
  · exact runs_intro rfl (mem_ageOutcome ho hst hold)
  · exact runs_intro rfl (not_mem_forgetId s.store.outcomes hst hold)

/-- Settles O14, row by row. -/
theorem clockEventsAct : Obligations.ClockEventsAct := by
  unfold Obligations.ClockEventsAct
  intro w s
  refine ⟨fun d hd hat => ?_, ?_, fun hsync hsum => ?_, fun at_ hsum hquiet hat => ?_, fun hlapsed => ?_⟩
  · have hexec : exec (.drainAt w) s = .next (if d.activation then s.modRelief w (fun r => { r with drain := some { d with reached := true } })
        else (s.modRelief w (fun r => { r with drain := some { d with reached := true } })).startMoves w) := by
      show execDrainAt w s = _
      unfold execDrainAt
      rw [hd]
      exact if_neg (by omega)
    refine runs_intro hexec ?_
    split
    · rw [State.modRelief_wy]
      exact ⟨rfl, State.modRelief_out ..⟩
    · rw [State.startMoves_keeps.relief_eq (by decide), State.modRelief_wy, State.startMoves_out]
      exact ⟨rfl, State.modRelief_out ..⟩
  · refine runs_intro rfl ?_
    rw [foldl_proj (fun t : State => (t.wy w).clk.closed)]
    · rw [State.modClk_wy]
    · intro t x _
      dsimp only
      rw [foldl_proj (fun t : State => (t.wy w).clk.closed)]
      · rw [State.modPart_keeps.clk_eq (by decide)]
      · intro t b _
        rw [State.toPart_keeps.clk_eq (by decide)]
  · refine runs_intro (if_pos ?_) ?_
    · rw [State.servo_inSync, hsync, decide_eq_true hsum]
      rfl
    · obtain ⟨e, he, hcode, hsev, -⟩ := State.record_mem (((s.servo w).modClk w (fun c => { c with inSync := false })).event (.mtr w)
        MTR_EVT_SYNC_LOST) (srcOf w) 2 0x0C01 (pageIdOf (.mtr w)).toNat _
      refine ⟨?_, e, ?_, hcode, hsev⟩
      · rw [State.startMoves_keeps.clk_eq (by decide), State.record_keeps.clk_eq (by decide), State.event_keeps.clk_eq (by decide),
          State.modClk_wy]
      · rw [State.startMoves_keeps.arriving_eq (by decide)]
        exact he
  · refine runs_intro (execInSyncReturn_of_quiet ?_) ?_
    · rw [State.servo_quietSince hsum hquiet, Option.any_some]
      refine (State.since_sec _ at_ 10).mpr ?_
      rw [State.servo, State.modClk_now]
      omega
    · rw [State.modClk_wy]
  · refine runs_intro (congrArg Host.Outcome.next (if_neg (by simp [State.leaseOk_of_lapsed hlapsed]))) ?_
    exact State.event_sets_bit (n := MTR_EVT_LEASE_LOST) (by decide) s (.mtr w)

end Sys2Proof
end

section
/-! PROOFS. The buffer pool manager (R359-R369): its pools and buffers, and what the obligation on its operations says. -/

namespace Sys2Proof.Machine

/-! ### Pools and buffers -/

theorem State.modPool_pool {s : State} {w : Wy} {n : Nat} (hn : n < (s.wy w).bpm.pools.length) (f : Pool → Pool) :
    (s.modPool w n f).pool w n = f (s.pool w n) := by
  simp [State.pool, State.modPool, hn]

theorem State.modPool_length (s : State) (w : Wy) (n : Nat) (f : Pool → Pool) :
    ((s.modPool w n f).wy w).bpm.pools.length = (s.wy w).bpm.pools.length := by
  simp [State.modPool]

theorem State.modPool_out (s : State) (w : Wy) (n : Nat) (f : Pool → Pool) : (s.modPool w n f).out = s.out := by
  cases w <;> rfl

theorem State.modBuf_bufOf {s : State} {w : Wy} {n : Nat} (hn : n < (s.wy w).bpm.pools.length) (i : Nat) (f : Buf → Buf) :
    bufOf ((s.modBuf w n i f).pool w n) i = f (bufOf (s.pool w n) i) := by
  rw [State.modBuf, State.modPool_pool hn, bufOf, tableGet?_tablePut_self]
  rfl

theorem Keeps.pool_eq {l : List Part} {s t : State} (h : Keeps l s t) (hl : .bpm ∉ l) (w : Wy) (n : Nat) : t.pool w n = s.pool w n := by
  rw [State.pool, State.pool, h.bpm_eq hl]

theorem State.emit_pool (s : State) (m : Output) (w : Wy) (n : Nat) : (s.emit m).pool w n = s.pool w n := by cases w <;> rfl

/-- A pool past the table's end holds no buffer. -/
theorem State.pool_lt_of_count {s : State} {w : Wy} {n : Nat} (h : (s.pool w n).count ≠ 0) : n < (s.wy w).bpm.pools.length := by
  by_contra hn
  exact h (congrArg Pool.count (List.getD_eq_default _ _ (Nat.le_of_not_lt hn)))

/-! ### Requests that wait -/

/-- No request waits at any pool. -/
def State.noneWaits (s : State) (w : Wy) : Prop := ∀ m, (s.pool w m).waiting = []

theorem State.noneWaits_of_pools {s : State} {w : Wy} (h : ∀ p ∈ (s.wy w).bpm.pools, p.waiting = []) : s.noneWaits w := by
  intro m
  by_cases hm : m < (s.wy w).bpm.pools.length
  · rw [State.pool, List.getD_eq_getElem _ _ hm]
    exact h _ (List.getElem_mem hm)
  · exact congrArg Pool.waiting (List.getD_eq_default _ _ (Nat.le_of_not_lt hm))

theorem State.modPool_noneWaits {s : State} {w : Wy} {n : Nat} {f : Pool → Pool} (h : s.noneWaits w)
    (hf : ∀ p, (f p).waiting = p.waiting) : (s.modPool w n f).noneWaits w := by
  intro m
  have hm := h m
  simp only [State.pool, State.modPool, State.modBpm_wy, List.getD_eq_getElem?_getD, List.getElem?_modify] at hm ⊢
  cases hp : (s.wy w).bpm.pools[m]? with
  | none => simpa [hp] using hm
  | some p =>
    rw [hp] at hm
    by_cases hnm : n = m
    · simpa [hnm, hf] using hm
    · simpa [hnm] using hm

theorem State.queueAhead_of_noneWaits {s : State} {w : Wy} (h : s.noneWaits w) (n : Nat) : s.queueAhead w n = false := by
  simp [State.queueAhead, h _]

theorem State.serveWait_of_noneWaits {s : State} {w : Wy} (h : s.noneWaits w) (n i : Nat) : s.serveWait w n i = s := by
  have hnone : s.oldestWait w n = none := by
    have hempty : (List.range 6).flatMap (fun m => if s.reaches w m n then (s.pool w m).waiting.filter (fun x => s.availTo w n x.req)
        else []) = [] := by
      refine List.flatMap_eq_nil_iff.mpr fun m _ => ?_
      simp [h m]
    rw [State.oldestWait, hempty]
    rfl
  rw [State.serveWait, hnone]

/-! ### Operations on handles -/

/-- An accepted handle names a buffer of a pool that is there. -/
theorem State.bufCheck_pool {s : State} {w : Wy} {op : BufOp} {requester handle : Nat} (h : s.bufCheck w op requester handle = 0) :
    bits handle 31 29 < (s.wy w).bpm.pools.length := by
  refine State.pool_lt_of_count fun hcount => ?_
  unfold State.bufCheck at h
  extract_lets n g i b at h
  rw [if_pos (by simp [n, hcount])] at h
  exact absurd h (by decide)

/-- What an accepted operation does to its buffer. -/
def State.bufDone (s : State) (w : Wy) (op : BufOp) (handle : Nat) : State :=
  match op with
  | .free | .release => s.dropCount w (bits handle 31 29) (bits handle 23 0)
  | .share => s.modBuf w (bits handle 31 29) (bits handle 23 0) (fun b => { b with st := 2, count := b.count + 1 })
  | .transfer o => s.modBuf w (bits handle 31 29) (bits handle 23 0) (fun b => { b with owner := o })

theorem State.bufOp_of_accepted {s : State} {w : Wy} {op : BufOp} {requester handle : Nat} (cookie : Nat)
    (h : s.bufCheck w op requester handle = 0) :
    s.bufOp w op requester handle cookie = (s.bufDone w op handle).emit (.bpm w requester 0 handle cookie) := by
  unfold State.bufOp
  rw [h]
  cases op <;> rfl

/-- A buffer whose last count falls is FREE, and its pool has one more. -/
theorem State.dropCount_of_last {s : State} {w : Wy} {n i : Nat} (hn : n < (s.wy w).bpm.pools.length) (hwait : s.noneWaits w)
    (hlast : (bufOf (s.pool w n) i).count ≤ 1) :
    (bufOf ((s.dropCount w n i).pool w n) i).st = 0 ∧ (bufOf ((s.dropCount w n i).pool w n) i).count = 0
      ∧ ((s.dropCount w n i).pool w n).free = (s.pool w n).free + 1 := by
  unfold State.dropCount
  extract_lets b s1
  rw [if_neg (Nat.not_lt.mpr hlast)]
  have hn1 : n < (s1.wy w).bpm.pools.length := by simpa only [s1, State.modBuf, State.modPool_length] using hn
  have hbuf : bufOf (s1.pool w n) i = _ := State.modBuf_bufOf hn i _
  have hfree : (s1.pool w n).free = (s.pool w n).free := by
    show ((s.modPool w n _).pool w n).free = _
    rw [State.modPool_pool hn]
  have hwait1 : s1.noneWaits w := State.modPool_noneWaits hwait fun _ => by rfl
  rw [State.serveWait_of_noneWaits (State.modPool_noneWaits hwait1 fun _ => by rfl),
    State.modPool_pool hn1]
  refine ⟨?_, ?_, congrArg (· + 1) hfree⟩
  · show (bufOf (s1.pool w n) i).st = 0
    rw [hbuf]
  · show (bufOf (s1.pool w n) i).count = 0
    rw [hbuf]

theorem State.dropCount_of_more {s : State} {w : Wy} {n i : Nat} (hn : n < (s.wy w).bpm.pools.length)
    (hmore : 1 < (bufOf (s.pool w n) i).count) :
    (bufOf ((s.dropCount w n i).pool w n) i).count = (bufOf (s.pool w n) i).count - 1 := by
  unfold State.dropCount
  extract_lets b s1
  rw [if_pos hmore, State.modBuf_bufOf hn]

/-! ### Allocations -/

theorem mem_tablePut_self {α : Type} (t : Table α) (k : Nat) (a : α) : (k, a) ∈ tablePut t k a := by
  fun_induction tablePut t k a <;> simp_all

/-- A request that its pool serves at once is answered with a buffer of the pool, which is then its requester's. -/
theorem State.takeAt_of_cached {s : State} {w : Wy} {n : Nat} (i : Nat) {r : BufReq} (hn : n < (s.wy w).bpm.pools.length)
    (hcache : 0 < (s.pool w n).cache) :
    ((s.takeAt w n i r).pool w n).free = (s.pool w n).free - 1 ∧ ∃ b ∈ ((s.takeAt w n i r).pool w n).bufs, b.1 = i ∧ b.2.st = 1
      ∧ b.2.owner = r.requester ∧ b.2.count = 1 ∧ .bpm w r.requester 0 (handleOf n b.2.gen i) r.cookie ∈ (s.takeAt w n i r).out := by
  unfold State.takeAt
  extract_lets p gen rsv s1 s2 s3 s4 s5
  have hn1 : n < ((s.modBuf w n i (fun b => { b with st := 1, owner := r.requester, count := 1 })).wy w).bpm.pools.length := by
    rw [State.modBuf, State.modPool_length]
    exact hn
  have h5 : s5.pool w n = s1.pool w n := by
    have h2 : s2.pool w n = s1.pool w n := State.bump_keeps.pool_eq (by decide) w n
    have h3 : s3.pool w n = s1.pool w n := by
      unfold s3
      split
      · rw [State.event_keeps.pool_eq (by decide), h2]
      · exact h2
    have h4 : s4.pool w n = s1.pool w n := by
      unfold s4
      split
      · rw [State.event_keeps.pool_eq (by decide), State.bump_keeps.pool_eq (by decide), h3]
      · exact h3
    unfold s5
    split
    · exact h4
    · rw [State.bump_keeps.pool_eq (by decide), h4]
  rw [if_neg (Nat.ne_of_gt hcache), State.bpmAnswer, State.emit_pool, h5, State.modPool_pool hn1, State.modBuf, State.modPool_pool hn]
  exact ⟨rfl, _, mem_tablePut_self .., rfl, rfl, rfl, rfl, State.mem_emit_out ..⟩

/-- The ports come each once in a cycle's order. -/
theorem portTurn_filter : ∀ p < 20, ∀ f < 20, (List.range 20).filter (fun k => decide (p = (f + k) % 20)) = [(p + 20 - f) % 20] := by
  decide

theorem inPortOrder_nil (from_ : Nat) : inPortOrder from_ [] = [] := by simp [inPortOrder]

theorem inPortOrder_single {from_ : Nat} {r : BufReq} (hport : portOf r.requester < 20) (hfrom : from_ < 20) :
    inPortOrder from_ [r] = [r] := by
  have hmap : ∀ l : List Nat, l.flatMap (fun k => [r].filter (fun r => decide (portOf r.requester = (from_ + k) % 20)))
      = (l.filter (fun k => decide (portOf r.requester = (from_ + k) % 20))).map (fun _ => r) := by
    intro l
    induction l with
    | nil => rfl
    | cons k l ih =>
      rw [List.flatMap_cons, ih]
      by_cases h : portOf r.requester = (from_ + k) % 20 <;> simp [h]
  rw [inPortOrder, hmap, portTurn_filter _ hport _ hfrom]
  rfl

theorem Keeps.availTo_eq {l : List Part} {s t : State} (h : Keeps l s t) (hb : .bpm ∉ l) (ha : .active ∉ l) (w : Wy) (n : Nat) (r : BufReq) :
    t.availTo w n r = s.availTo w n r := by
  unfold State.availTo State.reserveOf
  rw [h.pool_eq hb, h.afld_eq ha]

/-- A pool that no request is for has no turn. -/
theorem State.servePools_skip (s : State) (w : Wy) (from_ : Nat) (c0 : Word) {r : BufReq} {m : Nat} (hm : ¬ poolFor r.size = some m)
    (ms : List Nat) : s.servePools w from_ c0 [r] (m :: ms) [] = s.servePools w from_ c0 [r] ms [] := by
  have hmine : inPortOrder from_ ([r].filter (fun r => decide (poolFor r.size = some m)) ++ []) = [] := by
    simp [hm, inPortOrder_nil]
  rw [State.servePools, hmine]
  rfl

theorem State.servePools_of_absent (s : State) (w : Wy) (from_ : Nat) (c0 : Word) {r : BufReq} {n : Nat} (hpool : poolFor r.size = some n)
    (ms : List Nat) (hn : n ∉ ms) : s.servePools w from_ c0 [r] ms [] = s := by
  induction ms with
  | nil => rfl
  | cons m ms ih =>
    have hm : ¬ poolFor r.size = some m := fun h => hn (by simp [Option.some.inj (hpool.symm.trans h)])
    rw [State.servePools_skip s w from_ c0 hm]
    exact ih fun h => hn (List.mem_cons_of_mem _ h)

/-- A request alone, which its pool can serve, is served in its pool's turn. -/
theorem State.servePools_single {s : State} {w : Wy} {from_ : Nat} (c0 : Word) {r : BufReq} {n : Nat} (hpool : poolFor r.size = some n)
    (hport : portOf r.requester < 20) (hfrom : from_ < 20) (havail : s.availTo w n r = true) (hwait : s.noneWaits w)
    (ms : List Nat) (hn : n ∈ ms) (hd : ms.Nodup) :
    ∃ s1, Keeps [.pcie, .regs] s s1 ∧ s.servePools w from_ c0 [r] ms [] = s1.takeBuf w n r := by
  induction ms with
  | nil => exact absurd hn (List.not_mem_nil)
  | cons m ms ih =>
    by_cases hm : m = n
    · subst hm
      unfold State.servePools
      extract_lets mine short s1 x
      have hmine : mine = [r] := by simp [mine, hpool, inPortOrder_single hport hfrom]
      have hs1 : Keeps [.pcie, .regs] s s1 := by
        unfold s1
        split
        · exact State.bump_keeps
        · exact Keeps.refl ..
      have hwait1 : s1.noneWaits w := fun k => by rw [hs1.pool_eq (by decide), hwait k]
      have hx : x = (s1.takeBuf w m r, []) := by
        unfold x
        rw [hmine, State.servePool, if_pos (by simp [hs1.availTo_eq (by decide) (by decide), havail, State.queueAhead_of_noneWaits hwait1])]
        rfl
      refine ⟨s1, hs1, ?_⟩
      rw [hx]
      exact State.servePools_of_absent _ w from_ c0 hpool ms (List.nodup_cons.mp hd).1
    · have hm' : ¬ poolFor r.size = some m := fun h => hm (Option.some.inj (h.symm.trans hpool))
      rw [State.servePools_skip s w from_ c0 hm']
      exact ih ((List.mem_cons.mp hn).resolve_left fun h => hm h.symm) (List.nodup_cons.mp hd).2

theorem poolFor_lt {size n : Nat} (h : poolFor size = some n) : n < 6 := by
  unfold poolFor at h
  split at h
  · cases h
  · simpa using List.mem_of_find?_eq_some h

theorem execAlloc_single {s : State} {w : Wy} {r : BufReq} {n : Nat} (hpool : poolFor r.size = some n) :
    execAlloc w [r] s = .next (s.servePools w s.rrPtr (s.reg (.bpm w) BPM_CNT_CONTEND) [r] (List.range 6) []) := by
  simp [execAlloc, hpool, State.allocCycles, firstCycle]

/-- The answers that waited for the cache go out, and nothing else happens to the pools. -/
theorem State.sendStalled_pool (s : State) (w : Wy) (l : List (Nat × Nat × Nat)) :
    ((l.foldl (fun s e => s.bpmAnswer w e.1 0 e.2.1 e.2.2) s).wy w).bpm = (s.wy w).bpm :=
  foldl_proj (fun t : State => (t.wy w).bpm) (fun t _ _ => by rw [State.bpmAnswer, State.emit_keeps.bpm_eq (by decide)]) s

theorem State.sendStalled_out (w : Wy) {e : Nat × Nat × Nat} (l : List (Nat × Nat × Nat)) (he : e ∈ l) (s : State) :
    .bpm w e.1 0 e.2.1 e.2.2 ∈ (l.foldl (fun s e => s.bpmAnswer w e.1 0 e.2.1 e.2.2) s).out := by
  induction l generalizing s with
  | nil => exact absurd he List.not_mem_nil
  | cons a l ih =>
    rcases List.mem_cons.mp he with rfl | h
    · have hkeeps : ∀ (l : List (Nat × Nat × Nat)) (t : State), .bpm w e.1 0 e.2.1 e.2.2 ∈ t.out →
          .bpm w e.1 0 e.2.1 e.2.2 ∈ (l.foldl (fun s e => s.bpmAnswer w e.1 0 e.2.1 e.2.2) t).out := by
        intro l
        induction l with
        | nil => exact fun _ h => h
        | cons b l ih => exact fun t h => ih _ (State.emit_keeps.mem_out h)
      exact hkeeps l _ (State.mem_emit_out ..)
    · exact ih h _

end Sys2Proof.Machine

namespace Sys2Proof

open Sys2Proof.Machine

/-- Settles O34, operation by operation. -/
theorem buffersAct : Obligations.BuffersAct := by
  unfold Obligations.BuffersAct
  intro w s hwaits
  have hwait : s.noneWaits w := State.noneWaits_of_pools hwaits
  refine ⟨fun r n hpool hn havail hcache hport => ?_, fun requester handle cookie hcheck hlast => ?_, fun requester handle cookie hcheck => ?_,
    fun requester handle cookie hcheck => ?_, fun requester handle owner cookie hcheck => ?_, fun n hn hcache => ?_,
    fun src n hn harr => ?_⟩
  · obtain ⟨s1, hs1, hserve⟩ := State.servePools_single (s.reg (.bpm w) BPM_CNT_CONTEND) hpool hport (Nat.mod_lt _ (by decide)) havail hwait
      (List.range 6) (List.mem_range.mpr (poolFor_lt hpool)) (List.nodup_range)
    refine runs_intro ((execAlloc_single hpool).trans (congrArg Host.Outcome.next hserve)) ?_
    have hpool1 : s1.used.pool w n = s.pool w n := by rw [State.used_keeps.pool_eq (by decide), hs1.pool_eq (by decide)]
    obtain ⟨hfree, b, hb, hi, hst, howner, hcount, hout⟩ := State.takeAt_of_cached (s := s1.used) (w := w) (n := n)
      (freeFrom (s1.pool w n) (s1.pool w n).count (s1.free % (s1.pool w n).count)) (r := r)
      (by rw [State.used_keeps.bpm_eq (by decide), hs1.bpm_eq (by decide)]; exact hn) (by rw [hpool1]; exact hcache)
    exact ⟨by rw [← hpool1]; exact hfree, _, b, hb, hi, hst, howner, hcount, hout⟩
  · refine runs_intro (congrArg Host.Outcome.next (State.bufOp_of_accepted cookie hcheck)) ?_
    obtain ⟨hst, -, hfree⟩ := State.dropCount_of_last (State.bufCheck_pool hcheck) hwait hlast
    rw [State.emit_pool]
    exact ⟨State.mem_emit_out .., hst, hfree⟩
  · refine runs_intro (congrArg Host.Outcome.next (State.bufOp_of_accepted cookie hcheck)) ?_
    rw [State.emit_pool]
    refine ⟨State.mem_emit_out .., ?_⟩
    rcases Nat.lt_or_ge 1 (bufOf (s.pool w (bits handle 31 29)) (bits handle 23 0)).count with hmore | hlast
    · exact State.dropCount_of_more (State.bufCheck_pool hcheck) hmore
    · rw [State.bufDone, (State.dropCount_of_last (State.bufCheck_pool hcheck) hwait hlast).2.1]
      omega
  · refine runs_intro (congrArg Host.Outcome.next (State.bufOp_of_accepted cookie hcheck)) ?_
    rw [State.emit_pool, State.bufDone, State.modBuf_bufOf (State.bufCheck_pool hcheck)]
    exact ⟨State.mem_emit_out .., rfl, rfl⟩
  · refine runs_intro (congrArg Host.Outcome.next (State.bufOp_of_accepted cookie hcheck)) ?_
    rw [State.emit_pool, State.bufDone, State.modBuf_bufOf (State.bufCheck_pool hcheck)]
    exact ⟨State.mem_emit_out .., rfl⟩
  · refine runs_intro (congrArg Host.Outcome.next (if_pos hcache)) ?_
    rw [State.modPool_pool (by rw [State.sendStalled_pool]; exact hn), State.modPool_out]
    exact ⟨rfl, fun e he => State.sendStalled_out w _ he s⟩
  · refine runs_intro (congrArg Host.Outcome.next (State.readGate_of_readArrives harr)) ?_
    rw [State.emit_pool, State.clearLow, State.modPool_pool hn]
    exact ⟨State.mem_emit_out .., rfl⟩

end Sys2Proof
end

section
/-! PROOFS. Network ports (R371-R395): a port after an operation, frames, pauses, and what the obligation on frames says. -/

namespace Sys2Proof.Machine

/-! ### A port after an operation -/

theorem State.modPort_port {s : State} {w : Wy} {p : Nat} (hp : p < (s.wy w).ports.length) (f : Port → Port) :
    (s.modPort w p f).port w p = f (s.port w p) := by
  simp [State.port, State.modPort, hp]

theorem State.modPort_length (s : State) (w v : Wy) (p : Nat) (f : Port → Port) :
    ((s.modPort w p f).wy v).ports.length = (s.wy v).ports.length := by
  cases w <;> cases v <;> simp [State.modPort, State.modWy, State.wy]

theorem State.modPort_reg (s : State) (w : Wy) (p : Nat) (f : Port → Port) (q : Page) (off : Nat) :
    (s.modPort w p f).reg q off = s.reg q off := by
  cases w <;> rfl

theorem Keeps.port_eq {l : List Part} {s t : State} (h : Keeps l s t) (hl : .ports ∉ l) (w : Wy) (p : Nat) : t.port w p = s.port w p := by
  rw [State.port, State.port, h.ports_eq hl]

theorem Keeps.pfcOn_eq {l : List Part} {s t : State} (h : Keeps l s t) (hl : .active ∉ l) (w : Wy) (p prio : Nat) :
    t.pfcOn w p prio = s.pfcOn w p prio := by
  simp only [State.pfcOn, h.afld_eq hl]

theorem State.since_ms (s : State) (t n : Nat) : s.since t (ms n) = true ↔ t + n * 1000000 ≤ s.now := decide_eq_true_iff

theorem State.since_us (s : State) (t n : Nat) : s.since t (us n) = true ↔ t + n * 1000 ≤ s.now := decide_eq_true_iff

/-! ### Fields of registers -/

/-- A field that ends at bit 0 reads as the value set, while the value fits. -/
theorem fld_setFld_low {x : Word} {hi v : Nat} (hhi : hi < 32) (hv : v < 2 ^ (hi + 1)) : fld (setFld x hi 0 v) hi 0 = v := by
  have hx : x.toNat < 2 ^ 32 := x.isLt
  have hpow : 2 ^ (hi + 1) * 2 ^ (31 - hi) = 2 ^ 32 := by rw [← Nat.pow_add]; congr 1; omega
  have hdiv : x.toNat = 2 ^ (hi + 1) * (x.toNat / 2 ^ (hi + 1)) + x.toNat % 2 ^ (hi + 1) := (Nat.div_add_mod ..).symm
  have hq : x.toNat / 2 ^ (hi + 1) < 2 ^ (31 - hi) := Nat.div_lt_of_lt_mul (hpow ▸ hx)
  have hlt : 2 ^ (hi + 1) * (x.toNat / 2 ^ (hi + 1)) + v < 2 ^ 32 := by
    calc 2 ^ (hi + 1) * (x.toNat / 2 ^ (hi + 1)) + v < 2 ^ (hi + 1) * (x.toNat / 2 ^ (hi + 1)) + 2 ^ (hi + 1) := by omega
      _ = 2 ^ (hi + 1) * (x.toNat / 2 ^ (hi + 1) + 1) := by ring
      _ ≤ 2 ^ (hi + 1) * 2 ^ (31 - hi) := Nat.mul_le_mul_left _ hq
      _ = 2 ^ 32 := hpow
  have hval : x.toNat - x.toNat % 2 ^ (hi + 1) + v = 2 ^ (hi + 1) * (x.toNat / 2 ^ (hi + 1)) + v := by omega
  simp only [fld, setFld, bits, word, Nat.sub_zero, Nat.pow_zero, Nat.div_one, Nat.mul_one, Nat.mod_eq_of_lt hv, hval, BitVec.toNat_ofNat,
    Nat.mod_eq_of_lt hlt, Nat.mul_add_mod]

theorem State.setRfld_rfld_low {s : State} {p : Page} {off hi v : Nat} (hhi : hi < 32) (hv : v < 2 ^ (hi + 1)) :
    (s.setRfld p off hi 0 v).rfld p off hi 0 = v := by
  rw [State.rfld, State.setRfld, State.setReg_reg_self, fld_setFld_low hhi hv]

/-! ### Frames -/

theorem sizeBin_le (n : Nat) : sizeBin n ≤ 9 := by
  unfold sizeBin
  split_ifs <;> omega

/-- The counters by size stand apart from those by address and from the events. -/
theorem sizeCounter_ne (n : Nat) : MAC_CNT_RX_SIZE0 + 4 * sizeBin n ≠ EVT_STATUS ∧ MAC_CNT_RX_SIZE0 + 4 * sizeBin n ≠ MAC_CNT_RX_UCAST := by
  have hbin := sizeBin_le n
  simp only [MAC_CNT_RX_SIZE0, MAC_CNT_RX_UCAST, EVT_STATUS]
  omega

theorem State.xoffCheck_of_off {s : State} {w : Wy} {p prio : Nat} (h : s.pfcOn w p prio = false) (held : Nat) :
    s.xoffCheck w p prio held = s := by
  rw [State.xoffCheck]
  exact if_pos (by simp [h])

/-- A good unicast frame whose contents no transport takes is counted. -/
theorem State.rxFrame_of_good {s : State} {w : Wy} {p : Nat} {f : Frame} (hfull : f.full = false) (hmin : 64 ≤ f.len)
    (hmax : f.len ≤ s.maxFrame w p) (hfcs : f.fcsOk = true) (hdst : f.dst = .own) (hether : f.ether ∈ acceptedEther) (hvid : f.vid = none)
    (hpay : f.pay = .other) (hpfc : s.pfcOn w p f.prio = false) :
    s.rxFrame w p f = (s.bump (macPage w p) (MAC_CNT_RX_SIZE0 + 4 * sizeBin f.len)).bump (macPage w p) MAC_CNT_RX_UCAST := by
  have hkeeps : Keeps [.pcie, .regs] s ((s.bump (macPage w p) (MAC_CNT_RX_SIZE0 + 4 * sizeBin f.len)).bump (macPage w p) MAC_CNT_RX_UCAST) :=
    State.bump_keeps.step (by decide) State.bump_keeps
  have htrunc : decide (s.maxFrame w p < f.len) = false := decide_eq_false (Nat.not_lt.mpr hmax)
  unfold State.rxFrame
  dsimp only
  rw [if_neg (by simp [hfull]), if_neg (Nat.not_lt.mpr hmin), if_neg (by simp [hfcs]), htrunc,
    if_neg (by simp [hdst, hether, hvid])]
  simp only [Bool.false_eq_true, if_false, hdst, State.toTransport, hpay]
  exact State.xoffCheck_of_off (by rw [hkeeps.pfcOn_eq (by decide), hpfc]) f.held

theorem State.leaveLpi_length (s : State) (w v : Wy) (p : Nat) : ((s.leaveLpi w p).wy v).ports.length = (s.wy v).ports.length := by
  unfold State.leaveLpi
  extract_lets x
  split
  · rw [State.bumpBy_keeps.ports_eq (by decide), State.modPort_length]
  · rfl

theorem State.txEnd_length (s : State) (w v : Wy) (p : Nat) : ((s.txEnd w p).wy v).ports.length = (s.wy v).ports.length := by
  unfold State.txEnd
  split
  · rfl
  · extract_lets g s1 s2 s3 s4
    have h3 : (s3.wy v).ports.length = (s.wy v).ports.length := by
      have h2 : (s2.wy v).ports.length = (s.wy v).ports.length := by
        unfold s2
        rw [State.bump_keeps.ports_eq (by decide), State.bump_keeps.ports_eq (by decide), State.modPort_length]
      unfold s3
      split
      · rw [State.bump_keeps.ports_eq (by decide), h2]
      · exact h2
    split
    · rw [State.emit_keeps.ports_eq (by decide), h3]
    · split
      · rw [State.emit_keeps.ports_eq (by decide), State.setReg_keeps.ports_eq (by decide), State.event_keeps.ports_eq (by decide),
          State.bump_keeps.ports_eq (by decide), h3]
      · rw [State.emit_keeps.ports_eq (by decide), State.bump_keeps.ports_eq (by decide), State.modPort_length, h3]

/-- A frame whose bytes are there, of a priority without PFC, starts. -/
theorem execFrameTransmit_of_whole {s : State} {w : Wy} {p : Fin 4} {f : TxFrame} (taken : Nat)
    (hlink : (s.port w p.val).linkUp = true) (hmax : f.len ≤ s.maxFrame w p.val) (hpfc : s.pfcOn w p.val (s.txPrio w f) = false)
    (hwhole : f.len ≤ f.inFifo) :
    ∃ (s1 : State) (from_ raw : Nat), s.now ≤ from_ ∧ Keeps [.pcie, .ports, .regs] s s1 ∧ (s1.wy w).ports.length = (s.wy w).ports.length
      ∧ execFrameTransmit w p f taken s = .next ((s1.frameOut w p.val f).modPort w p.val (fun x => { x with
          sending := some { frame := f, from_ := from_, raw := raw } })) := by
  unfold execFrameTransmit
  extract_lets n g need held s0 from_ lat raw
  have hneed : need ≤ f.len := by
    unfold need
    split
    · exact Nat.min_le_right ..
    · exact Nat.le_refl _
  have hheld : held = false := by simp only [held, n, hpfc, Bool.false_and]
  refine ⟨s0.leaveLpi w n, from_, raw, Nat.le_add_right .., ?_, ?_, ?_⟩
  · exact State.leaveLpi_keeps.step (by decide) (State.modPort_keeps.step (by decide) State.txEnd_keeps)
  · rw [State.leaveLpi_length, State.modPort_length, State.txEnd_length]
  · rw [if_neg (by simp [n, hlink]), if_neg (Nat.not_lt.mpr hmax), if_neg]
    simp only [hheld, Bool.false_or, decide_eq_true_eq]
    omega

/-- An underrun ends the frame, counts, raises the threshold and tells the issuer. -/
theorem execTransmitUnderrun_of_sending {s : State} {w : Wy} {p : Fin 4} {x : Sending} (hp : p.val < (s.wy w).ports.length)
    (hx : (s.port w p.val).sending = some x) :
    ∃ s1 : State, (s1.port w p.val).sending = none ∧ bitOf (s1.reg (macPage w p.val) EVT_STATUS) MAC_EVT_UNDERRUN = true
      ∧ execTransmitUnderrun w p s = .next ((if 5 ≤ s.rfld (macPage w p.val) MAC_TX_THRESH 2 0
          then s1.recordOpen (srcOf w) 2 (macPage w p.val) []
          else s1.setRfld (macPage w p.val) MAC_TX_THRESH 2 0 (s.rfld (macPage w p.val) MAC_TX_THRESH 2 0 + 1)).emit
            (.txDone w p.val x.frame.cookie false true)) := by
  unfold execTransmitUnderrun
  extract_lets n g
  rw [hx]
  refine ⟨((s.modPort w n (fun y => { y with sending := none, idleAt := s.now })).bump g MAC_CNT_TX_UNDERRUN).event g MAC_EVT_UNDERRUN,
    ?_, State.event_sets_bit (by decide) _ g, rfl⟩
  rw [State.event_keeps.port_eq (by decide), State.bump_keeps.port_eq (by decide), State.modPort_port hp]

/-- Quanta for a priority whose storm is not ignored. -/
theorem execPfcReceive_of_on {s : State} {w : Wy} {p : Fin 4} {prio q : Nat} (hpfc : s.pfcOn w p.val prio = true)
    (hign : ∀ e ∈ (s.port w p.val).ignored, e.1 ≠ prio) :
    execPfcReceive w p [(prio, q)] s = .next ((s.bump (macPage w p.val) MAC_CNT_RX_PFC).modPort w p.val (if q = 0
      then fun x => { x with paused := x.paused.filter (fun y => y.1 ≠ prio) }
      else fun x => { x with paused := x.paused.filter (fun y => y.1 ≠ prio) ++ [(prio,
        (s.bump (macPage w p.val) MAC_CNT_RX_PFC).now + (q * 512 + s.portGbs w - 1) / s.portGbs w,
        (((s.port w p.val).paused.find? (fun y => y.1 = prio && (s.bump (macPage w p.val) MAC_CNT_RX_PFC).now < y.2.1)).map
          (fun y => y.2.2)).getD (s.bump (macPage w p.val) MAC_CNT_RX_PFC).now)] })) := by
  have hk : Keeps [.pcie, .regs] s (s.bump (macPage w p.val) MAC_CNT_RX_PFC) := State.bump_keeps
  have hgbs : (s.bump (macPage w p.val) MAC_CNT_RX_PFC).portGbs w = s.portGbs w := by rw [State.portGbs, hk.portMode_eq (by decide), State.portGbs]
  have hany : (s.port w p.val).ignored.any (fun i => i.1 = prio && (s.bump (macPage w p.val) MAC_CNT_RX_PFC).now < i.2) = false :=
    List.any_eq_false.mpr fun e he => by simp [hign e he]
  unfold execPfcReceive
  simp only [List.foldl_cons, List.foldl_nil, hk.pfcOn_eq (l := [.pcie, .regs]) (by decide), hpfc, hk.port_eq (l := [.pcie, .regs]) (by decide), hany, hgbs,
    Bool.not_true, Bool.or_self, Bool.false_eq_true, if_false]
  split <;> rfl

end Sys2Proof.Machine

namespace Sys2Proof

open Sys2Proof.Machine

/-- Settles O35, row by row. -/
theorem framesAct : Obligations.FramesAct := by
  unfold Obligations.FramesAct
  intro w p s hp
  refine ⟨fun f hlink hfull hmin hmax hfcs hdst hether hvid hpay hpfc => ?_, fun f taken hlink hmax hpfc hwhole => ?_, fun x hx => ?_,
    fun prio q hpfc hign hq => ?_, fun prio hpfc hign => ?_, fun prio => ?_, fun prio hstorm => ?_, fun prio => ?_,
    fun prio held hxoff hheld => ?_⟩
  · obtain ⟨hevt, hucast⟩ := sizeCounter_ne f.len
    refine runs_intro (congrArg Host.Outcome.next ((if_pos hlink).trans
      (State.rxFrame_of_good hfull hmin hmax hfcs hdst hether hvid hpay hpfc))) ⟨?_, ?_⟩
    · rw [State.bump_reg_of_off_ne hucast hevt, State.bump_reg_self hevt]
    · rw [State.bump_reg_self (by decide), State.bump_reg_of_off_ne hucast.symm (by decide)]
  · obtain ⟨s1, from_, raw, hfrom, hkeeps, hlen, hexec⟩ := execFrameTransmit_of_whole taken hlink hmax hpfc hwhole
    refine runs_intro hexec ⟨⟨_, congrArg Port.sending (State.modPort_port ?_ _), rfl, hfrom⟩, State.modPort_keeps.mem_out ?_⟩
    · rw [State.frameOut, State.emit_keeps.ports_eq (by decide), hlen]
      exact hp
    · have hprio : s1.txPrio w f = s.txPrio w f := by cases h : f.kind <;> simp [State.txPrio, h, hkeeps.afld_eq (l := [.pcie, .ports, .regs]) (by decide)]
      have hmark : s1.txMark w f.kind = s.txMark w f.kind := by
        cases h : f.kind <;> simp [State.txMark, hkeeps.afld_eq (l := [.pcie, .ports, .regs]) (by decide)]
      rw [← hprio, ← hmark, ← hkeeps.afld_eq (by decide)]
      exact State.mem_emit_out ..
  · obtain ⟨s1, hsend, hbit, hexec⟩ := execTransmitUnderrun_of_sending hp hx
    refine runs_intro hexec ⟨?_, State.mem_emit_out .., ?_, fun hstep => ?_⟩
    · rw [State.emit_keeps.port_eq (by decide)]
      split
      · rw [State.recordOpen_keeps.port_eq (by decide), hsend]
      · rw [State.setRfld_keeps.port_eq (by decide), hsend]
    · rw [State.emit_reg]
      split
      · rw [State.recordOpen_keeps.reg_eq (by decide), hbit]
      · rw [State.setRfld, State.setReg_reg_of_off_ne (by decide), hbit]
    · rw [State.emit_keeps.rfld_eq (by decide), if_neg (Nat.not_le.mpr hstep)]
      exact State.setRfld_rfld_low (by decide) (by omega)
  · refine runs_intro (execPfcReceive_of_on hpfc hign) ?_
    rw [State.modPort_port (by rwa [State.bump_keeps.ports_eq (by decide)]), if_neg hq]
    exact ⟨_, List.mem_append_right _ (List.mem_singleton.mpr rfl), rfl, by rw [State.bump_now]⟩
  · refine runs_intro (execPfcReceive_of_on hpfc hign) ?_
    rw [State.modPort_port (by rwa [State.bump_keeps.ports_eq (by decide)]), if_pos rfl]
    exact fun e he => of_decide_eq_true (List.mem_filter.mp he).2
  · refine runs_intro rfl ?_
    rw [State.modPort_port hp]
    intro e he heq
    simpa [heq] using (List.mem_filter.mp he).2
  · obtain ⟨e, he, hprio, hsince⟩ := hstorm
    refine runs_intro (congrArg Host.Outcome.next (if_pos (List.any_eq_true.mpr ⟨e, he, ?_⟩))) ?_
    · rw [decide_eq_true hprio, Bool.true_and]
      exact (State.since_ms s e.2.2 100).mpr (by omega)
    · rw [State.recordOpen_keeps.port_eq (by decide), State.event_keeps.port_eq (by decide), State.modPort_port hp,
        State.recordOpen_keeps.reg_eq (by decide)]
      exact ⟨fun e he => of_decide_eq_true (List.mem_filter.mp he).2, List.mem_append_right _ (List.mem_singleton.mpr rfl),
        State.event_sets_bit (by decide) _ _⟩
  · refine runs_intro rfl ?_
    rw [State.modPort_port hp]
    intro e he heq
    simpa [heq] using (List.mem_filter.mp he).2
  · refine runs_intro (congrArg Host.Outcome.next (if_pos ?_)) (State.mem_emit_out ..)
    rw [List.contains_iff_mem.mpr hxoff, decide_eq_true hheld]
    rfl

end Sys2Proof
end

section
/-! PROOFS. Links, Low Power Idle and LLDP (R371, R373, R380, R381): what the obligation on links says. -/

namespace Sys2Proof.Machine

theorem State.leaveLpi_port {s : State} {w : Wy} {p : Nat} (hp : p < (s.wy w).ports.length) :
    (s.leaveLpi w p).port w p = { s.port w p with lpiTx := false } := by
  unfold State.leaveLpi
  extract_lets x
  split
  · rw [State.bumpBy_keeps.port_eq (by decide), State.modPort_port hp]
  · rename_i h
    exact (by simpa using h : (s.port w p).lpiTx = false) ▸ rfl

theorem State.leaveLpi_reg {s : State} {w : Wy} {p : Nat} {q : Page} {off : Nat} (h : pageKey q + off ≠ pageKey (macPage w p) + MAC_CNT_LPI_TIME)
    (he : pageKey q + off ≠ pageKey (macPage w p) + EVT_STATUS) : (s.leaveLpi w p).reg q off = s.reg q off := by
  unfold State.leaveLpi
  extract_lets x
  split
  · rw [State.bumpBy_reg_of_ne h he, State.modPort_reg]
  · rfl

theorem State.agree_length (s : State) (w : Wy) (p : Nat) (on : Bool) (tx rx : Nat) :
    ((s.agree w p on tx rx).wy w).ports.length = (s.wy w).ports.length := by
  unfold State.agree
  extract_lets was s1 s2
  have h2 : (s2.wy w).ports.length = (s.wy w).ports.length := by
    unfold s2
    split
    · exact State.modPort_length ..
    · rw [State.leaveLpi_length]
      exact State.modPort_length ..
  split
  · exact h2
  · rw [State.event_keeps.ports_eq (by decide), h2]

/-- A port's agreement holds what it was made of. -/
theorem State.agree_port {s : State} {w : Wy} {p : Nat} (hp : p < (s.wy w).ports.length) (on : Bool) (tx rx : Nat) :
    ((s.agree w p on tx rx).port w p).agreed = on ∧ ((s.agree w p on tx rx).port w p).twTx = tx
      ∧ ((s.agree w p on tx rx).port w p).twRx = rx := by
  unfold State.agree
  extract_lets was s1 s2
  have h1 : s1.port w p = { s.port w p with agreed := on, twTx := tx, twRx := rx } := State.modPort_port hp _
  have hp1 : p < (s1.wy w).ports.length := (State.modPort_length s w w p _).symm ▸ hp
  have h2 : (s2.port w p).agreed = on ∧ (s2.port w p).twTx = tx ∧ (s2.port w p).twRx = rx := by
    unfold s2
    split
    · rw [h1]
      exact ⟨rfl, rfl, rfl⟩
    · rw [State.leaveLpi_port hp1, h1]
      exact ⟨rfl, rfl, rfl⟩
  split
  · exact h2
  · rw [State.event_keeps.port_eq (by decide)]
    exact h2

theorem State.agree_reg {s : State} {w : Wy} {p : Nat} {on : Bool} {tx rx off : Nat} (h : off ≠ MAC_CNT_LPI_TIME) (he : off ≠ EVT_STATUS) :
    (s.agree w p on tx rx).reg (macPage w p) off = s.reg (macPage w p) off := by
  unfold State.agree
  extract_lets was s1 s2
  have h2 : s2.reg (macPage w p) off = s.reg (macPage w p) off := by
    unfold s2
    split
    · exact State.modPort_reg ..
    · rw [State.leaveLpi_reg (by omega) (by omega)]
      exact State.modPort_reg ..
  split
  · exact h2
  · rw [State.event_reg_of_off_ne he, h2]

/-- With nothing under way no frame leaves. -/
theorem State.txDue_of_idle {s : State} (h : ∀ v n, (s.port v n).sending = none) : s.txDue = s := by
  refine List.foldl_fixed' (fun w => ?_) _
  refine List.foldl_fixed' (fun p => ?_) _
  rw [h w p]

theorem State.lldpIfNew_port (old s : State) (w : Wy) (p : Nat) : (old.lldpIfNew s w p).port w p = s.port w p := by
  unfold State.lldpIfNew
  extract_lets same
  split
  · rfl
  · exact State.emit_keeps.port_eq (by decide) w p

end Sys2Proof.Machine

namespace Sys2Proof

open Sys2Proof.Machine

/-- Settles O36, row by row. -/
theorem linksAct : Obligations.LinksAct := by
  unfold Obligations.LinksAct
  intro w p s hp
  refine ⟨fun hup => ?_, fun hdown hmode hheld hunit hgoal => ?_, fun hdown hlate => ?_, fun hup hlate => ?_,
    fun hidle hen hagreed hup hlpi hlate => ?_, fun hup => ?_, fun r tx hr => ?_, ?_⟩
  · have hp1 : p.val < ((s.agree w p.val false 0 0).wy w).ports.length := by rwa [State.agree_length]
    refine runs_intro (congrArg Host.Outcome.next (if_neg (by simp [hup]))) ?_
    rw [State.event_keeps.port_eq (by decide), State.bump_keeps.port_eq (by decide), State.modPort_port hp1,
      State.event_reg_of_off_ne (by decide), State.bump_reg_self (by decide), State.modPort_reg, State.agree_reg (by decide) (by decide)]
    exact ⟨rfl, (State.agree_port hp false 0 0).1, rfl, State.event_sets_bit (by decide) _ _⟩
  · have hexec : exec (.linkUp w p) s = .next ((s.modPort w p.val (fun x => { x with
        linkUp := true, trained := true, changed := s.now, idleAt := s.now })).event (macPage w p.val) MAC_EVT_LINK_CHANGE) := by
      refine congrArg Host.Outcome.next (if_neg ?_)
      simp [hmode, hdown, hheld, hunit, hgoal]
    refine runs_intro hexec ?_
    rw [State.event_keeps.port_eq (by decide), State.modPort_port hp]
    exact ⟨rfl, rfl, State.event_sets_bit (by decide) _ _⟩
  · have hexec : exec (.portDownReport w p) s = .next (s.modPort w p.val (fun x => { x with reported := true })) := by
      refine congrArg Host.Outcome.next (if_pos ?_)
      rw [hdown, decide_eq_true (show (s.port w p.val).changed + sec 1 < s.now from hlate)]
      rfl
    refine runs_intro hexec ?_
    rw [State.modPort_port hp]
  · have hexec : exec (.portAddressRestore w p) s = .next (s.modPort w p.val (fun x => { x with reported := false })) := by
      refine congrArg Host.Outcome.next (if_pos ?_)
      rw [hup, (State.since_sec s _ 10).mpr (by omega)]
      rfl
    refine runs_intro hexec ?_
    rw [State.modPort_port hp]
  · have hexec : exec (.lpiEntry w p) s = .next ((s.modPort w p.val (fun x => { x with lpiTx := true, lpiAt := s.now })).bump
        (macPage w p.val) MAC_CNT_LPI_ENTRY) := by
      show execLpiEntry w p s = _
      unfold execLpiEntry
      rw [State.txDue_of_idle hidle]
      dsimp only
      rw [if_pos]
      rw [hen, hagreed, hup, hlpi, hidle, (State.since_us s _ _).mpr hlate]
      rfl
    refine runs_intro hexec ?_
    rw [State.bump_keeps.port_eq (by decide), State.modPort_port hp, State.bump_reg_self (by decide), State.modPort_reg]
    exact ⟨rfl, rfl⟩
  · exact runs_intro (congrArg Host.Outcome.next (if_pos hup)) (State.mem_emit_out ..)
  · refine runs_intro (congrArg Host.Outcome.next (congrArg (fun t => State.lldpIfNew s t w p.val) (if_pos hr))) ?_
    obtain ⟨h1, h2, h3⟩ := State.agree_port hp true (max r (Config.phyMinTw (s.wy w).portMode)) tx
    rw [State.lldpIfNew_port]
    exact ⟨h1, h3, h2⟩
  · refine runs_intro rfl ?_
    rw [State.lldpIfNew_port]
    exact (State.agree_port hp false 0 0).1

end Sys2Proof
end

section
/-! PROOFS. RoCEv2 connections and the PTP clock (R387, R388, R392, R394): what the obligation on them says. -/

namespace Sys2Proof.Machine

theorem Keeps.pair_eq {l : List Part} {s t : State} (h : Keeps l s t) (hl : .pairs ∉ l) (w : Wy) (q : Nat) : t.pair w q = s.pair w q := by
  rw [State.pair, State.pair, h.pairs_eq hl]

theorem State.modPair_pair {s : State} {w : Wy} {q : Nat} {x : RocePair} {f : RocePair → RocePair} (hf : ∀ y, (f y).q = y.q)
    (hx : s.pair w q = some x) : (s.modPair w q f).pair w q = some (f x) := by
  rw [State.pair] at hx
  rw [State.pair, State.modPair, State.modWy_wy, find?_updFirst (fun y hy => by simpa [hf] using hy), hx]
  rfl

theorem Keeps.portGbs_eq {l : List Part} {s t : State} (h : Keeps l s t) (hl : .portMode ∉ l) (w : Wy) : t.portGbs w = s.portGbs w := by
  rw [State.portGbs, State.portGbs, h.portMode_eq hl]

/-- A request that an open port can serve makes a queue and its pair. -/
theorem execCmRequest_of_room {s : State} {w : Wy} {p : Fin 4} {src : BitVec 128} {mtu m : Nat} (hserv : (s.wy w).serving = true)
    (hlink : (s.port w p.val).linkUp = true) (hfit : ((s.offered w p.val).filter (fun m => decide (m ≤ mtu))).getLast? = some m)
    (hroom : (s.wy w).relief.queues.length < 1024) :
    ∃ (x : Queue) (y : RocePair), x.st = .opened ∧ x.transport = .roce m src ∧ execCmRequest w p src mtu false s
      = .next (((s.used.modRelief w (fun r => { r with queues := r.queues ++ [x] })).modWy w (fun z => { z with
        pairs := z.pairs ++ [y] })).emit (.cmReply w p.val (some (x.idx, m)))) := by
  unfold execCmRequest
  extract_lets no r fit used q y
  rw [if_neg (by simp [hserv, hlink]), if_neg (by decide), show fit.getLast? = some m from hfit]
  dsimp only
  rw [if_neg (Nat.not_le.mpr hroom)]
  clear_value q
  exact ⟨_, _, rfl, rfl, rfl⟩

theorem execRoceAckTimeout_of_retry {s : State} {w : Wy} {q : Nat} {x : RocePair} (hx : s.pair w q = some x)
    (hretry : x.retries < s.afld (.rdm w) RDM_CTRL 18 16) :
    execRoceAckTimeout w q s = .next ((((s.bump (.rdm w) RDM_CNT_ACK_TIMEOUT).modPair w q (fun x => { x with
      retries := x.retries + 1 })).bump (.rdm w) RDM_CNT_RETX).emit (.resend w q)) := by
  unfold execRoceAckTimeout
  rw [hx]
  exact congrArg Host.Outcome.next (if_neg (Nat.not_le.mpr hretry))

theorem execRateIncrease_of_due {s : State} {w : Wy} {q : Nat} {x : RocePair} (hx : s.pair w q = some x) (hdue : x.rateAt + 55000 ≤ s.now) :
    execRateIncrease w q s = .next (s.modPair w q (fun x => { x with
      rate := min ((1000 * s.portGbs w : Nat) : Rat) (x.rate + (s.afld (.rdm w) RDM_CNP_CTRL 25 16 : Nat))
      alpha := x.alpha - x.alpha / 256
      rateAt := s.now })) := by
  unfold execRateIncrease
  rw [hx]
  refine congrArg Host.Outcome.next (if_neg ?_)
  rw [(State.since_us s _ 55).mpr (by omega)]
  decide

/-- The offset of an edge stands in its register, whatever else the edge causes. -/
theorem execPpsEdge_of_on {s : State} {w : Wy} (hon : s.afld (.ptp w) PTP_PPS_CTRL 1 1 = 1) :
    ∃ t, execPpsEdge w s = .next t ∧ t.reg (.ptp w) PTP_PPS_IN_NS = word (ofSigned 32 (s.ppsOffset w)) := by
  unfold execPpsEdge
  extract_lets o s1 s2
  refine ⟨_, congrArg Host.Outcome.next (if_neg (by simp [hon])), ?_⟩
  have h2 : s2.reg (.ptp w) PTP_PPS_IN_NS = word (ofSigned 32 o) := by
    unfold s2
    split
    · rw [State.event_reg_of_off_ne (by decide), State.bump_reg_of_off_ne (by decide) (by decide)]
      exact State.setReg_reg_self ..
    · exact State.setReg_reg_self ..
  split
  · rw [State.reg, State.modWy_regs]
    exact h2
  · exact h2

end Sys2Proof.Machine

namespace Sys2Proof

open Sys2Proof.Machine

/-- Settles O37, row by row. -/
theorem connectionsAndClockAct : Obligations.ConnectionsAndClockAct := by
  unfold Obligations.ConnectionsAndClockAct
  intro w s
  refine ⟨fun p src mtu m hserv hlink hfit hroom => ?_, fun q x hx hretry => ?_, fun q x hx hon => ?_, fun q x hx hdue => ?_,
    fun hon => ⟨?_, ?_⟩, fun hon => ?_, fun src harr => ?_⟩
  · obtain ⟨x, y, hst, htrans, hexec⟩ := execCmRequest_of_room (src := src) hserv hlink hfit hroom
    refine runs_intro hexec ⟨x.idx, State.mem_emit_out .., x, ?_, rfl, hst, htrans⟩
    rw [State.emit_keeps.relief_eq (by decide), State.modWy_wy, State.modRelief_wy]
    exact List.mem_append_right _ (List.mem_singleton.mpr rfl)
  · refine runs_intro (execRoceAckTimeout_of_retry hx hretry) ⟨State.mem_emit_out .., { x with retries := x.retries + 1 }, ?_, rfl⟩
    rw [State.emit_keeps.pair_eq (by decide), State.bump_keeps.pair_eq (by decide)]
    exact State.modPair_pair (fun _ => rfl) ((State.bump_keeps.pair_eq (by decide) w q).trans hx)
  · refine runs_intro (congrArg Host.Outcome.next (if_pos hon)) ⟨_, State.modPair_pair ?_ ((State.bump_keeps.pair_eq (by decide) w q).trans hx),
      rfl, rfl⟩
    exact fun _ => rfl
  · refine runs_intro (execRateIncrease_of_due hx hdue) ⟨_, State.modPair_pair ?_ hx, rfl, rfl, rfl⟩
    exact fun _ => rfl
  · obtain ⟨t, hexec, hreg⟩ := execPpsEdge_of_on hon
    exact runs_intro hexec hreg
  · refine runs_intro (congrArg Host.Outcome.next (if_neg (by simp [hon]))) ⟨?_, State.event_sets_bit (by decide) _ _⟩
    rw [State.event_reg_of_off_ne (by decide), State.bump_reg_self (by decide)]
  · exact runs_intro (congrArg Host.Outcome.next (if_neg (by simp [hon]))) (State.mem_emit_out ..)
  · refine runs_intro (congrArg Host.Outcome.next (State.readGate_of_readArrives harr)) ?_
    rw [State.emit_reg, State.emit_reg, State.latchPtp, State.setReg_reg_self, State.setReg_reg_of_off_ne (by decide), State.setReg_reg_self]
    exact ⟨State.mem_emit_out .., rfl, rfl⟩

end Sys2Proof
end

section
/-! PROOFS. A held chisel request is reported: with its event enabled it sends an interrupt. -/

namespace Sys2Proof.Machine

/-- A read of die 0 of channel 0, which course 3 serves. -/
def heldRequest : ChReq :=
  { flags := 2, cls := 0, die := 0, channel := 0, planes := 1, cw := 1, retry := 1, blocks := [16], page := 0, erases := 0,
    offsets := [], res35 := 0, buffer := 0, bufOff := 0, cookie := 0, seq := 0, time := 0, slots := [], sources := [] }

/-- A brick whose course 3 takes no request, with the event of a held request enabled and its interrupt vector on. -/
def heldEventArmed : State :=
  (((State.reset.setAct (.crs .w0 3) CRS_CHISEL_CTRL 0).setReg (.crs .w0 3) EVT_ENABLE (word (2 ^ CRS_EVT_LIMIT_HELD))).setReg
    (.glb .w0) GLB_EVT_VECTOR (word 256)).modPcie .w0 (fun e => { e with bme := true })

end Sys2Proof.Machine

namespace Sys2Proof
open Sys2Proof.Machine

/-- Refutes O29: a request over a limit raises the event of its course's page (R344, R357), and where that event is enabled with an
interrupt vector the brick puts an MSI-X message out. -/
theorem not_chiselRequestsAccepted : ¬ Obligations.ChiselRequestsAccepted := by
  unfold Obligations.ChiselRequestsAccepted
  intro h
  obtain ⟨-, -, held⟩ := h .read .w0 heldRequest heldEventArmed (by decide)
  obtain ⟨t, run, -, quiet⟩ := held (by decide)
  have sent : (heldEventArmed.submit .w0 .read heldRequest .firmware).out = [.msix .w0 0] := by decide
  have next : heldEventArmed.submit .w0 .read heldRequest .firmware = t := Host.Outcome.next.inj run
  rw [next, quiet] at sent
  exact absurd sent (by decide)

end Sys2Proof
end

section
/-! PROOFS. What completing a command leaves of a queue's connection: the queues but for their HELLO and their event number, the queue
pages but for what is written to their completion ring, and the endpoint. -/

namespace Sys2Proof.Machine

/-! ### The record of a queue page -/

theorem find?_upsert_of_ne {α : Type} {p q : α → Bool} {f : α → α} {new : α} (hne : ∀ a, q a = true → p a = false)
    (hf : ∀ a, p a = true → q (f a) = false) (hnew : q new = false) (l : List α) : (upsert p f new l).find? q = l.find? q := by
  have first : ∀ l : List α, (updFirst p f l).find? q = l.find? q := by
    intro l
    induction l with
    | nil => rfl
    | cons a l ih =>
      unfold updFirst
      split
      · next ha =>
        have hq : q a = false := by
          by_contra hq
          simp [hne a (by simpa using hq)] at ha
        rw [List.find?_cons_of_neg (by simp [hf a ha]), List.find?_cons_of_neg (by simp [hq])]
      · rw [List.find?_cons, List.find?_cons, ih]
  unfold upsert
  split
  · exact first l
  · rw [List.find?_append, List.find?_singleton, if_neg (by simp [hnew]), Option.or_none]

theorem qpage_upsert_self {e : Pcie} {n : Nat} {f : QPage → QPage} (hf : ∀ p, (f p).n = p.n) :
    qpage { e with pages := upsert (fun p => p.n = n) f (f (QPage.reset n)) e.pages } n = f (qpage e n) := by
  unfold qpage upsert
  dsimp only
  split
  · next hany =>
    obtain ⟨a, ha⟩ := Option.isSome_iff_exists.mp (List.isSome_find?.trans hany)
    rw [find?_updFirst (fun p hp => by simpa [hf] using hp), ha, Option.map_some, Option.getD_some, Option.getD_some]
  · next hany =>
    have hnone : e.pages.find? (fun p => decide (p.n = n)) = none := List.find?_eq_none.mpr (by simpa using hany)
    rw [List.find?_append, hnone, Option.none_or, List.find?_singleton, if_pos (by simp [hf, QPage.reset]), Option.getD_some,
      Option.getD_none]

theorem qpage_upsert_of_ne {e : Pcie} {n m : Nat} {f : QPage → QPage} (hf : ∀ p, (f p).n = p.n) (hm : m ≠ n) :
    qpage { e with pages := upsert (fun p => p.n = n) f (f (QPage.reset n)) e.pages } m = qpage e m := by
  unfold qpage
  dsimp only
  rw [find?_upsert_of_ne]
  · intro p hp
    simpa using fun h => hm ((of_decide_eq_true hp).symm.trans h)
  · intro p hp
    simpa [hf] using fun h => hm (h.symm.trans (of_decide_eq_true hp))
  · simpa [hf, QPage.reset] using fun h => hm h.symm

theorem qpage_modPage_self {s : State} {w : Wy} {n : Nat} {f : QPage → QPage} (hf : ∀ p, (f p).n = p.n) :
    qpage ((s.modPage w n f).wy w).pcie n = f (qpage (s.wy w).pcie n) := by
  rw [State.modPage, State.modPcie_wy]
  exact qpage_upsert_self hf

/-! ### What completing a command keeps -/

/-- A queue but for its HELLO and the number of its last event. -/
def Queue.core (x : Queue) : Queue := { x with helloDone := true, evtSeq := 0 }

/-- A command but for the chunks it sends. -/
def Cmd.core (c : Cmd) : Cmd := { c with wchunks := [] }

/-- A queue page but for its completion ring. -/
def QPage.core (p : QPage) : QPage := { p with held := [], cqTail := 0, writes := 0 }

/-- An endpoint but for its queue pages and its MSI-X table. -/
def Pcie.core (e : Pcie) : Pcie := { e with pages := [], msix := [] }

/-- A wythe's Relief state but for its queues and commands. -/
def Relief.core (r : Relief) : Relief := { r with queues := [], cmds := [] }

/-- From one state of a wythe to another, the queues, the endpoint and its queue pages stay but for their HELLO, their event numbers and
their completion rings; commands may end, and none comes. -/
structure LinkKept (y z : Wythe) : Prop where
  queues : z.relief.queues.map Queue.core = y.relief.queues.map Queue.core
  cmds : ∀ c ∈ z.relief.cmds, ∃ d ∈ y.relief.cmds, c.core = d.core
  relief : z.relief.core = y.relief.core
  pages : ∀ n, (qpage z.pcie n).core = (qpage y.pcie n).core
  pcie : z.pcie.core = y.pcie.core

/-- The connections of both wythes stay. -/
def LinkKeeps (s t : State) : Prop := ∀ w, LinkKept (s.wy w) (t.wy w)

theorem LinkKept.refl {y : Wythe} : LinkKept y y := ⟨rfl, fun c hc => ⟨c, hc, rfl⟩, rfl, fun _ => rfl, rfl⟩

theorem LinkKept.trans {y z u : Wythe} (h : LinkKept y z) (k : LinkKept z u) : LinkKept y u := by
  refine ⟨k.queues.trans h.queues, fun c hc => ?_, k.relief.trans h.relief, fun n => (k.pages n).trans (h.pages n), k.pcie.trans h.pcie⟩
  obtain ⟨d, hd, e⟩ := k.cmds c hc
  obtain ⟨d', hd', e'⟩ := h.cmds d hd
  exact ⟨d', hd', e.trans e'⟩

theorem LinkKept.of_eq {y z : Wythe} (hr : z.relief = y.relief) (hp : z.pcie = y.pcie) : LinkKept y z :=
  ⟨by rw [hr], fun c hc => ⟨c, hr ▸ hc, rfl⟩, by rw [hr], fun n => by rw [hp], by rw [hp]⟩

theorem LinkKeeps.refl {s : State} : LinkKeeps s s := fun _ => .refl

theorem LinkKeeps.step {s t u : State} (k : LinkKeeps t u) (h : LinkKeeps s t) : LinkKeeps s u := fun w => (h w).trans (k w)

theorem LinkKeeps.modWy {s t : State} {w : Wy} {f : Wythe → Wythe} (hf : LinkKept (t.wy w) (f (t.wy w))) (h : LinkKeeps s t) :
    LinkKeeps s (t.modWy w f) := by
  refine .step (fun v => ?_) h
  cases w <;> cases v <;> first | exact hf | exact .refl

/-- An operation that keeps the Relief state and the endpoint keeps the connections. -/
theorem LinkKeeps.keep {m : List Part} {s t u : State} (k : Keeps m t u) (hm : (m.contains .relief || m.contains .pcie) = false)
    (h : LinkKeeps s t) : LinkKeeps s u := by
  obtain ⟨hr, hp⟩ := Bool.or_eq_false_iff.mp hm
  exact .step (fun w => .of_eq (k.relief_eq (by simpa using hr) w) (k.pcie_eq (by simpa using hp) w)) h

theorem LinkKeeps.foldl {α : Type} {s u : State} {f : State → α → State} {xs : List α} (hf : ∀ v a, LinkKeeps v (f v a))
    (h : LinkKeeps s u) : LinkKeeps s (xs.foldl f u) := by
  induction xs generalizing u with
  | nil => exact h
  | cons a xs ih => exact ih ((hf u a).step h)

theorem LinkKeeps.ite {s t u : State} {c : Prop} [Decidable c] (ht : LinkKeeps s t) (hu : LinkKeeps s u) :
    LinkKeeps s (if c then t else u) := by
  split
  · exact ht
  · exact hu

theorem map_core_updFirst {α β : Type} {p : α → Bool} {f : α → α} {g : α → β} (hf : ∀ a, g (f a) = g a) (l : List α) :
    (updFirst p f l).map g = l.map g := by
  induction l with
  | nil => rfl
  | cons a l ih =>
    unfold updFirst
    split
    · rw [List.map_cons, List.map_cons, hf]
    · rw [List.map_cons, List.map_cons, ih]

theorem LinkKeeps.modQueue {s t : State} {w : Wy} {q : Nat} {f : Queue → Queue} (hf : ∀ x, (f x).core = x.core) (h : LinkKeeps s t) :
    LinkKeeps s (t.modQueue w q f) :=
  h.modWy ⟨map_core_updFirst hf _, fun c hc => ⟨c, hc, rfl⟩, rfl, fun _ => rfl, rfl⟩

theorem LinkKeeps.modPage {s t : State} {w : Wy} {n : Nat} {f : QPage → QPage} (hn : ∀ p, (f p).n = p.n) (hf : ∀ p, (f p).core = p.core)
    (h : LinkKeeps s t) : LinkKeeps s (t.modPage w n f) := by
  refine h.modWy ⟨rfl, fun c hc => ⟨c, hc, rfl⟩, rfl, fun m => ?_, rfl⟩
  by_cases hm : m = n
  · rw [hm, qpage_upsert_self hn, hf]
  · rw [qpage_upsert_of_ne hn hm]

theorem LinkKeeps.modMsix {s t : State} {w : Wy} {f : List MsixEntry → List MsixEntry} (h : LinkKeeps s t) :
    LinkKeeps s (t.modPcie w (fun e => { e with msix := f e.msix })) :=
  h.modWy ⟨rfl, fun c hc => ⟨c, hc, rfl⟩, rfl, fun _ => rfl, rfl⟩

theorem State.sendMsix_link {s : State} {w : Wy} {v : Nat} : LinkKeeps s (State.sendMsix s w v) := by
  unfold State.sendMsix
  dsimp only
  split
  · split
    · exact .modMsix (f := fun l => upsert _ _ _ l) .refl
    · exact .keep State.emit_keeps rfl .refl
  · exact .refl

theorem State.writeStatus_link {s : State} {w : Wy} {n : Nat} : LinkKeeps s (State.writeStatus s w n) := by
  unfold State.writeStatus
  dsimp only
  split
  · exact State.sendMsix_link.step (.keep State.emit_keeps rfl (.modPage (fun _ => rfl) (fun _ => rfl) .refl))
  · exact .keep State.emit_keeps rfl (.modPage (fun _ => rfl) (fun _ => rfl) .refl)

theorem State.drainRing_link {s : State} {w : Wy} {page n : Nat} : LinkKeeps s (State.drainRing s w page n) := by
  induction n generalizing s with
  | zero => exact .refl
  | succ n ih =>
    unfold State.drainRing
    dsimp only
    split
    · exact .refl
    · split
      · exact .refl
      · refine .step ih ?_
        split
        · exact .keep State.tagFreed_keeps rfl (.modPage (fun _ => rfl) (fun _ => rfl) (.keep State.emit_keeps rfl .refl))
        · exact .modPage (fun _ => rfl) (fun _ => rfl) (.keep State.emit_keeps rfl .refl)

theorem State.dropCmd_link {s : State} {w : Wy} {id : Nat} : LinkKeeps s (State.dropCmd s w id) :=
  LinkKeeps.refl.modWy ⟨rfl, fun c hc => ⟨c, (List.mem_filter.mp hc).1, rfl⟩, rfl, fun _ => rfl, rfl⟩

theorem mem_updFirst {α : Type} {p : α → Bool} {f : α → α} {a : α} {l : List α} (h : a ∈ updFirst p f l) : a ∈ l ∨ ∃ b ∈ l, a = f b := by
  induction l with
  | nil => cases h
  | cons b l ih =>
    unfold updFirst at h
    split at h
    · rcases List.mem_cons.mp h with rfl | h
      · exact .inr ⟨b, List.mem_cons_self, rfl⟩
      · exact .inl (List.mem_cons_of_mem _ h)
    · rcases List.mem_cons.mp h with rfl | h
      · exact .inl List.mem_cons_self
      · rcases ih h with h | ⟨c, hc, rfl⟩
        · exact .inl (List.mem_cons_of_mem _ h)
        · exact .inr ⟨c, List.mem_cons_of_mem _ hc, rfl⟩

theorem LinkKeeps.modCmd {s t : State} {w : Wy} {id : Nat} {f : Cmd → Cmd} (hf : ∀ c, (f c).core = c.core) (h : LinkKeeps s t) :
    LinkKeeps s (t.modCmd w id f) := by
  refine h.modWy ⟨rfl, fun c hc => ?_, rfl, fun _ => rfl, rfl⟩
  rcases mem_updFirst hc with hc | ⟨d, hd, rfl⟩
  · exact ⟨c, hc, rfl⟩
  · exact ⟨d, hd, hf d⟩

theorem LinkKeeps.setJobRuns {s t : State} {l : List (Wy × JobRef × TileKind × List (Fin 128))} (h : LinkKeeps s t) : LinkKeeps s { t with jobRuns := l } := by
  refine .step (fun w => ?_) h
  cases w <;> exact .refl

theorem State.pendMsix_link {s : State} {w : Wy} :
    LinkKeeps s (State.pendMsix s w) := by
  unfold State.pendMsix
  repeat' first
    | with_reducible exact LinkKeeps.refl
    | with_reducible apply LinkKeeps.step State.sendMsix_link
    | rfl
    | split

theorem State.becamePending_link {s : State} {p : Page} {before : Bool} :
    LinkKeeps s (State.becamePending s p before) := by
  unfold State.becamePending
  repeat' first
    | with_reducible exact LinkKeeps.refl
    | with_reducible apply LinkKeeps.step State.pendMsix_link
    | rfl
    | split

theorem State.setEvt_link {s : State} {p : Page} {bitsSet : Word} :
    LinkKeeps s (State.setEvt s p bitsSet) := by
  unfold State.setEvt
  try dsimp only
  repeat' first
    | with_reducible exact LinkKeeps.refl
    | with_reducible apply LinkKeeps.keep State.setReg_keeps
    | with_reducible apply LinkKeeps.step State.becamePending_link
    | rfl

theorem State.event_link {s : State} {p : Page} {n : Nat} :
    LinkKeeps s (State.event s p n) := by
  unfold State.event
  repeat' first
    | with_reducible exact LinkKeeps.refl
    | with_reducible apply LinkKeeps.step State.setEvt_link

theorem State.bumpBy_link {s : State} {p : Page} {off n : Nat} :
    LinkKeeps s (State.bumpBy s p off n) := by
  unfold State.bumpBy
  try dsimp only
  repeat' first
    | with_reducible exact LinkKeeps.refl
    | with_reducible apply LinkKeeps.keep State.setReg_keeps
    | with_reducible apply LinkKeeps.step State.event_link
    | rfl
    | split

theorem State.bump_link {s : State} {p : Page} {off : Nat} :
    LinkKeeps s (State.bump s p off) := by
  unfold State.bump
  repeat' first
    | with_reducible exact LinkKeeps.refl
    | with_reducible apply LinkKeeps.step State.bumpBy_link

theorem State.jobSent_link {s : State} {w : Wy} {t : Fin 128} :
    LinkKeeps s (State.jobSent s w t) := by
  unfold State.jobSent
  repeat' first
    | with_reducible exact LinkKeeps.refl
    | with_reducible apply LinkKeeps.step State.bump_link

theorem State.jobGone_link {s : State} {w : Wy} {t : Fin 128} :
    LinkKeeps s (State.jobGone s w t) := by
  unfold State.jobGone
  repeat' first
    | with_reducible exact LinkKeeps.refl
    | with_reducible apply LinkKeeps.step State.bump_link

theorem State.handOut_link {s : State} {w : Wy} {q : Nat} {m : BusMsg} :
    LinkKeeps s (State.handOut s w q m) := by
  unfold State.handOut
  try dsimp only
  repeat' first
    | with_reducible exact LinkKeeps.refl
    | with_reducible apply LinkKeeps.keep State.tagFreed_keeps
    | with_reducible apply LinkKeeps.step State.writeStatus_link
    | with_reducible apply LinkKeeps.modPage
    | with_reducible apply LinkKeeps.step State.drainRing_link
    | with_reducible apply LinkKeeps.keep State.emit_keeps
    | rfl
    | (intro _; rfl)
    | split

theorem State.pushFlow_link {s : State} {w : Wy} {b : Nat} {bw : Wy} {n : Nat} :
    LinkKeeps s (State.pushFlow s w b bw n) := by
  unfold State.pushFlow
  try dsimp only
  repeat' first
    | with_reducible exact LinkKeeps.refl
    | with_reducible apply LinkKeeps.keep State.used_keeps
    | with_reducible apply LinkKeeps.keep State.emitAll_keeps
    | with_reducible apply LinkKeeps.step State.bumpBy_link
    | with_reducible apply LinkKeeps.keep State.modFlow_keeps
    | rfl
    | split

theorem State.flowSend_link {s : State} {w : Wy} {b : Nat} {bw : Wy} {n : Nat} {addr : BitVec 128} {m : MortarBody} :
    LinkKeeps s (State.flowSend s w b bw n addr m) := by
  unfold State.flowSend
  try dsimp only
  repeat' first
    | with_reducible exact LinkKeeps.refl
    | with_reducible apply LinkKeeps.step State.pushFlow_link
    | with_reducible apply LinkKeeps.keep State.openFlow_keeps
    | with_reducible apply LinkKeeps.keep State.modFlow_keeps
    | rfl

theorem State.mortarTo_link {s : State} {w : Wy} {dst : Nat} {dstW : Wy} {addr : BitVec 128} {b : MortarBody} :
    LinkKeeps s (State.mortarTo s w dst dstW addr b) := by
  unfold State.mortarTo
  try dsimp only
  repeat' first
    | with_reducible exact LinkKeeps.refl
    | with_reducible apply LinkKeeps.keep State.emit_keeps
    | with_reducible apply LinkKeeps.step State.flowSend_link
    | with_reducible apply LinkKeeps.keep State.used_keeps
    | rfl
    | split

theorem State.mortarOut_link {s : State} {w : Wy} {dst : Nat} {dstW : Wy} {b : MortarBody} :
    LinkKeeps s (State.mortarOut s w dst dstW b) := by
  unfold State.mortarOut
  repeat' first
    | with_reducible exact LinkKeeps.refl
    | with_reducible apply LinkKeeps.step State.mortarTo_link
    | with_reducible apply LinkKeeps.keep State.used_keeps
    | rfl

theorem State.sendBatch_link {s : State} {b : DeltaBatch} :
    LinkKeeps s (State.sendBatch s b) := by
  unfold State.sendBatch
  try dsimp only
  repeat' first
    | with_reducible exact LinkKeeps.refl
    | with_reducible apply LinkKeeps.step State.mortarOut_link
    | with_reducible apply LinkKeeps.keep State.modRefs_keeps
    | rfl
    | split

theorem State.addDeltaTo_link {s : State} {p g : Nat} {recount : Bool} {e : DeltaEntry} :
    LinkKeeps s (State.addDeltaTo s p g recount e) := by
  unfold State.addDeltaTo
  try dsimp only
  repeat' first
    | with_reducible exact LinkKeeps.refl
    | with_reducible apply LinkKeeps.step State.sendBatch_link
    | with_reducible apply LinkKeeps.keep State.modRefs_keeps
    | rfl
    | split

theorem State.addDelta_link {s : State} {p : Nat} {e : DeltaEntry} :
    LinkKeeps s (State.addDelta s p e) := by
  unfold State.addDelta
  repeat' first
    | with_reducible exact LinkKeeps.refl
    | with_reducible apply LinkKeeps.step State.addDeltaTo_link

theorem State.addDeltas_link {s : State} {p : Nat} {l : List DeltaEntry} :
    LinkKeeps s (State.addDeltas s p l) := by
  unfold State.addDeltas
  try dsimp only
  repeat' first
    | with_reducible exact LinkKeeps.refl
    | with_reducible apply LinkKeeps.step State.addDelta_link
    | (with_reducible apply LinkKeeps.foldl; intro _ _; try dsimp only)

theorem State.takeAt_link {s : State} {w : Wy} {n i : Nat} {r : BufReq} :
    LinkKeeps s (State.takeAt s w n i r) := by
  unfold State.takeAt
  try dsimp only
  repeat' first
    | with_reducible exact LinkKeeps.refl
    | with_reducible apply LinkKeeps.keep State.modPool_keeps
    | with_reducible apply LinkKeeps.keep State.modBuf_keeps
    | with_reducible apply LinkKeeps.step State.bump_link
    | with_reducible apply LinkKeeps.step State.event_link
    | with_reducible apply LinkKeeps.keep State.bpmAnswer_keeps
    | rfl
    | split

theorem State.serveWait_link {s : State} {w : Wy} {n i : Nat} :
    LinkKeeps s (State.serveWait s w n i) := by
  unfold State.serveWait
  try dsimp only
  repeat' first
    | with_reducible exact LinkKeeps.refl
    | with_reducible apply LinkKeeps.step State.takeAt_link
    | with_reducible apply LinkKeeps.keep State.modBpm_keeps
    | rfl
    | split

theorem State.dropCount_link {s : State} {w : Wy} {n i : Nat} :
    LinkKeeps s (State.dropCount s w n i) := by
  unfold State.dropCount
  try dsimp only
  repeat' first
    | with_reducible exact LinkKeeps.refl
    | with_reducible apply LinkKeeps.step State.serveWait_link
    | with_reducible apply LinkKeeps.keep State.modPool_keeps
    | with_reducible apply LinkKeeps.keep State.modBuf_keeps
    | rfl
    | split

theorem State.bufOp_link {s : State} {w : Wy} {op : BufOp} {requester handle cookie : Nat} :
    LinkKeeps s (State.bufOp s w op requester handle cookie) := by
  unfold State.bufOp
  try dsimp only
  repeat' first
    | with_reducible exact LinkKeeps.refl
    | with_reducible apply LinkKeeps.step State.bump_link
    | with_reducible apply LinkKeeps.keep State.bpmAnswer_keeps
    | with_reducible apply LinkKeeps.keep State.pageError_keeps
    | with_reducible apply LinkKeeps.step State.dropCount_link
    | with_reducible apply LinkKeeps.keep State.modBuf_keeps
    | with_reducible apply LinkKeeps.keep State.recordOpen_keeps
    | with_reducible apply LinkKeeps.step State.event_link
    | rfl
    | split

theorem State.notePass_link {s : State} {w : Wy} {c d : Fin 16} :
    LinkKeeps s (State.notePass s w c d) := by
  unfold State.notePass
  repeat' first
    | with_reducible exact LinkKeeps.refl
    | with_reducible apply LinkKeeps.step State.bump_link
    | rfl
    | split

theorem State.startCodec_link {s : State} {w : Wy} {j : CodecJob} :
    LinkKeeps s (State.startCodec s w j) := by
  unfold State.startCodec
  try dsimp only
  repeat' first
    | with_reducible exact LinkKeeps.refl
    | with_reducible apply LinkKeeps.keep State.modCodec_keeps
    | with_reducible apply LinkKeeps.step State.notePass_link
    | with_reducible apply LinkKeeps.step State.jobSent_link
    | with_reducible apply LinkKeeps.keep State.used_keeps
    | rfl
    | split

theorem State.dispatchCodec_link {s : State} {w : Wy} :
    LinkKeeps s (State.dispatchCodec s w) := by
  unfold State.dispatchCodec
  try dsimp only
  repeat' first
    | with_reducible exact LinkKeeps.refl
    | with_reducible apply LinkKeeps.step State.startCodec_link
    | (with_reducible apply LinkKeeps.foldl; intro _ _; try dsimp only)

theorem State.endCodec_link {s : State} {w : Wy} {u : CodecUnit} {ref : JobRef} {t : Fin 128} :
    LinkKeeps s (State.endCodec s w u ref t) := by
  unfold State.endCodec
  try dsimp only
  repeat' first
    | with_reducible exact LinkKeeps.refl
    | with_reducible apply LinkKeeps.step State.dispatchCodec_link
    | with_reducible apply LinkKeeps.keep State.forgetRuns_keeps
    | with_reducible apply LinkKeeps.step State.jobGone_link
    | with_reducible apply LinkKeeps.keep State.modCodec_keeps
    | rfl

theorem State.endOne_link {s : State} {w : Wy} {j : CryptJob} :
    LinkKeeps s (State.endOne s w j) := by
  unfold State.endOne
  try dsimp only
  repeat' first
    | with_reducible exact LinkKeeps.refl
    | with_reducible apply LinkKeeps.keep State.forgetRuns_keeps
    | with_reducible apply LinkKeeps.keep State.modCip_keeps
    | with_reducible apply LinkKeeps.step State.jobGone_link
    | with_reducible apply LinkKeeps.keep State.resumeTile_keeps
    | rfl
    | split

theorem State.dropCodec_link {s : State} {w : Wy} {j : CodecJob} :
    LinkKeeps s (State.dropCodec s w j) := by
  unfold State.dropCodec
  try dsimp only
  repeat' first
    | with_reducible exact LinkKeeps.refl
    | with_reducible apply LinkKeeps.step State.endCodec_link
    | with_reducible apply LinkKeeps.keep State.forgetRuns_keeps
    | with_reducible apply LinkKeeps.keep State.modCodec_keeps
    | rfl
    | split

theorem State.endJobs_link {s : State} {w : Wy} {cmd : Nat} :
    LinkKeeps s (State.endJobs s w cmd) := by
  unfold State.endJobs
  try dsimp only
  repeat' first
    | with_reducible exact LinkKeeps.refl
    | with_reducible apply LinkKeeps.step State.endOne_link
    | with_reducible apply LinkKeeps.step State.dropCodec_link
    | (with_reducible apply LinkKeeps.foldl; intro _ _; try dsimp only)
    | rfl
    | with_reducible apply LinkKeeps.setJobRuns

theorem State.freeChunk_link {s : State} {w : Wy} {c : Cmd} {x : WChunk} :
    LinkKeeps s (State.freeChunk s w c x) := by
  unfold State.freeChunk
  try dsimp only
  repeat' first
    | with_reducible exact LinkKeeps.refl
    | with_reducible apply LinkKeeps.step State.bufOp_link
    | with_reducible apply LinkKeeps.keep State.modMortar_keeps
    | rfl
    | split

theorem State.freeChunks_link {s : State} {w : Wy} {id : Nat} :
    LinkKeeps s (State.freeChunks s w id) := by
  unfold State.freeChunks
  try dsimp only
  repeat' first
    | with_reducible exact LinkKeeps.refl
    | with_reducible apply LinkKeeps.modCmd
    | with_reducible apply LinkKeeps.step State.freeChunk_link
    | (with_reducible apply LinkKeeps.foldl; intro _ _; try dsimp only)
    | rfl
    | (intro _; rfl)
    | split

theorem State.cancelRefs_link {s : State} {w : Wy} {id : Nat} :
    LinkKeeps s (State.cancelRefs s w id) := by
  unfold State.cancelRefs
  repeat' first
    | with_reducible exact LinkKeeps.refl
    | with_reducible apply LinkKeeps.step State.addDeltas_link
    | rfl
    | split

theorem State.endCmd_link {s : State} {w : Wy} {c : Cmd} {st : Status} {d : Detail} {cflags version result : Nat} :
    LinkKeeps s (State.endCmd s w c st d cflags version result) := by
  unfold State.endCmd
  try dsimp only
  repeat' first
    | with_reducible exact LinkKeeps.refl
    | with_reducible apply LinkKeeps.step State.freeChunks_link
    | with_reducible apply LinkKeeps.step State.bump_link
    | with_reducible apply LinkKeeps.step State.cancelRefs_link
    | with_reducible apply LinkKeeps.step State.dropCmd_link
    | with_reducible apply LinkKeeps.step State.handOut_link
    | with_reducible apply LinkKeeps.modQueue
    | rfl
    | (intro _; rfl)
    | split

theorem State.answerOutcome_link {s : State} {w : Wy} {c : Cmd} {kept : Option OutcomeRec} :
    LinkKeeps s (State.answerOutcome s w c kept) := by
  unfold State.answerOutcome
  repeat' first
    | with_reducible exact LinkKeeps.refl
    | with_reducible apply LinkKeeps.step State.endCmd_link
    | rfl
    | split

theorem State.wakeOutcomes_link {s : State} {w : Wy} :
    LinkKeeps s (State.wakeOutcomes s w) := by
  unfold State.wakeOutcomes
  try dsimp only
  repeat' first
    | with_reducible exact LinkKeeps.refl
    | with_reducible apply LinkKeeps.step State.answerOutcome_link
    | (with_reducible apply LinkKeeps.foldl; intro _ _; try dsimp only)

theorem State.endAttached_link {s : State} {w : Wy} {c : Cmd} {st : Status} {d : Detail} {version result : Nat} :
    LinkKeeps s (State.endAttached s w c st d version result) := by
  unfold State.endAttached
  try dsimp only
  repeat' first
    | with_reducible exact LinkKeeps.refl
    | with_reducible apply LinkKeeps.step State.endCmd_link
    | (with_reducible apply LinkKeeps.foldl; intro _ _; try dsimp only)

theorem State.answerQueries_link {s : State} :
    LinkKeeps s (State.answerQueries s) := by
  unfold State.answerQueries
  try dsimp only
  repeat' first
    | with_reducible exact LinkKeeps.refl
    | with_reducible apply LinkKeeps.step State.mortarOut_link
    | with_reducible apply LinkKeeps.keep State.modRefs_keeps
    | (with_reducible apply LinkKeeps.foldl; intro _ _; try dsimp only)
    | rfl

theorem State.finish_link {s : State} {w : Wy} {c : Cmd} {st : Status} {d : Detail} {cflags version result : Nat} :
    LinkKeeps s (State.finish s w c st d cflags version result) := by
  unfold State.finish
  try dsimp only
  repeat' first
    | with_reducible exact LinkKeeps.refl
    | with_reducible apply LinkKeeps.step State.endAttached_link
    | with_reducible apply LinkKeeps.step State.endCmd_link
    | with_reducible apply LinkKeeps.step State.wakeOutcomes_link
    | with_reducible apply LinkKeeps.step State.answerQueries_link
    | rfl
    | split

theorem State.dropOne_link {s : State} {w : Wy} {c : Cmd} :
    LinkKeeps s (State.dropOne s w c) := by
  unfold State.dropOne
  try dsimp only
  repeat' first
    | with_reducible exact LinkKeeps.refl
    | with_reducible apply LinkKeeps.step State.freeChunks_link
    | with_reducible apply LinkKeeps.step State.cancelRefs_link
    | with_reducible apply LinkKeeps.step State.dropCmd_link
    | with_reducible apply LinkKeeps.keep State.recordNever_keeps
    | with_reducible apply LinkKeeps.step State.endJobs_link
    | rfl
    | split

end Sys2Proof.Machine
end

section
/-! PROOFS. The pages that the end of a command or a queue writes. -/

namespace Sys2Proof.Machine

theorem Writes.setJobRuns {k : List PageKind} {s t : State} {l : List (Wy × JobRef × TileKind × List (Fin 128))} (h : Writes k s t) :
    Writes k s { t with jobRuns := l } := .put (t := t) rfl h

theorem State.jobSent_writes {s : State} {w : Wy} {t : Fin 128} :
    Writes [.crs] s (State.jobSent s w t) := by
  unfold State.jobSent
  repeat' first
    | with_reducible exact Writes.refl
    | with_reducible apply Writes.bump
    | rfl

theorem State.jobGone_writes {s : State} {w : Wy} {t : Fin 128} :
    Writes [.til] s (State.jobGone s w t) := by
  unfold State.jobGone
  repeat' first
    | with_reducible exact Writes.refl
    | with_reducible apply Writes.bump
    | rfl

theorem State.sendBatch_writes {s : State} {b : DeltaBatch} :
    Writes [.mtr] s (State.sendBatch s b) := by
  unfold State.sendBatch
  try dsimp only
  repeat' first
    | with_reducible exact Writes.refl
    | with_reducible apply Writes.step State.mortarOut_writes
    | with_reducible apply Writes.keep State.modRefs_keeps
    | rfl
    | split

theorem State.addDeltaTo_writes {s : State} {p g : Nat} {recount : Bool} {e : DeltaEntry} :
    Writes [.mtr] s (State.addDeltaTo s p g recount e) := by
  unfold State.addDeltaTo
  try dsimp only
  repeat' first
    | with_reducible exact Writes.refl
    | with_reducible apply Writes.step State.sendBatch_writes
    | with_reducible apply Writes.keep State.modRefs_keeps
    | rfl
    | split

theorem State.addDelta_writes {s : State} {p : Nat} {e : DeltaEntry} :
    Writes [.mtr] s (State.addDelta s p e) := by
  unfold State.addDelta
  repeat' first
    | with_reducible exact Writes.refl
    | with_reducible apply Writes.step State.addDeltaTo_writes
    | rfl

theorem State.addDeltas_writes {s : State} {p : Nat} {l : List DeltaEntry} :
    Writes [.mtr] s (State.addDeltas s p l) := by
  unfold State.addDeltas
  try dsimp only
  repeat' first
    | with_reducible exact Writes.refl
    | with_reducible apply Writes.step State.addDelta_writes
    | (with_reducible apply Writes.foldl; intro _ _; try dsimp only)
    | rfl

theorem State.takeAt_writes {s : State} {w : Wy} {n i : Nat} {r : BufReq} :
    Writes [.bpm] s (State.takeAt s w n i r) := by
  unfold State.takeAt
  try dsimp only
  repeat' first
    | with_reducible exact Writes.refl
    | with_reducible apply Writes.keep State.modPool_keeps
    | with_reducible apply Writes.keep State.modBuf_keeps
    | with_reducible apply Writes.bump
    | with_reducible apply Writes.event
    | with_reducible apply Writes.keep State.bpmAnswer_keeps
    | rfl
    | split

theorem State.serveWait_writes {s : State} {w : Wy} {n i : Nat} :
    Writes [.bpm] s (State.serveWait s w n i) := by
  unfold State.serveWait
  try dsimp only
  repeat' first
    | with_reducible exact Writes.refl
    | with_reducible apply Writes.step State.takeAt_writes
    | with_reducible apply Writes.keep State.modBpm_keeps
    | rfl
    | split

theorem State.dropCount_writes {s : State} {w : Wy} {n i : Nat} :
    Writes [.bpm] s (State.dropCount s w n i) := by
  unfold State.dropCount
  try dsimp only
  repeat' first
    | with_reducible exact Writes.refl
    | with_reducible apply Writes.step State.serveWait_writes
    | with_reducible apply Writes.keep State.modPool_keeps
    | with_reducible apply Writes.keep State.modBuf_keeps
    | rfl
    | split

theorem State.bufOp_writes {s : State} {w : Wy} {op : BufOp} {requester handle cookie : Nat} :
    Writes [.bpm] s (State.bufOp s w op requester handle cookie) := by
  unfold State.bufOp
  try dsimp only
  repeat' first
    | with_reducible exact Writes.refl
    | with_reducible apply Writes.bump
    | with_reducible apply Writes.keep State.bpmAnswer_keeps
    | with_reducible apply Writes.pageError
    | with_reducible apply Writes.step State.dropCount_writes
    | with_reducible apply Writes.keep State.modBuf_keeps
    | with_reducible apply Writes.keep State.recordOpen_keeps
    | with_reducible apply Writes.event
    | rfl
    | split

theorem State.notePass_writes {s : State} {w : Wy} {c d : Fin 16} :
    Writes [.crs] s (State.notePass s w c d) := by
  unfold State.notePass
  repeat' first
    | with_reducible exact Writes.refl
    | with_reducible apply Writes.bump
    | rfl
    | split

theorem State.startCodec_writes {s : State} {w : Wy} {j : CodecJob} :
    Writes [.crs] s (State.startCodec s w j) := by
  unfold State.startCodec
  try dsimp only
  repeat' first
    | with_reducible exact Writes.refl
    | with_reducible apply Writes.keep State.modCodec_keeps
    | with_reducible apply Writes.step State.notePass_writes
    | with_reducible apply Writes.step State.jobSent_writes
    | with_reducible apply Writes.keep State.used_keeps
    | rfl
    | split

theorem State.dispatchCodec_writes {s : State} {w : Wy} :
    Writes [.crs] s (State.dispatchCodec s w) := by
  unfold State.dispatchCodec
  try dsimp only
  repeat' first
    | with_reducible exact Writes.refl
    | with_reducible apply Writes.step State.startCodec_writes
    | (with_reducible apply Writes.foldl; intro _ _; try dsimp only)
    | rfl

theorem State.endCodec_writes {s : State} {w : Wy} {u : CodecUnit} {ref : JobRef} {t : Fin 128} :
    Writes [.crs, .til] s (State.endCodec s w u ref t) := by
  unfold State.endCodec
  try dsimp only
  repeat' first
    | with_reducible exact Writes.refl
    | with_reducible apply Writes.step State.dispatchCodec_writes
    | with_reducible apply Writes.keep State.forgetRuns_keeps
    | with_reducible apply Writes.step State.jobGone_writes
    | with_reducible apply Writes.keep State.modCodec_keeps
    | rfl

theorem State.endOne_writes {s : State} {w : Wy} {j : CryptJob} :
    Writes [.til] s (State.endOne s w j) := by
  unfold State.endOne
  try dsimp only
  repeat' first
    | with_reducible exact Writes.refl
    | with_reducible apply Writes.keep State.forgetRuns_keeps
    | with_reducible apply Writes.keep State.modCip_keeps
    | with_reducible apply Writes.step State.jobGone_writes
    | with_reducible apply Writes.keep State.resumeTile_keeps
    | rfl
    | split

theorem State.dropCodec_writes {s : State} {w : Wy} {j : CodecJob} :
    Writes [.crs, .til] s (State.dropCodec s w j) := by
  unfold State.dropCodec
  try dsimp only
  repeat' first
    | with_reducible exact Writes.refl
    | with_reducible apply Writes.step State.endCodec_writes
    | with_reducible apply Writes.keep State.forgetRuns_keeps
    | with_reducible apply Writes.keep State.modCodec_keeps
    | rfl
    | split

theorem State.endJobs_writes {s : State} {w : Wy} {cmd : Nat} :
    Writes [.crs, .til] s (State.endJobs s w cmd) := by
  unfold State.endJobs
  try dsimp only
  repeat' first
    | with_reducible exact Writes.refl
    | with_reducible apply Writes.step State.endOne_writes
    | with_reducible apply Writes.step State.dropCodec_writes
    | (with_reducible apply Writes.foldl; intro _ _; try dsimp only)
    | rfl
    | with_reducible apply Writes.setJobRuns

theorem State.freeChunk_writes {s : State} {w : Wy} {c : Cmd} {x : WChunk} :
    Writes [.bpm] s (State.freeChunk s w c x) := by
  unfold State.freeChunk
  try dsimp only
  repeat' first
    | with_reducible exact Writes.refl
    | with_reducible apply Writes.step State.bufOp_writes
    | with_reducible apply Writes.keep State.modMortar_keeps
    | rfl
    | split

theorem State.freeChunks_writes {s : State} {w : Wy} {id : Nat} :
    Writes [.bpm] s (State.freeChunks s w id) := by
  unfold State.freeChunks
  try dsimp only
  repeat' first
    | with_reducible exact Writes.refl
    | with_reducible apply Writes.keep State.modCmd_keeps
    | with_reducible apply Writes.step State.freeChunk_writes
    | (with_reducible apply Writes.foldl; intro _ _; try dsimp only)
    | rfl
    | split

theorem State.cancelRefs_writes {s : State} {w : Wy} {id : Nat} :
    Writes [.mtr] s (State.cancelRefs s w id) := by
  unfold State.cancelRefs
  repeat' first
    | with_reducible exact Writes.refl
    | with_reducible apply Writes.step State.addDeltas_writes
    | rfl
    | split

theorem State.endCmd_writes {s : State} {w : Wy} {c : Cmd} {st : Status} {d : Detail} {cflags version result : Nat} :
    Writes [.bpm, .mtr, .rlf] s (State.endCmd s w c st d cflags version result) := by
  unfold State.endCmd
  try dsimp only
  repeat' first
    | with_reducible exact Writes.refl
    | with_reducible apply Writes.step State.freeChunks_writes
    | with_reducible apply Writes.bump
    | with_reducible apply Writes.step State.cancelRefs_writes
    | with_reducible apply Writes.keep State.dropCmd_keeps
    | with_reducible apply Writes.keep State.handOut_keeps
    | with_reducible apply Writes.keep State.modQueue_keeps
    | rfl
    | split

theorem State.answerOutcome_writes {s : State} {w : Wy} {c : Cmd} {kept : Option OutcomeRec} :
    Writes [.bpm, .mtr, .rlf] s (State.answerOutcome s w c kept) := by
  unfold State.answerOutcome
  repeat' first
    | with_reducible exact Writes.refl
    | with_reducible apply Writes.step State.endCmd_writes
    | rfl
    | split

theorem State.wakeOutcomes_writes {s : State} {w : Wy} :
    Writes [.bpm, .mtr, .rlf] s (State.wakeOutcomes s w) := by
  unfold State.wakeOutcomes
  try dsimp only
  repeat' first
    | with_reducible exact Writes.refl
    | with_reducible apply Writes.step State.answerOutcome_writes
    | (with_reducible apply Writes.foldl; intro _ _; try dsimp only)
    | rfl

theorem State.endAttached_writes {s : State} {w : Wy} {c : Cmd} {st : Status} {d : Detail} {version result : Nat} :
    Writes [.bpm, .mtr, .rlf] s (State.endAttached s w c st d version result) := by
  unfold State.endAttached
  try dsimp only
  repeat' first
    | with_reducible exact Writes.refl
    | with_reducible apply Writes.step State.endCmd_writes
    | (with_reducible apply Writes.foldl; intro _ _; try dsimp only)
    | rfl

theorem State.answerQueries_writes {s : State} :
    Writes [.mtr] s (State.answerQueries s) := by
  unfold State.answerQueries
  try dsimp only
  repeat' first
    | with_reducible exact Writes.refl
    | with_reducible apply Writes.step State.mortarOut_writes
    | with_reducible apply Writes.keep State.modRefs_keeps
    | (with_reducible apply Writes.foldl; intro _ _; try dsimp only)
    | rfl

theorem State.finish_writes {s : State} {w : Wy} {c : Cmd} {st : Status} {d : Detail} {cflags version result : Nat} :
    Writes [.bpm, .mtr, .rlf] s (State.finish s w c st d cflags version result) := by
  unfold State.finish
  try dsimp only
  repeat' first
    | with_reducible exact Writes.refl
    | with_reducible apply Writes.step State.endAttached_writes
    | with_reducible apply Writes.step State.endCmd_writes
    | with_reducible apply Writes.step State.wakeOutcomes_writes
    | with_reducible apply Writes.step State.answerQueries_writes
    | rfl
    | split

theorem State.dropOne_writes {s : State} {w : Wy} {c : Cmd} :
    Writes [.bpm, .mtr, .crs, .til] s (State.dropOne s w c) := by
  unfold State.dropOne
  try dsimp only
  repeat' first
    | with_reducible exact Writes.refl
    | with_reducible apply Writes.step State.freeChunks_writes
    | with_reducible apply Writes.step State.cancelRefs_writes
    | with_reducible apply Writes.keep State.dropCmd_keeps
    | with_reducible apply Writes.keep State.recordNever_keeps
    | with_reducible apply Writes.step State.endJobs_writes
    | rfl
    | split

theorem State.resetQueue_writes {s : State} {w : Wy} {q : Nat} :
    Writes [.bpm, .mtr, .rlf, .crs, .til] s (State.resetQueue s w q) := by
  unfold State.resetQueue
  try dsimp only
  repeat' first
    | with_reducible exact Writes.refl
    | with_reducible apply Writes.keep State.recordNever_keeps
    | with_reducible apply Writes.bump
    | with_reducible apply Writes.step State.wakeOutcomes_writes
    | with_reducible apply Writes.step State.dropOne_writes
    | with_reducible apply Writes.keep State.tagFreed_keeps
    | with_reducible apply Writes.keep State.modRelief_keeps
    | with_reducible apply Writes.step State.answerQueries_writes
    | with_reducible apply Writes.keep State.modQueue_keeps
    | (with_reducible apply Writes.foldl; intro _ _; try dsimp only)
    | rfl
    | split

theorem State.loseQueue_writes {s : State} {w : Wy} {q : Nat} {disconnect : Bool} :
    Writes [.bpm, .mtr, .rlf, .crs, .til] s (State.loseQueue s w q disconnect) := by
  unfold State.loseQueue
  repeat' first
    | with_reducible exact Writes.refl
    | with_reducible apply Writes.step State.resetQueue_writes
    | with_reducible apply Writes.keep State.removeQueue_keeps
    | rfl

end Sys2Proof.Machine
end

section
/-! PROOFS. The PCI Express endpoint (R96, R396-R398, R411-R416): what its events leave of the endpoint, and its obligation. -/

namespace Sys2Proof.Machine

/-! ### The endpoint without its queue pages -/

/-- Both endpoints stay but for their queue pages and MSI-X tables. -/
def EndpointKeeps (s t : State) : Prop := ∀ w, (t.wy w).pcie.core = (s.wy w).pcie.core

theorem EndpointKeeps.refl {s : State} : EndpointKeeps s s := fun _ => rfl

theorem EndpointKeeps.step {s t u : State} (k : EndpointKeeps t u) (h : EndpointKeeps s t) : EndpointKeeps s u :=
  fun w => (k w).trans (h w)

theorem EndpointKeeps.keep {m : List Part} {s t u : State} (k : Keeps m t u) (hm : m.contains .pcie = false) (h : EndpointKeeps s t) :
    EndpointKeeps s u :=
  .step (fun w => by rw [k.pcie_eq (by simpa using hm)]) h

theorem LinkKeeps.endpoint {s t : State} (k : LinkKeeps s t) : EndpointKeeps s t := fun w => (k w).pcie

theorem EndpointKeeps.foldl {α : Type} {s u : State} {f : State → α → State} {xs : List α} (hf : ∀ v a, EndpointKeeps v (f v a))
    (h : EndpointKeeps s u) : EndpointKeeps s (xs.foldl f u) := by
  induction xs generalizing u with
  | nil => exact h
  | cons a xs ih => exact ih ((hf u a).step h)

theorem EndpointKeeps.modPage {s t : State} {w : Wy} {n : Nat} {f : QPage → QPage} (h : EndpointKeeps s t) :
    EndpointKeeps s (t.modPage w n f) := by
  refine .step (fun v => ?_) h
  cases w <;> cases v <;> rfl

theorem EndpointKeeps.loosePage {s t : State} {w : Wy} {n : Nat} (h : EndpointKeeps s t) : EndpointKeeps s (t.freePage w n) := h.modPage

theorem State.resetQueue_endpoint {s : State} {w : Wy} {q : Nat} : EndpointKeeps s (s.resetQueue w q) := by
  unfold State.resetQueue
  dsimp only
  refine State.answerQueries_link.endpoint.step (State.wakeOutcomes_link.endpoint.step (State.wakeOutcomes_link.endpoint.step
    (State.bump_link.endpoint.step ?_)))
  have dropped : EndpointKeeps s (((((s.modQueue w q fun x => { x with epoch := nextEpoch x.epoch }).wy w).relief.cmds.filter
      (fun c => c.q = q)).filter (fun c => !pastStart c)).foldl (fun s c => s.dropOne w c)
      (s.modQueue w q fun x => { x with epoch := nextEpoch x.epoch })) :=
    .foldl (fun _ _ => State.dropOne_link.endpoint) (.keep State.modQueue_keeps rfl .refl)
  have noted : ∀ {t : State} {l : List HeldMsg}, EndpointKeeps s t →
      EndpointKeeps s (l.foldl (fun s h => s.recordNever h.msg.cap.keyspace h.msg.cap.requestId) t) :=
    fun h => .foldl (fun _ _ => .keep State.recordNever_keeps rfl .refl) h
  split
  · exact .keep State.tagFreed_keeps rfl (noted (.keep State.modRelief_keeps rfl dropped))
  · exact noted (.keep State.modRelief_keeps rfl dropped)

theorem State.removeQueue_endpoint {s : State} {w : Wy} {q : Nat} {d : Bool} : EndpointKeeps s (s.removeQueue w q d) := by
  unfold State.removeQueue
  dsimp only
  have gone : ∀ {f : Relief → Relief} {g : Wythe → Wythe} (_ : ∀ y, (g y).pcie = y.pcie),
      EndpointKeeps s ((s.modRelief w f).modWy w g) := by
    intro f g hg v
    cases w <;> cases v <;> simp [State.modRelief, State.modWy, State.wy, hg]
  split
  · exact .refl
  · split
    · split
      · exact .keep State.emit_keeps rfl (gone fun _ => rfl)
      · exact gone fun _ => rfl
    · exact .loosePage (gone fun _ => rfl)

theorem State.loseQueue_endpoint {s : State} {w : Wy} {q : Nat} {d : Bool} : EndpointKeeps s (s.loseQueue w q d) :=
  State.removeQueue_endpoint.step State.resetQueue_endpoint

theorem State.stopQueues_endpoint {s : State} {w : Wy} : EndpointKeeps s (s.stopQueues w) := by
  refine .foldl (fun t e => ?_) .refl
  dsimp only
  split
  · exact .refl
  · split
    · exact State.loseQueue_endpoint
    · split
      · exact .refl
      · exact .modPage (.keep State.modQueue_keeps rfl State.resetQueue_endpoint)

/-! ### The function-level reset (R397) -/

/-- The queues of the pages are lost and every page is FREE. -/
def State.pagesFreed (s : State) (w : Wy) : State :=
  let t := (s.pcieQueues w).foldl (fun s e => s.loseQueue w e.1 false) s
  (t.wy w).pcie.pages.foldl (fun s p => s.freePage w p.n) t

theorem State.functionReset_eq (s : State) (w : Wy) : s.functionReset w = ((s.pagesFreed w).modPcie w (fun e =>
    { e with bme := false, d3hot := false, msix := [] })).bump (.glb w) GLB_CNT_FLR := rfl

theorem State.functionReset_core (s : State) (w : Wy) :
    ((s.functionReset w).wy w).pcie.bme = false ∧ ((s.functionReset w).wy w).pcie.d3hot = false := by
  have k := (State.bump_link (s := (s.pagesFreed w).modPcie w (fun e => { e with bme := false, d3hot := false, msix := [] }))
    (p := .glb w) (off := GLB_CNT_FLR) w).pcie
  rw [← State.functionReset_eq, State.modPcie_wy] at k
  exact ⟨congrArg Pcie.bme k, congrArg Pcie.d3hot k⟩

theorem State.pagesFreed_writes {s : State} {w : Wy} : Writes [.bpm, .mtr, .rlf, .crs, .til] s (s.pagesFreed w) :=
  .foldl (fun _ _ => .keep State.freePage_keeps rfl .refl) (.foldl (fun _ _ => State.loseQueue_writes) .refl)

theorem State.functionReset_counts (s : State) (w : Wy) :
    (s.functionReset w).reg (.glb w) GLB_CNT_FLR = s.reg (.glb w) GLB_CNT_FLR + 1 := by
  rw [State.functionReset_eq, bump_reg_self (by decide), State.modPcie_keeps.reg_eq (by decide),
    State.pagesFreed_writes.reg _ _ (by decide) (by simp [pageKind])]

theorem State.pcieDown_pcie (s : State) (w : Wy) : ((s.pcieDown w).wy w).pcie = { (s.wy w).pcie with linkUp := false, speed := 0, width := 0 } := by
  rw [State.pcieDown, State.modPcie_wy]

/-! ### Queue pages -/

theorem Relief.queue_idx {r : Relief} {q : Nat} {x : Queue} (h : r.queue q = some x) : x.idx = q := by
  simpa using List.find?_some h

theorem State.removeQueue_queue (s : State) (w : Wy) (q : Nat) (d : Bool) : ((s.removeQueue w q d).wy w).relief.queue q = none := by
  have filtered : ∀ l : List Queue, (l.filter (fun y => y.idx ≠ q)).find? (fun x => x.idx = q) = none := by
    intro l
    rw [List.find?_eq_none]
    intro x hx
    simpa using (List.mem_filter.mp hx).2
  unfold State.removeQueue
  dsimp only
  split
  · assumption
  · split
    · split
      · rw [State.emit_keeps.relief_eq (by decide), State.modWy_wy, State.modRelief_wy]
        exact filtered _
      · rw [State.modWy_wy, State.modRelief_wy]
        exact filtered _
    · rw [State.freePage_keeps.relief_eq (by decide), State.modWy_wy, State.modRelief_wy]
      exact filtered _

/-- QP_CTRL.CREATE where no check fails (R412): the page is OPEN at epoch 1, and so is its queue. -/
theorem State.qpCreate_opens {s : State} {w : Wy} {n : Fin 64} (hup : s.pcieUp w = true) (hserving : (s.wy w).serving = true)
    (hfault : s.qpFault w n.val = none) :
    (qpage ((s.qpCreate w n).wy w).pcie n.val).st = .opened ∧ (qpage ((s.qpCreate w n).wy w).pcie n.val).epoch = 1
      ∧ ∃ x ∈ ((s.qpCreate w n).wy w).relief.queues, x.idx = 960 + n.val ∧ x.st = .opened ∧ x.epoch = 1 := by
  unfold State.qpCreate
  rw [if_neg (by simp [hup, hserving]), hfault]
  dsimp only
  have k := State.writeStatus_link (s := (s.modRelief w (fun r => { r with queues := r.queues ++ [
      { idx := 960 + n.val, transport := .pcie n, epoch := 1, st := .opened, helloDone := false, mask := 0, evtSeq := 0,
        lastCapsule := s.now, acks := [], dma := 0 }] })).modPage w n.val (fun p => { p with
          st := .opened, error := 0, epoch := 1, sqHead := 0, sqTail := 0, cqHead := 0, cqTail := 0, held := [] })) (w := w) (n := n.val) w
  have page := k.pages n.val
  rw [qpage_modPage_self (fun _ => by rfl)] at page
  refine ⟨congrArg QPage.st page, congrArg QPage.epoch page, ?_⟩
  rw [State.writeStatus_keeps.relief_eq (by decide), State.modPage_keeps.relief_eq (by decide), State.modRelief_wy]
  exact ⟨_, List.mem_append_right _ List.mem_cons_self, rfl, rfl, rfl⟩

/-- QP_CTRL.DESTROY (R412): with no DMA the queue is gone, else it closes under its next epoch. -/
theorem State.qpDestroy_closes {s : State} {w : Wy} {n : Fin 64} {x : Queue} (hup : s.pcieUp w = true)
    (hx : (s.wy w).relief.queue (960 + n.val) = some x) (hst : x.st ≠ .closing) :
    (x.dma = 0 → ((s.qpDestroy w n).wy w).relief.queue (960 + n.val) = none)
      ∧ (x.dma ≠ 0 → (qpage ((s.qpDestroy w n).wy w).pcie n.val).st = .closing
        ∧ (qpage ((s.qpDestroy w n).wy w).pcie n.val).epoch = nextEpoch x.epoch) := by
  have hidx := Relief.queue_idx hx
  unfold State.qpDestroy
  rw [hx]
  dsimp only
  rw [if_neg (by simp [hup, hst])]
  constructor
  · intro hdma
    rw [if_pos hdma, hidx]
    exact State.removeQueue_queue ..
  · intro hdma
    rw [if_neg hdma, qpage_modPage_self (fun _ => by rfl)]
    exact ⟨rfl, rfl⟩

/-- A doorbell of the submission ring with no message in it moves the tail (R413). -/
theorem State.sqBell_tail {s : State} {w : Wy} {n tail : Nat} (hup : s.pcieUp w = true) (hst : (qpage (s.wy w).pcie n).st ≠ .free)
    (htail : tail < 2 ^ (qpage (s.wy w).pcie n).sqLog) : (qpage ((s.sqBell w n tail []).wy w).pcie n).sqTail = tail := by
  unfold State.sqBell
  dsimp only
  rw [if_neg (by simp [hup, hst]), if_neg (by omega)]
  unfold State.sqRun
  rw [List.map_nil, State.sqFetch, if_pos (by simp), qpage_modPage_self (fun _ => by rfl)]

/-- A doorbell of the completion ring within its span moves the head, and nothing more while no message is held back (R414). -/
theorem State.cqBell_head {s : State} {w : Wy} {n head : Nat} (hup : s.pcieUp w = true) (hst : (qpage (s.wy w).pcie n).st ≠ .free)
    (hhead : head < 2 ^ (qpage (s.wy w).pcie n).cqLog)
    (hspan : (head + 2 ^ (qpage (s.wy w).pcie n).cqLog - (qpage (s.wy w).pcie n).cqHead) % 2 ^ (qpage (s.wy w).pcie n).cqLog
      ≤ ((qpage (s.wy w).pcie n).cqTail + 2 ^ (qpage (s.wy w).pcie n).cqLog - (qpage (s.wy w).pcie n).cqHead)
        % 2 ^ (qpage (s.wy w).pcie n).cqLog)
    (hheld : (qpage (s.wy w).pcie n).held = []) : (qpage ((s.cqBell w n head).wy w).pcie n).cqHead = head := by
  unfold State.cqBell
  dsimp only
  rw [if_neg (by simp [hup, hst, hhead, hspan]), if_pos (by simp [hheld]), qpage_modPage_self (fun _ => by rfl)]

/-! ### MSI-X (R416) -/

theorem msixEntry_n (e : Pcie) (v : Nat) : (msixEntry e v).n = v := by
  unfold msixEntry
  cases h : e.msix.find? (fun m => m.n = v) with
  | none => rfl
  | some m => simpa using List.find?_some h

/-- An entry put in the table is the one found at its place. -/
theorem msixEntry_put {s : State} {w : Wy} {v : Nat} {m : MsixEntry} (hm : m.n = v) :
    msixEntry ((s.modPcie w (fun e => { e with msix := upsert (fun x => x.n = v) (fun _ => m) m e.msix })).wy w).pcie v = m := by
  rw [State.modPcie_wy, msixEntry, find?_upsert_const (by simpa using hm)]
  rfl

theorem State.setMsix_unmasks (s : State) (w : Wy) (v : Nat) :
    (msixEntry ((s.setMsix w v (fun m => { m with masked := false })).wy w).pcie v).masked = false := by
  unfold State.setMsix
  dsimp only
  have hn := msixEntry_n (s.wy w).pcie v
  split
  · rw [State.emit_keeps.pcie_eq (by decide), msixEntry_put (by exact hn)]
  · rw [msixEntry_put (by exact hn)]

theorem State.setMsix_sends {s : State} {w : Wy} {v : Nat} (hpending : (msixEntry (s.wy w).pcie v).pending = true)
    (hdma : s.dmaOk w = true) : .msix w v ∈ (s.setMsix w v (fun m => { m with masked := false })).out := by
  unfold State.setMsix
  dsimp only
  rw [if_pos (by simp [hpending, hdma])]
  exact State.mem_emit_out ..

end Sys2Proof.Machine

namespace Sys2Proof
open Sys2Proof.Machine

/-- Settles O50, event by event: what a function-level reset, a lost link and D3hot leave of the endpoint passes through the end of its
queues (`EndpointKeeps`); a page's own record follows from the operation on it. D0_RETURN sets Bus Master Enable (log 132). -/
theorem endpointActs : Obligations.EndpointActs := by
  unfold Obligations.EndpointActs
  intro w s
  refine ⟨fun hup => ⟨?_, ?_⟩, fun hrel => ?_, fun hup => ?_, fun hup => ?_, fun hup => ?_, fun speed width hrel hup => ?_,
    fun n hup => ⟨fun hserving hfault => ?_, fun x hx hst => ?_, fun tail hst htail => ?_, fun head hst hhead hspan hheld => ?_, ?_⟩⟩
  · exact runs_intro (congrArg Host.Outcome.next (if_pos hup)) ⟨(s.functionReset_core w).1, (s.functionReset_core w).2, s.functionReset_counts w⟩
  · exact runs_intro (congrArg Host.Outcome.next (if_pos hup)) ⟨(s.functionReset_core w).1, (s.functionReset_core w).2, s.functionReset_counts w⟩
  · refine runs_intro (congrArg Host.Outcome.next (if_pos hrel)) ?_
    rw [State.modPcie_wy, State.pcieDown_pcie]
    exact ⟨rfl, rfl, (s.functionReset_core w).1⟩
  · refine runs_intro (congrArg Host.Outcome.next (if_pos hup)) ?_
    rw [State.pcieDown_pcie]
    exact ⟨rfl, (s.functionReset_core w).1⟩
  · refine runs_intro (congrArg Host.Outcome.next (if_pos hup)) ?_
    have k := State.stopQueues_endpoint (s := s.modPcie w (fun e => { e with bme := false })) (w := w) w
    rw [State.modPcie_wy] at k
    exact congrArg Pcie.bme k
  · refine runs_intro (congrArg Host.Outcome.next (if_pos hup)) ?_
    have k := State.stopQueues_endpoint (s := s.modPcie w (fun e => { e with d3hot := true })) (w := w) w
    rw [State.modPcie_wy] at k
    exact congrArg Pcie.d3hot k
  · refine runs_intro (if_neg ?_) ?_
    · rcases hup with hup | hstep
      · simp [hrel, hup]
      · simp [hrel, Nat.not_lt.mpr hstep]
    · rw [List.foldl_nil, State.modPcie_wy]
      exact ⟨rfl, rfl, rfl⟩
  · exact runs_intro rfl (State.qpCreate_opens hup hserving hfault)
  · exact runs_intro rfl (State.qpDestroy_closes hup hx hst)
  · exact runs_intro rfl (State.sqBell_tail hup hst htail)
  · exact runs_intro rfl (State.cqBell_head hup hst hhead hspan hheld)
  · exact runs_intro (congrArg Host.Outcome.next (if_pos hup)) ⟨s.setMsix_unmasks w n.val, State.setMsix_sends⟩

end Sys2Proof
end

section
/-! PROOFS. What an operation on the media leaves alone: the channels, what a die is, that a retired die stays retired, whether a
dump runs, and who the requests are. -/

namespace Sys2Proof.Machine

/-- A die but for its retirement, its wear and its errors. -/
def DieSt.core (x : DieSt) : DieSt := { x with retired := false, goneAt := none, spares := 0, uncorr := [], uncReads := 0, parityReads := 0 }

/-- What a request asks, and of whom, whatever its state. -/
def ChJob.order (j : ChJob) : ChJob := { j with st := .held, waited := false, started := 0, resumed := 0, ran := 0, suspends := 0 }

/-- A die stays what it is but for its wear; a retired one stays retired. -/
structure DieKept (x y : DieSt) : Prop where
  core : y.core = x.core
  retired : x.retired = true → y.retired = true

/-- From one state of the media to another, the channels stay and the mode of the dump, the dies stay but for their wear, and a request
there is one of before or has a new id. -/
structure MediaKept (m n : Media) : Prop where
  chans : n.chans = m.chans
  dies : ∀ d, DieKept ((tableGet? m.dies d).getD .reset) ((tableGet? n.dies d).getD .reset)
  dumping : n.dumping = m.dumping
  nextJob : m.nextJob ≤ n.nextJob
  jobs : ∀ x ∈ n.jobs, m.nextJob ≤ x.id ∨ ∃ y ∈ m.jobs, x.order = y.order

def MediaKeeps (s t : State) : Prop := MediaKept s.media t.media

theorem DieKept.refl {x : DieSt} : DieKept x x := ⟨rfl, id⟩

theorem MediaKept.same {m n : Media} (hc : n.chans = m.chans) (hd : n.dies = m.dies) (hu : n.dumping = m.dumping)
    (hn : n.nextJob = m.nextJob) (hj : n.jobs = m.jobs) : MediaKept m n :=
  ⟨hc, fun _ => hd ▸ .refl, hu, hn.ge, fun x hx => .inr ⟨x, hj ▸ hx, rfl⟩⟩

theorem MediaKept.dropJobs {m : Media} {p : ChJob → Bool} : MediaKept m { m with jobs := m.jobs.filter p } :=
  ⟨rfl, fun _ => .refl, rfl, le_rfl, fun x hx => .inr ⟨x, (List.mem_filter.mp hx).1, rfl⟩⟩

theorem MediaKept.addJob {m : Media} {j : ChJob} (hj : j.id = m.nextJob) :
    MediaKept m { m with jobs := m.jobs ++ [j], nextJob := m.nextJob + 1 } := by
  refine ⟨rfl, fun _ => .refl, rfl, Nat.le_succ _, fun x hx => ?_⟩
  rcases List.mem_append.mp hx with hx | hx
  · exact .inr ⟨x, hx, rfl⟩
  · rw [List.mem_singleton.mp hx]
    exact .inl hj.ge

theorem MediaKept.trans {m n o : Media} (h : MediaKept m n) (k : MediaKept n o) : MediaKept m o := by
  refine ⟨k.chans.trans h.chans, fun d => ⟨(k.dies d).core.trans (h.dies d).core, fun hd => (k.dies d).retired ((h.dies d).retired hd)⟩,
    k.dumping.trans h.dumping, h.nextJob.trans k.nextJob, fun x hx => ?_⟩
  rcases k.jobs x hx with hn | ⟨y, hy, e⟩
  · exact .inl (h.nextJob.trans hn)
  · rcases h.jobs y hy with hn | ⟨z, hz, e'⟩
    · exact .inl (hn.trans (congrArg ChJob.id e).ge)
    · exact .inr ⟨z, hz, e.trans e'⟩

theorem MediaKeeps.refl {s : State} : MediaKeeps s s := .same rfl rfl rfl rfl rfl

theorem MediaKeeps.step {s t u : State} (k : MediaKeeps t u) (h : MediaKeeps s t) : MediaKeeps s u := MediaKept.trans h k

theorem MediaKeeps.keep {l : List Part} {s t u : State} (k : Keeps l t u) (hl : l.contains .media = false) (h : MediaKeeps s t) :
    MediaKeeps s u := by
  have e : u.media = t.media := k.part .media (by simpa using hl)
  rwa [MediaKeeps, e]

theorem MediaKeeps.modMedia {s t : State} {f : Media → Media} (hf : MediaKept t.media (f t.media)) (h : MediaKeeps s t) :
    MediaKeeps s (t.modMedia f) := MediaKept.trans h hf

theorem MediaKeeps.dropJobs {s t : State} {p : ChJob → Bool} (h : MediaKeeps s t) :
    MediaKeeps s (t.modMedia (fun m => { m with jobs := m.jobs.filter p })) := h.modMedia .dropJobs

theorem MediaKeeps.foldl {α : Type} {s u : State} {f : State → α → State} {xs : List α} (hf : ∀ v a, MediaKeeps v (f v a))
    (h : MediaKeeps s u) : MediaKeeps s (xs.foldl f u) := by
  induction xs generalizing u with
  | nil => exact h
  | cons a xs ih => exact ih ((hf u a).step h)

theorem MediaKeeps.ite {s t u : State} {c : Prop} [Decidable c] (ht : MediaKeeps s t) (hu : MediaKeeps s u) :
    MediaKeeps s (if c then t else u) := by
  split
  · exact ht
  · exact hu

theorem MediaKeeps.modDie {s t : State} {d : Nat} {f : DieSt → DieSt} (hf : ∀ x, DieKept x (f x)) (h : MediaKeeps s t) :
    MediaKeeps s (t.modDie d f) := by
  refine .modMedia ⟨rfl, fun c => ?_, rfl, le_rfl, fun x hx => .inr ⟨x, hx, rfl⟩⟩ h
  dsimp only
  by_cases hc : c = d
  · rw [hc, tableGet_put]
    exact hf _
  · rw [tableGet_put_ne _ _ hc]
    exact .refl

theorem MediaKeeps.modCh {s t : State} {id : Nat} {f : ChJob → ChJob} (hf : ∀ x, (f x).order = x.order) (h : MediaKeeps s t) :
    MediaKeeps s (t.modCh id f) := by
  refine .modMedia ⟨rfl, fun _ => .refl, rfl, le_rfl, fun x hx => ?_⟩ h
  rcases mem_updFirst hx with hx | ⟨y, hy, rfl⟩
  · exact .inr ⟨x, hx, rfl⟩
  · exact .inr ⟨y, hy, hf y⟩


theorem State.modBlk_media {s : State} {k : Nat} {f : Blk → Blk} : MediaKeeps s (State.modBlk s k f) := .modMedia (.same rfl rfl rfl rfl rfl) .refl

theorem State.startOp_media {s : State} {j : ChJob} :
    MediaKeeps s (State.startOp s j) := by
  unfold State.startOp
  try dsimp only
  repeat' first
    | with_reducible exact MediaKeeps.refl
    | with_reducible apply MediaKeeps.keep State.bump_keeps
    | with_reducible apply MediaKeeps.dropJobs
    | with_reducible apply MediaKeeps.keep State.bumpBy_keeps
    | with_reducible apply MediaKeeps.modCh
    | with_reducible apply MediaKeeps.keep State.chResult_keeps
    | rfl
    | (intro _; rfl)
    | split

theorem State.grantMin_media {s : State} {w : Wy} {panel : Nat} {cls : List Nat} :
    MediaKeeps s (State.grantMin s w panel cls) := by
  unfold State.grantMin
  try dsimp only
  repeat' first
    | with_reducible exact MediaKeeps.refl
    | with_reducible apply MediaKeeps.step State.startOp_media
    | rfl
    | split

theorem State.grantRest_media {s : State} {w : Wy} {panel : Nat} {x1 : List (List Nat)} :
    MediaKeeps s (State.grantRest s w panel x1) := by
  induction x1 generalizing s with
  | nil => exact .refl
  | cons a l ih =>
    unfold State.grantRest
    try dsimp only
    repeat' first
      | with_reducible apply MediaKeeps.refl
      | with_reducible assumption
      | with_reducible apply MediaKeeps.step ih
      | with_reducible apply MediaKeeps.step State.startOp_media
      | rfl
      | split

theorem State.grantDump_media {s : State} {panel : Nat} :
    MediaKeeps s (State.grantDump s panel) := by
  unfold State.grantDump
  try dsimp only
  repeat' first
    | with_reducible exact MediaKeeps.refl
    | with_reducible apply MediaKeeps.step State.startOp_media
    | (with_reducible apply MediaKeeps.foldl; intro _ _; try dsimp only)
    | rfl
    | split

theorem State.grant_media {s : State} {w : Wy} {panel : Nat} :
    MediaKeeps s (State.grant s w panel) := by
  unfold State.grant
  try dsimp only
  repeat' first
    | with_reducible exact MediaKeeps.refl
    | with_reducible apply MediaKeeps.step State.grantMin_media
    | with_reducible apply MediaKeeps.step State.grantRest_media
    | with_reducible apply MediaKeeps.step State.grantDump_media
    | (with_reducible apply MediaKeeps.foldl; intro _ _; try dsimp only)
    | rfl
    | split

theorem State.nextRead_media {s : State} {op : ChJob} :
    MediaKeeps s (State.nextRead s op) := by
  unfold State.nextRead
  try dsimp only
  repeat' first
    | with_reducible exact MediaKeeps.refl
    | with_reducible apply MediaKeeps.modCh
    | rfl
    | (intro _; rfl)
    | split

theorem State.trySuspend_media {s : State} {op : ChJob} :
    MediaKeeps s (State.trySuspend s op) := by
  unfold State.trySuspend
  try dsimp only
  repeat' first
    | with_reducible exact MediaKeeps.refl
    | with_reducible apply MediaKeeps.keep State.bump_keeps
    | with_reducible apply MediaKeeps.modCh
    | with_reducible apply MediaKeeps.step State.nextRead_media
    | rfl
    | (intro _; rfl)
    | split

theorem State.suspendDue_media {s : State} :
    MediaKeeps s (State.suspendDue s) := by
  unfold State.suspendDue
  try dsimp only
  repeat' first
    | with_reducible exact MediaKeeps.refl
    | with_reducible apply MediaKeeps.step State.trySuspend_media
    | (with_reducible apply MediaKeeps.foldl; intro _ _; try dsimp only)

theorem State.chTake_media {s : State} {j : ChJob} : MediaKeeps s (State.chTake s j) := by
  unfold State.chTake
  dsimp only
  split
  · exact .keep State.chResult_keeps rfl (.dropJobs .refl)
  · refine .step State.suspendDue_media (.modCh (fun x => ?_) (.step State.grant_media (.modCh (fun _ => rfl) ?_)))
    · split <;> rfl
    · split
      · exact .keep State.bump_keeps rfl (.keep State.bump_keeps rfl .refl)
      · exact .keep State.bump_keeps rfl .refl

theorem State.submit_media {s : State} {w : Wy} {rt : Routine} {r : ChReq} {what : ChFor} :
    MediaKeeps s (State.submit s w rt r what) := by
  unfold State.submit
  dsimp only
  split
  · exact .keep State.event_keeps rfl (.keep State.bump_keeps rfl (.modMedia (.addJob rfl) .refl))
  · exact State.chTake_media.step (.modMedia (.addJob rfl) .refl)

theorem State.armErase_media {s : State} {e : EraseNote} :
    MediaKeeps s (State.armErase s e) := by
  unfold State.armErase
  try dsimp only
  repeat' first
    | with_reducible exact MediaKeeps.refl
    | with_reducible apply MediaKeeps.step State.modBlk_media
    | (with_reducible apply MediaKeeps.foldl; intro _ _; try dsimp only)

theorem State.modSet_media {s : State} {i : Nat} {f : SetSt → SetSt} : MediaKeeps s (State.modSet s i f) := by
  refine .modMedia ?_ .refl
  split <;> exact .same rfl rfl rfl rfl rfl

theorem State.modSb_media {s : State} {i sb : Nat} {f : SuperBlk → SuperBlk} :
    MediaKeeps s (State.modSb s i sb f) := by
  unfold State.modSb
  try dsimp only
  repeat' first
    | with_reducible exact MediaKeeps.refl
    | with_reducible apply MediaKeeps.step State.modSet_media

theorem State.modRound_media {s : State} {i sb wl : Nat} {f : Round → Round} :
    MediaKeeps s (State.modRound s i sb wl f) := by
  unfold State.modRound
  try dsimp only
  repeat' first
    | with_reducible exact MediaKeeps.refl
    | with_reducible apply MediaKeeps.step State.modSb_media

theorem State.anchorRaw_media {s : State} {i : Nat} {r : AnchorRec} :
    MediaKeeps s (State.anchorRaw s i r) := by
  unfold State.anchorRaw
  try dsimp only
  repeat' first
    | with_reducible exact MediaKeeps.refl
    | with_reducible apply MediaKeeps.keep State.bump_keeps
    | with_reducible apply MediaKeeps.step State.modSet_media
    | rfl

theorem State.reserveSeq_media {s : State} {i : Nat} :
    MediaKeeps s (State.reserveSeq s i) := by
  unfold State.reserveSeq
  try dsimp only
  repeat' first
    | with_reducible exact MediaKeeps.refl
    | with_reducible apply MediaKeeps.step State.anchorRaw_media
    | with_reducible apply MediaKeeps.step State.modSet_media
    | rfl
    | split

theorem State.takeSeq_media {s : State} {i : Nat} :
    MediaKeeps s (State.takeSeq s i) := by
  unfold State.takeSeq
  try dsimp only
  repeat' first
    | with_reducible exact MediaKeeps.refl
    | with_reducible apply MediaKeeps.step State.modSet_media
    | with_reducible apply MediaKeeps.step State.reserveSeq_media

theorem State.tableSlice_media {s : State} {i : Nat} :
    MediaKeeps s (State.tableSlice s i) := by
  unfold State.tableSlice
  try dsimp only
  repeat' first
    | with_reducible exact MediaKeeps.refl
    | with_reducible apply MediaKeeps.step State.anchorRaw_media
    | with_reducible apply MediaKeeps.step State.reserveSeq_media
    | rfl
    | split

theorem State.anchorRec_media {s : State} {i : Nat} {r : AnchorRec} :
    MediaKeeps s (State.anchorRec s i r) := by
  unfold State.anchorRec
  try dsimp only
  repeat' first
    | with_reducible exact MediaKeeps.refl
    | with_reducible apply MediaKeeps.step State.tableSlice_media
    | with_reducible apply MediaKeeps.step State.anchorRaw_media
    | with_reducible apply MediaKeeps.step State.reserveSeq_media
    | with_reducible apply MediaKeeps.step State.armErase_media
    | rfl
    | split

theorem State.openSb_media {s t : State} {i row : Nat} {st : Stream} (h : State.openSb s i row st = some t) :
    MediaKeeps s t := by
  unfold State.openSb at h
  dsimp only at h
  split at h
  · cases h
  · obtain ⟨b, -, rfl⟩ := Option.map_eq_some_iff.mp h
    repeat' first
      | with_reducible apply MediaKeeps.refl
      | with_reducible assumption
      | with_reducible apply MediaKeeps.step State.modBlk_media
      | with_reducible apply MediaKeeps.step State.modSet_media
      | with_reducible apply MediaKeeps.step State.anchorRec_media
      | (with_reducible apply MediaKeeps.foldl; intro _ _; try dsimp only)

theorem State.openSome_media {s t : State} {i : Nat} {st : Stream} (h : State.openSome s i st = some t) : MediaKeeps s t := by
  unfold State.openSome at h
  dsimp only at h
  split at h
  · exact .step (State.openSb_media h) (.keep State.used_keeps rfl .refl)
  · cases h

theorem State.beginRound_media {s : State} {i : Nat} {b : SuperBlk} {cls : Nat} :
    MediaKeeps s (State.beginRound s i b cls) := by
  unfold State.beginRound
  try dsimp only
  repeat' first
    | with_reducible exact MediaKeeps.refl
    | with_reducible apply MediaKeeps.step State.modSet_media
    | with_reducible apply MediaKeeps.step State.modSb_media

theorem State.closeRound_media {s : State} {i sb : Nat} :
    MediaKeeps s (State.closeRound s i sb) := by
  unfold State.closeRound
  try dsimp only
  repeat' first
    | with_reducible exact MediaKeeps.refl
    | with_reducible apply MediaKeeps.keep State.bumpBy_keeps
    | with_reducible apply MediaKeeps.step State.modRound_media
    | with_reducible apply MediaKeeps.step State.takeSeq_media
    | with_reducible apply MediaKeeps.step State.submit_media
    | (with_reducible apply MediaKeeps.foldl; intro _ _; try dsimp only)
    | rfl
    | split

theorem State.takesUnit_media {s t : State} {i : Nat} {st : Stream} {b : SuperBlk} (h : State.takesUnit s i st = some (t, b)) :
    MediaKeeps s t := by
  unfold State.takesUnit at h
  dsimp only at h
  split at h
  · cases h
    exact .refl
  · split at h
    · rename_i hv
      obtain ⟨c, -, he⟩ := Option.map_eq_some_iff.mp h
      cases he
      split at hv
      · exact State.openSome_media hv
      · cases hv
    · obtain ⟨c, -, he⟩ := Option.map_eq_some_iff.mp h
      cases he
      split
      · exact .refl
      · exact .keep State.used_keeps rfl .refl

theorem State.fillUnit_media {s : State} {i cls : Nat} {b : SuperBlk} {u : UnitRef} :
    MediaKeeps s (State.fillUnit s i cls b u) := by
  unfold State.fillUnit
  try dsimp only
  repeat' first
    | with_reducible exact MediaKeeps.refl
    | with_reducible apply MediaKeeps.step State.beginRound_media
    | with_reducible apply MediaKeeps.step State.modSb_media
    | with_reducible apply MediaKeeps.step State.closeRound_media
    | rfl
    | split

theorem State.placeUnit_media {s t : State} {i : Nat} {st : Stream} {cls : Nat} {u : UnitRef}
    (h : State.placeUnit s i st cls u = some t) : MediaKeeps s t := by
  obtain ⟨e, he, rfl⟩ := Option.map_eq_some_iff.mp h
  exact .step State.fillUnit_media (.step (State.takesUnit_media (b := e.2) he) .refl)

theorem State.slcMarks_media {s : State} {i : Nat} :
    MediaKeeps s (State.slcMarks s i) := by
  unfold State.slcMarks
  try dsimp only
  repeat' first
    | with_reducible exact MediaKeeps.refl
    | with_reducible apply MediaKeeps.keep State.medBits_keeps
    | with_reducible apply MediaKeeps.step State.modSet_media
    | with_reducible apply MediaKeeps.keep State.event_keeps
    | rfl
    | split

theorem State.placeUnits_media {s : State} {i : Nat} {st : Stream} {cls : Nat} {x1 : List UnitRef} :
    MediaKeeps s (State.placeUnits s i st cls x1) := by
  induction x1 generalizing s with
  | nil => exact .step State.slcMarks_media .refl
  | cons a l ih =>
    unfold State.placeUnits
    try dsimp only
    repeat' first
      | with_reducible apply MediaKeeps.refl
      | with_reducible assumption
      | with_reducible apply MediaKeeps.step ih
      | with_reducible apply MediaKeeps.step (State.placeUnit_media (by assumption))
      | with_reducible apply MediaKeeps.step (State.placeUnit_media (by assumption))
      | with_reducible apply MediaKeeps.step State.modSet_media
      | with_reducible apply MediaKeeps.step State.slcMarks_media
      | rfl
      | split

theorem State.mapPlace_media {s : State} {i : Nat} {l : List Extent} :
    MediaKeeps s (State.mapPlace s i l) := by
  unfold State.mapPlace
  try dsimp only
  repeat' first
    | with_reducible exact MediaKeeps.refl
    | with_reducible apply MediaKeeps.step State.modSet_media

theorem State.mapDrop_media {s : State} {i typ owner gen : Nat} :
    MediaKeeps s (State.mapDrop s i typ owner gen) := by
  unfold State.mapDrop
  try dsimp only
  repeat' first
    | with_reducible exact MediaKeeps.refl
    | with_reducible apply MediaKeeps.step State.modSet_media

theorem State.segsDurable_media {s : State} {i : Nat} :
    MediaKeeps s (State.segsDurable s i) := by
  unfold State.segsDurable
  try dsimp only
  repeat' first
    | with_reducible exact MediaKeeps.refl
    | with_reducible apply MediaKeeps.step State.modSet_media
    | with_reducible apply MediaKeeps.step State.anchorRec_media
    | with_reducible apply MediaKeeps.step State.mapDrop_media
    | (with_reducible apply MediaKeeps.foldl; intro _ _; try dsimp only)
    | rfl
    | split

theorem State.roundDurable_media {s : State} {i : Nat} {b : SuperBlk} {r : Round} :
    MediaKeeps s (State.roundDurable s i b r) := by
  unfold State.roundDurable
  try dsimp only
  repeat' first
    | with_reducible exact MediaKeeps.refl
    | with_reducible apply MediaKeeps.keep State.bump_keeps
    | with_reducible apply MediaKeeps.step State.modRound_media
    | with_reducible apply MediaKeeps.step State.segsDurable_media
    | with_reducible apply MediaKeeps.step State.modSb_media
    | with_reducible apply MediaKeeps.step State.mapPlace_media
    | (with_reducible apply MediaKeeps.foldl; intro _ _; try dsimp only)
    | rfl
    | split

theorem State.closeSb_media {s : State} {i sb : Nat} {short : Bool} :
    MediaKeeps s (State.closeSb s i sb short) := by
  unfold State.closeSb
  try dsimp only
  repeat' first
    | with_reducible exact MediaKeeps.refl
    | with_reducible apply MediaKeeps.step State.anchorRec_media
    | with_reducible apply MediaKeeps.step State.modSb_media

theorem State.closeFull_media {s : State} {i : Nat} :
    MediaKeeps s (State.closeFull s i) := by
  unfold State.closeFull
  try dsimp only
  repeat' first
    | with_reducible exact MediaKeeps.refl
    | with_reducible apply MediaKeeps.step State.closeSb_media
    | (with_reducible apply MediaKeeps.foldl; intro _ _; try dsimp only)

theorem State.retireBlock_media {s : State} {die plane block cause : Nat} :
    MediaKeeps s (State.retireBlock s die plane block cause) := by
  unfold State.retireBlock
  try dsimp only
  repeat' first
    | with_reducible exact MediaKeeps.refl
    | with_reducible apply MediaKeeps.step State.modBlk_media
    | with_reducible apply MediaKeeps.modDie
    | with_reducible apply MediaKeeps.step State.anchorRec_media
    | with_reducible apply MediaKeeps.keep State.earlyWarn_keeps
    | rfl
    | (intro _; exact ⟨rfl, id⟩)
    | split

theorem State.eraseDie_media {s : State} {i : Nat} {b : SuperBlk} {cause die : Nat} :
    MediaKeeps s (State.eraseDie s i b cause die) := by
  unfold State.eraseDie
  try dsimp only
  repeat' first
    | with_reducible exact MediaKeeps.refl
    | with_reducible apply MediaKeeps.step State.modBlk_media
    | with_reducible apply MediaKeeps.step State.retireBlock_media
    | with_reducible apply MediaKeeps.step State.submit_media
    | with_reducible apply MediaKeeps.step State.anchorRec_media
    | with_reducible apply MediaKeeps.step State.modSb_media
    | (with_reducible apply MediaKeeps.foldl; intro _ _; try dsimp only)
    | rfl
    | split

theorem State.eraseSb_media {s : State} {i : Nat} {b : SuperBlk} {cause : Nat} :
    MediaKeeps s (State.eraseSb s i b cause) := by
  unfold State.eraseSb
  try dsimp only
  repeat' first
    | with_reducible exact MediaKeeps.refl
    | with_reducible apply MediaKeeps.step State.modSet_media
    | with_reducible apply MediaKeeps.step State.eraseDie_media
    | with_reducible apply MediaKeeps.step State.modSb_media
    | with_reducible apply MediaKeeps.keep State.recordOpen_keeps
    | (with_reducible apply MediaKeeps.foldl; intro _ _; try dsimp only)
    | rfl
    | split

theorem State.retireDie_media {s : State} {d cause : Nat} : MediaKeeps s (State.retireDie s d cause) := by
  unfold State.retireDie
  dsimp only
  split
  · exact .refl
  · exact .keep State.earlyWarn_keeps rfl (.step State.modSet_media (.modDie (fun _ => ⟨rfl, fun _ => rfl⟩) (.step State.anchorRec_media .refl)))

theorem State.dieUncorr_media {s : State} {d : Nat} :
    MediaKeeps s (State.dieUncorr s d) := by
  unfold State.dieUncorr
  try dsimp only
  repeat' first
    | with_reducible exact MediaKeeps.refl
    | with_reducible apply MediaKeeps.modDie
    | with_reducible apply MediaKeeps.step State.retireDie_media
    | rfl
    | (intro _; exact ⟨rfl, id⟩)
    | split

theorem State.parityUsed_media {s : State} {k : Nat} :
    MediaKeeps s (State.parityUsed s k) := by
  unfold State.parityUsed
  try dsimp only
  repeat' first
    | with_reducible exact MediaKeeps.refl
    | with_reducible apply MediaKeeps.modDie
    | with_reducible apply MediaKeeps.step State.modBlk_media
    | rfl
    | (intro _; exact ⟨rfl, id⟩)

theorem State.noteTired_media {s : State} {r : ChReq} {attempts : Nat} :
    MediaKeeps s (State.noteTired s r attempts) := by
  unfold State.noteTired
  try dsimp only
  repeat' first
    | with_reducible exact MediaKeeps.refl
    | with_reducible apply MediaKeeps.step State.modSet_media
    | with_reducible apply Keeps.step Keeps.fresh_add
    | with_reducible apply Keeps.step Keeps.fresh_add2
    | rfl
    | split

theorem State.readPage_media {s : State} {u : UnitRead} {n : Nat} {q : PageRead} {m words : Nat} {again : Bool} :
    MediaKeeps s (State.readPage s u n q m words again) := by
  unfold State.readPage
  try dsimp only
  repeat' first
    | with_reducible exact MediaKeeps.refl
    | with_reducible apply MediaKeeps.step State.submit_media
    | rfl
    | split

theorem State.modUnitPage_media {s : State} {id n : Nat} {f : PageRead → PageRead} : MediaKeeps s (State.modUnitPage s id n f) :=
  .modMedia (.same rfl rfl rfl rfl rfl) .refl

theorem State.dropRead_media {s : State} {id : Nat} : MediaKeeps s (State.dropRead s id) := .modMedia (.same rfl rfl rfl rfl rfl) .refl

theorem State.readFails_media {s : State} {u : UnitRead} {q : PageRead} :
    MediaKeeps s (State.readFails s u q) := by
  unfold State.readFails
  try dsimp only
  repeat' first
    | with_reducible exact MediaKeeps.refl
    | with_reducible apply MediaKeeps.keep State.mortarOut_keeps
    | with_reducible apply MediaKeeps.step State.dieUncorr_media
    | with_reducible apply MediaKeeps.step State.dropRead_media
    | rfl

theorem State.pageRead_media {s : State} {u : UnitRead} {n : Nat} :
    MediaKeeps s (State.pageRead s u n) := by
  unfold State.pageRead
  try dsimp only
  repeat' first
    | with_reducible exact MediaKeeps.refl
    | with_reducible apply MediaKeeps.step State.modUnitPage_media
    | with_reducible apply MediaKeeps.keep State.answerRange_keeps
    | with_reducible apply MediaKeeps.step State.dropRead_media
    | rfl
    | split

theorem State.toParity_media {s : State} {u : UnitRead} {n : Nat} {q : PageRead} {bad : Nat} :
    MediaKeeps s (State.toParity s u n q bad) := by
  unfold State.toParity
  try dsimp only
  repeat' first
    | with_reducible exact MediaKeeps.refl
    | with_reducible apply MediaKeeps.step State.readFails_media
    | with_reducible apply MediaKeeps.step State.modSb_media
    | with_reducible apply MediaKeeps.step State.parityUsed_media
    | with_reducible apply MediaKeeps.step State.readPage_media
    | with_reducible apply MediaKeeps.step State.modUnitPage_media
    | (with_reducible apply MediaKeeps.foldl; intro _ _; try dsimp only)
    | with_reducible apply Keeps.step Keeps.fresh_add
    | with_reducible apply Keeps.step Keeps.fresh_add2
    | rfl
    | split

theorem State.memberRead_media {s : State} {u : UnitRead} {n : Nat} {q : PageRead} {m : Nat} :
    MediaKeeps s (State.memberRead s u n q m) := by
  unfold State.memberRead
  try dsimp only
  repeat' first
    | with_reducible exact MediaKeeps.refl
    | with_reducible apply MediaKeeps.step State.pageRead_media
    | with_reducible apply MediaKeeps.step State.modUnitPage_media
    | rfl
    | split

theorem State.wordsUnread_media {s : State} {u : UnitRead} {n : Nat} {q : PageRead} {m bad : Nat} {again : Bool} :
    MediaKeeps s (State.wordsUnread s u n q m bad again) := by
  unfold State.wordsUnread
  repeat' first
    | with_reducible exact MediaKeeps.refl
    | with_reducible apply MediaKeeps.step State.readPage_media
    | with_reducible apply MediaKeeps.step State.toParity_media
    | with_reducible apply MediaKeeps.step State.readFails_media
    | rfl
    | split

theorem State.pageEnd_media {s : State} {u : UnitRead} {n m want good : Nat} {again : Bool} :
    MediaKeeps s (State.pageEnd s u n m want good again) := by
  unfold State.pageEnd
  try dsimp only
  repeat' first
    | with_reducible exact MediaKeeps.refl
    | with_reducible apply MediaKeeps.step State.wordsUnread_media
    | with_reducible apply MediaKeeps.step State.pageRead_media
    | with_reducible apply MediaKeeps.step State.memberRead_media
    | rfl
    | split

theorem State.unitReadEnd_media {s : State} {id n m : Nat} {j : ChJob} {e : DieEnd} :
    MediaKeeps s (State.unitReadEnd s id n m j e) := by
  unfold State.unitReadEnd
  try dsimp only
  repeat' first
    | with_reducible exact MediaKeeps.refl
    | with_reducible apply MediaKeeps.step State.pageEnd_media
    | rfl
    | split

theorem State.sweepReads_media {s : State} {n : Nat} :
    MediaKeeps s (State.sweepReads s n) := by
  induction n generalizing s with
  | zero => exact .refl
  | succ n ih =>
    unfold State.sweepReads
    try dsimp only
    repeat' first
      | with_reducible apply MediaKeeps.refl
      | with_reducible apply MediaKeeps.step ih
      | with_reducible apply MediaKeeps.step State.pageEnd_media
      | (with_reducible apply MediaKeeps.foldl; intro _ _; try dsimp only)
      | rfl
      | split

theorem State.beginDump_media {s : State} {i : Nat} :
    MediaKeeps s (State.beginDump s i) := by
  unfold State.beginDump
  try dsimp only
  repeat' first
    | with_reducible exact MediaKeeps.refl
    | with_reducible apply MediaKeeps.step State.modSet_media

theorem State.dumpDone_media {s : State} {i : Nat} :
    MediaKeeps s (State.dumpDone s i) := by
  unfold State.dumpDone
  try dsimp only
  repeat' first
    | with_reducible exact MediaKeeps.refl
    | with_reducible apply MediaKeeps.step State.modSet_media

theorem State.moveReserve_media {s : State} {i die plane : Nat} :
    MediaKeeps s (State.moveReserve s i die plane) := by
  unfold State.moveReserve
  try dsimp only
  repeat' first
    | with_reducible exact MediaKeeps.refl
    | with_reducible apply MediaKeeps.step State.modSet_media
    | split

theorem State.retireOut_media {s : State} {i die plane block cause : Nat} :
    MediaKeeps s (State.retireOut s i die plane block cause) := by
  unfold State.retireOut
  try dsimp only
  repeat' first
    | with_reducible exact MediaKeeps.refl
    | with_reducible apply MediaKeeps.step State.moveReserve_media
    | with_reducible apply MediaKeeps.step State.retireBlock_media
    | rfl
    | split

theorem State.blocksErased_media {s : State} {i : Nat} {j : ChJob} {bad : List Nat} :
    MediaKeeps s (State.blocksErased s i j bad) := by
  unfold State.blocksErased
  try dsimp only
  repeat' first
    | with_reducible exact MediaKeeps.refl
    | with_reducible apply MediaKeeps.step State.modBlk_media
    | with_reducible apply MediaKeeps.step State.anchorRec_media
    | with_reducible apply MediaKeeps.step State.retireOut_media
    | (with_reducible apply MediaKeeps.foldl; intro _ _; try dsimp only)
    | rfl
    | split

theorem State.reserveDone_media {s : State} {i : Nat} :
    MediaKeeps s (State.reserveDone s i) := by
  unfold State.reserveDone
  try dsimp only
  repeat' first
    | with_reducible exact MediaKeeps.refl
    | with_reducible apply MediaKeeps.step State.modSet_media
    | with_reducible apply MediaKeeps.keep State.medBits_keeps
    | rfl
    | split

theorem State.freeErased_media {s : State} {i : Nat} {j : ChJob} {bad : List Nat} :
    MediaKeeps s (State.freeErased s i j bad) := by
  unfold State.freeErased
  repeat' first
    | with_reducible exact MediaKeeps.refl
    | with_reducible apply MediaKeeps.step State.reserveDone_media
    | with_reducible apply MediaKeeps.step State.blocksErased_media

theorem State.eraseReserve_media {s : State} {i die : Nat} :
    MediaKeeps s (State.eraseReserve s i die) := by
  unfold State.eraseReserve
  try dsimp only
  repeat' first
    | with_reducible exact MediaKeeps.refl
    | with_reducible apply MediaKeeps.step State.retireOut_media
    | with_reducible apply MediaKeeps.step State.anchorRec_media
    | with_reducible apply MediaKeeps.step State.modBlk_media
    | with_reducible apply MediaKeeps.step State.submit_media
    | (with_reducible apply MediaKeeps.foldl; intro _ _; try dsimp only)
    | rfl
    | split

theorem State.reserveStep_media {s : State} {i : Nat} :
    MediaKeeps s (State.reserveStep s i) := by
  unfold State.reserveStep
  try dsimp only
  repeat' first
    | with_reducible exact MediaKeeps.refl
    | with_reducible apply MediaKeeps.step State.reserveDone_media
    | with_reducible apply MediaKeeps.step State.eraseReserve_media
    | with_reducible apply MediaKeeps.step State.modSet_media
    | (with_reducible apply MediaKeeps.foldl; intro _ _; try dsimp only)
    | rfl
    | split

theorem State.retireSpent_media {s : State} {i : Nat} :
    MediaKeeps s (State.retireSpent s i) := by
  unfold State.retireSpent
  try dsimp only
  repeat' first
    | with_reducible exact MediaKeeps.refl
    | with_reducible apply MediaKeeps.step State.retireDie_media
    | (with_reducible apply MediaKeeps.foldl; intro _ _; try dsimp only)

theorem State.placeWaiting_media {s : State} {i : Nat} :
    MediaKeeps s (State.placeWaiting s i) := by
  unfold State.placeWaiting
  try dsimp only
  repeat' first
    | with_reducible exact MediaKeeps.refl
    | with_reducible apply MediaKeeps.step State.modSet_media
    | with_reducible apply MediaKeeps.step State.placeUnits_media
    | (with_reducible apply MediaKeeps.foldl; intro _ _; try dsimp only)

theorem State.closeShort_media {s : State} {i : Nat} :
    MediaKeeps s (State.closeShort s i) := by
  unfold State.closeShort
  try dsimp only
  repeat' first
    | with_reducible exact MediaKeeps.refl
    | with_reducible apply MediaKeeps.step State.closeSb_media
    | (with_reducible apply MediaKeeps.foldl; intro _ _; try dsimp only)

theorem State.settleSet_media {s : State} {i : Nat} :
    MediaKeeps s (State.settleSet s i) := by
  unfold State.settleSet
  try dsimp only
  repeat' first
    | with_reducible exact MediaKeeps.refl
    | with_reducible apply MediaKeeps.step State.reserveStep_media
    | with_reducible apply MediaKeeps.keep State.thinsDone_keeps
    | with_reducible apply MediaKeeps.step State.closeFull_media
    | with_reducible apply MediaKeeps.step State.closeShort_media
    | with_reducible apply MediaKeeps.step State.retireSpent_media
    | with_reducible apply MediaKeeps.step State.eraseSb_media
    | with_reducible apply MediaKeeps.keep State.fragsDone_keeps
    | (with_reducible apply MediaKeeps.foldl; intro _ _; try dsimp only)
    | rfl

theorem State.foldInto_media {s : State} {i : Nat} {dst : SuperBlk} {src : List FoldStripe} :
    MediaKeeps s (State.foldInto s i dst src) := by
  unfold State.foldInto
  try dsimp only
  repeat' first
    | with_reducible exact MediaKeeps.refl
    | with_reducible apply MediaKeeps.step State.takeSeq_media
    | with_reducible apply MediaKeeps.step State.submit_media
    | with_reducible apply MediaKeeps.step State.modSb_media
    | (with_reducible apply MediaKeeps.foldl; intro _ _; try dsimp only)

theorem State.foldDst_media {s t : State} {i row : Nat} {b : SuperBlk} (h : State.foldDst s i row = some (t, b)) : MediaKeeps s t := by
  unfold State.foldDst at h
  dsimp only at h
  split at h
  · obtain ⟨b, -, hb⟩ := Option.map_eq_some_iff.mp h
    cases hb
    exact State.closeRound_media
  · obtain ⟨v, hv, h⟩ := Option.bind_eq_some_iff.mp h
    obtain ⟨b, -, hb⟩ := Option.map_eq_some_iff.mp h
    cases hb
    exact State.openSb_media hv

theorem State.foldSome_media {s : State} {i : Nat} {l : List FoldStripe} :
    MediaKeeps s (State.foldSome s i l) := by
  unfold State.foldSome
  try dsimp only
  repeat' first
    | with_reducible exact MediaKeeps.refl
    | with_reducible apply MediaKeeps.step State.foldInto_media
    | with_reducible apply MediaKeeps.step State.placeUnits_media
    | with_reducible apply MediaKeeps.step (State.foldDst_media (by assumption))
    | rfl
    | split

theorem State.roundMember_media {s : State} {i sb seq die : Nat} :
    MediaKeeps s (State.roundMember s i sb seq die) := by
  unfold State.roundMember
  try dsimp only
  repeat' first
    | with_reducible exact MediaKeeps.refl
    | with_reducible apply MediaKeeps.step State.modRound_media
    | with_reducible apply MediaKeeps.step State.roundDurable_media
    | rfl
    | split

theorem State.roundFailed_media {s : State} {i sb seq die : Nat} :
    MediaKeeps s (State.roundFailed s i sb seq die) := by
  unfold State.roundFailed
  try dsimp only
  repeat' first
    | with_reducible exact MediaKeeps.refl
    | with_reducible apply MediaKeeps.keep State.bumpBy_keeps
    | with_reducible apply MediaKeeps.step State.foldSome_media
    | with_reducible apply MediaKeeps.step State.placeUnits_media
    | with_reducible apply MediaKeeps.step State.modSb_media
    | with_reducible apply MediaKeeps.keep State.event_keeps
    | (with_reducible apply MediaKeeps.foldl; intro _ _; try dsimp only)
    | rfl
    | split

theorem State.eraseEnd_media {s : State} {i sb : Nat} {j : ChJob} {bad : List Nat} :
    MediaKeeps s (State.eraseEnd s i sb j bad) := by
  unfold State.eraseEnd
  try dsimp only
  repeat' first
    | with_reducible exact MediaKeeps.refl
    | with_reducible apply MediaKeeps.step State.blocksErased_media
    | with_reducible apply MediaKeeps.step State.modSet_media
    | with_reducible apply MediaKeeps.step State.placeWaiting_media
    | with_reducible apply MediaKeeps.step State.modSb_media
    | rfl
    | split

theorem State.chDone_media {s : State} {j : ChJob} {e : DieEnd} :
    MediaKeeps s (State.chDone s j e) := by
  unfold State.chDone
  try dsimp only
  repeat' first
    | with_reducible exact MediaKeeps.refl
    | with_reducible apply MediaKeeps.step State.freeErased_media
    | with_reducible apply MediaKeeps.step State.unitReadEnd_media
    | with_reducible apply MediaKeeps.step State.retireDie_media
    | with_reducible apply MediaKeeps.step State.noteTired_media
    | with_reducible apply MediaKeeps.step State.sweepReads_media
    | with_reducible apply MediaKeeps.step State.placeWaiting_media
    | with_reducible apply MediaKeeps.step State.eraseEnd_media
    | with_reducible apply MediaKeeps.step State.roundMember_media
    | with_reducible apply MediaKeeps.step State.settleSet_media
    | with_reducible apply MediaKeeps.step State.roundFailed_media
    | rfl
    | split

end Sys2Proof.Machine
end

section
/-! PROOFS. Channels change hands (R26, R341-R343). -/

namespace Sys2Proof.Machine

theorem MediaKeeps.chan {s t : State} (k : MediaKeeps s t) (c : Nat) : t.chan c = s.chan c :=
  congrArg (fun l => (tableGet? l c).getD ChanSt.reset) (MediaKept.chans k)

/-- The requests of a channel that is released end NOT_OWNER. -/
def State.abandon (s : State) (p : Page) (c : Nat) (j : ChJob) : State :=
  ((s.bump p CRS_CNT_ABANDONED).chResult { j with started := s.now } (plainEnd .notOwner (s.chnOwner j.w c)) []).chDone j
    (plainEnd .notOwner (s.chnOwner j.w c))

theorem State.abandon_media {s : State} {p : Page} {c : Nat} {j : ChJob} : MediaKeeps s (s.abandon p c j) :=
  State.chDone_media.step (.keep State.chResult_keeps rfl (.keep State.bump_keeps rfl .refl))

/-- A release of a HOME channel on which nothing has started (R343): it goes to the peer as LENT, or has no owner. -/
theorem State.releaseDone_chan {s : State} {c : Nat} (hrel : (s.chan c).releasing = true) (hmode : (s.chan c).mode = .home)
    (hidle : ∀ j ∈ s.media.jobs, j.req.channel = c → j.st = .queued ∨ j.st = .held) :
    (s.releaseDone c).chan c = { s.chan c with
      owner := if (s.chan c).lending then some (homeOf c).peer else none
      mode := if (s.chan c).lending then .lent else .none
      releasing := false
      lending := false } := by
  have hbusy : s.media.jobs.any (fun j => j.req.channel = c && j.st ≠ .queued && j.st ≠ .held) = false := by
    rw [List.any_eq_false]
    intro j hj hb
    simp only [Bool.and_eq_true, decide_eq_true_eq] at hb
    obtain ⟨⟨hc, hq⟩, hh⟩ := hb
    exact (hidle j hj hc).elim hq hh
  have left : ∀ (t : State) (p : Page) (l : List ChJob), (l.foldl (fun s j => s.abandon p c j) t).chan c = t.chan c :=
    fun t p l => (MediaKeeps.foldl (fun _ _ => State.abandon_media) .refl).chan c
  unfold State.releaseDone
  dsimp only
  rw [hbusy, if_neg (by simp [hrel]), hmode]
  refine (left _ _ _).trans ?_
  cases hlend : (s.chan c).lending
  · rw [if_neg Bool.false_ne_true, if_neg (by simp), State.newOwner_chan_self]
    rfl
  · rw [if_pos rfl, State.newOwner_chan_self]
    rfl

end Sys2Proof.Machine

namespace Sys2Proof
open Sys2Proof.Machine

/-- Settles O33, from the channel's record after each request to the arbiter; the requests abandoned by a release keep the channels
(`MediaKeeps`). -/
theorem channelsChangeHands : Obligations.ChannelsChangeHands := by
  unfold Obligations.ChannelsChangeHands
  intro w c s
  refine ⟨fun hfree => ?_, fun hown => ?_, fun hown hhome => ?_, fun hrel hmode hidle => ?_⟩
  · refine runs_intro rfl ⟨State.takeChannel_owner_of_unowned w hfree, ?_⟩
    rw [State.takeChannel, if_pos hfree, State.newOwner_chan_self]
  · refine runs_intro rfl ?_
    rw [State.askRelease, if_pos hown, State.modChan_chan_self]
    exact ⟨rfl, hown⟩
  · refine runs_intro rfl ?_
    rw [State.askLend, if_pos (by simp [hown, ← hhome]), State.modChan_chan_self]
    exact ⟨rfl, rfl⟩
  · refine runs_intro rfl ?_
    rw [State.releaseDone_chan hrel hmode hidle]
    exact ⟨rfl, fun hlend => ⟨if_pos hlend, if_pos hlend⟩, fun hlend => if_neg (by simp [hlend])⟩

end Sys2Proof
end

section
/-! PROOFS. Operations on dies (R303, R333, R350, R351): how an operation ends, resumes, times out and waits. -/

namespace Sys2Proof.Machine

/-! ### What the effect of an operation leaves of the requests -/

structure JobsStay (s t : State) : Prop where
  jobs : t.media.jobs = s.media.jobs
  nextJob : t.media.nextJob = s.media.nextJob

theorem JobsStay.refl {s : State} : JobsStay s s := ⟨rfl, rfl⟩

theorem JobsStay.step {s t u : State} (k : JobsStay t u) (h : JobsStay s t) : JobsStay s u :=
  ⟨k.jobs.trans h.jobs, k.nextJob.trans h.nextJob⟩

theorem JobsStay.keep {l : List Part} {s t u : State} (k : Keeps l t u) (hl : l.contains .media = false) (h : JobsStay s t) :
    JobsStay s u := by
  have e : u.media = t.media := k.part .media (by simpa using hl)
  exact .step ⟨by rw [e], by rw [e]⟩ h

theorem JobsStay.modMedia {s t : State} {f : Media → Media} (hf : ∀ m, (f m).jobs = m.jobs ∧ (f m).nextJob = m.nextJob)
    (h : JobsStay s t) : JobsStay s (t.modMedia f) := .step ⟨(hf _).1, (hf _).2⟩ h

theorem JobsStay.setHealth {s t : State} {x : Health} (h : JobsStay s t) : JobsStay s { t with health := x } :=
  .step (t := t) ⟨rfl, rfl⟩ h

theorem JobsStay.foldl {α : Type} {s u : State} {f : State → α → State} {xs : List α} (hf : ∀ v a, JobsStay v (f v a))
    (h : JobsStay s u) : JobsStay s (xs.foldl f u) := by
  induction xs generalizing u with
  | nil => exact h
  | cons a xs ih => exact ih ((hf u a).step h)

theorem State.modDie_jobs {s : State} {d : Nat} {f : DieSt → DieSt} : JobsStay s (State.modDie s d f) := ⟨rfl, rfl⟩

theorem State.modBlk_jobs {s : State} {k : Nat} {f : Blk → Blk} : JobsStay s (State.modBlk s k f) := ⟨rfl, rfl⟩

theorem State.dieUnknown_jobs {s : State} {d : Nat} : JobsStay s (State.dieUnknown s d) := ⟨rfl, rfl⟩

theorem State.armErase_jobs {s : State} {e : EraseNote} :
    JobsStay s (State.armErase s e) := by
  unfold State.armErase
  try dsimp only
  repeat' first
    | with_reducible exact JobsStay.refl
    | with_reducible apply JobsStay.step State.modBlk_jobs
    | (with_reducible apply JobsStay.foldl; intro _ _; try dsimp only)

theorem State.learn_jobs {s : State} {c : Nat} {x : Cw} :
    JobsStay s (State.learn s c x) := by
  unfold State.learn
  try dsimp only
  repeat' first
    | with_reducible exact JobsStay.refl
    | with_reducible apply JobsStay.modMedia
    | with_reducible apply JobsStay.step State.armErase_jobs
    | rfl
    | (intro _; exact ⟨rfl, rfl⟩)
    | split

theorem State.progDone_jobs {s : State} {j : ChJob} {failed : List Nat} {temp : Int} :
    JobsStay s (State.progDone s j failed temp) := by
  unfold State.progDone
  try dsimp only
  repeat' first
    | with_reducible exact JobsStay.refl
    | with_reducible apply JobsStay.step State.modBlk_jobs
    | with_reducible apply JobsStay.modMedia
    | with_reducible apply JobsStay.step State.learn_jobs
    | (with_reducible apply JobsStay.foldl; intro _ _; try dsimp only)
    | rfl
    | (intro _; exact ⟨rfl, rfl⟩)
    | split
    | with_reducible apply JobsStay.setHealth

theorem State.eraseDone_jobs {s : State} {j : ChJob} {failed : List Nat} :
    JobsStay s (State.eraseDone s j failed) := by
  unfold State.eraseDone
  try dsimp only
  repeat' first
    | with_reducible exact JobsStay.refl
    | with_reducible apply JobsStay.step State.modBlk_jobs
    | with_reducible apply JobsStay.modMedia
    | (with_reducible apply JobsStay.foldl; intro _ _; try dsimp only)
    | rfl
    | (intro _; exact ⟨rfl, rfl⟩)

theorem State.opEffect_jobs {s : State} {j : ChJob} {e : DieEnd} :
    JobsStay s (State.opEffect s j e) := by
  unfold State.opEffect
  try dsimp only
  repeat' first
    | with_reducible exact JobsStay.refl
    | with_reducible apply JobsStay.keep State.bump_keeps
    | with_reducible apply JobsStay.modMedia
    | with_reducible apply JobsStay.step State.dieUnknown_jobs
    | with_reducible apply JobsStay.keep State.bumpBy_keeps
    | with_reducible apply JobsStay.step State.modDie_jobs
    | with_reducible apply JobsStay.step State.progDone_jobs
    | with_reducible apply JobsStay.step State.learn_jobs
    | with_reducible apply JobsStay.step State.eraseDone_jobs
    | with_reducible apply JobsStay.keep State.event_keeps
    | (with_reducible apply JobsStay.foldl; intro _ _; try dsimp only)
    | rfl
    | (intro _; exact ⟨rfl, rfl⟩)
    | split

theorem State.wornNow_jobs {s : State} {j : ChJob} :
    JobsStay s (State.wornNow s j) := by
  unfold State.wornNow
  try dsimp only
  repeat' first
    | with_reducible exact JobsStay.refl
    | with_reducible apply JobsStay.modMedia
    | with_reducible apply JobsStay.keep State.earlyWarn_keeps
    | rfl
    | (intro _; exact ⟨rfl, rfl⟩)
    | split
    | with_reducible apply JobsStay.setHealth
/-! ### The end of an operation -/

theorem State.takeHeld_media {s : State} {c : Nat} : MediaKeeps s (s.takeHeld c) := by
  unfold State.takeHeld
  split
  · exact State.chTake_media
  · exact .refl

theorem ChJob.id_of_order {x y : ChJob} (e : x.order = y.order) : x.id = y.id :=
  (congrArg ChJob.id e : x.order.id = y.order.id)

/-- No request has the id, and the next id is above it. -/
def Ended (id : Nat) (s : State) : Prop := id < s.media.nextJob ∧ ∀ x ∈ s.media.jobs, x.id ≠ id

theorem Ended.media {id : Nat} {s t : State} (h : Ended id s) (k : MediaKeeps s t) : Ended id t := by
  refine ⟨h.1.trans_le (MediaKept.nextJob k), fun x hx => ?_⟩
  rcases MediaKept.jobs k x hx with hn | ⟨y, hy, e⟩
  · exact fun hid => absurd h.1 (Nat.not_lt.mpr (hid ▸ hn))
  · rw [ChJob.id_of_order e]
    exact h.2 y hy

theorem Ended.keep {id : Nat} {l : List Part} {s t : State} (h : Ended id s) (k : Keeps l s t) (hl : l.contains .media = false) :
    Ended id t := h.media (.keep k hl .refl)

theorem State.opGone_ended {s : State} {j : ChJob} (hj : j.id < s.media.nextJob) : Ended j.id (s.opGone j) := by
  have gone : Ended j.id (s.modMedia (fun m => { m with jobs := m.jobs.filter (fun x => x.id ≠ j.id) })) :=
    ⟨hj, fun x hx => by simpa using (List.mem_filter.mp hx).2⟩
  unfold State.opGone
  dsimp only
  refine Ended.media ?_ (.step State.takeHeld_media State.grant_media)
  split
  · split
    · split
      · exact gone.media State.nextRead_media
      · exact gone
    · exact gone
  · exact gone

theorem State.endOp_ended {s : State} {j : ChJob} {e : DieEnd} (hj : j.id < s.media.nextJob) : Ended j.id (s.endOp j e) := by
  unfold State.endOp
  dsimp only
  have before : JobsStay s ((((s.intentRead j).opEffect j (s.asRead j e))).wornNow j) :=
    State.wornNow_jobs.step (State.opEffect_jobs.step (.keep State.intentRead_keeps rfl .refl))
  refine Ended.keep ?_ State.jobGone_keeps rfl
  refine Ended.media ?_ State.chDone_media
  exact (State.opGone_ended (by rwa [before.nextJob])).keep State.chResult_keeps rfl

/-- The answer to the firmware's request at its end (R345). -/
def chAnswer (s : State) (j : ChJob) (e : DieEnd) (data : List (Option Cw)) : ChOut :=
  { result := e.result, routine := j.routine, good := e.good, crcBad := e.crcBad, step := e.step, channel := j.req.channel,
    die := j.req.die, suspends := j.suspends, cookie := j.req.cookie, detail := e.detail, temp := e.temp,
    us := (s.now - j.started) / 1000, corrected := e.corrected, data := data }

theorem State.chResult_sends {s : State} {j : ChJob} {e : DieEnd} {data : List (Option Cw)} (hj : j.what = .firmware) :
    .chisel j.w (chAnswer s j e data) ∈ (s.chResult j e data).out := by
  have sent := State.mem_emit_out s (.chisel j.w (chAnswer s j e data))
  unfold State.chResult
  dsimp only
  rw [if_pos hj]
  split
  · exact State.recordOpen_keeps.mem_out (State.event_keeps.mem_out (State.bump_keeps.mem_out sent))
  · exact State.event_keeps.mem_out (State.bump_keeps.mem_out sent)
  · exact State.event_keeps.mem_out (State.bump_keeps.mem_out sent)
  · exact State.bump_keeps.mem_out sent
  · exact State.bump_keeps.mem_out sent
  · exact State.bump_keeps.mem_out sent
  · exact State.bump_keeps.mem_out sent
  · exact State.event_keeps.mem_out (State.bump_keeps.mem_out sent)
  · exact State.bump_keeps.mem_out sent
  · exact State.bump_keeps.mem_out sent
  · exact sent

/-- The firmware's request is answered with the result of its end (R344). -/
theorem State.chResult_answers {s : State} {j : ChJob} {e : DieEnd} {data : List (Option Cw)} (hj : j.what = .firmware) :
    ∃ o : ChOut, .chisel j.w o ∈ (s.chResult j e data).out ∧ o.result = e.result ∧ o.detail = e.detail ∧ o.routine = j.routine
      ∧ o.cookie = j.req.cookie := ⟨_, State.chResult_sends hj, rfl, rfl, rfl, rfl⟩

theorem State.endOp_answers {s : State} {j : ChJob} {e : DieEnd} (hj : j.what = .firmware) :
    ∃ o : ChOut, .chisel j.w o ∈ (s.endOp j e).out ∧ o.result = (s.asRead j e).result ∧ o.detail = e.detail ∧ o.routine = j.routine
      ∧ o.cookie = j.req.cookie := by
  unfold State.endOp
  dsimp only
  obtain ⟨o, ho, hr, hd, hrt, hc⟩ := State.chResult_answers
    (s := ((((s.intentRead j).opEffect j (s.asRead j e)).wornNow j).opGone j)) (e := s.asRead j e)
    (data := if j.routine = .read || j.routine = .readRetry then (s.intentRead j).readCells j (s.asRead j e) else []) hj
  refine ⟨o, State.jobGone_keeps.mem_out (State.chDone_keeps.mem_out ho), hr, hd.trans ?_, hrt, hc⟩
  unfold State.asRead
  split <;> rfl

/-! ### A suspended operation -/

theorem exists_mem_updFirst {α : Type} {p : α → Bool} {f : α → α} {l : List α} {a : α} (ha : a ∈ l) (hp : p a = true) :
    ∃ b ∈ l, p b = true ∧ f b ∈ updFirst p f l := by
  induction l with
  | nil => cases ha
  | cons b l ih =>
    unfold updFirst
    split
    · next hb => exact ⟨b, List.mem_cons_self, hb, List.mem_cons_self⟩
    · next hb =>
      rcases List.mem_cons.mp ha with rfl | ha
      · exact absurd hp hb
      · obtain ⟨c, hc, hpc, hfc⟩ := ih ha
        exact ⟨c, List.mem_cons_of_mem _ hc, hpc, List.mem_cons_of_mem _ hfc⟩

theorem State.resumeOp_running {s : State} {op : ChJob} (h : op ∈ s.media.jobs) :
    ∃ x ∈ (s.resumeOp op).media.jobs, x.id = op.id ∧ x.st = .running := by
  obtain ⟨y, -, hy, hin⟩ := exists_mem_updFirst (p := fun j => decide (j.id = op.id))
    (f := fun j : ChJob => { j with st := .running, resumed := s.now }) h (by simp)
  exact ⟨_, hin, of_decide_eq_true hy, rfl⟩

/-! ### A die that times out -/

/-- What a fold has put out once stays put out. -/
theorem exists_out_foldl {α : Type} {P : Output → Prop} {f : State → α → State} {l : List α} {a : α}
    (keeps : ∀ s b o, o ∈ s.out → o ∈ (f s b).out) (ha : a ∈ l) (puts : ∀ s, ∃ o ∈ (f s a).out, P o) (s : State) :
    ∃ o ∈ (l.foldl f s).out, P o := by
  have stays : ∀ (l : List α) (s : State) (o : Output), o ∈ s.out → o ∈ (l.foldl f s).out := by
    intro l
    induction l with
    | nil => exact fun _ _ h => h
    | cons b l ih => exact fun s o h => ih _ _ (keeps s b o h)
  induction l generalizing s with
  | nil => cases ha
  | cons b l ih =>
    rcases List.mem_cons.mp ha with rfl | ha
    · obtain ⟨o, ho, hP⟩ := puts s
      exact ⟨o, stays l _ o ho, hP⟩
    · exact ih ha _

theorem MediaKeeps.hung {s t : State} (k : MediaKeeps s t) (d : Nat) : (t.die d).hung = (s.die d).hung :=
  (congrArg DieSt.hung (MediaKept.dies k d).core : (t.die d).core.hung = (s.die d).core.hung)

theorem State.modDie_die {s : State} {d : Nat} {f : DieSt → DieSt} : (s.modDie d f).die d = f (s.die d) :=
  congrArg (fun o => Option.getD o DieSt.reset) (tableGet_put _ _ _)

/-- The requests of a die that times out end DIE_TIMEOUT. -/
def State.timedOut (s : State) (x : ChJob) : State := (s.chResult x (plainEnd .dieTimeout 0) []).chDone x (plainEnd .dieTimeout 0)

theorem State.timedOut_media {s : State} {x : ChJob} : MediaKeeps s (s.timedOut x) :=
  State.chDone_media.step (.keep State.chResult_keeps rfl .refl)

theorem State.timedOut_keeps_out {s : State} {x : ChJob} {o : Output} (h : o ∈ s.out) : o ∈ (s.timedOut x).out :=
  State.chDone_keeps.mem_out (State.chResult_keeps.mem_out h)

theorem State.timedOut_answers {s : State} {x : ChJob} (hx : x.what = .firmware) :
    ∃ o ∈ (s.timedOut x).out, ∃ c : ChOut, o = .chisel x.w c ∧ c.result = .dieTimeout ∧ c.cookie = x.req.cookie := by
  obtain ⟨c, hc, hr, -, -, hk⟩ := State.chResult_answers (s := s) (e := plainEnd .dieTimeout 0) (data := []) hx
  exact ⟨_, State.chDone_keeps.mem_out hc, c, rfl, hr, hk⟩

/-- The requests that end with a job on a die that times out. -/
def State.timeouts (s : State) (j : ChJob) : List ChJob :=
  s.media.jobs.filter (fun x => x.id = j.id
    || (reqDie x.req = reqDie j.req && x.st ≠ .held && x.routine ≠ .status && x.routine ≠ .dieReset))

/-- The brick with the die of a job HUNG and the requests for it gone. -/
def State.hangDie (s : State) (j : ChJob) : State :=
  ((s.modDie (reqDie j.req) (fun x => { x with hung := true, fails := x.fails + b2n (j.routine = .dieReset) })).event
    (chnPage j.req.channel) CHN_EVT_TIMEOUT).modMedia (fun m => { m with
      jobs := m.jobs.filter (fun x => !((s.timeouts j).map (fun x => x.id)).contains x.id) })

theorem execDieTimeout_of_late {s : State} {id : Nat} {j : ChJob}
    (hj : s.media.jobs.find? (fun j => j.id = id && (j.st = .running || j.st = .inSuspension)) = some j)
    (hlate : opLimit j < j.ran + (s.now - j.resumed)) :
    execDieTimeout id s = .next ((((s.timeouts j).foldl (fun s x => s.timedOut x) (s.hangDie j)).grant
      (s.payer j) (chanPanel j.req.channel)).takeHeld j.req.channel) := by
  unfold execDieTimeout
  rw [hj]
  dsimp only
  rw [if_neg (Nat.not_le.mpr hlate)]
  rfl

theorem State.hangDie_hung (s : State) (j : ChJob) : ((s.hangDie j).die (reqDie j.req)).hung = true := by
  have dropped : ∀ (t : State) (p : ChJob → Bool),
      ((t.modMedia (fun m => { m with jobs := m.jobs.filter p })).die (reqDie j.req)).hung = (t.die (reqDie j.req)).hung := fun _ _ => rfl
  rw [State.hangDie, dropped, MediaKeeps.hung (.keep State.event_keeps rfl .refl), State.modDie_die]

theorem State.hangDie_ended {s : State} {j : ChJob} (hj : j ∈ s.media.jobs) (hid : j.id < s.media.nextJob) :
    Ended j.id (s.hangDie j) := by
  have named : j.id ∈ (s.timeouts j).map (fun x => x.id) :=
    List.mem_map.mpr ⟨j, List.mem_filter.mpr ⟨hj, by simp⟩, rfl⟩
  have media : (((s.modDie (reqDie j.req) (fun x => { x with hung := true, fails := x.fails + b2n (j.routine = .dieReset) })).event
      (chnPage j.req.channel) CHN_EVT_TIMEOUT)).media.nextJob = s.media.nextJob :=
    (JobsStay.keep State.event_keeps rfl .refl).nextJob.trans State.modDie_jobs.nextJob
  refine ⟨(show _ < Media.nextJob _ from media ▸ hid), fun x hx hxid => ?_⟩
  have kept := (List.mem_filter.mp hx).2
  rw [hxid] at kept
  simp [named] at kept

/-! ### A request that waits -/

/-- A request stands among those taken, and its id is its alone. -/
structure Stands (o : ChJob) (s : State) : Prop where
  there : ∃ x ∈ s.media.jobs, x.order = o
  alone : ∀ x ∈ s.media.jobs, x.id = o.id → x.order = o

theorem Stands.keep {o : ChJob} {l : List Part} {s t : State} (h : Stands o s) (k : Keeps l s t) (hl : l.contains .media = false) :
    Stands o t := by
  have e : t.media = s.media := k.part .media (by simpa using hl)
  exact ⟨e ▸ h.there, e ▸ h.alone⟩

theorem Stands.ite {o : ChJob} {t u : State} {c : Prop} [Decidable c] (ht : Stands o t) (hu : Stands o u) :
    Stands o (if c then t else u) := by
  split
  · exact ht
  · exact hu

theorem mem_updFirst_of_order {f : ChJob → ChJob} {p : ChJob → Bool} (hf : ∀ x, (f x).order = x.order) {l : List ChJob} {x : ChJob}
    (h : x ∈ l) : ∃ y ∈ updFirst p f l, y.order = x.order := by
  induction l with
  | nil => cases h
  | cons a l ih =>
    unfold updFirst
    split
    · rcases List.mem_cons.mp h with rfl | h
      · exact ⟨_, List.mem_cons_self, hf _⟩
      · exact ⟨x, List.mem_cons_of_mem _ h, rfl⟩
    · rcases List.mem_cons.mp h with rfl | h
      · exact ⟨_, List.mem_cons_self, rfl⟩
      · obtain ⟨y, hy, e⟩ := ih h
        exact ⟨y, List.mem_cons_of_mem _ hy, e⟩

theorem Stands.modCh {o : ChJob} {s : State} {id : Nat} {f : ChJob → ChJob} (h : Stands o s) (hf : ∀ x, (f x).order = x.order) :
    Stands o (s.modCh id f) := by
  obtain ⟨x, hx, hxo⟩ := h.there
  refine ⟨?_, fun y hy hid => ?_⟩
  · obtain ⟨y, hy, e⟩ := mem_updFirst_of_order (p := fun j => decide (j.id = id)) hf hx
    exact ⟨y, hy, e.trans hxo⟩
  · rcases mem_updFirst hy with hy | ⟨z, hz, rfl⟩
    · exact h.alone y hy hid
    · exact (hf z).trans (h.alone z hz ((congrArg ChJob.id (hf z)).symm.trans hid))

theorem Stands.startOp {o : ChJob} {s : State} {j : ChJob} (h : Stands o s) (hj : j.id = o.id → j.order = o)
    (ho : isProgram o.routine = false) : Stands o (s.startOp j) := by
  have started : Stands o (s.modCh j.id (fun j => { j with st := .running, started := s.now, resumed := s.now, ran := 0 })) :=
    h.modCh fun _ => rfl
  have waited := (started.keep (State.bump_keeps (p := .med (s.payer j)) (off := MED_CNT_TOKEN_WAIT)) rfl).ite (c := j.waited = true) started
  unfold State.startOp
  dsimp only
  cases hp : isProgram j.routine with
  | false =>
    rw [if_neg Bool.false_ne_true, if_neg (fun h => h rfl)]
    exact (waited.keep State.bumpBy_keeps rfl).ite waited
  | true =>
    have hne : j.id ≠ o.id := by
      intro hid
      have hr : j.routine = o.routine := by
        rw [← hj hid]
        rfl
      rw [← hr, hp] at ho
      cases ho
    have left : Stands o (s.modMedia (fun m => { m with jobs := m.jobs.filter (fun x => x.id ≠ j.id) })) := by
      refine ⟨?_, fun y hy => h.alone y (List.mem_filter.mp hy).1⟩
      obtain ⟨x, hx, hxo⟩ := h.there
      refine ⟨x, List.mem_filter.mpr ⟨hx, ?_⟩, hxo⟩
      have hxid : x.id = o.id := by
        rw [← hxo]
        rfl
      simpa [hxid] using Ne.symm hne
    rw [if_pos rfl]
    exact (left.keep State.chResult_keeps (by rfl)).ite ((waited.keep State.bumpBy_keeps (by rfl)).ite waited)

theorem State.oldestOp_mem {s : State} {w : Wy} {panel : Nat} {cls : List Nat} {j : ChJob} (h : s.oldestOp w panel cls = some j) :
    j ∈ s.media.jobs := by
  have picked : ∀ (l : List ChJob) (a : Option ChJob), (∀ x, a = some x → x ∈ s.media.jobs) → (∀ x ∈ l, x ∈ s.media.jobs) →
      ∀ x, l.foldl (fun a j => match a with
        | none => some j
        | some b => if j.id < b.id then some j else some b) a = some x → x ∈ s.media.jobs := by
    intro l
    induction l with
    | nil => exact fun a ha _ x hx => ha x hx
    | cons b l ih =>
      intro a ha hl x hx
      refine ih _ (fun y hy => ?_) (fun y hy => hl y (List.mem_cons_of_mem _ hy)) x hx
      dsimp only at hy
      split at hy
      · exact Option.some.inj hy ▸ hl b List.mem_cons_self
      · split at hy
        · exact Option.some.inj hy ▸ hl b List.mem_cons_self
        · exact ha y hy
  exact picked _ none (fun _ h => by cases h) (fun x hx => (List.mem_filter.mp hx).1) j h

section
variable {o : ChJob} (ho : isProgram o.routine = false)
include ho

theorem Stands.grantMin {s : State} {w : Wy} {panel : Nat} {cls : List Nat} (h : Stands o s) : Stands o (s.grantMin w panel cls) := by
  unfold State.grantMin
  split
  · next j hj =>
    split
    · exact h.startOp (h.alone j (State.oldestOp_mem hj)) ho
    · exact h
  · exact h

theorem Stands.grantRest {s : State} {w : Wy} {panel : Nat} {l : List (List Nat)} (h : Stands o s) : Stands o (s.grantRest w panel l) := by
  induction l generalizing s with
  | nil => exact h
  | cons cls l ih =>
    unfold State.grantRest
    split
    · exact ih h
    · next j hj =>
      split
      · exact ih (h.startOp (h.alone j (State.oldestOp_mem hj)) ho)
      · exact h

theorem Stands.grantDump {s : State} {panel : Nat} (h : Stands o s) : Stands o (s.grantDump panel) := by
  have each : ∀ (l : List ChJob) (t : State), (∀ j ∈ l, j.id = o.id → j.order = o) → Stands o t →
      Stands o (l.foldl (fun s j =>
        if (s.media.jobs.filter (fun x => x.st = .running && x.req.channel = j.req.channel)).length < 4 && !s.dieBusy (reqDie j.req)
            && !s.behind j then s.startOp j else s) t) := by
    intro l
    induction l with
    | nil => exact fun t _ ht => ht
    | cons j l ih =>
      refine fun t hl ht => ih _ (fun x hx => hl x (List.mem_cons_of_mem _ hx)) ?_
      dsimp only
      split
      · exact ht.startOp (hl j List.mem_cons_self) ho
      · exact ht
  exact each _ s (fun j hj => h.alone j (List.mem_filter.mp hj).1) h

theorem Stands.grant {s : State} {w : Wy} {panel : Nat} (h : Stands o s) : Stands o (s.grant w panel) := by
  unfold State.grant
  split
  · exact h.grantDump ho
  · refine Stands.grantRest ho ?_
    next hdump =>
    clear hdump
    generalize s.classOrder w = l
    induction l generalizing s with
    | nil => exact h
    | cons c l ih => exact ih (h.grantMin ho)

end

theorem Stands.nextRead {o : ChJob} {s : State} {op : ChJob} (h : Stands o s) : Stands o (s.nextRead op) := by
  unfold State.nextRead
  split
  · exact h.modCh fun _ => rfl
  · exact h

theorem Stands.trySuspend {o : ChJob} {s : State} {op : ChJob} (h : Stands o s) : Stands o (s.trySuspend op) := by
  unfold State.trySuspend
  dsimp only
  split
  · refine Stands.nextRead (Stands.keep (h.modCh fun _ => ?_) State.bump_keeps rfl)
    rfl
  · exact h

theorem Stands.suspendDue {o : ChJob} {s : State} (h : Stands o s) : Stands o s.suspendDue := by
  unfold State.suspendDue
  generalize s.media.jobs = l
  induction l generalizing s with
  | nil => exact h
  | cons j l ih => exact ih h.trySuspend

/-- A request that is not refused stands once its course has taken it (R344). -/
theorem Stands.chTake {o : ChJob} {s : State} {j : ChJob} (ho : isProgram o.routine = false) (h : Stands o s)
    (hok : s.refuseReq j.w j.routine j.req = none) : Stands o (s.chTake j) := by
  unfold State.chTake
  rw [hok]
  dsimp only
  refine Stands.suspendDue (Stands.modCh (Stands.grant ho (Stands.modCh ?_ fun _ => rfl)) fun x => ?_)
  · split
    · exact (h.keep State.bump_keeps rfl).keep State.bump_keeps rfl
    · exact h.keep State.bump_keeps rfl
  · split <;> rfl

/-- A request as it is submitted. -/
def State.newJob (s : State) (w : Wy) (rt : Routine) (r : ChReq) (what : ChFor) : ChJob :=
  { id := s.media.nextJob, w := w, routine := rt, req := r, what := what, st := .held, waited := false, started := 0, resumed := 0,
    ran := 0, suspends := 0 }

/-- A request stands once submitted, where no limit holds it back and nothing refuses it, or where a limit holds it (R344). -/
theorem State.submit_stands {s : State} {w : Wy} {rt : Routine} {r : ChReq} {what : ChFor}
    (hids : ∀ j ∈ s.media.jobs, j.id < s.media.nextJob) (hrt : isProgram rt = false)
    (hok : s.chFull r.channel = true ∨ (s.modMedia (fun m => { m with
      jobs := m.jobs ++ [s.newJob w rt r what], nextJob := m.nextJob + 1 })).refuseReq w rt r = none) :
    Stands (s.newJob w rt r what) (s.submit w rt r what) := by
  have queued : Stands (s.newJob w rt r what) (s.modMedia (fun m => { m with
      jobs := m.jobs ++ [s.newJob w rt r what], nextJob := m.nextJob + 1 })) := by
    refine ⟨⟨_, List.mem_append_right _ List.mem_cons_self, rfl⟩, fun x hx hid => ?_⟩
    rcases List.mem_append.mp hx with hx | hx
    · exact absurd (hids x hx) (Nat.not_lt.mpr hid.ge)
    · rw [List.mem_singleton.mp hx]
      rfl
  unfold State.submit
  dsimp only
  split
  · exact (queued.keep State.bump_keeps rfl).keep State.event_keeps rfl
  · next hfull => exact queued.chTake hrt (hok.resolve_left hfull)

/-- The request of the calibration of a die (R333). -/
def calibration (d : Nat) : ChReq :=
  { flags := 0, cls := 4, die := d % 32, channel := d / 32, planes := 0, cw := 0, retry := 0, blocks := [], page := 0, erases := 0,
    offsets := [], res35 := 0, buffer := 0, bufOff := 0, cookie := 0, seq := 0, time := 0, slots := [], sources := [] }

theorem badField_calibration (d : Fin 2048) : badField .calibrate (calibration d.val) = none := by
  have hch : d.val / 32 ≤ 63 := by omega
  have hdie : d.val % 32 ≤ 31 := by omega
  simp [badField, calibration, planesOf, bits, Nat.not_lt.mpr hch, Nat.not_lt.mpr hdie]

theorem reqDie_calibration (d : Nat) : reqDie (calibration d) = d := by
  unfold reqDie calibration
  dsimp only
  omega

theorem State.refuseReq_calibration {s : State} {w : Wy} {d : Fin 2048} (hdriven : s.drivenFor w (d.val / 32) = true)
    (hhung : (s.die d.val).hung = false) : s.refuseReq w .calibrate (calibration d.val) = none := by
  unfold State.refuseReq
  rw [badField_calibration]
  dsimp only
  rw [reqDie_calibration, if_neg (by simp), if_neg (by simp [calibration, hdriven]), if_neg (by simp)]
  dsimp only
  rw [if_neg (by simp), if_neg (by simp [hhung]), if_neg (by simp)]

end Sys2Proof.Machine

namespace Sys2Proof
open Sys2Proof.Machine

/-- Settles O30, event by event: an operation's id is gone once it has left its die, and later requests have later ids (`Ended`); a
calibration that nothing refuses stands among the requests (`Stands`). -/
theorem dieOperationsEnd : Obligations.DieOperationsEnd := by
  unfold Obligations.DieOperationsEnd
  intro s hids
  refine ⟨fun id j e hj => ?_, fun d op hop hidle => ?_, fun id j hj hlate => ?_, fun d hdue hok => ?_⟩
  · have hmem := List.mem_of_find?_eq_some hj
    have hid : j.id = id := by
      have hp := List.find?_some hj
      simp only [Bool.and_eq_true, decide_eq_true_eq] at hp
      exact hp.1
    refine runs_intro (t := s.endOp j e) ?_ ⟨?_, State.endOp_answers⟩
    · show execDieOpEnd id e s = _
      unfold execDieOpEnd
      rw [hj]
    · exact hid ▸ (State.endOp_ended (hids j hmem)).2
  · refine runs_intro (t := s.resumeOp op) ?_ (State.resumeOp_running (List.mem_of_find?_eq_some hop))
    show execSuspensionEnd d s = _
    unfold execSuspensionEnd
    rw [hop]
    dsimp only
    have hdie : reqDie op.req = d.val := by
      have hp := List.find?_some hop
      simp only [Bool.and_eq_true, decide_eq_true_eq] at hp
      exact hp.2
    have hreading : s.media.jobs.any (fun j => j.st = .inSuspension && reqDie j.req = d.val) = false := by
      rw [List.any_eq_false]
      intro j hj hp
      simp only [Bool.and_eq_true, decide_eq_true_eq] at hp
      exact (hidle j hj hp.2).1 hp.1
    have heligible : s.media.jobs.any (eligible op) = false := by
      rw [List.any_eq_false]
      intro j hj hp
      simp only [eligible, Bool.and_eq_true, decide_eq_true_eq] at hp
      exact (hidle j hj (hp.1.2.trans hdie)).2 hp.1.1.1.1.1
    rw [hreading, heligible, if_neg (by simp)]
  · have hmem := List.mem_of_find?_eq_some hj
    have hid : j.id = id := by
      have hp := List.find?_some hj
      simp only [Bool.and_eq_true, decide_eq_true_eq] at hp
      exact hp.1
    refine runs_intro (execDieTimeout_of_late hj hlate) ?_
    have ends : MediaKeeps (s.hangDie j) ((s.timeouts j).foldl (fun s x => s.timedOut x) (s.hangDie j)) :=
      .foldl (fun _ _ => State.timedOut_media) .refl
    have all := (State.takeHeld_media (c := j.req.channel)).step ((State.grant_media (panel := chanPanel j.req.channel)
      (w := s.payer j)).step ends)
    refine ⟨?_, hid ▸ ((State.hangDie_ended hmem (hids j hmem)).media all).2, fun hwhat => ?_⟩
    · rw [all.hung]
      exact s.hangDie_hung j
    · have hout : j ∈ s.timeouts j := List.mem_filter.mpr ⟨hmem, by simp⟩
      obtain ⟨o, ho, c, rfl, hr, hc⟩ := exists_out_foldl (f := fun s x => State.timedOut s x) (fun _ _ _ => State.timedOut_keeps_out) hout
        (fun _ => State.timedOut_answers hwhat) (s.hangDie j)
      exact ⟨c, State.takeHeld_keeps.mem_out (State.grant_keeps.mem_out ho), hr, hc⟩
  · refine runs_intro (t := s.submit (s.setWy (setOf (d.val / 32))) .calibrate (calibration d.val) .calibration) ?_ ?_
    · have hlate : s.since (s.die d.val).calAt (sec 86400) = true := (State.since_sec ..).mpr hdue
      show execCalibrationTimer d s = _
      unfold execCalibrationTimer
      dsimp only
      rw [hlate, Bool.true_or, if_pos rfl]
      rfl
    · obtain ⟨⟨x, hx, ho⟩, -⟩ := State.submit_stands (w := s.setWy (setOf (d.val / 32))) (r := calibration d.val) (what := .calibration) hids
        (rfl : isProgram .calibrate = false) (hok.imp_right fun ⟨hdriven, hhung⟩ => State.refuseReq_calibration hdriven hhung)
      have hreq : x.req = calibration d.val := (congrArg ChJob.req ho : x.order.req = _)
      exact ⟨x, hx, (congrArg ChJob.routine ho : x.order.routine = _), by rw [hreq, reqDie_calibration], (congrArg ChJob.what ho : x.order.what = _)⟩

end Sys2Proof
end

section
/-! PROOFS. The Plinth (R421-R447): what its start leaves of it, its supplies, heartbeats, time, recorder and commands. -/

namespace Sys2Proof.Machine

/-! ### What the start of the Plinth leaves -/

/-- The Plinth but for its key store and the choice of its image. -/
def Plinth.core (p : Plinth) : Plinth := { p with ksA := none, ksB := none, ksOk := true, slotB := false, fallback := false }

/-- The Plinth stays but for its key store and the choice of its image. -/
def PlinthKeeps (s t : State) : Prop := t.plinth.core = s.plinth.core

theorem PlinthKeeps.refl {s : State} : PlinthKeeps s s := rfl

theorem PlinthKeeps.step {s t u : State} (k : PlinthKeeps t u) (h : PlinthKeeps s t) : PlinthKeeps s u := Eq.trans k h

theorem PlinthKeeps.keep {l : List Part} {s t u : State} (k : Keeps l t u) (hl : l.contains .plinth = false) (h : PlinthKeeps s t) :
    PlinthKeeps s u := by
  have e : u.plinth = t.plinth := k.part .plinth (by simpa using hl)
  rwa [PlinthKeeps, e]

theorem PlinthKeeps.modPlinth {s t : State} {f : Plinth → Plinth} (hf : ∀ p, (f p).core = p.core) (h : PlinthKeeps s t) :
    PlinthKeeps s (t.modPlinth f) := .step (hf _) h

theorem PlinthKeeps.foldl {α : Type} {s u : State} {f : State → α → State} {xs : List α} (hf : ∀ v a, PlinthKeeps v (f v a))
    (h : PlinthKeeps s u) : PlinthKeeps s (xs.foldl f u) := by
  induction xs generalizing u with
  | nil => exact h
  | cons a xs ih => exact ih ((hf u a).step h)

theorem State.writeKeys_plinth {s : State} {f : KsImage → KsImage} : PlinthKeeps s (State.writeKeys s f) := by
  unfold State.writeKeys
  split
  · exact .refl
  · exact rfl

theorem State.retireSector_plinth {s : State} {sector : Nat} {erased : Bool} :
    PlinthKeeps s (State.retireSector s sector erased) := by
  unfold State.retireSector
  try dsimp only
  repeat' first
    | with_reducible exact PlinthKeeps.refl
    | with_reducible apply PlinthKeeps.step State.writeKeys_plinth
    | with_reducible apply PlinthKeeps.keep State.used_keeps
    | with_reducible apply PlinthKeeps.keep State.modFlash_keeps
    | with_reducible apply PlinthKeeps.keep State.wipeSector_keeps
    | with_reducible apply PlinthKeeps.keep State.recordOpen_keeps
    | with_reducible apply PlinthKeeps.keep State.event_keeps
    | rfl
    | split

theorem State.runProgram_plinth {s : State} {by_ : FlashBy} {addr : Nat} {data : Bytes} {ok : Bool} :
    PlinthKeeps s (State.runProgram s by_ addr data ok) := by
  unfold State.runProgram
  try dsimp only
  repeat' first
    | with_reducible exact PlinthKeeps.refl
    | with_reducible apply PlinthKeeps.keep State.bump_keeps
    | with_reducible apply PlinthKeeps.keep State.used_keeps
    | with_reducible apply PlinthKeeps.keep State.modFlash_keeps
    | with_reducible apply PlinthKeeps.keep State.flashRefuse_keeps
    | with_reducible apply PlinthKeeps.keep State.putWord_keeps
    | with_reducible apply PlinthKeeps.step State.retireSector_plinth
    | with_reducible apply PlinthKeeps.keep State.flashEnd_keeps
    | with_reducible apply PlinthKeeps.keep State.recordOpen_keeps
    | rfl
    | split

theorem State.runFlash_plinth {s : State} {x : FlashWait} :
    PlinthKeeps s (State.runFlash s x) := by
  unfold State.runFlash
  try dsimp only
  repeat' first
    | with_reducible exact PlinthKeeps.refl
    | with_reducible apply PlinthKeeps.keep State.runRead_keeps
    | with_reducible apply PlinthKeeps.keep State.modFlash_keeps
    | with_reducible apply PlinthKeeps.step State.runProgram_plinth
    | rfl
    | split

theorem State.rewrite_plinth {s : State} {sector : Nat} {keep : List EvtRec} :
    PlinthKeeps s (State.rewrite s sector keep) := by
  unfold State.rewrite
  try dsimp only
  repeat' first
    | with_reducible exact PlinthKeeps.refl
    | with_reducible apply PlinthKeeps.step State.runFlash_plinth
    | with_reducible apply PlinthKeeps.keep State.writeEntry_keeps
    | with_reducible apply PlinthKeeps.keep State.modRec_keeps
    | (with_reducible apply PlinthKeeps.foldl; intro _ _; try dsimp only)
    | rfl

theorem State.placeEntry_plinth {s : State} {e : EvtRec} :
    PlinthKeeps s (State.placeEntry s e) := by
  unfold State.placeEntry
  try dsimp only
  repeat' first
    | with_reducible exact PlinthKeeps.refl
    | with_reducible apply PlinthKeeps.keep State.bump_keeps
    | with_reducible apply PlinthKeeps.keep State.writeEntry_keeps
    | with_reducible apply PlinthKeeps.step State.rewrite_plinth
    | with_reducible apply PlinthKeeps.keep State.modRec_keeps
    | with_reducible apply PlinthKeeps.keep State.event_keeps
    | rfl
    | split

theorem State.placeQueue_plinth {s : State} {n : Nat} :
    PlinthKeeps s (State.placeQueue s n) := by
  induction n generalizing s with
  | zero => exact .refl
  | succ n ih =>
    unfold State.placeQueue
    try dsimp only
    repeat' first
      | with_reducible apply PlinthKeeps.refl
      | with_reducible assumption
      | with_reducible apply PlinthKeeps.step ih
      | with_reducible apply PlinthKeeps.step State.placeEntry_plinth
      | with_reducible apply PlinthKeeps.keep State.modRec_keeps
      | rfl
      | split

theorem State.takeEntry_plinth {s : State} {e : EvtRec} :
    PlinthKeeps s (State.takeEntry s e) := by
  unfold State.takeEntry
  try dsimp only
  repeat' first
    | with_reducible exact PlinthKeeps.refl
    | with_reducible apply PlinthKeeps.keep State.bump_keeps
    | with_reducible apply PlinthKeeps.step State.placeQueue_plinth
    | with_reducible apply PlinthKeeps.keep State.modRec_keeps
    | with_reducible apply PlinthKeeps.keep State.event_keeps
    | rfl
    | split

theorem State.plinthEntry_plinth {s : State} {severity code page : Nat} {detail : Bytes} :
    PlinthKeeps s (State.plinthEntry s severity code page detail) := by
  unfold State.plinthEntry
  repeat' first
    | with_reducible exact PlinthKeeps.refl
    | with_reducible apply PlinthKeeps.step State.takeEntry_plinth

theorem State.clearStep_plinth {s : State} :
    PlinthKeeps s (State.clearStep s) := by
  unfold State.clearStep
  try dsimp only
  repeat' first
    | with_reducible exact PlinthKeeps.refl
    | with_reducible apply PlinthKeeps.step State.plinthEntry_plinth
    | with_reducible apply PlinthKeeps.step State.rewrite_plinth
    | with_reducible apply PlinthKeeps.keep State.modRec_keeps
    | with_reducible apply PlinthKeeps.keep State.event_keeps
    | rfl
    | split

theorem State.renewStep_plinth {s : State} :
    PlinthKeeps s (State.renewStep s) := by
  unfold State.renewStep
  try dsimp only
  repeat' first
    | with_reducible exact PlinthKeeps.refl
    | with_reducible apply PlinthKeeps.keep State.modRec_keeps
    | with_reducible apply PlinthKeeps.step State.rewrite_plinth
    | rfl
    | split

theorem State.recorderStart_plinth {s : State} :
    PlinthKeeps s (State.recorderStart s) := by
  unfold State.recorderStart
  try dsimp only
  repeat' first
    | with_reducible exact PlinthKeeps.refl
    | with_reducible apply PlinthKeeps.step State.renewStep_plinth
    | with_reducible apply PlinthKeeps.step State.runFlash_plinth
    | with_reducible apply PlinthKeeps.step State.clearStep_plinth
    | with_reducible apply PlinthKeeps.keep State.modFlash_keeps
    | with_reducible apply PlinthKeeps.keep State.modRec_keeps
    | rfl
    | split

theorem State.choosePlinth_plinth {s : State} :
    PlinthKeeps s (State.choosePlinth s) := by
  unfold State.choosePlinth
  try dsimp only
  repeat' first
    | with_reducible exact PlinthKeeps.refl
    | with_reducible apply PlinthKeeps.keep State.stamp_keeps
    | with_reducible apply PlinthKeeps.modPlinth
    | with_reducible apply PlinthKeeps.keep State.fwFallback_keeps
    | rfl
    | (intro _; rfl)
    | split

theorem State.loadKeys_plinth {s : State} {ksA ksB : Bool} :
    PlinthKeeps s (State.loadKeys s ksA ksB) := by
  unfold State.loadKeys
  try dsimp only
  repeat' first
    | with_reducible exact PlinthKeeps.refl
    | with_reducible apply PlinthKeeps.modPlinth
    | with_reducible apply PlinthKeeps.keep State.recordOpen_keeps
    | with_reducible apply PlinthKeeps.keep State.event_keeps
    | rfl
    | (intro _; rfl)
    | split
/-! ### Fields of registers -/

/-- A field reads as the value set, while the value fits. -/
theorem fld_setFld {x : Word} {hi lo v : Nat} (hhi : hi < 32) (hlo : lo ≤ hi) (hv : v < 2 ^ (hi + 1 - lo)) :
    fld (setFld x hi lo v) hi lo = v := by
  obtain ⟨p, hp⟩ : ∃ p, p = 2 ^ lo := ⟨_, rfl⟩
  obtain ⟨q, hq⟩ : ∃ q, q = 2 ^ (hi + 1 - lo) := ⟨_, rfl⟩
  obtain ⟨r, hr⟩ : ∃ r, r = 2 ^ (31 - hi) := ⟨_, rfl⟩
  have hpow : p * q * r = 2 ^ 32 := by
    rw [hp, hq, hr, ← Nat.pow_add, ← Nat.pow_add]
    congr 1
    omega
  have hpos : 0 < p := hp ▸ Nat.two_pow_pos lo
  have hx : x.toNat < p * q * r := hpow ▸ x.isLt
  rw [← hq] at hv
  have split₁ : x.toNat = p * (x.toNat / p) + x.toNat % p := (Nat.div_add_mod ..).symm
  have split₂ : x.toNat / p = q * (x.toNat / p / q) + x.toNat / p % q := (Nat.div_add_mod ..).symm
  have hc : x.toNat % p < p := Nat.mod_lt _ hpos
  have hbq : x.toNat / p % q < q := Nat.mod_lt _ (by omega)
  have ha : x.toNat / p / q < r := by
    rw [Nat.div_div_eq_div_mul]
    exact Nat.div_lt_of_lt_mul hx
  generalize x.toNat / p / q = a at *
  generalize x.toNat / p % q = b at *
  generalize x.toNat % p = c at *
  have set_ : x.toNat - b * p + v * p = p * (q * a + v) + c := by
    rw [split₁, split₂, Nat.mul_add]
    have : b * p = p * b := Nat.mul_comm ..
    have : v * p = p * v := Nat.mul_comm ..
    rw [Nat.mul_add p (q * a) v]
    omega
  have fits : p * (q * a + v) + c < 2 ^ 32 := by
    rw [← hpow, Nat.mul_assoc]
    have h₁ : q * a + v + 1 ≤ q * r := by
      calc q * a + v + 1 ≤ q * a + q := by omega
        _ = q * (a + 1) := by rw [Nat.mul_succ]
        _ ≤ q * r := Nat.mul_le_mul_left _ ha
    calc p * (q * a + v) + c < p * (q * a + v) + p := by omega
      _ = p * (q * a + v + 1) := by rw [Nat.mul_succ]
      _ ≤ p * (q * r) := Nat.mul_le_mul_left _ h₁
  have hb : fld x hi lo = x.toNat / p % q := by rw [hp, hq]; rfl
  have read : p * (q * a + v) + c = x.toNat - fld x hi lo * p + v % q * p := by
    rw [Nat.mod_eq_of_lt hv, ← set_]
    congr 3
    rw [hb, split₂, Nat.mul_add_mod]
    exact (Nat.mod_eq_of_lt hbq).symm
  rw [setFld, ← hp, ← hq, ← read, fld, bits, ← hp, ← hq, word, BitVec.toNat_ofNat, Nat.mod_eq_of_lt fits,
    Nat.mul_add_div hpos, Nat.div_eq_of_lt hc, Nat.add_zero, Nat.mul_add_mod, Nat.mod_eq_of_lt hv]

theorem State.setRfld_rfld {s : State} {p : Page} {off hi lo v : Nat} (hhi : hi < 32) (hlo : lo ≤ hi) (hv : v < 2 ^ (hi + 1 - lo)) :
    (s.setRfld p off hi lo v).rfld p off hi lo = v := by
  rw [State.rfld, State.setRfld, State.setReg_reg_self, fld_setFld hhi hlo hv]

/-! ### The start of the Plinth (R424) -/

theorem State.dropSessions_plinth (s : State) : s.dropSessions.plinth = { s.plinth with sessions := [] } := by
  unfold State.dropSessions
  split
  · next h => rw [← h]
  · exact State.event_keeps.part .plinth (by decide)

/-- What a Plinth is after its start. -/
structure Booted (s t : State) (cal : Bool) : Prop where
  up : t.plinth.up = s.plinth.up
  source : t.plinth.source = s.plinth.source
  uncertain : t.plinth.uncertain = s.plinth.uncertain
  sessions : t.plinth.sessions = []
  resetAt : t.plinth.resetAt = s.now
  calOk : t.plinth.calOk = cal

theorem Booted.keep {s t u : State} {cal : Bool} {l : List Part} (h : Booted s t cal) (k : Keeps l t u) (hl : l.contains .plinth = false) :
    Booted s u cal := by
  have e : u.plinth = t.plinth := k.part .plinth (by simpa using hl)
  exact ⟨e ▸ h.up, e ▸ h.source, e ▸ h.uncertain, e ▸ h.sessions, e ▸ h.resetAt, e ▸ h.calOk⟩

theorem State.plinthBoot_booted (s : State) (cal ksA ksB : Bool) : Booted s (s.plinthBoot cal ksA ksB) cal := by
  have loaded : PlinthKeeps s.choosePlinth.dropSessions ((s.choosePlinth.dropSessions.recorderStart).loadKeys ksA ksB) :=
    State.loadKeys_plinth.step State.recorderStart_plinth
  have core : ((s.choosePlinth.dropSessions.recorderStart).loadKeys ksA ksB).plinth.core = { s.plinth.core with sessions := [] } := by
    have chosen : s.choosePlinth.plinth.core = s.plinth.core := State.choosePlinth_plinth
    rw [← chosen, loaded, State.dropSessions_plinth]
    rfl
  unfold State.plinthBoot
  dsimp only
  generalize (s.choosePlinth.dropSessions.recorderStart).loadKeys ksA ksB = t at core
  have up := congrArg Plinth.up core
  have source := congrArg Plinth.source core
  have uncertain := congrArg Plinth.uncertain core
  have sessions := congrArg Plinth.sessions core
  have set_ : Booted s (t.modPlinth (fun p => { p with resetAt := s.now, calOk := cal, heldOff := !cal || !p.ksOk })) cal :=
    ⟨up, source, uncertain, sessions, rfl, rfl⟩
  have recorded := set_.keep (State.recordOpen_keeps (source := 0) (severity := 3) (p := .plt) (detail := [])) rfl
  split <;> split
  · exact set_.keep State.modFront_keeps rfl
  · exact recorded.keep State.modFront_keeps rfl
  · exact set_
  · exact recorded

/-! ### Supplies (R422) -/

theorem State.pickSource_found {s : State} (h : s.sourceNow ≠ 0) : s.pickSource.plinth = { s.plinth with lostAt := none, source := s.sourceNow }
    ∧ (s.sourceNow ≠ s.plinth.source → bitOf (s.pickSource.reg .plt EVT_STATUS) PLT_EVT_SOURCE_CHANGE = true) := by
  unfold State.pickSource
  dsimp only
  rw [if_neg h]
  split
  · next hsame => exact ⟨rfl, fun hne => absurd hsame hne⟩
  · exact ⟨(State.event_keeps.part .plinth (by decide)).trans (State.bump_keeps.part .plinth (by decide)),
      fun _ => State.event_sets_bit (by decide) _ _⟩

theorem State.sourceNow_of_eq {s t : State} (hp : t.plinth = s.plinth) (hh : t.health = s.health) : t.sourceNow = s.sourceNow := by
  unfold State.sourceNow
  rw [hp, hh]

/-- The Plinth without a supply (R422, R488). -/
def State.plinthGone (s : State) : State :=
  (((s.dropRegs (fun k => 0x2000000 ≤ k && k < 0x2005000)).modPlinth (fun p => { p with
    up := false, source := 0, training := [], marks := [], sessions := [], tickets := [], startOn := false, restarts := [],
    thermal := [] })).modRec (fun r => { r with queue := [], acked := [], banks := List.replicate 5 .reset })).modFront (fun f => { f with
      locateAt := none, refreshing := false, kept := none, removeSt := 0, unclean := false, refusedAt := none, deadline := none,
      asking := none })

theorem execLossOfEverySupply_of_late {s : State} {at_ : Nat} (hup : s.plinth.up = true) (hlost : s.plinth.lostAt = some at_)
    (hlate : at_ + 50000000 ≤ s.now) : execLossOfEverySupply s = .next s.plinthGone := by
  unfold execLossOfEverySupply
  rw [hlost]
  dsimp only
  rw [if_neg (by simp [hup, (State.since_ms s at_ 50).mpr hlate])]
  rfl

/-! ### Heartbeats (R421) -/

theorem State.hearPlinth_ok (s : State) (w : Wy) : (s.hearPlinth w).plinthOk w = true :=
  decide_eq_true (State.setRfld_rfld (by decide) (by decide) (by decide))

theorem State.hearPlinth_peer (s : State) (w : Wy) : (s.hearPlinth w.peer).plinthOk w = s.plinthOk w := by
  have hne : (Page.glb w) ≠ .glb w.peer := by cases w <;> decide
  unfold State.plinthOk State.rfld State.hearPlinth State.setRfld
  rw [State.setReg_reg_of_ne (pageKey_ne hne (by decide) (by decide))]
  rfl

theorem State.hearPlinth_failed (s : State) (w : Wy) : (s.hearPlinth w).plinth.failed = false := by
  cases w <;> rfl

/-- A running wythe hears the Plinth. -/
theorem heard {s : State} {w : Wy} (h : s.running w = true) :
    (([Wy.w0, Wy.w1].filter s.running).foldl State.hearPlinth s).plinthOk w = true
      ∧ (([Wy.w0, Wy.w1].filter s.running).foldl State.hearPlinth s).plinth.failed = false := by
  cases w with
  | w0 =>
    cases h1 : s.running .w1
    · simp [List.filter, h, h1, State.hearPlinth_ok, State.hearPlinth_failed]
    · have keeps := (s.hearPlinth .w0).hearPlinth_peer .w0
      simp only [Wy.peer] at keeps
      simp [List.filter, h, h1, State.hearPlinth_failed, keeps, State.hearPlinth_ok]
  | w1 =>
    cases h0 : s.running .w0 <;> simp [List.filter, h, h0, State.hearPlinth_ok, State.hearPlinth_failed]

theorem execPlinthFailed_of_late {s : State} {at_ : Nat} (hrun : s.running .w0 = true) (hlost : s.plinth.lost0 = some at_)
    (hlate : at_ + 10000000000 ≤ s.now) : execPlinthFailed s = .next (s.modPlinth (fun p => { p with failed := true })) := by
  have hdue : s.since at_ (sec 10) = true := (State.since_sec s at_ 10).mpr hlate
  rw [execPlinthFailed]
  dsimp only
  refine congrArg Host.Outcome.next (if_pos ?_)
  rw [hlost, Option.any_some, hdue, hrun, Bool.and_self, Bool.true_or]

/-! ### The recorder (R440, R441, R444) -/

/-- The recorder's next SEQ and the entries on their way stay. -/
structure SeqKept (s t : State) : Prop where
  nextSeq : t.recorder.nextSeq = s.recorder.nextSeq
  arriving : t.arriving = s.arriving

theorem SeqKept.refl {s : State} : SeqKept s s := ⟨rfl, rfl⟩

theorem SeqKept.step {s t u : State} (k : SeqKept t u) (h : SeqKept s t) : SeqKept s u :=
  ⟨k.nextSeq.trans h.nextSeq, k.arriving.trans h.arriving⟩

theorem SeqKept.keep {l : List Part} {s t u : State} (k : Keeps l t u) (hl : (l.contains .recorder || l.contains .arriving) = false)
    (h : SeqKept s t) : SeqKept s u := by
  obtain ⟨hr, ha⟩ := Bool.or_eq_false_iff.mp hl
  have er : u.recorder = t.recorder := k.part .recorder (by simpa using hr)
  exact .step ⟨by rw [er], k.part .arriving (by simpa using ha)⟩ h

theorem SeqKept.ite {l : List Part} {s t u : State} {c : Prop} [Decidable c] (k : Keeps l t u)
    (hl : (l.contains .recorder || l.contains .arriving) = false) (h : SeqKept s t) : SeqKept s (if c then u else t) := by
  split
  · exact .keep k hl h
  · exact h

theorem State.writeEntry_seq {s : State} {k : Nat} {e : EvtRec} : SeqKept s (s.writeEntry k e) :=
  .keep State.putWord_keeps rfl (.keep State.putWord_keeps rfl .refl)

theorem State.rewrite_seq {s : State} {sector : Nat} {keep : List EvtRec} : SeqKept s (s.rewrite sector keep) := by
  have copied : ∀ (n : Nat) (l : List (EvtRec × Nat)) (t : State),
      SeqKept t (l.foldl (fun v x => v.writeEntry (n * 128 + 2 * x.2) x.1) t) := by
    intro n l
    induction l with
    | nil => exact fun _ => .refl
    | cons x l ih => exact fun t => (ih _).step State.writeEntry_seq
  refine SeqKept.step ?_ (copied s.recorder.erased keep.zipIdx s)
  exact ⟨rfl, rfl⟩

theorem State.placeEntry_seq {s : State} {e : EvtRec} : SeqKept s (s.placeEntry e) := by
  have placed : ∀ t : State, SeqKept t
      (let s1 := t.bump .evr EVR_CNT_WRITTEN
       let s2 := if e.severity = 3 then s1.event .evr EVR_EVT_CRITICAL else s1
       let full := s2.freeSlot.isNone
       let s3 := if full && !s2.recorder.full then s2.event .evr EVR_EVT_FULL else s2
       s3.modRec (fun r => { r with full := full })) := by
    intro t
    dsimp only
    have counted : SeqKept t (if e.severity = 3 then (t.bump .evr EVR_CNT_WRITTEN).event .evr EVR_EVT_CRITICAL
        else t.bump .evr EVR_CNT_WRITTEN) := .ite State.event_keeps rfl (.keep State.bump_keeps rfl .refl)
    generalize (if e.severity = 3 then (t.bump .evr EVR_CNT_WRITTEN).event .evr EVR_EVT_CRITICAL else t.bump .evr EVR_CNT_WRITTEN) = u at *
    exact .step (t := if u.freeSlot.isNone && !u.recorder.full then u.event .evr EVR_EVT_FULL else u) ⟨rfl, rfl⟩
      (.ite State.event_keeps rfl counted)
  unfold State.placeEntry
  dsimp only
  split
  · exact (placed _).step State.writeEntry_seq
  · split
    · exact .keep State.event_keeps rfl (.keep State.bump_keeps rfl .refl)
    · exact .keep State.bump_keeps rfl ((placed _).step State.rewrite_seq)

theorem State.placeQueue_seq {s : State} {n : Nat} : SeqKept s (s.placeQueue n) := by
  induction n generalizing s with
  | zero => exact .refl
  | succ n ih =>
    unfold State.placeQueue
    split
    · exact .refl
    · split
      · exact .refl
      · exact ih.step (State.placeEntry_seq.step (s := s) ⟨rfl, rfl⟩)

theorem State.takeEntry_seq (s : State) (e : EvtRec) :
    (s.takeEntry e).recorder.nextSeq = s.recorder.nextSeq + 1 ∧ (s.takeEntry e).arriving = s.arriving := by
  have next : ∀ {t : State}, SeqKept (s.modRec (fun r => { r with nextSeq := r.nextSeq + 1 })) t →
      t.recorder.nextSeq = s.recorder.nextSeq + 1 ∧ t.arriving = s.arriving := fun k => ⟨k.nextSeq, k.arriving⟩
  unfold State.takeEntry
  dsimp only
  split
  · exact next (.keep State.event_keeps rfl (.keep State.bump_keeps rfl .refl))
  · exact next (State.placeQueue_seq.step ⟨rfl, rfl⟩)

theorem State.clearStep_seq (s : State) : s.recorder.nextSeq ≤ s.clearStep.recorder.nextSeq := by
  unfold State.clearStep
  split
  · exact le_rfl
  · split
    · exact le_rfl
    · dsimp only
      split
      · rw [State.modRec_recorder]
        dsimp only
        rw [State.rewrite_seq.nextSeq]
      · have e : ∀ t : State, (t.event .evr EVR_EVT_CLEARED).recorder = t.recorder := fun _ => State.event_keeps.recorder_eq (by decide)
        rw [e, State.plinthEntry, (State.takeEntry_seq _ _).1]
        exact Nat.le_succ _

theorem State.beginClear_seq (s : State) (c : Nat) : s.recorder.nextSeq < (s.beginClear c).recorder.nextSeq := by
  unfold State.beginClear
  dsimp only
  refine Nat.lt_of_lt_of_le ?_ (State.clearStep_seq _)
  have e : ∀ (t : State) (x : Nat × Nat), (t.modRec (fun r => { r with clearing := some x })).recorder.nextSeq = t.recorder.nextSeq :=
    fun _ _ => rfl
  rw [e, State.plinthEntry, (State.takeEntry_seq _ _).1]
  exact Nat.lt_succ_self _

/-! ### The rekey (R437) -/

theorem State.writeKeys_keys {s : State} {k : KsImage} (h : s.keys = some k) (f : KsImage → KsImage) :
    (s.writeKeys f).keys = some { f k with
      seq := k.seq + 1
      spares := s.flash.moved.filter (fun m => m.1 < 18 || (50 ≤ m.1 && m.1 < 58)) } := by
  unfold State.writeKeys
  rw [h]
  dsimp only
  unfold State.keys
  split <;> rename_i h1 h2 <;> split_ifs at h1 h2 <;> simp_all

theorem State.finishRekey_keys {s : State} {k : KsImage} (h : s.keys = some k) (hp : k.pendGen ≠ 0) :
    ∃ y, s.finishRekey.keys = some y ∧ y.gen = k.pendGen ∧ y.pendGen = 0 := by
  unfold State.finishRekey
  rw [h]
  dsimp only
  rw [if_neg hp]
  have kept : (if s.counter 4 < k.pendGen then (s.rewrap k.pendGen).raiseCounter 4 k.pendGen else s).keys = some k := by
    split
    · have e : ((s.rewrap k.pendGen).raiseCounter 4 k.pendGen).plinth = s.plinth :=
        (State.raiseCounter_keeps.part .plinth (by decide)).trans (State.rewrap_keeps.part .plinth (by decide))
      rw [State.keys, e]
      exact h
    · exact h
  exact ⟨_, State.writeKeys_keys kept _, rfl, rfl⟩

end Sys2Proof.Machine

namespace Sys2Proof
open Sys2Proof.Machine

/-- Settles O41, clause by clause: a start keeps the Plinth but for its keys and its image (`PlinthKeeps`), and an entry raises the next
SEQ once (`SeqKept`). A reset of the Plinth ends its sessions (log 135). -/
theorem plinthActs : Obligations.PlinthActs := by
  unfold Obligations.PlinthActs
  intro s
  refine ⟨fun auxA auxB vbus advert slotA slotB pd usb cal ksA ksB a b hdown hsrc => ?_, fun auxA auxB vbus advert pd usb hup hsrc => ?_,
    fun at_ hup hlost hlate => ?_, fun w hup hact hrun => ?_, fun w hrun hok hlate => ?_, fun at_ hrun hlost hlate => ?_,
    fun cal ksA ksB hup => ?_, fun w hup hrun => ?_, fun e l hup harr hsrc => ?_, fun session k hmay h0 h1 hact hkeys hcount => ?_,
    fun session hmay hclear => ?_⟩
  · refine runs_intro (if_neg (by simp [hdown, hsrc])) ?_
    generalize hs2 : (s.supplies auxA auxB vbus advert pd usb).modPlinth _ = s2
    have boot := s2.plinthBoot_booted cal ksA ksB
    have started := boot.keep (State.modFront_keeps (f := fun f => { f with
      presentA := a, presentB := b, early := a && b, absentAt := if a && b then none else some (f.absentAt.getD s.now),
      slotA := slotA % 64, slotB := slotB % 64 })) rfl
    have goal : ∀ {t : State}, Booted s2 t cal → t.front.presentA = a → t.front.presentB = b → t.plinth.up = true
        ∧ t.plinth.source = (s.supplies auxA auxB vbus advert pd usb).sourceNow ∧ t.plinth.uncertain = true ∧ t.plinth.calOk = cal
        ∧ t.front.presentA = a ∧ t.front.presentB = b := by
      intro t ht ha hb
      refine ⟨ht.up.trans ?_, ht.source.trans ?_, ht.uncertain.trans ?_, ht.calOk, ha, hb⟩ <;> rw [← hs2] <;> rfl
    split
    · refine goal (started.keep State.mated_keeps rfl) ?_ ?_ <;> rw [State.mated_front] <;> rfl
    · exact goal started rfl rfl
  · refine runs_intro (congrArg Host.Outcome.next (if_neg (by simp [hup]))) ?_
    have same : ∀ c : Bool, (if c then (s.supplies auxA auxB vbus advert pd usb).event .plt PLT_EVT_AUX_LOST
        else s.supplies auxA auxB vbus advert pd usb).sourceNow = (s.supplies auxA auxB vbus advert pd usb).sourceNow
        ∧ (if c then (s.supplies auxA auxB vbus advert pd usb).event .plt PLT_EVT_AUX_LOST
        else s.supplies auxA auxB vbus advert pd usb).plinth.source = s.plinth.source := by
      intro c
      have keeps := State.event_keeps (s := s.supplies auxA auxB vbus advert pd usb) (p := .plt) (n := PLT_EVT_AUX_LOST)
      cases c
      · exact ⟨rfl, rfl⟩
      · exact ⟨State.sourceNow_of_eq (keeps.part .plinth (by decide)) (keeps.part .health (by decide)),
          (congrArg Plinth.source (keeps.part .plinth (by decide)) :
            (State.event _ _ _).plinth.source = (s.supplies auxA auxB vbus advert pd usb).plinth.source)⟩
    generalize (auxOk s.plinth.auxA && !auxOk auxA || auxOk s.plinth.auxB && !auxOk auxB) = c
    obtain ⟨hnow, hold⟩ := same c
    obtain ⟨hp, hevt⟩ := State.pickSource_found (hnow ▸ hsrc)
    rw [hp]
    exact ⟨rfl, hnow, fun hne => hevt (hold ▸ hne)⟩
  · exact runs_intro (execLossOfEverySupply_of_late hup hlost hlate) ⟨rfl, rfl, rfl, rfl⟩
  · obtain ⟨hok, hfailed⟩ := heard hrun
    refine runs_intro (t := ([Wy.w0, Wy.w1].filter s.running).foldl State.hearPlinth s) ?_ ⟨hok, hfailed⟩
    have act : (([Wy.w0, Wy.w1].filter s.running).foldl State.hearPlinth s).fw.act = none := by
      rw [(Keeps.foldl (fun _ _ => State.hearPlinth_keeps) .refl : Keeps [.regs, .plinth] s _).part .fw (by decide)]
      exact hact
    show execHousekeepingHeartbeat s = _
    unfold execHousekeepingHeartbeat
    dsimp only
    rw [if_neg (by simp [hup]), act]
  · refine runs_intro (if_neg ?_) ?_
    · cases w
      · have hdue : s.since s.plinth.hb0 (ms 100) = true := (State.since_ms ..).mpr hlate
        simp only [hrun, hok, hdue]
        decide
      · have hdue : s.since s.plinth.hb1 (ms 100) = true := (State.since_ms ..).mpr hlate
        simp only [hrun, hok, hdue]
        decide
    · have cleared : ((s.setRfld (.glb w) GLB_WYTHE 4 4 0).event (.glb w) GLB_EVT_PLINTH_LOST).plinthOk w = false := by
        unfold State.plinthOk State.rfld
        rw [State.event_reg_of_off_ne (by decide)]
        have hz := State.setRfld_rfld (s := s) (p := .glb w) (off := GLB_WYTHE) (hi := 4) (lo := 4) (v := 0) (by decide) (by decide) (by decide)
        rw [State.rfld] at hz
        rw [hz]
        rfl
      exact ⟨cleared, State.event_sets_bit (by decide) _ _⟩
  · exact runs_intro (execPlinthFailed_of_late hrun hlost hlate) rfl
  · refine runs_intro (congrArg Host.Outcome.next (if_pos hup)) ?_
    have boot := ((s.bump .plt PLT_CNT_SELF_RESET).event .plt PLT_EVT_SELF_RESET).plinthBoot_booted cal ksA ksB
    exact ⟨boot.resetAt.trans (by simp), boot.calOk, boot.sessions⟩
  · exact runs_intro (congrArg Host.Outcome.next (if_pos (by simp [hup, hrun]))) ⟨rfl, rfl, rfl⟩
  · refine runs_intro (t := { s with arriving := l }.takeEntry e) ?_ ?_
    · show execEventEntry s = _
      unfold execEventEntry
      simp [harr, List.findIdx?_cons, hsrc, hup]
    · obtain ⟨hseq, harr'⟩ := State.takeEntry_seq { s with arriving := l } e
      exact ⟨harr', hseq⟩
  · refine runs_intro (congrArg Host.Outcome.next (State.command_done hmay (by simp [h0, h1, hact, hkeys, hcount]))) ⟨State.mem_emit_out .., ?_⟩
    obtain ⟨y, hy, hgen, hpend⟩ := State.finishRekey_keys (State.writeKeys_keys hkeys (fun k => { k with pendGen := k.gen + 1 }))
      (Nat.succ_ne_zero _)
    exact ⟨y, hy, hgen, hpend⟩
  · refine runs_intro (congrArg Host.Outcome.next (State.command_done hmay (by simp [hclear]))) ⟨State.mem_emit_out .., ?_⟩
    exact State.beginClear_seq ..

end Sys2Proof
end

section
/-! PROOFS. The Plinth's own entries on their way stay until it takes them (R423, R440). -/

namespace Sys2Proof.Machine

/-- The Plinth's own entries stay on their way. -/
def OwnKeeps (s t : State) : Prop := ∀ e ∈ s.arriving, e.source = 0 → e ∈ t.arriving

theorem OwnKeeps.refl {s : State} : OwnKeeps s s := fun _ he _ => he

theorem OwnKeeps.step {s t u : State} (k : OwnKeeps t u) (h : OwnKeeps s t) : OwnKeeps s u := fun e he h0 => k e (h e he h0) h0

theorem OwnKeeps.keep {l : List Part} {s t u : State} (k : Keeps l t u) (hl : l.contains .arriving = false) (h : OwnKeeps s t) :
    OwnKeeps s u := by
  have e : u.arriving = t.arriving := k.part .arriving (by simpa using hl)
  rwa [OwnKeeps, e]

theorem OwnKeeps.foldl {α : Type} {s u : State} {f : State → α → State} {xs : List α} (hf : ∀ v a, OwnKeeps v (f v a))
    (h : OwnKeeps s u) : OwnKeeps s (xs.foldl f u) := by
  induction xs generalizing u with
  | nil => exact h
  | cons a xs ih => exact ih ((hf u a).step h)

theorem OwnKeeps.ite {s t u : State} {c : Prop} [Decidable c] (ht : OwnKeeps s t) (hu : OwnKeeps s u) : OwnKeeps s (if c then t else u) := by
  split
  · exact ht
  · exact hu

/-- Only a wythe's entries are dropped, and only in favour of its own. -/
theorem State.holdEntries_own {s : State} {source : Nat} {l : List EvtRec} {e : EvtRec} (h0 : e.source = 0) (he : e ∈ l) :
    e ∈ s.holdEntries source l := by
  unfold State.holdEntries
  generalize (if source = 2 then Wy.w1 else Wy.w0) = w
  dsimp only
  split
  · exact he
  · next hsrc =>
    have hne : source ≠ 0 := fun h => hsrc (by simp [h])
    split
    · next i hi =>
      obtain ⟨hlt, hp, -⟩ := List.findIdx?_eq_some_iff_getElem.mp hi
      obtain ⟨j, hj, rfl⟩ := List.mem_iff_getElem.mp he
      have hij : j ≠ i := by
        rintro rfl
        exact hne ((of_decide_eq_true hp).symm.trans h0)
      exact List.mem_eraseIdx_iff_getElem.mpr ⟨j, hj, hij, rfl⟩
    · exact he

theorem State.record_own {s : State} {source severity code page : Nat} {detail : Bytes} :
    OwnKeeps s (State.record s source severity code page detail) := fun _ he h0 => State.holdEntries_own h0 (List.mem_append_left _ he)

theorem State.recordOpen_own {s : State} {source severity : Nat} {p : Page} {detail : Bytes} :
    OwnKeeps s (State.recordOpen s source severity p detail) := by
  unfold State.recordOpen
  repeat' first
    | with_reducible exact OwnKeeps.refl
    | with_reducible apply OwnKeeps.keep State.used_keeps
    | with_reducible apply OwnKeeps.step State.record_own
    | rfl

theorem State.earlyWarn_own {s : State} {code severity detail : Nat} {bytes : Bytes} :
    OwnKeeps s (State.earlyWarn s code severity detail bytes) := by
  unfold State.earlyWarn
  try dsimp only
  repeat' first
    | with_reducible exact OwnKeeps.refl
    | with_reducible apply OwnKeeps.keep State.bump_keeps
    | with_reducible apply OwnKeeps.keep State.warnWy_keeps
    | with_reducible apply OwnKeeps.step State.recordOpen_own
    | with_reducible apply OwnKeeps.keep State.event_keeps
    | rfl
    | split

theorem State.chResult_own {s : State} {j : ChJob} {e : DieEnd} {data : List (Option Cw)} :
    OwnKeeps s (State.chResult s j e data) := by
  unfold State.chResult
  try dsimp only
  repeat' first
    | with_reducible exact OwnKeeps.refl
    | with_reducible apply OwnKeeps.keep State.bump_keeps
    | with_reducible apply OwnKeeps.step State.recordOpen_own
    | with_reducible apply OwnKeeps.keep State.emit_keeps
    | with_reducible apply OwnKeeps.keep State.event_keeps
    | rfl
    | split

theorem State.startOp_own {s : State} {j : ChJob} :
    OwnKeeps s (State.startOp s j) := by
  unfold State.startOp
  try dsimp only
  repeat' first
    | with_reducible exact OwnKeeps.refl
    | with_reducible apply OwnKeeps.keep State.bump_keeps
    | with_reducible apply OwnKeeps.keep State.modMedia_keeps
    | with_reducible apply OwnKeeps.keep State.bumpBy_keeps
    | with_reducible apply OwnKeeps.keep State.modCh_keeps
    | with_reducible apply OwnKeeps.step State.chResult_own
    | rfl
    | split

theorem State.grantMin_own {s : State} {w : Wy} {panel : Nat} {cls : List Nat} :
    OwnKeeps s (State.grantMin s w panel cls) := by
  unfold State.grantMin
  try dsimp only
  repeat' first
    | with_reducible exact OwnKeeps.refl
    | with_reducible apply OwnKeeps.step State.startOp_own
    | rfl
    | split

theorem State.grantRest_own {s : State} {w : Wy} {panel : Nat} {x1 : List (List Nat)} :
    OwnKeeps s (State.grantRest s w panel x1) := by
  induction x1 generalizing s with
  | nil => exact .refl
  | cons a l ih =>
    unfold State.grantRest
    try dsimp only
    repeat' first
      | with_reducible apply OwnKeeps.refl
      | with_reducible assumption
      | with_reducible apply OwnKeeps.step ih
      | with_reducible apply OwnKeeps.step State.startOp_own
      | rfl
      | split

theorem State.grantDump_own {s : State} {panel : Nat} :
    OwnKeeps s (State.grantDump s panel) := by
  unfold State.grantDump
  try dsimp only
  repeat' first
    | with_reducible exact OwnKeeps.refl
    | with_reducible apply OwnKeeps.step State.startOp_own
    | (with_reducible apply OwnKeeps.foldl; intro _ _; try dsimp only)
    | rfl
    | split

theorem State.grant_own {s : State} {w : Wy} {panel : Nat} :
    OwnKeeps s (State.grant s w panel) := by
  unfold State.grant
  try dsimp only
  repeat' first
    | with_reducible exact OwnKeeps.refl
    | with_reducible apply OwnKeeps.step State.grantMin_own
    | with_reducible apply OwnKeeps.step State.grantRest_own
    | with_reducible apply OwnKeeps.step State.grantDump_own
    | (with_reducible apply OwnKeeps.foldl; intro _ _; try dsimp only)
    | rfl
    | split

theorem State.chTake_own {s : State} {j : ChJob} :
    OwnKeeps s (State.chTake s j) := by
  unfold State.chTake
  try dsimp only
  repeat' first
    | with_reducible exact OwnKeeps.refl
    | with_reducible apply OwnKeeps.keep State.bump_keeps
    | with_reducible apply OwnKeeps.keep State.modMedia_keeps
    | with_reducible apply OwnKeeps.keep State.modCh_keeps
    | with_reducible apply OwnKeeps.step State.chResult_own
    | with_reducible apply OwnKeeps.step State.grant_own
    | with_reducible apply OwnKeeps.keep State.suspendDue_keeps
    | rfl
    | split

theorem State.submit_own {s : State} {w : Wy} {rt : Routine} {r : ChReq} {what : ChFor} :
    OwnKeeps s (State.submit s w rt r what) := by
  unfold State.submit
  try dsimp only
  repeat' first
    | with_reducible exact OwnKeeps.refl
    | with_reducible apply OwnKeeps.keep State.bump_keeps
    | with_reducible apply OwnKeeps.keep State.modMedia_keeps
    | with_reducible apply OwnKeeps.step State.chTake_own
    | with_reducible apply OwnKeeps.keep State.event_keeps
    | rfl
    | split

theorem State.closeRound_own {s : State} {i sb : Nat} :
    OwnKeeps s (State.closeRound s i sb) := by
  unfold State.closeRound
  try dsimp only
  repeat' first
    | with_reducible exact OwnKeeps.refl
    | with_reducible apply OwnKeeps.keep State.bumpBy_keeps
    | with_reducible apply OwnKeeps.keep State.modRound_keeps
    | with_reducible apply OwnKeeps.keep State.takeSeq_keeps
    | with_reducible apply OwnKeeps.step State.submit_own
    | (with_reducible apply OwnKeeps.foldl; intro _ _; try dsimp only)
    | rfl
    | split

theorem State.fillUnit_own {s : State} {i cls : Nat} {b : SuperBlk} {u : UnitRef} :
    OwnKeeps s (State.fillUnit s i cls b u) := by
  unfold State.fillUnit
  try dsimp only
  repeat' first
    | with_reducible exact OwnKeeps.refl
    | with_reducible apply OwnKeeps.keep State.beginRound_keeps
    | with_reducible apply OwnKeeps.keep State.modSb_keeps
    | with_reducible apply OwnKeeps.step State.closeRound_own
    | rfl
    | split

theorem State.placeUnit_own {s t : State} {i : Nat} {st : Stream} {cls : Nat} {u : UnitRef}
    (h : State.placeUnit s i st cls u = some t) : OwnKeeps s t := by
  obtain ⟨e, he, rfl⟩ := Option.map_eq_some_iff.mp h
  exact .step State.fillUnit_own (.keep (State.takesUnit_keeps (b := e.2) he) rfl .refl)

theorem State.placeUnits_own {s : State} {i : Nat} {st : Stream} {cls : Nat} {x1 : List UnitRef} :
    OwnKeeps s (State.placeUnits s i st cls x1) := by
  induction x1 generalizing s with
  | nil => exact .keep (State.slcMarks_keeps) rfl .refl
  | cons a l ih =>
    unfold State.placeUnits
    try dsimp only
    repeat' first
      | with_reducible apply OwnKeeps.refl
      | with_reducible assumption
      | with_reducible apply OwnKeeps.step ih
      | with_reducible apply OwnKeeps.step (State.placeUnit_own (by assumption))
      | with_reducible apply OwnKeeps.step (State.placeUnit_own (by assumption))
      | with_reducible apply OwnKeeps.keep State.modSet_keeps
      | with_reducible apply OwnKeeps.keep State.slcMarks_keeps
      | rfl
      | split

theorem State.retireBlock_own {s : State} {die plane block cause : Nat} :
    OwnKeeps s (State.retireBlock s die plane block cause) := by
  unfold State.retireBlock
  try dsimp only
  repeat' first
    | with_reducible exact OwnKeeps.refl
    | with_reducible apply OwnKeeps.keep State.modBlk_keeps
    | with_reducible apply OwnKeeps.keep State.modDie_keeps
    | with_reducible apply OwnKeeps.keep State.anchorRec_keeps
    | with_reducible apply OwnKeeps.step State.earlyWarn_own
    | rfl
    | split

theorem State.eraseDie_own {s : State} {i : Nat} {b : SuperBlk} {cause die : Nat} :
    OwnKeeps s (State.eraseDie s i b cause die) := by
  unfold State.eraseDie
  try dsimp only
  repeat' first
    | with_reducible exact OwnKeeps.refl
    | with_reducible apply OwnKeeps.keep State.modBlk_keeps
    | with_reducible apply OwnKeeps.step State.retireBlock_own
    | with_reducible apply OwnKeeps.step State.submit_own
    | with_reducible apply OwnKeeps.keep State.anchorRec_keeps
    | with_reducible apply OwnKeeps.keep State.modSb_keeps
    | (with_reducible apply OwnKeeps.foldl; intro _ _; try dsimp only)
    | rfl
    | split

theorem State.eraseSb_own {s : State} {i : Nat} {b : SuperBlk} {cause : Nat} :
    OwnKeeps s (State.eraseSb s i b cause) := by
  unfold State.eraseSb
  try dsimp only
  repeat' first
    | with_reducible exact OwnKeeps.refl
    | with_reducible apply OwnKeeps.keep State.modSet_keeps
    | with_reducible apply OwnKeeps.step State.eraseDie_own
    | with_reducible apply OwnKeeps.keep State.modSb_keeps
    | with_reducible apply OwnKeeps.step State.recordOpen_own
    | (with_reducible apply OwnKeeps.foldl; intro _ _; try dsimp only)
    | rfl
    | split

theorem State.retireDie_own {s : State} {d cause : Nat} :
    OwnKeeps s (State.retireDie s d cause) := by
  unfold State.retireDie
  try dsimp only
  repeat' first
    | with_reducible exact OwnKeeps.refl
    | with_reducible apply OwnKeeps.keep State.modDie_keeps
    | with_reducible apply OwnKeeps.keep State.anchorRec_keeps
    | with_reducible apply OwnKeeps.step State.earlyWarn_own
    | with_reducible apply OwnKeeps.keep State.modSet_keeps
    | rfl
    | split

theorem State.dieUncorr_own {s : State} {d : Nat} :
    OwnKeeps s (State.dieUncorr s d) := by
  unfold State.dieUncorr
  try dsimp only
  repeat' first
    | with_reducible exact OwnKeeps.refl
    | with_reducible apply OwnKeeps.keep State.modDie_keeps
    | with_reducible apply OwnKeeps.step State.retireDie_own
    | rfl
    | split

theorem State.readPage_own {s : State} {u : UnitRead} {n : Nat} {q : PageRead} {m words : Nat} {again : Bool} :
    OwnKeeps s (State.readPage s u n q m words again) := by
  unfold State.readPage
  try dsimp only
  repeat' first
    | with_reducible exact OwnKeeps.refl
    | with_reducible apply OwnKeeps.step State.submit_own
    | rfl
    | split

theorem State.readFails_own {s : State} {u : UnitRead} {q : PageRead} :
    OwnKeeps s (State.readFails s u q) := by
  unfold State.readFails
  try dsimp only
  repeat' first
    | with_reducible exact OwnKeeps.refl
    | with_reducible apply OwnKeeps.keep State.mortarOut_keeps
    | with_reducible apply OwnKeeps.step State.dieUncorr_own
    | with_reducible apply OwnKeeps.keep State.dropRead_keeps
    | rfl

theorem State.toParity_own {s : State} {u : UnitRead} {n : Nat} {q : PageRead} {bad : Nat} :
    OwnKeeps s (State.toParity s u n q bad) := by
  unfold State.toParity
  try dsimp only
  repeat' first
    | with_reducible exact OwnKeeps.refl
    | with_reducible apply OwnKeeps.step State.readFails_own
    | with_reducible apply OwnKeeps.keep State.modSb_keeps
    | with_reducible apply OwnKeeps.keep State.parityUsed_keeps
    | with_reducible apply OwnKeeps.step State.readPage_own
    | with_reducible apply OwnKeeps.keep State.modUnitPage_keeps
    | (with_reducible apply OwnKeeps.foldl; intro _ _; try dsimp only)
    | with_reducible apply Keeps.step Keeps.fresh_add
    | with_reducible apply Keeps.step Keeps.fresh_add2
    | rfl
    | split

theorem State.wordsUnread_own {s : State} {u : UnitRead} {n : Nat} {q : PageRead} {m bad : Nat} {again : Bool} :
    OwnKeeps s (State.wordsUnread s u n q m bad again) := by
  unfold State.wordsUnread
  repeat' first
    | with_reducible exact OwnKeeps.refl
    | with_reducible apply OwnKeeps.step State.readPage_own
    | with_reducible apply OwnKeeps.step State.toParity_own
    | with_reducible apply OwnKeeps.step State.readFails_own
    | rfl
    | split

theorem State.pageEnd_own {s : State} {u : UnitRead} {n m want good : Nat} {again : Bool} :
    OwnKeeps s (State.pageEnd s u n m want good again) := by
  unfold State.pageEnd
  try dsimp only
  repeat' first
    | with_reducible exact OwnKeeps.refl
    | with_reducible apply OwnKeeps.step State.wordsUnread_own
    | with_reducible apply OwnKeeps.keep State.pageRead_keeps
    | with_reducible apply OwnKeeps.keep State.memberRead_keeps
    | rfl
    | split

theorem State.unitReadEnd_own {s : State} {id n m : Nat} {j : ChJob} {e : DieEnd} :
    OwnKeeps s (State.unitReadEnd s id n m j e) := by
  unfold State.unitReadEnd
  try dsimp only
  repeat' first
    | with_reducible exact OwnKeeps.refl
    | with_reducible apply OwnKeeps.step State.pageEnd_own
    | rfl
    | split

theorem State.sweepReads_own {s : State} {n : Nat} :
    OwnKeeps s (State.sweepReads s n) := by
  induction n generalizing s with
  | zero => exact .refl
  | succ n ih =>
    unfold State.sweepReads
    try dsimp only
    repeat' first
      | with_reducible apply OwnKeeps.refl
      | with_reducible apply OwnKeeps.step ih
      | with_reducible apply OwnKeeps.step State.pageEnd_own
      | (with_reducible apply OwnKeeps.foldl; intro _ _; try dsimp only)
      | rfl
      | split

theorem State.retireOut_own {s : State} {i die plane block cause : Nat} :
    OwnKeeps s (State.retireOut s i die plane block cause) := by
  unfold State.retireOut
  try dsimp only
  repeat' first
    | with_reducible exact OwnKeeps.refl
    | with_reducible apply OwnKeeps.keep State.moveReserve_keeps
    | with_reducible apply OwnKeeps.step State.retireBlock_own
    | rfl
    | split

theorem State.blocksErased_own {s : State} {i : Nat} {j : ChJob} {bad : List Nat} :
    OwnKeeps s (State.blocksErased s i j bad) := by
  unfold State.blocksErased
  try dsimp only
  repeat' first
    | with_reducible exact OwnKeeps.refl
    | with_reducible apply OwnKeeps.keep State.modBlk_keeps
    | with_reducible apply OwnKeeps.keep State.anchorRec_keeps
    | with_reducible apply OwnKeeps.step State.retireOut_own
    | (with_reducible apply OwnKeeps.foldl; intro _ _; try dsimp only)
    | rfl
    | split

theorem State.freeErased_own {s : State} {i : Nat} {j : ChJob} {bad : List Nat} :
    OwnKeeps s (State.freeErased s i j bad) := by
  unfold State.freeErased
  repeat' first
    | with_reducible exact OwnKeeps.refl
    | with_reducible apply OwnKeeps.keep State.reserveDone_keeps
    | with_reducible apply OwnKeeps.step State.blocksErased_own
    | rfl

theorem State.eraseReserve_own {s : State} {i die : Nat} :
    OwnKeeps s (State.eraseReserve s i die) := by
  unfold State.eraseReserve
  try dsimp only
  repeat' first
    | with_reducible exact OwnKeeps.refl
    | with_reducible apply OwnKeeps.step State.retireOut_own
    | with_reducible apply OwnKeeps.keep State.anchorRec_keeps
    | with_reducible apply OwnKeeps.keep State.modBlk_keeps
    | with_reducible apply OwnKeeps.step State.submit_own
    | (with_reducible apply OwnKeeps.foldl; intro _ _; try dsimp only)
    | rfl
    | split

theorem State.reserveStep_own {s : State} {i : Nat} :
    OwnKeeps s (State.reserveStep s i) := by
  unfold State.reserveStep
  try dsimp only
  repeat' first
    | with_reducible exact OwnKeeps.refl
    | with_reducible apply OwnKeeps.keep State.reserveDone_keeps
    | with_reducible apply OwnKeeps.step State.eraseReserve_own
    | with_reducible apply OwnKeeps.keep State.modSet_keeps
    | (with_reducible apply OwnKeeps.foldl; intro _ _; try dsimp only)
    | rfl
    | split

theorem State.retireSpent_own {s : State} {i : Nat} :
    OwnKeeps s (State.retireSpent s i) := by
  unfold State.retireSpent
  try dsimp only
  repeat' first
    | with_reducible exact OwnKeeps.refl
    | with_reducible apply OwnKeeps.step State.retireDie_own
    | (with_reducible apply OwnKeeps.foldl; intro _ _; try dsimp only)

theorem State.placeWaiting_own {s : State} {i : Nat} :
    OwnKeeps s (State.placeWaiting s i) := by
  unfold State.placeWaiting
  try dsimp only
  repeat' first
    | with_reducible exact OwnKeeps.refl
    | with_reducible apply OwnKeeps.keep State.modSet_keeps
    | with_reducible apply OwnKeeps.step State.placeUnits_own
    | (with_reducible apply OwnKeeps.foldl; intro _ _; try dsimp only)
    | rfl

theorem State.settleSet_own {s : State} {i : Nat} :
    OwnKeeps s (State.settleSet s i) := by
  unfold State.settleSet
  try dsimp only
  repeat' first
    | with_reducible exact OwnKeeps.refl
    | with_reducible apply OwnKeeps.step State.reserveStep_own
    | with_reducible apply OwnKeeps.keep State.thinsDone_keeps
    | with_reducible apply OwnKeeps.keep State.closeFull_keeps
    | with_reducible apply OwnKeeps.keep State.closeShort_keeps
    | with_reducible apply OwnKeeps.step State.retireSpent_own
    | with_reducible apply OwnKeeps.step State.eraseSb_own
    | with_reducible apply OwnKeeps.keep State.fragsDone_keeps
    | (with_reducible apply OwnKeeps.foldl; intro _ _; try dsimp only)
    | rfl

theorem State.foldInto_own {s : State} {i : Nat} {dst : SuperBlk} {src : List FoldStripe} :
    OwnKeeps s (State.foldInto s i dst src) := by
  unfold State.foldInto
  try dsimp only
  repeat' first
    | with_reducible exact OwnKeeps.refl
    | with_reducible apply OwnKeeps.keep State.takeSeq_keeps
    | with_reducible apply OwnKeeps.step State.submit_own
    | with_reducible apply OwnKeeps.keep State.modSb_keeps
    | (with_reducible apply OwnKeeps.foldl; intro _ _; try dsimp only)
    | rfl

theorem State.foldDst_own {s t : State} {i row : Nat} {b : SuperBlk} (h : State.foldDst s i row = some (t, b)) : OwnKeeps s t := by
  unfold State.foldDst at h
  dsimp only at h
  split at h
  · obtain ⟨b, -, hb⟩ := Option.map_eq_some_iff.mp h
    cases hb
    exact State.closeRound_own
  · obtain ⟨v, hv, h⟩ := Option.bind_eq_some_iff.mp h
    obtain ⟨b, -, hb⟩ := Option.map_eq_some_iff.mp h
    cases hb
    exact .keep (State.openSb_keeps hv) rfl .refl

theorem State.foldSome_own {s : State} {i : Nat} {l : List FoldStripe} :
    OwnKeeps s (State.foldSome s i l) := by
  unfold State.foldSome
  try dsimp only
  repeat' first
    | with_reducible exact OwnKeeps.refl
    | with_reducible apply OwnKeeps.step State.foldInto_own
    | with_reducible apply OwnKeeps.step State.placeUnits_own
    | with_reducible apply OwnKeeps.step (State.foldDst_own (by assumption))
    | rfl
    | split

theorem State.roundFailed_own {s : State} {i sb seq die : Nat} :
    OwnKeeps s (State.roundFailed s i sb seq die) := by
  unfold State.roundFailed
  try dsimp only
  repeat' first
    | with_reducible exact OwnKeeps.refl
    | with_reducible apply OwnKeeps.keep State.bumpBy_keeps
    | with_reducible apply OwnKeeps.step State.foldSome_own
    | with_reducible apply OwnKeeps.step State.placeUnits_own
    | with_reducible apply OwnKeeps.keep State.modSb_keeps
    | with_reducible apply OwnKeeps.keep State.event_keeps
    | (with_reducible apply OwnKeeps.foldl; intro _ _; try dsimp only)
    | rfl
    | split

theorem State.eraseEnd_own {s : State} {i sb : Nat} {j : ChJob} {bad : List Nat} :
    OwnKeeps s (State.eraseEnd s i sb j bad) := by
  unfold State.eraseEnd
  try dsimp only
  repeat' first
    | with_reducible exact OwnKeeps.refl
    | with_reducible apply OwnKeeps.step State.blocksErased_own
    | with_reducible apply OwnKeeps.keep State.modSet_keeps
    | with_reducible apply OwnKeeps.step State.placeWaiting_own
    | with_reducible apply OwnKeeps.keep State.modSb_keeps
    | rfl
    | split

theorem State.chDone_own {s : State} {j : ChJob} {e : DieEnd} :
    OwnKeeps s (State.chDone s j e) := by
  unfold State.chDone
  try dsimp only
  repeat' first
    | with_reducible exact OwnKeeps.refl
    | with_reducible apply OwnKeeps.step State.freeErased_own
    | with_reducible apply OwnKeeps.step State.unitReadEnd_own
    | with_reducible apply OwnKeeps.step State.retireDie_own
    | with_reducible apply OwnKeeps.keep State.noteTired_keeps
    | with_reducible apply OwnKeeps.step State.sweepReads_own
    | with_reducible apply OwnKeeps.step State.placeWaiting_own
    | with_reducible apply OwnKeeps.step State.eraseEnd_own
    | with_reducible apply OwnKeeps.keep State.roundMember_keeps
    | with_reducible apply OwnKeeps.step State.settleSet_own
    | with_reducible apply OwnKeeps.step State.roundFailed_own
    | rfl
    | split

theorem State.finishOld_own {s : State} {c : Nat} :
    OwnKeeps s (State.finishOld s c) := by
  unfold State.finishOld
  try dsimp only
  repeat' first
    | with_reducible exact OwnKeeps.refl
    | with_reducible apply OwnKeeps.keep State.modMedia_keeps
    | with_reducible apply OwnKeeps.keep State.opEffect_keeps
    | with_reducible apply OwnKeeps.step State.chDone_own
    | (with_reducible apply OwnKeeps.foldl; intro _ _; try dsimp only)
    | rfl

theorem State.dropChannels_own {s : State} :
    OwnKeeps s (State.dropChannels s) := by
  unfold State.dropChannels
  try dsimp only
  repeat' first
    | with_reducible exact OwnKeeps.refl
    | with_reducible apply OwnKeeps.keep State.newOwner_keeps
    | with_reducible apply OwnKeeps.step State.finishOld_own
    | (with_reducible apply OwnKeeps.foldl; intro _ _; try dsimp only)
    | rfl
    | split

end Sys2Proof.Machine
end

section
/-! PROOFS. The messages held while the brick woke leave its power state alone (R110). -/

namespace Sys2Proof.Machine

/-- The power state and whether the brick wakes stay. -/
structure PsKeeps (s t : State) : Prop where
  ps : t.pwr.ps = s.pwr.ps
  waking : t.pwr.waking = s.pwr.waking

theorem PsKeeps.refl {s : State} : PsKeeps s s := ⟨rfl, rfl⟩

theorem PsKeeps.step {s t u : State} (k : PsKeeps t u) (h : PsKeeps s t) : PsKeeps s u := ⟨k.ps.trans h.ps, k.waking.trans h.waking⟩

theorem PsKeeps.keep {l : List Part} {s t u : State} (k : Keeps l t u) (hl : l.contains .pwr = false) (h : PsKeeps s t) : PsKeeps s u := by
  have e : u.pwr = t.pwr := k.part .pwr (by simpa using hl)
  exact .step ⟨by rw [e], by rw [e]⟩ h

theorem PsKeeps.foldl {α : Type} {s u : State} {f : State → α → State} {xs : List α} (hf : ∀ v a, PsKeeps v (f v a))
    (h : PsKeeps s u) : PsKeeps s (xs.foldl f u) := by
  induction xs generalizing u with
  | nil => exact h
  | cons a xs ih => exact ih ((hf u a).step h)

theorem PsKeeps.ite {s t u : State} {c : Prop} [Decidable c] (ht : PsKeeps s t) (hu : PsKeeps s u) : PsKeeps s (if c then t else u) := by
  split
  · exact ht
  · exact hu

theorem PsKeeps.setStripes {s t : State} {x : Stripes} (h : PsKeeps s t) : PsKeeps s { t with stripes := x } :=
  .step (t := t) ⟨rfl, rfl⟩ h

theorem State.tagFreed_ps {s : State} : PsKeeps s (State.tagFreed s) := ⟨rfl, rfl⟩

theorem State.drainRing_ps {s : State} {w : Wy} {page n : Nat} :
    PsKeeps s (State.drainRing s w page n) := by
  induction n generalizing s with
  | zero => exact .refl
  | succ n ih =>
    unfold State.drainRing
    try dsimp only
    repeat' first
      | with_reducible apply PsKeeps.refl
      | with_reducible assumption
      | with_reducible apply PsKeeps.step ih
      | with_reducible apply PsKeeps.step State.tagFreed_ps
      | with_reducible apply PsKeeps.keep State.modPage_keeps
      | with_reducible apply PsKeeps.keep State.emit_keeps
      | rfl
      | split

theorem State.handOut_ps {s : State} {w : Wy} {q : Nat} {m : BusMsg} :
    PsKeeps s (State.handOut s w q m) := by
  unfold State.handOut
  try dsimp only
  repeat' first
    | with_reducible exact PsKeeps.refl
    | with_reducible apply PsKeeps.step State.tagFreed_ps
    | with_reducible apply PsKeeps.keep State.writeStatus_keeps
    | with_reducible apply PsKeeps.keep State.modPage_keeps
    | with_reducible apply PsKeeps.step State.drainRing_ps
    | with_reducible apply PsKeeps.keep State.emit_keeps
    | rfl
    | split

theorem State.endCmd_ps {s : State} {w : Wy} {c : Cmd} {st : Status} {d : Detail} {cflags version result : Nat} :
    PsKeeps s (State.endCmd s w c st d cflags version result) := by
  unfold State.endCmd
  try dsimp only
  repeat' first
    | with_reducible exact PsKeeps.refl
    | with_reducible apply PsKeeps.keep State.freeChunks_keeps
    | with_reducible apply PsKeeps.keep State.bump_keeps
    | with_reducible apply PsKeeps.keep State.cancelRefs_keeps
    | with_reducible apply PsKeeps.keep State.dropCmd_keeps
    | with_reducible apply PsKeeps.step State.handOut_ps
    | with_reducible apply PsKeeps.keep State.modQueue_keeps
    | rfl
    | split

theorem State.answerOutcome_ps {s : State} {w : Wy} {c : Cmd} {kept : Option OutcomeRec} :
    PsKeeps s (State.answerOutcome s w c kept) := by
  unfold State.answerOutcome
  repeat' first
    | with_reducible exact PsKeeps.refl
    | with_reducible apply PsKeeps.step State.endCmd_ps
    | rfl
    | split

theorem State.wakeOutcomes_ps {s : State} {w : Wy} :
    PsKeeps s (State.wakeOutcomes s w) := by
  unfold State.wakeOutcomes
  try dsimp only
  repeat' first
    | with_reducible exact PsKeeps.refl
    | with_reducible apply PsKeeps.step State.answerOutcome_ps
    | (with_reducible apply PsKeeps.foldl; intro _ _; try dsimp only)

theorem State.endAttached_ps {s : State} {w : Wy} {c : Cmd} {st : Status} {d : Detail} {version result : Nat} :
    PsKeeps s (State.endAttached s w c st d version result) := by
  unfold State.endAttached
  try dsimp only
  repeat' first
    | with_reducible exact PsKeeps.refl
    | with_reducible apply PsKeeps.step State.endCmd_ps
    | (with_reducible apply PsKeeps.foldl; intro _ _; try dsimp only)

theorem State.finish_ps {s : State} {w : Wy} {c : Cmd} {st : Status} {d : Detail} {cflags version result : Nat} :
    PsKeeps s (State.finish s w c st d cflags version result) := by
  unfold State.finish
  try dsimp only
  repeat' first
    | with_reducible exact PsKeeps.refl
    | with_reducible apply PsKeeps.step State.endAttached_ps
    | with_reducible apply PsKeeps.step State.endCmd_ps
    | with_reducible apply PsKeeps.step State.wakeOutcomes_ps
    | with_reducible apply PsKeeps.keep State.answerQueries_keeps
    | rfl
    | split

theorem State.resetQueue_ps {s : State} {w : Wy} {q : Nat} :
    PsKeeps s (State.resetQueue s w q) := by
  unfold State.resetQueue
  try dsimp only
  repeat' first
    | with_reducible exact PsKeeps.refl
    | with_reducible apply PsKeeps.keep State.recordNever_keeps
    | with_reducible apply PsKeeps.keep State.bump_keeps
    | with_reducible apply PsKeeps.step State.wakeOutcomes_ps
    | with_reducible apply PsKeeps.keep State.dropOne_keeps
    | with_reducible apply PsKeeps.step State.tagFreed_ps
    | with_reducible apply PsKeeps.keep State.modRelief_keeps
    | with_reducible apply PsKeeps.keep State.answerQueries_keeps
    | with_reducible apply PsKeeps.keep State.modQueue_keeps
    | (with_reducible apply PsKeeps.foldl; intro _ _; try dsimp only)
    | rfl
    | split

theorem State.sendAcks_ps {s : State} {w : Wy} {q : Nat} :
    PsKeeps s (State.sendAcks s w q) := by
  unfold State.sendAcks
  try dsimp only
  repeat' first
    | with_reducible exact PsKeeps.refl
    | with_reducible apply PsKeeps.keep State.modPage_keeps
    | with_reducible apply PsKeeps.step State.handOut_ps
    | with_reducible apply PsKeeps.keep State.removeQueue_keeps
    | with_reducible apply PsKeeps.keep State.modQueue_keeps
    | (with_reducible apply PsKeeps.foldl; intro _ _; try dsimp only)
    | rfl
    | split

theorem State.commitAt_ps {s : State} {w : Wy} {c : Cmd} {adds : Nat → List (BitVec 32 × Bytes × ValueVer)} :
    PsKeeps s (State.commitAt s w c adds) := by
  unfold State.commitAt
  try dsimp only
  repeat' first
    | with_reducible exact PsKeeps.refl
    | with_reducible apply PsKeeps.step State.finish_ps
    | with_reducible apply PsKeeps.keep State.beginCommit_keeps
    | with_reducible apply PsKeeps.keep State.endJobs_keeps
    | with_reducible apply PsKeeps.keep State.assign_keeps
    | rfl
    | split

theorem State.notNow_ps {s : State} {w : Wy} {c : Cmd} :
    PsKeeps s (State.notNow s w c) := by
  unfold State.notNow
  try dsimp only
  repeat' first
    | with_reducible exact PsKeeps.refl
    | with_reducible apply PsKeeps.keep State.modCmd_keeps
    | with_reducible apply PsKeeps.keep State.used_keeps
    | with_reducible apply PsKeeps.step State.finish_ps
    | with_reducible apply PsKeeps.keep State.endJobs_keeps
    | rfl
    | split

theorem State.commitStep_ps {s : State} {w : Wy} {c : Cmd} :
    PsKeeps s (State.commitStep s w c) := by
  unfold State.commitStep
  try dsimp only
  repeat' first
    | with_reducible exact PsKeeps.refl
    | with_reducible apply PsKeeps.keep State.emptyWrite_keeps
    | with_reducible apply PsKeeps.step State.commitAt_ps
    | with_reducible apply PsKeeps.step State.notNow_ps
    | with_reducible apply PsKeeps.keep State.beginCommit_keeps
    | rfl
    | split

theorem State.endGet_ps {s : State} {w : Wy} {id : Nat} :
    PsKeeps s (State.endGet s w id) := by
  unfold State.endGet
  try dsimp only
  repeat' first
    | with_reducible exact PsKeeps.refl
    | with_reducible apply PsKeeps.step State.finish_ps
    | with_reducible apply PsKeeps.keep State.endJobs_keeps
    | rfl
    | split

theorem State.endLost_ps {s : State} {w : Wy} {id : Nat} :
    PsKeeps s (State.endLost s w id) := by
  unfold State.endLost
  try dsimp only
  repeat' first
    | with_reducible exact PsKeeps.refl
    | with_reducible apply PsKeeps.step State.endGet_ps
    | with_reducible apply PsKeeps.step State.finish_ps
    | with_reducible apply PsKeeps.keep State.endJobs_keeps
    | rfl
    | split

theorem State.loseChunk_ps {s : State} {w : Wy} {c : Cmd} {n : Nat} {x : RChunk} :
    PsKeeps s (State.loseChunk s w c n x) := by
  unfold State.loseChunk
  try dsimp only
  repeat' first
    | with_reducible exact PsKeeps.refl
    | with_reducible apply PsKeeps.step State.endLost_ps
    | with_reducible apply PsKeeps.keep State.reportLost_keeps
    | with_reducible apply PsKeeps.keep State.modRChunk_keeps
    | rfl

theorem State.failRepair_ps {s : State} {r : RepairRec} : PsKeeps s (State.failRepair s r) := by
  unfold State.failRepair
  dsimp only
  split
  · exact .keep State.reportLost_keeps rfl (.setStripes .refl)
  · exact .foldl (fun _ _ => State.loseChunk_ps) (.keep State.reportLost_keeps rfl (.keep State.modRepair_keeps rfl .refl))

theorem State.pumpRepair_ps {s : State} {n : Nat} :
    PsKeeps s (State.pumpRepair s n) := by
  unfold State.pumpRepair
  try dsimp only
  repeat' first
    | with_reducible exact PsKeeps.refl
    | with_reducible apply PsKeeps.step State.failRepair_ps
    | with_reducible apply PsKeeps.keep State.sendRange_keeps
    | with_reducible apply PsKeeps.keep State.modRepair_keeps
    | (with_reducible apply PsKeeps.foldl; intro _ _; try dsimp only)
    | rfl
    | split

theorem State.gather_ps {s : State} {r : RepairRec} : PsKeeps s (State.gather s r) := by
  unfold State.gather
  dsimp only
  exact State.pumpRepair_ps.step (.foldl (fun _ _ => .keep State.sendRange_keeps rfl .refl) (.setStripes .refl))

theorem State.startRepair_ps {s : State} {w : Wy} {ks : BitVec 32} {x : RChunk} :
    PsKeeps s (State.startRepair s w ks x) := by
  unfold State.startRepair
  try dsimp only
  repeat' first
    | with_reducible exact PsKeeps.refl
    | with_reducible apply PsKeeps.step State.gather_ps
    | rfl
    | split

theorem State.taint_ps {s : State} {w : Wy} {c : Cmd} {n : Nat} {x : RChunk} :
    PsKeeps s (State.taint s w c n x) := by
  unfold State.taint
  try dsimp only
  repeat' first
    | with_reducible exact PsKeeps.refl
    | with_reducible apply PsKeeps.step State.loseChunk_ps
    | with_reducible apply PsKeeps.step State.endGet_ps
    | with_reducible apply PsKeeps.step State.startRepair_ps
    | with_reducible apply PsKeeps.keep State.modRChunk_keeps
    | rfl
    | split

theorem State.recordIn_ps {s : State} {w : Wy} {c : Cmd} {n : Nat} {x : RChunk} {rec_ : Bytes} :
    PsKeeps s (State.recordIn s w c n x rec_) := by
  unfold State.recordIn
  try dsimp only
  repeat' first
    | with_reducible exact PsKeeps.refl
    | with_reducible apply PsKeeps.step State.taint_ps
    | with_reducible apply PsKeeps.keep State.queueOpen_keeps
    | with_reducible apply PsKeeps.keep State.modRChunk_keeps
    | rfl
    | split

theorem State.fetchChunk_ps {s : State} {w : Wy} {c : Cmd} {n : Nat} {x : RChunk} :
    PsKeeps s (State.fetchChunk s w c n x) := by
  unfold State.fetchChunk
  try dsimp only
  repeat' first
    | with_reducible exact PsKeeps.refl
    | with_reducible apply PsKeeps.step State.recordIn_ps
    | with_reducible apply PsKeeps.step State.loseChunk_ps
    | with_reducible apply PsKeeps.keep State.modRChunk_keeps
    | with_reducible apply PsKeeps.keep State.sendRange_keeps
    | (with_reducible apply PsKeeps.foldl; intro _ _; try dsimp only)
    | rfl
    | split

theorem State.fetchMore_ps {s : State} {w : Wy} {id : Nat} :
    PsKeeps s (State.fetchMore s w id) := by
  unfold State.fetchMore
  try dsimp only
  repeat' first
    | with_reducible exact PsKeeps.refl
    | with_reducible apply PsKeeps.step State.fetchChunk_ps
    | (with_reducible apply PsKeeps.foldl; intro _ _; try dsimp only)
    | rfl
    | split

theorem State.startFetch_ps {s : State} {w : Wy} {c : Cmd} {v : ValueVer} :
    PsKeeps s (State.startFetch s w c v) := by
  unfold State.startFetch
  try dsimp only
  repeat' first
    | with_reducible exact PsKeeps.refl
    | with_reducible apply PsKeeps.step State.fetchMore_ps
    | with_reducible apply PsKeeps.keep State.modCmd_keeps
    | with_reducible apply PsKeeps.keep State.deliver_keeps
    | with_reducible apply PsKeeps.step State.endGet_ps
    | (with_reducible apply PsKeeps.foldl; intro _ _; try dsimp only)
    | rfl

theorem State.wantOld_ps {s : State} {w : Wy} {c : Cmd} {n : Nat} {o : WriteOp} :
    PsKeeps s (State.wantOld s w c n o) := by
  unfold State.wantOld
  try dsimp only
  repeat' first
    | with_reducible exact PsKeeps.refl
    | with_reducible apply PsKeeps.step State.fetchChunk_ps
    | with_reducible apply PsKeeps.keep State.modCmd_keeps
    | (with_reducible apply PsKeeps.foldl; intro _ _; try dsimp only)
    | rfl

theorem State.advanceOp_ps {s : State} {w : Wy} {id n : Nat} :
    PsKeeps s (State.advanceOp s w id n) := by
  unfold State.advanceOp
  try dsimp only
  repeat' first
    | with_reducible exact PsKeeps.refl
    | with_reducible apply PsKeeps.keep State.queueCodec_keeps
    | with_reducible apply PsKeeps.keep State.queueCrypt_keeps
    | with_reducible apply PsKeeps.step State.wantOld_ps
    | rfl
    | split

theorem State.commitPart_ps {s : State} {w : Wy} {c : Cmd} {o : WriteOp} :
    PsKeeps s (State.commitPart s w c o) := by
  unfold State.commitPart
  try dsimp only
  repeat' first
    | with_reducible exact PsKeeps.refl
    | with_reducible apply PsKeeps.step State.finish_ps
    | with_reducible apply PsKeeps.step State.notNow_ps
    | with_reducible apply PsKeeps.keep State.modRelief_keeps
    | with_reducible apply PsKeeps.keep State.beginCommit_keeps
    | rfl
    | split

theorem State.rebase_ps {s : State} {w : Wy} {id n : Nat} {v : ValueVer} :
    PsKeeps s (State.rebase s w id n v) := by
  unfold State.rebase
  try dsimp only
  repeat' first
    | with_reducible exact PsKeeps.refl
    | with_reducible apply PsKeeps.keep State.endRef_keeps
    | with_reducible apply PsKeeps.step State.finish_ps
    | with_reducible apply PsKeeps.keep State.endJobs_keeps
    | with_reducible apply PsKeeps.keep State.freeChunk_keeps
    | with_reducible apply PsKeeps.keep State.modCmd_keeps
    | with_reducible apply PsKeeps.step State.advanceOp_ps
    | with_reducible apply PsKeeps.keep State.openOld_keeps
    | with_reducible apply PsKeeps.keep State.modOp_keeps
    | with_reducible apply PsKeeps.keep State.addDeltas_keeps
    | (with_reducible apply PsKeeps.foldl; intro _ _; try dsimp only)
    | rfl
    | split

theorem State.stepOn_ps {s : State} {w : Wy} {id : Nat} :
    PsKeeps s (State.stepOn s w id) := by
  unfold State.stepOn
  try dsimp only
  repeat' first
    | with_reducible exact PsKeeps.refl
    | with_reducible apply PsKeeps.step State.commitPart_ps
    | with_reducible apply PsKeeps.step State.commitStep_ps
    | with_reducible apply PsKeeps.step State.rebase_ps
    | (with_reducible apply PsKeeps.foldl; intro _ _; try dsimp only)
    | rfl
    | split

theorem State.beginOp_ps {s : State} {w : Wy} {c : Cmd} {n : Nat} {o : WriteOp} {imm : Bytes} {addr rkey : Nat} :
    PsKeeps s (State.beginOp s w c n o imm addr rkey) := by
  unfold State.beginOp
  try dsimp only
  repeat' first
    | with_reducible exact PsKeeps.refl
    | with_reducible apply PsKeeps.keep State.modOp_keeps
    | with_reducible apply PsKeeps.step State.advanceOp_ps
    | with_reducible apply PsKeeps.keep State.openOld_keeps
    | with_reducible apply PsKeeps.keep State.pullMore_keeps
    | rfl
    | split

theorem State.startOps_ps {s : State} {w : Wy} {c : Cmd} {l : List (WriteOp × Bytes × Nat × Nat)} :
    PsKeeps s (State.startOps s w c l) := by
  unfold State.startOps
  try dsimp only
  repeat' first
    | with_reducible exact PsKeeps.refl
    | with_reducible apply PsKeeps.keep State.modCmd_keeps
    | with_reducible apply PsKeeps.step State.commitStep_ps
    | with_reducible apply PsKeeps.step State.finish_ps
    | with_reducible apply PsKeeps.step State.stepOn_ps
    | with_reducible apply PsKeeps.step State.beginOp_ps
    | (with_reducible apply PsKeeps.foldl; intro _ _; try dsimp only)
    | rfl
    | split

theorem State.startOne_ps {s : State} {w : Wy} {c : Cmd} :
    PsKeeps s (State.startOne s w c) := by
  unfold State.startOne
  repeat' first
    | with_reducible exact PsKeeps.refl
    | with_reducible apply PsKeeps.step State.startOps_ps

theorem State.startPart_ps {s : State} {w : Wy} {c : Cmd} :
    PsKeeps s (State.startPart s w c) := by
  unfold State.startPart
  try dsimp only
  repeat' first
    | with_reducible exact PsKeeps.refl
    | with_reducible apply PsKeeps.step State.startOne_ps
    | with_reducible apply PsKeeps.step State.finish_ps
    | rfl
    | split

theorem State.startClose_ps {s : State} {w : Wy} {c : Cmd} :
    PsKeeps s (State.startClose s w c) := by
  unfold State.startClose
  try dsimp only
  repeat' first
    | with_reducible exact PsKeeps.refl
    | with_reducible apply PsKeeps.keep State.dropUpload_keeps
    | with_reducible apply PsKeeps.step State.commitAt_ps
    | with_reducible apply PsKeeps.step State.notNow_ps
    | with_reducible apply PsKeeps.step State.finish_ps
    | with_reducible apply PsKeeps.keep State.modCmd_keeps
    | with_reducible apply PsKeeps.keep State.beginCommit_keeps
    | rfl
    | split

theorem State.startOpen_ps {s : State} {w : Wy} {c : Cmd} :
    PsKeeps s (State.startOpen s w c) := by
  unfold State.startOpen
  try dsimp only
  repeat' first
    | with_reducible exact PsKeeps.refl
    | with_reducible apply PsKeeps.step State.notNow_ps
    | with_reducible apply PsKeeps.keep State.used_keeps
    | with_reducible apply PsKeeps.step State.finish_ps
    | with_reducible apply PsKeeps.keep State.beginCommit_keeps
    | with_reducible apply PsKeeps.keep State.modRelief_keeps
    | rfl
    | split

theorem State.startPlain_ps {s : State} {w : Wy} {c : Cmd} :
    PsKeeps s (State.startPlain s w c) := by
  unfold State.startPlain
  try dsimp only
  repeat' first
    | with_reducible exact PsKeeps.refl
    | with_reducible apply PsKeeps.keep State.modCmd_keeps
    | with_reducible apply PsKeeps.step State.commitStep_ps
    | rfl

theorem State.startGet_ps {s : State} {w : Wy} {c : Cmd} :
    PsKeeps s (State.startGet s w c) := by
  unfold State.startGet
  try dsimp only
  repeat' first
    | with_reducible exact PsKeeps.refl
    | with_reducible apply PsKeeps.keep State.queueCrypt_keeps
    | with_reducible apply PsKeeps.step State.startFetch_ps
    | with_reducible apply PsKeeps.step State.finish_ps
    | with_reducible apply PsKeeps.keep State.modCmd_keeps
    | rfl
    | split

theorem State.startStat_ps {s : State} {w : Wy} {c : Cmd} :
    PsKeeps s (State.startStat s w c) := by
  unfold State.startStat
  try dsimp only
  repeat' first
    | with_reducible exact PsKeeps.refl
    | with_reducible apply PsKeeps.keep State.placeAll_keeps
    | with_reducible apply PsKeeps.step State.finish_ps
    | rfl
    | split

theorem State.startList_ps {s : State} {w : Wy} {c : Cmd} :
    PsKeeps s (State.startList s w c) := by
  unfold State.startList
  try dsimp only
  repeat' first
    | with_reducible exact PsKeeps.refl
    | with_reducible apply PsKeeps.keep State.placeAll_keeps
    | with_reducible apply PsKeeps.step State.finish_ps
    | rfl
    | split

theorem State.startMapGet_ps {s : State} {w : Wy} {c : Cmd} :
    PsKeeps s (State.startMapGet s w c) := by
  unfold State.startMapGet
  try dsimp only
  repeat' first
    | with_reducible exact PsKeeps.refl
    | with_reducible apply PsKeeps.keep State.placeAll_keeps
    | with_reducible apply PsKeeps.step State.finish_ps
    | rfl
    | split

theorem State.startHello_ps {s : State} {w : Wy} {c : Cmd} :
    PsKeeps s (State.startHello s w c) := by
  unfold State.startHello
  repeat' first
    | with_reducible exact PsKeeps.refl
    | with_reducible apply PsKeeps.keep State.placeAll_keeps
    | with_reducible apply PsKeeps.step State.finish_ps
    | rfl
    | split

theorem State.answerAsked_ps {s : State} {w : Wy} :
    PsKeeps s (State.answerAsked s w) := by
  unfold State.answerAsked
  try dsimp only
  repeat' first
    | with_reducible exact PsKeeps.refl
    | with_reducible apply PsKeeps.step State.answerOutcome_ps
    | (with_reducible apply PsKeeps.foldl; intro _ _; try dsimp only)

theorem State.startOutcome_ps {s : State} {w : Wy} {c : Cmd} :
    PsKeeps s (State.startOutcome s w c) := by
  unfold State.startOutcome
  try dsimp only
  repeat' first
    | with_reducible exact PsKeeps.refl
    | with_reducible apply PsKeeps.step State.answerAsked_ps
    | with_reducible apply PsKeeps.keep State.mortarOut_keeps
    | with_reducible apply PsKeeps.keep State.modCmd_keeps
    | with_reducible apply PsKeeps.step State.answerOutcome_ps
    | rfl
    | split

theorem State.dispatch_ps {s : State} {w : Wy} {c : Cmd} :
    PsKeeps s (State.dispatch s w c) := by
  unfold State.dispatch
  try dsimp only
  repeat' first
    | with_reducible exact PsKeeps.refl
    | with_reducible apply PsKeeps.keep State.issuePull_keeps
    | with_reducible apply PsKeeps.step State.startOne_ps
    | with_reducible apply PsKeeps.step State.startHello_ps
    | with_reducible apply PsKeeps.step State.startList_ps
    | with_reducible apply PsKeeps.step State.startGet_ps
    | with_reducible apply PsKeeps.step State.startPlain_ps
    | with_reducible apply PsKeeps.step State.startClose_ps
    | with_reducible apply PsKeeps.step State.finish_ps
    | with_reducible apply PsKeeps.keep State.modCmd_keeps
    | with_reducible apply PsKeeps.step State.startStat_ps
    | with_reducible apply PsKeeps.step State.startOpen_ps
    | with_reducible apply PsKeeps.step State.startOutcome_ps
    | with_reducible apply PsKeeps.keep State.startCastDrop_keeps
    | with_reducible apply PsKeeps.step State.startMapGet_ps
    | with_reducible apply PsKeeps.keep State.modQueue_keeps
    | with_reducible apply PsKeeps.step State.startPart_ps
    | with_reducible apply PsKeeps.keep State.startCast_keeps
    | rfl
    | split

theorem State.answer_ps {s : State} {w : Wy} {q : Nat} {tag : Nat} {rid : BitVec 64} {a : Ans} :
    PsKeeps s (State.answer s w q tag rid a) := by
  unfold State.answer
  try dsimp only
  repeat' first
    | with_reducible exact PsKeeps.refl
    | with_reducible apply PsKeeps.keep State.bump_keeps
    | with_reducible apply PsKeeps.step State.handOut_ps
    | rfl
    | split

theorem State.begin_ps {s : State} {w : Wy} {c : Cmd} :
    PsKeeps s (State.begin_ s w c) := by
  unfold State.begin_
  try dsimp only
  repeat' first
    | with_reducible exact PsKeeps.refl
    | with_reducible apply PsKeeps.keep State.enqueue_keeps
    | with_reducible apply PsKeeps.step State.finish_ps
    | with_reducible apply PsKeeps.step State.dispatch_ps
    | with_reducible apply PsKeeps.keep State.setPhase_keeps
    | with_reducible apply PsKeeps.step State.commitStep_ps
    | rfl
    | split

theorem State.tryBegin_ps {s : State} {w : Wy} {id : Nat} :
    PsKeeps s (State.tryBegin s w id) := by
  unfold State.tryBegin
  repeat' first
    | with_reducible exact PsKeeps.refl
    | with_reducible apply PsKeeps.step State.begin_ps
    | rfl
    | split

theorem State.takeCommand_ps {s : State} {w : Wy} {q : Nat} {op : Opcode} {m : Msg} :
    PsKeeps s (State.takeCommand s w q op m) := by
  unfold State.takeCommand
  try dsimp only
  repeat' first
    | with_reducible exact PsKeeps.refl
    | with_reducible apply PsKeeps.step State.answer_ps
    | with_reducible apply PsKeeps.keep State.used_keeps
    | with_reducible apply PsKeeps.keep State.modRelief_keeps
    | with_reducible apply PsKeeps.step State.tryBegin_ps
    | rfl
    | split

theorem State.controlReset_ps {s : State} {w : Wy} {q code : Nat} {rid : BitVec 64} :
    PsKeeps s (State.controlReset s w q code rid) := by
  unfold State.controlReset
  try dsimp only
  repeat' first
    | with_reducible exact PsKeeps.refl
    | with_reducible apply PsKeeps.step State.sendAcks_ps
    | with_reducible apply PsKeeps.keep State.modPage_keeps
    | with_reducible apply PsKeeps.step State.resetQueue_ps
    | with_reducible apply PsKeeps.keep State.modQueue_keeps
    | rfl
    | split

theorem State.keepalive_ps {s : State} {w : Wy} {q : Nat} {rid : BitVec 64} :
    PsKeeps s (State.keepalive s w q rid) := by
  unfold State.keepalive
  try dsimp only
  repeat' first
    | with_reducible exact PsKeeps.refl
    | with_reducible apply PsKeeps.step State.handOut_ps
    | with_reducible apply PsKeeps.keep State.modQueue_keeps
    | rfl
    | split

theorem State.takeControl_ps {s : State} {w : Wy} {q code : Nat} {m : Msg} :
    PsKeeps s (State.takeControl s w q code m) := by
  unfold State.takeControl
  repeat' first
    | with_reducible exact PsKeeps.refl
    | with_reducible apply PsKeeps.step State.answer_ps
    | with_reducible apply PsKeeps.step State.keepalive_ps
    | with_reducible apply PsKeeps.step State.controlReset_ps
    | rfl
    | split

theorem State.takeUnknown_ps {s : State} {w : Wy} {q : Nat} {m : Msg} :
    PsKeeps s (State.takeUnknown s w q m) := by
  unfold State.takeUnknown
  repeat' first
    | with_reducible exact PsKeeps.refl
    | with_reducible apply PsKeeps.step State.answer_ps
    | rfl
    | split

theorem State.takeMsg_ps {s : State} {w : Wy} {h : HeldMsg} :
    PsKeeps s (State.takeMsg s w h) := by
  unfold State.takeMsg
  repeat' first
    | with_reducible exact PsKeeps.refl
    | with_reducible apply PsKeeps.step State.answer_ps
    | with_reducible apply PsKeeps.step State.takeUnknown_ps
    | with_reducible apply PsKeeps.step State.takeCommand_ps
    | with_reducible apply PsKeeps.step State.takeControl_ps
    | rfl
    | split

theorem State.replayHeld_ps {s : State} {w : Wy} :
    PsKeeps s (State.replayHeld s w) := by
  unfold State.replayHeld
  try dsimp only
  repeat' first
    | with_reducible exact PsKeeps.refl
    | with_reducible apply PsKeeps.step State.takeMsg_ps
    | with_reducible apply PsKeeps.keep State.modRelief_keeps
    | (with_reducible apply PsKeeps.foldl; intro _ _; try dsimp only)
    | rfl

end Sys2Proof.Machine
end

section
/-! PROOFS. Power (R418, R475-R480, R485, R487, R526): the inputs, hold-up, the switch-off, the start and the power states. -/

namespace Sys2Proof.Machine

/-! ### The inputs (R475) -/

theorem State.modInput_input (s : State) (h : Half) (f : Input → Input) : (s.modInput h f).input h = f (s.input h) := by
  cases h <;> rfl

theorem State.modInput_reg (s : State) (h : Half) (f : Input → Input) (p : Page) (off : Nat) : (s.modInput h f).reg p off = s.reg p off := by
  cases h <;> rfl

theorem Keeps.input_eq {l : List Part} {s t : State} (k : Keeps l s t) (ha : .inA ∉ l) (hb : .inB ∉ l) (h : Half) : t.input h = s.input h := by
  cases h
  · exact k.part .inA ha
  · exact k.part .inB hb

theorem State.openInput_input (s : State) (h : Half) (cause : Nat) :
    (s.openInput h cause).input h = { s.input h with on := false, at_ := s.now } := by
  unfold State.openInput
  dsimp only
  rw [State.record_keeps.input_eq (by decide) (by decide), State.event_keeps.input_eq (by decide) (by decide),
    State.bump_keeps.input_eq (by decide) (by decide), State.modInput_input]

theorem State.openInput_counts (s : State) (h : Half) (cause : Nat) : (s.openInput h cause).reg (.pwr (halfWy h)) PWR_CNT_INPUT_LOSS
    = s.reg (.pwr (halfWy h)) PWR_CNT_INPUT_LOSS + 1 := by
  unfold State.openInput
  dsimp only
  rw [State.record_keeps.reg_eq (by decide), State.event_reg_of_off_ne (by decide), bump_reg_self (by decide), State.modInput_reg]

theorem State.openInput_records (s : State) (h : Half) (cause : Nat) :
    ∃ e ∈ (s.openInput h cause).arriving, e.code = 0x0202 ∧ e.severity = 1 := by
  unfold State.openInput
  dsimp only
  obtain ⟨e, he, hc, hs, -, -⟩ := State.record_mem
    (((s.modInput h (fun x => { x with on := false, at_ := s.now })).bump (.pwr (halfWy h)) PWR_CNT_INPUT_LOSS).event (.pwr (halfWy h))
      PWR_EVT_INPUT_LOST) 0 1 0x0202 (pageIdOf (.pwr (halfWy h))).toNat
    (leBytes 1 (halfWy h).num ++ leBytes 1 cause ++ zeroBytes 2 ++ leBytes 2 (s.input h).mv)
  exact ⟨e, he, hc, hs⟩

/-- An input in range closes where PWRDIS is low, and keeps its reading. -/
theorem State.closeInput_input {s : State} {h : Half} (hin : inRange12 (s.input h).mv = true) (hdis : (s.input h).pwrdis = false) :
    ((s.closeInput h).input h).on = true ∧ ((s.closeInput h).input h).mv = (s.input h).mv
      ∧ ((s.closeInput h).input h).pwrdis = false := by
  unfold State.closeInput
  dsimp only
  split
  · rw [State.modInput_input]
    exact ⟨rfl, rfl, hdis⟩
  · next hopen => exact ⟨by simpa [hin, hdis] using hopen, rfl, hdis⟩

/-! ### Hold-up (R476, R477) -/

/-- The ports of a wythe go down and it serves no more. -/
def State.portsOff (s : State) (w : Wy) : State :=
  ((List.range 4).foldl (fun s n => s.linkDown w n) s).modWy w (fun y => { y with serving := false })

theorem State.portsOff_serving (s : State) (w v : Wy) :
    ((s.portsOff w).wy v).serving = false ∨ ((s.portsOff w).wy v).serving = (s.wy v).serving := by
  have down : (((List.range 4).foldl (fun s n => s.linkDown w n) s).wy v).serving = (s.wy v).serving :=
    (Keeps.foldl (fun _ _ => State.linkDown_keeps) .refl : Keeps [.pcie, .ports, .regs] s _).serving_eq (by decide) v
  by_cases h : v = w
  · subst h
    exact .inl (by rw [State.portsOff, State.modWy_wy])
  · refine .inr ?_
    have hv : v = w.peer := by cases v <;> cases w <;> first | rfl | exact absurd rfl h
    rw [State.portsOff, hv, State.modWy_peer, ← hv, down]

theorem State.portsOff_self (s : State) (w : Wy) : ((s.portsOff w).wy w).serving = false := by
  rw [State.portsOff, State.modWy_wy]

theorem foldl_portsOff_serving {l : List Wy} {w : Wy} (s : State) (h : w ∈ l ∨ (s.wy w).serving = false) :
    ((l.foldl State.portsOff s).wy w).serving = false := by
  induction l generalizing s with
  | nil => exact h.resolve_left (by simp)
  | cons v l ih =>
    refine ih _ ?_
    by_cases hv : w = v
    · exact .inr (hv ▸ s.portsOff_self v)
    · rcases h with h | h
      · exact .inl ((List.mem_cons.mp h).resolve_left hv)
      · exact .inr ((s.portsOff_serving v w).elim id (·.trans h))

theorem State.mediaDump_dumping (s : State) : s.mediaDump.media.dumping = true := by
  unfold State.mediaDump
  dsimp only
  have ended : ∀ (t : State) (l : List ChJob), MediaKeeps t (l.foldl (fun s j =>
      (s.chResult { j with started := s.now } (plainEnd .abandoned 0) []).chDone j (plainEnd .abandoned 0)) t) :=
    fun t l => .foldl (fun _ _ => State.chDone_media.step (.keep State.chResult_keeps rfl .refl)) .refl
  exact (MediaKept.dumping (ended _ _)).trans rfl

/-- The brick with its ports off and its media dumping. -/
def State.dumping (s : State) : State :=
  ((wythes.filter s.running).foldl State.portsOff
    (((s.abortTests (fun _ => true)).modPlinth (fun p => { p with startOn := false })).modHealth (fun h => { h with testing := none }))).mediaDump

theorem State.beginHoldUp_begins (s : State) : (∃ x, s.beginHoldUp.holdup = some x ∧ x.at_ = s.now)
    ∧ s.beginHoldUp.media.dumping = true ∧ ∀ w, s.running w = true → (s.beginHoldUp.wy w).serving = false := by
  have begun : MediaKeeps s.dumping (s.dumping.dumps.foldl (fun s e => s.beginDump e.2) s.dumping) :=
    .foldl (fun _ _ => State.beginDump_media) .refl
  have stays : Keeps [.media] s.dumping (s.dumping.dumps.foldl (fun s e => s.beginDump e.2) s.dumping) :=
    .foldl (fun _ _ => State.beginDump_keeps) .refl
  refine ⟨⟨_, rfl, rfl⟩, (MediaKept.dumping begun).trans (State.mediaDump_dumping _), fun w hw => ?_⟩
  have off : (s.dumping.wy w).serving = false := by
    rw [State.dumping, State.mediaDump_keeps.serving_eq (by decide)]
    exact foldl_portsOff_serving _ (.inl (List.mem_filter.mpr ⟨mem_wythes w, hw⟩))
  have after := (stays.serving_eq (by decide) w).trans off
  cases w <;> exact after

theorem execWytheDumpDone_ends {s : State} {w : Wy} {x : HoldUp} (hx : s.holdup = some x) (hw : w ∈ x.wait)
    (hidle : ∀ j ∈ s.media.jobs, s.payer j = w → j.st = .held) :
    ∃ t, execWytheDumpDone w s = .next t ∧ ∃ y, t.holdup = some y ∧ w ∉ y.wait := by
  unfold execWytheDumpDone
  rw [hx]
  dsimp only
  have hjobs : s.media.jobs.any (fun j => s.payer j = w && j.st ≠ .held) = false := by
    rw [List.any_eq_false]
    intro j hj h
    simp only [Bool.and_eq_true, decide_eq_true_eq] at h
    exact h.2 (hidle j hj h.1)
  rw [hjobs, if_neg (by simp [hw])]
  exact ⟨_, rfl, _, rfl, by simp⟩

/-! ### The switch-off (R478) -/

theorem State.powerOff_off (s : State) : s.powerOff.holdup = none ∧ s.powerOff.cover = .reset := by
  unfold State.powerOff
  generalize ((s.dropChannels).resetWythe .w0 1).resetWythe .w1 1 = s1
  exact ⟨rfl, rfl⟩

theorem State.powerOff_own {s : State} : OwnKeeps s s.powerOff := by
  have dropped : OwnKeeps s (((s.dropChannels).resetWythe .w0 1).resetWythe .w1 1) :=
    .keep State.resetWythe_keeps rfl (.keep State.resetWythe_keeps rfl State.dropChannels_own)
  unfold State.powerOff
  generalize ((s.dropChannels).resetWythe .w0 1).resetWythe .w1 1 = s1 at *
  exact dropped

theorem execHoldUpEnd_ends {s : State} {x : HoldUp} (hx : s.holdup = some x) (hend : x.wait = [] ∨ x.at_ + 100000000 ≤ s.now) :
    ∃ t, execHoldUpEnd s = .next t ∧ t.holdup = none ∧ t.cover.run0 = false ∧ t.cover.run1 = false
      ∧ ∃ e ∈ t.arriving, e.code = 0x0201 ∧ e.severity = 0 := by
  unfold execHoldUpEnd
  rw [hx]
  dsimp only
  have hgo : ¬ (decide (x.wait ≠ []) && !s.since x.at_ (ms 100)) = true := by
    rcases hend with h | h
    · simp [h]
    · simp [(State.since_ms s x.at_ 100).mpr h]
  rw [if_neg hgo]
  refine ⟨_, rfl, (State.powerOff_off _).1, by rw [(State.powerOff_off _).2]; rfl, by rw [(State.powerOff_off _).2]; rfl, ?_⟩
  obtain ⟨e, he, hc, hs, h0, -⟩ := State.record_mem s 0 0 0x0201 (pageIdOf (.pwr .w0)).toNat
    (leBytes 8 (if x.ended.contains 0 then ((x.begun.find? (fun e => e.2.1 = 0)).map (fun e => e.2.2)).getD 0 else 0)
      ++ leBytes 8 (if x.ended.contains 1 then ((x.begun.find? (fun e => e.2.1 = 1)).map (fun e => e.2.2)).getD 0 else 0)
      ++ leBytes 4 ((s.now - x.at_) / 1000000))
  exact ⟨e, State.powerOff_own e he h0, hc, hs⟩

/-! ### The start (R485, R526) -/

theorem State.beginStart_slots (s : State) (cause : Nat) :
    (s.beginStart cause).front.slotA = s.front.slotA ∧ (s.beginStart cause).front.slotB = s.front.slotB := by
  unfold State.beginStart
  extract_lets s1 s2 s3 s4
  have h1 : s1.front = s.front := by
    rw [State.resetWythe_keeps.front_eq (by decide), State.resetWythe_keeps.front_eq (by decide), State.dropChannels_keeps.front_eq (by decide)]
  clear_value s1
  have h4 : s4.front.slotA = s3.front.slotA ∧ s4.front.slotB = s3.front.slotB := by
    have same : (if s3.front.removeSt = 0 then s3 else s3.event .fpn FPN_EVT_REMOVE_CHANGE).front = s3.front := by
      split
      · rfl
      · exact State.event_keeps.front_eq (by decide)
    exact ⟨(congrArg Front.slotA same : _ = s3.front.slotA), (congrArg Front.slotB same : _ = s3.front.slotB)⟩
  have last : ∀ t : State, ((t.startRecord cause).brickStep 1 0 0).front = t.front := fun t => by
    rw [State.brickStep_keeps.front_eq (by decide), State.startRecord_keeps.front_eq (by decide)]
  rw [last]
  exact ⟨h4.1.trans (congrArg Front.slotA h1), h4.2.trans (congrArg Front.slotB h1)⟩

/-! ### Power states (R418, R480) -/

theorem psCounter_lt (n : Nat) : psCounter n < 0x1000 ∧ psCounter n ≠ EVT_STATUS := by
  unfold psCounter
  split_ifs <;> decide

/-- Both wythes count an entry into a deeper state and raise their event (R418). -/
theorem State.setPs_counts {s : State} {n : Nat} (hne : s.pwr.ps ≠ n) (hn : n ≠ 0) (w : Wy) :
    (s.setPs n).reg (.pwr w) (psCounter n) = s.reg (.pwr w) (psCounter n) + 1
      ∧ bitOf ((s.setPs n).reg (.pwr w) EVT_STATUS) PWR_EVT_STATE_CHANGE = true := by
  obtain ⟨hlt, hevt⟩ := psCounter_lt n
  unfold State.setPs
  rw [if_neg hne]
  dsimp only [List.foldl_cons, List.foldl_nil]
  rw [if_neg hn, if_neg hn]
  have apart : ∀ {v u : Wy} {o o' : Nat}, v ≠ u → o < 0x1000 → o' < 0x1000 → pageKey (.pwr v) + o ≠ pageKey (.pwr u) + o' :=
    fun h ho ho' => pageKey_ne (by simpa using h) ho ho'
  have evt : EVT_STATUS < 0x1000 := by decide
  cases w with
  | w0 =>
    refine ⟨?_, ?_⟩
    · rw [State.event_reg_of_ne (apart (by decide) hlt evt), State.bump_reg_of_ne (apart (by decide) hlt hlt) (apart (by decide) hlt evt), State.event_reg_of_off_ne hevt,
        bump_reg_self hevt]
      rfl
    · rw [State.event_reg_of_ne (apart (by decide) evt evt), State.bump_reg_of_ne (apart (by decide) evt hlt) (apart (by decide) evt evt)]
      exact State.event_sets_bit (by decide) _ _
  | w1 =>
    refine ⟨?_, State.event_sets_bit (by decide) _ _⟩
    rw [State.event_reg_of_off_ne hevt, bump_reg_self hevt, State.event_reg_of_ne (apart (by decide) hlt evt),
      State.bump_reg_of_ne (apart (by decide) hlt hlt) (apart (by decide) hlt evt)]
    rfl

theorem State.setPs_ps (s : State) (n : Nat) : (s.setPs n).pwr.ps = n := by
  unfold State.setPs
  split
  · assumption
  · have kept : ∀ (t : State) (w : Wy), ((if n = 0 then t else t.bump (.pwr w) (psCounter n)).event (.pwr w) PWR_EVT_STATE_CHANGE).pwr
        = t.pwr := fun t w => by
      rw [State.event_keeps.pwr_eq (by decide)]
      split
      · rfl
      · exact State.bump_keeps.pwr_eq (by decide)
    dsimp only [List.foldl_cons, List.foldl_nil]
    rw [kept, kept]

theorem State.wake_ps (s : State) : s.wake.pwr.ps = 0 ∧ s.wake.pwr.waking = false := by
  unfold State.wake
  dsimp only
  have taken := State.replayHeld_ps (w := .w1).step (State.replayHeld_ps (w := .w0)
    (s := { s.setPs 0 with pwr := { (s.setPs 0).pwr with waking := false } }))
  exact ⟨taken.ps.trans (s.setPs_ps 0), taken.waking⟩

end Sys2Proof.Machine

namespace Sys2Proof
open Sys2Proof.Machine

/-- Settles O38, event by event. Both PWR pages count, and only the state entered counts (logs 96, 98). -/
theorem powerActs : Obligations.PowerActs := by
  unfold Obligations.PowerActs
  intro h s
  refine ⟨fun mv hout hon => ?_, fun mv hin hdis => ?_, ?_, fun hin => ?_, fun ha hb hlate hup hpow => ?_, fun w x hx hw hidle => ?_,
    fun x hx hend => ?_, fun slotA slotB hup hsvc hhold hpow hgood hrec => ?_, fun hwake hps => ?_, fun hwake => ?_⟩
  · refine runs_intro (t := (s.modInput h (fun x => { x with mv := mv })).openInput h (if mv < 10800 then 1 else 2)) ?_ ?_
    · show execInputOutOfRange h mv s = _
      unfold execInputOutOfRange
      rw [if_neg (by simp [hout])]
      dsimp only
      rw [if_pos hon]
    · rw [State.openInput_input, State.openInput_counts, State.modInput_input, State.modInput_reg]
      exact ⟨rfl, rfl, State.openInput_records .., rfl⟩
  · refine runs_intro (congrArg Host.Outcome.next (if_pos hin)) ?_
    have closed := State.closeInput_input (s := s.modInput h (fun x => { x with mv := mv })) (h := h) (by rw [State.modInput_input]; exact hin)
      (by rw [State.modInput_input]; exact hdis)
    exact ⟨closed.1, closed.2.1.trans (by rw [State.modInput_input])⟩
  · cases hon : (s.input h).on
    · refine runs_intro (congrArg Host.Outcome.next (if_neg (by simp [hon]))) ?_
      rw [State.modInput_input]
      exact ⟨rfl, fun h => by cases h⟩
    · refine runs_intro (congrArg Host.Outcome.next (if_pos hon)) ?_
      rw [State.openInput_input, State.modInput_input]
      exact ⟨rfl, fun _ => ⟨rfl, State.openInput_records ..⟩⟩
  · refine runs_intro rfl ?_
    have closed := State.closeInput_input (s := s.modInput h (fun x => { x with pwrdis := false })) (h := h)
      (by rw [State.modInput_input]; exact hin) (by rw [State.modInput_input])
    exact ⟨closed.2.2, closed.1⟩
  · refine runs_intro (congrArg Host.Outcome.next (if_pos ?_)) (State.beginHoldUp_begins s)
    simp [ha, hb, hup, hpow, (State.since_us s (max s.inA.at_ s.inB.at_) 50).mpr hlate]
  · exact execWytheDumpDone_ends hx hw hidle
  · exact execHoldUpEnd_ends hx hend
  · refine runs_intro (t := (s.readSlots slotA slotB).beginStart 1) ?_ ?_
    · show execPowerGood slotA slotB s = _
      unfold execPowerGood
      rw [if_neg (by simp [hup, hsvc, hhold, hpow, hgood])]
      dsimp only
      rw [if_neg (by simp [hrec])]
    · obtain ⟨hon, -, -, -, hno⟩ := State.beginStart_plinth (s.readSlots slotA slotB) 1
      obtain ⟨hA, hB⟩ := State.beginStart_slots (s.readSlots slotA slotB) 1
      have same : (s.readSlots slotA slotB).plinth = s.plinth := State.readSlots_keeps.plinth_eq (by decide)
      rw [State.readSlots_front] at hA hB
      exact ⟨hon, by rw [hno, same], hA, hB⟩
  · refine runs_intro (congrArg Host.Outcome.next (if_pos (by simp [hwake, hps]))) ⟨State.setPs_ps .., fun w => ?_⟩
    exact State.setPs_counts (by omega) (Nat.succ_ne_zero _) w
  · exact runs_intro (congrArg Host.Outcome.next (if_pos (by simp [hwake]))) (State.wake_ps s)

end Sys2Proof
end

section
/-! PROOFS. The registers common to the pages and the TST page's actions (R9, R11, R19, R327, R404, R408, R510, R514). -/

namespace Sys2Proof.Machine

/-! ### TST_CTRL's actions -/

theorem Keeps.die_eq {l : List Part} {s t : State} (h : Keeps l s t) (hl : .media ∉ l) (d : Nat) : t.die d = s.die d := by
  rw [State.die, h.media_eq hl, State.die]

theorem MediaKeeps.retired {s t : State} (h : MediaKeeps s t) {d : Nat} (hd : (s.die d).retired = true) : (t.die d).retired = true :=
  (MediaKept.dies h d).retired hd

/-- The end of a TST action counts its refusal or its failure, and no run. -/
theorem State.tstEnd_run (s : State) (w : Wy) (result ms_ : Nat) :
    (s.tstEnd w result ms_).reg (.tst w) TST_CNT_RUN = s.reg (.tst w) TST_CNT_RUN := by
  have answered : ((s.testResult w result 7 ms_).event (.tst w) TST_EVT_DONE).reg (.tst w) TST_CNT_RUN = s.reg (.tst w) TST_CNT_RUN := by
    rw [State.event_reg_of_off_ne (by decide), State.testResult, State.setReg_reg_of_off_ne (by decide)]
  unfold State.tstEnd
  dsimp only
  split_ifs
  · exact answered
  · rw [State.bump_reg_of_off_ne (by decide) (by decide), answered]
  · rw [State.event_reg_of_off_ne (by decide), State.bump_reg_of_off_ne (by decide) (by decide), answered]

@[simp] theorem State.modSet_die (s : State) (i : Nat) (f : SetSt → SetSt) (d : Nat) : (s.modSet i f).die d = s.die d := by
  unfold State.modSet
  by_cases hi : i = 0 <;> simp [State.die, hi]

theorem State.retireDie_retired (s : State) (d cause : Nat) : ((s.retireDie d cause).die d).retired = true := by
  unfold State.retireDie
  split
  next h => exact h
  · dsimp only
    rw [State.earlyWarn_keeps.die_eq (by decide)]
    rw [State.modSet_die, State.modDie_die]

theorem State.retireDie_run (s : State) (d cause : Nat) (w : Wy) :
    (s.retireDie d cause).reg (.tst w) TST_CNT_RUN = s.reg (.tst w) TST_CNT_RUN :=
  State.retireDie_writes.reg _ _ (by decide) (show PageKind.tst ∉ [PageKind.hlt, PageKind.med] by decide)

/-- A die that its wythe drives is tested: the run is counted, and one that fails is retired. -/
theorem State.dieTest_run {s : State} {w : Wy} (h : (s.chan (s.tstDie w / 32)).owner = some w) (result ms_ : Nat) :
    (s.dieTest w result ms_).reg (.tst w) TST_CNT_RUN = s.reg (.tst w) TST_CNT_RUN + 1 := by
  have tested : ((s.bump (.tst w) TST_CNT_RUN).tstEnd w result ms_).reg (.tst w) TST_CNT_RUN = s.reg (.tst w) TST_CNT_RUN + 1 := by
    rw [State.tstEnd_run, State.bump_reg_self (by decide)]
  unfold State.dieTest
  dsimp only
  rw [if_neg (not_not.mpr h)]
  split
  · exact tested
  · rw [State.retireDie_run, tested]

theorem State.dieTest_retired {s : State} {w : Wy} (h : (s.chan (s.tstDie w / 32)).owner = some w) (result ms_ : Nat) :
    ((s.dieTest w result ms_).die (s.tstDie w)).retired = ((s.die (s.tstDie w)).retired || decide (result ≠ 0)) := by
  unfold State.dieTest
  dsimp only
  rw [if_neg (not_not.mpr h)]
  split
  next h0 =>
    rw [State.tstEnd_keeps.die_eq (by decide), State.bump_keeps.die_eq (by decide), decide_eq_false (not_not.mpr h0), Bool.or_false]
  next h0 => rw [State.retireDie_retired, decide_eq_true h0, Bool.or_true]

theorem State.dieRetire_retired {s : State} {w : Wy} (h : (s.chan (s.tstDie w / 32)).owner = some w)
    (hin : (s.die (s.tstDie w)).retired = false) (hset : (s.set_ (setOf (s.tstDie w / 32))).dieRebuild = []) :
    ((s.dieRetire w).die (s.tstDie w)).retired = true := by
  unfold State.dieRetire
  dsimp only
  rw [if_neg (by simp [h, hin, hset]), State.tstEnd_keeps.die_eq (by decide)]
  exact State.settleSet_media.retired (State.retireDie_retired ..)

theorem State.markDram_marks (s : State) (w : Wy) (c : Nat) : (w, c) ∈ (s.markDram w c).plinth.marks := by
  unfold State.markDram
  split
  next h => simpa using h
  · rw [State.event_keeps.plinth_eq (by decide)]
    exact List.mem_append_right _ (List.mem_singleton.mpr rfl)

theorem State.dramMark_marks (s : State) (w : Wy) : (w, s.rfld (.tst w) TST_TARGET 19 16) ∈ (s.dramMark w).plinth.marks := by
  rw [State.dramMark, State.tstEnd_keeps.plinth_eq (by decide)]
  exact State.markDram_marks ..

theorem State.dramUnmark_marks (s : State) (w : Wy) : (w, s.rfld (.tst w) TST_TARGET 19 16) ∉ (s.dramUnmark w).plinth.marks := by
  rw [State.dramUnmark, State.tstEnd_keeps.plinth_eq (by decide)]
  exact fun h => by simpa using (List.mem_filter.mp h).2

end Sys2Proof.Machine

namespace Sys2Proof
open Sys2Proof.Machine

/-- Settles O49, register by register and action by action: a page's four registers take the write or the read that reaches them, the
tests' ends write no die, and a retired die stays retired while its set is settled (`MediaKeeps`). -/
theorem pageRegistersAct : Obligations.PageRegistersAct := by
  unfold Obligations.PageRegistersAct
  intro src p w v s
  refine ⟨fun h => ?_, fun h => ?_, fun h => ?_, fun h hv => ?_, fun h => ⟨fun hown => ⟨fun result ms_ => ?_, fun hin hset => ?_⟩,
    fun c d => ?_, ?_⟩, fun c d hrel => ?_⟩
  · exact runs_intro (congrArg Host.Outcome.next (State.gated_of_writeArrives h)) (State.setReg_reg_self ..)
  · exact runs_intro (congrArg Host.Outcome.next (State.gated_of_writeArrives h)) fun n hn => State.forceEvt_bit hn
  · exact runs_intro (congrArg Host.Outcome.next (State.readGate_of_readArrives h))
      ⟨State.mem_emit_out .., State.setReg_reg_self ..⟩
  · refine runs_intro (congrArg Host.Outcome.next (State.gated_of_writeArrives h)) ?_
    rw [State.lockPage_rfld, if_pos hv]
  · exact runs_intro (congrArg Host.Outcome.next (State.gated_of_writeArrives h))
      ⟨State.dieTest_run hown result ms_, State.dieTest_retired hown result ms_⟩
  · exact runs_intro (congrArg Host.Outcome.next (State.gated_of_writeArrives h)) (State.dieRetire_retired hown hin hset)
  · exact runs_intro (congrArg Host.Outcome.next (State.gated_of_writeArrives h)) (State.dramMark_marks s w)
  · exact runs_intro (congrArg Host.Outcome.next (State.gated_of_writeArrives h)) (State.dramUnmark_marks s w)
  · refine runs_intro (congrArg Host.Outcome.next (if_pos hrel)) ?_
    rw [State.dramError_keeps.plinth_eq (by decide), State.recordOpen_keeps.plinth_eq (by decide)]
    exact State.markDram_marks ..

end Sys2Proof
end

section
/-! PROOFS. A unit stands where it stands: the registers that hold a page's state, its PAGE_CTRL and its shadowed values, and what the unit
holds beyond them, under the operations that change neither. -/

namespace Sys2Proof.Machine

/-- The registers of a kind of page that few operations touch: PAGE_CTRL, PAGE_STATE and the shadowed registers, on the BPM page also the
reserves of its six pools, and the marks of a tile's faults, of a wythe's clock and of a request of the RST page. -/
def heldOffs : PageKind → List Nat
  | .bpm => [PAGE_CTRL, PAGE_STATE, BPM_CTRL, 0x148, 0x158, 0x168, 0x178, 0x188, 0x198]
  | .chn => [PAGE_CTRL, PAGE_STATE, CHN_SUSPEND_CTRL]
  | .cip => [PAGE_CTRL, PAGE_STATE, CIP_SCHED_CTRL]
  | .clk => [PAGE_CTRL, PAGE_STATE, CLK_MON_CTRL, CLK_MON_PPM, CLK_STATUS, CLK_CNT_UNLOCK]
  | .crs => [PAGE_CTRL, PAGE_STATE, CRS_CHISEL_CTRL]
  | .fpn => [PAGE_CTRL, PAGE_STATE, FPN_CTRL]
  | .fwu => [PAGE_CTRL, PAGE_STATE, FWU_CTRL]
  | .hlt => [PAGE_CTRL, PAGE_STATE, HLT_TEMP_CTRL, HLT_CAP_CTRL]
  | .mac => [PAGE_CTRL, PAGE_STATE, MAC_MAX_FRAME, MAC_LPI_CTRL, MAC_LPI_TW, MAC_PFC_CTRL]
  | .med => [PAGE_CTRL, PAGE_STATE, MED_NAND_BUDGET, MED_CLASS_SHARE, MED_SLC_CTRL, MED_SLC_TIMERS, MED_WRITE_CTRL]
  | .mtr => [PAGE_CTRL, PAGE_STATE, MTR_JOIN_CTRL, MTR_JOIN_PORT, MTR_JOIN_WALL_LO, MTR_JOIN_WALL_HI, MTR_JOIN_ADDR0, MTR_JOIN_ADDR1,
      MTR_JOIN_ADDR2, MTR_JOIN_ADDR3, MTR_DOMAIN, MTR_CC_CTRL, MTR_RTO_CTRL]
  | .ptp => [PAGE_CTRL, PAGE_STATE, PTP_PPS_CTRL]
  | .pwr => [PAGE_CTRL, PAGE_STATE, PWR_CTRL, PWR_IDLE_PS1, PWR_IDLE_PS2, PWR_IDLE_PS3]
  | .rdm => [PAGE_CTRL, PAGE_STATE, RDM_CTRL, RDM_CNP_CTRL, RDM_MARK]
  | .rlf => [PAGE_CTRL, PAGE_STATE, RLF_ADMIT_CTRL, RLF_INGEST_BUDGET, RLF_EGRESS_BUDGET]
  | .rst => [PAGE_CTRL, PAGE_STATE, RST_STATUS, RST_CNT_UNIT]
  | .til => [PAGE_CTRL, PAGE_STATE, TIL_LAST_FAULT, TIL_CNT_FAULT]
  | _ => [PAGE_CTRL, PAGE_STATE]

theorem shadowRows_held (p : Page) : ∀ r ∈ shadowRows p, r.off ∈ heldOffs (pageKind p) := by
  cases p
  case crs w n =>
    simp only [shadowRows, pageRows, pageKind]
    split <;> decide
  all_goals
    simp only [shadowRows, pageRows, pageKind]
    decide

theorem heldOffs_lt {k : PageKind} : ∀ off ∈ heldOffs k, off < 0x1000 := by
  cases k <;> decide

theorem pageState_held {k : PageKind} : PAGE_STATE ∈ heldOffs k := by cases k <;> decide

theorem pageCtrl_held {k : PageKind} : PAGE_CTRL ∈ heldOffs k := by cases k <;> decide

/-- An error or an event of a page touches none of them. -/
theorem header_not_held {k : PageKind} {off : Nat} (h : off ∈ [EVT_STATUS, ERR_CODE, ERR_INFO0, ERR_INFO1, ERR_COUNT]) :
    (heldOffs k).contains off = false := by
  simp only [List.mem_cons, List.not_mem_nil, or_false] at h
  obtain rfl | rfl | rfl | rfl | rfl := h <;> cases k <;> rfl

/-- A page's state, control and shadowed registers stay, and what its unit holds beyond them. -/
structure UnitStays (p : Page) (s t : State) : Prop where
  reg : ∀ off ∈ heldOffs (pageKind p), t.reg p off = s.reg p off
  ujob : t.ujob p = s.ujob p

/-- Every page outside the kinds listed stands. -/
def Held (l : List PageKind) (s t : State) : Prop := ∀ p, pageKind p ∉ l → UnitStays p s t

theorem UnitStays.refl {p : Page} {s : State} : UnitStays p s s := ⟨fun _ _ => rfl, rfl⟩

theorem UnitStays.trans {p : Page} {s t u : State} (h : UnitStays p s t) (k : UnitStays p t u) : UnitStays p s u :=
  ⟨fun off ho => (k.reg off ho).trans (h.reg off ho), k.ujob.trans h.ujob⟩

theorem Held.refl {l : List PageKind} {s : State} : Held l s s := fun _ _ => .refl

theorem Held.step {l m : List PageKind} {s t u : State} (k : Held m t u) (hl : m.all (l.contains ·) = true) (h : Held l s t) :
    Held l s u :=
  fun p hp => (h p hp).trans (k p fun hm => hp (by simpa using List.all_eq_true.mp hl _ hm))

theorem Held.put {l : List PageKind} {s t u : State} (hr : u.regs = t.regs) (hu : u.units = t.units) (h : Held l s t) : Held l s u :=
  fun p hp => (h p hp).trans ⟨fun off _ => by rw [State.reg, hr, State.reg], by rw [State.ujob, hu, State.ujob]⟩

theorem Held.keep {l : List PageKind} {m : List Part} {s t u : State} (k : Keeps m t u)
    (hm : (m.contains .regs || m.contains .units) = false) (h : Held l s t) : Held l s u := by
  obtain ⟨hr, hu⟩ := Bool.or_eq_false_iff.mp hm
  exact h.put (k.regs_eq (by simpa using hr)) (k.units_eq (by simpa using hu))

theorem Held.foldl {α : Type} {l : List PageKind} {s u : State} {f : State → α → State} {xs : List α}
    (hf : ∀ v a, Held l v (f v a)) (h : Held l s u) : Held l s (xs.foldl f u) := by
  induction xs generalizing u with
  | nil => exact h
  | cons a xs ih => exact ih ((hf u a).step (by simp) h)

theorem Held.setReg {l : List PageKind} {s t : State} {p : Page} {off : Nat} {v : Word}
    (hp : (heldOffs (pageKind p)).contains off = false) (ho : Nat.blt off 0x1000 = true) (h : Held l s t) : Held l s (t.setReg p off v) := by
  refine fun q hq => (h q hq).trans ⟨fun o hoq => ?_, rfl⟩
  by_cases hpq : q = p
  · subst hpq
    exact State.setReg_reg_of_off_ne fun e => by simp [← e, hoq] at hp
  · exact State.setReg_reg_of_ne (pageKey_ne hpq (heldOffs_lt o hoq) (by simpa using ho))

theorem Held.setRfld {l : List PageKind} {s t : State} {p : Page} {off hi lo v : Nat}
    (hp : (heldOffs (pageKind p)).contains off = false) (ho : Nat.blt off 0x1000 = true) (h : Held l s t) :
    Held l s (t.setRfld p off hi lo v) := h.setReg hp ho

theorem Held.setEvt {l : List PageKind} {s t : State} {p : Page} {b : Word} (h : Held l s t) : Held l s (t.setEvt p b) :=
  .keep (State.becamePending_keeps (p := p)) rfl (h.setReg (v := t.reg p EVT_STATUS ||| b) (header_not_held (by decide)) rfl)

theorem Held.event {l : List PageKind} {s t : State} {p : Page} {n : Nat} (h : Held l s t) : Held l s (t.event p n) := h.setEvt

theorem Held.bumpBy {l : List PageKind} {s t : State} {p : Page} {off n : Nat} (hp : (heldOffs (pageKind p)).contains off = false)
    (ho : Nat.blt off 0x1000 = true) (h : Held l s t) : Held l s (t.bumpBy p off n) := by
  unfold State.bumpBy
  dsimp only
  split
  · exact (h.setReg hp ho).event
  · exact h.setReg hp ho

theorem Held.bump {l : List PageKind} {s t : State} {p : Page} {off : Nat} (hp : (heldOffs (pageKind p)).contains off = false)
    (ho : Nat.blt off 0x1000 = true) (h : Held l s t) : Held l s (t.bump p off) := h.bumpBy hp ho

theorem Held.countError {l : List PageKind} {s t : State} {p : Page} (h : Held l s t) : Held l s (t.countError p) :=
  h.setReg (header_not_held (by decide)) rfl

theorem Held.pageError {l : List PageKind} {s t : State} {p : Page} {code a b : Nat} (h : Held l s t) :
    Held l s (t.pageError p code a b) :=
  (((h.setReg (header_not_held (by decide)) rfl).setReg (header_not_held (by decide)) rfl).setReg (header_not_held (by decide)) rfl).countError

theorem Held.ite {l : List PageKind} {s t u : State} {c : Prop} [Decidable c] (ht : Held l s t) (hu : Held l s u) :
    Held l s (if c then t else u) := by
  split
  · exact ht
  · exact hu

theorem Held.setJobRuns {l : List PageKind} {s t : State} {x} (h : Held l s t) : Held l s { t with jobRuns := x } :=
  h.put (t := t) rfl rfl

theorem Held.setStripes {l : List PageKind} {s t : State} {x : Stripes} (h : Held l s t) : Held l s { t with stripes := x } :=
  h.put (t := t) rfl rfl

theorem Held.setPwr {l : List PageKind} {s t : State} {x} (h : Held l s t) : Held l s { t with pwr := x } :=
  h.put (t := t) rfl rfl

theorem State.jobSent_held {s : State} {w : Wy} {t : Fin 128} :
    Held [] s (State.jobSent s w t) := by
  unfold State.jobSent
  repeat' first
    | with_reducible exact Held.refl
    | with_reducible apply Held.bump
    | rfl

theorem State.jobGone_held {s : State} {w : Wy} {t : Fin 128} :
    Held [] s (State.jobGone s w t) := by
  unfold State.jobGone
  repeat' first
    | with_reducible exact Held.refl
    | with_reducible apply Held.bump
    | rfl

theorem State.pushFlow_held {s : State} {w : Wy} {b : Nat} {bw : Wy} {n : Nat} :
    Held [] s (State.pushFlow s w b bw n) := by
  unfold State.pushFlow
  try dsimp only
  repeat' first
    | with_reducible exact Held.refl
    | with_reducible apply Held.keep State.used_keeps
    | with_reducible apply Held.keep State.emitAll_keeps
    | with_reducible apply Held.bumpBy
    | with_reducible apply Held.keep State.modFlow_keeps
    | rfl
    | split

theorem State.flowSend_held {s : State} {w : Wy} {b : Nat} {bw : Wy} {n : Nat} {addr : BitVec 128} {m : MortarBody} :
    Held [] s (State.flowSend s w b bw n addr m) := by
  unfold State.flowSend
  try dsimp only
  repeat' first
    | with_reducible exact Held.refl
    | with_reducible apply Held.step State.pushFlow_held
    | with_reducible apply Held.keep State.openFlow_keeps
    | with_reducible apply Held.keep State.modFlow_keeps
    | rfl

theorem State.mortarTo_held {s : State} {w : Wy} {dst : Nat} {dstW : Wy} {addr : BitVec 128} {b : MortarBody} :
    Held [] s (State.mortarTo s w dst dstW addr b) := by
  unfold State.mortarTo
  try dsimp only
  repeat' first
    | with_reducible exact Held.refl
    | with_reducible apply Held.keep State.emit_keeps
    | with_reducible apply Held.step State.flowSend_held
    | with_reducible apply Held.keep State.used_keeps
    | rfl
    | split

theorem State.mortarOut_held {s : State} {w : Wy} {dst : Nat} {dstW : Wy} {b : MortarBody} :
    Held [] s (State.mortarOut s w dst dstW b) := by
  unfold State.mortarOut
  repeat' first
    | with_reducible exact Held.refl
    | with_reducible apply Held.step State.mortarTo_held
    | with_reducible apply Held.keep State.used_keeps
    | rfl

theorem State.toPart_held {s : State} {w : Wy} {dst p : Nat} {b : MortarBody} :
    Held [] s (State.toPart s w dst p b) := by
  unfold State.toPart
  repeat' first
    | with_reducible exact Held.refl
    | with_reducible apply Held.step State.mortarOut_held
    | rfl

theorem State.toArmature_held {s : State} {w : Wy} {b : MortarBody} :
    Held [] s (State.toArmature s w b) := by
  unfold State.toArmature
  try dsimp only
  repeat' first
    | with_reducible exact Held.refl
    | with_reducible apply Held.step State.mortarOut_held
    | (with_reducible apply Held.foldl; intro _ _; try dsimp only)
    | rfl

theorem State.mirrored_held {s : State} {w : Wy} :
    Held [] s (State.mirrored s w) := by
  unfold State.mirrored
  repeat' first
    | with_reducible exact Held.refl
    | with_reducible apply Held.bump
    | rfl
    | split

theorem State.ackPlaced_held {s : State} {w : Wy} {x : Placing} :
    Held [] s (State.ackPlaced s w x) := by
  unfold State.ackPlaced
  repeat' first
    | with_reducible exact Held.refl
    | with_reducible apply Held.step State.mortarOut_held
    | rfl
    | split

theorem State.place_held {s : State} {w : Wy} {x : Placing} :
    Held [] s (State.place s w x) := by
  unfold State.place
  try dsimp only
  repeat' first
    | with_reducible exact Held.refl
    | with_reducible apply Held.step State.ackPlaced_held
    | with_reducible apply Held.step State.mirrored_held
    | with_reducible apply Held.keep State.modStore_keeps
    | rfl
    | split

theorem State.sendBatch_held {s : State} {b : DeltaBatch} :
    Held [] s (State.sendBatch s b) := by
  unfold State.sendBatch
  try dsimp only
  repeat' first
    | with_reducible exact Held.refl
    | with_reducible apply Held.step State.mortarOut_held
    | with_reducible apply Held.keep State.modRefs_keeps
    | rfl
    | split

theorem State.addDeltaTo_held {s : State} {p g : Nat} {recount : Bool} {e : DeltaEntry} :
    Held [] s (State.addDeltaTo s p g recount e) := by
  unfold State.addDeltaTo
  try dsimp only
  repeat' first
    | with_reducible exact Held.refl
    | with_reducible apply Held.step State.sendBatch_held
    | with_reducible apply Held.keep State.modRefs_keeps
    | rfl
    | split

theorem State.addDelta_held {s : State} {p : Nat} {e : DeltaEntry} :
    Held [] s (State.addDelta s p e) := by
  unfold State.addDelta
  repeat' first
    | with_reducible exact Held.refl
    | with_reducible apply Held.step State.addDeltaTo_held
    | rfl

theorem State.addDeltas_held {s : State} {p : Nat} {l : List DeltaEntry} :
    Held [] s (State.addDeltas s p l) := by
  unfold State.addDeltas
  try dsimp only
  repeat' first
    | with_reducible exact Held.refl
    | with_reducible apply Held.step State.addDelta_held
    | (with_reducible apply Held.foldl; intro _ _; try dsimp only)
    | rfl

theorem State.takeAt_held {s : State} {w : Wy} {n i : Nat} {r : BufReq} :
    Held [] s (State.takeAt s w n i r) := by
  unfold State.takeAt
  try dsimp only
  repeat' first
    | with_reducible exact Held.refl
    | with_reducible apply Held.keep State.modPool_keeps
    | with_reducible apply Held.keep State.modBuf_keeps
    | with_reducible apply Held.bump
    | with_reducible apply Held.event
    | with_reducible apply Held.keep State.bpmAnswer_keeps
    | rfl
    | split

theorem State.serveWait_held {s : State} {w : Wy} {n i : Nat} :
    Held [] s (State.serveWait s w n i) := by
  unfold State.serveWait
  try dsimp only
  repeat' first
    | with_reducible exact Held.refl
    | with_reducible apply Held.step State.takeAt_held
    | with_reducible apply Held.keep State.modBpm_keeps
    | rfl
    | split

theorem State.dropCount_held {s : State} {w : Wy} {n i : Nat} :
    Held [] s (State.dropCount s w n i) := by
  unfold State.dropCount
  try dsimp only
  repeat' first
    | with_reducible exact Held.refl
    | with_reducible apply Held.step State.serveWait_held
    | with_reducible apply Held.keep State.modPool_keeps
    | with_reducible apply Held.keep State.modBuf_keeps
    | rfl
    | split

theorem State.bufOp_held {s : State} {w : Wy} {op : BufOp} {requester handle cookie : Nat} :
    Held [] s (State.bufOp s w op requester handle cookie) := by
  unfold State.bufOp
  try dsimp only
  repeat' first
    | with_reducible exact Held.refl
    | with_reducible apply Held.bump
    | with_reducible apply Held.keep State.bpmAnswer_keeps
    | with_reducible apply Held.pageError
    | with_reducible apply Held.step State.dropCount_held
    | with_reducible apply Held.keep State.modBuf_keeps
    | with_reducible apply Held.keep State.recordOpen_keeps
    | with_reducible apply Held.event
    | rfl
    | split

theorem State.notePass_held {s : State} {w : Wy} {c d : Fin 16} :
    Held [] s (State.notePass s w c d) := by
  unfold State.notePass
  repeat' first
    | with_reducible exact Held.refl
    | with_reducible apply Held.bump
    | rfl
    | split

theorem State.startCodec_held {s : State} {w : Wy} {j : CodecJob} :
    Held [] s (State.startCodec s w j) := by
  unfold State.startCodec
  try dsimp only
  repeat' first
    | with_reducible exact Held.refl
    | with_reducible apply Held.keep State.modCodec_keeps
    | with_reducible apply Held.step State.notePass_held
    | with_reducible apply Held.step State.jobSent_held
    | with_reducible apply Held.keep State.used_keeps
    | rfl
    | split

theorem State.dispatchCodec_held {s : State} {w : Wy} :
    Held [] s (State.dispatchCodec s w) := by
  unfold State.dispatchCodec
  try dsimp only
  repeat' first
    | with_reducible exact Held.refl
    | with_reducible apply Held.step State.startCodec_held
    | (with_reducible apply Held.foldl; intro _ _; try dsimp only)
    | rfl

theorem State.queueCodec_held {s : State} {w : Wy} {u : CodecUnit} {ref : JobRef} {c : Fin 16} :
    Held [] s (State.queueCodec s w u ref c) := by
  unfold State.queueCodec
  try dsimp only
  repeat' first
    | with_reducible exact Held.refl
    | with_reducible apply Held.step State.dispatchCodec_held
    | with_reducible apply Held.keep State.modCodec_keeps
    | rfl

theorem State.endCodec_held {s : State} {w : Wy} {u : CodecUnit} {ref : JobRef} {t : Fin 128} :
    Held [] s (State.endCodec s w u ref t) := by
  unfold State.endCodec
  try dsimp only
  repeat' first
    | with_reducible exact Held.refl
    | with_reducible apply Held.step State.dispatchCodec_held
    | with_reducible apply Held.keep State.forgetRuns_keeps
    | with_reducible apply Held.step State.jobGone_held
    | with_reducible apply Held.keep State.modCodec_keeps
    | rfl

theorem State.endOne_held {s : State} {w : Wy} {j : CryptJob} :
    Held [] s (State.endOne s w j) := by
  unfold State.endOne
  try dsimp only
  repeat' first
    | with_reducible exact Held.refl
    | with_reducible apply Held.keep State.forgetRuns_keeps
    | with_reducible apply Held.keep State.modCip_keeps
    | with_reducible apply Held.step State.jobGone_held
    | with_reducible apply Held.keep State.resumeTile_keeps
    | rfl
    | split

theorem State.dropCodec_held {s : State} {w : Wy} {j : CodecJob} :
    Held [] s (State.dropCodec s w j) := by
  unfold State.dropCodec
  try dsimp only
  repeat' first
    | with_reducible exact Held.refl
    | with_reducible apply Held.step State.endCodec_held
    | with_reducible apply Held.keep State.forgetRuns_keeps
    | with_reducible apply Held.keep State.modCodec_keeps
    | rfl
    | split

theorem State.endRef_held {s : State} {w : Wy} {ref : JobRef} :
    Held [] s (State.endRef s w ref) := by
  unfold State.endRef
  try dsimp only
  repeat' first
    | with_reducible exact Held.refl
    | with_reducible apply Held.step State.endOne_held
    | with_reducible apply Held.step State.dropCodec_held
    | (with_reducible apply Held.foldl; intro _ _; try dsimp only)
    | rfl

theorem State.endJobs_held {s : State} {w : Wy} {cmd : Nat} :
    Held [] s (State.endJobs s w cmd) := by
  unfold State.endJobs
  try dsimp only
  repeat' first
    | with_reducible exact Held.refl
    | with_reducible apply Held.step State.endOne_held
    | with_reducible apply Held.step State.dropCodec_held
    | (with_reducible apply Held.foldl; intro _ _; try dsimp only)
    | rfl
    | with_reducible apply Held.setJobRuns

theorem State.freeChunk_held {s : State} {w : Wy} {c : Cmd} {x : WChunk} :
    Held [] s (State.freeChunk s w c x) := by
  unfold State.freeChunk
  try dsimp only
  repeat' first
    | with_reducible exact Held.refl
    | with_reducible apply Held.step State.bufOp_held
    | with_reducible apply Held.keep State.modMortar_keeps
    | rfl
    | split

theorem State.freeChunks_held {s : State} {w : Wy} {id : Nat} :
    Held [] s (State.freeChunks s w id) := by
  unfold State.freeChunks
  try dsimp only
  repeat' first
    | with_reducible exact Held.refl
    | with_reducible apply Held.keep State.modCmd_keeps
    | with_reducible apply Held.step State.freeChunk_held
    | (with_reducible apply Held.foldl; intro _ _; try dsimp only)
    | rfl
    | split

theorem State.cancelRefs_held {s : State} {w : Wy} {id : Nat} :
    Held [] s (State.cancelRefs s w id) := by
  unfold State.cancelRefs
  repeat' first
    | with_reducible exact Held.refl
    | with_reducible apply Held.step State.addDeltas_held
    | rfl
    | split

theorem State.endCmd_held {s : State} {w : Wy} {c : Cmd} {st : Status} {d : Detail} {cflags version result : Nat} :
    Held [] s (State.endCmd s w c st d cflags version result) := by
  unfold State.endCmd
  try dsimp only
  repeat' first
    | with_reducible exact Held.refl
    | with_reducible apply Held.step State.freeChunks_held
    | with_reducible apply Held.bump
    | with_reducible apply Held.step State.cancelRefs_held
    | with_reducible apply Held.keep State.dropCmd_keeps
    | with_reducible apply Held.keep State.handOut_keeps
    | with_reducible apply Held.keep State.modQueue_keeps
    | rfl
    | split

theorem State.answerOutcome_held {s : State} {w : Wy} {c : Cmd} {kept : Option OutcomeRec} :
    Held [] s (State.answerOutcome s w c kept) := by
  unfold State.answerOutcome
  repeat' first
    | with_reducible exact Held.refl
    | with_reducible apply Held.step State.endCmd_held
    | rfl
    | split

theorem State.wakeOutcomes_held {s : State} {w : Wy} :
    Held [] s (State.wakeOutcomes s w) := by
  unfold State.wakeOutcomes
  try dsimp only
  repeat' first
    | with_reducible exact Held.refl
    | with_reducible apply Held.step State.answerOutcome_held
    | (with_reducible apply Held.foldl; intro _ _; try dsimp only)
    | rfl

theorem State.endAttached_held {s : State} {w : Wy} {c : Cmd} {st : Status} {d : Detail} {version result : Nat} :
    Held [] s (State.endAttached s w c st d version result) := by
  unfold State.endAttached
  try dsimp only
  repeat' first
    | with_reducible exact Held.refl
    | with_reducible apply Held.step State.endCmd_held
    | (with_reducible apply Held.foldl; intro _ _; try dsimp only)
    | rfl

theorem State.answerQueries_held {s : State} :
    Held [] s (State.answerQueries s) := by
  unfold State.answerQueries
  try dsimp only
  repeat' first
    | with_reducible exact Held.refl
    | with_reducible apply Held.step State.mortarOut_held
    | with_reducible apply Held.keep State.modRefs_keeps
    | (with_reducible apply Held.foldl; intro _ _; try dsimp only)
    | rfl

theorem State.finish_held {s : State} {w : Wy} {c : Cmd} {st : Status} {d : Detail} {cflags version result : Nat} :
    Held [] s (State.finish s w c st d cflags version result) := by
  unfold State.finish
  try dsimp only
  repeat' first
    | with_reducible exact Held.refl
    | with_reducible apply Held.step State.endAttached_held
    | with_reducible apply Held.step State.endCmd_held
    | with_reducible apply Held.step State.wakeOutcomes_held
    | with_reducible apply Held.step State.answerQueries_held
    | rfl
    | split

theorem State.dropOne_held {s : State} {w : Wy} {c : Cmd} :
    Held [] s (State.dropOne s w c) := by
  unfold State.dropOne
  try dsimp only
  repeat' first
    | with_reducible exact Held.refl
    | with_reducible apply Held.step State.freeChunks_held
    | with_reducible apply Held.step State.cancelRefs_held
    | with_reducible apply Held.keep State.dropCmd_keeps
    | with_reducible apply Held.keep State.recordNever_keeps
    | with_reducible apply Held.step State.endJobs_held
    | rfl
    | split

theorem State.resetQueue_held {s : State} {w : Wy} {q : Nat} :
    Held [] s (State.resetQueue s w q) := by
  unfold State.resetQueue
  try dsimp only
  repeat' first
    | with_reducible exact Held.refl
    | with_reducible apply Held.keep State.recordNever_keeps
    | with_reducible apply Held.bump
    | with_reducible apply Held.step State.wakeOutcomes_held
    | with_reducible apply Held.step State.dropOne_held
    | with_reducible apply Held.keep State.tagFreed_keeps
    | with_reducible apply Held.keep State.modRelief_keeps
    | with_reducible apply Held.step State.answerQueries_held
    | with_reducible apply Held.keep State.modQueue_keeps
    | (with_reducible apply Held.foldl; intro _ _; try dsimp only)
    | rfl
    | split

theorem State.storeRec_held {s : State} {p epoch home : Nat} {r : IdxRec} {ackTo : Option (Nat × Wy)} :
    Held [] s (State.storeRec s p epoch home r ackTo) := by
  unfold State.storeRec
  try dsimp only
  repeat' first
    | with_reducible exact Held.refl
    | with_reducible apply Held.step State.ackPlaced_held
    | with_reducible apply Held.step State.place_held
    | with_reducible apply Held.keep State.modStore_keeps
    | rfl
    | split

theorem State.sendIndex_held {s : State} {w : Wy} {c : Commit} :
    Held [] s (State.sendIndex s w c) := by
  unfold State.sendIndex
  try dsimp only
  repeat' first
    | with_reducible exact Held.refl
    | with_reducible apply Held.step State.toPart_held
    | (with_reducible apply Held.foldl; intro _ _; try dsimp only)
    | rfl

theorem State.storeCommit_held {s : State} {e : Nat} {c : Commit} :
    Held [] s (State.storeCommit s e c) := by
  unfold State.storeCommit
  try dsimp only
  repeat' first
    | with_reducible exact Held.refl
    | with_reducible apply Held.step State.storeRec_held
    | (with_reducible apply Held.foldl; intro _ _; try dsimp only)
    | rfl

theorem State.beginCommit_held {s : State} {w : Wy} {id : Nat} {c : Commit} :
    Held [] s (State.beginCommit s w id c) := by
  unfold State.beginCommit
  try dsimp only
  repeat' first
    | with_reducible exact Held.refl
    | with_reducible apply Held.step State.storeCommit_held
    | with_reducible apply Held.step State.sendIndex_held
    | with_reducible apply Held.keep State.modCmd_keeps
    | with_reducible apply Held.keep State.modRelief_keeps
    | rfl

theorem State.commitAt_held {s : State} {w : Wy} {c : Cmd} {adds : Nat → List (BitVec 32 × Bytes × ValueVer)} :
    Held [] s (State.commitAt s w c adds) := by
  unfold State.commitAt
  try dsimp only
  repeat' first
    | with_reducible exact Held.refl
    | with_reducible apply Held.step State.finish_held
    | with_reducible apply Held.step State.beginCommit_held
    | with_reducible apply Held.step State.endJobs_held
    | with_reducible apply Held.keep State.assign_keeps
    | rfl
    | split

theorem State.emptyWrite_held {s : State} {w : Wy} {c : Cmd} :
    Held [] s (State.emptyWrite s w c) := by
  unfold State.emptyWrite
  try dsimp only
  repeat' first
    | with_reducible exact Held.refl
    | with_reducible apply Held.step State.beginCommit_held
    | rfl
    | split

theorem State.notNow_held {s : State} {w : Wy} {c : Cmd} :
    Held [] s (State.notNow s w c) := by
  unfold State.notNow
  try dsimp only
  repeat' first
    | with_reducible exact Held.refl
    | with_reducible apply Held.keep State.modCmd_keeps
    | with_reducible apply Held.keep State.used_keeps
    | with_reducible apply Held.step State.finish_held
    | with_reducible apply Held.step State.endJobs_held
    | rfl
    | split

theorem State.commitStep_held {s : State} {w : Wy} {c : Cmd} :
    Held [] s (State.commitStep s w c) := by
  unfold State.commitStep
  try dsimp only
  repeat' first
    | with_reducible exact Held.refl
    | with_reducible apply Held.step State.emptyWrite_held
    | with_reducible apply Held.step State.commitAt_held
    | with_reducible apply Held.step State.notNow_held
    | with_reducible apply Held.step State.beginCommit_held
    | rfl
    | split

theorem State.anchorRaw_held {s : State} {i : Nat} {r : AnchorRec} :
    Held [] s (State.anchorRaw s i r) := by
  unfold State.anchorRaw
  try dsimp only
  repeat' first
    | with_reducible exact Held.refl
    | with_reducible apply Held.bump
    | with_reducible apply Held.keep State.modSet_keeps
    | rfl

theorem State.reserveSeq_held {s : State} {i : Nat} :
    Held [] s (State.reserveSeq s i) := by
  unfold State.reserveSeq
  try dsimp only
  repeat' first
    | with_reducible exact Held.refl
    | with_reducible apply Held.step State.anchorRaw_held
    | with_reducible apply Held.keep State.modSet_keeps
    | rfl
    | split

theorem State.tableSlice_held {s : State} {i : Nat} :
    Held [] s (State.tableSlice s i) := by
  unfold State.tableSlice
  try dsimp only
  repeat' first
    | with_reducible exact Held.refl
    | with_reducible apply Held.step State.anchorRaw_held
    | with_reducible apply Held.step State.reserveSeq_held
    | rfl
    | split

theorem State.anchorRec_held {s : State} {i : Nat} {r : AnchorRec} :
    Held [] s (State.anchorRec s i r) := by
  unfold State.anchorRec
  try dsimp only
  repeat' first
    | with_reducible exact Held.refl
    | with_reducible apply Held.step State.tableSlice_held
    | with_reducible apply Held.step State.anchorRaw_held
    | with_reducible apply Held.step State.reserveSeq_held
    | with_reducible apply Held.keep State.armErase_keeps
    | rfl
    | split

theorem State.endGet_held {s : State} {w : Wy} {id : Nat} :
    Held [] s (State.endGet s w id) := by
  unfold State.endGet
  try dsimp only
  repeat' first
    | with_reducible exact Held.refl
    | with_reducible apply Held.step State.finish_held
    | with_reducible apply Held.step State.endJobs_held
    | rfl
    | split

theorem State.endLost_held {s : State} {w : Wy} {id : Nat} :
    Held [] s (State.endLost s w id) := by
  unfold State.endLost
  try dsimp only
  repeat' first
    | with_reducible exact Held.refl
    | with_reducible apply Held.step State.endGet_held
    | with_reducible apply Held.step State.finish_held
    | with_reducible apply Held.step State.endJobs_held
    | rfl
    | split

theorem State.sendRange_held {s : State} {w : Wy} {segs : List (Nat × Nat × Nat)} {purpose : Purpose} {cookie : Nat} {a : RangeAsk} :
    Held [] s (State.sendRange s w segs purpose cookie a) := by
  unfold State.sendRange
  repeat' first
    | with_reducible exact Held.refl
    | with_reducible apply Held.step State.mortarOut_held
    | rfl
    | split

theorem State.reportLost_held {s : State} {w : Wy} {place : Place} {fps : List Bytes} :
    Held [] s (State.reportLost s w place fps) := by
  unfold State.reportLost
  try dsimp only
  repeat' first
    | with_reducible exact Held.refl
    | with_reducible apply Held.step State.mortarOut_held
    | with_reducible apply Held.keep State.recordOpen_keeps
    | with_reducible apply Held.step State.toArmature_held
    | rfl
    | split

theorem State.loseChunk_held {s : State} {w : Wy} {c : Cmd} {n : Nat} {x : RChunk} :
    Held [] s (State.loseChunk s w c n x) := by
  unfold State.loseChunk
  try dsimp only
  repeat' first
    | with_reducible exact Held.refl
    | with_reducible apply Held.step State.endLost_held
    | with_reducible apply Held.step State.reportLost_held
    | with_reducible apply Held.keep State.modRChunk_keeps
    | rfl

theorem State.failRepair_held {s : State} {r : RepairRec} :
    Held [] s (State.failRepair s r) := by
  unfold State.failRepair
  try dsimp only
  repeat' first
    | with_reducible exact Held.refl
    | with_reducible apply Held.step State.reportLost_held
    | with_reducible apply Held.keep State.modRepair_keeps
    | with_reducible apply Held.step State.loseChunk_held
    | (with_reducible apply Held.foldl; intro _ _; try dsimp only)
    | rfl
    | split
    | with_reducible apply Held.setStripes

theorem State.pumpRepair_held {s : State} {n : Nat} :
    Held [] s (State.pumpRepair s n) := by
  unfold State.pumpRepair
  try dsimp only
  repeat' first
    | with_reducible exact Held.refl
    | with_reducible apply Held.step State.failRepair_held
    | with_reducible apply Held.step State.sendRange_held
    | with_reducible apply Held.keep State.modRepair_keeps
    | (with_reducible apply Held.foldl; intro _ _; try dsimp only)
    | rfl
    | split

theorem State.gather_held {s : State} {r : RepairRec} :
    Held [] s (State.gather s r) := by
  unfold State.gather
  try dsimp only
  repeat' first
    | with_reducible exact Held.refl
    | with_reducible apply Held.step State.pumpRepair_held
    | with_reducible apply Held.step State.sendRange_held
    | (with_reducible apply Held.foldl; intro _ _; try dsimp only)
    | rfl
    | with_reducible apply Held.setStripes

theorem State.startRepair_held {s : State} {w : Wy} {ks : BitVec 32} {x : RChunk} :
    Held [] s (State.startRepair s w ks x) := by
  unfold State.startRepair
  try dsimp only
  repeat' first
    | with_reducible exact Held.refl
    | with_reducible apply Held.step State.gather_held
    | rfl
    | split

theorem State.taint_held {s : State} {w : Wy} {c : Cmd} {n : Nat} {x : RChunk} :
    Held [] s (State.taint s w c n x) := by
  unfold State.taint
  try dsimp only
  repeat' first
    | with_reducible exact Held.refl
    | with_reducible apply Held.step State.loseChunk_held
    | with_reducible apply Held.step State.endGet_held
    | with_reducible apply Held.step State.startRepair_held
    | with_reducible apply Held.keep State.modRChunk_keeps
    | rfl
    | split

theorem State.recordIn_held {s : State} {w : Wy} {c : Cmd} {n : Nat} {x : RChunk} {rec_ : Bytes} :
    Held [] s (State.recordIn s w c n x rec_) := by
  unfold State.recordIn
  try dsimp only
  repeat' first
    | with_reducible exact Held.refl
    | with_reducible apply Held.step State.taint_held
    | with_reducible apply Held.keep State.queueOpen_keeps
    | with_reducible apply Held.keep State.modRChunk_keeps
    | rfl
    | split

theorem State.fetchChunk_held {s : State} {w : Wy} {c : Cmd} {n : Nat} {x : RChunk} :
    Held [] s (State.fetchChunk s w c n x) := by
  unfold State.fetchChunk
  try dsimp only
  repeat' first
    | with_reducible exact Held.refl
    | with_reducible apply Held.step State.recordIn_held
    | with_reducible apply Held.step State.loseChunk_held
    | with_reducible apply Held.keep State.modRChunk_keeps
    | with_reducible apply Held.step State.sendRange_held
    | (with_reducible apply Held.foldl; intro _ _; try dsimp only)
    | rfl
    | split

theorem State.fetchMore_held {s : State} {w : Wy} {id : Nat} :
    Held [] s (State.fetchMore s w id) := by
  unfold State.fetchMore
  try dsimp only
  repeat' first
    | with_reducible exact Held.refl
    | with_reducible apply Held.step State.fetchChunk_held
    | (with_reducible apply Held.foldl; intro _ _; try dsimp only)
    | rfl
    | split

theorem State.startFetch_held {s : State} {w : Wy} {c : Cmd} {v : ValueVer} :
    Held [] s (State.startFetch s w c v) := by
  unfold State.startFetch
  try dsimp only
  repeat' first
    | with_reducible exact Held.refl
    | with_reducible apply Held.step State.fetchMore_held
    | with_reducible apply Held.keep State.modCmd_keeps
    | with_reducible apply Held.keep State.deliver_keeps
    | with_reducible apply Held.step State.endGet_held
    | (with_reducible apply Held.foldl; intro _ _; try dsimp only)
    | rfl

theorem State.wantOld_held {s : State} {w : Wy} {c : Cmd} {n : Nat} {o : WriteOp} :
    Held [] s (State.wantOld s w c n o) := by
  unfold State.wantOld
  try dsimp only
  repeat' first
    | with_reducible exact Held.refl
    | with_reducible apply Held.step State.fetchChunk_held
    | with_reducible apply Held.keep State.modCmd_keeps
    | (with_reducible apply Held.foldl; intro _ _; try dsimp only)
    | rfl

theorem State.advanceOp_held {s : State} {w : Wy} {id n : Nat} :
    Held [] s (State.advanceOp s w id n) := by
  unfold State.advanceOp
  try dsimp only
  repeat' first
    | with_reducible exact Held.refl
    | with_reducible apply Held.step State.queueCodec_held
    | with_reducible apply Held.keep State.queueCrypt_keeps
    | with_reducible apply Held.step State.wantOld_held
    | rfl
    | split

theorem State.commitPart_held {s : State} {w : Wy} {c : Cmd} {o : WriteOp} :
    Held [] s (State.commitPart s w c o) := by
  unfold State.commitPart
  try dsimp only
  repeat' first
    | with_reducible exact Held.refl
    | with_reducible apply Held.step State.finish_held
    | with_reducible apply Held.step State.notNow_held
    | with_reducible apply Held.keep State.modRelief_keeps
    | with_reducible apply Held.step State.beginCommit_held
    | rfl
    | split

theorem State.rebase_held {s : State} {w : Wy} {id n : Nat} {v : ValueVer} :
    Held [] s (State.rebase s w id n v) := by
  unfold State.rebase
  try dsimp only
  repeat' first
    | with_reducible exact Held.refl
    | with_reducible apply Held.step State.endRef_held
    | with_reducible apply Held.step State.finish_held
    | with_reducible apply Held.step State.endJobs_held
    | with_reducible apply Held.step State.freeChunk_held
    | with_reducible apply Held.keep State.modCmd_keeps
    | with_reducible apply Held.step State.advanceOp_held
    | with_reducible apply Held.keep State.openOld_keeps
    | with_reducible apply Held.keep State.modOp_keeps
    | with_reducible apply Held.step State.addDeltas_held
    | (with_reducible apply Held.foldl; intro _ _; try dsimp only)
    | rfl
    | split

theorem State.stepOn_held {s : State} {w : Wy} {id : Nat} :
    Held [] s (State.stepOn s w id) := by
  unfold State.stepOn
  try dsimp only
  repeat' first
    | with_reducible exact Held.refl
    | with_reducible apply Held.step State.commitPart_held
    | with_reducible apply Held.step State.commitStep_held
    | with_reducible apply Held.step State.rebase_held
    | (with_reducible apply Held.foldl; intro _ _; try dsimp only)
    | rfl
    | split

theorem State.beginOp_held {s : State} {w : Wy} {c : Cmd} {n : Nat} {o : WriteOp} {imm : Bytes} {addr rkey : Nat} :
    Held [] s (State.beginOp s w c n o imm addr rkey) := by
  unfold State.beginOp
  try dsimp only
  repeat' first
    | with_reducible exact Held.refl
    | with_reducible apply Held.keep State.modOp_keeps
    | with_reducible apply Held.step State.advanceOp_held
    | with_reducible apply Held.keep State.openOld_keeps
    | with_reducible apply Held.keep State.pullMore_keeps
    | rfl
    | split

theorem State.startOps_held {s : State} {w : Wy} {c : Cmd} {l : List (WriteOp × Bytes × Nat × Nat)} :
    Held [] s (State.startOps s w c l) := by
  unfold State.startOps
  try dsimp only
  repeat' first
    | with_reducible exact Held.refl
    | with_reducible apply Held.keep State.modCmd_keeps
    | with_reducible apply Held.step State.commitStep_held
    | with_reducible apply Held.step State.finish_held
    | with_reducible apply Held.step State.stepOn_held
    | with_reducible apply Held.step State.beginOp_held
    | (with_reducible apply Held.foldl; intro _ _; try dsimp only)
    | rfl
    | split

theorem State.startOne_held {s : State} {w : Wy} {c : Cmd} :
    Held [] s (State.startOne s w c) := by
  unfold State.startOne
  repeat' first
    | with_reducible exact Held.refl
    | with_reducible apply Held.step State.startOps_held
    | rfl

theorem State.startPart_held {s : State} {w : Wy} {c : Cmd} :
    Held [] s (State.startPart s w c) := by
  unfold State.startPart
  try dsimp only
  repeat' first
    | with_reducible exact Held.refl
    | with_reducible apply Held.step State.startOne_held
    | with_reducible apply Held.step State.finish_held
    | rfl
    | split

theorem State.startClose_held {s : State} {w : Wy} {c : Cmd} :
    Held [] s (State.startClose s w c) := by
  unfold State.startClose
  try dsimp only
  repeat' first
    | with_reducible exact Held.refl
    | with_reducible apply Held.keep State.dropUpload_keeps
    | with_reducible apply Held.step State.commitAt_held
    | with_reducible apply Held.step State.notNow_held
    | with_reducible apply Held.step State.finish_held
    | with_reducible apply Held.keep State.modCmd_keeps
    | with_reducible apply Held.step State.beginCommit_held
    | rfl
    | split

theorem State.startOpen_held {s : State} {w : Wy} {c : Cmd} :
    Held [] s (State.startOpen s w c) := by
  unfold State.startOpen
  try dsimp only
  repeat' first
    | with_reducible exact Held.refl
    | with_reducible apply Held.step State.notNow_held
    | with_reducible apply Held.keep State.used_keeps
    | with_reducible apply Held.step State.finish_held
    | with_reducible apply Held.step State.beginCommit_held
    | with_reducible apply Held.keep State.modRelief_keeps
    | rfl
    | split

theorem State.startPlain_held {s : State} {w : Wy} {c : Cmd} :
    Held [] s (State.startPlain s w c) := by
  unfold State.startPlain
  try dsimp only
  repeat' first
    | with_reducible exact Held.refl
    | with_reducible apply Held.keep State.modCmd_keeps
    | with_reducible apply Held.step State.commitStep_held
    | rfl

theorem State.startGet_held {s : State} {w : Wy} {c : Cmd} :
    Held [] s (State.startGet s w c) := by
  unfold State.startGet
  try dsimp only
  repeat' first
    | with_reducible exact Held.refl
    | with_reducible apply Held.keep State.queueCrypt_keeps
    | with_reducible apply Held.step State.startFetch_held
    | with_reducible apply Held.step State.finish_held
    | with_reducible apply Held.keep State.modCmd_keeps
    | rfl
    | split

theorem State.startStat_held {s : State} {w : Wy} {c : Cmd} :
    Held [] s (State.startStat s w c) := by
  unfold State.startStat
  try dsimp only
  repeat' first
    | with_reducible exact Held.refl
    | with_reducible apply Held.keep State.placeAll_keeps
    | with_reducible apply Held.step State.finish_held
    | rfl
    | split

theorem State.startList_held {s : State} {w : Wy} {c : Cmd} :
    Held [] s (State.startList s w c) := by
  unfold State.startList
  try dsimp only
  repeat' first
    | with_reducible exact Held.refl
    | with_reducible apply Held.keep State.placeAll_keeps
    | with_reducible apply Held.step State.finish_held
    | rfl
    | split

theorem State.startMapGet_held {s : State} {w : Wy} {c : Cmd} :
    Held [] s (State.startMapGet s w c) := by
  unfold State.startMapGet
  try dsimp only
  repeat' first
    | with_reducible exact Held.refl
    | with_reducible apply Held.keep State.placeAll_keeps
    | with_reducible apply Held.step State.finish_held
    | rfl
    | split

theorem State.startHello_held {s : State} {w : Wy} {c : Cmd} :
    Held [] s (State.startHello s w c) := by
  unfold State.startHello
  repeat' first
    | with_reducible exact Held.refl
    | with_reducible apply Held.keep State.placeAll_keeps
    | with_reducible apply Held.step State.finish_held
    | rfl
    | split

theorem State.startCast_held {s : State} {w : Wy} {c : Cmd} :
    Held [] s (State.startCast s w c) := by
  unfold State.startCast
  try dsimp only
  repeat' first
    | with_reducible exact Held.refl
    | with_reducible apply Held.step State.toArmature_held
    | with_reducible apply Held.keep State.modCmd_keeps
    | rfl

theorem State.startCastDrop_held {s : State} {w : Wy} {c : Cmd} :
    Held [] s (State.startCastDrop s w c) := by
  unfold State.startCastDrop
  try dsimp only
  repeat' first
    | with_reducible exact Held.refl
    | with_reducible apply Held.step State.toArmature_held
    | with_reducible apply Held.keep State.modCmd_keeps
    | rfl

theorem State.answerAsked_held {s : State} {w : Wy} :
    Held [] s (State.answerAsked s w) := by
  unfold State.answerAsked
  try dsimp only
  repeat' first
    | with_reducible exact Held.refl
    | with_reducible apply Held.step State.answerOutcome_held
    | (with_reducible apply Held.foldl; intro _ _; try dsimp only)
    | rfl

theorem State.startOutcome_held {s : State} {w : Wy} {c : Cmd} :
    Held [] s (State.startOutcome s w c) := by
  unfold State.startOutcome
  try dsimp only
  repeat' first
    | with_reducible exact Held.refl
    | with_reducible apply Held.step State.answerAsked_held
    | with_reducible apply Held.step State.mortarOut_held
    | with_reducible apply Held.keep State.modCmd_keeps
    | with_reducible apply Held.step State.answerOutcome_held
    | rfl
    | split

theorem State.dispatch_held {s : State} {w : Wy} {c : Cmd} :
    Held [] s (State.dispatch s w c) := by
  unfold State.dispatch
  try dsimp only
  repeat' first
    | with_reducible exact Held.refl
    | with_reducible apply Held.keep State.issuePull_keeps
    | with_reducible apply Held.step State.startOne_held
    | with_reducible apply Held.step State.startHello_held
    | with_reducible apply Held.step State.startList_held
    | with_reducible apply Held.step State.startGet_held
    | with_reducible apply Held.step State.startPlain_held
    | with_reducible apply Held.step State.startClose_held
    | with_reducible apply Held.step State.finish_held
    | with_reducible apply Held.keep State.modCmd_keeps
    | with_reducible apply Held.step State.startStat_held
    | with_reducible apply Held.step State.startOpen_held
    | with_reducible apply Held.step State.startOutcome_held
    | with_reducible apply Held.step State.startCastDrop_held
    | with_reducible apply Held.step State.startMapGet_held
    | with_reducible apply Held.keep State.modQueue_keeps
    | with_reducible apply Held.step State.startPart_held
    | with_reducible apply Held.step State.startCast_held
    | rfl
    | split

theorem State.answer_held {s : State} {w : Wy} {q : Nat} {tag : Nat} {rid : BitVec 64} {a : Ans} :
    Held [] s (State.answer s w q tag rid a) := by
  unfold State.answer
  try dsimp only
  repeat' first
    | with_reducible exact Held.refl
    | with_reducible apply Held.bump
    | with_reducible apply Held.keep State.handOut_keeps
    | rfl
    | split

theorem State.begin_held {s : State} {w : Wy} {c : Cmd} :
    Held [] s (State.begin_ s w c) := by
  unfold State.begin_
  try dsimp only
  repeat' first
    | with_reducible exact Held.refl
    | with_reducible apply Held.keep State.enqueue_keeps
    | with_reducible apply Held.step State.finish_held
    | with_reducible apply Held.step State.dispatch_held
    | with_reducible apply Held.keep State.setPhase_keeps
    | with_reducible apply Held.step State.commitStep_held
    | rfl
    | split

theorem State.tryBegin_held {s : State} {w : Wy} {id : Nat} :
    Held [] s (State.tryBegin s w id) := by
  unfold State.tryBegin
  repeat' first
    | with_reducible exact Held.refl
    | with_reducible apply Held.step State.begin_held
    | rfl
    | split

theorem State.takeCommand_held {s : State} {w : Wy} {q : Nat} {op : Opcode} {m : Msg} :
    Held [] s (State.takeCommand s w q op m) := by
  unfold State.takeCommand
  try dsimp only
  repeat' first
    | with_reducible exact Held.refl
    | with_reducible apply Held.step State.answer_held
    | with_reducible apply Held.keep State.used_keeps
    | with_reducible apply Held.keep State.modRelief_keeps
    | with_reducible apply Held.step State.tryBegin_held
    | rfl
    | split

theorem State.controlReset_held {s : State} {w : Wy} {q code : Nat} {rid : BitVec 64} :
    Held [] s (State.controlReset s w q code rid) := by
  unfold State.controlReset
  try dsimp only
  repeat' first
    | with_reducible exact Held.refl
    | with_reducible apply Held.keep State.sendAcks_keeps
    | with_reducible apply Held.keep State.modPage_keeps
    | with_reducible apply Held.step State.resetQueue_held
    | with_reducible apply Held.keep State.modQueue_keeps
    | rfl
    | split

theorem State.takeControl_held {s : State} {w : Wy} {q code : Nat} {m : Msg} :
    Held [] s (State.takeControl s w q code m) := by
  unfold State.takeControl
  repeat' first
    | with_reducible exact Held.refl
    | with_reducible apply Held.step State.answer_held
    | with_reducible apply Held.keep State.keepalive_keeps
    | with_reducible apply Held.step State.controlReset_held
    | rfl
    | split

theorem State.takeUnknown_held {s : State} {w : Wy} {q : Nat} {m : Msg} :
    Held [] s (State.takeUnknown s w q m) := by
  unfold State.takeUnknown
  repeat' first
    | with_reducible exact Held.refl
    | with_reducible apply Held.step State.answer_held
    | rfl
    | split

theorem State.takeMsg_held {s : State} {w : Wy} {h : HeldMsg} :
    Held [] s (State.takeMsg s w h) := by
  unfold State.takeMsg
  repeat' first
    | with_reducible exact Held.refl
    | with_reducible apply Held.step State.answer_held
    | with_reducible apply Held.step State.takeUnknown_held
    | with_reducible apply Held.step State.takeCommand_held
    | with_reducible apply Held.step State.takeControl_held
    | rfl
    | split

theorem State.replayHeld_held {s : State} {w : Wy} :
    Held [] s (State.replayHeld s w) := by
  unfold State.replayHeld
  try dsimp only
  repeat' first
    | with_reducible exact Held.refl
    | with_reducible apply Held.step State.takeMsg_held
    | with_reducible apply Held.keep State.modRelief_keeps
    | (with_reducible apply Held.foldl; intro _ _; try dsimp only)
    | rfl

theorem State.leaveLpi_held {s : State} {w : Wy} {p : Nat} :
    Held [] s (State.leaveLpi s w p) := by
  unfold State.leaveLpi
  try dsimp only
  repeat' first
    | with_reducible exact Held.refl
    | with_reducible apply Held.keep State.modPort_keeps
    | with_reducible apply Held.bumpBy
    | rfl
    | split

theorem State.agree_held {s : State} {w : Wy} {p : Nat} {on : Bool} {tx rx : Nat} :
    Held [] s (State.agree s w p on tx rx) := by
  unfold State.agree
  try dsimp only
  repeat' first
    | with_reducible exact Held.refl
    | with_reducible apply Held.keep State.modPort_keeps
    | with_reducible apply Held.step State.leaveLpi_held
    | with_reducible apply Held.event
    | rfl
    | split

theorem State.linkDown_held {s : State} {w : Wy} {p : Nat} :
    Held [] s (State.linkDown s w p) := by
  unfold State.linkDown
  try dsimp only
  repeat' first
    | with_reducible exact Held.refl
    | with_reducible apply Held.keep State.modPort_keeps
    | with_reducible apply Held.bump
    | with_reducible apply Held.step State.agree_held
    | with_reducible apply Held.event
    | rfl
    | split

theorem State.setPs_held {s : State} {n : Nat} : Held [] s (State.setPs s n) := by
  have counted : ∀ w m, (heldOffs (pageKind (.pwr w))).contains (psCounter m) = false ∧ Nat.blt (psCounter m) 0x1000 = true := by
    intro w m
    unfold psCounter
    split_ifs <;> exact ⟨rfl, rfl⟩
  unfold State.setPs
  split
  · exact .refl
  · refine .foldl (fun v w => .event ?_) (.setPwr .refl)
    split
    · exact .refl
    · exact .bump (counted w n).1 (counted w n).2 .refl

theorem State.wake_held {s : State} :
    Held [] s (State.wake s) := by
  unfold State.wake
  try dsimp only
  repeat' first
    | with_reducible exact Held.refl
    | with_reducible apply Held.step State.setPs_held
    | with_reducible apply Held.step State.replayHeld_held
    | rfl
    | with_reducible apply Held.setPwr

theorem State.powerEval_held {s : State} :
    Held [] s (State.powerEval s) := by
  unfold State.powerEval
  repeat' first
    | with_reducible exact Held.refl
    | with_reducible apply Held.step State.wake_held
    | with_reducible apply Held.step State.setPs_held
    | rfl
    | split

theorem State.peerChange_held {s : State} {w : Wy} :
    Held [] s (State.peerChange s w) := by
  unfold State.peerChange
  repeat' first
    | with_reducible exact Held.refl
    | with_reducible apply Held.event
    | rfl
    | split

end Sys2Proof.Machine
end

section
/-! PROOFS. The states of units (R33, R405, R406, R410, R510-R516): what a change of one unit leaves of the others. -/

namespace Sys2Proof.Machine

/-! ### What a unit holds beyond its page -/

theorem State.modUjob_ujob_self {s : State} {p : Page} {f : UnitJob → UnitJob} (hf : ∀ u, (f u).page = u.page) :
    (s.modUjob p f).ujob p = f (s.ujob p) := by
  unfold State.ujob State.modUjob upsert
  split
  next hany =>
    obtain ⟨a, ha⟩ := Option.isSome_iff_exists.mp (List.isSome_find?.trans hany)
    rw [find?_updFirst (fun a h => by simpa [hf] using h), ha]
    rfl
  next hany =>
    rw [List.find?_append, List.find?_eq_none.mpr (by simpa using hany), Option.none_or, List.find?_singleton, if_pos (by simp [hf])]
    rfl

theorem State.modUjob_ujob_of_ne {s : State} {p q : Page} {f : UnitJob → UnitJob} (hf : ∀ u, (f u).page = u.page) (h : q ≠ p) :
    (s.modUjob q f).ujob p = s.ujob p := by
  refine congrArg (Option.getD · _) (find?_upsert_of_ne (fun a ha => ?_) (fun a ha => ?_) ?_ s.units)
  · have ha : a.page = p := of_decide_eq_true ha
    simpa [ha] using h.symm
  · have ha : a.page = q := of_decide_eq_true ha
    simpa [hf, ha] using h
  · simpa [hf] using h

theorem State.modUjob_reg (s : State) (q : Page) (f : UnitJob → UnitJob) (p : Page) (off : Nat) :
    (s.modUjob q f).reg p off = s.reg p off := rfl

/-! ### One page stays -/

theorem UnitStays.unit {p : Page} {s t : State} (h : UnitStays p s t) : t.unit p = s.unit p := by
  rw [State.unit, State.rfld, h.reg _ pageState_held, State.unit, State.rfld]

theorem UnitStays.ctrl {p : Page} {s t : State} (h : UnitStays p s t) (hi lo : Nat) : t.rfld p PAGE_CTRL hi lo = s.rfld p PAGE_CTRL hi lo := by
  rw [State.rfld, h.reg _ pageCtrl_held, State.rfld]

theorem UnitStays.held {p : Page} {l : List PageKind} {s t u : State} (k : Held l t u) (hp : l.contains (pageKind p) = false)
    (h : UnitStays p s t) : UnitStays p s u := h.trans (k p (by simpa using hp))

theorem UnitStays.keep {p : Page} {m : List Part} {s t u : State} (k : Keeps m t u)
    (hm : (m.contains .regs || m.contains .units) = false) (h : UnitStays p s t) : UnitStays p s u :=
  h.held (Held.refl.keep k hm : Held [] t u) rfl

theorem UnitStays.setReg {p q : Page} {s t : State} {off : Nat} {v : Word} (hq : q ≠ p) (ho : Nat.blt off 0x1000 = true) (h : UnitStays p s t) :
    UnitStays p s (t.setReg q off v) :=
  h.trans ⟨fun o hop => State.setReg_reg_of_ne (pageKey_ne hq.symm (heldOffs_lt o hop) (by simpa using ho)), rfl⟩

theorem UnitStays.setRfld {p q : Page} {s t : State} {off hi lo v : Nat} (hq : q ≠ p) (ho : Nat.blt off 0x1000 = true) (h : UnitStays p s t) :
    UnitStays p s (t.setRfld q off hi lo v) := h.setReg hq ho

theorem UnitStays.setUnit {p q : Page} {s t : State} {u : UnitSt} (hq : q ≠ p) (h : UnitStays p s t) : UnitStays p s (t.setUnit q u) :=
  h.setReg hq rfl

theorem UnitStays.modUjob {p q : Page} {s t : State} {f : UnitJob → UnitJob} (hf : ∀ u, (f u).page = u.page) (hq : q ≠ p)
    (h : UnitStays p s t) : UnitStays p s (t.modUjob q f) :=
  h.trans ⟨fun _ _ => rfl, State.modUjob_ujob_of_ne hf hq⟩

theorem UnitStays.event {p q : Page} {s t : State} {n : Nat} (h : UnitStays p s t) : UnitStays p s (t.event q n) :=
  h.held (Held.refl.event (l := [])) rfl

theorem UnitStays.bump {p q : Page} {s t : State} {off : Nat} (hq : (heldOffs (pageKind q)).contains off = false)
    (ho : Nat.blt off 0x1000 = true) (h : UnitStays p s t) : UnitStays p s (t.bump q off) :=
  h.held (Held.refl.bump (l := []) hq ho) rfl

theorem UnitStays.pageError {p q : Page} {s t : State} {code a b : Nat} (h : UnitStays p s t) : UnitStays p s (t.pageError q code a b) :=
  h.held (Held.refl.pageError (l := [])) rfl

theorem UnitStays.testResult {p : Page} {s t : State} {w : Wy} {result block ms_ : Nat} (h : UnitStays p s t) :
    UnitStays p s (t.testResult w result block ms_) := h.held (Held.refl.setReg (l := []) rfl rfl) rfl

theorem UnitStays.foldl {α : Type} {p : Page} {s t : State} {f : State → α → State} {xs : List α}
    (hf : ∀ a ∈ xs, ∀ v, UnitStays p v (f v a)) (h : UnitStays p s t) : UnitStays p s (xs.foldl f t) := by
  induction xs generalizing t with
  | nil => exact h
  | cons a xs ih => exact ih (fun b hb => hf b (List.mem_cons_of_mem _ hb)) (h.trans (hf a (List.mem_cons_self ..) t))

/-! ### Changes of another unit -/

theorem State.markFailed_stays {p q : Page} (h : q ≠ p) (s : State) : UnitStays p s (s.markFailed q) := by
  have marked : UnitStays p s ((s.setUnit q .failed).modUjob q (fun u => { u with goal := none, needTest := true, test := none })) :=
    (UnitStays.refl.setUnit h).modUjob (fun _ => rfl) h
  unfold State.markFailed
  dsimp only
  refine .keep State.unitDown_keeps rfl ?_
  split
  · exact marked.keep State.orphanBufs_keeps rfl
  · exact marked

/-- The end of another unit's test. -/
theorem State.endTest_stays {p q : Page} (h : q ≠ p) (s : State) (code info us_ : Nat) : UnitStays p s (s.endTest q code info us_) := by
  unfold State.endTest
  dsimp only
  repeat' first
    | with_reducible exact UnitStays.refl
    | with_reducible apply UnitStays.bump
    | with_reducible apply UnitStays.event
    | with_reducible apply UnitStays.pageError
    | with_reducible apply UnitStays.setUnit h
    | with_reducible apply UnitStays.testResult
    | with_reducible refine UnitStays.modUjob (fun _ => rfl) h ?_
    | with_reducible apply UnitStays.setRfld h
    | with_reducible refine UnitStays.trans ?_ (State.markFailed_stays h _)
    | with_reducible apply UnitStays.held State.anchorRec_held
    | with_reducible refine UnitStays.setReg h (testTimeReg_lt (by assumption)) ?_
    | with_reducible apply UnitStays.setReg h
    | rfl
    | split

/-- Tests that are aborted are those of the pages selected (R515). -/
theorem State.abortTests_stays {p : Page} {f : Page → Bool} (hp : f p = false) (s : State) : UnitStays p s (s.abortTests f) := by
  refine .foldl (fun u hu v => State.endTest_stays (fun e => ?_) ..) .refl
  have hf := (Bool.and_eq_true _ _ ▸ (List.mem_filter.mp hu).2).2
  simp [e, hp] at hf

/-- A wythe that stops ends the tests of its peer's panels and no other. -/
theorem State.haltWythe_stays {p : Page} {w : Wy} (hp : (isPanel p && pageWy p = some w.peer) = false) (s : State) :
    UnitStays p s (s.haltWythe w) := by
  unfold State.haltWythe
  dsimp only
  refine .held State.peerChange_held rfl (.trans ?_ (State.abortTests_stays (by simpa using hp) _))
  refine .held (l := []) (t := s) (fun q _ => ⟨fun off _ => ?_, ?_⟩) rfl .refl
  · cases w <;> rfl
  · cases w <;> rfl

theorem State.failWythe_stays {p : Page} {w : Wy} (hg : p ≠ .glb w) (hp : (isPanel p && pageWy p = some w.peer) = false) (s : State) :
    UnitStays p s (s.failWythe w) := by
  unfold State.failWythe
  split
  · exact .trans (.keep State.setNotice_keeps rfl (.setUnit hg.symm .refl)) (State.haltWythe_stays hp _)
  · exact .refl

theorem State.wytheCheck_stays {p : Page} {w : Wy} (hg : p ≠ .glb w) (hp : (isPanel p && pageWy p = some w.peer) = false) (s : State) :
    UnitStays p s (s.wytheCheck w) := by
  unfold State.wytheCheck
  split
  · exact State.failWythe_stays hg hp s
  · exact .refl

theorem State.panelCheck_stays {p : Page} {w : Wy} {n : Fin 4} (hp : .pnl w n ≠ p) (s : State) : UnitStays p s (s.panelCheck w n) := by
  unfold State.panelCheck
  dsimp only
  split
  · exact State.markFailed_stays hp s
  · exact .refl

theorem State.bypassCourse_stays {p : Page} {w : Wy} {c : Fin 16} (hp : .crs w c ≠ p) (s : State) : UnitStays p s (s.bypassCourse w c) := by
  unfold State.bypassCourse
  dsimp only
  split
  · exact .refl
  split
  next t ht =>
    have changed : UnitStays p s t := by
      simp only [State.ctrlBit] at ht
      split at ht
      · cases ht
        exact .keep State.unitDown_keeps rfl (.modUjob (fun _ => rfl) hp .refl)
      · cases ht
    exact changed.setRfld hp rfl
  · exact .refl

theorem State.contain_stays {w v : Wy} {t u : Fin 128} (s : State) : UnitStays (.til v u) s (s.contain w t) := by
  unfold State.contain
  dsimp only
  refine .trans (.trans ?_ (State.panelCheck_stays (by simp) _)) (State.wytheCheck_stays (by simp) rfl _)
  split
  · exact State.bypassCourse_stays (by simp) s
  · exact .refl

/-- A unit that has changed its state stays so while the level above it is held to R32. -/
theorem State.unitChecked_stays {p : Page} {w : Wy} (hu : isUnit p = true) (hw : pageWy p = some w) (s : State) :
    UnitStays p s (s.unitChecked w p) := by
  have hg : p ≠ .glb w := by rintro rfl; cases hu
  have hpeer : (isPanel p && pageWy p = some w.peer) = false := by
    rw [hw]
    simp [(Wy.peer_ne_self w).symm]
  unfold State.unitChecked
  dsimp only
  refine .held State.dispatchCodec_held rfl ?_
  cases p
  case til v t =>
    dsimp only
    split
    · exact State.contain_stays s
    · exact State.wytheCheck_stays hg hpeer s
  case crs v c => exact .trans (State.panelCheck_stays (by simp) s) (State.wytheCheck_stays hg hpeer _)
  all_goals exact State.wytheCheck_stays hg hpeer s

/-! ### Channels that a unit takes back -/

theorem Held.setRegOf {l : List PageKind} {s t : State} {p : Page} {off : Nat} {v : Word} (hp : l.contains (pageKind p) = true)
    (ho : Nat.blt off 0x1000 = true) (h : Held l s t) : Held l s (t.setReg p off v) := by
  refine fun q hq => (h q hq).setReg (fun e => hq ?_) ho
  simpa [← e] using hp

/-- A channel's new owner may bring its page ONLINE, and no other. -/
theorem State.newOwner_held {s : State} {c : Nat} {o : Option Wy} {m : ChanMode} : Held [.chn] s (s.newOwner c o m) := by
  have opened : Held [.chn] s (if (o.isSome && s.unit (chnPage c) = .offline && s.rfld (chnPage c) PAGE_CTRL 2 0 = 0) = true then
      (s.setUnit (chnPage c) .online).setRfld (chnPage c) PAGE_CTRL 0 0 1 else s) :=
    .ite (.setRegOf rfl rfl (.setRegOf rfl rfl .refl)) .refl
  exact .event (.bump rfl rfl (.keep State.chanUnknown_keeps rfl (.keep State.modChan_keeps rfl opened)))

theorem State.backChan_held {s : State} {w : Wy} {c : Nat} : Held [.chn] s (s.backChan w c) := by
  unfold State.backChan
  dsimp only
  split
  next h =>
    unfold State.takeChannel
    dsimp only
    rw [if_pos h]
    exact State.newOwner_held
  · exact .ite (.keep State.modChan_keeps rfl .refl) .refl

theorem State.unitUp_held {s : State} {p : Page} : Held [.chn] s (s.unitUp p) := by
  unfold State.unitUp
  split
  · exact .foldl (fun _ _ => State.backChan_held) .refl
  · exact .refl

end Sys2Proof.Machine
end

section
/-! PROOFS. Writes of PAGE_CTRL, the end of a unit's job and of its test, and COMMIT (R33, R405, R406, R410, R510). -/

namespace Sys2Proof.Machine

/-! ### PAGE_CTRL -/

theorem unitOf_unitNum (u : UnitSt) : unitOf (unitNum u) = u := by cases u <;> rfl

theorem State.setUnit_unit (s : State) (p : Page) (u : UnitSt) : (s.setUnit p u).unit p = u := by
  rw [State.unit, State.setUnit, State.setRfld_rfld_low (by decide) (by cases u <;> decide), unitOf_unitNum]

theorem State.setRfld_ctrl_unit (s : State) (p : Page) (hi lo v : Nat) : (s.setRfld p PAGE_CTRL hi lo v).unit p = s.unit p := by
  rw [State.unit, State.rfld, State.setRfld, State.setReg_reg_of_off_ne (by decide), State.unit, State.rfld]

/-- A bit of PAGE_CTRL [2:0] that is set, where it was not. -/
theorem fld_setFld_ctrl {x : Word} {b : Nat} (hb : b < 3) (h : fld x b b = 0) : fld (setFld x b b 1) 2 0 = fld x 2 0 + 2 ^ b := by
  have hx : x.toNat < 4294967296 := x.isLt
  interval_cases b <;> simp only [fld, setFld, bits, word, BitVec.toNat_ofNat] at h ⊢ <;> omega

theorem fld_bit_of_ctrl {x : Word} {a b : Nat} (hb : b < 3) (h : fld x 2 0 = a) : fld x b b = a / 2 ^ b % 2 := by
  have hx : x.toNat < 4294967296 := x.isLt
  interval_cases b <;> simp only [fld, bits] at h ⊢ <;> omega

theorem State.setRfld_ctrl {s : State} {p : Page} {a b : Nat} (hb : b < 3) (h : s.rfld p PAGE_CTRL 2 0 = a) (h0 : a / 2 ^ b % 2 = 0) :
    (s.setRfld p PAGE_CTRL b b 1).rfld p PAGE_CTRL 2 0 = a + 2 ^ b := by
  rw [State.rfld, State.setRfld, State.setReg_reg_self, fld_setFld_ctrl hb ((fld_bit_of_ctrl hb h).trans h0), ← State.rfld, h]

/-- A write that sets one bit of ENABLE, QUIESCE and BYPASS, and nothing else, makes the unit's change and shows the bit. -/
theorem State.writePageCtrl_of_bit {s t : State} {p : Page} {v : Word} {src b : Nat} (hunit : isUnit p = true) (h4 : bitOf v 4 = false)
    (h3 : bitOf v 3 = false) (hc : ctrlChange (s.rfld p PAGE_CTRL 2 0) (fld v 2 0) = [b]) (hb : bitOf v b = true)
    (ht : s.ctrlBit p b true = some t) : s.writePageCtrl p v src = t.setRfld p PAGE_CTRL b b 1 := by
  simp [State.writePageCtrl, h4, h3, hc, hunit, hb, ht, b2n]

theorem State.unitUp_stays (s : State) (p : Page) : UnitStays p s (s.unitUp p) := by
  cases p
  case chn => exact .refl
  all_goals exact .held State.unitUp_held rfl .refl

theorem State.ctrlBit_enable {s : State} {p : Page} (hoff : s.unit p = .offline) (htest : (s.ujob p).needTest = false) :
    s.ctrlBit p 0 true = some (((s.setUnit p .online).modUjob p (fun x => { x with needTest := false })).unitUp p) := by
  simp only [State.ctrlBit, hoff, htest]
  rfl

theorem State.ctrlBit_quiesce {s : State} {p : Page} (hon : s.unit p = .online) :
    s.ctrlBit p 1 true = some ((s.setUnit p .quiescing).modUjob p (fun x => { x with goal := some (x.goal.getD .quiesced) })) := by
  simp only [State.ctrlBit, hon]
  rfl

theorem State.ctrlBit_bypass {s : State} {p : Page} (hon : s.unit p = .online) :
    ∃ t, s.ctrlBit p 2 true = some t ∧ UnitStays p (s.modUjob p (fun x => { x with goal := some .bypassed })) t := by
  simp only [State.ctrlBit, hon, decide_true, Bool.true_or, if_true]
  have down := UnitStays.refl.keep (p := p) (State.unitDown_keeps (s := s.modUjob p (fun x => { x with goal := some .bypassed })) (p := p)) rfl
  split
  · exact ⟨_, rfl, .held State.linkDown_held rfl down⟩
  · exact ⟨_, rfl, down⟩

/-! ### Tests -/

/-- A test that may start takes the unit out and is counted. -/
theorem State.startTest_starts {s : State} {p : Page} {src : Nat} (hunit : isUnit p = true) (hfrom : testFrom p (s.unit p) = true)
    (hgoal : (s.ujob p).goal = none) (hok : s.testAllowed p = true) :
    UnitStays p ((s.setUnit p .testing).modUjob p (fun x => { x with test := some (s.unit p, s.now) })) (s.startTest p src)
      ∧ (s.startTest p src).reg (.tst (s.testWy p)) TST_CNT_RUN = s.reg (.tst (s.testWy p)) TST_CNT_RUN + 1 := by
  generalize hw : s.testWy p = w
  have hp : Page.tst w ≠ p := by rintro rfl; cases hunit
  generalize hs : (s.setUnit p .testing).modUjob p (fun x => { x with test := some (s.unit p, s.now) }) = s0
  have run0 : s0.reg (.tst w) TST_CNT_RUN = s.reg (.tst w) TST_CNT_RUN := by
    rw [← hs, State.modUjob_reg]
    exact State.setReg_reg_of_ne (pageKey_ne hp (by decide) (by decide))
  have stays : UnitStays p s0 (s0.bump (.tst w) TST_CNT_RUN) := UnitStays.refl.bump rfl rfl
  have run : (s0.bump (.tst w) TST_CNT_RUN).reg (.tst w) TST_CNT_RUN = s.reg (.tst w) TST_CNT_RUN + 1 := by
    rw [State.bump_reg_self (by decide), run0]
  unfold State.startTest
  dsimp only
  rw [hw, hs, if_neg (by simp [hfrom, hgoal]), if_neg (by simp [hok])]
  split
  · refine ⟨stays.bump rfl rfl, ?_⟩
    rw [State.bump_reg_of_ne (pageKey_ne hp (by decide) (by decide)) (pageKey_ne hp (by decide) (by decide)), run]
  · refine ⟨stays.held (Held.refl.setReg (l := []) rfl rfl) rfl, ?_⟩
    rw [State.setReg_reg_of_ne (pageKey_ne hp (by decide) (by decide)), run]
  · exact ⟨stays, run⟩

/-- A unit whose test has ended and shows its result (R516), its state not yet set. -/
def State.testShown (s : State) (p : Page) (code us_ : Nat) : State :=
  let w := s.testWy p
  let s1 := (s.modUjob p (fun u => { u with test := none })).testResult w code (pageBlock p) (us_ / 1000)
  let s2 := match testTimeReg p with
    | some off => s1.setReg p off (word us_)
    | none => s1
  let s3 := (if unitEvents p then s2.event p UNIT_EVT_TEST_DONE else s2).event (.tst w) TST_EVT_DONE
  let s4 := match p with
    | .mac _ _ => s3.setReg p MAC_LOOPBACK 0
    | _ => s3
  s4.setRfld p PAGE_STATE 9 9 (b2n (code = 0))

theorem Keeps.ujob_eq {l : List Part} {s t : State} (h : Keeps l s t) (hl : .units ∉ l) (p : Page) : t.ujob p = s.ujob p := by
  rw [State.ujob, h.units_eq hl, State.ujob]

theorem State.testShown_test (s : State) (p : Page) (code us_ : Nat) : ((s.testShown p code us_).ujob p).test = none := by
  have ended : ((s.modUjob p (fun u => { u with test := none })).ujob p).test = none :=
    congrArg UnitJob.test (State.modUjob_ujob_self (f := fun u => { u with test := none }) fun _ => rfl)
  have shown : Keeps [.pcie, .regs] (s.modUjob p (fun u => { u with test := none })) (s.testShown p code us_) := by
    unfold State.testShown
    dsimp only
    refine .step State.setRfld_keeps (by decide) ?_
    split
    all_goals
      try refine .step State.setReg_keeps (by decide) ?_
      refine .step State.event_keeps (by decide) ?_
      split
      all_goals
        try refine .step State.event_keeps (by decide) ?_
        split
        · exact .step State.setReg_keeps (by decide) (.step State.testResult_keeps (by decide) .refl)
        · exact .step State.testResult_keeps (by decide) .refl
  rw [shown.ujob_eq (by decide), ended]

/-- What the result of a test, shown by the unit, makes of its state (R406, R513). -/
def State.testLeaves (s : State) (p : Page) (w : Wy) (u : UnitSt) (code info : Nat) : State :=
  if code = 0 then
    let s6 := (s.setUnit p u).modUjob p (fun u => { u with needTest := false })
    match p with
    | .chn c => s6.anchorRec (setOf c.val) (.channelState c.val false true)
    | _ => s6
  else if code = 5 then (s.setUnit p u).bump (.tst w) TST_CNT_REFUSED
  else
    let s6 := ((s.bump (.tst w) TST_CNT_FAIL).event (.tst w) TST_EVT_FAIL).pageError p code info 1
    match p with
    | .chn _ => s6.setUnit p .bypassed
    | _ => s6.markFailed p

theorem State.endTest_of_test {s : State} {p : Page} {u : UnitSt} {at_ : Nat} (h : (s.ujob p).test = some (u, at_)) (code info us_ : Nat) :
    s.endTest p code info us_ = (s.testShown p code us_).testLeaves p (s.testWy p) u code info := by
  unfold State.endTest
  rw [h]
  rfl

/-- A unit that fails is FAILED, and what is done about its buffers and channels leaves it so. -/
theorem State.markFailed_self (s : State) (p : Page) :
    UnitStays p ((s.setUnit p .failed).modUjob p (fun u => { u with goal := none, needTest := true, test := none })) (s.markFailed p) := by
  unfold State.markFailed
  dsimp only
  refine .keep State.unitDown_keeps rfl ?_
  split
  · exact .keep State.orphanBufs_keeps rfl .refl
  · exact .refl

theorem State.markFailed_unit (s : State) (p : Page) : (s.markFailed p).unit p = .failed ∧ ((s.markFailed p).ujob p).test = none := by
  refine ⟨(s.markFailed_self p).unit.trans (State.setUnit_unit ..), ?_⟩
  rw [(s.markFailed_self p).ujob, State.modUjob_ujob_self]
  exact fun _ => rfl

/-- The unit's state after its test, and the test over. -/
theorem State.endTest_ends {s : State} {p : Page} {u : UnitSt} {at_ : Nat} (h : (s.ujob p).test = some (u, at_)) (code info us_ : Nat) :
    ((s.endTest p code info us_).ujob p).test = none ∧ (code = 0 ∨ code = 5 → (s.endTest p code info us_).unit p = u)
      ∧ (code ≠ 0 → code ≠ 5 → (∀ c, p ≠ .chn c) → (s.endTest p code info us_).unit p = .failed) := by
  rw [State.endTest_of_test h]
  have shown := s.testShown_test p code us_
  generalize s.testShown p code us_ = s5 at shown ⊢
  unfold State.testLeaves
  dsimp only
  have set_ : ∀ v : UnitSt, (s5.setUnit p v).unit p = v ∧ ((s5.setUnit p v).ujob p).test = none := fun v =>
    ⟨State.setUnit_unit .., shown⟩
  split_ifs with h0 h5
  · have passed : ∀ t, UnitStays p ((s5.setUnit p u).modUjob p (fun u => { u with needTest := false })) t →
        t.unit p = u ∧ (t.ujob p).test = none := fun t ht =>
      ⟨ht.unit.trans (set_ u).1, by
        rw [ht.ujob, State.modUjob_ujob_self]
        · exact shown
        · exact fun _ => rfl⟩
    split
    · obtain ⟨hunit, htest⟩ := passed _ (.held State.anchorRec_held rfl .refl)
      exact ⟨htest, fun _ => hunit, fun h => absurd h0 h⟩
    · obtain ⟨hunit, htest⟩ := passed _ .refl
      exact ⟨htest, fun _ => hunit, fun h => absurd h0 h⟩
  · have stays : UnitStays p (s5.setUnit p u) ((s5.setUnit p u).bump (.tst (s.testWy p)) TST_CNT_REFUSED) := UnitStays.refl.bump rfl rfl
    exact ⟨stays.ujob ▸ shown, fun _ => stays.unit.trans (set_ u).1, fun _ h => absurd h5 h⟩
  · have failed : UnitStays p s5 (((s5.bump (.tst (s.testWy p)) TST_CNT_FAIL).event (.tst (s.testWy p)) TST_EVT_FAIL).pageError p
        code info 1) := .pageError (.event (.bump rfl rfl .refl))
    generalize (((s5.bump (.tst (s.testWy p)) TST_CNT_FAIL).event (.tst (s.testWy p)) TST_EVT_FAIL).pageError p
        code info 1) = s6 at failed ⊢
    have none_ : (s6.ujob p).test = none := failed.ujob ▸ shown
    split
    next c => exact ⟨none_, fun h => absurd h (by simp [h0, h5]), fun _ _ h => absurd rfl (h c)⟩
    · obtain ⟨hunit, htest⟩ := s6.markFailed_unit p
      exact ⟨htest, fun h => absurd h (by simp [h0, h5]), fun _ _ _ => hunit⟩

/-! ### The end of a unit's job -/

/-- A unit with no channels that drains and is empty reaches the state it drains towards. -/
theorem execUnitJobDrained_of_ready {s : State} {p : Page} {g : UnitSt} (hunit : isUnit p = true) (hchans : unitChans p = [])
    (hgoal : (s.ujob p).goal = some g) (hin : s.unit p ≠ .bypassed)
    (hready : g = .quiesced ∧ s.jobsEnded p = true ∨ g = .offline ∧ s.unitEmpty p = true) :
    ∃ t, execUnitJobDrained p s = .next t ∧ UnitStays p ((s.setUnit p g).modUjob p (fun u => { u with goal := none })) t := by
  have ready : (if g = .quiesced then s.jobsEnded p else s.unitEmpty p) = true := by
    rcases hready with ⟨rfl, h⟩ | ⟨rfl, h⟩ <;> simp [h]
  have hby : g ≠ .bypassed := by rcases hready with ⟨rfl, -⟩ | ⟨rfl, -⟩ <;> decide
  unfold execUnitJobDrained
  simp only [hchans, List.foldl_nil, hgoal, if_neg hin, ready, if_neg hby, Bool.not_true, if_neg Bool.false_ne_true]
  refine ⟨_, rfl, ?_⟩
  split
  next w hw =>
    refine .trans ?_ (State.unitChecked_stays hunit hw _)
    split <;> exact .refl
  · split <;> exact .refl

/-! ### COMMIT (R410) -/

/-- A page's held registers stay, and the active values of its shadowed ones. -/
structure ShadowsStay (p : Page) (s t : State) : Prop where
  reg : ∀ off ∈ heldOffs (pageKind p), t.reg p off = s.reg p off
  act : ∀ off ∈ heldOffs (pageKind p), t.act p off = s.act p off

theorem ShadowsStay.refl {p : Page} {s : State} : ShadowsStay p s s := ⟨fun _ _ => rfl, fun _ _ => rfl⟩

theorem ShadowsStay.trans {p : Page} {s t u : State} (h : ShadowsStay p s t) (k : ShadowsStay p t u) : ShadowsStay p s u :=
  ⟨fun off ho => (k.reg off ho).trans (h.reg off ho), fun off ho => (k.act off ho).trans (h.act off ho)⟩

theorem ShadowsStay.held {p : Page} {l : List Part} {s t : State} (k : Keeps l s t) (hl : .active ∉ l) (h : UnitStays p s t) :
    ShadowsStay p s t := ⟨h.reg, fun _ _ => k.act_eq hl ..⟩

theorem State.setAct_act_self (s : State) (p : Page) (off : Nat) (v : Word) : (s.setAct p off v).act p off = v := by
  simp [State.act]

theorem State.setAct_act_of_ne {s : State} {p q : Page} {off o : Nat} {v : Word} (h : pageKey q + o ≠ pageKey p + off) :
    (s.setAct p off v).act q o = s.act q o := by
  simp only [State.act, State.setAct_active, tableGet_put_ne _ _ h]

theorem foldl_setAct_reg (p : Page) (l : List RegRow) (s : State) (off : Nat) :
    (l.foldl (fun s r => s.setAct p r.off (s.reg p r.off)) s).reg p off = s.reg p off := by
  induction l generalizing s with
  | nil => rfl
  | cons r l ih => exact (ih _).trans rfl

theorem foldl_setAct_act (p : Page) {l : List RegRow} (s : State) {r : RegRow} (hr : r ∈ l) :
    (l.foldl (fun s r => s.setAct p r.off (s.reg p r.off)) s).act p r.off = s.reg p r.off := by
  have kept : ∀ (l : List RegRow) (s : State) (off : Nat), s.act p off = s.reg p off →
      (l.foldl (fun s r => s.setAct p r.off (s.reg p r.off)) s).act p off = s.reg p off := by
    intro l
    induction l with
    | nil => exact fun _ _ h => h
    | cons a l ih =>
      intro s off h
      refine ih (s.setAct p a.off (s.reg p a.off)) off ?_
      by_cases ha : off = a.off
      · rw [ha, State.setAct_act_self]
        rfl
      · rw [State.setAct_act_of_ne (by omega), h]
        rfl
  induction l generalizing s with
  | nil => cases hr
  | cons a l ih =>
    rcases List.mem_cons.mp hr with rfl | hr
    · exact kept l _ _ (State.setAct_act_self ..)
    · exact ih _ hr

/-- A copy of the brick-wide values goes to the peer's page. -/
theorem State.copyWide_stays (s : State) (p : Page) : ShadowsStay p s (s.copyWide p) := by
  have hlist : ∀ (q : Page) (l : List Nat) (s : State), q ≠ p → (∀ o ∈ l, o < 0x1000) →
      ShadowsStay p s (l.foldl (fun s off => (s.setReg q off (s.act p off)).setAct q off (s.act p off)) s) := by
    intro q l
    induction l with
    | nil => exact fun _ _ _ => .refl
    | cons o l ih =>
      intro s hq ho
      refine ShadowsStay.trans ⟨fun off hoff => ?_, fun off hoff => ?_⟩ (ih _ hq fun o' h => ho o' (List.mem_cons_of_mem _ h))
      · exact State.setReg_reg_of_ne (pageKey_ne hq.symm (heldOffs_lt off hoff) (ho o (List.mem_cons_self ..)))
      · exact State.setAct_act_of_ne (pageKey_ne hq.symm (heldOffs_lt off hoff) (ho o (List.mem_cons_self ..)))
  unfold State.copyWide
  split
  next q l h =>
    cases p <;> cases h
    all_goals exact hlist _ _ s (by simp [Wy.peer_ne_self]) (by decide)
  · exact .refl

theorem State.refuseOverdue_held {s : State} {w : Wy} : Held [] s (s.refuseOverdue w) :=
  .foldl (fun _ _ => .keep State.used_keeps rfl (.step State.finish_held rfl (.event (.bump rfl rfl .refl)))) .refl

/-- What follows a COMMIT changes no shadow of the page, on a page other than MTR and MED. -/
theorem State.afterCommit_stays (s : State) {p : Page} (hmtr : ∀ w, p ≠ .mtr w) (hmed : ∀ w, p ≠ .med w) :
    ShadowsStay p s (s.afterCommit p) := by
  cases p
  case mtr w => exact absurd rfl (hmtr w)
  case med w => exact absurd rfl (hmed w)
  case rlf w => exact .held State.refuseOverdue_keeps (by decide) (.held State.refuseOverdue_held rfl .refl)
  case pwr w => exact .held State.powerEval_keeps (by decide) (.held State.powerEval_held rfl .refl)
  all_goals exact .refl

/-- A COMMIT that no rule stops makes every shadow active and changes no register that holds one. -/
theorem State.commitPage_commits {s : State} {p : Page} {src : Nat} (hrange : s.commitRange p = none) (hrule : s.commitRule p = none)
    (hmtr : ∀ w, p ≠ .mtr w) (hmed : ∀ w, p ≠ .med w) :
    (∀ off ∈ heldOffs (pageKind p), (s.commitPage p src).reg p off = s.reg p off)
      ∧ ∀ r ∈ shadowRows p, (s.commitPage p src).act p r.off = s.reg p r.off := by
  unfold State.commitPage
  split
  next h =>
    refine ⟨fun _ _ => rfl, fun r hr => ?_⟩
    have h : s.shadowPending p = false := by simpa using h
    have same : s.reg p r.off = s.act p r.off := by simpa using List.any_eq_false.mp h r hr
    exact same.symm
  · rw [hrange, hrule]
    dsimp only
    have applied : ∀ t, ShadowsStay p (s.applyShadows p) t → (∀ off ∈ heldOffs (pageKind p), t.reg p off = s.reg p off)
        ∧ ∀ r ∈ shadowRows p, t.act p r.off = s.reg p r.off := fun t ht =>
      ⟨fun off ho => (ht.reg off ho).trans (foldl_setAct_reg ..),
        fun r hr => (ht.act _ (shadowRows_held p r hr)).trans (foldl_setAct_act p s hr)⟩
    refine applied _ (.trans (.trans ?_ (State.afterCommit_stays _ hmtr hmed))
      (.held State.lldpCommit_keeps (by decide) (.keep State.lldpCommit_keeps rfl .refl)))
    split
    · exact State.copyWide_stays _ p
    · exact .refl

/-- A write of COMMIT alone changes nothing else of PAGE_CTRL. -/
theorem State.writePageCtrl_commit {s : State} {p : Page} {src : Nat} (hctrl : (s.commitPage p src).reg p PAGE_CTRL = s.reg p PAGE_CTRL) :
    s.writePageCtrl p (word (16 + s.rfld p PAGE_CTRL 2 0)) src = s.commitPage p src := by
  have hlt : s.rfld p PAGE_CTRL 2 0 < 8 := Nat.mod_lt _ (by decide)
  have bits_ : ∀ c < 8, bitOf (word (16 + c)) 4 = true ∧ bitOf (word (16 + c)) 3 = false ∧ ctrlChange c (fld (word (16 + c)) 2 0) = [] := by
    decide
  obtain ⟨h4, h3, hc⟩ := bits_ _ hlt
  have hsame : (s.commitPage p src).rfld p PAGE_CTRL 2 0 = s.rfld p PAGE_CTRL 2 0 := by rw [State.rfld, hctrl, State.rfld]
  unfold State.writePageCtrl
  dsimp only
  rw [if_pos h4, hsame, if_pos (by simp [h3, hc])]

/-- A write of TEST_START alone starts a test. -/
theorem State.writePageCtrl_test {s : State} {p : Page} {src : Nat} (hunit : isUnit p = true) :
    s.writePageCtrl p (word (8 + s.rfld p PAGE_CTRL 2 0)) src = s.startTest p src := by
  have hlt : s.rfld p PAGE_CTRL 2 0 < 8 := Nat.mod_lt _ (by decide)
  have bits_ : ∀ c < 8, bitOf (word (8 + c)) 4 = false ∧ bitOf (word (8 + c)) 3 = true ∧ ctrlChange c (fld (word (8 + c)) 2 0) = [] := by
    decide
  obtain ⟨h4, h3, hc⟩ := bits_ _ hlt
  simp [State.writePageCtrl, h4, h3, hc, hunit]

end Sys2Proof.Machine

namespace Sys2Proof
open Sys2Proof.Machine

/-- Settles O48, write by write: what a change of PAGE_CTRL, a drained job or a test's end leaves of the unit (`UnitStays`), and what
follows a COMMIT of the page's shadows (`ShadowsStay`). -/
theorem unitsChangeState : Obligations.UnitsChangeState := by
  unfold Obligations.UnitsChangeState
  intro src p s
  have ctrl : ∀ {t : State} {v : Word}, writeArrives src p PAGE_CTRL s → s.writePageCtrl p v (srcNum src) = t → s.writeCtrl src p v = t :=
    fun h ht => (State.gated_of_writeArrives h).trans ht
  refine ⟨fun harr hunit hgoal => ⟨fun v hv hoff htest hctrl => ?_, fun v hv hon hctrl => ?_, fun v hv hon hctrl => ?_,
    fun v hv hfrom hok => ?_⟩, fun g hunit hchans hgoal hin hready => ?_, fun u at_ code info us_ hunit htest => ?_,
    fun v harr hv hrange hrule hmtr hmed => ?_⟩
  · subst hv
    refine runs_intro (congrArg Host.Outcome.next (ctrl harr (State.writePageCtrl_of_bit hunit rfl rfl (by rw [hctrl]; rfl) rfl
      (State.ctrlBit_enable hoff htest)))) ?_
    have up := State.unitUp_stays ((s.setUnit p .online).modUjob p (fun x => { x with needTest := false })) p
    refine ⟨(State.setRfld_ctrl_unit ..).trans (up.unit.trans (State.setUnit_unit ..)),
      State.setRfld_ctrl (a := 0) (by decide) ((up.ctrl 2 0).trans ?_) rfl⟩
    exact (congrArg (fld · 2 0) (State.setReg_reg_of_off_ne (by decide))).trans hctrl
  · subst hv
    refine runs_intro (congrArg Host.Outcome.next (ctrl harr (State.writePageCtrl_of_bit hunit rfl rfl (by rw [hctrl]; rfl) rfl
      (State.ctrlBit_quiesce hon)))) ?_
    refine ⟨(State.setRfld_ctrl_unit ..).trans (State.setUnit_unit ..), ?_,
      State.setRfld_ctrl (a := 1) (by decide) ((congrArg (fld · 2 0) (State.setReg_reg_of_off_ne (by decide))).trans hctrl) rfl⟩
    refine (congrArg UnitJob.goal (State.modUjob_ujob_self (s := s.setUnit p .quiescing)
      (f := fun x => { x with goal := some (x.goal.getD .quiesced) }) fun _ => rfl)).trans ?_
    exact congrArg (fun g => some (Option.getD g .quiesced)) hgoal
  · subst hv
    obtain ⟨t, ht, stays⟩ := State.ctrlBit_bypass hon
    refine runs_intro (congrArg Host.Outcome.next (ctrl harr (State.writePageCtrl_of_bit hunit rfl rfl (by rw [hctrl]; rfl) rfl ht))) ?_
    refine ⟨?_, State.setRfld_ctrl (a := 1) (by decide) ((stays.ctrl 2 0).trans hctrl) rfl⟩
    refine (congrArg UnitJob.goal (stays.ujob.trans (State.modUjob_ujob_self ?_))).trans rfl
    exact fun _ => rfl
  · subst hv
    obtain ⟨stays, hrun⟩ := State.startTest_starts (src := srcNum src) hunit hfrom hgoal hok
    refine runs_intro (congrArg Host.Outcome.next (ctrl harr (State.writePageCtrl_test hunit)))
      ⟨stays.unit.trans (State.setUnit_unit ..), ?_, hrun⟩
    refine (congrArg UnitJob.test (stays.ujob.trans (State.modUjob_ujob_self ?_))).trans rfl
    exact fun _ => rfl
  · obtain ⟨t, ht, stays⟩ := execUnitJobDrained_of_ready hunit hchans hgoal hin hready
    refine runs_intro ht ⟨stays.unit.trans (State.setUnit_unit ..), ?_⟩
    refine (congrArg UnitJob.goal (stays.ujob.trans (State.modUjob_ujob_self ?_))).trans rfl
    exact fun _ => rfl
  · refine runs_intro (congrArg Host.Outcome.next (if_neg (by simp [htest]))) ?_
    obtain ⟨hover, hback, hfail⟩ := State.endTest_ends htest code info us_
    have stays : UnitStays p (s.endTest p code info us_) (match pageWy p with
        | some w => (s.endTest p code info us_).unitChecked w p
        | none => s.endTest p code info us_) := by
      split
      next w hw => exact State.unitChecked_stays hunit hw _
      · exact .refl
    exact ⟨(congrArg UnitJob.test stays.ujob).trans hover, fun h => stays.unit.trans (hback h),
      fun h0 h5 hc => stays.unit.trans (hfail h0 h5 hc)⟩
  · subst hv
    obtain ⟨hreg, hact⟩ := State.commitPage_commits (src := srcNum src) hrange hrule hmtr hmed
    refine runs_intro (congrArg Host.Outcome.next (ctrl harr (State.writePageCtrl_commit (hreg _ pageCtrl_held)))) ⟨?_, hact⟩
    exact List.any_eq_false.mpr fun r hr => by simpa using (hreg _ (shadowRows_held p r hr)).trans (hact r hr).symm

end Sys2Proof
end

section
/-! PROOFS. The fault of a tile touches no unit but by FAILED (R32): what a job's failure leaves of the units. -/

namespace Sys2Proof.Machine

theorem State.takeBuf_held {s : State} {w : Wy} {n : Nat} {r : BufReq} :
    Held [] s (State.takeBuf s w n r) := by
  unfold State.takeBuf
  try dsimp only
  repeat' first
    | with_reducible exact Held.refl
    | with_reducible apply Held.step State.takeAt_held
    | with_reducible apply Held.keep State.used_keeps
    | rfl

theorem State.bufferChunk_held {s : State} {w : Wy} {id n : Nat} :
    Held [] s (State.bufferChunk s w id n) := by
  unfold State.bufferChunk
  try dsimp only
  repeat' first
    | with_reducible exact Held.refl
    | with_reducible apply Held.step State.queueCodec_held
    | with_reducible apply Held.keep State.modWChunk_keeps
    | with_reducible apply Held.step State.takeBuf_held
    | with_reducible apply Held.keep State.packed_keeps
    | rfl
    | split

theorem State.sendChunk_held {s : State} {w : Wy} {c : Cmd} {n : Nat} {x : WChunk} :
    Held [] s (State.sendChunk s w c n x) := by
  unfold State.sendChunk
  try dsimp only
  repeat' first
    | with_reducible exact Held.refl
    | with_reducible apply Held.keep State.modMortar_keeps
    | with_reducible apply Held.keep State.modWChunk_keeps
    | with_reducible apply Held.step State.mortarOut_held
    | rfl
    | split

theorem State.shipChunk_held {s : State} {w : Wy} {id n : Nat} :
    Held [] s (State.shipChunk s w id n) := by
  unfold State.shipChunk
  repeat' first
    | with_reducible exact Held.refl
    | with_reducible apply Held.step State.sendChunk_held
    | rfl
    | split

theorem State.pumpChunk_held {s : State} {w : Wy} {id n : Nat} :
    Held [] s (State.pumpChunk s w id n) := by
  unfold State.pumpChunk
  repeat' first
    | with_reducible exact Held.refl
    | with_reducible apply Held.step State.shipChunk_held
    | with_reducible apply Held.step State.bufferChunk_held
    | with_reducible apply Held.keep State.creditChunk_keeps
    | rfl

theorem State.pumpWrites_held {s : State} {w : Wy} :
    Held [] s (State.pumpWrites s w) := by
  unfold State.pumpWrites
  try dsimp only
  repeat' first
    | with_reducible exact Held.refl
    | with_reducible apply Held.step State.pumpChunk_held
    | (with_reducible apply Held.foldl; intro _ _; try dsimp only)
    | rfl

theorem State.wakeClose_held {s : State} {w : Wy} :
    Held [] s (State.wakeClose s w) := by
  unfold State.wakeClose
  try dsimp only
  repeat' first
    | with_reducible exact Held.refl
    | with_reducible apply Held.step State.startClose_held
    | (with_reducible apply Held.foldl; intro _ _; try dsimp only)
    | rfl

theorem State.stagedWhole_held {s : State} {x : StagedRec} :
    Held [] s (State.stagedWhole s x) := by
  unfold State.stagedWhole
  try dsimp only
  repeat' first
    | with_reducible exact Held.refl
    | with_reducible apply Held.keep State.modRefs_keeps
    | with_reducible apply Held.step State.answerQueries_held
    | with_reducible apply Held.step State.toArmature_held
    | with_reducible apply Held.step State.mortarOut_held
    | with_reducible apply Held.step State.addDeltas_held
    | rfl

theorem State.stagedDone_held {s : State} {w : Wy} {x : StagedRec} :
    Held [] s (State.stagedDone s w x) := by
  unfold State.stagedDone
  try dsimp only
  repeat' first
    | with_reducible exact Held.refl
    | with_reducible apply Held.step State.stagedWhole_held
    | with_reducible apply Held.step State.storeRec_held
    | with_reducible apply Held.step State.toPart_held
    | with_reducible apply Held.keep State.modRefs_keeps
    | (with_reducible apply Held.foldl; intro _ _; try dsimp only)
    | rfl
    | split

theorem State.repairChecked_held {s : State} {n : Nat} {ok : Bool} :
    Held [] s (State.repairChecked s n ok) := by
  unfold State.repairChecked
  try dsimp only
  repeat' first
    | with_reducible exact Held.refl
    | with_reducible apply Held.step State.failRepair_held
    | with_reducible apply Held.keep State.modRepair_keeps
    | with_reducible apply Held.step State.recordIn_held
    | with_reducible apply Held.step State.mortarOut_held
    | (with_reducible apply Held.foldl; intro _ _; try dsimp only)
    | rfl
    | split

theorem State.shipEnd_held {s : State} {n : Nat} {ok : Bool} {out : Bytes} :
    Held [] s (State.shipEnd s n ok out) := by
  unfold State.shipEnd
  split
  · exact .refl
  · dsimp only
    have dropped : Held [] s { s with stripes := { s.stripes with repairs := s.stripes.repairs.filter (fun x => x.n ≠ n) } } :=
      .setStripes .refl
    generalize ({ s with stripes := { s.stripes with repairs := s.stripes.repairs.filter (fun x => x.n ≠ n) } } : State) = s1 at dropped ⊢
    split
    · split
      · exact .step State.startRepair_held rfl dropped
      · exact .step State.mortarOut_held rfl (.keep State.drawn_keeps rfl dropped)
    · exact dropped

theorem State.sendLand_held {s : State} {x : LandRec} :
    Held [] s (State.sendLand s x) := by
  unfold State.sendLand
  try dsimp only
  repeat' first
    | with_reducible exact Held.refl
    | with_reducible apply Held.keep State.modLand_keeps
    | with_reducible apply Held.step State.mortarOut_held
    | with_reducible apply Held.keep State.modMortar_keeps
    | rfl
    | split

theorem State.landEnd_held {s : State} {n : Nat} {ok : Bool} {ver : Nat} {iv out tag : Bytes} :
    Held [] s (State.landEnd s n ok ver iv out tag) := by
  unfold State.landEnd
  try dsimp only
  repeat' first
    | with_reducible exact Held.refl
    | with_reducible apply Held.keep State.modRefs_keeps
    | with_reducible apply Held.step State.stagedDone_held
    | with_reducible apply Held.step State.sendLand_held
    | with_reducible apply Held.keep State.modLand_keeps
    | rfl
    | split

theorem State.chunkRead_held {s : State} {w : Wy} {c : Cmd} {n : Nat} {x : RChunk} {data : Bytes} :
    Held [] s (State.chunkRead s w c n x data) := by
  unfold State.chunkRead
  try dsimp only
  repeat' first
    | with_reducible exact Held.refl
    | with_reducible apply Held.step State.fetchMore_held
    | with_reducible apply Held.step State.advanceOp_held
    | with_reducible apply Held.keep State.modRChunk_keeps
    | with_reducible apply Held.step State.endGet_held
    | rfl
    | split

theorem State.plainIn_held {s : State} {w : Wy} {c : Cmd} {n : Nat} {x : RChunk} {data : Bytes} :
    Held [] s (State.plainIn s w c n x data) := by
  unfold State.plainIn
  try dsimp only
  repeat' first
    | with_reducible exact Held.refl
    | with_reducible apply Held.step State.queueCodec_held
    | with_reducible apply Held.step State.chunkRead_held
    | with_reducible apply Held.keep State.modRChunk_keeps
    | with_reducible apply Held.keep State.deliver_keeps
    | rfl
    | split

theorem State.storedIn_held {s : State} {w : Wy} {c : Cmd} {n : Nat} {x : RChunk} {data : Bytes} :
    Held [] s (State.storedIn s w c n x data) := by
  unfold State.storedIn
  try dsimp only
  repeat' first
    | with_reducible exact Held.refl
    | with_reducible apply Held.step State.queueCodec_held
    | with_reducible apply Held.step State.plainIn_held
    | with_reducible apply Held.step State.taint_held
    | with_reducible apply Held.keep State.modRChunk_keeps
    | rfl
    | split

theorem State.writeFails_held {s : State} {w : Wy} {id : Nat} {evt : Bool} :
    Held [] s (State.writeFails s w id evt) := by
  unfold State.writeFails
  try dsimp only
  repeat' first
    | with_reducible exact Held.refl
    | with_reducible apply Held.step State.wakeClose_held
    | with_reducible apply Held.step State.finish_held
    | with_reducible apply Held.keep State.recordOpen_keeps
    | with_reducible apply Held.step State.endJobs_held
    | rfl
    | split

theorem State.encryptFails_held {s : State} {w : Wy} {id : Nat} {res : CryptResult} :
    Held [] s (State.encryptFails s w id res) := by
  unfold State.encryptFails
  repeat' first
    | with_reducible exact Held.refl
    | with_reducible apply Held.step State.wakeClose_held
    | with_reducible apply Held.step State.finish_held
    | with_reducible apply Held.step State.writeFails_held
    | with_reducible apply Held.step State.endJobs_held
    | rfl
    | split

theorem State.sealedChunk_held {s : State} {w : Wy} {j : CryptJob} {id n : Nat} {out tag : Bytes} :
    Held [] s (State.sealedChunk s w j id n out tag) := by
  unfold State.sealedChunk
  try dsimp only
  repeat' first
    | with_reducible exact Held.refl
    | with_reducible apply Held.step State.pumpWrites_held
    | with_reducible apply Held.step State.shipChunk_held
    | with_reducible apply Held.keep State.modWChunk_keeps
    | rfl
    | split

theorem State.sealedInline_held {s : State} {w : Wy} {j : CryptJob} {id n : Nat} {out tag : Bytes} :
    Held [] s (State.sealedInline s w j id n out tag) := by
  unfold State.sealedInline
  try dsimp only
  repeat' first
    | with_reducible exact Held.refl
    | with_reducible apply Held.keep State.releaseRing_keeps
    | with_reducible apply Held.keep State.modOp_keeps
    | with_reducible apply Held.step State.stepOn_held
    | rfl
    | split

theorem State.readChunkEnd_held {s : State} {w : Wy} {id n : Nat} {res : CryptResult} {out : Bytes} :
    Held [] s (State.readChunkEnd s w id n res out) := by
  unfold State.readChunkEnd
  repeat' first
    | with_reducible exact Held.refl
    | with_reducible apply Held.step State.storedIn_held
    | with_reducible apply Held.keep State.partDeliver_keeps
    | with_reducible apply Held.step State.taint_held
    | with_reducible apply Held.step State.finish_held
    | with_reducible apply Held.keep State.tagFailEvent_keeps
    | with_reducible apply Held.step State.endJobs_held
    | rfl
    | split

theorem State.readInlineEnd_held {s : State} {w : Wy} {id : Nat} {res : CryptResult} {out : Bytes} :
    Held [] s (State.readInlineEnd s w id res out) := by
  unfold State.readInlineEnd
  try dsimp only
  repeat' first
    | with_reducible exact Held.refl
    | with_reducible apply Held.keep State.tagFailEvent_keeps
    | with_reducible apply Held.step State.finish_held
    | with_reducible apply Held.keep State.deliver_keeps
    | rfl
    | split

theorem State.oldInlineEnd_held {s : State} {w : Wy} {id n : Nat} {res : CryptResult} {out : Bytes} :
    Held [] s (State.oldInlineEnd s w id n res out) := by
  unfold State.oldInlineEnd
  try dsimp only
  repeat' first
    | with_reducible exact Held.refl
    | with_reducible apply Held.step State.advanceOp_held
    | with_reducible apply Held.keep State.modOp_keeps
    | with_reducible apply Held.step State.writeFails_held
    | with_reducible apply Held.keep State.tagFailEvent_keeps
    | rfl
    | split

theorem State.issuer_held {s : State} {w : Wy} {j : CryptJob} {res : CryptResult} {out tag : Bytes} :
    Held [] s (State.issuer s w j res out tag) := by
  unfold State.issuer
  try dsimp only
  repeat' first
    | with_reducible exact Held.refl
    | with_reducible apply Held.step State.shipEnd_held
    | with_reducible apply Held.step State.landEnd_held
    | with_reducible apply Held.step State.oldInlineEnd_held
    | with_reducible apply Held.keep State.tagFailEvent_keeps
    | with_reducible apply Held.step State.sealedChunk_held
    | with_reducible apply Held.step State.readChunkEnd_held
    | with_reducible apply Held.step State.readInlineEnd_held
    | with_reducible apply Held.step State.repairChecked_held
    | with_reducible apply Held.step State.encryptFails_held
    | with_reducible apply Held.step State.sealedInline_held
    | rfl
    | split

theorem State.countResult_held {s : State} {w : Wy} {encrypt : Bool} {res : CryptResult} :
    Held [] s (State.countResult s w encrypt res) := by
  unfold State.countResult
  repeat' first
    | with_reducible exact Held.refl
    | with_reducible apply Held.bump
    | with_reducible apply Held.event
    | rfl
    | split

theorem State.endCrypt_held {s : State} {w : Wy} {j : CryptJob} {res : CryptResult} {out tag : Bytes} :
    Held [] s (State.endCrypt s w j res out tag) := by
  unfold State.endCrypt
  try dsimp only
  repeat' first
    | with_reducible exact Held.refl
    | with_reducible apply Held.keep State.resumeTile_keeps
    | with_reducible apply Held.step State.jobGone_held
    | with_reducible apply Held.step State.issuer_held
    | with_reducible apply Held.keep State.modCip_keeps
    | with_reducible apply Held.keep State.forgetRuns_keeps
    | with_reducible apply Held.step State.countResult_held
    | rfl
    | split

theorem State.cryptFault_held {s : State} {w : Wy} {t : Fin 128} {done : Nat} {j : CryptJob} :
    Held [] s (State.cryptFault s w t done j) := by
  unfold State.cryptFault
  try dsimp only
  repeat' first
    | with_reducible exact Held.refl
    | with_reducible apply Held.step State.jobGone_held
    | with_reducible apply Held.bump
    | with_reducible apply Held.keep State.noteRun_keeps
    | with_reducible apply Held.keep State.modJob_keeps
    | with_reducible apply Held.step State.endCrypt_held
    | rfl
    | split

theorem State.readFault_held {s : State} {w : Wy} {id n : Nat} {given : Bool} :
    Held [] s (State.readFault s w id n given) := by
  unfold State.readFault
  repeat' first
    | with_reducible exact Held.refl
    | with_reducible apply Held.step State.taint_held
    | with_reducible apply Held.step State.finish_held
    | with_reducible apply Held.step State.endJobs_held
    | with_reducible apply Held.step State.writeFails_held
    | rfl
    | split

theorem State.codecFault_held {s : State} {w : Wy} {t : Fin 128} {done : Nat} {j : CodecJob} :
    Held [] s (State.codecFault s w t done j) := by
  unfold State.codecFault
  try dsimp only
  repeat' first
    | with_reducible exact Held.refl
    | with_reducible apply Held.keep State.modCodec_keeps
    | with_reducible apply Held.step State.dispatchCodec_held
    | with_reducible apply Held.step State.jobGone_held
    | with_reducible apply Held.step State.readFault_held
    | with_reducible apply Held.keep State.decodedOut_keeps
    | with_reducible apply Held.bump
    | with_reducible apply Held.keep State.noteRun_keeps
    | with_reducible apply Held.step State.writeFails_held
    | with_reducible apply Held.keep State.forgetRuns_keeps
    | rfl
    | split

theorem State.pullFault_held {s : State} {w : Wy} {t : Fin 128} {id n : Nat} :
    Held [] s (State.pullFault s w t id n) := by
  unfold State.pullFault
  try dsimp only
  repeat' first
    | with_reducible exact Held.refl
    | with_reducible apply Held.keep State.noteRun_keeps
    | with_reducible apply Held.keep State.sendAcks_keeps
    | with_reducible apply Held.step State.writeFails_held
    | with_reducible apply Held.keep State.modQueue_keeps
    | with_reducible apply Held.keep State.modRelief_keeps
    | with_reducible apply Held.bump
    | with_reducible apply Held.keep State.pullAgain_keeps
    | rfl
    | split

theorem State.moveJobs_held {s : State} {w : Wy} {onTiles : Fin 128 → Bool} {away : Fin 16 → Fin 16} :
    Held [] s (State.moveJobs s w onTiles away) := by
  unfold State.moveJobs
  try dsimp only
  repeat' first
    | with_reducible exact Held.refl
    | with_reducible apply Held.step State.dispatchCodec_held
    | with_reducible apply Held.keep State.modCodec_keeps
    | with_reducible apply Held.keep State.modCip_keeps
    | rfl

theorem State.jobFault_held {s : State} {w : Wy} {t : Fin 128} {job : Option JobRef} {done : Nat} :
    Held [] s (State.jobFault s w t job done) := by
  unfold State.jobFault
  try dsimp only
  repeat' first
    | with_reducible exact Held.refl
    | with_reducible apply Held.step State.cryptFault_held
    | with_reducible apply Held.step State.codecFault_held
    | with_reducible apply Held.step State.pullFault_held
    | (with_reducible apply Held.foldl; intro _ _; try dsimp only)
    | rfl
    | split

end Sys2Proof.Machine
end

section
/-! PROOFS. A wythe stops, is reset, is restarted and is covered (R24-R31, R483, R485): what stands of it in the cover's state. -/

namespace Sys2Proof.Machine

/-! ### Which wythe runs, is held, is released -/

theorem Keeps.heldWy_eq {l : List Part} {s t : State} (h : Keeps l s t) (hl : .cover ∉ l) (w : Wy) : t.heldWy w = s.heldWy w := by
  cases w <;> simp only [State.heldWy, h.cover_eq hl]

theorem Keeps.released_eq {l : List Part} {s t : State} (h : Keeps l s t) (hl : .cover ∉ l) (w : Wy) : t.released w = s.released w := by
  cases w <;> simp only [State.released, h.cover_eq hl]

theorem Keeps.notice_eq {l : List Part} {s t : State} (h : Keeps l s t) (hl : .cover ∉ l) (w : Wy) : t.notice w = s.notice w := by
  cases w <;> simp only [State.notice, h.cover_eq hl]

theorem State.heldWy_congr {s t : State} (h : t.cover = s.cover) (w : Wy) : t.heldWy w = s.heldWy w := by
  cases w <;> simp only [State.heldWy, h]

theorem State.released_congr {s t : State} (h : t.cover = s.cover) (w : Wy) : t.released w = s.released w := by
  cases w <;> simp only [State.released, h]

theorem State.notice_congr {s t : State} (h : t.cover = s.cover) (w : Wy) : t.notice w = s.notice w := by
  cases w <;> simp only [State.notice, h]

theorem State.haltWythe_cover (s : State) (w : Wy) : (s.haltWythe w).cover = (s.setRun w false).cover := by
  unfold State.haltWythe
  dsimp only
  rw [State.peerChange_keeps.cover_eq (by decide), State.abortTests_keeps.cover_eq (by decide)]
  cases w <;> rfl

/-- A wythe that fails has sent its notice and runs no more. -/
theorem State.failWythe_fails {s : State} {w : Wy} (h : s.running w = true) :
    (s.failWythe w).running w = false ∧ (s.failWythe w).notice w = true := by
  have cover := State.haltWythe_cover ((s.setUnit (.glb w) .failed).setNotice w true) w
  rw [State.failWythe, if_pos h, State.running_congr cover, State.notice_congr cover]
  cases w <;> exact ⟨rfl, rfl⟩

theorem State.setRun_of_not_running {s : State} {w : Wy} (h : s.running w = false) : s.setRun w false = s := by
  cases w
  · have h : s.cover.run0 = false := h
    rw [State.setRun, ← h]
  · have h : s.cover.run1 = false := h
    rw [State.setRun, ← h]

theorem State.resetWythe_cover (s : State) (w : Wy) (cause : Nat) :
    (s.resetWythe w cause).cover = ((s.setRun w false).setNotice w false).cover := by
  have halted : (if s.running w then s.haltWythe w else s).cover = (s.setRun w false).cover := by
    split
    · exact State.haltWythe_cover s w
    next h => rw [State.setRun_of_not_running (by simpa using h)]
  have noticed : ∀ t : State, t.cover = (s.setRun w false).cover → (t.setNotice w false).cover = ((s.setRun w false).setNotice w false).cover := by
    intro t ht
    cases w
    · exact congrArg (fun c : Cover => { c with failNote0 := false }) ht
    · exact congrArg (fun c : Cover => { c with failNote1 := false }) ht
  unfold State.resetWythe
  dsimp only
  generalize (if s.running w then s.haltWythe w else s) = s1 at halted ⊢
  refine noticed _ ?_
  rw [← halted]
  cases w <;> rfl

theorem State.resetWythe_running (s : State) (w : Wy) (cause : Nat) : (s.resetWythe w cause).running w = false := by
  rw [State.running_congr (State.resetWythe_cover s w cause)]
  cases w <;> rfl

theorem State.resetWythe_start (s : State) (w : Wy) (cause : Nat) : ((s.resetWythe w cause).startOf w).cause = cause := by
  unfold State.resetWythe
  dsimp only
  rw [State.startOf, State.setNotice_keeps.start_eq (by decide)]
  cases w <;> rfl

theorem State.keys_congr {s t : State} (ha : t.plinth.ksA = s.plinth.ksA) (hb : t.plinth.ksB = s.plinth.ksB) : t.keys = s.keys := by
  rw [State.keys, ha, hb, State.keys]

theorem Keeps.keys_eq {l : List Part} {s t : State} (h : Keeps l s t) (hl : .plinth ∉ l) : t.keys = s.keys :=
  State.keys_congr (by rw [h.plinth_eq hl]) (by rw [h.plinth_eq hl])

theorem State.countRestart_keys (s : State) (w : Wy) : (s.countRestart w).keys = s.keys := by
  cases w <;> exact State.keys_congr rfl rfl

/-- A restarted wythe stands released at step 4 with the cause of its reset. -/
theorem State.restartWythe_restarts {s : State} (h : s.keys ≠ none) (w : Wy) (cause : Nat) :
    (s.restartWythe w cause).released w = true ∧ (s.restartWythe w cause).heldWy w = false ∧ (s.restartWythe w cause).running w = false
      ∧ ((s.restartWythe w cause).startOf w).step = 4 ∧ ((s.restartWythe w cause).startOf w).cause = cause := by
  have hkeys : ((s.resetWythe w cause).countRestart w).keys ≠ none := by
    rw [State.countRestart_keys, State.resetWythe_keeps.keys_eq (by decide)]
    exact h
  have hrun : ((s.resetWythe w cause).countRestart w).running w = false := by
    rw [State.countRestart_keeps.running_eq (by decide), State.resetWythe_running]
  have hcause : (((s.resetWythe w cause).countRestart w).startOf w).cause = cause := by
    rw [State.startOf, State.countRestart_keeps.start_eq (by decide), ← State.startOf, State.resetWythe_start]
  unfold State.restartWythe
  generalize (s.resetWythe w cause).countRestart w = t at hkeys hrun hcause ⊢
  have cover := State.releaseWythe_cover (w := w) hkeys
  have hstart : ((t.releaseWythe w).startOf w).cause = cause := by
    rw [State.startOf, State.releaseWythe_keeps.start_eq (by decide), ← State.startOf, hcause]
  generalize t.releaseWythe w = u at cover hstart ⊢
  have hcover : (u.modStart w (fun x => { x with step := 4 })).cover = ((t.setRel w true).setHeld w false).cover := by
    rw [← cover]
    cases w <;> rfl
  rw [State.released_congr hcover, State.heldWy_congr hcover, State.running_congr hcover]
  cases w
  · exact ⟨rfl, rfl, hrun, rfl, hstart⟩
  · exact ⟨rfl, rfl, hrun, rfl, hstart⟩

/-! ### Cover (R24, R28) -/

/-- A wythe that covers its peer holds it in reset. -/
theorem State.beginCover_covers (s : State) (w : Wy) (planned : Bool) (cause : Nat) :
    (s.beginCover w planned cause).cover.coverer = some w ∧ (s.beginCover w planned cause).heldWy w.peer = true
      ∧ (s.beginCover w planned cause).running w.peer = false := by
  unfold State.beginCover
  dsimp only
  generalize (if planned then s else s.abandonDrain) = s1
  generalize hs2 : (((s1.loseUnplaced w.peer).resetWythe w.peer cause).setHeld w.peer true).moveCommits w = s2
  have held : s2.heldWy w.peer = true ∧ s2.running w.peer = false := by
    rw [← hs2, State.moveCommits_keeps.heldWy_eq (by decide), State.moveCommits_keeps.running_eq (by decide)]
    have run := State.resetWythe_running (s1.loseUnplaced w.peer) w.peer cause
    generalize (s1.loseUnplaced w.peer).resetWythe w.peer cause = t at run ⊢
    cases w <;> exact ⟨rfl, run⟩
  have covered : ∀ t : State, t.cover = { s2.cover with coverer := some w, since := s.now, planned := planned, handingBack := false } →
      t.cover.coverer = some w ∧ t.heldWy w.peer = true ∧ t.running w.peer = false := by
    intro t ht
    refine ⟨by rw [ht], ?_, ?_⟩
    · rw [← held.1]
      cases w <;> simp only [State.heldWy, Wy.peer, ht]
    · rw [← held.2]
      cases w <;> simp only [State.running, Wy.peer, ht]
  refine covered _ ?_
  split
  on_goal 2 => rw [State.earlyWarn_keeps.cover_eq (by decide), State.event_keeps.cover_eq (by decide)]
  all_goals
    rw [State.powerEval_keeps.cover_eq (by decide), State.peerChange_keeps.cover_eq (by decide), State.abortTests_keeps.cover_eq (by decide),
      State.medBits_keeps.cover_eq (by decide), State.reopenPaused_keeps.cover_eq (by decide), State.settleSet_keeps.cover_eq (by decide),
      State.takeSet_keeps.cover_eq (by decide), State.resendCommits_keeps.cover_eq (by decide), State.seeHlc_keeps.cover_eq (by decide),
      State.coverChans_keeps.cover_eq (by decide)]

/-- A wythe that covers after a failure does so too, whatever it says of the tie. -/
theorem State.coverNow_covers (s : State) (w : Wy) :
    (s.coverNow w).cover.coverer = some w ∧ (s.coverNow w).heldWy w.peer = true ∧ (s.coverNow w).running w.peer = false := by
  have began := s.beginCover_covers w false 3
  unfold State.coverNow
  dsimp only
  generalize s.beginCover w false 3 = t at began ⊢
  have released : ∀ u : State, (u.cover.coverer = some w ∧ u.heldWy w.peer = true ∧ u.running w.peer = false) →
      ((u.setRel w.peer false).cover.coverer = some w ∧ (u.setRel w.peer false).heldWy w.peer = true
        ∧ (u.setRel w.peer false).running w.peer = false) := by
    intro u hu
    cases w <;> exact hu
  refine released _ ?_
  split
  · exact began
  · have failed : (t.tieFailure w).cover = { t.cover with tieFailed := true } := by
      unfold State.tieFailure
      dsimp only
      rw [State.record_keeps.cover_eq (by decide)]
      rfl
    obtain ⟨hcov, hheld, hrun⟩ := began
    refine ⟨by rw [failed, ← hcov], ?_, ?_⟩
    · rw [← hheld]
      cases w <;> simp only [State.heldWy, Wy.peer, failed]
    · rw [← hrun]
      cases w <;> simp only [State.running, Wy.peer, failed]

/-! ### The fault of a tile (R16, R32) -/

/-- The tile's second fault within 60 s leaves it FAILED and its marks as they were. -/
theorem State.tileFails_marks (s : State) (w : Wy) (t : Fin 128) (f : TileFault) :
    (s.tileFails w t f).unit (.til w t) = .failed
      ∧ ∀ off ∈ [TIL_LAST_FAULT, TIL_CNT_FAULT], (s.tileFails w t f).reg (.til w t) off = s.reg (.til w t) off := by
  have contained : UnitStays (.til w t) ((s.markFailed (.til w t)).setRfld (.til w t) PAGE_CTRL 2 2 1) (s.tileFails w t f) :=
    .trans (.pageError (.held State.moveJobs_held rfl .refl)) (State.contain_stays _)
  refine ⟨contained.unit.trans ((State.setRfld_ctrl_unit ..).trans (s.markFailed_unit _).1), fun off hoff => ?_⟩
  have hne : off ≠ PAGE_CTRL ∧ off ≠ PAGE_STATE ∧ off ∈ heldOffs .til := by
    simp only [List.mem_cons, List.not_mem_nil, or_false] at hoff
    obtain rfl | rfl := hoff <;> decide
  obtain ⟨hctrl, hstate, hheld⟩ := hne
  rw [contained.reg off hheld, State.setRfld, State.setReg_reg_of_off_ne hctrl, (s.markFailed_self (.til w t)).reg off hheld, State.modUjob_reg]
  exact State.setReg_reg_of_off_ne hstate

/-- A fault of a tile in use is marked on its page, and the second within 60 s leaves it FAILED. -/
theorem State.faultOn_marks {s : State} {w : Wy} {t : Fin 128} (hin : s.unit (.til w t) ≠ .offline) (f : TileFault) (job : Option JobRef)
    (done : Nat) :
    (s.faultOn w t f job done).reg (.til w t) TIL_LAST_FAULT = word (faultNum f)
      ∧ (s.faultOn w t f job done).reg (.til w t) TIL_CNT_FAULT = s.reg (.til w t) TIL_CNT_FAULT + 1
      ∧ (s.tileFaults.any (fun e => e.1 = w && e.2.1 = t.val && s.now < e.2.2 + sec 60) = true →
        (s.faultOn w t f job done).unit (.til w t) = .failed) := by
  unfold State.faultOn
  dsimp only
  rw [if_neg hin]
  generalize hs1 : (((s.setReg (.til w t) TIL_LAST_FAULT (word (faultNum f))).bump (.til w t) TIL_CNT_FAULT).event (.til w t)
    UNIT_EVT_FAULT) = s1
  generalize s1.tileFaults.filter (fun e : Wy × Nat × Nat => decide ¬(e.1 = w ∧ e.2.1 = t.val)) ++ [(w, t.val, s.now)] = faults
  have marked : s1.reg (.til w t) TIL_LAST_FAULT = word (faultNum f)
      ∧ s1.reg (.til w t) TIL_CNT_FAULT = s.reg (.til w t) TIL_CNT_FAULT + 1 := by
    rw [← hs1, State.event_reg_of_off_ne (by decide), State.event_reg_of_off_ne (by decide), State.bump_reg_self (by decide),
      State.bump_reg_of_off_ne (by decide) (by decide), State.setReg_reg_self, State.setReg_reg_of_off_ne (by decide)]
    exact ⟨rfl, rfl⟩
  have run : UnitStays (.til w t) { s1 with tileFaults := faults } (State.jobFault { s1 with tileFaults := faults } w t job done) :=
    .held State.jobFault_held rfl .refl
  generalize State.jobFault { s1 with tileFaults := faults } w t job done = s3 at run ⊢
  have hlast : s3.reg (.til w t) TIL_LAST_FAULT = word (faultNum f) := (run.reg _ (show TIL_LAST_FAULT ∈ heldOffs .til by decide)).trans marked.1
  have hcount : s3.reg (.til w t) TIL_CNT_FAULT = s.reg (.til w t) TIL_CNT_FAULT + 1 := (run.reg _ (show TIL_CNT_FAULT ∈ heldOffs .til by decide)).trans marked.2
  split
  · obtain ⟨hfailed, hmarks⟩ := s3.tileFails_marks w t f
    exact ⟨(hmarks _ (by simp)).trans hlast, (hmarks _ (by simp)).trans hcount, fun _ => hfailed⟩
  next h => exact ⟨hlast, hcount, fun h' => absurd h' h⟩

/-! ### The tie's lanes and the clocks -/

theorem State.tieTrain_cover (s : State) {lanes : Nat} (h : lanes < 16) :
    (s.tieTrain lanes).cover.tieUp = decide (8 ≤ lanes) ∧ (8 ≤ lanes → (s.tieTrain lanes).cover.lanes = 8) := by
  unfold State.tieTrain
  dsimp only
  by_cases hlt : lanes < 8
  · rw [if_pos hlt, State.event_keeps.cover_eq (by decide), State.event_keeps.cover_eq (by decide)]
    exact ⟨(decide_eq_false (by omega)).symm, fun h8 => absurd h8 (by omega)⟩
  · rw [if_neg hlt, if_pos h, if_neg (by decide), State.recordOpen_keeps.cover_eq (by decide), State.event_keeps.cover_eq (by decide),
      State.event_keeps.cover_eq (by decide)]
    exact ⟨(decide_eq_true (by omega)).symm, fun _ => rfl⟩

theorem State.failWythe_clk (s : State) (w : Wy) : UnitStays (.clk w) s (s.failWythe w) :=
  State.failWythe_stays (by simp) rfl s

end Sys2Proof.Machine

namespace Sys2Proof
open Sys2Proof.Machine

/-- Settles O44, failure by failure: the marks of a tile, the stop of a wythe, and the cover's state after its peer has begun to cover. -/
theorem failuresAreCovered : Obligations.FailuresAreCovered := by
  unfold Obligations.FailuresAreCovered
  intro w s
  refine ⟨fun tile f job done hrun hin => ?_, fun tile f job done hrun => ⟨?_, ?_⟩, fun lanes hup hlanes => ?_, fun hrun hup hrel hheld => ?_,
    fun hgone => ?_, fun hnot hgone => ?_, fun hgone => ?_, fun hsync hnote hup hcov hheld => ?_, fun hrun => ⟨fun hsync hcov => ?_,
    fun hno hkeys => ?_⟩, fun ppm hrun hup => ?_, fun hrun => ?_, fun c d => ⟨fun hrel => ?_, fun src harr => ⟨?_, ?_⟩⟩⟩
  · obtain ⟨hlast, hcount, hagain⟩ := State.faultOn_marks hin f job done
    refine runs_intro (congrArg Host.Outcome.next (if_neg (by simp [hrun]))) ⟨hlast, hcount, ?_⟩
    rintro ⟨at_, hmem, hat⟩
    exact hagain (List.any_eq_true.mpr ⟨_, hmem, by simp [show s.now < at_ + sec 60 from hat]⟩)
  · exact runs_intro (congrArg Host.Outcome.next (if_neg (by simp [hrun]))) (State.setReg_reg_self ..)
  · exact runs_intro (congrArg Host.Outcome.next (if_neg (by simp [hrun]))) (State.failWythe_fails hrun)
  · refine runs_intro (if_neg (by simp [hup]; omega)) ?_
    split
    next h =>
      have h : 8 ≤ lanes ∧ s.cover.lanes = 8 := by simpa using h
      rw [State.bumpBy_keeps.cover_eq (by decide), State.bumpBy_keeps.cover_eq (by decide)]
      exact ⟨hup.trans (decide_eq_true h.1).symm, fun _ => h.2⟩
    · exact State.tieTrain_cover _ hlanes
  · refine runs_intro (congrArg Host.Outcome.next (if_pos (by simp [hrun, hup, hrel, hheld]))) ?_
    refine Eq.trans ?_ (State.bumpBy_now s (.tie w.peer) TIE_CNT_HB_MISS ((s.now - s.lastHb w.peer) / us 100 - 1))
    generalize s.bumpBy (.tie w.peer) TIE_CNT_HB_MISS ((s.now - s.lastHb w.peer) / us 100 - 1) = t
    cases w <;> rfl
  · obtain ⟨hcov, hheld, hrun⟩ := State.coverNow_covers
      ((s.bumpBy (.tie .w0) TIE_CNT_HB_MISS ((s.now - s.lastHb .w0) / us 100)).event (.tie .w0) TIE_EVT_HB_LOST) .w0
    cases w
    · exact runs_intro (congrArg Host.Outcome.next (if_neg (by simp [hgone, ms])) ) ⟨fun _ => ⟨hcov, hheld, hrun⟩, nofun⟩
    · refine runs_intro (congrArg Host.Outcome.next (if_neg (by simp [hgone, ms]))) ⟨nofun, fun _ => ⟨State.event_sets_bit (by decide) .., ?_⟩⟩
      rw [State.event_keeps.cover_eq (by decide), State.bumpBy_keeps.cover_eq (by decide)]
      simp only [State.hbGone, Bool.and_eq_true] at hgone
      exact Option.isNone_iff_eq_none.mp hgone.1.1.2
  · refine runs_intro (congrArg Host.Outcome.next (if_neg (by simp [hnot, ms]))) ?_
    rw [if_pos (by simpa [ms] using hgone)]
    exact State.coverNow_covers s .w1
  · exact runs_intro (congrArg Host.Outcome.next (if_pos (by simpa [ms] using hgone))) (State.coverNow_covers s .w0)
  · exact runs_intro (if_pos (by simp [hsync, hnote, hup, hcov, hheld])) (State.coverNow_covers ..)
  · refine runs_intro ((if_neg (by simp [hrun])).trans (if_pos (by simp [hsync, hcov]))) ?_
    have hreset := State.resetWythe_running ((s.bump (.rst w) RST_CNT_WATCHDOG).failWythe w) w 4
    cases w <;> exact ⟨hreset, rfl⟩
  · refine runs_intro ((if_neg (by simp [hrun])).trans (if_neg (by rcases hno with h | h <;> simp [h]))) ?_
    obtain ⟨hrel, -, hrun, hstep, -⟩ := State.restartWythe_restarts (s := ((s.bump (.rst w) RST_CNT_WATCHDOG).failWythe w).resetWythe w 4)
      (by rwa [State.resetWythe_keeps.keys_eq (by decide), State.failWythe_keeps.keys_eq (by decide), State.bump_keeps.keys_eq (by decide)])
      w 4
    exact ⟨hrun, hrel, hstep⟩
  · generalize hs1 : ((s.setReg (.clk w) CLK_MON_PPM (word (ofSigned 16 ppm))).setRfld (.clk w) CLK_STATUS 3 3
      (b2n (decide (ppm.natAbs ≤ s.afld (.clk w) CLK_MON_CTRL 11 0)))) = s1
    have hppm : s1.reg (.clk w) CLK_MON_PPM = word (ofSigned 16 ppm) := by
      rw [← hs1, State.setRfld, State.setReg_reg_of_off_ne (by decide), State.setReg_reg_self]
    have hrun1 : s1.running w = true := by
      rw [← hs1, State.setRfld_keeps.running_eq (by decide), State.setReg_keeps.running_eq (by decide), hrun]
    have hexec : execClockMonitor w ppm s = .next (if ppm.natAbs ≤ s.afld (.clk w) CLK_MON_CTRL 11 0 then s1
        else ((s1.bump (.clk w) CLK_CNT_MON_FAIL).event (.clk w) CLK_EVT_MON_FAIL).failWythe w) := by
      unfold execClockMonitor
      simp only [hrun, hup, hs1]
      simp
    refine runs_intro hexec ?_
    split
    next hok =>
      refine ⟨hppm, fun _ => ⟨?_, hrun1⟩, fun h => absurd hok (by omega)⟩
      rw [← hs1, State.setRfld_rfld (by decide) (by decide) (by rw [decide_eq_true hok]; decide), decide_eq_true hok]
      rfl
    next hfar =>
      generalize hs2 : (s1.bump (.clk w) CLK_CNT_MON_FAIL).event (.clk w) CLK_EVT_MON_FAIL = s2
      have stays : UnitStays (.clk w) s1 s2 := hs2 ▸ .event (.bump rfl rfl .refl)
      have hrun2 : s2.running w = true := by
        rw [← hs2, State.event_keeps.running_eq (by decide), State.bump_keeps.running_eq (by decide), hrun1]
      refine ⟨?_, fun h => absurd h hfar, fun _ => State.failWythe_fails hrun2⟩
      rw [(s2.failWythe_clk w).reg _ (show CLK_MON_PPM ∈ heldOffs .clk by decide), stays.reg _ (show CLK_MON_PPM ∈ heldOffs .clk by decide), hppm]
  · refine runs_intro (congrArg Host.Outcome.next (if_pos hrun)) ?_
    generalize hs1 : ((s.setRfld (.clk w) CLK_STATUS 0 0 0).bump (.clk w) CLK_CNT_UNLOCK).event (.clk w) CLK_EVT_UNLOCK = s1
    have hcount : s1.reg (.clk w) CLK_CNT_UNLOCK = s.reg (.clk w) CLK_CNT_UNLOCK + 1 := by
      rw [← hs1, State.event_reg_of_off_ne (by decide), State.bump_reg_self (by decide), State.setRfld, State.setReg_reg_of_off_ne (by decide)]
    have hrun1 : s1.running w = true := by
      rw [← hs1, State.event_keeps.running_eq (by decide), State.bump_keeps.running_eq (by decide), State.setRfld_keeps.running_eq (by decide),
        hrun]
    obtain ⟨hstop, hnote⟩ := State.failWythe_fails hrun1
    refine ⟨hstop, hnote, ?_⟩
    rw [(s1.failWythe_clk w).reg _ (show CLK_CNT_UNLOCK ∈ heldOffs .clk by decide), hcount]
  · refine runs_intro (congrArg Host.Outcome.next (if_pos hrel)) ?_
    rw [State.dramError_keeps.plinth_eq (by decide), State.recordOpen_keeps.plinth_eq (by decide)]
    exact State.markDram_marks ..
  · exact runs_intro (congrArg Host.Outcome.next (State.gated_of_writeArrives harr)) (State.dramMark_marks s w)
  · exact runs_intro (congrArg Host.Outcome.next (State.gated_of_writeArrives harr)) (State.dramUnmark_marks s w)

end Sys2Proof
end

section
/-! PROOFS. Restarts, the hand-back and the RST page (R30, R409, R420, R485, R486). -/

namespace Sys2Proof.Machine

/-! ### The reset of a unit (R409, R420) -/

theorem tableGet?_filter_of_dropped {α : Type} (t : Table α) (f : Nat → Bool) {k : Nat} (h : f k = false) :
    tableGet? (t.filter (fun e => f e.1)) k = none := by
  induction t with
  | nil => rfl
  | cons e t ih =>
    rw [List.filter_cons]
    split
    next he =>
      have hne : e.1 ≠ k := by
        rintro rfl
        simp [h] at he
      exact (if_neg hne).trans ih
    · exact ih

/-- A register that is dropped has its reset value. -/
theorem State.dropRegs_reg_of_dropped {s : State} {f : Nat → Bool} {p : Page} {off : Nat} (h : f (pageKey p + off) = true) :
    (s.dropRegs f).reg p off = regReset p off :=
  congrArg (Option.getD · _) (tableGet?_filter_of_dropped s.regs (fun k => !f k) (by simp [h]))

theorem regReset_pageState (p : Page) : regReset p PAGE_STATE = 0 := by cases p <;> rfl

theorem self_mem_unitWithin (p : Page) : p ∈ unitWithin p := by cases p <;> simp [unitWithin]

/-- The pages that reset with a tile, a course or a panel are tiles', courses' and panels'. -/
theorem pageKind_unitWithin {p q : Page} (hp : pageKind p ∈ [.til, .crs, .pnl]) (hq : q ∈ unitWithin p) : pageKind q ∈ [.til, .crs, .pnl] := by
  cases p <;> simp only [unitWithin, pageKind, List.mem_cons, List.mem_append, List.mem_map, List.not_mem_nil, or_false] at hp hq ⊢
  case til => simp [hq]
  case crs => rcases hq with rfl | ⟨k, -, rfl⟩ <;> simp
  case pnl => rcases hq with (rfl | ⟨k, -, rfl⟩) | ⟨k, -, rfl⟩ <;> simp
  all_goals simp at hp

theorem foldl_modUjob_reg {f : UnitJob → UnitJob} (l : List Page) (s : State) (p : Page) (off : Nat) :
    (l.foldl (fun s q => s.modUjob q f) s).reg p off = s.reg p off := by
  induction l generalizing s with
  | nil => rfl
  | cons q l ih => exact (ih _).trans rfl

/-- The registers of the pages that reset with a unit are dropped, and no others. -/
theorem State.resetUnit_reg (s : State) (p q : Page) (off : Nat) :
    (s.resetUnit p).reg q off =
      (s.dropRegs (fun k => (unitWithin p).any (fun q => decide (pageKey q ≤ k) && decide (k < pageKey q + 0x1000)))).reg q off := by
  unfold State.resetUnit
  dsimp only
  rw [foldl_modUjob_reg]
  refine congrArg (Option.getD · _) (congrArg (tableGet? · _) ?_)
  exact congrArg (List.filter _) (State.unitDown_keeps.regs_eq (by decide))

theorem State.resetUnit_unit (s : State) (p : Page) : (s.resetUnit p).unit p = .offline := by
  have hdrop : (unitWithin p).any (fun q => decide (pageKey q ≤ pageKey p + PAGE_STATE) && decide (pageKey p + PAGE_STATE < pageKey q + 0x1000))
      = true :=
    List.any_eq_true.mpr ⟨p, self_mem_unitWithin p, by simp [PAGE_STATE]⟩
  rw [State.unit, State.rfld, State.resetUnit_reg, State.dropRegs_reg_of_dropped hdrop, regReset_pageState]
  rfl

theorem State.resetUnit_reg_of_kind (s : State) {p q : Page} {off : Nat} (hp : pageKind p ∈ [.til, .crs, .pnl])
    (hq : pageKind q ∉ [.til, .crs, .pnl]) (ho : off < 0x1000) : (s.resetUnit p).reg q off = s.reg q off := by
  rw [State.resetUnit_reg, State.dropRegs_reg]
  refine List.any_eq_false.mpr fun r hr h => hq ?_
  obtain ⟨hle, hlt⟩ : pageKey r ≤ pageKey q + off ∧ pageKey q + off < pageKey r + 0x1000 := by simpa using h
  have heq : pageKey q + off = pageKey r + (pageKey q + off - pageKey r) := by omega
  rw [pageKey_inj ho (by omega) heq]
  exact pageKind_unitWithin hp hr

theorem State.rstTarget_kind {s : State} {w : Wy} {p : Page} (h : s.rstTarget w = some p) : pageKind p ∈ [.til, .crs, .pnl] := by
  unfold State.rstTarget at h
  dsimp only at h
  split_ifs at h <;> cases h <;> simp [pageKind]

theorem UnitStays.bump_of_ne {p q : Page} {s t : State} {off : Nat} (hq : q ≠ p) (ho : Nat.blt off 0x1000 = true) (h : UnitStays p s t) :
    UnitStays p s (t.bump q off) := by
  unfold State.bump State.bumpBy
  dsimp only
  split
  · exact (h.setReg hq ho).event
  · exact h.setReg hq ho

/-! ### A restart takes no time -/

theorem State.anchorRaw_now (s : State) (i : Nat) (r : AnchorRec) : (s.anchorRaw i r).now = s.now := State.bump_now ..

theorem State.reserveSeq_now (s : State) (i : Nat) : (s.reserveSeq i).now = s.now := by
  unfold State.reserveSeq
  dsimp only
  split
  · exact State.anchorRaw_now ..
  · rfl

theorem State.tableSlice_now (s : State) (i : Nat) : (s.tableSlice i).now = s.now := by
  unfold State.tableSlice
  dsimp only
  split
  · rfl
  · rw [State.anchorRaw_now, State.reserveSeq_now]

theorem State.anchorRec_now (s : State) (i : Nat) (r : AnchorRec) : (s.anchorRec i r).now = s.now := by
  have written : (((s.tableSlice i).reserveSeq i).anchorRaw i r).now = s.now := by
    rw [State.anchorRaw_now, State.reserveSeq_now, State.tableSlice_now]
  have armed : ∀ e : EraseNote, ((((s.tableSlice i).reserveSeq i).anchorRaw i r).armErase e).now = s.now := by
    intro e
    unfold State.armErase
    rw [foldl_proj State.now]
    · exact written
    · exact fun _ _ _ => rfl
  unfold State.anchorRec
  dsimp only
  split
  · exact armed _
  · exact armed _
  · exact written

theorem State.unitDown_now (s : State) (p : Page) : (s.unitDown p).now = s.now := by
  unfold State.unitDown
  split
  · refine foldl_proj State.now (fun t c _ => ?_) s
    unfold State.giveChan
    dsimp only
    split_ifs <;> rfl
  · rfl

theorem State.markFailed_now (s : State) (p : Page) : (s.markFailed p).now = s.now := by
  unfold State.markFailed
  dsimp only
  rw [State.unitDown_now]
  split
  next w _ => cases w <;> rfl
  · rfl

theorem State.testShown_now (s : State) (p : Page) (code us_ : Nat) : (s.testShown p code us_).now = s.now := by
  have told : ∀ (t : State) (w : Wy), ((if unitEvents p then t.event p UNIT_EVT_TEST_DONE else t).event (.tst w) TST_EVT_DONE).now = t.now := by
    intro t w
    rw [State.event_now]
    split
    · exact State.event_now ..
    · rfl
  unfold State.testShown
  dsimp only
  split
  all_goals
    refine (told _ _).trans ?_
    split <;> rfl

theorem State.endTest_now (s : State) (p : Page) (code info us_ : Nat) : (s.endTest p code info us_).now = s.now := by
  cases h : (s.ujob p).test with
  | none => rw [State.endTest, h]
  | some x =>
    rw [State.endTest_of_test h]
    have shown := s.testShown_now p code us_
    generalize s.testShown p code us_ = t at shown ⊢
    unfold State.testLeaves
    dsimp only
    split_ifs
    · split
      · exact (State.anchorRec_now ..).trans shown
      · exact shown
    · exact (State.bump_now ..).trans shown
    · have failed : (((t.bump (.tst (s.testWy p)) TST_CNT_FAIL).event (.tst (s.testWy p)) TST_EVT_FAIL).pageError p code info 1).now = s.now :=
        (State.event_now ..).trans ((State.bump_now ..).trans shown)
      split
      · exact failed
      · exact (State.markFailed_now ..).trans failed

theorem State.haltWythe_now (s : State) (w : Wy) : (s.haltWythe w).now = s.now := by
  have told : ∀ (t : State) (v : Wy), (t.peerChange v).now = t.now := by
    intro t v
    unfold State.peerChange
    split
    · exact State.event_now ..
    · rfl
  unfold State.haltWythe
  dsimp only
  rw [told, State.abortTests, foldl_proj State.now fun t u _ => State.endTest_now ..]
  cases w <;> rfl

theorem State.resetWythe_now (s : State) (w : Wy) (cause : Nat) : (s.resetWythe w cause).now = s.now := by
  have halted : (if s.running w then s.haltWythe w else s).now = s.now := by
    split
    · exact State.haltWythe_now s w
    · rfl
  unfold State.resetWythe
  dsimp only
  generalize (if s.running w then s.haltWythe w else s) = t at halted ⊢
  rw [← halted]
  cases w <;> rfl

theorem State.releaseWythe_now (s : State) (w : Wy) : (s.releaseWythe w).now = s.now := by
  have taken : ∀ (t : State) (c : Nat), (if (t.chan c).owner = none then t.takeChannel w c else t).now = t.now := by
    intro t c
    split
    next h =>
      unfold State.takeChannel
      dsimp only
      rw [if_pos h, State.newOwner, State.event_now, State.bump_now]
      split <;> rfl
    · rfl
  have options : ∀ t : State, (t.optionRegs w).now = t.now := by
    intro t
    have shadow : ∀ (u : State) (p : Page) (off : Nat) (v : Word), (u.setShadow p off v).now = u.now := fun _ _ _ _ => rfl
    unfold State.optionRegs
    dsimp only
    split
    · rw [foldl_proj State.now fun u p _ => shadow .., shadow, shadow, shadow]
    · rw [State.modWall_now, foldl_proj State.now fun u p _ => shadow .., shadow, shadow, shadow]
  unfold State.releaseWythe
  split
  · rfl
  · dsimp only
    rw [foldl_proj State.now fun t c _ => taken t c, foldl_proj State.now (f := State.putOnline) fun t p _ => rfl]
    refine (options _).trans ?_
    cases w <;> rfl

theorem State.restartWythe_now (s : State) (w : Wy) (cause : Nat) : (s.restartWythe w cause).now = s.now := by
  have started : ∀ t : State, (t.modStart w (fun x => { x with step := 4 })).now = t.now := by
    intro t
    cases w <;> rfl
  rw [State.restartWythe, started, State.releaseWythe_now]
  exact State.resetWythe_now s w cause

theorem State.awaitRestart_restarts (s : State) (w : Wy) : (w, s.now) ∈ (s.awaitRestart w).plinth.restarts :=
  List.mem_append_right _ (List.mem_singleton.mpr rfl)

/-! ### A restart that fails (R486) -/

theorem State.rstEnd_ite_cover (c : Prop) [Decidable c] (s : State) (w : Wy) (last : Nat) :
    (if c then s.rstEnd w last 0 else s).cover = s.cover := by
  split
  · exact State.rstEnd_keeps.cover_eq (by decide)
  · rfl

theorem execRestartTimeout_holds {w : Wy} {s : State} {at_ : Nat} (hfind : s.plinth.restarts.find? (fun r => r.1 = w) = some (w, at_))
    (hat : at_ + 600000000000 ≤ s.now) :
    ∃ t, execRestartTimeout w s = .next t ∧ t.heldWy w = true ∧ t.released w = false ∧ t.running w = false := by
  have hlate : (!s.since at_ (sec 600)) = false := by rw [(State.since_sec s at_ 600).mpr hat]; rfl
  have hreset := State.resetWythe_running (s.restartDone w) w 3
  have held : ∀ (u t : State) (n : Nat), u.running w = false → t.cover = { ((u.setHeld w true).setRel w false).cover with since := n } →
      t.heldWy w = true ∧ t.released w = false ∧ t.running w = false := by
    intro u t n hu ht
    cases w
    · exact ⟨by rw [State.heldWy, ht]; rfl, by rw [State.released, ht]; rfl, by rw [State.running, ht]; exact hu⟩
    · exact ⟨by rw [State.heldWy, ht]; rfl, by rw [State.released, ht]; rfl, by rw [State.running, ht]; exact hu⟩
  have left_ : ∀ (c : Prop) [Decidable c] (t : State) (f : Plinth → Plinth) (d : Bytes),
      (if c then (t.modPlinth f).recordOpen 0 3 (.rst w) d else t).cover = t.cover := by
    intro c _ t f d
    split
    · rw [State.recordOpen_keeps.cover_eq (by decide), State.modPlinth_cover]
    · rfl
  unfold execRestartTimeout
  rw [hfind]
  simp only [hlate]
  generalize (s.restartDone w).resetWythe w 3 = u at hreset ⊢
  refine ⟨_, rfl, held u _ s.now hreset ?_⟩
  exact (left_ _ _ _ _).trans (State.rstEnd_ite_cover _ _ _ _)

/-! ### The hand-back (R30) -/

/-- With no commit left for the paused partitions, the coverer hands back at once. -/
theorem State.handBackDue_returns {s : State} {p : Wy} (hcov : s.cover.coverer = some p) (hback : s.cover.handingBack = true)
    (hrun : s.running p.peer = true) (hcommits : ∀ c ∈ (s.wy p).relief.commits, wyOfPart c.part = p)
    (hparts : ∀ x ∈ s.store.parts, wyOfPart x.p = p.peer → x.opened = false) :
    s.handBackDue.cover.coverer = none ∧ s.handBackDue.cover.handingBack = false := by
  have hnone : (s.wy p).relief.commits.any (fun c => decide (wyOfPart c.part = p.peer)) = false :=
    List.any_eq_false.mpr fun c hc => by simp [hcommits c hc, (Wy.peer_ne_self p).symm]
  have hclosed : (s.store.parts.filter (fun x => decide (wyOfPart x.p = p.peer))).any (fun x => x.opened) = false :=
    List.any_eq_false.mpr fun x hx => by
      obtain ⟨hx, hp⟩ := List.mem_filter.mp hx
      simp [hparts x hx (of_decide_eq_true hp)]
  unfold State.handBackDue
  rw [hcov]
  simp only
  rw [if_neg (by simp only [hback, hrun, hnone, hclosed]; decide)]
  rw [State.powerEval_keeps.cover_eq (by decide), State.peerChange_keeps.cover_eq (by decide), State.peerChange_keeps.cover_eq (by decide),
    State.rstEnd_ite_cover, State.rstEnd_ite_cover, State.event_keeps.cover_eq (by decide), State.medBits_keeps.cover_eq (by decide), State.medBits_keeps.cover_eq (by decide),
    foldl_proj State.cover fun t x _ => State.openReady_keeps.cover_eq (by decide), foldl_proj State.cover,
    State.setRfld_keeps.cover_eq (by decide), State.seeHlc_keeps.cover_eq (by decide), State.moveUploads_keeps.cover_eq (by decide)]
  · exact ⟨rfl, rfl⟩
  · intro t c _
    split
    · rw [State.releaseDone_keeps.cover_eq (by decide), State.modChan_keeps.cover_eq (by decide)]
    · rfl

end Sys2Proof.Machine

namespace Sys2Proof
open Sys2Proof.Machine

/-- Settles O45, restart by restart: a restarted wythe is released at step 4 with its cause (`State.restartWythe_restarts`), a unit's reset
drops its registers alone. -/
theorem restartsAct : Obligations.RestartsAct := by
  unfold Obligations.RestartsAct
  intro w s
  refine ⟨fun hcov hup hok htie hheld hleft hsince htherm hlatch hkeys => ?_, fun at_ hfind hat => ?_, fun hcov hback hrun hcommits => ?_,
    fun src v harr hidle => ⟨fun p hreq htarget hst => ?_, fun hreq hsync hcov hplinth hact hrestart hback => ?_,
      fun hreq hcov hheld hplinth htie hkeys => ?_⟩⟩
  · have hexec : execCrossResetClear s = .next ((s.restartWythe w.peer 2).awaitRestart w.peer) := by
      unfold execCrossResetClear
      rw [hcov]
      exact congrArg Host.Outcome.next (if_pos (by simp [hup, hok, htie, hheld, hleft, htherm, hlatch, (State.since_sec s s.cover.since 2).mpr hsince]))
    obtain ⟨hrel, hfree, -, hstep, hcause⟩ := State.restartWythe_restarts hkeys w.peer 2
    refine runs_intro hexec ⟨?_, ?_, ?_, ?_, ?_⟩
    · rw [State.awaitRestart_keeps.released_eq (by decide), hrel]
    · rw [State.awaitRestart_keeps.heldWy_eq (by decide), hfree]
    · rw [State.startOf, State.awaitRestart_keeps.start_eq (by decide), ← State.startOf, hstep]
    · rw [State.startOf, State.awaitRestart_keeps.start_eq (by decide), ← State.startOf, hcause]
    · rw [← State.restartWythe_now s w.peer 2]
      exact State.awaitRestart_restarts ..
  · exact execRestartTimeout_holds hfind hat
  · have hexec : execHandBack s = .next ((s.pauseParts w.peer).handBackDue) := by
      unfold execHandBack
      rw [hcov]
      exact congrArg Host.Outcome.next (if_pos hback)
    refine runs_intro hexec (State.handBackDue_returns hcov hback hrun hcommits fun x hx hp => ?_)
    obtain ⟨y, -, rfl⟩ := List.mem_map.mp hx
    split at hp
    next h => rw [if_pos h]
    next h => exact absurd hp h
  · have hexec : s.writeRstReq src w v = ((s.resetUnit p).bump (.rst w) RST_CNT_UNIT).rstEnd w 1 0 := by
      rw [State.writeRstReq, State.gated_of_writeArrives harr]
      have hst : (s.unit p = .quiesced || s.unit p = .bypassed || s.unit p = .failed) = true := by
        rcases hst with h | h | h <;> simp [h]
      simp only [State.putRstReq, hreq, hidle, State.rstUnit, htarget, hst]
      simp
    have hp := State.rstTarget_kind htarget
    have hrst : Page.rst w ≠ p := by
      rintro rfl
      simp [pageKind] at hp
    refine runs_intro (congrArg Host.Outcome.next hexec) ⟨?_, ?_⟩
    · have stays : UnitStays p (s.resetUnit p) (((s.resetUnit p).bump (.rst w) RST_CNT_UNIT).rstEnd w 1 0) :=
        .event (.setReg hrst rfl (.bump_of_ne hrst rfl .refl))
      exact stays.unit.trans (s.resetUnit_unit p)
    · have ended : ∀ t : State, (t.rstEnd w 1 0).reg (.rst w) RST_CNT_UNIT = t.reg (.rst w) RST_CNT_UNIT := by
        intro t
        rw [State.rstEnd, State.event_reg_of_off_ne (by decide), State.setReg_reg_of_off_ne (by decide)]
      rw [ended, State.bump_reg_self (by decide), s.resetUnit_reg_of_kind hp (by simp [pageKind]) (by decide)]
  · have hexec : s.writeRstReq src w v =
        ((s.rstBusy w).modFw (fun y => { y with restart := some w })).announceDrain w true (s.afld (.fwu w) FWU_CTRL 15 0) := by
      rw [State.writeRstReq, State.gated_of_writeArrives harr]
      simp [State.putRstReq, hreq, hidle, State.rstSelf, hsync, hcov, hplinth, hact, hrestart, hback]
    refine runs_intro (congrArg Host.Outcome.next hexec) ⟨?_, ?_, ?_⟩
    · rw [State.announceDrain_keeps.fw_eq (by decide)]
      rfl
    · rw [State.announceDrain_relief, if_pos rfl]
      rfl
    · rw [State.announceDrain_keeps.rfld_eq (by decide)]
      exact State.setRfld_rfld_low (by decide) (by decide)
  · have hexec : s.writeRstReq src w v = ((s.rstBusy w).restartWythe w.peer 6).awaitRestart w.peer := by
      rw [State.writeRstReq, State.gated_of_writeArrives harr]
      simp [State.putRstReq, hreq, hidle, State.rstPeer, hcov, hheld, hplinth, htie]
    obtain ⟨hrel, -, -, hstep, hcause⟩ := State.restartWythe_restarts (s := s.rstBusy w) hkeys w.peer 6
    refine runs_intro (congrArg Host.Outcome.next hexec) ⟨?_, ?_, ?_, ?_⟩
    · rw [State.awaitRestart_keeps.released_eq (by decide), hrel]
    · rw [State.startOf, State.awaitRestart_keeps.start_eq (by decide), ← State.startOf, hstep]
    · rw [State.startOf, State.awaitRestart_keeps.start_eq (by decide), ← State.startOf, hcause]
    · have hnow : ((s.rstBusy w).restartWythe w.peer 6).now = s.now := State.restartWythe_now ..
      rw [← hnow]
      exact State.awaitRestart_restarts ..

end Sys2Proof
end

section
/-! PROOFS. What stays of a set of dies while its superblocks are written, folded, collected and erased: its share, its anchor copies, its
key area, the state of its start and of its dump. -/

namespace Sys2Proof.Machine

/-- A set but for its superblocks, its map and journal, its anchor's records and the work that waits. -/
def SetSt.core (x : SetSt) : SetSt :=
  { x with
    seqNext := 0, seqThru := 0, nextSb := 0, sbs := [], msn := [], lowSince := none, idleSince := none, slcLow := false, foldFirst := false
    map := [], unflushed := [], nextSeg := 0, segs := [], ckptStart := 0, deltaBytes := 0, anchor := [], dieRebuild := []
    reserveErase := [], reserveMoved := [], rebuildRanges := [], waiting := [], dumpMiB := 0, dumpWhole := false, image := none, dumpKept := none }

def SetsKeep (s t : State) : Prop := ∀ i, (t.set_ i).core = (s.set_ i).core

theorem SetsKeep.refl {s : State} : SetsKeep s s := fun _ => rfl

theorem SetsKeep.step {s t u : State} (k : SetsKeep t u) (h : SetsKeep s t) : SetsKeep s u := fun i => (k i).trans (h i)

theorem SetsKeep.keep {l : List Part} {s t u : State} (k : Keeps l t u) (hl : l.contains .media = false) (h : SetsKeep s t) : SetsKeep s u := by
  have e : u.media = t.media := k.part .media (by simpa using hl)
  exact .step (fun i => by rw [State.set_, e, State.set_]) h

theorem SetsKeep.modMedia {s t : State} {f : Media → Media}
    (hf : ∀ m, (f m).set0.core = m.set0.core ∧ (f m).set1.core = m.set1.core) (h : SetsKeep s t) : SetsKeep s (t.modMedia f) := by
  obtain ⟨h0, h1⟩ := hf t.media
  refine .step (fun i => ?_) h
  simp only [State.set_, State.modMedia_media]
  split
  · exact h0
  · exact h1

theorem SetsKeep.modSet {s t : State} {i : Nat} {f : SetSt → SetSt} (hf : ∀ x, (f x).core = x.core) (h : SetsKeep s t) :
    SetsKeep s (t.modSet i f) := by
  refine h.modMedia fun m => ?_
  split
  · exact ⟨hf _, rfl⟩
  · exact ⟨rfl, hf _⟩

theorem SetsKeep.foldl {α : Type} {s u : State} {f : State → α → State} {xs : List α} (hf : ∀ v a, SetsKeep v (f v a))
    (h : SetsKeep s u) : SetsKeep s (xs.foldl f u) := by
  induction xs generalizing u with
  | nil => exact h
  | cons a xs ih => exact ih ((hf u a).step h)

theorem SetsKeep.ite {s t u : State} {c : Prop} [Decidable c] (ht : SetsKeep s t) (hu : SetsKeep s u) : SetsKeep s (if c then t else u) := by
  split
  · exact ht
  · exact hu

theorem State.modChan_sets {s : State} {c : Nat} {f : ChanSt → ChanSt} :
    SetsKeep s (State.modChan s c f) := by
  unfold State.modChan
  try dsimp only
  repeat' first
    | with_reducible exact SetsKeep.refl
    | with_reducible apply SetsKeep.modMedia
    | rfl
    | (intro _; exact ⟨rfl, rfl⟩)

theorem State.modDie_sets {s : State} {d : Nat} {f : DieSt → DieSt} :
    SetsKeep s (State.modDie s d f) := by
  unfold State.modDie
  try dsimp only
  repeat' first
    | with_reducible exact SetsKeep.refl
    | with_reducible apply SetsKeep.modMedia
    | rfl
    | (intro _; exact ⟨rfl, rfl⟩)

theorem State.modBlk_sets {s : State} {k : Nat} {f : Blk → Blk} :
    SetsKeep s (State.modBlk s k f) := by
  unfold State.modBlk
  try dsimp only
  repeat' first
    | with_reducible exact SetsKeep.refl
    | with_reducible apply SetsKeep.modMedia
    | rfl
    | (intro _; exact ⟨rfl, rfl⟩)

theorem State.chanUnknown_sets {s : State} {c : Nat} :
    SetsKeep s (State.chanUnknown s c) := by
  unfold State.chanUnknown
  try dsimp only
  repeat' first
    | with_reducible exact SetsKeep.refl
    | with_reducible apply SetsKeep.modMedia
    | rfl
    | (intro _; exact ⟨rfl, rfl⟩)

theorem State.modCh_sets {s : State} {id : Nat} {f : ChJob → ChJob} :
    SetsKeep s (State.modCh s id f) := by
  unfold State.modCh
  try dsimp only
  repeat' first
    | with_reducible exact SetsKeep.refl
    | with_reducible apply SetsKeep.modMedia
    | rfl
    | (intro _; exact ⟨rfl, rfl⟩)

theorem State.startOp_sets {s : State} {j : ChJob} :
    SetsKeep s (State.startOp s j) := by
  unfold State.startOp
  try dsimp only
  repeat' first
    | with_reducible exact SetsKeep.refl
    | with_reducible apply SetsKeep.keep State.bump_keeps
    | with_reducible apply SetsKeep.modMedia
    | with_reducible apply SetsKeep.keep State.bumpBy_keeps
    | with_reducible apply SetsKeep.step State.modCh_sets
    | with_reducible apply SetsKeep.keep State.chResult_keeps
    | rfl
    | (intro _; exact ⟨rfl, rfl⟩)
    | split

theorem State.grantMin_sets {s : State} {w : Wy} {panel : Nat} {cls : List Nat} :
    SetsKeep s (State.grantMin s w panel cls) := by
  unfold State.grantMin
  try dsimp only
  repeat' first
    | with_reducible exact SetsKeep.refl
    | with_reducible apply SetsKeep.step State.startOp_sets
    | rfl
    | split

theorem State.grantRest_sets {s : State} {w : Wy} {panel : Nat} {x1 : List (List Nat)} :
    SetsKeep s (State.grantRest s w panel x1) := by
  induction x1 generalizing s with
  | nil => exact .refl
  | cons a l ih =>
    unfold State.grantRest
    try dsimp only
    repeat' first
      | with_reducible apply SetsKeep.refl
      | with_reducible assumption
      | with_reducible apply SetsKeep.step ih
      | with_reducible apply SetsKeep.step State.startOp_sets
      | rfl
      | split

theorem State.grantDump_sets {s : State} {panel : Nat} :
    SetsKeep s (State.grantDump s panel) := by
  unfold State.grantDump
  try dsimp only
  repeat' first
    | with_reducible exact SetsKeep.refl
    | with_reducible apply SetsKeep.step State.startOp_sets
    | (with_reducible apply SetsKeep.foldl; intro _ _; try dsimp only)
    | rfl
    | split

theorem State.grant_sets {s : State} {w : Wy} {panel : Nat} :
    SetsKeep s (State.grant s w panel) := by
  unfold State.grant
  try dsimp only
  repeat' first
    | with_reducible exact SetsKeep.refl
    | with_reducible apply SetsKeep.step State.grantMin_sets
    | with_reducible apply SetsKeep.step State.grantRest_sets
    | with_reducible apply SetsKeep.step State.grantDump_sets
    | (with_reducible apply SetsKeep.foldl; intro _ _; try dsimp only)
    | rfl
    | split

theorem State.nextRead_sets {s : State} {op : ChJob} :
    SetsKeep s (State.nextRead s op) := by
  unfold State.nextRead
  try dsimp only
  repeat' first
    | with_reducible exact SetsKeep.refl
    | with_reducible apply SetsKeep.step State.modCh_sets
    | rfl
    | split

theorem State.trySuspend_sets {s : State} {op : ChJob} :
    SetsKeep s (State.trySuspend s op) := by
  unfold State.trySuspend
  try dsimp only
  repeat' first
    | with_reducible exact SetsKeep.refl
    | with_reducible apply SetsKeep.keep State.bump_keeps
    | with_reducible apply SetsKeep.step State.modCh_sets
    | with_reducible apply SetsKeep.step State.nextRead_sets
    | rfl
    | split

theorem State.suspendDue_sets {s : State} :
    SetsKeep s (State.suspendDue s) := by
  unfold State.suspendDue
  try dsimp only
  repeat' first
    | with_reducible exact SetsKeep.refl
    | with_reducible apply SetsKeep.step State.trySuspend_sets
    | (with_reducible apply SetsKeep.foldl; intro _ _; try dsimp only)

theorem State.chTake_sets {s : State} {j : ChJob} :
    SetsKeep s (State.chTake s j) := by
  unfold State.chTake
  try dsimp only
  repeat' first
    | with_reducible exact SetsKeep.refl
    | with_reducible apply SetsKeep.keep State.bump_keeps
    | with_reducible apply SetsKeep.modMedia
    | with_reducible apply SetsKeep.step State.modCh_sets
    | with_reducible apply SetsKeep.keep State.chResult_keeps
    | with_reducible apply SetsKeep.step State.grant_sets
    | with_reducible apply SetsKeep.step State.suspendDue_sets
    | rfl
    | (intro _; exact ⟨rfl, rfl⟩)
    | split

theorem State.submit_sets {s : State} {w : Wy} {rt : Routine} {r : ChReq} {what : ChFor} :
    SetsKeep s (State.submit s w rt r what) := by
  unfold State.submit
  try dsimp only
  repeat' first
    | with_reducible exact SetsKeep.refl
    | with_reducible apply SetsKeep.keep State.bump_keeps
    | with_reducible apply SetsKeep.modMedia
    | with_reducible apply SetsKeep.step State.chTake_sets
    | with_reducible apply SetsKeep.keep State.event_keeps
    | rfl
    | (intro _; exact ⟨rfl, rfl⟩)
    | split

theorem State.armErase_sets {s : State} {e : EraseNote} :
    SetsKeep s (State.armErase s e) := by
  unfold State.armErase
  try dsimp only
  repeat' first
    | with_reducible exact SetsKeep.refl
    | with_reducible apply SetsKeep.step State.modBlk_sets
    | (with_reducible apply SetsKeep.foldl; intro _ _; try dsimp only)

theorem State.modSb_sets {s : State} {i sb : Nat} {f : SuperBlk → SuperBlk} :
    SetsKeep s (State.modSb s i sb f) := by
  unfold State.modSb
  try dsimp only
  repeat' first
    | with_reducible exact SetsKeep.refl
    | with_reducible apply SetsKeep.modSet
    | rfl
    | (intro _; rfl)

theorem State.modRound_sets {s : State} {i sb wl : Nat} {f : Round → Round} :
    SetsKeep s (State.modRound s i sb wl f) := by
  unfold State.modRound
  try dsimp only
  repeat' first
    | with_reducible exact SetsKeep.refl
    | with_reducible apply SetsKeep.step State.modSb_sets

theorem State.anchorRaw_sets {s : State} {i : Nat} {r : AnchorRec} :
    SetsKeep s (State.anchorRaw s i r) := by
  unfold State.anchorRaw
  try dsimp only
  repeat' first
    | with_reducible exact SetsKeep.refl
    | with_reducible apply SetsKeep.keep State.bump_keeps
    | with_reducible apply SetsKeep.modSet
    | rfl
    | (intro _; rfl)

theorem State.reserveSeq_sets {s : State} {i : Nat} :
    SetsKeep s (State.reserveSeq s i) := by
  unfold State.reserveSeq
  try dsimp only
  repeat' first
    | with_reducible exact SetsKeep.refl
    | with_reducible apply SetsKeep.step State.anchorRaw_sets
    | with_reducible apply SetsKeep.modSet
    | rfl
    | (intro _; rfl)
    | split

theorem State.takeSeq_sets {s : State} {i : Nat} :
    SetsKeep s (State.takeSeq s i) := by
  unfold State.takeSeq
  try dsimp only
  repeat' first
    | with_reducible exact SetsKeep.refl
    | with_reducible apply SetsKeep.modSet
    | with_reducible apply SetsKeep.step State.reserveSeq_sets
    | rfl
    | (intro _; rfl)

theorem State.tableSlice_sets {s : State} {i : Nat} :
    SetsKeep s (State.tableSlice s i) := by
  unfold State.tableSlice
  try dsimp only
  repeat' first
    | with_reducible exact SetsKeep.refl
    | with_reducible apply SetsKeep.step State.anchorRaw_sets
    | with_reducible apply SetsKeep.step State.reserveSeq_sets
    | rfl
    | split

theorem State.anchorRec_sets {s : State} {i : Nat} {r : AnchorRec} :
    SetsKeep s (State.anchorRec s i r) := by
  unfold State.anchorRec
  try dsimp only
  repeat' first
    | with_reducible exact SetsKeep.refl
    | with_reducible apply SetsKeep.step State.tableSlice_sets
    | with_reducible apply SetsKeep.step State.anchorRaw_sets
    | with_reducible apply SetsKeep.step State.reserveSeq_sets
    | with_reducible apply SetsKeep.step State.armErase_sets
    | rfl
    | split

theorem State.openSb_sets {s t : State} {i row : Nat} {st : Stream} (h : State.openSb s i row st = some t) :
    SetsKeep s t := by
  unfold State.openSb at h
  dsimp only at h
  split at h
  · cases h
  · obtain ⟨b, -, rfl⟩ := Option.map_eq_some_iff.mp h
    repeat' first
      | with_reducible apply SetsKeep.refl
      | with_reducible assumption
      | with_reducible apply SetsKeep.step State.modBlk_sets
      | with_reducible apply SetsKeep.modSet
      | with_reducible apply SetsKeep.step State.anchorRec_sets
      | (with_reducible apply SetsKeep.foldl; intro _ _; try dsimp only)
      | rfl
      | (intro _; rfl)

theorem State.openSome_sets {s t : State} {i : Nat} {st : Stream} (h : State.openSome s i st = some t) : SetsKeep s t := by
  unfold State.openSome at h
  dsimp only at h
  split at h
  · exact .step (State.openSb_sets h) (.keep State.used_keeps rfl .refl)
  · cases h

theorem State.beginRound_sets {s : State} {i : Nat} {b : SuperBlk} {cls : Nat} :
    SetsKeep s (State.beginRound s i b cls) := by
  unfold State.beginRound
  try dsimp only
  repeat' first
    | with_reducible exact SetsKeep.refl
    | with_reducible apply SetsKeep.modSet
    | with_reducible apply SetsKeep.step State.modSb_sets
    | rfl
    | (intro _; rfl)

theorem State.closeRound_sets {s : State} {i sb : Nat} :
    SetsKeep s (State.closeRound s i sb) := by
  unfold State.closeRound
  try dsimp only
  repeat' first
    | with_reducible exact SetsKeep.refl
    | with_reducible apply SetsKeep.keep State.bumpBy_keeps
    | with_reducible apply SetsKeep.step State.modRound_sets
    | with_reducible apply SetsKeep.step State.takeSeq_sets
    | with_reducible apply SetsKeep.step State.submit_sets
    | (with_reducible apply SetsKeep.foldl; intro _ _; try dsimp only)
    | rfl
    | split

theorem State.takesUnit_sets {s t : State} {i : Nat} {st : Stream} {b : SuperBlk} (h : State.takesUnit s i st = some (t, b)) :
    SetsKeep s t := by
  unfold State.takesUnit at h
  dsimp only at h
  split at h
  · cases h
    exact .refl
  · split at h
    · rename_i hv
      obtain ⟨c, -, he⟩ := Option.map_eq_some_iff.mp h
      cases he
      split at hv
      · exact State.openSome_sets hv
      · cases hv
    · obtain ⟨c, -, he⟩ := Option.map_eq_some_iff.mp h
      cases he
      split
      · exact .refl
      · exact .keep State.used_keeps rfl .refl

theorem State.fillUnit_sets {s : State} {i cls : Nat} {b : SuperBlk} {u : UnitRef} :
    SetsKeep s (State.fillUnit s i cls b u) := by
  unfold State.fillUnit
  try dsimp only
  repeat' first
    | with_reducible exact SetsKeep.refl
    | with_reducible apply SetsKeep.step State.beginRound_sets
    | with_reducible apply SetsKeep.step State.modSb_sets
    | with_reducible apply SetsKeep.step State.closeRound_sets
    | rfl
    | split

theorem State.placeUnit_sets {s t : State} {i : Nat} {st : Stream} {cls : Nat} {u : UnitRef}
    (h : State.placeUnit s i st cls u = some t) : SetsKeep s t := by
  obtain ⟨e, he, rfl⟩ := Option.map_eq_some_iff.mp h
  exact .step State.fillUnit_sets (.step (State.takesUnit_sets (b := e.2) he) .refl)

theorem State.slcMarks_sets {s : State} {i : Nat} :
    SetsKeep s (State.slcMarks s i) := by
  unfold State.slcMarks
  try dsimp only
  repeat' first
    | with_reducible exact SetsKeep.refl
    | with_reducible apply SetsKeep.keep State.medBits_keeps
    | with_reducible apply SetsKeep.modSet
    | with_reducible apply SetsKeep.keep State.event_keeps
    | rfl
    | (intro _; rfl)
    | split

theorem State.placeUnits_sets {s : State} {i : Nat} {st : Stream} {cls : Nat} {x1 : List UnitRef} :
    SetsKeep s (State.placeUnits s i st cls x1) := by
  induction x1 generalizing s with
  | nil => exact .step State.slcMarks_sets .refl
  | cons a l ih =>
    unfold State.placeUnits
    try dsimp only
    repeat' first
      | with_reducible apply SetsKeep.refl
      | with_reducible assumption
      | with_reducible apply SetsKeep.step ih
      | with_reducible apply SetsKeep.step (State.placeUnit_sets (by assumption))
      | with_reducible apply SetsKeep.step (State.placeUnit_sets (by assumption))
      | with_reducible apply SetsKeep.modSet
      | with_reducible apply SetsKeep.step State.slcMarks_sets
      | rfl
      | (intro _; rfl)
      | split

theorem State.mapPlace_sets {s : State} {i : Nat} {l : List Extent} :
    SetsKeep s (State.mapPlace s i l) := by
  unfold State.mapPlace
  try dsimp only
  repeat' first
    | with_reducible exact SetsKeep.refl
    | with_reducible apply SetsKeep.modSet
    | rfl
    | (intro _; rfl)

theorem State.mapDrop_sets {s : State} {i typ owner gen : Nat} :
    SetsKeep s (State.mapDrop s i typ owner gen) := by
  unfold State.mapDrop
  try dsimp only
  repeat' first
    | with_reducible exact SetsKeep.refl
    | with_reducible apply SetsKeep.modSet
    | rfl
    | (intro _; rfl)

theorem State.segsDurable_sets {s : State} {i : Nat} :
    SetsKeep s (State.segsDurable s i) := by
  unfold State.segsDurable
  try dsimp only
  repeat' first
    | with_reducible exact SetsKeep.refl
    | with_reducible apply SetsKeep.modSet
    | with_reducible apply SetsKeep.step State.anchorRec_sets
    | with_reducible apply SetsKeep.step State.mapDrop_sets
    | (with_reducible apply SetsKeep.foldl; intro _ _; try dsimp only)
    | rfl
    | (intro _; rfl)
    | split

theorem State.roundDurable_sets {s : State} {i : Nat} {b : SuperBlk} {r : Round} :
    SetsKeep s (State.roundDurable s i b r) := by
  unfold State.roundDurable
  try dsimp only
  repeat' first
    | with_reducible exact SetsKeep.refl
    | with_reducible apply SetsKeep.keep State.bump_keeps
    | with_reducible apply SetsKeep.step State.modRound_sets
    | with_reducible apply SetsKeep.step State.segsDurable_sets
    | with_reducible apply SetsKeep.step State.modSb_sets
    | with_reducible apply SetsKeep.step State.mapPlace_sets
    | (with_reducible apply SetsKeep.foldl; intro _ _; try dsimp only)
    | rfl
    | split

theorem State.closeSb_sets {s : State} {i sb : Nat} {short : Bool} :
    SetsKeep s (State.closeSb s i sb short) := by
  unfold State.closeSb
  try dsimp only
  repeat' first
    | with_reducible exact SetsKeep.refl
    | with_reducible apply SetsKeep.step State.anchorRec_sets
    | with_reducible apply SetsKeep.step State.modSb_sets

theorem State.closeFull_sets {s : State} {i : Nat} :
    SetsKeep s (State.closeFull s i) := by
  unfold State.closeFull
  try dsimp only
  repeat' first
    | with_reducible exact SetsKeep.refl
    | with_reducible apply SetsKeep.step State.closeSb_sets
    | (with_reducible apply SetsKeep.foldl; intro _ _; try dsimp only)

theorem State.retireBlock_sets {s : State} {die plane block cause : Nat} :
    SetsKeep s (State.retireBlock s die plane block cause) := by
  unfold State.retireBlock
  try dsimp only
  repeat' first
    | with_reducible exact SetsKeep.refl
    | with_reducible apply SetsKeep.step State.modBlk_sets
    | with_reducible apply SetsKeep.step State.modDie_sets
    | with_reducible apply SetsKeep.step State.anchorRec_sets
    | with_reducible apply SetsKeep.keep State.earlyWarn_keeps
    | rfl
    | split

theorem State.eraseDie_sets {s : State} {i : Nat} {b : SuperBlk} {cause die : Nat} :
    SetsKeep s (State.eraseDie s i b cause die) := by
  unfold State.eraseDie
  try dsimp only
  repeat' first
    | with_reducible exact SetsKeep.refl
    | with_reducible apply SetsKeep.step State.modBlk_sets
    | with_reducible apply SetsKeep.step State.retireBlock_sets
    | with_reducible apply SetsKeep.step State.submit_sets
    | with_reducible apply SetsKeep.step State.anchorRec_sets
    | with_reducible apply SetsKeep.step State.modSb_sets
    | (with_reducible apply SetsKeep.foldl; intro _ _; try dsimp only)
    | rfl
    | split

theorem State.eraseSb_sets {s : State} {i : Nat} {b : SuperBlk} {cause : Nat} :
    SetsKeep s (State.eraseSb s i b cause) := by
  unfold State.eraseSb
  try dsimp only
  repeat' first
    | with_reducible exact SetsKeep.refl
    | with_reducible apply SetsKeep.modSet
    | with_reducible apply SetsKeep.step State.eraseDie_sets
    | with_reducible apply SetsKeep.step State.modSb_sets
    | with_reducible apply SetsKeep.keep State.recordOpen_keeps
    | (with_reducible apply SetsKeep.foldl; intro _ _; try dsimp only)
    | rfl
    | (intro _; rfl)
    | split

theorem State.retireDie_sets {s : State} {d cause : Nat} :
    SetsKeep s (State.retireDie s d cause) := by
  unfold State.retireDie
  try dsimp only
  repeat' first
    | with_reducible exact SetsKeep.refl
    | with_reducible apply SetsKeep.step State.modDie_sets
    | with_reducible apply SetsKeep.step State.anchorRec_sets
    | with_reducible apply SetsKeep.keep State.earlyWarn_keeps
    | with_reducible apply SetsKeep.modSet
    | rfl
    | (intro _; rfl)
    | split

theorem State.dieUncorr_sets {s : State} {d : Nat} :
    SetsKeep s (State.dieUncorr s d) := by
  unfold State.dieUncorr
  try dsimp only
  repeat' first
    | with_reducible exact SetsKeep.refl
    | with_reducible apply SetsKeep.step State.modDie_sets
    | with_reducible apply SetsKeep.step State.retireDie_sets
    | rfl
    | split

theorem State.parityUsed_sets {s : State} {k : Nat} :
    SetsKeep s (State.parityUsed s k) := by
  unfold State.parityUsed
  try dsimp only
  repeat' first
    | with_reducible exact SetsKeep.refl
    | with_reducible apply SetsKeep.step State.modDie_sets
    | with_reducible apply SetsKeep.step State.modBlk_sets

theorem State.noteTired_sets {s : State} {r : ChReq} {attempts : Nat} :
    SetsKeep s (State.noteTired s r attempts) := by
  unfold State.noteTired
  try dsimp only
  repeat' first
    | with_reducible exact SetsKeep.refl
    | with_reducible apply SetsKeep.modSet
    | with_reducible apply Keeps.step Keeps.fresh_add
    | with_reducible apply Keeps.step Keeps.fresh_add2
    | rfl
    | (intro _; rfl)
    | split

theorem State.readPage_sets {s : State} {u : UnitRead} {n : Nat} {q : PageRead} {m words : Nat} {again : Bool} :
    SetsKeep s (State.readPage s u n q m words again) := by
  unfold State.readPage
  try dsimp only
  repeat' first
    | with_reducible exact SetsKeep.refl
    | with_reducible apply SetsKeep.step State.submit_sets
    | rfl
    | split

theorem State.modUnitPage_sets {s : State} {id n : Nat} {f : PageRead → PageRead} :
    SetsKeep s (State.modUnitPage s id n f) := by
  unfold State.modUnitPage
  try dsimp only
  repeat' first
    | with_reducible exact SetsKeep.refl
    | with_reducible apply SetsKeep.modMedia
    | rfl
    | (intro _; exact ⟨rfl, rfl⟩)

theorem State.dropRead_sets {s : State} {id : Nat} :
    SetsKeep s (State.dropRead s id) := by
  unfold State.dropRead
  try dsimp only
  repeat' first
    | with_reducible exact SetsKeep.refl
    | with_reducible apply SetsKeep.modMedia
    | rfl
    | (intro _; exact ⟨rfl, rfl⟩)

theorem State.readFails_sets {s : State} {u : UnitRead} {q : PageRead} :
    SetsKeep s (State.readFails s u q) := by
  unfold State.readFails
  try dsimp only
  repeat' first
    | with_reducible exact SetsKeep.refl
    | with_reducible apply SetsKeep.keep State.mortarOut_keeps
    | with_reducible apply SetsKeep.step State.dieUncorr_sets
    | with_reducible apply SetsKeep.step State.dropRead_sets
    | rfl

theorem State.pageRead_sets {s : State} {u : UnitRead} {n : Nat} :
    SetsKeep s (State.pageRead s u n) := by
  unfold State.pageRead
  try dsimp only
  repeat' first
    | with_reducible exact SetsKeep.refl
    | with_reducible apply SetsKeep.step State.modUnitPage_sets
    | with_reducible apply SetsKeep.keep State.answerRange_keeps
    | with_reducible apply SetsKeep.step State.dropRead_sets
    | rfl
    | split

theorem State.toParity_sets {s : State} {u : UnitRead} {n : Nat} {q : PageRead} {bad : Nat} :
    SetsKeep s (State.toParity s u n q bad) := by
  unfold State.toParity
  try dsimp only
  repeat' first
    | with_reducible exact SetsKeep.refl
    | with_reducible apply SetsKeep.step State.readFails_sets
    | with_reducible apply SetsKeep.step State.modSb_sets
    | with_reducible apply SetsKeep.step State.parityUsed_sets
    | with_reducible apply SetsKeep.step State.readPage_sets
    | with_reducible apply SetsKeep.step State.modUnitPage_sets
    | (with_reducible apply SetsKeep.foldl; intro _ _; try dsimp only)
    | with_reducible apply Keeps.step Keeps.fresh_add
    | with_reducible apply Keeps.step Keeps.fresh_add2
    | rfl
    | split

theorem State.memberRead_sets {s : State} {u : UnitRead} {n : Nat} {q : PageRead} {m : Nat} :
    SetsKeep s (State.memberRead s u n q m) := by
  unfold State.memberRead
  try dsimp only
  repeat' first
    | with_reducible exact SetsKeep.refl
    | with_reducible apply SetsKeep.step State.pageRead_sets
    | with_reducible apply SetsKeep.step State.modUnitPage_sets
    | rfl
    | split

theorem State.wordsUnread_sets {s : State} {u : UnitRead} {n : Nat} {q : PageRead} {m bad : Nat} {again : Bool} :
    SetsKeep s (State.wordsUnread s u n q m bad again) := by
  unfold State.wordsUnread
  repeat' first
    | with_reducible exact SetsKeep.refl
    | with_reducible apply SetsKeep.step State.readPage_sets
    | with_reducible apply SetsKeep.step State.toParity_sets
    | with_reducible apply SetsKeep.step State.readFails_sets
    | rfl
    | split

theorem State.pageEnd_sets {s : State} {u : UnitRead} {n m want good : Nat} {again : Bool} :
    SetsKeep s (State.pageEnd s u n m want good again) := by
  unfold State.pageEnd
  try dsimp only
  repeat' first
    | with_reducible exact SetsKeep.refl
    | with_reducible apply SetsKeep.step State.wordsUnread_sets
    | with_reducible apply SetsKeep.step State.pageRead_sets
    | with_reducible apply SetsKeep.step State.memberRead_sets
    | rfl
    | split

theorem State.unitReadEnd_sets {s : State} {id n m : Nat} {j : ChJob} {e : DieEnd} :
    SetsKeep s (State.unitReadEnd s id n m j e) := by
  unfold State.unitReadEnd
  try dsimp only
  repeat' first
    | with_reducible exact SetsKeep.refl
    | with_reducible apply SetsKeep.step State.pageEnd_sets
    | rfl
    | split

theorem State.sweepReads_sets {s : State} {n : Nat} :
    SetsKeep s (State.sweepReads s n) := by
  induction n generalizing s with
  | zero => exact .refl
  | succ n ih =>
    unfold State.sweepReads
    try dsimp only
    repeat' first
      | with_reducible apply SetsKeep.refl
      | with_reducible apply SetsKeep.step ih
      | with_reducible apply SetsKeep.step State.pageEnd_sets
      | (with_reducible apply SetsKeep.foldl; intro _ _; try dsimp only)
      | rfl
      | split

theorem State.moveReserve_sets {s : State} {i die plane : Nat} :
    SetsKeep s (State.moveReserve s i die plane) := by
  unfold State.moveReserve
  split
  · exact .modSet (fun x => by simp only [SetSt.core]) .refl
  · exact .refl

theorem State.retireOut_sets {s : State} {i die plane block cause : Nat} :
    SetsKeep s (State.retireOut s i die plane block cause) := by
  unfold State.retireOut
  try dsimp only
  repeat' first
    | with_reducible exact SetsKeep.refl
    | with_reducible apply SetsKeep.step State.moveReserve_sets
    | with_reducible apply SetsKeep.step State.retireBlock_sets
    | rfl
    | split

theorem State.blocksErased_sets {s : State} {i : Nat} {j : ChJob} {bad : List Nat} :
    SetsKeep s (State.blocksErased s i j bad) := by
  unfold State.blocksErased
  try dsimp only
  repeat' first
    | with_reducible exact SetsKeep.refl
    | with_reducible apply SetsKeep.step State.modBlk_sets
    | with_reducible apply SetsKeep.step State.anchorRec_sets
    | with_reducible apply SetsKeep.step State.retireOut_sets
    | (with_reducible apply SetsKeep.foldl; intro _ _; try dsimp only)
    | rfl
    | split

theorem State.reserveDone_sets {s : State} {i : Nat} :
    SetsKeep s (State.reserveDone s i) := by
  unfold State.reserveDone
  try dsimp only
  repeat' first
    | with_reducible exact SetsKeep.refl
    | with_reducible apply SetsKeep.modSet
    | with_reducible apply SetsKeep.keep State.medBits_keeps
    | rfl
    | (intro _; rfl)
    | split

theorem State.freeErased_sets {s : State} {i : Nat} {j : ChJob} {bad : List Nat} :
    SetsKeep s (State.freeErased s i j bad) := by
  unfold State.freeErased
  repeat' first
    | with_reducible exact SetsKeep.refl
    | with_reducible apply SetsKeep.step State.reserveDone_sets
    | with_reducible apply SetsKeep.step State.blocksErased_sets

theorem State.eraseReserve_sets {s : State} {i die : Nat} :
    SetsKeep s (State.eraseReserve s i die) := by
  unfold State.eraseReserve
  try dsimp only
  repeat' first
    | with_reducible exact SetsKeep.refl
    | with_reducible apply SetsKeep.step State.retireOut_sets
    | with_reducible apply SetsKeep.step State.anchorRec_sets
    | with_reducible apply SetsKeep.step State.modBlk_sets
    | with_reducible apply SetsKeep.step State.submit_sets
    | (with_reducible apply SetsKeep.foldl; intro _ _; try dsimp only)
    | rfl
    | split

theorem State.reserveStep_sets {s : State} {i : Nat} :
    SetsKeep s (State.reserveStep s i) := by
  unfold State.reserveStep
  try dsimp only
  repeat' first
    | with_reducible exact SetsKeep.refl
    | with_reducible apply SetsKeep.step State.reserveDone_sets
    | with_reducible apply SetsKeep.step State.eraseReserve_sets
    | with_reducible apply SetsKeep.modSet
    | (with_reducible apply SetsKeep.foldl; intro _ _; try dsimp only)
    | rfl
    | (intro _; rfl)
    | split

theorem State.retireSpent_sets {s : State} {i : Nat} :
    SetsKeep s (State.retireSpent s i) := by
  unfold State.retireSpent
  try dsimp only
  repeat' first
    | with_reducible exact SetsKeep.refl
    | with_reducible apply SetsKeep.step State.retireDie_sets
    | (with_reducible apply SetsKeep.foldl; intro _ _; try dsimp only)

theorem State.placeWaiting_sets {s : State} {i : Nat} :
    SetsKeep s (State.placeWaiting s i) := by
  unfold State.placeWaiting
  try dsimp only
  repeat' first
    | with_reducible exact SetsKeep.refl
    | with_reducible apply SetsKeep.modSet
    | with_reducible apply SetsKeep.step State.placeUnits_sets
    | (with_reducible apply SetsKeep.foldl; intro _ _; try dsimp only)
    | rfl
    | (intro _; rfl)

theorem State.closeShort_sets {s : State} {i : Nat} :
    SetsKeep s (State.closeShort s i) := by
  unfold State.closeShort
  try dsimp only
  repeat' first
    | with_reducible exact SetsKeep.refl
    | with_reducible apply SetsKeep.step State.closeSb_sets
    | (with_reducible apply SetsKeep.foldl; intro _ _; try dsimp only)

theorem State.settleSet_sets {s : State} {i : Nat} :
    SetsKeep s (State.settleSet s i) := by
  unfold State.settleSet
  try dsimp only
  repeat' first
    | with_reducible exact SetsKeep.refl
    | with_reducible apply SetsKeep.step State.reserveStep_sets
    | with_reducible apply SetsKeep.keep State.thinsDone_keeps
    | with_reducible apply SetsKeep.step State.closeFull_sets
    | with_reducible apply SetsKeep.step State.closeShort_sets
    | with_reducible apply SetsKeep.step State.retireSpent_sets
    | with_reducible apply SetsKeep.step State.eraseSb_sets
    | with_reducible apply SetsKeep.keep State.fragsDone_keeps
    | (with_reducible apply SetsKeep.foldl; intro _ _; try dsimp only)
    | rfl

theorem State.foldInto_sets {s : State} {i : Nat} {dst : SuperBlk} {src : List FoldStripe} :
    SetsKeep s (State.foldInto s i dst src) := by
  unfold State.foldInto
  try dsimp only
  repeat' first
    | with_reducible exact SetsKeep.refl
    | with_reducible apply SetsKeep.step State.takeSeq_sets
    | with_reducible apply SetsKeep.step State.submit_sets
    | with_reducible apply SetsKeep.step State.modSb_sets
    | (with_reducible apply SetsKeep.foldl; intro _ _; try dsimp only)

theorem State.foldDst_sets {s t : State} {i row : Nat} {b : SuperBlk} (h : State.foldDst s i row = some (t, b)) : SetsKeep s t := by
  unfold State.foldDst at h
  dsimp only at h
  split at h
  · obtain ⟨b, -, hb⟩ := Option.map_eq_some_iff.mp h
    cases hb
    exact State.closeRound_sets
  · obtain ⟨v, hv, h⟩ := Option.bind_eq_some_iff.mp h
    obtain ⟨b, -, hb⟩ := Option.map_eq_some_iff.mp h
    cases hb
    exact State.openSb_sets hv

theorem State.foldSome_sets {s : State} {i : Nat} {l : List FoldStripe} :
    SetsKeep s (State.foldSome s i l) := by
  unfold State.foldSome
  try dsimp only
  repeat' first
    | with_reducible exact SetsKeep.refl
    | with_reducible apply SetsKeep.step State.foldInto_sets
    | with_reducible apply SetsKeep.step State.placeUnits_sets
    | with_reducible apply SetsKeep.step (State.foldDst_sets (by assumption))
    | rfl
    | split

theorem State.roundMember_sets {s : State} {i sb seq die : Nat} :
    SetsKeep s (State.roundMember s i sb seq die) := by
  unfold State.roundMember
  try dsimp only
  repeat' first
    | with_reducible exact SetsKeep.refl
    | with_reducible apply SetsKeep.step State.modRound_sets
    | with_reducible apply SetsKeep.step State.roundDurable_sets
    | rfl
    | split

theorem State.roundFailed_sets {s : State} {i sb seq die : Nat} :
    SetsKeep s (State.roundFailed s i sb seq die) := by
  unfold State.roundFailed
  try dsimp only
  repeat' first
    | with_reducible exact SetsKeep.refl
    | with_reducible apply SetsKeep.keep State.bumpBy_keeps
    | with_reducible apply SetsKeep.step State.foldSome_sets
    | with_reducible apply SetsKeep.step State.placeUnits_sets
    | with_reducible apply SetsKeep.step State.modSb_sets
    | with_reducible apply SetsKeep.keep State.event_keeps
    | (with_reducible apply SetsKeep.foldl; intro _ _; try dsimp only)
    | rfl
    | split

theorem State.eraseEnd_sets {s : State} {i sb : Nat} {j : ChJob} {bad : List Nat} :
    SetsKeep s (State.eraseEnd s i sb j bad) := by
  unfold State.eraseEnd
  try dsimp only
  repeat' first
    | with_reducible exact SetsKeep.refl
    | with_reducible apply SetsKeep.step State.blocksErased_sets
    | with_reducible apply SetsKeep.modSet
    | with_reducible apply SetsKeep.step State.placeWaiting_sets
    | with_reducible apply SetsKeep.step State.modSb_sets
    | rfl
    | (intro _; rfl)
    | split

theorem State.chDone_sets {s : State} {j : ChJob} {e : DieEnd} :
    SetsKeep s (State.chDone s j e) := by
  unfold State.chDone
  try dsimp only
  repeat' first
    | with_reducible exact SetsKeep.refl
    | with_reducible apply SetsKeep.step State.freeErased_sets
    | with_reducible apply SetsKeep.step State.unitReadEnd_sets
    | with_reducible apply SetsKeep.step State.retireDie_sets
    | with_reducible apply SetsKeep.step State.noteTired_sets
    | with_reducible apply SetsKeep.step State.sweepReads_sets
    | with_reducible apply SetsKeep.step State.placeWaiting_sets
    | with_reducible apply SetsKeep.step State.eraseEnd_sets
    | with_reducible apply SetsKeep.step State.roundMember_sets
    | with_reducible apply SetsKeep.step State.settleSet_sets
    | with_reducible apply SetsKeep.step State.roundFailed_sets
    | rfl
    | split

theorem State.newOwner_sets {s : State} {c : Nat} {o : Option Wy} {m : ChanMode} :
    SetsKeep s (State.newOwner s c o m) := by
  unfold State.newOwner
  try dsimp only
  repeat' first
    | with_reducible exact SetsKeep.refl
    | with_reducible apply SetsKeep.keep State.bump_keeps
    | with_reducible apply SetsKeep.step State.modChan_sets
    | with_reducible apply SetsKeep.step State.chanUnknown_sets
    | with_reducible apply SetsKeep.keep State.setUnit_keeps
    | with_reducible apply SetsKeep.keep State.setRfld_keeps
    | with_reducible apply SetsKeep.keep State.event_keeps
    | rfl
    | split

theorem State.releaseDone_sets {s : State} {c : Nat} :
    SetsKeep s (State.releaseDone s c) := by
  unfold State.releaseDone
  try dsimp only
  repeat' first
    | with_reducible exact SetsKeep.refl
    | with_reducible apply SetsKeep.keep State.bump_keeps
    | with_reducible apply SetsKeep.modMedia
    | with_reducible apply SetsKeep.keep State.chResult_keeps
    | with_reducible apply SetsKeep.step State.newOwner_sets
    | with_reducible apply SetsKeep.step State.chDone_sets
    | (with_reducible apply SetsKeep.foldl; intro _ _; try dsimp only)
    | rfl
    | (intro _; exact ⟨rfl, rfl⟩)
    | split


end Sys2Proof.Machine
end

section
/-! PROOFS. The steps of a start (R487-R490, R499, R318, R484). -/

namespace Sys2Proof.Machine

/-! ### The end of a step -/

theorem State.before_cases {s : State} {w : Wy} {n : Nat} (h : s.before w n = true) :
    s.released w = true ∧ s.heldWy w = false ∧ (s.startOf w).failed = false ∧ (s.startOf w).step + 1 = n := by
  simp only [State.before, Bool.and_eq_true, Bool.not_eq_true', decide_eq_true_eq] at h
  obtain ⟨⟨⟨⟨hrel, hheld⟩, hfail⟩, hstep⟩, -⟩ := h
  exact ⟨hrel, hheld, hfail, hstep⟩

/-- A wythe that is neither held nor failed keeps the start going. -/
theorem State.checkStart_of_going {s : State} {w : Wy} (hheld : s.heldWy w = false) (hfail : (s.startOf w).failed = false) :
    s.checkStart = s := by
  refine if_neg fun h => ?_
  have hall := (Bool.and_eq_true _ _ ▸ h).2
  have hout := List.all_eq_true.mp hall w (mem_wythes w)
  simp [hheld, hfail] at hout

/-- What the end of a step makes of a wythe's start. -/
def stepped (step result variant : Nat) (x : StartSt) : StartSt :=
  { x with
    step := if result = 1 then x.step else step
    failed := x.failed || result = 1
    alternate := x.alternate || result = 3
    ended := x.ended ++ [(step, result, variant)] }

theorem State.modStart_start (s : State) (w : Wy) (f : StartSt → StartSt) : (s.modStart w f).startOf w = f (s.startOf w) := by
  cases w <;> rfl

theorem State.modStart_start_peer (s : State) (w : Wy) (f : StartSt → StartSt) : (s.modStart w f).startOf w.peer = s.startOf w.peer := by
  cases w <;> rfl

theorem Keeps.startOf_eq {l : List Part} {s t : State} (h : Keeps l s t) (hl : .start ∉ l) (w : Wy) : t.startOf w = s.startOf w := by
  rw [State.startOf, h.start_eq hl, State.startOf]

theorem foldl_ringStep_keeps (l : List Nat) (s : State) : Keeps [.pcie, .regs, .flash] s (l.foldl State.ringStep s) :=
  .foldl (fun _ _ => State.ringStep_keeps) .refl

theorem Wy.eq_or_peer (w u : Wy) : u = w ∨ u = w.peer := by
  cases w <;> cases u <;> decide

/-- A wythe goes on with its start: it is neither held nor failed. -/
structure Goes (s : State) (w : Wy) : Prop where
  held : s.heldWy w = false
  start : (s.startOf w).failed = false

theorem State.goes_of_before {s : State} {w : Wy} {n : Nat} (h : s.before w n = true) : Goes s w :=
  ⟨(State.before_cases h).2.1, (State.before_cases h).2.2.1⟩

theorem Goes.keep {l : List Part} {s t : State} {w : Wy} (g : Goes s w) (k : Keeps l s t) (hc : .cover ∉ l) (hs : .start ∉ l) : Goes t w :=
  ⟨(k.heldWy_eq hc w).trans g.held, by rw [k.startOf_eq hs]; exact g.start⟩

section Going

variable {s : State} {w u : Wy} (g : Goes s u) {step result variant : Nat} (hresult : result ≠ 1)

include g hresult

theorem Goes.stepped : Goes (s.modStart w (stepped step result variant)) u := by
  refine ⟨(State.modStart_keeps.heldWy_eq (by decide) u).trans g.held, ?_⟩
  rcases Wy.eq_or_peer w u with rfl | rfl
  · rw [State.modStart_start]
    simp [Machine.stepped, g.start, hresult]
  · rw [State.modStart_start_peer, g.start]

/-- While a wythe goes on, the end of a step moves the start of its wythe, and writes the start record. -/
theorem State.stepEnd_ring : s.stepEnd w step result variant =
    (List.range 14).foldl State.ringStep (s.modStart w (stepped step result variant)) := by
  have g' := (g.stepped hresult (w := w) (step := step) (variant := variant)).keep (foldl_ringStep_keeps (List.range 14) _)
    (by decide) (by decide)
  exact State.checkStart_of_going g'.held g'.start

theorem Goes.stepEnd : Goes (s.stepEnd w step result variant) u := by
  rw [State.stepEnd_ring g hresult]
  exact (g.stepped hresult).keep (foldl_ringStep_keeps ..) (by decide) (by decide)

theorem State.stepEnd_stays : Keeps [.pcie, .start, .regs, .flash] s (s.stepEnd w step result variant) := by
  rw [State.stepEnd_ring g hresult]
  exact .step (foldl_ringStep_keeps ..) (by decide) (.step State.modStart_keeps (by decide) .refl)

theorem State.stepEnd_start : (s.stepEnd w step result variant).startOf w = stepped step result variant (s.startOf w) := by
  rw [State.stepEnd_ring g hresult, (foldl_ringStep_keeps ..).startOf_eq (by decide), State.modStart_start]

theorem State.stepEnd_step : ((s.stepEnd w step result variant).startOf w).step = step := by
  rw [State.stepEnd_start g hresult]
  exact if_neg hresult

theorem State.stepEnd_start_peer : (s.stepEnd w step result variant).startOf w.peer = s.startOf w.peer := by
  rw [State.stepEnd_ring g hresult, (foldl_ringStep_keeps ..).startOf_eq (by decide), State.modStart_start_peer]

/-- The start record stands in the Plinth flash alone. -/
theorem State.stepEnd_writes : Writes [.pfl] s (s.stepEnd w step result variant) := by
  have rung : ∀ (t : State) (n : Nat), Writes [.pfl] t (t.ringStep n) := by
    intro t n
    unfold State.ringStep
    dsimp only
    split
    · exact .refl
    · unfold State.startStep State.putWord
      dsimp only
      split
      · exact .refl
      · exact .bump rfl rfl (.keep State.modFlash_keeps rfl .refl)
  rw [State.stepEnd_ring g hresult]
  exact .foldl rung (.keep State.modStart_keeps rfl .refl)

theorem State.stepEnd_link : LinkKeeps s (s.stepEnd w step result variant) := by
  have rung : ∀ (t : State) (n : Nat), LinkKeeps t (t.ringStep n) := by
    intro t n
    unfold State.ringStep
    dsimp only
    split
    · exact .refl
    · unfold State.startStep State.putWord
      dsimp only
      split
      · exact .refl
      · exact .step State.bump_link (.keep State.modFlash_keeps rfl .refl)
  rw [State.stepEnd_ring g hresult]
  exact .foldl rung (.keep State.modStart_keeps rfl .refl)

end Going

theorem State.brickStep_start (s : State) (step result variant : Nat) (v : Wy) : ((s.brickStep step result variant).startOf v).step = step := by
  have hpeer : ∀ (u : State) (f g : StartSt → StartSt), ((u.modStart .w0 f).modStart .w1 g).startOf .w0 = f (u.startOf .w0) := fun _ _ _ => rfl
  unfold State.brickStep
  dsimp only
  generalize s.startStep step result 0 variant (zeroBytes 20) = u
  cases v
  · rw [hpeer]
  · rw [State.modStart_start]

/-- A released wythe goes on with its start. -/
theorem State.releaseWythe_goes {s : State} {w : Wy} (hkeys : s.keys ≠ none) (hfail : (s.startOf w).failed = false) :
    (s.releaseWythe w).released w = true ∧ Goes (s.releaseWythe w) w := by
  have cover := State.releaseWythe_cover (w := w) hkeys
  have start := (State.releaseWythe_keeps (s := s) (w := w)).startOf_eq (by decide) w
  refine ⟨(State.released_congr cover w).trans (by cases w <;> rfl), (State.heldWy_congr cover w).trans (by cases w <;> rfl), ?_⟩
  rw [start]
  exact hfail

/-! ### The training of DRAM and links (R484, R488, R514) -/

theorem trains_zero {l : List DramResult} (h : ∀ r ∈ l, r.rates.head? = some true) (c : Nat) : trains l c 0 = true := by
  unfold trains
  split
  next r hr =>
    have hhead := h r (List.mem_of_find?_eq_some hr)
    cases hrates : r.rates with
    | nil => simp [hrates] at hhead
    | cons a as => simpa [hrates] using hhead
  next => rfl

theorem dramRate_of_good {l : List DramResult} (h : ∀ r ∈ l, r.rates.head? = some true) : dramRate l = 0 := by
  unfold dramRate
  dsimp only
  rw [show List.range 3 = 0 :: [1, 2] from rfl, List.find?_cons_of_pos (by simp [trains_zero h])]
  rfl

/-- With no channel marked, every channel is good that trains. -/
theorem good_channels {s : State} {w : Wy} {l : List DramResult} {kept : Bool} {i : Nat} (hmarks : s.plinth.marks = [])
    (h : ∀ c, (kept || trains l c i) = true) : (List.range 16).filter (fun c => (kept || trains l c i)
      && (!s.plinth.marks.contains (w, c) || ((l.find? (fun r => r.channel = c)).map (fun r => r.patternOk)).getD true)) = List.range 16 :=
  List.filter_eq_self.mpr fun c _ => by simp [h c, hmarks]

/-- DRAM trained at a rate, with the channels that failed retired (R488, R514). -/
def State.dramTrained (s : State) (w : Wy) (l : List DramResult) (kept : Bool) (i : Nat) : State :=
  let pattern := fun c => !s.plinth.marks.contains (w, c) || ((l.find? (fun r => r.channel = c)).map (fun r => r.patternOk)).getD true
  let good := (List.range 16).filter (fun c => (kept || trains l c i) && pattern c)
  let retired := (List.range 16).foldl (fun a c => if good.contains c then a else a + 2 ^ c) 0
  let s1 := ((s.setReg (.tst w) TST_DRAM_RETIRED (word retired)).setReg (.clk w) CLK_DRAM_RATE (word (dramRates.getD i 3600))).setRfld (.clk w)
    CLK_DIV 3 0 (i + 2)
  let s2 := s1.modPlinth (fun p => { p with marks := p.marks.filter (fun m => m.1 ≠ w || !pattern m.2) })
  (s2.stepEnd w 5 (if good.length < 12 then 1 else 0) (s.free % 256)).used

/-- The rate is the saved training's, else the first at which every channel trains. -/
theorem execDramTrain_of_before {s : State} {w : Wy} {saved : Bool} {l : List DramResult} (hb : s.before w 5 = true) :
    ∃ kept i, execDramTrain w saved l s = .next (s.dramTrained w l kept i) ∧ (saved = false → kept = false)
      ∧ (kept = false → i = dramRate l) := by
  unfold execDramTrain
  rw [if_neg (by simp [hb])]
  cases hkept : (if saved then s.plinth.training.find? (fun t => t.1 = w) else none) with
  | none => exact ⟨false, _, rfl, fun _ => rfl, fun _ => rfl⟩
  | some t => exact ⟨true, _, rfl, fun hsaved => by simp [hsaved] at hkept, fun h => absurd h (by decide)⟩

/-- With no channel marked, the step is done and no channel retired where every channel trains at its best rate. -/
theorem State.dramTrained_of_good {s : State} {w : Wy} {l : List DramResult} {kept : Bool} {i : Nat} (g : Goes s w)
    (hmarks : s.plinth.marks = []) (hl : ∀ r ∈ l, r.rates.head? = some true) (hi : kept = false → i = dramRate l) :
    ((s.dramTrained w l kept i).startOf w).step = 5 ∧ (s.dramTrained w l kept i).reg (.tst w) TST_DRAM_RETIRED = 0
      ∧ (s.dramTrained w l kept i).reg (.clk w) CLK_DRAM_RATE = word (dramRates.getD i 3600) := by
  have htrains : ∀ c, (kept || trains l c i) = true := by
    intro c
    cases kept with
    | false => rw [hi rfl, dramRate_of_good hl, trains_zero hl, Bool.or_true]
    | true => rfl
  unfold State.dramTrained
  dsimp only
  rw [good_channels hmarks htrains, if_neg (by decide), show (List.range 16).foldl (fun a c => if (List.range 16).contains c then a else a + 2 ^ c) 0 = 0
    from by decide]
  generalize hs1 : ((s.setReg (.tst w) TST_DRAM_RETIRED (word 0)).setReg (.clk w) CLK_DRAM_RATE (word (dramRates.getD i 3600))).setRfld (.clk w)
    CLK_DIV 3 0 (i + 2) = s1
  have k1 : Keeps [.regs] s s1 := by
    rw [← hs1]
    exact .step State.setRfld_keeps (by decide) (.step State.setReg_keeps (by decide) State.setReg_keeps)
  have hretired : s1.reg (.tst w) TST_DRAM_RETIRED = 0 := by
    have hne : ∀ off < 0x1000, pageKey (.tst w) + TST_DRAM_RETIRED ≠ pageKey (.clk w) + off := fun off ho =>
      pageKey_ne (by simp) (by decide) ho
    rw [← hs1, State.setRfld, State.setReg_reg_of_ne (hne _ (by decide)), State.setReg_reg_of_ne (hne _ (by decide)), State.setReg_reg_self]
    rfl
  have hrate : s1.reg (.clk w) CLK_DRAM_RATE = word (dramRates.getD i 3600) := by
    rw [← hs1, State.setRfld, State.setReg_reg_of_off_ne (by decide), State.setReg_reg_self]
  generalize hs2 : s1.modPlinth _ = s2
  have k2 : Keeps [.plinth] s1 s2 := hs2 ▸ State.modPlinth_keeps
  have g2 := (g.keep k1 (by decide) (by decide)).keep k2 (by decide) (by decide)
  have ended := (State.stepEnd_writes g2 (w := w) (step := 5) (result := 0) (variant := s.free % 256) (by decide)).keep State.used_keeps rfl
  refine ⟨?_, ?_, ?_⟩
  · rw [State.used_keeps.startOf_eq (by decide), State.stepEnd_step g2 (by decide)]
  · rw [ended.reg _ _ (by decide) (by simp [pageKind]), k2.reg_eq (by decide), hretired]
  · rw [ended.reg _ _ (by decide) (by simp [pageKind]), k2.reg_eq (by decide), hrate]

theorem State.tieTrain_up (s : State) (lanes : Nat) :
    (s.tieTrain lanes).cover.tieUp = decide (8 ≤ lanes) ∧ ∀ v, (s.tieTrain lanes).heldWy v = s.heldWy v := by
  unfold State.tieTrain
  dsimp only
  split
  · next hlt =>
    refine ⟨?_, fun v => ?_⟩
    · rw [State.event_keeps.cover_eq (by decide), State.event_keeps.cover_eq (by decide)]
      exact (decide_eq_false (by omega)).symm
    · rw [State.event_keeps.heldWy_eq (by decide), State.event_keeps.heldWy_eq (by decide)]
      cases v <;> rfl
  · next hlt =>
    have hup : decide (8 ≤ lanes) = true := decide_eq_true (by omega)
    by_cases hnarrow : lanes < 16
    · rw [if_pos hnarrow, if_neg (by decide)]
      refine ⟨?_, fun v => ?_⟩
      · rw [State.recordOpen_keeps.cover_eq (by decide), State.event_keeps.cover_eq (by decide), State.event_keeps.cover_eq (by decide), hup]
      · rw [State.recordOpen_keeps.heldWy_eq (by decide), State.event_keeps.heldWy_eq (by decide), State.event_keeps.heldWy_eq (by decide)]
        cases v <;> rfl
    · rw [if_neg hnarrow, if_pos rfl]
      exact ⟨hup.symm, fun v => by cases v <;> rfl⟩

/-! ### The image and the settings (R489, R499, R505) -/

/-- An image that begins to run leaves which wythes are held. -/
theorem State.runImage_runs (s : State) (w : Wy) (b trial : Bool) :
    (s.runImage w b trial).running w = true ∧ (∀ v, (s.runImage w b trial).heldWy v = s.heldWy v)
      ∧ (s.runImage w b trial).startOf w = { s.startOf w with slotB := b, trial := trial } := by
  unfold State.runImage
  dsimp only
  have beat : ∀ (t : State) (v : Wy), (t.setHb v).running w = t.running w ∧ ∀ u, (t.setHb v).heldWy u = t.heldWy u := fun t v => by
    cases v <;> exact ⟨by cases w <;> rfl, fun u => by cases u <;> rfl⟩
  generalize hs1 : ((s.modFwSlot 4 w.num b (fun x => { x with auth := true })).modStart w (fun x => { x with slotB := b, trial := trial })).setRun w true
    = s1
  have begun : s1.running w = true ∧ (∀ v, s1.heldWy v = s.heldWy v) ∧ s1.startOf w = { s.startOf w with slotB := b, trial := trial } := by
    rw [← hs1]
    refine ⟨by cases w <;> rfl, fun v => by cases w <;> cases v <;> rfl, ?_⟩
    rw [State.setRun_keeps.startOf_eq (by decide), State.modStart_start, State.modFwSlot_keeps.startOf_eq (by decide)]
  generalize hs2 : (s1.setReg (.glb w) GLB_FW_VERSION _).setReg (.glb w) GLB_FW_LEVEL _ = s2
  have k2 : Keeps [.regs] s1 s2 := hs2 ▸ .step State.setReg_keeps (by decide) State.setReg_keeps
  generalize hs4 : State.modPlinth _ _ = s4
  have k4 : Keeps [.regs, .plinth] s1 s4 := by
    rw [← hs4]
    exact .step State.modPlinth_keeps (by decide) (.foldl (fun _ _ => State.putOnline_keeps.mono (by decide)) (k2.mono (by decide)))
  generalize hs5 : (s4.setHb w).setHb w.peer = s5
  have k5 : ∀ {t : State}, Keeps [.pcie, .regs, .wall] s5 t → t.running w = true ∧ (∀ v, t.heldWy v = s.heldWy v)
      ∧ t.startOf w = { s.startOf w with slotB := b, trial := trial } := by
    intro t k
    obtain ⟨hrun, hheld, hstart⟩ := begun
    rw [k.running_eq (by decide), k.startOf_eq (by decide), ← hs5, (beat _ _).1, (beat _ _).1, k4.running_eq (by decide),
      State.setHb_keeps.startOf_eq (by decide), State.setHb_keeps.startOf_eq (by decide), k4.startOf_eq (by decide)]
    refine ⟨hrun, fun v => ?_, hstart⟩
    rw [k.heldWy_eq (by decide), ← hs5, (beat _ _).2, (beat _ _).2, k4.heldWy_eq (by decide), hheld]
  exact k5 (.step State.peerChange_keeps (by decide) (.step State.modWall_keeps (by decide) .refl))

theorem State.linkDown_writes {s : State} {w : Wy} {n : Nat} : Writes [.mac] s (s.linkDown w n) := by
  have agreed : Writes [.mac] s (s.agree w n false 0 0) := by
    have left : ∀ t : State, Writes [.mac] t (t.leaveLpi w n) := by
      intro t
      unfold State.leaveLpi
      dsimp only
      split
      · exact .bumpBy rfl rfl (.keep State.modPort_keeps rfl .refl)
      · exact .refl
    have off : Writes [.mac] s ((s.modPort w n (fun x => { x with agreed := false, twTx := 0, twRx := 0 })).leaveLpi w n) :=
      .step (left _) rfl (.keep State.modPort_keeps rfl .refl)
    unfold State.agree
    dsimp only
    rw [if_neg Bool.false_ne_true]
    split
    · exact off
    · exact .event rfl off
  unfold State.linkDown
  split
  · exact .refl
  · exact .event rfl (.bump rfl rfl (.keep State.modPort_keeps rfl agreed))

theorem State.portUp_writes {s : State} {w : Wy} {n : Nat} : Writes [.mac] s (s.portUp w n) := by
  unfold State.portUp
  dsimp only
  split
  · exact .refl
  · exact .event rfl (.keep State.modPort_keeps rfl .refl)

theorem State.retrain_writes {s : State} {w : Wy} {m : Nat} {ports : List Nat} : Writes [.mac] s (s.retrain w m ports) := by
  have port : ∀ (t : State) (n v : Nat), Writes [.mac] t (if n < v then t.putOnline (macPage w n) else t.setReg (macPage w n) PAGE_STATE 0) := by
    intro t n v
    split
    · exact .setReg rfl rfl (.setReg rfl rfl .refl)
    · exact .setReg rfl rfl .refl
  unfold State.retrain
  refine .foldl (fun _ _ => State.portUp_writes) (.foldl (fun t n => port t n _) (.keep State.recordOpen_keeps rfl (.modWy (.foldl (fun t n => ?_) .refl))))
  split
  · exact State.linkDown_writes
  · exact .refl

/-- The settings of a generation are named on the FWU page; what follows writes the ports' pages. -/
theorem State.takeSettings_fwu (s : State) (w : Wy) (g : SetGen) (scale : Option (Nat × Nat)) (ports : List Nat) :
    (s.takeSettings w (some g) scale ports).reg (.fwu w) FWU_SETTINGS = word (g.gen % 65536 + g.format * 65536) := by
  unfold State.takeSettings
  dsimp only
  generalize (if s.plinth.startOn = true then _ else _ : State) = s2
  split
  · split
    · rw [State.setReg_reg_self]
    · rw [State.retrain_writes.reg _ _ (by decide) (by simp [pageKind]), State.setReg_reg_self]
  · rw [State.setReg_reg_self]

/-! ### The anchor and the scan (R308, R318) -/

theorem State.set_of_modSet (s : State) (i : Nat) (f : SetSt → SetSt) : (s.modSet i f).set_ i = f (s.set_ i) := by
  unfold State.modSet State.set_
  by_cases hi : i = 0 <;> simp [hi]

theorem Keeps.set_eq {l : List Part} {s t : State} (h : Keeps l s t) (hl : .media ∉ l) (i : Nat) : t.set_ i = s.set_ i := by
  rw [State.set_, h.media_eq hl, State.set_]

theorem State.loadSet_loaded (s : State) (i : Nat) : ((s.loadSet i).set_ i).loaded = true := by
  rw [State.loadSet, State.set_of_modSet]

theorem State.loadTables_sets (s : State) (w : Wy) (i : Nat) : (s.loadTables w).set_ i = s.set_ i := by
  unfold State.loadTables
  dsimp only
  rw [(Keeps.foldl (fun _ _ => State.setReg_keeps) .refl).set_eq (by decide)]
  rfl

theorem State.restoreWindow_scanned (s : State) (w : Wy) (lostRecs : List (Nat × Nat)) (lostStripes : List Nat) :
    ((s.restoreWindow w lostRecs lostStripes).set_ w.num).scanned = true := by
  unfold State.restoreWindow
  dsimp only
  rw [State.dumpLow_keeps.set_eq (by decide), State.set_of_modSet]

/-! ### The meeting on the tie (R30, R410, R484, R486) -/

/-- A wythe's TIE_SYNC ends: its restart is over, and its event says so. -/
def State.syncDone (s : State) (w : Wy) : State := ((s.stepEnd w 11 0 0).restartDone w).event (.tie w) TIE_EVT_SYNC_DONE

section Sync

variable {s : State} {u : Wy} (g : Goes s u) (w : Wy)

theorem State.syncDone_rest (s : State) (w : Wy) : Keeps [.pcie, .regs, .plinth] (s.stepEnd w 11 0 0) (s.syncDone w) :=
  .step State.event_keeps (by decide) (State.restartDone_keeps.mono (by decide))

include g

theorem Goes.syncDone : Goes (s.syncDone w) u := (g.stepEnd (by decide)).keep (State.syncDone_rest s w) (by decide) (by decide)

theorem State.syncDone_step : ((s.syncDone w).startOf w).step = 11 := by
  rw [(State.syncDone_rest s w).startOf_eq (by decide), State.stepEnd_step g (by decide)]

theorem State.syncDone_start_peer : (s.syncDone w).startOf w.peer = s.startOf w.peer := by
  rw [(State.syncDone_rest s w).startOf_eq (by decide), State.stepEnd_start_peer g (by decide)]

theorem State.syncDone_stays : Keeps [.pcie, .start, .regs, .flash, .plinth] s (s.syncDone w) :=
  .step (State.syncDone_rest s w) (by decide) ((State.stepEnd_stays g (by decide)).mono (by decide))

end Sync

/-- A wythe has arrived at TIE_SYNC. -/
def State.atTie (s : State) (w : Wy) : State := s.modStart w (fun x => { x with arriveAt := some (x.arriveAt.getD s.now) })

theorem State.atTie_arrived {s : State} {w : Wy} (hb : s.before w 11 = true) :
    Goes (s.atTie w) w ∧ (s.atTie w).arrived w = true ∧ (s.atTie w).arrived w.peer = s.arrived w.peer := by
  obtain ⟨-, hheld, hfail, hstep⟩ := State.before_cases hb
  have start : (s.atTie w).startOf w = { s.startOf w with arriveAt := some ((s.startOf w).arriveAt.getD s.now) } := State.modStart_start ..
  have other : (s.atTie w).startOf w.peer = s.startOf w.peer := State.modStart_start_peer ..
  refine ⟨⟨(State.modStart_keeps.heldWy_eq (by decide) w).trans hheld, ?_⟩, ?_, ?_⟩
  · rw [start]
    exact hfail
  · rw [State.arrived, start]
    simp only [Option.isSome_some, Bool.and_true, decide_eq_true_eq]
    omega
  · rw [State.arrived, other, State.arrived]

theorem State.trySync_of_start {s : State} {w : Wy} (htie : s.cover.tieUp = true) (hcov : s.cover.coverer = none) (ha : s.arrived w = true)
    (hp : s.arrived w.peer = true) : s.trySync = (s.syncDone .w0).syncDone .w1 := by
  have both : s.arrived .w0 = true ∧ s.arrived .w1 = true := by
    cases w
    · exact ⟨ha, hp⟩
    · exact ⟨hp, ha⟩
  unfold State.trySync
  dsimp only
  rw [if_neg (by simp [htie]), hcov]
  exact if_pos (by simp [both])

/-- A restarted wythe has met its covering peer. -/
def State.metCover (s : State) (w : Wy) : State :=
  let s0 := (s.takeWide w.peer).syncDone w
  let s1 := { s0 with cover := { s0.cover with handingBack := s0.mayHandBack w } }
  s1.modFw (fun y => { y with act := y.act.map (fun a => if a.comp = 4 && a.w = w then { a with stage := 4 } else a) })

theorem State.trySync_of_cover {s : State} {w : Wy} (htie : s.cover.tieUp = true) (hcov : s.cover.coverer = some w.peer) (ha : s.arrived w = true)
    (hrun : s.running w.peer = true) : s.trySync = s.metCover w := by
  unfold State.trySync
  dsimp only
  rw [if_neg (by simp [htie]), hcov]
  dsimp only
  rw [show w.peer.peer = w by cases w <;> rfl]
  exact if_pos (by simp [ha, hrun])

theorem State.resetWythe_start_peer (s : State) (w : Wy) (cause : Nat) : (s.resetWythe w cause).startOf w.peer = s.startOf w.peer := by
  have halted : (if s.running w then s.haltWythe w else s).startOf w.peer = s.startOf w.peer := by
    split
    · exact State.haltWythe_keeps.startOf_eq (by decide) _
    · rfl
  unfold State.resetWythe
  dsimp only
  rw [State.setNotice_keeps.startOf_eq (by decide), ← halted]
  cases w <;> rfl

/-- A wythe that covers its peer stays where its own start stands. -/
theorem State.beginCover_start (s : State) (w : Wy) (planned : Bool) (cause : Nat) : (s.beginCover w planned cause).startOf w = s.startOf w := by
  have drained : (if planned then s else s.abandonDrain).startOf w = s.startOf w := by
    split
    · rfl
    · exact State.abandonDrain_keeps.startOf_eq (by decide) _
  unfold State.beginCover
  dsimp only
  generalize (if planned then s else s.abandonDrain) = s1 at drained ⊢
  generalize hs2 : (((s1.loseUnplaced w.peer).resetWythe w.peer cause).setHeld w.peer true).moveCommits w = s2
  have reset : s2.startOf w = s.startOf w := by
    rw [← hs2, State.moveCommits_keeps.startOf_eq (by decide), State.setHeld_keeps.startOf_eq (by decide)]
    have other := (s1.loseUnplaced w.peer).resetWythe_start_peer w.peer cause
    rw [show w.peer.peer = w by cases w <;> rfl] at other
    rw [other, State.loseUnplaced_keeps.startOf_eq (by decide), drained]
  split
  on_goal 2 => rw [State.earlyWarn_keeps.startOf_eq (by decide), State.event_keeps.startOf_eq (by decide)]
  all_goals
    rw [State.powerEval_keeps.startOf_eq (by decide), State.peerChange_keeps.startOf_eq (by decide), State.abortTests_keeps.startOf_eq (by decide),
      State.medBits_keeps.startOf_eq (by decide), State.reopenPaused_keeps.startOf_eq (by decide), State.settleSet_keeps.startOf_eq (by decide),
      State.takeSet_keeps.startOf_eq (by decide), State.resendCommits_keeps.startOf_eq (by decide), State.seeHlc_keeps.startOf_eq (by decide),
      State.coverChans_keeps.startOf_eq (by decide)]
    exact reset

theorem execTieSyncTimeout_of_late {s : State} {w : Wy} {at_ : Nat} (hb : s.before w 11 = true) (hcov : s.cover.coverer = none)
    (hrel : s.released w.peer = false) (harr : (s.startOf w).arriveAt = some at_) (hlate : s.since at_ (sec 60) = true) :
    execTieSyncTimeout w s = .next ((List.range 14).foldl State.ringStep
      (((s.modStart w (fun x => { x with step := 11, ended := x.ended ++ [(11, 1, 0)] })).setRel w.peer false).beginCover w false 3)) := by
  unfold execTieSyncTimeout
  dsimp only
  have all : (s.before w 11 && s.cover.coverer.isNone && (!s.released w.peer || s.heldWy w.peer || (s.startOf w.peer).failed
      || (!s.running w.peer && decide (7 ≤ (s.startOf w.peer).step))) && (s.startOf w).arriveAt.any (fun t => s.since t (sec 60))) = true := by
    rw [harr, Option.any_some, hlate, hb, hcov, hrel]
    rfl
  rw [if_pos all]

/-! ### The wall, the service and the end of a start (R192, R432, R490, R503) -/

/-- The time of the last attempt to join. -/
def State.joinTried (s : State) : State := s.modWall (fun x => { x with joinAt := s.now })

theorem State.wallJoin_of_still {s : State} {w : Wy}
    (h : s.wall.st = .member ∨ s.wall.st = .joining ∨ (s.wall.identity = false ∧ s.autoJoin = false)) :
    s.wallJoin w = s.joinTried.stepEnd w 12 0 0 := by
  have auto : s.joinTried.autoJoin = s.autoJoin := rfl
  have st : s.joinTried.wall.st = s.wall.st := rfl
  have identity : s.joinTried.wall.identity = s.wall.identity := rfl
  have chosen : (if s.wall.st = .member || s.wall.st = .joining then s.joinTried
      else if s.wall.identity then s.joinTried.join w else if s.autoJoin then (s.joinTried.autoRegs w).join w else s.joinTried) = s.joinTried := by
    rcases h with h | h | ⟨hid, hauto⟩
    · rw [if_pos (by simp [h])]
    · rw [if_pos (by simp [h])]
    · rw [hid, hauto]
      simp
  refine (congrArg (fun s1 : State => if s1.wall.st = .member || s1.wall.st = .joining || !(s1.wall.identity || s1.autoJoin)
    then s1.stepEnd w 12 0 0 else s1) chosen).trans (if_pos ?_)
  rw [auto, st, identity]
  rcases h with h | h | ⟨hid, hauto⟩
  · simp [h]
  · simp [h]
  · simp [hid, hauto]

theorem State.joined_holds {s : State} {w : Wy} (g : Goes s w) :
    ((s.joinTried.stepEnd w 12 0 0).startOf w).step = 12 ∧ (s.joinTried.stepEnd w 12 0 0).wall.joinAt = s.now := by
  have g' := g.keep (t := s.joinTried) State.modWall_keeps (by decide) (by decide)
  refine ⟨State.stepEnd_step g' (by decide), ?_⟩
  rw [(State.stepEnd_stays g' (by decide)).wall_eq (by decide)]
  rfl

theorem State.commitTrial_step (s : State) (w : Wy) : ((s.commitTrial w).startOf w).step = (s.startOf w).step := by
  unfold State.commitTrial
  dsimp only
  split
  · rfl
  · rw [State.modStart_start, State.fwCommit_keeps.startOf_eq (by decide)]

theorem State.startOver_fails (s : State) : s.startOver.plinth.failStarts = s.plinth.failStarts := by
  unfold State.startOver
  dsimp only
  split
  · rfl
  · split
    · rfl
    · rw [State.eraseRing_keeps.plinth_eq (by decide)]
      rfl

/-- A wythe in service: its queues are open, and the start has not failed. -/
def State.opened (s : State) (w : Wy) : State :=
  (s.modWy w (fun y => { y with serving := true })).modPlinth (fun p => { p with
    failStarts := 0
    training := p.training.filter (fun t => t.1 ≠ w) ++ [(w, s.rfld (.clk w) CLK_DRAM_RATE 15 0)] })

theorem State.opened_stays (s : State) (w : Wy) : Keeps [.serving, .plinth] s (s.opened w) := by
  refine .step State.modPlinth_keeps (by decide) (.modWy .refl fun y => ?_)
  constructor <;> intro h
  case serving => exact absurd (by decide) h
  all_goals rfl

theorem State.enterRecovery_plinth (s : State) :
    s.enterRecovery.plinth.startOn = false ∧ s.enterRecovery.plinth.failStarts = s.plinth.failStarts := by
  unfold State.enterRecovery
  rw [State.romOnly_keeps.plinth_eq (by decide)]
  have reset : ((s.dropChannels.resetWythe .w0 7).resetWythe .w1 7).plinth = s.plinth := by
    rw [State.resetWythe_keeps.plinth_eq (by decide), State.resetWythe_keeps.plinth_eq (by decide), State.dropChannels_keeps.plinth_eq (by decide)]
  generalize (s.dropChannels.resetWythe .w0 7).resetWythe .w1 7 = t at reset ⊢
  refine ⟨rfl, ?_⟩
  rw [← reset]
  rfl

theorem State.failStart_fails (s : State) : s.failStart.plinth.startOn = false ∧ s.failStart.plinth.failStarts = s.plinth.failStarts + 1
    ∧ (s.plinth.failStarts = 2 → s.failStart.plinth.recovery = true) := by
  unfold State.failStart
  dsimp only
  split
  · next hthree =>
    obtain ⟨hon, hfails⟩ := (s.modPlinth (fun p => { p with startOn := false, failStarts := s.plinth.failStarts + 1 })).enterRecovery_plinth
    exact ⟨hon, hfails, fun _ => State.enterRecovery_recovery _⟩
  · next hless => exact ⟨rfl, rfl, fun h => absurd (congrArg (· + 1) h) hless⟩

end Sys2Proof.Machine

namespace Sys2Proof
open Sys2Proof.Machine

/-- Settles O43, step by step: a step that a wythe ends moves its start on and writes its record (`State.stepEnd_ring`). -/
theorem startStepsEnd : Obligations.StartStepsEnd := by
  unfold Obligations.StartStepsEnd
  intro w s
  refine ⟨fun cal ksA ksB hup hon hstep hoff => ?_, fun hup hon hstep => ?_, fun hup hserv hoff hon hstep hfail hrel hkeys => ?_,
    fun saved l hb hmarks hl => ?_, fun lanes ports speed width hb => ?_, fun okA okB b trial hb hslot hok hgood => ?_,
    fun scale conv ports hb => ⟨fun hempty => ?_, fun h g hh hg => ?_⟩, fun aOk bOk hb => ⟨fun hcov hcopy => ?_, fun hcov => ?_⟩,
    fun failed lostRecs lostStripes hb => ?_, fun hb htie => ⟨fun hcov harr => ?_, fun hcov hrun => ?_⟩,
    fun at_ hb hcov hrel harr hlate => ?_, fun hb hst => ⟨?_, fun hlate => ?_⟩, fun hb hwhole hcov => ?_, fun hon hlate hout => ?_⟩
  · refine runs_intro (i := .plinthRom cal ksA ksB) ((if_neg (by simp [hup, hon, hstep])).trans (if_neg (by simp [hoff]))) ?_
    have boot := s.plinthBoot_booted cal ksA ksB
    rw [State.brickStep_plinth]
    exact ⟨boot.calOk, boot.resetAt, fun v => State.brickStep_start _ _ _ _ v⟩
  · exact runs_intro (congrArg Host.Outcome.next (if_pos (by simp [hup, hon, hstep]))) fun v => State.brickStep_start _ _ _ _ v
  · obtain ⟨hreleased, g⟩ := State.releaseWythe_goes hkeys hfail
    have stays := State.stepEnd_stays g (w := w) (step := 4) (result := 0) (variant := 0) (by decide)
    have hstep' := State.stepEnd_step g (w := w) (step := 4) (result := 0) (variant := 0) (by decide)
    refine runs_intro (i := .wytheRelease w true) (if_neg (by simp [hup, hserv, hoff, hon, hstep, hfail, hrel])) ?_
    rw [if_pos rfl]
    have goal : ∀ {t : State} {l : List Part}, Keeps l ((s.releaseWythe w).stepEnd w 4 0 0) t → .cover ∉ l → .start ∉ l →
        t.released w = true ∧ t.heldWy w = false ∧ (t.startOf w).step = 4 := by
      intro t l k hc hs
      refine ⟨?_, ?_, ?_⟩
      · rw [k.released_eq hc, stays.released_eq (by decide), hreleased]
      · rw [k.heldWy_eq hc, stays.heldWy_eq (by decide), g.held]
      · rw [k.startOf_eq hs, hstep']
    split
    · exact goal State.finishRekey_keeps (by decide) (by decide)
    · exact goal .refl (l := []) (by decide) (by decide)
  · obtain ⟨kept, i, hexec, hfresh, hi⟩ := execDramTrain_of_before (saved := saved) (l := l) hb
    have trained := State.dramTrained_of_good (State.goes_of_before hb) hmarks hl hi
    refine runs_intro hexec ⟨trained.1, trained.2.1, fun hsaved => ?_⟩
    rw [trained.2.2, hi (hfresh hsaved), dramRate_of_good hl]
    rfl
  · refine runs_intro (i := .linkTrain w lanes ports (some (speed, width))) (if_neg (by simp [hb])) ?_
    have g := State.goes_of_before hb
    obtain ⟨htie, hheld⟩ := s.tieTrain_up lanes
    dsimp only
    generalize hs1 : (if s.released w.peer && !s.heldWy w.peer && !s.cover.tieUp && !s.cover.tieFailed then s.tieTrain lanes else s) = s1
    have g1 : Goes s1 w := by
      rw [← hs1]
      split
      · exact ⟨(hheld w).trans g.held, ((State.tieTrain_keeps (s := s) (lanes := lanes)).startOf_eq (by decide) w) ▸ g.start⟩
      · exact g
    generalize hs2 : ports.foldl (fun s n => s.portUp w n)
      ((List.range (if (s.wy w).portMode = 2 then 2 else 4)).foldl (fun s n => s.putOnline (macPage w n)) s1) = s2
    have k2 : Keeps [.pcie, .ports, .regs] s1 s2 := by
      rw [← hs2]
      exact .foldl (fun _ _ => State.portUp_keeps) (.foldl (fun _ _ => State.putOnline_keeps.mono (by decide)) .refl)
    generalize hs3 : s2.modPcie w (fun e => { e with linkUp := true, speed := speed, width := width }) = s3
    have k3 : Keeps [.pcie, .ports, .regs] s1 s3 := by
      rw [← hs3]
      exact .step State.modPcie_keeps (by decide) k2
    have g3 := g1.keep k3 (by decide) (by decide)
    have ended := State.stepEnd_stays g3 (w := w) (step := 6) (result := 0) (variant := 0) (by decide)
    have link := (State.stepEnd_link g3 (w := w) (step := 6) (result := 0) (variant := 0) (by decide) w).pcie
    have hpcie : (s3.wy w).pcie = { (s2.wy w).pcie with linkUp := true, speed := speed, width := width } := by
      rw [← hs3, State.modPcie_wy]
    rw [hpcie] at link
    refine ⟨State.stepEnd_step g3 (by decide), congrArg Pcie.linkUp link, congrArg Pcie.speed link, congrArg Pcie.width link,
      fun hpeer hpeerHeld hdown hok => ?_⟩
    rw [ended.cover_eq (by decide), k3.cover_eq (by decide), ← hs1, if_pos (by simp [hpeer, hpeerHeld, hdown, hok]), htie]
  · have g := State.goes_of_before hb
    generalize hs1 : (if trial then s.stamp 4 w.num b 3 (s.seqOf 4 w.num b) else s) = s1
    have k1 : Keeps [.fw] s s1 := by
      rw [← hs1]
      split
      · exact State.stamp_keeps
      · exact .refl
    obtain ⟨hrun, hheld, hstart⟩ := s1.runImage_runs w b trial
    have g1 := g.keep k1 (by decide) (by decide)
    have g2 : Goes (s1.runImage w b trial) w := ⟨(hheld w).trans g1.held, hstart ▸ g1.start⟩
    have ended := State.stepEnd_start g2 (w := w) (step := 7) (result := 0) (variant := b2n b) (by decide)
    refine runs_intro (i := .imageVerify w okA okB) (t := (s1.runImage w b trial).stepEnd w 7 0 (b2n b)) ?_
      ⟨State.stepEnd_step g2 (by decide), ?_, ?_, ?_⟩
    · show execImageVerify w okA okB s = _
      unfold execImageVerify
      rw [if_neg (by simp [hb]), hslot]
      dsimp only
      rw [hs1, if_pos (by simp [hok, hgood])]
    · rw [ended, hstart]
      rfl
    · rw [ended, hstart]
      rfl
    · rw [(State.stepEnd_stays g2 (by decide)).running_eq (by decide), hrun]
  · have g := (State.goes_of_before hb).keep (State.takeSettings_keeps (w := w) (g := none) (scale := scale) (ports := ports)) (by decide) (by decide)
    refine runs_intro (i := .settingsLoad w true scale conv ports) (t := (s.takeSettings w none scale ports).stepEnd w 8 0 0) ?_
      (State.stepEnd_step g (by decide))
    show execSettingsLoad w true scale conv ports s = _
    unfold execSettingsLoad
    simp [hb, hempty, readable]
  · have g' := (State.goes_of_before hb).keep (State.takeSettings_keeps (w := w) (g := some g) (scale := scale) (ports := ports)) (by decide)
      (by decide)
    refine runs_intro (i := .settingsLoad w true scale conv ports) (t := (s.takeSettings w (some g) scale ports).stepEnd w 8 0 0) ?_
      ⟨State.stepEnd_step g' (by decide), ?_⟩
    · show execSettingsLoad w true scale conv ports s = _
      unfold execSettingsLoad
      simp [hb, hh, hg]
    · rw [(State.stepEnd_writes g' (by decide)).reg _ _ (by decide) (by simp [pageKind]), State.takeSettings_fwu]
  · refine runs_intro (i := .anchorLoad w aOk bOk) ((if_neg (by simp [hb])).trans ((if_neg (by simp [hcov])).trans (if_neg ?_))) ?_
    · intro h
      simp only [Bool.and_eq_true, Bool.not_eq_true'] at h
      simp [h.1.1, h.1.2] at hcopy
    have lost : ∀ (u : State) (c : Prop) [Decidable c] (ch : Nat),
        Keeps [.pcie, .regs, .media, .arriving] u (if c then u.loseAnchor w.num ch else u) := by
      intro u c _ ch
      split
      · exact State.loseAnchor_keeps
      · exact .refl
    generalize hs1 : (if (s.set_ w.num).copyA && !aOk then s.loseAnchor w.num (32 * w.num) else s) = s1
    generalize hs2 : (if (s.set_ w.num).copyB && !bOk then s1.loseAnchor w.num (32 * w.num + 16) else s1) = s2
    have k : Keeps [.cip, .pcie, .regs, .media, .arriving] s (((s2.loadSet w.num).loadTables w).loadSlots w) :=
      .step State.loadSlots_keeps (by decide) (.step State.loadTables_keeps (by decide) (.step State.loadSet_keeps (by decide)
        (.step (hs2 ▸ lost s1 _ _) (by decide) ((hs1 ▸ lost s _ _).mono (by decide)))))
    have g := (State.goes_of_before hb).keep k (by decide) (by decide)
    refine ⟨State.stepEnd_step g (by decide), ?_⟩
    rw [(State.stepEnd_stays g (by decide)).set_eq (by decide), State.loadSlots_keeps.set_eq (by decide), State.loadTables_sets,
      State.loadSet_loaded]
  · have k : Keeps [.cip, .regs, .media] s ((s.loadTables w).loadSlots w) := .step State.loadSlots_keeps (by decide) (State.loadTables_keeps.mono (by decide))
    refine runs_intro (i := .anchorLoad w aOk bOk) ((if_neg (by simp [hb])).trans (if_pos (Option.isSome_iff_ne_none.mpr hcov))) ?_
    exact State.stepEnd_step ((State.goes_of_before hb).keep k (by decide) (by decide)) (by decide)
  · have g := State.goes_of_before hb
    by_cases hcov : s.cover.coverer = none
    · refine runs_intro (i := .tagScan w failed lostRecs lostStripes) ((if_neg (by simp [hb])).trans (if_neg (by simp [hcov]))) ?_
      generalize (if cleanSet (s.set_ w.num) then [] else failed) = gone
      have k1 : Keeps [.relief, .pcie, .regs, .store, .stripes, .media, .arriving, .pwr] s
          ((((gone.foldl (fun s c => s.degradeChan (32 * w.num + c.val)) s).resyncSet w.num).redoErases w.num).restoreWindow w lostRecs
            lostStripes) :=
        .step State.restoreWindow_keeps (by decide) (.step State.redoErases_keeps (by decide) (.step State.resyncSet_keeps (by decide)
          (.foldl (fun _ _ => State.degradeChan_keeps.mono (by decide)) .refl)))
      have scanned := (((gone.foldl (fun s c => s.degradeChan (32 * w.num + c.val)) s).resyncSet w.num).redoErases w.num).restoreWindow_scanned
        w lostRecs lostStripes
      generalize (((gone.foldl (fun s c => s.degradeChan (32 * w.num + c.val)) s).resyncSet w.num).redoErases w.num).restoreWindow w lostRecs
        lostStripes = s2 at k1 scanned
      have g2 := (g.keep k1 (by decide) (by decide)).keep (State.settleSet_keeps (i := w.num)) (by decide) (by decide)
      refine ⟨State.stepEnd_step g2 (by decide), fun _ => ?_⟩
      rw [(State.stepEnd_stays g2 (by decide)).set_eq (by decide)]
      exact (congrArg SetSt.scanned (State.settleSet_sets w.num)).trans scanned
    · refine runs_intro (i := .tagScan w failed lostRecs lostStripes)
        ((if_neg (by simp [hb])).trans (if_pos (Option.isSome_iff_ne_none.mpr hcov))) ?_
      exact ⟨State.stepEnd_step g (by decide), fun h => absurd h hcov⟩
  · obtain ⟨gx, ha, hp⟩ := State.atTie_arrived hb
    have cover : (s.atTie w).cover = s.cover := State.modStart_keeps.cover_eq (by decide)
    have done := State.trySync_of_start (cover ▸ htie) (cover ▸ hcov) ha (hp.trans harr)
    refine runs_intro (i := .tieSync w) ((congrArg Host.Outcome.next (if_pos hb)).trans (congrArg Host.Outcome.next done)) ?_
    have g0 := gx.syncDone .w0
    have other : (((s.atTie w).syncDone .w0).syncDone .w1).startOf .w0 = ((s.atTie w).syncDone .w0).startOf .w0 :=
      State.syncDone_start_peer g0 .w1
    have at_ : ∀ v, ((((s.atTie w).syncDone .w0).syncDone .w1).startOf v).step = 11
      | .w0 => by rw [other, State.syncDone_step gx]
      | .w1 => State.syncDone_step g0 .w1
    exact ⟨at_ w, at_ w.peer⟩
  · obtain ⟨gx, ha, -⟩ := State.atTie_arrived hb
    have k : Keeps [.start] s (s.atTie w) := State.modStart_keeps
    have cover := k.cover_eq (by decide)
    have done := State.trySync_of_cover (cover ▸ htie) (cover ▸ hcov) ha ((k.running_eq (by decide) _).trans hrun)
    refine runs_intro (i := .tieSync w) ((congrArg Host.Outcome.next (if_pos hb)).trans (congrArg Host.Outcome.next done)) ?_
    have gw := gx.keep (State.takeWide_keeps (from_ := w.peer)) (by decide) (by decide)
    have fw : (((s.atTie w).takeWide w.peer).syncDone w).fw = s.fw := by
      rw [(State.syncDone_stays gw w).fw_eq (by decide), State.takeWide_keeps.fw_eq (by decide), k.fw_eq (by decide)]
    unfold State.metCover
    dsimp only
    refine ⟨?_, ?_⟩
    · rw [State.modFw_keeps.startOf_eq (by decide)]
      exact State.syncDone_step gw w
    · rw [State.modFw_keeps.cover_eq (by decide)]
      simp only [State.mayHandBack, fw]
  · obtain ⟨hrelw, hheld, hfail, hstep⟩ := State.before_cases hb
    refine runs_intro (i := .tieSyncTimeout w) (execTieSyncTimeout_of_late hb hcov hrel harr ((State.since_sec s at_ 60).mpr hlate)) ?_
    generalize hs1 : (s.modStart w (fun x => { x with step := 11, ended := x.ended ++ [(11, 1, 0)] })).setRel w.peer false = s1
    have start : (s1.startOf w).step = 11 := by
      rw [← hs1, State.setRel_keeps.startOf_eq (by decide), State.modStart_start]
    have covers := s1.beginCover_covers w false 3
    have k := foldl_ringStep_keeps (List.range 14) (s1.beginCover w false 3)
    refine ⟨?_, ?_, ?_⟩
    · rw [k.startOf_eq (by decide), State.beginCover_start, start]
    · rw [k.cover_eq (by decide), covers.1]
    · rw [k.heldWy_eq (by decide), covers.2.1]
  · exact runs_intro (congrArg Host.Outcome.next ((if_pos hb).trans (State.wallJoin_of_still hst))) (State.joined_holds (State.goes_of_before hb))
  · have late := (State.since_sec s s.wall.joinAt 1).mpr hlate
    refine runs_intro (congrArg Host.Outcome.next ((if_pos ?_).trans (State.wallJoin_of_still hst))) (State.joined_holds (State.goes_of_before hb))
    rw [hb, late]
    rfl
  · have g := (State.goes_of_before hb).keep (s.opened_stays w) (by decide) (by decide)
    have opened : ((s.opened w).wy w).serving = true ∧ (s.opened w).plinth.failStarts = 0 := by
      cases w <;> exact ⟨rfl, rfl⟩
    have k := State.stepEnd_stays g (w := w) (step := 13) (result := 0) (variant := 0) (by decide)
    refine runs_intro (i := .serviceOpen w) (t := ((((s.opened w).stepEnd w 13 0 0).commitTrial w).startOver).powerEval) (if_neg ?_) ⟨?_, ?_, ?_⟩
    · simpa [hb, hcov] using hwhole
    · rw [State.powerEval_keeps.startOf_eq (by decide), State.startOver_keeps.startOf_eq (by decide), State.commitTrial_step,
        State.stepEnd_step g (by decide)]
    · rw [State.powerEval_keeps.serving_eq (by decide), State.startOver_keeps.serving_eq (by decide), State.commitTrial_keeps.serving_eq (by decide),
        k.serving_eq (by decide), opened.1]
    · rw [State.powerEval_keeps.plinth_eq (by decide), State.startOver_fails, State.commitTrial_keeps.plinth_eq (by decide),
        k.plinth_eq (by decide), opened.2]
  · refine runs_intro (congrArg Host.Outcome.next (if_pos ?_)) (State.failStart_fails s)
    have late := (State.since_sec s s.plinth.goodAt 600).mpr hlate
    have none : wythes.any (fun w => (s.startOf w).arriveAt.isSome || 11 ≤ (s.startOf w).step) = false := by
      refine List.any_eq_false.mpr fun v _ => ?_
      obtain ⟨harr, hstep⟩ := hout v
      simp only [harr, Option.isSome_none, Bool.false_or, decide_eq_true_eq]
      omega
    rw [hon, late, none]
    rfl

end Sys2Proof
end

section
/-! PROOFS. Settings, policies and the wall settings (R133, R190, R505-R507). -/

namespace Sys2Proof.Machine

/-! ### The settings store -/

theorem getLast?_put {α : Type} (l : List α) (a : α) : ((l ++ [a]).drop (l.length - 1)).getLast? = some a := by
  rw [List.drop_append_of_le_length (by omega), List.getLast?_append, List.getLast?_singleton, Option.some_or]

theorem State.writeGen_last (s : State) (w : Wy) (g : SetGen) : ((s.writeGen w g).setStore w).getLast? = some g := by
  cases w <;> exact getLast?_put _ g

theorem State.writeGen_store_peer (s : State) (w : Wy) (g : SetGen) : (s.writeGen w g).setStore w.peer = s.setStore w.peer := by
  cases w <;> rfl

/-- The records of a new generation, from those of the store's newest. -/
def State.madeGen (s : State) (f : List Setting → List Setting) (w : Wy) : SetGen :=
  let old := (s.setStore w).getLast?
  { gen := ((old.map (fun x => x.gen)).getD 0) + 1, format := s.writesFormat (s.setWy w.num), recs := f ((old.map (fun x => x.recs)).getD []) }

/-- Both stores end in a generation made of their newest. -/
theorem State.newGen_last (s : State) (f : List Setting → List Setting) (w : Wy) : ∃ g, ((s.newGen f).setStore w).getLast? = some g
    ∧ g.gen = (((s.setStore w).getLast?).map (fun x => x.gen)).getD 0 + 1
    ∧ g.recs = f ((((s.setStore w).getLast?).map (fun x => x.recs)).getD []) := by
  have both : s.newGen f = (s.writeGen .w0 (s.madeGen f .w0)).writeGen .w1 ((s.writeGen .w0 (s.madeGen f .w0)).madeGen f .w1) := rfl
  rw [both]
  cases w with
  | w0 => exact ⟨s.madeGen f .w0, (congrArg List.getLast? (State.writeGen_store_peer _ .w1 _)).trans (State.writeGen_last s .w0 _), rfl, rfl⟩
  | w1 => exact ⟨_, State.writeGen_last _ .w1 _, rfl, rfl⟩

theorem Keeps.setStore_eq {l : List Part} {s t : State} (h : Keeps l s t) (hl : .fw ∉ l) (w : Wy) : t.setStore w = s.setStore w := by
  unfold State.setStore
  rw [h.fw_eq hl]

/-! ### Changes through the armature -/

theorem State.toLeader_forwards {s : State} (h : s.wall.arm.role ≠ .leader) (c : ArmChange) : s.toLeader c = s.emit (.armForward c) := if_neg h

/-- A change that a member hands on goes out, and the session's command is answered. -/
theorem State.emit_both (s : State) (a b : Output) : b ∈ ((s.emit a).emit b).out ∧ a ∈ ((s.emit a).emit b).out := by
  simp [State.emit]

end Sys2Proof.Machine

namespace Sys2Proof
open Sys2Proof.Machine

/-- Settles O47: a generation is made of the newest in each store (`State.newGen_last`), and a brick that is not the leader hands the change on. -/
theorem settingsAreKept : Obligations.SettingsAreKept := by
  unfold Obligations.SettingsAreKept
  intro session s hmay
  refine ⟨fun recs hrecs hopen hok => ?_, fun hst hrole => ⟨fun k o hk hpol => ?_, fun ks hks => ?_, fun ws hws => ?_⟩⟩
  · refine runs_intro (congrArg Host.Outcome.next (State.command_done hmay (by simp [hrecs, hopen, hok]))) ⟨State.mem_emit_out .., fun w => ?_⟩
    obtain ⟨g, hlast, hgen, hg⟩ := s.newGen_last (fun l => mergeSettings l recs) w
    refine ⟨g, ?_, hgen, hg⟩
    rw [State.emit_keeps.setStore_eq (by decide)]
    have k : Keeps [.wall] (s.newGen (fun l => mergeSettings l recs)) (recs.foldl (fun s x => match x with
        | .wall ws => s.modWall (fun y => { y with settings := ws })
        | _ => s) (s.newGen (fun l => mergeSettings l recs))) := by
      refine .foldl (fun v x => ?_) .refl
      split
      · exact State.modWall_keeps
      · exact .refl
    exact (congrArg List.getLast? (k.setStore_eq (by decide) w)).trans hlast
  · refine runs_intro (i := .keyspacePolicy session (.put k)) (t := (s.emit (.armForward (.policy { k with salt := o.salt }))).emit (.service session true)) ?_
      (State.emit_both ..)
    show execKeyspacePolicy session (.put k) s = _
    unfold execKeyspacePolicy
    dsimp only
    rw [hk]
    refine congrArg Host.Outcome.next ((State.command_done hmay (by simp [hst, hpol])).trans ?_)
    dsimp only
    rw [State.toLeader_forwards hrole]
    rfl
  · refine runs_intro (congrArg Host.Outcome.next (State.command_done hmay (by simp [hst, hks]))) ?_
    rw [State.toLeader_forwards hrole]
    exact State.emit_both ..
  · refine runs_intro (congrArg Host.Outcome.next (State.command_done hmay (by simp [hst, hws]))) ?_
    rw [State.toLeader_forwards hrole]
    exact State.emit_both ..

end Sys2Proof
end

section
/-! PROOFS. Staging and activation of firmware (R496-R503). -/

namespace Sys2Proof.Machine

/-! ### The slots -/

theorem find?_updFirst_of_ne {α : Type} {p q : α → Bool} {f : α → α} (hp : ∀ a, p a = true → q a = false) (hf : ∀ a, p a = true → q (f a) = false)
    (l : List α) : (updFirst p f l).find? q = l.find? q := by
  induction l with
  | nil => rfl
  | cons a l ih =>
    unfold updFirst
    split
    · next ha => rw [List.find?_cons_of_neg (by simp [hf a ha]), List.find?_cons_of_neg (by simp [hp a ha])]
    · rw [List.find?_cons, List.find?_cons, ih]

/-- A change of a slot that leaves which slot it is. -/
def SlotKept (f : FwSlot → FwSlot) : Prop := ∀ x, (f x).comp = x.comp ∧ (f x).set = x.set ∧ (f x).slotB = x.slotB

theorem State.modFwSlot_self {f : FwSlot → FwSlot} (hf : SlotKept f) (s : State) (comp i : Nat) (b : Bool) :
    (s.modFwSlot comp i b f).fwSlot comp i b = (s.fwSlot comp i b).map f := by
  refine find?_updFirst (fun x hx => ?_) s.fw.slots
  obtain ⟨hcomp, hset, hb⟩ := hf x
  rw [hcomp, hset, hb]
  exact hx

theorem State.modFwSlot_of_ne {f : FwSlot → FwSlot} (hf : SlotKept f) (s : State) {comp i j : Nat} {b c : Bool} (h : i ≠ j ∨ b ≠ c) :
    (s.modFwSlot comp i b f).fwSlot comp j c = s.fwSlot comp j c := by
  have other : ∀ x : FwSlot, (x.comp = comp && x.set = i && x.slotB = b) = true → (x.comp = comp && x.set = j && x.slotB = c) = false := by
    intro x hx
    simp only [Bool.and_eq_true, decide_eq_true_eq] at hx
    obtain ⟨⟨-, hset⟩, hb⟩ := hx
    rcases h with h | h
    · simp [hset, h]
    · simp [hb, h]
  refine find?_updFirst_of_ne other (fun x hx => ?_) s.fw.slots
  obtain ⟨hcomp, hset, hb⟩ := hf x
  rw [hcomp, hset, hb]
  exact other x hx

/-- The sequence of a slot that is committed, else 0. -/
def State.commitSeq (s : State) (comp i : Nat) (b : Bool) : Nat :=
  if s.slotState comp i b = 4 then ((s.fwSlot comp i b).map slotSeq).getD 0 else 0

theorem State.committedB_eq (s : State) (comp i : Nat) : s.committedB comp i = decide (s.commitSeq comp i false < s.commitSeq comp i true) := rfl

theorem State.commitSeq_congr {s t : State} {comp i : Nat} {b : Bool} (h : t.fwSlot comp i b = s.fwSlot comp i b) :
    t.commitSeq comp i b = s.commitSeq comp i b := by
  rw [State.commitSeq, State.slotState, h, State.commitSeq, State.slotState]

/-- The inactive slot of a component in a set. -/
def State.idleSlot (s : State) (comp i : Nat) : Option FwSlot := s.fwSlot comp i (s.idleB comp i)

/-- From one state to another the inactive slot of one set is changed, the slots that are inactive and those of the other sets stay. -/
structure IdleStep (Q : Option FwSlot → Option FwSlot → Prop) (comp i : Nat) (s t : State) : Prop where
  idle : ∀ j, t.idleB comp j = s.idleB comp j
  rest : ∀ j, j ≠ i → t.idleSlot comp j = s.idleSlot comp j
  slot : Q (s.idleSlot comp i) (t.idleSlot comp i)

/-- What changes the slot that is not the newer committed one, and does not commit it, leaves which that is. -/
theorem State.modFwSlot_committedB {f : FwSlot → FwSlot} (hf : SlotKept f) (hst : ∀ x, slotSt (f x) ≠ 4) (s : State) (comp i j : Nat) {b : Bool}
    (hb : b = !s.committedB comp i) : (s.modFwSlot comp i b f).committedB comp j = s.committedB comp j := by
  rw [State.committedB_eq, State.committedB_eq]
  by_cases hj : i = j
  · subst hj
    have zero : (s.modFwSlot comp i b f).commitSeq comp i b = 0 := by
      refine if_neg ?_
      rw [State.slotState, State.modFwSlot_self hf]
      cases s.fwSlot comp i b with
      | none => simp
      | some x => exact hst x
    have same : (s.modFwSlot comp i b f).commitSeq comp i (!b) = s.commitSeq comp i (!b) :=
      State.commitSeq_congr (State.modFwSlot_of_ne hf s (.inr (by simp)))
    rw [State.committedB_eq] at hb
    cases b with
    | false =>
      have hlt : s.commitSeq comp i false < s.commitSeq comp i true := by simpa using hb
      rw [zero, show (s.modFwSlot comp i false f).commitSeq comp i true = s.commitSeq comp i true from same]
      simp only [decide_eq_decide]
      omega
    | true =>
      have hle : s.commitSeq comp i true ≤ s.commitSeq comp i false := by simpa using hb
      rw [zero]
      simp only [decide_eq_decide]
      omega
  · rw [State.commitSeq_congr (State.modFwSlot_of_ne hf s (.inl hj)), State.commitSeq_congr (State.modFwSlot_of_ne hf s (.inl hj))]

/-- What changes an inactive slot, and does not commit it, leaves which slots are inactive. -/
theorem State.modFwSlot_idleB {f : FwSlot → FwSlot} (hf : SlotKept f) (hst : ∀ x, slotSt (f x) ≠ 4) (s : State) (comp i j : Nat) :
    (s.modFwSlot comp i (s.idleB comp i) f).idleB comp j = s.idleB comp j := by
  have kept : Keeps [.fw] s (s.modFwSlot comp i (s.idleB comp i) f) := State.modFwSlot_keeps
  have committed : s.idleB comp i = (!s.committedB comp i) →
      (s.modFwSlot comp i (s.idleB comp i) f).committedB comp j = s.committedB comp j := State.modFwSlot_committedB hf hst s comp i j
  generalize hb : s.idleB comp i = b at kept committed ⊢
  generalize s.modFwSlot comp i b f = t at kept committed ⊢
  unfold State.idleB State.runsB at hb ⊢
  rw [kept.plinth_eq (by decide), kept.start_eq (by decide)]
  split
  · rfl
  · next h5 =>
    rw [if_neg h5] at hb
    split
    · rfl
    · next h1 =>
      rw [if_neg h1] at hb
      split
      · rfl
      · next h4 =>
        rw [if_neg h4] at hb
        rw [committed hb.symm]

theorem State.modFwSlot_step {f : FwSlot → FwSlot} {Q : Option FwSlot → Option FwSlot → Prop} (hf : SlotKept f) (hst : ∀ x, slotSt (f x) ≠ 4)
    (s : State) (comp i : Nat) (hQ : Q (s.idleSlot comp i) ((s.idleSlot comp i).map f)) :
    IdleStep Q comp i s (s.modFwSlot comp i (s.idleB comp i) f) := by
  have idle := State.modFwSlot_idleB hf hst s comp i
  refine ⟨idle, fun j hj => ?_, ?_⟩
  · rw [State.idleSlot, idle, State.modFwSlot_of_ne hf s (.inl (Ne.symm hj)), State.idleSlot]
  · have self : (s.modFwSlot comp i (s.idleB comp i) f).idleSlot comp i = (s.idleSlot comp i).map f := by
      rw [State.idleSlot, idle, State.modFwSlot_self hf, State.idleSlot]
    rw [self]
    exact hQ

theorem IdleStep.foldl {Q : Option FwSlot → Option FwSlot → Prop} {comp : Nat} {f : State → Nat → State}
    (hf : ∀ s i, IdleStep Q comp i s (f s i)) {l : List Nat} (hl : l.Nodup) (s : State) :
    (∀ j, (l.foldl f s).idleB comp j = s.idleB comp j) ∧ (∀ j, j ∉ l → (l.foldl f s).idleSlot comp j = s.idleSlot comp j)
      ∧ ∀ i ∈ l, Q (s.idleSlot comp i) ((l.foldl f s).idleSlot comp i) := by
  induction l generalizing s with
  | nil => exact ⟨fun _ => rfl, fun _ _ => rfl, fun _ h => absurd h (by simp)⟩
  | cons a l ih =>
    obtain ⟨hnot, hl⟩ := List.nodup_cons.mp hl
    obtain ⟨idle, rest, slot⟩ := ih hl (f s a)
    have first := hf s a
    refine ⟨fun j => (idle j).trans (first.idle j), fun j hj => ?_, fun i hi => ?_⟩
    · obtain ⟨hne, hj⟩ := not_or.mp (List.mem_cons.not.mp hj)
      exact (rest j hj).trans (first.rest j hne)
    · rcases List.mem_cons.mp hi with rfl | hi
      · rw [List.foldl_cons, rest i hnot]
        exact first.slot
      · have hne : i ≠ a := fun h => hnot (h ▸ hi)
        rw [List.foldl_cons, ← first.rest i hne]
        exact slot i hi

/-! ### Staging (R496, R497) -/

/-- A slot into which an image is put. -/
def imaged (comp : Nat) (h : ImgHeader) (plain : Option Bytes) (ok : Bool) (x : FwSlot) : FwSlot :=
  { x with
    hdr := if ok then some h else none
    good := ok && plain.isSome
    auth := ok && comp ≠ 4
    table := if ok then tableIn comp (plain.getD []) else []
    stamps := [] }

/-- A slot with one more stamp (R498). -/
def stamped (kind seq tm : Nat) (x : FwSlot) : FwSlot := { x with stamps := x.stamps ++ [(kind, seq, tm)] }

theorem slotSt_stamped (kind seq tm : Nat) (x : FwSlot) : slotSt (stamped kind seq tm x) = kind := by simp [slotSt, stamped]

theorem stageSets_nodup (comp mask : Nat) : (stageSets comp mask).Nodup := by
  unfold stageSets compSets
  split
  · split
    · decide
    · exact List.Nodup.filter _ (by decide)
  · split
    · decide
    · decide

theorem State.putImages {comp : Nat} (s : State) (h : ImgHeader) (plain : Option Bytes) (ok : Bool) {l : List Nat} (hl : l.Nodup) :
    (∀ j, (l.foldl (fun s i => s.putImage comp i h plain ok) s).idleB comp j = s.idleB comp j)
      ∧ ∀ i ∈ l, (l.foldl (fun s i => s.putImage comp i h plain ok) s).idleSlot comp i = (s.idleSlot comp i).map (imaged comp h plain ok) := by
  obtain ⟨idle, -, slot⟩ := IdleStep.foldl (Q := fun x y => y = x.map (imaged comp h plain ok)) (comp := comp)
    (f := fun s i => s.putImage comp i h plain ok)
    (fun s i => State.modFwSlot_step (f := imaged comp h plain ok) (fun _ => ⟨rfl, rfl, rfl⟩) (fun _ => by simp [imaged, slotSt]) s comp i rfl) hl s
  exact ⟨idle, slot⟩

theorem State.stampStaged {comp seq : Nat} (s : State) {l : List Nat} (hl : l.Nodup) :
    (∀ j, (l.foldl (fun s i => s.stamp comp i (s.idleB comp i) 1 seq) s).idleB comp j = s.idleB comp j)
      ∧ ∀ i ∈ l, ∃ tm, (l.foldl (fun s i => s.stamp comp i (s.idleB comp i) 1 seq) s).idleSlot comp i
        = (s.idleSlot comp i).map (stamped 1 seq tm) := by
  obtain ⟨idle, -, slot⟩ := IdleStep.foldl (Q := fun x y => ∃ tm, y = x.map (stamped 1 seq tm)) (comp := comp)
    (f := fun s i => s.stamp comp i (s.idleB comp i) 1 seq)
    (fun s i => State.modFwSlot_step (f := stamped 1 seq s.plinthTime) (fun _ => ⟨rfl, rfl, rfl⟩) (fun x => by simp [slotSt_stamped]) s comp i
      ⟨s.plinthTime, rfl⟩) hl s
  exact ⟨idle, slot⟩

theorem Keeps.slotState_eq {l : List Part} {s t : State} (h : Keeps l s t) (hl : .fw ∉ l) (comp i : Nat) (b : Bool) :
    t.slotState comp i b = s.slotState comp i b := by
  rw [State.slotState, State.fwSlot, h.fw_eq hl, State.slotState, State.fwSlot]

/-- STAGE of an image whose header passes the checks: the slots it goes to are STAGED, or EMPTY where its payload is not authentic. -/
theorem State.execStage_of_fault_none {s : State} {session comp mask : Nat} {header payload : Bytes} (hmay : s.may session 1 = true)
    (hfault : s.stageFault comp mask (imgHeader header) = none) :
    ((imgHeader header).len ≤ payload.length →
      s.payloadOk (imgHeader header) (imgPlain header (payload.take (imgHeader header).len)) = true →
      ∃ t, execStage session comp mask header payload s = .next t ∧ .service session true ∈ t.out
        ∧ ∀ i ∈ stageSets comp mask, (s.fwSlot comp i (s.idleB comp i)).isSome = true → t.slotState comp i (s.idleB comp i) = 1
          ∧ (t.fwSlot comp i (s.idleB comp i)).bind (fun x => x.hdr) = some (imgHeader header))
    ∧ ((imgHeader header).len ≤ payload.length →
      s.payloadOk (imgHeader header) (imgPlain header (payload.take (imgHeader header).len)) = false →
      ∃ t, execStage session comp mask header payload s = .next t ∧ .service session false ∈ t.out
        ∧ ∀ i ∈ stageSets comp mask, t.slotState comp i (s.idleB comp i) = 0)
    ∧ (¬(imgHeader header).len ≤ payload.length → ∃ t, execStage session comp mask header payload s = .next t) := by
  have hl := stageSets_nodup comp mask
  unfold execStage
  dsimp only
  rw [if_neg (by simp [hmay]), hfault]
  dsimp only
  generalize imgPlain header (payload.take (imgHeader header).len) = plain
  refine ⟨fun hlen hpay => ?_, fun hlen hpay => ?_, fun hlen => ?_⟩
  · rw [hpay, decide_eq_true hlen, Bool.and_self, if_pos rfl]
    obtain ⟨idle, slot⟩ := s.putImages (comp := comp) (imgHeader header) plain true hl
    generalize (stageSets comp mask).foldl (fun s i => s.putImage comp i (imgHeader header) plain true) s = s1 at idle slot ⊢
    obtain ⟨idle', slot'⟩ := s1.stampStaged (comp := comp) (seq := s.nextActSeq comp) hl
    generalize (stageSets comp mask).foldl (fun t i => t.stamp comp i (t.idleB comp i) 1 (s.nextActSeq comp)) s1 = s2 at idle' slot' ⊢
    refine ⟨_, rfl, State.mem_emit_out .., fun i hi hsome => ?_⟩
    have k : Keeps [.pcie, .regs] s2 ((s2.fwuNote 0 (some FWU_CNT_STAGED) (some FWU_EVT_STAGED)).emit (.service session true)) :=
      .step State.emit_keeps (by decide) State.fwuNote_keeps
    obtain ⟨tm, htm⟩ := slot' i hi
    obtain ⟨x, hx⟩ := Option.isSome_iff_exists.mp hsome
    have last : s2.fwSlot comp i (s.idleB comp i) = some (stamped 1 (s.nextActSeq comp) tm (imaged comp (imgHeader header) plain true x)) := by
      rw [← idle i, ← idle' i]
      exact htm.trans (by rw [slot i hi, State.idleSlot, hx]; rfl)
    rw [k.slotState_eq (by decide), State.slotState, last]
    refine ⟨by rw [Option.map_some, Option.getD_some, slotSt_stamped], ?_⟩
    rw [State.fwSlot, k.fw_eq (by decide), ← State.fwSlot, last]
    rfl
  · rw [hpay, decide_eq_true hlen, Bool.and_false, if_neg (by decide), if_pos rfl]
    obtain ⟨idle, slot⟩ := s.putImages (comp := comp) (imgHeader header) plain false hl
    generalize (stageSets comp mask).foldl (fun s i => s.putImage comp i (imgHeader header) plain false) s = s1 at idle slot ⊢
    refine ⟨_, rfl, State.mem_emit_out .., fun i hi => ?_⟩
    have k : Keeps [.pcie, .regs] s1 ((s1.fwuNote 5 (some FWU_CNT_REFUSED) (some FWU_EVT_REFUSED)).emit (.service session false)) :=
      .step State.emit_keeps (by decide) State.fwuNote_keeps
    have last : s1.fwSlot comp i (s.idleB comp i) = (s.idleSlot comp i).map (imaged comp (imgHeader header) plain false) := by
      rw [← idle i]
      exact slot i hi
    rw [k.slotState_eq (by decide), State.slotState, last]
    cases s.idleSlot comp i <;> rfl
  · rw [decide_eq_false hlen, Bool.false_and, if_neg (by decide), if_neg (by decide)]
    exact ⟨_, rfl⟩

/-! ### Stamps -/

theorem State.stamp_state (s : State) {comp i : Nat} {b : Bool} (kind seq : Nat) (h : (s.fwSlot comp i b).isSome = true) :
    (s.stamp comp i b kind seq).slotState comp i b = kind := by
  obtain ⟨x, hx⟩ := Option.isSome_iff_exists.mp h
  have self : (s.stamp comp i b kind seq).fwSlot comp i b = (s.fwSlot comp i b).map (stamped kind seq s.plinthTime) :=
    State.modFwSlot_self (f := stamped kind seq s.plinthTime) (fun _ => ⟨rfl, rfl, rfl⟩) s comp i b
  rw [State.slotState, self, hx]
  exact slotSt_stamped ..

theorem State.stamp_isSome (s : State) {comp i j : Nat} {b : Bool} (kind seq : Nat) (h : (s.fwSlot comp i b).isSome = true) :
    ((s.stamp comp j b kind seq).fwSlot comp i b).isSome = true := by
  by_cases hj : j = i
  · subst hj
    have self : (s.stamp comp j b kind seq).fwSlot comp j b = (s.fwSlot comp j b).map (stamped kind seq s.plinthTime) :=
      State.modFwSlot_self (f := stamped kind seq s.plinthTime) (fun _ => ⟨rfl, rfl, rfl⟩) s comp j b
    rw [self, Option.isSome_map, h]
  · have other : (s.stamp comp j b kind seq).fwSlot comp i b = s.fwSlot comp i b :=
      State.modFwSlot_of_ne (f := stamped kind seq s.plinthTime) (fun _ => ⟨rfl, rfl, rfl⟩) s (.inl hj)
    rw [other, h]

theorem State.stamp_state_of_ne (s : State) {comp i j : Nat} {b : Bool} (kind seq : Nat) (h : j ≠ i) :
    (s.stamp comp j b kind seq).slotState comp i b = s.slotState comp i b := by
  have other : (s.stamp comp j b kind seq).fwSlot comp i b = s.fwSlot comp i b :=
    State.modFwSlot_of_ne (f := stamped kind seq s.plinthTime) (fun _ => ⟨rfl, rfl, rfl⟩) s (.inl h)
  rw [State.slotState, other, State.slotState]

/-- Every slot of a component that is there shows the stamp that is written into all. -/
theorem State.foldl_stamp_state {comp i : Nat} {b : Bool} {kind seq : Nat} (l : List Nat) (s : State) (h : (s.fwSlot comp i b).isSome = true)
    (hi : i ∈ l ∨ s.slotState comp i b = kind) : (l.foldl (fun s i => s.stamp comp i b kind seq) s).slotState comp i b = kind := by
  induction l generalizing s with
  | nil => exact hi.resolve_left (by simp)
  | cons a l ih =>
    refine ih _ (s.stamp_isSome kind seq h) ?_
    by_cases ha : a = i
    · exact .inr (ha ▸ s.stamp_state kind seq (ha ▸ h))
    · rw [State.stamp_state_of_ne s kind seq ha]
      exact hi.imp_left fun hi => (List.mem_cons.mp hi).resolve_left (Ne.symm ha)

theorem State.foldl_stamp_isSome {comp i : Nat} {b : Bool} {kind seq : Nat} (l : List Nat) (s : State) (h : (s.fwSlot comp i b).isSome = true) :
    ((l.foldl (fun s i => s.stamp comp i b kind seq) s).fwSlot comp i b).isSome = true := by
  induction l generalizing s with
  | nil => exact h
  | cons a l ih => exact ih _ (s.stamp_isSome kind seq h)

/-! ### The end of an activation (R500, R502-R504) -/

theorem State.fwCommit_commits (s : State) (a : Activation) : (s.fwCommit a).fw.act = none
    ∧ ∀ i ∈ compSets a.comp a.w, (s.fwSlot a.comp i a.slotB).isSome = true → (s.fwCommit a).slotState a.comp i a.slotB = 4 := by
  have k : Keeps [.pcie, .regs, .flash] ((s.stampAll a.comp a.w a.slotB 4 a.seq).modFw (fun y => { y with act := none })) (s.fwCommit a) := by
    unfold State.fwCommit
    exact .step State.fwuNote_keeps (by decide) (State.raiseSecurity_keeps.mono (by decide))
  refine ⟨?_, fun i hi hsome => ?_⟩
  · rw [k.fw_eq (by decide)]
    rfl
  · rw [k.slotState_eq (by decide)]
    exact State.foldl_stamp_state _ s hsome (.inl hi)

theorem State.fwFallback_ends (s : State) : s.fwFallback.fw.act = none := by
  rw [State.fwFallback, State.fwuNote_keeps.fw_eq (by decide)]
  rfl

/-! ### Activations (R502, R503) -/

/-- The reload of the first port begins: its link goes down. -/
theorem State.serdesDue_of_there {s : State} {a : Activation} (hact : s.fw.act = some { a with trialAt := none }) (hcomp : a.comp = 3)
    (hport : a.port = 0) (hat : a.portAt = none) (hthere : s.portThere 0 = true) :
    s.serdesDue.fw = { s.fw with act := some { a with trialAt := none, port := 0, portAt := some s.now } } := by
  unfold State.serdesDue State.serdesNext
  rw [hact]
  dsimp only
  rw [if_neg (by simp [hcomp]), hport, if_neg (by decide), hat]
  dsimp only
  rw [if_pos hthere]
  have k : Keeps [.pcie, .ports, .regs] s (s.linkDown (portWy 0) (0 % 4)) := State.linkDown_keeps
  refine (congrArg (fun f : Fw => { f with act := some { a with trialAt := none, port := 0, portAt := some s.now } }) (k.fw_eq (by decide)))

theorem execTrialTimeout_of_late {s : State} {a : Activation} {at_ : Nat} (hact : s.fw.act = some a) (hcomp : a.comp = 4)
    (htrial : a.trialAt = some at_) (hlate : s.since at_ (sec 600) = true) (hstep : (s.startOf a.w).step < 13) :
    ∃ s1, execTrialTimeout s = .next (s1.fwFallback.restartWythe a.w 5) ∧ Keeps [.fw, .cover] s s1 := by
  have k : Keeps [.fw] s (if s.slotState 4 a.w.num a.slotB = 2 then s.stamp 4 a.w.num a.slotB 3 a.seq else s) := by
    split
    · exact State.stamp_keeps
    · exact .refl
  unfold execTrialTimeout
  rw [hact]
  dsimp only
  rw [htrial, Option.any_some, hlate, if_neg (by simp [hcomp]; omega)]
  generalize (if s.slotState 4 a.w.num a.slotB = 2 then s.stamp 4 a.w.num a.slotB 3 a.seq else s) = s1 at k ⊢
  exact ⟨_, rfl, .rec_ (k.mono (by decide)) fun p hp => by cases p <;> first | rfl | exact ⟨rfl, rfl⟩ | exact absurd (by decide) hp⟩

/-- An activation that passes its checks begins, and the session is answered. -/
theorem State.askActivate_session {s : State} {session comp : Nat} {w : Wy} {conv : Bool} (hmay : s.may session 1 = true)
    (h : s.actFault comp w conv = none) (cal ksA ksB : Bool) :
    (s.noteRefused (.session session) comp w conv).askActivate (.session session) comp w conv cal ksA ksB
      = (s.beginAct comp w conv cal ksA ksB).emit (.service session true) := by
  have noted : s.noteRefused (.session session) comp w conv = s := by
    unfold State.noteRefused
    rw [h]
    simp
  rw [noted]
  show s.command session 1 (s.actFault comp w conv).isNone (fun s => s.activate comp w conv cal ksA ksB) = _
  refine (State.command_done hmay (by rw [h]; rfl)).trans ?_
  unfold State.activate
  rw [h]

/-- What no stamp changes a trial's stamps do not. -/
theorem State.stampTrial_proj {β : Type} (π : State → β) (h : ∀ (s : State) (comp i : Nat) (b : Bool) (kind seq : Nat), π (s.stamp comp i b kind seq) = π s)
    (s : State) (a : Activation) : π (s.stampTrial a) = π s := by
  have all : ∀ (s : State) (kind : Nat), π (s.stampAll a.comp a.w a.slotB kind a.seq) = π s := fun s kind =>
    foldl_proj π (f := fun s i => s.stamp a.comp i a.slotB kind a.seq) (fun _ _ _ => h _ _ _ _ _ _) s
  unfold State.stampTrial
  dsimp only
  split
  · rw [all, all]
  · rw [all]

theorem State.stampTrial_isSome (s : State) (a : Activation) {i : Nat} (h : (s.fwSlot a.comp i a.slotB).isSome = true) :
    ((s.stampTrial a).fwSlot a.comp i a.slotB).isSome = true := by
  unfold State.stampTrial
  dsimp only
  split
  · exact State.foldl_stamp_isSome _ _ (State.foldl_stamp_isSome _ _ h)
  · exact State.foldl_stamp_isSome _ _ h

end Sys2Proof.Machine

namespace Sys2Proof
open Sys2Proof.Machine

/-- Settles O46: staging changes the inactive slots alone (`IdleStep`), a commitment stamps them all (`State.fwCommit_commits`). -/
theorem firmwareIsStagedAndActivated : Obligations.FirmwareIsStagedAndActivated := by
  unfold Obligations.FirmwareIsStagedAndActivated
  intro s
  refine ⟨fun session comp mask header payload hmay => ?_, fun session hmay => ⟨fun cal ksA ksB hok => ?_, fun hok => ?_, fun hok hthere => ?_,
    fun w conv hok => ?_⟩, fun a at_ hact => ⟨fun hcomp hport hlate hdown => ?_, fun hcomp htrial hlate hstep hkeys => ?_,
    fun hcomp hserv hlate => ?_⟩⟩
  · cases hfault : s.stageFault comp mask (imgHeader header) with
    | some c =>
      refine runs_intro (i := .stage session comp mask header payload) (t := (s.fwuRefuse c).emit (.service session false)) ?_
        ⟨nofun, fun c' _ => ⟨State.mem_emit_out .., State.fwuRefuse_keeps.fw_eq (by decide)⟩⟩
      show execStage session comp mask header payload s = _
      unfold execStage
      simp only [hmay, hfault, Bool.not_true, Bool.false_eq_true, if_false]
    | none =>
      have staged := State.execStage_of_fault_none hmay hfault (header := header) (payload := payload)
      by_cases hlen : (imgHeader header).len ≤ payload.length
      · cases hpay : s.payloadOk (imgHeader header) (imgPlain header (payload.take (imgHeader header).len)) with
        | true =>
          obtain ⟨t, hexec, hout, hslots⟩ := staged.1 hlen hpay
          exact runs_intro hexec ⟨fun _ _ => ⟨fun _ => ⟨hout, hslots⟩, nofun⟩, nofun⟩
        | false =>
          obtain ⟨t, hexec, hout, hslots⟩ := staged.2.1 hlen hpay
          exact runs_intro hexec ⟨fun _ _ => ⟨nofun, fun _ => ⟨hout, hslots⟩⟩, nofun⟩
      · obtain ⟨t, hexec⟩ := staged.2.2 hlen
        exact runs_intro hexec ⟨fun _ h => absurd h hlen, nofun⟩
  · refine runs_intro (congrArg Host.Outcome.next (State.askActivate_session hmay hok cal ksA ksB)) ⟨State.mem_emit_out .., ?_⟩
    generalize hs1 : ((s.modFw (fun y => { y with act := some { s.newAct 1 .w0 false 3 with trialAt := some s.now } })).stampTrial
      (s.newAct 1 .w0 false 3)) = s1
    have now : s1.now = s.now := by
      rw [← hs1]
      exact State.stampTrial_proj State.now (fun _ _ _ _ _ _ => rfl) _ _
    have boot := (s1.plinthBoot_booted cal ksA ksB).keep (State.emit_keeps (o := .service session true)) rfl
    have begun : s.beginAct 1 .w0 false cal ksA ksB = s1.plinthBoot cal ksA ksB := by rw [← hs1]; rfl
    rw [begun]
    exact ⟨boot.resetAt.trans now, boot.calOk, boot.sessions⟩
  · refine runs_intro (congrArg Host.Outcome.next (State.askActivate_session hmay hok true true true)) ⟨State.mem_emit_out .., ?_⟩
    generalize ha : s.newAct 2 .w0 false 5 = a
    generalize hs2 : ((s.modFw (fun y => { y with act := some { a with trialAt := none } })).stampTrial a).fwCommit a = s2
    have begun : s.beginAct 2 .w0 false true true true = (wythes.filter s2.running).foldl State.loadTables s2 := by
      rw [← hs2, ← ha]
      rfl
    have k : Keeps [.regs, .media] s2 (((wythes.filter s2.running).foldl State.loadTables s2).emit (.service session true)) :=
      .step State.emit_keeps (by decide) (.foldl (fun _ _ => State.loadTables_keeps) .refl)
    obtain ⟨hact, hst⟩ := State.fwCommit_commits ((s.modFw (fun y => { y with act := some { a with trialAt := none } })).stampTrial a) a
    rw [begun, k.fw_eq (by decide)]
    refine ⟨hs2 ▸ hact, fun i hi hsome => ?_⟩
    rw [k.slotState_eq (by decide), ← hs2]
    rw [← ha] at hst ⊢
    exact hst i (by simp [State.newAct, compSets]; omega) (State.stampTrial_isSome _ _ hsome)
  · refine runs_intro (congrArg Host.Outcome.next (State.askActivate_session hmay hok true true true)) ⟨State.mem_emit_out .., ?_⟩
    generalize ha : s.newAct 3 .w0 false 5 = a
    obtain ⟨hcomp, hport, hat⟩ : a.comp = 3 ∧ a.port = 0 ∧ a.portAt = none := ha ▸ ⟨rfl, rfl, rfl⟩
    generalize hs1 : (s.modFw (fun y => { y with act := some { a with trialAt := none } })).stampTrial a = s1
    have begun : s.beginAct 3 .w0 false true true true = s1.serdesDue := by
      rw [← hs1, ← ha]
      rfl
    have act : s1.fw.act = some { a with trialAt := none } := by
      rw [← hs1]
      exact State.stampTrial_proj (fun t => t.fw.act) (fun _ _ _ _ _ _ => rfl) _ a
    have now : s1.now = s.now := by
      rw [← hs1]
      exact State.stampTrial_proj State.now (fun _ _ _ _ _ _ => rfl) _ a
    have there : s1.portThere 0 = true := by
      rw [← hs1]
      exact (State.stampTrial_proj (fun t => t.portThere 0) (fun _ _ _ _ _ _ => rfl) _ a).trans hthere
    rw [begun, State.emit_keeps.fw_eq (by decide), State.serdesDue_of_there act hcomp hport hat there, now]
    exact ⟨_, rfl, hcomp, rfl, rfl⟩
  · refine runs_intro (congrArg Host.Outcome.next (State.askActivate_session hmay hok true true true)) ⟨State.mem_emit_out .., ?_⟩
    have begun : s.beginAct 4 w conv true true true = (s.modFw (fun y => { y with act := some { s.newAct 4 w conv 2 with trialAt := none } })).announceDrain w
        true ((s.modFw (fun y => { y with act := some { s.newAct 4 w conv 2 with trialAt := none } })).afld (.fwu w) FWU_CTRL 15 0) := rfl
    rw [begun, State.emit_keeps.fw_eq (by decide), State.announceDrain_keeps.fw_eq (by decide), State.emit_keeps.relief_eq (by decide),
      State.announceDrain_relief, if_pos rfl]
    exact ⟨⟨_, rfl, rfl, rfl, rfl, rfl⟩, rfl⟩
  · have late := (State.since_sec s at_ 5).mpr hlate
    refine runs_intro (i := .serdesLinkTimeout) (t := s.fwFallback) ?_ (State.fwFallback_ends s)
    show execSerdesLinkTimeout s = _
    unfold execSerdesLinkTimeout
    rw [hact]
    dsimp only
    rw [hport, Option.any_some, late, hdown, if_pos (by simp [hcomp])]
  · obtain ⟨s1, hexec, hkept⟩ := execTrialTimeout_of_late hact hcomp htrial ((State.since_sec s at_ 600).mpr hlate) hstep
    have keys : s1.fwFallback.keys ≠ none := by
      rw [State.fwFallback_keeps.keys_eq (by decide), hkept.keys_eq (by decide)]
      exact hkeys
    obtain ⟨hrel, -, -, hat, -⟩ := State.restartWythe_restarts keys a.w 5
    refine runs_intro hexec ⟨?_, hrel, hat⟩
    rw [State.restartWythe_keeps.fw_eq (by decide), State.fwFallback_ends]
  · have late := (State.since_sec s s.plinth.resetAt 10).mpr hlate
    obtain ⟨hend, hst⟩ := State.fwCommit_commits s a
    refine runs_intro (i := .plinthTrialCommit) (t := s.fwCommit a) ?_ ⟨hend, ?_⟩
    · show execPlinthTrialCommit s = _
      unfold execPlinthTrialCommit
      rw [hact]
      dsimp only
      rw [late, if_pos (by simp [hcomp, hserv])]
    · rw [hcomp] at hst
      exact hst 0 (by simp [compSets])

end Sys2Proof
end

section
/-! PROOFS. Commands that arrive on a queue (R43-R45, R79, R82, R85, R89, R103, R106). -/

namespace Sys2Proof.Machine

/-! ### Queues on RoCEv2 connections -/

/-- What keeps the connections keeps a queue but for its HELLO and its event number. -/
theorem LinkKept.queue {y z : Wythe} (k : LinkKept y z) {q : Nat} {x : Queue} (h : y.relief.queue q = some x) :
    ∃ x', z.relief.queue q = some x' ∧ x'.core = x.core := by
  have found : ∀ r : Relief, (r.queues.map Queue.core).find? (fun x => x.idx = q) = (r.queue q).map Queue.core := fun r => List.find?_map
  have same := found z.relief
  rw [k.queues, found, h, Option.map_some] at same
  exact Option.map_eq_some_iff.mp same.symm

/-- A message to a queue leaves over its RoCEv2 connection. -/
structure Sends (s : State) (w : Wy) (q : Nat) : Prop where
  up : s.holdup = none
  queue : ∃ x p g, (s.wy w).relief.queue q = some x ∧ x.transport = .roce p g

theorem Sends.keep {s t : State} {w : Wy} {q : Nat} {l : List Part} (h : Sends s w q) (k : Keeps l s t) (hl : .holdup ∉ l) (e : LinkKeeps s t) :
    Sends t w q := by
  obtain ⟨x, p, g, hx, htr⟩ := h.queue
  obtain ⟨x', hx', hcore⟩ := (e w).queue hx
  exact ⟨(k.holdup_eq hl).trans h.up, x', p, g, hx', (congrArg Queue.transport hcore).trans htr⟩

/-- A message handed to a RoCEv2 queue goes out at once. -/
theorem State.handOut_out {s : State} {w : Wy} {q : Nat} (h : Sends s w q) (m : BusMsg) : (s.handOut w q m).out = s.out ++ [.toClient w q m] := by
  obtain ⟨x, p, g, hx, htr⟩ := h.queue
  unfold State.handOut
  rw [if_neg (by simp [h.up]), hx]
  dsimp only
  rw [htr]
  dsimp only
  split <;> rfl

theorem State.handOut_sends {s : State} {w : Wy} {q : Nat} (h : Sends s w q) (m : BusMsg) : .toClient w q m ∈ (s.handOut w q m).out := by
  rw [State.handOut_out h]
  exact List.mem_append_right _ (List.mem_singleton.mpr rfl)

/-- A command that ends, unless a reset has suppressed it, is answered over its queue's connection. -/
theorem State.endCmd_answers {s : State} {w : Wy} {c : Cmd} (h : Sends s w c.q) (hsup : c.suppressed = false) (st : Status) (d : Detail)
    (cflags version result : Nat) : .toClient w c.q (completionOf c st d cflags version result) ∈ (s.endCmd w c st d cflags version result).out := by
  have freed : Sends (((s.cancelRefs w c.id).freeChunks w c.id).dropCmd w c.id) w c.q := by
    refine (h.keep State.cancelRefs_keeps (by decide) State.cancelRefs_link).keep State.freeChunks_keeps (by decide) State.freeChunks_link
      |>.keep State.dropCmd_keeps (by decide) State.dropCmd_link
  unfold State.endCmd
  dsimp only
  rw [if_neg (by simp [hsup])]
  split
  · exact State.modQueue_keeps.mem_out (State.handOut_sends freed _)
  · exact State.handOut_sends freed _

theorem State.finish_answers {s : State} {w : Wy} {c : Cmd} (h : Sends s w c.q) (hsup : c.suppressed = false) (st : Status) (d : Detail)
    (cflags version result : Nat) : .toClient w c.q (completionOf c st d cflags version result) ∈ (s.finish w c st d cflags version result).out := by
  have ended := State.endCmd_answers h hsup st d cflags version result
  unfold State.finish
  refine State.answerQueries_keeps.mem_out (State.wakeOutcomes_keeps.mem_out (State.wakeOutcomes_keeps.mem_out ?_))
  split
  · exact State.endAttached_keeps.mem_out (State.endAttached_keeps.mem_out ended)
  · exact ended

/-! ### A command that arrives -/

/-- The state in which an accepted command begins. -/
def State.accepted (s : State) (op : Opcode) (w : Wy) (q : Nat) (m : Msg) (x : Queue) : State :=
  (s.noteCapsule w q true).modRelief w (fun r => { r with cmds := r.cmds ++ [broughtBy op w q m x s], nextCmd := r.nextCmd + 1 })

theorem exec_reliefRow (op : Opcode) (w : Wy) (q : Nat) (m : Msg) (s : State) : exec (reliefRow op w q m) s = .next (s.arrive w q op m) := by
  cases op <;> rfl

theorem State.noteCapsule_relief (s : State) (w : Wy) (q : Nat) (b : Bool) :
    ((s.noteCapsule w q b).wy w).relief = { (s.wy w).relief with
      queues := updFirst (fun x => x.idx = q) (fun x => { x with lastCapsule := s.now }) (s.wy w).relief.queues } := by
  unfold State.noteCapsule
  dsimp only
  split <;> (cases w <;> rfl)

theorem State.accepted_relief (s : State) (op : Opcode) (w : Wy) (q : Nat) (m : Msg) (x : Queue) :
    ((s.accepted op w q m x).wy w).relief = { ((s.noteCapsule w q true).wy w).relief with
      cmds := (s.wy w).relief.cmds ++ [broughtBy op w q m x s], nextCmd := (s.wy w).relief.nextCmd + 1 } := by
  rw [State.accepted, State.modRelief_wy, State.noteCapsule_relief]

section Arrives

variable {op : Opcode} {w : Wy} {q : Nat} {m : Msg} {x : Queue} {s : State} (h : arrives op w q m x s)

theorem broughtBy_id (op : Opcode) (w : Wy) (q : Nat) (m : Msg) (x : Queue) (s : State) :
    (broughtBy op w q m x s).id = (s.wy w).relief.nextCmd := by
  show ((s.noteCapsule w q true).wy w).relief.nextCmd = _
  rw [State.noteCapsule_relief]

include h

theorem queue_idx_of_arrives : x.idx = q := Relief.queue_idx h.2.2.1

theorem find_of_arrives : ((s.accepted op w q m x).wy w).relief.cmd (broughtBy op w q m x s).id = some (broughtBy op w q m x s) := by
  obtain ⟨-, -, -, -, hids, -⟩ := h
  rw [State.accepted_relief, Relief.cmd, List.find?_append]
  have none : (s.wy w).relief.cmds.find? (fun c => c.id = (broughtBy op w q m x s).id) = none := by
    refine List.find?_eq_none.mpr fun c hc => ?_
    have := hids c hc
    rw [broughtBy_id]
    simp only [decide_eq_true_eq]
    omega
  rw [none, Option.none_or, List.find?_singleton, if_pos (by simp)]

/-- The message of a command that passes every check begins at once. -/
theorem exec_of_arrives : exec (reliefRow op w q m) s = .next ((s.accepted op w q m x).begin_ w (broughtBy op w q m x s)) := by
  have hfind := find_of_arrives h
  obtain ⟨htakes, hps, hx, hscreen, hids, hflush⟩ := h
  have hpwr : (s.noteCapsule w q true).pwr.ps = 0 := by cases w <;> exact hps
  have front : (s.accepted op w q m x).behindFlush w (broughtBy op w q m x s) = false := by
    unfold State.behindFlush
    rw [State.accepted_relief, List.any_append, Bool.or_eq_false_iff]
    refine ⟨List.any_eq_false.mpr fun c hc => ?_, by simp⟩
    simp only [Bool.and_eq_true, decide_eq_true_eq, Bool.not_eq_true', not_and, Bool.not_eq_false, and_imp]
    exact fun hq hop _ => hflush c hc hq hop
  rw [exec_reliefRow, State.arrive, if_neg (by simp [htakes])]
  dsimp only
  rw [if_neg (by simp [hpwr]), State.takeCommand, hx]
  dsimp only
  rw [hscreen]
  refine congrArg Host.Outcome.next ?_
  show (s.accepted op w q m x).tryBegin w (broughtBy op w q m x s).id = _
  rw [State.tryBegin, hfind]
  dsimp only
  rw [front]
  rfl

end Arrives

theorem State.accepted_relief_peer (s : State) (op : Opcode) (w : Wy) (q : Nat) (m : Msg) (x : Queue) :
    ((s.accepted op w q m x).wy w.peer).relief = (s.wy w.peer).relief := by
  cases w <;> rfl

/-- Whether a request id is running on the brick is, with the command that asks left out, as before the command came. -/
theorem State.accepted_ridRunning (s : State) (op : Opcode) (w : Wy) (q : Nat) (m : Msg) (x : Queue) (ks : BitVec 32) (rid : BitVec 64) :
    (s.accepted op w q m x).ridRunning ks rid (broughtBy op w q m x s).id w = s.ridRunning ks rid (broughtBy op w q m x s).id w := by
  have own : ((s.accepted op w q m x).wy w).relief.commits = (s.wy w).relief.commits := by
    rw [State.accepted_relief, State.noteCapsule_relief]
  have cmds : ((s.accepted op w q m x).wy w).relief.cmds = (s.wy w).relief.cmds ++ [broughtBy op w q m x s] := by
    rw [State.accepted_relief]
  have other := s.accepted_relief_peer op w q m x
  generalize s.accepted op w q m x = t at own cmds other ⊢
  unfold State.ridRunning
  cases w <;> (simp only [Wy.peer] at other; simp [own, cmds, other])

theorem State.accepted_store (s : State) (op : Opcode) (w : Wy) (q : Nat) (m : Msg) (x : Queue) : (s.accepted op w q m x).store = s.store := by
  cases w <;> rfl

theorem State.accepted_out (s : State) (op : Opcode) (w : Wy) (q : Nat) (m : Msg) (x : Queue) : (s.accepted op w q m x).out = s.out := by
  cases w <;> rfl

theorem State.accepted_now (s : State) (op : Opcode) (w : Wy) (q : Nat) (m : Msg) (x : Queue) : (s.accepted op w q m x).now = s.now := by
  cases w <;> rfl

theorem State.accepted_cover (s : State) (op : Opcode) (w : Wy) (q : Nat) (m : Msg) (x : Queue) : (s.accepted op w q m x).cover = s.cover := by
  cases w <;> rfl

theorem State.keptOutcome_congr {s t : State} (h : t.store = s.store) (op : Opcode) (ks : BitVec 32) (rid : BitVec 64) :
    t.keptOutcome op ks rid = s.keptOutcome op ks rid := by
  rw [State.keptOutcome, h, State.keptOutcome]

theorem State.accepted_commits (s : State) (op : Opcode) (w : Wy) (q : Nat) (m : Msg) (x : Queue) (v : Wy) :
    ((s.accepted op w q m x).wy v).relief.commits = (s.wy v).relief.commits := by
  rcases Wy.eq_or_peer w v with rfl | rfl
  · rw [State.accepted_relief, State.noteCapsule_relief]
  · rw [State.accepted_relief_peer]

theorem State.earlyFails_congr {s t : State} (h : t.store = s.store) (hc : ∀ v, (t.wy v).relief.commits = (s.wy v).relief.commits) (c : Cmd) :
    t.earlyFails c = s.earlyFails c := by
  have current : t.current c.cap.keyspace c.key = s.current c.cap.keyspace c.key := by
    rw [State.current, State.latest, State.hist, h, State.pending_]
    simp only [hc]
    rfl
  rw [State.earlyFails, current, State.earlyFails]

/-- A command that nothing keeps waits for admission. -/
theorem State.begin_waits {s : State} {w : Wy} {c : Cmd}
    (hnew : (isWrite c.op || isCast c.op) = true →
      s.keptOutcome c.op c.cap.keyspace c.cap.requestId = none ∧ s.ridRunning c.cap.keyspace c.cap.requestId c.id w = false)
    (hflush : c.op ≠ .flush) (hsub : c.op ≠ .subscribe) (hread : isRead c.op = true → capFlag c.cap 2 = false) (hpause : s.pausing = false)
    (hearly : s.earlyFails c = false) : s.begin_ w c = s.enqueue w c.id := by
  have kept : (if (isWrite c.op || isCast c.op) = true then s.keptOutcome c.op c.cap.keyspace c.cap.requestId else none) = none := by
    split
    · next h => exact (hnew h).1
    · rfl
  have running : ((isWrite c.op || isCast c.op) && s.ridRunning c.cap.keyspace c.cap.requestId c.id w) = false := by
    cases h : (isWrite c.op || isCast c.op) with
    | false => rfl
    | true => rw [(hnew h).2]; rfl
  have timed : (isRead c.op && capFlag c.cap 2) = false := by
    cases h : isRead c.op with
    | false => rfl
    | true => rw [hread h]; rfl
  unfold State.begin_
  dsimp only
  rw [kept]
  dsimp only
  rw [running, if_neg (by decide), if_neg hflush, if_neg hsub, timed, if_neg (by simp), if_neg (by simp [hpause]), if_neg (by simp [hearly])]

theorem State.begin_flush {s : State} {w : Wy} {c : Cmd} (hop : c.op = .flush) (hready : s.flushReady w c = true) :
    s.begin_ w c = s.finish w c .ok .none 0 0 0 := by
  unfold State.begin_
  rw [hop]
  simp only [isWrite, isCast, Bool.or_self, Bool.false_eq_true, if_false, Bool.false_and, if_true, hready]

theorem State.begin_subscribe {s : State} {w : Wy} {c : Cmd} (hop : c.op = .subscribe) :
    s.begin_ w c = (s.modQueue w c.q (fun x => { x with mask := BitVec.ofNat 9 c.cap.aux.toNat })).finish w c .ok .none 0 0 0 := by
  have dispatched : s.dispatch w c = (s.modQueue w c.q (fun x => { x with mask := BitVec.ofNat 9 c.cap.aux.toNat })).finish w c .ok .none 0 0 0 := by
    unfold State.dispatch
    rw [hop]
  unfold State.begin_
  rw [hop]
  simp only [isWrite, isCast, Bool.or_self, Bool.false_eq_true, if_false, Bool.false_and, reduceCtorEq, if_true, dispatched]

theorem updFirst_append_of_ne {α : Type} {p : α → Bool} {f : α → α} {l : List α} {a : α} (hl : ∀ b ∈ l, p b = false) (ha : p a = true) :
    updFirst p f (l ++ [a]) = l ++ [f a] := by
  induction l with
  | nil => simp [updFirst, ha]
  | cons b l ih =>
    rw [List.cons_append, updFirst, if_neg (by simp [hl b (by simp)]), ih fun c hc => hl c (by simp [hc]), List.cons_append]

/-- A changed queue is found as it was changed. -/
theorem State.modQueue_queue {s : State} {w : Wy} {q : Nat} {f : Queue → Queue} {x : Queue} (hf : ∀ x, (f x).idx = x.idx)
    (h : (s.wy w).relief.queue q = some x) : ((s.modQueue w q f).wy w).relief.queue q = some (f x) := by
  rw [State.modQueue, State.modRelief_wy]
  refine (find?_updFirst (fun y hy => ?_) (s.wy w).relief.queues).trans (congrArg (Option.map f) h)
  simpa [hf] using hy

theorem sends_of_arrives {op : Opcode} {w : Wy} {q : Nat} {m : Msg} {x : Queue} {s : State} {p : Nat} {g : BitVec 128}
    (h : arrives op w q m x s) (htr : x.transport = .roce p g) : Sends (s.accepted op w q m x) w q := by
  obtain ⟨htakes, -, hx, -⟩ := h
  have up : s.holdup = none := by
    unfold State.takesMessages at htakes
    split at htakes
    · cases htakes
    · simp only [Bool.and_eq_true, Option.isNone_iff_eq_none] at htakes
      exact htakes.1.1
  have queue : ((s.accepted op w q m x).wy w).relief.queue q = some x := by
    rw [State.accepted_relief]
    exact hx
  exact ⟨by cases w <;> exact up, x, p, g, queue, htr⟩

end Sys2Proof.Machine

namespace Sys2Proof
open Sys2Proof.Machine

/-- Settles O5: a command that passes its checks begins (`exec_of_arrives`), and waits where nothing keeps it. -/
theorem commandsWaitForAdmission : Obligations.CommandsWaitForAdmission := by
  unfold Obligations.CommandsWaitForAdmission
  intro op w q m x s c harr hflush hsub hread hpause hnew hearly
  have store := s.accepted_store op w q m x
  have waits : (s.accepted op w q m x).begin_ w c = (s.accepted op w q m x).enqueue w c.id := by
    refine State.begin_waits (fun h => ?_) hflush hsub hread ?_ ((State.earlyFails_congr store (s.accepted_commits op w q m x) c).trans hearly)
    · rw [State.keptOutcome_congr store, State.accepted_ridRunning]
      exact hnew h
    · rw [State.pausing, s.accepted_cover]
      exact hpause
  refine runs_intro ((exec_of_arrives harr).trans (congrArg Host.Outcome.next waits)) ?_
  have relief : (((s.accepted op w q m x).enqueue w c.id).wy w).relief = { ((s.accepted op w q m x).wy w).relief with
      cmds := (s.wy w).relief.cmds ++ [{ c with phase := .waiting }] } := by
    rw [State.enqueue, State.modCmd, State.modRelief_wy, State.accepted_relief]
    refine congrArg (fun l => ({ ((s.noteCapsule w q true).wy w).relief with cmds := l, nextCmd := (s.wy w).relief.nextCmd + 1 } : Relief)) ?_
    refine (updFirst_append_of_ne (fun b hb => ?_) (by simp [c])).trans ?_
    · obtain ⟨-, -, -, -, hids, -⟩ := harr
      have := hids b hb
      rw [broughtBy_id, decide_eq_false_iff_not]
      omega
    · rw [State.accepted_now]
      cases w <;> rfl
  rw [relief, State.accepted_relief]
  refine ⟨rfl, rfl, ?_, ?_⟩
  · exact (by cases w <;> rfl : ((s.accepted op w q m x).enqueue w c.id).out = (s.accepted op w q m x).out).trans (s.accepted_out op w q m x)
  · exact (by cases w <;> rfl : ((s.accepted op w q m x).enqueue w c.id).store = (s.accepted op w q m x).store).trans store

/-- Settles O6: a command that passes its checks begins (`exec_of_arrives`), and a command that ends is answered (`State.finish_answers`). -/
theorem flushAndSubscribeAtOnce : Obligations.FlushAndSubscribeAtOnce := by
  unfold Obligations.FlushAndSubscribeAtOnce
  intro w q m x p g s htr
  refine ⟨fun harr hcmds hsealed => ?_, fun harr => ?_⟩
  · have sends := sends_of_arrives harr htr
    have idx := queue_idx_of_arrives harr
    subst idx
    have ready : (s.accepted .flush w x.idx m x).flushReady w (broughtBy .flush w x.idx m x s) = true := by
      unfold State.flushReady
      dsimp only
      rw [State.accepted_relief, State.noteCapsule_relief, Bool.and_eq_true, List.all_append, Bool.and_eq_true]
      refine ⟨⟨List.all_eq_true.mpr fun c hc => ?_, by simp⟩, List.all_eq_true.mpr fun u hu => ?_⟩
      · exact Bool.or_eq_true_iff.mpr (.inl (decide_eq_true (hcmds c hc)))
      · exact decide_eq_true (hsealed u hu)
    refine runs_intro ((exec_of_arrives harr).trans (congrArg Host.Outcome.next (State.begin_flush rfl ready))) ?_
    exact State.finish_answers (c := broughtBy .flush w x.idx m x s) sends rfl ..
  · have sends := sends_of_arrives harr htr
    have idx := queue_idx_of_arrives harr
    subst idx
    refine runs_intro ((exec_of_arrives harr).trans (congrArg Host.Outcome.next (State.begin_subscribe rfl))) ?_
    have hx : ((s.accepted .subscribe w x.idx m x).wy w).relief.queue x.idx = some x := by
      rw [State.accepted_relief]
      exact harr.2.2.1
    have masked := State.modQueue_queue (f := fun x => { x with mask := BitVec.ofNat 9 m.cap.aux.toNat }) (fun _ => rfl) hx
    have sends' : Sends ((s.accepted .subscribe w x.idx m x).modQueue w x.idx (fun x => { x with mask := BitVec.ofNat 9 m.cap.aux.toNat })) w x.idx :=
      ⟨(State.modQueue_keeps.holdup_eq (by decide)).trans sends.up, _, p, g, masked, htr⟩
    refine ⟨State.finish_answers (c := broughtBy .subscribe w x.idx m x s) sends' rfl .., ?_⟩
    obtain ⟨y, hy, hcore⟩ := (State.finish_link w).queue masked
    exact ⟨y, hy, congrArg Queue.mask hcore⟩

end Sys2Proof
end

section
/-! PROOFS. The events of Relief queues (R39, R40, R43, R50, R51, R59-R61, R87, R91, R95, R96, R103, R106, R107, R121). -/

namespace Sys2Proof.Machine

/-! ### The reset of a queue (R87, R91) -/

theorem Cmd.core_fields {c d : Cmd} (h : c.core = d.core) : c.id = d.id ∧ c.q = d.q ∧ c.phase = d.phase ∧ c.suppressed = d.suppressed := by
  have e : ∀ {β : Type} (π : Cmd → β), π c.core = π d.core := fun π => congrArg π h
  exact ⟨e Cmd.id, e Cmd.q, e Cmd.phase, e Cmd.suppressed⟩

theorem State.dropOne_ids (s : State) (w : Wy) (d : Cmd) : ∀ c ∈ ((s.dropOne w d).wy w).relief.cmds, c.id ≠ d.id := by
  have dropped : ∀ t : State, ∀ c ∈ ((t.dropCmd w d.id).wy w).relief.cmds, c.id ≠ d.id := by
    intro t c hc
    rw [State.dropCmd, State.modRelief_wy] at hc
    simpa using (List.mem_filter.mp hc).2
  unfold State.dropOne
  dsimp only
  split
  · rw [State.recordNever_keeps.relief_eq (by decide)]
    exact dropped _
  · exact dropped _

theorem foldl_dropOne_ids (l : List Cmd) (s : State) (w : Wy) :
    ∀ c ∈ ((l.foldl (fun s c => s.dropOne w c) s).wy w).relief.cmds, ∀ d ∈ l, c.id ≠ d.id := by
  induction l generalizing s with
  | nil => exact fun _ _ d hd => absurd hd (by simp)
  | cons a l ih =>
    intro c hc d hd
    rcases List.mem_cons.mp hd with rfl | hd
    · have k : LinkKeeps (s.dropOne w d) (l.foldl (fun s c => s.dropOne w c) (s.dropOne w d)) := .foldl (fun _ _ => State.dropOne_link) .refl
      obtain ⟨c', hc', hcore⟩ := (k w).cmds c hc
      rw [(Cmd.core_fields hcore).1]
      exact State.dropOne_ids s w d c' hc'
    · exact ih (s.dropOne w a) c hc d hd

/-- What a reset leaves of a queue: its epoch has risen, and no unsuppressed command of it is left. -/
structure QueueReset (s t : State) (w : Wy) (q : Nat) (x : Queue) : Prop where
  queue : ∃ y, (t.wy w).relief.queue q = some y ∧ y.core = { x with epoch := nextEpoch x.epoch }.core
  cmds : ∀ c ∈ (t.wy w).relief.cmds, c.q = q → c.suppressed = true
  holdup : t.holdup = s.holdup

theorem QueueReset.link {s t u : State} {w : Wy} {q : Nat} {x : Queue} (h : QueueReset s t w q x) (k : LinkKeeps t u)
    (hu : u.holdup = t.holdup) : QueueReset s u w q x := by
  obtain ⟨y, hy, hcore⟩ := h.queue
  obtain ⟨z, hz, hcore'⟩ := (k w).queue hy
  refine ⟨⟨z, hz, hcore'.trans hcore⟩, fun c hc hq => ?_, hu.trans h.holdup⟩
  obtain ⟨d, hd, hcd⟩ := (k w).cmds c hc
  obtain ⟨-, hdq, -, hsup⟩ := Cmd.core_fields hcd
  rw [hsup]
  exact h.cmds d hd (hdq ▸ hq)

theorem State.resetQueue_resets {s : State} {w : Wy} {q : Nat} {x : Queue} (hx : (s.wy w).relief.queue q = some x) :
    QueueReset s (s.resetQueue w q) w q x := by
  unfold State.resetQueue
  dsimp only
  generalize hs1 : s.modQueue w q (fun x => { x with epoch := nextEpoch x.epoch }) = s1
  have queue1 : (s1.wy w).relief.queue q = some { x with epoch := nextEpoch x.epoch } := hs1 ▸ State.modQueue_queue (fun _ => rfl) hx
  have holdup1 : s1.holdup = s.holdup := hs1 ▸ State.modQueue_keeps.holdup_eq (by decide)
  generalize hl : ((s1.wy w).relief.cmds.filter (fun c => c.q = q)).filter (fun c => !pastStart c) = l
  have ids := foldl_dropOne_ids l s1 w
  have k : LinkKeeps s1 (l.foldl (fun s c => s.dropOne w c) s1) := .foldl (fun _ _ => State.dropOne_link) .refl
  have holdup2 : (l.foldl (fun s c => s.dropOne w c) s1).holdup = s.holdup :=
    (foldl_proj State.holdup (fun _ _ _ => State.dropOne_keeps.holdup_eq (by decide)) s1).trans holdup1
  generalize l.foldl (fun s c => s.dropOne w c) s1 = s2 at ids k holdup2
  have past : ∀ c ∈ (s2.wy w).relief.cmds, c.q = q → pastStart c = true := by
    intro c hc hq
    by_contra hnot
    obtain ⟨d, hd, hcd⟩ := (k w).cmds c hc
    obtain ⟨hid, hdq, hphase, -⟩ := Cmd.core_fields hcd
    refine ids c hc d ?_ hid
    rw [← hl]
    refine List.mem_filter.mpr ⟨List.mem_filter.mpr ⟨hd, by simp [← hdq, hq]⟩, ?_⟩
    have : pastStart d = pastStart c := by rw [pastStart, ← hphase, pastStart]
    simpa [this] using hnot
  obtain ⟨y, hy, hcore⟩ := (k w).queue queue1
  have reset : QueueReset s (s2.modRelief w (fun r => { r with
      cmds := updAll (fun c => c.q = q && pastStart c) (fun c => { c with suppressed := true }) r.cmds
      held := r.held.filter (fun h => h.q ≠ q) })) w q x := by
    refine ⟨⟨y, ?_, hcore⟩, fun c hc hq => ?_, (State.modRelief_keeps.holdup_eq (by decide)).trans holdup2⟩
    · rw [State.modRelief_wy]
      exact hy
    · rw [State.modRelief_wy] at hc
      obtain ⟨d, hd, rfl⟩ := List.mem_map.mp hc
      by_cases hcond : (d.q = q && pastStart d) = true
      · rw [if_pos hcond]
      · rw [if_neg hcond] at hq
        exact absurd (by simp [hq, past d hd hq]) hcond
  have noted : ∀ {t : State} (l : List HeldMsg), QueueReset s t w q x →
      QueueReset s (l.foldl (fun s h => s.recordNever h.msg.cap.keyspace h.msg.cap.requestId) t) w q x := fun l h =>
    h.link (.foldl (fun _ _ => .keep State.recordNever_keeps rfl .refl) .refl)
      (foldl_proj State.holdup (fun _ _ _ => State.recordNever_keeps.holdup_eq (by decide)) _)
  have woken : ∀ {t : State}, QueueReset s t w q x →
      QueueReset s ((((t.bump (.rlf w) RLF_CNT_RESET).wakeOutcomes .w0).wakeOutcomes .w1).answerQueries) w q x := fun h =>
    (((h.link State.bump_link (State.bump_keeps.holdup_eq (by decide))).link State.wakeOutcomes_link (State.wakeOutcomes_keeps.holdup_eq (by decide))).link
      State.wakeOutcomes_link (State.wakeOutcomes_keeps.holdup_eq (by decide))).link State.answerQueries_link
      (State.answerQueries_keeps.holdup_eq (by decide))
  refine woken ?_
  split
  · exact (noted _ reset).link (.keep State.tagFreed_keeps rfl .refl) (State.tagFreed_keeps.holdup_eq (by decide))
  · exact noted _ reset

/-! ### The end of a queue (R95, R96) -/

theorem State.removeQueue_disconnects {s : State} {w : Wy} {q : Nat} {x : Queue} {p : Nat} {g : BitVec 128}
    (hx : (s.wy w).relief.queue q = some x) (htr : x.transport = .roce p g) : .disconnect w q ∈ (s.removeQueue w q true).out := by
  unfold State.removeQueue
  rw [hx]
  dsimp only
  rw [htr]
  exact State.mem_emit_out ..

/-! ### Acknowledgements and refusals (R43, R50, R59, R91) -/

section Roce

variable {s : State} {w : Wy} {q : Nat} {x : Queue} {p : Nat} {g : BitVec 128} (hx : (s.wy w).relief.queue q = some x) (htr : x.transport = .roce p g)

include hx htr

/-- A queue that waits to acknowledge one control capsule does, and is closed by a QUEUE_CLOSE. -/
theorem State.sendAcks_one {a : PendingAck} (hdma : x.dma = 0) (hacks : x.acks = [a]) (ha : a.code = 1 ∨ a.code = 2) :
    s.sendAcks w q = if a.code = 2
      then ((s.modQueue w q (fun x => { x with st := .opened, acks := [] })).handOut w q (.controlAck a.epoch a.requestId a.code)).removeQueue w q true
      else (s.modQueue w q (fun x => { x with st := .opened, acks := [] })).handOut w q (.controlAck a.epoch a.requestId a.code) := by
  have quiet : silentCode a.code = false := by rcases ha with h | h <;> rw [h] <;> decide
  have destroys : decide (a.code = destroyCode) = false := by rcases ha with h | h <;> rw [h] <;> decide
  have closes : decide (a.code = closeCode) = false := by rcases ha with h | h <;> rw [h] <;> decide
  have holds : ∀ t : State, t.ringHolds w x = false := fun t => by rw [State.ringHolds, htr]
  unfold State.sendAcks
  rw [hx]
  dsimp only
  rw [hacks, hdma, htr]
  simp only [List.filter_cons, quiet, List.filter_nil, List.foldl_cons, List.foldl_nil, List.any_cons, List.any_nil, Bool.or_false, destroys, closes,
    holds, Bool.and_false, decide_eq_true_eq, ne_eq, not_true_eq_false, decide_false, List.cons_ne_nil, Bool.false_eq_true, if_false, Bool.not_false, if_true]

theorem State.answer_out (hup : s.holdup = none) {tag : Nat} {rid : BitVec 64} {a : Ans} (hst : a.st ≠ .epochStale) (htag : a.detail ≠ .tagInUse)
    (hdrain : a.detail ≠ .drain) :
    (s.answer w q tag rid a).out = s.out ++ [.toClient w q (.completion x.epoch tag a.st a.cflags a.detail rid a.version a.result)] := by
  unfold State.answer
  rw [hx]
  dsimp only
  rw [if_neg hst, if_neg htag, if_neg hdrain]
  exact State.handOut_out ⟨hup, x, p, g, hx, htr⟩ _

/-- A message to an awake brick is taken as it arrives. -/
theorem State.arriveOther_awake {c : Option Nat} {o : Option Opcode} {m : Msg} (hup : s.holdup = none) (hps : s.pwr.ps = 0) (hst : x.st ≠ .closing) :
    s.arriveOther w { q := q, control := c, op := o, msg := m } = (s.noteCapsule w q c.isNone).takeMsg w { q := q, control := c, op := o, msg := m } := by
  have takes : s.takesMessages w q = true := by
    unfold State.takesMessages
    rw [hx]
    dsimp only
    rw [htr, hup]
    simp [hst]
  have awake : (s.noteCapsule w q c.isNone).pwr.ps = 0 := by
    unfold State.noteCapsule
    dsimp only
    split <;> (cases w <;> exact hps)
  unfold State.arriveOther
  rw [if_neg (by simp [takes])]
  dsimp only
  rw [if_neg (by simp [awake])]

omit htr in
theorem State.noteCapsule_queue (b : Bool) : ((s.noteCapsule w q b).wy w).relief.queue q = some { x with lastCapsule := s.now } := by
  rw [State.noteCapsule_relief]
  refine (find?_updFirst (fun y hy => ?_) (s.wy w).relief.queues).trans (congrArg (Option.map _) hx)
  exact hy

end Roce

theorem State.noteCapsule_out (s : State) (w : Wy) (q : Nat) (b : Bool) : (s.noteCapsule w q b).out = s.out := by
  unfold State.noteCapsule
  dsimp only
  split <;> (cases w <;> rfl)

theorem State.noteCapsule_holdup (s : State) (w : Wy) (q : Nat) (b : Bool) : (s.noteCapsule w q b).holdup = s.holdup := by
  unfold State.noteCapsule
  dsimp only
  split <;> (cases w <;> rfl)

theorem State.takeControl_reset {s : State} {w : Wy} {q code : Nat} {m : Msg} (hfault : controlFault code m = none) (hcode : code = 1 ∨ code = 2) :
    s.takeMsg w { q := q, control := some code, op := none, msg := m } = s.controlReset w q code m.cap.requestId := by
  have known : code ≠ unknownKindCode := by rcases hcode with h | h <;> rw [h] <;> decide
  unfold State.takeMsg
  dsimp only
  rw [if_neg known, State.takeControl, hfault]
  exact if_neg (by omega)

/-- A queue that waits to acknowledge a QUEUE_RESET or a QUEUE_CLOSE. -/
def acking (x : Queue) (code : Nat) (a : PendingAck) : Queue := { x with st := (if decide (code = 2) then .closing else .resetting), acks := [a] }

/-- A QUEUE_RESET or QUEUE_CLOSE of a queue with nothing unacknowledged: the reset, and its acknowledgement at once. -/
theorem State.controlReset_acks {s : State} {w : Wy} {q code : Nat} {x : Queue} {p : Nat} {g : BitVec 128} (rid : BitVec 64)
    (hx : (s.wy w).relief.queue q = some x) (htr : x.transport = .roce p g) (hup : s.holdup = none) (hdma : x.dma = 0) (hacks : x.acks = [])
    (hcode : code = 1 ∨ code = 2) : ∃ t y, s.controlReset w q code rid =
        (if code = 2 then (t.handOut w q (.controlAck (nextEpoch x.epoch) rid code)).removeQueue w q true
          else t.handOut w q (.controlAck (nextEpoch x.epoch) rid code))
      ∧ Sends t w q ∧ (t.wy w).relief.queue q = some y ∧ y.epoch = nextEpoch x.epoch ∧ y.st = .opened
      ∧ ∀ c ∈ (t.wy w).relief.cmds, c.q = q → c.suppressed = true := by
  obtain ⟨⟨y, hy, hcore⟩, hcmds, hhold⟩ := State.resetQueue_resets hx
  have e : ∀ {β : Type} (π : Queue → β), π y.core = π { x with epoch := nextEpoch x.epoch }.core := fun π => congrArg π hcore
  have hepoch : y.epoch = nextEpoch x.epoch := e Queue.epoch
  have htr' : y.transport = .roce p g := (e Queue.transport).trans htr
  have hdma' : y.dma = 0 := (e Queue.dma).trans hdma
  have hacks' : y.acks = [] := (e Queue.acks).trans hacks
  unfold State.controlReset
  dsimp only
  rw [hy]
  dsimp only
  rw [htr']
  dsimp only
  generalize s.resetQueue w q = s1 at hy hcmds hhold ⊢
  generalize hs2 : s1.modQueue w q _ = s2
  have hy2 : (s2.wy w).relief.queue q = some (acking y code { requestId := rid, code := code, epoch := nextEpoch x.epoch }) := by
    rw [← hs2]
    refine (State.modQueue_queue ?_ hy).trans ?_
    · exact fun _ => rfl
    · simp only [acking, hacks', hepoch, List.nil_append]
  have hcmds2 : (s2.wy w).relief.cmds = (s1.wy w).relief.cmds := by
    rw [← hs2, State.modQueue, State.modRelief_wy]
  have hhold2 : s2.holdup = none := by
    rw [← hs2, State.modQueue_keeps.holdup_eq (by decide), hhold, hup]
  rw [State.sendAcks_one hy2 htr' hdma' rfl hcode]
  have hy3 := State.modQueue_queue (f := fun x => { x with st := .opened, acks := [] }) (fun _ => rfl) hy2
  refine ⟨_, _, rfl, ⟨(State.modQueue_keeps.holdup_eq (by decide)).trans hhold2, _, p, g, hy3, htr'⟩, hy3, hepoch, rfl, ?_⟩
  rw [State.modQueue, State.modRelief_wy]
  intro c hc
  exact hcmds c (hcmds2 ▸ hc)

end Sys2Proof.Machine

namespace Sys2Proof
open Sys2Proof.Machine

/-- Settles O7: a reset leaves no unsuppressed command (`State.resetQueue_resets`), and what is handed to a RoCEv2 queue goes out at once. -/
theorem queueMessagesAnswered : Obligations.QueueMessagesAnswered := by
  unfold Obligations.QueueMessagesAnswered
  intro w q m x p g s hx htr hup hps
  have hup' : ∀ b, (s.noteCapsule w q b).holdup = none := fun b => (s.noteCapsule_holdup w q b).trans hup
  have hx' : ∀ b, ((s.noteCapsule w q b).wy w).relief.queue q = some { x with lastCapsule := s.now } := State.noteCapsule_queue hx
  have sends' : ∀ b, Sends (s.noteCapsule w q b) w q := fun b => ⟨hup' b, _, p, g, hx' b, htr⟩
  refine ⟨fun id sealed c hc hq hop hphase hsup hready => ?_, fun hst hdma hacks hfault => ?_, fun hst hdma hacks hfault => ?_,
    fun hst hacks hfault => ?_, fun b hst h1 h2 => ?_, fun hst hlen hepoch htag => ?_, fun hst hfault => ?_⟩
  · subst hq
    have sends : Sends (s.modRelief w (fun r => { r with unsealed := r.unsealed.filter (fun u => !sealed.contains u.2) })) w c.q :=
      ⟨(State.modRelief_keeps.holdup_eq (by decide)).trans hup, x, p, g, by rw [State.modRelief_wy]; exact hx, htr⟩
    refine runs_intro (i := .flushComplete w id sealed) (t := ((s.modRelief w (fun r => { r with
      unsealed := r.unsealed.filter (fun u => !sealed.contains u.2) })).finish w c .ok .none 0 0 0).releaseFlush w) ?_
      (State.releaseFlush_keeps.mem_out (State.finish_answers sends hsup ..))
    show execFlushComplete w id sealed s = _
    unfold execFlushComplete
    rw [hc]
    dsimp only
    rw [if_neg (by simp [hop, hphase]), if_pos hready]
  · obtain ⟨t, y, ht, hsends, hy, hepoch, hopen, hcmds⟩ :=
      State.controlReset_acks (code := 1) m.cap.requestId (hx' false) htr (hup' _) hdma hacks (.inl rfl)
    have taken := (State.arriveOther_awake (c := some 1) (o := none) (m := m) hx htr hup hps (by simp [hst])).trans
      ((State.takeControl_reset hfault (.inl rfl)).trans ht)
    refine runs_intro (i := .queueReset w q m) (congrArg Host.Outcome.next taken) ⟨State.handOut_sends hsends _, ?_, ?_⟩
    · obtain ⟨z, hz, hcore⟩ := (State.handOut_link w).queue hy
      have e : ∀ {β : Type} (π : Queue → β), π z.core = π y.core := fun π => congrArg π hcore
      exact ⟨z, hz, (e Queue.epoch).trans hepoch, (e Queue.st).trans hopen⟩
    · intro c hc hq
      obtain ⟨d, hd, hcd⟩ := (State.handOut_link w).cmds c hc
      obtain ⟨-, hdq, -, hsup⟩ := Cmd.core_fields hcd
      rw [hsup]
      exact hcmds d hd (hdq ▸ hq)
  · obtain ⟨t, y, ht, hsends, hy, -, -, -⟩ :=
      State.controlReset_acks (code := 2) m.cap.requestId (hx' false) htr (hup' _) hdma hacks (.inr rfl)
    have taken := (State.arriveOther_awake (c := some 2) (o := none) (m := m) hx htr hup hps (by simp [hst])).trans
      ((State.takeControl_reset hfault (.inr rfl)).trans ht)
    refine runs_intro (i := .queueClose w q m) (congrArg Host.Outcome.next taken)
      ⟨State.removeQueue_keeps.mem_out (State.handOut_sends hsends _), ?_, State.removeQueue_queue ..⟩
    obtain ⟨z, p', g', hz, htr'⟩ := (hsends.keep State.handOut_keeps (by decide) State.handOut_link).queue
    exact State.removeQueue_disconnects hz htr'
  · refine runs_intro (i := .keepalive w q m) (congrArg Host.Outcome.next
      (State.arriveOther_awake (c := some 3) (o := none) (m := m) hx htr hup hps (by simp [hst]))) ?_
    have taken : (s.noteCapsule w q false).takeMsg w { q := q, control := some 3, op := none, msg := m }
        = (s.noteCapsule w q false).handOut w q (.controlAck x.epoch m.cap.requestId 3) := by
      unfold State.takeMsg
      dsimp only
      rw [if_neg (by decide), State.takeControl, hfault]
      dsimp only
      rw [if_pos rfl, State.keepalive, hx']
      exact if_pos hacks
    exact (congrArg State.out taken).trans ((State.handOut_out (sends' _) _).trans (congrArg (· ++ _) (s.noteCapsule_out w q _)))
  · refine runs_intro (i := .unknownKindMessage w q b) (congrArg Host.Outcome.next ((if_neg (by simp [h1, h2])).trans
      (State.arriveOther_awake (c := some unknownKindCode) (o := none) (m := msgOf b) hx htr hup hps hst))) ?_
    exact (State.answer_out (a := refusal .badFormat .unknownKind) (hx' _) htr (hup' _) (by decide) (by decide) (by decide)).trans (congrArg (· ++ _) (s.noteCapsule_out w q _))
  · refine runs_intro (i := .unknownOpcode w q false m) (congrArg Host.Outcome.next
      (State.arriveOther_awake (c := none) (o := none) (m := m) hx htr hup hps hst)) ?_
    have checks : (checkLength m <|> checkEpoch { x with lastCapsule := s.now } m
        <|> checkTag ((s.noteCapsule w q true).wy w).relief (heldTags ((s.noteCapsule w q true).wy w).pcie { x with lastCapsule := s.now }) q m
        <|> bad .unknownOpcode) = some (refusal .badFormat .unknownOpcode) := by
      have tags : heldTags ((s.noteCapsule w q true).wy w).pcie { x with lastCapsule := s.now } = [] := by
        unfold heldTags
        dsimp only
        rw [htr]
      have tag : checkTag ((s.noteCapsule w q true).wy w).relief [] q m = none := by
        rw [State.noteCapsule_relief]
        exact htag
      have epoch : checkEpoch { x with lastCapsule := s.now } m = none := hepoch
      rw [tags, tag, hlen, epoch]
      rfl
    have taken : (s.noteCapsule w q true).takeMsg w { q := q, control := none, op := none, msg := m }
        = (s.noteCapsule w q true).answer w q (capTag m.cap) m.cap.requestId (refusal .badFormat .unknownOpcode) := by
      unfold State.takeMsg
      dsimp only
      rw [State.takeUnknown, hx']
      dsimp only
      rw [checks]
    refine (congrArg State.out taken).trans ?_
    exact (State.answer_out (a := refusal .badFormat .unknownOpcode) (hx' _) htr (hup' _) (by decide) (by decide) (by decide)).trans (congrArg (· ++ _) (s.noteCapsule_out w q _))
  · refine runs_intro (i := .unknownOpcode w q true m) (congrArg Host.Outcome.next
      (State.arriveOther_awake (c := some 0) (o := none) (m := m) hx htr hup hps hst)) ?_
    have taken : (s.noteCapsule w q false).takeMsg w { q := q, control := some 0, op := none, msg := m }
        = (s.noteCapsule w q false).answer w q 0 m.cap.requestId (refusal .badFormat .unknownOpcode) := by
      unfold State.takeMsg
      dsimp only
      rw [if_neg (by decide), State.takeControl, hfault]
    refine (congrArg State.out taken).trans ?_
    exact (State.answer_out (a := refusal .badFormat .unknownOpcode) (hx' _) htr (hup' _) (by decide) (by decide) (by decide)).trans (congrArg (· ++ _) (s.noteCapsule_out w q _))

end Sys2Proof
end

section
/-! PROOFS. What ends a queue, what moves its commands on, and admission (R39, R40, R51, R60, R61, R91, R96, R106, R107, R121). -/

namespace Sys2Proof.Machine

section Roce

variable {s : State} {w : Wy} {q : Nat} {x : Queue} {p : Nat} {g : BitVec 128} (hx : (s.wy w).relief.queue q = some x) (htr : x.transport = .roce p g)

include hx htr

theorem State.isRoce_of_roce : s.isRoce w q = true := by
  unfold State.isRoce
  rw [hx]
  dsimp only
  rw [htr]

/-- A lost queue is disconnected and gone. -/
theorem State.loseQueue_ends : .disconnect w q ∈ (s.loseQueue w q true).out ∧ ((s.loseQueue w q true).wy w).relief.queue q = none := by
  obtain ⟨⟨y, hy, hcore⟩, -, -⟩ := State.resetQueue_resets hx
  have e : ∀ {β : Type} (π : Queue → β), π y.core = π { x with epoch := nextEpoch x.epoch }.core := fun π => congrArg π hcore
  exact ⟨State.removeQueue_disconnects hy ((e Queue.transport).trans htr), State.removeQueue_queue ..⟩

theorem State.nakClose_ends : .nak w q ∈ (s.nakClose w q).out ∧ .disconnect w q ∈ (s.nakClose w q).out
    ∧ ((s.nakClose w q).wy w).relief.queue q = none := by
  have hx' : ((((s.emit (.nak w q)).bump (.rdm w) RDM_CNT_NAK_SENT).wy w).relief).queue q = some x := by
    rw [State.bump_keeps.relief_eq (by decide), State.emit_keeps.relief_eq (by decide), hx]
  obtain ⟨hdis, hnone⟩ := State.loseQueue_ends hx' htr
  exact ⟨State.loseQueue_keeps.mem_out (State.bump_keeps.mem_out (State.mem_emit_out ..)), hdis, hnone⟩

end Roce

/-! ### The HELLO reply (R61) -/

theorem length_beBytes (n x : Nat) : (beBytes n x).length = n := by
  induction n with
  | zero => rfl
  | succ n ih => rw [beBytes, List.length_cons, ih]

theorem length_addrBytes (l : List (BitVec 128)) : (addrBytes l).length = 64 := by
  rw [addrBytes, padTo, List.length_take, List.length_append, zeroBytes, List.length_replicate]
  omega

theorem State.helloReply_length (s : State) (w : Wy) (x : Queue) : (s.helloReply w x).length = 256 := by
  have zeros : ∀ n, (zeroBytes n).length = n := fun n => List.length_replicate
  unfold State.helloReply
  generalize (match x.transport with | .roce m _ => m | .pcie _ => 0) = mtu
  simp only [List.length_append, length_beBytes, length_addrBytes, zeros]

/-! ### What an answered OUTCOME of the other wythe leaves -/

theorem State.freeChunks_peer (s : State) (w : Wy) (id : Nat) : ((s.freeChunks w id).wy w.peer).relief = (s.wy w.peer).relief := by
  unfold State.freeChunks
  split
  · rfl
  · rw [State.modCmd, State.modRelief_peer]
    exact foldl_proj (fun t => (t.wy w.peer).relief) (fun _ _ _ => State.freeChunk_keeps.relief_eq (by decide) _) s

theorem State.endCmd_peer (s : State) (w : Wy) {c : Cmd} (hop : c.op ≠ .hello) (st : Status) (d : Detail) (cflags version result : Nat) :
    ((s.endCmd w c st d cflags version result).wy w.peer).relief = (s.wy w.peer).relief := by
  have dropped : ((((s.cancelRefs w c.id).freeChunks w c.id).dropCmd w c.id).wy w.peer).relief = (s.wy w.peer).relief := by
    rw [State.dropCmd, State.modRelief_peer, State.freeChunks_peer, State.cancelRefs_keeps.relief_eq (by decide)]
  unfold State.endCmd
  dsimp only
  split
  · rw [State.bump_keeps.relief_eq (by decide), dropped]
  · rw [if_neg (by simp [hop]), State.handOut_keeps.relief_eq (by decide), dropped]

theorem State.answerOutcome_peer (s : State) (w : Wy) {c : Cmd} (hop : c.op = .outcome) (kept : Option OutcomeRec) :
    ((s.answerOutcome w c kept).wy w.peer).relief = (s.wy w.peer).relief := by
  have hne : c.op ≠ .hello := by simp [hop]
  unfold State.answerOutcome
  split
  · exact State.endCmd_peer s w hne ..
  · exact State.endCmd_peer s w hne ..
  · exact State.endCmd_peer s w hne ..

theorem State.wakeOutcomes_peer (s : State) (w : Wy) : ((s.wakeOutcomes w).wy w.peer).relief = (s.wy w.peer).relief := by
  unfold State.wakeOutcomes
  refine foldl_proj (fun t => (t.wy w.peer).relief) (fun t c hc => State.answerOutcome_peer t w ?_ _) s
  obtain ⟨-, hcond⟩ := List.mem_filter.mp hc
  simp only [Bool.and_eq_true, decide_eq_true_eq] at hcond
  exact hcond.1.1

/-- With no command of a wythe left, no OUTCOME of it is answered. -/
theorem State.wakeOutcomes_of_none {s : State} {w : Wy} (h : (s.wy w).relief.cmds = []) : s.wakeOutcomes w = s := by
  unfold State.wakeOutcomes
  rw [h]
  rfl

/-! ### The counter of free values -/

theorem State.sendMsix_fresh (s : State) (w : Wy) (v : Nat) : (s.sendMsix w v).fresh = s.fresh := by
  unfold State.sendMsix
  extract_lets
  split_ifs <;> cases w <;> rfl

theorem State.becamePending_fresh (s : State) (p : Page) (b : Bool) : (s.becamePending p b).fresh = s.fresh := by
  have pended : ∀ (t : State) (v : Wy), (t.pendMsix v).fresh = t.fresh := by
    intro t v
    unfold State.pendMsix
    split
    · exact State.sendMsix_fresh ..
    · rfl
  unfold State.becamePending
  split
  · split
    · exact pended ..
    · rw [pended, pended]
  · rfl

theorem State.event_fresh (s : State) (p : Page) (n : Nat) : (s.event p n).fresh = s.fresh := State.becamePending_fresh ..

theorem State.bump_fresh (s : State) (p : Page) (off : Nat) : (s.bump p off).fresh = s.fresh := by
  unfold State.bump State.bumpBy
  extract_lets
  split
  · exact State.event_fresh ..
  · rfl

/-! ### Admission of a HELLO (R60, R61, R106) -/

/-- A HELLO that is alone among the commands of its wythe runs: its reply is placed and it completes, and its queue is open to others. -/
structure HelloRan (s : State) (w : Wy) (c : Cmd) : Prop where
  answered : .toClient w c.q (completionOf c .ok .none 0 0 256) ∈ s.out
  placed : ∃ b, .place w c.q c.cap.bufAddr.toNat c.cap.bufRkey.toNat b ∈ s.out ∧ b.length = 256
  opened : ∃ y, (s.wy w).relief.queue c.q = some y ∧ y.helloDone = true
  cmds : (s.wy w).relief.cmds = []

theorem State.finish_hello {s : State} {w : Wy} {c : Cmd} (hop : c.op = .hello) (hsup : c.suppressed = false) (hcmds : (s.wy w).relief.cmds = [c])
    (h : Sends s w c.q) : ((s.finish w c .ok .none 0 0 256).wy w).relief.cmds = []
      ∧ ∃ y, ((s.finish w c .ok .none 0 0 256).wy w).relief.queue c.q = some y ∧ y.helloDone = true := by
  have ended : ((s.endCmd w c .ok .none 0 0 256).wy w).relief.cmds = []
      ∧ ∃ y, ((s.endCmd w c .ok .none 0 0 256).wy w).relief.queue c.q = some y ∧ y.helloDone = true := by
    have k : LinkKeeps s (((s.cancelRefs w c.id).freeChunks w c.id).dropCmd w c.id) :=
      State.dropCmd_link.step (State.freeChunks_link.step State.cancelRefs_link)
    have gone : ∀ d ∈ ((((s.cancelRefs w c.id).freeChunks w c.id).dropCmd w c.id).wy w).relief.cmds, d.id ≠ c.id := by
      intro d hd
      rw [State.dropCmd, State.modRelief_wy] at hd
      simpa using (List.mem_filter.mp hd).2
    unfold State.endCmd
    dsimp only
    rw [if_neg (by simp [hsup]), if_pos (by simp [hop])]
    generalize ((s.cancelRefs w c.id).freeChunks w c.id).dropCmd w c.id = t at k gone ⊢
    obtain ⟨x, p, g, hx, -⟩ := h.queue
    obtain ⟨y, hy, -⟩ := (k w).queue hx
    have hy' : ((t.handOut w c.q (completionOf c .ok .none 0 0 256)).wy w).relief.queue c.q = some y := by
      rw [State.handOut_keeps.relief_eq (by decide), hy]
    refine ⟨?_, _, State.modQueue_queue (fun _ => rfl) hy', rfl⟩
    rw [State.modQueue, State.modRelief_wy, State.handOut_keeps.relief_eq (by decide)]
    refine List.eq_nil_iff_forall_not_mem.mpr fun d hd => ?_
    obtain ⟨e, he, hcore⟩ := (k w).cmds d hd
    rw [hcmds, List.mem_singleton] at he
    exact gone d hd ((Cmd.core_fields hcore).1.trans (he ▸ rfl))
  have woken : ∀ t : State, (t.wy w).relief.cmds = [] → ∀ v, ((t.wakeOutcomes v).wy w).relief = (t.wy w).relief := by
    intro t ht v
    rcases Wy.eq_or_peer w v with rfl | rfl
    · rw [State.wakeOutcomes_of_none ht]
    · have other := t.wakeOutcomes_peer w.peer
      rwa [show w.peer.peer = w by cases w <;> rfl] at other
  unfold State.finish
  dsimp only
  rw [if_neg (by simp [hop, isWrite, isCast])]
  generalize s.endCmd w c .ok .none 0 0 256 = t at ended ⊢
  have first := woken t ended.1 .w0
  have second := woken (t.wakeOutcomes .w0) (by rw [first]; exact ended.1) .w1
  rw [State.answerQueries_keeps.relief_eq (by decide), second, first]
  exact ended

/-- A HELLO admitted alone. -/
theorem State.startHello_runs {s : State} {w : Wy} {c : Cmd} (hop : c.op = .hello) (hsup : c.suppressed = false) (hlen : 256 ≤ c.cap.length.toNat)
    (hcmds : (s.wy w).relief.cmds = [c]) (h : Sends s w c.q) : HelloRan (s.startHello w c) w c := by
  obtain ⟨x, p, g, hx, htr⟩ := h.queue
  have hreply : s.helloReply w x ≠ [] := fun e => by
    have := s.helloReply_length w x
    rw [e] at this
    cases this
  unfold State.startHello
  rw [if_neg (by omega), hx]
  dsimp only
  generalize hs1 : s.placeAll w c (s.helloReply w x) = s1
  have placing : s1 = (s.emit (.place w c.q c.cap.bufAddr.toNat c.cap.bufRkey.toNat (s.helloReply w x))).modQueue w c.q
      (fun x => { x with dma := x.dma + 1 }) := hs1.symm.trans (if_neg hreply)
  have hx1 : (s1.wy w).relief.queue c.q = some { x with dma := x.dma + 1 } := by
    rw [placing]
    exact State.modQueue_queue (f := fun x => { x with dma := x.dma + 1 }) (fun _ => rfl) (by rw [State.emit_keeps.relief_eq (by decide), hx])
  have hcmds1 : (s1.wy w).relief.cmds = [c] := by
    rw [placing, State.modQueue, State.modRelief_wy, State.emit_keeps.relief_eq (by decide), hcmds]
  have sends1 : Sends s1 w c.q := ⟨(hs1 ▸ State.placeAll_keeps.holdup_eq (by decide)).trans h.up, _, p, g, hx1, htr⟩
  obtain ⟨hnone, hopen⟩ := State.finish_hello hop hsup hcmds1 sends1
  refine ⟨State.finish_answers sends1 hsup .., ⟨_, State.finish_keeps.mem_out ?_, s.helloReply_length w x⟩, hopen, hnone⟩
  rw [placing]
  exact State.modQueue_keeps.mem_out (State.mem_emit_out ..)

/-- Where no command waits, an admission cycle does nothing. -/
theorem State.admitAll_of_none {s : State} {w : Wy} (h : (s.wy w).relief.cmds = []) : s.admitAll w = s := by
  have idle : ∀ k, s.admitOf w k = s := by
    intro k
    rw [State.admitOf, waitingQueues, h]
    rfl
  rw [State.admitAll, idle, idle, idle]

theorem State.admitCycles_of_less {s : State} {w : Wy} {n : Nat}
    (h : (((s.admitAll w).wy w).relief.cmds.filter (fun c => c.phase = .waiting)).length < ((s.wy w).relief.cmds.filter (fun c => c.phase = .waiting)).length) :
    s.admitCycles w (n + 1) = (s.admitAll w).admitCycles w n := if_pos h

theorem State.admitCycles_of_not_less {s : State} {w : Wy} {n : Nat}
    (h : ¬(((s.admitAll w).wy w).relief.cmds.filter (fun c => c.phase = .waiting)).length < ((s.wy w).relief.cmds.filter (fun c => c.phase = .waiting)).length) :
    s.admitCycles w (n + 1) = s.admitAll w := if_neg h

/-- With a HELLO alone waiting, a cycle admits it. -/
theorem State.admitAll_hello {s : State} {w : Wy} {c : Cmd} (hcmds : (s.wy w).relief.cmds = [c]) (hop : c.op = .hello) (hphase : c.phase = .waiting)
    (hsup : c.suppressed = false) (hlen : 256 ≤ c.cap.length.toNat) (h : Sends s w c.q) : HelloRan (s.admitAll w) w c := by
  have hclass : admClass c.op = .metadata := by rw [hop]; rfl
  have queues : ∀ last, waitingQueues (s.wy w).relief .metadata last = [c.q] := by
    intro last
    unfold waitingQueues
    rw [hcmds]
    by_cases hlast : last < c.q
    · simp [hphase, hclass, insertNat, hlast]
    · simp [hphase, hclass, insertNat, hlast, Nat.le_of_not_lt hlast]
  have oldest : oldestWaiting (s.wy w).relief .metadata c.q = some c := by
    unfold oldestWaiting
    rw [hcmds]
    simp [hphase, hclass]
  generalize hs1 : (s.modRelief w (fun r => setServed r .metadata c.q)).setPhase w c.id .running = s1
  have relief1 : (s1.wy w).relief = { (s.wy w).relief with cmds := [{ c with phase := .running }], lastMeta := c.q } := by
    rw [← hs1, State.setPhase, State.modCmd, State.modRelief_wy, State.modRelief_wy]
    simp [setServed, hcmds, updFirst]
  have sends1 : Sends s1 w c.q := by
    obtain ⟨x, p, g, hx, htr⟩ := h.queue
    refine ⟨?_, x, p, g, by rw [relief1]; exact hx, htr⟩
    rw [← hs1, State.setPhase_keeps.holdup_eq (by decide), State.modRelief_keeps.holdup_eq (by decide), h.up]
  have keyed : keyedPart c.op c.cap c.key = none := by
    rw [keyedPart, hop]
    simp [noKeyspace]
  have admitted : s.admitOf w .metadata = s1.startHello w { c with phase := .running } := by
    have hfail : ((s.modRelief w (fun r => setServed r .metadata c.q)).checkKeyed w c.op c.cap c.key <|>
        (if isRead c.op then (s.modRelief w (fun r => setServed r .metadata c.q)).checkTime w c.op c.cap ((keyedPart c.op c.cap c.key).getD 0) else none))
        = none := by
      rw [State.checkKeyed, keyed, hop]
      rfl
    rw [State.admitOf, queues, State.admitClass, oldest]
    refine (if_pos rfl).trans ?_
    rw [State.admitClass, State.letIn]
    dsimp only
    rw [hfail]
    dsimp only
    rw [State.dispatch, hs1]
    dsimp only
    rw [hop]
  have ran : HelloRan (s1.startHello w { c with phase := .running }) w c := by
    obtain ⟨a, b, d, e⟩ := State.startHello_runs (c := { c with phase := .running }) hop hsup hlen (by rw [relief1]) sends1
    exact ⟨a, b, d, e⟩
  have idle : ∀ k, (s.admitOf w .metadata).admitOf w k = s.admitOf w .metadata := by
    intro k
    rw [State.admitOf, waitingQueues, admitted, ran.cmds]
    rfl
  rw [State.admitAll, idle, idle, admitted]
  exact ran

end Sys2Proof.Machine

namespace Sys2Proof
open Sys2Proof.Machine

/-- Settles O8, event by event. -/
theorem queueEventsAct : Obligations.QueueEventsAct := by
  unfold Obligations.QueueEventsAct
  intro w q x p g s hx htr
  have roce := State.isRoce_of_roce hx htr
  refine ⟨fun len hlen => ?_, ?_, fun hidle => ?_, ?_, fun hacks => ?_, fun id c hc hq hsup hup hphase hlate => ?_,
    fun id c n hc hphase hpart hheld htime => ?_⟩
  · exact runs_intro (i := .sendLengthNak w q len) (congrArg Host.Outcome.next (if_pos (by simp [roce, hlen]))) (State.nakClose_ends hx htr)
  · exact runs_intro (i := .rdmaInvalidRequest w q) (congrArg Host.Outcome.next (if_pos roce)) (State.nakClose_ends hx htr)
  · have late := (State.since_sec s x.lastCapsule 60).mpr hidle
    have hx' : ((s.bump (.rlf w) RLF_CNT_IDLE_CLOSE).wy w).relief.queue q = some x := by
      rw [State.bump_keeps.relief_eq (by decide), hx]
    refine runs_intro (i := .idleClose w q) (t := (s.bump (.rlf w) RLF_CNT_IDLE_CLOSE).loseQueue w q true) ?_ (State.loseQueue_ends hx' htr)
    show execIdleClose w q s = _
    unfold execIdleClose
    rw [hx]
    dsimp only
    rw [roce, late]
    rfl
  · exact runs_intro (i := .connectionClose w q) (congrArg Host.Outcome.next (if_pos roce)) (State.removeQueue_queue ..)
  · have found := State.modQueue_queue (f := fun x => { x with dma := x.dma - 1 }) (fun _ => rfl) hx
    refine runs_intro (i := .rdmaWriteDone w q) rfl ?_
    have still : (s.modQueue w q (fun x => { x with dma := x.dma - 1 })).sendAcks w q = s.modQueue w q (fun x => { x with dma := x.dma - 1 }) := by
      unfold State.sendAcks
      rw [found]
      exact if_pos (by simp [hacks])
    rw [still]
    exact found
  · subst hq
    have sends : Sends ((s.bump (.rlf w) RLF_CNT_ADMISSION).event (.rlf w) RLF_EVT_ADMIT_TIMEOUT) w c.q :=
      (Sends.keep ⟨hup, x, p, g, hx, htr⟩ State.bump_keeps (by decide) State.bump_link).keep State.event_keeps (by decide) State.event_link
    have free : ((s.bump (.rlf w) RLF_CNT_ADMISSION).event (.rlf w) RLF_EVT_ADMIT_TIMEOUT).free = s.free := by
      rw [State.free, State.event_fresh, State.bump_fresh, State.free]
    refine runs_intro (i := .admissionTimeout w id) (t := (((s.bump (.rlf w) RLF_CNT_ADMISSION).event (.rlf w) RLF_EVT_ADMIT_TIMEOUT).finish w c
      .busyRetry .admission 0 0 ((s.bump (.rlf w) RLF_CNT_ADMISSION).event (.rlf w) RLF_EVT_ADMIT_TIMEOUT).free).used) ?_ ?_
    · show execAdmissionTimeout w id s = _
      unfold execAdmissionTimeout
      rw [hc]
      exact if_pos (by simp only [hphase, decide_true, Bool.true_and]; exact decide_eq_true hlate)
    · rw [free]
      exact State.used_keeps.mem_out (State.finish_answers sends hsup ..)
  · refine runs_intro (i := .readAtRelease w id) (t := s.enqueue w id) ?_ ?_
    · show execReadAtRelease w id s = _
      unfold execReadAtRelease
      rw [hc]
      dsimp only
      rw [hpart]
      dsimp only
      rw [if_neg (by simp [hphase, hheld]), htime]
    · rw [State.enqueue, State.modCmd, State.modRelief_wy]
      refine (find?_updFirst (fun c' hc' => ?_) (s.wy w).relief.cmds).trans (congrArg (Option.map _) hc)
      exact hc'

/-- Settles O9: a cycle admits the HELLO (`State.admitAll_hello`), and the next finds no command. -/
theorem admissionRunsHello : Obligations.AdmissionRunsHello := by
  unfold Obligations.AdmissionRunsHello
  intro w c x p g s hcmds hop hphase hsup hlen hx htr hup
  have ran := State.admitAll_hello hcmds hop hphase hsup hlen ⟨hup, x, p, g, hx, htr⟩
  have cycles : s.admitCycles w ((s.wy w).relief.cmds.length + 1) = s.admitAll w := by
    rw [hcmds]
    show s.admitCycles w 2 = _
    refine (State.admitCycles_of_less ?_).trans ((State.admitCycles_of_not_less ?_).trans (State.admitAll_of_none ran.cmds))
    · rw [ran.cmds, hcmds]
      simp [hphase]
    · rw [State.admitAll_of_none ran.cmds]
      exact Nat.lt_irrefl _
  have wake : (s.admitAll w).wakeClose w = s.admitAll w := by
    rw [State.wakeClose, ran.cmds]
    rfl
  refine runs_intro (i := .admissionCycle w) (t := s.admitAll w) ?_ ⟨ran.answered, ran.placed, ran.opened, ran.cmds⟩
  exact congrArg Host.Outcome.next ((congrArg (fun t : State => t.wakeClose w) cycles).trans wake)

end Sys2Proof
end

section
/-! PROOFS. What stays of the armature while its leader goes on (R197-R200): its log grows, and its term, its vote, its leader and the brick's
identity stay. -/

namespace Sys2Proof.Machine

/-- The armature but for its log, what is committed of it, its members and the role that they give this brick. -/
def Armature.core (a : Armature) : Armature := { a with role := .none, log := [], commit := 0, members := [] }

structure ArmGrows (a b : Armature) : Prop where
  log : a.log <+: b.log
  core : b.core = a.core

structure WallGrows (x y : Wall) : Prop where
  arm : ArmGrows x.arm y.arm
  brickId : y.brickId = x.brickId
  identity : y.identity = x.identity

/-- From s to t the armature's log only grows, and the brick stays who it is. -/
def ArmKeeps (s t : State) : Prop := WallGrows s.wall t.wall

theorem ArmGrows.refl {a : Armature} : ArmGrows a a := ⟨List.prefix_refl _, rfl⟩

theorem ArmGrows.trans {a b c : Armature} (h : ArmGrows a b) (k : ArmGrows b c) : ArmGrows a c :=
  ⟨h.log.trans k.log, k.core.trans h.core⟩

theorem ArmKeeps.refl {s : State} : ArmKeeps s s := ⟨.refl, rfl, rfl⟩

theorem ArmKeeps.step {s t u : State} (k : ArmKeeps t u) (h : ArmKeeps s t) : ArmKeeps s u :=
  ⟨h.arm.trans k.arm, k.brickId.trans h.brickId, k.identity.trans h.identity⟩

theorem ArmKeeps.of_wall_eq {s t : State} (h : t.wall = s.wall) : ArmKeeps s t := by
  rw [ArmKeeps, h]
  exact ⟨.refl, rfl, rfl⟩

theorem ArmKeeps.keep {l : List Part} {s t u : State} (k : Keeps l t u) (hl : l.contains .wall = false) (h : ArmKeeps s t) : ArmKeeps s u :=
  .step (.of_wall_eq (k.wall_eq (by simpa using hl))) h

theorem ArmKeeps.modWall {s t : State} {f : Wall → Wall} (hf : ∀ x, WallGrows x (f x)) (h : ArmKeeps s t) : ArmKeeps s (t.modWall f) :=
  .step (hf t.wall) h

theorem ArmKeeps.modArm {s t : State} {f : Armature → Armature} (hf : ∀ a, ArmGrows a (f a)) (h : ArmKeeps s t) : ArmKeeps s (t.modArm f) :=
  h.modWall fun x => ⟨hf x.arm, rfl, rfl⟩

theorem ArmKeeps.foldl {α : Type} {s u : State} {f : State → α → State} {xs : List α} (hf : ∀ v a, ArmKeeps v (f v a))
    (h : ArmKeeps s u) : ArmKeeps s (xs.foldl f u) := by
  induction xs generalizing u with
  | nil => exact h
  | cons a xs ih => exact ih ((hf u a).step h)

theorem ArmKeeps.ite {s t u : State} {c : Prop} [Decidable c] (ht : ArmKeeps s t) (hu : ArmKeeps s u) : ArmKeeps s (if c then t else u) := by
  split
  · exact ht
  · exact hu

theorem ArmKeeps.logged {s t : State} {c : ArmChange} (k : ArmKeeps s t) (h : Sys2Proof.logged s c) : Sys2Proof.logged t c := by
  obtain ⟨e, he, hc⟩ := h
  exact ⟨e, k.arm.log.subset he, hc⟩

theorem State.modBrick_arm {s : State} {id : Nat} {f : BrickRec → BrickRec} :
    ArmKeeps s (State.modBrick s id f) := by
  unfold State.modBrick
  try dsimp only
  repeat' first
    | with_reducible exact ArmKeeps.refl
    | with_reducible apply ArmKeeps.modWall
    | (intro _; exact ⟨⟨List.prefix_refl _, rfl⟩, rfl, rfl⟩)

theorem State.newEpoch_arm {s : State} {f : PartMap → PartMap} :
    ArmKeeps s (State.newEpoch s f) := by
  unfold State.newEpoch
  try dsimp only
  repeat' first
    | with_reducible exact ArmKeeps.refl
    | with_reducible apply ArmKeeps.modWall
    | with_reducible apply ArmKeeps.keep State.modMap_keeps
    | (intro _; exact ⟨⟨List.prefix_refl _, rfl⟩, rfl, rfl⟩)
    | rfl

theorem State.setBrickState_arm {s : State} {id : Nat} {st : BState} {enclosure rack : Nat} {serial : Bytes} :
    ArmKeeps s (State.setBrickState s id st enclosure rack serial) := by
  unfold State.setBrickState
  try dsimp only
  repeat' first
    | with_reducible exact ArmKeeps.refl
    | with_reducible apply ArmKeeps.modWall
    | with_reducible apply ArmKeeps.step State.newEpoch_arm
    | (intro _; exact ⟨⟨List.prefix_refl _, rfl⟩, rfl, rfl⟩)

theorem State.modCasts_arm {s : State} {f : List Cast → List Cast} :
    ArmKeeps s (State.modCasts s f) := by
  unfold State.modCasts
  try dsimp only
  repeat' first
    | with_reducible exact ArmKeeps.refl
    | with_reducible apply ArmKeeps.modWall
    | with_reducible apply ArmKeeps.keep State.modStore_keeps
    | (intro _; exact ⟨⟨List.prefix_refl _, rfl⟩, rfl, rfl⟩)
    | rfl

theorem State.openWall_arm {s : State} :
    ArmKeeps s (State.openWall s) := by
  unfold State.openWall
  try dsimp only
  repeat' first
    | with_reducible exact ArmKeeps.refl
    | with_reducible apply ArmKeeps.modWall
    | with_reducible apply ArmKeeps.keep State.modStore_keeps
    | (intro _; exact ⟨⟨List.prefix_refl _, rfl⟩, rfl, rfl⟩)
    | rfl

theorem State.applyChange_arm {s : State} {c : ArmChange} :
    ArmKeeps s (State.applyChange s c) := by
  unfold State.applyChange
  try dsimp only
  repeat' first
    | with_reducible exact ArmKeeps.refl
    | with_reducible apply ArmKeeps.modWall
    | with_reducible apply ArmKeeps.keep State.modMap_keeps
    | with_reducible apply ArmKeeps.step State.modCasts_arm
    | with_reducible apply ArmKeeps.step State.setBrickState_arm
    | with_reducible apply ArmKeeps.step State.modBrick_arm
    | with_reducible apply ArmKeeps.keep State.modStore_keeps
    | with_reducible apply ArmKeeps.step State.newEpoch_arm
    | with_reducible apply ArmKeeps.step State.openWall_arm
    | with_reducible apply ArmKeeps.modArm
    | (intro _; exact ⟨⟨List.prefix_refl _, rfl⟩, rfl, rfl⟩)
    | (intro _; exact ⟨List.prefix_refl _, rfl⟩)
    | split
    | rfl

theorem State.ownState_arm {s : State} :
    ArmKeeps s (State.ownState s) := by
  unfold State.ownState
  try dsimp only
  repeat' first
    | with_reducible exact ArmKeeps.refl
    | with_reducible apply ArmKeeps.modWall
    | with_reducible apply ArmKeeps.keep State.catchUpAll_keeps
    | with_reducible apply ArmKeeps.keep State.stripesAfterStop_keeps
    | with_reducible apply ArmKeeps.keep State.announceDrain_keeps
    | with_reducible apply ArmKeeps.keep State.mtrEvent_keeps
    | with_reducible apply ArmKeeps.keep State.clearJoin_keeps
    | (with_reducible apply ArmKeeps.foldl; intro _ _; try dsimp only)
    | (intro _; exact ⟨⟨List.prefix_refl _, rfl⟩, rfl, rfl⟩)
    | split
    | rfl

theorem State.noteArmature_arm {s : State} :
    ArmKeeps s (State.noteArmature s) := by
  unfold State.noteArmature
  try dsimp only
  repeat' first
    | with_reducible exact ArmKeeps.refl
    | with_reducible apply ArmKeeps.modWall
    | (intro _; exact ⟨⟨List.prefix_refl _, rfl⟩, rfl, rfl⟩)

theorem State.mapStep_arm {s : State} {maps first : Bool} :
    ArmKeeps s (State.mapStep s maps first) := by
  unfold State.mapStep
  repeat' first
    | with_reducible exact ArmKeeps.refl
    | with_reducible apply ArmKeeps.keep State.onMap_keeps
    | with_reducible apply ArmKeeps.step State.ownState_arm
    | with_reducible apply ArmKeeps.keep State.announceCasts_keeps
    | rfl
    | split

theorem State.afterState_arm {old s : State} :
    ArmKeeps s (State.afterState old s) := by
  unfold State.afterState
  try dsimp only
  repeat' first
    | with_reducible exact ArmKeeps.refl
    | with_reducible apply ArmKeeps.step State.noteArmature_arm
    | with_reducible apply ArmKeeps.keep State.syncLinks_keeps
    | with_reducible apply ArmKeeps.keep State.syncKeys_keeps
    | with_reducible apply ArmKeeps.keep State.epochStep_keeps
    | with_reducible apply ArmKeeps.keep State.bondStep_keeps
    | with_reducible apply ArmKeeps.keep State.stripeStep_keeps
    | with_reducible apply ArmKeeps.step State.mapStep_arm
    | with_reducible apply ArmKeeps.keep State.ptpRoles_keeps
    | with_reducible apply ArmKeeps.keep State.applyStaged_keeps
    | with_reducible apply ArmKeeps.keep State.castStep_keeps
    | rfl

theorem State.propose_arm {s : State} {c : ArmChange} :
    ArmKeeps s (State.propose s c) := by
  unfold State.propose
  try dsimp only
  repeat' first
    | with_reducible exact ArmKeeps.refl
    | with_reducible apply ArmKeeps.modArm
    | (intro _; exact ⟨List.prefix_append .., rfl⟩)
    | split

theorem State.proposeBrick_arm {s : State} {b : BrickRec} {st : BState} :
    ArmKeeps s (State.proposeBrick s b st) := by
  unfold State.proposeBrick
  repeat' first
    | with_reducible exact ArmKeeps.refl
    | with_reducible apply ArmKeeps.step State.propose_arm

theorem State.react_arm {s : State} :
    ArmKeeps s (State.react s) := by
  unfold State.react
  try dsimp only
  repeat' first
    | with_reducible exact ArmKeeps.refl
    | with_reducible apply ArmKeeps.step State.propose_arm
    | with_reducible apply ArmKeeps.step State.proposeBrick_arm
    | rfl
    | split

theorem State.drawKey_arm {s : State} {old : Option Keyspace} {k : Keyspace} :
    ArmKeeps s (State.drawKey s old k) := by
  unfold State.drawKey
  try dsimp only
  repeat' first
    | with_reducible exact ArmKeeps.refl
    | with_reducible apply ArmKeeps.keep State.drawn_keeps
    | with_reducible apply ArmKeeps.step State.propose_arm
    | rfl
    | split

theorem State.leaderDone_arm {old s : State} {c : ArmChange} :
    ArmKeeps s (State.leaderDone old s c) := by
  cases c <;> dsimp only [State.leaderDone]
  all_goals repeat' first
    | with_reducible exact ArmKeeps.refl
    | with_reducible apply ArmKeeps.keep State.sendGrant_keeps
    | with_reducible apply ArmKeeps.modWall
    | with_reducible apply ArmKeeps.keep State.mortarOut_keeps
    | with_reducible apply ArmKeeps.keep State.answerAsked_keeps
    | with_reducible apply ArmKeeps.keep State.castAnswer_keeps
    | with_reducible apply ArmKeeps.keep State.pushSettings_keeps
    | with_reducible apply ArmKeeps.step State.drawKey_arm
    | with_reducible apply ArmKeeps.keep State.nextShip_keeps
    | with_reducible apply ArmKeeps.keep State.reportApplied_keeps
    | with_reducible apply ArmKeeps.keep State.recordOpen_keeps
    | (with_reducible apply ArmKeeps.foldl; intro _ _; try dsimp only)
    | (intro _; exact ⟨⟨List.prefix_refl _, rfl⟩, rfl, rfl⟩)
    | split
    | rfl

theorem State.settle_arm {s : State} {n : Nat} :
    ArmKeeps s (State.settle s n) := by
  induction n generalizing s with
  | zero => exact .refl
  | succ n ih =>
    unfold State.settle
    try dsimp only
    repeat' first
      | with_reducible apply ArmKeeps.refl
      | with_reducible assumption
      | with_reducible apply ArmKeeps.step ih
      | with_reducible apply ArmKeeps.step State.leaderDone_arm
      | with_reducible apply ArmKeeps.step State.react_arm
      | with_reducible apply ArmKeeps.step State.applyChange_arm
      | with_reducible apply ArmKeeps.modArm
      | (intro _; exact ⟨List.prefix_refl _, rfl⟩)
      | split

theorem State.lead__arm {s : State} :
    ArmKeeps s (State.lead_ s) := by
  unfold State.lead_
  try dsimp only
  repeat' first
    | with_reducible exact ArmKeeps.refl
    | with_reducible apply ArmKeeps.step State.react_arm
    | with_reducible apply ArmKeeps.step State.settle_arm
    | with_reducible apply ArmKeeps.keep State.sendAppends_keeps
    | with_reducible apply ArmKeeps.step State.afterState_arm
    | rfl
    | split

theorem State.takeAsk_arm {s : State} {a : CastAsk} :
    ArmKeeps s (State.takeAsk s a) := by
  unfold State.takeAsk
  try dsimp only
  repeat' first
    | with_reducible exact ArmKeeps.refl
    | with_reducible apply ArmKeeps.keep State.mortarOut_keeps
    | with_reducible apply ArmKeeps.modWall
    | with_reducible apply ArmKeeps.step State.propose_arm
    | (intro _; exact ⟨⟨List.prefix_refl _, rfl⟩, rfl, rfl⟩)
    | split
    | rfl

theorem State.resumeCasts_arm {s : State} :
    ArmKeeps s (State.resumeCasts s) := by
  unfold State.resumeCasts
  try dsimp only
  repeat' first
    | with_reducible exact ArmKeeps.refl
    | with_reducible apply ArmKeeps.keep State.modStore_keeps
    | with_reducible apply ArmKeeps.step State.takeAsk_arm
    | with_reducible apply ArmKeeps.keep State.announceCasts_keeps
    | (with_reducible apply ArmKeeps.foldl; intro _ _; try dsimp only)
    | rfl

end Sys2Proof.Machine
end

section
/-! PROOFS. Messages of Mortar on their way, and the replicated log of the armature (R197-R200). -/

namespace Sys2Proof.Machine

/-! ### A message heard and a message sent -/

theorem State.hears_of_running {s : State} {w : Wy} (hrun : s.running w = true) (hup : s.holdup = none) : s.hears w = true := by
  simp [State.hears, hrun, hup]

theorem State.mortarAny_of_hears {s : State} {w : Wy} {h : MHead} {handle : State → State} (hears : s.hears w = true) :
    s.mortarAny w h handle = handle (s.seeHlc w h.hlc) := if_pos hears

@[simp] theorem State.seeHlc_wall (s : State) (w : Wy) (r : Nat) : (s.seeHlc w r).wall = s.wall := State.modClk_wall ..

@[simp] theorem State.seeHlc_store (s : State) (w : Wy) (r : Nat) : (s.seeHlc w r).store = s.store := State.modClk_store ..

theorem State.seeHlc_now (s : State) (w : Wy) (r : Nat) : (s.seeHlc w r).now = s.now := by cases w <;> rfl

theorem State.seeHlc_holdup (s : State) (w : Wy) (r : Nat) : (s.seeHlc w r).holdup = s.holdup := by cases w <;> rfl

/-- Outside hold-up a message goes out (R477). -/
theorem State.mortarOut_sends {s : State} {w : Wy} {dst : Nat} {dstW : Wy} {b : MortarBody} (h : s.holdup = none) :
    .mortar w dst dstW b ∈ (s.mortarOut w dst dstW b).out :=
  State.mem_mortarOut_out ((State.mortarOut_keeps.holdup_eq (by decide)).trans h)

@[simp] theorem State.mortarOut_wall {s : State} {w : Wy} {dst : Nat} {dstW : Wy} {b : MortarBody} :
    (s.mortarOut w dst dstW b).wall = s.wall := State.mortarOut_keeps.wall_eq (by decide)

@[simp] theorem State.mortarOut_holdup {s : State} {w : Wy} {dst : Nat} {dstW : Wy} {b : MortarBody} :
    (s.mortarOut w dst dstW b).holdup = s.holdup := State.mortarOut_keeps.holdup_eq (by decide)

/-- What one step of a fold puts out stays put out. -/
theorem mem_out_foldl {α : Type} {l : List Part} {f : State → α → State} {xs : List α} {a : α} {o : Output} (P : State → Prop)
    (hk : ∀ s b, Keeps l s (f s b)) (hP : ∀ s b, P s → P (f s b)) (ha : a ∈ xs) (puts : ∀ s, P s → o ∈ (f s a).out) {s : State} (h : P s) :
    o ∈ (xs.foldl f s).out := by
  induction xs generalizing s with
  | nil => exact nomatch ha
  | cons b xs ih =>
    rcases List.mem_cons.mp ha with rfl | ha
    · exact (Keeps.foldl hk .refl : Keeps l (f s a) (xs.foldl f (f s a))).mem_out (puts s h)
    · exact ih ha (hP s b h)

/-! ### The log -/

/-- ARM_APPEND goes to every other member (R197). -/
theorem State.sendAppends_sends {s : State} {m : Nat} (hup : s.holdup = none) (hm : m ∈ s.wall.arm.members) (hne : m ≠ s.myId) :
    ∃ prev prevTerm commit l, .mortar .w0 m .w0 (.armAppend s.wall.arm.term s.myId prev prevTerm commit l) ∈ s.sendAppends.out := by
  let a := s.wall.arm
  let prev := (tableGet? a.matched m).getD 0
  refine ⟨prev, termAt a prev, a.commit, a.log.filter (fun e => prev < e.index), ?_⟩
  unfold State.sendAppends
  refine mem_out_foldl (l := [.mortar, .pcie, .regs]) (fun t => t.holdup = none ∧ t.wall = s.wall) (a := m)
    (fun _ _ => State.mortarOut_keeps) ?_ (by simpa [hne] using hm) ?_ ⟨hup, rfl⟩
  · rintro t b ⟨ht, hw⟩
    exact ⟨State.mortarOut_holdup.trans ht, State.mortarOut_wall.trans hw⟩
  · rintro t ⟨ht, hw⟩
    have hid : t.myId = s.myId := by rw [State.myId, hw, State.myId]
    rw [hid]
    exact State.mortarOut_sends ht

theorem State.ptpRoles_wall (s : State) : s.ptpRoles.wall = s.wall := State.ptpRoles_keeps.wall_eq (by decide)

theorem State.sendAppends_wall (s : State) : s.sendAppends.wall = s.wall := State.sendAppends_keeps.wall_eq (by decide)

theorem State.seeTerm_of_not_newer {s : State} {term : Nat} (h : term ≤ s.wall.arm.term) : s.seeTerm term = s := if_neg (Nat.not_lt.mpr h)

/-- A reader of a term that is not older stands in that term (R198). -/
theorem State.seeTerm_term {s : State} {term : Nat} (h : s.wall.arm.term ≤ term) : (s.seeTerm term).wall.arm.term = term := by
  rcases Nat.lt_or_eq_of_le h with hlt | heq
  · rw [State.seeTerm, if_pos hlt, State.ptpRoles_wall]
    rfl
  · rw [State.seeTerm_of_not_newer heq.ge, heq]

theorem State.armBase_arm {s : State} : ArmKeeps s s.armBase := ArmKeeps.keep State.modStore_keeps rfl (.modWall (fun _ => ⟨.refl, rfl, rfl⟩) .refl)

theorem State.applyUpTo_arm {s : State} {lo hi : Nat} : ArmKeeps s (s.applyUpTo lo hi) := by
  unfold State.applyUpTo
  refine .modArm (fun _ => ⟨List.prefix_refl _, rfl⟩) (.foldl (fun _ _ => State.applyChange_arm) ?_)
  exact .ite State.armBase_arm .refl

theorem ArmKeeps.core_eq {s t : State} {β : Type} (h : ArmKeeps s t) (π : Armature → β) : π t.wall.arm.core = π s.wall.arm.core :=
  congrArg π h.arm.core

theorem ArmKeeps.term {s t : State} (h : ArmKeeps s t) : t.wall.arm.term = s.wall.arm.term := h.core_eq Armature.term

theorem ArmKeeps.lastAppend {s t : State} (h : ArmKeeps s t) : t.wall.arm.lastAppend = s.wall.arm.lastAppend :=
  h.core_eq Armature.lastAppend

theorem ArmKeeps.matched {s t : State} (h : ArmKeeps s t) : t.wall.arm.matched = s.wall.arm.matched := h.core_eq Armature.matched

theorem ArmKeeps.votes {s t : State} (h : ArmKeeps s t) : t.wall.arm.votes = s.wall.arm.votes := h.core_eq Armature.votes

theorem ArmKeeps.votedFor {s t : State} (h : ArmKeeps s t) : t.wall.arm.votedFor = s.wall.arm.votedFor :=
  h.core_eq Armature.votedFor

theorem ArmKeeps.leader {s t : State} (h : ArmKeeps s t) : t.wall.arm.leader = s.wall.arm.leader := h.core_eq Armature.leader

theorem ArmKeeps.myId {s t : State} (h : ArmKeeps s t) : t.myId = s.myId := congrArg (fun b => b.getD 0x8000) h.brickId

/-- The log of a follower that takes entries after an index: it stays where it holds them all, else they follow what stands up to the index. -/
def takenLog (a : Armature) (prev : Nat) (l : List LogEntry) : List LogEntry :=
  if l.all (fun e => a.log.any (fun x => x.index = e.index && x.term = e.term)) then a.log else a.log.filter (fun e => e.index ≤ prev) ++ l

theorem mem_takenLog {a : Armature} {prev : Nat} {l : List LogEntry} {e : LogEntry} (he : e ∈ l) :
    ∃ x ∈ takenLog a prev l, x.index = e.index ∧ x.term = e.term := by
  unfold takenLog
  split
  · rename_i hall
    simpa using List.all_eq_true.mp hall e he
  · exact ⟨e, List.mem_append_right _ he, rfl, rfl⟩

/-- A follower of the term's leader, after its ARM_APPEND has come. -/
def State.heardLeader (s : State) (src term : Nat) : State :=
  (s.seeTerm term).modArm (fun a => { a with
    leader := some src
    role := if a.role = .none then .none else .follower
    lastAppend := s.now })

/-- A follower takes the entries from the log's beginning and acknowledges them (R197). -/
theorem State.doArmAppend_takes {s : State} {w : Wy} {h : MHead} {term prevTerm commit : Nat} {l : List LogEntry} (hup : s.holdup = none)
    (hterm : s.wall.arm.term ≤ term) :
    (∃ last silent, .mortar w h.src h.srcW (.armAppendAck term true last silent) ∈ (s.doArmAppend w h term 0 prevTerm commit l).out)
      ∧ (s.doArmAppend w h term 0 prevTerm commit l).wall.arm.lastAppend = s.now
      ∧ ∀ e ∈ l, ∃ x ∈ (s.doArmAppend w h term 0 prevTerm commit l).wall.arm.log, x.index = e.index ∧ x.term = e.term := by
  let s1 := s.heardLeader h.src term
  let s2 := s1.modArm (fun a => { a with log := takenLog s1.wall.arm 0 l })
  let hi := min commit (lastIndex s2.wall.arm)
  let s3 := if s1.wall.arm.commit < hi then State.afterState s2 (s2.applyUpTo s1.wall.arm.commit hi) else s2
  have heq : s.doArmAppend w h term 0 prevTerm commit l
      = s3.mortarOut w h.src h.srcW (.armAppendAck s3.wall.arm.term true (lastIndex s3.wall.arm) s3.silentBricks) := by
    unfold State.doArmAppend
    rw [if_neg (Nat.not_lt.mpr hterm)]
    rfl
  have hk : ArmKeeps s2 s3 := .ite (State.afterState_arm.step State.applyUpTo_arm) .refl
  have hup2 : s2.holdup = none := by
    have : (s.seeTerm term).holdup = s.holdup := State.seeTerm_keeps.holdup_eq (by decide)
    exact this.trans hup
  have hup3 : s3.holdup = none := by
    have : s3.holdup = s2.holdup := by
      simp only [s3]
      split
      · exact (State.afterState_keeps.holdup_eq (by decide)).trans (State.applyUpTo_keeps.holdup_eq (by decide))
      · rfl
    exact this.trans hup2
  have hterm2 : s2.wall.arm.term = term := State.seeTerm_term hterm
  rw [heq, State.mortarOut_wall]
  refine ⟨⟨lastIndex s3.wall.arm, s3.silentBricks, ?_⟩, ?_, fun e he => ?_⟩
  · rw [← hk.term.trans hterm2]
    exact State.mortarOut_sends hup3
  · exact hk.lastAppend.trans rfl
  · obtain ⟨x, hx, hxe⟩ := mem_takenLog (a := s1.wall.arm) (prev := 0) he
    exact ⟨x, hk.arm.log.subset hx, hxe⟩

/-- The ARM_APPEND of an older term is refused, and nothing of the wall changes (R198). -/
theorem State.doArmAppend_of_older {s : State} {w : Wy} {h : MHead} {term prev prevTerm commit : Nat} {l : List LogEntry}
    (hterm : term < s.wall.arm.term) : s.doArmAppend w h term prev prevTerm commit l
      = s.mortarOut w h.src h.srcW (.armAppendAck s.wall.arm.term false (lastIndex s.wall.arm) s.silentBricks) := if_pos hterm

/-- The leader notes what a member acknowledges (R197). -/
theorem State.doArmAppendAck_notes {s : State} {src matched : Nat} {silent : List Nat} (hrole : s.wall.arm.role = .leader) :
    tableGet? (s.doArmAppendAck src s.wall.arm.term true matched silent).wall.arm.matched src = some matched := by
  unfold State.doArmAppendAck
  rw [State.seeTerm_of_not_newer (Nat.le_refl _)]
  dsimp only
  rw [if_neg (by simp [hrole]), if_pos rfl, State.lead__arm.matched]
  exact tableGet_put ..

end Sys2Proof.Machine

namespace Sys2Proof

open Sys2Proof.Machine

/-- Settles O17: the log only grows while its leader goes on, and a follower's log holds what it was sent. -/
theorem logIsReplicated : Obligations.LogIsReplicated := by
  intro w h s hup
  refine ⟨fun hrole => ?_, fun term leader prevTerm commit l hrun hterm => ?_, fun term leader prev prevTerm commit l hrun hterm => ?_,
    fun matched silent hrun hrole => ?_⟩
  · refine runs_intro (t := s.lead_.sendAppends) (congrArg Host.Outcome.next ((if_pos (by simp [hrole])).trans (if_pos hrole))) fun m hm hne => ?_
    rw [State.sendAppends_wall] at hm ⊢
    have hid : s.lead_.sendAppends.myId = s.lead_.myId := ArmKeeps.myId (.of_wall_eq (State.sendAppends_wall _))
    rw [hid] at hne ⊢
    exact State.sendAppends_sends ((State.lead__keeps.holdup_eq (by decide)).trans hup) hm hne
  · refine runs_intro (congrArg Host.Outcome.next (State.mortarAny_of_hears (State.hears_of_running hrun hup))) ?_
    have := State.doArmAppend_takes (s := s.seeHlc w h.hlc) (w := w) (h := h) (term := term) (prevTerm := prevTerm) (commit := commit) (l := l)
      ((State.seeHlc_holdup ..).trans hup) (by simpa using hterm)
    rwa [State.seeHlc_now] at this
  · refine runs_intro (congrArg Host.Outcome.next (State.mortarAny_of_hears (State.hears_of_running hrun hup))) ?_
    rw [State.doArmAppend_of_older (by simpa using hterm), State.mortarOut_wall, State.seeHlc_wall]
    exact ⟨rfl, _, _, State.mortarOut_sends ((State.seeHlc_holdup ..).trans hup)⟩
  · refine runs_intro (congrArg Host.Outcome.next (State.mortarAny_of_hears (State.hears_of_running hrun hup))) ?_
    have := State.doArmAppendAck_notes (s := s.seeHlc w h.hlc) (src := h.src) (matched := matched) (silent := silent) (by simpa using hrole)
    rwa [State.seeHlc_wall] at this

end Sys2Proof
end

section
/-! PROOFS. Elections of the armature (R198). -/

namespace Sys2Proof.Machine

/-- A candidate that has a quorum of the votes. -/
def State.wins (s : State) : Bool :=
  s.wall.arm.role = .candidate
    && quorum s.wall.arm.members.length ≤ (s.wall.arm.votes.filter (fun v => s.wall.arm.members.contains v)).length

/-- The leader that a candidate becomes. -/
def State.elected (s : State) : State := s.modArm (fun a => { a with role := .leader, leader := some s.myId, matched := [], silent := [] })

theorem State.countVotes_of_wins {s : State} (h : s.wins = true) : ArmKeeps s.elected s.countVotes := by
  have heq : s.countVotes = s.elected.ptpRoles.resumeCasts.lead_.sendAppends := if_pos h
  rw [heq]
  exact .keep State.sendAppends_keeps rfl (State.lead__arm.step (State.resumeCasts_arm.step (.of_wall_eq (State.ptpRoles_wall _))))

theorem State.countVotes_of_not_wins {s : State} (h : ¬ s.wins = true) : s.countVotes = s := if_neg h

/-- Counting the votes changes neither the term nor a vote. -/
theorem State.countVotes_arm {s : State} : s.countVotes.wall.arm.term = s.wall.arm.term ∧ s.countVotes.wall.arm.votedFor = s.wall.arm.votedFor
    ∧ s.countVotes.wall.arm.votes = s.wall.arm.votes := by
  by_cases h : s.wins = true
  · have k := State.countVotes_of_wins h
    exact ⟨k.term, k.votedFor, k.votes⟩
  · rw [State.countVotes_of_not_wins h]
    exact ⟨rfl, rfl, rfl⟩

/-- A member that stands for the next term. -/
def State.stands (s : State) : State :=
  s.modArm (fun a => { a with
    role := .candidate, term := a.term + 1, votedFor := some s.myId, votes := [s.myId], leader := none, lastAppend := s.now })

/-- A candidate's requests for the votes of the others. -/
def State.asksVotes (s : State) (w : Wy) : State :=
  (s.wall.arm.members.filter (fun m => m ≠ s.myId)).foldl (fun t m =>
    t.mortarOut w m .w0 (.armVoteReq s.wall.arm.term t.myId (lastIndex s.wall.arm) (lastTerm s.wall.arm))) s

theorem exec_electionTimeout {s : State} {w : Wy} (hrole : s.wall.arm.role = .follower ∨ s.wall.arm.role = .candidate)
    (hlate : s.wall.arm.lastAppend + 1000000000 ≤ s.now) : exec (.electionTimeout w) s = .next (s.stands.asksVotes w).countVotes :=
  if_pos (by simpa using ⟨hrole, (State.since_ms s s.wall.arm.lastAppend 1000).mpr hlate⟩)

theorem State.asksVotes_keeps {s : State} {w : Wy} : Keeps [.mortar, .pcie, .regs] s (s.asksVotes w) :=
  Keeps.foldl (fun _ _ => State.mortarOut_keeps) .refl

theorem State.asksVotes_sends {s : State} {w : Wy} {m : Nat} (hup : s.holdup = none) (hm : m ∈ s.wall.arm.members) (hne : m ≠ s.myId) :
    .mortar w m .w0 (.armVoteReq s.wall.arm.term s.myId (lastIndex s.wall.arm) (lastTerm s.wall.arm)) ∈ (s.asksVotes w).out := by
  unfold State.asksVotes
  refine mem_out_foldl (l := [.mortar, .pcie, .regs]) (fun t => t.holdup = none ∧ t.wall = s.wall) (a := m)
    (fun _ _ => State.mortarOut_keeps) ?_ (by simpa [hne] using hm) ?_ ⟨hup, rfl⟩
  · rintro t b ⟨ht, hw⟩
    exact ⟨State.mortarOut_holdup.trans ht, State.mortarOut_wall.trans hw⟩
  · rintro t ⟨ht, hw⟩
    have hid : t.myId = s.myId := by rw [State.myId, hw, State.myId]
    rw [hid]
    exact State.mortarOut_sends ht

/-- A newer term makes a member a follower of no leader yet, with its vote free (R198). -/
theorem State.seeTerm_of_newer {s : State} {term : Nat} (hterm : s.wall.arm.term < term) (hrole : s.wall.arm.role ≠ .none) :
    (s.seeTerm term).wall.arm = { s.wall.arm with term := term, role := .follower, votedFor := none, leader := none, votes := [] } := by
  rw [State.seeTerm, if_pos hterm, State.ptpRoles_wall]
  exact congrArg (fun r => { s.wall.arm with term := term, role := r, votedFor := none, leader := none, votes := [] }) (if_neg hrole)

/-- A member votes for a candidate of a newer term whose log is at least as far (R198). -/
theorem State.doVoteReq_grants {s : State} {w : Wy} {h : MHead} {term candidate last lastT : Nat} (hup : s.holdup = none)
    (hrole : s.wall.arm.role ≠ .none) (hterm : s.wall.arm.term < term)
    (hfresh : lastTerm s.wall.arm < lastT ∨ lastTerm s.wall.arm = lastT ∧ lastIndex s.wall.arm ≤ last) :
    .mortar w h.src h.srcW (.armVote term true) ∈ (s.doVoteReq w h term candidate last lastT).out
      ∧ (s.doVoteReq w h term candidate last lastT).wall.arm.votedFor = some candidate
      ∧ (s.doVoteReq w h term candidate last lastT).wall.arm.term = term
      ∧ (s.doVoteReq w h term candidate last lastT).wall.arm.role = .follower := by
  have harm := State.seeTerm_of_newer hterm hrole
  have hlt : lastTerm (s.seeTerm term).wall.arm = lastTerm s.wall.arm := by rw [harm]; rfl
  have hli : lastIndex (s.seeTerm term).wall.arm = lastIndex s.wall.arm := by rw [harm]; rfl
  have hrole1 : (s.seeTerm term).wall.arm.role = .follower := by rw [harm]
  have hterm1 : (s.seeTerm term).wall.arm.term = term := by rw [harm]
  have hvoted1 : (s.seeTerm term).wall.arm.votedFor = none := by rw [harm]
  have hgrant : ((s.seeTerm term).wall.arm.role ≠ .none && term = (s.seeTerm term).wall.arm.term
      && (decide (lastTerm (s.seeTerm term).wall.arm < lastT)
        || (lastTerm (s.seeTerm term).wall.arm = lastT && decide (lastIndex (s.seeTerm term).wall.arm ≤ last)))
      && ((s.seeTerm term).wall.arm.votedFor.isNone || (s.seeTerm term).wall.arm.votedFor = some candidate)) = true := by
    simpa [hlt, hli, hrole1, hterm1, hvoted1] using hfresh
  let s2 := (s.seeTerm term).modArm (fun a => { a with votedFor := some candidate })
  have heq : s.doVoteReq w h term candidate last lastT = s2.mortarOut w h.src h.srcW (.armVote s2.wall.arm.term true) := by
    unfold State.doVoteReq
    dsimp only
    rw [if_pos hgrant, hgrant]
  have hterm2 : s2.wall.arm.term = term := hterm1
  rw [heq, State.mortarOut_wall, hterm2]
  refine ⟨State.mortarOut_sends ?_, rfl, rfl, hrole1⟩
  exact ((State.seeTerm_keeps (s := s) (term := term)).holdup_eq (by decide)).trans hup

/-- The state of a candidate with one more vote. -/
def State.withVote (s : State) (src : Nat) : State :=
  s.modArm (fun a => { a with votes := if a.votes.contains src then a.votes else a.votes ++ [src] })

theorem exec_armVote {s : State} {w : Wy} {h : MHead} (hears : s.hears w = true) (hrole : s.wall.arm.role = .candidate) :
    exec (.armVote w h s.wall.arm.term true) s = .next ((s.seeHlc w h.hlc).withVote h.src).countVotes := by
  refine congrArg Host.Outcome.next ((State.mortarAny_of_hears hears).trans ?_)
  rw [State.seeTerm_of_not_newer (by rw [State.seeHlc_wall])]
  exact if_pos (by simp [hrole])

end Sys2Proof.Machine

namespace Sys2Proof

open Sys2Proof.Machine

/-- Settles O18: a count of votes leaves the term and the votes, and what the new leader does first leaves it the leader. -/
theorem electionsElect : Obligations.ElectionsElect := by
  intro w h s hup
  refine ⟨fun hrole hlate => ?_, fun term candidate last lastT hrun hrole hterm hfresh => ?_, fun hrun hrole => ?_⟩
  · refine runs_intro (exec_electionTimeout hrole hlate) ?_
    obtain ⟨hterm, hvoted, -⟩ := State.countVotes_arm (s := s.stands.asksVotes w)
    have hwall : (s.stands.asksVotes w).wall = s.stands.wall := State.asksVotes_keeps.wall_eq (by decide)
    rw [hterm, hvoted, hwall]
    exact ⟨rfl, rfl, fun m hm hne => State.countVotes_keeps.mem_out (State.asksVotes_sends (s := s.stands) hup hm hne)⟩
  · refine runs_intro (congrArg Host.Outcome.next (State.mortarAny_of_hears (State.hears_of_running hrun hup))) ?_
    exact State.doVoteReq_grants ((State.seeHlc_holdup ..).trans hup) (by simpa using hrole) (by simpa using hterm) (by simpa using hfresh)
  · refine runs_intro (exec_armVote (State.hears_of_running hrun hup) hrole) ?_
    have harm : ((s.seeHlc w h.hlc).withVote h.src).wall.arm = { s.wall.arm with
        votes := if s.wall.arm.votes.contains h.src then s.wall.arm.votes else s.wall.arm.votes ++ [h.src] } := by
      rw [← State.seeHlc_wall s w h.hlc]
      rfl
    obtain ⟨-, -, hvotes⟩ := State.countVotes_arm (s := (s.seeHlc w h.hlc).withVote h.src)
    refine ⟨?_, fun hq => ?_⟩
    · rw [hvotes, harm]
      dsimp only
      split
      · rename_i hin
        simpa using hin
      · simp
    · have hwins : ((s.seeHlc w h.hlc).withVote h.src).wins = true := by
        unfold State.wins
        rw [harm]
        simpa [hrole] using hq
      rw [(State.countVotes_of_wins hwins).leader]
      have : (s.seeHlc w h.hlc).myId = s.myId := ArmKeeps.myId (.of_wall_eq (State.seeHlc_wall ..))
      exact congrArg some this

end Sys2Proof
end

section
/-! PROOFS. Forming a wall and joining one (R191-R195). -/

namespace Sys2Proof.Machine

/-! ### What a leader proposes -/

theorem State.propose_of_leader {s : State} {c : ArmChange} (h : s.wall.arm.role = .leader) : Sys2Proof.logged (s.propose c) c := by
  by_cases hwaits : s.uncommitted.contains c = true
  · have heq : s.propose c = s := if_pos (by rw [hwaits, Bool.or_true])
    have hin : c ∈ s.uncommitted := by simpa using hwaits
    obtain ⟨e, he, hc⟩ := List.mem_map.mp hin
    rw [heq]
    exact ⟨e, (List.mem_filter.mp he).1, hc⟩
  · have heq : s.propose c
        = s.modArm (fun a => { a with log := a.log ++ [{ index := lastIndex a + 1, term := a.term, change := c }] }) :=
      if_neg (by simpa [h] using hwaits)
    rw [heq]
    exact ⟨_, List.mem_append_right _ (List.mem_singleton.mpr rfl), rfl⟩

theorem State.propose_role (s : State) (c : ArmChange) : (s.propose c).wall.arm.role = s.wall.arm.role := by
  unfold State.propose
  split <;> rfl

/-- What a leader proposes stands in its log when it has gone on. -/
theorem State.lead_logged {s : State} {c : ArmChange} (h : s.wall.arm.role = .leader) : Sys2Proof.logged (s.propose c).lead_ c :=
  State.lead__arm.logged (State.propose_of_leader h)

/-- Of two changes proposed the first stays in the log, too. -/
theorem State.lead_logged_both {s : State} {c d : ArmChange} (h : s.wall.arm.role = .leader) :
    Sys2Proof.logged ((s.propose c).propose d).lead_ c ∧ Sys2Proof.logged ((s.propose c).propose d).lead_ d :=
  ⟨State.lead__arm.logged (State.propose_arm.logged (State.propose_of_leader h)),
    State.lead_logged ((State.propose_role ..).trans h)⟩

/-! ### Forming -/

/-- The brick as brick 0 of its wall, whose sole armature member and leader it is (R191). -/
def State.asFounder (s : State) : State :=
  (s.drawn 32).modWall (fun x => { x with
    st := .forming
    identity := true
    brickId := some 0
    ready := true
    arm := { Armature.reset with role := .leader, term := 1, members := [0], leader := some 0 } })

theorem State.form_founds {s : State} {w : Wy} (hid : s.wall.identity = false) (hwall : s.wall.settings.wallId ≠ 0)
    (hst : s.wall.st = .unjoined) : ArmKeeps s.asFounder (s.form w) := by
  have hgo : ¬ (s.wall.identity || s.wall.settings.wallId = 0 || s.wall.st ≠ .unjoined) = true := by simp [hid, hwall, hst]
  unfold State.form
  rw [if_neg hgo]
  refine State.lead__arm.step (.keep State.ptpRoles_keeps rfl (State.propose_arm.step (State.propose_arm.step (State.propose_arm.step ?_))))
  exact .keep State.storeWallKey_keeps rfl .refl

/-! ### Joining -/

theorem State.mortarTo_sends {s : State} {w : Wy} {dst : Nat} {dstW : Wy} {addr : BitVec 128} {b : MortarBody} (h : s.holdup = none) :
    .mortar w dst dstW b ∈ (s.mortarTo w dst dstW addr b).out := by
  unfold State.mortarTo
  dsimp only
  rw [if_neg (by simp [h])]
  split
  · exact State.flowSend_keeps.mem_out (State.mem_emit_out ..)
  · exact State.flowSend_keeps.mem_out (State.mem_emit_out ..)

/-- A brick that joins asks its contact (R192). -/
theorem State.join_asks {s : State} {w : Wy} (hup : s.holdup = none) (hst : s.wall.st = .unjoined) :
    (s.join w).wall.st = .joining ∧ .mortar w s.contact .w0 (.joinRequest (s.joinRequest w (scalarOf (freeBytes s.fresh 48)))) ∈ (s.join w).out := by
  have hgo : ¬ (s.wall.st ≠ .unjoined && s.wall.st ≠ .joining && s.wall.st ≠ .suspect && s.wall.st ≠ .member) = true := by simp [hst]
  unfold State.join
  rw [if_neg hgo]
  dsimp only
  refine ⟨?_, State.mortarOut_sends hup⟩
  rw [State.mortarOut_wall, State.modWall_wall]
  exact if_pos hst

theorem State.joinFails_congr {s t : State} (hw : t.wall = s.wall) (compat : Nat) (r : JoinReq) : t.joinFails compat r = s.joinFails compat r := by
  unfold State.joinFails State.returns State.freeId State.brick
  rw [hw]

/-- The leader enters a brick that it admits and does not know, or answers why it does not (R193). -/
theorem State.doJoinRequest_enters {s : State} {w : Wy} {h : MHead} {r : JoinReq} (hrole : s.wall.arm.role = .leader)
    (hok : s.joinFails h.compat r = none) (hnew : s.returns r = false) :
    Sys2Proof.logged (s.doJoinRequest w h r) (.brick (s.freeId.getD 0) .joining r.enclosure r.rack r.serial) := by
  unfold State.doJoinRequest
  rw [if_neg (by rw [hrole]; decide), hok, hnew]
  dsimp only
  generalize s.freeId.getD 0 = id
  refine (State.lead_logged_both ?_).1
  exact hrole

theorem State.doJoinRequest_refuses {s : State} {w : Wy} {h : MHead} {r : JoinReq} {x : JoinResult} (hrole : s.wall.arm.role = .leader)
    (hfails : s.joinFails h.compat r = some x) : s.doJoinRequest w h r = s.mortarTo w h.src h.srcW h.addr (.joinGrant (refusedGrant x)) := by
  unfold State.doJoinRequest
  rw [if_neg (by rw [hrole]; decide), hfails]

/-! ### A grant -/

theorem State.storeWallKey_cip {s : State} {key : Bytes} {f : KsImage → KsImage} (v : Wy) :
    ((s.storeWallKey key f).wy v).cip = { (s.wy v).cip with wallKey := key } := by
  unfold State.storeWallKey
  generalize hk : s.writeKeys _ = t
  have h : (t.wy v).cip = (s.wy v).cip := by
    rw [← hk]
    exact State.writeKeys_keeps.cip_eq (by decide) v
  rw [← h]
  cases v <;> rfl

/-- The brick with the identity, the keys and the domain of its grant (R194). -/
def State.granted (s : State) (src : Nat) (r : JoinReq) (g : JoinGrant) (key : Bytes) : State :=
  ((((s.modWall (fun x => { x with
    identity := true
    brickId := some g.id
    joinAt := s.now
    joinKey := none
    settings := { x.settings with wallId := r.wallId }
    arm := { x.arm with members := if x.arm.members.contains src then x.arm.members else x.arm.members ++ [src] } })).modCip .w0
      (fun k => k.takeDomain g)).modCip .w1 (fun k => k.takeDomain g)).storeWallKey key
        (fun k => { k with wallId := r.wallId, domain := g.ivDomain, subst := k.subst || g.substitute }))

theorem State.granted_wall (s : State) (src : Nat) (r : JoinReq) (g : JoinGrant) (key : Bytes) :
    (s.granted src r g key).wall.brickId = some g.id ∧ (s.granted src r g key).wall.identity = true := by
  unfold State.granted
  rw [State.storeWallKey_keeps.wall_eq (by decide)]
  exact ⟨rfl, rfl⟩

theorem State.granted_cip (s : State) (src : Nat) (r : JoinReq) (g : JoinGrant) (key : Bytes) (v : Wy) :
    ((s.granted src r g key).wy v).cip = { (s.wy v).cip.takeDomain g with wallKey := key } := by
  unfold State.granted
  rw [State.storeWallKey_cip]
  cases v <;> rfl

/-- The brick asks another for the four state objects (R195). -/
def State.askAll (s : State) (w : Wy) (dst : Nat) : State := [StateObj.map, .bond, .casts, .settings].foldl (fun s o => s.askState w dst o) s

theorem State.askAll_keeps {s : State} {w : Wy} {dst : Nat} : Keeps [.mortar, .pcie, .regs] s (s.askAll w dst) :=
  Keeps.foldl (fun _ _ => State.askState_keeps) .refl

theorem State.askAll_sends {s : State} {w : Wy} {dst : Nat} (hup : s.holdup = none) (o : StateObj) :
    .mortar w dst w (.stateGet o 0 0 1048576) ∈ (s.askAll w dst).out := by
  have hin : o ∈ [StateObj.map, .bond, .casts, .settings] := by cases o <;> simp
  unfold State.askAll
  refine mem_out_foldl (l := [.mortar, .pcie, .regs]) (fun t => t.holdup = none) (a := o) (fun _ _ => State.askState_keeps) ?_ hin ?_ hup
  · exact fun t b ht => (State.askState_keeps.holdup_eq (by decide)).trans ht
  · intro t ht
    unfold State.askState
    exact State.mortarOut_sends ht

/-- What a brick that joined anew discards changes neither its wall nor its keys, and it asks for the four state objects (R195, R204). -/
theorem State.joinGranted_keeps_grant (s : State) (w : Wy) (h : MHead) (r : JoinReq) (g : JoinGrant) (key : Bytes) :
    (s.joinGranted w h r g key).wall = (s.granted h.src r g key).wall
      ∧ (∀ v, ((s.joinGranted w h r g key).wy v).cip = ((s.granted h.src r g key).wy v).cip)
      ∧ (s.holdup = none → ∀ o : StateObj, .mortar w h.src w (.stateGet o 0 0 1048576) ∈ (s.joinGranted w h r g key).out) := by
  let s3 := s.granted h.src r g key
  let s4 := if r.prevId ≠ 0xFFFF && (g.id ≠ r.prevId || g.substitute) then s3.discardStored else s3
  have h4 : Keeps [.pcie, .regs, .store, .stripes, .refs, .media, .arriving] s3 s4 := .ite State.discardStored_keeps .refl
  have hup4 : s.holdup = none → s4.holdup = none := fun hup =>
    (h4.holdup_eq (by decide)).trans ((State.storeWallKey_keeps.holdup_eq (by decide)).trans hup)
  have heq : s.joinGranted w h r g key = s4.askAll w h.src := rfl
  rw [heq]
  exact ⟨(State.askAll_keeps.wall_eq (by decide)).trans (h4.wall_eq (by decide)),
    fun v => (State.askAll_keeps.cip_eq (by decide) v).trans (h4.cip_eq (by decide) v), fun hup o => State.askAll_sends (hup4 hup) o⟩

theorem State.doJoinGrant_of_granted {s : State} {w : Wy} {h : MHead} {g : JoinGrant} {e : Nat} {r : JoinReq} {pub key : Bytes}
    (hst : s.wall.st = .joining) (hres : g.result = .granted) (hkey : s.wall.joinKey = some (e, r)) (hopen : openGrant e r pub g = some key) :
    s.doJoinGrant w h g (some pub) = s.joinGranted w h r g key := by
  unfold State.doJoinGrant
  rw [if_neg (by simp [hst]), if_neg (by simp [hres]), hkey]
  dsimp only
  rw [hopen]

theorem exec_joinReadyTimeout {s : State} {brick : Nat} {b : BrickRec} (hb : s.brick brick = some b) (hst : b.st = .joining)
    (hready : b.ready = false) (hlate : b.grantedAt + 600000000000 ≤ s.now) :
    exec (.joinReadyTimeout brick) s = .next (s.propose (.removed brick)).lead_ := by
  have hcond : (b.st = .joining && !b.ready && s.since b.grantedAt (sec 600)) = true := by
    rw [(State.since_sec s b.grantedAt 600).mpr hlate, hready, hst]
    rfl
  have : exec (.joinReadyTimeout brick) s = execJoinReadyTimeout brick s := rfl
  rw [this, execJoinReadyTimeout, hb]
  dsimp only
  rw [if_pos hcond]

end Sys2Proof.Machine

namespace Sys2Proof

open Sys2Proof.Machine

/-- Settles O19: what a founder or a leader proposes stays in the log, and a grant's identity and keys outlast what the brick then discards. -/
theorem bricksFormAndJoin : Obligations.BricksFormAndJoin := by
  intro w h s hup
  refine ⟨fun hrun hid hwall hst => ?_, fun hrun hst => ?_, fun r hrun hrole hok hnew => ?_, fun r x hrun hrole hfails => ?_,
    fun g e r pub key hrun hst hres hkey hopen => ?_, fun brick b hb hst hready hlate hrole => ?_⟩
  · have k := State.form_founds (w := w) hid hwall hst
    exact runs_intro (congrArg Host.Outcome.next (if_pos hrun)) ⟨k.identity, k.brickId, k.term, k.leader⟩
  · obtain ⟨hjoins, hasks⟩ := State.join_asks (w := w) hup hst
    exact runs_intro (congrArg Host.Outcome.next (if_pos hrun)) ⟨hjoins, _, hasks⟩
  · refine runs_intro (congrArg Host.Outcome.next (State.mortarAny_of_hears (State.hears_of_running hrun hup))) ?_
    have hw := State.seeHlc_wall s w h.hlc
    have hfree : (s.seeHlc w h.hlc).freeId = s.freeId := by simp only [State.freeId, hw]
    rw [← hfree]
    exact State.doJoinRequest_enters (by rw [hw]; exact hrole) ((State.joinFails_congr hw ..).trans hok)
      (by simpa only [State.returns, State.brick, hw] using hnew)
  · refine runs_intro (congrArg Host.Outcome.next (State.mortarAny_of_hears (State.hears_of_running hrun hup))) ?_
    have hw := State.seeHlc_wall s w h.hlc
    rw [State.doJoinRequest_refuses (by rw [hw]; exact hrole) ((State.joinFails_congr hw ..).trans hfails)]
    exact ⟨State.mortarTo_sends ((State.seeHlc_holdup ..).trans hup), (State.mortarTo_keeps.wall_eq (by decide)).trans hw⟩
  · refine runs_intro (congrArg Host.Outcome.next (State.mortarAny_of_hears (State.hears_of_running hrun hup))) ?_
    have hw := State.seeHlc_wall s w h.hlc
    rw [State.doJoinGrant_of_granted (by rw [hw]; exact hst) hres (by rw [hw]; exact hkey) hopen]
    obtain ⟨hwall, hcip, hasks⟩ := State.joinGranted_keeps_grant (s.seeHlc w h.hlc) w h r g key
    obtain ⟨hid, hident⟩ := State.granted_wall (s.seeHlc w h.hlc) h.src r g key
    rw [hwall]
    refine ⟨hid, hident, fun v => ?_, fun v => ?_, hasks ((State.seeHlc_holdup ..).trans hup)⟩
    · rw [hcip, State.granted_cip]
    · rw [hcip, State.granted_cip, Cip.takeDomain]
      cases hsub : g.substitute
      · simp
      · simp
  · exact runs_intro (exec_joinReadyTimeout hb hst hready hlate) (State.lead_logged hrole)

end Sys2Proof
end

section
/-! PROOFS. Membership of the wall: heartbeats, leases, loss, removal and planned moves (R202-R205, R127). -/

namespace Sys2Proof.Machine

/-! ### Messages change the flows of a wythe alone -/

/-- What a wythe keeps of Mortar but its flows. -/
def MortarW.core (m : MortarW) : MortarW := { m with flows := [] }

def PeerKeeps (s t : State) : Prop := ∀ w, (t.wy w).mortar.core = (s.wy w).mortar.core

theorem PeerKeeps.refl {s : State} : PeerKeeps s s := fun _ => rfl

theorem PeerKeeps.step {s t u : State} (k : PeerKeeps t u) (h : PeerKeeps s t) : PeerKeeps s u := fun w => (k w).trans (h w)

theorem PeerKeeps.keep {l : List Part} {s t u : State} (k : Keeps l t u) (hl : l.contains .mortar = false) (h : PeerKeeps s t) :
    PeerKeeps s u :=
  .step (fun w => congrArg MortarW.core (k.mortar_eq (by simpa using hl) w)) h

theorem PeerKeeps.modMortar {s t : State} {w : Wy} {f : MortarW → MortarW} (hf : ∀ m, (f m).core = m.core) (h : PeerKeeps s t) :
    PeerKeeps s (t.modMortar w f) := by
  refine .step (fun v => ?_) h
  rcases Wy.eq_or_peer w v with rfl | rfl
  · rw [State.modMortar_wy]
    exact hf _
  · rw [State.modMortar_peer]

theorem PeerKeeps.foldl {α : Type} {s u : State} {f : State → α → State} {xs : List α} (hf : ∀ v a, PeerKeeps v (f v a))
    (h : PeerKeeps s u) : PeerKeeps s (xs.foldl f u) := by
  induction xs generalizing u with
  | nil => exact h
  | cons a xs ih => exact ih ((hf u a).step h)

theorem State.modFlow_peers {s : State} {w : Wy} {b : Nat} {bw : Wy} {n : Nat} {f : Flow → Flow} :
    PeerKeeps s (State.modFlow s w b bw n f) := by
  unfold State.modFlow
  try dsimp only
  repeat' first
    | with_reducible exact PeerKeeps.refl
    | with_reducible apply PeerKeeps.modMortar
    | rfl
    | (intro _; rfl)

theorem State.openFlow_peers {s : State} {w : Wy} {b : Nat} {bw : Wy} {n : Nat} :
    PeerKeeps s (State.openFlow s w b bw n) := by
  unfold State.openFlow
  try dsimp only
  repeat' first
    | with_reducible exact PeerKeeps.refl
    | with_reducible apply PeerKeeps.modMortar
    | with_reducible apply PeerKeeps.step State.modFlow_peers
    | rfl
    | (intro _; rfl)
    | split

theorem State.pushFlow_peers {s : State} {w : Wy} {b : Nat} {bw : Wy} {n : Nat} :
    PeerKeeps s (State.pushFlow s w b bw n) := by
  unfold State.pushFlow
  try dsimp only
  repeat' first
    | with_reducible exact PeerKeeps.refl
    | with_reducible apply PeerKeeps.keep State.used_keeps
    | with_reducible apply PeerKeeps.keep State.emitAll_keeps
    | with_reducible apply PeerKeeps.keep State.bumpBy_keeps
    | with_reducible apply PeerKeeps.step State.modFlow_peers
    | rfl
    | split

theorem State.flowSend_peers {s : State} {w : Wy} {b : Nat} {bw : Wy} {n : Nat} {addr : BitVec 128} {m : MortarBody} :
    PeerKeeps s (State.flowSend s w b bw n addr m) := by
  unfold State.flowSend
  try dsimp only
  repeat' first
    | with_reducible exact PeerKeeps.refl
    | with_reducible apply PeerKeeps.step State.pushFlow_peers
    | with_reducible apply PeerKeeps.step State.openFlow_peers
    | with_reducible apply PeerKeeps.step State.modFlow_peers

theorem State.mortarTo_peers {s : State} {w : Wy} {dst : Nat} {dstW : Wy} {addr : BitVec 128} {b : MortarBody} :
    PeerKeeps s (State.mortarTo s w dst dstW addr b) := by
  unfold State.mortarTo
  try dsimp only
  repeat' first
    | with_reducible exact PeerKeeps.refl
    | with_reducible apply PeerKeeps.keep State.emit_keeps
    | with_reducible apply PeerKeeps.step State.flowSend_peers
    | with_reducible apply PeerKeeps.keep State.used_keeps
    | rfl
    | split

theorem State.mortarOut_peers {s : State} {w : Wy} {dst : Nat} {dstW : Wy} {b : MortarBody} :
    PeerKeeps s (State.mortarOut s w dst dstW b) := by
  unfold State.mortarOut
  repeat' first
    | with_reducible exact PeerKeeps.refl
    | with_reducible apply PeerKeeps.step State.mortarTo_peers
    | with_reducible apply PeerKeeps.keep State.used_keeps
    | rfl

theorem State.toArmature_peers {s : State} {w : Wy} {b : MortarBody} :
    PeerKeeps s (State.toArmature s w b) := by
  unfold State.toArmature
  try dsimp only
  repeat' first
    | with_reducible exact PeerKeeps.refl
    | with_reducible apply PeerKeeps.step State.mortarOut_peers
    | (with_reducible apply PeerKeeps.foldl; intro _ _; try dsimp only)

/-! ### The heartbeat (R202) -/

theorem next_mortarAny {s : State} {w : Wy} {h : MHead} {f : State → State} (hrun : s.running w = true) (hup : s.holdup = none) :
    (.next (s.mortarAny w h f) : Host.Outcome State Fault Refusal) = .next (f (s.seeHlc w h.hlc)) :=
  congrArg Host.Outcome.next (State.mortarAny_of_hears (State.hears_of_running hrun hup))

theorem State.toArmature_sends {s : State} {w : Wy} {b : MortarBody} {m : Nat} (hup : s.holdup = none) (hm : m ∈ s.wall.arm.members) :
    .mortar w m .w0 b ∈ (s.toArmature w b).out := by
  unfold State.toArmature
  refine mem_out_foldl (l := [.mortar, .pcie, .regs]) (fun t => t.holdup = none) (a := m) (fun _ _ => State.mortarOut_keeps) ?_ hm ?_ hup
  · exact fun t b ht => State.mortarOut_holdup.trans ht
  · exact fun t ht => State.mortarOut_sends ht

/-- A running wythe of the wall sends its next heartbeat to every armature member (R202). -/
theorem State.sendHb_sends {s : State} {w : Wy} (hup : s.holdup = none) (hrun : s.running w = true) (hin : s.inWall = true) :
    ((s.sendHb w).wy w).mortar.hbSeq = (s.wy w).mortar.hbSeq + 1
      ∧ ∀ m ∈ s.wall.arm.members, .mortar w m .w0 (.heartbeat (s.hbBody ((s.wy w).mortar.hbSeq + 1))) ∈ (s.sendHb w).out := by
  unfold State.sendHb
  rw [if_neg (by simp [hrun, hin])]
  extract_lets seq b late s1 s2 s3 s4
  have hseq2 : (s2.wy w).mortar.hbSeq = (s.wy w).mortar.hbSeq + 1 := by cases w <;> rfl
  have hup2 : s2.holdup = none := by
    rw [← hup]
    cases w <;> rfl
  have harm2 : s2.wall.arm = s.wall.arm := by cases w <;> rfl
  have k3 : Keeps [.pcie, .regs] s2 s3 := State.bumpBy_keeps.step (by decide) (State.bump_keeps.mono (by decide))
  have k4 : Keeps [.pcie, .regs] s3 s4 := .ite (State.event_keeps.mono (by decide)) .refl
  have harm4 : s4.wall.arm = s.wall.arm := by rw [k4.wall_eq (by decide), k3.wall_eq (by decide), harm2]
  have hseq4 : (s4.wy w).mortar = (s2.wy w).mortar := (k4.mortar_eq (by decide) w).trans (k3.mortar_eq (by decide) w)
  have hup4 : s4.holdup = none := (k4.holdup_eq (by decide)).trans ((k3.holdup_eq (by decide)).trans hup2)
  refine ⟨?_, fun m hm => State.toArmature_sends hup4 (harm4 ▸ hm)⟩
  have := congrArg MortarW.hbSeq (State.toArmature_peers (s := s4) (w := w) (b := .heartbeat b) w)
  exact this.trans ((congrArg MortarW.hbSeq hseq4).trans hseq2)

theorem State.spaceSum_wall (s : State) : ∃ n, s.spaceSum.wall = { s.wall with lowSpace := n } := by
  unfold State.spaceSum
  extract_lets l free all level s1
  refine ⟨level, ?_⟩
  split
  · rfl
  · exact State.recordOpen_keeps.wall_eq (by decide)

/-- A follower answers a heartbeat of a brick of the wall and notes when it came (R202). -/
theorem State.doHeartbeat_notes {s : State} {w : Wy} {h : MHead} {b : HbBody} {x : BrickRec} (hup : s.holdup = none)
    (hrole : s.wall.arm.role = .follower) (hx : s.brick h.src = some x) :
    (∃ r : HbReply, .mortar w h.src h.srcW (.heartbeatReply r) ∈ (s.doHeartbeat w h b).out ∧ r.seq = b.seq ∧ r.notMember = false)
      ∧ ∃ y, (s.doHeartbeat w h b).brick h.src = some y ∧ y.lastHb = s.now := by
  unfold State.doHeartbeat
  rw [if_neg (by simp [hrole])]
  extract_lets known s1 s2
  let r : HbReply :=
    { seq := b.seq, term := s1.wall.arm.term, leader := s1.wall.arm.role = .leader, notMember := known.isNone, epoch := s1.wall.epoch,
      bondVersion := s1.wall.bond.version, mapVersion := s1.store.map.version, castVersion := s1.wall.castVersion,
      wallClosed := s1.wallClosedNow }
  have hup1 : s1.holdup = none := hup
  have hrole1 : s1.wall.arm.role = .follower := hrole
  have hbrick1 : s1.brick h.src = some (noteHb s.now s.wall.epoch s.wall.bond.version h b x) := by
    refine (find?_updFirst (fun y hy => ?_) s.wall.bricks).trans (congrArg (Option.map _) hx)
    exact hy
  have hwall2 : s2.wall = s1.wall := State.mortarOut_wall
  have hsent2 : .mortar w h.src h.srcW (.heartbeatReply r) ∈ s2.out := State.mortarOut_sends hup1
  have hwall3 : s2.spaceSum.wall.arm = s2.wall.arm ∧ s2.spaceSum.wall.bricks = s2.wall.bricks := by
    obtain ⟨n, hn⟩ := State.spaceSum_wall s2
    rw [hn]
    exact ⟨rfl, rfl⟩
  obtain ⟨harm3, hbricks3⟩ := hwall3
  have hlead : s2.spaceSum.hbLead h.src b = s2.spaceSum := by
    refine if_pos ?_
    rw [harm3, hwall2, hrole1]
    decide
  rw [hlead]
  refine ⟨⟨r, State.spaceSum_keeps.mem_out hsent2, rfl, congrArg Option.isNone hx⟩,
    noteHb s.now s.wall.epoch s.wall.bond.version h b x, ?_, rfl⟩
  rw [State.brick, hbricks3, hwall2]
  exact hbrick1

/-! ### Leases (R127) -/

/-- The reply of the sole armature member acknowledges a heartbeat, and the lease runs from its sending (R127). -/
theorem State.doHeartbeatReply_renews {s : State} {w : Wy} {h : MHead} {r : HbReply} {y : HbSent} (hmem : r.notMember = false)
    (hhb : s.wall.hb = [y]) (hw : y.w = w) (hseq : y.seq = r.seq) (harm : s.wall.arm.members = [h.src]) :
    y.sentAt + 400000000 ≤ (s.doHeartbeatReply w h r).wall.leaseUntil ∧ (s.doHeartbeatReply w h r).wall.wallClosed = r.wallClosed := by
  unfold State.doHeartbeatReply
  extract_lets add s1 n s2 gone s3 s4
  have hmem1 : s1.wall.arm.members = [h.src] := harm
  have hhb1 : s1.wall.hb = [add y] := by
    have heq : s1.wall.hb = updFirst (fun y => y.w = w && y.seq = r.seq) add s.wall.hb := rfl
    rw [heq, hhb]
    simp [updFirst, hw, hseq]
  have hsrc : h.src ∈ (add y).replies := by
    simp only [add]
    split
    · rename_i hin
      simpa using hin
    · simp
  have hquorum : n ≤ ((add y).replies.filter (fun b => s1.wall.arm.members.contains b)).length := by
    have hn : n = 1 := by simp [n, hmem1, quorum]
    rw [hn]
    exact List.length_pos_of_mem (List.mem_filter.mpr ⟨hsrc, by simp [hmem1]⟩)
  have hfind : s1.wall.hb.find? (fun y => y.w = w && y.seq = r.seq) = some (add y) := by
    rw [hhb1]
    simp [add, hw, hseq]
  have hs2 : s2 = s1.modWall (fun x => { x with
      leaseUntil := max x.leaseUntil ((add y).sentAt + ms 400)
      hb := x.hb.filter (fun z => !(z.w = w && z.sentAt ≤ (add y).sentAt)) }) := by
    simp only [s2]
    rw [hfind]
    exact if_pos hquorum
  have hwall : (if s4.wall.castVersion < r.castVersion then s4.askState w h.src .casts else s4).wall = s2.wall := by
    have k3 : Keeps [.mortar, .pcie, .regs] s2 s3 := .ite State.askState_keeps .refl
    have k4 : Keeps [.mortar, .pcie, .regs] s3 s4 := .ite State.askState_keeps .refl
    have k5 := Keeps.ite (c := s4.wall.castVersion < r.castVersion) (State.askState_keeps (s := s4) (w := w) (dst := h.src) (obj := .casts)) .refl
    exact (k5.wall_eq (by decide)).trans ((k4.wall_eq (by decide)).trans (k3.wall_eq (by decide)))
  rw [if_neg (by rw [hmem]; decide), hwall, hs2]
  exact ⟨Nat.le_max_right .., rfl⟩

/-! ### Loss, removal and moves (R204, R205, R130) -/

theorem exec_lossDelayExpiry {s : State} {brick : Nat} {b : BrickRec} (hb : s.brick brick = some b) (hst : b.st = .suspect)
    (hrem : b.removal = none) (hlate : b.suspectAt + s.wall.settings.lossDelayS * 1000000000 ≤ s.now) :
    exec (.lossDelayExpiry brick) s = .next (s.proposeBrick b .lost).lead_ := by
  have hcond : (b.st = .suspect && s.since b.suspectAt (sec s.wall.settings.lossDelayS)) = true := by
    rw [(State.since_sec s b.suspectAt _).mpr hlate, hst]
    rfl
  have : exec (.lossDelayExpiry brick) s = execLossDelayExpiry brick s := rfl
  rw [this, execLossDelayExpiry, hb]
  dsimp only
  rw [hrem]
  dsimp only
  rw [if_pos hcond]

/-- A MEMBER's notice is entered as LEAVING (R205). -/
theorem State.doRemoveNotice_leaves {s : State} {src : Nat} {k : RemoveKind} {b : BrickRec} (hrole : s.wall.arm.role = .leader)
    (hb : s.brick src = some b) (hst : b.st = .member) (hk : k ≠ .cancel) :
    Sys2Proof.logged (s.doRemoveNotice src k) (.brick b.id .leaving b.enclosure b.rack b.serial) := by
  have heq : s.doRemoveNotice src k = ((s.modBrick src (fun b => { b with removal := some k })).proposeBrick b .leaving).lead_ := by
    unfold State.doRemoveNotice
    rw [hb]
    cases k
    case cancel => exact absurd rfl hk
    all_goals exact if_pos hst
  rw [heq]
  exact State.lead_logged hrole

theorem State.startMoves_map (s : State) (w : Wy) : (s.startMoves w).store.map = s.store.map := by
  unfold State.startMoves
  dsimp only
  refine foldl_proj (fun s => s.store.map) ?_ s
  exact fun _ _ _ => rfl

/-- A partition is fenced at the end of its move, and further moves follow. -/
def State.gaveAway (s : State) (w : Wy) (p b : Nat) : State :=
  let s2 := (s.modPart p (fun y => { y with fenced := true })).sendAway w p b 0
  if s2.movesAway w then s2.startMoves w else s2

theorem State.gaveAway_map (s : State) (w : Wy) (p b : Nat) : (s.gaveAway w p b).store.map = s.store.map := by
  have h : ((s.modPart p (fun y => { y with fenced := true })).sendAway w p b 0).store.map = s.store.map := by
    rw [State.sendAway_keeps.store_eq (by decide)]
    rfl
  unfold State.gaveAway
  dsimp only
  split
  · rw [State.startMoves_map, h]
  · exact h

theorem State.gaveAway_out {s : State} {w : Wy} {p b : Nat} {o : Output} (h : o ∈ s.out) : o ∈ (s.gaveAway w p b).out := by
  have h2 := (State.sendAway_keeps (s := s.modPart p (fun y => { y with fenced := true })) (w := w) (p := p) (home := b) (cflags := 0)).mem_out
    (State.modPart_keeps.mem_out h)
  unfold State.gaveAway
  dsimp only
  split
  · exact State.startMoves_keeps.mem_out h2
  · exact h2

/-- A partition's move may end: it is moving, and no commit of it is left. -/
def State.mayEnd (s : State) (p : Nat) (x : PartSt) : Bool :=
  x.moving && !x.fenced && (s.wy (s.holder p)).relief.commits.all (fun k => k.part ≠ p)

theorem State.endMove_of_mayEnd {s : State} {p b : Nat} {x : PartSt} (hx : s.partSt p = some x) (hto : x.moveTo = some b)
    (hend : s.mayEnd p x = true) :
    s.endMove p = (s.toPart (s.holder p) b p (.partHandover p x.epoch (s.wy (s.holder p)).clk.hlc x.closed)).gaveAway (s.holder p) p b := by
  have hgo : ¬ (!x.moving || x.fenced || (s.wy (s.holder p)).relief.commits.any (fun k => k.part = p)) = true := by
    simp only [State.mayEnd, Bool.and_eq_true, List.all_eq_true] at hend
    simpa using hend
  unfold State.endMove
  rw [hx]
  dsimp only
  rw [if_neg hgo, hto]
  rfl

/-- The end of a move leaves the map. -/
theorem State.endMove_map (s : State) (p : Nat) : (s.endMove p).store.map = s.store.map := by
  unfold State.endMove
  cases s.partSt p with
  | none => rfl
  | some x =>
    dsimp only
    split
    · rfl
    · cases x.moveTo with
      | none => exact State.gaveAway_map ..
      | some b => exact (State.gaveAway_map ..).trans (congrArg Store.map (State.toPart_keeps.store_eq (by decide)))

theorem exec_plannedMoveEnd {s : State} {p : Nat} {e : PartEntry} (hrole : s.wall.arm.role = .leader) (he : s.partEntry p = some e)
    (hmoving : e.moving = true) :
    ∃ a b c, exec (.plannedMoveEnd p) s = .next ((s.endMove p).propose (.partition p a b c false)).lead_ := by
  have hrole1 : (s.endMove p).wall.arm.role = .leader := by rw [State.endMove_keeps.wall_eq (by decide), hrole]
  have he1 : (s.endMove p).partEntry p = some e := by rw [State.partEntry, State.endMove_map, ← he, State.partEntry]
  have : exec (.plannedMoveEnd p) s = execPlannedMoveEnd p s := rfl
  rw [this, execPlannedMoveEnd]
  dsimp only
  rw [if_neg (by rw [hrole1]; decide), he1]
  dsimp only
  rw [hmoving, Bool.true_or, if_pos rfl]
  exact ⟨_, _, _, rfl⟩

/-- The old home of a partition with no commit left passes its clock and closed time on (R130). -/
theorem State.endMove_hands {s : State} {p b : Nat} {x : PartSt} (hup : s.holdup = none) (hx : s.partSt p = some x) (hmoving : x.moving = true)
    (hfenced : x.fenced = false) (hto : x.moveTo = some b) (hidle : ∀ k ∈ (s.wy (s.holder p)).relief.commits, k.part ≠ p) :
    .mortar (s.holder p) b (wyOfPart p) (.partHandover p x.epoch (s.wy (s.holder p)).clk.hlc x.closed) ∈ (s.endMove p).out := by
  rw [State.endMove_of_mayEnd hx hto (by simpa [State.mayEnd, hmoving, hfenced] using hidle)]
  exact State.gaveAway_out (State.mortarOut_sends hup)

end Sys2Proof.Machine

namespace Sys2Proof

open Sys2Proof.Machine

/-- Settles O20: a message changes the flows alone, so the count of heartbeats, the records of the bricks and the map stay as they are noted. -/
theorem membershipIsKept : Obligations.MembershipIsKept := by
  intro w h s hup
  have hw := State.seeHlc_wall s w h.hlc
  refine ⟨fun hrun hin hstop => ?_, fun b x hrun hrole hx => ?_, fun r y hrun hmem hhb hyw hseq harm => ?_,
    fun brick b hb hst hrem hlate hrole => ?_, fun k b hrun hrole hb hst hk => ?_, fun p e hrole he hmoving => ?_,
    fun p b x hrole hx hmoving hfenced hto hidle => ?_, fun hslave => ?_⟩
  · exact runs_intro (congrArg Host.Outcome.next (if_neg (by simp [hstop]))) (State.sendHb_sends hup hrun hin)
  · refine runs_intro (next_mortarAny hrun hup) ?_
    have := State.doHeartbeat_notes (s := s.seeHlc w h.hlc) (w := w) (b := b) ((State.seeHlc_holdup ..).trans hup) (by rw [hw]; exact hrole)
      (by rw [State.brick, hw]; exact hx)
    rwa [State.seeHlc_now] at this
  · exact runs_intro (next_mortarAny hrun hup)
      (State.doHeartbeatReply_renews hmem (by rw [hw]; exact hhb) hyw hseq (by rw [hw]; exact harm))
  · exact runs_intro (exec_lossDelayExpiry hb hst hrem hlate) (State.lead_logged hrole)
  · exact runs_intro (next_mortarAny hrun hup)
      (State.doRemoveNotice_leaves (by rw [hw]; exact hrole) (by rw [State.brick, hw]; exact hb) hst hk)
  · obtain ⟨a, b, c, hexec⟩ := exec_plannedMoveEnd hrole he hmoving
    refine runs_intro hexec ⟨a, b, c, State.lead_logged ?_⟩
    rw [State.endMove_keeps.wall_eq (by decide), hrole]
  · refine runs_intro (if_pos ?_) (State.endMove_hands hup hx hmoving hfenced hto hidle)
    rw [State.endMove_keeps.wall_eq (by decide)]
    simpa using hrole
  · refine runs_intro (congrArg Host.Outcome.next (if_pos hslave)) ?_
    rw [State.modMortar_wy]
    exact ⟨rfl, rfl⟩

end Sys2Proof
end

section
/-! PROOFS. Casts at the armature's leader (R78, R123-R126). -/

namespace Sys2Proof.Machine

theorem State.mortarIn_of_hears {s : State} {w : Wy} {h : MHead} {i : Instr} {handle : State → State} (hears : s.hears w = true)
    (hepoch : h.epoch = s.wall.epoch) : s.mortarIn w h i handle = handle (s.seeHlc w h.hlc) := by
  unfold State.mortarIn
  dsimp only
  rw [if_neg (by simp [hears]), if_pos (by rw [State.seeHlc_wall, hepoch])]

/-! ### Numbers of casts (R123) -/

theorem le_foldl_max {α : Type} (f : α → Nat) (l : List α) (n : Nat) :
    n ≤ l.foldl (fun a c => max a (f c)) n ∧ ∀ c ∈ l, f c ≤ l.foldl (fun a c => max a (f c)) n := by
  induction l generalizing n with
  | nil => simp
  | cons c l ih =>
    obtain ⟨hn, hl⟩ := ih (max n (f c))
    exact ⟨(Nat.le_max_left ..).trans hn, List.forall_mem_cons.mpr ⟨(Nat.le_max_right ..).trans hn, hl⟩⟩

theorem State.nextCastId_above (s : State) : s.wall.nextCast ≤ s.nextCastId ∧ ∀ c ∈ s.castsToCome, c.1 < s.nextCastId :=
  le_foldl_max (fun c : Nat × BitVec 32 × BitVec 64 => c.1 + 1) s.castsToCome s.wall.nextCast

/-! ### What is asked of the leader (R124) -/

/-- The leader notes what is asked of it. -/
def State.noteAsk (s : State) (a : CastAsk) : State :=
  s.modWall (fun x => { x with asks := x.asks.filter (fun y => ¬ (y.keyspace = a.keyspace ∧ y.requestId = a.requestId)) ++ [a] })

theorem State.castAsked_of_leader {s : State} {a : CastAsk} (hrole : s.wall.arm.role = .leader) :
    s.castAsked a = ((s.noteAsk a).takeAsk a).lead_ := by
  unfold State.castAsked
  extract_lets known s1
  have hs1 : s1 = s.noteAsk a := if_neg (by simp [hrole])
  rw [hs1, if_pos hrole]

theorem State.noteAsk_askRunning (s : State) (a b : CastAsk) : (s.noteAsk a).askRunning b = s.askRunning b := rfl

theorem State.noteAsk_castsFull (s : State) (a : CastAsk) (ks : BitVec 32) : (s.noteAsk a).castsFull ks = s.castsFull ks := rfl

theorem State.noteAsk_nextCastId (s : State) (a : CastAsk) : (s.noteAsk a).nextCastId = s.nextCastId := rfl

theorem State.askRunning_congr {s t : State} (hwall : t.wall = s.wall) (hstore : t.store = s.store) (a : CastAsk) :
    t.askRunning a = s.askRunning a := by
  simp only [State.askRunning, State.castsOf, State.uncommitted, hwall, hstore]

theorem State.castsFull_congr {s t : State} (hwall : t.wall = s.wall) (hstore : t.store = s.store) (ks : BitVec 32) :
    t.castsFull ks = s.castsFull ks := by
  unfold State.castsFull State.castsOf State.castsToCome State.uncommitted
  rw [hwall, hstore]

/-- No outcome of a request is recorded. -/
def State.unanswered (s : State) (a : CastAsk) : Prop := ∀ o ∈ s.store.armOutcomes, ¬ (o.keyspace = a.keyspace ∧ o.requestId = a.requestId)

theorem State.armOutcomes_find_none {s : State} {a : CastAsk} (h : s.unanswered a) :
    s.store.armOutcomes.find? (fun o => o.keyspace = a.keyspace && o.requestId = a.requestId) = none :=
  List.find?_eq_none.mpr fun o ho => by simpa using h o ho

/-- A new request enters a cast at the next number (R123). -/
theorem State.takeAsk_enters {s : State} {a : CastAsk} (hout : s.unanswered a) (hrun : s.askRunning a = false) (hdrop : a.drop = none)
    (hnew : ∀ c ∈ s.store.casts, c.requestId ≠ a.requestId) (hfull : s.castsFull a.keyspace = false) :
    s.takeAsk a = s.propose (.castNew s.nextCastId a.keyspace a.time a.brick a.requestId) := by
  have hfind : (s.castsOf a.keyspace).find? (fun c => c.requestId = a.requestId) = none :=
    List.find?_eq_none.mpr fun c hc => by simpa using hnew c (List.mem_filter.mp hc).1
  unfold State.takeAsk
  rw [State.armOutcomes_find_none hout]
  dsimp only
  rw [if_neg (by simp [hrun]), hdrop]
  dsimp only
  rw [hfind]
  dsimp only
  rw [if_neg (by simp [hfull])]

/-- A drop of a READY cast takes it away (R78). -/
theorem State.takeAsk_drops {s : State} {a : CastAsk} {id : Nat} (hout : s.unanswered a) (hrun : s.askRunning a = false)
    (hdrop : a.drop = some id) (hready : ∃ c ∈ s.store.casts, c.id = id ∧ c.keyspace = a.keyspace ∧ c.ready = true) :
    s.takeAsk a = (s.propose (.castGone id)).propose (.castOutcome a.keyspace a.requestId .ok 0 0 .none) := by
  unfold State.takeAsk
  rw [State.armOutcomes_find_none hout]
  dsimp only
  rw [if_neg (by simp [hrun]), hdrop]
  dsimp only
  exact if_pos (by simpa [and_assoc] using hready)

/-! ### Confirmations, readiness and expiry (R124, R126) -/

theorem State.doCastConfirm_counts {s : State} {src id : Nat} {c : Cast} (hrole : s.wall.arm.role = .leader) (hc : c ∈ s.store.casts)
    (hid : c.id = id) (hready : c.ready = false) (hone : ∀ d ∈ s.store.casts, d.id = id → d = c) :
    ∃ d ∈ (s.doCastConfirm src id true).store.casts, d.id = id ∧ src ∈ d.confirms := by
  have hfind : s.store.casts.find? (fun c => c.id = id && !c.ready) = some c := by
    cases hf : s.store.casts.find? (fun c => c.id = id && !c.ready) with
    | none => exact absurd (List.find?_eq_none.mp hf c hc) (by simp [hid, hready])
    | some d =>
      have hd := List.find?_some hf
      simp only [Bool.and_eq_true, decide_eq_true_eq] at hd
      rw [hone d (List.mem_of_find?_eq_some hf) hd.1]
  unfold State.doCastConfirm
  rw [hfind]
  dsimp only
  rw [if_neg (by simp [hrole]), if_neg (by decide)]
  obtain ⟨d, -, hdid, hd⟩ := exists_mem_updFirst (p := fun x : Cast => decide (x.id = id))
    (f := fun x => { x with confirms := if x.confirms.contains src then x.confirms else x.confirms ++ [src] }) hc (by simpa using hid)
  refine ⟨_, hd, by simpa using hdid, ?_⟩
  dsimp only
  split
  · rename_i hin
    simpa using hin
  · simp

theorem exec_castReady {s : State} {id : Nat} {c : Cast} (hrole : s.wall.arm.role = .leader)
    (hc : s.store.casts.find? (fun c => c.id = id && !c.ready) = some c) (hall : ∀ b ∈ s.homeBricks, b ∈ c.confirms)
    (htime : c.time ≤ s.wallClosedNow) :
    exec (.castReady id) s
      = .next ((s.propose (.castReady id)).propose (.castOutcome c.keyspace c.requestId .ok c.time id .none)).lead_ := by
  have : exec (.castReady id) s = execCastReady id s := rfl
  rw [this, execCastReady, hc]
  exact if_pos (by simpa [hrole, htime] using hall)

theorem exec_castExpiry {s : State} {id end_ : Nat} {c : Cast} (hrole : s.wall.arm.role = .leader)
    (hc : s.store.casts.find? (fun c => c.id = id && c.ready) = some c) (hend : c.expiry = some end_) (hlate : end_ ≤ s.hybrid .w0)
    (hship : s.shipping id = false) : exec (.castExpiry id) s = .next (s.propose (.castGone id)).lead_ := by
  have : exec (.castExpiry id) s = execCastExpiry id s := rfl
  rw [this, execCastExpiry, hc]
  exact congrArg Host.Outcome.next (if_pos (by simp [hrole, hend, hlate, hship]))

end Sys2Proof.Machine

namespace Sys2Proof

open Sys2Proof.Machine

/-- Settles O21: the leader's proposals stand in its log, and nothing of what was asked has been answered or is on its way before. -/
theorem castRegistryActs : Obligations.CastRegistryActs := by
  intro w h s hrole
  have hw := State.seeHlc_wall s w h.hlc
  have hs := State.seeHlc_store s w h.hlc
  have hrole1 : (s.seeHlc w h.hlc).wall.arm.role = .leader := by rw [hw, hrole]
  refine ⟨fun ks at_ rid hears hepoch hout hnew hrun hfull => ?_, fun id c hears hepoch hc hid hready hone => ?_,
    fun id c hc hall htime => ?_, fun id c end_ hc hend hlate hship => ?_, fun id ks rid hears hepoch hout hrun hready => ?_⟩
  · refine runs_intro (congrArg Host.Outcome.next (State.mortarIn_of_hears hears hepoch)) ?_
    let a : CastAsk := { keyspace := ks, requestId := rid, brick := h.src, wythe := h.srcW, time := at_, drop := none }
    have hnext : (s.seeHlc w h.hlc).nextCastId = s.nextCastId := by
      simp only [State.nextCastId, State.castsToCome, State.uncommitted, hw]
    have htake := State.takeAsk_enters (s := (s.seeHlc w h.hlc).noteAsk a) (a := a) (fun o ho => hout o (hs ▸ ho))
      ((State.askRunning_congr hw hs a).trans hrun) rfl (fun c hc => hnew c (hs ▸ hc))
      ((State.castsFull_congr hw hs ks).trans hfull)
    have heq : (s.seeHlc w h.hlc).doCastRequest h ks at_ rid
        = (((s.seeHlc w h.hlc).noteAsk a).propose (.castNew s.nextCastId ks at_ h.src rid)).lead_ := by
      rw [← hnext, ← State.noteAsk_nextCastId _ a, State.doCastRequest, State.castAsked_of_leader hrole1, htake]
    rw [heq]
    exact ⟨State.lead_logged hrole1, State.nextCastId_above s⟩
  · refine runs_intro (congrArg Host.Outcome.next (State.mortarIn_of_hears hears hepoch)) ?_
    exact State.doCastConfirm_counts hrole1 (hs ▸ hc) hid hready (fun d hd => hone d (hs ▸ hd))
  · exact runs_intro (exec_castReady hrole hc hall htime) (State.lead_logged_both hrole)
  · exact runs_intro (exec_castExpiry hrole hc hend hlate hship) (State.lead_logged hrole)
  · refine runs_intro (congrArg Host.Outcome.next (State.mortarIn_of_hears hears hepoch)) ?_
    let a : CastAsk := { keyspace := ks, requestId := rid, brick := h.src, wythe := h.srcW, time := 0, drop := some id }
    have htake := State.takeAsk_drops (s := (s.seeHlc w h.hlc).noteAsk a) (a := a) (id := id) (fun o ho => hout o (hs ▸ ho))
      ((State.askRunning_congr hw hs a).trans hrun) rfl (by rw [← hs] at hready; exact hready)
    have heq : (s.seeHlc w h.hlc).doCastDropReq h id ks rid
        = ((((s.seeHlc w h.hlc).noteAsk a).propose (.castGone id)).propose (.castOutcome ks rid .ok 0 0 .none)).lead_ := by
      rw [State.doCastDropReq, State.castAsked_of_leader hrole1, htake]
    rw [heq]
    exact State.lead_logged_both hrole1

end Sys2Proof
end

section
/-! PROOFS. The messages of partitions, casts at a home, and a sweep (R116, R120, R124, R128-R130, R264). -/

namespace Sys2Proof.Machine

/-! ### What a message's clock leaves -/

theorem State.seeHlc_out (s : State) (w : Wy) (r : Nat) : (s.seeHlc w r).out = s.out := by cases w <;> rfl

theorem State.seeHlc_relief (s : State) (w : Wy) (r : Nat) (v : Wy) : ((s.seeHlc w r).wy v).relief = (s.wy v).relief := by
  cases w <;> cases v <;> rfl

theorem State.seeHlc_holder (s : State) (w : Wy) (r p : Nat) : (s.seeHlc w r).holder p = s.holder p := by cases w <;> rfl

theorem State.seeHlc_canPlace (s : State) (w : Wy) (r : Nat) (v : Wy) : (s.seeHlc w r).canPlace v = s.canPlace v := by
  cases w <;> cases v <;> rfl

theorem State.seeHlc_memberEpoch (s : State) (w : Wy) (r p : Nat) : (s.seeHlc w r).memberEpoch p = s.memberEpoch p := by
  cases w <;> rfl

theorem State.seeHlc_partEntry (s : State) (w : Wy) (r p : Nat) : (s.seeHlc w r).partEntry p = s.partEntry p := by cases w <;> rfl

theorem State.seeHlc_partSt (s : State) (w : Wy) (r p : Nat) : (s.seeHlc w r).partSt p = s.partSt p := by cases w <;> rfl

/-! ### A record at a member of the replica set (R20, R116, R128) -/

/-- The record as the member keeps it. -/
def keptRec (p epoch src : Nat) (r : IdxRec) : ReplRec := { p := p, epoch := epoch, home := src, content := r }

/-- The store with a record in place of one of the same content. -/
def State.keepRec (s : State) (p epoch src : Nat) (r : IdxRec) : State :=
  s.modStore (fun t => { t with replRecs := t.replRecs.filter (fun x => ¬ (x.p = p ∧ x.content = r)) ++ [keptRec p epoch src r] })

theorem State.keepRec_holds (s : State) (p epoch src : Nat) (r : IdxRec) : keptRec p epoch src r ∈ (s.keepRec p epoch src r).store.replRecs :=
  List.mem_append_right _ (List.mem_singleton.mpr rfl)

theorem State.mem_noteClosed (s : State) (p closed : Nat) :
    (tableGet? (s.noteClosed p closed).store.standbyClosed p).getD 0 = max closed ((tableGet? s.store.standbyClosed p).getD 0) := by
  have : (s.noteClosed p closed).store.standbyClosed
      = tablePut s.store.standbyClosed p (max closed ((tableGet? s.store.standbyClosed p).getD 0)) := rfl
  rw [this, tableGet_put]
  rfl

/-- A record that can be placed is acknowledged (R20). -/
theorem State.storeRec_places {s : State} {p epoch src : Nat} {r : IdxRec} {b : Nat} {bw : Wy} (hup : s.holdup = none)
    (hplace : s.canPlace (s.holder p) = true) :
    .mortar (s.holder p) b bw (.indexAck p epoch r.version true) ∈ (s.storeRec p epoch src r (some (b, bw))).out
      ∧ keptRec p epoch src r ∈ (s.storeRec p epoch src r (some (b, bw))).store.replRecs := by
  have heq : s.storeRec p epoch src r (some (b, bw))
        = (s.keepRec p epoch src r).mortarOut (s.holder p) b bw (.indexAck p epoch r.version true)
      ∨ s.storeRec p epoch src r (some (b, bw))
        = ((s.keepRec p epoch src r).mirrored (s.holder p)).mortarOut (s.holder p) b bw (.indexAck p epoch r.version true) := by
    unfold State.storeRec
    dsimp only
    split
    · exact .inl rfl
    · exact .inr (if_pos hplace)
  rcases heq with heq | heq
  · rw [heq, State.mortarOut_keeps.store_eq (by decide)]
    exact ⟨State.mortarOut_sends hup, s.keepRec_holds ..⟩
  · rw [heq, State.mortarOut_keeps.store_eq (by decide), State.mirrored_keeps.store_eq (by decide)]
    exact ⟨State.mortarOut_sends ((State.mirrored_keeps.holdup_eq (by decide)).trans hup), s.keepRec_holds ..⟩

/-- A new record that cannot be placed yet waits for its mirror (R20). -/
theorem State.storeRec_waits {s : State} {p epoch src : Nat} {r : IdxRec} {ackTo : Option (Nat × Wy)}
    (hplace : s.canPlace (s.holder p) = false) (hnew : ∀ x ∈ s.store.replRecs, x.p = p → x.content ≠ r) :
    (s.storeRec p epoch src r ackTo).out = s.out ∧ (s.holder p, .index p epoch r ackTo) ∈ (s.storeRec p epoch src r ackTo).store.unplaced
      ∧ keptRec p epoch src r ∈ (s.storeRec p epoch src r ackTo).store.replRecs := by
  have hheld : ¬ (s.store.replRecs.any (fun x => x.p = p && x.content = r) && !s.indexWaits p r) = true := by
    have : s.store.replRecs.any (fun x => x.p = p && x.content = r) = false := by simpa using hnew
    rw [this, Bool.false_and]
    decide
  have heq : s.storeRec p epoch src r ackTo = (s.keepRec p epoch src r).place (s.holder p) (.index p epoch r ackTo) := if_neg hheld
  have hplace1 : ¬ (s.keepRec p epoch src r).canPlace (s.holder p) = true := by
    have : (s.keepRec p epoch src r).canPlace (s.holder p) = s.canPlace (s.holder p) := rfl
    rw [this, hplace]
    decide
  rw [heq, State.place, if_neg hplace1]
  split
  · rename_i hin
    exact ⟨rfl, by simpa using hin, s.keepRec_holds ..⟩
  · exact ⟨rfl, List.mem_append_right _ (List.mem_singleton.mpr rfl), s.keepRec_holds ..⟩

theorem State.doIndexPut_of_current {s : State} {w : Wy} {h : MHead} {p epoch closed : Nat} {r : IdxRec} (hepoch : s.memberEpoch p ≤ epoch) :
    s.doIndexPut w h p epoch closed r = (s.storeRec p epoch h.src r (some (h.src, h.srcW))).noteClosed p closed :=
  if_neg (Nat.not_lt.mpr hepoch)

/-! ### Acknowledgements at the home (R116, R128) -/

/-- A commit of several segments is not placed with the first acknowledgement of one standby. -/
theorem State.placedAll_of_first {s : State} {k : Commit} {e : PartEntry} {src : Nat} (he : s.partEntry k.part = some e)
    (hacks : k.acks = [(src, 1)]) (hseg : 2 ≤ k.segments) : s.placedAll k = false := by
  have hstand : s.standbys k.part = [e.standby1, e.standby2] := by
    unfold State.standbys
    rw [he]
  unfold State.placedAll
  rw [hstand, hacks]
  have : ¬ k.segments ≤ 1 := by omega
  simp [this]

theorem State.settleCommits_of_unplaced {s : State} {w : Wy} {k : Commit} (hk : (s.wy w).relief.commits = [k]) (hno : s.placedAll k = false) :
    s.settleCommits w = s := by
  have hstep : s.settleCommit w = s := by
    unfold State.settleCommit
    dsimp only
    rw [hk]
    simp [hno]
  unfold State.settleCommits
  rw [hk]
  exact hstep

theorem State.doIndexAck_counts {s : State} {w : Wy} {src p epoch version : Nat} {k : Commit} {e : PartEntry} (he : s.partEntry p = some e)
    (hepoch : e.epoch = epoch) (hacks : k.acks = []) (hk : (s.wy w).relief.commits = [k]) (hpart : k.part = p) (hver : k.version = version)
    (hseg : 2 ≤ k.segments) : ((s.doIndexAck w src p epoch version true).wy w).relief.commits = [{ k with acks := [(src, 1)] }] := by
  have hfind : (s.wy w).relief.commits.find? (fun k => k.part = p && k.version = version && !k.acks.any (fun a => a.1 = src && k.segments ≤ a.2))
      = some k := by
    rw [hk]
    simp [hpart, hver, hacks]
  have hcur : ¬ epoch ≠ ((s.partEntry p).map (fun e => e.epoch)).getD 0 := by
    rw [he]
    simpa using hepoch.symm
  let s1 := s.modRelief w (fun r => { r with commits := updFirst (fun x => x = k) (fun _ => { k with acks := bumpAck k.acks src }) r.commits })
  have heq : s.doIndexAck w src p epoch version true = s1.settleCommits w := by
    unfold State.doIndexAck
    dsimp only
    rw [if_neg (by decide), if_neg hcur, hfind]
  have hk1 : (s1.wy w).relief.commits = [{ k with acks := [(src, 1)] }] := by
    rw [State.modRelief_wy]
    dsimp only
    rw [hk, hacks]
    simp [updFirst, bumpAck, upsert]
  have he1 : s1.partEntry p = some e := by
    rw [← he, State.partEntry, State.modRelief_store, State.partEntry]
  rw [heq, State.settleCommits_of_unplaced hk1 (State.placedAll_of_first (e := e) (by rw [← he1, ← hpart]) rfl hseg)]
  exact hk1

theorem State.modPart_partSt {s : State} {p : Nat} {x : PartSt} {f : PartSt → PartSt} (hf : ∀ y, (f y).p = y.p) (hx : s.partSt p = some x) :
    (s.modPart p f).partSt p = some (f x) := by
  refine (find?_updFirst (fun y hy => ?_) s.store.parts).trans (congrArg (Option.map f) hx)
  rw [hf]
  exact hy

/-- A refusal for its epoch fences the partition (R128). -/
theorem State.fence_fences {s : State} {w : Wy} {p : Nat} {x : PartSt} (hx : s.partSt p = some x) :
    (s.fence w p).partSt p = some { x with fenced := true } := by
  unfold State.fence
  extract_lets s1 gone s2
  have hx2 : s2.partSt p = some { x with fenced := true } := by
    rw [State.partSt, State.modRelief_store]
    exact State.modPart_partSt (f := fun x => { x with fenced := true }) (fun _ => rfl) hx
  rw [← hx2]
  refine congrArg (fun st : Store => st.parts.find? (fun x => x.p = p)) (foldl_proj (fun s => s.store) (fun t k _ => ?_) s2)
  split
  · exact State.finish_keeps.store_eq (by decide)
  · rfl

/-! ### Take-overs and moves (R129, R130) -/

theorem State.doPartRecords_collects {s : State} {src p closed b : Nat} {recs : List IdxRec} {x : PartSt} (hx : s.partSt p = some x)
    (hclosed : x.opened = false) (hsrc : src ∈ x.collect) (hb : b ∈ x.collect.erase src) (hmem : s.isMember b = true) :
    ∃ y, (s.doPartRecords src p closed recs).partSt p = some y ∧ y.collected = x.collected ++ recs ∧ y.closed = max x.closed closed := by
  have hleft : (x.collect.erase src).filter (fun b => s.isMember b) ≠ [] := fun h => by
    have : b ∈ (x.collect.erase src).filter (fun b => s.isMember b) := List.mem_filter.mpr ⟨hb, hmem⟩
    rw [h] at this
    exact nomatch this
  unfold State.doPartRecords
  rw [hx]
  dsimp only
  rw [if_neg (by rw [hclosed]; decide), if_neg (by simpa using hsrc), if_neg hleft]
  refine ⟨_, State.modPart_partSt (fun _ => rfl) hx, rfl, rfl⟩

/-! ### Casts (R124) -/

theorem State.doCastAnnounce_holds {s : State} {w : Wy} {h : MHead} {id at_ : Nat} {ks : BitVec 32} (hup : s.holdup = none)
    (hfree : ∀ x ∈ s.store.parts, s.horizonAt ks x.p ≤ at_) :
    (id, ks, at_) ∈ (s.doCastAnnounce w h id ks at_).store.holds
      ∧ .mortar w h.src h.srcW (.castConfirm id true) ∈ (s.doCastAnnounce w h id ks at_).out := by
  have hpassed : s.store.parts.any (fun x => at_ < s.horizonAt ks x.p) = false := by simpa using hfree
  unfold State.doCastAnnounce
  dsimp only
  rw [hpassed, if_neg (by decide), State.mortarOut_keeps.store_eq (by decide)]
  exact ⟨List.mem_append_right _ (List.mem_singleton.mpr rfl), State.mortarOut_sends hup⟩

/-- The command that waits longest is answered (log 227). -/
theorem find?_earliest {l : List (Wy × Cmd)} {x : Wy × Cmd} (hx : x ∈ l) (hfirst : ∀ y ∈ l, x.2.arrived < y.2.arrived ∨ y = x) :
    l.find? (fun x => l.all (fun y => x.2.arrived ≤ y.2.arrived)) = some x := by
  have hall : l.all (fun y => x.2.arrived ≤ y.2.arrived) = true := by
    refine List.all_eq_true.mpr fun y hy => ?_
    rcases hfirst y hy with h | rfl
    · simpa using h.le
    · simp
  cases hf : l.find? (fun x => l.all (fun y => x.2.arrived ≤ y.2.arrived)) with
  | none => exact absurd hall (List.find?_eq_none.mp hf x hx)
  | some y =>
    rcases hfirst y (List.mem_of_find?_eq_some hf) with h | rfl
    · have hy := List.find?_some (p := fun x : Wy × Cmd => l.all (fun y => x.2.arrived ≤ y.2.arrived)) hf
      have := of_decide_eq_true (List.all_eq_true.mp hy x hx)
      omega
    · rfl

theorem State.endCast_answers {s : State} {v : Wy} {id at_ : Nat} {c : Cmd} (h : Sends s v c.q) (hsup : c.suppressed = false)
    (hop : c.op = .cast) : .toClient v c.q (completionOf c .ok .none 0 at_ id) ∈ (s.endCast v c id .ok at_).out := by
  have hok : (decide (Status.ok = .ok) && decide (c.op = .cast)) = true := by rw [hop]; rfl
  unfold State.endCast
  dsimp only
  rw [if_pos hok, if_pos hok, if_neg (by decide)]
  generalize hs1 : s.modStore _ = s1
  have h1 : Sends s1 v c.q := by
    rw [← hs1]
    exact ⟨h.up, h.queue⟩
  exact State.finish_answers h1 hsup .ok .none 0 at_ id

theorem State.doCastDone_answers {s : State} {v : Wy} {id at_ : Nat} {c : Cmd} (h : Sends s v c.q) (hc : c ∈ (s.wy v).relief.cmds)
    (hphase : c.phase = .armature) (hop : c.op = .cast) (hsup : c.suppressed = false)
    (hfirst : ∀ (u : Wy) (d : Cmd), d ∈ (s.wy u).relief.cmds → d.phase = .armature → d.cap.requestId = c.cap.requestId →
      c.arrived < d.arrived ∨ u = v ∧ d = c) :
    .toClient v c.q (completionOf c .ok .none 0 at_ id) ∈ (s.doCastDone id .ok at_ c.cap.requestId).out := by
  let mine := fun d : Cmd => decide (d.phase = .armature) && decide (d.cap.requestId = c.cap.requestId)
  let both := wythes.flatMap (fun w => ((s.wy w).relief.cmds.filter mine).map (fun c => (w, c)))
  have hin : (v, c) ∈ both := by
    refine List.mem_flatMap.mpr ⟨v, mem_wythes v, List.mem_map.mpr ⟨c, List.mem_filter.mpr ⟨hc, ?_⟩, rfl⟩⟩
    simp [mine, hphase]
  have hfind : both.find? (fun x => both.all (fun y => x.2.arrived ≤ y.2.arrived)) = some (v, c) := by
    refine find?_earliest hin fun y hy => ?_
    obtain ⟨u, -, hy⟩ := List.mem_flatMap.mp hy
    obtain ⟨d, hd, rfl⟩ := List.mem_map.mp hy
    obtain ⟨hd, hm⟩ := List.mem_filter.mp hd
    simp only [mine, Bool.and_eq_true, decide_eq_true_eq] at hm
    rcases hfirst u d hd hm.1 hm.2 with h | ⟨rfl, rfl⟩
    · exact .inl h
    · exact .inr rfl
  have heq : s.doCastDone id .ok at_ c.cap.requestId = s.endCast v c id .ok at_ := by
    unfold State.doCastDone
    dsimp only
    rw [hfind]
  rw [heq]
  exact State.endCast_answers h hsup hop

end Sys2Proof.Machine

namespace Sys2Proof

open Sys2Proof.Machine

/-- Settles O15: with two standbys a commit of several segments waits for more than one acknowledgement, and the window decides what is
acknowledged at once. -/
theorem partitionMessagesAct : Obligations.PartitionMessagesAct := by
  intro w h p epoch closed s hears hepoch
  have hup : (s.seeHlc w h.hlc).holdup = none := (State.seeHlc_holdup ..).trans (State.holdup_of_hears hears)
  have hs := State.seeHlc_store s w h.hlc
  have hholder := State.seeHlc_holder s w h.hlc p
  have hcur := State.seeHlc_memberEpoch s w h.hlc p
  refine ⟨fun r hold => ⟨fun hplace => ?_, fun hplace hnew => ?_⟩, fun version k e he hep hacks hk hpart hver hseg => ?_,
    fun version x hx => ?_, fun hold => ?_, ?_, fun recs x b hx hopen hsrc hb hmem => ?_, fun x hlc hx => ?_⟩
  · refine runs_intro (congrArg Host.Outcome.next (State.mortarIn_of_hears hears hepoch)) ?_
    rw [State.doIndexPut_of_current (by rw [hcur]; exact hold)]
    obtain ⟨hack, hkept⟩ := State.storeRec_places (s := s.seeHlc w h.hlc) (p := p) (epoch := epoch) (src := h.src) (r := r) (b := h.src)
      (bw := h.srcW) hup (by rw [hholder, State.seeHlc_canPlace]; exact hplace)
    rw [hholder] at hack
    refine ⟨hack, ⟨_, hkept, rfl, rfl, rfl⟩, ?_⟩
    rw [State.mem_noteClosed]
    exact Nat.le_max_left ..
  · refine runs_intro (congrArg Host.Outcome.next (State.mortarIn_of_hears hears hepoch)) ?_
    rw [State.doIndexPut_of_current (by rw [hcur]; exact hold)]
    obtain ⟨hout, hwaits, hkept⟩ := State.storeRec_waits (s := s.seeHlc w h.hlc) (p := p) (epoch := epoch) (src := h.src) (r := r)
      (ackTo := some (h.src, h.srcW)) (by rw [hholder, State.seeHlc_canPlace]; exact hplace) (by rw [hs]; exact hnew)
    rw [hholder] at hwaits
    exact ⟨hout.trans (State.seeHlc_out ..), hwaits, _, hkept, rfl, rfl, rfl⟩
  · refine runs_intro (congrArg Host.Outcome.next (State.mortarIn_of_hears hears hepoch)) ?_
    exact State.doIndexAck_counts ((State.seeHlc_partEntry ..).trans he) hep hacks (by rw [State.seeHlc_relief]; exact hk) hpart hver hseg
  · refine runs_intro (congrArg Host.Outcome.next (State.mortarIn_of_hears hears hepoch)) ?_
    exact ⟨_, State.fence_fences ((State.seeHlc_partSt ..).trans hx), rfl⟩
  · refine runs_intro (congrArg Host.Outcome.next (State.mortarIn_of_hears hears hepoch)) ?_
    have heq : (s.seeHlc w h.hlc).doClosedTime p epoch closed = (s.seeHlc w h.hlc).noteClosed p closed :=
      if_neg (Nat.not_lt.mpr (by rw [hcur]; exact hold))
    rw [heq, State.mem_noteClosed, hs]
  · refine runs_intro (congrArg Host.Outcome.next (State.mortarIn_of_hears hears hepoch)) ?_
    have hclosedOf : (s.seeHlc w h.hlc).closedOf p = s.closedOf p := by rw [State.closedOf, State.seeHlc_partSt, State.closedOf]
    unfold State.doPartCollect
    dsimp only
    rw [hclosedOf, hs]
    refine ⟨State.mortarOut_sends hup, ?_⟩
    rw [State.memberEpoch, State.mortarOut_keeps.store_eq (by decide), State.modStore_store, tableGet_put]
    exact (Nat.le_max_left ..).trans (Nat.le_max_right ..)
  · refine runs_intro (congrArg Host.Outcome.next (State.mortarIn_of_hears hears hepoch)) ?_
    exact State.doPartRecords_collects ((State.seeHlc_partSt ..).trans hx) hopen hsrc hb (by rw [State.isMember, hs]; exact hmem)
  · refine runs_intro (congrArg Host.Outcome.next (State.mortarIn_of_hears hears hepoch)) ?_
    unfold State.doPartHandover
    dsimp only
    rw [hholder]
    refine ⟨?_, _, State.modPart_partSt (x := x) (fun _ => rfl) ?_, rfl⟩
    · have : (State.modPart (((s.seeHlc w h.hlc).modClk (s.holder p) (fun c => { c with hlc := max c.hlc hlc })).noteClosed p closed) p
          (fun x => { x with closed := max x.closed closed })).wy (s.holder p)
          = ((s.seeHlc w h.hlc).modClk (s.holder p) (fun c => { c with hlc := max c.hlc hlc })).wy (s.holder p) := rfl
      rw [this, State.modClk_wy]
      exact Nat.le_max_right ..
    · rw [← hx, State.partSt, State.partSt, ← hs]
      exact congrArg (fun st : Store => st.parts.find? (fun x => x.p = p)) (State.modClk_store ..)

/-- Settles O16: the earliest of the waiting commands is found, whatever the wythe. -/
theorem castsAtHome : Obligations.CastsAtHome := by
  intro w h s hears hepoch
  have hup : (s.seeHlc w h.hlc).holdup = none := (State.seeHlc_holdup ..).trans (State.holdup_of_hears hears)
  refine ⟨fun id ks at_ hfree => ?_, fun v id at_ c q p g hc hphase hfirst hop hsup hq htr => ?_, fun p hhome => ?_⟩
  · refine runs_intro (congrArg Host.Outcome.next (State.mortarIn_of_hears hears hepoch)) ?_
    have hhor : ∀ p, (s.seeHlc w h.hlc).horizonAt ks p = s.horizonAt ks p := fun p => by cases w <;> rfl
    exact State.doCastAnnounce_holds hup (by rw [State.seeHlc_store]; exact fun x hx => (hhor x.p).symm ▸ hfree x hx)
  · refine runs_intro (congrArg Host.Outcome.next (State.mortarIn_of_hears hears hepoch)) ?_
    have hrel := State.seeHlc_relief s w h.hlc
    exact State.doCastDone_answers ⟨hup, q, p, g, by rw [hrel]; exact hq, htr⟩ (by rw [hrel]; exact hc) hphase hop hsup
      (fun u d hd => hfirst u d (by rw [← hrel]; exact hd))
  · refine runs_intro (congrArg Host.Outcome.next (if_pos hhome)) ?_
    exact tableGet_put ..

end Sys2Proof
end

section
/-! PROOFS. Acknowledgements of Mortar: what waits for nothing at a lead sends nothing (R153, R206-R211). -/

namespace Sys2Proof.Machine

/-! ### Chunks that wait for no credit and no lead (R153) -/

/-- No chunk of a command waits for credit or for its lead. -/
def Cmd.calm (c : Cmd) : Prop := ∀ x ∈ c.wchunks, x.stage ≠ .cut ∧ x.stage ≠ .encrypted

/-- No chunk of a wythe waits for credit or for its lead. -/
def State.calm (s : State) (w : Wy) : Prop := ∀ c ∈ (s.wy w).relief.cmds, c.calm

def Calms (w : Wy) (s t : State) : Prop := s.calm w → t.calm w

theorem Calms.refl {w : Wy} {s : State} : Calms w s s := id

theorem Calms.step {w : Wy} {s t u : State} (k : Calms w t u) (h : Calms w s t) : Calms w s u := k ∘ h

theorem Calms.keep {w : Wy} {l : List Part} {s t u : State} (k : Keeps l t u) (hl : l.contains .relief = false) (h : Calms w s t) :
    Calms w s u := fun hs => by
  rw [State.calm, k.relief_eq (by simpa using hl)]
  exact h hs

theorem Calms.modCmd {w : Wy} {s t : State} {id : Nat} {f : Cmd → Cmd} (hf : ∀ c, c.calm → (f c).calm) (h : Calms w s t) :
    Calms w s (t.modCmd w id f) := fun hs c hc => by
  rw [State.modCmd, State.modRelief_wy] at hc
  rcases mem_updFirst hc with hc | ⟨d, hd, rfl⟩
  · exact h hs c hc
  · exact hf d (h hs d hd)

theorem Calms.modWChunk {w : Wy} {s t : State} {id n : Nat} {f : WChunk → WChunk}
    (hf : ∀ x, (f x).stage ≠ .cut ∧ (f x).stage ≠ .encrypted) (h : Calms w s t) : Calms w s (t.modWChunk w id n f) := by
  refine .modCmd (fun c hc x hx => ?_) h
  obtain ⟨i, hi, rfl⟩ := List.mem_mapIdx.mp hx
  split
  · exact hf _
  · exact hc _ (List.getElem_mem hi)

theorem Calms.modOp {w : Wy} {s t : State} {id n : Nat} {f : WriteOp → WriteOp} (h : Calms w s t) : Calms w s (t.modOp w id n f) :=
  .modCmd (fun _ hc => hc) h

theorem State.issuePull_calm {s : State} {w : Wy} {c : Cmd} {n addr rkey len : Nat} : Calms w s (s.issuePull w c n addr rkey len) :=
  fun hs => by
    unfold State.issuePull State.modQueue
    rw [State.calm, State.modRelief_wy, State.modRelief_wy]
    exact hs

theorem State.pullMore_calm {s : State} {w : Wy} {id : Nat} : Calms w s (s.pullMore w id) := by
  unfold State.pullMore
  split
  · exact .refl
  · split
    · exact .refl
    · dsimp only
      split
      · exact .refl
      · exact State.issuePull_calm.step (.modOp .refl)

theorem State.packed_calm {s : State} {w : Wy} {c : Cmd} {n : Nat} {x : WChunk} {codec : Codec} {body : Bytes} :
    Calms w s (s.packed w c n x codec body) := by
  unfold State.packed State.releaseRing
  exact .keep State.queueCrypt_keeps rfl (State.pullMore_calm.step (.modOp (.modWChunk (fun _ => ⟨nofun, nofun⟩) .refl)))

theorem State.bufferChunk_calm {s : State} {w : Wy} {id n : Nat} : Calms w s (s.bufferChunk w id n) := by
  unfold State.bufferChunk
  split
  · exact .refl
  · split
    · exact .refl
    · dsimp only
      split
      · exact .refl
      · have taken {s : State} {p : Nat} {r : BufReq} {h : Nat} : Calms w s ((s.takeBuf w p r).modWChunk w id n
            (fun x => { x with stage := .compressing, buf := some h })) :=
          .modWChunk (fun _ => ⟨nofun, nofun⟩) (.keep State.takeBuf_keeps rfl .refl)
        split
        · exact State.packed_calm.step taken
        · exact .keep State.queueCodec_keeps rfl taken

theorem State.mem_of_cmd {s : State} {w : Wy} {id : Nat} {c : Cmd} (h : (s.wy w).relief.cmd id = some c) : c ∈ (s.wy w).relief.cmds :=
  List.mem_of_find?_eq_some h

/-- A chunk takes what it waits for and sends nothing where none waits for a lead. -/
theorem State.pumpChunk_of_calm {s : State} {w : Wy} {id n : Nat} (h : s.calm w) :
    (s.pumpChunk w id n).calm w ∧ ((s.pumpChunk w id n).wy w).mortar = (s.wy w).mortar := by
  have hcredit : s.creditChunk w id n = s := by
    unfold State.creditChunk
    split
    · rfl
    · rename_i x hx
      obtain ⟨c, hc, hx⟩ := Option.bind_eq_some_iff.mp hx
      have hno : ¬ (x.stage = .cut && !x.dropped) = true := by
        simp [(h c (State.mem_of_cmd hc) x (List.mem_of_getElem? hx)).1]
      dsimp only
      rw [if_neg hno]
  have hcalm : (s.bufferChunk w id n).calm w := State.bufferChunk_calm h
  have hship : (s.bufferChunk w id n).shipChunk w id n = s.bufferChunk w id n := by
    unfold State.shipChunk
    split
    · rfl
    · rename_i c hc
      split
      · rfl
      · rename_i x hx
        exact if_neg (by simp [(hcalm c (State.mem_of_cmd hc) x (List.mem_of_getElem? hx)).2])
  rw [State.pumpChunk, hcredit, hship]
  exact ⟨hcalm, State.bufferChunk_keeps.mortar_eq (by decide) w⟩

theorem foldl_calm {α : Type} {w : Wy} {f : State → α → State} {l : List α}
    (hf : ∀ s a, s.calm w → (f s a).calm w ∧ ((f s a).wy w).mortar = (s.wy w).mortar) {s : State} (h : s.calm w) :
    (l.foldl f s).calm w ∧ ((l.foldl f s).wy w).mortar = (s.wy w).mortar := by
  induction l generalizing s with
  | nil => exact ⟨h, rfl⟩
  | cons a l ih =>
    obtain ⟨hcalm, hm⟩ := hf s a h
    obtain ⟨hcalm2, hm2⟩ := ih hcalm
    exact ⟨hcalm2, hm2.trans hm⟩

theorem State.pumpWrites_of_calm {s : State} {w : Wy} (h : s.calm w) : ((s.pumpWrites w).wy w).mortar = (s.wy w).mortar := by
  unfold State.pumpWrites
  exact (foldl_calm (fun s c hs => foldl_calm (fun s n hs => State.pumpChunk_of_calm hs) hs) h).2

/-! ### The only flow of a wythe -/

/-- The one flow that a wythe has. -/
def State.soleFlow (s : State) (w : Wy) (f : Flow) : Prop := (s.wy w).mortar.flows = [f]

/-- A flow has the name by which it is found. -/
def Flow.named (f : Flow) (b : Nat) (bw : Wy) (n : Nat) : Prop := f.peer = b ∧ f.peerW = bw ∧ f.num = n

theorem State.soleFlow.keep {l : List Part} {s t : State} {w : Wy} {f : Flow} (h : s.soleFlow w f) (k : Keeps l s t) (hl : .mortar ∉ l) :
    t.soleFlow w f := by
  rw [State.soleFlow, k.mortar_eq hl]
  exact h

theorem State.soleFlow.flowOf {s : State} {w : Wy} {f : Flow} {b : Nat} {bw : Wy} {n : Nat} (h : s.soleFlow w f) (hn : f.named b bw n) :
    flowOf (s.wy w).mortar b bw n = some f := by
  obtain ⟨rfl, rfl, rfl⟩ := hn
  rw [Machine.flowOf, h]
  simp

theorem State.soleFlow.modFlow {s : State} {w : Wy} {f : Flow} {b : Nat} {bw : Wy} {n : Nat} (h : s.soleFlow w f) (hn : f.named b bw n)
    (g : Flow → Flow) : (s.modFlow w b bw n g).soleFlow w (g f) := by
  obtain ⟨rfl, rfl, rfl⟩ := hn
  rw [State.soleFlow, State.modFlow, State.modMortar_wy]
  dsimp only
  rw [h]
  simp [updFirst]

/-- An acknowledgement of every packet of a flow leaves it none that is not acknowledged, under its name and with its credit. -/
theorem endWindow_fields (f : Flow) (g m : Nat) : (endWindow f g m).unacked = f.unacked ∧ (endWindow f g m).credit = f.credit
    ∧ (endWindow f g m).nextSeq = f.nextSeq ∧ (endWindow f g m).named f.peer f.peerW f.num := by
  unfold endWindow
  split <;> exact ⟨rfl, rfl, rfl, rfl, rfl, rfl⟩

theorem ackFlow_acked {f : Flow} {ack sack : Nat} {ce : Bool} (h : ∀ p ∈ f.unacked, p.sent = true ∧ p.seq < ack) :
    ∀ p ∈ (ackFlow f ack sack ce).unacked, p.acked = true := by
  intro p hp
  unfold ackFlow at hp
  dsimp only at hp
  obtain ⟨q, hq, rfl⟩ := List.mem_map.mp hp
  obtain ⟨x, hx, rfl⟩ := List.mem_map.mp hq
  obtain ⟨hsent, hseq⟩ := h x hx
  simp [hsent, ackedBy, hseq]

theorem dropDone_of_acked {l : List Packet} (h : ∀ p ∈ l, p.acked = true) : dropDone l = [] := by
  refine List.filter_eq_nil_iff.mpr fun p _ => ?_
  have : l.any (fun x => x.msgId = p.msgId && !x.acked) = false := List.any_eq_false.mpr fun x hx => by simp [h x hx]
  simp [this]

/-- With nothing left to resend a flow that is wholly acknowledged is emptied. -/
theorem State.fastResend_empties {s : State} {w : Wy} {f : Flow} {b : Nat} {bw : Wy} {n : Nat} (h : s.soleFlow w f) (hn : f.named b bw n)
    (hall : ∀ p ∈ f.unacked, p.acked = true) : (s.fastResend w b bw n).soleFlow w { f with unacked := [] } := by
  unfold State.fastResend
  rw [h.flowOf hn]
  dsimp only
  have hmap : f.unacked.map (fun p => if p.passed = 1 && !p.acked then { p with passed := 2, sentAt := s.now } else p) = f.unacked :=
    (List.map_congr_left fun p hp => by simp [hall p hp]).trans (List.map_id _)
  have h1 := (h.modFlow hn (fun f => { f with unacked := dropDone (f.unacked.map (fun p =>
    if p.passed = 1 && !p.acked then { p with passed := 2, sentAt := s.now } else p)) }))
  rw [hmap, dropDone_of_acked hall] at h1
  exact h1.keep State.resend_keeps (by decide)

theorem State.pushFlow_idle {s : State} {w : Wy} {f : Flow} {b : Nat} {bw : Wy} {n : Nat} (h : s.soleFlow w f) (hn : f.named b bw n)
    (hnone : f.unacked = []) : (s.pushFlow w b bw n).soleFlow w f := by
  unfold State.pushFlow
  rw [h.flowOf hn]
  dsimp only
  have h1 := h.modFlow hn (fun f' => { f' with unacked := f'.unacked.map (fun p =>
    if (((f.unacked.filter (fun p => !p.sent)).take (f.win - (f.unacked.filter (fun p => p.sent && !p.acked)).length)).map
      (fun p => p.seq)).contains p.seq then { p with sent := true, sentAt := s.now } else p) })
  rw [hnone] at h1 ⊢
  have heq : ({ f with unacked := [] } : Flow) = f := by rw [← hnone]
  have h2 : State.soleFlow _ w f := heq ▸ h1
  exact ((h2.keep State.bumpBy_keeps (by decide)).keep State.emitAll_keeps (by decide)).keep State.used_keeps (by decide)

/-- An acknowledgement of all that a flow has sent frees it and carries credit (R207, R210). -/
theorem State.takeAck_frees {s : State} {w : Wy} {f : Flow} {ack sack credit : Nat} {ce : Bool} (hflow : s.soleFlow w f)
    (hack : ∀ p ∈ f.unacked, p.sent = true ∧ p.seq < ack) (hcalm : s.calm w) :
    ∃ g, ((s.takeAck w f.peer f.peerW f.num ack sack credit ce false).wy w).mortar.flows = [g] ∧ g.unacked = [] ∧ g.credit = credit
      ∧ g.nextSeq = f.nextSeq := by
  unfold State.takeAck
  extract_lets s1 s2 gain mw s3
  have k1 : Keeps [.pcie, .regs] s s1 := .ite (State.bump_keeps.mono (by decide)) .refl
  have h1 : s1.soleFlow w f := hflow.keep k1 (by decide)
  have h2 : s2.soleFlow w { f with credit := credit } := by
    rw [State.soleFlow, State.modMortar_wy]
    dsimp only
    rw [h1]
    simp [updAll]
  let g := endWindow (ackFlow { f with credit := credit } ack sack ce) gain mw
  obtain ⟨hun, hcr, hnx, hnm⟩ := endWindow_fields (ackFlow { f with credit := credit } ack sack ce) gain mw
  have h3 : s3.soleFlow w { g with unacked := [] } := by
    refine State.fastResend_empties (h2.modFlow ⟨rfl, rfl, rfl⟩ _) hnm ?_
    rw [hun]
    exact ackFlow_acked hack
  have h4 := State.pushFlow_idle h3 hnm rfl
  have k2 : Keeps [.mortar, .pcie, .regs] s1 (s3.pushFlow w f.peer f.peerW f.num) :=
    State.pushFlow_keeps.step (by decide) (State.fastResend_keeps.step (by decide) (State.modFlow_keeps.step (by decide)
      (State.modMortar_keeps.mono (by decide))))
  have hcalm4 : (s3.pushFlow w f.peer f.peerW f.num).calm w := by
    rw [State.calm, k2.relief_eq (by decide), k1.relief_eq (by decide)]
    exact hcalm
  refine ⟨{ g with unacked := [] }, ?_, rfl, hcr, hnx⟩
  rw [State.dropSealed_keeps.mortar_eq (by decide), State.pumpWrites_of_calm hcalm4]
  exact h4

end Sys2Proof.Machine
end

section
/-! PROOFS. Timeouts, unknown and stale messages, and state objects (R208-R214). -/

namespace Sys2Proof.Machine

/-! ### Retransmission (R210) -/

theorem State.modFlow_flowOf {s : State} {w : Wy} {b : Nat} {bw : Wy} {n : Nat} {g : Flow → Flow}
    (hg : ∀ f, (g f).named f.peer f.peerW f.num) :
    flowOf ((s.modFlow w b bw n g).wy w).mortar b bw n = (flowOf (s.wy w).mortar b bw n).map g := by
  rw [State.modFlow, State.modMortar_wy]
  refine find?_updFirst (fun f hf => ?_) (s.wy w).mortar.flows
  obtain ⟨hp, hw, hn⟩ := hg f
  rw [hp, hw, hn]
  exact hf

/-- A packet's timeout that has come. -/
structure TimedOut (s : State) (w : Wy) (b : Nat) (bw : Wy) (n seq : Nat) (f : Flow) (p : Packet) : Prop where
  hears : s.hears w = true
  flow : flowOf (s.wy w).mortar b bw n = some f
  packet : f.unacked.find? (fun p => p.seq = seq) = some p
  sent : p.sent = true
  unacked : p.acked = false
  late : p.sentAt + s.rto w p ≤ s.now

/-- A flow whose packet is sent again: its window shrinks, and the packet's timeout doubles (R210, R211). -/
def backOff (now seq : Nat) (f : Flow) : Flow :=
  { f with
    win := 2
    unacked := f.unacked.map (fun x => if x.seq = seq then { x with sentAt := now, expiries := x.expiries + 1, passed := 0 } else x) }

/-- The packet of a flow that has backed off goes out again. -/
def State.resendOne (s : State) (w : Wy) (b : Nat) (bw : Wy) (n : Nat) (p : Packet) : State :=
  match flowOf (s.wy w).mortar b bw n with
  | some f => s.resend w f [p]
  | none => s

theorem State.resendOne_keeps {s : State} {w : Wy} {b : Nat} {bw : Wy} {n : Nat} {p : Packet} :
    Keeps [.pcie, .regs] s (s.resendOne w b bw n p) := by
  unfold State.resendOne
  split
  · exact State.resend_keeps
  · exact .refl

theorem exec_retransmissionTimeout {s : State} {w : Wy} {b : Nat} {bw : Wy} {n seq : Nat} {f : Flow} {p : Packet}
    (h : TimedOut s w b bw n seq f p) : exec (.retransmissionTimeout w b bw n seq) s =
      if s.afld (.mtr w) MTR_RTO_CTRL 26 22 ≤ p.expiries + 1 then .next ((s.bump (.mtr w) MTR_CNT_RTO).breakFlow w b bw n)
      else .next (((s.bump (.mtr w) MTR_CNT_RTO).modFlow w b bw n (backOff s.now seq)).resendOne w b bw n p) := by
  have hgo : ¬ (!s.hears w || !p.sent || p.acked || !s.since p.sentAt (s.rto w p)) = true := by
    have : s.since p.sentAt (s.rto w p) = true := by simpa [State.since] using h.late
    simp [h.hears, h.sent, h.unacked, this]
  have hexec : exec (.retransmissionTimeout w b bw n seq) s = execRetransmissionTimeout w b bw n seq s := rfl
  have hafld : (s.bump (.mtr w) MTR_CNT_RTO).afld (.mtr w) MTR_RTO_CTRL 26 22 = s.afld (.mtr w) MTR_RTO_CTRL 26 22 :=
    State.bump_keeps.afld_eq (by decide) ..
  rw [hexec, execRetransmissionTimeout, h.flow]
  dsimp only [Option.bind]
  rw [h.packet]
  dsimp only
  rw [if_neg hgo, hafld]
  rfl

/-- The last attempt breaks the flow, and says so (R210). -/
theorem State.breakFlow_breaks {s : State} {w : Wy} {b : Nat} {bw : Wy} {n : Nat} {f : Flow} (hf : flowOf (s.wy w).mortar b bw n = some f) :
    flowOf ((s.breakFlow w b bw n).wy w).mortar b bw n = some { f with broken := true, unacked := [] }
      ∧ bitOf ((s.breakFlow w b bw n).reg (.mtr w) EVT_STATUS) MTR_EVT_FLOW_BROKEN = true := by
  refine ⟨?_, State.event_sets_bit (by decide) ..⟩
  unfold State.breakFlow
  rw [State.event_keeps.mortar_eq (by decide), State.bump_keeps.mortar_eq (by decide), State.modFlow_flowOf, hf]
  · rfl
  · exact fun _ => ⟨rfl, rfl, rfl⟩

theorem backOff_packet {now seq : Nat} {f : Flow} {p : Packet} (hp : f.unacked.find? (fun p => p.seq = seq) = some p) :
    ∃ x ∈ (backOff now seq f).unacked, x.seq = seq ∧ x.sentAt = now ∧ x.expiries = p.expiries + 1 := by
  have hseq : p.seq = seq := by simpa using List.find?_some hp
  refine ⟨_, List.mem_map.mpr ⟨p, List.mem_of_find?_eq_some hp, if_pos hseq⟩, hseq, rfl, rfl⟩

theorem State.resendOne_backsOff {s : State} {w : Wy} {b : Nat} {bw : Wy} {n now seq : Nat} {f : Flow} {p : Packet}
    (hf : flowOf (s.wy w).mortar b bw n = some f) :
    flowOf ((((s.modFlow w b bw n (backOff now seq)).resendOne w b bw n p)).wy w).mortar b bw n = some (backOff now seq f) := by
  rw [State.resendOne_keeps.mortar_eq (by decide), State.modFlow_flowOf, hf]
  · rfl
  · exact fun _ => ⟨rfl, rfl, rfl⟩

/-! ### Messages that are acknowledged, counted and answered (R208, R213) -/

theorem State.sendAck_sends (s : State) (w : Wy) (b : Nat) (bw : Wy) (flow ack sack : Nat) (ce resync : Bool) (addr : BitVec 128) :
    .mortarAck w b bw flow ack sack ce resync ∈ (s.sendAck w b bw flow ack sack ce resync addr).out := by
  unfold State.sendAck
  exact State.used_keeps.mem_out (State.bump_keeps.mem_out (State.emit_keeps.mem_out (State.mem_emit_out ..)))

theorem State.sendAck_reg {s : State} {w : Wy} {b : Nat} {bw : Wy} {flow ack sack : Nat} {ce resync : Bool} {addr : BitVec 128} {o : Nat}
    (h : o ≠ MTR_CNT_TX_PKT) (he : o ≠ EVT_STATUS) :
    (s.sendAck w b bw flow ack sack ce resync addr).reg (.mtr w) o = s.reg (.mtr w) o := by
  unfold State.sendAck
  rw [State.used_keeps.reg_eq (by decide), State.bump_reg_of_off_ne h he, State.emit_keeps.reg_eq (by decide), State.emit_keeps.reg_eq (by decide)]

theorem State.fetchState_asks {s : State} {w : Wy} {dst : Nat} (hup : s.holdup = none) :
    .mortar w dst w (.stateGet .map 0 0 1048576) ∈ (s.fetchState w dst).out
      ∧ .mortar w dst w (.stateGet .bond 0 0 1048576) ∈ (s.fetchState w dst).out := by
  unfold State.fetchState State.askState
  exact ⟨State.mortarOut_keeps.mem_out (State.mortarOut_sends hup), State.mortarOut_sends (State.mortarOut_holdup.trans hup)⟩

/-- A message of an older epoch is counted and answered with what the wall's epoch and versions are (R213). -/
theorem State.mortarIn_of_older {s : State} {w : Wy} {h : MHead} {i : Instr} {handle : State → State} (hears : s.hears w = true)
    (hepoch : h.epoch < s.wall.epoch) : s.mortarIn w h i handle
      = ((s.seeHlc w h.hlc).bump (.mtr w) MTR_CNT_EPOCH_STALE).mortarOut w h.src h.srcW
          (.epochNotice s.wall.epoch s.store.map.version s.wall.bond.version) := by
  have hw := State.seeHlc_wall s w h.hlc
  unfold State.mortarIn
  dsimp only
  rw [if_neg (by simp [hears]), if_neg (by rw [hw]; exact hepoch.ne), if_pos (by rw [hw]; exact hepoch), hw, State.seeHlc_store]

/-! ### State objects (R213-R215) -/

/-- The answer to a STATE_GET of the current version, within the object (R214). -/
theorem exec_stateGet_map {s : State} {w : Wy} {h : MHead} {version offset length : Nat} (hears : s.hears w = true)
    (hver : version = 0 ∨ version = s.store.map.version) (hoff : offset ≤ mapLen s.store.map) (hlen : 1 ≤ length) (hmax : length ≤ 1048576) :
    exec (.stateGet w h .map version offset length) s = .next (((s.seeHlc w h.hlc).mortarOut w h.src h.srcW (.stateData .map 0
      s.store.map.version offset (mapLen s.store.map)
      (sliceBytes (mapBytes s.store.map) offset (min length (mapLen s.store.map - offset))))).used) := by
  have hs := State.seeHlc_store s w h.hlc
  have hcur : ¬ (version ≠ 0 && version ≠ s.store.map.version) = true := by
    rcases hver with rfl | rfl <;> simp
  have hrange : ¬ (mapLen s.store.map < offset || length < 1 || 1048576 < length) = true := by
    simp only [Bool.or_eq_true, decide_eq_true_eq]
    omega
  refine congrArg Host.Outcome.next ((State.mortarAny_of_hears hears).trans ?_)
  simp only [State.objVersion, State.objLen, State.objBytes, hs]
  rw [if_neg hcur, if_neg hrange]

theorem exec_stateGet_gone {s : State} {w : Wy} {h : MHead} {obj : StateObj} {version offset length : Nat} (hears : s.hears w = true)
    (hver : version ≠ 0) (hgone : version ≠ s.objVersion obj) :
    ∃ n, exec (.stateGet w h obj version offset length) s = .next (((s.seeHlc w h.hlc).mortarOut w h.src h.srcW (.stateData obj 1
      (s.objVersion obj) offset n [])).used) := by
  have hobj : (s.seeHlc w h.hlc).objVersion obj = s.objVersion obj := by
    cases obj <;> cases w <;> rfl
  refine ⟨(s.seeHlc w h.hlc).objLen obj, congrArg Host.Outcome.next ((State.mortarAny_of_hears hears).trans ?_)⟩
  dsimp only
  rw [hobj, if_pos (by simp [hver, hgone])]

/-! ### Messages that wait (R213, R254) -/

/-- Nothing waits for a newer epoch or for the copy of a group's state. -/
structure NothingHeld (s : State) : Prop where
  held : s.heldMortar = []
  queue : s.syncQueue = []

theorem NothingHeld.keep {l : List Part} {s t : State} (h : NothingHeld s) (k : Keeps l s t) (hh : .heldMortar ∉ l) (hq : .syncQueue ∉ l) :
    NothingHeld t := ⟨(k.heldMortar_eq hh).trans h.held, (k.syncQueue_eq hq).trans h.queue⟩

theorem State.releaseHeld_idle {s : State} (h : NothingHeld s) : s.releaseHeld = { s with heldMortar := [] } := by
  unfold State.releaseHeld
  simp only [h.held, List.filter_nil, List.foldl_nil, h.queue, List.map_nil]
  rfl

theorem State.refsOnEpoch_syncQueue (s : State) : s.refsOnEpoch.syncQueue = [] := by
  unfold State.refsOnEpoch
  extract_lets s0 s1
  have k1 : Keeps [.mortar, .pcie, .regs, .refs] s0 s1 := Keeps.foldl (fun _ _ => State.groupOnEpoch_keeps) .refl
  refine ((Keeps.foldl (l := [.mortar, .pcie, .regs, .refs]) (fun _ _ => State.sendBatch_keeps) .refl).syncQueue_eq (by decide)).trans ?_
  rw [k1.syncQueue_eq (by decide)]
  rfl

theorem State.stripeStep_syncQueue {s : State} {new : Bool} (h : s.syncQueue = []) : (s.stripeStep new).syncQueue = [] := by
  unfold State.stripeStep
  split
  · exact State.refsOnEpoch_syncQueue _
  · exact h

/-- A newer state queues nothing (R254). -/
theorem State.afterState_syncQueue {old s : State} (h : s.syncQueue = []) : (State.afterState old s).syncQueue = [] := by
  unfold State.afterState
  extract_lets epochs maps bonds s1 s2
  have h1 : s1.syncQueue = [] := by
    rw [State.noteArmature_keeps.syncQueue_eq (by decide), State.syncLinks_keeps.syncQueue_eq (by decide),
      State.syncKeys_keeps.syncQueue_eq (by decide), State.syncKeys_keeps.syncQueue_eq (by decide),
      State.epochStep_keeps.syncQueue_eq (by decide), h]
  have h2 : s2.syncQueue = [] := by
    rw [State.bondStep_keeps.syncQueue_eq (by decide)]
    exact State.stripeStep_syncQueue ((State.mapStep_keeps.syncQueue_eq (by decide)).trans h1)
  rw [State.ptpRoles_keeps.syncQueue_eq (by decide), State.applyStaged_keeps.syncQueue_eq (by decide),
    State.castStep_keeps.syncQueue_eq (by decide), h2]

/-- The state object that STATE_DATA brings whole, as the brick takes it. -/
def State.takeObject (s : State) (p : StatePayload) : State :=
  State.afterState s (if s.wall.arm.role = .none then s.install p else s.noteOutcomes p)

theorem State.takeObject_held {s : State} (p : StatePayload) (h : NothingHeld s) : NothingHeld (s.takeObject p) := by
  have h1 : NothingHeld (if s.wall.arm.role = .none then s.install p else s.noteOutcomes p) := by
    split
    · exact h.keep State.install_keeps (by decide) (by decide)
    · exact h.keep State.noteOutcomes_keeps (by decide) (by decide)
  exact ⟨(State.afterState_keeps.heldMortar_eq (by decide)).trans h1.held, State.afterState_syncQueue h1.queue⟩

/-- A state object that came whole is among those fetched (R195). -/
theorem State.doStateData_fetches {s : State} {w : Wy} {h : MHead} {obj : StateObj} {off len : Nat} (p : StatePayload) (hheld : NothingHeld s) :
    obj ∈ (s.doStateData w h obj 0 off len (some p)).wall.fetched ∧ NothingHeld (s.doStateData w h obj 0 off len (some p)) := by
  let s1 := s.takeObject p
  let got := if s1.wall.fetched.contains obj then s1.wall.fetched else s1.wall.fetched ++ [obj]
  let s2 := s1.modWall (fun x => { x with
    fetched := got
    ready := x.ready || (x.brickId.isSome && [StateObj.map, .bond, .casts, .settings].all (fun o => got.contains o) && s1.keysInstalled) })
  have heq : s.doStateData w h obj 0 off len (some p)
      = if obj = .casts then ((s2.answerAsked .w0).answerAsked .w1).openAfterCasts else s2 := rfl
  have hgot : obj ∈ s2.wall.fetched := by
    have : obj ∈ got := by
      simp only [got]
      split
      · rename_i hin
        simpa using hin
      · simp
    exact this
  have hheld1 : NothingHeld s1 := State.takeObject_held p hheld
  have hheld2 : NothingHeld s2 := ⟨hheld1.held, hheld1.queue⟩
  rw [heq]
  clear_value s2
  split
  · have k : Keeps [.relief, .clk, .cip, .codec, .mortar, .pcie, .bpm, .ptp, .regs, .store, .stripes, .refs, .jobRuns, .arriving, .pwr] s2
        ((s2.answerAsked .w0).answerAsked .w1).openAfterCasts :=
      State.openAfterCasts_keeps.step (by decide) (State.answerAsked_keeps.step (by decide) (State.answerAsked_keeps.mono (by decide)))
    rw [k.wall_eq (by decide)]
    exact ⟨hgot, hheld2.keep k (by decide) (by decide)⟩
  · exact ⟨hgot, hheld2⟩

theorem exec_stateData {s : State} {w : Wy} {h : MHead} {obj : StateObj} {st version off len total : Nat} {p : Option StatePayload}
    (hears : s.hears w = true) : exec (.stateData w h obj st version off len total p) s
      = .next (State.offerLate (s.seeHlc w h.hlc) ((s.seeHlc w h.hlc).doStateData w h obj st off len p)).releaseHeld :=
  congrArg Host.Outcome.next (State.mortarAny_of_hears hears)

/-! ### Ranges that the brick asked for (R239, R243) -/

/-- A moved fragment leaves its rebuild entry (R243). -/
theorem State.moveData_drops {s : State} {w : Wy} {src f : Nat} {bytes : Bytes} {e : RebuildEnt} (he : e ∈ s.stripes.rebuild)
    (hf : e.fragId = f) (hup : e.upto = 0) (hasked : (fragIndex f, src) ∈ e.asked) :
    ∀ y ∈ (s.moveData w src f .ok bytes).stripes.rebuild, y.fragId = f → y.upto ≠ 0 := by
  unfold State.moveData
  cases hfind : s.stripes.rebuild.find? (fun e => e.fragId = f && e.upto = 0 && e.asked.contains (fragIndex f, src)) with
  | none => exact absurd (List.find?_eq_none.mp hfind e he) (by simpa [hf, hup] using hasked)
  | some e' =>
    have he' := List.find?_some hfind
    simp only [Bool.and_eq_true, decide_eq_true_eq] at he'
    obtain ⟨⟨hf', hup'⟩, -⟩ := he'
    intro y hy hyf hyup
    have hno := (List.mem_filter.mp hy).2
    simp [hyf, hyup, hf', hup'] at hno

theorem State.modStripe_stripe {s : State} {id : Nat} {f : StripeRec → StripeRec} {r : StripeRec} (hf : ∀ r, (f r).id = r.id)
    (hr : s.stripe id = some r) : (s.modStripe id f).stripe id = some (f r) := by
  refine (find?_updFirst (fun y hy => ?_) s.stripes.recs).trans (congrArg (Option.map f) hr)
  rw [hf]
  exact hy

/-- A record that a new lead pulls stands among its stripe's (R239). -/
theorem State.pullData_takes {s : State} {w : Wy} {src f off : Nat} {bytes : Bytes} {r : StripeRec} (hr : s.stripe (stripeOf f) = some r)
    (hnew : ∀ e ∈ r.recs, e.1 ≠ fragIndex f * s.wall.settings.fragBytes + off) :
    ∃ y, (s.pullData w src f off bytes).stripe (stripeOf f) = some y ∧ (fragIndex f * s.wall.settings.fragBytes + off, bytes) ∈ y.recs := by
  have hno : ¬ r.recs.any (fun e => e.1 = fragIndex f * s.wall.settings.fragBytes + off) = true := by
    rw [List.any_eq_true]
    rintro ⟨e, he, h⟩
    exact hnew e he (by simpa using h)
  unfold State.pullData
  dsimp only
  rw [hr]
  dsimp only
  rw [if_neg hno]
  refine ⟨{ r with recs := r.recs ++ [(fragIndex f * s.wall.settings.fragBytes + off, bytes)],
                   placed := r.placed ++ [(fragIndex f * s.wall.settings.fragBytes + off, src)] }, ?_, by simp⟩
  have hmod := State.modStripe_stripe (s := s) (id := stripeOf f) (f := fun r : StripeRec => { r with
    recs := r.recs ++ [(fragIndex f * s.wall.settings.fragBytes + off, bytes)],
    placed := r.placed ++ [(fragIndex f * s.wall.settings.fragBytes + off, src)] }) (fun _ => rfl) hr
  refine Eq.trans ?_ hmod
  refine foldl_proj (fun s => s.stripe (stripeOf f)) (fun t b _ => ?_) _
  split
  · rfl
  · exact congrArg (fun x : Stripes => x.recs.find? (fun r => r.id = stripeOf f)) (State.copyTo_keeps.stripes_eq (by decide))

end Sys2Proof.Machine

namespace Sys2Proof

open Sys2Proof.Machine

/-- Settles O22: a flow whose packets are all acknowledged is emptied, and nothing that an acknowledgement lets go is sent on it again. -/
theorem mortarCarriesMessages : Obligations.MortarCarriesMessages := by
  intro w h s hears
  have hup : (s.seeHlc w h.hlc).holdup = none := (State.seeHlc_holdup ..).trans (State.holdup_of_hears hears)
  have hw := State.seeHlc_wall s w h.hlc
  have hst : (s.seeHlc w h.hlc).stripes = s.stripes := State.seeHlc_keeps.stripes_eq (by decide)
  refine ⟨fun f ack sack credit ce hflow hack hcalm => ?_, fun peer peerW flow seq f p hf hp hsent hacked hlate => ?_, fun flow => ?_,
    fun epoch map bond hnew => ?_, fun p epoch closed hold => ?_, ?_, fun version offset length hver hoff hlen hmax => ?_,
    fun obj version offset length hver hgone => ?_, fun obj version offset len total hh hq => ?_,
    fun obj version offset len total x hh hq => ?_, fun f off len holder cookie bytes e hepoch hcookie he hf hupto hasked => ?_,
    fun f off len holder cookie bytes r hepoch hcookie hr hnew => ?_⟩
  · exact runs_intro (congrArg Host.Outcome.next (if_pos hears)) (State.takeAck_frees hflow hack hcalm)
  · have hexec := exec_retransmissionTimeout ⟨hears, hf, hp, hsent, hacked, hlate⟩
    have hf1 : flowOf ((s.bump (.mtr w) MTR_CNT_RTO).wy w).mortar peer peerW flow = some f := by
      rw [State.bump_keeps.mortar_eq (by decide), hf]
    by_cases hlast : s.afld (.mtr w) MTR_RTO_CTRL 26 22 ≤ p.expiries + 1
    · rw [if_pos hlast] at hexec
      obtain ⟨hbroken, hevt⟩ := State.breakFlow_breaks hf1
      exact runs_intro hexec ⟨_, hbroken, fun h => absurd h (Nat.not_lt.mpr hlast), fun _ => ⟨rfl, rfl, hevt⟩⟩
    · rw [if_neg hlast] at hexec
      exact runs_intro hexec ⟨_, State.resendOne_backsOff hf1, fun _ => ⟨rfl, backOff_packet hp⟩, fun h => absurd h hlast⟩
  · refine runs_intro (congrArg Host.Outcome.next (State.mortarAny_of_hears hears)) ⟨⟨_, State.sendAck_sends ..⟩, ?_⟩
    rw [State.sendAck_reg (by decide) (by decide), State.bump_reg_self (by decide), State.seeHlc_keeps.reg_eq (by decide)]
  · refine runs_intro (congrArg Host.Outcome.next ((State.mortarAny_of_hears hears).trans (if_pos ?_))) (State.fetchState_asks hup)
    rw [hw]
    simp [hnew]
  · refine runs_intro (congrArg Host.Outcome.next (State.mortarIn_of_older hears hold)) ⟨?_, State.mortarOut_sends ?_⟩
    · rw [State.mortarOut_keeps.store_eq (by decide), State.bump_keeps.store_eq (by decide), State.seeHlc_store]
    · exact (State.bump_keeps.holdup_eq (by decide)).trans hup
  · refine runs_intro rfl ⟨fun x hx hxw => ?_, fun x hx hkeep => List.mem_filter.mpr ⟨hx, ?_⟩⟩
    · have hcond := (List.mem_filter.mp hx).2
      simp only [hxw, ne_eq, not_true_eq_false, decide_false, Bool.false_or, Bool.not_eq_true'] at hcond
      have hnot := mt (State.since_ms s x.1 100).mpr (by rw [hcond]; decide)
      omega
    · rcases hkeep with hne | hlt
      · simp [hne]
      · have hnot : s.since x.1 (ms 100) = false := by
          refine Bool.eq_false_iff.mpr fun h => ?_
          have := (State.since_ms s x.1 100).mp h
          omega
        rw [hnot]
        exact Bool.or_true _
  · exact runs_intro (exec_stateGet_map hears hver hoff hlen hmax) (State.used_keeps.mem_out (State.mortarOut_sends hup))
  · obtain ⟨n, hexec⟩ := exec_stateGet_gone (h := h) (offset := offset) (length := length) hears hver hgone
    exact runs_intro hexec ⟨n, State.used_keeps.mem_out (State.mortarOut_sends hup)⟩
  · refine runs_intro (exec_stateData hears) (State.releaseHeld_keeps.mem_out (State.offerLate_keeps.mem_out ?_))
    exact State.mortarOut_sends hup
  · have hheld : NothingHeld (s.seeHlc w h.hlc) := NothingHeld.keep ⟨hh, hq⟩ State.seeHlc_keeps (by decide) (by decide)
    obtain ⟨hgot, hheld1⟩ := State.doStateData_fetches (w := w) (h := h) (obj := obj) (off := offset) (len := len) x hheld
    refine runs_intro (exec_stateData hears) ?_
    rw [State.releaseHeld_idle (hheld1.keep State.offerLate_keeps (by decide) (by decide))]
    exact (State.offerLate_keeps.wall_eq (by decide)).symm ▸ hgot
  · refine runs_intro (congrArg Host.Outcome.next (State.mortarIn_of_hears hears hepoch)) ?_
    have heq : (s.seeHlc w h.hlc).doRangeData w h.src f off .ok holder cookie bytes = (s.seeHlc w h.hlc).moveData w h.src f .ok bytes := by
      unfold State.doRangeData
      rw [hcookie]
      rfl
    rw [heq]
    exact State.moveData_drops (by rw [hst]; exact he) hf hupto hasked
  · refine runs_intro (congrArg Host.Outcome.next (State.mortarIn_of_hears hears hepoch)) ?_
    have heq : (s.seeHlc w h.hlc).doRangeData w h.src f off .ok holder cookie bytes = (s.seeHlc w h.hlc).pullData w h.src f off bytes := by
      unfold State.doRangeData
      rw [hcookie]
      rfl
    rw [heq]
    have := State.pullData_takes (s := s.seeHlc w h.hlc) (w := w) (src := h.src) (f := f) (off := off) (bytes := bytes) (r := r)
      (by rw [State.stripe, hst]; exact hr) (by rw [hw]; exact hnew)
    rwa [hw] at this

end Sys2Proof
end

section
/-! PROOFS. Replication to a second wall: links, casts that ship, and the remote home (R272-R278). -/

namespace Sys2Proof.Machine

/-! ### Links (R273) -/

/-- A link message as the leader receives it: the clock is raised and the sender's address noted. -/
def State.heardFar (s : State) (w : Wy) (h : MHead) : State := (s.seeHlc w h.hlc).noteFar h.src h.addr

theorem State.heardFar_keeps {s : State} {w : Wy} {h : MHead} : Keeps [.clk, .refs] s (s.heardFar w h) :=
  .step State.noteFar_keeps rfl (State.seeHlc_keeps.mono rfl)

theorem State.seeHlc_refs (s : State) (w : Wy) (r : Nat) : (s.seeHlc w r).refs = s.refs := State.seeHlc_keeps.refs_eq (by decide)

theorem State.refuseLink_sends {s : State} {h : MHead} {l : LinkRec} (hup : s.holdup = none) :
    .mortar .w0 (farPeer h.src) h.srcW (.replLink (linkMsg .linkRefused l 0 0 0)) ∈ (s.refuseLink h l).out := State.mortarOut_sends hup

/-- What a brick sends to open a link or to accept it. -/
def linkGreeting (kind : LinkKind) (l : LinkRec) (e : Nat) (r : ReplLink) : Prop :=
  r.kind = kind ∧ r.keyspace = l.keyspace ∧ r.sourceWall = l.sourceWall ∧ r.remoteWall = l.remoteWall ∧ r.ephemeral = publicKey e

theorem State.linkHello_sends {s : State} {kind : LinkKind} {l : LinkRec} {e : Nat} (hup : s.holdup = none) :
    ∃ r, .mortar .w0 l.peer l.peerW (.replLink r) ∈ (s.linkHello kind l e).out ∧ linkGreeting kind l e r := by
  have hup2 : ((s.drawn 48).putLink { l with secret := some e }).holdup = none := hup
  exact ⟨_, State.mortarOut_sends hup2, rfl, rfl, rfl, rfl, rfl⟩

theorem State.linkHello_link {s : State} {kind : LinkKind} {l : LinkRec} {e : Nat} :
    (s.linkHello kind l e).link l.keyspace = some { l with secret := some e } := by
  have hrefs : (s.linkHello kind l e).refs = ((s.drawn 48).putLink { l with secret := some e }).refs :=
    State.mortarOut_keeps.refs_eq (by decide)
  rw [State.link, hrefs]
  exact find?_upsert_const (q := fun x : LinkRec => x.keyspace = l.keyspace) (new := { l with secret := some e }) (decide_eq_true rfl) _

/-- The link that an offer asks for. -/
def offeredLink (s : State) (h : MHead) (r : ReplLink) : LinkRec :=
  { keyspace := r.keyspace, sourceWall := r.sourceWall, remoteWall := r.remoteWall, accepted := false, lastShip := s.now,
    applied := 0, peer := farPeer h.src, peerW := h.srcW, secret := none }

theorem State.linkOffer_of_unsound {s : State} {h : MHead} {r : ReplLink} {key : Option Bytes} (hr : linkSound r key = false) :
    s.linkOffer h r key = s.refuseLink h (offeredLink s h r) := by
  unfold State.linkOffer
  simp only [hr, Bool.false_and, Bool.false_eq_true, if_false]
  rfl

/-- The policy of a keyspace allows the link that is offered (R272). -/
def State.allowsLink (s : State) (r : ReplLink) : Prop :=
  r.remoteWall = s.wallId ∧ ∃ k, s.keyspace r.keyspace = some k ∧ k.role = .secondary ∧ k.linkWall = r.sourceWall

theorem State.linkOffer_of_sound {s : State} {h : MHead} {r : ReplLink} {key : Option Bytes} (hr : linkSound r key = true)
    (hallow : s.allowsLink r) :
    s.linkOffer h r key = match sharedSecret (scalarOf (freeBytes s.fresh 48)) r.ephemeral with
      | some x => ((s.drawn 48).linkHello .linkAccept (offeredLink s h r) (scalarOf (freeBytes s.fresh 48))).linkUp (offeredLink s h r) x
      | none => s.refuseLink h (offeredLink s h r) := by
  obtain ⟨hwall, k, hk, hrole, hlink⟩ := hallow
  have hok : (linkSound r key && decide (r.remoteWall = s.wallId)
      && (s.keyspace r.keyspace).any (fun k => k.role = .secondary && k.linkWall = r.sourceWall)) = true := by
    simp [hr, hwall, hk, hrole, hlink]
  unfold State.linkOffer
  dsimp only
  rw [if_pos hok] <;> rfl

/-- A sound offer is accepted where the two keys have a shared secret, else refused. -/
theorem State.linkOffer_answers {s : State} {h : MHead} {r : ReplLink} {key : Option Bytes} (hr : linkSound r key = true)
    (hallow : s.allowsLink r) (hup : s.holdup = none) :
    ∃ (e : Nat) (x : ReplLink), .mortar .w0 (farPeer h.src) h.srcW (.replLink x) ∈ (s.linkOffer h r key).out ∧ x.keyspace = r.keyspace
      ∧ match sharedSecret e r.ephemeral with
        | some _ => x.kind = .linkAccept ∧ x.ephemeral = publicKey e
        | none => x.kind = .linkRefused := by
  rw [State.linkOffer_of_sound hr hallow]
  generalize scalarOf (freeBytes s.fresh 48) = e
  refine ⟨e, ?_⟩
  cases sharedSecret e r.ephemeral with
  | none => exact ⟨_, State.refuseLink_sends hup, rfl, rfl⟩
  | some x =>
    obtain ⟨m, hm, hkind, hks, -, -, heph⟩ :=
      State.linkHello_sends (s := s.drawn 48) (kind := .linkAccept) (l := offeredLink s h r) (e := e) hup
    exact ⟨m, State.linkUp_keeps.mem_out hm, hks, hkind, heph⟩

theorem State.doReplLink_of_refused {s : State} {h : MHead} {r : ReplLink} {key : Option Bytes} (hkind : r.kind = .linkRefused)
    (hmine : r.sourceWall = s.wallId ∨ r.remoteWall = s.wallId) :
    s.doReplLink h r key = s.modRefs (fun f => { f with links := f.links.filter (fun l => l.keyspace ≠ r.keyspace) }) := by
  unfold State.doReplLink
  extract_lets mine far
  have hm : mine = true := by simpa [mine] using hmine
  rw [hm, hkind]
  rfl

theorem State.doReplLink_of_offer {s : State} {h : MHead} {r : ReplLink} {key : Option Bytes} (hkind : r.kind = .linkOffer)
    (hmine : r.remoteWall = s.wallId) (hlead : s.wall.arm.role = .leader) :
    s.doReplLink h r key = (s.noteFar h.src h.addr).linkOffer h r key := by
  unfold State.doReplLink
  extract_lets mine far
  have hm : mine = true := by simp [mine, hmine]
  rw [hm, hkind]
  exact if_pos hlead

theorem exec_replLink_offer {s : State} {w : Wy} {h : MHead} {r : ReplLink} {key : Option Bytes} (hears : s.hears w = true)
    (hkind : r.kind = .linkOffer) (hmine : r.remoteWall = s.wallId) (hlead : s.wall.arm.role = .leader) :
    exec (.replLink w h r key) s = .next ((s.heardFar w h).linkOffer h r key) := by
  have hw : (s.seeHlc w h.hlc).wall = s.wall := State.seeHlc_wall ..
  refine congrArg Host.Outcome.next ((State.mortarAny_of_hears hears).trans (State.doReplLink_of_offer hkind ?_ ?_))
  · rw [State.wallId, hw]
    exact hmine
  · rw [hw]
    exact hlead

/-! ### A cast that ships (R274) -/

/-- The link that a source wall offers. -/
def newLink (s : State) (k : Keyspace) (ks : BitVec 32) : LinkRec :=
  { keyspace := ks, sourceWall := s.wallId, remoteWall := k.linkWall, accepted := false, lastShip := s.now,
    applied := 0, peer := farPeer 0x8000, peerW := .w0, secret := none }

theorem execShipInterval_of_unlinked {s : State} {ks : BitVec 32} {k : Keyspace} (hk : s.keyspace ks = some k) (hrole : k.role = .primary)
    (hlead : s.wall.arm.role = .leader) (hlink : s.link ks = none) :
    exec (.shipInterval ks) s
      = .next ((s.drawn 48).offerLink (newLink s k ks) k.linkContact (scalarOf (freeBytes s.fresh 48))) := by
  have hgo : ¬ (s.wall.arm.role ≠ .leader || k.role ≠ .primary) = true := by simp [hlead, hrole]
  change execShipInterval ks s = _
  unfold execShipInterval
  rw [hk]
  dsimp only
  rw [if_neg hgo, hlink]
  rfl

/-- The leader's state with the cast that it takes for shipping noted. -/
def State.castTaken (s : State) (l : LinkRec) (ks : BitVec 32) : State :=
  let s1 := s.putLink { l with lastShip := s.now }
  s1.modRefs (fun f => { f with
    ships := f.ships ++
      [{ keyspace := ks, sourceCast := s1.nextCastId, time := s1.hybrid .w0, begun := false, applied := false, staged := [] }] })

theorem execShipInterval_of_linked {s : State} {ks : BitVec 32} {k : Keyspace} {l : LinkRec} (hk : s.keyspace ks = some k)
    (hrole : k.role = .primary) (hlead : s.wall.arm.role = .leader) (hlink : s.link ks = some l) (hacc : l.accepted = true)
    (hdue : l.lastShip + k.shipS * 1000000000 ≤ s.now) (hroom : s.castsFull ks = false) :
    exec (.shipInterval ks) s
      = .next ((s.castTaken l ks).propose (.castNew s.nextCastId ks (s.hybrid .w0) s.myId 0)).lead_ := by
  have hgo : ¬ (s.wall.arm.role ≠ .leader || k.role ≠ .primary) = true := by simp [hlead, hrole]
  have hsince : s.since l.lastShip (sec k.shipS) = true := (State.since_sec ..).mpr hdue
  have hfull : (s.putLink { l with lastShip := s.now }).castsFull ks = false := (State.castsFull_congr (s := s) rfl rfl ks).trans hroom
  change execShipInterval ks s = _
  unfold execShipInterval
  rw [hk]
  dsimp only
  rw [if_neg hgo, hlink]
  dsimp only
  rw [if_neg (by simp [hacc]), if_neg (by simp [hsince]), if_neg (by simp [hfull])]
  rfl

/-! ### Records that the remote wall needs (R275) -/

/-- A range of a record is asked of the data member at its fragment's index. -/
theorem mem_dataAsks {s : State} {segs : List (Nat × Nat × Nat)} {g : Nat × Nat × Nat} {i : Nat} (h : (g, i) ∈ segs.zipIdx) :
    ({ seg := i, idx := fragIndex g.1, brick := (s.holderOf g.1).getD 0xFFFF, pending := false, at_ := s.now } : RangeAsk)
      ∈ s.dataAsks segs := List.mem_map.mpr ⟨(g, i), h, rfl⟩

/-- Of a record whose every range is under way at its own fragment nothing more is asked. -/
theorem State.moreAsks_dataAsks {s t : State} {segs : List (Nat × Nat × Nat)} {parts : List (Nat × Nat × Bytes)} {bad : List Nat}
    {first : List Nat → List Nat} : t.moreAsks segs (s.dataAsks segs) parts bad first = some [] := by
  have hone : ∀ g ∈ segs.zipIdx, t.segAsks (s.dataAsks segs) parts bad first g = some [] := by
    rintro ⟨g, i⟩ hg
    have hout : fragIndex g.1 ∈ ((s.dataAsks segs).filter (fun a => a.seg = i)).map (fun a => a.idx) :=
      List.mem_map.mpr ⟨_, List.mem_filter.mpr ⟨mem_dataAsks hg, decide_eq_true rfl⟩, rfl⟩
    exact if_pos (Bool.or_eq_true_iff.mpr (.inr (List.contains_iff_mem.mpr hout)))
  unfold State.moreAsks
  revert hone
  generalize segs.zipIdx = l
  intro hone
  induction l with
  | nil => rfl
  | cons g l ih =>
    rw [List.foldl_cons, hone g (List.mem_cons_self ..)]
    exact ih fun x hx => hone x (List.mem_cons_of_mem _ hx)

/-- The record that is gathered for the other wall. -/
def State.shipRepair (s : State) (w : Wy) (ks : BitVec 32) (ent : RecipeEntry) (dest : ShipTo) : RepairRec :=
  { n := s.nextRepair, ship := some dest, w := w, keyspace := ks, ent := ent, used := [], viaData := true,
    asked := s.dataAsks (segsOf s.wall.settings.fragBytes ent.place), parts := [], bad := [], body := [], st := .reading }

theorem State.repair_lt_nextRepair {s : State} {r : RepairRec} (h : r ∈ s.stripes.repairs) : r.n < s.nextRepair :=
  (le_foldl_max (fun r : RepairRec => r.n + 1) s.stripes.repairs 0).2 r h

/-- The record is among those gathered, and its ranges are asked for. -/
def State.shipAsked (s : State) (w : Wy) (ks : BitVec 32) (ent : RecipeEntry) (dest : ShipTo) : State :=
  let r := s.shipRepair w ks ent dest
  r.asked.foldl (fun t a => t.sendRange w (segsOf s.wall.settings.fragBytes ent.place) .repair (repairCookie + r.n) a)
    { s with stripes := { s.stripes with repairs := s.stripes.repairs ++ [r] } }

theorem State.startShip_eq (s : State) (w : Wy) (ks : BitVec 32) (ent : RecipeEntry) (dest : ShipTo) :
    s.startShip w ks ent dest = (s.shipAsked w ks ent dest).pumpRepair s.nextRepair := rfl

theorem State.shipAsked_stripes {s : State} {w : Wy} {ks : BitVec 32} {ent : RecipeEntry} {dest : ShipTo} :
    (s.shipAsked w ks ent dest).stripes = { s.stripes with repairs := s.stripes.repairs ++ [s.shipRepair w ks ent dest] } := by
  have hkeeps : Keeps [.mortar, .pcie, .regs]
      { s with stripes := { s.stripes with repairs := s.stripes.repairs ++ [s.shipRepair w ks ent dest] } } (s.shipAsked w ks ent dest) :=
    .foldl (fun _ _ => State.sendRange_keeps) .refl
  exact hkeeps.stripes_eq (by decide)

theorem State.shipAsked_wall {s : State} {w : Wy} {ks : BitVec 32} {ent : RecipeEntry} {dest : ShipTo} :
    (s.shipAsked w ks ent dest).wall = s.wall := by
  have hkeeps : Keeps [.mortar, .pcie, .regs]
      { s with stripes := { s.stripes with repairs := s.stripes.repairs ++ [s.shipRepair w ks ent dest] } } (s.shipAsked w ks ent dest) :=
    .foldl (fun _ _ => State.sendRange_keeps) .refl
  exact hkeeps.wall_eq (by decide)

theorem State.startShip_asks_once {s : State} {w : Wy} {ks : BitVec 32} {ent : RecipeEntry} {dest : ShipTo} :
    s.startShip w ks ent dest = (s.shipAsked w ks ent dest).modRepair s.nextRepair (fun r => { r with asked := r.asked ++ [] }) := by
  have hfind : (s.shipAsked w ks ent dest).stripes.repairs.find? (fun r => r.n = s.nextRepair) = some (s.shipRepair w ks ent dest) := by
    have hnone : s.stripes.repairs.find? (fun r => r.n = s.nextRepair) = none := by
      refine List.find?_eq_none.mpr fun r hr => ?_
      simpa using (State.repair_lt_nextRepair hr).ne
    rw [State.shipAsked_stripes, List.find?_append, hnone, Option.none_or, List.find?_cons_of_pos]
    exact decide_eq_true rfl
  rw [State.startShip_eq, State.pumpRepair, hfind]
  dsimp only
  rw [State.shipAsked_wall, State.shipRepair, State.moreAsks_dataAsks]
  rfl

/-- The record is being gathered for its destination. -/
def State.shipsTo (s : State) (ent : RecipeEntry) (dest : ShipTo) : Prop := ∃ r ∈ s.stripes.repairs, r.ent = ent ∧ r.ship = some dest

theorem State.startShip_ships {s : State} {w : Wy} {ks : BitVec 32} {ent : RecipeEntry} {dest : ShipTo} :
    (s.startShip w ks ent dest).shipsTo ent dest := by
  rw [State.startShip_asks_once]
  have hin : s.shipRepair w ks ent dest ∈ (s.shipAsked w ks ent dest).stripes.repairs := by
    rw [State.shipAsked_stripes]
    exact List.mem_append_right _ (List.mem_singleton.mpr rfl)
  generalize s.shipAsked w ks ent dest = t at hin ⊢
  have hmap : ((t.modRepair s.nextRepair (fun r => { r with asked := r.asked ++ [] })).stripes.repairs.map fun r => (r.ent, r.ship))
      = t.stripes.repairs.map fun r => (r.ent, r.ship) := map_core_updFirst (f := fun r : RepairRec => { r with asked := r.asked ++ [] })
      (g := fun r : RepairRec => (r.ent, r.ship)) (fun _ => rfl) _
  have hpair : (ent, some dest) ∈ t.stripes.repairs.map fun r => (r.ent, r.ship) := List.mem_map.mpr ⟨_, hin, rfl⟩
  rw [← hmap] at hpair
  obtain ⟨r, hr, hpair⟩ := List.mem_map.mp hpair
  exact ⟨r, hr, congrArg Prod.fst hpair, congrArg Prod.snd hpair⟩

theorem State.startShip_sends {s : State} {w : Wy} {ks : BitVec 32} {ent : RecipeEntry} {dest : ShipTo} {g : Nat × Nat × Nat}
    (hup : s.holdup = none) (hg : g ∈ segsOf s.wall.settings.fragBytes ent.place) :
    .mortar w ((s.holderOf g.1).getD 0xFFFF) (wyOfGroup (fragGroup g.1))
      (.rangeRead (stripeOf g.1 + fragIndex g.1) g.2.1 g.2.2 false .repair (repairCookie + s.nextRepair)) ∈ (s.startShip w ks ent dest).out := by
  refine State.pumpRepair_keeps.mem_out ?_
  obtain ⟨i, hget⟩ := List.mem_iff_getElem?.mp hg
  have hi : (g, i) ∈ (segsOf s.wall.settings.fragBytes ent.place).zipIdx := List.mem_zipIdx_iff_getElem?.mpr hget
  refine mem_out_foldl (l := [.mortar, .pcie, .regs]) (fun t => t.holdup = none) (fun _ _ => State.sendRange_keeps) ?_ (mem_dataAsks hi) ?_ hup
  · exact fun t a ht => (State.sendRange_keeps.holdup_eq (by decide)).trans ht
  · intro t ht
    unfold State.sendRange
    rw [hget]
    exact State.mortarOut_sends ht

/-- What REPL_NEED does for one fingerprint where the partition has one record. -/
def State.needOne (s : State) (p : Nat) (ks : BitVec 32) (e : RecipeEntry) (dest : ShipTo) (fp : Bytes) : State :=
  if e.fp = fp then
    if s.stripes.repairs.any (fun r => r.ship = some dest && r.ent = e) then s else s.startShip (s.holder p) ks e dest
  else s

theorem State.needOne_ships {s : State} {p : Nat} {ks : BitVec 32} {e : RecipeEntry} {dest : ShipTo} :
    (s.needOne p ks e dest e.fp).shipsTo e dest := by
  unfold State.needOne
  rw [if_pos rfl]
  split
  · next h =>
    obtain ⟨r, hr, h⟩ := List.any_eq_true.mp h
    simp only [Bool.and_eq_true, decide_eq_true_eq] at h
    exact ⟨r, hr, h.2, h.1⟩
  · exact State.startShip_ships

theorem State.needOne_of_new {s : State} {p : Nat} {ks : BitVec 32} {e : RecipeEntry} {dest : ShipTo}
    (hnew : ∀ r ∈ s.stripes.repairs, r.ship ≠ some dest) : s.needOne p ks e dest e.fp = s.startShip (s.holder p) ks e dest := by
  unfold State.needOne
  rw [if_pos rfl, if_neg]
  intro h
  obtain ⟨r, hr, h⟩ := List.any_eq_true.mp h
  simp only [Bool.and_eq_true, decide_eq_true_eq] at h
  exact hnew r hr h.1

/-- A list of fingerprints that holds the record's asks for it once. -/
theorem foldl_needOne {s : State} {p : Nat} {ks : BitVec 32} {e : RecipeEntry} {dest : ShipTo} {fps : List Bytes} (hfp : e.fp ∈ fps) :
    fps.foldl (fun s fp => s.needOne p ks e dest fp) s = s.needOne p ks e dest e.fp := by
  have hidle : ∀ (t : State) (fp : Bytes), t.shipsTo e dest → t.needOne p ks e dest fp = t := by
    rintro t fp ⟨r, hr, hent, hship⟩
    unfold State.needOne
    split
    · exact if_pos (List.any_eq_true.mpr ⟨r, hr, by simp [hent, hship]⟩)
    · rfl
  have hstay : ∀ (l : List Bytes) (t : State), t.shipsTo e dest → l.foldl (fun s fp => s.needOne p ks e dest fp) t = t := by
    intro l
    induction l with
    | nil => exact fun _ _ => rfl
    | cons fp l ih =>
      intro t ht
      rw [List.foldl_cons, hidle t fp ht]
      exact ih t ht
  induction fps generalizing s with
  | nil => exact nomatch hfp
  | cons a l ih =>
    rw [List.foldl_cons]
    by_cases ha : e.fp = a
    · subst ha
      exact hstay l _ State.needOne_ships
    · rw [State.needOne, if_neg ha]
      exact ih ((List.mem_cons.mp hfp).resolve_left ha)

theorem State.doReplNeed_of_one {s : State} {h : MHead} {p cast : Nat} {fps : List Bytes} {x : KeyHist} {v : ValueVer} {e : RecipeEntry}
    (hindex : s.store.index = [x]) (hp : partOf x.keyspace x.key = p) (hvers : x.versions = [v]) (hchunks : v.chunks = [e]) :
    s.doReplNeed h p cast fps
      = fps.foldl (fun s fp => s.needOne p x.keyspace e { p := p, sourceCast := cast, dst := farPeer h.src, dstW := h.srcW } fp) s := by
  unfold State.doReplNeed
  simp only [hindex, List.flatMap_cons, List.flatMap_nil, hp, if_true, hvers, hchunks, List.append_nil, List.map_cons, List.map_nil]
  congr 1
  funext t fp
  unfold State.needOne
  by_cases hfp : e.fp = fp
  · rw [if_pos hfp, List.find?_cons_of_pos (by exact decide_eq_true hfp)]
  · rw [if_neg hfp, List.find?_cons_of_neg (by exact fun h => hfp (of_decide_eq_true h)), List.find?_nil]

theorem exec_replNeed {s : State} {w : Wy} {h : MHead} {p cast seq : Nat} {fps : List Bytes} {x : KeyHist} {v : ValueVer} {e : RecipeEntry}
    (hears : s.hears w = true) (hfp : e.fp ∈ fps) (hindex : s.store.index = [x]) (hp : partOf x.keyspace x.key = p)
    (hvers : x.versions = [v]) (hchunks : v.chunks = [e]) :
    exec (.replNeed w h p cast seq fps) s
      = .next ((s.heardFar w h).needOne p x.keyspace e { p := p, sourceCast := cast, dst := farPeer h.src, dstW := h.srcW } e.fp) := by
  have hi : (s.heardFar w h).store.index = [x] := by
    rw [State.heardFar_keeps.store_eq (by decide)]
    exact hindex
  exact congrArg Host.Outcome.next ((State.mortarAny_of_hears hears).trans
    ((State.doReplNeed_of_one hi hp hvers hchunks).trans (foldl_needOne hfp)))

end Sys2Proof.Machine
end

section
/-! PROOFS. What a remote home stages, and the settlement of replication (R275-R277). -/

namespace Sys2Proof.Machine

/-! ### What a remote home stages -/

/-- A staged record without the stage it stands at. -/
def StagedRec.core (x : StagedRec) : StagedRec := { x with record := none, wait := [], staged := false }

/-- The staged records are the same but for the stages they stand at. -/
def StagedKeep (s t : State) : Prop := t.refs.staged.map StagedRec.core = s.refs.staged.map StagedRec.core

theorem StagedKeep.refl {s : State} : StagedKeep s s := rfl

theorem StagedKeep.step {s t u : State} (h2 : StagedKeep t u) (h : StagedKeep s t) : StagedKeep s u := Eq.trans h2 h

theorem StagedKeep.of_refs {s t u : State} (hrefs : u.refs = t.refs) (h : StagedKeep s t) : StagedKeep s u :=
  .step (congrArg (fun r : Refs => r.staged.map StagedRec.core) hrefs) h

theorem StagedKeep.keep {s t u : State} {l : List Part} (hk : Keeps l t u) (hl : .refs ∉ l) (h : StagedKeep s t) : StagedKeep s u :=
  .of_refs (hk.refs_eq hl) h

theorem StagedKeep.modRefs {s t : State} {f : Refs → Refs} (hf : (f t.refs).staged = t.refs.staged) (h : StagedKeep s t) :
    StagedKeep s (t.modRefs f) := .step (congrArg (List.map StagedRec.core) hf) h

theorem StagedKeep.updFirst {s t : State} {f : Refs → Refs} {p : StagedRec → Bool} {g : StagedRec → StagedRec}
    (hf : (f t.refs).staged = updFirst p g t.refs.staged) (hg : ∀ y, p y = true → (g y).core = y.core) (h : StagedKeep s t) :
    StagedKeep s (t.modRefs f) := by
  refine .step ?_ h
  change (f t.refs).staged.map StagedRec.core = _
  rw [hf]
  induction t.refs.staged with
  | nil => rfl
  | cons a l ih =>
    unfold Machine.updFirst
    split
    · next ha => rw [List.map_cons, List.map_cons, hg a ha]
    · rw [List.map_cons, List.map_cons, ih]

theorem StagedKeep.foldl {α : Type} {l : List α} {f : State → α → State} {s t : State} (hf : ∀ u a, StagedKeep u (f u a))
    (h : StagedKeep s t) : StagedKeep s (l.foldl f t) := by
  induction l generalizing t with
  | nil => exact h
  | cons a l ih => exact ih (.step (hf t a) h)

theorem StagedKeep.ite {c : Prop} [Decidable c] {s t u : State} (ht : StagedKeep s t) (hu : StagedKeep s u) :
    StagedKeep s (if c then t else u) := by
  split
  · exact ht
  · exact hu

theorem State.land_staged {s : State} {w : Wy} {x : StagedRec} {chunk : Nat} {key : Option Nat} {fp : Bytes} {plain : Nat} {codec : Codec}
    {data aad : Bytes} : StagedKeep s (s.land w x chunk key fp plain codec data aad) := by
  unfold State.land
  exact .keep State.queueCrypt_keeps (by decide) (.modRefs rfl .refl)

theorem State.landInline_staged {s : State} {w : Wy} {x : StagedRec} {i : Nat} {k : OfferKey} : StagedKeep s (s.landInline w x i k) := by
  unfold State.landInline
  split
  · exact .refl
  · exact .ite State.land_staged .refl

theorem State.sendBatch_staged {s : State} {b : DeltaBatch} : StagedKeep s (s.sendBatch b) := by
  unfold State.sendBatch
  extract_lets s1
  have hs1 : StagedKeep s s1 := .modRefs rfl .refl
  split
  · exact hs1
  · exact .keep State.mortarOut_keeps (by decide) hs1

theorem State.addDeltaTo_staged {s : State} {p g : Nat} {recount : Bool} {e : DeltaEntry} : StagedKeep s (s.addDeltaTo p g recount e) := by
  unfold State.addDeltaTo
  extract_lets isOpen seq fresh s1
  have hs1 : StagedKeep s s1 := .ite (.modRefs rfl .refl) (.modRefs rfl .refl)
  split
  · exact .ite (.step State.sendBatch_staged hs1) hs1
  · exact hs1

theorem State.addDeltas_staged {s : State} {p : Nat} {l : List DeltaEntry} : StagedKeep s (s.addDeltas p l) :=
  .foldl (fun _ _ => State.addDeltaTo_staged) .refl

theorem State.answerQueries_staged {s : State} : StagedKeep s s.answerQueries := by
  unfold State.answerQueries
  exact .foldl (fun _ _ => .keep State.mortarOut_keeps (by decide) .refl) (.modRefs rfl .refl)

theorem State.stagedWhole_staged {s : State} {x : StagedRec} : StagedKeep s (s.stagedWhole x) := by
  unfold State.stagedWhole
  extract_lets w b conf s1
  have hs1 : StagedKeep s s1 := .updFirst rfl (fun _ _ => rfl) .refl
  exact .step State.answerQueries_staged (.keep State.toArmature_keeps (by decide)
    (.keep State.mortarOut_keeps (by decide) (.step State.addDeltas_staged hs1)))

theorem State.stagedDone_staged {s : State} {w : Wy} {x : StagedRec} : StagedKeep s (s.stagedDone w x) := by
  unfold State.stagedDone
  extract_lets inl r e s1 wait x2 s2 s3
  split
  · exact .refl
  have hs1 : StagedKeep s s1 := .ite .refl (.keep State.storeRec_keeps (by decide) .refl)
  have hs2 : StagedKeep s s2 := by
    refine .updFirst rfl (fun y hy => ?_) hs1
    rw [of_decide_eq_true hy]
    rfl
  have hs3 : StagedKeep s s3 := .ite hs2 (.foldl (fun _ _ => .keep State.toPart_keeps (by decide) .refl) hs2)
  exact .ite (.step State.stagedWhole_staged hs3) hs3

/-- The record that a remote home stages for an offer. -/
def offeredRec (h : MHead) (p : Nat) (last : Bool) (ks : BitVec 32) (cast seq : Nat) (keys : List OfferKey) : StagedRec :=
  let asked := keys.flatMap (fun k => k.recipe.map (fun e => e.fp))
  { p := p, keyspace := ks, sourceCast := cast, offer := seq, last := last, keys := keys, asked := asked,
    unprobed := List.range asked.length, need := [], places := [], src := farPeer h.src, inlines := [],
    record := none, wait := [], staged := false }

theorem State.doReplOffer_stages {s : State} {w : Wy} {h : MHead} {p : Nat} {last : Bool} {ks : BitVec 32} {cast seq : Nat}
    {keys : List OfferKey} (hhome : s.isHome p = true) (hks : (s.keyspace ks).any (fun k => k.role = .secondary) = true)
    (hnew : s.refs.staged.find? (fun x => x.p = p && x.sourceCast = cast && x.offer = seq) = none) :
    ∃ x ∈ (s.doReplOffer w h p last ks cast seq keys).refs.staged, x.core = (offeredRec h p last ks cast seq keys).core := by
  have hkeep : StagedKeep (s.modRefs (fun r => { r with staged := r.staged ++ [offeredRec h p last ks cast seq keys] }))
      (s.doReplOffer w h p last ks cast seq keys) := by
    unfold State.doReplOffer
    rw [if_neg (by simp [hhome, hks]), hnew]
    extract_lets asked x s0 s1 probes
    have hs1 : StagedKeep s0 s1 := .foldl (fun _ _ => .ite .refl State.landInline_staged) .refl
    exact .step State.stagedDone_staged (.step State.addDeltas_staged hs1)
  have hin : (offeredRec h p last ks cast seq keys).core
      ∈ (s.modRefs (fun r => { r with staged := r.staged ++ [offeredRec h p last ks cast seq keys] })).refs.staged.map StagedRec.core :=
    List.mem_map.mpr ⟨_, List.mem_append_right _ (List.mem_singleton.mpr rfl), rfl⟩
  rw [← hkeep] at hin
  exact List.mem_map.mp hin

/-- The sequence up to which a partition has staged without a gap is not below the offer's. -/
theorem le_foldl_staged {l : List Nat} {c : Nat → Bool} {n : Nat} : n ≤ l.foldl (fun a _ => if c a then a + 1 else a) n := by
  induction l generalizing n with
  | nil => exact Nat.le_refl n
  | cons a l ih =>
    refine Nat.le_trans ?_ ih
    dsimp only
    split <;> omega

theorem State.doReplOffer_of_staged {s : State} {w : Wy} {h : MHead} {p : Nat} {last : Bool} {ks : BitVec 32} {cast seq : Nat}
    {keys : List OfferKey} {x : StagedRec} (hhome : s.isHome p = true) (hks : (s.keyspace ks).any (fun k => k.role = .secondary) = true)
    (hx : s.refs.staged.find? (fun x => x.p = p && x.sourceCast = cast && x.offer = seq) = some x) (hst : x.staged = true) :
    s.doReplOffer w h p last ks cast seq keys = s.stagedThrough w h x := by
  unfold State.doReplOffer
  rw [if_neg (by simp [hhome, hks]), hx]
  exact if_pos hst

theorem State.stagedThrough_answers {s : State} {w : Wy} {h : MHead} {x : StagedRec} (hup : s.holdup = none) :
    ∃ top all_, x.offer ≤ top ∧ .mortar w (farPeer h.src) h.srcW (.replStaged x.p x.sourceCast top all_) ∈ (s.stagedThrough w h x).out :=
  ⟨_, _, le_foldl_staged (c := fun a => (s.refs.staged.filter _).any (fun y => y.offer = a + 1)), State.mortarOut_sends hup⟩

/-! ### Bytes of another wall's record land (R275) -/

/-- A landed record and its job. -/
structure Landed (w : Wy) (x : StagedRec) (n : Nat) (fp data : Bytes) (s : State) : Prop where
  lands : ∃ y ∈ s.refs.lands, y.p = x.p ∧ y.requestId = stagedRid x ∧ y.chunk = n ∧ y.fp = fp ∧ y.key = none
    ∧ ∃ j ∈ (s.wy w).cip.jobs, j.ref = .land y.n ∧ j.encrypt = true ∧ j.prio = 3 ∧ j.keyspace = x.keyspace ∧ j.ver = 0 ∧ j.input = data

theorem State.queueCrypt_jobs {s : State} {w : Wy} {ref : JobRef} {c : Fin 16} {encrypt : Bool} {ks : BitVec 32} {ver prio : Nat}
    {input aad iv tag : Bytes} : ∃ j, ((s.queueCrypt w ref c encrypt ks ver prio input aad iv tag).wy w).cip.jobs = (s.wy w).cip.jobs ++ [j]
      ∧ j.ref = ref ∧ j.encrypt = encrypt ∧ j.prio = prio ∧ j.keyspace = ks ∧ j.ver = ver ∧ j.input = input := by
  unfold State.queueCrypt
  extract_lets now
  rw [State.modCip_wy]
  exact ⟨_, rfl, rfl, rfl, rfl, rfl, rfl, rfl⟩

/-- The record of bytes that land. -/
def State.landed (s : State) (w : Wy) (x : StagedRec) (chunk : Nat) (key : Option Nat) (fp : Bytes) (plain : Nat) (codec : Codec) : LandRec :=
  { n := s.refs.lands.foldl (fun a r => max a (r.n + 1)) 0, w := w, p := x.p, keyspace := x.keyspace, requestId := stagedRid x,
    chunk := chunk, key := key, fp := fp, plain := plain, codec := codec, body := [], sentAt := s.now }

theorem State.land_wy {s : State} {w : Wy} {x : StagedRec} {chunk : Nat} {key : Option Nat} {fp : Bytes} {plain : Nat} {codec : Codec}
    {data aad : Bytes} :
    (s.land w x chunk key fp plain codec data aad).refs.lands = s.refs.lands ++ [s.landed w x chunk key fp plain codec]
      ∧ ∃ j, ((s.land w x chunk key fp plain codec data aad).wy w).cip.jobs = (s.wy w).cip.jobs ++ [j]
        ∧ j.ref = .land (s.landed w x chunk key fp plain codec).n ∧ j.encrypt = true ∧ j.prio = 3 ∧ j.keyspace = x.keyspace ∧ j.ver = 0
        ∧ j.input = data := by
  unfold State.land
  extract_lets n s1
  have hcip : (s1.wy w).cip.jobs = (s.wy w).cip.jobs := rfl
  constructor
  · rw [State.queueCrypt_keeps.refs_eq (by decide)]
    rfl
  · obtain ⟨j, hjobs, hj⟩ := State.queueCrypt_jobs (s := s1) (w := w) (ref := .land n) (c := (s1.leastLoaded w .crypt courses).getD 0)
      (encrypt := true) (ks := x.keyspace) (ver := 0) (prio := 3) (input := data) (aad := aad) (iv := []) (tag := [])
    exact ⟨j, hjobs.trans (by rw [hcip]), hj⟩

/-- Every missing chunk of a staged record lands once. -/
theorem foldl_land {w : Wy} {x : StagedRec} {n plain : Nat} {codec : Codec} {fp data aad : Bytes} {l : List Nat} {s : State} (hn : n ∈ l) :
    Landed w x n fp data (l.foldl (fun s n => s.land w x n none fp plain codec data aad) s) := by
  have hstay : ∀ (l : List Nat) (t : State), Landed w x n fp data t →
      Landed w x n fp data (l.foldl (fun s n => s.land w x n none fp plain codec data aad) t) := by
    intro l
    induction l with
    | nil => exact fun _ h => h
    | cons a l ih =>
      rintro t ⟨y, hy, hp, hrid, hc, hfp, hk, j, hj, hjob⟩
      obtain ⟨hlands, j2, hjobs, -⟩ := State.land_wy (s := t) (w := w) (x := x) (chunk := a) (key := none) (fp := fp)
        (plain := plain) (codec := codec) (data := data) (aad := aad)
      refine ih _ ⟨y, ?_, hp, hrid, hc, hfp, hk, j, ?_, hjob⟩
      · rw [hlands]
        exact List.mem_append_left _ hy
      · rw [hjobs]
        exact List.mem_append_left _ hj
  induction l generalizing s with
  | nil => exact nomatch hn
  | cons a l ih =>
    rw [List.foldl_cons]
    rcases List.mem_cons.mp hn with rfl | hn
    · obtain ⟨hlands, j, hjobs, hjob⟩ := State.land_wy (s := s) (w := w) (x := x) (chunk := n) (key := none) (fp := fp)
        (plain := plain) (codec := codec) (data := data) (aad := aad)
      refine hstay l _ ⟨_, ?_, rfl, rfl, rfl, rfl, rfl, j, ?_, hjob⟩
      · rw [hlands]
        exact List.mem_append_right _ (List.mem_singleton.mpr rfl)
      · rw [hjobs]
        exact List.mem_append_right _ (List.mem_singleton.mpr rfl)
    · exact ih hn

theorem State.doReplChunk_lands {s : State} {w : Wy} {p cast plain n : Nat} {codec : Codec} {fp iv sealed_ link data : Bytes} {x : StagedRec}
    (hstaged : s.refs.staged = [x]) (hp : x.p = p) (hcast : x.sourceCast = cast) (hopen : x.staged = false) (hneed : n ∈ x.need)
    (hasked : x.asked[n]? = some fp) (hlink : s.linkKey x.keyspace = some link)
    (hgcm : gcmOpen link iv (shipAad p cast plain (sealed_.length - 16) codec fp) (sealed_.take (sealed_.length - 16))
      (sealed_.drop (sealed_.length - 16)) = (data, true))
    (hfree : ∀ y ∈ s.refs.lands, ¬ (y.p = p ∧ y.requestId = stagedRid x ∧ y.chunk = n)) :
    Landed w x n fp data (s.doReplChunk w p cast plain codec fp iv sealed_) := by
  unfold State.doReplChunk
  extract_lets stored
  have hmine : s.refs.staged.filter (fun x => x.p = p && x.sourceCast = cast && !x.staged) = [x] := by
    rw [hstaged, List.filter_cons_of_pos (by simp [hp, hcast, hopen]), List.filter_nil]
  rw [hmine, List.foldl_cons, List.foldl_nil, hlink]
  dsimp only
  rw [hgcm, if_neg (by simp)]
  refine foldl_land (List.mem_filter.mpr ⟨hneed, ?_⟩)
  have hnone : s.refs.lands.any (fun y => y.p = p && y.requestId = stagedRid x && y.chunk = n && y.key.isNone) = false := by
    refine List.any_eq_false.mpr fun y hy => ?_
    intro h
    simp only [Bool.and_eq_true, decide_eq_true_eq] at h
    exact hfree y hy ⟨h.1.1.1, h.1.1.2, h.1.2⟩
  rw [hnone]
  simp [hasked]

/-! ### The remote leader (R276) -/

theorem State.nextOffer_of_all {s : State} {p cast seq : Nat} : s.nextOffer p cast seq true = s := by
  unfold State.nextOffer
  split
  · exact if_pos rfl
  · rfl

theorem State.nextCastId_congr {s t : State} (hwall : t.wall = s.wall) : t.nextCastId = s.nextCastId := by
  unfold State.nextCastId State.castsToCome State.uncommitted
  rw [hwall]

/-- The cast's record with one more partition. -/
def State.noteShip (s : State) (x : ShipRec) (p : Nat) : State :=
  s.modRefs (fun f => { f with ships := updFirst (fun y => y = x) (fun y => { y with staged := x.staged ++ [p] }) f.ships })

theorem State.doReplStaged_of_new {s : State} {p cast : Nat} {x : ShipRec} {l : LinkRec} (hlead : s.wall.arm.role = .leader)
    (hships : s.refs.ships = [x]) (hcast : x.sourceCast = cast) (hopen : x.applied = false) (hl : l ∈ s.refs.links)
    (hks : l.keyspace = x.keyspace) (hwall : l.remoteWall = s.wallId) (hp : p ∉ x.staged) :
    s.doReplStaged p cast true = if x.staged.length + 1 < 65536 then s.noteShip x p
      else ((s.noteShip x p).propose (.castApplied (s.noteShip x p).nextCastId x.keyspace x.time cast)).lead_ := by
  have hfind : s.refs.ships.find? (fun x => x.sourceCast = cast && !x.applied
      && s.refs.links.any (fun l => l.keyspace = x.keyspace && l.remoteWall = s.wallId)) = some x := by
    have hany : s.refs.links.any (fun l => l.keyspace = x.keyspace && l.remoteWall = s.wallId) = true :=
      List.any_eq_true.mpr ⟨l, hl, by simp [hks, hwall]⟩
    rw [hships, List.find?_cons_of_pos]
    rw [hany]
    simp [hcast, hopen]
  have hc : x.staged.contains p = false := by simpa using hp
  unfold State.doReplStaged
  rw [if_neg (by simp [hlead]), hfind]
  simp only [hc, Bool.false_eq_true, if_false, List.length_append, List.length_singleton, Bool.or_false, decide_eq_true_eq]
  rfl

theorem State.noteShip_ships {s : State} {x : ShipRec} {p : Nat} (hships : s.refs.ships = [x]) :
    (s.noteShip x p).refs.ships = [{ x with staged := x.staged ++ [p] }] := by
  change updFirst (fun y => decide (y = x)) (fun y => { y with staged := x.staged ++ [p] }) s.refs.ships = _
  rw [hships, updFirst, if_pos (decide_eq_true rfl)]

end Sys2Proof.Machine

namespace Sys2Proof

open Sys2Proof.Machine

/-- Settles O23, clause by clause: a message is handled on the state whose clock it has raised, with its sender's address noted; what a record
gathered for the other wall still needs is nothing, and an offered record stays staged whatever its stage. -/
theorem replicationActs : Obligations.ReplicationActs := by
  unfold Obligations.ReplicationActs
  intro w h s hears
  have hup : s.holdup = none := State.holdup_of_hears hears
  have hfar : (s.heardFar w h).holdup = none := (State.heardFar_keeps.holdup_eq (by decide)).trans hup
  have hfstore : (s.heardFar w h).store = s.store := State.heardFar_keeps.store_eq (by decide)
  have hfwall : (s.heardFar w h).wall = s.wall := State.heardFar_keeps.wall_eq (by decide)
  have hrefs : (s.seeHlc w h.hlc).refs = s.refs := State.seeHlc_refs ..
  have hfks : ∀ ks, (s.heardFar w h).keyspace ks = s.keyspace ks := fun ks => by rw [State.keyspace, hfstore, State.keyspace]
  have hfhome : ∀ p, (s.heardFar w h).isHome p = s.isHome p := by
    intro p
    unfold State.isHome State.partEntry
    rw [hfstore, hfwall]
  have hfstaged : (s.heardFar w h).refs.staged = s.refs.staged := by
    rw [← hrefs]
    rfl
  have hfholder : ∀ p, (s.heardFar w h).holder p = s.holder p := fun p => State.seeHlc_holder ..
  have hfholderOf : ∀ f, (s.heardFar w h).holderOf f = s.holderOf f := fun f => by
    unfold State.holderOf State.row
    rw [hfwall]
  refine ⟨?_, ?_, ?_, ?_, ?_, ?_, ?_, ?_, ?_⟩
  · intro r key hkind hmine
    have hmine' : r.sourceWall = (s.seeHlc w h.hlc).wallId ∨ r.remoteWall = (s.seeHlc w h.hlc).wallId := by
      rw [State.wallId, State.seeHlc_wall]
      exact hmine
    refine runs_intro (congrArg Host.Outcome.next ((State.mortarAny_of_hears hears).trans (State.doReplLink_of_refused hkind hmine'))) ?_
    exact fun l hl => of_decide_eq_true (List.mem_filter.mp hl).2
  · intro r key hkind hmine hlead hpolicy
    have hexec := exec_replLink_offer (h := h) (key := key) hears hkind hmine hlead
    constructor
    · intro hr
      rw [State.linkOffer_of_unsound hr] at hexec
      refine runs_intro hexec ⟨_, State.refuseLink_sends hfar, rfl, rfl, ?_⟩
      rw [State.refuseLink_keeps.refs_eq (by decide)]
      rw [← hrefs]
      rfl
    · intro hr hsome
      obtain ⟨k, hk⟩ := Option.isSome_iff_exists.mp hsome
      obtain ⟨hrole, hlink⟩ := hpolicy k (List.mem_of_find?_eq_some hk) (of_decide_eq_true (List.find?_some (p := fun k : Keyspace => k.id = r.keyspace) hk))
      exact runs_intro hexec (State.linkOffer_answers hr ⟨by rw [State.wallId, hfwall]; exact hmine, k, (hfks _).trans hk, hrole, hlink⟩ hfar)
  · intro ks k hk hrole hlead hlink
    obtain ⟨r, hr, hkind, hks, hsrc, hrem, heph⟩ := State.linkHello_sends (s := (s.drawn 48).noteFar 0x8000 k.linkContact)
      (kind := .linkOffer) (l := newLink s k ks) (e := scalarOf (freeBytes s.fresh 48)) hup
    refine runs_intro (execShipInterval_of_unlinked hk hrole hlead hlink) ⟨_, r, hr, hkind, hks, hsrc, hrem, heph, ?_⟩
    have hmade : ((s.drawn 48).offerLink (newLink s k ks) k.linkContact (scalarOf (freeBytes s.fresh 48))).link ks = _ :=
      State.linkHello_link (l := newLink s k ks)
    rw [hmade]
    simp [newLink]
  · intro ks k l hk hrole hlead hlink hacc hdue hroom
    refine runs_intro (execShipInterval_of_linked hk hrole hlead hlink hacc hdue hroom) (State.lead_logged ?_)
    exact hlead
  · intro p cast seq fp fps x v e hfp hindex hp hvers hchunks he
    subst he
    refine runs_intro (exec_replNeed hears hfp hindex hp hvers hchunks) ?_
    have hsame : (s.heardFar w h).stripes = s.stripes := State.heardFar_keeps.stripes_eq (by decide)
    constructor
    · exact State.needOne_ships
    · intro hnone g hg
      rw [State.needOne_of_new (by rw [hsame]; exact hnone)]
      have hsends := State.startShip_sends (s := s.heardFar w h) (w := (s.heardFar w h).holder p) (ks := x.keyspace) (ent := e)
        (dest := { p := p, sourceCast := cast, dst := farPeer h.src, dstW := h.srcW }) (g := g) hfar (by rw [hfwall]; exact hg)
      rw [hfholder, hfholderOf, State.nextRepair, hsame, ← State.nextRepair] at hsends
      rw [hfholder]
      exact hsends
  · intro p cast seq last ks keys k hhome hk hrole hnew
    have hfind : (s.heardFar w h).refs.staged.find? (fun x => x.p = p && x.sourceCast = cast && x.offer = seq) = none := by
      rw [hfstaged]
      refine List.find?_eq_none.mpr fun x hx hm => ?_
      simp only [Bool.and_eq_true, decide_eq_true_eq] at hm
      exact hnew x hx ⟨hm.1.1, hm.1.2, hm.2⟩
    obtain ⟨x, hx, hcore⟩ := State.doReplOffer_stages (w := w) (h := h) (last := last) (keys := keys) ((hfhome p).trans hhome)
      (by rw [hfks, hk]; exact decide_eq_true hrole) hfind
    refine runs_intro (congrArg Host.Outcome.next (State.mortarAny_of_hears hears)) ⟨x, hx, ?_⟩
    exact ⟨congrArg StagedRec.p hcore, congrArg StagedRec.sourceCast hcore, congrArg StagedRec.offer hcore, congrArg StagedRec.keys hcore,
      congrArg StagedRec.src hcore⟩
  · intro p cast seq last ks keys k x hhome hk hrole hx hst
    have heq := State.doReplOffer_of_staged (s := s.heardFar w h) (w := w) (h := h) (last := last) (keys := keys) ((hfhome p).trans hhome)
      (by rw [hfks, hk]; exact decide_eq_true hrole) (by rw [hfstaged]; exact hx) hst
    refine runs_intro (congrArg Host.Outcome.next ((State.mortarAny_of_hears hears).trans heq)) ?_
    obtain ⟨hp, hcast, hseq⟩ : x.p = p ∧ x.sourceCast = cast ∧ x.offer = seq := by
      have hm := List.find?_some (p := fun x : StagedRec => x.p = p && x.sourceCast = cast && x.offer = seq) hx
      simp only [Bool.and_eq_true, decide_eq_true_eq] at hm
      exact ⟨hm.1.1, hm.1.2, hm.2⟩
    subst hp hcast hseq
    exact State.stagedThrough_answers hfar
  · intro p cast plain n codec fp iv sealed_ link data x hstaged hp hcast hopen hneed hasked hlink hgcm hfree
    refine runs_intro (congrArg Host.Outcome.next (State.mortarAny_of_hears hears)) ?_
    rw [← hrefs] at hstaged hfree
    rw [State.linkKey, ← hrefs] at hlink
    obtain ⟨y, hy, hyp, hland⟩ := (State.doReplChunk_lands (w := w) hstaged hp hcast hopen hneed hasked hlink hgcm hfree).lands
    exact ⟨y, hy, hyp.trans hp, hland⟩
  · intro p cast seq x l hlead hships hcast hopen hl hks hwall hp
    rw [← hrefs] at hships hl
    have hw : (s.seeHlc w h.hlc).wall = s.wall := State.seeHlc_wall ..
    have heq := State.doReplStaged_of_new (by rw [hw]; exact hlead) hships hcast hopen hl hks (by rw [State.wallId, hw]; exact hwall) hp
    have hexec : exec (.replStaged w h p cast seq true) s = .next ((s.seeHlc w h.hlc).doReplStaged p cast true) :=
      congrArg Host.Outcome.next ((State.mortarAny_of_hears hears).trans (by rw [State.nextOffer_of_all]))
    rw [heq] at hexec
    refine runs_intro hexec ⟨fun hlt => ?_, fun hge => ?_⟩
    · rw [if_pos hlt]
      exact State.noteShip_ships hships
    · rw [if_neg (Nat.not_lt.mpr hge)]
      have hnext : s.nextCastId = ((s.seeHlc w h.hlc).noteShip x p).nextCastId := by
        exact (State.nextCastId_congr hw).symm
      rw [hnext]
      exact State.lead_logged ((congrArg (fun x : Wall => x.arm.role) hw).trans hlead)

end Sys2Proof
end

section
/-! PROOFS. What stays of a set of dies: its superblocks where no superblock is written, and its map with its journal until a round is
durable. -/

namespace Sys2Proof.Machine

/-- The journal of a set's map: the map, its records and its segments. -/
def SetSt.journal (x : SetSt) : List Extent × List JRec × Nat × List Seg × Nat := (x.map, x.unflushed, x.nextSeg, x.segs, x.deltaBytes)

/-- The superblocks of a set and its journal. -/
def SetSt.written (x : SetSt) : List SuperBlk × Nat × List Extent × List JRec × Nat × List Seg × Nat := (x.sbs, x.nextSb, x.journal)

/-! ### Superblocks -/

/-- The superblocks of both sets are the same, and their journals. -/
def SbsKeep (s t : State) : Prop := ∀ i, (t.set_ i).written = (s.set_ i).written

theorem SbsKeep.refl {s : State} : SbsKeep s s := fun _ => rfl

theorem SbsKeep.step {s t u : State} (k : SbsKeep t u) (h : SbsKeep s t) : SbsKeep s u := fun i => (k i).trans (h i)

theorem SbsKeep.keep {l : List Part} {s t u : State} (k : Keeps l t u) (hl : l.contains .media = false) (h : SbsKeep s t) : SbsKeep s u := by
  have e : u.media = t.media := k.part .media (by simpa using hl)
  exact .step (fun i => by rw [State.set_, e, State.set_]) h

theorem SbsKeep.modMedia {s t : State} {f : Media → Media}
    (hf : ∀ m, (f m).set0.written = m.set0.written ∧ (f m).set1.written = m.set1.written) (h : SbsKeep s t) : SbsKeep s (t.modMedia f) := by
  obtain ⟨h0, h1⟩ := hf t.media
  refine .step (fun i => ?_) h
  simp only [State.set_, State.modMedia_media]
  split
  · exact h0
  · exact h1

theorem SbsKeep.modSet {s t : State} {i : Nat} {f : SetSt → SetSt} (hf : ∀ x, (f x).written = x.written) (h : SbsKeep s t) :
    SbsKeep s (t.modSet i f) := by
  refine h.modMedia fun m => ?_
  split
  · exact ⟨hf _, rfl⟩
  · exact ⟨rfl, hf _⟩

theorem SbsKeep.foldl {α : Type} {s u : State} {f : State → α → State} {xs : List α} (hf : ∀ v a, SbsKeep v (f v a))
    (h : SbsKeep s u) : SbsKeep s (xs.foldl f u) := by
  induction xs generalizing u with
  | nil => exact h
  | cons a xs ih => exact ih ((hf u a).step h)

theorem SbsKeep.ite {s t u : State} {c : Prop} [Decidable c] (ht : SbsKeep s t) (hu : SbsKeep s u) : SbsKeep s (if c then t else u) := by
  split
  · exact ht
  · exact hu

theorem State.modDie_sbs {s : State} {d : Nat} {f : DieSt → DieSt} :
    SbsKeep s (State.modDie s d f) := by
  unfold State.modDie
  try dsimp only
  repeat' first
    | with_reducible exact SbsKeep.refl
    | with_reducible apply SbsKeep.modMedia
    | rfl
    | (intro _; exact ⟨rfl, rfl⟩)

theorem State.modBlk_sbs {s : State} {k : Nat} {f : Blk → Blk} :
    SbsKeep s (State.modBlk s k f) := by
  unfold State.modBlk
  try dsimp only
  repeat' first
    | with_reducible exact SbsKeep.refl
    | with_reducible apply SbsKeep.modMedia
    | rfl
    | (intro _; exact ⟨rfl, rfl⟩)

theorem State.modCh_sbs {s : State} {id : Nat} {f : ChJob → ChJob} :
    SbsKeep s (State.modCh s id f) := by
  unfold State.modCh
  try dsimp only
  repeat' first
    | with_reducible exact SbsKeep.refl
    | with_reducible apply SbsKeep.modMedia
    | rfl
    | (intro _; exact ⟨rfl, rfl⟩)

theorem State.startOp_sbs {s : State} {j : ChJob} :
    SbsKeep s (State.startOp s j) := by
  unfold State.startOp
  try dsimp only
  repeat' first
    | with_reducible exact SbsKeep.refl
    | with_reducible apply SbsKeep.keep State.bump_keeps
    | with_reducible apply SbsKeep.modMedia
    | with_reducible apply SbsKeep.keep State.bumpBy_keeps
    | with_reducible apply SbsKeep.step State.modCh_sbs
    | with_reducible apply SbsKeep.keep State.chResult_keeps
    | rfl
    | (intro _; exact ⟨rfl, rfl⟩)
    | split

theorem State.grantMin_sbs {s : State} {w : Wy} {panel : Nat} {cls : List Nat} :
    SbsKeep s (State.grantMin s w panel cls) := by
  unfold State.grantMin
  try dsimp only
  repeat' first
    | with_reducible exact SbsKeep.refl
    | with_reducible apply SbsKeep.step State.startOp_sbs
    | rfl
    | split

theorem State.grantRest_sbs {s : State} {w : Wy} {panel : Nat} {x1 : List (List Nat)} :
    SbsKeep s (State.grantRest s w panel x1) := by
  induction x1 generalizing s with
  | nil => exact .refl
  | cons a l ih =>
    unfold State.grantRest
    try dsimp only
    repeat' first
      | with_reducible apply SbsKeep.refl
      | with_reducible assumption
      | with_reducible apply SbsKeep.step ih
      | with_reducible apply SbsKeep.step State.startOp_sbs
      | rfl
      | split

theorem State.grantDump_sbs {s : State} {panel : Nat} :
    SbsKeep s (State.grantDump s panel) := by
  unfold State.grantDump
  try dsimp only
  repeat' first
    | with_reducible exact SbsKeep.refl
    | with_reducible apply SbsKeep.step State.startOp_sbs
    | (with_reducible apply SbsKeep.foldl; intro _ _; try dsimp only)
    | rfl
    | split

theorem State.grant_sbs {s : State} {w : Wy} {panel : Nat} :
    SbsKeep s (State.grant s w panel) := by
  unfold State.grant
  try dsimp only
  repeat' first
    | with_reducible exact SbsKeep.refl
    | with_reducible apply SbsKeep.step State.grantMin_sbs
    | with_reducible apply SbsKeep.step State.grantRest_sbs
    | with_reducible apply SbsKeep.step State.grantDump_sbs
    | (with_reducible apply SbsKeep.foldl; intro _ _; try dsimp only)
    | rfl
    | split

theorem State.nextRead_sbs {s : State} {op : ChJob} :
    SbsKeep s (State.nextRead s op) := by
  unfold State.nextRead
  try dsimp only
  repeat' first
    | with_reducible exact SbsKeep.refl
    | with_reducible apply SbsKeep.step State.modCh_sbs
    | rfl
    | split

theorem State.trySuspend_sbs {s : State} {op : ChJob} :
    SbsKeep s (State.trySuspend s op) := by
  unfold State.trySuspend
  try dsimp only
  repeat' first
    | with_reducible exact SbsKeep.refl
    | with_reducible apply SbsKeep.keep State.bump_keeps
    | with_reducible apply SbsKeep.step State.modCh_sbs
    | with_reducible apply SbsKeep.step State.nextRead_sbs
    | rfl
    | split

theorem State.suspendDue_sbs {s : State} :
    SbsKeep s (State.suspendDue s) := by
  unfold State.suspendDue
  try dsimp only
  repeat' first
    | with_reducible exact SbsKeep.refl
    | with_reducible apply SbsKeep.step State.trySuspend_sbs
    | (with_reducible apply SbsKeep.foldl; intro _ _; try dsimp only)

theorem State.chTake_sbs {s : State} {j : ChJob} :
    SbsKeep s (State.chTake s j) := by
  unfold State.chTake
  try dsimp only
  repeat' first
    | with_reducible exact SbsKeep.refl
    | with_reducible apply SbsKeep.keep State.bump_keeps
    | with_reducible apply SbsKeep.modMedia
    | with_reducible apply SbsKeep.step State.modCh_sbs
    | with_reducible apply SbsKeep.keep State.chResult_keeps
    | with_reducible apply SbsKeep.step State.grant_sbs
    | with_reducible apply SbsKeep.step State.suspendDue_sbs
    | rfl
    | (intro _; exact ⟨rfl, rfl⟩)
    | split

theorem State.submit_sbs {s : State} {w : Wy} {rt : Routine} {r : ChReq} {what : ChFor} :
    SbsKeep s (State.submit s w rt r what) := by
  unfold State.submit
  try dsimp only
  repeat' first
    | with_reducible exact SbsKeep.refl
    | with_reducible apply SbsKeep.keep State.bump_keeps
    | with_reducible apply SbsKeep.modMedia
    | with_reducible apply SbsKeep.step State.chTake_sbs
    | with_reducible apply SbsKeep.keep State.event_keeps
    | rfl
    | (intro _; exact ⟨rfl, rfl⟩)
    | split

theorem State.armErase_sbs {s : State} {e : EraseNote} :
    SbsKeep s (State.armErase s e) := by
  unfold State.armErase
  try dsimp only
  repeat' first
    | with_reducible exact SbsKeep.refl
    | with_reducible apply SbsKeep.step State.modBlk_sbs
    | (with_reducible apply SbsKeep.foldl; intro _ _; try dsimp only)

theorem State.anchorRaw_sbs {s : State} {i : Nat} {r : AnchorRec} :
    SbsKeep s (State.anchorRaw s i r) := by
  unfold State.anchorRaw
  try dsimp only
  repeat' first
    | with_reducible exact SbsKeep.refl
    | with_reducible apply SbsKeep.keep State.bump_keeps
    | with_reducible apply SbsKeep.modSet
    | rfl
    | (intro _; rfl)

theorem State.reserveSeq_sbs {s : State} {i : Nat} :
    SbsKeep s (State.reserveSeq s i) := by
  unfold State.reserveSeq
  try dsimp only
  repeat' first
    | with_reducible exact SbsKeep.refl
    | with_reducible apply SbsKeep.step State.anchorRaw_sbs
    | with_reducible apply SbsKeep.modSet
    | rfl
    | (intro _; rfl)
    | split

theorem State.takeSeq_sbs {s : State} {i : Nat} :
    SbsKeep s (State.takeSeq s i) := by
  unfold State.takeSeq
  try dsimp only
  repeat' first
    | with_reducible exact SbsKeep.refl
    | with_reducible apply SbsKeep.modSet
    | with_reducible apply SbsKeep.step State.reserveSeq_sbs
    | rfl
    | (intro _; rfl)

theorem State.tableSlice_sbs {s : State} {i : Nat} :
    SbsKeep s (State.tableSlice s i) := by
  unfold State.tableSlice
  try dsimp only
  repeat' first
    | with_reducible exact SbsKeep.refl
    | with_reducible apply SbsKeep.step State.anchorRaw_sbs
    | with_reducible apply SbsKeep.step State.reserveSeq_sbs
    | rfl
    | split

theorem State.anchorRec_sbs {s : State} {i : Nat} {r : AnchorRec} :
    SbsKeep s (State.anchorRec s i r) := by
  unfold State.anchorRec
  try dsimp only
  repeat' first
    | with_reducible exact SbsKeep.refl
    | with_reducible apply SbsKeep.step State.tableSlice_sbs
    | with_reducible apply SbsKeep.step State.anchorRaw_sbs
    | with_reducible apply SbsKeep.step State.reserveSeq_sbs
    | with_reducible apply SbsKeep.step State.armErase_sbs
    | rfl
    | split

theorem State.slcMarks_sbs {s : State} {i : Nat} :
    SbsKeep s (State.slcMarks s i) := by
  unfold State.slcMarks
  try dsimp only
  repeat' first
    | with_reducible exact SbsKeep.refl
    | with_reducible apply SbsKeep.keep State.medBits_keeps
    | with_reducible apply SbsKeep.modSet
    | with_reducible apply SbsKeep.keep State.event_keeps
    | rfl
    | (intro _; rfl)
    | split

theorem State.retireBlock_sbs {s : State} {die plane block cause : Nat} :
    SbsKeep s (State.retireBlock s die plane block cause) := by
  unfold State.retireBlock
  try dsimp only
  repeat' first
    | with_reducible exact SbsKeep.refl
    | with_reducible apply SbsKeep.step State.modBlk_sbs
    | with_reducible apply SbsKeep.step State.modDie_sbs
    | with_reducible apply SbsKeep.step State.anchorRec_sbs
    | with_reducible apply SbsKeep.keep State.earlyWarn_keeps
    | rfl
    | split

theorem State.retireDie_sbs {s : State} {d cause : Nat} :
    SbsKeep s (State.retireDie s d cause) := by
  unfold State.retireDie
  try dsimp only
  repeat' first
    | with_reducible exact SbsKeep.refl
    | with_reducible apply SbsKeep.step State.modDie_sbs
    | with_reducible apply SbsKeep.step State.anchorRec_sbs
    | with_reducible apply SbsKeep.keep State.earlyWarn_keeps
    | with_reducible apply SbsKeep.modSet
    | rfl
    | (intro _; rfl)
    | split

theorem State.dieUncorr_sbs {s : State} {d : Nat} :
    SbsKeep s (State.dieUncorr s d) := by
  unfold State.dieUncorr
  try dsimp only
  repeat' first
    | with_reducible exact SbsKeep.refl
    | with_reducible apply SbsKeep.step State.modDie_sbs
    | with_reducible apply SbsKeep.step State.retireDie_sbs
    | rfl
    | split

theorem State.parityUsed_sbs {s : State} {k : Nat} :
    SbsKeep s (State.parityUsed s k) := by
  unfold State.parityUsed
  try dsimp only
  repeat' first
    | with_reducible exact SbsKeep.refl
    | with_reducible apply SbsKeep.step State.modDie_sbs
    | with_reducible apply SbsKeep.step State.modBlk_sbs

theorem State.moveReserve_sbs {s : State} {i die plane : Nat} :
    SbsKeep s (State.moveReserve s i die plane) := by
  unfold State.moveReserve
  split
  · exact .modSet (fun _ => rfl) .refl
  · exact .refl

theorem State.retireOut_sbs {s : State} {i die plane block cause : Nat} :
    SbsKeep s (State.retireOut s i die plane block cause) := by
  unfold State.retireOut
  try dsimp only
  repeat' first
    | with_reducible exact SbsKeep.refl
    | with_reducible apply SbsKeep.step State.moveReserve_sbs
    | with_reducible apply SbsKeep.step State.retireBlock_sbs
    | rfl
    | split

theorem State.reserveDone_sbs {s : State} {i : Nat} :
    SbsKeep s (State.reserveDone s i) := by
  unfold State.reserveDone
  try dsimp only
  repeat' first
    | with_reducible exact SbsKeep.refl
    | with_reducible apply SbsKeep.modSet
    | with_reducible apply SbsKeep.keep State.medBits_keeps
    | rfl
    | (intro _; rfl)
    | split

theorem State.eraseReserve_sbs {s : State} {i die : Nat} :
    SbsKeep s (State.eraseReserve s i die) := by
  unfold State.eraseReserve
  try dsimp only
  repeat' first
    | with_reducible exact SbsKeep.refl
    | with_reducible apply SbsKeep.step State.retireOut_sbs
    | with_reducible apply SbsKeep.step State.anchorRec_sbs
    | with_reducible apply SbsKeep.step State.modBlk_sbs
    | with_reducible apply SbsKeep.step State.submit_sbs
    | (with_reducible apply SbsKeep.foldl; intro _ _; try dsimp only)
    | rfl
    | split

theorem State.reserveStep_sbs {s : State} {i : Nat} :
    SbsKeep s (State.reserveStep s i) := by
  unfold State.reserveStep
  try dsimp only
  repeat' first
    | with_reducible exact SbsKeep.refl
    | with_reducible apply SbsKeep.step State.reserveDone_sbs
    | with_reducible apply SbsKeep.step State.eraseReserve_sbs
    | with_reducible apply SbsKeep.modSet
    | (with_reducible apply SbsKeep.foldl; intro _ _; try dsimp only)
    | rfl
    | (intro _; rfl)
    | split

theorem State.retireSpent_sbs {s : State} {i : Nat} :
    SbsKeep s (State.retireSpent s i) := by
  unfold State.retireSpent
  try dsimp only
  repeat' first
    | with_reducible exact SbsKeep.refl
    | with_reducible apply SbsKeep.step State.retireDie_sbs
    | (with_reducible apply SbsKeep.foldl; intro _ _; try dsimp only)

/-! ### The map's journal -/

/-- The journals of both sets are the same. -/
def JournalKeep (s t : State) : Prop := ∀ i, (t.set_ i).journal = (s.set_ i).journal

theorem JournalKeep.refl {s : State} : JournalKeep s s := fun _ => rfl

theorem JournalKeep.step {s t u : State} (k : JournalKeep t u) (h : JournalKeep s t) : JournalKeep s u := fun i => (k i).trans (h i)

theorem JournalKeep.keep {l : List Part} {s t u : State} (k : Keeps l t u) (hl : l.contains .media = false) (h : JournalKeep s t) : JournalKeep s u := by
  have e : u.media = t.media := k.part .media (by simpa using hl)
  exact .step (fun i => by rw [State.set_, e, State.set_]) h

theorem JournalKeep.modMedia {s t : State} {f : Media → Media}
    (hf : ∀ m, (f m).set0.journal = m.set0.journal ∧ (f m).set1.journal = m.set1.journal) (h : JournalKeep s t) : JournalKeep s (t.modMedia f) := by
  obtain ⟨h0, h1⟩ := hf t.media
  refine .step (fun i => ?_) h
  simp only [State.set_, State.modMedia_media]
  split
  · exact h0
  · exact h1

theorem JournalKeep.modSet {s t : State} {i : Nat} {f : SetSt → SetSt} (hf : ∀ x, (f x).journal = x.journal) (h : JournalKeep s t) :
    JournalKeep s (t.modSet i f) := by
  refine h.modMedia fun m => ?_
  split
  · exact ⟨hf _, rfl⟩
  · exact ⟨rfl, hf _⟩

theorem JournalKeep.foldl {α : Type} {s u : State} {f : State → α → State} {xs : List α} (hf : ∀ v a, JournalKeep v (f v a))
    (h : JournalKeep s u) : JournalKeep s (xs.foldl f u) := by
  induction xs generalizing u with
  | nil => exact h
  | cons a xs ih => exact ih ((hf u a).step h)

theorem JournalKeep.ite {s t u : State} {c : Prop} [Decidable c] (ht : JournalKeep s t) (hu : JournalKeep s u) : JournalKeep s (if c then t else u) := by
  split
  · exact ht
  · exact hu

theorem JournalKeep.sbs {s t u : State} (k : SbsKeep t u) (h : JournalKeep s t) : JournalKeep s u :=
  .step (fun i => congrArg (fun p : List SuperBlk × Nat × List Extent × List JRec × Nat × List Seg × Nat => p.2.2) (k i)) h

theorem State.modSb_journal {s : State} {i sb : Nat} {f : SuperBlk → SuperBlk} :
    JournalKeep s (State.modSb s i sb f) := by
  unfold State.modSb
  try dsimp only
  repeat' first
    | with_reducible exact JournalKeep.refl
    | with_reducible apply JournalKeep.modSet
    | rfl
    | (intro _; rfl)

theorem State.modRound_journal {s : State} {i sb wl : Nat} {f : Round → Round} :
    JournalKeep s (State.modRound s i sb wl f) := by
  unfold State.modRound
  try dsimp only
  repeat' first
    | with_reducible exact JournalKeep.refl
    | with_reducible apply JournalKeep.step State.modSb_journal

theorem State.openSb_journal {s t : State} {i row : Nat} {st : Stream} (h : State.openSb s i row st = some t) :
    JournalKeep s t := by
  unfold State.openSb at h
  dsimp only at h
  split at h
  · cases h
  · obtain ⟨b, -, rfl⟩ := Option.map_eq_some_iff.mp h
    repeat' first
      | with_reducible apply JournalKeep.refl
      | with_reducible assumption
      | with_reducible apply JournalKeep.sbs State.modBlk_sbs
      | with_reducible apply JournalKeep.modSet
      | with_reducible apply JournalKeep.sbs State.anchorRec_sbs
      | (with_reducible apply JournalKeep.foldl; intro _ _; try dsimp only)
      | rfl
      | (intro _; rfl)

theorem State.openSome_journal {s t : State} {i : Nat} {st : Stream} (h : State.openSome s i st = some t) : JournalKeep s t := by
  unfold State.openSome at h
  dsimp only at h
  split at h
  · exact .step (State.openSb_journal h) (.keep State.used_keeps rfl .refl)
  · cases h

theorem State.beginRound_journal {s : State} {i : Nat} {b : SuperBlk} {cls : Nat} :
    JournalKeep s (State.beginRound s i b cls) := by
  unfold State.beginRound
  try dsimp only
  repeat' first
    | with_reducible exact JournalKeep.refl
    | with_reducible apply JournalKeep.modSet
    | with_reducible apply JournalKeep.step State.modSb_journal
    | rfl
    | (intro _; rfl)

theorem State.closeRound_journal {s : State} {i sb : Nat} :
    JournalKeep s (State.closeRound s i sb) := by
  unfold State.closeRound
  try dsimp only
  repeat' first
    | with_reducible exact JournalKeep.refl
    | with_reducible apply JournalKeep.keep State.bumpBy_keeps
    | with_reducible apply JournalKeep.step State.modRound_journal
    | with_reducible apply JournalKeep.sbs State.takeSeq_sbs
    | with_reducible apply JournalKeep.sbs State.submit_sbs
    | (with_reducible apply JournalKeep.foldl; intro _ _; try dsimp only)
    | rfl
    | split

theorem State.takesUnit_journal {s t : State} {i : Nat} {st : Stream} {b : SuperBlk} (h : State.takesUnit s i st = some (t, b)) :
    JournalKeep s t := by
  unfold State.takesUnit at h
  dsimp only at h
  split at h
  · cases h
    exact .refl
  · split at h
    · rename_i hv
      obtain ⟨c, -, he⟩ := Option.map_eq_some_iff.mp h
      cases he
      split at hv
      · exact State.openSome_journal hv
      · cases hv
    · obtain ⟨c, -, he⟩ := Option.map_eq_some_iff.mp h
      cases he
      split
      · exact .refl
      · exact .keep State.used_keeps rfl .refl

theorem State.fillUnit_journal {s : State} {i cls : Nat} {b : SuperBlk} {u : UnitRef} :
    JournalKeep s (State.fillUnit s i cls b u) := by
  unfold State.fillUnit
  try dsimp only
  repeat' first
    | with_reducible exact JournalKeep.refl
    | with_reducible apply JournalKeep.step State.beginRound_journal
    | with_reducible apply JournalKeep.step State.modSb_journal
    | with_reducible apply JournalKeep.step State.closeRound_journal
    | rfl
    | split

theorem State.placeUnit_journal {s t : State} {i : Nat} {st : Stream} {cls : Nat} {u : UnitRef}
    (h : State.placeUnit s i st cls u = some t) : JournalKeep s t := by
  obtain ⟨e, he, rfl⟩ := Option.map_eq_some_iff.mp h
  exact .step State.fillUnit_journal (.step (State.takesUnit_journal (b := e.2) he) .refl)

theorem State.placeUnits_journal {s : State} {i : Nat} {st : Stream} {cls : Nat} {x1 : List UnitRef} :
    JournalKeep s (State.placeUnits s i st cls x1) := by
  induction x1 generalizing s with
  | nil => exact .sbs State.slcMarks_sbs .refl
  | cons a l ih =>
    unfold State.placeUnits
    try dsimp only
    repeat' first
      | with_reducible apply JournalKeep.refl
      | with_reducible assumption
      | with_reducible apply JournalKeep.step ih
      | with_reducible apply JournalKeep.step (State.placeUnit_journal (by assumption))
      | with_reducible apply JournalKeep.step (State.placeUnit_journal (by assumption))
      | with_reducible apply JournalKeep.modSet
      | with_reducible apply JournalKeep.sbs State.slcMarks_sbs
      | rfl
      | (intro _; rfl)
      | split

theorem State.closeSb_journal {s : State} {i sb : Nat} {short : Bool} :
    JournalKeep s (State.closeSb s i sb short) := by
  unfold State.closeSb
  try dsimp only
  repeat' first
    | with_reducible exact JournalKeep.refl
    | with_reducible apply JournalKeep.sbs State.anchorRec_sbs
    | with_reducible apply JournalKeep.step State.modSb_journal

theorem State.closeFull_journal {s : State} {i : Nat} :
    JournalKeep s (State.closeFull s i) := by
  unfold State.closeFull
  try dsimp only
  repeat' first
    | with_reducible exact JournalKeep.refl
    | with_reducible apply JournalKeep.step State.closeSb_journal
    | (with_reducible apply JournalKeep.foldl; intro _ _; try dsimp only)

theorem State.eraseDie_journal {s : State} {i : Nat} {b : SuperBlk} {cause die : Nat} :
    JournalKeep s (State.eraseDie s i b cause die) := by
  unfold State.eraseDie
  try dsimp only
  repeat' first
    | with_reducible exact JournalKeep.refl
    | with_reducible apply JournalKeep.sbs State.modBlk_sbs
    | with_reducible apply JournalKeep.sbs State.retireBlock_sbs
    | with_reducible apply JournalKeep.sbs State.submit_sbs
    | with_reducible apply JournalKeep.sbs State.anchorRec_sbs
    | with_reducible apply JournalKeep.step State.modSb_journal
    | (with_reducible apply JournalKeep.foldl; intro _ _; try dsimp only)
    | rfl
    | split

theorem State.eraseSb_journal {s : State} {i : Nat} {b : SuperBlk} {cause : Nat} :
    JournalKeep s (State.eraseSb s i b cause) := by
  unfold State.eraseSb
  try dsimp only
  repeat' first
    | with_reducible exact JournalKeep.refl
    | with_reducible apply JournalKeep.modSet
    | with_reducible apply JournalKeep.step State.eraseDie_journal
    | with_reducible apply JournalKeep.step State.modSb_journal
    | with_reducible apply JournalKeep.keep State.recordOpen_keeps
    | (with_reducible apply JournalKeep.foldl; intro _ _; try dsimp only)
    | rfl
    | (intro _; rfl)
    | split

theorem State.placeWaiting_journal {s : State} {i : Nat} :
    JournalKeep s (State.placeWaiting s i) := by
  unfold State.placeWaiting
  try dsimp only
  repeat' first
    | with_reducible exact JournalKeep.refl
    | with_reducible apply JournalKeep.modSet
    | with_reducible apply JournalKeep.step State.placeUnits_journal
    | (with_reducible apply JournalKeep.foldl; intro _ _; try dsimp only)
    | rfl
    | (intro _; rfl)

theorem State.closeShort_journal {s : State} {i : Nat} :
    JournalKeep s (State.closeShort s i) := by
  unfold State.closeShort
  try dsimp only
  repeat' first
    | with_reducible exact JournalKeep.refl
    | with_reducible apply JournalKeep.step State.closeSb_journal
    | (with_reducible apply JournalKeep.foldl; intro _ _; try dsimp only)

theorem State.settleSet_journal {s : State} {i : Nat} :
    JournalKeep s (State.settleSet s i) := by
  unfold State.settleSet
  try dsimp only
  repeat' first
    | with_reducible exact JournalKeep.refl
    | with_reducible apply JournalKeep.sbs State.reserveStep_sbs
    | with_reducible apply JournalKeep.keep State.thinsDone_keeps
    | with_reducible apply JournalKeep.step State.closeFull_journal
    | with_reducible apply JournalKeep.step State.closeShort_journal
    | with_reducible apply JournalKeep.sbs State.retireSpent_sbs
    | with_reducible apply JournalKeep.step State.eraseSb_journal
    | with_reducible apply JournalKeep.keep State.fragsDone_keeps
    | (with_reducible apply JournalKeep.foldl; intro _ _; try dsimp only)
    | rfl

end Sys2Proof.Machine
end

section
/-! PROOFS. Upkeep of the media: collection, patrol, ages and rebuilds (R308, R323-R335, R510). -/

namespace Sys2Proof.Machine

/-! ### The superblocks of one number -/

/-- What a collection goes by: a superblock's number, whether it is in QLC mode, and whether its units are being copied. -/
def SuperBlk.key (b : SuperBlk) : Nat × Bool × Bool := (b.id, b.qlc, b.copying)

/-- The superblocks of one number in a set. -/
def SetSt.keysAt (x : SetSt) (k : Nat) : List (Nat × Bool × Bool) := (x.sbs.map SuperBlk.key).filter (fun e => e.1 = k)

/-- Of the superblocks of a number none goes and none changes its mode or its collection, and those that are opened are in QLC mode. -/
def KeyKeep (k : Nat) (s t : State) : Prop :=
  ∀ i, ∃ l, (t.set_ i).keysAt k = (s.set_ i).keysAt k ++ l ∧ ∀ e ∈ l, e.2.1 = true

theorem KeyKeep.refl {k : Nat} {s : State} : KeyKeep k s s := fun _ => ⟨[], (List.append_nil _).symm, nofun⟩

theorem KeyKeep.step {k : Nat} {s t u : State} (h2 : KeyKeep k t u) (h : KeyKeep k s t) : KeyKeep k s u := by
  intro i
  obtain ⟨l, hl, hq⟩ := h i
  obtain ⟨l2, hl2, hq2⟩ := h2 i
  refine ⟨l ++ l2, by rw [hl2, hl, List.append_assoc], fun e he => ?_⟩
  rcases List.mem_append.mp he with he | he
  · exact hq e he
  · exact hq2 e he

theorem KeyKeep.of_eq {k : Nat} {s t u : State} (hkeys : ∀ i, (u.set_ i).keysAt k = (t.set_ i).keysAt k) (h : KeyKeep k s t) : KeyKeep k s u :=
  .step (fun i => ⟨[], by rw [hkeys, List.append_nil], nofun⟩) h

theorem KeyKeep.sbs {k : Nat} {s t u : State} (hk : SbsKeep t u) (h : KeyKeep k s t) : KeyKeep k s u := by
  refine .of_eq (fun i => ?_) h
  have hsbs : (u.set_ i).sbs = (t.set_ i).sbs := congrArg Prod.fst (hk i)
  rw [SetSt.keysAt, hsbs, SetSt.keysAt]

theorem KeyKeep.keep {k : Nat} {l : List Part} {s t u : State} (hk : Keeps l t u) (hl : l.contains .media = false) (h : KeyKeep k s t) :
    KeyKeep k s u := .sbs (.keep hk hl .refl) h

/-- A set's own change. -/
theorem State.modSet_cases {s : State} {i : Nat} {f : SetSt → SetSt} (P : SetSt → SetSt → Prop) (hf : ∀ x, P x (f x)) (hr : ∀ x, P x x) (j : Nat) :
    P (s.set_ j) ((s.modSet i f).set_ j) := by
  unfold State.modSet State.set_
  rw [State.modMedia_media]
  by_cases hi : i = 0 <;> by_cases hj : j = 0 <;> simp only [hi, hj, if_true, if_false] <;>
    first | exact hf _ | exact hr _

theorem KeyKeep.modSet {k : Nat} {s t : State} {i : Nat} {f : SetSt → SetSt} (hf : ∀ x, (f x).keysAt k = x.keysAt k) (h : KeyKeep k s t) :
    KeyKeep k s (t.modSet i f) :=
  .of_eq (State.modSet_cases (fun x y => y.keysAt k = x.keysAt k) hf (fun _ => rfl)) h

theorem KeyKeep.modSb {k : Nat} {s t : State} {i sb : Nat} {f : SuperBlk → SuperBlk} (hf : ∀ b, (f b).key = b.key) (h : KeyKeep k s t) :
    KeyKeep k s (t.modSb i sb f) :=
  .modSet (fun x => congrArg (List.filter _) (map_core_updFirst hf x.sbs)) h

/-- A superblock in QLC mode is opened. -/
theorem KeyKeep.opened {k : Nat} {s t : State} {i : Nat} {f : SetSt → SetSt} (hf : ∀ x, ∃ b, b.qlc = true ∧ (f x).sbs = x.sbs ++ [b])
    (h : KeyKeep k s t) : KeyKeep k s (t.modSet i f) := by
  refine .step (State.modSet_cases (fun x y => ∃ l, y.keysAt k = x.keysAt k ++ l ∧ ∀ e ∈ l, e.2.1 = true) (fun x => ?_)
      (fun x => ⟨[], (List.append_nil _).symm, nofun⟩)) h
  obtain ⟨b, hq, hb⟩ := hf x
  refine ⟨[b.key].filter (fun e => e.1 = k), by rw [SetSt.keysAt, hb, List.map_append, List.filter_append, SetSt.keysAt]; rfl, fun e he => ?_⟩
  rw [List.mem_singleton.mp (List.mem_filter.mp he).1]
  exact hq

theorem KeyKeep.foldl {α : Type} {k : Nat} {l : List α} {f : State → α → State} {s t : State} (hf : ∀ u, ∀ a ∈ l, KeyKeep k u (f u a))
    (h : KeyKeep k s t) : KeyKeep k s (l.foldl f t) := by
  induction l generalizing t with
  | nil => exact h
  | cons a l ih => exact ih (fun u b hb => hf u b (List.mem_cons_of_mem _ hb)) (.step (hf t a (List.mem_cons_self ..)) h)

theorem KeyKeep.ite {k : Nat} {c : Prop} [Decidable c] {s t u : State} (ht : KeyKeep k s t) (hu : KeyKeep k s u) :
    KeyKeep k s (if c then t else u) := by
  split
  · exact ht
  · exact hu

/-! ### Units of a collected superblock are placed -/

theorem State.openSb_key {s t : State} {i row k : Nat} (h : s.openSb i row .qlcFrag = some t) : KeyKeep k s t := by
  unfold State.openSb at h
  dsimp only at h
  split at h
  · cases h
  · obtain ⟨blocks, -, rfl⟩ := Option.map_eq_some_iff.mp h
    exact .foldl (fun _ _ _ => .foldl (fun _ _ _ => .sbs State.modBlk_sbs .refl) .refl)
      (.opened (fun _ => ⟨_, rfl, rfl⟩) (.sbs State.anchorRec_sbs .refl))

theorem State.closeRound_key {s : State} {i sb k : Nat} : KeyKeep k s (s.closeRound i sb) := by
  unfold State.closeRound
  split
  · exact .refl
  · split
    · exact .refl
    · exact .foldl (fun _ _ _ => .sbs State.submit_sbs .refl) (.modSb (fun _ => rfl)
        (.keep State.bumpBy_keeps rfl (.sbs State.takeSeq_sbs .refl)))

theorem State.fillUnit_key {s : State} {i cls k : Nat} {b : SuperBlk} {u : UnitRef} : KeyKeep k s (s.fillUnit i cls b u) := by
  unfold State.fillUnit
  extract_lets s1 s2 full
  have hs1 : KeyKeep k s s1 := .ite .refl (.modSb (fun _ => rfl) (.modSet (fun _ => rfl) .refl))
  have hs2 : KeyKeep k s s2 := .modSb (fun _ => rfl) hs1
  exact .ite (.step State.closeRound_key hs2) hs2

theorem State.openSome_key {s t : State} {i k : Nat} (h : s.openSome i .qlcFrag = some t) : KeyKeep k s t := by
  unfold State.openSome at h
  dsimp only at h
  split at h
  · exact .step (State.openSb_key h) (.keep State.used_keeps rfl .refl)
  · cases h

theorem State.takesUnit_key {s t : State} {i k : Nat} {b : SuperBlk} (h : s.takesUnit i .qlcFrag = some (t, b)) : KeyKeep k s t := by
  unfold State.takesUnit at h
  dsimp only at h
  split at h
  · cases h
    exact .refl
  · split at h
    · next v hv =>
      obtain ⟨c, -, he⟩ := Option.map_eq_some_iff.mp h
      cases he
      split at hv
      · exact State.openSome_key hv
      · cases hv
    · obtain ⟨c, -, he⟩ := Option.map_eq_some_iff.mp h
      cases he
      exact .ite .refl (.keep State.used_keeps rfl .refl)

theorem State.placeUnits_key {s : State} {i cls k : Nat} {l : List UnitRef} : KeyKeep k s (s.placeUnits i .qlcFrag cls l) := by
  induction l generalizing s with
  | nil => exact .sbs State.slcMarks_sbs .refl
  | cons u l ih =>
    unfold State.placeUnits
    split
    · next t ht =>
      obtain ⟨e, he, rfl⟩ := Option.map_eq_some_iff.mp ht
      exact .step ih (.step State.fillUnit_key (State.takesUnit_key (b := e.2) he))
    · exact .sbs State.slcMarks_sbs (.modSet (fun _ => rfl) .refl)

/-! ### What settles a set leaves a superblock of another number -/

theorem State.closeSb_key {s : State} {i sb k : Nat} {short : Bool} : KeyKeep k s (s.closeSb i sb short) :=
  .modSb (fun _ => rfl) (.sbs State.anchorRec_sbs .refl)

theorem State.eraseDie_key {s : State} {i cause die k : Nat} {b : SuperBlk} : KeyKeep k s (s.eraseDie i b cause die) := by
  unfold State.eraseDie
  extract_lets blocks bad s1 mask s2 s3 q
  have hs1 : KeyKeep k s s1 := .foldl (fun _ _ _ => .sbs State.retireBlock_sbs .refl) .refl
  have hs3 : KeyKeep k s s3 := .foldl (fun _ _ _ => .ite (.sbs State.modBlk_sbs .refl) .refl) (.sbs State.anchorRec_sbs hs1)
  exact .ite (.modSb (fun _ => rfl) hs1) (.sbs State.submit_sbs hs3)

theorem State.eraseSb_key {s : State} {i cause k : Nat} {b : SuperBlk} (hk : b.id ≠ k) : KeyKeep k s (s.eraseSb i b cause) := by
  unfold State.eraseSb
  extract_lets s1
  have hs1 : KeyKeep k s s1 := .modSb (fun _ => rfl) .refl
  refine .ite (.keep State.recordOpen_keeps rfl .refl) (.modSet (fun x => ?_) (.foldl (fun _ _ _ => State.eraseDie_key) hs1))
  unfold SetSt.keysAt
  dsimp only
  rw [List.filter_map, List.filter_map, List.filter_filter]
  refine congrArg (List.map _) (List.filter_congr fun y _ => ?_)
  by_cases hy : y.id = k
  · have hne : y.id ≠ b.id := fun h => hk (h.symm.trans hy)
    simp [SuperBlk.key, hne]
  · simp [SuperBlk.key, hy]

/-- The state after the superblocks of a set have closed: what of it is erased. -/
def State.closedSbs (s : State) (i : Nat) : State := (s.closeFull i).closeShort i

theorem State.closedSbs_key {s : State} {i k : Nat} : KeyKeep k s (s.closedSbs i) :=
  .foldl (fun _ _ _ => State.closeSb_key) (.foldl (fun _ _ _ => State.closeSb_key) .refl)

theorem State.settleSet_key {s : State} {i k : Nat} (hk : ∀ e ∈ emptied ((s.closedSbs i).set_ i), e.1.id ≠ k) : KeyKeep k s (s.settleSet i) := by
  unfold State.settleSet
  extract_lets s1 s2
  have hs2 : KeyKeep k s s2 := .foldl (fun _ e he => State.eraseSb_key (hk e he)) State.closedSbs_key
  exact .keep State.thinsDone_keeps rfl (.keep State.fragsDone_keeps rfl (.sbs State.retireSpent_sbs (.sbs State.reserveStep_sbs hs2)))

/-! ### Live units (R311) -/

theorem mem_insertBy {α : Type} {le : α → α → Bool} {x y : α} {l : List α} (h : y ∈ insertBy le x l) : y = x ∨ y ∈ l := by
  induction l with
  | nil => exact .inl (List.mem_singleton.mp h)
  | cons z l ih =>
    unfold insertBy at h
    split at h
    · exact List.mem_cons.mp h
    · rcases List.mem_cons.mp h with rfl | h
      · exact .inr (List.mem_cons_self ..)
      · exact (ih h).imp_right (List.mem_cons_of_mem _)

theorem mem_sortBy {α : Type} {le : α → α → Bool} {y : α} {l : List α} (h : y ∈ sortBy le l) : y ∈ l := by
  induction l with
  | nil => exact h
  | cons z l ih =>
    rcases mem_insertBy h with rfl | h
    · exact List.mem_cons_self ..
    · exact List.mem_cons_of_mem _ (ih h)

theorem le_foldl_add {α : Type} (f : α → Nat) (l : List α) (n : Nat) :
    n ≤ l.foldl (fun a e => a + f e) n ∧ ∀ e ∈ l, f e ≤ l.foldl (fun a e => a + f e) n := by
  induction l generalizing n with
  | nil => simp
  | cons c l ih =>
    obtain ⟨hn, hl⟩ := ih (n + f c)
    exact ⟨(Nat.le_add_right ..).trans hn, List.forall_mem_cons.mpr ⟨(Nat.le_add_left ..).trans hn, hl⟩⟩

theorem liveUnits_ne_zero {x : SetSt} {b : SuperBlk} (h : liveRefs x b ≠ []) : liveUnits x b.id ≠ 0 := by
  obtain ⟨u, hu⟩ := List.exists_mem_of_ne_nil _ h
  obtain ⟨e, he, hu⟩ := List.mem_flatMap.mp hu
  obtain ⟨k, hk, -⟩ := List.mem_map.mp hu
  have hle : e.count ≤ liveUnits x b.id := (le_foldl_add (fun e : Extent => e.count) _ 0).2 e (mem_sortBy he)
  have := List.mem_range.mp hk
  omega

theorem emptied_of_qlc {x : SetSt} {b : SuperBlk} {cause : Nat} (h : (b, cause) ∈ emptied x) (hq : b.qlc = true) :
    liveUnits x b.id = 0 := by
  unfold emptied at h
  split at h
  · cases h
  · obtain ⟨c, -, hc⟩ := List.mem_filterMap.mp h
    split at hc
    · cases hc
    · split at hc
      · split at hc
        · next hlive =>
          cases hc
          exact (of_decide_eq_true (Bool.and_eq_true_iff.mp hlive).2)
        · cases hc
      · next hn =>
        split at hc
        · cases hc
          exact absurd hq hn
        · cases hc

theorem mem_of_emptied {x : SetSt} {b : SuperBlk} {cause : Nat} (h : (b, cause) ∈ emptied x) : b ∈ x.sbs := by
  unfold emptied at h
  split at h
  · cases h
  · obtain ⟨c, hc, he⟩ := List.mem_filterMap.mp h
    split at he
    · cases he
    · split at he
      · split at he <;> cases he
        exact hc
      · split at he <;> cases he
        exact hc

end Sys2Proof.Machine
end

section
/-! PROOFS. The settlement of the media's upkeep (R308, R323, R328, R330, R335, R510). -/

namespace Sys2Proof.Machine

/-! ### A set's own change -/

theorem State.modSet_set (s : State) (i : Nat) (f : SetSt → SetSt) : (s.modSet i f).set_ i = f (s.set_ i) := by
  unfold State.modSet State.set_
  rw [State.modMedia_media]
  by_cases hi : i = 0 <;> simp only [hi, if_true, if_false]

theorem SbsKeep.sb_eq {s t : State} (h : SbsKeep s t) (i sb : Nat) : t.sb i sb = s.sb i sb := by
  have hsbs : (t.set_ i).sbs = (s.set_ i).sbs := congrArg Prod.fst (h i)
  rw [State.sb, hsbs, State.sb]

theorem State.modSb_sb {s : State} {i sb : Nat} {f : SuperBlk → SuperBlk} (hf : ∀ b, (f b).id = b.id) :
    (s.modSb i sb f).sb i sb = (s.sb i sb).map f := by
  rw [State.sb, State.modSb, State.modSet_set]
  refine find?_updFirst (fun b hb => ?_) _
  rw [hf]
  exact hb

/-! ### Collection (R323, R324) -/

theorem SetSt.find?_of_keysAt {x : SetSt} {k : Nat} {q c : Bool} (h : (x.keysAt k).head? = some (k, q, c)) :
    ∃ y, x.sbs.find? (fun b => b.id = k) = some y ∧ y.copying = c := by
  rw [SetSt.keysAt, List.head?_filter, List.find?_map] at h
  obtain ⟨y, hy, hkey⟩ := Option.map_eq_some_iff.mp h
  exact ⟨y, hy, congrArg (fun e : Nat × Bool × Bool => e.2.2) hkey⟩

theorem SetSt.keysAt_of_find? {x : SetSt} {k : Nat} {y : SuperBlk} (h : x.sbs.find? (fun b => b.id = k) = some y) :
    (x.keysAt k).head? = some y.key := by
  rw [SetSt.keysAt, List.head?_filter, List.find?_map]
  exact congrArg (Option.map SuperBlk.key) h

/-- A victim with live units that alone has its number. -/
structure OnlyVictim (s : State) (i : Nat) (b : SuperBlk) : Prop where
  mem : b ∈ (s.set_ i).sbs
  qlc : b.qlc = true
  live : liveRefs (s.set_ i) b ≠ []
  only : ∀ c ∈ (s.set_ i).sbs, c.id = b.id → c = b

/-- A superblock whose units are being copied stays while some are live. -/
theorem State.collect_copies {s : State} {i cls : Nat} {b : SuperBlk} (h : OnlyVictim s i b) :
    ∃ y, ((s.collect i cls b).settleSet i).sb i b.id = some y ∧ y.copying = true := by
  have hfind : s.sb i b.id = some b := by
    obtain ⟨c, hc⟩ := Option.isSome_iff_exists.mp
      (List.find?_isSome.mpr ⟨b, h.mem, decide_eq_true rfl⟩ : ((s.set_ i).sbs.find? (fun x => x.id = b.id)).isSome = true)
    rw [State.sb, hc, h.only c (List.mem_of_find?_eq_some hc) (of_decide_eq_true (List.find?_some (p := fun x : SuperBlk => x.id = b.id) hc))]
  rw [State.collect, if_neg h.live]
  generalize hs1 : s.modSb i b.id (fun b => { b with copying := true }) = s1
  generalize hs2 : s1.placeUnits i .qlcFrag cls (liveRefs (s.set_ i) b) = s2
  have hhead : ((s1.set_ i).keysAt b.id).head? = some (b.id, b.qlc, true) := by
    refine SetSt.keysAt_of_find? (y := { b with copying := true }) ?_
    rw [← hs1]
    exact (State.modSb_sb (f := fun b => { b with copying := true }) (fun _ => rfl)).trans (congrArg (Option.map _) hfind)
  have hqlc1 : ∀ e ∈ (s1.set_ i).keysAt b.id, e.2.1 = true := by
    intro e he
    obtain ⟨c, hc, rfl⟩ := List.mem_map.mp (List.mem_filter.mp he).1
    have hid : c.id = b.id := of_decide_eq_true (List.mem_filter.mp he).2
    rw [← hs1, State.modSb, State.modSet_set] at hc
    rcases mem_updFirst hc with hc | ⟨d, hd, rfl⟩
    · rw [h.only c hc hid]
      exact h.qlc
    · exact (congrArg SuperBlk.qlc (h.only d hd hid)).trans h.qlc
  have hclosed : KeyKeep b.id s1 (s2.closedSbs i) := .step State.closedSbs_key (hs2 ▸ State.placeUnits_key)
  obtain ⟨l, hl, hlq⟩ := hclosed i
  have hmap : ((s2.closedSbs i).set_ i).map = (s.set_ i).map := by
    have hj : JournalKeep s (s2.closedSbs i) := by
      refine .step State.closeShort_journal (.step State.closeFull_journal ?_)
      rw [← hs2, ← hs1]
      exact .step State.placeUnits_journal State.modSb_journal
    exact congrArg Prod.fst (hj i)
  have hkeep : KeyKeep b.id s1 (s2.settleSet i) := by
    refine .step (State.settleSet_key fun e he hid => ?_) (hs2 ▸ State.placeUnits_key)
    have hin : e.1.key ∈ ((s2.closedSbs i).set_ i).keysAt b.id :=
      List.mem_filter.mpr ⟨List.mem_map.mpr ⟨e.1, mem_of_emptied he, rfl⟩, decide_eq_true hid⟩
    have hq : e.1.qlc = true := by
      rw [hl] at hin
      rcases List.mem_append.mp hin with hin | hin
      · exact hqlc1 _ hin
      · exact hlq _ hin
    have hnone := emptied_of_qlc he hq
    rw [hid, liveUnits, hmap] at hnone
    exact liveUnits_ne_zero h.live hnone
  obtain ⟨l2, hl2, -⟩ := hkeep i
  refine SetSt.find?_of_keysAt (q := b.qlc) ?_
  rw [hl2, List.head?_append, hhead, Option.some_or]

theorem execCollection_of_refresh {s : State} {i : Fin 2} {b : SuperBlk}
    (h : (victims (s.set_ i.val)).find? (fun b => b.refresh) = some b) :
    exec (.collection i) s
      = .next ((((s.upkeepBit (s.setWy i.val)).collect i.val 4 b).settleSet i.val).upkeepBit (s.setWy i.val)) := by
  change execCollection i s = _
  unfold execCollection
  extract_lets s1 x pick
  have hx : x = s.set_ i.val := State.upkeepBit_keeps.set_eq (by decide) i.val
  have hpick : pick = some b := by
    unfold pick
    rw [hx, h]
  rw [hpick]

/-! ### Patrol and ages (R330, R335) -/

theorem execPatrol_of_closed {s : State} {i : Fin 2} {sb attempts : Nat} {parity lost : List Nat} {b : SuperBlk}
    (hsb : s.sb i.val sb = some b) (hclosed : b.closed = true) :
    ∃ (s2 : State) (tired : Bool), SbsKeep s s2 ∧ (s.media.cfg.refreshAt ≤ attempts → tired = true)
      ∧ exec (.patrol i sb attempts parity lost) s
        = .next (s2.modSb i.val sb (fun b => { b with patrolAt := s.now, refresh := b.refresh || tired })) := by
  refine ⟨lost.foldl (fun s d => s.dieUncorr d) (parity.foldl (fun s k => s.parityUsed k) s),
    decide (s.media.cfg.refreshAt ≤ attempts) || parity ≠ [] || s.aged b, ?_, ?_, ?_⟩
  · exact .foldl (fun _ _ => State.dieUncorr_sbs) (.foldl (fun _ _ => State.parityUsed_sbs) .refl)
  · intro h
    rw [decide_eq_true h, Bool.true_or, Bool.true_or]
  · change execPatrol i sb attempts parity lost s = _
    unfold execPatrol
    rw [hsb]
    dsimp only
    rw [if_neg (by simp [hclosed])]

theorem State.modDie_die_of_ne {s : State} {d e : Nat} {f : DieSt → DieSt} (h : e ≠ d) : (s.modDie d f).die e = s.die e :=
  congrArg (fun o => Option.getD o DieSt.reset) (tableGet_put_ne _ _ h)

/-- Each die of a list is changed once. -/
theorem foldl_modDie {f : DieSt → DieSt} {l : List Nat} (hl : l.Nodup) (s : State) (d : Nat) :
    (l.foldl (fun s d => s.modDie d f) s).die d = if d ∈ l then f (s.die d) else s.die d := by
  induction l generalizing s with
  | nil => simp
  | cons a l ih =>
    obtain ⟨ha, hl⟩ := List.nodup_cons.mp hl
    rw [List.foldl_cons, ih hl]
    by_cases hd : d = a
    · subst hd
      rw [if_neg ha, if_pos (List.mem_cons_self ..), State.modDie_die]
    · rw [State.modDie_die_of_ne hd]
      simp only [List.mem_cons, hd, false_or]

theorem State.refreshAged_die (s : State) (i d : Nat) : (s.refreshAged i).die d = s.die d := State.modSet_die ..

theorem State.anchorRaw_mem (s : State) (i : Nat) (r : AnchorRec) : ∃ e ∈ ((s.anchorRaw i r).set_ i).anchor, e.2 = r := by
  have hset : (s.anchorRaw i r).set_ i = (s.modSet i (fun x => { x with anchor := x.anchor ++ [(x.seqNext, r)], seqNext := x.seqNext + 1 })).set_ i :=
    State.bump_keeps.set_eq (by decide) i
  rw [hset, State.modSet_set]
  exact ⟨_, List.mem_append_right _ (List.mem_singleton.mpr rfl), rfl⟩

/-! ### Rebuilds (R308, R328) -/

theorem execDieRebuild_of_done {s : State} {i : Fin 2} {d : Nat} {l : List Nat} {lost : List (Nat × Nat × Nat)}
    (hl : (s.set_ i.val).dieRebuild = d :: l) (hout : ∀ b ∈ (s.set_ i.val).sbs, d ∈ b.dies → b.stream = .slcJournal) :
    ∃ (s5 : State) (left : List Nat), d ∉ left
      ∧ exec (.dieRebuild i lost) s = .next (s5.modSet i.val (fun x => { x with dieRebuild := left, rebuildRanges := [] })) := by
  have hon : ∀ b ∈ (s.set_ i.val).sbs, (b.dies.contains d && decide (b.stream ≠ .slcJournal)) = false := by
    intro b hb
    by_cases hd : d ∈ b.dies
    · simp [hout b hb hd]
    · simp [hd]
  suffices h : ∃ (s5 : State) (left : List Nat), d ∉ left
      ∧ execDieRebuild i lost s = .next (s5.modSet i.val (fun x => { x with dieRebuild := left, rebuildRanges := [] })) from h
  unfold execDieRebuild
  split
  · next hnil => exact absurd (hnil.symm.trans hl) (List.cons_ne_nil _ _).symm
  next d' l' hl' =>
  obtain ⟨rfl, rfl⟩ := List.cons.inj (hl'.symm.trans hl)
  extract_lets on todo s1 f s2 s3 s4 left s5
  have htodo : todo = [] := List.filter_eq_nil_iff.mpr fun b hb => by
    simp only [on, hon b hb, Bool.false_and, Bool.false_eq_true, not_false_eq_true]
  have hsbs : (s3.set_ i.val).sbs = (s.set_ i.val).sbs := by
    have hs1 : s1 = s := by
      unfold s1
      rw [htodo]
      rfl
    have hs2 : s2.set_ i.val = s1.set_ i.val :=
      (Keeps.foldl (fun _ _ => State.selfRebuild_keeps) .refl : Keeps [.stripes] s1 s2).set_eq (by decide) i.val
    rw [State.modSet_set, hs2, hs1]
  refine ⟨s5, left, fun h => ?_, ?_⟩
  · exact of_decide_eq_true (List.mem_filter.mp h).2 rfl
  · rw [if_neg]
    rw [hsbs]
    intro h
    obtain ⟨b, hb, hbon⟩ := List.any_eq_true.mp h
    exact absurd hbon (by simp only [on, hon b hb, Bool.false_eq_true, not_false_eq_true])

theorem execAnchorRebuild_of_spare {s : State} {i : Fin 2} {c at_ : Nat} (hlost : (s.set_ i.val).lostAt = some at_)
    (hone : s.twoAnchors i.val = false) (hspare : s.spareChan i.val = some c) :
    exec (.anchorRebuild i) s = .next ((s.modSet i.val (fun x => { x with rebuildCh := x.rebuildCh ++ [c], lostAt := none })).medBits
      (s.setWy i.val)) := by
  change execAnchorRebuild i s = _
  unfold execAnchorRebuild
  dsimp only
  rw [if_neg (by simp [hlost]), if_neg (by simp [hone]), hspare]

/-! ### A die test that is refused (R510) -/

theorem State.tstEnd_refused (s : State) (w : Wy) : (s.tstEnd w 6 0).reg (.tst w) TST_CNT_REFUSED = s.reg (.tst w) TST_CNT_REFUSED + 1 := by
  unfold State.tstEnd
  dsimp only
  rw [if_neg (by decide), if_pos rfl, State.bump_reg_self (by decide), State.event_reg_of_off_ne (by decide), State.testResult,
    State.setReg_reg_of_off_ne (by decide)]

theorem State.dieTest_of_other {s : State} {w : Wy} {result ms_ : Nat} (h : (s.chan (s.tstDie w / 32)).owner ≠ some w) :
    s.dieTest w result ms_ = s.tstEnd w 6 0 := if_pos h

end Sys2Proof.Machine

namespace Sys2Proof

open Sys2Proof.Machine

/-- Settles O32, clause by clause: a collected superblock stays while units of it are live, for what settles the set erases superblocks of
other numbers; no other upkeep touches the superblocks of a set, and each record or channel it writes is the last thing it does to the set. -/
theorem upkeepActs : Obligations.UpkeepActs := by
  unfold Obligations.UpkeepActs
  intro i s
  refine ⟨?_, ?_, ?_, ?_, ?_, ?_, ?_⟩
  · intro b hb hlive honly
    have hset : (s.upkeepBit (s.setWy i.val)).set_ i.val = s.set_ i.val := State.upkeepBit_keeps.set_eq (by decide) i.val
    have hv := List.mem_filter.mp (List.mem_of_find?_eq_some hb)
    have hvictim : OnlyVictim (s.upkeepBit (s.setWy i.val)) i.val b := by
      refine ⟨?_, ?_, ?_, ?_⟩
      · exact hset ▸ hv.1
      · have := hv.2
        simp only [Bool.and_eq_true] at this
        exact this.1.1.1
      · exact hset ▸ hlive
      · exact hset ▸ honly
    obtain ⟨y, hy, hcopy⟩ := State.collect_copies (cls := 4) hvictim
    refine runs_intro (execCollection_of_refresh hb) ⟨y, ?_, hcopy⟩
    rw [State.sb, State.upkeepBit_keeps.set_eq (by decide)]
    exact hy
  · intro sb attempts parity lost b hsb hclosed
    obtain ⟨s2, tired, hkeep, htired, hexec⟩ := execPatrol_of_closed (attempts := attempts) (parity := parity) (lost := lost) hsb hclosed
    have hb := State.modSb_sb (s := s2) (i := i.val) (sb := sb) (f := fun b => { b with patrolAt := s.now, refresh := b.refresh || tired })
      (fun _ => rfl)
    rw [hkeep.sb_eq, hsb] at hb
    refine runs_intro hexec ⟨_, hb, rfl, fun h => ?_⟩
    dsimp only
    rw [htired h, Bool.or_true]
  · refine runs_intro rfl fun d hd => ?_
    rw [State.refreshAged_die, State.refreshAged_die, foldl_modDie List.nodup_range, if_pos (List.mem_range.mpr hd)]
  · refine runs_intro rfl ?_
    rw [State.modSet_set]
    obtain ⟨e, he, heq⟩ := State.anchorRaw_mem ((s.tableSlice i.val).reserveSeq i.val) i.val (.equivAge _)
    exact ⟨rfl, e, he, _, heq⟩
  · intro d l lost hl hout
    obtain ⟨s5, left, hleft, hexec⟩ := execDieRebuild_of_done (lost := lost) hl hout
    refine runs_intro hexec ?_
    rw [State.modSet_set]
    exact hleft
  · intro c at_ hlost hone hspare
    refine runs_intro (execAnchorRebuild_of_spare hlost hone hspare) ?_
    rw [State.medBits_keeps.set_eq (by decide), State.modSet_set]
    exact ⟨rfl, List.mem_append_right _ (List.mem_singleton.mpr rfl)⟩
  · intro src w hw
    refine ⟨fun result ms_ => ⟨fun hown => ?_, fun hother => ?_⟩, fun hown hin hset => ?_⟩
    · exact runs_intro (congrArg Host.Outcome.next (State.gated_of_writeArrives hw)) (State.dieTest_retired hown result ms_)
    · refine runs_intro (congrArg Host.Outcome.next (State.gated_of_writeArrives hw)) ?_
      rw [State.dieTest_of_other hother]
      exact ⟨State.tstEnd_keeps.die_eq (by decide) _, State.tstEnd_refused s w⟩
    · exact runs_intro (congrArg Host.Outcome.next (State.gated_of_writeArrives hw)) (State.dieRetire_retired hown hin hset)

end Sys2Proof
end

section
/-! PROOFS. Rounds, folding, the SLC share and the map's journal (R288, R295, R298, R314, R315). -/

namespace Sys2Proof.Machine

/-! ### A round that closes (R288) -/

theorem State.closeRound_programs {s : State} {i sb : Nat} {b : SuperBlk} {r : Round} (hsb : s.sb i sb = some b)
    (hr : b.rounds.find? (fun r => r.st = .filling) = some r) :
    ∃ y, (s.closeRound i sb).sb i sb = some y ∧ ∃ q ∈ y.rounds, q.wl = r.wl ∧ q.units = r.units ∧ q.st = .programming ∧ q.wait = b.dies := by
  unfold State.closeRound
  split
  · next hnone => exact absurd (hnone.symm.trans hsb) (by simp)
  next b' hb' =>
  cases Option.some.inj (hsb.symm.trans hb')
  split
  · next hnone => exact absurd (hnone.symm.trans hr) (by simp)
  next r' hr' =>
  cases Option.some.inj (hr.symm.trans hr')
  extract_lets w s1 q s2 rt
  have hs1 : SbsKeep s s1 := .keep State.bumpBy_keeps rfl State.takeSeq_sbs
  have hs2 : s2.sb i sb = some { b with rounds := updFirst (fun r => r.wl = q.wl) (fun _ => q) b.rounds } := by
    refine (State.modSb_sb (f := fun b => { b with rounds := updFirst (fun r => r.wl = q.wl) (fun _ => q) b.rounds }) (fun _ => rfl)).trans ?_
    rw [hs1.sb_eq, hsb]
    rfl
  have hend : ∀ t, SbsKeep s2 t → t.sb i sb = s2.sb i sb := fun t h => h.sb_eq i sb
  refine ⟨_, (hend _ (.foldl (fun _ _ => State.submit_sbs) .refl)).trans hs2, ?_⟩
  obtain ⟨-, -, -, hq⟩ := exists_mem_updFirst (p := fun x : Round => x.wl = q.wl) (f := fun _ => q) (List.mem_of_find?_eq_some hr)
    (decide_eq_true rfl)
  exact ⟨q, hq, rfl, rfl, rfl, rfl⟩

theorem execRoundClose_of_due {s : State} {i : Fin 2} {sb : Nat} {b : SuperBlk} {r : Round} (hsb : s.sb i.val sb = some b)
    (hr : b.rounds.find? (fun r => r.st = .filling) = some r)
    (hdue : r.firstAt + s.afld (.med (s.setWy i.val)) MED_WRITE_CTRL 12 8 * 1000000 ≤ s.now) :
    exec (.roundClose i sb) s = .next (s.closeRound i.val sb) := by
  change execRoundClose i sb s = _
  unfold execRoundClose
  rw [hsb]
  dsimp only
  rw [hr]
  dsimp only
  rw [if_pos ((State.since_ms ..).mpr hdue)]

/-! ### A superblock that nothing touches -/

/-- The superblocks of a number are the same. -/
def SbStays (k : Nat) (s t : State) : Prop := ∀ i, (t.set_ i).sbs.filter (fun b => b.id = k) = (s.set_ i).sbs.filter (fun b => b.id = k)

theorem SbStays.refl {k : Nat} {s : State} : SbStays k s s := fun _ => rfl

theorem SbStays.step {k : Nat} {s t u : State} (h2 : SbStays k t u) (h : SbStays k s t) : SbStays k s u := fun i => (h2 i).trans (h i)

theorem SbStays.sbs {k : Nat} {s t u : State} (hk : SbsKeep t u) (h : SbStays k s t) : SbStays k s u := by
  refine .step (fun i => ?_) h
  have hsbs : (u.set_ i).sbs = (t.set_ i).sbs := congrArg Prod.fst (hk i)
  rw [hsbs]

theorem SbStays.keep {k : Nat} {l : List Part} {s t u : State} (hk : Keeps l t u) (hl : l.contains .media = false) (h : SbStays k s t) :
    SbStays k s u := .sbs (.keep hk hl .refl) h

theorem SbStays.modSet {k : Nat} {s t : State} {i : Nat} {f : SetSt → SetSt}
    (hf : ∀ x, (f x).sbs.filter (fun b => b.id = k) = x.sbs.filter (fun b => b.id = k)) (h : SbStays k s t) : SbStays k s (t.modSet i f) :=
  .step (State.modSet_cases (fun x y => y.sbs.filter (fun b => b.id = k) = x.sbs.filter (fun b => b.id = k)) hf (fun _ => rfl)) h

theorem filter_updFirst_of_ne {α : Type} {p q : α → Bool} {f : α → α} (hp : ∀ a, p a = true → q a = false ∧ q (f a) = false) (l : List α) :
    (updFirst p f l).filter q = l.filter q := by
  induction l with
  | nil => rfl
  | cons a l ih =>
    unfold updFirst
    split
    · next ha => rw [List.filter_cons_of_neg (by simp [hp a ha]), List.filter_cons_of_neg (by simp [hp a ha])]
    · rw [List.filter_cons, List.filter_cons, ih]

theorem SbStays.modSb {k : Nat} {s t : State} {i sb : Nat} {f : SuperBlk → SuperBlk} (hne : sb ≠ k) (hf : ∀ b, (f b).id = b.id)
    (h : SbStays k s t) : SbStays k s (t.modSb i sb f) := by
  refine .modSet (fun x => filter_updFirst_of_ne (fun b hb => ?_) x.sbs) h
  have hid : b.id ≠ k := fun hk => hne ((of_decide_eq_true hb).symm.trans hk)
  exact ⟨decide_eq_false hid, decide_eq_false (by rw [hf]; exact hid)⟩

theorem SbStays.foldl {α : Type} {k : Nat} {l : List α} {f : State → α → State} {s t : State} (hf : ∀ u, ∀ a ∈ l, SbStays k u (f u a))
    (h : SbStays k s t) : SbStays k s (l.foldl f t) := by
  induction l generalizing t with
  | nil => exact h
  | cons a l ih => exact ih (fun u b hb => hf u b (List.mem_cons_of_mem _ hb)) (.step (hf t a (List.mem_cons_self ..)) h)

theorem SbStays.ite {k : Nat} {c : Prop} [Decidable c] {s t u : State} (ht : SbStays k s t) (hu : SbStays k s u) :
    SbStays k s (if c then t else u) := by
  split
  · exact ht
  · exact hu

theorem State.closeSb_stays {s : State} {i sb k : Nat} {short : Bool} (hne : sb ≠ k) : SbStays k s (s.closeSb i sb short) :=
  .modSb hne (fun _ => rfl) (.sbs State.anchorRec_sbs .refl)

theorem State.eraseDie_stays {s : State} {i cause die k : Nat} {b : SuperBlk} (hne : b.id ≠ k) : SbStays k s (s.eraseDie i b cause die) := by
  unfold State.eraseDie
  extract_lets blocks bad s1 mask s2 s3 q
  have hs1 : SbStays k s s1 := .foldl (fun _ _ _ => .sbs State.retireBlock_sbs .refl) .refl
  have hs3 : SbStays k s s3 := .foldl (fun _ _ _ => .ite (.sbs State.modBlk_sbs .refl) .refl) (.sbs State.anchorRec_sbs hs1)
  exact .ite (.modSb hne (fun _ => rfl) hs1) (.sbs State.submit_sbs hs3)

theorem State.eraseSb_stays {s : State} {i cause k : Nat} {b : SuperBlk} (hne : b.id ≠ k) : SbStays k s (s.eraseSb i b cause) := by
  unfold State.eraseSb
  extract_lets s1
  have hs1 : SbStays k s s1 := .modSb hne (fun _ => rfl) .refl
  refine .ite (.keep State.recordOpen_keeps rfl .refl) (.modSet (fun x => ?_) (.foldl (fun _ _ _ => State.eraseDie_stays hne) hs1))
  dsimp only
  rw [List.filter_filter]
  refine List.filter_congr fun y _ => ?_
  by_cases hy : y.id = k
  · simp [hy, hne.symm]
  · simp [hy]

/-- An open superblock with a round that is being programmed, and none failed. -/
structure SuperBlk.busy (b : SuperBlk) : Prop where
  isOpen : b.closed = false
  whole : b.failed = []
  runs : ∃ r ∈ b.rounds, r.st = .programming

theorem closed_of_emptied {x : SetSt} {b : SuperBlk} {cause : Nat} (h : (b, cause) ∈ emptied x) : b.closed = true := by
  unfold emptied at h
  split at h
  · cases h
  · obtain ⟨c, -, he⟩ := List.mem_filterMap.mp h
    split at he
    · cases he
    · next hopen =>
      have hc : c.closed = true := by
        by_contra hn
        simp [hn] at hopen
      split at he
      · split at he <;> cases he
        exact hc
      · split at he <;> cases he
        exact hc

/-- What settles a set leaves a busy superblock as it is. -/
theorem State.settleSet_stays {s : State} {i : Nat} {d : SuperBlk} (hd : (s.set_ i).sbs.filter (fun b => b.id = d.id) = [d]) (hbusy : d.busy) :
    SbStays d.id s (s.settleSet i) := by
  obtain ⟨hopen, hwhole, r, hr, hrun⟩ := hbusy
  have hothers : ∀ (t : State), SbStays d.id s t → ∀ b ∈ (t.set_ i).sbs, b.id = d.id → b = d := by
    intro t ht b hb hid
    have hin : b ∈ (t.set_ i).sbs.filter (fun b => b.id = d.id) := List.mem_filter.mpr ⟨hb, decide_eq_true hid⟩
    rw [ht i, hd] at hin
    exact List.mem_singleton.mp hin
  have hfull : SbStays d.id s (s.closeFull i) := by
    refine .foldl (fun u b hb => State.closeSb_stays fun hid => ?_) .refl
    obtain ⟨hb, hcond⟩ := List.mem_filter.mp hb
    rw [hothers s .refl b hb hid] at hcond
    have hall := List.all_eq_true.mp (Bool.and_eq_true_iff.mp hcond).2 r hr
    rw [hrun] at hall
    exact absurd hall (by decide)
  have hshort : SbStays d.id s (s.closedSbs i) := by
    refine .step (.foldl (fun u b hb => State.closeSb_stays fun hid => ?_) .refl) hfull
    obtain ⟨hb, hcond⟩ := List.mem_filter.mp hb
    rw [hothers _ hfull b hb hid] at hcond
    simp [hwhole] at hcond
  unfold State.settleSet
  extract_lets s1 s2
  have hs2 : SbStays d.id s s2 := by
    refine .step (.foldl (fun u e he => State.eraseSb_stays fun hid => ?_) .refl) hshort
    have heq := hothers _ hshort e.1 (mem_of_emptied he) hid
    have hclosed := closed_of_emptied he
    rw [heq, hopen] at hclosed
    cases hclosed
  exact .keep State.thinsDone_keeps rfl (.keep State.fragsDone_keeps rfl (.sbs State.retireSpent_sbs (.sbs State.reserveStep_sbs hs2)))

/-! ### Folding (R298, R299) -/

theorem filter_id_of_nodup {l : List SuperBlk} {b : SuperBlk} (hl : (l.map (fun b => b.id)).Nodup) (hb : b ∈ l) :
    l.filter (fun x => x.id = b.id) = [b] := by
  induction l with
  | nil => cases hb
  | cons a l ih =>
    obtain ⟨ha, hl⟩ := List.nodup_cons.mp hl
    rcases List.mem_cons.mp hb with rfl | hb
    · rw [List.filter_cons_of_pos (by exact decide_eq_true rfl), List.filter_eq_nil_iff.mpr]
      exact fun x hx hid => ha (List.mem_map.mpr ⟨x, hx, of_decide_eq_true hid⟩)
    · have hne : a.id ≠ b.id := fun h => ha (List.mem_map.mpr ⟨b, hb, h.symm⟩)
      rw [List.filter_cons_of_neg (by simpa using hne)]
      exact ih hl hb

theorem filter_updFirst_of_one {α : Type} {p : α → Bool} {f : α → α} {l : List α} {a : α} (hl : l.filter p = [a]) (hf : p (f a) = true) :
    (updFirst p f l).filter p = [f a] := by
  induction l with
  | nil => cases hl
  | cons b l ih =>
    unfold updFirst
    by_cases hb : p b = true
    · rw [List.filter_cons_of_pos hb] at hl
      obtain ⟨rfl, hnil⟩ := List.cons.inj hl
      rw [if_pos hb, List.filter_cons_of_pos hf, hnil]
    · rw [List.filter_cons_of_neg hb] at hl
      rw [if_neg hb, List.filter_cons_of_neg hb]
      exact ih hl

/-- A superblock that a fold can go to, alone of its number. -/
structure FoldTarget (s : State) (i : Nat) (b : SuperBlk) : Prop where
  only : (s.set_ i).sbs.filter (fun x => x.id = b.id) = [b]
  isOpen : b.closed = false
  whole : b.failed = []

/-- What a closed round leaves of its superblock. -/
def SuperBlk.mark (b : SuperBlk) : Nat × Bool × List Nat := (b.id, b.closed, b.failed)

theorem State.closeRound_marks (s : State) (i sb : Nat) :
    ((s.closeRound i sb).set_ i).sbs.map SuperBlk.mark = (s.set_ i).sbs.map SuperBlk.mark := by
  unfold State.closeRound
  split
  · rfl
  split
  · rfl
  extract_lets w s1 q s2 rt
  have hs1 : SbsKeep s s1 := .keep State.bumpBy_keeps rfl State.takeSeq_sbs
  have hs2 : (s2.set_ i).sbs.map SuperBlk.mark = (s1.set_ i).sbs.map SuperBlk.mark := by
    unfold s2 State.modRound State.modSb
    rw [State.modSet_set]
    exact map_core_updFirst (f := fun b : SuperBlk => { b with rounds := updFirst (fun r => r.wl = q.wl) (fun _ => q) b.rounds }) (fun _ => rfl) _
  have hend : ∀ t, SbsKeep s2 t → (t.set_ i).sbs = (s2.set_ i).sbs := fun t h => congrArg Prod.fst (h i)
  rw [hend _ (.foldl (fun _ _ => State.submit_sbs) .refl), hs2]
  exact congrArg (fun p : List SuperBlk × Nat × List Extent × List JRec × Nat × List Seg × Nat => p.1.map SuperBlk.mark) (hs1 i)

theorem State.openSb_sbs {s t : State} {i row : Nat} {st : Stream} (h : s.openSb i row st = some t) :
    ∃ b, (t.set_ i).sbs = (s.set_ i).sbs ++ [b] ∧ b.id = (s.set_ i).nextSb := by
  unfold State.openSb at h
  dsimp only at h
  split at h
  · cases h
  · obtain ⟨blocks, -, rfl⟩ := Option.map_eq_some_iff.mp h
    have hend : ∀ u v, SbsKeep u v → (v.set_ i).sbs = (u.set_ i).sbs := fun u v h => congrArg Prod.fst (h i)
    rw [hend _ _ (.foldl (fun _ _ => .foldl (fun _ _ => State.modBlk_sbs) .refl) .refl), State.modSet_set,
      hend _ _ State.anchorRec_sbs]
    exact ⟨_, rfl, rfl⟩

theorem State.foldDst_target {s s1 : State} {i row : Nat} {dst : SuperBlk} (h : s.foldDst i row = some (s1, dst))
    (hnodup : ((s.set_ i).sbs.map (fun b => b.id)).Nodup) (hnext : ∀ b ∈ (s.set_ i).sbs, b.id < (s.set_ i).nextSb) :
    FoldTarget s1 i dst := by
  unfold State.foldDst at h
  dsimp only at h
  split at h
  · next b hb =>
    obtain ⟨y, hy, he⟩ := Option.map_eq_some_iff.mp h
    cases he
    have hmarks := State.closeRound_marks s i b.id
    have hy' : dst ∈ ((s.closeRound i b.id).set_ i).sbs := List.mem_of_find?_eq_some hy
    have hid : dst.id = b.id := of_decide_eq_true (List.find?_some (p := fun x : SuperBlk => x.id = b.id) hy)
    have hids : ((s.closeRound i b.id).set_ i).sbs.map (fun b => b.id) = (s.set_ i).sbs.map (fun b => b.id) := by
      have := congrArg (List.map Prod.fst) hmarks
      rwa [List.map_map, List.map_map] at this
    have hin : dst.mark ∈ (s.set_ i).sbs.map SuperBlk.mark := hmarks ▸ List.mem_map_of_mem hy'
    obtain ⟨c, hc, hmark⟩ := List.mem_map.mp hin
    have hcb : c = b := by
      have hcin : c ∈ (s.set_ i).sbs.filter (fun x => x.id = b.id) :=
        List.mem_filter.mpr ⟨hc, decide_eq_true ((congrArg Prod.fst hmark).trans hid)⟩
      rw [filter_id_of_nodup hnodup (List.mem_of_find?_eq_some hb)] at hcin
      exact List.mem_singleton.mp hcin
    have hok := List.find?_some hb
    simp only [Bool.and_eq_true, Bool.not_eq_true', decide_eq_true_eq] at hok
    obtain ⟨⟨⟨-, hclosed⟩, hfailed⟩, -⟩ := hok
    rw [hcb] at hmark
    exact ⟨filter_id_of_nodup (hids ▸ hnodup) hy', (congrArg (fun e : Nat × Bool × List Nat => e.2.1) hmark).symm.trans hclosed,
      (congrArg (fun e : Nat × Bool × List Nat => e.2.2) hmark).symm.trans hfailed⟩
  · obtain ⟨v, hv, h⟩ := Option.bind_eq_some_iff.mp h
    obtain ⟨b, hb, he⟩ := Option.map_eq_some_iff.mp h
    cases he
    obtain ⟨c, hsbs, hc⟩ := State.openSb_sbs hv
    have hids : ((s1.set_ i).sbs.map (fun b => b.id)).Nodup := by
      rw [hsbs, List.map_append, List.nodup_append]
      refine ⟨hnodup, List.nodup_singleton _, ?_⟩
      intro a ha a' ha'
      obtain ⟨x, hx, rfl⟩ := List.mem_map.mp ha
      rw [List.mem_singleton.mp ha']
      exact fun h => (hnext x hx).ne (h.trans hc)
    have hok := List.find?_some hb
    simp only [Bool.and_eq_true, Bool.not_eq_true', decide_eq_true_eq] at hok
    obtain ⟨⟨⟨-, hclosed⟩, hfailed⟩, -⟩ := hok
    exact ⟨filter_id_of_nodup hids (List.mem_of_find?_eq_some hb), hclosed, hfailed⟩

/-- A fold's round stands in its superblock. -/
theorem State.foldInto_round {s : State} {i : Nat} {dst : SuperBlk} {l : List FoldStripe} (h : FoldTarget s i dst) :
    ∃ (r : Round) (d : SuperBlk), ((s.foldInto i dst l).set_ i).sbs.filter (fun b => b.id = dst.id) = [d] ∧ d.id = dst.id ∧ d.busy ∧ r ∈ d.rounds
      ∧ r.folded = true ∧ r.srcs = l.map (fun e => (e.1.id, e.2.1.wl * 16 + e.2.2)) := by
  unfold State.foldInto
  extract_lets w s1 r s2
  have hs1 : (s1.set_ i).sbs = (s.set_ i).sbs := congrArg Prod.fst ((State.takeSeq_sbs (s := s) (i := i)) i)
  have hend : ∀ t, SbsKeep s2 t → (t.set_ i).sbs = (s2.set_ i).sbs := fun t h => congrArg Prod.fst (h i)
  have hr : r ∈ dst.rounds ++ [r] := List.mem_append_right _ (List.mem_singleton.mpr rfl)
  refine ⟨r, { dst with rounds := dst.rounds ++ [r], nextWl := dst.nextWl + 1 }, ?_, rfl, ⟨h.isOpen, h.whole, r, hr, rfl⟩, hr, rfl, rfl⟩
  rw [hend _ (.foldl (fun _ _ => State.submit_sbs) .refl)]
  unfold s2 State.modSb
  rw [State.modSet_set]
  have honly := h.only
  rw [← hs1] at honly
  exact filter_updFirst_of_one (p := fun b : SuperBlk => b.id = dst.id)
    (f := fun b => { b with rounds := b.rounds ++ [r], nextWl := b.nextWl + 1 }) honly (decide_eq_true rfl)

theorem execFoldRound_of_alike {s s1 : State} {i : Fin 2} {l : List FoldStripe} {e : FoldStripe} {dst : SuperBlk}
    (hon : s.afld (.med (s.setWy i.val)) MED_WRITE_CTRL 1 1 = 1) (hpick : foldPick (foldable (s.set_ i.val)) = some l) (he : l.head? = some e)
    (hdst : s.foldDst i.val e.1.row = some (s1, dst)) (hdies : ∀ x ∈ l, x.1.dies = dst.dies) :
    exec (.foldRound i) s = .next ((s1.foldInto i.val dst l).settleSet i.val) := by
  have hother : l.filter (fun e => decide (e.1.dies ≠ dst.dies)) = [] := List.filter_eq_nil_iff.mpr fun x hx => by simp [hdies x hx]
  change execFoldRound i s = _
  unfold execFoldRound
  rw [if_neg (by rw [hon]; decide), hpick]
  dsimp only
  obtain ⟨tl, rfl⟩ : ∃ tl, l = e :: tl := by
    cases l with
    | nil => cases he
    | cons a tl => exact ⟨tl, by rw [Option.some.inj he]⟩
  unfold State.foldSome
  dsimp only
  rw [hdst]
  dsimp only
  rw [if_pos hother]

/-! ### The SLC share (R295) -/

theorem SetsKeep.share {s t : State} (h : SetsKeep s t) (i : Nat) : (t.set_ i).share = (s.set_ i).share :=
  (congrArg SetSt.share (h i) : (t.set_ i).core.share = (s.set_ i).core.share)

theorem execSlcShareGrow_share {s : State} {i : Fin 2} {at_ : Nat} (hlow : (s.set_ i.val).lowSince = some at_)
    (hdue : at_ + s.afld (.med (s.setWy i.val)) MED_SLC_TIMERS 15 0 * 1000000000 ≤ s.now) (hfree : s.usable ≤ s.freeCapacity * 100)
    (hmax : (s.set_ i.val).share < s.afld (.med (s.setWy i.val)) MED_SLC_CTRL 15 8) :
    Runs (.slcShareGrow i) s (fun t => (t.set_ i.val).share
      = min (s.afld (.med (s.setWy i.val)) MED_SLC_CTRL 15 8) ((s.set_ i.val).share + 5)) := by
  have hsince : s.since at_ (sec (s.afld (.med (s.setWy i.val)) MED_SLC_TIMERS 15 0)) = true := (State.since_sec ..).mpr hdue
  suffices h : ∃ t, execSlcShareGrow i s = .next t
      ∧ (t.set_ i.val).share = min (s.afld (.med (s.setWy i.val)) MED_SLC_CTRL 15 8) ((s.set_ i.val).share + 5) from h
  unfold execSlcShareGrow
  extract_lets x w top
  rw [show x.lowSince = some at_ from hlow]
  dsimp only
  rw [if_neg (by simp only [Bool.or_eq_true, Bool.not_eq_true', decide_eq_true_eq, not_or]; exact ⟨by rw [hsince]; decide, Nat.not_lt.mpr hfree⟩),
    if_neg (Nat.not_le.mpr hmax)]
  refine ⟨_, rfl, ?_⟩
  rw [State.placeWaiting_sets.share, State.slcMarks_sets.share, State.bump_keeps.set_eq (by decide), State.modSet_set]

theorem execSlcShareShrink_share {s : State} {i : Fin 2} {at_ : Nat} (hidle : (s.set_ i.val).idleSince = some at_)
    (hdue : at_ + s.afld (.med (s.setWy i.val)) MED_SLC_TIMERS 31 16 * 1000000000 ≤ s.now)
    (hmin : s.afld (.med (s.setWy i.val)) MED_SLC_CTRL 7 0 < (s.set_ i.val).share) :
    Runs (.slcShareShrink i) s (fun t => (t.set_ i.val).share
      = max (s.afld (.med (s.setWy i.val)) MED_SLC_CTRL 7 0) ((s.set_ i.val).share - 5)) := by
  have hsince : s.since at_ (sec (s.afld (.med (s.setWy i.val)) MED_SLC_TIMERS 31 16)) = true := (State.since_sec ..).mpr hdue
  suffices h : ∃ t, execSlcShareShrink i s = .next t
      ∧ (t.set_ i.val).share = max (s.afld (.med (s.setWy i.val)) MED_SLC_CTRL 7 0) ((s.set_ i.val).share - 5) from h
  unfold execSlcShareShrink
  extract_lets x w low
  rw [show x.idleSince = some at_ from hidle]
  dsimp only
  rw [if_neg (by simp only [Bool.or_eq_true, Bool.not_eq_true', decide_eq_true_eq, not_or]; exact ⟨by rw [hsince]; decide, Nat.not_le.mpr hmin⟩)]
  refine ⟨_, rfl, ?_⟩
  rw [State.slcMarks_sets.share, State.bump_keeps.set_eq (by decide), State.modSet_set]

/-! ### The map's journal (R314, R315) -/

theorem JournalKeep.segs {s t : State} (h : JournalKeep s t) (i : Nat) : (t.set_ i).segs = (s.set_ i).segs :=
  congrArg (fun p : List Extent × List JRec × Nat × List Seg × Nat => p.2.2.2.1) (h i)

theorem State.flushMap_segs {s : State} {i : Nat} (h : (s.set_ i).unflushed ≠ []) :
    ∃ g ∈ ((s.flushMap i).set_ i).segs, g.num = (s.set_ i).nextSeg ∧ g.ckpt = false ∧ g.recs = (s.set_ i).unflushed.take 2097152 := by
  unfold State.flushMap
  extract_lets x recs g
  rw [if_neg h, State.placeUnits_journal.segs, State.modSet_set]
  exact ⟨g, List.mem_append_right _ (List.mem_singleton.mpr rfl), rfl, rfl, rfl⟩

theorem execMapFlush_of_due {s : State} {i : Fin 2} {r : JRec} (hr : r ∈ (s.set_ i.val).unflushed) (hdue : r.at_ + 2000000000 ≤ s.now) :
    exec (.mapFlush i) s = .next ((s.flushMap i.val).settleSet i.val) := by
  have hany : (s.set_ i.val).unflushed.any (fun r => s.since r.at_ (sec 2)) = true :=
    List.any_eq_true.mpr ⟨r, hr, (State.since_sec ..).mpr hdue⟩
  change execMapFlush i s = _
  unfold execMapFlush
  dsimp only
  rw [if_pos (by rw [hany, Bool.or_true, Bool.true_or])]

theorem pieces_ne_nil {α : Type} {n fuel : Nat} {l : List α} (h : l ≠ []) : pieces n (fuel + 1) l ≠ [] := by
  cases l with
  | nil => exact absurd rfl h
  | cons a l => exact List.cons_ne_nil _ _

theorem State.checkpoint_segs {s : State} {i : Nat} (h : (s.set_ i).map ≠ []) :
    ∃ g ∈ ((s.checkpoint i).set_ i).segs, g.ckpt = true ∧ g.last = true ∧ (s.set_ i).nextSeg ≤ g.num := by
  unfold State.checkpoint
  extract_lets x recs cuts start segs s1
  have hend : ∀ t, JournalKeep s1 t → (t.set_ i).segs = (s1.set_ i).segs := fun t h => h.segs i
  rw [hend _ (.foldl (fun _ _ => State.placeUnits_journal) .refl), State.modSet_set]
  have hcuts : 0 < cuts.length := List.length_pos_iff.mpr (pieces_ne_nil fun hm => h (List.map_eq_nil_iff.mp hm))
  have hlast : (cuts[cuts.length - 1], cuts.length - 1) ∈ cuts.zipIdx := List.mem_zipIdx_iff_getElem?.mpr (List.getElem?_eq_getElem _)
  refine ⟨_, List.mem_append_right _ (List.mem_map.mpr ⟨_, hlast, rfl⟩), rfl, ?_, Nat.le_add_right ..⟩
  exact decide_eq_true (Nat.sub_add_cancel hcuts)

end Sys2Proof.Machine

namespace Sys2Proof

open Sys2Proof.Machine

/-- Settles O31, clause by clause: what settles a set leaves a superblock that is being programmed, the share and the map's journal as
they are. -/
theorem setsWriteAndFold : Obligations.SetsWriteAndFold := by
  unfold Obligations.SetsWriteAndFold
  intro i s
  refine ⟨?_, ?_, ?_, ?_, ?_, ?_⟩
  · intro sb b r hsb hr hdue
    exact runs_intro (execRoundClose_of_due hsb hr hdue) (State.closeRound_programs hsb hr)
  · intro l e s1 dst hon hpick he hdst hdies hnodup hnext
    refine runs_intro (execFoldRound_of_alike hon hpick he hdst hdies) ?_
    obtain ⟨r, d, hd, hid, hbusy, hr, hfolded, hsrcs⟩ := State.foldInto_round (l := l) (State.foldDst_target hdst hnodup hnext)
    rw [← hid] at hd
    have hstays := State.settleSet_stays hd hbusy i.val
    have hin : d ∈ (((s1.foldInto i.val dst l).settleSet i.val).set_ i.val).sbs.filter (fun b => b.id = d.id) := by
      rw [hstays, hd]
      exact List.mem_singleton.mpr rfl
    exact ⟨d, (List.mem_filter.mp hin).1, hid, r, hr, hfolded, hsrcs⟩
  · exact fun at_ hlow hdue hfree hmax => execSlcShareGrow_share hlow hdue hfree hmax
  · exact fun at_ hidle hdue hmin => execSlcShareShrink_share hidle hdue hmin
  · intro r hr hdue
    refine runs_intro (execMapFlush_of_due hr hdue) ?_
    rw [State.settleSet_journal.segs]
    exact State.flushMap_segs (List.ne_nil_of_mem hr)
  · intro hbytes hmap
    refine runs_intro (congrArg Host.Outcome.next (if_pos hbytes)) ?_
    rw [State.settleSet_journal.segs]
    exact State.checkpoint_segs hmap

end Sys2Proof
end

section
/-! PROOFS. The journal of a stripe and its sealing (R20, R233-R241). -/

namespace Sys2Proof.Machine

/-! ### The pending stripes -/

/-- The records of the pending stripes are the same. -/
def RecsKeep (s t : State) : Prop := t.stripes.recs = s.stripes.recs

theorem RecsKeep.refl {s : State} : RecsKeep s s := rfl

theorem RecsKeep.step {s t u : State} (h2 : RecsKeep t u) (h : RecsKeep s t) : RecsKeep s u := Eq.trans h2 h

theorem RecsKeep.keep {l : List Part} {s t u : State} (hk : Keeps l t u) (hl : .stripes ∉ l) (h : RecsKeep s t) : RecsKeep s u :=
  .step (congrArg Stripes.recs (hk.stripes_eq hl)) h

theorem RecsKeep.modStripes {s t : State} {f : Stripes → Stripes} (hf : (f t.stripes).recs = t.stripes.recs) (h : RecsKeep s t) :
    RecsKeep s (t.modStripes f) := .step hf h

theorem RecsKeep.foldl {α : Type} {l : List α} {f : State → α → State} {s t : State} (hf : ∀ u a, RecsKeep u (f u a)) (h : RecsKeep s t) :
    RecsKeep s (l.foldl f t) := by
  induction l generalizing t with
  | nil => exact h
  | cons a l ih => exact ih (.step (hf t a) h)

theorem RecsKeep.ite {c : Prop} [Decidable c] {s t u : State} (ht : RecsKeep s t) (hu : RecsKeep s u) : RecsKeep s (if c then t else u) := by
  split
  · exact ht
  · exact hu

theorem RecsKeep.stripe_eq {s t : State} (h : RecsKeep s t) (id : Nat) : t.stripe id = s.stripe id := by rw [State.stripe, h, State.stripe]

theorem Keeps.stripe_eq {l : List Part} {s t : State} (h : Keeps l s t) (hl : .stripes ∉ l) (id : Nat) : t.stripe id = s.stripe id :=
  (RecsKeep.keep h hl .refl).stripe_eq id

theorem State.fragDurable_recs {s : State} {w : Wy} {x : FragRec} : RecsKeep s (s.fragDurable w x) := by
  unfold State.fragDurable
  extract_lets s1 s2
  have hs1 : RecsKeep s s1 := .modStripes rfl .refl
  have hs2 : RecsKeep s s2 := by
    unfold s2
    split
    · exact .keep State.mortarOut_keeps (by decide) hs1
    · exact hs1
  split
  · exact .ite (.modStripes rfl hs2) (.keep State.mortarOut_keeps (by decide) (.modStripes rfl hs2))
  · exact hs2

theorem State.keepFrag_recs {s : State} {w : Wy} {h : FragHead} {bytes : Bytes} {ackTo : Option (Nat × Wy)} {cls : Nat} :
    RecsKeep s (s.keepFrag w h bytes ackTo cls) := by
  unfold State.keepFrag
  extract_lets x s1 s2
  have hs1 : RecsKeep s s1 := by
    unfold s1
    split
    · exact .ite .refl (.keep State.dropGen_keeps (by decide) .refl)
    · exact .refl
  have hs2 : RecsKeep s s2 := .modStripes rfl hs1
  exact .ite (.step State.fragDurable_recs hs2) (.keep State.writeFrag_keeps (by decide) hs2)

theorem State.doFragPut_recs {s : State} {w : Wy} {h : MHead} {f : FragHead} {bytes : Bytes} : RecsKeep s (s.doFragPut w h f bytes) := by
  unfold State.doFragPut
  extract_lets ack cls keep
  have hack : ∀ gen a, RecsKeep s (ack s gen a) := fun gen a => .keep State.mortarOut_keeps (by decide) .refl
  have hkeep : RecsKeep s (keep s) := .step State.keepFrag_recs rfl
  refine .ite (hack _ _) ?_
  split
  · exact .ite (hack _ _) (.ite (.ite (.modStripes rfl .refl) (.ite (hack _ _) hkeep)) (.ite (hack _ _) hkeep))
  · exact .ite (hack _ _) hkeep

theorem State.stripe_id {s : State} {id : Nat} {r : StripeRec} (h : s.stripe id = some r) : r.id = id :=
  of_decide_eq_true (List.find?_some (p := fun r : StripeRec => r.id = id) h)

/-- The record of a stripe is put in place of the one that stood there. -/
theorem State.modStripe_put {s : State} {id : Nat} {r r2 : StripeRec} (hr : s.stripe id = some r) (hid : r2.id = id) :
    (s.modStripe id (fun _ => r2)).stripe id = some r2 :=
  (find?_updFirst (p := fun r : StripeRec => r.id = id) (f := fun _ => r2) (fun _ _ => decide_eq_true hid) s.stripes.recs).trans (congrArg (Option.map fun _ => r2) hr)

/-! ### Copies (R20, R233, R238) -/

theorem State.place_copy {s : State} {w : Wy} {id off src : Nat} {srcW : Wy} (hup : s.holdup = none) :
    (s.canPlace w = true → .mortar w src srcW (.journalAck id off .placed) ∈ (s.place w (.copy id off (some (src, srcW)))).out)
      ∧ (s.canPlace w = false → (w, .copy id off (some (src, srcW))) ∈ (s.place w (.copy id off (some (src, srcW)))).store.unplaced) := by
  constructor
  · intro hplace
    rw [State.place, if_pos hplace]
    exact State.mortarOut_sends ((State.mirrored_keeps.holdup_eq (by decide)).trans hup)
  · intro hplace
    rw [State.place, if_neg (by simp [hplace])]
    split
    · next hin => simpa using hin
    · exact List.mem_append_right _ (List.mem_singleton.mpr rfl)

/-- The record of a stripe whose first copy a member takes. -/
def firstCopy (s : State) (h : MHead) (id off lead : Nat) (journal : List Nat) (record : Bytes) : StripeRec :=
  { id := id, st := .opened, closed := false, fill := off + record.length, gen := 0, lead := lead, leadEpoch := h.epoch,
    journal := journal, targets := [], openedAt := s.now, digest := [], recs := [(off, record)], waits := [], placed := [],
    held := [], done := [], refused := [], sealedWait := [] }

theorem State.doJournalCopy_of_new {s : State} {w : Wy} {h : MHead} {id off lead : Nat} {journal : List Nat} {record : Bytes}
    (hsus : s.amSuspect = false) (hnone : s.stripe id = none) :
    s.doJournalCopy w h id off lead journal record
      = (s.modStripes (fun x => { x with recs := x.recs ++ [firstCopy s h id off lead journal record] })).place w
        (.copy id off (some (h.src, h.srcW))) := by
  unfold State.doJournalCopy
  dsimp only
  rw [if_neg (by simp [hsus]), hnone]
  rfl

theorem State.addStripe_stripe {s : State} {r : StripeRec} (hnone : s.stripe r.id = none) :
    (s.modStripes (fun x => { x with recs := x.recs ++ [r] })).stripe r.id = some r := by
  change (s.stripes.recs ++ [r]).find? (fun y => y.id = r.id) = some r
  have hnone' : s.stripes.recs.find? (fun y => y.id = r.id) = none := hnone
  rw [List.find?_append, hnone', Option.none_or, List.find?_cons_of_pos (by exact decide_eq_true rfl)]

/-- Of a record whose copies are all placed the one that waited first is answered NEW (R150, R238). -/
theorem State.ackWhole_answers {s : State} {w : Wy} {id off : Nat} {r : StripeRec} {x : StripeWait} (hup : s.holdup = none)
    (hr : s.stripe id = some r) (hplaced : ∀ j ∈ r.journal, (off, j) ∈ r.placed) (hown : s.copyWaits id off = false)
    (hx : r.waits.find? (fun x => x.offset = off) = some x) :
    .mortar w x.home (wyOfPart x.p) (.chunkAck (fragGroup id) x.p .new x.requestId x.chunk x.place) ∈ (s.ackWhole w id off).out := by
  have hgo : ¬ (s.copyWaits id off || !r.journal.all (fun j => r.placed.contains (off, j))) = true := by
    have hall : r.journal.all (fun j => r.placed.contains (off, j)) = true :=
      List.all_eq_true.mpr fun j hj => List.contains_iff_mem.mpr (hplaced j hj)
    rw [hown, hall]
    decide
  unfold State.ackWhole
  rw [hr]
  dsimp only
  rw [if_neg hgo]
  have hhead : (r.waits.filter (fun x => x.offset = off)).head? = some x := by
    rw [List.head?_filter]
    exact hx
  obtain ⟨l, hl⟩ : ∃ l, r.waits.filter (fun x => decide (x.offset = off)) = x :: l := by
    cases hf : r.waits.filter (fun x => decide (x.offset = off)) with
    | nil => rw [hf] at hhead; cases hhead
    | cons y l => rw [hf] at hhead; exact ⟨l, by rw [Option.some.inj hhead]⟩
  refine mem_out_foldl (l := [.mortar, .pcie, .regs]) (a := (x, 0)) (fun t => t.holdup = none) ?_ ?_ ?_ ?_ hup
  · exact fun _ _ => State.mortarOut_keeps
  · exact fun _ _ ht => State.mortarOut_holdup.trans ht
  · rw [hl]
    exact List.mem_cons_self ..
  · exact fun _ ht => State.mortarOut_sends ht

/-- The copy of a brick counts as placed. -/
def State.notePlaced (s : State) (id off b : Nat) : State :=
  s.modStripe id (fun r => { r with placed := if r.placed.contains (off, b) then r.placed else r.placed ++ [(off, b)] })

theorem State.placedCopy_answers {s : State} {w : Wy} {id off b : Nat} {r : StripeRec} {x : StripeWait} (hup : s.holdup = none)
    (hr : s.stripe id = some r) (hplaced : ∀ j ∈ r.journal, j = b ∨ (off, j) ∈ r.placed) (hown : s.copyWaits id off = false)
    (hx : r.waits.find? (fun x => x.offset = off) = some x) :
    .mortar w x.home (wyOfPart x.p) (.chunkAck (fragGroup id) x.p .new x.requestId x.chunk x.place) ∈ (s.placedCopy w id off b).out := by
  have hack : .mortar w x.home (wyOfPart x.p) (.chunkAck (fragGroup id) x.p .new x.requestId x.chunk x.place)
      ∈ ((s.notePlaced id off b).ackWhole w id off).out := by
    refine State.ackWhole_answers hup (State.modStripe_stripe (fun _ => rfl) hr) (fun j hj => ?_) hown hx
    dsimp only
    rcases hplaced j hj with rfl | hin
    · split
      · next h => exact List.contains_iff_mem.mp h
      · exact List.mem_append_right _ (List.mem_singleton.mpr rfl)
    · split
      · exact hin
      · exact List.mem_append_left _ hin
  unfold State.placedCopy
  extract_lets s1
  split
  · exact hack
  · extract_lets all
    split
    · exact State.sendSeal_keeps.mem_out hack
    · split
      · exact State.startSeal_keeps.mem_out hack
      · exact hack

/-! ### Sealing (R235, R236, R240) -/

/-- The record of a stripe that a member holds for sealing. -/
def sealedImage (r : StripeRec) (h : MHead) (fill gen : Nat) (digest : Bytes) (lead : Nat) (targets : List (Option Nat)) : StripeRec :=
  { r with st := .sealing, closed := true, fill := fill, gen := gen, digest := digest, lead := lead, leadEpoch := max r.leadEpoch h.epoch,
           targets := targets }

theorem State.doStripeSeal_holds {s : State} {w : Wy} {h : MHead} {id fill gen : Nat} {digest : Bytes} {r : StripeRec} {targets : List (Option Nat)}
    (hup : s.holdup = none) (hsus : s.amSuspect = false) (hr : s.stripe id = some r) (hlead : r.lead = h.src)
    (hd : sha256 (imageOf { r with fill := fill }) = digest) :
    .mortar w h.src h.srcW (.journalAck id 0 .sealHeld)
        ∈ (s.doStripeSeal w h id fill gen digest r.lead targets).out
      ∧ (s.doStripeSeal w h id fill gen digest r.lead targets).stripe id
        = some (sealedImage r h fill gen digest r.lead targets) := by
  have hold : ¬ (decide (h.src ≠ r.lead) && decide (h.epoch ≤ r.leadEpoch)) = true := by simp [hlead]
  unfold State.doStripeSeal
  extract_lets ack
  rw [if_neg (by simp [hsus]), hr]
  dsimp only
  rw [if_neg hold, if_neg (not_not.mpr hd)]
  have hmod : (s.modStripe id (fun r2 => sealedImage r2 h fill gen digest r.lead targets)).stripe id
      = some (sealedImage r h fill gen digest r.lead targets) := State.modStripe_stripe (fun _ => rfl) hr
  constructor
  · refine (Keeps.foldl (fun _ _ => State.doFragPut_keeps) .refl).mem_out ?_
    exact State.mortarOut_sends hup
  · refine ((RecsKeep.foldl (fun _ _ => State.doFragPut_recs) .refl).stripe_eq id).trans ?_
    exact (State.mortarOut_keeps.stripe_eq (by decide) id).trans hmod

theorem State.checkSealed_done {s : State} {w : Wy} {id i : Nat} {r : StripeRec} (hr : s.stripe id = some r) (hdone : i ∈ r.done) :
    ∃ y, (s.checkSealed w id).stripe id = some y ∧ i ∈ y.done := by
  unfold State.checkSealed
  rw [hr]
  dsimp only
  split
  · refine ⟨{ r with st := .sealed, sealedWait := r.journal }, ?_, hdone⟩
    refine ((Keeps.foldl (fun _ _ => State.mortarOut_keeps) .refl).stripe_eq (l := [.mortar, .pcie, .regs]) (by decide) id).trans ?_
    exact State.modStripe_stripe (f := fun r => { r with st := .sealed, sealedWait := r.journal }) (fun _ => rfl) hr
  · exact ⟨r, hr, hdone⟩

theorem State.doFragAck_done {s : State} {w : Wy} {src f : Nat} {r : StripeRec} (hsus : s.amSuspect = false)
    (hr : s.stripe (stripeOf f) = some r) (hst : r.st = .sealing) (hlead : r.lead = s.myId)
    (htarget : r.targets.getD (fragIndex f) none = some src) :
    ∃ y, (s.doFragAck w src f r.gen .done).stripe (stripeOf f) = some y ∧ fragIndex f ∈ y.done := by
  have hgo : ¬ (decide (r.st ≠ .sealing) || decide (r.lead ≠ s.myId) || s.amSuspect) = true := by simp [hst, hlead, hsus]
  have hmine : (decide (r.gen = r.gen) && decide (r.targets.getD (fragIndex f) none = some src)) = true := by rw [htarget]; simp
  unfold State.doFragAck
  dsimp only
  rw [hr]
  dsimp only
  rw [if_neg hgo, if_pos hmine]
  refine State.checkSealed_done (State.modStripe_stripe (fun _ => rfl) hr) ?_
  dsimp only
  split
  · next hin => exact List.contains_iff_mem.mp hin
  · exact List.mem_append_right _ (List.mem_singleton.mpr rfl)

theorem State.dropStripe_stripe (s : State) (id : Nat) : (s.dropStripe id).stripe id = none := by
  refine List.find?_eq_none.mpr fun r hr hid => ?_
  exact of_decide_eq_true (List.mem_filter.mp hr).2 (of_decide_eq_true hid)

/-- The record of a stripe whose lead begins to seal it. -/
def sealingRec (r : StripeRec) (t : List (Option Nat)) : StripeRec :=
  { r with st := .sealing, closed := true, targets := t, digest := sha256 (imageOf r),
           gen := if r.digest ≠ [] && r.digest ≠ sha256 (imageOf r) then r.gen + 1 else r.gen, held := [], done := [], refused := [] }

theorem State.startSeal_of_targets {s : State} {w : Wy} {id : Nat} {r : StripeRec} {l : List (Option Nat)} (hr : s.stripe id = some r)
    (hst : r.st = .opened) (hlead : r.lead = s.myId) (hsus : s.amSuspect = false)
    (hl : l = ((s.walkFor (fragGroup id) []).map (fun x => x.targets)).getD [])
    (hcount : s.wall.settings.k + min s.wall.settings.m 2 ≤ targetCount l) :
    s.startSeal w id = r.journal.foldl (fun s b => s.sendSeal w (sealingRec r l) b) (s.modStripe id (fun _ => sealingRec r l)) := by
  have hgo : ¬ (decide (r.st ≠ .opened) || decide (r.lead ≠ s.myId) || s.amSuspect) = true := by simp [hst, hlead, hsus]
  unfold State.startSeal
  rw [hr]
  dsimp only
  rw [if_neg hgo, ← hl, if_neg (Nat.not_lt.mpr hcount)]
  rfl

/-! ### The state of a stripe (R239, R241) -/

theorem State.doJournalState_copies {s : State} {w : Wy} {h : MHead} {j : JState} {r : StripeRec} {e : Nat × Bytes} (hup : s.holdup = none)
    (hsus : s.amSuspect = false) (hr : s.stripe j.stripe = some r) (hlead : r.lead = s.myId) (hjlead : j.lead = r.lead)
    (hjst : j.st ≠ .sealed) (he : e ∈ r.recs) (hlack : ∀ x ∈ j.recs, x.1 ≠ e.1) :
    .mortar w h.src (wyOfGroup (fragGroup r.id)) (.journalCopy r.id e.1 r.lead r.journal e.2) ∈ (s.doJournalState w h j).out := by
  have hlearn : s.learnSeal j = s := if_pos hjst
  have hgone : ¬ ((decide (j.lead ≠ s.myId) && decide (j.lead ≠ r.lead)) || (decide (j.st = .sealed) && decide (r.gen < j.gen))) = true := by
    simp [hjlead, hjst]
  have hsealed : ¬ (decide (j.st = .sealed) || s.amSuspect) = true := by simp [hjst, hsus]
  unfold State.doJournalState
  extract_lets t theirs
  have ht : t = s := hlearn
  clear_value t
  subst ht
  split
  · next hnone => exact absurd (hnone.symm.trans hr) (by simp)
  next r' hr' =>
  obtain rfl : r = r' := Option.some.inj (hr.symm.trans hr')
  rw [if_neg hgone, if_neg (not_not.mpr hlead), if_neg hsealed]
  extract_lets also s1 s2 lacking s3 s4
  have hs2 : .mortar w h.src (wyOfGroup (fragGroup r.id)) (.journalCopy r.id e.1 r.lead r.journal e.2) ∈ s2.out := by
    unfold s2 State.copyTo
    refine mem_out_foldl (l := [.mortar, .pcie, .regs]) (a := e) (fun t => t.holdup = none) ?_ ?_
      (List.mem_filter.mpr ⟨he, ?_⟩) ?_ hup
    · exact fun _ _ => State.mortarOut_keeps
    · exact fun _ _ ht => State.mortarOut_holdup.trans ht
    rotate_left
    · exact fun _ ht => State.mortarOut_sends ht
    have hno : e.1 ∉ theirs := fun hin => by
      obtain ⟨x, hx, hxe⟩ := List.mem_map.mp hin
      exact hlack x hx hxe
    simpa using hno
  have hs3 : Keeps [.mortar, .pcie, .regs] s2 s3 := .foldl (fun _ _ => .foldl (fun _ _ => State.mortarOut_keeps) .refl) .refl
  have hs4 : .mortar w h.src (wyOfGroup (fragGroup r.id)) (.journalCopy r.id e.1 r.lead r.journal e.2) ∈ s4.out :=
    State.replaceJournal_keeps.mem_out (hs3.mem_out hs2)
  split
  · extract_lets all
    split
    · exact State.startSeal_keeps.mem_out hs4
    · split
      · exact State.sendSeal_keeps.mem_out hs4
      · exact hs4
  · exact hs4

theorem State.stripe_isSome {s : State} {r : StripeRec} (h : r ∈ s.stripes.recs) : (s.stripe r.id).isSome = true :=
  List.find?_isSome.mpr ⟨r, h, decide_eq_true rfl⟩

theorem exec_journalStateReq_of_pending {s : State} {w : Wy} {h : MHead} {group id : Nat} {r : StripeRec} (hears : s.hears w = true)
    (hepoch : h.epoch = s.wall.epoch) (hr : r ∈ s.stripes.recs) (hid : id = 0 ∨ id = r.id) :
    exec (.journalStateReq w h group id) s = .next (((s.seeHlc w h.hlc).stripes.recs.filter (fun r => fragGroup r.id = group
      && (id = 0 || r.id = id))).foldl (fun s r => s.mortarOut w h.src h.srcW (.journalState (journalOf r))) (s.seeHlc w h.hlc)) := by
  have hpend : (decide (id = 0) || ((s.seeHlc w h.hlc).stripe id).isSome) = true := by
    rw [(State.seeHlc_keeps (s := s) (w := w) (r := h.hlc)).stripe_eq (by decide)]
    rcases hid with rfl | rfl
    · simp
    · rw [State.stripe_isSome hr, Bool.or_true]
  refine congrArg Host.Outcome.next ((State.mortarIn_of_hears hears hepoch).trans ?_)
  dsimp only
  rw [if_pos hpend]

end Sys2Proof.Machine

namespace Sys2Proof

open Sys2Proof.Machine

/-- Settles O24, clause by clause: a message is handled on the state whose clock it has raised; fragments that a seal brings leave the records
of the pending stripes, and what goes out stays put out. -/
theorem stripeJournalActs : Obligations.StripeJournalActs := by
  unfold Obligations.StripeJournalActs
  intro w h s hears hepoch
  have hkeep : Keeps [.clk] s (s.seeHlc w h.hlc) := State.seeHlc_keeps
  have hup : (s.seeHlc w h.hlc).holdup = none := (State.seeHlc_holdup ..).trans (State.holdup_of_hears hears)
  have hwall : (s.seeHlc w h.hlc).wall = s.wall := State.seeHlc_wall ..
  have hsus : (s.seeHlc w h.hlc).amSuspect = s.amSuspect := by rw [State.amSuspect, hwall, State.amSuspect]
  have hid : (s.seeHlc w h.hlc).myId = s.myId := by rw [State.myId, hwall, State.myId]
  have hstripe : ∀ id, (s.seeHlc w h.hlc).stripe id = s.stripe id := fun id => hkeep.stripe_eq (by decide) id
  have hin : ∀ {i : Instr} {f : State → State}, s.mortarIn w h i f = f (s.seeHlc w h.hlc) := State.mortarIn_of_hears hears hepoch
  refine ⟨?_, ?_, ?_, ?_, ?_, ?_, ?_, ?_, ?_⟩
  · intro id off lead fill count gen a journal record digest targets hsuspect
    have hsuspect' := hsus.trans hsuspect
    have hsame : (s.seeHlc w h.hlc).stripes = s.stripes ∧ (s.seeHlc w h.hlc).out = s.out :=
      ⟨hkeep.stripes_eq (by decide), State.seeHlc_out ..⟩
    exact ⟨runs_intro (congrArg Host.Outcome.next (hin.trans (if_pos hsuspect'))) hsame,
      runs_intro (congrArg Host.Outcome.next (hin.trans (if_pos hsuspect'))) hsame,
      runs_intro (congrArg Host.Outcome.next (hin.trans (if_pos hsuspect'))) hsame⟩
  · intro id off lead journal record hcalm hnone
    refine runs_intro (congrArg Host.Outcome.next (hin.trans (State.doJournalCopy_of_new (hsus.trans hcalm) ((hstripe id).trans hnone)))) ?_
    rw [← State.seeHlc_canPlace s w h.hlc w]
    obtain ⟨hplaced, hwaits⟩ := State.place_copy (s := (s.seeHlc w h.hlc).modStripes (fun x => { x with
      recs := x.recs ++ [firstCopy (s.seeHlc w h.hlc) h id off lead journal record] })) (w := w) (id := id) (off := off) (src := h.src)
      (srcW := h.srcW) hup
    refine ⟨hplaced, hwaits, firstCopy (s.seeHlc w h.hlc) h id off lead journal record, ?_, rfl, rfl, rfl, rfl⟩
    exact (State.place_keeps.stripe_eq (by decide) id).trans
      (State.addStripe_stripe (r := firstCopy (s.seeHlc w h.hlc) h id off lead journal record) ((hstripe id).trans hnone))
  · intro id off r x hcalm hr hplaced hown hx
    have hown' : (s.seeHlc w h.hlc).copyWaits id off = false := by
      rw [State.copyWaits, State.seeHlc_store]
      exact hown
    refine runs_intro (congrArg Host.Outcome.next (hin.trans (if_neg ?_)))
      (State.placedCopy_answers hup ((hstripe id).trans hr) hplaced hown' hx)
    rw [hsus, hcalm]
    decide
  · intro id fill count gen r targets hcalm hr hlead
    obtain ⟨hsent, hy⟩ := State.doStripeSeal_holds (w := w) (fill := fill) (gen := gen) (targets := targets) hup (hsus.trans hcalm)
      ((hstripe id).trans hr) hlead rfl
    exact runs_intro (congrArg Host.Outcome.next hin) ⟨hsent, _, hy, rfl, rfl, rfl, rfl⟩
  · intro f r hcalm hr hst hlead htarget
    obtain ⟨y, hy, hdone⟩ := State.doFragAck_done (w := w) (hsus.trans hcalm) ((hstripe _).trans hr) hst (hlead.trans hid.symm) htarget
    refine runs_intro (congrArg Host.Outcome.next hin) ⟨y, ?_, hdone⟩
    exact (State.mirrorGroup_keeps.stripe_eq (by decide) _).trans ((State.spaceCheck_keeps.stripe_eq (by decide) _).trans hy)
  · intro id gen r hr hlead hgen
    refine runs_intro (congrArg Host.Outcome.next hin) ?_
    rw [hstripe, hr]
    simp only [hid, hlead, hgen, ne_eq, not_false_eq_true, decide_true, Bool.and_self, if_true]
    exact State.dropStripe_stripe ..
  · intro id r l hcalm hr hst hrecs hdue hlead hl hcount
    have hgo : (decide (r.st = .opened) && decide (r.recs ≠ []) && s.since r.openedAt (ms 50)) = true := by
      have : s.since r.openedAt (ms 50) = true := (State.since_ms ..).mpr hdue
      simp [hst, hrecs, this]
    have hexec : exec (.sealTimer id) s = .next (s.startSeal (wyOfGroup (fragGroup id)) id) := by
      change execSealTimer id s = _
      unfold execSealTimer
      rw [hr]
      dsimp only
      rw [if_pos hgo]
    rw [State.startSeal_of_targets hr hst hlead hcalm hl hcount] at hexec
    have hrid := State.stripe_id hr
    have hsends : Keeps [.mortar, .pcie, .regs] (s.modStripe id (fun _ => sealingRec r l))
        (r.journal.foldl (fun s b => s.sendSeal (wyOfGroup (fragGroup id)) (sealingRec r l) b) (s.modStripe id (fun _ => sealingRec r l))) :=
      .foldl (fun _ _ => State.sendSeal_keeps) .refl
    refine runs_intro hexec ⟨sealingRec r l, (hsends.stripe_eq (by decide) id).trans (State.modStripe_put hr hrid), rfl, rfl, rfl, rfl,
      fun b hb => ?_⟩
    refine mem_out_foldl (l := [.mortar, .pcie, .regs]) (a := b) (fun t => t.holdup = none) (fun _ _ => State.sendSeal_keeps)
      (fun _ _ ht => (State.sendSeal_keeps.holdup_eq (by decide)).trans ht) hb (fun t ht => ?_) (State.holdup_of_hears hears)
    have hsent := State.mortarOut_sends (w := wyOfGroup (fragGroup id)) (dst := b) (dstW := wyOfGroup (fragGroup (sealingRec r l).id))
      (b := .stripeSeal (sealingRec r l).id (sealingRec r l).fill (sealingRec r l).recs.length (sealingRec r l).gen (sealingRec r l).digest
        (sealingRec r l).lead (wireTargets (sealingRec r l).targets)) ht
    have hsid : (sealingRec r l).id = id := hrid
    have hslead : (sealingRec r l).lead = s.myId := hlead
    rw [hsid, hslead] at hsent
    unfold State.sendSeal
    rw [hsid, hslead]
    exact hsent
  · intro group id r hr hgroup hrid
    refine runs_intro (exec_journalStateReq_of_pending hears hepoch hr hrid) ⟨journalOf r, ?_, rfl, rfl, rfl, rfl, rfl⟩
    refine mem_out_foldl (l := [.mortar, .pcie, .regs]) (a := r) (fun t => t.holdup = none) ?_ ?_ (List.mem_filter.mpr ⟨?_, ?_⟩) ?_ hup
    · exact fun _ _ => State.mortarOut_keeps
    · exact fun _ _ ht => State.mortarOut_holdup.trans ht
    · rw [hkeep.stripes_eq (by decide)]
      exact hr
    · rcases hrid with rfl | rfl <;> simp [hgroup]
    · exact fun _ ht => State.mortarOut_sends ht
  · intro j r e hcalm hr hlead hjlead hjst he hlack
    exact runs_intro (congrArg Host.Outcome.next hin) (State.doJournalState_copies hup (hsus.trans hcalm) ((hstripe _).trans hr)
      (hlead.trans hid.symm) hjlead hjst he hlack)

end Sys2Proof
end

section
/-! PROOFS. A query about a request whose commit has started is held, although no command runs (R262). -/

namespace Sys2Proof.Machine

/-- The commit of request 9 of partition 0, whose command has ended. -/
def commitOfNine : Commit :=
  { cmdId := 0, part := 0, keys := [], version := 8, adds := [], keyspace := 2, requestId := 9, status := .ok, detail := .none, result := 0,
    segments := 2, acks := [], deltas := [] }

/-- Brick 3, home of partition 0, with no command and with the commit of request 9. -/
def committingHome : State :=
  { State.reset with
    cover := { Cover.reset with run0 := true }
    wall := { Wall.reset with brickId := some 3 }
    store := { Store.reset with
      map := { version := 1, epoch := 7, bricks := []
               parts := [(0, { home := 3, standby1 := 1, standby2 := 2, moving := false, epoch := 5 })] }
      parts := [{ p := 0, opened := true, fenced := false, moving := false, moveTo := none, movedAt := 0, closed := 0, epoch := 5,
                  collect := [], collected := [], toPlace := [], needCasts := false }] }
    w0 := { Wythe.reset .w0 with relief := { (Wythe.reset .w0).relief with commits := [commitOfNine] } } }

/-- The head of the query: brick 1 sends it in the epoch that the home is in. -/
def queryHead : MHead := { src := 1, srcW := .w0, compat := 0, epoch := Wall.reset.epoch, hlc := 0, addr := 1 }

end Sys2Proof.Machine

namespace Sys2Proof
open Sys2Proof.Machine

/-- Refutes O27: a query is held while its request's commit stands (R262), and a commit may stand with no command left on the brick:
then no REF_ANSWER goes out. -/
theorem not_homesAndHoldersKeepReferences : ¬ Obligations.HomesAndHoldersKeepReferences := by
  unfold Obligations.HomesAndHoldersKeepReferences
  intro h
  obtain ⟨-, -, answered, -⟩ := h .w0 queryHead committingHome (by decide) (by decide)
  obtain ⟨t, run, c, sent⟩ := answered 0 0 0 9
    { p := 0, opened := true, fenced := false, moving := false, moveTo := none, movedAt := 0, closed := 0, epoch := 5,
      collect := [], collected := [], toPlace := [], needCasts := false }
    (by decide) (by decide) rfl (by intro v; cases v <;> decide) (by decide)
  have quiet : (committingHome.mortarIn .w0 queryHead (.refQuery .w0 queryHead 0 0 9 0)
      (fun s => s.doRefQuery .w0 queryHead 0 0 9 0)).out = [] := by decide
  have next : committingHome.mortarIn .w0 queryHead (.refQuery .w0 queryHead 0 0 9 0)
      (fun s => s.doRefQuery .w0 queryHead 0 0 9 0) = t := Host.Outcome.next.inj run
  rw [next] at quiet
  rw [quiet] at sent
  exact absurd sent List.not_mem_nil

end Sys2Proof
end

section
/-! PROOFS. A chunk of a command that does not run is not read on: its decoded form is not re-verified, and no degraded read begins. -/

namespace Sys2Proof.Machine

/-- A chunk of a record of length zero at byte 0 of fragment 0. -/
def emptyChunk : RecipeEntry :=
  { fp := [], place := { fragId := 0, offset := 0, length := 0, keyVersion := 0 }, start := 0, plain := 0, codec := .stored }

/-- A range of fragment 0 asked of brick 1 at time 0. -/
def askedOfOne : RangeAsk := { seg := 0, idx := 0, brick := 1, pending := false, at_ := 0 }

/-- The read of that chunk, in a stage; its only segment has come. -/
def emptyRead (st : RStage) : RChunk :=
  { entry := 0, ent := emptyChunk, stage := st, asked := [askedOfOne], parts := [(0, 0, [])], bad := [], looked := false, rebuilt := false,
    body := [], data := [] }

/-- A GET that is to be re-verified and still waits for its admission, with the read of a chunk. -/
def waitingGet (x : RChunk) : Cmd :=
  { id := 0, q := 0, op := .get, cap := { Capsule.zero with flags := 32 }, key := [], imm := [], epoch := 1, arrived := 0, waitFrom := 0,
    phase := .waiting, suppressed := false, window := 0, ops := [], wchunks := [], rchunks := [x], readVer := none, castTime := 0, castId := 0 }

/-- Wythe 0 runs, 20 ms after the start of time, with that GET and a decompression of its chunk on tile 5. -/
def waitingReader (x : RChunk) : State :=
  { State.reset with
    now := 20000000
    cover := { Cover.reset with run0 := true }
    w0 := { Wythe.reset .w0 with
      relief := { (Wythe.reset .w0).relief with cmds := [waitingGet x] }
      codec := [{ unit := .decompress, ref := .readChunk 0 0, course := 0, tile := some 5 }] } }

end Sys2Proof.Machine

namespace Sys2Proof
open Sys2Proof.Machine

/-- Refutes O13: the statement does not ask that the command runs, and the decompressed chunk of one that does not takes no hash unit. -/
theorem not_cryptJobsAndKeys : ¬ Obligations.CryptJobsAndKeys := by
  unfold Obligations.CryptJobsAndKeys
  intro h
  obtain ⟨-, -, -, -, -, -, verified⟩ := h .w0 (waitingReader (emptyRead .decoding))
  obtain ⟨decompressed, -⟩ := verified 0 0 (waitingGet (emptyRead .decoding)) (emptyRead .decoding) [] 5 (by decide) (by decide)
  obtain ⟨t, run, j, hj, hunit, -⟩ := decompressed (by decide) (by decide) (by decide) (by decide)
  have same : execDecompressJobEnd .w0 0 0 (waitingReader (emptyRead .decoding)) = .next (waitingReader (emptyRead .decoding)) := by
    have none_ : (waitingReader (emptyRead .decoding)).chunkOf .w0 0 0 = none := by decide
    unfold execDecompressJobEnd
    rw [none_]
    split
    · contradiction
    · rfl
  obtain rfl : waitingReader (emptyRead .decoding) = t := Host.Outcome.next.inj (same.symm.trans run)
  have only : ∀ j ∈ ((waitingReader (emptyRead .decoding)).wy .w0).codec, j.unit ≠ .hash := by decide
  exact only j hj hunit

/-- Refutes O25: the statement does not ask that the command of the late range runs, and that of one that does not is left as it is. -/
theorem not_fragmentsAct : ¬ Obligations.FragmentsAct := by
  unfold Obligations.FragmentsAct
  intro h
  obtain ⟨-, -, -, -, -, -, -, -, -, late⟩ := h .w0 { src := 1, srcW := .w0, compat := 0, epoch := Wall.reset.epoch, hlc := 0, addr := 1 }
    (waitingReader (emptyRead .fetching)) (by decide) (by decide)
  obtain ⟨t, run, d, y, hd, hy, hst, -⟩ := late 0 0 (waitingGet (emptyRead .fetching)) (emptyRead .fetching) askedOfOne [] (by decide)
    (by decide) (by decide) (by decide) (by decide) (by decide) (by decide)
  have same : execFetchTimeout .w0 0 0 (waitingReader (emptyRead .fetching)) = .next (waitingReader (emptyRead .fetching)) := by
    have none_ : (waitingReader (emptyRead .fetching)).chunkOf .w0 0 0 = none := by decide
    unfold execFetchTimeout
    rw [none_]
  obtain rfl : waitingReader (emptyRead .fetching) = t := Host.Outcome.next.inj (same.symm.trans run)
  have hread : ((waitingReader (emptyRead .fetching)).wy .w0).relief.cmd 0 = some (waitingGet (emptyRead .fetching)) := by decide
  rw [hread] at hd
  obtain rfl := Option.some.inj hd
  obtain rfl : emptyRead .fetching = y := Option.some.inj hy
  exact absurd hst (by decide)

end Sys2Proof
end

section
/-! PROOFS. The stages of a read (R70, R71, R144, R159, R160, R164): late ranges, delivery, re-verification and the end of a GET. -/

namespace Sys2Proof.Machine

/-! ### A chunk of a read -/

theorem State.chunkOf_running {s : State} {w : Wy} {id n : Nat} {c : Cmd} {x : RChunk} (hc : (s.wy w).relief.cmd id = some c)
    (hrun : c.phase = .running) (hx : c.rchunks[n]? = some x) : s.chunkOf w id n = some (c, x) := by
  simp [State.chunkOf, hc, hrun, hx]

theorem State.modRChunk_cmd {s : State} {w : Wy} {id n : Nat} {f : RChunk → RChunk} {c : Cmd} (hc : (s.wy w).relief.cmd id = some c) :
    ((s.modRChunk w id n f).wy w).relief.cmd id
      = some { c with rchunks := c.rchunks.mapIdx (fun i x => if i = n then f x else x) } := by
  unfold State.modRChunk
  rw [State.modCmd_cmd]
  · rw [hc]
    rfl
  · exact fun _ => rfl

/-- A change of a chunk of a read stands in its command. -/
theorem State.modRChunk_chunk {s : State} {w : Wy} {id n : Nat} {f : RChunk → RChunk} {c : Cmd} {x : RChunk}
    (hc : (s.wy w).relief.cmd id = some c) (hx : c.rchunks[n]? = some x) :
    ∃ d, ((s.modRChunk w id n f).wy w).relief.cmd id = some d ∧ d.rchunks[n]? = some (f x) :=
  ⟨_, State.modRChunk_cmd hc, by simp [List.getElem?_mapIdx, hx]⟩

theorem State.modRChunk_queue (s : State) (w : Wy) (id n q : Nat) (f : RChunk → RChunk) :
    ((s.modRChunk w id n f).wy w).relief.queue q = (s.wy w).relief.queue q := by
  rw [State.modRChunk, State.modCmd, State.modRelief_wy]
  rfl

/-! ### Late ranges (R160) -/

theorem State.missRange_silent {s : State} {w : Wy} {c : Cmd} {n : Nat} {x : RChunk} {a : RangeAsk} (hst : x.stage = .fetching)
    (hask : x.asked = [a]) (hp : a.pending = false) :
    s.missRange w c n x a false 0xFFFF = s.degrade w c n { x with asked := [], bad := x.bad ++ [a.idx] } := by
  simp [State.missRange, hst, hask, hp]

/-- The only range asked of a data member is late: the chunk turns to a degraded read. -/
theorem execFetchTimeout_late {s : State} {w : Wy} {id n : Nat} {c : Cmd} {x : RChunk} {a : RangeAsk} (hchunk : s.chunkOf w id n = some (c, x))
    (hst : x.stage = .fetching) (hask : x.asked = [a]) (hp : a.pending = false) (hlate : a.at_ + 20000000 ≤ s.now) :
    execFetchTimeout w id n s = .next (s.degrade w c n { x with asked := [], bad := x.bad ++ [a.idx] }) := by
  have hsince : s.since a.at_ (ms 20) = true := by
    rw [State.since_ms]
    exact hlate
  have hlist : x.asked.filter (fun a => s.since a.at_ (ms 20)) = [a] := by simp [hask, hsince]
  have hin : x.asked.contains a = true := by simp [hask]
  unfold execFetchTimeout
  rw [hchunk]
  dsimp only
  rw [hlist, List.foldl_cons, List.foldl_nil, hchunk]
  dsimp only
  rw [if_pos hin, State.missRange_silent hst hask hp]

section Degrade

variable {s : State} {w : Wy} {c : Cmd} {n : Nat} {x : RChunk} {l : List RangeAsk}
  (hl : s.moreAsks (segsOf s.wall.settings.fragBytes x.ent.place) x.asked x.parts x.bad id = some l)
include hl

theorem State.degrade_of_asks : s.degrade w c n x
    = l.foldl (fun s' a => s'.sendRange w (segsOf s.wall.settings.fragBytes x.ent.place) .client (readCookie c.id n) a)
      (s.modRChunk w c.id n (fun _ => { x with stage := .degraded, rebuilt := true, asked := x.asked ++ l })) := by
  unfold State.degrade
  dsimp only
  rw [hl]

/-- A degraded read asks for the ranges of others. -/
theorem State.degrade_chunk {y : RChunk} (hc : (s.wy w).relief.cmd c.id = some c) (hx : c.rchunks[n]? = some y) :
    ∃ d, ((s.degrade w c n x).wy w).relief.cmd c.id = some d
      ∧ d.rchunks[n]? = some { x with stage := .degraded, rebuilt := true, asked := x.asked ++ l } := by
  rw [State.degrade_of_asks hl, (Keeps.foldl (fun _ _ => State.sendRange_keeps) .refl : Keeps [.mortar, .pcie, .regs] _ _).relief_eq (by decide)]
  exact State.modRChunk_chunk hc hx

theorem State.degrade_sends (hup : s.holdup = none) {b : RangeAsk} (hb : b ∈ l) {g : Nat × Nat × Nat}
    (hg : (segsOf s.wall.settings.fragBytes x.ent.place)[b.seg]? = some g) :
    .mortar w b.brick (wyOfGroup (fragGroup g.1))
      (.rangeRead (stripeOf g.1 + b.idx) g.2.1 g.2.2 b.pending .client (readCookie c.id n)) ∈ (s.degrade w c n x).out := by
  rw [State.degrade_of_asks hl]
  refine mem_out_foldl (l := [.mortar, .pcie, .regs]) (a := b) (fun t => t.holdup = none) ?_ ?_ hb ?_ ?_
  · exact fun _ _ => State.sendRange_keeps
  · exact fun t _ ht => (State.sendRange_keeps.holdup_eq (by decide)).trans ht
  · intro t ht
    unfold State.sendRange
    rw [hg]
    exact State.mortarOut_sends ht
  · exact (State.modRChunk_keeps.holdup_eq (by decide)).trans hup

end Degrade

/-! ### Delivery and the end of a GET (R70, R71) -/

theorem State.deliver_places {s : State} {w : Wy} {c : Cmd} {v : ValueVer} {start lo hi : Nat} {data : Bytes}
    (hlo : lo = max start c.cap.offset.toNat) (hhi : hi = min (start + data.length) (getEnd c v)) (h : lo < hi) :
    .place w c.q (c.cap.bufAddr.toNat + (lo - c.cap.offset.toNat)) c.cap.bufRkey.toNat
      (sliceBytes (maskHoles v.holes start data) (lo - start) (hi - lo)) ∈ (s.deliver w c v start data).out := by
  subst hlo hhi
  unfold State.deliver
  dsimp only
  rw [if_neg (Nat.not_le.mpr h)]
  exact State.modQueue_keeps.mem_out (State.mem_emit_out ..)

theorem State.deliver_cmd (s : State) (w : Wy) (c : Cmd) (v : ValueVer) (start id : Nat) (data : Bytes) :
    ((s.deliver w c v start data).wy w).relief.cmd id = (s.wy w).relief.cmd id := by
  unfold State.deliver
  dsimp only
  split
  · rfl
  · rw [State.modQueue, State.modRelief_wy, State.emit_keeps.relief_eq (by decide)]
    rfl

theorem Sends.deliver {s : State} {w : Wy} {c : Cmd} {v : ValueVer} {start : Nat} {data : Bytes} (h : Sends s w c.q) :
    Sends (s.deliver w c v start data) w c.q := by
  obtain ⟨x, p, g, hx, htr⟩ := h.queue
  refine ⟨(State.deliver_keeps.holdup_eq (by decide)).trans h.up, ?_⟩
  unfold State.deliver
  dsimp only
  split
  · exact h.queue
  · exact ⟨{ x with dma := x.dma + 1 }, p, g, State.modQueue_queue (f := fun y : Queue => { y with dma := y.dma + 1 }) (fun _ => rfl)
      (by rw [State.emit_keeps.relief_eq (by decide), hx]), htr⟩

theorem Sends.modRChunk {s : State} {w : Wy} {q id n : Nat} {f : RChunk → RChunk} (h : Sends s w q) : Sends (s.modRChunk w id n f) w q :=
  ⟨(State.modRChunk_keeps.holdup_eq (by decide)).trans h.up, by rw [State.modRChunk_queue]; exact h.queue⟩

/-- The one chunk of a GET is delivered: nothing is left to fetch, and the GET ends with its version and length. -/
theorem State.chunkRead_ends {s : State} {w : Wy} {c : Cmd} {x : RChunk} {v : ValueVer} (data : Bytes) (hc : (s.wy w).relief.cmd c.id = some c)
    (hrun : c.phase = .running) (hone : c.rchunks = [x]) (hop : c.op = .get) (hv : c.readVer = some v) (hsup : c.suppressed = false)
    (h : Sends s w c.q) : .toClient w c.q (completionOf c .ok .none 0 v.time v.length) ∈ (s.chunkRead w c 0 x data).out := by
  unfold State.chunkRead
  dsimp only
  rw [if_pos hop]
  generalize hs1 : s.modRChunk w c.id 0 (fun x => { x with stage := .delivered, data := data, body := [], parts := [] }) = s1
  let read : Cmd := { c with rchunks := [{ x with stage := .delivered, data := data, body := [], parts := [] }] }
  have hc1 : (s1.wy w).relief.cmd c.id = some read := by
    rw [← hs1, State.modRChunk_cmd hc, hone]
    rfl
  have sends : Sends s1 w read.q := hs1 ▸ h.modRChunk
  have fetched : s1.fetchMore w c.id = s1 := by
    unfold State.fetchMore
    rw [hc1]
    dsimp only
    rw [if_neg (by simp [read, hop, hrun])]
    rfl
  rw [fetched]
  unfold State.endGet
  rw [hc1]
  dsimp only
  rw [if_neg (by simp [read, hop, hrun])]
  have hlost : lostAt read = none := rfl
  have huntrusted : untrustedAt read = none := rfl
  rw [hlost, huntrusted]
  dsimp only
  rw [if_pos (by rfl), show read.readVer = some v from hv]
  exact State.finish_answers sends hsup .ok .none 0 v.time v.length

/-- What the end of a codec job leaves of a read. -/
theorem State.endCodec_cmd (s : State) (w : Wy) (u : CodecUnit) (ref : JobRef) (t : Fin 128) (id : Nat) :
    ((s.endCodec w u ref t).wy w).relief.cmd id = (s.wy w).relief.cmd id := by
  rw [State.endCodec_keeps.relief_eq (by decide)]

theorem Sends.endCodec {s : State} {w : Wy} {q : Nat} {u : CodecUnit} {ref : JobRef} {t : Fin 128} (h : Sends s w q) :
    Sends (s.endCodec w u ref t) w q :=
  ⟨(State.endCodec_keeps.holdup_eq (by decide)).trans h.up, by rw [State.endCodec_keeps.relief_eq (by decide)]; exact h.queue⟩

theorem State.endCodec_wantsVerify (s : State) (w : Wy) (u : CodecUnit) (ref : JobRef) (t : Fin 128) (c : Cmd) :
    (s.endCodec w u ref t).wantsVerify c = s.wantsVerify c := by
  unfold State.wantsVerify State.keyspace
  rw [State.endCodec_keeps.store_eq (by decide)]

/-- Plaintext that is to be re-verified goes to the client and to the hash unit. -/
theorem State.plainIn_verifies {s : State} {w : Wy} {c : Cmd} {n : Nat} {x : RChunk} {d : Bytes} (hc : (s.wy w).relief.cmd c.id = some c)
    (hx : c.rchunks[n]? = some x) (hver : s.wantsVerify c = true) :
    (∃ e y, ((s.plainIn w c n x d).wy w).relief.cmd c.id = some e ∧ e.rchunks[n]? = some y ∧ y.stage = .verifying ∧ y.data = d)
      ∧ ∀ (v : ValueVer) (lo hi : Nat), c.op = .get → c.readVer = some v → lo = max x.ent.start c.cap.offset.toNat →
        hi = min (x.ent.start + d.length) (getEnd c v) → lo < hi →
        .place w c.q (c.cap.bufAddr.toNat + (lo - c.cap.offset.toNat)) c.cap.bufRkey.toNat
          (sliceBytes (maskHoles v.holes x.ent.start d) (lo - x.ent.start) (hi - lo)) ∈ (s.plainIn w c n x d).out := by
  unfold State.plainIn
  extract_lets s1
  rw [if_pos hver]
  have hc1 : (s1.wy w).relief.cmd c.id = some c := by
    unfold s1
    split
    · rw [State.deliver_cmd, hc]
    · exact hc
  refine ⟨?_, fun v lo hi hop hv hlo hhi hlt => State.queueCodec_keeps.mem_out (State.modRChunk_keeps.mem_out ?_)⟩
  · obtain ⟨e, he, hy⟩ := State.modRChunk_chunk (n := n) (f := fun x => { x with stage := .verifying, data := d }) hc1 hx
    exact ⟨e, _, by rw [State.queueCodec_keeps.relief_eq (by decide), he], hy, rfl, rfl⟩
  · have hs1 : s1 = s.deliver w c v x.ent.start d := by
      unfold s1
      rw [if_pos hop, hv]
    rw [hs1]
    exact State.deliver_places hlo hhi hlt

/-- Plaintext of the one chunk of a GET, not to be re-verified, ends it. -/
theorem State.plainIn_ends {s : State} {w : Wy} {c : Cmd} {x : RChunk} {v : ValueVer} {d : Bytes} (hc : (s.wy w).relief.cmd c.id = some c)
    (hrun : c.phase = .running) (hone : c.rchunks = [x]) (hop : c.op = .get) (hv : c.readVer = some v) (hsup : c.suppressed = false)
    (hver : s.wantsVerify c = false) (h : Sends s w c.q) :
    .toClient w c.q (completionOf c .ok .none 0 v.time v.length) ∈ (s.plainIn w c 0 x d).out := by
  unfold State.plainIn
  extract_lets s1
  rw [if_neg (by simp [hver])]
  have hs1 : s1 = s.deliver w c v x.ent.start d := by
    unfold s1
    rw [if_pos hop, hv]
  rw [hs1]
  exact State.chunkRead_ends d (by rw [State.deliver_cmd, hc]) hrun hone hop hv hsup h.deliver

theorem execDecompressJobEnd_plain {s : State} {w : Wy} {id n : Nat} {c : Cmd} {x : RChunk} {d : Bytes} {tile : Fin 128}
    (htile : s.codecTile w .decompress (.readChunk id n) = some tile) (hchunk : s.chunkOf w id n = some (c, x))
    (hd : decodeBytes (ofLe (sliceBytes x.body 16 1)) x.data = some d) (hlen : d.length = ofLe (sliceBytes x.body 12 4)) :
    execDecompressJobEnd w id n s = .next ((s.endCodec w .decompress (.readChunk id n) tile).plainIn w c n x d) := by
  unfold execDecompressJobEnd
  rw [htile, hchunk]
  dsimp only
  rw [hd]
  dsimp only
  rw [if_pos hlen]

theorem execReverifyJobEnd_matches {s : State} {w : Wy} {id n : Nat} {c : Cmd} {x : RChunk} {tile : Fin 128}
    (htile : s.codecTile w .hash (.readChunk id n) = some tile) (hchunk : s.chunkOf w id n = some (c, x))
    (hfp : sha256 (s.salt c.cap.keyspace ++ x.data) = x.ent.fp) :
    execReverifyJobEnd w id n s = .next ((s.endCodec w .hash (.readChunk id n) tile).chunkRead w c n x x.data) := by
  unfold execReverifyJobEnd
  rw [htile, hchunk]
  dsimp only
  rw [if_pos hfp]

theorem eq_zero_of_getElem?_singleton {α : Type} {a b : α} {n : Nat} (h : [a][n]? = some b) : n = 0 := by
  obtain ⟨hn, -⟩ := List.getElem?_eq_some_iff.mp h
  simpa using hn

end Sys2Proof.Machine

namespace Sys2Proof
open Sys2Proof.Machine

/-- Settles O12: a late range turns its chunk to a degraded read, and plaintext and matching fingerprints end a GET of one chunk. -/
theorem readPathAdvances : Obligations.ReadPathAdvances := by
  unfold Obligations.ReadPathAdvances
  intro w id n c x s hc hrun hx
  obtain rfl := Relief.cmd_id hc
  have hchunk := State.chunkOf_running hc hrun hx
  refine ⟨?_, ?_, ?_⟩
  · intro a l hst hask hp hlate hup hl
    refine ⟨_, execFetchTimeout_late hchunk hst hask hp hlate, ?_, ?_⟩
    · obtain ⟨d, hd, hy⟩ := State.degrade_chunk (x := { x with asked := [], bad := x.bad ++ [a.idx] }) hl hc hx
      exact ⟨d, _, hd, hy, rfl, List.nil_append l, rfl⟩
    · intro b hb g hg
      exact State.degrade_sends (x := { x with asked := [], bad := x.bad ++ [a.idx] }) hl hup hb hg
  · intro d tile htile hd hlen
    have hc1 : (((s.endCodec w .decompress (.readChunk c.id n) tile)).wy w).relief.cmd c.id = some c := by rw [State.endCodec_cmd, hc]
    refine ⟨fun hver => ?_, ?_⟩
    · exact ⟨_, execDecompressJobEnd_plain htile hchunk hd hlen,
        State.plainIn_verifies hc1 hx (by rw [State.endCodec_wantsVerify, hver])⟩
    · intro v q p g hver hone hop hv hsup hup hq htr
      obtain rfl := eq_zero_of_getElem?_singleton (hone ▸ hx)
      exact ⟨_, execDecompressJobEnd_plain htile hchunk hd hlen, State.plainIn_ends hc1 hrun hone hop hv hsup
        (by rw [State.endCodec_wantsVerify, hver]) (Sends.endCodec ⟨hup, q, p, g, hq, htr⟩)⟩
  · intro v tile q p g htile hone hop hv hfp hsup hup hq htr
    obtain rfl := eq_zero_of_getElem?_singleton (hone ▸ hx)
    exact ⟨_, execReverifyJobEnd_matches htile hchunk hfp, State.chunkRead_ends x.data (by rw [State.endCodec_cmd, hc]) hrun hone hop hv hsup
      (Sends.endCodec ⟨hup, q, p, g, hq, htr⟩)⟩

end Sys2Proof
end

section
/-! PROOFS. What the pipeline of a write leaves of the commands of its wythe (R108, R134, R153): their operations and what has been cut of
them; only the chunks that are pumped change. -/

namespace Sys2Proof.Machine

/-! ### A command on its way -/

/-- What has come of an operation and whether it is cut. -/
def WriteOp.got (o : WriteOp) : Opcode × Nat × Bytes × Bool × Bool := (o.op, o.length, o.data, o.pulled, o.cutDone)

/-- What a cut gave a chunk. -/
def WChunk.cutAs (x : WChunk) : Nat × Bytes × Bytes := (x.start, x.data, x.fp)

/-- From one form of a command to another its operations and cuts stay, and its chunks but for those of some numbers. -/
structure Cmd.Onward (M : Nat → Prop) (c d : Cmd) : Prop where
  ops : d.ops.map WriteOp.got = c.ops.map WriteOp.got
  cuts : d.wchunks.map WChunk.cutAs = c.wchunks.map WChunk.cutAs
  rest : ∀ n, ¬ M n → d.wchunks[n]? = c.wchunks[n]?

theorem Cmd.Onward.refl {M : Nat → Prop} {c : Cmd} : c.Onward M c := ⟨rfl, rfl, fun _ _ => rfl⟩

theorem Cmd.Onward.trans {M : Nat → Prop} {c d e : Cmd} (h : c.Onward M d) (k : d.Onward M e) : c.Onward M e :=
  ⟨k.ops.trans h.ops, k.cuts.trans h.cuts, fun n hn => (k.rest n hn).trans (h.rest n hn)⟩

theorem Cmd.Onward.op {M : Nat → Prop} {c d : Cmd} (h : c.Onward M d) {n : Nat} {o : WriteOp} (ho : c.ops[n]? = some o) :
    ∃ o2, d.ops[n]? = some o2 ∧ o2.got = o.got := by
  have hmap : (d.ops[n]?).map WriteOp.got = some o.got := by rw [← List.getElem?_map, h.ops, List.getElem?_map, ho, Option.map_some]
  simpa using hmap

/-- Of a list of chunks and one more, which alone may change, the list stays and the one is cut as it was. -/
theorem Cmd.Onward.last {c d : Cmd} {l : List WChunk} {k : WChunk} (h : c.Onward (fun n => n = l.length) d) (hc : c.wchunks = l ++ [k]) :
    ∃ k2, d.wchunks = l ++ [k2] ∧ k2.cutAs = k.cutAs := by
  have hcut := h.cuts
  rw [hc, List.map_append, List.map_singleton] at hcut
  obtain ⟨a, b, hd, ha, hb⟩ := List.map_eq_append_iff.mp hcut
  obtain ⟨k2, rfl, hk⟩ := List.map_eq_singleton_iff.mp hb
  have hlen : a.length = l.length := by simpa using congrArg List.length ha
  refine ⟨k2, ?_, hk⟩
  rw [hd]
  congr 1
  refine List.ext_getElem? fun n => ?_
  rcases Nat.lt_or_ge n l.length with hn | hn
  · have := h.rest n (Nat.ne_of_lt hn)
    rwa [hd, hc, List.getElem?_append_left (hlen ▸ hn), List.getElem?_append_left hn] at this
  · rw [List.getElem?_eq_none (hlen ▸ hn), List.getElem?_eq_none hn]

/-! ### The commands of a wythe -/

/-- From one state to another the commands of a wythe go onward, but for the chunks of some commands and numbers. -/
structure Onwards (w : Wy) (M : Nat → Nat → Prop) (s t : State) : Prop where
  cmd : ∀ id c, (s.wy w).relief.cmd id = some c → ∃ d, (t.wy w).relief.cmd id = some d ∧ c.Onward (M id) d
  opcodes : (t.wy w).relief.cmds.map Cmd.op = (s.wy w).relief.cmds.map Cmd.op

section Onwards

variable {w : Wy} {M : Nat → Nat → Prop} {s t u : State}

theorem Onwards.of_relief (h : (t.wy w).relief = (s.wy w).relief) : Onwards w M s t :=
  ⟨fun _ c hc => ⟨c, by rw [h, hc], .refl⟩, by rw [h]⟩

theorem Onwards.refl : Onwards w M s s := .of_relief rfl

theorem Onwards.step (k : Onwards w M t u) (h : Onwards w M s t) : Onwards w M s u := by
  refine ⟨fun id c hc => ?_, k.opcodes.trans h.opcodes⟩
  obtain ⟨d, hd, hcd⟩ := h.cmd id c hc
  obtain ⟨e, he, hde⟩ := k.cmd id d hd
  exact ⟨e, he, hcd.trans hde⟩

theorem Onwards.keep {l : List Part} (k : Keeps l t u) (hl : .relief ∉ l) (h : Onwards w M s t) : Onwards w M s u :=
  .step (.of_relief (k.relief_eq hl w)) h

theorem map_updFirst_eq {α β : Type} {g : α → β} {p : α → Bool} {f : α → α} (hf : ∀ a, g (f a) = g a) (l : List α) :
    (updFirst p f l).map g = l.map g := by
  induction l with
  | nil => rfl
  | cons a l ih =>
    unfold updFirst
    split
    · simp [hf]
    · simp [ih]

theorem Onwards.modCmd {id : Nat} {f : Cmd → Cmd} (hid : ∀ c, (f c).id = c.id) (hop : ∀ c, (f c).op = c.op)
    (hf : ∀ c : Cmd, c.Onward (M id) (f c))
    (h : Onwards w M s t) : Onwards w M s (t.modCmd w id f) := by
  refine .step ⟨fun i c hc => ?_, ?_⟩ h
  · by_cases hi : i = id
    · subst hi
      exact ⟨f c, by rw [State.modCmd_cmd hid, hc, Option.map_some], hf c⟩
    · refine ⟨c, ?_, .refl⟩
      rw [State.modCmd, State.modRelief_wy, Relief.cmd, find?_updFirst_of_ne]
      · exact hc
      · intro a ha
        simpa using fun e : a.id = i => hi (e.symm.trans (of_decide_eq_true ha))
      · intro a ha
        simpa [hid] using fun e : a.id = i => hi (e.symm.trans (of_decide_eq_true ha))
  · rw [State.modCmd, State.modRelief_wy]
    exact map_updFirst_eq hop _

theorem map_mapIdx_eq {α β : Type} {g : α → β} {n : Nat} {f : α → α} (hf : ∀ a, g (f a) = g a) (l : List α) :
    (l.mapIdx (fun i a => if i = n then f a else a)).map g = l.map g := by
  refine List.ext_getElem? fun i => ?_
  rw [List.getElem?_map, List.getElem?_mapIdx, List.getElem?_map]
  cases l[i]? with
  | none => rfl
  | some a =>
    rw [Option.map_some, Option.map_some, Option.map_some]
    split
    · rw [hf]
    · rfl

theorem Onwards.modOp {id n : Nat} {f : WriteOp → WriteOp} (hf : ∀ o, (f o).got = o.got) (h : Onwards w M s t) :
    Onwards w M s (t.modOp w id n f) :=
  .modCmd (fun _ => rfl) (fun _ => rfl) (fun _ => ⟨map_mapIdx_eq hf _, rfl, fun _ _ => rfl⟩) h

theorem Onwards.modWChunk {id n : Nat} {f : WChunk → WChunk} (hM : M id n) (hf : ∀ x, (f x).cutAs = x.cutAs) (h : Onwards w M s t) :
    Onwards w M s (t.modWChunk w id n f) := by
  refine .modCmd (fun _ => rfl) (fun _ => rfl) (fun c => ⟨rfl, map_mapIdx_eq hf _, fun i hi => ?_⟩) h
  dsimp only
  rw [List.getElem?_mapIdx]
  have hne : i ≠ n := fun e => hi (e ▸ hM)
  cases c.wchunks[i]? <;> simp [hne]

/-! ### Payload -/

theorem State.issuePull_onwards {c : Cmd} {n addr rkey len : Nat} : Onwards w M s (s.issuePull w c n addr rkey len) := by
  unfold State.issuePull State.modQueue
  refine ⟨fun id d hd => ⟨d, ?_, .refl⟩, ?_⟩
  · rw [State.modRelief_wy, State.modRelief_wy]
    exact hd
  · rw [State.modRelief_wy, State.modRelief_wy]
    rfl

theorem State.pullMore_onwards {id : Nat} : Onwards w M s (s.pullMore w id) := by
  unfold State.pullMore
  split
  · exact .refl
  · split
    · exact .refl
    · dsimp only
      split
      · exact .refl
      · exact .step State.issuePull_onwards (.modOp (fun _ => rfl) .refl)

/-- The next stage of an operation that is no PATCH, or that is cut, reads no old chunk. -/
theorem State.advanceOp_onwards {id n : Nat}
    (h : ∀ c o, (s.wy w).relief.cmd id = some c → c.ops[n]? = some o → o.op ≠ .patch ∨ o.cutDone = true) :
    Onwards w M s (s.advanceOp w id n) := by
  unfold State.advanceOp
  split
  · exact .refl
  · rename_i c hc
    split
    · exact .refl
    · rename_i o ho
      split
      · exact .refl
      · rename_i hrun
        have hop : o.op ≠ .patch := (h c o hc ho).resolve_right fun hcut => hrun (by simp [hcut])
        dsimp only
        split
        · split
          · exact .refl
          · exact .keep State.queueCrypt_keeps (by decide) .refl
        · split
          · exact .refl
          · split
            · exact .keep State.queueCodec_keeps (by decide) .refl
            · have hnone : oldWanted o = [] := if_pos hop
              unfold State.wantOld
              rw [hnone]
              exact .modCmd (fun _ => rfl) (fun _ => rfl) (fun _ => ⟨rfl, rfl, fun _ _ => rfl⟩) .refl

/-! ### A chunk takes what it waits for (R153) -/

theorem State.packed_onwards {c : Cmd} {n : Nat} {x : WChunk} {codec : Codec} {body : Bytes} (hM : M c.id n) :
    Onwards w M s (s.packed w c n x codec body) := by
  unfold State.packed State.releaseRing
  exact .keep State.queueCrypt_keeps (by decide)
    (.step State.pullMore_onwards (.modOp (fun _ => rfl) (.modWChunk hM (fun _ => rfl) .refl)))

theorem State.creditChunk_onwards {id n : Nat} (hM : M id n) : Onwards w M s (s.creditChunk w id n) := by
  unfold State.creditChunk
  split
  · exact .refl
  · extract_lets g
    split
    · exact .refl
    · extract_lets u
      split
      · exact .refl
      · exact .modWChunk hM (fun _ => rfl) (.keep State.modMortar_keeps (by decide) .refl)

theorem State.bufferChunk_onwards {id n : Nat} (hM : M id n) : Onwards w M s (s.bufferChunk w id n) := by
  unfold State.bufferChunk
  split
  · exact .refl
  · rename_i c hc
    obtain rfl := Relief.cmd_id hc
    split
    · exact .refl
    · dsimp only
      split
      · exact .refl
      · have taken {s : State} {p : Nat} {r : BufReq} {h : Nat} : Onwards w M s ((s.takeBuf w p r).modWChunk w c.id n
            (fun x => { x with stage := .compressing, buf := some h })) :=
          .modWChunk hM (fun _ => rfl) (.keep State.takeBuf_keeps (by decide) .refl)
        split
        · exact .step (State.packed_onwards hM) taken
        · exact .keep State.queueCodec_keeps (by decide) taken

theorem State.sendChunk_onwards {c : Cmd} {n : Nat} {x : WChunk} (hM : M c.id n) : Onwards w M s (s.sendChunk w c n x) := by
  unfold State.sendChunk
  extract_lets g s0
  split
  · exact .refl
  · extract_lets u
    split
    · exact .modWChunk hM (fun _ => rfl) (.keep State.modMortar_keeps (by decide) .refl)
    · exact .modWChunk hM (fun _ => rfl) (.keep State.mortarOut_keeps (by decide) (.keep State.modMortar_keeps (by decide)
        (.keep State.modMortar_keeps (by decide) .refl)))

theorem State.shipChunk_onwards {id n : Nat} (hM : M id n) : Onwards w M s (s.shipChunk w id n) := by
  unfold State.shipChunk
  split
  · exact .refl
  · rename_i c hc
    obtain rfl := Relief.cmd_id hc
    split
    · exact .refl
    · split
      · exact State.sendChunk_onwards hM
      · exact .refl

theorem State.pumpChunk_onwards {id n : Nat} (hM : M id n) : Onwards w M s (s.pumpChunk w id n) :=
  .step (State.shipChunk_onwards hM) (.step (State.bufferChunk_onwards hM) (State.creditChunk_onwards hM))

end Onwards

end Sys2Proof.Machine
end

section
/-! PROOFS. The stages of a write (R136, R139, R143, R152, R153, R157): payload, cuts, compression, acknowledgements and resends. -/

namespace Sys2Proof.Machine

/-! ### Payload -/

theorem find?_updAll {α : Type} {p q : α → Bool} {f : α → α} (hf : ∀ a, q (f a) = q a) (l : List α) :
    (updAll p f l).find? q = (l.find? q).map (fun a => if p a then f a else a) := by
  induction l with
  | nil => rfl
  | cons a l ih =>
    have hq : q (if p a then f a else a) = q a := by split <;> simp [hf]
    rw [updAll, List.map_cons, List.find?_cons, List.find?_cons, hq]
    cases q a with
    | true => rfl
    | false => exact ih

/-- A queue that is removed leaves the operations of commands as they are. -/
theorem State.removeQueue_ops {s : State} {w : Wy} {q id : Nat} {disconnect : Bool} {c : Cmd} (hc : (s.wy w).relief.cmd id = some c) :
    ∃ d, ((s.removeQueue w q disconnect).wy w).relief.cmd id = some d ∧ d.ops = c.ops := by
  unfold State.removeQueue
  split
  · exact ⟨c, hc, rfl⟩
  · rename_i x hx
    extract_lets s1
    have h1 : ∃ d, (s1.wy w).relief.cmd id = some d ∧ d.ops = c.ops := by
      refine ⟨if c.q = q then { c with q := goneQueue } else c, ?_, by split <;> rfl⟩
      unfold s1
      rw [State.modWy_wy]
      dsimp only
      rw [State.modRelief_wy]
      refine (find?_updAll (p := fun c : Cmd => c.q = q) (f := fun c => { c with q := goneQueue }) (fun _ => rfl) (s.wy w).relief.cmds).trans ?_
      rw [show (s.wy w).relief.cmds.find? (fun c => c.id = id) = some c from hc]
      simp only [Option.map_some, decide_eq_true_eq]
    split
    · split
      · rwa [State.emit_keeps.relief_eq (by decide)]
      · exact h1
    · rwa [State.freePage_keeps.relief_eq (by decide)]

theorem State.sendAcks_ops {s : State} {w : Wy} {q id : Nat} {c : Cmd} (hc : (s.wy w).relief.cmd id = some c) :
    ∃ d, ((s.sendAcks w q).wy w).relief.cmd id = some d ∧ d.ops = c.ops := by
  have ofQueue {s : State} {f : Queue → Queue} (h : (s.wy w).relief.cmd id = some c) :
      ((s.modQueue w q f).wy w).relief.cmd id = some c := by
    rw [State.modQueue, State.modRelief_wy]
    exact h
  unfold State.sendAcks
  split
  · exact ⟨c, hc, rfl⟩
  · rename_i x hx
    split
    · exact ⟨c, hc, rfl⟩
    · extract_lets s0 s1 s2 closes
      have h1 : (s1.wy w).relief.cmd id = some c := by
        unfold s1
        split
        · rw [State.modPage_keeps.relief_eq (by decide)]
          exact ofQueue hc
        · exact ofQueue hc
      have h2 : (s2.wy w).relief.cmd id = some c := by
        rw [(Keeps.foldl (fun _ _ => State.handOut_keeps) .refl : Keeps [.pcie, .pwr] s1 s2).relief_eq (by decide), h1]
      split
      · exact State.removeQueue_ops h2
      · split
        · split
          · exact ⟨c, by rw [State.modPage_keeps.relief_eq (by decide)]; exact ofQueue h2, rfl⟩
          · exact ⟨c, ofQueue h2, rfl⟩
        · split
          · exact State.removeQueue_ops h2
          · exact ⟨c, h2, rfl⟩

/-- Payload of an operation that is no PATCH joins what has come of it. -/
theorem State.payloadCame_gathers {s : State} {w : Wy} {id n : Nat} {c : Cmd} {o : WriteOp} {data : Bytes} (hc : (s.wy w).relief.cmd id = some c)
    (hrun : c.phase = .running) (ho : c.ops[n]? = some o) (hop : o.op ≠ .patch) :
    ∃ d o2, ((s.payloadCame w c n data).wy w).relief.cmd id = some d ∧ d.ops[n]? = some o2 ∧ o2.data = o.data ++ data
      ∧ o2.pulled = decide (o.length ≤ (o.data ++ data).length) := by
  obtain rfl := Relief.cmd_id hc
  unfold State.payloadCame
  rw [if_neg (by simp [hrun])]
  generalize hs1 : s.modOp w c.id n (fun o => { o with data := o.data ++ data, pulled := o.length ≤ (o.data ++ data).length }) = s1
  let got : WriteOp := { o with data := o.data ++ data, pulled := decide (o.length ≤ (o.data ++ data).length) }
  obtain ⟨d, hd, hgot⟩ : ∃ d, (s1.wy w).relief.cmd c.id = some d ∧ d.ops[n]? = some got := by
    refine ⟨{ c with ops := c.ops.mapIdx (fun i o => if i = n then
      { o with data := o.data ++ data, pulled := decide (o.length ≤ (o.data ++ data).length) } else o) }, ?_, ?_⟩
    · rw [← hs1, State.modOp, State.modCmd_cmd]
      · rw [hc]
        rfl
      · exact fun _ => rfl
    · simp [List.getElem?_mapIdx, ho, got]
  have hon : Onwards w (fun _ _ => False) s1 ((s1.advanceOp w c.id n).pullMore w c.id) := by
    refine .step State.pullMore_onwards (State.advanceOp_onwards fun c' o' hc' ho' => .inl ?_)
    obtain rfl := Option.some.inj (hd.symm.trans hc')
    obtain rfl := Option.some.inj (hgot.symm.trans ho')
    exact hop
  obtain ⟨e, he, hde⟩ := hon.cmd _ _ hd
  obtain ⟨o2, ho2, hsame⟩ := hde.op hgot
  simp only [WriteOp.got, Prod.mk.injEq] at hsame
  obtain ⟨-, -, hdata, hpulled, -⟩ := hsame
  exact ⟨e, o2, he, ho2, hdata, hpulled⟩

theorem payloadPullDone_runs {w : Wy} {id n : Nat} {c : Cmd} {s : State} {o : WriteOp} {data : Bytes} {p : Nat × Nat × Nat}
    (hc : (s.wy w).relief.cmd id = some c) (hrun : c.phase = .running) (ho : c.ops[n]? = some o) (hop : o.op ≠ .patch)
    (hp : (s.wy w).relief.pulls.find? (fun p => p.1 = id && p.2.1 = n) = some p) (hlen : data.length = o.asked - o.data.length) :
    Runs (.payloadPullDone w id n data) s (fun t => ∃ d o2, (t.wy w).relief.cmd id = some d ∧ d.ops[n]? = some o2
      ∧ o2.data = o.data ++ data ∧ o2.pulled = decide (o.length ≤ (o.data ++ data).length)) := by
  let s1 := (s.modRelief w (fun r => { r with pulls := r.pulls.erase p })).modQueue w p.2.2 (fun x => { x with dma := x.dma - 1 })
  have hc1 : (s1.wy w).relief.cmd id = some c := by
    unfold s1 State.modQueue
    rw [State.modRelief_wy, State.modRelief_wy]
    exact hc
  have hpull : pullLen c n = some data.length := by
    rw [pullLen, if_neg (by simp [hrun]), ho, hlen]
    rfl
  have hrow : execPayloadPullDone w id n data s = .next ((s1.payloadCame w c n data).sendAcks w p.2.2) := by
    unfold execPayloadPullDone
    rw [hp]
    dsimp only
    rw [hc]
    dsimp only
    rw [if_pos hpull]
  obtain ⟨d, o2, hd, ho2, hdata, hpulled⟩ := State.payloadCame_gathers (data := data) hc1 hrun ho hop
  obtain ⟨e, he, hops⟩ := State.sendAcks_ops (q := p.2.2) hd
  exact ⟨_, hrow, e, o2, he, by rw [hops, ho2], hdata, hpulled⟩

/-! ### Cuts (R136, R139) -/

section Cut

variable {w : Wy} {id n : Nat} {c : Cmd} {s : State} {o : WriteOp} {tile : Fin 128}

/-- The bytes of the chunk that is cut next. -/
def State.nextCutBytes (s : State) (c : Cmd) (n : Nat) (o : WriteOp) : Bytes :=
  (newBytes c n o o.cutPos (cutHi o)).take (cutLen s.gear 0 0 (newBytes c n o o.cutPos (cutHi o)))

/-- Where the cut after it begins. -/
def State.cutNext (s : State) (c : Cmd) (n : Nat) (o : WriteOp) : Nat :=
  nextCut o (o.cutPos + cutLen s.gear 0 0 (newBytes c n o o.cutPos (cutHi o)))

/-- The state with the chunk cut, before it goes on. -/
def State.withCut (s : State) (w : Wy) (id n : Nat) (c : Cmd) (o : WriteOp) (tile : Fin 128) : State :=
  ((s.endCodec w .hash (.cut id n) tile).modOp w id n
    (fun x => { x with cutPos := s.cutNext c n o, cutDone := cutEnds x (s.cutNext c n o) })).modCmd w id
    (fun x => { x with wchunks := x.wchunks ++ [s.newChunk c.cap.keyspace n o (s.nextCutBytes c n o)] })

theorem execChunkCut_eq (htile : s.codecTile w .hash (.cut id n) = some tile) (hc : (s.wy w).relief.cmd id = some c)
    (ho : c.ops[n]? = some o) :
    execChunkCut w id n s = .next (((s.withCut w id n c o tile).pumpChunk w id c.wchunks.length).advanceOp w id n) := by
  unfold execChunkCut
  rw [htile, hc]
  dsimp only
  split
  · rename_i hno
    cases hno.symm.trans ho
  · rename_i o' ho'
    obtain rfl := Option.some.inj (ho'.symm.trans ho)
    rfl

theorem State.withCut_cmd (hc : (s.wy w).relief.cmd id = some c) (ho : c.ops[n]? = some o) :
    ∃ d, ((s.withCut w id n c o tile).wy w).relief.cmd id = some d
      ∧ d.wchunks = c.wchunks ++ [s.newChunk c.cap.keyspace n o (s.nextCutBytes c n o)]
      ∧ d.ops[n]? = some { o with cutPos := s.cutNext c n o, cutDone := cutEnds o (s.cutNext c n o) } := by
  unfold State.withCut
  rw [State.modCmd_cmd, State.modOp, State.modCmd_cmd, State.endCodec_cmd, hc]
  · exact ⟨_, rfl, rfl, by simp [List.getElem?_mapIdx, ho]⟩
  · exact fun _ => rfl
  · exact fun _ => rfl

theorem chunkCut_runs (htile : s.codecTile w .hash (.cut id n) = some tile) (hc : (s.wy w).relief.cmd id = some c) (ho : c.ops[n]? = some o)
    (hends : o.op ≠ .patch ∨ cutEnds o (s.cutNext c n o) = true) :
    Runs (.chunkCut w id n) s (fun t => ∃ d k, (t.wy w).relief.cmd id = some d ∧ d.wchunks = c.wchunks ++ [k] ∧ k.start = o.cutPos
      ∧ k.data = s.nextCutBytes c n o ∧ k.fp = sha256 (s.salt c.cap.keyspace ++ k.data)) := by
  obtain ⟨d, hd, hchunks, hop⟩ := State.withCut_cmd (tile := tile) hc ho
  have pumped : Onwards w (fun _ k => k = c.wchunks.length) (s.withCut w id n c o tile)
      ((s.withCut w id n c o tile).pumpChunk w id c.wchunks.length) := State.pumpChunk_onwards rfl
  obtain ⟨d1, hd1, hon1⟩ := pumped.cmd _ _ hd
  obtain ⟨o1, ho1, hgot1⟩ := hon1.op hop
  have advanced : Onwards w (fun _ k => k = c.wchunks.length) ((s.withCut w id n c o tile).pumpChunk w id c.wchunks.length)
      (((s.withCut w id n c o tile).pumpChunk w id c.wchunks.length).advanceOp w id n) := by
    refine State.advanceOp_onwards fun c' o' hc' ho' => ?_
    obtain rfl := Option.some.inj (hd1.symm.trans hc')
    obtain rfl := Option.some.inj (ho1.symm.trans ho')
    simp only [WriteOp.got, Prod.mk.injEq] at hgot1
    obtain ⟨hop1, -, -, -, hcut1⟩ := hgot1
    rw [hop1, hcut1]
    exact hends
  obtain ⟨d2, hd2, hon2⟩ := advanced.cmd _ _ hd1
  obtain ⟨k, hk, hcut⟩ := (hon1.trans hon2).last hchunks
  simp only [WChunk.cutAs, Prod.mk.injEq] at hcut
  obtain ⟨hstart, hdata, hfp⟩ := hcut
  exact ⟨_, execChunkCut_eq htile hc ho, d2, k, hd2, hk, hstart, hdata, by rw [hfp, hdata]; rfl⟩

end Cut

/-! ### Compression (R143, R157) -/

theorem State.packed_compresses {s : State} {w : Wy} {c : Cmd} {n : Nat} {x y : WChunk} (codec : Codec) (body : Bytes)
    (h : s.wchunkAt w c.id n = some y) :
    ∃ d z, ((s.packed w c n x codec body).wy w).relief.cmd c.id = some d ∧ d.wchunks[n]? = some z ∧ z.stage = .compressed ∧ z.body = body
      ∧ ∃ j ∈ ((s.packed w c n x codec body).wy w).cip.jobs, j.ref = .writeChunk c.id n ∧ j.encrypt = true ∧ j.st = .queued
        ∧ j.input = z.body := by
  have hat := s.packed_wchunkAt w c n x codec body
  rw [h, Option.map_some] at hat
  obtain ⟨d, hd, hz⟩ := State.wchunkAt_eq_some.mp hat
  refine ⟨d, _, hd, hz, rfl, rfl, ?_⟩
  unfold State.packed State.queueCrypt
  rw [State.modCip_wy]
  exact ⟨_, List.mem_append_right _ (List.mem_singleton.mpr rfl), rfl, rfl, rfl, rfl⟩

/-! ### Acknowledgements (R152, R153) -/

section Acked

variable {w : Wy} {id n : Nat} {y : WChunk} {s : State}

/-- An acknowledged chunk waits for nothing. -/
theorem State.pumpChunk_of_acked (h : s.wchunkAt w id n = some y) (hy : y.stage = .acked) : s.pumpChunk w id n = s := by
  obtain ⟨c, hc, hx⟩ := State.wchunkAt_eq_some.mp h
  have hcredit : s.creditChunk w id n = s := by
    unfold State.creditChunk
    rw [hc, Option.bind_some, hx]
    simp [hy]
  have hbuffer : s.bufferChunk w id n = s := by
    unfold State.bufferChunk
    rw [hc]
    dsimp only
    rw [hx]
    simp [hy]
  have hship : s.shipChunk w id n = s := by
    unfold State.shipChunk
    rw [hc]
    dsimp only
    rw [hx]
    simp [hy]
  rw [State.pumpChunk, hcredit, hbuffer, hship]

/-- A chunk of a write is acknowledged at a place, and the commands of its wythe have the opcodes of a list. -/
structure AckedAmong (w : Wy) (id n : Nat) (y : WChunk) (l : List Opcode) (s : State) : Prop where
  chunk : s.wchunkAt w id n = some y
  opcodes : (s.wy w).relief.cmds.map Cmd.op = l

theorem AckedAmong.pumpChunk {l : List Opcode} (h : AckedAmong w id n y l s) (hy : y.stage = .acked) (i m : Nat) :
    AckedAmong w id n y l (s.pumpChunk w i m) := by
  by_cases hsame : i = id ∧ m = n
  · obtain ⟨rfl, rfl⟩ := hsame
    rw [State.pumpChunk_of_acked h.chunk hy]
    exact h
  · have hon : Onwards w (fun i' m' => i' = i ∧ m' = m) s (s.pumpChunk w i m) := State.pumpChunk_onwards ⟨rfl, rfl⟩
    obtain ⟨c, hc, hx⟩ := State.wchunkAt_eq_some.mp h.chunk
    obtain ⟨d, hd, hcd⟩ := hon.cmd _ _ hc
    refine ⟨State.wchunkAt_eq_some.mpr ⟨d, hd, ?_⟩, hon.opcodes.trans h.opcodes⟩
    rw [hcd.rest n (fun e => hsame ⟨e.1.symm, e.2.symm⟩), hx]

theorem foldl_preserves {α : Type} {P : State → Prop} {f : State → α → State} (hf : ∀ s a, P s → P (f s a)) (l : List α) {s : State} (h : P s) :
    P (l.foldl f s) := by
  induction l generalizing s with
  | nil => exact h
  | cons a l ih => exact ih (hf s a h)

theorem AckedAmong.pumpWrites {l : List Opcode} (h : AckedAmong w id n y l s) (hy : y.stage = .acked) : AckedAmong w id n y l (s.pumpWrites w) := by
  unfold State.pumpWrites
  exact foldl_preserves (fun _ _ hs => foldl_preserves (fun _ _ hs => hs.pumpChunk hy _ _) _ hs) _ h

/-- Without a PUT_CLOSE nothing waits for the parts of an upload. -/
theorem State.wakeClose_of_none (h : ∀ d ∈ (s.wy w).relief.cmds, d.op ≠ .putClose) : s.wakeClose w = s := by
  unfold State.wakeClose
  rw [List.filter_eq_nil_iff.mpr fun d hd => by simp [h d hd]]
  rfl

end Acked

/-- An acknowledgement of a chunk that has been sent. -/
theorem State.doChunkAck_acks {s : State} {w : Wy} {h : MHead} {p n : Nat} {c : Cmd} {x : WChunk} {place : Place}
    (hc : (s.wy w).relief.cmd c.id = some c) (hw : s.writeOf w p c.cap.requestId = some c) (hx : c.wchunks[n]? = some x) (hst : x.stage = .sent)
    (hdrop : x.dropped = false) (hmore : c.ops.all (fun o => o.cutDone) = false) :
    AckedAmong w c.id n { x with stage := .acked, place := some place, buf := none } ((s.wy w).relief.cmds.map Cmd.op)
      (s.doChunkAck w h p .new c.cap.requestId n place) := by
  unfold State.doChunkAck
  rw [hw]
  dsimp only
  rw [hx]
  dsimp only
  rw [if_neg (by simp [hst, hdrop])]
  generalize hs1 : (s.freeChunk w c x).modWChunk w c.id n (fun x => { x with stage := .acked, place := some place, buf := none }) = s1
  have acked : AckedAmong w c.id n { x with stage := .acked, place := some place, buf := none } ((s.wy w).relief.cmds.map Cmd.op) s1 := by
    refine ⟨?_, ?_⟩
    · rw [← hs1, State.modWChunk_wchunkAt, State.freeChunk_keeps.wchunkAt_eq (by decide), State.wchunkAt_eq_some.mpr ⟨c, hc, hx⟩]
      rfl
    · rw [← hs1, State.modWChunk, State.modCmd, State.modRelief_wy]
      refine (map_updFirst_eq (g := Cmd.op) ?_ _).trans ?_
      · exact fun _ => rfl
      · rw [State.freeChunk_keeps.relief_eq (by decide)]
  have waits : s1.stepOn w c.id = s1 := by
    unfold State.stepOn
    split
    · rfl
    · rename_i d hd
      have hops : d.ops = c.ops := by
        rw [← hs1, State.modWChunk, State.modCmd_cmd, State.freeChunk_keeps.relief_eq (by decide), hc] at hd
        · rw [← Option.some.inj hd]
        · exact fun _ => rfl
      have hnot : d.ops.all (fun o => o.pulled && o.cutDone) = false := by
        rw [hops]
        obtain ⟨o, ho, hcut⟩ := List.all_eq_false.mp hmore
        exact List.all_eq_false.mpr ⟨o, ho, by simp [hcut]⟩
      rw [if_pos (by simp [readyToCommit, hnot])]
  rw [waits]
  exact acked.pumpWrites rfl

theorem chunkAck_runs {w : Wy} {h : MHead} {g p n : Nat} {c : Cmd} {s : State} {x : WChunk} {place : Place} (hears : s.hears w = true)
    (hepoch : h.epoch = s.wall.epoch) (hc : (s.wy w).relief.cmd c.id = some c) (hw : s.writeOf w p c.cap.requestId = some c)
    (hx : c.wchunks[n]? = some x) (hst : x.stage = .sent) (hdrop : x.dropped = false) (hmore : c.ops.all (fun o => o.cutDone) = false)
    (hclose : ∀ d ∈ (s.wy w).relief.cmds, d.op ≠ .putClose) :
    Runs (.chunkAck w h g p .new c.cap.requestId n place) s (fun t => ∃ d y, (t.wy w).relief.cmd c.id = some d
      ∧ d.wchunks[n]? = some y ∧ y.stage = .acked ∧ y.place = some place) := by
  have hrel := s.seeHlc_relief w h.hlc w
  have acked := State.doChunkAck_acks (s := s.seeHlc w h.hlc) (h := h) (place := place) (by rw [hrel, hc])
    (show State.writeOf _ w p c.cap.requestId = some c by rw [State.writeOf, hrel]; exact hw) hx hst hdrop hmore
  rw [hrel] at acked
  have hrow : execChunkAck w h g p .new c.cap.requestId n place s
      = .next (((s.seeHlc w h.hlc).doChunkAck w h p .new c.cap.requestId n place).wakeClose w) := by
    unfold execChunkAck
    dsimp only
    rw [if_neg (by simp), State.mortarIn_of_hears hears hepoch]
  rw [State.wakeClose_of_none] at hrow
  · obtain ⟨d, hd, hy⟩ := State.wchunkAt_eq_some.mp acked.chunk
    exact ⟨_, hrow, d, _, hd, hy, rfl, rfl⟩
  · intro d hd hop
    obtain ⟨e, he, hsame⟩ := List.mem_map.mp (acked.opcodes ▸ List.mem_map_of_mem hd)
    exact hclose e he (hsame.trans hop)

/-! ### Resends and the end of waiting (R152, R212) -/

theorem foldl_max_le_map {l : List Flow} {f : Flow → Flow} (hf : ∀ x, x.credit ≤ (f x).credit) {a b : Nat} (hab : a ≤ b) :
    l.foldl (fun a x => max a x.credit) a ≤ (l.map f).foldl (fun a x => max a x.credit) b := by
  induction l generalizing a b with
  | nil => exact hab
  | cons x l ih => exact ih (max_le_max hab (hf x))

/-- Credit given back lowers no credit. -/
theorem creditTo_le_returnCredit (m : MortarW) (b : Nat) (bw : Wy) (b' : Nat) (bw' : Wy) (n : Nat) :
    creditTo m b bw ≤ creditTo (returnCredit m b' bw' n) b bw := by
  unfold creditTo returnCredit updAll
  dsimp only
  rw [List.filter_map]
  have hpeer : (fun f : Flow => decide (f.peer = b) && decide (f.peerW = bw)) ∘ (fun f : Flow =>
      if (decide (f.peer = b') && decide (f.peerW = bw')) = true then { f with credit := f.credit + n } else f)
      = fun f => decide (f.peer = b) && decide (f.peerW = bw) := by
    funext f
    simp only [Function.comp_apply]
    split <;> rfl
  rw [hpeer]
  refine foldl_max_le_map (fun f => ?_) (Nat.le_refl 0)
  split
  · exact Nat.le_add_right ..
  · exact Nat.le_refl _

/-- A record goes to the acting lead of its group, on its own brick or within credit. -/
theorem State.sendChunk_sends {s : State} {w : Wy} {c : Cmd} {n : Nat} {x : WChunk} {b : Nat}
    (hlead : s.leadOf (groupOf s.wall.settings.groups x.fp) = some b) (hup : s.holdup = none)
    (hcredit : b = s.myId ∨ creditUnits x.body.length ≤ creditTo (s.wy w).mortar b (wyOfGroup (groupOf s.wall.settings.groups x.fp))) :
    .mortar w b (wyOfGroup (groupOf s.wall.settings.groups x.fp))
      (.chunkPut (groupOf s.wall.settings.groups x.fp) (cmdPart c) c.cap.requestId n x.body) ∈ (s.sendChunk w c n x).out := by
  unfold State.sendChunk
  extract_lets g s0
  split
  · rename_i hno
    cases hno.symm.trans hlead
  rename_i b' hb
  obtain rfl := Option.some.inj (hb.symm.trans hlead)
  extract_lets u
  have hfits : ¬ creditTo (s0.wy w).mortar b' (wyOfGroup g) < u := by
    have hle : u ≤ creditTo (s.wy w).mortar b' (wyOfGroup g) := by
      unfold u
      split
      · exact Nat.zero_le _
      · next hne => exact hcredit.resolve_left hne
    rw [State.modMortar_wy]
    exact Nat.not_lt.mpr (hle.trans (creditTo_le_returnCredit ..))
  rw [if_neg hfits]
  refine State.modWChunk_keeps.mem_out (State.mortarOut_sends ?_)
  exact ((State.modMortar_keeps.step (by decide) State.modMortar_keeps : Keeps [.mortar] s _).holdup_eq (by decide)).trans hup

end Sys2Proof.Machine

namespace Sys2Proof
open Sys2Proof.Machine

/-- Settles O11, stage by stage: the pipeline leaves the operations and the cuts of commands as they are. -/
theorem writePathAdvances : Obligations.WritePathAdvances := by
  unfold Obligations.WritePathAdvances
  intro w id n c s hc hrun
  obtain rfl := Relief.cmd_id hc
  refine ⟨?_, ?_, ?_, ?_, ?_, ?_⟩
  · intro o data p ho hop hp hlen
    exact payloadPullDone_runs hc hrun ho hop hp hlen
  · intro o tile htile ho hends
    exact chunkCut_runs htile hc ho hends
  · intro x out tile htile hx hform
    have hat : (s.endCodec w .compress (.writeChunk c.id n) tile).wchunkAt w c.id n = some x := by
      rw [State.endCodec_wchunkAt]
      exact State.wchunkAt_eq_some.mpr ⟨c, hc, hx⟩
    have hend := execCompressJobEnd_of_form htile hc hx hform
    by_cases hle : 16 * out.length ≤ 15 * x.data.length
    · rw [if_pos hle] at hend ⊢
      exact ⟨_, hend, State.packed_compresses x.codec out hat⟩
    · rw [if_neg hle] at hend ⊢
      exact ⟨_, hend, State.packed_compresses .stored x.data hat⟩
  · intro x h g p place hears hepoch hw hx hst hdrop hmore hclose
    exact chunkAck_runs hears hepoch hc hw hx hst hdrop hmore hclose
  · intro x b hx hst hdrop hlate hlead hup hcredit
    have hrow : execChunkResend w c.id n s = .next (s.sendChunk w c n x) := by
      unfold execChunkResend
      rw [hc]
      dsimp only
      rw [hx]
      dsimp only
      rw [if_pos (by simp [hst, hdrop, State.since_ms, hlate])]
    exact ⟨_, hrow, State.sendChunk_sends hlead hup hcredit⟩
  · intro x q p g hx hst hdrop hlate hsup hup hq htr
    have hrow : execChunkAckTimeout w c.id n s = .next (((s.endJobs w c.id).finish w c .unavailable .none 0 0 0).wakeClose w) := by
      unfold execChunkAckTimeout
      rw [hc]
      dsimp only
      rw [hx]
      dsimp only
      rw [if_pos (by simp [hst, hdrop, State.since_sec, hlate])]
    have sends : Sends (s.endJobs w c.id) w c.q := .keep ⟨hup, q, p, g, hq, htr⟩ State.endJobs_keeps (by decide) State.endJobs_link
    exact ⟨_, hrow, State.wakeClose_keeps.mem_out (State.finish_answers sends hsup .unavailable .none 0 0 0)⟩

end Sys2Proof
end

section
/-! PROOFS. Chunks and reference deltas at the acting lead (R150, R250, R254-R262): the image of a group after each operation. -/

namespace Sys2Proof.Machine

/-! ### The image of a group -/

/-- The state image of a group on this brick (R254). -/
def State.image (s : State) (g : Nat) : GroupImage := (s.groupRec g).image

theorem State.groupRec_of_groups {s t : State} (h : t.refs.groups = s.refs.groups) (g : Nat) :
    (t.groupRec g).image = (s.groupRec g).image ∧ (t.groupRec g).recount = (s.groupRec g).recount := by
  unfold State.groupRec
  dsimp only
  rw [h]
  cases s.refs.groups.find? (fun r => r.group = g) <;> exact ⟨rfl, rfl⟩

theorem Keeps.image_eq {l : List Part} {s t : State} (h : Keeps l s t) (hl : .refs ∉ l) (g : Nat) : t.image g = s.image g :=
  (State.groupRec_of_groups (by rw [h.refs_eq hl]) g).1

theorem State.modGroup_image {s : State} {g : Nat} {f : GroupRec → GroupRec} (hf : ∀ r, (f r).group = r.group)
    (himg : ∀ r, (f r).image = r.image) : (s.modGroup g f).image g = s.image g := by
  rw [State.image, State.modGroup_groupRec hf, himg, State.image]

theorem State.modImage_image (s : State) (g : Nat) (f : GroupImage → GroupImage) : (s.modImage g f).image g = f (s.image g) := by
  unfold State.image State.modImage
  rw [State.modGroup_groupRec (by simp)]

theorem State.mirrorGroup_image (old s : State) (k g : Nat) : (State.mirrorGroup old s k).image g = s.image g :=
  State.mirrorGroup_keeps.image_eq (by decide) g

theorem State.noteSeen_image (s : State) (g home p : Nat) (rid : BitVec 64) (chunk : Nat) (res : AckResult) (place : Place) :
    (s.noteSeen g home p rid chunk res place).image g = s.image g :=
  State.modGroup_image (fun _ => rfl) (fun _ => rfl)

/-- A pending reference is added to the image, whose index stays. -/
theorem State.addPend_image (s : State) (w : Wy) (g home p : Nat) (rid : BitVec 64) (chunk : Nat) (fp : Bytes) :
    ((s.addPend w g home p rid chunk fp).image g).index = (s.image g).index
      ∧ ∃ x ∈ ((s.addPend w g home p rid chunk fp).image g).pend, samePend home p rid chunk x = true := by
  unfold State.addPend
  dsimp only
  rw [State.modImage_image]
  refine ⟨rfl, ?_⟩
  dsimp only
  split
  · next hany => exact List.any_eq_true.mp hany
  · exact ⟨_, List.mem_append_right _ (List.mem_singleton.mpr rfl), by simp [samePend]⟩

theorem State.mirrorGroup_up {old s : State} {g : Nat} (h : s.holdup = none) : (State.mirrorGroup old s g).holdup = none :=
  (State.mirrorGroup_keeps.holdup_eq (by decide)).trans h

/-! ### Chunk placement (R150) -/

/-- The lead of a group holds its state, is in no recount, and answers anew. -/
structure TakesChunk (s : State) (g : Nat) (rid : BitVec 64) : Prop where
  leads : s.leads g = true
  held : (s.groupRec g).held = true
  recount : (s.groupRec g).recount = false
  waits : ∀ r ∈ s.stripes.recs, r.waits = []
  seen : ∀ x ∈ (s.groupRec g).seen, x.requestId ≠ rid

section ChunkPut

variable {s : State} {w : Wy} {h : MHead} {g p chunk : Nat} {rid : BitVec 64} {record : Bytes} (ht : TakesChunk s g rid)
include ht

theorem TakesChunk.noWaits : s.stripes.recs.flatMap (fun x => x.waits.map (fun y => (x.id, y))) = [] := by
  refine List.flatMap_eq_nil_iff.mpr fun r hr => ?_
  rw [ht.waits r hr, List.map_nil]

theorem TakesChunk.notSeen :
    (s.groupRec g).seen.find? (fun x => x.home = h.src && x.p = p && x.requestId = rid && x.chunk = chunk) = none := by
  refine List.find?_eq_none.mpr fun x hx => ?_
  simp [ht.seen x hx]

/-- A chunk that the index holds is answered DUPLICATE, with a pending reference. -/
theorem State.doChunkPut_duplicate (hup : s.holdup = none) {e : FpEntry}
    (he : (s.groupRec g).image.index.find? (fun e => e.fp = sliceBytes record 32 32) = some e) :
    .mortar w h.src h.srcW (.chunkAck g p .duplicate rid chunk e.place) ∈ (s.doChunkPut w h g p rid chunk record).out
      ∧ ∃ x ∈ ((s.doChunkPut w h g p rid chunk record).image g).pend, samePend h.src p rid chunk x = true := by
  unfold State.doChunkPut
  dsimp only
  rw [if_neg (by simp [ht.leads]), if_neg (by simp [ht.held, ht.recount]), ht.noWaits, if_neg (by simp), ht.notSeen]
  dsimp only
  rw [he]
  dsimp only [List.find?_nil]
  refine ⟨State.mortarOut_sends (State.mirrorGroup_up ?_), ?_⟩
  · exact (State.noteSeen_keeps.holdup_eq (by decide)).trans ((State.addPend_keeps.holdup_eq (by decide)).trans hup)
  · rw [State.mortarOut_keeps.image_eq (by decide), State.mirrorGroup_image, State.noteSeen_image]
    exact (s.addPend_image ..).2

theorem State.doChunkPut_new (hnew : ∀ e ∈ (s.groupRec g).image.index, e.fp ≠ sliceBytes record 32 32) (hroom : s.groupFull g = false) :
    s.doChunkPut w h g p rid chunk record = s.placeRecord w h.src g p rid chunk (sliceBytes record 32 32) record := by
  have hnone : (s.groupRec g).image.index.find? (fun e => e.fp = sliceBytes record 32 32) = none :=
    List.find?_eq_none.mpr fun e he => by simp [hnew e he]
  unfold State.doChunkPut
  dsimp only
  rw [if_neg (by simp [ht.leads]), if_neg (by simp [ht.held, ht.recount]), ht.noWaits, if_neg (by simp), ht.notSeen]
  dsimp only
  rw [hnone]
  dsimp only
  rw [if_neg (by simp [hroom])]

end ChunkPut

/-- A chunk is in the index of a group with no reference counted, and one to it is pending. -/
structure ChunkEntered (g home p : Nat) (rid : BitVec 64) (chunk : Nat) (fp : Bytes) (len : Nat) (s : State) : Prop where
  index : ∃ e ∈ (s.image g).index, e.fp = fp ∧ e.count = 0 ∧ e.place.length = len
  pend : ∃ x ∈ (s.image g).pend, samePend home p rid chunk x = true

theorem ChunkEntered.of_image {g home p : Nat} {rid : BitVec 64} {chunk : Nat} {fp : Bytes} {len : Nat} {s t : State}
    (h : ChunkEntered g home p rid chunk fp len s) (e : t.image g = s.image g) : ChunkEntered g home p rid chunk fp len t :=
  ⟨by rw [e]; exact h.index, by rw [e]; exact h.pend⟩

/-- A new record enters the index. -/
theorem State.placeRecord_enters (s : State) (w : Wy) (home g p : Nat) (rid : BitVec 64) (chunk : Nat) (fp record : Bytes) :
    ChunkEntered g home p rid chunk fp record.length (s.placeRecord w home g p rid chunk fp record) := by
  unfold State.placeRecord
  split
  rename_i s1 id off hopen
  extract_lets place wait s2 s3 s4 s5
  obtain ⟨hindex, hpend⟩ := s3.addPend_image w g home p rid chunk fp
  have added : ChunkEntered g home p rid chunk fp record.length (s3.addPend w g home p rid chunk fp) := by
    refine ⟨?_, hpend⟩
    rw [hindex, State.modImage_image]
    exact ⟨_, List.mem_append_right _ (List.mem_singleton.mpr rfl), rfl, rfl, rfl⟩
  have entered : ChunkEntered g home p rid chunk fp record.length s5 := by
    refine added.of_image ?_
    unfold s5 s4
    rw [State.mirrorGroup_image, State.modGroup_image (by simp) (by simp), State.noteSeen_image]
  clear_value s5
  split
  · refine entered.of_image ?_
    exact (Keeps.foldl (fun _ _ => State.copyTo_keeps) .refl : Keeps [.mortar, .pcie, .regs] s5 _).image_eq (by decide) g
  · exact entered

/-! ### Lost chunks (R250) -/

theorem length_eraseDups_le {α : Type} [BEq α] (l : List α) : l.eraseDups.length ≤ l.length := by
  induction hn : l.length using Nat.strong_induction_on generalizing l with
  | _ n ih =>
    cases l with
    | nil => simp
    | cons a l =>
      subst hn
      have hle := List.length_filter_le (fun b => !b == a) l
      rw [List.eraseDups_cons, List.length_cons, List.length_cons]
      exact Nat.succ_le_succ ((ih _ (by simpa using Nat.lt_succ_of_le hle) _ rfl).trans hle)

theorem State.keepLost_refs (s : State) (fp : Bytes) (stripe time : Nat) : (s.keepLost fp stripe time).refs = s.refs :=
  State.keepLost_keeps.refs_eq (by decide)

/-- A lost-chunk list with room keeps what it holds and takes the fingerprint. -/
theorem State.keepLost_lost {s : State} {fp : Bytes} {stripe time : Nat} (hroom : s.health.lost.length < 16384) :
    (∃ e ∈ (s.keepLost fp stripe time).health.lost, e.fp = fp)
      ∧ (∀ e ∈ s.health.lost, e ∈ (s.keepLost fp stripe time).health.lost)
      ∧ (s.keepLost fp stripe time).health.lost.length ≤ s.health.lost.length + 1 := by
  unfold State.keepLost
  dsimp only
  split
  · next hany =>
    refine ⟨?_, fun e he => he, Nat.le_succ _⟩
    obtain ⟨e, he, hfp⟩ := List.any_eq_true.mp hany
    exact ⟨e, he, of_decide_eq_true hfp⟩
  · have hdrop : s.health.lost.length - 16383 = 0 := by omega
    dsimp only
    rw [hdrop, List.drop_zero]
    exact ⟨⟨_, List.mem_append_right _ (List.mem_singleton.mpr rfl), rfl⟩, fun e he => List.mem_append_left _ he, by simp⟩

theorem foldl_keepLost {g : State → Nat} {stripe : Nat} {fp : Bytes} (l : List Bytes) {s : State} (hroom : s.health.lost.length + l.length ≤ 16384)
    (h : fp ∈ l ∨ ∃ e ∈ s.health.lost, e.fp = fp) :
    ∃ e ∈ (l.foldl (fun s f => s.keepLost f stripe (g s)) s).health.lost, e.fp = fp := by
  induction l generalizing s with
  | nil => exact h.resolve_left (by simp)
  | cons f l ih =>
    rw [List.length_cons] at hroom
    obtain ⟨htakes, hstays, hlen⟩ := State.keepLost_lost (s := s) (fp := f) (stripe := stripe) (time := g s) (by omega)
    refine ih (by dsimp only; omega) ?_
    rcases h with h | ⟨e, he, hfp⟩
    · rcases List.mem_cons.mp h with rfl | h
      · exact .inr htakes
      · exact .inl h
    · exact .inr ⟨e, hstays e he, hfp⟩

/-- A lost chunk leaves the index and stands on the lost-chunk list. -/
theorem State.doLostReport_loses {s : State} {w : Wy} {stripe off len : Nat} {fp : Bytes} (hleads : s.leads (fragGroup stripe) = true) :
    (∀ e ∈ ((s.doLostReport w stripe off len [fp] false).image (fragGroup stripe)).index, e.fp ≠ fp)
      ∧ (s.health.lost.length + (s.image (fragGroup stripe)).index.length < 16384 →
        ∃ e ∈ (s.doLostReport w stripe off len [fp] false).health.lost, e.fp = fp) := by
  unfold State.doLostReport
  extract_lets g f on all
  rw [if_neg (by simp), if_pos hleads]
  have hin : fp ∈ all := List.mem_eraseDups.mpr (List.mem_append_left _ (List.mem_singleton.mpr rfl))
  have hlen : all.length ≤ (s.image g).index.length + 1 := by
    refine (length_eraseDups_le _).trans ?_
    rw [List.length_append, List.length_map, List.length_singleton, Nat.add_comm]
    exact Nat.succ_le_succ (List.length_filter_le ..)
  refine ⟨fun e he hfp => ?_, fun hroom => ?_⟩
  · rw [(Keeps.foldl (fun _ _ => State.keepLost_keeps) .refl : Keeps [.health] (s.modImage g _) _).image_eq (by decide),
      State.modImage_image] at he
    have := (List.mem_filter.mp he).2
    simp [hfp, hin] at this
  · refine foldl_keepLost all ?_ (.inl hin)
    rw [State.modImage_keeps.health_eq (by decide)]
    have hleft : s.health.lost.length + (s.image g).index.length < 16384 := hroom
    omega

/-! ### Deltas (R257, R261) -/

/-- One more reference to a chunk is counted. -/
theorem State.countUp_counts {s : State} {w : Wy} {g : Nat} {x : FpEntry} (hx : x ∈ (s.image g).index) (hpin : x.pinned = false) :
    ∃ y ∈ ((s.countUp w g x).image g).index, y.fp = x.fp ∧ y.count = x.count + 1 := by
  unfold State.countUp
  rw [if_neg (by simp [hpin])]
  extract_lets n pin s1
  have h1 : ∃ y ∈ (s1.image g).index, y.fp = x.fp ∧ y.count = x.count + 1 := by
    unfold s1
    rw [State.modImage_image]
    obtain ⟨b, -, hb, hmem⟩ := exists_mem_updFirst (p := fun y : FpEntry => y.fp = x.fp)
      (f := fun y : FpEntry => { y with count := n, pinned := pin }) hx (by simp)
    exact ⟨_, hmem, of_decide_eq_true hb, rfl⟩
  split
  · rwa [State.recordOpen_keeps.image_eq (by decide)]
  · exact h1

section RefDelta

variable {s : State} {w : Wy} {h : MHead} {p home g seq lwm : Nat} {e : DeltaEntry} {x : FpEntry}

theorem State.applyDelta_add (hkind : e.kind = .add) (hfind : (s.groupRec g).image.index.find? (fun x => x.fp = e.fp) = some x)
    (hplace : x.place.fragId = e.fragId) : s.applyDelta w g home p e = (s.countUp w g x, ⟨false, false⟩) := by
  unfold State.applyDelta
  dsimp only
  rw [hfind, hkind]
  dsimp only
  rw [if_pos hplace]

/-- A batch of one ADD is counted and acknowledged. -/
theorem State.doRefDelta_add (hleads : s.leads g = true) (hheld : (s.groupRec g).held = true) (hrecount : (s.groupRec g).recount = false)
    (hup : s.holdup = none) (hlog : (p, seq) ∉ (s.groupRec g).image.log) (hlow : (tableGet? (s.groupRec g).image.lwm p).getD 0 ≤ seq)
    (hkind : e.kind = .add) (hfind : (s.groupRec g).image.index.find? (fun x => x.fp = e.fp) = some x)
    (hplace : x.place.fragId = e.fragId) (hpin : x.pinned = false) :
    .mortar w h.src h.srcW (.refAck p g .applied seq 0 []) ∈ (s.doRefDelta w h p home g false false seq lwm [e]).out
      ∧ ∃ y ∈ ((s.doRefDelta w h p home g false false seq lwm [e]).image g).index, y.fp = e.fp ∧ y.count = x.count + 1 := by
  have happly : s.applyDeltas w g home p [e] = (s.countUp w g x, [⟨false, false⟩]) := by
    rw [State.applyDeltas, State.applyDelta_add hkind hfind hplace]
    rfl
  have hfp : x.fp = e.fp := of_decide_eq_true (List.find?_some (p := fun x : FpEntry => decide (x.fp = e.fp)) hfind)
  unfold State.doRefDelta
  dsimp only
  rw [if_neg (by simp [hleads]), if_neg (by simp [hheld, hrecount]), if_neg (by simp [hlog, hlow]), happly]
  dsimp only
  rw [if_neg (by simp)]
  refine ⟨State.mortarOut_sends (State.mirrorGroup_up ?_), ?_⟩
  · exact (State.modImage_keeps.holdup_eq (by decide)).trans ((State.countUp_keeps.holdup_eq (by decide)).trans hup)
  · rw [State.mortarOut_keeps.image_eq (by decide), State.mirrorGroup_image, State.modImage_image, ← hfp]
    exact State.countUp_counts (List.mem_of_find?_eq_some hfind) hpin

end RefDelta

/-! ### Pending references that lapse (R256, R262) -/

/-- The pending references of a group. -/
def State.pendings (s : State) (g : Nat) : List PendRef := (s.image g).pend

theorem Keeps.pendings_eq {l : List Part} {s t : State} (h : Keeps l s t) (hl : .refs ∉ l) (g : Nat) : t.pendings g = s.pendings g := by
  rw [State.pendings, h.image_eq hl, State.pendings]

@[simp] theorem State.modGroup_pendings {s : State} {g : Nat} {f : GroupRec → GroupRec} (hf : ∀ r, (f r).group = r.group)
    (himg : ∀ r, (f r).image = r.image) : (s.modGroup g f).pendings g = s.pendings g := by
  rw [State.pendings, State.modGroup_image hf himg, State.pendings]

@[simp] theorem State.modImage_pendings {s : State} {g : Nat} {f : GroupImage → GroupImage} (hf : ∀ i, (f i).pend = i.pend) :
    (s.modImage g f).pendings g = s.pendings g := by
  rw [State.pendings, State.modImage_image, hf, State.pendings]

@[simp] theorem State.mortarOut_pendings (s : State) (w : Wy) (dst : Nat) (dstW : Wy) (b : MortarBody) (g : Nat) :
    (s.mortarOut w dst dstW b).pendings g = s.pendings g :=
  State.mortarOut_keeps.pendings_eq (by decide) g

@[simp] theorem foldl_pendings {α : Type} {g : Nat} {f : State → α → State} (hf : ∀ s a, (f s a).pendings g = s.pendings g)
    (l : List α) (s : State) : (l.foldl f s).pendings g = s.pendings g :=
  foldl_proj (fun t : State => t.pendings g) (fun t a _ => hf t a) s

@[simp] theorem State.freeStripe_pendings (s : State) (w : Wy) (g stripe : Nat) : (s.freeStripe w g stripe).pendings g = s.pendings g := by
  simp [State.freeStripe]

@[simp] theorem State.startThin_pendings (s : State) (w : Wy) (g stripe : Nat) : (s.startThin w g stripe).pendings g = s.pendings g := by
  simp [State.startThin]

theorem State.spaceCheck_pendings (s : State) (w : Wy) (g stripe old : Nat) : (s.spaceCheck w g stripe old).pendings g = s.pendings g := by
  unfold State.spaceCheck
  dsimp only
  split
  · rfl
  · split_ifs
    · rfl
    · exact s.freeStripe_pendings ..
    · exact s.startThin_pendings ..
    · rfl

theorem State.freeIfDead_pendings (s : State) (w : Wy) (g : Nat) (fp : Bytes) : (s.freeIfDead w g fp).pendings g = s.pendings g := by
  unfold State.freeIfDead
  dsimp only
  split
  · rfl
  · split
    · rfl
    · rw [State.spaceCheck_pendings, State.modGroup_pendings (by simp) (by simp), State.modImage_pendings (by simp)]

theorem State.lapse_pendings (s : State) (w : Wy) (g : Nat) (gone : PendRef → Bool) :
    (s.lapse w g gone).pendings g = (s.pendings g).filter (fun x => !gone x) := by
  unfold State.lapse
  extract_lets l
  rw [foldl_proj (fun t : State => t.pendings g) fun t x _ => t.freeIfDead_pendings w g x.fp, State.pendings, State.modImage_image]
  rfl

/-! ### Recounts (R255) -/

theorem State.sendBatch_groups (s : State) (b : DeltaBatch) : (s.sendBatch b).refs.groups = s.refs.groups := by
  unfold State.sendBatch
  dsimp only
  split
  · rfl
  · rw [State.mortarOut_keeps.refs_eq (by decide)]
    rfl

theorem State.addDeltaTo_groups (s : State) (p g : Nat) (recount : Bool) (e : DeltaEntry) :
    (s.addDeltaTo p g recount e).refs.groups = s.refs.groups := by
  unfold State.addDeltaTo
  extract_lets isOpen seq fresh s1
  have h1 : s1.refs.groups = s.refs.groups := by
    unfold s1
    split <;> rfl
  split
  · split
    · rw [State.sendBatch_groups, h1]
    · exact h1
  · exact h1

theorem State.recountHome_groups (s : State) (g : Nat) : (s.recountHome g).refs.groups = s.refs.groups := by
  unfold State.recountHome
  refine foldl_proj (fun t : State => t.refs.groups) (fun t x _ => ?_) s
  extract_lets ents s1 s2 seq last
  have h1 : s1.refs.groups = t.refs.groups := foldl_proj (fun t : State => t.refs.groups) (fun t e _ => t.addDeltaTo_groups ..) t
  have h2 : s2.refs.groups = s1.refs.groups := foldl_proj (fun t : State => t.refs.groups) (fun t b _ => t.sendBatch_groups b) s1
  rw [State.sendBatch_groups]
  exact h2.trans h1

theorem State.recountLead_recount (s : State) (w : Wy) (g : Nat) : ((s.recountLead w g).groupRec g).recount = true := by
  unfold State.recountLead
  extract_lets ws stripes want s1
  have h1 : (s1.groupRec g).recount = true := by
    unfold s1
    rw [State.modGroup_groupRec (by simp)]
  have read (t : State) (ht : (t.groupRec g).recount = true) : ((t.recountRead g).groupRec g).recount = true := by
    unfold State.recountRead
    dsimp only
    split
    · exact ht
    · rw [State.modGroup_groupRec (by simp)]
      exact ht
  refine read _ ?_
  rw [(State.groupRec_of_groups (s := s1) ?_ g).2, h1]
  rw [(Keeps.foldl (fun _ _ => State.mortarOut_keeps) .refl : Keeps [.mortar, .pcie, .regs] s1 _).refs_eq (by decide)]

end Sys2Proof.Machine
end

section
/-! PROOFS. The acting lead of a group, row by row (R150, R250, R254-R262). -/

namespace Sys2Proof.Machine

/-! ### What a message leaves of the lead that it reaches -/

section Arrives

variable {s : State} {w : Wy} {r g : Nat}

theorem State.seeHlc_image (s : State) (w : Wy) (r g : Nat) : (s.seeHlc w r).image g = s.image g :=
  State.seeHlc_keeps.image_eq (by decide) g

theorem State.seeHlc_groupFull (s : State) (w : Wy) (r g : Nat) : (s.seeHlc w r).groupFull g = s.groupFull g := by
  cases w <;> rfl

theorem TakesChunk.seeHlc {rid : BitVec 64} (h : TakesChunk s g rid) : TakesChunk (s.seeHlc w r) g rid := by
  obtain ⟨hleads, hheld, hrecount, hwaits, hseen⟩ := h
  exact ⟨by rw [State.seeHlc_leads, hleads], by rw [State.seeHlc_groupRec, hheld], by rw [State.seeHlc_groupRec, hrecount],
    by rw [State.seeHlc_keeps.stripes_eq (by decide)]; exact hwaits, by rw [State.seeHlc_groupRec]; exact hseen⟩

end Arrives

/-! ### The rows -/

section Rows

variable {s : State} {w : Wy} {h : MHead} {g p chunk : Nat} {rid : BitVec 64} {record : Bytes} (hears : s.hears w = true)
  (hepoch : h.epoch = s.wall.epoch)
include hears hepoch

/-- While another brick copies the state of a group, a chunk for it is queued. -/
theorem execChunkPut_queued (hleads : s.leads g = true) (hsync : (s.groupRec g).syncing ≠ []) :
    execChunkPut w h g p rid chunk record s
      = .next { s.seeHlc w h.hlc with syncQueue := (s.seeHlc w h.hlc).syncQueue ++ [(g, .chunkPut w h g p rid chunk record)] } := by
  unfold execChunkPut
  dsimp only
  rw [State.mortarIn_of_hears hears hepoch, State.orQueue, if_pos (by simp [State.seeHlc_leads, State.seeHlc_groupRec, hleads, hsync])]

theorem execChunkPut_handled (hsync : (s.groupRec g).syncing = []) :
    execChunkPut w h g p rid chunk record s = .next ((s.seeHlc w h.hlc).doChunkPut w h g p rid chunk record) := by
  unfold execChunkPut
  dsimp only
  rw [State.mortarIn_of_hears hears hepoch, State.orQueue, if_neg (by simp [State.seeHlc_groupRec, hsync])]

theorem execLostReport_handled {stripe off len : Nat} {fps : List Bytes} {range : Bool} :
    execLostReport w h stripe off len fps range s = .next (State.mirrorGroup (s.seeHlc w h.hlc)
      ((s.seeHlc w h.hlc).doLostReport w stripe off len fps range) (fragGroup stripe)) := by
  unfold execLostReport
  rw [State.mortarIn_of_hears hears hepoch]

/-- A reference that nobody claims lapses. -/
theorem refAnswer_lapses (hleads : s.leads g = true) (hheld : (s.groupRec g).held = true) :
    Runs (.refAnswer w h p g rid chunk false) s (fun t =>
      ∀ x ∈ (t.groupRec g).image.pend, ¬ (x.p = p ∧ x.requestId = rid ∧ x.chunk = chunk)) := by
  have hrow : execRefAnswer w h p g rid chunk false s = .next (State.mirrorGroup (s.seeHlc w h.hlc)
      ((s.seeHlc w h.hlc).lapse w g (fun x => x.p = p && x.requestId = rid && x.chunk = chunk)) g) := by
    unfold execRefAnswer
    rw [State.mortarIn_of_hears hears hepoch, State.doRefAnswer, if_neg (by simp [State.seeHlc_leads, State.seeHlc_groupRec, hleads, hheld])]
  refine ⟨_, hrow, fun x hx hsame => ?_⟩
  have hx : x ∈ State.pendings _ g := hx
  rw [State.mirrorGroup_keeps.pendings_eq (by decide), State.lapse_pendings] at hx
  simpa [hsame] using (List.mem_filter.mp hx).2

end Rows

/-- An old pending reference is asked about at the home of its partition. -/
theorem pendingRefAge_asks {s : State} {g p chunk : Nat} {rid : BitVec 64} {x : PendRef} {e : PartEntry} (hleads : s.leads g = true)
    (hheld : (s.groupRec g).held = true) (hup : s.holdup = none)
    (hx : (s.groupRec g).image.pend.find? (fun x => x.p = p && x.requestId = rid && x.chunk = chunk) = some x) (he : s.partEntry p = some e)
    (hasked : ∀ q ∈ (s.groupRec g).queries, q.1 = x → q.2 + 60000000000 ≤ s.now) (hold : x.created + 60000000 * 4096 ≤ s.hybrid (wyOfGroup g)) :
    Runs (.pendingRefAge g p rid chunk) s (fun t => .mortar (wyOfGroup g) e.home (wyOfPart p) (.refQuery p g rid chunk) ∈ t.out) := by
  have hnone : (s.groupRec g).queries.any (fun q => q.1 = x && !s.since q.2 (sec 60)) = false := by
    refine List.any_eq_false.mpr fun q hq => ?_
    by_cases hsame : q.1 = x
    · simp [State.since_sec, hsame, hasked q hq hsame]
    · simp [hsame]
  have hrow : execPendingRefAge g p rid chunk s = .next ((s.modGroup g (fun r => { r with queries := r.queries.filter (fun q => q.1 ≠ x)
      ++ [(x, s.now)] })).toPart (wyOfGroup g) e.home p (.refQuery p g rid chunk)) := by
    unfold execPendingRefAge
    dsimp only
    rw [hx, he]
    dsimp only
    rw [hnone, if_neg (by simp [hleads, hheld, Nat.not_lt.mpr hold])]
  exact ⟨_, hrow, State.mortarOut_sends ((State.modGroup_keeps.holdup_eq (by decide)).trans hup)⟩

theorem recount_begins {s : State} {g : Nat} (hleads : s.leads g = true) :
    Runs (.recount g) s (fun t => (t.groupRec g).recount = true) := by
  have hrow : execRecount g s = .next ((s.recountLead (wyOfGroup g) g).recountHome g) := by
    unfold execRecount
    dsimp only
    rw [if_pos hleads]
  exact ⟨_, hrow, (State.groupRec_of_groups (State.recountHome_groups ..) g).2.trans (s.recountLead_recount ..)⟩

end Sys2Proof.Machine

namespace Sys2Proof
open Sys2Proof.Machine

/-- Settles O26, row by row, from what each operation leaves of the image of a group. -/
theorem leadKeepsReferences : Obligations.LeadKeepsReferences := by
  unfold Obligations.LeadKeepsReferences
  intro w h g s hleads hheld hup
  have hhears (hrun : s.running w = true) : s.hears w = true := State.hears_of_running hrun hup
  refine ⟨?_, ?_, ?_, ?_, ?_, ?_, recount_begins hleads⟩
  · intro p chunk rid record hrun hepoch hsync
    refine ⟨_, execChunkPut_queued (hhears hrun) hepoch hleads hsync, ?_, State.seeHlc_refs .., State.seeHlc_out ..⟩
    cases w <;> rfl
  · intro p chunk rid record hrun hepoch hrecount hsync hwaits hseen
    have takes : TakesChunk (s.seeHlc w h.hlc) g rid := TakesChunk.seeHlc ⟨hleads, hheld, hrecount, hwaits, hseen⟩
    have hrow := execChunkPut_handled (p := p) (chunk := chunk) (rid := rid) (record := record) (hhears hrun) hepoch hsync
    refine ⟨fun hnew hroom => ⟨_, hrow, ?_⟩, fun e he => ⟨_, hrow, ?_⟩⟩
    · rw [State.doChunkPut_new takes (by rw [State.seeHlc_groupRec]; exact hnew) (by rw [State.seeHlc_groupFull, hroom])]
      obtain ⟨hindex, hpend⟩ := State.placeRecord_enters (s.seeHlc w h.hlc) w h.src g p rid chunk (sliceBytes record 32 32) record
      exact ⟨hindex, hpend⟩
    · exact State.doChunkPut_duplicate takes (by rw [State.seeHlc_holdup, hup]) (by rw [State.seeHlc_groupRec, he])
  · intro stripe off len fp hrun hepoch hg
    subst hg
    obtain ⟨hgone, hlost⟩ := State.doLostReport_loses (s := s.seeHlc w h.hlc) (w := w) (off := off) (len := len) (fp := fp)
      (by rw [State.seeHlc_leads, hleads])
    refine ⟨_, execLostReport_handled (hhears hrun) hepoch, fun e he => hgone e ?_, fun hroom => ?_⟩
    · rw [← State.mirrorGroup_image (s.seeHlc w h.hlc)]
      exact he
    · rw [State.mirrorGroup_keeps.health_eq (by decide)]
      refine hlost ?_
      rw [State.seeHlc_image, State.seeHlc_keeps.health_eq (by decide)]
      exact hroom
  · intro p home seq lwm e x hrun hepoch hrecount hsync hlog hlow hkind hfind hplace hpin
    have hrow := execRefDelta_of_hears (p := p) (home := home) (seq := seq) (lwm := lwm) (ended := false) (entries := [e]) (recount := false)
      (hhears hrun) hepoch hsync
    have hrec := s.seeHlc_groupRec w h.hlc g
    exact ⟨_, hrow, State.doRefDelta_add (by rw [State.seeHlc_leads, hleads]) (by rw [hrec, hheld]) (by rw [hrec, hrecount])
      (by rw [State.seeHlc_holdup, hup]) (by rw [hrec]; exact hlog) (by rw [hrec]; exact hlow) hkind (by rw [hrec, hfind]) hplace hpin⟩
  · intro p chunk rid hrun hepoch
    exact refAnswer_lapses (hhears hrun) hepoch hleads hheld
  · intro p chunk rid x e hx he hasked hold
    exact pendingRefAge_asks hleads hheld hup hx he hasked hold

end Sys2Proof
end
